-- ==== Sys2Proof/Word.lean ====
section
/-!
DEFINITION. Word.lean: the word types of the two worlds of the M9 (spec 00, R8).
-/

namespace Sys2Proof

/-- One byte of the byte world. -/
abbrev Byte := BitVec 8

/-- One word of the word world, 18 bits (R8). -/
abbrev Word18 := BitVec 18

/-- One register of a register page, 32 bits (R12). -/
abbrev Reg32 := BitVec 32

/-- One Winovar general register, 64 bits. -/
abbrev Word64 := BitVec 64

/-- One line of 64 bytes, byte 0 in bits 7:0 (R8). -/
abbrev Line := BitVec 512

end Sys2Proof
end

