-- ==== Sys2Proof/Syntax.lean ====
section
/-!
DEFINITION. Syntax.lean: the names the commands are written with (pages, masters, requests) and the commands
themselves, one constructor per row of the opcode table.
-/

namespace Sys2Proof

/-- A register page (R114). An engine is numbered 16k + e and a mover 8k + m over the whole device, a core 8w + j. -/
inductive Page where
  | ckrs | supv | ferr | mari | lcyc | flts | bist | calb | wake | fabr
  | dom (d : Fin 64) | scs (d : Fin 64)
  | ictl | icp (n : Fin 24)
  | scac | sram | dmc | rmap | dch (ch : Fin 18)
  | wc (w : Fin 3) | wcc (n : Fin 24)
  | nc (k : Fin 32) | nce (e : Fin 512) | ncm (m : Fin 256)
  | pb (b : Fin 16) | pc (n : Fin 256)
  | ln (l : Fin 32) | pce (c : Fin 4) | eth (m : Fin 8) | tylw
  deriving DecidableEq, Repr

/-- A fabric master (R125, R26). -/
inductive Master where
  | core (n : Fin 24)
  | pcie (c : Fin 4)
  | eth (m : Fin 8)
  | scu
  | tyl (m : Fin 16)
  | sysCache
  | engine (e : Fin 512)
  | mover (m : Fin 256)
  deriving DecidableEq, Repr

/-- The service class of a request (R25): 0 RT, 1 LL, 2 BE, 3 BG. -/
abbrev Cls := Fin 4

/-- What a fabric request does, as FERR_E1.OP names it (R123). -/
inductive ReqOp where
  | read | write | fetch | fillAtomic
  deriving DecidableEq, Repr

/-- A request as its master gives it to the fabric: the bytes `addr` to `addr + len - 1`, the byte enables and the data
of a write (byte i of the request in bits 8i+7 to 8i of `data`), and the class the master asks for. `pos` names the one word that an engine's packed write
replaces within its granule (R37). `pid` is the PID of a
PCIe function's binding and the thread number rides in the class only (R26). -/
structure FReq where
  master : Master
  op     : ReqOp
  addr   : Nat
  len    : Nat
  be     : Nat
  data   : Nat
  cls    : Cls
  pid    : Nat
  pos    : Option (Fin 7) := none
  deriving DecidableEq, Repr

/-- Who writes a control word of an engine or a mover: a master through the register page (`lvl` is a core's level), or a thread of an
engine through its word map. -/
inductive CtlSrc where
  | page (m : Master) (lvl : Fin 4)
  | engine (e : Fin 512)
  deriving DecidableEq, Repr

/-- What a source gives to a crossing (R89): an event of a Yo-yo, a value of a twin-sampled crossing, an entry of a FIFO.
(DESIGN CHOICE, log 37) -/
inductive XSrc where
  | event
  | level (v : Nat)
  | entry (v : Nat)
  deriving DecidableEq, Repr

/-- What is completed at a crossing: the round trip of a Yo-yo, that of a twin-sampled crossing after a flush, the reading of a FIFO's
oldest entry. (DESIGN CHOICE, log 37) -/
inductive XDst where
  | event
  | level
  | entry
  deriving DecidableEq, Repr

/-- A function that claims lanes (R469). -/
inductive LaneFn where
  | pcie (c : Fin 4)
  | eth (m : Fin 8)
  | tylwen
  deriving DecidableEq, Repr

/-- What a read of a DRAM line meets (R292): how many of its 72 code symbols are in error, and whether the line comes back from an
address other than the one it was written to. (DESIGN CHOICE, log 5) -/
structure LineErr where
  sym   : Fin 73 := 0
  moved : Bool := false
  deriving DecidableEq, Repr

/-- What the checks of one line find when a core reaches it: parity errors of the system cache on the line and on the victim, the
symbol errors of a DRAM read, corrected and uncorrectable granules of on-chip SRAM with the cycles waited for a bank port, what the
L2 finds (0 nothing, 1 corrected, 2 uncorrectable data, 3 uncorrectable tag), an uncorrectable error of the snoop filter, and parity
errors of the L1 data and instruction caches. (DESIGN CHOICE, log 5) -/
structure LineEnv where
  par  : Bool := false
  vpar : Bool := false
  out  : LineErr := {}
  ce   : BitVec 8 := 0
  ue   : BitVec 8 := 0
  waited : Nat := 0
  l2   : Fin 4 := 0
  filt : Bool := false
  l1   : Bool := false
  l1i  : Bool := false
  deriving DecidableEq, Repr

/-- What an access meets: findings by line address, findings on words of an engine window by window word offset, and the ticks
it waits at a fabric port. What is not listed is good. `cls` is the class that its core asks for (R26), `held` says that a read that
misses the L2 has to wait there, as one of a wrong path does (R240). (DESIGN CHOICE, log 5) -/
structure MemEnv where
  lines  : List (Nat × LineEnv) := []
  words  : List (Nat × Fin 3) := []
  waited : Nat := 0
  cls    : Cls := 1
  held   : Bool := false
  deriving DecidableEq, Repr

/-- How a request comes to ingress: new from its master (`lvl` is a core's level), the one of a number in its master's queue, or the
first register request that waits for a credit (R536) and can enter. -/
inductive Ingress where
  | new (r : FReq) (lvl : Fin 4)
  | posted (id : Nat)
  | reg (env : MemEnv)
  deriving DecidableEq, Repr

/-- What a core does on a wrong path (R239): a load, a fetch, a training step of a predictor (table, pc, what is learned), or any other
instruction. (DESIGN CHOICE, log 5) -/
inductive WrongOp where
  | load (va : Nat)
  | fetch (va : Nat)
  | train (tab : Fin 8) (pc : BitVec 64) (v : Nat)
  | other
  deriving DecidableEq, Repr

/-- A load that is performed ahead of its place in program order (R245): its base register, immediate and size. (DESIGN CHOICE, log 5) -/
structure Ahead where
  reg : Fin 32
  imm : BitVec 16
  len : Fin 9
  deriving DecidableEq, Repr

/-- What a core does around an instruction: what its fetch meets, whether it took a wrong one where its tables predict several next pcs (R234), the
tables its retirement trains (R238), what it executes on a wrong path if one begins here, and younger loads performed ahead of it.
(DESIGN CHOICE, log 5) -/
structure Front where
  env   : MemEnv := {}
  mis   : Bool := false
  train : List (Fin 8) := []
  wrong : List WrongOp := []
  ahead : List Ahead := []
  deriving DecidableEq, Repr

/-- What fills a line of the caches (R241, R252): a load or a fetch at a virtual address, or a prefetch of a line. -/
inductive FillBy where
  | load (va : Nat)
  | fetch (va : Nat)
  | prefetch (la : Nat)
  deriving DecidableEq, Repr

/-- A register of a Winovar core that a debug access names: a general one, a floating-point one, the program counter, a system register. -/
inductive CoreReg where
  | w (r : Fin 32) | f (r : Fin 32) | pc | sys (k : Fin 4096)
  deriving DecidableEq, Repr

/-- A register of a thread that a debug access names. -/
inductive EngReg where
  | n (r : Fin 16) | pc | st | acc (one : Bool) | loop (k part : Fin 3) | m (k : Fin 4) | l (k : Fin 4) | timeLatch
  | retQ (i : Fin 4) | postQ (i : Fin 4)
  deriving DecidableEq, Repr

/-- What an access through MEM_AP acts on (R157, R575): a core, a thread of an engine, or up to 64 bytes of memory; `w` is what a write
carries. -/
inductive ApAt where
  | core (n : Fin 24) (r : CoreReg) (w : Option Nat)
  | eng (e : Fin 512) (t : Fin 4) (r : EngReg) (w : Option Nat)
  | mem (a : BitVec 48) (n : Fin 65) (w : Option Nat) (env : MemEnv)
  deriving DecidableEq, Repr

/-- A field of the fuse shadows that JTAG reaches: every one of R149 but IMAGE_KEY (R157). -/
inductive FuseField where
  | lc | hash (k : Fin 4) | prog | rev | secver | devId
  deriving DecidableEq, Repr

/-- The commands, one constructor per row of the opcode table. -/
inductive Instr where
  | fabricIngress (x : Ingress)
  | fabricCompletion (id : Nat)
  | engineWindowRead (id waited : Nat) (f : List (Nat × Fin 3))
  | engineWindowWrite (id waited : Nat) (f : List (Nat × Fin 3))
  | registerWrite (m : Master) (lvl : Fin 4) (a : BitVec 48) (single : Bool) (v : Reg32) (env : MemEnv)
  | autoWakeDone (env : MemEnv)
  | autoWakeTimeout
  | irqSet (m : Master) (lvl : Fin 4) (p : Page) (v : Reg32)
  | blkLock (m : Master) (lvl : Fin 4) (p : Page)
  | blkSoftReset (m : Master) (lvl : Fin 4) (p : Page)
  | softResetDone (p : Page)
  | srstTimeout (p : Page)
  | ferrPop (m : Master) (lvl : Fin 4)
  | errCntRead (m : Master) (lvl : Fin 4) (p : Page)
  | ferrLostRead (m : Master) (lvl : Fin 4)
  | yoyoEvent (src dst : Page) (x : Fin 16) (v : XSrc)
  | yoyoAck (src dst : Page) (x : Fin 16) (v : XDst)
  | vinIinSample (vin iin : Int) (same : Bool)
  | highTripRestart
  | dipTimeout (same : Bool)
  | railStart
  | railStartTimeout (rail : Fin 8) (same : Bool)
  | railStartRetry
  | vaonStart
  | vaonLoss
  | inputOvercurrent (same : Bool)
  | powerLimitEval
  | clkWreqWrite (m : Master) (lvl : Fin 4) (v : Reg32)
  | bankFault (b : Fin 16)
  | vrSet (rail : Fin 32) (value : Fin 1024)
  | vrEnable (rail : Fin 32) (value : Fin 1024)
  | vrDisable (rail : Fin 32) (value : Fin 1024)
  | vrRead (rail : Fin 32)
  | vrAbort (rail : Fin 32)
  | vrAck (f : BitVec 32) (n : Nat)
  | vrNak (f : BitVec 32) (n : Nat)
  | vrTelemetry (f : BitVec 32)
  | vrTimeout (n : Nat)
  | telemLost
  | vrLinkLost
  | thermalSample (l : List Int) (same : Bool)
  | throttleStep
  | refLost
  | lockLost
  | porstAssert (same : Bool)
  | porstRelease
  | dieResetRelease (straps : List (Fin 8)) (us low : Nat) (defect : Bool)
  | refWaitTimeout
  | rstReq (m : Master) (lvl : Fin 4) (key : BitVec 16)
  | dtLoRead (m : Master) (lvl : Fin 4)
  | bootWrite (slot : BitVec 8) (off : BitVec 24) (len : BitVec 16) (data : List Byte) (crc : BitVec 32)
  | bootStatus (n : Nat)
  | bootClear (body : List Byte) (crc : BitVec 32)
  | bootInfo (n : Nat)
  | bootRelease (body : List Byte) (crc : BitVec 32)
  | bootReservedCmd (cmd : BitVec 8)
  | bootFrameTimeout
  | bootFrameApplied
  | pushAbandon
  | pcieBootWrite (off : BitVec 23) (data : List Byte)
  | pcieBootClear (v : BitVec 32)
  | pcieBootRelease (v : BitVec 32)
  | tylBoot (f : List Byte)
  | imageChoice (us : Nat) (cut : Bool)
  | bootRetryResume
  | fuseReread (bad : Bool)
  | tamperEvent (ix : Fin 3)
  | secureWipeDone
  | scuLockstepMismatch
  | interruptEntry (n : Fin 24) (f : Front)
  | lateArrival (n : Fin 24)
  | storeBus (n : Fin 24) (f : Front)
  | waitEnd (n : Fin 24)
  | wUnalloc (n : Fin 24) (word : BitVec 32) (f : Front)
  | wAdd (n : Fin 24) (d a b : Fin 32) (f : Front)
  | wSub (n : Fin 24) (d a b : Fin 32) (f : Front)
  | wAnd (n : Fin 24) (d a b : Fin 32) (f : Front)
  | wOr (n : Fin 24) (d a b : Fin 32) (f : Front)
  | wXor (n : Fin 24) (d a b : Fin 32) (f : Front)
  | wAndn (n : Fin 24) (d a b : Fin 32) (f : Front)
  | wSll (n : Fin 24) (d a b : Fin 32) (f : Front)
  | wSrl (n : Fin 24) (d a b : Fin 32) (f : Front)
  | wSra (n : Fin 24) (d a b : Fin 32) (f : Front)
  | wRor (n : Fin 24) (d a b : Fin 32) (f : Front)
  | wSlt (n : Fin 24) (d a b : Fin 32) (f : Front)
  | wSltu (n : Fin 24) (d a b : Fin 32) (f : Front)
  | wMin (n : Fin 24) (d a b : Fin 32) (f : Front)
  | wMax (n : Fin 24) (d a b : Fin 32) (f : Front)
  | wMinu (n : Fin 24) (d a b : Fin 32) (f : Front)
  | wMaxu (n : Fin 24) (d a b : Fin 32) (f : Front)
  | wClz (n : Fin 24) (d a : Fin 32) (f : Front)
  | wCtz (n : Fin 24) (d a : Fin 32) (f : Front)
  | wPopc (n : Fin 24) (d a : Fin 32) (f : Front)
  | wAddw (n : Fin 24) (d a b : Fin 32) (f : Front)
  | wSubw (n : Fin 24) (d a b : Fin 32) (f : Front)
  | wSllw (n : Fin 24) (d a b : Fin 32) (f : Front)
  | wSrlw (n : Fin 24) (d a b : Fin 32) (f : Front)
  | wSraw (n : Fin 24) (d a b : Fin 32) (f : Front)
  | wRorw (n : Fin 24) (d a b : Fin 32) (f : Front)
  | wAddi (n : Fin 24) (d a : Fin 32) (imm : BitVec 16) (f : Front)
  | wAddiw (n : Fin 24) (d a : Fin 32) (imm : BitVec 16) (f : Front)
  | wSlti (n : Fin 24) (d a : Fin 32) (imm : BitVec 16) (f : Front)
  | wSltiu (n : Fin 24) (d a : Fin 32) (imm : BitVec 16) (f : Front)
  | wAndi (n : Fin 24) (d a : Fin 32) (imm : BitVec 16) (f : Front)
  | wOri (n : Fin 24) (d a : Fin 32) (imm : BitVec 16) (f : Front)
  | wXori (n : Fin 24) (d a : Fin 32) (imm : BitVec 16) (f : Front)
  | wLui (n : Fin 24) (d : Fin 32) (imm : BitVec 16) (f : Front)
  | wAuipc (n : Fin 24) (d : Fin 32) (imm : BitVec 16) (f : Front)
  | wSlli (n : Fin 24) (d a : Fin 32) (c : Fin 64) (f : Front)
  | wSrli (n : Fin 24) (d a : Fin 32) (c : Fin 64) (f : Front)
  | wSrai (n : Fin 24) (d a : Fin 32) (c : Fin 64) (f : Front)
  | wRori (n : Fin 24) (d a : Fin 32) (c : Fin 64) (f : Front)
  | wSlliw (n : Fin 24) (d a : Fin 32) (c : Fin 64) (f : Front)
  | wSrliw (n : Fin 24) (d a : Fin 32) (c : Fin 64) (f : Front)
  | wSraiw (n : Fin 24) (d a : Fin 32) (c : Fin 64) (f : Front)
  | wMul (n : Fin 24) (d a b : Fin 32) (f : Front)
  | wMulh (n : Fin 24) (d a b : Fin 32) (f : Front)
  | wMulhu (n : Fin 24) (d a b : Fin 32) (f : Front)
  | wMulhsu (n : Fin 24) (d a b : Fin 32) (f : Front)
  | wDiv (n : Fin 24) (d a b : Fin 32) (f : Front)
  | wDivu (n : Fin 24) (d a b : Fin 32) (f : Front)
  | wRem (n : Fin 24) (d a b : Fin 32) (f : Front)
  | wRemu (n : Fin 24) (d a b : Fin 32) (f : Front)
  | wMulw (n : Fin 24) (d a b : Fin 32) (f : Front)
  | wDivw (n : Fin 24) (d a b : Fin 32) (f : Front)
  | wDivuw (n : Fin 24) (d a b : Fin 32) (f : Front)
  | wRemw (n : Fin 24) (d a b : Fin 32) (f : Front)
  | wRemuw (n : Fin 24) (d a b : Fin 32) (f : Front)
  | wLb (n : Fin 24) (d a : Fin 32) (imm : BitVec 16) (env : MemEnv) (f : Front)
  | wLh (n : Fin 24) (d a : Fin 32) (imm : BitVec 16) (env : MemEnv) (f : Front)
  | wLw (n : Fin 24) (d a : Fin 32) (imm : BitVec 16) (env : MemEnv) (f : Front)
  | wLd (n : Fin 24) (d a : Fin 32) (imm : BitVec 16) (env : MemEnv) (f : Front)
  | wLbu (n : Fin 24) (d a : Fin 32) (imm : BitVec 16) (env : MemEnv) (f : Front)
  | wLhu (n : Fin 24) (d a : Fin 32) (imm : BitVec 16) (env : MemEnv) (f : Front)
  | wLwu (n : Fin 24) (d a : Fin 32) (imm : BitVec 16) (env : MemEnv) (f : Front)
  | wSb (n : Fin 24) (d a : Fin 32) (imm : BitVec 16) (env : MemEnv) (f : Front)
  | wSh (n : Fin 24) (d a : Fin 32) (imm : BitVec 16) (env : MemEnv) (f : Front)
  | wSw (n : Fin 24) (d a : Fin 32) (imm : BitVec 16) (env : MemEnv) (f : Front)
  | wSd (n : Fin 24) (d a : Fin 32) (imm : BitVec 16) (env : MemEnv) (f : Front)
  | wFlw (n : Fin 24) (d a : Fin 32) (imm : BitVec 16) (env : MemEnv) (f : Front)
  | wFld (n : Fin 24) (d a : Fin 32) (imm : BitVec 16) (env : MemEnv) (f : Front)
  | wFsw (n : Fin 24) (d a : Fin 32) (imm : BitVec 16) (env : MemEnv) (f : Front)
  | wFsd (n : Fin 24) (d a : Fin 32) (imm : BitVec 16) (env : MemEnv) (f : Front)
  | wLl (n : Fin 24) (d a : Fin 32) (w64 _aq rl : Bool) (env : MemEnv) (f : Front)
  | wSc (n : Fin 24) (d a b : Fin 32) (w64 _aq rl : Bool) (env : MemEnv) (f : Front)
  | wSwap (n : Fin 24) (d a b : Fin 32) (w64 _aq rl : Bool) (env : MemEnv) (f : Front)
  | wAmoadd (n : Fin 24) (d a b : Fin 32) (w64 _aq rl : Bool) (env : MemEnv) (f : Front)
  | wAmoand (n : Fin 24) (d a b : Fin 32) (w64 _aq rl : Bool) (env : MemEnv) (f : Front)
  | wAmoor (n : Fin 24) (d a b : Fin 32) (w64 _aq rl : Bool) (env : MemEnv) (f : Front)
  | wAmomax (n : Fin 24) (d a b : Fin 32) (w64 _aq rl : Bool) (env : MemEnv) (f : Front)
  | wAmomin (n : Fin 24) (d a b : Fin 32) (w64 _aq rl : Bool) (env : MemEnv) (f : Front)
  | wAmomaxu (n : Fin 24) (d a b : Fin 32) (w64 _aq rl : Bool) (env : MemEnv) (f : Front)
  | wAmominu (n : Fin 24) (d a b : Fin 32) (w64 _aq rl : Bool) (env : MemEnv) (f : Front)
  | wBeq (n : Fin 24) (a b : Fin 32) (off : BitVec 16) (f : Front)
  | wBne (n : Fin 24) (a b : Fin 32) (off : BitVec 16) (f : Front)
  | wBlt (n : Fin 24) (a b : Fin 32) (off : BitVec 16) (f : Front)
  | wBge (n : Fin 24) (a b : Fin 32) (off : BitVec 16) (f : Front)
  | wBltu (n : Fin 24) (a b : Fin 32) (off : BitVec 16) (f : Front)
  | wBgeu (n : Fin 24) (a b : Fin 32) (off : BitVec 16) (f : Front)
  | wJ (n : Fin 24) (off : BitVec 26) (f : Front)
  | wJal (n : Fin 24) (off : BitVec 26) (f : Front)
  | wJalr (n : Fin 24) (d a : Fin 32) (imm : BitVec 16) (f : Front)
  | wFadd (n : Fin 24) (d a b : Fin 32) (fmt : Bool) (rm : Fin 8) (f : Front)
  | wFsub (n : Fin 24) (d a b : Fin 32) (fmt : Bool) (rm : Fin 8) (f : Front)
  | wFmul (n : Fin 24) (d a b : Fin 32) (fmt : Bool) (rm : Fin 8) (f : Front)
  | wFdiv (n : Fin 24) (d a b : Fin 32) (fmt : Bool) (rm : Fin 8) (f : Front)
  | wFsqrt (n : Fin 24) (d a : Fin 32) (fmt : Bool) (rm : Fin 8) (f : Front)
  | wFmin (n : Fin 24) (d a b : Fin 32) (fmt : Bool) (f : Front)
  | wFmax (n : Fin 24) (d a b : Fin 32) (fmt : Bool) (f : Front)
  | wFsgn (n : Fin 24) (d a b : Fin 32) (fmt : Bool) (f : Front)
  | wFsgnn (n : Fin 24) (d a b : Fin 32) (fmt : Bool) (f : Front)
  | wFsgnx (n : Fin 24) (d a b : Fin 32) (fmt : Bool) (f : Front)
  | wFeq (n : Fin 24) (d a b : Fin 32) (fmt : Bool) (f : Front)
  | wFlt (n : Fin 24) (d a b : Fin 32) (fmt : Bool) (f : Front)
  | wFle (n : Fin 24) (d a b : Fin 32) (fmt : Bool) (f : Front)
  | wFcvtF (n : Fin 24) (d a : Fin 32) (fmt : Bool) (rm : Fin 8) (f : Front)
  | wFcvtL (n : Fin 24) (d a : Fin 32) (fmt : Bool) (rm : Fin 8) (f : Front)
  | wFcvtLu (n : Fin 24) (d a : Fin 32) (fmt : Bool) (rm : Fin 8) (f : Front)
  | wFcvtW (n : Fin 24) (d a : Fin 32) (fmt : Bool) (rm : Fin 8) (f : Front)
  | wFcvtWu (n : Fin 24) (d a : Fin 32) (fmt : Bool) (rm : Fin 8) (f : Front)
  | wFcvtFl (n : Fin 24) (d a : Fin 32) (fmt : Bool) (rm : Fin 8) (f : Front)
  | wFcvtFlu (n : Fin 24) (d a : Fin 32) (fmt : Bool) (rm : Fin 8) (f : Front)
  | wFcvtFw (n : Fin 24) (d a : Fin 32) (fmt : Bool) (rm : Fin 8) (f : Front)
  | wFcvtFwu (n : Fin 24) (d a : Fin 32) (fmt : Bool) (rm : Fin 8) (f : Front)
  | wFmvX (n : Fin 24) (d a : Fin 32) (fmt : Bool) (f : Front)
  | wFmvF (n : Fin 24) (d a : Fin 32) (fmt : Bool) (f : Front)
  | wFmadd (n : Fin 24) (d a b c : Fin 32) (fmt : Bool) (rm : Fin 8) (f : Front)
  | wFmsub (n : Fin 24) (d a b c : Fin 32) (fmt : Bool) (rm : Fin 8) (f : Front)
  | wFnmsub (n : Fin 24) (d a b c : Fin 32) (fmt : Bool) (rm : Fin 8) (f : Front)
  | wFnmadd (n : Fin 24) (d a b c : Fin 32) (fmt : Bool) (rm : Fin 8) (f : Front)
  | wFence (n : Fin 24) (mask : Fin 16) (env : MemEnv) (f : Front)
  | wCleanPoc (n : Fin 24) (a : Fin 32) (env : MemEnv) (f : Front)
  | wInvPoc (n : Fin 24) (a : Fin 32) (env : MemEnv) (f : Front)
  | wCinvPoc (n : Fin 24) (a : Fin 32) (env : MemEnv) (f : Front)
  | wCleanPou (n : Fin 24) (a : Fin 32) (env : MemEnv) (f : Front)
  | wPack7 (n : Fin 24) (a b : Fin 32) (env : MemEnv) (f : Front)
  | wUnpk7 (n : Fin 24) (a b : Fin 32) (env : MemEnv) (f : Front)
  | wMfs (n : Fin 24) (d : Fin 32) (k : Fin 4096) (f : Front)
  | wMts (n : Fin 24) (a : Fin 32) (k : Fin 4096) (f : Front)
  | wSvc (n : Fin 24) (imm : BitVec 16) (f : Front)
  | wHvc (n : Fin 24) (imm : BitVec 16) (f : Front)
  | wFwc (n : Fin 24) (imm : BitVec 16) (f : Front)
  | wBrk (n : Fin 24) (imm : BitVec 16) (f : Front)
  | wEret (n : Fin 24) (f : Front)
  | wWait (n : Fin 24) (f : Front)
  | wIsync (n : Fin 24) (env : MemEnv) (f : Front)
  | wTsync (n : Fin 24) (f : Front)
  | wTlbiVa (n : Fin 24) (a : Fin 32) (f : Front)
  | wTlbiAsid (n : Fin 24) (f : Front)
  | wTlbiIpa (n : Fin 24) (a : Fin 32) (f : Front)
  | wTlbiDid (n : Fin 24) (a : Fin 32) (f : Front)
  | wTlbiHva (n : Fin 24) (a : Fin 32) (f : Front)
  | wTlbiAll (n : Fin 24) (f : Front)
  | storeCommit (n : Fin 24) (idx : Nat) (env : MemEnv)
  | cacheLineFill (n : Fin 24) (x : FillBy) (env : MemEnv)
  | cacheOpComplete (n : Fin 24) (idx : Nat) (env : MemEnv)
  | l2Scrub (w : Fin 3) (la : Nat) (found : Fin 4)
  | pmuClr (m : Master) (lvl : Fin 4) (n : Fin 24)
  | pmuCounterWrap (n : Fin 24) (ix : Fin 6)
  | specCounterWrap (w : Fin 3) (ix : Fin 2)
  | systemCacheRead (id : Nat) (par vpar : Bool)
  | systemCacheWrite (id : Nat) (par vpar : Bool)
  | scFillReturn (id : Nat)
  | victimAccepted (slot : Nat)
  | scClean (m : Master) (lvl : Fin 4) (incl : Bool)
  | scInv (m : Master) (lvl : Fin 4) (incl : Bool)
  | scCleanInv (m : Master) (lvl : Fin 4) (incl : Bool)
  | scPreload (m : Master) (lvl : Fin 4) (part : Fin 16)
  | wayClean (m : Master) (lvl : Fin 4) (way : Fin 64)
  | wayOff (m : Master) (lvl : Fin 4) (way : Fin 64)
  | wayOn (m : Master) (lvl : Fin 4) (way : Fin 64)
  | scCmdDone (n : Nat) (pars : List Nat)
  | partitionDisable (m : Master) (lvl : Fin 4) (p : Fin 16)
  | partitionCleanDone (p : Fin 16) (pars : List Nat)
  | sramAccess (id waited : Nat) (ce ue : BitVec 8)
  | sramBankStateWrite (m : Master) (lvl : Fin 4) (ix : Fin 4) (v : Reg32)
  | sramBankStateDone (b : Fin 64)
  | confCntRead (m : Master) (lvl : Fin 4) (ix : Fin 8)
  | dramRequest (id : Nat)
  | dramReadComplete (id : Nat) (out : LineErr)
  | dramWriteComplete (id : Nat) (out : LineErr)
  | dramRefresh (pr : Fin 36) (bank : Fin 16)
  | rfmRequest (pr : Fin 36) (bank : Fin 16)
  | driftTracking (ch : Fin 18) (ok : Bool)
  | deviceTempReadout (ch : Fin 18) (temp : BitVec 8) (dev : Fin 3) (outside : Bool)
  | rankPowerDown (pr : Fin 36)
  | deadlineMiss (id : Nat)
  | scrubRead (out : LineErr) (busy : BitVec 32)
  | dramBringup (failed : BitVec 18)
  | rmapWrite (m : Master) (lvl : Fin 4) (l : Fin 32) (v : Reg32)
  | migrationStart
  | migrationCopy (out : LineErr) (busy busySp : BitVec 32)
  | migrationSwitch
  | dmcPstatRead (m : Master) (lvl : Fin 4) (ix : Fin 8)
  | dchCeRead (m : Master) (lvl : Fin 4) (ch : Fin 18)
  | dchUeRead (m : Master) (lvl : Fin 4) (ch : Fin 18)
  | ngUnallocated (e : Fin 512) (t : Fin 4) (x : BitVec 36)
  | ngAdd (e : Fin 512) (t : Fin 4) (f : Bool) (d a b : Fin 16)
  | ngSub (e : Fin 512) (t : Fin 4) (f : Bool) (d a b : Fin 16)
  | ngAdc (e : Fin 512) (t : Fin 4) (f : Bool) (d a b : Fin 16)
  | ngSbc (e : Fin 512) (t : Fin 4) (f : Bool) (d a b : Fin 16)
  | ngAnd (e : Fin 512) (t : Fin 4) (d a b : Fin 16)
  | ngOr (e : Fin 512) (t : Fin 4) (d a b : Fin 16)
  | ngXor (e : Fin 512) (t : Fin 4) (d a b : Fin 16)
  | ngAndn (e : Fin 512) (t : Fin 4) (d a b : Fin 16)
  | ngCmp (e : Fin 512) (t : Fin 4) (a b : Fin 16)
  | ngTst (e : Fin 512) (t : Fin 4) (a b : Fin 16)
  | ngMin (e : Fin 512) (t : Fin 4) (d a b : Fin 16)
  | ngMax (e : Fin 512) (t : Fin 4) (d a b : Fin 16)
  | ngAbs (e : Fin 512) (t : Fin 4) (f : Bool) (d a : Fin 16)
  | ngNeg (e : Fin 512) (t : Fin 4) (f : Bool) (d a : Fin 16)
  | ngNot (e : Fin 512) (t : Fin 4) (d a : Fin 16)
  | ngMov (e : Fin 512) (t : Fin 4) (d a : Fin 16)
  | ngSll (e : Fin 512) (t : Fin 4) (d a b : Fin 16)
  | ngSrl (e : Fin 512) (t : Fin 4) (d a b : Fin 16)
  | ngSra (e : Fin 512) (t : Fin 4) (d a b : Fin 16)
  | ngRor (e : Fin 512) (t : Fin 4) (d a b : Fin 16)
  | ngSlli (e : Fin 512) (t : Fin 4) (d a : Fin 16) (c : Fin 32)
  | ngSrli (e : Fin 512) (t : Fin 4) (d a : Fin 16) (c : Fin 32)
  | ngSrai (e : Fin 512) (t : Fin 4) (d a : Fin 16) (c : Fin 32)
  | ngRori (e : Fin 512) (t : Fin 4) (d a : Fin 16) (c : Fin 32)
  | ngAddi (e : Fin 512) (t : Fin 4) (f : Bool) (d a : Fin 16) (imm : Word18)
  | ngSubi (e : Fin 512) (t : Fin 4) (f : Bool) (d a : Fin 16) (imm : Word18)
  | ngAndi (e : Fin 512) (t : Fin 4) (d a : Fin 16) (imm : Word18)
  | ngOri (e : Fin 512) (t : Fin 4) (d a : Fin 16) (imm : Word18)
  | ngXori (e : Fin 512) (t : Fin 4) (d a : Fin 16) (imm : Word18)
  | ngCmpi (e : Fin 512) (t : Fin 4) (a : Fin 16) (imm : Word18)
  | ngMovi (e : Fin 512) (t : Fin 4) (d : Fin 16) (imm : Word18)
  | ngNop (e : Fin 512) (t : Fin 4)
  | ngMfc (e : Fin 512) (t : Fin 4) (d : Fin 16) (cr : Fin 256)
  | ngMtc (e : Fin 512) (t : Fin 4) (a : Fin 16) (cr : Fin 256)
  | ngPopr (e : Fin 512) (t : Fin 4) (d : Fin 16)
  | ngHalt (e : Fin 512) (t : Fin 4)
  | ngMul (e : Fin 512) (t : Fin 4) (f : Bool) (d a b : Fin 16)
  | ngMulh (e : Fin 512) (t : Fin 4) (d a b : Fin 16)
  | ngMulhu (e : Fin 512) (t : Fin 4) (d a b : Fin 16)
  | ngMulf (e : Fin 512) (t : Fin 4) (f : Bool) (d a b : Fin 16)
  | ngMac2 (e : Fin 512) (t : Fin 4) (f : Bool) (a b c g : Fin 16) (fr n0 n1 : Bool)
  | ngMpy2 (e : Fin 512) (t : Fin 4) (f : Bool) (a b c g : Fin 16) (fr n0 n1 : Bool)
  | ngMacs (e : Fin 512) (t : Fin 4) (f : Bool) (a b c g : Fin 16) (fr n0 n1 : Bool)
  | ngExtr (e : Fin 512) (t : Fin 4) (d : Fin 16) (a : Fin 16) (sh : Fin 64)
  | ngAclr (e : Fin 512) (t : Fin 4) (a : Fin 16)
  | ngAadd (e : Fin 512) (t : Fin 4) (f : Bool) (a : Fin 16)
  | ngAsub (e : Fin 512) (t : Fin 4) (f : Bool) (a : Fin 16)
  | ngDiv0 (e : Fin 512) (t : Fin 4) (d a b : Fin 16)
  | ngDiv0u (e : Fin 512) (t : Fin 4) (d a b : Fin 16)
  | ngDstep (e : Fin 512) (t : Fin 4) (d b : Fin 16)
  | ngDivf (e : Fin 512) (t : Fin 4) (f : Bool) (d : Fin 16)
  | ngLd (e : Fin 512) (t : Fin 4) (d : Fin 16) (mode : Fin 6) (a : Fin 16) (imm : Word18) (ecc : Fin 3)
  | ngLdd (e : Fin 512) (t : Fin 4) (d : Fin 16) (mode : Fin 6) (a : Fin 16) (imm : Word18) (ecc : Fin 3)
  | ngLdq (e : Fin 512) (t : Fin 4) (d : Fin 16) (mode : Fin 6) (a : Fin 16) (imm : Word18) (ecc : Fin 3)
  | ngSt (e : Fin 512) (t : Fin 4) (d : Fin 16) (mode : Fin 6) (a : Fin 16) (imm : Word18)
  | ngStd (e : Fin 512) (t : Fin 4) (d : Fin 16) (mode : Fin 6) (a : Fin 16) (imm : Word18)
  | ngStq (e : Fin 512) (t : Fin 4) (d : Fin 16) (mode : Fin 6) (a : Fin 16) (imm : Word18)
  | ngLdc (e : Fin 512) (t : Fin 4) (d : Fin 16) (mode : Fin 6) (a : Fin 16) (imm : Word18)
  | ngStc (e : Fin 512) (t : Fin 4) (d : Fin 16) (mode : Fin 6) (a : Fin 16) (imm : Word18)
  | ngFrd (e : Fin 512) (t : Fin 4) (mode : Fin 6) (a : Fin 16) (imm : Word18)
  | ngFwr (e : Fin 512) (t : Fin 4) (d : Fin 16) (mode : Fin 6) (a : Fin 16) (imm : Word18)
  | ngPrd (e : Fin 512) (t : Fin 4) (d : Fin 16) (mode : Fin 6) (a : Fin 16) (imm : Word18)
  | ngPwr (e : Fin 512) (t : Fin 4) (d : Fin 16) (mode : Fin 6) (a : Fin 16) (imm : Word18)
  | ngWait (e : Fin 512) (t : Fin 4)
  | ngRete (e : Fin 512) (t : Fin 4)
  | ngSig (e : Fin 512) (t : Fin 4) (g : Fin 16) (src : Fin 64)
  | ngClre (e : Fin 512) (t : Fin 4) (src : Fin 64)
  | ngEdi (e : Fin 512) (t : Fin 4) (d : Fin 16)
  | ngEei (e : Fin 512) (t : Fin 4)
  | ngFbyte (e : Fin 512) (t : Fin 4) (a : Fin 16)
  | ngFhalf (e : Fin 512) (t : Fin 4) (a : Fin 16)
  | ngFword (e : Fin 512) (t : Fin 4) (a : Fin 16)
  | ngFbits (e : Fin 512) (t : Fin 4) (a : Fin 16) (n : Fin 16)
  | ngBr (e : Fin 512) (t : Fin 4) (f : Bool) (cond : Fin 16) (target : Word18)
  | ngBz (e : Fin 512) (t : Fin 4) (f : Bool) (a : Fin 16) (target : Word18)
  | ngBnz (e : Fin 512) (t : Fin 4) (f : Bool) (a : Fin 16) (target : Word18)
  | ngBltz (e : Fin 512) (t : Fin 4) (f : Bool) (a : Fin 16) (target : Word18)
  | ngBgez (e : Fin 512) (t : Fin 4) (f : Bool) (a : Fin 16) (target : Word18)
  | ngBlez (e : Fin 512) (t : Fin 4) (f : Bool) (a : Fin 16) (target : Word18)
  | ngBgtz (e : Fin 512) (t : Fin 4) (f : Bool) (a : Fin 16) (target : Word18)
  | ngCall (e : Fin 512) (t : Fin 4) (d : Fin 16) (target : Word18)
  | ngJr (e : Fin 512) (t : Fin 4) (a : Fin 16)
  | ngJalr (e : Fin 512) (t : Fin 4) (d a : Fin 16)
  | ngLoop (e : Fin 512) (t : Fin 4) (k a : Fin 16) (endA : Word18)
  | threadRun (src : CtlSrc) (e : Fin 512) (t : Fin 4)
  | threadHalt (src : CtlSrc) (e : Fin 512) (t : Fin 4)
  | threadHaltApplied (e : Fin 512) (t : Fin 4)
  | threadStep (src : CtlSrc) (e : Fin 512) (t : Fin 4)
  | eventEntry (e : Fin 512) (t : Fin 4)
  | ngWaitEnd (e : Fin 512) (t : Fin 4)
  | tcmpArm (e : Fin 512) (t : Fin 4) (v : Word18)
  | tcmpDisarm (e : Fin 512) (t : Fin 4) (v : Word18)
  | timeMatch (e : Fin 512) (t : Fin 4)
  | clusterMemoryAccess (e : Fin 512) (t : Fin 4) (ecc : Fin 3)
  | frdCompletion (id : Nat)
  | fwrAccepted (e : Fin 512) (t : Fin 4)
  | moverStart (src : CtlSrc) (x : Fin 256) (f : List (Nat × Fin 3))
  | moverAbort (src : CtlSrc) (x : Fin 256)
  | moverCompletion (id waited : Nat) (f : List (Nat × Fin 3))
  | cvLoad (e : Fin 512) (v : Word18)
  | cvCfgWrite (e : Fin 512) (v : Word18)
  | cmConfRead (m : Master) (lvl : Fin 4) (k : Fin 32) (ix : Fin 9)
  | bankCfgWrite (m : Master) (lvl : Fin 4) (b : Fin 16) (v : Reg32)
  | forceSafe (m : Master) (lvl : Fin 4) (b : Fin 16)
  | bankRailDone (b : Fin 16)
  | landEdge (n : Fin 256) (land level : Bool)
  | rxPop (e : Fin 512) (ix : Fin 8)
  | txPush (e : Fin 512) (ix : Fin 8) (v : Word18)
  | dutyWrite (e : Fin 512) (ix : Fin 8) (v : Word18)
  | capturePop (e : Fin 512) (ix : Fin 8)
  | scheduleStage (e : Fin 512) (ix : Fin 8) (v : Word18)
  | scheduleCommit (e : Fin 512) (ix : Fin 8) (v : Word18)
  | clrCap (e : Fin 512) (ix : Fin 8)
  | clrSch (e : Fin 512) (ix : Fin 8)
  | clrRx (e : Fin 512) (ix : Fin 8)
  | clrTx (e : Fin 512) (ix : Fin 8)
  | cellAbort (e : Fin 512) (ix : Fin 8)
  | leaveSafe (e : Fin 512) (ix : Fin 8)
  | clrErr (e : Fin 512) (ix : Fin 8)
  | bset (e : Fin 512) (ix : Fin 8) (v : Fin 4)
  | stuffc (e : Fin 512) (ix : Fin 8) (v : Fin 4)
  | lva (e : Fin 512) (ix : Fin 8) (v : Fin 8)
  | lvb (e : Fin 512) (ix : Fin 8) (v : Fin 8)
  | repStop (e : Fin 512) (ix : Fin 8)
  | schLow (n : Fin 256) (land : Bool)
  | schHigh (n : Fin 256) (land : Bool)
  | schRelease (n : Fin 256) (land : Bool)
  | schToggle (n : Fin 256) (land : Bool)
  | schStartTx (n : Fin 256)
  | schStartRepeat (n : Fin 256)
  | schStopRepeat (n : Fin 256)
  | schMark (n : Fin 256)
  | repeatPeriod (n : Fin 256)
  | txFrameStart (n : Fin 256)
  | txFrameEnd (n : Fin 256)
  | rxFrameStart (n : Fin 256)
  | rxFrameComplete (n : Fin 256)
  | idleTimeout (n : Fin 256)
  | keepTimeout (n : Fin 256)
  | cellCtrlWrite (m : Master) (lvl : Fin 4) (n : Fin 256) (v : Reg32)
  | capLostRead (m : Master) (lvl : Fin 4) (n : Fin 256)
  | laneClaim (m : Master) (lvl : Fin 4) (x : LaneFn) (v : Reg32)
  | laneRelease (m : Master) (lvl : Fin 4) (x : LaneFn)
  | lanePllLock (q : Fin 8)
  | laneLockLoss (l : Fin 32)
  | pcieLinkUp (c : Fin 4) (width : Fin 4) (gen : Fin 8)
  | pcieLinkDown (c : Fin 4)
  | pcieOutboundRequest (id : Nat)
  | pcieCompletion (c : Fin 4) (id : Nat) (st : Fin 3) (poison : Bool) (data : Nat)
  | pcieCompletionTimeout (c : Fin 4) (id : Nat)
  | pcieInboundRequest (c : Fin 4) (isW : Bool) (key : BitVec 16) (fn : Fin 4) (bar2 : Bool) (addr : BitVec 64) (len : Fin 4097) (data : Nat) (poison : Bool)
  | msi (c : Fin 4) (off : BitVec 12) (len : Fin 513) (data : Nat)
  | ethTxFrame (m : Fin 8) (stamp : BitVec 64) (env : MemEnv)
  | ethRxFrame (m : Fin 8) (f : List Byte) (stamp : BitVec 64) (env : MemEnv)
  | ethLinkChange (m : Fin 8) (up : Bool) (speed : Fin 8)
  | gclGo (m : Master) (lvl : Fin 4) (k : Fin 8) (env : MemEnv)
  | gclTakeover (m : Fin 8)
  | gateEntry (m : Fin 8)
  | cbLoad (m : Master) (lvl : Fin 4) (k : Fin 8) (env : MemEnv)
  | streamResetTimeout (ix : Fin 64)
  | ethStatRead (m : Master) (lvl : Fin 4) (k : Fin 8)
  | ethRxdropRead (m : Master) (lvl : Fin 4) (k : Fin 8)
  | syntNsRead (m : Master) (lvl : Fin 4)
  | syntStep (m : Master) (lvl : Fin 4) (v : Reg32)
  | tylwenLinkUp (width : Fin 3) (prop : List (Fin 4096))
  | tylIdle
  | tylAck (seq : BitVec 8) (nak : Bool)
  | tylCap (m : Fin 16) (ident : BitVec 32) (lo hi : BitVec 8)
  | tylEnum (n : Fin 16)
  | tylTime
  | tylPwr (e : Fin 512) (n : Fin 6)
  | tylPrdReq (id : Nat)
  | tylPrdRsp (id : Nat) (v : Word18)
  | tylEvt (l : List (Fin 16 × Fin 16 × Fin 16 × Bool))
  | tylRegReq (id : Nat)
  | tylRegRsp (id : Nat) (kind : Fin 9) (data : Reg32)
  | regTimeout (id : Nat)
  | memReq (m : Fin 16) (tag op len b7 : BitVec 8) (addr : BitVec 48) (data : BitVec 256) (z : Bool)
  | memRsp (m : Fin 16) (tag : Fin 16)
  | tylReservedFlit
  | flitReplay
  | linkLoss
  | retrain
  | tylAccept (m : Master) (lvl : Fin 4)
  | tylwStatRead (m : Master) (lvl : Fin 4)
  | assertMsg (src : Fin 2048)
  | deassertMsg (src : Fin 2048)
  | edgeMsg (src : Fin 2048)
  | groupHoldExpire (g : Fin 16)
  | sgi (m : Master) (lvl : Fin 4) (n : Fin 24) (v : BitVec 8)
  | icpTcmpArm (m : Master) (lvl : Fin 4) (n : Fin 24) (v : Reg32)
  | icpTcmpDisarm (m : Master) (lvl : Fin 4) (n : Fin 24) (v : Reg32)
  | coreTimerMatch (n : Fin 24)
  | icStatRead (m : Master) (lvl : Fin 4)
  | domCreate (m : Master) (lvl : Fin 4) (d : Fin 64)
  | domReset (m : Master) (lvl : Fin 4) (d : Fin 64)
  | domStart (m : Master) (lvl : Fin 4) (d : Fin 64)
  | domDestroy (m : Master) (lvl : Fin 4) (d : Fin 64)
  | increment (d : Fin 64)
  | drainTimeout (d : Fin 64)
  | resetEnd (d : Fin 64)
  | ownerBind (m : Master) (lvl : Fin 4) (p : Page) (d : Fin 64)
  | domDropRead (m : Master) (lvl : Fin 4) (d : Fin 64)
  | hello (d : Fin 64)
  | scsInfo (d : Fin 64)
  | notices (d : Fin 64)
  | dramState (d : Fin 64)
  | fuseKey (d : Fin 64)
  | fuseRevoke (d : Fin 64)
  | fuseSecver (d : Fin 64)
  | calRead (d : Fin 64) (env : MemEnv)
  | calWrite (d : Fin 64) (env : MemEnv) (cut : Bool)
  | bistRun (d : Fin 64) (env : MemEnv)
  | scsUnknownFunction (d : Fin 64)
  | scsResponse (d : Fin 64)
  | scsTimeout (d : Fin 64)
  | mariNap (m : Master) (lvl : Fin 4) (w : BitVec 3)
  | mariStandby (m : Master) (lvl : Fin 4)
  | mariPark (m : Master) (lvl : Fin 4)
  | mariOff (m : Master) (lvl : Fin 4)
  | mariGrant (env : MemEnv) (pars : List Nat)
  | mariDelay
  | mariRefuse
  | mariSilence
  | mariDelayExceeded
  | mariReady
  | restartFail
  | aonTimerExpire (cycles : Nat) (same : Bool)
  | portWakeEdge (b : Fin 16) (fall : Bool) (cycles : Nat) (same : Bool)
  | wakePortAddress (b : BitVec 8)
  | wakeCmd (cycles : Nat) (same : Bool)
  | wakePing
  | wakePortOtherByte (b : BitVec 8)
  | wakePortStartStop (start : Bool)
  | sclLowTimeout
  | wakeStatRead (m : Master) (lvl : Fin 4)
  | containedFault
  | fatalFault
  | fatalHoldExpire (same : Bool)
  | fltAck (m : Master) (lvl : Fin 4) (key : BitVec 16)
  | scuWatchdogExpire (same : Bool)
  | wdKick (m : Master) (lvl : Fin 4) (k : Fin 8) (key : BitVec 8)
  | wdCfgWrite (m : Master) (lvl : Fin 4) (k : Fin 8) (v : Reg32)
  | wdExpire (k : Fin 8)
  | fltLogPop (m : Master) (lvl : Fin 4)
  | tapReset
  | extest
  | samplePreload (lands load : List Bool)
  | idcode
  | clamp
  | highz
  | memAp (x : Option ApAt)
  | scuAp (x : Option FuseField)
  | bistRead (ix : Fin 8)
  | bypass
  | bistStart (m : Master) (lvl : Fin 4) (v : Reg32) (env : MemEnv)
  | bistRunEnd (misr : BitVec 64) (fails : BitVec 15) (addr : BitVec 48)
  | bistVerdict (sig : Option (BitVec 64))
  | registerRead (m : Master) (lvl : Fin 4) (a : BitVec 48) (single : Bool) (cls : Cls)
  | schedulerChoice (ch : Fin 18) (busy : BitVec 32)
  | referenceAccepted
  | clockAndDataLock (l : Fin 32)
  | preemptionVerification (m : Fin 8) (ok : Bool)
  | clockStretchLimit (n : Fin 256)
  deriving DecidableEq, Repr

end Sys2Proof
end

