-- ==== Sys2Proof/Decode.lean ====
section
/-!
DEFINITION. Decode.lean: commands spelt as words. The M9 is modelled as a block that takes commands, and its opcode table gives no row
any bits, so no word spells a command.
-/

namespace Sys2Proof

/-- The command that a word of `nbits` bits spells by the bits of the opcode table: none, since no row has bits. (DESIGN CHOICE, log 3) -/
def decodeTableWord (_nbits _w : Nat) : Option Instr := none

end Sys2Proof
end

