-- ==== Sys2Proof/Machine/Bits.lean ====
section
/-!
DEFINITION. Machine/Bits.lean: bit fields, sign extension, saturation and byte order (R7, R8, R19), and CRCs.
-/

namespace Sys2Proof.Machine

/-- The field of `n` bits from bit `lo` of a natural number. -/
def bitsN (x lo n : Nat) : Nat := x / 2 ^ lo % 2 ^ n

/-- Bit `i` of a natural number. -/
def bitN (x i : Nat) : Bool := x.testBit i

/-- The field of `n` bits from bit `lo` of a register (R7). -/
def fld {w : Nat} (v : BitVec w) (lo n : Nat) : Nat := v.toNat / 2 ^ lo % 2 ^ n

/-- Bit `i` of a register. -/
def bit {w : Nat} (v : BitVec w) (i : Nat) : Bool := v.getLsbD i

/-- A register with the field of `n` bits from bit `lo` set to `x`. -/
def setFld {w : Nat} (v : BitVec w) (lo n x : Nat) : BitVec w :=
  (v &&& ~~~ BitVec.ofNat w ((2 ^ n - 1) * 2 ^ lo)) ||| BitVec.ofNat w (x % 2 ^ n * 2 ^ lo)

/-- A register with bit `i` set to `x`. -/
def setBit {w : Nat} (v : BitVec w) (i : Nat) (x : Bool) : BitVec w := setFld v i 1 x.toNat

/-- Sum that stops at `top` (the saturating counts of the spec). -/
def satAdd (top a n : Nat) : Nat := min top (a + n)

/-- The signed value of the low `w` bits of `x` (R19, sext). -/
def sextN (w x : Nat) : Int :=
  let y := x % 2 ^ w
  if y < 2 ^ (w - 1) then (y : Int) else (y : Int) - (2 : Int) ^ w

/-- An integer wrapped to `w` bits, two's complement. -/
def wrapN (w : Nat) (z : Int) : Nat := (z % (2 : Int) ^ w).toNat

/-- An integer clamped to the signed range of `w` bits (R19, sat). -/
def satI (w : Nat) (z : Int) : Int :=
  if z > (2 : Int) ^ (w - 1) - 1 then (2 : Int) ^ (w - 1) - 1
  else if z < -(2 : Int) ^ (w - 1) then -(2 : Int) ^ (w - 1)
  else z

/-- `i` as an index below `n`, where it is one. -/
def fin? (n i : Nat) : Option (Fin n) := if h : i < n then some ⟨i, h⟩ else none

/-- The low `n` bits of `x` in the other order. -/
def reflectN (n x : Nat) : Nat :=
  (List.range n).foldl (fun acc i => if x.testBit i then acc + 2 ^ (n - 1 - i) else acc) 0

/-- Bytes of a natural number, least significant first. -/
def bytesOf : Nat → Nat → List Byte
  | 0, _ => []
  | n + 1, x => BitVec.ofNat 8 x :: bytesOf n (x / 256)

/-- A natural number from its bytes, least significant first (R8). -/
def ofBytes : List Byte → Nat
  | [] => 0
  | b :: bs => b.toNat + 256 * ofBytes bs

/-- One byte through the reflected CRC-32 of R130 (polynomial 0x04C11DB7, shifted right as 0xEDB88320). -/
def crc32Byte (crc : Nat) (b : Byte) : Nat :=
  (List.range 8).foldl (fun c _ => if c % 2 = 1 then Nat.xor (c / 2) 0xEDB88320 else c / 2) (Nat.xor crc b.toNat)

/-- The CRC-32 of IEEE 802.3 over a list of bytes (R130). -/
def crc32 (bs : List Byte) : Nat := Nat.xor (bs.foldl crc32Byte 0xFFFFFFFF) 0xFFFFFFFF

end Sys2Proof.Machine
end

