-- ==== Sys2Proof/Machine/Flags.lean ====
section
/-!
DEFINITION. Machine/Flags.lean: the arithmetic of the engines with its flags (R320, R321, R329 to R338): pure functions of the
status word and the operands.
-/

namespace Sys2Proof.Machine

/-- Saturation is on (R321). -/
def satOn (st : Word18) (f : Bool) : Bool := f || bit st 7

/-- Z and N set from a result. -/
def setZN (st r : Word18) : Word18 := setBit (setBit st 0 (decide (r = 0))) 1 (bit r 17)

/-- V set. -/
def setV (st : Word18) (v : Bool) : Word18 := setBit st 3 v

/-- C set. -/
def setC (st : Word18) (c : Bool) : Word18 := setBit st 2 c

/-- S set when `x` holds; it is sticky. -/
def stickS (st : Word18) (x : Bool) : Word18 := if x then setBit st 4 true else st

/-- The signed value of a word. -/
def sx (x : Word18) : Int := x.toInt

/-- A word from an integer, wrapped. -/
def w18 (z : Int) : Word18 := BitVec.ofInt 18 z

/-- add_core of R329: the result and the status word. -/
def addCore (st : Word18) (sat : Bool) (x y : Word18) (cin : Bool) : Word18 × Word18 :=
  let u := x.toNat + y.toNat + cin.toNat
  let z := sx x + sx y + cin.toNat
  let v := decide (z < -(2 : Int) ^ 17) || decide ((2 : Int) ^ 17 - 1 < z)
  let r := if v && sat then w18 (satI 18 z) else BitVec.ofNat 18 u
  (r, setZN (stickS (setV (setC st (decide (2 ^ 18 ≤ u))) v) (v && sat)) r)

/-- ABS of R329: C is unchanged. -/
def absCore (st : Word18) (sat : Bool) (a : Word18) : Word18 × Word18 :=
  if bit a 17 then
    let r := addCore st sat 0 (~~~a) true
    (r.1, setC r.2 (bit st 2))
  else (a, setZN (setV st false) a)

/-- A shift (R331): 0 SLL, 1 SRL, 2 SRA, 3 ROR, by count `c`. -/
def shiftCore (op : Nat) (st a : Word18) (c : Nat) : Word18 × Word18 :=
  let r : Word18 :=
    if op = 0 then (if 18 ≤ c then 0 else a <<< c)
    else if op = 1 then (if 18 ≤ c then 0 else a >>> c)
    else if op = 2 then (if 18 ≤ c then (if bit a 17 then BitVec.allOnes 18 else 0) else a.sshiftRight c)
    else a.rotateRight (c % 18)
  let cy :=
    if op = 3 then (if c % 18 = 0 then bit st 2 else bit r 17)
    else if c = 0 then bit st 2
    else if op = 0 then (if c ≤ 18 then bit a (18 - c) else false)
    else if op = 1 then (if c ≤ 18 then bit a (c - 1) else false)
    else (if c ≤ 17 then bit a (c - 1) else bit a 17)
  (r, setZN (setC st cy) r)

/-- prod of R332: the product and whether it sets S. -/
def prodCore (x y : Word18) (fr : Bool) : Int × Bool :=
  if fr then
    if x = 0o400000 ∧ y = 0o400000 then ((2 : Int) ^ 35 - 1, true) else (2 * (sx x * sx y), false)
  else (sx x * sx y, false)

/-- MUL of R333. -/
def mulCore (st : Word18) (sat : Bool) (a b : Word18) : Word18 × Word18 :=
  let q := (prodCore a b false).1
  let v := decide (satI 18 q ≠ q)
  let r := if v && sat then w18 (satI 18 q) else w18 q
  (r, setZN (stickS (setV st v) (v && sat)) r)

/-- rnd of R335 under RM. -/
def rndCore (st : Word18) (v : Int) (sh : Nat) : Int :=
  if sh = 0 then v
  else
    let m := (2 : Int) ^ sh
    let q := v / m
    let rem := v % m
    let h := (2 : Int) ^ (sh - 1)
    if fld st 5 2 = 0 then q
    else if fld st 5 2 = 1 then q + (if h ≤ rem then 1 else 0)
    else q + (if h < rem ∨ (rem = h ∧ q % 2 = 1) then 1 else 0)

/-- A rounded value clamped to a word (R333 for MULF, R336 for EXTR): V and S when clamped. -/
def clampCore (st : Word18) (x : Int) : Word18 × Word18 :=
  let v := decide (satI 18 x ≠ x)
  let r := w18 (satI 18 x)
  (r, setZN (stickS (setV st v) v) r)

/-- MULF of R333. -/
def mulfCore (st a b : Word18) : Word18 × Word18 :=
  let p := prodCore a b true
  clampCore (stickS st p.2) (rndCore st p.1 18)

/-- acc44 of R334: the accumulator and whether it clamps or wraps. -/
def acc44 (sat : Bool) (x : Int) : BitVec 44 × Bool :=
  let v := decide (satI 44 x ≠ x)
  (if v && sat then BitVec.ofInt 44 (satI 44 x) else BitVec.ofInt 44 x, v)

/-- The unsigned magnitude of a word (R337). -/
def abs18 (x : Word18) : Nat := (sx x).natAbs

/-- DIV0 and DIV0U of R337: the pair and the status word. -/
def div0Core (st : Word18) (uns : Bool) (a b : Word18) : Word18 × Word18 × Word18 :=
  let st := setBit (setBit st 11 uns) 10 (decide (b = 0))
  let st := setBit (setBit st 8 (!uns && (bit a 17 != bit b 17))) 9 (!uns && bit a 17)
  (0, (if uns then a else BitVec.ofNat 18 (abs18 a)), st)

/-- DSTEP of R337. -/
def dstepCore (st rem quo b : Word18) : Word18 × Word18 :=
  let dv := if bit st 11 then b.toNat else abs18 b
  let t := 2 * rem.toNat + (bit quo 17).toNat
  let q := quo <<< 1
  if dv ≤ t then (BitVec.ofNat 18 (t - dv), setBit q 0 true) else (BitVec.ofNat 18 t, q)

/-- DIVF of R337: n(d), n(d + 1) and the status word. -/
def divfCore (st : Word18) (sat : Bool) (rem quo : Word18) : Word18 × Word18 × Word18 :=
  let st := setC st false
  if bit st 10 then
    (BitVec.allOnes 18, (if bit st 9 then -rem else rem), setZN (setV st true) (BitVec.allOnes 18))
  else
    let qv : Int := if bit st 8 then -(quo.toNat : Int) else quo.toNat
    let rv : Int := if bit st 9 then -(rem.toNat : Int) else rem.toNat
    if !bit st 11 && decide ((2 : Int) ^ 17 - 1 < qv) then
      let r : Word18 := if sat then 0o377777 else 0o400000
      (r, w18 rv, setZN (stickS (setV st true) sat) r)
    else (w18 qv, w18 rv, setZN (setV st false) (w18 qv))

/-- The condition of BR (R352). -/
def brCond (st : Word18) (c : Fin 16) : Bool :=
  let z := bit st 0
  let n := bit st 1
  let cy := bit st 2
  let v := bit st 3
  match c.val with
  | 0 => z
  | 1 => !z
  | 2 => n != v
  | 3 => n == v
  | 4 => z || (n != v)
  | 5 => !z && (n == v)
  | 6 => !cy
  | 7 => cy
  | 8 => !cy || z
  | 9 => cy && !z
  | 10 => n
  | 11 => !n
  | 12 => v
  | 13 => !v
  | 14 => bit st 4
  | _ => true

end Sys2Proof.Machine
end

