-- ==== Sys2Proof/Config.lean ====
section
/-!
DEFINITION. Config.lean: what the spec leaves open. Every constant here is opaque: no proof can see its value.
-/

namespace Sys2Proof

/-- The k-th value that the spec leaves undefined after an instruction; the step that uses one advances `State.freeCtr`. -/
opaque Config.free : Nat → Nat

/-- What a memory cell reads as that nothing has written since the last reset that lost its contents (R97): the count of
such resets, the memory (a number per memory) and the cell. -/
opaque Config.undefMem : Nat → Nat → Nat → Nat

/-- The entries an asynchronous FIFO holds beyond the 8 that R93 requires. -/
opaque Config.fifoMore : Nat → Nat

/-- The scrambled index of a predictor entry in its table, from the predictor key, the pc and the branch history (R237): how they are
scrambled is not stated. (log 85) -/
opaque Config.predIndex : Nat → Nat → Nat → List Bool → Nat

/-- The scrambled partial tag of a predictor entry, of 12 bits (R237). (log 85) -/
opaque Config.predTag : Nat → Nat → Nat → List Bool → BitVec 12

/-- The entries of a tagged table of the direction predictor, which R235 does not give, less one. (log 85) -/
opaque Config.predTagged : Nat

/-- The 56 payload bytes of a flit whose layout R492 leaves open, as a number, by TYPE and what the flit carries. (log 71) -/
opaque Config.flitBody : Nat → List Nat → Nat

/-- The default PCIe identity held in the Sage ROM (R580): Vendor, Device and Subsystem IDs, 16 bits each. -/
opaque Config.romPcieId : Nat

/-- The KH of the test key, held in the Sage ROM (R140). -/
opaque Config.testKeyHash : Nat

end Sys2Proof
end

