-- ==== Sys2Proof/Machine/RegTable.lean ====
section
/-!
DEFINITION. Machine/RegTable.lean: where every register page lies (R114, R115), the registers of every page with their
reset values and the access of their fields (R12 to R14; the tables of each chapter), and BLK_CAP (R588).
-/

namespace Sys2Proof.Machine

/-- A register, or a run of `count` registers `stride` bytes apart: offset, reset value, and the masks of its fields by
access code (R14). Bits in no mask are RO or reserved. -/
structure RegInfo where
  off    : Nat
  stride : Nat := 4
  count  : Nat := 1
  reset  : Nat := 0
  rw     : Nat := 0
  rwh    : Nat := 0
  w1c    : Nat := 0
  w1s    : Nat := 0
  wo     : Nat := 0
  rc     : Nat := 0
  deriving DecidableEq, Repr

/-- Block-specific registers of the CKRS pages. -/
def regsCkrs : List RegInfo :=
  [{ off := 0x040, reset := 0x2A3, w1c := 0x30000 },
    { off := 0x044, reset := 0x2A, rwh := 0x3F },
    { off := 0x048 },
    { off := 0x04C },
    { off := 0x050 },
    { off := 0x054, wo := 0xFFFF }]

/-- Block-specific registers of the SUPV pages. -/
def regsSupv : List RegInfo :=
  [{ off := 0x040 },
    { off := 0x044, w1c := 0x3F0000 },
    { off := 0x048 }]

/-- Block-specific registers of the FERR pages. -/
def regsFerr : List RegInfo :=
  [{ off := 0x040, w1c := 0x40 },
    { off := 0x044, wo := 0x1 },
    { off := 0x048 },
    { off := 0x04C },
    { off := 0x050 },
    { off := 0x054 },
    { off := 0x058, rc := 0xFFFF }]

/-- Block-specific registers of the MARI pages. -/
def regsMari : List RegInfo :=
  [{ off := 0x040, wo := 0x77 },
    { off := 0x044 },
    { off := 0x048, rw := 0xFFFF0007 },
    { off := 0x04C, rw := 0xFFFF },
    { off := 0x050, rw := 0xFFFFFFFF },
    { off := 0x054, rw := 0xFFFFFFFF },
    { off := 0x058, rw := 0xFFFF },
    { off := 0x05C, rw := 0xFFFFFF },
    { off := 0x060 }]

/-- Block-specific registers of the LCYC pages. -/
def regsLcyc : List RegInfo :=
  [{ off := 0x040 },
    { off := 0x044 },
    { off := 0x048 },
    { off := 0x04C },
    { off := 0x050 },
    { off := 0x054 },
    { off := 0x058 },
    { off := 0x05C },
    { off := 0x060, w1c := 0x7 }]

/-- Block-specific registers of the FLTS pages. -/
def regsFlts : List RegInfo :=
  [{ off := 0x040 },
    { off := 0x044, wo := 0xFFFF },
    { off := 0x048, reset := 0x1, rw := 0xFF },
    { off := 0x050, stride := 4, count := 4, rw := 0xFFFFFFFF },
    { off := 0x060, stride := 8, count := 8, rw := 0x3FFFFF },
    { off := 0x064, stride := 8, count := 8, wo := 0xFF },
    { off := 0x0A0, w1c := 0x20 },
    { off := 0x0A4, wo := 0x1 },
    { off := 0x0A8 },
    { off := 0x0AC },
    { off := 0x0B0 },
    { off := 0x0B4 }]

/-- Block-specific registers of the BIST pages. -/
def regsBist : List RegInfo :=
  [{ off := 0x040, wo := 0x1FFF },
    { off := 0x044 },
    { off := 0x048, stride := 4, count := 2 },
    { off := 0x050, stride := 4, count := 2 },
    { off := 0x058, rw := 0x3 }]

/-- Block-specific registers of the CALB pages. -/
def regsCalb : List RegInfo :=
  [{ off := 0x040 },
    { off := 0x044 },
    { off := 0x048 }]

/-- Block-specific registers of the WAKE pages. -/
def regsWake : List RegInfo :=
  [{ off := 0x040, rw := 0xFF },
    { off := 0x044, rc := 0xFF00 },
    { off := 0x400, stride := 4, count := 256, rw := 0xFFFFFFFF }]

/-- Block-specific registers of the FABR pages. -/
def regsFabr : List RegInfo :=
  [{ off := 0x040, reset := 0x4000800 },
    { off := 0x044, stride := 4, count := 2 }]

/-- Block-specific registers of the DOMdd pages. -/
def regsDom : List RegInfo :=
  [{ off := 0x040, wo := 0x7 },
    { off := 0x044 },
    { off := 0x048, rw := 0xFFFFFFFF },
    { off := 0x04C, rw := 0xFFFF },
    { off := 0x050, reset := 0xFF, rw := 0xFF },
    { off := 0x054, rw := 0xFFF },
    { off := 0x058 },
    { off := 0x05C, rw := 0x7FF },
    { off := 0x060 },
    { off := 0x064, rc := 0xFFFFFFFF },
    { off := 0x080, stride := 8, count := 8, rw := 0xFFFFF1F7 },
    { off := 0x084, stride := 8, count := 8, rw := 0xFFFF }]

/-- Block-specific registers of the SCSdd pages. -/
def regsScs : List RegInfo :=
  [{ off := 0x040, wo := 0xFFFF },
    { off := 0x044, reset := 0x1000000 },
    { off := 0x060, stride := 4, count := 8, rw := 0xFFFFFFFF },
    { off := 0x080, stride := 4, count := 8 }]

/-- Block-specific registers of the ICTL pages. -/
def regsIctl : List RegInfo :=
  [{ off := 0x040, rw := 0x7FF },
    { off := 0x044, rwh := 0x7FFF },
    { off := 0x048, rc := 0xFFFFFFFF },
    { off := 0x084, stride := 4, count := 15, rw := 0xFFFFFF },
    { off := 0x100, stride := 4, count := 64, rw := 0x3F }]

/-- Block-specific registers of the ICPn pages. -/
def regsIcp : List RegInfo :=
  [{ off := 0x040 },
    { off := 0x044, stride := 4, count := 2 },
    { off := 0x04C, wo := 0xFF },
    { off := 0x050, stride := 4, count := 2, rw := 0xFFFFFFFF },
    { off := 0x060, rw := 0x1F },
    { off := 0x064, rw := 0x1F, w1c := 0x20 },
    { off := 0x068, rwh := 0x1F, w1c := 0x20 },
    { off := 0x070, rw := 0x1F, w1c := 0x20 },
    { off := 0x074, rw := 0x1F, w1c := 0x20 },
    { off := 0x078, rw := 0x1F, w1c := 0x20 },
    { off := 0x07C, rw := 0x1F, w1c := 0x20 },
    { off := 0x080, rw := 0x1F, w1c := 0x20 },
    { off := 0x084, rw := 0x1F, w1c := 0x20 },
    { off := 0x088, rw := 0x1F, w1c := 0x20 },
    { off := 0x08C, rw := 0x1F, w1c := 0x20 },
    { off := 0x100, stride := 4, count := 64, rw := 0xFFFFFFFF },
    { off := 0x200, stride := 4, count := 64, w1c := 0xFFFFFFFF },
    { off := 0x300, stride := 4, count := 64, w1c := 0xFFFFFFFF },
    { off := 0x400, stride := 4, count := 64, rw := 0xFFFFFFFF }]

/-- Block-specific registers of the SCAC pages. -/
def regsScac : List RegInfo :=
  [{ off := 0x040, wo := 0xF3F1F },
    { off := 0x044, rw := 0xFFFFFFFF },
    { off := 0x048, rw := 0x3FF },
    { off := 0x04C, rw := 0xFFFFFFFF },
    { off := 0x050 },
    { off := 0x054 },
    { off := 0x058, reset := 0xFFFFFFFF },
    { off := 0x05C, reset := 0xFFFF },
    { off := 0x060, reset := 0xFFFFFFFF },
    { off := 0x064, reset := 0xFFFF },
    { off := 0x068, rw := 0xFFFFFFFF },
    { off := 0x06C, rw := 0xFFFF },
    { off := 0x080, stride := 8, count := 16, rw := 0xFFFFFFFF },
    { off := 0x084, stride := 8, count := 16, rw := 0x1FFFF },
    { off := 0x100, stride := 4, count := 16, rw := 0x3F3F3F3F }]

/-- Block-specific registers of the SRAM pages. -/
def regsSram : List RegInfo :=
  [{ off := 0x040, stride := 4, count := 4, rw := 0xFFFFFFFF },
    { off := 0x060, stride := 8, count := 8, rw := 0x807F03FF },
    { off := 0x064, stride := 8, count := 8, rc := 0xFFFFFFFF }]

/-- Block-specific registers of the DMC pages. -/
def regsDmc : List RegInfo :=
  [{ off := 0x040, reset := 0x8 },
    { off := 0x044, reset := 0x1, rw := 0x1 },
    { off := 0x048, reset := 0x19000A0, rw := 0xFFFFFFFF },
    { off := 0x04C, reset := 0x19000640, rw := 0xFFFFFFFF },
    { off := 0x050, reset := 0x18, rw := 0xFF },
    { off := 0x054, reset := 0x10, rw := 0xFFFF },
    { off := 0x058 },
    { off := 0x060, stride := 4, count := 8, reset := 0x2030, rw := 0xFFFBF3F },
    { off := 0x080, stride := 4, count := 8, rc := 0xFFFF0000 }]

/-- Block-specific registers of the RMAP pages. -/
def regsRmap : List RegInfo :=
  [{ off := 0x040, stride := 4, count := 32, rw := 0x3F },
    { off := 0x0C0 },
    { off := 0x0C4 },
    { off := 0x0C8 }]

/-- Block-specific registers of the DCHch pages. -/
def regsDch : List RegInfo :=
  [{ off := 0x040 },
    { off := 0x044, rc := 0xFFFFFFFF },
    { off := 0x048, rc := 0xFFFFFFFF }]

/-- Block-specific registers of the WCw pages. -/
def regsWc : List RegInfo :=
  [{ off := 0x040, stride := 4, count := 2, rw := 0xF07 },
    { off := 0x048, stride := 4, count := 2, rw := 0xFFFFFFFF }]

/-- Block-specific registers of the WCwCj pages. -/
def regsWcc : List RegInfo :=
  [{ off := 0x040, rw := 0x301, rwh := 0x400, wo := 0x2 },
    { off := 0x044, stride := 4, count := 4, rw := 0x33F, rwh := 0x400 },
    { off := 0x060, stride := 4, count := 6, rw := 0xFFFFFFFF }]

/-- Block-specific registers of the NCkk pages. -/
def regsNc : List RegInfo :=
  [{ off := 0x040, rw := 0xF0F },
    { off := 0x044, stride := 4, count := 8, rw := 0x3F3F3F3F },
    { off := 0x080, stride := 4, count := 8, rc := 0xFFFFFFFF },
    { off := 0x0A0, rc := 0xFFFFFFFF }]

/-- Block-specific registers of the NCkkEee pages. -/
def regsNce : List RegInfo :=
  [{ off := 0x040, stride := 16, count := 4, w1s := 0x7 },
    { off := 0x044, stride := 16, count := 4 },
    { off := 0x048, stride := 16, count := 4, rw := 0x3FFFF },
    { off := 0x04C, stride := 16, count := 4 },
    { off := 0x080, rw := 0x3 },
    { off := 0x0F0, rwh := 0x3FFF }]

/-- Block-specific registers of the NCkkMm pages. -/
def regsNcm : List RegInfo :=
  [{ off := 0x040, rw := 0x3FFFF },
    { off := 0x044, rw := 0x3FFF },
    { off := 0x048, rw := 0x3FFFF },
    { off := 0x04C, rw := 0x3FFFF },
    { off := 0x050, rw := 0x3FFF },
    { off := 0x054, rw := 0x3F },
    { off := 0x058, w1s := 0x3 },
    { off := 0x05C },
    { off := 0x0F0, rwh := 0x3FFF }]

/-- Block-specific registers of the PBbb pages. (DEDUCED, log 13) -/
def regsPb : List RegInfo :=
  [{ off := 0x040, rw := 0x7 },
    { off := 0x044 },
    { off := 0x080, stride := 8, count := 3, reset := 0x40000, rw := 0xFFF7FF },
    { off := 0x084, stride := 8, count := 3, rw := 0x3F },
    { off := 0x100, stride := 4, count := 48, rw := 0x1FFFF }]

/-- Block-specific registers of the PCnnn pages. -/
def regsPc : List RegInfo :=
  [{ off := 0x040, rw := 0xFFFFD, wo := 0x2 },
    { off := 0x044, stride := 4, count := 2, rw := 0x7FFFFFFF },
    { off := 0x04C, rw := 0xFFFFFFFF },
    { off := 0x050, stride := 4, count := 2, reset := 0x10, rw := 0xFFFFFFF },
    { off := 0x058, stride := 4, count := 2, reset := 0x8, rw := 0xFFFFFF },
    { off := 0x060, rw := 0x1F1F },
    { off := 0x064, reset := 0x100, rw := 0xFFFFFF },
    { off := 0x068 },
    { off := 0x06C, w1c := 0x7FFF },
    { off := 0x070, rc := 0xFFFF }]

/-- Block-specific registers of the LNxx pages. -/
def regsLn : List RegInfo :=
  [{ off := 0x040, rw := 0xFF },
    { off := 0x044, reset := 0x40 }]

/-- Block-specific registers of the PCEc pages. -/
def regsPce : List RegInfo :=
  [{ off := 0x040, reset := 0x450, rw := 0x7FF },
    { off := 0x044 },
    { off := 0x048, rw := 0x3FFFFFFF },
    { off := 0x080, stride := 4, count := 16, rwh := 0x7FFFFFFF },
    { off := 0x0C0, stride := 8, count := 4, rw := 0xFFFFF01F },
    { off := 0x0C4, stride := 8, count := 4, rw := 0xFFFF }]

/-- Block-specific registers of the ETHm pages. -/
def regsEth : List RegInfo :=
  [{ off := 0x040, rw := 0x3FFFF },
    { off := 0x044, rc := 0xFFFF0000 },
    { off := 0x048, rw := 0x7FFFFFFF },
    { off := 0x080, stride := 4, count := 8, rw := 0xFF00FF },
    { off := 0x0A0, rw := 0x7FFC, wo := 0x3 },
    { off := 0x0A4, rc := 0xFFFFFFFF },
    { off := 0x0F0, rwh := 0x3FFF }]

/-- Block-specific registers of the TYLW pages. -/
def regsTylw : List RegInfo :=
  [{ off := 0x040, rw := 0xF, wo := 0x10 },
    { off := 0x044, rc := 0xFFFF0000 },
    { off := 0x080 },
    { off := 0x084, rw := 0xFFFFFFFF },
    { off := 0x088, rw := 0x7FFFFF },
    { off := 0x08C, wo := 0xFFFFFFFF },
    { off := 0x0C4, stride := 4, count := 15 },
    { off := 0x104, stride := 4, count := 15, rw := 0x13F }]

/-- The registers of the common header that every page has with one reset value (R116 to R119). BLK_ID, BLK_CAP and
BLK_STAT are computed when they are read; offsets 0x01C and 0x038 to 0x03F are unimplemented. -/
def regsHeader : List RegInfo :=
  [{ off := 0x000 }, { off := 0x004 },
    { off := 0x008, rw := 0x5, w1s := 0x8, wo := 0x2 },
    { off := 0x00C, reset := 0x4 },
    { off := 0x010, w1c := 0xFFFFFFFF },
    { off := 0x014, rw := 0xFFFFFFFF },
    { off := 0x018, w1s := 0xFFFFFFFF },
    { off := 0x020, w1c := 0x7 },
    { off := 0x024 }, { off := 0x028 },
    { off := 0x02C, rc := 0xFFFFFFFF },
    { off := 0x030, rwh := 0x3F },
    { off := 0x034 }]

/-- The block-specific registers of a page. -/
def pageRegs : Page → List RegInfo
  | .ckrs => regsCkrs | .supv => regsSupv | .ferr => regsFerr | .mari => regsMari | .lcyc => regsLcyc
  | .flts => regsFlts | .bist => regsBist | .calb => regsCalb | .wake => regsWake | .fabr => regsFabr
  | .dom _ => regsDom | .scs _ => regsScs | .ictl => regsIctl | .icp _ => regsIcp
  | .scac => regsScac | .sram => regsSram | .dmc => regsDmc | .rmap => regsRmap | .dch _ => regsDch
  | .wc _ => regsWc | .wcc _ => regsWcc | .nc _ => regsNc | .nce _ => regsNce | .ncm _ => regsNcm
  | .pb _ => regsPb | .pc _ => regsPc | .ln _ => regsLn | .pce _ => regsPce | .eth _ => regsEth | .tylw => regsTylw

/-- The register that a list of registers has at an offset. -/
def findReg (l : List RegInfo) (off : Nat) : Option RegInfo :=
  l.find? fun r => decide (r.off ≤ off) && decide ((off - r.off) % r.stride = 0) && decide ((off - r.off) / r.stride < r.count)

/-- The register at an offset of a page; none where the offset is unimplemented. -/
def regInfo (p : Page) (off : Nat) : Option RegInfo :=
  if off < 0x040 then findReg regsHeader off else findReg (pageRegs p) off

/-- The byte address of a page (R114). -/
def pageAddr : Page → Nat
  | .ckrs => 0x10000000 | .supv => 0x10001000 | .ferr => 0x10002000 | .mari => 0x10003000 | .lcyc => 0x10004000
  | .flts => 0x10005000 | .bist => 0x10006000 | .calb => 0x10007000 | .wake => 0x10008000 | .fabr => 0x10009000
  | .dom d => 0x10010000 + d * 0x1000
  | .scs d => 0x10050000 + d * 0x1000
  | .ictl => 0x10090000
  | .icp n => 0x10091000 + n * 0x1000
  | .scac => 0x100E0000 | .sram => 0x100E1000 | .dmc => 0x100B0000 | .rmap => 0x100B1000
  | .dch ch => 0x100C0000 + ch * 0x1000
  | .wc w => 0x10100000 + w * 0x10000
  | .wcc n => 0x10100000 + n.val / 8 * 0x10000 + 0x1000 * (n.val % 8 + 1)
  | .nc k => 0x11000000 + k * 0x20000
  | .nce e => 0x11000000 + e.val / 16 * 0x20000 + 0x1000 * (e.val % 16 + 1)
  | .ncm m => 0x11000000 + m.val / 8 * 0x20000 + 0x11000 + 0x1000 * (m.val % 8)
  | .pb b => 0x12000000 + b * 0x1000
  | .pc n => 0x12010000 + n * 0x1000
  | .ln l => 0x13000000 + l * 0x1000
  | .pce c => 0x13020000 + c * 0x1000
  | .eth m => 0x13030000 + m * 0x1000
  | .tylw => 0x13040000

/-- Slots counted from `base` on, `n` of them, as pages. -/
def slotIn (base n slot : Nat) (f : Fin n → Page) : Option Page :=
  if base ≤ slot then (fin? n (slot - base)).map f else none

/-- The page in a slot of 4 KiB of the register region, slot 0 at 0x0000_1000_0000 (R114). -/
def pageOfSlot (slot : Nat) : Option Page :=
  if slot < 0x10 then
    [Page.ckrs, .supv, .ferr, .mari, .lcyc, .flts, .bist, .calb, .wake, .fabr][slot]?
  else if slot < 0x50 then slotIn 0x10 64 slot .dom
  else if slot < 0x90 then slotIn 0x50 64 slot .scs
  else if slot = 0x90 then some .ictl
  else if slot < 0xB0 then slotIn 0x91 24 slot .icp
  else if slot = 0xB0 then some .dmc
  else if slot = 0xB1 then some .rmap
  else if slot < 0xE0 then slotIn 0xC0 18 slot .dch
  else if slot = 0xE0 then some .scac
  else if slot = 0xE1 then some .sram
  else if 0x100 ≤ slot ∧ slot < 0x130 then
    (fin? 3 ((slot - 0x100) / 16)).bind fun w =>
      let x := slot % 16
      if x = 0 then some (.wc w) else if x ≤ 8 then (fin? 24 (8 * w + (x - 1))).map .wcc else none
  else if 0x1000 ≤ slot ∧ slot < 0x1400 then
    (fin? 32 ((slot - 0x1000) / 32)).bind fun k =>
      let x := slot % 32
      if x = 0 then some (.nc k)
      else if x ≤ 16 then (fin? 512 (16 * k + (x - 1))).map .nce
      else if x < 25 then (fin? 256 (8 * k + (x - 17))).map .ncm
      else none
  else if slot < 0x2010 then slotIn 0x2000 16 slot .pb
  else if slot < 0x2110 then slotIn 0x2010 256 slot .pc
  else if slot < 0x3020 then slotIn 0x3000 32 slot .ln
  else if slot < 0x3024 then slotIn 0x3020 4 slot .pce
  else if slot < 0x3038 then slotIn 0x3030 8 slot .eth
  else if slot = 0x3040 then some .tylw
  else none

/-- The page that holds a byte address (R114). -/
def pageOfAddr (a : Nat) : Option Page :=
  if 0x10000000 ≤ a ∧ a < 0x18000000 then pageOfSlot ((a - 0x10000000) / 0x1000) else none

/-- TYPE of BLK_ID (R114). -/
def pageType : Page → Nat
  | .ckrs => 0x001 | .supv => 0x002 | .ferr => 0x003 | .mari => 0x004 | .lcyc => 0x005 | .flts => 0x006
  | .bist => 0x007 | .calb => 0x008 | .wake => 0x009 | .fabr => 0x00A | .dom _ => 0x010 | .scs _ => 0x011
  | .ictl => 0x020 | .icp _ => 0x021 | .scac => 0x030 | .sram => 0x031 | .dmc => 0x040 | .rmap => 0x042
  | .dch _ => 0x041 | .wc _ => 0x050 | .wcc _ => 0x051 | .nc _ => 0x060 | .nce _ => 0x061 | .ncm _ => 0x062
  | .pb _ => 0x070 | .pc _ => 0x071 | .ln _ => 0x080 | .pce _ => 0x081 | .eth _ => 0x082 | .tylw => 0x083

/-- INSTANCE of BLK_ID: the number in the page name; for engine and mover pages e or m alone, and for a core page, whose
name is WCwCj, j alone (R115). -/
def pageInst : Page → Nat
  | .dom d => d | .scs d => d | .icp n => n | .dch ch => ch | .wc w => w | .wcc n => n.val % 8
  | .nc k => k | .nce e => e.val % 16 | .ncm m => m.val % 8 | .pb b => b | .pc n => n | .ln l => l
  | .pce c => c | .eth m => m | _ => 0

/-- The pages whose OWNER can be written (R114). -/
def bindable : Page → Bool
  | .scs _ | .icp _ | .wcc _ | .nce _ | .ncm _ | .pc _ | .pce _ | .eth _ => true
  | _ => false

/-- BLK_CAP.AW (R588). -/
def capAW : Page → Bool
  | .wc _ | .wcc _ => true
  | _ => false

/-- BLK_CAP.SR (R588). -/
def capSR : Page → Bool
  | .nce _ | .ncm _ | .pc _ | .pce _ | .eth _ => true
  | _ => false

/-- BLK_CAP.IRQ (R588). -/
def capIRQ : Page → Bool
  | .icp _ => false
  | _ => true

/-- BLK_CAP.WAKE_TIME in µs (R588). -/
def wakeTime : Page → Nat
  | .wc _ | .wcc _ => 80
  | _ => 0

/-- BLK_ID of a page (R4, R115, R116). -/
def blkId (p : Page) : Nat := 0xB0 + 0x1 * 2 ^ 8 + pageInst p * 2 ^ 12 + pageType p * 2 ^ 20

/-- BLK_CAP of a page (R588). -/
def blkCap (p : Page) : Nat :=
  (capAW p).toNat + 2 * (capSR p).toNat + 4 * (capIRQ p).toNat + wakeTime p * 2 ^ 8

/-- The reset value of the register at an offset of a page. RMAP_Ln resets to its own logical rank (R315), DOM00 reads
RUNNING (R545). (DESIGN CHOICE, log 10) (DEDUCED, log 13) -/
def pageReset (p : Page) (off : Nat) : Nat :=
  match p, off with
  | p, 0x000 => blkId p
  | p, 0x004 => blkCap p
  | .dom d, 0x044 => if d = 0 then 2 else 0
  | .rmap, o => if 0x040 ≤ o ∧ o < 0x0C0 then (o - 0x040) / 4 / 2 + 0x20 * ((o - 0x040) / 4 % 2)
                else ((regInfo p o).map RegInfo.reset).getD 0
  | p, o => ((regInfo p o).map RegInfo.reset).getD 0

/-- What the register at a byte address holds at reset. (DESIGN CHOICE, log 10) -/
def regResetAt (a : Nat) : Reg32 :=
  match pageOfAddr a with
  | some p => BitVec.ofNat 32 (pageReset p (a % 0x1000))
  | none => 0

end Sys2Proof.Machine
end

