-- ==== Sys2Proof/Machine/SMap.lean ====
section
/-!
DEFINITION. Machine/SMap.lean: sparse maps in one canonical form: keys strictly rising, no entry equal to what an
unlisted key reads as. `d` is what an unlisted key reads as.
-/

namespace Sys2Proof.Machine

/-- A sparse map from numbers to values. -/
abbrev SMap (α : Type) := List (Nat × α)

/-- The value at a key; an unlisted key reads as `d` of the key. -/
def SMap.getF {α : Type} (d : Nat → α) : SMap α → Nat → α
  | [], k => d k
  | (k', v) :: r, k => if k = k' then v else SMap.getF d r k

/-- The map without any entry of a key. -/
def SMap.without {α : Type} (m : SMap α) (k : Nat) : SMap α := m.filter fun e => decide (e.1 ≠ k)

/-- The map with key `k` set to `v`: an older entry of the key goes, and no entry is listed where `v` is what the unlisted key reads
as. -/
def SMap.setF {α : Type} [DecidableEq α] (d : Nat → α) : SMap α → Nat → α → SMap α
  | [], k, v => if v = d k then [] else [(k, v)]
  | (k', v') :: r, k, v =>
    if k < k' then (if v = d k then (k', v') :: SMap.without r k else (k, v) :: (k', v') :: SMap.without r k)
    else if k = k' then (if v = d k then SMap.without r k else (k, v) :: SMap.without r k)
    else (k', v') :: SMap.setF d r k v

/-- The value at a key of a map with one default. -/
def SMap.get {α : Type} (d : α) (m : SMap α) (k : Nat) : α := SMap.getF (fun _ => d) m k

/-- The map with a key set, for a map with one default. -/
def SMap.set {α : Type} [DecidableEq α] (d : α) (m : SMap α) (k : Nat) (v : α) : SMap α :=
  SMap.setF (fun _ => d) m k v

/-- The map with the value at a key changed by `f`. -/
def SMap.upd {α : Type} [DecidableEq α] (d : α) (m : SMap α) (k : Nat) (f : α → α) : SMap α :=
  SMap.set d m k (f (SMap.get d m k))

/-- The entry at a key, if it is listed. -/
def SMap.find? {α : Type} : SMap α → Nat → Option α
  | [], _ => none
  | (k', v) :: r, k => if k = k' then some v else SMap.find? r k

/-- The map with an entry put at a key. -/
def SMap.put {α : Type} : SMap α → Nat → α → SMap α
  | [], k, v => [(k, v)]
  | (k', v') :: r, k, v =>
    if k < k' then (k, v) :: (k', v') :: r
    else if k = k' then (k, v) :: r
    else (k', v') :: SMap.put r k v

/-- The map without the entries whose key satisfies `p`. -/
def SMap.drop {α : Type} (m : SMap α) (p : Nat → Bool) : SMap α := m.filter fun e => !p e.1

/-- The keys are strictly rising, from `lo` on. -/
def SMap.rising {α : Type} : Nat → SMap α → Bool
  | _, [] => true
  | lo, (k, _) :: r => decide (lo ≤ k) && SMap.rising (k + 1) r

/-- No entry equals what its key would read as unlisted. -/
def SMap.noDefault {α : Type} [DecidableEq α] (d : Nat → α) (m : SMap α) : Bool :=
  m.all fun e => decide (e.2 ≠ d e.1)

/-- The canonical form of a map whose unlisted keys read as `d`. -/
def SMap.wfF {α : Type} [DecidableEq α] (d : Nat → α) (m : SMap α) : Bool :=
  SMap.rising 0 m && SMap.noDefault d m

/-- The canonical form of a map with one default. -/
def SMap.wf {α : Type} [DecidableEq α] (d : α) (m : SMap α) : Bool := SMap.wfF (fun _ => d) m

end Sys2Proof.Machine
end

