-- ==== Sys2Proof/Machine/State.lean ====
section
/-!
DEFINITION. Machine/State.lean: the state of the M9 as plain data, the reasons a step can stop, and the state after reset.
-/

namespace Sys2Proof.Machine

/-- Owner tag, generation and class of a request (R23 to R25). -/
structure Attr where
  did : Nat := 0
  pid : Nat := 0
  gen : Nat := 0
  cls : Nat := 0
  deriving DecidableEq, Repr

/-- A request to the register region (R120): `lvl` is the issuing level of a Winovar core (0 U, 1 K, 2 H, 3 F), `single`
says it is one 4-byte load or store, `data` is what a write carries, `direct` says that a command of the queue made it, to
which the answer goes, `inside` that it has passed ingress and holds a credit (R536, R590), and `old` that a reset of its domain has
incremented the generation since (R535). -/
structure RegReq where
  m      : Master
  attr   : Attr := {}
  lvl    : Nat := 0
  addr   : Nat := 0
  single : Bool := true
  data   : Option Reg32 := none
  direct : Bool := false
  inside : Bool := false
  old    : Bool := false
  deriving DecidableEq, Repr

/-- The answer to the last register or window access made by a command: data and whether it was an error response. -/
structure Resp where
  err  : Bool := false
  data : Nat := 0
  deriving DecidableEq, Repr

/-- An entry of the fabric error log (R123). -/
structure FerrEntry where
  addr   : Nat
  op     : Nat
  kind   : Nat
  master : Nat
  attr   : Attr
  time   : Nat
  deriving DecidableEq, Repr

/-- Where a fabric request stands: queued at its master before ingress, waiting for a credit, past ingress and in transit,
accepted at its target, or answered with its completion still in the fabric (R590, R535, R537); or refused at ingress with
an error response, holding no credit. -/
inductive TxStatus where
  | posted | waitCredit | transit | accepted | answered | refused
  deriving DecidableEq, Repr

/-- What the master does with a completion: nothing more than take the data, an FRD of an engine thread (return-queue
entry), a posted FWR, a mover's read or write, a member's memory request, a core's load, an inbound request of a PCIe
controller, or an access that its master makes again once it is answered. -/
inductive Purpose where
  | plain
  | frd (t : Nat) (slot : Nat)
  | fwr (t : Nat)
  | mover (m : Nat) (word : Nat) (n : Nat)
  | member (m : Nat)
  | coreLoad (n : Nat)
  | pcie (c : Nat)
  | own
  deriving DecidableEq, Repr

/-- A request in the fabric, or queued at its master. `old` says that its generation has ended while it was in the fabric:
its credit is in OLD_HELD (R535); `why` is the KIND of its error response, and `arr` says that it has come to its target and waits
there, at a bank of on-chip SRAM since the tick `since`. (DESIGN CHOICE, log 55) -/
structure Txn where
  id     : Nat
  req    : FReq
  attr   : Attr
  lvl    : Nat
  purp   : Purpose
  status : TxStatus
  old    : Bool := false
  err    : Bool := false
  why    : Nat := 0
  poison : Bool := false
  rdata  : Nat := 0
  arr    : Bool := false
  since  : Nat := 0
  deriving DecidableEq, Repr

/-- The fabric: requests, the error log, register accesses that wait for a credit or in the bridge, oldest first, the DT_HI latch of each core (number n) and the
SCU (24), and the pages whose soft reset was abandoned (R103). -/
structure Fab where
  txns    : List Txn := []
  nextId  : Nat := 0
  ferr    : List FerrEntry := []
  stalled : List RegReq := []
  dtHi    : SMap Nat := []
  lost    : List Nat := []
  resp    : Resp := {}
  deriving DecidableEq, Repr

/-- The kind of an interrupt message (R504, R505). -/
inductive MsgKind where
  | assert | deassert | edge
  deriving DecidableEq, Repr

/-- An interrupt message on its way to the controller (R504 to R506). -/
structure IMsg where
  src  : Nat
  kind : MsgKind
  did  : Nat
  gen  : Nat
  deriving DecidableEq, Repr

/-- One shared source of the interrupt controller (R503 to R511). -/
structure SrcRec where
  pend     : Bool := false
  asserted : Bool := false
  localEn  : Bool := false
  pri      : Nat := 0
  group    : Nat := 0
  target   : Nat := 0
  virt     : Bool := false
  en       : Bool := false
  deriving DecidableEq, Repr

/-- The state of a hold-off group (R517). -/
inductive GrpState where
  | idle | holding | opened
  deriving DecidableEq, Repr

/-- A hold-off group: state, deadline in device time, event count, and the COUNT in force since the timer was loaded. -/
structure GrpRec where
  state    : GrpState := .idle
  deadline : Nat := 0
  count    : Nat := 0
  limit    : Nat := 0
  deriving DecidableEq, Repr

/-- The interrupt controller (spec 16). `p0off` are the cores whose P0 pending bit was cleared (R521) while the line that it follows is
up. -/
structure IC where
  msgs  : List IMsg := []
  srcs  : SMap SrcRec := []
  grps  : SMap GrpRec := []
  armed : SMap Bool := []
  p0off : List Nat := []
  deriving DecidableEq, Repr

/-- A Yo-yo crossing (R90, R91): a round trip in progress, the pending counter, the overflow flag, and the number of
events the receiver has acted on. `sync` says that the round trip is the one that R95 asks for after a flush and carries no event,
`due` that a flush waits for the receiving clock (R96): 1 for a reset of the source's side, 2 for one of the receiver's, 3 for both.
`cyc` is the source cycle of the last flush, of side `flushed`, or, where that is 0, of the last loss at 255, of `lostN` events (R96). An
entry that a flush has reached stays listed. -/
structure Yoyo where
  busy  : Bool := false
  count : Nat := 0
  ovf   : Bool := false
  acted : Nat := 0
  sync  : Bool := false
  due   : Nat := 0
  cyc   : Nat := 0
  lostN : Nat := 0
  flushed : Nat := 0
  deriving DecidableEq, Repr

/-- A twin-sampled value (R92): the source's latest value, the one it presents, how many receiving edges it has been held for, the
receiver's last sample, and the value accepted last; `sync` and `due` as for a Yo-yo, and `back` says that a flush has reached it. -/
structure Twin where
  src  : Nat := 0
  pres : Nat := 0
  held : Nat := 4
  samp : Nat := 0
  acc  : Nat := 0
  sync : Bool := false
  due  : Nat := 0
  back : Bool := false
  deriving DecidableEq, Repr

/-- An asynchronous FIFO (R93): entries with the receiving edges since they were written (2 stands for more), oldest first; the entries a source has stalled
with while it was full, in order; `sync`, `due` and `back` as for a twin-sampled value. -/
structure Xfifo where
  ents : List (Nat × Nat) := []
  wait : List Nat := []
  sync : Bool := false
  due  : Nat := 0
  back : Bool := false
  deriving DecidableEq, Repr

/-- A fault message on its way to the collector (R566), with the DID the error is raised to (R567), and whether its entry of the fault log has been
made (R573). -/
structure FaultMsg where
  page   : Page
  code   : Nat
  cls    : Nat
  attr   : Attr
  detail : Nat
  did    : Nat
  scuOwn : Bool := false
  logged : Bool := false
  deriving DecidableEq, Repr

/-- An entry of the fault log (R573). -/
structure FltEntry where
  slot   : Nat
  code   : Nat
  cls    : Nat
  action : Nat
  attr   : Attr
  detail : Nat
  time   : Nat
  deriving DecidableEq, Repr

/-- A software watchdog (R572): ticks left to run are counted to `deadline`; `expired` until the next kick or write. -/
structure Wdog where
  running  : Bool := false
  deadline : Nat := 0
  expired  : Bool := false
  deriving DecidableEq, Repr

/-- A command of a domain's SCU service page that is running (R542): function, SEQ, the caller, and, once SCU firmware has carried
it out, its STATUS and result words. -/
structure ScsRun where
  func  : Nat
  seq   : Nat
  attr  : Attr
  lvl   : Nat
  scu   : Bool
  done  : Option (Nat × List Nat) := none
  deriving DecidableEq, Repr

/-- A domain beside its registers: the time its reset was requested, notices pending, the running service command, and whether
credits and tokens of a destroyed domain go back to their pool as they return (R540). -/
structure DomRec where
  rstStart : Nat := 0
  notice   : Bool := false
  svc      : Option ScsRun := none
  owedC    : Bool := false
  owedT    : Bool := false
  deriving DecidableEq, Repr

/-- Whether a Winovar core issues instructions: held in reset, running, stopped by WAIT with its clock running, in DOZE, or
stopped at F by a second exception (R166, R176, R185, R549). -/
inductive CoreRun where
  | held | running | waiting | doze | stopped
  deriving DecidableEq, Repr

/-- A store in a core's store buffer (R242): physical address, length and data (byte i in bits 8i+7 to 8i), its type (0 device,
1 normal non-cacheable, 2 write-back cacheable), the level and attributes it was issued with, and, for the part of a store that continues
in a second line, the address of the part before it. -/
structure StoreEnt where
  pa   : Nat
  len  : Nat
  data : Nat
  ty   : Nat
  lvl  : Nat
  attr : Attr
  prev : Option Nat := none
  deriving DecidableEq, Repr

/-- One part of an access: the physical address, the length, the type, and whether a walk was made. -/
structure Part where
  pa     : Nat
  len    : Nat
  ty     : Nat
  walked : Bool
  deriving DecidableEq, Repr

/-- A translation that the present instruction of a core has made: the address, the length, whether it is a store's, and its parts. -/
structure KeptXlat where
  ea    : Nat
  len   : Nat
  write : Bool
  parts : List Part
  deriving DecidableEq, Repr

/-- The answer to a read of a core that had to wait for it (a member's register, PCIe, a block that wakes): what was read, the
data, and whether it is an error response or poisoned. The instruction takes it when it runs again. -/
structure DevAns where
  addr : Nat
  len  : Nat
  data : Nat
  err  : Bool := false
  bad  : Bool := false
  deriving DecidableEq, Repr

/-- A TLB entry of a 4 KiB page, both stages together (R192): the table entries it came from with their levels, the IPA
page, and the physical page. -/
structure TlbEnt where
  hyp  : Bool
  did  : Nat
  asid : Nat
  glob : Bool
  vpn  : Nat
  sz1  : Nat
  e1   : Option (Nat × Nat)
  ipn  : Nat
  e2   : Option (Nat × Nat)
  ppn  : Nat
  deriving DecidableEq, Repr

/-- A TLBI issued and not yet known to be applied everywhere (R193, R194): the operation 8 to 13 of R227, the operand, and
the DID and ASID in force. -/
structure TlbiReq where
  op   : Nat
  arg  : Nat
  did  : Nat
  asid : Nat
  deriving DecidableEq, Repr

/-- An entry of a core's walk cache (R192, R193): the regime, DID and ASID it is tagged with, whether it belongs to stage 2 or to a
stage 1 under a stage 2, the level that a walk goes on at, the address bits above that level, and the table found. -/
structure WalkEnt where
  hyp  : Bool
  did  : Nat
  asid : Nat
  st2  : Bool
  comb : Bool
  lvl  : Nat
  pre  : Nat
  tbl  : Nat
  deriving DecidableEq, Repr

/-- An L1 cache of a core (R248, R249): the lines it holds with their ways, the parity errors of a second (way, tick), the ways taken
out of use. -/
structure L1Cache where
  lines : List (Nat × Nat) := []
  pars  : List (Nat × Nat) := []
  off   : List Nat := []
  deriving DecidableEq, Repr

/-- A predictor entry (R235 to R238): its table, the context it was written in (level, DID), its scrambled index and partial tag, and the
target or direction it predicts. -/
structure PredEnt where
  tab : Nat
  lvl : Nat
  did : Nat
  idx : Nat
  tag : Nat
  val : Nat
  deriving DecidableEq, Repr

/-- A return-stack entry: its context and the return address (R236). -/
structure RetEnt where
  lvl : Nat
  did : Nat
  pc  : Word64
  deriving DecidableEq, Repr

/-- An access that trained the prefetchers (R241): its 4 KiB page, the level of the core, its attributes. -/
structure Trained where
  page : Nat
  lvl  : Nat
  attr : Attr
  deriving DecidableEq, Repr

/-- A load that was performed ahead of older ones (R245): its base register, its address, length and physical address, what it read,
the events of R256 that it met, and how many instructions have retired since. -/
structure Early where
  reg  : Nat
  ea   : Nat
  len  : Nat
  pa   : Nat
  data : Nat
  evs  : List Nat := []
  age  : Nat := 0
  deriving DecidableEq, Repr

/-- A line that a core filled for a load or a fetch ahead of its command (R252): which, the line of its virtual address, the events of R256
that it met, and how many instructions have retired since. -/
structure Served where
  fetch : Bool
  line  : Nat
  evs   : List Nat
  age   : Nat := 0
  deriving DecidableEq, Repr

/-- A request that waits at a port of a bank of on-chip SRAM (R281): who asks (2 × the number of a fabric request plus 1, or 2 × the MASTER of one
made within a command), its MASTER, the bank, the port, its class, and since which tick. -/
structure PortWait where
  who    : Nat
  master : Nat
  bank   : Nat
  port   : Nat
  cls    : Nat
  since  : Nat
  deriving DecidableEq, Repr

/-- The access that a port of a bank of on-chip SRAM served last (R281, R282): from which tick until which it holds the port, its bytes, the bits it
writes, and what the bytes held before. -/
structure PortUse where
  start : Nat := 0
  stop  : Nat := 0
  addr  : Nat := 0
  len   : Nat := 0
  mask  : Nat := 0
  old   : Nat := 0
  deriving DecidableEq, Repr

/-- A Winovar core (spec 06 to 08): registers, reservation with the instructions for which its line is kept (R211), store buffer,
STORE_BUS held pending (issuing level, address), the TLBs and the walk cache, TLBIs not yet known to be applied, the L1 caches, the
predictors with their history and the return stack, what trained the prefetchers, loads performed ahead, lines filled ahead, cache operations
outstanding (operation, line), whether a read waits for its answer, answers not yet taken, the events so far of an instruction that was issued
and cannot complete yet (R208, R256), the translations it made, the lines at whose L2 miss it was held (R240), its place at a port of on-chip
SRAM (R281), and how many instructions retired in this tick. -/
structure CoreRec where
  run    : CoreRun := .held
  w      : SMap Word64 := []
  f      : SMap Word64 := []
  pc     : Word64 := 0
  sys    : SMap Word64 := []
  resv   : Option Nat := none
  keep   : Option Nat := none
  sb     : List StoreEnt := []
  sbus   : List (Nat × Nat) := []
  itlb   : List TlbEnt := []
  dtlb   : List TlbEnt := []
  tlb    : List TlbEnt := []
  walks  : List WalkEnt := []
  tlbis  : List TlbiReq := []
  l1i    : L1Cache := {}
  l1d    : L1Cache := {}
  preds  : List PredEnt := []
  hist   : List Bool := []
  rets   : List RetEnt := []
  train  : List Trained := []
  early  : List Early := []
  served : List Served := []
  entry  : Option (Nat × Nat) := none
  cops   : List (Nat × Nat) := []
  stall  : Bool := false
  got    : List DevAns := []
  tried  : Option (List Nat) := none
  xlats  : List KeptXlat := []
  heldAt : List Nat := []
  atPort : Option PortWait := none
  done   : Nat := 0
  deriving DecidableEq, Repr

/-- A line of a cluster's L2: data, whether it is dirty or poisoned, the DID of its last writer (R250, R251). -/
structure L2Line where
  data   : Line
  dirty  : Bool := false
  poison : Bool := false
  writer : Nat := 0
  deriving DecidableEq, Repr

/-- A line held in the system cache: tag pa[47:20], data, DIRTY and POISON (R259); its slot is way × 16,384 + index. -/
structure ScLine where
  tag    : Nat
  data   : Line
  dirty  : Bool := false
  poison : Bool := false
  deriving DecidableEq, Repr

/-- A slot of the system cache that an allocation waits for (R266): the line to install, whether a victim still stands in the
slot, and, once the line is known (`ready`), its data and state. -/
structure ScResv where
  slot   : Nat
  line   : Nat
  victim : Bool
  ready  : Bool := false
  data   : Line := 0
  dirty  : Bool := false
  poison : Bool := false
  deriving DecidableEq, Repr

/-- A command of the system cache that is running (R273): the RESULT it will end with, and its range, way, partition and
INCLUDE_LOCKED as the write gave them, with the lines of its range done so far. `acts` says that it does something. -/
structure ScCmd where
  op     : Nat
  result : Nat
  acts   : Bool
  line   : Nat := 0
  len    : Nat := 0
  part   : Nat := 0
  way    : Nat := 0
  incl   : Bool := false
  pos    : Nat := 0
  deriving DecidableEq, Repr

/-- What a DRAM request serves: a read for a fabric request (with the slot it allocates, if any), a write accepted for one
(or for a core's own store), a victim of a slot, a command write-back, a read of PRELOAD for a slot, a read for an access that a master makes within
a command of its own (its MASTER and the slot it allocates). -/
inductive DCause where
  | fill (txn : Nat) (slot : Option Nat)
  | write (txn : Option Nat)
  | victim (slot : Nat)
  | cmd
  | preload (slot : Nat)
  | own (master : Nat) (slot : Option Nat)
  deriving DecidableEq, Repr

/-- Where a DRAM request stands: sent by the system cache, accepted in its port buffer, chosen by the scheduler, or read
and waiting to return (R301 to R303). -/
inductive DStat where
  | sent | buffered | chosen | returned
  deriving DecidableEq, Repr

/-- A request of the system cache to the DRAM controller (R301): a whole line, with the bits that a write replaces. `tok` says
that it holds a bandwidth token, `missed` that its DEADLINE_MISS has been counted, `acc` is its number in the order of
acceptance, and `part` are the physical ranks that have been given it, of the two of a dual write (R310). (DESIGN CHOICE, log 55) -/
structure DReq where
  id     : Nat
  isW    : Bool
  line   : Nat
  data   : Line := 0
  be     : Line := 0
  poison : Bool := false
  attr   : Attr
  port   : Nat
  cause  : DCause
  stat   : DStat := .sent
  tok    : Bool := false
  mig    : Bool := false
  missed : Bool := false
  since  : Nat := 0
  acc    : Nat := 0
  part   : List Nat := []
  deriving DecidableEq, Repr

/-- The DRAM controller and the memory (spec 10): requests, lines and poison keyed by physical rank and rank line, open rows
keyed by physical rank and bank, refreshes due, migrations requested and the running one (logical rank, spare, copy pointer), the
ticks of each rank's corrected outcomes of the last hour, where scrub stands and the tick its last read was due, the tick of the last
copy or of the start of the migration, ranks in power-down and the tick each rank was last used, the hottest DRAM package sensor, the refresh factor that each
channel's device asks for, and the ordering code (MDN9-064A or -128A). -/
structure Dram where
  reqs    : List DReq := []
  nextId  : Nat := 0
  mem     : SMap Line := []
  bad     : SMap Bool := []
  rows    : SMap Nat := []
  refDue  : List (Nat × Nat) := []
  migReq  : List Nat := []
  ceHour  : SMap (List Nat) := []
  scrub   : Nat := 0
  scrubAt : Nat := 0
  copyAt  : Nat := 0
  pdown   : List Nat := []
  lastUse : SMap Nat := []
  nextAcc : Nat := 0
  devX    : SMap Nat := []
  panic   : SMap Bool := []
  mig     : Option (Nat × Nat × Nat) := none
  pkgTemp : Int := 25
  code064 : Bool := false
  deriving DecidableEq, Repr

/-- The system cache (spec 09): lines by slot, slots waited for, and the running command. -/
structure Sc where
  lines : SMap ScLine := []
  resvs : List ScResv := []
  cmd   : Option ScCmd := none
  deriving DecidableEq, Repr

/-- The on-chip SRAM (spec 09): bytes that have been written since their bank last lost its contents, granules of 8 bytes
stored as poisoned, banks whose change of state is under way with the state they go to, changes that wait for requests in flight
(the state asked for and their numbers, R285), the last access of each port (R281), and whether the unwritten bytes of a bank read as zero (by default those of the banks that Sage zeroes and wipes, R126). -/
structure Sram where
  mem    : SMap (Option Byte) := []
  bad    : SMap Bool := []
  moving : SMap (Option Nat) := []
  asked  : SMap (Option (Nat × List Nat)) := []
  zeroed : SMap Bool := []
  ports  : SMap PortUse := []
  deriving DecidableEq, Repr

/-- Where Sage stands: the die is in reset, it waits for or receives a push, verifies, shows a halt code before a retry, is
halted, or has handed over (R126 to R161). -/
inductive SagePhase where
  | off | push | verify | show | halted | done
  deriving DecidableEq, Repr

/-- One copy of the fuse array (R149); KEY_HASHn are entries of `hash`. -/
structure Fuses where
  lc       : Nat := 0
  hash     : SMap Nat := []
  prog     : Nat := 0
  rev      : Nat := 0
  secver   : Nat := 0
  imageKey : Nat := 0
  devId    : Nat := 0
  deriving DecidableEq, Repr

/-- Sage and what it keeps (spec 05): BOOT_ERR, BOOT_RDY, the sticky flags of STATUS, whether a frame of this push has been
accepted, the straps, the counts of retries and abandons, whether a wipe of the secure part runs, where the SCU was started at handover (R159), the two copies of the fuse
array and the shadows read from them. (DESIGN CHOICE, log 11) -/
structure Sage where
  phase    : SagePhase := .push
  err      : Nat := 0
  rdy      : Bool := true
  bootif   : Nat := 0
  retry    : Bool := false
  lastOk   : Bool := false
  crcErr   : Bool := false
  refused  : Bool := false
  busyDrop : Bool := false
  released : Bool := false
  abandon  : Bool := false
  writes   : Nat := 0
  started  : Bool := false
  applying : Bool := false
  ignored  : Nat := 0
  retries  : Nat := 0
  abandons : Nat := 0
  lcDone   : Bool := false
  wiping   : Bool := false
  scuEntry : Option Nat := none
  miso     : List Byte := []
  fuses    : Fuses := {}
  fuses2   : Fuses := {}
  shadow   : Fuses := {}
  deriving DecidableEq, Repr

/-- An entry of a thread's return queue (R346): the request it waits for, and, once ready, the word and the error bit with
the tick of arrival. -/
structure RqEnt where
  id    : Nat
  ready : Bool := false
  val   : Word18 := 0
  err   : Bool := false
  tick  : Nat := 0
  deriving DecidableEq, Repr

/-- A general-register write on its way (R370, R376): it takes effect at the end of tick `due`; at equal ticks that of a load
remains (R377). `st` is the tick in which the word was read where it is ST's (R371), `ev` the offset of the event-unit word that a load
reads and the tick at whose end it does (R386), and `prd` says that the local slot word is still to be read (R348). -/
structure PendWr where
  due  : Nat
  reg  : Nat
  val  : Word18
  load : Bool
  st   : Option Nat := none
  ev   : Option (Nat × Nat) := none
  prd  : Bool := false
  deriving DecidableEq, Repr

/-- A waiting cluster-memory access (R401): its tick, the cluster-memory offset, and either the word to store or the register
to load. -/
structure CmAcc where
  tick : Nat
  c    : Nat
  st   : Option Word18
  reg  : Nat
  deriving DecidableEq, Repr

/-- A remote PRD on its way (R349, R461): the request's number, the register, the tick of its write, and the word once the
response has come; `cut` is the tick at whose end ST was written after it, which clears its RL (R371). -/
structure RPrd where
  id  : Nat
  reg : Nat
  due : Nat
  val : Option Word18 := none
  cut : Option Nat := none
  deriving DecidableEq, Repr

/-- A thread of an engine (R318, R378) with its words of the control ranges and what is on its way. `st` is THR_STAT.STATE,
`next` the first tick at which the next slot may lie, `dslot` the pc after the delay slot that issues next and whether that
slot is annulled, `haltAt` the tick a requested halt takes effect at the end of, `armed` the tick its time match was armed in, `entered` that an entry has been made for the next slot, `rete` the level that a RETE has left and whose
restore its next boundary makes, with ST written at the end of tick `reteAt` (R393). `statWas` and `pcWas` are what THR_STAT and THR_PC
read up to the end of the tick in which the last write of THR_CTRL or THR_PC takes effect (R379). -/
structure NgThread where
  st      : Nat := 0
  n       : SMap Word18 := []
  acc0    : BitVec 44 := 0
  acc1    : BitVec 44 := 0
  lpS     : SMap Word18 := []
  lpE     : SMap Word18 := []
  lpC     : SMap Word18 := []
  m       : SMap Word18 := []
  l       : SMap Word18 := []
  sw      : Word18 := 0
  pc      : Word18 := 0
  rq      : List RqEnt := []
  tlat    : BitVec 46 := 0
  pend    : List PendWr := []
  fault   : Nat := 0
  inDs    : Bool := false
  fpc     : Word18 := 0
  level   : Nat := 0
  active  : Nat := 0
  en      : Bool := false
  src     : Nat := 0
  next    : Nat := 0
  dslot   : Option (Word18 × Bool) := none
  haltAt  : Option Nat := none
  entered : Bool := false
  rete    : Option Nat := none
  reteAt  : Nat := 0
  statWas : Option (Nat × Word18) := none
  pcWas   : Option (Nat × Word18) := none
  cma     : Option CmAcc := none
  prds    : List RPrd := []
  spc     : SMap Word18 := []
  sst     : SMap Word18 := []
  tcmpL   : Word18 := 0
  tcmpH   : Word18 := 0
  armed   : Option Nat := none
  fwb     : SMap Word18 := []
  deriving DecidableEq, Repr

/-- An event source of an engine (R386, R389): the spans in which it was pending, newest first, by the tick at whose end it
became pending and the tick at whose end it was cleared, and the ticks of its last clears, which may lie ahead. Eight of each are enough
for the selection of R389, also where the source is set and cleared in every tick. -/
structure EvSrc where
  spans  : List (Nat × Option Nat) := []
  clears : List Nat := []
  deriving DecidableEq, Repr

/-- A check-value unit (R420), with the feeds on their way: the tick they take effect at the end of, bits and count (R421). -/
structure CvUnit where
  cfg  : Word18 := 0o37
  poly : Nat := 0
  init : Nat := 0
  val  : Nat := 0
  feeds : List (Nat × Nat × Nat) := []
  deriving DecidableEq, Repr

/-- An engine (R111, R384): threads, local memory, event and mode words, check-value unit. `zero` says that unwritten words of local
memory read as zero, as a BIST run leaves them (R576), `lmBad` and `lmCe` are the words found uncorrectable and those found with a
single-bit error, which stays in the stored word (R385). `modeWas` is what ENG_MODE reads up to the end of the tick in which its last write
takes effect (R379). `hist` keeps what the last stores to
event words replaced (tick of the store, word address, value before), newest first, for the selection of R389. -/
structure NgEngine where
  thr   : SMap NgThread := []
  lm    : SMap (Option Word18) := []
  lmBad : SMap Bool := []
  lmCe  : SMap Bool := []
  zero  : Bool := false
  two   : Bool := false
  clev  : Bool := false
  modeWas : Option (Nat × Word18) := none
  evmap : SMap Word18 := []
  evvec : SMap Word18 := []
  srcs  : SMap EvSrc := []
  cv    : CvUnit := {}
  hist  : List (Nat × Nat × Word18) := []
  deriving DecidableEq, Repr

/-- A mover (R414 to R418): MD0 to MD5, STATE, RES and the generation of MD7, the next word to request, words whose requests are
outstanding, the end it is waiting to make (an error's address, or an abort), words that came before those of an earlier request: by
the first word, how many, and the bytes (R417), and whether one of its requests was discarded (R537). -/
structure MoverRec where
  md    : SMap Word18 := []
  state : Nat := 0
  res   : Nat := 0
  gen   : Nat := 0
  idx   : Nat := 0
  bus   : Option Nat := none
  abort : Bool := false
  held  : List (Nat × Nat × Nat) := []
  lost  : Bool := false
  deriving DecidableEq, Repr

/-- An engine cluster's shared memory (R399): words written, words found uncorrectable, and whether unwritten words are zero. -/
structure NgCluster where
  cm    : SMap (Option Word18) := []
  cmBad : SMap Bool := []
  zero  : Bool := false
  deriving DecidableEq, Repr

/-- An entry of a capture FIFO (R440). -/
structure CapEnt where
  stamp : Nat
  lost  : Bool
  rise  : Bool
  landB : Bool
  deriving DecidableEq, Repr

/-- An entry of a schedule FIFO (R442, R443). -/
structure SchEnt where
  time   : Nat
  action : Nat
  deriving DecidableEq, Repr

/-- A stretch of a frame in one bit timing set (R447): from bit `bit`, which starts in tick `base` with the accumulator at `acc`. -/
structure BitSeg where
  bit  : Nat := 0
  base : Nat
  acc  : Nat := 0
  set  : Nat
  deriving DecidableEq, Repr

/-- A frame the transmitter sends (R447, R449): its bits in order of sending (without stuff bits), the raw SENT word, its stretches
in order, and from which sent bits stuffing is on or off. -/
structure TxFrame where
  bits   : List Bool
  word   : Nat := 0
  start  : Nat
  segs   : List BitSeg
  stuff  : List (Nat × Bool) := []
  deriving DecidableEq, Repr

/-- A frame the receiver is in (R450, R451): the samples taken, its start and stretches of bit timing and the stuffing switches as of a
frame sent, whether a bit error or a lost arbitration marks it, in ODC the tick in which SDA is sampled next, and the start of the last bit of the
frame before, which this one follows at once. -/
structure RxFrame where
  fr   : TxFrame
  mark : Bool := false
  next : Option Nat := none
  lastAt : Nat := 0
  deriving DecidableEq, Repr

/-- A received frame on its way into the RX queue (R450): the tick in which it enters, its words, and the CELL_ERR flags that it sets. -/
structure RxIn where
  tick : Nat
  ws   : List Word18
  errs : List Nat
  deriving DecidableEq, Repr

/-- An engine's access to a slot word on its way (R348, R436): its E tick, the engine and the thread, the word, and what a PWR writes. -/
structure SlotAcc where
  tick : Nat
  e    : Nat
  t    : Nat
  word : Nat
  wr   : Option Word18
  deriving DecidableEq, Repr

/-- A port cell beside its page registers (spec 14): FIFOs, the word-3 latch, the staged time, the level registers (0 low, 1
high, 2 release), accepted levels before INV, queues (an RX frame is its words left and whether one has been popped), repeat timer, shift engine, SAFE and the timers' deadlines. `elig` is the
tick e of the schedule head; `bset` is the bit timing set in use, `nset` the one from the next bit boundary on. `wasA` and `wasB` are the
last changes of a level register, newest first, by the tick of the change and the level before it; `edgA` and `edgB` the tick of a land's
last accepted edge; `repLast` the start and H of the period before, `repOff` the tick in which the repeat timer stopped; `safeA` and
`safeB` what the lands drive in SAFE, and `safeAt` the tick SAFE was entered in; `keepAt` 0 stands for a KEEP timer that has expired. `due`
holds the slot accesses on their way, `capIn` accepted edges by the tick in which they are stored, and `rxIn` received frames. -/
structure Cell where
  due      : List SlotAcc := []
  capIn    : List (Nat × CapEnt) := []
  rxIn     : List RxIn := []
  capf     : List CapEnt := []
  latch    : Word18 := 0
  lost     : Bool := false
  schf     : List SchEnt := []
  staged   : Word18 := 0
  elig     : Nat := 0
  lvA      : Nat := 2
  lvB      : Nat := 2
  wasA     : List (Nat × Nat) := []
  wasB     : List (Nat × Nat) := []
  accA     : Bool := false
  accB     : Bool := false
  edgA     : Option Nat := none
  edgB     : Option Nat := none
  rx       : List (List Word18 × Bool) := []
  tx       : List Word18 := []
  repOn    : Bool := false
  repStart : Nat := 0
  repH     : Nat := 0
  repLast  : Nat × Nat := (0, 0)
  repOff   : Option Nat := none
  duty     : Word18 := 0
  safe     : Bool := false
  cause    : Nat := 0
  safeA    : Nat := 0
  safeB    : Nat := 0
  safeAt   : Option Nat := none
  bset     : Nat := 0
  nset     : Nat := 0
  stuffOn  : Bool := true
  txf      : Option TxFrame := none
  rxf      : Option RxFrame := none
  unit     : Nat := 0
  keepAt   : Nat := 0
  idleAt   : Nat := 0
  deriving DecidableEq, Repr

/-- A remote PRD of an engine thread that has no response yet (R461): its number, engine, remote cell and slot word, and whether
its PRD_REQ has been sent. -/
structure RmPrd where
  id   : Nat
  e    : Nat
  t    : Nat
  cell : Nat
  word : Nat
  sent : Bool := false
  deriving DecidableEq, Repr

/-- A register request to a member (R497): its number, the request, when it was sent, and whether it has been. -/
structure TylReg where
  id    : Nat
  req   : RegReq
  start : Nat := 0
  sent  : Bool := false
  deriving DecidableEq, Repr

/-- A MEM_REQ of a member (R498): the requests made for it that are not answered, the worst outcome so far (0 OK, 1 poisoned, 2
error), the data read, and that it was refused. -/
structure TylMem where
  member : Nat
  tag    : Nat
  isW    : Bool
  len    : Nat
  addr   : Nat
  ids    : List Nat
  worst  : Nat := 0
  data   : Nat := 0
  bad    : Bool := false
  deriving DecidableEq, Repr

/-- A flit held for replay (R492): TYPE, destination, SEQ, what it carries, and how often it has been resent. -/
structure Flit where
  typ   : Nat
  dst   : Nat
  seq   : Nat
  load  : List Nat
  tries : Nat := 0
  deriving DecidableEq, Repr

/-- The Tylwen link beside its page (spec 15): remote write queues by engine (remote cell, slot word, value), remote PRDs,
register and memory requests, flits held for replay, the identity each member gave in its CAP, members whose identity
changed, and of the training that runs the members whose CAP has come and whether they have been numbered (R494). -/
structure Tyl where
  rwq     : SMap (List (Nat × Nat × Word18)) := []
  prds    : List RmPrd := []
  regs    : List TylReg := []
  mems    : List TylMem := []
  nextId  : Nat := 0
  replay  : List Flit := []
  seq     : Nat := 0
  caps    : SMap Nat := []
  changed : List Nat := []
  capped  : List Nat := []
  numbered : Bool := false
  deriving DecidableEq, Repr

/-- Synchronised time (R489, R490): the value at device time `mark` in seconds, nanoseconds, units of 2^-32 ns and sixteenths of one, and the
seconds latched by each core (number n) and the SCU (number 24). -/
structure Synt where
  secs  : Nat := 0
  ns    : Nat := 0
  frac  : Nat := 0
  sub   : Nat := 0
  mark  : Nat := 0
  latch : SMap Nat := []
  deriving DecidableEq, Repr

/-- A gate list (R485): its base in ns, its cycle, and entries of gates, operation and interval. -/
structure Gcl where
  base    : Nat
  cycle   : Nat
  entries : List (Nat × Nat × Nat)
  deriving DecidableEq, Repr

/-- A stream entry as loaded (R487). -/
structure CbEntry where
  dmac  : Nat
  vid   : Nat
  func  : Nat
  macs  : Nat
  hist  : Nat
  reset : Nat
  deriving DecidableEq, Repr

/-- A stream state (R487): the next sequence number to generate, the recovery vector with its top number and whether it takes any
number, and when its reset timeout expires. -/
structure Strm where
  genSeq : Nat := 0
  recSeq : Nat := 0
  vec    : Nat := 0
  take   : Bool := true
  expire : Nat := 0
  deriving DecidableEq, Repr

/-- A received frame that waits in a class buffer (R483): its bytes left, its time stamp, stream index, and whether its first
bytes have been placed. -/
structure RxWait where
  bytes : List Byte
  stamp : Nat
  idx   : Nat
  begun : Bool := false
  deriving DecidableEq, Repr

/-- A frame on a MAC's lane (R486): whether it is preemptable, its bytes, and the ticks in which it starts and has ended. -/
structure LaneTx where
  pre   : Bool
  bytes : List Byte
  start : Nat
  stop  : Nat
  deriving DecidableEq, Repr

/-- An Ethernet MAC beside its page: gate lists, where the running one stands, gates open, hold, stopped rings, class buffers, stream
entries, the start of the pending list, the frame sent last with whether it was preemptable, the frame on the lane, the fragments sent of a
preempted frame and what is left of it (R486), frames that near-end loopback brings back (R473), and frames of other MACs that it is to
replicate, each with its class (R487). (DESIGN CHOICE, log 35) -/
structure EthMac where
  gcl    : Option Gcl := none
  pend   : Option Gcl := none
  entry  : Nat := 0
  cycle0 : Nat := 0
  gates  : Nat := 0xFF
  hold   : Bool := false
  txStop : Nat := 0
  rxStop : Nat := 0
  wait   : SMap (List RxWait) := []
  cb     : SMap CbEntry := []
  start  : Nat := 0
  sent   : Option (Bool × List Byte) := none
  lane   : Option LaneTx := none
  frag   : List (List Byte) := []
  rest   : Option (List Byte) := none
  loop   : List (List Byte) := []
  reps   : List (Nat × List Byte) := []
  deriving DecidableEq, Repr

/-- What a PCIe controller answered to an inbound request (R477). -/
inductive PciAns where
  | ok (data : Nat) (poison : Bool) | ur | ca | dropped
  deriving DecidableEq, Repr

/-- A request that a controller sends (R476): a memory request to a PCIe address, or a configuration request to an offset of the ECAM
window. -/
structure PciTlp where
  cfg  : Bool
  isW  : Bool
  addr : Nat
  len  : Nat
  data : Nat
  deriving DecidableEq, Repr

/-- A PCIe controller beside its page: outbound requests sent (fabric request or core load, and when), answers given to inbound
requests, newest first, the AER errors recorded (bit 0 Unsupported Request, 1 Completer Abort, 2 poisoned TLP), the request sent last,
the bytes of the MSI-X tables by function and offset (R475), and the identity shown in boot mode: the IDs and the class code (R479). -/
structure Pcie where
  out  : List (Nat × Nat) := []
  last : Option PciAns := none
  aer  : Nat := 0
  sent : Option PciTlp := none
  msix : SMap Byte := []
  ids  : Nat := 0
  code : Nat := 0
  deriving DecidableEq, Repr

/-- The rails of R64 as a group: all off, in the start sequence, up, off until the retry, or off for good after three failed
starts (R58, R65). -/
inductive RailState where
  | off | starting | up | retry | dead
  deriving DecidableEq, Repr

/-- What a VR request is for: a request made as such, the point of a Winovar cluster, a bank's rail, Marionette, or the
bring-up of DRAM. -/
inductive VrWhy where
  | cmd | point (w p : Nat) | bank (b : Nat) | mari | dram
  deriving DecidableEq, Repr

/-- A request of the VR link (R68): TYPE, RAIL, VALUE, SEQ, the reason the power stage refuses it with (0 none), how often
it has been sent again, and the frame sent. -/
structure VrReq where
  typ   : Nat
  rail  : Nat
  value : Nat
  why   : VrWhy := .cmd
  seq   : Nat := 0
  bad   : Nat := 0
  tries : Nat := 0
  frame : BitVec 32 := 0
  deriving DecidableEq, Repr

/-- The acknowledged level of a rail after a start, in units of 5 mV (R64, R65, R70). -/
def railReset (r : Nat) : Nat := if r < 2 then 160 else if r < 5 then 140 else if r = 6 then 360 else if r = 7 then 170 else 0

/-- The module's power stage, the always-on domain and the SCU's supply and thermal control (R56 to R77): the last valid samples
in mV and mA with counts of invalid ones, the window of R57 (0 FULL, 1 HIGH, 2 LOW, 3 DIP, 4 HIGH-TRIP, 5 BROWN), rails, what
keeps a restart back (`trip` a HIGH-TRIP, `back` 0 nothing, 2 a thermal trip, 3 PORST_N asserted since, 4 and released), which of the
causes 5, 7 and 8 had their condition met when the last cause was recorded (R98), the VR link, counters
of R61, ceilings, sensor histories, and whether the die is out of reset, PORST_N is high and the reference is accepted; the tick in
which RSTOUT_N goes high (none while it is held low, R100), and the Winovar clusters whose CK_A has been started (R85).
(DESIGN CHOICE, log 11) (DESIGN CHOICE, log 75) -/
structure Pwr where
  vaon     : Bool := true
  vinS     : List Int := []
  iinS     : List Int := []
  badV     : Nat := 0
  badI     : Nat := 0
  win      : Nat := 0
  lost     : Bool := false
  rail     : RailState := .up
  fails    : Nat := 0
  back     : Nat := 0
  trip     : Bool := false
  live     : List Nat := []
  acked    : SMap Nat := []
  level    : SMap Nat := []
  vr       : Option VrReq := none
  vrq      : List VrReq := []
  vrSeq    : Nat := 0
  vrBad    : Nat := 0
  bankEnd  : SMap Nat := []
  overCnt     : Nat := 0
  hiCnt    : Nat := 0
  loCnt    : Nat := 0
  supCeil  : SMap Nat := []
  thrCeil  : Nat := 0
  temps    : SMap (List Int) := []
  die      : Bool := true
  porst    : Bool := true
  refOk    : Bool := true
  aonRef   : Bool := false
  rstAt    : Option Nat := some 0
  ckA      : List Nat := []
  deriving DecidableEq, Repr

/-- Marionette beside its page (R551 to R560): WMASK of the request and the CK_P copy of device time at it, strings stopped (latest
first), the string that is asked, whether it has answered DELAY, strings still to be resumed, the latched wake source, whether the
device sleeps (the encoding of MARI_REQ; 0 awake), what the request will end with, rail requests not answered yet at entry or exit,
rails whose raise is tried again, the always-on cycles that the clocks were stopped for, and the strings of earlier requests whose blocks did not
restart (R555). -/
structure Mari where
  wmask   : Nat := 0
  at_     : Nat := 0
  stopped : List Nat := []
  ask     : Option Nat := none
  delayed : Bool := false
  resume  : List Nat := []
  latch   : Option Nat := none
  asleep  : Nat := 0
  result  : Nat := 0
  block   : Nat := 0
  rails   : List Nat := []
  again   : List Nat := []
  cycles  : Nat := 0
  failed  : List Nat := []
  deriving DecidableEq, Repr

/-- The wake listener (R561): 0 waiting for START, 1 for an address, 2 for a command, 3 for the end; WAKE_CFG as it stood at the last
START; and whether the last byte was acknowledged. -/
structure WakeL where
  stage : Nat := 0
  addr  : Nat := 0
  en    : Bool := false
  ack   : Bool := false
  deriving DecidableEq, Repr

/-- The TAP (R574, R575): the instruction at the last Update-IR, whether the debug state then admitted it, the boundary register
as captured or loaded, and the data register last read. -/
structure Jtag where
  ir   : Nat := 0x02
  act  : Nat := 0x02
  bsr  : List Bool := []
  dr   : Nat := 0
  deriving DecidableEq, Repr

/-- A BIST run in progress (R576). -/
structure BistRun where
  typ   : Nat
  index : Nat
  kind  : Nat
  deriving DecidableEq, Repr

/-- What a run that has ended gave, until SCU firmware's verdict on it (R578): the run, FAILS and the signature. -/
structure BistEnd where
  run   : BistRun
  fails : Nat
  misr  : Nat
  deriving DecidableEq, Repr

/-- The whole machine. `pending` is the queue of commands; `freeCtr` is the model's own count of the free values used; `dtOff` is what
device time has been advanced by for stopped clocks (R88); `calib` are the bytes of the calibration records as copied at the last start
(R581); `resets` are the resets of blocks since the die left reset, newest first: the
first of a run of slots, how many, and the running tick (R95); `lanePll` are the quads whose lane PLL has locked (R472). -/
structure State where
  pending : List Instr := []
  freeCtr : Nat := 0
  dt      : Nat := 0
  regs    : SMap Reg32 := []
  clsGrant : SMap Nat := []
  fab     : Fab := {}
  ic      : IC := {}
  dtOff   : Nat := 0
  yoyos   : SMap Yoyo := []
  twins   : SMap Twin := []
  xfifos  : SMap Xfifo := []
  resets  : List (Nat × Nat × Nat) := []
  faultQ  : List FaultMsg := []
  faultLog : List FltEntry := []
  wdogs   : SMap Wdog := []
  doms    : SMap DomRec := []
  cores   : SMap CoreRec := []
  l2s     : SMap (SMap L2Line) := []
  sc      : Sc := {}
  dram    : Dram := {}
  sram    : Sram := {}
  epoch   : Nat := 0
  engEpoch : Nat := 0
  eeprom  : SMap Byte := []
  calib   : SMap Byte := []
  sage    : Sage := {}
  engines : SMap NgEngine := []
  clusters : SMap NgCluster := []
  movers  : SMap MoverRec := []
  cells   : SMap Cell := []
  tyl     : Tyl := {}
  synt    : Synt := {}
  macs    : SMap EthMac := []
  strms   : SMap Strm := []
  pcies   : SMap Pcie := []
  pwr     : Pwr := {}
  mari    : Mari := {}
  wakeL   : WakeL := {}
  jtag    : Jtag := {}
  bist    : Option BistRun := none
  verdict : Option BistEnd := none
  lanePll : List Nat := []
  deriving DecidableEq, Repr

/-- The reasons a step stops with a fault: there are none. Every stop the spec describes leaves a next state (a record, a
log entry, a halted thread or a stopped core), so this inductive is empty; that is safe. -/
inductive Fault where
  deriving DecidableEq, Repr

/-- The reasons a step refuses a command. -/
inductive Refusal where
  /-- Raised by `exec` for a command whose meaning is not written yet; safe, since nothing can be proved of it. -/
  | notModelled (mnemonic : String)
  deriving DecidableEq, Repr

/-- What a command answers. -/
abbrev Result := Host.Outcome State Fault Refusal

/-- The machine right after a cold power-on and module reset (R97). Every structure's defaults are its reset values. -/
def State.reset : State := {}

end Sys2Proof.Machine
end

