-- ==== Sys2Proof/Machine/Ops.lean ====
section
/-!
DEFINITION. Machine/Ops.lean: the named operations that every meaning is written over: registers of a page, interrupt
lines, the error record of a page, the fabric error log, device time and free values.
-/

namespace Sys2Proof.Machine

/-! ## Free values -/

/-- A free value of `w` bits: nothing constrains it. (DESIGN CHOICE, log 7) -/
def freeVal (w : Nat) (s : State) : Nat × State := (Config.free s.freeCtr % 2 ^ w, { s with freeCtr := s.freeCtr + 1 })

/-! ## Registers of a page -/

/-- The stored value of the register at an offset of a page. -/
def rd (s : State) (p : Page) (off : Nat) : Reg32 := SMap.getF regResetAt s.regs (pageAddr p + off)

/-- The state with the stored value of a register set. -/
def wr (s : State) (p : Page) (off : Nat) (v : Reg32) : State :=
  { s with regs := SMap.setF regResetAt s.regs (pageAddr p + off) v }

/-- The field of `n` bits from bit `lo` of a register. -/
def rdF (s : State) (p : Page) (off lo n : Nat) : Nat := fld (rd s p off) lo n

/-- The state with a field of a register set. -/
def wrF (s : State) (p : Page) (off lo n x : Nat) : State := wr s p off (setFld (rd s p off) lo n x)

/-- One bit of a register. -/
def rdB (s : State) (p : Page) (off i : Nat) : Bool := bit (rd s p off) i

/-- The state with one bit of a register set to `x`. -/
def wrB (s : State) (p : Page) (off i : Nat) (x : Bool) : State := wrF s p off i 1 x.toNat

/-- The state with `k` added to a saturating field of a register. -/
def bumpF (s : State) (p : Page) (off lo n k : Nat) : State := wrF s p off lo n (satAdd (2 ^ n - 1) (rdF s p off lo n) k)

/-- OWNER.DID of a page (R119). -/
def owner (s : State) (p : Page) : Nat := rdF s p 0x030 0 6

/-- GEN of a page (R119). -/
def genOf (s : State) (p : Page) : Nat := rdF s p 0x034 0 8

/-- Every register of a page back at its reset value, but those `keep` names by offset (R13, R97). -/
def resetPage (s : State) (p : Page) (keep : Nat → Bool) : State :=
  { s with regs := SMap.drop s.regs fun a => pageAddr p ≤ a && a < pageAddr p + 0x1000 && !keep (a - pageAddr p) }

/-- The domain page of a DID. -/
def domPage (d : Nat) : Page := .dom (Fin.ofNat 64 d)

/-- BUSY of a page: its block is stopped for a soft reset (R103). -/
def blkBusy (s : State) (p : Page) : Bool := rdB s p 0x00C 3

/-! ## Device time -/

/-- The ticks for which CK_E has run since the aligned edge: device time without the advances of R88. -/
def runTick (s : State) : Nat := s.dt - s.dtOff

/-- The CK_F copy of device time: two ticks a cycle, and the same advances as every copy (R87, R88). -/
def dtF (s : State) : Nat := runTick s / 2 * 2 + s.dtOff

/-- The CK_P copy of device time `t`: 10, 11 and 11 in turn, from each aligned edge, and the same advances as every copy (R87, R88). -/
def dtPOf (s : State) (t : Nat) : Nat :=
  let r := (t - s.dtOff) % 32
  t - s.dtOff - r + (if r < 11 then 0 else if r < 22 then 10 else 21) + s.dtOff

/-- The CK_P copy of device time. -/
def dtP (s : State) : Nat := dtPOf s s.dt

/-- One second of device time (R87). -/
abbrev ticksPerSecond : Nat := 1777777778

/-- The clocks of the die run: it is out of reset and not in STANDBY (R548, R556). (DESIGN CHOICE, log 2) -/
def clocksOn (s : State) : Bool := s.pwr.die && s.mari.asleep ≠ 2

/-- Marionette has stopped the block of a string and it has not restarted (R553, R555). -/
def strStopped (s : State) (k : Nat) : Bool := s.mari.stopped.contains k || s.mari.failed.contains k

/-- Marionette has stopped CK_A of a Winovar cluster: from its GRANT on, and while it is in NAP (R553, R556). -/
def ckaStopped (s : State) (w : Nat) : Bool := rdB s .mari 0x044 (20 + w) || strStopped s (48 + w)

/-- Engine clusters are out of reset and their clocks run: Sage has released them (R102, R159). -/
def engUp (s : State) : Bool := clocksOn s && s.sage.phase = .done

/-! ## Interrupt lines (R503, R504) -/

/-- The shared source a page sends (R503); a core page sends through private source P0. -/
def sourceOf : Page → Option Nat
  | .ckrs => some 0 | .supv => some 1 | .ferr => some 2 | .mari => some 3 | .lcyc => some 4 | .flts => some 5
  | .bist => some 6 | .calb => some 7 | .wake => some 8 | .fabr => some 9 | .ictl => some 10 | .scac => some 11
  | .sram => some 12 | .dmc => some 13 | .rmap => some 14 | .tylw => some 15
  | .dch ch => some (16 + ch) | .wc w => some (34 + w) | .pce c => some (37 + c) | .eth m => some (41 + m)
  | .dom d => some (64 + d) | .scs d => some (128 + d) | .ln l => some (192 + l) | .pb b => some (224 + b)
  | .nc k => some (256 + k) | .ncm m => some (288 + m) | .nce e => some (544 + e) | .pc n => some (1056 + n)
  | .icp _ | .wcc _ => none

/-- The page whose slice a shared source is bound to (R503, R506); none for a reserved source. -/
def pageOfSource (k : Nat) : Option Page :=
  if k < 16 then
    [Page.ckrs, .supv, .ferr, .mari, .lcyc, .flts, .bist, .calb, .wake, .fabr, .ictl, .scac, .sram, .dmc, .rmap, .tylw][k]?
  else if k < 34 then (fin? 18 (k - 16)).map .dch
  else if k < 37 then (fin? 3 (k - 34)).map .wc
  else if k < 41 then (fin? 4 (k - 37)).map .pce
  else if k < 49 then (fin? 8 (k - 41)).map .eth
  else if k < 64 then none
  else if k < 128 then (fin? 64 (k - 64)).map .dom
  else if k < 192 then (fin? 64 (k - 128)).map .scs
  else if k < 224 then (fin? 32 (k - 192)).map .ln
  else if k < 240 then (fin? 16 (k - 224)).map .pb
  else if k < 256 then none
  else if k < 288 then (fin? 32 (k - 256)).map .nc
  else if k < 544 then (fin? 256 (k - 288)).map .ncm
  else if k < 1056 then (fin? 512 (k - 544)).map .nce
  else if k < 1312 then (fin? 256 (k - 1056)).map .pc
  else if k < 1328 then (fin? 4 ((k - 1312) / 4)).map .pce
  else if k < 1536 then none
  else (fin? 4 ((k - 1536) / 128)).map .pce

/-- The line of a page: IRQ_STAT AND IRQ_EN, any bit (R504). -/
def lineUp (s : State) (p : Page) : Bool := rd s p 0x010 &&& rd s p 0x014 ≠ 0

/-- A message of a page's source enters the path to the controller (R504). -/
def sendMsg (s : State) (p : Page) (src : Nat) (k : MsgKind) : State :=
  { s with ic := { s.ic with msgs := s.ic.msgs ++ [{ src := src, kind := k, did := owner s p, gen := genOf s p }] } }

/-- The line of a core page falls: P0 follows it again (R507, R521). -/
def p0Falls (s : State) : Page → State
  | .wcc n => { s with ic := { s.ic with p0off := s.ic.p0off.erase n.val } }
  | _ => s

/-- A change of a page's registers, with the ASSERT or DEASSERT message that a change of its line sends (R504). -/
def withLine (p : Page) (f : State → State) (s : State) : State :=
  let s' := f s
  match sourceOf p, lineUp s p, lineUp s' p with
  | some k, false, true => sendMsg s' p k .assert
  | some k, true, false => sendMsg s' p k .deassert
  | none, true, false => p0Falls s' p
  | _, _, _ => s'

/-- Bits of IRQ_STAT set by the block; nothing on a page whose BLK_CAP.IRQ is 0 (R588). -/
def setIrq (s : State) (p : Page) (mask : Nat) : State :=
  if capIRQ p then withLine p (fun s => wr s p 0x010 (rd s p 0x010 ||| BitVec.ofNat 32 mask)) s else s

/-! ## Crossings and the clocks of their sides (R81, R85, R92 to R94) -/

/-- The slot number of a page, which orders the crossings. -/
def slotOf (p : Page) : Nat := (pageAddr p - 0x10000000) / 0x1000

/-- The key of a crossing. -/
def yoyoKey (src dst : Page) (x : Fin 16) : Nat := (slotOf src * 2 ^ 16 + slotOf dst) * 16 + x

/-- The slot of a crossing's source page. -/
def yoyoSrcSlot (k : Nat) : Nat := k / 16 / 2 ^ 16

/-- The slot of a crossing's receiver page. -/
def yoyoDstSlot (k : Nat) : Nat := k / 16 % 2 ^ 16

/-- The twin-sampled crossing of a number. -/
def levelKey (k : Nat) : Nat := 2 * k

/-- The twin-sampled crossing of a Yo-yo's overflow flag (R91). -/
def ovfKey (k : Nat) : Nat := 2 * k + 1

/-- What the root clock is divided by for the block of a page (R81, R85); lane-side and SCU pages count with CK_F. (DESIGN CHOICE, log 37) -/
def pageDiv (s : State) : Page → Nat
  | .wc w => 2 + rdF s .ckrs 0x040 (4 + 2 * w.val) 2
  | .wcc n => 2 + rdF s .ckrs 0x040 (4 + 2 * (n.val / 8)) 2
  | .nc _ | .nce _ | .ncm _ | .pb _ | .pc _ => 3
  | .dmc | .rmap | .dch _ => 8
  | _ => 6

/-- Rising edges of the clock of a page's block between two running ticks; the always-on oscillator at its nominal rate (R88). -/
def edgesOf (s : State) (p : Page) (a b : Nat) : Nat :=
  if p = .wake then 9 * b / 16000 - 9 * a / 16000 else 3 * b / pageDiv s p - 3 * a / pageDiv s p

/-- The clock of a page's block runs (R85, R94, R548). -/
def clockRuns (s : State) : Page → Bool
  | .wake => s.pwr.vaon
  | .wc w => clocksOn s && s.pwr.ckA.contains w.val && !ckaStopped s w
  | .wcc n => clocksOn s && s.pwr.ckA.contains (n.val / 8) && !ckaStopped s (n.val / 8)
  | _ => clocksOn s

/-- Crossings carry nothing while Marionette has stopped the fabric (R553). -/
def xHeld (s : State) : Bool := strStopped s 51

/-- The receiving edges of a crossing between two running ticks: with the clock of either side stopped nothing crosses (R94). -/
def xEdges (s : State) (k a b : Nat) : Nat :=
  match pageOfSlot (yoyoSrcSlot k), pageOfSlot (yoyoDstSlot k) with
  | some p, some q => if clockRuns s p && clockRuns s q && !xHeld s then edgesOf s q a b else 0
  | _, _ => 0

/-- One receiving edge: the receiver samples, and accepts what it has sampled twice; after four edges the source may present its
latest value. Every acceptance comes at the second edge after the change. (DESIGN CHOICE, log 37) -/
def twinEdge (w : Twin) : Twin :=
  let r := { w with samp := w.pres, acc := if w.pres = w.samp then w.pres else w.acc, held := min 4 (w.held + 1) }
  if 3 ≤ w.held ∧ w.src ≠ w.pres then { r with pres := w.src, held := 0 } else r

/-- Receiving edges one after another. -/
def twinEdges : Nat → Twin → Twin
  | 0, w => w
  | n + 1, w => twinEdges n (twinEdge w)

/-- The receiving edges between two running ticks reach every crossing: twelve with one source value settle a twin-sampled one (R92),
and an entry of a FIFO is old enough after two (R93). -/
def settleCrossings (s : State) (a b : Nat) : State :=
  { s with
    twins := s.twins.map fun e => (e.1, if e.2.sync then e.2 else twinEdges (min 12 (xEdges s (e.1 / 2) a b)) e.2)
    xfifos := s.xfifos.map fun e => (e.1, { e.2 with ents := e.2.ents.map fun v => (v.1, min 2 (v.2 + xEdges s e.1 a b)) }) }

/-! ## The cycles of the Winovar clusters (R85, R255, R256) -/

/-- Reset values of the system registers (R168). -/
def sysReset (k : Nat) : Word64 := if k = 0x400 then 3 else if k = 0x406 ∨ k = 0x806 then 0xF else 0

/-- The CK_A of a core runs (R85, R94, R549, R553). -/
def ckaRuns (s : State) (n : Fin 24) (c : CoreRec) : Bool :=
  clocksOn s && s.pwr.ckA.contains (n.val / 8) && !ckaStopped s (n.val / 8) && decide (c.run ≠ .doze)

/-- Rising edges of CK_A of cluster `w` between two running ticks: CK_E's root divided by 2, 3 or 4 (R81, R85). -/
def ckaEdges (s : State) (w a b : Nat) : Nat :=
  let d := 2 + rdF s .ckrs 0x040 (4 + 2 * w) 2
  3 * b / d - 3 * a / d

/-- Whether the masks CU, CK, CH of a counter let a level count; no counter counts at F (R255). -/
def pmuLevel (v : Reg32) (l : Nat) : Bool := l < 3 && bit v (8 + l)

/-- `k` counts of a counter of the core page, wrapping into its IRQ_STAT bit (R255). -/
def pmuAdd (s : State) (n : Fin 24) (off i k : Nat) : State :=
  let v := rd s (.wcc n) off
  let s := wr s (.wcc n) off (v + BitVec.ofNat 32 k)
  if 2 ^ 32 ≤ v.toNat + k then setIrq s (.wcc n) (2 ^ i) else s

/-- `k` counts of an event of R256 at a level: each programmable counter that selects it counts. -/
def pmuCount (l : Nat) (n : Fin 24) (k : Nat) (s : State) (ev : Nat) : State :=
  if rdB s (.wcc n) 0x040 0 then
    [0, 1, 2, 3].foldl (fun t i =>
      if rdF t (.wcc n) (0x044 + 4 * i) 0 6 = ev && pmuLevel (rd t (.wcc n) (0x044 + 4 * i)) l
      then pmuAdd t n (0x068 + 4 * i) (i + 2) k else t) s
  else s

/-- `k` cycles of a core that retired `r` instructions in them: PMU_CYC, and events 0x01 and 0x11, of which each retired instruction
takes one cycle. (DESIGN CHOICE, log 44) -/
def pmuCycles (n : Fin 24) (l k r : Nat) (s : State) : State :=
  if k = 0 ∨ rdB s (.wcc n) 0x040 0 = false then s
  else
    let s := if pmuLevel (rd s (.wcc n) 0x040) l then pmuAdd s n 0x060 0 k else s
    pmuCount l n (k - r) (pmuCount l n k s 0x01) 0x11

/-- The cycles of one core between two running ticks. -/
def coreCycles (a b : Nat) (s : State) (e : Nat × CoreRec) : State :=
  let n : Fin 24 := Fin.ofNat 24 e.1
  if ckaRuns s n e.2 then pmuCycles n (fld (SMap.getF sysReset e.2.sys 0x400) 0 2) (ckaEdges s (n.val / 8) a b) e.2.done s else s

/-! ## Waiting at the ports of on-chip SRAM (R281, R282, R286) -/

/-- The encoding of MASTER (R125). -/
def masterCode : Master → Nat
  | .core n => n
  | .pcie c => 0x080 + c
  | .eth m => 0x088 + m
  | .scu => 0x0F0
  | .tyl _ => 0x0F1
  | .sysCache => 0x0F2
  | .engine e => 0x100 + e
  | .mover m => 0x300 + m

/-- First byte of on-chip SRAM (R105). -/
def sramBase : Nat := 0x1000000

/-- A byte address in on-chip SRAM. -/
def inSram (a : Nat) : Bool := decide (sramBase ≤ a) && decide (a < 0x2000000)

/-- The bank of a byte address. -/
def bankAt (a : Nat) : Nat := (a - sramBase) / 0x40000

/-- The port of a bank that serves a class: banks 0 to 3 serve RT at port B, and every other class, as every other bank serves all, at
port A (R282). -/
def sramPort (b cls : Nat) : Nat := 2 * b + (decide (b < 4 ∧ cls = 0)).toNat

/-- A fabric request that waits at its bank port. -/
def txnWait (t : Txn) : PortWait :=
  { who := 2 * t.id + 1, master := masterCode t.req.master, bank := bankAt t.req.addr, port := sramPort (bankAt t.req.addr) t.attr.cls, cls := t.attr.cls, since := t.since }

/-- What waits at the ports: fabric requests that have come there, and accesses of cores. -/
def portWaits (s : State) : List PortWait :=
  (s.fab.txns.filter fun t => decide (t.status = .transit) && t.arr && inSram t.req.addr).map txnWait ++ s.cores.filterMap fun e => e.2.atPort

/-- The conflict counters that watch a master and a bank count cycles in which a request waited (R286). -/
def confCount (s : State) (m b k : Nat) : State :=
  (List.range 8).foldl (fun t i =>
    let v := rd t .sram (0x060 + 8 * i)
    if bit v 31 ∧ fld v 0 10 = m ∧ (bit v 22 ∨ fld v 16 6 = b) then bumpF t .sram (0x064 + 8 * i) 0 32 k else t) s

/-- A request that waits at its port between two ticks waits there each CK_F cycle, of two ticks (R286). -/
def portCycles (a b : Nat) (s : State) (w : PortWait) : State := confCount s w.master w.bank (b / 2 - a / 2)

/-- Device time brought forward to a tick at which the command's event happens; it never decreases (R88), the cores count their
cycles, the crossings their receiving edges and the ports of on-chip SRAM what waits there on the way. (DESIGN CHOICE, log 6) -/
def advanceTo (s : State) (t : Nat) : State :=
  if t ≤ s.dt then s
  else
    let a := s.dt - s.dtOff
    let b := t - s.dtOff
    let u := settleCrossings (s.cores.foldl (coreCycles a b) ((portWaits s).foldl (portCycles a b) s)) a b
    { u with dt := t, cores := u.cores.map fun e => (e.1, { e.2 with done := 0 }) }

/-- What an idle block does: while its clocks run, device time counts one tick (R86). (DESIGN CHOICE, log 2) -/
def idleTick (s : State) : State := if clocksOn s then advanceTo s (s.dt + 1) else s

/-! ## Caches that go with their core's reset -/

/-- An L1 cache without its lines; the ways out of use stay so (R249). -/
def emptiedL1 (c : L1Cache) : L1Cache := { pars := c.pars, off := c.off }

/-- What is kept of a core's record when the core is reset: the ways out of use (R166, R249). -/
def freshCore (c : CoreRec) : CoreRec := { l1i := emptiedL1 c.l1i, l1d := emptiedL1 c.l1d }

/-! ## The error record of a page (R118, R119) -/

/-- Class codes of ERR_INFO.CLASS. -/
abbrev corrected : Nat := 0
/-- Contained class. -/
abbrev contained : Nat := 1
/-- Fatal class. -/
abbrev fatal : Nat := 2

/-- The attributes of an internal error: OWNER with PID 0, and GEN (ERR_TAG); the SCLS field stands at 1. (DESIGN CHOICE, log 81) -/
def pageAttr (s : State) (p : Page) : Attr := { did := owner s p, gen := genOf s p, cls := 1 }

/-- ERR_TAG as a word. -/
def tagWord (a : Attr) : Nat := a.pid % 2 ^ 14 + a.did % 64 * 2 ^ 14 + a.gen % 256 * 2 ^ 20 + a.cls % 4 * 2 ^ 28

/-- A page detects an error: ERRS counts it, the record captures it while VALID is 0 and sets IRQ_STAT.ERR, else OVF is set
(R119); an error of contained or fatal class sends a fault message to the collector whether or not it is captured (R566), a
contained one raised to `did` (R567). -/
def recordErr (s : State) (p : Page) (code cls : Nat) (a : Attr) (detail did : Nat) (scuOwn : Bool := false) : State :=
  let s := bumpF s p 0x02C 16 16 1
  let s :=
    if rdB s p 0x020 0 then wrB s p 0x020 1 true
    else
      let s := wr s p 0x020 (setFld (setFld (setBit (rd s p 0x020) 0 true) 8 8 code) 16 2 cls)
      let s := wr s p 0x024 (BitVec.ofNat 32 (tagWord a))
      let s := wr s p 0x028 (BitVec.ofNat 32 detail)
      setIrq s p 0x80000000
  if cls = corrected then s
  else { s with faultQ := s.faultQ ++ [{ page := p, code := code, cls := cls, attr := a, detail := detail, did := did, scuOwn := scuOwn }] }

/-! ## The fault log (R573) -/

/-- An entry of the fault log, or its loss (R573). (DESIGN CHOICE, log 30) -/
def logFault (s : State) (m : FaultMsg) (action : Nat) : State :=
  if s.faultLog.length < 16 then
    let e : FltEntry := { slot := pageAddr m.page / 0x1000 % 2 ^ 16, code := m.code, cls := m.cls, action := action, attr := m.attr,
                          detail := m.detail, time := dtF s % 2 ^ 32 }
    setIrq { s with faultLog := s.faultLog ++ [e] } .flts 1
  else wrB s .flts 0x0A0 5 true

/-- FLT_ACT of a DID (R568). -/
def faultAction (s : State) (d : Nat) : Nat := rdF s .flts (0x050 + 4 * (d / 16)) (2 * (d % 16)) 2

/-- The first `k` fault messages have their entries, made in order of arrival (R573). (DESIGN CHOICE, log 30) -/
def logArrived (s : State) (k : Nat) : State :=
  let l := s.faultQ.take k
  (l.filter fun m => !m.logged).foldl (fun s m => logFault s m (if m.cls = fatal then 3 else faultAction s m.did))
    { s with faultQ := l.map (fun m => { m with logged := true }) ++ s.faultQ.drop k }

/-! ## Errors of a page -/

/-- A corrected-class error of a page, about a request. -/
def recCorrected (s : State) (p : Page) (code : Nat) (a : Attr) (detail : Nat) : State :=
  recordErr s p code corrected a detail (owner s p)

/-- A corrected-class internal error of a page. -/
def recInternal (s : State) (p : Page) (code detail : Nat) : State :=
  recordErr s p code corrected (pageAttr s p) detail (owner s p)

/-- A contained-class internal error of a page, raised to its OWNER (R567). -/
def recContained (s : State) (p : Page) (code detail : Nat) : State :=
  recordErr s p code contained (pageAttr s p) detail (owner s p)

/-- A fatal-class internal error of a page. -/
def recFatal (s : State) (p : Page) (code detail : Nat) : State :=
  recordErr s p code fatal (pageAttr s p) detail (owner s p)

/-- A page that has no code left for an error no rule names one for: R118 gives 0x01 to 0x06 their causes and reserves 0x07 to 0x7F, FABR
has no block codes (R546), and R317 lists those of DMC. (DESIGN CHOICE, log 12) -/
def noCode (p : Page) : Bool := p = .fabr || p = .dmc

/-- An internal error of a page whose CODE and ERR_ADDR the spec does not state: both are free values, the CODE a block code. Where the
page has no code for it, its record stays and the fault message alone is sent (R566). (DESIGN CHOICE, log 12) -/
def recUnstated (s : State) (p : Page) (cls : Nat) (scuOwn : Bool := false) : State :=
  let c := freeVal 7 s
  let d := freeVal 32 c.2
  if noCode p then
    { d.2 with faultQ := d.2.faultQ ++
      [{ page := p, code := 0x80 + c.1, cls := cls, attr := pageAttr d.2 p, detail := d.1, did := owner d.2 p, scuOwn := scuOwn }] }
  else recordErr d.2 p (0x80 + c.1) cls (pageAttr d.2 p) d.1 (owner d.2 p) scuOwn

/-! ## The fabric error log (R123 to R125) -/

/-- KIND codes of R124. -/
inductive Kind where
  | unmapped | wrongOwner | asleep | wakeTimeout | size | master | partialWord | engineBusy
  deriving DecidableEq, Repr

/-- The encoding of KIND (R124). -/
def kindCode : Kind → Nat
  | .unmapped => 1 | .wrongOwner => 2 | .asleep => 3 | .wakeTimeout => 4 | .size => 5 | .master => 6
  | .partialWord => 7 | .engineBusy => 8

/-- The encoding of FERR_E1.OP (R123). -/
def opCode : ReqOp → Nat
  | .read => 0 | .write => 1 | .fetch => 2 | .fillAtomic => 3

/-- A record enters the fabric error log, or is lost when the FIFO of 32 is full (R123). -/
def ferrLog (s : State) (m : Master) (a : Attr) (op : ReqOp) (addr : Nat) (k : Kind) : State :=
  if s.fab.ferr.length < 32 then
    let e : FerrEntry := { addr := addr, op := opCode op, kind := kindCode k, master := masterCode m, attr := a, time := dtF s % 2 ^ 32 }
    setIrq { s with fab := { s.fab with ferr := s.fab.ferr ++ [e] } } .ferr 1
  else wrB (bumpF s .ferr 0x058 0 16 1) .ferr 0x040 6 true

/-! ## The target of a BIST run (R576) -/

/-- A BIST run tests target `i` of a TYPE. -/
def bistOn (s : State) (typ i : Nat) : Bool :=
  match s.bist with
  | some b => b.typ = typ && b.index = i
  | none => false

/-! ## Answers -/

/-- The state that an operation comes to, which is done or has to wait. -/
def settled : Except State State → State
  | .ok s => s
  | .error s => s

/-- The answer of the last access made by a command, for its sender. -/
def answer (s : State) (err : Bool) (data : Nat) : State := { s with fab := { s.fab with resp := { err := err, data := data } } }

end Sys2Proof.Machine
end

