-- ==== Sys2Proof/Machine/Calib.lean ====
section
/-!
DEFINITION. Machine/Calib.lean: the calibration EEPROM and its records (R579 to R583).
-/

namespace Sys2Proof.Machine

/-- A byte of the calibration EEPROM. -/
def epByte (s : State) (a : Nat) : Byte := SMap.get 0 s.eeprom a

/-- `n` bytes of the EEPROM from an address. -/
def epBytes (s : State) (a n : Nat) : List Byte := (List.range n).map fun i => epByte s (a + i)

/-- Bytes written to the EEPROM from an address. -/
def epWrite (s : State) (a : Nat) (bs : List Byte) : State :=
  { s with eeprom := (bs.zipIdx).foldl (fun m e => SMap.set 0 m (a + e.2) e.1) s.eeprom }

/-- Slot address and size of each record type (R580). -/
def calSlot (t : Nat) : Option (Nat × Nat) :=
  [(0x0000, 64), (0x0040, 64), (0x0080, 4096), (0x1080, 128), (0x1100, 128), (0x1180, 512), (0x1380, 8192), (0x3380, 64),
    (0x33C0, 64)][t]?

/-- LEN of the record in a slot. -/
def calLen (s : State) (base : Nat) : Nat := ofBytes (epBytes s (base + 2) 2)

/-- The CRC of a record holds: CRC-32 over bytes 0 to 7 + LEN (R579). (DESIGN CHOICE, log 16) -/
def calCrcOk (s : State) (base size : Nat) : Bool :=
  let len := calLen s base
  decide (len + 12 ≤ size) && decide (ofBytes (epBytes s (base + 8 + len) 4) = crc32 (epBytes s base (8 + len)))

/-- A record is good (R579, R580). -/
def calGood (s : State) (t : Nat) : Bool :=
  match calSlot t with
  | none => false
  | some (base, size) =>
    calCrcOk s base size && decide (ofBytes (epBytes s base 2) = t) && decide ((epByte s (base + 4)).toNat ≤ 1)
      && decide (epByte s (base + 5) = 1)

/-- A record is used at a start: good, and the HEADER good too (R580). -/
def calUsed (s : State) (t : Nat) : Bool := calGood s t && calGood s 0

/-- The record in a slot gets new DATA bytes at an offset: WRITER (kept where `writer` is none), SEQ + 1, LEN extended to
cover the bytes and at most what the slot holds, a new CRC (R579, R582, R583). -/
def calPut (s : State) (base size off : Nat) (bs : List Byte) (writer : Option Byte) : State :=
  let len := max (min (calLen s base) (size - 12)) (off + bs.length)
  let seq := ofBytes (epBytes s (base + 6) 2) + 1
  let s := epWrite s (base + 8 + off) bs
  let s := epWrite s (base + 2) (bytesOf 2 len)
  let s := match writer with
    | some w => epWrite s (base + 4) [w]
    | none => s
  let s := epWrite s (base + 6) (bytesOf 2 (seq % 2 ^ 16))
  epWrite s (base + 8 + len) (bytesOf 4 (crc32 (epBytes s base (8 + len))))

/-- The byte of the rank-retirement record for a physical rank, 2 × channel + rank, as copied at the last start; 0 without a good record
(R580, R581). -/
def rankByte (s : State) (pr : Nat) : Nat := (SMap.get 0 s.calib (0x3380 + 8 + pr)).toNat

/-- An address of the EEPROM lies in the slot of one of some records. -/
def calWithin (l : List Nat) (a : Nat) : Bool := l.any fun t => match calSlot t with
  | some (b, n) => decide (b ≤ a) && decide (a < b + n)
  | none => false

/-- SCU firmware records a physical rank in RANK_RET (R309, R583). -/
def setRankByte (s : State) (pr v : Nat) : State := calPut s 0x3380 64 pr [BitVec.ofNat 8 v] none

/-- Sage copies the set at a start (R580, R581, R587): the bytes of the records that are used, CAL_VALID, CAL_USER, CAL_COPY, and the codes
of bad records. -/
def calCopy (s : State) (us : Nat) : State :=
  let good := (List.range 9).filter (calUsed s)
  let v := good.foldl (fun a t => a + 2 ^ t) 0
  let user := (List.range 9).filter fun t => match calSlot t with
    | some (b, _) => epByte s (b + 4) = 1
    | none => false
  let u := user.foldl (fun a t => a + 2 ^ t) 0
  let s := wr (wr (wr s .calb 0x040 (BitVec.ofNat 32 v)) .calb 0x044 (BitVec.ofNat 32 u)) .calb 0x048 (BitVec.ofNat 32 (us % 2 ^ 16))
  let s := { s with calib := s.eeprom.filter fun e => calWithin good e.1 }
  (List.range 9).foldl (fun s t =>
    if calUsed s t then s
    else if t = 0 then recordErr s .calb 0x82 contained (pageAttr s .calb) t 0
    else if t = 7 then recordErr s .calb 0x81 contained (pageAttr s .calb) t 0
    else recInternal s .calb 0x80 t) s

end Sys2Proof.Machine
end

