-- ==== Sys2Proof/Machine/Dram.lean ====
section
/-!
DEFINITION. Machine/Dram.lean: the LPDDR6 memory system (spec 10): address map, Rosemary, ports, scheduling, outcomes of
reads and writes, scrub, and live rank migration.
-/

namespace Sys2Proof.Machine

/-! ## Addresses (R2, R106, R295) -/

/-- The first line of DRAM, in lines of 64 bytes. -/
def dramBase : Nat := 0x200000000

/-- Lines of one rank (R295). -/
def rankLines (s : State) : Nat := if s.dram.code064 then 2 ^ 25 else 2 ^ 26

/-- Lines of the DRAM range in service (R105, R106). -/
def dramLines (s : State) : Nat := 32 * rankLines s

/-- A line address in the DRAM range. -/
def inDram (s : State) (la : Nat) : Bool := decide (dramBase ≤ la) && decide (la < dramBase + dramLines s)

/-- The logical channel of a line (R295). -/
def chanOf (la : Nat) : Nat :=
  let o := la - dramBase
  Nat.xor (Nat.xor (o % 16) (o / 2 ^ 8 % 16)) (o / 2 ^ 16 % 16)

/-- The logical rank L of a line (R295). -/
def logRank (s : State) (la : Nat) : Nat := 2 * chanOf la + (la - dramBase) / (16 * rankLines s) % 2

/-- The rank line n of a line (R295). -/
def rankLine (s : State) (la : Nat) : Nat := (la - dramBase) / 16 % rankLines s

/-- The bank of a rank line (R295). -/
def bankOf (n : Nat) : Nat := Nat.xor (n % 16) (n / 2 ^ 16 % 16)

/-- The row of a rank line (R295). -/
def rowOf (n : Nat) : Nat := n / 2 ^ 10

/-- Rosemary: the physical rank, 2 × channel + rank, of a logical rank (R296, R315). -/
def rosemary (s : State) (l : Nat) : Nat :=
  2 * rdF s .rmap (0x040 + 4 * l) 0 5 + rdF s .rmap (0x040 + 4 * l) 5 1

/-- STATE of a Rosemary entry: 0 NORMAL, 1 MIGRATING, 2 DEGRADED. -/
def rankState (s : State) (l : Nat) : Nat := rdF s .rmap (0x040 + 4 * l) 6 2

/-- The physical rank of a spare (R298): channel 16 rank 0 is physical rank 32. -/
def sparePr (sp : Nat) : Nat := 32 + sp

/-- The state of a spare in RMAP_SPARE. -/
def spareState (s : State) (sp : Nat) : Nat := rdF s .rmap 0x0C4 (2 * sp) 2

/-- A spare's state set. -/
def setSpare (s : State) (sp v : Nat) : State := wrF s .rmap 0x0C4 (2 * sp) 2 v

/-- The key of a line in the memory: physical rank and rank line. -/
def memKey (pr n : Nat) : Nat := pr * 2 ^ 26 + n

/-- The physical rank that serves reads of rank line `n` of `l` (R310). -/
def readRank (s : State) (l n : Nat) : Nat :=
  match s.dram.mig with
  | some (ml, sp, cp) => if ml = l ∧ n < cp then sparePr sp else rosemary s l
  | none => rosemary s l

/-- The physical ranks that a write goes to (R310). -/
def writeRanks (s : State) (l : Nat) : List Nat :=
  match s.dram.mig with
  | some (ml, sp, _) => if ml = l then [rosemary s l, sparePr sp] else [rosemary s l]
  | none => [rosemary s l]

/-! ## Stored lines -/

/-- Every bit of a line. -/
def beAll : Line := BitVec.allOnes 512

/-- A line with the bits of a mask replaced. -/
def mergeLine (old new mask : Line) : Line := (old &&& ~~~mask) ||| (new &&& mask)

/-- A stored line and whether it is stored as poisoned. (DEDUCED, log 9) -/
def storedLine (s : State) (pr n : Nat) : Line × Bool :=
  (SMap.get 0 s.dram.mem (memKey pr n), SMap.get false s.dram.bad (memKey pr n))

/-- A line stored in a physical rank. (DEDUCED, log 9) -/
def storeLine (s : State) (pr n : Nat) (v : Line) (poison : Bool) : State :=
  { s with dram := { s.dram with mem := SMap.set 0 s.dram.mem (memKey pr n) v, bad := SMap.set false s.dram.bad (memKey pr n) poison } }

/-- A write applied to a line and its poison: a full write clears poison unless it carries it; a partial write keeps it
(R272, R294). -/
def applyWrite (x : Line × Bool) (data be : Line) (poison : Bool) : Line × Bool :=
  if be = beAll then (data, poison) else (mergeLine x.1 data be, x.2 || poison)

/-- What DRAM will hold of a line once the writes accepted for it complete (R39, R302). -/
def peekDram (s : State) (la : Nat) : Line × Bool :=
  let l := logRank s la
  let n := rankLine s la
  s.dram.reqs.foldl (fun x r => if r.isW ∧ r.line = la then applyWrite x r.data r.be r.poison else x)
    (storedLine s (readRank s l n) n)

/-! ## Requests and ports (R301, R304) -/

/-- The port of a master (R301), by its MASTER number (R125). -/
def portOf (m : Nat) : Nat :=
  if m < 0x018 then m / 8
  else if 0x080 ≤ m ∧ m < 0x084 then 5
  else if (0x088 ≤ m ∧ m < 0x090) ∨ m = 0x0F1 then 6
  else if 0x100 ≤ m ∧ m < 0x300 then (if m < 0x200 then 3 else 4)
  else if 0x300 ≤ m ∧ m < 0x400 then (if m < 0x380 then 3 else 4)
  else 7

/-- A request the system cache sends to the DRAM controller. -/
def sendDram (s : State) (r : DReq) : State :=
  { s with dram := { s.dram with reqs := s.dram.reqs ++ [{ r with id := s.dram.nextId }], nextId := s.dram.nextId + 1 } }

/-- The request of a number. -/
def dreq? (s : State) (id : Nat) : Option DReq := s.dram.reqs.find? fun r => r.id = id

/-- The request of a number changed. -/
def updDreq (s : State) (id : Nat) (f : DReq → DReq) : State :=
  { s with dram := { s.dram with reqs := s.dram.reqs.map fun r => if r.id = id then f r else r } }

/-- The request of a number gone. -/
def dropDreq (s : State) (id : Nat) : State :=
  { s with dram := { s.dram with reqs := s.dram.reqs.filter fun r => decide (r.id ≠ id) } }

/-- Entries a port buffer holds (DMC_PSTAT.LEVEL). -/
def portLevel (s : State) (p : Nat) : Nat := (s.dram.reqs.filter fun r => decide (r.port = p ∧ r.stat = .buffered)).length

/-- A port enters panic at PANIC_ON and leaves it at PANIC_OFF (R304). -/
def updPanic (s : State) (p : Nat) : State :=
  let r := rd s .dmc (0x060 + 4 * p)
  let lv := portLevel s p
  let cur := SMap.get false s.dram.panic p
  let new := bit r 15 && (if cur then decide (fld r 8 6 < lv) else decide (fld r 0 6 ≤ lv))
  { s with dram := { s.dram with panic := SMap.set false s.dram.panic p new } }

/-- The copy of a migration is done and its rank drains: new requests to it are held at their ports (R309). -/
def draining (s : State) (la : Nat) : Bool :=
  match s.dram.mig with
  | some (l, _, cp) => decide (logRank s la = l ∧ cp = rankLines s)
  | none => false

/-- A request sent earlier to the same line keeps one from being accepted: one of its own port, or a write that carries the only copy of the line
(R39, R266, R277). One that its master still waits for, at another port, does not (R301). -/
def sentBefore (s : State) (r : DReq) : Bool :=
  s.dram.reqs.any fun q => decide (q.id < r.id) && decide (q.line = r.line) && decide (q.stat = .sent) &&
    (decide (q.port = r.port) || match q.cause with
      | .write none | .victim _ | .cmd => true
      | _ => false)

/-- A request enters its port buffer when an entry is free (R301, R304, R309). -/
def acceptDreq (s : State) (id : Nat) : State :=
  match dreq? s id with
  | some r =>
    if r.stat = .sent ∧ portLevel s r.port < 64 ∧ !draining s r.line ∧ !sentBefore s r then
      let s := updDreq s id fun r => { r with stat := .buffered, since := s.dt, acc := s.dram.nextAcc }
      updPanic { s with dram := { s.dram with nextAcc := s.dram.nextAcc + 1 } } r.port
    else s
  | none => s

/-- DRAM_REQUEST (R301, R304, R309). -/
def execDramRequest (id : Nat) (s : State) : Result := .next (acceptDreq s id)

/-! ## Tokens (R305, R313, R535) -/

/-- Tokens a domain holds (DOM_TOKST.HELD). -/
def tokHeld (s : State) (d : Nat) : Nat := (s.dram.reqs.filter fun r => decide (r.tok ∧ r.attr.did = d)).length

/-- Tokens of a domain held by writes to a MIGRATING rank (DOM_TOKST.MIG). -/
def tokMig (s : State) (d : Nat) : Nat := (s.dram.reqs.filter fun r => decide (r.tok ∧ r.mig ∧ r.attr.did = d)).length

/-- All tokens held by writes to a MIGRATING rank (DMC_MIG_HELD). -/
def migHeld (s : State) : Nat := (s.dram.reqs.filter fun r => decide (r.tok ∧ r.mig)).length

/-- GRANT of DOM_TOK. -/
def tokGrant (s : State) (d : Nat) : Nat :=
  match fin? 64 d with
  | some i => rdF s (.dom i) 0x05C 0 11
  | none => 0

/-- Tokens of a destroyed domain go back to their pool as they return (R540). (DEDUCED, log 25) -/
def returnTok (s : State) (d : Nat) : State :=
  if (SMap.get {} s.doms d).owedT then wrF s (domPage d) 0x05C 0 11 (min (rdF s (domPage d) 0x05C 0 11) (tokHeld s d)) else s

/-- A domain has a free token (R535). -/
def tokFree (s : State) (d : Nat) : Bool := decide (tokHeld s d < tokGrant s d)

/-- A request is scheduled in tier 4 as BG for want of a token (R305). -/
def noToken (s : State) (r : DReq) : Bool := r.attr.did ≠ 0 && !r.tok && !tokFree s r.attr.did

/-! ## Scheduling (R303, R306) -/

/-- Age of a request in CK_M cycles: 8 root cycles against 3 of a tick. -/
def ageOf (s : State) (r : DReq) : Nat := (s.dt - r.since) * 3 / 8

/-- The physical ranks that a request has to be given to: two for a write to a migrating rank (R310). -/
def destRanks (s : State) (r : DReq) : List Nat :=
  if r.isW then writeRanks s (logRank s r.line) else [readRank s (logRank s r.line) (rankLine s r.line)]

/-- The physical rank that a request is given to next: of a dual write the old one first, and each channel's scheduler chooses it.
(DESIGN CHOICE, log 55) -/
def reqRank (s : State) (r : DReq) : Nat :=
  ((destRanks s r).find? fun pr => !r.part.contains pr).getD (readRank s (logRank s r.line) (rankLine s r.line))

/-- The requests a channel can choose among: accepted, on the channel, bank free (bit 16 × rank + bank of `busy`). -/
def candidates (s : State) (ch : Nat) (busy : BitVec 32) : List DReq :=
  s.dram.reqs.filter fun r =>
    decide (r.stat = .buffered) && decide (reqRank s r / 2 = ch) &&
      !busy.getLsbD (reqRank s r % 2 * 16 + bankOf (rankLine s r.line))

/-- The row of a rank line is open in its bank. -/
def rowOpen (s : State) (pr n : Nat) : Bool := SMap.find? s.dram.rows (pr * 16 + bankOf n) = some (rowOf n)

/-- A request hits the open row of its bank. -/
def rowHit (s : State) (r : DReq) : Bool := rowOpen s (reqRank s r) (rankLine s r.line)

/-- A command goes to a rank line: its row is open, and the rank leaves power-down (R291). -/
def touchRank (s : State) (n pr : Nat) : State :=
  { s with dram := { s.dram with
      rows := SMap.put s.dram.rows (pr * 16 + bankOf n) (rowOf n)
      pdown := s.dram.pdown.erase pr
      lastUse := SMap.set 0 s.dram.lastUse pr s.dt } }

/-- The age limit of a class (DMC_AGE0, DMC_AGE1). -/
def ageLimit (s : State) (c : Nat) : Nat :=
  if c = 0 then rdF s .dmc 0x048 0 16 else if c = 1 then rdF s .dmc 0x048 16 16
  else if c = 2 then rdF s .dmc 0x04C 0 16 else rdF s .dmc 0x04C 16 16

/-- MODE in force is DEADLINE. -/
def deadlineMode (s : State) : Bool := rdB s .dmc 0x040 3

/-- The urgency of an age against a target, both in CK_M cycles (R306). -/
def urgencyOf (t a : Nat) : Nat := if t = 0 ∨ 2 * a < t then 0 else if 4 * a < 3 * t then 1 else if a < t then 2 else 3

/-- LAT_TGT of a port in CK_M cycles. -/
def latTgt (s : State) (p : Nat) : Nat := 4 * rdF s .dmc (0x060 + 4 * p) 16 12

/-- The urgency of a request (R306). -/
def urgency (s : State) (r : DReq) : Nat := urgencyOf (latTgt s r.port) (ageOf s r)

/-- The rank of a request in the scheduler's order, lower first: tier, class, row hit (R303), or urgency (R306). (DEDUCED, log 17) -/
def schedKey (s : State) (r : DReq) : Nat :=
  if deadlineMode s then 3 - urgency s r
  else if r.attr.cls = 0 ∧ SMap.get false s.dram.panic r.port ∧ !noToken s r then 0
  else if ageLimit s r.attr.cls ≠ 0 ∧ ageLimit s r.attr.cls ≤ ageOf s r then 1
  else 2 + 2 * (if noToken s r then 3 else r.attr.cls) + (if rowHit s r then 0 else 1)

/-- The request the scheduler takes; age breaks ties, by the order of acceptance (R303, R306). (DESIGN CHOICE, log 17) -/
def schedPick (s : State) : List DReq → Option DReq
  | [] => none
  | r :: rs =>
    match schedPick s rs with
    | none => some r
    | some q => if schedKey s q < schedKey s r ∨ (schedKey s q = schedKey s r ∧ q.acc < r.acc) then some q else some r

/-- A refresh of tier 1 that is due on a channel: physical rank and bank. -/
def refreshPick (s : State) (ch : Nat) (busy : BitVec 32) : Option (Nat × Nat) :=
  s.dram.refDue.find? fun e => decide (e.1 / 2 = ch) && !busy.getLsbD (e.1 % 2 * 16 + e.2)

/-- The place in the scheduler's order of patrol scrub or a migration copy, of class BG, that has waited since a tick: an internal
source, whose target is AGE_BG (R303, R306). -/
def internalKey (s : State) (pr n since : Nat) : Nat :=
  let a := (s.dt - since) * 3 / 8
  let lim := ageLimit s 3
  if deadlineMode s then 3 - urgencyOf lim a
  else if lim ≠ 0 ∧ lim ≤ a then 1
  else 8 + (if rowOpen s pr n then 0 else 1)

/-- The first tick in which a request is `c` CK_M cycles old: 8 ticks are 3 cycles. -/
def tickAtAge (since c : Nat) : Nat := since + (8 * c + 2) / 3

/-- Ticks of one hour of device time. -/
def ticksPerHour : Nat := 6400000000000

/-- The tick at which the next copy of the running migration is due: at its start, then GAP CK_M cycles after the last (R309). -/
def copyDue (s : State) (cp : Nat) : Nat := if cp = 0 then s.dram.copyAt else tickAtAge s.dram.copyAt (rdF s .dmc 0x054 0 8)

/-- Ticks from one scrub read to the next: a pass over every mapped line takes PERIOD hours (R307). -/
def scrubStep (s : State) : Nat := ticksPerHour * rdF s .dmc 0x050 0 8 / (32 * rankLines s)

/-- The tick at which the next scrub read is due. -/
def scrubDue (s : State) : Nat := s.dram.scrubAt + scrubStep s

/-- Scrub reads: DRAM is in service with its clocks, PERIOD is not 0, and the rank is not migrating (R307) and not in self-refresh (R300). -/
def scrubOn (s : State) : Bool :=
  let l := s.dram.scrub / rankLines s
  clocksOn s && rdB s .dmc 0x040 0 && decide (rdF s .dmc 0x050 0 8 ≠ 0) && decide (rankState s l ≠ 1)
    && decide (rdF s (.dch (Fin.ofNat 18 (rosemary s l / 2))) 0x040 0 2 = 1)

/-- The accesses of patrol scrub and migration copy that are due: physical rank, rank line, and the tick since which they wait (R303). -/
def internalDue (s : State) : List (Nat × Nat × Nat) :=
  let sc := s.dram.scrub
  (if scrubOn s && decide (scrubDue s ≤ s.dt) then [(rosemary s (sc / rankLines s), sc % rankLines s, scrubDue s)] else []) ++
    match s.dram.mig with
    | some (l, sp, cp) =>
      if cp < rankLines s ∧ copyDue s cp ≤ s.dt then [(rosemary s l, cp, copyDue s cp), (sparePr sp, cp, copyDue s cp)] else []
    | none => []

/-- Another internal source's access that is due on the channel comes before one: patrol scrub and migration copy stand in the same order
(R303, R306). -/
def internalAhead (s : State) (busy : BitVec 32) (pr n since : Nat) : Bool :=
  let k := internalKey s pr n since
  (internalDue s).any fun x => decide (x.1 / 2 = pr / 2) && !busy.getLsbD (x.1 % 2 * 16 + bankOf x.2.1) &&
    (let q := internalKey s x.1 x.2.1 x.2.2
     decide (q < k ∨ (q = k ∧ x.2.2 < since)))

/-- The scheduler of a rank's channel takes an internal source's access: no refresh is due there, its bank is free, and no request of a
port and no other internal source comes before it (R303, R306). -/
def internalMay (s : State) (busy : BitVec 32) (pr n since : Nat) : Bool :=
  let k := internalKey s pr n since
  (refreshPick s (pr / 2) busy).isNone && !busy.getLsbD (pr % 2 * 16 + bankOf n) && !internalAhead s busy pr n since &&
    (candidates s (pr / 2) busy).all fun r => decide (k < schedKey s r ∨ (k = schedKey s r ∧ since ≤ r.since))

/-- An internal source's access on the channel comes before a request of a port: the scheduler takes it in this cycle (R303, R306). -/
def internalFirst (s : State) (ch : Nat) (busy : BitVec 32) (r : DReq) : Bool :=
  (internalDue s).any fun x => decide (x.1 / 2 = ch) && !busy.getLsbD (x.1 % 2 * 16 + bankOf x.2.1) &&
    (let k := internalKey s x.1 x.2.1 x.2.2
     decide (k < schedKey s r ∨ (k = schedKey s r ∧ x.2.2 ≤ r.since)))

/-- A request given to its next rank: it takes a token of its DID if one is free, and leaves its buffer once every rank has it
(R303, R305, R310). -/
def giveRank (s : State) (r : DReq) : State :=
  let pr := reqRank s r
  let tok := r.tok || (r.attr.did ≠ 0 && tokFree s r.attr.did)
  let mig := r.isW && decide (1 < (destRanks s r).length)
  let all := (destRanks s r).all fun x => decide (x = pr) || r.part.contains x
  let s := updDreq s r.id fun r => { r with stat := if all then .chosen else .buffered, tok := tok, mig := mig, part := pr :: r.part }
  updPanic (touchRank s (rankLine s r.line) pr) r.port

/-- SCHEDULER_CHOICE (R303, R305, R306): a due refresh first; else the request the tiers or the urgency name, which opens its row, unless an
internal source comes before it, whose access is a command of its own. `busy` names the banks that can take no command in this cycle. -/
def execSchedulerChoice (ch : Fin 18) (busy : BitVec 32) (s : State) : Result :=
  .next (if !clocksOn s then s
    else match refreshPick s ch busy with
    | some e =>
      { s with dram := { s.dram with
          refDue := s.dram.refDue.erase e
          rows := SMap.drop s.dram.rows fun k => decide (k = e.1 * 16 + e.2)
          pdown := s.dram.pdown.erase e.1
          lastUse := SMap.set 0 s.dram.lastUse e.1 s.dt } }
    | none =>
      match schedPick s (candidates s ch busy) with
      | none => s
      | some r => if internalFirst s ch busy r then s else giveRank s r)

/-- DEADLINE_MISS (R306): a request that reaches urgency 3, its age then being its port's target, counts once against its port. -/
def execDeadlineMiss (id : Nat) (s : State) : Result :=
  .next (match dreq? s id with
    | some r =>
      if clocksOn s ∧ r.stat = .buffered ∧ deadlineMode s ∧ !r.missed ∧ latTgt s r.port ≠ 0 then
        let s := updDreq (advanceTo s (tickAtAge r.since (latTgt s r.port))) id fun r => { r with missed := true }
        recCorrected (bumpF s .dmc (0x080 + 4 * r.port) 16 16 1) .dmc 0x83 r.attr r.port
      else s
    | none => s)

/-! ## MODE and migration requests (R306, R308, R311) -/

/-- SCU firmware sets MODE (R306, R309). -/
def setMode (s : State) (deadline : Bool) : State := wrB (wrB s .dmc 0x044 0 deadline) .dmc 0x040 3 deadline

/-- SCU firmware restores MODE NORMAL once DRAM is in service, where no migration runs or waits and no channel is under BIST
(R306, R309, R311). -/
def restoreMode (s : State) : State :=
  if rdB s .dmc 0x040 0 && s.dram.mig.isNone && s.dram.migReq = [] && !(s.bist.any fun b => decide (b.typ = 6)) then setMode s false else s

/-- The DCH page of a physical rank. -/
def dchOf (pr : Nat) : Page := .dch (Fin.ofNat 18 (pr / 2))

/-- A migration starts, ends or a rank degrades: DMC_STAT follows (R314). -/
def dmcFollow (s : State) : State :=
  let s := match s.dram.mig with
    | some (l, _, _) => wrF (wrB s .dmc 0x040 4 true) .dmc 0x040 8 5 l
    | none => wrF (wrB s .dmc 0x040 4 false) .dmc 0x040 8 5 0
  wrB s .dmc 0x040 2 ((List.range 32).any fun l => rankState s l = 2)

/-- The lowest-numbered FREE spare, one under BIST only where there is no other (R308, R584). -/
def freeSpare (s : State) : Option Nat :=
  let l := (List.range 4).filter fun sp => spareState s sp = 1
  (l.find? fun sp => !bistOn s 6 (sparePr sp / 2)).or l.head?

/-- A migration is requested or restarted with no FREE spare: the rank becomes DEGRADED (R311). -/
def degrade (s : State) (l : Nat) : State :=
  let s := dmcFollow (wrF s .rmap (0x040 + 4 * l) 6 2 2)
  restoreMode (setIrq (recordErr s .rmap 0x83 contained (pageAttr s .rmap) l 0) .dmc 0x8)

/-- A migration of a logical rank is requested (R308): it waits, or with no FREE spare the rank becomes DEGRADED (R311). -/
def reqMigration (s : State) (l : Nat) : State :=
  if rankState s l ≠ 0 ∨ l ∈ s.dram.migReq then s
  else if (freeSpare s).isNone then degrade s l
  else { s with dram := { s.dram with migReq := (l :: s.dram.migReq).mergeSort (· ≤ ·) } }

/-- The corrected outcomes of a physical rank within the last hour, by their ticks (R308). -/
def ceRecent (s : State) (pr : Nat) : List Nat := (SMap.get [] s.dram.ceHour pr).filter fun x => decide (s.dt < x + ticksPerHour)

/-- A CORRECTED outcome of a physical rank: code 0x80, CE count (R293). -/
def noteCE (s : State) (pr la : Nat) (a : Attr) : State :=
  let s := bumpF s (dchOf pr) 0x044 (pr % 2 * 16) 16 1
  let s := { s with dram := { s.dram with ceHour := SMap.set [] s.dram.ceHour pr ((s.dt :: ceRecent s pr).take 255) } }
  recCorrected s (dchOf pr) 0x80 a (la % 2 ^ 32)

/-- CE_LIMIT corrected outcomes of a rank within the hour request a migration (R308). -/
def ceLimit (s : State) (pr l : Nat) : State :=
  let lim := rdF s .dmc 0x054 8 8
  if lim ≠ 0 ∧ lim ≤ (ceRecent s pr).length then reqMigration s l else s

/-- An UNCORRECTABLE outcome of a physical rank: the line is stored poisoned, the UE count and the code (R293, R307). -/
def noteUE (s : State) (pr n la code : Nat) (a : Attr) (did : Nat) : State :=
  let s := { s with dram := { s.dram with bad := SMap.set false s.dram.bad (memKey pr n) true } }
  let s := bumpF s (dchOf pr) 0x048 (pr % 2 * 16) 16 1
  recordErr s (dchOf pr) code contained a (la % 2 ^ 32) did

/-! ## What a read finds (R292, R293) -/

/-- The outcome of reading a stored line: 0 CLEAN, 1 CORRECTED, 2 UNCORRECTABLE, 3 POISONED, with the data (R292, R293). More than
5 symbols in error are beyond what the code is said to find: outcome and data are free values. (DESIGN CHOICE, log 9) -/
def decodeLine (s : State) (x : Line × Bool) (e : LineErr) : State × Fin 4 × Line :=
  if e.moved then (s, 2, x.1)
  else if e.sym.val ≤ 3 then (s, if x.2 then 3 else if e.sym.val = 0 then 0 else 1, x.1)
  else if e.sym.val ≤ 5 then (s, 2, x.1)
  else
    let o := freeVal 2 s
    let d := freeVal 512 o.2
    (d.2, Fin.ofNat 4 o.1, if o.1 < 2 then BitVec.ofNat 512 d.1 else x.1)

/-- A write of a line is queued. -/
def writeQueued (s : State) (la : Nat) : Bool := s.dram.reqs.any fun r => r.isW && decide (r.line = la)

/-- A CORRECTED outcome handled (R293): the corrected line is written back unless a write of it is queued. -/
def correctLine (s : State) (pr n la : Nat) (v : Line) (a : Attr) : State :=
  noteCE (if writeQueued s la then s else storeLine s pr n v false) pr la a

/-! ## Migration (R308 to R311) -/

/-- A run on the channel of a spare stops with RESULT ABORTED, which is its end (R577, R584); one that a fatal error has abandoned has no
result. -/
def stopBist (s : State) : State :=
  if rdB s .flts 0x040 2 then { s with bist := none }
  else setIrq (wrF (wrB { s with bist := none } .bist 0x044 0 false) .bist 0x044 1 3 3) .bist 1

/-- A migration of `l` starts with the lowest-numbered FREE spare, or the rank becomes DEGRADED (R308, R309, R311). -/
def startMigration (s : State) (l : Nat) : State :=
  let s := { s with dram := { s.dram with migReq := s.dram.migReq.erase l } }
  match freeSpare s with
  | some sp =>
    let s := if bistOn s 6 (sparePr sp / 2) then stopBist s else s
    let s := wrF (wrF (wrF s .rmap (0x040 + 4 * l) 6 2 1) .rmap (0x040 + 4 * l) 8 5 (sparePr sp / 2)) .rmap (0x040 + 4 * l) 13 1 (sp % 2)
    let s := { setSpare s sp 2 with dram := { s.dram with mig := some (l, sp, 0), copyAt := s.dt } }
    let s := setMode (setRankByte s (rosemary s l) 1) true
    setIrq (dmcFollow s) .dmc 0x10
  | none => degrade s l

/-- The running migration is aborted: the entry goes back, the spare is FAILED, and the migration starts again with the next
FREE spare (R311). -/
def abortMigration (s : State) : State :=
  match s.dram.mig with
  | none => s
  | some (l, sp, _) =>
    let s := wrF (wrF s .rmap (0x040 + 4 * l) 6 2 0) .rmap (0x040 + 4 * l) 8 6 0
    let s := { setSpare s sp 3 with dram := { s.dram with mig := none } }
    let s := setIrq (recInternal s .rmap 0x82 l) .dmc 0x4
    startMigration s l

/-- MIGRATION_START (R308, R309): the lowest waiting logical rank, when none runs. -/
def execMigrationStart (s : State) : Result :=
  .next (if strStopped s 52 then s
    else match s.dram.mig, s.dram.migReq with
      | none, l :: _ => startMigration s l
      | _, _ => s)

/-- The line address of rank line `n` of logical rank `l`: R295 inverted. -/
def lineOf (s : State) (l n : Nat) : Nat :=
  let hi := l % 2 * rankLines s + n
  let c := Nat.xor (Nat.xor (l / 2) (hi * 16 / 2 ^ 8 % 16)) (hi * 16 / 2 ^ 16 % 16)
  dramBase + hi * 16 + c

/-- Attributes of patrol scrub and migration copy (R303, R317). -/
def bgAttr (s : State) : Attr := { did := 0, pid := 0, gen := genOf s (.dom 0), cls := 3 }

/-- MIGRATION_COPY (R303, R306, R309, R310): when GAP allows it and the schedulers of both channels take it, line CP goes from the old
rank to the spare, poisoned if the outcome is POISONED or UNCORRECTABLE, and CP advances. `busy` and `busySp` name the banks of the
two channels that can take no command. -/
def execMigrationCopy (out : LineErr) (busy busySp : BitVec 32) (s : State) : Result :=
  .next (match s.dram.mig with
    | some (l, sp, cp) =>
      let due := copyDue s cp
      let t := advanceTo s due
      let old := rosemary s l
      if clocksOn s ∧ cp < rankLines s ∧ internalMay t busy old cp due ∧ internalMay t busySp (sparePr sp) cp due then
        let la := lineOf t l cp
        let x := decodeLine (touchRank (touchRank t cp old) cp (sparePr sp)) (storedLine t old cp) out
        let s := if x.2.1 = 1 then correctLine x.1 old cp la x.2.2 (bgAttr t) else if x.2.1 = 2 then noteUE x.1 old cp la 0x81 (bgAttr t) 0 else x.1
        let s := storeLine s (sparePr sp) cp x.2.2 (decide (2 ≤ x.2.1.val))
        { s with dram := { s.dram with mig := some (l, sp, cp + 1), copyAt := t.dt } }
      else s
    | none => s)

/-- MIGRATION_SWITCH (R309, R311): once every accepted request to the rank has completed, the entry takes the spare and the old rank is
retired; a spare that was mapped becomes FAILED. SCU firmware records the old rank and restores MODE when no migration waits. -/
def execMigrationSwitch (s : State) : Result :=
  .next (match s.dram.mig with
    | some (l, sp, cp) =>
      if cp = rankLines s ∧ !(s.dram.reqs.any fun r => decide (logRank s r.line = l ∧ (r.stat = .buffered ∨ r.stat = .chosen))) then
        let old := rosemary s l
        let s := wr s .rmap (0x040 + 4 * l) (BitVec.ofNat 32 (sparePr sp / 2 + sp % 2 * 32))
        let s := if old < 32 then wrB s .rmap 0x0C8 old true else setSpare s (old - 32) 3
        let s := setRankByte { s with dram := { s.dram with mig := none } } old 2
        setIrq (dmcFollow (restoreMode s)) .dmc 0x2
      else s
    | none => s)

/-! ## Completions (R292 to R294, R302) -/

/-- A request of the same source, or to the same line, that was accepted earlier has not completed (R302). -/
def orderedBehind (s : State) (r : DReq) : Bool :=
  s.dram.reqs.any fun q => decide (q.acc < r.acc) && (decide (q.stat = .buffered) || decide (q.stat = .chosen)) &&
    (decide (q.line = r.line) || (decide (q.port = r.port) && decide (q.attr.did = r.attr.did) && decide (q.attr.pid = r.attr.pid)))

/-- A read of a line for a request: the data, its poison, and what is recorded (R293, R308, R311, R312). -/
def readLine (s : State) (la : Nat) (out : LineErr) (a : Attr) : State × Line × Bool :=
  let l := logRank s la
  let n := rankLine s la
  let pr := readRank s l n
  let fromSpare := pr ≠ rosemary s l
  let x := decodeLine s (storedLine s pr n) out
  if x.2.1 = 2 then
    let s := noteUE x.1 pr n la 0x81 a a.did
    (if fromSpare then abortMigration s else reqMigration s l, x.2.2, true)
  else if x.2.1 = 1 then
    let s := correctLine x.1 pr n la x.2.2 a
    (if fromSpare then s else ceLimit s pr l, x.2.2, false)
  else (x.1, x.2.2, decide (x.2.1 = 3))

/-- DRAM_READ_COMPLETE (R293): a chosen read decodes, its token returns, and its data stands for the system cache. -/
def execDramReadComplete (id : Nat) (out : LineErr) (s : State) : Result :=
  .next (match dreq? s id with
    | some r =>
      if r.stat = .chosen ∧ !r.isW ∧ !orderedBehind s r then
        let x := readLine s r.line out r.attr
        returnTok (updDreq x.1 id fun r => { r with stat := .returned, tok := false, data := x.2.1, poison := x.2.2 }) r.attr.did
      else s
    | none => s)

/-- The stored effect of a write (R294, R310): a partial write reads first, from the rank that serves reads; every rank
that takes the write gets the same line. -/
def writeLine (s : State) (la : Nat) (data be : Line) (poison : Bool) (out : LineErr) (a : Attr) : State :=
  let n := rankLine s la
  if be = beAll then (writeRanks s (logRank s la)).foldl (fun t pr => storeLine t pr n data poison) s
  else
    let x := readLine s la out a
    let y := applyWrite x.2 data be poison
    (writeRanks x.1 (logRank s la)).foldl (fun t pr => storeLine t pr n y.1 y.2) x.1

/-- A DRAM read that a master makes within its own command, as the youngest request of its port. -/
def readReq (s : State) (a : Attr) (master la : Nat) : DReq :=
  { id := s.dram.nextId, isW := false, line := la, attr := a, port := portOf master, cause := .cmd, stat := .buffered, since := s.dt, acc := s.dram.nextAcc }

/-- A DRAM read made within another command's event: it is accepted, chosen and completed there. None where its port is full, its rank
drains, a request of its source or its line is ahead of it, or the scheduler of its channel would take another first (R301 to R303,
R305, R306, R309): it then goes the way of every read. (DESIGN CHOICE, log 55) -/
def readNow (s : State) (a : Attr) (master la : Nat) (out : LineErr) : Option (State × Line × Bool) :=
  let r := readReq s a master la
  let pr := reqRank s r
  if 64 ≤ portLevel s r.port ∨ draining s la ∨ sentBefore s r ∨ orderedBehind s r ∨ (refreshPick s (pr / 2) 0).isSome
      ∨ schedPick s (candidates s (pr / 2) 0 ++ [r]) ≠ some r ∨ internalFirst s (pr / 2) 0 r then none
  else some (readLine (touchRank s (rankLine s la) pr) la out a)

/-- DMC's reads of PSTAT, MIG_HELD and Rosemary's CP are computed (R314, R315). -/
def dmcRead (s : State) (off : Nat) : Option Nat :=
  if off = 0x058 then some (migHeld s)
  else if 0x080 ≤ off ∧ off < 0x0A0 then
    let p := (off - 0x080) / 4
    some (portLevel s p + 2 ^ 7 * (SMap.get false s.dram.panic p).toNat + 2 ^ 16 * rdF s .dmc off 16 16)
  else none

/-- Reads of RMAP that are computed. -/
def rmapRead (s : State) (off : Nat) : Option Nat :=
  if off = 0x0C0 then
    some (match s.dram.mig with
      | some (_, _, cp) => cp % 2 ^ 26
      | none => 0)
  else none

/-! ## Refresh, scrub, training and power-down -/

/-- A refresh of a bank becomes due, of a channel that is trained and not in self-refresh, while its clocks run (R101, R300). -/
def refreshDue (s : State) (pr : Fin 36) (bank : Fin 16) : State :=
  if clocksOn s ∧ rdF s (dchOf pr) 0x040 0 2 = 1 then { s with dram := { s.dram with refDue := s.dram.refDue ++ [(pr.val, bank.val)] } } else s

/-- DRAM_REFRESH (R299): a per-bank refresh becomes due. -/
def execDramRefresh (pr : Fin 36) (bank : Fin 16) (s : State) : Result := .next (refreshDue s pr bank)

/-- RFM_REQUEST (R291): one management refresh of the bank is added. -/
def execRfmRequest (pr : Fin 36) (bank : Fin 16) (s : State) : Result := .next (refreshDue s pr bank)

/-- DRIFT_TRACKING (R291, R311, R317): a failure records TRAIN_FAIL and, on the spare's channel, aborts the migration. -/
def execDriftTracking (ch : Fin 18) (ok : Bool) (s : State) : Result :=
  .next (if ok ∨ !clocksOn s then s
    else
      let s := recordErr s (.dch ch) 0x83 contained (pageAttr s (.dch ch)) 0 0
      match s.dram.mig with
      | some (_, sp, _) => if sparePr sp / 2 = ch.val then abortMigration s else s
      | none => s)

/-- The refresh factor of the package sensors (R299): 0 for 1×, 1 for 2×, 2 for 4×. -/
def pkgFactor (t : Int) : Nat := if t < 85 then 0 else if t < 105 then 1 else 2

/-- REFX of a channel (R299): the higher of what its device asks for and what the package sensors ask for. TEMP_HIGH is recorded for a
reading outside its range. -/
def setRefx (s : State) (ch : Fin 18) (hot : Bool) : State :=
  let s := wrF s (.dch ch) 0x040 2 2 (if hot then 2 else max (SMap.get 0 s.dram.devX ch) (pkgFactor s.dram.pkgTemp))
  if hot then recInternal s (.dch ch) 0x84 0 else s

/-- A reading of the DRAM package sensors reaches every channel that is trained (R299). -/
def pkgReading (s : State) (t : Int) : State :=
  (List.finRange 18).foldl (fun s ch => if rdF s (.dch ch) 0x040 0 2 = 1 then setRefx s ch (decide (115 ≤ t)) else s)
    { s with dram := { s.dram with pkgTemp := t } }

/-- A channel comes into service, trained or out of self-refresh: its refresh factor follows the readings there are (R299). -/
def channelUp (s : State) (ch : Fin 18) : State := setRefx (wrF s (.dch ch) 0x040 0 2 1) ch (decide (115 ≤ s.dram.pkgTemp))

/-- DEVICE_TEMP_READOUT (R299): DTEMP and the refresh factor; a readout outside the operating range asks for 4×. -/
def execDeviceTempReadout (ch : Fin 18) (temp : BitVec 8) (dev : Fin 3) (outside : Bool) (s : State) : Result :=
  .next (if !clocksOn s then s
    else
      let s := { s with dram := { s.dram with devX := SMap.set 0 s.dram.devX ch (if outside then 2 else dev.val) } }
      setRefx (wrF s (.dch ch) 0x040 8 8 temp.toNat) ch outside)

/-- RANK_POWER_DOWN (R291): a rank with no request to it enters power-down 64 CK_M cycles after its last command. -/
def execRankPowerDown (pr : Fin 36) (s : State) : Result :=
  .next (if !clocksOn s ∨ s.dram.reqs.any (fun r => (destRanks s r).contains pr.val) ∨ pr.val ∈ s.dram.pdown then s
    else
      let s := advanceTo s (tickAtAge (SMap.get 0 s.dram.lastUse pr) 64)
      { s with dram := { s.dram with pdown := pr.val :: s.dram.pdown } })

/-- Scrub moves to the next line; a whole pass counts in PASSES (R307, R314). -/
def scrubNext (s : State) : State :=
  if s.dram.scrub + 1 < 32 * rankLines s then { s with dram := { s.dram with scrub := s.dram.scrub + 1 } }
  else bumpF { s with dram := { s.dram with scrub := 0 } } .dmc 0x050 16 16 1

/-- When the last scrub read was due: reads that were missed are not made up. (DESIGN CHOICE, log 90) -/
def scrubBase (s : State) (due : Nat) : Nat := if due + scrubStep s < s.dt then s.dt else due

/-- SCRUB_READ (R303, R307): when it is due and the scheduler takes it, the next line of a mapped rank is read; a line with a write
queued is skipped, and a migrating rank pauses scrub. `busy` names the banks that can take no command. -/
def execScrubRead (out : LineErr) (busy : BitVec 32) (s : State) : Result :=
  let l := s.dram.scrub / rankLines s
  let n := s.dram.scrub % rankLines s
  let la := lineOf s l n
  let pr := rosemary s l
  let due := scrubDue s
  let t := advanceTo s due
  .next (if !scrubOn s ∨ !internalMay t busy pr n due then s
    else
      let t := { t with dram := { t.dram with scrubAt := scrubBase t due } }
      if writeQueued t la then scrubNext t
      else
        let x := decodeLine (touchRank t n pr) (storedLine t pr n) out
        scrubNext (if x.2.1 = 2 then reqMigration (noteUE x.1 pr n la 0x82 (bgAttr t) 0) l
          else if x.2.1 = 1 then ceLimit (correctLine x.1 pr n la x.2.2 (bgAttr t)) pr l
          else x.1))

/-! ## Rosemary writes (R296) -/

/-- A write of a Rosemary entry that is rejected, with its code (R296, R315, R317). -/
def rmapReject (s : State) (scu : Bool) (off : Nat) (v : Reg32) : Option Nat :=
  if off < 0x0C0 then
    let l := (off - 0x040) / 4
    if 18 ≤ fld v 0 5 then some 0x01
    else if !scu then some 0x80
    else if rdB s .dmc 0x040 0 then some 0x81
    else if (List.range 32).any fun k => k ≠ l && rosemary s k = 2 * fld v 0 5 + fld v 5 1 then some 0x84
    else none
  else none

/-- Out-of-range and refused writes of DMC (R304, R306, R314, R317). -/
def dmcReject (scu : Bool) (off : Nat) (v : Reg32) : Option Nat :=
  if off = 0x044 then (if scu then none else some 0x80)
  else if off = 0x054 then (if fld v 0 8 = 0 then some 0x01 else none)
  else if 0x060 ≤ off ∧ off < 0x080 then (if fld v 0 6 = 0 ∨ fld v 0 6 ≤ fld v 8 6 then some 0x01 else none)
  else none

/-- SCU firmware's write of MODE puts it in force (R306); a PERIOD that leaves 0 starts scrub anew (R307); a write of DMC_PORT is judged against the level of its buffer (R304). -/
def dmcWrite (s : State) (off : Nat) (v : Reg32) : Option State :=
  if off = 0x044 then some (setMode s (bit v 0))
  else if off = 0x050 ∧ rdF s .dmc 0x050 0 8 = 0 then
    let t := wrF s .dmc off 0 8 (fld v 0 8)
    some { t with dram := { t.dram with scrubAt := t.dt } }
  else if 0x060 ≤ off ∧ off < 0x080 then some (updPanic (wr s .dmc off (v &&& 0x0FFFBF3F)) ((off - 0x060) / 4))
  else none

end Sys2Proof.Machine
end

