-- ==== Sys2Proof/Machine/Txns.lean ====
section
/-!
DEFINITION. Machine/Txns.lean: fabric requests by number, their bytes within a line, and their answers.
-/

namespace Sys2Proof.Machine

/-! ## Targets -/

/-- What a mapped byte address belongs to (R105). -/
inductive Region where
  | rom | sram | secure | page (p : Page) | tylPages | window (k : Fin 32) (packed : Bool) (off : Nat) | pcieOut (c : Fin 4) | dram
  deriving DecidableEq, Repr

/-- The region of a byte address; none where it is unmapped (R105, R106, R109, R114). -/
def regionOf (s : State) (a : Nat) : Option Region :=
  if a < 0x10000 then some .rom
  else if 0x1000000 ≤ a ∧ a < 0x1E00000 then some .sram
  else if 0x1E00000 ≤ a ∧ a < 0x2000000 then some .secure
  else if 0x10000000 ≤ a ∧ a < 0x18000000 then (pageOfAddr a).map .page
  else if 0x18200000 ≤ a ∧ a < 0x1A000000 then some .tylPages
  else if 0x40000000 ≤ a ∧ a < 0x42000000 then some (.window (Fin.ofNat 32 ((a - 0x40000000) / 2 ^ 20)) false (a % 2 ^ 20))
  else if 0x50000000 ≤ a ∧ a < 0x52000000 then
    (if a % 2 ^ 20 < 0x924A0 then some (.window (Fin.ofNat 32 ((a - 0x50000000) / 2 ^ 20)) true (a % 2 ^ 20)) else none)
  else if 0x1000000000 ≤ a ∧ a < 0x2000000000 then
    (if a < 0x2000000000 then (fin? 4 ((a - 0x1000000000) / 0x400000000)).map .pcieOut else none)
  else if inDram s (a / 64) then some .dram
  else none

/-- Requests of one source to one target keep their order: the target of an address (R31). (DESIGN CHOICE, log 24) -/
def targetOf (s : State) (a : Nat) : Nat :=
  match regionOf s a with
  | some .dram => 1
  | some .sram | some .secure => 2 + bankAt a
  | some (.window k _ _) => 100 + k
  | some (.pcieOut c) => 200 + c
  | _ => 0

/-! ## Requests -/

/-- The request of a number. -/
def txn? (s : State) (id : Nat) : Option Txn := s.fab.txns.find? fun t => t.id = id

/-- The request of a number changed. -/
def updTxn (s : State) (id : Nat) (f : Txn → Txn) : State :=
  { s with fab := { s.fab with txns := s.fab.txns.map fun t => if t.id = id then f t else t } }

/-- The request of a number gone. -/
def dropTxn (s : State) (id : Nat) : State :=
  { s with fab := { s.fab with txns := s.fab.txns.filter fun t => decide (t.id ≠ id) } }

/-- A new request with the next number. -/
def addTxn (s : State) (t : Txn) : State :=
  { s with fab := { s.fab with txns := s.fab.txns ++ [{ t with id := s.fab.nextId }], nextId := s.fab.nextId + 1 } }

/-- The target answers a request: its completion is in the fabric. -/
def answerTxn (s : State) (id : Nat) (err poison : Bool) (data : Nat) : State :=
  updTxn s id fun t => { t with status := .answered, err := err, poison := poison, rdata := data }

/-- An error response with a record in the fabric error log (R123). -/
def failTxn (s : State) (t : Txn) (k : Kind) : State :=
  updTxn (answerTxn (ferrLog s t.req.master t.attr t.req.op t.req.addr k) t.id true false 0) t.id fun u => { u with why := kindCode k }

/-- The target has accepted a request (R535). -/
def acceptTxn (s : State) (id : Nat) : State := updTxn s id fun t => { t with status := .accepted }

/-- The line address of a request. -/
def reqLine (r : FReq) : Nat := r.addr / 64

/-- The bits of `n` bytes that byte enables cover. -/
def beBits (n be : Nat) : Nat :=
  (List.range n).foldl (fun m i => if be.testBit i then m + 255 * 2 ^ (8 * i) else m) 0

/-- The bits of a request's bytes that a write replaces: the enabled bytes, or the 18 bits of one packed word (R37). -/
def reqMask (r : FReq) : Nat :=
  match r.pos with
  | some i => (2 ^ 18 - 1) * 2 ^ (18 * i.val)
  | none => beBits r.len r.be

/-- The bits of its line that a write replaces. -/
def reqBe (r : FReq) : Line := BitVec.ofNat 512 (reqMask r * 2 ^ (8 * (r.addr % 64)))

/-- The data of a write within its line. -/
def reqData (r : FReq) : Line := BitVec.ofNat 512 (r.data * 2 ^ (8 * (r.addr % 64)))

/-- The bytes of a line that a request reads. -/
def reqBytes (r : FReq) (x : Line) : Nat := x.toNat / 2 ^ (8 * (r.addr % 64)) % 2 ^ (8 * r.len)

/-- Two requests have the same source: one master with one owner tag (R31). -/
def sameSource (t u : Txn) : Bool :=
  decide (u.req.master = t.req.master) && decide (u.attr.did = t.attr.did) && decide (u.attr.pid = t.attr.pid)

/-- An earlier request of the same source keeps a request from being served (R31, R268): one to the same target that has not come there
yet, or one to the same line that waits there. -/
def behindSource (s : State) (t : Txn) : Bool :=
  s.fab.txns.any fun u => decide (u.id < t.id) && sameSource t u && decide (u.status = .transit) &&
    ((!u.arr && decide (targetOf s u.req.addr = targetOf s t.req.addr)) || decide (reqLine u.req = reqLine t.req))

/-- A request has come to its target and waits there. -/
def arriveTxn (s : State) (id : Nat) : State := updTxn s id fun t => { t with arr := true }

end Sys2Proof.Machine
end

