-- ==== Sys2Proof/Machine/SysCache.lean ====
section
/-!
DEFINITION. Machine/SysCache.lean: the system cache (spec 09): ways, homes, partitions, hits and misses, victims, parity and
poison, and its commands.
-/

namespace Sys2Proof.Machine

/-! ## Lines, ways and homes (R259 to R263) -/

/-- Index of a line within a way. -/
def scIdx (la : Nat) : Nat := la % 16384

/-- Tag of a line, pa[47:20]. -/
def scTag (la : Nat) : Nat := la / 16384

/-- The slot of way `w` at a line's index. -/
def scSlot (w la : Nat) : Nat := w * 16384 + scIdx la

/-- The line that a slot holds with a tag. -/
def slotLine (slot tag : Nat) : Nat := tag * 16384 + slot % 16384

/-- A bit of a pair of way registers LO and HI. -/
def wayBit (s : State) (lo w : Nat) : Bool := if w < 32 then rdB s .scac lo w else rdB s .scac (lo + 4) (w - 32)

/-- A bit of a pair of way registers set. -/
def setWayBit (s : State) (lo w : Nat) (x : Bool) : State :=
  if w < 32 then wrB s .scac lo w x else wrB s .scac (lo + 4) (w - 32) x

/-- A way is powered (SC_WAYON). -/
def wayOn (s : State) (w : Nat) : Bool := wayBit s 0x058 w

/-- A way is locked (SC_LOCK, R269). -/
def wayLocked (s : State) (w : Nat) : Bool := wayBit s 0x068 w

/-- A way is in PART_WAYS of partition `p`. -/
def inPart (s : State) (p w : Nat) : Bool := wayBit s (0x080 + 8 * p) w

/-- EN of a partition. -/
def partEn (s : State) (p : Nat) : Bool := rdB s .scac (0x084 + 8 * p) 16

/-- CLEANING of a partition. -/
def partCleaning (s : State) (p : Nat) : Bool := rdB s .scac (0x084 + 8 * p) 17

/-- The ways of a partition in rising order. -/
def partWays (s : State) (p : Nat) : List Nat := (List.range 48).filter (inPart s p)

/-- A way belongs to an enabled partition. -/
def wayEnabled (s : State) (w : Nat) : Bool := (List.range 16).any fun p => partEn s p && inPart s p w

/-- A way belongs to a partition whose clean is running. -/
def wayCleaning (s : State) (w : Nat) : Bool := (List.range 16).any fun p => partCleaning s p && inPart s p w

/-- The hash of R261 of a line. -/
def homeHash (la : Nat) : Nat :=
  Nat.xor (Nat.xor (la / 2 ^ 14 % 2 ^ 12) (la / 2 ^ 26 % 2 ^ 12)) (la / 2 ^ 38 % 2 ^ 4)

/-- The home of a line in a partition (R261): its slot. -/
def home (s : State) (p la : Nat) : Option Nat :=
  let ws := partWays s p
  if ws.length = 0 then none else (ws[homeHash la % ws.length]?).map fun w => scSlot w la

/-- The map entry of a DID: partition, ALLOC and NA_BG (R263). -/
def didMap (s : State) (d : Nat) : Nat × Bool × Bool :=
  let v := rdF s .scac (0x100 + d / 4 * 4) (d % 4 * 8) 8
  (v % 16, bitN v 4, bitN v 5)

/-- The slot a miss may allocate (R263, R269). -/
def allocSlot (s : State) (a : Attr) (la : Nat) : Option Nat :=
  let m := didMap s a.did
  if m.2.1 && partEn s m.1 && !partCleaning s m.1 && (a.cls ≠ 3 || !m.2.2) then
    match home s m.1 la with
    | some slot => if wayLocked s (slot / 16384) then none else some slot
    | none => none
  else none

/-- The slot that holds a line, in a powered way (R260). -/
def scFind (s : State) (la : Nat) : Option Nat :=
  (List.find? (fun e => e.1 % 16384 = scIdx la && e.2.tag = scTag la && wayOn s (e.1 / 16384)) s.sc.lines).map Prod.fst

/-- The line in a slot. -/
def scLine (s : State) (slot : Nat) : ScLine := (SMap.find? s.sc.lines slot).getD { tag := 0, data := 0 }

/-- A slot set. -/
def putLine (s : State) (slot : Nat) (x : ScLine) : State :=
  { s with sc := { s.sc with lines := SMap.put s.sc.lines slot x } }

/-- A slot emptied. -/
def dropLine (s : State) (slot : Nat) : State :=
  { s with sc := { s.sc with lines := SMap.drop s.sc.lines fun k => decide (k = slot) } }

/-- The allocation that waits for a slot. -/
def resvOf (s : State) (slot : Nat) : Option ScResv := s.sc.resvs.find? fun r => r.slot = slot

/-- The waiting allocations changed. -/
def updResvs (s : State) (f : List ScResv → List ScResv) : State := { s with sc := { s.sc with resvs := f s.sc.resvs } }

/-- A fill of the line is on its way, or the line waits for its slot: a further request for the line waits. -/
def lineBusy (s : State) (la : Nat) : Bool :=
  (s.sc.resvs.any fun r => decide (r.line = la)) ||
    (s.dram.reqs.any fun r => decide (r.line = la) && (match r.cause with
      | .fill _ _ | .preload _ | .own _ _ => true
      | _ => false))

/-- Attributes of the cache's own write-backs for commands, and of PRELOAD reads. -/
def scAttr (s : State) : Attr := { did := 0, pid := 0, gen := genOf s (.dom 0), cls := 2 }

/-- A write the cache sends to DRAM. -/
def scWriteOut (s : State) (la : Nat) (data be : Line) (poison : Bool) (a : Attr) (master : Nat) (c : DCause) : State :=
  sendDram s { id := 0, isW := true, line := la, data := data, be := be, poison := poison, attr := a, port := portOf master, cause := c }

/-- A line is installed: EMPTY of its way clears (R275). A way that has been powered down meanwhile takes none (R276), and what DRAM does not
hold yet goes there. (DEDUCED, log 54) -/
def installLine (s : State) (slot la : Nat) (data : Line) (dirty poison : Bool) : State :=
  if wayOn s (slot / 16384) then
    setWayBit (putLine s slot { tag := scTag la, data := data, dirty := dirty, poison := poison }) 0x060 (slot / 16384) false
  else if dirty then scWriteOut s la data beAll poison (scAttr s) 0x0F2 .cmd
  else s

/-- A way comes up with every line invalid (R276). -/
def wayUp (s : State) (w : Nat) : State :=
  setWayBit { s with sc := { s.sc with lines := SMap.drop s.sc.lines fun k => decide (k / 16384 = w) } } 0x058 w true

/-- A parity error found on the line in a slot (R271): a clean line goes, a dirty one is poisoned and the error is fatal. -/
def scParity (s : State) (slot : Nat) (a : Attr) (par : Bool) : State :=
  let x := scLine s slot
  let la := slotLine slot x.tag
  if !par ∨ (SMap.find? s.sc.lines slot).isNone then s
  else if x.dirty then recordErr (putLine s slot { x with poison := true }) .scac 0x81 fatal a (la % 2 ^ 32) 0
  else recCorrected (dropLine s slot) .scac 0x80 a (la % 2 ^ 32)

/-! ## Hits and misses (R264 to R268) -/

/-- What a lookup comes to: the request waits, it hits a slot, or it misses, with the slot reserved for the line if it
allocates. -/
inductive ScLook where
  | wait
  | hit (s : State) (slot : Nat)
  | miss (s : State) (slot : Option Nat)

/-- An allocation takes its home slot (R266): a dirty victim goes to DRAM with the attributes and the MASTER of the request (R125, R301) and
stays in the slot until accepted; a clean one goes. `vpar` says that reading the victim finds a parity error. -/
def scAllocate (s : State) (a : Attr) (master la slot : Nat) (vpar : Bool) : State :=
  let s := scParity s slot a vpar
  match SMap.find? s.sc.lines slot with
  | some x =>
    if x.dirty then
      let s := scWriteOut s (slotLine slot x.tag) x.data beAll x.poison a master (.victim slot)
      updResvs s fun l => l ++ [{ slot := slot, line := la, victim := true }]
    else updResvs (dropLine s slot) fun l => l ++ [{ slot := slot, line := la, victim := false }]
  | none => updResvs s fun l => l ++ [{ slot := slot, line := la, victim := false }]

/-- A miss: the request allocates in its home, or not at all; a second allocation into one slot waits. -/
def scMiss (s : State) (a : Attr) (master la : Nat) (vpar : Bool) : ScLook :=
  match allocSlot s a la with
  | none => .miss s none
  | some slot => if (resvOf s slot).isSome then .wait else .miss (scAllocate s a master la slot vpar) (some slot)

/-- The lookup of a request (R260, R266, R271, R277). `isW` is a write, `par` a parity error on the line found. A hit in a way
whose clean runs writes the line back and drops it, and the request goes to DRAM; a victim whose write is already on its way is not
written back twice (R266, R278). -/
def scLook (s : State) (a : Attr) (master la : Nat) (isW par vpar : Bool) : ScLook :=
  if lineBusy s la then .wait
  else match scFind s la with
    | none => scMiss s a master la vpar
    | some slot =>
      let victim := ((resvOf s slot).map ScResv.victim).getD false
      if isW && victim then .wait
      else
        let s := scParity s slot a par
        match SMap.find? s.sc.lines slot with
        | none => scMiss s a master la vpar
        | some x =>
          if !victim && wayCleaning s (slot / 16384) then
            let s := if x.dirty then scWriteOut s la x.data beAll x.poison (scAttr s) 0x0F2 .cmd else s
            .miss (dropLine s slot) none
          else .hit s slot

/-- A line is known for a slot: it is installed, or waits while a victim stands in the slot (R266). -/
def scSettle (s : State) (slot la : Nat) (data : Line) (dirty poison : Bool) : State :=
  if ((resvOf s slot).map ScResv.victim).getD false then
    updResvs s fun l => l.map fun r => if r.slot = slot then { r with ready := true, data := data, dirty := dirty, poison := poison } else r
  else
    let s := updResvs s fun l => l.filter fun r => decide (r.slot ≠ slot)
    installLine s slot la data dirty poison

/-- A write that hits (R264, R265, R272): the line takes the bytes; a way in no enabled partition is write-through. -/
def scWriteHit (s : State) (slot : Nat) (data be : Line) (poison : Bool) (a : Attr) (master : Nat) (txn : Option Nat) :
    State × Bool :=
  let x := scLine s slot
  let y := applyWrite (x.data, x.poison) data be poison
  if wayEnabled s (slot / 16384) then (putLine s slot { x with data := y.1, poison := y.2, dirty := true }, true)
  else
    let s := putLine s slot { x with data := y.1, poison := y.2 }
    (scWriteOut s (slotLine slot x.tag) data be poison a master (.write txn), false)

/-- SYSTEM_CACHE_READ (R260, R263 to R266, R160): a read in transit looks up every powered way; `par` and `vpar` are parity
errors found on the line and on the victim. -/
def execSystemCacheRead (id : Nat) (par vpar : Bool) (s : State) : Result :=
  .next (match txn? s id with
    | some t =>
      if t.status ≠ .transit ∨ t.req.op = .write ∨ behindSource s t then s
      else if !inDram s (reqLine t.req) then s
      else if !rdB s .dmc 0x040 0 then failTxn s t .asleep
      else
        let la := reqLine t.req
        match scLook s t.attr (masterCode t.req.master) la false par vpar with
        | .wait => arriveTxn s id
        | .hit s slot => answerTxn s id false (scLine s slot).poison (reqBytes t.req (scLine s slot).data)
        | .miss s slot =>
          acceptTxn (sendDram s { id := 0, isW := false, line := la, attr := t.attr, port := portOf (masterCode t.req.master), cause := .fill id slot }) id
    | none => s)

/-- SYSTEM_CACHE_WRITE (R263 to R266, R160). -/
def execSystemCacheWrite (id : Nat) (par vpar : Bool) (s : State) : Result :=
  .next (match txn? s id with
    | some t =>
      if t.status ≠ .transit ∨ t.req.op ≠ .write ∨ behindSource s t then s
      else if !inDram s (reqLine t.req) then s
      else if !rdB s .dmc 0x040 0 then failTxn s t .asleep
      else
        let la := reqLine t.req
        let be := reqBe t.req
        let m := masterCode t.req.master
        match scLook s t.attr m la true par vpar with
        | .wait => arriveTxn s id
        | .hit s slot =>
          let r := scWriteHit s slot (reqData t.req) be t.poison t.attr m (some id)
          if r.2 then answerTxn r.1 id false false 0 else acceptTxn r.1 id
        | .miss s none => acceptTxn (scWriteOut s la (reqData t.req) be t.poison t.attr m (.write (some id))) id
        | .miss s (some slot) =>
          if be = beAll then answerTxn (scSettle s slot la (reqData t.req) true t.poison) id false false 0
          else acceptTxn (sendDram s { id := 0, isW := false, line := la, attr := t.attr, port := portOf m, cause := .fill id (some slot) }) id
    | none => s)

/-- A DRAM read that a master's own command needed has returned: the line is installed in the slot it allocates, and is known. -/
def takeOwn (s : State) (r : DReq) (slot : Option Nat) : State × Line × Bool :=
  let s := dropDreq s r.id
  (match slot with
    | some sl => scSettle s sl r.line r.data false r.poison
    | none => s, r.data, r.poison)

/-- SC_FILL_RETURN (R265, R266, R272): a DRAM read that has returned is given to the requester and installed; a partial write
is merged and installed dirty. One for an access within a master's own command is installed; where it allocates no slot, it is given up here,
and the master asks again if it still makes the access. (DESIGN CHOICE, log 55) -/
def execScFillReturn (id : Nat) (s : State) : Result :=
  .next (match dreq? s id with
    | some r =>
      match r.cause with
      | .fill tid slot =>
        if r.stat ≠ .returned then s
        else
          let s := dropDreq s id
          match txn? s tid with
          | some t =>
            let w := decide (t.req.op = .write)
            let y := if w then applyWrite (r.data, r.poison) (reqData t.req) (reqBe t.req) t.poison else (r.data, r.poison)
            let s := match slot with
              | some sl => scSettle s sl r.line y.1 w y.2
              | none => s
            if w then answerTxn s tid false false 0 else answerTxn s tid false y.2 (reqBytes t.req y.1)
          | none =>
            match slot with
            | some sl => scSettle s sl r.line r.data false r.poison
            | none => s
      | .preload sl => if r.stat = .returned then scSettle (dropDreq s id) sl r.line r.data false r.poison else s
      | .own _ slot => if r.stat = .returned then (takeOwn s r slot).1 else s
      | _ => s
    | none => s)

/-- VICTIM_ACCEPTED (R266): once the DRAM controller has accepted the victim's write, the slot is free for the new line. -/
def execVictimAccepted (slot : Nat) (s : State) : Result :=
  .next (match resvOf s slot with
    | some r =>
      if !r.victim ∨ s.dram.reqs.any (fun q => decide (q.cause = .victim slot ∧ q.stat = .sent)) then s
      else
        let s := dropLine s slot
        if r.ready then
          installLine (updResvs s fun l => l.filter fun q => decide (q.slot ≠ slot)) slot r.line r.data r.dirty r.poison
        else updResvs s fun l => l.map fun q => if q.slot = slot then { q with victim := false } else q
    | none => s)

/-- DRAM_WRITE_COMPLETE (R294, R302, R305): a chosen write is stored, its token returns, and the request it serves is
answered. `out` is the outcome of the read that a partial write makes first. -/
def execDramWriteComplete (id : Nat) (out : LineErr) (s : State) : Result :=
  .next (match dreq? s id with
    | some r =>
      if r.stat = .chosen ∧ r.isW ∧ !orderedBehind s r then
        let s := returnTok (dropDreq (writeLine s r.line r.data r.be r.poison out r.attr) id) r.attr.did
        match r.cause with
        | .write (some t) => answerTxn s t false false 0
        | _ => s
      else s
    | none => s)

/-! ## Accesses made within another command's event -/

/-- The read that a master's own command sent, which has returned, with the slot that it allocates. -/
def ownRead (s : State) (master la : Nat) : Option (DReq × Option Nat) :=
  s.dram.reqs.findSome? fun r => match r.cause with
    | .own m slot => if m = master ∧ r.line = la ∧ r.stat = .returned then some (r, slot) else none
    | _ => none

/-- The read of a line that a master's own command needs is sent to its port, and accepted there if an entry is free (R301). -/
def sendOwn (s : State) (a : Attr) (master la : Nat) (slot : Option Nat) : State :=
  acceptDreq (sendDram s { id := 0, isW := false, line := la, attr := a, port := portOf master, cause := .own master slot }) s.dram.nextId

/-- A line read at the point of coherence in a master's own command. The read is made at once where the scheduler takes it now, else it is
sent, and the access waits for it: `.error` is the state in which it waits. `out` is the outcome of a DRAM read made at once.
(DESIGN CHOICE, log 55) -/
def pocReadLine (s : State) (a : Attr) (master la : Nat) (par vpar : Bool) (out : LineErr) : Except State (State × Line × Bool) :=
  match ownRead s master la with
  | some (r, slot) => .ok (takeOwn s r slot)
  | none =>
    match scLook s a master la false par vpar with
    | .wait => .error s
    | .hit s slot => .ok (s, (scLine s slot).data, (scLine s slot).poison)
    | .miss s slot =>
      match readNow s a master la out, slot with
      | some x, some sl => .ok (scSettle x.1 sl la x.2.1 false x.2.2, x.2)
      | some x, none => .ok x
      | none, _ => .error (sendOwn s a master la slot)

/-- A write at the point of coherence in a master's own command; `.error` is the state in which it waits. (DESIGN CHOICE, log 55) -/
def pocWriteLine (s : State) (a : Attr) (master la : Nat) (data be : Line) (poison par vpar : Bool) (out : LineErr) : Except State State :=
  let merged := fun (x : State × Line × Bool) (slot : Nat) =>
    let z := applyWrite x.2 data be poison
    scSettle x.1 slot la z.1 true z.2
  match ownRead s master la with
  | some (r, some slot) => .ok (merged (dropDreq s r.id, r.data, r.poison) slot)
  | some (r, none) => .ok (scWriteOut (dropDreq s r.id) la data be poison a master (.write none))
  | none =>
    match scLook s a master la true par vpar with
    | .wait => .error s
    | .hit s slot => .ok (scWriteHit s slot data be poison a master none).1
    | .miss s none => .ok (scWriteOut s la data be poison a master (.write none))
    | .miss s (some slot) =>
      if be = beAll then .ok (scSettle s slot la data true poison)
      else match readNow s a master la out with
        | some x => .ok (merged x slot)
        | none => .error (sendOwn s a master la (some slot))

/-! ## Commands (R270, R273 to R276) -/

/-- RESULT codes of SC_STAT. (DEDUCED, log 54) -/
abbrev scDone : Nat := 1

/-- A range is empty or not wholly inside the DRAM range in service (R273). -/
def scRangeBad (s : State) (line len : Nat) : Bool :=
  len = 0 || !rdB s .dmc 0x040 0 || !inDram s line || !inDram s (line + len - 1)

/-- A write of SC_CMD with an OP of 1 to 7 while none runs (R273, R275, R276): BUSY is set and the command is latched. (DEDUCED, log 54) Of two
causes RANGE comes before PART_OFF, and IN_PART before NOT_CLEAN. (DESIGN CHOICE, log 92) -/
def scStart (s : State) (v : Reg32) : State :=
  let op := fld v 0 4
  let w := fld v 8 6
  let part := fld v 16 4
  let line := (rd s .scac 0x044).toNat + rdF s .scac 0x048 0 10 * 2 ^ 32
  let len := (rd s .scac 0x04C).toNat
  let bad := op ≤ 4 && scRangeBad s line len
  let res :=
    if bad then 2
    else if op = 4 ∧ (!partEn s part ∨ partCleaning s part) then 5
    else if op = 5 ∧ wayEnabled s w then 6
    else if op = 6 ∧ wayOn s w ∧ (List.range 16).any (fun p => inPart s p w) then 3
    else if op = 6 ∧ wayOn s w ∧ !wayBit s 0x060 w then 4
    else 1
  let acts := res = 1 && (op < 6 || (op = 6 && wayOn s w) || (op = 7 && !wayOn s w))
  let s := wrB (wr s .scac 0x054 0) .scac 0x050 0 true
  let s := if op = 6 && acts then setWayBit s 0x058 w false else s
  let n := if !acts then 0 else if op < 5 then len else if op = 5 then 16384 else 0
  let cmd : ScCmd := { op := op, result := res, acts := acts, line := line, len := n, part := part, way := w, incl := bit v 4 }
  { s with sc := { s.sc with cmd := some cmd } }

/-- A write of SC_CMD that is rejected, with its code. -/
def scCmdReject (s : State) (v : Reg32) : Option Nat :=
  if 8 ≤ fld v 0 4 ∨ 48 ≤ fld v 8 6 then some 0x01
  else if rdB s .scac 0x050 0 then some 0x82
  else none

/-- A held line written back if dirty; it stays valid and clean. -/
def scCleanSlot (pars : List Nat) (s : State) (slot : Nat) : State :=
  let s := scParity s slot (scAttr s) (pars.contains slot)
  match SMap.find? s.sc.lines slot with
  | some x =>
    if x.dirty then
      scWriteOut (putLine s slot { x with dirty := false }) (slotLine slot x.tag) x.data beAll x.poison (scAttr s) 0x0F2 .cmd
    else s
  | none => s

/-- One line of a range command (R274). -/
def scRangeSlot (op : Nat) (incl : Bool) (pars : List Nat) (s : State) (slot : Nat) : State :=
  if op = 1 then scCleanSlot pars s slot
  else if wayLocked s (slot / 16384) && !incl then bumpF s .scac 0x054 0 32 1
  else if op = 2 then dropLine (scParity s slot (scAttr s) (pars.contains slot)) slot
  else dropLine (scCleanSlot pars s slot) slot

/-- Held slots whose line satisfies `f`. -/
def slotsWhere (s : State) (f : Nat → Nat → Bool) : List Nat :=
  (s.sc.lines.filter fun e => f e.1 (slotLine e.1 e.2.tag) && wayOn s (e.1 / 16384)).map Prod.fst

/-- One line of PRELOAD (R270): its read is sent and its home taken, unless it is held, or its home is locked. None while the line is on
its way or its slot is waited for. `pars` are the slots where a parity error is found. -/
def scPreloadLine (part la : Nat) (pars : List Nat) (s : State) : Option State :=
  if lineBusy s la then none
  else if (scFind s la).isSome then some s
  else match home s part la with
    | none => some s
    | some slot =>
      if wayLocked s (slot / 16384) then some (bumpF s .scac 0x054 0 32 1)
      else if (resvOf s slot).isSome then none
      else
        some (sendDram (scAllocate s (scAttr s) 0x0F2 la slot (pars.contains slot))
          { id := 0, isW := false, line := la, attr := scAttr s, port := portOf 0x0F2, cause := .preload slot })

/-- PRELOAD works through at most `n` lines of its range from the `i`-th, and stops at one that has to wait. -/
def scPreloadRun (c : ScCmd) (pars : List Nat) : Nat → Nat → State → State × Nat
  | 0, i, s => (s, i)
  | n + 1, i, s =>
    if c.len ≤ i then (s, i)
    else match scPreloadLine c.part (c.line + i) pars s with
      | some s => scPreloadRun c pars n (i + 1) s
      | none => (s, i)

/-- The held slots that a command reaches at places `lo` to `hi - 1` of its range: lines, or the indexes of its way (R274, R275). -/
def scSegment (s : State) (c : ScCmd) (lo hi : Nat) : List Nat :=
  slotsWhere s fun slot la =>
    if c.op = 5 then decide (slot / 16384 = c.way) && decide (lo ≤ slot % 16384) && decide (slot % 16384 < hi)
    else decide (c.line + lo ≤ la) && decide (la < c.line + hi)

/-- A slot the command reaches waits for a victim's acceptance (R278). -/
def scWaits (s : State) (l : List Nat) : Bool := s.sc.resvs.any fun r => r.victim && l.contains r.slot

/-- The running command goes on by at most `n` lines of its range (R270, R274, R275). -/
def scAdvance (c : ScCmd) (n : Nat) (pars : List Nat) (s : State) : State × Nat :=
  if c.op = 4 then scPreloadRun c pars n c.pos s
  else
    let hi := min c.len (c.pos + n)
    let l := scSegment s c c.pos hi
    if scWaits s l then (s, c.pos)
    else (l.foldl (fun s slot => if c.op = 5 then dropLine (scCleanSlot pars s slot) slot else scRangeSlot c.op c.incl pars s slot) s, hi)

/-- A request that the running command has sent to DRAM is not done with: a write-back not accepted, a read of PRELOAD not returned. -/
def scOwed (s : State) : Bool :=
  s.dram.reqs.any fun r => match r.cause with
    | .cmd => decide (r.stat = .sent)
    | .preload _ => true
    | _ => false

/-- SC_CMD_DONE (R270, R273 to R276, R278): the running command goes on by at most `n` lines of its range, and ends once all are done and
DRAM owes it nothing. `pars` are the slots where it finds a parity error. (DEDUCED, log 54) -/
def execScCmdDone (n : Nat) (pars : List Nat) (s : State) : Result :=
  .next (match s.sc.cmd with
    | none => s
    | some c =>
      let r := if c.acts then scAdvance c n pars s else (s, c.len)
      let s := { r.1 with sc := { r.1.sc with cmd := some { c with pos := r.2 } } }
      if r.2 < c.len ∨ (c.acts ∧ scOwed s) then s
      else
        let s := if c.acts ∧ c.op = 5 then setWayBit s 0x060 c.way true else if c.acts ∧ c.op = 7 then wayUp s c.way else s
        let s := wrF (wrB s .scac 0x050 0 false) .scac 0x050 4 4 c.result
        setIrq { s with sc := { s.sc with cmd := none } } .scac 1)

/-! ## Partitions (R262, R277) -/

/-- A write of PART_WAYS that is rejected, with its code, in the order of R262. -/
def partReject (s : State) (off : Nat) (v : Reg32) : Option Nat :=
  let p := (off - 0x080) / 8
  let hi := off % 8 = 4
  let base := if hi then 32 else 0
  let n := if hi then 16 else 32
  let ways := (List.range n).map (base + ·)
  let bitOf := fun w => bit v (w - base)
  let changed := ways.any fun w => bitOf w ≠ inPart s p w
  let empty := ways.all (fun w => !bitOf w) && (List.range 48).all fun w => ways.contains w || !inPart s p w
  if ways.any fun w => bitOf w && (List.range 16).any fun q => q ≠ p && inPart s q w then some 0x82
  else if (partEn s p && changed) || (hi && partCleaning s p && bit v 16) then some 0x83
  else if ways.any fun w => bitOf w && !inPart s p w && !wayOn s w then some 0x84
  else if hi && bit v 16 && empty then some 0x01
  else none

/-- A dirty line stands in a way of a partition. -/
def partDirty (s : State) (p : Nat) : Bool := s.sc.lines.any fun e => e.2.dirty && inPart s p (e.1 / 16384)

/-- EN of a partition is written to 0: a PRELOAD into it stops filling and ends with PART_OFF (R278). -/
def stopPreload (s : State) (p : Nat) : State :=
  { s with sc := { s.sc with cmd := s.sc.cmd.map fun c => if c.op = 4 ∧ c.acts ∧ c.part = p then { c with result := 5, len := c.pos } else c } }

/-- A write of PART_WAYS_HI (R277): EN from 1 to 0 clears at once, or starts the clean. -/
def partWrite (s : State) (off : Nat) (v : Reg32) : State :=
  let p := (off - 0x080) / 8
  let s1 := wr s .scac off (BitVec.ofNat 32 (fld v 0 16 + 2 ^ 16 * (fld v 16 1) + 2 ^ 17 * (partCleaning s p).toNat))
  if partEn s p && !bit v 16 then
    stopPreload (if partCleaning s p then wrB s1 .scac off 16 true
      else if partDirty s p then wrB (wrB s1 .scac off 16 true) .scac off 17 true
      else s1) p
  else s1

/-- PARTITION_CLEAN_DONE (R277): the scan writes back what is still dirty in the partition's ways; once DRAM has accepted all of it,
CLEANING and EN clear. -/
def execPartitionCleanDone (p : Fin 16) (pars : List Nat) (s : State) : Result :=
  .next (if !partCleaning s p ∨ s.sc.resvs.any (fun r => r.victim && inPart s p (r.slot / 16384)) then s
    else
      let s := (slotsWhere s fun slot _ => inPart s p (slot / 16384)).foldl (scCleanSlot pars) s
      if partDirty s p ∨ s.dram.reqs.any (fun r => decide (r.cause = .cmd) && decide (r.stat = .sent)) then s
      else wrB (wrB s .scac (0x084 + 8 * p) 17 false) .scac (0x084 + 8 * p) 16 false)

end Sys2Proof.Machine
end

