-- ==== Sys2Proof/Machine/Sram.lean ====
section
/-!
DEFINITION. Machine/Sram.lean: the on-chip SRAM (R105, R281 to R287): banks, SECDED, the secure part, bank states.
-/

namespace Sys2Proof.Machine

/-- The state of a bank (R285). -/
def bankState (s : State) (b : Nat) : Nat := rdF s .sram (0x040 + 4 * (b / 16)) (2 * (b % 16)) 2

/-- The banks whose unwritten bytes read as zero after a module reset: the staging banks and the secure part, which Sage zeroes and
wipes (R126). -/
def zeroedAtReset (b : Nat) : Bool := decide (b < 32 ∨ 56 ≤ b)

/-- Whether the unwritten bytes of a bank read as zero. -/
def bankZeroed (s : State) (b : Nat) : Bool := SMap.getF zeroedAtReset s.sram.zeroed b

/-- The byte at an address of on-chip SRAM. (DESIGN CHOICE, log 8) -/
def sramByte (s : State) (a : Nat) : Byte :=
  match SMap.get none s.sram.mem a with
  | some b => b
  | none => if bankZeroed s (bankAt a) then 0 else BitVec.ofNat 8 (Config.undefMem s.epoch 1 a)

/-- The state with a byte of on-chip SRAM set: what an unlisted byte reads as is not listed. (DESIGN CHOICE, log 8) -/
def setSramByte (s : State) (a : Nat) (b : Byte) : State :=
  { s with sram := { s.sram with mem := SMap.set none s.sram.mem a (if bankZeroed s (bankAt a) && b = 0 then none else some b) } }

/-- `n` bytes from an address, as a number with byte 0 lowest. -/
def sramBytes (s : State) (a n : Nat) : Nat := ofBytes ((List.range n).map fun i => sramByte s (a + i))

/-- Bytes written from an address, the bits of `mask` replaced. -/
def setSramBytes (s : State) (a n mask data : Nat) : State :=
  (List.range n).foldl (fun t i =>
    let m := BitVec.ofNat 8 (mask / 256 ^ i)
    if m = 0 then t else setSramByte t (a + i) ((sramByte t (a + i) &&& ~~~m) ||| (BitVec.ofNat 8 (data / 256 ^ i) &&& m))) s

/-- Every byte of banks `lo` to `hi - 1` becomes zero. -/
def zeroBanks (s : State) (lo hi : Nat) : State :=
  let inR := fun b => decide (lo ≤ b) && decide (b < hi)
  let z := (List.range 64).foldl (fun m b => if inR b then SMap.setF zeroedAtReset m b true else m) s.sram.zeroed
  { s with sram := { s.sram with
      mem := SMap.drop s.sram.mem fun a => inR (bankAt a)
      bad := SMap.drop s.sram.bad fun g => inR (bankAt (8 * g))
      zeroed := z } }

/-- The bytes of a range become zero. -/
def zeroBytes (s : State) (a n : Nat) : State :=
  { s with sram := { s.sram with
      mem := (s.sram.mem.filterMap fun e => if a ≤ e.1 ∧ e.1 < a + n then (if bankZeroed s (bankAt e.1) then none else some (e.1, some 0)) else some e)
      bad := SMap.drop s.sram.bad fun g => decide (a ≤ 8 * g) && decide (8 * g + 8 ≤ a + n) } }

/-- The secure part is banks 56 to 63 (R284). -/
def secureBank (b : Nat) : Bool := decide (56 ≤ b)

/-- Why a request to on-chip SRAM gets an error response (R155, R284, R285). -/
def sramDeny (s : State) (m : Master) (a : Nat) : Option Kind :=
  let b := bankAt a
  if secureBank b ∧ (m ≠ .scu ∨ s.sage.wiping) then some .master
  else if bankState s b ≠ 0 ∨ bistOn s 5 b then some .asleep
  else none

/-- A granule of 8 bytes is stored as poisoned. -/
def granBad (s : State) (g : Nat) : Bool := SMap.get false s.sram.bad g

/-- SECDED finds an error on a granule that an access reads (R283). -/
def sramFinding (s : State) (a : Attr) (g : Nat) (ce ue : Bool) : State :=
  if ue then
    recordErr { s with sram := { s.sram with bad := SMap.set false s.sram.bad g true } } .sram 0x81 contained a (8 * g % 2 ^ 32) a.did
  else if ce then recCorrected s .sram 0x80 a (8 * g % 2 ^ 32)
  else s

/-- The granules that the bytes `a` to `a + n - 1` touch. -/
def granules (a n : Nat) : List Nat := (List.range ((a + n - 1) / 8 - a / 8 + 1)).map (a / 8 + ·)

/-- Granules in the order in which their errors are recorded: an access lies in one CK_P cycle, so the higher class comes first (R119).
(DESIGN CHOICE, log 17) -/
def ueFirst (ue : BitVec 8) (l : List Nat) : List Nat :=
  l.filter (fun g => ue.getLsbD (g % 8)) ++ l.filter fun g => !ue.getLsbD (g % 8)

/-- SECDED's findings on the granules that an access reads (R119, R283). -/
def sramFindings (s : State) (a : Attr) (l : List Nat) (ce ue : BitVec 8) : State :=
  (ueFirst ue l).foldl (fun t g => sramFinding t a g (ce.getLsbD (g % 8)) (ue.getLsbD (g % 8))) s

/-- A read of `n` bytes within one block of 64 (R283): bit i of `ce` and `ue` says what SECDED finds on granule i of the
block. -/
def sramRead (s : State) (a : Attr) (addr n : Nat) (ce ue : BitVec 8) : State × Nat × Bool :=
  let s := sramFindings s a (granules addr n) ce ue
  (s, sramBytes s addr n, (granules addr n).any (granBad s))

/-- The bits of granule `g` that a write of `n` bytes at `addr` replaces. -/
def granMask (addr n mask g : Nat) : Nat :=
  let m := mask % 2 ^ (8 * n)
  (if addr ≤ 8 * g then m / 2 ^ (8 * (8 * g - addr)) else m * 2 ^ (8 * (addr - 8 * g))) % 2 ^ 64

/-- A write within one block of 64 (R281, R283): a granule covered in part is read first; one covered whole loses its poison,
or takes the poison of the data. -/
def sramWrite (s : State) (a : Attr) (addr n mask data : Nat) (poison : Bool) (ce ue : BitVec 8) : State :=
  let whole := fun (g : Nat) => decide (granMask addr n mask g = 2 ^ 64 - 1)
  let s := sramFindings s a ((granules addr n).filter fun g => !whole g && decide (granMask addr n mask g ≠ 0)) ce ue
  let s := (granules addr n).foldl (fun t g =>
    if whole g ∨ (poison ∧ granMask addr n mask g ≠ 0) then { t with sram := { t.sram with bad := SMap.set false t.sram.bad g poison } }
    else t) s
  setSramBytes s addr n mask data

/-- Requests in transit to a bank. -/
def bankFlight (s : State) (b : Nat) : List Nat :=
  (s.fab.txns.filter fun t => decide (t.status = .transit) && inSram t.req.addr && decide (bankAt t.req.addr = b)).map Txn.id

/-- The change of a bank's state begins: it reads 0b11 until it is done (R285). -/
def startMove (s : State) (b st : Nat) : State :=
  let was := if bankState s b = 3 then (SMap.get none s.sram.moving b).getD 0 / 4 else bankState s b
  wrF { s with sram := { s.sram with moving := SMap.set none s.sram.moving b (some (st + 4 * was)), asked := SMap.set none s.sram.asked b none } }
    .sram (0x040 + 4 * (b / 16)) (2 * (b % 16)) 2 3

/-- A change asked for while requests to the bank were in flight begins once they have completed (R285). -/
def askedMoves (s : State) : State :=
  s.sram.asked.foldl (fun t e => match e.2 with
    | some x => if (bankFlight t e.1).any x.2.contains then t else startMove t e.1 x.1
    | none => t) s

/-! ## Bank ports (R281, R282) -/

/-- The last access of a port. -/
def portUse (s : State) (p : Nat) : PortUse := SMap.get {} s.sram.ports p

/-- The order of a bank port (R281): what has waited 64 CK_F cycles first, then by class, RT first, then the oldest; at equal age by number.
(DESIGN CHOICE, log 17) -/
def portBefore (s : State) (u w : PortWait) : Bool :=
  let k := fun (x : PortWait) => (if x.since + 128 ≤ s.dt then 0 else 4) + x.cls
  decide (k u < k w) || (decide (k u = k w) && (decide (u.since < w.since) || (decide (u.since = w.since) && decide (u.who < w.who))))

/-- Another request that waits at the port is served before this one (R281). -/
def portTaken (s : State) (w : PortWait) : Bool :=
  (portWaits s).any fun u => decide (u.port = w.port) && decide (u.who ≠ w.who) && portBefore s u w

/-- A request that comes to its port: now, or, where the port is held, up to `waited` CK_F cycles ago within the access that holds it. -/
def portComes (s : State) (w : PortWait) (waited : Nat) : PortWait :=
  let u := portUse s w.port
  { w with since := if s.dt < u.stop then max (s.dt - 2 * waited) u.start else s.dt }

/-- The state in which the port serves a request: it is free and no other request comes first. One that stands there (`here`) is served as soon as
the port is free. None where it waits (R281). -/
def portTurn (s : State) (w : PortWait) (here : Bool) : Option State :=
  let t := if here then advanceTo s (portUse s w.port).stop else s
  if t.dt < (portUse t w.port).stop ∨ portTaken t w then none else some t

/-- How many CK_F cycles an access holds its port (R281): 32 bytes in each, and one more where a write covers a granule in part. -/
def portCost (isW : Bool) (addr n mask : Nat) : Nat :=
  (addr + n - 1) / 32 - addr / 32 + 1 + (isW && (granules addr n).any fun g => decide (granMask addr n mask g ≠ 2 ^ 64 - 1)).toNat

/-- The port is held by an access from now on. -/
def holdPort (s : State) (p : Nat) (isW : Bool) (addr n mask : Nat) : State :=
  let u : PortUse := { start := s.dt, stop := s.dt + 2 * portCost isW addr n mask, addr := addr, len := n, mask := if isW then mask % 2 ^ (8 * n) else 0,
                       old := sramBytes s addr n }
  { s with sram := { s.sram with ports := SMap.set {} s.sram.ports p u } }

/-- The other port of a bank that has two. -/
def otherPort (p : Nat) : Option Nat := if 8 ≤ p then none else some (if p % 2 = 0 then p + 1 else p - 1)

/-- Of the bytes of an access that begins now, those that the other port writes in the same CK_F cycle (R282): the bits it writes, and what they
held before. -/
def sameCycle (s : State) (p addr n : Nat) : Nat × Nat :=
  match (otherPort p).map (portUse s) with
  | none => (0, 0)
  | some u =>
    (List.range n).foldl (fun r i =>
      let a := addr + i
      let k := a - u.addr
      if u.addr ≤ a ∧ k < u.len ∧ s.dt / 2 + (a / 32 - addr / 32) = u.start / 2 + (a / 32 - u.addr / 32) then
        let m := u.mask / 256 ^ k % 256
        (r.1 + m * 256 ^ i, r.2 + (u.old / 256 ^ k % 256 &&& m) * 256 ^ i)
      else r) (0, 0)

/-- A read at a port: of bytes that the other port writes in the same cycle it gives the value before the write (R282). -/
def portRead (s : State) (p : Nat) (a : Attr) (addr n : Nat) (ce ue : BitVec 8) : State × Nat × Bool :=
  let x := sameCycle s p addr n
  let r := sramRead (holdPort s p false addr n 0) a addr n ce ue
  (r.1, (r.2.1 - (r.2.1 &&& x.1)) ||| x.2, r.2.2)

/-- A write at a port: of bytes that port B writes in the same cycle, port A's write is applied first, so port B's data remains (R282). -/
def portWrite (s : State) (p : Nat) (a : Attr) (addr n mask data : Nat) (poison : Bool) (ce ue : BitVec 8) : State :=
  let x := if p % 2 = 0 then (sameCycle s p addr n).1 else 0
  sramWrite (holdPort s p true addr n mask) a addr n (mask - (mask &&& x)) data poison ce ue

/-- A request that has come to its port waits there, and has waited so far (R286). -/
def portStands (s : State) (id : Nat) (w : PortWait) : State :=
  confCount (updTxn s id fun t => { t with arr := true, since := w.since }) w.master w.bank ((s.dt - w.since) / 2)

/-- SRAM_ACCESS (R281 to R286): a request in transit comes to its bank port, up to `waited` cycles ago while the port was held, or stands there;
it is served when the port is free and no other one that waits there comes first. `ce` and `ue` are what SECDED finds on the 8 granules of its
block. -/
def execSramAccess (id waited : Nat) (ce ue : BitVec 8) (s : State) : Result :=
  .next (match txn? s id with
    | some t =>
      if t.status ≠ .transit ∨ !inSram t.req.addr ∨ behindSource s t then s
      else
        let w := if t.arr then txnWait t else portComes s (txnWait t) waited
        match portTurn s w t.arr with
        | none => if t.arr then s else portStands s id w
        | some s =>
          askedMoves (match sramDeny s t.req.master t.req.addr with
            | some k => failTxn s t k
            | none =>
              if t.req.op = .write then
                answerTxn (portWrite s w.port t.attr t.req.addr t.req.len (reqMask t.req) t.req.data t.poison ce ue) id false false 0
              else
                let r := portRead s w.port t.attr t.req.addr t.req.len ce ue
                answerTxn r.1 id false r.2.2 r.2.1)
    | none => s)

/-! ## Bank states (R285) -/

/-- A write of SR_STATE that is rejected (R285): 0b11 for any bank is RANGE; banks 56 to 63 change by the SCU alone. -/
def srReject (s : State) (scu : Bool) (off : Nat) (v : Reg32) : Option Nat :=
  if 0x040 ≤ off ∧ off < 0x050 then
    if (List.range 16).any fun i => fld v (2 * i) 2 = 3 then some 0x01
    else if off = 0x04C ∧ !scu ∧ fld v 16 16 ≠ rdF s .sram off 16 16 then some 0x82
    else none
  else none

/-- A state is asked for a bank (R285): with requests to it in flight the change waits for them, and asking for the present state takes
a waiting change back. -/
def askMove (s : State) (b st : Nat) : State :=
  if st = bankState s b then { s with sram := { s.sram with asked := SMap.set none s.sram.asked b none } }
  else if (bankFlight s b).isEmpty then startMove s b st
  else { s with sram := { s.sram with asked := SMap.set none s.sram.asked b (some (st, bankFlight s b)) } }

/-- A write of SR_STATE requests the changes (R285). -/
def srWrite (s : State) (off : Nat) (v : Reg32) : State :=
  (List.range 16).foldl (fun t i => askMove t (16 * ((off - 0x040) / 4) + i) (fld v (2 * i) 2)) s

/-- SRAM_BANK_STATE_DONE (R285): the change ends; a bank that was OFF comes back zeroed, and one that goes OFF loses its contents, which read as
zeros from then on, also where it comes back through RET. (DESIGN CHOICE, log 92) -/
def execSramBankStateDone (b : Fin 64) (s : State) : Result :=
  .next (match SMap.get none s.sram.moving b with
    | some x =>
      let s := { s with sram := { s.sram with moving := SMap.set none s.sram.moving b none } }
      let s := if x / 4 = 2 ∨ x % 4 = 2 then zeroBanks s b (b + 1) else s
      wrF s .sram (0x040 + 4 * (b.val / 16)) (2 * (b.val % 16)) 2 (x % 4)
    | none => s)

/-- A CONF_SEL value names no master of R125 (R287). -/
def confBad (v : Reg32) : Bool :=
  let m := fld v 0 10
  !(m < 0x018 || (0x080 ≤ m && m < 0x084) || (0x088 ≤ m && m < 0x090) || (0x0F0 ≤ m && m < 0x0F3) || (0x100 ≤ m && m < 0x400))

end Sys2Proof.Machine
end

