-- ==== Sys2Proof/Machine/NgCore.lean ====
section
/-!
DEFINITION. Machine/NgCore.lean: engines and threads (spec 11 and 12): registers and their distances, slots, event sources,
memories, thread faults and entries.
-/

namespace Sys2Proof.Machine

/-! ## Engines and threads -/

/-- The record of an engine. -/
def eng (s : State) (e : Fin 512) : NgEngine := SMap.get {} s.engines e

/-- The record of an engine changed. -/
def updEng (s : State) (e : Fin 512) (f : NgEngine → NgEngine) : State := { s with engines := SMap.upd {} s.engines e f }

/-- The record of a thread. -/
def thr (s : State) (e : Fin 512) (t : Fin 4) : NgThread := SMap.get {} (eng s e).thr t

/-- The record of a thread changed. -/
def updThr (s : State) (e : Fin 512) (t : Fin 4) (f : NgThread → NgThread) : State :=
  updEng s e fun g => { g with thr := SMap.upd {} g.thr t f }

/-- The cluster of an engine. -/
def clusterOf (e : Fin 512) : Fin 32 := Fin.ofNat 32 (e.val / 16)

/-- Every thread of an engine is HALTED. -/
def allHalted (s : State) (e : Fin 512) : Bool := [0, 1, 2, 3].all fun (t : Fin 4) => (thr s e t).st = 0

/-- A thread exists for issue in its engine's mode (R367). -/
def threadExists (s : State) (e : Fin 512) (t : Fin 4) : Bool := !(eng s e).two || t.val < 2

/-- Ticks between a thread's slots (R366). -/
def slotPeriod (s : State) (e : Fin 512) : Nat := if (eng s e).two then 2 else 4

/-- The first slot of a thread at or after tick `x` (R366). -/
def slotFrom (s : State) (e : Fin 512) (t : Fin 4) (x : Nat) : Nat :=
  let p := slotPeriod s e
  x + (t.val + p - x % p) % p

/-- The next slot of a thread: not before its `next` nor before the present. -/
def nextSlot (s : State) (e : Fin 512) (t : Fin 4) : Nat := slotFrom s e t (max s.dt (thr s e t).next)

/-! ## General registers (R370, R371, R376, R377) -/

/-- Writes in the order they take effect: by tick, and at one tick a load last. -/
def pendOrder (a b : PendWr) : Bool := a.due < b.due || (a.due = b.due && (b.load || !a.load))

/-- The thread with every write that has taken effect before tick `r` made. -/
def settleRegs (th : NgThread) (r : Nat) : NgThread :=
  let now := (th.pend.filter fun w => w.due < r).mergeSort pendOrder
  { th with n := now.foldl (fun m w => SMap.set 0 m w.reg w.val) th.n, pend := th.pend.filter fun w => !(w.due < r) }

/-- A late answer is seen by a read of ST in tick `r`: its tick has passed, and no write of ST between the two has cleared RL (R371). -/
def lateSeen (p : RPrd) (r : Nat) : Bool := decide (p.due < r) && p.cut.all fun j => decide (r ≤ j)

/-- The remote PRDs whose tick has passed before tick `r` turned into writes of that tick, as loads: the response, or zero with ST.RL
where none came in time (R349, R377, R461); an MFC of ST that reads later than that tick reads RL (R371). -/
def settlePrds (th : NgThread) (r : Nat) : NgThread :=
  let now := th.prds.filter fun p => p.due < r
  let late := now.filter fun p => p.val.isNone
  { th with
    pend := (th.pend.map fun w => { w with val := if w.st.any fun x => late.any fun p => lateSeen p x then setBit w.val 15 true else w.val }) ++
      now.map fun p => { due := p.due, reg := p.reg, val := p.val.getD 0, load := true }
    sw := if late.any fun p => p.cut.isNone then setBit th.sw 15 true else th.sw
    prds := th.prds.filter fun p => !(p.due < r) }

/-- The thread as the stages of tick `r` see it: every register write, loaded word and PRD result of an earlier tick made (R371). -/
def settle (th : NgThread) (r : Nat) : NgThread := settleRegs (settlePrds th r) r

/-- A general register as settled. -/
def ngReg (th : NgThread) (r : Nat) : Word18 := SMap.get 0 th.n (r % 16)

/-- A general-register write on its way. -/
def ngWrite (th : NgThread) (due r : Nat) (v : Word18) (load : Bool) : NgThread :=
  { th with pend := th.pend ++ [{ due := due, reg := r % 16, val := v, load := load }] }

/-! ## Levels and returns (R393) -/

/-- ST is written at the end of a tick: RL of an answer that is late before it is overwritten (R371); one of that very tick stays set.
(DESIGN CHOICE, log 57) -/
def stWritten (th : NgThread) (j : Nat) : NgThread :=
  { th with prds := th.prds.map fun p => if p.due < j ∧ p.cut.isNone then { p with cut := some j } else p }

/-- The highest level of an ACTIVE field. -/
def topActive (x : Nat) : Nat := if x.testBit 2 then 3 else if x.testBit 1 then 2 else if x.testBit 0 then 1 else 0

/-- ACTIVE without the bit of a level. -/
def dropLevel (x q : Nat) : Nat := x &&& (7 - 2 ^ (q - 1))

/-- The level above which an entry is taken: the thread's own, and in the slot after a RETE the one that the RETE restores (R393). -/
def entryLevel (th : NgThread) : Nat :=
  match th.rete with
  | some q => topActive (dropLevel th.active q)
  | none => th.level

/-- The plain restore of a RETE, made at the next boundary where no level is entered (R393); ST is written in the RETE's E tick, over what
a late answer of an earlier tick has set (R371). -/
def reteRestore (th : NgThread) : NgThread :=
  match th.rete with
  | some q =>
    stWritten { th with active := dropLevel th.active q, level := topActive (dropLevel th.active q), pc := SMap.get 0 th.spc q,
                        sw := SMap.get 0 th.sst q &&& 0o177777, rete := none } th.reteAt
  | none => th

/-! ## Event sources (R386 to R389) -/

/-- A source was pending at the end of a tick. -/
def pendingAt (x : EvSrc) (tick : Nat) : Bool :=
  x.spans.any fun p => p.1 ≤ tick && (match p.2 with
    | some c => tick < c
    | none => true)

/-- A span in which a source is pending over the end of a tick, from before it on. -/
def spanOver (u : Nat) (p : Nat × Option Nat) : Bool := decide (p.1 < u) && p.2.all fun c => decide (u < c)

/-- What is pending over the end of a tick is cleared there. -/
def endSpan (x : EvSrc) (c : Nat) : EvSrc := { x with spans := x.spans.map fun p => if spanOver c p then (p.1, some c) else p }

/-- A source is set at the end of a tick: a clear of that tick leaves it pending, one of a later tick, already on its way, ends it
(R387). -/
def setSpan (x : EvSrc) (u : Nat) : EvSrc :=
  if x.spans.any fun p => p.1 = u then x
  else { endSpan x u with spans := ((u, (x.clears.filter fun c => u < c).min?) :: (endSpan x u).spans).take 8 }

/-- A source is cleared at the end of a tick; one set in that tick ends pending (R387). -/
def clearSpan (x : EvSrc) (c : Nat) : EvSrc := { endSpan x c with clears := (c :: x.clears).take 8 }

/-- An event source of an engine. -/
def evSrc (s : State) (e : Fin 512) (k : Nat) : EvSrc := SMap.get {} (eng s e).srcs k

/-- A control word as it stood at the end of a tick, where it holds `cur` now. (DEDUCED, log 57) -/
def ctlAt (g : NgEngine) (a : Nat) (cur : Word18) (tick : Nat) : Word18 :=
  g.hist.foldl (fun v h => if h.2.1 = a ∧ tick < h.1 then h.2.2 else v) cur

/-- EVMAP of a source at the end of a tick. -/
def evMapAt (s : State) (e : Fin 512) (k tick : Nat) : Word18 :=
  ctlAt (eng s e) (0o111000 + k) (SMap.get 0 (eng s e).evmap k) tick

/-- EVVEC of a level of a thread at the end of a tick. -/
def evVecAt (s : State) (e : Fin 512) (t : Fin 4) (l tick : Nat) : Word18 :=
  ctlAt (eng s e) (0o111200 + 4 * t.val + l) (SMap.get 0 (eng s e).evvec (4 * t.val + l)) tick

/-- The thread and level a source maps to at the end of a tick (R386, R396). -/
def srcMap (s : State) (e : Fin 512) (k tick : Nat) : Nat × Nat :=
  let v := evMapAt s e k tick
  (fld v 0 2, fld v 2 2)

/-- Sources mapped to a thread at a level and pending at the end of a tick, in rising order. -/
def pendingOf (s : State) (e : Fin 512) (t : Fin 4) (l tick : Nat) : List Nat :=
  (List.range 57).filter fun k => srcMap s e k tick = (t.val, l) && pendingAt (evSrc s e k) tick

/-- EVPND as it stands at the end of a tick. -/
def evPnd (s : State) (e : Fin 512) (n tick : Nat) : Word18 :=
  BitVec.ofNat 18 ((List.range 16).foldl (fun acc j => acc + (pendingAt (evSrc s e (16 * n + j)) tick).toNat * 2 ^ j) 0)

/-- EVCUR (R386). -/
def evCur (s : State) (e : Fin 512) (t : Fin 4) (tick : Nat) : Word18 :=
  let th := thr s e t
  let more := decide (th.level ≠ 0) && (pendingOf s e t th.level tick).any fun k => decide (k ≠ th.src)
  BitVec.ofNat 18 (th.src + 64 * more.toNat)

/-- The words of the event unit that tell of pending sources: EVPND and EVCUR. -/
def tellsPending (o : Nat) : Bool := (0o100 ≤ o && o < 0o104) || (0o400 ≤ o && o < 0o420 && o % 4 = 0)

/-- Such a word at the end of a tick. -/
def pendWord (s : State) (e : Fin 512) (o tick : Nat) : Word18 :=
  if o < 0o104 then evPnd s e (o - 0o100) tick else evCur s e (Fin.ofNat 4 ((o - 0o400) / 4)) tick

/-- What a thread's loads of EVPND and EVCUR that have issued read, as far as the sources are known now: the E stage of such a load may
lie after the tick of the last event (R370, R386). -/
def freshLoads (s : State) (e : Fin 512) : State :=
  updEng s e fun g => { g with thr := g.thr.map fun x => (x.1, { x.2 with pend := x.2.pend.map fun w => match w.ev with
    | some (o, j) => { w with val := pendWord s e o j }
    | none => w }) }

/-- A source becomes pending at the end of a tick; of an engine that is held in reset, none does (R102, R384). -/
def setSource (s : State) (e : Fin 512) (k tick : Nat) : State :=
  if engUp s then freshLoads (updEng s e fun g => { g with srcs := SMap.upd {} g.srcs k fun x => setSpan x tick }) e else s

/-- A source is cleared at the end of a tick. -/
def clearSource (s : State) (e : Fin 512) (k tick : Nat) : State :=
  freshLoads (updEng s e fun g => { g with srcs := SMap.upd {} g.srcs k fun x => clearSpan x tick }) e

/-- A source that nothing keeps pending any longer is cleared at the end of a tick (R386). -/
def endSource (s : State) (e : Fin 512) (k tick : Nat) : State :=
  freshLoads (updEng s e fun g => { g with srcs := SMap.upd {} g.srcs k fun x => endSpan x tick }) e

/-- The highest level deliverable to a thread for a slot (R388, R389). -/
def selectLevel (s : State) (e : Fin 512) (t : Fin 4) (slot : Nat) : Option Nat :=
  let th := thr s e t
  if th.st = 0 ∨ !th.en then none
  else [3, 2, 1].find? fun l => entryLevel th < l && pendingOf s e t l (slot - 3) ≠ []

/-! ## Memories (R342, R399) -/

/-- The word of an engine's local memory. -/
def lmWord (s : State) (e : Fin 512) (a : Nat) : Word18 :=
  match SMap.get none (eng s e).lm a with
  | some v => v
  | none => if (eng s e).zero then 0 else BitVec.ofNat 18 (Config.undefMem s.engEpoch (0x1000 + e.val) a)

/-- A word of local memory written, with fresh check bits (R385). -/
def setLm (s : State) (e : Fin 512) (a : Nat) (v : Word18) : State :=
  updEng s e fun g => { g with
    lm := SMap.set none g.lm a (if g.zero && v = 0 then none else some v)
    lmBad := SMap.set false g.lmBad a false
    lmCe := SMap.set false g.lmCe a false }

/-- A word of local memory is uncorrectable. -/
def lmIsBad (s : State) (e : Fin 512) (a : Nat) : Bool := SMap.get false (eng s e).lmBad a

/-- A word of local memory is found uncorrectable. -/
def lmSetBad (s : State) (e : Fin 512) (a : Nat) : State := updEng s e fun g => { g with lmBad := SMap.set false g.lmBad a true }

/-- A single-bit error is found in a word of local memory, and stays in it (R385). -/
def lmSetCe (s : State) (e : Fin 512) (a : Nat) : State := updEng s e fun g => { g with lmCe := SMap.set false g.lmCe a true }

/-- The words with a single-bit error among `n` local words are corrected in what is read: 0x80 LM_CE for each (R385). -/
def lmCorrected (s : State) (e : Fin 512) (a n : Nat) : State :=
  ((List.range n).filter fun i => SMap.get false (eng s e).lmCe (a + i)).foldl (fun s i => recInternal s (.nce e) 0x80 (a + i)) s

/-- The record of a cluster's memory. -/
def clu (s : State) (k : Fin 32) : NgCluster := SMap.get {} s.clusters k

/-- The record of a cluster's memory changed. -/
def updClu (s : State) (k : Fin 32) (f : NgCluster → NgCluster) : State := { s with clusters := SMap.upd {} s.clusters k f }

/-- A word of cluster memory. -/
def cmWord (s : State) (k : Fin 32) (c : Nat) : Word18 :=
  match SMap.get none (clu s k).cm c with
  | some v => v
  | none => if (clu s k).zero then 0 else BitVec.ofNat 18 (Config.undefMem s.engEpoch (0x2000 + k.val) c)

/-- A word of cluster memory written whole. -/
def setCm (s : State) (k : Fin 32) (c : Nat) (v : Word18) : State :=
  updClu s k fun g => { g with cm := SMap.set none g.cm c (if g.zero && v = 0 then none else some v), cmBad := SMap.set false g.cmBad c false }

/-- The owner of a segment of cluster memory (R409). -/
def cmOwner (s : State) (k : Fin 32) (c : Nat) : Nat :=
  let g := c / 4096 % 32
  rdF s (.nc k) (0x044 + 4 * (g / 4)) (8 * (g % 4)) 6

/-- What SECDED finds on a word of cluster memory that is read (R399, R409). -/
def cmFinding (s : State) (k : Fin 32) (c : Nat) (ecc : Fin 3) : State :=
  if ecc = 2 ∨ SMap.get false (clu s k).cmBad c then
    recordErr (updClu s k fun g => { g with cmBad := SMap.set false g.cmBad c true }) (.nc k) 0x81 contained (pageAttr s (.nc k)) c (cmOwner s k c)
  else if ecc = 1 then recInternal s (.nc k) 0x80 c
  else s

/-- The access of a thread to cluster memory, made in its table tick (R401, R409): `ecc` is what SECDED finds. -/
def cmAccess (s : State) (e : Fin 512) (t : Fin 4) (x : CmAcc) (ecc : Fin 3) : State :=
  let k := clusterOf e
  let s := updThr s e t fun th => { th with cma := none }
  let load := fun (s : State) (v : Word18) => updThr s e t fun th => ngWrite th (x.tick + 2) x.reg v true
  if cmOwner s k x.c ≠ owner s (.nce e) then
    let s := recContained s (.nce e) 0x85 x.c
    if x.st.isSome then s else load s 0
  else match x.st with
    | some v => setCm s k x.c v
    | none =>
      let s := cmFinding s k x.c ecc
      load s (if SMap.get false (clu s k).cmBad x.c then 0 else cmWord s k x.c)

/-- The accesses of a cluster that wait for a tick at or before the present. -/
def cmWaiting (s : State) (k : Fin 32) : List (Fin 512 × Fin 4 × CmAcc) :=
  (List.range 16).flatMap fun j =>
    let e := Fin.ofNat 512 (16 * k.val + j)
    ([0, 1, 2, 3] : List (Fin 4)).filterMap fun t => match (thr s e t).cma with
      | some x => if x.tick ≤ s.dt then some (e, t, x) else none
      | none => none

/-- The waiting accesses of a cluster whose tick has come are made, in the order of their ticks, before anything else reaches its memory
or changes an owner (R403, R424); SECDED finds nothing new on them. (DESIGN CHOICE, log 58) -/
def cmSettle (s : State) (k : Fin 32) : State :=
  ((cmWaiting s k).mergeSort fun a b => decide (a.2.2.tick ≤ b.2.2.tick)).foldl (fun s x => cmAccess s x.1 x.2.1 x.2.2 0) s

/-! ## Thread faults and halts (R362, R381, R383) -/

/-- ENG_MODE as it reads in a tick (R369, R379). -/
def modeWord (s : State) (e : Fin 512) (j : Nat) : Word18 :=
  let g := eng s e
  let v : Word18 := BitVec.ofNat 18 (g.two.toNat + 2 * g.clev.toNat)
  match g.modeWas with
  | some (w, x) => if j ≤ w then x else v
  | none => v

/-- THR_STAT as it reads in a tick (R378): a start or step that takes effect at the end of that tick or later does not show (R379). -/
def thrStat (s : State) (e : Fin 512) (t : Fin 4) (j : Nat) : Word18 :=
  let th := thr s e t
  let v : Word18 := BitVec.ofNat 18 (th.st + 4 * th.fault + 2 ^ 8 * th.inDs.toNat + 2 ^ 9 * th.level + 2 ^ 11 * th.active + 2 ^ 14 * th.en.toNat)
  match th.statWas with
  | some (w, x) => if j ≤ w then x else v
  | none => v

/-- THR_PC as it reads in a tick. -/
def thrPc (s : State) (e : Fin 512) (t : Fin 4) (j : Nat) : Word18 :=
  match (thr s e t).pcWas with
  | some (w, x) => if j ≤ w then x else (thr s e t).pc
  | none => (thr s e t).pc

/-- A thread is HALTED in a tick. -/
def haltedAt (s : State) (e : Fin 512) (t : Fin 4) (j : Nat) : Bool := fld (thrStat s e t j) 0 2 = 0

/-- Every thread of an engine is HALTED in a tick. -/
def allHaltedAt (s : State) (e : Fin 512) (j : Nat) : Bool := [0, 1, 2, 3].all fun (t : Fin 4) => haltedAt s e t j

/-- Source 56 becomes pending in every engine of the cluster whose CLEV is 1 (R383). -/
def clusterEvent (s : State) (k : Fin 32) (tick : Nat) : State :=
  (List.range 16).foldl (fun t j =>
    let e := Fin.ofNat 512 (16 * k.val + j)
    if bit (modeWord t e tick) 1 then setSource t e 56 tick else t) s

/-- A thread becomes HALTED; a RETE that it has issued makes its plain restore (R396). -/
def haltThread (th : NgThread) : NgThread := { reteRestore th with st := 0, haltAt := none, dslot := none, entered := false, rete := none }

/-- A thread fault in a slot (R362, R383). -/
def ngFault (s : State) (e : Fin 512) (t : Fin 4) (slot code : Nat) : State :=
  let s := updThr s e t fun th =>
    { haltThread th with fault := code, inDs := th.dslot.isSome, fpc := th.pc }
  clusterEvent (setIrq s (.nce e) (2 ^ t.val)) (clusterOf e) (slot + 1)

/-- Every thread of an engine stops where it is, for an uncorrectable word of local memory (R385). -/
def ngStopAll (s : State) (e : Fin 512) : State :=
  [0, 1, 2, 3].foldl (fun s (t : Fin 4) => updThr s e t fun th => if th.st = 0 then th else haltThread th) s

/-- The first uncorrectable word of `n` local words. -/
def lmFirstBad (s : State) (e : Fin 512) (a n : Nat) : Option Nat := ((List.range n).find? fun i => lmIsBad s e (a + i)).map (a + ·)

/-- An uncorrectable word of local memory is found by a thread (R385): every thread halts where it is, and 0x81 names the word. -/
def lmStop (s : State) (e : Fin 512) (w : Nat) : State := recContained (ngStopAll s e) (.nce e) 0x81 w

/-- What SECDED finds on `n` local words that a thread reads, on one of them, a free value (R385): the state, and whether the access
completes. An error found before is found again. (DESIGN CHOICE, log 57) -/
def lmFinding (s : State) (e : Fin 512) (a n : Nat) (ecc : Fin 3) : State × Bool :=
  let j := if n = 1 ∨ ecc = 0 then (0, s) else freeVal (n / 2) s
  let s := if ecc = 2 then lmSetBad j.2 e (a + j.1) else if ecc = 1 then lmSetCe j.2 e (a + j.1) else j.2
  match lmFirstBad s e a n with
  | some w => (lmStop s e w, false)
  | none => (lmCorrected s e a n, true)

/-! ## Entries (R390) -/

/-- A level is entered in a slot with a return address and the ST to save; ST keeps `cur`, LA cleared (R390, R393). -/
def enterNg (s : State) (e : Fin 512) (t : Fin 4) (l slot : Nat) (ret st : Word18) (cur : Word18) : State :=
  let k := (pendingOf s e t l (slot - 3)).headD 0
  let auto := bit (evMapAt s e k (slot - 3)) 4
  let vec := evVecAt s e t l (slot - 3)
  let s := updThr s e t fun th =>
    { th with
        spc := SMap.set 0 th.spc l ret
        sst := SMap.set 0 th.sst l st
        active := th.active ||| 2 ^ (l - 1)
        level := l
        sw := setFld cur 12 3 0
        src := k
        pc := vec
        next := slot
        entered := true
        rete := none }
  if auto then clearSource s e k slot else s

end Sys2Proof.Machine
end

