-- ==== Sys2Proof/Machine/Cells.lean ====
section
/-!
DEFINITION. Machine/Cells.lean: port cells (spec 14): slot words, capture, schedule and repeat, the shift engine with its
assists, events, timeouts and the safe state, and the checks of the PC page.
-/

namespace Sys2Proof.Machine

/-! ## Access -/

/-- The record of a cell. -/
def cell (s : State) (n : Fin 256) : Cell := SMap.get {} s.cells n

/-- The record of a cell changed. -/
def updCell (s : State) (n : Fin 256) (f : Cell → Cell) : State := { s with cells := SMap.upd {} s.cells n f }

/-- A field of a cell's page. -/
def pcF (s : State) (n : Fin 256) (off lo k : Nat) : Nat := rdF s (.pc n) off lo k

/-- A bit of a cell's page. -/
def pcB (s : State) (n : Fin 256) (off i : Nat) : Bool := rdB s (.pc n) off i

/-- CELL_CTRL.EN. -/
def cellEn (s : State) (n : Fin 256) : Bool := pcB s n 0x040 0

/-- The bank of a cell. -/
def bankOfCell (n : Fin 256) : Page := .pb (Fin.ofNat 16 (n.val / 16))

/-- RAIL of the cell's bank reads ON (R429). -/
def railOn (s : State) (n : Fin 256) : Bool := rdF s (bankOfCell n) 0x044 0 2 = 2

/-- FORCE_SAFE of the cell's bank (R430). -/
def forceSafe (s : State) (n : Fin 256) : Bool := rdB s (bankOfCell n) 0x040 2

/-- The offset of a land's configuration: LA_CFG or LB_CFG. -/
def landCfg (b : Bool) : Nat := if b then 0x048 else 0x044

/-- The accepted level of a land after INV (R434, R437). -/
def landLevel (s : State) (n : Fin 256) (b : Bool) : Bool :=
  (if b then (cell s n).accB else (cell s n).accA) != pcB s n (landCfg b) 30

/-- The partner of a cell (R458). -/
def partner (n : Fin 256) : Fin 256 := Fin.ofNat 256 (if n.val % 2 = 0 then n.val + 1 else n.val - 1)

/-- MODE of the shift engine (R448). -/
def shMode (s : State) (n : Fin 256) : Nat := pcF s n 0x04C 0 3

/-- Bits of a frame. -/
def frameLen (s : State) (n : Fin 256) : Nat := pcF s n 0x04C 3 5 + 1

/-- Queue words of a frame (R447); SENT carries one nibble a word. -/
def frameWords (s : State) (n : Fin 256) : Nat := if shMode s n = 4 ∨ frameLen s n ≤ 16 then 1 else 2

/-- STAT.TXRDY (R437). -/
def txRdy (s : State) (n : Fin 256) : Bool := decide (frameWords s n ≤ 4 - (cell s n).tx.length)

/-- STAT.RXRDY: a whole frame is in the RX queue. -/
def rxRdy (s : State) (n : Fin 256) : Bool := (cell s n).rx.any fun f => !f.2

/-- STAT.SHBUSY. -/
def shBusy (s : State) (n : Fin 256) : Bool := (cell s n).txf.isSome || (cell s n).rxf.isSome

/-- INT of a bit timing set. -/
def setInt (s : State) (n : Fin 256) (x : Nat) : Nat := pcF s n (0x050 + 4 * x) 0 24

/-- FRAC of a bit timing set. -/
def setFrac (s : State) (n : Fin 256) (x : Nat) : Nat := pcF s n (0x050 + 4 * x) 24 4

/-- The stretch of a frame that bit `k` belongs to. -/
def segOf (f : TxFrame) (k : Nat) : BitSeg := ((f.segs.filter fun g => g.bit ≤ k).getLast?).getD { base := f.start, set := 0 }

/-- The start of bit `k` of a frame (R447). -/
def bitStart (s : State) (n : Fin 256) (f : TxFrame) (k : Nat) : Nat :=
  let g := segOf f k
  g.base + (g.acc + (k - g.bit) * setFrac s n g.set) / 16 + (k - g.bit) * setInt s n g.set

/-- The bit timing set of a frame at a tick; `d` before it starts. -/
def setAt (f : TxFrame) (tick d : Nat) : Nat := (((f.segs.filter fun g => g.base ≤ tick).getLast?).map BitSeg.set).getD d

/-- The bit timing set in use in a tick: that of the bit being sent, else of the bit being received, else that of the last bit (R437,
R447). -/
def setInUse (s : State) (n : Fin 256) (tick : Nat) : Nat :=
  match (cell s n).txf, (cell s n).rxf with
  | some f, _ => setAt f tick (cell s n).bset
  | none, some r => setAt r.fr tick (cell s n).bset
  | none, none => (cell s n).bset

/-- STAT in a tick (R437). -/
def cellStat (s : State) (n : Fin 256) (tick : Nat) : Nat :=
  let c := cell s n
  c.capf.length + 2 ^ 5 * c.schf.length + 2 ^ 10 * (landLevel s n false).toNat + 2 ^ 11 * (landLevel s n true).toNat
    + 2 ^ 12 * (rxRdy s n).toNat + 2 ^ 13 * (txRdy s n).toNat + 2 ^ 14 * (shBusy s n).toNat
    + 2 ^ 15 * (decide (pcF s n 0x06C 0 15 ≠ 0)).toNat + 2 ^ 16 * c.safe.toNat + 2 ^ 17 * setInUse s n tick

/-- CELL_STAT (R467). -/
def cellStatReg (s : State) (n : Fin 256) : Nat :=
  let c := cell s n
  (if c.safe then 2 else (cellEn s n).toNat) + 4 * c.cause + 2 ^ 5 * (landLevel s n false).toNat + 2 ^ 6 * (landLevel s n true).toNat
    + 2 ^ 8 * c.capf.length + 2 ^ 13 * c.schf.length

/-! ## Events and errors (R386, R452) -/

/-- An event of a cell occurs in a tick: each line that selects it sets its source in the engines of the cluster whose slice
belongs to the cell's owner. -/
def cellEvent (s : State) (n : Fin 256) (code tick : Nat) : State :=
  let k := n.val / 8
  let src := 2 * (n.val % 8)
  let hitA := decide (pcF s n 0x040 8 4 = code)
  let hitB := decide (pcF s n 0x040 12 4 = code)
  if !hitA && !hitB then s
  else (List.range 16).foldl (fun t j =>
    let e := Fin.ofNat 512 (16 * k + j)
    if owner t (.nce e) = owner t (.pc n) then
      let t := if hitA then setSource t e src tick else t
      if hitB then setSource t e (src + 1) tick else t
    else t) s

/-- A CELL_ERR flag is set: IRQ_STAT bit 1 and the ERR event (R452, R467). -/
def cellErr (s : State) (n : Fin 256) (i tick : Nat) : State :=
  cellEvent (setIrq (wrB s (.pc n) 0x06C i true) (.pc n) 2) n 0x8 tick

/-- A change that may bring TXRDY from 0 to 1, with the TXE event. -/
def withTxe (n : Fin 256) (tick : Nat) (f : State → State) (s : State) : State :=
  let s' := f s
  if !txRdy s n && txRdy s' n then cellEvent s' n 0x3 tick else s'

/-- The schedule FIFO is emptied, with the SCHE event where it held an entry. -/
def clearSched (s : State) (n : Fin 256) (tick : Nat) : State :=
  let had := (cell s n).schf ≠ []
  let s := updCell s n fun c => { c with schf := [], staged := 0 }
  if had then cellEvent s n 0x5 tick else s

/-! ## Timers and SAFE (R453 to R455) -/

/-- The length a TMO field gives, in ticks; 0 disables. -/
def tmoLen (k : Nat) : Nat := if k = 0 then 0 else 2 ^ (k + 9)

/-- KEEP restarts at a tick. (DEDUCED, log 61) -/
def restartKeep (s : State) (n : Fin 256) (tick : Nat) : State :=
  updCell s n fun c => { c with keepAt := tick + tmoLen (pcF s n 0x060 0 5) }

/-- IDLE restarts at a tick. -/
def restartIdle (s : State) (n : Fin 256) (tick : Nat) : State :=
  updCell s n fun c => { c with idleAt := tick + tmoLen (pcF s n 0x060 8 5) }

/-- The level that a SAFE field gives: release, low or high (R455). -/
def safeLevel (f : Nat) : Nat := if f = 1 then 0 else if f = 2 then 1 else 2

/-- What a land drives for a level: 0 low, 1 high, 2 nothing; INV inverts it, and open drain releases a high (R431, R434). -/
def levelOut (s : State) (n : Fin 256) (b : Bool) (lv : Nat) : Nat :=
  let out := if lv = 2 then 2 else if pcB s n (landCfg b) 30 then 1 - lv else lv
  if pcF s n (landCfg b) 0 2 = 2 ∧ out = 1 then 2 else out

/-- A cell enters SAFE for a cause (R454), and its lands keep what they drive then; a cell in SAFE takes the new cause. While FORCE_SAFE is
set the cause is FORCED (R430). -/
def enterSafe (s : State) (n : Fin 256) (cause tick : Nat) : State :=
  let cause := if forceSafe s n then 4 else cause
  if (cell s n).safe then updCell s n fun c => { c with cause := cause, safeAt := some tick }
  else
    let a := safeLevel (pcF s n 0x044 28 2)
    let b := safeLevel (pcF s n 0x048 28 2)
    let s := clearSched s n tick
    let s := withTxe n tick (fun s => updCell s n fun c => { c with
      capf := [], lost := false, rx := [], rxIn := [], tx := [], txf := none, rxf := none, repOn := false, repOff := none,
      safe := true, cause := cause, safeAt := some tick, safeA := levelOut s n false a, safeB := levelOut s n true b,
      lvA := a, lvB := b, wasA := [], wasB := [], bset := setInUse s n tick }) s
    setIrq s (.pc n) 1

/-- A bank is held in SAFE by a fatal error or by Marionette (R553, R569). -/
def bankHeld (s : State) (b : Nat) : Bool := rdB s .flts 0x040 2 || strStopped s b

/-- A cell leaves SAFE unless it is forced or held, its rail is not ON, or a cause for SAFE came in the same tick (R430, R454, R465, R553,
R569). -/
def leaveSafe (s : State) (n : Fin 256) (tick : Nat) : State :=
  if (cell s n).safe && !forceSafe s n && !bankHeld s (n.val / 16) && railOn s n && decide ((cell s n).safeAt ≠ some tick) then
    updCell s n fun c => { c with safe := false }
  else s

/-! ## Levels and the repeat timer (R438, R443 to R446) -/

/-- A level register after an action: 0 low, 1 high, 2 release, 3 toggle (R443). -/
def levelAfter (old op : Nat) : Nat := if op = 3 then (if old = 0 then 1 else 0) else op

/-- A land's level register takes an action in a tick; the land follows in the tick after (R444). -/
def setLevel (s : State) (n : Fin 256) (b : Bool) (op tick : Nat) : State :=
  updCell s n fun c =>
    if b then { c with lvB := levelAfter c.lvB op, wasB := ((tick, c.lvB) :: c.wasB).take 4 }
    else { c with lvA := levelAfter c.lvA op, wasA := ((tick, c.lvA) :: c.wasA).take 4 }

/-- The level that a level register gives its land in a tick (R444). -/
def levelAt (c : Cell) (b : Bool) (tick : Nat) : Nat :=
  (((if b then c.wasB else c.wasA).filter fun h => tick ≤ h.1).getLast?.map Prod.snd).getD (if b then c.lvB else c.lvA)

/-- H of a period (R446). -/
def dutyTicks (s : State) (n : Fin 256) : Nat :=
  let v := (cell s n).duty
  if bit v 17 then 0 else pcF s n 0x064 0 24 * v.toNat / 2 ^ 17

/-- A repeat period starts in a tick (R445, R446). -/
def startPeriod (s : State) (n : Fin 256) (tick : Nat) : State :=
  let h := dutyTicks s n
  cellEvent (updCell s n fun c => { c with repLast := (c.repStart, c.repH), repOn := true, repOff := none, repStart := tick, repH := h }) n 0x6 tick

/-- The repeat timer stops in a tick: the output is inactive in the tick after (R445). -/
def stopRepeat (s : State) (n : Fin 256) (tick : Nat) : State :=
  updCell s n fun c => if c.repOn then { c with repOn := false, repOff := some tick } else c

/-! ## The transmitter (R447 to R451) -/

/-- The bits of a value of `len` bits, in the order of sending. -/
def orderBits (msb : Bool) (len v : Nat) : List Bool :=
  let l := (List.range len).map fun i => v.testBit i
  if msb then l.reverse else l

/-- A value from bits in the order of receiving. -/
def valueOf (msb : Bool) (l : List Bool) : Nat :=
  (if msb then l.reverse else l).foldr (fun b acc => b.toNat + 2 * acc) 0

/-- The parity bit of UART (R451). -/
def parityBit (odd : Bool) (l : List Bool) : Bool := (l.filter id).length % 2 = (if odd then 0 else 1)

/-- The frame bits that the queue's first words give in the mode in force. -/
def txBits (s : State) (n : Fin 256) (ws : List Word18) : List Bool :=
  let v := (ws.getD 0 0).toNat % 2 ^ 16 + 2 ^ 16 * ((ws.getD 1 0).toNat % 2 ^ 16)
  let data := orderBits (pcB s n 0x04C 8) (frameLen s n) v
  if shMode s n = 1 then
    let par := if pcB s n 0x04C 9 then [parityBit (pcB s n 0x04C 10) data] else []
    let stop := if pcB s n 0x04C 11 then [true, true] else [true]
    false :: data ++ par ++ stop
  else data

/-- Stuffing is on for sent bit `i`, by the switches recorded. -/
def stuffAt (sw : List (Nat × Bool)) (i : Nat) : Bool :=
  sw.foldl (fun on e => if e.1 ≤ i then e.2 else on) true

/-- The bits sent: after 5 equal bits a complement bit is inserted while stuffing is on (R451). `run` counts equal bits up to
`last`, `i` is the number of bits sent. -/
def stuffBits (sw : List (Nat × Bool)) : List Bool → Nat → Bool → Nat → List Bool
  | [], run, last, i => if run = 5 ∧ stuffAt sw i then [!last] else []
  | b :: rest, run, last, i =>
    if run = 5 ∧ stuffAt sw i then
      let r := if b = !last then 2 else 1
      (!last) :: b :: stuffBits sw rest r b (i + 2)
    else
      let r := if run ≠ 0 ∧ b = last then (if run = 5 then 5 else run + 1) else 1
      b :: stuffBits sw rest r b (i + 1)

/-- The bits on the land for a frame. -/
def sentBits (s : State) (n : Fin 256) (f : TxFrame) : List Bool :=
  if shMode s n = 2 then stuffBits f.stuff f.bits 0 false 0 else f.bits

/-- Units of a SENT word (R451). -/
def sentUnits (s : State) (n : Fin 256) (w : Nat) : Nat :=
  if w.testBit 17 then 56 else max (12 + w % 16) (pcF s n 0x04C 24 4 + 1)

/-- The stretch of a frame whose bits are counted by an outside clock: its bit is the one being sent. -/
def lastSeg (f : TxFrame) : BitSeg := f.segs.getLast?.getD { base := f.start, set := 0 }

/-- The tick with which a frame's last bit has ended (R447, R451); where the bits follow an outside clock, none before that has come: in
SYNC_T the tick after the clock's edge back to CPOL, in ODC half a bit after SCL is read high for the last bit. (DEDUCED, log 61) -/
def frameEnd (s : State) (n : Fin 256) (f : TxFrame) : Option Nat :=
  let m := shMode s n
  let g := lastSeg f
  if m = 6 then (if f.bits.length ≤ g.bit ∧ landLevel s n true = pcB s n 0x04C 12 then (cell s n).edgB.map (· + 1) else none)
  else if m = 7 then (if f.bits.length ≤ g.bit then some g.base else none)
  else if m = 4 then some (bitStart s n f (sentUnits s n f.word))
  else some (bitStart s n f (sentBits s n f).length)

/-- The transmitter takes a frame from the queue and starts it in a tick (R449). -/
def startTx (s : State) (n : Fin 256) (tick : Nat) : State :=
  let k := frameWords s n
  let ws := (cell s n).tx.take k
  withTxe n tick (fun s => updCell s n fun c => { c with
    tx := c.tx.drop k
    bset := c.nset
    txf := some { bits := txBits s n ws, word := (ws.getD 0 0).toNat, start := tick,
                  segs := [{ base := tick, set := c.nset }], stuff := [(0, c.stuffOn)] } }) s

/-- The transmitter can start: it is idle, the cell works, and the queue holds a whole frame. -/
def canTx (s : State) (n : Fin 256) : Bool :=
  cellEn s n && !(cell s n).safe && (cell s n).txf.isNone && decide (frameWords s n ≤ (cell s n).tx.length)

/-- The transmitter is idle from tick `t` on. -/
def endFrame (s : State) (n : Fin 256) (t : Nat) : State :=
  updCell s n fun c => { c with txf := none, bset := ((c.txf.bind fun f => (f.segs.filter fun g => g.base < t).getLast?).map BitSeg.set).getD c.bset }

/-- The current frame ends at the end of a tick and the shift engine is idle (R438). -/
def abortShift (s : State) (n : Fin 256) (tick : Nat) : State :=
  updCell (endFrame s n (tick + 1)) n fun c => { c with rxf := none, bset := setInUse s n tick }

/-! ## The receiver (R447, R450, R451) -/

/-- SMP of a bit timing set. -/
def setSmp (s : State) (n : Fin 256) (x : Nat) : Nat := pcF s n (0x058 + 4 * x) 0 24

/-- Ticks of bit `k` of a frame. -/
def bitTicks (s : State) (n : Fin 256) (f : TxFrame) (k : Nat) : Nat := bitStart s n f (k + 1) - bitStart s n f k

/-- The bit of a frame that a tick lies in. -/
def bitIn (s : State) (n : Fin 256) (f : TxFrame) (tick : Nat) : Nat :=
  (((List.range 256).filter fun k => bitStart s n f k ≤ tick).getLast?).getD 0

/-- The level that the receiver samples: land B, in the SYNC modes the partner's land A, in ODC land A (R448). -/
def rxLand (s : State) (n : Fin 256) : Bool :=
  match shMode s n with
  | 5 | 6 => landLevel s (partner n) false
  | 7 => landLevel s n false
  | _ => landLevel s n true

/-- The tick of the receiver's next sample, where it follows from the frame's own times (R447, R451): SMP ticks after the bit starts; in
MANCH a sample of each half, half a bit apart; in SYNC_C the clock edge in the middle of the bit; in ODC SMP ticks after SCL was read high.
(DESIGN CHOICE, log 62) -/
def rxNext (s : State) (n : Fin 256) (r : RxFrame) : Option Nat :=
  let j := r.fr.bits.length
  match shMode s n with
  | 3 => some (bitStart s n r.fr (j / 2) + setSmp s n (segOf r.fr (j / 2)).set + (if j % 2 = 1 then bitTicks s n r.fr (j / 2) / 2 else 0))
  | 4 | 6 => none
  | 5 => some (bitStart s n r.fr j + bitTicks s n r.fr j / 2)
  | 7 => r.next
  | _ => some (bitStart s n r.fr j + setSmp s n (segOf r.fr j).set)

/-- What a received frame comes to: its value, the CELL_ERR flags its end sets, ERR and MARK. -/
structure RxOut where
  val  : Nat
  errs : List Nat := []
  bad  : Bool := false
  mark : Bool := false
  deriving DecidableEq, Repr

/-- Stuff bits removed (R451), by the switches recorded: the data bits, whether six equal bits were seen, and how many equal bits stand
last. `i` is the number of bits sampled. -/
def unstuff (sw : List (Nat × Bool)) : List Bool → Nat → Nat → Bool → List Bool × Bool × Nat
  | [], _, run, _ => ([], false, run)
  | b :: rest, i, run, last =>
    if run = 5 ∧ stuffAt sw i then
      let r := unstuff sw rest (i + 1) 1 b
      (r.1, r.2.1 || b == last, r.2.2)
    else
      let r := unstuff sw rest (i + 1) (if run ≠ 0 ∧ b = last then (if run = 5 then 5 else run + 1) else 1) b
      (b :: r.1, r.2)

/-- The samples hold a whole frame of the mode in force (R450); in STUFF the stuff bit after five equal last bits belongs to it.
(DESIGN CHOICE, log 62) -/
def rxFull (s : State) (n : Fin 256) (r : RxFrame) : Bool :=
  let len := frameLen s n
  let j := r.fr.bits.length
  match shMode s n with
  | 1 => j = 1 + len + (pcB s n 0x04C 9).toNat + (if pcB s n 0x04C 11 then 2 else 1)
  | 2 =>
    let u := unstuff r.fr.stuff r.fr.bits 0 0 false
    u.1.length = len && !(u.2.2 = 5 && stuffAt r.fr.stuff j)
  | 3 => j = 2 * len
  | 4 => false
  | _ => j = len

/-- Pairs of half-bit samples as bits; a pair without a transition has no value. (DESIGN CHOICE, log 62) -/
def manchBits (minv : Bool) : List Bool → List (Option Bool)
  | a :: b :: rest => (if a = b then none else some (b != minv)) :: manchBits minv rest
  | _ => []

/-- What the samples of a whole frame come to (R450, R451). `free` gives a value to Manchester bits without a transition. (DESIGN CHOICE,
log 62) -/
def rxDecode (s : State) (n : Fin 256) (r : RxFrame) (free : Nat) : RxOut :=
  let len := frameLen s n
  let msb := pcB s n 0x04C 8
  let smp := r.fr.bits
  match shMode s n with
  | 1 =>
    let par := (pcB s n 0x04C 9).toNat
    let data := (smp.drop 1).take len
    let pOk := par = 0 || (smp.drop (1 + len)).head? = some (parityBit (pcB s n 0x04C 10) data)
    let sOk := (smp.drop (1 + len + par)).all id
    { val := valueOf msb data, errs := if pOk && sOk then [] else [7], bad := !(pOk && sOk), mark := data.all (!·) && !sOk }
  | 2 =>
    let u := unstuff r.fr.stuff smp 0 0 false
    { val := valueOf msb u.1, errs := if u.2.1 then [8] else [], bad := u.2.1, mark := r.mark }
  | 3 =>
    let l := manchBits (pcB s n 0x04C 14) smp
    { val := valueOf msb (l.zipIdx.map fun e => e.1.getD (free.testBit e.2)), errs := if l.any Option.isNone then [10] else [],
      bad := l.any Option.isNone }
  | 7 => { val := valueOf msb smp, bad := r.mark, mark := r.mark }
  | _ => { val := valueOf msb smp }

/-- The queue words of a received frame: flags on the first word (R450). -/
def rxWords (s : State) (n : Fin 256) (o : RxOut) : List Word18 :=
  let flags := 2 ^ 16 * o.bad.toNat + 2 ^ 17 * o.mark.toNat
  if frameWords s n = 1 then [BitVec.ofNat 18 (o.val % 2 ^ 16 + flags)]
  else [BitVec.ofNat 18 (o.val % 2 ^ 16 + flags), BitVec.ofNat 18 (o.val / 2 ^ 16 % 2 ^ 16)]

/-- A received frame comes into the RX queue (R450): the flags it sets, then its words; without room it is dropped. -/
def rxEnter (s : State) (n : Fin 256) (x : RxIn) : State :=
  let s := x.errs.foldl (fun s i => cellErr s n i x.tick) s
  if ((cell s n).rx.map fun f => f.1.length).sum + x.ws.length ≤ 4 then
    cellEvent (updCell s n fun c => { c with rx := c.rx ++ [(x.ws, false)] }) n 0x2 x.tick
  else cellErr s n 6 x.tick

/-- The oldest frame on its way comes into the queue. -/
def rxComes (s : State) (n : Fin 256) : State :=
  match (cell s n).rxIn with
  | x :: rest => rxEnter (updCell s n fun c => { c with rxIn := rest }) n x
  | [] => s

/-- The receiver's frame that starts in a tick, with the set and the stuffing in force then. -/
def rxBegin (s : State) (n : Fin 256) (tick : Nat) : RxFrame :=
  { fr := { bits := [], start := tick, segs := [{ base := tick, set := (cell s n).nset }], stuff := [(0, (cell s n).stuffOn)] } }

/-- The receiver's frame is whole with the sample of a tick (R450): its words follow in the tick after; in RAW, STUFF and MANCH the next
frame starts where its last bit ends, and otherwise the receiver is idle. (DEDUCED, log 61) -/
def rxDone (s : State) (n : Fin 256) (r : RxFrame) (tick : Nat) : State :=
  let m := shMode s n
  let fv := freeVal 64 s
  let o := rxDecode s n r fv.1
  let s := if o.errs.contains 10 then fv.2 else s
  let k := if m = 3 then r.fr.bits.length / 2 else r.fr.bits.length
  let next := rxBegin s n (bitStart s n r.fr k)
  let moved := (r.fr.segs.filter fun g => k < g.bit).map fun g => { g with bit := g.bit - k }
  let r' := if m = 0 || m = 2 || m = 3 then
      some { next with fr := { next.fr with segs := next.fr.segs ++ moved }, lastAt := bitStart s n r.fr (k - 1) } else none
  updCell s n fun c => { c with
    rxf := r', bset := (segOf r.fr (k - 1)).set, rxIn := c.rxIn ++ [{ tick := tick + 1, ws := rxWords s n o, errs := o.errs }] }

/-- The bit that an ODC frame sends in a tick: half a bit after SCL is read high it goes on to the next. -/
def odcBit (f : TxFrame) (tick : Nat) : Nat := if (lastSeg f).base ≤ tick then (lastSeg f).bit else (lastSeg f).bit - 1

/-- The bit of the transmitter that a sample in a tick is compared with (R447, R451): the bit sent then or, with a sample point that lies
`d` whole bit periods after the bit's start, the one `d` bits before it. -/
def sentAt (s : State) (n : Fin 256) (r : RxFrame) (tick : Nat) : Option Bool :=
  match (cell s n).txf with
  | some f =>
    let k := bitIn s n f tick
    let d := bitIn s n r.fr tick - r.fr.bits.length
    if f.start ≤ tick ∧ d ≤ k then (sentBits s n f)[k - d]? else none
  | none => none

/-- The receiver takes a sample in a tick (R451): a false start ends a UART frame; a bit that differs from the one sent is a bit error in
STUFF; SDA low while it is released is a lost arbitration in ODC, after which the transmitter releases it. -/
def takeSample (s : State) (n : Fin 256) (tick : Nat) : State :=
  match (cell s n).rxf with
  | none => s
  | some r =>
    let v := rxLand s n
    let m := shMode s n
    if m = 1 ∧ r.fr.bits = [] ∧ v then updCell s n fun c => { c with rxf := none }
    else
      let err := m = 2 && (sentAt s n r tick).any fun b => b != v
      let arb := m = 7 && !v && (cell s n).txf.any fun f => f.bits.getD (odcBit f tick) false
      let s := if err then cellErr s n 9 tick else if arb then cellErr s n 13 tick else s
      let s := if arb then updCell s n fun c => { c with txf := c.txf.map fun f => { f with bits := f.bits.map fun _ => true } } else s
      let r := { r with fr := { r.fr with bits := r.fr.bits ++ [v] }, mark := r.mark || err || arb, next := none }
      if rxFull s n r then rxDone s n r tick else updCell s n fun c => { c with rxf := some r }

/-- Land B has an accepted edge in the present tick. -/
def edgeNow (s : State) (n : Fin 256) : Bool := (cell s n).edgB = some s.dt

/-- An accepted clock edge of SYNC_T to level `v` is the sampling edge (R451). -/
def isSampling (s : State) (n : Fin 256) (v : Bool) : Bool := (v == pcB s n 0x04C 12) = pcB s n 0x04C 13

/-- The receiver's part of an accepted edge of land B: SYNC_T samples at the sampling edge, and ODC sets the sample of SDA by SCL read
high. -/
def rxClock (s : State) (n : Fin 256) : State :=
  let v := landLevel s n true
  if shMode s n = 6 ∧ isSampling s n v then takeSample s n s.dt
  else if shMode s n = 7 ∧ v then
    updCell s n fun c => { c with rxf := c.rxf.map fun r => { r with next := some (s.dt + setSmp s n (segOf r.fr r.fr.bits.length).set) } }
  else s

/-- What starts a frame of the receiver while it is idle (R450, R451): the falling edge of land B; in SYNC_C a frame sent, with PAIR; in
SYNC_T a clock edge; in ODC a frame sent or a clock edge. (DEDUCED, log 61) -/
def canRx (s : State) (n : Fin 256) : Bool :=
  clocksOn s && cellEn s n && !(cell s n).safe && (cell s n).rxf.isNone && (match shMode s n with
    | 5 => (cell s n).txf.isSome && pcB s n 0x040 7
    | 6 => edgeNow s n
    | 7 => edgeNow s n || (cell s n).txf.isSome
    | _ => edgeNow s n && !landLevel s n true)

/-- The nominal 16 × 56 units of SENT, or those of the last calibration pulse. -/
def sentUnit (s : State) (n : Fin 256) : Nat :=
  if (cell s n).unit = 0 then (16 * setInt s n (cell s n).nset + setFrac s n (cell s n).nset) * 56 else (cell s n).unit

/-- An interval of `t` ticks from falling edge to falling edge in SENT (R451): a calibration pulse, a nibble, or neither. -/
def sentDecode (s : State) (n : Fin 256) (t : Nat) : RxOut :=
  let nom := 16 * setInt s n (cell s n).nset + setFrac s n (cell s n).nset
  if 42 * nom ≤ 16 * t ∧ 16 * t ≤ 70 * nom then { val := 0, mark := true }
  else
    let x := sentUnit s n
    let u := if x = 0 then 0 else (2 * t * 896 + x) / (2 * x)
    if 12 ≤ u ∧ u ≤ 27 then { val := u - 12 } else { val := min u 4095, errs := [11], bad := true }

/-- A SENT frame ends with the falling edge of the present tick. -/
def sentDone (s : State) (n : Fin 256) (r : RxFrame) : State :=
  let t := s.dt - r.fr.start
  let o := sentDecode s n t
  updCell s n fun c => { c with
    rxf := none, bset := setAt r.fr s.dt c.bset, unit := if o.mark then 16 * t else c.unit
    rxIn := c.rxIn ++ [{ tick := s.dt + 1, ws := rxWords s n o, errs := o.errs }] }

/-- The phase error of an edge in tick `x` within a bit from `a` to `b`, taken to the nearer boundary and limited to `w` ticks: the bit's
start as moved (R451). (DESIGN CHOICE, log 62) -/
def movedStart (w x a b : Nat) : Nat := if x - a ≤ b - x then a + min w (x - a) else a - min w (b - x)

/-- Resynchronisation of RAW and STUFF (R451): an accepted falling edge moves the start of the bit it lies in; in the last bit of the
frame before, which has been sampled, it moves that bit's end, and so the start of this frame. (DESIGN CHOICE, log 62) -/
def resync (s : State) (n : Fin 256) (r : RxFrame) : RxFrame :=
  let w := pcF s n 0x04C 16 8
  if s.dt < r.fr.start then
    let x := r.fr.start + movedStart w s.dt r.lastAt r.fr.start - r.lastAt
    { r with fr := { r.fr with start := x, segs := r.fr.segs.map fun g => { g with base := g.base + x - r.fr.start } } }
  else
    let k := bitIn s n r.fr s.dt
    let a := bitStart s n r.fr k
    let base := movedStart w s.dt a (bitStart s n r.fr (k + 1))
    let g := segOf r.fr k
    if base = a then r
    else { r with fr := { r.fr with segs := (r.fr.segs.filter fun h => h.bit < k) ++
      [{ bit := k, base := base, acc := (g.acc + (k - g.bit) * setFrac s n g.set) % 16, set := g.set }] } }

/-! ## Capture (R434, R440, R441) -/

/-- An accepted edge of land B moves the frames of a mode whose clock comes from outside (R451). The frame sent goes on, in SYNC_T to the
next bit at the shifting edge, in ODC to the next bit half a bit after SCL is read high, each bit as long as R447 makes it. The
frame received has a bit boundary at the clock's edge away from CPOL and at the falling edge of SCL. (DEDUCED, log 61) -/
def clockEdge (s : State) (n : Fin 256) (v : Bool) : State :=
  let m := shMode s n
  let cpol := pcB s n 0x04C 12
  let sent := fun (c : Cell) (f : TxFrame) =>
    let g := lastSeg f
    let len := bitTicks s n f g.bit
    if f.bits.length ≤ g.bit then f
    else { f with segs := (f.segs.filter fun h => h.bit ≤ g.bit) ++ [{ bit := g.bit + 1, base := if m = 7 then s.dt + (len - len / 2) else s.dt,
                                                                       acc := (g.acc + setFrac s n g.set) % 16, set := c.nset }] }
  let got := fun (c : Cell) (r : RxFrame) =>
    let k := r.fr.bits.length + r.next.isSome.toNat
    { r with fr := { r.fr with segs := (r.fr.segs.filter fun h => h.bit < k) ++ [{ bit := k, base := s.dt, set := c.nset }] } }
  let s := if (m = 6 ∧ (v == cpol) = !pcB s n 0x04C 13) ∨ (m = 7 ∧ v) then updCell s n fun c => { c with txf := c.txf.map (sent c) } else s
  if (m = 6 ∧ v ≠ cpol) ∨ (m = 7 ∧ !v) then updCell s n fun c => { c with rxf := c.rxf.map (got c) } else s

/-- An accepted edge of the present tick is on its way to the capture FIFO: it is stored in the tick after, with the stamp of its edge
tick (R440). -/
def captureEdge (s : State) (n : Fin 256) (land v : Bool) : State :=
  let st := (s.dt - pcF s n (landCfg land) 20 8) % 2 ^ 32
  updCell s n fun c => { c with capIn := c.capIn ++ [(s.dt + 1, { stamp := st, lost := false, rise := v, landB := land })] }

/-- The place of an edge on its way among those that are stored: by tick, and land A first (R441). -/
def capKey (x : Nat × CapEnt) : Nat := 2 * x.1 + x.2.landB.toNat

/-- The edge that is stored next. -/
def capHead (c : Cell) : Option (Nat × CapEnt) :=
  (c.capIn.map capKey).min?.bind fun k => c.capIn.find? fun x => capKey x = k

/-- An edge is stored in its tick; a full FIFO loses it (R440, R441). -/
def storeEdge (s : State) (n : Fin 256) (x : Nat × CapEnt) : State :=
  let s := updCell s n fun c => { c with capIn := c.capIn.erase x }
  if 16 ≤ (cell s n).capf.length then
    cellErr (updCell (bumpF s (.pc n) 0x070 0 16 1) n fun c => { c with lost := true }) n 0 x.1
  else cellEvent (updCell s n fun c => { c with capf := c.capf ++ [{ x.2 with lost := c.lost }], lost := false }) n 0x1 x.1

/-- The tick of a land's last accepted edge. -/
def lastEdge (c : Cell) (land : Bool) : Option Nat := if land then c.edgB else c.edgA

/-! ## The schedule (R442 to R444) -/

/-- The tick in which the head entry executes, and whether it is late. -/
def schedTick (c : Cell) (h : SchEnt) : Nat × Bool :=
  let d := (h.time + 2 ^ 32 - c.elig % 2 ^ 32) % 2 ^ 32
  if d < 2 ^ 31 then (c.elig + d, false) else (c.elig, true)

/-- What an ACTION does in its execution tick (R443, R445, R449). -/
def schedAct (s : State) (n : Fin 256) (a tick : Nat) : State :=
  if a < 8 then setLevel s n (decide (4 ≤ a)) (a % 4) tick
  else if a = 8 then
    (if canTx s n then startTx s n tick
     else if (cell s n).txf.isSome || decide ((cell s n).tx.length < frameWords s n) then cellErr s n 5 tick else s)
  else if a = 9 then startPeriod s n tick
  else if a = 10 then stopRepeat s n tick
  else s

/-- The head entry executes in its tick (R444). -/
def schedOne (s : State) (n : Fin 256) (h : SchEnt) (rest : List SchEnt) : State :=
  let x := schedTick (cell s n) h
  let s := updCell s n fun c => { c with schf := rest, elig := x.1 + 1 }
  let s := if x.2 then cellErr s n 2 x.1 else s
  let s := cellEvent (schedAct s n h.action x.1) n 0x4 x.1
  if rest = [] then cellEvent s n 0x5 x.1 else s


/-- A word-3 write commits an entry at the end of tick `p` (R442, R444). -/
def schedCommit (s : State) (n : Fin 256) (v : Word18) (p : Nat) : State :=
  let a := fld v 14 4
  if 12 ≤ a then cellErr s n 3 p
  else if 16 ≤ (cell s n).schf.length then cellErr s n 1 p
  else
    updCell s n fun c => { c with
      elig := if c.schf = [] then p + 2 else c.elig
      schf := c.schf ++ [{ time := c.staged.toNat + fld v 0 14 * 2 ^ 18, action := a }] }

/-! ## Slot words (R436 to R439, R456) -/

/-- A frame goes on in timing set `x` from the next bit boundary after a tick; the accumulator carries over (R447). Where the
clock comes from outside there is no boundary to compute. -/
def switchFrame (s : State) (n : Fin 256) (x tick : Nat) (f : TxFrame) : TxFrame :=
  if shMode s n = 6 ∨ shMode s n = 7 then f
  else
    let k := ((List.range 256).find? fun k => tick < bitStart s n f k).getD 0
    let g := segOf f (k - 1)
    { f with segs := (f.segs.filter fun h => h.bit < k) ++
        [{ bit := k, base := bitStart s n { f with segs := f.segs.filter fun h => h.bit < k } k,
           acc := (g.acc + (k - g.bit) * setFrac s n g.set) % 16, set := x }] }

/-- Timing set `x` is used from the next bit boundary after a tick, by the transmitter and the receiver each at its own (R438, R447,
R465). (DEDUCED, log 61) -/
def switchSet (s : State) (n : Fin 256) (x tick : Nat) : State :=
  updCell s n fun c => { c with nset := x, txf := c.txf.map (switchFrame s n x tick),
                                rxf := c.rxf.map fun r => { r with fr := switchFrame s n x tick r.fr } }

/-- Stuffing turns on or off from the next bit sent, and from the next bit received (R438). -/
def switchStuff (s : State) (n : Fin 256) (on : Bool) (tick : Nat) : State :=
  let k := fun (f : TxFrame) => ((List.range 256).find? fun k => tick < bitStart s n f k).getD 0
  let g := fun (f : TxFrame) => { f with stuff := f.stuff ++ [(k f, on)] }
  updCell s n fun c => { c with stuffOn := on, txf := c.txf.map g, rxf := c.rxf.map fun r => { r with fr := g r.fr } }

/-- A CMD word (R438, R465). -/
def cellCmd (s : State) (n : Fin 256) (v : Word18) (tick : Nat) : State :=
  if fld v 7 2 = 3 ∨ fld v 9 2 = 3 ∨ 4 < fld v 11 3 ∨ 4 < fld v 14 3 then cellErr s n 14 tick
  else
    let s := if bit v 0 then updCell s n fun c => { c with capf := [] } else s
    let s := if bit v 1 then clearSched s n tick else s
    let s := if bit v 2 then updCell s n fun c => { c with rx := [] } else s
    let s := if bit v 3 then withTxe n tick (fun s => updCell s n fun c => { c with tx := [] }) s else s
    let s := if bit v 4 then abortShift s n tick else s
    let s := if bit v 5 then leaveSafe s n tick else s
    let s := if bit v 6 then wrF s (.pc n) 0x06C 0 15 0 else s
    let s := if fld v 7 2 = 0 then s else switchSet s n (fld v 7 2 - 1) tick
    let s := if fld v 9 2 = 0 then s else switchStuff s n (fld v 9 2 = 1) tick
    let s := if fld v 11 3 = 0 then s else setLevel s n false (fld v 11 3 - 1) tick
    let s := if fld v 14 3 = 0 then s else setLevel s n true (fld v 14 3 - 1) tick
    if bit v 17 then stopRepeat s n tick else s

/-- A PRD of a slot word in a tick: the word and what it pops (R436). -/
def slotRead (s : State) (n : Fin 256) (w tick : Nat) : State × Word18 :=
  let c := cell s n
  match w with
  | 0 => (s, BitVec.ofNat 18 (cellStat s n tick))
  | 1 =>
    match c.rx with
    | (x :: xs, _) :: rest => (updCell s n fun c => { c with rx := if xs = [] then rest else (xs, true) :: rest }, x)
    | _ => (s, 0)
  | 2 =>
    match c.capf with
    | e :: rest =>
      let lt : Word18 := BitVec.ofNat 18 (e.stamp / 2 ^ 18 % 2 ^ 14 + 2 ^ 14 * e.lost.toNat + 2 ^ 15 + 2 ^ 16 * e.rise.toNat + 2 ^ 17 * e.landB.toNat)
      (updCell s n fun c => { c with capf := rest, latch := lt }, BitVec.ofNat 18 e.stamp)
    | [] => (updCell s n fun c => { c with latch := 0 }, 0)
  | _ => (s, c.latch)

/-- A PWR of a slot word at the end of a tick (R436). -/
def slotWrite (s : State) (n : Fin 256) (w : Nat) (v : Word18) (tick : Nat) : State :=
  match w with
  | 0 => cellCmd s n v tick
  | 1 =>
    if pcB s n 0x040 6 then updCell s n fun c => { c with duty := v }
    else if 4 ≤ (cell s n).tx.length then cellErr s n 4 tick
    else updCell s n fun c => { c with tx := c.tx ++ [v] }
  | 2 => updCell s n fun c => { c with staged := v }
  | _ => schedCommit s n v tick

/-- Owner tag, generation and class of an engine's requests (R26). -/
def engAttr (s : State) (e : Fin 512) (c : Nat) : Attr :=
  { did := owner s (.nce e), pid := rdF s (.nce e) 0x0F0 0 14, gen := genOf s (.nce e), cls := limitCls' s e c }
where
  /-- The class limited to the engine slice's grant. -/
  limitCls' (s : State) (e : Fin 512) (c : Nat) : Nat :=
    max c (if owner s (.nce e) = 0 then 0 else SMap.get 0 s.clsGrant (pageAddr (.nce e)))

/-- The local cell of a slot of an engine's cluster (R112). -/
def slotCell (e : Fin 512) (i : Fin 8) : Fin 256 := Fin.ofNat 256 (8 * (e.val / 16) + i.val)

/-- The owner check of R456: code 0x83 where it fails. -/
def cellOwnerOk (s : State) (e : Fin 512) (n : Fin 256) : Bool := owner s (.nce e) = owner s (.pc n)

/-- ENG_OWNER (R456). -/
def cellOwnerErr (s : State) (e : Fin 512) (n : Fin 256) : State :=
  recordErr s (.pc n) 0x83 contained (engAttr s e 0) (0x100 + e.val) (owner s (.nce e))

/-- An engine reads a slot word of a local cell in a tick (R436, R456). -/
def cellRead (s : State) (e : Fin 512) (n : Fin 256) (w tick : Nat) : State × Word18 :=
  if cellOwnerOk s e n then slotRead s n w tick else (cellOwnerErr s e n, 0)

/-- An engine writes a slot word of a local cell at the end of a tick; KEEP restarts (R436, R453, R456). -/
def cellWrite (s : State) (e : Fin 512) (n : Fin 256) (w : Nat) (v : Word18) (tick : Nat) : State :=
  if cellOwnerOk s e n then restartKeep (slotWrite s n w v tick) n tick else cellOwnerErr s e n

/-- A slot access that was on its way is made (R348): the word of a PRD goes to the register write that waits for it. -/
def slotMade (s : State) (n : Fin 256) (x : SlotAcc) : State :=
  let e := Fin.ofNat 512 x.e
  let s := updCell s n fun c => { c with due := c.due.erase x }
  match x.wr with
  | some v => cellWrite s e n x.word v x.tick
  | none =>
    let r := cellRead s e n x.word x.tick
    updThr r.1 e (Fin.ofNat 4 x.t) fun th => { th with pend := th.pend.map fun w => if w.prd then { w with val := r.2, prd := false } else w }

/-! ## What a cell does in its own time (R444, R445, R450 to R453, R465) -/

/-- The tick in which KEEP expires: a PWR on its way that passes the owner check and acts by then restarts it first (R453, R465). -/
def keepDue (s : State) (n : Fin 256) : Option Nat :=
  let c := cell s n
  if cellEn s n && pcF s n 0x060 0 5 ≠ 0 && c.keepAt ≠ 0 &&
      !(c.due.any fun x => x.wr.isSome && decide (x.tick ≤ c.keepAt) && cellOwnerOk s (Fin.ofNat 512 x.e) n) then some c.keepAt
  else none

/-- The tick in which IDLE expires (R453). -/
def idleDue (s : State) (n : Fin 256) : Option Nat :=
  if cellEn s n && pcF s n 0x060 8 5 ≠ 0 then some (cell s n).idleAt else none

/-- The tick in which the next repeat period starts (R445). -/
def periodDue (s : State) (n : Fin 256) : Option Nat :=
  let p := pcF s n 0x064 0 24
  if (cell s n).repOn && p ≠ 0 then some ((cell s n).repStart + p) else none

/-- The tick in which the head of the schedule executes (R444). -/
def schedDue (s : State) (n : Fin 256) : Option Nat := (cell s n).schf.head?.map fun h => (schedTick (cell s n) h).1

/-- The tick in which the frame that is sent has ended (R447). -/
def txDue (s : State) (n : Fin 256) : Option Nat := (cell s n).txf.bind (frameEnd s n)

/-- The tick of the receiver's next sample (R447). -/
def rxDue (s : State) (n : Fin 256) : Option Nat := (cell s n).rxf.bind (rxNext s n)

/-- The tick in which SCL has been low for 2 ^ (STRT + 10) ticks after an ODC frame released it (R451). -/
def stretchDue (s : State) (n : Fin 256) : Option Nat :=
  (cell s n).txf.bind fun f =>
    let g := lastSeg f
    if cellEn s n && shMode s n = 7 && pcF s n 0x04C 28 4 ≠ 0 && decide (g.bit < f.bits.length) && !landLevel s n true then
      some (g.base + bitTicks s n f g.bit / 2 + 2 ^ (pcF s n 0x04C 28 4 + 10))
    else none

/-- The first slot access on its way, of the reads or the writes. -/
def slotDue (c : Cell) (wr : Bool) : Option SlotAcc :=
  let l := c.due.filter fun x => x.wr.isSome = wr
  (l.map SlotAcc.tick).min?.bind fun k => l.find? fun x => x.tick = k

/-- KEEP expires in a tick, once (R453). -/
def keepExpire (s : State) (n : Fin 256) (t : Nat) : State := enterSafe (updCell s n fun c => { c with keepAt := 0 }) n 2 t

/-- IDLE is raised in a tick and the timer restarts (R453). -/
def idleExpire (s : State) (n : Fin 256) (t : Nat) : State := restartIdle (cellEvent (setIrq s (.pc n) 4) n 0x7 t) n t

/-- The frame that is sent has ended: TXD in the tick before, and the transmitter is idle (R449, R452). (DEDUCED, log 61) -/
def txEnd (s : State) (n : Fin 256) (t : Nat) : State := cellEvent (endFrame s n t) n 0x9 (t - 1)

/-- SCL has stayed low past the limit: STRETCH, and the frame ends (R451). -/
def stretchEnd (s : State) (n : Fin 256) (t : Nat) : State := cellErr (abortShift s n t) n 12 t

/-- The head entry executes in its tick (R444). -/
def schedHead (s : State) (n : Fin 256) (_t : Nat) : State :=
  match (cell s n).schf with
  | h :: rest => schedOne s n h rest
  | [] => s

/-- The order of what a cell does: by tick, and within one tick slot reads, captured edges and received frames that come into their
queues, the end of the sent frame and the SCL limit, KEEP, a repeat period, the schedule, a sample, slot writes, IDLE (R465). (DESIGN CHOICE, log 93) -/
inductive CellAct where
  | read | capture | rxIn | txEnd | stretch | keep | period | sched | sample | write | idle
  deriving DecidableEq, Repr

/-- The place of an act in its tick. -/
def CellAct.rank : CellAct → Nat
  | .read => 0
  | .capture => 1
  | .rxIn => 2
  | .txEnd => 3
  | .stretch => 4
  | .keep => 5
  | .period => 6
  | .sched => 7
  | .sample => 8
  | .write => 9
  | .idle => 10

/-- The place of an act of a tick in a cell's time. -/
def actKey (t : Nat) (a : CellAct) : Nat := 16 * t + a.rank

/-- The tick of a cell's next act of each kind. -/
def actDue (s : State) (n : Fin 256) : CellAct → Option Nat
  | .read => (slotDue (cell s n) false).map SlotAcc.tick
  | .capture => (capHead (cell s n)).map Prod.fst
  | .rxIn => (cell s n).rxIn.head?.map RxIn.tick
  | .txEnd => txDue s n
  | .stretch => stretchDue s n
  | .keep => keepDue s n
  | .period => periodDue s n
  | .sched => schedDue s n
  | .sample => rxDue s n
  | .write => (slotDue (cell s n) true).map SlotAcc.tick
  | .idle => idleDue s n

/-- An act in its tick. -/
def actDo (s : State) (n : Fin 256) (t : Nat) : CellAct → State
  | .read => match slotDue (cell s n) false with
    | some x => slotMade s n x
    | none => s
  | .capture => match capHead (cell s n) with
    | some x => storeEdge s n x
    | none => s
  | .rxIn => rxComes s n
  | .txEnd => txEnd s n t
  | .stretch => stretchEnd s n t
  | .keep => keepExpire s n t
  | .period => startPeriod s n t
  | .sched => schedHead s n t
  | .sample => takeSample s n t
  | .write => match slotDue (cell s n) true with
    | some x => slotMade s n x
    | none => s
  | .idle => idleExpire s n t

/-- A cell's next act before a place in its time, and its tick. -/
def nextAct (s : State) (n : Fin 256) (key : Nat) : Option (CellAct × Nat) :=
  ([.read, .capture, .rxIn, .txEnd, .stretch, .keep, .period, .sched, .sample, .write, .idle] : List CellAct).foldl (fun b a =>
    match actDue s n a with
    | some t => if actKey t a < (b.map fun x => actKey x.2 x.1).getD key then some (a, t) else b
    | none => b) none

/-- What a cell does before a place in its time, at most `k` acts. -/
def cellRun (n : Fin 256) (key : Nat) : Nat → State → State
  | 0, s => s
  | k + 1, s => match nextAct s n key with
    | some x => cellRun n key k (actDo s n x.2 x.1)
    | none => s

/-- A cell as it stands at a place in its time: a tick takes fewer acts than 64 and its number of places. (DESIGN CHOICE, log 93) -/
def cellTo (n : Fin 256) (key : Nat) (s : State) : State :=
  match nextAct s n key with
  | some x => cellRun n key (64 + key - actKey x.2 x.1) s
  | none => s

/-- A cell as a tick finds it. -/
def cellAt (s : State) (n : Fin 256) (tick : Nat) : State := cellTo n (actKey tick .read) s

/-- The cells of an engine's cluster as a tick finds them. -/
def cellsAt (s : State) (e : Fin 512) (tick : Nat) : State :=
  (List.range 8).foldl (fun s i => cellAt s (slotCell e (Fin.ofNat 8 i)) tick) s

/-- A cell enters SAFE for a cause of the present tick, before the schedule executes in it (R465). -/
def safeNow (s : State) (n : Fin 256) (cause : Nat) : State := enterSafe (cellTo n (actKey s.dt .keep) s) n cause s.dt

/-- Every cell of a bank enters SAFE. -/
def bankSafe (s : State) (b : Fin 16) (cause : Nat) : State :=
  (List.range 16).foldl (fun t i => safeNow t (Fin.ofNat 256 (16 * b.val + i)) cause) s

/-! ## The rows of what a cell does in its own time -/

/-- The row of an act: device time goes on over its tick, or to it where nothing of that tick can still come before; what the cell does
before is done, and then the act, unless what came before has put it off. -/
def ownTime (n : Fin 256) (a : CellAct) (more : Nat) (s : State) : State :=
  if !clocksOn s then s
  else match actDue s n a with
    | none => s
    | some t =>
      let u := cellTo n (actKey t a) (advanceTo s (t + more))
      if actDue u n a = some t then actDo u n t a else u

/-- KEEP_TIMEOUT (R453): the tick of the expiry is over, so that no PWR of that tick comes after it (R465). -/
def execKeepTimeout (n : Fin 256) (s : State) : Result := .next (ownTime n .keep 1 s)

/-- IDLE_TIMEOUT (R453). -/
def execIdleTimeout (n : Fin 256) (s : State) : Result := .next (ownTime n .idle 1 s)

/-- REPEAT_PERIOD (R445): a period ends and the next starts in the tick after, with the latest duty. -/
def execRepeatPeriod (n : Fin 256) (s : State) : Result := .next (ownTime n .period 1 s)

/-- TX_FRAME_END (R452): the frame's last bit ends with tick t - 1, and the transmitter is idle in tick t, so that the next frame can
start in it. -/
def execTxFrameEnd (n : Fin 256) (s : State) : Result := .next (ownTime n .txEnd 0 s)

/-- CLOCK_STRETCH_LIMIT (R451). -/
def execClockStretchLimit (n : Fin 256) (s : State) : Result := .next (ownTime n .stretch 1 s)

/-- The head entry executes when it is one of the actions `ok`; its tick is over, so that no cause for SAFE comes after it (R444, R465). -/
def schedExec (n : Fin 256) (ok : Nat → Bool) (s : State) : Result :=
  .next (if (cell s n).schf.head?.any fun h => ok h.action then ownTime n .sched 1 s else s)

/-- SCH_LOW (R443). (DESIGN CHOICE, log 6) -/
def execSchLow (n : Fin 256) (land : Bool) : State → Result := schedExec n fun a => a = 4 * land.toNat
/-- SCH_HIGH (R443). -/
def execSchHigh (n : Fin 256) (land : Bool) : State → Result := schedExec n fun a => a = 4 * land.toNat + 1
/-- SCH_RELEASE (R443). -/
def execSchRelease (n : Fin 256) (land : Bool) : State → Result := schedExec n fun a => a = 4 * land.toNat + 2
/-- SCH_TOGGLE (R443). -/
def execSchToggle (n : Fin 256) (land : Bool) : State → Result := schedExec n fun a => a = 4 * land.toNat + 3
/-- SCH_START_TX (R443, R449). -/
def execSchStartTx (n : Fin 256) : State → Result := schedExec n fun a => a = 8
/-- SCH_START_REPEAT (R443, R445). -/
def execSchStartRepeat (n : Fin 256) : State → Result := schedExec n fun a => a = 9
/-- SCH_STOP_REPEAT (R443, R445). -/
def execSchStopRepeat (n : Fin 256) : State → Result := schedExec n fun a => a = 10
/-- SCH_MARK (R443). -/
def execSchMark (n : Fin 256) : State → Result := schedExec n fun a => a = 11

/-- TX_FRAME_START (R449): with TRIG 0 a frame starts once the queue holds it and the transmitter is idle. -/
def execTxFrameStart (n : Fin 256) (s : State) : Result :=
  let u := cellTo n (actKey s.dt .keep) s
  .next (if clocksOn s && canTx u n && !pcB s n 0x04C 15 then startTx u n s.dt else s)

/-- RX_FRAME_START (R450, R451): an idle receiver starts a frame; in SYNC_C it is in step with the frame that is sent. -/
def execRxFrameStart (n : Fin 256) (s : State) : Result :=
  let u := cellTo n (actKey s.dt .txEnd) s
  .next (if canRx u n then
      let x := if shMode s n = 5 then ((cell u n).txf.map TxFrame.start).getD s.dt else s.dt
      let u := updCell u n fun c => { c with rxf := some (rxBegin u n x) }
      if edgeNow u n then rxClock u n else u
    else s)

/-- The samples that are left of the receiver's frame are taken in their ticks, at most `k`; device time goes on to the last. -/
def rxFinish (n : Fin 256) : Nat → State → State
  | 0, s => s
  | k + 1, s => match (cell s n).rxf with
    | none => s
    | some r => match rxNext s n r with
      | none => s
      | some x =>
        let r' := { r with fr := { r.fr with bits := r.fr.bits ++ [rxLand s n] } }
        let u := ownTime n .sample 0 (advanceTo s x)
        if rxFull s n r' then u else rxFinish n k u

/-- RX_FRAME_COMPLETE (R450, R451): the receiver's frame is complete at the sample of its last bit, with the lands as they stand until
then; in SENT at the falling edge of the present tick. A frame clocked from outside completes with its clock edges. (DEDUCED, log 61) -/
def execRxFrameComplete (n : Fin 256) (s : State) : Result :=
  let u := cellAt s n s.dt
  .next (if !clocksOn s ∨ !cellEn s n ∨ (cell u n).safe then s
    else match (cell u n).rxf with
      | none => s
      | some r =>
        if shMode s n = 4 then (if edgeNow u n && !landLevel u n true && decide (r.fr.start < s.dt) then sentDone u n r else s)
        else rxFinish n 80 u)

/-- LAND_EDGE: a land's comparator output has been sampled at a new level in F + 1 consecutive ticks, the last of them now; a level that
cannot have stood so long since the last accepted edge is ignored (R434). The cells do first what comes before this tick; an entry is stored
in the next tick with the stamp of the edge tick. (DEDUCED, log 61) -/
def execLandEdge (n : Fin 256) (land level : Bool) (s : State) : Result :=
  .next (if !clocksOn s ∨ (if land then (cell s n).accB else (cell s n).accA) = level ∨
      (lastEdge (cell s n) land).any (fun x => decide (s.dt ≤ x + pcF s n (landCfg land) 20 8)) then s
    else
      let v := level != pcB s n (landCfg land) 30
      let s := cellTo n (actKey s.dt .txEnd) s
      let s := if land then s else cellAt s (partner n) s.dt
      let s := updCell s n fun c => if land then { c with accB := level, edgB := some s.dt } else { c with accA := level, edgA := some s.dt }
      if !cellEn s n then s
      else
        let s := restartIdle s n s.dt
        let s := if land && !v && (shMode s n = 0 || shMode s n = 2) then updCell s n fun c => { c with rxf := c.rxf.map (resync s n) } else s
        let s := if land then rxClock (clockEdge s n v) n else s
        let sel := pcF s n 0x040 (if land then 18 else 16) 2
        if !(sel = 3 || (sel = 1 && v) || (sel = 2 && !v)) then s else captureEdge s n land v)

/-! ## The rows of the slot words (R436 to R438) -/

/-- A slot access made as a step of its own; the word read stands in the answer. Engines make none before Sage releases them (R102). -/
def slotStep (s : State) (e : Fin 512) (i : Fin 8) (w : Nat) : Result :=
  let r := cellRead (cellAt s (slotCell e i) s.dt) e (slotCell e i) w s.dt
  .next (if engUp s then answer r.1 false r.2.toNat else s)

/-- A write of a slot word made as a step of its own, at the end of the present tick. -/
def slotPut (e : Fin 512) (i : Fin 8) (w : Nat) (v : Word18) (s : State) : State :=
  if engUp s then cellWrite (cellTo (slotCell e i) (actKey s.dt .write) s) e (slotCell e i) w v s.dt else s

/-- RX_POP (R436). -/
def execRxPop (e : Fin 512) (i : Fin 8) (s : State) : Result := slotStep s e i 1
/-- CAPTURE_POP (R436, R440). -/
def execCapturePop (e : Fin 512) (i : Fin 8) (s : State) : Result := slotStep s e i 2
/-- TX_PUSH (R436): where W1D is 0. -/
def execTxPush (e : Fin 512) (i : Fin 8) (v : Word18) (s : State) : Result :=
  .next (if pcB s (slotCell e i) 0x040 6 then s else slotPut e i 1 v s)
/-- DUTY_WRITE (R446): where W1D is 1. -/
def execDutyWrite (e : Fin 512) (i : Fin 8) (v : Word18) (s : State) : Result :=
  .next (if pcB s (slotCell e i) 0x040 6 then slotPut e i 1 v s else s)
/-- SCHEDULE_STAGE (R436). -/
def execScheduleStage (e : Fin 512) (i : Fin 8) (v : Word18) (s : State) : Result := .next (slotPut e i 2 v s)
/-- SCHEDULE_COMMIT (R442). -/
def execScheduleCommit (e : Fin 512) (i : Fin 8) (v : Word18) (s : State) : Result := .next (slotPut e i 3 v s)

/-- A CMD word with one field, as a step of its own. -/
def cmdStep (e : Fin 512) (i : Fin 8) (v : Nat) (s : State) : Result :=
  .next (slotPut e i 0 (BitVec.ofNat 18 v) s)

/-- CLR_CAP (R438). -/
def execClrCap (e : Fin 512) (i : Fin 8) : State → Result := cmdStep e i 0x1
/-- CLR_SCH (R438). -/
def execClrSch (e : Fin 512) (i : Fin 8) : State → Result := cmdStep e i 0x2
/-- CLR_RX (R438). -/
def execClrRx (e : Fin 512) (i : Fin 8) : State → Result := cmdStep e i 0x4
/-- CLR_TX (R438). -/
def execClrTx (e : Fin 512) (i : Fin 8) : State → Result := cmdStep e i 0x8
/-- CELL_ABORT (R438). -/
def execCellAbort (e : Fin 512) (i : Fin 8) : State → Result := cmdStep e i 0x10
/-- LEAVE_SAFE (R438, R454). -/
def execLeaveSafe (e : Fin 512) (i : Fin 8) : State → Result := cmdStep e i 0x20
/-- CLR_ERR (R438). -/
def execClrErr (e : Fin 512) (i : Fin 8) : State → Result := cmdStep e i 0x40
/-- BSET (R438, R447). -/
def execBset (e : Fin 512) (i : Fin 8) (v : Fin 4) : State → Result := cmdStep e i (0x80 * v.val)
/-- STUFFC (R438). -/
def execStuffc (e : Fin 512) (i : Fin 8) (v : Fin 4) : State → Result := cmdStep e i (0x200 * v.val)
/-- LVA (R438). -/
def execLva (e : Fin 512) (i : Fin 8) (v : Fin 8) : State → Result := cmdStep e i (0x800 * v.val)
/-- LVB (R438). -/
def execLvb (e : Fin 512) (i : Fin 8) (v : Fin 8) : State → Result := cmdStep e i (0x4000 * v.val)
/-- REP_STOP (R438, R445). -/
def execRepStop (e : Fin 512) (i : Fin 8) : State → Result := cmdStep e i 0x20000

/-! ## What the lands drive (R429, R431, R434, R455) -/

/-- The repeat output is active at the present tick (R445). -/
def repActive (s : State) (n : Fin 256) : Bool :=
  let c := cell s n
  let p := if c.repStart ≤ s.dt then (c.repStart, c.repH) else c.repLast
  (c.repOn || c.repOff.any fun x => s.dt ≤ x) && decide (p.1 ≤ s.dt) && decide (s.dt - p.1 < p.2)

/-- The bit of a frame that is being sent in the present tick. -/
def bitNow (s : State) (n : Fin 256) (f : TxFrame) : Nat := bitIn s n f s.dt

/-- The present tick lies in the first half, floor(bit length / 2), of bit `k` (R451). -/
def firstHalf (s : State) (n : Fin 256) (f : TxFrame) (k : Nat) : Bool :=
  decide (s.dt < bitStart s n f k + (bitStart s n f (k + 1) - bitStart s n f k) / 2)

/-- SCL is held low: the low half of the present bit of an ODC frame (R451). -/
def sclLow (s : State) (n : Fin 256) (f : TxFrame) : Bool :=
  let g := lastSeg f
  decide (g.base ≤ s.dt) && decide (s.dt < g.base + bitTicks s n f g.bit / 2) && decide (g.bit < f.bits.length)

/-- The level the transmitter gives land A during a frame: 0 low, 1 high, 2 release. (DEDUCED, log 61) -/
def dataLevel (s : State) (n : Fin 256) (f : TxFrame) : Nat :=
  let g := lastSeg f
  match shMode s n with
  | 4 => (decide (bitStart s n f (pcF s n 0x04C 24 4) ≤ s.dt)).toNat
  | 6 =>
    if pcB s n 0x04C 13 then (if g.bit = 0 then 2 else (f.bits.getD (g.bit - 1) true).toNat)
    else (f.bits.getD g.bit true).toNat
  | 7 => if f.bits.getD (odcBit f s.dt) true then 2 else 0
  | m =>
    let k := bitNow s n f
    let x := (sentBits s n f).getD k true
    if m = 3 then (firstHalf s n f k != (x != pcB s n 0x04C 14)).toNat else x.toNat

/-- The level the shift engine gives a land: 0 low, 1 high, 2 release; the idle level between frames (R449, R451). -/
def shiftLevel (s : State) (n : Fin 256) (b : Bool) : Nat :=
  let m := shMode s n
  match (cell s n).txf with
  | none => if b then (if m = 5 then (pcB s n 0x04C 12).toNat else 2) else if m = 5 ∨ m = 6 ∨ m = 7 then 2 else 1
  | some f =>
    if !b then dataLevel s n f
    else if m = 5 then (pcB s n 0x04C 12 != (firstHalf s n f (bitNow s n f) == pcB s n 0x04C 13)).toNat
    else if m = 7 ∧ sclLow s n f then 0
    else 2

/-- What a land drives now, as the cell stands: 0 low, 1 high, 2 nothing. In SAFE it holds what it drove at the entry (R454). -/
def landDrive (s : State) (n : Fin 256) (b : Bool) : Nat :=
  let c := cell s n
  let lv :=
    if !cellEn s n ∨ pcF s n (landCfg b) 0 2 = 0 then 2
    else match pcF s n 0x040 (if b then 4 else 2) 2 with
      | 0 => levelAt c b s.dt
      | 1 => shiftLevel s n b
      | _ => (repActive s n).toNat
  if !railOn s n then 2 else if c.safe then (if b then c.safeB else c.safeA) else levelOut s n b lv

/-- What a land drives in the present tick. -/
def landNow (s : State) (n : Fin 256) (b : Bool) : Nat := landDrive (cellAt s n s.dt) n b

/-! ## The PC page (R429, R431, R432, R447, R448, R457, R458) -/

/-- The least INT of a mode (R448). -/
def minInt (m : Nat) : Nat := [4, 16, 8, 8, 64, 8, 0, 64].getD m 0

/-- INT of a value of SH_BIT0 or SH_BIT1 suits a mode. -/
def intOk (m x : Nat) : Bool := decide (minInt m ≤ x) && (m ≠ 3 || x % 2 = 0)

/-- A reserved or out-of-range value of a PC register (code 0x01). -/
def pcBad (s : State) (n : Fin 256) (off : Nat) (v : Reg32) : Bool :=
  match off with
  | 0x040 => fld v 2 2 = 3 || fld v 4 2 = 3 || decide (10 ≤ fld v 8 4) || decide (10 ≤ fld v 12 4)
  | 0x044 | 0x048 => fld v 0 2 = 3 || decide (fld v 8 6 < fld v 14 6) || fld v 28 2 = 3
  | 0x04C =>
    let m := fld v 0 3
    (m = 1 && (decide (fld v 3 5 + 1 < 5) || decide (9 < fld v 3 5 + 1))) || (m = 4 && decide (fld v 24 4 < 4))
      || !intOk m (pcF s n 0x050 0 24) || !intOk m (pcF s n 0x054 0 24)
  | 0x050 | 0x054 => !intOk (shMode s n) (fld v 0 24) || decide (4 * fld v 0 24 ≤ pcF s n (off + 8) 0 24)
  | 0x058 | 0x05C => decide (4 * pcF s n (off - 8) 0 24 ≤ fld v 0 24)
  | 0x060 => decide (21 ≤ fld v 0 5) || decide (21 ≤ fld v 8 5)
  | 0x064 => decide (fld v 0 24 < 8)
  | _ => false

/-- A write of a PC register that is rejected, with its code, in the order of R458. -/
def pcReject (s : State) (n : Fin 256) (off : Nat) (v : Reg32) : Option Nat :=
  let old := rd s (.pc n) 0x040
  let en := cellEn s n
  let setsEn := off = 0x040 && !en && bit v 0
  if pcBad s n off v then some 0x01
  else if en && ((off = 0x040 && fld v 2 18 ≠ fld old 2 18) || (decide (0x044 ≤ off) && decide (off ≤ 0x064))) then some 0x80
  else if setsEn && !railOn s n then some 0x82
  else if off = 0x040 && bit v 7 && !bit old 7 &&
      (pcB s (partner n) 0x040 7 || pcF s (partner n) 0x044 0 2 ≠ 0 || owner s (.pc (partner n)) ≠ owner s (.pc n)) then some 0x81
  else if off = 0x044 && fld v 0 2 ≠ 0 && pcB s (partner n) 0x040 7 then some 0x81
  else if setsEn && ((shMode s n = 7 && (pcF s n 0x044 0 2 ≠ 2 || pcF s n 0x048 0 2 ≠ 2)) || (shMode s n = 5 && fld v 4 2 ≠ 1)
      || ((fld v 2 2 = 2 || fld v 4 2 = 2) && !bit v 6)) then some 0x84
  else none

/-- A write of CELL_CTRL (R453, R454, R467), or of SH_MODE, which may make TXRDY 1 (R452). -/
def pcWrite (s : State) (n : Fin 256) (off : Nat) (v : Reg32) : Option State :=
  if off = 0x040 then
    let was := cellEn s n
    let s := wr s (.pc n) 0x040 (v &&& 0xFFFFD)
    let s := if bit v 1 then leaveSafe s n s.dt else s
    let s := if was && !bit v 0 then stopRepeat (abortShift s n s.dt) n s.dt else s
    some (if !was && bit v 0 then restartIdle (restartKeep s n s.dt) n s.dt else s)
  else if off = 0x04C then some (withTxe n s.dt (fun s => wr s (.pc n) 0x04C v) s)
  else none

/-- A cell at its reset values, but for what the lands carry and the slot accesses on their way (R438, R443); one that is forced or held
stays in SAFE (R430), its level registers at release. -/
def resetCell (s : State) (n : Fin 256) : State :=
  let held := (cell s n).safe && (forceSafe s n || bankHeld s (n.val / 16))
  updCell s n fun c =>
    let x : Cell := { accA := c.accA, accB := c.accB, edgA := c.edgA, edgB := c.edgB, due := c.due }
    if held then { x with safe := true, cause := c.cause, safeAt := c.safeAt, safeA := c.safeA, safeB := c.safeB } else x

end Sys2Proof.Machine
end

