-- ==== Sys2Proof/Machine/NgFrame.lean ====
section
/-!
DEFINITION. Machine/NgFrame.lean: the frame in which every engine instruction runs (spec 11 and 12): the slot, the fetch, the loop check,
and what follows.
-/

namespace Sys2Proof.Machine

/-! ## The frame of an instruction -/

/-- What follows an instruction: the next pc (R356 may override it), a branch to a pc with its delay slot, or a halt of the
thread with the pc after it. -/
inductive NgNext where
  | seq
  | goto (pc : Word18)
  | branch (target : Word18) (taken annul : Bool)
  | halt
  | wait
  | ret

/-- What the body of an instruction answers: a fault, done, or an access of local memory that did not complete because of an
uncorrectable word. -/
inductive NgRes where
  | fault (code : Nat)
  | ok (s : State) (next : NgNext)
  | stopped (s : State)

/-- The loop check of R356 at address `x`: the sets from lp2 to lp0, and the pc it chooses. -/
def loopCheck (th : NgThread) (x : Word18) : NgThread × Option Word18 :=
  [2, 1, 0].foldl (fun (a : NgThread × Option Word18) k =>
    if a.2.isSome then a
    else if bit a.1.sw (12 + k) && SMap.get 0 a.1.lpE k = x then
      let c := SMap.get 0 a.1.lpC k
      if 1 < c.toNat then ({ a.1 with lpC := SMap.set 0 a.1.lpC k (c - 1) }, some (SMap.get 0 a.1.lpS k))
      else ({ a.1 with lpC := SMap.set 0 a.1.lpC k 0, sw := setBit a.1.sw (12 + k) false }, none)
    else a) (th, none)

/-- An address is the END of an active loop set. -/
def activeEnd (th : NgThread) (x : Word18) : Bool := [0, 1, 2].any fun k => bit th.sw (12 + k) && SMap.get 0 th.lpE k = x

/-- A waiting cluster access of the engine is due by a tick, so it comes before an instruction that issues then (R401). -/
def cmDue (s : State) (e : Fin 512) (tick : Nat) : Bool :=
  [0, 1, 2, 3].any fun (t : Fin 4) => match (thr s e t).cma with
    | some a => a.tick ≤ tick
    | none => false

/-- A requested halt applies at a boundary in a slot (R381). -/
def haltDue (th : NgThread) (slot : Nat) : Bool :=
  match th.haltAt with
  | some w => decide (w < slot)
  | none => false

/-- The tick in which an armed time match is made (R395): the first after the arming in which device time bits 35:0 equal the
compare words. -/
def matchTick (th : NgThread) : Option Nat :=
  th.armed.map fun w =>
    let c := th.tcmpL.toNat + th.tcmpH.toNat * 2 ^ 18
    w + 1 + (c + 2 ^ 36 - (w + 1) % 2 ^ 36) % 2 ^ 36

/-- A time match of the engine is due before a tick. -/
def matchDue (s : State) (e : Fin 512) (tick : Nat) : Bool :=
  [0, 1, 2, 3].any fun (t : Fin 4) => match matchTick (thr s e t) with
    | some m => decide (m < tick)
    | none => false

/-- The first slot at which a source ends a wait (R394): one still pending where the slot is selected, or one that was pending after
WAIT issued and has been cleared since. -/
def waitSlot (s : State) (e : Fin 512) (t : Fin 4) (k : Nat) : Option Nat :=
  let th := thr s e t
  ((evSrc s e k).spans.filterMap fun p =>
    let x := slotFrom s e t (max (max s.dt th.next) (p.1 + 3))
    let u := match p.2 with
      | some c => min (x - 3) (c - 1)
      | none => x - 3
    let m := srcMap s e k u
    if m.1 = t.val && decide (m.2 ≠ 0) && decide (u = x - 3 ∨ th.next - slotPeriod s e ≤ u) then some x else none).min?

/-- The slot that ends the wait of a thread, as far as the sources say (R394). -/
def waitEnd (s : State) (e : Fin 512) (t : Fin 4) : Option Nat := ((List.range 57).filterMap fun k => waitSlot s e t k).min?

/-- A requested halt applies to a WAITING thread at once, unless the wait ends by the tick of the request (R381). -/
def waitHalt (s : State) (e : Fin 512) (t : Fin 4) : State :=
  match (thr s e t).st, (thr s e t).haltAt with
  | 2, some w => if (waitEnd s e t).any fun x => decide (x ≤ w) then s else updThr s e t haltThread
  | _, _ => s

/-- The engine as the selection for a slot finds it: what the cells of its cluster do up to three ticks before is done (R386, R389). -/
def selectState (s : State) (e : Fin 512) (slot : Nat) : State := cellsAt s e (slot - 2)

/-- A thread has its next slot for an instruction: it runs or steps, no access or time match is due first, and at a
boundary no halt is requested and no entry is selected (R381, R389). Nothing issues before Sage releases the clusters (R102). -/
def slotFree (s : State) (e : Fin 512) (t : Fin 4) : Bool :=
  let th := thr s e t
  let i := nextSlot s e t
  engUp s && threadExists s e t && !blkBusy s (.nce e) && (th.st = 1 || th.st = 3) && !cmDue s e i && !matchDue s e i &&
    (th.dslot.isSome || th.entered || (!haltDue th i && (selectLevel (selectState s e i) e t i).isNone))

/-- The thread as an instruction that issues in slot `i` finds it: after a RETE its plain restore is made, and with it every write
that the R stage finds (R371, R393). -/
def atIssue (th : NgThread) (i : Nat) : NgThread := settle (reteRestore th) (i + 1)

/-- The quad that holds the instruction of a slot; an annulled delay slot issues none, and an address that cannot be fetched from
faults. -/
def fetchQuad (s : State) (e : Fin 512) (t : Fin 4) : Option Nat :=
  let th := reteRestore (thr s e t)
  let pc := th.pc.toNat
  if th.dslot.any Prod.snd ∨ pc % 2 = 1 ∨ 0o070000 ≤ pc then none else some (pc / 4 * 4)

/-- The first uncorrectable word of that quad (R385). (DESIGN CHOICE, log 57) -/
def badFetch (s : State) (e : Fin 512) (t : Fin 4) : Option Nat := (fetchQuad s e t).bind fun q => lmFirstBad s e q 4

/-- The single-bit errors of that quad are corrected as its instruction issues, each time one does (R385). (DESIGN CHOICE, log 57) -/
def fetchCorrected (s : State) (e : Fin 512) (t : Fin 4) : State :=
  match fetchQuad s e t with
  | some q => lmCorrected s e q 4
  | none => s

/-- A thread can issue an instruction in its next slot, and its quad can be fetched. -/
def canIssue (s : State) (e : Fin 512) (t : Fin 4) : Bool := slotFree s e t && (badFetch s e t).isNone

/-- In a slot whose instruction lies in a quad with an uncorrectable word, the engine stops (R385); else nothing issues. -/
def noIssue (s : State) (e : Fin 512) (t : Fin 4) : State :=
  match badFetch s e t with
  | some w => if slotFree s e t then lmStop (advanceTo s (nextSlot s e t)) e w else s
  | none => s

/-- The end of a unit of a stepping thread, which a HALT has perhaps stopped (R382). -/
def endStep (s : State) (e : Fin 512) (t : Fin 4) (stepping : Bool) : State :=
  if stepping ∧ (thr s e t).dslot = none then setIrq (updThr s e t haltThread) (.nce e) (2 ^ (4 + t.val))
  else s

/-- An engine instruction: `slots` is its published count, `ct` that it is a control transfer, `rsvd` that a field holds a
reserved value. `body` sees the state with the thread's registers as its R stage reads them and the loop check of that stage made, which
comes before what E writes (R356, R370), and the issue tick. (DEDUCED, log 56) -/
def ngInstr (e : Fin 512) (t : Fin 4) (slots : Nat) (ct rsvd : Bool) (body : State → Nat → NgRes) (s : State) : Result :=
  .next (if !canIssue s e t then noIssue s e t
    else
      let i := nextSlot s e t
      let p := slotPeriod s e
      let s := updThr (fetchCorrected (advanceTo (cellsAt s e i) i) e t) e t fun th => atIssue th i
      let th := thr s e t
      let step := decide (th.st = 3)
      match th.dslot with
      | some (npc, true) =>
        endStep (updThr s e t fun th => { th with dslot := none, pc := npc, next := i + p }) e t step
      | ds =>
        if th.pc.toNat % 2 = 1 ∨ 0o070000 ≤ th.pc.toNat then ngFault s e t i 3
        else if rsvd then ngFault s e t i 2
        else if ct ∧ ds.isSome then ngFault s e t i 6
        else if ct ∧ activeEnd th th.pc then ngFault s e t i 7
        else
          let lc := loopCheck th th.pc
          match body (updThr s e t fun _ => lc.1) i with
          | .fault code => ngFault s e t i code
          | .stopped s => updThr s e t fun x => { x with lpC := th.lpC, sw := th.sw }
          | .ok s next =>
            let done := fun (x : NgThread) => { x with next := i + slots * p, entered := false }
            let after := match ds with
              | some (npc, _) => npc
              | none => th.pc + 2
            endStep (match next with
              | .seq => updThr s e t fun x => { done x with pc := lc.2.getD after, dslot := none, rete := none }
              | .goto pc => updThr s e t fun x => { done x with pc := pc, dslot := none, rete := none }
              | .branch pc taken annul =>
                updThr s e t fun x => { done x with pc := th.pc + 2, dslot := some (if taken then pc else th.pc + 4, annul && !taken), rete := none }
              | .halt => updThr s e t fun x => { haltThread (done x) with pc := th.pc + 2 }
              | .wait => waitHalt (updThr s e t fun x => { done x with pc := th.pc + 2, st := if x.st = 3 then 3 else 2, rete := none }) e t
              | .ret => updThr s e t done) e t step)

end Sys2Proof.Machine
end

