-- ==== Sys2Proof/Machine/NgAlu.lean ====
section
/-!
DEFINITION. Machine/NgAlu.lean: the engine instructions that work on registers, accumulators and the program counter (R329 to
R338, R350 to R360). Operands `e` and `t` are the engine and the thread; `f` is the class flag (R321).
-/

namespace Sys2Proof.Machine

/-! ## Shapes -/

/-- An instruction that writes one register and ST from the thread as its R stage reads it. -/
def ngAlu (e : Fin 512) (t : Fin 4) (rsvd : Bool) (d : Fin 16) (f : NgThread → Word18 × Word18) : State → Result :=
  ngInstr e t 1 false rsvd fun s i =>
    let r := f (thr s e t)
    .ok (updThr s e t fun th => ngWrite { th with sw := r.2 } (i + 3) d r.1 false) .seq

/-- An instruction that changes the thread only through `f`. -/
def ngThrOp (e : Fin 512) (t : Fin 4) (rsvd : Bool) (f : NgThread → Nat → NgThread) : State → Result :=
  ngInstr e t 1 false rsvd fun s i => .ok (updThr s e t fun th => f th i) .seq

/-- A two-operand result with Z and N (R330). -/
def ngLogic (e : Fin 512) (t : Fin 4) (d a b : Fin 16) (f : Word18 → Word18 → Word18) : State → Result :=
  ngAlu e t false d fun th =>
    let r := f (ngReg th a) (ngReg th b)
    (r, setZN th.sw r)

/-- A result of a register and an immediate with Z and N (R330). -/
def ngLogicI (e : Fin 512) (t : Fin 4) (d a : Fin 16) (imm : Word18) (f : Word18 → Word18 → Word18) : State → Result :=
  ngAlu e t false d fun th =>
    let r := f (ngReg th a) imm
    (r, setZN th.sw r)

/-- A branch with its delay slot (R351, R357). -/
def ngBranch (e : Fin 512) (t : Fin 4) (rsvd : Bool) (f : NgThread → Nat → NgThread × Word18 × Bool × Bool) : State → Result :=
  ngInstr e t 1 true rsvd fun s i =>
    let th := thr s e t
    if activeEnd th (th.pc + 2) then .fault 7
    else
      let r := f th i
      .ok (updThr s e t fun _ => r.1) (.branch r.2.1 r.2.2.1 r.2.2.2)

/-! ## Additive operations (R329) -/

/-- NG_ADD (R329). -/
def execNgAdd (e : Fin 512) (t : Fin 4) (f : Bool) (d a b : Fin 16) : State → Result :=
  ngAlu e t false d fun th => addCore th.sw (satOn th.sw f) (ngReg th a) (ngReg th b) false

/-- NG_SUB (R329). -/
def execNgSub (e : Fin 512) (t : Fin 4) (f : Bool) (d a b : Fin 16) : State → Result :=
  ngAlu e t false d fun th => addCore th.sw (satOn th.sw f) (ngReg th a) (~~~(ngReg th b)) true

/-- NG_ADC (R329). -/
def execNgAdc (e : Fin 512) (t : Fin 4) (f : Bool) (d a b : Fin 16) : State → Result :=
  ngAlu e t false d fun th => addCore th.sw (satOn th.sw f) (ngReg th a) (ngReg th b) (bit th.sw 2)

/-- NG_SBC (R329). -/
def execNgSbc (e : Fin 512) (t : Fin 4) (f : Bool) (d a b : Fin 16) : State → Result :=
  ngAlu e t false d fun th => addCore th.sw (satOn th.sw f) (ngReg th a) (~~~(ngReg th b)) (bit th.sw 2)

/-- NG_ADDI (R329). -/
def execNgAddi (e : Fin 512) (t : Fin 4) (f : Bool) (d a : Fin 16) (imm : Word18) : State → Result :=
  ngAlu e t false d fun th => addCore th.sw (satOn th.sw f) (ngReg th a) imm false

/-- NG_SUBI (R329). -/
def execNgSubi (e : Fin 512) (t : Fin 4) (f : Bool) (d a : Fin 16) (imm : Word18) : State → Result :=
  ngAlu e t false d fun th => addCore th.sw (satOn th.sw f) (ngReg th a) (~~~imm) true

/-- NG_NEG (R329). -/
def execNgNeg (e : Fin 512) (t : Fin 4) (f : Bool) (d a : Fin 16) : State → Result :=
  ngAlu e t false d fun th => addCore th.sw (satOn th.sw f) 0 (~~~(ngReg th a)) true

/-- NG_ABS (R329). -/
def execNgAbs (e : Fin 512) (t : Fin 4) (f : Bool) (d a : Fin 16) : State → Result :=
  ngAlu e t false d fun th => absCore th.sw (satOn th.sw f) (ngReg th a)

/-- NG_CMP (R329): saturation is off and the result is discarded. -/
def execNgCmp (e : Fin 512) (t : Fin 4) (a b : Fin 16) : State → Result :=
  ngThrOp e t false fun th _ => { th with sw := (addCore th.sw false (ngReg th a) (~~~(ngReg th b)) true).2 }

/-- NG_CMPI (R329). -/
def execNgCmpi (e : Fin 512) (t : Fin 4) (a : Fin 16) (imm : Word18) : State → Result :=
  ngThrOp e t false fun th _ => { th with sw := (addCore th.sw false (ngReg th a) (~~~imm) true).2 }

/-! ## Logic, minimum and moves (R330) -/

/-- NG_AND (R330). -/
def execNgAnd (e : Fin 512) (t : Fin 4) (d a b : Fin 16) : State → Result :=
  ngLogic e t d a b fun x y => x &&& y

/-- NG_OR (R330). -/
def execNgOr (e : Fin 512) (t : Fin 4) (d a b : Fin 16) : State → Result :=
  ngLogic e t d a b fun x y => x ||| y

/-- NG_XOR (R330). -/
def execNgXor (e : Fin 512) (t : Fin 4) (d a b : Fin 16) : State → Result :=
  ngLogic e t d a b fun x y => x ^^^ y

/-- NG_ANDN (R330). -/
def execNgAndn (e : Fin 512) (t : Fin 4) (d a b : Fin 16) : State → Result :=
  ngLogic e t d a b fun x y => x &&& ~~~y

/-- NG_MIN (R330). -/
def execNgMin (e : Fin 512) (t : Fin 4) (d a b : Fin 16) : State → Result :=
  ngLogic e t d a b fun x y => if x.toInt ≤ y.toInt then x else y

/-- NG_MAX (R330). -/
def execNgMax (e : Fin 512) (t : Fin 4) (d a b : Fin 16) : State → Result :=
  ngLogic e t d a b fun x y => if x.toInt ≤ y.toInt then y else x

/-- NG_ANDI (R330). -/
def execNgAndi (e : Fin 512) (t : Fin 4) (d a : Fin 16) (imm : Word18) : State → Result :=
  ngLogicI e t d a imm fun x y => x &&& y

/-- NG_ORI (R330). -/
def execNgOri (e : Fin 512) (t : Fin 4) (d a : Fin 16) (imm : Word18) : State → Result :=
  ngLogicI e t d a imm fun x y => x ||| y

/-- NG_XORI (R330). -/
def execNgXori (e : Fin 512) (t : Fin 4) (d a : Fin 16) (imm : Word18) : State → Result :=
  ngLogicI e t d a imm fun x y => x ^^^ y

/-- NG_TST (R330). -/
def execNgTst (e : Fin 512) (t : Fin 4) (a b : Fin 16) : State → Result :=
  ngThrOp e t false fun th _ => { th with sw := setZN th.sw (ngReg th a &&& ngReg th b) }

/-- NG_NOT (R330). -/
def execNgNot (e : Fin 512) (t : Fin 4) (d a : Fin 16) : State → Result :=
  ngLogic e t d a a fun x _ => ~~~x

/-- NG_MOV (R330): no flag changes. -/
def execNgMov (e : Fin 512) (t : Fin 4) (d a : Fin 16) : State → Result :=
  ngAlu e t false d fun th => (ngReg th a, th.sw)

/-- NG_MOVI (R330). -/
def execNgMovi (e : Fin 512) (t : Fin 4) (d : Fin 16) (imm : Word18) : State → Result :=
  ngAlu e t false d fun th => (imm, th.sw)

/-! ## Shifts (R331) -/

/-- NG_SLL (R331). -/
def execNgSll (e : Fin 512) (t : Fin 4) (d a b : Fin 16) : State → Result :=
  ngAlu e t false d fun th => shiftCore 0 th.sw (ngReg th a) (ngReg th b).toNat

/-- NG_SRL (R331). -/
def execNgSrl (e : Fin 512) (t : Fin 4) (d a b : Fin 16) : State → Result :=
  ngAlu e t false d fun th => shiftCore 1 th.sw (ngReg th a) (ngReg th b).toNat

/-- NG_SRA (R331). -/
def execNgSra (e : Fin 512) (t : Fin 4) (d a b : Fin 16) : State → Result :=
  ngAlu e t false d fun th => shiftCore 2 th.sw (ngReg th a) (ngReg th b).toNat

/-- NG_ROR (R331). -/
def execNgRor (e : Fin 512) (t : Fin 4) (d a b : Fin 16) : State → Result :=
  ngAlu e t false d fun th => shiftCore 3 th.sw (ngReg th a) (ngReg th b).toNat

/-- NG_SLLI (R331). -/
def execNgSlli (e : Fin 512) (t : Fin 4) (d a : Fin 16) (c : Fin 32) : State → Result :=
  ngAlu e t false d fun th => shiftCore 0 th.sw (ngReg th a) c

/-- NG_SRLI (R331). -/
def execNgSrli (e : Fin 512) (t : Fin 4) (d a : Fin 16) (c : Fin 32) : State → Result :=
  ngAlu e t false d fun th => shiftCore 1 th.sw (ngReg th a) c

/-- NG_SRAI (R331). -/
def execNgSrai (e : Fin 512) (t : Fin 4) (d a : Fin 16) (c : Fin 32) : State → Result :=
  ngAlu e t false d fun th => shiftCore 2 th.sw (ngReg th a) c

/-- NG_RORI (R331): counts 18 to 31 are reserved. -/
def execNgRori (e : Fin 512) (t : Fin 4) (d a : Fin 16) (c : Fin 32) : State → Result :=
  ngAlu e t (decide (18 ≤ c.val)) d fun th => shiftCore 3 th.sw (ngReg th a) c

/-! ## Products and accumulators (R332 to R336) -/

/-- NG_MUL (R333). -/
def execNgMul (e : Fin 512) (t : Fin 4) (f : Bool) (d a b : Fin 16) : State → Result :=
  ngAlu e t false d fun th => mulCore th.sw (satOn th.sw f) (ngReg th a) (ngReg th b)

/-- NG_MULH (R333). -/
def execNgMulh (e : Fin 512) (t : Fin 4) (d a b : Fin 16) : State → Result :=
  ngLogic e t d a b fun x y => w18 ((prodCore x y false).1 / (2 : Int) ^ 18)

/-- NG_MULHU (R333). -/
def execNgMulhu (e : Fin 512) (t : Fin 4) (d a b : Fin 16) : State → Result :=
  ngLogic e t d a b fun x y => BitVec.ofNat 18 (x.toNat * y.toNat / 2 ^ 18)

/-- NG_MULF (R333): it always saturates. -/
def execNgMulf (e : Fin 512) (t : Fin 4) (_f : Bool) (d a b : Fin 16) : State → Result :=
  ngAlu e t false d fun th => mulfCore th.sw (ngReg th a) (ngReg th b)

/-- The two products of MAC2, MPY2 and MACS with FR, N0 and N1, and whether one sets S (R334). -/
def twoProds (th : NgThread) (a b c g : Fin 16) (fr n0 n1 : Bool) : Int × Int × Bool :=
  let p := prodCore (ngReg th a) (ngReg th b) fr
  let q := prodCore (ngReg th c) (ngReg th g) fr
  (if n0 then -p.1 else p.1, if n1 then -q.1 else q.1, p.2 || q.2)

/-- NG_MAC2 (R334). -/
def execNgMac2 (e : Fin 512) (t : Fin 4) (f : Bool) (a b c g : Fin 16) (fr n0 n1 : Bool) : State → Result :=
  ngThrOp e t false fun th _ =>
    let p := twoProds th a b c g fr n0 n1
    let sat := satOn th.sw f
    let x := acc44 sat (th.acc0.toInt + p.1)
    let y := acc44 sat (th.acc1.toInt + p.2.1)
    let v := x.2 || y.2
    { th with acc0 := x.1, acc1 := y.1, sw := stickS (setV th.sw v) (p.2.2 || (v && sat)) }

/-- NG_MPY2 (R334). -/
def execNgMpy2 (e : Fin 512) (t : Fin 4) (_f : Bool) (a b c g : Fin 16) (fr n0 n1 : Bool) : State → Result :=
  ngThrOp e t false fun th _ =>
    let p := twoProds th a b c g fr n0 n1
    { th with acc0 := BitVec.ofInt 44 p.1, acc1 := BitVec.ofInt 44 p.2.1, sw := stickS (setV th.sw false) p.2.2 }

/-- NG_MACS (R334). -/
def execNgMacs (e : Fin 512) (t : Fin 4) (f : Bool) (a b c g : Fin 16) (fr n0 n1 : Bool) : State → Result :=
  ngThrOp e t false fun th _ =>
    let p := twoProds th a b c g fr n0 n1
    let sat := satOn th.sw f
    let x := acc44 sat (th.acc0.toInt + p.1 + p.2.1)
    { th with acc0 := x.1, sw := stickS (setV th.sw x.2) (p.2.2 || (x.2 && sat)) }

/-- NG_EXTR (R336): shifts 44 to 63 and accumulators above 1 are reserved. -/
def execNgExtr (e : Fin 512) (t : Fin 4) (d : Fin 16) (a : Fin 16) (sh : Fin 64) : State → Result :=
  ngAlu e t (decide (2 ≤ a.val ∨ 44 ≤ sh.val)) d fun th =>
    clampCore th.sw (rndCore th.sw (if a = 0 then th.acc0 else th.acc1).toInt sh)

/-- NG_ACLR (R336). -/
def execNgAclr (e : Fin 512) (t : Fin 4) (a : Fin 16) : State → Result :=
  ngThrOp e t (decide (3 ≤ a.val)) fun th _ =>
    { th with acc0 := if a = 1 then th.acc0 else 0, acc1 := if a = 0 then th.acc1 else 0 }

/-- AADD and ASUB (R336). -/
def ngAccSum (e : Fin 512) (t : Fin 4) (f : Bool) (a : Fin 16) (op : Int → Int → Int) : State → Result :=
  ngThrOp e t (decide (2 ≤ a.val)) fun th _ =>
    let sat := satOn th.sw f
    let x := acc44 sat (op th.acc0.toInt th.acc1.toInt)
    { th with acc0 := if a = 0 then x.1 else th.acc0, acc1 := if a = 0 then th.acc1 else x.1,
              sw := stickS (setV th.sw x.2) (x.2 && sat) }

/-- NG_AADD (R336). -/
def execNgAadd (e : Fin 512) (t : Fin 4) (f : Bool) (a : Fin 16) : State → Result :=
  ngAccSum e t f a fun x y => x + y

/-- NG_ASUB (R336). -/
def execNgAsub (e : Fin 512) (t : Fin 4) (f : Bool) (a : Fin 16) : State → Result :=
  ngAccSum e t f a fun x y => x - y

/-! ## Division (R337, R338) -/

/-- The pair of a division written at the end of tick `due`. -/
def writePair (th : NgThread) (due : Nat) (d : Fin 16) (x y : Word18) : NgThread :=
  ngWrite (ngWrite th due d x false) due (d.val + 1) y false

/-- DIV0 and DIV0U (R337). -/
def ngDiv0 (e : Fin 512) (t : Fin 4) (uns : Bool) (d a b : Fin 16) : State → Result :=
  ngThrOp e t (decide (d.val % 2 = 1)) fun th i =>
    let r := div0Core th.sw uns (ngReg th a) (ngReg th b)
    writePair { th with sw := r.2.2 } (i + 2) d r.1 r.2.1

/-- NG_DIV0 (R337): an odd d is reserved. -/
def execNgDiv0 (e : Fin 512) (t : Fin 4) (d a b : Fin 16) : State → Result :=
  ngDiv0 e t false d a b

/-- NG_DIV0U (R337). -/
def execNgDiv0u (e : Fin 512) (t : Fin 4) (d a b : Fin 16) : State → Result :=
  ngDiv0 e t true d a b

/-- NG_DSTEP (R337). -/
def execNgDstep (e : Fin 512) (t : Fin 4) (d b : Fin 16) : State → Result :=
  ngThrOp e t (decide (d.val % 2 = 1)) fun th i =>
    let r := dstepCore th.sw (ngReg th d) (ngReg th (d.val + 1)) (ngReg th b)
    writePair th (i + 2) d r.1 r.2

/-- NG_DIVF (R337). -/
def execNgDivf (e : Fin 512) (t : Fin 4) (f : Bool) (d : Fin 16) : State → Result :=
  ngThrOp e t (decide (d.val % 2 = 1)) fun th i =>
    let r := divfCore th.sw (satOn th.sw f) (ngReg th d) (ngReg th (d.val + 1))
    writePair { th with sw := r.2.2 } (i + 3) d r.1 r.2.1

/-! ## System (R354, R359, R360) -/

/-- NG_NOP (R360). -/
def execNgNop (e : Fin 512) (t : Fin 4)  : State → Result :=
  ngThrOp e t false fun th _ => th

/-- NG_HALT (R360): PC is the next instruction. -/
def execNgHalt (e : Fin 512) (t : Fin 4)  : State → Result :=
  ngInstr e t 1 true false fun s _ => .ok s .halt

/-- Posted writes of a thread that the fabric has not accepted (R346). -/
def postedWrites (s : State) (e : Fin 512) (t : Fin 4) : Nat :=
  (s.fab.txns.filter fun x => decide (x.req.master = .engine e) && decide (x.purp = .fwr t.val) &&
    (decide (x.status = .posted) || decide (x.status = .waitCredit))).length

/-- The head of a return queue is ready for an access in tick `i` (R347). -/
def headReady (th : NgThread) (i : Nat) : Bool :=
  match th.rq with
  | r :: _ => r.ready && decide (r.tick < i)
  | [] => false

/-- A 64-bit value's bits as a control word. -/
def latWord (x : BitVec 46) (lo : Nat) : Word18 := BitVec.ofNat 18 (x.toNat / 2 ^ lo)

/-- What MFC reads (R359); none for a number that R359 does not list. -/
def crRead (s : State) (e : Fin 512) (t : Fin 4) (i cr : Nat) : Option Word18 :=
  let th := thr s e t
  match cr with
  | 0o000 => some th.sw
  | 0o001 => some th.pc
  | 0o002 => some (BitVec.ofNat 18 (t.val + e.val % 16 * 2 ^ 2 + e.val / 16 * 2 ^ 6))
  | 0o003 => some (BitVec.ofNat 18 (th.rq.length + 8 * (headReady th i).toNat + 16 * postedWrites s e t))
  | 0o010 => some (th.acc0.truncate 18)
  | 0o011 => some ((th.acc0 >>> 18).truncate 18)
  | 0o012 => some (BitVec.ofInt 18 (th.acc0.toInt / (2 : Int) ^ 36))
  | 0o013 => some (th.acc1.truncate 18)
  | 0o014 => some ((th.acc1 >>> 18).truncate 18)
  | 0o015 => some (BitVec.ofInt 18 (th.acc1.toInt / (2 : Int) ^ 36))
  | 0o050 => some (BitVec.ofNat 18 i)
  | 0o051 => some (latWord th.tlat 0)
  | 0o052 => some (latWord th.tlat 18)
  | 0o053 => some (latWord th.tlat 36)
  | cr =>
    if 0o020 ≤ cr ∧ cr < 0o031 then
      let k := (cr - 0o020) / 3
      some (SMap.get 0 (if (cr - 0o020) % 3 = 0 then th.lpS else if (cr - 0o020) % 3 = 1 then th.lpE else th.lpC) k)
    else if 0o040 ≤ cr ∧ cr < 0o044 then some (SMap.get 0 th.m (cr - 0o040))
    else if 0o044 ≤ cr ∧ cr < 0o050 then some (SMap.get 0 th.l (cr - 0o044))
    else none

/-- A field of an accumulator replaced. -/
def accSet (x : BitVec 44) (part : Nat) (v : Word18) : BitVec 44 :=
  if part = 0 then setFld x 0 18 v.toNat else if part = 1 then setFld x 18 18 v.toNat else setFld x 36 8 v.toNat

/-- What MTC does (R359); none for an RO or unlisted number and for an invalid value. -/
def crWrite (th : NgThread) (cr : Nat) (v : Word18) : Option NgThread :=
  match cr with
  | 0o000 => if fld v 5 2 = 3 then none else some { th with sw := v &&& 0o177777 }
  | 0o010 => some { th with acc0 := accSet th.acc0 0 v }
  | 0o011 => some { th with acc0 := accSet th.acc0 1 v }
  | 0o012 => some { th with acc0 := accSet th.acc0 2 v }
  | 0o013 => some { th with acc1 := accSet th.acc1 0 v }
  | 0o014 => some { th with acc1 := accSet th.acc1 1 v }
  | 0o015 => some { th with acc1 := accSet th.acc1 2 v }
  | cr =>
    if 0o020 ≤ cr ∧ cr < 0o031 then
      let k := (cr - 0o020) / 3
      if (cr - 0o020) % 3 = 2 then some { th with lpC := SMap.set 0 th.lpC k v }
      else if bit v 0 then none
      else if (cr - 0o020) % 3 = 0 then some { th with lpS := SMap.set 0 th.lpS k v }
      else some { th with lpE := SMap.set 0 th.lpE k v }
    else if 0o040 ≤ cr ∧ cr < 0o044 then some { th with m := SMap.set 0 th.m (cr - 0o040) v }
    else if 0o044 ≤ cr ∧ cr < 0o050 then some { th with l := SMap.set 0 th.l (cr - 0o044) v }
    else none

/-- NG_MFC (R359): a read of DT0 latches bits 63:18 of device time; one of ST reads in E, and so sees RL of a remote answer that is late
in the tick before (R371). -/
def execNgMfc (e : Fin 512) (t : Fin 4) (d : Fin 16) (cr : Fin 256) : State → Result :=
  ngInstr e t 1 false false fun s i =>
    match crRead s e t i cr with
    | none => .fault 8
    | some v =>
      .ok (updThr s e t fun th =>
        let th := if cr = 0o050 then { th with tlat := BitVec.ofNat 46 (i / 2 ^ 18) } else th
        { th with pend := th.pend ++ [{ due := i + 3, reg := d.val % 16, val := v, load := false, st := if cr = 0 then some (i + 2) else none }] }) .seq

/-- NG_MTC (R359). -/
def execNgMtc (e : Fin 512) (t : Fin 4) (a : Fin 16) (cr : Fin 256) : State → Result :=
  ngInstr e t 1 false false fun s i =>
    match crWrite (thr s e t) cr (ngReg (thr s e t) a) with
    | none => .fault 8
    | some th => .ok (updThr s e t fun _ => if cr = 0 then stWritten th (i + 2) else th) .seq

/-- NG_POPR (R346, R347, R386): a ready entry that comes to the head makes the source pending again; without one it is cleared. -/
def execNgPopr (e : Fin 512) (t : Fin 4) (d : Fin 16) : State → Result :=
  ngInstr e t 1 false false fun s i =>
    let th := thr s e t
    match th.rq with
    | r :: rest =>
      if r.ready ∧ r.tick < i then
        let st := setZN (setV th.sw r.err) r.val
        let s := updThr s e t fun th => ngWrite { th with sw := st, rq := rest } (i + 3) d r.val false
        .ok (if (rest.head?.map RqEnt.ready).getD false then setSource s e (48 + t.val) (i + 2) else endSource s e (48 + t.val) (i + 2)) .seq
      else .fault 9
    | [] => .fault 9

/-! ## Events (R360, R393) -/

/-- NG_WAIT (R360). -/
def execNgWait (e : Fin 512) (t : Fin 4)  : State → Result :=
  ngInstr e t 1 true false fun s _ => .ok s .wait

/-- NG_RETE (R393): the level it leaves is kept until the slot after it, where PC and ST are restored, as its E stage writes them, or a
deliverable level re-enters (EVENT_ENTRY). -/
def execNgRete (e : Fin 512) (t : Fin 4)  : State → Result :=
  ngInstr e t 1 true false fun s i =>
    let th := thr s e t
    if th.active = 0 then .ok s .seq
    else .ok (updThr s e t fun th => { th with rete := some (topActive th.active), reteAt := i + 2 }) .ret

/-- NG_SIG (R360, R386): a source other than 32 to 47 is reserved. -/
def execNgSig (e : Fin 512) (t : Fin 4) (g : Fin 16) (src : Fin 64) : State → Result :=
  ngInstr e t 1 false (decide (src.val < 32 ∨ 48 ≤ src.val)) fun s i =>
    .ok (setSource s (Fin.ofNat 512 (e.val / 16 * 16 + g.val)) src (i + 2)) .seq

/-- NG_CLRE (R360, R386). -/
def execNgClre (e : Fin 512) (t : Fin 4) (src : Fin 64) : State → Result :=
  ngInstr e t 1 false (decide (57 ≤ src.val)) fun s i => .ok (clearSource s e src (i + 2)) .seq

/-- NG_EDI (R360). -/
def execNgEdi (e : Fin 512) (t : Fin 4) (d : Fin 16) : State → Result :=
  ngThrOp e t false fun th i => ngWrite { th with en := false } (i + 3) d (if th.en then 1 else 0) false

/-- NG_EEI (R360). -/
def execNgEei (e : Fin 512) (t : Fin 4)  : State → Result :=
  ngThrOp e t false fun th _ => { th with en := true }

/-! ## Check-value feeds (R350, R421) -/

/-- A feed of `n` bits takes effect in its last slot (R350, R421). -/
def ngFeed (e : Fin 512) (t : Fin 4) (slots : Nat) (rsvd : Bool) (a : Fin 16) (n : Nat) : State → Result :=
  ngInstr e t slots false rsvd fun s i =>
    let x := (ngReg (thr s e t) a).toNat % 2 ^ n
    .ok (updEng s e fun g => { g with cv := { g.cv with feeds := g.cv.feeds ++ [(i + (slots - 1) * slotPeriod s e + 2, n, x)] } }) .seq

/-- NG_FBYTE (R350). -/
def execNgFbyte (e : Fin 512) (t : Fin 4) (a : Fin 16) : State → Result :=
  ngFeed e t 1 false a 8

/-- NG_FHALF (R350). -/
def execNgFhalf (e : Fin 512) (t : Fin 4) (a : Fin 16) : State → Result :=
  ngFeed e t 2 false a 16

/-- NG_FWORD (R350). -/
def execNgFword (e : Fin 512) (t : Fin 4) (a : Fin 16) : State → Result :=
  ngFeed e t 2 false a 18

/-- NG_FBITS (R350): counts 0 and 10 to 15 are reserved. -/
def execNgFbits (e : Fin 512) (t : Fin 4) (a : Fin 16) (n : Fin 16) : State → Result :=
  ngFeed e t 1 (decide (n.val = 0 ∨ 10 ≤ n.val)) a n

/-! ## Branches, calls and loops (R351 to R357) -/

/-- NG_BR (R352). -/
def execNgBr (e : Fin 512) (t : Fin 4) (f : Bool) (cond : Fin 16) (target : Word18) : State → Result :=
  ngBranch e t (bit target 0) fun th _ => (th, target, brCond th.sw cond, f)

/-- NG_BZ (R352). -/
def execNgBz (e : Fin 512) (t : Fin 4) (f : Bool) (a : Fin 16) (target : Word18) : State → Result :=
  ngBranch e t (bit target 0) fun th _ =>
    let x := sx (ngReg th a)
    (th, target, decide (x = 0), f)

/-- NG_BNZ (R352). -/
def execNgBnz (e : Fin 512) (t : Fin 4) (f : Bool) (a : Fin 16) (target : Word18) : State → Result :=
  ngBranch e t (bit target 0) fun th _ =>
    let x := sx (ngReg th a)
    (th, target, decide (x ≠ 0), f)

/-- NG_BLTZ (R352). -/
def execNgBltz (e : Fin 512) (t : Fin 4) (f : Bool) (a : Fin 16) (target : Word18) : State → Result :=
  ngBranch e t (bit target 0) fun th _ =>
    let x := sx (ngReg th a)
    (th, target, decide (x < 0), f)

/-- NG_BGEZ (R352). -/
def execNgBgez (e : Fin 512) (t : Fin 4) (f : Bool) (a : Fin 16) (target : Word18) : State → Result :=
  ngBranch e t (bit target 0) fun th _ =>
    let x := sx (ngReg th a)
    (th, target, decide (0 ≤ x), f)

/-- NG_BLEZ (R352). -/
def execNgBlez (e : Fin 512) (t : Fin 4) (f : Bool) (a : Fin 16) (target : Word18) : State → Result :=
  ngBranch e t (bit target 0) fun th _ =>
    let x := sx (ngReg th a)
    (th, target, decide (x ≤ 0), f)

/-- NG_BGTZ (R352). -/
def execNgBgtz (e : Fin 512) (t : Fin 4) (f : Bool) (a : Fin 16) (target : Word18) : State → Result :=
  ngBranch e t (bit target 0) fun th _ =>
    let x := sx (ngReg th a)
    (th, target, decide (0 < x), f)

/-- NG_CALL (R353). -/
def execNgCall (e : Fin 512) (t : Fin 4) (d : Fin 16) (target : Word18) : State → Result :=
  ngBranch e t (bit target 0) fun th i => (ngWrite th (i + 3) d (th.pc + 4) false, target, true, false)

/-- NG_JR (R353). -/
def execNgJr (e : Fin 512) (t : Fin 4) (a : Fin 16) : State → Result :=
  ngBranch e t false fun th _ => (th, ngReg th a, true, false)

/-- NG_JALR (R353). -/
def execNgJalr (e : Fin 512) (t : Fin 4) (d a : Fin 16) : State → Result :=
  ngBranch e t false fun th i => (ngWrite th (i + 3) d (th.pc + 4) false, ngReg th a, true, false)

/-- NG_LOOP (R355). -/
def execNgLoop (e : Fin 512) (t : Fin 4) (k a : Fin 16) (endA : Word18) : State → Result :=
  ngInstr e t 1 true (decide (3 ≤ k.val) || bit endA 0) fun s _ =>
    let th := thr s e t
    let n := ngReg th a
    if endA.toNat < (th.pc + 2).toNat then .fault 7
    else
      let th' := { th with lpS := SMap.set 0 th.lpS k (th.pc + 2), lpE := SMap.set 0 th.lpE k endA, lpC := SMap.set 0 th.lpC k n,
                           sw := setBit th.sw (12 + k.val) (decide (n ≠ 0)) }
      .ok (updThr s e t fun _ => th') (.goto (if n = 0 then endA + 2 else th.pc + 2))

end Sys2Proof.Machine
end

