-- ==== Sys2Proof/Machine/Movers.lean ====
section
/-!
DEFINITION. Machine/Movers.lean: the words behind the engine windows (R108, R407 to R410), and movers (R414 to R419): their
descriptors, requests and ends.
-/

namespace Sys2Proof.Machine

/-! ## Words of an engine window -/

/-- What a window word offset names (R108): a cluster-memory word, or a local word of an engine and whether a select range
reached it. -/
inductive WinWord where
  | cm (c : Nat)
  | lm (e : Fin 512) (a : Nat) (sel : Bool)
  deriving DecidableEq, Repr

/-- The engine selected by LM_SEL0 or LM_SEL1 (R411). -/
def lmSel (s : State) (k : Fin 32) (one : Bool) : Fin 512 :=
  Fin.ofNat 512 (16 * k.val + rdF s (.nc k) 0x040 (if one then 8 else 0) 4)

/-- The word at a window word offset of a cluster. -/
def winWord (s : State) (k : Fin 32) (w : Nat) : WinWord :=
  if w < 0o400000 then .cm w
  else if w < 0o600000 then .lm (Fin.ofNat 512 (16 * k.val + (w - 0o400000) / 0o10000)) (0o70000 + w % 0o10000) false
  else .lm (lmSel s k (decide (0o700000 ≤ w))) (w % 0o100000) true

/-- The owner of the part of a window (R410). -/
def winOwner (s : State) (k : Fin 32) : WinWord → Nat
  | .cm c => cmOwner s k c
  | .lm e _ _ => owner s (.nce e)

/-- A word of a window. -/
def winVal (s : State) (k : Fin 32) : WinWord → Word18
  | .cm c => cmWord s k c
  | .lm e a _ => lmWord s e a

/-- A word of a window written whole (R36, R385). -/
def setWin (s : State) (k : Fin 32) (x : WinWord) (v : Word18) : State :=
  match x with
  | .cm c => setCm s k c v
  | .lm e a _ => setLm s e a v

/-- A single-port word of a running engine (R110). -/
def winBusy (s : State) : WinWord → Bool
  | .lm e a _ => decide (a < 0o70000) && !allHaltedAt s e s.dt
  | .cm _ => false

/-- What SECDED finds on a word that a request reads (R399, R408, R409): `ecc` is 1 for a corrected word, 2 for an uncorrectable
one. Uncorrectable words of local memory are not recorded here. -/
def winFinding (s : State) (k : Fin 32) (x : WinWord) (ecc : Fin 3) : State :=
  match x with
  | .cm c => cmFinding s k c ecc
  | .lm e a _ =>
    if ecc = 2 then lmSetBad s e a else lmCorrected (if ecc = 1 then lmSetCe s e a else s) e a 1

/-- A word read is poisoned: its word of cluster memory, or a word of its quad of local memory, is uncorrectable (R408, R410). -/
def winBad (s : State) (k : Fin 32) : WinWord → Bool
  | .cm c => SMap.get false (clu s k).cmBad c
  | .lm e a _ => [0, 1, 2, 3].any fun i => lmIsBad s e (a / 4 * 4 + i)

/-- What SECDED finds on the words of one access: pairs of a window word offset and 1 or 2; a word not named is good. -/
abbrev Findings := List (Nat × Fin 3)

/-- The finding on a window word offset. -/
def findingOf (f : Findings) (w : Nat) : Fin 3 := ((f.find? fun p => p.1 = w).map Prod.snd).getD 0

/-- Words in the order in which their errors are recorded: one request reads them in one tick (R404), so uncorrectable ones come first
(R119), also those that an earlier access has found. (DEDUCED, log 17) -/
def ueWords (s : State) (k : Fin 32) (f : Findings) (ws : List Nat) : List Nat :=
  let ue := fun w => decide (findingOf f w = 2) || (match winWord s k w with
    | .cm c => SMap.get false (clu s k).cmBad c
    | .lm e a _ => lmIsBad s e a)
  ws.filter ue ++ ws.filter fun w => !ue w

/-- What SECDED finds on the words that one request reads. -/
def winFindings (s : State) (k : Fin 32) (f : Findings) (ws : List Nat) : State :=
  (ueWords s k f ws).foldl (fun s w => winFinding s k (winWord s k w) (findingOf f w)) s

/-! ## Views (R33, R34, R37) -/

/-- A word as four bytes of the loose view. -/
def looseWord (v : Word18) : Nat := wrapN 32 v.toInt

/-- Words as bytes of a view: four bytes each, or seven to a granule. -/
def viewBytes (packed : Bool) (ws : List Word18) : Nat :=
  (ws.zipIdx).foldl (fun acc e =>
    if packed then acc + e.1.toNat * 2 ^ (128 * (e.2 / 7) + 18 * (e.2 % 7)) else acc + looseWord e.1 * 2 ^ (32 * e.2)) 0

/-- Word `i` of bytes of a view. -/
def viewWord (packed : Bool) (x i : Nat) : Word18 :=
  BitVec.ofNat 18 (if packed then x / 2 ^ (128 * (i / 7) + 18 * (i % 7)) else x / 2 ^ (32 * i))

/-! ## Movers -/

/-- The record of a mover. -/
def mov (s : State) (m : Fin 256) : MoverRec := SMap.get {} s.movers m

/-- The record of a mover changed. -/
def updMov (s : State) (m : Fin 256) (f : MoverRec → MoverRec) : State := { s with movers := SMap.upd {} s.movers m f }

/-- The cluster of a mover. -/
def movCluster (m : Fin 256) : Fin 32 := Fin.ofNat 32 (m.val / 8)

/-- A descriptor word. -/
def md (s : State) (m : Fin 256) (k : Nat) : Word18 := SMap.get 0 (mov s m).md k

/-- The byte address of a descriptor, bits 1:0 zero (R415). -/
def mdAddr (s : State) (m : Fin 256) : Nat :=
  4 * ((md s m 2).toNat + (md s m 3).toNat * 2 ^ 18 + fld (md s m 4) 0 10 * 2 ^ 36)

/-- COUNT. -/
def mdCount (s : State) (m : Fin 256) : Nat := fld (md s m 1) 0 14

/-- VIEW: the packed view on the byte side. -/
def mdPacked (s : State) (m : Fin 256) : Bool := bit (md s m 4) 10

/-- DIR: bytes to words. -/
def mdIn (s : State) (m : Fin 256) : Bool := bit (md s m 4) 11

/-- Attributes of a mover's request (R26, R27). -/
def movAttr (s : State) (m : Fin 256) : Attr :=
  { did := owner s (.ncm m), pid := rdF s (.ncm m) 0x0F0 0 14, gen := genOf s (.ncm m),
    cls := max (fld (md s m 4) 12 2) (if owner s (.ncm m) = 0 then 0 else SMap.get 0 s.clsGrant (pageAddr (.ncm m))) }

/-- What MD7 reads (R415). -/
def md7 (s : State) (m : Fin 256) : Word18 := BitVec.ofNat 18 ((mov s m).state + 4 * (mov s m).res + 64 * (mov s m).gen)

/-- A descriptor ends with a STATE and RES; every end but STALE sets what EVT and IRQ choose (R418, R426). -/
def movEnd (s : State) (m : Fin 256) (st res : Nat) : State :=
  let d := md s m 5
  let s := updMov s m fun r => { r with state := st, res := res, bus := none, abort := false, held := [], lost := false }
  if res = 6 then s
  else
    let s := if bit d 4 then setSource s (Fin.ofNat 512 (16 * (m.val / 8) + fld d 0 4)) (16 + m.val % 8) s.dt else s
    let mask := (if bit d 5 then 1 else 0) + (if st = 3 then 2 else 0)
    if mask = 0 then s else setIrq s (.ncm m) mask

/-- The result that refuses a descriptor at START (R416): 2 RANGE, 3 ALIGN. -/
def movCheck (s : State) (m : Fin 256) : Option Nat :=
  let w := (md s m 0).toNat
  let n := mdCount s m
  if n = 0 ∨ 0o600000 ≤ w then some 2
  else if w < 0o400000 ∧ 0o400000 < w + n then some 2
  else if 0o400000 ≤ w ∧ w / 0o10000 ≠ (w + n - 1) / 0o10000 then some 2
  else if mdPacked s m ∧ (mdAddr s m % 16 ≠ 0 ∨ n % 7 ≠ 0) then some 3
  else none

/-- Requests of a mover that have not been completed. -/
def movOut (s : State) (m : Fin 256) : Nat :=
  (s.fab.txns.filter fun t => match t.purp with
    | .mover k _ _ => decide (k = m.val) && !t.old
    | _ => false).length

/-- A word of the engine side is refused to the mover (R410): the fabric error log and MV_BUS take its loose-window address. -/
def movRefuse (s : State) (m : Fin 256) (w : Nat) (op : ReqOp) : State :=
  let a := 0x40000000 + m.val / 8 * 0x100000 + 4 * w
  let s := ferrLog s (.mover m) (movAttr s m) op a .wrongOwner
  updMov (recContained s (.ncm m) 0x82 (a % 2 ^ 32)) m fun r => { r with bus := some a }

/-- The window words that a mover's next request carries: from word `i`, to the next 64-byte boundary (R417). -/
def movSpan (s : State) (m : Fin 256) (i : Nat) : Nat × Nat × Nat :=
  let rest := mdCount s m - i
  if mdPacked s m then
    let a := mdAddr s m + 16 * (i / 7)
    let g := min (rest / 7) ((64 - a % 64) / 16)
    (a % 2 ^ 48, 7 * g, 16 * g)
  else
    let a := mdAddr s m + 4 * i
    let n := min rest ((64 - a % 64) / 4)
    (a % 2 ^ 48, n, 4 * n)

/-- A window word is the mover's to reach (R410). -/
def movMay (s : State) (m : Fin 256) (w : Nat) : Bool :=
  winOwner s (movCluster m) (winWord s (movCluster m) w) = owner s (.ncm m)

/-- Words read on the engine side, after the accesses of threads that come before them, up to one that is refused: the state, the words, whether one was poisoned, and whether one was
refused. -/
def movReads (s : State) (m : Fin 256) (f : Findings) (ws : List Nat) : State × List Word18 × Bool × Bool :=
  let k := movCluster m
  let s := cmSettle s k
  let l := ws.takeWhile (movMay s m)
  let t := winFindings s k f l
  (match ws.find? fun w => !movMay s m w with
    | some w => movRefuse t m w .read
    | none => t, l.map fun w => winVal t k (winWord t k w), l.any fun w => winBad t k (winWord t k w), l.length < ws.length)

/-- FAB_GATE: the DID is gated (R537, R546). -/
def gated (s : State) (d : Nat) : Bool := rdB s .fabr (0x044 + 4 * (d / 32)) (d % 32)

/-- Ticks that a mover or the fabric port waited are counted (R406, R425). -/
def confTicks (s : State) (k : Fin 32) (i waited : Nat) : State := bumpF s (.nc k) (0x080 + 4 * i) 0 32 waited

/-- A mover that still issues makes its next request, while fewer than 16 are outstanding (R417); a mover of a gated domain makes
none (R537). The ticks that it waits for words it reads are a free value (R406). (DESIGN CHOICE, log 59) -/
def movIssue (m : Fin 256) (f : Findings) (s : State) : State :=
  let r := mov s m
  if r.state ≠ 1 ∨ r.bus.isSome ∨ r.abort ∨ mdCount s m ≤ r.idx ∨ 16 ≤ movOut s m ∨ gated s (owner s (.ncm m)) then s
  else
    let sp := movSpan s m r.idx
    let q : FReq := { master := .mover m, op := .read, addr := sp.1, len := sp.2.2, be := 2 ^ sp.2.2 - 1, data := 0,
                      cls := Fin.ofNat 4 (movAttr s m).cls, pid := (movAttr s m).pid }
    let t : Txn := { id := 0, req := q, attr := movAttr s m, lvl := 1, purp := .mover m r.idx sp.2.1, status := .posted }
    if mdIn s m then addTxn (updMov s m fun r => { r with idx := r.idx + sp.2.1 }) t
    else
      let w0 := (md s m 0).toNat + r.idx
      let c := freeVal 32 s
      let x := movReads (confTicks c.2 (movCluster m) (m.val % 8) c.1) m f ((List.range sp.2.1).map (w0 + ·))
      if x.2.2.2 then x.1
      else
        addTxn (updMov x.1 m fun r => { r with idx := r.idx + sp.2.1 })
          { t with req := { q with op := .write, data := viewBytes (mdPacked s m) x.2.1 }, poison := x.2.2.1 }

/-- A mover issues all it may, and ends its descriptor when nothing is left outstanding (R417, R418); with a request discarded, not every
write has been accepted and it does not end (R44, R537). (DEDUCED, log 59) -/
def movPump (s : State) (m : Fin 256) (f : Findings) : State :=
  let s := if blkBusy s (.ncm m) then s else (List.range 16).foldl (fun s _ => movIssue m f s) s
  let r := mov s m
  if r.state ≠ 1 ∨ movOut s m ≠ 0 ∨ r.lost then s
  else if r.bus.isSome then movEnd s m 3 4
  else if r.abort then movEnd s m 3 5
  else if mdCount s m ≤ r.idx then movEnd s m 2 1
  else s

/-- START (R416, R419), ignored in a cluster that Sage has not released (R102) or Marionette has stopped (R553); `detail` is the page offset or the word address of the write.
(DEDUCED, log 59) -/
def movStart (s : State) (m : Fin 256) (detail : Nat) (f : Findings) : State :=
  if !engUp s ∨ strStopped s (16 + m.val / 8) ∨ blkBusy s (.ncm m) then s
  else if (mov s m).state = 1 then recInternal s (.ncm m) 0x80 detail
  else
    let s := updMov s m fun r => { r with gen := genOf s (.ncm m), idx := 0, bus := none, abort := false, held := [], lost := false }
    match movCheck s m with
    | some res => movEnd (recInternal s (.ncm m) 0x81 detail) m 3 res
    | none => movPump (updMov s m fun r => { r with state := 1 }) m f

/-- ABORT (R418): an idle mover takes no notice. -/
def movAbort (s : State) (m : Fin 256) : State :=
  if (mov s m).state = 1 then movPump (updMov s m fun r => { r with abort := true }) m [] else s

/-- A write of a descriptor word from the page or from an engine (R415, R418, R419). -/
def movWrite (s : State) (m : Fin 256) (k : Nat) (v : Word18) (detail : Nat) (f : Findings) : State :=
  let put := fun (x : Word18) =>
    if (mov s m).state = 1 then recInternal s (.ncm m) 0x80 detail
    else updMov s m fun r => { r with md := SMap.set 0 r.md k x }
  match k with
  | 0 | 2 | 3 => put v
  | 1 => put (v &&& 0x3FFF)
  | 4 => put (v &&& 0x3FFF)
  | 5 => put (v &&& 0x3F)
  | 6 =>
    let busy := (mov s m).state = 1
    let s := if bit v 1 then movAbort s m else s
    if bit v 0 then (if busy then recInternal s (.ncm m) 0x80 detail else movStart s m detail f) else s
  | _ => s

/-- A descriptor word as it reads (R415). -/
def movRead (s : State) (m : Fin 256) (k : Nat) : Word18 :=
  if k < 6 then md s m k else if k = 7 then md7 s m else 0

/-- A request of a mover. -/
def isMov (m : Fin 256) (t : Txn) : Bool :=
  match t.purp with
  | .mover k _ _ => decide (k = m.val)
  | _ => false

/-- The generation of a mover's slice changes (R418): a running descriptor ends STALE, and what it has queued goes. (DESIGN CHOICE, log 34) -/
def movStale (s : State) (m : Fin 256) : State :=
  let s := { s with fab := { s.fab with txns :=
    (s.fab.txns.filter fun t => !(isMov m t && (decide (t.status = .posted) || decide (t.status = .waitCredit)))).map fun t => if isMov m t then { t with old := true } else t } }
  if (mov s m).state = 1 then movEnd s m 0 6 else s

/-- One word written on the engine side: refused words stop the rest (R410, R417). -/
def movWriteWord (m : Fin 256) (a : State × Bool) (e : Nat × Word18) : State × Bool :=
  if a.2 then a
  else
    let k := movCluster m
    let x := winWord a.1 k e.1
    if winOwner a.1 k x ≠ owner a.1 (.ncm m) then (movRefuse a.1 m e.1 .write, true) else (setWin a.1 k x e.2, false)

/-- A request of a mover for words before word `i` has not completed. -/
def movBefore (s : State) (m : Fin 256) (i : Nat) : Bool :=
  s.fab.txns.any fun t => match t.purp with
    | .mover k j _ => decide (k = m.val) && !t.old && decide (j < i)
    | _ => false

/-- Words that came for a mover are written on the engine side once every request before them has completed: in ascending order (R417). -/
def movFlush (s : State) (m : Fin 256) : State :=
  let due := ((mov s m).held.filter fun h => !movBefore s m h.1).mergeSort fun a b => decide (a.1 ≤ b.1)
  let u := updMov (cmSettle s (movCluster m)) m fun r => { r with held := r.held.filter fun h => movBefore s m h.1 }
  due.foldl (fun u h =>
    (((List.range h.2.1).map fun j => ((md s m 0).toNat + h.1 + j, viewWord (mdPacked s m) h.2.2 j)).foldl (movWriteWord m) (u, false)).1) u

/-- An accepted completion of a mover's request of `n` words from word `i` (R417, R418). -/
def movDone (s : State) (m : Fin 256) (i n : Nat) (t : Txn) (f : Findings) : State :=
  let s :=
    if t.err then
      if (mov s m).bus.isSome then s
      else updMov (recordErr s (.ncm m) 0x82 contained t.attr (t.req.addr % 2 ^ 32) t.attr.did) m fun r => { r with bus := some t.req.addr }
    else if t.req.op = .read then updMov s m fun r => { r with held := r.held ++ [(i, n, t.rdata)] }
    else s
  movPump (if t.req.op = .read then movFlush s m else s) m f

end Sys2Proof.Machine
end

