-- ==== Sys2Proof/Machine/NgCtl.lean ====
section
/-!
DEFINITION. Machine/NgCtl.lean: the control words of an engine (R344, R378 to R395, R412, R415, R420 to R422), thread control, the
engine page, and the rows of the event unit.
-/

namespace Sys2Proof.Machine

/-! ## Check-value unit (R420, R421) -/

/-- One bit fed. -/
def cvBit (w poly val : Nat) (b : Bool) : Nat :=
  let fb := b != val.testBit (w - 1)
  let v := val * 2 % 2 ^ w
  if fb then Nat.xor v (poly % 2 ^ w) else v

/-- The width of a configuration word. -/
def cvWidth (cfg : Word18) : Nat := fld cfg 0 5 + 1

/-- A feed of `n` bits of `x` (R421). -/
def cvFeed (c : CvUnit) (n x : Nat) : CvUnit :=
  let bits := (List.range n).map fun j => x.testBit (if bit c.cfg 5 then j else n - 1 - j)
  { c with val := bits.foldl (cvBit (cvWidth c.cfg) c.poly) c.val }

/-- Feeds that take effect by the end of a tick applied, in issue order (R350): one issued later never goes before one issued earlier. (DEDUCED, log 83) -/
def cvSettle (c : CvUnit) (tick : Nat) : CvUnit :=
  let due := fun (f : Nat × Nat × Nat) => decide (f.1 ≤ tick)
  (c.feeds.takeWhile due).foldl (fun c f => cvFeed c f.2.1 f.2.2) { c with feeds := c.feeds.dropWhile due }

/-- RES (R421). -/
def cvRes (c : CvUnit) : Nat :=
  let w := cvWidth c.cfg
  Nat.xor (if bit c.cfg 6 then reflectN w c.val else c.val) (if bit c.cfg 7 then 2 ^ w - 1 else 0)

/-- The low or high word of a value of 32 bits. -/
def cvHalf (x : Nat) (hi : Bool) : Word18 := BitVec.ofNat 18 (if hi then x / 2 ^ 18 % 2 ^ 14 else x % 2 ^ 18)

/-- A word of the unit as it reads. -/
def cvRead (c : CvUnit) (k : Nat) : Word18 :=
  match k with
  | 0 => c.cfg
  | 1 => cvHalf c.poly false
  | 2 => cvHalf c.poly true
  | 3 => cvHalf c.init false
  | 4 => cvHalf c.init true
  | 5 => cvHalf c.val false
  | 6 => cvHalf c.val true
  | 7 => cvHalf (cvRes c) false
  | 8 => cvHalf (cvRes c) true
  | _ => 0

/-- A value of width `w` with one of its words replaced. -/
def cvPut (w old : Nat) (hi : Bool) (v : Word18) : Nat :=
  (if hi then old % 2 ^ 18 + fld v 0 14 * 2 ^ 18 else old / 2 ^ 18 * 2 ^ 18 + v.toNat) % 2 ^ w

/-- A word of the unit written; none for a value that R422 refuses. -/
def cvWrite (c : CvUnit) (k : Nat) (v : Word18) : Option CvUnit :=
  let w := cvWidth c.cfg
  match k with
  | 0 =>
    if fld v 0 5 < 2 then none
    else
      let w := cvWidth v
      some { c with cfg := v &&& 0xFF, poly := c.poly % 2 ^ w, init := c.init % 2 ^ w, val := c.val % 2 ^ w }
  | 1 => some { c with poly := cvPut w c.poly false v }
  | 2 => some { c with poly := cvPut w c.poly true v }
  | 3 => some { c with init := cvPut w c.init false v }
  | 4 => some { c with init := cvPut w c.init true v }
  | 5 => some { c with val := cvPut w c.val false v }
  | 6 => some { c with val := cvPut w c.val true v }
  | 9 => some { c with val := c.init }
  | _ => some c

/-- A store to the unit at the end of a tick (R421, R422). -/
def cvStore (s : State) (e : Fin 512) (k : Nat) (v : Word18) (tick : Nat) : State :=
  match cvWrite (cvSettle (eng s e).cv tick) k v with
  | some c => updEng s e fun g => { g with cv := c }
  | none => recInternal s (.nce e) 0x83 (0o113000 + k)

/-! ## Thread control (R378 to R382) -/

/-- THR_CTRL written, with effect at the end of a tick (R378 to R382); RUN and STEP are ignored in a cluster that Marionette has
stopped (R553). (DEDUCED, log 56) -/
def thrCtrl (s : State) (e : Fin 512) (t : Fin 4) (v : Word18) (w : Nat) : State :=
  let th := thr s e t
  if th.st = 0 then
    if !engUp s ∨ !threadExists s e t ∨ (!bit v 0 ∧ !bit v 2) ∨ strStopped s (16 + e.val / 16) then s
    else
      let lead := if allHalted s e then 96 else 4
      let was := thrStat s e t w
      updThr s e t fun th => { th with
        st := if bit v 2 then 3 else 1, fault := 0, next := w + lead, dslot := none, entered := false, rete := none, statWas := some (w, was) }
  else if bit v 1 then
    waitHalt (updThr s e t fun th => { th with haltAt := some (match th.haltAt with
      | some x => min x w
      | none => w) }) e t
  else s

/-- THR_PC written, with effect at the end of a tick; only a HALTED thread takes it (R378, R379). -/
def pcPut (s : State) (e : Fin 512) (t : Fin 4) (v : Word18) (w : Nat) : State :=
  if (thr s e t).st = 0 then
    let was := thrPc s e t w
    updThr s e t fun th => { th with pc := v &&& 0o777776, pcWas := some (w, was) }
  else s

/-- ENG_MODE written, with effect at the end of a tick; TWO changes only while every thread is HALTED (R369, R379). -/
def engMode (s : State) (e : Fin 512) (v : Word18) (w : Nat) : State :=
  let halted := allHalted s e
  let was := modeWord s e w
  updEng s e fun g => { g with two := if halted then bit v 0 else g.two, clev := bit v 1, modeWas := some (w, was) }

/-! ## Event unit words (R386) -/

/-- What a store replaces, kept for the selections of the ticks before it (R389, R396). -/
def keepHist (g : NgEngine) (w a : Nat) (old : Word18) : NgEngine :=
  { g with hist := (w, a, old) :: g.hist.filter fun h => decide (w < h.1 + 8) }

/-- An event-unit word as it reads at the end of a tick. -/
def evRead (s : State) (e : Fin 512) (o tick : Nat) : Word18 :=
  if o < 0o100 then SMap.get 0 (eng s e).evmap o
  else if tellsPending o then pendWord s e o tick
  else if 0o200 ≤ o ∧ o < 0o220 then (if o % 4 = 0 then 0 else SMap.get 0 (eng s e).evvec (o - 0o200))
  else if 0o300 ≤ o ∧ o < 0o340 then
    let t := Fin.ofNat 4 ((o - 0o300) / 8)
    let l := o % 8 / 2
    if l = 0 then 0 else if o % 2 = 0 then SMap.get 0 (thr s e t).spc l else SMap.get 0 (thr s e t).sst l
  else if 0o500 ≤ o ∧ o < 0o510 then
    let th := thr s e (Fin.ofNat 4 ((o - 0o500) / 2))
    if o % 2 = 0 then th.tcmpL else th.tcmpH
  else 0

/-- A time match that is due up to tick `w` is made before a compare word changes at its end (R395). -/
def matchUpTo (s : State) (e : Fin 512) (t : Fin 4) (w : Nat) : State :=
  match matchTick (thr s e t) with
  | some m => if m ≤ w then setSource (updThr s e t fun th => { th with armed := none }) e (52 + t.val) m else s
  | none => s

/-- TCMPL written at the end of a tick: the match is disarmed (R386, R395). -/
def tcmpLow (s : State) (e : Fin 512) (t : Fin 4) (v : Word18) (w : Nat) : State :=
  updThr (matchUpTo s e t w) e t fun th => { th with tcmpL := v, armed := none }

/-- TCMPH written at the end of a tick: the match is armed (R386, R395). -/
def tcmpHigh (s : State) (e : Fin 512) (t : Fin 4) (v : Word18) (w : Nat) : State :=
  updThr (matchUpTo s e t w) e t fun th => { th with tcmpH := v, armed := some w }

/-- An event-unit word written at the end of a tick. -/
def evWrite (s : State) (e : Fin 512) (o : Nat) (v : Word18) (w : Nat) : State :=
  if o < 0o100 then
    updEng s e fun g => { keepHist g w (0o111000 + o) (SMap.get 0 g.evmap o) with evmap := SMap.set 0 g.evmap o (v &&& 0x1F) }
  else if o < 0o104 then
    (List.range 16).foldl (fun s j => if bit v j then clearSource s e (16 * (o - 0o100) + j) w else s) s
  else if 0o200 ≤ o ∧ o < 0o220 then
    if o % 4 = 0 then s
    else
      updEng s e fun g => { keepHist g w (0o111000 + o) (SMap.get 0 g.evvec (o - 0o200)) with
        evvec := SMap.set 0 g.evvec (o - 0o200) (v &&& 0o777774) }
  else if 0o300 ≤ o ∧ o < 0o340 then
    let t := Fin.ofNat 4 ((o - 0o300) / 8)
    let l := o % 8 / 2
    if l = 0 then s
    else updThr s e t fun th =>
      if o % 2 = 0 then { th with spc := SMap.set 0 th.spc l (v &&& 0o777776) } else { th with sst := SMap.set 0 th.sst l v }
  else if 0o500 ≤ o ∧ o < 0o510 then
    let t := Fin.ofNat 4 ((o - 0o500) / 2)
    if o % 2 = 0 then tcmpLow s e t v w else tcmpHigh s e t v w
  else s

/-! ## Control words as LD and ST reach them -/

/-- An engine's access to a mover's words fails the owner check (R419). -/
def mvForeign (s : State) (e : Fin 512) (m : Fin 256) : Bool := owner s (.nce e) ≠ owner s (.ncm m)

/-- The mover of a word of the descriptor range. -/
def movOfWord (e : Fin 512) (o : Nat) : Fin 256 := Fin.ofNat 256 (8 * (e.val / 16) + o / 8)

/-- What an LD of a control word reads in tick `j`, and what the read does (R344, R419). -/
def ctlRead (s : State) (e : Fin 512) (a j : Nat) : State × Word18 :=
  let o := a - 0o110000
  if o < 0o100 then
    let t := Fin.ofNat 4 (o / 0o20)
    (s, match o % 0o20 with
      | 1 => thrStat s e t j
      | 2 => thrPc s e t j
      | 3 => (thr s e t).fpc
      | _ => 0)
  else if o = 0o100 then (s, modeWord s e j)
  else if o < 0o1000 then (s, 0)
  else if o < 0o2000 then (s, evRead s e (o - 0o1000) (j - 1))
  else if o < 0o2020 then (s, if o % 4 = 3 then 0 else SMap.get 0 (thr s e (Fin.ofNat 4 ((o - 0o2000) / 4))).fwb (o % 4))
  else if o < 0o3000 then (s, 0)
  else if o < 0o3012 then (s, cvRead (cvSettle (eng s e).cv (j - 1)) (o - 0o3000))
  else if o < 0o4000 then (s, 0)
  else if o < 0o4100 then
    let m := movOfWord e (o - 0o4000)
    if mvForeign s e m then (recInternal s (.nce e) 0x87 a, 0) else (s, movRead s m (o % 8))
  else (s, 0)

/-- What an ST of a control word does at the end of tick `w` (R344, R379, R412, R419, R421). -/
def ctlWrite (s : State) (e : Fin 512) (a : Nat) (v : Word18) (w : Nat) : State :=
  let o := a - 0o110000
  if o < 0o100 then
    let t := Fin.ofNat 4 (o / 0o20)
    match o % 0o20 with
    | 0 => thrCtrl s e t v w
    | 2 => pcPut s e t v w
    | _ => s
  else if o = 0o100 then engMode s e v w
  else if o < 0o1000 then s
  else if o < 0o2000 then evWrite s e (o - 0o1000) v w
  else if o < 0o2020 then
    if o % 4 = 3 then s
    else updThr s e (Fin.ofNat 4 ((o - 0o2000) / 4)) fun th =>
      { th with fwb := SMap.set 0 th.fwb (o % 4) (if o % 4 = 2 then v &&& 0x1FF else v) }
  else if o < 0o3000 then s
  else if o < 0o3012 then cvStore s e (o - 0o3000) v w
  else if o < 0o4000 then s
  else if o < 0o4100 then
    let m := movOfWord e (o - 0o4000)
    if mvForeign s e m then recInternal s (.nce e) 0x87 a else movWrite s m (o % 8) v a []
  else s

/-! ## The engine page (R397) -/

/-- The thread of a thread register of the engine page, and which of its four it is. -/
def nceThread (off : Nat) : Option (Fin 4 × Nat) :=
  if 0x040 ≤ off ∧ off < 0x080 then some (Fin.ofNat 4 ((off - 0x040) / 16), off % 16 / 4) else none

/-- What a register of the engine page reads, where it is not a stored value. -/
def nceRead (s : State) (e : Fin 512) (off : Nat) : Option Nat :=
  match nceThread off with
  | some (t, k) => some (match k with
    | 1 => (thrStat s e t s.dt).toNat
    | 2 => (thrPc s e t s.dt).toNat
    | 3 => (thr s e t).fpc.toNat
    | _ => 0)
  | none => if off = 0x080 then some (modeWord s e s.dt).toNat else none

/-- A write through the engine page that is rejected (R397). -/
def nceReject (s : State) (e : Fin 512) (off : Nat) (v : Reg32) : Option Nat :=
  match nceThread off with
  | some (t, 0) => if !threadExists s e t && (bit v 0 || bit v 2) then some 0x82 else none
  | some (t, 2) => if haltedAt s e t s.dt then none else some 0x82
  | _ => if off = 0x080 ∧ bit v 0 ≠ (eng s e).two ∧ !allHaltedAt s e s.dt then some 0x82 else none

/-- A write through the engine page (R379, R397): it takes effect 2 to 3 ticks after it. The words of an engine that Sage
has not released stay at their reset values (R102). (DESIGN CHOICE, log 84) -/
def nceWrite (s : State) (e : Fin 512) (off : Nat) (v : Reg32) : Option State :=
  let f := freeVal 1 s
  let w := s.dt + 2 + f.1
  match nceThread off with
  | some (t, 0) => some (thrCtrl f.2 e t (v.truncate 18) w)
  | some (t, 2) => some (if engUp s then pcPut f.2 e t (v.truncate 18) w else s)
  | some _ => some s
  | none => if off = 0x080 then some (if engUp s then engMode f.2 e (v.truncate 18) w else s) else none

/-- The mover page (R426). -/
def ncmRead (s : State) (m : Fin 256) (off : Nat) : Option Nat :=
  if 0x040 ≤ off ∧ off < 0x060 then some (movRead s m ((off - 0x040) / 4)).toNat else none

/-- A write of a descriptor register (R426). -/
def ncmWrite (s : State) (m : Fin 256) (off : Nat) (v : Reg32) (f : Findings) : Option State :=
  if 0x040 ≤ off ∧ off < 0x060 then some (movWrite s m ((off - 0x040) / 4) (v.truncate 18) off f) else none

/-! ## Rows of thread control and the event unit -/

/-- THREAD_HALT_APPLIED (R381, R396): at a boundary the halt comes before a selected entry, and a RETE has made its plain
restore. -/
def execThreadHaltApplied (e : Fin 512) (t : Fin 4) (s : State) : Result :=
  .next (let th := thr s e t
    if (th.st = 1 ∨ th.st = 3) ∧ th.dslot.isNone ∧ !th.entered ∧ haltDue th (nextSlot s e t) then
      updThr s e t fun th => haltThread th
    else s)

/-- The level to enter by tail re-entry, where SPC and SST of the level left move, or by a plain entry (R390, R393); device time goes on
over the tick in which it is selected. (DEDUCED, log 57) -/
def execEventEntry (e : Fin 512) (t : Fin 4) (s : State) : Result :=
  .next (let th := thr s e t
    let i := nextSlot s e t
    let u := advanceTo (selectState s e i) (i - 2)
    if !engUp s ∨ !threadExists s e t ∨ blkBusy s (.nce e) ∨ ¬(th.st = 1 ∨ th.st = 3) ∨ th.dslot.isSome ∨ th.entered ∨ haltDue th i ∨ cmDue s e i ∨ matchDue s e i then s
    else match selectLevel u e t i with
      | none => s
      | some l =>
        let th := settlePrds (thr u e t) i
        match th.rete with
        | some q => enterNg (updThr u e t fun _ => { th with active := dropLevel th.active q }) e t l i (SMap.get 0 th.spc q) (SMap.get 0 th.sst q) th.sw
        | none => enterNg (updThr u e t fun _ => th) e t l i th.pc th.sw th.sw)

/-- NG_WAIT_END (R394): a deliverable level is entered, or the instruction after WAIT issues; the cells of the cluster have done what is on
its way for the next tick, and device time goes on over the tick in which the level is selected. -/
def execNgWaitEnd (e : Fin 512) (t : Fin 4) (s : State) : Result :=
  .next (if (thr s e t).st ≠ 2 then s
    else match waitEnd (cellsAt s e (s.dt + 2)) e t with
      | none => s
      | some x =>
        if haltDue (thr s e t) x then updThr s e t haltThread
        else if matchDue s e x then s
        else
          let s := advanceTo (selectState s e x) (x - 2)
          let s := updThr s e t fun th => { th with st := 1, next := x }
          match selectLevel s e t x with
          | some l =>
            let s := updThr s e t fun th => settlePrds th x
            enterNg s e t l x (thr s e t).pc (thr s e t).sw (thr s e t).sw
          | none => s)

/-- TCMP_ARM: the store of TCMPH takes effect at the end of the present tick (R386, R395). -/
def execTcmpArm (e : Fin 512) (t : Fin 4) (v : Word18) (s : State) : Result :=
  .next (if engUp s then tcmpHigh s e t v s.dt else s)

/-- TCMP_DISARM (R386). -/
def execTcmpDisarm (e : Fin 512) (t : Fin 4) (v : Word18) (s : State) : Result :=
  .next (if engUp s then tcmpLow s e t v s.dt else s)

/-- TIME_MATCH (R395): source 52 + t becomes pending and the match is disarmed. -/
def execTimeMatch (e : Fin 512) (t : Fin 4) (s : State) : Result :=
  .next (if !engUp s then s else match matchTick (thr s e t) with
    | some m => setSource (updThr (advanceTo s m) e t fun th => { th with armed := none }) e (52 + t.val) m
    | none => s)

/-- CV_LOAD: VAL := INIT (R420). -/
def execCvLoad (e : Fin 512) (v : Word18) (s : State) : Result := .next (if engUp s then cvStore s e 9 v s.dt else s)

/-- CV_CFG_WRITE (R420, R422). -/
def execCvCfgWrite (e : Fin 512) (v : Word18) (s : State) : Result := .next (if engUp s then cvStore s e 0 v s.dt else s)

/-! ## Engine reset (R319, R384) -/

/-- An engine reset (R384): threads, event, base and check-value words; local memory and mover words stay. Requests of the
engine that have not entered the fabric go with their queues, and cluster accesses whose tick has not come (R401, R424). -/
def resetEngine (s : State) (e : Fin 512) : State :=
  let mine := fun (x : Txn) => decide (x.req.master = .engine e)
  let s := cmSettle s (clusterOf e)
  let s := { s with fab := { s.fab with txns := s.fab.txns.filter fun x => !(mine x && (decide (x.status = TxStatus.posted) || decide (x.status = TxStatus.waitCredit))) } }
  let s := { s with tyl := { s.tyl with rwq := SMap.set [] s.tyl.rwq e [], prds := s.tyl.prds.filter fun x => decide (x.e ≠ e.val) } }
  updEng s e fun g => { lm := g.lm, lmBad := g.lmBad, lmCe := g.lmCe, zero := g.zero }

end Sys2Proof.Machine
end

