-- ==== Sys2Proof/Machine/NgMem.lean ====
section
/-!
DEFINITION. Machine/NgMem.lean: the addressed instructions of the engines (R339 to R349, R401, R402, R409, R412), unallocated
encodings (R325), and the steps that finish what they start.
-/

namespace Sys2Proof.Machine

/-! ## Addressing modes (R339) -/

/-- circ of R339. -/
def circ (x m l : Word18) : Word18 :=
  if l = 0 then x + m
  else
    let k := ((List.range 19).find? fun k => l.toNat ≤ 2 ^ k).getD 18
    let base := x.toNat / 2 ^ k * 2 ^ k
    let t : Int := (x.toNat % 2 ^ k : Nat) + m.toInt
    let u := if (l.toNat : Int) ≤ t then t - l.toNat else if t < 0 then t + l.toNat else t
    w18 (base + u)

/-- The effective address and the base update of a mode. -/
def ngEa (th : NgThread) (mode : Fin 6) (a : Fin 16) (imm : Word18) : Word18 × Option Word18 :=
  let x := ngReg th a
  let m := SMap.get 0 th.m (a.val - 8)
  let l := SMap.get 0 th.l (a.val - 8)
  match mode with
  | 0 => (x + imm, none)
  | 1 => (x + imm, some (x + imm))
  | 2 => (x, some (x + imm))
  | 3 => (x, some (x + m))
  | 4 => (x, some (circ x m l))
  | 5 => (x, some (circ x imm l))

/-- The constraints of the modes (R339). -/
def modeRsvd (mode : Fin 6) (a : Fin 16) (imm : Word18) : Bool :=
  (decide (3 ≤ mode.val) && (decide (a.val < 8) || decide (12 ≤ a.val))) || ((mode = 3 || mode = 4) && imm ≠ 0)

/-- The base update of an instruction that issued in tick `i` (R376). -/
def baseUpdate (th : NgThread) (i : Nat) (a : Fin 16) (u : Option Word18) : NgThread :=
  match u with
  | some v => ngWrite th (i + 3) a v false
  | none => th

/-- The tick at whose end a load issued in tick `i` writes (R376). -/
def loadDue (s : State) (e : Fin 512) (i : Nat) : Nat := if (eng s e).two then i + 7 else i + 11

/-- An addressed instruction: `body` sees the effective address; the base is updated unless it faults. -/
def ngAddr (e : Fin 512) (t : Fin 4) (slots : Nat) (rsvd : Bool) (mode : Fin 6) (a : Fin 16) (imm : Word18)
    (body : State → Nat → Nat → NgRes) : State → Result :=
  ngInstr e t slots false (rsvd || modeRsvd mode a imm) fun s i =>
    let ea := ngEa (thr s e t) mode a imm
    match body s i ea.1.toNat with
    | .ok s n => .ok (updThr s e t fun th => baseUpdate th i a ea.2) n
    | r => r

/-! ## Local memory and control words (R341 to R344) -/

/-- The write of a load of a control word at `ea` that has read `v`; one of pending sources is read at the end of tick `j`, as they then are
known (R386). -/
def ctlLoad (th : NgThread) (due : Nat) (d : Fin 16) (ea j : Nat) (v : Word18) : NgThread :=
  let o := ea - 0o111000
  let late := decide (0o111000 ≤ ea) && tellsPending o
  { th with pend := th.pend ++ [{ due := due, reg := d.val % 16, val := v, load := true, ev := if late then some (o, j) else none }] }

/-- LD, LDD and LDQ: `n` words. `ecc` is what SECDED finds on the words read: 0 good, 1 corrected, 2 uncorrectable. -/
def ngLoad (e : Fin 512) (t : Fin 4) (n : Nat) (d : Fin 16) (mode : Fin 6) (a : Fin 16) (imm : Word18) (ecc : Fin 3) : State → Result :=
  ngAddr e t 2 (decide (d.val % n ≠ 0)) mode a imm fun s i ea =>
    if ea % n ≠ 0 then .fault 5
    else if ea < 0o100000 then
      let r := lmFinding s e ea n ecc
      if !r.2 then .stopped r.1
      else
        let vs := (List.range n).map fun k => (k, lmWord r.1 e (ea + k))
        .ok (updThr r.1 e t fun th => vs.foldl (fun th p => ngWrite th (loadDue s e i) (d.val + p.1) p.2 true) th) .seq
    else if n = 1 ∧ 0o110000 ≤ ea ∧ ea < 0o115000 then
      let r := ctlRead s e ea (i + 2)
      .ok (updThr r.1 e t fun th => ctlLoad th (loadDue s e i) d ea (i + 1) r.2) .seq
    else .fault 4

/-- ST, STD and STQ: `n` words. -/
def ngStore (e : Fin 512) (t : Fin 4) (n : Nat) (d : Fin 16) (mode : Fin 6) (a : Fin 16) (imm : Word18) : State → Result :=
  ngAddr e t 2 (decide (d.val % n ≠ 0)) mode a imm fun s i ea =>
    let th := thr s e t
    if ea % n ≠ 0 then .fault 5
    else if ea < 0o100000 then
      .ok ((List.range n).foldl (fun s k => setLm s e (ea + k) (ngReg th (d.val + k))) s) .seq
    else if n = 1 ∧ 0o110000 ≤ ea ∧ ea < 0o115000 then .ok (ctlWrite s e ea (ngReg th d) (i + 2)) .seq
    else .fault 4

/-- NG_LD (R342). -/
def execNgLd (e : Fin 512) (t : Fin 4) (d : Fin 16) (mode : Fin 6) (a : Fin 16) (imm : Word18) (ecc : Fin 3) : State → Result :=
  ngLoad e t 1 d mode a imm ecc
/-- NG_LDD (R342). -/
def execNgLdd (e : Fin 512) (t : Fin 4) (d : Fin 16) (mode : Fin 6) (a : Fin 16) (imm : Word18) (ecc : Fin 3) : State → Result :=
  ngLoad e t 2 d mode a imm ecc
/-- NG_LDQ (R342). -/
def execNgLdq (e : Fin 512) (t : Fin 4) (d : Fin 16) (mode : Fin 6) (a : Fin 16) (imm : Word18) (ecc : Fin 3) : State → Result :=
  ngLoad e t 4 d mode a imm ecc
/-- NG_ST (R342). -/
def execNgSt (e : Fin 512) (t : Fin 4) (d : Fin 16) (mode : Fin 6) (a : Fin 16) (imm : Word18) : State → Result :=
  ngStore e t 1 d mode a imm
/-- NG_STD (R342). -/
def execNgStd (e : Fin 512) (t : Fin 4) (d : Fin 16) (mode : Fin 6) (a : Fin 16) (imm : Word18) : State → Result :=
  ngStore e t 2 d mode a imm
/-- NG_STQ (R342). -/
def execNgStq (e : Fin 512) (t : Fin 4) (d : Fin 16) (mode : Fin 6) (a : Fin 16) (imm : Word18) : State → Result :=
  ngStore e t 4 d mode a imm

/-! ## Cluster memory (R345, R400 to R403, R409) -/

/-- The first table tick of a thread at or after tick `x` (R400). -/
def tableFrom (s : State) (e : Fin 512) (t : Fin 4) (x : Nat) : Nat :=
  let own := fun d => d % 64 / 4 = e.val % 16 && d % (slotPeriod s e) = t.val
  ((List.range 64).map (x + ·)).find? own |>.getD x

/-- LDC and STC: the access is claimed for the thread's table tick; a second claim while one waits is refused (R401, R402). (DEDUCED, log 58) -/
def ngClaim (e : Fin 512) (t : Fin 4) (st : Bool) (d : Fin 16) (mode : Fin 6) (a : Fin 16) (imm : Word18) : State → Result :=
  ngAddr e t 2 false mode a imm fun s i ea =>
    if ea < 0o200000 ∨ 0o600000 ≤ ea then .fault 4
    else
      let c := ea - 0o200000
      if (thr s e t).cma.isSome then .ok (recContained s (.nce e) 0x84 c) .seq
      else
        let x := tableFrom s e t (i + 2)
        .ok (updThr s e t fun th => { th with cma := some { tick := x, c := c, st := if st then some (ngReg th d) else none, reg := d } }) .seq

/-- NG_LDC (R345, R401). (DEDUCED, log 58) -/
def execNgLdc (e : Fin 512) (t : Fin 4) (d : Fin 16) (mode : Fin 6) (a : Fin 16) (imm : Word18) : State → Result :=
  ngClaim e t false d mode a imm
/-- NG_STC (R345, R401). -/
def execNgStc (e : Fin 512) (t : Fin 4) (d : Fin 16) (mode : Fin 6) (a : Fin 16) (imm : Word18) : State → Result :=
  ngClaim e t true d mode a imm

/-- An earlier access of the cluster still waits (R403). -/
def cmEarlier (s : State) (k : Fin 32) (tick : Nat) : Bool :=
  (List.range 16).any fun j => [0, 1, 2, 3].any fun (t : Fin 4) =>
    match (thr s (Fin.ofNat 512 (16 * k.val + j)) t).cma with
    | some x => decide (x.tick < tick)
    | none => false

/-- CLUSTER_MEMORY_ACCESS (R401, R403, R409): the access of a thread is made in its table tick. -/
def execClusterMemoryAccess (e : Fin 512) (t : Fin 4) (ecc : Fin 3) (s : State) : Result :=
  .next (if !engUp s then s else match (thr s e t).cma with
    | none => s
    | some x =>
      let k := clusterOf e
      if cmEarlier s k x.tick then s else cmAccess (advanceTo s x.tick) e t x ecc)

/-! ## Fabric window (R37, R346, R412) -/

/-- The base of a thread's fabric window (R412). -/
def fwBase (th : NgThread) : Nat :=
  64 * ((SMap.get 0 th.fwb 0).toNat + (SMap.get 0 th.fwb 1).toNat * 2 ^ 18 + fld (SMap.get 0 th.fwb 2) 0 6 * 2 ^ 36)

/-- The request for window word `j` (R37, R38, R413). -/
def fwReq (s : State) (e : Fin 512) (t : Fin 4) (op : ReqOp) (j : Nat) (v : Word18) : FReq × Attr :=
  let th := thr s e t
  let w2 := SMap.get 0 th.fwb 2
  let a := engAttr s e (fld w2 7 2)
  let cls := Fin.ofNat 4 a.cls
  if bit w2 6 then
    ({ master := .engine e, op := op, addr := (fwBase th + 16 * (j / 7)) % 2 ^ 48, len := 16, be := 2 ^ 16 - 1,
       data := v.toNat * 2 ^ (18 * (j % 7)), cls := cls, pid := a.pid, pos := some (Fin.ofNat 7 (j % 7)) }, a)
  else
    ({ master := .engine e, op := op, addr := (fwBase th + 4 * j) % 2 ^ 48, len := 4, be := 15, data := looseWord v,
       cls := cls, pid := a.pid }, a)

/-- NG_FRD (R346). -/
def execNgFrd (e : Fin 512) (t : Fin 4) (mode : Fin 6) (a : Fin 16) (imm : Word18) : State → Result :=
  ngAddr e t 1 false mode a imm fun s _ ea =>
    if ea < 0o600000 then .fault 4
    else if 4 ≤ (thr s e t).rq.length then .fault 9
    else
      let q := fwReq s e t .read (ea - 0o600000) 0
      let id := s.fab.nextId
      let s := addTxn s { id := id, req := q.1, attr := q.2, lvl := 0, purp := .frd t.val ((q.1.pos.map Fin.val).getD 7), status := .posted }
      .ok (updThr s e t fun th => { th with rq := th.rq ++ [{ id := id }] }) .seq

/-- NG_FWR (R346). -/
def execNgFwr (e : Fin 512) (t : Fin 4) (d : Fin 16) (mode : Fin 6) (a : Fin 16) (imm : Word18) : State → Result :=
  ngAddr e t 1 false mode a imm fun s _ ea =>
    if ea < 0o600000 then .fault 4
    else if 4 ≤ postedWrites s e t then .fault 10
    else
      let q := fwReq s e t .write (ea - 0o600000) (ngReg (thr s e t) d)
      .ok (addTxn s { id := 0, req := q.1, attr := q.2, lvl := 0, purp := .fwr t.val, status := .posted }) .seq

/-- An accepted completion of an FRD (R346, R386): its entry is ready; a ready head makes source 48 + t pending. -/
def frdDone (s : State) (e : Fin 512) (t : Fin 4) (x : Txn) (slot : Nat) : State :=
  let v : Word18 := if x.err then 0 else if slot = 7 then BitVec.ofNat 18 x.rdata else viewWord true x.rdata slot
  let s := updThr s e t fun th => { th with rq := th.rq.map fun r =>
    if r.id = x.id then { r with ready := true, val := v, err := x.err, tick := s.dt } else r }
  if (((thr s e t).rq.head?.map RqEnt.id) == some x.id) then setSource s e (48 + t.val) s.dt else s

/-- An accepted completion of an FWR (R413). -/
def fwrDone (s : State) (e : Fin 512) (x : Txn) : State :=
  if x.err then setIrq (recordErr s (.nce e) 0x86 contained x.attr (x.req.addr % 2 ^ 32) x.attr.did) (.nce e) 0x100 else s

/-! ## Port slots (R348, R349, R459 to R464) -/

/-- Where a remote slot's group stands: the page of its bank and which of its three groups it is (R459). -/
def rgPage (r : Nat) : Page × Nat := (.pb (Fin.ofNat 16 (r / 16 / 3)), r / 16 % 3)

/-- A field of the map of a remote cell's group. (DEDUCED, log 63) -/
def rgMap (s : State) (r lo n : Nat) : Nat := rdF s (rgPage r).1 (0x080 + 8 * (rgPage r).2) lo n

/-- The link is up (R494). -/
def tylUp (s : State) : Bool := rdF s .tylw 0x044 0 2 = 2

/-- Why an access to a remote cell is refused (R464). (DEDUCED, log 60) -/
def rgDeny (s : State) (e : Fin 512) (r : Nat) : Option Nat :=
  let p := rgPage r
  if rgMap s r 0 1 = 0 then some 0x83
  else if rdF s p.1 (0x084 + 8 * p.2) 0 6 ≠ owner s (.nce e) then some 0x84
  else if !tylUp s ∨ s.tyl.changed.contains (rgMap s r 1 6) then some 0x85
  else none

/-- A refused access to a remote cell recorded, raised to the engine's DID (R464). -/
def rgRecord (s : State) (e : Fin 512) (r code : Nat) : State :=
  recordErr s (rgPage r).1 code contained (engAttr s e 0) (r + (0x100 + e.val) * 2 ^ 16) (owner s (.nce e))

/-- The slot and word of an effective address in the port range; none for a reserved slot (R112, R341). -/
def portSlot (ea : Nat) : Option (Nat × Nat) :=
  let sl := (ea - 0o100000) / 4
  if ea < 0o100000 ∨ 0o110000 ≤ ea ∨ (8 ≤ sl ∧ sl < 256) then none else some (sl, ea % 4)

/-- A slot access of a thread put on its way to a local cell: it acts in the E stage of an instruction issued in tick `i` (R348). -/
def slotSend (s : State) (e : Fin 512) (t : Fin 4) (sl w i : Nat) (v : Option Word18) : State :=
  updCell s (slotCell e (Fin.ofNat 8 sl)) fun c => { c with due := c.due ++ [{ tick := i + 2, e := e, t := t, word := w, wr := v }] }

/-- NG_PRD (R348, R349, R461). (DEDUCED, log 60) -/
def execNgPrd (e : Fin 512) (t : Fin 4) (d : Fin 16) (mode : Fin 6) (a : Fin 16) (imm : Word18) : State → Result :=
  ngAddr e t 2 false mode a imm fun s i ea =>
    match portSlot ea with
    | none => .fault 4
    | some (sl, w) =>
      if sl < 8 then
        .ok (updThr (slotSend s e t sl w i none) e t fun th =>
          { th with pend := th.pend ++ [{ due := loadDue s e i, reg := d.val % 16, val := 0, load := true, prd := true }] }) .seq
      else
        let r := sl - 256
        let due := i + rgMap s r 12 12
        match rgDeny s e r with
        | some code =>
          .ok (updThr (rgRecord s e r code) e t fun th => { th with prds := th.prds ++ [{ id := 0, reg := d, due := due }] }) .seq
        | none =>
          let id := s.tyl.nextId + 1
          let s := { s with tyl := { s.tyl with nextId := id, prds := s.tyl.prds ++ [{ id := id, e := e, t := t, cell := r, word := w }] } }
          .ok (updThr s e t fun th => { th with prds := th.prds ++ [{ id := id, reg := d, due := due }] }) .seq

/-- NG_PWR (R348, R349, R462). -/
def execNgPwr (e : Fin 512) (t : Fin 4) (d : Fin 16) (mode : Fin 6) (a : Fin 16) (imm : Word18) : State → Result :=
  ngAddr e t 1 false mode a imm fun s i ea =>
    let v := ngReg (thr s e t) d
    match portSlot ea with
    | none => .fault 4
    | some (sl, w) =>
      if sl < 8 then .ok (slotSend s e t sl w i (some v)) .seq
      else
        let r := sl - 256
        match rgDeny s e r with
        | some code => .ok (rgRecord s e r code) .seq
        | none =>
          let q := SMap.get [] s.tyl.rwq e
          if 8 ≤ q.length then .fault 10
          else .ok { s with tyl := { s.tyl with rwq := SMap.set [] s.tyl.rwq e (q ++ [(r, w, v)]) } } .seq

/-! ## Unallocated encodings (R324 to R326) -/

/-- The bits of an engine encoding: f 1, d 2, a 4, b 8 of a set of fields, with the low `lo` to `hi` of ext. -/
def ngBits (fs : Nat) (lo hi : Nat) : Nat :=
  (if fs.testBit 0 then 2 ^ 29 else 0) + (if fs.testBit 1 then 15 * 2 ^ 25 else 0) + (if fs.testBit 2 then 15 * 2 ^ 21 else 0)
    + (if fs.testBit 3 then 15 * 2 ^ 14 else 0) + (2 ^ hi - 2 ^ lo)

/-- The must-be-0 bits of an opcode and minor (R326); none for an unallocated pair. -/
def ngMust (op minor : Nat) : Option Nat :=
  match op, minor with
  | 0o01, m => some (if m < 4 then ngBits 0 0 14 else ngBits 1 0 14)
  | 0o02, m => some (if m < 2 then ngBits 3 0 14 else if m < 4 then ngBits 1 0 14 else if m < 6 then ngBits 8 0 14 else ngBits 9 0 14)
  | 0o03, m => some (if m < 4 then ngBits 1 0 14 else ngBits 9 5 14)
  | 0o04, m => if m < 2 then some 0 else if m < 5 then some (ngBits 1 0 0) else if m = 5 then some (ngBits 3 0 0)
      else if m = 6 then some (ngBits 5 0 0) else none
  | 0o07, m => if m = 0 ∨ m = 4 then some (ngBits 15 0 14) else if m = 1 then some (ngBits 13 8 14) else if m = 2 then some (ngBits 11 8 14)
      else if m = 3 then some (ngBits 13 0 14) else none
  | 0o10, m => if m = 0 ∨ m = 3 then some (ngBits 0 0 14) else if m < 3 then some (ngBits 1 0 14) else none
  | 0o11, m => if m < 3 then some (ngBits 2 0 3) else none
  | 0o12, m => if m = 0 then some (ngBits 9 6 14) else if m = 1 then some (ngBits 11 0 14) else if m < 4 then some (ngBits 10 0 14) else none
  | 0o13, m => if m < 2 then some (ngBits 1 0 14) else if m = 2 then some (ngBits 5 0 14) else if m = 3 then some (ngBits 12 0 14) else none
  | 0o42, m => if m = 0 ∨ m = 1 ∨ m = 5 then some (ngBits 15 0 14) else if m = 2 then some (ngBits 11 6 14)
      else if m = 3 then some (ngBits 15 6 14) else if m = 4 then some (ngBits 13 0 14) else none
  | 0o43, m => if m < 3 then some (ngBits 11 0 14) else if m = 3 then some (ngBits 11 4 14) else none
  | 0o50, m => if m = 0 then some (ngBits 4 0 1) else none
  | 0o51, m => if m < 6 then some (ngBits 2 0 1) else none
  | 0o52, m => if m = 0 then some (ngBits 5 0 1) else none
  | 0o53, m => if m = 0 then some (ngBits 11 0 14) else if m = 1 then some (ngBits 9 0 14) else none
  | 0o54, m => if m = 0 then some (ngBits 1 0 1) else none
  | op, m =>
    if m < 6 ∧ ((0o20 ≤ op ∧ op < 0o30) ∨ op = 0o31 ∨ op = 0o40 ∨ op = 0o41) then some (ngBits 1 0 0)
    else if m < 6 ∧ op = 0o30 then some (ngBits 3 0 0)
    else none

/-- A field of an encoding holds a value that its instruction reserves (R325, R326, R339). -/
def ngReserved (x : BitVec 36) : Bool :=
  let op := fld x 30 6
  let m := fld x 18 3
  let d := fld x 25 4
  let a := fld x 21 4
  let addressed := decide (0o20 ≤ op ∧ op < 0o32) || op = 0o40 || op = 0o41
  (op = 0o03 && m = 7 && decide (18 ≤ fld x 0 5))
    || (op = 0o12 && ((m = 0 && (decide (2 ≤ a) || decide (44 ≤ fld x 0 6))) || (m = 1 && decide (3 ≤ a))
        || (decide (2 ≤ m) && decide (2 ≤ a))))
    || (op = 0o13 && d % 2 = 1)
    || ((op = 0o21 || op = 0o24) && d % 2 = 1)
    || ((op = 0o22 || op = 0o25) && d % 4 ≠ 0)
    || (addressed && decide (3 ≤ m) && (decide (a < 8) || decide (12 ≤ a)))
    || (addressed && (m = 3 || m = 4) && fld x 0 18 ≠ 0)
    || (op = 0o42 && m = 2 && (decide (fld x 0 6 < 32) || decide (48 ≤ fld x 0 6)))
    || (op = 0o42 && m = 3 && decide (57 ≤ fld x 0 6))
    || (op = 0o43 && m = 3 && (fld x 0 4 = 0 || decide (10 ≤ fld x 0 4)))
    || (op = 0o54 && decide (3 ≤ d))

/-- The fault that an encoding raises as such (R325): 1 UNDEF, 2 RSVD. -/
def ngEncFault (x : BitVec 36) : Option Nat :=
  match ngMust (fld x 30 6) (fld x 18 3) with
  | none => some 1
  | some m => if x.toNat &&& m ≠ 0 ∨ ngReserved x then some 2 else none

/-- NG_UNALLOCATED (R325): the two words of an encoding that R326 does not list, or that breaks a constraint. -/
def execNgUnallocated (e : Fin 512) (t : Fin 4) (x : BitVec 36) (s : State) : Result :=
  match ngEncFault x with
  | some code => ngInstr e t 1 false false (fun _ _ => .fault code) s
  | none => .next s

end Sys2Proof.Machine
end

