-- ==== Sys2Proof/Machine/IntCtl.lean ====
section
/-!
DEFINITION. Machine/IntCtl.lean: the interrupt controller (spec 16): messages, pending bits, hold-off groups, presented
priority, virtual delivery, private sources.
-/

namespace Sys2Proof.Machine

/-- A shared source number that R503 assigns to no sender. -/
def srcReserved (k : Nat) : Bool := (pageOfSource k).isNone || 2048 ≤ k

/-- The trigger of a shared source: MSI sources are edge sources (R503). -/
def srcEdge (k : Nat) : Bool := 1536 ≤ k

/-- The record of a shared source. -/
def srcRec (s : State) (k : Nat) : SrcRec := SMap.get {} s.ic.srcs k

/-- The record of a hold-off group. -/
def grpRec (s : State) (g : Nat) : GrpRec := SMap.get {} s.ic.grps g

/-- The DID of a source: OWNER of the page that sends it (R506). -/
def srcDid (s : State) (k : Nat) : Nat := ((pageOfSource k).map (owner s)).getD 0

/-- The generation of a source: GEN of the page that sends it (R506). -/
def srcGen (s : State) (k : Nat) : Nat := ((pageOfSource k).map (genOf s)).getD 0

/-- The group of a source does not hold it; group 0 never holds (R517). -/
def notHeld (s : State) (r : SrcRec) : Bool := r.group = 0 || (grpRec s r.group).state ≠ .holding

/-- A source that counts for its target: pending, enabled twice, of a priority other than 0, not held (R509, R510, R512). -/
def live (s : State) (r : SrcRec) : Bool := r.pend && r.en && r.localEn && r.pri ≠ 0 && notHeld s r

/-- The pending bit of private source `i` of core `n`; P0 follows the line of the core page (R507), and once cleared (R521) shows the line
again when it has fallen. (DEDUCED, log 70) -/
def privPend (s : State) (n : Fin 24) (i : Nat) : Bool :=
  if i = 0 then lineUp s (.wcc n) && !s.ic.p0off.contains n.val else rdB s (.icp n) (0x060 + 4 * i) 5

/-- The priority private source `i` of core `n` presents, 0 where it is not deliverable (R512). -/
def privPri (s : State) (n : Fin 24) (i : Nat) : Nat :=
  if privPend s n i && rdB s (.icp n) (0x060 + 4 * i) 4 then rdF s (.icp n) (0x060 + 4 * i) 0 4 else 0

/-- The private sources that exist: P3 and P12 to P15 are reserved (R507). -/
def privSources : List Nat := [0, 1, 2, 4, 5, 6, 7, 8, 9, 10, 11]

/-- The presented priority of a core (R512). -/
def presented (s : State) (n : Fin 24) : Nat :=
  let sh := s.ic.srcs.foldl (fun acc e => if live s e.2 && !e.2.virt && e.2.target = n.val then max acc e.2.pri else acc) 0
  privSources.foldl (fun acc i => max acc (privPri s n i)) sh

/-- VSUM of a domain (R519). -/
def vsum (s : State) (d : Nat) : Nat :=
  s.ic.srcs.foldl (fun acc e => if live s e.2 && e.2.virt && srcDid s e.1 = d then max acc e.2.pri else acc) 0

/-- The doorbell of a domain: P2 of DBCORE is set when DBEN is 1 (R519). -/
def ringDoorbell (s : State) (d : Nat) : State :=
  if rdB s .ictl (0x100 + 4 * d) 5 then
    match fin? 24 (rdF s .ictl (0x100 + 4 * d) 0 5) with
    | some n => wrB s (.icp n) (0x060 + 4 * 2) 5 true
    | none => s
  else s

/-- Groups with no pending source go to IDLE (R517). (DEDUCED, log 38) -/
def settleGroups (s : State) : State :=
  { s with ic := { s.ic with grps := s.ic.grps.filter fun e => s.ic.srcs.any fun r => r.2.group = e.1 && r.2.pend } }

/-- A change of the controller, then the groups settle and every domain whose VSUM changed rings its doorbell (R519). -/
def icDo (f : State → State) (s : State) : State :=
  let s' := settleGroups (f s)
  (List.range 64).foldl (fun t d => if vsum s d ≠ vsum s' d then ringDoorbell t d else t) s'

/-- The record of a source changed. -/
def updSrc (s : State) (k : Nat) (f : SrcRec → SrcRec) : State :=
  { s with ic := { s.ic with srcs := SMap.upd {} s.ic.srcs k f } }

/-- The record of a group set. -/
def setGrp (s : State) (g : Nat) (r : GrpRec) : State :=
  { s with ic := { s.ic with grps := SMap.set {} s.ic.grps g r } }

/-- A source of group `g` becomes pending (`fresh`) or is set again: the group's transitions (R517). (DEDUCED, log 38) -/
def groupEvent (s : State) (g : Nat) (fresh : Bool) : State :=
  if g = 0 then s else
    let r := grpRec s g
    let hold := rdF s .ictl (0x080 + 4 * g) 0 16
    let lim := rdF s .ictl (0x080 + 4 * g) 16 8
    match r.state with
    | .idle =>
      if !fresh then s
      else if hold = 0 then setGrp s g { state := .opened }
      else setGrp s g { state := if lim = 1 then .opened else .holding, deadline := s.dt + hold * 64, count := 1, limit := lim }
    | .holding =>
      let c := r.count + 1
      setGrp s g { r with count := c, state := if r.limit ≠ 0 && r.limit ≤ c then .opened else .holding }
    | .opened => s

/-- A source's pending bit is set by an accepted message (R508, R519). -/
def setPending (s : State) (k : Nat) (level : Bool) : State :=
  let r := srcRec s k
  let s := updSrc s k fun r => { r with pend := true, asserted := level || r.asserted }
  if !r.pend then groupEvent s r.group true else if level then s else groupEvent s r.group false

/-- A DEASSERT: a level source's pending bit falls; the virtual bit stays (R508, R519). -/
def clearLevel (s : State) (k : Nat) : State :=
  updSrc s k fun r => { r with asserted := false, pend := r.virt && r.pend }

/-- The oldest message of a source, if it is of this kind, and the queue without it (R31, R504). -/
def takeMsg (k : MsgKind) (src : Nat) : List IMsg → Option (IMsg × List IMsg)
  | [] => none
  | m :: r =>
    if m.src = src then (if m.kind = k then some (m, r) else none)
    else (takeMsg k src r).map fun x => (x.1, m :: x.2)

/-- The controller takes a message: one of another generation is counted in LATE and changes nothing else (R506). -/
def acceptMsg (s : State) (m : IMsg) (f : State → State) : State :=
  if m.gen = srcGen s m.src then icDo f s
  else setIrq (bumpF s .ictl 0x048 0 16 1) .ictl 2

/-- The message of a source that arrives: the oldest on its way. Where there is none, INTA to INTD are received: a root-complex
controller with its link up sends the message on, with the PCE page's OWNER and GEN (R503, R504). (DESIGN CHOICE, log 70) -/
def arrive (s : State) (k : MsgKind) (src : Nat) (f : State → State) : State :=
  match takeMsg k src s.ic.msgs with
  | some (m, r) => acceptMsg { s with ic := { s.ic with msgs := r } } m f
  | none =>
    if 1312 ≤ src ∧ src < 1328 ∧ k ≠ .edge then
      match pageOfSource src with
      | some p => if rdB s p 0x040 0 && !rdB s p 0x040 1 && rdF s p 0x044 0 2 = 2 && !blkBusy s p then sendMsg s p src k else s
      | none => s
    else s

/-! ## The register pages -/

/-- Whether a requester at level U or K sees a source through the ICP page of core `n` (R515). -/
def icpSees (s : State) (n : Fin 24) (priv : Bool) (k : Nat) : Bool := priv || srcDid s k = owner s (.icp n)

/-- The source belongs to the physical bitmap of core `n`. -/
def physOf (n : Fin 24) (r : SrcRec) : Bool := !r.virt && r.target = n.val

/-- The source belongs to the virtual bitmaps shown on core `n`'s page (R515). -/
def virtOf (s : State) (n : Fin 24) (k : Nat) (r : SrcRec) : Bool := r.virt && srcDid s k = owner s (.icp n)

/-- A word of a bitmap: the bits of sources 32w to 32w + 31 that satisfy `f`. -/
def bitWord (w : Nat) (f : Nat → Bool) : Nat :=
  (List.range 32).foldl (fun acc b => if f (32 * w + b) then acc + 2 ^ b else acc) 0

/-- What a read of an ICP page returns for the registers that the controller computes (R515, R526). -/
def icpRead (s : State) (n : Fin 24) (priv wake : Bool) (off : Nat) : Option Nat :=
  if off = 0x040 then
    some (presented s n + 2 ^ 8 * wake.toNat + 2 ^ 9 * (SMap.get false s.ic.armed n).toNat)
  else if off = 0x044 ∨ off = 0x048 then
    let base := if off = 0x044 then 0 else 1024
    some ((List.range 32).foldl (fun acc b =>
      if s.ic.srcs.any fun e => e.1 / 32 = base / 32 + b && live s e.2 && physOf n e.2 && icpSees s n priv e.1
      then acc + 2 ^ b else acc) 0)
  else if off = 0x060 then
    some (rdF s (.icp n) 0x060 0 5 + 2 ^ 5 * (privPend s n 0).toNat)
  else if 0x100 ≤ off ∧ off < 0x500 then
    let w := off % 0x100 / 4
    some (bitWord w fun k =>
      let r := srcRec s k
      icpSees s n priv k &&
        (if off < 0x200 then physOf n r && r.localEn
         else if off < 0x300 then physOf n r && r.pend
         else if off < 0x400 then virtOf s n k r && r.pend
         else virtOf s n k r && r.localEn))
  else none

/-- A write of the ICP registers that the controller acts on (R508, R515, R519, R522, R523); `none` where the register is
plain storage. -/
def icpWrite (s : State) (n : Fin 24) (priv : Bool) (off : Nat) (v : Reg32) : Option State :=
  if off = 0x04C then
    some ((List.range 8).foldl (fun t i => if bit v i then wrB t (.icp n) (0x060 + 4 * (4 + i)) 5 true else t) s)
  else if off = 0x050 then some (wr { s with ic := { s.ic with armed := SMap.set false s.ic.armed n false } } (.icp n) off v)
  else if off = 0x054 then some (wr { s with ic := { s.ic with armed := SMap.set false s.ic.armed n true } } (.icp n) off v)
  else if 0x100 ≤ off ∧ off < 0x500 then
    let w := off % 0x100 / 4
    some (icDo (fun s => (List.range 32).foldl (fun t b =>
      let k := 32 * w + b
      let r := srcRec s k
      if !icpSees s n priv k || srcReserved k then t
      else if off < 0x200 then (if physOf n r then updSrc t k fun r => { r with localEn := bit v b } else t)
      else if off < 0x300 then (if physOf n r && bit v b && srcEdge k then updSrc t k fun r => { r with pend := false } else t)
      else if off < 0x400 then
        (if virtOf s n k r && bit v b && (srcEdge k || !r.asserted) then updSrc t k fun r => { r with pend := false } else t)
      else (if virtOf s n k r then updSrc t k fun r => { r with localEn := bit v b } else t)) s) s)
  else none

/-- What a read of ICTL returns for the registers that the controller computes (R525). -/
def ictlRead (s : State) (off : Nat) : Option Nat :=
  if off = 0x044 then
    let k := rdF s .ictl 0x040 0 11
    let r := srcRec s k
    some (r.pri % 16 + r.group % 16 * 2 ^ 4 + r.target % 32 * 2 ^ 8 + r.virt.toNat * 2 ^ 13 + r.en.toNat * 2 ^ 14
      + (srcEdge k).toNat * 2 ^ 15 + srcDid s k * 2 ^ 16 + srcGen s k * 2 ^ 24)
  else if 0x084 ≤ off ∧ off < 0x0C0 then
    let g := (off - 0x080) / 4
    some (rdF s .ictl off 0 24 + 2 ^ 24 * (match (grpRec s g).state with | .idle => 0 | .holding => 1 | .opened => 2))
  else if 0x100 ≤ off ∧ off < 0x200 then
    some (rdF s .ictl off 0 6 + 2 ^ 8 * vsum s ((off - 0x100) / 4))
  else none

/-- A write of ICTL that the controller acts on (R509 to R511, R525). -/
def ictlWrite (s : State) (off : Nat) (v : Reg32) : Option State :=
  if off = 0x044 then
    some (icDo (fun s => updSrc s (rdF s .ictl 0x040 0 11) fun r =>
      let virt := bit v 13
      { r with pri := fld v 0 4, group := fld v 4 4, target := fld v 8 5, virt := virt, en := bit v 14,
               pend := if virt then r.pend else if srcEdge (rdF s .ictl 0x040 0 11) then r.pend else r.asserted }) s)
  else none

/-- Out-of-range values of ICTL registers (R525). -/
def ictlBad (off : Nat) (v : Reg32) : Bool :=
  if off = 0x040 then srcReserved (fld v 0 11)
  else if off = 0x044 then decide (24 ≤ fld v 8 5)
  else if 0x100 ≤ off ∧ off < 0x200 then decide (24 ≤ fld v 0 5)
  else false

/-! ## Generations and the core timer -/

/-- Every listed source changed by `f`, in canonical form. -/
def mapSrcs (f : Nat → SrcRec → SrcRec) (l : SMap SrcRec) : SMap SrcRec :=
  (l.map fun e => (e.1, f e.1 e.2)).filter fun e => decide (e.2 ≠ {})

/-- The GEN of a page has incremented: pending bits and local enables of its sources go (R521). -/
def icForgetPage (s : State) (p : Page) : State :=
  icDo (fun s => { s with ic := { s.ic with srcs := mapSrcs (fun k r =>
    if pageOfSource k = some p then { r with pend := false, asserted := false, localEn := false } else r) s.ic.srcs } }) s

/-- The private sources of a core and its timer are cleared when its interrupt page changes generation (R521). (DEDUCED, log 70) -/
def icForgetCore (s : State) (n : Fin 24) : State :=
  let s := { s with ic := { s.ic with
    armed := SMap.set false s.ic.armed n false
    p0off := if lineUp s (.wcc n) && !s.ic.p0off.contains n.val then n.val :: s.ic.p0off else s.ic.p0off } }
  privSources.foldl (fun t i => wr t (.icp n) (0x060 + 4 * i) (setFld (rd t (.icp n) (0x060 + 4 * i)) 4 2 0)) s

/-- The virtual bitmaps of a domain are cleared at its reset (R521). -/
def icForgetDomain (s : State) (d : Nat) : State :=
  icDo (fun t => { t with ic := { t.ic with srcs := mapSrcs (fun k r =>
    if r.virt && srcDid t k = d then { r with pend := false, localEn := false } else r) t.ic.srcs } }) s

end Sys2Proof.Machine
end

