-- ==== Sys2Proof/Machine/Winovar.lean ====
section
/-!
DEFINITION. Machine/Winovar.lean: a Winovar core's registers, levels, exceptions, interrupt entry and return (spec 06), and
the frame in which every instruction runs.
-/

namespace Sys2Proof.Machine

/-! ## Registers -/

/-- The record of a core. -/
def core (s : State) (n : Fin 24) : CoreRec := SMap.get {} s.cores n

/-- The state with the record of a core changed. -/
def updCore (s : State) (n : Fin 24) (f : CoreRec → CoreRec) : State := { s with cores := SMap.upd {} s.cores n f }

/-- A general register; w0 reads as zero (R165). -/
def getW (s : State) (n : Fin 24) (r : Fin 32) : Word64 := if r = 0 then 0 else SMap.get 0 (core s n).w r

/-- A general register written; w0 ignores writes (R165). A load performed ahead with this base register no longer stands (R245). -/
def setW (s : State) (n : Fin 24) (r : Fin 32) (v : Word64) : State :=
  if r = 0 then s else updCore s n fun c => { c with w := SMap.set 0 c.w r v, early := c.early.filter fun x => decide (x.reg ≠ r.val) }

/-- A floating-point register. -/
def getFr (s : State) (n : Fin 24) (r : Fin 32) : Word64 := SMap.get 0 (core s n).f r

/-- A floating-point register written. -/
def setFr (s : State) (n : Fin 24) (r : Fin 32) (v : Word64) : State :=
  updCore s n fun c => { c with f := SMap.set 0 c.f r v }

/-- The stored value of a system register. -/
def sysr (s : State) (n : Fin 24) (k : Nat) : Word64 := SMap.getF sysReset (core s n).sys k

/-- The state with a system register set. -/
def setSys (s : State) (n : Fin 24) (k : Nat) (v : Word64) : State :=
  updCore s n fun c => { c with sys := SMap.setF sysReset c.sys k v }

/-- STATUS.LEVEL (R163). -/
def level (s : State) (n : Fin 24) : Nat := fld (sysr s n 0x400) 0 2

/-- STATUS.IE (R169). -/
def statusIE (s : State) (n : Fin 24) : Bool := bit (sysr s n 0x400) 2

/-- STATUS.EG (R169). -/
def statusEG (s : State) (n : Fin 24) : Bool := bit (sysr s n 0x400) 3

/-- A field of HCFG as a bit (R169). -/
def hcfg (s : State) (n : Fin 24) (i : Nat) : Bool := bit (sysr s n 0x807) i

/-- The DID of a core's requests at its level (R163). -/
def coreDid (s : State) (n : Fin 24) : Nat := if level s n < 2 then fld (sysr s n 0x808) 48 6 else 0

/-- The PID of a core's requests at its level (R163). -/
def corePid (s : State) (n : Fin 24) : Nat := if level s n < 2 then fld (sysr s n 0x408) 0 14 else 0

/-- The class grant of a slice: RT while its OWNER is 0, else what it took at binding or reset (R27, R531). -/
def grantOf (s : State) (p : Page) : Nat := if owner s p = 0 then 0 else SMap.get 0 s.clsGrant (pageAddr p)

/-- A class limited to the slice's grant: a more urgent class is issued at the granted one (R27). -/
def limitCls (s : State) (p : Page) (c : Nat) : Nat := max c (grantOf s p)

/-- Owner tag, generation and class of a core's request that asks for class `c` (R26, R27). (DESIGN CHOICE, log 43) -/
def coreAttr (s : State) (n : Fin 24) (c : Cls) : Attr :=
  { did := coreDid s n, pid := corePid s n, gen := genOf s (.wcc n), cls := limitCls s (.wcc n) c }

/-! ## Counters (R255, R256) -/

/-- One event of R256 at a level: each programmable counter that selects it counts. The event's encoding is in bits 5:0 of its number, and above
them is which access of the instruction met it. -/
def pmuEvent (l : Nat) (n : Fin 24) (s : State) (ev : Nat) : State := pmuCount l n 1 s (ev % 64)

/-- An event of R256 that access `i` of an instruction met. -/
def evOf (i ev : Nat) : Nat := 64 * i + ev

/-- `k` counts of an event of R257 by a core, at every level: each speculative counter of its cluster that selects the core and the event
counts. -/
def specCount (n : Fin 24) (ev k : Nat) (s : State) : State :=
  let p : Page := .wc (Fin.ofNat 3 (n.val / 8))
  [0, 1].foldl (fun s i =>
    if rdF s p (0x040 + 4 * i) 0 3 = n.val % 8 ∧ rdF s p (0x040 + 4 * i) 8 4 = ev then
      let v := rd s p (0x048 + 4 * i)
      let s := wr s p (0x048 + 4 * i) (v + BitVec.ofNat 32 k)
      if 2 ^ 32 ≤ v.toNat + k then setIrq s p (2 ^ i) else s
    else s) s

/-- The counts of one retired instruction: PMU_INST, event 0x02, and its own events (R255, R256); it was issued (R257). (DEDUCED, log 44) -/
def pmuRetire (l : Nat) (n : Fin 24) (evs : List Nat) (s : State) : State :=
  let s := if rdB s (.wcc n) 0x040 0 && pmuLevel (rd s (.wcc n) 0x040) l then pmuAdd s n 0x064 1 1 else s
  specCount n 1 1 (updCore ((2 :: evs).foldl (pmuEvent l n) s) n fun c => { c with done := c.done + 1 })

/-- Events that an instruction meets, each once for the access that meets it, kept in case it has to wait (R256). -/
def noteEvs (s : State) (n : Fin 24) (evs : List Nat) : State :=
  if evs = [] then s
  else updCore s n fun c => { c with tried := some ((c.tried.getD []).filter (fun e => !evs.contains e) ++ evs) }

/-- A read of the core waits at the L2, which misses the line, while it may be one of a wrong path (R240): counted once for an
instruction (R257). -/
def holdMiss (s : State) (n : Fin 24) (la : Nat) : State :=
  if (core s n).heldAt.contains la then s else updCore (specCount n 4 1 s) n fun c => { c with heldAt := la :: c.heldAt }

/-- The core knows nothing any more of loads and lines ahead. -/
def clearEarly (s : State) (n : Fin 24) : State := updCore s n fun c => { c with early := [], served := [] }

/-- Younger loads that were performed ahead are discarded by a misprediction, an exception or an interrupt entry: they were on a wrong path
(R234, R239), and count as issued, discarded and loads of one (R257). -/
def discardAhead (s : State) (n : Fin 24) : State :=
  let k := (core s n).early.length
  clearEarly (if k = 0 then s else specCount n 3 k (specCount n 2 k (specCount n 1 k s))) n

/-- What stands ahead of the next instruction after one has retired: what is still within the 224 entries of the reorder buffer (R232). -/
def agedEarly (l : List Early) : List Early := (l.map fun x => { x with age := x.age + 1 }).filter fun x => decide (x.age < 224)

/-- Lines filled ahead, after an instruction has retired: those that serve one within the reorder buffer (R232). -/
def agedServed (l : List Served) : List Served := (l.map fun x => { x with age := x.age + 1 }).filter fun x => decide (x.age < 224)

/-! ## Exceptions (R170 to R177) -/

/-- A synchronous exception: CODE, FSC, LVL and S2W of ECAUSE, EADDR, and EGPA for a stage-2 cause. -/
structure Exc where
  code  : Nat
  eaddr : Word64 := 0
  fsc   : Nat := 0
  lvl   : Nat := 0
  s2w   : Bool := false
  egpa  : Option Nat := none
  deriving DecidableEq, Repr

/-- The system register of level T numbered `i` from its VBASE: 0 VBASE, 1 EPC, 2 ESTATUS, 3 ECAUSE, 4 EADDR (R168). -/
def lvlReg (t i : Nat) : Nat := if t = 1 then 0x401 + i else if t = 2 then 0x800 + i else 0xC00 + i

/-- The number of the threshold register of a level that has one (R171). -/
def thrReg (t : Nat) : Nat := if t = 1 then 0x406 else 0x806

/-- The threshold of a level; zero at F (R171). -/
def threshold (s : State) (n : Fin 24) (t : Nat) : Nat := if t = 3 then 0 else fld (sysr s n (thrReg t)) 0 4

/-- ECAUSE as a word (R169). -/
def causeWord (code fsc lvl : Nat) (s2w phys virt : Bool) : Word64 :=
  BitVec.ofNat 64 (code % 64 + fsc % 16 * 2 ^ 6 + lvl % 4 * 2 ^ 10 + s2w.toNat * 2 ^ 12 + phys.toNat * 2 ^ 13 + virt.toNat * 2 ^ 14)

/-- Entry to level T, in one step (R171): `epc` per R172, the offset per R173, `thr` the new threshold of an interrupt. -/
def enterLevel (s : State) (n : Fin 24) (t : Nat) (epc : Word64) (cause : Word64) (eaddr : Word64) (egpa : Option Nat)
    (thr : Option Nat) (off : Nat) : State :=
  let st := sysr s n 0x400
  let old := threshold s n t
  let s := discardAhead s n
  let s := setSys s n (lvlReg t 1) (epc &&& ~~~(3 : Word64))
  let s := setSys s n (lvlReg t 2) (BitVec.ofNat 64 (fld st 0 4 + old * 2 ^ 8))
  let s := setSys s n (lvlReg t 3) cause
  let s := setSys s n (lvlReg t 4) eaddr
  let s := match egpa with
    | some a => setSys s n 0x805 (BitVec.ofNat 64 a)
    | none => s
  let s := setSys s n 0x400 (BitVec.ofNat 64 (t + 8))
  let s := match thr with
    | some p => setSys s n (thrReg t) (BitVec.ofNat 64 p)
    | none => s
  updCore s n fun c => { c with resv := none, keep := none, tried := none, xlats := [], heldAt := [], atPort := none, pc := sysr s n (lvlReg t 0) + BitVec.ofNat 64 off }

/-- "Own" of R174: max(L, K), raised to H where the HCFG bit named applies at U or K. -/
def ownLevel (s : State) (n : Fin 24) (bit? : Option Nat) : Nat :=
  let l := level s n
  match bit? with
  | some i => if l < 2 && hcfg s n i then 2 else max l 1
  | none => max l 1

/-- The level that takes a synchronous exception (R174). -/
def excLevel (s : State) (n : Fin 24) (code : Nat) : Nat :=
  if code = 0x01 then ownLevel s n (some 1)
  else if code = 0x02 then min 3 (level s n + 1)
  else if code = 0x09 ∨ code = 0x0A ∨ code = 0x0B ∨ code = 0x11 then 2
  else if code = 0x12 then 3
  else if code = 0x0C ∨ code = 0x0D ∨ code = 0x0F then ownLevel s n (some 3)
  else ownLevel s n none

/-- A synchronous exception is taken (R171, R173), or becomes DOUBLE at the next level up, or at F with EG set stops the
core and raises EG_STOP (R176). -/
def raiseExc (s : State) (n : Fin 24) (epc : Word64) (e : Exc) : State :=
  let l := level s n
  let t := excLevel s n e.code
  let s := updCore s n fun c => { c with entry := none }
  if l = t ∧ statusEG s n = true then
    if t = 3 then recFatal (updCore s n fun c => { c with run := .stopped }) (.wcc n) 0x82 0
    else
      pmuEvent (t + 1) n (enterLevel s n (t + 1) epc (causeWord 0x14 0 0 false false false) e.eaddr none none 0x0C0) 0x0D
  else
    pmuEvent t n (enterLevel s n t epc (causeWord e.code e.fsc e.lvl e.s2w false false) e.eaddr e.egpa none
      (if l < t then 0x000 else 0x040)) 0x0D

/-- The level at which a STORE_BUS of a store issued at level `l` is taken (R174, R177). -/
def storeBusLevel (s : State) (n : Fin 24) (l : Nat) : Nat := if l < 2 && hcfg s n 3 then 2 else max l 1

/-- A pending STORE_BUS that the core takes at this boundary: the core is at the level that issued the store or below, and not at the level
that takes it with EG set (R176, R177). -/
def storeBusDue (s : State) (n : Fin 24) : Option (Nat × Nat) :=
  (core s n).sbus.find? fun e => level s n ≤ e.1 && !(level s n = storeBusLevel s n e.1 && statusEG s n)

/-- STORE_BUS is taken: EADDR holds the physical address of the store and PHYS is 1 (R174, R177). -/
def takeStoreBus (s : State) (n : Fin 24) (e : Nat × Nat) : State :=
  let t := storeBusLevel s n e.1
  let s := updCore s n fun c => { c with sbus := c.sbus.erase e, entry := none }
  enterLevel s n t (core s n).pc (causeWord 0x0E 0 0 false true false) (BitVec.ofNat 64 e.2) none none 0x080

/-! ## Interrupts (R178 to R185) -/

/-- The interrupt of target level `t` that is pending at a core: its priority and whether it is virtual (R178). -/
def irqAt (s : State) (n : Fin 24) (t : Nat) : Nat × Bool :=
  if hcfg s n 0 then
    if t = 2 then (presented s n, false) else if t = 1 then (fld (sysr s n 0x80A) 0 4, true) else (0, false)
  else if t = 1 then (presented s n, false) else (0, false)

/-- R179 against a given state of the core: level, IE, EG, and the threshold of the target. -/
def deliverableAt (p t l : Nat) (ie eg : Bool) (thr : Nat) : Bool :=
  p ≠ 0 && thr < p && (l < t || (l = t && ie && !eg))

/-- R179 at a core for target `t`. -/
def deliverable (s : State) (n : Fin 24) (t : Nat) : Bool :=
  deliverableAt (irqAt s n t).1 t (level s n) (statusIE s n) (statusEG s n) (threshold s n t)

/-- The entry for an interrupt of priority `p` and target `t` (R171, R173). -/
def enterIrq (s : State) (n : Fin 24) (t p : Nat) (virt : Bool) : State :=
  let s := enterLevel s n t (core s n).pc (causeWord (0x20 + p) 0 0 false false virt) 0 none (some p) (0x400 + 0x40 * p)
  pmuEvent t n (updCore s n fun c => { c with entry := some (t, p) }) 0x0E

/-- The interrupt that is taken at a boundary: of those deliverable, the one with the higher target level (R179). -/
def irqDue (s : State) (n : Fin 24) : Option (Nat × Nat × Bool) :=
  if deliverable s n 2 then some (2, irqAt s n 2) else if deliverable s n 1 then some (1, irqAt s n 1) else none

/-- The entry that a later arrival takes over (R182): before the first handler instruction issues, a higher priority of the same target is
pending. That instruction has issued once it waits for an answer or has one (R208). -/
def lateDue (s : State) (n : Fin 24) : Option (Nat × Nat) :=
  match (core s n).entry with
  | some (t, p) => if !(core s n).stall ∧ (core s n).got = [] ∧ p < (irqAt s n t).1 then some (t, (irqAt s n t).1) else none
  | none => none

/-- A late arrival of priority `q` takes over the entry; EPC and ESTATUS keep what was captured (R182). -/
def takeLate (s : State) (n : Fin 24) (t q : Nat) : State :=
  let s1 := setSys (discardAhead s n) n (thrReg t) (BitVec.ofNat 64 q)
  let s2 := setSys s1 n (lvlReg t 3) (causeWord (0x20 + q) 0 0 false false (irqAt s n t).2)
  pmuEvent t n (updCore s2 n fun c => { c with entry := some (t, q), tried := none, xlats := [], heldAt := [], atPort := none, pc := sysr s2 n (lvlReg t 0) + BitVec.ofNat 64 (0x400 + 0x40 * q) }) 0x0F

/-- LATE_ARRIVAL (R182). -/
def execLateArrival (n : Fin 24) (s : State) : Result :=
  .next (match lateDue s n with
    | some (t, q) => takeLate s n t q
    | none => s)

/-- The condition that ends WAIT (R185). VIRQ.PRI ends it whatever HCFG.IRQ_H, as R185 names no condition and R178 gives VIRQ no effect without
it. (DESIGN CHOICE, log 91) -/
def wakePending (s : State) (n : Fin 24) : Bool := presented s n ≠ 0 || fld (sysr s n 0x80A) 0 4 ≠ 0

/-- WAIT_END (R185), not in a cluster that Marionette has stopped (R553): the core resumes at the instruction after WAIT. -/
def execWaitEnd (n : Fin 24) (s : State) : Result :=
  .next (if ((core s n).run = .waiting ∨ (core s n).run = .doze) ∧ wakePending s n ∧ !ckaStopped s (n.val / 8) then
      updCore s n fun c => { c with run := .running }
    else s)

end Sys2Proof.Machine
end

