-- ==== Sys2Proof/Machine/Fabric.lean ====
section
/-!
DEFINITION. Machine/Fabric.lean: the byte map (R105 to R109), attributes of requests (R23 to R27), the checks at ingress
(R533, R534, R590), credits (R535, R536), completions (R28, R29) and the engine windows seen from the byte world (R32 to R38).
-/

namespace Sys2Proof.Machine

/-! ## The byte map -/

/-- The masters that a region admits (R105, R284). -/
def admits : Region → Master → Bool
  | .rom, m | .secure, m => m = .scu
  | .page _, m | .tylPages, m => (match m with
    | .core _ | .scu => true
    | _ => false)
  | .pcieOut _, m => (match m with
    | .pcie _ => false
    | _ => true)
  | _, _ => true

/-- The address check on the bytes of a request (R107, R589): the first and the last byte lie in one mapped region. From
handover on, Sage ROM admits no master (R160). -/
def decodeDeny (s : State) (m : Master) (addr len : Nat) : Option Kind :=
  match regionOf s addr, regionOf s (addr + len - 1) with
  | some r, some _ => if admits r m && !(r = .rom && s.sage.phase = .done) then none else some .master
  | _, _ => some .unmapped

/-! ## Attributes (R26, R27) -/

/-- The page of a master's slice. -/
def slicePage : Master → Option Page
  | .core n => some (.wcc n) | .pcie c => some (.pce c) | .eth m => some (.eth m) | .engine e => some (.nce e) | .mover m => some (.ncm m)
  | _ => none

/-- The present generation of a master's slice (R26, R29). -/
def sliceGen (s : State) (m : Master) : Nat :=
  match m with
  | .tyl k => rdF s .tylw (0x100 + 4 * k.val) 16 8
  | .scu | .sysCache => genOf s (.dom 0)
  | m => match slicePage m with
    | some p => genOf s p
    | none => 0

/-- Owner tag, generation and class of a request that a master issues now: `lvl` is a core's level, `pid` the PID of a PCIe
function's binding, and `cls` the class that is asked for. -/
def attrOf (s : State) (m : Master) (lvl : Nat) (cls : Cls) (pid : Nat) : Attr :=
  match m with
  | .core n =>
    { did := if lvl < 2 then fld (sysr s n 0x808) 48 6 else 0, pid := if lvl < 2 then fld (sysr s n 0x408) 0 14 else 0,
      gen := genOf s (.wcc n), cls := limitCls s (.wcc n) cls }
  | .pcie c => { did := owner s (.pce c), pid := pid % 2 ^ 14, gen := genOf s (.pce c), cls := limitCls s (.pce c) cls }
  | .eth m => { did := owner s (.eth m), pid := rdF s (.eth m) 0x0F0 0 14, gen := genOf s (.eth m), cls := limitCls s (.eth m) 1 }
  | .engine e => engAttr s e cls
  | .mover m => { movAttr s m with cls := limitCls s (.ncm m) cls }
  | .tyl k => { did := rdF s .tylw (0x100 + 4 * k.val) 0 6, pid := k, gen := rdF s .tylw (0x100 + 4 * k.val) 16 8, cls := 1 }
  | .scu => { did := 0, pid := 0, gen := genOf s (.dom 0), cls := 1 }
  | .sysCache => scAttr s

/-! ## Gates and grants (R533, R534, R537) -/

/-- Range grant `i` of a DID covers the bytes with the permission asked for, W for a write and else R; `rmw` asks for both (R533, R534). -/
def grantCovers (s : State) (d i addr len : Nat) (w rmw : Bool) : Bool :=
  let lo := rd s (domPage d) (0x080 + 8 * i)
  let base := fld lo 12 20 * 2 ^ 12 + rdF s (domPage d) (0x084 + 8 * i) 0 16 * 2 ^ 32
  bit lo 0 && (bit lo 1 || (w && !rmw)) && (bit lo 2 || !(w || rmw)) && decide (base ≤ addr) && decide (addr + len ≤ base + 2 ^ (fld lo 4 5 + 12))

/-- The grant check of a DID: one enabled grant covers every byte; DID 0 passes (R533). -/
def granted (s : State) (d addr len : Nat) (w rmw : Bool) : Bool :=
  d % 64 = 0 || (List.range 8).any fun i => grantCovers s d i addr len w rmw

/-- The masters whose requests to DRAM and to on-chip SRAM need a range grant (R533). -/
def needsGrant : Master → Bool
  | .engine _ | .mover _ | .pcie _ | .eth _ | .tyl _ => true
  | _ => false

/-- The checks of R590 in their order, but for the credit; `rmw` says that the target merges what it writes into what stands there (R37,
R533). (DEDUCED, log 23) -/
def ingressDeny (s : State) (m : Master) (a : Attr) (op : ReqOp) (addr len : Nat) (rmw : Bool := false) : Option Kind :=
  match decodeDeny s m addr len with
  | some k => some k
  | none =>
    if gated s a.did then some .wrongOwner
    else match regionOf s addr with
      | some .dram | some .sram => if needsGrant m && !granted s a.did addr len (op = .write) (rmw || op = .fillAtomic) then some .wrongOwner else none
      | _ => none

/-! ## Credits (R535, R536) -/

/-- A request holds a credit: it is past ingress and its completion has not left the fabric. -/
def holdsCredit (t : Txn) : Bool := t.status = .transit || t.status = .accepted || t.status = .answered

/-- An answer carries the present generation of its master's slice (R29). -/
def fresh (s : State) (m : Master) (a : Attr) : Bool := a.gen = sliceGen s m

/-- Register requests that hold a credit: past ingress and waiting in the bridge or at a member (R535, R536). -/
def regsInside (s : State) : List RegReq := s.fab.stalled.filter (fun q => q.inside) ++ s.tyl.regs.map fun x => x.req

/-- A register request belongs to an earlier generation: of its master's slice, or of a domain reset since (R535, R537). -/
def regOld (s : State) (q : RegReq) : Bool := q.old || !fresh s q.m q.attr

/-- HELD of a DID. -/
def credHeld (s : State) (d : Nat) : Nat :=
  (s.fab.txns.filter fun t => holdsCredit t && !t.old && t.attr.did = d).length
    + ((regsInside s).filter fun q => !regOld s q && q.attr.did = d).length

/-- OLD_HELD of a DID. -/
def credOld (s : State) (d : Nat) : Nat :=
  (s.fab.txns.filter fun t => holdsCredit t && t.old && t.attr.did = d).length
    + ((regsInside s).filter fun q => regOld s q && q.attr.did = d).length

/-- GRANT of a DID; DID 0 has 256 credits of its own. -/
def credGrant (s : State) (d : Nat) : Nat := if d = 0 then 256 else rdF s (domPage d) 0x054 0 12

/-- A credit of the DID is free. -/
def credFree (s : State) (d : Nat) : Bool := decide (credHeld s d + credOld s d < credGrant s d)

/-- The pool of credits: those not granted (R535). -/
def poolCred (s : State) : Nat := 2048 - ((List.range 63).map fun i => credGrant s (i + 1)).sum

/-- The pool of tokens: those not granted (R535). -/
def poolTok (s : State) : Nat := 1024 - ((List.range 63).map fun i => rdF s (domPage (i + 1)) 0x05C 0 11).sum

/-- Credits and tokens of a destroyed domain go back to their pools as they return (R540). (DEDUCED, log 25) -/
def returnOwed (s : State) (d : Nat) : State :=
  let r := SMap.get {} s.doms d
  let s := if r.owedC then wrF s (domPage d) 0x054 0 12 (min (credGrant s d) (credHeld s d + credOld s d)) else s
  returnTok s d

/-! ## Ingress (R590) -/

/-- An earlier request of the same source to the same target has not entered the fabric yet (R31). -/
def behindQueued (s : State) (t : Txn) : Bool :=
  s.fab.txns.any fun u => decide (u.id < t.id) && sameSource t u && decide (targetOf s u.req.addr = targetOf s t.req.addr)
    && (u.status = .posted || u.status = .waitCredit)

/-- What Sage ROM reads as (R105): its contents are not given. (DESIGN CHOICE, log 24) -/
def romBytes (a n : Nat) : Nat := ofBytes ((List.range n).map fun i => BitVec.ofNat 8 (Config.undefMem 0 2 (a + i)))

/-- A queued request comes to the ingress of its master (R590). A request to Sage ROM is answered from it. (DEDUCED, log 23) -/
def enterFabric (s : State) (t : Txn) : State :=
  match ingressDeny s t.req.master t.attr t.req.op t.req.addr t.req.len (t.req.op = .write && t.req.pos.isSome) with
  | some k => updTxn (ferrLog s t.req.master t.attr t.req.op t.req.addr k) t.id fun u => { u with status := .refused, err := true, why := kindCode k, rdata := 0 }
  | none =>
    if credFree s t.attr.did then
      let s := updTxn s t.id fun u => { u with status := .transit }
      if regionOf s t.req.addr = some .rom then
        answerTxn s t.id false false (if t.req.op = .write then 0 else romBytes t.req.addr t.req.len)
      else s
    else updTxn s t.id fun u => { u with status := .waitCredit }

/-- A request comes to its ingress if it stands in a queue and nothing of its source to its target is ahead of it; a fabric that
Marionette has stopped takes none (R553), and a block that is stopped for a soft reset issues none, but what waits for a credit is
outstanding (R103). (DESIGN CHOICE, log 26) -/
def ingressOf (s : State) (id : Nat) : State :=
  match txn? s id with
  | some t =>
    if (t.status = .posted ∨ t.status = .waitCredit) ∧ !behindQueued s t ∧ !strStopped s 51
        ∧ (t.status = .waitCredit ∨ !((slicePage t.req.master).any (blkBusy s))) then enterFabric s t else s
  | none => s

/-- A request lies within one aligned block of 64 bytes (R589). -/
def oneBlock (r : FReq) : Bool := decide (0 < r.len) && decide (r.addr / 64 = (r.addr + r.len - 1) / 64) && decide (r.addr < 2 ^ 48)

/-- A new request queued at its master with the attributes of R26. -/
def postReq (s : State) (r : FReq) (lvl : Nat) (p : Purpose) : State :=
  addTxn s { id := 0, req := r, attr := attrOf s r.master lvl r.cls r.pid, lvl := lvl, purp := p, status := .posted }

/-- An access that a master makes now, as the youngest request of its source. -/
def newest (s : State) (m : Master) (a : Attr) (addr len : Nat) : Txn :=
  { id := s.fab.nextId, req := { master := m, op := .read, addr := addr, len := len, be := 0, data := 0, cls := 0, pid := 0 },
    attr := a, lvl := 0, purp := .plain, status := .posted }

/-- An access that is served at once has to wait behind earlier requests of its source (R31, R268). -/
def behindAny (s : State) (m : Master) (a : Attr) (addr len : Nat) : Bool :=
  behindQueued s (newest s m a addr len) || behindSource s (newest s m a addr len)

/-- FWR_ACCEPTED (R346, R590): the oldest posted write of a thread comes to ingress and, with a credit, leaves its queue. -/
def execFwrAccepted (e : Fin 512) (t : Fin 4) (s : State) : Result :=
  .next (match s.fab.txns.find? fun u => u.req.master = .engine e && u.purp = .fwr t && (u.status = .posted || u.status = .waitCredit) with
    | some u => ingressOf s u.id
    | none => s)

/-! ## Completions (R28, R29) -/

/-- A credit returns, one of an earlier generation if `old`: IRQ_STAT bit 1 of the domain page is set when OLD_HELD falls to 0 (R535,
R545). -/
def creditBack (s : State) (d : Nat) (old : Bool) : State :=
  let s := returnOwed s d
  if old ∧ credOld s d = 0 ∧ d ≠ 0 then setIrq s (domPage d) 2 else s

/-- The completion of a request leaves the fabric. -/
def leaveFabric (s : State) (t : Txn) : State := creditBack (dropTxn s t.id) t.attr.did (t.old && holdsCredit t)

/-- A completion of an earlier generation is counted for the slice's present owner (R29). (DEDUCED, log 36) -/
def lateCount (s : State) (m : Master) (did : Nat) : State :=
  match slicePage m with
  | some p => bumpF s (domPage (owner s p)) 0x064 16 16 1
  | none => bumpF s (domPage did) 0x064 16 16 1

/-- A completion judged stale by its generation (R29). -/
def lateDrop (s : State) (t : Txn) : State := lateCount s t.req.master t.attr.did

/-- Whether a completion has arrived and its master accepts it. -/
def completion? (s : State) (id : Nat) : Option (Txn × Bool) :=
  match txn? s id with
  | some t => if t.status = .answered ∨ t.status = .refused then some (t, fresh s t.req.master t.attr) else none
  | none => none

/-! ## Engine windows from the byte world (R33 to R37, R108 to R110, R410) -/

/-- The first bit of a word of a window, counted from the start of the window, and its width in the view: 32 or 18 (R33, R34). -/
def winBits (packed : Bool) (w : Nat) : Nat × Nat := if packed then (128 * (w / 7) + 18 * (w % 7), 18) else (32 * w, 32)

/-- The words that may hold a bit of the bytes `off` to `off + len - 1` of a window. -/
def winCands (packed : Bool) (off len : Nat) : List Nat :=
  let lo := if packed then 7 * (off / 16) else off / 4
  let hi := if packed then 7 * ((off + len - 1) / 16) + 6 else (off + len - 1) / 4
  ((List.range (hi + 1 - lo)).map (lo + ·)).filter fun w => decide (w < 2 ^ 18)

/-- The bits of a word that a mask of request bits covers, as a number: bit i of the word's bits in the view. `mask` has the bits
of the request, from byte `off` of the window. -/
def winCover (packed : Bool) (off mask w : Nat) : Nat :=
  let b := winBits packed w
  let base := off / 64 * 512
  mask * 2 ^ (8 * (off % 64)) / 2 ^ (b.1 - base) % 2 ^ b.2

/-- The words that a mask touches. -/
def winTouched (packed : Bool) (off len mask : Nat) : List Nat := (winCands packed off len).filter fun w => winCover packed off mask w ≠ 0

/-- Why a request to words of a window is refused at its cluster (R35, R110, R410): ownership of every word first. -/
def winDeny (s : State) (k : Fin 32) (did : Nat) (all : Bool) (ws : List Nat) : Option Kind :=
  if bistOn s 3 k then some .asleep
  else if !all && ws.any (fun w => winOwner s k (winWord s k w) ≠ did) then some .wrongOwner
  else if ws.any fun w => winBusy s (winWord s k w) then some .engineBusy
  else none

/-- Words read through a window, with what SECDED finds: the state, the bytes, and whether one was poisoned. -/
def winRead (s : State) (k : Fin 32) (packed : Bool) (off len : Nat) (f : Findings) : State × Nat × Bool :=
  let ws := winTouched packed off len (2 ^ (8 * len) - 1)
  let s := winFindings s k f ws
  let base := off / 64 * 512
  let v := ws.foldl (fun acc w =>
    let x := winVal s k (winWord s k w)
    acc + (if packed then x.toNat else looseWord x) * 2 ^ ((winBits packed w).1 - base)) 0
  (s, v / 2 ^ (8 * (off % 64)) % 2 ^ (8 * len), ws.any fun w => winBad s k (winWord s k w))

/-- Words written through a window: those covered whole, or the bits of one packed word of an engine (`merge`, R37); with
whether a word was covered only in part. -/
def winWrite (s : State) (k : Fin 32) (packed : Bool) (off len mask data : Nat) (merge : Bool) : State × Bool :=
  let base := off / 64 * 512
  (winTouched packed off len mask).foldl (fun (a : State × Bool) w =>
    let b := winBits packed w
    let c := winCover packed off mask w
    let v := data * 2 ^ (8 * (off % 64)) / 2 ^ (b.1 - base) % 2 ^ b.2
    if c = 2 ^ b.2 - 1 then (setWin a.1 k (winWord s k w) (BitVec.ofNat 18 v), a.2)
    else if merge then
      let m := BitVec.ofNat 18 c
      (setWin a.1 k (winWord s k w) ((winVal a.1 k (winWord s k w) &&& ~~~m) ||| (BitVec.ofNat 18 v &&& m)), a.2)
    else (a.1, true)) (s, false)

/-- Requests that pass every ownership check: a core at H or F, and the SCU (R30). -/
def passesAll (m : Master) (lvl : Nat) : Bool :=
  match m with
  | .core _ => decide (2 ≤ lvl)
  | .scu => true
  | _ => false

/-- The bits of an engine window that a byte mask touches count a partly enabled word's bytes: byte enables as bits. -/
def reqTouch (r : FReq) : Nat := if r.op = .write then reqMask r else 2 ^ (8 * r.len) - 1

/-- A request to a window served at its cluster, after the accesses of threads that come before it (R424): the answer, or the reason it
gets an error response. -/
def windowServe (s : State) (t : Txn) (k : Fin 32) (packed : Bool) (off : Nat) (f : Findings) : State × Option Kind × Nat × Bool :=
  let r := t.req
  let s := cmSettle s k
  match winDeny s k t.attr.did (passesAll r.master t.lvl) (winTouched packed off r.len (reqTouch r)) with
  | some kd => (ferrLog s r.master t.attr r.op r.addr kd, some kd, 0, false)
  | none =>
    if r.op = .write then
      let x := winWrite s k packed off r.len (reqMask r) r.data r.pos.isSome
      (if x.2 then ferrLog x.1 r.master t.attr r.op r.addr .partialWord else x.1, none, 0, false)
    else
      let x := winRead s k packed off r.len f
      (x.1, none, x.2.1, x.2.2)

/-- A request in transit to a window is served (R33 to R37, R404 to R411): `waited` is the ticks it waited at the fabric port. -/
def execWindow (isW : Bool) (id waited : Nat) (f : Findings) (s : State) : Result :=
  .next (match txn? s id with
    | some t =>
      match regionOf s t.req.addr with
      | some (.window k packed off) =>
        if t.status ≠ .transit ∨ decide (t.req.op = .write) ≠ isW ∨ behindSource s t then s
        else
          let x := windowServe (confTicks s k 8 waited) t k packed off f
          updTxn (answerTxn x.1 id x.2.1.isSome x.2.2.2 x.2.2.1) id fun u => { u with why := (x.2.1.map kindCode).getD 0 }
      | _ => s
    | none => s)

/-- ENGINE_WINDOW_READ (R33, R34, R109, R110, R410). -/
def execEngineWindowRead (id waited : Nat) (f : Findings) : State → Result := execWindow false id waited f

/-- ENGINE_WINDOW_WRITE (R33 to R37, R109, R110, R410). -/
def execEngineWindowWrite (id waited : Nat) (f : Findings) : State → Result := execWindow true id waited f

end Sys2Proof.Machine
end

