-- ==== Sys2Proof/Machine/Poc.lean ====
section
/-!
DEFINITION. Machine/Poc.lean: what a Winovar core reaches in memory: the point of coherence (R39 to R41), the L2 of its
cluster with the snoop filter (R250 to R253), the L1 data cache (R248, R249), and stores that commit (R242, R246).
-/

namespace Sys2Proof.Machine

/-- What an access finds on a line. -/
def envAt (env : MemEnv) (la : Nat) : LineEnv := ((env.lines.find? fun e => e.1 = la).map Prod.snd).getD {}

/-- A byte address lies in DRAM or on-chip SRAM. -/
def inMem (s : State) (a : Nat) : Bool := inDram s (a / 64) || inSram a

/-! ## The point of coherence -/

/-- The answer at the point of coherence: data and whether it is poisoned, an error response, or the access has to wait for a
credit, a port or the line. -/
inductive PocAns where
  | ok (s : State) (x : Nat) (bad : Bool)
  | err (s : State)
  | wait (s : State)

/-- A request that is refused, with its record (R107, R123). -/
def coreFail (s : State) (m : Master) (a : Attr) (op : ReqOp) (addr : Nat) (k : Kind) : PocAns :=
  .err (ferrLog s m a op addr k)

/-- The port of on-chip SRAM that serves an access which a master makes within its own command: its place there, and whether it stands there
already. A core keeps its place while its instruction waits. (DESIGN CHOICE, log 17) -/
def ownPort (s : State) (m : Master) (a : Attr) (addr waited : Nat) : PortWait × Bool :=
  let b := bankAt addr
  let w : PortWait := { who := 2 * masterCode m, master := masterCode m, bank := b, port := sramPort b a.cls, cls := a.cls, since := 0 }
  match (match m with
    | .core n => (core s n).atPort
    | _ => none) with
  | some x => if x.bank = b ∧ x.port = w.port then ({ w with since := x.since }, true) else (portComes s w waited, false)
  | none => (portComes s w waited, false)

/-- A core takes its place at a port, or leaves it. -/
def setPort (s : State) (m : Master) (w : Option PortWait) : State :=
  match m with
  | .core n => if (core s n).atPort = w then s else updCore s n fun c => { c with atPort := w }
  | _ => s

/-- An access to on-chip SRAM within a master's own command: it has its turn at the port, or waits there (R281, R286). -/
def atOwnPort (s : State) (m : Master) (a : Attr) (addr waited : Nat) (f : State → Nat → PocAns) : PocAns :=
  let w := ownPort s m a addr waited
  match portTurn s w.1 w.2 with
  | some t => f (setPort t m none) w.1.port
  | none => .wait (if w.2 then s else confCount (setPort s m (some w.1)) w.1.master w.1.bank ((s.dt - w.1.since) / 2))

/-- `len` bytes within one block read at the point of coherence, by a request of a master. -/
def pocRead (s : State) (m : Master) (a : Attr) (op : ReqOp) (addr len : Nat) (e : LineEnv) : PocAns :=
  match ingressDeny s m a op addr len with
  | some k => coreFail s m a op addr k
  | none =>
    if !credFree s a.did || behindAny s m a addr len then .wait s
    else if inDram s (addr / 64) then
      (if !rdB s .dmc 0x040 0 then coreFail s m a op addr .asleep
       else match pocReadLine s a (masterCode m) (addr / 64) e.par e.vpar e.out with
        | .error s => .wait s
        | .ok (s, x, bad) => .ok s (x.toNat / 2 ^ (8 * (addr % 64)) % 2 ^ (8 * len)) bad)
    else match sramDeny s m addr with
      | some k => coreFail s m a op addr k
      | none => atOwnPort s m a addr e.waited fun s p =>
        let r := portRead s p a addr len e.ce e.ue
        .ok r.1 r.2.1 r.2.2

/-- The bits of `mask` written within one block at the point of coherence; a write-back (`wb`) passes the gate (R538). (DEDUCED, log 42) -/
def pocWrite (s : State) (m : Master) (a : Attr) (addr len mask data : Nat) (bad : Bool) (e : LineEnv) (wb : Bool) : PocAns :=
  match (if wb then none else ingressDeny s m a .write addr len) with
  | some k => coreFail s m a .write addr k
  | none =>
    if !credFree s a.did || behindAny s m a addr len then .wait s
    else if inDram s (addr / 64) then
      (if !rdB s .dmc 0x040 0 then coreFail s m a .write addr .asleep
       else
        let sh := 2 ^ (8 * (addr % 64))
        match pocWriteLine s a (masterCode m) (addr / 64) (BitVec.ofNat 512 (data * sh)) (BitVec.ofNat 512 (mask * sh)) bad e.par e.vpar e.out with
        | .error s => .wait s
        | .ok s => .ok s 0 false)
    else match sramDeny s m addr with
      | some k => coreFail s m a .write addr k
      | none => atOwnPort s m a addr e.waited fun s p => .ok (portWrite s p a addr len mask data bad e.ce e.ue) 0 false

/-! ## L2 and snoop filter -/

/-- The cluster of a core. -/
def clusterOfCore (n : Fin 24) : Nat := n.val / 8

/-- A line held in the L2 of a cluster. -/
def l2Line (s : State) (w la : Nat) : Option L2Line := SMap.find? (SMap.get [] s.l2s w) la

/-- A line put in the L2 of a cluster. -/
def setL2 (s : State) (w la : Nat) (x : L2Line) : State := { s with l2s := SMap.set [] s.l2s w (SMap.put (SMap.get [] s.l2s w) la x) }

/-- The line is not in an L1 cache any more. -/
def l1Drop (c : L1Cache) (la : Nat) : L1Cache := { c with lines := c.lines.filter fun x => decide (x.1 ≠ la) }

/-- The reservation of a core without a line (R211). -/
def unreserve (c : CoreRec) (la : Nat) : CoreRec := if c.resv = some la then { c with resv := none, keep := none } else c

/-- A line leaves the L2 of a cluster and the L1s of its cores; a reservation on it there is cleared (R211, R250). -/
def dropL2 (s : State) (w la : Nat) : State :=
  let s := { s with l2s := SMap.set [] s.l2s w (SMap.drop (SMap.get [] s.l2s w) fun k => k = la) }
  { s with cores := s.cores.map fun e =>
      if e.1 / 8 = w then (e.1, unreserve { e.2 with l1i := l1Drop e.2.l1i la, l1d := l1Drop e.2.l1d la } la) else e }

/-- A line leaves every Winovar L1 and L2. -/
def dropLineAll (s : State) (la : Nat) : State := [0, 1, 2].foldl (fun s w => dropL2 s w la) s

/-- The cluster that holds a line dirty, other than `w`. -/
def dirtyElse (s : State) (w la : Nat) : Option (Nat × L2Line) :=
  [0, 1, 2].findSome? fun v => if v = w then none else match l2Line s v la with
    | some x => if x.dirty then some (v, x) else none
    | none => none

/-- Every other cluster loses the line (R252). -/
def dropOthers (s : State) (w la : Nat) : State := [0, 1, 2].foldl (fun s v => if v = w then s else dropL2 s v la) s

/-- The page of a cluster. -/
def wcPage (w : Nat) : Page := .wc (Fin.ofNat 3 w)

/-- The attributes of a write-back: the DID that last wrote the line (R251). Its PID 0, the generation of the core that evicts it and class LL
limited by no grant are the model's. (DESIGN CHOICE, log 42) -/
def wbAttr (s : State) (n : Fin 24) (x : L2Line) : Attr := { did := x.writer, pid := 0, gen := genOf s (.wcc n), cls := 1 }

/-- A dirty line written back to its point of coherence; `.error` is the state in which it has to wait. An error response is in the log. (DEDUCED, log 42) -/
def writeBack (s : State) (n : Fin 24) (la : Nat) (x : L2Line) (e : LineEnv) : Except State State :=
  match pocWrite s (.core n) (wbAttr s n x) (64 * la) 64 (2 ^ 512 - 1) x.data.toNat x.poison e true with
  | .ok s _ _ | .err s => .ok s
  | .wait s => .error s

/-- A dirty line goes back to its point of coherence from every L2 and stays valid. -/
def cleanLine (s : State) (n : Fin 24) (la : Nat) (env : MemEnv) : Except State State :=
  [0, 1, 2].foldl (fun (r : Except State State) w => r.bind fun s =>
    match l2Line s w la with
    | some x => if x.dirty then (writeBack s n la x (envAt env la)).map fun s => setL2 s w la { x with dirty := false } else .ok s
    | none => .ok s) (.ok s)

/-- The line that the core's own activity does not evict: that of its reservation, while at most 16 instructions without a memory access
have followed its LL (R211). -/
def keptLine (s : State) (n : Fin 24) : Option Nat := if (core s n).keep.isSome then (core s n).resv else none

/-- A victim among lines, which is not fixed, but never the line that is kept. (DESIGN CHOICE, log 41) -/
def pickVictim (s : State) (n : Fin 24) (l : List Nat) : Option Nat × State :=
  let l := l.filter fun x => decide (some x ≠ keptLine s n)
  let r := freeVal 4 s
  (l[r.1 % l.length]?, r.2)

/-- Room for a line in its set of 16 ways of the L2; a dirty victim is written back (R250). -/
def makeRoom (s : State) (n : Fin 24) (w la : Nat) (env : MemEnv) : Except State State :=
  let set := (SMap.get [] s.l2s w).filter fun e => e.1 % 8192 = la % 8192
  if set.length < 16 then .ok s
  else
    let r := pickVictim s n (set.map Prod.fst)
    match r.1 with
    | none => .ok r.2
    | some v =>
      match l2Line r.2 w v with
      | none => .ok r.2
      | some x => (if x.dirty then writeBack r.2 n v x (envAt env v) else .ok r.2).map fun s => dropL2 s w v

/-- The lines of a set of the snoop filter: those of every L2 whose numbers agree modulo 32,768 (R252). (DESIGN CHOICE, log 41) -/
def filterSet (s : State) (la : Nat) : List Nat :=
  [0, 1, 2].foldl (fun l w => l ++ ((SMap.get [] s.l2s w).map Prod.fst).filter fun x => x % 32768 = la % 32768 && !l.contains x) []

/-- An entry of the snoop filter for a line: with 16 in its set, one line leaves every L2 that holds it, a dirty copy after it is written
back (R252, R253). An uncorrectable error of the filter is fatal. (DESIGN CHOICE, log 41)
(DESIGN CHOICE, log 86) -/
def filterRoom (s : State) (n : Fin 24) (la : Nat) (env : MemEnv) : Except State State :=
  let s := if (envAt env la).filt then recUnstated s .fabr fatal else s
  let set := filterSet s la
  if set.contains la ∨ set.length < 16 then .ok s
  else
    let r := pickVictim s n set
    match r.1 with
    | none => .ok r.2
    | some v => (cleanLine r.2 n v env).map fun s => dropLineAll s v

/-- An L2 error of the uncorrectable kind on a dirty line: poisoned, raised to its last writer (R251). -/
def l2Poison (s : State) (w la : Nat) (x : L2Line) : State :=
  recordErr (setL2 s w la { x with poison := true }) (wcPage w) 0x82 contained { did := x.writer, gen := genOf s (wcPage w), cls := 1 } (la % 2 ^ 32) x.writer

/-- What SECDED finds on a line of the L2 (R251): the state, and the line if it is still there. -/
def l2Finding (s : State) (w la : Nat) (x : L2Line) (e : Fin 4) : State × Option L2Line :=
  if e = 1 then (recInternal s (wcPage w) 0x80 (la % 2 ^ 32), some x)
  else if e = 2 then
    (if x.dirty then (l2Poison s w la x, some { x with poison := true })
     else (recInternal (dropL2 s w la) (wcPage w) 0x81 (la % 2 ^ 32), none))
  else if e = 3 then (recFatal s (wcPage w) 0x83 0, some x)
  else (s, some x)

/-- A line obtained in the L2 of a core's cluster: the line and whether the L2 missed; an error response; or it has to wait. -/
inductive Got where
  | ok (s : State) (x : L2Line) (missed : Bool)
  | err (s : State)
  | wait (s : State)

/-- The line comes from the cluster that holds it dirty, or from the point of coherence (R252), by a request of the core with attributes
`a`. `excl` takes it from every other cluster, and its dirty state with it. -/
def fillL2 (s : State) (n : Fin 24) (a : Attr) (excl : Bool) (op : ReqOp) (la : Nat) (env : MemEnv) : Got :=
  let w := clusterOfCore n
  match (filterRoom s n la env).bind fun s => makeRoom s n w la env with
  | .error s => .wait s
  | .ok s =>
    match dirtyElse s w la with
    | some (_, x) =>
      let y := if excl then x else { x with dirty := false }
      .ok (setL2 (if excl then dropOthers s w la else s) w la y) y true
    | none =>
      match pocRead s (.core n) a op (64 * la) 64 (envAt env la) with
      | .wait s => .wait s
      | .err s => .err s
      | .ok s d bad =>
        let y : L2Line := { data := BitVec.ofNat 512 d, poison := bad, writer := a.did }
        .ok (setL2 (if excl then dropOthers s w la else s) w la y) y true

/-- A read that misses the L2 goes on, or waits there while it may be one of a wrong path (R240). -/
def missL2 (s : State) (n : Fin 24) (a : Attr) (excl : Bool) (op : ReqOp) (la : Nat) (env : MemEnv) : Got :=
  if env.held then .wait (holdMiss s n la) else fillL2 s n a excl op la env

/-- A line in the L2 of a core's cluster for an access with attributes `a`, held exclusive where `excl` asks for it (R246, R251, R252). -/
def obtain (s : State) (n : Fin 24) (a : Attr) (excl : Bool) (op : ReqOp) (la : Nat) (env : MemEnv) : Got :=
  let w := clusterOfCore n
  match l2Line s w la with
  | none => missL2 s n a excl op la env
  | some x =>
    let r := l2Finding s w la x (envAt env la).l2
    match r.2 with
    | none => missL2 r.1 n a excl op la env
    | some x =>
      if excl then
        let y := { x with dirty := x.dirty || (dirtyElse r.1 w la).isSome }
        .ok (setL2 (dropOthers r.1 w la) w la y) y false
      else .ok r.1 x false

/-! ## L1 caches (R248, R249) -/

/-- An L1 cache of a core: the instruction cache or the data cache. -/
def l1Of (s : State) (n : Fin 24) (i : Bool) : L1Cache := if i then (core s n).l1i else (core s n).l1d

/-- An L1 cache of a core changed. -/
def updL1 (s : State) (n : Fin 24) (i : Bool) (f : L1Cache → L1Cache) : State :=
  updCore s n fun c => if i then { c with l1i := f c.l1i } else { c with l1d := f c.l1d }

/-- A line stands in an L1 cache. -/
def l1Has (c : L1Cache) (la : Nat) : Bool := c.lines.any fun x => x.1 = la

/-- A line comes into an L1 cache of a core, into a way that is in use: a free one of its set of the 256, else one that is not fixed.
(DESIGN CHOICE, log 41) -/
def fillL1 (s : State) (n : Fin 24) (i : Bool) (la : Nat) : State :=
  let c := l1Of s n i
  let ways := [0, 1, 2, 3].filter fun w => !c.off.contains w
  if l1Has c la ∨ ways = [] then s
  else
    match ways.find? fun w => !(c.lines.any fun x => x.2 = w && x.1 % 256 = la % 256) with
    | some w => updL1 s n i fun c => { c with lines := (la, w) :: c.lines }
    | none =>
      let r := freeVal 2 s
      let w := ways.getD (r.1 % ways.length) 0
      updL1 r.2 n i fun c => { c with lines := (la, w) :: c.lines.filter fun x => !(x.2 = w && x.1 % 256 = la % 256) }

/-- A parity error of an L1 cache (R249): recorded, and the line is invalid; 16 in one way within a second take the way and its lines out of
use. -/
def l1Parity (s : State) (n : Fin 24) (i : Bool) (la : Nat) : State :=
  match (l1Of s n i).lines.find? fun x => x.1 = la with
  | none => s
  | some (_, way) =>
    let s := recInternal s (.wcc n) 0x80 0
    let s := updL1 s n i fun c => { l1Drop c la with pars := (way, s.dt) :: c.pars.filter fun p => decide (s.dt < p.2 + ticksPerSecond) }
    if 16 ≤ ((l1Of s n i).pars.filter fun p => p.1 = way).length then
      recInternal (updL1 s n i fun c => { lines := c.lines.filter fun x => decide (x.2 ≠ way), pars := c.pars.filter fun p => decide (p.1 ≠ way),
                                          off := way :: c.off }) (.wcc n) 0x81 0
    else s

/-- A parity error that an access finds on a line of an L1 cache. -/
def l1Bad (s : State) (n : Fin 24) (i : Bool) (la : Nat) (env : MemEnv) : Bool :=
  l1Has (l1Of s n i) la && (if i then (envAt env la).l1i else (envAt env la).l1)

/-- A line read through an L1 cache (R248, R249), with the events of R256: the miss of that cache, once for the instruction, and for the line the
refetch after a parity error and the miss of the L2. -/
def l1Line (s : State) (n : Fin 24) (i : Bool) (la : Nat) (env : MemEnv) : Got × List Nat :=
  let bad := l1Bad s n i la env
  let hit := l1Has (l1Of s n i) la && !bad
  let s := if bad then l1Parity s n i la else s
  let evs := (if hit then [] else if i then [0x08] else [0x07]) ++ (if bad then [evOf (2 + la) 0x12] else [])
  match hit, l2Line s (clusterOfCore n) la with
  | true, some x => (.ok s x false, evs)
  | _, _ => match obtain s n (coreAttr s n env.cls) false (if i then .fetch else .read) la env with
    | .ok s x m => (.ok (if x.poison then s else fillL1 s n i la) x m, if m && !i then evOf (2 + la) 0x09 :: evs else evs)
    | r => (r, evs)

/-- A line read for a load. -/
def loadLine (s : State) (n : Fin 24) (la : Nat) (env : MemEnv) : Got × List Nat := l1Line s n false la env

/-! ## Stores that commit -/

/-- The line changes for every other core: copies in their L1 data caches go, and reservations on it are cleared (R211, R248). -/
def otherCores (s : State) (n : Fin 24) (la : Nat) : State :=
  { s with cores := s.cores.map fun e =>
      if e.1 = n.val then e else (e.1, unreserve { e.2 with l1d := l1Drop e.2.l1d la } la) }

/-- Bytes of a line replaced, in the L2 that holds it exclusive (R250, R251): `mask` and `data` stand at their places in the
line. -/
def writeL2 (s : State) (n : Fin 24) (la : Nat) (x : L2Line) (mask data : Line) (did : Nat) : State :=
  setL2 (otherCores s n la) (clusterOfCore n) la
    { data := mergeLine x.data data mask, dirty := true, poison := x.poison && mask ≠ beAll, writer := did }

/-- A pending STORE_BUS is recorded for the level that issued the store (R177): each of several is kept, and they are taken one by one,
the oldest that is eligible first. (DESIGN CHOICE, log 89) -/
def holdStoreBus (s : State) (n : Fin 24) (lvl pa : Nat) : State := updCore s n fun c => { c with sbus := c.sbus ++ [(lvl, pa)] }

/-- A store to normal memory commits (R242, R246): to the L2 where the line is cacheable, else to the point of coherence; it is on no
wrong path. `.error` is the state in which it has to wait. -/
def commitNormal (s : State) (n : Fin 24) (x : StoreEnt) (env : MemEnv) : Except State State :=
  let la := x.pa / 64
  let sh := 2 ^ (8 * (x.pa % 64))
  let mask := (2 ^ (8 * x.len) - 1) * sh
  if x.ty = 2 then
    match obtain s n x.attr true .read la { env with held := false } with
    | .wait s => .error s
    | .err s => .ok (holdStoreBus s n x.lvl x.pa)
    | .ok s y m =>
      .ok (writeL2 (if m then pmuEvent x.lvl n s 0x09 else s) n la y (BitVec.ofNat 512 mask) (BitVec.ofNat 512 (x.data * sh)) x.attr.did)
  else
    match pocWrite s (.core n) x.attr x.pa x.len (2 ^ (8 * x.len) - 1) x.data false (envAt env la) false with
    | .wait s => .error s
    | .err s => .ok (holdStoreBus s n x.lvl x.pa)
    | .ok s _ _ => .ok (otherCores s n la)

/-- A store leaves the buffer: the first entry equal to it. -/
def dropStore (s : State) (n : Fin 24) (x : StoreEnt) : State := updCore s n fun c => { c with sb := c.sb.erase x }

/-- Stores to normal memory that satisfy `p` commit, oldest first, up to one that has to wait. -/
def commitWhere (s : State) (n : Fin 24) (p : StoreEnt → Bool) (env : MemEnv) : Except State State :=
  ((core s n).sb.filter fun x => x.ty ≠ 0 && p x).foldl (fun r x => r.bind fun s => (commitNormal s n x env).map fun s => dropStore s n x) (.ok s)

/-- L2_SCRUB (R251): the scrubber of a cluster reads and checks a line. -/
def execL2Scrub (w : Fin 3) (la : Nat) (found : Fin 4) (s : State) : Result :=
  .next (match l2Line s w la with
    | some x => (l2Finding s w la x found).1
    | none => s)

end Sys2Proof.Machine
end

