-- ==== Sys2Proof/Machine/Bus.lean ====
section
/-!
DEFINITION. Machine/Bus.lean: accesses of any length by a master that is not coherent (the SCU, an Ethernet MAC): one request for
each block of 64 bytes (R589).
-/

namespace Sys2Proof.Machine

/-- The pieces of a range of bytes within blocks of 64. -/
def blockSpans (a n : Nat) : List (Nat × Nat) :=
  (List.range ((a + n - 1) / 64 - a / 64 + 1)).map fun i =>
    let lo := max a ((a / 64 + i) * 64)
    (lo, min (a + n) ((a / 64 + i + 1) * 64) - lo)

/-- What came of an access: bytes, an error response at an address, or a wait for a credit, a port or a line. -/
inductive BusRes where
  | ok (s : State) (l : List Byte)
  | err (s : State) (a : Nat)
  | wait (s : State)

/-- What follows an access, by what came of it. -/
def BusRes.elim {β : Type} (r : BusRes) (w : State → β) (e : State → Nat → β) (o : State → List Byte → β) : β :=
  match r with
  | .ok s l => o s l
  | .err s a => e s a
  | .wait s => w s

/-- What the memory system answers, as an access of a master that is not coherent sees it. -/
def ofPoc (isW : Bool) (n a : Nat) : PocAns → BusRes
  | .ok s x _ => .ok s (if isW then [] else bytesOf n x)
  | .err s => .err s a
  | .wait s => .wait s

/-- A request of a master to PCIe, which completes outside the fabric (R476): it is sent once, and the access takes its answer when it is
made again. (DESIGN CHOICE, log 80) -/
def pcieOne (s : State) (m : Master) (at_ : Attr) (a n : Nat) (w : Option Nat) : BusRes :=
  let op : ReqOp := if w.isSome then .write else .read
  let q : FReq := { master := m, op := op, addr := a, len := n, be := 2 ^ n - 1, data := w.getD 0, cls := Fin.ofNat 4 at_.cls, pid := at_.pid }
  match s.fab.txns.find? fun t => t.purp = .own && t.req = q && t.attr = at_ with
  | none => .wait (ingressOf (addTxn s { id := 0, req := q, attr := at_, lvl := 0, purp := .own, status := .posted }) s.fab.nextId)
  | some t =>
    if t.status = .answered ∨ t.status = .refused then
      (if t.err then .err (leaveFabric s t) a else .ok (leaveFabric s t) (if w.isSome then [] else bytesOf n t.rdata))
    else .wait s

/-- One request of a master, within a block; `w` is what a write carries. -/
def busOne (s : State) (m : Master) (at_ : Attr) (a n : Nat) (w : Option Nat) (env : MemEnv) : BusRes :=
  let op : ReqOp := if w.isSome then .write else .read
  match regionOf s a with
  | some .dram | some .sram | some .secure =>
    ofPoc w.isSome n a (match w with
      | some x => pocWrite s m at_ a n (2 ^ (8 * n) - 1) x false (envAt env (a / 64)) false
      | none => pocRead s m at_ op a n (envAt env (a / 64)))
  | some (.pcieOut _) => pcieOne s m at_ a n w
  | r =>
    match ingressDeny s m at_ op a n with
    | some k => .err (ferrLog s m at_ op a k) a
    | none =>
      if !credFree s at_.did || behindAny s m at_ a n then .wait s
      else match r with
        | some (.window k packed off) =>
          let q : FReq := { master := m, op := op, addr := a, len := n, be := 2 ^ n - 1, data := w.getD 0, cls := Fin.ofNat 4 at_.cls, pid := 0 }
          let x := windowServe (confTicks s k 8 env.waited) { id := 0, req := q, attr := at_, lvl := 0, purp := .plain, status := .transit } k packed off env.words
          if x.2.1.isSome then .err x.1 a else .ok x.1 (if w.isSome then [] else bytesOf n x.2.2.1)
        | _ => .ok s (if w.isSome then [] else bytesOf n (romBytes a n))

/-- An access of which one request has to wait is made again as a whole: of this try only what that request has sent stands.
(DESIGN CHOICE, log 80) -/
def waitOf (s : State) (one : State → BusRes) : BusRes :=
  match one s with
  | .wait t => .wait t
  | _ => .wait s

/-- Bytes read. (DESIGN CHOICE, log 80) -/
def busRead (s : State) (m : Master) (at_ : Attr) (a n : Nat) (env : MemEnv) : BusRes :=
  (blockSpans a n).foldl (fun r p => match r with
    | .ok u l => match busOne u m at_ p.1 p.2 none env with
      | .ok u l' => .ok u (l ++ l')
      | .wait _ => waitOf s fun s => busOne s m at_ p.1 p.2 none env
      | r => r
    | r => r) (.ok s [])

/-- Bytes written. -/
def busWrite (s : State) (m : Master) (at_ : Attr) (a : Nat) (l : List Byte) (env : MemEnv) : BusRes :=
  let one := fun (p : Nat × Nat) (s : State) => busOne s m at_ p.1 p.2 (some (ofBytes ((l.drop (p.1 - a)).take p.2))) env
  (blockSpans a l.length).foldl (fun r p => match r with
    | .ok u _ => match one p u with
      | .wait _ => waitOf s (one p)
      | r => r
    | r => r) (.ok s [])

end Sys2Proof.Machine
end

