-- ==== Sys2Proof/Machine/Lanes.lean ====
section
/-!
DEFINITION. Machine/Lanes.lean: the serial lanes, their claims and lane PLLs (R469 to R473).
-/

namespace Sys2Proof.Machine

/-- The page of a lane. -/
def lnPage (l : Nat) : Page := .ln (Fin.ofNat 32 l)

/-- A lane is out of electrical idle: it transmits, and takes what it receives (R472). -/
def laneOn (s : State) (l : Nat) : Bool := !rdB s (lnPage l) 0x044 6

/-- LPBK of a lane (R473): 1 near-end loopback, 2 far-end loopback. -/
def laneLoop (s : State) (l : Nat) : Nat := rdF s (lnPage l) 0x040 2 2

/-- The `n` lanes from one on can carry a link: none is in electrical idle, and none is looped back. (DESIGN CHOICE, log 64) -/
def lanesCarry (s : State) (l n : Nat) : Bool := (List.range n).all fun i => laneOn s (l + i) && laneLoop s (l + i) = 0

/-- FUNC and INST of LN_STAT for a page whose function uses lanes. -/
def laneFunc : Page → Option (Nat × Nat)
  | .pce c => some (1, c)
  | .eth m => some (2, m)
  | .tylw => some (3, 0)
  | _ => none

/-- The lanes of a function with a configuration word (R469). -/
def lanesFor (p : Page) (v : Reg32) : List Nat :=
  match p with
  | .pce c => (List.range (2 ^ fld v 2 2)).map fun i => 8 * c.val + i
  | .eth m => [20 + m.val]
  | .tylw => (List.range (2 ^ fld v 1 2)).map fun i => 28 + i
  | _ => []

/-- A lane belongs to a function. -/
def laneClaimed (s : State) (l : Nat) : Bool := rdF s (lnPage l) 0x044 0 2 ≠ 0

/-- The lanes claimed by a function. -/
def lanesOf (s : State) (p : Page) : List Nat :=
  match laneFunc p with
  | some (f, i) => (List.range 32).filter fun l => rdF s (lnPage l) 0x044 0 2 = f && rdF s (lnPage l) 0x044 2 3 = i
  | none => []

/-- A quad serves a function whose reference is not that of FUNC `f`: PCIe uses PCIE_REFCLK, the others REFCLK (R470). -/
def quadConflict (s : State) (f q : Nat) : Bool :=
  (List.range 4).any fun i =>
    let g := rdF s (lnPage (4 * q + i)) 0x044 0 2
    g ≠ 0 && decide (g = 1) != decide (f = 1)

/-- The code of LANE_BUSY, of REF_CONFLICT (R470). -/
def laneCodes : Page → Nat × Nat
  | .pce _ => (0x80, 0x81)
  | .eth _ => (0x80, 0x84)
  | _ => (0x83, 0x84)

/-- The configuration fields of a function's configuration register, EN apart. -/
def cfgMask : Page → Reg32
  | .pce _ => 0x7FE
  | .eth _ => 0x3FFFE
  | .tylw => 0xE
  | _ => 0

/-- A write of a configuration register that is rejected (R470). -/
def laneReject (s : State) (p : Page) (v : Reg32) : Option Nat :=
  match laneFunc p with
  | none => none
  | some (f, _) =>
    if rdB s p 0x040 0 then (if (v ^^^ rd s p 0x040) &&& cfgMask p ≠ 0 then some 0x85 else none)
    else if !bit v 0 then none
    else
      let l := lanesFor p v
      if l.any (laneClaimed s) then some (laneCodes p).1
      else if l.any fun i => quadConflict s f (i / 4) then some (laneCodes p).2
      else none

/-- A function takes its lanes; a lane of a quad whose PLL has locked leaves electrical idle. -/
def claimLanes (s : State) (p : Page) : State :=
  match laneFunc p with
  | none => s
  | some (f, i) => (lanesFor p (rd s p 0x040)).foldl (fun s l =>
      wr s (lnPage l) 0x044 (BitVec.ofNat 32 (f + i * 4 + (if s.lanePll.contains (l / 4) then 0 else 0x40)))) s

/-- A function gives its lanes back: they go to electrical idle, and a quad that serves nothing loses its lock. (DESIGN CHOICE, log 64) -/
def releaseLanes (s : State) (p : Page) : State :=
  let s := (lanesOf s p).foldl (fun s l => wr s (lnPage l) 0x044 0x40) s
  { s with lanePll := s.lanePll.filter fun q => (List.range 4).any fun i => laneClaimed s (4 * q + i) }

/-- A write of LN_CFG that is rejected (R473). -/
def lnReject (s : State) (p : Page) (off : Nat) (v : Reg32) : Option Nat :=
  if off ≠ 0x040 then none
  else if fld v 2 2 = 3 ∨ 11 ≤ fld v 4 4 then some 0x01
  else if fld v 2 2 ≠ 0 ∧ rdF s p 0x044 0 2 ≠ 0 then some 0x80
  else none

/-- LANE_PLL_LOCK (R472). (DESIGN CHOICE, log 64) -/
def execLanePllLock (q : Fin 8) (s : State) : Result :=
  .next (if clocksOn s ∧ !s.lanePll.contains q.val ∧ ((List.range 4).any fun i => laneClaimed s (4 * q.val + i)) then
      let s := { s with lanePll := q.val :: s.lanePll }
      (List.range 4).foldl (fun s i => if laneClaimed s (4 * q.val + i) then wrB s (lnPage (4 * q.val + i)) 0x044 6 false else s) s
    else s)

/-- CLOCK_AND_DATA_LOCK (R473). -/
def execClockAndDataLock (l : Fin 32) (s : State) : Result :=
  .next (if clocksOn s ∧ laneClaimed s l ∧ s.lanePll.contains (l.val / 4) then wrB s (.ln l) 0x044 5 true else s)

/-- LANE_LOCK_LOSS (R473). -/
def execLaneLockLoss (l : Fin 32) (s : State) : Result :=
  .next (if clocksOn s ∧ laneClaimed s l ∧ rdB s (.ln l) 0x044 5 then setIrq (wrB s (.ln l) 0x044 5 false) (.ln l) 1 else s)

/-- The link of the selected push interface `i` is up: Sage signals ready (R126, R128). -/
def bootReady (s : State) (i : Nat) : State :=
  if s.sage.phase = .push ∧ s.sage.bootif = i ∧ !s.sage.applying then { s with sage := { s.sage with rdy := true } } else s

/-- The identity of PCE0 in boot mode (R479, R580): the Vendor, Device and Subsystem IDs of the calibration set, or those of the Sage ROM.
(PRESUMED, log 64) -/
def bootIds (s : State) : Nat := (if calUsed s 8 then ofBytes (epBytes s 0x33C8 8) else Config.romPcieId) % 2 ^ 64

/-- Sage sets PCE0 for a push over PCIe: an endpoint with one function, GEN 5, width x8, its IDs and class code (R479). -/
def bootPce (s : State) : State :=
  wrF (claimLanes { wr s (.pce 0) 0x040 0x45F with pcies := SMap.upd {} s.pcies 0 fun p => { p with ids := bootIds s, code := 0x0B4000 } }
    (.pce 0)) (.pce 0) 0x044 0 2 1

/-- Training of the Tylwen link starts (R494): nothing is held for replay, and no member has been heard. -/
def tylTrain (s : State) : State :=
  wrF { s with tyl := { s.tyl with replay := [], seq := 0, capped := [], numbered := false } } .tylw 0x044 0 2 1

/-- Sage brings up the Tylwen link for a push over it (R126, R137), at its full width. (DESIGN CHOICE, log 74) -/
def bootTyl (s : State) : State := tylTrain (claimLanes (wr s .tylw 0x040 0x5) .tylw)

end Sys2Proof.Machine
end

