-- ==== Sys2Proof/Machine/Synt.lean ====
section
/-!
DEFINITION. Machine/Synt.lean: synchronised time and its registers (R489, R490), and gate lists against it (R485).
-/

namespace Sys2Proof.Machine

/-- Units of 2^-32 ns in a second. -/
def secUnits : Nat := 1000000000 * 2 ^ 32

/-- RATE, a signed number of 23 bits. -/
def syntRate (s : State) : Int := sextN 23 (rdF s .tylw 0x088 0 23)

/-- Sixteenths of a unit that a tick adds: 9 × (2^32 + RATE). (DESIGN CHOICE, log 72) -/
def syntTick (s : State) : Nat := (9 * ((2 : Int) ^ 32 + syntRate s)).toNat

/-- Synchronised time now, in sixteenths of 2^-32 ns: each tick advances it by exactly 0.5625 ns × (1 + RATE / 2^32). (DESIGN CHOICE,
log 72) -/
def syntFine (s : State) : Nat :=
  (s.synt.secs * secUnits + s.synt.ns * 2 ^ 32 + s.synt.frac) * 16 + s.synt.sub + (s.dt - s.synt.mark) * syntTick s

/-- Synchronised time now, in units of 2^-32 ns, within its 32 bits of seconds. -/
def syntNow (s : State) : Nat := syntFine s / 16 % (2 ^ 32 * secUnits)

/-- Synchronised time in ns. -/
def syntNs (s : State) : Nat := syntNow s / 2 ^ 32

/-- Synchronised time set, from the present tick on. -/
def syntSet (s : State) (v : Nat) : State :=
  let w := v % (2 ^ 32 * secUnits)
  { s with synt := { s.synt with secs := w / secUnits, ns := w % secUnits / 2 ^ 32, frac := w % 2 ^ 32, sub := syntFine s % 16, mark := s.dt } }

/-- Device time brought to the first tick whose synchronised time is at least `ns`. -/
def advanceSynt (s : State) (ns : Nat) : State :=
  let d := ns * 2 ^ 32 * 16 - (syntNow s * 16 + syntFine s % 16)
  advanceTo s (s.dt + (d + syntTick s - 1) / syntTick s)

/-- The latch of a master for the seconds (R490). -/
def syntLatchOf : Master → Option Nat
  | .core n => some n.val
  | .scu => some 24
  | _ => none

/-- What a read of a synchronised-time register returns (R490). -/
def syntRead (s : State) (m : Master) (off : Nat) : Option Nat :=
  if off = 0x080 then some (syntNow s % secUnits / 2 ^ 32)
  else if off = 0x084 then some (((syntLatchOf m).map fun k => SMap.get 0 s.synt.latch k).getD 0)
  else none

/-- A read of SYNT_NS latches the seconds for its master. -/
def syntLatch (s : State) (m : Master) : State :=
  match syntLatchOf m with
  | some k => { s with synt := { s.synt with latch := SMap.set 0 s.synt.latch k (syntNow s / secUnits) } }
  | none => s

/-! ## Gate lists (R485) -/

/-- The end of an entry that runs in the cycle started at `c0`: cut at the cycle's end, and the last one lasts up to it. -/
def gclEntryEnd (g : Gcl) (c0 e : Nat) : Nat :=
  let t := c0 + ((g.entries.take (e + 1)).map fun x => x.2.2).sum
  if e + 1 < g.entries.length then min t (c0 + g.cycle) else c0 + g.cycle

/-- The cycle and entry that follow. -/
def nextEntry (g : Gcl) (c0 e : Nat) : Nat × Nat :=
  if e + 1 < g.entries.length ∧ gclEntryEnd g c0 e < c0 + g.cycle then (c0, e + 1) else (c0 + g.cycle, 0)

/-- Gates and operation of an entry. -/
def entryOf (g : Gcl) (e : Nat) : Nat × Nat := match g.entries[e]? with
  | some x => (x.1, x.2.1)
  | none => (0xFF, 0)

/-- The gates of a MAC take the states of an entry, with hold and release (R486). -/
def applyEntry (x : EthMac) (g : Gcl) (c0 e : Nat) : EthMac :=
  let o := entryOf g e
  { x with cycle0 := c0, entry := e, gates := o.1, hold := if o.2 = 1 then true else if o.2 = 2 then false else x.hold }

/-- When the open gate of a class closes in a list that runs, looking `k` entries ahead. -/
def closeIn (q : Nat) (g : Gcl) : Nat → Nat → Nat → Option Nat
  | 0, _, _ => none
  | k + 1, c0, e =>
    let n := nextEntry g c0 e
    if bitN (entryOf g n.2).1 q then closeIn q g k n.1 n.2 else some (gclEntryEnd g c0 e)

/-- When the open gate of a class closes in a list from an entry on; never where it stays open over two whole cycles. -/
def gateShut (q : Nat) (g : Gcl) (c0 e : Nat) : Option Nat := closeIn q g (2 * g.entries.length + 2) c0 e

/-- When the open gate of a class closes, with a pending list and its start: in the running list before that start, or from it on in the
pending one (R485). -/
def gateClose (q : Nat) (run : Option (Gcl × Nat × Nat)) (pend : Option (Nat × Gcl)) : Option Nat :=
  let t := run.bind fun x => gateShut q x.1 x.2.1 x.2.2
  match pend with
  | none => t
  | some (st, h) =>
    if t.any fun x => decide (x < st) then t
    else if bitN (entryOf h 0).1 q then gateShut q h st 0 else some st

/-- The first cycle start of a list at or after its base that is not past (R485). -/
def gclStart (g : Gcl) (now : Nat) : Nat :=
  if now ≤ g.base then g.base else g.base + ((now - g.base) / g.cycle + 1) * g.cycle

/-- Every MAC's lists follow a step of synchronised time (R485, R502). -/
def gatesFollow (s : State) : State :=
  let now := syntNs s
  let f := fun (x : EthMac) =>
    let x := match x.pend with
      | some g => { x with start := gclStart g now }
      | none => x
    match x.gcl with
    | some g =>
      let c0 := if now < g.base then g.base - ((g.base - now + g.cycle - 1) / g.cycle) * g.cycle else g.base + (now - g.base) / g.cycle * g.cycle
      let e := (List.range g.entries.length).find? fun e => decide (now < gclEntryEnd g c0 e)
      applyEntry { x with hold := x.hold } g c0 (e.getD 0)
    | none => x
  { s with macs := s.macs.map fun e => (e.1, f e.2) }

/-- A write of a synchronised-time register that does more than store. -/
def syntWrite (s : State) (off : Nat) (v : Reg32) : Option State :=
  if off = 0x084 then some (gatesFollow (syntSet s (v.toNat * secUnits + syntNow s % secUnits)))
  else if off = 0x088 then
    let s := syntSet s (syntNow s)
    some (wrF s .tylw 0x088 0 23 (fld v 0 23))
  else if off = 0x08C then
    let m : Int := 2 ^ 32 * secUnits
    some (gatesFollow (syntSet s (((syntNow s : Int) + v.toInt * 2 ^ 32) % m).toNat))
  else none

end Sys2Proof.Machine
end

