-- ==== Sys2Proof/Machine/Eth.lean ====
section
/-!
DEFINITION. Machine/Eth.lean: the Ethernet MACs (R481 to R488).
-/

namespace Sys2Proof.Machine

/-- A MAC's record. -/
def mac (s : State) (m : Fin 8) : EthMac := SMap.get {} s.macs m

/-- A MAC's record changed. -/
def updMac (s : State) (m : Fin 8) (f : EthMac → EthMac) : State := { s with macs := SMap.upd {} s.macs m f }

/-- The region of a MAC (R482). -/
def ethBase (s : State) (m : Fin 8) : Nat := rdF s (.eth m) 0x048 0 31 * 2 ^ 17

/-- Attributes of a MAC's requests. -/
def ethAttr (s : State) (m : Fin 8) : Attr := attrOf s (.eth m) 0 2 0

/-- Bytes of memory read by a MAC. -/
def ethGet (s : State) (m : Fin 8) (a n : Nat) (env : MemEnv) : BusRes := busRead s (.eth m) (ethAttr s m) a n env

/-- Bytes of memory written by a MAC. -/
def ethPut (s : State) (m : Fin 8) (a : Nat) (l : List Byte) (env : MemEnv) : BusRes := busWrite s (.eth m) (ethAttr s m) a l env

/-- A MAC works: enabled, clocks running, its owner not gated. -/
def ethOn (s : State) (m : Fin 8) : Bool := rdB s (.eth m) 0x040 0 && clocksOn s && !gated s (owner s (.eth m))

/-- The lane of a MAC (R481). -/
def ethLane (m : Fin 8) : Nat := 20 + m.val

/-- A MAC sends and receives: it works, its link is up, and its lane is out of electrical idle (R472). -/
def ethLive (s : State) (m : Fin 8) : Bool :=
  ethOn s m && rdB s (.eth m) 0x044 0 && !blkBusy s (.eth m) && laneOn s (ethLane m)

/-- A ring stops on a bus error (R482). -/
def ringStop (s : State) (m : Fin 8) (rx : Bool) (q a : Nat) : State :=
  let s := updMac s m fun x => if rx then { x with rxStop := x.rxStop ||| 2 ^ q } else { x with txStop := x.txStop ||| 2 ^ q }
  setIrq (recContained s (.eth m) 0x82 (a % 2 ^ 32)) (.eth m) 8

/-- A head or tail of a ring (R488): 0 TXTAIL, 1 TXHEAD, 2 RXTAIL, 3 RXHEAD. -/
def ringPtr (s : State) (m : Fin 8) (q i : Nat) : Nat := rdF s (.eth m) (0x080 + 4 * q) (8 * i) 8

/-- A head moves on. -/
def ringNext (s : State) (m : Fin 8) (q i : Nat) : State := wrF s (.eth m) (0x080 + 4 * q) (8 * i) 8 ((ringPtr s m q i + 1) % 256)

/-- A field of bytes. -/
def byteF (l : List Byte) (o n : Nat) : Nat := ofBytes ((l.drop o).take n)

/-! ## Streams (R487) -/

/-- The stream state of an entry of a MAC. -/
def strmOf (s : State) (m : Fin 8) (i : Nat) : Nat := rdF s (.eth m) 0x0A0 2 6 + i

/-- A stream entry in use. (DESIGN CHOICE, log 67) -/
def cbEntry (s : State) (m : Fin 8) (i : Nat) : Option CbEntry :=
  if i < rdF s (.eth m) 0x0A0 8 7 then SMap.find? (mac s m).cb i else none

/-- A MAC named by MACS that has the owner of `m`. -/
def macsAllow (s : State) (m k : Fin 8) (macs : Nat) : Bool := bitN macs k.val && owner s (.eth m) = owner s (.eth k)

/-- A frame has a VLAN tag. -/
def hasVlan (f : List Byte) : Bool := f[12]? = some 0x81 && f[13]? = some 0x00

/-- The VID of a frame. -/
def frameVid (f : List Byte) : Nat := if hasVlan f then (ofBE2 f 14) % 4096 else 0
where
  /-- Two bytes, most significant first. -/
  ofBE2 (f : List Byte) (o : Nat) : Nat := byteF f o 1 * 256 + byteF f (o + 1) 1

/-- Where the tag of sequence numbers stands: after the addresses and a VLAN tag (IEEE 802.1CB). (PRESUMED, log 66) -/
def rtagAt (f : List Byte) : Nat := if hasVlan f then 16 else 12

/-- The frame with its sequence number in a redundancy tag. (PRESUMED, log 66) -/
def addRtag (f : List Byte) (seq : Nat) : List Byte :=
  let o := rtagAt f
  f.take o ++ [0xF1, 0xC1, 0, 0, BitVec.ofNat 8 (seq / 256), BitVec.ofNat 8 seq] ++ f.drop o

/-- The sequence number of a frame that has a redundancy tag. -/
def rtagSeq (f : List Byte) : Option Nat :=
  let o := rtagAt f
  if f[o]? = some 0xF1 ∧ f[o + 1]? = some 0xC1 then some (byteF f (o + 4) 1 * 256 + byteF f (o + 5) 1) else none

/-- Null stream identification (R487): the entry of a MAC, or of a MAC that eliminates together with it, whose destination address and
VID a frame carries. (DESIGN CHOICE, log 67) -/
def streamOf (s : State) (m : Fin 8) (f : List Byte) : Option (Fin 8 × Nat × CbEntry) :=
  let vid := frameVid f
  let da := byteF f 0 6
  (m :: (List.finRange 8).filter fun k => k ≠ m).findSome? fun k =>
    (List.range 64).findSome? fun i => match cbEntry s k i with
      | some e => if e.dmac = da ∧ e.vid = vid ∧ e.func ≠ 0 ∧ (k = m ∨ macsAllow s k m e.macs) then some (k, i, e) else none
      | none => none

/-- Vector recovery (IEEE 802.1CB): the state after a sequence number, and whether the frame is kept. -/
def recover (x : Strm) (hist seq : Nat) : Strm × Bool :=
  if x.take then ({ x with take := false, recSeq := seq, vec := 1 }, true)
  else
    let d := sextN 16 ((seq + 65536 - x.recSeq) % 65536)
    if (hist : Int) ≤ d ∨ d ≤ -(hist : Int) then (x, false)
    else if d ≤ 0 then
      (if bitN x.vec d.natAbs then (x, false) else ({ x with vec := x.vec + 2 ^ d.natAbs }, true))
    else ({ x with recSeq := seq, vec := (x.vec * 2 ^ d.natAbs + 1) % 2 ^ hist }, true)

/-- A received frame passes the recovery of its stream. -/
def recoverFrame (s : State) (k : Fin 8) (i : Nat) (e : CbEntry) (f : List Byte) : State × Bool :=
  if e.func < 2 then (s, true)
  else match rtagSeq f with
    | none => (s, true)
    | some seq =>
      let x := SMap.get {} s.strms (strmOf s k i)
      let r := recover x e.hist seq
      let y := if r.2 ∧ e.reset ≠ 0 then { r.1 with expire := s.dt + e.reset * 16000000 / 9 } else r.1
      ({ s with strms := SMap.set {} s.strms (strmOf s k i) y }, r.2)

/-- STREAM_RESET_TIMEOUT (R487): recovery takes any number next. -/
def execStreamResetTimeout (i : Fin 64) (s : State) : Result :=
  .next (let x := SMap.get {} s.strms i
    if x.expire = 0 ∨ !clocksOn s then s
    else { advanceTo s x.expire with strms := SMap.set {} s.strms i { genSeq := x.genSeq } })

/-- A stream entry as its 16 bytes give it; the flag says that it holds a reserved value. -/
def cbParse (l : List Byte) : CbEntry × Bool :=
  let w := byteF l 6 2
  let e : CbEntry := { dmac := byteF l 0 6, vid := w % 4096, func := w / 2 ^ 14, macs := byteF l 8 1, hist := byteF l 9 1, reset := byteF l 10 2 }
  let bad := w / 4096 % 4 ≠ 0 || byteF l 12 4 ≠ 0 || (decide (2 ≤ e.func) && (e.hist = 0 || decide (32 < e.hist)))
  (if bad then { e with func := 0 } else e, bad)

/-- GCL_BAD, with the offset of ETH_CTL. -/
def gclBad (s : State) (m : Fin 8) : State := recInternal s (.eth m) 0x83 0x0A0

/-- CB_LOAD: the entries of the states claimed are read; `.error` is the state in which a read waits. -/
def cbLoad (s : State) (m : Fin 8) (env : MemEnv) : Except State State :=
  let n := rdF s (.eth m) 0x0A0 8 7
  if n = 0 then .ok (updMac s m fun x => { x with cb := [] })
  else match ethGet s m (ethBase s m + 0x10420) (16 * n) env with
    | .wait s => .error s
    | .err s _ => .ok (gclBad s m)
    | .ok s l =>
      let r := (List.range n).foldl (fun (r : SMap CbEntry × Bool) i =>
        let c := cbParse ((l.drop (16 * i)).take 16)
        (SMap.put r.1 i c.1, r.2 || c.2)) ([], false)
      let s := updMac s m fun x => { x with cb := r.1 }
      .ok (if r.2 then gclBad s m else s)

/-! ## Gate lists (R485) -/

/-- The admin list in memory; none where it is refused. -/
def gclParse (h l : List Byte) : Option Gcl :=
  let n := byteF h 16 4
  let es := (List.range n).map fun i =>
    let e := byteF l (8 * i) 8
    (e % 256, e / 256 % 4, e / 2 ^ 32)
  let bad := (List.range n).any fun i =>
    let e := byteF l (8 * i) 8
    decide (e / 256 % 4 = 3) || e / 2 ^ 10 % 2 ^ 22 ≠ 0
  if n = 0 ∨ 128 < n ∨ byteF h 12 4 = 0 ∨ byteF h 20 12 ≠ 0 ∨ byteF h 6 2 ≠ 0 ∨ bad then none
  else some { base := byteF h 0 4 * 1000000000 + byteF h 8 4, cycle := byteF h 12 4, entries := es }

/-- The entries of a gate list, after its header `h`, are read, and the list becomes the pending one (R485). -/
def gclRead (s : State) (m : Fin 8) (h : List Byte) (env : MemEnv) : Except State State :=
  let n := 8 * (byteF h 16 4 % 129 + (if byteF h 16 4 % 129 = 0 then 1 else 0))
  (ethGet s m (ethBase s m + 0x10020) n env).elim .error (fun s _ => .ok (gclBad s m)) fun s l =>
    match gclParse h l with
    | none => .ok (gclBad s m)
    | some g =>
      let now := syntNs s
      .ok (wrB (updMac s m fun x => { x with pend := some g, start := gclStart g now }) (.eth m) 0x044 6 true)

/-- GCL_GO: the list waits for its start, in place of one that waits already, or is refused. -/
def gclGo (s : State) (m : Fin 8) (env : MemEnv) : Except State State :=
  (ethGet s m (ethBase s m + 0x10000) 32 env).elim .error (fun s _ => .ok (gclBad s m)) fun s h => gclRead s m h env

/-! ## Transmission (R482, R485 to R487) -/

/-- Megabits a second of SPEED. -/
def ethMbps (k : Nat) : Nat := [10, 100, 1000, 2500, 5000, 10000, 25000].getD k 25000

/-- The ns that a frame of `n` bytes takes with its preamble and check value. (DESIGN CHOICE, log 68) -/
def frameNs (s : State) (m : Fin 8) (n : Nat) : Nat :=
  let r := ethMbps (rdF s (.eth m) 0x044 1 3)
  ((n + 12) * 8000 + r - 1) / r

/-- Frames of a class are sent as preemptable (R486). -/
def preemptable (s : State) (m : Fin 8) (q : Nat) : Bool :=
  rdB s (.eth m) 0x040 7 && rdB s (.eth m) 0x040 (8 + q) && rdF s (.eth m) 0x044 4 2 = 2

/-- A class may start a frame at all: its gate is open, and no hold stands against it. -/
def classOpen (s : State) (m : Fin 8) (q : Nat) : Bool :=
  (!rdB s (.eth m) 0x040 6 || bitN (mac s m).gates q) && !((mac s m).hold && preemptable s m q)

/-- A class may start a frame of its ring: a descriptor given, and the ring running. -/
def classReady (s : State) (m : Fin 8) (q : Nat) : Bool :=
  ringPtr s m q 1 ≠ ringPtr s m q 0 && !bitN (mac s m).txStop q && classOpen s m q

/-- A frame of `n` bytes ends before its gate closes. (DESIGN CHOICE, log 68) -/
def fitsGate (s : State) (m : Fin 8) (q n : Nat) : Bool :=
  let x := mac s m
  !rdB s (.eth m) 0x040 6 ||
    (gateClose q (x.gcl.map fun g => (g, x.cycle0, x.entry)) (x.pend.map fun h => (x.start, h))).all fun t =>
      decide (syntNs s + frameNs s m n ≤ t)

/-- A frame of `n` bytes occupies the lane for so many ticks. -/
def frameTicks (s : State) (m : Fin 8) (n : Nat) : Nat := (frameNs s m n * 16 + 8) / 9

/-- The frame that is on a MAC's lane now. -/
def laneNow (s : State) (m : Fin 8) : Option LaneTx := (mac s m).lane.filter fun l => decide (s.dt < l.stop)

/-- Where a frame on the lane is cut when an express frame preempts it (R486): after the bytes sent, and after the minimum fragment at
least; none where it is express, or too little would be left. (PRESUMED, log 69) -/
def fragCut (s : State) (m : Fin 8) (l : LaneTx) : Option Nat :=
  let sent := (s.dt - l.start) * 9 * ethMbps (rdF s (.eth m) 0x044 1 3) / 128000
  let c := max (64 * (rdF s (.eth m) 0x040 16 2 + 1)) sent
  if l.pre ∧ c + 60 ≤ l.bytes.length then some c else none

/-- Bytes go out on the lane of a MAC; in near-end loopback they come back, in far-end loopback the lane sends what it receives instead
(R473). -/
def onLane (s : State) (m : Fin 8) (pre : Bool) (f : List Byte) : State :=
  let lp := laneLoop s (ethLane m)
  updMac s m fun x => { x with
    sent := if lp = 2 then x.sent else some (pre, f)
    lane := some { pre := pre, bytes := f, start := s.dt, stop := s.dt + frameTicks s m f.length }
    loop := if lp = 1 then x.loop ++ [f] else x.loop }

/-- A hold preempts the frame on the lane where it can be cut (R486): what is left of it waits for the release. (DESIGN CHOICE, log 69) -/
def holdCut (s : State) (m : Fin 8) : State :=
  if !(mac s m).hold then s
  else match (laneNow s m).bind fun l => (fragCut s m l).map fun c => (l, c) with
    | some (l, c) => updMac s m fun x =>
      { x with frag := x.frag ++ [l.bytes.take c], rest := some (l.bytes.drop c)
               lane := some { l with bytes := l.bytes.take c, stop := l.start + frameTicks s m c } }
    | none => s

/-- GCL_TAKEOVER (R485): the pending list takes over at its start. -/
def execGclTakeover (m : Fin 8) (s : State) : Result :=
  .next (if !clocksOn s then s else match (mac s m).pend with
    | none => s
    | some g =>
      let st := (mac s m).start
      let s := advanceSynt s st
      let s := updMac s m fun x => applyEntry { x with gcl := some g, pend := none } g st 0
      holdCut (setIrq (wrB s (.eth m) 0x044 6 false) (.eth m) 16) m)

/-- GATE_ENTRY (R485): the running entry ends and the next applies. -/
def execGateEntry (m : Fin 8) (s : State) : Result :=
  .next (if !clocksOn s then s else match (mac s m).gcl with
    | none => s
    | some g =>
      let x := mac s m
      let n := nextEntry g x.cycle0 x.entry
      holdCut (updMac (advanceSynt s (gclEntryEnd g x.cycle0 x.entry)) m fun x => applyEntry x g n.1 n.2) m)

/-- A frame of a class may start on the lane now: the lane is free and no rest of a preempted frame goes first, or the frame is express and
preempts the one that is there (R486). -/
def laneFor (s : State) (m : Fin 8) (q : Nat) : Bool :=
  match laneNow s m with
  | some l => (fragCut s m l).isSome && !preemptable s m q
  | none => (mac s m).rest.isNone || !preemptable s m q

/-- A frame starts on the lane: the frame that it preempts is cut there, and the rest of it waits (R486). -/
def startFrame (s : State) (m : Fin 8) (pre : Bool) (f : List Byte) : State :=
  let cut := (laneNow s m).bind fun l => (fragCut s m l).map fun c => (l.bytes.take c, l.bytes.drop c)
  let s := match cut with
    | some c => updMac s m fun x => { x with frag := x.frag ++ [c.1], rest := some c.2 }
    | none => if (mac s m).rest.isSome then s else updMac s m fun x => { x with frag := [] }
  onLane s m pre f

/-- The rest of a preempted frame goes on once the lane is free and no hold stands (R486). -/
def resumeRest (s : State) (m : Fin 8) : State :=
  match (mac s m).rest with
  | some f => if (mac s m).hold then s else onLane (updMac s m fun x => { x with rest := none }) m true f
  | none => s

/-- The address of a TX descriptor. (DESIGN CHOICE, log 69) -/
def txDesc (s : State) (m : Fin 8) (q : Nat) : Nat := ethBase s m + 0x1000 * q + 16 * ringPtr s m q 1

/-- A TX descriptor is written back, and its ring goes on to the next; `.error` is the state in which the write waits. -/
def txStore (s : State) (m : Fin 8) (q : Nat) (l : List Byte) (env : MemEnv) : Except State State :=
  (ethPut s m (txDesc s m q) l env).elim .error (fun s a => .ok (ringStop s m false q a)) fun s _ =>
    .ok (setIrq (ringNext s m q 1) (.eth m) 1)

/-- A TX descriptor is written back with a status: the time stamp where TS asks for one. (DESIGN CHOICE, log 69) -/
def txBack (s : State) (m : Fin 8) (q : Nat) (d : List Byte) (st : Nat) (stamp : Option Nat) (env : MemEnv) : Except State State :=
  let tail := fun x => bytesOf 8 x ++ (d.drop 8).take 2 ++ [(d.getD 10 0) &&& 0xFE] ++ (d.drop 11).take 1 ++ bytesOf 4 st
  match stamp with
  | some x => txStore s m q (tail x) env
  | none => txStore (freeVal 64 s).2 m q (tail (freeVal 64 s).1) env

/-- A TX descriptor holds a reserved value or a length out of range (R482). -/
def txBad (d : List Byte) : Bool :=
  let len := byteF d 8 2
  byteF d 6 2 ≠ 0 || decide (len < 60) || decide (9216 < len) || decide (8 ≤ byteF d 10 1) || byteF d 12 4 ≠ 0
    || (bitN (byteF d 10 1) 2 && decide (64 ≤ byteF d 11 1))

/-- A generated frame comes to a MAC that is to replicate it: it starts there by that MAC's own gates, lane and preemption, or waits; a MAC
whose lane carries nothing sends none (R472, R485 to R487). (DESIGN CHOICE, log 67) -/
def replicate (s : State) (j : Fin 8) (q : Nat) (g : List Byte) : State :=
  if !ethLive s j then s
  else if (mac s j).reps.all (fun r => r.1 ≠ q) && classOpen s j q && laneFor s j q && fitsGate s j q g.length then
    startFrame s j (preemptable s j q) g
  else updMac s j fun x => { x with reps := x.reps ++ [(q, g)] }

/-- The oldest frame of a class that a MAC is to replicate. -/
def repHead (s : State) (m : Fin 8) (q : Nat) : Option (Nat × List Byte) := (mac s m).reps.find? fun r => r.1 = q

/-- The frame leaves the MAC, and a generated one goes to every MAC it is replicated to. -/
def sendFrame (s : State) (m : Fin 8) (q : Nat) (d f : List Byte) : State :=
  let pre := preemptable s m q
  let plain := startFrame s m pre f
  if !bitN (byteF d 10 1) 2 then plain
  else match cbEntry s m (byteF d 11 1) with
    | some e =>
      if e.func % 2 = 0 then plain
      else
        let k := strmOf s m (byteF d 11 1)
        let x := SMap.get {} s.strms k
        let g := addRtag f x.genSeq
        let s := { s with strms := SMap.set {} s.strms k { x with genSeq := (x.genSeq + 1) % 65536 } }
        (List.finRange 8).foldl (fun s j => if j ≠ m ∧ macsAllow s m j e.macs then replicate s j q g else s) (startFrame s m pre g)
    | none => plain

/-- Classes are tried in turn: the first with a frame ready whose frame ends before its gate closes is served, a frame to replicate before one
of the ring, which leaves once its descriptor is written back; `.error` is the state in which the MAC waits. -/
def txTry (m : Fin 8) (stamp : Nat) (env : MemEnv) : List Nat → State → Except State State
  | [], s => .ok s
  | q :: qs, s =>
    if (repHead s m q).isSome then
      (match repHead s m q with
      | some r =>
        if classOpen s m q && fitsGate s m q r.2.length then
          .ok (startFrame (updMac s m fun x => { x with reps := x.reps.erase r }) m (preemptable s m q) r.2)
        else txTry m stamp env qs s
      | none => txTry m stamp env qs s)
    else if !classReady s m q then txTry m stamp env qs s
    else match ethGet s m (txDesc s m q) 16 env with
      | .wait s => .error s
      | .err s a => .ok (ringStop s m false q a)
      | .ok s d =>
        if !bitN (byteF d 10 1) 0 then txTry m stamp env qs s
        else if txBad d then txBack s m q d 1 none env
        else
          let len := byteF d 8 2
          let cb := bitN (byteF d 10 1) 2 && ((cbEntry s m (byteF d 11 1)).map fun e => decide (e.func % 2 = 1)).getD false
          if !fitsGate s m q (if cb then len + 6 else len) then txTry m stamp env qs s
          else match ethGet s m (byteF d 0 6) len env with
            | .wait s => .error s
            | .err s a => (txBack s m q d 2 none env).map fun s => ringStop s m false q a
            | .ok s f => (txBack s m q d 0 (if bitN (byteF d 10 1) 1 then some stamp else none) env).map fun s => sendFrame s m q d f

/-- A time stamp, ns in bits 31:0 and seconds above, lies within two ticks of synchronised time at the lane, which is that of the present
tick (R484). (DESIGN CHOICE, log 69) -/
def stampOk (s : State) (stamp : Nat) : Bool :=
  let x := (stamp / 2 ^ 32 * 1000000000 + stamp % 2 ^ 32) * 2 ^ 32
  decide (stamp % 2 ^ 32 < 1000000000) && decide (x ≤ syntNow s + 9 * 2 ^ 29) && decide (syntNow s ≤ x + 9 * 2 ^ 29)

/-- ETH_TX_FRAME (R482, R484 to R487): `stamp` is the time stamp taken at the lane, ns in bits 31:0 and seconds above. While a frame is on
the lane only an express one starts, and only where it can preempt; while the rest of a preempted frame waits, express frames go first. -/
def execEthTxFrame (m : Fin 8) (stamp : BitVec 64) (env : MemEnv) (s : State) : Result :=
  let express := [7, 6, 5, 4, 3, 2, 1, 0].filter fun q => !preemptable s m q
  .next (if !ethLive s m ∨ !stampOk s stamp.toNat then s
    else match laneNow s m with
      | some l => if (fragCut s m l).isSome then settled (txTry m stamp.toNat env express s) else s
      | none =>
        if (mac s m).rest.isNone then settled (txTry m stamp.toNat env [7, 6, 5, 4, 3, 2, 1, 0] s)
        else
          let t := settled (txTry m stamp.toNat env express s)
          if (mac t m).lane = (mac s m).lane then resumeRest t m else t)

/-! ## Reception (R482 to R484, R487) -/

/-- The address of an RX descriptor. -/
def rxDesc (s : State) (m : Fin 8) (q i : Nat) : Nat := ethBase s m + 0x8000 + 0x1000 * q + 16 * i

/-- Frames of a class that wait. -/
def rxWait (s : State) (m : Fin 8) (q : Nat) : List RxWait := SMap.get [] (mac s m).wait q

/-- Frames of a class that wait, changed. -/
def setRxWait (s : State) (m : Fin 8) (q : Nat) (l : List RxWait) : State :=
  updMac s m fun x => { x with wait := SMap.set [] x.wait q l }

/-- The write-back of an RX descriptor, after the bytes of a frame have been placed; whether the ring goes on. -/
def rxBack (s : State) (m : Fin 8) (q a : Nat) (w : RxWait) (ws : List RxWait) (env : MemEnv) : State × Bool :=
  let n := min 2048 w.bytes.length
  let last := decide (w.bytes.length ≤ 2048)
  let fl := 2 * (!w.begun).toNat + 4 * last.toNat
  let l := bytesOf 8 w.stamp ++ bytesOf 2 n ++ [BitVec.ofNat 8 fl, BitVec.ofNat 8 w.idx] ++ bytesOf 4 0
  (ethPut s m a l env).elim (fun s => (s, false)) (fun s b => (ringStop s m true q b, false)) fun s _ =>
    (setRxWait (setIrq (ringNext s m q 3) (.eth m) 2) m q (if last then ws else { w with bytes := w.bytes.drop 2048, begun := true } :: ws), true)

/-- The bytes of a waiting frame are placed where the descriptor `d` says. -/
def rxPlace (s : State) (m : Fin 8) (q a : Nat) (d : List Byte) (w : RxWait) (ws : List RxWait) (env : MemEnv) : State × Bool :=
  (ethPut s m (byteF d 0 6) (w.bytes.take (min 2048 w.bytes.length)) env).elim (fun s => (s, false))
    (fun s b => (ringStop s m true q b, false)) fun s _ => rxBack s m q a w ws env

/-- The head RX descriptor of a ring is used for a waiting frame. -/
def rxUse (s : State) (m : Fin 8) (q : Nat) (w : RxWait) (ws : List RxWait) (env : MemEnv) : State × Bool :=
  let a := rxDesc s m q (ringPtr s m q 3)
  (ethGet s m a 16 env).elim (fun s => (s, false)) (fun s b => (ringStop s m true q b, false)) fun s d =>
    if !bitN (byteF d 10 1) 0 then (s, false) else rxPlace s m q a d w ws env

/-- Goes on with `f` where the flag says so. -/
def goOn (r : State × Bool) (f : State → State) : State := if r.2 then f r.1 else r.1

/-- The oldest waiting frame fills descriptors while there are any (R483). -/
def rxPump (m : Fin 8) (q : Nat) (env : MemEnv) : Nat → State → State
  | 0, s => s
  | f + 1, s =>
    match rxWait s m q with
    | [] => s
    | w :: ws =>
      if ringPtr s m q 3 = ringPtr s m q 2 ∨ bitN (mac s m).rxStop q then s
      else goOn (rxUse s m q w ws env) (rxPump m q env f)

/-- The rings of a MAC take what waits. -/
def rxPumpAll (s : State) (m : Fin 8) (env : MemEnv) : State :=
  if ethOn s m then (List.range 8).foldl (fun s q => rxPump m q env 1024 s) s else s

/-- The flags of a descriptor's byte `d` are written back with frame end and overflow set. -/
def rxCutBack (s : State) (m : Fin 8) (q a : Nat) (d : List Byte) (env : MemEnv) : State :=
  (ethPut s m (a + 10) [(d.getD 0 0) ||| 0x0C] env).elim id (fun s b => ringStop s m true q b) fun s _ => s

/-- The descriptor a frame last filled ends it. -/
def rxCut (s : State) (m : Fin 8) (q : Nat) (env : MemEnv) : State :=
  let a := rxDesc s m q ((ringPtr s m q 3 + 255) % 256)
  (ethGet s m (a + 10) 1 env).elim id (fun s b => ringStop s m true q b) fun s d => rxCutBack s m q a d env

/-- A frame that its class cannot hold: dropped whole, or ended in the descriptor it last filled (R483). -/
def rxOverflow (s : State) (m : Fin 8) (q : Nat) (env : MemEnv) : State :=
  let l := rxWait s m q
  match l.getLast? with
  | none => s
  | some w =>
    let s := setRxWait s m q l.dropLast
    if !w.begun then bumpF s (.eth m) 0x0A4 0 16 1
    else rxCut (bumpF s (.eth m) 0x0A4 16 16 1) m q env

/-- A lane receives a frame (R473): in near-end loopback only the frame that it sent first of those not yet back, and in far-end loopback
it sends back what it receives. -/
def laneTake (s : State) (m : Fin 8) (f : List Byte) : Option State :=
  match laneLoop s (ethLane m) with
  | 1 => if (mac s m).loop.head? = some f then some (updMac s m fun x => { x with loop := x.loop.tail }) else none
  | 2 => some (updMac s m fun x => { x with sent := some (false, f) })
  | _ => some s

/-- A frame that has arrived (R483, R484, R487): stream filters, the RX FIFO and the ring of its queue. -/
def rxArrive (m : Fin 8) (f : List Byte) (stamp : BitVec 64) (env : MemEnv) (s : State) : State :=
  let q := if hasVlan f then byteF f 14 1 / 32 else 0
  let st := streamOf s m f
  let r := match st with
    | some (k, i, e) => recoverFrame s k i e f
    | none => (s, true)
  if !r.2 then bumpF r.1 (.eth m) 0x044 16 16 1
  else
    let s := rxPump m q env 1024 r.1
    let w : RxWait := { bytes := f, stamp := stamp.toNat, idx := (st.map fun x => x.2.1).getD 0xFF }
    let s := rxPump m q env 1024 (setRxWait s m q (rxWait s m q ++ [w]))
    if 16384 < ((rxWait s m q).map fun w => w.bytes.length).sum then rxOverflow s m q env else s

/-- ETH_RX_FRAME (R483, R484, R487): a frame from its destination address to the byte before its check value, with the time stamp. -/
def execEthRxFrame (m : Fin 8) (f : List Byte) (stamp : BitVec 64) (env : MemEnv) (s : State) : Result :=
  .next (if !ethLive s m ∨ f.isEmpty ∨ !stampOk s stamp.toNat then s
    else match laneTake s m f with
      | some s => rxArrive m f stamp env s
      | none => s)

/-! ## Link and verification (R481, R486, R488) -/

/-- The data rates of a mode, as SPEED codes. -/
def modeSpeeds (k : Nat) : List Nat := [[0, 1, 2], [3], [1, 2, 3, 4, 5], [5], [6]].getD k []

/-- The PCS link changes: LINK, SPEED and VERIFY follow. -/
def ethLink (s : State) (m : Fin 8) (up : Bool) (speed : Nat) : State :=
  let ver := up && rdB s (.eth m) 0x040 7 && decide (2 ≤ speed)
  let t := wrF (wrF (wrB s (.eth m) 0x044 0 up) (.eth m) 0x044 1 3 speed) (.eth m) 0x044 4 2 ver.toNat
  if rdB s (.eth m) 0x044 0 = up then t else setIrq t (.eth m) 4

/-- ETH_LINK_CHANGE (R488). -/
def execEthLinkChange (m : Fin 8) (up : Bool) (speed : Fin 8) (s : State) : Result :=
  .next (if !rdB s (.eth m) 0x040 0 ∨ !clocksOn s ∨ (up && !laneOn s (ethLane m)) then s
    else if !up then ethLink s m false (rdF s (.eth m) 0x044 1 3)
    else if (modeSpeeds (rdF s (.eth m) 0x040 1 3)).contains speed.val then ethLink s m true speed
    else s)

/-- PREEMPTION_VERIFICATION (R486). -/
def execPreemptionVerification (m : Fin 8) (ok : Bool) (s : State) : Result :=
  .next (if rdF s (.eth m) 0x044 4 2 = 1 then wrF s (.eth m) 0x044 4 2 (if ok then 2 else 3) else s)

/-! ## The page (R470, R487, R488) -/

/-- Out-of-range values of an ETH register. -/
def ethBad (off : Nat) (v : Reg32) : Bool :=
  if off = 0x040 then decide (5 ≤ fld v 1 3) || fld v 4 2 = 3 || (fld v 4 2 = 2 && fld v 1 3 ≠ 4)
  else if off = 0x0A0 then decide (64 < fld v 8 7) || decide (64 < fld v 2 6 + fld v 8 7)
  else false

/-- A claim of stream states overlaps another MAC's (R487). -/
def ethReject (s : State) (m : Fin 8) (off : Nat) (v : Reg32) : Option Nat :=
  if off ≠ 0x0A0 ∨ fld v 8 7 = 0 then none
  else
    let lo := fld v 2 6
    let hi := lo + fld v 8 7
    if (List.finRange 8).any fun k => k ≠ m && (let a := rdF s (.eth k) 0x0A0 2 6; let n := rdF s (.eth k) 0x0A0 8 7
        n ≠ 0 && decide (lo < a + n) && decide (a < hi)) then some 0x81 else none

/-- A MAC that stops: lane, link, class buffers. -/
def ethStop (s : State) (m : Fin 8) : State :=
  let s := ethLink s m false (rdF s (.eth m) 0x044 1 3)
  releaseLanes (updMac s m fun x => { x with wait := [], lane := none, frag := [], rest := none, loop := [], reps := [] }) (.eth m)

/-- ETH_CTL written: GCL_GO, then CB_LOAD. A write of which a read of the lists has to wait is made again as a whole: `.error` is the state in
which it waits. -/
def ethCtl (s : State) (m : Fin 8) (v : Reg32) (env : MemEnv) : Except State State :=
  let old := rd s (.eth m) 0x0A0
  let s := wr s (.eth m) 0x0A0 (v &&& 0x7FFC)
  match (if bit v 0 then gclGo s m env else .ok s).bind fun s => if bit v 1 then cbLoad s m env else .ok s with
  | .ok s => .ok s
  | .error s => .error (wr s (.eth m) 0x0A0 old)

/-- A write of an ETH register but ETH_CTL that does more than store. -/
def ethWrite (s : State) (m : Fin 8) (off : Nat) (v : Reg32) (env : MemEnv) : Option State :=
  if off = 0x040 then
    let old := rdB s (.eth m) 0x040 0
    let s := wr s (.eth m) 0x040 (v &&& 0x3FFFF)
    some (if bit v 0 ∧ !old then updMac (claimLanes s (.eth m)) m fun x => { x with txStop := 0, rxStop := 0 }
      else if !bit v 0 ∧ old then ethStop s m
      else s)
  else if 0x080 ≤ off ∧ off < 0x0A0 then
    some (rxPumpAll (wrF (wrF s (.eth m) off 0 8 (fld v 0 8)) (.eth m) off 16 8 (fld v 16 8)) m env)
  else none

end Sys2Proof.Machine
end

