-- ==== Sys2Proof/Machine/Crossings.lean ====
section
/-!
DEFINITION. Machine/Crossings.lean: the crossings between clock, power and reset regions (R89 to R96): Yo-yos, twin-sampled values and
asynchronous FIFOs. A crossing is named by the page of its source, the page of its receiver and a number.
-/

namespace Sys2Proof.Machine

/-! ## Resets of the two sides -/

/-- The block of a page is held in reset: everything but the always-on domain while the die is, engine clusters and Winovar clusters
until Sage releases them, and a core that its domain holds (R101, R102, R159, R528). -/
def inReset (s : State) : Page → Bool
  | .wake => false
  | .wc w => !s.pwr.die || !s.pwr.ckA.contains w.val
  | .wcc n => !s.pwr.die || !s.pwr.ckA.contains (n.val / 8) || (SMap.get {} s.cores n.val).run = .held
  | .nc _ | .nce _ | .ncm _ => !s.pwr.die || s.sage.phase ≠ .done
  | _ => !s.pwr.die

/-- The clock of the receiving side of a crossing runs. -/
def dstRuns (s : State) (k : Nat) : Bool := (pageOfSlot (yoyoDstSlot k)).any (clockRuns s)

/-- The running tick of the last reset of a slot's block since the die left reset. -/
def lastReset (s : State) (slot : Nat) : Option Nat :=
  ((s.resets.filter fun r => decide (r.1 ≤ slot) && decide (slot < r.1 + r.2.1)).map fun r => r.2.2).max?

/-- Blocks that stay in reset when the die leaves it: the clusters, until Sage or a domain releases them (R102, R159, R528). -/
def startsLate : Page → Bool
  | .wc _ | .wcc _ | .nc _ | .nce _ | .ncm _ => true
  | _ => false

/-- A side of a crossing has left reset after the die, so that a crossing not used since has a round trip to make first (R95). -/
def sideRenewed (s : State) (slot : Nat) : Bool := (lastReset s slot).isSome || (pageOfSlot slot).any startsLate

/-- The source cycle of a crossing at a running tick, counted from 1 (R96). -/
def cycleAt (s : State) (k t : Nat) : Nat :=
  match pageOfSlot (yoyoSrcSlot k) with
  | some p => edgesOf s p 0 t + 1
  | none => 0

/-- The source cycle of a crossing in which it is now. -/
def srcCycle (s : State) (k : Nat) : Nat := cycleAt s k (runTick s)

/-- A Yo-yo that nothing has used since a side of it was reset: the round trip of R95 comes first, and the cycle of the last reset is that
of a flush (R96). -/
def yoyoRenewed (s : State) (k : Nat) : Yoyo :=
  let a := lastReset s (yoyoSrcSlot k)
  let b := lastReset s (yoyoDstSlot k)
  match [a, b].filterMap id |>.max? with
  | some t => { busy := true, sync := true, cyc := cycleAt s k t, flushed := (decide (a = some t)).toNat + 2 * (decide (b = some t)).toNat }
  | none => { busy := true, sync := true, flushed := 3 }

/-- A Yo-yo as it stands (R90, R91, R95). -/
def yoyoNow (s : State) (k : Nat) : Yoyo :=
  match SMap.find? s.yoyos k with
  | some y => y
  | none => if sideRenewed s (yoyoSrcSlot k) || sideRenewed s (yoyoDstSlot k) then yoyoRenewed s k else {}

/-! ## Twin sampling (R92) -/

/-- A twin-sampled crossing as it stands: `advanceTo` brings its receiving edges to it. The overflow flag of a Yo-yo waits for the round
trip of that Yo-yo. -/
def twinNow (s : State) (k : Nat) : Twin :=
  match SMap.find? s.twins k with
  | some w => w
  | none =>
    if k % 2 = 1 then { sync := (yoyoNow s (k / 2)).sync }
    else if sideRenewed s (yoyoSrcSlot (k / 2)) || sideRenewed s (yoyoDstSlot (k / 2)) then { sync := true, back := true }
    else {}

/-- The source's value changes: it is presented at once, or when the hold of the value presented before ends. -/
def twinPresent (s : State) (k v : Nat) : State :=
  let w := twinNow s k
  let w := { w with src := v }
  { s with twins := SMap.set {} s.twins k (if 4 ≤ w.held ∧ v ≠ w.pres ∧ !w.sync then { w with pres := v, held := 0 } else w) }

/-- The source's value changes while the receiver is in reset: it is presented after the round trip that follows. -/
def twinKeep (s : State) (k v : Nat) : State :=
  { s with twins := SMap.set {} s.twins k { twinNow s k with src := v, sync := true, back := true } }

/-- The crossing-overflow bit of a page's error record: an overflow flag has crossed to it, and software has not cleared it since (R91). -/
def xovf (s : State) (p : Page) : Bool :=
  rdB s p 0x020 2 || s.twins.any fun e => e.1 % 2 = 1 && yoyoDstSlot (e.1 / 2) = slotOf p && (twinNow s e.1).acc ≠ 0

/-- The overflow flags that have crossed stay in the records of their receivers, where their crossings (`sel`) now go back (R91). -/
def latchOvf (s : State) (l : SMap Twin) (sel : Nat → Bool) : State :=
  l.foldl (fun t e => if e.1 % 2 = 1 && sel (e.1 / 2) && decide (e.2.acc ≠ 0) then
      (match pageOfSlot (yoyoDstSlot (e.1 / 2)) with
        | some p => wrB t p 0x020 2 true
        | none => t)
    else t) s

/-! ## Asynchronous FIFOs (R93) -/

/-- How many entries a FIFO holds: at least 8. -/
def fifoDepth (k : Nat) : Nat := 8 + Config.fifoMore k

/-- An asynchronous FIFO as it stands. -/
def fifoNow (s : State) (k : Nat) : Xfifo :=
  match SMap.find? s.xfifos k with
  | some f => f
  | none => if sideRenewed s (yoyoSrcSlot k) || sideRenewed s (yoyoDstSlot k) then { sync := true, back := true } else {}

/-- Entries that the source had stalled with enter while there is room, and while no flush or round trip after one keeps them back. -/
def fifoFill (k : Nat) (f : Xfifo) : Xfifo :=
  if f.sync || decide (f.due ≠ 0) then f
  else
    let n := fifoDepth k - f.ents.length
    { f with ents := f.ents ++ (f.wait.take n).map fun v => (v, 0), wait := f.wait.drop n }

/-! ## Sources and receivers -/

/-- A flush counts `n` discarded entries and dropped events in the error record of a page (R95). -/
def countFlush (s : State) (p : Page) (n : Nat) : State := bumpF s p 0x02C 0 16 n

/-- The page of the side of a crossing that did not reset: the receiver's after a reset of the source's side (1), the other way
round (2), and none after one of both (3). -/
def flushSide (k due : Nat) : Option Page :=
  if due = 1 then pageOfSlot (yoyoDstSlot k) else if due = 2 then pageOfSlot (yoyoSrcSlot k) else none

/-- What a flush discarded is counted where the reset was not. -/
def countAt (s : State) (k due n : Nat) : State :=
  match flushSide k due with
  | some p => countFlush s p n
  | none => s

/-- An event of a Yo-yo whose far side is out of reset (R91): it launches a round trip, or is counted, or at 255 is lost with the
overflow flag set and crossing to the receiver. In the source cycle of a reset of either side it is discarded and counted as flushed
(R96). -/
def yoyoPut (s : State) (k : Nat) : State :=
  let y := yoyoNow s k
  let c := srcCycle s k
  if y.flushed ≠ 0 ∧ y.cyc = c then countAt s k y.flushed 1
  else if !y.busy then { s with yoyos := SMap.set {} s.yoyos k { y with busy := true } }
  else if y.count < 255 then { s with yoyos := SMap.set {} s.yoyos k { y with count := y.count + 1 } }
  else
    let n := if y.flushed = 0 ∧ y.cyc = c then y.lostN + 1 else 1
    twinPresent { s with yoyos := SMap.set {} s.yoyos k { y with ovf := true, lostN := n, cyc := c, flushed := 0 } } (ovfKey k) 1

/-- YOYO_EVENT (R90 to R96): what the source gives to a crossing. A source that stands or is in reset gives nothing; with the far
side in reset an event or entry is discarded and counted as flushed, and a value is kept at the source, to be presented after the round
trip that follows that reset (R92, R95). -/
def execYoyoEvent (src dst : Page) (x : Fin 16) (v : XSrc) (s : State) : Result :=
  let k := yoyoKey src dst x
  .next (if inReset s src ∨ !clockRuns s src then s
    else match v with
      | .event => if inReset s dst then countFlush s src 1 else yoyoPut s k
      | .level v => if inReset s dst then twinKeep s (levelKey k) v else twinPresent s (levelKey k) v
      | .entry v =>
        if inReset s dst then countFlush s src 1
        else
          let f := fifoNow s k
          { s with xfifos := SMap.set {} s.xfifos k (fifoFill k { f with wait := f.wait ++ [v] }) })

/-- The end of a Yo-yo's round trip (R90, R91, R95): the receiver has acted once, unless the round trip was that after a flush, and
the oldest counted event launches. -/
def yoyoEnd (y : Yoyo) : Yoyo :=
  let y := if y.sync then { y with sync := false } else { y with acted := y.acted + 1 }
  if y.count = 0 then { y with busy := false } else { y with count := y.count - 1 }

/-- A FIFO's oldest entry is read two receiving cycles or more after it was written (R89, R93). (DESIGN CHOICE, log 37) -/
def fifoRead (s : State) (k : Nat) : State :=
  let f := fifoNow s k
  if f.sync then { s with xfifos := SMap.set {} s.xfifos k (fifoFill k { f with sync := false }) }
  else match f.ents with
    | (v, n) :: r =>
      if n < 2 then s
      else answer { s with xfifos := SMap.set {} s.xfifos k (fifoFill k { f with ents := r }) } false v
    | [] => s

/-- A value that waited for the round trip after a flush is presented, where that round trip has ended (R92, R95). -/
def twinEnd (s : State) (k : Nat) : State :=
  let w := twinNow s k
  if !w.sync then s else twinPresent { s with twins := SMap.set {} s.twins k { w with sync := false } } k w.src

/-- YOYO_ACK (R90 to R96): a round trip ends, or a FIFO is read. With a clock stopped, a side in reset or the fabric
stopped (R553) nothing crosses. (DESIGN CHOICE, log 37) -/
def execYoyoAck (src dst : Page) (x : Fin 16) (v : XDst) (s : State) : Result :=
  let k := yoyoKey src dst x
  .next (if inReset s src ∨ inReset s dst ∨ !clockRuns s src ∨ !clockRuns s dst ∨ xHeld s then s
    else match v with
      | .event =>
        let y := yoyoNow s k
        if !y.busy then s
        else
          let s := if y.sync then twinEnd s (ovfKey k) else s
          { s with yoyos := SMap.set {} s.yoyos k (yoyoEnd y) }
      | .level => twinEnd s (levelKey k)
      | .entry => fifoRead s k)

/-- The overflow flags that have set XOVF of a page clear when software clears it; one that still crosses stays (R91). -/
def clearYoyoOvf (s : State) (p : Page) : State :=
  let seen := fun (k : Nat) => decide (yoyoDstSlot k = slotOf p) && decide ((twinNow s (ovfKey k)).acc ≠ 0)
  let l := s.yoyos.map fun e => if seen e.1 then (e.1, { e.2 with ovf := false }) else e
  { s with yoyos := l.filter fun e => decide (e.2 ≠ {}), twins := SMap.drop s.twins fun k => k % 2 = 1 && seen (k / 2) }

/-! ## Flushes (R95, R96) -/

/-- The events that a Yo-yo holds: the request not yet acted on and the counted ones. -/
def yoyoHeld (y : Yoyo) : Nat := (y.busy && !y.sync).toNat + y.count

/-- The events a flush discards on a Yo-yo: those that it holds, and those of the source cycle of the reset that it had no room for,
which do not count toward overflow (R96). -/
def yoyoDrop (s : State) (k : Nat) (y : Yoyo) : Nat :=
  yoyoHeld y + (if y.flushed = 0 ∧ y.cyc = srcCycle s k then y.lostN else 0)

/-- A Yo-yo is flushed: after it the crossing first carries one whole round trip. The overflow flag is the source's, which a reset of
the receiver alone leaves set (R91). -/
def flushYoyo (s : State) (k due : Nat) (y : Yoyo) : State :=
  let z : Yoyo := { busy := true, sync := true, acted := y.acted, ovf := y.ovf && decide (due = 2), cyc := srcCycle s k, flushed := due }
  countAt { s with yoyos := SMap.set {} s.yoyos k z } k due (yoyoDrop s k y)

/-- A FIFO is flushed: entries not yet read are discarded; those that its source stalls with stay. -/
def flushFifo (s : State) (k due : Nat) (f : Xfifo) : State :=
  countAt { s with xfifos := SMap.set {} s.xfifos k { wait := f.wait, sync := true, back := true } } k due f.ents.length

/-- A twin-sampled crossing is flushed: the receiver takes the reset value, and the source presents its value again after the round
trip. -/
def flushTwin (w : Twin) : Twin := { src := w.src, sync := true, back := true }

/-- The source of a twin-sampled crossing is reset: its value is the reset value. -/
def resetSrc (side : Nat) (w : Twin) : Twin := if side % 2 = 1 then { w with src := 0 } else w

/-- The source of a FIFO is reset: it stalls with nothing. -/
def resetWait (side : Nat) (f : Xfifo) : Xfifo := if side % 2 = 1 then { f with wait := [] } else f

/-- The side of a crossing whose block resets, where `hit` tells it of a slot: 1 the source's, 2 the receiver's, 3 both, 0 none. -/
def hitSide (hit : Nat → Bool) (k : Nat) : Nat := (hit (yoyoSrcSlot k)).toNat + 2 * (hit (yoyoDstSlot k)).toNat

/-- Resets noted for the crossings that nothing uses now (R95). -/
def noteResets (s : State) (l : List (Nat × Nat)) : State :=
  { s with resets := l.map (fun r => (r.1, r.2, runTick s)) ++ s.resets.filter fun r => !l.contains (r.1, r.2.1) }

/-- A reset of the blocks of some runs of slots (the first and how many) flushes their crossings (R95); where the receiving clock stands,
the flush waits for it, and sides add up (R96). A source that is reset loses at once what it presents and stalls with. (DESIGN CHOICE, log 37) -/
def flushSlots (s : State) (l : List (Nat × Nat)) : State :=
  let side := hitSide fun k => l.any fun r => decide (r.1 ≤ k) && decide (k < r.1 + r.2)
  let s := latchOvf s s.twins fun k => side k = 1
  let s := s.yoyos.foldl (fun t e =>
    if side e.1 = 0 then t
    else if dstRuns s e.1 then flushYoyo t e.1 (e.2.due ||| side e.1) e.2
    else { t with yoyos := SMap.set {} t.yoyos e.1 { e.2 with due := e.2.due ||| side e.1 } }) s
  let s := s.xfifos.foldl (fun t e =>
    let f := resetWait (side e.1) e.2
    if side e.1 = 0 then t
    else if dstRuns s e.1 then flushFifo t e.1 (f.due ||| side e.1) f
    else { t with xfifos := SMap.set {} t.xfifos e.1 { f with due := f.due ||| side e.1 } }) s
  noteResets { s with twins := s.twins.map fun e =>
    let d := side (e.1 / 2)
    let w := resetSrc d e.2
    if d = 0 then e else if dstRuns s (e.1 / 2) then (e.1, flushTwin w) else (e.1, { w with due := w.due ||| d }) } l

/-- A reset of the block of page `p` flushes its crossings (R95). -/
def flushCrossings (s : State) (p : Page) : State := flushSlots s [(slotOf p, 1)]

/-- Receiving clocks have restarted: flushes that waited for them are applied before anything is delivered (R96). -/
def restartCrossings (s : State) : State :=
  let s := s.yoyos.foldl (fun t e => if e.2.due ≠ 0 ∧ dstRuns s e.1 then flushYoyo t e.1 e.2.due e.2 else t) s
  let s := s.xfifos.foldl (fun t e => if e.2.due ≠ 0 ∧ dstRuns s e.1 then flushFifo t e.1 e.2.due e.2 else t) s
  { s with twins := s.twins.map fun e => if e.2.due ≠ 0 ∧ dstRuns s (e.1 / 2) then (e.1, flushTwin e.2) else e }

/-- A module reset flushes every crossing (R95, R97, R101): what those with the always-on domain held is counted in its page, and
the round trips are complete before the die is out of reset (R102). -/
def moduleFlush (s : State) : Nat :=
  let w := fun k => yoyoSrcSlot k = slotOf .wake || yoyoDstSlot k = slotOf .wake
  ((s.yoyos.filter fun e => w e.1).map fun e => yoyoDrop s e.1 e.2).sum + ((s.xfifos.filter fun e => w e.1).map fun e => e.2.ents.length).sum

end Sys2Proof.Machine
end

