-- ==== Sys2Proof/Machine/Crypto.lean ====
section
/-!
DEFINITION. Machine/Crypto.lean: the standards that the check of an image names (R139 to R141): SHA-384 (FIPS 180-4), ECDSA on P-384
(FIPS 186-5), ML-DSA-65 (FIPS 204, on the SHAKE functions of FIPS 202), AES-256 in GCM (FIPS 197, SP 800-38D). The spec cites them and gives no
text of them; they are written here from the standards. (PRESUMED, log 16)
-/

namespace Sys2Proof.Machine

/-! ## Octet strings -/

/-- The number that a big-endian octet string spells. -/
def ofBE (l : List Byte) : Nat := l.foldl (fun a b => a * 256 + b.toNat) 0

/-- A number as a big-endian octet string of `n` bytes. -/
def beBytes (n x : Nat) : List Byte := (List.range n).map fun i => BitVec.ofNat 8 (x / 2 ^ (8 * (n - 1 - i)))

/-- The number that a little-endian octet string spells. -/
def ofLE (l : List Byte) : Nat := ofBE l.reverse

/-- A number as a little-endian octet string of `n` bytes. -/
def leBytes (n x : Nat) : List Byte := (beBytes n x).reverse

/-- A list cut into blocks of `n`, at most `fuel` of them. -/
def blocksOf {α : Type} (n : Nat) : Nat → List α → List (List α)
  | 0, _ => []
  | _ + 1, [] => []
  | k + 1, l => l.take n :: blocksOf n k (l.drop n)

/-! ## SHA-384 (FIPS 180-4) -/

/-- The constants of SHA-512's rounds. -/
def shaK : List (BitVec 64) :=
  [0x428A2F98D728AE22, 0x7137449123EF65CD, 0xB5C0FBCFEC4D3B2F, 0xE9B5DBA58189DBBC,
   0x3956C25BF348B538, 0x59F111F1B605D019, 0x923F82A4AF194F9B, 0xAB1C5ED5DA6D8118,
   0xD807AA98A3030242, 0x12835B0145706FBE, 0x243185BE4EE4B28C, 0x550C7DC3D5FFB4E2,
   0x72BE5D74F27B896F, 0x80DEB1FE3B1696B1, 0x9BDC06A725C71235, 0xC19BF174CF692694,
   0xE49B69C19EF14AD2, 0xEFBE4786384F25E3, 0x0FC19DC68B8CD5B5, 0x240CA1CC77AC9C65] ++
  [0x2DE92C6F592B0275, 0x4A7484AA6EA6E483, 0x5CB0A9DCBD41FBD4, 0x76F988DA831153B5,
   0x983E5152EE66DFAB, 0xA831C66D2DB43210, 0xB00327C898FB213F, 0xBF597FC7BEEF0EE4,
   0xC6E00BF33DA88FC2, 0xD5A79147930AA725, 0x06CA6351E003826F, 0x142929670A0E6E70,
   0x27B70A8546D22FFC, 0x2E1B21385C26C926, 0x4D2C6DFC5AC42AED, 0x53380D139D95B3DF,
   0x650A73548BAF63DE, 0x766A0ABB3C77B2A8, 0x81C2C92E47EDAEE6, 0x92722C851482353B] ++
  [0xA2BFE8A14CF10364, 0xA81A664BBC423001, 0xC24B8B70D0F89791, 0xC76C51A30654BE30,
   0xD192E819D6EF5218, 0xD69906245565A910, 0xF40E35855771202A, 0x106AA07032BBD1B8,
   0x19A4C116B8D2D0C8, 0x1E376C085141AB53, 0x2748774CDF8EEB99, 0x34B0BCB5E19B48A8,
   0x391C0CB3C5C95A63, 0x4ED8AA4AE3418ACB, 0x5B9CCA4F7763E373, 0x682E6FF3D6B2B8A3,
   0x748F82EE5DEFB2FC, 0x78A5636F43172F60, 0x84C87814A1F0AB72, 0x8CC702081A6439EC] ++
  [0x90BEFFFA23631E28, 0xA4506CEBDE82BDE9, 0xBEF9A3F7B2C67915, 0xC67178F2E372532B,
   0xCA273ECEEA26619C, 0xD186B8C721C0C207, 0xEADA7DD6CDE0EB1E, 0xF57D4F7FEE6ED178,
   0x06F067AA72176FBA, 0x0A637DC5A2C898A6, 0x113F9804BEF90DAE, 0x1B710B35131C471B,
   0x28DB77F523047D84, 0x32CAAB7B40C72493, 0x3C9EBE0A15C9BEBC, 0x431D67C49C100D4C,
   0x4CC5D4BECB3E42B6, 0x597F299CFC657E2A, 0x5FCB6FAB3AD6FAEC, 0x6C44198C4A475817]

/-- The initial hash value of SHA-384. -/
def shaInit : List (BitVec 64) :=
  [0xCBBB9D5DC1059ED8, 0x629A292A367CD507, 0x9159015A3070DD17, 0x152FECD8F70E5939,
   0x67332667FFC00B31, 0x8EB44A8768581511, 0xDB0C2E0D64F98FA7, 0x47B5481DBEFA4FA4]

/-- The message schedule: 16 words of a block, and 64 more; the list is the newest word first. -/
def shaSchedule (m : List (BitVec 64)) : List (BitVec 64) :=
  ((List.range 64).foldl (fun (w : List (BitVec 64)) _ =>
    let x := w.getD 1 0
    let y := w.getD 14 0
    let s1 := x.rotateRight 19 ^^^ x.rotateRight 61 ^^^ x >>> 6
    let s0 := y.rotateRight 1 ^^^ y.rotateRight 8 ^^^ y >>> 7
    (s1 + w.getD 6 0 + s0 + w.getD 15 0) :: w) m.reverse).reverse

/-- One round on the working variables a to h. -/
def shaRound (v : List (BitVec 64)) (kw : BitVec 64) : List (BitVec 64) :=
  match v with
  | [a, b, c, d, e, f, g, h] =>
    let t1 := h + (e.rotateRight 14 ^^^ e.rotateRight 18 ^^^ e.rotateRight 41) + ((e &&& f) ^^^ (~~~e &&& g)) + kw
    let t2 := (a.rotateRight 28 ^^^ a.rotateRight 34 ^^^ a.rotateRight 39) + ((a &&& b) ^^^ (a &&& c) ^^^ (b &&& c))
    [t1 + t2, a, b, c, d + t1, e, f, g]
  | _ => v

/-- One block of 128 bytes. -/
def shaBlock (h : List (BitVec 64)) (b : List Byte) : List (BitVec 64) :=
  let w := shaSchedule ((blocksOf 8 16 b).map fun x => BitVec.ofNat 64 (ofBE x))
  List.zipWith (· + ·) h ((List.zipWith (· + ·) shaK w).foldl shaRound h)

/-- The padded message. -/
def shaPad (l : List Byte) : List Byte :=
  l ++ 0x80 :: List.replicate ((239 - l.length % 128) % 128) 0 ++ beBytes 16 (8 * l.length)

/-- SHA-384 of an octet string, as a number of 384 bits. -/
def sha384 (l : List Byte) : Nat :=
  let p := shaPad l
  let h := (blocksOf 128 (p.length / 128) p).foldl shaBlock shaInit
  (h.take 6).foldl (fun a x => a * 2 ^ 64 + x.toNat) 0

/-! ## ECDSA on P-384 (FIPS 186-5) -/

/-- The prime of the field of P-384. -/
def p384 : Nat := 2 ^ 384 - 2 ^ 128 - 2 ^ 96 + 2 ^ 32 - 1

/-- The order of the base point. -/
def n384 : Nat := 0xFFFFFFFFFFFFFFFFFFFFFFFFFFFFFFFFFFFFFFFFFFFFFFFFC7634D81F4372DDF581A0DB248B0A77AECEC196ACCC52973

/-- The coefficient b of the curve y^2 = x^3 - 3x + b. -/
def b384 : Nat := 0xB3312FA7E23EE7E4988E056BE3F82D19181D9C6EFE8141120314088F5013875AC656398D8A2ED19D2A85C8EDD3EC2AEF

/-- `x` to the power `e`, of at most 384 bits, modulo `m`. -/
def powMod (m x e : Nat) : Nat :=
  (List.range 384).foldr (fun i r => let r := r * r % m; if e.testBit i then r * x % m else r) 1

/-- The inverse modulo a prime. -/
def invMod (m x : Nat) : Nat := powMod m x (m - 2)

/-- The difference modulo the field's prime. -/
def fsub (x y : Nat) : Nat := (x + (p384 - y % p384)) % p384

/-- The sum of two points of the curve; none is the point at infinity. -/
def ptAdd : Option (Nat × Nat) → Option (Nat × Nat) → Option (Nat × Nat)
  | none, q => q
  | p, none => p
  | some (x, y), some (u, v) =>
    if x = u ∧ (y + v) % p384 = 0 then none
    else
      let l := if x = u then fsub (3 * x * x) 3 * invMod p384 (2 * y) % p384 else fsub v y * invMod p384 (fsub u x) % p384
      let r := fsub (l * l) (x + u)
      some (r, fsub (l * fsub x r) y)

/-- `k` times a point. -/
def ptMul (k : Nat) (p : Option (Nat × Nat)) : Option (Nat × Nat) :=
  (List.range 384).foldr (fun i r => let r := ptAdd r r; if k.testBit i then ptAdd r p else r) none

/-- The base point. -/
def g384 : Option (Nat × Nat) :=
  some (0xAA87CA22BE8B05378EB1C71EF320AD746E1D3B628BA79B9859F741E082542A385502F25DBF55296C3A545E3872760AB7,
    0x3617DE4A96262C6F5D9E98BF9292DC29F8F41DBD289A147CE9DA3113B5F0B8C00A60B1CE1D7E819D7A431D7C90EA0E5F)

/-- A pair of numbers is a point of the curve. -/
def onCurve (x y : Nat) : Bool := decide (x < p384) && decide (y < p384) && y * y % p384 = (x * x * x + fsub b384 (3 * x)) % p384

/-- The check of a signature r, s under the key Qx, Qy, with the hash value `e` of 384 bits (FIPS 186-5, 6.4.2). -/
def ecdsaOk (key sig : List Byte) (e : Nat) : Bool :=
  let x := ofBE (key.take 48)
  let y := ofBE (key.drop 48)
  let r := ofBE (sig.take 48)
  let s := ofBE (sig.drop 48)
  if onCurve x y && decide (0 < r ∧ r < n384 ∧ 0 < s ∧ s < n384) then
    let w := invMod n384 s
    match ptAdd (ptMul (e * w % n384) g384) (ptMul (r * w % n384) (some (x, y))) with
    | some (u, _) => u % n384 = r
    | none => false
  else false

/-! ## SHAKE128 and SHAKE256 (FIPS 202) -/

/-- The round constants of Keccak-f[1600]. -/
def keccakRC : List (BitVec 64) :=
  [0x0000000000000001, 0x0000000000008082, 0x800000000000808A, 0x8000000080008000,
   0x000000000000808B, 0x0000000080000001, 0x8000000080008081, 0x8000000000008009,
   0x000000000000008A, 0x0000000000000088, 0x0000000080008009, 0x000000008000000A] ++
  [0x000000008000808B, 0x800000000000008B, 0x8000000000008089, 0x8000000000008003,
   0x8000000000008002, 0x8000000000000080, 0x000000000000800A, 0x800000008000000A,
   0x8000000080008081, 0x8000000000008080, 0x0000000080000001, 0x8000000080008008]

/-- The rotation of lane x + 5y. -/
def keccakRot : List Nat := [0, 1, 62, 28, 27, 36, 44, 6, 55, 20, 3, 10, 43, 25, 39, 41, 45, 15, 21, 8, 18, 2, 61, 56, 14]

/-- One round on the 25 lanes, lane x + 5y at its index. -/
def keccakRound (a : List (BitVec 64)) (rc : BitVec 64) : List (BitVec 64) :=
  let l := fun (a : List (BitVec 64)) (x y : Nat) => a.getD (x % 5 + 5 * (y % 5)) 0
  let c := (List.range 5).map fun x => l a x 0 ^^^ l a x 1 ^^^ l a x 2 ^^^ l a x 3 ^^^ l a x 4
  let d := (List.range 5).map fun x => c.getD ((x + 4) % 5) 0 ^^^ (c.getD ((x + 1) % 5) 0).rotateLeft 1
  let r := (List.range 25).map fun i => (a.getD i 0 ^^^ d.getD (i % 5) 0).rotateLeft (keccakRot.getD i 0)
  let b := (List.range 25).map fun i => l r (i % 5 + 3 * (i / 5)) (i % 5)
  (List.range 25).map fun i =>
    let x := i % 5
    let y := i / 5
    let v := l b x y ^^^ (~~~l b (x + 1) y &&& l b (x + 2) y)
    if i = 0 then v ^^^ rc else v

/-- Keccak-f[1600]. -/
def keccakF (a : List (BitVec 64)) : List (BitVec 64) := keccakRC.foldl keccakRound a

/-- A block of `r` bytes is absorbed. -/
def keccakAbsorb (a : List (BitVec 64)) (b : List Byte) : List (BitVec 64) :=
  keccakF ((List.range 25).map fun i => a.getD i 0 ^^^ BitVec.ofNat 64 (ofLE ((b.drop (8 * i)).take 8)))

/-- `k` blocks of `r` bytes are squeezed. -/
def keccakSqueeze (r : Nat) : Nat → List (BitVec 64) → List Byte
  | 0, _ => []
  | k + 1, a => (a.flatMap fun x => leBytes 8 x.toNat).take r ++ keccakSqueeze r k (keccakF a)

/-- SHAKE with a rate of `r` bytes: `n` bytes of output. -/
def shake (r : Nat) (l : List Byte) (n : Nat) : List Byte :=
  let k := r - l.length % r
  let p := l ++ (if k = 1 then [0x9F] else 0x1F :: List.replicate (k - 2) 0 ++ [0x80])
  (keccakSqueeze r ((n + r - 1) / r) ((blocksOf r (p.length / r) p).foldl keccakAbsorb (List.replicate 25 0))).take n

/-! ## ML-DSA-65 (FIPS 204) -/

/-- The modulus. -/
def mlQ : Nat := 8380417

/-- A polynomial of 256 coefficients below the modulus. -/
abbrev Poly := List Nat

/-- The low 8 bits reversed. -/
def bitRev8 (x : Nat) : Nat := ((List.range 8).map fun i => if x.testBit i then 2 ^ (7 - i) else 0).sum

/-- Powers of the root 1753 of order 512. -/
def zeta (e : Nat) : Nat := powMod mlQ 1753 (e % 512)

/-- The number-theoretic transform: entry j is the value at the root to the power 2 brv(j) + 1 (FIPS 204, 7.5). -/
def ntt (w : Poly) : Poly :=
  (List.range 256).map fun j =>
    let x := zeta (2 * bitRev8 j + 1)
    w.foldr (fun c r => (r * x + c) % mlQ) 0

/-- The inverse transform. -/
def nttInv (v : Poly) : Poly :=
  let h := (List.range 256).map fun k => v.getD (bitRev8 k) 0
  (List.range 256).map fun i =>
    let x := zeta (512 - 2 * i % 512)
    h.foldr (fun c r => (r * x + c) % mlQ) 0 * zeta (512 - i) % mlQ * powMod mlQ 256 (mlQ - 2) % mlQ

/-- The product entry by entry. -/
def polyMul (a b : Poly) : Poly := List.zipWith (fun x y => x * y % mlQ) a b

/-- The sum. -/
def polyAdd (a b : Poly) : Poly := List.zipWith (fun x y => (x + y) % mlQ) a b

/-- The difference. -/
def polySub (a b : Poly) : Poly := List.zipWith (fun x y => (x + (mlQ - y)) % mlQ) a b

/-- The bits of an octet string, least significant first. -/
def bitsOf (l : List Byte) : List Bool := l.flatMap fun b => (List.range 8).map fun i => b.toNat.testBit i

/-- 256 numbers of `w` bits, packed least significant first (FIPS 204, 7.1). -/
def unpackBits (w : Nat) (l : List Byte) : List Nat :=
  (blocksOf w 256 (bitsOf l)).map fun b => b.foldr (fun x r => 2 * r + x.toNat) 0

/-- 256 numbers packed in `w` bits each. -/
def packBits (w : Nat) (p : List Nat) : List Byte :=
  (blocksOf 8 (32 * w) (p.flatMap fun x => (List.range w).map fun i => x.testBit i)).map fun b =>
    BitVec.ofNat 8 (b.foldr (fun x r => 2 * r + x.toNat) 0)

/-- The entry of the matrix of row r and column s (RejNTTPoly). The rejection ends within 2,048 draws. (DESIGN CHOICE, log 16) -/
def expandA (rho : List Byte) (r s : Nat) : Poly :=
  (((blocksOf 3 2048 (shake 168 (rho ++ [BitVec.ofNat 8 s, BitVec.ofNat 8 r]) 6144)).map fun b => ofLE b % 2 ^ 23).filter fun x => decide (x < mlQ)).take 256

/-- The challenge: 49 coefficients 1 or -1 (SampleInBall). The rejection ends within 1,024 draws. (DESIGN CHOICE, log 16) -/
def sampleInBall (c : List Byte) : Poly :=
  let o := shake 136 c 1032
  let h := bitsOf (o.take 8)
  let step := fun (st : Poly × List Byte) (k : Nat) =>
    let i := 207 + k
    let l := st.2.dropWhile fun b => decide (i < b.toNat)
    let j := (l.headD 0).toNat
    let p := st.1.set i (st.1.getD j 0)
    (p.set j (if h.getD k false then mlQ - 1 else 1), l.tail)
  ((List.range 49).foldl step (List.replicate 256 0, o.drop 8)).1

/-- The hint of a signature: for each of 6 polynomials the places of its ones; none where it is malformed (HintBitUnpack). -/
def hintUnpack (y : List Byte) : Option (List (List Nat)) :=
  let idx := y.map fun b => b.toNat
  let step := fun (st : Option (Nat × List (List Nat))) (i : Nat) =>
    st.bind fun (k, hs) =>
      let e := idx.getD (55 + i) 0
      let p := (idx.take e).drop k
      if e < k ∨ 55 < e then none
      else if (List.zip p p.tail).all fun x => decide (x.1 < x.2) then some (e, hs ++ [p]) else none
  match (List.range 6).foldl step (some (0, [])) with
  | some (k, hs) => if ((idx.take 55).drop k).all fun x => x = 0 then some hs else none
  | none => none

/-- UseHint: the high part of r, moved by one where the hint says so, with gamma2 = (q - 1) / 32. -/
def useHint (hint : Bool) (r : Nat) : Nat :=
  let g2 := (mlQ - 1) / 32
  let a := r % (2 * g2)
  let r0 : Int := if a ≤ g2 then (a : Int) else (a : Int) - (2 * g2 : Nat)
  let edge := (r : Int) - r0 = ((mlQ - 1 : Nat) : Int)
  let r1 : Nat := if edge then 0 else (((r : Int) - r0) / ((2 * g2 : Nat) : Int)).toNat
  let r0 := if edge then r0 - 1 else r0
  if hint then (if 0 < r0 then (r1 + 1) % 16 else (r1 + 15) % 16) else r1

/-- The check of a signature of ML-DSA-65 in its pure form with an empty context: `m` is the message (FIPS 204, algorithms 3 and 8). -/
def mldsaOk (pk sig m : List Byte) : Bool :=
  let rho := pk.take 32
  let t1 := (blocksOf 320 6 (pk.drop 32)).map fun b => (unpackBits 10 b).map fun x => x * 2 ^ 13 % mlQ
  let c := sig.take 48
  let zi := (blocksOf 640 5 ((sig.drop 48).take 3200)).map fun b => (unpackBits 20 b).map fun x => (2 ^ 19 : Int) - (x : Int)
  match hintUnpack (sig.drop 3248) with
  | none => false
  | some hs =>
    let mu := shake 136 (shake 136 pk 64 ++ [0, 0] ++ m) 64
    let z := zi.map fun p => ntt (p.map fun x => (x % (mlQ : Int)).toNat)
    let ch := ntt (sampleInBall c)
    let w1 := (List.range 6).map fun r =>
      let az := (List.range 5).foldl (fun a s => polyAdd a (polyMul (expandA rho r s) (z.getD s []))) (List.replicate 256 0)
      let w := nttInv (polySub az (polyMul ch (ntt (t1.getD r []))))
      let h := hs.getD r []
      packBits 4 ((List.range 256).map fun i => useHint (h.contains i) (w.getD i 0))
    (zi.all fun p => p.all fun x => decide (x.natAbs < 2 ^ 19 - 196)) && shake 136 (mu ++ w1.flatten) 48 = c

/-! ## AES-256 in GCM (FIPS 197, SP 800-38D) -/

/-- Doubling in the field of AES. -/
def gfDouble (x : Nat) : Nat := if x < 128 then 2 * x else (2 * x) ^^^ 0x11B

/-- The product in the field of AES. -/
def gfMul (x y : Nat) : Nat :=
  (List.range 8).foldr (fun i r => let r := gfDouble r; if y.testBit i then r ^^^ x else r) 0

/-- The inverse in the field of AES, 0 for 0: the power 254. -/
def gfInv (x : Nat) : Nat := (List.range 7).foldr (fun _ r => let r := gfMul r x; gfMul r r) 1

/-- The S-box. -/
def aesSub (x : Nat) : Nat :=
  let b := gfInv x
  let rot := fun k => (b * 2 ^ k) % 256 + b * 2 ^ k / 256
  b ^^^ rot 1 ^^^ rot 2 ^^^ rot 3 ^^^ rot 4 ^^^ 0x63

/-- The 60 words of the expanded key of AES-256. -/
def aesKeys (key : List Nat) : List (List Nat) :=
  let w := blocksOf 4 8 key
  ((List.range 52).foldl (fun (st : List (List Nat) × Nat) k =>
    let i := k + 8
    let t := st.1.getD (i - 1) []
    let rc := st.2
    let u := if i % 8 = 0 then ((t.drop 1 ++ t.take 1).map aesSub).modifyHead fun x => x ^^^ rc
      else if i % 8 = 4 then t.map aesSub else t
    (st.1 ++ [List.zipWith (· ^^^ ·) (st.1.getD (i - 8) []) u], if i % 8 = 0 then gfDouble rc else rc)) (w, 1)).1

/-- A round key added to the 16 bytes of the state, column by column. -/
def aesAdd (ks : List (List Nat)) (r : Nat) (b : List Nat) : List Nat :=
  List.zipWith (· ^^^ ·) b ((ks.drop (4 * r)).take 4).flatten

/-- SubBytes and ShiftRows. -/
def aesShift (b : List Nat) : List Nat := (List.range 16).map fun i => aesSub (b.getD ((i % 4 + 4 * ((i / 4 + i % 4) % 4))) 0)

/-- MixColumns. -/
def aesMix (b : List Nat) : List Nat :=
  (List.range 16).map fun i =>
    let x := fun k => b.getD (4 * (i / 4) + (i + k) % 4) 0
    gfDouble (x 0) ^^^ gfDouble (x 1) ^^^ x 1 ^^^ x 2 ^^^ x 3

/-- AES-256 of one block. -/
def aesBlock (ks : List (List Nat)) (b : List Nat) : List Nat :=
  let m := (List.range 13).foldl (fun b i => aesAdd ks (i + 1) (aesMix (aesShift b))) (aesAdd ks 0 b)
  aesAdd ks 14 (aesShift m)

/-- The product of GHASH: bit 127 of a number is the first bit of its block. -/
def ghMul (x y : Nat) : Nat :=
  ((List.range 128).foldl (fun (st : Nat × Nat) i =>
    (if x.testBit (127 - i) then st.1 ^^^ st.2 else st.1, if st.2.testBit 0 then st.2 / 2 ^^^ 0xE1 * 2 ^ 120 else st.2 / 2)) (0, y)).1

/-- The blocks of an octet string, the last one filled with zeros. -/
def ghBlocks (l : List Byte) : List Nat := (blocksOf 16 ((l.length + 15) / 16) l).map fun b => ofBE (b ++ List.replicate (16 - b.length) 0)

/-- Decryption by AES-256-GCM with a nonce of 12 bytes: key, nonce, additional data, ciphertext and tag; none where the tag fails. -/
def gcmDecrypt (key : Nat) (iv aad ct tag : List Byte) : Option (List Byte) :=
  let ks := aesKeys ((beBytes 32 key).map fun b => b.toNat)
  let enc := fun (x : Nat) => (aesBlock ks ((beBytes 16 x).map fun b => b.toNat)).foldl (fun a b => a * 256 + b) 0
  let j := ofBE iv * 2 ^ 32
  let h := enc 0
  let s := (ghBlocks aad ++ ghBlocks ct ++ [8 * aad.length * 2 ^ 64 + 8 * ct.length]).foldl (fun y b => ghMul (y ^^^ b) h) 0
  if ofBE tag = s ^^^ enc (j + 1) then
    some ((List.zipIdx (blocksOf 16 ((ct.length + 15) / 16) ct)).flatMap fun e =>
      List.zipWith (fun x y => x ^^^ y) e.1 (beBytes 16 (enc (j + (e.2 + 2) % 2 ^ 32))))
  else none

end Sys2Proof.Machine
end

