-- ==== Sys2Proof/Machine/Power.lean ====
section
/-!
DEFINITION. Machine/Power.lean: the supply input, rails, the VR link, performance points, thermal limits (spec 02), module
resets and the reference (spec 03).
-/

namespace Sys2Proof.Machine

/-! ## Module reset (R97, R98, R101, R570) -/

/-- The priority of a cause of R98, by its CAUSE encoding (R104). -/
def causePrio (c : Nat) : Nat := [10, 8, 4, 2, 3, 5, 1, 6, 7, 9].getD c 10

/-- RST_CAUSE after a cause with its rail is recorded; `same` says that it is recognised in the always-on cycle of the cause
recorded last. -/
def causeReg (old : Reg32) (c rail : Nat) (same : Bool) : Reg32 :=
  let r := if c = 5 then rail % 32 else 0
  if same then
    let v := if causePrio c < causePrio (fld old 0 4) then setFld (setFld old 0 4 c) 8 5 r else old
    setBit v 13 true
  else
    BitVec.ofNat 32 (c + fld old 0 4 * 2 ^ 4 + r * 2 ^ 8 + satAdd 255 (fld old 16 8) 1 * 2 ^ 16)

/-- FLT_STAT after a module reset: causes 0x1 to 0x8 set both latches; the hold ends (R570). -/
def latchReg (old : Reg32) (c : Nat) : Reg32 := setBit (if 1 ≤ c ∧ c ≤ 8 then old ||| 3 else old) 2 false

/-- The causes whose condition a module reset would end, but which can still be recognised in its always-on cycle (R98): a rail start
that fails, the hold of a fatal error, and the SCU watchdog. -/
def liveCauses (s : State) : List Nat :=
  [5, 7, 8].filter fun c =>
    if c = 5 then decide (s.pwr.rail = .starting) else if c = 7 then rdB s .flts 0x040 2 else s.sage.phase = .done && clocksOn s

/-- A module reset (R97 to R101): the cause is recorded, the die is held in reset, and everything but the always-on domain, the
fuses and the EEPROM goes to its reset value; memory contents are lost. RSTOUT_N goes low (R100), crossings are flushed (R95), and the
DRAM group and the bank rails are off (R66, R290). Fault messages that have arrived have their entries (R573). The SEQ of the VR link goes on
from its last value. (DESIGN CHOICE, log 49) -/
def moduleReset (s : State) (cause rail : Nat) (same : Bool) : State :=
  let s := logArrived s s.faultQ.length
  let r : State := {
    pending := s.pending
    freeCtr := s.freeCtr
    epoch := s.epoch + 1
    engEpoch := s.engEpoch + 1
    eeprom := s.eeprom
    faultLog := s.faultLog
    wakeL := s.wakeL
    jtag := s.jtag
    dram := { code064 := s.dram.code064, pkgTemp := s.dram.pkgTemp }
    sage := { phase := .off, rdy := false, bootif := s.sage.bootif, retry := s.sage.retry, fuses := s.sage.fuses, fuses2 := s.sage.fuses2 }
    pwr := { s.pwr with
      vr := none, vrq := [], bankEnd := [], overCnt := 0, hiCnt := 0, loCnt := 0, supCeil := [], thrCeil := 0, die := false
      rstAt := none, ckA := [], live := if same then s.pwr.live else liveCauses s
      acked := s.pwr.acked.filter fun e => decide (e.1 < 16) && e.1 ≠ 5
      level := s.pwr.level.filter fun e => decide (e.1 < 16) && e.1 ≠ 5 }
    regs := SMap.drop s.regs fun a => !(decide (a / 0x1000 = pageAddr .wake / 0x1000)) }
  let r := latchOvf (countFlush r .wake (moduleFlush s)) s.twins fun k => yoyoDstSlot k = slotOf .wake
  let r := wr r .ckrs 0x050 (causeReg (rd s .ckrs 0x050) cause rail same)
  let r := wr r .flts 0x040 (latchReg (rd s .flts 0x040) cause)
  wrB r .flts 0x0A0 5 (rdB s .flts 0x0A0 5)

/-- Every rail but VAON and V33_AON goes off, with a module reset (R57, R59, R60, R77). -/
def railsOff (s : State) (cause rail : Nat) (same : Bool) (st : RailState) : State :=
  let s := moduleReset s cause rail same
  { s with jtag := {}, pwr := { s.pwr with rail := st, acked := [], level := [] } }

/-- A cause that takes the rails off (R57, R59, R60, R77): recorded also while a module reset sequence runs (R98), but not without the
always-on domain, nor after three failed starts, whose record stays (R65), but for a cause in the cycle of the third failure. -/
def causeOff (s : State) (cause : Nat) (same : Bool) : State :=
  if !s.pwr.vaon then s
  else if s.pwr.rail ≠ .dead then railsOff s cause 0 same .off
  else if same then railsOff s cause 0 true .dead
  else s

/-! ## The VR link (R68 to R73) -/

/-- One step of a CRC-8 with polynomial 0x07: the next message bit (R68). -/
def crc8Bit (c : Nat) (x : Bool) : Nat := if bitN c 7 ^^ x then (2 * c % 256) ^^^ 0x07 else 2 * c % 256

/-- The CRC-8 of bits 31:8 of a frame, most significant first, from 0x00 (R68). -/
def vrCrc (f : BitVec 32) : Nat := (List.range 24).foldl (fun c i => crc8Bit c (f.getLsbD (31 - i))) 0

/-- A frame with its CRC in bits 7:0 (R68). -/
def vrSeal (w : Nat) : BitVec 32 := BitVec.ofNat 32 (w / 256 * 256 + vrCrc (BitVec.ofNat 32 w))

/-- A request, ACK or NAK frame (R68). -/
def vrFrame (typ rail value seq : Nat) : BitVec 32 := vrSeal (typ % 16 * 2 ^ 28 + rail % 32 * 2 ^ 23 + value % 1024 * 2 ^ 13 + seq % 32 * 2 ^ 8)

/-- A frame received whose CRC holds (R68). -/
def vrOk (f : BitVec 32) : Bool := vrCrc f = fld f 0 8

/-- The acknowledged level of a rail. -/
def ackedLevel (s : State) (r : Nat) : Nat := SMap.getF railReset s.pwr.acked r

/-- Why the power stage refuses a request: 0 not at all, 2 RANGE, 3 TYPE (R69, R70, R290). A DISABLE whose VALUE is not 0 is refused
with RANGE; READ and ABORT carry VALUE 0, and no limit on VALUE binds them. (DESIGN CHOICE, log 49) -/
def vrRefuse (typ rail value : Nat) : Nat :=
  if typ = 0 ∨ 6 ≤ typ then 3
  else if 8 ≤ rail ∧ rail < 16 then 2
  else if typ = 3 then (if value = 0 then 0 else 2)
  else if typ = 4 ∨ typ = 5 then 0
  else if rail = 5 then (if value = 180 then 0 else 2)
  else if rail < 2 ∨ rail = 6 ∨ rail = 7 then (if value = railReset rail ∨ (rail = 0 ∧ value = 120) then 0 else 2)
  else if rail < 5 then (if 120 ≤ value ∧ value ≤ 190 then 0 else 2)
  else if value = 0 ∨ value = 360 ∨ value = 660 ∨ value = 1000 then 0 else 2

/-- A request goes out: the power stage moves the rail, or will refuse; one for a bank's rail that has faulted since it was made is
refused with FAULT (R67). (DESIGN CHOICE, log 49) -/
def vrLaunch (s : State) (q : VrReq) : State :=
  let q := { q with seq := s.pwr.vrSeq, bad := if q.bad = 4 then 4 else vrRefuse q.typ q.rail q.value, frame := vrFrame q.typ q.rail q.value s.pwr.vrSeq }
  let lv := if q.bad ≠ 0 then s.pwr.level
    else if q.typ = 5 then SMap.setF railReset s.pwr.level q.rail (ackedLevel s q.rail)
    else if q.typ = 4 then s.pwr.level
    else SMap.setF railReset s.pwr.level q.rail (if q.typ = 3 then 0 else q.value)
  { s with pwr := { s.pwr with vr := some q, vrSeq := (s.pwr.vrSeq + 1) % 32, level := lv } }

/-- One request is outstanding at a time (R71): the next waits. -/
def vrSend (s : State) (q : VrReq) : State :=
  match s.pwr.vr with
  | none => vrLaunch s q
  | some _ => { s with pwr := { s.pwr with vrq := s.pwr.vrq ++ [q] } }

/-- The outstanding request is done with; the next goes out. -/
def vrNext (s : State) : State :=
  let s := { s with pwr := { s.pwr with vr := none } }
  match s.pwr.vrq with
  | [] => s
  | q :: qs => vrLaunch { s with pwr := { s.pwr with vrq := qs } } q

/-- The level of a performance point (R64). -/
def pointLevel (p : Nat) : Nat := if p = 0 then 180 else if p = 1 then 156 else 140

/-- The point a cluster runs at (R104). -/
def curPoint (s : State) (w : Nat) : Nat := rdF s .ckrs 0x040 (4 + 2 * w) 2

/-- The effective ceiling of a cluster (R62). -/
def ceilOf (s : State) (w : Nat) : Nat := max (SMap.get 0 s.pwr.supCeil w) s.pwr.thrCeil

/-- The point a cluster is to run at: the lower of request and ceiling (R62). -/
def wantPoint (s : State) (w : Nat) : Nat := max (rdF s .ckrs 0x044 (2 * w) 2) (ceilOf s w)

/-- A voltage change of a cluster is outstanding or waits. -/
def pointBusy (s : State) (w : Nat) : Bool :=
  (s.pwr.vr.toList ++ s.pwr.vrq).any fun q => match q.why with
    | .point v _ => v = w
    | _ => false

/-- Ceilings are shown, and a cluster above the point it is to run at lowers its clock at once (R62). A napping cluster stays as it
is. Only the points of Winovar clusters are ever reduced (R63). -/
def lowerClocks (s : State) : State :=
  [0, 1, 2].foldl (fun s w =>
    let s := wrF s .supv 0x044 (8 + 2 * w) 2 (ceilOf s w)
    if rdB s .mari 0x044 (20 + w) then s else wrF s .ckrs 0x040 (4 + 2 * w) 2 (max (curPoint s w) (wantPoint s w))) s

/-- Marionette is taking the rails down for PARK or OFF (R556). -/
def railsGoing (s : State) : Bool := rdF s .mari 0x044 1 3 = 2 && decide (3 ≤ rdF s .mari 0x044 14 3)

/-- Every cluster whose rail does not stand at the level of the point it is to run at requests that level, but `skip`; one whose rail
stands there, with no change under way, runs at that point (R62). No cluster asks while the rails go down for PARK or OFF. (DESIGN CHOICE, log 94) -/
def askVolts (skip : Option Nat) (s : State) : State :=
  [0, 1, 2].foldl (fun s w =>
    let p := wantPoint s w
    if !clocksOn s ∨ railsGoing s ∨ rdB s .mari 0x044 (20 + w) ∨ pointBusy s w ∨ skip = some w then s
    else if ackedLevel s (2 + w) = pointLevel p then wrF s .ckrs 0x040 (4 + 2 * w) 2 p
    else vrSend s { typ := 1, rail := 2 + w, value := pointLevel p, why := .point w p }) s

/-- Every cluster moves toward its point: down with the clock first, up with the voltage first (R62). -/
def applyPoints (s : State) : State := askVolts none (lowerClocks s)

/-- A request ends: `res` is 1 acknowledged at level `v`, 2 timed out, 3 refused. A raise that was not acknowledged leaves the clock at
the old point and is not asked for at once; the end of the next request of the link, which is the ABORT of R71, asks for it again, as any
change of points does. (DESIGN CHOICE, log 49) -/
def vrEnd (s : State) (q : VrReq) (res v : Nat) : State :=
  let s := if res = 1 ∧ q.typ ≠ 4 then { s with pwr := { s.pwr with acked := SMap.setF railReset s.pwr.acked q.rail v } } else s
  let s := match q.why with
    | .point w p => if res = 1 ∧ p < curPoint s w then wrF s .ckrs 0x040 (4 + 2 * w) 2 (max p (wantPoint s w)) else s
    | .bank b =>
      if s.pwr.vrq.any fun r => decide (r.why = .bank b) then s
      else { s with pwr := { s.pwr with bankEnd := SMap.put s.pwr.bankEnd b res } }
    | _ => s
  let skip := match q.why with
    | .point w p => if res ≠ 1 ∧ wantPoint s w = p then some w else none
    | _ => none
  askVolts skip (lowerClocks (vrNext s))

/-- The four steps of R71 after a timeout or a refusal: ABORT for the rail, next on the link, VR_TIMEOUT, the corrected error 0x81 with
the rail and the NAK reason; and what the SCU takes the rail to stand at stays its last acknowledged level. -/
def vrFail (s : State) (q : VrReq) (reason : Nat) : State :=
  let s := { s with pwr := { s.pwr with vrq := { typ := 5, rail := q.rail, value := 0 } :: s.pwr.vrq } }
  let s := wrB s .supv 0x044 17 true
  vrEnd (recInternal s .supv 0x81 (q.rail + reason * 2 ^ 8)) q (if reason = 0 then 2 else 3) 0

/-- A request that SCU firmware makes: none while the die is in reset or its clocks stand (R101, R548). -/
def vrCommand (s : State) (q : VrReq) : State := if clocksOn s then vrSend s q else s

/-- VR_SET (R69). -/
def execVrSet (rail : Fin 32) (value : Fin 1024) (s : State) : Result := .next (vrCommand s { typ := 1, rail := rail, value := value })
/-- VR_ENABLE (R69). -/
def execVrEnable (rail : Fin 32) (value : Fin 1024) (s : State) : Result := .next (vrCommand s { typ := 2, rail := rail, value := value })
/-- VR_DISABLE (R69): VALUE must be 0. -/
def execVrDisable (rail : Fin 32) (value : Fin 1024) (s : State) : Result := .next (vrCommand s { typ := 3, rail := rail, value := value })
/-- VR_READ (R69). -/
def execVrRead (rail : Fin 32) (s : State) : Result := .next (vrCommand s { typ := 4, rail := rail, value := 0 })
/-- VR_ABORT (R69): the rail returns to its last acknowledged level. -/
def execVrAbort (rail : Fin 32) (s : State) : Result := .next (vrCommand s { typ := 5, rail := rail, value := 0 })

/-- The level that the power stage acknowledges (R69): the one it was asked for, the present level for READ, the last acknowledged one
for ABORT, and 0 for DISABLE. -/
def ackValue (s : State) (q : VrReq) : Nat :=
  if q.typ = 4 then SMap.getF railReset s.pwr.level q.rail else if q.typ = 5 then ackedLevel s q.rail else if q.typ = 3 then 0 else q.value

/-- An ACK (R68, R71): the outstanding request completes at the level in VALUE; a SEQ no longer outstanding sets VR_LATE_ACK. The level
reported to a READ is the answer of the command. No ACK carries another level than the one asked for. -/
def vrAck (s : State) (seq v : Nat) : State :=
  match s.pwr.vr with
  | some q =>
    if q.seq ≠ seq then wrB s .supv 0x044 18 true
    else if q.bad = 0 ∧ v = ackValue s q then vrEnd (if q.typ = 4 then answer s false v else s) q 1 v
    else s
  | none => wrB s .supv 0x044 18 true

/-- A NAK (R69 to R71): NAK CRC sends the request again, up to three times, and a fourth ends it at once; any other reason ends it.
RANGE and TYPE come only to a request that the power stage refuses so, FAULT only to one it does not. (DESIGN CHOICE, log 49) -/
def vrNak (s : State) (seq reason : Nat) : State :=
  match s.pwr.vr with
  | some q =>
    if q.seq ≠ seq ∨ !(reason = 1 ∨ (reason = 4 ∧ q.bad = 0) ∨ (2 ≤ reason ∧ reason = q.bad)) then s
    else if reason = 1 ∧ q.tries < 3 then { s with pwr := { s.pwr with vr := some { q with tries := q.tries + 1 } } }
    else vrFail s q reason
  | none => s

/-- 500 µs without an answer (R71). -/
def vrTimeout (s : State) : State :=
  match s.pwr.vr with
  | some q => vrFail s q 0
  | none => s

/-! ## Supply measurement (R56, R57, R61, R72) -/

/-- The mean of samples, rounded down to whole mV, mA or °C; of fewer samples than R56 or R76 counts, the mean of those there are.
(DESIGN CHOICE, log 48) -/
def meanI (l : List Int) : Int := if l.isEmpty then 0 else l.sum / l.length

/-- The window of a filtered VIN in mV (R57). -/
def windowOf (v : Int) : Nat :=
  if 18500 < v then 4 else if 18000 < v then 1 else if 6100 ≤ v then 0 else if 4500 ≤ v then 2 else if 4200 ≤ v then 3 else 5

/-- What the supply window just entered does (R57): HIGH-TRIP and BROWN take the rails off, HIGH sets its flag. -/
def windowAct (s : State) (w : Nat) (same : Bool) : State :=
  if w = 4 then
    let s := causeOff s 3 same
    { s with pwr := { s.pwr with trip := true } }
  else if w = 5 then causeOff s 2 same
  else if w = 1 then (if s.pwr.die then wrB s .supv 0x044 21 true else s)
  else s

/-- The supply window of R57 that a filtered VIN enters; Marionette's part in the entry into LOW is in `Machine/Mari.lean`. -/
def enterWindow (s : State) (w : Nat) (same : Bool) : State :=
  if w = s.pwr.win then s else windowAct { s with pwr := { s.pwr with win := w } } w same

/-- The power-stage controller runs: not in OFF (R548). -/
def stageOn (s : State) : Bool := s.mari.asleep ≠ 4

/-- A sample of VIN (R56, R57): VIN in mV and IIN in mA; the filtered value is the mean of the last 8 valid samples, and four
invalid ones in a row of either kind lose the measurement. There is none in OFF. (DESIGN CHOICE, log 48) -/
def vinIinSample (vin iin : Int) (same : Bool) (s : State) : State :=
  if !stageOn s then s else
  let okV := decide (0 ≤ vin) && decide (vin ≤ 30000)
  let okI := decide (-5000 ≤ iin) && decide (iin ≤ 60000)
  let p := s.pwr
  let badV := if okV then 0 else p.badV + 1
  let badI := if okI then 0 else p.badI + 1
  let s := { s with pwr := { p with
    vinS := if okV then (vin :: p.vinS).take 8 else p.vinS
    iinS := if okI then (iin :: p.iinS).take 8 else p.iinS
    badV := badV, badI := badI, lost := decide (4 ≤ badV) || decide (4 ≤ badI) } }
  if okV then enterWindow s (windowOf (meanI s.pwr.vinS)) same else s

/-- DIP_TIMEOUT (R57): 5 ms in DIP are a brown-out. -/
def execDipTimeout (same : Bool) (s : State) : Result :=
  .next (if s.pwr.win = 3 ∧ stageOn s then causeOff s 2 same else s)

/-- HIGH_TRIP_RESTART (R57): VIN has stayed at or below 18.0 V for 10 ms. -/
def execHighTripRestart (s : State) : Result :=
  .next (if s.pwr.trip ∧ stageOn s ∧ meanI s.pwr.vinS ≤ 18000 then { s with pwr := { s.pwr with trip := false } } else s)

/-- INPUT_OVERCURRENT (R60): filtered IIN above 44 A for 100 µs. -/
def execInputOvercurrent (same : Bool) (s : State) : Result :=
  .next (if 44000 < meanI s.pwr.iinS ∧ stageOn s then causeOff s 4 same else s)

/-- VAON_START (R59): VIN first exceeds 4.0 V. -/
def execVaonStart (s : State) : Result :=
  .next (if !s.pwr.vaon ∧ 4000 < meanI s.pwr.vinS then { s with pwr := { s.pwr with vaon := true } } else s)

/-- The state at a cold power-on (R59, R97): the always-on domain loses its contents; fuses, straps and the EEPROM stay. -/
def coldState (s : State) : State :=
  let r := moduleReset s 0 0 false
  { r with
    regs := []
    faultLog := []
    wakeL := {}
    jtag := {}
    pwr := { vaon := false, vinS := if stageOn s then s.pwr.vinS else [], iinS := s.pwr.iinS, win := s.pwr.win, rail := .off, die := false, porst := s.pwr.porst } }

/-- VAON_LOSS (R59): VIN below 3.0 V, which in OFF nothing measures; the next start is a cold power-on. -/
def execVaonLoss (s : State) : Result :=
  .next (if s.pwr.vaon ∧ (!stageOn s ∨ meanI s.pwr.vinS < 3000) then coldState s else s)

/-- The rails may start (R57, R58, R77): VIN stands between 5.0 and 18.0 V and nothing keeps them back. -/
def mayStart (s : State) : Bool :=
  s.pwr.vaon && !s.pwr.trip && s.pwr.back = 0 && s.mari.asleep = 0 && decide (5000 ≤ meanI s.pwr.vinS) && decide (meanI s.pwr.vinS ≤ 18000)

/-- RAIL_START (R58, R65): from powered down, VIN has stayed in range for 1 ms. -/
def execRailStart (s : State) : Result :=
  .next (if s.pwr.rail = .off ∧ mayStart s then
      { s with pwr := { s.pwr with rail := .starting, acked := [], level := [] } }
    else s)

/-- RAIL_START_TIMEOUT (R65): a rail of the start sequence misses its window; after the third failed start the rails stay off
with the cause and the rail recorded. In the always-on cycle of a cause that has just ended the start it fails all the same (R98). -/
def execRailStartTimeout (rail : Fin 8) (same : Bool) (s : State) : Result :=
  .next (if ¬(s.pwr.rail = .starting ∨ (same ∧ s.pwr.rail = .off ∧ s.pwr.live.contains 5)) ∨ rail = 5 then s
    else
      let f := s.pwr.fails + 1
      if f < 3 then { s with pwr := { s.pwr with rail := .retry, fails := f } }
      else
        let s := railsOff s 5 rail same .dead
        { s with pwr := { s.pwr with fails := f } })

/-- RAIL_START_RETRY (R58, R65): 100 ms after a failed start, all rails being off. -/
def execRailStartRetry (s : State) : Result :=
  .next (if s.pwr.rail = .retry ∧ mayStart s then { s with pwr := { s.pwr with rail := .starting } } else s)

/-- Input power as SUP_MEAS gives it, in units of 2.5 mW, and the limit in the same units (R61, R72). -/
def pinUnits (s : State) : Nat := rdF s .supv 0x040 0 12 * rdF s .supv 0x040 16 8

/-- P_lim of R61, 162 W while telemetry is lost (R72). -/
def pLim (s : State) : Nat :=
  let v := rdF s .supv 0x040 0 12
  if rdF s .supv 0x044 0 3 = 4 then 64800 else if 610 ≤ v then 88000 else 144 * v

/-- The window as SUP_STAT shows it. -/
def showWindow (s : State) (w : Nat) : State := wrF s .supv 0x044 0 3 w

/-- The frame that the power stage sends of its filtered values (R68, R69), once it has any: each rounded down to its unit, and a negative
IIN as 0. (DESIGN CHOICE, log 49) -/
def telemetryOf (s : State) : Option (Nat × Nat) :=
  if s.pwr.vinS = [] ∨ s.pwr.iinS = [] ∨ s.pwr.lost then none
  else some ((meanI s.pwr.vinS).toNat / 10, (meanI s.pwr.iinS).toNat / 250)

/-- Telemetry (R63, R72, R78): VIN in units of 10 mV and IIN in units of 250 mA, as `telemetryOf` gives them. PIN saturates at
255 W. A VIN above 18.5 V shows as HIGH and one below 4.2 V as DIP. (DESIGN CHOICE, log 48) -/
def telemetry (s : State) (vin iin : Nat) : State :=
  if !clocksOn s ∨ telemetryOf s ≠ some (vin, iin) then s
  else
    let s := wr s .supv 0x040 (BitVec.ofNat 32 (vin + iin * 2 ^ 16 + min 255 (vin * iin / 400) * 2 ^ 24))
    let w := windowOf (10 * (vin : Int))
    showWindow s (if w < 4 then w else if w = 4 then 1 else 3)

/-- TELEM_LOST (R72): 50 µs without a valid frame, or the measurement lost. -/
def execTelemLost (s : State) : Result :=
  .next (if clocksOn s then wrB (showWindow s 4) .supv 0x044 19 true else s)

/-- VR_LINK_LOST (R72): 500 µs without any valid frame. -/
def execVrLinkLost (s : State) : Result := .next (if clocksOn s then recFatal s .supv 0x85 0 else s)

/-- The cluster to lower: the highest supply ceiling, then the lowest number; none if all stand at P2. The ceilings that R61 compares
are taken to be its own. (DESIGN CHOICE, log 48) -/
def lowerPick (s : State) : Option Nat :=
  [0, 1].findSome? fun p => [0, 1, 2].find? fun w => SMap.get 0 s.pwr.supCeil w = p

/-- The cluster to raise: the lowest ceiling below its requested point, then the highest number. -/
def raisePick (s : State) : Option Nat :=
  [2, 1].findSome? fun p => [2, 1, 0].find? fun w => SMap.get 0 s.pwr.supCeil w = p && decide (rdF s .ckrs 0x044 (2 * w) 2 < p)

/-- A supply ceiling set, and the points that follow. -/
def setCeil (s : State) (w p : Nat) : State := applyPoints { s with pwr := { s.pwr with supCeil := SMap.set 0 s.pwr.supCeil w p } }

/-- POWER_LIMIT_EVAL (R61, R63): the evaluation made every 10 µs; 1 ms is 100 of them. The interval of a raise starts again also where no
cluster qualifies, and ERR_ADDR saturates at 255 W. (DESIGN CHOICE, log 48) -/
def execPowerLimitEval (s : State) : Result :=
  .next (if !clocksOn s then s
    else
      let p := pinUnits s
      let lim := pLim s
      let oc := if lim < p then s.pwr.overCnt + 1 else 0
      let s := { s with pwr := { s.pwr with overCnt := oc } }
      let s := if oc = 2 then
          let s := { s with pwr := { s.pwr with overCnt := 0 } }
          match lowerPick s with
          | some w => setCeil s w (SMap.get 0 s.pwr.supCeil w + 1)
          | none => s
        else s
      let hi := if lim < p ∧ lowerPick s = none then s.pwr.hiCnt + 1 else 0
      let lo := if 10 * p < 9 * lim then s.pwr.loCnt + 1 else 0
      let s := { s with pwr := { s.pwr with hiCnt := if hi = 100 then 0 else hi, loCnt := if lo = 100 then 0 else lo } }
      let s := if hi = 100 then recFatal (wrB s .supv 0x044 16 true) .supv 0x84 (min 255 (p / 400)) else s
      if lo = 100 then
        match raisePick s with
        | some w => setCeil s w (SMap.get 0 s.pwr.supCeil w - 1)
        | none => s
      else s)

/-! ## Thermal limits (R75 to R77) -/

/-- A reading is valid (R75). -/
def tempOk (t : Int) : Bool := decide (-55 ≤ t) && decide (t ≤ 150)

/-- The latest valid reading of a sensor. -/
def tempOf (s : State) (i : Nat) : Option Int := (SMap.get [] s.pwr.temps i).head?

/-- The hottest of some sensors that have readings: sensor and reading. Of two that read the same it is the lower number.
(DESIGN CHOICE, log 48) -/
def hottest (s : State) (l : List Nat) : Option (Nat × Int) :=
  l.foldl (fun best i => match tempOf s i, best with
    | some t, some (_, u) => if u < t then some (i, t) else best
    | some t, none => some (i, t)
    | none, _ => best) none

/-- The thermal state that follows a temperature, with its hysteresis (R76). -/
def thermNext (old : Nat) (t : Int) : Nat :=
  if 115 ≤ t ∨ (old = 2 ∧ 110 ≤ t) then 2 else if 105 ≤ t ∨ (1 ≤ old ∧ 100 ≤ t) then 1 else 0

/-- A temperature as a byte of SUP_TEMP; a valid reading of 128 to 150, which a signed byte does not hold, wraps. (DESIGN CHOICE, log 48) -/
def tempByte (t : Int) : Nat := wrapN 8 t

/-- A thermal sample (R75 to R77): the readings of the 16 die sensors and the 4 module sensors (16 and 17 in the power stage, 18 and
19 at the DRAM packages); a list of another length is no sample. An invalid reading between two readings of 125 °C does not part
them, and SUP_TEMP reads 0 for a kind of sensor with no valid reading. (DESIGN CHOICE, log 48) -/
def thermalSample (l : List Int) (same : Bool) (s : State) : State :=
  if l.length ≠ 20 ∨ !stageOn s then s
    else
      let bad := (List.range 20).filter fun i => !tempOk (l.getD i 0)
      let s0 := { s with pwr := { s.pwr with temps := (List.range 20).foldl (fun (m : SMap (List Int)) i =>
        if bad.contains i then m else SMap.set [] m i ((l.getD i 0 :: SMap.get [] m i).take 4)) s.pwr.temps } }
      let hot := (List.range 18).any fun i => !bad.contains i && (match SMap.get (α := List Int) [] s0.pwr.temps i with
        | a :: b :: _ => decide (125 ≤ a) && decide (125 ≤ b)
        | _ => false)
      let cool := (List.range 20).all fun i => bad.contains i || decide (l.getD i 0 < 100)
      let s1 := if cool ∧ s0.pwr.back = 4 then { s0 with pwr := { s0.pwr with back := 0 } } else s0
      let valid := fun (f : Nat → Bool) => (List.range 20).filter fun i => f i && !bad.contains i
      let s1 := match hottest s1 (valid fun i => decide (18 ≤ i)) with
        | some (_, t) => if s1.pwr.die then pkgReading s1 t else { s1 with dram := { s1.dram with pkgTemp := t } }
        | none => s1
      let s1 := if !s1.pwr.die then s1
        else
          let s1 := bad.foldl (fun s i => recInternal s .supv 0x82 i) s1
          let die := hottest s1 (valid fun i => decide (i < 16))
          let mod := hottest s1 (valid fun i => decide (16 ≤ i))
          let st := rdF s1 .supv 0x048 20 2
          let watch := hottest s1 (valid fun i => decide (i < 18))
          let next := if 4 < (bad.filter fun i => decide (i < 16)).length then 2
            else match watch with
              | some (i, _) => thermNext st (meanI (SMap.get (α := List Int) [] s1.pwr.temps i))
              | none => st
          let s1 := wr s1 .supv 0x048 (BitVec.ofNat 32 (tempByte ((die.map Prod.snd).getD 0) + tempByte ((mod.map Prod.snd).getD 0) * 2 ^ 8
            + (die.map Prod.fst).getD 0 * 2 ^ 16 + next * 2 ^ 20))
          if st ≠ 1 ∧ next = 1 then recInternal s1 .supv 0x83 ((watch.map Prod.fst).getD 0) else s1
      if hot ∧ s1.pwr.back < 2 then
        let s2 := causeOff s1 6 same
        { s2 with pwr := { s2.pwr with back := 2 } }
      else s1

/-- THERM_N (R76): low in WARN and THROTTLE. -/
def thermN (s : State) : Bool := rdF s .supv 0x048 20 2 = 0

/-- THROTTLE_STEP (R76): the thermal ceiling falls one point in THROTTLE, and rises one after it. -/
def execThrottleStep (s : State) : Result :=
  let c := s.pwr.thrCeil
  let c' := if rdF s .supv 0x048 20 2 = 2 then min 2 (c + 1) else c - 1
  .next (if c' = c ∨ !clocksOn s then s else applyPoints { s with pwr := { s.pwr with thrCeil := c' } })

/-! ## Bank rails (R66, R67, R428) -/

/-- The VALUE of a VSEL (R70). -/
def vselLevel (v : Nat) : Nat := if v = 1 then 360 else if v = 2 then 660 else if v = 3 then 1000 else 0

/-- A write of BANK_CFG would send a rail request (R428): none that changes FORCE_SAFE alone does; while the rail ramps, the last request
has not failed. -/
def bankAsks (s : State) (b : Fin 16) (v : Reg32) : Bool :=
  let st := rd s (.pb b) 0x044
  let old := rd s (.pb b) 0x040
  fld v 0 2 ≠ fld old 0 2 ||
    (bit v 2 = bit old 2 && (fld st 0 2 = 3 || (fld st 0 2 ≠ 1 && decide (2 ≤ fld st 4 3) && fld st 2 2 ≠ fld v 0 2)))

/-- A write of BANK_CFG that is refused (R428). -/
def bankReject (s : State) (b : Fin 16) (v : Reg32) : Option Nat :=
  if !bankAsks s b v then none
  else if (List.range 16).any fun i => cellEn s (Fin.ofNat 256 (16 * b.val + i)) then some 0x80
  else if rdF s (.pb b) 0x044 0 2 = 1 then some 0x81
  else none

/-- RAIL of a bank changes; a rail that leaves ON puts its cells in SAFE with cause BANK (R429). -/
def setRail (s : State) (b : Fin 16) (x : Nat) : State :=
  let was := rdF s (.pb b) 0x044 0 2
  let s := wrF s (.pb b) 0x044 0 2 x
  if was = 2 ∧ x ≠ 2 then bankSafe s b 3 else s

/-- A write of BANK_CFG (R428, R430); the end of an earlier request that was still to be shown is not, once it asks anew. -/
def bankWrite (s : State) (b : Fin 16) (v : Reg32) : State :=
  let ask := bankAsks s b v
  let s := wr s (.pb b) 0x040 (v &&& 7)
  let s := if bit v 2 then bankSafe s b 4 else s
  let drop := fun (s : State) => { s with pwr := { s.pwr with bankEnd := SMap.drop s.pwr.bankEnd fun k => k = b.val } }
  if ask then vrSend (setRail (drop s) b 1) { typ := 1, rail := 16 + b.val, value := vselLevel (fld v 0 2), why := .bank b } else s

/-- BANK_RAIL_DONE (R428): the request of a bank's rail has ended. -/
def execBankRailDone (b : Fin 16) (s : State) : Result :=
  .next (match SMap.find? s.pwr.bankEnd b with
    | none => s
    | some res =>
      let s := { s with pwr := { s.pwr with bankEnd := SMap.drop s.pwr.bankEnd fun k => k = b.val } }
      let lvl := if rdF s (.pb b) 0x044 0 2 = 3 then 0
        else (([0, 360, 660, 1000] : List Nat).findIdx? fun x => x = ackedLevel s (16 + b.val)).getD 0
      let s := wrF (wrF s (.pb b) 0x044 2 2 lvl) (.pb b) 0x044 4 3 res
      setIrq (if rdF s (.pb b) 0x044 0 2 = 3 then s else setRail s b (if lvl = 0 then 0 else 2)) (.pb b) 1)

/-- BANK_FAULT (R67): a rail that is not off switches off on overload, also while it ramps, and refuses the requests made for
it so far; one message goes to each domain that owns a cell of the bank, or to DID 0 where no other does: DID 0 gets none beside
another domain. (DESIGN CHOICE, log 48) -/
def execBankFault (b : Fin 16) (s : State) : Result :=
  .next (if SMap.getF railReset s.pwr.level (16 + b.val) = 0 then s
    else
      let off := fun (q : VrReq) => if q.rail = 16 + b.val then { q with bad := 4 } else q
      let s := { s with pwr := { s.pwr with vr := s.pwr.vr.map off, vrq := s.pwr.vrq.map off } }
      let dids := ((List.range 16).map fun i => owner s (.pc (Fin.ofNat 256 (16 * b.val + i)))).eraseDups.filter fun d => decide (d ≠ 0)
      let raise := if dids = [] then [0] else dids
      let s := { s with pwr := { s.pwr with acked := SMap.setF railReset s.pwr.acked (16 + b.val) 0, level := SMap.setF railReset s.pwr.level (16 + b.val) 0 } }
      let s := setIrq (wrF (setRail s b 3) (.pb b) 0x044 2 2 0) (.pb b) 2
      let s := wrB s .supv 0x044 20 true
      let s := recordErr s .supv 0x80 contained { gen := genOf s (.dom 0) } b 0
      { s with faultQ := s.faultQ.dropLast ++ raise.map fun d =>
          { page := Page.supv, code := 0x80, cls := contained, attr := { did := d, gen := genOf s (.dom 0) }, detail := b.val, did := d } })

/-! ## Reference, PORST_N and the end of a module reset (R83, R99, R102) -/

/-- REF_LOST or LOCK_LOST (R83): the flag, holdover, and the fatal error. -/
def clockLost (s : State) (i : Nat) : State :=
  let s := wrB (wrB (wrB s .ckrs 0x040 i true) .ckrs 0x040 2 true) .ckrs 0x040 0 false
  recUnstated s .ckrs fatal

/-- REF_LOST (R83): the reference is not accepted any more. -/
def execRefLost (s : State) : Result :=
  .next (let s := { s with pwr := { s.pwr with refOk := false } }
    if s.pwr.die then clockLost (wrB s .ckrs 0x040 1 false) 16 else s)

/-- LOCK_LOST (R83). (DESIGN CHOICE, log 12) -/
def execLockLost (s : State) : Result := .next (if s.pwr.die then clockLost s 17 else s)

/-- REFERENCE_ACCEPTED (R102): the monitor accepts the reference and REF_OK is set; holdover lasts until a module reset. -/
def execReferenceAccepted (s : State) : Result :=
  .next (let s := { s with pwr := { s.pwr with refOk := true } }
    if s.pwr.die then wrB s .ckrs 0x040 1 true else s)

/-- REF_WAIT_TIMEOUT (R102): REF_OK is not set within 5 ms of the rails being up. -/
def execRefWaitTimeout (s : State) : Result :=
  .next (if !s.pwr.die ∧ !s.pwr.refOk ∧ (s.pwr.rail = .up ∨ s.pwr.rail = .starting) then
      { s with pwr := { s.pwr with rail := .up, aonRef := true } }
    else s)

/-- RSTOUT_N (R100): low from a module reset cause to Sage's first instruction, and for 100 µs at least. -/
def rstoutN (s : State) : Bool :=
  match s.pwr.rstAt with
  | some t => s.pwr.die && decide (t ≤ s.dt)
  | none => false

/-- PORST_ASSERT (R77, R98, R99): 8 low samples. After a thermal trip it only counts toward the restart; during the rail start, which
lasts until the die leaves reset or waits for the reference, it only delays that. (DESIGN CHOICE, log 48) -/
def execPorstAssert (same : Bool) (s : State) : Result :=
  .next (if !s.pwr.porst ∨ !s.pwr.vaon then s
    else
      let s := { s with pwr := { s.pwr with porst := false } }
      if 2 ≤ s.pwr.back then { s with pwr := { s.pwr with back := 3 } }
      else if s.pwr.rail = .starting ∨ s.pwr.rail = .retry ∨ s.pwr.rail = .dead then s
      else
        let a := s.mari.asleep
        let s := moduleReset s 1 0 same
        if 3 ≤ a then { s with pwr := { s.pwr with rail := .off } } else s)

/-- PORST_RELEASE (R99): 8 high samples. -/
def execPorstRelease (s : State) : Result :=
  .next (if s.pwr.porst then s
    else { s with pwr := { s.pwr with porst := true, back := if s.pwr.back = 3 then 4 else s.pwr.back } })

end Sys2Proof.Machine
end

