-- ==== Sys2Proof/Machine/Sage.lean ====
section
/-!
DEFINITION. Machine/Sage.lean: the start of Sage, the push, image verification and choice, the fuse array, lifecycle,
handover and tamper (spec 05).
-/

namespace Sys2Proof.Machine

/-! ## Fuses and lifecycle (R149 to R153, R157, R158) -/

/-- The lifecycle state of an LC field: the highest burnt bit, TEST if none is burnt (R149, R152). -/
def lcState (lc : Nat) : Nat := if bitN lc 3 then 4 else if bitN lc 2 then 3 else if bitN lc 1 then 2 else if bitN lc 0 then 1 else 0

/-- The debug port state of a lifecycle state without a grant (R152). -/
def lcDbg (st : Nat) : Nat := if st = 0 ∨ st = 3 then 0 else if st = 1 then 1 else 2

/-- The count of burnt SECVER_MIN bits (R149). -/
def secverMin (f : Fuses) : Nat := ((List.range 127).filter fun i => bitN f.secver i).length

/-- The two copies of the array differ outside LC (R150). -/
def fuseMismatch (s : State) : Bool := decide ({ s.sage.fuses with lc := 0 } ≠ { s.sage.fuses2 with lc := 0 })

/-- The debug port state (R157, R158): CLOSED while Sage runs, that of the lifecycle state at a halt, and LC_STAT.DBG from
handover on. -/
def dbgState (s : State) : Nat :=
  match s.sage.phase with
  | .done => rdF s .lcyc 0x040 4 2
  | .halted => lcDbg (lcState (s.sage.fuses.lc ||| s.sage.fuses2.lc))
  | _ => 2

/-- Key slots programmed and not revoked. -/
def liveKeys (f : Fuses) : Nat := ((List.range 4).filter fun i => bitN f.prog i && !bitN f.rev i).length

/-- The next states of a lifecycle state (R152). -/
def lcNext (st : Nat) : List Nat := if st = 0 then [1, 4] else if st = 1 then [2, 4] else if st = 2 then [3, 4] else if st = 3 then [4] else []

/-! ## Sage's own state -/

/-- A field of Sage changed. -/
def updSage (s : State) (f : Sage → Sage) : State := { s with sage := f s.sage }

/-- A wipe of the secure part, banks 56 to 63, to zero (R155): it runs until SECURE_WIPE_DONE, and one requested meanwhile starts
again. -/
def wipeSecure (s : State) : State := updSage (zeroBanks s 56 64) fun g => { g with wiping := true }

/-- Both staging slots, banks 0 to 31, are zeroed. -/
def zeroSlots (s : State) : State := zeroBanks s 0 32

/-- First byte of a staging slot: A at bank 0, B at bank 16. (DEDUCED, log 18) -/
def slotBase (b : Bool) : Nat := sramBase + (if b then 0x400000 else 0)

/-- Sage halts (R146): the code stands, BOOT_RDY stays low. -/
def sageHalt (s : State) (code : Nat) : State := updSage s fun g => { g with phase := .halted, err := code, rdy := false, applying := false }

/-- No bank has been zeroed or wiped. -/
def notZeroed (s : State) : State :=
  { s with sram := { s.sram with zeroed := (List.range 64).foldl (fun m b => SMap.setF zeroedAtReset m b false) s.sram.zeroed } }

/-- A strap from its samples, 1 µs apart (R127): the first set of 8 that agrees. -/
def strapPick (i : Nat) : Nat → List (Fin 8) → Option Bool
  | 0, _ => none
  | k + 1, l =>
    let x := (l.take 8).map fun v => bitN v.val i
    if x.length = 8 ∧ (x.all id ∨ x.all not) then x.head? else strapPick i k (l.drop 8)

/-- BOOTIF1:0 and BOOT_RETRY from samples of BOOTIF0, BOOTIF1 and BOOT_RETRY (bits 0 to 2): a set is repeated up to 100 times, and a strap
that never settles gives the reserved BOOTIF. (DEDUCED, log 5) -/
def strapRead (l : List (Fin 8)) : Nat × Bool :=
  match strapPick 0 101 l, strapPick 1 101 l, strapPick 2 101 l with
  | some b0, some b1, some r => (b0.toNat + 2 * b1.toNat, r)
  | _, _, r => (3, r.getD false)

/-- The die leaves reset and Sage starts (R100, R102): rails stand at their start levels, also where they have stayed up over a module
reset and no start was made, device time starts, and RSTOUT_N goes high `low` µs of its 100 having passed. (DESIGN CHOICE, log 49) -/
def sageBegin (s : State) (bootif : Nat) (retry : Bool) (low : Nat) : State :=
  let s := { s with dt := 0, dtOff := 0, pwr := { s.pwr with
    die := true, rail := .up, fails := 0, acked := [], level := [], rstAt := some ((100 - low) * 16000 / 9) } }
  updSage s fun g => { phase := .push, bootif := bootif, retry := retry, rdy := false, fuses := g.fuses, fuses2 := g.fuses2 }

/-- Step 5 of R126: the boot port is ready at once, a link is brought up and waited for. (DESIGN CHOICE, log 74) -/
def bootLink (s : State) : State :=
  if s.sage.bootif = 1 then bootPce s else if s.sage.bootif = 2 then bootTyl s else updSage s fun g => { g with rdy := true }

/-- The shadows are read; a lifecycle bit burnt in one copy alone is completed (R150). -/
def readFuses (s : State) : State :=
  updSage s fun g =>
    let lc := g.fuses.lc ||| g.fuses2.lc
    { g with fuses := { g.fuses with lc := lc }, fuses2 := { g.fuses2 with lc := lc }, shadow := { g.fuses with lc := lc }
             lcDone := decide (g.fuses.lc ≠ g.fuses2.lc) }

/-- Steps 3 to 5 of R126: the secure part and both staging slots are zeroed; a scrapped device halts there, before its calibration is copied, any
other copies its calibration and brings up its push interface. (DESIGN CHOICE, log 20) -/
def sageOpen (s : State) (us : Nat) : State :=
  let s := zeroSlots (wipeSecure s)
  if lcState s.sage.shadow.lc = 4 then sageHalt s 0xD else bootLink (calCopy s us)

/-- DIE_RESET_RELEASE (R102, R126 to R128, R150): the die leaves reset and Sage starts; `straps` are the samples of the straps, `us` is
the time of the calibration copy in µs, `low` how long RSTOUT_N has been low in µs, `defect` says that a bit outside LC reads with
unlike fuses. A mismatch outside LC halts Sage before one in LC is completed. (DESIGN CHOICE, log 20) -/
def execDieResetRelease (straps : List (Fin 8)) (us low : Nat) (defect : Bool) (s : State) : Result :=
  .next (if s.pwr.die ∨ !s.pwr.vaon ∨ !(s.pwr.rail = .up ∨ s.pwr.rail = .starting) ∨ !s.pwr.porst ∨ !s.pwr.refOk ∨ s.pwr.trip ∨ s.pwr.back ≠ 0 then s
    else
      let s := sageBegin s (strapRead straps).1 (strapRead straps).2 low
      if s.sage.bootif = 3 then sageHalt (notZeroed s) 0xE
      else if defect ∨ fuseMismatch s then sageHalt (notZeroed s) 0xC
      else sageOpen (readFuses s) us)

/-! ## The push (R129 to R137) -/

/-- A frame is refused: the flags of R133 that it meets are set. -/
def frameBad (s : State) (crc ref busy : Bool) : State :=
  updSage s fun g => { g with lastOk := false, crcErr := g.crcErr || crc, refused := g.refused || ref, busyDrop := g.busyDrop || busy }

/-- RELEASE has been accepted at this start, or no push is waited for. (DESIGN CHOICE, log 74) -/
def pushOver (s : State) : Bool := s.sage.phase ≠ .push

/-- A frame other than STATUS has been accepted and is being applied (R134, R135). (DESIGN CHOICE, log 19) -/
def frameTaken (s : State) : State :=
  updSage s fun g => { g with lastOk := true, rdy := false, applying := true, started := true, err := 1 }

/-- Bytes stored in a staging slot. -/
def slotStore (s : State) (b : Bool) (off : Nat) (data : List Byte) : State :=
  let a := slotBase b + off
  let s := setSramBytes s a data.length (2 ^ (8 * data.length) - 1) (ofBytes data)
  { s with sram := { s.sram with bad := SMap.drop s.sram.bad fun g => decide (a / 8 ≤ g) && decide (8 * g < a + data.length) } }

/-- The four STATUS bytes (R132). -/
def statusBytes (s : State) : List Byte :=
  let g := s.sage
  let f := g.lastOk.toNat + 2 * g.crcErr.toNat + 4 * g.refused.toNat + 8 * g.busyDrop.toNat + 16 * g.released.toNat + 32 * g.abandon.toNat
  [BitVec.ofNat 8 g.err, BitVec.ofNat 8 f, BitVec.ofNat 8 (g.writes / 256), BitVec.ofNat 8 g.writes]

/-- The sixteen INFO bytes (R132); multi-byte fields most significant byte first. -/
def infoBytes (s : State) : List Byte :=
  [0xB0, 0x01, 0x01, BitVec.ofNat 8 (lcState s.sage.shadow.lc)] ++ (bytesOf 8 s.sage.shadow.devId).reverse
    ++ [0x01, BitVec.ofNat 8 s.sage.bootif, 0, 0]

/-- STATUS is answered and its flags clear. (DESIGN CHOICE, log 19) -/
def takeStatus (s : State) (tail : List Byte → List Byte) : State :=
  let b := statusBytes s
  updSage s fun g =>
    { g with miso := b ++ tail b, lastOk := true, crcErr := false, refused := false, busyDrop := false, released := false, abandon := false }

/-- WRITE (R131, R133, R134): what is wrong with it, or the data stored. -/
def takeWrite (s : State) (slot off len : Nat) (data : List Byte) (crcBad : Bool) : State :=
  let range := decide (2 ≤ slot) || decide (off % 4 ≠ 0) || decide (len % 4 ≠ 0) || decide (len < 4) || decide (256 < len)
    || decide (0x400000 < off + len)
  let ref := decide (data.length ≠ len) || range || pushOver s
  if crcBad || ref || !s.sage.rdy then frameBad s crcBad ref (!s.sage.rdy)
  else updSage (frameTaken (slotStore s (slot = 1) off data)) fun g => { g with writes := (g.writes + 1) % 65536 }

/-- A whole slot is zeroed. -/
def zeroSlot (s : State) (b : Bool) : State := if b then zeroBanks s 16 32 else zeroBanks s 0 16

/-- CLEAR. -/
def takeClear (s : State) (slot : Nat) (crcBad short : Bool) : State :=
  let ref := short || decide (2 ≤ slot) || pushOver s
  if crcBad || ref || !s.sage.rdy then frameBad s crcBad ref (!s.sage.rdy)
  else frameTaken (zeroSlot s (slot = 1))

/-- RELEASE: the push ends and verification starts (R131, R134). -/
def takeRelease (s : State) (key : Nat) (crcBad short : Bool) : State :=
  let ref := short || decide (key ≠ 0x5A) || pushOver s
  if crcBad || ref || !s.sage.rdy then frameBad s crcBad ref (!s.sage.rdy)
  else updSage s fun g => { g with phase := .verify, lastOk := true, rdy := false, released := true, err := 2 }

/-- INFO. -/
def takeInfo (s : State) (tail : List Byte → List Byte) : State :=
  if !s.sage.rdy then frameBad s false false true
  else updSage s fun g => { g with miso := infoBytes s ++ tail (infoBytes s), lastOk := true }

/-- A frame with a reserved command byte: ignored and counted. -/
def takeReserved (s : State) : State :=
  updSage (frameBad s false true (!s.sage.rdy)) fun g => { g with ignored := g.ignored + 1 }

/-- Whether the boot port receives frames: it is the selected interface and the die is out of reset (R128). -/
def bootPort (s : State) : Bool := s.sage.bootif = 0 && s.sage.phase ≠ .off

/-- The CRC bytes of an answer. (DESIGN CHOICE, log 16) -/
def crcTail (b : List Byte) : List Byte := bytesOf 4 (crc32 b)

/-- BOOT_WRITE (R131, R133): the frame as received. -/
def execBootWrite (slot : BitVec 8) (off : BitVec 24) (len : BitVec 16) (data : List Byte) (crc : BitVec 32) (s : State) : Result :=
  let body := [0x02, slot] ++ (bytesOf 3 off.toNat).reverse ++ (bytesOf 2 len.toNat).reverse ++ data
  .next (if bootPort s then takeWrite s slot.toNat off.toNat len.toNat data (crc.toNat ≠ crc32 body) else s)

/-- BOOT_STATUS (R131, R132): `n` is the number of bytes clocked after the command. -/
def execBootStatus (n : Nat) (s : State) : Result :=
  .next (if bootPort s then (if n = 8 then takeStatus s crcTail else frameBad s false true false) else s)

/-- BOOT_CLEAR (R131, R133): `body` is what stands between the command and the CRC. -/
def execBootClear (body : List Byte) (crc : BitVec 32) (s : State) : Result :=
  .next (if bootPort s then takeClear s (ofBE (body.take 1)) (crc.toNat ≠ crc32 (0x20 :: body)) (body.length ≠ 1) else s)

/-- BOOT_INFO (R131, R132). -/
def execBootInfo (n : Nat) (s : State) : Result :=
  .next (if bootPort s then (if n = 20 then takeInfo s crcTail else frameBad s false true (!s.sage.rdy)) else s)

/-- BOOT_RELEASE (R131, R133): `body` is what stands between the command and the CRC. -/
def execBootRelease (body : List Byte) (crc : BitVec 32) (s : State) : Result :=
  .next (if bootPort s then takeRelease s (ofBE (body.take 1)) (crc.toNat ≠ crc32 (0xB8 :: body)) (body.length ≠ 1) else s)

/-- BOOT_RESERVED_CMD (R131): a listed command byte is no reserved one. -/
def execBootReservedCmd (cmd : BitVec 8) (s : State) : Result :=
  .next (if bootPort s ∧ cmd ≠ 0x02 ∧ cmd ≠ 0x05 ∧ cmd ≠ 0x20 ∧ cmd ≠ 0x9F ∧ cmd ≠ 0xB8 then takeReserved s else s)

/-- BOOT_FRAME_TIMEOUT (R130): the frame is discarded. -/
def execBootFrameTimeout (s : State) : Result :=
  .next (if bootPort s then updSage s fun g => { g with lastOk := false } else s)

/-- BOOT_FRAME_APPLIED (R134). -/
def execBootFrameApplied (s : State) : Result :=
  .next (if s.sage.applying ∧ s.sage.phase = .push then updSage s fun g => { g with rdy := true, applying := false } else s)

/-- PUSH_ABANDON (R135). -/
def execPushAbandon (s : State) : Result :=
  .next (if s.sage.started ∧ s.sage.phase = .push then
      updSage (zeroSlots s) fun g => { g with abandon := true, abandons := satAdd 255 g.abandons 1, err := 0, started := false }
    else s)

/-- The PCIe boot mailbox is the selected interface and its link is up (R128, R136). -/
def bootPcie (s : State) : Bool := s.sage.bootif = 1 && s.sage.phase ≠ .off && rdF s (.pce 0) 0x044 0 2 = 2

/-- A write of BAR0 (R136); one that leaves the BAR is an unsupported request. -/
def bar0Write (s : State) (off : Nat) (data : List Byte) : State :=
  if !bootPcie s ∨ data.isEmpty then s
  else if 2 ^ 23 < off + data.length then { s with pcies := SMap.upd {} s.pcies 0 fun p => { p with last := some .ur } }
  else if pushOver s then frameBad s false true false
  else
    let n := min data.length (0x400000 - off)
    let s := slotStore (slotStore s false off (data.take n)) true (off + n - 0x400000) (data.drop n)
    updSage s fun g => { g with lastOk := true, started := true, err := 1, writes := (g.writes + 1) % 65536 }

/-- A write of CLEAR in BAR2 (R136). -/
def bar2Clear (s : State) (v : Nat) : State :=
  if !bootPcie s then s
  else if pushOver s ∨ 2 ≤ v then frameBad s false true false
  else updSage (zeroSlot s (v = 1)) fun g => { g with lastOk := true, started := true, err := 1 }

/-- A write of RELEASE in BAR2 (R136). -/
def bar2Release (s : State) (v : Nat) : State :=
  if !bootPcie s then s
  else if pushOver s ∨ v ≠ 0xB8 then frameBad s false true false
  else updSage s fun g => { g with phase := .verify, lastOk := true, rdy := false, released := true, err := 2 }

/-- PCIE_BOOT_WRITE (R136). -/
def execPcieBootWrite (off : BitVec 23) (data : List Byte) (s : State) : Result := .next (bar0Write s off.toNat data)

/-- PCIE_BOOT_CLEAR (R136). -/
def execPcieBootClear (v : BitVec 32) (s : State) : Result := .next (bar2Clear s v.toNat)

/-- PCIE_BOOT_RELEASE (R136). -/
def execPcieBootRelease (v : BitVec 32) (s : State) : Result := .next (bar2Release s v.toNat)

/-- TYL_BOOT (R137): a frame of R131 without CRC, as bytes, over a link that is up. -/
def execTylBoot (f : List Byte) (s : State) : Result :=
  .next (if s.sage.bootif ≠ 2 ∨ s.sage.phase = .off ∨ rdF s .tylw 0x044 0 2 ≠ 2 then s
    else match f with
      | [] => frameBad s false true (!s.sage.rdy)
      | c :: r =>
        if c = 0x02 then takeWrite s (ofBE (r.take 1)) (ofBE ((r.drop 1).take 3)) (ofBE ((r.drop 4).take 2)) (r.drop 6) false
        else if c = 0x05 then (if r.isEmpty then takeStatus s fun _ => [] else frameBad s false true false)
        else if c = 0x20 then takeClear s (ofBE (r.take 1)) false (r.length ≠ 1)
        else if c = 0x9F then (if r.isEmpty then takeInfo s fun _ => [] else frameBad s false true (!s.sage.rdy))
        else if c = 0xB8 then takeRelease s (ofBE (r.take 1)) false (r.length ≠ 1)
        else takeReserved s)

/-! ## Image format and verification (R138 to R144) -/

/-- `n` bytes at an offset of a slot. -/
def imgBytes (s : State) (b : Bool) (o n : Nat) : List Byte := (List.range n).map fun i => sramByte s (slotBase b + o + i)

/-- A little-endian field of a slot. -/
def imgF (s : State) (b : Bool) (o n : Nat) : Nat := ofBytes (imgBytes s b o n)

/-- The flags ENC, LC_REC and DBG_GRANT of a slot. -/
def imgFlag (s : State) (b : Bool) (i : Nat) : Bool := bitN (imgF s b 0x006 2) i

/-- A range of two bytes contains a value. -/
def imgRange (s : State) (b : Bool) (o v : Nat) : Bool := decide (imgF s b o 1 ≤ v) && decide (v ≤ imgF s b (o + 1) 1)

/-- Bytes that must be zero. -/
def imgZero (s : State) (b : Bool) (o n : Nat) : Bool := (imgBytes s b o n).all fun x => x = 0

/-- The header meets R138. -/
def imgFormat (s : State) (b : Bool) : Bool :=
  let pay := imgF s b 0x008 4
  let so := imgF s b 0x020 4
  let sl := imgF s b 0x024 4
  let se := imgF s b 0x028 4
  let wo := imgF s b 0x02C 4
  let wl := imgF s b 0x030 4
  let we := imgF s b 0x034 4
  decide (imgF s b 0x004 2 = 1) && decide (imgF s b 0x006 2 < 8)
    && decide (64 ≤ pay) && decide (pay ≤ 0x3FE000) && decide (pay % 64 = 0)
    && decide (imgF s b 0x00C 4 ≤ 127) && decide (imgF s b 0x010 1 ≤ 4)
    && imgRange s b 0x011 0xB0 && imgRange s b 0x013 1 && imgRange s b 0x015 1 && imgRange s b 0x017 1
    && imgZero s b 0x019 7
    && decide (so % 64 = 0) && decide (64 ≤ sl) && decide (sl ≤ 0x100000) && decide (se < sl) && decide (se % 4 = 0)
    && decide (wo % 64 = 0) && decide (64 ≤ wl) && decide (we < wl) && decide (we % 4 = 0)
    && decide (so + sl ≤ pay) && decide (wo + wl ≤ pay) && (decide (so + sl ≤ wo) || decide (wo + wl ≤ so))
    && imgZero s b 0x038 72
    && (imgFlag s b 0 || imgZero s b 0x080 28)
    && imgZero s b 0x09C 4
    && (imgFlag s b 1 || (imgZero s b 0x0A0 2 && imgZero s b 0x0A8 8))
    && imgZero s b 0x0A2 6
    && (if imgFlag s b 2 then decide (imgF s b 0x0B8 1 = 1) else imgZero s b 0x0B0 9)
    && imgZero s b 0x0B9 71

/-- The lifecycle record is accepted (R153). -/
def lcRecordOk (s : State) (b : Bool) : Bool :=
  let st := lcState s.sage.shadow.lc
  let tgt := imgF s b 0x0A1 1
  decide (imgF s b 0x0A0 1 = st) && decide (tgt ∈ lcNext st) && decide (imgF s b 0x0A8 8 = s.sage.shadow.devId)
    && (tgt ≠ 1 || decide (0 < liveKeys s.sage.shadow))

/-- KH of a key slot, or of the test key (R140). -/
def keyHash (s : State) (k : Nat) : Nat := if k = 4 then Config.testKeyHash else SMap.get 0 s.sage.shadow.hash k

/-- The payload in the clear, where it is encrypted and its tag holds (R141). (DESIGN CHOICE, log 20) -/
def imgDecrypt (s : State) (b : Bool) : Option (List Byte) :=
  gcmDecrypt s.sage.shadow.imageKey (imgBytes s b 0x080 12) (imgBytes s b 0x000 0x80) (imgBytes s b 0x2000 (imgF s b 0x008 4))
    (imgBytes s b 0x08C 16)

/-- The reason code of a slot, 0 where it is valid (R142). -/
def imgReason (s : State) (b : Bool) : Nat :=
  let st := lcState s.sage.shadow.lc
  let k := imgF s b 0x010 1
  let ek := imgBytes s b 0x100 96
  let mk := imgBytes s b 0x200 1952
  if imgF s b 0x000 4 ≠ 0x4D444E39 then 0x4
  else if !imgFormat s b then 0x5
  else if k = 4 ∧ st ≠ 0 then 0x6
  else if k < 4 ∧ (st = 0 ∨ !bitN s.sage.shadow.prog k) then 0x6
  else if bitN s.sage.shadow.rev k then 0x6
  else if sha384 (ek ++ mk) ≠ keyHash s k then 0x6
  else
    let m := sha384 (imgBytes s b 0x000 0x100 ++ imgBytes s b 0x2000 (imgF s b 0x008 4))
    if !(ecdsaOk ek (imgBytes s b 0x160 96) m && mldsaOk mk (imgBytes s b 0xA00 3309) (beBytes 48 m)) then 0x7
    else if imgF s b 0x00C 4 < secverMin s.sage.shadow then 0x8
    else if imgFlag s b 0 ∧ (st = 3 ∨ (imgDecrypt s b).isNone) then 0x9
    else if imgFlag s b 1 ∧ !lcRecordOk s b then 0xA
    else 0

/-- Verification of a slot leaves its payload decrypted where the checks came as far as that (R141). (DESIGN CHOICE, log 20) -/
def imgOpen (s : State) (b : Bool) : State :=
  let r := imgReason s b
  if imgFlag s b 0 ∧ (r = 0 ∨ r = 0xA) then
    match imgDecrypt s b with
    | some l => slotStore s b 0x2000 l
    | none => s
  else s

/-- The SLOT_A or SLOT_B register of a verified slot (R162). -/
def slotReg (s : State) (b : Bool) (r : Nat) : Nat :=
  r + (if r = 4 ∨ r = 5 then 0 else imgF s b 0x00C 4 % 128 * 2 ^ 8 + imgF s b 0x010 1 % 8 * 2 ^ 16)
    + (if r = 4 then 0 else imgF s b 0x004 2 % 16 * 2 ^ 20)

/-- The slot chosen from the reason codes (R145): false is slot A. -/
def chooseSlot (s : State) (ra rb : Nat) : Option Bool :=
  if ra = 0 ∧ rb = 0 then some (decide (imgF s false 0x00C 4 < imgF s true 0x00C 4))
  else if ra = 0 then some false
  else if rb = 0 then some true
  else none

/-! ## Handover (R154, R159) -/

/-- The LC bit of a target state burnt in both copies and read again, then the secure part wiped (R154). -/
def lcBurn (s : State) (tgt : Nat) : State :=
  let f := fun (x : Fuses) => { x with lc := x.lc ||| 2 ^ (tgt - 1) }
  wipeSecure (updSage s fun g => { g with fuses := f g.fuses, fuses2 := f g.fuses2, shadow := f g.shadow, lcDone := true })

/-- The LCYC registers (R162): the reason codes, the chosen slot, the tie, and µs from RELEASE to handover. -/
def fillLcyc (s : State) (b : Bool) (regA regB : Nat) (tie : Bool) (us : Nat) : State :=
  let f := s.sage.shadow
  let st := lcState f.lc
  let grant := st = 2 && imgFlag s b 2 && imgF s b 0x0B0 8 = f.devId
  let dbg := if grant then 1 else lcDbg st
  let v := st + dbg * 2 ^ 4 + s.sage.bootif * 2 ^ 6 + b.toNat * 2 ^ 8 + tie.toNat * 2 ^ 9 + (imgFlag s b 0).toNat * 2 ^ 10
    + grant.toNat * 2 ^ 11 + s.sage.lcDone.toNat * 2 ^ 12
  let w := fun (o v : Nat) (s : State) => wr s .lcyc o (BitVec.ofNat 32 v)
  let s := w 0x048 regB (w 0x044 regA (w 0x040 v s))
  let s := w 0x04C (f.prog % 16 + f.rev % 32 * 2 ^ 4 + secverMin f * 2 ^ 16) s
  let s := w 0x054 (f.devId / 2 ^ 32) (w 0x050 f.devId s)
  let s := w 0x058 (imgF s b 0x015 4) s
  w 0x05C (min 0xFFFF us + s.sage.retries * 2 ^ 16 + s.sage.abandons * 2 ^ 24) s

/-- A core is released at level F (R159 step 7, R166, R527), and the CK_A of its cluster runs from then on (R85); ways out of use stay so
(R249). (DESIGN CHOICE, log 74) -/
def startCore (s : State) (n : Fin 24) (entry : Nat) : State :=
  let w := n.val / 8
  updCore { s with pwr := { s.pwr with ckA := if s.pwr.ckA.contains w then s.pwr.ckA else w :: s.pwr.ckA } } n fun c => { freshCore c with run := .running, pc := BitVec.ofNat 64 entry }

/-- Handover of a chosen slot after any lifecycle transition (R159): engine clusters leave reset, core 0 and the SCU start. -/
def handover (s : State) (b : Bool) (regA regB : Nat) (tie : Bool) (us : Nat) : State :=
  let s := zeroSlot s (!b)
  let so := 0x2000 + imgF s b 0x020 4
  let sl := imgF s b 0x024 4
  let entry := slotBase b + 0x2000 + imgF s b 0x02C 4 + imgF s b 0x034 4
  let s := setSramBytes s 0x1E00000 sl (2 ^ (8 * sl) - 1) (sramBytes s (slotBase b + so) sl)
  let s := zeroBytes s (slotBase b + so) sl
  let s := fillLcyc s b regA regB tie us
  let s := startCore s 0 entry
  let s := (s.engines.map Prod.fst).foldl (fun s e => resetEngine s (Fin.ofNat 512 e)) s
  updSage s fun g => { g with phase := .done, err := 3, wiping := false, scuEntry := some (0x1E00000 + imgF s b 0x028 4) }

/-- IMAGE_CHOICE (R142, R145 to R147, R153, R154, R159): the end of both verifications; `us` is the time from RELEASE to handover,
`cut` says that VIN is lost while a lifecycle bit is burnt. -/
def execImageChoice (us : Nat) (cut : Bool) (s : State) : Result :=
  .next (if s.sage.phase ≠ .verify then s
    else
      let ra := imgReason s false
      let rb := imgReason s true
      let regA := slotReg s false ra
      let regB := slotReg s true rb
      let pick := chooseSlot s ra rb
      let tie := ra = 0 && rb = 0 && imgF s false 0x00C 4 = imgF s true 0x00C 4
      let s := imgOpen (imgOpen s false) true
      match pick with
      | none =>
        if s.sage.retry then updSage s fun g => { g with phase := .show, err := max ra rb } else sageHalt s (max ra rb)
      | some b =>
        if imgFlag s b 1 then
          let tgt := imgF s b 0x0A1 1
          if cut then updSage s fun g => { g with fuses := { g.fuses with lc := g.fuses.lc ||| 2 ^ (tgt - 1) } }
          else handover (lcBurn s tgt) b regA regB tie us
        else handover s b regA regB tie us)

/-- BOOT_RETRY_RESUME (R147). -/
def execBootRetryResume (s : State) : Result :=
  .next (if s.sage.phase = .show then
      updSage (wipeSecure (zeroSlots s)) fun g =>
        { g with phase := .push, err := 0, rdy := true, started := false, applying := false, retries := satAdd 255 g.retries 1 }
    else s)

/-! ## Tamper (R155, R156, R161) -/

/-- A tamper event (R156): the wipe, the flag and the count; a halt while Sage runs, a fatal error after handover. -/
def tamper (s : State) (i : Nat) : State :=
  let s := wipeSecure s
  let s := bumpF (wrB s .lcyc 0x060 i true) .lcyc 0x060 8 8 1
  match s.sage.phase with
  | .done => recUnstated (setIrq s .lcyc 1) .lcyc fatal
  | .push | .verify | .show => sageHalt s 0xB
  | _ => s

/-- TAMPER_EVENT (R156): 0 the glitch detector on VDD_SOC, 1 that on CK_F, 2 a fuse mismatch found after handover. (DESIGN CHOICE, log 21) -/
def execTamperEvent (i : Fin 3) (s : State) : Result :=
  .next (if s.sage.phase = .off ∨ (i = 2 ∧ s.sage.phase ≠ .done) then s else tamper s i)

/-- FUSE_REREAD (R150): SCU firmware reads the array again; `bad` says that some bit reads with unlike fuses. (DESIGN CHOICE, log 21) -/
def execFuseReread (bad : Bool) (s : State) : Result :=
  .next (if s.sage.phase = .done ∧ clocksOn s ∧ (bad ∨ s.sage.fuses ≠ s.sage.fuses2) then tamper s 2 else s)

/-- SECURE_WIPE_DONE (R155). -/
def execSecureWipeDone (s : State) : Result := .next (updSage s fun g => { g with wiping := false })

/-- SCU_LOCKSTEP_MISMATCH (R161, R569): before handover Sage halts with 0xF; after it the error is fatal with no hold. -/
def execScuLockstepMismatch (s : State) : Result :=
  .next (match s.sage.phase with
    | .push | .verify | .show => sageHalt s 0xF
    | .done => recUnstated s .lcyc fatal true
    | _ => s)

end Sys2Proof.Machine
end

