-- ==== Sys2Proof/Machine/Domain.lean ====
section
/-!
DEFINITION. Machine/Domain.lean: domains, slices and binding, shares, and the reset sequence (spec 17).
-/

namespace Sys2Proof.Machine

/-! ## Slices (R529 to R531) -/

/-- Every bindable page (R114). -/
def bindablePages : List Page :=
  (List.finRange 64).map Page.scs ++ (List.finRange 24).map Page.icp ++ (List.finRange 24).map Page.wcc
    ++ (List.finRange 512).map Page.nce ++ (List.finRange 256).map Page.ncm ++ (List.finRange 256).map Page.pc
    ++ (List.finRange 4).map Page.pce ++ (List.finRange 8).map Page.eth

/-- The pages of the slices bound to a DID. -/
def slicesOf (s : State) (d : Nat) : List Page := bindablePages.filter fun p => owner s p = d

/-- STATE of a domain (R527, R545). -/
def domState (s : State) (d : Nat) : Nat := rdF s (domPage d) 0x044 0 2

/-- STEP as it is kept: 1 for GATE and DRAIN. -/
def domStep (s : State) (d : Nat) : Nat := rdF s (domPage d) 0x044 2 3

/-- The field of the owner's DOM_CLASS that a slice takes at its binding and at every reset of its owner, RT without an owner
(R531). -/
def takeClass (s : State) (p : Page) : State :=
  let d := owner s p
  let lo := match p with
    | .wcc _ => some 0 | .nce _ => some 2 | .ncm _ => some 4 | .pce _ | .eth _ => some 6
    | _ => none
  match lo with
  | some i => { s with clsGrant := SMap.set 0 s.clsGrant (pageAddr p) (if d = 0 then 0 else rdF s (domPage d) 0x050 i 2) }
  | none => s

/-- Requests of a slice belong to an earlier generation now: the credits that they hold, or come to hold, are in OLD_HELD (R535). -/
def ageRequests (s : State) (p : Page) : State :=
  let f := fun (t : Txn) => if slicePage t.req.master = some p then { t with old := true } else t
  { s with fab := { s.fab with txns := s.fab.txns.map f } }

/-- Requests that stand in a core's queue go with it. -/
def dropQueued (s : State) (m : Master) : State :=
  let f := fun (t : Txn) => !(decide (t.req.master = m) && (decide (t.status = TxStatus.posted) || decide (t.status = TxStatus.waitCredit)))
  { s with fab := { s.fab with txns := s.fab.txns.filter f } }

/-- A core is held in reset; its uncommitted stores are lost, its L1 lines stay (R528, R537, R538). (DESIGN CHOICE, log 34) -/
def holdCore (s : State) (n : Fin 24) : State :=
  updCore (dropQueued s (.core n)) n fun c => { run := .held, l1i := c.l1i, l1d := c.l1d }

/-- The registers of a page that the treatment of R538 keeps; of an interrupt page the private priorities, whose pending bits and
enables `icForgetCore` clears (DEDUCED, log 70). -/
def treatKeeps (p : Page) (off : Nat) : Bool :=
  off = 0x030 || off = 0x034 || (match p with
    | .icp _ => decide (0x060 ≤ off) && decide (off < 0x090)
    | .pc _ => decide (0x040 ≤ off) && decide (off < 0x068)
    | .pce _ => off = 0x040 || off = 0x044 || off = 0x048 || (decide (0x080 ≤ off) && decide (off < 0x0C0))
    | .eth _ => off = 0x040 || off = 0x044 || off = 0x048 || (decide (0x080 ≤ off) && decide (off < 0x0A4))
    | _ => false)

/-- Every ring of a MAC stops, with its tail set to its head (R538); one that a bus error had stopped stays so, and received frames
that wait are lost. (DESIGN CHOICE, log 35) -/
def ethRingsStop (s : State) (m : Fin 8) : State :=
  let s := (List.range 8).foldl (fun s q =>
    let o := 0x080 + 4 * q
    wrF (wrF s (.eth m) o 0 8 (rdF s (.eth m) o 8 8)) (.eth m) o 16 8 (rdF s (.eth m) o 24 8)) s
  { s with macs := SMap.upd {} s.macs m fun x => { x with wait := [] } }

/-- The treatment of a slice and its page (R521, R538). (DESIGN CHOICE, log 35) -/
def treatSlice (s : State) (p : Page) : State :=
  let s := flushCrossings (icForgetPage (withLine p (fun t => resetPage t p (treatKeeps p)) (ageRequests s p)) p) p
  let s := match p with
    | .wcc n => holdCore s n
    | .nce e => resetEngine s e
    | .ncm m => updMov (movStale s m) m fun r => { r with md := [] }
    | .pc n => safeNow s n 1
    | .eth m => ethRingsStop (wrF s p 0x044 16 16 0) m
    | .icp n => icForgetCore s n
    | .scs d => { s with doms := SMap.upd {} s.doms d fun r => { r with svc := none } }
    | _ => s
  takeClass s p

/-- The completion of a member's request comes back; a stale one is an error. -/
def memberDone (s : State) (t : Txn) (fresh : Bool) : State :=
  let f := fun (x : TylMem) =>
    if x.ids.contains t.id then
      { x with ids := x.ids.erase t.id, worst := max x.worst (if t.err ∨ !fresh then 2 else if t.poison then 1 else 0),
               data := if t.err ∨ !fresh ∨ x.isW then x.data else x.data + t.rdata * 2 ^ (8 * (t.req.addr - x.addr)) }
    else x
  { s with tyl := { s.tyl with mems := s.tyl.mems.map f } }

/-- GEN of a page after its increment: 8 bits that wrap (R539). -/
def nextGen (s : State) (p : Page) : Nat := (genOf s p + 1) % 256

/-- The GEN of a slice increments and its treatment follows. -/
def renewSlice (s : State) (p : Page) : State := treatSlice (wrF s p 0x034 0 8 (nextGen s p)) p

/-- A slice is idle (R530). -/
def sliceIdle (s : State) (p : Page) : Bool :=
  match p with
  | .wcc _ => domState s (owner s p) = 1
  | .nce e => allHalted s e
  | .ncm m => (mov s m).state ≠ 1
  | .pc n => !cellEn s n || (cell s n).safe
  | .pce _ | .eth _ => !rdB s p 0x040 0
  | _ => true

/-- A write of OWNER is accepted (R529). -/
def bindOk (s : State) (p : Page) (e : Nat) : Bool :=
  let d := owner s p
  if d = e then true
  else if d = 0 then decide (domState s e = 1) || decide (domState s e = 2)
  else if e = 0 then decide (domState s d ≠ 3) && sliceIdle s p
  else false

/-- An accepted write of OWNER (R531): the same owner changes nothing. What is pending of the page's sources goes for the old owner, whose
VSUM follows (R519, R521). -/
def bindSlice (s : State) (p : Page) (e : Nat) : State :=
  if owner s p = e then s else renewSlice (wrF (icForgetPage s p) p 0x030 0 6 e) p

/-! ## The remote members' memory access (R498, R501) -/

/-- The GEN of a member's memory access increments. -/
def renewMember (s : State) (k : Fin 16) : State :=
  let g := (rdF s .tylw (0x100 + 4 * k.val) 16 8 + 1) % 256
  let s := wrF s .tylw (0x100 + 4 * k.val) 16 8 g
  let f := fun (t : Txn) => if t.req.master = .tyl k then { t with old := true } else t
  { s with fab := { s.fab with txns := s.fab.txns.map f } }

/-- The members whose memory access counts as a slice of a domain. -/
def membersOf (s : State) (d : Nat) : List (Fin 16) :=
  (List.finRange 16).filter fun k => k ≠ 0 && rdF s .tylw (0x100 + 4 * k.val) 0 6 = d

/-! ## Domain operations (R527, R537, R540) -/

/-- STATE and STEP of a domain set. -/
def setDom (s : State) (d st step : Nat) : State := wrF (wrF s (domPage d) 0x044 0 2 st) (domPage d) 0x044 2 3 step

/-- FAB_GATE of a DID set. -/
def setGate (s : State) (d : Nat) (x : Bool) : State := wrB s .fabr (0x044 + 4 * (d / 32)) (d % 32) x

/-- The record of a domain changed. -/
def updDom (s : State) (d : Nat) (f : DomRec → DomRec) : State := { s with doms := SMap.upd {} s.doms d f }

/-- A domain reset begins (R537, GATE): the gate closes, bound cores are held, and every thread of its engines is halted at its next
boundary. -/
def startReset (s : State) (d : Nat) : State :=
  let s := updDom (setGate (setDom s d 3 1) d true) d fun r => { r with rstStart := s.dt }
  (slicesOf s d).foldl (fun s p => match p with
    | .wcc n => holdCore s n
    | .nce e => [0, 1, 2, 3].foldl (fun s (t : Fin 4) => thrCtrl s e t 2 s.dt) s
    | _ => s) s

/-- SCU firmware asks for the reset of a domain that is STOPPED or RUNNING (R568); one that a RESET in the same CK_P cycle has begun to
reset rejects it with code 0x80 (R541), with ERR_ADDR the offset of DOM_CTRL. (DEDUCED, log 25) -/
def faultReset (s : State) (d : Nat) : State :=
  if d = 0 then s
  else if domState s d = 1 ∨ domState s d = 2 then startReset s d
  else if domState s d = 3 ∧ dtPOf s (SMap.get {} s.doms d).rstStart = dtP s then recInternal s (domPage d) 0x80 0x040
  else s

/-- START: the bound cores are released at level F at DOM_ENTRY. -/
def startDomain (s : State) (d : Nat) : State :=
  let entry := (rd s (domPage d) 0x048).toNat / 4 * 4 + rdF s (domPage d) 0x04C 0 16 * 2 ^ 32
  (slicesOf s d).foldl (fun s p => match p with
    | .wcc n => startCore s n entry
    | _ => s) (setDom s d 2 0)

/-- DESTROY (R540). (DEDUCED, log 25) -/
def destroyDomain (s : State) (d : Nat) : State :=
  let s := (slicesOf s d).foldl (fun s p => bindSlice s p 0) s
  let s := (List.range 8).foldl (fun s i => wrB s (domPage d) (0x080 + 8 * i) 0 false) s
  let s := (List.range 48).foldl (fun s g =>
    let p := (rgPage (16 * g)).1
    if rdF s p (0x084 + 8 * (g % 3)) 0 6 = d then wrB s p (0x080 + 8 * (g % 3)) 0 false else s) s
  let s := wrB s .scac (0x100 + d / 4 * 4) (d % 4 * 8 + 4) false
  returnOwed (setDom (updDom s d fun r => { r with owedC := true, owedT := true }) d 0 0) d

/-- The transition of R527 that an OP makes is allowed. -/
def domOpOk (s : State) (d op : Nat) : Bool :=
  let st := domState s d
  d ≠ 0 && ((op = 1 && st = 0) || (op = 2 && (st = 1 || st = 2)) || (op = 3 && st = 1) || (op = 4 && st = 1))

/-- A write of DOM_CTRL that is rejected, a reserved OP among them: 0x80 STATE (R527, R545). -/
def domCtrlReject (s : State) (d : Nat) (v : Reg32) : Option Nat :=
  let op := fld v 0 3
  if op = 0 ∨ domOpOk s d op then none else some 0x80

/-- A write of DOM_CTRL that is applied. -/
def domCtrl (s : State) (d : Nat) (v : Reg32) : State :=
  match fld v 0 3 with
  | 1 => setDom s d 1 0
  | 2 => startReset s d
  | 3 => startDomain s d
  | 4 => destroyDomain s d
  | _ => s

/-- An enabled grant is aligned to its size and ends by 0x00FF_FFFF_FFFF (R534). -/
def grantOk (lo hi : Reg32) : Bool :=
  let base := fld lo 12 20 * 2 ^ 12 + fld hi 0 16 * 2 ^ 32
  let size := 2 ^ (fld lo 4 5 + 12)
  !bit lo 0 || (decide (base % size = 0) && decide (base + size ≤ 2 ^ 40))

/-- A write of a DOM register that is rejected (R527, R534, R536, R545). -/
def domReject (s : State) (d : Nat) (off : Nat) (v : Reg32) : Option Nat :=
  if off = 0x040 then domCtrlReject s d v
  else if off = 0x054 then
    let g := fld v 0 12
    if d = 0 ∨ 2048 < g then some 0x01
    else if credGrant s d + poolCred s < g then some 0x82
    else if g < credHeld s d + credOld s d then some 0x83
    else none
  else if off = 0x05C then
    let g := fld v 0 11
    if d = 0 ∨ 1024 < g then some 0x01
    else if rdF s (domPage d) 0x05C 0 11 + poolTok s < g then some 0x82
    else if g < tokHeld s d then some 0x83
    else none
  else if 0x080 ≤ off ∧ off < 0x0C0 then
    let lo := if off % 8 = 0 then v else rd s (domPage d) (off - 4)
    let hi := if off % 8 = 0 then rd s (domPage d) (off + 4) else v
    if (off % 8 = 0 ∧ 26 ≤ fld v 4 5) ∨ !grantOk lo hi then some 0x01 else none
  else none

/-- A write of a DOM register that does more than store; a new grant is the domain's own. -/
def domWrite (s : State) (d : Nat) (off : Nat) (v : Reg32) : Option State :=
  if off = 0x040 then some (domCtrl s d v)
  else if off = 0x054 then some (updDom (wrF s (domPage d) 0x054 0 12 (fld v 0 12)) d fun r => { r with owedC := false })
  else if off = 0x05C then some (updDom (wrF s (domPage d) 0x05C 0 11 (fld v 0 11)) d fun r => { r with owedT := false })
  else none

/-- What a read of a DOM register returns where it is computed (R535, R545): DRAIN shows once every engine thread is halted, INCREMENT while
it waits (R539). -/
def domRead (s : State) (d : Nat) (off : Nat) : Option Nat :=
  if off = 0x044 then
    let v := (rd s (domPage d) 0x044).toNat
    let halted := (slicesOf s d).all fun p => match p with
      | .nce e => allHalted s e
      | _ => true
    some (if domStep s d = 1 ∧ halted then v + (if bit (rd s (domPage d) 0x044) 5 then 8 else 4) else v)
  else if off = 0x058 then some (if d = 0 then 0 else credHeld s d + credOld s d * 2 ^ 16)
  else if off = 0x060 then some (if d = 0 then 0 else tokHeld s d + tokMig s d * 2 ^ 16)
  else none

/-! ## The reset sequence (R537 to R539) -/

/-- Requests of a DID that are past ingress and not accepted at their target. -/
def inTransit (s : State) (d : Nat) : List Txn := s.fab.txns.filter fun t => decide (t.attr.did = d) && decide (t.status = TxStatus.transit)

/-- The last gate action has completed and nothing is in transit. -/
def drained (s : State) (d : Nat) : Bool :=
  domState s d = 3 && domStep s d = 1 && (inTransit s d).isEmpty && (slicesOf s d).all fun p => match p with
    | .nce e => allHalted s e
    | _ => true

/-- The generation that a master's slice of domain `d` takes at the next INCREMENT is the one of these attributes. -/
def nextIs (s : State) (d : Nat) (m : Master) (a : Attr) : Bool :=
  match m with
  | .tyl k => decide (k ∈ membersOf s d) && decide (a.gen = (rdF s .tylw (0x100 + 4 * k.val) 16 8 + 1) % 256)
  | m => match slicePage m with
    | some p => decide (owner s p = d) && decide (a.gen = nextGen s p)
    | none => false

/-- INCREMENT would give a slice a generation whose credits are still in OLD_HELD (R539). -/
def lapWait (s : State) (d : Nat) : Bool :=
  (s.fab.txns.any fun t => t.old && holdsCredit t && nextIs s d t.req.master t.attr)
    || (regsInside s).any fun q => regOld s q && nextIs s d q.m q.attr

/-- Every credit in HELD of a domain moves to OLD_HELD (R537). -/
def ageCredits (s : State) (d : Nat) : State :=
  let f := fun (t : Txn) => if t.attr.did = d ∧ holdsCredit t then { t with old := true } else t
  let g := fun (q : RegReq) => if q.attr.did = d ∧ q.inside then { q with old := true } else q
  let h := fun (q : RegReq) => if q.attr.did = d then { q with old := true } else q
  { s with fab := { s.fab with txns := s.fab.txns.map f, stalled := s.fab.stalled.map g }
           tyl := { s.tyl with regs := s.tyl.regs.map fun x => { x with req := h x.req } } }

/-- DRAIN_TIMEOUT (R537): at 62 µs what is still in transit is discarded and counted. -/
def execDrainTimeout (d : Fin 64) (s : State) : Result :=
  .next (let n := (inTransit s d).length
    if d = 0 ∨ domState s d ≠ 3 ∨ domStep s d ≠ 1 ∨ n = 0 then s
    else
      let f := fun (t : Txn) => !(decide (t.attr.did = d.val) && decide (t.status = TxStatus.transit))
      let lost := (inTransit s d).filter fun t => match t.purp with
        | .member _ => true
        | _ => false
      let movers := (inTransit s d).filterMap fun t => match t.purp with
        | .mover m _ _ => some (Fin.ofNat 256 m)
        | _ => none
      let s := movers.foldl (fun s m => updMov s m fun r => { r with lost := true }) s
      let s := lost.foldl (fun s t => memberDone s t false) (askedMoves { s with fab := { s.fab with txns := s.fab.txns.filter f } })
      recordErr (bumpF s (.dom d) 0x064 0 16 n) (.dom d) 0x84 contained (pageAttr s (.dom d)) n d)

/-- µs of device time, rounded up. -/
def usUp (t : Nat) : Nat := (t * 9 + 15999) / 16000

/-- RESET_END (R537): TLB and predictor entries of the DID go from every core, the gate opens, STATE is STOPPED. -/
def execResetEnd (d : Fin 64) (s : State) : Result :=
  .next (if d = 0 ∨ domState s d ≠ 3 ∨ domStep s d ≠ 4 then s
    else
      let s := (List.finRange 24).foldl (fun s n => updCore s n fun c =>
        { c with itlb := c.itlb.filter fun x => decide (x.did ≠ d.val), dtlb := c.dtlb.filter fun x => decide (x.did ≠ d.val),
                 tlb := c.tlb.filter fun x => decide (x.did ≠ d.val), walks := c.walks.filter fun x => decide (x.did ≠ d.val),
                 preds := c.preds.filter fun x => decide (x.did ≠ d.val), rets := c.rets.filter fun x => decide (x.did ≠ d.val),
                 train := c.train.filter fun x => decide (x.attr.did ≠ d.val) }) s
      let us := min 0xFFFF (usUp (s.dt - (SMap.get {} s.doms d).rstStart))
      let s := wrF (bumpF (setDom (setGate s d false) d 1 0) (.dom d) 0x044 8 8 1) (.dom d) 0x044 16 16 us
      setIrq s (.dom d) 1)

/-! ## The service pages (R542, R547) -/

/-- A write of an SCS register that is rejected. -/
def scsReject (s : State) (p : Page) (off : Nat) : Option Nat :=
  if rdB s p 0x044 0 ∧ (off = 0x040 ∨ (0x060 ≤ off ∧ off < 0x080)) then some 0x80 else none

/-- A write of SCS_CMD starts a command; RSP0 to RSP3 take words written for FUSE_KEY while none runs (R543). -/
def scsWrite (s : State) (d : Fin 64) (off : Nat) (v : Reg32) (q : RegReq) : Option State :=
  if off = 0x040 then
    let run : ScsRun := { func := fld v 0 8, seq := fld v 8 8, attr := q.attr, lvl := q.lvl, scu := decide (q.m = .scu) }
    some (updDom (wrB s (.scs d) 0x044 0 true) d fun r => { r with svc := some run })
  else if 0x080 ≤ off ∧ off < 0x090 then some (if rdB s (.scs d) 0x044 0 then s else wr s (.scs d) off v)
  else none

end Sys2Proof.Machine
end

