-- ==== Sys2Proof/Machine/Mari.lean ====
section
/-!
DEFINITION. Machine/Mari.lean: Marionette and the power states, wake events, and the wake listener (spec 18).
-/

namespace Sys2Proof.Machine

/-! ## Requests (R551, R552) -/

/-- Marionette's record changed. -/
def updMari (s : State) (f : Mari → Mari) : State := { s with mari := f s.mari }

/-- PHASE of MARI_STAT. -/
def mariPhase (s : State) : Nat := rdF s .mari 0x044 1 3

/-- PHASE set. -/
def setPhase (s : State) (p : Nat) : State := wrF s .mari 0x044 1 3 p

/-- STATE of the last request. -/
def mariLast (s : State) : Nat := rdF s .mari 0x044 14 3

/-- The strings asked for a state, in ascending order (R552). -/
def mariStrings (st wmask : Nat) : List Nat :=
  if st = 1 then [48, 49, 50].filter fun k => bitN wmask (k - 48) else List.range 53

/-- A write of MARI_REQ that is rejected (R551). -/
def mariReject (s : State) (priv : Bool) (v : Reg32) : Option Nat :=
  let st := fld v 0 3
  let en := rdB s .wake 0x040 7
  if !priv then some 0x03
  else if 5 ≤ st then some 0x01
  else if rdB s .mari 0x044 0 then some 0x80
  else if st = 0 then none
  else if st = 1 ∧ fld v 4 3 = 0 then some 0x01
  else if st = 2 ∧ rd s .mari 0x048 = 0 ∧ !en then some 0x85
  else if 3 ≤ st ∧ !en then some 0x85
  else none

/-- A request ends with its result (R551). -/
def mariFinish (s : State) : State :=
  let m := s.mari
  let v := setFld (setFld (setFld (setFld (rd s .mari 0x044) 0 1 0) 1 3 0) 4 4 m.result) 8 6 m.block
  setIrq { wr s .mari 0x044 v with mari := { failed := m.failed } } .mari 1

/-- WSRC takes the source of a wake. (DESIGN CHOICE, log 46) -/
def setWsrc (s : State) (src : Nat) : State := wrF s .mari 0x060 0 5 src

/-! ## The handshake (R553 to R555) -/

/-- The string of a block that a BIST run tests (R576). -/
def bistString (b : BistRun) : Nat :=
  if b.typ = 1 then 48 + b.index / 8 else if b.typ = 2 then 48 + b.index else if b.typ = 3 then 16 + b.index
  else if b.typ = 6 then 52 else 51

/-- A BIST run tests a block of the string. -/
def bistAt (s : State) (k : Nat) : Bool :=
  match s.bist with
  | some b => bistString b = k
  | none => false

/-- The cells of a bank. -/
def bankCells (b : Nat) : List (Fin 256) := (List.range 16).map fun i => Fin.ofNat 256 (16 * b + i)

/-- The engines of an engine cluster. -/
def clusterEngines (k : Nat) : List (Fin 512) := (List.range 16).map fun i => Fin.ofNat 512 (16 * k + i)

/-- A mover of an engine cluster is BUSY. -/
def moverBusy (s : State) (k : Nat) : Bool := (List.range 8).any fun i => (mov s (Fin.ofNat 256 (8 * k + i))).state = 1

/-- The cores of a Winovar cluster. -/
def clusterCores (w : Nat) : List (Fin 24) := (List.range 8).map fun i => Fin.ofNat 24 (8 * w + i)

/-- A core issues instructions. -/
def coreIssues (s : State) (n : Fin 24) : Bool := (core s n).run = .running

/-- A core has stores or cache operations that are not done. -/
def coreDrains (s : State) (n : Fin 24) : Bool := !(core s n).sb.isEmpty || !(core s n).cops.isEmpty

/-- A DID is gated, or a PCIe controller, an Ethernet MAC or the Tylwen link is enabled. -/
def fabricHeld (s : State) : Bool :=
  rd s .fabr 0x044 ≠ 0 || rd s .fabr 0x048 ≠ 0 || (List.finRange 4).any (fun c => rdB s (.pce c) 0x040 0)
    || (List.finRange 8).any (fun m => rdB s (.eth m) 0x040 0) || rdB s .tylw 0x040 0

/-- A block's condition for REFUSE (R553, R576). -/
def mariRefuses (s : State) (k : Nat) : Bool :=
  bistAt s k ||
  (if k < 16 then rdF s (.pb (Fin.ofNat 16 k)) 0x044 0 2 = 1
   else if k < 48 then (clusterEngines (k - 16)).any fun e => !allHalted s e
   else if k < 51 then (clusterCores (k - 48)).any (coreIssues s)
   else if k = 51 then fabricHeld s
   else s.dram.mig.isSome)

/-- A block's condition for DELAY (R300, R553): a block that refuses does not delay. -/
def mariDelays (s : State) (k : Nat) : Bool :=
  if mariRefuses s k then false
  else if k < 16 then (bankCells k).any (shBusy s)
  else if k < 48 then moverBusy s (k - 16)
  else if k < 51 then true
  else if k = 51 then s.sc.lines.any fun e => e.2.dirty
  else !s.dram.reqs.isEmpty

/-- The L1s of a cluster invalidated (R553). -/
def emptyL1 (s : State) (w : Nat) : State := (clusterCores w).foldl (fun s n => updCore s n fun c => { c with l1i := emptiedL1 c.l1i, l1d := emptiedL1 c.l1d }) s

/-- The L2 of a cluster cleaned to its points of coherence and emptied with its L1s; `.error` is the state in which a write-back waits. -/
def emptyL2 (s : State) (w : Nat) (env : MemEnv) : Except State State :=
  let n : Fin 24 := Fin.ofNat 24 (8 * w)
  let lines := SMap.get [] s.l2s w
  let clean := fun (s : State) (e : Nat × L2Line) =>
    if e.2.dirty then (writeBack s n e.1 e.2 (envAt env e.1)).map fun s => setL2 s w e.1 { e.2 with dirty := false } else .ok s
  let r := lines.foldl (fun (r : Except State State) e => r.bind fun s => clean s e) (.ok s)
  r.map fun s => emptyL1 (lines.foldl (fun s e => dropL2 s w e.1) s) w

/-- Every dirty line of the system cache written back (R553). -/
def cleanSc (s : State) (pars : List Nat) : State :=
  (slotsWhere s fun _ _ => true).foldl (scCleanSlot pars) s

/-- Channels in service go into self-refresh or come back from it (R300, R316). -/
def selfRefresh (s : State) (x : Bool) : State :=
  (List.finRange 18).foldl (fun s c =>
    let st := rdF s (.dch c) 0x040 0 2
    if x ∧ st = 1 then wrF s (.dch c) 0x040 0 2 2 else if !x ∧ st = 2 then channelUp s c else s) s

/-- The block of a string grants and performs its stop action, if its condition holds (R553); else, or while the action has to wait, the state is
`.error`. -/
def mariGrant (s : State) (k : Nat) (env : MemEnv) (pars : List Nat) : Except State State :=
  if mariRefuses s k then .error s
  else if k < 16 then (if (bankCells k).any (fun n => shBusy (cellAt s n s.dt) n) then .error s else .ok (bankSafe s (Fin.ofNat 16 k) 4))
  else if k < 48 then (if moverBusy s (k - 16) then .error s else .ok s)
  else if k < 51 then (if (clusterCores (k - 48)).any (coreDrains s) then .error s else emptyL2 s (k - 48) env)
  else if k = 51 then .ok (cleanSc s pars)
  else if s.dram.reqs.isEmpty then .ok (selfRefresh s true)
  else .error s

/-- The rollback of stopped blocks begins (R555, R560). -/
def mariRollback (s : State) (result block : Nat) : State :=
  let s := updMari (setPhase s 3) fun m => { m with ask := none, delayed := false, resume := m.stopped, result := result, block := block }
  if s.mari.resume = [] then mariFinish s else s

/-! ## Entry and exit (R556 to R559) -/

/-- A rail request of Marionette. -/
def mariRail (s : State) (typ rail value : Nat) : State :=
  vrSend (updMari s fun m => { m with rails := m.rails ++ [rail] }) { typ := typ, rail := rail, value := value, why := .mari }

/-- Rail requests made one after another. -/
def mariRails (s : State) (l : List (Nat × Nat × Nat)) : State := l.foldl (fun s q => mariRail s q.1 q.2.1 q.2.2) s

/-- The clusters in NAP. -/
def napped (s : State) : List Nat := [0, 1, 2].filter fun w => rdB s .mari 0x044 (20 + w)

/-- The exit from NAP or STANDBY begins: rails rise (R556). -/
def mariExit (s : State) (src : Nat) : State :=
  let s := updMari (setPhase (setWsrc s src) 4) fun m => { m with latch := none }
  if s.mari.asleep = 1 then mariRails s ((napped s).map fun w => (1, 2 + w, pointLevel (wantPoint s w)))
  else mariRails s [(1, 0, 160), (2, 1, 160), (2, 7, 170), (2, 2, 140), (2, 3, 140), (2, 4, 140)]

/-- The end of entry: an event latched since the last GRANT starts the exit at once (R560). -/
def entryEnd (s : State) : State :=
  match s.mari.latch with
  | some src => mariExit s src
  | none => s

/-- The rails that PARK and OFF switch off, in their order: the DRAM group, those of R65 from the last, the banks (R556). -/
def parkRails : List Nat := [5, 4, 3, 2, 6, 7, 1, 0] ++ (List.range 16).map (16 + ·)

/-- The die is off in PARK or OFF, once every rail but VAON and V33_AON has been asked to go off; a rail that was not lowered keeps its
level (R548, R556, R557). OFF zeroes the park memory (R559). -/
def parkEntry (s : State) (st : Nat) : State :=
  let r := moduleReset s 0 0 true
  let r := wr (wr r .ckrs 0x050 (rd s .ckrs 0x050)) .flts 0x040 (rd s .flts 0x040)
  let r := { r with jtag := {}, pwr := { r.pwr with rail := .off, acked := s.pwr.acked, level := s.pwr.level }, mari := { asleep := st } }
  if st = 4 then { r with regs := SMap.drop r.regs fun a => decide (pageAddr .wake + 0x400 ≤ a) && decide (a < pageAddr .wake + 0x800) } else r

/-- A WAKE command in PARK or OFF: a module reset of cause 0x9, with the state in WAKE_STAT.FROM (R556, R559). -/
def parkExit (s : State) : State := wrF (moduleReset s 9 0 false) .wake 0x044 0 3 s.mari.asleep

/-- The end of the entry to PARK or OFF: an event latched since the last GRANT starts the exit at once (R560). -/
def parkEnd (s : State) : State :=
  let r := parkEntry s (mariLast s)
  if s.mari.latch.isSome then parkExit r else r

/-- Every asked block has granted: clocks and rails change for the target state (R556). The clocks of a device that goes to PARK or OFF run until
its rails are off. (DESIGN CHOICE, log 47) (DESIGN CHOICE, log 94) -/
def mariEnter (s : State) : State :=
  let st := mariLast s
  let s := updMari (setPhase s 2) fun m => { m with ask := none, delayed := false, asleep := if st < 3 then st else 0, result := 1, block := 0 }
  if st = 1 then
    let l := [0, 1, 2].filter fun w => bitN s.mari.wmask w
    mariRails (l.foldl (fun s w => wrB s .mari 0x044 (20 + w) true) s) (l.map fun w => (1, 2 + w, 120))
  else if st = 2 then
    let s := { s with sc := { s.sc with lines := [], resvs := [] } }
    let s := wr (wr s .scac 0x060 0xFFFFFFFF) .scac 0x064 0xFFFF
    mariRails s [(1, 0, 120), (3, 1, 0), (3, 7, 0), (3, 2, 0), (3, 3, 0), (3, 4, 0)]
  else mariRails s (parkRails.map fun r => (3, r, 0))

/-- A cluster in NAP comes back (R556): its point is that of the level it was raised to, and each core resumes after its WAIT. -/
def napWakes (s : State) (w : Nat) : State :=
  let v := ackedLevel s (2 + w)
  let s := wrF s .ckrs 0x040 (4 + 2 * w) 2 (if v = 180 then 0 else if v = 156 then 1 else 2)
  let s := wrB s .mari 0x044 (20 + w) false
  let s := (clusterCores w).foldl (fun s n => updCore s n fun c => if c.run = .waiting ∨ c.run = .doze then { c with run := .running } else c) s
  restartCrossings (updMari s fun m => { m with stopped := m.stopped.erase (48 + w) })

/-- The slots of the pages of blocks whose rail STANDBY switches off: Winovar and engine clusters, port cells, lanes and what runs on
them (R64, R114, R558), each as a first slot and how many. -/
def railSlots : List (Nat × Nat) := [(0x100, 0x30), (0x1000, 0x400), (0x2010, 256), (0x3000, 0x20), (0x3020, 4), (0x3030, 8)]

/-- A page of a block whose rail STANDBY switches off. -/
def railPage (p : Page) : Bool := railSlots.any fun r => decide (r.1 ≤ slotOf p) && decide (slotOf p < r.1 + r.2)

/-- The clocks restart after STANDBY: device time advances by the always-on cycles (R88), and blocks whose rail was off come back at
reset values with their headers kept (R558). -/
def standbyEnd (s : State) : State :=
  let adv := s.mari.cycles * 16000 / 9
  let s := flushSlots s railSlots
  let s := { s with dtOff := s.dtOff + adv }
  let wds := s.wdogs.map fun e => (e.1, if e.2.running then { e.2 with deadline := e.2.deadline + adv } else e.2)
  let s := { s with dt := s.dt + adv, wdogs := wds, synt := { s.synt with mark := s.synt.mark + adv },
                    dram := { s.dram with scrubAt := s.dram.scrubAt + adv }, engEpoch := s.engEpoch + 1, engines := [], clusters := [], movers := [], l2s := [],
                    macs := [], pcies := [], lanePll := [] }
  let s := { s with regs := s.regs.filter fun e => e.1 % 0x1000 < 0x040 || !(match pageOfAddr e.1 with
    | some p => railPage p
    | none => false) }
  let s := { s with cores := (s.cores.map fun e => (e.1, freshCore e.2)).filter fun e => decide (e.2 ≠ {}) }
  let s := [0, 1, 2].foldl (fun s w => wrB (wrF s .ckrs 0x040 (4 + 2 * w) 2 2) .mari 0x044 (20 + w) false) s
  restartCrossings (updMari s fun m => { m with asleep := 0, resume := m.stopped, again := [] })

/-- The cores of a cluster that restart at the exit from STANDBY (R558). -/
def restartCores (s : State) (w : Nat) : State :=
  (clusterCores w).foldl (fun s n =>
    let d := owner s (.wcc n)
    if d = 0 then
      (if n = 0 then startCore s n ((rd s .mari 0x054).toNat / 4 * 4 + rdF s .mari 0x058 0 16 * 2 ^ 32) else s)
    else if domState s d = 2 then startCore s n ((rd s (domPage d) 0x048).toNat / 4 * 4 + rdF s (domPage d) 0x04C 0 16 * 2 ^ 32)
    else s) s

/-- The string that a rail's failure concerns: a Winovar cluster, or, for another rail, one the spec does not state. -/
def railString (s : State) (rail : Nat) : State × Nat :=
  if 2 ≤ rail ∧ rail < 5 then (s, 46 + rail) else let f := freeVal 6 s; (f.2, f.1)

/-- The rail requests of an exit are answered; WAKE_STAT.FROM takes the state left (R565). -/
def exitRails (s : State) : State :=
  if s.mari.rails ≠ [] then s
  else
  let s := wrF s .wake 0x044 0 3 s.mari.asleep
  if s.mari.asleep = 1 then mariFinish (applyPoints s)
  else applyPoints (standbyEnd s)

/-- A rail request of Marionette has ended, acknowledged or not (R557): a cluster that NAP cannot raise stays in NAP, and no rollback
reaches it. `n` is the always-on domain's count of the cycles CK_E has
stood for, as it is now (R88). -/
def mariVr (s : State) (q : VrReq) (ok : Bool) (n : Nat) : State :=
  let s := updMari s fun m => { m with rails := m.rails.erase q.rail, cycles := max m.cycles n }
  if mariPhase s = 2 then (if s.mari.rails ≠ [] then s else if 3 ≤ mariLast s then parkEnd s else entryEnd s)
  else if mariPhase s ≠ 4 then s
  else if ok then exitRails (if s.mari.asleep = 1 then napWakes s (q.rail - 2) else s)
  else if !s.mari.again.contains q.rail then
    mariRail (updMari s fun m => { m with again := q.rail :: m.again }) q.typ q.rail q.value
  else
    let r := railString s q.rail
    let s := recFatal r.1 .mari 0x83 r.2
    exitRails (updMari s fun m => { m with result := 6, block := r.2, stopped := if m.asleep = 1 then m.stopped.erase (46 + q.rail) else m.stopped })

/-- What Marionette does when the outstanding request of the VR link has ended. -/
def vrThen (s s' : State) (ok : Bool) (n : Nat) : State :=
  match s.pwr.vr with
  | some q => if q.why = .mari ∧ s'.pwr.vr.map VrReq.seq ≠ some q.seq then mariVr s' q ok n else s'
  | none => s'

/-- A frame from the power stage (R68, R69): one whose CRC fails is no valid frame; reserved types are discarded, and those from 0xB on
counted. `n` as for `mariVr`. (DESIGN CHOICE, log 49) -/
def vrReceive (s : State) (f : BitVec 32) (n : Nat) : State :=
  let t := fld f 28 4
  if !s.pwr.die ∨ !vrOk f then s
  else if t = 8 then vrThen s (vrAck s (fld f 8 5) (fld f 13 10)) true n
  else if t = 9 then vrThen s (vrNak s (fld f 8 5) (fld f 13 10)) false n
  else if t = 10 then telemetry s (fld f 16 12) (fld f 8 8)
  else if 11 ≤ t then { s with pwr := { s.pwr with vrBad := s.pwr.vrBad + 1 } }
  else s

/-- VR_ACK (R68, R71): a frame arrives. -/
def execVrAck (f : BitVec 32) (n : Nat) (s : State) : Result := .next (vrReceive s f n)
/-- VR_NAK (R68, R71): a frame arrives. -/
def execVrNak (f : BitVec 32) (n : Nat) (s : State) : Result := .next (vrReceive s f n)
/-- VR_TELEMETRY (R68, R72): a frame arrives. -/
def execVrTelemetry (f : BitVec 32) (s : State) : Result := .next (vrReceive s f 0)
/-- VR_TIMEOUT (R71). -/
def execVrTimeout (n : Nat) (s : State) : Result := .next (vrThen s (vrTimeout s) false n)

/-! ## Wake events (R550, R560, R563) -/

/-- The rank of a wake source where events meet in one always-on cycle: the wake port, the timer, then the rest. -/
def wakeRank (src : Nat) : Nat := if src = 1 then 0 else if src = 2 then 1 else 2

/-- A wake event is acted on (R560): `cycles` is how long the clocks have been stopped, `same` says that it comes in the always-on
cycle of the event that started the exit. -/
def wakeEvent (s : State) (src cycles : Nat) (same : Bool) : State :=
  if 3 ≤ s.mari.asleep then parkExit s
  else if mariPhase s = 1 then
    let s := setWsrc s src
    if s.mari.at_ = dtP s ∧ s.mari.stopped = [] ∧ !s.mari.delayed then mariFinish (updMari s fun m => { m with result := 2, block := 0, ask := none })
    else mariRollback s 3 0
  else if mariPhase s = 2 then
    match s.mari.latch with
    | some old => if same ∧ wakeRank src < wakeRank old then updMari s fun m => { m with latch := some src } else s
    | none =>
      let s := updMari s fun m => { m with latch := some src, cycles := cycles }
      if s.mari.rails = [] then mariExit s src else s
  else if mariPhase s = 4 ∧ same ∧ wakeRank src < wakeRank (rdF s .mari 0x060 0 5) then setWsrc s src
  else s

/-- An event of MARI_WAKEEN is enabled. -/
def wakeEnabled (s : State) (i : Nat) : Bool := rdB s .mari 0x048 i

/-- An interrupt is presented at a core of a cluster that naps or is asked to (R550, R560). -/
def napPresented (s : State) : Bool :=
  mariLast s = 1 && (mariPhase s = 1 || mariPhase s = 2) &&
    [0, 1, 2].any fun w => bitN s.mari.wmask w && (clusterCores w).any fun n => decide (presented s n ≠ 0)

/-- A presented priority wakes napping clusters. -/
def napWake (s : State) : State := if napPresented s then wakeEvent s 5 0 false else s

/-- An access with AUTO_WAKE to a napping cluster's page wakes all napping clusters (R563); WSRC has no code for it. It is no wake
event of another state (R550). -/
def autoWake (s : State) : State :=
  let f := freeVal 5 s
  if mariLast s = 1 then wakeEvent f.2 (if 6 ≤ f.1 ∧ f.1 < 16 then 0 else f.1) 0 false else s

/-- An accepted write of MARI_REQ (R551, R560). (DESIGN CHOICE, log 47) -/
def mariRequest (s : State) (v : Reg32) : State :=
  let st := fld v 0 3
  if st = 0 then s
  else
    let r := setFld (setFld (setFld (setFld (setFld (rd s .mari 0x044) 0 1 1) 1 3 1) 4 4 0) 8 6 0) 14 3 st
    let s := wr s .mari 0x044 r
    let w := fld v 4 3
    napWake { s with mari := { wmask := w, at_ := dtP s, failed := s.mari.failed, ask := (mariStrings st w).head? } }

/-! ## Rows of the handshake -/

/-- MARI_GRANT (R553, R556): the asked block grants; the next string is asked, or the state is entered. -/
def execMariGrant (env : MemEnv) (pars : List Nat) (s : State) : Result :=
  .next (match s.mari.ask with
    | none => s
    | some k =>
      match mariGrant s k env pars with
      | .error s => s
      | .ok s =>
        let next := (mariStrings (mariLast s) s.mari.wmask).find? fun j => decide (k < j)
        let s := updMari s fun m => { m with stopped := k :: m.stopped.erase k, ask := next, delayed := false }
        if next.isNone then mariEnter s else s)

/-- MARI_DELAY (R553). -/
def execMariDelay (s : State) : Result :=
  .next (match s.mari.ask with
    | some k => if mariDelays s k then updMari s fun m => { m with delayed := true } else s
    | none => s)

/-- MARI_REFUSE (R555). -/
def execMariRefuse (s : State) : Result :=
  .next (match s.mari.ask with
    | some k => if mariRefuses s k then mariRollback s 4 k else s
    | none => s)

/-- MARI_SILENCE (R554): no answer within 1 ms. -/
def execMariSilence (s : State) : Result :=
  .next (match s.mari.ask with
    | some k => if s.mari.delayed then s else mariRollback (recInternal s .mari 0x81 k) 5 k
    | none => s)

/-- MARI_DELAY_EXCEEDED (R554). -/
def execMariDelayExceeded (s : State) : Result :=
  .next (match s.mari.ask with
    | some k => if s.mari.delayed then mariRollback (recInternal s .mari 0x84 k) 4 k else s
    | none => s)

/-- The next block is resumed, or the request ends. -/
def resumeNext (s : State) : State :=
  let s := updMari s fun m => { m with resume := m.resume.tail }
  if s.mari.resume = [] then mariFinish s else s

/-- MARI_READY (R555, R558): the resumed block answers. -/
def execMariReady (s : State) : Result :=
  .next (match s.mari.resume with
    | [] => s
    | k :: _ =>
      let s := restartCrossings (updMari s fun m => { m with stopped := m.stopped.erase k, failed := m.failed.erase k })
      let s := if k = 52 then selfRefresh s false
        else if mariPhase s = 4 ∧ 48 ≤ k ∧ k < 51 then restartCores s (k - 48)
        else s
      resumeNext s)

/-- RESTART_FAIL (R555): fatal; Marionette goes on with the next string, and the block stays stopped until it answers a later RESUME.
(DESIGN CHOICE, log 94) -/
def execRestartFail (s : State) : Result :=
  .next (match s.mari.resume with
    | [] => s
    | k :: _ => resumeNext (recFatal (updMari s fun m => { m with stopped := m.stopped.erase k, failed := k :: m.failed.erase k }) .mari 0x82 k))

/-- A RESET of a domain written after the fabric has granted and before entry ends (R563). -/
def mariDomReset (s : State) : State :=
  if mariPhase s = 1 ∧ s.mari.stopped.contains 51 then mariRollback s 4 51 else s

/-! ## Rows of wake events -/

/-- The events of MARI_WAKEEN are admitted: a request for NAP or STANDBY is being carried out, or lasts (R550, R560). -/
def wakeAdmits (s : State) : Bool := s.mari.asleep < 3 && rdB s .mari 0x044 0 && decide (mariLast s < 3)

/-- AON_TIMER_EXPIRE (R550, R564): the timer counts from the end of entry. -/
def execAonTimerExpire (cycles : Nat) (same : Bool) (s : State) : Result :=
  .next (if wakeAdmits s ∧ mariPhase s = 2 ∧ s.mari.rails = [] ∧ rd s .mari 0x050 ≠ 0 ∧ wakeEnabled s 0 then wakeEvent s 2 cycles same
    else if wakeAdmits s ∧ mariPhase s = 4 ∧ same ∧ rd s .mari 0x050 ≠ 0 ∧ wakeEnabled s 0 then wakeEvent s 2 cycles same
    else s)

/-- PORT_WAKE_EDGE (R550): an accepted edge on land A of cell 16b, while the rail of bank b is ON. -/
def execPortWakeEdge (b : Fin 16) (fall : Bool) (cycles : Nat) (same : Bool) (s : State) : Result :=
  .next (if wakeAdmits s ∧ wakeEnabled s (16 + b) ∧ rdF s (.pb b) 0x044 0 2 = 2 ∧ rdB s .mari 0x04C b = fall then
      wakeEvent s (16 + b) cycles same
    else s)

/-- VIN_IIN_SAMPLE (R56, R57), with the SUPPLY event at the entry into LOW (R550). (DESIGN CHOICE, log 46) (DESIGN CHOICE, log 79) -/
def execVinIinSample (vin iin : Int) (same : Bool) (s : State) : Result :=
  .next (let t := vinIinSample vin iin same s
    if s.pwr.win ≠ 2 ∧ t.pwr.win = 2 ∧ wakeAdmits t ∧ wakeEnabled t 1 then
      wakeEvent t 3 0 false
    else t)

/-- THERMAL_SAMPLE (R75 to R77), with the THERM event when the thermal state reaches WARN (R550). (DESIGN CHOICE, log 79) -/
def execThermalSample (l : List Int) (same : Bool) (s : State) : Result :=
  .next (let t := thermalSample l same s
    if rdF s .supv 0x048 20 2 = 0 ∧ rdF t .supv 0x048 20 2 ≠ 0 ∧ wakeAdmits t ∧ wakeEnabled t 2 then
      wakeEvent t 4 0 false
    else t)

/-! ## The wake listener (R561) -/

/-- The listener changed. -/
def updWake (s : State) (stage : Nat) (ack : Bool) : State := { s with wakeL := { s.wakeL with stage := stage, ack := ack } }

/-- WAKE_PORT_START_STOP: START reads WAKE_CFG and an address follows; STOP ends. -/
def execWakePortStartStop (start : Bool) (s : State) : Result :=
  .next (if !s.pwr.vaon then s
    else if start then { s with wakeL := { stage := 1, addr := rdF s .wake 0x040 0 7, en := rdB s .wake 0x040 7 } }
    else updWake s 0 false)

/-- WAKE_PORT_ADDRESS. -/
def execWakePortAddress (b : BitVec 8) (s : State) : Result :=
  .next (if !s.pwr.vaon ∨ s.wakeL.stage ≠ 1 then s
    else if s.wakeL.en ∧ b.toNat = 2 * s.wakeL.addr then updWake s 2 true
    else updWake s 0 false)

/-- A byte that gets no ACK: the listener stays silent until START or STOP. -/
def wakeNack (s : State) : State := if s.wakeL.stage = 2 ∨ s.wakeL.stage = 3 then updWake s 3 false else updWake s s.wakeL.stage false

/-- WAKE_CMD (R550, R560, R561): the command byte 0x5A; in RUN with no request it is only counted. -/
def execWakeCmd (cycles : Nat) (same : Bool) (s : State) : Result :=
  .next (if !s.pwr.vaon then s
    else if s.wakeL.stage ≠ 2 then wakeNack s
    else
      let s := updWake s 3 true
      if s.mari.asleep < 3 ∧ !rdB s .mari 0x044 0 then bumpF s .wake 0x044 8 8 1 else wakeEvent s 1 cycles same)

/-- PING: the command byte 0xA5. -/
def execPing (s : State) : Result :=
  .next (if !s.pwr.vaon then s else if s.wakeL.stage = 2 then updWake s 3 true else wakeNack s)

/-- WAKE_PORT_OTHER_BYTE: any other command byte, or a further byte. -/
def execWakePortOtherByte (b : BitVec 8) (s : State) : Result :=
  .next (if !s.pwr.vaon ∨ (s.wakeL.stage = 2 ∧ (b = 0x5A ∨ b = 0xA5)) then s else wakeNack s)

/-- SCL_LOW_TIMEOUT. -/
def execSclLowTimeout (s : State) : Result := .next (if s.pwr.vaon then updWake s 0 false else s)

end Sys2Proof.Machine
end

