-- ==== Sys2Proof/Machine/Faults.lean ====
section
/-!
DEFINITION. Machine/Faults.lean: the fault collector, latches and watchdogs, JTAG and BIST (spec 19).
-/

namespace Sys2Proof.Machine

/-! ## Messages and the log (R566 to R570, R573) -/

/-- The oldest fault message of fatal or of contained class is taken, with the entries of those that arrived before it made first (R573). What is
done about a fatal one is not held up by them. (DESIGN CHOICE, log 30) -/
def takeFault (s : State) (isFatal : Bool) : Option (FaultMsg × State) :=
  let p := fun (m : FaultMsg) => decide (decide (m.cls = fatal) = isFatal)
  (s.faultQ.find? p).map fun m =>
    let i := s.faultQ.findIdx p
    let t := logArrived s (i + 1)
    (m, { t with faultQ := t.faultQ.eraseIdx i })

/-- The fatal path (R569): both latches, the cells held in SAFE, and the hold or, where it is 0, the module reset. -/
def fatalPath (s : State) (scuOwn : Bool) : State :=
  let s := wr s .flts 0x040 (rd s .flts 0x040 ||| 3)
  if rdB s .flts 0x040 2 then s
  else if scuOwn ∨ rdF s .flts 0x048 0 8 = 0 then moduleReset s 7 0 false
  else
    let s := (List.finRange 16).foldl (fun s b => bankSafe s b 4) s
    wrB s .flts 0x040 2 true

/-- CONTAINED_FAULT (R568): logged, and the action of the DID it is raised to. -/
def execContainedFault (s : State) : Result :=
  .next (if s.sage.phase ≠ .done ∨ !clocksOn s then s
    else match takeFault s false with
      | none => s
      | some (m, s) =>
        let act := faultAction s m.did
        let s := bumpF s .flts 0x040 16 16 1
        if act = 3 then fatalPath s false
        else
          let s := if act = 2 then wrB s .flts 0x040 1 true else s
          if act = 0 then s else faultReset s m.did)

/-- FATAL_FAULT (R569): logged and counted, then the fatal path. -/
def execFatalFault (s : State) : Result :=
  .next (match takeFault s true with
    | none => s
    | some (m, s) => fatalPath (bumpF s .flts 0x040 8 8 1) m.scuOwn)

/-- FATAL_HOLD_EXPIRE (R569), also in the always-on cycle of a cause that has just ended the hold (R98). -/
def execFatalHoldExpire (same : Bool) (s : State) : Result :=
  .next (if rdB s .flts 0x040 2 ∨ (same ∧ s.pwr.live.contains 7) then moduleReset s 7 0 same else s)

/-- FAULT_N is low (R570). -/
def faultLow (s : State) : Bool := rdB s .flts 0x040 0
/-- SAFE_N is low (R570). -/
def safeLow (s : State) : Bool := rdB s .flts 0x040 1

/-! ## Watchdogs (R571, R572) -/

/-- SCU_WATCHDOG_EXPIRE (R571): it runs from handover on and stops in STANDBY; it can also expire in the always-on cycle of a cause that
has just stopped it (R98). -/
def execScuWatchdogExpire (same : Bool) (s : State) : Result :=
  .next (if (s.sage.phase = .done ∧ clocksOn s) ∨ (same ∧ s.pwr.live.contains 8) then moduleReset s 8 0 same else s)

/-- Watchdog `k` restarted with its PERIOD. (DESIGN CHOICE, log 50) -/
def wdStart (s : State) (k : Nat) : State :=
  let p := rdF s .flts (0x060 + 8 * k) 0 16
  { s with wdogs := SMap.set {} s.wdogs k (if p = 0 then {} else { running := true, deadline := dtP s + p * 1600000 / 9 }) }

/-- WD_EXPIRE (R572): device time comes to the end of the period. (DESIGN CHOICE, log 50) -/
def execWdExpire (k : Fin 8) (s : State) : Result :=
  .next (let w := SMap.get {} s.wdogs k
    if !w.running ∨ !clocksOn s then s
    else
      let s := { advanceTo s w.deadline with wdogs := SMap.set {} s.wdogs k { w with running := false, expired := true } }
      recordErr s .flts 0x80 contained (pageAttr s .flts) k (rdF s .flts (0x060 + 8 * k.val) 16 6))

/-! ## The FLTS page (R585) -/

/-- A write of a FLTS register that is rejected. -/
def fltsReject (s : State) (off : Nat) (v : Reg32) : Option Nat :=
  if off = 0x044 then
    (if fld v 0 16 ≠ 0x5AF3 ∧ fld v 0 16 ≠ 0xA50C then some 0x01 else if rdB s .flts 0x040 2 then some 0x81 else none)
  else if off = 0x050 ∧ (fld v 0 2 = 1 ∨ fld v 0 2 = 2) then some 0x01
  else if 0x060 ≤ off ∧ off < 0x0A0 ∧ off % 8 = 4 ∧ fld v 0 8 ≠ 0xC8 then some 0x01
  else none

/-- A write of a FLTS register that does more than store. -/
def fltsWrite (s : State) (off : Nat) (v : Reg32) : Option State :=
  if off = 0x044 then some (wrB s .flts 0x040 (if fld v 0 16 = 0x5AF3 then 0 else 1) false)
  else if 0x060 ≤ off ∧ off < 0x0A0 then
    some (wdStart (if off % 8 = 0 then wr s .flts off (BitVec.ofNat 32 (fld v 0 22)) else s) ((off - 0x060) / 8))
  else if off = 0x0A4 then some (if bit v 0 then { s with faultLog := s.faultLog.tail } else s)
  else none

/-- What a read of a FLTS register returns where it is computed. -/
def fltsRead (s : State) (off : Nat) : Option Nat :=
  let e := s.faultLog.head?
  let of := fun (f : FltEntry → Nat) => some ((e.map f).getD 0)
  if off = 0x0A0 then some (s.faultLog.length + 32 * (rdB s .flts 0x0A0 5).toNat)
  else if off = 0x0A8 then of fun x => x.slot + x.code % 256 * 2 ^ 16 + x.cls % 4 * 2 ^ 24 + x.action % 4 * 2 ^ 26
  else if off = 0x0AC then of fun x => tagWord x.attr
  else if off = 0x0B0 then of fun x => x.detail % 2 ^ 32
  else if off = 0x0B4 then of fun x => x.time
  else none

/-! ## JTAG (R574, R575) -/

/-- The TAP has power: VDD_SOC is on (R574). -/
def tapOn (s : State) : Bool := s.pwr.vaon && (s.pwr.rail = .up || s.pwr.rail = .starting)

/-- An instruction is admitted in the present debug state and lifecycle state (R575). -/
def jtagAdmits (s : State) (ir : Nat) : Bool :=
  let d := dbgState s
  let lc := lcState (s.sage.fuses.lc ||| s.sage.fuses2.lc)
  if ir = 0x02 ∨ ir = 0xFF then true
  else if ir = 0x00 ∨ ir = 0x03 ∨ ir = 0x04 then d < 2 || lc = 0
  else if ir = 0x01 ∨ ir = 0x20 then d < 2 || lc ≠ 4
  else if ir = 0x10 then d < 2
  else if ir = 0x11 then d = 0
  else false

/-- An instruction at Update-IR: what is not admitted selects the bypass register, which captures zero. -/
def jtagLoad (s : State) (ir : Nat) (f : State → Jtag → Jtag) : State :=
  if !tapOn s then s
  else if jtagAdmits s ir then { s with jtag := { f s s.jtag with ir := ir, act := ir } }
  else { s with jtag := { s.jtag with ir := ir, act := 0xFF, dr := 0 } }

/-- The instruction that acts: one that the debug state no longer admits acts as BYPASS. -/
def jtagActs (s : State) : Nat := if jtagAdmits s s.jtag.act then s.jtag.act else 0xFF

/-- TAP_RESET (R574): TRST_N low. (DESIGN CHOICE, log 51) -/
def execTapReset (s : State) : Result := .next (if tapOn s then { s with jtag := {} } else s)
/-- EXTEST: the boundary register drives the lands. -/
def execExtest (s : State) : Result := .next (jtagLoad s 0x00 fun _ j => j)
/-- SAMPLE_PRELOAD: the lands are captured, and the bits shifted in stand in the boundary register. -/
def execSamplePreload (lands load : List Bool) (s : State) : Result :=
  .next (jtagLoad s 0x01 fun _ j => { j with bsr := load, dr := Nat.ofBits fun i : Fin lands.length => lands.get i })
/-- IDCODE: version 0xB, part 0x4D39, manufacturer 0x229. -/
def execIdcode (s : State) : Result := .next (jtagLoad s 0x02 fun _ j => { j with dr := 0xB4D39453 })
/-- CLAMP: the boundary outputs hold, bypass is selected. -/
def execClamp (s : State) : Result := .next (jtagLoad s 0x03 fun _ j => { j with dr := 0 })
/-- HIGHZ: covered outputs at high impedance. -/
def execHighz (s : State) : Result := .next (jtagLoad s 0x04 fun _ j => { j with dr := 0 })
/-- BIST_READ: offset 0x040 + 4i of the BIST page. -/
def execBistRead (i : Fin 8) (s : State) : Result :=
  .next (jtagLoad s 0x20 fun s j => { j with dr := (rd s .bist (0x040 + 4 * i.val)).toNat })
/-- BYPASS, for 0xFF and every encoding that is not listed (R575). (DESIGN CHOICE, log 51) -/
def execBypass (s : State) : Result := .next (jtagLoad s 0xFF fun _ j => { j with dr := 0 })

/-- What a port-cell land drives (0 low, 1 high, 2 released) with the boundary register ahead of the cell: bit 2n of it for land A of
cell n, bit 2n + 1 for land B. -/
def landOut (s : State) (n : Fin 256) (b : Bool) : Nat :=
  let a := jtagActs s
  if a = 0x04 then 2
  else if a = 0x00 ∨ a = 0x03 then
    (if !railOn s n then 2 else match s.jtag.bsr[2 * n.val + b.toNat]? with
      | some x => x.toNat
      | none => 2)
  else landNow s n b

/-- The 3.3 V special lands but the five of JTAG, in the order of R52; the boundary register has their bits after those of the port
cells (R574). (DESIGN CHOICE, log 51) -/
inductive SpecialLand where
  | porstN | rstoutN | faultN | safeN | bootSck | bootCsN | bootMosi | bootMiso | bootRdy | bootif0 | bootif1 | bootRetry
  | bootErr0 | bootErr1 | bootErr2 | bootErr3 | wakeScl | wakeSda | thermN
  deriving DecidableEq, Repr

/-- The boundary bit of a special land. -/
def SpecialLand.bit (l : SpecialLand) : Nat := 512 + match l with
  | .porstN => 0 | .rstoutN => 1 | .faultN => 2 | .safeN => 3 | .bootSck => 4 | .bootCsN => 5 | .bootMosi => 6 | .bootMiso => 7
  | .bootRdy => 8 | .bootif0 => 9 | .bootif1 => 10 | .bootRetry => 11 | .bootErr0 => 12 | .bootErr1 => 13 | .bootErr2 => 14
  | .bootErr3 => 15 | .wakeScl => 16 | .wakeSda => 17 | .thermN => 18

/-- A special land that the device never drives (R52). -/
def SpecialLand.input : SpecialLand → Bool
  | .porstN | .bootSck | .bootCsN | .bootMosi | .bootif0 | .bootif1 | .bootRetry | .wakeScl => true
  | _ => false

/-- An open-drain land (R52). -/
def SpecialLand.openDrain : SpecialLand → Bool
  | .rstoutN | .faultN | .safeN | .wakeSda | .thermN => true
  | _ => false

/-- What the device itself drives on a special land: 0 low, 1 high, 2 released. BOOT_MISO is released between frames, and a byte of a
frame is one command (R52, R76, R100, R128, R146, R561, R570). -/
def specialDrive (s : State) : SpecialLand → Nat
  | .rstoutN => if rstoutN s then 2 else 0
  | .faultN => if faultLow s then 0 else 2
  | .safeN => if safeLow s then 0 else 2
  | .bootRdy => s.sage.rdy.toNat
  | .bootErr0 => (bitN s.sage.err 0).toNat
  | .bootErr1 => (bitN s.sage.err 1).toNat
  | .bootErr2 => (bitN s.sage.err 2).toNat
  | .bootErr3 => (bitN s.sage.err 3).toNat
  | .wakeSda => if s.wakeL.ack then 0 else 2
  | .thermN => if thermN s then 2 else 0
  | _ => 2

/-- What a special land drives with the boundary register ahead of the device (R575): an input is not driven, and an open-drain land is
released by a 1. -/
def specialLand (s : State) (l : SpecialLand) : Nat :=
  let a := jtagActs s
  if a = 0x04 then 2
  else if a = 0x00 ∨ a = 0x03 then
    (if l.input then 2 else match s.jtag.bsr[l.bit]? with
      | some x => if x && l.openDrain then 2 else x.toNat
      | none => 2)
  else specialDrive s l

/-! ## BIST (R576 to R578, R586) -/

/-- A TYPE, INDEX and KIND that R576 lists. -/
def bistListed (b : BistRun) : Bool :=
  (b.typ = 1 && b.index < 24) || (b.typ = 2 && b.index < 3 && b.kind = 1) || (b.typ = 3 && b.index < 32)
    || (b.typ = 4 && b.index < 48 && b.kind = 1) || (b.typ = 5 && b.index < 56 && b.kind = 1) || (b.typ = 6 && b.index < 18 && b.kind = 1)

/-- The layout of BIST_CMD. -/
def bistOf (v : Reg32) : BistRun := { typ := fld v 0 4, index := fld v 4 8, kind := fld v 12 1 }

/-- A core is held in reset. -/
def coreHeld (s : State) (n : Fin 24) : Bool := (core s n).run = .held

/-- The condition at start (R576). -/
def bistReady (s : State) (b : BistRun) : Bool :=
  if b.typ = 1 then coreHeld s (Fin.ofNat 24 b.index)
  else if b.typ = 2 then (clusterCores b.index).all (coreHeld s)
  else if b.typ = 3 then (clusterEngines b.index).all (allHalted s) && !moverBusy s b.index
  else if b.typ = 4 then wayOn s b.index && (List.range 16).all (fun p => !inPart s p b.index) && wayBit s 0x060 b.index
  else if b.typ = 5 then bankState s b.index = 0
  else if b.typ = 6 then
    !rdB s .dmc 0x040 0 || (decide (16 ≤ b.index) && s.dram.mig.isNone
      && [0, 1].all fun r => spareState s (2 * (b.index - 16) + r) ≠ 2)
  else false

/-- BIST_STAT with a result. (DESIGN CHOICE, log 52) -/
def bistResult (s : State) (x : Nat) : State := wrF s .bist 0x044 1 3 x

/-- A run is asked for: `.error` where its L2 has to wait before it is empty; the flag says that it was not refused. SCU firmware sets MODE
DEADLINE while a DRAM channel runs (R306). (DESIGN CHOICE, log 52) -/
def bistBegin (s : State) (b : BistRun) (env : MemEnv) : Except State (State × Bool) :=
  if s.bist.isSome ∨ !bistReady s b then .ok (bistResult s 2, false)
  else
    (if b.typ = 2 then emptyL2 s b.index env else .ok s).map fun s =>
      let v := 1 + b.typ * 2 ^ 4 + b.index * 2 ^ 8 + b.kind * 2 ^ 16
      let s := { wr s .bist 0x044 (BitVec.ofNat 32 v) with bist := some b }
      (if b.typ = 6 then setMode s true else s, true)

/-- What a run leaves in its target. -/
def bistLeaves (s : State) (b : BistRun) : State :=
  if b.typ = 1 then updCore s (Fin.ofNat 24 b.index) freshCore
  else if b.typ = 2 then { s with l2s := SMap.set [] s.l2s b.index [] }
  else if b.typ = 3 then
    let s := flushSlots ((clusterEngines b.index).foldl resetEngine s) [(slotOf (.nc (Fin.ofNat 32 b.index)), 32)]
    if b.kind = 0 then s
    else
      let s := (clusterEngines b.index).foldl (fun s e => updEng s e fun g => { g with lm := [], lmBad := [], lmCe := [], zero := true }) s
      updClu s (Fin.ofNat 32 b.index) fun _ => { zero := true }
  else if b.typ = 4 then
    let s := { s with sc := { s.sc with lines := s.sc.lines.filter fun e => decide (e.1 / 16384 ≠ b.index) } }
    setWayBit s 0x060 b.index true
  else if b.typ = 5 then zeroBanks s b.index (b.index + 1)
  else
    let mine := fun a => decide (a / 2 ^ 26 / 2 = b.index)
    { s with dram := { s.dram with mem := SMap.drop s.dram.mem mine, bad := SMap.drop s.dram.bad mine } }

/-- BIST_RUN_END (R576, R577): the signature, FAILS and the first failing location are what the tested part gives. A run that a fatal error has
abandoned has no end but the module reset (R584). -/
def execBistRunEnd (misr : BitVec 64) (fails : BitVec 15) (addr : BitVec 48) (s : State) : Result :=
  .next (match s.bist with
    | none => s
    | some b =>
      if !clocksOn s ∨ rdB s .flts 0x040 2 then s
      else
        let s := bistLeaves { s with bist := none } b
        let v := 2 + b.typ * 2 ^ 4 + b.index * 2 ^ 8 + b.kind * 2 ^ 16 + fails.toNat * 2 ^ 17
        let s := wr s .bist 0x044 (BitVec.ofNat 32 v)
        let s := wr (wr s .bist 0x048 (misr.extractLsb' 0 32)) .bist 0x04C (misr.extractLsb' 32 32)
        let s := wr (wr s .bist 0x050 (addr.extractLsb' 0 32)) .bist 0x054 (BitVec.ofNat 32 (addr.toNat / 2 ^ 32))
        setIrq { (if b.typ = 6 then restoreMode s else s) with verdict := some { run := b, fails := fails.toNat, misr := misr.toNat } } .bist 1)

/-- BIST_VERDICT (R578): SCU firmware's verdict on the last run that has ended, whatever has been asked for since; `sig` is the signature the
running image carries for TYPE and KIND, if any. -/
def execBistVerdict (sig : Option (BitVec 64)) (s : State) : Result :=
  .next (match s.verdict with
    | none => s
    | some v =>
      if s.sage.phase ≠ .done ∨ !clocksOn s then s
      else
        let s := { s with verdict := none }
        match sig with
        | none => wrF s .bist 0x058 0 2 3
        | some g =>
          if g.toNat = v.misr ∧ v.fails = 0 then wrF s .bist 0x058 0 2 1
          else
            let cmd := v.run.typ + v.run.index * 2 ^ 4 + v.run.kind * 2 ^ 12
            recordErr (wrF s .bist 0x058 0 2 2) .bist 0x81 contained (pageAttr s .bist) cmd 0)

/-- A write of BIST_CMD or BIST_VERD that is rejected (R577). -/
def bistReject (scu : Bool) (off : Nat) (v : Reg32) : Option Nat :=
  if off = 0x040 ∧ !bistListed (bistOf v) then some 0x01
  else if (off = 0x040 ∨ off = 0x058) ∧ !scu then some 0x80
  else none

/-- A page belongs to the target of the run in progress: its OWNER is frozen (R576). -/
def bistPage (s : State) (p : Page) : Bool :=
  match p with
  | .wcc n => bistOn s 1 n || bistOn s 2 (n.val / 8)
  | .nce e => bistOn s 3 (e.val / 16)
  | .ncm m => bistOn s 3 (m.val / 8)
  | _ => false

end Sys2Proof.Machine
end

