-- ==== Sys2Proof/Machine/IntRows.lean ====
section
/-!
DEFINITION. Machine/IntRows.lean: the commands of the interrupt controller (R508, R517, R522) and INCREMENT of a domain reset (R537); a
priority that they present wakes a napping cluster (R520, R550).
-/

namespace Sys2Proof.Machine

/-- ASSERT (R508); while the clocks stand no message arrives (R553). -/
def execAssert (src : Fin 2048) (s : State) : Result :=
  .next (if clocksOn s then napWake (arrive s .assert src fun s => setPending s src true) else s)

/-- DEASSERT (R508). -/
def execDeassert (src : Fin 2048) (s : State) : Result :=
  .next (if clocksOn s then arrive s .deassert src fun s => clearLevel s src else s)

/-- EDGE (R508). -/
def execEdge (src : Fin 2048) (s : State) : Result :=
  .next (if clocksOn s then napWake (arrive s .edge src fun s => setPending s src false) else s)

/-- GROUP_HOLD_EXPIRE (R517): the timer of a HOLDING group runs out and the group opens. -/
def execGroupHoldExpire (g : Fin 16) (s : State) : Result :=
  .next (napWake (if (grpRec s g).state = .holding ∧ clocksOn s then
      icDo (fun s => setGrp s g { grpRec s g with state := .opened }) (advanceTo s (grpRec s g).deadline)
    else s))

/-- CORE_TIMER_MATCH (R522): the CK_F copy of device time reaches the compare value, P1 is set and the timer disarms. -/
def execCoreTimerMatch (n : Fin 24) (s : State) : Result :=
  .next (napWake (if SMap.get false s.ic.armed n ∧ clocksOn s then
      let cmp := (rd s (.icp n) 0x054).toNat * 2 ^ 32 + (rd s (.icp n) 0x050).toNat
      let s := advanceTo s ((cmp - s.dtOff + 1) / 2 * 2 + s.dtOff)
      wrB { s with ic := { s.ic with armed := SMap.set false s.ic.armed n false } } (.icp n) 0x064 5 true
    else s))

/-- INCREMENT (R537 to R539, R545); a doorbell that it rings can wake a napping cluster (R519, R520). -/
def execIncrement (d : Fin 64) (s : State) : Result :=
  .next (if d = 0 ∨ !drained s d then s
    else if lapWait s d then
      (if rdB s (.dom d) 0x044 5 then s else recInternal (wrB s (.dom d) 0x044 5 true) (.dom d) 0x85 0)
    else
      let s := ageCredits s d
      let mem := membersOf s d
      let s := (slicesOf s d).foldl renewSlice s
      let s := mem.foldl renewMember s
      napWake (wrB (setDom (icForgetDomain s d) d 3 4) (.dom d) 0x044 5 false))

end Sys2Proof.Machine
end

