-- ==== Sys2Proof/Machine/Pcie.lean ====
section
/-!
DEFINITION. Machine/Pcie.lean: the PCIe controllers (R474 to R480), MSI (R505), and the boot BARs as reads (R136).
-/

namespace Sys2Proof.Machine

/-- A controller's record. -/
def pcie (s : State) (c : Fin 4) : Pcie := SMap.get {} s.pcies c

/-- A controller's record changed. -/
def updPcie (s : State) (c : Fin 4) (f : Pcie → Pcie) : State := { s with pcies := SMap.upd {} s.pcies c f }

/-- LINK of PCE_STAT. -/
def pceLink (s : State) (c : Fin 4) : Nat := rdF s (.pce c) 0x044 0 2

/-- The answer given to an inbound request. (DEDUCED, log 27) -/
def pciAnswer (s : State) (c : Fin 4) (a : PciAns) : State := updPcie s c fun p => { p with last := some a }

/-- An AER error is recorded (0 Unsupported Request, 1 Completer Abort, 2 poisoned TLP). -/
def aerErr (s : State) (c : Fin 4) (i : Nat) : State :=
  setIrq (updPcie s c fun p => { p with aer := p.aer ||| 2 ^ i }) (.pce c) 4

/-! ## Outbound (R105, R476) -/

/-- The controller and offset of an outbound address. -/
def outOff (s : State) (a : Nat) : Option (Fin 4 × Nat) :=
  match regionOf s a with
  | some (.pcieOut c) => some (c, a - 0x1000000000 - c.val * 2 ^ 34)
  | _ => none

/-- An offset of the ECAM window of a root complex. -/
def isEcam (s : State) (c : Fin 4) (off : Nat) : Bool := !rdB s (.pce c) 0x040 1 && decide (0x3F0000000 ≤ off)

/-- An outbound request ends with an error response and CPL_ERR. (DEDUCED, log 27) -/
def cplErr (s : State) (c : Fin 4) (id : Nat) : State :=
  let s := updPcie s c fun p => { p with out := p.out.filter fun e => decide (e.1 ≠ id) }
  match txn? s id with
  | some t =>
    let off := ((outOff s t.req.addr).map Prod.snd).getD 0
    recordErr (answerTxn s id true false 0) (.pce c) 0x84 contained t.attr (off / 4) (owner s (.pce c))
  | none => s

/-- The request that goes out for one at an offset of the outbound range (R476): to PCIe address OBASE × 2^34 + x, or a configuration
request. -/
def outTlp (s : State) (c : Fin 4) (off : Nat) (q : FReq) : PciTlp :=
  { cfg := isEcam s c off, isW := q.op = .write, len := q.len, data := if q.op = .write then q.data else 0,
    addr := if isEcam s c off then off - 0x3F0000000 else rdF s (.pce c) 0x048 0 30 * 2 ^ 34 + off }

/-- The root port's own configuration registers (R475, R476): AER's uncorrectable error status, where PCIe has it in a capability at 0x100,
holds the errors recorded and is cleared by ones; the spec gives no other. (PRESUMED, log 65) -/
def rootCfg (s : State) (c : Fin 4) (t : Txn) (x : Nat) : State :=
  let a := (pcie s c).aer
  if x = 0x104 ∧ t.req.len = 4 then
    (if t.req.op = .write then
      let d := t.req.data
      let clr := (if d.testBit 20 then 1 else 0) + (if d.testBit 15 then 2 else 0) + (if d.testBit 12 then 4 else 0)
      answerTxn (updPcie s c fun p => { p with aer := p.aer &&& (7 - clr) }) t.id false false 0
    else answerTxn s t.id false false ((a.testBit 0).toNat * 2 ^ 20 + (a.testBit 1).toNat * 2 ^ 15 + (a.testBit 2).toNat * 2 ^ 12))
  else
    let f := freeVal (8 * t.req.len) s
    answerTxn f.2 t.id false false (if t.req.op = .write then 0 else f.1)

/-- PCIE_OUTBOUND_REQUEST (R476): a request in transit reaches its controller. A memory write is posted. -/
def execPcieOutboundRequest (id : Nat) (s : State) : Result :=
  .next (match txn? s id with
    | none => s
    | some t =>
      match outOff s t.req.addr with
      | none => s
      | some (c, off) =>
        if t.status ≠ .transit ∨ behindSource s t then s
        else if pceLink s c ≠ 2 then failTxn s t .asleep
        else if isEcam s c off ∧ off - 0x3F0000000 < 0x1000 then rootCfg s c t (off - 0x3F0000000)
        else
          let u := updPcie s c fun p => { p with sent := some (outTlp s c off t.req) }
          if t.req.op = .write ∧ !isEcam s c off then answerTxn u id false false 0
          else acceptTxn (updPcie u c fun p => { p with out := p.out ++ [(id, s.dt)] }) id)

/-- An outbound request waits for its completion. -/
def outWaits (s : State) (c : Fin 4) (id : Nat) : Bool := (pcie s c).out.any fun e => e.1 = id

/-- PCIE_COMPLETION (R476): `st` is 0 for success, 1 UR, 2 CA. -/
def execPcieCompletion (c : Fin 4) (id : Nat) (st : Fin 3) (poison : Bool) (data : Nat) (s : State) : Result :=
  .next (if !outWaits s c id then s
    else if st ≠ 0 then cplErr s c id
    else
      let s := updPcie s c fun p => { p with out := p.out.filter fun e => decide (e.1 ≠ id) }
      match txn? s id with
      | some t => answerTxn s id false poison (data % 2 ^ (8 * t.req.len))
      | none => s)

/-- PCIE_COMPLETION_TIMEOUT (R476): 50 ms without a completion. -/
def execPcieCompletionTimeout (c : Fin 4) (id : Nat) (s : State) : Result := .next (if outWaits s c id then cplErr s c id else s)

/-! ## The link (R474, R502) -/

/-- PCIE_LINK_UP: the link trains to a width and rate no higher than configured. -/
def execPcieLinkUp (c : Fin 4) (width : Fin 4) (gen : Fin 8) (s : State) : Result :=
  .next (if rdB s (.pce c) 0x040 0 ∧ pceLink s c = 1 ∧ clocksOn s ∧ width.val ≤ rdF s (.pce c) 0x040 2 2 ∧ 1 ≤ gen.val
        ∧ gen.val ≤ rdF s (.pce c) 0x040 4 3 ∧ lanesCarry s (8 * c.val) (2 ^ width.val) then
      let s := setIrq (wr s (.pce c) 0x044 (BitVec.ofNat 32 (2 + width.val * 4 + gen.val * 16))) (.pce c) 1
      if c = 0 then bootReady s 1 else s
    else s)

/-- The link goes down to a state of LINK: outbound reads in flight get error responses. -/
def pceDown (s : State) (c : Fin 4) (link : Nat) : State :=
  let up := pceLink s c = 2
  let s := (pcie s c).out.foldl (fun s e => cplErr s c e.1) s
  let s := wr s (.pce c) 0x044 (BitVec.ofNat 32 link)
  if up then setIrq s (.pce c) 2 else s

/-- PCIE_LINK_DOWN (R502): training starts again. -/
def execPcieLinkDown (c : Fin 4) (s : State) : Result := .next (if pceLink s c = 2 then pceDown s c 1 else s)

/-! ## Inbound (R477, R478) -/

/-- The entry of PCE_MAP that matches a requester ID or a function number. (DESIGN CHOICE, log 65) -/
def pceMatch (s : State) (c : Fin 4) (key : Nat) : Option Nat :=
  (List.range 16).find? fun n => rdB s (.pce c) (0x080 + 4 * n) 30 && rdF s (.pce c) (0x080 + 4 * n) 0 16 = key

/-- A write in the MSI window (R505). -/
def msiWrite (s : State) (c : Fin 4) (off len data : Nat) : State :=
  if off % 4 = 0 ∧ len = 4 ∧ data < 128 then sendMsg s (.pce c) (1536 + 128 * c.val + data) .edge
  else recCorrected (setIrq (bumpF s .ictl 0x048 16 16 1) .ictl 1) .ictl 0x80 (pageAttr s (.pce c)) (c.val + off / 4 * 16)

/-- No mapping: an unsupported request, and NO_MAP in the page. -/
def noMap (s : State) (c : Fin 4) (isW aer : Bool) (key : Nat) : State :=
  let s := pciAnswer s c (if isW then .dropped else .ur)
  recInternal (if aer then aerErr s c 0 else s) (.pce c) 0x82 (key % 2 ^ 16)

/-- The fabric byte address of a request, none where it is not forwarded (R478). -/
def pceAddr (s : State) (c : Fin 4) (fn addr len : Nat) : Option Nat :=
  if !rdB s (.pce c) 0x040 1 then (if addr + len ≤ 2 ^ 48 then some addr else none)
  else
    let lo := rd s (.pce c) (0x0C0 + 8 * fn)
    let size := 2 ^ (fld lo 0 5 + 12)
    if rdF s (.pce c) 0x040 7 2 < fn ∨ size < addr + len then none
    else some (fld lo 12 20 * 2 ^ 12 + rdF s (.pce c) (0x0C4 + 8 * fn) 0 16 * 2 ^ 32 + addr)

/-- A request enters the fabric as one request for each block of 64 bytes (R589). -/
def pcePost (s : State) (c : Fin 4) (isW : Bool) (a len data pid : Nat) : State :=
  (List.range ((a + len - 1) / 64 - a / 64 + 1)).foldl (fun s i =>
    let lo := max a ((a / 64 + i) * 64)
    let n := min (a + len) ((a / 64 + i + 1) * 64) - lo
    let r : FReq := { master := .pcie c, op := if isW then .write else .read, addr := lo, len := n, be := 2 ^ n - 1,
                      data := data / 2 ^ (8 * (lo - a)) % 2 ^ (8 * n), cls := Fin.ofNat 4 (rdF s (.pce c) 0x040 9 2), pid := pid }
    ingressOf (postReq s r 0 (.pcie c)) s.fab.nextId) s

/-- A read of the boot BARs (R136): BAR0 gives the slots, BAR2 STATUS and INFO. One that touches any byte of STATUS clears its flags.
(DESIGN CHOICE, log 19) -/
def bootRead (s : State) (bar2 : Bool) (off len : Nat) : State :=
  let img := if bar2 then ofBytes (statusBytes s ++ infoBytes s) else ofBytes ((List.range len).map fun i => sramByte s (slotBase false + off + i))
  let v := if bar2 then img / 2 ^ (8 * off) % 2 ^ (8 * len) else img
  let s := if bar2 ∧ off < 4 then takeStatus s fun _ => [] else s
  pciAnswer s 0 (.ok v false)

/-- A write of the boot BARs (R136): BAR0 stores, BAR2 clears and releases, and its other words ignore it, as does all of BAR2 a write
that is not exactly the 4 bytes of CLEAR or RELEASE. (DESIGN CHOICE, log 19) -/
def bootBarWrite (s : State) (bar2 : Bool) (off len data : Nat) : State :=
  if !bar2 then bar0Write s off (bytesOf len data)
  else if len ≠ 4 then s
  else if off = 0x020 then bar2Clear s data
  else if off = 0x024 then bar2Release s data
  else s

/-- What a byte of an MSI-X table reads that nothing has written: a vector starts masked (PCIe). (PRESUMED, log 65) -/
def msixReset (k : Nat) : Byte := if k % 16 = 12 then 1 else 0

/-- The bits of a byte of an MSI-X table entry that a write changes (PCIe): the address but for bits 1:0, the data, and the mask bit.
(PRESUMED, log 65) -/
def msixMask (o : Nat) : Byte := if o % 16 = 0 then 0xFC else if o % 16 < 12 then 0xFF else if o % 16 = 12 then 1 else 0

/-- A byte at an offset of BAR2 of a function (R475, R478): the MSI-X table of 64 vectors, and zero for the pending bits after it, since the
spec sends no vector. (PRESUMED, log 65) -/
def msixByte (s : State) (c : Fin 4) (fn : Fin 4) (o : Nat) : Byte :=
  if o < 1024 then SMap.getF msixReset (pcie s c).msix (1024 * fn.val + o) else 0

/-- A byte of BAR2 of a function is written: the MSI-X table takes it. -/
def msixPut (c fn : Fin 4) (s : State) (e : Nat × Byte) : State :=
  if e.1 < 1024 then
    let v := (msixByte s c fn e.1 &&& ~~~msixMask e.1) ||| (e.2 &&& msixMask e.1)
    updPcie s c fun p => { p with msix := SMap.setF msixReset p.msix (1024 * fn.val + e.1) v }
  else s

/-- A request to BAR2 of a function of an endpoint (R478): outside its 4 KiB, or of a function that there is not, unsupported; else answered
by the controller. (PRESUMED, log 65) -/
def msixAccess (s : State) (c : Fin 4) (fn : Fin 4) (isW : Bool) (key a len data : Nat) : State :=
  if rdF s (.pce c) 0x040 7 2 < fn.val ∨ 4096 < a + len then noMap s c isW false key
  else if isW then pciAnswer (((bytesOf len data).zipIdx.map fun e => (a + e.2, e.1)).foldl (msixPut c fn) s) c (.ok 0 false)
  else pciAnswer s c (.ok (ofBytes ((List.range len).map fun i => msixByte s c fn (a + i))) false)

/-- PCIE_INBOUND_REQUEST (R477, R478, R505): a memory request. `key` is the requester ID, `fn` the function addressed in endpoint mode
with `addr` the offset in its BAR0, or in BAR2 where `bar2` is set, whose MSI-X table the controller answers itself. A write carries at most
512 bytes (R475). While its owner is gated a controller takes nothing but interrupt messages (R537). (DESIGN CHOICE, log 65) -/
def execPcieInboundRequest (c : Fin 4) (isW : Bool) (key : BitVec 16) (fn : Fin 4) (bar2 : Bool) (addr : BitVec 64) (len : Fin 4097)
    (data : Nat) (poison : Bool) (s : State) : Result :=
  let ep := rdB s (.pce c) 0x040 1
  let k := if ep then fn.val else key.toNat
  let a := addr.toNat
  let msi := !ep && isW && decide (0xE0000000 ≤ a) && decide (a < 0xE0001000)
  .next (if !rdB s (.pce c) 0x040 0 ∨ pceLink s c ≠ 2 ∨ len.val = 0 ∨ (isW && decide (512 < len.val)) ∨ !clocksOn s ∨ blkBusy s (.pce c)
        ∨ (gated s (owner s (.pce c)) && !msi) then s
    else if isW ∧ poison then recordErr (aerErr (pciAnswer s c .dropped) c 2) (.pce c) 0x83 contained (pageAttr s (.pce c)) key.toNat (owner s (.pce c))
    else if c = 0 ∧ bootPcie s ∧ s.sage.phase ≠ .done then
      (if fn ≠ 0 ∨ (if bar2 then 2 ^ 12 else 2 ^ 23) < a + len then pciAnswer s 0 (if isW then .dropped else .ur)
       else if isW then bootBarWrite s bar2 a len data
       else bootRead s bar2 a len)
    else if msi then msiWrite s c (a % 0x1000) len data
    else if ep ∧ bar2 then msixAccess s c fn isW key.toNat a len data
    else match pceMatch s c k with
      | none => noMap s c isW true key.toNat
      | some n =>
        match pceAddr s c fn a len with
        | none => noMap s c isW false key.toNat
        | some b => pcePost s c isW b len data (rdF s (.pce c) (0x080 + 4 * n) 16 14))

/-- MSI (R505): a write in the MSI window of a root complex; interrupt messages are not gated (R537). -/
def execMsi (c : Fin 4) (off : BitVec 12) (len : Fin 513) (data : Nat) (s : State) : Result :=
  .next (if rdB s (.pce c) 0x040 0 ∧ pceLink s c = 2 ∧ !rdB s (.pce c) 0x040 1 ∧ clocksOn s ∧ !blkBusy s (.pce c) ∧ len.val ≠ 0 then msiWrite s c off.toNat len data else s)

/-- The completion of an inbound request reaches the controller (R477). -/
def pceDone (s : State) (c : Fin 4) (t : Txn) : State :=
  let ur := t.why = 1 ∨ t.why = 6
  if !t.err then (if t.req.op = .write then s else pciAnswer s c (.ok t.rdata t.poison))
  else if t.req.op = .write then aerErr (pciAnswer s c .dropped) c (if ur then 0 else 1)
  else pciAnswer s c (if ur then .ur else .ca)

/-- Out-of-range values of a PCE register (R480). -/
def pceBad (s : State) (c : Fin 4) (off : Nat) (v : Reg32) : Bool :=
  if off = 0x040 then fld v 4 3 = 0 || decide (6 ≤ fld v 4 3)
  else if 0x080 ≤ off ∧ off < 0x0C0 then rdB s (.pce c) 0x040 1 && decide (4 ≤ fld v 0 16)
  else if 0x0C0 ≤ off ∧ off < 0x0E0 then
    let lo := if off % 8 = 0 then v else rd s (.pce c) (off - 4)
    let hi := if off % 8 = 0 then rd s (.pce c) (off + 4) else v
    decide (25 ≤ fld lo 0 5) || (fld lo 12 20 * 2 ^ 12 + fld hi 0 16 * 2 ^ 32) % 2 ^ (fld lo 0 5 + 12) ≠ 0
  else false

/-- A write of PCE_CFG that does more than store (R470). -/
def pceWrite (s : State) (c : Fin 4) (off : Nat) (v : Reg32) : Option State :=
  if off ≠ 0x040 then none
  else
    let old := rdB s (.pce c) 0x040 0
    let s := wr s (.pce c) 0x040 (v &&& 0x7FF)
    some (if bit v 0 ∧ !old then wrF (claimLanes s (.pce c)) (.pce c) 0x044 0 2 1
      else if !bit v 0 ∧ old then releaseLanes (pceDown s c 0) (.pce c)
      else s)

end Sys2Proof.Machine
end

