-- ==== Sys2Proof/Machine/Tylwen.lean ====
section
/-!
DEFINITION. Machine/Tylwen.lean: the Tylwen link (R491 to R501), remote writes, reads and events (R349, R461 to R463), the remote
register window (R497) and members' memory requests (R498).
-/

namespace Sys2Proof.Machine

/-- The link's record changed. -/
def updTyl (s : State) (f : Tyl → Tyl) : State := { s with tyl := f s.tyl }

/-- STATE of TYLW_STAT: 0 DOWN, 1 TRAINING, 2 UP. -/
def tylState (s : State) : Nat := rdF s .tylw 0x044 0 2

/-- MEMBERS of TYLW_STAT. -/
def tylMembers (s : State) : Nat := rdF s .tylw 0x044 4 4

/-- The link carries flits: its first lane is out of electrical idle (R472). (DESIGN CHOICE, log 71) -/
def tylCarries (s : State) : Bool := clocksOn s && lanesCarry s 28 1

/-! ## Flits (R491, R492) -/

/-- The payload of a flit as a number: of a MEM_RSP by the layout of R498, and else by one that R492 leaves open. -/
def flitLoad (f : Flit) : Nat :=
  if f.typ = 13 then f.load.getD 0 0 % 2 ^ 8 + f.load.getD 1 0 % 2 ^ 8 * 2 ^ 8 + f.load.getD 2 0 % 2 ^ 8 * 2 ^ 16 + f.load.getD 3 0 % 2 ^ 256 * 2 ^ 96
  else Config.flitBody f.typ f.load

/-- The 64 bytes of a flit of the M9 (R491): TYPE, destination, source 0, SEQ, 56 bytes of payload, and the CRC-32 over all of them. -/
def flitBytes (f : Flit) : List Byte :=
  let b := bytesOf 1 (f.typ % 16) ++ bytesOf 1 (f.dst % 64) ++ bytesOf 1 0 ++ bytesOf 1 f.seq ++ bytesOf 56 (flitLoad f)
  b ++ bytesOf 4 (crc32 b)

/-- A flit goes out and is held for replay; none where the replay buffer of 128 is full. -/
def sendFlit (s : State) (typ dst : Nat) (load : List Nat) : Option State :=
  if 128 ≤ s.tyl.replay.length then none
  else some (updTyl s fun t => { t with replay := t.replay ++ [{ typ := typ, dst := dst, seq := t.seq, load := load }], seq := (t.seq + 1) % 256 })

/-- The answer of a read that a core waits for. -/
def coreAnswer (s : State) (n : Fin 24) (a : DevAns) : State := updCore s n fun c => { c with got := c.got ++ [a], stall := false }

/-- A register request to a member ends: a core's load takes its answer, a core's store that fails is a STORE_BUS exception; an answer of
an earlier generation is discarded and counted (R29). -/
def tylEnd (s : State) (x : TylReg) (err : Bool) (data : Nat) : State :=
  let s := creditBack (updTyl s fun t => { t with regs := t.regs.filter fun y => decide (y.id ≠ x.id) }) x.req.attr.did
    (regOld s x.req)
  if !fresh s x.req.m x.req.attr then lateCount s x.req.m x.req.attr.did
  else if x.req.direct then answer s err (if err then 0 else data)
  else match x.req.m, x.req.data with
  | .core n, none => coreAnswer s n { addr := x.req.addr, len := 4, data := if err then 0 else data, err := err }
  | .core n, some _ => if err then updCore s n fun c => { c with sbus := c.sbus ++ [(x.req.lvl, x.req.addr)] } else s
  | _, _ => answer s err (if err then 0 else data)

/-- A request to a member fails with a record in the fabric error log. -/
def tylFail (s : State) (x : TylReg) (k : Kind) : State :=
  tylEnd (ferrLog s x.req.m x.req.attr (if x.req.data.isSome then .write else .read) x.req.addr k) x true 0

/-- What the link does when it goes down (R499): queued writes are dropped and counted, remote reads become late, register requests
fail, those of one tick in ascending order of MASTER (R123), answers to members are discarded. -/
def tylDown (s : State) : State :=
  let n := (s.tyl.rwq.map fun e => e.2.length).sum
  let regs := s.tyl.regs
  let s := bumpF (wrF s .tylw 0x044 0 2 0) .tylw 0x044 16 8 n
  let s := updTyl s fun t => { t with rwq := [], prds := [], mems := [], replay := [] }
  (regs.insertionSort fun a b => masterCode a.req.m ≤ masterCode b.req.m).foldl (fun s x => tylFail s x .asleep) s

/-- Link loss. (DESIGN CHOICE, log 71) -/
def loseLink (s : State) : State := setIrq (recContained (tylDown s) .tylw 0x80 0) .tylw 1

/-- Flits are resent; one resent 8 times loses the link (R492, R499). -/
def resend (s : State) (f : Flit → Bool) : State :=
  let go := fun (x : Flit) => if f x then { x with tries := x.tries + 1 } else x
  let s := updTyl s fun t => { t with replay := t.replay.map go }
  if s.tyl.replay.any fun x => decide (8 ≤ x.tries) then loseLink s else s

/-- The flits up to one of a SEQ, and those from it on. -/
def splitSeq (l : List Flit) (seq : Nat) : List Flit × List Flit := l.span fun x => x.seq ≠ seq

/-- TYL_IDLE (R492): a valid flit that carries nothing. -/
def execTylIdle (s : State) : Result := .next s

/-- TYL_ACK (R492): an ACK releases the flits up to its SEQ, a NAK resends that flit and every later one. -/
def execTylAck (seq : BitVec 8) (nak : Bool) (s : State) : Result :=
  .next (if tylState s = 0 ∨ !tylCarries s then s
    else match splitSeq s.tyl.replay seq.toNat with
      | (_, []) => s
      | (a, x :: b) =>
        if nak then resend s fun y => (x :: b).contains y
        else if a.length < s.tyl.replay.length then updTyl s fun t => { t with replay := b } else s)

/-- FLIT_REPLAY (R492): 2 µs without an acknowledgement. -/
def execFlitReplay (s : State) : Result :=
  .next (if tylState s = 0 ∨ s.tyl.replay = [] ∨ !tylCarries s then s else resend s fun _ => true)

/-- TYL_RESERVED_FLIT (R492). -/
def execTylReservedFlit (s : State) : Result := .next (if tylState s = 0 ∨ !tylCarries s then s else bumpF s .tylw 0x044 24 8 1)

/-! ## Link up, loss and retraining (R493 to R496, R499, R500) -/

/-- The version that a pairing runs, none where there is no common one (R495). -/
def tylAgree (s : State) (lo hi : Nat) : Option Nat :=
  let top := min hi (min 2 (rdF s .lcyc 0x058 24 8))
  if max lo (max 1 (rdF s .lcyc 0x058 16 8)) ≤ top then some top else none

/-- TYL_CAP (R492, R494, R495, R500): a member's identity and version range in training, for which the M9 sends its own. -/
def execTylCap (m : Fin 16) (ident : BitVec 32) (lo hi : BitVec 8) (s : State) : Result :=
  .next (if tylState s ≠ 1 ∨ m = 0 ∨ !tylCarries s then s
    else
      let old := SMap.get 0 s.tyl.caps m
      let v := tylAgree s lo.toNat hi.toNat
      let s := wrF s .tylw (0x0C0 + 4 * m.val) 12 4 (v.getD 1)
      let s := if v = none then recInternal s .tylw 0x81 m else s
      let s := updTyl s fun t => { t with caps := SMap.set 0 t.caps m (ident.toNat + 1), capped := if t.capped.contains m.val then t.capped else m.val :: t.capped }
      let s := (sendFlit s 2 m [max 1 (rdF s .lcyc 0x058 16 8), min 2 (rdF s .lcyc 0x058 24 8)]).getD s
      if old ≠ 0 ∧ old ≠ ident.toNat + 1 then
        wrB (updTyl s fun t => { t with changed := if t.changed.contains m.val then t.changed else m.val :: t.changed }) .tylw 0x044 8 true
      else s)

/-- TYL_ENUM (R492 to R494): members are numbered in chain order, each by an ENUM flit. -/
def execTylEnum (n : Fin 16) (s : State) : Result :=
  .next (if tylState s = 1 ∧ tylCarries s then
      (List.range n).foldl (fun s i => (sendFlit s 3 (i + 1) [i + 1]).getD s) (wrF (updTyl s fun t => { t with numbered := true }) .tylw 0x044 4 4 n)
    else s)

/-- The one-way latency for a width (R460). -/
def tylO (w : Nat) : Nat := if w = 2 then 96 else if w = 1 then 112 else 144

/-- Every step of training before the measurement of latency is made (R494): the members are numbered, and the CAP of each has come. -/
def tylTrained (s : State) : Bool := s.tyl.numbered && (List.range (tylMembers s)).all fun i => s.tyl.capped.contains (i + 1)

/-- TYLWEN_LINK_UP (R494, R496): after CAP and enumeration, on lanes out of electrical idle; the width in use and the cable propagation measured for each member, in ticks. -/
def execTylwenLinkUp (width : Fin 3) (prop : List (Fin 4096)) (s : State) : Result :=
  .next (if !rdB s .tylw 0x040 0 ∨ tylState s ≠ 1 ∨ rdF s .tylw 0x040 1 2 < width.val ∨ !clocksOn s ∨ !tylTrained s ∨ !lanesCarry s 28 (2 ^ width.val) then s
    else
      let s := (List.range 15).foldl (fun s i =>
        let off := 0x0C4 + 4 * i
        if i < tylMembers s then
          wrF s .tylw off 0 12 (2 * (tylO width + 40 * i + ((prop[i]?.map fun c => c.val).getD 0)) + 12)
        else wr s .tylw off 0) s
      bootReady (setIrq (wrF (wrF s .tylw 0x044 2 2 width) .tylw 0x044 0 2 2) .tylw 2) 2)

/-- TYL_TIME (R496): every 65,536 ticks each member gets the device time it is to have when the flit arrives. (DESIGN CHOICE, log 72) -/
def execTylTime (s : State) : Result :=
  .next (if tylState s ≠ 2 ∨ !clocksOn s then s
    else
      let s := advanceTo s ((s.dt + 65535) / 65536 * 65536)
      (List.range (tylMembers s)).foldl (fun s i =>
        (sendFlit s 4 (i + 1) [s.dt + (rdF s .tylw (0x0C4 + 4 * i) 0 12 - 12) / 2]).getD s) s)

/-- LINK_LOSS (R499). -/
def execLinkLoss (s : State) : Result := .next (if tylState s = 2 ∧ clocksOn s then loseLink s else s)

/-- RETRAIN (R500). -/
def execRetrain (s : State) : Result :=
  .next (if tylState s = 0 ∧ rdB s .tylw 0x040 0 ∧ rdB s .tylw 0x040 3 ∧ clocksOn s then tylTrain s else s)

/-! ## Remote port accesses and events (R349, R461 to R463) -/

/-- The member a remote cell lies at. -/
def cellMember (s : State) (r : Nat) : Nat := rgMap s r 1 6

/-- TYL_PWR (R462): up to six writes of one engine to one member leave its queue in order. -/
def execTylPwr (e : Fin 512) (n : Fin 6) (s : State) : Result :=
  .next (match SMap.get [] s.tyl.rwq e with
    | [] => s
    | w :: ws =>
      if tylState s ≠ 2 ∨ !clocksOn s then s
      else
        let m := cellMember s w.1
        let l := ((w :: ws).takeWhile fun x => cellMember s x.1 = m).take (n.val + 1)
        let word := fun (x : Nat × Nat × Word18) => ((rgMap s x.1 7 4 * 16 + x.1 % 16) * 4 + x.2.1) * 2 ^ 18 + x.2.2.toNat
        match sendFlit s 5 m (l.map word) with
        | some s => updTyl s fun t => { t with rwq := SMap.set [] t.rwq e ((w :: ws).drop l.length) }
        | none => s)

/-- TYL_PRD_REQ (R461). -/
def execTylPrdReq (id : Nat) (s : State) : Result :=
  .next (match s.tyl.prds.find? fun x => x.id = id && !x.sent with
    | none => s
    | some x =>
      if tylState s ≠ 2 ∨ !clocksOn s then s
      else match sendFlit s 6 (cellMember s x.cell) [(rgMap s x.cell 7 4 * 16 + x.cell % 16) * 4 + x.word] with
        | some s => updTyl s fun t => { t with prds := t.prds.map fun y => if y.id = id then { y with sent := true } else y }
        | none => s)

/-- TYL_PRD_RSP (R349, R461): a response that has come by the tick of the write is the value written. -/
def execTylPrdRsp (id : Nat) (v : Word18) (s : State) : Result :=
  .next (match s.tyl.prds.find? fun x => x.id = id && x.sent with
    | none => s
    | some x =>
      if tylState s ≠ 2 then s
      else
        let s := updTyl s fun t => { t with prds := t.prds.filter fun y => decide (y.id ≠ id) }
        updThr s (Fin.ofNat 512 x.e) (Fin.ofNat 4 x.t) fun th =>
          { th with prds := th.prds.map fun p => if p.id = id ∧ s.dt ≤ p.due then { p with val := some v } else p })

/-- An event line of a remote cell sets its routed source (R463). -/
def remoteEvent (s : State) (member bank cell : Nat) (lineB : Bool) : State :=
  (List.range 48).foldl (fun s g =>
    if rgMap s (16 * g) 0 1 = 1 ∧ rgMap s (16 * g) 1 6 = member ∧ rgMap s (16 * g) 7 4 = bank then
      let r := 16 * g + cell
      let v := rd s (.pb (Fin.ofNat 16 (r / 48))) (0x100 + 4 * (r % 48))
      if bit v (if lineB then 16 else 15) then
        setSource s (Fin.ofNat 512 (16 * fld v 0 5 + fld v 5 4)) (24 + fld v (if lineB then 12 else 9) 3) s.dt
      else s
    else s) s

/-- TYL_EVT (R463): up to eight changes, each the member, its bank and cell, and the line. -/
def execTylEvt (l : List (Fin 16 × Fin 16 × Fin 16 × Bool)) (s : State) : Result :=
  .next (if tylState s ≠ 2 ∨ !clocksOn s then s
    else (l.take 8).foldl (fun s x => remoteEvent s x.1 x.2.1 x.2.2.1 x.2.2.2) s)

/-! ## The remote register window (R497) -/

/-- The member whose window holds an address. -/
def windowMember (a : Nat) : Nat := (a - 0x18000000) / 0x200000

/-- A request to the window that has passed the checks of R120 that the M9 makes: refused, or on its way. -/
def tylAccess (s : State) (q : RegReq) : State × Option Resp :=
  let m := windowMember q.addr
  let op : ReqOp := if q.data.isSome then .write else .read
  if tylState s ≠ 2 ∨ s.tyl.changed.contains m then (ferrLog s q.m q.attr op q.addr .asleep, some { err := true })
  else if tylMembers s < m then (ferrLog s q.m q.attr op q.addr .unmapped, some { err := true })
  else (updTyl s fun t => { t with regs := t.regs ++ [{ id := t.nextId + 1, req := q, start := s.dt }], nextId := t.nextId + 1 }, none)

/-- A register request by its number. -/
def tylReg? (s : State) (id : Nat) : Option TylReg := s.tyl.regs.find? fun x => x.id = id

/-- Two requests can stand in one burst (R495): of one requester, one kind and one level, the second to the next register. -/
def nextInBurst (x y : TylReg) : Bool :=
  !y.sent && decide (y.req.addr = x.req.addr + 4) && decide (y.req.m = x.req.m) && decide (y.req.attr = x.req.attr) &&
    decide (y.req.lvl = x.req.lvl) && (y.req.data.isSome == x.req.data.isSome)

/-- The requests that one REG_REQ flit carries (R495): one or, to a member that runs version 2, up to `k` more to the registers after it.
(DESIGN CHOICE, log 71) -/
def regBurst (s : State) : Nat → TylReg → List TylReg
  | 0, x => [x]
  | k + 1, x => x :: match s.tyl.regs.find? (nextInBurst x) with
    | some y => regBurst s k y
    | none => []

/-- What a REG_REQ flit carries (R497): the offset, whether it writes, the level, owner tag, generation and class that the member checks,
how many registers, and the words to write. -/
def regLoad (l : List TylReg) (x : TylReg) : List Nat :=
  [x.req.addr % 0x200000, x.req.data.isSome.toNat, x.req.lvl, x.req.attr.did, x.req.attr.pid, x.req.attr.gen, x.req.attr.cls, l.length] ++
    l.filterMap fun y => y.req.data.map BitVec.toNat

/-- TYL_REG_REQ (R495, R497). -/
def execTylRegReq (id : Nat) (s : State) : Result :=
  .next (match tylReg? s id with
    | none => s
    | some x =>
      let m := windowMember x.req.addr
      if x.sent ∨ tylState s ≠ 2 ∨ !clocksOn s then s
      else
        let l := regBurst s (if rdF s .tylw (0x0C0 + 4 * m) 12 4 = 2 then 7 else 0) x
        match sendFlit s 9 m (regLoad l x) with
        | some s => updTyl s fun t => { t with regs := t.regs.map fun y => if l.any fun z => z.id = y.id then { y with sent := true } else y }
        | none => s)

/-- The kinds a member can refuse with. -/
def kindOf (k : Nat) : Kind :=
  [Kind.unmapped, .wrongOwner, .asleep, .wakeTimeout, .size, .master, .partialWord, .engineBusy].getD (k - 1) .engineBusy

/-- TYL_REG_RSP (R497): `kind` is 0 for success, else the KIND the member refuses with. -/
def execTylRegRsp (id : Nat) (kind : Fin 9) (data : Reg32) (s : State) : Result :=
  .next (match tylReg? s id with
    | none => s
    | some x =>
      if !x.sent ∨ tylState s ≠ 2 then s
      else if kind = 0 then tylEnd s x false data.toNat
      else tylFail s x (kindOf kind))

/-- REG_TIMEOUT (R497): 20 µs without a response; the class of code 0x82 is not stated. -/
def execRegTimeout (id : Nat) (s : State) : Result :=
  .next (match tylReg? s id with
    | none => s
    | some x =>
      let f := freeVal 2 s
      tylFail (recordErr f.2 .tylw 0x82 (f.1 % 3) x.req.attr (windowMember x.req.addr) 0) x .unmapped)

/-! ## Members' memory requests (R498) -/

/-- The bytes lie in memories that members reach. -/
def memberReach (s : State) (a n : Nat) : Bool :=
  (decide (sramBase ≤ a) && decide (a + n ≤ 0x1E00000)) || (inDram s (a / 64) && inDram s ((a + n - 1) / 64))

/-- The request is refused (R498). -/
def memRefused (s : State) (m : Fin 16) (tag op len b7 : Nat) (a : Nat) (data : Nat) (z : Bool) : Bool :=
  !rdB s .tylw (0x100 + 4 * m.val) 8 || decide (15 < tag) || decide (1 < op) || len = 0 || decide (32 < len) || b7 ≠ 0 || !z
    || (op = 1 && decide (2 ^ (8 * len) ≤ data)) || !memberReach s a len
    || s.tyl.mems.any fun x => x.member = m.val && x.tag = tag && !x.bad

/-- MEM_REQ (R498): the fields of the flit; `z` says that its other bytes are zero. A refusal that finds the replay buffer full is answered
later. (DEDUCED, log 73) -/
def execMemReq (m : Fin 16) (tag op len b7 : BitVec 8) (addr : BitVec 48) (data : BitVec 256) (z : Bool) (s : State) : Result :=
  let a := addr.toNat
  let n := len.toNat
  .next (if tylState s ≠ 2 ∨ m = 0 ∨ tylMembers s < m.val ∨ !clocksOn s then s
    else if memRefused s m tag.toNat op.toNat n b7.toNat a data.toNat z then
      (sendFlit s 13 m [tag.toNat, 1, n]).getD (updTyl s fun t => { t with mems := t.mems ++ [{ member := m, tag := tag.toNat, isW := true, len := n, addr := a, ids := [], bad := true }] })
    else
      let isW := op = 1
      let l1 := min n (64 - a % 64)
      let parts := if l1 = n then [(a, n)] else [(a, l1), (a + l1, n - l1)]
      let id0 := s.fab.nextId
      let mk := fun (p : Nat × Nat) =>
        ({ master := .tyl m, op := if isW then .write else .read, addr := p.1, len := p.2, be := 2 ^ p.2 - 1,
           data := data.toNat / 2 ^ (8 * (p.1 - a)) % 2 ^ (8 * p.2), cls := 1, pid := m.val } : FReq)
      let x : TylMem := { member := m, tag := tag.toNat, isW := isW, len := n, addr := a, ids := (List.range parts.length).map fun i => id0 + i }
      let s := updTyl s fun t => { t with mems := t.mems ++ [x] }
      parts.foldl (fun s p => ingressOf (postReq s (mk p) 0 (.member m)) s.fab.nextId) s)

/-- MEM_RSP (R498): the answer to a request whose parts have all come back. -/
def execMemRsp (m : Fin 16) (tag : Fin 16) (s : State) : Result :=
  .next (match s.tyl.mems.find? fun x => x.member = m.val && x.tag = tag.val && x.ids.isEmpty with
    | none => s
    | some x =>
      if tylState s ≠ 2 ∨ !clocksOn s then s
      else
        let st := if x.bad then 1 else if x.worst = 0 then 0 else if x.worst = 1 then 3 else 2
        match sendFlit s 13 m ([x.tag, st, x.len] ++ (if x.isW then [] else [x.data])) with
        | some s => updTyl s fun t => { t with mems := t.mems.erase x }
        | none => s)

/-! ## The page (R490, R501) -/

/-- Out-of-range values of a TYLW register. -/
def tylwBad (off : Nat) (v : Reg32) : Bool := off = 0x040 && fld v 1 2 = 3

/-- A write of a TYLW register that does more than store. (DESIGN CHOICE, log 71) -/
def tylwWrite (s : State) (off : Nat) (v : Reg32) : Option State :=
  if off = 0x040 then
    let old := rdB s .tylw 0x040 0
    let s := if bit v 4 then wrB (updTyl s fun t => { t with changed := [] }) .tylw 0x044 8 false else s
    let s := wr s .tylw 0x040 (v &&& 0xF)
    some (if bit v 0 ∧ !old then tylTrain (claimLanes s .tylw)
      else if !bit v 0 ∧ old then releaseLanes (tylDown s) .tylw
      else s)
  else if 0x104 ≤ off ∧ off < 0x140 then
    let old := rd s .tylw off
    some (if (v ^^^ old) &&& 0x13F = 0 then s
      else renewMember (wrB (wrF s .tylw off 0 6 (fld v 0 6)) .tylw off 8 (bit v 8)) (Fin.ofNat 16 ((off - 0x100) / 4)))
  else syntWrite s off v

end Sys2Proof.Machine
end

