-- ==== Sys2Proof/Machine/Bridge.lean ====
section
/-!
DEFINITION. Machine/Bridge.lean: the register bridge: the checks of an access in their order (R120 to R122, R592), what registers
read and what writes do, soft resets (R103), and FABRIC_INGRESS, which may reach a register (R590).
-/

namespace Sys2Proof.Machine

/-! ## What registers read -/

/-- The CK_A of a cluster is stopped for NAP: it sleeps, or has granted and is about to (R122, R556). (DESIGN CHOICE, log 29) -/
def clusterAsleep (s : State) (w : Nat) : Bool :=
  rdB s .mari 0x044 (20 + w) || (mariLast s = 1 && strStopped s (48 + w))

/-- The block of a page is asleep (R588). -/
def pageAsleep (s : State) : Page → Bool
  | .wc w => clusterAsleep s w
  | .wcc n => clusterAsleep s (n.val / 8)
  | _ => false

/-- BLK_STAT (R116): a napping cluster stands at its retention level, and waking shows while Marionette lets it out; a Winovar cluster's
clock stands until it is released (R85). (DESIGN CHOICE, log 29) -/
def blkStat (s : State) (p : Page) : Nat :=
  let doze := match p with
    | .wcc n => decide ((core s n).run = .doze)
    | _ => false
  let ck := match p with
    | .wc w => s.pwr.ckA.contains w.val
    | .wcc n => s.pwr.ckA.contains (n.val / 8)
    | _ => true
  let a := pageAsleep s p
  (if !a then 0 else if mariPhase s = 4 then 3 else 1) + 4 * (!a && !doze && ck).toNat + 8 * (blkBusy s p).toNat + 16 * (rdB s p 0x020 0).toNat

/-- IRQ_STAT bits that a page has: bit 31 only where its chapter defines no block-specific source, none on the ICP pages (R588). -/
def irqBits : Page → Reg32
  | .icp _ => 0
  | .ckrs | .supv | .calb | .wake | .fabr | .sram | .rmap | .dch _ | .nc _ => 0x80000000
  | _ => 0xFFFFFFFF

/-- The latch number of a master that reads device time: a core's, or the SCU's. -/
def dtLatchOf : Master → Option Nat
  | .core n => some n.val
  | .scu => some 24
  | _ => none

/-- The registers of FERR, of the oldest entry (R123). -/
def ferrRead (s : State) (off : Nat) : Option Nat :=
  let of := fun (f : FerrEntry → Nat) => some ((s.fab.ferr.head?.map f).getD 0)
  if off = 0x040 then some (s.fab.ferr.length + 64 * (rdB s .ferr 0x040 6).toNat)
  else if off = 0x048 then of fun x => x.addr % 2 ^ 32
  else if off = 0x04C then of fun x => x.addr / 2 ^ 32 % 2 ^ 16 + x.op * 2 ^ 16 + x.kind * 2 ^ 18 + x.master * 2 ^ 22
  else if off = 0x050 then of fun x => tagWord x.attr
  else if off = 0x054 then of fun x => x.time
  else none

/-- DT_LO and DT_HI (R104). -/
def ckrsRead (s : State) (m : Master) (off : Nat) : Option Nat :=
  if off = 0x048 then some (dtP s % 2 ^ 32)
  else if off = 0x04C then
    some (((dtLatchOf m).bind fun k => SMap.find? s.fab.dtHi k).getD (dtP s / 2 ^ 32 % 2 ^ 32))
  else none

/-- A requester whose requests pass every ownership check: level H, level F, the SCU (R30). (DEDUCED, log 78) -/
def privReq (q : RegReq) : Bool := passesAll q.m q.lvl

/-- The core's wake request to Marionette is raised (R520). -/
def wakeRaised (s : State) (n : Fin 24) : Bool :=
  presented s n ≠ 0 && (decide ((core s n).run = .doze) || clusterAsleep s (n.val / 8))

/-- A block-specific register that is computed when it is read. -/
def blockRead (s : State) (q : RegReq) (off : Nat) : Page → Option Nat
  | .ckrs => ckrsRead s q.m off
  | .ferr => ferrRead s off
  | .flts => fltsRead s off
  | .fabr => if off = 0x040 then some (poolCred s + poolTok s * 2 ^ 16) else none
  | .dom d => domRead s d off
  | .ictl => ictlRead s off
  | .icp n => icpRead s n (privReq q) (wakeRaised s n) off
  | .dmc => dmcRead s off
  | .rmap => rmapRead s off
  | .nce e => nceRead s e off
  | .ncm m => ncmRead s m off
  | .pc n => if off = 0x068 then some (cellStatReg s n) else none
  | .tylw => syntRead s q.m off
  | _ => none

/-- What a read of a register returns. -/
def regView (s : State) (q : RegReq) (p : Page) (off : Nat) : Reg32 :=
  if off = 0x00C then BitVec.ofNat 32 (blkStat s p)
  else if off = 0x010 ∨ off = 0x018 then rd s p 0x010 &&& irqBits p
  else if off = 0x020 then setBit (rd s p off) 2 (xovf s p)
  else if off < 0x040 then rd s p off
  else match blockRead s q off p with
    | some x => BitVec.ofNat 32 x
    | none => rd s p off

/-- What a read does: fields that clear, latches of device time and of synchronised seconds. -/
def readEffect (s : State) (q : RegReq) (p : Page) (off : Nat) : State :=
  let rc := ((regInfo p off).map RegInfo.rc).getD 0
  let s := if rc = 0 then s else wr s p off (rd s p off &&& ~~~(BitVec.ofNat 32 rc))
  if p = .ckrs ∧ off = 0x048 then
    match dtLatchOf q.m with
    | some k => { s with fab := { s.fab with dtHi := SMap.put s.fab.dtHi k (dtP s / 2 ^ 32 % 2 ^ 32) } }
    | none => s
  else if p = .tylw ∧ off = 0x080 then syntLatch s q.m
  else s

/-! ## Writes that are rejected -/

/-- The mask of RW-H fields; OWNER is RO on a fixed page. -/
def rwhMask (p : Page) (off : Nat) : Reg32 :=
  if off = 0x030 ∧ !bindable p then 0 else BitVec.ofNat 32 (((regInfo p off).map RegInfo.rwh).getD 0)

/-- The mask of the fields that LOCK protects (R116): EN, SRST, AUTO_WAKE, and RW and RW-H fields from offset 0x040 on. -/
def lockMask (p : Page) (off : Nat) : Reg32 :=
  if off = 0x008 then 7
  else if off < 0x040 then 0
  else BitVec.ofNat 32 (((regInfo p off).map fun r => r.rw ||| r.rwh).getD 0)

/-- A write would change a field of `m` (R592): WO fields of `wo` when they carry a 1, others when the value differs. -/
def wouldChange (cur v m wo : Reg32) : Bool := (v ^^^ cur) &&& m &&& ~~~wo ≠ 0 || v &&& m &&& wo ≠ 0

/-- The WO fields of a register. -/
def woMask (p : Page) (off : Nat) : Reg32 := BitVec.ofNat 32 (((regInfo p off).map RegInfo.wo).getD 0)

/-- Another enabled group maps the same bank of the same member (R459). (DEDUCED, log 63) -/
def rgClaimed (s : State) (b : Fin 16) (off : Nat) (v : Reg32) : Bool :=
  bit v 0 && (List.range 48).any fun g =>
    let p := (rgPage (16 * g)).1
    let o := 0x080 + 8 * (rgPage (16 * g)).2
    !(p = .pb b && o = off) && rdB s p o 0 && rdF s p o 1 10 = fld v 1 10

/-- Values of block-specific registers that are reserved or out of range, and the refusals of the blocks, with their codes. (DEDUCED, log 53) -/
def blockReject (s : State) (q : RegReq) (off : Nat) (v : Reg32) : Page → Option Nat
  | .ckrs =>
    if off = 0x044 ∧ [0, 2, 4].any (fun i => fld v i 2 = 3) then some 0x01
    else if off = 0x054 ∧ fld v 0 16 ≠ 0xC3A5 then some 0x01
    else none
  | .mari => if off = 0x040 then mariReject s (privReq q) v else none
  | .flts => fltsReject s off v
  | .bist => bistReject (q.m = .scu) off v
  | .wake =>
    if off = 0x040 ∧ (fld v 0 7 < 8 ∨ 0x78 ≤ fld v 0 7) ∧ ¬(fld v 0 8 = 0) then some 0x01 else none
  | .dom d => domReject s d off v
  | .scs d => scsReject s (.scs d) off
  | .ictl => if ictlBad off v then some 0x01 else none
  | .scac =>
    if off = 0x040 then scCmdReject s v
    else if 0x080 ≤ off ∧ off < 0x100 then partReject s off v
    else none
  | .sram =>
    if 0x060 ≤ off ∧ off < 0x0A0 ∧ off % 8 = 0 ∧ confBad v then some 0x01 else srReject s (q.m = .scu) off v
  | .dmc => dmcReject (q.m = .scu) off v
  | .rmap => rmapReject s (q.m = .scu) off v
  | .wc _ => if (off = 0x040 ∨ off = 0x044) ∧ 6 ≤ fld v 8 4 then some 0x01 else none
  | .wcc _ => if 0x044 ≤ off ∧ off < 0x054 ∧ 0x13 ≤ fld v 0 6 then some 0x01 else none
  | .nce e => nceReject s e off v
  | .pb b =>
    if off = 0x040 then bankReject s b v
    else if 0x080 ≤ off ∧ off < 0x098 ∧ off % 8 = 0 then
      (if fld v 12 12 < 64 then some 0x01 else if rgClaimed s b off v then some 0x82 else none)
    else none
  | .pc n => pcReject s n off v
  | .ln l => lnReject s (.ln l) off v
  | .pce c => if pceBad s c off v then some 0x01 else if off = 0x040 then laneReject s (.pce c) v else none
  | .eth m =>
    if ethBad off v then some 0x01
    else if off = 0x040 then laneReject s (.eth m) v
    else ethReject s m off v
  | .tylw => if tylwBad off v then some 0x01 else if off = 0x040 then laneReject s .tylw v else none
  | _ => none

/-- OWNER cannot be written so: a binding that R529 does not allow, or a page of the BIST target (R576). -/
def ownerBad (s : State) (p : Page) (v : Reg32) : Bool := bindable p && (bistPage s p || !bindOk s p (fld v 0 6))

/-- The code that a write is rejected with, in the order of R120. -/
def writeReject (s : State) (q : RegReq) (p : Page) (off : Nat) (v : Reg32) : Option Nat :=
  let cur := regView s q p off
  if !privReq q && wouldChange cur v (rwhMask p off) (woMask p off) then some 0x03
  else if rdB s p 0x008 3 && wouldChange cur v (lockMask p off) (woMask p off) then some 0x02
  else if blkBusy s p && decide (0x040 ≤ off) then some 0x04
  else if off = 0x008 then (if (bit v 1 && !capSR p) || (bit v 2 && !capAW p) then some 0x01 else none)
  else if off = 0x030 then (if ownerBad s p v then some 0x01 else none)
  else if off < 0x040 then none
  else blockReject s q off v p

/-- A rejected write is dropped whole and recorded (R121); a refused binding also in the page of the DID written (R529). -/
def rejectWrite (s : State) (q : RegReq) (p : Page) (off : Nat) (v : Reg32) (code : Nat) : State :=
  let s' := recCorrected s p code q.attr off
  if off = 0x030 ∧ code = 0x01 ∧ !bistPage s p then recCorrected s' (domPage (fld v 0 6)) 0x81 q.attr (pageAddr p) else s'

/-! ## Writes that are applied -/

/-- A register as plain storage: RW fields take the value, W1C and W1S bits clear and set. -/
def plainWrite (s : State) (p : Page) (off : Nat) (v : Reg32) : State :=
  match regInfo p off with
  | none => s
  | some r =>
    let m := BitVec.ofNat 32 (r.rw ||| r.rwh)
    let x := (rd s p off &&& ~~~m) ||| (v &&& m)
    wr s p off ((x &&& ~~~(v &&& BitVec.ofNat 32 r.w1c)) ||| (v &&& BitVec.ofNat 32 r.w1s))

/-- BLK_CTRL: SRST starts a soft reset; one more while it runs changes nothing (R103). EN is stored, and no rule says what a block with EN 0
leaves undone. (DESIGN CHOICE, log 82) -/
def ctrlWrite (s : State) (p : Page) (v : Reg32) : State :=
  let s := plainWrite s p 0x008 v
  if bit v 1 ∧ !blkBusy s p then
    wrB { s with fab := { s.fab with lost := s.fab.lost.filter fun a => decide (a ≠ pageAddr p) } } p 0x00C 3 true
  else s

/-- A write of a header register. -/
def headerWrite (s : State) (p : Page) (off : Nat) (v : Reg32) : State :=
  if off = 0x008 then ctrlWrite s p v
  else if off = 0x010 ∨ off = 0x014 then (if capIRQ p then withLine p (fun s => plainWrite s p off v) s else plainWrite s p off v)
  else if off = 0x018 then setIrq s p (v &&& irqBits p).toNat
  else if off = 0x020 then
    let s := plainWrite s p off v
    if bit v 2 then clearYoyoOvf s p else s
  else if off = 0x030 then (if bindable p then bindSlice s p (fld v 0 6) else s)
  else plainWrite s p off v

/-- PMU_CTRL: CLR sets every counter of the page to zero (R255). -/
def pmuCtrl (s : State) (n : Fin 24) (v : Reg32) : State :=
  let s := plainWrite s (.wcc n) 0x040 v
  if bit v 1 then (List.range 6).foldl (fun s i => wr s (.wcc n) (0x060 + 4 * i) 0) s else s

/-- A write of a block-specific register that does more than store; `.error` is the state in which it has to wait. -/
def blockWrite (s : State) (q : RegReq) (off : Nat) (v : Reg32) (env : MemEnv) (p : Page) : Except State State :=
  let plain := plainWrite s p off v
  match p with
  | .ckrs =>
    .ok (if off = 0x044 then applyPoints plain else if off = 0x054 then moduleReset s 9 0 false else plain)
  | .ferr => .ok (if off = 0x044 ∧ bit v 0 then { s with fab := { s.fab with ferr := s.fab.ferr.tail } } else plain)
  | .mari => .ok (if off = 0x040 then mariRequest s v else plain)
  | .flts => .ok ((fltsWrite s off v).getD plain)
  | .bist =>
    if off = 0x040 then (match bistBegin s (bistOf v) env with
      | .ok r => .ok r.1
      | .error s => .error s)
    else .ok plain
  | .dom d =>
    let t := (domWrite s d off v).getD plain
    .ok (if off = 0x040 ∧ fld v 0 3 = 2 then mariDomReset t else t)
  | .scs d => .ok ((scsWrite s d off v q).getD plain)
  | .ictl => .ok ((ictlWrite s off v).getD (icDo (fun s => plainWrite s p off v) s))
  | .icp n => .ok ((icpWrite s n (privReq q) off v).getD plain)
  | .scac =>
    .ok (if off = 0x040 then (if fld v 0 4 = 0 then s else scStart s v)
      else if 0x080 ≤ off ∧ off < 0x100 ∧ off % 8 = 4 then partWrite s off v
      else plain)
  | .sram => .ok (if 0x040 ≤ off ∧ off < 0x050 then srWrite s off v else plain)
  | .dmc => .ok ((dmcWrite s off v).getD plain)
  | .wcc n => .ok (if off = 0x040 then pmuCtrl s n v else plain)
  | .nc k => .ok (if 0x044 ≤ off ∧ off < 0x064 then plainWrite (cmSettle s k) p off v else plain)
  | .nce e => .ok ((nceWrite s e off v).getD plain)
  | .ncm m => .ok ((ncmWrite s m off v env.words).getD plain)
  | .pb b => .ok (if off = 0x040 then bankWrite s b v else plain)
  | .pc n => .ok ((pcWrite s n off v).getD plain)
  | .pce c => .ok ((pceWrite s c off v).getD plain)
  | .eth m => if off = 0x0A0 then ethCtl s m v env else .ok ((ethWrite s m off v env).getD plain)
  | .tylw => .ok ((tylwWrite s off v).getD plain)
  | _ => .ok plain

/-- A write that passes every check is applied; a register write can make a napping core's priority presented. -/
def putReg (s : State) (q : RegReq) (p : Page) (off : Nat) (v : Reg32) (env : MemEnv) : Except State State :=
  (if off < 0x040 then .ok (headerWrite s p off v) else blockWrite s q off v env p).map napWake

/-! ## The bridge (R120) -/

/-- An access waits: for its credit, or in the bridge where it is `inside`. -/
def stallReq (s : State) (q : RegReq) : State := { s with fab := { s.fab with stalled := s.fab.stalled ++ [q] } }

/-- A page as an access of the present tick finds it: what the port cells that it tells of or owns engines for do before is done (R467). -/
def pageNow (s : State) : Page → State
  | .pc n => cellAt s n s.dt
  | .nce e => cellsAt s e s.dt
  | _ => s

/-- An access to an awake block: unimplemented offsets, BUSY, the read, or the write with its rejections. A write that has to wait
stands in the bridge. -/
def serveReg (s : State) (q : RegReq) (p : Page) (env : MemEnv) : State × Option Resp :=
  let off := q.addr % 0x1000
  let s := pageNow s p
  if (regInfo p off).isNone then (s, some {})
  else match q.data with
    | none =>
      if blkBusy s p && decide (0x040 ≤ off) then (s, some {})
      else (readEffect s q p off, some { data := (regView s q p off).toNat })
    | some v =>
      match writeReject s q p off v with
      | some c => (napWake (rejectWrite s q p off v c), some {})
      | none =>
        match putReg s q p off v env with
        | .ok t => (t, some {})
        | .error t => (stallReq t { q with inside := true }, none)

/-- The owner check (R120), and that of the WC pages (R257). -/
def ownerFails (s : State) (q : RegReq) (p : Page) : Bool :=
  !privReq q && (q.attr.did ≠ owner s p || (match p with
    | .wc _ => decide (0x040 ≤ q.addr % 0x1000)
    | _ => false))

/-- The checks that a request to the register region meets at ingress, but for the credit (R107, R120, R590). -/
def regIngress (s : State) (q : RegReq) : Option Kind :=
  let admitted := match q.m with
    | .core _ | .scu => true
    | _ => false
  match regionOf s q.addr with
  | some (.page _) | some .tylPages => if !admitted then some .master else if gated s q.attr.did then some .wrongOwner else none
  | _ => some .unmapped

/-- Checks of a request to the register region that come before its page is known to be awake. -/
def regDeny (s : State) (q : RegReq) : Option Kind :=
  match regIngress s q with
  | some k => some k
  | none =>
    if !q.single ∨ q.addr % 4 ≠ 0 then some .size
    else match regionOf s q.addr with
      | some (.page p) => if ownerFails s q p then some .wrongOwner else none
      | _ => none

/-- The operation of a register request. -/
def regOpOf (q : RegReq) : ReqOp := if q.data.isSome then .write else .read

/-- An access gets an error response and a record in the fabric error log (R123). -/
def regRefuse (s : State) (q : RegReq) (k : Kind) : State × Option Resp :=
  (ferrLog s q.m q.attr (regOpOf q) q.addr k, some { err := true })

/-- An access to the register region (R120 to R122): its answer, or none where it waits. -/
def regAccess (s : State) (q : RegReq) (env : MemEnv) : State × Option Resp :=
  match regDeny s q with
  | some k => regRefuse s q k
  | none =>
    match regionOf s q.addr with
    | some (.page p) =>
      if decide (0x040 ≤ q.addr % 0x1000) && pageAsleep s p then
        (if rdB s p 0x008 2 then (stallReq (autoWake s) { q with inside := true }, none) else regRefuse s q .asleep)
      else serveReg s q p env
    | _ => tylAccess s q

/-- An earlier access keeps one of the same source from coming to the bridge or, at one page, from being served (R31). -/
def regBlocks (q u : RegReq) : Bool :=
  decide (u.m = q.m) && decide (u.attr.did = q.attr.did) && decide (u.attr.pid = q.attr.pid)
    && (!u.inside || decide (u.addr / 0x1000 = q.addr / 0x1000))

/-- An access that passes the other checks of ingress waits for a credit of its DID, and behind earlier ones of its source (R31, R536). -/
def regWaits (s : State) (q : RegReq) (pre : List RegReq) : Bool :=
  (regIngress s q).isNone && (!credFree s q.attr.did || pre.any (regBlocks q))

/-- An access comes to ingress (R590): it waits there, or goes on to the bridge. -/
def regArrive (s : State) (q : RegReq) (env : MemEnv) : State × Option Resp :=
  if regWaits s q s.fab.stalled then (stallReq s q, none) else regAccess s q env

/-! ## Commands over the bridge -/

/-- The answer to an access that had waited goes to its master; one of an earlier generation is discarded and counted (R29). -/
def giveAnswer (s : State) (q : RegReq) (r : Resp) : State :=
  let s := creditBack s q.attr.did (regOld s q)
  if !fresh s q.m q.attr then lateCount s q.m q.attr.did
  else if q.direct then answer s r.err r.data
  else match q.m, q.data with
    | .core n, none => coreAnswer s n { addr := q.addr, len := 4, data := r.data, err := r.err }
    | .core n, some _ => if r.err then holdStoreBus s n q.lvl q.addr else s
    | _, _ => answer s r.err r.data

/-- The request that master `m` (a core at level `lvl`, which asks for class `cls`) makes at a byte address. (DESIGN CHOICE, log 77)
(DEDUCED, log 78) -/
def regReq (s : State) (m : Master) (lvl : Fin 4) (cls : Cls) (a : Nat) (single : Bool) (data : Option Reg32) : RegReq :=
  { m := m, attr := attrOf s m lvl cls 0, lvl := lvl, addr := a, single := single, data := data, direct := true }

/-- A command that is one register access; a core asks for the class of `env`. While the clocks stand there is none. -/
def regCmd (m : Master) (lvl : Fin 4) (a : Nat) (single : Bool) (data : Option Reg32) (env : MemEnv) (s : State) : Result :=
  .next (if !clocksOn s then s
    else match regArrive s (regReq s m lvl env.cls a single data) env with
      | (t, some r) => answer t r.err r.data
      | (t, none) => t)

/-- A write of a register of a page, as a command; a core's has class LL. (DESIGN CHOICE, log 77) -/
def pageWrite (m : Master) (lvl : Fin 4) (p : Page) (off : Nat) (v : Reg32) : State → Result :=
  regCmd m lvl (pageAddr p + off) true (some v) {}

/-- A read of a register of a page, as a command; a core's has class LL. (DESIGN CHOICE, log 77) -/
def pageRead (m : Master) (lvl : Fin 4) (p : Page) (off : Nat) : State → Result :=
  regCmd m lvl (pageAddr p + off) true none {}

/-- REGISTER_READ (R120). -/
def execRegisterRead (m : Master) (lvl : Fin 4) (a : BitVec 48) (single : Bool) (cls : Cls) (s : State) : Result :=
  regCmd m lvl a.toNat single none { cls := cls } s

/-- REGISTER_WRITE (R120). -/
def execRegisterWrite (m : Master) (lvl : Fin 4) (a : BitVec 48) (single : Bool) (v : Reg32) (env : MemEnv) (s : State) : Result :=
  regCmd m lvl a.toNat single (some v) env s

/-- An access that waits, without what is behind it in the bridge. -/
def dropStalled (s : State) (q : RegReq) : State := { s with fab := { s.fab with stalled := s.fab.stalled.erase q } }

/-- An access that waits is served again: it is answered, or waits on in its place among the others (R31). -/
def serveAgain (s : State) (q : RegReq) (f : State → State × Option Resp) : State :=
  match f (dropStalled s q) with
  | (t, some y) => giveAnswer t q y
  | (t, none) =>
    let l := t.fab.stalled
    let i := s.fab.stalled.findIdx fun x => x = q
    if l.length = s.fab.stalled.length then { t with fab := { t.fab with stalled := l.dropLast.take i ++ l.getLast?.toList ++ l.dropLast.drop i } } else t

/-- The page of a request is asleep. -/
def reqAsleep (s : State) (q : RegReq) : Bool := (pageOfAddr q.addr).any (pageAsleep s)

/-- The first access that waits at ingress and can enter, and what is before it. -/
def nextReg (s : State) : List RegReq → List RegReq → Option RegReq
  | _, [] => none
  | pre, q :: r => if q.inside || regWaits s q pre then nextReg s (q :: pre) r else some q

/-- A request of a master to the register region, as the bridge takes it (R120). -/
def regOf (s : State) (r : FReq) (lvl : Fin 4) : RegReq :=
  regReq s r.master lvl r.cls r.addr (r.len = 4 && (r.op = .read || (r.op = .write && r.be % 16 = 15)))
    (if r.op = .write then some (BitVec.ofNat 32 r.data) else none)

/-- FABRIC_INGRESS (R590): a new request of a master, or one that stands in its master's queue, comes to ingress; one to the register
region goes on to the bridge. -/
def execFabricIngress (x : Ingress) (s : State) : Result :=
  .next (match x with
    | .new r lvl =>
      if !oneBlock r then s
      else match regionOf s r.addr with
        | some (.page _) | some .tylPages =>
          if !clocksOn s then s
          else match regArrive s (regOf s r lvl) {} with
            | (t, some y) => answer t y.err y.data
            | (t, none) => t
        | _ => ingressOf (postReq s r lvl .plain) s.fab.nextId
    | .posted id => ingressOf s id
    | .reg env =>
      match nextReg s [] s.fab.stalled with
      | some q => serveAgain s q fun s => regAccess s q env
      | none => s)

/-- AUTO_WAKE_DONE (R120, R122): the first access whose block is awake proceeds. -/
def execAutoWakeDone (env : MemEnv) (s : State) : Result :=
  .next (match s.fab.stalled.find? fun q => q.inside && !reqAsleep s q with
    | some q => match pageOfAddr q.addr with
      | some p => serveAgain s q fun s => serveReg s q p env
      | none => s
    | none => s)

/-- AUTO_WAKE_TIMEOUT (R120, R121): the first access whose block still sleeps gets an error response. -/
def execAutoWakeTimeout (s : State) : Result :=
  .next (match s.fab.stalled.find? fun q => q.inside && reqAsleep s q with
    | some q => match pageOfAddr q.addr with
      | some p =>
        let s := ferrLog (dropStalled s q) q.m q.attr (regOpOf q) q.addr .wakeTimeout
        giveAnswer (recordErr s p 0x06 contained q.attr (q.addr % 0x1000) (owner s p)) q { err := true }
      | none => s
    | none => s)

/-! ## Soft reset (R97, R103) -/

/-- Requests that a block has issued and that are not answered, those that wait for a credit among them. (DESIGN CHOICE, log 26) -/
def outstanding (s : State) (p : Page) : Bool :=
  s.fab.txns.any fun t => slicePage t.req.master = some p && (holdsCredit t || t.status = .refused || t.status = .waitCredit)

/-- The resets of a block beside its page. (DESIGN CHOICE, log 26) -/
def softReset (s : State) (p : Page) : State :=
  match p with
  | .nce e => resetEngine s e
  | .ncm m => updMov (movStale s m) m fun _ => {}
  | .pc n => resetCell s n
  | .pce c => releaseLanes { pceDown s c 0 with pcies := SMap.set {} (pceDown s c 0).pcies c {} } p
  | .eth m => { ethStop s m with macs := SMap.set {} (ethStop s m).macs m {} }
  | _ => s

/-- SOFT_RESET_DONE (R97, R103): nothing of the block is outstanding; every register of the page but OWNER, GEN and LOCK (R117) is
reset, its crossings are flushed, and its line falls. -/
def execSoftResetDone (p : Page) (s : State) : Result :=
  .next (if !clocksOn s ∨ !blkBusy s p ∨ s.fab.lost.contains (pageAddr p) ∨ outstanding s p then s
    else
      let s := softReset s p
      flushCrossings (withLine p (fun t => wrB (resetPage t p fun o => o = 0x030 || o = 0x034) p 0x008 3 (rdB t p 0x008 3)) s) p)

/-- SRST_TIMEOUT (R103): 50 µs are over and requests are outstanding; the block stays stopped, and code 0x05 is raised to its owner.
What ERR_ADDR holds is not stated: a free value. -/
def execSrstTimeout (p : Page) (s : State) : Result :=
  .next (if !clocksOn s ∨ !blkBusy s p ∨ s.fab.lost.contains (pageAddr p) ∨ !outstanding s p then s
    else
      let f := freeVal 32 { s with fab := { s.fab with lost := pageAddr p :: s.fab.lost } }
      recContained f.2 p 0x05 f.1)

end Sys2Proof.Machine
end

