-- ==== Sys2Proof/Machine/Complete.lean ====
section
/-!
DEFINITION. Machine/Complete.lean: completions of fabric requests at their masters (R28, R29).
-/

namespace Sys2Proof.Machine

/-- What a master does with a completion it accepts. `f` are the findings on words that a mover reads next. -/
def acceptDone (s : State) (t : Txn) (f : Findings) : State :=
  match t.purp, t.req.master with
  | .frd th slot, .engine e => frdDone s e (Fin.ofNat 4 th) t slot
  | .fwr _, .engine e => fwrDone s e t
  | .mover _ i n, .mover m => movDone s m i n t f
  | .member _, _ => memberDone s t true
  | .coreLoad n, _ =>
    coreAnswer s (Fin.ofNat 24 n) { addr := t.req.addr, len := t.req.len, data := if t.err then 0 else t.rdata, err := t.err, bad := t.poison }
  | .pcie c, _ => pceDone s (Fin.ofNat 4 c) t
  | _, .core n =>
    if t.req.op = .write ∧ t.err then holdStoreBus (answer s true 0) n t.lvl t.req.addr else answer s t.err t.rdata
  | _, _ => answer s t.err t.rdata

/-- What becomes of a completion of an earlier generation (R29): it is counted, and a member's request fails. (DEDUCED, log 36)
(DEDUCED, log 73) -/
def staleDone (s : State) (t : Txn) : State :=
  match t.purp with
  | .member _ => memberDone (lateDrop s t) t false
  | _ => lateDrop s t

/-- The answer to an access that its master makes again stands until the master takes it, while it works. (DESIGN CHOICE, log 80) -/
def kept (s : State) (t : Txn) : Bool :=
  t.purp = .own && (match t.req.master with
    | .eth m => rdB s (.eth m) 0x040 0 && !blkBusy s (.eth m)
    | _ => true)

/-- A completion reaches its master: its credit returns, and it is accepted or discarded. `waited` are ticks that a mover waits at
its cluster's memory to use it. -/
def completeTxn (ok : Purpose → Bool) (id waited : Nat) (f : Findings) (s : State) : Result :=
  .next (if !clocksOn s then s
    else match completion? s id with
    | some (t, fresh) =>
      if !ok t.purp || (fresh && kept s t) then s
      else
        let s := leaveFabric s t
        if !fresh then staleDone s t
        else
          let s := match t.req.master with
            | .mover m => confTicks s (movCluster m) (m.val % 8) waited
            | _ => s
          acceptDone s t f
    | none => s)

/-- FABRIC_COMPLETION (R28, R29). -/
def execFabricCompletion (id : Nat) (s : State) : Result := completeTxn (fun _ => true) id 0 [] s

/-- FRD_COMPLETION (R346). -/
def execFrdCompletion (id : Nat) (s : State) : Result :=
  completeTxn (fun p => match p with
    | .frd _ _ => true
    | _ => false) id 0 [] s

/-- MOVER_COMPLETION (R417, R418). -/
def execMoverCompletion (id waited : Nat) (f : Findings) (s : State) : Result :=
  completeTxn (fun p => match p with
    | .mover _ _ _ => true
    | _ => false) id waited f s

end Sys2Proof.Machine
end

