-- ==== Sys2Proof/Machine/Services.lean ====
section
/-!
DEFINITION. Machine/Services.lean: the SCU service pages (R542 to R544, R547) and what SCU firmware does for them: fuses (R151),
calibration (R582), BIST runs (R577), and the bring-up of DRAM (R290, R297, R298, R160).
-/

namespace Sys2Proof.Machine

/-! ## Carrying out a command (R542, R543) -/

/-- STATUS codes of R543. -/
inductive ScsStatus where
  | ok | unknown | notPermitted | badArg | refused | timeout | version
  deriving DecidableEq, Repr

/-- The encoding of STATUS. -/
def scsCode : ScsStatus → Nat
  | .ok => 0 | .unknown => 1 | .notPermitted => 2 | .badArg => 3 | .refused => 4 | .timeout => 5 | .version => 6

/-- The command of a page that SCU firmware has yet to carry out. -/
def scsRunning (s : State) (d : Fin 64) : Option ScsRun :=
  if s.sage.phase = .done ∧ clocksOn s then (SMap.get {} s.doms d).svc.filter fun r => r.done.isNone else none

/-- The command is carried out: its STATUS and result words; words the spec gives no value are free values. (DESIGN CHOICE, log 32) -/
def scsEnd (s : State) (d : Fin 64) (st : ScsStatus) (l : List Nat) : State :=
  let r := (List.range (8 - l.length)).foldl (fun (a : State × List Nat) _ => let f := freeVal 32 a.1; (f.2, a.2 ++ [f.1])) (s, l)
  updDom r.1 d fun x => { x with svc := x.svc.map fun c => { c with done := some (scsCode st, r.2) } }

/-- Argument word n of a page. -/
def scsArg (s : State) (d : Fin 64) (n : Nat) : Nat := (rd s (.scs d) (0x060 + 4 * n)).toNat

/-- SCU firmware carries out the running command if its FUNC is `func`: a caller that is not admitted gets NOT_PERMITTED; `admin`
functions are for level H of DID 0. (DESIGN CHOICE, log 32) -/
def scsRun (func : Nat) (admin : Bool) (d : Fin 64) (s : State) (f : State → State) : Result :=
  .next (match scsRunning s d with
    | some r =>
      if r.func ≠ func then s
      else if admin ∧ !(r.attr.did = 0 ∧ r.lvl = 2 ∧ !r.scu) then scsEnd s d .notPermitted []
      else f s
    | none => s)

/-- VER of a session (R544). -/
def scsVer (s : State) (d : Fin 64) : Nat := rdF s (.scs d) 0x044 24 8

/-- The version that HELLO agrees, none where the ranges share none (R544). -/
def scsAgree (s : State) (d : Fin 64) : Option Nat :=
  let a := scsArg s d 0
  let top := min (a / 256 % 256) (min 2 (rdF s .lcyc 0x058 8 8))
  let low := max (a % 256) (max 1 (rdF s .lcyc 0x058 0 8))
  if low ≤ top then some top else none

/-- HELLO (R543, R544). -/
def execHello (d : Fin 64) (s : State) : Result := scsRun 0x01 false d s fun s => scsEnd s d .ok [(scsAgree s d).getD 1]

/-- SCS_INFO (R543). -/
def execScsInfo (d : Fin 64) (s : State) : Result :=
  scsRun 0x02 false d s fun s => scsEnd s d .ok [rdF s .lcyc 0x058 0 16, owner s (.scs d) + genOf s (.scs d) * 2 ^ 8]

/-- NOTICES (R543). -/
def execNotices (d : Fin 64) (s : State) : Result :=
  scsRun 0x03 false d s fun s =>
    if scsVer s d < 2 then scsEnd s d .version []
    else scsEnd (updDom s d fun r => { r with notice := false }) d .ok [(SMap.get {} s.doms d).notice.toNat]

/-- DRAM_STATE (R543, R314). -/
def execDramState (d : Fin 64) (s : State) : Result :=
  scsRun 0x10 false d s fun s =>
    scsEnd s d .ok [(rdB s .dmc 0x040 0).toNat + 2 * (rdB s .dmc 0x040 2).toNat + 4 * (rdB s .dmc 0x040 1).toNat]

/-! ## Fuse operations (R151) -/

/-- The lifecycle state in force. -/
def lcNow (s : State) : Nat := rdF s .lcyc 0x040 0 4

/-- Both copies of the array burnt alike. (DESIGN CHOICE, log 22) -/
def burn (s : State) (f : Fuses → Fuses) : State := updSage s fun g => { g with fuses := f g.fuses, fuses2 := f g.fuses2 }

/-- FUSE_KEY: the 48 bytes of KH in ARG0 to ARG7 and RSP0 to RSP3, the slot in ARG0. (DESIGN CHOICE, log 22) (DESIGN CHOICE, log 31) -/
def execFuseKey (d : Fin 64) (s : State) : Result :=
  scsRun 0x20 true d s fun s =>
    let k := scsArg s d 0
    let kh := (List.range 12).foldl (fun a i => a + scsArg s d i * 2 ^ (32 * i)) 0
    if 4 ≤ k then scsEnd s d .badArg []
    else if 2 ≤ lcNow s ∨ bitN s.sage.fuses.prog k then scsEnd s d .refused []
    else scsEnd (burn s fun f => { f with prog := f.prog ||| 2 ^ k, hash := SMap.set 0 f.hash k kh }) d .ok []

/-- FUSE_REVOKE: key slots 0 to 3, or the test key, 4. -/
def execFuseRevoke (d : Fin 64) (s : State) : Result :=
  scsRun 0x21 true d s fun s =>
    let k := scsArg s d 0
    let g := fun (f : Fuses) => { f with rev := f.rev ||| 2 ^ k }
    if 5 ≤ k then scsEnd s d .badArg []
    else if 4 ≤ lcNow s ∨ (lcNow s ≠ 0 ∧ liveKeys (g s.sage.fuses) = 0) then scsEnd s d .refused []
    else scsEnd (burn s g) d .ok []

/-- SECVER_MIN bits burnt from the lowest until `n` are. -/
def raiseSecver (n : Nat) (f : Fuses) : Fuses :=
  (List.range 127).foldl (fun f i => if secverMin f < n then { f with secver := f.secver ||| 2 ^ i } else f) f

/-- FUSE_SECVER. -/
def execFuseSecver (d : Fin 64) (s : State) : Result :=
  scsRun 0x22 true d s fun s =>
    let n := scsArg s d 0
    let cur := rdF s .lcyc (if rdB s .lcyc 0x040 8 then 0x048 else 0x044) 8 7
    if lcNow s = 0 ∨ 4 ≤ lcNow s ∨ cur < n ∨ 127 < n then scsEnd s d .refused []
    else scsEnd (burn s (raiseSecver n)) d .ok []

/-! ## Calibration services (R582) -/

/-- Attributes of the SCU's own requests (R26). -/
def scuAttr (s : State) : Attr := attrOf s .scu 0 1 0

/-- The bytes of a range lie in SRAM banks 0 to 55 or in DRAM. -/
def calAddrOk (s : State) (a n : Nat) : Bool :=
  (decide (sramBase ≤ a) && decide (a + n ≤ 0x1E00000)) || (inDram s (a / 64) && inDram s ((a + n - 1) / 64))

/-- TYPE, slot, offset, length and address of a calibration service; none where an argument is bad. -/
def calArgs (s : State) (d : Fin 64) : Option (Nat × Nat × Nat × Nat × Nat × Nat) :=
  let t := scsArg s d 0 % 2 ^ 16
  let off := scsArg s d 1 % 2 ^ 16
  let len := scsArg s d 1 / 2 ^ 16
  let a := scsArg s d 2 + scsArg s d 3 % 2 ^ 16 * 2 ^ 32
  match calSlot t with
  | some (base, size) =>
    if 1 ≤ len ∧ len ≤ 1024 ∧ off + len ≤ size - 12 ∧ calAddrOk s a len then some (t, base, size, off, len, a) else none
  | none => none

/-- CAL_READ. -/
def execCalRead (d : Fin 64) (env : MemEnv) (s : State) : Result :=
  scsRun 0x30 true d s fun s =>
    match calArgs s d with
    | none => scsEnd s d .badArg []
    | some (_, base, size, off, len, a) =>
      match busWrite s .scu (scuAttr s) a (epBytes s (base + 8 + off) len) env with
      | .wait s => s
      | .err s _ => scsEnd s d .badArg []
      | .ok s _ =>
        let w0 := calLen s base + (epByte s (base + 4)).toNat * 2 ^ 16 + (epByte s (base + 5)).toNat * 2 ^ 24
        let w1 := ofBytes (epBytes s (base + 6) 2) + (calCrcOk s base size).toNat * 2 ^ 16
        scsEnd s d .ok [w0, w1]

/-- A record cut off while it is written: its CRC does not hold. -/
def calCut (s : State) (base : Nat) : State :=
  let a := base + 8 + calLen s base
  epWrite s a ((epBytes s a 4).map fun b => ~~~b)

/-- CAL_WRITE; `cut` says that a module reset or a loss of VIN comes while the record is written. -/
def execCalWrite (d : Fin 64) (env : MemEnv) (cut : Bool) (s : State) : Result :=
  scsRun 0x31 true d s fun s =>
    match calArgs s d with
    | none => scsEnd s d .badArg []
    | some (t, base, size, off, len, a) =>
      if t = 0 then scsEnd s d .refused []
      else match busRead s .scu (scuAttr s) a len env with
        | .wait s => s
        | .err s _ => scsEnd s d .badArg []
        | .ok s l =>
          let s := calPut s base size off l (some 1)
          if cut then calCut s base else scsEnd s d .ok []

/-! ## BIST_RUN, unknown functions, the end of a command -/

/-- BIST_RUN (R577). -/
def execBistRun (d : Fin 64) (env : MemEnv) (s : State) : Result :=
  scsRun 0x40 true d s fun s =>
    let b := bistOf (BitVec.ofNat 32 (scsArg s d 0))
    if !bistListed b then scsEnd s d .badArg []
    else match bistBegin s b env with
      | .error s => s
      | .ok (s, true) => scsEnd s d .ok []
      | .ok (s, false) => scsEnd s d .refused []

/-- The functions that R543 lists. -/
def scsListed : List Nat := [0x01, 0x02, 0x03, 0x10, 0x20, 0x21, 0x22, 0x30, 0x31, 0x40]

/-- SCS_UNKNOWN_FUNCTION (R543). -/
def execScsUnknownFunction (d : Fin 64) (s : State) : Result :=
  .next (match scsRunning s d with
    | some r => if scsListed.contains r.func then s else scsEnd s d .unknown []
    | none => s)

/-- A command ends: STATUS and SEQ stand, BUSY clears, IRQ_STAT bit 0 is set. -/
def scsClose (s : State) (d : Fin 64) (seq st : Nat) : State :=
  let v := setFld (setFld (setFld (rd s (.scs d) 0x044) 0 1 0) 8 8 st) 16 8 seq
  setIrq (updDom (wr s (.scs d) 0x044 v) d fun r => { r with svc := none }) (.scs d) 1

/-- SCS_RESPONSE (R542, R544): the result is written; an accepted HELLO sets VER. -/
def execScsResponse (d : Fin 64) (s : State) : Result :=
  .next (match (SMap.get {} s.doms d).svc with
    | some r => match r.done with
      | some (st, l) =>
        let s := (l.zipIdx).foldl (fun s e => wr s (.scs d) (0x080 + 4 * e.2) (BitVec.ofNat 32 e.1)) s
        let s :=
          if r.func = 0x01 ∧ st = 0 then
            let t := wrF s (.scs d) 0x044 24 8 ((scsAgree s d).getD 1)
            if scsAgree s d = none then recInternal t (.scs d) 0x81 r.func else t
          else s
        scsClose s d r.seq st
      | none => s
    | none => s)

/-- SCS_TIMEOUT (R542): the page ends the command itself. -/
def execScsTimeout (d : Fin 64) (s : State) : Result :=
  .next (match (SMap.get {} s.doms d).svc with
    | some r => if clocksOn s then scsClose (recInternal s (.scs d) 0x82 r.func) d r.seq (scsCode .timeout) else s
    | none => s)

/-! ## DRAM bring-up (R290, R297, R298, R160) -/

/-- A physical rank stays unmapped at bring-up: its channel failed training or its retirement byte is not good. -/
def rankBad (s : State) (failed : BitVec 18) (pr : Nat) : Bool := failed.getLsbD (pr / 2) || rankByte s pr ≠ 0

/-- Step 3: a logical rank goes to its own physical rank or to the lowest FREE spare; the flag says that it could be mapped.
(DESIGN CHOICE, log 33) -/
def mapRank (failed : BitVec 18) (r : State × Bool) (l : Nat) : State × Bool :=
  if !rankBad r.1 failed l then (wrF r.1 .rmap (0x040 + 4 * l) 0 6 (l / 2 + 0x20 * (l % 2)), r.2)
  else
    let s := wrB r.1 .rmap 0x0C8 l true
    match (List.range 4).find? fun sp => spareState s sp = 1 with
    | some sp => (setSpare (wrF s .rmap (0x040 + 4 * l) 0 6 (sparePr sp / 2 + 0x20 * (sp % 2))) sp 2, r.2)
    | none => (s, false)

/-- SCU firmware reports DRAM in service (R543). -/
def reportDram (s : State) : State :=
  (List.finRange 64).foldl (fun s d =>
    let st := domState s (owner s (.scs d))
    if st = 1 ∨ st = 2 then setIrq (updDom s d fun r => { r with notice := true }) (.scs d) 2 else s) s

/-- DRAM holds nothing, and scrub starts (R307). -/
def clearDram (s : State) : State := { s with dram := { s.dram with mem := [], bad := [], scrubAt := s.dt } }

/-- The request that enables the DRAM group stands on the VR link. -/
def dramAsked (s : State) : Bool := (s.pwr.vr.toList ++ s.pwr.vrq).any fun q => decide (q.why = .dram)

/-- Steps 2 to 5 of bring-up (R297, R298), with the channels that three attempts do not train (R317). (DESIGN CHOICE, log 33) -/
def bringUp (s : State) (failed : BitVec 18) : State :=
  let s := (List.finRange 18).foldl (fun s (c : Fin 18) =>
    if failed.getLsbD c then recordErr (wrF s (.dch c) 0x040 0 2 3) (.dch c) 0x83 contained (pageAttr s (.dch c)) 0 0
    else channelUp s c) s
  let s := (List.range 4).foldl (fun s sp => setSpare s sp (if rankBad s failed (sparePr sp) then 3 else 1)) s
  let r := (List.range 32).foldl (mapRank failed) (s, true)
  let s := clearDram r.1
  if !r.2 then recUnstated (wrB s .dmc 0x040 1 true) .dmc fatal
  else reportDram (setIrq (restoreMode (wrB s .dmc 0x040 0 true)) .dmc 1)

/-- DRAM_BRINGUP (R290, R297, R298): SCU firmware enables the DRAM group over the VR link; once that is acknowledged the other steps follow.
(DESIGN CHOICE, log 33) -/
def execDramBringup (failed : BitVec 18) (s : State) : Result :=
  .next (if s.sage.phase ≠ .done ∨ !clocksOn s ∨ rdB s .dmc 0x040 0 ∨ rdB s .dmc 0x040 1 then s
    else if ackedLevel s 5 = 180 then bringUp s failed
    else if dramAsked s then s
    else vrSend s { typ := 2, rail := 5, value := 180, why := .dram })

end Sys2Proof.Machine
end

