-- ==== Sys2Proof/Machine/WinovarXlate.lean ====
section
/-!
DEFINITION. Machine/WinovarXlate.lean: address translation of a Winovar core (R186 to R192), and the fetch of an
instruction (R170, R175).
-/

namespace Sys2Proof.Machine

/-- A step of an access: done with a value, an exception, or waiting. -/
inductive XR (α : Type) where
  | ok (s : State) (v : α)
  | exc (s : State) (e : Exc)
  | wait (s : State)

/-- One step after another. -/
def XR.bind {α β : Type} (x : XR α) (f : State → α → XR β) : XR β :=
  match x with
  | .ok s v => f s v
  | .exc s e => .exc s e
  | .wait s => .wait s

/-- The kinds of access that translation tells apart (R188): atomics count as stores (R210). -/
inductive Acc where
  | read | write | fetch
  deriving DecidableEq, Repr

/-- The codes of translation faults (R174, R190): stage 1 or 2. -/
def xlCode (st2 : Bool) : Acc → Nat
  | .fetch => if st2 then 0x09 else 0x06
  | .read => if st2 then 0x0A else 0x07
  | .write => if st2 then 0x0B else 0x08

/-- A table entry found by a walk: its output address, itself, and its level (R188). -/
structure Leaf where
  oa  : Nat
  e   : Nat
  lvl : Nat
  deriving DecidableEq, Repr

/-- A table entry is read through the L2 in one access of 8 bytes (R188, R191): the entry, or the FSC of the fault. -/
def readEntry (s : State) (n : Fin 24) (pe : Nat) (env : MemEnv) : XR (Nat ⊕ Nat) :=
  if !inMem s pe then .ok s (.inr 8)
  else match obtain s n (coreAttr s n env.cls) false .read (pe / 64) env with
    | .wait s => .wait s
    | .err s => .ok s (.inr 8)
    | .ok s x _ => if x.poison then .ok s (.inr 9) else .ok s (.inl (x.data.toNat / 2 ^ (8 * (pe % 64)) % 2 ^ 64))

/-- The reserved bits of an entry (R187): 58 to 48, and 4 and 8 to 11 of a stage-2 leaf. In a table entry bits 11:2 are
ignored. -/
def entryReserved (st2 : Bool) (table : Bool) (e : Nat) : Bool :=
  bitsN e 48 11 ≠ 0 || (st2 && !table && (bitsN e 4 1 ≠ 0 || bitsN e 8 4 ≠ 0))

/-- What an entry read at a level means: the next table, a leaf, or the FSC of the fault (R188). -/
inductive Entry where
  | table (a : Nat)
  | leaf (l : Leaf)
  | bad (fsc : Nat)

/-- The checks of an entry in the order of R188. (DEDUCED, log 44) -/
def readLeaf (st2 : Bool) (addr lvl e : Nat) : Entry :=
  let table := decide (lvl < 3) && bitsN e 1 1 = 1
  if bitsN e 0 1 = 0 then .bad 2
  else if entryReserved st2 table e then .bad 3
  else if table then .table (bitsN e 12 36 * 4096)
  else if lvl = 0 ∨ (lvl = 3 ∧ bitsN e 1 1 = 0) ∨ bitsN e 2 2 = 3 then .bad 3
  else
    let sz := 12 + 9 * (3 - lvl)
    if bitsN e 12 (sz - 12) ≠ 0 then .bad 4
    else .leaf { oa := bitsN e sz (48 - sz) * 2 ^ sz + addr % 2 ^ sz, e := e, lvl := lvl }

/-- A table that a walk found enters the walk cache, whose size R192 does not give. (DESIGN CHOICE, log 40) -/
def walkPut (s : State) (n : Fin 24) (x : WalkEnt) : State :=
  updCore s n fun c => { c with walks := x :: c.walks.filter fun y => decide (y ≠ x) }

/-- The bits of an address above those that index the table of a level (R187). -/
def walkPre (lvl addr : Nat) : Nat := addr / 2 ^ (48 - 9 * lvl)

/-- An entry of the walk cache serves a walk of the same regime, DID, ASID and stage (R192). -/
def walkMatch (x : WalkEnt) (addr : Nat) (y : WalkEnt) : Bool :=
  y.hyp = x.hyp && y.did = x.did && y.asid = x.asid && y.st2 = x.st2 && y.comb = x.comb && y.pre = walkPre y.lvl addr

/-- Where a walk of an address begins: at the deepest table that the walk cache holds for it, or at the root; the entry may have been replaced
meanwhile, which is not fixed. (DESIGN CHOICE, log 40) -/
def walkStart (s : State) (n : Fin 24) (x : WalkEnt) (addr : Nat) : WalkEnt × State :=
  match [3, 2, 1].findSome? fun l => (core s n).walks.find? fun y => y.lvl = l && walkMatch x addr y with
  | some y =>
    let r := freeVal 1 s
    if r.1 = 1 then (x, updCore r.2 n fun c => { c with walks := c.walks.erase y }) else (y, r.2)
  | none => (x, s)

/-- The walk of a table from level `3 - k` (R188): `pa` turns the address of an entry into a physical one. The result is a leaf, or the FSC and
level of the fault. -/
def walkFrom (n : Fin 24) (x : WalkEnt) (addr : Nat) (pa : State → Nat → XR Nat) (env : MemEnv) : Nat → Nat → State → XR (Leaf ⊕ (Nat × Nat))
  | k, tbl, s =>
    let lvl := 3 - k
    (pa s (tbl + 8 * bitsN addr (39 - 9 * lvl) 9)).bind fun s pe =>
    (readEntry s n pe env).bind fun s r =>
    match r with
    | .inr fsc => .ok s (.inr (fsc, lvl))
    | .inl e =>
      match readLeaf x.st2 addr lvl e with
      | .bad fsc => .ok s (.inr (fsc, lvl))
      | .leaf l => .ok s (.inl l)
      | .table t =>
        match k with
        | 0 => .ok s (.inr (3, lvl))
        | k + 1 => walkFrom n x addr pa env k t (walkPut s n { x with lvl := lvl + 1, pre := walkPre (lvl + 1) addr, tbl := t })

/-- The walk of an address: `x` names the regime and the root. -/
def walk (s : State) (n : Fin 24) (x : WalkEnt) (addr : Nat) (pa : State → Nat → XR Nat) (env : MemEnv) : XR (Leaf ⊕ (Nat × Nat)) :=
  let b := walkStart s n x addr
  walkFrom n x addr pa env (3 - b.1.lvl) b.1.tbl b.2

/-- check1 of R189: FSC of the first rule that fails. In the H regime U is not checked. -/
def check1 (lvl : Nat) (acc : Acc) (e : Nat) : Option Nat :=
  if lvl = 0 ∧ bitsN e 5 1 = 0 then some 5
  else if acc = .write ∧ bitsN e 6 1 = 0 then some 5
  else if acc = .fetch ∧ bitsN e (if lvl = 0 then 7 else 8) 1 = 0 then some 5
  else if bitsN e 9 1 = 0 then some 6
  else if acc = .write ∧ bitsN e 10 1 = 0 then some 7
  else none

/-- check2 of R189. -/
def check2 (acc : Acc) (e : Nat) : Option Nat :=
  if bitsN e (if acc = .fetch then 7 else 5) 1 = 0 then some 5
  else if acc = .write ∧ bitsN e 6 1 = 0 then some 5
  else none

/-- A stage-2 fault (R190): EGPA is the IPA; for a stage-1 table address S2W is 1 and the read counts as a load. -/
def fault2 (acc : Acc) (ea ipa fsc lvl : Nat) (s2w : Bool) : Exc :=
  { code := xlCode true (if s2w then .read else acc), eaddr := BitVec.ofNat 64 ea, fsc := fsc, lvl := lvl, s2w := s2w, egpa := some (ipa % 2 ^ 48) }

/-- A stage-1 fault (R190). -/
def fault1 (acc : Acc) (ea fsc lvl : Nat) : Exc := { code := xlCode false acc, eaddr := BitVec.ofNat 64 ea, fsc := fsc, lvl := lvl }

/-- The root of a base register (R186). -/
def rootOf (v : Word64) : Nat := fld v 12 36 * 4096

/-- Stage 2 of an IPA (R188, R189). -/
def stage2 (s : State) (n : Fin 24) (acc : Acc) (ea ipa : Nat) (s2w : Bool) (env : MemEnv) : XR Leaf :=
  let g := sysr s n 0x808
  let x : WalkEnt := { hyp := false, did := fld g 48 6, asid := 0, st2 := true, comb := false, lvl := 0, pre := 0, tbl := rootOf g }
  (walk s n x ipa (fun s pe => .ok s pe) env).bind fun s r =>
  match r with
  | .inr (fsc, lvl) => .exc s (fault2 acc ea ipa fsc lvl s2w)
  | .inl l => match check2 (if s2w then .read else acc) l.e with
    | some fsc => .exc s (fault2 acc ea ipa fsc l.lvl s2w)
    | none => .ok s l

/-- The type that an address allows (R42, R188): 2 cacheable for DRAM and on-chip SRAM, 0 device elsewhere. -/
def fixedType (s : State) (pa : Nat) : Nat := if inMem s pa then 2 else 0

/-- A translation: the physical address, the final type, and whether a walk was made. -/
structure Xlat where
  pa     : Nat
  ty     : Nat
  walked : Bool := false
  deriving DecidableEq, Repr

/-- The type an entry gives. -/
def entryType (e : Nat) : Nat := bitsN e 2 2

/-- A TLB entry serves an address of the present regime, DID, ASID and enables (R192). -/
def tlbMatch (hyp s1 s2 : Bool) (did asid va : Nat) (t : TlbEnt) : Bool :=
  t.hyp = hyp && t.did = did && (t.glob || t.asid = asid) && t.vpn = va / 4096 && t.e1.isSome = s1 && t.e2.isSome = s2

/-- A TLB entry passes the checks of an access; one that does not is walked again. -/
def tlbPasses (lvl : Nat) (acc : Acc) (t : TlbEnt) : Bool :=
  (match t.e1 with
    | some (e, _) => (check1 lvl acc e).isNone
    | none => true)
  && (match t.e2 with
    | some (e, _) => (check2 acc e).isNone
    | none => true)

/-- The type of a TLB entry's page. -/
def tlbType (s : State) (pa : Nat) (t : TlbEnt) : Nat :=
  min (fixedType s pa) (min (match t.e1 with
    | some (e, _) => entryType e
    | none => 2) (match t.e2 with
    | some (e, _) => entryType e
    | none => 2))

/-- An entry put into a TLB of `cap` entries that any may take; the oldest goes. (DESIGN CHOICE, log 40) -/
def tlbIn (cap : Nat) (l : List TlbEnt) (t : TlbEnt) : List TlbEnt := (t :: l.filter fun u => decide (u ≠ t)).take cap

/-- The set of the shared TLB that an entry belongs to: one of 256. (DESIGN CHOICE, log 40) -/
def tlbSet (t : TlbEnt) : Nat := t.vpn % 256

/-- An entry put into the shared TLB of 2,048 entries in 8 ways; the oldest of a full set goes (R192). (DESIGN CHOICE, log 40) -/
def tlbShared (l : List TlbEnt) (t : TlbEnt) : List TlbEnt :=
  let l := l.filter fun u => decide (u ≠ t)
  let set := l.filter fun u => decide (tlbSet u = tlbSet t)
  t :: (if set.length < 8 then l else match set.getLast? with
    | some v => l.erase v
    | none => l)

/-- A translation enters the instruction or the data TLB. -/
def tlbSmall (s : State) (n : Fin 24) (acc : Acc) (t : TlbEnt) : State :=
  updCore s n fun c => if acc = .fetch then { c with itlb := tlbIn 48 c.itlb t } else { c with dtlb := tlbIn 64 c.dtlb t }

/-- A translation enters the TLBs (R192). -/
def tlbPut (s : State) (n : Fin 24) (acc : Acc) (t : TlbEnt) : State :=
  tlbSmall (updCore s n fun c => { c with tlb := tlbShared c.tlb t }) n acc t

/-- The entries that an access looks up: those of the instruction or the data TLB, then the shared ones (R192). -/
def tlbOf (s : State) (n : Fin 24) (acc : Acc) : List TlbEnt :=
  (if acc = .fetch then (core s n).itlb else (core s n).dtlb) ++ (core s n).tlb

/-- An entry that is in no TLB of the core any more. -/
def tlbDrop (s : State) (n : Fin 24) (t : TlbEnt) : State :=
  updCore s n fun c => { c with itlb := c.itlb.erase t, dtlb := c.dtlb.erase t, tlb := c.tlb.erase t }

/-- Stage 1 of an address, with its check: `x` names the regime, whose tables are physical unless stage 2 is on (R188). -/
def stage1 (s : State) (n : Fin 24) (lvl : Nat) (acc : Acc) (va : Nat) (x : WalkEnt) (env : MemEnv) : XR Leaf :=
  let pa := fun (s : State) (pe : Nat) => if x.comb then (stage2 s n acc va pe true env).bind (fun s l => .ok s l.oa) else XR.ok s pe
  (walk s n x va pa env).bind fun s r =>
  match r with
  | .inr (fsc, l) => .exc s (fault1 acc va fsc l)
  | .inl l => match check1 lvl acc l.e with
    | some fsc => .exc s (fault1 acc va fsc l.lvl)
    | none => .ok s l

/-- The walk of both stages that are enabled, entered in the TLBs. -/
def walkAll (s : State) (n : Fin 24) (lvl : Nat) (acc : Acc) (va : Nat) (hyp s1 s2 : Bool) (did asid : Nat) (env : MemEnv) : XR Xlat :=
  let x : WalkEnt := { hyp := hyp, did := did, asid := asid, st2 := false, comb := s2, lvl := 0, pre := 0,
                       tbl := rootOf (sysr s n (if hyp then 0x809 else 0x407)) }
  (if s1 then (stage1 s n lvl acc va x env).bind (fun s l => .ok s (some l)) else XR.ok s none).bind fun s l1 =>
  let ipa := match l1 with
    | some l => l.oa
    | none => va
  (if s2 then (stage2 s n acc va ipa false env).bind (fun s l => .ok s (some l)) else XR.ok s none).bind fun s l2 =>
  let pa := match l2 with
    | some l => l.oa
    | none => ipa
  let t : TlbEnt := { hyp := hyp, did := did, asid := asid, glob := (match l1 with
                        | some l => bitsN l.e 4 1 = 1
                        | none => true),
                      vpn := va / 4096, sz1 := (match l1 with
                        | some l => 12 + 9 * (3 - l.lvl)
                        | none => 12),
                      e1 := l1.map fun l => (l.e, l.lvl), ipn := ipa / 4096, e2 := l2.map fun l => (l.e, l.lvl), ppn := pa / 4096 }
  .ok (tlbPut s n acc t) { pa := pa, ty := tlbType s pa t, walked := true }

/-- Translation at the core's level (R186 to R192). A TLB entry that serves the access may have been replaced meanwhile, which
is not fixed. (DESIGN CHOICE, log 40) At F an address's bits above 47 are dropped. (DESIGN CHOICE, log 89) -/
def translate (s : State) (n : Fin 24) (va64 : Nat) (acc : Acc) (env : MemEnv) : XR Xlat :=
  let lvl := level s n
  let va := va64 % 2 ^ 48
  if lvl = 3 then .ok s { pa := va, ty := fixedType s va }
  else if va64 % 2 ^ 64 ≠ va then .exc s (fault1 acc va64 1 0)
  else
    let hyp := decide (lvl = 2)
    let s1 := bit (sysr s n (if hyp then 0x809 else 0x407)) 0
    let s2 := !hyp && bit (sysr s n 0x808) 0
    if !s1 && !s2 then .ok s { pa := va, ty := fixedType s va }
    else
      let did := if hyp then 0 else fld (sysr s n 0x808) 48 6
      let asid := if hyp then 0 else fld (sysr s n 0x40C) 0 16
      match (tlbOf s n acc).find? fun t => tlbMatch hyp s1 s2 did asid va t && tlbPasses lvl acc t with
      | some t =>
        let r := freeVal 1 s
        if r.1 = 1 then
          walkAll (tlbDrop r.2 n t) n lvl acc va hyp s1 s2 did asid env
        else
          let pa := t.ppn * 4096 + va % 4096
          .ok (tlbSmall r.2 n acc t) { pa := pa, ty := tlbType s pa t }
      | none => walkAll s n lvl acc va hyp s1 s2 did asid env

/-- The events of what a core filled ahead for a load or a fetch of some lines, by virtual address: the access that it served takes them
(R252, R256). -/
def takeServed (s : State) (n : Fin 24) (fetch : Bool) (lines : List Nat) : List Nat × State :=
  let p := fun (x : Served) => x.fetch == fetch && lines.contains x.line
  (((core s n).served.filter p).flatMap Served.evs,
   if (core s n).served.any p then updCore s n fun c => { c with served := c.served.filter fun x => !p x } else s)

/-- What filling a line ahead met, kept for the access that it serves (R252, R256). -/
def putServed (s : State) (n : Fin 24) (fetch : Bool) (line : Nat) (evs : List Nat) : State :=
  if evs = [] then s else updCore s n fun c => { c with served := { fetch := fetch, line := line, evs := evs } :: c.served }

/-- The fetch of the instruction at the pc, with its causes in the order of R175 and the events of R256. A line of device type is fetched from no
target. (DEDUCED, log 15) -/
def fetchInstr (s : State) (n : Fin 24) (env : MemEnv) : XR (List Nat) :=
  let pc := (core s n).pc
  if pc.toNat % 4 ≠ 0 then .exc s { code := 0x03, eaddr := pc }
  else (translate s n pc.toNat .fetch env).bind fun s x =>
    if x.ty = 0 then .exc s { code := 0x0C, eaddr := pc }
    else if x.ty = 2 then
      let r := takeServed s n true [pc.toNat / 64]
      match l1Line r.2 n true (x.pa / 64) env with
      | (.ok s y _, evs) => if y.poison then .exc s { code := 0x0F, eaddr := pc } else .ok s (r.1.filter (fun e => !evs.contains e) ++ evs)
      | (.err s, _) => .exc s { code := 0x0C, eaddr := pc }
      | (.wait s, evs) => .wait (putServed s n true (pc.toNat / 64) (r.1.filter (fun e => !evs.contains e) ++ evs))
    else match pocRead s (.core n) (coreAttr s n env.cls) .fetch x.pa 4 (envAt env (x.pa / 64)) with
      | .ok s _ bad => if bad then .exc s { code := 0x0F, eaddr := pc } else .ok s []
      | .err s => .exc s { code := 0x0C, eaddr := pc }
      | .wait s => .wait s

/-- CACHE_LINE_FILL (R252): a line that missed comes into the caches of a running core, for a load or a fetch that it makes ahead of the
instruction's command, which counts the events met here (R256), or for a prefetch. A prefetch stays within a 4 KiB page that trained it, at the level of that access, and carries its
attributes (R241). (DESIGN CHOICE, log 87) -/
def execCacheLineFill (n : Fin 24) (x : FillBy) (env : MemEnv) (s : State) : Result :=
  .next (if (core s n).run ≠ .running then s
    else
      let line := fun (acc : Acc) (va : Nat) =>
        match translate s n va acc env with
        | .ok s x =>
          let w := if x.walked ∧ acc ≠ .fetch then [0x0C] else []
          let put := fun (s : State) (evs : List Nat) => putServed s n (decide (acc = .fetch)) (va % 2 ^ 64 / 64) (w ++ evs)
          if x.ty = 2 then (match l1Line s n (decide (acc = .fetch)) (x.pa / 64) env with
            | (.ok s _ _, evs) | (.err s, evs) | (.wait s, evs) => put s evs)
          else put s []
        | .wait s => s
        | .exc _ _ => s
      match x with
      | .load va => line .read va
      | .fetch va => line .fetch va
      | .prefetch la =>
        match (core s n).train.find? fun t => t.page = la / 64 && t.lvl = level s n with
        | none => s
        | some t =>
          match (match l2Line s (clusterOfCore n) la with
            | some y => Got.ok s y false
            | none => fillL2 s n t.attr false .read la env) with
          | .ok s y _ => if y.poison then s else fillL1 s n false la
          | .err s | .wait s => s)

end Sys2Proof.Machine
end

