-- ==== Sys2Proof/Machine/WinovarFrame.lean ====
section
/-!
DEFINITION. Machine/WinovarFrame.lean: the predictors and the wrong path of a Winovar core (R234 to R241), the loads it performs ahead
(R245), what is taken at an instruction boundary (R177 to R182), and the frame in which every instruction runs.
-/

namespace Sys2Proof.Machine

/-! ## Predictors (R235 to R238) -/

/-- The predictor key of the core's level (R237). -/
def predKey (s : State) (n : Fin 24) : Nat := (sysr s n (if level s n < 2 then 0x40B else 0x80D)).toNat

/-- The sets of a predictor table (R235): 0 branch target buffer, 1 its zero-bubble buffer, 2 the base direction table, 3 to 6 the tagged ones,
7 the indirect target predictor. -/
def predSets (tab : Nat) : Nat :=
  if tab = 0 then 1024 else if tab = 1 then 1 else if tab = 2 then 8192 else if tab = 7 then 1024 else Config.predTagged + 1

/-- The ways of a predictor table (R235). -/
def predWays (tab : Nat) : Nat := if tab = 0 then 4 else if tab = 1 then 64 else 1

/-- The global history that a tagged table sees (R235). -/
def predHist (s : State) (n : Fin 24) (tab : Nat) : List Bool :=
  (core s n).hist.take (if tab = 3 then 8 else if tab = 4 then 24 else if tab = 5 then 64 else if tab = 6 then 160 else 0)

/-- An entry for a pc in a table, as the core's context and key give it (R236, R237). -/
def predEnt (s : State) (n : Fin 24) (tab pc v : Nat) : PredEnt :=
  { tab := tab, lvl := level s n, did := coreDid s n, idx := Config.predIndex tab (predKey s n) pc (predHist s n tab) % predSets tab,
    tag := (Config.predTag tab (predKey s n) pc (predHist s n tab)).toNat, val := v }

/-- The entry that a lookup uses: index, partial tag, level and DID all match (R236, R237). -/
def predFind (s : State) (n : Fin 24) (tab pc : Nat) : Option PredEnt :=
  (core s n).preds.find? fun e => { e with val := 0 } = predEnt s n tab pc 0

/-- A training step of a table: the entry of this context for the pc is renewed, or one is allocated; on a wrong path only an entry of the current
context is replaced (R238), and where none is, nothing is updated: the answer says whether the table was. Which entry goes is not
fixed. (DESIGN CHOICE, log 85) -/
def predTrain (s : State) (n : Fin 24) (wrong : Bool) (tab pc v : Nat) : State × Bool :=
  let e := predEnt s n tab pc v
  let put := fun (s : State) (l : List PredEnt) => updCore s n fun c => { c with preds := e :: l }
  let l := (core s n).preds
  match predFind s n tab pc with
  | some m => (put s (l.erase m), true)
  | none =>
    let set := l.filter fun x => x.tab = tab && x.idx = e.idx
    if set.length < predWays tab then (put s l, true)
    else
      let r := freeVal 6 s
      let set := if wrong then set.filter fun x => x.lvl = e.lvl && x.did = e.did else set
      match set[r.1 % set.length]? with
      | some v => (put r.2 (l.erase v), true)
      | none => (r.2, false)

/-- The return stack gives its top entry, which is popped: its address if its context is the core's, else nothing (R236). -/
def popRet (s : State) (n : Fin 24) : Option Word64 × State :=
  match (core s n).rets with
  | [] => (none, s)
  | r :: rest => (if r.lvl = level s n ∧ r.did = coreDid s n then some r.pc else none, updCore s n fun c => { c with rets := rest })

/-- A call pushes its return address on the return stack of 32 entries (R235). (DESIGN CHOICE, log 85) -/
def pushRet (s : State) (n : Fin 24) (pc : Word64) : State :=
  updCore s n fun c => { c with rets := ({ lvl := level s n, did := coreDid s n, pc := pc } :: c.rets).take 32 }

/-! ## Wrong paths (R239, R240) -/

/-- A load or fetch on a wrong path: its walk and itself only hit in the L1 and L2, and a line hit in the L2 comes into the L1; a miss of the
L2 is held and discarded. -/
def wrongTouch (s : State) (n : Fin 24) (acc : Acc) (va : Nat) (env : MemEnv) : State :=
  match translate s n va acc { env with held := true } with
  | .ok s x =>
    if x.ty ≠ 2 then s
    else match l2Line s (clusterOfCore n) (x.pa / 64) with
      | some y => if y.poison then s else fillL1 s n (decide (acc = .fetch)) (x.pa / 64)
      | none => holdMiss s n (x.pa / 64)
  | .exc s _ | .wait s => s

/-- One instruction of a wrong path, with the speculative counts of R257: it is issued and discarded. -/
def wrongOne (n : Fin 24) (env : MemEnv) (s : State) (o : WrongOp) : State :=
  let s := specCount n 2 1 (specCount n 1 1 s)
  match o with
  | .load va => wrongTouch (specCount n 3 1 s) n .read va env
  | .fetch va => wrongTouch s n .fetch va env
  | .train tab pc v =>
    let r := predTrain s n true tab pc.toNat v
    if r.2 then specCount n 5 1 r.1 else r.1
  | .other => s

/-- What a core executes on a wrong path that begins at this instruction. -/
def wrongPath (s : State) (n : Fin 24) (f : Front) : State := f.wrong.foldl (wrongOne n f.env) s

/-! ## Loads performed ahead (R245) -/

/-- Bytes that two ranges share. -/
def overlap (a la b lb : Nat) : Bool := decide (a < b + lb) && decide (b < a + la)

/-- The older stores of normal type that overlap a range (R243). -/
def olderStores (s : State) (n : Fin 24) (pa len : Nat) : List StoreEnt :=
  (core s n).sb.filter fun x => x.ty ≠ 0 && overlap x.pa x.len pa len

/-- A younger load that no case of R245 holds back is performed now: one within a line that its L2 holds, that no older store
overlaps; one that misses the L2, or whose walk does, is held there (R240, R257). (DESIGN CHOICE, log 88) -/
def readAhead (n : Fin 24) (env : MemEnv) (s : State) (a : Ahead) : State :=
  let ea := (getW s n a.reg + a.imm.signExtend 64).toNat
  if a.len = 0 ∨ 64 < ea % 64 + a.len.val then s
  else match translate s n ea .read { env with held := true } with
    | .ok t x =>
      (match l2Line t (clusterOfCore n) (x.pa / 64) with
      | some y =>
        if x.ty ≠ 2 ∨ y.poison ∨ olderStores t n x.pa a.len ≠ [] then t
        else
          let hit := l1Has (l1Of t n false) (x.pa / 64)
          let e : Early := { reg := a.reg, ea := ea, len := a.len, pa := x.pa, data := y.data.toNat / 2 ^ (8 * (x.pa % 64)) % 2 ^ (8 * a.len.val),
                             evs := (if x.walked then [0x0C] else []) ++ (if hit then [] else [0x07]) }
          updCore (fillL1 t n false (x.pa / 64)) n fun c => { c with early := (e :: c.early).take 72 }
      | none => if x.ty = 2 then holdMiss t n (x.pa / 64) else t)
    | .exc _ _ => s
    | .wait t => t

/-- Loads performed ahead that share a byte with a range no longer stand: the core has accessed it since (R244). -/
def dropEarly (s : State) (n : Fin 24) (pa len : Nat) : State :=
  updCore s n fun c => { c with early := c.early.filter fun x => !overlap x.pa x.len pa len }

/-! ## Instruction boundaries (R177 to R182) -/

/-- What a running core takes at a boundary in place of the next instruction: a STORE_BUS that is due (R177), a later arrival (R182), an
interrupt that is due (R180). An instruction that waits for an answer, or has taken one, is no boundary (R208). What is due at the
boundary after a JALR to a misaligned target is taken there, and EPC holds the target without its bits 1:0 (R172, R214).
(DESIGN CHOICE, log 15) (DESIGN CHOICE, log 89) -/
def taken (s : State) (n : Fin 24) (f : Front) : Option State :=
  if (core s n).got ≠ [] then none
  else match storeBusDue s n, lateDue s n, irqDue s n with
    | some e, _, _ => some (takeStoreBus (wrongPath s n f) n e)
    | none, some (t, q), _ => some (takeLate s n t q)
    | none, none, some (t, p, v) => some (enterIrq (wrongPath s n f) n t p v)
    | none, none, none => none

/-- A core that issues: it runs and waits for no answer. -/
def issues (s : State) (n : Fin 24) : Bool := decide ((core s n).run = .running) && !(core s n).stall

/-- INTERRUPT_ENTRY (R178 to R181): at a boundary of a running core the deliverable interrupt of the higher target level is
taken; a STORE_BUS that is due comes first (R177). -/
def execInterruptEntry (n : Fin 24) (f : Front) (s : State) : Result :=
  .next (if issues s n then (taken s n f).getD s else s)

/-- STORE_BUS (R177): the pending error response of a store is taken at a boundary. -/
def execStoreBus (n : Fin 24) (f : Front) (s : State) : Result :=
  .next (if issues s n && decide ((core s n).got = []) then (match storeBusDue s n with
      | some e => takeStoreBus (wrongPath s n f) n e
      | none => s)
    else s)

/-! ## The frame of an instruction -/

/-- What the body of an instruction answers: completed with the next pc and its own events, an exception, completed as a call
that is taken as an exception at the instruction after it (R172), completed with a re-entry for an interrupt, which a later arrival may
still take over (R182, R184), or not able to complete now (no credit is free, or an access
stalls), in which case the core stays at the instruction. -/
inductive IRes where
  | done (s : State) (npc : Word64) (evs : List Nat)
  | exc (s : State) (e : Exc)
  | call (s : State) (npc : Word64) (e : Exc)
  | reenter (s : State) (npc : Word64) (evs : List Nat) (e : Nat × Nat)
  | stall (s : State)

/-- Answers that an instruction has not taken go when it ends. -/
def clearGot (s : State) (n : Fin 24) : State := updCore s n fun c => { c with got := [], tried := none, xlats := [], heldAt := [], atPort := none }

/-- For how many more instructions the line of the reservation is kept (R211): 16 without a memory access, from the LL on, which sets
17. -/
def ageKeep (evs : List Nat) : Option Nat → Option Nat
  | none => none
  | some k => if k = 17 then some 16 else if k = 0 ∨ evs.contains 5 ∨ evs.contains 6 then none else some (k - 1)

/-- An instruction leaves its place: the pc, with the entry whose first instruction it was, the answers it took and the translations it made, and
the age of the reservation and of what stands ahead. -/
def moveOn (s : State) (n : Fin 24) (npc : Word64) (evs : List Nat) (e : Option (Nat × Nat)) : State :=
  updCore s n fun c => { c with pc := npc, entry := e, got := [], tried := none, xlats := [], heldAt := [], atPort := none, keep := ageKeep evs c.keep,
                                early := agedEarly c.early, served := agedServed c.served }

/-- A synchronous exception of an instruction that was issued: what it executed on a wrong path is discarded, and it is taken
(R170, R172). -/
def faulted (s : State) (n : Fin 24) (f : Front) (epc : Word64) (e : Exc) : State :=
  raiseExc (wrongPath (specCount n 1 1 (clearGot s n)) n f) n epc e

/-- The events of an instruction: those of this run, and those it met before, while it waited (R256). -/
def allEvs (s : State) (n : Fin 24) (evs : List Nat) : List Nat :=
  ((core s n).tried.getD []).filter (fun e => !evs.contains e) ++ evs

/-- The end of an instruction: it retires, or its exception is taken at it (R170, R172, R255). `fe` are the events of its fetch. -/
def finish (s0 : State) (n : Fin 24) (f : Front) (fe : List Nat) : IRes → State
  | .done s npc evs => pmuRetire (level s0 n) n (allEvs s n (fe ++ evs)) (moveOn s n npc evs none)
  | .exc s e => faulted s n f (core s n).pc e
  | .call s npc e => raiseExc (wrongPath (pmuRetire (level s0 n) n (allEvs s n fe) (clearGot s n)) n f) n npc e
  | .reenter s npc evs e => pmuRetire (level s0 n) n (allEvs s n (fe ++ evs)) (moveOn s n npc evs (some e))
  | .stall s => updCore s n fun c => { c with tried := some (allEvs s n fe) }

/-- An instruction that has been fetched: the loads performed ahead, then its body. -/
def runBody (n : Fin 24) (f : Front) (body : State → IRes) (fe : List Nat) (s : State) : State :=
  let u := f.ahead.foldl (readAhead n f.env) s
  finish u n f fe (body u)

/-- One instruction of a core. A core that is not running issues nothing; what is due at the boundary is taken in place of the
instruction; a fault of its fetch comes before its own causes (R175). One that was issued and waited is not fetched again (R208).
(DESIGN CHOICE, log 15) -/
def wInstr (n : Fin 24) (f : Front) (body : State → IRes) (s : State) : Result :=
  .next (if issues s n then
      (match taken s n f with
      | some t => t
      | none =>
        if (core s n).tried.isSome then runBody n f body [] s
        else match fetchInstr s n f.env with
          | .exc t e => raiseExc (wrongPath t n f) n (core s n).pc e
          | .wait t => t
          | .ok t fe => runBody n f body fe t)
    else s)

/-- The pc after an instruction that does not branch (R198). -/
def nextPc (s : State) (n : Fin 24) : Word64 := (core s n).pc + 4

/-- An instruction that writes one general register and goes on. -/
def wResult (n : Fin 24) (d : Fin 32) (v : State → Word64) (f : Front) : State → Result :=
  wInstr n f fun s => .done (setW s n d (v s)) (nextPc s n) []

end Sys2Proof.Machine
end

