-- ==== Sys2Proof/Machine/WinovarSys.lean ====
section
/-!
DEFINITION. Machine/WinovarSys.lean: the system instructions of a Winovar core: system registers (R167 to R169, R226), calls
and returns (R183, R184, R227), WAIT, TLB maintenance (R193, R194), and the counter events (R255, R257).
-/

namespace Sys2Proof.Machine

/-! ## System registers -/

/-- The bits of a system register that MTS writes; `none` for a number not listed in R168 or read-only. -/
def sysMask (k : Nat) : Option Nat :=
  let all := 2 ^ 64 - 1
  let page := 0xFFFFFFFFF000
  match k with
  | 0x002 => some 0x71F
  | 0x400 => some 0xC
  | 0x401 | 0x800 | 0xC00 => some page
  | 0x402 | 0x801 | 0xC01 => some (all - 3)
  | 0x403 | 0x802 => some 0xF0F
  | 0xC02 => some 0xF
  | 0x404 | 0x803 | 0xC03 => some 0x7FFF
  | 0x405 | 0x804 | 0xC04 => some all
  | 0x406 | 0x806 => some 0xF
  | 0x407 | 0x809 => some (page + 1)
  | 0x408 => some 0x3FFF
  | 0x409 | 0x40A | 0x40B | 0x80B | 0x80C | 0x80D | 0xC05 | 0xC06 => some all
  | 0x40C => some 0xFFFF
  | 0x805 => some 0xFFFFFFFFFFFF
  | 0x807 => some 0xF
  | 0x808 => some (0x3F000000000000 + page + 1)
  | 0x80A => some 0xF
  | _ => none

/-- A system register that R168 lists. -/
def sysListed (k : Nat) : Bool := k = 0x000 || k = 0x001 || (sysMask k).isSome

/-- The values of CODE that R174 reserves. -/
def causeReserved (c : Nat) : Bool := c = 0 || decide (0x15 ≤ c ∧ c ≤ 0x20) || decide (0x30 ≤ c)

/-- A value that would set a field to a reserved or out-of-range value (R167, R168, R169, R174, R190, R215). (DEDUCED, log 39) -/
def sysBad (k : Nat) (v : Word64) : Bool :=
  match k with
  | 0x002 => decide (5 ≤ fld v 8 3)
  | 0x401 | 0x800 | 0xC00 => fld v 0 12 ≠ 0 || fld v 48 16 ≠ 0
  | 0x403 => decide (1 < fld v 0 2)
  | 0x802 => decide (2 < fld v 0 2)
  | 0xC02 => fld v 8 4 ≠ 0
  | 0x404 | 0x803 | 0xC03 => causeReserved (fld v 0 6) || decide (9 < fld v 6 4)
  | _ => false

/-- What MFS reads (R87, R168). -/
def sysRead (s : State) (n : Fin 24) (k : Nat) : Word64 :=
  if k = 0x000 then BitVec.ofNat 64 (dtF s) else if k = 0x001 then BitVec.ofNat 64 n else sysr s n k

/-- MFS (R167, R226). -/
def execWMfs (n : Fin 24) (d : Fin 32) (k : Fin 4096) (f : Front) : State → Result :=
  wInstr n f fun s =>
    if !sysListed k then .exc s { code := 0x01 }
    else if level s n < k.val / 1024 then .exc s { code := 0x02 }
    else .done (setW s n d (sysRead s n k)) (nextPc s n) []

/-- The system registers whose write discards every younger instruction already fetched (R226). -/
def mtsRefetches (k : Nat) : Bool := [0x401, 0x407, 0x40B, 0x40C, 0x800, 0x808, 0x809, 0x80D, 0xC00].contains k

/-- The fields that a system register has take a value; its read-only fields and STATUS.LEVEL ignore it (R168, R169). -/
def putSys (s : State) (n : Fin 24) (k : Nat) (v : Word64) : State :=
  match sysMask k with
  | some m => setSys s n k ((sysr s n k &&& ~~~(BitVec.ofNat 64 m)) ||| (v &&& BitVec.ofNat 64 m))
  | none => s

/-- MTS (R167, R169, R226): the fields the register has take the value; STATUS.LEVEL ignores it. -/
def execWMts (n : Fin 24) (a : Fin 32) (k : Fin 4096) (f : Front) : State → Result :=
  wInstr n f fun s =>
    if !sysListed k then .exc s { code := 0x01 }
    else if level s n < k.val / 1024 then
      (if (sysMask k).isNone || sysBad k (getW s n a) then .exc s { code := 0x01 } else .exc s { code := 0x02 })
    else if (sysMask k).isNone || sysBad k (getW s n a) then .exc s { code := 0x01 }
    else
      let s' := putSys s n k (getW s n a)
      .done (if mtsRefetches k then clearEarly s' n else s') (nextPc s n) []

/-! ## Calls and returns -/

/-- A call (R172, R174, R227): EPC is the instruction after it, and the call is taken as an exception of its code. -/
def wCall (code : Nat) (ok : Nat → Bool) (n : Fin 24) (f : Front) : State → Result :=
  wInstr n f fun s => if ok (level s n) then .call s (nextPc s n) { code := code } else .exc s { code := 0x01 }

/-- SVC (R227). -/
def execWSvc (n : Fin 24) (_imm : BitVec 16) (f : Front) : State → Result := wCall 0x10 (fun _ => true) n f

/-- HVC (R227): allowed at K and H. -/
def execWHvc (n : Fin 24) (_imm : BitVec 16) (f : Front) : State → Result := wCall 0x11 (fun l => l = 1 || l = 2) n f

/-- FWC (R227): allowed at H and F. -/
def execWFwc (n : Fin 24) (_imm : BitVec 16) (f : Front) : State → Result := wCall 0x12 (fun l => l = 2 || l = 3) n f

/-- BRK (R227): EPC is the BRK itself (R172). -/
def execWBrk (n : Fin 24) (_imm : BitVec 16) (f : Front) : State → Result := wInstr n f fun s => .exc s { code := 0x13 }

/-- The selector of a SYS instruction and its must-be-0 fields (R227). -/
def sysAllocated (d a imm : Nat) : Bool :=
  if d < 4 then a = 0 else if d < 8 ∨ d = 9 ∨ d = 13 then a = 0 && imm = 0 else if d ≤ 12 then imm = 0 else false

/-- The operation of an FP instruction with its must-be-0 fields: bits 10:4 the operation, 2:0 RM (R216, R217). -/
def fpAllocated (b fn : Nat) : Bool :=
  let op := fn / 16
  let rm := fn % 8
  if op < 4 then decide (rm < 6)
  else if op = 4 ∨ op = 0x18 ∨ (0x20 ≤ op ∧ op < 0x24) ∨ (0x28 ≤ op ∧ op < 0x2C) then b = 0 && decide (rm < 6)
  else if op = 5 ∨ op = 6 ∨ (8 ≤ op ∧ op < 0xB) ∨ (0x10 ≤ op ∧ op < 0x13) then rm = 0
  else if op = 0x30 ∨ op = 0x31 then b = 0 && rm = 0
  else false

/-- Whether the tables of spec 07 allocate an instruction word (R199 to R227): its major opcode, its function or selector, and zero in every
field that must be 0. -/
def wAllocated (word : BitVec 32) : Bool :=
  let op := fld word 26 6
  let d := fld word 21 5
  let a := fld word 16 5
  let b := fld word 11 5
  let fn := fld word 0 11
  let imm := fld word 0 16
  match op with
  | 0x01 => [0, 1, 2, 3, 4, 5, 8, 9, 0xA, 0xB, 0x10, 0x11, 0x12, 0x13, 0x14, 0x15].contains fn || ([0x18, 0x19, 0x1A].contains fn && b = 0)
  | 0x02 => [0, 1, 8, 9, 0xA, 0xB].contains fn
  | 0x03 => decide (fn ≤ 8) || decide (0xC ≤ fn ∧ fn ≤ 0xF)
  | 0x04 | 0x05 | 0x06 | 0x07 | 0x08 | 0x09 | 0x0A => true
  | 0x0B | 0x0D => a = 0
  | 0x0C => imm / 2 ^ 6 % 2 ^ 7 = 0 && imm / 2 ^ 13 ≠ 7
  | 0x10 | 0x11 | 0x12 | 0x13 | 0x14 | 0x15 | 0x16 => true
  | 0x18 | 0x19 | 0x1A | 0x1B | 0x1C | 0x1D | 0x1E | 0x1F => true
  | 0x20 | 0x21 | 0x22 | 0x23 | 0x24 | 0x25 | 0x28 | 0x29 | 0x2A => true
  | 0x2C => fn / 2 ^ 8 = 0 && decide (fn / 2 % 32 ≤ 9) && (fn / 2 % 32 ≠ 0 || b = 0)
  | 0x2D =>
    if 0x11 ≤ fn ∧ fn ≤ 0x1F then d = 0 && a = 0 && b = 0
    else if 0x20 ≤ fn ∧ fn ≤ 0x23 then d = 0 && b = 0
    else (fn = 0x40 || fn = 0x41) && d = 0
  | 0x2E => sysAllocated d a imm
  | 0x2F => a = 0 && imm / 2 ^ 12 = 0
  | 0x30 => d = 0 && imm / 2 ^ 12 = 0
  | 0x31 => fpAllocated b fn
  | 0x32 => fn % 8 < 6
  | _ => false

/-- UNALLOCATED_ENCODING (R200): a word that the tables do not allocate raises UNDEF and has no other effect; an allocated word is another command's
instruction, and this command does nothing with it. (DESIGN CHOICE, log 15) -/
def execWUnalloc (n : Fin 24) (word : BitVec 32) (f : Front) (s : State) : Result :=
  if wAllocated word then .next s else wInstr n f (fun s => .exc s { code := 0x01 }) s

/-- ERET at level T (R183, R184): an interrupt of target T deliverable against the state to be restored re-enters at once, with EADDR zero as
R174 says of an interrupt's code;
else the pc, STATUS and the threshold are restored. The reservation is cleared. -/
def execWEret (n : Fin 24) (f : Front) : State → Result :=
  wInstr n f fun s =>
    let t := level s n
    if t = 0 then .exc s { code := 0x02 }
    else
      let es := sysr s n (lvlReg t 2)
      let q := irqAt s n t
      let s1 := updCore s n fun c => { c with resv := none, keep := none }
      if deliverableAt q.1 t (fld es 0 2) (bit es 2) (bit es 3) (if t = 3 then 0 else fld es 8 4) then
        let s2 := setSys (discardAhead s1 n) n (thrReg t) (BitVec.ofNat 64 q.1)
        let s3 := setSys s2 n (lvlReg t 3) (causeWord (0x20 + q.1) 0 0 false false q.2)
        .reenter (setSys s3 n (lvlReg t 4) 0) (sysr s n (lvlReg t 0) + BitVec.ofNat 64 (0x400 + 0x40 * q.1)) [0x0E, 0x10] (t, q.1)
      else
        let s2 := setSys (clearEarly s1 n) n 0x400 (BitVec.ofNat 64 (fld es 0 4))
        let s3 := if t = 3 then s2 else setSys s2 n (thrReg t) (BitVec.ofNat 64 (fld es 8 4))
        .done s3 (sysr s n (lvlReg t 1)) []

/-- WAIT (R185, R549): the core goes on at once when something is pending, else it stops issuing, in DOZE when its MARI_DOZE
bit is set. -/
def execWWait (n : Fin 24) (f : Front) : State → Result :=
  wInstr n f fun s =>
    if level s n = 0 ∨ (level s n = 1 ∧ hcfg s n 2) then .exc s { code := 0x02 }
    else if wakePending s n then .done s (nextPc s n) []
    else .done (updCore s n fun c => { c with run := if rdB s .mari 0x05C n then .doze else .waiting }) (nextPc s n) []

/-! ## TLB maintenance -/

/-- The page of a TLB entry's first stage, 2^sz bytes, contains the address. -/
def tlbCovers (e : TlbEnt) (a : Nat) : Bool := e.vpn * 4096 / 2 ^ e.sz1 = a / 2 ^ e.sz1

/-- The page of a TLB entry's second stage contains the IPA. -/
def tlbCovers2 (e : TlbEnt) (a : Nat) : Bool :=
  match e.e2 with
  | some (_, l) => e.ipn * 4096 / 2 ^ (12 + 9 * (3 - l)) = a / 2 ^ (12 + 9 * (3 - l))
  | none => false

/-- A TLBI removes an entry (R193): `op` is the SYS selector 8 to 13. -/
def tlbiHits (r : TlbiReq) (e : TlbEnt) : Bool :=
  match r.op with
  | 8 => !e.hyp && e.did = r.did && tlbCovers e r.arg && (e.asid = r.asid || e.glob)
  | 9 => !e.hyp && e.did = r.did && e.asid = r.asid && !e.glob
  | 10 => !e.hyp && e.did = r.did && e.e2.isSome && (e.e1.isSome || tlbCovers2 e r.arg)
  | 11 => e.did = r.arg % 64
  | 12 => e.hyp && tlbCovers e r.arg
  | _ => true

/-- A TLBI removes an entry of the walk cache, of the same scope (R193). -/
def walkHits (r : TlbiReq) (x : WalkEnt) : Bool :=
  let here := decide (x.pre = walkPre x.lvl (r.arg % 2 ^ 48))
  match r.op with
  | 8 => !x.hyp && x.did = r.did && !x.st2 && x.asid = r.asid && here
  | 9 => !x.hyp && x.did = r.did && !x.st2 && x.asid = r.asid
  | 10 => !x.hyp && x.did = r.did && (x.comb || (x.st2 && here))
  | 11 => x.did = r.arg % 64
  | 12 => x.hyp && here
  | _ => true

/-- A TLBI applied to the TLBs and the walk cache of a core. -/
def tlbiCore (r : TlbiReq) (c : CoreRec) : CoreRec :=
  { c with itlb := c.itlb.filter fun t => !tlbiHits r t, dtlb := c.dtlb.filter fun t => !tlbiHits r t, tlb := c.tlb.filter fun t => !tlbiHits r t,
           walks := c.walks.filter fun x => !walkHits r x }

/-- A TLBI applied at every core. -/
def applyTlbi (s : State) (r : TlbiReq) : State := { s with cores := s.cores.map fun e => (e.1, tlbiCore r e.2) }

/-- TLBI (R193): allowed at K and above, or at H and above. It acts at its own core; at every other core it is known to be applied after the core's
TSYNC. (DESIGN CHOICE, log 40) -/
def wTlbi (op minLvl : Nat) (n : Fin 24) (a : Option (Fin 32)) (f : Front) : State → Result :=
  wInstr n f fun s =>
    if level s n < minLvl then .exc s { code := 0x02 }
    else
      let r : TlbiReq := { op := op, arg := (match a with | some a => (getW s n a).toNat | none => 0),
                           did := fld (sysr s n 0x808) 48 6, asid := fld (sysr s n 0x40C) 0 16 }
      .done (updCore s n fun c => { tlbiCore r c with tlbis := c.tlbis ++ [r] }) (nextPc s n) []

/-- TLBI.VA (R193). -/
def execWTlbiVa (n : Fin 24) (a : Fin 32) (f : Front) : State → Result := wTlbi 8 1 n (some a) f
/-- TLBI.ASID (R193). -/
def execWTlbiAsid (n : Fin 24) (f : Front) : State → Result := wTlbi 9 1 n none f
/-- TLBI.IPA (R193). -/
def execWTlbiIpa (n : Fin 24) (a : Fin 32) (f : Front) : State → Result := wTlbi 10 2 n (some a) f
/-- TLBI.DID (R193). -/
def execWTlbiDid (n : Fin 24) (a : Fin 32) (f : Front) : State → Result := wTlbi 11 2 n (some a) f
/-- TLBI.HVA (R193). -/
def execWTlbiHva (n : Fin 24) (a : Fin 32) (f : Front) : State → Result := wTlbi 12 2 n (some a) f
/-- TLBI.ALL (R193). -/
def execWTlbiAll (n : Fin 24) (f : Front) : State → Result := wTlbi 13 2 n none f

/-- The core's earlier TLBIs take effect at every core (R194). -/
def syncTlbis (s : State) (n : Fin 24) : State :=
  clearEarly (updCore ((core s n).tlbis.foldl applyTlbi s) n fun c => { c with tlbis := [] }) n

/-- TSYNC (R194). -/
def execWTsync (n : Fin 24) (f : Front) : State → Result :=
  wInstr n f fun s => if level s n = 0 then .exc s { code := 0x02 } else .done (syncTlbis s n) (nextPc s n) []

/-! ## Counters -/

/-- A counter of the core page may count (R255, R256): counting is enabled, the cluster's CK_A runs, the level is in its masks and is not F, and a
programmable one has an event. -/
def pmuMay (s : State) (n : Fin 24) (i : Nat) : Bool :=
  rdB s (.wcc n) 0x040 0 && ckaRuns s n (core s n) &&
    (if i < 2 then pmuLevel (rd s (.wcc n) 0x040) (level s n)
     else pmuLevel (rd s (.wcc n) (0x044 + 4 * (i - 2))) (level s n) && rdF s (.wcc n) (0x044 + 4 * (i - 2)) 0 6 ≠ 0)

/-- PMU_COUNTER_WRAP (R255): a counter of the core page that stands at its last value counts once more, wraps to zero and
sets its IRQ_STAT bit; counter 0 is PMU_CYC, 1 PMU_INST, 2 to 5 PMU_CNT0 to PMU_CNT3. -/
def execPmuCounterWrap (n : Fin 24) (i : Fin 6) (s : State) : Result :=
  .next (if pmuMay s n i && rd s (.wcc n) (0x060 + 4 * i) = 0xFFFFFFFF then pmuAdd s n (0x060 + 4 * i) i 1 else s)

/-- SPEC_COUNTER_WRAP (R257). -/
def execSpecCounterWrap (w : Fin 3) (i : Fin 2) (s : State) : Result :=
  .next (if rd s (.wc w) (0x048 + 4 * i) = 0xFFFFFFFF ∧ rdF s (.wc w) (0x040 + 4 * i) 8 4 ≠ 0 then
      setIrq (wr s (.wc w) (0x048 + 4 * i) 0) (.wc w) (2 ^ i.val)
    else s)

end Sys2Proof.Machine
end

