-- ==== Sys2Proof/Machine/Debug.lean ====
section
/-!
DEFINITION. Machine/Debug.lean: what JTAG reaches through MEM_AP and SCU_AP (R157, R284, R575).
-/

namespace Sys2Proof.Machine

/-- Memory that JTAG reaches in the present debug state: all of it in OPEN, and in NONSECURE what lies outside the secure part and the Sage
ROM (R157). -/
def apReaches (s : State) (a : Nat) : Bool :=
  match regionOf s a with
  | some .dram | some .sram | some (.window _ _ _) => true
  | some .rom | some .secure => dbgState s = 0
  | _ => false

/-- The data register captures what an access read. -/
def apCapture (s : State) (x : Nat) : State := { s with jtag := { s.jtag with dr := x } }

/-- The data register after an access that has no answer: a free value. (DESIGN CHOICE, log 51) -/
def apNothing (s : State) (w : Nat) : State := let f := freeVal w s; apCapture f.2 f.1

/-- A register read, or written where the access carries a value. -/
def apReg (s : State) (w : Option Nat) (get : Nat) (set : Nat → State) : State :=
  match w with
  | some x => set x
  | none => apCapture s get

/-- An access to a register of a core (R157): a general or a floating-point register, the pc, or a system register, of which it
writes what MTS writes (R167 to R169). (DESIGN CHOICE, log 51) -/
def apCore (s : State) (n : Fin 24) (w : Option Nat) : CoreReg → State
  | .w r => apReg s w (getW s n r).toNat fun x => setW s n r (BitVec.ofNat 64 x)
  | .f r => apReg s w (getFr s n r).toNat fun x => setFr s n r (BitVec.ofNat 64 x)
  | .pc => apReg s w (core s n).pc.toNat fun x => updCore s n fun c => { c with pc := BitVec.ofNat 64 x, early := [], served := [] }
  | .sys k => apReg s w (sysRead s n k.val).toNat fun x =>
      if sysBad k.val (BitVec.ofNat 64 x) then s else putSys s n k.val (BitVec.ofNat 64 x)

/-- The posted writes of a thread, oldest first (R318, R346). -/
def postedOf (s : State) (e : Fin 512) (t : Fin 4) : List Txn :=
  s.fab.txns.filter fun x => decide (x.req.master = .engine e) && decide (x.purp = .fwr t.val) &&
    (decide (x.status = TxStatus.posted) || decide (x.status = TxStatus.waitCredit))

/-- The state of a thread that R318 lists: loop set `k` has START, END and COUNT; an entry of the return queue reads as its word with the
error bit above it, 0 where it is not ready, and one of the posted-write queue as its bytes, which a write does not change.
(DESIGN CHOICE, log 51) -/
def apEng (s : State) (e : Fin 512) (t : Fin 4) (w : Option Nat) : EngReg → State
  | .n r => apReg s w (ngReg (thr s e t) r.val).toNat fun x => updThr s e t fun th => { th with n := SMap.set 0 th.n r.val (BitVec.ofNat 18 x) }
  | .pc => apReg s w (thr s e t).pc.toNat fun x => updThr s e t fun th => { th with pc := BitVec.ofNat 18 x }
  | .st => apReg s w (thr s e t).sw.toNat fun x => updThr s e t fun th => { th with sw := BitVec.ofNat 18 x &&& 0o177777 }
  | .acc false => apReg s w (thr s e t).acc0.toNat fun x => updThr s e t fun th => { th with acc0 := BitVec.ofNat 44 x }
  | .acc true => apReg s w (thr s e t).acc1.toNat fun x => updThr s e t fun th => { th with acc1 := BitVec.ofNat 44 x }
  | .loop k 0 => apReg s w (SMap.get 0 (thr s e t).lpS k.val).toNat fun x =>
      updThr s e t fun th => { th with lpS := SMap.set 0 th.lpS k.val (BitVec.ofNat 18 x) }
  | .loop k 1 => apReg s w (SMap.get 0 (thr s e t).lpE k.val).toNat fun x =>
      updThr s e t fun th => { th with lpE := SMap.set 0 th.lpE k.val (BitVec.ofNat 18 x) }
  | .loop k 2 => apReg s w (SMap.get 0 (thr s e t).lpC k.val).toNat fun x =>
      updThr s e t fun th => { th with lpC := SMap.set 0 th.lpC k.val (BitVec.ofNat 18 x) }
  | .m k => apReg s w (SMap.get 0 (thr s e t).m k.val).toNat fun x => updThr s e t fun th => { th with m := SMap.set 0 th.m k.val (BitVec.ofNat 18 x) }
  | .l k => apReg s w (SMap.get 0 (thr s e t).l k.val).toNat fun x => updThr s e t fun th => { th with l := SMap.set 0 th.l k.val (BitVec.ofNat 18 x) }
  | .timeLatch => apReg s w (thr s e t).tlat.toNat fun x => updThr s e t fun th => { th with tlat := BitVec.ofNat 46 x }
  | .retQ i => apReg s w (match (thr s e t).rq[i.val]? with
      | some q => if q.ready then q.val.toNat + 2 ^ 18 * q.err.toNat else 0
      | none => 0) fun x => updThr s e t fun th =>
        { th with rq := th.rq.modify i.val fun q => if q.ready then { q with val := BitVec.ofNat 18 x, err := x.testBit 18 } else q }
  | .postQ i => apReg s w (match (postedOf s e t)[i.val]? with
      | some q => q.req.data
      | none => 0) fun _ => s

/-- Memory, as the SCU reaches it, where the debug state lets JTAG reach every byte. An access that has to wait is made again.
(DESIGN CHOICE, log 51) -/
def apMem (s : State) (a n : Nat) (w : Option Nat) (env : MemEnv) : State :=
  if !((List.range n).all fun i => apReaches s (a + i)) then apNothing s (8 * n)
  else match (match w with
    | some x => busWrite s .scu (scuAttr s) a (bytesOf n x) env
    | none => busRead s .scu (scuAttr s) a n env) with
  | .ok t l => if w.isSome then t else apCapture t (ofBytes l)
  | .err t _ => apNothing t (8 * n)
  | .wait s => s

/-- An access through MEM_AP. -/
def apAccess (s : State) : ApAt → State
  | .core n r w => apCore s n w r
  | .eng e t r w => apEng s e t w r
  | .mem a n w env => apMem s a.toNat n.val w env

/-- A field of the fuse shadows; IMAGE_KEY is none of them (R157). -/
def apFuse (f : Fuses) : FuseField → Nat
  | .lc => f.lc
  | .hash k => SMap.get 0 f.hash k.val
  | .prog => f.prog
  | .rev => f.rev
  | .secver => f.secver
  | .devId => f.devId

/-- MEM_AP (R575): the instruction is selected, and an access it makes within the reach of the debug state. (DESIGN CHOICE, log 51) -/
def execMemAp (x : Option ApAt) (s : State) : Result :=
  .next (match x with
    | none => jtagLoad s 0x10 fun _ j => j
    | some x => if tapOn s && jtagActs s = 0x10 then apAccess s x else s)

/-- SCU_AP (R575): the instruction is selected, and a read of the fuse shadows. (DESIGN CHOICE, log 51) -/
def execScuAp (x : Option FuseField) (s : State) : Result :=
  .next (match x with
    | none => jtagLoad s 0x11 fun _ j => j
    | some x => if tapOn s && jtagActs s = 0x11 then apCapture s (apFuse s.sage.shadow x) else s)

end Sys2Proof.Machine
end

