-- ==== Sys2Proof/Machine/RegRows.lean ====
section
/-!
DEFINITION. Machine/RegRows.lean: the commands that are one access to a named register, over the bridge of Bridge.lean. `m` is the master
and `lvl` the level of a core.
-/

namespace Sys2Proof.Machine

/-- The address that a register of a page has. (DESIGN CHOICE, log 28) -/
def regAt (p : Page) (off : Nat) : Nat := pageAddr p + off

/-- What a register holds but for the bits of a mask, as a read-modify-write brings it back. (DESIGN CHOICE, log 28) -/
def keepBits (s : State) (p : Page) (off : Nat) (mask : Reg32) : Reg32 := rd s p off &&& ~~~mask

/-! ## Header -/

/-- IRQ_SET (R116). -/
def execIrqSet (m : Master) (lvl : Fin 4) (p : Page) (v : Reg32) (s : State) : Result := pageWrite m lvl p 0x018 v s
/-- BLK_LOCK (R116, R117): LOCK written as 1, EN and AUTO_WAKE at their current values. -/
def execBlkLock (m : Master) (lvl : Fin 4) (p : Page) (s : State) : Result := pageWrite m lvl p 0x008 (rd s p 0x008 ||| 8) s
/-- BLK_SOFT_RESET (R103): SRST written as 1, the other fields at their current values. -/
def execBlkSoftReset (m : Master) (lvl : Fin 4) (p : Page) (s : State) : Result := pageWrite m lvl p 0x008 (rd s p 0x008 ||| 2) s
/-- ERR_CNT_READ (R118). -/
def execErrCntRead (m : Master) (lvl : Fin 4) (p : Page) (s : State) : Result := pageRead m lvl p 0x02C s
/-- OWNER_BIND (R529 to R531). -/
def execOwnerBind (m : Master) (lvl : Fin 4) (p : Page) (d : Fin 64) (s : State) : Result :=
  pageWrite m lvl p 0x030 (BitVec.ofNat 32 d) s

/-! ## FERR, CKRS -/

/-- FERR_POP (R123). -/
def execFerrPop (m : Master) (lvl : Fin 4) (s : State) : Result := pageWrite m lvl .ferr 0x044 1 s
/-- FERR_LOST_READ (R123). -/
def execFerrLostRead (m : Master) (lvl : Fin 4) (s : State) : Result := pageRead m lvl .ferr 0x058 s
/-- CLK_WREQ_WRITE (R62, R104). -/
def execClkWreqWrite (m : Master) (lvl : Fin 4) (v : Reg32) (s : State) : Result := pageWrite m lvl .ckrs 0x044 v s
/-- RST_REQ (R104). -/
def execRstReq (m : Master) (lvl : Fin 4) (key : BitVec 16) (s : State) : Result := pageWrite m lvl .ckrs 0x054 (BitVec.ofNat 32 key.toNat) s
/-- DT_LO_READ (R104). -/
def execDtLoRead (m : Master) (lvl : Fin 4) (s : State) : Result := pageRead m lvl .ckrs 0x048 s

/-! ## Winovar and the system cache -/

/-- PMU_CLR (R255): CLR written as 1, the other fields at their current values. (DEDUCED, log 53) -/
def execPmuClr (m : Master) (lvl : Fin 4) (n : Fin 24) (s : State) : Result := pageWrite m lvl (.wcc n) 0x040 (rd s (.wcc n) 0x040 ||| 2) s
/-- A write of SC_CMD. -/
def scCmdWrite (m : Master) (lvl : Fin 4) (op : Nat) (incl : Bool) (way part : Nat) (s : State) : Result :=
  pageWrite m lvl .scac 0x040 (BitVec.ofNat 32 (op + 16 * incl.toNat + 2 ^ 8 * way + 2 ^ 16 * part)) s
/-- CLEAN (R274). -/
def execClean (m : Master) (lvl : Fin 4) (incl : Bool) (s : State) : Result := scCmdWrite m lvl 1 incl 0 0 s
/-- INV (R274). -/
def execInv (m : Master) (lvl : Fin 4) (incl : Bool) (s : State) : Result := scCmdWrite m lvl 2 incl 0 0 s
/-- CLEAN_INV (R274). -/
def execCleanInv (m : Master) (lvl : Fin 4) (incl : Bool) (s : State) : Result := scCmdWrite m lvl 3 incl 0 0 s
/-- PRELOAD (R270). -/
def execPreload (m : Master) (lvl : Fin 4) (part : Fin 16) (s : State) : Result := scCmdWrite m lvl 4 false 0 part s
/-- WAY_CLEAN (R275). -/
def execWayClean (m : Master) (lvl : Fin 4) (way : Fin 64) (s : State) : Result := scCmdWrite m lvl 5 false way 0 s
/-- WAY_OFF (R276). -/
def execWayOff (m : Master) (lvl : Fin 4) (way : Fin 64) (s : State) : Result := scCmdWrite m lvl 6 false way 0 s
/-- WAY_ON (R276). -/
def execWayOn (m : Master) (lvl : Fin 4) (way : Fin 64) (s : State) : Result := scCmdWrite m lvl 7 false way 0 s
/-- PARTITION_DISABLE (R277): EN written as 0, WAYS at their current values. -/
def execPartitionDisable (m : Master) (lvl : Fin 4) (p : Fin 16) (s : State) : Result :=
  pageWrite m lvl .scac (0x084 + 8 * p.val) (keepBits s .scac (0x084 + 8 * p.val) 0x30000) s
/-- SRAM_BANK_STATE_WRITE (R285): one register of SR_STATE, banks 16i to 16i + 15. -/
def execSramBankStateWrite (m : Master) (lvl : Fin 4) (i : Fin 4) (v : Reg32) (s : State) : Result := pageWrite m lvl .sram (0x040 + 4 * i.val) v s
/-- CONF_CNT_READ (R287). -/
def execConfCntRead (m : Master) (lvl : Fin 4) (i : Fin 8) (s : State) : Result := pageRead m lvl .sram (0x064 + 8 * i.val) s

/-! ## DRAM -/

/-- RMAP_WRITE (R296). -/
def execRmapWrite (m : Master) (lvl : Fin 4) (l : Fin 32) (v : Reg32) (s : State) : Result := pageWrite m lvl .rmap (0x040 + 4 * l.val) v s
/-- DMC_PSTAT_READ (R314). -/
def execDmcPstatRead (m : Master) (lvl : Fin 4) (i : Fin 8) (s : State) : Result := pageRead m lvl .dmc (0x080 + 4 * i.val) s
/-- DCH_CE_READ (R316). -/
def execDchCeRead (m : Master) (lvl : Fin 4) (ch : Fin 18) (s : State) : Result := pageRead m lvl (.dch ch) 0x044 s
/-- DCH_UE_READ (R316). -/
def execDchUeRead (m : Master) (lvl : Fin 4) (ch : Fin 18) (s : State) : Result := pageRead m lvl (.dch ch) 0x048 s

/-! ## Engines and movers -/

/-- A write of THR_CTRLt, through the engine page or by a thread of the engine itself (R379, R397). -/
def thrCtrlWrite (src : CtlSrc) (e : Fin 512) (t : Fin 4) (v : Nat) (s : State) : Result :=
  match src with
  | .page m lvl => pageWrite m lvl (.nce e) (0x040 + 16 * t.val) (BitVec.ofNat 32 v) s
  | .engine x => .next (if x = e ∧ clocksOn s then ctlWrite s e (0o110000 + 0o20 * t.val) (BitVec.ofNat 18 v) s.dt else s)
/-- THREAD_RUN (R380). -/
def execThreadRun (src : CtlSrc) (e : Fin 512) (t : Fin 4) (s : State) : Result := thrCtrlWrite src e t 1 s
/-- THREAD_HALT (R381). -/
def execThreadHalt (src : CtlSrc) (e : Fin 512) (t : Fin 4) (s : State) : Result := thrCtrlWrite src e t 2 s
/-- THREAD_STEP (R382). -/
def execThreadStep (src : CtlSrc) (e : Fin 512) (t : Fin 4) (s : State) : Result := thrCtrlWrite src e t 4 s

/-- A write of MD6, through the mover page or by an engine of its cluster (R415, R419); `f` are the findings on words it reads. -/
def md6Write (src : CtlSrc) (x : Fin 256) (v : Nat) (f : Findings) (s : State) : Result :=
  match src with
  | .page m lvl => regCmd m lvl (regAt (.ncm x) 0x058) true (some (BitVec.ofNat 32 v)) { words := f } s
  | .engine e =>
    let a := 0o114006 + 8 * (x.val % 8)
    .next (if clusterOf e ≠ movCluster x ∨ !clocksOn s then s
      else if mvForeign s e x then recInternal s (.nce e) 0x87 a
      else movWrite s x 6 (BitVec.ofNat 18 v) a f)
/-- MOVER_START (R416). -/
def execMoverStart (src : CtlSrc) (x : Fin 256) (f : Findings) (s : State) : Result := md6Write src x 1 f s
/-- MOVER_ABORT (R418). -/
def execMoverAbort (src : CtlSrc) (x : Fin 256) (s : State) : Result := md6Write src x 2 [] s
/-- CM_CONF_READ (R425): mover i, or the fabric port for 8. -/
def execCmConfRead (m : Master) (lvl : Fin 4) (k : Fin 32) (i : Fin 9) (s : State) : Result := pageRead m lvl (.nc k) (0x080 + 4 * i.val) s

/-! ## Port banks and cells -/

/-- BANK_CFG_WRITE (R428). -/
def execBankCfgWrite (m : Master) (lvl : Fin 4) (b : Fin 16) (v : Reg32) (s : State) : Result := pageWrite m lvl (.pb b) 0x040 v s
/-- FORCE_SAFE (R430): set, VSEL at its current value. -/
def execForceSafe (m : Master) (lvl : Fin 4) (b : Fin 16) (s : State) : Result := pageWrite m lvl (.pb b) 0x040 (rd s (.pb b) 0x040 ||| 4) s
/-- CELL_CTRL_WRITE (R457, R458, R467). -/
def execCellCtrlWrite (m : Master) (lvl : Fin 4) (n : Fin 256) (v : Reg32) (s : State) : Result := pageWrite m lvl (.pc n) 0x040 v s
/-- CAP_LOST_READ (R467). -/
def execCapLostRead (m : Master) (lvl : Fin 4) (n : Fin 256) (s : State) : Result := pageRead m lvl (.pc n) 0x070 s

/-! ## Lanes, Ethernet, synchronised time, Tylwen -/

/-- The page of a function with lanes. -/
def laneFnPage : LaneFn → Page
  | .pcie c => .pce c | .eth m => .eth m | .tylwen => .tylw
/-- LANE_CLAIM (R470): the function's configuration word with EN 1. -/
def execLaneClaim (m : Master) (lvl : Fin 4) (x : LaneFn) (v : Reg32) (s : State) : Result := pageWrite m lvl (laneFnPage x) 0x040 (v ||| 1) s
/-- LANE_RELEASE (R470): EN written as 0, the other fields at their current values. -/
def execLaneRelease (m : Master) (lvl : Fin 4) (x : LaneFn) (s : State) : Result :=
  pageWrite m lvl (laneFnPage x) 0x040 (keepBits s (laneFnPage x) 0x040 1) s
/-- A write of ETH_CTL with FIRST and NSTR at their current values. -/
def ethCtlWrite (m : Master) (lvl : Fin 4) (k : Fin 8) (v : Nat) (env : MemEnv) (s : State) : Result :=
  regCmd m lvl (regAt (.eth k) 0x0A0) true (some (rd s (.eth k) 0x0A0 ||| BitVec.ofNat 32 v)) env s
/-- GCL_GO (R485). -/
def execGclGo (m : Master) (lvl : Fin 4) (k : Fin 8) (env : MemEnv) (s : State) : Result := ethCtlWrite m lvl k 1 env s
/-- CB_LOAD (R487). -/
def execCbLoad (m : Master) (lvl : Fin 4) (k : Fin 8) (env : MemEnv) (s : State) : Result := ethCtlWrite m lvl k 2 env s
/-- ETH_STAT_READ (R488). -/
def execEthStatRead (m : Master) (lvl : Fin 4) (k : Fin 8) (s : State) : Result := pageRead m lvl (.eth k) 0x044 s
/-- ETH_RXDROP_READ (R488). -/
def execEthRxdropRead (m : Master) (lvl : Fin 4) (k : Fin 8) (s : State) : Result := pageRead m lvl (.eth k) 0x0A4 s
/-- SYNT_NS_READ (R490). -/
def execSyntNsRead (m : Master) (lvl : Fin 4) (s : State) : Result := pageRead m lvl .tylw 0x080 s
/-- SYNT_STEP (R490). -/
def execSyntStep (m : Master) (lvl : Fin 4) (v : Reg32) (s : State) : Result := pageWrite m lvl .tylw 0x08C v s
/-- ACCEPT (R501): written as 1, the other fields of TYLW_CFG at their current values. -/
def execAccept (m : Master) (lvl : Fin 4) (s : State) : Result := pageWrite m lvl .tylw 0x040 (rd s .tylw 0x040 ||| 0x10) s
/-- TYLW_STAT_READ (R501). -/
def execTylwStatRead (m : Master) (lvl : Fin 4) (s : State) : Result := pageRead m lvl .tylw 0x044 s

/-! ## Interrupts -/

/-- SGI (R523). -/
def execSgi (m : Master) (lvl : Fin 4) (n : Fin 24) (v : BitVec 8) (s : State) : Result := pageWrite m lvl (.icp n) 0x04C (BitVec.ofNat 32 v.toNat) s
/-- ICP_TCMP_ARM (R522). -/
def execIcpTcmpArm (m : Master) (lvl : Fin 4) (n : Fin 24) (v : Reg32) (s : State) : Result := pageWrite m lvl (.icp n) 0x054 v s
/-- ICP_TCMP_DISARM (R522). -/
def execIcpTcmpDisarm (m : Master) (lvl : Fin 4) (n : Fin 24) (v : Reg32) (s : State) : Result := pageWrite m lvl (.icp n) 0x050 v s
/-- IC_STAT_READ (R525). -/
def execIcStatRead (m : Master) (lvl : Fin 4) (s : State) : Result := pageRead m lvl .ictl 0x048 s

/-! ## Domains -/

/-- A write of DOM_CTRL. -/
def domOpWrite (m : Master) (lvl : Fin 4) (d : Fin 64) (op : Nat) (s : State) : Result := pageWrite m lvl (.dom d) 0x040 (BitVec.ofNat 32 op) s
/-- CREATE (R527). -/
def execCreate (m : Master) (lvl : Fin 4) (d : Fin 64) (s : State) : Result := domOpWrite m lvl d 1 s
/-- RESET (R537). -/
def execReset (m : Master) (lvl : Fin 4) (d : Fin 64) (s : State) : Result := domOpWrite m lvl d 2 s
/-- START (R527). -/
def execStart (m : Master) (lvl : Fin 4) (d : Fin 64) (s : State) : Result := domOpWrite m lvl d 3 s
/-- DESTROY (R540). -/
def execDestroy (m : Master) (lvl : Fin 4) (d : Fin 64) (s : State) : Result := domOpWrite m lvl d 4 s
/-- DOM_DROP_READ (R545). -/
def execDomDropRead (m : Master) (lvl : Fin 4) (d : Fin 64) (s : State) : Result := pageRead m lvl (.dom d) 0x064 s

/-! ## Power states, faults, BIST -/

/-- A write of MARI_REQ. -/
def mariReqWrite (m : Master) (lvl : Fin 4) (st : Nat) (w : BitVec 3) (s : State) : Result :=
  pageWrite m lvl .mari 0x040 (BitVec.ofNat 32 (st + 16 * w.toNat)) s
/-- NAP (R551). -/
def execNap (m : Master) (lvl : Fin 4) (w : BitVec 3) (s : State) : Result := mariReqWrite m lvl 1 w s
/-- STANDBY (R551). -/
def execStandby (m : Master) (lvl : Fin 4) (s : State) : Result := mariReqWrite m lvl 2 0 s
/-- PARK (R551). -/
def execPark (m : Master) (lvl : Fin 4) (s : State) : Result := mariReqWrite m lvl 3 0 s
/-- OFF (R551). -/
def execOff (m : Master) (lvl : Fin 4) (s : State) : Result := mariReqWrite m lvl 4 0 s
/-- WAKE_STAT_READ (R565). -/
def execWakeStatRead (m : Master) (lvl : Fin 4) (s : State) : Result := pageRead m lvl .wake 0x044 s
/-- FLT_ACK (R585). -/
def execFltAck (m : Master) (lvl : Fin 4) (key : BitVec 16) (s : State) : Result := pageWrite m lvl .flts 0x044 (BitVec.ofNat 32 key.toNat) s
/-- WD_KICK (R572). -/
def execWdKick (m : Master) (lvl : Fin 4) (k : Fin 8) (key : BitVec 8) (s : State) : Result :=
  pageWrite m lvl .flts (0x064 + 8 * k.val) (BitVec.ofNat 32 key.toNat) s
/-- WD_CFG_WRITE (R572). -/
def execWdCfgWrite (m : Master) (lvl : Fin 4) (k : Fin 8) (v : Reg32) (s : State) : Result := pageWrite m lvl .flts (0x060 + 8 * k.val) v s
/-- FLT_LOG_POP (R573). -/
def execFltLogPop (m : Master) (lvl : Fin 4) (s : State) : Result := pageWrite m lvl .flts 0x0A4 1 s
/-- BIST_START (R577). -/
def execBistStart (m : Master) (lvl : Fin 4) (v : Reg32) (env : MemEnv) (s : State) : Result := regCmd m lvl (regAt .bist 0x040) true (some v) env s

end Sys2Proof.Machine
end

