-- ==== Sys2Proof/Machine/Float.lean ====
section
/-!
DEFINITION. Machine/Float.lean: IEEE 754 arithmetic of binary32 and binary64 as R215 to R220 give it: exact values, one
rounding, the five flags.
-/

namespace Sys2Proof.Machine

/-- A format: exponent bits and fraction bits (R216). -/
structure FFmt where
  eb : Nat
  mb : Nat
  deriving DecidableEq, Repr

/-- binary32. -/
def f32 : FFmt := ⟨8, 23⟩
/-- binary64. -/
def f64 : FFmt := ⟨11, 52⟩

/-- The format a FMT bit selects (R216). -/
def fmtOf (b : Bool) : FFmt := if b then f64 else f32

/-- The bits of a format. -/
def FFmt.width (f : FFmt) : Nat := 1 + f.eb + f.mb

/-- The exponent bias. -/
def FFmt.bias (f : FFmt) : Int := 2 ^ (f.eb - 1) - 1

/-- A value read from its bits: a NaN (signalling or not), an infinity, or (-1)^neg · m · 2^e. -/
inductive FVal where
  | nan (sig : Bool)
  | inf (neg : Bool)
  | fin (neg : Bool) (m : Nat) (e : Int)
  deriving DecidableEq, Repr

/-- The sticky flags of FPCSR (R215). -/
structure FFlags where
  nv : Bool := false
  dz : Bool := false
  of : Bool := false
  uf : Bool := false
  nx : Bool := false
  deriving DecidableEq, Repr

/-- The value that bits hold (R219: subnormals in full). -/
def fDecode (f : FFmt) (x : Nat) : FVal :=
  let neg := x.testBit (f.eb + f.mb)
  let e := x / 2 ^ f.mb % 2 ^ f.eb
  let m := x % 2 ^ f.mb
  if e = 2 ^ f.eb - 1 then (if m = 0 then .inf neg else .nan (!m.testBit (f.mb - 1)))
  else if e = 0 then .fin neg m (1 - f.bias - f.mb)
  else .fin neg (m + 2 ^ f.mb) ((e : Int) - f.bias - f.mb)

/-- The canonical NaN (R219). -/
def fNaN (f : FFmt) : Nat := (2 ^ f.eb - 1) * 2 ^ f.mb + 2 ^ (f.mb - 1)

/-- The sign bit. -/
def fSign (f : FFmt) (neg : Bool) : Nat := if neg then 2 ^ (f.eb + f.mb) else 0

/-- An infinity's bits. -/
def fInf (f : FFmt) (neg : Bool) : Nat := fSign f neg + (2 ^ f.eb - 1) * 2 ^ f.mb

/-- The largest finite magnitude. -/
def fMaxFin (f : FFmt) (neg : Bool) : Nat := fInf f neg - 1

/-- Whether rounding mode `rm` (R216) adds one to a magnitude whose dropped part is `rem` of `2^d`. -/
def roundUp (rm : Nat) (neg : Bool) (m rem d : Nat) : Bool :=
  let half := 2 ^ d / 2
  match rm with
  | 0 => decide (half < rem) || (decide (rem = half) && decide (m % 2 = 1) && decide (0 < d))
  | 1 => !neg && decide (0 < rem)
  | 2 => neg && decide (0 < rem)
  | 3 => false
  | _ => decide (half ≤ rem) && decide (0 < d)

/-- A magnitude m · 2^e rounded to a multiple of 2^q: the multiple and whether it is exact. `sticky` says that the true
magnitude lies a little above m · 2^e. -/
def roundTo (rm : Nat) (neg : Bool) (m : Nat) (e q : Int) (sticky : Bool) : Nat × Bool :=
  let m2 := 2 * m + sticky.toNat
  let e2 := e - 1
  if q ≤ e2 then (m2 * 2 ^ (e2 - q).toNat, true)
  else
    let d := (q - e2).toNat
    let t := m2 / 2 ^ d
    let r := m2 % 2 ^ d
    (if roundUp rm neg t r d then t + 1 else t, r = 0)

/-- The rounded result of an exact magnitude m · 2^e, with overflow, underflow (tininess after rounding, R219) and inexact. -/
def fRound (f : FFmt) (rm : Nat) (neg : Bool) (m : Nat) (e : Int) (sticky : Bool) : Nat × FFlags :=
  if m = 0 ∧ !sticky then (fSign f neg, {})
  else
    let emin : Int := 1 - f.bias
    let lead : Int := (if m = 0 then e - 1 else (Nat.log2 m : Int) + e)
    let q := max lead emin - f.mb
    let (t, exact) := roundTo rm neg m e q sticky
    let (tu, _) := roundTo rm neg m e (lead - f.mb) sticky
    let tiny := decide (lead < emin) && !(decide (tu = 2 ^ (f.mb + 1)) && decide (emin ≤ lead + 1))
    let (t, q) := if t = 2 ^ (f.mb + 1) then (2 ^ f.mb, q + 1) else (t, q)
    if t < 2 ^ f.mb then (fSign f neg + t, { uf := tiny && !exact, nx := !exact })
    else
      let be := q + f.mb + f.bias
      if be ≥ 2 ^ f.eb - 1 then
        let big := match rm with
          | 1 => !neg
          | 2 => neg
          | 3 => false
          | _ => true
        (if big then fInf f neg else fMaxFin f neg, { of := true, nx := true })
      else (fSign f neg + be.toNat * 2 ^ f.mb + (t - 2 ^ f.mb), { uf := tiny && !exact, nx := !exact })

/-- Flags of two steps together. -/
def FFlags.or (a b : FFlags) : FFlags :=
  { nv := a.nv || b.nv, dz := a.dz || b.dz, of := a.of || b.of, uf := a.uf || b.uf, nx := a.nx || b.nx }

/-- A value is a signalling NaN. -/
def isSig : FVal → Bool
  | .nan sg => sg
  | _ => false

/-- A value is a NaN. -/
def isNaN : FVal → Bool
  | .nan _ => true
  | _ => false

/-- The sign of a value. -/
def negOf : FVal → Bool
  | .inf n => n
  | .fin n _ _ => n
  | .nan _ => false

/-- A value with its sign turned. -/
def fNeg : FVal → FVal
  | .inf n => .inf (!n)
  | .fin n m e => .fin (!n) m e
  | v => v

/-- Invalid: the canonical NaN with NV (R219). -/
def fInvalid (f : FFmt) : Nat × FFlags := (fNaN f, { nv := true })

/-- The signed integer that scales a finite value to exponent `e0`. -/
def scaled (neg : Bool) (m : Nat) (e e0 : Int) : Int :=
  let z : Int := (m * 2 ^ (e - e0).toNat : Nat)
  if neg then -z else z

/-- Sum of two values with one rounding; an exact zero sum of unlike signs is +0, or −0 toward −∞. -/
def fAddV (f : FFmt) (rm : Nat) (x y : FVal) : Nat × FFlags :=
  match x, y with
  | .nan a, .nan b => (fNaN f, { nv := a || b })
  | .nan a, _ => (fNaN f, { nv := a })
  | _, .nan b => (fNaN f, { nv := b })
  | .inf a, .inf b => if a = b then (fInf f a, {}) else fInvalid f
  | .inf a, _ => (fInf f a, {})
  | _, .inf b => (fInf f b, {})
  | .fin na ma ea, .fin nb mb eb =>
    let e0 := min ea eb
    let z := scaled na ma ea e0 + scaled nb mb eb e0
    if z = 0 then (fSign f (if na = nb then na else rm = 2), {})
    else fRound f rm (z < 0) z.natAbs e0 false

/-- Product of two values with one rounding. -/
def fMulV (f : FFmt) (rm : Nat) (x y : FVal) : Nat × FFlags :=
  match x, y with
  | .nan a, .nan b => (fNaN f, { nv := a || b })
  | .nan a, _ => (fNaN f, { nv := a })
  | _, .nan b => (fNaN f, { nv := b })
  | .inf a, .inf b => (fInf f (a != b), {})
  | .inf a, .fin b m _ => if m = 0 then fInvalid f else (fInf f (a != b), {})
  | .fin a m _, .inf b => if m = 0 then fInvalid f else (fInf f (a != b), {})
  | .fin na ma ea, .fin nb mb eb => fRound f rm (na != nb) (ma * mb) (ea + eb) false

/-- Quotient of two values with one rounding. -/
def fDivV (f : FFmt) (rm : Nat) (x y : FVal) : Nat × FFlags :=
  match x, y with
  | .nan a, .nan b => (fNaN f, { nv := a || b })
  | .nan a, _ => (fNaN f, { nv := a })
  | _, .nan b => (fNaN f, { nv := b })
  | .inf _, .inf _ => fInvalid f
  | .inf a, .fin b _ _ => (fInf f (a != b), {})
  | .fin a _ _, .inf b => (fSign f (a != b), {})
  | .fin na ma ea, .fin nb mb eb =>
    if mb = 0 then (if ma = 0 then fInvalid f else (fInf f (na != nb), { dz := true }))
    else
      let k := 2 * f.mb + 4 + Nat.log2 mb
      let n := ma * 2 ^ k
      fRound f rm (na != nb) (n / mb) (ea - eb - k) (n % mb ≠ 0)

/-- The integer square root of `x` below 2^(2k), bit by bit. -/
def isqrt : Nat → Nat → Nat → Nat
  | 0, _, r => r
  | k + 1, x, r => if (r + 2 ^ k) * (r + 2 ^ k) ≤ x then isqrt k x (r + 2 ^ k) else isqrt k x r

/-- Square root of a value with one rounding. -/
def fSqrtV (f : FFmt) (rm : Nat) (x : FVal) : Nat × FFlags :=
  match x with
  | .nan a => (fNaN f, { nv := a })
  | .inf a => if a then fInvalid f else (fInf f false, {})
  | .fin na m e =>
    if m = 0 then (fSign f na, {})
    else if na then fInvalid f
    else
      let (m, e) := if e % 2 = 0 then (m, e) else (2 * m, e - 1)
      let k := f.mb + 3
      let n := m * 2 ^ (2 * k)
      let r := isqrt (Nat.log2 n / 2 + 1) n 0
      fRound f rm false r (e / 2 - k) (r * r ≠ n)

/-- Fused product and sum with one rounding (R218): ∞ × 0 is invalid even beside a quiet NaN. -/
def fFmaV (f : FFmt) (rm : Nat) (x y z : FVal) : Nat × FFlags :=
  let sig := isSig x || isSig y || isSig z
  let bad := match x, y with
    | .inf _, .fin _ 0 _ => true
    | .fin _ 0 _, .inf _ => true
    | _, _ => false
  if bad then fInvalid f
  else if isNaN x || isNaN y || isNaN z then (fNaN f, { nv := sig })
  else match x, y, z with
    | .fin na ma ea, .fin nb mb eb, .fin nc mc ec =>
      if ma * mb = 0 ∧ mc = 0 then (fSign f (if (na != nb) = nc then nc else rm = 2), {})
      else
        let e0 := min (ea + eb) ec
        let v := scaled (na != nb) (ma * mb) (ea + eb) e0 + scaled nc mc ec e0
        if v = 0 then (fSign f (if (na != nb) = nc then nc else rm = 2), {}) else fRound f rm (v < 0) v.natAbs e0 false
    | .fin _ _ _, .fin _ _ _, .inf c => (fInf f c, {})
    | a, b, .inf c => if (negOf a != negOf b) = c then (fInf f c, {}) else fInvalid f
    | a, b, _ => (fInf f (negOf a != negOf b), {})

/-- The order of two values that are no NaN: x < y. -/
def fLtV (x y : FVal) : Bool :=
  match x, y with
  | .inf a, .inf b => a && !b
  | .inf a, _ => a
  | _, .inf b => !b
  | .fin na ma ea, .fin nb mb eb => decide (scaled na ma ea (min ea eb) < scaled nb mb eb (min ea eb))
  | _, _ => false

/-- Equality of two values that are no NaN; the two zeros are equal. -/
def fEqV (x y : FVal) : Bool :=
  match x, y with
  | .inf a, .inf b => a == b
  | .fin na ma ea, .fin nb mb eb => decide (scaled na ma ea (min ea eb) = scaled nb mb eb (min ea eb))
  | _, _ => false

/-- FMIN and FMAX (R217): −0 below +0, one NaN gives the other operand, two NaNs the canonical NaN. `xb`, `yb` are the bits. -/
def fMinMax (f : FFmt) (wantMax : Bool) (xb yb : Nat) : Nat × FFlags :=
  let x := fDecode f xb
  let y := fDecode f yb
  let fl : FFlags := { nv := isSig x || isSig y }
  if isNaN x && isNaN y then (fNaN f, fl)
  else if isNaN x then (yb, fl)
  else if isNaN y then (xb, fl)
  else
    let less := fLtV x y || (fEqV x y && negOf x && !negOf y)
    (if less != wantMax then xb else yb, fl)

/-- A value converted to an integer of `w` bits (R220): the result as a natural number of `w` bits. -/
def fToInt (w : Nat) (signed : Bool) (rm : Nat) (x : FVal) : Nat × FFlags :=
  let hi : Int := if signed then 2 ^ (w - 1) - 1 else 2 ^ w - 1
  let lo : Int := if signed then -(2 ^ (w - 1)) else 0
  match x with
  | .nan _ => (wrapN w hi, { nv := true })
  | .inf n => (wrapN w (if n then lo else hi), { nv := true })
  | .fin n m e =>
    let (t, exact) := roundTo rm n m e 0 false
    let z : Int := if n then -(t : Int) else t
    if z > hi then (wrapN w hi, { nv := true })
    else if z < lo then (wrapN w lo, { nv := true })
    else (wrapN w z, { nx := !exact })

/-- An integer converted to a format. -/
def fOfInt (f : FFmt) (rm : Nat) (z : Int) : Nat × FFlags := fRound f rm (z < 0) z.natAbs 0 false

/-- A value converted to another format (FCVT.F). -/
def fConvert (f : FFmt) (rm : Nat) (x : FVal) : Nat × FFlags :=
  match x with
  | .nan a => (fNaN f, { nv := a })
  | .inf n => (fInf f n, {})
  | .fin n m e => fRound f rm n m e false

end Sys2Proof.Machine
end

