-- ==== Sys2Proof/Machine/WinovarFp.lean ====
section
/-!
DEFINITION. Machine/WinovarFp.lean: the floating-point instructions of a Winovar core (R215 to R220).
-/

namespace Sys2Proof.Machine

/-- The rounding mode of an instruction: its RM field, or FPCSR.RM for 0b101; 0b110 and 0b111 are reserved (R216). -/
def fpMode (s : State) (n : Fin 24) (rm : Fin 8) : Option Nat :=
  if rm.val = 5 then some (fld (sysr s n 0x002) 8 3) else if rm.val < 5 then some rm.val else none

/-- The bits of an operand in a format: bits 31:0 for binary32 (R219). -/
def fpBits (s : State) (n : Fin 24) (fmt : Bool) (r : Fin 32) : Nat := (getFr s n r).toNat % 2 ^ (fmtOf fmt).width

/-- The value of an operand. -/
def fpVal (s : State) (n : Fin 24) (fmt : Bool) (r : Fin 32) : FVal := fDecode (fmtOf fmt) (fpBits s n fmt r)

/-- The flags of an instruction are added to FPCSR (R215). -/
def fpFlags (s : State) (n : Fin 24) (f : FFlags) : State :=
  setSys s n 0x002 (sysr s n 0x002 |||
    BitVec.ofNat 64 (f.nv.toNat + 2 * f.dz.toNat + 4 * f.of.toNat + 8 * f.uf.toNat + 16 * f.nx.toNat))

/-- An instruction whose result goes to an f register; a binary32 result clears bits 63:32 (R219). -/
def fpResult (n : Fin 24) (d : Fin 32) (g : State → Nat × FFlags) (f : Front) : State → Result :=
  wInstr n f fun s =>
    let r := g s
    .done (setFr (fpFlags s n r.2) n d (BitVec.ofNat 64 r.1)) (nextPc s n) []

/-- An instruction whose result goes to a w register. -/
def fpResultW (n : Fin 24) (d : Fin 32) (g : State → Nat × FFlags) (f : Front) : State → Result :=
  wInstr n f fun s =>
    let r := g s
    .done (setW (fpFlags s n r.2) n d (BitVec.ofNat 64 r.1)) (nextPc s n) []

/-- A rounded instruction: a reserved RM raises UNDEF (R216). -/
def fpRounded (n : Fin 24) (rm : Fin 8) (k : Nat → State → Nat × FFlags) (put : State → Nat × FFlags → State) (f : Front) :
    State → Result :=
  wInstr n f fun s =>
    match fpMode s n rm with
    | none => .exc s { code := 0x01 }
    | some m => .done (put s (k m s)) (nextPc s n) []

/-- The result put into an f register with its flags. -/
def putF (n : Fin 24) (d : Fin 32) (s : State) (r : Nat × FFlags) : State :=
  setFr (fpFlags s n r.2) n d (BitVec.ofNat 64 r.1)

/-- The result put into a w register, sign-extended from `w` bits, with its flags. -/
def putWx (w : Nat) (n : Fin 24) (d : Fin 32) (s : State) (r : Nat × FFlags) : State :=
  setW (fpFlags s n r.2) n d (BitVec.ofInt 64 (sextN w r.1))

/-- A rounded operation of two f operands (R217). -/
def fpBin (g : FFmt → Nat → FVal → FVal → Nat × FFlags) (n : Fin 24) (d a b : Fin 32) (fmt : Bool) (rm : Fin 8) :
    Front → State → Result :=
  fpRounded n rm (fun m s => g (fmtOf fmt) m (fpVal s n fmt a) (fpVal s n fmt b)) (putF n d)

/-- FADD (R217). Sum. -/
def execWFadd : (n : Fin 24) → (d a b : Fin 32) → Bool → Fin 8 → Front → State → Result := fpBin fun f m x y => fAddV f m x y

/-- FSUB (R217). Difference. -/
def execWFsub : (n : Fin 24) → (d a b : Fin 32) → Bool → Fin 8 → Front → State → Result := fpBin fun f m x y => fAddV f m x (fNeg y)

/-- FMUL (R217). Product. -/
def execWFmul : (n : Fin 24) → (d a b : Fin 32) → Bool → Fin 8 → Front → State → Result := fpBin fun f m x y => fMulV f m x y

/-- FDIV (R217). Quotient. -/
def execWFdiv : (n : Fin 24) → (d a b : Fin 32) → Bool → Fin 8 → Front → State → Result := fpBin fun f m x y => fDivV f m x y

/-- FSQRT (R217). -/
def execWFsqrt (n : Fin 24) (d a : Fin 32) (fmt : Bool) (rm : Fin 8) : Front → State → Result :=
  fpRounded n rm (fun m s => fSqrtV (fmtOf fmt) m (fpVal s n fmt a)) (putF n d)

/-- FMIN (R217). -/
def execWFmin (n : Fin 24) (d a b : Fin 32) (fmt : Bool) : Front → State → Result :=
  fpResult n d fun s => fMinMax (fmtOf fmt) false (fpBits s n fmt a) (fpBits s n fmt b)

/-- FMAX (R217). -/
def execWFmax (n : Fin 24) (d a b : Fin 32) (fmt : Bool) : Front → State → Result :=
  fpResult n d fun s => fMinMax (fmtOf fmt) true (fpBits s n fmt a) (fpBits s n fmt b)

/-- A sign operation: the magnitude of fa with a sign computed from the two signs (R217). -/
def fpSgn (g : Bool → Bool → Bool) (n : Fin 24) (d a b : Fin 32) (fmt : Bool) : Front → State → Result :=
  fpResult n d fun s =>
    let k := (fmtOf fmt).eb + (fmtOf fmt).mb
    let x := fpBits s n fmt a
    (x % 2 ^ k + (if g (x.testBit k) ((fpBits s n fmt b).testBit k) then 2 ^ k else 0), {})

/-- FSGN (R217). -/
def execWFsgn : (n : Fin 24) → (d a b : Fin 32) → Bool → Front → State → Result := fpSgn fun _ y => y

/-- FSGNN (R217). -/
def execWFsgnn : (n : Fin 24) → (d a b : Fin 32) → Bool → Front → State → Result := fpSgn fun _ y => !y

/-- FSGNX (R217). -/
def execWFsgnx : (n : Fin 24) → (d a b : Fin 32) → Bool → Front → State → Result := fpSgn fun x y => x != y

/-- A compare (R217): NaN operands compare false. `quiet` says that only a signalling NaN sets NV. -/
def fpCmp (quiet : Bool) (g : FVal → FVal → Bool) (n : Fin 24) (d a b : Fin 32) (fmt : Bool) : Front → State → Result :=
  fpResultW n d fun s =>
    let x := fpVal s n fmt a
    let y := fpVal s n fmt b
    if isNaN x || isNaN y then (0, { nv := !quiet || isSig x || isSig y }) else ((g x y).toNat, {})

/-- FEQ (R217). -/
def execWFeq : (n : Fin 24) → (d a b : Fin 32) → Bool → Front → State → Result := fpCmp true fEqV

/-- FLT (R217). -/
def execWFlt : (n : Fin 24) → (d a b : Fin 32) → Bool → Front → State → Result := fpCmp false fLtV

/-- FLE (R217). -/
def execWFle : (n : Fin 24) → (d a b : Fin 32) → Bool → Front → State → Result := fpCmp false fun x y => fLtV x y || fEqV x y

/-- FCVT.F (R217): from the other format into FMT. -/
def execWFcvtF (n : Fin 24) (d a : Fin 32) (fmt : Bool) (rm : Fin 8) : Front → State → Result :=
  fpRounded n rm (fun m s => fConvert (fmtOf fmt) m (fpVal s n (!fmt) a)) (putF n d)

/-- A conversion to an integer (R217, R220); `w` and `signed` give the integer type. -/
def fpToInt (w : Nat) (signed : Bool) (n : Fin 24) (d a : Fin 32) (fmt : Bool) (rm : Fin 8) : Front → State → Result :=
  fpRounded n rm (fun m s => fToInt w signed m (fpVal s n fmt a)) (putWx w n d)

/-- FCVT.L (R220). -/
def execWFcvtL : (n : Fin 24) → (d a : Fin 32) → Bool → Fin 8 → Front → State → Result := fpToInt 64 true

/-- FCVT.LU (R220). -/
def execWFcvtLu : (n : Fin 24) → (d a : Fin 32) → Bool → Fin 8 → Front → State → Result := fpToInt 64 false

/-- FCVT.W (R220). -/
def execWFcvtW : (n : Fin 24) → (d a : Fin 32) → Bool → Fin 8 → Front → State → Result := fpToInt 32 true

/-- FCVT.WU (R220). -/
def execWFcvtWu : (n : Fin 24) → (d a : Fin 32) → Bool → Fin 8 → Front → State → Result := fpToInt 32 false

/-- A conversion from an integer held in wa (R217). -/
def fpOfInt (g : Word64 → Int) (n : Fin 24) (d a : Fin 32) (fmt : Bool) (rm : Fin 8) : Front → State → Result :=
  fpRounded n rm (fun m s => fOfInt (fmtOf fmt) m (g (getW s n a))) (putF n d)

/-- FCVT.FL (R217). -/
def execWFcvtFl : (n : Fin 24) → (d a : Fin 32) → Bool → Fin 8 → Front → State → Result := fpOfInt fun x => x.toInt

/-- FCVT.FLU (R217). -/
def execWFcvtFlu : (n : Fin 24) → (d a : Fin 32) → Bool → Fin 8 → Front → State → Result := fpOfInt fun x => x.toNat

/-- FCVT.FW (R217). -/
def execWFcvtFw : (n : Fin 24) → (d a : Fin 32) → Bool → Fin 8 → Front → State → Result := fpOfInt fun x => sextN 32 x.toNat

/-- FCVT.FWU (R217). -/
def execWFcvtFwu : (n : Fin 24) → (d a : Fin 32) → Bool → Fin 8 → Front → State → Result := fpOfInt fun x => (x.toNat % 2 ^ 32 : Nat)

/-- FMV.X (R217): the bits of fa, a binary32 sign-extended. -/
def execWFmvX (n : Fin 24) (d a : Fin 32) (fmt : Bool) : Front → State → Result :=
  wResult n d fun s => if fmt then getFr s n a else BitVec.ofInt 64 (sextN 32 (getFr s n a).toNat)

/-- FMV.F (R217): the bits of wa, only bits 31:0 for binary32. -/
def execWFmvF (n : Fin 24) (d a : Fin 32) (fmt : Bool) : Front → State → Result :=
  fpResult n d fun s => ((getW s n a).toNat % 2 ^ (fmtOf fmt).width, {})

/-- A fused operation (R218): `np` negates the product and `nc` the addend. -/
def fpFma (np nc : Bool) (n : Fin 24) (d a b c : Fin 32) (fmt : Bool) (rm : Fin 8) : Front → State → Result :=
  fpRounded n rm (fun m s =>
    let x := fpVal s n fmt a
    let z := fpVal s n fmt c
    fFmaV (fmtOf fmt) m (if np then fNeg x else x) (fpVal s n fmt b) (if nc then fNeg z else z)) (putF n d)

/-- FMADD (R218). -/
def execWFmadd : (n : Fin 24) → (d a b c : Fin 32) → Bool → Fin 8 → Front → State → Result := fpFma false false

/-- FMSUB (R218). -/
def execWFmsub : (n : Fin 24) → (d a b c : Fin 32) → Bool → Fin 8 → Front → State → Result := fpFma false true

/-- FNMSUB (R218). -/
def execWFnmsub : (n : Fin 24) → (d a b c : Fin 32) → Bool → Fin 8 → Front → State → Result := fpFma true false

/-- FNMADD (R218). -/
def execWFnmadd : (n : Fin 24) → (d a b c : Fin 32) → Bool → Fin 8 → Front → State → Result := fpFma true true

end Sys2Proof.Machine
end

