-- ==== Sys2Proof/Machine/Operands.lean ====
section
/-!
DEFINITION. Machine/Operands.lean: the operand forms and arithmetic that the Winovar integer instructions share
(R201 to R206).
-/

namespace Sys2Proof.Machine

/-- Bits 31:0, zero-extended. -/
def lo32 (x : Word64) : Word64 := (x.setWidth 32).setWidth 64

/-- Bits 31:0, sign-extended (R201). -/
def sext32 (x : Word64) : Word64 := (x.setWidth 32).signExtend 64

/-- Leading zeros, 0 to 64 (R202, R206). -/
def clz64 (x : Word64) : Word64 :=
  BitVec.ofNat 64 (if x.toNat = 0 then 64 else 63 - Nat.log2 x.toNat)

/-- The number of zero bits below the lowest 1 among the low `k` bits. -/
def ctzN : Nat → Nat → Nat
  | 0, _ => 0
  | k + 1, x => if x % 2 = 1 then 0 else 1 + ctzN k (x / 2)

/-- Trailing zeros, 0 to 64 (R202, R206). -/
def ctz64 (x : Word64) : Word64 := BitVec.ofNat 64 (ctzN 64 x.toNat)

/-- The number of 1 bits among the low `k` bits. -/
def popN : Nat → Nat → Nat
  | 0, _ => 0
  | k + 1, x => x % 2 + popN k (x / 2)

/-- Count of 1 bits (R202). -/
def popc64 (x : Word64) : Word64 := BitVec.ofNat 64 (popN 64 x.toNat)

/-- Bits 127:64 of a product (R205). -/
def mulHigh (x y : Int) : Word64 := BitVec.ofInt 64 (x * y / 2 ^ 64)

/-- Signed quotient of the low `w` bits, rounded toward zero (R205, R206). -/
def divS (w x y : Nat) : Word64 :=
  let a := sextN w x
  let b := sextN w y
  if b = 0 then BitVec.ofInt 64 (-1) else BitVec.ofInt 64 (a.tdiv b)

/-- Unsigned quotient of the low `w` bits (R205, R206). -/
def divU (w x y : Nat) : Word64 :=
  if y % 2 ^ w = 0 then BitVec.ofInt 64 (-1) else BitVec.ofNat 64 (x % 2 ^ w / (y % 2 ^ w))

/-- Signed remainder of the low `w` bits, with the sign of the dividend (R205, R206). -/
def remS (w x y : Nat) : Word64 :=
  let a := sextN w x
  let b := sextN w y
  if b = 0 then BitVec.ofInt 64 a else BitVec.ofInt 64 (a.tmod b)

/-- Unsigned remainder of the low `w` bits (R205, R206). -/
def remU (w x y : Nat) : Word64 :=
  if y % 2 ^ w = 0 then BitVec.ofNat 64 (x % 2 ^ w) else BitVec.ofNat 64 (x % 2 ^ w % (y % 2 ^ w))

end Sys2Proof.Machine
end

