-- ==== Sys2Proof/Machine/WinovarInt.lean ====
section
/-!
DEFINITION. Machine/WinovarInt.lean: the integer, branch and jump instructions of a Winovar core (R201 to R206, R213, R214).
-/

namespace Sys2Proof.Machine

/-- A shift count for 64-bit shifts: bits 5:0 (R204). -/
def sh6 (b : Word64) : Nat := b.toNat % 64

/-- A shift count for W shifts: bits 4:0 (R204). -/
def sh5 (b : Word64) : Nat := b.toNat % 32

/-- An R-format operation (R202, R205): wd := f wa wb. -/
def rOp (f : Word64 → Word64 → Word64) (n : Fin 24) (d a b : Fin 32) : Front → State → Result :=
  wResult n d fun s => f (getW s n a) (getW s n b)

/-- An operation of one source. -/
def uOp (f : Word64 → Word64) (n : Fin 24) (d a : Fin 32) : Front → State → Result :=
  wResult n d fun s => f (getW s n a)

/-- ADD (R202). -/
def execWAdd : (n : Fin 24) → (d a b : Fin 32) → Front → State → Result := rOp fun x y => x + y

/-- SUB (R202). -/
def execWSub : (n : Fin 24) → (d a b : Fin 32) → Front → State → Result := rOp fun x y => x - y

/-- AND (R202). -/
def execWAnd : (n : Fin 24) → (d a b : Fin 32) → Front → State → Result := rOp fun x y => x &&& y

/-- OR (R202). -/
def execWOr : (n : Fin 24) → (d a b : Fin 32) → Front → State → Result := rOp fun x y => x ||| y

/-- XOR (R202). -/
def execWXor : (n : Fin 24) → (d a b : Fin 32) → Front → State → Result := rOp fun x y => x ^^^ y

/-- ANDN (R202). -/
def execWAndn : (n : Fin 24) → (d a b : Fin 32) → Front → State → Result := rOp fun x y => x &&& ~~~y

/-- SLL (R202, R204). -/
def execWSll : (n : Fin 24) → (d a b : Fin 32) → Front → State → Result := rOp fun x y => x <<< sh6 y

/-- SRL (R202, R204). -/
def execWSrl : (n : Fin 24) → (d a b : Fin 32) → Front → State → Result := rOp fun x y => x >>> sh6 y

/-- SRA (R202, R204). -/
def execWSra : (n : Fin 24) → (d a b : Fin 32) → Front → State → Result := rOp fun x y => x.sshiftRight (sh6 y)

/-- ROR (R202, R204). -/
def execWRor : (n : Fin 24) → (d a b : Fin 32) → Front → State → Result := rOp fun x y => x.rotateRight (sh6 y)

/-- SLT (R202). -/
def execWSlt : (n : Fin 24) → (d a b : Fin 32) → Front → State → Result := rOp fun x y => if x.slt y then 1 else 0

/-- SLTU (R202). -/
def execWSltu : (n : Fin 24) → (d a b : Fin 32) → Front → State → Result := rOp fun x y => if x < y then 1 else 0

/-- MIN (R202). -/
def execWMin : (n : Fin 24) → (d a b : Fin 32) → Front → State → Result := rOp fun x y => if x.slt y then x else y

/-- MAX (R202). -/
def execWMax : (n : Fin 24) → (d a b : Fin 32) → Front → State → Result := rOp fun x y => if x.slt y then y else x

/-- MINU (R202). -/
def execWMinu : (n : Fin 24) → (d a b : Fin 32) → Front → State → Result := rOp fun x y => if x < y then x else y

/-- MAXU (R202). -/
def execWMaxu : (n : Fin 24) → (d a b : Fin 32) → Front → State → Result := rOp fun x y => if x < y then y else x

/-- ADDW (R202). -/
def execWAddw : (n : Fin 24) → (d a b : Fin 32) → Front → State → Result := rOp fun x y => sext32 (x + y)

/-- SUBW (R202, R206). -/
def execWSubw : (n : Fin 24) → (d a b : Fin 32) → Front → State → Result := rOp fun x y => sext32 (x - y)

/-- SLLW (R202, R204). -/
def execWSllw : (n : Fin 24) → (d a b : Fin 32) → Front → State → Result := rOp fun x y => sext32 (lo32 x <<< sh5 y)

/-- SRLW (R202, R204, R206). -/
def execWSrlw : (n : Fin 24) → (d a b : Fin 32) → Front → State → Result := rOp fun x y => sext32 (lo32 x >>> sh5 y)

/-- SRAW (R202, R204). -/
def execWSraw : (n : Fin 24) → (d a b : Fin 32) → Front → State → Result := rOp fun x y => sext32 (((lo32 x).setWidth 32).sshiftRight (sh5 y) |>.setWidth 64)

/-- RORW (R202, R204). -/
def execWRorw : (n : Fin 24) → (d a b : Fin 32) → Front → State → Result := rOp fun x y => sext32 ((x.setWidth 32).rotateRight (sh5 y) |>.setWidth 64)

/-- MUL (R205). -/
def execWMul : (n : Fin 24) → (d a b : Fin 32) → Front → State → Result := rOp fun x y => x * y

/-- MULH (R205). -/
def execWMulh : (n : Fin 24) → (d a b : Fin 32) → Front → State → Result := rOp fun x y => mulHigh x.toInt y.toInt

/-- MULHU (R205). -/
def execWMulhu : (n : Fin 24) → (d a b : Fin 32) → Front → State → Result := rOp fun x y => mulHigh x.toNat y.toNat

/-- MULHSU (R205). -/
def execWMulhsu : (n : Fin 24) → (d a b : Fin 32) → Front → State → Result := rOp fun x y => mulHigh x.toInt y.toNat

/-- DIV (R205, R206). -/
def execWDiv : (n : Fin 24) → (d a b : Fin 32) → Front → State → Result := rOp fun x y => divS 64 x.toNat y.toNat

/-- DIVU (R205, R206). -/
def execWDivu : (n : Fin 24) → (d a b : Fin 32) → Front → State → Result := rOp fun x y => divU 64 x.toNat y.toNat

/-- REM (R205, R206). -/
def execWRem : (n : Fin 24) → (d a b : Fin 32) → Front → State → Result := rOp fun x y => remS 64 x.toNat y.toNat

/-- REMU (R205, R206). -/
def execWRemu : (n : Fin 24) → (d a b : Fin 32) → Front → State → Result := rOp fun x y => remU 64 x.toNat y.toNat

/-- MULW (R205). -/
def execWMulw : (n : Fin 24) → (d a b : Fin 32) → Front → State → Result := rOp fun x y => sext32 (x * y)

/-- DIVW (R205, R206). -/
def execWDivw : (n : Fin 24) → (d a b : Fin 32) → Front → State → Result := rOp fun x y => sext32 (divS 32 x.toNat y.toNat)

/-- DIVUW (R205, R206). -/
def execWDivuw : (n : Fin 24) → (d a b : Fin 32) → Front → State → Result := rOp fun x y => sext32 (divU 32 x.toNat y.toNat)

/-- REMW (R205, R206). -/
def execWRemw : (n : Fin 24) → (d a b : Fin 32) → Front → State → Result := rOp fun x y => sext32 (remS 32 x.toNat y.toNat)

/-- REMUW (R205, R206). -/
def execWRemuw : (n : Fin 24) → (d a b : Fin 32) → Front → State → Result := rOp fun x y => sext32 (remU 32 x.toNat y.toNat)

/-- CLZ (R202, R206). -/
def execWClz : (n : Fin 24) → (d a : Fin 32) → Front → State → Result := uOp fun x => clz64 x

/-- CTZ (R202, R206). -/
def execWCtz : (n : Fin 24) → (d a : Fin 32) → Front → State → Result := uOp fun x => ctz64 x

/-- POPC (R202). -/
def execWPopc : (n : Fin 24) → (d a : Fin 32) → Front → State → Result := uOp fun x => popc64 x

/-- An I-format operation on an immediate: `f` gets wa, the sign-extended and the zero-extended immediate (R203). -/
def iOp (f : Word64 → Word64 → Word64 → Word64) (n : Fin 24) (d a : Fin 32) (imm : BitVec 16) : Front → State → Result :=
  wResult n d fun s => f (getW s n a) (imm.signExtend 64) (imm.setWidth 64)

/-- ADDI (R203). -/
def execWAddi : (n : Fin 24) → (d a : Fin 32) → BitVec 16 → Front → State → Result := iOp fun x sx zx => x + sx

/-- ADDIW (R203). -/
def execWAddiw : (n : Fin 24) → (d a : Fin 32) → BitVec 16 → Front → State → Result := iOp fun x sx zx => sext32 (x + sx)

/-- SLTI (R203). -/
def execWSlti : (n : Fin 24) → (d a : Fin 32) → BitVec 16 → Front → State → Result := iOp fun x sx zx => if x.slt sx then 1 else 0

/-- SLTIU (R203). -/
def execWSltiu : (n : Fin 24) → (d a : Fin 32) → BitVec 16 → Front → State → Result := iOp fun x sx zx => if x < sx then 1 else 0

/-- ANDI (R203). -/
def execWAndi : (n : Fin 24) → (d a : Fin 32) → BitVec 16 → Front → State → Result := iOp fun x sx zx => x &&& zx

/-- ORI (R203). -/
def execWOri : (n : Fin 24) → (d a : Fin 32) → BitVec 16 → Front → State → Result := iOp fun x sx zx => x ||| zx

/-- XORI (R203). -/
def execWXori : (n : Fin 24) → (d a : Fin 32) → BitVec 16 → Front → State → Result := iOp fun x sx zx => x ^^^ zx

/-- LUI (R203). -/
def execWLui (n : Fin 24) (d : Fin 32) (imm : BitVec 16) : Front → State → Result :=
  wResult n d fun _ => (imm.signExtend 64) <<< 16

/-- AUIPC (R203). -/
def execWAuipc (n : Fin 24) (d : Fin 32) (imm : BitVec 16) : Front → State → Result :=
  wResult n d fun s => (core s n).pc + (imm.signExtend 64) <<< 16

/-- SLLI (R203, R204). -/
def execWSlli (n : Fin 24) (d a : Fin 32) (c : Fin 64) : Front → State → Result :=
  let c := c.val
  uOp (fun x => x <<< c) n d a

/-- SRLI (R203, R204). -/
def execWSrli (n : Fin 24) (d a : Fin 32) (c : Fin 64) : Front → State → Result :=
  let c := c.val
  uOp (fun x => x >>> c) n d a

/-- SRAI (R203, R204). -/
def execWSrai (n : Fin 24) (d a : Fin 32) (c : Fin 64) : Front → State → Result :=
  let c := c.val
  uOp (fun x => x.sshiftRight c) n d a

/-- RORI (R203, R204). -/
def execWRori (n : Fin 24) (d a : Fin 32) (c : Fin 64) : Front → State → Result :=
  let c := c.val
  uOp (fun x => x.rotateRight c) n d a

/-- SLLIW (R203, R204). -/
def execWSlliw (n : Fin 24) (d a : Fin 32) (c : Fin 64) : Front → State → Result :=
  let c := c.val
  uOp (fun x => sext32 (lo32 x <<< (c % 32))) n d a

/-- SRLIW (R203, R204). -/
def execWSrliw (n : Fin 24) (d a : Fin 32) (c : Fin 64) : Front → State → Result :=
  let c := c.val
  uOp (fun x => sext32 (lo32 x >>> (c % 32))) n d a

/-- SRAIW (R203, R204). -/
def execWSraiw (n : Fin 24) (d a : Fin 32) (c : Fin 64) : Front → State → Result :=
  let c := c.val
  uOp (fun x => sext32 ((x.setWidth 32).sshiftRight (c % 32) |>.setWidth 64)) n d a

/-- The events of a retired branch or JALR: 0x03, and 0x04 when it was mispredicted (R256). -/
def brEvents (mis : Bool) : List Nat := if mis then [3, 4] else [3]

/-- What a table predicts for the instruction at the pc, if it holds an entry for it (R235, R236). -/
def predicts (s : State) (n : Fin 24) (t : Nat) : Option Nat := (predFind s n t (core s n).pc.toNat).map fun e => e.val

/-- The next pcs that the tables of a control transfer predict: the sequence where a direction table says not taken or no table gives a target,
else the targets. (DESIGN CHOICE, log 85) -/
def predicted (s : State) (n : Fin 24) (tabs : List Nat) : List Nat :=
  let isDir := fun (t : Nat) => decide (2 ≤ t ∧ t ≤ 6)
  let dirs := (tabs.filter isDir).filterMap (predicts s n)
  let tgts := (tabs.filter fun t => !isDir t).filterMap (predicts s n)
  let seq := (nextPc s n).toNat
  (if dirs.contains 0 ∨ tgts = [] then [seq] else []) ++ (if dirs = [] ∨ dirs.any (fun d => decide (d ≠ 0)) then tgts else [])

/-- A control transfer was mispredicted (R234, R236): its tables predict another next pc; where they predict several, as the core took them.
(DESIGN CHOICE, log 85) -/
def mispredicted (s : State) (n : Fin 24) (tabs : List Nat) (npc : Word64) (f : Front) : Bool :=
  let l := predicted s n tabs
  if l.all (fun x => decide (x = npc.toNat)) then false else if l.contains npc.toNat then f.mis else true

/-- The tables that a retired control transfer trains, of those that predict its kind: a direction table with whether it was taken, any other with
its target (R235, R238). -/
def brTrain (s : State) (n : Fin 24) (tabs : List Nat) (npc : Word64) (f : Front) : State :=
  (f.train.filter fun t => tabs.contains t.val).foldl (fun s (t : Fin 8) =>
    (predTrain s n false t (core s n).pc.toNat (if 2 ≤ t.val ∧ t.val ≤ 6 then (decide (npc ≠ (core s n).pc + 4)).toNat else npc.toNat)).1) s

/-- The end of a branch or JALR that goes to `npc`: what a misprediction executed and discards, and the training of its tables (R234, R238). -/
def brDone (s : State) (n : Fin 24) (tabs : List Nat) (npc : Word64) (mis : Bool) (f : Front) : IRes :=
  .done (brTrain (if mis then discardAhead (wrongPath s n f) n else s) n tabs npc f) npc (brEvents mis)

/-- The tables that predict a branch (R235): targets and directions. -/
def brTabs : List Nat := [0, 1, 2, 3, 4, 5, 6]

/-- A conditional branch (R213); its outcome enters the global history (R235). -/
def brOp (t : Word64 → Word64 → Bool) (n : Fin 24) (a b : Fin 32) (off : BitVec 16) (f : Front) : State → Result :=
  wInstr n f fun s =>
    let go := t (getW s n a) (getW s n b)
    let npc := if go then (core s n).pc + (off.signExtend 64) <<< 2 else nextPc s n
    match brDone s n brTabs npc (mispredicted s n brTabs npc f) f with
    | .done s npc evs => .done (updCore s n fun c => { c with hist := (go :: c.hist).take 160 }) npc evs
    | r => r

/-- BEQ (R213). -/
def execWBeq : (n : Fin 24) → (a b : Fin 32) → BitVec 16 → Front → State → Result := brOp fun x y => x = y

/-- BNE (R213). -/
def execWBne : (n : Fin 24) → (a b : Fin 32) → BitVec 16 → Front → State → Result := brOp fun x y => x ≠ y

/-- BLT (R213). -/
def execWBlt : (n : Fin 24) → (a b : Fin 32) → BitVec 16 → Front → State → Result := brOp fun x y => x.slt y

/-- BGE (R213). -/
def execWBge : (n : Fin 24) → (a b : Fin 32) → BitVec 16 → Front → State → Result := brOp fun x y => !x.slt y

/-- BLTU (R213). -/
def execWBltu : (n : Fin 24) → (a b : Fin 32) → BitVec 16 → Front → State → Result := brOp fun x y => x < y

/-- BGEU (R213). -/
def execWBgeu : (n : Fin 24) → (a b : Fin 32) → BitVec 16 → Front → State → Result := brOp fun x y => !(x < y)

/-- A jump to a target that is relative to its pc (R213); the branch target buffer predicts it (R235). -/
def jOp (n : Fin 24) (off : BitVec 26) (f : Front) (link : State → State) : State → Result :=
  wInstr n f fun s =>
    let npc := (core s n).pc + (off.signExtend 64) <<< 2
    .done (link (brTrain s n [0, 1] npc f)) npc []

/-- J (R213). -/
def execWJ (n : Fin 24) (off : BitVec 26) (f : Front) : State → Result := jOp n off f fun s => s

/-- JAL (R213): w31 takes the return address. -/
def execWJal (n : Fin 24) (off : BitVec 26) (f : Front) : State → Result :=
  jOp n off f fun s => setW (pushRet s n (nextPc s n)) n 31 (nextPc s n)

/-- How a JALR was predicted (R235, R236): a return by the return stack, where its top entry is of the core's context; any other by the
indirect predictor and the branch target buffer. -/
def jalrMis (s : State) (n : Fin 24) (ret : Bool) (npc : Word64) (f : Front) : Bool × State :=
  if ret then
    (match popRet s n with
    | (some p, t) => (decide (p ≠ npc), t)
    | (none, t) => (mispredicted t n [0, 1] npc f, t))
  else (mispredicted s n [0, 1, 7] npc f, s)

/-- JALR (R213, R214): wa is read before wd is written; a target with bits 1:0 nonzero raises FETCH_ALIGN after the JALR. -/
def execWJalr (n : Fin 24) (d a : Fin 32) (imm : BitVec 16) (f : Front) : State → Result :=
  wInstr n f fun s =>
    let npc := getW s n a + imm.signExtend 64
    let ret := decide (d = 0 ∧ a = 31 ∧ imm = 0)
    let r := jalrMis s n ret npc f
    let t := if d = 31 then pushRet r.2 n (nextPc s n) else r.2
    match brDone t n (if ret then [0, 1] else [0, 1, 7]) npc r.1 f with
    | .done t npc evs => .done (setW t n d (nextPc s n)) npc evs
    | r => r

end Sys2Proof.Machine
end

