-- ==== Sys2Proof/Machine/WinovarMem.lean ====
section
/-!
DEFINITION. Machine/WinovarMem.lean: loads and stores, atomics, PACK7 and UNPK7, fences and cache operations of a Winovar
core (R207 to R212, R221 to R225, R228, R242 to R247, R254).
-/

namespace Sys2Proof.Machine

/-! ## Device accesses (R42, R208) -/

/-- The answer of a device: data, an error response, or a wait (with the state in which it waits). -/
inductive DevRes where
  | ok (s : State) (x : Nat) (bad : Bool)
  | err (s : State)
  | wait (s : State)

/-- A request of a core as a fabric request that an engine window or a PCIe controller serves. -/
def coreReq (n : Fin 24) (isW : Bool) (addr len data : Nat) (a : Attr) : FReq :=
  { master := .core n, op := if isW then .write else .read, addr := addr, len := len, be := 2 ^ len - 1, data := data,
    cls := Fin.ofNat 4 a.cls, pid := 0 }

/-- A single request of device type (R208): checked at ingress, then served by the register bridge, an engine window, a PCIe
controller or memory. -/
def devAccess (s : State) (n : Fin 24) (lvl : Nat) (a : Attr) (isW : Bool) (addr len data : Nat) (env : MemEnv) : DevRes :=
  let op : ReqOp := if isW then .write else .read
  match regionOf s addr with
  | some .tylPages | some (.page _) =>
    let q : RegReq := { m := .core n, attr := a, lvl := lvl, addr := addr, single := len = 4 && addr % 4 = 0,
                        data := if isW then some (BitVec.ofNat 32 data) else none }
    if regWaits s q s.fab.stalled then .wait s
    else match regAccess s q env with
      | (t, some r) => if r.err then .err t else .ok t r.data false
      | (t, none) => if isW then .ok t 0 false else .wait (updCore t n fun c => { c with stall := true })
  | r =>
    match ingressDeny s (.core n) a op addr len with
    | some k => .err (ferrLog s (.core n) a op addr k)
    | none =>
      if !credFree s a.did || behindQueued s (newest s (.core n) a addr len) then .wait s
      else match r with
        | some (.window k packed off) =>
          if behindAny s (.core n) a addr len then .wait s
          else
          let t : Txn := { id := 0, req := coreReq n isW addr len data a, attr := a, lvl := lvl, purp := .plain, status := .transit }
          let x := windowServe (confTicks s k 8 env.waited) t k packed off env.words
          if x.2.1.isSome then .err x.1 else .ok x.1 x.2.2.1 x.2.2.2
        | some (.pcieOut _) =>
          let t := addTxn s { id := 0, req := coreReq n isW addr len data a, attr := a, lvl := lvl,
                              purp := if isW then .plain else .coreLoad n, status := .transit }
          if isW then .ok t 0 false else .wait (updCore t n fun c => { c with stall := true })
        | _ =>
          let e := envAt env (addr / 64)
          match (if isW then pocWrite s (.core n) a addr len (2 ^ (8 * len) - 1) data false e false else pocRead s (.core n) a op addr len e) with
          | .ok s x bad => .ok (if isW then otherCores s n (addr / 64) else s) x bad
          | .err s => .err s
          | .wait s => .wait s

/-- An answer is kept until the instruction ends, so that no request is repeated (R208). (DEDUCED, log 45) -/
def keepAns (s : State) (n : Fin 24) (g : DevAns) : State := updCore s n fun c => { c with got := c.got ++ [g] }

/-- A read of device type: an answer that has come is taken, else the request is made. (DEDUCED, log 45) -/
def devRead (s : State) (n : Fin 24) (addr len : Nat) (env : MemEnv) : DevRes :=
  match (core s n).got.find? fun g => g.addr = addr && g.len = len with
  | some g => if g.err then .err s else .ok s g.data g.bad
  | none => match devAccess s n (level s n) (coreAttr s n env.cls) false addr len 0 env with
    | .ok s x bad => .ok (keepAns s n { addr := addr, len := len, data := x, bad := bad }) x bad
    | .err s => .err (keepAns s n { addr := addr, len := len, data := 0, err := true })
    | .wait s => .wait s

/-! ## The store buffer (R242, R243) -/

/-- A store of any type leaves the buffer and is performed; `.error` is the state in which it has to wait. -/
def commitStore (s : State) (n : Fin 24) (x : StoreEnt) (env : MemEnv) : Except State State :=
  if x.ty ≠ 0 then commitNormal s n x env
  else match devAccess s n x.lvl x.attr true x.pa x.len x.data env with
    | .ok s _ _ => .ok s
    | .err s => .ok (holdStoreBus s n x.lvl x.pa)
    | .wait s => .error s

/-- Stores that satisfy `p` are performed, oldest first, up to one that has to wait. (DEDUCED, log 43) -/
def drainWhere (s : State) (n : Fin 24) (p : StoreEnt → Bool) (env : MemEnv) : Except State State :=
  ((core s n).sb.filter p).foldl (fun r x => r.bind fun s => (commitStore s n x env).map fun s => dropStore s n x) (.ok s)

/-- Room for `k` stores in the buffer of 48: the oldest leave it first, up to one that has to wait. -/
def roomFor (s : State) (n : Fin 24) (k : Nat) (env : MemEnv) : Except State State :=
  ((core s n).sb.take ((core s n).sb.length + k - 48)).foldl
    (fun r x => r.bind fun s => (commitStore s n x env).map fun s => dropStore s n x) (.ok s)

/-- A store enters the buffer; a load performed ahead that it overlaps no longer stands (R244). -/
def bufferStore (s : State) (n : Fin 24) (x : StoreEnt) : State :=
  dropEarly (updCore s n fun c => { c with sb := c.sb ++ [x] }) n x.pa x.len

/-- STORE_COMMIT (R242): the store of an index in the buffer commits, if no older one of its line, or of device type, is ahead
of it. -/
def execStoreCommit (n : Fin 24) (idx : Nat) (env : MemEnv) (s : State) : Result :=
  .next (match (core s n).sb[idx]? with
    | none => s
    | some x =>
      if ((core s n).sb.take idx).any fun y => if x.ty = 0 then y.ty = 0 else y.ty ≠ 0 && decide (y.pa / 64 = x.pa / 64) then s
      else match commitStore s n x env with
        | .ok t => updCore t n fun c => { c with sb := c.sb.eraseIdx idx }
        | .error t => t)

/-! ## Loads and stores (R207 to R209) -/

/-- The event of a walk (R256): of the store of an instruction, or of its load. -/
def walkEv (acc : Acc) : Nat := evOf (decide (acc = .write)).toNat 0x0C

/-- A translation whose walk, if one was made, counts for the instruction even if it has to wait afterwards (R256). -/
def xlatNoted (s : State) (n : Fin 24) (ea : Nat) (acc : Acc) (env : MemEnv) : XR Xlat :=
  (translate s n ea acc env).bind fun s x => .ok (if x.walked then noteEvs s n [walkEv acc] else s) x

/-- The parts of an access of `len` bytes, at most 64: one per line, in both pages it spans (R209). -/
def xlatParts (s : State) (n : Fin 24) (ea len : Nat) (acc : Acc) (env : MemEnv) : XR (List Part) :=
  (xlatNoted s n ea acc env).bind fun s x =>
  let l1 := min len (64 - ea % 64)
  let p1 : Part := { pa := x.pa, len := l1, ty := x.ty, walked := x.walked }
  if l1 = len then .ok s [p1]
  else if (ea + l1) % 4096 ≠ 0 then .ok s [p1, { p1 with pa := x.pa + l1, len := len - l1, walked := false }]
  else (xlatNoted s n ((ea + l1) % 2 ^ 64) acc env).bind fun s y =>
    .ok s [p1, { pa := y.pa, len := len - l1, ty := y.ty, walked := y.walked }]

/-- The translation of an access that the present instruction has made before it had to wait. -/
def keptXlat (s : State) (n : Fin 24) (ea len : Nat) (acc : Acc) : Option KeptXlat :=
  (core s n).xlats.find? fun k => k.ea = ea && k.len = len && k.write == decide (acc = .write)

/-- The present instruction keeps the translation of an access. -/
def keepXlat (s : State) (n : Fin 24) (ea len : Nat) (acc : Acc) (ps : List Part) : State :=
  let w := decide (acc = .write)
  let k : KeptXlat := { ea := ea, len := len, write := w, parts := ps }
  updCore s n fun c => { c with xlats := k :: c.xlats.filter fun x => !(x.ea = ea && x.len = len && x.write == w) }

/-- An access translated (R209). One that runs again after an answer keeps its translation: it goes on, and no fault may discard the
answer (R208). (DEDUCED, log 45) -/
def xlatSpan (s : State) (n : Fin 24) (ea len : Nat) (acc : Acc) (env : MemEnv) : XR (List Part) :=
  match (if (core s n).got = [] then none else keptXlat s n ea len acc) with
  | some k => .ok s k.parts
  | none => (xlatParts s n ea len acc env).bind fun s ps => .ok (keepXlat s n ea len acc ps) ps

/-- What a read gives: data, whether it is poisoned, whether it was an error response, and its events (R256). -/
structure Rd where
  data : Nat := 0
  bad  : Bool := false
  err  : Bool := false
  evs  : List Nat := []
  deriving DecidableEq, Repr

/-- A part of normal type read past the store buffer. -/
def readBeyond (s : State) (n : Fin 24) (p : Part) (env : MemEnv) : XR Rd :=
  if p.ty = 2 then
    match loadLine s n (p.pa / 64) env with
    | (.ok s x _, evs) => .ok (noteEvs s n evs) { data := x.data.toNat / 2 ^ (8 * (p.pa % 64)) % 2 ^ (8 * p.len), bad := x.poison, evs := evs }
    | (.err s, evs) => .ok s { err := true, evs := evs }
    | (.wait s, evs) => .wait (noteEvs s n evs)
  else match pocRead s (.core n) (coreAttr s n env.cls) .read p.pa p.len (envAt env (p.pa / 64)) with
    | .ok s x bad => .ok s { data := x, bad := bad }
    | .err s => .ok s { err := true }
    | .wait s => .wait s

/-- The youngest older store that overlaps a part. -/
def youngest (s : State) (n : Fin 24) (p : Part) : Option StoreEnt := (olderStores s n p.pa p.len).getLast?

/-- Entries of the buffer that are one store: one alone, or its part in a first line and, right after it, the one in the next. -/
def oneStore (s : State) (n : Fin 24) : List StoreEnt → Bool
  | [_] => true
  | [x, y] => y.prev = some x.pa && ((core s n).sb.zip (core s n).sb.tail).contains (x, y)
  | _ => false

/-- Every byte of a load of normal type lies inside one older store, and no younger one overlaps it (R243): its parts have the data of the
parts of that store. -/
def forwards (s : State) (n : Fin 24) (ps : List Part) : Bool :=
  (ps.all fun p => match youngest s n p with
    | some x => x.pa ≤ p.pa && p.pa + p.len ≤ x.pa + x.len
    | none => false)
  && oneStore s n (ps.filterMap (youngest s n))

/-- A part of a load that is forwarded has its bytes from the youngest older store (R243). -/
def readNormal (s : State) (n : Fin 24) (fwd : Bool) (p : Part) (env : MemEnv) : XR Rd :=
  match fwd, youngest s n p with
  | true, some x => .ok s { data := x.data / 2 ^ (8 * (p.pa - x.pa)) % 2 ^ (8 * p.len), evs := [0x0A] }
  | _, _ => readBeyond s n p env

/-- A part of device type (R208, R243): older device stores leave the buffer first. -/
def readDevice (s : State) (n : Fin 24) (p : Part) (env : MemEnv) : XR Rd :=
  match drainWhere s n (fun x => x.ty = 0) env with
  | .error s => .wait s
  | .ok s => match devRead s n p.pa p.len env with
    | .ok s x bad => .ok s { data := x, bad := bad }
    | .err s => .ok s { err := true }
    | .wait s => .wait s

/-- The parts of an access read in ascending order: the bytes together. -/
def readEach (n : Fin 24) (env : MemEnv) (fwd : Bool) : List Part → State → XR Rd
  | [], s => .ok s {}
  | p :: ps, s =>
    (if p.ty = 0 then readDevice s n p env else readNormal s n fwd p env).bind fun s r =>
    (readEach n env fwd ps s).bind fun s q =>
    .ok s { data := r.data + q.data * 2 ^ (8 * p.len), bad := r.bad || q.bad, err := r.err || q.err, evs := r.evs ++ q.evs }

/-- The parts of an access read (R243): those of normal type past the buffer, where no older store overlaps any; all forwarded, where one store
holds them; else every older store that overlaps one commits first, and nothing is merged. -/
def readParts (n : Fin 24) (env : MemEnv) (ps : List Part) (s : State) : XR Rd :=
  let ns := ps.filter fun p => decide (p.ty ≠ 0)
  if ns.all fun p => (youngest s n p).isNone then readEach n env false ps s
  else if forwards s n ns then readEach n env true ps s
  else match commitWhere s n (fun x => ns.any fun p => decide (x.pa / 64 = p.pa / 64)) env with
    | .error s => .wait (noteEvs s n [0x0B])
    | .ok s => (readEach n env false ps (noteEvs s n [0x0B])).bind fun s r => .ok s { r with evs := 0x0B :: r.evs }

/-- A part that is of device type. -/
def anyDevice (ps : List Part) : Bool := ps.any fun p => p.ty = 0

/-- The event of the walks of an access (R256). -/
def walkEvs (acc : Acc) (ps : List Part) : List Nat := if ps.any Part.walked then [walkEv acc] else []

/-- The parts of a retired access that trains the prefetchers (R241): those of normal cacheable type, in the 64 latest accesses that are kept.
(DESIGN CHOICE, log 87) -/
def trainPf (s : State) (n : Fin 24) (c : Cls) (ps : List Part) : State :=
  ps.foldl (fun s p => if p.ty = 2 then updCore s n fun r => { r with train := ({ page := p.pa / 4096, lvl := level s n, attr := coreAttr s n c } :: r.train).take 64 }
    else s) s

/-- The load that was performed ahead and is this one (R245): the same base register, not written since, address and bytes, past every older
store. -/
def earlyOf (s : State) (n : Fin 24) (reg ea len : Nat) : List Part → Option Early
  | [p] => if olderStores s n p.pa p.len = [] then (core s n).early.find? fun x => x.reg = reg && x.ea = ea && x.len = len && x.pa = p.pa else none
  | _ => none

/-- The counts of a load (R256): a miss of the L1, a forwarding, a stall and a walk count once for it, whichever of its parts met them. -/
def loadEvs (evs : List Nat) : List Nat :=
  ([0x07, 0x0A, 0x0B, 0x0C].filter fun e => evs.contains e) ++ evs.filter fun e => !([0x07, 0x0A, 0x0B, 0x0C].contains e)

/-- Loads performed ahead that share a byte with a part no longer stand. -/
def dropParts (s : State) (n : Fin 24) (ps : List Part) : State := ps.foldl (fun s p => dropEarly s n p.pa p.len) s

/-- A load takes the events of what was filled ahead for it (R252, R256). -/
def noteServed (s : State) (n : Fin 24) (ea len : Nat) : State :=
  let r := takeServed s n false [ea / 64, (ea + len - 1) / 64]
  noteEvs r.2 n r.1

/-- A read of `len` bytes at a virtual address that register `reg` gave, with its exceptions in the order of R175: translation, DATA_ALIGN for a
misaligned access of device type, LOAD_BUS, MEM_ERROR. Both pages of a misaligned access are translated first. (DESIGN CHOICE, log 89) -/
def loadAt (s : State) (n : Fin 24) (reg ea len : Nat) (env : MemEnv) : XR (Nat × List Nat) :=
  (xlatSpan (noteServed s n ea len) n ea len .read env).bind fun s ps =>
  if ea % len ≠ 0 ∧ anyDevice ps then .exc s { code := 0x04, eaddr := BitVec.ofNat 64 ea }
  else match earlyOf s n reg ea len ps with
    | some x => .ok (trainPf (dropParts s n ps) n env.cls ps) (x.data, loadEvs (walkEvs .read ps ++ x.evs))
    | none => (readParts n env ps s).bind fun s r =>
      if r.err then .exc s { code := 0x0D, eaddr := BitVec.ofNat 64 ea }
      else if r.bad then .exc s { code := 0x0F, eaddr := BitVec.ofNat 64 ea }
      else .ok (trainPf (dropParts s n ps) n env.cls ps) (r.data, walkEvs .read ps ++ loadEvs r.evs)

/-- The parts of a store that asks for class `c` enter the buffer in ascending order, the bytes of each from `data`. -/
def bufferFrom (n : Fin 24) (c : Cls) : Option Nat → List Part → Nat → State → State
  | _, [], _, s => s
  | prev, p :: ps, data, s =>
    bufferFrom n c (some p.pa) ps (data / 2 ^ (8 * p.len))
      (bufferStore s n { pa := p.pa, len := p.len, data := data % 2 ^ (8 * p.len), ty := p.ty, lvl := level s n, attr := coreAttr s n c, prev := prev })

/-- The parts of a store enter the buffer. -/
def bufferParts (n : Fin 24) (c : Cls) (ps : List Part) (data : Nat) (s : State) : State := bufferFrom n c none ps data s

/-- A step that needs room in the store buffer. -/
def withRoom {α : Type} (s : State) (n : Fin 24) (k : Nat) (env : MemEnv) (f : State → XR α) : XR α :=
  match roomFor s n k env with
  | .ok s => f s
  | .error s => .wait s

/-- A store of `len` bytes at a virtual address. -/
def storeAt (s : State) (n : Fin 24) (ea len data : Nat) (env : MemEnv) : XR (List Nat) :=
  (xlatSpan s n ea len .write env).bind fun s ps =>
  if ea % len ≠ 0 ∧ anyDevice ps then .exc s { code := 0x04, eaddr := BitVec.ofNat 64 ea }
  else withRoom s n ps.length env fun s => .ok (trainPf (bufferParts n env.cls ps data s) n env.cls ps) (walkEvs .write ps)

/-- The effective address of a load or store (R207). -/
def memEa (s : State) (n : Fin 24) (a : Fin 32) (imm : BitVec 16) : Nat := (getW s n a + imm.signExtend 64).toNat

/-- The answer of an instruction from a step of an access: the core stays at an instruction that waits. -/
def ofXR {α : Type} (x : XR α) (f : State → α → IRes) : IRes :=
  match x with
  | .ok s v => f s v
  | .exc s e => .exc s e
  | .wait s => .stall s

/-- A load of `len` bytes into a register; `fin` extends the data and writes it. -/
def wLoad (n : Fin 24) (a : Fin 32) (imm : BitVec 16) (len : Nat) (env : MemEnv) (f : Front) (fin : State → Nat → State) : State → Result :=
  wInstr n f fun s => ofXR (loadAt s n a (memEa s n a imm) len env) fun s r => .done (fin s r.1) (nextPc s n) (0x05 :: r.2)

/-- A store of `len` bytes. -/
def wStore (n : Fin 24) (a : Fin 32) (imm : BitVec 16) (len : Nat) (env : MemEnv) (f : Front) (data : State → Nat) : State → Result :=
  wInstr n f fun s => ofXR (storeAt s n (memEa s n a imm) len (data s) env) fun s evs => .done s (nextPc s n) (0x06 :: evs)

/-- The sign-extended value of `len` bytes. -/
def sextBytes (len x : Nat) : Word64 := BitVec.ofInt 64 (sextN (8 * len) x)

/-- LB (R207). -/
def execWLb (n : Fin 24) (d a : Fin 32) (imm : BitVec 16) (env : MemEnv) (f : Front) : State → Result :=
  wLoad n a imm 1 env f fun s x => setW s n d (sextBytes 1 x)
/-- LH (R207). -/
def execWLh (n : Fin 24) (d a : Fin 32) (imm : BitVec 16) (env : MemEnv) (f : Front) : State → Result :=
  wLoad n a imm 2 env f fun s x => setW s n d (sextBytes 2 x)
/-- LW (R207). -/
def execWLw (n : Fin 24) (d a : Fin 32) (imm : BitVec 16) (env : MemEnv) (f : Front) : State → Result :=
  wLoad n a imm 4 env f fun s x => setW s n d (sextBytes 4 x)
/-- LD (R207). -/
def execWLd (n : Fin 24) (d a : Fin 32) (imm : BitVec 16) (env : MemEnv) (f : Front) : State → Result :=
  wLoad n a imm 8 env f fun s x => setW s n d (BitVec.ofNat 64 x)
/-- LBU (R207). -/
def execWLbu (n : Fin 24) (d a : Fin 32) (imm : BitVec 16) (env : MemEnv) (f : Front) : State → Result :=
  wLoad n a imm 1 env f fun s x => setW s n d (BitVec.ofNat 64 x)
/-- LHU (R207). -/
def execWLhu (n : Fin 24) (d a : Fin 32) (imm : BitVec 16) (env : MemEnv) (f : Front) : State → Result :=
  wLoad n a imm 2 env f fun s x => setW s n d (BitVec.ofNat 64 x)
/-- LWU (R207). -/
def execWLwu (n : Fin 24) (d a : Fin 32) (imm : BitVec 16) (env : MemEnv) (f : Front) : State → Result :=
  wLoad n a imm 4 env f fun s x => setW s n d (BitVec.ofNat 64 x)
/-- FLW (R207, R219): the high half becomes zero. -/
def execWFlw (n : Fin 24) (d a : Fin 32) (imm : BitVec 16) (env : MemEnv) (f : Front) : State → Result :=
  wLoad n a imm 4 env f fun s x => setFr s n d (BitVec.ofNat 64 x)
/-- FLD (R207). -/
def execWFld (n : Fin 24) (d a : Fin 32) (imm : BitVec 16) (env : MemEnv) (f : Front) : State → Result :=
  wLoad n a imm 8 env f fun s x => setFr s n d (BitVec.ofNat 64 x)
/-- SB (R207). -/
def execWSb (n : Fin 24) (d a : Fin 32) (imm : BitVec 16) (env : MemEnv) (f : Front) : State → Result :=
  wStore n a imm 1 env f fun s => (getW s n d).toNat
/-- SH (R207). -/
def execWSh (n : Fin 24) (d a : Fin 32) (imm : BitVec 16) (env : MemEnv) (f : Front) : State → Result :=
  wStore n a imm 2 env f fun s => (getW s n d).toNat
/-- SW (R207). -/
def execWSw (n : Fin 24) (d a : Fin 32) (imm : BitVec 16) (env : MemEnv) (f : Front) : State → Result :=
  wStore n a imm 4 env f fun s => (getW s n d).toNat
/-- SD (R207). -/
def execWSd (n : Fin 24) (d a : Fin 32) (imm : BitVec 16) (env : MemEnv) (f : Front) : State → Result :=
  wStore n a imm 8 env f fun s => (getW s n d).toNat
/-- FSW (R207). -/
def execWFsw (n : Fin 24) (d a : Fin 32) (imm : BitVec 16) (env : MemEnv) (f : Front) : State → Result :=
  wStore n a imm 4 env f fun s => (getFr s n d).toNat
/-- FSD (R207). -/
def execWFsd (n : Fin 24) (d a : Fin 32) (imm : BitVec 16) (env : MemEnv) (f : Front) : State → Result :=
  wStore n a imm 8 env f fun s => (getFr s n d).toNat

/-! ## Atomics (R210 to R212) -/

/-- What an atomic leaves of the loads performed ahead: none with AQ, else those of other lines (R244, R245). -/
def atomOrder (s : State) (n : Fin 24) (aq : Bool) (la : Nat) : State :=
  if aq then clearEarly s n else dropEarly s n (64 * la) 64

/-- An operation on a line held exclusive: DATA_ALIGN, translation as a store, ATOMIC, then the line. Older stores of the core to
the line commit first, and with RL every older store. `op` says what it does with the line's old value, `skip` when it performs no store; such
a one with RL orders nothing (R247), one with AQ alone still comes before every later access (R245). A poisoned line raises MEM_ERROR, of an SC
as of any other. (DESIGN CHOICE, log 91) -/
def wAtomic (n : Fin 24) (a : Fin 32) (size : Nat) (aq rl : Bool) (env : MemEnv) (f : Front)
    (op : State → L2Line → Nat → Nat → State) (skip : State → Nat → Option State) : State → Result :=
  wInstr n f fun s =>
    let ea := (getW s n a).toNat
    if ea % size ≠ 0 then .exc s { code := 0x04, eaddr := BitVec.ofNat 64 ea }
    else ofXR (xlatNoted s n ea .write env) fun s x =>
      if x.ty ≠ 2 then .exc s { code := 0x05, eaddr := BitVec.ofNat 64 ea }
      else
        let la := x.pa / 64
        let evs := [0x05, 0x06] ++ (if x.walked then [walkEv .write] else [])
        let unheld := fun (t : State) => if aq && !rl then clearEarly t n else t
        match skip s la with
        | some t => .done (unheld t) (nextPc s n) evs
        | none =>
          match (if rl then drainWhere s n (fun _ => true) env else commitWhere s n (fun y => y.pa / 64 = la) env) with
          | .error s => .stall s
          | .ok s =>
            match skip s la with
            | some t => .done (unheld t) (nextPc s n) evs
            | none =>
              match obtain s n (coreAttr s n env.cls) true .fillAtomic la env with
              | .wait s => .stall s
              | .err s => .exc s { code := 0x0D, eaddr := BitVec.ofNat 64 ea }
              | .ok s y m =>
                if y.poison then .exc s { code := 0x0F, eaddr := BitVec.ofNat 64 ea }
                else
                  let t := op (atomOrder s n aq la) y x.pa (y.data.toNat / 2 ^ (8 * (x.pa % 64)) % 2 ^ (8 * size))
                  .done (trainPf t n env.cls [{ pa := x.pa, len := size, ty := 2, walked := x.walked }]) (nextPc s n) (if m then 0x09 :: evs else evs)

/-- The value an atomic writes to its register: 64 bits, or 32 bits sign-extended. -/
def atomVal (size x : Nat) : Word64 := sextBytes size x

/-- `size` bytes of the line replaced at a physical address. -/
def atomPut (s : State) (n : Fin 24) (y : L2Line) (pa size v : Nat) : State :=
  let sh := 2 ^ (8 * (pa % 64))
  writeL2 s n (pa / 64) y (BitVec.ofNat 512 ((2 ^ (8 * size) - 1) * sh)) (BitVec.ofNat 512 (v % 2 ^ (8 * size) * sh)) (coreDid s n)

/-- The access size of an atomic (R210). -/
def atomSize (w64 : Bool) : Nat := if w64 then 8 else 4

/-- An atomic that writes `g x b` and loads x. -/
def wAmo (g : Nat → Nat → Nat → Nat) (n : Fin 24) (d a b : Fin 32) (w64 aq rl : Bool) (env : MemEnv) (f : Front) : State → Result :=
  wAtomic n a (atomSize w64) aq rl env f
    (fun s y pa x => setW (atomPut s n y pa (atomSize w64) (g (8 * atomSize w64) x ((getW s n b).toNat % 2 ^ (8 * atomSize w64)))) n d (atomVal (atomSize w64) x))
    (fun _ _ => none)

/-- LL (R210, R211). -/
def execWLl (n : Fin 24) (d a : Fin 32) (w64 aq rl : Bool) (env : MemEnv) (f : Front) : State → Result :=
  wAtomic n a (atomSize w64) aq rl env f
    (fun s _ pa x => setW (updCore s n fun c => { c with resv := some (pa / 64), keep := some 17 }) n d (atomVal (atomSize w64) x)) (fun _ _ => none)
/-- SC (R210, R211): without the reservation it stores nothing. -/
def execWSc (n : Fin 24) (d a b : Fin 32) (w64 aq rl : Bool) (env : MemEnv) (f : Front) : State → Result :=
  wAtomic n a (atomSize w64) aq rl env f
    (fun s y pa _ => setW (updCore (atomPut s n y pa (atomSize w64) (getW s n b).toNat) n fun c => { c with resv := none, keep := none }) n d 0)
    (fun s la => if (core s n).resv = some la then none else some (setW (updCore s n fun c => { c with resv := none, keep := none }) n d 1))
/-- SWAP (R210). -/
def execWSwap (n : Fin 24) (d a b : Fin 32) (w64 aq rl : Bool) (env : MemEnv) (f : Front) : State → Result :=
  wAmo (fun _ _ b => b) n d a b w64 aq rl env f
/-- AMOADD (R210). -/
def execWAmoadd (n : Fin 24) (d a b : Fin 32) (w64 aq rl : Bool) (env : MemEnv) (f : Front) : State → Result :=
  wAmo (fun _ x b => x + b) n d a b w64 aq rl env f
/-- AMOAND (R210). -/
def execWAmoand (n : Fin 24) (d a b : Fin 32) (w64 aq rl : Bool) (env : MemEnv) (f : Front) : State → Result :=
  wAmo (fun _ x b => x &&& b) n d a b w64 aq rl env f
/-- AMOOR (R210). -/
def execWAmoor (n : Fin 24) (d a b : Fin 32) (w64 aq rl : Bool) (env : MemEnv) (f : Front) : State → Result :=
  wAmo (fun _ x b => x ||| b) n d a b w64 aq rl env f
/-- AMOMAX (R210). -/
def execWAmomax (n : Fin 24) (d a b : Fin 32) (w64 aq rl : Bool) (env : MemEnv) (f : Front) : State → Result :=
  wAmo (fun w x b => if sextN w x < sextN w b then b else x) n d a b w64 aq rl env f
/-- AMOMIN (R210). -/
def execWAmomin (n : Fin 24) (d a b : Fin 32) (w64 aq rl : Bool) (env : MemEnv) (f : Front) : State → Result :=
  wAmo (fun w x b => if sextN w b < sextN w x then b else x) n d a b w64 aq rl env f
/-- AMOMAXU (R210). -/
def execWAmomaxu (n : Fin 24) (d a b : Fin 32) (w64 aq rl : Bool) (env : MemEnv) (f : Front) : State → Result :=
  wAmo (fun _ x b => max x b) n d a b w64 aq rl env f
/-- AMOMINU (R210). -/
def execWAmominu (n : Fin 24) (d a b : Fin 32) (w64 aq rl : Bool) (env : MemEnv) (f : Front) : State → Result :=
  wAmo (fun _ x b => min x b) n d a b w64 aq rl env f

/-! ## PACK7 and UNPK7 (R221, R222) -/

/-- The parts of a side in requests of `unit` bytes, for device type: ascending addresses. -/
def splitParts (unit : Nat) (ps : List Part) : List Part :=
  ps.flatMap fun p => if p.ty = 0 then (List.range (p.len / unit)).map (fun i => { p with pa := p.pa + unit * i, len := unit }) else [p]

/-- A granule from 28 bytes of loose words. -/
def packBytes (x : Nat) : Nat := ((List.range 7).map fun i => x / 2 ^ (32 * i) % 2 ^ 18 * 2 ^ (18 * i)).sum

/-- 28 bytes of loose words from a granule. -/
def unpackBytes (g : Nat) : Nat := ((List.range 7).map fun i => looseWord (BitVec.ofNat 18 (g / 2 ^ (18 * i))) * 2 ^ (32 * i)).sum

/-- PACK7 and UNPK7: both sides are checked and translated, the source first; then the source is read and the destination
written. -/
def wPack (pack : Bool) (n : Fin 24) (a b : Fin 32) (env : MemEnv) (f : Front) : State → Result :=
  wInstr n f fun s =>
    let src := (getW s n a).toNat
    let dst := (getW s n b).toNat
    let sl := if pack then 28 else 16
    let dl := if pack then 16 else 28
    if src % (if pack then 4 else 16) ≠ 0 then .exc s { code := 0x04, eaddr := BitVec.ofNat 64 src }
    else if dst % (if pack then 16 else 4) ≠ 0 then .exc s { code := 0x04, eaddr := BitVec.ofNat 64 dst }
    else ofXR ((xlatSpan (noteServed s n src sl) n src sl .read env).bind fun s ps =>
      (xlatSpan s n dst dl .write env).bind fun s qs =>
      withRoom s n (splitParts (if pack then 16 else 4) qs).length env fun s =>
      (readParts n env (splitParts (if pack then 4 else 16) ps) s).bind fun s r =>
      if r.err then .exc s { code := 0x0D, eaddr := BitVec.ofNat 64 src }
      else if r.bad then .exc s { code := 0x0F, eaddr := BitVec.ofNat 64 src }
      else
        .ok (trainPf (bufferParts n env.cls (splitParts (if pack then 16 else 4) qs) (if pack then packBytes r.data else unpackBytes r.data)
            (dropParts s n ps)) n env.cls (ps ++ qs)) (walkEvs .read ps ++ walkEvs .write qs ++ loadEvs r.evs)) fun s evs => .done s (nextPc s n) (0x05 :: 0x06 :: evs)

/-- PACK7 (R221, R222). -/
def execWPack7 (n : Fin 24) (a b : Fin 32) (env : MemEnv) (f : Front) : State → Result := wPack true n a b env f
/-- UNPK7 (R221, R222). -/
def execWUnpk7 (n : Fin 24) (a b : Fin 32) (env : MemEnv) (f : Front) : State → Result := wPack false n a b env f

/-! ## Cache operations (R223, R225, R254) -/

/-- A line leaves the L1 instruction cache of every core. -/
def dropL1i (s : State) (la : Nat) : State := { s with cores := s.cores.map fun e => (e.1, { e.2 with l1i := l1Drop e.2.l1i la }) }

/-- The effect of a cache operation: 0 CLEAN.POC, 1 INV.POC, 2 CINV.POC, 3 CLEAN.POU; `.error` where its write-back has to wait. -/
def cacheOp (s : State) (n : Fin 24) (op la : Nat) (env : MemEnv) : Except State State :=
  match op with
  | 0 => cleanLine s n la env
  | 1 => .ok (dropLineAll s la)
  | 2 => (cleanLine s n la env).map fun s => dropLineAll s la
  | _ => .ok (dropL1i s la)

/-- The oldest cache operation of a core completes; `.error` where its write-back has to wait. -/
def completeOp (s : State) (n : Fin 24) (env : MemEnv) : Except State State :=
  match (core s n).cops with
  | [] => .ok s
  | (op, la) :: _ => (cacheOp s n op la env).map fun s => updCore s n fun c => { c with cops := c.cops.tail }

/-- Every cache operation of a core completes, oldest first. -/
def completeOps (s : State) (n : Fin 24) (env : MemEnv) : Except State State :=
  ((core s n).cops).foldl (fun r _ => r.bind fun s => completeOp s n env) (.ok s)

/-- CACHE_OP_COMPLETE (R254): a cache operation of a core, the one at an index, completes once its write-back is accepted; an
older one of its line is ahead of it. -/
def execCacheOpComplete (n : Fin 24) (idx : Nat) (env : MemEnv) (s : State) : Result :=
  .next (match (core s n).cops[idx]? with
    | none => s
    | some (op, la) =>
      if ((core s n).cops.take idx).any fun y => y.2 = la then s
      else match cacheOp s n op la env with
        | .ok t => updCore t n fun c => { c with cops := c.cops.eraseIdx idx }
        | .error t => t)

/-- A store to a line, or a device store that is ahead of one to it (R225, R245). -/
def beforeLine (s : State) (n : Fin 24) (la : Nat) (y : StoreEnt) : Bool :=
  y.pa / 64 = la || (y.ty = 0 && (core s n).sb.any fun z => z.ty = 0 && z.pa / 64 = la)

/-- A cache operation issues (R225): translated as a load, or as a store for INV.POC, after the older stores of the core to the
line, of any type; at most 8 are outstanding. -/
def wCacheOp (op : Nat) (n : Fin 24) (a : Fin 32) (env : MemEnv) (f : Front) : State → Result :=
  wInstr n f fun s =>
    let op := if op = 1 ∧ level s n = 0 then 2 else op
    ofXR (xlatNoted s n (getW s n a).toNat (if op = 1 then .write else .read) env) fun s x =>
      match (drainWhere s n (beforeLine s n (x.pa / 64)) env).bind fun s => if (core s n).cops.length < 8 then .ok s else completeOp s n env with
      | .error s => .stall s
      | .ok s => .done (updCore s n fun c => { c with cops := c.cops ++ [(op, x.pa / 64)], keep := none }) (nextPc s n)
        (if x.walked then [walkEv (if op = 1 then .write else .read)] else [])

/-- CLEAN.POC (R223). -/
def execWCleanPoc (n : Fin 24) (a : Fin 32) (env : MemEnv) (f : Front) : State → Result := wCacheOp 0 n a env f
/-- INV.POC (R223): at U it is executed as CINV.POC. -/
def execWInvPoc (n : Fin 24) (a : Fin 32) (env : MemEnv) (f : Front) : State → Result := wCacheOp 1 n a env f
/-- CINV.POC (R223). -/
def execWCinvPoc (n : Fin 24) (a : Fin 32) (env : MemEnv) (f : Front) : State → Result := wCacheOp 2 n a env f
/-- CLEAN.POU (R223). -/
def execWCleanPou (n : Fin 24) (a : Fin 32) (env : MemEnv) (f : Front) : State → Result := wCacheOp 3 n a env f

/-! ## Barriers -/

/-- Writes of a core that have no answer yet (R177, R224): to PCIe, or at a block that wakes or a member. -/
def unanswered (s : State) (n : Fin 24) : Bool :=
  (s.fab.txns.any fun t => t.req.master = .core n && t.req.op = .write && !t.old)
    || (s.fab.stalled.any fun q => q.m = .core n)
    || (s.tyl.regs.any fun r => r.req.m = .core n)

/-- What a FENCE leaves of the loads performed ahead: none where it orders them behind an earlier set (R245). -/
def fenceReads (s : State) (n : Fin 24) (mask : Fin 16) : State :=
  if mask.val.testBit 1 ∧ (mask.val.testBit 2 ∨ mask.val.testBit 3) then clearEarly s n else s

/-- FENCE (R224): with PW it completes when every older store and cache operation has been answered; every older load is performed by
then. Mask 0 is unallocated. -/
def execWFence (n : Fin 24) (mask : Fin 16) (env : MemEnv) (f : Front) : State → Result :=
  wInstr n f fun s =>
    if mask = 0 then .exc s { code := 0x01 }
    else if mask.val.testBit 2 then
      match (drainWhere s n (fun _ => true) env).bind fun s => completeOps s n env with
      | .error t => .stall t
      | .ok t => if unanswered t n then .stall t else .done (fenceReads t n mask) (nextPc t n) []
    else .done (fenceReads s n mask) (nextPc s n) []

/-- ISYNC (R228). -/
def execWIsync (n : Fin 24) (env : MemEnv) (f : Front) : State → Result :=
  wInstr n f fun s => match completeOps s n env with
    | .error t => .stall t
    | .ok t => .done (clearEarly t n) (nextPc t n) []

end Sys2Proof.Machine
end

