-- ==== Sys2Proof/Machine/Dispatch.lean ====
section
/-!
DEFINITION. Machine/Dispatch.lean: the meaning of every command, one arm per constructor.
-/

namespace Sys2Proof.Machine

def exec (i : Instr) (s : State) : Host.Outcome State Fault Refusal :=
  match i with
  | .fabricIngress x => Sys2Proof.Machine.execFabricIngress x s
  | .fabricCompletion id => Sys2Proof.Machine.execFabricCompletion id s
  | .engineWindowRead id waited f => Sys2Proof.Machine.execEngineWindowRead id waited f s
  | .engineWindowWrite id waited f => Sys2Proof.Machine.execEngineWindowWrite id waited f s
  | .registerWrite m lvl a single v env => Sys2Proof.Machine.execRegisterWrite m lvl a single v env s
  | .autoWakeDone env => Sys2Proof.Machine.execAutoWakeDone env s
  | .autoWakeTimeout => Sys2Proof.Machine.execAutoWakeTimeout s
  | .irqSet m lvl p v => Sys2Proof.Machine.execIrqSet m lvl p v s
  | .blkLock m lvl p => Sys2Proof.Machine.execBlkLock m lvl p s
  | .blkSoftReset m lvl p => Sys2Proof.Machine.execBlkSoftReset m lvl p s
  | .softResetDone p => Sys2Proof.Machine.execSoftResetDone p s
  | .srstTimeout p => Sys2Proof.Machine.execSrstTimeout p s
  | .ferrPop m lvl => Sys2Proof.Machine.execFerrPop m lvl s
  | .errCntRead m lvl p => Sys2Proof.Machine.execErrCntRead m lvl p s
  | .ferrLostRead m lvl => Sys2Proof.Machine.execFerrLostRead m lvl s
  | .yoyoEvent src dst x v => Sys2Proof.Machine.execYoyoEvent src dst x v s
  | .yoyoAck src dst x v => Sys2Proof.Machine.execYoyoAck src dst x v s
  | .vinIinSample vin iin same => Sys2Proof.Machine.execVinIinSample vin iin same s
  | .highTripRestart => Sys2Proof.Machine.execHighTripRestart s
  | .dipTimeout same => Sys2Proof.Machine.execDipTimeout same s
  | .railStart => Sys2Proof.Machine.execRailStart s
  | .railStartTimeout rail same => Sys2Proof.Machine.execRailStartTimeout rail same s
  | .railStartRetry => Sys2Proof.Machine.execRailStartRetry s
  | .vaonStart => Sys2Proof.Machine.execVaonStart s
  | .vaonLoss => Sys2Proof.Machine.execVaonLoss s
  | .inputOvercurrent same => Sys2Proof.Machine.execInputOvercurrent same s
  | .powerLimitEval => Sys2Proof.Machine.execPowerLimitEval s
  | .clkWreqWrite m lvl v => Sys2Proof.Machine.execClkWreqWrite m lvl v s
  | .bankFault b => Sys2Proof.Machine.execBankFault b s
  | .vrSet rail value => Sys2Proof.Machine.execVrSet rail value s
  | .vrEnable rail value => Sys2Proof.Machine.execVrEnable rail value s
  | .vrDisable rail value => Sys2Proof.Machine.execVrDisable rail value s
  | .vrRead rail => Sys2Proof.Machine.execVrRead rail s
  | .vrAbort rail => Sys2Proof.Machine.execVrAbort rail s
  | .vrAck f n => Sys2Proof.Machine.execVrAck f n s
  | .vrNak f n => Sys2Proof.Machine.execVrNak f n s
  | .vrTelemetry f => Sys2Proof.Machine.execVrTelemetry f s
  | .vrTimeout n => Sys2Proof.Machine.execVrTimeout n s
  | .telemLost => Sys2Proof.Machine.execTelemLost s
  | .vrLinkLost => Sys2Proof.Machine.execVrLinkLost s
  | .thermalSample l same => Sys2Proof.Machine.execThermalSample l same s
  | .throttleStep => Sys2Proof.Machine.execThrottleStep s
  | .refLost => Sys2Proof.Machine.execRefLost s
  | .lockLost => Sys2Proof.Machine.execLockLost s
  | .porstAssert same => Sys2Proof.Machine.execPorstAssert same s
  | .porstRelease => Sys2Proof.Machine.execPorstRelease s
  | .dieResetRelease straps us low defect => Sys2Proof.Machine.execDieResetRelease straps us low defect s
  | .refWaitTimeout => Sys2Proof.Machine.execRefWaitTimeout s
  | .rstReq m lvl key => Sys2Proof.Machine.execRstReq m lvl key s
  | .dtLoRead m lvl => Sys2Proof.Machine.execDtLoRead m lvl s
  | .bootWrite slot off len data crc => Sys2Proof.Machine.execBootWrite slot off len data crc s
  | .bootStatus n => Sys2Proof.Machine.execBootStatus n s
  | .bootClear body crc => Sys2Proof.Machine.execBootClear body crc s
  | .bootInfo n => Sys2Proof.Machine.execBootInfo n s
  | .bootRelease body crc => Sys2Proof.Machine.execBootRelease body crc s
  | .bootReservedCmd cmd => Sys2Proof.Machine.execBootReservedCmd cmd s
  | .bootFrameTimeout => Sys2Proof.Machine.execBootFrameTimeout s
  | .bootFrameApplied => Sys2Proof.Machine.execBootFrameApplied s
  | .pushAbandon => Sys2Proof.Machine.execPushAbandon s
  | .pcieBootWrite off data => Sys2Proof.Machine.execPcieBootWrite off data s
  | .pcieBootClear v => Sys2Proof.Machine.execPcieBootClear v s
  | .pcieBootRelease v => Sys2Proof.Machine.execPcieBootRelease v s
  | .tylBoot f => Sys2Proof.Machine.execTylBoot f s
  | .imageChoice us cut => Sys2Proof.Machine.execImageChoice us cut s
  | .bootRetryResume => Sys2Proof.Machine.execBootRetryResume s
  | .fuseReread bad => Sys2Proof.Machine.execFuseReread bad s
  | .tamperEvent ix => Sys2Proof.Machine.execTamperEvent ix s
  | .secureWipeDone => Sys2Proof.Machine.execSecureWipeDone s
  | .scuLockstepMismatch => Sys2Proof.Machine.execScuLockstepMismatch s
  | .interruptEntry n f => Sys2Proof.Machine.execInterruptEntry n f s
  | .lateArrival n => Sys2Proof.Machine.execLateArrival n s
  | .storeBus n f => Sys2Proof.Machine.execStoreBus n f s
  | .waitEnd n => Sys2Proof.Machine.execWaitEnd n s
  | .wUnalloc n word f => Sys2Proof.Machine.execWUnalloc n word f s
  | .wAdd n d a b f => Sys2Proof.Machine.execWAdd n d a b f s
  | .wSub n d a b f => Sys2Proof.Machine.execWSub n d a b f s
  | .wAnd n d a b f => Sys2Proof.Machine.execWAnd n d a b f s
  | .wOr n d a b f => Sys2Proof.Machine.execWOr n d a b f s
  | .wXor n d a b f => Sys2Proof.Machine.execWXor n d a b f s
  | .wAndn n d a b f => Sys2Proof.Machine.execWAndn n d a b f s
  | .wSll n d a b f => Sys2Proof.Machine.execWSll n d a b f s
  | .wSrl n d a b f => Sys2Proof.Machine.execWSrl n d a b f s
  | .wSra n d a b f => Sys2Proof.Machine.execWSra n d a b f s
  | .wRor n d a b f => Sys2Proof.Machine.execWRor n d a b f s
  | .wSlt n d a b f => Sys2Proof.Machine.execWSlt n d a b f s
  | .wSltu n d a b f => Sys2Proof.Machine.execWSltu n d a b f s
  | .wMin n d a b f => Sys2Proof.Machine.execWMin n d a b f s
  | .wMax n d a b f => Sys2Proof.Machine.execWMax n d a b f s
  | .wMinu n d a b f => Sys2Proof.Machine.execWMinu n d a b f s
  | .wMaxu n d a b f => Sys2Proof.Machine.execWMaxu n d a b f s
  | .wClz n d a f => Sys2Proof.Machine.execWClz n d a f s
  | .wCtz n d a f => Sys2Proof.Machine.execWCtz n d a f s
  | .wPopc n d a f => Sys2Proof.Machine.execWPopc n d a f s
  | .wAddw n d a b f => Sys2Proof.Machine.execWAddw n d a b f s
  | .wSubw n d a b f => Sys2Proof.Machine.execWSubw n d a b f s
  | .wSllw n d a b f => Sys2Proof.Machine.execWSllw n d a b f s
  | .wSrlw n d a b f => Sys2Proof.Machine.execWSrlw n d a b f s
  | .wSraw n d a b f => Sys2Proof.Machine.execWSraw n d a b f s
  | .wRorw n d a b f => Sys2Proof.Machine.execWRorw n d a b f s
  | .wAddi n d a imm f => Sys2Proof.Machine.execWAddi n d a imm f s
  | .wAddiw n d a imm f => Sys2Proof.Machine.execWAddiw n d a imm f s
  | .wSlti n d a imm f => Sys2Proof.Machine.execWSlti n d a imm f s
  | .wSltiu n d a imm f => Sys2Proof.Machine.execWSltiu n d a imm f s
  | .wAndi n d a imm f => Sys2Proof.Machine.execWAndi n d a imm f s
  | .wOri n d a imm f => Sys2Proof.Machine.execWOri n d a imm f s
  | .wXori n d a imm f => Sys2Proof.Machine.execWXori n d a imm f s
  | .wLui n d imm f => Sys2Proof.Machine.execWLui n d imm f s
  | .wAuipc n d imm f => Sys2Proof.Machine.execWAuipc n d imm f s
  | .wSlli n d a c f => Sys2Proof.Machine.execWSlli n d a c f s
  | .wSrli n d a c f => Sys2Proof.Machine.execWSrli n d a c f s
  | .wSrai n d a c f => Sys2Proof.Machine.execWSrai n d a c f s
  | .wRori n d a c f => Sys2Proof.Machine.execWRori n d a c f s
  | .wSlliw n d a c f => Sys2Proof.Machine.execWSlliw n d a c f s
  | .wSrliw n d a c f => Sys2Proof.Machine.execWSrliw n d a c f s
  | .wSraiw n d a c f => Sys2Proof.Machine.execWSraiw n d a c f s
  | .wMul n d a b f => Sys2Proof.Machine.execWMul n d a b f s
  | .wMulh n d a b f => Sys2Proof.Machine.execWMulh n d a b f s
  | .wMulhu n d a b f => Sys2Proof.Machine.execWMulhu n d a b f s
  | .wMulhsu n d a b f => Sys2Proof.Machine.execWMulhsu n d a b f s
  | .wDiv n d a b f => Sys2Proof.Machine.execWDiv n d a b f s
  | .wDivu n d a b f => Sys2Proof.Machine.execWDivu n d a b f s
  | .wRem n d a b f => Sys2Proof.Machine.execWRem n d a b f s
  | .wRemu n d a b f => Sys2Proof.Machine.execWRemu n d a b f s
  | .wMulw n d a b f => Sys2Proof.Machine.execWMulw n d a b f s
  | .wDivw n d a b f => Sys2Proof.Machine.execWDivw n d a b f s
  | .wDivuw n d a b f => Sys2Proof.Machine.execWDivuw n d a b f s
  | .wRemw n d a b f => Sys2Proof.Machine.execWRemw n d a b f s
  | .wRemuw n d a b f => Sys2Proof.Machine.execWRemuw n d a b f s
  | .wLb n d a imm env f => Sys2Proof.Machine.execWLb n d a imm env f s
  | .wLh n d a imm env f => Sys2Proof.Machine.execWLh n d a imm env f s
  | .wLw n d a imm env f => Sys2Proof.Machine.execWLw n d a imm env f s
  | .wLd n d a imm env f => Sys2Proof.Machine.execWLd n d a imm env f s
  | .wLbu n d a imm env f => Sys2Proof.Machine.execWLbu n d a imm env f s
  | .wLhu n d a imm env f => Sys2Proof.Machine.execWLhu n d a imm env f s
  | .wLwu n d a imm env f => Sys2Proof.Machine.execWLwu n d a imm env f s
  | .wSb n d a imm env f => Sys2Proof.Machine.execWSb n d a imm env f s
  | .wSh n d a imm env f => Sys2Proof.Machine.execWSh n d a imm env f s
  | .wSw n d a imm env f => Sys2Proof.Machine.execWSw n d a imm env f s
  | .wSd n d a imm env f => Sys2Proof.Machine.execWSd n d a imm env f s
  | .wFlw n d a imm env f => Sys2Proof.Machine.execWFlw n d a imm env f s
  | .wFld n d a imm env f => Sys2Proof.Machine.execWFld n d a imm env f s
  | .wFsw n d a imm env f => Sys2Proof.Machine.execWFsw n d a imm env f s
  | .wFsd n d a imm env f => Sys2Proof.Machine.execWFsd n d a imm env f s
  | .wLl n d a w64 aq rl env f => Sys2Proof.Machine.execWLl n d a w64 aq rl env f s
  | .wSc n d a b w64 aq rl env f => Sys2Proof.Machine.execWSc n d a b w64 aq rl env f s
  | .wSwap n d a b w64 aq rl env f => Sys2Proof.Machine.execWSwap n d a b w64 aq rl env f s
  | .wAmoadd n d a b w64 aq rl env f => Sys2Proof.Machine.execWAmoadd n d a b w64 aq rl env f s
  | .wAmoand n d a b w64 aq rl env f => Sys2Proof.Machine.execWAmoand n d a b w64 aq rl env f s
  | .wAmoor n d a b w64 aq rl env f => Sys2Proof.Machine.execWAmoor n d a b w64 aq rl env f s
  | .wAmomax n d a b w64 aq rl env f => Sys2Proof.Machine.execWAmomax n d a b w64 aq rl env f s
  | .wAmomin n d a b w64 aq rl env f => Sys2Proof.Machine.execWAmomin n d a b w64 aq rl env f s
  | .wAmomaxu n d a b w64 aq rl env f => Sys2Proof.Machine.execWAmomaxu n d a b w64 aq rl env f s
  | .wAmominu n d a b w64 aq rl env f => Sys2Proof.Machine.execWAmominu n d a b w64 aq rl env f s
  | .wBeq n a b off f => Sys2Proof.Machine.execWBeq n a b off f s
  | .wBne n a b off f => Sys2Proof.Machine.execWBne n a b off f s
  | .wBlt n a b off f => Sys2Proof.Machine.execWBlt n a b off f s
  | .wBge n a b off f => Sys2Proof.Machine.execWBge n a b off f s
  | .wBltu n a b off f => Sys2Proof.Machine.execWBltu n a b off f s
  | .wBgeu n a b off f => Sys2Proof.Machine.execWBgeu n a b off f s
  | .wJ n off f => Sys2Proof.Machine.execWJ n off f s
  | .wJal n off f => Sys2Proof.Machine.execWJal n off f s
  | .wJalr n d a imm f => Sys2Proof.Machine.execWJalr n d a imm f s
  | .wFadd n d a b fmt rm f => Sys2Proof.Machine.execWFadd n d a b fmt rm f s
  | .wFsub n d a b fmt rm f => Sys2Proof.Machine.execWFsub n d a b fmt rm f s
  | .wFmul n d a b fmt rm f => Sys2Proof.Machine.execWFmul n d a b fmt rm f s
  | .wFdiv n d a b fmt rm f => Sys2Proof.Machine.execWFdiv n d a b fmt rm f s
  | .wFsqrt n d a fmt rm f => Sys2Proof.Machine.execWFsqrt n d a fmt rm f s
  | .wFmin n d a b fmt f => Sys2Proof.Machine.execWFmin n d a b fmt f s
  | .wFmax n d a b fmt f => Sys2Proof.Machine.execWFmax n d a b fmt f s
  | .wFsgn n d a b fmt f => Sys2Proof.Machine.execWFsgn n d a b fmt f s
  | .wFsgnn n d a b fmt f => Sys2Proof.Machine.execWFsgnn n d a b fmt f s
  | .wFsgnx n d a b fmt f => Sys2Proof.Machine.execWFsgnx n d a b fmt f s
  | .wFeq n d a b fmt f => Sys2Proof.Machine.execWFeq n d a b fmt f s
  | .wFlt n d a b fmt f => Sys2Proof.Machine.execWFlt n d a b fmt f s
  | .wFle n d a b fmt f => Sys2Proof.Machine.execWFle n d a b fmt f s
  | .wFcvtF n d a fmt rm f => Sys2Proof.Machine.execWFcvtF n d a fmt rm f s
  | .wFcvtL n d a fmt rm f => Sys2Proof.Machine.execWFcvtL n d a fmt rm f s
  | .wFcvtLu n d a fmt rm f => Sys2Proof.Machine.execWFcvtLu n d a fmt rm f s
  | .wFcvtW n d a fmt rm f => Sys2Proof.Machine.execWFcvtW n d a fmt rm f s
  | .wFcvtWu n d a fmt rm f => Sys2Proof.Machine.execWFcvtWu n d a fmt rm f s
  | .wFcvtFl n d a fmt rm f => Sys2Proof.Machine.execWFcvtFl n d a fmt rm f s
  | .wFcvtFlu n d a fmt rm f => Sys2Proof.Machine.execWFcvtFlu n d a fmt rm f s
  | .wFcvtFw n d a fmt rm f => Sys2Proof.Machine.execWFcvtFw n d a fmt rm f s
  | .wFcvtFwu n d a fmt rm f => Sys2Proof.Machine.execWFcvtFwu n d a fmt rm f s
  | .wFmvX n d a fmt f => Sys2Proof.Machine.execWFmvX n d a fmt f s
  | .wFmvF n d a fmt f => Sys2Proof.Machine.execWFmvF n d a fmt f s
  | .wFmadd n d a b c fmt rm f => Sys2Proof.Machine.execWFmadd n d a b c fmt rm f s
  | .wFmsub n d a b c fmt rm f => Sys2Proof.Machine.execWFmsub n d a b c fmt rm f s
  | .wFnmsub n d a b c fmt rm f => Sys2Proof.Machine.execWFnmsub n d a b c fmt rm f s
  | .wFnmadd n d a b c fmt rm f => Sys2Proof.Machine.execWFnmadd n d a b c fmt rm f s
  | .wFence n mask env f => Sys2Proof.Machine.execWFence n mask env f s
  | .wCleanPoc n a env f => Sys2Proof.Machine.execWCleanPoc n a env f s
  | .wInvPoc n a env f => Sys2Proof.Machine.execWInvPoc n a env f s
  | .wCinvPoc n a env f => Sys2Proof.Machine.execWCinvPoc n a env f s
  | .wCleanPou n a env f => Sys2Proof.Machine.execWCleanPou n a env f s
  | .wPack7 n a b env f => Sys2Proof.Machine.execWPack7 n a b env f s
  | .wUnpk7 n a b env f => Sys2Proof.Machine.execWUnpk7 n a b env f s
  | .wMfs n d k f => Sys2Proof.Machine.execWMfs n d k f s
  | .wMts n a k f => Sys2Proof.Machine.execWMts n a k f s
  | .wSvc n imm f => Sys2Proof.Machine.execWSvc n imm f s
  | .wHvc n imm f => Sys2Proof.Machine.execWHvc n imm f s
  | .wFwc n imm f => Sys2Proof.Machine.execWFwc n imm f s
  | .wBrk n imm f => Sys2Proof.Machine.execWBrk n imm f s
  | .wEret n f => Sys2Proof.Machine.execWEret n f s
  | .wWait n f => Sys2Proof.Machine.execWWait n f s
  | .wIsync n env f => Sys2Proof.Machine.execWIsync n env f s
  | .wTsync n f => Sys2Proof.Machine.execWTsync n f s
  | .wTlbiVa n a f => Sys2Proof.Machine.execWTlbiVa n a f s
  | .wTlbiAsid n f => Sys2Proof.Machine.execWTlbiAsid n f s
  | .wTlbiIpa n a f => Sys2Proof.Machine.execWTlbiIpa n a f s
  | .wTlbiDid n a f => Sys2Proof.Machine.execWTlbiDid n a f s
  | .wTlbiHva n a f => Sys2Proof.Machine.execWTlbiHva n a f s
  | .wTlbiAll n f => Sys2Proof.Machine.execWTlbiAll n f s
  | .storeCommit n idx env => Sys2Proof.Machine.execStoreCommit n idx env s
  | .cacheLineFill n x env => Sys2Proof.Machine.execCacheLineFill n x env s
  | .cacheOpComplete n idx env => Sys2Proof.Machine.execCacheOpComplete n idx env s
  | .l2Scrub w la found => Sys2Proof.Machine.execL2Scrub w la found s
  | .pmuClr m lvl n => Sys2Proof.Machine.execPmuClr m lvl n s
  | .pmuCounterWrap n ix => Sys2Proof.Machine.execPmuCounterWrap n ix s
  | .specCounterWrap w ix => Sys2Proof.Machine.execSpecCounterWrap w ix s
  | .systemCacheRead id par vpar => Sys2Proof.Machine.execSystemCacheRead id par vpar s
  | .systemCacheWrite id par vpar => Sys2Proof.Machine.execSystemCacheWrite id par vpar s
  | .scFillReturn id => Sys2Proof.Machine.execScFillReturn id s
  | .victimAccepted slot => Sys2Proof.Machine.execVictimAccepted slot s
  | .scClean m lvl incl => Sys2Proof.Machine.execClean m lvl incl s
  | .scInv m lvl incl => Sys2Proof.Machine.execInv m lvl incl s
  | .scCleanInv m lvl incl => Sys2Proof.Machine.execCleanInv m lvl incl s
  | .scPreload m lvl part => Sys2Proof.Machine.execPreload m lvl part s
  | .wayClean m lvl way => Sys2Proof.Machine.execWayClean m lvl way s
  | .wayOff m lvl way => Sys2Proof.Machine.execWayOff m lvl way s
  | .wayOn m lvl way => Sys2Proof.Machine.execWayOn m lvl way s
  | .scCmdDone n pars => Sys2Proof.Machine.execScCmdDone n pars s
  | .partitionDisable m lvl p => Sys2Proof.Machine.execPartitionDisable m lvl p s
  | .partitionCleanDone p pars => Sys2Proof.Machine.execPartitionCleanDone p pars s
  | .sramAccess id waited ce ue => Sys2Proof.Machine.execSramAccess id waited ce ue s
  | .sramBankStateWrite m lvl ix v => Sys2Proof.Machine.execSramBankStateWrite m lvl ix v s
  | .sramBankStateDone b => Sys2Proof.Machine.execSramBankStateDone b s
  | .confCntRead m lvl ix => Sys2Proof.Machine.execConfCntRead m lvl ix s
  | .dramRequest id => Sys2Proof.Machine.execDramRequest id s
  | .dramReadComplete id out => Sys2Proof.Machine.execDramReadComplete id out s
  | .dramWriteComplete id out => Sys2Proof.Machine.execDramWriteComplete id out s
  | .dramRefresh pr bank => Sys2Proof.Machine.execDramRefresh pr bank s
  | .rfmRequest pr bank => Sys2Proof.Machine.execRfmRequest pr bank s
  | .driftTracking ch ok => Sys2Proof.Machine.execDriftTracking ch ok s
  | .deviceTempReadout ch temp dev outside => Sys2Proof.Machine.execDeviceTempReadout ch temp dev outside s
  | .rankPowerDown pr => Sys2Proof.Machine.execRankPowerDown pr s
  | .deadlineMiss id => Sys2Proof.Machine.execDeadlineMiss id s
  | .scrubRead out busy => Sys2Proof.Machine.execScrubRead out busy s
  | .dramBringup failed => Sys2Proof.Machine.execDramBringup failed s
  | .rmapWrite m lvl l v => Sys2Proof.Machine.execRmapWrite m lvl l v s
  | .migrationStart => Sys2Proof.Machine.execMigrationStart s
  | .migrationCopy out busy busySp => Sys2Proof.Machine.execMigrationCopy out busy busySp s
  | .migrationSwitch => Sys2Proof.Machine.execMigrationSwitch s
  | .dmcPstatRead m lvl ix => Sys2Proof.Machine.execDmcPstatRead m lvl ix s
  | .dchCeRead m lvl ch => Sys2Proof.Machine.execDchCeRead m lvl ch s
  | .dchUeRead m lvl ch => Sys2Proof.Machine.execDchUeRead m lvl ch s
  | .ngUnallocated e t x => Sys2Proof.Machine.execNgUnallocated e t x s
  | .ngAdd e t f d a b => Sys2Proof.Machine.execNgAdd e t f d a b s
  | .ngSub e t f d a b => Sys2Proof.Machine.execNgSub e t f d a b s
  | .ngAdc e t f d a b => Sys2Proof.Machine.execNgAdc e t f d a b s
  | .ngSbc e t f d a b => Sys2Proof.Machine.execNgSbc e t f d a b s
  | .ngAnd e t d a b => Sys2Proof.Machine.execNgAnd e t d a b s
  | .ngOr e t d a b => Sys2Proof.Machine.execNgOr e t d a b s
  | .ngXor e t d a b => Sys2Proof.Machine.execNgXor e t d a b s
  | .ngAndn e t d a b => Sys2Proof.Machine.execNgAndn e t d a b s
  | .ngCmp e t a b => Sys2Proof.Machine.execNgCmp e t a b s
  | .ngTst e t a b => Sys2Proof.Machine.execNgTst e t a b s
  | .ngMin e t d a b => Sys2Proof.Machine.execNgMin e t d a b s
  | .ngMax e t d a b => Sys2Proof.Machine.execNgMax e t d a b s
  | .ngAbs e t f d a => Sys2Proof.Machine.execNgAbs e t f d a s
  | .ngNeg e t f d a => Sys2Proof.Machine.execNgNeg e t f d a s
  | .ngNot e t d a => Sys2Proof.Machine.execNgNot e t d a s
  | .ngMov e t d a => Sys2Proof.Machine.execNgMov e t d a s
  | .ngSll e t d a b => Sys2Proof.Machine.execNgSll e t d a b s
  | .ngSrl e t d a b => Sys2Proof.Machine.execNgSrl e t d a b s
  | .ngSra e t d a b => Sys2Proof.Machine.execNgSra e t d a b s
  | .ngRor e t d a b => Sys2Proof.Machine.execNgRor e t d a b s
  | .ngSlli e t d a c => Sys2Proof.Machine.execNgSlli e t d a c s
  | .ngSrli e t d a c => Sys2Proof.Machine.execNgSrli e t d a c s
  | .ngSrai e t d a c => Sys2Proof.Machine.execNgSrai e t d a c s
  | .ngRori e t d a c => Sys2Proof.Machine.execNgRori e t d a c s
  | .ngAddi e t f d a imm => Sys2Proof.Machine.execNgAddi e t f d a imm s
  | .ngSubi e t f d a imm => Sys2Proof.Machine.execNgSubi e t f d a imm s
  | .ngAndi e t d a imm => Sys2Proof.Machine.execNgAndi e t d a imm s
  | .ngOri e t d a imm => Sys2Proof.Machine.execNgOri e t d a imm s
  | .ngXori e t d a imm => Sys2Proof.Machine.execNgXori e t d a imm s
  | .ngCmpi e t a imm => Sys2Proof.Machine.execNgCmpi e t a imm s
  | .ngMovi e t d imm => Sys2Proof.Machine.execNgMovi e t d imm s
  | .ngNop e t => Sys2Proof.Machine.execNgNop e t s
  | .ngMfc e t d cr => Sys2Proof.Machine.execNgMfc e t d cr s
  | .ngMtc e t a cr => Sys2Proof.Machine.execNgMtc e t a cr s
  | .ngPopr e t d => Sys2Proof.Machine.execNgPopr e t d s
  | .ngHalt e t => Sys2Proof.Machine.execNgHalt e t s
  | .ngMul e t f d a b => Sys2Proof.Machine.execNgMul e t f d a b s
  | .ngMulh e t d a b => Sys2Proof.Machine.execNgMulh e t d a b s
  | .ngMulhu e t d a b => Sys2Proof.Machine.execNgMulhu e t d a b s
  | .ngMulf e t f d a b => Sys2Proof.Machine.execNgMulf e t f d a b s
  | .ngMac2 e t f a b c g fr n0 n1 => Sys2Proof.Machine.execNgMac2 e t f a b c g fr n0 n1 s
  | .ngMpy2 e t f a b c g fr n0 n1 => Sys2Proof.Machine.execNgMpy2 e t f a b c g fr n0 n1 s
  | .ngMacs e t f a b c g fr n0 n1 => Sys2Proof.Machine.execNgMacs e t f a b c g fr n0 n1 s
  | .ngExtr e t d a sh => Sys2Proof.Machine.execNgExtr e t d a sh s
  | .ngAclr e t a => Sys2Proof.Machine.execNgAclr e t a s
  | .ngAadd e t f a => Sys2Proof.Machine.execNgAadd e t f a s
  | .ngAsub e t f a => Sys2Proof.Machine.execNgAsub e t f a s
  | .ngDiv0 e t d a b => Sys2Proof.Machine.execNgDiv0 e t d a b s
  | .ngDiv0u e t d a b => Sys2Proof.Machine.execNgDiv0u e t d a b s
  | .ngDstep e t d b => Sys2Proof.Machine.execNgDstep e t d b s
  | .ngDivf e t f d => Sys2Proof.Machine.execNgDivf e t f d s
  | .ngLd e t d mode a imm ecc => Sys2Proof.Machine.execNgLd e t d mode a imm ecc s
  | .ngLdd e t d mode a imm ecc => Sys2Proof.Machine.execNgLdd e t d mode a imm ecc s
  | .ngLdq e t d mode a imm ecc => Sys2Proof.Machine.execNgLdq e t d mode a imm ecc s
  | .ngSt e t d mode a imm => Sys2Proof.Machine.execNgSt e t d mode a imm s
  | .ngStd e t d mode a imm => Sys2Proof.Machine.execNgStd e t d mode a imm s
  | .ngStq e t d mode a imm => Sys2Proof.Machine.execNgStq e t d mode a imm s
  | .ngLdc e t d mode a imm => Sys2Proof.Machine.execNgLdc e t d mode a imm s
  | .ngStc e t d mode a imm => Sys2Proof.Machine.execNgStc e t d mode a imm s
  | .ngFrd e t mode a imm => Sys2Proof.Machine.execNgFrd e t mode a imm s
  | .ngFwr e t d mode a imm => Sys2Proof.Machine.execNgFwr e t d mode a imm s
  | .ngPrd e t d mode a imm => Sys2Proof.Machine.execNgPrd e t d mode a imm s
  | .ngPwr e t d mode a imm => Sys2Proof.Machine.execNgPwr e t d mode a imm s
  | .ngWait e t => Sys2Proof.Machine.execNgWait e t s
  | .ngRete e t => Sys2Proof.Machine.execNgRete e t s
  | .ngSig e t g src => Sys2Proof.Machine.execNgSig e t g src s
  | .ngClre e t src => Sys2Proof.Machine.execNgClre e t src s
  | .ngEdi e t d => Sys2Proof.Machine.execNgEdi e t d s
  | .ngEei e t => Sys2Proof.Machine.execNgEei e t s
  | .ngFbyte e t a => Sys2Proof.Machine.execNgFbyte e t a s
  | .ngFhalf e t a => Sys2Proof.Machine.execNgFhalf e t a s
  | .ngFword e t a => Sys2Proof.Machine.execNgFword e t a s
  | .ngFbits e t a n => Sys2Proof.Machine.execNgFbits e t a n s
  | .ngBr e t f cond target => Sys2Proof.Machine.execNgBr e t f cond target s
  | .ngBz e t f a target => Sys2Proof.Machine.execNgBz e t f a target s
  | .ngBnz e t f a target => Sys2Proof.Machine.execNgBnz e t f a target s
  | .ngBltz e t f a target => Sys2Proof.Machine.execNgBltz e t f a target s
  | .ngBgez e t f a target => Sys2Proof.Machine.execNgBgez e t f a target s
  | .ngBlez e t f a target => Sys2Proof.Machine.execNgBlez e t f a target s
  | .ngBgtz e t f a target => Sys2Proof.Machine.execNgBgtz e t f a target s
  | .ngCall e t d target => Sys2Proof.Machine.execNgCall e t d target s
  | .ngJr e t a => Sys2Proof.Machine.execNgJr e t a s
  | .ngJalr e t d a => Sys2Proof.Machine.execNgJalr e t d a s
  | .ngLoop e t k a endA => Sys2Proof.Machine.execNgLoop e t k a endA s
  | .threadRun src e t => Sys2Proof.Machine.execThreadRun src e t s
  | .threadHalt src e t => Sys2Proof.Machine.execThreadHalt src e t s
  | .threadHaltApplied e t => Sys2Proof.Machine.execThreadHaltApplied e t s
  | .threadStep src e t => Sys2Proof.Machine.execThreadStep src e t s
  | .eventEntry e t => Sys2Proof.Machine.execEventEntry e t s
  | .ngWaitEnd e t => Sys2Proof.Machine.execNgWaitEnd e t s
  | .tcmpArm e t v => Sys2Proof.Machine.execTcmpArm e t v s
  | .tcmpDisarm e t v => Sys2Proof.Machine.execTcmpDisarm e t v s
  | .timeMatch e t => Sys2Proof.Machine.execTimeMatch e t s
  | .clusterMemoryAccess e t ecc => Sys2Proof.Machine.execClusterMemoryAccess e t ecc s
  | .frdCompletion id => Sys2Proof.Machine.execFrdCompletion id s
  | .fwrAccepted e t => Sys2Proof.Machine.execFwrAccepted e t s
  | .moverStart src x f => Sys2Proof.Machine.execMoverStart src x f s
  | .moverAbort src x => Sys2Proof.Machine.execMoverAbort src x s
  | .moverCompletion id waited f => Sys2Proof.Machine.execMoverCompletion id waited f s
  | .cvLoad e v => Sys2Proof.Machine.execCvLoad e v s
  | .cvCfgWrite e v => Sys2Proof.Machine.execCvCfgWrite e v s
  | .cmConfRead m lvl k ix => Sys2Proof.Machine.execCmConfRead m lvl k ix s
  | .bankCfgWrite m lvl b v => Sys2Proof.Machine.execBankCfgWrite m lvl b v s
  | .forceSafe m lvl b => Sys2Proof.Machine.execForceSafe m lvl b s
  | .bankRailDone b => Sys2Proof.Machine.execBankRailDone b s
  | .landEdge n land level => Sys2Proof.Machine.execLandEdge n land level s
  | .rxPop e ix => Sys2Proof.Machine.execRxPop e ix s
  | .txPush e ix v => Sys2Proof.Machine.execTxPush e ix v s
  | .dutyWrite e ix v => Sys2Proof.Machine.execDutyWrite e ix v s
  | .capturePop e ix => Sys2Proof.Machine.execCapturePop e ix s
  | .scheduleStage e ix v => Sys2Proof.Machine.execScheduleStage e ix v s
  | .scheduleCommit e ix v => Sys2Proof.Machine.execScheduleCommit e ix v s
  | .clrCap e ix => Sys2Proof.Machine.execClrCap e ix s
  | .clrSch e ix => Sys2Proof.Machine.execClrSch e ix s
  | .clrRx e ix => Sys2Proof.Machine.execClrRx e ix s
  | .clrTx e ix => Sys2Proof.Machine.execClrTx e ix s
  | .cellAbort e ix => Sys2Proof.Machine.execCellAbort e ix s
  | .leaveSafe e ix => Sys2Proof.Machine.execLeaveSafe e ix s
  | .clrErr e ix => Sys2Proof.Machine.execClrErr e ix s
  | .bset e ix v => Sys2Proof.Machine.execBset e ix v s
  | .stuffc e ix v => Sys2Proof.Machine.execStuffc e ix v s
  | .lva e ix v => Sys2Proof.Machine.execLva e ix v s
  | .lvb e ix v => Sys2Proof.Machine.execLvb e ix v s
  | .repStop e ix => Sys2Proof.Machine.execRepStop e ix s
  | .schLow n land => Sys2Proof.Machine.execSchLow n land s
  | .schHigh n land => Sys2Proof.Machine.execSchHigh n land s
  | .schRelease n land => Sys2Proof.Machine.execSchRelease n land s
  | .schToggle n land => Sys2Proof.Machine.execSchToggle n land s
  | .schStartTx n => Sys2Proof.Machine.execSchStartTx n s
  | .schStartRepeat n => Sys2Proof.Machine.execSchStartRepeat n s
  | .schStopRepeat n => Sys2Proof.Machine.execSchStopRepeat n s
  | .schMark n => Sys2Proof.Machine.execSchMark n s
  | .repeatPeriod n => Sys2Proof.Machine.execRepeatPeriod n s
  | .txFrameStart n => Sys2Proof.Machine.execTxFrameStart n s
  | .txFrameEnd n => Sys2Proof.Machine.execTxFrameEnd n s
  | .rxFrameStart n => Sys2Proof.Machine.execRxFrameStart n s
  | .rxFrameComplete n => Sys2Proof.Machine.execRxFrameComplete n s
  | .idleTimeout n => Sys2Proof.Machine.execIdleTimeout n s
  | .keepTimeout n => Sys2Proof.Machine.execKeepTimeout n s
  | .cellCtrlWrite m lvl n v => Sys2Proof.Machine.execCellCtrlWrite m lvl n v s
  | .capLostRead m lvl n => Sys2Proof.Machine.execCapLostRead m lvl n s
  | .laneClaim m lvl x v => Sys2Proof.Machine.execLaneClaim m lvl x v s
  | .laneRelease m lvl x => Sys2Proof.Machine.execLaneRelease m lvl x s
  | .lanePllLock q => Sys2Proof.Machine.execLanePllLock q s
  | .laneLockLoss l => Sys2Proof.Machine.execLaneLockLoss l s
  | .pcieLinkUp c width gen => Sys2Proof.Machine.execPcieLinkUp c width gen s
  | .pcieLinkDown c => Sys2Proof.Machine.execPcieLinkDown c s
  | .pcieOutboundRequest id => Sys2Proof.Machine.execPcieOutboundRequest id s
  | .pcieCompletion c id st poison data => Sys2Proof.Machine.execPcieCompletion c id st poison data s
  | .pcieCompletionTimeout c id => Sys2Proof.Machine.execPcieCompletionTimeout c id s
  | .pcieInboundRequest c isW key fn bar2 addr len data poison => Sys2Proof.Machine.execPcieInboundRequest c isW key fn bar2 addr len data poison s
  | .msi c off len data => Sys2Proof.Machine.execMsi c off len data s
  | .ethTxFrame m stamp env => Sys2Proof.Machine.execEthTxFrame m stamp env s
  | .ethRxFrame m f stamp env => Sys2Proof.Machine.execEthRxFrame m f stamp env s
  | .ethLinkChange m up speed => Sys2Proof.Machine.execEthLinkChange m up speed s
  | .gclGo m lvl k env => Sys2Proof.Machine.execGclGo m lvl k env s
  | .gclTakeover m => Sys2Proof.Machine.execGclTakeover m s
  | .gateEntry m => Sys2Proof.Machine.execGateEntry m s
  | .cbLoad m lvl k env => Sys2Proof.Machine.execCbLoad m lvl k env s
  | .streamResetTimeout ix => Sys2Proof.Machine.execStreamResetTimeout ix s
  | .ethStatRead m lvl k => Sys2Proof.Machine.execEthStatRead m lvl k s
  | .ethRxdropRead m lvl k => Sys2Proof.Machine.execEthRxdropRead m lvl k s
  | .syntNsRead m lvl => Sys2Proof.Machine.execSyntNsRead m lvl s
  | .syntStep m lvl v => Sys2Proof.Machine.execSyntStep m lvl v s
  | .tylwenLinkUp width prop => Sys2Proof.Machine.execTylwenLinkUp width prop s
  | .tylIdle => Sys2Proof.Machine.execTylIdle s
  | .tylAck seq nak => Sys2Proof.Machine.execTylAck seq nak s
  | .tylCap m ident lo hi => Sys2Proof.Machine.execTylCap m ident lo hi s
  | .tylEnum n => Sys2Proof.Machine.execTylEnum n s
  | .tylTime => Sys2Proof.Machine.execTylTime s
  | .tylPwr e n => Sys2Proof.Machine.execTylPwr e n s
  | .tylPrdReq id => Sys2Proof.Machine.execTylPrdReq id s
  | .tylPrdRsp id v => Sys2Proof.Machine.execTylPrdRsp id v s
  | .tylEvt l => Sys2Proof.Machine.execTylEvt l s
  | .tylRegReq id => Sys2Proof.Machine.execTylRegReq id s
  | .tylRegRsp id kind data => Sys2Proof.Machine.execTylRegRsp id kind data s
  | .regTimeout id => Sys2Proof.Machine.execRegTimeout id s
  | .memReq m tag op len b7 addr data z => Sys2Proof.Machine.execMemReq m tag op len b7 addr data z s
  | .memRsp m tag => Sys2Proof.Machine.execMemRsp m tag s
  | .tylReservedFlit => Sys2Proof.Machine.execTylReservedFlit s
  | .flitReplay => Sys2Proof.Machine.execFlitReplay s
  | .linkLoss => Sys2Proof.Machine.execLinkLoss s
  | .retrain => Sys2Proof.Machine.execRetrain s
  | .tylAccept m lvl => Sys2Proof.Machine.execAccept m lvl s
  | .tylwStatRead m lvl => Sys2Proof.Machine.execTylwStatRead m lvl s
  | .assertMsg src => Sys2Proof.Machine.execAssert src s
  | .deassertMsg src => Sys2Proof.Machine.execDeassert src s
  | .edgeMsg src => Sys2Proof.Machine.execEdge src s
  | .groupHoldExpire g => Sys2Proof.Machine.execGroupHoldExpire g s
  | .sgi m lvl n v => Sys2Proof.Machine.execSgi m lvl n v s
  | .icpTcmpArm m lvl n v => Sys2Proof.Machine.execIcpTcmpArm m lvl n v s
  | .icpTcmpDisarm m lvl n v => Sys2Proof.Machine.execIcpTcmpDisarm m lvl n v s
  | .coreTimerMatch n => Sys2Proof.Machine.execCoreTimerMatch n s
  | .icStatRead m lvl => Sys2Proof.Machine.execIcStatRead m lvl s
  | .domCreate m lvl d => Sys2Proof.Machine.execCreate m lvl d s
  | .domReset m lvl d => Sys2Proof.Machine.execReset m lvl d s
  | .domStart m lvl d => Sys2Proof.Machine.execStart m lvl d s
  | .domDestroy m lvl d => Sys2Proof.Machine.execDestroy m lvl d s
  | .increment d => Sys2Proof.Machine.execIncrement d s
  | .drainTimeout d => Sys2Proof.Machine.execDrainTimeout d s
  | .resetEnd d => Sys2Proof.Machine.execResetEnd d s
  | .ownerBind m lvl p d => Sys2Proof.Machine.execOwnerBind m lvl p d s
  | .domDropRead m lvl d => Sys2Proof.Machine.execDomDropRead m lvl d s
  | .hello d => Sys2Proof.Machine.execHello d s
  | .scsInfo d => Sys2Proof.Machine.execScsInfo d s
  | .notices d => Sys2Proof.Machine.execNotices d s
  | .dramState d => Sys2Proof.Machine.execDramState d s
  | .fuseKey d => Sys2Proof.Machine.execFuseKey d s
  | .fuseRevoke d => Sys2Proof.Machine.execFuseRevoke d s
  | .fuseSecver d => Sys2Proof.Machine.execFuseSecver d s
  | .calRead d env => Sys2Proof.Machine.execCalRead d env s
  | .calWrite d env cut => Sys2Proof.Machine.execCalWrite d env cut s
  | .bistRun d env => Sys2Proof.Machine.execBistRun d env s
  | .scsUnknownFunction d => Sys2Proof.Machine.execScsUnknownFunction d s
  | .scsResponse d => Sys2Proof.Machine.execScsResponse d s
  | .scsTimeout d => Sys2Proof.Machine.execScsTimeout d s
  | .mariNap m lvl w => Sys2Proof.Machine.execNap m lvl w s
  | .mariStandby m lvl => Sys2Proof.Machine.execStandby m lvl s
  | .mariPark m lvl => Sys2Proof.Machine.execPark m lvl s
  | .mariOff m lvl => Sys2Proof.Machine.execOff m lvl s
  | .mariGrant env pars => Sys2Proof.Machine.execMariGrant env pars s
  | .mariDelay => Sys2Proof.Machine.execMariDelay s
  | .mariRefuse => Sys2Proof.Machine.execMariRefuse s
  | .mariSilence => Sys2Proof.Machine.execMariSilence s
  | .mariDelayExceeded => Sys2Proof.Machine.execMariDelayExceeded s
  | .mariReady => Sys2Proof.Machine.execMariReady s
  | .restartFail => Sys2Proof.Machine.execRestartFail s
  | .aonTimerExpire cycles same => Sys2Proof.Machine.execAonTimerExpire cycles same s
  | .portWakeEdge b fall cycles same => Sys2Proof.Machine.execPortWakeEdge b fall cycles same s
  | .wakePortAddress b => Sys2Proof.Machine.execWakePortAddress b s
  | .wakeCmd cycles same => Sys2Proof.Machine.execWakeCmd cycles same s
  | .wakePing => Sys2Proof.Machine.execPing s
  | .wakePortOtherByte b => Sys2Proof.Machine.execWakePortOtherByte b s
  | .wakePortStartStop start => Sys2Proof.Machine.execWakePortStartStop start s
  | .sclLowTimeout => Sys2Proof.Machine.execSclLowTimeout s
  | .wakeStatRead m lvl => Sys2Proof.Machine.execWakeStatRead m lvl s
  | .containedFault => Sys2Proof.Machine.execContainedFault s
  | .fatalFault => Sys2Proof.Machine.execFatalFault s
  | .fatalHoldExpire same => Sys2Proof.Machine.execFatalHoldExpire same s
  | .fltAck m lvl key => Sys2Proof.Machine.execFltAck m lvl key s
  | .scuWatchdogExpire same => Sys2Proof.Machine.execScuWatchdogExpire same s
  | .wdKick m lvl k key => Sys2Proof.Machine.execWdKick m lvl k key s
  | .wdCfgWrite m lvl k v => Sys2Proof.Machine.execWdCfgWrite m lvl k v s
  | .wdExpire k => Sys2Proof.Machine.execWdExpire k s
  | .fltLogPop m lvl => Sys2Proof.Machine.execFltLogPop m lvl s
  | .tapReset => Sys2Proof.Machine.execTapReset s
  | .extest => Sys2Proof.Machine.execExtest s
  | .samplePreload lands load => Sys2Proof.Machine.execSamplePreload lands load s
  | .idcode => Sys2Proof.Machine.execIdcode s
  | .clamp => Sys2Proof.Machine.execClamp s
  | .highz => Sys2Proof.Machine.execHighz s
  | .memAp x => Sys2Proof.Machine.execMemAp x s
  | .scuAp x => Sys2Proof.Machine.execScuAp x s
  | .bistRead ix => Sys2Proof.Machine.execBistRead ix s
  | .bypass => Sys2Proof.Machine.execBypass s
  | .bistStart m lvl v env => Sys2Proof.Machine.execBistStart m lvl v env s
  | .bistRunEnd misr fails addr => Sys2Proof.Machine.execBistRunEnd misr fails addr s
  | .bistVerdict sig => Sys2Proof.Machine.execBistVerdict sig s
  | .registerRead m lvl a single cls => Sys2Proof.Machine.execRegisterRead m lvl a single cls s
  | .schedulerChoice ch busy => Sys2Proof.Machine.execSchedulerChoice ch busy s
  | .referenceAccepted => Sys2Proof.Machine.execReferenceAccepted s
  | .clockAndDataLock l => Sys2Proof.Machine.execClockAndDataLock l s
  | .preemptionVerification m ok => Sys2Proof.Machine.execPreemptionVerification m ok s
  | .clockStretchLimit n => Sys2Proof.Machine.execClockStretchLimit n s

end Sys2Proof.Machine
end

