-- ==== Sys2Proof/Machine/Step.lean ====
section
/-!
DEFINITION. Machine/Step.lean: one step: the command at the front of the queue, or, on an empty queue, a tick of device time.
-/

namespace Sys2Proof.Machine

/-- The state without the command at the front of its queue. (DESIGN CHOICE, log 1) -/
def popPending (s : State) : State := { s with pending := s.pending.tail }

/-- One step. -/
def step (s : State) : Host.Outcome State Fault Refusal :=
  match s.pending with
  | [] => .next (idleTick s)
  | c :: _ => exec c (popPending s)

/-- The state with a command put at the front of its queue. (DESIGN CHOICE, log 1) (DESIGN CHOICE, log 3) -/
def pushFront (s : State) (c : Instr) : State := { s with pending := c :: s.pending }

/-- The state with the command that a word spells in front of its queue; unchanged where the word spells none. -/
def State.withFetchWord (s : State) (nbits w : Nat) : State :=
  match Sys2Proof.decodeTableWord nbits w with
  | some c => pushFront s c
  | none => s

end Sys2Proof.Machine
end

