-- ==== Sys2Proof/Machine/Inv.lean ====
section
/-!
DEFINITION. Machine/Inv.lean: the canonical form of the memories and of the register file, and the invariant that every step keeps.
-/

namespace Sys2Proof.Machine

/-- The on-chip SRAM is canonical: addresses rise, no entry stands for an unwritten byte, none is zero where unwritten bytes read
as zero, and only poisoned granules are listed. -/
def sramWf (s : State) : Bool :=
  SMap.wf none s.sram.mem && SMap.wf false s.sram.bad && SMap.wfF zeroedAtReset s.sram.zeroed &&
    s.sram.mem.all fun e => !(bankZeroed s (bankAt e.1) && decide (e.2 = some 0))

/-- DRAM is canonical: lines rise, no entry is zero, and only poisoned lines are listed. -/
def dramWf (s : State) : Bool := SMap.wf 0 s.dram.mem && SMap.wf false s.dram.bad

/-- Every memory is canonical, so equal memories are equal data. -/
def Memory.wf (s : State) : Bool := sramWf s && dramWf s && SMap.wf 0 s.eeprom

/-- The register file is canonical: no entry equals the register's reset value. -/
def regsWf (s : State) : Bool := SMap.wfF regResetAt s.regs

/-- The invariant: memories and registers are canonical, the fabric error log holds at most 32 entries (R123), and the fault log at
most 16 (R573). -/
structure Inv (s : State) : Prop where
  mem  : Memory.wf s = true
  regs : regsWf s = true
  ferr : s.fab.ferr.length ≤ 32
  flog : s.faultLog.length ≤ 16

end Sys2Proof.Machine
end

