-- ==== Sys2Proof/Safety.lean ====
section
/-!
DEFINITION. Safety.lean: what counts as a safe run.
-/

namespace Sys2Proof.Machine

/-- The state after `k` steps, none where a step stops. -/
def runs : Nat → State → Option State
  | 0, s => some s
  | k + 1, s => match step s with
    | .next t => runs k t
    | _ => none

/-- A run of `k` steps does not stop. -/
def Safe (k : Nat) (s : State) : Prop := (runs k s).isSome = true

/-- Neither fault latch is set: FAULT_N and SAFE_N are high (R570). -/
def Quiet (s : State) : Prop := faultLow s = false ∧ safeLow s = false

end Sys2Proof.Machine
end

