-- ==== Sys2Proof/Certificates/Slice0/Obligations.lean ====
section
/-!
DEFINITION. Certificates/Slice0/Obligations.lean: the statements for the provers. Helper definitions stand under Sys2Proof.Claims.
-/

namespace Sys2Proof.Claims

end Sys2Proof.Claims

open Sys2Proof Sys2Proof.Machine Sys2Proof.Claims in
/-- The step takes the front command and answers what `exec` answers on the queue's rest (the model's form of sending commands, log entry 1). -/
def Obligations.StepRunsFront : Prop :=
  ∀ (c : Instr) (q : List Instr) (s : State), step { s with pending := c :: q } = exec c { s with pending := q }

open Sys2Proof Sys2Proof.Machine Sys2Proof.Claims in
/-- R86: device time counts; that an idle step is one tick is the model's choice (log entry 2). On the way the cores count their cycles
(R255), in their own pages, the conflict counters of on-chip SRAM what waits at its ports (R286), and the crossings their receiving edges (R92,
R93; log entry 37); nothing else changes. -/
def Obligations.IdleStepTicks : Prop :=
  ∀ s : State, s.pending = [] → (clocksOn s = true → ∃ t, step s = .next t ∧
      (let c := settleCrossings s (s.dt - s.dtOff) (s.dt + 1 - s.dtOff)
       t = { s with dt := s.dt + 1, regs := t.regs, twins := c.twins, xfifos := c.xfifos
                    cores := s.cores.map fun e => (e.1, { e.2 with done := 0 }) }) ∧
      (∀ p off, off < 0x1000 → (∀ n, p ≠ .wcc n) → ¬(p = .sram ∧ 0x064 ≤ off ∧ off ≤ 0x09C) → rd t p off = rd s p off) ∧
      (∀ n off, off < 0x1000 → off ≠ 0x010 → off ≠ 0x060 → ¬(0x068 ≤ off ∧ off ≤ 0x074) → rd t (.wcc n) off = rd s (.wcc n) off)) ∧
    (clocksOn s = false → step s = .next s)

open Sys2Proof Sys2Proof.Machine Sys2Proof.Claims in
/-- What a cold power-on and module reset leave (R97): the values of the Reset columns, empty logs, and the invariant. -/
def Obligations.ResetInv : Prop :=
  Inv State.reset ∧ State.reset.pending = [] ∧ State.reset.dt = 0 ∧ State.reset.fab.txns = [] ∧ State.reset.fab.ferr = [] ∧
    State.reset.faultLog = [] ∧ (∀ n : Fin 24, (SMap.get {} State.reset.cores n).run = .held) ∧
    State.reset.sram.mem = [] ∧ State.reset.dram.mem = [] ∧ State.reset.eeprom = [] ∧
    ∀ p off, rd State.reset p off = regResetAt (pageAddr p + off)

open Sys2Proof Sys2Proof.Machine Sys2Proof.Claims in
/-- R123: the fabric error log is a FIFO of 32; R573: the fault log holds 16; memories and registers stay canonical, over every command. -/
def Obligations.StepKeepsInv : Prop :=
  ∀ s t : State, Inv s → step s = .next t → Inv t

open Sys2Proof Sys2Proof.Machine Sys2Proof.Claims in
/-- No command stops the model, none touches the commands that wait behind it, and none breaks the invariant. That an event whose condition does not
hold changes nothing (log entry 4), and that an engine or a core that does not issue leaves its command without effect (log entry 15), is the model's
choice. -/
def Obligations.EveryCommandCompletes : Prop :=
  ∀ (c : Instr) (s : State), Inv s → ∃ t, exec c s = .next t ∧ t.pending = s.pending ∧ Inv t

open Sys2Proof Sys2Proof.Machine Sys2Proof.Claims in
/-- The canonical form of the memories: equal memories are equal data. -/
def Obligations.EqualStoresEqualData : Prop :=
  ∀ s t : State, Inv s → Inv t →
    ((∀ pr n, storedLine s pr n = storedLine t pr n) → s.dram.mem = t.dram.mem ∧ s.dram.bad = t.dram.bad) ∧
    ((∀ k, SMap.get 0 s.eeprom k = SMap.get 0 t.eeprom k) → s.eeprom = t.eeprom) ∧
    ((∀ a, SMap.getF regResetAt s.regs a = SMap.getF regResetAt t.regs a) → s.regs = t.regs) ∧
    ((∀ a, SMap.get none s.sram.mem a = SMap.get none t.sram.mem a) → s.sram.mem = t.sram.mem)

open Sys2Proof Sys2Proof.Machine Sys2Proof.Claims in
/-- R39: a write accepted at its point of coherence is seen by every later read; it changes nothing else. -/
def Obligations.ReadAfterWrite : Prop :=
  ∀ s : State, Inv s →
    (∀ a b, sramByte (setSramByte s a b) a = b ∧ ∀ a', a' ≠ a → sramByte (setSramByte s a b) a' = sramByte s a') ∧
    (∀ pr n v x, storedLine (storeLine s pr n v x) pr n = (v, x) ∧
      ∀ pr' n', memKey pr' n' ≠ memKey pr n → storedLine (storeLine s pr n v x) pr' n' = storedLine s pr' n') ∧
    (∀ p off v, rd (wr s p off v) p off = v ∧
      ∀ p' off', pageAddr p' + off' ≠ pageAddr p + off → rd (wr s p off v) p' off' = rd s p' off')

open Sys2Proof Sys2Proof.Machine Sys2Proof.Claims in
/-- The page map: 4 KiB pages at distinct addresses. -/
def Obligations.PagesApart : Prop :=
  (∀ (p q : Page) (i j : Nat), i < 0x1000 → j < 0x1000 → pageAddr p + i = pageAddr q + j → p = q ∧ i = j) ∧
    ∀ (s : State) (p : Page) (off : Nat), off < 0x1000 → regionOf s (pageAddr p + off) = some (.page p) ∧ pageOfAddr (pageAddr p + off) = some p

namespace Sys2Proof.Claims

open Sys2Proof.Machine

/-- R123: while the FIFO of 32 is not full, a record is entered last, with the request's address, OP, KIND, MASTER and attributes and bits 31:0 of the CK_F copy of device time, and IRQ_STAT bit 0 of FERR is set. -/
def FerrEntry : Prop :=
  ∀ (s : State) (m : Master) (a : Attr) (op : ReqOp) (addr : Nat) (k : Kind),
    s.fab.ferr.length < 32 →
    ferrLog s m a op addr k = setIrq { s with fab := { s.fab with ferr := s.fab.ferr ++ [{ addr := addr, op := opCode op, kind := kindCode k, master := masterCode m, attr := a, time := dtF s % 2 ^ 32 }] } } .ferr 1

/-- R123: a record that finds the FIFO full is lost: LOST is incremented, saturating, OVF is set, and the log is as before. -/
def FerrLost : Prop :=
  ∀ (s : State) (m : Master) (a : Attr) (op : ReqOp) (addr : Nat) (k : Kind),
    s.fab.ferr.length = 32 →
    ferrLog s m a op addr k = wrB (bumpF s .ferr 0x058 0 16 1) .ferr 0x040 6 true ∧ (ferrLog s m a op addr k).fab.ferr = s.fab.ferr

/-- R118, R119: with VALID 0 the record captures the error: VALID, CODE and CLASS, the tag, the detail, and IRQ_STAT.ERR; ERRS counts it. A corrected one sends no fault message. -/
def RecordFirst : Prop :=
  ∀ (s : State) (p : Page) (code : Nat) (a : Attr) (detail did : Nat),
    rdB (bumpF s p 0x02C 16 16 1) p 0x020 0 = false →
    let t := bumpF s p 0x02C 16 16 1
    let u := wr t p 0x020 (setFld (setFld (setBit (rd t p 0x020) 0 true) 8 8 code) 16 2 corrected)
    recordErr s p code corrected a detail did = setIrq (wr (wr u p 0x024 (BitVec.ofNat 32 (tagWord a))) p 0x028 (BitVec.ofNat 32 detail)) p 0x80000000

/-- R119: with VALID 1 a later error increments ERRS and sets OVF only. -/
def RecordLater : Prop :=
  ∀ (s : State) (p : Page) (code : Nat) (a : Attr) (detail did : Nat),
    rdB (bumpF s p 0x02C 16 16 1) p 0x020 0 = true →
    recordErr s p code corrected a detail did = wrB (bumpF s p 0x02C 16 16 1) p 0x020 1 true

/-- R566, R567: an error of contained or fatal class also sends its fault message to the collector, whether or not the record captured it. -/
def RecordSends : Prop :=
  ∀ (s : State) (p : Page) (code cls : Nat) (a : Attr) (detail did : Nat),
    cls ≠ corrected →
    (recordErr s p code cls a detail did).faultQ = (recordErr s p code corrected a detail did).faultQ ++ [{ page := p, code := code, cls := cls, attr := a, detail := detail, did := did }]

end Sys2Proof.Claims

open Sys2Proof Sys2Proof.Machine Sys2Proof.Claims in
/-- The fabric error log (R123) and the error record of a page (R118, R119, R566). -/
def Obligations.ErrorLogs : Prop :=
  FerrEntry ∧
  FerrLost ∧
  RecordFirst ∧
  RecordLater ∧
  RecordSends

namespace Sys2Proof.Claims

open Sys2Proof.Machine

/-- DRAM_REQUEST (R39, R301, R304, R309): a request that has been sent enters its port buffer while an entry is free, its rank does not drain for a migration, and no request sent to its line before it waits; it takes the next number of acceptance. -/
def DramRequest : Prop :=
  ∀ (s : State) (id : Nat) (r : DReq),
    dreq? s id = some r →
    r.stat = .sent →
    portLevel s r.port < 64 →
    draining s r.line = false →
    sentBefore s r = false →
    let t := updDreq s id fun q => { q with stat := .buffered, since := s.dt, acc := s.dram.nextAcc }
    exec (.dramRequest id) s = .next (updPanic { t with dram := { t.dram with nextAcc := s.dram.nextAcc + 1 } } r.port)

/-- SCHEDULER_CHOICE (R291, R303): a refresh that is due comes before every request, closes its bank and takes its rank out of power-down. -/
def SchedulerRefresh : Prop :=
  ∀ (s : State) (ch : Fin 18) (busy : BitVec 32) (e : Nat × Nat),
    clocksOn s = true →
    refreshPick s ch busy = some e →
    exec (.schedulerChoice ch busy) s = .next { s with dram := { s.dram with
      refDue := s.dram.refDue.erase e, rows := SMap.drop s.dram.rows fun k => decide (k = e.1 * 16 + e.2),
      pdown := s.dram.pdown.erase e.1, lastUse := SMap.set 0 s.dram.lastUse e.1 s.dt } }

/-- SCHEDULER_CHOICE (R303, R305, R310, R313): the request picked is given to its next rank, takes a token of its DID if one is free, is counted as held by a migration where it writes two ranks, opens its row there and ends the rank's power-down; it leaves its buffer once every rank that it goes to has it. -/
def SchedulerChoice : Prop :=
  ∀ (s : State) (ch : Fin 18) (busy : BitVec 32) (r : DReq),
    clocksOn s = true →
    refreshPick s ch busy = none →
    schedPick s (candidates s ch busy) = some r →
    internalFirst s ch busy r = false →
    let pr := reqRank s r
    let t := updDreq s r.id fun q => { q with
      stat := if (destRanks s r).all (fun x => decide (x = pr) || r.part.contains x) = true then .chosen else .buffered
      tok := r.tok || (r.attr.did ≠ 0 && tokFree s r.attr.did)
      mig := r.isW && decide (1 < (destRanks s r).length), part := pr :: q.part }
    exec (.schedulerChoice ch busy) s = .next (updPanic (touchRank t (rankLine s r.line) pr) r.port)

/-- SCHEDULER_CHOICE (R303, R306): where the access of patrol scrub or of a migration's copy that is due comes before the request picked, the cycle is that access's, whose effect is a command of its own. -/
def SchedulerYields : Prop :=
  ∀ (s : State) (ch : Fin 18) (busy : BitVec 32) (r : DReq),
    refreshPick s ch busy = none →
    schedPick s (candidates s ch busy) = some r →
    internalFirst s ch busy r = true →
    exec (.schedulerChoice ch busy) s = .next s

/-- DEADLINE_MISS (R306): in MODE DEADLINE a waiting request of a port with a target counts once in MISS and records code 0x83 of corrected class, in the tick in which its age is its target. -/
def DeadlineMiss : Prop :=
  ∀ (s : State) (id : Nat) (r : DReq),
    dreq? s id = some r →
    clocksOn s = true →
    r.stat = .buffered →
    deadlineMode s = true →
    r.missed = false →
    latTgt s r.port ≠ 0 →
    exec (.deadlineMiss id) s = .next (recCorrected (bumpF (updDreq (advanceTo s (tickAtAge r.since (latTgt s r.port))) id
      fun q => { q with missed := true }) .dmc (0x080 + 4 * r.port) 16 16 1) .dmc 0x83 r.attr r.port)

/-- DRAM_READ_COMPLETE (R293, R313): a chosen read with nothing older before it decodes; its data stands for the system cache, and its token returns. -/
def DramRead : Prop :=
  ∀ (s : State) (id : Nat) (out : LineErr) (r : DReq),
    dreq? s id = some r →
    r.stat = .chosen →
    r.isW = false →
    orderedBehind s r = false →
    exec (.dramReadComplete id out) s = .next (returnTok (updDreq (readLine s r.line out r.attr).1 id fun q => { q with stat := .returned, tok := false, data := (readLine s r.line out r.attr).2.1, poison := (readLine s r.line out r.attr).2.2 }) r.attr.did)

/-- R540: as tokens return, those that a destroyed domain owes go back to the pool, its grant falling to what it still holds; another domain's grant stands. -/
def TokensReturn : Prop :=
  ∀ (s : State) (d : Nat),
    ((SMap.get {} s.doms d).owedT = true → rdF (returnTok s d) (domPage d) 0x05C 0 11 = min (rdF s (domPage d) 0x05C 0 11) (tokHeld s d)) ∧
    ((SMap.get {} s.doms d).owedT = false → returnTok s d = s)

/-- R292: what a read finds by its symbol errors: none is CLEAN, or POISONED where the line is stored so; one to three are corrected; four or five, or a line that comes back from another address, are UNCORRECTABLE. -/
def ReadOutcome : Prop :=
  ∀ (s : State) (x : Line × Bool) (e : LineErr),
    (e.moved = true → decodeLine s x e = (s, 2, x.1)) ∧
    (e.moved = false → e.sym = 0 → decodeLine s x e = (s, if x.2 then 3 else 0, x.1)) ∧
    (e.moved = false → 1 ≤ e.sym.val → e.sym.val ≤ 3 → decodeLine s x e = (s, if x.2 then 3 else 1, x.1)) ∧
    (e.moved = false → 4 ≤ e.sym.val → e.sym.val ≤ 5 → decodeLine s x e = (s, 2, x.1))

/-- DRAM_REFRESH (R299) and RFM_REQUEST (R291): one refresh of the bank becomes due, on a channel that is trained and not in self-refresh (R300). -/
def DramRefresh : Prop :=
  ∀ (s : State) (pr : Fin 36) (bank : Fin 16),
    clocksOn s = true →
    rdF s (dchOf pr) 0x040 0 2 = 1 →
    exec (.dramRefresh pr bank) s = .next { s with dram := { s.dram with refDue := s.dram.refDue ++ [(pr.val, bank.val)] } } ∧
    exec (.rfmRequest pr bank) s = .next { s with dram := { s.dram with refDue := s.dram.refDue ++ [(pr.val, bank.val)] } }

/-- RANK_POWER_DOWN (R291): a rank with no request to it enters power-down, 64 CK_M cycles after its last command. -/
def RankPowerDown : Prop :=
  ∀ (s : State) (pr : Fin 36),
    clocksOn s = true →
    (∀ r ∈ s.dram.reqs, pr.val ∉ destRanks s r) →
    pr.val ∉ s.dram.pdown →
    let t := advanceTo s (tickAtAge (SMap.get 0 s.dram.lastUse pr) 64)
    exec (.rankPowerDown pr) s = .next { t with dram := { t.dram with pdown := pr.val :: t.dram.pdown } }

end Sys2Proof.Claims

open Sys2Proof Sys2Proof.Machine Sys2Proof.Claims in
/-- The request commands of the DRAM controller: DRAM_REQUEST, SCHEDULER_CHOICE, DEADLINE_MISS, DRAM_READ_COMPLETE, DRAM_REFRESH, RFM_REQUEST,
RANK_POWER_DOWN. Completes: dramRequest, dramReadComplete, dramRefresh, rfmRequest, rankPowerDown, deadlineMiss, schedulerChoice. -/
def Obligations.DramRequests : Prop :=
  DramRequest ∧
  SchedulerRefresh ∧
  SchedulerChoice ∧
  SchedulerYields ∧
  DeadlineMiss ∧
  DramRead ∧
  TokensReturn ∧
  ReadOutcome ∧
  DramRefresh ∧
  RankPowerDown

namespace Sys2Proof.Claims

open Sys2Proof.Machine

/-- MIGRATION_START (R308, R309): when none runs, the lowest waiting logical rank starts its migration. -/
def MigrationStart : Prop :=
  ∀ (s : State) (l : Nat) (r : List Nat),
    strStopped s 52 = false →
    s.dram.mig = none →
    s.dram.migReq = l :: r →
    exec .migrationStart s = .next (startMigration s l)

/-- MIGRATION_COPY (R303, R309, R310): when GAP allows it and the schedulers of both channels take it, a clean line goes from the old rank to the spare, and CP advances; a line that reads as poisoned is written poisoned. -/
def MigrationCopyClean : Prop :=
  ∀ (s : State) (l sp cp : Nat) (busy busySp : BitVec 32),
    s.dram.mig = some (l, sp, cp) →
    clocksOn s = true →
    cp < rankLines s →
    let due := if cp = 0 then s.dram.copyAt else tickAtAge s.dram.copyAt (rdF s .dmc 0x054 0 8)
    let t := advanceTo s due
    internalMay t busy (rosemary s l) cp due = true →
    internalMay t busySp (sparePr sp) cp due = true →
    let x := storedLine t (rosemary s l) cp
    let u := storeLine (touchRank (touchRank t cp (rosemary s l)) cp (sparePr sp)) (sparePr sp) cp x.1 x.2
    exec (.migrationCopy {} busy busySp) s = .next { u with dram := { u.dram with mig := some (l, sp, cp + 1), copyAt := t.dt } }

/-- MIGRATION_COPY (R309): an UNCORRECTABLE copy read is recorded with its line address and the tag of DID 0 (R293, R317), and the spare is written poisoned. -/
def MigrationCopyUnc : Prop :=
  ∀ (s : State) (l sp cp : Nat) (busy busySp : BitVec 32),
    s.dram.mig = some (l, sp, cp) →
    clocksOn s = true →
    cp < rankLines s →
    let due := if cp = 0 then s.dram.copyAt else tickAtAge s.dram.copyAt (rdF s .dmc 0x054 0 8)
    let t := advanceTo s due
    internalMay t busy (rosemary s l) cp due = true →
    internalMay t busySp (sparePr sp) cp due = true →
    let a : Attr := { did := 0, pid := 0, gen := genOf t (.dom 0), cls := 3 }
    let v := noteUE (touchRank (touchRank t cp (rosemary s l)) cp (sparePr sp)) (rosemary s l) cp (lineOf t l cp) 0x81 a 0
    let u := storeLine v (sparePr sp) cp (storedLine t (rosemary s l) cp).1 true
    exec (.migrationCopy { sym := 4 } busy busySp) s = .next { u with dram := { u.dram with mig := some (l, sp, cp + 1), copyAt := t.dt } }

/-- MIGRATION_SWITCH (R309): with every line copied and every accepted request to the rank complete, the entry takes the spare and the old rank is retired; MODE goes back to NORMAL where DRAM is in service, no migration waits and no channel is under BIST. -/
def MigrationSwitch : Prop :=
  ∀ (s : State) (l sp : Nat),
    s.dram.mig = some (l, sp, rankLines s) →
    (∀ r ∈ s.dram.reqs, ¬(logRank s r.line = l ∧ (r.stat = .buffered ∨ r.stat = .chosen))) →
    rosemary s l < 32 →
    rdB s .dmc 0x040 0 = true →
    s.dram.migReq = [] →
    s.bist = none →
    let u := wrB (wr s .rmap (0x040 + 4 * l) (BitVec.ofNat 32 (sparePr sp / 2 + sp % 2 * 32))) .rmap 0x0C8 (rosemary s l) true
    let t := setRankByte { u with dram := { u.dram with mig := none } } (rosemary s l) 2
    rdB t .dmc 0x040 0 = true →
    t.bist = none →
    exec .migrationSwitch s = .next (setIrq (dmcFollow (wrB (wrB t .dmc 0x044 0 false) .dmc 0x040 3 false)) .dmc 0x2)

/-- R308, R311: a migration that is requested joins the waiting ones in rising order; with no FREE spare the rank becomes DEGRADED at once: NO_SPARE is recorded and IRQ_STAT bit 3 set. -/
def MigrationRequest : Prop :=
  ∀ (s : State) (l : Nat),
    rankState s l = 0 →
    l ∉ s.dram.migReq →
    (freeSpare s ≠ none → reqMigration s l = { s with dram := { s.dram with migReq := (l :: s.dram.migReq).mergeSort (· ≤ ·) } }) ∧
    (freeSpare s = none →
      let t := dmcFollow (wrF s .rmap (0x040 + 4 * l) 6 2 2)
      reqMigration s l = restoreMode (setIrq (recordErr t .rmap 0x83 contained (pageAttr t .rmap) l 0) .dmc 0x8))

/-- R10, R308: CE_LIMIT corrected outcomes of a rank within one hour, 6,400,000,000,000 ticks of 0.5625 ns, request its migration; older ones do not count. -/
def CeWithinHour : Prop :=
  ∀ (s : State) (pr l : Nat),
    (rdF s .dmc 0x054 8 8 ≠ 0 → rdF s .dmc 0x054 8 8 ≤ (ceRecent s pr).length → ceLimit s pr l = reqMigration s l) ∧
    ((ceRecent s pr).length < rdF s .dmc 0x054 8 8 → ceLimit s pr l = s) ∧
    ∀ x ∈ ceRecent s pr, s.dt < x + 6400000000000

/-- DRIFT_TRACKING (R291, R317): a pass changes nothing; a failure on a channel that is not the running migration's target records TRAIN_FAIL, contained, raised to DID 0. -/
def DriftTracking : Prop :=
  ∀ (s : State) (ch : Fin 18),
    s.dram.mig = none →
    clocksOn s = true →
    exec (.driftTracking ch true) s = .next s ∧ exec (.driftTracking ch false) s = .next (recordErr s (.dch ch) 0x83 contained (pageAttr s (.dch ch)) 0 0)

/-- DEVICE_TEMP_READOUT (R299, R316): DTEMP takes the readout and REFX the higher of the device's factor and that of the package sensors. -/
def DeviceTemp : Prop :=
  ∀ (s : State) (ch : Fin 18) (temp : BitVec 8) (dev : Fin 3),
    clocksOn s = true →
    let u : State := { s with dram := { s.dram with devX := SMap.set 0 s.dram.devX ch dev.val } }
    exec (.deviceTempReadout ch temp dev false) s = .next (wrF (wrF u (.dch ch) 0x040 8 8 temp.toNat) (.dch ch) 0x040 2 2 (max dev.val (pkgFactor s.dram.pkgTemp)))

/-- DEVICE_TEMP_READOUT (R299): a readout outside the operating range sets the factor to 4× and records TEMP_HIGH. -/
def DeviceTempHot : Prop :=
  ∀ (s : State) (ch : Fin 18) (temp : BitVec 8) (dev : Fin 3),
    clocksOn s = true →
    let u : State := { s with dram := { s.dram with devX := SMap.set 0 s.dram.devX ch 2 } }
    exec (.deviceTempReadout ch temp dev true) s = .next (recInternal (wrF (wrF u (.dch ch) 0x040 8 8 temp.toNat) (.dch ch) 0x040 2 2 2) (.dch ch) 0x84 0)

/-- R299: a reading of the package sensors reaches every channel that is trained, and no other: REFX follows it at once, and at 115 °C or more TEMP_HIGH is recorded. -/
def PackageTemp : Prop :=
  ∀ (s : State) (t : Int),
    pkgReading s t = (List.finRange 18).foldl (fun u ch =>
      if rdF u (.dch ch) 0x040 0 2 = 1 then
        (if 115 ≤ t then recInternal (wrF u (.dch ch) 0x040 2 2 2) (.dch ch) 0x84 0
         else wrF u (.dch ch) 0x040 2 2 (max (SMap.get 0 u.dram.devX ch) (pkgFactor u.dram.pkgTemp)))
      else u) { s with dram := { s.dram with pkgTemp := t } }

/-- R299: a channel that comes into service, trained or out of self-refresh, takes the factor that the readings so far ask for. -/
def ChannelUp : Prop :=
  ∀ (s : State) (ch : Fin 18),
    rdF (channelUp s ch) (.dch ch) 0x040 0 2 = 1 ∧
    (s.dram.pkgTemp < 115 → rdF (channelUp s ch) (.dch ch) 0x040 2 2 = max (SMap.get 0 s.dram.devX ch) (pkgFactor s.dram.pkgTemp) % 4) ∧
    (115 ≤ s.dram.pkgTemp → rdF (channelUp s ch) (.dch ch) 0x040 2 2 = 2)

/-- SCRUB_READ (R303, R307): when it is due and the scheduler takes it, a line of a rank in service with no error that no queued write waits for is passed, and scrub moves to the next line. -/
def ScrubRead : Prop :=
  ∀ (s : State) (busy : BitVec 32),
    let l := s.dram.scrub / rankLines s
    let n := s.dram.scrub % rankLines s
    let due := scrubDue s
    let t := advanceTo s due
    clocksOn s = true →
    rdB s .dmc 0x040 0 = true →
    rdF s .dmc 0x050 0 8 ≠ 0 →
    rankState s l ≠ 1 →
    rdF s (.dch (Fin.ofNat 18 (rosemary s l / 2))) 0x040 0 2 = 1 →
    internalMay t busy (rosemary s l) n due = true →
    (∀ r ∈ s.dram.reqs, r.isW = false) →
    exec (.scrubRead {} busy) s = .next (scrubNext (touchRank { t with dram := { t.dram with scrubAt := scrubBase t due } } n (rosemary s l)))

/-- SCRUB_READ (R307, R308): an UNCORRECTABLE line records UE_SCRUB, contained, raised to DID 0, is stored poisoned, and requests a migration of its rank. -/
def ScrubUnc : Prop :=
  ∀ (s : State) (busy : BitVec 32),
    let l := s.dram.scrub / rankLines s
    let n := s.dram.scrub % rankLines s
    let due := scrubDue s
    let t := advanceTo s due
    clocksOn s = true →
    rdB s .dmc 0x040 0 = true →
    rdF s .dmc 0x050 0 8 ≠ 0 →
    rankState s l ≠ 1 →
    rdF s (.dch (Fin.ofNat 18 (rosemary s l / 2))) 0x040 0 2 = 1 →
    internalMay t busy (rosemary s l) n due = true →
    (∀ r ∈ s.dram.reqs, r.isW = false) →
    exec (.scrubRead { sym := 4 } busy) s = .next (scrubNext (reqMigration (noteUE (touchRank { t with dram := { t.dram with scrubAt := scrubBase t due } } n (rosemary s l))
      (rosemary s l) n (lineOf s l n) 0x82 { did := 0, pid := 0, gen := genOf t (.dom 0), cls := 3 } 0) l))

/-- R307: the next scrub read is due one step after the last was, a pass over every mapped line taking PERIOD hours; where that is past as well, scrub goes on from the present tick (log entry 90). A write of PERIOD that leaves 0 starts it from there. -/
def ScrubPace : Prop :=
  ∀ (s : State) (due : Nat) (v : Reg32),
    scrubStep s = 6400000000000 * rdF s .dmc 0x050 0 8 / (32 * rankLines s) ∧
    (s.dt ≤ due + scrubStep s → scrubBase s due = due) ∧ (due + scrubStep s < s.dt → scrubBase s due = s.dt) ∧
    (rdF s .dmc 0x050 0 8 = 0 → ∃ t, dmcWrite s 0x050 v = some t ∧ t.dram.scrubAt = s.dt ∧ rdF t .dmc 0x050 0 8 = fld v 0 8)

end Sys2Proof.Claims

open Sys2Proof Sys2Proof.Machine Sys2Proof.Claims in
/-- MIGRATION_START, MIGRATION_COPY, MIGRATION_SWITCH, DRIFT_TRACKING, DEVICE_TEMP_READOUT and SCRUB_READ. Completes: driftTracking,
deviceTempReadout, scrubRead, migrationStart, migrationCopy, migrationSwitch. -/
def Obligations.DramMaintenance : Prop :=
  MigrationStart ∧
  MigrationCopyClean ∧
  MigrationCopyUnc ∧
  MigrationSwitch ∧
  MigrationRequest ∧
  CeWithinHour ∧
  DriftTracking ∧
  DeviceTemp ∧
  DeviceTempHot ∧
  PackageTemp ∧
  ChannelUp ∧
  ScrubRead ∧
  ScrubUnc ∧
  ScrubPace

open Sys2Proof Sys2Proof.Machine Sys2Proof.Claims in
/-- R295: the map from a line to logical rank and rank line is a bijection, for both ordering codes. -/
def Obligations.AddressMapInverts : Prop :=
  ∀ s : State,
    (∀ la, inDram s la = true → logRank s la < 32 ∧ rankLine s la < rankLines s ∧ lineOf s (logRank s la) (rankLine s la) = la) ∧
    (∀ l n, l < 32 → n < rankLines s → inDram s (lineOf s l n) = true ∧ logRank s (lineOf s l n) = l ∧ rankLine s (lineOf s l n) = n)

open Sys2Proof Sys2Proof.Machine Sys2Proof.Claims in
/-- R303, R305, R306: tiers, urgency and age. -/
def Obligations.SchedulerOrder : Prop :=
  (∀ (s : State) (l : List DReq) (r : DReq), schedPick s l = some r →
      r ∈ l ∧ ∀ q ∈ l, schedKey s r < schedKey s q ∨ (schedKey s r = schedKey s q ∧ r.acc ≤ q.acc)) ∧
    (∀ (s : State) (l : List DReq), schedPick s l = none ↔ l = []) ∧
    (∀ (s : State) (r q : DReq), deadlineMode s = false → noToken s r = false → r.attr.cls = 0 → SMap.get false s.dram.panic r.port = true →
      ¬(q.attr.cls = 0 ∧ SMap.get false s.dram.panic q.port = true ∧ noToken s q = false) → schedKey s r < schedKey s q) ∧
    (∀ (s : State) (r q : DReq), deadlineMode s = false → ageLimit s r.attr.cls ≠ 0 → ageLimit s r.attr.cls ≤ ageOf s r →
      q.attr.cls ≠ 0 → (ageLimit s q.attr.cls = 0 ∨ ageOf s q < ageLimit s q.attr.cls) → schedKey s r < schedKey s q) ∧
    (∀ (s : State) (r q : DReq), deadlineMode s = true → urgency s q < urgency s r → schedKey s r < schedKey s q)

namespace Sys2Proof.Claims

open Sys2Proof.Machine

/-- SRAM_ACCESS (R281, R283): a read that its port serves returns its bytes, marked poisoned where a granule is stored so, after what SECDED finds is recorded, and holds the port. A change of the bank's state that waited for it begins (R285). (How a request says when it came is log entry 17.) -/
def SramReadServed : Prop :=
  ∀ (s : State) (id waited : Nat) (ce ue : BitVec 8) (t : Txn) (u : State),
    txn? s id = some t →
    t.status = .transit →
    behindSource s t = false →
    inSram t.req.addr = true →
    t.req.op ≠ .write →
    let w := if t.arr = true then txnWait t else portComes s (txnWait t) waited
    portTurn s w t.arr = some u →
    sramDeny u t.req.master t.req.addr = none →
    let r := portRead u w.port t.attr t.req.addr t.req.len ce ue
    exec (.sramAccess id waited ce ue) s = .next (askedMoves (answerTxn r.1 id false r.2.2 r.2.1))

/-- SRAM_ACCESS (R281, R283): a write that its port serves replaces the enabled bytes and is answered. -/
def SramWriteServed : Prop :=
  ∀ (s : State) (id waited : Nat) (ce ue : BitVec 8) (t : Txn) (u : State),
    txn? s id = some t →
    t.status = .transit →
    behindSource s t = false →
    inSram t.req.addr = true →
    t.req.op = .write →
    let w := if t.arr = true then txnWait t else portComes s (txnWait t) waited
    portTurn s w t.arr = some u →
    sramDeny u t.req.master t.req.addr = none →
    exec (.sramAccess id waited ce ue) s = .next (askedMoves (answerTxn
      (portWrite u w.port t.attr t.req.addr t.req.len (reqMask t.req) t.req.data t.poison ce ue) id false false 0))

/-- SRAM_ACCESS (R284, R285): a request to the secure part by another master than the SCU, or to a bank that is not ON, gets an error response with a record in the fabric error log. -/
def SramRefused : Prop :=
  ∀ (s : State) (id waited : Nat) (ce ue : BitVec 8) (t : Txn) (u : State) (k : Kind),
    txn? s id = some t →
    t.status = .transit →
    behindSource s t = false →
    inSram t.req.addr = true →
    let w := if t.arr = true then txnWait t else portComes s (txnWait t) waited
    portTurn s w t.arr = some u →
    sramDeny u t.req.master t.req.addr = some k →
    exec (.sramAccess id waited ce ue) s = .next (askedMoves (failTxn u t k))

/-- SRAM_ACCESS (R281, R286): a request that comes to its bank's port while the port is held, or while another one that waits there comes first, waits there, and the conflict counters count the CK_F cycles in which it has; one that stands there is served from the end of the access that holds the port, where none comes first. First comes what has waited 64 cycles of CK_F, then what has the class of the higher priority, RT first, then the older. -/
def SramPort : Prop :=
  (∀ (s : State) (id waited : Nat) (ce ue : BitVec 8) (t : Txn),
    txn? s id = some t →
    t.status = .transit →
    behindSource s t = false →
    inSram t.req.addr = true →
    let w := portComes s (txnWait t) waited
    (t.arr = false → portTurn s w false = none →
      exec (.sramAccess id waited ce ue) s = .next (confCount (updTxn s id fun q => { q with arr := true, since := w.since }) w.master w.bank ((s.dt - w.since) / 2))) ∧
    (t.arr = true → portTurn s (txnWait t) true = none → exec (.sramAccess id waited ce ue) s = .next s)) ∧
  (∀ (s : State) (w : PortWait),
    (portTurn s w false = some s ↔ (portUse s w.port).stop ≤ s.dt ∧ portTaken s w = false) ∧
    (¬((portUse s w.port).stop ≤ s.dt ∧ portTaken s w = false) → portTurn s w false = none) ∧
    (let t := advanceTo s (portUse s w.port).stop
     (portTaken t w = false → portTurn s w true = some t) ∧ (portTaken t w = true → portTurn s w true = none))) ∧
  (∀ (s : State) (w : PortWait),
    clocksOn s = true →
    portWaits s = [w] →
    let t := confCount s w.master w.bank ((s.dt + 1 - s.dtOff) / 2 - (s.dt - s.dtOff) / 2)
    ∀ off, off < 0x1000 → rd (idleTick s) .sram off = rd t .sram off) ∧
  (∀ (s : State) (u w : PortWait), u.cls < 4 → w.cls < 4 →
    (u.since + 128 ≤ s.dt → s.dt < w.since + 128 → portBefore s u w = true ∧ portBefore s w u = false) ∧
    (s.dt < u.since + 128 → s.dt < w.since + 128 → u.cls < w.cls → portBefore s u w = true ∧ portBefore s w u = false) ∧
    (u.cls = w.cls → u.since < w.since → portBefore s u w = true ∧ portBefore s w u = false))

/-- R282: in banks 0 to 3 RT is served at port B and every other class at port A, and every other bank has one port, so there RT never waits behind another class; of bytes that both ports touch in one cycle a read gives the value before the write, and port B's data remains. An access holds its port for its cycles (R281). -/
def SramTwoPorts : Prop :=
  (∀ b cls, (b < 4 → cls ≠ 0 → sramPort b 0 ≠ sramPort b cls) ∧ (4 ≤ b → sramPort b cls = sramPort b 0) ∧
    ∀ b' cls', b ≠ b' → sramPort b cls ≠ sramPort b' cls') ∧
  (∀ (s : State) (p q addr n : Nat),
    otherPort p = some q →
    (portUse s q).addr = addr →
    (portUse s q).len = n →
    (portUse s q).start / 2 = s.dt / 2 →
    sameCycle s p addr n = ((portUse s q).mask % 256 ^ n, ((portUse s q).old &&& (portUse s q).mask) % 256 ^ n)) ∧
  (∀ (s : State) (p addr n : Nat) (a : Attr) (ce ue : BitVec 8),
    sameCycle s p addr n = (0, 0) →
    portRead s p a addr n ce ue = sramRead (holdPort s p false addr n 0) a addr n ce ue ∧
    ∀ mask data poison, portWrite s p a addr n mask data poison ce ue = sramWrite (holdPort s p true addr n mask) a addr n mask data poison ce ue) ∧
  (∀ (s : State) (p addr n mask : Nat) (w : Bool),
    (portUse (holdPort s p w addr n mask) p).stop = s.dt + 2 * portCost w addr n mask ∧
    portCost false addr n mask = (addr + n - 1) / 32 - addr / 32 + 1)

/-- SRAM_BANK_STATE_DONE (R285): a change of state ends in the state asked for; a bank that leaves OFF or goes OFF has lost its contents and reads as zero when it is ON again. -/
def SramBankDone : Prop :=
  ∀ (s : State) (b : Fin 64) (x : Nat),
    SMap.get none s.sram.moving b = some x →
    let u : State := { s with sram := { s.sram with moving := SMap.set none s.sram.moving b none } }
    exec (.sramBankStateDone b) s = .next (wrF (if x / 4 = 2 ∨ x % 4 = 2 then zeroBanks u b (b + 1) else u) .sram (0x040 + 4 * (b.val / 16)) (2 * (b.val % 16)) 2 (x % 4))

/-- R285: with a request to the bank in flight, a change that is asked for waits and the bank keeps its state; with none in flight it begins, and the bank reads 0b11. -/
def SramAskedWaits : Prop :=
  ∀ (s : State) (b : Fin 64) (st : Fin 3),
    st.val ≠ bankState s b →
    (bankFlight s b ≠ [] → bankState (askMove s b st) b = bankState s b ∧ SMap.get none (askMove s b st).sram.asked b = some (st.val, bankFlight s b)) ∧
    (bankFlight s b = [] → bankState (askMove s b st) b = 3)

end Sys2Proof.Claims

open Sys2Proof Sys2Proof.Machine Sys2Proof.Claims in
/-- SRAM_ACCESS and SRAM_BANK_STATE_DONE. Completes: sramAccess, sramBankStateDone. -/
def Obligations.SramCommands : Prop :=
  SramReadServed ∧
  SramWriteServed ∧
  SramRefused ∧
  SramPort ∧
  SramTwoPorts ∧
  SramBankDone ∧
  SramAskedWaits

open Sys2Proof Sys2Proof.Machine Sys2Proof.Claims in
/-- R283: a write that covers all 8 bytes stores fresh data; a partial one merges. -/
def Obligations.SramWriteBytes : Prop :=
  ∀ (s : State) (a : Attr) (addr n mask data : Nat) (poison : Bool) (ce ue : BitVec 8), Inv s → 0 < n → addr / 64 = (addr + n - 1) / 64 →
    let t := sramWrite s a addr n mask data poison ce ue
    (∀ i, i < n → sramByte t (addr + i) =
      (sramByte s (addr + i) &&& ~~~BitVec.ofNat 8 (mask / 256 ^ i)) ||| (BitVec.ofNat 8 (data / 256 ^ i) &&& BitVec.ofNat 8 (mask / 256 ^ i))) ∧
    (∀ x, x < addr ∨ addr + n ≤ x → sramByte t x = sramByte s x) ∧
    (∀ g, g ∈ granules addr n → granMask addr n mask g = 2 ^ 64 - 1 → granBad t g = poison) ∧
    (∀ g, g ∉ granules addr n → granBad t g = granBad s g)

namespace Sys2Proof.Claims

open Sys2Proof.Machine

/-- SYSTEM_CACHE_READ (R260): a read that hits is answered from the line, with its poison. -/
def ScReadHit : Prop :=
  ∀ (s : State) (id slot : Nat) (vpar : Bool) (t : Txn) (x : ScLine),
    txn? s id = some t →
    t.status = .transit →
    behindSource s t = false →
    inDram s (reqLine t.req) = true →
    rdB s .dmc 0x040 0 = true →
    lineBusy s (reqLine t.req) = false →
    t.req.op ≠ .write →
    scFind s (reqLine t.req) = some slot →
    SMap.find? s.sc.lines slot = some x →
    wayCleaning s (slot / 16384) = false →
    exec (.systemCacheRead id false vpar) s = .next (answerTxn s id false x.poison (reqBytes t.req x.data))

/-- SYSTEM_CACHE_READ (R265): a non-allocating read miss goes to DRAM and installs nothing. -/
def ScReadMiss : Prop :=
  ∀ (s : State) (id : Nat) (par vpar : Bool) (t : Txn),
    txn? s id = some t →
    t.status = .transit →
    behindSource s t = false →
    inDram s (reqLine t.req) = true →
    rdB s .dmc 0x040 0 = true →
    lineBusy s (reqLine t.req) = false →
    t.req.op ≠ .write →
    scFind s (reqLine t.req) = none →
    allocSlot s t.attr (reqLine t.req) = none →
    exec (.systemCacheRead id par vpar) s = .next (acceptTxn (sendDram s { id := 0, isW := false, line := reqLine t.req, attr := t.attr, port := portOf (masterCode t.req.master), cause := .fill id none }) id)

/-- SYSTEM_CACHE_READ and SYSTEM_CACHE_WRITE (R265, R278): a request for a line whose fill is on its way, or that waits for its slot, waits at the cache. -/
def ScWaitsForLine : Prop :=
  ∀ (s : State) (id : Nat) (par vpar : Bool) (t : Txn),
    txn? s id = some t →
    t.status = .transit →
    behindSource s t = false →
    inDram s (reqLine t.req) = true →
    rdB s .dmc 0x040 0 = true →
    lineBusy s (reqLine t.req) = true →
    (t.req.op ≠ .write → exec (.systemCacheRead id par vpar) s = .next (arriveTxn s id)) ∧
    (t.req.op = .write → exec (.systemCacheWrite id par vpar) s = .next (arriveTxn s id))

/-- SYSTEM_CACHE_READ (R265, R266): an allocating read miss takes its home slot, a dirty victim going to DRAM at once, and reads its line from DRAM. -/
def ScReadAlloc : Prop :=
  ∀ (s : State) (id slot : Nat) (par vpar : Bool) (t : Txn),
    txn? s id = some t →
    t.status = .transit →
    behindSource s t = false →
    inDram s (reqLine t.req) = true →
    rdB s .dmc 0x040 0 = true →
    lineBusy s (reqLine t.req) = false →
    t.req.op ≠ .write →
    scFind s (reqLine t.req) = none →
    allocSlot s t.attr (reqLine t.req) = some slot →
    resvOf s slot = none →
    let m := masterCode t.req.master
    exec (.systemCacheRead id par vpar) s = .next (acceptTxn (sendDram (scAllocate s t.attr m (reqLine t.req) slot vpar) { id := 0, isW := false, line := reqLine t.req, attr := t.attr, port := portOf m, cause := .fill id (some slot) }) id)

/-- R125, R266, R268, R301: the dirty victim of an allocation goes to DRAM with the attributes and the MASTER of the allocating request, at that master's port, and stays in its slot until accepted. -/
def ScVictimOf : Prop :=
  ∀ (s : State) (a : Attr) (master la slot : Nat) (x : ScLine),
    SMap.find? s.sc.lines slot = some x →
    x.dirty = true →
    let t := sendDram s { id := 0, isW := true, line := slotLine slot x.tag, data := x.data, be := beAll, poison := x.poison, attr := a,
                          port := portOf master, cause := .victim slot }
    scAllocate s a master la slot false = { t with sc := { t.sc with resvs := t.sc.resvs ++ [{ slot := slot, line := la, victim := true }] } } ∧
      SMap.find? (scAllocate s a master la slot false).sc.lines slot = some x

/-- SYSTEM_CACHE_WRITE (R265): a write that hits a way of an enabled partition takes the bytes and makes the line dirty. -/
def ScWriteHitBack : Prop :=
  ∀ (s : State) (id slot : Nat) (vpar : Bool) (t : Txn) (x : ScLine),
    txn? s id = some t →
    t.status = .transit →
    behindSource s t = false →
    inDram s (reqLine t.req) = true →
    rdB s .dmc 0x040 0 = true →
    lineBusy s (reqLine t.req) = false →
    t.req.op = .write →
    scFind s (reqLine t.req) = some slot →
    SMap.find? s.sc.lines slot = some x →
    wayCleaning s (slot / 16384) = false →
    wayEnabled s (slot / 16384) = true →
    resvOf s slot = none →
    let y := applyWrite (x.data, x.poison) (reqData t.req) (reqBe t.req) t.poison
    exec (.systemCacheWrite id false vpar) s = .next (answerTxn (putLine s slot { x with data := y.1, poison := y.2, dirty := true }) id false false 0)

/-- SYSTEM_CACHE_WRITE (R264): a write that hits a way in no enabled partition updates the line, keeps it clean and is sent to DRAM; it is answered when DRAM has it. -/
def ScWriteHitThrough : Prop :=
  ∀ (s : State) (id slot : Nat) (vpar : Bool) (t : Txn) (x : ScLine),
    txn? s id = some t →
    t.status = .transit →
    behindSource s t = false →
    inDram s (reqLine t.req) = true →
    rdB s .dmc 0x040 0 = true →
    lineBusy s (reqLine t.req) = false →
    t.req.op = .write →
    scFind s (reqLine t.req) = some slot →
    SMap.find? s.sc.lines slot = some x →
    wayCleaning s (slot / 16384) = false →
    wayEnabled s (slot / 16384) = false →
    resvOf s slot = none →
    let y := applyWrite (x.data, x.poison) (reqData t.req) (reqBe t.req) t.poison
    exec (.systemCacheWrite id false vpar) s = .next (acceptTxn (scWriteOut (putLine s slot { x with data := y.1, poison := y.2 }) (slotLine slot x.tag)
      (reqData t.req) (reqBe t.req) t.poison t.attr (masterCode t.req.master) (.write (some id))) id)

/-- SYSTEM_CACHE_WRITE (R265): a non-allocating write miss goes to DRAM unchanged. -/
def ScWriteMiss : Prop :=
  ∀ (s : State) (id : Nat) (par vpar : Bool) (t : Txn),
    txn? s id = some t →
    t.status = .transit →
    behindSource s t = false →
    inDram s (reqLine t.req) = true →
    rdB s .dmc 0x040 0 = true →
    lineBusy s (reqLine t.req) = false →
    t.req.op = .write →
    scFind s (reqLine t.req) = none →
    allocSlot s t.attr (reqLine t.req) = none →
    exec (.systemCacheWrite id par vpar) s = .next (acceptTxn (scWriteOut s (reqLine t.req) (reqData t.req) (reqBe t.req) t.poison t.attr (masterCode t.req.master) (.write (some id))) id)

/-- SYSTEM_CACHE_WRITE (R265): an allocating write miss of all 64 bytes is installed dirty with no DRAM read. -/
def ScWriteFull : Prop :=
  ∀ (s : State) (id slot : Nat) (par vpar : Bool) (t : Txn),
    txn? s id = some t →
    t.status = .transit →
    behindSource s t = false →
    inDram s (reqLine t.req) = true →
    rdB s .dmc 0x040 0 = true →
    lineBusy s (reqLine t.req) = false →
    t.req.op = .write →
    scFind s (reqLine t.req) = none →
    allocSlot s t.attr (reqLine t.req) = some slot →
    resvOf s slot = none →
    reqBe t.req = beAll →
    exec (.systemCacheWrite id par vpar) s = .next (answerTxn (scSettle (scAllocate s t.attr (masterCode t.req.master) (reqLine t.req) slot vpar) slot (reqLine t.req) (reqData t.req) true t.poison) id false false 0)

/-- SYSTEM_CACHE_WRITE (R265): an allocating partial write miss reads its line from DRAM first. -/
def ScWritePart : Prop :=
  ∀ (s : State) (id slot : Nat) (par vpar : Bool) (t : Txn),
    txn? s id = some t →
    t.status = .transit →
    behindSource s t = false →
    inDram s (reqLine t.req) = true →
    rdB s .dmc 0x040 0 = true →
    lineBusy s (reqLine t.req) = false →
    t.req.op = .write →
    scFind s (reqLine t.req) = none →
    allocSlot s t.attr (reqLine t.req) = some slot →
    resvOf s slot = none →
    reqBe t.req ≠ beAll →
    let m := masterCode t.req.master
    exec (.systemCacheWrite id par vpar) s = .next (acceptTxn (sendDram (scAllocate s t.attr m (reqLine t.req) slot vpar) { id := 0, isW := false, line := reqLine t.req, attr := t.attr, port := portOf m, cause := .fill id (some slot) }) id)

/-- SYSTEM_CACHE_READ and SYSTEM_CACHE_WRITE (R160): until DRAM is in service a request gets an error response, logged with KIND ASLEEP. -/
def NotInService : Prop :=
  ∀ (s : State) (id : Nat) (par vpar : Bool) (t : Txn),
    txn? s id = some t →
    t.status = .transit →
    behindSource s t = false →
    inDram s (reqLine t.req) = true →
    rdB s .dmc 0x040 0 = false →
    (t.req.op ≠ .write → exec (.systemCacheRead id par vpar) s = .next (failTxn s t .asleep)) ∧
    (t.req.op = .write → exec (.systemCacheWrite id par vpar) s = .next (failTxn s t .asleep))

/-- SC_FILL_RETURN (R265, R266, R272): the line read from DRAM is given to the reader with its poison and installed where a slot was allocated. -/
def FillReturn : Prop :=
  ∀ (s : State) (id tid : Nat) (o : Option Nat) (r : DReq) (t : Txn),
    dreq? s id = some r →
    r.cause = .fill tid o →
    r.stat = .returned →
    txn? s tid = some t →
    t.req.op ≠ .write →
    exec (.scFillReturn id) s = .next (answerTxn (match o with
      | some sl => scSettle (dropDreq s id) sl r.line r.data false r.poison
      | none => dropDreq s id) tid false r.poison (reqBytes t.req r.data))

/-- SC_FILL_RETURN (R265, R272): the written bytes of a partial write miss are merged into the line, which is installed dirty. -/
def FillMerge : Prop :=
  ∀ (s : State) (id tid sl : Nat) (r : DReq) (t : Txn),
    dreq? s id = some r →
    r.cause = .fill tid (some sl) →
    r.stat = .returned →
    txn? s tid = some t →
    t.req.op = .write →
    let y := applyWrite (r.data, r.poison) (reqData t.req) (reqBe t.req) t.poison
    exec (.scFillReturn id) s = .next (answerTxn (scSettle (dropDreq s id) sl r.line y.1 true y.2) tid false false 0)

/-- SC_FILL_RETURN (R265, R270): a line that PRELOAD read from DRAM is installed in its slot, clean. -/
def FillPreload : Prop :=
  ∀ (s : State) (id sl : Nat) (r : DReq),
    dreq? s id = some r →
    r.cause = .preload sl →
    r.stat = .returned →
    exec (.scFillReturn id) s = .next (scSettle (dropDreq s id) sl r.line r.data false r.poison)

/-- SC_FILL_RETURN (R265, R266): a line that an access within a master's own command read from DRAM is installed in the slot that it allocates (log entry 55). -/
def FillOwn : Prop :=
  ∀ (s : State) (id m : Nat) (o : Option Nat) (r : DReq),
    dreq? s id = some r →
    r.cause = .own m o →
    r.stat = .returned →
    exec (.scFillReturn id) s = .next (match o with
      | some sl => scSettle (dropDreq s r.id) sl r.line r.data false r.poison
      | none => dropDreq s r.id)

/-- VICTIM_ACCEPTED (R266): once DRAM has accepted the victim, a line that is ready is installed in its slot. -/
def VictimAccepted : Prop :=
  ∀ (s : State) (slot : Nat) (r : ScResv),
    resvOf s slot = some r →
    r.victim = true →
    r.ready = true →
    (∀ q ∈ s.dram.reqs, ¬(q.cause = .victim slot ∧ q.stat = .sent)) →
    exec (.victimAccepted slot) s = .next (installLine (updResvs (dropLine s slot) fun l => l.filter fun q => decide (q.slot ≠ slot)) slot r.line r.data r.dirty r.poison)

/-- R275, R276: a line is installed where its way has power, and clears the way's EMPTY bit; a way powered down meanwhile takes none, and data that DRAM does not hold goes there. -/
def InstallPowered : Prop :=
  ∀ (s : State) (slot la : Nat) (data : Line) (dirty poison : Bool),
    (wayOn s (slot / 16384) = true → installLine s slot la data dirty poison =
      setWayBit (putLine s slot { tag := scTag la, data := data, dirty := dirty, poison := poison }) 0x060 (slot / 16384) false) ∧
    (wayOn s (slot / 16384) = false → dirty = false → installLine s slot la data dirty poison = s) ∧
    (wayOn s (slot / 16384) = false → dirty = true → installLine s slot la data dirty poison = scWriteOut s la data beAll poison (scAttr s) 0x0F2 .cmd)

/-- DRAM_WRITE_COMPLETE (R294, R302): a chosen write with nothing older before it is stored, its token returns, and the request it serves is answered. -/
def DramWrite : Prop :=
  ∀ (s : State) (id tid : Nat) (out : LineErr) (r : DReq),
    dreq? s id = some r →
    r.stat = .chosen →
    r.isW = true →
    orderedBehind s r = false →
    r.cause = .write (some tid) →
    exec (.dramWriteComplete id out) s = .next (answerTxn (returnTok (dropDreq (writeLine s r.line r.data r.be r.poison out r.attr) id) r.attr.did) tid false false 0)

end Sys2Proof.Claims

open Sys2Proof Sys2Proof.Machine Sys2Proof.Claims in
/-- SYSTEM_CACHE_READ, SYSTEM_CACHE_WRITE, SC_FILL_RETURN, VICTIM_ACCEPTED and DRAM_WRITE_COMPLETE, for every case of R264 to R266. (When a victim's line is taken,
what waits for it, and what a way that loses its power does with a line on its way, is log entry 54; the names that requests carry are log entry 55.)
Completes: systemCacheRead, systemCacheWrite, scFillReturn, victimAccepted, dramWriteComplete. -/
def Obligations.SystemCacheRequests : Prop :=
  ScReadHit ∧
  ScReadMiss ∧
  ScWaitsForLine ∧
  ScReadAlloc ∧
  ScVictimOf ∧
  ScWriteHitBack ∧
  ScWriteHitThrough ∧
  ScWriteMiss ∧
  ScWriteFull ∧
  ScWritePart ∧
  NotInService ∧
  FillReturn ∧
  FillMerge ∧
  FillPreload ∧
  FillOwn ∧
  VictimAccepted ∧
  InstallPowered ∧
  DramWrite

namespace Sys2Proof.Claims

open Sys2Proof.Machine

/-- SC_CMD_DONE (R273): a command that R273, R275 or R276 turns away ends with its RESULT, BUSY clear and IRQ_STAT bit 0 set, and no line changes. -/
def ScCmdRefused : Prop :=
  ∀ (s : State) (c : ScCmd) (n : Nat) (pars : List Nat),
    s.sc.cmd = some c →
    c.acts = false →
    let u := wrF (wrB s .scac 0x050 0 false) .scac 0x050 4 4 c.result
    exec (.scCmdDone n pars) s = .next (setIrq { u with sc := { u.sc with cmd := none } } .scac 1)

/-- SC_CMD_DONE (R274): CLEAN, INVALIDATE and CLEAN_INVALIDATE act once on every held line of the next part of the range, in a powered way; the command goes on until the whole range is done and DRAM has accepted its writes. -/
def ScCmdRange : Prop :=
  ∀ (s : State) (c : ScCmd) (n : Nat) (pars : List Nat),
    s.sc.cmd = some c →
    c.acts = true →
    (1 ≤ c.op ∧ c.op ≤ 3) →
    let hi := min c.len (c.pos + n)
    let l := slotsWhere s fun _ la => decide (c.line + c.pos ≤ la) && decide (la < c.line + hi)
    scWaits s l = false →
    let v := l.foldl (scRangeSlot c.op c.incl pars) s
    let u := wrF (wrB v .scac 0x050 0 false) .scac 0x050 4 4 c.result
    ((hi < c.len ∨ scOwed v = true) → exec (.scCmdDone n pars) s = .next { v with sc := { v.sc with cmd := some { c with pos := hi } } }) ∧
    (hi = c.len → scOwed v = false → exec (.scCmdDone n pars) s = .next (setIrq { u with sc := { u.sc with cmd := none } } .scac 1))

/-- SC_CMD_DONE (R275): EMPTY_WAY cleans and drops every line of the way and sets its EMPTY bit; WAY_OFF ends with the way already off; WAY_ON powers it with every line invalid. -/
def ScCmdWay : Prop :=
  ∀ (s : State) (c : ScCmd) (n : Nat) (pars : List Nat),
    s.sc.cmd = some c →
    c.acts = true →
    let hi := min c.len (c.pos + n)
    let l := slotsWhere s fun slot _ => decide (slot / 16384 = c.way) && decide (c.pos ≤ slot % 16384) && decide (slot % 16384 < hi)
    let v := l.foldl (fun s slot => dropLine (scCleanSlot pars s slot) slot) s
    let fin := fun (v : State) => let u := wrF (wrB v .scac 0x050 0 false) .scac 0x050 4 4 c.result; setIrq { u with sc := { u.sc with cmd := none } } .scac 1
    (c.op = 5 → scWaits s l = false → (hi < c.len ∨ scOwed v = true) → exec (.scCmdDone n pars) s = .next { v with sc := { v.sc with cmd := some { c with pos := hi } } }) ∧
    (c.op = 5 → scWaits s l = false → hi = c.len → scOwed v = false → exec (.scCmdDone n pars) s = .next (fin (setWayBit v 0x060 c.way true))) ∧
    (c.op = 6 → c.len = 0 → scOwed s = false → exec (.scCmdDone n pars) s = .next (fin s)) ∧
    (c.op = 7 → c.len = 0 → scOwed s = false → exec (.scCmdDone n pars) s = .next (fin (wayUp s c.way)))

/-- SC_CMD_DONE (R270): PRELOAD works through the lines of its range in rising order: one held is passed, one whose home is locked is counted in SC_SKIP, and any other takes its home and its read goes to DRAM; it ends once every read has returned. -/
def ScCmdPreload : Prop :=
  ∀ (s : State) (c : ScCmd) (n : Nat) (pars : List Nat),
    s.sc.cmd = some c →
    c.acts = true →
    c.op = 4 →
    let r := scPreloadRun c pars n c.pos s
    let u := wrF (wrB r.1 .scac 0x050 0 false) .scac 0x050 4 4 c.result
    ((r.2 < c.len ∨ scOwed r.1 = true) → exec (.scCmdDone n pars) s = .next { r.1 with sc := { r.1.sc with cmd := some { c with pos := r.2 } } }) ∧
    (c.len ≤ r.2 → scOwed r.1 = false → exec (.scCmdDone n pars) s = .next (setIrq { u with sc := { u.sc with cmd := none } } .scac 1))

/-- R260, R266, R270: one line of PRELOAD: held, it is passed; on its way, it waits; else it takes its unlocked home, whose dirty victim stays until accepted, and its read goes to DRAM. -/
def PreloadLine : Prop :=
  ∀ (s : State) (part la slot : Nat) (pars : List Nat),
    (lineBusy s la = true → scPreloadLine part la pars s = none) ∧
    (lineBusy s la = false → scFind s la ≠ none → scPreloadLine part la pars s = some s) ∧
    (lineBusy s la = false → scFind s la = none → home s part la = some slot → wayLocked s (slot / 16384) = true →
      scPreloadLine part la pars s = some (bumpF s .scac 0x054 0 32 1)) ∧
    (lineBusy s la = false → scFind s la = none → home s part la = some slot → wayLocked s (slot / 16384) = false → resvOf s slot = none →
      ∃ t, scPreloadLine part la pars s = some t ∧ lineBusy t la = true ∧ scFind t la = none)

/-- R278: EN of a partition is written to 0 while a PRELOAD into it runs: it fills no further line and ends with PART_OFF. -/
def PreloadStopped : Prop :=
  ∀ (s : State) (p : Nat) (c : ScCmd),
    s.sc.cmd = some c →
    c.op = 4 →
    c.acts = true →
    (c.part = p → (stopPreload s p).sc.cmd = some { c with result := 5, len := c.pos }) ∧ (c.part ≠ p → (stopPreload s p).sc.cmd = some c)

/-- PARTITION_CLEAN_DONE (R277): with no victim of the partition waiting, the scan writes back every dirty line of its ways, which stays held; once none is dirty and DRAM has accepted every write-back, CLEANING and EN clear. -/
def PartClean : Prop :=
  ∀ (s : State) (p : Fin 16) (pars : List Nat),
    partCleaning s p = true →
    (∀ r ∈ s.sc.resvs, r.victim = true → inPart s p (r.slot / 16384) = false) →
    let v := (slotsWhere s fun slot _ => inPart s p (slot / 16384)).foldl (scCleanSlot pars) s
    let owed := v.dram.reqs.any fun r => decide (r.cause = .cmd) && decide (r.stat = .sent)
    ((partDirty v p = true ∨ owed = true) → exec (.partitionCleanDone p pars) s = .next v) ∧
    (partDirty v p = false → owed = false → exec (.partitionCleanDone p pars) s = .next (wrB (wrB v .scac (0x084 + 8 * p) 17 false) .scac (0x084 + 8 * p) 16 false))

end Sys2Proof.Claims

open Sys2Proof Sys2Proof.Machine Sys2Proof.Claims in
/-- SC_CMD_DONE for each OP, and PARTITION_CLEAN_DONE. (That a range command takes the next part of its range at each SC_CMD_DONE is log entry 54; that
the choices left open are the command's operands, log entry 5.) Completes: scCmdDone, partitionCleanDone. -/
def Obligations.SystemCacheCommands : Prop :=
  ScCmdRefused ∧
  ScCmdRange ∧
  ScCmdWay ∧
  ScCmdPreload ∧
  PreloadLine ∧
  PreloadStopped ∧
  PartClean

open Sys2Proof Sys2Proof.Machine Sys2Proof.Claims in
/-- R261, R263, R269: where a miss allocates. -/
def Obligations.AllocationStaysInPartition : Prop :=
  ∀ (s : State) (a : Attr) (la slot : Nat), allocSlot s a la = some slot →
    home s (didMap s a.did).1 la = some slot ∧ slot % 16384 = scIdx la ∧ slot / 16384 < 48 ∧ inPart s (didMap s a.did).1 (slot / 16384) = true ∧
    (didMap s a.did).2.1 = true ∧ partEn s (didMap s a.did).1 = true ∧ partCleaning s (didMap s a.did).1 = false ∧
    (a.cls ≠ 3 ∨ (didMap s a.did).2.2 = false) ∧ wayLocked s (slot / 16384) = false

open Sys2Proof Sys2Proof.Machine Sys2Proof.Claims in
/-- R590: decode, gate, grant, credit, in this order; an atomic, and a write that its target merges into a packed word (log entry 23), needs R and W together (R533). To Sage ROM, which answers at once (log
entry 24), a clause of its own. -/
def Obligations.IngressChecks : Prop :=
  ∀ (s : State) (t : Txn),
    let rmw := decide (t.req.op = .write) && t.req.pos.isSome
    (∀ k, decodeDeny s t.req.master t.req.addr t.req.len = some k → ingressDeny s t.req.master t.attr t.req.op t.req.addr t.req.len rmw = some k) ∧
    (decodeDeny s t.req.master t.req.addr t.req.len = none → gated s t.attr.did = true →
      ingressDeny s t.req.master t.attr t.req.op t.req.addr t.req.len rmw = some .wrongOwner) ∧
    (decodeDeny s t.req.master t.req.addr t.req.len = none → gated s t.attr.did = false → needsGrant t.req.master = true →
      (regionOf s t.req.addr = some .dram ∨ regionOf s t.req.addr = some .sram) → granted s t.attr.did t.req.addr t.req.len (t.req.op = .write) (rmw || t.req.op = .fillAtomic) = false →
      ingressDeny s t.req.master t.attr t.req.op t.req.addr t.req.len rmw = some .wrongOwner) ∧
    (decodeDeny s t.req.master t.req.addr t.req.len = none → gated s t.attr.did = false →
      (needsGrant t.req.master = false ∨ (regionOf s t.req.addr ≠ some .dram ∧ regionOf s t.req.addr ≠ some .sram) ∨
        granted s t.attr.did t.req.addr t.req.len (t.req.op = .write) (rmw || t.req.op = .fillAtomic) = true) →
      ingressDeny s t.req.master t.attr t.req.op t.req.addr t.req.len rmw = none) ∧
    (∀ k, ingressDeny s t.req.master t.attr t.req.op t.req.addr t.req.len rmw = some k →
      enterFabric s t = updTxn (ferrLog s t.req.master t.attr t.req.op t.req.addr k) t.id fun u =>
        { u with status := .refused, err := true, why := kindCode k, rdata := 0 }) ∧
    (ingressDeny s t.req.master t.attr t.req.op t.req.addr t.req.len rmw = none → credFree s t.attr.did = false →
      enterFabric s t = updTxn s t.id fun u => { u with status := .waitCredit }) ∧
    (ingressDeny s t.req.master t.attr t.req.op t.req.addr t.req.len rmw = none → credFree s t.attr.did = true → regionOf s t.req.addr ≠ some .rom →
      enterFabric s t = updTxn s t.id fun u => { u with status := .transit }) ∧
    (ingressDeny s t.req.master t.attr t.req.op t.req.addr t.req.len rmw = none → credFree s t.attr.did = true → regionOf s t.req.addr = some .rom →
      ∃ d, enterFabric s t = answerTxn (updTxn s t.id fun u => { u with status := .transit }) t.id false false d) ∧
    (t.status = .refused ∨ t.status = .waitCredit ∨ t.status = .posted → holdsCredit t = false)

namespace Sys2Proof.Claims

open Sys2Proof.Machine

/-- FABRIC_INGRESS (R590): a new request within one block of 64 bytes takes the next number and the attributes of R26, and comes to its ingress. -/
def IngressNew : Prop :=
  ∀ (s : State) (r : FReq) (lvl : Fin 4),
    oneBlock r = true →
    (∀ p, regionOf s r.addr ≠ some (.page p)) →
    regionOf s r.addr ≠ some .tylPages →
    exec (.fabricIngress (.new r lvl)) s = .next (ingressOf (postReq s r lvl .plain) s.fab.nextId)

/-- FABRIC_INGRESS (R31, R120, R536, R590): a new request to the register region goes on to the bridge, where the checks of ingress let it pass, its DID has a free credit and no earlier request of its source is ahead of it; without a credit, or behind one, it waits at ingress. -/
def IngressRegister : Prop :=
  ∀ (s : State) (r : FReq) (lvl : Fin 4) (p : Page),
    oneBlock r = true →
    regionOf s r.addr = some (.page p) →
    clocksOn s = true →
    let q := regOf s r lvl
    (regWaits s q s.fab.stalled = true → exec (.fabricIngress (.new r lvl)) s = .next (stallReq s q)) ∧
    (∀ (t : State) (y : Resp), regWaits s q s.fab.stalled = false → regAccess s q {} = (t, some y) →
      exec (.fabricIngress (.new r lvl)) s = .next (answer t y.err y.data)) ∧
    (regIngress s q = none → credFree s q.attr.did = false → regWaits s q s.fab.stalled = true) ∧
    (regIngress s q = none → credFree s q.attr.did = true → s.fab.stalled = [] → regWaits s q s.fab.stalled = false)

/-- R538, R541, R590: a register access that carries the DID of a gated domain gets an error response with KIND WRONG_OWNER, before its page is asked. -/
def RegisterGated : Prop :=
  ∀ (s : State) (q : RegReq) (p : Page),
    regionOf s q.addr = some (.page p) →
    (q.m = .scu ∨ ∃ n, q.m = .core n) →
    gated s q.attr.did = true →
    regDeny s q = some .wrongOwner

/-- FABRIC_INGRESS (R31, R536): of the register accesses that wait at ingress the first that may enter goes on to the bridge. -/
def IngressWaiting : Prop :=
  ∀ (s : State) (env : MemEnv) (q : RegReq) (l : List RegReq) (t : State) (y : Resp),
    s.fab.stalled = q :: l →
    q.inside = false →
    regWaits s q [] = false →
    regAccess (dropStalled s q) q env = (t, some y) →
    exec (.fabricIngress (.reg env)) s = .next (giveAnswer t q y)

/-- FABRIC_INGRESS and FWR_ACCEPTED (R103, R590): a request that stands first in its queue comes to its ingress; a block that is stopped for a soft reset issues none, but one that already waits for its credit goes on. -/
def IngressPosted : Prop :=
  ∀ (s : State) (id : Nat) (t : Txn),
    txn? s id = some t →
    (t.status = .waitCredit ∨ (t.status = .posted ∧ (slicePage t.req.master).any (blkBusy s) = false)) →
    behindQueued s t = false →
    strStopped s 51 = false →
    exec (.fabricIngress (.posted id)) s = .next (enterFabric s t)

/-- FWR_ACCEPTED (R346, R590): the oldest posted write of the thread comes to its ingress, and enters the fabric with a credit where every check passes. -/
def FwrAccepted : Prop :=
  ∀ (s : State) (e : Fin 512) (th : Fin 4) (t : Txn),
    (s.fab.txns.find? fun u => u.req.master = .engine e && u.purp = .fwr th && (u.status = .posted || u.status = .waitCredit)) = some t →
    txn? s t.id = some t →
    (t.status = .waitCredit ∨ (t.status = .posted ∧ (slicePage t.req.master).any (blkBusy s) = false)) →
    behindQueued s t = false →
    strStopped s 51 = false →
    exec (.fwrAccepted e th) s = .next (enterFabric s t)

/-- FABRIC_INGRESS and FWR_ACCEPTED (R103): a block that is stopped for a soft reset issues none of the requests that it has not issued yet; they stay where they are, and what waits for a credit goes on (log entry 26). -/
def StoppedIssuesNone : Prop :=
  (∀ (s : State) (r : FReq) (lvl : Fin 4),
    oneBlock r = true →
    (∀ p, regionOf s r.addr ≠ some (.page p)) →
    regionOf s r.addr ≠ some .tylPages →
    txn? s s.fab.nextId = none →
    (slicePage r.master).any (blkBusy s) = true →
    exec (.fabricIngress (.new r lvl)) s = .next (postReq s r lvl .plain)) ∧
  (∀ (s : State) (id : Nat) (t : Txn),
    txn? s id = some t →
    t.status = .posted →
    (slicePage t.req.master).any (blkBusy s) = true →
    exec (.fabricIngress (.posted id)) s = .next s) ∧
  ∀ (s : State) (e : Fin 512) (th : Fin 4) (t : Txn),
    (s.fab.txns.find? fun u => u.req.master = .engine e && u.purp = .fwr th && (u.status = .posted || u.status = .waitCredit)) = some t →
    txn? s t.id = some t →
    t.status = .posted →
    (slicePage t.req.master).any (blkBusy s) = true →
    exec (.fwrAccepted e th) s = .next s

/-- ENGINE_WINDOW_READ (R33, R34, R110, R410, R424): a read that its cluster serves, after the accesses of threads due before it, returns the bits of the words it reaches, poisoned where a word is bad. -/
def WindowRead : Prop :=
  ∀ (s : State) (id waited : Nat) (f : Findings) (t : Txn) (k : Fin 32) (packed : Bool) (off : Nat),
    txn? s id = some t →
    t.status = .transit →
    behindSource s t = false →
    regionOf s t.req.addr = some (.window k packed off) →
    t.req.op ≠ .write →
    winDeny (cmSettle (confTicks s k 8 waited) k) k t.attr.did (passesAll t.req.master t.lvl) (winTouched packed off t.req.len (reqTouch t.req)) = none →
    let r := winRead (cmSettle (confTicks s k 8 waited) k) k packed off t.req.len f
    exec (.engineWindowRead id waited f) s = .next (updTxn (answerTxn r.1 id false r.2.2 r.2.1) id fun u => { u with why := 0 })

/-- ENGINE_WINDOW_WRITE (R33 to R37, R110): a write that its cluster serves sets the words it covers whole, and the bits of one packed word of an engine; a word covered in part by another master is left and recorded with KIND PARTIAL_WORD. -/
def WindowWrite : Prop :=
  ∀ (s : State) (id waited : Nat) (f : Findings) (t : Txn) (k : Fin 32) (packed : Bool) (off : Nat),
    txn? s id = some t →
    t.status = .transit →
    behindSource s t = false →
    regionOf s t.req.addr = some (.window k packed off) →
    t.req.op = .write →
    winDeny (cmSettle (confTicks s k 8 waited) k) k t.attr.did (passesAll t.req.master t.lvl) (winTouched packed off t.req.len (reqTouch t.req)) = none →
    let x := winWrite (cmSettle (confTicks s k 8 waited) k) k packed off t.req.len (reqMask t.req) t.req.data t.req.pos.isSome
    exec (.engineWindowWrite id waited f) s = .next (updTxn (answerTxn (if x.2 then ferrLog x.1 t.req.master t.attr t.req.op t.req.addr .partialWord else x.1) id false false 0) id fun u => { u with why := 0 })

/-- FABRIC_COMPLETION (R28, R29): a completion of the present generation leaves the fabric, returns its credit and gives its data to its master. -/
def CompletionPlain : Prop :=
  ∀ (s : State) (id : Nat) (t : Txn),
    clocksOn s = true →
    completion? s id = some (t, true) →
    t.purp = .plain →
    t.req.master = .scu →
    exec (.fabricCompletion id) s = .next (answer (leaveFabric s t) t.err t.rdata)

/-- FABRIC_COMPLETION (R29): a completion of another generation is discarded: its credit returns and it is counted; nothing else happens. -/
def CompletionStale : Prop :=
  ∀ (s : State) (id : Nat) (t : Txn),
    clocksOn s = true →
    completion? s id = some (t, false) →
    t.purp = .plain →
    exec (.fabricCompletion id) s = .next (lateDrop (leaveFabric s t) t)

/-- FABRIC_COMPLETION: the answer to an access that the SCU makes again stands until the SCU takes it (log entry 80). -/
def CompletionKept : Prop :=
  ∀ (s : State) (id : Nat) (t : Txn),
    clocksOn s = true →
    completion? s id = some (t, true) →
    t.purp = .own →
    t.req.master = .scu →
    exec (.fabricCompletion id) s = .next s

/-- FRD_COMPLETION (R346): the word and error bit of a thread's read enter its return queue. -/
def CompletionFrd : Prop :=
  ∀ (s : State) (id : Nat) (t : Txn) (e : Fin 512) (th : Fin 4) (slot : Nat),
    clocksOn s = true →
    completion? s id = some (t, true) →
    t.purp = .frd th slot →
    t.req.master = .engine e →
    exec (.frdCompletion id) s = .next (frdDone (leaveFabric s t) e th t slot)

/-- MOVER_COMPLETION (R417, R418): the completion of a mover's request moves its words on, after the ticks it waited at its cluster's memory are counted. -/
def CompletionMover : Prop :=
  ∀ (s : State) (id waited i n : Nat) (f : Findings) (t : Txn) (m : Fin 256),
    clocksOn s = true →
    completion? s id = some (t, true) →
    t.purp = .mover m i n →
    t.req.master = .mover m →
    exec (.moverCompletion id waited f) s = .next (movDone (confTicks (leaveFabric s t) (movCluster m) (m.val % 8) waited) m i n t f)

/-- R417: the words of a mover's reads are written on the engine side in ascending order: those that came wait while a request for words before
them has not completed, and the first of them are written when none is left. -/
def MoverWords : Prop :=
  ∀ (s : State) (m : Fin 256),
    let u := cmSettle s (movCluster m)
    ((∀ h ∈ (mov s m).held, movBefore s m h.1 = true) → movFlush s m = updMov u m fun r => { r with held := r.held.filter fun h => movBefore s m h.1 }) ∧
    ∀ (i n d : Nat), (mov s m).held = [(i, n, d)] → movBefore s m i = false →
      movFlush s m = (((List.range n).map fun j => ((md s m 0).toNat + i + j, viewWord (mdPacked s m) d j)).foldl (movWriteWord m)
        (updMov u m fun r => { r with held := r.held.filter fun h => movBefore s m h.1 }, false)).1

end Sys2Proof.Claims

open Sys2Proof Sys2Proof.Machine Sys2Proof.Claims in
/-- FABRIC_INGRESS, FWR_ACCEPTED, ENGINE_WINDOW_READ, ENGINE_WINDOW_WRITE, FABRIC_COMPLETION, FRD_COMPLETION and MOVER_COMPLETION. (What waits in a
block that a soft reset stops is log entry 26, the order of a mover's words log entry 59, the answer to an access of the SCU log entry 80.) Completes:
fabricIngress, fabricCompletion, engineWindowRead, engineWindowWrite, frdCompletion, fwrAccepted, moverCompletion. -/
def Obligations.FabricCommands : Prop :=
  IngressNew ∧
  IngressRegister ∧
  RegisterGated ∧
  IngressWaiting ∧
  IngressPosted ∧
  FwrAccepted ∧
  StoppedIssuesNone ∧
  WindowRead ∧
  WindowWrite ∧
  CompletionPlain ∧
  CompletionStale ∧
  CompletionKept ∧
  CompletionFrd ∧
  CompletionMover ∧
  MoverWords

namespace Sys2Proof.Claims

open Sys2Proof.Machine

/-- Both sides of a crossing are out of reset and their clocks run (R94, R96). -/
abbrev SidesUp (s : State) (src dst : Page) : Prop :=
  inReset s src = false ∧ inReset s dst = false ∧ clockRuns s src = true ∧ clockRuns s dst = true

/-- YOYO_EVENT (R90, R91): an event raises what the crossing holds by one; one that finds a round trip in progress and the counter at 255 is lost, with the overflow flag set and crossing to the receiver. Nothing is acted on. The source cycle of a flush has a clause of its own. -/
def YoyoEventCounts : Prop :=
  ∀ (s : State) (src dst : Page) (x : Fin 16),
    SidesUp s src dst →
    let k := yoyoKey src dst x
    let y := yoyoNow s k
    (y.flushed = 0 ∨ y.cyc ≠ srcCycle s k) →
    (y.busy = false → y.count = 0 ∧ y.sync = false) →
    ∃ t, exec (.yoyoEvent src dst x .event) s = .next t ∧
      (∀ j, j ≠ k → SMap.get {} t.yoyos j = SMap.get {} s.yoyos j) ∧ t.regs = s.regs ∧ t.xfifos = s.xfifos ∧
      (SMap.get {} t.yoyos k).acted = y.acted ∧ (SMap.get {} t.yoyos k).busy = true ∧
      (y.busy = true ∧ 255 ≤ y.count → yoyoHeld (SMap.get {} t.yoyos k) = yoyoHeld y ∧ (SMap.get {} t.yoyos k).ovf = true ∧
        (SMap.get {} t.twins (ovfKey k)).src = 1) ∧
      (¬(y.busy = true ∧ 255 ≤ y.count) → yoyoHeld (SMap.get {} t.yoyos k) = yoyoHeld y + 1 ∧ t.twins = s.twins)

/-- YOYO_EVENT in the source cycle of a flush (R96): the event is discarded, and counted in FLUSH of the side that did not reset. -/
def YoyoFlushCycle : Prop :=
  ∀ (s : State) (src dst : Page) (x : Fin 16),
    SidesUp s src dst →
    let k := yoyoKey src dst x
    let y := yoyoNow s k
    y.flushed ≠ 0 →
    y.cyc = srcCycle s k →
    exec (.yoyoEvent src dst x .event) s = .next (countAt s k y.flushed 1)

/-- YOYO_ACK (R90, R91, R95): the end of a round trip lowers what the crossing holds by one and raises what the receiver has acted on by one; the round trip after a flush carries no event and does neither, and the overflow flag crosses from then on. The next counted event launches. -/
def YoyoAckActs : Prop :=
  ∀ (s : State) (src dst : Page) (x : Fin 16),
    SidesUp s src dst →
    xHeld s = false →
    let k := yoyoKey src dst x
    let y := yoyoNow s k
    y.busy = true →
    ∃ t, exec (.yoyoAck src dst x .event) s = .next t ∧
      (∀ j, j ≠ k → SMap.get {} t.yoyos j = SMap.get {} s.yoyos j) ∧ t.regs = s.regs ∧ t.xfifos = s.xfifos ∧
      (y.sync = false → t.twins = s.twins) ∧ (y.sync = true → t.twins = (twinEnd s (ovfKey k)).twins) ∧
      ((SMap.get {} t.yoyos k).busy = true ↔ 0 < y.count) ∧
      (y.sync = false → (SMap.get {} t.yoyos k).acted = y.acted + 1 ∧ yoyoHeld (SMap.get {} t.yoyos k) + 1 = yoyoHeld y) ∧
      (y.sync = true → (SMap.get {} t.yoyos k).acted = y.acted ∧ yoyoHeld (SMap.get {} t.yoyos k) = yoyoHeld y)

/-- YOYO_EVENT of a twin-sampled crossing (R92): a value is presented at once where the one before it has been held for four receiving edges; else the latest value waits, and what came in between is coalesced. -/
def LevelPresents : Prop :=
  ∀ (s : State) (src dst : Page) (x : Fin 16) (v : Nat),
    SidesUp s src dst →
    let k := levelKey (yoyoKey src dst x)
    let w := twinNow s k
    ∃ t, exec (.yoyoEvent src dst x (.level v)) s = .next t ∧
      (SMap.get {} t.twins k).src = v ∧ (SMap.get {} t.twins k).acc = w.acc ∧
      (w.sync = false → 4 ≤ w.held → (SMap.get {} t.twins k).pres = v) ∧
      (w.held < 4 → (SMap.get {} t.twins k).pres = w.pres) ∧
      (∀ j, j ≠ k → SMap.get {} t.twins j = SMap.get {} s.twins j) ∧ t.yoyos = s.yoyos ∧ t.xfifos = s.xfifos ∧ t.regs = s.regs

/-- YOYO_ACK of a twin-sampled crossing (R92, R95): the end of the round trip after a flush, after which the source presents its value again. A crossing that nothing has used since a side of it was reset has that round trip to make. -/
def LevelReturns : Prop :=
  ∀ (s : State) (src dst : Page) (x : Fin 16),
    SidesUp s src dst →
    xHeld s = false →
    let k := levelKey (yoyoKey src dst x)
    let w := twinNow s k
    (w.sync = true → exec (.yoyoAck src dst x .level) s = .next (twinPresent { s with twins := SMap.set {} s.twins k { w with sync := false } } k w.src)) ∧
    (w.sync = false → exec (.yoyoAck src dst x .level) s = .next s)

/-- R92: a receiving edge accepts only a value that it samples as it did at the edge before; a value presented stays for four edges; and six edges bring the source's latest value to the receiver. -/
def TwinEdges : Prop :=
  (∀ w : Twin, (twinEdge w).acc ≠ w.acc → (twinEdge w).acc = w.pres ∧ w.pres = w.samp) ∧
  (∀ w : Twin, w.held < 3 → (twinEdge w).pres = w.pres ∧ (twinEdge w).held = w.held + 1) ∧
  (∀ (w : Twin) (n : Nat), 6 ≤ n → (twinEdges n w).acc = w.src ∧ (twinEdges n w).pres = w.src) ∧
  (∀ (w : Twin) (n : Nat), 12 ≤ n → twinEdges n w = twinEdges 12 w)

/-- YOYO_EVENT of a FIFO (R93): an entry enters while there is room and waits with its source where there is none; nothing is lost and the order stands. -/
def FifoWrites : Prop :=
  ∀ (s : State) (src dst : Page) (x : Fin 16) (v : Nat),
    SidesUp s src dst →
    let k := yoyoKey src dst x
    let f := fifoNow s k
    f.ents.length ≤ fifoDepth k →
    ∃ t, exec (.yoyoEvent src dst x (.entry v)) s = .next t ∧
      (let g := SMap.get {} t.xfifos k;
        g.ents.map Prod.fst ++ g.wait = f.ents.map Prod.fst ++ f.wait ++ [v] ∧ g.ents.length ≤ fifoDepth k ∧
        (f.sync = false → f.due = 0 → f.wait = [] → f.ents.length < fifoDepth k → g.wait = [])) ∧
      (∀ j, j ≠ k → SMap.get {} t.xfifos j = SMap.get {} s.xfifos j) ∧ t.yoyos = s.yoyos ∧ t.twins = s.twins ∧ t.regs = s.regs

/-- YOYO_ACK of a FIFO (R89, R93): two receiving cycles after it was written the oldest entry is read, and an entry that waited enters. -/
def FifoReads : Prop :=
  ∀ (s : State) (src dst : Page) (x : Fin 16) (v edges : Nat) (r : List (Nat × Nat)),
    SidesUp s src dst →
    xHeld s = false →
    let k := yoyoKey src dst x
    let f := fifoNow s k
    f.sync = false →
    f.ents = (v, edges) :: r →
    2 ≤ edges →
    ∃ t, exec (.yoyoAck src dst x .entry) s = .next t ∧ t.fab.resp = { err := false, data := v } ∧
      (let g := SMap.get {} t.xfifos k;
        g.ents.map Prod.fst ++ g.wait = r.map Prod.fst ++ f.wait) ∧
      (∀ j, j ≠ k → SMap.get {} t.xfifos j = SMap.get {} s.xfifos j) ∧ t.yoyos = s.yoyos ∧ t.twins = s.twins ∧ t.regs = s.regs

/-- R92, R94, R96, R553: with the source's clock stopped nothing is given; with either clock, or the fabric, stopped nothing crosses; an event or entry for a side that is held in reset is discarded and counted in FLUSH of its source's page; and a value for such a side is kept, to be presented after the round trip that follows (log entry 37). -/
def CrossingsStopped : Prop :=
  ∀ (s : State) (src dst : Page) (x : Fin 16) (v : XSrc) (c : XDst),
    (clockRuns s src = false → exec (.yoyoEvent src dst x v) s = .next s ∧ exec (.yoyoAck src dst x c) s = .next s) ∧
    (clockRuns s dst = false → exec (.yoyoAck src dst x c) s = .next s) ∧
    (xHeld s = true → exec (.yoyoAck src dst x c) s = .next s) ∧
    (inReset s src = false → clockRuns s src = true → inReset s dst = true →
      ((∀ l, v ≠ .level l) → exec (.yoyoEvent src dst x v) s = .next (countFlush s src 1)) ∧
      ∀ l, exec (.yoyoEvent src dst x (.level l)) s = .next (twinKeep s (levelKey (yoyoKey src dst x)) l))

/-- R95, R96: a flush discards what a Yo-yo and a FIFO hold, and the events of its source cycle that a Yo-yo lost, counts it, saturating, in FLUSH of the side that did not reset (nowhere where both did), and leaves a round trip to be made first, on a crossing that nothing uses as well; the overflow flag of the source outlives a reset of the receiver; while the receiving clock stands a flush waits, and applies when the clock has restarted. -/
def FlushDiscards : Prop :=
  (∀ (s : State) (k due : Nat) (y : Yoyo) (p : Page), flushSide k due = some p →
    let t := flushYoyo s k due y
    yoyoHeld (SMap.get {} t.yoyos k) = 0 ∧ (SMap.get {} t.yoyos k).busy = true ∧ (SMap.get {} t.yoyos k).sync = true ∧
      rdF t p 0x02C 0 16 = min 65535 (rdF s p 0x02C 0 16 + yoyoDrop s k y)) ∧
  (∀ (s : State) (k : Nat) (y : Yoyo), (flushYoyo s k 3 y).regs = s.regs) ∧
  (∀ (s : State) (k due : Nat) (f : Xfifo) (p : Page), flushSide k due = some p →
    let t := flushFifo s k due f
    (SMap.get {} t.xfifos k).ents = [] ∧ (SMap.get {} t.xfifos k).sync = true ∧
      rdF t p 0x02C 0 16 = min 65535 (rdF s p 0x02C 0 16 + f.ents.length)) ∧
  (∀ (s : State) (p src dst : Page) (x : Fin 16) (y : Yoyo), s.yoyos = [(yoyoKey src dst x, y)] → y ≠ {} → p = src ∨ p = dst →
    clockRuns s dst = false →
    let t := flushCrossings s p
    yoyoHeld (SMap.get {} t.yoyos (yoyoKey src dst x)) = yoyoHeld y ∧ (SMap.get {} t.yoyos (yoyoKey src dst x)).due ≠ 0) ∧
  (∀ (s : State) (k : Nat) (y : Yoyo), (SMap.get {} (flushYoyo s k 2 y).yoyos k).ovf = y.ovf) ∧
  (∀ (s : State) (p src dst : Page) (x : Fin 16), s.yoyos = [] → s.resets = [] → p = src ∨ p = dst →
    let t := flushCrossings s p
    let y := yoyoNow t (yoyoKey src dst x)
    y.busy = true ∧ y.sync = true ∧ y.flushed ≠ 0 ∧ y.cyc = srcCycle t (yoyoKey src dst x))

end Sys2Proof.Claims

open Sys2Proof Sys2Proof.Machine Sys2Proof.Claims in
/-- YOYO_EVENT and YOYO_ACK: the three kinds of crossing of R89, and their flushes. What a twin-sampled crossing and a FIFO look like from outside is
the model's choice (log entry 37). Completes: yoyoEvent, yoyoAck. -/
def Obligations.YoyoConservesEvents : Prop :=
  YoyoEventCounts ∧
  YoyoFlushCycle ∧
  YoyoAckActs ∧
  LevelPresents ∧
  LevelReturns ∧
  TwinEdges ∧
  FifoWrites ∧
  FifoReads ∧
  CrossingsStopped ∧
  FlushDiscards

namespace Sys2Proof.Claims

open Sys2Proof.Machine

/-- INCREMENT (R537 to R539): once the domain is drained, every credit it holds moves to OLD_HELD, the GEN of every slice of it increments with the treatment of R538, and CLEANUP starts; a doorbell that this rings can wake a napping cluster (R520). -/
def Increment : Prop :=
  ∀ (s : State) (d : Fin 64),
    d ≠ 0 →
    drained s d = true →
    lapWait s d = false →
    let u := (membersOf s d).foldl renewMember ((slicesOf s d).foldl renewSlice (ageCredits s d))
    exec (.increment d) s = .next (napWake (wrB (setDom (icForgetDomain u d) d 3 4) (.dom d) 0x044 5 false))

/-- INCREMENT (R539): where it would give a slice a generation whose credits are still in OLD_HELD it waits, sets LAP and records LAP_WAIT once. -/
def LapWaits : Prop :=
  ∀ (s : State) (d : Fin 64),
    d ≠ 0 →
    drained s d = true →
    lapWait s d = true →
    rdB s (.dom d) 0x044 5 = false →
    exec (.increment d) s = .next (recInternal (wrB s (.dom d) 0x044 5 true) (.dom d) 0x85 0)

/-- DRAIN_TIMEOUT (R537): what is still in transit is removed where it stands, counted in DROPPED, and DRAIN_DROP is recorded, contained, raised to the domain; a bank of on-chip SRAM that waited for one of them changes its state, the MEM_REQ of a member that one of them served ends in an error, and a mover whose write is among them knows that one of its writes is lost (log entry 73). -/
def DrainTimeout : Prop :=
  ∀ (s : State) (d : Fin 64),
    d ≠ 0 →
    domState s d = 3 →
    domStep s d = 1 →
    inTransit s d ≠ [] →
    let f := fun (t : Txn) => !(decide (t.attr.did = d.val) && decide (t.status = TxStatus.transit))
    let isMem := fun (t : Txn) => match t.purp with
      | .member _ => true
      | _ => false
    let movers := (inTransit s d).filterMap fun t => match t.purp with
      | .mover m _ _ => some (Fin.ofNat 256 m)
      | _ => none
    let w := movers.foldl (fun w m => updMov w m fun r => { r with lost := true }) s
    let v := ((inTransit s d).filter isMem).foldl (fun v t => memberDone v t false) (askedMoves { w with fab := { w.fab with txns := w.fab.txns.filter f } })
    let u := bumpF v (.dom d) 0x064 0 16 (inTransit s d).length
    exec (.drainTimeout d) s = .next (recordErr u (.dom d) 0x84 contained (pageAttr u (.dom d)) (inTransit s d).length d)

/-- RESET_END (R537): the entries of the DID in the TLBs, the walk cache, the predictors and the return stack go from every core, and what trained its prefetchers; the gate opens, STATE becomes STOPPED, resets are counted, LAST_US takes the duration and IRQ_STAT bit 0 of the domain page is set. -/
def ResetEnd : Prop :=
  ∀ (s : State) (d : Fin 64),
    d ≠ 0 →
    domState s d = 3 →
    domStep s d = 4 →
    let u := (List.finRange 24).foldl (fun s n => updCore s n fun c =>
      { c with itlb := c.itlb.filter fun x => decide (x.did ≠ d.val), dtlb := c.dtlb.filter fun x => decide (x.did ≠ d.val),
               tlb := c.tlb.filter fun x => decide (x.did ≠ d.val), walks := c.walks.filter fun x => decide (x.did ≠ d.val),
               preds := c.preds.filter fun x => decide (x.did ≠ d.val), rets := c.rets.filter fun x => decide (x.did ≠ d.val),
               train := c.train.filter fun x => decide (x.attr.did ≠ d.val) }) s
    exec (.resetEnd d) s = .next (setIrq (wrF (bumpF (setDom (setGate u d false) d 1 0) (.dom d) 0x044 8 8 1) (.dom d) 0x044 16 16
      (min 0xFFFF (usUp (u.dt - (SMap.get {} u.doms d).rstStart)))) (.dom d) 1)

end Sys2Proof.Claims

open Sys2Proof Sys2Proof.Machine Sys2Proof.Claims in
/-- INCREMENT, DRAIN_TIMEOUT and RESET_END. Completes: increment, drainTimeout, resetEnd. -/
def Obligations.DomainReset : Prop :=
  Increment ∧
  LapWaits ∧
  DrainTimeout ∧
  ResetEnd

open Sys2Proof Sys2Proof.Machine Sys2Proof.Claims in
/-- R535, R539: credits in HELD move to OLD_HELD. -/
def Obligations.IncrementRenewsGenerations : Prop :=
  ∀ (s : State) (d : Fin 64), Inv s → d ≠ 0 → drained s d = true → lapWait s d = false →
    ∃ t, exec (.increment d) s = .next t ∧ credHeld t d = 0 ∧
      (∀ x ∈ t.fab.txns, x.attr.did = d.val → holdsCredit x = true → x.old = true)

namespace Sys2Proof.Claims

open Sys2Proof.Machine

/-- LANE_PLL_LOCK (R472): once a lane of the quad is claimed, its PLL locks and the claimed lanes of the quad leave electrical idle. -/
def LanePllLock : Prop :=
  ∀ (s : State) (q : Fin 8) (i : Nat),
    clocksOn s = true →
    q.val ∉ s.lanePll →
    i < 4 →
    laneClaimed s (4 * q.val + i) = true →
    exec (.lanePllLock q) s = .next ((List.range 4).foldl (fun s i => if laneClaimed s (4 * q.val + i) then wrB s (lnPage (4 * q.val + i)) 0x044 6 false else s)
      { s with lanePll := q.val :: s.lanePll })

/-- CLOCK_AND_DATA_LOCK (R473): a claimed lane of a locked quad sets LOCK. -/
def DataLock : Prop :=
  ∀ (s : State) (l : Fin 32),
    clocksOn s = true →
    laneClaimed s l = true →
    l.val / 4 ∈ s.lanePll →
    exec (.clockAndDataLock l) s = .next (wrB s (.ln l) 0x044 5 true)

/-- LANE_LOCK_LOSS (R473): LOCK of a claimed lane falls, and IRQ_STAT bit 0 of its page is set. -/
def LockLoss : Prop :=
  ∀ (s : State) (l : Fin 32),
    clocksOn s = true →
    laneClaimed s l = true →
    rdB s (.ln l) 0x044 5 = true →
    exec (.laneLockLoss l) s = .next (setIrq (wrB s (.ln l) 0x044 5 false) (.ln l) 1)

/-- CACHE_LINE_FILL (R241, R252): a prefetch of a line that the cluster does not hold, within a page that trained it and at the level of that access, carries that access's attributes, and brings the line into the L2 and, unless it is poisoned, into the L1 data cache; after an error response, or where the line has to wait for its answer, the L1 is as it was (log entry 87). -/
def LineFill : Prop :=
  ∀ (s : State) (n : Fin 24) (la : Nat) (env : MemEnv) (x : Trained),
    (Machine.core s n).run = .running →
    ((Machine.core s n).train.find? fun t => t.page = la / 64 && t.lvl = level s n) = some x →
    l2Line s (clusterOfCore n) la = none →
    exec (.cacheLineFill n (.prefetch la) env) s = .next (match fillL2 s n x.attr false .read la env with
      | .ok t y _ => if y.poison then t else fillL1 t n false la
      | .err t | .wait t => t)

/-- R241: a prefetch that no access of its level and page has trained does nothing, and one of a line that the L2 holds only fills the L1. -/
def PrefetchBounds : Prop :=
  ∀ (s : State) (n : Fin 24) (la : Nat) (env : MemEnv),
    (Machine.core s n).run = .running →
    ((∀ t ∈ (Machine.core s n).train, t.page ≠ la / 64 ∨ t.lvl ≠ level s n) → exec (.cacheLineFill n (.prefetch la) env) s = .next s) ∧
    (∀ t ∈ (Machine.core s n).train, t.page = la / 64 → t.lvl = level s n → ∀ y, l2Line s (clusterOfCore n) la = some y → y.poison = false →
      exec (.cacheLineFill n (.prefetch la) env) s = .next (fillL1 s n false la))

/-- CACHE_LINE_FILL (R252, R248): a load or a fetch that a running core makes ahead of its command goes through the TLBs and the L1, as its command would; what it meets (R256) is kept for the access that it serves, and so is a walk of a load (log entry 87). -/
def LineFillAhead : Prop :=
  ∀ (s t u : State) (n : Fin 24) (va : Nat) (env : MemEnv) (x : Xlat) (y : L2Line) (m : Bool) (evs : List Nat),
    (Machine.core s n).run = .running →
    x.ty = 2 →
    (translate s n va .read env = .ok t x → l1Line t n false (x.pa / 64) env = (.ok u y m, evs) →
      exec (.cacheLineFill n (.load va) env) s = .next (putServed u n false (va % 2 ^ 64 / 64) ((if x.walked then [0x0C] else []) ++ evs))) ∧
    (translate s n va .fetch env = .ok t x → l1Line t n true (x.pa / 64) env = (.ok u y m, evs) →
      exec (.cacheLineFill n (.fetch va) env) s = .next (putServed u n true (va % 2 ^ 64 / 64) evs))

/-- R252: the snoop filter holds at most 16 lines of a set: a line that enters a full set makes one of the others leave every L2, and a dirty copy of it is written back first. -/
def FilterReplaces : Prop :=
  ∀ (s : State) (n : Fin 24) (la : Nat) (env : MemEnv),
    (envAt env la).filt = false →
    ((la ∈ filterSet s la ∨ (filterSet s la).length < 16) → filterRoom s n la env = .ok s) ∧
    (la ∉ filterSet s la → 16 ≤ (filterSet s la).length → ∀ v, (pickVictim s n (filterSet s la)).1 = some v →
      filterRoom s n la env = (cleanLine (pickVictim s n (filterSet s la)).2 n v env).map fun t => dropLineAll t v)

/-- L2_SCRUB (R251): the scrubber checks a held line: a single-bit error is corrected and recorded, a clean line with an uncorrectable error goes, a dirty one is poisoned and raised to its last writer, and an uncorrectable tag is fatal. -/
def L2Scrub : Prop :=
  ∀ (s : State) (w : Fin 3) (la : Nat) (found : Fin 4) (x : L2Line),
    l2Line s w la = some x →
    exec (.l2Scrub w la found) s = .next (l2Finding s w la x found).1

/-- R251: the four findings on a line of an L2. -/
def L2Outcomes : Prop :=
  ∀ (s : State) (w la : Nat) (x : L2Line),
    (l2Finding s w la x 0).1 = s ∧ (l2Finding s w la x 1).1 = recInternal s (wcPage w) 0x80 (la % 2 ^ 32) ∧
    (x.dirty = false → (l2Finding s w la x 2).1 = recInternal (dropL2 s w la) (wcPage w) 0x81 (la % 2 ^ 32)) ∧
    (x.dirty = true → (l2Finding s w la x 2).1 = recordErr (setL2 s w la { x with poison := true }) (wcPage w) 0x82 contained
      { did := x.writer, gen := genOf s (wcPage w), cls := 1 } (la % 2 ^ 32) x.writer) ∧
    (l2Finding s w la x 3).1 = recFatal s (wcPage w) 0x83 0

end Sys2Proof.Claims

open Sys2Proof Sys2Proof.Machine Sys2Proof.Claims in
/-- LANE_PLL_LOCK, CLOCK_AND_DATA_LOCK, LANE_LOCK_LOSS, CACHE_LINE_FILL and L2_SCRUB. Completes: cacheLineFill, l2Scrub, lanePllLock, laneLockLoss,
clockAndDataLock. -/
def Obligations.LanesAndL2 : Prop :=
  LanePllLock ∧
  DataLock ∧
  LockLoss ∧
  LineFill ∧
  PrefetchBounds ∧
  LineFillAhead ∧
  FilterReplaces ∧
  L2Scrub ∧
  L2Outcomes

namespace Sys2Proof.Claims

open Sys2Proof.Machine

/-- The state in which a cell does what is due in tick `t`, whose row takes device time to `t + more`: everything that the cell does before
that has been done (R444, R465; the order within one tick is log entry 93). -/
abbrev dueState (s : State) (n : Fin 256) (a : CellAct) (t more : Nat) : State := cellTo n (actKey t a) (advanceTo s (t + more))

/-- The head entry of the schedule is due in tick `t`, whose other acts before it leave it there; `late` when its time had passed then. -/
def HeadDue (s : State) (n : Fin 256) (h : SchEnt) (rest : List SchEnt) (t : Nat) (late : Bool) : Prop :=
  clocksOn s = true ∧ (∃ l, (cell s n).schf = h :: l) ∧ (schedTick (cell s n) h).1 = t ∧
  (cell (dueState s n .sched t 1) n).schf = h :: rest ∧ schedTick (cell (dueState s n .sched t 1) n) h = (t, late)

/-- The cell after its head entry has left the schedule in tick `t` (R442, R444). -/
def headTaken (s : State) (n : Fin 256) (rest : List SchEnt) (t : Nat) : State :=
  updCell (dueState s n .sched t 1) n fun c => { c with schf := rest, elig := t + 1 }

/-- The events of an executed entry: SCHX, and SCHE where the schedule is empty now (R443). -/
def headEvents (s : State) (n : Fin 256) (rest : List SchEnt) (t : Nat) : State :=
  let u := cellEvent s n 0x4 t
  if rest = [] then cellEvent u n 0x5 t else u

end Sys2Proof.Claims

namespace Sys2Proof.Claims

open Sys2Proof.Machine

/-- SCH_LOW (R443, R444): the level register goes low, and the land in the tick after. -/
def SchLow : Prop :=
  ∀ (s : State) (n : Fin 256) (h : SchEnt) (rest : List SchEnt) (t : Nat) (land : Bool),
    HeadDue s n h rest t false →
    h.action = 4 * land.toNat →
    exec (.schLow n land) s = .next (headEvents (setLevel (headTaken s n rest t) n land 0 t) n rest t)

/-- SCH_HIGH (R443, R444): the level register goes high, and the land in the tick after. -/
def SchHigh : Prop :=
  ∀ (s : State) (n : Fin 256) (h : SchEnt) (rest : List SchEnt) (t : Nat) (land : Bool),
    HeadDue s n h rest t false →
    h.action = 4 * land.toNat + 1 →
    exec (.schHigh n land) s = .next (headEvents (setLevel (headTaken s n rest t) n land 1 t) n rest t)

/-- SCH_RELEASE (R443): the land is released. -/
def SchRelease : Prop :=
  ∀ (s : State) (n : Fin 256) (h : SchEnt) (rest : List SchEnt) (t : Nat) (land : Bool),
    HeadDue s n h rest t false →
    h.action = 4 * land.toNat + 2 →
    exec (.schRelease n land) s = .next (headEvents (setLevel (headTaken s n rest t) n land 2 t) n rest t)

/-- SCH_TOGGLE (R443): low becomes high, anything else low. -/
def SchToggle : Prop :=
  ∀ (s : State) (n : Fin 256) (h : SchEnt) (rest : List SchEnt) (t : Nat) (land : Bool),
    HeadDue s n h rest t false →
    h.action = 4 * land.toNat + 3 →
    exec (.schToggle n land) s = .next (headEvents (setLevel (headTaken s n rest t) n land 3 t) n rest t)

/-- SCH_START_TX (R443, R449): with TRIG 1 an idle transmitter starts the frame that the queue holds. -/
def SchStartTx : Prop :=
  ∀ (s : State) (n : Fin 256) (h : SchEnt) (rest : List SchEnt) (t : Nat),
    HeadDue s n h rest t false →
    h.action = 8 →
    pcB s n 0x04C 15 = true →
    canTx (headTaken s n rest t) n = true →
    exec (.schStartTx n) s = .next (headEvents (startTx (headTaken s n rest t) n t) n rest t)

/-- SCH_START_REPEAT (R443, R445): the first period starts in the execution tick. -/
def SchStartRepeat : Prop :=
  ∀ (s : State) (n : Fin 256) (h : SchEnt) (rest : List SchEnt) (t : Nat),
    HeadDue s n h rest t false →
    h.action = 9 →
    exec (.schStartRepeat n) s = .next (headEvents (startPeriod (headTaken s n rest t) n t) n rest t)

/-- SCH_STOP_REPEAT (R443, R445): the repeat timer stops, and its output is inactive from the tick after. -/
def SchStopRepeat : Prop :=
  ∀ (s : State) (n : Fin 256) (h : SchEnt) (rest : List SchEnt) (t : Nat),
    HeadDue s n h rest t false →
    h.action = 10 →
    exec (.schStopRepeat n) s = .next (headEvents (stopRepeat (headTaken s n rest t) n t) n rest t)

/-- SCH_MARK (R443): nothing but the event. -/
def SchMark : Prop :=
  ∀ (s : State) (n : Fin 256) (h : SchEnt) (rest : List SchEnt) (t : Nat),
    HeadDue s n h rest t false →
    h.action = 11 →
    exec (.schMark n) s = .next (headEvents (headTaken s n rest t) n rest t)

/-- SCH_MARK, and every action alike (R444, R452): an entry whose time has passed executes in the first tick it can and sets SCH_LATE. -/
def SchedLate : Prop :=
  ∀ (s : State) (n : Fin 256) (h : SchEnt) (rest : List SchEnt) (t : Nat),
    HeadDue s n h rest t true →
    h.action = 11 →
    exec (.schMark n) s = .next (headEvents (cellErr (headTaken s n rest t) n 2 t) n rest t)

/-- R443, R444: an action on a land in tick t is on the land from tick t + 1; until then the land has the level it had, where no older
change was still to come. -/
def LevelDelay : Prop :=
  ∀ (s : State) (n : Fin 256) (land : Bool) (op t : Nat),
    (if land then (cell s n).wasB else (cell s n).wasA) = [] →
    let c := cell (setLevel s n land op t) n
    let old := if land then (cell s n).lvB else (cell s n).lvA
    levelAt c land t = old ∧ levelAt c land (t + 1) = (if op = 3 then (if old = 0 then 1 else 0) else op)

/-- R445: a running repeat timer that stops in tick t is active in that tick as it was, and not in a later one. -/
def RepeatStops : Prop :=
  ∀ (s : State) (n : Fin 256),
    (cell s n).repOn = true →
    (cell s n).repOff = none →
    repActive (stopRepeat s n s.dt) n = repActive s n ∧
    ∀ t, s.dt < t → repActive { stopRepeat s n s.dt with dt := t } n = false

/-- R442, R444, R465: what a cell does comes in its order: the act that is due first of those before a place in its time is done first, and with none due there nothing is done. Within one tick the order is the model's, but for what R465 orders (log entry 93). -/
def DueFirst : Prop :=
  ∀ (s : State) (n : Fin 256) (key k : Nat),
    (nextAct s n key = none → cellTo n key s = s ∧ ∀ a t, actDue s n a = some t → key ≤ actKey t a) ∧
    ∀ a t, nextAct s n key = some (a, t) →
      actDue s n a = some t ∧ actKey t a < key ∧ (∀ b u, actDue s n b = some u → actKey t a ≤ actKey u b) ∧
      cellRun n key (k + 1) s = cellRun n key k (actDo s n t a)

end Sys2Proof.Claims

open Sys2Proof Sys2Proof.Machine Sys2Proof.Claims in
/-- SCH_LOW, SCH_HIGH, SCH_RELEASE, SCH_TOGGLE, SCH_START_TX, SCH_START_REPEAT, SCH_STOP_REPEAT and SCH_MARK. Completes: schLow, schHigh, schRelease,
schToggle, schStartTx, schStartRepeat, schStopRepeat, schMark. -/
def Obligations.CellSchedule : Prop :=
  SchLow ∧
  SchHigh ∧
  SchRelease ∧
  SchToggle ∧
  SchStartTx ∧
  SchStartRepeat ∧
  SchStopRepeat ∧
  SchMark ∧
  SchedLate ∧
  LevelDelay ∧
  RepeatStops ∧
  DueFirst

namespace Sys2Proof.Claims

open Sys2Proof.Machine

/-- The state in which a slot write acts: the cell has done what it does by the present tick (R442, R465; log entry 93). -/
abbrev slotState (s : State) (e : Fin 512) (i : Fin 8) : State := cellTo (slotCell e i) (actKey s.dt .write) s

/-- The state in which a slot read finds its cell: all of the ticks before is done (R465; log entry 93). -/
abbrev slotSeen (s : State) (e : Fin 512) (i : Fin 8) : State := cellAt s (slotCell e i) s.dt

/-- RX_POP (R436): the oldest word of the RX queue is read and leaves it. -/
def RxPop : Prop :=
  ∀ (s : State) (e : Fin 512) (i : Fin 8) (x : Word18) (xs : List Word18) (b : Bool) (rest : List (List Word18 × Bool)),
    engUp s = true →
    cellOwnerOk (slotSeen s e i) e (slotCell e i) = true →
    (cell (slotSeen s e i) (slotCell e i)).rx = (x :: xs, b) :: rest →
    exec (.rxPop e i) s = .next (answer (updCell (slotSeen s e i) (slotCell e i) fun c => { c with rx := if xs = [] then rest else (xs, true) :: rest }) false x.toNat)

/-- RX_POP (R436): an empty RX queue reads zero and stays empty. -/
def RxPopEmpty : Prop :=
  ∀ (s : State) (e : Fin 512) (i : Fin 8),
    engUp s = true →
    cellOwnerOk (slotSeen s e i) e (slotCell e i) = true →
    (cell (slotSeen s e i) (slotCell e i)).rx = [] →
    exec (.rxPop e i) s = .next (answer (slotSeen s e i) false 0)

/-- CAPTURE_POP (R436, R440): the oldest capture entry leaves the FIFO; its stamp's low bits are read and the rest stands in the word-3 latch. -/
def CapturePop : Prop :=
  ∀ (s : State) (e : Fin 512) (i : Fin 8) (x : CapEnt) (rest : List CapEnt),
    engUp s = true →
    cellOwnerOk (slotSeen s e i) e (slotCell e i) = true →
    (cell (slotSeen s e i) (slotCell e i)).capf = x :: rest →
    let lt : Word18 := BitVec.ofNat 18 (x.stamp / 2 ^ 18 % 2 ^ 14 + 2 ^ 14 * x.lost.toNat + 2 ^ 15 + 2 ^ 16 * x.rise.toNat + 2 ^ 17 * x.landB.toNat)
    exec (.capturePop e i) s = .next (answer (updCell (slotSeen s e i) (slotCell e i) fun c => { c with capf := rest, latch := lt }) false (x.stamp % 2 ^ 18))

/-- TX_PUSH (R436): the word enters the TX queue of four. -/
def TxPush : Prop :=
  ∀ (s : State) (e : Fin 512) (i : Fin 8) (v : Word18),
    engUp s = true →
    cellOwnerOk (slotState s e i) e (slotCell e i) = true →
    pcB s (slotCell e i) 0x040 6 = false →
    pcB (slotState s e i) (slotCell e i) 0x040 6 = false →
    (cell (slotState s e i) (slotCell e i)).tx.length < 4 →
    exec (.txPush e i v) s = .next (restartKeep (updCell (slotState s e i) (slotCell e i) fun c => { c with tx := c.tx ++ [v] }) (slotCell e i) s.dt)

/-- DUTY_WRITE (R446): with W1D 1 the word is the duty. -/
def DutyWrite : Prop :=
  ∀ (s : State) (e : Fin 512) (i : Fin 8) (v : Word18),
    engUp s = true →
    cellOwnerOk (slotState s e i) e (slotCell e i) = true →
    pcB s (slotCell e i) 0x040 6 = true →
    pcB (slotState s e i) (slotCell e i) 0x040 6 = true →
    exec (.dutyWrite e i v) s = .next (restartKeep (updCell (slotState s e i) (slotCell e i) fun c => { c with duty := v }) (slotCell e i) s.dt)

/-- SCHEDULE_STAGE (R436): the low bits of a time are staged. -/
def ScheduleStage : Prop :=
  ∀ (s : State) (e : Fin 512) (i : Fin 8) (v : Word18),
    engUp s = true →
    cellOwnerOk (slotState s e i) e (slotCell e i) = true →
    exec (.scheduleStage e i v) s = .next (restartKeep (updCell (slotState s e i) (slotCell e i) fun c => { c with staged := v }) (slotCell e i) s.dt)

/-- SCHEDULE_COMMIT (R442, R444): an entry with the staged time and the action enters the FIFO of 16; it can execute two ticks later where it is the head. -/
def ScheduleCommit : Prop :=
  ∀ (s : State) (e : Fin 512) (i : Fin 8) (v : Word18),
    engUp s = true →
    cellOwnerOk (slotState s e i) e (slotCell e i) = true →
    fld v 14 4 < 12 →
    (cell (slotState s e i) (slotCell e i)).schf.length < 16 →
    exec (.scheduleCommit e i v) s = .next (restartKeep (updCell (slotState s e i) (slotCell e i) fun c => { c with
        elig := if c.schf = [] then s.dt + 2 else c.elig
        schf := c.schf ++ [{ time := c.staged.toNat + fld v 0 14 * 2 ^ 18, action := fld v 14 4 }] }) (slotCell e i) s.dt)

/-- CLR_CAP (R438): the capture FIFO is emptied. -/
def ClrCap : Prop :=
  ∀ (s : State) (e : Fin 512) (i : Fin 8),
    engUp s = true →
    cellOwnerOk (slotState s e i) e (slotCell e i) = true →
    exec (.clrCap e i) s = .next (restartKeep (updCell (slotState s e i) (slotCell e i) fun c => { c with capf := [] }) (slotCell e i) s.dt)

/-- CLR_SCH (R438): the schedule and the staged time are emptied. -/
def ClrSch : Prop :=
  ∀ (s : State) (e : Fin 512) (i : Fin 8),
    engUp s = true →
    cellOwnerOk (slotState s e i) e (slotCell e i) = true →
    exec (.clrSch e i) s = .next (restartKeep (clearSched (slotState s e i) (slotCell e i) s.dt) (slotCell e i) s.dt)

/-- CLR_RX (R438): the RX queue is emptied. -/
def ClrRx : Prop :=
  ∀ (s : State) (e : Fin 512) (i : Fin 8),
    engUp s = true →
    cellOwnerOk (slotState s e i) e (slotCell e i) = true →
    exec (.clrRx e i) s = .next (restartKeep (updCell (slotState s e i) (slotCell e i) fun c => { c with rx := [] }) (slotCell e i) s.dt)

/-- CLR_TX (R438): the TX queue is emptied, with the TXE event where TXRDY rises. -/
def ClrTx : Prop :=
  ∀ (s : State) (e : Fin 512) (i : Fin 8),
    engUp s = true →
    cellOwnerOk (slotState s e i) e (slotCell e i) = true →
    exec (.clrTx e i) s = .next (restartKeep (withTxe (slotCell e i) s.dt (fun s => updCell s (slotCell e i) fun c => { c with tx := [] }) (slotState s e i)) (slotCell e i) s.dt)

/-- ABORT (R438): the frame ends and the shift engine is idle. -/
def CellAbort : Prop :=
  ∀ (s : State) (e : Fin 512) (i : Fin 8),
    engUp s = true →
    cellOwnerOk (slotState s e i) e (slotCell e i) = true →
    exec (.cellAbort e i) s = .next (restartKeep (abortShift (slotState s e i) (slotCell e i) s.dt) (slotCell e i) s.dt)

/-- LEAVE_SAFE (R438, R454): the cell leaves SAFE unless it is forced or held, or its rail is not ON. -/
def LeaveSafeCmd : Prop :=
  ∀ (s : State) (e : Fin 512) (i : Fin 8),
    engUp s = true →
    cellOwnerOk (slotState s e i) e (slotCell e i) = true →
    exec (.leaveSafe e i) s = .next (restartKeep (leaveSafe (slotState s e i) (slotCell e i) s.dt) (slotCell e i) s.dt)

/-- CLR_ERR (R438): every CELL_ERR flag is cleared. -/
def ClrErr : Prop :=
  ∀ (s : State) (e : Fin 512) (i : Fin 8),
    engUp s = true →
    cellOwnerOk (slotState s e i) e (slotCell e i) = true →
    exec (.clrErr e i) s = .next (restartKeep (wrF (slotState s e i) (.pc (slotCell e i)) 0x06C 0 15 0) (slotCell e i) s.dt)

/-- BSET (R438, R447): timing set 0 or 1 from the next bit boundary. -/
def Bset : Prop :=
  ∀ (s : State) (e : Fin 512) (i : Fin 8) (v : Fin 4),
    engUp s = true →
    cellOwnerOk (slotState s e i) e (slotCell e i) = true →
    (v.val = 1 ∨ v.val = 2) →
    exec (.bset e i v) s = .next (restartKeep (switchSet (slotState s e i) (slotCell e i) (v - 1) s.dt) (slotCell e i) s.dt)

/-- STUFFC (R438): stuffing on or off from the next bit sent and the next bit received. -/
def Stuffc : Prop :=
  ∀ (s : State) (e : Fin 512) (i : Fin 8) (v : Fin 4),
    engUp s = true →
    cellOwnerOk (slotState s e i) e (slotCell e i) = true →
    (v.val = 1 ∨ v.val = 2) →
    exec (.stuffc e i v) s = .next (restartKeep (switchStuff (slotState s e i) (slotCell e i) (v.val = 1) s.dt) (slotCell e i) s.dt)

/-- LVA (R438): the level register of land A goes low, high, to release, or toggles, in SAFE too. -/
def Lva : Prop :=
  ∀ (s : State) (e : Fin 512) (i : Fin 8) (v : Fin 8),
    engUp s = true →
    cellOwnerOk (slotState s e i) e (slotCell e i) = true →
    (1 ≤ v.val ∧ v.val ≤ 4) →
    exec (.lva e i v) s = .next (restartKeep (setLevel (slotState s e i) (slotCell e i) false (v - 1) s.dt) (slotCell e i) s.dt)

/-- LVB (R438): the level register of land B goes low, high, to release, or toggles, in SAFE too. -/
def Lvb : Prop :=
  ∀ (s : State) (e : Fin 512) (i : Fin 8) (v : Fin 8),
    engUp s = true →
    cellOwnerOk (slotState s e i) e (slotCell e i) = true →
    (1 ≤ v.val ∧ v.val ≤ 4) →
    exec (.lvb e i v) s = .next (restartKeep (setLevel (slotState s e i) (slotCell e i) true (v - 1) s.dt) (slotCell e i) s.dt)

/-- REP_STOP (R438, R445): the repeat timer stops, and its output is inactive from the tick after. -/
def RepStop : Prop :=
  ∀ (s : State) (e : Fin 512) (i : Fin 8),
    engUp s = true →
    cellOwnerOk (slotState s e i) e (slotCell e i) = true →
    exec (.repStop e i) s = .next (restartKeep (stopRepeat (slotState s e i) (slotCell e i) s.dt) (slotCell e i) s.dt)

/-- R456: an engine whose slice belongs to another domain than the cell records ENG_OWNER, contained, in the cell's page; the read gives zero and the write does nothing else. -/
def SlotOwner : Prop :=
  ∀ (s : State) (e : Fin 512) (i : Fin 8) (v : Word18),
    engUp s = true →
    (cellOwnerOk (slotSeen s e i) e (slotCell e i) = false →
      exec (.rxPop e i) s = .next (answer (cellOwnerErr (slotSeen s e i) e (slotCell e i)) false 0)) ∧
    (cellOwnerOk (slotState s e i) e (slotCell e i) = false →
      exec (.scheduleStage e i v) s = .next (cellOwnerErr (slotState s e i) e (slotCell e i)) ∧
      exec (.clrCap e i) s = .next (cellOwnerErr (slotState s e i) e (slotCell e i)))

end Sys2Proof.Claims

open Sys2Proof Sys2Proof.Machine Sys2Proof.Claims in
/-- RX_POP, CAPTURE_POP, TX_PUSH, DUTY_WRITE, SCHEDULE_STAGE, SCHEDULE_COMMIT and the fields of the CMD word. Completes: rxPop, txPush, dutyWrite,
capturePop, scheduleStage, scheduleCommit, clrCap, clrSch, clrRx, clrTx, cellAbort, leaveSafe, clrErr, bset, stuffc, lva, lvb, repStop. -/
def Obligations.CellSlotWords : Prop :=
  RxPop ∧
  RxPopEmpty ∧
  CapturePop ∧
  TxPush ∧
  DutyWrite ∧
  ScheduleStage ∧
  ScheduleCommit ∧
  ClrCap ∧
  ClrSch ∧
  ClrRx ∧
  ClrTx ∧
  CellAbort ∧
  LeaveSafeCmd ∧
  ClrErr ∧
  Bset ∧
  Stuffc ∧
  Lva ∧
  Lvb ∧
  RepStop ∧
  SlotOwner

namespace Sys2Proof.Claims

open Sys2Proof.Machine

/-- KEEP_TIMEOUT (R453, R465): KEEP of an enabled cell expires: the cell enters SAFE with cause KEEP in the tick of the expiry, which is over by then, so that no PWR of that tick is still to come; the timer does not expire again until it restarts. One that a PWR by that tick has restarted does not expire. -/
def KeepTimeout : Prop :=
  ∀ (s : State) (n : Fin 256) (t : Nat),
    (cellEn s n = true → pcF s n 0x060 0 5 ≠ 0 → (cell s n).keepAt ≠ 0 → (cell s n).due = [] → keepDue s n = some (cell s n).keepAt) ∧
    (clocksOn s = true → keepDue s n = some t →
      let u := dueState s n .keep t 1
      (keepDue u n = some t → exec (.keepTimeout n) s = .next (enterSafe (updCell u n fun c => { c with keepAt := 0 }) n 2 t)) ∧
      (keepDue u n ≠ some t → exec (.keepTimeout n) s = .next u))

/-- R454: a cell that enters SAFE has its FIFOs, queues and staged time emptied, its shift engine and repeat timer stopped, its level
registers at the SAFE levels and the cause recorded, which is FORCED while FORCE_SAFE is set (R430); one in SAFE takes the new cause. -/
def SafeEntry : Prop :=
  ∀ (s : State) (n : Fin 256) (cause t : Nat),
    let c := cell (enterSafe s n cause t) n
    c.safe = true ∧ c.cause = (if forceSafe s n then 4 else cause) ∧
    ((cell s n).safe = false → c.capf = [] ∧ c.schf = [] ∧ c.staged = 0 ∧ c.rx = [] ∧ c.rxIn = [] ∧ c.tx = [] ∧ c.txf = none ∧ c.rxf = none ∧
      c.repOn = false ∧ c.lvA = safeLevel (pcF s n 0x044 28 2) ∧ c.lvB = safeLevel (pcF s n 0x048 28 2))

/-- R454: in SAFE a land of a bank whose rail is ON drives what it took at the entry, whatever is written to the cell's page. -/
def SafeHolds : Prop :=
  ∀ (s : State) (n : Fin 256) (off : Nat) (v : Reg32),
    railOn s n = true →
    (cell s n).safe = true →
    landDrive (wr s (.pc n) off v) n false = (cell s n).safeA ∧ landDrive (wr s (.pc n) off v) n true = (cell s n).safeB

/-- IDLE_TIMEOUT (R453): IRQ_STAT bit 2 and the IDLE event, and the timer restarts; in SAFE too. -/
def IdleTimeout : Prop :=
  ∀ (s : State) (n : Fin 256),
    clocksOn s = true →
    cellEn s n = true →
    pcF s n 0x060 8 5 ≠ 0 →
    let t := (cell s n).idleAt
    let u := dueState s n .idle t 1
    idleDue u n = some t →
    exec (.idleTimeout n) s = .next (restartIdle (cellEvent (setIrq u (.pc n) 4) n 0x7 t) n t)

/-- REPEAT_PERIOD (R445, R446): a period of RP_PER ticks ends and the next starts, with the latest duty. -/
def RepeatPeriod : Prop :=
  ∀ (s : State) (n : Fin 256),
    clocksOn s = true →
    (cell s n).repOn = true →
    pcF s n 0x064 0 24 ≠ 0 →
    let t := (cell s n).repStart + pcF s n 0x064 0 24
    let u := dueState s n .period t 1
    periodDue u n = some t →
    exec (.repeatPeriod n) s = .next (startPeriod u n t)

/-- TX_FRAME_START (R449): with TRIG 0 an idle transmitter starts once the queue holds a whole frame; a frame that has ended by the present tick has left it. -/
def TxStart : Prop :=
  ∀ (s : State) (n : Fin 256),
    clocksOn s = true →
    pcB s n 0x04C 15 = false →
    let u := cellTo n (actKey s.dt .keep) s
    canTx u n = true →
    exec (.txFrameStart n) s = .next (startTx u n s.dt)

/-- TX_FRAME_END (R447, R452): the last bit of the frame ends in the tick before t, TXD occurs in that tick, and the transmitter is idle in tick t; the timing set in use stays that of the last bit. With a clock from outside there is no such tick, and nothing happens, before that clock has come to the end of the last bit; which tick it is then is the model's reading (log entry 61). -/
def TxEnd : Prop :=
  ∀ (s : State) (n : Fin 256) (f : TxFrame),
    clocksOn s = true →
    (cell s n).txf = some f →
    (∀ t, frameEnd s n f = some t →
      let u := dueState s n .txEnd t 0
      txDue u n = some t →
      exec (.txFrameEnd n) s = .next (cellEvent (endFrame u n t) n 0x9 (t - 1))) ∧
    (frameEnd s n f = none → exec (.txFrameEnd n) s = .next s)

/-- R447: bit k of a frame that keeps one timing set starts k times INT ticks and the carries of a 4-bit accumulator after the frame. -/
def BitStarts : Prop :=
  ∀ (s : State) (n : Fin 256) (f : TxFrame) (t x k : Nat),
    f.segs = [{ base := t, set := x }] →
    bitStart s n f k = t + k * setFrac s n x / 16 + k * setInt s n x

/-- CLOCK_STRETCH_LIMIT (R451): in ODC mode, where SCL reads low 2^(STRT + 10) ticks after the frame released it in the middle of a bit, STRETCH is set and the frame ends; where SCL reads high nothing happens. -/
def Stretch : Prop :=
  ∀ (s : State) (n : Fin 256) (f : TxFrame),
    clocksOn s = true →
    cellEn s n = true →
    shMode s n = 7 →
    pcF s n 0x04C 28 4 ≠ 0 →
    (cell s n).txf = some f →
    (lastSeg f).bit < f.bits.length →
    let t := (lastSeg f).base + bitTicks s n f (lastSeg f).bit / 2 + 2 ^ (pcF s n 0x04C 28 4 + 10)
    let u := dueState s n .stretch t 1
    (landLevel s n true = false → stretchDue u n = some t →
      exec (.clockStretchLimit n) s = .next (cellErr (abortShift u n t) n 12 t)) ∧
    (landLevel s n true = true → exec (.clockStretchLimit n) s = .next s)

/-- RX_FRAME_START (R447, R450): an idle receiver of an enabled cell that is not SAFE starts a frame in RAW, UART, STUFF, MANCH and SENT in the tick of an accepted falling edge of land B, with the timing set selected last; a receiver that is not idle, and one without that edge, starts none. -/
def RxStart : Prop :=
  ∀ (s : State) (n : Fin 256),
    let u := cellTo n (actKey s.dt .txEnd) s
    clocksOn u = true →
    cellEn u n = true →
    (cell u n).safe = false →
    shMode s n < 5 →
    shMode u n < 5 →
    ((cell u n).rxf = none → edgeNow u n = true → landLevel u n true = false →
      exec (.rxFrameStart n) s = .next (updCell u n fun c => { c with rxf := some (rxBegin u n s.dt) })) ∧
    (((cell u n).rxf ≠ none ∨ edgeNow u n = false ∨ landLevel u n true = true) → exec (.rxFrameStart n) s = .next s)

/-- RX_FRAME_START (R450, R451): in SYNC_C the receiver is in step with the frame that a paired cell sends, from its start. -/
def RxStartSync : Prop :=
  ∀ (s : State) (n : Fin 256) (f : TxFrame),
    let u := cellTo n (actKey s.dt .txEnd) s
    clocksOn u = true →
    cellEn u n = true →
    (cell u n).safe = false →
    shMode s n = 5 →
    shMode u n = 5 →
    (cell u n).rxf = none →
    (cell u n).txf = some f →
    pcB u n 0x040 7 = true →
    exec (.rxFrameStart n) s = .next (updCell u n fun c => { c with rxf := some (rxBegin u n f.start) })

/-- R447, R451: the sample of bit j of a frame in RAW, UART and STUFF comes SMP ticks after the bit starts, in SYNC_C in its middle. -/
def SamplePoint : Prop :=
  ∀ (s : State) (n : Fin 256) (r : RxFrame),
    let j := r.fr.bits.length
    (shMode s n < 3 → rxNext s n r = some (bitStart s n r.fr j + setSmp s n (segOf r.fr j).set)) ∧
    (shMode s n = 5 → rxNext s n r = some (bitStart s n r.fr j + bitTicks s n r.fr j / 2))

/-- RX_FRAME_COMPLETE (R447, R450): with one sample left the frame is complete with it, in the tick of that sample; with more they are taken one after the other, each in its tick. -/
def RxComplete : Prop :=
  ∀ (s : State) (n : Fin 256) (r : RxFrame) (x : Nat),
    let u := cellAt s n s.dt
    clocksOn s = true →
    cellEn s n = true →
    shMode s n ≠ 4 →
    (cell u n).safe = false →
    (cell u n).rxf = some r →
    rxNext u n r = some x →
    let v := advanceTo u x
    let w := dueState v n .sample x 0
    clocksOn v = true →
    rxDue v n = some x →
    rxDue w n = some x →
    exec (.rxFrameComplete n) s = .next (if rxFull u n { r with fr := { r.fr with bits := r.fr.bits ++ [rxLand u n] } } then takeSample w n x
      else rxFinish n 79 (takeSample w n x))

/-- R450, R451: a sample of RAW or SYNC is one more bit of the frame, and the last one makes it complete; a start bit of UART that samples
high is discarded. -/
def RxSampled : Prop :=
  ∀ (s : State) (n : Fin 256) (r : RxFrame) (t : Nat),
    (cell s n).rxf = some r →
    let r' := { r with fr := { r.fr with bits := r.fr.bits ++ [rxLand s n] }, next := none }
    ((shMode s n = 0 ∨ shMode s n = 5 ∨ shMode s n = 6) →
      takeSample s n t = if rxFull s n r' then rxDone s n { r' with mark := r.mark } t else updCell s n fun c => { c with rxf := some { r' with mark := r.mark } }) ∧
    (shMode s n = 1 → r.fr.bits = [] → rxLand s n = true → takeSample s n t = updCell s n fun c => { c with rxf := none })

/-- R450: the words of a whole frame, in UART and the SYNC modes, are on their way with its last sample and the receiver is idle; in the tick after they enter the RX queue while it has room, and RXF occurs; without room the frame is dropped with RX_OVF. -/
def RxStored : Prop :=
  (∀ (s : State) (n : Fin 256) (r : RxFrame) (t : Nat),
    (shMode s n = 1 ∨ shMode s n = 5 ∨ shMode s n = 6) →
    let o := rxDecode s n r (freeVal 64 s).1
    rxDone s n r t = updCell s n fun c => { c with rxf := none, bset := (segOf r.fr (r.fr.bits.length - 1)).set,
                                                   rxIn := c.rxIn ++ [{ tick := t + 1, ws := rxWords s n o, errs := o.errs }] }) ∧
  ∀ (s : State) (n : Fin 256) (x : RxIn) (rest : List RxIn) (t : Nat),
    (cell s n).rxIn = x :: rest →
    x.errs = [] →
    let u := updCell s n fun c => { c with rxIn := rest }
    actDue s n .rxIn = some x.tick ∧
    actDo s n t .rxIn = if ((cell s n).rx.map fun f => f.1.length).sum + x.ws.length ≤ 4 then
        cellEvent (updCell u n fun c => { c with rx := c.rx ++ [(x.ws, false)] }) n 0x2 x.tick
      else cellErr u n 6 x.tick

/-- RX_FRAME_COMPLETE (R450, R451): in SENT a frame ends with the next falling edge of land B. -/
def RxSent : Prop :=
  ∀ (s : State) (n : Fin 256) (r : RxFrame),
    let u := cellAt s n s.dt
    clocksOn s = true →
    cellEn s n = true →
    shMode s n = 4 →
    (cell u n).safe = false →
    (cell u n).rxf = some r →
    edgeNow u n = true →
    landLevel u n true = false →
    r.fr.start < s.dt →
    exec (.rxFrameComplete n) s = .next (sentDone u n r)

/-- LAND_EDGE (R434, R440): a new accepted level of land A of the selected polarity restarts IDLE and is on its way to the capture FIFO, to be stored in the next tick with the stamp of its edge tick; the cell and its partner have done first what comes before. -/
def LandEdge : Prop :=
  ∀ (s : State) (n : Fin 256) (level : Bool),
    clocksOn s = true →
    (cell s n).accA ≠ level →
    (∀ x ∈ (cell s n).edgA, x + pcF s n 0x044 20 8 < s.dt) →
    let p := cellTo n (actKey s.dt .txEnd) s
    let q := cellAt p (partner n) p.dt
    let w := updCell q n fun c => { c with accA := level, edgA := some q.dt }
    (cellEn w n = false → exec (.landEdge n false level) s = .next w) ∧
    (cellEn w n = true →
      let u := restartIdle w n w.dt
      pcF u n 0x040 16 2 = 3 →
      exec (.landEdge n false level) s = .next (updCell u n fun c => { c with
        capIn := c.capIn ++ [(u.dt + 1, { stamp := (u.dt - pcF u n 0x044 20 8) % 2 ^ 32, lost := false, rise := level != pcB s n 0x044 30, landB := false })] }))

/-- LAND_EDGE (R434): a level that has not been sampled in FILT + 1 consecutive ticks since the last accepted edge is ignored. -/
def LandFilter : Prop :=
  ∀ (s : State) (n : Fin 256) (land level : Bool) (x : Nat),
    lastEdge (cell s n) land = some x →
    s.dt ≤ x + pcF s n (landCfg land) 20 8 →
    exec (.landEdge n land level) s = .next s

/-- R440, R441: of the edges on their way the one of the earliest tick is stored first, of one tick that of land A; a stored edge takes the lost flag with it and CAP occurs in the tick of the store, and a full FIFO loses the edge, counted, with CAP_OVF. -/
def LandOrder : Prop :=
  ∀ (s : State) (n : Fin 256) (x : Nat × CapEnt),
    capHead (cell s n) = some x →
    x ∈ (cell s n).capIn ∧
    (∀ y ∈ (cell s n).capIn, x.1 < y.1 ∨ (x.1 = y.1 ∧ (x.2.landB = true → y.2.landB = true))) ∧
    actDue s n .capture = some x.1 ∧
    let u := updCell s n fun c => { c with capIn := c.capIn.erase x }
    ∀ t, actDo s n t .capture = if (cell s n).capf.length < 16 then
        cellEvent (updCell u n fun c => { c with capf := c.capf ++ [{ x.2 with lost := c.lost }], lost := false }) n 0x1 x.1
      else cellErr (updCell (bumpF u (.pc n) 0x070 0 16 1) n fun c => { c with lost := true }) n 0 x.1

end Sys2Proof.Claims

open Sys2Proof Sys2Proof.Machine Sys2Proof.Claims in
/-- KEEP_TIMEOUT, IDLE_TIMEOUT, REPEAT_PERIOD, TX_FRAME_START, TX_FRAME_END, CLOCK_STRETCH_LIMIT, RX_FRAME_START, RX_FRAME_COMPLETE and LAND_EDGE.
Completes: landEdge, repeatPeriod, txFrameStart, txFrameEnd, rxFrameStart, rxFrameComplete, idleTimeout, keepTimeout, clockStretchLimit. -/
def Obligations.CellEvents : Prop :=
  KeepTimeout ∧
  SafeEntry ∧
  SafeHolds ∧
  IdleTimeout ∧
  RepeatPeriod ∧
  TxStart ∧
  TxEnd ∧
  BitStarts ∧
  Stretch ∧
  RxStart ∧
  RxStartSync ∧
  SamplePoint ∧
  RxComplete ∧
  RxSampled ∧
  RxStored ∧
  RxSent ∧
  LandEdge ∧
  LandFilter ∧
  LandOrder

namespace Sys2Proof.Claims

open Sys2Proof.Machine

/-- VIN_IIN_SAMPLE (R56, R57): two valid samples enter the filters of eight, the counts of invalid ones start again, and the filtered VIN selects its window; no wake event where the window is not entered into LOW. -/
def VinSample : Prop :=
  ∀ (s : State) (vin iin : Int) (same : Bool),
    (0 ≤ vin ∧ vin ≤ 30000) →
    (-5000 ≤ iin ∧ iin ≤ 60000) →
    stageOn s = true →
    (vinIinSample vin iin same s).pwr.win ≠ 2 →
    exec (.vinIinSample vin iin same) s = .next (enterWindow { s with pwr := { s.pwr with
      vinS := (vin :: s.pwr.vinS).take 8, iinS := (iin :: s.pwr.iinS).take 8, badV := 0, badI := 0, lost := false } }
      (windowOf (meanI ((vin :: s.pwr.vinS).take 8))) same)

/-- R57: the windows by filtered VIN in mV, at their boundaries. -/
def VinWindows : Prop :=
  ∀ (v : Int),
    (18500 < v → windowOf v = 4) ∧ (18000 < v → v ≤ 18500 → windowOf v = 1) ∧ (6100 ≤ v → v ≤ 18000 → windowOf v = 0) ∧
    (4500 ≤ v → v < 6100 → windowOf v = 2) ∧ (4200 ≤ v → v < 4500 → windowOf v = 3) ∧ (v < 4200 → windowOf v = 5)

/-- HIGH_TRIP_RESTART (R57): VIN has stayed at or below 18.0 V, and nothing keeps the restart back. -/
def HighTripRestart : Prop :=
  ∀ (s : State),
    s.pwr.trip = true →
    stageOn s = true →
    meanI s.pwr.vinS ≤ 18000 →
    exec .highTripRestart s = .next { s with pwr := { s.pwr with trip := false } }

/-- DIP_TIMEOUT (R57, R59, R98): 5 ms in DIP are a brown-out: the rails go off with cause 0x2, also while the sequence of an earlier cause runs. -/
def DipTimeout : Prop :=
  ∀ (s : State) (same : Bool),
    s.pwr.win = 3 →
    stageOn s = true →
    s.pwr.vaon = true →
    s.pwr.rail ≠ .dead →
    exec (.dipTimeout same) s = .next (railsOff s 2 0 same .off)

/-- INPUT_OVERCURRENT (R60, R98): filtered IIN above 44 A for 100 µs switches the rails off with cause 0x4, also while the sequence of an earlier cause runs. -/
def Overcurrent : Prop :=
  ∀ (s : State) (same : Bool),
    44000 < meanI s.pwr.iinS →
    stageOn s = true →
    s.pwr.vaon = true →
    s.pwr.rail ≠ .dead →
    exec (.inputOvercurrent same) s = .next (railsOff s 4 0 same .off)

/-- R98: RST_CAUSE after a cause: alone it enters CAUSE, the one before moves to PREV, and COUNT counts; recognised in the always-on cycle of the cause recorded last, MULTI is set and the cause of the higher priority stands. -/
def CauseRecord : Prop :=
  ∀ (s : State) (cause rail : Nat) (same : Bool),
    cause < 10 →
    let o := rd s .ckrs 0x050
    let v := rd (moduleReset s cause rail same) .ckrs 0x050
    (same = false → fld v 0 4 = cause ∧ fld v 4 4 = fld o 0 4 ∧ fld v 8 5 = (if cause = 5 then rail % 32 else 0) ∧ bit v 13 = false ∧
      fld v 16 8 = min 255 (fld o 16 8 + 1)) ∧
    (same = true → bit v 13 = true ∧ fld v 4 4 = fld o 4 4 ∧ fld v 16 8 = fld o 16 8 ∧
      fld v 0 4 = if causePrio cause < causePrio (fld o 0 4) then cause else fld o 0 4)

/-- RAIL_START (R58): from powered down, with filtered VIN between 5.0 and 18.0 V and nothing that keeps it back, the rails start. -/
def RailStart : Prop :=
  ∀ (s : State),
    s.pwr.rail = .off →
    s.pwr.vaon = true →
    s.pwr.trip = false →
    s.pwr.back = 0 →
    s.mari.asleep = 0 →
    (5000 ≤ meanI s.pwr.vinS ∧ meanI s.pwr.vinS ≤ 18000) →
    exec .railStart s = .next { s with pwr := { s.pwr with rail := .starting, acked := [], level := [] } }

/-- RAIL_START_TIMEOUT (R65): the first two failed starts are tried again after 100 ms. -/
def RailTimeout : Prop :=
  ∀ (s : State) (rail : Fin 8) (same : Bool),
    s.pwr.rail = .starting →
    rail ≠ 5 →
    s.pwr.fails < 2 →
    exec (.railStartTimeout rail same) s = .next { s with pwr := { s.pwr with rail := .retry, fails := s.pwr.fails + 1 } }

/-- RAIL_START_TIMEOUT (R65): after the third the rails stay off, with cause 0x5 and the failing rail recorded. -/
def RailTimeoutThird : Prop :=
  ∀ (s : State) (rail : Fin 8) (same : Bool),
    s.pwr.rail = .starting →
    rail ≠ 5 →
    s.pwr.fails = 2 →
    let t := railsOff s 5 rail same .dead
    exec (.railStartTimeout rail same) s = .next { t with pwr := { t.pwr with fails := 3 } }

/-- R65, R98: a third start that fails in the always-on cycle of a cause that has just taken the rails off is recorded with it, and the
other way round a cause that takes the rails off in the cycle of that failure is recorded with it: MULTI is set, and the rails stay off. -/
def RailTimeoutMulti : Prop :=
  ∀ (s : State) (rail : Fin 8),
    rail ≠ 5 →
    s.pwr.fails = 2 →
    (s.pwr.rail = .off → s.pwr.live.contains 5 = true →
      let t := railsOff s 5 rail true .dead
      exec (.railStartTimeout rail true) s = .next { t with pwr := { t.pwr with fails := 3 } }) ∧
    (s.pwr.rail = .dead → s.pwr.vaon = true → stageOn s = true →
      (s.pwr.win = 3 → exec (.dipTimeout true) s = .next (railsOff s 2 0 true .dead)) ∧
      (44000 < meanI s.pwr.iinS → exec (.inputOvercurrent true) s = .next (railsOff s 4 0 true .dead)))

/-- RAIL_START_RETRY (R58, R65): with VIN in its range and nothing that keeps them back, the start is made again; with VIN out of it it is not. -/
def RailRetry : Prop :=
  ∀ (s : State),
    s.pwr.rail = .retry →
    (s.pwr.vaon = true → s.pwr.trip = false → s.pwr.back = 0 → s.mari.asleep = 0 → (5000 ≤ meanI s.pwr.vinS ∧ meanI s.pwr.vinS ≤ 18000) →
      exec .railStartRetry s = .next { s with pwr := { s.pwr with rail := .starting } }) ∧
    (meanI s.pwr.vinS < 5000 ∨ 18000 < meanI s.pwr.vinS → exec .railStartRetry s = .next s)

/-- VAON_START (R59): VAON and V33_AON start when VIN first exceeds 4.0 V. -/
def VaonStart : Prop :=
  ∀ (s : State),
    s.pwr.vaon = false →
    4000 < meanI s.pwr.vinS →
    exec .vaonStart s = .next { s with pwr := { s.pwr with vaon := true } }

/-- VAON_LOSS (R59, R548): below 3.0 V, which in OFF nothing measures, the reset record is lost and the next start is a cold power-on. -/
def VaonLoss : Prop :=
  ∀ (s : State),
    s.pwr.vaon = true →
    (stageOn s = true → meanI s.pwr.vinS < 3000) →
    exec .vaonLoss s = .next (coldState s)

/-- THROTTLE_STEP (R76): in THROTTLE the thermal ceiling falls one point, to P2 at the lowest, and every cluster moves toward its point. -/
def ThrottleStep : Prop :=
  ∀ (s : State),
    clocksOn s = true →
    rdF s .supv 0x048 20 2 = 2 →
    s.pwr.thrCeil < 2 →
    exec .throttleStep s = .next (applyPoints { s with pwr := { s.pwr with thrCeil := s.pwr.thrCeil + 1 } })

/-- THROTTLE_STEP (R76): after it the ceiling rises one point. -/
def ThrottleRise : Prop :=
  ∀ (s : State),
    clocksOn s = true →
    rdF s .supv 0x048 20 2 ≠ 2 →
    0 < s.pwr.thrCeil →
    exec .throttleStep s = .next (applyPoints { s with pwr := { s.pwr with thrCeil := s.pwr.thrCeil - 1 } })

/-- THERMAL_SAMPLE (R75 to R77): twenty readings are taken in; no wake event where the thermal state does not leave NORMAL. -/
def ThermalSample : Prop :=
  ∀ (s : State) (l : List Int) (same : Bool),
    rdF (thermalSample l same s) .supv 0x048 20 2 = 0 →
    exec (.thermalSample l same) s = .next (thermalSample l same s)

/-- R76: NORMAL, WARN and THROTTLE with their hysteresis. -/
def ThermalStates : Prop :=
  ∀ (old : Nat) (t : Int),
    old ≤ 2 →
    (115 ≤ t → thermNext old t = 2) ∧ (105 ≤ t → t < 110 → thermNext old t = 1) ∧ (110 ≤ t → t < 115 → thermNext old t = if old = 2 then 2 else 1) ∧
    (100 ≤ t → t < 105 → thermNext old t = if old = 0 then 0 else 1) ∧ (t < 100 → thermNext old t = 0)

/-- R76, R591: with every reading valid and below 125 °C, THERM_WARN is recorded exactly where the thermal state enters WARN. -/
def WarnRecorded : Prop :=
  ∀ (s : State) (l : List Int) (same : Bool),
    s.pwr.die = true →
    l.length = 20 →
    (∀ x ∈ l, -55 ≤ x ∧ x < 125) →
    let t := thermalSample l same s
    rdF t .supv 0x02C 16 16 = if rdF s .supv 0x048 20 2 ≠ 1 ∧ rdF t .supv 0x048 20 2 = 1 then min 65535 (rdF s .supv 0x02C 16 16 + 1)
      else rdF s .supv 0x02C 16 16

/-- POWER_LIMIT_EVAL (R61): while input power is within its limit and not below nine tenths of it, only the counts start again. -/
def PowerLimit : Prop :=
  ∀ (s : State),
    clocksOn s = true →
    pinUnits s ≤ pLim s →
    9 * pLim s ≤ 10 * pinUnits s →
    exec .powerLimitEval s = .next { s with pwr := { s.pwr with overCnt := 0, hiCnt := 0, loCnt := 0 } }

/-- POWER_LIMIT_EVAL (R61): at the second evaluation above the limit the cluster with the highest ceiling is lowered one point. -/
def PowerLimitLower : Prop :=
  ∀ (s : State) (w : Nat),
    clocksOn s = true →
    pLim s < pinUnits s →
    s.pwr.overCnt = 1 →
    lowerPick s = some w →
    s.pwr.hiCnt = 0 →
    lowerPick (setCeil { s with pwr := { s.pwr with overCnt := 0 } } w (SMap.get 0 s.pwr.supCeil w + 1)) ≠ none →
    let t := setCeil { s with pwr := { s.pwr with overCnt := 0 } } w (SMap.get 0 s.pwr.supCeil w + 1)
    exec .powerLimitEval s = .next { t with pwr := { t.pwr with hiCnt := 0, loCnt := 0 } }

/-- R62: whatever a change of ceilings, of requests, or the end of a request brings, no cluster out of NAP runs above the lower of its request and its ceiling. -/
def PointsFollow : Prop :=
  ∀ (s : State) (q : VrReq) (res v w : Nat),
    (∀ k, SMap.get 0 s.pwr.supCeil k ≤ 2) →
    s.pwr.thrCeil ≤ 2 →
    w < 3 →
    rdB s .mari 0x044 (20 + w) = false →
    wantPoint (applyPoints s) w ≤ curPoint (applyPoints s) w ∧ wantPoint (vrEnd s q res v) w ≤ curPoint (vrEnd s q res v) w

/-- R63: the supply limit acts on the Winovar clusters alone: an evaluation changes no rail but theirs, no register outside SUPV and CKRS, and no state of the engine clusters, the cells, the caches or the memories. -/
def LimitActsOnCores : Prop :=
  ∀ (s : State), ∃ t, exec .powerLimitEval s = .next t ∧
    (∀ r, (r < 2 ∨ 5 ≤ r) → SMap.getF railReset t.pwr.level r = SMap.getF railReset s.pwr.level r ∧ ackedLevel t r = ackedLevel s r) ∧
    (∀ p off, off < 0x1000 → p ≠ .supv → p ≠ .ckrs → rd t p off = rd s p off) ∧
    t.pwr.thrCeil = s.pwr.thrCeil ∧ t.engines = s.engines ∧ t.clusters = s.clusters ∧ t.movers = s.movers ∧ t.cells = s.cells ∧ t.cores = s.cores ∧
    t.l2s = s.l2s ∧ t.sc = s.sc ∧ t.dram = s.dram ∧ t.sram = s.sram ∧ t.fab = s.fab

end Sys2Proof.Claims

open Sys2Proof Sys2Proof.Machine Sys2Proof.Claims in
/-- The supply commands: VIN_IIN_SAMPLE, HIGH_TRIP_RESTART, DIP_TIMEOUT, INPUT_OVERCURRENT, RAIL_START, RAIL_START_TIMEOUT, RAIL_START_RETRY,
VAON_START, VAON_LOSS, THERMAL_SAMPLE, THROTTLE_STEP, POWER_LIMIT_EVAL. Completes: vinIinSample, highTripRestart, dipTimeout, railStart,
railStartTimeout, railStartRetry, vaonStart, vaonLoss, inputOvercurrent, powerLimitEval, thermalSample, throttleStep. -/
def Obligations.SupplyEvents : Prop :=
  VinSample ∧
  VinWindows ∧
  HighTripRestart ∧
  DipTimeout ∧
  Overcurrent ∧
  CauseRecord ∧
  RailStart ∧
  RailTimeout ∧
  RailTimeoutThird ∧
  RailTimeoutMulti ∧
  RailRetry ∧
  VaonStart ∧
  VaonLoss ∧
  ThrottleStep ∧
  ThrottleRise ∧
  ThermalSample ∧
  ThermalStates ∧
  WarnRecorded ∧
  PowerLimit ∧
  PowerLimitLower ∧
  PointsFollow ∧
  LimitActsOnCores

namespace Sys2Proof.Claims

open Sys2Proof.Machine

/-- VR_SET, VR_ENABLE, VR_DISABLE, VR_READ, VR_ABORT (R69, R71): with no request outstanding the request goes out with the next SEQ; the power stage moves the rail unless it refuses. -/
def VrSend : Prop :=
  ∀ (s : State) (rail : Fin 32) (value : Fin 1024),
    clocksOn s = true →
    s.pwr.vr = none →
    exec (.vrSet rail value) s = .next (vrLaunch s { typ := 1, rail := rail, value := value }) ∧
    exec (.vrEnable rail value) s = .next (vrLaunch s { typ := 2, rail := rail, value := value }) ∧
    exec (.vrDisable rail value) s = .next (vrLaunch s { typ := 3, rail := rail, value := value }) ∧
    exec (.vrRead rail) s = .next (vrLaunch s { typ := 4, rail := rail, value := 0 }) ∧
    exec (.vrAbort rail) s = .next (vrLaunch s { typ := 5, rail := rail, value := 0 })

/-- R71: one request is outstanding at a time; a further one waits its turn. -/
def VrWaits : Prop :=
  ∀ (s : State) (rail : Fin 32) (value : Fin 1024) (q : VrReq),
    clocksOn s = true →
    s.pwr.vr = some q →
    exec (.vrSet rail value) s = .next { s with pwr := { s.pwr with vrq := s.pwr.vrq ++ [{ typ := 1, rail := rail, value := value }] } }

/-- R68: a frame reads back its TYPE, RAIL, VALUE and SEQ and carries the CRC-8 of bits 31:8, and a request goes out as such a frame. -/
def VrFrames : Prop :=
  (∀ typ rail value seq : Nat, typ < 16 → rail < 32 → value < 1024 → seq < 32 →
    let f := vrFrame typ rail value seq
    vrOk f = true ∧ fld f 28 4 = typ ∧ fld f 23 5 = rail ∧ fld f 13 10 = value ∧ fld f 8 5 = seq) ∧
  (∀ (s : State) (q : VrReq), ∃ r, (vrLaunch s q).pwr.vr = some r ∧ r.frame = vrFrame q.typ q.rail q.value s.pwr.vrSeq ∧ r.seq = s.pwr.vrSeq ∧
    (vrLaunch s q).pwr.vrSeq = (s.pwr.vrSeq + 1) % 32)

/-- R70, R290: the values that each rail takes; those of SOC beside its start value, and of the DRAM group, are log entry 49. -/
def VrRanges : Prop :=
  ∀ v : Nat,
    (vrRefuse 1 5 v = 0 ↔ v = 180) ∧ (vrRefuse 1 0 v = 0 ↔ v = 160 ∨ v = 120) ∧ (vrRefuse 1 1 v = 0 ↔ v = 160) ∧
    (∀ r, 2 ≤ r → r < 5 → (vrRefuse 1 r v = 0 ↔ 120 ≤ v ∧ v ≤ 190)) ∧ (vrRefuse 1 6 v = 0 ↔ v = 360) ∧ (vrRefuse 1 7 v = 0 ↔ v = 170) ∧
    (∀ r, 8 ≤ r → r < 16 → vrRefuse 1 r v = 2) ∧ (∀ r, 16 ≤ r → r < 32 → (vrRefuse 1 r v = 0 ↔ v = 0 ∨ v = 360 ∨ v = 660 ∨ v = 1000)) ∧
    (∀ t r, (t = 0 ∨ 6 ≤ t) → vrRefuse t r v = 3)

/-- R68, R69: a frame whose CRC fails does nothing; a type from 0xB on is discarded and counted, and one of a request is discarded. -/
def VrBadFrames : Prop :=
  ∀ (s : State) (f : BitVec 32) (n : Nat),
    (vrOk f = false → exec (.vrAck f n) s = .next s ∧ exec (.vrNak f n) s = .next s ∧ exec (.vrTelemetry f) s = .next s) ∧
    (s.pwr.die = true → vrOk f = true → 11 ≤ fld f 28 4 → exec (.vrAck f n) s = .next { s with pwr := { s.pwr with vrBad := s.pwr.vrBad + 1 } }) ∧
    (fld f 28 4 < 8 → exec (.vrAck f n) s = .next s)

/-- VR_ACK (R71): the ACK of the outstanding request acknowledges the level asked for, and the next request goes out; the level reported to a READ, the present one, is its answer. -/
def VrAckEnds : Prop :=
  ∀ (s : State) (f : BitVec 32) (n : Nat) (q : VrReq),
    s.pwr.die = true →
    vrOk f = true →
    fld f 28 4 = 8 →
    s.pwr.vr = some q →
    q.seq = fld f 8 5 →
    q.bad = 0 →
    fld f 13 10 = ackValue s q →
    q.why ≠ .mari →
    (q.typ ≠ 4 → exec (.vrAck f n) s = .next (vrEnd s q 1 (fld f 13 10))) ∧
    (q.typ = 4 → exec (.vrAck f n) s = .next (vrEnd (answer s false (fld f 13 10)) q 1 (fld f 13 10)))

/-- VR_ACK and VR_NAK of a request of Marionette (R556, R557): when it has ended, Marionette goes on. -/
def VrMari : Prop :=
  ∀ (s : State) (f : BitVec 32) (n : Nat) (q : VrReq),
    s.pwr.die = true →
    vrOk f = true →
    s.pwr.vr = some q →
    q.seq = fld f 8 5 →
    q.bad = 0 →
    q.why = .mari →
    q.typ ≠ 4 →
    (fld f 28 4 = 8 → fld f 13 10 = ackValue s q → (vrEnd s q 1 (fld f 13 10)).pwr.vr.map VrReq.seq ≠ some q.seq →
      exec (.vrAck f n) s = .next (mariVr (vrEnd s q 1 (fld f 13 10)) q true n)) ∧
    (fld f 28 4 = 9 → fld f 13 10 = 4 → (vrFail s q 4).pwr.vr.map VrReq.seq ≠ some q.seq →
      exec (.vrNak f n) s = .next (mariVr (vrFail s q 4) q false n))

/-- VR_ACK (R71): an ACK whose SEQ is not outstanding is discarded and sets VR_LATE_ACK. -/
def VrLateAck : Prop :=
  ∀ (s : State) (f : BitVec 32) (n : Nat),
    s.pwr.die = true →
    vrOk f = true →
    fld f 28 4 = 8 →
    (∀ q, s.pwr.vr = some q → q.seq ≠ fld f 8 5) →
    exec (.vrAck f n) s = .next (wrB s .supv 0x044 18 true)

/-- VR_NAK (R71): NAK CRC sends the request again with the same SEQ, up to three times. -/
def VrNakCrc : Prop :=
  ∀ (s : State) (f : BitVec 32) (n : Nat) (q : VrReq),
    s.pwr.die = true →
    vrOk f = true →
    fld f 28 4 = 9 →
    fld f 13 10 = 1 →
    s.pwr.vr = some q →
    q.seq = fld f 8 5 →
    q.tries < 3 →
    q.why ≠ .mari →
    exec (.vrNak f n) s = .next { s with pwr := { s.pwr with vr := some { q with tries := q.tries + 1 } } }

/-- VR_NAK (R70, R71): a NAK with the reason the power stage refuses the request for, or FAULT, ends it: ABORT, VR_TIMEOUT, the reason in the error record, and the rail stands at its last acknowledged level. -/
def VrNakOther : Prop :=
  ∀ (s : State) (f : BitVec 32) (n : Nat) (q : VrReq),
    s.pwr.die = true →
    vrOk f = true →
    fld f 28 4 = 9 →
    s.pwr.vr = some q →
    q.seq = fld f 8 5 →
    ((fld f 13 10 = 4 ∧ q.bad = 0) ∨ (2 ≤ fld f 13 10 ∧ fld f 13 10 = q.bad)) →
    q.why ≠ .mari →
    exec (.vrNak f n) s = .next (vrFail s q (fld f 13 10))

/-- VR_TIMEOUT (R71): 500 µs without an answer end the request the same way. -/
def VrTimeout : Prop :=
  ∀ (s : State) (n : Nat) (q : VrReq),
    s.pwr.vr = some q →
    q.why ≠ .mari →
    exec (.vrTimeout n) s = .next (vrFail s q 0)

/-- R71: what follows a timeout or a refusal: ABORT for the rail is the next request on the link, with the next SEQ; VR_TIMEOUT is set; and the rail's acknowledged level stands. -/
def VrAborts : Prop :=
  ∀ (s : State) (q : VrReq) (reason : Nat),
    let t := vrFail s q reason
    (∃ a, t.pwr.vr = some a ∧ a.typ = 5 ∧ a.rail = q.rail ∧ a.value = 0 ∧ a.seq = s.pwr.vrSeq) ∧
    rdB t .supv 0x044 17 = true ∧ ackedLevel t q.rail = ackedLevel s q.rail

/-- VR_TELEMETRY (R63, R72, R78): the filtered values in the units of the frame (log entry 49), the input power in units of 1 W, and the window stand in SUP_MEAS and SUP_STAT. -/
def Telemetry : Prop :=
  ∀ (s : State) (f : BitVec 32),
    clocksOn s = true →
    vrOk f = true →
    fld f 28 4 = 10 →
    let vin := fld f 16 12
    let iin := fld f 8 8
    telemetryOf s = some (vin, iin) →
    windowOf (10 * (vin : Int)) < 4 →
    exec (.vrTelemetry f) s = .next (showWindow (wr s .supv 0x040 (BitVec.ofNat 32 (vin + iin * 2 ^ 16 + min 255 (vin * iin / 400) * 2 ^ 24)))
      (windowOf (10 * (vin : Int))))

/-- TELEM_LOST and VR_LINK_LOST (R72): WINDOW goes to UNKNOWN with TELEM_LOST; without any valid frame a fatal error is raised. -/
def TelemLost : Prop :=
  ∀ (s : State),
    clocksOn s = true →
    exec .telemLost s = .next (wrB (showWindow s 4) .supv 0x044 19 true) ∧ exec .vrLinkLost s = .next (recFatal s .supv 0x85 0)

/-- BANK_RAIL_DONE (R428): the request of a bank's rail has ended: LEVEL and RESULT, RAIL ON or OFF by the acknowledged level, and IRQ_STAT bit 0. -/
def BankDone : Prop :=
  ∀ (s : State) (b : Fin 16) (res : Nat),
    SMap.find? s.pwr.bankEnd b = some res →
    rdF s (.pb b) 0x044 0 2 ≠ 3 →
    let u : State := { s with pwr := { s.pwr with bankEnd := SMap.drop s.pwr.bankEnd fun k => k = b.val } }
    let lvl := (([0, 360, 660, 1000] : List Nat).findIdx? fun x => x = ackedLevel s (16 + b.val)).getD 0
    exec (.bankRailDone b) s = .next (setIrq (setRail (wrF (wrF u (.pb b) 0x044 2 2 lvl) (.pb b) 0x044 4 3 res) b (if lvl = 0 then 0 else 2)) (.pb b) 1)

/-- BANK_FAULT (R67): an overload of a rail that is not off, whether it stands or ramps, switches it off; the requests made for it so far are refused with FAULT (log entry 49); RAIL reads FAULT, the bank page and SUPV report it, with SCLS 0 in the record (log entry 81), and one message goes to each domain that owns a cell of the bank, or to DID 0 where no other does (log entry 48). -/
def BankFault : Prop :=
  ∀ (s : State) (b : Fin 16),
    SMap.getF railReset s.pwr.level (16 + b.val) ≠ 0 →
    let dids := ((List.range 16).map fun i => owner s (.pc (Fin.ofNat 256 (16 * b.val + i)))).eraseDups.filter fun d => decide (d ≠ 0)
    let off := fun (q : VrReq) => if q.rail = 16 + b.val then { q with bad := 4 } else q
    let u : State := { s with pwr := { s.pwr with
      vr := s.pwr.vr.map off, vrq := s.pwr.vrq.map off
      acked := SMap.setF railReset s.pwr.acked (16 + b.val) 0, level := SMap.setF railReset s.pwr.level (16 + b.val) 0 } }
    let v := wrB (setIrq (wrF (setRail u b 3) (.pb b) 0x044 2 2 0) (.pb b) 2) .supv 0x044 20 true
    let w := recordErr v .supv 0x80 contained { gen := genOf v (.dom 0) } b 0
    exec (.bankFault b) s = .next { w with faultQ := w.faultQ.dropLast ++ (if dids = [] then [0] else dids).map fun d =>
      { page := Page.supv, code := 0x80, cls := contained, attr := { did := d, gen := genOf w (.dom 0) }, detail := b.val, did := d } }

/-- REF_LOST and LOCK_LOST (R83): the flag, holdover and a fatal error. -/
def RefLost : Prop :=
  ∀ (s : State),
    s.pwr.die = true →
    exec .refLost s = .next (clockLost (wrB { s with pwr := { s.pwr with refOk := false } } .ckrs 0x040 1 false) 16) ∧ exec .lockLost s = .next (clockLost s 17)

/-- REFERENCE_ACCEPTED (R102): the reference is accepted and REF_OK is set. -/
def RefAccepted : Prop :=
  ∀ (s : State),
    s.pwr.die = true →
    exec .referenceAccepted s = .next (wrB { s with pwr := { s.pwr with refOk := true } } .ckrs 0x040 1 true)

/-- REF_WAIT_TIMEOUT (R102): REF_OK is not set within 5 ms of the rails being up; the die stays in reset and REF_LOST is recorded in the always-on record. -/
def RefWait : Prop :=
  ∀ (s : State),
    s.pwr.die = false →
    s.pwr.refOk = false →
    (s.pwr.rail = .up ∨ s.pwr.rail = .starting) →
    exec .refWaitTimeout s = .next { s with pwr := { s.pwr with rail := .up, aonRef := true } }

/-- PORST_ASSERT (R98, R99): a recognised PORST_N is a module reset with cause 0x1, the rails as they are. -/
def PorstAssert : Prop :=
  ∀ (s : State) (same : Bool),
    s.pwr.porst = true →
    s.pwr.vaon = true →
    s.pwr.back < 2 →
    (s.pwr.rail = .up ∨ s.pwr.rail = .off) →
    s.mari.asleep < 3 →
    exec (.porstAssert same) s = .next (moduleReset { s with pwr := { s.pwr with porst := false } } 1 0 same)

/-- PORST_ASSERT (R99): during the rail start PORST_N only delays the release of the die. -/
def PorstInStart : Prop :=
  ∀ (s : State) (same : Bool),
    s.pwr.porst = true →
    s.pwr.vaon = true →
    s.pwr.back < 2 →
    s.pwr.rail = .starting →
    exec (.porstAssert same) s = .next { s with pwr := { s.pwr with porst := false } }

/-- PORST_ASSERT (R77): after a thermal trip PORST_N only counts toward the restart. -/
def PorstTrip : Prop :=
  ∀ (s : State) (same : Bool),
    s.pwr.porst = true →
    s.pwr.vaon = true →
    2 ≤ s.pwr.back →
    exec (.porstAssert same) s = .next { s with pwr := { s.pwr with porst := false, back := 3 } }

/-- PORST_RELEASE (R77, R99): PORST_N is high again. -/
def PorstRelease : Prop :=
  ∀ (s : State),
    s.pwr.porst = false →
    exec .porstRelease s = .next { s with pwr := { s.pwr with porst := true, back := if s.pwr.back = 3 then 4 else s.pwr.back } }

end Sys2Proof.Claims

open Sys2Proof Sys2Proof.Machine Sys2Proof.Claims in
/-- VR_SET to VR_TIMEOUT, VR_TELEMETRY, TELEM_LOST, VR_LINK_LOST, BANK_RAIL_DONE, BANK_FAULT, REF_LOST, LOCK_LOST, REFERENCE_ACCEPTED,
REF_WAIT_TIMEOUT, PORST_ASSERT and PORST_RELEASE. Completes: bankFault, vrSet, vrEnable, vrDisable, vrRead, vrAbort, vrAck, vrNak, vrTelemetry,
vrTimeout, telemLost, vrLinkLost, refLost, lockLost, porstAssert, porstRelease, refWaitTimeout, bankRailDone, referenceAccepted. -/
def Obligations.VrLinkAndReference : Prop :=
  VrSend ∧
  VrWaits ∧
  VrFrames ∧
  VrRanges ∧
  VrBadFrames ∧
  VrAckEnds ∧
  VrMari ∧
  VrLateAck ∧
  VrNakCrc ∧
  VrNakOther ∧
  VrTimeout ∧
  VrAborts ∧
  Telemetry ∧
  TelemLost ∧
  BankDone ∧
  BankFault ∧
  RefLost ∧
  RefAccepted ∧
  RefWait ∧
  PorstAssert ∧
  PorstInStart ∧
  PorstTrip ∧
  PorstRelease

namespace Sys2Proof.Claims

open Sys2Proof.Machine

/-- MARI_GRANT (R553): the asked block, whose condition holds, performs its stop action and counts as stopped, and the next string is asked. -/
def MariGrant : Prop :=
  ∀ (s t : State) (k j : Nat) (env : MemEnv) (pars : List Nat),
    s.mari.ask = some k →
    mariGrant s k env pars = .ok t →
    (mariStrings (mariLast t) t.mari.wmask).find? (fun j => decide (k < j)) = some j →
    exec (.mariGrant env pars) s = .next (updMari t fun m => { m with stopped := k :: m.stopped.erase k, ask := some j, delayed := false })

/-- MARI_GRANT (R556): with the last string stopped, clocks and rails change for the target state. -/
def MariGrantLast : Prop :=
  ∀ (s t : State) (k : Nat) (env : MemEnv) (pars : List Nat),
    s.mari.ask = some k →
    mariGrant s k env pars = .ok t →
    (mariStrings (mariLast t) t.mari.wmask).find? (fun j => decide (k < j)) = none →
    exec (.mariGrant env pars) s = .next (mariEnter (updMari t fun m => { m with stopped := k :: m.stopped.erase k, ask := none, delayed := false }))

/-- R553: from its GRANT on CK_A of a Winovar cluster stands, and nothing crosses between clock domains once the fabric has granted (log entry 94); both go on when the block is resumed. -/
def GrantStops : Prop :=
  ∀ (s : State) (w : Fin 3) (n : Fin 24) (c : CoreRec),
    n.val / 8 = w.val →
    let t := updMari s fun m => { m with stopped := (48 + w.val) :: m.stopped.erase (48 + w.val) }
    ckaRuns t n c = false ∧ clockRuns t (.wc w) = false ∧ clockRuns t (.wcc n) = false ∧
    xHeld (updMari s fun m => { m with stopped := 51 :: m.stopped.erase 51 }) = true

/-- R548, R556: PARK and OFF switch every rail off over the VR link, in the order the DRAM group, the rails of R65 from the last, and the banks (log entry 94); with nothing outstanding the first request goes out at once. -/
def ParkRequests : Prop :=
  ∀ (s : State),
    3 ≤ mariLast s →
    s.pwr.vr = none →
    s.pwr.vrq = [] →
    let t := mariEnter s
    (t.pwr.vr.toList ++ t.pwr.vrq).map (fun q => (q.typ, q.rail, q.value, q.why)) = parkRails.map fun r => (3, r, 0, VrWhy.mari)

/-- R556, R559, R560, R565: when the last of those requests has ended the die is off, with the state entered; an event latched since the last GRANT starts the exit at once, which is a module reset with cause 0x9, and the state left in WAKE_STAT. -/
def ParkEnds : Prop :=
  ∀ (s : State) (q : VrReq) (ok : Bool) (n : Nat),
    s.mari.rails = [q.rail] →
    mariPhase s = 2 →
    3 ≤ mariLast s →
    let u := updMari s fun m => { m with rails := m.rails.erase q.rail, cycles := max m.cycles n }
    let r := parkEntry u (mariLast s)
    r.pwr.rail = .off ∧ r.pwr.die = false ∧ r.mari.asleep = mariLast s ∧
    (s.mari.latch = none → mariVr s q ok n = r) ∧
    (s.mari.latch ≠ none → mariVr s q ok n = wrF (moduleReset r 9 0 false) .wake 0x044 0 3 (mariLast s))

/-- MARI_DELAY (R553): a block that needs more time says so. -/
def MariDelay : Prop :=
  ∀ (s : State) (k : Nat),
    s.mari.ask = some k →
    mariDelays s k = true →
    exec .mariDelay s = .next (updMari s fun m => { m with delayed := true })

/-- MARI_REFUSE (R555): a block that refuses starts the rollback, with result REFUSED and its string. -/
def MariRefuse : Prop :=
  ∀ (s : State) (k : Nat),
    s.mari.ask = some k →
    mariRefuses s k = true →
    exec .mariRefuse s = .next (mariRollback s 4 k)

/-- MARI_SILENCE (R554): no answer within 1 ms records 0x81 and starts the rollback. -/
def MariSilence : Prop :=
  ∀ (s : State) (k : Nat),
    s.mari.ask = some k →
    s.mari.delayed = false →
    exec .mariSilence s = .next (mariRollback (recInternal s .mari 0x81 k) 5 k)

/-- MARI_DELAY_EXCEEDED (R554): a delay past its maximum records 0x84 and starts the rollback. -/
def MariExceeded : Prop :=
  ∀ (s : State) (k : Nat),
    s.mari.ask = some k →
    s.mari.delayed = true →
    exec .mariDelayExceeded s = .next (mariRollback (recInternal s .mari 0x84 k) 4 k)

/-- MARI_READY (R555): a resumed block answers and runs again; what waits to cross goes on, and the next block is resumed, or the request ends. -/
def MariReady : Prop :=
  ∀ (s : State) (k : Nat) (l : List Nat),
    s.mari.resume = k :: l →
    k < 48 →
    exec .mariReady s = .next (resumeNext (restartCrossings (updMari s fun m => { m with stopped := m.stopped.erase k, failed := m.failed.erase k })))

/-- RESTART_FAIL (R555): fatal, with the string; Marionette goes on with the next, and the block stays stopped (log entry 94). -/
def RestartFail : Prop :=
  ∀ (s : State) (k : Nat) (l : List Nat),
    s.mari.resume = k :: l →
    exec .restartFail s = .next (resumeNext (recFatal (updMari s fun m => { m with stopped := m.stopped.erase k, failed := k :: m.failed.erase k }) .mari 0x82 k))

/-- AON_TIMER_EXPIRE (R550, R564): the enabled timer of a sleeping device is wake source 2. -/
def AonTimer : Prop :=
  ∀ (s : State) (cycles : Nat) (same : Bool),
    wakeAdmits s = true →
    mariPhase s = 2 →
    s.mari.rails = [] →
    rd s .mari 0x050 ≠ 0 →
    wakeEnabled s 0 = true →
    exec (.aonTimerExpire cycles same) s = .next (wakeEvent s 2 cycles same)

/-- PORT_WAKE_EDGE (R550): the enabled edge on land A of a bank's first cell, with its rail ON, is wake source 16 + b. -/
def PortEdge : Prop :=
  ∀ (s : State) (b : Fin 16) (fall : Bool) (cycles : Nat) (same : Bool),
    wakeAdmits s = true →
    wakeEnabled s (16 + b) = true →
    rdF s (.pb b) 0x044 0 2 = 2 →
    rdB s .mari 0x04C b = fall →
    exec (.portWakeEdge b fall cycles same) s = .next (wakeEvent s (16 + b) cycles same)

/-- R550, R560: events of MARI_WAKEEN act only while a request for NAP or STANDBY is carried out or lasts: one for PARK or OFF is ended by none of them. -/
def WakeAdmitted : Prop :=
  ∀ (s : State) (b : Fin 16) (fall : Bool) (cycles : Nat) (same : Bool),
    3 ≤ mariLast s →
    wakeAdmits s = false ∧ exec (.portWakeEdge b fall cycles same) s = .next s ∧ exec (.aonTimerExpire cycles same) s = .next s

/-- WAKE_PORT_START_STOP (R561): START reads WAKE_CFG and an address follows; STOP ends. -/
def ListenerStart : Prop :=
  ∀ (s : State),
    s.pwr.vaon = true →
    exec (.wakePortStartStop true) s = .next { s with wakeL := { stage := 1, addr := rdF s .wake 0x040 0 7, en := rdB s .wake 0x040 7 } } ∧
    exec (.wakePortStartStop false) s = .next (updWake s 0 false)

/-- WAKE_PORT_ADDRESS (R561): the enabled address with the write bit is acknowledged; any other is not. -/
def ListenerAddress : Prop :=
  ∀ (s : State) (b : BitVec 8),
    s.pwr.vaon = true →
    s.wakeL.stage = 1 →
    exec (.wakePortAddress b) s = .next (if s.wakeL.en = true ∧ b.toNat = 2 * s.wakeL.addr then updWake s 2 true else updWake s 0 false)

/-- WAKE_CMD (R560, R561): the command byte 0x5A is acknowledged and wakes a sleeping device; in RUN it is only counted. -/
def WakeCmd : Prop :=
  ∀ (s : State) (cycles : Nat) (same : Bool),
    s.pwr.vaon = true →
    s.wakeL.stage = 2 →
    (s.mari.asleep < 3 → rdB s .mari 0x044 0 = false → exec (.wakeCmd cycles same) s = .next (bumpF (updWake s 3 true) .wake 0x044 8 8 1)) ∧
    (3 ≤ s.mari.asleep ∨ rdB s .mari 0x044 0 = true → exec (.wakeCmd cycles same) s = .next (wakeEvent (updWake s 3 true) 1 cycles same))

/-- PING and WAKE_PORT_OTHER_BYTE (R561): 0xA5 is acknowledged and nothing more; any other command byte is not acknowledged. -/
def PingByte : Prop :=
  ∀ (s : State) (b : BitVec 8),
    s.pwr.vaon = true →
    s.wakeL.stage = 2 →
    b ≠ 0x5A →
    b ≠ 0xA5 →
    exec .wakePing s = .next (updWake s 3 true) ∧ exec (.wakePortOtherByte b) s = .next (updWake s 3 false)

/-- SCL_LOW_TIMEOUT (R561): the listener starts over. -/
def SclLow : Prop :=
  ∀ (s : State),
    s.pwr.vaon = true →
    exec .sclLowTimeout s = .next (updWake s 0 false)

/-- R88: at the restart of CK_E after STANDBY every copy of device time has advanced by floor(n × 16,000 ÷ 9), n being the always-on cycles it stood for. -/
def StandbyAdvances : Prop :=
  ∀ s : State,
    let n := s.mari.cycles
    (standbyEnd s).dt = s.dt + n * 16000 / 9 ∧ dtF (standbyEnd s) = dtF s + n * 16000 / 9 ∧ dtP (standbyEnd s) = dtP s + n * 16000 / 9

end Sys2Proof.Claims

open Sys2Proof Sys2Proof.Machine Sys2Proof.Claims in
/-- MARI_GRANT, MARI_DELAY, MARI_REFUSE, MARI_SILENCE, MARI_DELAY_EXCEEDED, MARI_READY, RESTART_FAIL, AON_TIMER_EXPIRE, PORT_WAKE_EDGE and the rows of
the wake listener. Completes: mariGrant, mariDelay, mariRefuse, mariSilence, mariDelayExceeded, mariReady, restartFail, aonTimerExpire,
portWakeEdge, wakePortAddress, wakeCmd, wakePing, wakePortOtherByte, wakePortStartStop, sclLowTimeout. -/
def Obligations.MarionetteCommands : Prop :=
  MariGrant ∧
  MariGrantLast ∧
  GrantStops ∧
  ParkRequests ∧
  ParkEnds ∧
  MariDelay ∧
  MariRefuse ∧
  MariSilence ∧
  MariExceeded ∧
  MariReady ∧
  RestartFail ∧
  AonTimer ∧
  PortEdge ∧
  WakeAdmitted ∧
  ListenerStart ∧
  ListenerAddress ∧
  WakeCmd ∧
  PingByte ∧
  SclLow ∧
  StandbyAdvances

namespace Sys2Proof.Claims

open Sys2Proof.Machine

/-- BOOT_WRITE (R131, R133, R134): a WRITE whose CRC holds, in the ranges of R131, while Sage is ready for it, stores its bytes in the slot, counts, and is applied. -/
def BootWrite : Prop :=
  ∀ (s : State) (slot : BitVec 8) (off : BitVec 24) (len : BitVec 16) (data : List Byte) (crc : BitVec 32),
    bootPort s = true →
    s.sage.phase = .push →
    s.sage.rdy = true →
    crc.toNat = crc32 ([0x02, slot] ++ (bytesOf 3 off.toNat).reverse ++ (bytesOf 2 len.toNat).reverse ++ data) →
    slot.toNat < 2 →
    (off.toNat % 4 = 0 ∧ len.toNat % 4 = 0) →
    (4 ≤ len.toNat ∧ len.toNat ≤ 256) →
    off.toNat + len.toNat ≤ 0x400000 →
    data.length = len.toNat →
    exec (.bootWrite slot off len data crc) s = .next (updSage (frameTaken (slotStore s (slot.toNat = 1) off.toNat data)) fun g => { g with writes := (g.writes + 1) % 65536 })

/-- BOOT_WRITE (R131, R133): a frame whose CRC fails, whose byte count, SLOT, OFFSET or LEN is out of its range, one after RELEASE, and one begun while Sage is busy, is refused, with the flag of every condition that it meets (log entry 19), and no byte of a slot changes. -/
def BootWriteBad : Prop :=
  ∀ (s : State) (slot : BitVec 8) (off : BitVec 24) (len : BitVec 16) (data : List Byte) (crc : BitVec 32),
    bootPort s = true →
    let crcBad := decide (crc.toNat ≠ crc32 ([0x02, slot] ++ (bytesOf 3 off.toNat).reverse ++ (bytesOf 2 len.toNat).reverse ++ data))
    let ref := decide (data.length ≠ len.toNat ∨ 2 ≤ slot.toNat ∨ off.toNat % 4 ≠ 0 ∨ len.toNat % 4 ≠ 0 ∨ len.toNat < 4 ∨ 256 < len.toNat ∨
      0x400000 < off.toNat + len.toNat ∨ s.sage.phase ≠ .push)
    crcBad = true ∨ ref = true ∨ s.sage.rdy = false →
    exec (.bootWrite slot off len data crc) s = .next (frameBad s crcBad ref (!s.sage.rdy))

/-- BOOT_STATUS (R131, R132): the four STATUS bytes with their CRC are answered, and the sticky flags clear; it counts as accepted (log entry 19). -/
def BootStatus : Prop :=
  ∀ (s : State),
    bootPort s = true →
    exec (.bootStatus 8) s = .next (takeStatus s crcTail)

/-- BOOT_INFO (R131, R132): the sixteen INFO bytes with their CRC are answered; it counts as accepted (log entry 19). -/
def BootInfo : Prop :=
  ∀ (s : State),
    bootPort s = true →
    s.sage.rdy = true →
    exec (.bootInfo 20) s = .next (updSage s fun g => { g with miso := infoBytes s ++ crcTail (infoBytes s), lastOk := true })

/-- BOOT_CLEAR (R131): the whole slot is zeroed. -/
def BootClear : Prop :=
  ∀ (s : State) (slot : Byte) (crc : BitVec 32),
    bootPort s = true →
    s.sage.phase = .push →
    s.sage.rdy = true →
    crc.toNat = crc32 [0x20, slot] →
    slot.toNat < 2 →
    exec (.bootClear [slot] crc) s = .next (frameTaken (zeroSlot s (slot.toNat = 1)))

/-- BOOT_CLEAR and BOOT_RELEASE (R133): a frame with another count of bytes between command and CRC is refused, with every flag that it meets (log entry 19). -/
def BootShort : Prop :=
  ∀ (s : State) (body : List Byte) (crc : BitVec 32),
    bootPort s = true →
    body.length ≠ 1 →
    exec (.bootClear body crc) s = .next (frameBad s (crc.toNat ≠ crc32 (0x20 :: body)) true (!s.sage.rdy)) ∧
    exec (.bootRelease body crc) s = .next (frameBad s (crc.toNat ≠ crc32 (0xB8 :: body)) true (!s.sage.rdy))

/-- BOOT_RELEASE (R131, R134): with the key 0x5A the push ends and verification starts. -/
def BootRelease : Prop :=
  ∀ (s : State) (crc : BitVec 32),
    bootPort s = true →
    s.sage.phase = .push →
    s.sage.rdy = true →
    crc.toNat = crc32 [0xB8, 0x5A] →
    exec (.bootRelease [0x5A] crc) s = .next (updSage s fun g => { g with phase := .verify, lastOk := true, rdy := false, released := true, err := 2 })

/-- BOOT_RESERVED_CMD (R131): a reserved command byte is ignored and counted, and refused. -/
def BootReserved : Prop :=
  ∀ (s : State) (cmd : BitVec 8),
    bootPort s = true →
    (cmd ≠ 0x02 ∧ cmd ≠ 0x05 ∧ cmd ≠ 0x20 ∧ cmd ≠ 0x9F ∧ cmd ≠ 0xB8) →
    exec (.bootReservedCmd cmd) s = .next (takeReserved s)

/-- BOOT_FRAME_TIMEOUT (R130): the frame is discarded. -/
def BootTimeout : Prop :=
  ∀ (s : State),
    bootPort s = true →
    exec .bootFrameTimeout s = .next (updSage s fun g => { g with lastOk := false })

/-- BOOT_FRAME_APPLIED (R134): BOOT_RDY rises when the frame has been applied. -/
def BootApplied : Prop :=
  ∀ (s : State),
    s.sage.applying = true →
    s.sage.phase = .push →
    exec .bootFrameApplied s = .next (updSage s fun g => { g with rdy := true, applying := false })

/-- PUSH_ABANDON (R135): both slots are zeroed, ABANDON is set and counted, and Sage waits for a push again. -/
def PushAbandon : Prop :=
  ∀ (s : State),
    s.sage.started = true →
    s.sage.phase = .push →
    exec .pushAbandon s = .next (updSage (zeroSlots s) fun g => { g with abandon := true, abandons := satAdd 255 g.abandons 1, err := 0, started := false })

/-- PCIE_BOOT_WRITE (R136): bytes written to BAR0 over a link that is up go to the slots, A below B; each write counts as one (log entry 19). -/
def PcieWrite : Prop :=
  ∀ (s : State) (off : BitVec 23) (data : List Byte),
    bootPcie s = true →
    s.sage.phase = .push →
    data ≠ [] →
    off.toNat + data.length ≤ 0x400000 →
    exec (.pcieBootWrite off data) s = .next (updSage (slotStore (slotStore s false off.toNat data) true (off.toNat + data.length - 0x400000) [])
      fun g => { g with lastOk := true, started := true, err := 1, writes := (g.writes + 1) % 65536 })

/-- PCIE_BOOT_CLEAR and PCIE_BOOT_RELEASE (R136): a slot is zeroed; 0xB8 ends the push. -/
def PcieClear : Prop :=
  ∀ (s : State) (v : BitVec 32),
    bootPcie s = true →
    s.sage.phase = .push →
    v.toNat < 2 →
    exec (.pcieBootClear v) s = .next (updSage (zeroSlot s (v = 1)) fun g => { g with lastOk := true, started := true, err := 1 }) ∧
    exec (.pcieBootRelease 0xB8) s = .next (updSage s fun g => { g with phase := .verify, lastOk := true, rdy := false, released := true, err := 2 })

/-- R128, R136, R137: over a link that is not up no write of a BAR and no boot frame has an effect, nor over an interface that is not the selected one (log entry 74). -/
def BootLinkDown : Prop :=
  ∀ (s : State) (off : BitVec 23) (data f : List Byte) (v : BitVec 32),
    (rdF s (.pce 0) 0x044 0 2 ≠ 2 ∨ s.sage.bootif ≠ 1 → exec (.pcieBootWrite off data) s = .next s ∧ exec (.pcieBootClear v) s = .next s ∧
      exec (.pcieBootRelease v) s = .next s) ∧
    (rdF s .tylw 0x044 0 2 ≠ 2 ∨ s.sage.bootif ≠ 2 → exec (.tylBoot f) s = .next s)

/-- TYL_BOOT (R137): over a Tylwen link that is up each frame does what it does over the boot port, without its CRC. -/
def TylBoot : Prop :=
  ∀ (s : State) (key : Byte) (r : List Byte),
    s.sage.bootif = 2 →
    s.sage.phase ≠ .off →
    rdF s .tylw 0x044 0 2 = 2 →
    exec (.tylBoot (0x02 :: r)) s = .next (takeWrite s (ofBE (r.take 1)) (ofBE ((r.drop 1).take 3)) (ofBE ((r.drop 4).take 2)) (r.drop 6) false) ∧
    exec (.tylBoot [0x05]) s = .next (takeStatus s fun _ => []) ∧ exec (.tylBoot [0x20, key]) s = .next (takeClear s (ofBE [key]) false false) ∧
    exec (.tylBoot [0x9F]) s = .next (takeInfo s fun _ => []) ∧ exec (.tylBoot [0xB8, key]) s = .next (takeRelease s (ofBE [key]) false false)

end Sys2Proof.Claims

open Sys2Proof Sys2Proof.Machine Sys2Proof.Claims in
/-- BOOT_WRITE to PUSH_ABANDON, PCIE_BOOT_WRITE, PCIE_BOOT_CLEAR, PCIE_BOOT_RELEASE and TYL_BOOT. Completes: bootWrite, bootStatus, bootClear,
bootInfo, bootRelease, bootReservedCmd, bootFrameTimeout, bootFrameApplied, pushAbandon, pcieBootWrite, pcieBootClear, pcieBootRelease, tylBoot. -/
def Obligations.BootPush : Prop :=
  BootWrite ∧
  BootWriteBad ∧
  BootStatus ∧
  BootInfo ∧
  BootClear ∧
  BootShort ∧
  BootRelease ∧
  BootReserved ∧
  BootTimeout ∧
  BootApplied ∧
  PushAbandon ∧
  PcieWrite ∧
  PcieClear ∧
  BootLinkDown ∧
  TylBoot

namespace Sys2Proof.Claims

open Sys2Proof.Machine

/-- DIE_RESET_RELEASE (R102, R126, R127, R150): with rails up, PORST_N high and the reference accepted, the die leaves reset: device time is zero, the straps are settled from their samples, both fuse copies are read and their LC bits completed, the secure part and both slots are zeroed, and, unless the device is scrapped, the calibration is copied and the push interface is brought up (log entries 20, 49 and 74 for their order, the rails' levels and the links). -/
def DieReset : Prop :=
  ∀ (s : State) (straps : List (Fin 8)) (us low : Nat),
    s.pwr.die = false →
    s.pwr.vaon = true →
    (s.pwr.rail = .up ∨ s.pwr.rail = .starting) →
    s.pwr.porst = true →
    s.pwr.refOk = true →
    s.pwr.trip = false →
    s.pwr.back = 0 →
    (strapRead straps).1 ≠ 3 →
    let u := sageBegin s (strapRead straps).1 (strapRead straps).2 low
    fuseMismatch u = false →
    exec (.dieResetRelease straps us low false) s = .next (sageOpen (readFuses u) us)

/-- DIE_RESET_RELEASE (R128, R150): the reserved strap value halts with 0xE, a fuse that reads unlike in the two copies with 0xC, both with no bank wiped. -/
def DieResetHalt : Prop :=
  ∀ (s : State) (straps : List (Fin 8)) (us low : Nat),
    s.pwr.die = false →
    s.pwr.vaon = true →
    (s.pwr.rail = .up ∨ s.pwr.rail = .starting) →
    s.pwr.porst = true →
    s.pwr.refOk = true →
    s.pwr.trip = false →
    s.pwr.back = 0 →
    let u := sageBegin s (strapRead straps).1 (strapRead straps).2 low
    ((strapRead straps).1 = 3 → exec (.dieResetRelease straps us low false) s = .next (sageHalt (notZeroed u) 0xE)) ∧
    ((strapRead straps).1 ≠ 3 → exec (.dieResetRelease straps us low true) s = .next (sageHalt (notZeroed u) 0xC))

/-- R127: a strap's value is that of the first of up to 101 sets of 8 samples that agree; a set that does not is followed by the next; and a BOOTIF or BOOT_RETRY that never settles gives the reserved BOOTIF 0b11. -/
def StrapsSettle : Prop :=
  (∀ (v : Fin 8) (rest : List (Fin 8)), strapRead (List.replicate 8 v ++ rest) = (v.val % 4, bitN v.val 2)) ∧
  (∀ (i k : Nat) (l rest : List (Fin 8)), l.length = 8 → (∃ x ∈ l, bitN x.val i = true) → (∃ x ∈ l, bitN x.val i = false) →
    strapPick i (k + 1) (l ++ rest) = strapPick i k rest) ∧
  (∀ (i : Nat) (l : List (Fin 8)), strapPick i 0 l = none) ∧
  (∀ l : List (Fin 8), strapPick 0 101 l = none ∨ strapPick 1 101 l = none ∨ strapPick 2 101 l = none → (strapRead l).1 = 3)

/-- R100: RSTOUT_N is low from a module reset on, and rises with Sage's first instruction or when 100 µs have passed, whichever is later. -/
def RstoutN : Prop :=
  ∀ (s : State) (cause rail bootif low d : Nat) (same retry : Bool),
    rstoutN (moduleReset s cause rail same) = false ∧
    (s.pwr.rstAt = none → rstoutN s = false) ∧
    rstoutN (advanceTo (sageBegin s bootif retry low) d) = decide ((100 - low) * 16000 / 9 ≤ d)

/-- R126, R128, R155: a scrapped device halts with 0xD; any other is ready at once on the boot port, and over PCIe or Tylwen once the link is up; the secure part is being wiped and refuses until it is done. -/
def OpenReady : Prop :=
  ∀ (s : State) (us : Nat),
    let t := sageOpen s us
    t.sage.wiping = true ∧
    (lcState s.sage.shadow.lc = 4 → t.sage.phase = .halted ∧ t.sage.err = 0xD ∧ t.sage.rdy = false) ∧
    (lcState s.sage.shadow.lc ≠ 4 → s.sage.bootif = 0 → t.sage.rdy = true) ∧
    (lcState s.sage.shadow.lc ≠ 4 → s.sage.bootif = 1 ∨ s.sage.bootif = 2 → t.sage.rdy = s.sage.rdy) ∧
    (∀ u : State, u.sage.phase = .push → u.sage.applying = false → (bootReady u u.sage.bootif).sage.rdy = true)

/-- IMAGE_CHOICE (R142, R145 to R147, R153, R154, R159): with no valid slot the higher reason code is shown, and a retry waited for where the strap asks, else Sage halts; a valid one is handed over, after the lifecycle transition that it asks for. -/
def ImageChoice : Prop :=
  ∀ (s : State) (us : Nat),
    s.sage.phase = .verify →
    let ra := imgReason s false
    let rb := imgReason s true
    let u := imgOpen (imgOpen s false) true
    let tie := ra = 0 && rb = 0 && imgF s false 0x00C 4 = imgF s true 0x00C 4
    exec (.imageChoice us false) s = .next (match chooseSlot s ra rb with
      | none => if u.sage.retry then updSage u fun g => { g with phase := .show, err := max ra rb } else sageHalt u (max ra rb)
      | some b => handover (if imgFlag u b 1 then lcBurn u (imgF u b 0x0A1 1) else u) b (slotReg s false ra) (slotReg s true rb) tie us)

/-- R139, R142: an image in its format, with its key in use, is refused for its signature, reason 0x7, exactly where one of its two signatures fails; both are checked over the SHA-384 digest of the header's first 0x100 bytes and the payload. -/
def BothSignatures : Prop :=
  ∀ (s : State) (b : Bool),
    imgF s b 0x000 4 = 0x4D444E39 →
    imgFormat s b = true →
    (imgF s b 0x010 1 = 4 → lcState s.sage.shadow.lc = 0) →
    (imgF s b 0x010 1 < 4 → lcState s.sage.shadow.lc ≠ 0 ∧ bitN s.sage.shadow.prog (imgF s b 0x010 1) = true) →
    bitN s.sage.shadow.rev (imgF s b 0x010 1) = false →
    sha384 (imgBytes s b 0x100 96 ++ imgBytes s b 0x200 1952) = keyHash s (imgF s b 0x010 1) →
    let m := sha384 (imgBytes s b 0x000 0x100 ++ imgBytes s b 0x2000 (imgF s b 0x008 4))
    (imgReason s b = 0x7 ↔ ¬(ecdsaOk (imgBytes s b 0x100 96) (imgBytes s b 0x160 96) m = true ∧
      mldsaOk (imgBytes s b 0x200 1952) (imgBytes s b 0xA00 3309) (beBytes 48 m) = true))

/-- R85, R102, R159: at handover the engine clusters leave reset, core 0 runs at level F at its entry with the CK_A of its cluster, the SCU starts at the image's SCU_ENTRY in the secure part, and Sage shows 3. -/
def HandoverStarts : Prop :=
  ∀ (s : State) (b tie : Bool) (regA regB us : Nat),
    let t := handover s b regA regB tie us
    engUp t = clocksOn s ∧ t.sage.phase = .done ∧ t.sage.err = 3 ∧ 0 ∈ t.pwr.ckA ∧
    (Machine.core t 0).run = .running ∧ level t 0 = 3 ∧
    (Machine.core t 0).pc = BitVec.ofNat 64 (slotBase b + 0x2000 + imgF (zeroSlot s (!b)) b 0x02C 4 + imgF (zeroSlot s (!b)) b 0x034 4) ∧
    (Inv s → t.sage.scuEntry = some (0x1E00000 + imgF s b 0x028 4))

/-- R145: the only valid slot is chosen; of two the one with the higher security version, and slot A at equal ones. -/
def SlotChoice : Prop :=
  ∀ (s : State) (ra rb : Nat),
    (ra = 0 → rb ≠ 0 → chooseSlot s ra rb = some false) ∧ (ra ≠ 0 → rb = 0 → chooseSlot s ra rb = some true) ∧ (ra ≠ 0 → rb ≠ 0 → chooseSlot s ra rb = none) ∧
    (imgF s false 0x00C 4 < imgF s true 0x00C 4 → chooseSlot s 0 0 = some true) ∧ (imgF s true 0x00C 4 ≤ imgF s false 0x00C 4 → chooseSlot s 0 0 = some false)

/-- BOOT_RETRY_RESUME (R147): slots and secure part are zeroed and Sage is ready for a push again. -/
def RetryResume : Prop :=
  ∀ (s : State),
    s.sage.phase = .show →
    exec .bootRetryResume s = .next (updSage (wipeSecure (zeroSlots s)) fun g => { g with phase := .push, err := 0, rdy := true, started := false, applying := false, retries := satAdd 255 g.retries 1 })

/-- TAMPER_EVENT (R156): the secure part is wiped, the flag and the count are set; before handover Sage halts with 0xB, after it the error is fatal with IRQ_STAT bit 0, recorded in the LCYC page (log entry 21). -/
def TamperEvent : Prop :=
  ∀ (s : State) (i : Fin 3),
    s.sage.phase ≠ .off →
    (i ≠ 2 ∨ s.sage.phase = .done) →
    exec (.tamperEvent i) s = .next (tamper s i)

/-- FUSE_REREAD (R150): fuses that read unlike after handover are tamper event 2. -/
def FuseReread : Prop :=
  ∀ (s : State) (bad : Bool),
    s.sage.phase = .done →
    clocksOn s = true →
    (bad = true ∨ s.sage.fuses ≠ s.sage.fuses2) →
    exec (.fuseReread bad) s = .next (tamper s 2)

/-- SECURE_WIPE_DONE (R155): the secure part is served again. -/
def SecureWipeDone : Prop :=
  ∀ (s : State),
    exec .secureWipeDone s = .next (updSage s fun g => { g with wiping := false })

/-- SCU_LOCKSTEP_MISMATCH (R161, R569): before handover Sage halts with 0xF; after it the error is fatal, with no hold. -/
def Lockstep : Prop :=
  ∀ (s : State),
    (s.sage.phase = .push ∨ s.sage.phase = .verify ∨ s.sage.phase = .show) →
    exec .scuLockstepMismatch s = .next (sageHalt s 0xF)

/-- SCU_LOCKSTEP_MISMATCH (R161, R569): after handover a fatal error of the SCU's own, recorded in the LCYC page (log entry 21); its CODE and ERR_ADDR are free values (log entry 12). -/
def LockstepDone : Prop :=
  ∀ (s : State),
    s.sage.phase = .done →
    exec .scuLockstepMismatch s = .next (recUnstated s .lcyc fatal true)

end Sys2Proof.Claims

open Sys2Proof Sys2Proof.Machine Sys2Proof.Claims in
/-- DIE_RESET_RELEASE, IMAGE_CHOICE, BOOT_RETRY_RESUME, TAMPER_EVENT, FUSE_REREAD, SECURE_WIPE_DONE and SCU_LOCKSTEP_MISMATCH. Completes:
dieResetRelease, imageChoice, bootRetryResume, fuseReread, tamperEvent, secureWipeDone, scuLockstepMismatch. -/
def Obligations.SageCommands : Prop :=
  DieReset ∧
  DieResetHalt ∧
  StrapsSettle ∧
  RstoutN ∧
  OpenReady ∧
  ImageChoice ∧
  BothSignatures ∧
  HandoverStarts ∧
  SlotChoice ∧
  RetryResume ∧
  TamperEvent ∧
  FuseReread ∧
  SecureWipeDone ∧
  Lockstep ∧
  LockstepDone

namespace Sys2Proof.Claims

open Sys2Proof.Machine

/-- The state at a thread's slot: the cells of its cluster have done what comes before (R389), device time is at its tick, single-bit errors
of its quad are recorded and corrected (R385), the plain restore of a RETE before it is made, and every register write, loaded word and remote
answer of the thread that its R stage finds (R371, R393). -/
def atSlot (s : State) (e : Fin 512) (t : Fin 4) : State :=
  updThr (fetchCorrected (advanceTo (cellsAt s e (nextSlot s e t)) (nextSlot s e t)) e t) e t fun th => atIssue th (nextSlot s e t)

/-- The thread as its slot finds it. -/
def slotThr (s : State) (e : Fin 512) (t : Fin 4) : NgThread := thr (atSlot s e t) e t

/-- The loop check of the slot's instruction: the loop sets and the active bits after it, and the address it chooses (R356). -/
def checkOf (s : State) (e : Fin 512) (t : Fin 4) : NgThread × Option Word18 := loopCheck (slotThr s e t) (slotThr s e t).pc

/-- The state in which the instruction has its effect: its loop check, made in R, comes before what E writes (R356, R370). -/
def checked (s : State) (e : Fin 512) (t : Fin 4) : State := updThr (atSlot s e t) e t fun _ => (checkOf s e t).1

/-- The thread as the instruction's effect finds it. -/
def bodyThr (s : State) (e : Fin 512) (t : Fin 4) : NgThread := thr (checked s e t) e t

/-- The instruction is an annulled delay slot. -/
def annulled (th : NgThread) : Bool := (th.dslot.map Prod.snd).getD false

/-- An instruction of the thread issues and has its effect: the thread can issue, no word of the instruction's quad is uncorrectable, the
instruction is no annulled delay slot, and its address may be fetched from (R113, R351, R381, R385, R389). -/
abbrev Ready (s : State) (e : Fin 512) (t : Fin 4) : Prop :=
  canIssue s e t = true ∧ annulled (slotThr s e t) = false ∧ (slotThr s e t).pc.toNat % 2 = 0 ∧ (slotThr s e t).pc.toNat < 0o070000

/-- The same for a control transfer, which is neither a delay slot nor at the END of an active loop (R354, R357). -/
abbrev ReadyCt (s : State) (e : Fin 512) (t : Fin 4) : Prop :=
  Ready s e t ∧ (slotThr s e t).dslot = none ∧ activeEnd (slotThr s e t) (slotThr s e t).pc = false

/-- The end of an instruction of `slots` slots whose effect is in `u`: `g` says where the thread goes on. -/
def finished (s u : State) (e : Fin 512) (t : Fin 4) (slots : Nat) (g : NgThread → NgThread) : State :=
  endStep (updThr u e t fun th => g { th with next := nextSlot s e t + slots * slotPeriod s e, entered := false }) e t (decide ((slotThr s e t).st = 3))

/-- The thread goes on where the loop check or, without it, the branch before or the next address leads (R351, R356). -/
def seqDone (s u : State) (e : Fin 512) (t : Fin 4) (slots : Nat) : State :=
  finished s u e t slots fun th =>
    { th with pc := (checkOf s e t).2.getD (((slotThr s e t).dslot.map Prod.fst).getD ((slotThr s e t).pc + 2)), dslot := none, rete := none }

/-- The delay slot follows, then the target where the branch is taken and the address after the delay slot where it is not (R351). -/
def branchDone (s u : State) (e : Fin 512) (t : Fin 4) (target : Word18) (taken annul : Bool) : State :=
  finished s u e t 1 fun th =>
    { th with pc := (slotThr s e t).pc + 2, dslot := some (if taken then target else (slotThr s e t).pc + 4, annul && !taken), rete := none }

/-- An instruction of one slot that changes its thread by `f` and nothing else. -/
def threadDone (s : State) (e : Fin 512) (t : Fin 4) (f : NgThread → NgThread) : State :=
  seqDone s (updThr (checked s e t) e t f) e t 1

/-- Register d is written three ticks after the issue, ST at once (R376). -/
def wroteAlu (s : State) (e : Fin 512) (t : Fin 4) (d : Fin 16) (f : NgThread → Word18 × Word18) : State :=
  threadDone s e t fun th => ngWrite { th with sw := (f th).2 } (nextSlot s e t + 3) d (f th).1 false

/-- Every bit of `u` but those listed is as in `st`. -/
def KeptBut (st u : Word18) (l : List Nat) : Prop := ∀ i, i ∉ l → bit u i = bit st i

/-- Z and N tell of `r`. -/
def ToldOf (u r : Word18) : Prop := bit u 0 = decide (r = 0) ∧ bit u 1 = bit r 17

/-- add_core of R329 as a relation: the result `r` and the status `u` after it. -/
def AddRule (st : Word18) (sat : Bool) (x y : Word18) (cin : Bool) (r u : Word18) : Prop :=
  let z := x.toInt + y.toInt + cin.toNat
  let out := z < -131072 ∨ 131071 < z
  (¬(out ∧ sat = true) → r.toNat = (x.toNat + y.toNat + cin.toNat) % 262144) ∧
    (out → sat = true → r.toInt = if z < 0 then -131072 else 131071) ∧
    (bit u 2 = true ↔ 262144 ≤ x.toNat + y.toNat + cin.toNat) ∧ (bit u 3 = true ↔ out) ∧
    (bit u 4 = true ↔ bit st 4 = true ∨ (out ∧ sat = true)) ∧ ToldOf u r ∧ KeptBut st u [0, 1, 2, 3, 4]

/-- add_core follows R329, and ABS. -/
def AddCoreFollows : Prop :=
  (∀ st sat x y cin, AddRule st sat x y cin (addCore st sat x y cin).1 (addCore st sat x y cin).2) ∧
  (∀ st sat x, bit x 17 = true → ∃ c, AddRule (setBit st 2 c) sat 0 (~~~x) true (absCore st sat x).1 (setBit (absCore st sat x).2 2 c) ∧
    bit (absCore st sat x).2 2 = bit st 2) ∧
  (∀ st sat x, bit x 17 = false → (absCore st sat x).1 = x ∧ ToldOf (absCore st sat x).2 x ∧ bit (absCore st sat x).2 1 = false ∧
    bit (absCore st sat x).2 3 = false ∧ KeptBut st (absCore st sat x).2 [0, 1, 3]) ∧
  ∀ st f, satOn st f = true ↔ f = true ∨ bit st 7 = true

/-- The logic rows set Z and N and nothing else of ST (R330). -/
def SetZNFollows : Prop := ∀ st r, ToldOf (setZN st r) r ∧ KeptBut st (setZN st r) [0, 1]

/-- Each shift as R331 gives it, bit by bit; `c` is the count. -/
def ShiftFollows : Prop :=
  ∀ (st a : Word18) (c : Nat),
    (∀ op, ToldOf (shiftCore op st a c).2 (shiftCore op st a c).1 ∧ KeptBut st (shiftCore op st a c).2 [0, 1, 2]) ∧
    (∀ i, i < 18 → bit (shiftCore 0 st a c).1 i = (decide (c ≤ i) && bit a (i - c)) ∧ bit (shiftCore 1 st a c).1 i = bit a (i + c) ∧
      bit (shiftCore 2 st a c).1 i = (if i + c < 18 then bit a (i + c) else bit a 17) ∧ bit (shiftCore 3 st a c).1 i = bit a ((i + c) % 18)) ∧
    (c = 0 → ∀ op, op < 3 → bit (shiftCore op st a c).2 2 = bit st 2) ∧
    (0 < c → c ≤ 18 → bit (shiftCore 0 st a c).2 2 = bit a (18 - c) ∧ bit (shiftCore 1 st a c).2 2 = bit a (c - 1)) ∧
    (18 < c → bit (shiftCore 0 st a c).2 2 = false ∧ bit (shiftCore 1 st a c).2 2 = false) ∧
    (0 < c → bit (shiftCore 2 st a c).2 2 = if c ≤ 17 then bit a (c - 1) else bit a 17) ∧
    (bit (shiftCore 3 st a c).2 2 = if c % 18 = 0 then bit st 2 else bit (shiftCore 3 st a c).1 17)

/-- The least and the greatest signed value of `w` bits bound `satI`, which is the value itself where it fits. -/
def Clamped (w : Nat) (z x : Int) : Prop :=
  (z < -(2 : Int) ^ (w - 1) → x = -(2 : Int) ^ (w - 1)) ∧ ((2 : Int) ^ (w - 1) ≤ z → x = (2 : Int) ^ (w - 1) - 1) ∧
    (-(2 : Int) ^ (w - 1) ≤ z → z < (2 : Int) ^ (w - 1) → x = z)

/-- The products, the rounding and the accumulators as R332 to R336 give them. -/
def ProductFollows : Prop :=
  (∀ x y : Word18, prodCore x y false = (x.toInt * y.toInt, false) ∧
    (x ≠ 0o400000 ∨ y ≠ 0o400000 → prodCore x y true = (2 * (x.toInt * y.toInt), false))) ∧
  prodCore 0o400000 0o400000 true = (34359738367, true) ∧
  (∀ w z, 0 < w → Clamped w z (satI w z)) ∧
  (∀ st sat a b, let r := mulCore st sat a b
    let fits := -131072 ≤ a.toInt * b.toInt ∧ a.toInt * b.toInt ≤ 131071
    (fits → r.1.toInt = a.toInt * b.toInt) ∧ (¬fits → sat = true → r.1.toInt = if a.toInt * b.toInt < 0 then -131072 else 131071) ∧
    (sat = false → r.1 = a * b) ∧ (bit r.2 3 = true ↔ ¬fits) ∧ (bit r.2 4 = true ↔ bit st 4 = true ∨ (¬fits ∧ sat = true)) ∧
    ToldOf r.2 r.1 ∧ KeptBut st r.2 [0, 1, 3, 4]) ∧
  (∀ st v sh, let r := rndCore st v sh
    (sh = 0 → r = v) ∧ (fld st 5 2 = 0 → r * 2 ^ sh ≤ v ∧ v < r * 2 ^ sh + 2 ^ sh) ∧
    (fld st 5 2 ≠ 0 → 0 < sh → r * 2 ^ sh - 2 ^ (sh - 1) ≤ v ∧ v ≤ r * 2 ^ sh + 2 ^ (sh - 1)) ∧
    (fld st 5 2 = 1 → 0 < sh → v ≠ r * 2 ^ sh + 2 ^ (sh - 1)) ∧
    (fld st 5 2 = 2 → 0 < sh → (v = r * 2 ^ sh + 2 ^ (sh - 1) ∨ v = r * 2 ^ sh - 2 ^ (sh - 1)) → r % 2 = 0)) ∧
  (∀ st x, let r := clampCore st x
    let fits := -131072 ≤ x ∧ x ≤ 131071
    Clamped 18 x r.1.toInt ∧ (bit r.2 3 = true ↔ ¬fits) ∧ (bit r.2 4 = true ↔ bit st 4 = true ∨ ¬fits) ∧ ToldOf r.2 r.1 ∧
    KeptBut st r.2 [0, 1, 3, 4]) ∧
  (∀ st a b, mulfCore st a b = clampCore (if (prodCore a b true).2 then setBit st 4 true else st) (rndCore st (prodCore a b true).1 18)) ∧
  (∀ sat x, let r := acc44 sat x
    let fits := -(2 : Int) ^ 43 ≤ x ∧ x < (2 : Int) ^ 43
    (r.2 = true ↔ ¬fits) ∧ (fits → r.1.toInt = x) ∧ (sat = true → Clamped 44 x r.1.toInt) ∧ (sat = false → r.1 = BitVec.ofInt 44 x)) ∧
  ∀ st v x, (bit (stickS (setV st v) x) 3 = v) ∧ (bit (stickS (setV st v) x) 4 = (bit st 4 || x)) ∧ KeptBut st (stickS (setV st v) x) [3, 4]

/-- `n` steps of a division by `b`. -/
def divSteps (st b : Word18) : Nat → Word18 × Word18 → Word18 × Word18
  | 0, p => p
  | n + 1, p => divSteps st b n (dstepCore st p.1 p.2 b)

/-- DIV0 or DIV0U, eighteen DSTEPs and DIVF divide: the truncated quotient, clamped where it does not fit, and the remainder with the
dividend's sign; a divisor of zero gives all ones and the dividend (R337, R338). -/
def DivisionFollows : Prop :=
  ∀ (st : Word18) (sat : Bool) (a b : Word18),
    let sg := div0Core st false a b
    let un := div0Core st true a b
    let ps := divSteps sg.2.2 b 18 (sg.1, sg.2.1)
    let pu := divSteps un.2.2 b 18 (un.1, un.2.1)
    let rs := divfCore sg.2.2 sat ps.1 ps.2
    let ru := divfCore un.2.2 sat pu.1 pu.2
    (b ≠ 0 → rs.1 = (if sat = true then BitVec.ofInt 18 (satI 18 (a.toInt.tdiv b.toInt)) else BitVec.ofInt 18 (a.toInt.tdiv b.toInt)) ∧
      rs.2.1.toInt = a.toInt.tmod b.toInt ∧ ru.1.toNat = a.toNat / b.toNat ∧ ru.2.1.toNat = a.toNat % b.toNat) ∧
    (b = 0 → rs.1 = BitVec.allOnes 18 ∧ ru.1 = BitVec.allOnes 18 ∧ rs.2.1 = a ∧ ru.2.1 = a ∧ bit rs.2.2 3 = true) ∧
    bit rs.2.2 2 = false ∧ ToldOf rs.2.2 rs.1 ∧ ToldOf ru.2.2 ru.1

end Sys2Proof.Claims

namespace Sys2Proof.Claims

open Sys2Proof.Machine

/-- ADD, SUB, ADC, SBC, ADDI, SUBI, NEG and ABS. -/
def AddRows : Prop :=
  ∀ (s : State) (e : Fin 512) (t : Fin 4) (f : Bool) (d a b : Fin 16) (imm : Word18),
    Ready s e t →
    exec (.ngAdd e t f d a b) s = .next (wroteAlu s e t d fun th => addCore th.sw (satOn th.sw f) (ngReg th a) (ngReg th b) false) ∧
    exec (.ngSub e t f d a b) s = .next (wroteAlu s e t d fun th => addCore th.sw (satOn th.sw f) (ngReg th a) (~~~(ngReg th b)) true) ∧
    exec (.ngAdc e t f d a b) s = .next (wroteAlu s e t d fun th => addCore th.sw (satOn th.sw f) (ngReg th a) (ngReg th b) (bit th.sw 2)) ∧
    exec (.ngSbc e t f d a b) s = .next (wroteAlu s e t d fun th => addCore th.sw (satOn th.sw f) (ngReg th a) (~~~(ngReg th b)) (bit th.sw 2)) ∧
    exec (.ngAddi e t f d a imm) s = .next (wroteAlu s e t d fun th => addCore th.sw (satOn th.sw f) (ngReg th a) imm false) ∧
    exec (.ngSubi e t f d a imm) s = .next (wroteAlu s e t d fun th => addCore th.sw (satOn th.sw f) (ngReg th a) (~~~imm) true) ∧
    exec (.ngNeg e t f d a) s = .next (wroteAlu s e t d fun th => addCore th.sw (satOn th.sw f) 0 (~~~(ngReg th a)) true) ∧
    exec (.ngAbs e t f d a) s = .next (wroteAlu s e t d fun th => absCore th.sw (satOn th.sw f) (ngReg th a))

/-- CMP and CMPI: saturation off, the result discarded. -/
def CmpRows : Prop :=
  ∀ (s : State) (e : Fin 512) (t : Fin 4) (a b : Fin 16) (imm : Word18),
    Ready s e t →
    exec (.ngCmp e t a b) s = .next (threadDone s e t fun th => { th with sw := (addCore th.sw false (ngReg th a) (~~~(ngReg th b)) true).2 }) ∧
    exec (.ngCmpi e t a imm) s = .next (threadDone s e t fun th => { th with sw := (addCore th.sw false (ngReg th a) (~~~imm) true).2 })

end Sys2Proof.Claims

open Sys2Proof Sys2Proof.Machine Sys2Proof.Claims in
/-- R329. Completes: ngAdd, ngSub, ngAdc, ngSbc, ngCmp, ngAbs, ngNeg, ngAddi, ngSubi, ngCmpi. -/
def Obligations.AddsAndCompares : Prop :=
  AddRows ∧
  CmpRows ∧
  AddCoreFollows

namespace Sys2Proof.Claims

open Sys2Proof.Machine

/-- AND, OR, XOR, ANDN, MIN, MAX, their immediate forms, NOT, MOV and MOVI. -/
def LogicRows : Prop :=
  ∀ (s : State) (e : Fin 512) (t : Fin 4) (d a b : Fin 16) (imm : Word18),
    Ready s e t →
    exec (.ngAnd e t d a b) s = .next (wroteAlu s e t d fun th => ((ngReg th a) &&& (ngReg th b), setZN th.sw ((ngReg th a) &&& (ngReg th b)))) ∧
    exec (.ngOr e t d a b) s = .next (wroteAlu s e t d fun th => ((ngReg th a) ||| (ngReg th b), setZN th.sw ((ngReg th a) ||| (ngReg th b)))) ∧
    exec (.ngXor e t d a b) s = .next (wroteAlu s e t d fun th => ((ngReg th a) ^^^ (ngReg th b), setZN th.sw ((ngReg th a) ^^^ (ngReg th b)))) ∧
    exec (.ngAndn e t d a b) s = .next (wroteAlu s e t d fun th => ((ngReg th a) &&& ~~~(ngReg th b), setZN th.sw ((ngReg th a) &&& ~~~(ngReg th b)))) ∧
    exec (.ngAndi e t d a imm) s = .next (wroteAlu s e t d fun th => ((ngReg th a) &&& imm, setZN th.sw ((ngReg th a) &&& imm))) ∧
    exec (.ngOri e t d a imm) s = .next (wroteAlu s e t d fun th => ((ngReg th a) ||| imm, setZN th.sw ((ngReg th a) ||| imm))) ∧
    exec (.ngXori e t d a imm) s = .next (wroteAlu s e t d fun th => ((ngReg th a) ^^^ imm, setZN th.sw ((ngReg th a) ^^^ imm))) ∧
    exec (.ngMin e t d a b) s = .next (wroteAlu s e t d fun th => let r := BitVec.ofInt 18 (min (ngReg th a).toInt (ngReg th b).toInt); (r, setZN th.sw r)) ∧
    exec (.ngMax e t d a b) s = .next (wroteAlu s e t d fun th => let r := BitVec.ofInt 18 (max (ngReg th a).toInt (ngReg th b).toInt); (r, setZN th.sw r)) ∧
    exec (.ngNot e t d a) s = .next (wroteAlu s e t d fun th => (~~~(ngReg th a), setZN th.sw (~~~(ngReg th a)))) ∧
    exec (.ngMov e t d a) s = .next (wroteAlu s e t d fun th => ((ngReg th a), th.sw)) ∧
    exec (.ngMovi e t d imm) s = .next (wroteAlu s e t d fun th => (imm, th.sw))

/-- TST and NOP. -/
def TstRows : Prop :=
  ∀ (s : State) (e : Fin 512) (t : Fin 4) (a b : Fin 16),
    Ready s e t →
    exec (.ngTst e t a b) s = .next (threadDone s e t fun th => { th with sw := setZN th.sw ((ngReg th a) &&& (ngReg th b)) }) ∧
    exec (.ngNop e t ) s = .next (threadDone s e t fun th => th)

end Sys2Proof.Claims

open Sys2Proof Sys2Proof.Machine Sys2Proof.Claims in
/-- R330 with NOP of R360. Completes: ngAnd, ngOr, ngXor, ngAndn, ngTst, ngMin, ngMax, ngNot, ngMov, ngAndi, ngOri, ngXori, ngMovi, ngNop. -/
def Obligations.LogicAndMoves : Prop :=
  LogicRows ∧
  TstRows ∧
  SetZNFollows

namespace Sys2Proof.Claims

open Sys2Proof.Machine

/-- SLL, SRL, SRA and ROR by a register. -/
def ShiftRows : Prop :=
  ∀ (s : State) (e : Fin 512) (t : Fin 4) (d a b : Fin 16),
    Ready s e t →
    exec (.ngSll e t d a b) s = .next (wroteAlu s e t d fun th => shiftCore 0 th.sw (ngReg th a) (ngReg th b).toNat) ∧
    exec (.ngSrl e t d a b) s = .next (wroteAlu s e t d fun th => shiftCore 1 th.sw (ngReg th a) (ngReg th b).toNat) ∧
    exec (.ngSra e t d a b) s = .next (wroteAlu s e t d fun th => shiftCore 2 th.sw (ngReg th a) (ngReg th b).toNat) ∧
    exec (.ngRor e t d a b) s = .next (wroteAlu s e t d fun th => shiftCore 3 th.sw (ngReg th a) (ngReg th b).toNat)

/-- SLLI, SRLI and SRAI. -/
def ShiftImm : Prop :=
  ∀ (s : State) (e : Fin 512) (t : Fin 4) (d a : Fin 16) (c : Fin 32),
    Ready s e t →
    exec (.ngSlli e t d a c) s = .next (wroteAlu s e t d fun th => shiftCore 0 th.sw (ngReg th a) c.val) ∧
    exec (.ngSrli e t d a c) s = .next (wroteAlu s e t d fun th => shiftCore 1 th.sw (ngReg th a) c.val) ∧
    exec (.ngSrai e t d a c) s = .next (wroteAlu s e t d fun th => shiftCore 2 th.sw (ngReg th a) c.val)

/-- RORI with a count below 18. -/
def RorImm : Prop :=
  ∀ (s : State) (e : Fin 512) (t : Fin 4) (d a : Fin 16) (c : Fin 32),
    Ready s e t →
    c.val < 18 →
    exec (.ngRori e t d a c) s = .next (wroteAlu s e t d fun th => shiftCore 3 th.sw (ngReg th a) c.val)

/-- RORI with a count from 18 is reserved: the thread faults with RSVD (R325, R362). -/
def RorReserved : Prop :=
  ∀ (s : State) (e : Fin 512) (t : Fin 4) (d a : Fin 16) (c : Fin 32),
    Ready s e t →
    18 ≤ c.val →
    exec (.ngRori e t d a c) s = .next (ngFault (atSlot s e t) e t (nextSlot s e t) 2)

end Sys2Proof.Claims

open Sys2Proof Sys2Proof.Machine Sys2Proof.Claims in
/-- R331. Completes: ngSll, ngSrl, ngSra, ngRor, ngSlli, ngSrli, ngSrai, ngRori. -/
def Obligations.Shifts : Prop :=
  ShiftRows ∧
  ShiftImm ∧
  RorImm ∧
  RorReserved ∧
  ShiftFollows

namespace Sys2Proof.Claims

open Sys2Proof.Machine

/-- MUL, MULH, MULHU and MULF. -/
def MulRows : Prop :=
  ∀ (s : State) (e : Fin 512) (t : Fin 4) (f : Bool) (d a b : Fin 16),
    Ready s e t →
    exec (.ngMul e t f d a b) s = .next (wroteAlu s e t d fun th => mulCore th.sw (satOn th.sw f) (ngReg th a) (ngReg th b)) ∧
    exec (.ngMulh e t d a b) s = .next (wroteAlu s e t d fun th => let r := BitVec.ofInt 18 ((ngReg th a).toInt * (ngReg th b).toInt / 262144); (r, setZN th.sw r)) ∧
    exec (.ngMulhu e t d a b) s = .next (wroteAlu s e t d fun th => let r := BitVec.ofNat 18 ((ngReg th a).toNat * (ngReg th b).toNat / 262144); (r, setZN th.sw r)) ∧
    exec (.ngMulf e t f d a b) s = .next (wroteAlu s e t d fun th => mulfCore th.sw (ngReg th a) (ngReg th b))

/-- MAC2, MPY2 and MACS: the two products with their signs, added to the accumulators. -/
def MacRows : Prop :=
  ∀ (s : State) (e : Fin 512) (t : Fin 4) (f : Bool) (a b c g : Fin 16) (fr n0 n1 : Bool),
    Ready s e t →
    exec (.ngMac2 e t f a b c g fr n0 n1) s = .next (threadDone s e t fun th => let p := twoProds th a b c g fr n0 n1; let sat := satOn th.sw f; let x := acc44 sat (th.acc0.toInt + p.1); let y := acc44 sat (th.acc1.toInt + p.2.1); { th with acc0 := x.1, acc1 := y.1, sw := stickS (setV th.sw (x.2 || y.2)) (p.2.2 || ((x.2 || y.2) && sat)) }) ∧
    exec (.ngMpy2 e t f a b c g fr n0 n1) s = .next (threadDone s e t fun th => let p := twoProds th a b c g fr n0 n1; { th with acc0 := BitVec.ofInt 44 p.1, acc1 := BitVec.ofInt 44 p.2.1, sw := stickS (setV th.sw false) p.2.2 }) ∧
    exec (.ngMacs e t f a b c g fr n0 n1) s = .next (threadDone s e t fun th => let p := twoProds th a b c g fr n0 n1; let sat := satOn th.sw f; let x := acc44 sat (th.acc0.toInt + p.1 + p.2.1); { th with acc0 := x.1, sw := stickS (setV th.sw x.2) (p.2.2 || (x.2 && sat)) })

/-- The products of MAC2, MPY2 and MACS: na × nb and nc × ne, doubled when FR, negated when N0 and N1 (R334). -/
def TwoProducts : Prop :=
  ∀ (th : NgThread) (a b c g : Fin 16) (fr n0 n1 : Bool),
    twoProds th a b c g fr n0 n1 = ((if n0 then -1 else 1) * (prodCore (ngReg th a) (ngReg th b) fr).1, (if n1 then -1 else 1) * (prodCore (ngReg th c) (ngReg th g) fr).1,
      (prodCore (ngReg th a) (ngReg th b) fr).2 || (prodCore (ngReg th c) (ngReg th g) fr).2)

/-- EXTR: the rounded accumulator, clamped to a word. -/
def ExtrRows : Prop :=
  ∀ (s : State) (e : Fin 512) (t : Fin 4) (d a : Fin 16) (sh : Fin 64),
    Ready s e t →
    a.val < 2 →
    sh.val < 44 →
    exec (.ngExtr e t d a sh) s = .next (wroteAlu s e t d fun th => clampCore th.sw (rndCore th.sw (if a = 0 then th.acc0 else th.acc1).toInt sh.val))

/-- AADD and ASUB. -/
def AccRows : Prop :=
  ∀ (s : State) (e : Fin 512) (t : Fin 4) (f : Bool) (a : Fin 16),
    Ready s e t →
    a.val < 2 →
    exec (.ngAadd e t f a) s = .next (threadDone s e t fun th => let x := acc44 (satOn th.sw f) (th.acc0.toInt + th.acc1.toInt); { th with acc0 := if a = 0 then x.1 else th.acc0, acc1 := if a = 0 then th.acc1 else x.1, sw := stickS (setV th.sw x.2) (x.2 && satOn th.sw f) }) ∧
    exec (.ngAsub e t f a) s = .next (threadDone s e t fun th => let x := acc44 (satOn th.sw f) (th.acc0.toInt - th.acc1.toInt); { th with acc0 := if a = 0 then x.1 else th.acc0, acc1 := if a = 0 then th.acc1 else x.1, sw := stickS (setV th.sw x.2) (x.2 && satOn th.sw f) })

/-- ACLR of accumulator 0, of 1, and of both. -/
def AclrRows : Prop :=
  ∀ (s : State) (e : Fin 512) (t : Fin 4) ,
    Ready s e t →
    exec (.ngAclr e t 0) s = .next (threadDone s e t fun th => { th with acc0 := 0 }) ∧
    exec (.ngAclr e t 1) s = .next (threadDone s e t fun th => { th with acc1 := 0 }) ∧
    exec (.ngAclr e t 2) s = .next (threadDone s e t fun th => { th with acc0 := 0, acc1 := 0 })

/-- A reserved accumulator, or a shift of 44 or more, faults with RSVD (R325, R336, R362). -/
def AccReserved : Prop :=
  ∀ (s : State) (e : Fin 512) (t : Fin 4) (f : Bool) (d a : Fin 16) (sh : Fin 64),
    Ready s e t →
    let x : Host.Outcome State Fault Refusal := .next (ngFault (atSlot s e t) e t (nextSlot s e t) 2)
    (2 ≤ a.val → exec (.ngAadd e t f a) s = x ∧ exec (.ngAsub e t f a) s = x) ∧ (3 ≤ a.val → exec (.ngAclr e t a) s = x) ∧
    (2 ≤ a.val ∨ 44 ≤ sh.val → exec (.ngExtr e t d a sh) s = x)

end Sys2Proof.Claims

open Sys2Proof Sys2Proof.Machine Sys2Proof.Claims in
/-- R332 to R336. Completes: ngMul, ngMulh, ngMulhu, ngMulf, ngMac2, ngMpy2, ngMacs, ngExtr, ngAclr, ngAadd, ngAsub. -/
def Obligations.ProductsAndAccumulators : Prop :=
  MulRows ∧
  MacRows ∧
  TwoProducts ∧
  ExtrRows ∧
  AccRows ∧
  AclrRows ∧
  AccReserved ∧
  ProductFollows

namespace Sys2Proof.Claims

open Sys2Proof.Machine

/-- DIV0, DIV0U, DSTEP and DIVF on an even pair: the first three write the pair two ticks after the issue, DIVF three. -/
def DivRows : Prop :=
  ∀ (s : State) (e : Fin 512) (t : Fin 4) (f : Bool) (d a b : Fin 16),
    Ready s e t →
    d.val % 2 = 0 →
    exec (.ngDiv0 e t d a b) s = .next (threadDone s e t fun th => let r := div0Core th.sw false (ngReg th a) (ngReg th b); ngWrite (ngWrite { th with sw := r.2.2 } (nextSlot s e t + 2) d.val r.1 false) (nextSlot s e t + 2) (d.val + 1) r.2.1 false) ∧
    exec (.ngDiv0u e t d a b) s = .next (threadDone s e t fun th => let r := div0Core th.sw true (ngReg th a) (ngReg th b); ngWrite (ngWrite { th with sw := r.2.2 } (nextSlot s e t + 2) d.val r.1 false) (nextSlot s e t + 2) (d.val + 1) r.2.1 false) ∧
    exec (.ngDstep e t d b) s = .next (threadDone s e t fun th => let r := dstepCore th.sw (ngReg th d.val) (ngReg th (d.val + 1)) (ngReg th b); ngWrite (ngWrite th (nextSlot s e t + 2) d.val r.1 false) (nextSlot s e t + 2) (d.val + 1) r.2 false) ∧
    exec (.ngDivf e t f d) s = .next (threadDone s e t fun th => let r := divfCore th.sw (satOn th.sw f) (ngReg th d.val) (ngReg th (d.val + 1)); ngWrite (ngWrite { th with sw := r.2.2 } (nextSlot s e t + 3) d.val r.1 false) (nextSlot s e t + 3) (d.val + 1) r.2.1 false)

/-- An odd d is reserved (R325, R337, R362). -/
def DivReserved : Prop :=
  ∀ (s : State) (e : Fin 512) (t : Fin 4) (f : Bool) (d a b : Fin 16),
    Ready s e t →
    d.val % 2 = 1 →
    let x : Host.Outcome State Fault Refusal := .next (ngFault (atSlot s e t) e t (nextSlot s e t) 2)
    exec (.ngDiv0 e t d a b) s = x ∧ exec (.ngDiv0u e t d a b) s = x ∧ exec (.ngDstep e t d b) s = x ∧ exec (.ngDivf e t f d) s = x

end Sys2Proof.Claims

open Sys2Proof Sys2Proof.Machine Sys2Proof.Claims in
/-- R337, R338. Completes: ngDiv0, ngDiv0u, ngDstep, ngDivf. -/
def Obligations.Divisions : Prop :=
  DivRows ∧
  DivReserved ∧
  DivisionFollows

namespace Sys2Proof.Claims

open Sys2Proof.Machine

/-- What an instruction of one slot that sets the thread to `th` leaves before its end. -/
def withThr (s : State) (e : Fin 512) (t : Fin 4) (th : NgThread) : State := updThr (checked s e t) e t fun _ => th

/-- The control registers that MFC reads (R359). -/
def crListed : List Nat :=
  [0, 1, 2, 3] ++ (List.range 6).map (8 + ·) ++ (List.range 9).map (16 + ·) ++ (List.range 8).map (32 + ·) ++ (List.range 4).map (40 + ·)

/-- The control registers that MTC writes. -/
def crWritable : List Nat := [0] ++ (List.range 6).map (8 + ·) ++ (List.range 9).map (16 + ·) ++ (List.range 8).map (32 + ·)

end Sys2Proof.Claims

namespace Sys2Proof.Claims

open Sys2Proof.Machine

/-- MFC (R359, R371): the register's content goes to nd; a read of DT0 latches bits 63:18 of device time, and one of ST reads in E, two ticks
after the issue. Which tick DT0 reads and latches, the issue tick, is the model's reading (log entry 56). -/
def MfcRow : Prop :=
  ∀ (s : State) (e : Fin 512) (t : Fin 4) (d : Fin 16) (cr : Fin 256) (v : Word18),
    Ready s e t →
    crRead (checked s e t) e t (nextSlot s e t) cr = some v →
    exec (.ngMfc e t d cr) s = .next (seqDone s (updThr (checked s e t) e t fun th =>
      let th := if cr = 0o050 then { th with tlat := BitVec.ofNat 46 (nextSlot s e t / 2 ^ 18) } else th
      { th with pend := th.pend ++ [{ due := nextSlot s e t + 3, reg := d.val % 16, val := v, load := false, st := if cr = 0 then some (nextSlot s e t + 2) else none }] }) e t 1)

/-- MFC of a number that is not listed (R359): VALUE. -/
def MfcReserved : Prop :=
  ∀ (s : State) (e : Fin 512) (t : Fin 4) (d : Fin 16) (cr : Fin 256),
    Ready s e t →
    cr.val ∉ crListed →
    exec (.ngMfc e t d cr) s = .next (ngFault (atSlot s e t) e t (nextSlot s e t) 8)

/-- MTC (R359): the register takes na for the next instruction; RL of a remote answer that is late before a write of ST is overwritten. -/
def MtcRow : Prop :=
  ∀ (s : State) (e : Fin 512) (t : Fin 4) (a : Fin 16) (cr : Fin 256) (th : NgThread),
    Ready s e t →
    crWrite (bodyThr s e t) cr (ngReg (bodyThr s e t) a) = some th →
    exec (.ngMtc e t a cr) s = .next (seqDone s (withThr s e t (if cr = 0 then stWritten th (nextSlot s e t + 2) else th)) e t 1)

/-- MTC of an unlisted or read-only register, of a rounding mode 0b11 and of an odd START or END (R359): VALUE. -/
def MtcRefused : Prop :=
  ∀ (s : State) (e : Fin 512) (t : Fin 4) (a : Fin 16) (cr : Fin 256),
    Ready s e t →
    (cr.val ∉ crWritable ∨ (cr.val = 0 ∧ fld (ngReg (bodyThr s e t) a) 5 2 = 3) ∨ (0o020 ≤ cr.val ∧ cr.val < 0o031 ∧ cr.val % 3 ≠ 0 ∧ bit (ngReg (bodyThr s e t) a) 0 = true)) →
    exec (.ngMtc e t a cr) s = .next (ngFault (atSlot s e t) e t (nextSlot s e t) 8)

/-- What MFC reads of each register (R359). -/
def CrTable : Prop :=
  ∀ (s : State) (e : Fin 512) (t : Fin 4) (i : Nat) (k : Fin 4) (j : Fin 3),
    let th := thr s e t
    crRead s e t i 0o000 = some th.sw ∧ crRead s e t i 0o001 = some th.pc ∧
    crRead s e t i 0o002 = some (BitVec.ofNat 18 (t.val + 4 * (e.val % 16) + 64 * (e.val / 16))) ∧
    crRead s e t i 0o003 = some (BitVec.ofNat 18 (th.rq.length + 8 * (headReady th i).toNat + 16 * postedWrites s e t)) ∧
    crRead s e t i 0o010 = some (BitVec.ofNat 18 th.acc0.toNat) ∧ crRead s e t i 0o011 = some (BitVec.ofNat 18 (th.acc0.toNat / 2 ^ 18)) ∧
    crRead s e t i 0o012 = some ((th.acc0.extractLsb' 36 8).signExtend 18) ∧
    crRead s e t i 0o013 = some (BitVec.ofNat 18 th.acc1.toNat) ∧ crRead s e t i 0o014 = some (BitVec.ofNat 18 (th.acc1.toNat / 2 ^ 18)) ∧
    crRead s e t i 0o015 = some ((th.acc1.extractLsb' 36 8).signExtend 18) ∧
    crRead s e t i (0o020 + 3 * j.val) = some (SMap.get 0 th.lpS j) ∧ crRead s e t i (0o021 + 3 * j.val) = some (SMap.get 0 th.lpE j) ∧
    crRead s e t i (0o022 + 3 * j.val) = some (SMap.get 0 th.lpC j) ∧
    crRead s e t i (0o040 + k.val) = some (SMap.get 0 th.m k) ∧ crRead s e t i (0o044 + k.val) = some (SMap.get 0 th.l k) ∧
    crRead s e t i 0o050 = some (BitVec.ofNat 18 i) ∧ crRead s e t i 0o051 = some (BitVec.ofNat 18 th.tlat.toNat) ∧
    crRead s e t i 0o052 = some (BitVec.ofNat 18 (th.tlat.toNat / 2 ^ 18)) ∧ crRead s e t i 0o053 = some (BitVec.ofNat 18 (th.tlat.toNat / 2 ^ 36))

/-- What MTC writes to each register (R359). -/
def CrSets : Prop :=
  ∀ (th : NgThread) (v : Word18) (k : Fin 4) (j : Fin 3),
    (fld v 5 2 ≠ 3 → crWrite th 0o000 v = some { th with sw := v &&& 0o177777 }) ∧
    (∃ x, crWrite th 0o010 v = some { th with acc0 := x } ∧ x.toNat = th.acc0.toNat / 2 ^ 18 * 2 ^ 18 + v.toNat) ∧
    (∃ x, crWrite th 0o011 v = some { th with acc0 := x } ∧ x.toNat = th.acc0.toNat / 2 ^ 36 * 2 ^ 36 + v.toNat * 2 ^ 18 + th.acc0.toNat % 2 ^ 18) ∧
    (∃ x, crWrite th 0o012 v = some { th with acc0 := x } ∧ x.toNat = v.toNat % 256 * 2 ^ 36 + th.acc0.toNat % 2 ^ 36) ∧
    (∃ x, crWrite th 0o013 v = some { th with acc1 := x } ∧ x.toNat = th.acc1.toNat / 2 ^ 18 * 2 ^ 18 + v.toNat) ∧
    (∃ x, crWrite th 0o014 v = some { th with acc1 := x } ∧ x.toNat = th.acc1.toNat / 2 ^ 36 * 2 ^ 36 + v.toNat * 2 ^ 18 + th.acc1.toNat % 2 ^ 18) ∧
    (∃ x, crWrite th 0o015 v = some { th with acc1 := x } ∧ x.toNat = v.toNat % 256 * 2 ^ 36 + th.acc1.toNat % 2 ^ 36) ∧
    (bit v 0 = false → crWrite th (0o020 + 3 * j.val) v = some { th with lpS := SMap.set 0 th.lpS j v } ∧
      crWrite th (0o021 + 3 * j.val) v = some { th with lpE := SMap.set 0 th.lpE j v }) ∧
    crWrite th (0o022 + 3 * j.val) v = some { th with lpC := SMap.set 0 th.lpC j v } ∧
    crWrite th (0o040 + k.val) v = some { th with m := SMap.set 0 th.m k v } ∧ crWrite th (0o044 + k.val) v = some { th with l := SMap.set 0 th.l k v }

end Sys2Proof.Claims

open Sys2Proof Sys2Proof.Machine Sys2Proof.Claims in
/-- R359. Completes: ngMfc, ngMtc. -/
def Obligations.ControlRegisters : Prop :=
  MfcRow ∧
  MfcReserved ∧
  MtcRow ∧
  MtcRefused ∧
  CrTable ∧
  CrSets

namespace Sys2Proof.Claims

open Sys2Proof.Machine

/-- BR and the tests of a register (R351, R352): the delay slot follows; then the target where taken, else the address after it; with f a branch not taken annuls its delay slot. -/
def CondBranch : Prop :=
  ∀ (s : State) (e : Fin 512) (t : Fin 4) (f : Bool) (cond a : Fin 16) (target : Word18),
    ReadyCt s e t →
    activeEnd (bodyThr s e t) ((bodyThr s e t).pc + 2) = false →
    bit target 0 = false →
    exec (.ngBr e t f cond target) s = .next (branchDone s (withThr s e t (bodyThr s e t)) e t target (brCond (bodyThr s e t).sw cond) f) ∧
    exec (.ngBz e t f a target) s = .next (branchDone s (withThr s e t (bodyThr s e t)) e t target (decide ((ngReg (bodyThr s e t) a).toInt = 0)) f) ∧
    exec (.ngBnz e t f a target) s = .next (branchDone s (withThr s e t (bodyThr s e t)) e t target (decide ((ngReg (bodyThr s e t) a).toInt ≠ 0)) f) ∧
    exec (.ngBltz e t f a target) s = .next (branchDone s (withThr s e t (bodyThr s e t)) e t target (decide ((ngReg (bodyThr s e t) a).toInt < 0)) f) ∧
    exec (.ngBgez e t f a target) s = .next (branchDone s (withThr s e t (bodyThr s e t)) e t target (decide (0 ≤ (ngReg (bodyThr s e t) a).toInt)) f) ∧
    exec (.ngBlez e t f a target) s = .next (branchDone s (withThr s e t (bodyThr s e t)) e t target (decide ((ngReg (bodyThr s e t) a).toInt ≤ 0)) f) ∧
    exec (.ngBgtz e t f a target) s = .next (branchDone s (withThr s e t (bodyThr s e t)) e t target (decide (0 < (ngReg (bodyThr s e t) a).toInt)) f)

/-- CALL, JR and JALR (R353): always taken; the link is PC + 4. -/
def Jumps : Prop :=
  ∀ (s : State) (e : Fin 512) (t : Fin 4) (d a : Fin 16) (target : Word18),
    ReadyCt s e t →
    activeEnd (bodyThr s e t) ((bodyThr s e t).pc + 2) = false →
    bit target 0 = false →
    exec (.ngCall e t d target) s = .next (branchDone s (withThr s e t (ngWrite (bodyThr s e t) (nextSlot s e t + 3) d ((bodyThr s e t).pc + 4) false)) e t target true false) ∧
    exec (.ngJr e t a) s = .next (branchDone s (withThr s e t (bodyThr s e t)) e t (ngReg (bodyThr s e t) a) true false) ∧
    exec (.ngJalr e t d a) s = .next (branchDone s (withThr s e t (ngWrite (bodyThr s e t) (nextSlot s e t + 3) d ((bodyThr s e t).pc + 4) false)) e t (ngReg (bodyThr s e t) a) true false)

/-- The sixteen conditions of BR (R352). -/
def Conditions : Prop :=
  ∀ (st : Word18),
    let z := bit st 0; let n := bit st 1; let c := bit st 2; let v := bit st 3
    (List.range 16).map (fun k => brCond st (Fin.ofNat 16 k)) =
      [z, !z, n != v, n == v, z || n != v, !z && n == v, !c, c, !c || z, c && !z, n, !n, v, !v, bit st 4, true]

/-- LOOP (R355): with a count the set starts and the body follows; with a count of zero the thread goes on after the END and the set is inactive. -/
def LoopRow : Prop :=
  ∀ (s : State) (e : Fin 512) (t : Fin 4) (k a : Fin 16) (endA : Word18),
    ReadyCt s e t →
    k.val < 3 →
    bit endA 0 = false →
    ((bodyThr s e t).pc + 2).toNat ≤ endA.toNat →
    let th := bodyThr s e t
    let n := ngReg th a
    exec (.ngLoop e t k a endA) s = .next (finished s (withThr s e t { th with lpS := SMap.set 0 th.lpS k (th.pc + 2), lpE := SMap.set 0 th.lpE k endA, lpC := SMap.set 0 th.lpC k n, sw := setBit th.sw (12 + k.val) (decide (n ≠ 0)) }) e t 1 fun x => { x with pc := if n = 0 then endA + 2 else th.pc + 2, dslot := none, rete := none })

/-- A loop set above 2 or an odd END is reserved, and so is an odd target; an END before the body is LOOPEND (R325, R353, R355, R362). -/
def LoopReserved : Prop :=
  ∀ (s : State) (e : Fin 512) (t : Fin 4) (f : Bool) (cond d k a : Fin 16) (target : Word18),
    ReadyCt s e t →
    let x : Host.Outcome State Fault Refusal := .next (ngFault (atSlot s e t) e t (nextSlot s e t) 2)
    (bit target 0 = true ∨ 3 ≤ k.val → exec (.ngLoop e t k a target) s = x) ∧
    (bit target 0 = true → exec (.ngBr e t f cond target) s = x ∧ exec (.ngBz e t f a target) s = x ∧ exec (.ngBnz e t f a target) s = x ∧
      exec (.ngBltz e t f a target) s = x ∧ exec (.ngBgez e t f a target) s = x ∧ exec (.ngBlez e t f a target) s = x ∧ exec (.ngBgtz e t f a target) s = x ∧
      exec (.ngCall e t d target) s = x) ∧
    (bit target 0 = false → k.val < 3 → target.toNat < ((bodyThr s e t).pc + 2).toNat →
      exec (.ngLoop e t k a target) s = .next (ngFault (atSlot s e t) e t (nextSlot s e t) 7))

/-- The loop check (R356): an END with a count above one goes back and counts down; with one it ends the set. -/
def LoopBack : Prop :=
  ∀ (th : NgThread) (k : Fin 3) (x : Word18),
    bit th.sw (12 + k.val) = true →
    SMap.get 0 th.lpE k = x →
    (List.range 3).all (fun j => decide (j ≤ k.val) || !(bit th.sw (12 + j) && decide (SMap.get 0 th.lpE j = x))) = true →
    (1 < (SMap.get 0 th.lpC k).toNat → loopCheck th x = ({ th with lpC := SMap.set 0 th.lpC k (SMap.get 0 th.lpC k - 1) }, some (SMap.get 0 th.lpS k))) ∧
    ((SMap.get 0 th.lpC k).toNat ≤ 1 → loopCheck th x = loopCheck { th with lpC := SMap.set 0 th.lpC k 0, sw := setBit th.sw (12 + k.val) false } x)

/-- A control transfer in a delay slot, at the END of an active loop, or with its delay slot there (R354, R357, R362): DSLOT, LOOPEND. -/
def Traps : Prop :=
  ∀ (s : State) (e : Fin 512) (t : Fin 4) (f : Bool) (a : Fin 16),
    Ready s e t →
    let th := slotThr s e t
    (th.dslot.isSome = true → exec (.ngJr e t a) s = .next (ngFault (atSlot s e t) e t (nextSlot s e t) 6) ∧ exec (.ngHalt e t) s = .next (ngFault (atSlot s e t) e t (nextSlot s e t) 6) ∧
      exec (.ngWait e t) s = .next (ngFault (atSlot s e t) e t (nextSlot s e t) 6) ∧ exec (.ngRete e t) s = .next (ngFault (atSlot s e t) e t (nextSlot s e t) 6)) ∧
    (th.dslot = none → activeEnd th th.pc = true → exec (.ngJr e t a) s = .next (ngFault (atSlot s e t) e t (nextSlot s e t) 7) ∧
      exec (.ngHalt e t) s = .next (ngFault (atSlot s e t) e t (nextSlot s e t) 7)) ∧
    (th.dslot = none → activeEnd th th.pc = false → activeEnd th (th.pc + 2) = true → exec (.ngJr e t a) s = .next (ngFault (atSlot s e t) e t (nextSlot s e t) 7))

/-- An instruction at an odd address or outside 0o000000 to 0o067777 (R113, R362): FETCH, before any other cause. -/
def BadFetch : Prop :=
  ∀ (s : State) (e : Fin 512) (t : Fin 4) (f : Bool) (d a b : Fin 16) (x : BitVec 36),
    canIssue s e t = true →
    annulled (slotThr s e t) = false →
    ((slotThr s e t).pc.toNat % 2 = 1 ∨ 0o070000 ≤ (slotThr s e t).pc.toNat) →
    exec (.ngAdd e t f d a b) s = .next (ngFault (atSlot s e t) e t (nextSlot s e t) 3) ∧ exec (.ngJr e t a) s = .next (ngFault (atSlot s e t) e t (nextSlot s e t) 3) ∧
    exec (.ngUnallocated e t x) s = .next (ngFault (atSlot s e t) e t (nextSlot s e t) 3)

/-- A slot whose instruction lies in a quad with an uncorrectable word (R385): the engine's threads all halt, 0x81 names the word, and
nothing issues. -/
def FetchStopped : Prop :=
  ∀ (s : State) (e : Fin 512) (t : Fin 4) (f : Bool) (d a b : Fin 16) (x : BitVec 36) (w : Nat),
    slotFree s e t = true →
    badFetch s e t = some w →
    let u : Host.Outcome State Fault Refusal := .next (lmStop (advanceTo s (nextSlot s e t)) e w)
    exec (.ngAdd e t f d a b) s = u ∧ exec (.ngJr e t a) s = u ∧ exec (.ngUnallocated e t x) s = u

/-- R385: what an uncorrectable word of local memory stops: every thread of the engine is HALTED, and 0x81 is recorded, contained, with the
word's address. -/
def LocalStop : Prop :=
  ∀ (s : State) (e : Fin 512) (w : Nat),
    lmStop s e w = recContained (ngStopAll s e) (.nce e) 0x81 w ∧
    ∀ (t : Fin 4), (thr (ngStopAll s e) e t).st = 0

/-- An annulled delay slot (R351): one slot, no effect and no fault, whatever stands there; then the address after it. -/
def AnnulledSlot : Prop :=
  ∀ (s : State) (e : Fin 512) (t : Fin 4) (f : Bool) (d a b : Fin 16) (x : BitVec 36) (npc : Word18),
    canIssue s e t = true →
    (slotThr s e t).dslot = some (npc, true) →
    let u : Host.Outcome State Fault Refusal := .next (endStep (updThr (atSlot s e t) e t fun th => { th with dslot := none, pc := npc, next := nextSlot s e t + slotPeriod s e }) e t (decide ((slotThr s e t).st = 3)))
    exec (.ngAdd e t f d a b) s = u ∧ exec (.ngJr e t a) s = u ∧ exec (.ngUnallocated e t x) s = u

end Sys2Proof.Claims

open Sys2Proof Sys2Proof.Machine Sys2Proof.Claims in
/-- R351 to R357 and the causes of R362. Completes: ngBr, ngBz, ngBnz, ngBltz, ngBgez, ngBlez, ngBgtz, ngCall, ngJr, ngJalr, ngLoop. -/
def Obligations.Branches : Prop :=
  CondBranch ∧
  Jumps ∧
  Conditions ∧
  LoopRow ∧
  LoopReserved ∧
  LoopBack ∧
  Traps ∧
  BadFetch ∧
  FetchStopped ∧
  LocalStop ∧
  AnnulledSlot

namespace Sys2Proof.Claims

open Sys2Proof.Machine

/-- HALT (R360): the thread stops with PC at the next instruction. -/
def HaltRow : Prop :=
  ∀ (s : State) (e : Fin 512) (t : Fin 4),
    ReadyCt s e t →
    exec (.ngHalt e t) s = .next (finished s (checked s e t) e t 1 fun th => { haltThread th with pc := (slotThr s e t).pc + 2 })

/-- WAIT (R360, R381): the thread waits (a stepping one ends its step); a halt requested before ends the wait at once. -/
def WaitRow : Prop :=
  ∀ (s : State) (e : Fin 512) (t : Fin 4),
    ReadyCt s e t →
    exec (.ngWait e t) s = .next (endStep (waitHalt (updThr (checked s e t) e t fun th =>
      { th with next := nextSlot s e t + slotPeriod s e, entered := false, pc := (slotThr s e t).pc + 2, st := if th.st = 3 then 3 else 2, rete := none }) e t) e t (decide ((slotThr s e t).st = 3)))

/-- RETE (R393): the thread goes on to its next slot, with ACTIVE, LEVEL and ST as they are until then. -/
def ReteRow : Prop :=
  ∀ (s : State) (e : Fin 512) (t : Fin 4),
    ReadyCt s e t →
    (bodyThr s e t).active ≠ 0 →
    exec (.ngRete e t) s = .next (finished s (updThr (checked s e t) e t fun th => { th with rete := some (topActive (bodyThr s e t).active), reteAt := nextSlot s e t + 2 }) e t 1 fun th => th)

/-- R393: where no level is entered in that slot, PC and ST come back from the SPC and SST of the level left, whose ACTIVE bit clears, and
LEVEL is the highest level that stays active; ST is written in the RETE's E tick, over an RL of before it (R371). -/
def ReteRestores : Prop :=
  ∀ (th : NgThread) (q : Nat),
    th.rete = some q →
    let u := reteRestore th
    u.pc = SMap.get 0 th.spc q ∧ u.sw = SMap.get 0 th.sst q &&& 0o177777 ∧ u.active = th.active &&& (7 - 2 ^ (q - 1)) ∧
      u.level = topActive u.active ∧ u.prds = (stWritten th th.reteAt).prds ∧ u.rete = none ∧ u.n = th.n ∧ u.pend = th.pend ∧ u.next = th.next

/-- RETE with no ACTIVE bit set (R393): nothing changes and the thread goes on. -/
def ReteNone : Prop :=
  ∀ (s : State) (e : Fin 512) (t : Fin 4),
    ReadyCt s e t →
    (bodyThr s e t).active = 0 →
    exec (.ngRete e t) s = .next (seqDone s (checked s e t) e t 1)

/-- SIG (R360, R386): a software source of an engine of the cluster becomes pending. -/
def SigRow : Prop :=
  ∀ (s : State) (e : Fin 512) (t : Fin 4) (g : Fin 16) (src : Fin 64),
    Ready s e t →
    (32 ≤ src.val ∧ src.val < 48) →
    exec (.ngSig e t g src) s = .next (seqDone s (setSource (checked s e t) (Fin.ofNat 512 (e.val / 16 * 16 + g.val)) src (nextSlot s e t + 2)) e t 1)

/-- CLRE (R360, R386): a source of the engine is cleared. -/
def ClreRow : Prop :=
  ∀ (s : State) (e : Fin 512) (t : Fin 4) (src : Fin 64),
    Ready s e t →
    src.val < 57 →
    exec (.ngClre e t src) s = .next (seqDone s (clearSource (checked s e t) e src (nextSlot s e t + 2)) e t 1)

/-- SIG of a source other than 32 to 47 and CLRE from 57 on are reserved (R325, R360, R386). -/
def SigReserved : Prop :=
  ∀ (s : State) (e : Fin 512) (t : Fin 4) (g : Fin 16) (src : Fin 64),
    Ready s e t →
    (src.val < 32 ∨ 48 ≤ src.val → exec (.ngSig e t g src) s = .next (ngFault (atSlot s e t) e t (nextSlot s e t) 2)) ∧ (57 ≤ src.val → exec (.ngClre e t src) s = .next (ngFault (atSlot s e t) e t (nextSlot s e t) 2))

/-- EDI and EEI (R360): the event enable is read and cleared, and set. -/
def EdiEei : Prop :=
  ∀ (s : State) (e : Fin 512) (t : Fin 4) (d : Fin 16),
    Ready s e t →
    exec (.ngEdi e t d) s = .next (threadDone s e t fun th => ngWrite { th with en := false } (nextSlot s e t + 3) d (if th.en then 1 else 0) false) ∧
    exec (.ngEei e t) s = .next (threadDone s e t fun th => { th with en := true })

/-- POPR (R346, R347): the oldest entry goes to nd with V its error, Z and N; source 48 + t becomes pending again where the next entry is ready, and else clears. -/
def PoprRow : Prop :=
  ∀ (s : State) (e : Fin 512) (t : Fin 4) (d : Fin 16) (r : RqEnt) (rest : List RqEnt),
    Ready s e t →
    (bodyThr s e t).rq = r :: rest →
    r.ready = true →
    r.tick < nextSlot s e t →
    let u := updThr (checked s e t) e t fun th => ngWrite { th with sw := setZN (setV (bodyThr s e t).sw r.err) r.val, rq := rest } (nextSlot s e t + 3) d r.val false
    exec (.ngPopr e t d) s = .next (seqDone s (if (rest.head?.map RqEnt.ready).getD false then setSource u e (48 + t.val) (nextSlot s e t + 2) else endSource u e (48 + t.val) (nextSlot s e t + 2)) e t 1)

/-- POPR of an empty queue, or of a head that is not ready (R346, R347): RETQ. -/
def PoprEmpty : Prop :=
  ∀ (s : State) (e : Fin 512) (t : Fin 4) (d : Fin 16),
    Ready s e t →
    headReady (bodyThr s e t) (nextSlot s e t) = false →
    exec (.ngPopr e t d) s = .next (ngFault (atSlot s e t) e t (nextSlot s e t) 9)

/-- FBYTE, FHALF, FWORD and FBITS (R350, R421): the bits reach the check-value unit at the end of the last slot. -/
def FeedRows : Prop :=
  ∀ (s : State) (e : Fin 512) (t : Fin 4) (a n : Fin 16),
    Ready s e t →
    (1 ≤ n.val ∧ n.val ≤ 9) →
    let x := (ngReg (bodyThr s e t) a).toNat
    let feed := fun (w m : Nat) => updEng (checked s e t) e fun g => { g with cv := { g.cv with feeds := g.cv.feeds ++ [(nextSlot s e t + w, m, x % 2 ^ m)] } }
    exec (.ngFbyte e t a) s = .next (seqDone s (feed 2 8) e t 1) ∧ exec (.ngFbits e t a n) s = .next (seqDone s (feed 2 n) e t 1) ∧
    exec (.ngFhalf e t a) s = .next (seqDone s (feed (slotPeriod (checked s e t) e + 2) 16) e t 2) ∧
    exec (.ngFword e t a) s = .next (seqDone s (feed (slotPeriod (checked s e t) e + 2) 18) e t 2)

/-- FBITS of 0 or of 10 to 15 bits is reserved (R325, R350). -/
def FbitsReserved : Prop :=
  ∀ (s : State) (e : Fin 512) (t : Fin 4) (a n : Fin 16),
    Ready s e t →
    (n.val = 0 ∨ 10 ≤ n.val) →
    exec (.ngFbits e t a n) s = .next (ngFault (atSlot s e t) e t (nextSlot s e t) 2)

/-- One bit fed (R421): VAL shifts left, and takes the polynomial where the bit differs from the bit shifted out. -/
def FeedBit : Prop :=
  ∀ (w poly val : Nat) (b : Bool),
    0 < w →
    val < 2 ^ w →
    poly < 2 ^ w →
    cvBit w poly val b = if b = decide (2 ^ (w - 1) ≤ val) then 2 * val % 2 ^ w else Nat.xor (2 * val % 2 ^ w) poly

/-- Feeds reach the unit in issue order: one that is due waits for an earlier one that is not (R350). (The waiting in issue order is log 83.) -/
def FeedOrder : Prop :=
  ∀ (c : CvUnit) (tick : Nat) (l r : List (Nat × Nat × Nat)),
    c.feeds = l ++ r →
    (l.all fun f => decide (f.1 ≤ tick)) = true →
    (r.head?.all fun f => decide (tick < f.1)) = true →
    cvSettle c tick = l.foldl (fun c f => cvFeed c f.2.1 f.2.2) { c with feeds := r }

end Sys2Proof.Claims

open Sys2Proof Sys2Proof.Machine Sys2Proof.Claims in
/-- R346, R350, R360, R393 and R421. Completes: ngPopr, ngHalt, ngWait, ngRete, ngSig, ngClre, ngEdi, ngEei, ngFbyte, ngFhalf, ngFword, ngFbits. -/
def Obligations.SystemAndEvents : Prop :=
  HaltRow ∧
  WaitRow ∧
  ReteRow ∧
  ReteRestores ∧
  ReteNone ∧
  SigRow ∧
  ClreRow ∧
  SigReserved ∧
  EdiEei ∧
  PoprRow ∧
  PoprEmpty ∧
  FeedRows ∧
  FbitsReserved ∧
  FeedBit ∧
  FeedOrder

namespace Sys2Proof.Claims

open Sys2Proof.Machine

/-- The effective address of an addressed instruction (R339). -/
def eaOf (s : State) (e : Fin 512) (t : Fin 4) (mode : Fin 6) (a : Fin 16) (imm : Word18) : Nat :=
  (ngEa (bodyThr s e t) mode a imm).1.toNat

/-- The base register updated after an addressed instruction whose other effects are in `u` (R339, R376). -/
def based (s u : State) (e : Fin 512) (t : Fin 4) (mode : Fin 6) (a : Fin 16) (imm : Word18) : State :=
  updThr u e t fun th => baseUpdate th (nextSlot s e t) a (ngEa (bodyThr s e t) mode a imm).2

/-- An addressed instruction of `slots` slots with its effects in `u`. -/
def memDone (s u : State) (e : Fin 512) (t : Fin 4) (mode : Fin 6) (a : Fin 16) (imm : Word18) (slots : Nat) : State :=
  seqDone s (based s u e t mode a imm) e t slots

/-- `n` words of local memory on their way to the registers from `d` (R342, R376). -/
def loading (s u : State) (e : Fin 512) (t : Fin 4) (d : Fin 16) (ea n : Nat) : State :=
  updThr u e t fun th => ((List.range n).map fun k => (k, lmWord u e (ea + k))).foldl
    (fun th p => ngWrite th (loadDue (checked s e t) e (nextSlot s e t)) (d.val + p.1) p.2 true) th

/-- `n` registers from `d` stored to local memory (R342). -/
def storing (s : State) (e : Fin 512) (t : Fin 4) (d : Fin 16) (ea n : Nat) : State :=
  (List.range n).foldl (fun u k => setLm u e (ea + k) (ngReg (bodyThr s e t) (d.val + k))) (checked s e t)

/-- What the event unit may change of a thread that another instruction's event reaches: the words that its loads of EVPND and EVCUR read, which
tell of the sources at the end of a tick that may not have come (R370, R386). -/
def SameThread (th u : NgThread) : Prop :=
  u = { th with pend := u.pend } ∧ u.pend.length = th.pend.length ∧
    ∀ (j : Nat) (w : PendWr), th.pend[j]? = some w → ∃ v, u.pend[j]? = some { w with val := v } ∧ (w.ev = none → v = w.val)

/-- The engine's slice of state that another engine's instruction may touch: its event sources. -/
def OnlySources (g u : NgEngine) : Prop :=
  u = { g with srcs := u.srcs, thr := u.thr } ∧ ∀ t : Fin 4, SameThread (SMap.get {} g.thr t) (SMap.get {} u.thr t)

/-- The engine instructions that work on registers, accumulators, the program counter and event sources only, with the engine and the
thread that its operands name. -/
def registerRow : Instr → Option (Fin 512 × Fin 4)
  | .ngAdd e t .. | .ngSub e t .. | .ngAdc e t .. | .ngSbc e t .. | .ngAnd e t .. | .ngOr e t .. | .ngXor e t .. | .ngAndn e t ..
  | .ngCmp e t .. | .ngTst e t .. | .ngMin e t .. | .ngMax e t .. | .ngAbs e t .. | .ngNeg e t .. | .ngNot e t .. | .ngMov e t ..
  | .ngSll e t .. | .ngSrl e t .. | .ngSra e t .. | .ngRor e t .. | .ngSlli e t .. | .ngSrli e t .. | .ngSrai e t .. | .ngRori e t ..
  | .ngAddi e t .. | .ngSubi e t .. | .ngAndi e t .. | .ngOri e t .. | .ngXori e t .. | .ngCmpi e t .. | .ngMovi e t .. | .ngNop e t ..
  | .ngMfc e t .. | .ngMtc e t .. | .ngPopr e t .. | .ngHalt e t .. | .ngMul e t .. | .ngMulh e t .. | .ngMulhu e t .. | .ngMulf e t ..
  | .ngMac2 e t .. | .ngMpy2 e t .. | .ngMacs e t .. | .ngExtr e t .. | .ngAclr e t .. | .ngAadd e t .. | .ngAsub e t .. | .ngDiv0 e t ..
  | .ngDiv0u e t .. | .ngDstep e t .. | .ngDivf e t .. | .ngWait e t .. | .ngRete e t .. | .ngSig e t .. | .ngClre e t .. | .ngEdi e t ..
  | .ngEei e t .. | .ngFbyte e t .. | .ngFhalf e t .. | .ngFword e t .. | .ngFbits e t .. | .ngBr e t .. | .ngBz e t .. | .ngBnz e t ..
  | .ngBltz e t .. | .ngBgez e t .. | .ngBlez e t .. | .ngBgtz e t .. | .ngCall e t .. | .ngJr e t .. | .ngJalr e t .. | .ngLoop e t .. => some (e, t)
  | .ngUnallocated e t x => (ngEncFault x).map fun _ => (e, t)
  | _ => none

/-- Every memory of the device but the engines' own reads as before, and no request, mover or domain has changed. -/
def SameOutside (s u : State) : Prop :=
  u.sram = s.sram ∧ u.dram = s.dram ∧ u.eeprom = s.eeprom ∧ u.clusters = s.clusters ∧ u.movers = s.movers ∧
    u.l2s = s.l2s ∧ u.sc = s.sc ∧ u.fab = s.fab ∧ u.tyl = s.tyl ∧ u.doms = s.doms ∧ u.sage = s.sage

end Sys2Proof.Claims

namespace Sys2Proof.Claims

open Sys2Proof.Machine

/-- LD (R342, R376, R385): one word at ea, with the base update of its mode; `u` is the state with what SECDED recorded. -/
def LdRow : Prop :=
  ∀ (s : State) (e : Fin 512) (t : Fin 4) (d : Fin 16) (mode : Fin 6) (a : Fin 16) (imm : Word18) (ecc : Fin 3) (u : State),
    Ready s e t →
    modeRsvd mode a imm = false →
    eaOf s e t mode a imm < 0o100000 →
    lmFinding (checked s e t) e (eaOf s e t mode a imm) 1 ecc = (u, true) →
    exec (.ngLd e t d mode a imm ecc) s = .next (memDone s (loading s u e t d (eaOf s e t mode a imm) 1) e t mode a imm 2)

/-- LDD (R342, R376, R385): two words at ea, with the base update of its mode; `u` is the state with what SECDED recorded. -/
def LddRow : Prop :=
  ∀ (s : State) (e : Fin 512) (t : Fin 4) (d : Fin 16) (mode : Fin 6) (a : Fin 16) (imm : Word18) (ecc : Fin 3) (u : State),
    Ready s e t →
    modeRsvd mode a imm = false →
    d.val % 2 = 0 →
    eaOf s e t mode a imm % 2 = 0 →
    eaOf s e t mode a imm < 0o100000 →
    lmFinding (checked s e t) e (eaOf s e t mode a imm) 2 ecc = (u, true) →
    exec (.ngLdd e t d mode a imm ecc) s = .next (memDone s (loading s u e t d (eaOf s e t mode a imm) 2) e t mode a imm 2)

/-- LDQ (R342, R376, R385): four words at ea, with the base update of its mode; `u` is the state with what SECDED recorded. -/
def LdqRow : Prop :=
  ∀ (s : State) (e : Fin 512) (t : Fin 4) (d : Fin 16) (mode : Fin 6) (a : Fin 16) (imm : Word18) (ecc : Fin 3) (u : State),
    Ready s e t →
    modeRsvd mode a imm = false →
    d.val % 4 = 0 →
    eaOf s e t mode a imm % 4 = 0 →
    eaOf s e t mode a imm < 0o100000 →
    lmFinding (checked s e t) e (eaOf s e t mode a imm) 4 ecc = (u, true) →
    exec (.ngLdq e t d mode a imm ecc) s = .next (memDone s (loading s u e t d (eaOf s e t mode a imm) 4) e t mode a imm 2)

/-- ST (R340, R342): one word to ea, with the values from before the base update. -/
def StRow : Prop :=
  ∀ (s : State) (e : Fin 512) (t : Fin 4) (d : Fin 16) (mode : Fin 6) (a : Fin 16) (imm : Word18),
    Ready s e t →
    modeRsvd mode a imm = false →
    eaOf s e t mode a imm < 0o100000 →
    exec (.ngSt e t d mode a imm) s = .next (memDone s (storing s e t d (eaOf s e t mode a imm) 1) e t mode a imm 2)

/-- STD (R340, R342): two words to ea, with the values from before the base update. -/
def StdRow : Prop :=
  ∀ (s : State) (e : Fin 512) (t : Fin 4) (d : Fin 16) (mode : Fin 6) (a : Fin 16) (imm : Word18),
    Ready s e t →
    modeRsvd mode a imm = false →
    d.val % 2 = 0 →
    eaOf s e t mode a imm % 2 = 0 →
    eaOf s e t mode a imm < 0o100000 →
    exec (.ngStd e t d mode a imm) s = .next (memDone s (storing s e t d (eaOf s e t mode a imm) 2) e t mode a imm 2)

/-- STQ (R340, R342): four words to ea, with the values from before the base update. -/
def StqRow : Prop :=
  ∀ (s : State) (e : Fin 512) (t : Fin 4) (d : Fin 16) (mode : Fin 6) (a : Fin 16) (imm : Word18),
    Ready s e t →
    modeRsvd mode a imm = false →
    d.val % 4 = 0 →
    eaOf s e t mode a imm % 4 = 0 →
    eaOf s e t mode a imm < 0o100000 →
    exec (.ngStq e t d mode a imm) s = .next (memDone s (storing s e t d (eaOf s e t mode a imm) 4) e t mode a imm 2)

/-- LD of a control word (R344): the word as it reads two ticks after the issue; one that tells of pending sources goes on to tell of those set or cleared by the end of the tick before that (R370, R386; log entry 56). -/
def LdControl : Prop :=
  ∀ (s : State) (e : Fin 512) (t : Fin 4) (d : Fin 16) (mode : Fin 6) (a : Fin 16) (imm : Word18) (ecc : Fin 3),
    Ready s e t →
    modeRsvd mode a imm = false →
    (0o110000 ≤ eaOf s e t mode a imm ∧ eaOf s e t mode a imm < 0o115000) →
    let o := eaOf s e t mode a imm - 0o111000
    let r := ctlRead (checked s e t) e (eaOf s e t mode a imm) (nextSlot s e t + 2)
    let w : PendWr := { due := loadDue (checked s e t) e (nextSlot s e t), reg := d.val, val := r.2, load := true
                        ev := if 0o111000 ≤ eaOf s e t mode a imm ∧ tellsPending o = true then some (o, nextSlot s e t + 1) else none }
    exec (.ngLd e t d mode a imm ecc) s = .next (memDone s (updThr r.1 e t fun th => { th with pend := th.pend ++ [w] }) e t mode a imm 2)

/-- R370, R386: an event that is set or cleared shows in the loads of EVPND and EVCUR that have issued and whose E stage reads later. -/
def LateEvents : Prop :=
  ∀ (s : State) (e : Fin 512) (t : Fin 4) (k tick j o x : Nat) (w : PendWr),
    engUp s = true →
    (thr s e t).pend[j]? = some w →
    w.ev = some (o, x) →
    let u := setSource s e k tick
    let v := clearSource s e k tick
    (thr u e t).pend[j]? = some { w with val := pendWord u e o x } ∧ (thr v e t).pend[j]? = some { w with val := pendWord v e o x }

/-- ST of a control word (R344): the word takes the register at the end of the second tick after the issue. -/
def StControl : Prop :=
  ∀ (s : State) (e : Fin 512) (t : Fin 4) (d : Fin 16) (mode : Fin 6) (a : Fin 16) (imm : Word18),
    Ready s e t →
    modeRsvd mode a imm = false →
    (0o110000 ≤ eaOf s e t mode a imm ∧ eaOf s e t mode a imm < 0o115000) →
    exec (.ngSt e t d mode a imm) s = .next (memDone s (ctlWrite (checked s e t) e (eaOf s e t mode a imm) (ngReg (bodyThr s e t) d) (nextSlot s e t + 2)) e t mode a imm 2)

/-- A load that meets an uncorrectable word stops the engine's threads and completes nothing (R385). -/
def LdStopped : Prop :=
  ∀ (s : State) (e : Fin 512) (t : Fin 4) (d : Fin 16) (mode : Fin 6) (a : Fin 16) (imm : Word18) (ecc : Fin 3) (u : State),
    Ready s e t →
    modeRsvd mode a imm = false →
    eaOf s e t mode a imm < 0o100000 →
    lmFinding (checked s e t) e (eaOf s e t mode a imm) 1 ecc = (u, false) →
    exec (.ngLd e t d mode a imm ecc) s = .next (updThr u e t fun th => { th with lpC := (slotThr s e t).lpC, sw := (slotThr s e t).sw })

/-- R385: what SECDED finds on n local words that a load reads. With nothing found and no word in error nothing is recorded; a single-bit error of one word is corrected and recorded with 0x80 and the word's address, each time it is read until the word is written; an uncorrectable word, known or found now, stops the engine and is named. Which word of several is found in error is a free value (log entry 57). -/
def LocalFindings : Prop :=
  ∀ (s : State) (e : Fin 512) (a n : Nat),
    (n = 1 ∨ n = 2 ∨ n = 4) →
    (lmFirstBad s e a n = none → lmFinding s e a n 0 = (lmCorrected s e a n, true) ∧
      ((∀ i, i < n → SMap.get false (eng s e).lmCe (a + i) = false) → lmCorrected s e a n = s)) ∧
    (lmFirstBad s e a 1 = none → lmFinding s e a 1 1 = (recInternal (lmSetCe s e a) (.nce e) 0x80 a, true)) ∧
    (∀ v, SMap.get false (eng (lmSetCe s e a) e).lmCe a = true ∧ SMap.get false (eng (setLm s e a v) e).lmCe a = false) ∧
    (∀ w, lmFirstBad s e a n = some w → lmFinding s e a n 0 = (lmStop s e w, false) ∧ a ≤ w ∧ w < a + n ∧ lmIsBad s e w = true) ∧
    (lmFinding s e a n 2).2 = false ∧
    lmFinding s e a 1 2 = (lmStop (lmSetBad s e a) e a, false)

/-- A misaligned pair or quad is ALIGN; an address outside the ranges of R341 is ADDR; a d out of step and a mode's broken constraint are RSVD (R325, R339, R341, R342, R362). -/
def MemTraps : Prop :=
  ∀ (s : State) (e : Fin 512) (t : Fin 4) (d : Fin 16) (mode : Fin 6) (a : Fin 16) (imm : Word18) (ecc : Fin 3),
    Ready s e t →
    let rs : Host.Outcome State Fault Refusal := .next (ngFault (atSlot s e t) e t (nextSlot s e t) 2)
    let al : Host.Outcome State Fault Refusal := .next (ngFault (atSlot s e t) e t (nextSlot s e t) 5)
    let ad : Host.Outcome State Fault Refusal := .next (ngFault (atSlot s e t) e t (nextSlot s e t) 4)
    let ea := eaOf s e t mode a imm
    (modeRsvd mode a imm = true → exec (.ngLd e t d mode a imm ecc) s = rs ∧ exec (.ngSt e t d mode a imm) s = rs ∧ exec (.ngLdc e t d mode a imm) s = rs ∧
      exec (.ngStc e t d mode a imm) s = rs ∧ exec (.ngFrd e t mode a imm) s = rs ∧ exec (.ngFwr e t d mode a imm) s = rs ∧ exec (.ngPrd e t d mode a imm) s = rs ∧ exec (.ngPwr e t d mode a imm) s = rs) ∧
    (d.val % 2 = 1 → exec (.ngLdd e t d mode a imm ecc) s = rs ∧ exec (.ngStd e t d mode a imm) s = rs) ∧
    (d.val % 4 ≠ 0 → exec (.ngLdq e t d mode a imm ecc) s = rs ∧ exec (.ngStq e t d mode a imm) s = rs) ∧
    (modeRsvd mode a imm = false → d.val % 4 = 0 → (ea % 2 = 1 → exec (.ngLdd e t d mode a imm ecc) s = al ∧ exec (.ngStd e t d mode a imm) s = al) ∧
      (ea % 4 ≠ 0 → exec (.ngLdq e t d mode a imm ecc) s = al ∧ exec (.ngStq e t d mode a imm) s = al)) ∧
    (modeRsvd mode a imm = false → (0o100000 ≤ ea ∧ ea < 0o110000) ∨ 0o115000 ≤ ea → exec (.ngLd e t d mode a imm ecc) s = ad ∧ exec (.ngSt e t d mode a imm) s = ad) ∧
    (modeRsvd mode a imm = false → d.val % 4 = 0 → 0o100000 ≤ ea → ea % 4 = 0 → exec (.ngLdd e t d mode a imm ecc) s = ad ∧ exec (.ngStd e t d mode a imm) s = ad ∧
      exec (.ngLdq e t d mode a imm ecc) s = ad ∧ exec (.ngStq e t d mode a imm) s = ad)

/-- The addressing modes (R339): the address used and the base's new value. -/
def Modes : Prop :=
  ∀ (th : NgThread) (a : Fin 16) (imm : Word18),
    let x := ngReg th a
    let m := SMap.get 0 th.m (a.val - 8)
    let l := SMap.get 0 th.l (a.val - 8)
    ngEa th 0 a imm = (x + imm, none) ∧ ngEa th 1 a imm = (x + imm, some (x + imm)) ∧ ngEa th 2 a imm = (x, some (x + imm)) ∧
      ngEa th 3 a imm = (x, some (x + m)) ∧ ngEa th 4 a imm = (x, some (circ x m l)) ∧ ngEa th 5 a imm = (x, some (circ x imm l))

/-- A circular buffer (R339): in a buffer of length L that starts at a multiple of the least power of two from L, with a step of at most L, the address stays in the buffer and moves by the step modulo L. -/
def Circular : Prop :=
  ∀ (b m l : Word18) (o k : Nat),
    l ≠ 0 →
    l.toNat ≤ 2 ^ k →
    2 ^ k < 2 * l.toNat →
    b.toNat % 2 ^ k = 0 →
    o < l.toNat →
    k ≤ 17 →
    m.toInt.natAbs ≤ l.toNat →
    circ (b + BitVec.ofNat 18 o) m l = b + BitVec.ofNat 18 ((o + m.toInt) % l.toNat).toNat

end Sys2Proof.Claims

open Sys2Proof Sys2Proof.Machine Sys2Proof.Claims in
/-- R339 to R344. Completes: ngLd, ngLdd, ngLdq, ngSt, ngStd, ngStq. -/
def Obligations.LocalMemoryAccesses : Prop :=
  LdRow ∧
  LddRow ∧
  LdqRow ∧
  StRow ∧
  StdRow ∧
  StqRow ∧
  LdControl ∧
  LateEvents ∧
  StControl ∧
  LdStopped ∧
  LocalFindings ∧
  MemTraps ∧
  Modes ∧
  Circular

namespace Sys2Proof.Claims

open Sys2Proof.Machine

/-- LDC and STC (R345, R401): the access is claimed for the thread's first table tick from two ticks after the issue. -/
def ClaimRows : Prop :=
  ∀ (s : State) (e : Fin 512) (t : Fin 4) (d : Fin 16) (mode : Fin 6) (a : Fin 16) (imm : Word18),
    Ready s e t →
    modeRsvd mode a imm = false →
    (0o200000 ≤ eaOf s e t mode a imm ∧ eaOf s e t mode a imm < 0o600000) →
    (bodyThr s e t).cma = none →
    let x := tableFrom (checked s e t) e t (nextSlot s e t + 2)
    let c := eaOf s e t mode a imm - 0o200000
    exec (.ngLdc e t d mode a imm) s = .next (memDone s (updThr (checked s e t) e t fun th => { th with cma := some { tick := x, c := c, st := none, reg := d } }) e t mode a imm 2) ∧
    exec (.ngStc e t d mode a imm) s = .next (memDone s (updThr (checked s e t) e t fun th => { th with cma := some { tick := x, c := c, st := some (ngReg (bodyThr s e t) d), reg := d } }) e t mode a imm 2)

/-- A second claim while one waits (R402): 0x84 is recorded, and the first stands; the base update of its mode is made all the same (log entry 58). -/
def ClaimRefused : Prop :=
  ∀ (s : State) (e : Fin 512) (t : Fin 4) (d : Fin 16) (mode : Fin 6) (a : Fin 16) (imm : Word18),
    Ready s e t →
    modeRsvd mode a imm = false →
    (0o200000 ≤ eaOf s e t mode a imm ∧ eaOf s e t mode a imm < 0o600000) →
    (bodyThr s e t).cma ≠ none →
    let u := recContained (checked s e t) (.nce e) 0x84 (eaOf s e t mode a imm - 0o200000)
    exec (.ngLdc e t d mode a imm) s = .next (memDone s u e t mode a imm 2) ∧ exec (.ngStc e t d mode a imm) s = .next (memDone s u e t mode a imm 2)

/-- The table tick (R400, R401): the first tick from a given one that the slot table gives to the thread, at most 63 later. -/
def TableTick : Prop :=
  ∀ (s : State) (e : Fin 512) (t : Fin 4) (x : Nat),
    threadExists s e t = true →
    let a := tableFrom s e t x
    x ≤ a ∧ a < x + 64 ∧ a % 64 / 4 = e.val % 16 ∧ a % slotPeriod s e = t.val ∧ ∀ y, x ≤ y → y < a → ¬(y % 64 / 4 = e.val % 16 ∧ y % slotPeriod s e = t.val)

/-- CLUSTER_MEMORY_ACCESS (R401, R403, R409): in its tick an STC stores its word, an LDC's word is written two ticks later. -/
def ClusterAccess : Prop :=
  ∀ (s : State) (e : Fin 512) (t : Fin 4) (x : CmAcc) (ecc : Fin 3),
    engUp s = true →
    (thr s e t).cma = some x →
    cmEarlier s (clusterOf e) x.tick = false →
    cmOwner (updThr (advanceTo s x.tick) e t fun th => { th with cma := none }) (clusterOf e) x.c = owner (updThr (advanceTo s x.tick) e t fun th => { th with cma := none }) (.nce e) →
    let u := updThr (advanceTo s x.tick) e t fun th => { th with cma := none }
    exec (.clusterMemoryAccess e t ecc) s = .next (match x.st with
      | some v => setCm u (clusterOf e) x.c v
      | none =>
        let v := cmFinding u (clusterOf e) x.c ecc
        updThr v e t fun th => ngWrite th (x.tick + 2) x.reg (if SMap.get false (clu v (clusterOf e)).cmBad x.c then 0 else cmWord v (clusterOf e) x.c) true)

/-- An access to a segment of another domain (R409): 0x85 is recorded; a store has no effect and a load reads zero. -/
def ClusterForeign : Prop :=
  ∀ (s : State) (e : Fin 512) (t : Fin 4) (x : CmAcc) (ecc : Fin 3),
    engUp s = true →
    (thr s e t).cma = some x →
    cmEarlier s (clusterOf e) x.tick = false →
    cmOwner (updThr (advanceTo s x.tick) e t fun th => { th with cma := none }) (clusterOf e) x.c ≠ owner (updThr (advanceTo s x.tick) e t fun th => { th with cma := none }) (.nce e) →
    let u := recContained (updThr (advanceTo s x.tick) e t fun th => { th with cma := none }) (.nce e) 0x85 x.c
    exec (.clusterMemoryAccess e t ecc) s = .next (if x.st.isSome then u else updThr u e t fun th => ngWrite th (x.tick + 2) x.reg 0 true)

/-- FRD (R346): a read of the window word is posted and an entry joins the return queue. -/
def FrdRow : Prop :=
  ∀ (s : State) (e : Fin 512) (t : Fin 4) (mode : Fin 6) (a : Fin 16) (imm : Word18),
    Ready s e t →
    modeRsvd mode a imm = false →
    0o600000 ≤ eaOf s e t mode a imm →
    (bodyThr s e t).rq.length < 4 →
    let u := checked s e t
    let q := fwReq u e t .read (eaOf s e t mode a imm - 0o600000) 0
    exec (.ngFrd e t mode a imm) s = .next (memDone s (updThr (addTxn u { id := u.fab.nextId, req := q.1, attr := q.2, lvl := 0, purp := .frd t.val ((q.1.pos.map Fin.val).getD 7), status := .posted }) e t
      fun th => { th with rq := th.rq ++ [{ id := u.fab.nextId }] }) e t mode a imm 1)

/-- FWR (R346): a write of the register to the window word is posted. -/
def FwrRow : Prop :=
  ∀ (s : State) (e : Fin 512) (t : Fin 4) (d : Fin 16) (mode : Fin 6) (a : Fin 16) (imm : Word18),
    Ready s e t →
    modeRsvd mode a imm = false →
    0o600000 ≤ eaOf s e t mode a imm →
    postedWrites (checked s e t) e t < 4 →
    let u := checked s e t
    let q := fwReq u e t .write (eaOf s e t mode a imm - 0o600000) (ngReg (bodyThr s e t) d)
    exec (.ngFwr e t d mode a imm) s = .next (memDone s (addTxn u { id := 0, req := q.1, attr := q.2, lvl := 0, purp := .fwr t.val, status := .posted }) e t mode a imm 1)

/-- The window words (R37): loose, word j is the four bytes at base + 4 j. -/
def WindowLoose : Prop :=
  ∀ (s : State) (e : Fin 512) (t : Fin 4) (j : Nat) (v : Word18),
    bit (SMap.get 0 (thr s e t).fwb 2) 6 = false →
    (fwReq s e t .read j v).1.addr = (fwBase (thr s e t) + 4 * j) % 2 ^ 48 ∧ (fwReq s e t .read j v).1.len = 4

/-- Packed, word j is the 18 bits from bit 18 (j mod 7) of the 16-byte unit j div 7 (R37). -/
def WindowPacked : Prop :=
  ∀ (s : State) (e : Fin 512) (t : Fin 4) (j : Nat) (v : Word18),
    bit (SMap.get 0 (thr s e t).fwb 2) 6 = true →
    (fwReq s e t .write j v).1.addr = (fwBase (thr s e t) + 16 * (j / 7)) % 2 ^ 48 ∧ (fwReq s e t .write j v).1.len = 16 ∧
      (fwReq s e t .write j v).1.data = v.toNat * 2 ^ (18 * (j % 7))

/-- A full queue (R346): RETQ and FQFULL; an address outside the window or the cluster memory: ADDR (R341). -/
def FabricTraps : Prop :=
  ∀ (s : State) (e : Fin 512) (t : Fin 4) (d : Fin 16) (mode : Fin 6) (a : Fin 16) (imm : Word18),
    Ready s e t →
    modeRsvd mode a imm = false →
    let ad : Host.Outcome State Fault Refusal := .next (ngFault (atSlot s e t) e t (nextSlot s e t) 4)
    let ea := eaOf s e t mode a imm
    (0o600000 ≤ ea → 4 ≤ (bodyThr s e t).rq.length → exec (.ngFrd e t mode a imm) s = .next (ngFault (atSlot s e t) e t (nextSlot s e t) 9)) ∧
    (0o600000 ≤ ea → 4 ≤ postedWrites (checked s e t) e t → exec (.ngFwr e t d mode a imm) s = .next (ngFault (atSlot s e t) e t (nextSlot s e t) 10)) ∧
    (ea < 0o600000 → exec (.ngFrd e t mode a imm) s = ad ∧ exec (.ngFwr e t d mode a imm) s = ad) ∧
    (ea < 0o200000 ∨ 0o600000 ≤ ea → exec (.ngLdc e t d mode a imm) s = ad ∧ exec (.ngStc e t d mode a imm) s = ad) ∧
    (portSlot ea = none → exec (.ngPrd e t d mode a imm) s = ad ∧ exec (.ngPwr e t d mode a imm) s = ad)

/-- PRD and PWR of a local slot (R348): the access acts in the E stage, two ticks after the issue; the word read is written at the load distance. -/
def LocalPorts : Prop :=
  ∀ (s : State) (e : Fin 512) (t : Fin 4) (d : Fin 16) (mode : Fin 6) (a : Fin 16) (imm : Word18) (sl w : Nat),
    Ready s e t →
    modeRsvd mode a imm = false →
    portSlot (eaOf s e t mode a imm) = some (sl, w) →
    sl < 8 →
    let sent := fun (v : Option Word18) => updCell (checked s e t) (slotCell e (Fin.ofNat 8 sl)) fun c =>
      { c with due := c.due ++ [{ tick := nextSlot s e t + 2, e := e, t := t, word := w, wr := v }] }
    exec (.ngPrd e t d mode a imm) s = .next (memDone s (updThr (sent none) e t fun th =>
      { th with pend := th.pend ++ [{ due := loadDue (checked s e t) e (nextSlot s e t), reg := d.val, val := 0, load := true, prd := true }] }) e t mode a imm 2) ∧
    exec (.ngPwr e t d mode a imm) s = .next (memDone s (sent (some (ngReg (bodyThr s e t) d))) e t mode a imm 1)

/-- R348, R436, R453: in its tick a slot access on its way reads the cell's word, which goes to the register write that waits for it, or writes it and restarts KEEP. -/
def SlotAccesses : Prop :=
  ∀ (s : State) (n : Fin 256) (x : SlotAcc) (k : Nat),
    let e : Fin 512 := Fin.ofNat 512 x.e
    let u := updCell s n fun c => { c with due := c.due.erase x }
    cellOwnerOk u e n = true →
    (slotDue (cell s n) false = some x → x.wr = none →
      let r := slotRead u n x.word x.tick
      actDue s n .read = some x.tick ∧
      actDo s n k .read = updThr r.1 e (Fin.ofNat 4 x.t) fun th => { th with pend := th.pend.map fun w => if w.prd then { w with val := r.2, prd := false } else w }) ∧
    ∀ v, slotDue (cell s n) true = some x → x.wr = some v →
      actDue s n .write = some x.tick ∧ actDo s n k .write = restartKeep (slotWrite u n x.word v x.tick) n x.tick

/-- PRD and PWR of a remote slot with access (R349, R461, R462): the read is sent and its result stands RD ticks after the issue; the write joins the engine's queue of eight. -/
def RemotePorts : Prop :=
  ∀ (s : State) (e : Fin 512) (t : Fin 4) (d : Fin 16) (mode : Fin 6) (a : Fin 16) (imm : Word18) (sl w : Nat),
    Ready s e t →
    modeRsvd mode a imm = false →
    portSlot (eaOf s e t mode a imm) = some (sl, w) →
    256 ≤ sl →
    rgDeny (checked s e t) e (sl - 256) = none →
    (SMap.get [] (checked s e t).tyl.rwq e).length < 8 →
    let u := checked s e t
    let id := u.tyl.nextId + 1
    exec (.ngPrd e t d mode a imm) s = .next (memDone s (updThr { u with tyl := { u.tyl with nextId := id, prds := u.tyl.prds ++ [{ id := id, e := e, t := t, cell := sl - 256, word := w }] } } e t
      fun th => { th with prds := th.prds ++ [{ id := id, reg := d, due := nextSlot s e t + rgMap u (sl - 256) 12 12 }] }) e t mode a imm 2) ∧
    exec (.ngPwr e t d mode a imm) s = .next (memDone s { u with tyl := { u.tyl with rwq := SMap.set [] u.tyl.rwq e (SMap.get [] u.tyl.rwq e ++ [(sl - 256, w, ngReg (bodyThr s e t) d)]) } } e t mode a imm 1)

/-- PRD and PWR of a remote slot that R464 refuses: the code is recorded; the read gives zero with ST.RL at its RD distance (log entry 60), the write is dropped. -/
def RemoteDenied : Prop :=
  ∀ (s : State) (e : Fin 512) (t : Fin 4) (d : Fin 16) (mode : Fin 6) (a : Fin 16) (imm : Word18) (sl w code : Nat),
    Ready s e t →
    modeRsvd mode a imm = false →
    portSlot (eaOf s e t mode a imm) = some (sl, w) →
    256 ≤ sl →
    rgDeny (checked s e t) e (sl - 256) = some code →
    let u := rgRecord (checked s e t) e (sl - 256) code
    exec (.ngPrd e t d mode a imm) s = .next (memDone s (updThr u e t fun th => { th with prds := th.prds ++ [{ id := 0, reg := d, due := nextSlot s e t + rgMap (checked s e t) (sl - 256) 12 12 }] }) e t mode a imm 2) ∧
    exec (.ngPwr e t d mode a imm) s = .next (memDone s u e t mode a imm 1)

/-- NG_UNALLOCATED (R325): an encoding outside R326 raises UNDEF, one with a must-be-0 bit set or a reserved field raises RSVD. -/
def Unallocated : Prop :=
  ∀ (s : State) (e : Fin 512) (t : Fin 4) (x : BitVec 36) (code : Nat),
    Ready s e t →
    ngEncFault x = some code →
    exec (.ngUnallocated e t x) s = .next (ngFault (atSlot s e t) e t (nextSlot s e t) code)

end Sys2Proof.Claims

open Sys2Proof Sys2Proof.Machine Sys2Proof.Claims in
/-- R345 to R349, R400 to R403, R409, R461 to R464. Completes: ngUnallocated, ngLdc, ngStc, ngFrd, ngFwr, ngPrd, ngPwr, clusterMemoryAccess. -/
def Obligations.ClusterAndFabricAccesses : Prop :=
  ClaimRows ∧
  ClaimRefused ∧
  TableTick ∧
  ClusterAccess ∧
  ClusterForeign ∧
  FrdRow ∧
  FwrRow ∧
  WindowLoose ∧
  WindowPacked ∧
  FabricTraps ∧
  LocalPorts ∧
  SlotAccesses ∧
  RemotePorts ∧
  RemoteDenied ∧
  Unallocated

open Sys2Proof Sys2Proof.Machine Sys2Proof.Claims in
/-- The frame of the register instructions of the engines: R362 (a fault writes nothing), R376 (a result goes to its own thread), R383 (a fault's event reaches the engines of its cluster) and R385 (an instruction that cannot be fetched stops its engine). The thread named by the instruction's operands is the one that changes. Before the instruction its cluster's cells have done what is due, and device time is at its slot. -/
def Obligations.EngineInstructionFrame : Prop :=
  ∀ (c : Instr) (s u : State) (e : Fin 512) (t : Fin 4), registerRow c = some (e, t) → exec c s = .next u →
    let i := nextSlot s e t
    (canIssue s e t = true →
      let a := advanceTo (cellsAt s e i) i
      SameOutside s u ∧ u.dt = a.dt ∧ u.cells = a.cells ∧ u.cores = a.cores ∧ (∀ e', e' ≠ e → OnlySources (eng a e') (eng u e')) ∧
        (eng u e).lm = (eng s e).lm ∧ (eng u e).lmBad = (eng s e).lmBad ∧ (eng u e).lmCe = (eng s e).lmCe ∧
        ∀ t', t' ≠ t → SameThread (thr a e t') (thr u e t')) ∧
    (canIssue s e t = false → u = s ∨ ∃ w, badFetch s e t = some w ∧ u = lmStop (advanceTo s i) e w)

open Sys2Proof Sys2Proof.Machine Sys2Proof.Claims in
/-- R342 and R399: stores change exactly the words they name. -/
def Obligations.LocalMemoryFrame : Prop :=
  (∀ (s : State) (e e' : Fin 512) (a b : Nat) (v : Word18), lmWord (setLm s e a v) e a = v ∧ lmIsBad (setLm s e a v) e a = false ∧
      (e' ≠ e ∨ b ≠ a → lmWord (setLm s e a v) e' b = lmWord s e' b ∧ lmIsBad (setLm s e a v) e' b = lmIsBad s e' b)) ∧
    (∀ (s : State) (k k' : Fin 32) (a b : Nat) (v : Word18), cmWord (setCm s k a v) k a = v ∧ (k' ≠ k ∨ b ≠ a → cmWord (setCm s k a v) k' b = cmWord s k' b)) ∧
    ∀ (s : State) (e : Fin 512) (t : Fin 4) (d : Fin 16) (ea n : Nat),
      (∀ j, j < n → lmWord (storing s e t d ea n) e (ea + j) = ngReg (bodyThr s e t) (d.val + j)) ∧
      ∀ (e' : Fin 512) (b : Nat), (e' ≠ e ∨ b < ea ∨ ea + n ≤ b) → lmWord (storing s e t d ea n) e' b = lmWord s e' b

open Sys2Proof Sys2Proof.Machine Sys2Proof.Claims in
/-- R328, R349, R371, R376, R377: results reach the instructions from their distance on, and no instruction before it; a remote answer is a load of its tick, and one that has not come reads as zero with ST.RL set, unless a write of ST overwrites RL; an MFC of ST that reads after its tick reads RL. -/
def Obligations.ResultDistances : Prop :=
  (∀ (th : NgThread) (l : List PendWr) (w : PendWr) (q r : Nat),
    (th.pend = l ++ [w] → w.due < q → (l.all fun x => pendOrder x w) = true → w.reg < 16 → ngReg (settleRegs th q) w.reg = w.val) ∧
    ((th.pend.all fun x => decide (x.reg ≠ r % 16) || decide (q ≤ x.due)) = true → ngReg (settleRegs th q) r = ngReg th r)) ∧
  (∀ (th : NgThread) (p : RPrd) (w : PendWr) (x q : Nat),
    th.prds = [p] → th.pend = [w] → p.val = none → p.cut = none → p.due < x → p.due < q → w.due < q → w.reg < 16 → p.reg ≠ w.reg → w.st = some x →
    bit (ngReg (settle th q) w.reg) 15 = true) ∧
  ∀ (th : NgThread) (p : RPrd) (q : Nat),
    th.prds = [p] →
    p.due < q →
    p.reg < 16 →
    (th.pend.all fun x => decide (x.due ≤ p.due)) = true →
    ngReg (settle th q) p.reg = p.val.getD 0 ∧ (settle th q).prds = [] ∧
      (settle th q).sw = if p.val.isNone = true ∧ p.cut.isNone = true then setBit th.sw 15 true else th.sw

namespace Sys2Proof.Claims

open Sys2Proof.Machine

/-- The engine clusters are released, the engine has the thread in its mode, its block does not stop it, and no access or time match comes before its next slot. -/
abbrev SlotFree (s : State) (e : Fin 512) (t : Fin 4) : Prop :=
  engUp s = true ∧ threadExists s e t = true ∧ blkBusy s (.nce e) = false ∧ ((thr s e t).st = 1 ∨ (thr s e t).st = 3) ∧ (thr s e t).dslot.isSome = false ∧
    (thr s e t).entered = false ∧ cmDue s e (nextSlot s e t) = false ∧ matchDue s e (nextSlot s e t) = false

end Sys2Proof.Claims

namespace Sys2Proof.Claims

open Sys2Proof.Machine

/-- THREAD_HALT_APPLIED (R381, R396): at a boundary a requested halt comes before a selected entry. -/
def HaltApplied : Prop :=
  ∀ (s : State) (e : Fin 512) (t : Fin 4),
    ((thr s e t).st = 1 ∨ (thr s e t).st = 3) →
    (thr s e t).dslot.isSome = false →
    (thr s e t).entered = false →
    haltDue (thr s e t) (nextSlot s e t) = true →
    exec (.threadHaltApplied e t) s = .next (updThr s e t fun th => haltThread th)

/-- EVENT_ENTRY (R389, R390, R393): at a boundary the highest deliverable level is entered; after a RETE the handler's return address and ST move to the level entered (tail re-entry), else they are the thread's own. ST is saved with every remote answer whose tick has passed (R349). The cells of the cluster have done what is due by three ticks before the slot, and device time is over that tick (log entry 57). -/
def EventEntry : Prop :=
  ∀ (s : State) (e : Fin 512) (t : Fin 4) (l : Nat),
    SlotFree s e t →
    haltDue (thr s e t) (nextSlot s e t) = false →
    let i := nextSlot s e t
    let u := advanceTo (selectState s e i) (i - 2)
    selectLevel u e t i = some l →
    let th := settlePrds (thr u e t) i
    (th.rete = none → exec (.eventEntry e t) s = .next (enterNg (updThr u e t fun _ => th) e t l i th.pc th.sw th.sw)) ∧
    ∀ q, th.rete = some q → exec (.eventEntry e t) s = .next (enterNg (updThr u e t fun _ => { th with active := th.active &&& (7 - 2 ^ (q - 1)) }) e t l i
      (SMap.get 0 th.spc q) (SMap.get 0 th.sst q) th.sw)

/-- What an entry does (R390): SPC and SST of the level take the return address and ST, its ACTIVE bit is set, LEVEL is the level, LA clears, the source is the lowest pending one, and the pc is the vector; an AUTOCLR source clears. -/
def Entered : Prop :=
  ∀ (s : State) (e : Fin 512) (t : Fin 4) (l slot : Nat) (ret st cur : Word18),
    l ≤ 3 →
    let k := (pendingOf s e t l (slot - 3)).headD 0
    let th := thr (enterNg s e t l slot ret st cur) e t
    SMap.get 0 th.spc l = ret ∧ SMap.get 0 th.sst l = st ∧ th.active = (thr s e t).active ||| 2 ^ (l - 1) ∧ th.level = l ∧ th.src = k ∧
      th.pc = evVecAt s e t l (slot - 3) ∧ th.next = slot ∧ (∀ j, j < 12 ∨ 15 ≤ j → bit th.sw j = bit cur j) ∧ (∀ j, 12 ≤ j → j < 15 → bit th.sw j = false) ∧
      th.n = (thr s e t).n ∧ (bit (evMapAt s e k (slot - 3)) 4 = false → th.pend = (thr s e t).pend) ∧
      th.pend.length = (thr s e t).pend.length ∧ (∀ (j : Nat) (w : PendWr), (thr s e t).pend[j]? = some w → w.ev = none → th.pend[j]? = some w) ∧ th.acc0 = (thr s e t).acc0 ∧ th.acc1 = (thr s e t).acc1 ∧
      (∀ j, j ≠ k → evSrc (enterNg s e t l slot ret st cur) e j = evSrc s e j) ∧
      (bit (evMapAt s e k (slot - 3)) 4 = true → evSrc (enterNg s e t l slot ret st cur) e k = clearSpan (evSrc s e k) slot)

/-- The level selected for a slot (R388, R389, R393): the highest above the thread's own, or above the one that a RETE before it restores, at which a source was pending three ticks before. -/
def Selected : Prop :=
  ∀ (s : State) (e : Fin 512) (t : Fin 4) (slot l : Nat),
    (thr s e t).st ≠ 0 →
    (thr s e t).en = true →
    (selectLevel s e t slot = some l ↔ 1 ≤ l ∧ l ≤ 3 ∧ entryLevel (thr s e t) < l ∧ pendingOf s e t l (slot - 3) ≠ [] ∧
      ∀ l', l < l' → l' ≤ 3 → pendingOf s e t l' (slot - 3) = []) ∧
    (∀ k, k ∈ pendingOf s e t l (slot - 3) ↔ k < 57 ∧ srcMap s e k (slot - 3) = (t.val, l) ∧ pendingAt (evSrc s e k) (slot - 3) = true)

/-- A HALTED thread, and one whose event enable is 0, is never entered (R388). -/
def NotSelected : Prop :=
  ∀ (s : State) (e : Fin 512) (t : Fin 4) (slot : Nat),
    ((thr s e t).st = 0 ∨ (thr s e t).en = false) →
    selectLevel s e t slot = none

/-- NG_WAIT_END (R381, R394): at the first slot three ticks after a source mapped to the thread became pending, a requested halt applies, or the highest deliverable level is entered, or the instruction after WAIT follows. The cells of the cluster have done what is on its way. -/
def WaitEnd : Prop :=
  ∀ (s : State) (e : Fin 512) (t : Fin 4) (x : Nat),
    (thr s e t).st = 2 →
    waitEnd (cellsAt s e (s.dt + 2)) e t = some x →
    matchDue s e x = false →
    let u := updThr (advanceTo (selectState s e x) (x - 2)) e t fun th => { th with st := 1, next := x }
    let v := updThr u e t fun th => settlePrds th x
    exec (.ngWaitEnd e t) s = .next (if haltDue (thr s e t) x = true then updThr s e t haltThread
      else match selectLevel u e t x with
        | some l => enterNg v e t l x (thr v e t).pc (thr v e t).sw (thr v e t).sw
        | none => u)

/-- TCMP_ARM, TCMP_DISARM and TIME_MATCH (R386, R395): TCMPL disarms, TCMPH arms, with or without a match armed before; one that is due by their tick is made first. The match is made in the first tick after the arming in which bits 35:0 of device time equal the compare words, sets source 52 + t and disarms. Before Sage releases the clusters their words stay (R102; log entry 84). -/
def TimeMatch : Prop :=
  ∀ (s : State) (e : Fin 512) (t : Fin 4) (v : Word18),
    let low := fun (u : State) => updThr u e t fun th => { th with tcmpL := v, armed := none }
    let high := fun (u : State) => updThr u e t fun th => { th with tcmpH := v, armed := some s.dt }
    let made := fun (u : State) (m : Nat) => setSource (updThr u e t fun th => { th with armed := none }) e (52 + t.val) m
    (engUp s = true → (∀ m, matchTick (thr s e t) = some m → s.dt < m) →
      exec (.tcmpArm e t v) s = .next (high s) ∧ exec (.tcmpDisarm e t v) s = .next (low s)) ∧
    (∀ m, engUp s = true → matchTick (thr s e t) = some m → m ≤ s.dt →
      exec (.tcmpArm e t v) s = .next (high (made s m)) ∧ exec (.tcmpDisarm e t v) s = .next (low (made s m))) ∧
    (∀ m, engUp s = true → matchTick (thr s e t) = some m → exec (.timeMatch e t) s = .next (made (advanceTo s m) m)) ∧
    (matchTick (thr s e t) = none → exec (.timeMatch e t) s = .next s) ∧
    (engUp s = false → exec (.tcmpArm e t v) s = .next s ∧ exec (.tcmpDisarm e t v) s = .next s ∧ exec (.timeMatch e t) s = .next s)

/-- The tick of a match (R395): the first after the arming whose low 36 bits are the compare words. -/
def MatchTime : Prop :=
  ∀ (th : NgThread) (w m : Nat),
    th.armed = some w →
    matchTick th = some m →
    w < m ∧ m ≤ w + 2 ^ 36 ∧ m % 2 ^ 36 = th.tcmpL.toNat + th.tcmpH.toNat * 2 ^ 18

/-- CV_LOAD and CV_CFG_WRITE (R420, R422): VAL takes INIT; the configuration is written with the values cut to its width; a reserved width is refused with 0x83. -/
def CheckUnit : Prop :=
  ∀ (s : State) (e : Fin 512) (v : Word18),
    engUp s = true →
    let c := cvSettle (eng s e).cv s.dt
    exec (.cvLoad e v) s = .next (updEng s e fun g => { g with cv := { c with val := c.init } }) ∧
    exec (.cvCfgWrite e v) s = .next (if fld v 0 5 < 2 then recInternal s (.nce e) 0x83 (0o113000)
      else updEng s e fun g => { g with cv := { c with cfg := v &&& 0xFF, poly := c.poly % 2 ^ (fld v 0 5 + 1), init := c.init % 2 ^ (fld v 0 5 + 1), val := c.val % 2 ^ (fld v 0 5 + 1) } })

/-- R387: a source set at the end of a tick and not cleared is pending from it on; one cleared at a later tick is pending until then, in
whichever order the two are made; a set and a clear in one tick leave it pending, also where it was pending before. -/
def SourceSpans : Prop :=
  ∀ (x : EvSrc) (u c k : Nat),
    x.clears = [] →
    u < c →
    (x.spans = [] → (pendingAt (setSpan x u) k = decide (u ≤ k)) ∧ (pendingAt (clearSpan (setSpan x u) c) k = (decide (u ≤ k) && decide (k < c))) ∧
      (pendingAt (setSpan (clearSpan x c) u) k = (decide (u ≤ k) && decide (k < c))) ∧ pendingAt (clearSpan (setSpan x u) u) k = decide (u ≤ k)) ∧
    ∀ a, x.spans = [(a, none)] → a ≤ u → pendingAt (clearSpan (setSpan x u) u) k = decide (a ≤ k)

/-- RUN, STEP and HALT through THR_CTRL (R378 to R382): a halted thread runs or steps, after 96 ticks where the whole engine was halted and 4 otherwise, its fault cleared, and THR_STAT shows it after the tick in which the write takes effect (R379); a waiting one halts at once unless its wait ends first; of a running one the halt is kept for its next boundary; before Sage releases the clusters nothing runs (R102). -/
def RunHalt : Prop :=
  ∀ (s : State) (e : Fin 512) (t : Fin 4) (v : Word18) (w : Nat),
    threadExists s e t = true →
    strStopped s (16 + e.val / 16) = false →
    let h := match (thr s e t).haltAt with
      | some x => min x w
      | none => w
    let k := updThr s e t fun th => { th with haltAt := some h }
    ((thr s e t).st = 0 → bit v 0 = true ∨ bit v 2 = true → thrCtrl s e t v w = if engUp s = true then updThr s e t fun th =>
      { th with st := if bit v 2 then 3 else 1, fault := 0, next := w + (if allHalted s e then 96 else 4), dslot := none, entered := false, rete := none, statWas := some (w, thrStat s e t w) } else s) ∧
    ((thr s e t).st = 0 → bit v 0 = false → bit v 2 = false → thrCtrl s e t v w = s) ∧
    ((thr s e t).st = 2 → bit v 1 = true → thrCtrl s e t v w = if ((waitEnd k e t).any fun x => decide (x ≤ h)) = true then k
      else updThr k e t haltThread) ∧
    ((thr s e t).st = 1 ∨ (thr s e t).st = 3 → bit v 1 = true → thrCtrl s e t v w = k) ∧
    ((thr s e t).st ≠ 0 → bit v 1 = false → thrCtrl s e t v w = s)

end Sys2Proof.Claims

open Sys2Proof Sys2Proof.Machine Sys2Proof.Claims in
/-- R378 to R396 and R420. Completes: threadHaltApplied, eventEntry, ngWaitEnd, tcmpArm, tcmpDisarm, timeMatch, cvLoad, cvCfgWrite. -/
def Obligations.ThreadControlAndEvents : Prop :=
  HaltApplied ∧
  EventEntry ∧
  Entered ∧
  Selected ∧
  NotSelected ∧
  WaitEnd ∧
  TimeMatch ∧
  MatchTime ∧
  CheckUnit ∧
  SourceSpans ∧
  RunHalt

namespace Sys2Proof.Claims

open Sys2Proof.Machine

/-- A register access passes ingress at once: its DID is not gated and has a free credit, and no access of its source waits ahead of it
(R31, R536, R590). -/
abbrev Enters (s : State) (q : RegReq) : Prop :=
  gated s q.attr.did = false ∧ credFree s q.attr.did = true ∧ s.fab.stalled.any (regBlocks q) = false

/-- A register of a page is reached by a command: the clocks run, the master may send register requests, the access passes ingress, the
owner check passes, and the block is neither asleep nor under soft reset where that matters (R120). A port cell has done by then what the
present tick brings it (`pageNow`, R467). -/
abbrev Reached (s : State) (m : Master) (lvl : Fin 4) (p : Page) (off : Nat) (d : Option Reg32) (cls : Cls := 1) : Prop :=
  clocksOn s = true ∧ admits (.page p) m = true ∧ Enters s (regReq s m lvl cls (pageAddr p + off) true d) ∧
    ownerFails s (regReq s m lvl cls (pageAddr p + off) true d) p = false ∧
    (decide (0x040 ≤ off) && (pageAsleep s p || blkBusy (pageNow s p) p)) = false

/-- A write of a register is accepted: no rule of R120 or of the block rejects it, and it does not have to wait. -/
abbrev Accepted (s : State) (m : Master) (lvl : Fin 4) (p : Page) (off : Nat) (v : Reg32) (env : MemEnv) : Prop :=
  Reached s m lvl p off (some v) env.cls ∧ writeReject (pageNow s p) (regReq s m lvl env.cls (pageAddr p + off) true (some v)) p off v = none ∧
    (putReg (pageNow s p) (regReq s m lvl env.cls (pageAddr p + off) true (some v)) p off v env).isOk = true

/-- What an accepted write leaves: its effect, and an answer without error. -/
def written (s : State) (m : Master) (lvl : Fin 4) (p : Page) (off : Nat) (v : Reg32) (env : MemEnv) : State :=
  match putReg (pageNow s p) (regReq s m lvl env.cls (pageAddr p + off) true (some v)) p off v env with
  | .ok t => answer t false 0
  | .error t => t

/-- What a read leaves: its effect, and its value as the answer. -/
def readOut (s : State) (m : Master) (lvl : Fin 4) (p : Page) (off : Nat) (cls : Cls) : State :=
  let q := regReq s m lvl cls (pageAddr p + off) true none
  answer (readEffect (pageNow s p) q p off) false (regView (pageNow s p) q p off).toNat

/-- A write reaches the effect `t` of the block, after which a napping core whose priority is presented wakes. -/
def Puts (s : State) (q : RegReq) (p : Page) (off : Nat) (v : Reg32) (t : State) : Prop := putReg s q p off v {} = .ok (napWake t)

/-- A read of a stored register answers what it holds, and sets the bits of `rc` to zero. -/
def readClears (s : State) (p : Page) (off rc : Nat) : State :=
  answer (wr s p off (rd s p off &&& ~~~(BitVec.ofNat 32 rc))) false (rd s p off).toNat

end Sys2Proof.Claims

namespace Sys2Proof.Claims

open Sys2Proof.Machine

/-- ERR_CNT_READ (R118): the counts of flushed and of recorded errors, which the read sets to zero. -/
def ErrCntReadRow : Prop :=
  ∀ (s : State) (m : Master) (lvl : Fin 4) (p : Page),
    Reached s m lvl p 0x02C none →
    exec (.errCntRead m lvl p) s = .next (readClears (pageNow s p) p 0x02C 0xFFFFFFFF)

/-- FERR_LOST_READ (R123): LOST, which the read sets to zero. -/
def FerrLostReadRow : Prop :=
  ∀ (s : State) (m : Master) (lvl : Fin 4),
    Reached s m lvl .ferr 0x058 none →
    exec (.ferrLostRead m lvl) s = .next (readClears s .ferr 0x058 0xFFFF)

/-- DT_LO_READ (R104): the low word of device time; the high word is latched for the reader. -/
def DtLoReadRow : Prop :=
  ∀ (s : State) (m : Master) (lvl : Fin 4) (k : Nat),
    Reached s m lvl .ckrs 0x048 none →
    dtLatchOf m = some k →
    exec (.dtLoRead m lvl) s = .next (answer { s with fab := { s.fab with dtHi := SMap.put s.fab.dtHi k (dtP s / 2 ^ 32 % 2 ^ 32) } } false (dtP s % 2 ^ 32))

/-- CONF_CNT_READ (R286, R287): one conflict count, which the read sets to zero. -/
def ConfCntReadRow : Prop :=
  ∀ (s : State) (m : Master) (lvl : Fin 4) (i : Fin 8),
    Reached s m lvl .sram (0x064 + 8 * i.val) none →
    exec (.confCntRead m lvl i) s = .next (readClears s .sram (0x064 + 8 * i.val) 0xFFFFFFFF)

/-- DMC_PSTAT_READ (R314): the buffered requests of the port, whether it panics, and the longest wait, which the read sets to zero. -/
def DmcPstatReadRow : Prop :=
  ∀ (s : State) (m : Master) (lvl : Fin 4) (i : Fin 8),
    Reached s m lvl .dmc (0x080 + 4 * i.val) none →
    exec (.dmcPstatRead m lvl i) s = .next (answer (wr s .dmc (0x080 + 4 * i.val) (rd s .dmc (0x080 + 4 * i.val) &&& 0xFFFF)) false
      ((portLevel s i + 2 ^ 7 * (SMap.get false s.dram.panic i).toNat + 2 ^ 16 * rdF s .dmc (0x080 + 4 * i.val) 16 16) % 2 ^ 32))

/-- DCH_CE_READ (R316): the corrected errors, which the read sets to zero. -/
def DchCeReadRow : Prop :=
  ∀ (s : State) (m : Master) (lvl : Fin 4) (ch : Fin 18),
    Reached s m lvl (.dch ch) 0x044 none →
    exec (.dchCeRead m lvl ch) s = .next (readClears s (.dch ch) 0x044 0xFFFFFFFF)

/-- DCH_UE_READ (R316): the uncorrectable errors, which the read sets to zero. -/
def DchUeReadRow : Prop :=
  ∀ (s : State) (m : Master) (lvl : Fin 4) (ch : Fin 18),
    Reached s m lvl (.dch ch) 0x048 none →
    exec (.dchUeRead m lvl ch) s = .next (readClears s (.dch ch) 0x048 0xFFFFFFFF)

/-- CM_CONF_READ (R425): the ticks of conflict, which the read sets to zero. -/
def CmConfReadRow : Prop :=
  ∀ (s : State) (m : Master) (lvl : Fin 4) (k : Fin 32) (i : Fin 9),
    Reached s m lvl (.nc k) (0x080 + 4 * i.val) none →
    exec (.cmConfRead m lvl k i) s = .next (readClears s (.nc k) (0x080 + 4 * i.val) 0xFFFFFFFF)

/-- CAP_LOST_READ (R467): the lost captures, those of edges that have been stored by the tick of the read, which the read sets to zero. -/
def CapLostReadRow : Prop :=
  ∀ (s : State) (m : Master) (lvl : Fin 4) (n : Fin 256),
    Reached s m lvl (.pc n) 0x070 none →
    exec (.capLostRead m lvl n) s = .next (readClears (cellAt s n s.dt) (.pc n) 0x070 0xFFFF)

/-- ETH_STAT_READ (R488): the link and the CRC errors; the read sets the latter, bits 31:16, to zero. -/
def EthStatReadRow : Prop :=
  ∀ (s : State) (m : Master) (lvl : Fin 4) (k : Fin 8),
    Reached s m lvl (.eth k) 0x044 none →
    exec (.ethStatRead m lvl k) s = .next (readClears s (.eth k) 0x044 0xFFFF0000)

/-- ETH_RXDROP_READ (R488): the dropped frames, which the read sets to zero. -/
def EthRxdropReadRow : Prop :=
  ∀ (s : State) (m : Master) (lvl : Fin 4) (k : Fin 8),
    Reached s m lvl (.eth k) 0x0A4 none →
    exec (.ethRxdropRead m lvl k) s = .next (readClears s (.eth k) 0x0A4 0xFFFFFFFF)

/-- SYNT_NS_READ (R490): the nanoseconds of synchronised time; the seconds are latched for the reader. -/
def SyntNsReadRow : Prop :=
  ∀ (s : State) (m : Master) (lvl : Fin 4) (k : Nat),
    Reached s m lvl .tylw 0x080 none →
    syntLatchOf m = some k →
    exec (.syntNsRead m lvl) s = .next (answer { s with synt := { s.synt with latch := SMap.set 0 s.synt.latch k (syntNow s / secUnits) } } false (syntNow s % secUnits / 2 ^ 32 % 2 ^ 32))

/-- TYLW_STAT_READ (R501): the link and the frame errors; the read sets the latter, bits 31:16, to zero. -/
def TylwStatReadRow : Prop :=
  ∀ (s : State) (m : Master) (lvl : Fin 4),
    Reached s m lvl .tylw 0x044 none →
    exec (.tylwStatRead m lvl) s = .next (readClears s .tylw 0x044 0xFFFF0000)

/-- IC_STAT_READ (R525): the counts, which the read sets to zero. -/
def IcStatReadRow : Prop :=
  ∀ (s : State) (m : Master) (lvl : Fin 4),
    Reached s m lvl .ictl 0x048 none →
    exec (.icStatRead m lvl) s = .next (readClears s .ictl 0x048 0xFFFFFFFF)

/-- DOM_DROP_READ (R545): the counts, which the read sets to zero. -/
def DomDropReadRow : Prop :=
  ∀ (s : State) (m : Master) (lvl : Fin 4) (d : Fin 64),
    Reached s m lvl (.dom d) 0x064 none →
    exec (.domDropRead m lvl d) s = .next (readClears s (.dom d) 0x064 0xFFFFFFFF)

/-- WAKE_STAT_READ (R565): the record of the wake and CMDS; the read sets CMDS, bits 15:8, to zero. -/
def WakeStatReadRow : Prop :=
  ∀ (s : State) (m : Master) (lvl : Fin 4),
    Reached s m lvl .wake 0x044 none →
    exec (.wakeStatRead m lvl) s = .next (readClears s .wake 0x044 0xFF00)

/-- REGISTER_READ (R120): a 4-byte read of an implemented register reads as it stands; an offset without a register reads zero; a stopped block reads zero from offset 0x040 on. -/
def RegisterReadRow : Prop :=
  ∀ (s : State) (m : Master) (lvl : Fin 4) (p : Page) (off : Fin 0x1000) (cls : Cls),
    off.val % 4 = 0 →
    Reached s m lvl p off none cls →
    exec (.registerRead m lvl (BitVec.ofNat 48 (pageAddr p + off)) true cls) s = .next (if (regInfo p off).isSome then readOut s m lvl p off cls else answer (pageNow s p) false 0)

/-- A block under soft reset reads zero from offset 0x040 on, and the read does nothing (R103). -/
def BusyRead : Prop :=
  ∀ (s : State) (m : Master) (lvl : Fin 4) (p : Page) (off : Fin 0x1000) (cls : Cls),
    off.val % 4 = 0 →
    0x040 ≤ off.val →
    clocksOn s = true →
    admits (.page p) m = true →
    Enters s (regReq s m lvl cls (pageAddr p + off) true none) →
    ownerFails s (regReq s m lvl cls (pageAddr p + off) true none) p = false →
    pageAsleep s p = false →
    blkBusy (pageNow s p) p = true →
    exec (.registerRead m lvl (BitVec.ofNat 48 (pageAddr p + off)) true cls) s = .next (answer (pageNow s p) false 0)

/-- DT_LO (R104): the low word of device time; the read latches the high word for the reader. -/
def DeviceTimeRead : Prop :=
  ∀ (s : State) (n : Fin 24) (lvl : Fin 4),
    let q := regReq s (.core n) lvl 1 (pageAddr .ckrs + 0x048) true none
    regView s q .ckrs 0x048 = BitVec.ofNat 32 (dtP s) ∧ readEffect s q .ckrs 0x048 = { s with fab := { s.fab with dtHi := SMap.put s.fab.dtHi n (dtP s / 2 ^ 32 % 2 ^ 32) } } ∧
      regView (readEffect s q .ckrs 0x048) (regReq s (.core n) lvl 1 (pageAddr .ckrs + 0x04C) true none) .ckrs 0x04C = BitVec.ofNat 32 (dtP s / 2 ^ 32)

/-- The head of the fabric error log and of the fault log as it reads (R123, R573): zero where the log is empty. -/
def HeadRead : Prop :=
  ∀ (s : State) (m : Master) (lvl : Fin 4) (e : Sys2Proof.Machine.FerrEntry) (r : List Sys2Proof.Machine.FerrEntry),
    let q := fun (o : Nat) => regReq s m lvl 1 (pageAddr .ferr + o) true none
    (s.fab.ferr = e :: r → regView s (q 0x048) .ferr 0x048 = BitVec.ofNat 32 e.addr ∧ regView s (q 0x054) .ferr 0x054 = BitVec.ofNat 32 e.time ∧
      regView s (q 0x050) .ferr 0x050 = BitVec.ofNat 32 (tagWord e.attr)) ∧
    (s.fab.ferr = [] → regView s (q 0x048) .ferr 0x048 = 0 ∧ regView s (q 0x054) .ferr 0x054 = 0 ∧ regView s (q 0x050) .ferr 0x050 = 0)

end Sys2Proof.Claims

open Sys2Proof Sys2Proof.Machine Sys2Proof.Claims in
/-- REGISTER_READ, ERR_CNT_READ, FERR_LOST_READ, DT_LO_READ, CONF_CNT_READ, DMC_PSTAT_READ, DCH_CE_READ, DCH_UE_READ, CM_CONF_READ, CAP_LOST_READ,
ETH_STAT_READ, ETH_RXDROP_READ, SYNT_NS_READ, TYLW_STAT_READ, IC_STAT_READ, DOM_DROP_READ and WAKE_STAT_READ. Completes: errCntRead, ferrLostRead,
dtLoRead, confCntRead, dmcPstatRead, dchCeRead, dchUeRead, cmConfRead, capLostRead, ethStatRead, ethRxdropRead, syntNsRead, tylwStatRead,
icStatRead, domDropRead, wakeStatRead, registerRead. -/
def Obligations.RegisterReads : Prop :=
  ErrCntReadRow ∧
  FerrLostReadRow ∧
  DtLoReadRow ∧
  ConfCntReadRow ∧
  DmcPstatReadRow ∧
  DchCeReadRow ∧
  DchUeReadRow ∧
  CmConfReadRow ∧
  CapLostReadRow ∧
  EthStatReadRow ∧
  EthRxdropReadRow ∧
  SyntNsReadRow ∧
  TylwStatReadRow ∧
  IcStatReadRow ∧
  DomDropReadRow ∧
  WakeStatReadRow ∧
  RegisterReadRow ∧
  BusyRead ∧
  DeviceTimeRead ∧
  HeadRead

namespace Sys2Proof.Claims

open Sys2Proof.Machine

/-- IRQ_SET (R116). -/
def IrqSetRow : Prop :=
  ∀ (s : State) (m : Master) (lvl : Fin 4) (p : Page) (v : Reg32),
    Accepted s m lvl p 0x018 v {} →
    exec (.irqSet m lvl p v) s = .next (written s m lvl p 0x018 v {})

/-- BLK_LOCK (R116, R117): LOCK written as 1, EN and AUTO_WAKE at their current values. -/
def BlkLockRow : Prop :=
  ∀ (s : State) (m : Master) (lvl : Fin 4) (p : Page),
    Accepted s m lvl p 0x008 (rd s p 0x008 ||| 8) {} →
    exec (.blkLock m lvl p) s = .next (written s m lvl p 0x008 (rd s p 0x008 ||| 8) {})

/-- BLK_SOFT_RESET (R103): SRST written as 1, the other fields at their current values. -/
def BlkSoftResetRow : Prop :=
  ∀ (s : State) (m : Master) (lvl : Fin 4) (p : Page),
    Accepted s m lvl p 0x008 (rd s p 0x008 ||| 2) {} →
    exec (.blkSoftReset m lvl p) s = .next (written s m lvl p 0x008 (rd s p 0x008 ||| 2) {})

/-- OWNER_BIND (R529 to R531). -/
def OwnerBindRow : Prop :=
  ∀ (s : State) (m : Master) (lvl : Fin 4) (p : Page) (d : Fin 64),
    Accepted s m lvl p 0x030 (BitVec.ofNat 32 d) {} →
    exec (.ownerBind m lvl p d) s = .next (written s m lvl p 0x030 (BitVec.ofNat 32 d) {})

/-- FERR_POP (R123). -/
def FerrPopRow : Prop :=
  ∀ (s : State) (m : Master) (lvl : Fin 4),
    Accepted s m lvl .ferr 0x044 1 {} →
    exec (.ferrPop m lvl) s = .next (written s m lvl .ferr 0x044 1 {})

/-- CLK_WREQ_WRITE (R62, R104). -/
def ClkWreqWriteRow : Prop :=
  ∀ (s : State) (m : Master) (lvl : Fin 4) (v : Reg32),
    Accepted s m lvl .ckrs 0x044 v {} →
    exec (.clkWreqWrite m lvl v) s = .next (written s m lvl .ckrs 0x044 v {})

/-- RST_REQ (R104). -/
def RstReqRow : Prop :=
  ∀ (s : State) (m : Master) (lvl : Fin 4) (key : BitVec 16),
    Accepted s m lvl .ckrs 0x054 (BitVec.ofNat 32 key.toNat) {} →
    exec (.rstReq m lvl key) s = .next (written s m lvl .ckrs 0x054 (BitVec.ofNat 32 key.toNat) {})

/-- PMU_CLR (R255): CLR written as 1, the other fields at their current values. (DEDUCED, log 53). -/
def PmuClrRow : Prop :=
  ∀ (s : State) (m : Master) (lvl : Fin 4) (n : Fin 24),
    Accepted s m lvl (.wcc n) 0x040 (rd s (.wcc n) 0x040 ||| 2) {} →
    exec (.pmuClr m lvl n) s = .next (written s m lvl (.wcc n) 0x040 (rd s (.wcc n) 0x040 ||| 2) {})

/-- CLEAN (R274). -/
def ScCleanRow : Prop :=
  ∀ (s : State) (m : Master) (lvl : Fin 4) (incl : Bool),
    Accepted s m lvl .scac 0x040 (BitVec.ofNat 32 (1 + 16 * (incl).toNat + 2 ^ 8 * (0) + 2 ^ 16 * (0))) {} →
    exec (.scClean m lvl incl) s = .next (written s m lvl .scac 0x040 (BitVec.ofNat 32 (1 + 16 * (incl).toNat + 2 ^ 8 * (0) + 2 ^ 16 * (0))) {})

/-- INV (R274). -/
def ScInvRow : Prop :=
  ∀ (s : State) (m : Master) (lvl : Fin 4) (incl : Bool),
    Accepted s m lvl .scac 0x040 (BitVec.ofNat 32 (2 + 16 * (incl).toNat + 2 ^ 8 * (0) + 2 ^ 16 * (0))) {} →
    exec (.scInv m lvl incl) s = .next (written s m lvl .scac 0x040 (BitVec.ofNat 32 (2 + 16 * (incl).toNat + 2 ^ 8 * (0) + 2 ^ 16 * (0))) {})

/-- CLEAN_INV (R274). -/
def ScCleanInvRow : Prop :=
  ∀ (s : State) (m : Master) (lvl : Fin 4) (incl : Bool),
    Accepted s m lvl .scac 0x040 (BitVec.ofNat 32 (3 + 16 * (incl).toNat + 2 ^ 8 * (0) + 2 ^ 16 * (0))) {} →
    exec (.scCleanInv m lvl incl) s = .next (written s m lvl .scac 0x040 (BitVec.ofNat 32 (3 + 16 * (incl).toNat + 2 ^ 8 * (0) + 2 ^ 16 * (0))) {})

/-- PRELOAD (R270). -/
def ScPreloadRow : Prop :=
  ∀ (s : State) (m : Master) (lvl : Fin 4) (part : Fin 16),
    Accepted s m lvl .scac 0x040 (BitVec.ofNat 32 (4 + 16 * (false).toNat + 2 ^ 8 * (0) + 2 ^ 16 * (part.val))) {} →
    exec (.scPreload m lvl part) s = .next (written s m lvl .scac 0x040 (BitVec.ofNat 32 (4 + 16 * (false).toNat + 2 ^ 8 * (0) + 2 ^ 16 * (part.val))) {})

/-- WAY_CLEAN (R275). -/
def WayCleanRow : Prop :=
  ∀ (s : State) (m : Master) (lvl : Fin 4) (way : Fin 64),
    Accepted s m lvl .scac 0x040 (BitVec.ofNat 32 (5 + 16 * (false).toNat + 2 ^ 8 * (way.val) + 2 ^ 16 * (0))) {} →
    exec (.wayClean m lvl way) s = .next (written s m lvl .scac 0x040 (BitVec.ofNat 32 (5 + 16 * (false).toNat + 2 ^ 8 * (way.val) + 2 ^ 16 * (0))) {})

/-- WAY_OFF (R276). -/
def WayOffRow : Prop :=
  ∀ (s : State) (m : Master) (lvl : Fin 4) (way : Fin 64),
    Accepted s m lvl .scac 0x040 (BitVec.ofNat 32 (6 + 16 * (false).toNat + 2 ^ 8 * (way.val) + 2 ^ 16 * (0))) {} →
    exec (.wayOff m lvl way) s = .next (written s m lvl .scac 0x040 (BitVec.ofNat 32 (6 + 16 * (false).toNat + 2 ^ 8 * (way.val) + 2 ^ 16 * (0))) {})

/-- WAY_ON (R276). -/
def WayOnRow : Prop :=
  ∀ (s : State) (m : Master) (lvl : Fin 4) (way : Fin 64),
    Accepted s m lvl .scac 0x040 (BitVec.ofNat 32 (7 + 16 * (false).toNat + 2 ^ 8 * (way.val) + 2 ^ 16 * (0))) {} →
    exec (.wayOn m lvl way) s = .next (written s m lvl .scac 0x040 (BitVec.ofNat 32 (7 + 16 * (false).toNat + 2 ^ 8 * (way.val) + 2 ^ 16 * (0))) {})

/-- PARTITION_DISABLE (R277): EN written as 0, WAYS at their current values. -/
def PartitionDisableRow : Prop :=
  ∀ (s : State) (m : Master) (lvl : Fin 4) (p : Fin 16),
    Accepted s m lvl .scac (0x084 + 8 * p.val) (keepBits s .scac (0x084 + 8 * p.val) 0x30000) {} →
    exec (.partitionDisable m lvl p) s = .next (written s m lvl .scac (0x084 + 8 * p.val) (keepBits s .scac (0x084 + 8 * p.val) 0x30000) {})

/-- SRAM_BANK_STATE_WRITE (R285): one register of SR_STATE, banks 16i to 16i + 15. -/
def SramBankStateWriteRow : Prop :=
  ∀ (s : State) (m : Master) (lvl : Fin 4) (i : Fin 4) (v : Reg32),
    Accepted s m lvl .sram (0x040 + 4 * i.val) v {} →
    exec (.sramBankStateWrite m lvl i v) s = .next (written s m lvl .sram (0x040 + 4 * i.val) v {})

/-- RMAP_WRITE (R296). -/
def RmapWriteRow : Prop :=
  ∀ (s : State) (m : Master) (lvl : Fin 4) (l : Fin 32) (v : Reg32),
    Accepted s m lvl .rmap (0x040 + 4 * l.val) v {} →
    exec (.rmapWrite m lvl l v) s = .next (written s m lvl .rmap (0x040 + 4 * l.val) v {})

/-- BANK_CFG_WRITE (R428). -/
def BankCfgWriteRow : Prop :=
  ∀ (s : State) (m : Master) (lvl : Fin 4) (b : Fin 16) (v : Reg32),
    Accepted s m lvl (.pb b) 0x040 v {} →
    exec (.bankCfgWrite m lvl b v) s = .next (written s m lvl (.pb b) 0x040 v {})

/-- FORCE_SAFE (R430): set, VSEL at its current value. -/
def ForceSafeRow : Prop :=
  ∀ (s : State) (m : Master) (lvl : Fin 4) (b : Fin 16),
    Accepted s m lvl (.pb b) 0x040 (rd s (.pb b) 0x040 ||| 4) {} →
    exec (.forceSafe m lvl b) s = .next (written s m lvl (.pb b) 0x040 (rd s (.pb b) 0x040 ||| 4) {})

/-- CELL_CTRL_WRITE (R457, R458, R467). -/
def CellCtrlWriteRow : Prop :=
  ∀ (s : State) (m : Master) (lvl : Fin 4) (n : Fin 256) (v : Reg32),
    Accepted s m lvl (.pc n) 0x040 v {} →
    exec (.cellCtrlWrite m lvl n v) s = .next (written s m lvl (.pc n) 0x040 v {})

/-- LANE_CLAIM (R470): the function's configuration word with EN 1. -/
def LaneClaimRow : Prop :=
  ∀ (s : State) (m : Master) (lvl : Fin 4) (x : LaneFn) (v : Reg32),
    Accepted s m lvl (laneFnPage x) 0x040 (v ||| 1) {} →
    exec (.laneClaim m lvl x v) s = .next (written s m lvl (laneFnPage x) 0x040 (v ||| 1) {})

/-- LANE_RELEASE (R470): EN written as 0, the other fields at their current values. -/
def LaneReleaseRow : Prop :=
  ∀ (s : State) (m : Master) (lvl : Fin 4) (x : LaneFn),
    Accepted s m lvl (laneFnPage x) 0x040 (keepBits s (laneFnPage x) 0x040 1) {} →
    exec (.laneRelease m lvl x) s = .next (written s m lvl (laneFnPage x) 0x040 (keepBits s (laneFnPage x) 0x040 1) {})

/-- GCL_GO (R485). -/
def GclGoRow : Prop :=
  ∀ (s : State) (m : Master) (lvl : Fin 4) (k : Fin 8) (env : MemEnv),
    Accepted s m lvl (.eth k) 0x0A0 (rd s (.eth k) 0x0A0 ||| BitVec.ofNat 32 1) env →
    exec (.gclGo m lvl k env) s = .next (written s m lvl (.eth k) 0x0A0 (rd s (.eth k) 0x0A0 ||| BitVec.ofNat 32 1) env)

/-- CB_LOAD (R487). -/
def CbLoadRow : Prop :=
  ∀ (s : State) (m : Master) (lvl : Fin 4) (k : Fin 8) (env : MemEnv),
    Accepted s m lvl (.eth k) 0x0A0 (rd s (.eth k) 0x0A0 ||| BitVec.ofNat 32 2) env →
    exec (.cbLoad m lvl k env) s = .next (written s m lvl (.eth k) 0x0A0 (rd s (.eth k) 0x0A0 ||| BitVec.ofNat 32 2) env)

/-- SYNT_STEP (R490). -/
def SyntStepRow : Prop :=
  ∀ (s : State) (m : Master) (lvl : Fin 4) (v : Reg32),
    Accepted s m lvl .tylw 0x08C v {} →
    exec (.syntStep m lvl v) s = .next (written s m lvl .tylw 0x08C v {})

/-- ACCEPT (R501): written as 1, the other fields of TYLW_CFG at their current values. -/
def TylAcceptRow : Prop :=
  ∀ (s : State) (m : Master) (lvl : Fin 4),
    Accepted s m lvl .tylw 0x040 (rd s .tylw 0x040 ||| 0x10) {} →
    exec (.tylAccept m lvl) s = .next (written s m lvl .tylw 0x040 (rd s .tylw 0x040 ||| 0x10) {})

/-- SGI (R523). -/
def SgiRow : Prop :=
  ∀ (s : State) (m : Master) (lvl : Fin 4) (n : Fin 24) (v : BitVec 8),
    Accepted s m lvl (.icp n) 0x04C (BitVec.ofNat 32 v.toNat) {} →
    exec (.sgi m lvl n v) s = .next (written s m lvl (.icp n) 0x04C (BitVec.ofNat 32 v.toNat) {})

/-- ICP_TCMP_ARM (R522). -/
def IcpTcmpArmRow : Prop :=
  ∀ (s : State) (m : Master) (lvl : Fin 4) (n : Fin 24) (v : Reg32),
    Accepted s m lvl (.icp n) 0x054 v {} →
    exec (.icpTcmpArm m lvl n v) s = .next (written s m lvl (.icp n) 0x054 v {})

/-- ICP_TCMP_DISARM (R522). -/
def IcpTcmpDisarmRow : Prop :=
  ∀ (s : State) (m : Master) (lvl : Fin 4) (n : Fin 24) (v : Reg32),
    Accepted s m lvl (.icp n) 0x050 v {} →
    exec (.icpTcmpDisarm m lvl n v) s = .next (written s m lvl (.icp n) 0x050 v {})

/-- CREATE (R527). -/
def DomCreateRow : Prop :=
  ∀ (s : State) (m : Master) (lvl : Fin 4) (d : Fin 64),
    Accepted s m lvl (.dom d) 0x040 (BitVec.ofNat 32 1) {} →
    exec (.domCreate m lvl d) s = .next (written s m lvl (.dom d) 0x040 (BitVec.ofNat 32 1) {})

/-- RESET (R537). -/
def DomResetRow : Prop :=
  ∀ (s : State) (m : Master) (lvl : Fin 4) (d : Fin 64),
    Accepted s m lvl (.dom d) 0x040 (BitVec.ofNat 32 2) {} →
    exec (.domReset m lvl d) s = .next (written s m lvl (.dom d) 0x040 (BitVec.ofNat 32 2) {})

/-- START (R527). -/
def DomStartRow : Prop :=
  ∀ (s : State) (m : Master) (lvl : Fin 4) (d : Fin 64),
    Accepted s m lvl (.dom d) 0x040 (BitVec.ofNat 32 3) {} →
    exec (.domStart m lvl d) s = .next (written s m lvl (.dom d) 0x040 (BitVec.ofNat 32 3) {})

/-- DESTROY (R540). -/
def DomDestroyRow : Prop :=
  ∀ (s : State) (m : Master) (lvl : Fin 4) (d : Fin 64),
    Accepted s m lvl (.dom d) 0x040 (BitVec.ofNat 32 4) {} →
    exec (.domDestroy m lvl d) s = .next (written s m lvl (.dom d) 0x040 (BitVec.ofNat 32 4) {})

/-- NAP (R551). -/
def MariNapRow : Prop :=
  ∀ (s : State) (m : Master) (lvl : Fin 4) (w : BitVec 3),
    Accepted s m lvl .mari 0x040 (BitVec.ofNat 32 (1 + 16 * w.toNat)) {} →
    exec (.mariNap m lvl w) s = .next (written s m lvl .mari 0x040 (BitVec.ofNat 32 (1 + 16 * w.toNat)) {})

/-- STANDBY (R551). -/
def MariStandbyRow : Prop :=
  ∀ (s : State) (m : Master) (lvl : Fin 4),
    Accepted s m lvl .mari 0x040 (BitVec.ofNat 32 (2 + 16 * (0 : BitVec 3).toNat)) {} →
    exec (.mariStandby m lvl) s = .next (written s m lvl .mari 0x040 (BitVec.ofNat 32 (2 + 16 * (0 : BitVec 3).toNat)) {})

/-- PARK (R551). -/
def MariParkRow : Prop :=
  ∀ (s : State) (m : Master) (lvl : Fin 4),
    Accepted s m lvl .mari 0x040 (BitVec.ofNat 32 (3 + 16 * (0 : BitVec 3).toNat)) {} →
    exec (.mariPark m lvl) s = .next (written s m lvl .mari 0x040 (BitVec.ofNat 32 (3 + 16 * (0 : BitVec 3).toNat)) {})

/-- OFF (R551). -/
def MariOffRow : Prop :=
  ∀ (s : State) (m : Master) (lvl : Fin 4),
    Accepted s m lvl .mari 0x040 (BitVec.ofNat 32 (4 + 16 * (0 : BitVec 3).toNat)) {} →
    exec (.mariOff m lvl) s = .next (written s m lvl .mari 0x040 (BitVec.ofNat 32 (4 + 16 * (0 : BitVec 3).toNat)) {})

/-- FLT_ACK (R585). -/
def FltAckRow : Prop :=
  ∀ (s : State) (m : Master) (lvl : Fin 4) (key : BitVec 16),
    Accepted s m lvl .flts 0x044 (BitVec.ofNat 32 key.toNat) {} →
    exec (.fltAck m lvl key) s = .next (written s m lvl .flts 0x044 (BitVec.ofNat 32 key.toNat) {})

/-- WD_KICK (R572). -/
def WdKickRow : Prop :=
  ∀ (s : State) (m : Master) (lvl : Fin 4) (k : Fin 8) (key : BitVec 8),
    Accepted s m lvl .flts (0x064 + 8 * k.val) (BitVec.ofNat 32 key.toNat) {} →
    exec (.wdKick m lvl k key) s = .next (written s m lvl .flts (0x064 + 8 * k.val) (BitVec.ofNat 32 key.toNat) {})

/-- WD_CFG_WRITE (R572). -/
def WdCfgWriteRow : Prop :=
  ∀ (s : State) (m : Master) (lvl : Fin 4) (k : Fin 8) (v : Reg32),
    Accepted s m lvl .flts (0x060 + 8 * k.val) v {} →
    exec (.wdCfgWrite m lvl k v) s = .next (written s m lvl .flts (0x060 + 8 * k.val) v {})

/-- FLT_LOG_POP (R573). -/
def FltLogPopRow : Prop :=
  ∀ (s : State) (m : Master) (lvl : Fin 4),
    Accepted s m lvl .flts 0x0A4 1 {} →
    exec (.fltLogPop m lvl) s = .next (written s m lvl .flts 0x0A4 1 {})

/-- BIST_START (R577). -/
def BistStartRow : Prop :=
  ∀ (s : State) (m : Master) (lvl : Fin 4) (v : Reg32) (env : MemEnv),
    Accepted s m lvl .bist 0x040 v env →
    exec (.bistStart m lvl v env) s = .next (written s m lvl .bist 0x040 v env)

/-- REGISTER_WRITE (R120): a 4-byte write of a register that is accepted. -/
def RegisterWriteRow : Prop :=
  ∀ (s : State) (m : Master) (lvl : Fin 4) (p : Page) (off : Fin 0x1000) (v : Reg32) (env : MemEnv),
    off.val % 4 = 0 →
    (regInfo p off).isSome = true →
    Accepted s m lvl p off v env →
    exec (.registerWrite m lvl (BitVec.ofNat 48 (pageAddr p + off)) true v env) s = .next (written s m lvl p off v env)

/-- THREAD_RUN, THREAD_HALT and THREAD_STEP through the engine page, and by a thread of the engine itself (R379 to R382, R397). -/
def ThreadControlRow : Prop :=
  ∀ (s : State) (m : Master) (lvl : Fin 4) (e : Fin 512) (t : Fin 4),
    Accepted s m lvl (.nce e) (0x040 + 16 * t.val) 1 {} →
    Accepted s m lvl (.nce e) (0x040 + 16 * t.val) 2 {} →
    Accepted s m lvl (.nce e) (0x040 + 16 * t.val) 4 {} →
    exec (.threadRun (.page m lvl) e t) s = .next (written s m lvl (.nce e) (0x040 + 16 * t.val) 1 {}) ∧
    exec (.threadHalt (.page m lvl) e t) s = .next (written s m lvl (.nce e) (0x040 + 16 * t.val) 2 {}) ∧
    exec (.threadStep (.page m lvl) e t) s = .next (written s m lvl (.nce e) (0x040 + 16 * t.val) 4 {}) ∧
    exec (.threadRun (.engine e) e t) s = .next (thrCtrl s e t 1 s.dt) ∧ exec (.threadHalt (.engine e) e t) s = .next (thrCtrl s e t 2 s.dt) ∧
    exec (.threadStep (.engine e) e t) s = .next (thrCtrl s e t 4 s.dt)

/-- MOVER_START and MOVER_ABORT through the mover page, and by an engine of the cluster with the mover's owner (R416, R418, R419). -/
def MoverRow : Prop :=
  ∀ (s : State) (m : Master) (lvl : Fin 4) (e : Fin 512) (x : Fin 256) (f : Findings),
    Accepted s m lvl (.ncm x) 0x058 1 { words := f } →
    Accepted s m lvl (.ncm x) 0x058 2 { words := [] } →
    clusterOf e = movCluster x →
    mvForeign s e x = false →
    exec (.moverStart (.page m lvl) x f) s = .next (written s m lvl (.ncm x) 0x058 1 { words := f }) ∧
    exec (.moverAbort (.page m lvl) x) s = .next (written s m lvl (.ncm x) 0x058 2 { words := [] }) ∧
    exec (.moverStart (.engine e) x f) s = .next (movWrite s x 6 1 (0o114006 + 8 * (x.val % 8)) f) ∧
    exec (.moverAbort (.engine e) x) s = .next (movWrite s x 6 2 (0o114006 + 8 * (x.val % 8)) [])

end Sys2Proof.Claims

open Sys2Proof Sys2Proof.Machine Sys2Proof.Claims in
/-- The write commands of RegRows.lean: each is the write of one register. Completes: registerWrite, irqSet, blkLock, blkSoftReset, ferrPop,
clkWreqWrite, rstReq, pmuClr, scClean, scInv, scCleanInv, scPreload, wayClean, wayOff, wayOn, partitionDisable, sramBankStateWrite, rmapWrite,
threadRun, threadHalt, threadStep, moverStart, moverAbort, bankCfgWrite, forceSafe, cellCtrlWrite, laneClaim, laneRelease, gclGo, cbLoad,
syntStep, tylAccept, sgi, icpTcmpArm, icpTcmpDisarm, domCreate, domReset, domStart, domDestroy, ownerBind, mariNap, mariStandby, mariPark,
mariOff, fltAck, wdKick, wdCfgWrite, fltLogPop, bistStart. -/
def Obligations.RegisterWrites : Prop :=
  IrqSetRow ∧
  BlkLockRow ∧
  BlkSoftResetRow ∧
  OwnerBindRow ∧
  FerrPopRow ∧
  ClkWreqWriteRow ∧
  RstReqRow ∧
  PmuClrRow ∧
  ScCleanRow ∧
  ScInvRow ∧
  ScCleanInvRow ∧
  ScPreloadRow ∧
  WayCleanRow ∧
  WayOffRow ∧
  WayOnRow ∧
  PartitionDisableRow ∧
  SramBankStateWriteRow ∧
  RmapWriteRow ∧
  BankCfgWriteRow ∧
  ForceSafeRow ∧
  CellCtrlWriteRow ∧
  LaneClaimRow ∧
  LaneReleaseRow ∧
  GclGoRow ∧
  CbLoadRow ∧
  SyntStepRow ∧
  TylAcceptRow ∧
  SgiRow ∧
  IcpTcmpArmRow ∧
  IcpTcmpDisarmRow ∧
  DomCreateRow ∧
  DomResetRow ∧
  DomStartRow ∧
  DomDestroyRow ∧
  MariNapRow ∧
  MariStandbyRow ∧
  MariParkRow ∧
  MariOffRow ∧
  FltAckRow ∧
  WdKickRow ∧
  WdCfgWriteRow ∧
  FltLogPopRow ∧
  BistStartRow ∧
  RegisterWriteRow ∧
  ThreadControlRow ∧
  MoverRow

namespace Sys2Proof.Claims

open Sys2Proof.Machine

/-- The request of a command that writes a register, a core's with class LL. -/
def wq (s : State) (m : Master) (lvl : Fin 4) (p : Page) (off : Nat) (v : Reg32) : RegReq := regReq s m lvl 1 (pageAddr p + off) true (some v)

end Sys2Proof.Claims

namespace Sys2Proof.Claims

open Sys2Proof.Machine

/-- FERR_POP (R123): the oldest entry leaves the fabric error log. -/
def EffFerrPop : Prop :=
  ∀ (s : State) (q : RegReq),
    Puts s q .ferr 0x044 1 ({ s with fab := { s.fab with ferr := s.fab.ferr.tail } })

/-- FLT_LOG_POP (R573): the oldest entry leaves the fault log. -/
def EffFltPop : Prop :=
  ∀ (s : State) (q : RegReq),
    Puts s q .flts 0x0A4 1 ({ s with faultLog := s.faultLog.tail })

/-- FLT_ACK (R570, R585): each key clears its latch. -/
def EffFltAck : Prop :=
  ∀ (s : State) (q : RegReq),
    Puts s q .flts 0x044 0x5AF3 (wrB s .flts 0x040 0 false) ∧ Puts s q .flts 0x044 0xA50C (wrB s .flts 0x040 1 false)

/-- WD_KICK and WD_CFG_WRITE (R572): the watchdog starts again with its PERIOD; a PERIOD of zero stops it. -/
def EffWatchdog : Prop :=
  ∀ (s : State) (q : RegReq) (k : Fin 8) (v : Reg32),
    Puts s q .flts (0x064 + 8 * k.val) 0xC8 (wdStart s k) ∧ Puts s q .flts (0x060 + 8 * k.val) v (wdStart (wr s .flts (0x060 + 8 * k.val) (BitVec.ofNat 32 (fld v 0 22))) k) ∧
    (SMap.get {} (wdStart s k).wdogs k = if rdF s .flts (0x060 + 8 * k.val) 0 16 = 0 then {} else { running := true, deadline := dtP s + rdF s .flts (0x060 + 8 * k.val) 0 16 * 1600000 / 9 })

/-- RST_REQ (R104): module reset with cause 9. -/
def EffModuleReset : Prop :=
  ∀ (s : State) (q : RegReq),
    Puts s q .ckrs 0x054 0xC3A5 (moduleReset s 9 0 false)

/-- CLK_WREQ_WRITE (R62, R104): the points asked for are applied. -/
def EffClock : Prop :=
  ∀ (s : State) (q : RegReq) (v : Reg32),
    Puts s q .ckrs 0x044 v (applyPoints (plainWrite s .ckrs 0x044 v))

/-- NAP, STANDBY, PARK and OFF (R551): Marionette takes the request. -/
def EffMari : Prop :=
  ∀ (s : State) (q : RegReq) (v : Reg32),
    Puts s q .mari 0x040 v (mariRequest s v)

/-- CREATE, RESET, START and DESTROY (R527, R537, R540). -/
def EffDomain : Prop :=
  ∀ (s : State) (q : RegReq) (d : Fin 64),
    Puts s q (.dom d) 0x040 1 (setDom s d 1 0) ∧ Puts s q (.dom d) 0x040 2 (mariDomReset (startReset s d)) ∧ Puts s q (.dom d) 0x040 3 (startDomain s d) ∧
    Puts s q (.dom d) 0x040 4 (destroyDomain s d)

/-- OWNER_BIND and BLK_SOFT_RESET (R103, R529, R530): the slice is bound to its DID; a soft reset starts, and one more while it runs changes nothing (the model's choice, log entry 26). -/
def EffSlices : Prop :=
  ∀ (s : State) (q : RegReq) (p : Page) (v : Reg32),
    bindable p = true →
    Puts s q p 0x030 v (bindSlice s p (fld v 0 6)) ∧ Puts s q p 0x008 v (ctrlWrite s p v) ∧ (blkBusy (plainWrite s p 0x008 v) p = true → ctrlWrite s p v = plainWrite s p 0x008 v) ∧
    (bit v 1 = true → blkBusy (plainWrite s p 0x008 v) p = false → rdB (ctrlWrite s p v) p 0x00C 3 = true)

/-- IRQ_SET (R116, R504): the bits that the page has are set and its line follows. -/
def EffIrq : Prop :=
  ∀ (s : State) (q : RegReq) (p : Page) (v : Reg32),
    Puts s q p 0x018 v (setIrq s p (v &&& irqBits p).toNat)

/-- CLEAN, INV, CLEAN_INV, PRELOAD, WAY_CLEAN, WAY_OFF, WAY_ON and PARTITION_DISABLE (R270, R274 to R277): the command starts; a write of zero does nothing; a partition register takes its value. -/
def EffSysCache : Prop :=
  ∀ (s : State) (q : RegReq) (v : Reg32) (i : Fin 16),
    fld v 0 4 ≠ 0 →
    Puts s q .scac 0x040 v (scStart s v) ∧ Puts s q .scac 0x040 0 s ∧ Puts s q .scac (0x084 + 8 * i.val) v (partWrite s (0x084 + 8 * i.val) v)

/-- THREAD_RUN, THREAD_HALT, THREAD_STEP and the mover commands (R379, R397, R416, R418): through the page thread control, a thread's pc and the mode of the engine take effect two to three ticks later, which of them is a free value (log entry 56); the words of an engine that Sage has not released stay. -/
def EffEngines : Prop :=
  ∀ (s : State) (q : RegReq) (e : Fin 512) (t : Fin 4) (x : Fin 256) (v : Reg32),
    let w := s.dt + 2 + (freeVal 1 s).1
    Puts s q (.nce e) (0x040 + 16 * t.val) v (thrCtrl (freeVal 1 s).2 e t (v.truncate 18) w) ∧
    Puts s q (.nce e) (0x048 + 16 * t.val) v (if engUp s = true then pcPut (freeVal 1 s).2 e t (v.truncate 18) w else s) ∧
    Puts s q (.nce e) 0x080 v (if engUp s = true then engMode (freeVal 1 s).2 e (v.truncate 18) w else s) ∧
    Puts s q (.ncm x) 0x058 v (movWrite s x 6 (v.truncate 18) 0x058 [])

/-- PMU_CLR (R255): all six counters read zero. -/
def EffPerformance : Prop :=
  ∀ (s : State) (q : RegReq) (n : Fin 24) (v : Reg32) (i : Fin 6),
    bit v 1 = true →
    Puts s q (.wcc n) 0x040 v (pmuCtrl s n v) ∧ rd (pmuCtrl s n v) (.wcc n) (0x060 + 4 * i.val) = 0

/-- ICP_TCMP_ARM and ICP_TCMP_DISARM (R522): the high word arms the match, the low word disarms it. -/
def EffCoreTimer : Prop :=
  ∀ (s : State) (q : RegReq) (n : Fin 24) (v : Reg32),
    (putReg s q (.icp n) 0x054 v {}).map (fun t => SMap.get false t.ic.armed n) = .ok true ∧ (putReg s q (.icp n) 0x050 v {}).map (fun t => SMap.get false t.ic.armed n) = .ok false

/-- CELL_CTRL_WRITE, BANK_CFG_WRITE and FORCE_SAFE (R428, R430, R457). -/
def EffCells : Prop :=
  ∀ (s : State) (q : RegReq) (b : Fin 16) (v : Reg32),
    Puts s q (.pb b) 0x040 v (bankWrite s b v)

/-- RMAP_WRITE, SRAM_BANK_STATE_WRITE (R285, R296): the map takes the value; bank states change as R285 states. -/
def EffRanks : Prop :=
  ∀ (s : State) (q : RegReq) (l : Fin 32) (i : Fin 4) (v : Reg32),
    Puts s q .rmap (0x040 + 4 * l.val) v (plainWrite s .rmap (0x040 + 4 * l.val) v) ∧ Puts s q .sram (0x040 + 4 * i.val) v (srWrite s (0x040 + 4 * i.val) v)

/-- A write of a DMC_PORT register (R304): the port's panic follows the new values at once: it is on from PANIC_ON entries, stays on above PANIC_OFF, and is off while PANIC_EN is 0. -/
def EffPanic : Prop :=
  ∀ (s : State) (q : RegReq) (i : Fin 8) (v : Reg32),
    let u := wr s .dmc (0x060 + 4 * i.val) (v &&& 0x0FFFBF3F)
    Puts s q .dmc (0x060 + 4 * i.val) v (updPanic u i) ∧
    ∀ t : State, let r := rd t .dmc (0x060 + 4 * i.val)
      (bit r 15 = false → SMap.get false (updPanic t i).dram.panic i = false) ∧
      (bit r 15 = true → SMap.get false t.dram.panic i = false → SMap.get false (updPanic t i).dram.panic i = decide (fld r 0 6 ≤ portLevel t i)) ∧
      (bit r 15 = true → SMap.get false t.dram.panic i = true → SMap.get false (updPanic t i).dram.panic i = decide (fld r 8 6 < portLevel t i))

/-- A register as plain storage (R7, R116): each RW and RW-H bit takes the value written, each W1C bit written as 1 clears, each W1S bit written as 1 is set, and every other bit, and every other register, is kept. -/
def PlainStore : Prop :=
  ∀ (s : State) (p : Page) (off : Nat) (v : Reg32) (r : RegInfo) (i : Nat),
    regInfo p off = some r →
    i < 32 →
    r.w1c &&& r.w1s = 0 →
    (r.rw ||| r.rwh) &&& (r.w1c ||| r.w1s) = 0 →
    bit (rd (plainWrite s p off v) p off) i = (if (r.rw ||| r.rwh).testBit i then bit v i
      else if r.w1c.testBit i then bit (rd s p off) i && !bit v i
      else if r.w1s.testBit i then bit (rd s p off) i || bit v i
      else bit (rd s p off) i) ∧
    ∀ p' off', pageAddr p' + off' ≠ pageAddr p + off → rd (plainWrite s p off v) p' off' = rd s p' off'

/-- The line of a page (R504): a change of its enabled pending bits sends ASSERT or DEASSERT; without a change no message is sent. -/
def LineFollows : Prop :=
  ∀ (s : State) (p : Page) (f : State → State) (k : Nat),
    sourceOf p = some k →
    (lineUp s p = false → lineUp (f s) p = true → withLine p f s = sendMsg (f s) p k .assert) ∧ (lineUp s p = true → lineUp (f s) p = false → withLine p f s = sendMsg (f s) p k .deassert) ∧
    (lineUp (f s) p = lineUp s p → withLine p f s = f s)

end Sys2Proof.Claims

open Sys2Proof Sys2Proof.Machine Sys2Proof.Claims in
/-- The register map's side effects. -/
def Obligations.RegisterEffects : Prop :=
  EffFerrPop ∧
  EffFltPop ∧
  EffFltAck ∧
  EffWatchdog ∧
  EffModuleReset ∧
  EffClock ∧
  EffMari ∧
  EffDomain ∧
  EffSlices ∧
  EffIrq ∧
  EffSysCache ∧
  EffEngines ∧
  EffPerformance ∧
  EffCoreTimer ∧
  EffCells ∧
  EffRanks ∧
  EffPanic ∧
  PlainStore ∧
  LineFollows

namespace Sys2Proof.Claims

open Sys2Proof.Machine

/-- A request of a master that the register region does not admit, one that carries the DID of a gated domain, one that is not a single 4-byte access, and one of a wrong owner get an error response and a record in the fabric error log (R105, R120, R123, R541, R590). -/
def BridgeMaster : Prop :=
  ∀ (s : State) (m : Master) (lvl : Fin 4) (p : Page) (off : Fin 0x1000) (d : Option Reg32) (single : Bool) (cls : Cls),
    let q := regReq s m lvl cls (pageAddr p + off) single d
    clocksOn s = true →
    (off.val % 4 = 0 ∨ admits (.page p) m = false ∨ single = false) →
    (admits (.page p) m = false ∨ gated s q.attr.did = true ∨ ((single = false ∨ ownerFails s q p = true) ∧ Enters s q)) →
    let k : Kind := if admits (.page p) m = false then .master else if gated s q.attr.did = true then .wrongOwner else if single = false then .size else .wrongOwner
    exec (match d with
      | none => .registerRead m lvl (BitVec.ofNat 48 (pageAddr p + off)) single cls
      | some v => .registerWrite m lvl (BitVec.ofNat 48 (pageAddr p + off)) single v { cls := cls }) s = .next (answer (ferrLog s m q.attr (regOpOf q) q.addr k) true 0)

/-- REGISTER_READ and REGISTER_WRITE (R31, R536, R590): an access whose DID has no free credit, or that has one of its source to its page, or one that waits at ingress, ahead of it, waits at ingress. -/
def BridgeWaits : Prop :=
  ∀ (s : State) (m : Master) (lvl : Fin 4) (p : Page) (off : Fin 0x1000) (d : Option Reg32) (single : Bool) (cls : Cls),
    let q := regReq s m lvl cls (pageAddr p + off) single d
    clocksOn s = true →
    admits (.page p) m = true →
    gated s q.attr.did = false →
    (credFree s q.attr.did = false ∨ s.fab.stalled.any (regBlocks q) = true) →
    exec (match d with
      | none => .registerRead m lvl (BitVec.ofNat 48 (pageAddr p + off)) single cls
      | some v => .registerWrite m lvl (BitVec.ofNat 48 (pageAddr p + off)) single v { cls := cls }) s = .next (stallReq s q)

/-- An access to a sleeping block (R120, R122): without AUTO_WAKE it gets an error response; with it the access waits in the bridge and the block is woken. -/
def BridgeAsleep : Prop :=
  ∀ (s : State) (m : Master) (lvl : Fin 4) (p : Page) (off : Fin 0x1000) (d : Option Reg32) (cls : Cls),
    let q := regReq s m lvl cls (pageAddr p + off) true d
    clocksOn s = true →
    (off.val % 4 = 0 ∧ 0x040 ≤ off.val) →
    admits (.page p) m = true →
    Enters s q →
    ownerFails s q p = false →
    pageAsleep s p = true →
    exec (match d with
      | none => .registerRead m lvl (BitVec.ofNat 48 (pageAddr p + off)) true cls
      | some v => .registerWrite m lvl (BitVec.ofNat 48 (pageAddr p + off)) true v { cls := cls }) s
      = .next (if rdB s p 0x008 2 then stallReq (autoWake s) { q with inside := true } else answer (ferrLog s m q.attr (regOpOf q) q.addr .asleep) true 0)

/-- A write that is rejected (R120, R121) changes nothing but the record of its code in the page, whose interrupt can wake a napping core (R520), and is answered without error. -/
def BridgeReject : Prop :=
  ∀ (s : State) (m : Master) (lvl : Fin 4) (p : Page) (off : Fin 0x1000) (v : Reg32) (c : Nat),
    off.val % 4 = 0 →
    (regInfo p off).isSome = true →
    clocksOn s = true →
    admits (.page p) m = true →
    Enters s (wq s m lvl p off v) →
    ownerFails s (wq s m lvl p off v) p = false →
    (decide (0x040 ≤ off.val) && pageAsleep s p) = false →
    writeReject (pageNow s p) (wq s m lvl p off v) p off v = some c →
    exec (.registerWrite m lvl (BitVec.ofNat 48 (pageAddr p + off)) true v {}) s = .next (answer (napWake (rejectWrite (pageNow s p) (wq s m lvl p off v) p off v c)) false 0)

/-- The order of the rejections (R120, R592): 0x03 for an RW-H field changed below level H, then 0x02 for a locked field, 0x04 for a stopped block, then the value and the block's own refusals; SRST without SR and AUTO_WAKE without AW are refused with 0x01 (the model's choice, log entry 29). -/
def BridgeOrder : Prop :=
  ∀ (s : State) (m : Master) (lvl : Fin 4) (p : Page) (off : Nat) (v : Reg32),
    let q := wq s m lvl p off v
    let cur := regView s q p off
    (privReq q = false → wouldChange cur v (rwhMask p off) (woMask p off) = true → writeReject s q p off v = some 0x03) ∧
    ((privReq q = true ∨ wouldChange cur v (rwhMask p off) (woMask p off) = false) → rdB s p 0x008 3 = true → wouldChange cur v (lockMask p off) (woMask p off) = true → writeReject s q p off v = some 0x02) ∧
    ((privReq q = true ∨ wouldChange cur v (rwhMask p off) (woMask p off) = false) → (rdB s p 0x008 3 = false ∨ wouldChange cur v (lockMask p off) (woMask p off) = false) → blkBusy s p = true → 0x040 ≤ off →
      writeReject s q p off v = some 0x04) ∧
    (privReq q = true → rdB s p 0x008 3 = false → blkBusy s p = false → 0x040 ≤ off → writeReject s q p off v = blockReject s q off v p) ∧
    (privReq q = true → rdB s p 0x008 3 = false → blkBusy s p = false → off < 0x040 → off ≠ 0x008 → off ≠ 0x030 → writeReject s q p off v = none) ∧
    (privReq q = true → rdB s p 0x008 3 = false → (bit v 1 = true ∧ capSR p = false ∨ bit v 2 = true ∧ capAW p = false) → writeReject s q p 0x008 v = some 0x01)

/-- An offset without a register (R114): a read answers zero, a write does nothing. -/
def BridgeHole : Prop :=
  ∀ (s : State) (m : Master) (lvl : Fin 4) (p : Page) (off : Fin 0x1000) (d : Option Reg32) (cls : Cls),
    off.val % 4 = 0 →
    Reached s m lvl p off d cls →
    (regInfo p off).isSome = false →
    exec (match d with
      | none => .registerRead m lvl (BitVec.ofNat 48 (pageAddr p + off)) true cls
      | some v => .registerWrite m lvl (BitVec.ofNat 48 (pageAddr p + off)) true v { cls := cls }) s = .next (answer (pageNow s p) false 0)

/-- While the clocks stand no register command has an effect (R88). -/
def BridgeStopped : Prop :=
  ∀ (s : State) (m : Master) (lvl : Fin 4) (a : BitVec 48) (single : Bool) (v : Reg32) (cls : Cls) (env : MemEnv),
    clocksOn s = false →
    exec (.registerRead m lvl a single cls) s = .next s ∧ exec (.registerWrite m lvl a single v env) s = .next s

/-- AUTO_WAKE_DONE (R120, R122): the first waiting access whose block is awake is served (its being the first is the model's choice, log entry 29), and its answer goes to its master. -/
def AutoWakeDone : Prop :=
  ∀ (s t : State) (q : RegReq) (p : Page) (r : Resp) (env : MemEnv),
    (s.fab.stalled.find? fun q => q.inside && !reqAsleep s q) = some q →
    pageOfAddr q.addr = some p →
    serveReg (dropStalled s q) q p env = (t, some r) →
    exec (.autoWakeDone env) s = .next (giveAnswer t q r)

/-- AUTO_WAKE_DONE (R31): an access that has to wait again keeps its place among the others that wait. -/
def AutoWakeAgain : Prop :=
  ∀ (s u : State) (q : RegReq) (p : Page) (env : MemEnv),
    (s.fab.stalled.find? fun q => q.inside && !reqAsleep s q) = some q →
    pageOfAddr q.addr = some p →
    serveReg (dropStalled s q) q p env = (stallReq u { q with inside := true }, none) →
    u.fab.stalled = (dropStalled s q).fab.stalled →
    exec (.autoWakeDone env) s = .next { u with fab := { u.fab with stalled := s.fab.stalled } }

/-- AUTO_WAKE_TIMEOUT (R120, R121): the first waiting access whose block still sleeps (the first: log entry 29) gets an error response; code 0x06 and the fabric error log record it. -/
def AutoWakeTimeout : Prop :=
  ∀ (s : State) (q : RegReq) (p : Page),
    (s.fab.stalled.find? fun q => q.inside && reqAsleep s q) = some q →
    pageOfAddr q.addr = some p →
    let u := ferrLog (dropStalled s q) q.m q.attr (regOpOf q) q.addr .wakeTimeout
    exec .autoWakeTimeout s = .next (giveAnswer (recordErr u p 0x06 contained q.attr (q.addr % 0x1000) (owner u p)) q { err := true })

/-- The answer to an access that had waited (R29, R535): its credit returns; one of an earlier generation is discarded and counted (the count: log entry 36); another goes to its master: the load of a core takes it, a failed store of a core becomes a STORE_BUS exception. -/
def LateAnswer : Prop :=
  ∀ (s : State) (q : RegReq) (r : Resp) (n : Fin 24) (v : Reg32),
    let u := creditBack s q.attr.did (regOld s q)
    (fresh u q.m q.attr = false → giveAnswer s q r = lateCount u q.m q.attr.did) ∧
    (fresh u q.m q.attr = true → q.direct = true → giveAnswer s q r = answer u r.err r.data) ∧
    (fresh u q.m q.attr = true → q.direct = false → q.m = .core n → q.data = none → giveAnswer s q r = coreAnswer u n { addr := q.addr, len := 4, data := r.data, err := r.err }) ∧
    (fresh u q.m q.attr = true → q.direct = false → q.m = .core n → q.data = some v → giveAnswer s q r = if r.err = true then holdStoreBus u n q.lvl q.addr else u)

/-- SOFT_RESET_DONE (R97, R103): with nothing of the block outstanding its state and every register but OWNER, GEN and LOCK are reset, its crossings flush and its line falls. -/
def SoftResetDone : Prop :=
  ∀ (s : State) (p : Page),
    clocksOn s = true →
    blkBusy s p = true →
    s.fab.lost.contains (pageAddr p) = false →
    outstanding s p = false →
    exec (.softResetDone p) s = .next (flushCrossings (withLine p (fun t => wrB (resetPage t p fun o => o = 0x030 || o = 0x034) p 0x008 3 (rdB t p 0x008 3)) (softReset s p)) p)

/-- SRST_TIMEOUT (R103): with requests outstanding after 50 µs the block stays stopped and 0x05 is recorded; its ERR_ADDR is a free value (log entry 12). -/
def SrstTimeout : Prop :=
  ∀ (s : State) (p : Page),
    clocksOn s = true →
    blkBusy s p = true →
    s.fab.lost.contains (pageAddr p) = false →
    outstanding s p = true →
    let f := freeVal 32 { s with fab := { s.fab with lost := pageAddr p :: s.fab.lost } }
    exec (.srstTimeout p) s = .next (recContained f.2 p 0x05 f.1)

end Sys2Proof.Claims

open Sys2Proof Sys2Proof.Machine Sys2Proof.Claims in
/-- The bridge of R120 to R123, R592, soft resets of R103. Completes: autoWakeDone, autoWakeTimeout, softResetDone, srstTimeout. -/
def Obligations.BridgeChecks : Prop :=
  BridgeMaster ∧
  BridgeWaits ∧
  BridgeAsleep ∧
  BridgeReject ∧
  BridgeOrder ∧
  BridgeHole ∧
  BridgeStopped ∧
  AutoWakeDone ∧
  AutoWakeAgain ∧
  AutoWakeTimeout ∧
  LateAnswer ∧
  SoftResetDone ∧
  SrstTimeout

namespace Sys2Proof.Claims

open Sys2Proof.Machine

/-- CONTAINED_FAULT (R568): from handover on (the model's choice, log entry 30) counted, with the action of the DID it is raised to; action 1 resets the domain, 2 also drives SAFE_N, 3 takes the fatal path, 0 does no more. -/
def ContFault : Prop :=
  ∀ (s u : State) (m : FaultMsg),
    s.sage.phase = .done →
    clocksOn s = true →
    takeFault s false = some (m, u) →
    let act := faultAction u m.did
    let v := bumpF u .flts 0x040 16 16 1
    exec .containedFault s = .next (if act = 3 then fatalPath v false else if act = 0 then v
      else faultReset (if act = 2 then wrB v .flts 0x040 1 true else v) m.did)

/-- FATAL_FAULT (R569): counted, then the fatal path: both latches, then the hold with every cell in SAFE, or module reset with cause 7 where the hold is 0 or the SCU itself failed. -/
def FatFault : Prop :=
  ∀ (s u : State) (m : FaultMsg),
    takeFault s true = some (m, u) →
    let v := bumpF u .flts 0x040 8 8 1
    let w := wr v .flts 0x040 (rd v .flts 0x040 ||| 3)
    exec .fatalFault s = .next (if rdB w .flts 0x040 2 then w else if m.scuOwn = true ∨ rdF w .flts 0x048 0 8 = 0 then moduleReset w 7 0 false
      else wrB ((List.finRange 16).foldl (fun s b => bankSafe s b 4) w) .flts 0x040 2 true)

/-- The oldest message of its class is taken (R566, R573): none of that class stands before it in the queue; those that do, and it itself, have their entries in the fault log by then (log entry 30). -/
def OldestFault : Prop :=
  ∀ (s u : State) (b : Bool) (m : FaultMsg),
    takeFault s b = some (m, u) →
    decide (m.cls = fatal) = b ∧
    ∃ pre post, s.faultQ = pre ++ m :: post ∧ (∀ x ∈ pre, decide (x.cls = fatal) ≠ b) ∧
      u = { logArrived s (pre.length + 1) with faultQ := pre.map (fun x => { x with logged := true }) ++ post }

/-- Entries are made in the order in which the messages arrive (R573; log entry 30): a message behind others that have theirs gets its entry, with action 3 where it is fatal and else that of its DID; one that has it gets no second one; a module reset leaves those of all that had arrived. -/
def LoggedInOrder : Prop :=
  (∀ (s : State) (m : FaultMsg) (pre post : List FaultMsg),
    s.faultQ = pre ++ m :: post →
    (pre.all fun x => x.logged) = true →
    let u := { s with faultQ := pre ++ { m with logged := true } :: post }
    logArrived s (pre.length + 1) = if m.logged = true then u else logFault u m (if m.cls = fatal then 3 else rdF s .flts (0x050 + 4 * (m.did / 16)) (2 * (m.did % 16)) 2)) ∧
  ∀ (s : State) (c r : Nat) (same : Bool), (moduleReset s c r same).faultLog = (logArrived s s.faultQ.length).faultLog

/-- An entry of the fault log (R573): the oldest sixteen are kept, a lost one sets the flag. -/
def FaultEntry : Prop :=
  ∀ (s : State) (m : FaultMsg) (a : Nat),
    (s.faultLog.length < 16 → ∃ e, logFault s m a = setIrq { s with faultLog := s.faultLog ++ [e] } .flts 1 ∧ e.code = m.code ∧ e.cls = m.cls ∧ e.action = a ∧ e.attr = m.attr ∧
        e.detail = m.detail ∧ e.time = dtF s % 2 ^ 32 ∧ e.slot = pageAddr m.page / 0x1000 % 2 ^ 16) ∧
    (16 ≤ s.faultLog.length → logFault s m a = wrB s .flts 0x0A0 5 true)

/-- FATAL_HOLD_EXPIRE (R98, R569): the hold ends in module reset with cause 7, recorded also in the always-on cycle of a cause that has just ended it. -/
def HoldExpire : Prop :=
  ∀ (s : State) (same : Bool),
    (rdB s .flts 0x040 2 = true ∨ (same = true ∧ s.pwr.live.contains 7 = true)) →
    exec (.fatalHoldExpire same) s = .next (moduleReset s 7 0 same)

/-- SCU_WATCHDOG_EXPIRE (R98, R571): from handover on, module reset with cause 8, recorded also in the always-on cycle of a cause that has just stopped it. -/
def ScuWatchdog : Prop :=
  ∀ (s : State) (same : Bool),
    ((s.sage.phase = .done ∧ clocksOn s = true) ∨ (same = true ∧ s.pwr.live.contains 8 = true)) →
    exec (.scuWatchdogExpire same) s = .next (moduleReset s 8 0 same)

/-- WD_EXPIRE (R572): at its deadline a running watchdog stops and records 0x80, raised to its DID. -/
def WdExpire : Prop :=
  ∀ (s : State) (k : Fin 8),
    (SMap.get {} s.wdogs k).running = true →
    clocksOn s = true →
    let w := SMap.get {} s.wdogs k
    let u := { advanceTo s w.deadline with wdogs := SMap.set {} s.wdogs k { w with running := false, expired := true } }
    exec (.wdExpire k) s = .next (recordErr u .flts 0x80 contained (pageAttr u .flts) k (rdF u .flts (0x060 + 8 * k.val) 16 6))

/-- TAP_RESET (R574): TRST_N low clears the TAP. -/
def TapReset : Prop :=
  ∀ (s : State),
    tapOn s = true →
    exec .tapReset s = .next { s with jtag := {} }

/-- EXTEST (R574, R575). -/
def ExtestRow : Prop :=
  ∀ (s : State),
    tapOn s = true →
    (jtagAdmits s 0x00 = true → exec (.extest) s = .next { s with jtag := { s.jtag with ir := 0x00, act := 0x00 } }) ∧
    (jtagAdmits s 0x00 = false → exec (.extest) s = .next { s with jtag := { s.jtag with ir := 0x00, act := 0xFF, dr := 0 } })

/-- SAMPLE_PRELOAD (R574, R575): the lands are captured, the bits shifted in stand in the boundary register. -/
def SamplePreloadRow : Prop :=
  ∀ (s : State) (lands load : List Bool),
    tapOn s = true →
    (jtagAdmits s 0x01 = true → exec (.samplePreload lands load) s = .next { s with jtag := { ({ s.jtag with bsr := load, dr := Nat.ofBits fun i : Fin lands.length => lands.get i }) with ir := 0x01, act := 0x01 } }) ∧
    (jtagAdmits s 0x01 = false → exec (.samplePreload lands load) s = .next { s with jtag := { s.jtag with ir := 0x01, act := 0xFF, dr := 0 } })

/-- IDCODE (R574). -/
def IdcodeRow : Prop :=
  ∀ (s : State),
    tapOn s = true →
    (jtagAdmits s 0x02 = true → exec (.idcode) s = .next { s with jtag := { ({ s.jtag with dr := 0xB4D39453 }) with ir := 0x02, act := 0x02 } }) ∧
    (jtagAdmits s 0x02 = false → exec (.idcode) s = .next { s with jtag := { s.jtag with ir := 0x02, act := 0xFF, dr := 0 } })

/-- CLAMP (R574, R575). -/
def ClampRow : Prop :=
  ∀ (s : State),
    tapOn s = true →
    (jtagAdmits s 0x03 = true → exec (.clamp) s = .next { s with jtag := { ({ s.jtag with dr := 0 }) with ir := 0x03, act := 0x03 } }) ∧
    (jtagAdmits s 0x03 = false → exec (.clamp) s = .next { s with jtag := { s.jtag with ir := 0x03, act := 0xFF, dr := 0 } })

/-- HIGHZ (R574, R575). -/
def HighzRow : Prop :=
  ∀ (s : State),
    tapOn s = true →
    (jtagAdmits s 0x04 = true → exec (.highz) s = .next { s with jtag := { ({ s.jtag with dr := 0 }) with ir := 0x04, act := 0x04 } }) ∧
    (jtagAdmits s 0x04 = false → exec (.highz) s = .next { s with jtag := { s.jtag with ir := 0x04, act := 0xFF, dr := 0 } })

/-- The lands under the boundary register (R52, R574, R575): HIGHZ releases every one; EXTEST and CLAMP drive a powered land of a port cell, and a special land that is an output, with its bit, an open-drain one low or not at all; another instruction leaves them to the device. (The order of the bits is log entry 51.) -/
def BoundaryLands : Prop :=
  ∀ (s : State) (n : Fin 256) (b x : Bool) (l : SpecialLand),
    (jtagActs s = 0x04 → landOut s n b = 2 ∧ specialLand s l = 2) ∧
    (jtagActs s = 0x00 ∨ jtagActs s = 0x03 →
      (s.jtag.bsr[2 * n.val + b.toNat]? = some x → landOut s n b = if railOn s n = true then x.toNat else 2) ∧
      (s.jtag.bsr[l.bit]? = some x → specialLand s l = if l.input = true ∨ (l.openDrain = true ∧ x = true) then 2 else x.toNat)) ∧
    (jtagActs s ≠ 0x00 → jtagActs s ≠ 0x03 → jtagActs s ≠ 0x04 → landOut s n b = landNow s n b ∧ specialLand s l = specialDrive s l)

/-- MEM_AP is selected (R574, R575). -/
def MemApRow : Prop :=
  ∀ (s : State),
    tapOn s = true →
    (jtagAdmits s 0x10 = true → exec (.memAp none) s = .next { s with jtag := { s.jtag with ir := 0x10, act := 0x10 } }) ∧
    (jtagAdmits s 0x10 = false → exec (.memAp none) s = .next { s with jtag := { s.jtag with ir := 0x10, act := 0xFF, dr := 0 } })

/-- Accesses through MEM_AP to the registers of a core and of a thread (R157, R575): the data register captures what is read; a write changes the register, of a system register what MTS may write. (The registers reached are log entry 51.) -/
def ApRegisters : Prop :=
  ∀ (s : State) (n : Fin 24) (r : Fin 32) (k : Fin 4096) (e : Fin 512) (t : Fin 4) (i : Fin 16) (x : Nat),
    tapOn s = true →
    jtagActs s = 0x10 →
    exec (.memAp (some (.core n (.w r) none))) s = .next (apCapture s (getW s n r).toNat) ∧
    exec (.memAp (some (.core n (.w r) (some x)))) s = .next (setW s n r (BitVec.ofNat 64 x)) ∧
    exec (.memAp (some (.core n (.f r) none))) s = .next (apCapture s (getFr s n r).toNat) ∧
    exec (.memAp (some (.core n (.f r) (some x)))) s = .next (setFr s n r (BitVec.ofNat 64 x)) ∧
    exec (.memAp (some (.core n .pc none))) s = .next (apCapture s (Machine.core s n).pc.toNat) ∧
    exec (.memAp (some (.core n (.sys k) none))) s = .next (apCapture s (sysRead s n k.val).toNat) ∧
    exec (.memAp (some (.core n (.sys k) (some x)))) s = .next (if sysBad k.val (BitVec.ofNat 64 x) = true then s else putSys s n k.val (BitVec.ofNat 64 x)) ∧
    exec (.memAp (some (.eng e t (.n i) none))) s = .next (apCapture s (ngReg (thr s e t) i.val).toNat) ∧
    exec (.memAp (some (.eng e t (.n i) (some x)))) s = .next (updThr s e t fun th => { th with n := SMap.set 0 th.n i.val (BitVec.ofNat 18 x) }) ∧
    exec (.memAp (some (.eng e t .pc none))) s = .next (apCapture s (thr s e t).pc.toNat) ∧
    exec (.memAp (some (.eng e t .st none))) s = .next (apCapture s (thr s e t).sw.toNat) ∧
    exec (.memAp (some (.eng e t .st (some x)))) s = .next (updThr s e t fun th => { th with sw := BitVec.ofNat 18 x &&& 0o177777 })

/-- Accesses through MEM_AP to the rest of what R318 gives a thread (R157, R575): accumulators, loop sets, m and l registers, the time latch and the queues are captured. (The registers reached and the form of a queue entry are log entry 51.) -/
def ApThread : Prop :=
  ∀ (s : State) (e : Fin 512) (t : Fin 4) (k : Fin 3) (j i : Fin 4),
    tapOn s = true →
    jtagActs s = 0x10 →
    exec (.memAp (some (.eng e t (.acc false) none))) s = .next (apCapture s (thr s e t).acc0.toNat) ∧
    exec (.memAp (some (.eng e t (.acc true) none))) s = .next (apCapture s (thr s e t).acc1.toNat) ∧
    exec (.memAp (some (.eng e t (.loop k 0) none))) s = .next (apCapture s (SMap.get 0 (thr s e t).lpS k.val).toNat) ∧
    exec (.memAp (some (.eng e t (.loop k 1) none))) s = .next (apCapture s (SMap.get 0 (thr s e t).lpE k.val).toNat) ∧
    exec (.memAp (some (.eng e t (.loop k 2) none))) s = .next (apCapture s (SMap.get 0 (thr s e t).lpC k.val).toNat) ∧
    exec (.memAp (some (.eng e t (.m j) none))) s = .next (apCapture s (SMap.get 0 (thr s e t).m j.val).toNat) ∧
    exec (.memAp (some (.eng e t (.l j) none))) s = .next (apCapture s (SMap.get 0 (thr s e t).l j.val).toNat) ∧
    exec (.memAp (some (.eng e t .timeLatch none))) s = .next (apCapture s (thr s e t).tlat.toNat) ∧
    (∀ q, (thr s e t).rq[i.val]? = some q → q.ready = true → exec (.memAp (some (.eng e t (.retQ i) none))) s = .next (apCapture s (q.val.toNat + 2 ^ 18 * q.err.toNat))) ∧
    ∀ q, (postedOf s e t)[i.val]? = some q → exec (.memAp (some (.eng e t (.postQ i) none))) s = .next (apCapture s q.req.data)

/-- Accesses through MEM_AP to memory (R157, R284, R575): bytes within the reach of the debug state are read or written as the SCU does, one that has to wait is made again; an access beyond it changes nothing, and what the data register holds after it is a free value. (log entry 51) -/
def ApMemory : Prop :=
  ∀ (s u : State) (a : BitVec 48) (n : Fin 65) (x : Nat) (env : MemEnv) (l : List Byte),
    tapOn s = true →
    jtagActs s = 0x10 →
    (((List.range n.val).all fun i => apReaches s (a.toNat + i)) = true → busRead s .scu (scuAttr s) a.toNat n.val env = .ok u l →
      exec (.memAp (some (.mem a n none env))) s = .next (apCapture u (ofBytes l))) ∧
    (((List.range n.val).all fun i => apReaches s (a.toNat + i)) = true → busWrite s .scu (scuAttr s) a.toNat (bytesOf n.val x) env = .ok u l →
      exec (.memAp (some (.mem a n (some x) env))) s = .next u) ∧
    (((List.range n.val).all fun i => apReaches s (a.toNat + i)) = true → busRead s .scu (scuAttr s) a.toNat n.val env = .wait u →
      exec (.memAp (some (.mem a n none env))) s = .next u) ∧
    (((List.range n.val).all fun i => apReaches s (a.toNat + i)) = false →
      ∃ d, exec (.memAp (some (.mem a n none env))) s = .next { (freeVal (8 * n.val) s).2 with jtag := { s.jtag with dr := d } })

/-- The reach of a debug access (R157): DRAM, SRAM and the engine windows; the secure part and the Sage ROM only where debug is open. -/
def ApReach : Prop :=
  ∀ (s : State) (a : Nat),
    (regionOf s a = some .dram ∨ regionOf s a = some .sram → apReaches s a = true) ∧
    (regionOf s a = some .secure ∨ regionOf s a = some .rom → (apReaches s a = true ↔ dbgState s = 0)) ∧
    (regionOf s a = none → apReaches s a = false)

/-- Another instruction acts: MEM_AP and SCU_AP reach nothing (R575). -/
def ApNotActing : Prop :=
  ∀ (s : State) (x : ApAt) (y : FuseField),
    (jtagActs s ≠ 0x10 → exec (.memAp (some x)) s = .next s) ∧ (jtagActs s ≠ 0x11 → exec (.scuAp (some y)) s = .next s)

/-- SCU_AP is selected (R574, R575). -/
def ScuApRow : Prop :=
  ∀ (s : State),
    tapOn s = true →
    (jtagAdmits s 0x11 = true → exec (.scuAp none) s = .next { s with jtag := { s.jtag with ir := 0x11, act := 0x11 } }) ∧
    (jtagAdmits s 0x11 = false → exec (.scuAp none) s = .next { s with jtag := { s.jtag with ir := 0x11, act := 0xFF, dr := 0 } })

/-- The fuse shadows as SCU_AP reads them (R149, R157, R575). -/
def ApFuses : Prop :=
  ∀ (s : State) (k : Fin 4),
    tapOn s = true →
    jtagActs s = 0x11 →
    let f := s.sage.shadow
    exec (.scuAp (some .lc)) s = .next (apCapture s f.lc) ∧ exec (.scuAp (some (.hash k))) s = .next (apCapture s (SMap.get 0 f.hash k.val)) ∧
    exec (.scuAp (some .prog)) s = .next (apCapture s f.prog) ∧ exec (.scuAp (some .rev)) s = .next (apCapture s f.rev) ∧
    exec (.scuAp (some .secver)) s = .next (apCapture s f.secver) ∧ exec (.scuAp (some .devId)) s = .next (apCapture s f.devId)

/-- BIST_READ (R574, R575): a register of the BIST page is captured. -/
def BistReadRow : Prop :=
  ∀ (s : State) (i : Fin 8),
    tapOn s = true →
    (jtagAdmits s 0x20 = true → exec (.bistRead i) s = .next { s with jtag := { ({ s.jtag with dr := (rd s .bist (0x040 + 4 * i.val)).toNat }) with ir := 0x20, act := 0x20 } }) ∧
    (jtagAdmits s 0x20 = false → exec (.bistRead i) s = .next { s with jtag := { s.jtag with ir := 0x20, act := 0xFF, dr := 0 } })

/-- BYPASS (R574). -/
def BypassRow : Prop :=
  ∀ (s : State),
    tapOn s = true →
    (jtagAdmits s 0xFF = true → exec (.bypass) s = .next { s with jtag := { ({ s.jtag with dr := 0 }) with ir := 0xFF, act := 0xFF } }) ∧
    (jtagAdmits s 0xFF = false → exec (.bypass) s = .next { s with jtag := { s.jtag with ir := 0xFF, act := 0xFF, dr := 0 } })

/-- Which instructions are admitted (R575): IDCODE and BYPASS always; the boundary instructions and CLAMP, HIGHZ while debug is not closed or in TEST; SAMPLE_PRELOAD and BIST_READ while debug is not closed or not SCRAP; MEM_AP while debug is not closed; SCU_AP only where it is open; no other. -/
def JtagGate : Prop :=
  ∀ (s : State) (ir : Nat),
    jtagAdmits s ir = (decide (ir = 0x02 ∨ ir = 0xFF) || (decide (ir = 0 ∨ ir = 3 ∨ ir = 4) && (decide (dbgState s < 2) || decide (lcState (s.sage.fuses.lc ||| s.sage.fuses2.lc) = 0))) ||
      (decide (ir = 1 ∨ ir = 0x20) && (decide (dbgState s < 2) || decide (lcState (s.sage.fuses.lc ||| s.sage.fuses2.lc) ≠ 4))) ||
      (decide (ir = 0x10) && decide (dbgState s < 2)) || (decide (ir = 0x11) && decide (dbgState s = 0)))

/-- A run is asked for (R306, R576, R577): while another runs, or where its target does not stand as the rule asks, it is refused with RESULT 2; else BIST_STAT shows the run, and MODE is DEADLINE while a DRAM channel runs (RESULT as it stands after a refusal, and MODE, are log entry 52). -/
def BistStarts : Prop :=
  ∀ (s : State) (b : BistRun) (env : MemEnv),
    (s.bist ≠ none ∨ bistReady s b = false → bistBegin s b env = .ok (wrF s .bist 0x044 1 3 2, false)) ∧
    (s.bist = none → bistReady s b = true → b.typ ≠ 2 →
      let u := { wr s .bist 0x044 (BitVec.ofNat 32 (1 + b.typ * 2 ^ 4 + b.index * 2 ^ 8 + b.kind * 2 ^ 16)) with bist := some b }
      bistBegin s b env = .ok (if b.typ = 6 then wrB (wrB u .dmc 0x044 0 true) .dmc 0x040 3 true else u, true))

/-- BIST_RUN_END (R306, R576, R577): the target is left as the rule says, the result registers take the run's outcome, MODE is NORMAL again after a DRAM channel where nothing else asks for DEADLINE, IRQ_STAT bit 0 is set; in the hold after a fatal error the abandoned run does not end (R584). -/
def BistEnd : Prop :=
  ∀ (s : State) (b : BistRun) (misr : BitVec 64) (fails : BitVec 15) (addr : BitVec 48),
    s.bist = some b →
    clocksOn s = true →
    (rdB s .flts 0x040 2 = true → exec (.bistRunEnd misr fails addr) s = .next s) ∧
    let u := wr (bistLeaves { s with bist := none } b) .bist 0x044 (BitVec.ofNat 32 (2 + b.typ * 2 ^ 4 + b.index * 2 ^ 8 + b.kind * 2 ^ 16 + fails.toNat * 2 ^ 17))
    let v := wr (wr u .bist 0x048 (misr.extractLsb' 0 32)) .bist 0x04C (misr.extractLsb' 32 32)
    let w := wr (wr v .bist 0x050 (addr.extractLsb' 0 32)) .bist 0x054 (BitVec.ofNat 32 (addr.toNat / 2 ^ 32))
    let x : State := { (if b.typ = 6 then restoreMode w else w) with verdict := some { run := b, fails := fails.toNat, misr := misr.toNat } }
    (rdB s .flts 0x040 2 = false → exec (.bistRunEnd misr fails addr) s = .next (setIrq x .bist 1))

/-- A run on the channel that a migration takes as its spare ends with RESULT ABORTED and IRQ_STAT bit 0 (R577, R584); after a fatal error it has no result. -/
def BistStops : Prop :=
  ∀ (s : State),
    (rdB s .flts 0x040 2 = false → stopBist s = setIrq (wrF (wrB { s with bist := none } .bist 0x044 0 false) .bist 0x044 1 3 3) .bist 1) ∧
    (rdB s .flts 0x040 2 = true → stopBist s = { s with bist := none })

/-- BIST_VERDICT (R578): of the run that ended last, whatever has been asked for since: without a signature for the part the verdict is 3; with one that matches and no failure 1; else 2, and 0x81 is recorded. -/
def BistVerdict : Prop :=
  ∀ (s : State) (g : BitVec 64) (v : Machine.BistEnd),
    s.verdict = some v →
    s.sage.phase = .done →
    clocksOn s = true →
    let u := { s with verdict := none }
    exec (.bistVerdict none) s = .next (wrF u .bist 0x058 0 2 3) ∧
    exec (.bistVerdict (some g)) s = .next (if g.toNat = v.misr ∧ v.fails = 0 then wrF u .bist 0x058 0 2 1
      else recordErr (wrF u .bist 0x058 0 2 2) .bist 0x81 contained (pageAttr u .bist) (v.run.typ + v.run.index * 2 ^ 4 + v.run.kind * 2 ^ 12) 0)

end Sys2Proof.Claims

open Sys2Proof Sys2Proof.Machine Sys2Proof.Claims in
/-- CONTAINED_FAULT to BIST_VERDICT. Completes: containedFault, fatalFault, fatalHoldExpire, scuWatchdogExpire, wdExpire, tapReset, extest,
samplePreload, idcode, clamp, highz, memAp, scuAp, bistRead, bypass, bistRunEnd, bistVerdict. -/
def Obligations.FaultsAndWatchdogs : Prop :=
  ContFault ∧
  FatFault ∧
  OldestFault ∧
  LoggedInOrder ∧
  FaultEntry ∧
  HoldExpire ∧
  ScuWatchdog ∧
  WdExpire ∧
  TapReset ∧
  ExtestRow ∧
  SamplePreloadRow ∧
  IdcodeRow ∧
  ClampRow ∧
  HighzRow ∧
  BoundaryLands ∧
  MemApRow ∧
  ApRegisters ∧
  ApThread ∧
  ApMemory ∧
  ApReach ∧
  ApNotActing ∧
  ScuApRow ∧
  ApFuses ∧
  BistReadRow ∧
  BypassRow ∧
  JtagGate ∧
  BistStarts ∧
  BistEnd ∧
  BistStops ∧
  BistVerdict

namespace Sys2Proof.Claims

open Sys2Proof.Machine

/-- A flit stands at the end of the replay buffer with the next SEQ (R491, R492). -/
def flitSent (s : State) (typ dst : Nat) (load : List Nat) : State :=
  updTyl s fun t => { t with replay := t.replay ++ [{ typ := typ, dst := dst, seq := t.seq, load := load }], seq := (t.seq + 1) % 256 }

end Sys2Proof.Claims

namespace Sys2Proof.Claims

open Sys2Proof.Machine

/-- TYL_IDLE (R492): a flit that carries nothing. -/
def TylIdle : Prop :=
  ∀ (s : State),
    exec .tylIdle s = .next s

/-- TYL_ACK (R492): an ACK releases the flits up to and with its SEQ; a NAK resends that flit and every later one; a SEQ that is not held changes nothing. -/
def TylAck : Prop :=
  ∀ (s : State) (seq : BitVec 8) (a b : List Flit) (x : Flit),
    tylState s ≠ 0 →
    tylCarries s = true →
    splitSeq s.tyl.replay seq.toNat = (a, x :: b) →
    exec (.tylAck seq true) s = .next (resend s fun y => (x :: b).contains y) ∧
    (a.length < s.tyl.replay.length → exec (.tylAck seq false) s = .next (updTyl s fun t => { t with replay := b }))

/-- A SEQ that no held flit has changes nothing (R492). -/
def TylAckNone : Prop :=
  ∀ (s : State) (seq : BitVec 8) (nak : Bool),
    (s.tyl.replay.all fun x => decide (x.seq ≠ seq.toNat)) = true →
    exec (.tylAck seq nak) s = .next s

/-- FLIT_REPLAY (R492): after 2 µs without an acknowledgement every flit is resent. -/
def FlitReplay : Prop :=
  ∀ (s : State),
    tylState s ≠ 0 →
    s.tyl.replay ≠ [] →
    tylCarries s = true →
    exec .flitReplay s = .next (resend s fun _ => true)

/-- A flit resent for the eighth time loses the link (R492, R499); the others are counted and stay held. -/
def Resent : Prop :=
  ∀ (s : State) (f : Flit → Bool),
    let u := updTyl s fun t => { t with replay := t.replay.map fun x => if f x then { x with tries := x.tries + 1 } else x }
    resend s f = if (u.tyl.replay.any fun x => decide (8 ≤ x.tries)) = true then loseLink u else u

/-- TYL_RESERVED_FLIT (R492): dropped and counted. -/
def TylReserved : Prop :=
  ∀ (s : State),
    tylState s ≠ 0 →
    tylCarries s = true →
    exec .tylReservedFlit s = .next (bumpF s .tylw 0x044 24 8 1)

/-- TYL_CAP (R492, R494, R495, R500): in training a member gives its identity and versions; the highest common version runs, with none version 1 and 0x81; the M9 sends its own CAP flit, with the versions of its image, where the replay buffer has room (log entry 71); a changed identity sets CHANGED and bars the member. -/
def TylCap : Prop :=
  ∀ (s : State) (m : Fin 16) (ident : BitVec 32) (lo hi : BitVec 8),
    tylState s = 1 →
    m ≠ 0 →
    tylCarries s = true →
    let v := tylAgree s lo.toNat hi.toNat
    let a := wrF s .tylw (0x0C0 + 4 * m.val) 12 4 (v.getD 1)
    let b := if v = none then recInternal a .tylw 0x81 m else a
    let c := updTyl b fun t => { t with caps := SMap.set 0 t.caps m (ident.toNat + 1), capped := if t.capped.contains m.val then t.capped else m.val :: t.capped }
    let d := if c.tyl.replay.length < 128 then flitSent c 2 m [max 1 (rdF c .lcyc 0x058 16 8), min 2 (rdF c .lcyc 0x058 24 8)] else c
    exec (.tylCap m ident lo hi) s = .next (if SMap.get 0 s.tyl.caps m ≠ 0 ∧ SMap.get 0 s.tyl.caps m ≠ ident.toNat + 1 then
      wrB (updTyl d fun t => { t with changed := if t.changed.contains m.val then t.changed else m.val :: t.changed }) .tylw 0x044 8 true else d)

/-- While the lanes carry no link, in electrical idle or with their clock stopped, no flit of training comes or goes (R472; log entry 71). -/
def TylSilent : Prop :=
  ∀ (s : State) (m n : Fin 16) (ident : BitVec 32) (lo hi seq : BitVec 8) (nak : Bool),
    tylCarries s = false →
    exec (.tylCap m ident lo hi) s = .next s ∧ exec (.tylEnum n) s = .next s ∧ exec (.tylAck seq nak) s = .next s ∧ exec .flitReplay s = .next s ∧
    exec .tylReservedFlit s = .next s

/-- TYL_ENUM (R492 to R494): the members are numbered from 1, each by an ENUM flit of the M9 where the replay buffer has room (one ENUM a member: log entry 71). -/
def TylEnum : Prop :=
  ∀ (s : State) (n : Fin 16),
    tylState s = 1 →
    tylCarries s = true →
    exec (.tylEnum n) s = .next ((List.range n).foldl (fun u i => if u.tyl.replay.length < 128 then flitSent u 3 (i + 1) [i + 1] else u)
      (wrF (updTyl s fun t => { t with numbered := true }) .tylw 0x044 4 4 n))

/-- TYLWEN_LINK_UP (R126, R460, R472, R494, R496): once the members are numbered and each has given its CAP, on lanes out of electrical idle, the width in use stands, each member's latency is twice the one-way path and 12, the link is up and IRQ_STAT bit 1 is set; where it is the push interface Sage signals ready. Before CAP and enumeration the link does not come up. (Lanes in loopback carry no link: log entry 64.) -/
def TylwenUp : Prop :=
  ∀ (s : State) (width : Fin 3) (prop : List (Fin 4096)),
    rdB s .tylw 0x040 0 = true →
    tylState s = 1 →
    width.val ≤ rdF s .tylw 0x040 1 2 →
    clocksOn s = true →
    lanesCarry s 28 (2 ^ width.val) = true →
    let u := (List.range 15).foldl (fun s i => if i < tylMembers s then
        wrF s .tylw (0x0C4 + 4 * i) 0 12 (2 * ((if width.val = 2 then 96 else if width.val = 1 then 112 else 144) + 40 * i + ((prop[i]?.map fun c => c.val).getD 0)) + 12)
      else wr s .tylw (0x0C4 + 4 * i) 0) s
    let v := setIrq (wrF (wrF u .tylw 0x044 2 2 width) .tylw 0x044 0 2 2) .tylw 2
    (s.tyl.numbered = true → (∀ i, i < tylMembers s → s.tyl.capped.contains (i + 1) = true) →
      exec (.tylwenLinkUp width prop) s = .next (if v.sage.phase = .push ∧ v.sage.bootif = 2 ∧ v.sage.applying = false then { v with sage := { v.sage with rdy := true } } else v)) ∧
    (s.tyl.numbered = false ∨ (∃ i, i < tylMembers s ∧ s.tyl.capped.contains (i + 1) = false) → exec (.tylwenLinkUp width prop) s = .next s)

/-- R491: a flit is 64 bytes: its type, its destination, source 0, its sequence number, 56 bytes of payload, and the CRC-32 over bytes 0 to 59. -/
def FlitLayout : Prop :=
  ∀ (f : Flit),
    (flitBytes f).length = 64 ∧ (flitBytes f).take 1 = bytesOf 1 (f.typ % 16) ∧ ((flitBytes f).drop 1).take 1 = bytesOf 1 (f.dst % 64) ∧
      ((flitBytes f).drop 2).take 1 = bytesOf 1 0 ∧ ((flitBytes f).drop 3).take 1 = bytesOf 1 f.seq ∧
      (flitBytes f).drop 60 = bytesOf 4 (crc32 ((flitBytes f).take 60))

/-- TYL_TIME (R496): at each multiple of 65,536 ticks a TIME flit goes to each member with the device time that it is to have when it arrives; a full replay buffer skips it. -/
def TylTime : Prop :=
  ∀ (s : State),
    tylState s = 2 →
    clocksOn s = true →
    exec .tylTime s = .next ((List.range (tylMembers s)).foldl (fun s i => (sendFlit s 4 (i + 1) [s.dt + (rdF s .tylw (0x0C4 + 4 * i) 0 12 - 12) / 2]).getD s)
      (advanceTo s ((s.dt + 65535) / 65536 * 65536)))

/-- LINK_LOSS (R123, R499): queued writes are dropped and counted, remote reads, register requests, in ascending order of their masters, and members' requests end, 0x80 and IRQ_STAT bit 0. -/
def LinkLoss : Prop :=
  ∀ (s : State),
    tylState s = 2 →
    clocksOn s = true →
    exec .linkLoss s = .next (setIrq (recContained (tylDown s) .tylw 0x80 0) .tylw 1) ∧
    tylDown s = (s.tyl.regs.insertionSort fun a b => masterCode a.req.m ≤ masterCode b.req.m).foldl (fun s x => tylFail s x .asleep) (updTyl (bumpF (wrF s .tylw 0x044 0 2 0) .tylw 0x044 16 8 ((s.tyl.rwq.map fun e => e.2.length).sum))
      fun t => { t with rwq := [], prds := [], mems := [], replay := [] })

/-- RETRAIN (R494, R500): training starts, with nothing held for replay and no member heard; SEQ begins at 0 again (log entry 71). -/
def Retrain : Prop :=
  ∀ (s : State),
    tylState s = 0 →
    rdB s .tylw 0x040 0 = true →
    rdB s .tylw 0x040 3 = true →
    clocksOn s = true →
    exec .retrain s = .next (wrF { s with tyl := { s.tyl with replay := [], seq := 0, capped := [], numbered := false } } .tylw 0x044 0 2 1)

/-- TYL_PWR (R462): the oldest writes of the engine's queue to one member, at most six, leave in order in one flit. -/
def TylPwr : Prop :=
  ∀ (s : State) (e : Fin 512) (n : Fin 6) (w : Nat × Nat × Word18) (ws : List (Nat × Nat × Word18)),
    SMap.get [] s.tyl.rwq e = w :: ws →
    tylState s = 2 →
    clocksOn s = true →
    s.tyl.replay.length < 128 →
    let m := cellMember s w.1
    let l := ((w :: ws).takeWhile fun x => cellMember s x.1 = m).take (n.val + 1)
    exec (.tylPwr e n) s = .next (updTyl (flitSent s 5 m (l.map fun x => ((rgMap s x.1 7 4 * 16 + x.1 % 16) * 4 + x.2.1) * 2 ^ 18 + x.2.2.toNat))
      fun t => { t with rwq := SMap.set [] t.rwq e ((w :: ws).drop l.length) })

/-- TYL_PRD_REQ (R461): a remote read that has not been sent goes out. -/
def TylPrdReq : Prop :=
  ∀ (s : State) (id : Nat) (x : RmPrd),
    (s.tyl.prds.find? fun x => x.id = id && !x.sent) = some x →
    tylState s = 2 →
    clocksOn s = true →
    s.tyl.replay.length < 128 →
    exec (.tylPrdReq id) s = .next (updTyl (flitSent s 6 (cellMember s x.cell) [(rgMap s x.cell 7 4 * 16 + x.cell % 16) * 4 + x.word])
      fun t => { t with prds := t.prds.map fun y => if y.id = id then { y with sent := true } else y })

/-- TYL_PRD_RSP (R349, R461): a response by the tick of the write is the value written; a later one is discarded. -/
def TylPrdRsp : Prop :=
  ∀ (s : State) (id : Nat) (v : Word18) (x : RmPrd),
    (s.tyl.prds.find? fun x => x.id = id && x.sent) = some x →
    tylState s = 2 →
    exec (.tylPrdRsp id v) s = .next (updThr (updTyl s fun t => { t with prds := t.prds.filter fun y => decide (y.id ≠ id) }) (Fin.ofNat 512 x.e) (Fin.ofNat 4 x.t)
      fun th => { th with prds := th.prds.map fun p => if p.id = id ∧ s.dt ≤ p.due then { p with val := some v } else p })

/-- TYL_EVT (R463): each change of up to eight sets the sources routed to it. -/
def TylEvt : Prop :=
  ∀ (s : State) (l : List (Fin 16 × Fin 16 × Fin 16 × Bool)),
    tylState s = 2 →
    clocksOn s = true →
    exec (.tylEvt l) s = .next ((l.take 8).foldl (fun s x => remoteEvent s x.1 x.2.1 x.2.2.1 x.2.2.2) s)

/-- TYL_REG_REQ (R495, R497): a register request to a member goes out, with its offset, kind, level, owner tag, generation and class and the word to write; to a member that runs version 2 the requests to the next registers go in the same flit, up to eight (what makes a burst: log entry 71). -/
def TylRegReq : Prop :=
  ∀ (s : State) (id : Nat) (x : TylReg),
    tylReg? s id = some x →
    x.sent = false →
    tylState s = 2 →
    clocksOn s = true →
    s.tyl.replay.length < 128 →
    let l := regBurst s (if rdF s .tylw (0x0C0 + 4 * windowMember x.req.addr) 12 4 = 2 then 7 else 0) x
    exec (.tylRegReq id) s = .next (updTyl (flitSent s 9 (windowMember x.req.addr)
        ([x.req.addr % 0x200000, x.req.data.isSome.toNat, x.req.lvl, x.req.attr.did, x.req.attr.pid, x.req.attr.gen, x.req.attr.cls, l.length] ++
          l.filterMap fun y => y.req.data.map BitVec.toNat))
      fun t => { t with regs := t.regs.map fun y => if l.any fun z => z.id = y.id then { y with sent := true } else y })

/-- The requests of a burst (R495): the first and at most `k` more; each of these goes to the register after the one before it, from the same requester and of the same kind, and none of them has been sent. -/
def BurstRule : Prop :=
  ∀ (s : State) (k : Nat) (x : TylReg),
    (regBurst s k x).length ≤ k + 1 ∧ (regBurst s k x).head? = some x ∧
    ∀ (a b : TylReg) (l r : List TylReg), regBurst s k x = l ++ a :: b :: r →
      b.req.addr = a.req.addr + 4 ∧ b.req.m = a.req.m ∧ b.req.attr = a.req.attr ∧ b.req.lvl = a.req.lvl ∧ b.req.data.isSome = a.req.data.isSome ∧ b.sent = false ∧ b ∈ s.tyl.regs

/-- TYL_REG_RSP (R497): the answer ends the request; a refusal is an error response with its kind in the fabric error log. -/
def TylRegRsp : Prop :=
  ∀ (s : State) (id : Nat) (x : TylReg) (kind : Fin 9) (data : Reg32),
    tylReg? s id = some x →
    x.sent = true →
    tylState s = 2 →
    exec (.tylRegRsp id kind data) s = .next (if kind = 0 then tylEnd s x false data.toNat else tylFail s x (kindOf kind))

/-- REG_TIMEOUT (R497): 0x82 is recorded and the request fails; the class of 0x82 is a free value (log entry 12). -/
def RegTimeout : Prop :=
  ∀ (s : State) (id : Nat) (x : TylReg),
    tylReg? s id = some x →
    let f := freeVal 2 s
    exec (.regTimeout id) s = .next (tylFail (recordErr f.2 .tylw 0x82 (f.1 % 3) x.req.attr (windowMember x.req.addr) 0) x .unmapped)

/-- MEM_REQ (R498): a refused request is answered with status 1, later where the replay buffer is full (log entry 73); any other becomes one fabric request for each block of 64 bytes it touches, in the member's name. -/
def MemReq : Prop :=
  ∀ (s : State) (m : Fin 16) (tag op len b7 : BitVec 8) (addr : BitVec 48) (data : BitVec 256) (z : Bool),
    tylState s = 2 →
    clocksOn s = true →
    m ≠ 0 →
    m.val ≤ tylMembers s →
    let a := addr.toNat
    let n := len.toNat
    let l1 := min n (64 - a % 64)
    let parts := if l1 = n then [(a, n)] else [(a, l1), (a + l1, n - l1)]
    let mk : Nat × Nat → FReq := fun p => { master := .tyl m, op := if op = 1 then .write else .read, addr := p.1, len := p.2, be := 2 ^ p.2 - 1, data := data.toNat / 2 ^ (8 * (p.1 - a)) % 2 ^ (8 * p.2), cls := 1, pid := m.val }
    let x : TylMem := { member := m, tag := tag.toNat, isW := op = 1, len := n, addr := a, ids := (List.range parts.length).map fun i => s.fab.nextId + i }
    exec (.memReq m tag op len b7 addr data z) s = .next (if memRefused s m tag.toNat op.toNat n b7.toNat a data.toNat z then (if s.tyl.replay.length < 128 then flitSent s 13 m [tag.toNat, 1, n]
        else updTyl s fun t => { t with mems := t.mems ++ [{ member := m, tag := tag.toNat, isW := true, len := n, addr := a, ids := [], bad := true }] })
      else parts.foldl (fun s p => ingressOf (postReq s (mk p) 0 (.member m)) s.fab.nextId) (updTyl s fun t => { t with mems := t.mems ++ [x] }))

/-- MEM_RSP (R498): a request whose parts have all come back is answered with its worst status, and data for a read; one that was refused with status 1. -/
def MemRsp : Prop :=
  ∀ (s : State) (m : Fin 16) (tag : Fin 16) (x : TylMem),
    (s.tyl.mems.find? fun x => x.member = m.val && x.tag = tag.val && x.ids.isEmpty) = some x →
    tylState s = 2 →
    clocksOn s = true →
    s.tyl.replay.length < 128 →
    let st := if x.bad = true then 1 else if x.worst = 0 then 0 else if x.worst = 1 then 3 else 2
    exec (.memRsp m tag) s = .next (updTyl (flitSent s 13 m ([x.tag, st, x.len] ++ (if x.isW then [] else [x.data]))) fun t => { t with mems := t.mems.erase x })

/-- R498, R537: a member's request that is discarded by a drain, or whose completion is stale, counts as an error of its answer. -/
def MemberLost : Prop :=
  ∀ (s : State) (t : Txn) (x : TylMem),
    s.tyl.mems = [x] →
    x.ids.contains t.id = true →
    x.worst ≤ 2 →
    (memberDone s t false).tyl.mems = [{ x with ids := x.ids.erase t.id, worst := 2 }]

end Sys2Proof.Claims

open Sys2Proof Sys2Proof.Machine Sys2Proof.Claims in
/-- TYL_IDLE to RETRAIN. Completes: tylwenLinkUp, tylIdle, tylAck, tylCap, tylEnum, tylTime, tylPwr, tylPrdReq, tylPrdRsp, tylEvt, tylRegReq,
tylRegRsp, regTimeout, memReq, memRsp, tylReservedFlit, flitReplay, linkLoss, retrain. -/
def Obligations.TylwenLink : Prop :=
  TylIdle ∧
  TylAck ∧
  TylAckNone ∧
  FlitReplay ∧
  Resent ∧
  TylReserved ∧
  TylCap ∧
  TylSilent ∧
  TylEnum ∧
  TylwenUp ∧
  FlitLayout ∧
  TylTime ∧
  LinkLoss ∧
  Retrain ∧
  TylPwr ∧
  TylPrdReq ∧
  TylPrdRsp ∧
  TylEvt ∧
  TylRegReq ∧
  BurstRule ∧
  TylRegRsp ∧
  RegTimeout ∧
  MemReq ∧
  MemRsp ∧
  MemberLost

namespace Sys2Proof.Claims

open Sys2Proof.Machine

/-- The state and the bytes of an access that succeeded. -/
def busOk (r : BusRes) : Option (State × List Byte) := r.elim (fun _ => none) (fun _ _ => none) fun u d => some (u, d)

end Sys2Proof.Claims

namespace Sys2Proof.Claims

open Sys2Proof.Machine

/-- PCIE_LINK_UP (R126, R472, R474, R480): an enabled controller in training, whose lanes are out of electrical idle, takes a width and a rate no higher than configured, and sets IRQ_STAT bit 0; where controller 0 is the push interface Sage signals ready. -/
def PcieLinkUp : Prop :=
  ∀ (s : State) (c : Fin 4) (w : Fin 4) (g : Fin 8),
    rdB s (.pce c) 0x040 0 = true →
    pceLink s c = 1 →
    clocksOn s = true →
    w.val ≤ rdF s (.pce c) 0x040 2 2 →
    1 ≤ g.val →
    g.val ≤ rdF s (.pce c) 0x040 4 3 →
    lanesCarry s (8 * c.val) (2 ^ w.val) = true →
    let v := setIrq (wr s (.pce c) 0x044 (BitVec.ofNat 32 (2 + w.val * 4 + g.val * 16))) (.pce c) 1
    exec (.pcieLinkUp c w g) s = .next (if c = 0 ∧ v.sage.phase = .push ∧ v.sage.bootif = 1 ∧ v.sage.applying = false then { v with sage := { v.sage with rdy := true } } else v)

/-- PCIE_LINK_DOWN (R476, R502): requests that wait end with error responses, LINK is training (log entry 65), IRQ_STAT bit 1 is set. -/
def PcieLinkDown : Prop :=
  ∀ (s : State) (c : Fin 4),
    pceLink s c = 2 →
    exec (.pcieLinkDown c) s = .next (setIrq (wr ((pcie s c).out.foldl (fun s e => cplErr s c e.1) s) (.pce c) 0x044 1) (.pce c) 2)

/-- PCIE_OUTBOUND_REQUEST (R476): a read, or a configuration write to the bus, is sent and waits for its completion. -/
def PcieOutReads : Prop :=
  ∀ (s : State) (c : Fin 4) (id off : Nat) (t : Txn),
    txn? s id = some t →
    outOff s t.req.addr = some (c, off) →
    t.status = .transit →
    behindSource s t = false →
    pceLink s c = 2 →
    (isEcam s c off && decide (off - 0x3F0000000 < 0x1000)) = false →
    (t.req.op ≠ .write ∨ isEcam s c off = true) →
    exec (.pcieOutboundRequest id) s = .next (acceptTxn (updPcie s c fun p => { p with sent := some (outTlp s c off t.req), out := p.out ++ [(id, s.dt)] }) id)

/-- A memory write is posted: it completes without an error when it is sent (the model's choice, log entry 65; what is sent is R476). -/
def PcieOutWrites : Prop :=
  ∀ (s : State) (c : Fin 4) (id off : Nat) (t : Txn),
    txn? s id = some t →
    outOff s t.req.addr = some (c, off) →
    t.status = .transit →
    behindSource s t = false →
    pceLink s c = 2 →
    isEcam s c off = false →
    t.req.op = .write →
    exec (.pcieOutboundRequest id) s = .next (answerTxn (updPcie s c fun p => { p with sent := some (outTlp s c off t.req) }) id false false 0)

/-- R476: the request sent: a memory request at offset x goes to PCIe address OBASE × 2^34 + x; in root-complex mode one at or above the ECAM
window is a configuration request; a write carries its data. -/
def PcieOutAddr : Prop :=
  ∀ (s : State) (c : Fin 4) (off : Nat) (q : FReq),
    let x := outTlp s c off q
    (isEcam s c off = false → x.cfg = false ∧ x.addr = rdF s (.pce c) 0x048 0 30 * 2 ^ 34 + off) ∧
    (isEcam s c off = true → x.cfg = true ∧ x.addr = off - 0x3F0000000) ∧
    x.len = q.len ∧ (q.op = .write → x.isW = true ∧ x.data = q.data) ∧ (q.op ≠ .write → x.isW = false) ∧
    (isEcam s c off = true ↔ rdB s (.pce c) 0x040 1 = false ∧ 0x3F0000000 ≤ off)

/-- PCIE_OUTBOUND_REQUEST (R475, R476): the root port's own configuration registers answer themselves. (What they hold is log entry 65.) -/
def PcieOutRoot : Prop :=
  ∀ (s : State) (c : Fin 4) (id off : Nat) (t : Txn),
    txn? s id = some t →
    outOff s t.req.addr = some (c, off) →
    t.status = .transit →
    behindSource s t = false →
    pceLink s c = 2 →
    isEcam s c off = true →
    off - 0x3F0000000 < 0x1000 →
    exec (.pcieOutboundRequest id) s = .next (rootCfg s c t (off - 0x3F0000000))

/-- While the link is not up a request fails as asleep (R476). -/
def PcieOutAsleep : Prop :=
  ∀ (s : State) (c : Fin 4) (id off : Nat) (t : Txn),
    txn? s id = some t →
    outOff s t.req.addr = some (c, off) →
    t.status = .transit →
    behindSource s t = false →
    pceLink s c ≠ 2 →
    exec (.pcieOutboundRequest id) s = .next (failTxn s t .asleep)

/-- PCIE_COMPLETION (R476): success answers the request with its data and poison; UR or CA is CPL_ERR and an error response. -/
def PcieCompletion : Prop :=
  ∀ (s : State) (c : Fin 4) (id data : Nat) (poison : Bool) (t : Txn),
    outWaits s c id = true →
    txn? s id = some t →
    exec (.pcieCompletion c id 0 poison data) s = .next (answerTxn (updPcie s c fun p => { p with out := p.out.filter fun e => decide (e.1 ≠ id) }) id false poison (data % 2 ^ (8 * t.req.len))) ∧
    exec (.pcieCompletion c id 1 poison data) s = .next (cplErr s c id) ∧ exec (.pcieCompletion c id 2 poison data) s = .next (cplErr s c id)

/-- PCIE_COMPLETION_TIMEOUT (R476). -/
def PcieTimeout : Prop :=
  ∀ (s : State) (c : Fin 4) (id : Nat),
    outWaits s c id = true →
    exec (.pcieCompletionTimeout c id) s = .next (cplErr s c id)

/-- CPL_ERR (R476, R502): the request leaves the controller and is answered with an error response; 0x84 is recorded with the word offset. -/
def PcieCplErr : Prop :=
  ∀ (s : State) (c : Fin 4) (id off : Nat) (t : Txn),
    txn? s id = some t →
    outOff s t.req.addr = some (c, off) →
    cplErr s c id = (let u := updPcie s c fun p => { p with out := p.out.filter fun e => decide (e.1 ≠ id) }
      recordErr (answerTxn u id true false 0) (.pce c) 0x84 contained t.attr (off / 4) (owner u (.pce c)))

/-- The conditions under which an inbound request reaches a controller (R101, R103, R475, R537): it is enabled, its link up, no reset or gate stands against it, and a write carries at most 512 bytes. -/
abbrev InReach (s : State) (c : Fin 4) (isW : Bool) (len : Fin 4097) : Prop :=
  rdB s (.pce c) 0x040 0 = true ∧ pceLink s c = 2 ∧ len.val ≠ 0 ∧ (isW = true → len.val ≤ 512) ∧ clocksOn s = true ∧ blkBusy s (.pce c) = false ∧
    gated s (owner s (.pce c)) = false

/-- PCIE_INBOUND_REQUEST (R477): a poisoned write is dropped, 0x83 and AER bit 2 recorded, in boot mode too. -/
def PcieInPoison : Prop :=
  ∀ (s : State) (c : Fin 4) (key : BitVec 16) (fn : Fin 4) (bar2 : Bool) (addr : BitVec 64) (len : Fin 4097) (data : Nat),
    InReach s c true len →
    exec (.pcieInboundRequest c true key fn bar2 addr len data true) s = .next (recordErr (aerErr (pciAnswer s c .dropped) c 2) (.pce c) 0x83 contained (pageAttr s (.pce c)) key.toNat (owner s (.pce c)))

/-- R537: a controller whose domain is gated starts no inbound request; interrupt messages, MSI among them, are not gated. -/
def PcieInGated : Prop :=
  ∀ (s : State) (c : Fin 4) (isW : Bool) (key : BitVec 16) (fn : Fin 4) (bar2 : Bool) (addr : BitVec 64) (len : Fin 4097) (data : Nat) (poison : Bool),
    gated s (owner s (.pce c)) = true →
    (rdB s (.pce c) 0x040 1 = true ∨ isW = false ∨ addr.toNat < 0xE0000000 ∨ 0xE0001000 ≤ addr.toNat → exec (.pcieInboundRequest c isW key fn bar2 addr len data poison) s = .next s) ∧
    (rdB s (.pce c) 0x040 0 = true → pceLink s c = 2 → clocksOn s = true → blkBusy s (.pce c) = false → len.val ≠ 0 → len.val ≤ 512 → ¬ (c = 0 ∧ bootPcie s = true ∧ s.sage.phase ≠ .done) →
      rdB s (.pce c) 0x040 1 = false → 0xE0000000 ≤ addr.toNat → addr.toNat < 0xE0001000 →
      exec (.pcieInboundRequest c true key fn bar2 addr len data false) s = .next (msiWrite s c (addr.toNat % 0x1000) len data))

/-- A request of a mapped requester (root complex) or function (endpoint) enters the fabric with the PID of its entry, in blocks of 64 bytes (R477, R478, R589). -/
def PcieInMapped : Prop :=
  ∀ (s : State) (c : Fin 4) (isW : Bool) (key : BitVec 16) (fn : Fin 4) (bar2 : Bool) (addr : BitVec 64) (len : Fin 4097) (data : Nat) (poison : Bool) (n b : Nat),
    InReach s c isW len →
    (¬ (c = 0 ∧ bootPcie s = true ∧ s.sage.phase ≠ .done)) →
    (isW = false ∨ poison = false) →
    (rdB s (.pce c) 0x040 1 = true ∨ isW = false ∨ addr.toNat < 0xE0000000 ∨ 0xE0001000 ≤ addr.toNat) →
    (rdB s (.pce c) 0x040 1 = false ∨ bar2 = false) →
    pceMatch s c (if rdB s (.pce c) 0x040 1 then fn.val else key.toNat) = some n →
    pceAddr s c fn addr.toNat len = some b →
    exec (.pcieInboundRequest c isW key fn bar2 addr len data poison) s = .next (pcePost s c isW b len data (rdF s (.pce c) (0x080 + 4 * n) 16 14))

/-- Without an entry a write is dropped and a read answered as unsupported; NO_MAP and the AER error are recorded (R478). -/
def PcieInUnmapped : Prop :=
  ∀ (s : State) (c : Fin 4) (isW : Bool) (key : BitVec 16) (fn : Fin 4) (bar2 : Bool) (addr : BitVec 64) (len : Fin 4097) (data : Nat) (poison : Bool),
    InReach s c isW len →
    (¬ (c = 0 ∧ bootPcie s = true ∧ s.sage.phase ≠ .done)) →
    (isW = false ∨ poison = false) →
    (rdB s (.pce c) 0x040 1 = true ∨ isW = false ∨ addr.toNat < 0xE0000000 ∨ 0xE0001000 ≤ addr.toNat) →
    (rdB s (.pce c) 0x040 1 = false ∨ bar2 = false) →
    pceMatch s c (if rdB s (.pce c) 0x040 1 then fn.val else key.toNat) = none →
    exec (.pcieInboundRequest c isW key fn bar2 addr len data poison) s = .next (recInternal (aerErr (pciAnswer s c (if isW then .dropped else .ur)) c 0) (.pce c) 0x82 key.toNat)

/-- R478: a matched request that has no fabric byte address, as its PCIe address has bits above bit 47 or passes bit 47 in root-complex mode, or as it lies outside the BAR0 of its function, crosses its end, or names a function that the endpoint does not have, is not forwarded: a write is dropped and a read answered as unsupported, with NO_MAP. (That AER has no record of it is log entry 65.) -/
def PcieInOutside : Prop :=
  ∀ (s : State) (c : Fin 4) (isW : Bool) (key : BitVec 16) (fn : Fin 4) (addr : BitVec 64) (len : Fin 4097) (data n : Nat),
    InReach s c isW len →
    (¬ (c = 0 ∧ bootPcie s = true ∧ s.sage.phase ≠ .done)) →
    pceMatch s c (if rdB s (.pce c) 0x040 1 then fn.val else key.toNat) = some n →
    let out := recInternal (pciAnswer s c (if isW then .dropped else .ur)) (.pce c) 0x82 key.toNat
    (rdB s (.pce c) 0x040 1 = false → 2 ^ 48 < addr.toNat + len.val → exec (.pcieInboundRequest c isW key fn false addr len data false) s = .next out) ∧
    (rdB s (.pce c) 0x040 1 = true → rdF s (.pce c) 0x040 7 2 < fn.val ∨ 2 ^ (rdF s (.pce c) (0x0C0 + 8 * fn.val) 0 5 + 12) < addr.toNat + len.val →
      exec (.pcieInboundRequest c isW key fn false addr len data false) s = .next out)

/-- A request to BAR2 of an endpoint's function (R475, R478): the controller answers it itself from the function's MSI-X table; of a function that there is not it is unsupported. (Its size of 4 KiB and the table's layout are log entry 65.) -/
def PcieInMsix : Prop :=
  ∀ (s : State) (c : Fin 4) (key : BitVec 16) (fn : Fin 4) (addr : BitVec 64) (len : Fin 4097) (data : Nat),
    (¬ (c = 0 ∧ bootPcie s = true ∧ s.sage.phase ≠ .done)) →
    rdB s (.pce c) 0x040 1 = true →
    (InReach s c false len → rdF s (.pce c) 0x040 7 2 < fn.val → exec (.pcieInboundRequest c false key fn true addr len data false) s = .next (noMap s c false false key.toNat)) ∧
    (InReach s c false len → fn.val ≤ rdF s (.pce c) 0x040 7 2 → addr.toNat + len.val ≤ 4096 →
      exec (.pcieInboundRequest c false key fn true addr len data false) s = .next (pciAnswer s c (.ok (ofBytes ((List.range len.val).map fun i => msixByte s c fn (addr.toNat + i))) false))) ∧
    (InReach s c true len → fn.val ≤ rdF s (.pce c) 0x040 7 2 → addr.toNat + len.val ≤ 4096 →
      exec (.pcieInboundRequest c true key fn true addr len data false) s = .next (pciAnswer (((bytesOf len.val data).zipIdx.map fun e => (addr.toNat + e.2, e.1)).foldl (msixPut c fn) s) c (.ok 0 false)))

/-- A byte written to a function's MSI-X table is read back in the bits that it has, and no byte of another vector or function changes (R475, R478; log entry 65). -/
def MsixBytes : Prop :=
  ∀ (s : State) (c : Fin 4) (fn g : Fin 4) (o p : Nat) (v : Byte),
    o < 1024 →
    p < 1024 →
    let u := msixPut c fn s (o, v)
    msixByte u c fn o = (msixByte s c fn o &&& ~~~msixMask o) ||| (v &&& msixMask o) ∧ (g ≠ fn ∨ p ≠ o → msixByte u c g p = msixByte s c g p)

/-- A request to the boot BARs (R136, R479): one outside them, or to a function other than 0, is unsupported: a read is answered so and a write has no effect; BAR0 gives and takes the slots' bytes, BAR2 gives STATUS and INFO and takes CLEAR and RELEASE. (The size of BAR2 is log entry 65.) -/
def PcieInBoot : Prop :=
  ∀ (s : State) (isW : Bool) (key : BitVec 16) (fn : Fin 4) (bar2 : Bool) (addr : BitVec 64) (len : Fin 4097) (data : Nat),
    InReach s 0 isW len →
    bootPcie s = true →
    s.sage.phase ≠ .done →
    let size := if bar2 = true then 2 ^ 12 else 2 ^ 23
    (fn ≠ 0 ∨ size < addr.toNat + len.val → exec (.pcieInboundRequest 0 isW key fn bar2 addr len data false) s = .next (pciAnswer s 0 (if isW = true then .dropped else .ur))) ∧
    (fn = 0 → addr.toNat + len.val ≤ size → isW = true → exec (.pcieInboundRequest 0 isW key fn bar2 addr len data false) s = .next (if bar2 = false then bar0Write s addr.toNat (bytesOf len.val data)
      else if len.val = 4 ∧ addr.toNat = 0x020 then bar2Clear s data else if len.val = 4 ∧ addr.toNat = 0x024 then bar2Release s data else s)) ∧
    (fn = 0 → addr.toNat + len.val ≤ size → isW = false → exec (.pcieInboundRequest 0 isW key fn bar2 addr len data false) s = .next (bootRead s bar2 addr.toNat len.val))

/-- MSI (R505): an aligned word below 128 in the window of a root complex is an EDGE message of its source; any other write is dropped and counted with 0x80 in ICTL; a gated domain does not hold it (R537). -/
def MsiRow : Prop :=
  ∀ (s : State) (c : Fin 4) (off : BitVec 12) (len : Fin 513) (data : Nat),
    rdB s (.pce c) 0x040 0 = true →
    pceLink s c = 2 →
    rdB s (.pce c) 0x040 1 = false →
    clocksOn s = true →
    blkBusy s (.pce c) = false →
    len.val ≠ 0 →
    exec (.msi c off len data) s = .next (if off.toNat % 4 = 0 ∧ len.val = 4 ∧ data < 128 then sendMsg s (.pce c) (1536 + 128 * c.val + data) .edge
      else recCorrected (setIrq (bumpF s .ictl 0x048 16 16 1) .ictl 1) .ictl 0x80 (pageAttr s (.pce c)) (c.val + off.toNat / 4 * 16))

/-- ETH_TX_FRAME (R472, R482, R485): on a free lane out of electrical idle, with no preempted frame waiting, the classes are tried from 7 down to 0; a class without a frame that may start is passed over. -/
def EthTx : Prop :=
  ∀ (s : State) (m : Fin 8) (stamp : BitVec 64) (env : MemEnv),
    ethLive s m = true →
    stampOk s stamp.toNat = true →
    laneNow s m = none →
    (mac s m).rest = none →
    exec (.ethTxFrame m stamp env) s = .next (settled (txTry m stamp.toNat env [7, 6, 5, 4, 3, 2, 1, 0] s)) ∧
    ∀ (q : Nat) (qs : List Nat), classReady s m q = false → repHead s m q = none → txTry m stamp.toNat env (q :: qs) s = txTry m stamp.toNat env qs s

/-- ETH_TX_FRAME (R486): while a frame is on the lane only an express frame starts, and only where the frame on the lane is preemptable and can be cut; else nothing happens. -/
def EthTxBusy : Prop :=
  ∀ (s : State) (m : Fin 8) (stamp : BitVec 64) (env : MemEnv) (l : LaneTx),
    ethLive s m = true →
    stampOk s stamp.toNat = true →
    laneNow s m = some l →
    (fragCut s m l = none → exec (.ethTxFrame m stamp env) s = .next s) ∧
    (fragCut s m l ≠ none → exec (.ethTxFrame m stamp env) s =
      .next (settled (txTry m stamp.toNat env ([7, 6, 5, 4, 3, 2, 1, 0].filter fun q => !preemptable s m q) s)))

/-- R486: an express frame that starts cuts the preemptable frame on the lane: the bytes before the cut are a fragment sent, and the rest waits. The fragment is no shorter than FRAG gives. (What remains and the rounding are log entry 69.) -/
def EthPreempts : Prop :=
  ∀ (s : State) (m : Fin 8) (pre : Bool) (f : List Byte) (l : LaneTx) (c : Nat),
    laneNow s m = some l →
    fragCut s m l = some c →
    (startFrame s m pre f = onLane (updMac s m fun x => { x with frag := x.frag ++ [l.bytes.take c], rest := some (l.bytes.drop c) }) m pre f) ∧
      l.pre = true ∧ 64 * (rdF s (.eth m) 0x040 16 2 + 1) ≤ c ∧ c ≤ l.bytes.length

/-- ETH_TX_FRAME (R486): with the lane free and no express frame started, the rest of a preempted frame goes on, unless a hold stands. -/
def EthResumes : Prop :=
  ∀ (s : State) (m : Fin 8) (stamp : BitVec 64) (env : MemEnv) (f : List Byte),
    ethLive s m = true →
    stampOk s stamp.toNat = true →
    laneNow s m = none →
    (mac s m).rest = some f →
    let t := settled (txTry m stamp.toNat env ([7, 6, 5, 4, 3, 2, 1, 0].filter fun q => !preemptable s m q) s)
    (mac t m).lane = (mac s m).lane →
    (mac t m).rest = some f →
    exec (.ethTxFrame m stamp env) s = .next (if (mac t m).hold = true then t else onLane (updMac t m fun x => { x with rest := none }) m true f)

/-- R473: a frame leaves by the lane; with LPBK near-end it also comes back to the MAC, and with LPBK far-end the lane sends what it receives instead. -/
def EthLane : Prop :=
  ∀ (s : State) (m : Fin 8) (pre : Bool) (f : List Byte),
    let u := onLane s m pre f
    ((mac u m).sent = if laneLoop s (ethLane m) = 2 then (mac s m).sent else some (pre, f)) ∧
    ((mac u m).loop = if laneLoop s (ethLane m) = 1 then (mac s m).loop ++ [f] else (mac s m).loop)

/-- The served class: a good frame that fits before its gate closes is read, its descriptor is written back, and then it leaves (R482, R485, R486); a reserved value or length gives status 1 and sends nothing. -/
def EthTxServed : Prop :=
  ∀ (s : State) (m : Fin 8) (stamp q : Nat) (qs : List Nat) (env : MemEnv) (u : State) (d : List Byte),
    repHead s m q = none →
    classReady s m q = true →
    busOk (ethGet s m (txDesc s m q) 16 env) = some (u, d) →
    bitN (byteF d 10 1) 0 = true →
    (txBad d = true → txTry m stamp env (q :: qs) s = txBack u m q d 1 none env) ∧
    (txBad d = false → bitN (byteF d 10 1) 2 = false → fitsGate u m q (byteF d 8 2) = true →
      ∀ v f, busOk (ethGet u m (byteF d 0 6) (byteF d 8 2) env) = some (v, f) →
        txTry m stamp env (q :: qs) s = (txBack v m q d 0 (if bitN (byteF d 10 1) 1 then some stamp else none) env).map fun w => startFrame w m (preemptable w m q) f)

/-- A generated frame that is replicated (R472, R485 to R487): a MAC whose lane carries nothing sends none; by its own gates, lane and preemption it starts there or waits, and one that waits goes before the frames of its class in the rings. (That it waits so is log entry 67.) -/
def EthReplicas : Prop :=
  ∀ (s : State) (m : Fin 8) (stamp q : Nat) (qs : List Nat) (env : MemEnv) (g : List Byte),
    let may := classOpen s m q && fitsGate s m q g.length
    (ethLive s m = false → replicate s m q g = s) ∧
    (ethLive s m = true → replicate s m q g = if ((mac s m).reps.all fun r => decide (r.1 ≠ q)) = true ∧ may = true ∧ laneFor s m q = true then startFrame s m (preemptable s m q) g
      else updMac s m fun x => { x with reps := x.reps ++ [(q, g)] }) ∧
    (repHead s m q = some (q, g) → txTry m stamp env (q :: qs) s = if may = true then .ok (startFrame (updMac s m fun x => { x with reps := x.reps.erase (q, g) }) m (preemptable s m q) g)
      else txTry m stamp env qs s) ∧
    (laneFor s m q = match laneNow s m with
      | some l => (fragCut s m l).isSome && !preemptable s m q
      | none => (mac s m).rest.isNone || !preemptable s m q)

/-- ETH_RX_FRAME (R472, R473, R483, R484): a frame that the lane takes goes by the class of its VLAN priority, waits with its stamp and stream entry, and fills descriptors while there are any; past 16,384 waiting bytes it overflows. -/
def EthRx : Prop :=
  ∀ (s w : State) (m : Fin 8) (f : List Byte) (stamp : BitVec 64) (env : MemEnv),
    ethLive s m = true →
    f ≠ [] →
    stampOk s stamp.toNat = true →
    laneTake s m f = some w →
    let q := if hasVlan f then byteF f 14 1 / 32 else 0
    let st := streamOf w m f
    let r := match st with
      | some (k, i, e) => recoverFrame w k i e f
      | none => (w, true)
    let u := rxPump m q env 1024 r.1
    let v := rxPump m q env 1024 (setRxWait u m q (rxWait u m q ++ [{ bytes := f, stamp := stamp.toNat, idx := (st.map fun x => x.2.1).getD 0xFF }]))
    exec (.ethRxFrame m f stamp env) s = .next (if r.2 = false then bumpF r.1 (.eth m) 0x044 16 16 1
      else if 16384 < ((rxWait v m q).map fun w => w.bytes.length).sum then rxOverflow v m q env else v)

/-- R473: without loopback a lane takes every frame; in near-end loopback only the frames it sent, each once and in their order; in far-end loopback it sends back what it takes. -/
def EthTakes : Prop :=
  ∀ (s : State) (m : Fin 8) (f : List Byte),
    (laneLoop s (ethLane m) = 0 → laneTake s m f = some s) ∧
    (laneLoop s (ethLane m) = 1 → laneTake s m f = if (mac s m).loop.head? = some f then some (updMac s m fun x => { x with loop := x.loop.tail }) else none) ∧
    (laneLoop s (ethLane m) = 2 → laneTake s m f = some (updMac s m fun x => { x with sent := some (false, f) }))

/-- R472, R484: a MAC whose lane is in electrical idle sends and receives nothing, and no frame has a stamp more than two ticks from synchronised time. -/
def EthIdle : Prop :=
  ∀ (s : State) (m : Fin 8) (f : List Byte) (stamp : BitVec 64) (env : MemEnv),
    (laneOn s (ethLane m) = false ∨ stampOk s stamp.toNat = false) →
    exec (.ethTxFrame m stamp env) s = .next s ∧ exec (.ethRxFrame m f stamp env) s = .next s

/-- Vector recovery (R487): after a reset any number is taken; a number outside the history, or one seen already, is eliminated; a later one shifts the history. -/
def EthRecover : Prop :=
  ∀ (x : Strm) (hist seq : Nat),
    let d := sextN 16 ((seq + 65536 - x.recSeq) % 65536)
    (x.take = true → recover x hist seq = ({ x with take := false, recSeq := seq, vec := 1 }, true)) ∧
    (x.take = false → ((hist : Int) ≤ d ∨ d ≤ -(hist : Int)) → recover x hist seq = (x, false)) ∧
    (x.take = false → -(hist : Int) < d → d ≤ 0 → bitN x.vec d.natAbs = true → recover x hist seq = (x, false)) ∧
    (x.take = false → 0 < d → d < hist → recover x hist seq = ({ x with recSeq := seq, vec := (x.vec * 2 ^ d.natAbs + 1) % 2 ^ hist }, true))

/-- ETH_LINK_CHANGE (R472, R481, R486, R488): the link goes down, or comes up at a rate of its mode on a lane out of electrical idle; a change sets IRQ_STAT bit 2, and verification starts where preemption is on. -/
def EthLinkChange : Prop :=
  ∀ (s : State) (m : Fin 8) (up : Bool) (speed : Fin 8),
    rdB s (.eth m) 0x040 0 = true →
    clocksOn s = true →
    (modeSpeeds (rdF s (.eth m) 0x040 1 3)).contains speed.val = true →
    exec (.ethLinkChange m false speed) s = .next (ethLink s m false (rdF s (.eth m) 0x044 1 3)) ∧ (laneOn s (ethLane m) = true → exec (.ethLinkChange m true speed) s = .next (ethLink s m true speed)) ∧
    (laneOn s (ethLane m) = false → exec (.ethLinkChange m true speed) s = .next s) ∧
    (let ver := up && rdB s (.eth m) 0x040 7 && decide (2 ≤ speed.val)
     let t := wrF (wrF (wrB s (.eth m) 0x044 0 up) (.eth m) 0x044 1 3 speed) (.eth m) 0x044 4 2 ver.toNat
     ethLink s m up speed = if rdB s (.eth m) 0x044 0 = up then t else setIrq t (.eth m) 4)

/-- GCL_TAKEOVER (R485): at its start the pending list runs from its first entry, PENDING clears and IRQ_STAT bit 4 is set; a hold that it sets cuts the frame on the lane. -/
def GclTakeover : Prop :=
  ∀ (s : State) (m : Fin 8) (g : Gcl),
    clocksOn s = true →
    (mac s m).pend = some g →
    exec (.gclTakeover m) s = .next (holdCut (setIrq (wrB (updMac (advanceSynt s (mac s m).start) m fun x => applyEntry { x with gcl := some g, pend := none } g (mac s m).start 0) (.eth m) 0x044 6 false) (.eth m) 16) m)

/-- GATE_ENTRY (R485): the running entry ends and the next of its list, or the first of the next cycle, applies; a hold that it sets cuts the frame on the lane. -/
def GateEntry : Prop :=
  ∀ (s : State) (m : Fin 8) (g : Gcl),
    clocksOn s = true →
    (mac s m).gcl = some g →
    let n := nextEntry g (mac s m).cycle0 (mac s m).entry
    exec (.gateEntry m) s = .next (holdCut (updMac (advanceSynt s (gclEntryEnd g (mac s m).cycle0 (mac s m).entry)) m fun x => applyEntry x g n.1 n.2) m)

/-- R486: under a hold the preemptable frame on the lane is cut where an express frame would cut it; what is left waits for the release. Without a hold, or a frame that can be cut, nothing changes. (The place of the cut is log entry 69.) -/
def HoldCuts : Prop :=
  ∀ (s : State) (m : Fin 8) (l : LaneTx),
    ((mac s m).hold = false ∨ laneNow s m = none → holdCut s m = s) ∧
    (laneNow s m = some l → fragCut s m l = none → holdCut s m = s) ∧
    ∀ c, (mac s m).hold = true → laneNow s m = some l → fragCut s m l = some c →
      holdCut s m = updMac s m fun x => { x with frag := x.frag ++ [l.bytes.take c], rest := some (l.bytes.drop c), lane := some { l with bytes := l.bytes.take c, stop := l.start + frameTicks s m c } }

/-- R485: with scheduled traffic on, a frame starts only where it ends before its gate closes: without a running list, at the start of the pending one or, where its first entry opens the class, when the class closes in it. (The time a frame takes is log entry 68.) -/
def EthGate : Prop :=
  ∀ (s : State) (m : Fin 8) (q n st : Nat) (h : Gcl),
    rdB s (.eth m) 0x040 6 = true →
    (mac s m).gcl = none →
    (mac s m).pend = some h →
    (mac s m).start = st →
    (bitN (entryOf h 0).1 q = false → fitsGate s m q n = decide (syntNs s + frameNs s m n ≤ st)) ∧
    (bitN (entryOf h 0).1 q = true → fitsGate s m q n = (gateShut q h st 0).all fun t => decide (syntNs s + frameNs s m n ≤ t))

/-- STREAM_RESET_TIMEOUT (R487): recovery takes any number next; the generation count stays. -/
def StreamTimeout : Prop :=
  ∀ (s : State) (i : Fin 64),
    (SMap.get {} s.strms i).expire ≠ 0 →
    clocksOn s = true →
    let x := SMap.get {} s.strms i
    exec (.streamResetTimeout i) s = .next { advanceTo s x.expire with strms := SMap.set {} s.strms i { genSeq := x.genSeq } }

/-- PREEMPTION_VERIFICATION (R486). -/
def Preempt : Prop :=
  ∀ (s : State) (m : Fin 8) (ok : Bool),
    rdF s (.eth m) 0x044 4 2 = 1 →
    exec (.preemptionVerification m ok) s = .next (wrF s (.eth m) 0x044 4 2 (if ok then 2 else 3))

end Sys2Proof.Claims

open Sys2Proof Sys2Proof.Machine Sys2Proof.Claims in
/-- PCIE_LINK_UP to MSI and ETH_TX_FRAME to PREEMPTION_VERIFICATION. Completes: pcieLinkUp, pcieLinkDown, pcieOutboundRequest, pcieCompletion,
pcieCompletionTimeout, pcieInboundRequest, msi, ethTxFrame, ethRxFrame, ethLinkChange, gclTakeover, gateEntry, streamResetTimeout,
preemptionVerification. -/
def Obligations.PcieAndEthernet : Prop :=
  PcieLinkUp ∧
  PcieLinkDown ∧
  PcieOutReads ∧
  PcieOutWrites ∧
  PcieOutAddr ∧
  PcieOutRoot ∧
  PcieOutAsleep ∧
  PcieCompletion ∧
  PcieTimeout ∧
  PcieCplErr ∧
  PcieInPoison ∧
  PcieInGated ∧
  PcieInMapped ∧
  PcieInUnmapped ∧
  PcieInOutside ∧
  PcieInMsix ∧
  MsixBytes ∧
  PcieInBoot ∧
  MsiRow ∧
  EthTx ∧
  EthTxBusy ∧
  EthPreempts ∧
  EthResumes ∧
  EthLane ∧
  EthTxServed ∧
  EthReplicas ∧
  EthRx ∧
  EthTakes ∧
  EthIdle ∧
  EthRecover ∧
  EthLinkChange ∧
  GclTakeover ∧
  GateEntry ∧
  HoldCuts ∧
  EthGate ∧
  StreamTimeout ∧
  Preempt

namespace Sys2Proof.Claims

open Sys2Proof.Machine

/-- ASSERT (R506, R508): the message of the source's generation sets it pending and asserted, a stale one is counted in LATE; a presented priority wakes a napping cluster (R520). -/
def AssertRow : Prop :=
  ∀ (s : State) (src : Fin 2048) (m : IMsg) (l : List IMsg),
    takeMsg .assert src s.ic.msgs = some (m, l) →
    clocksOn s = true →
    let u := { s with ic := { s.ic with msgs := l } }
    (m.gen = srcGen s m.src → exec (.assertMsg src) s = .next (napWake (icDo (fun t => setPending t src true) u))) ∧
    (m.gen ≠ srcGen s m.src → exec (.assertMsg src) s = .next (napWake (setIrq (bumpF u .ictl 0x048 0 16 1) .ictl 2)))

/-- EDGE (R506, R508). -/
def EdgeRow : Prop :=
  ∀ (s : State) (src : Fin 2048) (m : IMsg) (l : List IMsg),
    takeMsg .edge src s.ic.msgs = some (m, l) →
    clocksOn s = true →
    let u := { s with ic := { s.ic with msgs := l } }
    (m.gen = srcGen s m.src → exec (.edgeMsg src) s = .next (napWake (icDo (fun t => setPending t src false) u))) ∧
    (m.gen ≠ srcGen s m.src → exec (.edgeMsg src) s = .next (napWake (setIrq (bumpF u .ictl 0x048 0 16 1) .ictl 2)))

/-- DEASSERT (R506, R508): a level source is no longer asserted; only a virtual pending bit stays. -/
def DeassertRow : Prop :=
  ∀ (s : State) (src : Fin 2048) (m : IMsg) (l : List IMsg),
    takeMsg .deassert src s.ic.msgs = some (m, l) →
    clocksOn s = true →
    let u := { s with ic := { s.ic with msgs := l } }
    (m.gen = srcGen s m.src → exec (.deassertMsg src) s = .next (icDo (fun t => clearLevel t src) u)) ∧
    (m.gen ≠ srcGen s m.src → exec (.deassertMsg src) s = .next (setIrq (bumpF u .ictl 0x048 0 16 1) .ictl 2))

/-- INTA to INTD at a root port (R503, R504, R506): where no message of the source is on its way a controller in root-complex mode, with its link up, sends one on with the OWNER and GEN of its page, and any other takes none. (That the command is then the reception at the root port is log entry 70.) -/
def IntxReceived : Prop :=
  ∀ (s : State) (src : Fin 2048) (c : Fin 4),
    src.val / 4 = 328 + c.val →
    clocksOn s = true →
    let takes := rdB s (.pce c) 0x040 0 && !rdB s (.pce c) 0x040 1 && decide (rdF s (.pce c) 0x044 0 2 = 2) && !blkBusy s (.pce c)
    (takeMsg .assert src s.ic.msgs = none → exec (.assertMsg src) s = .next (napWake (if takes = true then sendMsg s (.pce c) src .assert else s))) ∧
    (takeMsg .deassert src s.ic.msgs = none → exec (.deassertMsg src) s = .next (if takes = true then sendMsg s (.pce c) src .deassert else s)) ∧
    (sendMsg s (.pce c) src .assert).ic.msgs = s.ic.msgs ++ [{ src := src, kind := .assert, did := owner s (.pce c), gen := genOf s (.pce c) }]

/-- While the clocks stand no message arrives: it stays on its way (R553). -/
def MessagesStand : Prop :=
  ∀ (s : State) (src : Fin 2048),
    clocksOn s = false →
    exec (.assertMsg src) s = .next s ∧ exec (.edgeMsg src) s = .next s ∧ exec (.deassertMsg src) s = .next s

/-- The messages of one source are taken in the order in which they were sent (R31, R504). -/
def OldestMsg : Prop :=
  ∀ (k : MsgKind) (src : Nat) (q l : List IMsg) (m : IMsg),
    takeMsg k src q = some (m, l) →
    m.src = src ∧ m.kind = k ∧ ∃ a b, q = a ++ m :: b ∧ l = a ++ b ∧ ∀ x ∈ a, x.src ≠ src

/-- A source that becomes pending, or is set again (R508, R517): its record, then its group. -/
def PendingSet : Prop :=
  ∀ (s : State) (k : Nat) (level : Bool),
    let r := srcRec s k
    let u := updSrc s k fun r => { r with pend := true, asserted := level || r.asserted }
    setPending s k level = (if r.pend = false then groupEvent u r.group true else if level = true then u else groupEvent u r.group false)

/-- The transitions of a group (R517): an idle group opens at once with HOLD_TIME 0 or COUNT 1 (that COUNT 1 opens at the first event is log entry 38), else holds for HOLD_TIME × 64 ticks; a holding group opens when its count of events reaches COUNT. -/
def GroupRule : Prop :=
  ∀ (s : State) (g : Nat) (fresh : Bool),
    g ≠ 0 →
    let r := grpRec s g
    let hold := rdF s .ictl (0x080 + 4 * g) 0 16
    let lim := rdF s .ictl (0x080 + 4 * g) 16 8
    (r.state = .idle → fresh = true → hold = 0 → groupEvent s g fresh = setGrp s g { state := .opened }) ∧
    (r.state = .idle → fresh = true → hold ≠ 0 → groupEvent s g fresh = setGrp s g { state := if lim = 1 then .opened else .holding, deadline := s.dt + hold * 64, count := 1, limit := lim }) ∧
    (r.state = .holding → groupEvent s g fresh = setGrp s g { r with count := r.count + 1, state := if r.limit ≠ 0 ∧ r.limit ≤ r.count + 1 then .opened else .holding }) ∧
    (r.state = .opened → groupEvent s g fresh = s)

/-- GROUP_HOLD_EXPIRE (R517): a holding group opens at its deadline. -/
def GroupHoldExpire : Prop :=
  ∀ (s : State) (g : Fin 16),
    (grpRec s g).state = .holding →
    clocksOn s = true →
    exec (.groupHoldExpire g) s = .next (napWake (icDo (fun t => setGrp t g { grpRec t g with state := .opened }) (advanceTo s (grpRec s g).deadline)))

/-- CORE_TIMER_MATCH (R522): P1 is set and the timer disarms when the CK_F copy of device time reaches the compare value. -/
def CoreTimerMatch : Prop :=
  ∀ (s : State) (n : Fin 24),
    SMap.get false s.ic.armed n = true →
    clocksOn s = true →
    let u := advanceTo s (((rd s (.icp n) 0x054).toNat * 2 ^ 32 + (rd s (.icp n) 0x050).toNat - s.dtOff + 1) / 2 * 2 + s.dtOff)
    exec (.coreTimerMatch n) s = .next (napWake (wrB { u with ic := { u.ic with armed := SMap.set false u.ic.armed n false } } (.icp n) 0x064 5 true))

/-- HELLO (R543, R544): the highest version that both ranges hold; without one, 1. -/
def HelloRow : Prop :=
  ∀ (s : State) (d : Fin 64) (r : ScsRun),
    scsRunning s d = some r →
    r.func = 1 →
    exec (.hello d) s = .next (scsEnd s d .ok [(scsAgree s d).getD 1])

/-- SCS_INFO (R543): the version range, and the page's OWNER and GEN. -/
def InfoRow : Prop :=
  ∀ (s : State) (d : Fin 64) (r : ScsRun),
    scsRunning s d = some r →
    r.func = 2 →
    exec (.scsInfo d) s = .next (scsEnd s d .ok [rdF s .lcyc 0x058 0 16, owner s (.scs d) + genOf s (.scs d) * 2 ^ 8])

/-- NOTICES (R543, R544): needs version 2; gives the notices and clears them. -/
def NoticesRow : Prop :=
  ∀ (s : State) (d : Fin 64) (r : ScsRun),
    scsRunning s d = some r →
    r.func = 3 →
    exec (.notices d) s = .next (if scsVer s d < 2 then scsEnd s d .version [] else scsEnd (updDom s d fun x => { x with notice := false }) d .ok [(SMap.get {} s.doms d).notice.toNat])

/-- DRAM_STATE (R543). -/
def DramStateRow : Prop :=
  ∀ (s : State) (d : Fin 64) (r : ScsRun),
    scsRunning s d = some r →
    r.func = 16 →
    exec (.dramState d) s = .next (scsEnd s d .ok [(rdB s .dmc 0x040 0).toNat + 2 * (rdB s .dmc 0x040 2).toNat + 4 * (rdB s .dmc 0x040 1).toNat])

/-- FUSE_KEY (R151): a free slot takes the hash before PROD. Anyone but level H of DID 0 gets NOT_PERMITTED. -/
def FuseKeyRow : Prop :=
  ∀ (s : State) (d : Fin 64) (r : ScsRun),
    scsRunning s d = some r →
    r.func = 32 →
    (¬ (r.attr.did = 0 ∧ r.lvl = 2 ∧ r.scu = false) → exec (.fuseKey d) s = .next (scsEnd s d .notPermitted [])) ∧
    ((r.attr.did = 0 ∧ r.lvl = 2 ∧ r.scu = false) → exec (.fuseKey d) s = .next (if 4 ≤ scsArg s d 0 then scsEnd s d .badArg []
      else if 2 ≤ lcNow s ∨ bitN s.sage.fuses.prog (scsArg s d 0) = true then scsEnd s d .refused []
      else scsEnd (burn s fun f => { f with prog := f.prog ||| 2 ^ scsArg s d 0, hash := SMap.set 0 f.hash (scsArg s d 0) ((List.range 12).foldl (fun a i => a + scsArg s d i * 2 ^ (32 * i)) 0) }) d .ok []))

/-- FUSE_REVOKE (R151): refused where no live key would be left, outside TEST, and in SCRAP. Anyone but level H of DID 0 gets NOT_PERMITTED. -/
def FuseRevokeRow : Prop :=
  ∀ (s : State) (d : Fin 64) (r : ScsRun),
    scsRunning s d = some r →
    r.func = 33 →
    (¬ (r.attr.did = 0 ∧ r.lvl = 2 ∧ r.scu = false) → exec (.fuseRevoke d) s = .next (scsEnd s d .notPermitted [])) ∧
    ((r.attr.did = 0 ∧ r.lvl = 2 ∧ r.scu = false) → exec (.fuseRevoke d) s = .next (if 5 ≤ scsArg s d 0 then scsEnd s d .badArg []
      else if 4 ≤ lcNow s ∨ (lcNow s ≠ 0 ∧ liveKeys { s.sage.fuses with rev := s.sage.fuses.rev ||| 2 ^ scsArg s d 0 } = 0) then scsEnd s d .refused []
      else scsEnd (burn s fun f => { f with rev := f.rev ||| 2 ^ scsArg s d 0 }) d .ok []))

/-- FUSE_SECVER (R151): raises the minimum no higher than the version that runs. Anyone but level H of DID 0 gets NOT_PERMITTED. -/
def FuseSecverRow : Prop :=
  ∀ (s : State) (d : Fin 64) (r : ScsRun),
    scsRunning s d = some r →
    r.func = 34 →
    (¬ (r.attr.did = 0 ∧ r.lvl = 2 ∧ r.scu = false) → exec (.fuseSecver d) s = .next (scsEnd s d .notPermitted [])) ∧
    ((r.attr.did = 0 ∧ r.lvl = 2 ∧ r.scu = false) → exec (.fuseSecver d) s = .next (if lcNow s = 0 ∨ 4 ≤ lcNow s ∨ rdF s .lcyc (if rdB s .lcyc 0x040 8 then 0x048 else 0x044) 8 7 < scsArg s d 0 ∨ 127 < scsArg s d 0 then scsEnd s d .refused []
      else scsEnd (burn s (raiseSecver (scsArg s d 0))) d .ok []))

/-- CAL_READ (R582). Anyone but level H of DID 0 gets NOT_PERMITTED. -/
def CalReadRow : Prop :=
  ∀ (s : State) (d : Fin 64) (r : ScsRun) (env : MemEnv),
    scsRunning s d = some r →
    r.func = 48 →
    (¬ (r.attr.did = 0 ∧ r.lvl = 2 ∧ r.scu = false) → exec (.calRead d env) s = .next (scsEnd s d .notPermitted [])) ∧
    ((r.attr.did = 0 ∧ r.lvl = 2 ∧ r.scu = false) → exec (.calRead d env) s = .next (match calArgs s d with
      | none => scsEnd s d .badArg []
      | some (_, base, size, off, len, a) => match busWrite s .scu (scuAttr s) a (epBytes s (base + 8 + off) len) env with
        | .wait u => u
        | .err u _ => scsEnd u d .badArg []
        | .ok u _ => scsEnd u d .ok [calLen u base + (epByte u (base + 4)).toNat * 2 ^ 16 + (epByte u (base + 5)).toNat * 2 ^ 24,
            ofBytes (epBytes u (base + 6) 2) + (calCrcOk u base size).toNat * 2 ^ 16]))

/-- CAL_WRITE (R582): the identity record is refused; a write cut off leaves a record whose CRC does not hold. Anyone but level H of DID 0 gets NOT_PERMITTED. -/
def CalWriteRow : Prop :=
  ∀ (s : State) (d : Fin 64) (r : ScsRun) (env : MemEnv) (cut : Bool),
    scsRunning s d = some r →
    r.func = 49 →
    (¬ (r.attr.did = 0 ∧ r.lvl = 2 ∧ r.scu = false) → exec (.calWrite d env cut) s = .next (scsEnd s d .notPermitted [])) ∧
    ((r.attr.did = 0 ∧ r.lvl = 2 ∧ r.scu = false) → exec (.calWrite d env cut) s = .next (match calArgs s d with
      | none => scsEnd s d .badArg []
      | some (t, base, size, off, len, a) => if t = 0 then scsEnd s d .refused [] else match busRead s .scu (scuAttr s) a len env with
        | .wait u => u
        | .err u _ => scsEnd u d .badArg []
        | .ok u l => if cut = true then calCut (calPut u base size off l (some 1)) base else scsEnd (calPut u base size off l (some 1)) d .ok []))

/-- Sage's copy of the calibration set at a start (R580, R581, R587): CAL_VALID has the records that are used, CAL_USER those that carry WRITER user, good or not, and a byte of a record that is used is copied; later changes of the set leave the copy, which the rank-retirement record is read from. -/
def CalCopies : Prop :=
  ∀ (s : State) (us t a pr : Nat),
    t < 9 →
    pr < 36 →
    let u := calCopy s us
    bit (rd u .calb 0x040) t = calUsed s t ∧ bit (rd u .calb 0x044) t = ((calSlot t).any fun x => decide (epByte s (x.1 + 4) = 1)) ∧
    (calUsed s t = true → ∀ b n, calSlot t = some (b, n) → b ≤ a → a < b + n → SMap.get 0 u.calib a = epByte s a) ∧
    rankByte u pr = (if calUsed s 7 = true then (epByte s (0x3380 + 8 + pr)).toNat else 0) ∧
    ∀ base size off bs w, rankByte (calPut s base size off bs w) pr = rankByte s pr

/-- BIST_RUN (R577): an argument that names no target is bad, a target that may not be tested is refused. Anyone but level H of DID 0 gets NOT_PERMITTED. -/
def BistRunRow : Prop :=
  ∀ (s : State) (d : Fin 64) (r : ScsRun) (env : MemEnv),
    scsRunning s d = some r →
    r.func = 64 →
    (¬ (r.attr.did = 0 ∧ r.lvl = 2 ∧ r.scu = false) → exec (.bistRun d env) s = .next (scsEnd s d .notPermitted [])) ∧
    ((r.attr.did = 0 ∧ r.lvl = 2 ∧ r.scu = false) → exec (.bistRun d env) s = .next (let b := bistOf (BitVec.ofNat 32 (scsArg s d 0))
      if bistListed b = false then scsEnd s d .badArg [] else match bistBegin s b env with
        | .error u => u
        | .ok (u, true) => scsEnd u d .ok []
        | .ok (u, false) => scsEnd u d .refused []))

/-- SCS_UNKNOWN_FUNCTION (R543). -/
def UnknownRow : Prop :=
  ∀ (s : State) (d : Fin 64) (r : ScsRun),
    scsRunning s d = some r →
    scsListed.contains r.func = false →
    exec (.scsUnknownFunction d) s = .next (scsEnd s d .unknown [])

/-- SCS_RESPONSE (R542, R544): the result words, STATUS and SEQ stand, BUSY clears, IRQ_STAT bit 0 is set; an accepted HELLO sets VER and records 0x81 where the ranges share none. -/
def ResponseRow : Prop :=
  ∀ (s : State) (d : Fin 64) (r : ScsRun) (st : Nat) (l : List Nat),
    (SMap.get {} s.doms d).svc = some r →
    r.done = some (st, l) →
    let u := l.zipIdx.foldl (fun s e => wr s (.scs d) (0x080 + 4 * e.2) (BitVec.ofNat 32 e.1)) s
    let v := wrF u (.scs d) 0x044 24 8 ((scsAgree u d).getD 1)
    exec (.scsResponse d) s = .next (scsClose (if r.func = 1 ∧ st = 0 then (if scsAgree u d = none then recInternal v (.scs d) 0x81 r.func else v) else u) d r.seq st)

/-- A command ends (R542). -/
def CloseRow : Prop :=
  ∀ (s : State) (d : Fin 64) (seq st : Nat),
    scsClose s d seq st = setIrq (updDom (wr s (.scs d) 0x044 (setFld (setFld (setFld (rd s (.scs d) 0x044) 0 1 0) 8 8 st) 16 8 seq)) d fun r => { r with svc := none }) (.scs d) 1

/-- SCS_TIMEOUT (R542): the page ends the command with TIMEOUT and 0x82. -/
def TimeoutRow : Prop :=
  ∀ (s : State) (d : Fin 64) (r : ScsRun),
    (SMap.get {} s.doms d).svc = some r →
    clocksOn s = true →
    exec (.scsTimeout d) s = .next (scsClose (recInternal s (.scs d) 0x82 r.func) d r.seq 5)

/-- DRAM_BRINGUP (R65, R290, R297): after handover, and while DRAM is neither ready nor failed, SCU firmware asks for 1.80 V on the DRAM group over the VR link, once, until that is acknowledged (that the request is a VR_ENABLE and comes first is log entry 33). -/
def DramAsks : Prop :=
  ∀ (s : State) (failed : BitVec 18),
    s.sage.phase = .done →
    clocksOn s = true →
    rdB s .dmc 0x040 0 = false →
    rdB s .dmc 0x040 1 = false →
    ackedLevel s 5 ≠ 180 →
    exec (.dramBringup failed) s = .next (if dramAsked s = true then s else vrSend s { typ := 2, rail := 5, value := 180, why := .dram })

/-- DRAM_BRINGUP with the DRAM group acknowledged (R297, R298, R317, R160): every channel that trained is good and one that did not is recorded with TRAIN_FAIL, spares and logical ranks are mapped in order; DRAM is ready and empty, or has failed with a fatal error, whose code is free (log entries 12 and 33), where a rank finds no place. -/
def DramUp : Prop :=
  ∀ (s : State) (failed : BitVec 18),
    s.sage.phase = .done →
    clocksOn s = true →
    rdB s .dmc 0x040 0 = false →
    rdB s .dmc 0x040 1 = false →
    ackedLevel s 5 = 180 →
    let b := (List.finRange 18).foldl (fun s (c : Fin 18) => if failed.getLsbD c = true then recordErr (wrF s (.dch c) 0x040 0 2 3) (.dch c) 0x83 contained (pageAttr s (.dch c)) 0 0
      else wrF s (.dch c) 0x040 0 2 1) s
    let c := (List.range 4).foldl (fun s sp => setSpare s sp (if rankBad s failed (sparePr sp) then 3 else 1)) b
    let r := (List.range 32).foldl (mapRank failed) (c, true)
    exec (.dramBringup failed) s = .next (if r.2 = true then reportDram (setIrq (restoreMode (wrB (clearDram r.1) .dmc 0x040 0 true)) .dmc 1)
      else recUnstated (wrB (clearDram r.1) .dmc 0x040 1 true) .dmc fatal)

end Sys2Proof.Claims

open Sys2Proof Sys2Proof.Machine Sys2Proof.Claims in
/-- ASSERT to CORE_TIMER_MATCH, HELLO to DRAM_BRINGUP. Completes: dramBringup, assertMsg, deassertMsg, edgeMsg, groupHoldExpire, coreTimerMatch,
hello, scsInfo, notices, dramState, fuseKey, fuseRevoke, fuseSecver, calRead, calWrite, bistRun, scsUnknownFunction, scsResponse, scsTimeout. -/
def Obligations.InterruptsAndServices : Prop :=
  AssertRow ∧
  EdgeRow ∧
  DeassertRow ∧
  IntxReceived ∧
  MessagesStand ∧
  OldestMsg ∧
  PendingSet ∧
  GroupRule ∧
  GroupHoldExpire ∧
  CoreTimerMatch ∧
  HelloRow ∧
  InfoRow ∧
  NoticesRow ∧
  DramStateRow ∧
  FuseKeyRow ∧
  FuseRevokeRow ∧
  FuseSecverRow ∧
  CalReadRow ∧
  CalWriteRow ∧
  CalCopies ∧
  BistRunRow ∧
  UnknownRow ∧
  ResponseRow ∧
  CloseRow ∧
  TimeoutRow ∧
  DramAsks ∧
  DramUp

namespace Sys2Proof.Claims

open Sys2Proof.Machine

/-- The fetch of the instruction at the pc, then the loads that the core performs ahead of it: the state in which the instruction executes, and the
events of its fetch (R175, R245, R256). One that was issued before and waited is not fetched again (R208). -/
def fetched (z : State) (n : Fin 24) (fr : Front) : Option (State × List Nat) :=
  if (Machine.core z n).tried.isSome = true then some (fr.ahead.foldl (readAhead n fr.env) z, [])
  else match fetchInstr z n fr.env with
  | .ok t fe => some (fr.ahead.foldl (readAhead n fr.env) t, fe)
  | _ => none

/-- A Winovar core issues the instruction at its pc: it runs and waits for no answer, nothing is taken at the boundary, and the fetch succeeds; `s` is
the state in which the instruction executes, and `fe` are the events of the fetch (R175, R177, R180). -/
abbrev Issues (z : State) (n : Fin 24) (fr : Front) (fe : List Nat) (s : State) : Prop :=
  (Machine.core z n).run = .running ∧ (Machine.core z n).stall = false ∧ taken z n fr = none ∧ fetched z n fr = some (s, fe)

/-- A core goes on at `npc`: what it held for the instruction, its answers, its events and its translations, goes, and what stands ahead of it and the
kept line of the reservation come one instruction nearer to their end (R170, R208, R211, R232). -/
def goesOn (u : State) (n : Fin 24) (npc : Word64) (evs : List Nat) (e : Option (Nat × Nat)) : State :=
  updCore u n fun c => { c with pc := npc, entry := e, got := [], tried := none, xlats := [], heldAt := [], atPort := none, keep := ageKeep evs c.keep, early := agedEarly c.early, served := agedServed c.served }

/-- The end of an instruction whose effects are in `u`: the counters of its level count it, the events of its fetch and its own with those it met while
it waited, and the pc moves on (R170, R211, R255, R256). -/
def retired (fe : List Nat) (s u : State) (n : Fin 24) (npc : Word64) (evs : List Nat) : State :=
  pmuRetire (level s n) n (allEvs u n (fe ++ evs)) (goesOn u n npc evs none)

/-- An instruction that writes `v` to wd and nothing else; w0 stays zero (R165). -/
def wPut (fe : List Nat) (s : State) (n : Fin 24) (d : Fin 32) (v : Word64) : State :=
  retired fe s (setW s n d v) n ((Machine.core s n).pc + 4) []

/-- Bits 31:0 of a register. -/
def lo (x : Word64) : BitVec 32 := x.setWidth 32

/-- CLZ, CTZ and POPC count what R202 says. -/
def CountsFollow : Prop :=
  ∀ x : Word64, (clz64 x).toNat ≤ 64 ∧ (ctz64 x).toNat ≤ 64 ∧
    (∀ i, i < (clz64 x).toNat → bit x (63 - i) = false) ∧ ((clz64 x).toNat < 64 → bit x (63 - (clz64 x).toNat) = true) ∧
    (∀ i, i < (ctz64 x).toNat → bit x i = false) ∧ ((ctz64 x).toNat < 64 → bit x (ctz64 x).toNat = true) ∧
    (popc64 x).toNat = ((List.range 64).filter fun i => bit x i).length

/-- Bits 127:64 of the three kinds of product (R205). -/
def HighProductsFollow : Prop :=
  ∀ x y : Word64, (mulHigh x.toInt y.toInt).toInt = x.toInt * y.toInt / 2 ^ 64 ∧ (mulHigh x.toNat y.toNat).toNat = x.toNat * y.toNat / 2 ^ 64 ∧
    (mulHigh x.toInt y.toNat).toInt = x.toInt * (y.toNat : Int) / 2 ^ 64

/-- For every a and b quotient × b + remainder = a, modulo 2^64 (R205). -/
def DivisionsFollow : Prop :=
  ∀ x y : Word64, divS 64 x.toNat y.toNat * y + remS 64 x.toNat y.toNat = x ∧ divU 64 x.toNat y.toNat * y + remU 64 x.toNat y.toNat = x ∧
    lo (divS 32 x.toNat y.toNat) * lo y + lo (remS 32 x.toNat y.toNat) = lo x ∧ lo (divU 32 x.toNat y.toNat) * lo y + lo (remU 32 x.toNat y.toNat) = lo x

/-- A pc that is not a multiple of 4 raises FETCH_ALIGN before the instruction does anything (R175, R214). -/
def FetchAligned : Prop :=
  ∀ (z : State) (n : Fin 24) (fr : Front) (body : State → IRes), (Machine.core z n).run = .running → (Machine.core z n).stall = false → taken z n fr = none →
    (Machine.core z n).tried = none → (Machine.core z n).pc.toNat % 4 ≠ 0 →
    wInstr n fr body z = .next (raiseExc (wrongPath z n fr) n (Machine.core z n).pc { code := 0x03, eaddr := (Machine.core z n).pc })

/-- What is due at a boundary is taken in place of the instruction: a STORE_BUS, then a later arrival, then a deliverable interrupt (R177, R180, R182);
an instruction that has taken an answer is no boundary (R208). -/
def BoundaryFirst : Prop :=
  ∀ (z t : State) (n : Fin 24) (fr : Front) (body : State → IRes),
    ((Machine.core z n).run = .running → (Machine.core z n).stall = false → taken z n fr = some t → wInstr n fr body z = .next t) ∧
    ((Machine.core z n).got ≠ [] → taken z n fr = none) ∧
    ((Machine.core z n).got = [] →
      (∀ e, storeBusDue z n = some e → taken z n fr = some (takeStoreBus (wrongPath z n fr) n e)) ∧
      (storeBusDue z n = none → ∀ l q, lateDue z n = some (l, q) → taken z n fr = some (takeLate z n l q)) ∧
      (storeBusDue z n = none → lateDue z n = none → ∀ l p v, irqDue z n = some (l, p, v) → taken z n fr = some (enterIrq (wrongPath z n fr) n l p v)) ∧
      (storeBusDue z n = none → lateDue z n = none → irqDue z n = none → taken z n fr = none))

/-- A STORE_BUS is due while the core is at the level that issued the store or below it, and not at the level that takes it with EG set (R176, R177). -/
def StoreBusWaits : Prop :=
  ∀ (s : State) (n : Fin 24) (e : Nat × Nat), (Machine.core s n).sbus = [e] →
    (level s n ≤ e.1 → ¬ (level s n = storeBusLevel s n e.1 ∧ statusEG s n = true) → storeBusDue s n = some e) ∧
    (e.1 < level s n → storeBusDue s n = none) ∧ (level s n = storeBusLevel s n e.1 → statusEG s n = true → storeBusDue s n = none)

/-- An instruction whose line the L1 instruction cache and the L2 hold, with no wait and no error, is fetched at level F with no event, and nothing changes
(R186, R248). -/
def FetchHeld : Prop :=
  ∀ (z : State) (n : Fin 24) (fr : Front) (y : L2Line), level z n = 3 → (Machine.core z n).tried = none → (Machine.core z n).pc.toNat % 4 = 0 → (Machine.core z n).pc.toNat < 2 ^ 48 →
    inMem z (Machine.core z n).pc.toNat = true → l1Has (Machine.core z n).l1i ((Machine.core z n).pc.toNat / 64) = true →
    (envAt fr.env ((Machine.core z n).pc.toNat / 64)).l1i = false → l2Line z (clusterOfCore n) ((Machine.core z n).pc.toNat / 64) = some y → y.poison = false →
    ((Machine.core z n).served.all fun x => !x.fetch) = true → fr.ahead = [] → fetched z n fr = some (z, [])

/-- An instruction that cannot complete yet stays: the pc keeps its place, and the events it met are kept for it (R208, R256). -/
def WaitKeepsEvents : Prop :=
  ∀ (z s u : State) (n : Fin 24) (fr : Front) (fe : List Nat) (body : State → IRes), Issues z n fr fe s → body s = .stall u →
    wInstr n fr body z = .next (updCore u n fun c => { c with tried := some (allEvs u n fe) })

/-- What an instruction counts when it retires: the events of its last run and those it met before, each once (R256). -/
def EventsOnce : Prop :=
  ∀ (s : State) (n : Fin 24) (evs : List Nat) (e : Nat),
    (e ∈ allEvs s n evs ↔ e ∈ evs ∨ ∃ l, (Machine.core s n).tried = some l ∧ e ∈ l) ∧
    (e ∈ evs → (allEvs s n evs).count e = evs.count e)

/-- One that waited and runs again is not fetched again: its pc raises nothing, whatever the line of the fetch holds by now (R208). -/
def RunsAgain : Prop :=
  ∀ (z : State) (n : Fin 24) (fr : Front) (l : List Nat) (body : State → IRes), (Machine.core z n).run = .running → (Machine.core z n).stall = false → taken z n fr = none →
    (Machine.core z n).tried = some l → fr.ahead = [] → wInstr n fr body z = .next (finish z n fr [] (body z))

end Sys2Proof.Claims

namespace Sys2Proof.Claims

open Sys2Proof.Machine

/-- The 64-bit R-format operations (R201, R202, R204). -/
def WLogic : Prop :=
  ∀ (z s : State) (n : Fin 24) (fr : Front) (fe : List Nat) (d a b : Fin 32),
    Issues z n fr fe s →
    exec (.wAdd n d a b fr) z = .next (wPut fe s n d ((getW s n a) + (getW s n b))) ∧
    exec (.wSub n d a b fr) z = .next (wPut fe s n d ((getW s n a) - (getW s n b))) ∧
    exec (.wAnd n d a b fr) z = .next (wPut fe s n d ((getW s n a) &&& (getW s n b))) ∧
    exec (.wOr n d a b fr) z = .next (wPut fe s n d ((getW s n a) ||| (getW s n b))) ∧
    exec (.wXor n d a b fr) z = .next (wPut fe s n d ((getW s n a) ^^^ (getW s n b))) ∧
    exec (.wAndn n d a b fr) z = .next (wPut fe s n d ((getW s n a) &&& ~~~(getW s n b))) ∧
    exec (.wSll n d a b fr) z = .next (wPut fe s n d ((getW s n a) <<< ((getW s n b).toNat % 64))) ∧
    exec (.wSrl n d a b fr) z = .next (wPut fe s n d ((getW s n a) >>> ((getW s n b).toNat % 64))) ∧
    exec (.wSra n d a b fr) z = .next (wPut fe s n d ((getW s n a).sshiftRight ((getW s n b).toNat % 64))) ∧
    exec (.wRor n d a b fr) z = .next (wPut fe s n d ((getW s n a).rotateRight ((getW s n b).toNat % 64)))

/-- SLT, SLTU, minima and maxima (R202). -/
def WCompare : Prop :=
  ∀ (z s : State) (n : Fin 24) (fr : Front) (fe : List Nat) (d a b : Fin 32),
    Issues z n fr fe s →
    exec (.wSlt n d a b fr) z = .next (wPut fe s n d (if (getW s n a).toInt < (getW s n b).toInt then 1 else 0)) ∧
    exec (.wSltu n d a b fr) z = .next (wPut fe s n d (if (getW s n a).toNat < (getW s n b).toNat then 1 else 0)) ∧
    exec (.wMin n d a b fr) z = .next (wPut fe s n d (BitVec.ofInt 64 (min (getW s n a).toInt (getW s n b).toInt))) ∧
    exec (.wMax n d a b fr) z = .next (wPut fe s n d (BitVec.ofInt 64 (max (getW s n a).toInt (getW s n b).toInt))) ∧
    exec (.wMinu n d a b fr) z = .next (wPut fe s n d (BitVec.ofNat 64 (min (getW s n a).toNat (getW s n b).toNat))) ∧
    exec (.wMaxu n d a b fr) z = .next (wPut fe s n d (BitVec.ofNat 64 (max (getW s n a).toNat (getW s n b).toNat)))

/-- The W operations work on bits 31:0 and sign-extend (R201, R202, R204). -/
def WWords : Prop :=
  ∀ (z s : State) (n : Fin 24) (fr : Front) (fe : List Nat) (d a b : Fin 32),
    Issues z n fr fe s →
    exec (.wAddw n d a b fr) z = .next (wPut fe s n d ((lo (getW s n a) + lo (getW s n b)).signExtend 64)) ∧
    exec (.wSubw n d a b fr) z = .next (wPut fe s n d ((lo (getW s n a) - lo (getW s n b)).signExtend 64)) ∧
    exec (.wSllw n d a b fr) z = .next (wPut fe s n d ((lo (getW s n a) <<< ((getW s n b).toNat % 32)).signExtend 64)) ∧
    exec (.wSrlw n d a b fr) z = .next (wPut fe s n d ((lo (getW s n a) >>> ((getW s n b).toNat % 32)).signExtend 64)) ∧
    exec (.wSraw n d a b fr) z = .next (wPut fe s n d (((lo (getW s n a)).sshiftRight ((getW s n b).toNat % 32)).signExtend 64)) ∧
    exec (.wRorw n d a b fr) z = .next (wPut fe s n d (((lo (getW s n a)).rotateRight ((getW s n b).toNat % 32)).signExtend 64)) ∧
    exec (.wMulw n d a b fr) z = .next (wPut fe s n d ((lo (getW s n a) * lo (getW s n b)).signExtend 64))

/-- CLZ, CTZ and POPC, of which CountsFollow says what they count. -/
def WCount : Prop :=
  ∀ (z s : State) (n : Fin 24) (fr : Front) (fe : List Nat) (d a : Fin 32),
    Issues z n fr fe s →
    exec (.wClz n d a fr) z = .next (wPut fe s n d (clz64 (getW s n a))) ∧
    exec (.wCtz n d a fr) z = .next (wPut fe s n d (ctz64 (getW s n a))) ∧
    exec (.wPopc n d a fr) z = .next (wPut fe s n d (popc64 (getW s n a)))

/-- MUL, MULH, MULHU, MULHSU (R205). -/
def WProducts : Prop :=
  ∀ (z s : State) (n : Fin 24) (fr : Front) (fe : List Nat) (d a b : Fin 32),
    Issues z n fr fe s →
    exec (.wMul n d a b fr) z = .next (wPut fe s n d ((getW s n a) * (getW s n b))) ∧
    exec (.wMulh n d a b fr) z = .next (wPut fe s n d (mulHigh (getW s n a).toInt (getW s n b).toInt)) ∧
    exec (.wMulhu n d a b fr) z = .next (wPut fe s n d (mulHigh (getW s n a).toNat (getW s n b).toNat)) ∧
    exec (.wMulhsu n d a b fr) z = .next (wPut fe s n d (mulHigh (getW s n a).toInt (getW s n b).toNat))

/-- The I-format operations (R203). -/
def WImmediates : Prop :=
  ∀ (z s : State) (n : Fin 24) (fr : Front) (fe : List Nat) (d a : Fin 32) (imm : BitVec 16),
    Issues z n fr fe s →
    exec (.wAddi n d a imm fr) z = .next (wPut fe s n d ((getW s n a) + (imm.signExtend 64))) ∧
    exec (.wAddiw n d a imm fr) z = .next (wPut fe s n d ((lo ((getW s n a) + (imm.signExtend 64))).signExtend 64)) ∧
    exec (.wSlti n d a imm fr) z = .next (wPut fe s n d (if (getW s n a).toInt < (imm.signExtend 64).toInt then 1 else 0)) ∧
    exec (.wSltiu n d a imm fr) z = .next (wPut fe s n d (if (getW s n a).toNat < (imm.signExtend 64).toNat then 1 else 0)) ∧
    exec (.wAndi n d a imm fr) z = .next (wPut fe s n d ((getW s n a) &&& (imm.setWidth 64))) ∧
    exec (.wOri n d a imm fr) z = .next (wPut fe s n d ((getW s n a) ||| (imm.setWidth 64))) ∧
    exec (.wXori n d a imm fr) z = .next (wPut fe s n d ((getW s n a) ^^^ (imm.setWidth 64))) ∧
    exec (.wLui n d imm fr) z = .next (wPut fe s n d (BitVec.ofInt 64 (imm.toInt * 0x10000))) ∧
    exec (.wAuipc n d imm fr) z = .next (wPut fe s n d ((Machine.core s n).pc + BitVec.ofInt 64 (imm.toInt * 0x10000)))

/-- SHI (R203, R204). -/
def WShiftImm : Prop :=
  ∀ (z s : State) (n : Fin 24) (fr : Front) (fe : List Nat) (d a : Fin 32) (c : Fin 64),
    Issues z n fr fe s →
    exec (.wSlli n d a c fr) z = .next (wPut fe s n d ((getW s n a) <<< c.val)) ∧
    exec (.wSrli n d a c fr) z = .next (wPut fe s n d ((getW s n a) >>> c.val)) ∧
    exec (.wSrai n d a c fr) z = .next (wPut fe s n d ((getW s n a).sshiftRight c.val)) ∧
    exec (.wRori n d a c fr) z = .next (wPut fe s n d ((getW s n a).rotateRight c.val)) ∧
    exec (.wSlliw n d a c fr) z = .next (wPut fe s n d ((lo (getW s n a) <<< (c.val % 32)).signExtend 64)) ∧
    exec (.wSrliw n d a c fr) z = .next (wPut fe s n d ((lo (getW s n a) >>> (c.val % 32)).signExtend 64)) ∧
    exec (.wSraiw n d a c fr) z = .next (wPut fe s n d (((lo (getW s n a)).sshiftRight (c.val % 32)).signExtend 64))

/-- Register w0 reads as zero and ignores writes; every other register reads back what was written, and writing one leaves the others (R165). -/
def WZero : Prop :=
  ∀ (s : State) (n m : Fin 24) (d r : Fin 32) (v : Word64),
    getW s n 0 = 0 ∧ setW s n 0 v = s ∧ getW (setW s n d v) m r = (if m = n ∧ r = d ∧ d ≠ 0 then v else getW s m r)

end Sys2Proof.Claims

open Sys2Proof Sys2Proof.Machine Sys2Proof.Claims in
/-- R201 to R205 but the divisions. Completes: wAdd, wSub, wAnd, wOr, wXor, wAndn, wSll, wSrl, wSra, wRor, wSlt, wSltu, wMin, wMax, wMinu, wMaxu,
wClz, wCtz, wPopc, wAddw, wSubw, wSllw, wSrlw, wSraw, wRorw, wAddi, wAddiw, wSlti, wSltiu, wAndi, wOri, wXori, wLui, wAuipc, wSlli, wSrli, wSrai,
wRori, wSlliw, wSrliw, wSraiw, wMul, wMulh, wMulhu, wMulhsu, wMulw. -/
def Obligations.WinovarIntegers : Prop :=
  WLogic ∧
  WCompare ∧
  WWords ∧
  WCount ∧
  WProducts ∧
  WImmediates ∧
  WShiftImm ∧
  WZero ∧
  CountsFollow ∧
  HighProductsFollow

namespace Sys2Proof.Claims

open Sys2Proof.Machine

/-- DIV, DIVU, REM, REMU and their W forms (R205, R206). -/
def WDivisions : Prop :=
  ∀ (z s : State) (n : Fin 24) (fr : Front) (fe : List Nat) (d a b : Fin 32),
    Issues z n fr fe s →
    exec (.wDiv n d a b fr) z = .next (wPut fe s n d (if (getW s n b) = 0 then 0xFFFFFFFFFFFFFFFF else (getW s n a).sdiv (getW s n b))) ∧
    exec (.wDivu n d a b fr) z = .next (wPut fe s n d (if (getW s n b) = 0 then 0xFFFFFFFFFFFFFFFF else (getW s n a) / (getW s n b))) ∧
    exec (.wRem n d a b fr) z = .next (wPut fe s n d (if (getW s n b) = 0 then (getW s n a) else (getW s n a).srem (getW s n b))) ∧
    exec (.wRemu n d a b fr) z = .next (wPut fe s n d (if (getW s n b) = 0 then (getW s n a) else (getW s n a) % (getW s n b))) ∧
    exec (.wDivw n d a b fr) z = .next (wPut fe s n d (if lo (getW s n b) = 0 then 0xFFFFFFFFFFFFFFFF else ((lo (getW s n a)).sdiv (lo (getW s n b))).signExtend 64)) ∧
    exec (.wDivuw n d a b fr) z = .next (wPut fe s n d (if lo (getW s n b) = 0 then 0xFFFFFFFFFFFFFFFF else (lo (getW s n a) / lo (getW s n b)).signExtend 64)) ∧
    exec (.wRemw n d a b fr) z = .next (wPut fe s n d (if lo (getW s n b) = 0 then (lo (getW s n a)).signExtend 64 else ((lo (getW s n a)).srem (lo (getW s n b))).signExtend 64)) ∧
    exec (.wRemuw n d a b fr) z = .next (wPut fe s n d (if lo (getW s n b) = 0 then (lo (getW s n a)).signExtend 64 else (lo (getW s n a) % lo (getW s n b)).signExtend 64))

/-- The boundary cases of R206, one after another. -/
def WBoundaries : Prop :=
  ∀ (z s : State) (n : Fin 24) (fr : Front) (fe : List Nat) (d a b : Fin 32) (k : Nat),
    Issues z n fr fe s →
    ((getW s n b) = 0 → exec (.wDiv n d a b fr) z = .next (wPut fe s n d (0xFFFFFFFFFFFFFFFF)) ∧ exec (.wDivu n d a b fr) z = .next (wPut fe s n d (0xFFFFFFFFFFFFFFFF))) ∧
    ((getW s n b) = 0 → exec (.wRem n d a b fr) z = .next (wPut fe s n d ((getW s n a))) ∧ exec (.wRemu n d a b fr) z = .next (wPut fe s n d ((getW s n a)))) ∧
    ((getW s n a) = 0x8000000000000000 → (getW s n b) = 0xFFFFFFFFFFFFFFFF → exec (.wDiv n d a b fr) z = .next (wPut fe s n d (0x8000000000000000)) ∧ exec (.wRem n d a b fr) z = .next (wPut fe s n d (0))) ∧
    (lo (getW s n b) = 0 → exec (.wDivw n d a b fr) z = .next (wPut fe s n d (0xFFFFFFFFFFFFFFFF)) ∧ exec (.wDivuw n d a b fr) z = .next (wPut fe s n d (0xFFFFFFFFFFFFFFFF))) ∧
    (lo (getW s n b) = 0 → exec (.wRemw n d a b fr) z = .next (wPut fe s n d ((lo (getW s n a)).signExtend 64)) ∧ exec (.wRemuw n d a b fr) z = .next (wPut fe s n d ((lo (getW s n a)).signExtend 64))) ∧
    (lo (getW s n a) = 0x80000000 → lo (getW s n b) = 0xFFFFFFFF → exec (.wDivw n d a b fr) z = .next (wPut fe s n d (0xFFFFFFFF80000000)) ∧ exec (.wRemw n d a b fr) z = .next (wPut fe s n d (0))) ∧
    ((getW s n b) = 0x8000000000000000 → exec (.wSub n d 0 b fr) z = .next (wPut fe s n d (0x8000000000000000))) ∧
    (lo (getW s n b) = 0x80000000 → exec (.wSubw n d 0 b fr) z = .next (wPut fe s n d (0xFFFFFFFF80000000))) ∧
    (k < 64 → (getW s n b) = BitVec.ofNat 64 (64 + k) → exec (.wSll n d a b fr) z = .next (wPut fe s n d ((getW s n a) <<< k))) ∧
    (k < 64 → exec (.wSlli n d a (Fin.ofNat 64 (64 + k)) fr) z = .next (wPut fe s n d ((getW s n a) <<< k))) ∧
    (lo (getW s n a) = 0x80000000 → (getW s n b).toNat % 32 = 0 → exec (.wSrlw n d a b fr) z = .next (wPut fe s n d (0xFFFFFFFF80000000))) ∧
    ((getW s n a) = 0 → exec (.wClz n d a fr) z = .next (wPut fe s n d (64)) ∧ exec (.wCtz n d a fr) z = .next (wPut fe s n d (64)))

end Sys2Proof.Claims

open Sys2Proof Sys2Proof.Machine Sys2Proof.Claims in
/-- R206, and the divisions of R205. Completes: wSub, wSll, wClz, wCtz, wSubw, wSrlw, wSlli, wDiv, wDivu, wRem, wRemu, wDivw, wDivuw, wRemw, wRemuw. -/
def Obligations.WinovarDivisions : Prop :=
  WDivisions ∧
  WBoundaries ∧
  DivisionsFollow

namespace Sys2Proof.Claims

open Sys2Proof.Machine

/-- A rounded result in an f register with its flags, and the next instruction; the pattern of a binary32 leaves bits 63:32 zero (R215, R219). -/
def fPut (fe : List Nat) (s : State) (n : Fin 24) (d : Fin 32) (r : Nat × FFlags) : State :=
  retired fe s (setFr (fpFlags s n r.2) n d (BitVec.ofNat 64 r.1)) n ((Machine.core s n).pc + 4) []

/-- The same with a result in a w register. -/
def fwPut (fe : List Nat) (s : State) (n : Fin 24) (d : Fin 32) (v : Word64) (f : FFlags) : State :=
  retired fe s (setW (fpFlags s n f) n d v) n ((Machine.core s n).pc + 4) []

/-- The rounded operations on operands that are no number or infinite, and on zeros (R217 to R219). -/
def SpecialsFollow : Prop :=
  (∀ (f : FFmt) (rm : Nat) (x y : FVal), (isNaN x || isNaN y) = true →
    fAddV f rm x y = (fNaN f, { nv := isSig x || isSig y }) ∧ fMulV f rm x y = (fNaN f, { nv := isSig x || isSig y }) ∧
    fDivV f rm x y = (fNaN f, { nv := isSig x || isSig y })) ∧
  (∀ (f : FFmt) (rm : Nat) (a : Bool), fSqrtV f rm (.nan a) = (fNaN f, { nv := a }) ∧ fConvert f rm (.nan a) = (fNaN f, { nv := a })) ∧
  (∀ (f : FFmt) (rm : Nat) (a b : Bool) (e : Int) (z : FVal), fFmaV f rm (.inf a) (.fin b 0 e) z = (fNaN f, { nv := true }) ∧ fFmaV f rm (.fin b 0 e) (.inf a) z = (fNaN f, { nv := true })) ∧
  (∀ (f : FFmt) (rm : Nat) (a b : Bool) (m : Nat) (e e' : Int), 0 < m → fDivV f rm (.fin a m e) (.fin b 0 e') = (fInf f (a != b), { dz := true })) ∧
  (∀ (f : FFmt) (rm : Nat) (m : Nat) (e : Int), 0 < m → fSqrtV f rm (.fin true m e) = (fNaN f, { nv := true })) ∧
  fNaN f32 = 0x7FC00000 ∧ fNaN f64 = 0x7FF8000000000000

/-- The edges of the conversions to an integer of `w` bits (R220): each sets NV and no other flag. -/
def ConversionEdges : Prop :=
  ∀ (w : Nat) (signed : Bool) (rm : Nat), w = 32 ∨ w = 64 →
    let hi : Nat := if signed then 2 ^ (w - 1) - 1 else 2 ^ w - 1
    let lo : Nat := if signed then 2 ^ (w - 1) else 0
    (∀ q, fToInt w signed rm (.nan q) = (hi, { nv := true })) ∧ fToInt w signed rm (.inf false) = (hi, { nv := true }) ∧
    fToInt w signed rm (.inf true) = (lo, { nv := true }) ∧
    (∀ (m : Nat) (e : Int), hi < (roundTo rm false m e 0 false).1 → fToInt w signed rm (.fin false m e) = (hi, { nv := true })) ∧
    (∀ (m : Nat) (e : Int), lo < (roundTo rm true m e 0 false).1 → fToInt w signed rm (.fin true m e) = (lo, { nv := true })) ∧
    ∀ (m : Nat) (e : Int), (roundTo rm true m e 0 false).1 = 0 → fToInt w signed rm (.fin true m e) = (0, { nx := !(roundTo rm true m e 0 false).2 })

end Sys2Proof.Claims

namespace Sys2Proof.Claims

open Sys2Proof.Machine

/-- FADD, FSUB, FMUL, FDIV (R216, R217): one rounding in the mode of RM, dynamic or not. -/
def FRoundedOps : Prop :=
  ∀ (z s : State) (n : Fin 24) (fr : Front) (fe : List Nat) (d a b : Fin 32) (fmt : Bool) (rm : Fin 8) (m : Nat),
    Issues z n fr fe s →
    fpMode s n rm = some m →
    exec (.wFadd n d a b fmt rm fr) z = .next (fPut fe s n d (fAddV (fmtOf fmt) m (fpVal s n fmt a) (fpVal s n fmt b))) ∧
    exec (.wFsub n d a b fmt rm fr) z = .next (fPut fe s n d (fAddV (fmtOf fmt) m (fpVal s n fmt a) (fNeg (fpVal s n fmt b)))) ∧
    exec (.wFmul n d a b fmt rm fr) z = .next (fPut fe s n d (fMulV (fmtOf fmt) m (fpVal s n fmt a) (fpVal s n fmt b))) ∧
    exec (.wFdiv n d a b fmt rm fr) z = .next (fPut fe s n d (fDivV (fmtOf fmt) m (fpVal s n fmt a) (fpVal s n fmt b)))

/-- FSQRT and FCVT.F (R217). -/
def FRootConvert : Prop :=
  ∀ (z s : State) (n : Fin 24) (fr : Front) (fe : List Nat) (d a : Fin 32) (fmt : Bool) (rm : Fin 8) (m : Nat),
    Issues z n fr fe s →
    fpMode s n rm = some m →
    exec (.wFsqrt n d a fmt rm fr) z = .next (fPut fe s n d (fSqrtV (fmtOf fmt) m (fpVal s n fmt a))) ∧
    exec (.wFcvtF n d a fmt rm fr) z = .next (fPut fe s n d (fConvert (fmtOf fmt) m (fpVal s n (!fmt) a)))

/-- The fused operations (R218). -/
def FFused : Prop :=
  ∀ (z s : State) (n : Fin 24) (fr : Front) (fe : List Nat) (d a b c : Fin 32) (fmt : Bool) (rm : Fin 8) (m : Nat),
    Issues z n fr fe s →
    fpMode s n rm = some m →
    exec (.wFmadd n d a b c fmt rm fr) z = .next (fPut fe s n d (fFmaV (fmtOf fmt) m (fpVal s n fmt a) (fpVal s n fmt b) (fpVal s n fmt c))) ∧
    exec (.wFmsub n d a b c fmt rm fr) z = .next (fPut fe s n d (fFmaV (fmtOf fmt) m (fpVal s n fmt a) (fpVal s n fmt b) (fNeg (fpVal s n fmt c)))) ∧
    exec (.wFnmsub n d a b c fmt rm fr) z = .next (fPut fe s n d (fFmaV (fmtOf fmt) m (fNeg (fpVal s n fmt a)) (fpVal s n fmt b) (fpVal s n fmt c))) ∧
    exec (.wFnmadd n d a b c fmt rm fr) z = .next (fPut fe s n d (fFmaV (fmtOf fmt) m (fNeg (fpVal s n fmt a)) (fpVal s n fmt b) (fNeg (fpVal s n fmt c))))

/-- FCVT.L, FCVT.LU, FCVT.W and FCVT.WU (R217, R220). -/
def FToInts : Prop :=
  ∀ (z s : State) (n : Fin 24) (fr : Front) (fe : List Nat) (d a : Fin 32) (fmt : Bool) (rm : Fin 8) (m : Nat),
    Issues z n fr fe s →
    fpMode s n rm = some m →
    exec (.wFcvtL n d a fmt rm fr) z = .next (fwPut fe s n d (BitVec.ofInt 64 (sextN 64 (fToInt 64 true m (fpVal s n fmt a)).1)) (fToInt 64 true m (fpVal s n fmt a)).2) ∧
    exec (.wFcvtLu n d a fmt rm fr) z = .next (fwPut fe s n d (BitVec.ofInt 64 (sextN 64 (fToInt 64 false m (fpVal s n fmt a)).1)) (fToInt 64 false m (fpVal s n fmt a)).2) ∧
    exec (.wFcvtW n d a fmt rm fr) z = .next (fwPut fe s n d (BitVec.ofInt 64 (sextN 32 (fToInt 32 true m (fpVal s n fmt a)).1)) (fToInt 32 true m (fpVal s n fmt a)).2) ∧
    exec (.wFcvtWu n d a fmt rm fr) z = .next (fwPut fe s n d (BitVec.ofInt 64 (sextN 32 (fToInt 32 false m (fpVal s n fmt a)).1)) (fToInt 32 false m (fpVal s n fmt a)).2)

/-- FCVT.FL, FCVT.FLU, FCVT.FW and FCVT.FWU (R217). -/
def FOfInts : Prop :=
  ∀ (z s : State) (n : Fin 24) (fr : Front) (fe : List Nat) (d a : Fin 32) (fmt : Bool) (rm : Fin 8) (m : Nat),
    Issues z n fr fe s →
    fpMode s n rm = some m →
    exec (.wFcvtFl n d a fmt rm fr) z = .next (fPut fe s n d (fOfInt (fmtOf fmt) m ((getW s n a).toInt))) ∧
    exec (.wFcvtFlu n d a fmt rm fr) z = .next (fPut fe s n d (fOfInt (fmtOf fmt) m (((getW s n a).toNat : Int)))) ∧
    exec (.wFcvtFw n d a fmt rm fr) z = .next (fPut fe s n d (fOfInt (fmtOf fmt) m (sextN 32 (getW s n a).toNat))) ∧
    exec (.wFcvtFwu n d a fmt rm fr) z = .next (fPut fe s n d (fOfInt (fmtOf fmt) m ((((getW s n a).toNat % 2 ^ 32 : Nat) : Int))))

/-- FSGN, FSGNN, FSGNX (R217): magnitude of fa, no flag. -/
def FSigns : Prop :=
  ∀ (z s : State) (n : Fin 24) (fr : Front) (fe : List Nat) (d a b : Fin 32) (fmt : Bool),
    Issues z n fr fe s →
    exec (.wFsgn n d a b fmt fr) z = .next (fPut fe s n d (fpBits s n fmt a % 2 ^ ((fmtOf fmt).eb + (fmtOf fmt).mb) + (if (fpBits s n fmt b).testBit ((fmtOf fmt).eb + (fmtOf fmt).mb) then 2 ^ ((fmtOf fmt).eb + (fmtOf fmt).mb) else 0), {})) ∧
    exec (.wFsgnn n d a b fmt fr) z = .next (fPut fe s n d (fpBits s n fmt a % 2 ^ ((fmtOf fmt).eb + (fmtOf fmt).mb) + (if !(fpBits s n fmt b).testBit ((fmtOf fmt).eb + (fmtOf fmt).mb) then 2 ^ ((fmtOf fmt).eb + (fmtOf fmt).mb) else 0), {})) ∧
    exec (.wFsgnx n d a b fmt fr) z = .next (fPut fe s n d (fpBits s n fmt a % 2 ^ ((fmtOf fmt).eb + (fmtOf fmt).mb) + (if (fpBits s n fmt a).testBit ((fmtOf fmt).eb + (fmtOf fmt).mb) != (fpBits s n fmt b).testBit ((fmtOf fmt).eb + (fmtOf fmt).mb) then 2 ^ ((fmtOf fmt).eb + (fmtOf fmt).mb) else 0), {}))

/-- FMIN and FMAX (R217). -/
def FMinMaxes : Prop :=
  ∀ (z s : State) (n : Fin 24) (fr : Front) (fe : List Nat) (d a b : Fin 32) (fmt : Bool),
    Issues z n fr fe s →
    exec (.wFmin n d a b fmt fr) z = .next (fPut fe s n d (fMinMax (fmtOf fmt) false (fpBits s n fmt a) (fpBits s n fmt b))) ∧
    exec (.wFmax n d a b fmt fr) z = .next (fPut fe s n d (fMinMax (fmtOf fmt) true (fpBits s n fmt a) (fpBits s n fmt b)))

/-- FEQ, FLT, FLE (R217): a NaN compares false; FEQ sets NV for a signalling NaN only, FLT and FLE for any. -/
def FCompares : Prop :=
  ∀ (z s : State) (n : Fin 24) (fr : Front) (fe : List Nat) (d a b : Fin 32) (fmt : Bool),
    Issues z n fr fe s →
    let x := fpVal s n fmt a
    let y := fpVal s n fmt b
    let un := isNaN x || isNaN y
    exec (.wFeq n d a b fmt fr) z = .next (fwPut fe s n d (if un = false ∧ fEqV x y = true then 1 else 0) { nv := un && (isSig x || isSig y) }) ∧
    exec (.wFlt n d a b fmt fr) z = .next (fwPut fe s n d (if un = false ∧ fLtV x y = true then 1 else 0) { nv := un }) ∧
    exec (.wFle n d a b fmt fr) z = .next (fwPut fe s n d (if un = false ∧ (fLtV x y || fEqV x y) = true then 1 else 0) { nv := un })

/-- FMV.X and FMV.F (R217): bits, no flag; binary32 is sign-extended to wd, and only bits 31:0 of wa reach fd. -/
def FMoves : Prop :=
  ∀ (z s : State) (n : Fin 24) (fr : Front) (fe : List Nat) (d a : Fin 32),
    Issues z n fr fe s →
    exec (.wFmvX n d a true fr) z = .next (wPut fe s n d (getFr s n a)) ∧ exec (.wFmvX n d a false fr) z = .next (wPut fe s n d ((lo (getFr s n a)).signExtend 64)) ∧
    exec (.wFmvF n d a true fr) z = .next (fPut fe s n d ((getW s n a).toNat, {})) ∧ exec (.wFmvF n d a false fr) z = .next (fPut fe s n d ((getW s n a).toNat % 2 ^ 32, {}))

/-- A reserved RM raises UNDEF, in every row that has one (R216). -/
def FReserved : Prop :=
  ∀ (z s : State) (n : Fin 24) (fr : Front) (fe : List Nat) (d a b c : Fin 32) (fmt : Bool) (rm : Fin 8),
    Issues z n fr fe s →
    6 ≤ rm.val →
    exec (.wFadd n d a b fmt rm fr) z = .next (faulted s n fr (Machine.core s n).pc { code := 0x01 }) ∧
    exec (.wFsub n d a b fmt rm fr) z = .next (faulted s n fr (Machine.core s n).pc { code := 0x01 }) ∧
    exec (.wFmul n d a b fmt rm fr) z = .next (faulted s n fr (Machine.core s n).pc { code := 0x01 }) ∧
    exec (.wFdiv n d a b fmt rm fr) z = .next (faulted s n fr (Machine.core s n).pc { code := 0x01 }) ∧
    exec (.wFsqrt n d a fmt rm fr) z = .next (faulted s n fr (Machine.core s n).pc { code := 0x01 }) ∧
    exec (.wFcvtF n d a fmt rm fr) z = .next (faulted s n fr (Machine.core s n).pc { code := 0x01 }) ∧
    exec (.wFmadd n d a b c fmt rm fr) z = .next (faulted s n fr (Machine.core s n).pc { code := 0x01 }) ∧
    exec (.wFcvtL n d a fmt rm fr) z = .next (faulted s n fr (Machine.core s n).pc { code := 0x01 }) ∧
    exec (.wFcvtFl n d a fmt rm fr) z = .next (faulted s n fr (Machine.core s n).pc { code := 0x01 }) ∧
    exec (.wFmsub n d a b c fmt rm fr) z = .next (faulted s n fr (Machine.core s n).pc { code := 0x01 }) ∧
    exec (.wFnmsub n d a b c fmt rm fr) z = .next (faulted s n fr (Machine.core s n).pc { code := 0x01 }) ∧
    exec (.wFnmadd n d a b c fmt rm fr) z = .next (faulted s n fr (Machine.core s n).pc { code := 0x01 }) ∧
    exec (.wFcvtLu n d a fmt rm fr) z = .next (faulted s n fr (Machine.core s n).pc { code := 0x01 }) ∧
    exec (.wFcvtW n d a fmt rm fr) z = .next (faulted s n fr (Machine.core s n).pc { code := 0x01 }) ∧
    exec (.wFcvtWu n d a fmt rm fr) z = .next (faulted s n fr (Machine.core s n).pc { code := 0x01 }) ∧
    exec (.wFcvtFlu n d a fmt rm fr) z = .next (faulted s n fr (Machine.core s n).pc { code := 0x01 }) ∧
    exec (.wFcvtFw n d a fmt rm fr) z = .next (faulted s n fr (Machine.core s n).pc { code := 0x01 }) ∧
    exec (.wFcvtFwu n d a fmt rm fr) z = .next (faulted s n fr (Machine.core s n).pc { code := 0x01 })

/-- RM 0b101 takes the mode from FPCSR.RM (R216). -/
def FDynamic : Prop :=
  ∀ (s : State) (n : Fin 24) (rm : Fin 8),
    (rm.val < 5 → fpMode s n rm = some rm.val) ∧ (rm.val = 5 → fpMode s n rm = some (fld (sysr s n 0x002) 8 3)) ∧ (6 ≤ rm.val → fpMode s n rm = none)

/-- The flags of FPCSR are only ever set by instructions (R215). -/
def FFlagsStick : Prop :=
  ∀ (s : State) (n : Fin 24) (f : FFlags) (i : Nat),
    bit (sysr (fpFlags s n f) n 0x002) i = (bit (sysr s n 0x002) i || (decide (i = 0) && f.nv) || (decide (i = 1) && f.dz) || (decide (i = 2) && f.of) || (decide (i = 3) && f.uf) || (decide (i = 4) && f.nx))

end Sys2Proof.Claims

open Sys2Proof Sys2Proof.Machine Sys2Proof.Claims in
/-- R215 to R220. Completes: wFadd, wFsub, wFmul, wFdiv, wFsqrt, wFmin, wFmax, wFsgn, wFsgnn, wFsgnx, wFeq, wFlt, wFle, wFcvtF, wFcvtL, wFcvtLu,
wFcvtW, wFcvtWu, wFcvtFl, wFcvtFlu, wFcvtFw, wFcvtFwu, wFmvX, wFmvF, wFmadd, wFmsub, wFnmsub, wFnmadd. -/
def Obligations.WinovarFloats : Prop :=
  FRoundedOps ∧
  FRootConvert ∧
  FFused ∧
  FToInts ∧
  FOfInts ∧
  FSigns ∧
  FMinMaxes ∧
  FCompares ∧
  FMoves ∧
  FReserved ∧
  FDynamic ∧
  FFlagsStick ∧
  SpecialsFollow ∧
  ConversionEdges

namespace Sys2Proof.Claims

open Sys2Proof.Machine

/-- The state and the value of a step of an access that went on. -/
def xrOk {α : Type} : XR α → Option (State × α)
  | .ok s v => some (s, v)
  | _ => none

/-- The state, the line and whether the L2 missed, of a line that was obtained. -/
def gotOk : Got → Option (State × L2Line × Bool)
  | .ok s x m => some (s, x, m)
  | _ => none

/-- The value of `size` bytes of a line at a physical address. -/
def lineAt (y : L2Line) (pa size : Nat) : Nat := y.data.toNat / 2 ^ (8 * (pa % 64)) % 2 ^ (8 * size)

/-- At level F, or with translation off at level H, an address below 2^48 is its own physical address (R186, R188). -/
def Untranslated : Prop :=
  ∀ (s : State) (n : Fin 24) (va : Nat) (acc : Acc) (env : MemEnv), va < 2 ^ 48 → level s n = 3 ∨ (level s n = 2 ∧ bit (sysr s n 0x809) 0 = false) →
    translate s n va acc env = .ok s { pa := va, ty := fixedType s va }

/-- An access within one line has one part (R209), whose translation is kept for the instruction; one that runs again after an answer has the parts that it
kept, and is not translated again (R208; log entry 45). -/
def OnePart : Prop :=
  ∀ (s u : State) (n : Fin 24) (ea len : Nat) (acc : Acc) (env : MemEnv) (x : Xlat),
    ((Machine.core s n).got = [] → len ≤ 64 - ea % 64 → xlatNoted s n ea acc env = .ok u x →
      xlatSpan s n ea len acc env = .ok (keepXlat u n ea len acc [{ pa := x.pa, len := len, ty := x.ty, walked := x.walked }]) [{ pa := x.pa, len := len, ty := x.ty, walked := x.walked }]) ∧
    (∀ k, (Machine.core s n).got ≠ [] → keptXlat s n ea len acc = some k → xlatSpan s n ea len acc env = .ok s k.parts) ∧
    ∀ ps, keptXlat (keepXlat s n ea len acc ps) n ea len acc = some { ea := ea, len := len, write := decide (acc = .write), parts := ps }

/-- A translation that needed a walk notes it for the instruction, once for its load and once for its store however often it runs (R256; log entry 44). -/
def WalkNoted : Prop :=
  ∀ (s u : State) (n : Fin 24) (ea : Nat) (acc : Acc) (env : MemEnv) (x : Xlat), translate s n ea acc env = .ok u x →
    (x.walked = false → xlatNoted s n ea acc env = .ok u x) ∧
    (x.walked = true → ∃ v, xlatNoted s n ea acc env = .ok v x ∧ ∃ l, (Machine.core v n).tried = some l ∧ l.count (walkEv acc) = 1 ∧
      ∀ e, e ≠ walkEv acc → (e ∈ l ↔ e ∈ (Machine.core u n).tried.getD []))

/-- A load of normal type is forwarded from the youngest older store that overlaps it, where that store holds every byte (R243). -/
def Forwarded : Prop :=
  ∀ (s : State) (n : Fin 24) (p : Machine.Part) (env : MemEnv) (x : StoreEnt) (l r : List StoreEnt), (Machine.core s n).sb = l ++ x :: r → x.ty ≠ 0 → p.ty ≠ 0 →
    x.pa ≤ p.pa → p.pa + p.len ≤ x.pa + x.len → 0 < p.len → (∀ y ∈ r, y.ty = 0 ∨ p.pa + p.len ≤ y.pa ∨ y.pa + y.len ≤ p.pa) →
    readParts n env [p] s = .ok s { data := x.data / 2 ^ (8 * (p.pa - x.pa)) % 2 ^ (8 * p.len), evs := [0x0A] }

/-- A load, in whatever parts (R243): where no older store overlaps any part of normal type it is read past the buffer; where one store holds every byte of
these parts all of them are forwarded; else the older stores of its lines commit first, with the event of the stall, and nothing is merged. -/
def NothingMerged : Prop :=
  ∀ (s : State) (n : Fin 24) (env : MemEnv) (ps : List Machine.Part),
    let ns := ps.filter fun p => decide (p.ty ≠ 0)
    ((∀ p ∈ ns, youngest s n p = none) → readParts n env ps s = readEach n env false ps s) ∧
    ((∃ p ∈ ns, youngest s n p ≠ none) → forwards s n ns = true → readParts n env ps s = readEach n env true ps s) ∧
    ((∃ p ∈ ns, youngest s n p ≠ none) → forwards s n ns = false → ∀ u, commitWhere s n (fun x => ns.any fun p => decide (x.pa / 64 = p.pa / 64)) env = .ok u →
      readParts n env ps s = (readEach n env false ps (noteEvs u n [0x0B])).bind fun v r => .ok v { r with evs := 0x0B :: r.evs }) ∧
    (forwards s n ns = true → (∀ p ∈ ns, ∃ x, youngest s n p = some x ∧ x.pa ≤ p.pa ∧ p.pa + p.len ≤ x.pa + x.len) ∧
      ∀ x y, ns.filterMap (youngest s n) = [x, y] → y.prev = some x.pa)

/-- A load performed ahead stands within the 224 instructions of the reorder buffer, and loses its place with each that retires (R232, R245). -/
def AheadBounded : Prop :=
  ∀ (l : List Early) (x : Early), x ∈ agedEarly l ↔ ∃ y ∈ l, x = { y with age := y.age + 1 } ∧ y.age + 1 < 224

/-- The causes of a load in their order: a misaligned access of device type, an error response, poison (R175, R208, R209). A load that was performed ahead
gives what it read then (R245). The load takes the events of what was filled ahead for it (R252, R256). -/
def LoadCauses : Prop :=
  ∀ (s u v : State) (n : Fin 24) (reg ea len : Nat) (env : MemEnv) (ps : List Machine.Part) (r : Rd), xlatSpan (noteServed s n ea len) n ea len .read env = .ok u ps →
    (ea % len ≠ 0 → anyDevice ps = true → loadAt s n reg ea len env = .exc u { code := 0x04, eaddr := BitVec.ofNat 64 ea }) ∧
    ((ea % len = 0 ∨ anyDevice ps = false) → earlyOf u n reg ea len ps = none → readParts n env ps u = .ok v r →
      loadAt s n reg ea len env = if r.err = true then .exc v { code := 0x0D, eaddr := BitVec.ofNat 64 ea }
        else if r.bad = true then .exc v { code := 0x0F, eaddr := BitVec.ofNat 64 ea }
        else .ok (trainPf (dropParts v n ps) n env.cls ps) (r.data, walkEvs .read ps ++ loadEvs r.evs)) ∧
    ((ea % len = 0 ∨ anyDevice ps = false) → ∀ x, earlyOf u n reg ea len ps = some x →
      loadAt s n reg ea len env = .ok (trainPf (dropParts u n ps) n env.cls ps) (x.data, loadEvs (walkEvs .read ps ++ x.evs)))

/-- A store within one line enters the buffer of 48 with its bytes, its type and the attributes of its core (R207, R232, R242). -/
def StoreBuffered : Prop :=
  ∀ (s v : State) (n : Fin 24) (ea len data : Nat) (env : MemEnv) (x : Xlat), (Machine.core s n).got = [] → len ≤ 64 - ea % 64 → xlatNoted s n ea .write env = .ok v x →
    (ea % len = 0 ∨ x.ty ≠ 0) → (Machine.core v n).sb.length ≤ 47 →
    let u := keepXlat v n ea len .write [{ pa := x.pa, len := len, ty := x.ty, walked := x.walked }]
    storeAt s n ea len data env =
      .ok (trainPf (bufferStore u n { pa := x.pa, len := len, data := data % 2 ^ (8 * len), ty := x.ty, lvl := level u n, attr := coreAttr u n env.cls }) n env.cls
        [{ pa := x.pa, len := len, ty := x.ty, walked := x.walked }]) (if x.walked then [walkEv .write] else [])

/-- The class a core asks for, limited by the grant of its slice: a more urgent one is issued at the granted one (R26, R27). -/
def CoreClass : Prop :=
  ∀ (s : State) (n : Fin 24) (c : Cls), (coreAttr s n c).cls = max c.val (if owner s (.wcc n) = 0 then 0 else SMap.get 0 s.clsGrant (pageAddr (.wcc n))) ∧
    (coreAttr s n c).did = coreDid s n ∧ (coreAttr s n c).pid = corePid s n ∧ (coreAttr s n c).gen = genOf s (.wcc n)

/-- A cache operation enters the list of those outstanding, of which at most 8 stand: where 8 stand the oldest completes first (R225). -/
def copsRoom (s : State) (n : Fin 24) (env : MemEnv) : Except State State :=
  if (Machine.core s n).cops.length < 8 then .ok s else completeOp s n env

/-- PACK7 and UNPK7 move the seven words of a granule (R221, R222), and UNPK7 then PACK7 gives the granule back. -/
def GranulesFollow : Prop :=
  ∀ g : BitVec 126, packBytes (unpackBytes g.toNat) = g.toNat ∧
    ∀ i, i < 7 → packBytes (unpackBytes g.toNat) / 2 ^ (18 * i) % 2 ^ 18 = g.toNat / 2 ^ (18 * i) % 2 ^ 18 ∧
      unpackBytes g.toNat / 2 ^ (32 * i) % 2 ^ 18 = g.toNat / 2 ^ (18 * i) % 2 ^ 18

end Sys2Proof.Claims

namespace Sys2Proof.Claims

open Sys2Proof.Machine

/-- LB and LBU (R207): `u` is the state after the access, with the byte it gave. -/
def WLd1 : Prop :=
  ∀ (z s : State) (n : Fin 24) (fr : Front) (fe : List Nat) (d a : Fin 32) (imm : BitVec 16) (env : MemEnv) (u : State) (x : Nat) (evs : List Nat),
    Issues z n fr fe s →
    xrOk (loadAt s n a (memEa s n a imm) 1 env) = some (u, x, evs) →
    exec (.wLb n d a imm env fr) z = .next (retired fe s (setW u n d (BitVec.ofInt 64 (sextN 8 x))) n (nextPc (u) n) (0x05 :: evs)) ∧
    exec (.wLbu n d a imm env fr) z = .next (retired fe s (setW u n d (BitVec.ofNat 64 x)) n (nextPc (u) n) (0x05 :: evs))

/-- LH and LHU. -/
def WLd2 : Prop :=
  ∀ (z s : State) (n : Fin 24) (fr : Front) (fe : List Nat) (d a : Fin 32) (imm : BitVec 16) (env : MemEnv) (u : State) (x : Nat) (evs : List Nat),
    Issues z n fr fe s →
    xrOk (loadAt s n a (memEa s n a imm) 2 env) = some (u, x, evs) →
    exec (.wLh n d a imm env fr) z = .next (retired fe s (setW u n d (BitVec.ofInt 64 (sextN 16 x))) n (nextPc (u) n) (0x05 :: evs)) ∧
    exec (.wLhu n d a imm env fr) z = .next (retired fe s (setW u n d (BitVec.ofNat 64 x)) n (nextPc (u) n) (0x05 :: evs))

/-- LW, LWU and FLW (R207, R219). -/
def WLd4 : Prop :=
  ∀ (z s : State) (n : Fin 24) (fr : Front) (fe : List Nat) (d a : Fin 32) (imm : BitVec 16) (env : MemEnv) (u : State) (x : Nat) (evs : List Nat),
    Issues z n fr fe s →
    xrOk (loadAt s n a (memEa s n a imm) 4 env) = some (u, x, evs) →
    exec (.wLw n d a imm env fr) z = .next (retired fe s (setW u n d (BitVec.ofInt 64 (sextN 32 x))) n (nextPc (u) n) (0x05 :: evs)) ∧
    exec (.wLwu n d a imm env fr) z = .next (retired fe s (setW u n d (BitVec.ofNat 64 x)) n (nextPc (u) n) (0x05 :: evs)) ∧
    exec (.wFlw n d a imm env fr) z = .next (retired fe s (setFr u n d (BitVec.ofNat 64 x)) n (nextPc (u) n) (0x05 :: evs))

/-- LD and FLD. -/
def WLd8 : Prop :=
  ∀ (z s : State) (n : Fin 24) (fr : Front) (fe : List Nat) (d a : Fin 32) (imm : BitVec 16) (env : MemEnv) (u : State) (x : Nat) (evs : List Nat),
    Issues z n fr fe s →
    xrOk (loadAt s n a (memEa s n a imm) 8 env) = some (u, x, evs) →
    exec (.wLd n d a imm env fr) z = .next (retired fe s (setW u n d (BitVec.ofNat 64 x)) n (nextPc (u) n) (0x05 :: evs)) ∧
    exec (.wFld n d a imm env fr) z = .next (retired fe s (setFr u n d (BitVec.ofNat 64 x)) n (nextPc (u) n) (0x05 :: evs))

/-- SB (R207). -/
def WSt1 : Prop :=
  ∀ (z s : State) (n : Fin 24) (fr : Front) (fe : List Nat) (d a : Fin 32) (imm : BitVec 16) (env : MemEnv) (u : State) (evs : List Nat),
    Issues z n fr fe s →
    xrOk (storeAt s n (memEa s n a imm) 1 (getW s n d).toNat env) = some (u, evs) →
    exec (.wSb n d a imm env fr) z = .next (retired fe s u n (nextPc u n) (0x06 :: evs))

/-- SH. -/
def WSt2 : Prop :=
  ∀ (z s : State) (n : Fin 24) (fr : Front) (fe : List Nat) (d a : Fin 32) (imm : BitVec 16) (env : MemEnv) (u : State) (evs : List Nat),
    Issues z n fr fe s →
    xrOk (storeAt s n (memEa s n a imm) 2 (getW s n d).toNat env) = some (u, evs) →
    exec (.wSh n d a imm env fr) z = .next (retired fe s u n (nextPc u n) (0x06 :: evs))

/-- SW. -/
def WSt4 : Prop :=
  ∀ (z s : State) (n : Fin 24) (fr : Front) (fe : List Nat) (d a : Fin 32) (imm : BitVec 16) (env : MemEnv) (u : State) (evs : List Nat),
    Issues z n fr fe s →
    xrOk (storeAt s n (memEa s n a imm) 4 (getW s n d).toNat env) = some (u, evs) →
    exec (.wSw n d a imm env fr) z = .next (retired fe s u n (nextPc u n) (0x06 :: evs))

/-- SD. -/
def WSt8 : Prop :=
  ∀ (z s : State) (n : Fin 24) (fr : Front) (fe : List Nat) (d a : Fin 32) (imm : BitVec 16) (env : MemEnv) (u : State) (evs : List Nat),
    Issues z n fr fe s →
    xrOk (storeAt s n (memEa s n a imm) 8 (getW s n d).toNat env) = some (u, evs) →
    exec (.wSd n d a imm env fr) z = .next (retired fe s u n (nextPc u n) (0x06 :: evs))

/-- FSW (R207, R219). -/
def WFst4 : Prop :=
  ∀ (z s : State) (n : Fin 24) (fr : Front) (fe : List Nat) (d a : Fin 32) (imm : BitVec 16) (env : MemEnv) (u : State) (evs : List Nat),
    Issues z n fr fe s →
    xrOk (storeAt s n (memEa s n a imm) 4 (getFr s n d).toNat env) = some (u, evs) →
    exec (.wFsw n d a imm env fr) z = .next (retired fe s u n (nextPc u n) (0x06 :: evs))

/-- FSD. -/
def WFst8 : Prop :=
  ∀ (z s : State) (n : Fin 24) (fr : Front) (fe : List Nat) (d a : Fin 32) (imm : BitVec 16) (env : MemEnv) (u : State) (evs : List Nat),
    Issues z n fr fe s →
    xrOk (storeAt s n (memEa s n a imm) 8 (getFr s n d).toNat env) = some (u, evs) →
    exec (.wFsd n d a imm env fr) z = .next (retired fe s u n (nextPc u n) (0x06 :: evs))

/-- The atomics (R210): on a line held exclusive, wd takes the old value and the line the new one; SC with the reservation stores, and LL sets it. -/
def WAtomics : Prop :=
  ∀ (z s : State) (n : Fin 24) (fr : Front) (fe : List Nat) (d a b : Fin 32) (w64 aq rl : Bool) (env : MemEnv) (t u : State) (x : Xlat) (v : State) (y : L2Line) (m : Bool),
    Issues z n fr fe s →
    (getW s n a).toNat % (if w64 then 8 else 4) = 0 →
    xrOk (xlatNoted s n (getW s n a).toNat .write env) = some (t, x) →
    x.ty = 2 →
    (if rl then drainWhere t n (fun _ => true) env else commitWhere t n (fun y => y.pa / 64 = x.pa / 64) env) = .ok u →
    gotOk (obtain u n (coreAttr u n env.cls) true .fillAtomic (x.pa / 64) env) = some (v, y, m) →
    y.poison = false →
    let o := atomOrder v n aq (x.pa / 64)
    let at1 : Machine.Part := { pa := x.pa, len := if w64 then 8 else 4, ty := 2, walked := x.walked }
    let evs := [0x05, 0x06] ++ (if x.walked then [walkEv .write] else [])
    (let sz := if w64 then 8 else 4
     exec (.wSwap n d a b w64 aq rl env fr) z = .next (retired fe s (trainPf (setW (atomPut o n y x.pa sz (((getW o n b).toNat % 2 ^ (8 * sz)))) n d (sextBytes sz (lineAt y x.pa sz))) n env.cls [at1]) n (nextPc v n) (if m then 0x09 :: evs else evs))) ∧
    (let sz := if w64 then 8 else 4
     exec (.wAmoadd n d a b w64 aq rl env fr) z = .next (retired fe s (trainPf (setW (atomPut o n y x.pa sz ((lineAt y x.pa sz) + ((getW o n b).toNat % 2 ^ (8 * sz)))) n d (sextBytes sz (lineAt y x.pa sz))) n env.cls [at1]) n (nextPc v n) (if m then 0x09 :: evs else evs))) ∧
    (let sz := if w64 then 8 else 4
     exec (.wAmoand n d a b w64 aq rl env fr) z = .next (retired fe s (trainPf (setW (atomPut o n y x.pa sz ((lineAt y x.pa sz) &&& ((getW o n b).toNat % 2 ^ (8 * sz)))) n d (sextBytes sz (lineAt y x.pa sz))) n env.cls [at1]) n (nextPc v n) (if m then 0x09 :: evs else evs))) ∧
    (let sz := if w64 then 8 else 4
     exec (.wAmoor n d a b w64 aq rl env fr) z = .next (retired fe s (trainPf (setW (atomPut o n y x.pa sz ((lineAt y x.pa sz) ||| ((getW o n b).toNat % 2 ^ (8 * sz)))) n d (sextBytes sz (lineAt y x.pa sz))) n env.cls [at1]) n (nextPc v n) (if m then 0x09 :: evs else evs))) ∧
    (let sz := if w64 then 8 else 4
     exec (.wAmomax n d a b w64 aq rl env fr) z = .next (retired fe s (trainPf (setW (atomPut o n y x.pa sz (if sextN (8 * sz) (lineAt y x.pa sz) < sextN (8 * sz) ((getW o n b).toNat % 2 ^ (8 * sz)) then ((getW o n b).toNat % 2 ^ (8 * sz)) else (lineAt y x.pa sz))) n d (sextBytes sz (lineAt y x.pa sz))) n env.cls [at1]) n (nextPc v n) (if m then 0x09 :: evs else evs))) ∧
    (let sz := if w64 then 8 else 4
     exec (.wAmomin n d a b w64 aq rl env fr) z = .next (retired fe s (trainPf (setW (atomPut o n y x.pa sz (if sextN (8 * sz) ((getW o n b).toNat % 2 ^ (8 * sz)) < sextN (8 * sz) (lineAt y x.pa sz) then ((getW o n b).toNat % 2 ^ (8 * sz)) else (lineAt y x.pa sz))) n d (sextBytes sz (lineAt y x.pa sz))) n env.cls [at1]) n (nextPc v n) (if m then 0x09 :: evs else evs))) ∧
    (let sz := if w64 then 8 else 4
     exec (.wAmomaxu n d a b w64 aq rl env fr) z = .next (retired fe s (trainPf (setW (atomPut o n y x.pa sz (max (lineAt y x.pa sz) ((getW o n b).toNat % 2 ^ (8 * sz)))) n d (sextBytes sz (lineAt y x.pa sz))) n env.cls [at1]) n (nextPc v n) (if m then 0x09 :: evs else evs))) ∧
    (let sz := if w64 then 8 else 4
     exec (.wAmominu n d a b w64 aq rl env fr) z = .next (retired fe s (trainPf (setW (atomPut o n y x.pa sz (min (lineAt y x.pa sz) ((getW o n b).toNat % 2 ^ (8 * sz)))) n d (sextBytes sz (lineAt y x.pa sz))) n env.cls [at1]) n (nextPc v n) (if m then 0x09 :: evs else evs))) ∧
    (let sz := if w64 then 8 else 4
     exec (.wLl n d a w64 aq rl env fr) z = .next (retired fe s (trainPf (setW (updCore o n fun c => { c with resv := some (x.pa / 64), keep := some 17 }) n d (sextBytes sz (lineAt y x.pa sz))) n env.cls [at1]) n (nextPc v n) (if m then 0x09 :: evs else evs))) ∧
    ((Machine.core t n).resv = some (x.pa / 64) → (Machine.core u n).resv = some (x.pa / 64) → exec (.wSc n d a b w64 aq rl env fr) z = .next (retired fe s (trainPf (setW (updCore (atomPut o n y x.pa (if w64 then 8 else 4) (getW o n b).toNat) n fun c => { c with resv := none, keep := none }) n d 0) n env.cls [at1]) n (nextPc v n) (if m then 0x09 :: evs else evs)))

/-- SC without the reservation stores nothing, gives 1 and clears the reservation: no store is waited for, and with RL it orders nothing; with AQ alone
no younger load that was performed ahead stands (R210, R211, R245, R247). -/
def WScFails : Prop :=
  ∀ (z s : State) (n : Fin 24) (fr : Front) (fe : List Nat) (d a b : Fin 32) (w64 aq rl : Bool) (env : MemEnv) (t : State) (x : Xlat),
    Issues z n fr fe s →
    (getW s n a).toNat % (if w64 then 8 else 4) = 0 →
    xrOk (xlatNoted s n (getW s n a).toNat .write env) = some (t, x) →
    x.ty = 2 →
    (Machine.core t n).resv ≠ some (x.pa / 64) →
    let v := setW (updCore t n fun c => { c with resv := none, keep := none }) n d 1
    exec (.wSc n d a b w64 aq rl env fr) z =
      .next (retired fe s (if aq = true ∧ rl = false then clearEarly v n else v) n (nextPc t n) ([0x05, 0x06] ++ (if x.walked then [walkEv .write] else [])))

/-- The atomics of R210. -/
def atomics (n : Fin 24) (d a b : Fin 32) (w64 aq rl : Bool) (env : MemEnv) (fr : Front) : List Instr :=
  [.wLl n d a w64 aq rl env fr, .wSc n d a b w64 aq rl env fr, .wSwap n d a b w64 aq rl env fr, .wAmoadd n d a b w64 aq rl env fr,
   .wAmoand n d a b w64 aq rl env fr, .wAmoor n d a b w64 aq rl env fr, .wAmomax n d a b w64 aq rl env fr, .wAmomin n d a b w64 aq rl env fr,
   .wAmomaxu n d a b w64 aq rl env fr, .wAmominu n d a b w64 aq rl env fr]

/-- A misaligned atomic raises DATA_ALIGN, and one whose final type is not write-back cacheable ATOMIC (R210, R174). -/
def WAtomTraps : Prop :=
  ∀ (z s t : State) (n : Fin 24) (fr : Front) (fe : List Nat) (d a b : Fin 32) (w64 aq rl : Bool) (env : MemEnv) (x : Xlat) (i : Instr),
    Issues z n fr fe s →
    i ∈ atomics n d a b w64 aq rl env fr →
    ((getW s n a).toNat % (if w64 then 8 else 4) ≠ 0 → exec i z = .next (faulted s n fr (Machine.core s n).pc { code := 0x04, eaddr := getW s n a })) ∧
    ((getW s n a).toNat % (if w64 then 8 else 4) = 0 → xlatNoted s n (getW s n a).toNat .write env = .ok t x → x.ty ≠ 2 →
      exec i z = .next (faulted t n fr (Machine.core t n).pc { code := 0x05, eaddr := getW s n a }))

/-- PACK7 (R221, R222): the source is read and the destination enters the store buffer; it counts as a load and as a store (log entry 44). -/
def WPacks : Prop :=
  ∀ (z s : State) (n : Fin 24) (fr : Front) (fe : List Nat) (a b : Fin 32) (env : MemEnv) (s1 s2 s3 s4 : State) (ps qs : List Part) (r : Rd),
    Issues z n fr fe s →
    (getW s n a).toNat % 4 = 0 →
    (getW s n b).toNat % 16 = 0 →
    xrOk (xlatSpan (noteServed s n (getW s n a).toNat 28) n (getW s n a).toNat 28 .read env) = some (s1, ps) →
    xrOk (xlatSpan s1 n (getW s n b).toNat 16 .write env) = some (s2, qs) →
    roomFor s2 n (splitParts 16 qs).length env = .ok s3 →
    xrOk (readParts n env (splitParts 4 ps) s3) = some (s4, r) →
    r.err = false →
    r.bad = false →
    let t := trainPf (bufferParts n env.cls (splitParts 16 qs) (packBytes r.data) (dropParts s4 n ps)) n env.cls (ps ++ qs)
    exec (.wPack7 n a b env fr) z = .next (retired fe s t n (nextPc t n) (0x05 :: 0x06 :: (walkEvs .read ps ++ walkEvs .write qs ++ loadEvs r.evs)))

/-- UNPK7 (R221, R222): the source is read and the destination enters the store buffer; it counts as a load and as a store (log entry 44). -/
def WUnpks : Prop :=
  ∀ (z s : State) (n : Fin 24) (fr : Front) (fe : List Nat) (a b : Fin 32) (env : MemEnv) (s1 s2 s3 s4 : State) (ps qs : List Part) (r : Rd),
    Issues z n fr fe s →
    (getW s n a).toNat % 16 = 0 →
    (getW s n b).toNat % 4 = 0 →
    xrOk (xlatSpan (noteServed s n (getW s n a).toNat 16) n (getW s n a).toNat 16 .read env) = some (s1, ps) →
    xrOk (xlatSpan s1 n (getW s n b).toNat 28 .write env) = some (s2, qs) →
    roomFor s2 n (splitParts 4 qs).length env = .ok s3 →
    xrOk (readParts n env (splitParts 16 ps) s3) = some (s4, r) →
    r.err = false →
    r.bad = false →
    let t := trainPf (bufferParts n env.cls (splitParts 4 qs) (unpackBytes r.data) (dropParts s4 n ps)) n env.cls (ps ++ qs)
    exec (.wUnpk7 n a b env fr) z = .next (retired fe s t n (nextPc t n) (0x05 :: 0x06 :: (walkEvs .read ps ++ walkEvs .write qs ++ loadEvs r.evs)))

/-- CLEAN.POC (R223, R225), after the older stores of the core to the line, of any type. -/
def WCleanPocRow : Prop :=
  ∀ (z s : State) (n : Fin 24) (fr : Front) (fe : List Nat) (a : Fin 32) (env : MemEnv) (t v u : State) (x : Xlat),
    Issues z n fr fe s →
    xrOk (xlatNoted s n (getW s n a).toNat .read env) = some (t, x) →
    drainWhere t n (beforeLine t n (x.pa / 64)) env = .ok v →
    copsRoom v n env = .ok u →
    exec (.wCleanPoc n a env fr) z = .next (retired fe s (updCore u n fun c => { c with cops := c.cops ++ [(0, x.pa / 64)], keep := none }) n (nextPc u n) (if x.walked then [walkEv .read] else []))

/-- CINV.POC (R223, R225), after the older stores of the core to the line, of any type. -/
def WCinvPocRow : Prop :=
  ∀ (z s : State) (n : Fin 24) (fr : Front) (fe : List Nat) (a : Fin 32) (env : MemEnv) (t v u : State) (x : Xlat),
    Issues z n fr fe s →
    xrOk (xlatNoted s n (getW s n a).toNat .read env) = some (t, x) →
    drainWhere t n (beforeLine t n (x.pa / 64)) env = .ok v →
    copsRoom v n env = .ok u →
    exec (.wCinvPoc n a env fr) z = .next (retired fe s (updCore u n fun c => { c with cops := c.cops ++ [(2, x.pa / 64)], keep := none }) n (nextPc u n) (if x.walked then [walkEv .read] else []))

/-- CLEAN.POU (R223, R225), after the older stores of the core to the line, of any type. -/
def WCleanPouRow : Prop :=
  ∀ (z s : State) (n : Fin 24) (fr : Front) (fe : List Nat) (a : Fin 32) (env : MemEnv) (t v u : State) (x : Xlat),
    Issues z n fr fe s →
    xrOk (xlatNoted s n (getW s n a).toNat .read env) = some (t, x) →
    drainWhere t n (beforeLine t n (x.pa / 64)) env = .ok v →
    copsRoom v n env = .ok u →
    exec (.wCleanPou n a env fr) z = .next (retired fe s (updCore u n fun c => { c with cops := c.cops ++ [(3, x.pa / 64)], keep := none }) n (nextPc u n) (if x.walked then [walkEv .read] else []))

/-- INV.POC above U (R223, R225), after the older stores of the core to the line, of any type. -/
def WInvPocRow : Prop :=
  ∀ (z s : State) (n : Fin 24) (fr : Front) (fe : List Nat) (a : Fin 32) (env : MemEnv) (t v u : State) (x : Xlat),
    Issues z n fr fe s →
    level s n ≠ 0 →
    xrOk (xlatNoted s n (getW s n a).toNat .write env) = some (t, x) →
    drainWhere t n (beforeLine t n (x.pa / 64)) env = .ok v →
    copsRoom v n env = .ok u →
    exec (.wInvPoc n a env fr) z = .next (retired fe s (updCore u n fun c => { c with cops := c.cops ++ [(1, x.pa / 64)], keep := none }) n (nextPc u n) (if x.walked then [walkEv .write] else []))

/-- INV.POC at U is executed as CINV.POC (R223). -/
def WInvPocU : Prop :=
  ∀ (z s : State) (n : Fin 24) (fr : Front) (fe : List Nat) (a : Fin 32) (env : MemEnv) (t v u : State) (x : Xlat),
    Issues z n fr fe s →
    level s n = 0 →
    xrOk (xlatNoted s n (getW s n a).toNat .read env) = some (t, x) →
    drainWhere t n (beforeLine t n (x.pa / 64)) env = .ok v →
    copsRoom v n env = .ok u →
    exec (.wInvPoc n a env fr) z = .next (retired fe s (updCore u n fun c => { c with cops := c.cops ++ [(2, x.pa / 64)], keep := none }) n (nextPc u n) (if x.walked then [walkEv .read] else []))

/-- STORE_COMMIT (R242): a store with none of its line, or of device type, ahead of it commits and leaves the buffer; one that has to wait stays. -/
def StoreCommitRow : Prop :=
  ∀ (s u : State) (n : Fin 24) (i : Nat) (x : StoreEnt) (env : MemEnv),
    (Machine.core s n).sb[i]? = some x →
    (((Machine.core s n).sb.take i).any fun y => if x.ty = 0 then decide (y.ty = 0) else decide (y.ty ≠ 0) && decide (y.pa / 64 = x.pa / 64)) = false →
    (commitStore s n x env = .ok u → exec (.storeCommit n i env) s = .next (updCore u n fun c => { c with sb := c.sb.eraseIdx i })) ∧
    (commitStore s n x env = .error u → exec (.storeCommit n i env) s = .next u)

/-- CACHE_OP_COMPLETE (R254). -/
def CacheOpRow : Prop :=
  ∀ (s u : State) (n : Fin 24) (i op la : Nat) (env : MemEnv),
    (Machine.core s n).cops[i]? = some (op, la) →
    (((Machine.core s n).cops.take i).any fun y => decide (y.2 = la)) = false →
    cacheOp s n op la env = .ok u →
    exec (.cacheOpComplete n i env) s = .next (updCore u n fun c => { c with cops := c.cops.eraseIdx i })

/-- A load that has to wait stays at its place with the events it met (R208, R256). -/
def WLoadWaits : Prop :=
  ∀ (z s u : State) (n : Fin 24) (fr : Front) (fe : List Nat) (d a : Fin 32) (imm : BitVec 16) (env : MemEnv),
    Issues z n fr fe s →
    let w := updCore u n fun c => { c with tried := some (allEvs u n fe) }
    (loadAt s n a (memEa s n a imm) 1 env = .wait u → ∀ i ∈ [Instr.wLb n d a imm env fr, .wLbu n d a imm env fr], exec i z = .next w) ∧
    (loadAt s n a (memEa s n a imm) 2 env = .wait u → ∀ i ∈ [Instr.wLh n d a imm env fr, .wLhu n d a imm env fr], exec i z = .next w) ∧
    (loadAt s n a (memEa s n a imm) 4 env = .wait u → ∀ i ∈ [Instr.wLw n d a imm env fr, .wLwu n d a imm env fr, .wFlw n d a imm env fr], exec i z = .next w) ∧
    (loadAt s n a (memEa s n a imm) 8 env = .wait u → ∀ i ∈ [Instr.wLd n d a imm env fr, .wFld n d a imm env fr], exec i z = .next w)

end Sys2Proof.Claims

open Sys2Proof Sys2Proof.Machine Sys2Proof.Claims in
/-- R207 to R212, R221 to R225, R242, R243, R254. Completes: wLb, wLh, wLw, wLd, wLbu, wLhu, wLwu, wSb, wSh, wSw, wSd, wFlw, wFld, wFsw, wFsd, wLl,
wSc, wSwap, wAmoadd, wAmoand, wAmoor, wAmomax, wAmomin, wAmomaxu, wAmominu, wCleanPoc, wInvPoc, wCinvPoc, wCleanPou, wPack7, wUnpk7, storeCommit,
cacheOpComplete. -/
def Obligations.WinovarMemory : Prop :=
  WLd1 ∧
  WLd2 ∧
  WLd4 ∧
  WLd8 ∧
  WSt1 ∧
  WSt2 ∧
  WSt4 ∧
  WSt8 ∧
  WFst4 ∧
  WFst8 ∧
  WAtomics ∧
  WScFails ∧
  WAtomTraps ∧
  WPacks ∧
  WUnpks ∧
  WCleanPocRow ∧
  WCinvPocRow ∧
  WCleanPouRow ∧
  WInvPocRow ∧
  WInvPocU ∧
  StoreCommitRow ∧
  CacheOpRow ∧
  WLoadWaits ∧
  Untranslated ∧
  OnePart ∧
  WalkNoted ∧
  Forwarded ∧
  NothingMerged ∧
  AheadBounded ∧
  LoadCauses ∧
  StoreBuffered ∧
  CoreClass ∧
  GranulesFollow

namespace Sys2Proof.Claims

open Sys2Proof.Machine

/-- The system registers an entry to level T writes: EPC, ESTATUS, ECAUSE, EADDR, STATUS, for stage-2 causes EGPA, for an interrupt the
threshold. -/
def entryWrites (t : Nat) (egpa : Option Nat) (thr : Option Nat) (k : Nat) : Bool :=
  k = lvlReg t 1 || k = lvlReg t 2 || k = lvlReg t 3 || k = lvlReg t 4 || k = 0x400 || (egpa.isSome && k = 0x805) || (thr.isSome && k = thrReg t)

/-- Entry to level T in one step (R171 to R173): what is saved, what STATUS becomes, where the pc goes, and that nothing else changes; the loads performed ahead are discarded (R239). -/
def EntrySaves : Prop :=
  ∀ (s : State) (n : Fin 24) (t : Nat) (epc cause eaddr : Word64) (egpa thr : Option Nat) (off : Nat), 1 ≤ t → t ≤ 3 → (t = 3 → thr = none) →
    (∀ p, thr = some p → p < 16) → (t ≠ 2 → egpa = none) →
    let u := enterLevel s n t epc cause eaddr egpa thr off
    sysr u n (lvlReg t 1) = epc &&& ~~~3 ∧ sysr u n (lvlReg t 2) = BitVec.ofNat 64 (fld (sysr s n 0x400) 0 4 + threshold s n t * 2 ^ 8) ∧
    sysr u n (lvlReg t 3) = cause ∧ sysr u n (lvlReg t 4) = eaddr ∧ level u n = t ∧ statusIE u n = false ∧ statusEG u n = true ∧
    (∀ a, egpa = some a → sysr u n 0x805 = BitVec.ofNat 64 a) ∧ (∀ p, thr = some p → threshold u n t = p) ∧ (Machine.core u n).resv = none ∧ (Machine.core u n).early = [] ∧ (Machine.core u n).served = [] ∧ (Machine.core u n).tried = none ∧ (Machine.core u n).xlats = [] ∧
    (Machine.core u n).pc = sysr s n (lvlReg t 0) + BitVec.ofNat 64 off ∧ (∀ k, entryWrites t egpa thr k = false → sysr u n k = sysr s n k) ∧
    (∀ r, getW u n r = getW s n r ∧ getFr u n r = getFr s n r) ∧ (∀ m, m ≠ n → Machine.core u m = Machine.core s m) ∧ u = { discardAhead s n with cores := u.cores }

/-- What a misprediction, an exception or an interrupt entry discards (R234, R239, R257): the loads performed ahead, each counted as one issued,
discarded and a load of a wrong path, and what was filled ahead; no register and nothing of another core changes. -/
def AheadDiscarded : Prop :=
  ∀ (s : State) (n : Fin 24),
    let u := discardAhead s n
    let k := (Machine.core s n).early.length
    (k = 0 → u = clearEarly s n) ∧ (k ≠ 0 → u = clearEarly (specCount n 3 k (specCount n 2 k (specCount n 1 k s))) n) ∧
    (∀ t : State, clearEarly t n = updCore t n fun c => { c with early := [], served := [] })

/-- A synchronous exception (R174, R176): at its level with offset 0x000 or 0x040; at that level with EG set one level up as DOUBLE; at F
with EG set the core stops and a fatal error is recorded. -/
def ExceptionTaken : Prop :=
  ∀ (s : State) (n : Fin 24) (epc : Word64) (e : Exc),
    let t := excLevel s n e.code
    let u := updCore s n fun c => { c with entry := none }
    (¬ (level s n = t ∧ statusEG s n = true) → raiseExc s n epc e =
      pmuEvent t n (enterLevel u n t epc (causeWord e.code e.fsc e.lvl e.s2w false false) e.eaddr e.egpa none (if level s n < t then 0x000 else 0x040)) 0x0D) ∧
    (level s n = t → statusEG s n = true → t ≠ 3 → raiseExc s n epc e =
      pmuEvent (t + 1) n (enterLevel u n (t + 1) epc (causeWord 0x14 0 0 false false false) e.eaddr none none 0x0C0) 0x0D) ∧
    (level s n = t → statusEG s n = true → t = 3 → raiseExc s n epc e = recFatal (updCore u n fun c => { c with run := .stopped }) (.wcc n) 0x82 0)

/-- The level that takes a cause raised at level L (R174): Own is max(L, K), raised to H where the HCFG bit applies at U or K. -/
def CauseLevels : Prop :=
  ∀ (s : State) (n : Fin 24),
    let own := fun (i : Option Nat) => if (i.map (hcfg s n)).getD false = true ∧ level s n < 2 then 2 else max (level s n) 1
    excLevel s n 0x01 = own (some 1) ∧ (∀ c, c ∈ [0x03, 0x04, 0x05, 0x06, 0x07, 0x08, 0x10, 0x13] → excLevel s n c = own none) ∧
    (∀ c, c ∈ [0x09, 0x0A, 0x0B, 0x11] → excLevel s n c = 2) ∧ (∀ c, c ∈ [0x0C, 0x0D, 0x0F] → excLevel s n c = own (some 3)) ∧
    excLevel s n 0x12 = 3 ∧ (level s n < 3 → excLevel s n 0x02 = level s n + 1)

/-- The end of a conditional branch: where it goes, what a misprediction executed and discards, what its predictors learn and its outcome in the history (R213, R235,
R238, R239). -/
def branched (fe : List Nat) (s : State) (n : Fin 24) (fr : Front) (go : Bool) (off : BitVec 16) : State :=
  let npc := if go then (Machine.core s n).pc + off.signExtend 64 * 4 else (Machine.core s n).pc + 4
  let mis := mispredicted s n brTabs npc fr
  let u := brTrain (if mis then discardAhead (wrongPath s n fr) n else s) n brTabs npc fr
  retired fe s (updCore u n fun c => { c with hist := (go :: c.hist).take 160 }) n npc (if mis then [3, 4] else [3])

end Sys2Proof.Claims

namespace Sys2Proof.Claims

open Sys2Proof.Machine

/-- The conditional branches (R213): signed and unsigned compares of 64-bit values; targets are relative to the branch. -/
def WBranches : Prop :=
  ∀ (z s : State) (n : Fin 24) (fr : Front) (fe : List Nat) (a b : Fin 32) (off : BitVec 16),
    Issues z n fr fe s →
    exec (.wBeq n a b off fr) z = .next (branched fe s n fr (decide (getW s n a = getW s n b)) off) ∧
    exec (.wBne n a b off fr) z = .next (branched fe s n fr (decide (getW s n a ≠ getW s n b)) off) ∧
    exec (.wBlt n a b off fr) z = .next (branched fe s n fr (decide ((getW s n a).toInt < (getW s n b).toInt)) off) ∧
    exec (.wBge n a b off fr) z = .next (branched fe s n fr (decide ((getW s n b).toInt ≤ (getW s n a).toInt)) off) ∧
    exec (.wBltu n a b off fr) z = .next (branched fe s n fr (decide ((getW s n a).toNat < (getW s n b).toNat)) off) ∧
    exec (.wBgeu n a b off fr) z = .next (branched fe s n fr (decide ((getW s n b).toNat ≤ (getW s n a).toNat)) off)

/-- J and JAL (R213): w31 takes the return address, which the return stack holds too (R235). -/
def WJumps : Prop :=
  ∀ (z s : State) (n : Fin 24) (fr : Front) (fe : List Nat) (off : BitVec 26),
    Issues z n fr fe s →
    let npc := (Machine.core s n).pc + off.signExtend 64 * 4
    exec (.wJ n off fr) z = .next (retired fe s (brTrain s n [0, 1] npc fr) n npc []) ∧
    exec (.wJal n off fr) z =
      .next (retired fe s (setW (pushRet (brTrain s n [0, 1] npc fr) n ((Machine.core s n).pc + 4)) n 31 ((Machine.core s n).pc + 4)) n npc [])

/-- JALR (R213): the target is from the old wa, wd takes the return address; `JALR w0, w31, 0` is a return, and a link to w31 a call (R235). -/
def WJalrRow : Prop :=
  ∀ (z s : State) (n : Fin 24) (fr : Front) (fe : List Nat) (d a : Fin 32) (imm : BitVec 16),
    Issues z n fr fe s →
    let npc := getW s n a + imm.signExtend 64
    let ret := decide (d = 0 ∧ a = 31 ∧ imm = 0)
    let mis := (jalrMis s n ret npc fr).1
    let t := if d = 31 then pushRet (jalrMis s n ret npc fr).2 n ((Machine.core s n).pc + 4) else (jalrMis s n ret npc fr).2
    let u := brTrain (if mis then discardAhead (wrongPath t n fr) n else t) n (if ret then [0, 1] else [0, 1, 7]) npc fr
    exec (.wJalr n d a imm fr) z = .next (retired fe s (setW u n d ((Machine.core s n).pc + 4)) n npc (if mis then [3, 4] else [3]))

/-- The return stack (R235, R236): a return takes its top entry off; one of another level or domain is discarded and predicts nothing; a call pushes,
and 32 entries stand at most. -/
def ReturnStack : Prop :=
  ∀ (s : State) (n : Fin 24) (r : RetEnt) (rest : List RetEnt) (npc : Word64) (fr : Front), (Machine.core s n).rets = r :: rest →
    let u := updCore s n fun c => { c with rets := rest }
    (r.lvl = level s n → r.did = coreDid s n → jalrMis s n true npc fr = (decide (r.pc ≠ npc), u)) ∧
    (r.lvl ≠ level s n ∨ r.did ≠ coreDid s n → jalrMis s n true npc fr = (mispredicted u n [0, 1] npc fr, u)) ∧
    (Machine.core (pushRet s n npc) n).rets = ({ lvl := level s n, did := coreDid s n, pc := npc } :: r :: rest).take 32

/-- A lookup finds an entry of the core's level and domain only (R236), and a training step on a wrong path takes away no entry of another context, and where it would have to the table stays (R238). -/
def PredictorContexts : Prop :=
  ∀ (s : State) (n : Fin 24) (tab pc v : Nat),
    (∀ e, predFind s n tab pc = some e → e.tab = tab ∧ e.lvl = level s n ∧ e.did = coreDid s n) ∧
    (∀ e ∈ (Machine.core s n).preds, (e.lvl ≠ level s n ∨ e.did ≠ coreDid s n) → e ∈ (Machine.core (predTrain s n true tab pc v).1 n).preds) ∧
    ((predTrain s n true tab pc v).2 = false → (Machine.core (predTrain s n true tab pc v).1 n).preds = (Machine.core s n).preds)

/-- A table predicts what it holds (R234 to R236): with an entry of the branch target buffer alone the target of the entry, with none the sequence; a
base direction entry that says not taken predicts the sequence. What the core takes when its tables differ is the model's choice (log 85). -/
def TablesPredict : Prop :=
  ∀ (s : State) (n : Fin 24) (npc : Word64) (fr : Front), let pc := (Machine.core s n).pc.toNat
    (∀ e, predFind s n 0 pc = some e → predFind s n 1 pc = none → mispredicted s n [0, 1] npc fr = decide (e.val ≠ npc.toNat)) ∧
    (predFind s n 0 pc = none → predFind s n 1 pc = none → mispredicted s n [0, 1] npc fr = decide (npc ≠ (Machine.core s n).pc + 4)) ∧
    (∀ e, predFind s n 2 pc = some e → e.val = 0 → (∀ t ∈ [3, 4, 5, 6], predFind s n t pc = none) →
      mispredicted s n brTabs npc fr = decide (npc ≠ (Machine.core s n).pc + 4))

/-- An architectural register, the pc, or an older store is never changed by what a core executes on a wrong path (R239). -/
def WrongPathLeaves : Prop :=
  ∀ (s : State) (n m : Fin 24) (fr : Front) (r : Fin 32) (k : Nat), let u := wrongPath s n fr
    getW u m r = getW s m r ∧ getFr u m r = getFr s m r ∧ sysr u m k = sysr s m k ∧ (Machine.core u m).pc = (Machine.core s m).pc ∧
    (Machine.core u m).sb = (Machine.core s m).sb ∧ u.sram = s.sram ∧ u.dram = s.dram

/-- MFS (R167, R168, R226). -/
def WMfsRow : Prop :=
  ∀ (z s : State) (n : Fin 24) (fr : Front) (fe : List Nat) (d : Fin 32) (k : Fin 4096),
    Issues z n fr fe s →
    sysListed k = true →
    k.val / 1024 ≤ level s n →
    exec (.wMfs n d k fr) z = .next (wPut fe s n d (sysRead s n k))

/-- MTS (R167, R169, R226): the fields that the register has take the value, every other bit keeps its own; where R226 says so the younger instructions
already fetched are discarded. -/
def WMtsRow : Prop :=
  ∀ (z s : State) (n : Fin 24) (fr : Front) (fe : List Nat) (a : Fin 32) (k : Fin 4096) (m : Nat),
    Issues z n fr fe s →
    sysMask k = some m →
    k.val / 1024 ≤ level s n →
    sysBad k (getW s n a) = false →
    let t := setSys s n k ((sysr s n k &&& ~~~(BitVec.ofNat 64 m)) ||| ((getW s n a) &&& BitVec.ofNat 64 m))
    exec (.wMts n a k fr) z =
      .next (retired fe s (if [0x401, 0x407, 0x40B, 0x40C, 0x800, 0x808, 0x809, 0x80D, 0xC00].contains k.val then clearEarly t n else t) n ((Machine.core s n).pc + 4) [])

/-- MFS and MTS of a number that is not listed, or MTS of a read-only register or a value out of range, raise UNDEF; MFS and any other MTS of a bank above the level PRIV (R167, R175). -/
def WSysTraps : Prop :=
  ∀ (z s : State) (n : Fin 24) (fr : Front) (fe : List Nat) (d a : Fin 32) (k : Fin 4096),
    Issues z n fr fe s →
    (sysListed k = false → exec (.wMfs n d k fr) z = .next (faulted s n fr (Machine.core s n).pc { code := 0x01 }) ∧ exec (.wMts n a k fr) z = .next (faulted s n fr (Machine.core s n).pc { code := 0x01 })) ∧
    (sysListed k = true → level s n < k.val / 1024 → exec (.wMfs n d k fr) z = .next (faulted s n fr (Machine.core s n).pc { code := 0x02 })) ∧
    (sysListed k = true → (sysMask k).isSome = true → sysBad k (getW s n a) = false → level s n < k.val / 1024 → exec (.wMts n a k fr) z = .next (faulted s n fr (Machine.core s n).pc { code := 0x02 })) ∧
    (sysMask k = none ∨ sysBad k (getW s n a) = true → exec (.wMts n a k fr) z = .next (faulted s n fr (Machine.core s n).pc { code := 0x01 }))

/-- SVC anywhere, HVC at K and H, FWC at H and F retire and are taken as exceptions whose EPC is the next instruction (R172, R174, R227); elsewhere HVC and FWC raise UNDEF. -/
def WCalls : Prop :=
  ∀ (z s : State) (n : Fin 24) (fr : Front) (fe : List Nat) (imm : BitVec 16),
    Issues z n fr fe s →
    exec (.wSvc n imm fr) z = .next (raiseExc (wrongPath (pmuRetire (level s n) n (allEvs s n fe) (clearGot s n)) n fr) n ((Machine.core s n).pc + 4) { code := 0x10 }) ∧ (level s n = 1 ∨ level s n = 2 → exec (.wHvc n imm fr) z = .next (raiseExc (wrongPath (pmuRetire (level s n) n (allEvs s n fe) (clearGot s n)) n fr) n ((Machine.core s n).pc + 4) { code := 0x11 })) ∧ (level s n = 2 ∨ level s n = 3 → exec (.wFwc n imm fr) z = .next (raiseExc (wrongPath (pmuRetire (level s n) n (allEvs s n fe) (clearGot s n)) n fr) n ((Machine.core s n).pc + 4) { code := 0x12 })) ∧
    (level s n = 0 ∨ level s n = 3 → exec (.wHvc n imm fr) z = .next (faulted s n fr (Machine.core s n).pc { code := 0x01 })) ∧ (level s n < 2 → exec (.wFwc n imm fr) z = .next (faulted s n fr (Machine.core s n).pc { code := 0x01 }))

/-- BRK is taken at itself (R172, R227), an unallocated encoding raises UNDEF, and UNALLOCATED_ENCODING with an allocated word does nothing (R200). -/
def WBrkRow : Prop :=
  ∀ (z s : State) (n : Fin 24) (fr : Front) (fe : List Nat) (imm : BitVec 16) (word : BitVec 32),
    (Issues z n fr fe s → exec (.wBrk n imm fr) z = .next (faulted s n fr (Machine.core s n).pc { code := 0x13 })) ∧
    (Issues z n fr fe s → wAllocated word = false → exec (.wUnalloc n word fr) z = .next (faulted s n fr (Machine.core s n).pc { code := 0x01 })) ∧
    (wAllocated word = true → exec (.wUnalloc n word fr) z = .next z)

/-- Words that R199 and R200 allocate and do not: the canonical no-op, a major opcode without an instruction, a function without one, a field that must
be 0. -/
def AllocatedWords : Prop :=
  wAllocated 0x10000000 = true ∧ wAllocated 0 = false ∧ wAllocated 0xFFFFFFFF = false ∧ wAllocated 0x04000006 = false ∧ wAllocated 0x04000018 = true ∧
    wAllocated 0x04000818 = false

/-- ERET at level T (R183): pc, STATUS and the threshold are restored and the reservation is cleared, where no interrupt of target T is deliverable against what is restored. -/
def WReturns : Prop :=
  ∀ (z s : State) (n : Fin 24) (fr : Front) (fe : List Nat) (t : Nat),
    Issues z n fr fe s →
    level s n = t →
    1 ≤ t →
    deliverableAt (irqAt s n t).1 t (fld (sysr s n (lvlReg t 2)) 0 2) (bit (sysr s n (lvlReg t 2)) 2) (bit (sysr s n (lvlReg t 2)) 3) (if t = 3 then 0 else fld (sysr s n (lvlReg t 2)) 8 4) = false →
    let es := sysr s n (lvlReg t 2)
    let u := setSys (clearEarly (updCore s n fun c => { c with resv := none, keep := none }) n) n 0x400 (BitVec.ofNat 64 (fld es 0 4))
    exec (.wEret n fr) z = .next (retired fe s (if t = 3 then u else setSys u n (thrReg t) (BitVec.ofNat 64 (fld es 8 4))) n (sysr s n (lvlReg t 1)) [])

/-- ERET re-enters at once where one is deliverable (R184): the threshold and ECAUSE take the priority, EADDR is zero, EPC, ESTATUS and STATUS stay, and a later arrival may still take over (R174, R182). -/
def WReenters : Prop :=
  ∀ (z s : State) (n : Fin 24) (fr : Front) (fe : List Nat) (t q : Nat) (v : Bool),
    Issues z n fr fe s →
    level s n = t →
    1 ≤ t →
    irqAt s n t = (q, v) →
    deliverableAt q t (fld (sysr s n (lvlReg t 2)) 0 2) (bit (sysr s n (lvlReg t 2)) 2) (bit (sysr s n (lvlReg t 2)) 3) (if t = 3 then 0 else fld (sysr s n (lvlReg t 2)) 8 4) = true →
    let u := setSys (setSys (setSys (discardAhead (updCore s n fun c => { c with resv := none, keep := none }) n) n (thrReg t) (BitVec.ofNat 64 q)) n (lvlReg t 3)
      (causeWord (0x20 + q) 0 0 false false v)) n (lvlReg t 4) 0
    exec (.wEret n fr) z = .next (pmuRetire (level s n) n (allEvs s n (fe ++ [0x0E, 0x10]))
      (goesOn u n (sysr s n (lvlReg t 0) + BitVec.ofNat 64 (0x400 + 0x40 * q)) [0x0E, 0x10] (some (t, q))))

/-- WAIT (R185, R549): at U, and at K under TWAIT, it raises PRIV; with something pending the core goes on, else it stops issuing, in DOZE where its MARI_DOZE bit is set. -/
def WWaits : Prop :=
  ∀ (z s : State) (n : Fin 24) (fr : Front) (fe : List Nat),
    Issues z n fr fe s →
    ((level s n = 0 ∨ (level s n = 1 ∧ hcfg s n 2 = true)) → exec (.wWait n fr) z = .next (faulted s n fr (Machine.core s n).pc { code := 0x02 })) ∧
    (¬ (level s n = 0 ∨ (level s n = 1 ∧ hcfg s n 2 = true)) → wakePending s n = true → exec (.wWait n fr) z = .next (retired fe s s n ((Machine.core s n).pc + 4) [])) ∧
    (¬ (level s n = 0 ∨ (level s n = 1 ∧ hcfg s n 2 = true)) → wakePending s n = false →
      exec (.wWait n fr) z = .next (retired fe s (updCore s n fun c => { c with run := if rdB s .mari 0x05C n then .doze else .waiting }) n ((Machine.core s n).pc + 4) []))

/-- A TLBI retired: it has acted at its own core, and stands until the core's TSYNC (R193). -/
def tlbiDone (fe : List Nat) (s : State) (n : Fin 24) (op arg : Nat) : State :=
  let r : TlbiReq := { op := op, arg := arg, did := fld (sysr s n 0x808) 48 6, asid := fld (sysr s n 0x40C) 0 16 }
  retired fe s (updCore s n fun c => { tlbiCore r c with tlbis := c.tlbis ++ [r] }) n ((Machine.core s n).pc + 4) []

/-- TLBI.VA and TLBI.ASID at K and above (R193); below it they raise PRIV. -/
def WTlbis1 : Prop :=
  ∀ (z s : State) (n : Fin 24) (fr : Front) (fe : List Nat) (a : Fin 32),
    Issues z n fr fe s →
    (1 ≤ level s n → exec (.wTlbiVa n a fr) z = .next (tlbiDone fe s n 8 (getW s n a).toNat) ∧ exec (.wTlbiAsid n fr) z = .next (tlbiDone fe s n 9 0)) ∧
    (level s n = 0 → ∀ i ∈ [Instr.wTlbiVa n a fr, .wTlbiAsid n fr], exec i z = .next (faulted s n fr (Machine.core s n).pc { code := 0x02 }))

/-- TLBI.IPA, TLBI.DID, TLBI.HVA and TLBI.ALL at H and above (R193); below it they raise PRIV. -/
def WTlbis2 : Prop :=
  ∀ (z s : State) (n : Fin 24) (fr : Front) (fe : List Nat) (a : Fin 32),
    Issues z n fr fe s →
    (2 ≤ level s n → exec (.wTlbiIpa n a fr) z = .next (tlbiDone fe s n 10 (getW s n a).toNat) ∧ exec (.wTlbiDid n a fr) z = .next (tlbiDone fe s n 11 (getW s n a).toNat) ∧
      exec (.wTlbiHva n a fr) z = .next (tlbiDone fe s n 12 (getW s n a).toNat) ∧ exec (.wTlbiAll n fr) z = .next (tlbiDone fe s n 13 0)) ∧
    (level s n < 2 → ∀ i ∈ [Instr.wTlbiIpa n a fr, .wTlbiDid n a fr, .wTlbiHva n a fr, .wTlbiAll n fr],
      exec i z = .next (faulted s n fr (Machine.core s n).pc { code := 0x02 }))

/-- TSYNC (R194): every earlier TLBI of the core has taken effect at every core. -/
def WTsyncRow : Prop :=
  ∀ (z s : State) (n : Fin 24) (fr : Front) (fe : List Nat),
    Issues z n fr fe s →
    level s n ≠ 0 →
    exec (.wTsync n fr) z = .next (retired fe s (syncTlbis s n) n (nextPc s n) [])

/-- FENCE (R224): mask 0 is unallocated; without PW it completes at once; with PW when every older store and cache operation has been answered. A fence that
orders younger reads behind an earlier set leaves none that was performed ahead (R245). -/
def WFences : Prop :=
  ∀ (z s : State) (n : Fin 24) (fr : Front) (fe : List Nat) (mask : Fin 16) (env : MemEnv),
    Issues z n fr fe s →
    let after := fun t => if mask.val.testBit 1 = true ∧ (mask.val.testBit 2 = true ∨ mask.val.testBit 3 = true) then clearEarly t n else t
    (mask = 0 → exec (.wFence n mask env fr) z = .next (faulted s n fr (Machine.core s n).pc { code := 0x01 })) ∧
    (mask ≠ 0 → mask.val.testBit 2 = false → exec (.wFence n mask env fr) z = .next (retired fe s (after s) n ((Machine.core s n).pc + 4) [])) ∧
    (∀ u v, mask.val.testBit 2 = true → drainWhere s n (fun _ => true) env = .ok u → completeOps u n env = .ok v → unanswered v n = false →
      exec (.wFence n mask env fr) z = .next (retired fe s (after v) n (nextPc v n) []))

/-- ISYNC (R228): every cache operation completes, and younger instructions are fetched and executed anew. -/
def WIsyncRow : Prop :=
  ∀ (z s : State) (n : Fin 24) (fr : Front) (fe : List Nat) (u : State) (env : MemEnv),
    Issues z n fr fe s →
    completeOps s n env = .ok u →
    exec (.wIsync n env fr) z = .next (retired fe s (clearEarly u n) n (nextPc u n) [])

/-- INTERRUPT_ENTRY (R178 to R181): at a boundary of a running core that owes no STORE_BUS, the deliverable interrupt of the higher target is taken. -/
def IrqEntry : Prop :=
  ∀ (s : State) (n : Fin 24) (fr : Front),
    (Machine.core s n).run = .running →
    (Machine.core s n).stall = false →
    (Machine.core s n).got = [] →
    storeBusDue s n = none →
    lateDue s n = none →
    (deliverable s n 2 = true → exec (.interruptEntry n fr) s = .next (enterIrq (wrongPath s n fr) n 2 (irqAt s n 2).1 (irqAt s n 2).2)) ∧
    (deliverable s n 2 = false → deliverable s n 1 = true → exec (.interruptEntry n fr) s = .next (enterIrq (wrongPath s n fr) n 1 (irqAt s n 1).1 (irqAt s n 1).2)) ∧
    (deliverable s n 2 = false → deliverable s n 1 = false → exec (.interruptEntry n fr) s = .next s)

/-- R179: the priority is above the threshold, and the core is below the target or at it with IE 1 and EG 0. -/
def IrqDeliverable : Prop :=
  ∀ (s : State) (n : Fin 24) (t : Nat),
    deliverable s n t = (decide ((irqAt s n t).1 ≠ 0) && decide (threshold s n t < (irqAt s n t).1) && (decide (level s n < t) || (decide (level s n = t) && statusIE s n && !statusEG s n))) ∧
    irqAt s n 2 = (if hcfg s n 0 then (presented s n, false) else (0, false)) ∧ irqAt s n 1 = (if hcfg s n 0 then (fld (sysr s n 0x80A) 0 4, true) else (presented s n, false)) ∧
    irqAt s n 3 = (0, false)

/-- LATE_ARRIVAL (R182): a higher priority of the same target takes over the entry before the first handler instruction has issued; EPC and ESTATUS
stay. -/
def LateRow : Prop :=
  ∀ (s : State) (n : Fin 24) (t p : Nat),
    (Machine.core s n).entry = some (t, p) →
    (Machine.core s n).stall = false →
    (Machine.core s n).got = [] →
    p < (irqAt s n t).1 →
    let q := (irqAt s n t).1
    let u := setSys (setSys (discardAhead s n) n (thrReg t) (BitVec.ofNat 64 q)) n (lvlReg t 3) (causeWord (0x20 + q) 0 0 false false (irqAt s n t).2)
    exec (.lateArrival n) s = .next (pmuEvent t n (updCore u n fun c => { c with entry := some (t, q), tried := none, xlats := [], heldAt := [], atPort := none, pc := sysr u n (lvlReg t 0) + BitVec.ofNat 64 (0x400 + 0x40 * q) }) 0x0F)

/-- A first handler instruction that waits for an answer, or has one, has issued: no later arrival takes the entry over, and no access of its is repeated
(R182, R208). -/
def LateTooLate : Prop :=
  ∀ (s : State) (n : Fin 24), (Machine.core s n).stall = true ∨ (Machine.core s n).got ≠ [] → exec (.lateArrival n) s = .next s

/-- STORE_BUS (R174, R177): a pending error response of a store is taken with PHYS 1 and the physical address. -/
def SbusRow : Prop :=
  ∀ (s : State) (n : Fin 24) (fr : Front) (e : Nat × Nat),
    (Machine.core s n).run = .running →
    (Machine.core s n).stall = false →
    (Machine.core s n).got = [] →
    storeBusDue s n = some e →
    let w := wrongPath s n fr
    let t := storeBusLevel w n e.1
    let u := updCore w n fun c => { c with sbus := c.sbus.erase e, entry := none }
    exec (.storeBus n fr) s = .next (enterLevel u n t (Machine.core u n).pc (causeWord 0x0E 0 0 false true false) (BitVec.ofNat 64 e.2) none none 0x080)

/-- WAIT_END (R185), in a cluster that Marionette has not stopped (R553); VIRQ.PRI ends WAIT whatever IRQ_H (the model's choice, log entry 91). -/
def WaitEndRow : Prop :=
  ∀ (s : State) (n : Fin 24),
    ((Machine.core s n).run = .waiting ∨ (Machine.core s n).run = .doze) →
    wakePending s n = true →
    ckaStopped s (n.val / 8) = false →
    exec (.waitEnd n) s = .next (updCore s n fun c => { c with run := .running })

/-- PMU_COUNTER_WRAP (R255): a counter that may count wraps from its last value to zero and sets its bit; one that may not keeps its value. -/
def PmuWrapRow : Prop :=
  ∀ (s : State) (n : Fin 24) (i : Fin 6),
    (pmuMay s n i = true → rd s (.wcc n) (0x060 + 4 * i.val) = 0xFFFFFFFF →
      exec (.pmuCounterWrap n i) s = .next (setIrq (wr s (.wcc n) (0x060 + 4 * i.val) 0) (.wcc n) (2 ^ i.val))) ∧
    (rdB s (.wcc n) 0x040 0 = false ∨ level s n = 3 ∨ ckaRuns s n (Machine.core s n) = false → exec (.pmuCounterWrap n i) s = .next s) ∧
    (2 ≤ i.val → rdF s (.wcc n) (0x044 + 4 * (i.val - 2)) 0 6 = 0 → exec (.pmuCounterWrap n i) s = .next s)

/-- PMU_CYC counts the cycles of CK_A and PMU_INST the retired instructions, while enabled for the level; nothing counts at F (R255). -/
def PmuCounts : Prop :=
  ∀ (s : State) (n : Fin 24) (l k r : Nat) (evs : List Nat), let on := rdB s (.wcc n) 0x040 0 && pmuLevel (rd s (.wcc n) 0x040) l
    rd (pmuCycles n l k r s) (.wcc n) 0x060 = rd s (.wcc n) 0x060 + (if on then BitVec.ofNat 32 k else 0) ∧
    rd (pmuRetire l n evs s) (.wcc n) 0x064 = rd s (.wcc n) 0x064 + (if on then 1 else 0) ∧
    (3 ≤ l → ∀ off, 0x060 ≤ off → off < 0x078 → rd (pmuCycles n l k r s) (.wcc n) off = rd s (.wcc n) off)

/-- A load performed ahead of its place, whose line the L2 does not hold, counts the speculative event of a held miss, once for an instruction (R240, R257; log entry 88). -/
def AheadCounts : Prop :=
  ∀ (s t : State) (n : Fin 24) (env : MemEnv) (a : Ahead) (x : Xlat), let ea := (getW s n a.reg + a.imm.signExtend 64).toNat
    a.len ≠ 0 → ea % 64 + a.len.val ≤ 64 → translate s n ea .read { env with held := true } = .ok t x → x.ty = 2 →
    l2Line t (clusterOfCore n) (x.pa / 64) = none →
    readAhead n env s a = (if (Machine.core t n).heldAt.contains (x.pa / 64) = true then t else updCore (specCount n 4 1 t) n fun c => { c with heldAt := x.pa / 64 :: c.heldAt })

/-- SPEC_COUNTER_WRAP (R257). -/
def SpecWrapRow : Prop :=
  ∀ (s : State) (w : Fin 3) (i : Fin 2),
    rd s (.wc w) (0x048 + 4 * i.val) = 0xFFFFFFFF →
    rdF s (.wc w) (0x040 + 4 * i.val) 8 4 ≠ 0 →
    exec (.specCounterWrap w i) s = .next (setIrq (wr s (.wc w) (0x048 + 4 * i.val) 0) (.wc w) (2 ^ i.val))

end Sys2Proof.Claims

open Sys2Proof Sys2Proof.Machine Sys2Proof.Claims in
/-- R163 to R185, R193, R194, R213, R224 to R228, R255, R257. Completes: interruptEntry, lateArrival, storeBus, waitEnd, wUnalloc, wBeq, wBne, wBlt,
wBge, wBltu, wBgeu, wJ, wJal, wJalr, wFence, wMfs, wMts, wSvc, wHvc, wFwc, wBrk, wEret, wWait, wIsync, wTsync, wTlbiVa, wTlbiAsid, wTlbiIpa,
wTlbiDid, wTlbiHva, wTlbiAll, pmuCounterWrap, specCounterWrap. -/
def Obligations.WinovarFlowAndSystem : Prop :=
  WBranches ∧
  WJumps ∧
  WJalrRow ∧
  ReturnStack ∧
  PredictorContexts ∧
  TablesPredict ∧
  WrongPathLeaves ∧
  WMfsRow ∧
  WMtsRow ∧
  WSysTraps ∧
  WCalls ∧
  WBrkRow ∧
  AllocatedWords ∧
  WReturns ∧
  WReenters ∧
  WWaits ∧
  WTlbis1 ∧
  WTlbis2 ∧
  WTsyncRow ∧
  WFences ∧
  WIsyncRow ∧
  IrqEntry ∧
  IrqDeliverable ∧
  LateRow ∧
  LateTooLate ∧
  SbusRow ∧
  WaitEndRow ∧
  PmuWrapRow ∧
  PmuCounts ∧
  AheadCounts ∧
  SpecWrapRow ∧
  FetchAligned ∧
  BoundaryFirst ∧
  StoreBusWaits ∧
  FetchHeld ∧
  WaitKeepsEvents ∧
  EntrySaves ∧
  AheadDiscarded ∧
  ExceptionTaken ∧
  CauseLevels

namespace Sys2Proof.Claims

open Sys2Proof.Machine

/-- What a Winovar instruction that works on registers and the pc names: its core, the w register and the f register it may write. Loads
and stores, atomics, cache operations, fences, TLB maintenance, MTS, WAIT, calls and returns have statements of their own. -/
def wRegisterRow : Instr → Option (Fin 24 × Option (Fin 32) × Option (Fin 32) × Front)
  | .wAdd n d _ _ fr | .wSub n d _ _ fr | .wAnd n d _ _ fr | .wOr n d _ _ fr | .wXor n d _ _ fr | .wAndn n d _ _ fr | .wSll n d _ _ fr | .wSrl n d _ _ fr | .wSra n d _ _ fr
  | .wRor n d _ _ fr | .wSlt n d _ _ fr | .wSltu n d _ _ fr | .wMin n d _ _ fr | .wMax n d _ _ fr | .wMinu n d _ _ fr | .wMaxu n d _ _ fr | .wAddw n d _ _ fr
  | .wSubw n d _ _ fr | .wSllw n d _ _ fr | .wSrlw n d _ _ fr | .wSraw n d _ _ fr | .wRorw n d _ _ fr | .wMul n d _ _ fr | .wMulh n d _ _ fr | .wMulhu n d _ _ fr
  | .wMulhsu n d _ _ fr | .wDiv n d _ _ fr | .wDivu n d _ _ fr | .wRem n d _ _ fr | .wRemu n d _ _ fr | .wMulw n d _ _ fr | .wDivw n d _ _ fr | .wDivuw n d _ _ fr
  | .wRemw n d _ _ fr | .wRemuw n d _ _ fr => some (n, some d, none, fr)
  | .wClz n d _ fr | .wCtz n d _ fr | .wPopc n d _ fr => some (n, some d, none, fr)
  | .wAddi n d _ _ fr | .wAddiw n d _ _ fr | .wSlti n d _ _ fr | .wSltiu n d _ _ fr | .wAndi n d _ _ fr | .wOri n d _ _ fr | .wXori n d _ _ fr | .wSlli n d _ _ fr
  | .wSrli n d _ _ fr | .wSrai n d _ _ fr | .wRori n d _ _ fr | .wSlliw n d _ _ fr | .wSrliw n d _ _ fr | .wSraiw n d _ _ fr => some (n, some d, none, fr)
  | .wLui n d _ fr | .wAuipc n d _ fr => some (n, some d, none, fr)
  | .wFeq n d _ _ _ fr | .wFlt n d _ _ _ fr | .wFle n d _ _ _ fr | .wFcvtL n d _ _ _ fr | .wFcvtLu n d _ _ _ fr | .wFcvtW n d _ _ _ fr | .wFcvtWu n d _ _ _ fr
  | .wFmvX n d _ _ fr => some (n, some d, none, fr)
  | .wFadd n d _ _ _ _ fr | .wFsub n d _ _ _ _ fr | .wFmul n d _ _ _ _ fr | .wFdiv n d _ _ _ _ fr | .wFsqrt n d _ _ _ fr | .wFmin n d _ _ _ fr | .wFmax n d _ _ _ fr
  | .wFsgn n d _ _ _ fr | .wFsgnn n d _ _ _ fr | .wFsgnx n d _ _ _ fr | .wFcvtF n d _ _ _ fr | .wFcvtFl n d _ _ _ fr | .wFcvtFlu n d _ _ _ fr | .wFcvtFw n d _ _ _ fr
  | .wFcvtFwu n d _ _ _ fr | .wFmvF n d _ _ fr | .wFmadd n d _ _ _ _ _ fr | .wFmsub n d _ _ _ _ _ fr | .wFnmsub n d _ _ _ _ _ fr | .wFnmadd n d _ _ _ _ _ fr => some (n, none, some d, fr)
  | .wBeq n _ _ _ fr | .wBne n _ _ _ fr | .wBlt n _ _ _ fr | .wBge n _ _ _ fr | .wBltu n _ _ _ fr | .wBgeu n _ _ _ fr => some (n, none, none, fr)
  | .wJ n _ fr => some (n, none, none, fr)
  | .wJal n _ fr => some (n, some 31, none, fr)
  | .wJalr n d _ _ fr | .wMfs n d _ fr => some (n, some d, none, fr)
  | _ => none

/-- The rounded and flag-setting rows, which add to FPCSR. -/
def wFloatRow : Instr → Bool
  | .wFeq _ _ _ _ _ _ | .wFlt _ _ _ _ _ _ | .wFle _ _ _ _ _ _ | .wFcvtL _ _ _ _ _ _ | .wFcvtLu _ _ _ _ _ _ | .wFcvtW _ _ _ _ _ _ | .wFcvtWu _ _ _ _ _ _
  | .wFadd _ _ _ _ _ _ _ | .wFsub _ _ _ _ _ _ _ | .wFmul _ _ _ _ _ _ _ | .wFdiv _ _ _ _ _ _ _ | .wFsqrt _ _ _ _ _ _ | .wFmin _ _ _ _ _ _ | .wFmax _ _ _ _ _ _
  | .wFsgn _ _ _ _ _ _ | .wFsgnn _ _ _ _ _ _ | .wFsgnx _ _ _ _ _ _ | .wFcvtF _ _ _ _ _ _ | .wFcvtFl _ _ _ _ _ _ | .wFcvtFlu _ _ _ _ _ _ | .wFcvtFw _ _ _ _ _ _
  | .wFcvtFwu _ _ _ _ _ _ | .wFmadd _ _ _ _ _ _ _ _ | .wFmsub _ _ _ _ _ _ _ _ | .wFnmsub _ _ _ _ _ _ _ _ | .wFnmadd _ _ _ _ _ _ _ _ => true
  | _ => false

/-- Nothing but the cores, the counters, the interrupt status and the error record of core `n`'s page, the speculative counters and the interrupt status
of its cluster's, messages to the interrupt controller, fault messages and the place in the free values differs. -/
def OnlyCore (s u : State) (n : Fin 24) : Prop :=
  u = { s with cores := u.cores, regs := u.regs, ic := { s.ic with msgs := u.ic.msgs }, faultQ := u.faultQ, freeCtr := u.freeCtr } ∧
    (∀ m, m ≠ n → Machine.core u m = Machine.core s m) ∧
    (∀ p off, p ≠ .wcc n → p ≠ .wc (Fin.ofNat 3 (n.val / 8)) → off < 0x1000 → rd u p off = rd s p off) ∧
    (∀ off, off < 0x1000 → off ≠ 0x010 → off ∉ [0x020, 0x024, 0x028, 0x02C, 0x064, 0x068, 0x06C, 0x070, 0x074] → rd u (.wcc n) off = rd s (.wcc n) off) ∧
    ∀ off, off < 0x1000 → off ∉ [0x010, 0x048, 0x04C] → rd u (.wc (Fin.ofNat 3 (n.val / 8))) off = rd s (.wc (Fin.ofNat 3 (n.val / 8))) off

/-- What such an instruction may change of its core: registers and pc, the state of an entry, the reservation, what it held while it waited, what stands
ahead of it, its predictors, and its count of instructions. -/
def OnlyOwn (s u : State) (n : Fin 24) : Prop :=
  let c := Machine.core u n
  c = { Machine.core s n with
    run := c.run, w := c.w, f := c.f, pc := c.pc, sys := c.sys, resv := c.resv, keep := c.keep, preds := c.preds, hist := c.hist, rets := c.rets, early := c.early, served := c.served
    entry := c.entry, got := c.got, tried := c.tried, xlats := c.xlats, heldAt := c.heldAt, atPort := c.atPort, done := c.done }

/-- What an instruction that works on registers and the pc leaves, against the state `s` in which it executes: R165 (entry neither saves nor restores
general registers), R170, R171, R201 (no flag), R215 (FPCSR), R239 (a wrong path changes no register and no byte). -/
def RegisterRowsLeave : Prop :=
  ∀ (c : Instr) (z s u : State) (n : Fin 24) (fr : Front) (fe : List Nat) (d f : Option (Fin 32)), wRegisterRow c = some (n, d, f, fr) → Issues z n fr fe s →
    exec c z = .next u →
    (∀ m r, (m ≠ n ∨ d ≠ some r) → getW u m r = getW s m r) ∧ (∀ m r, (m ≠ n ∨ f ≠ some r) → getFr u m r = getFr s m r) ∧
      (∀ m, (Machine.core u m).sb = (Machine.core s m).sb ∧ (Machine.core u m).cops = (Machine.core s m).cops) ∧ u.sram = s.sram ∧ u.dram = s.dram ∧
      (∀ m, m ≠ n → (Machine.core u m).pc = (Machine.core s m).pc ∧ ∀ k, sysr u m k = sysr s m k) ∧
      (statusEG u n = false ∨ (statusEG s n = true ∧ level u n = level s n ∧ (Machine.core u n).run = .running) →
        (∀ k, (wFloatRow c = true → k ≠ 0x002) → sysr u n k = sysr s n k) ∧ (fr.wrong = [] → (Machine.core u n).resv = (Machine.core s n).resv)) ∧
      (fr.wrong = [] → OnlyCore s u n ∧ OnlyOwn s u n)

/-- The fetch of an instruction, and the loads performed ahead of it, change no register of any core, no pc and no older store (R170, R245). -/
def FetchLeaves : Prop :=
  ∀ (z s : State) (n m : Fin 24) (fr : Front) (fe : List Nat) (r : Fin 32) (k : Nat), fetched z n fr = some (s, fe) →
    getW s m r = getW z m r ∧ getFr s m r = getFr z m r ∧ sysr s m k = sysr z m k ∧ (Machine.core s m).pc = (Machine.core z m).pc ∧
      (Machine.core s m).run = (Machine.core z m).run ∧ (Machine.core s m).sb = (Machine.core z m).sb

end Sys2Proof.Claims

open Sys2Proof Sys2Proof.Machine Sys2Proof.Claims in
/-- The frame of the register instructions of the Winovar cores, and beside it what each floating-point row among them answers (R215 to R219).
Completes: wFadd, wFsub, wFmul, wFdiv, wFsqrt, wFmin, wFmax, wFsgn, wFsgnn, wFsgnx, wFeq, wFlt, wFle, wFcvtF, wFcvtL, wFcvtLu, wFcvtW, wFcvtWu,
wFcvtFl, wFcvtFlu, wFcvtFw, wFcvtFwu, wFmvX, wFmvF, wFmadd, wFmsub, wFnmsub, wFnmadd. -/
def Obligations.WinovarInstructionFrame : Prop :=
  RegisterRowsLeave ∧
  FetchLeaves ∧
  FRoundedOps ∧
  FRootConvert ∧
  FFused ∧
  FToInts ∧
  FOfInts ∧
  FSigns ∧
  FMinMaxes ∧
  FCompares ∧
  FMoves
end

