-- ==== Sys2Proof/Laws/SMap.lean ====
section
/-!
SUPPORT. Laws/SMap.lean: the laws of sparse maps: every operation keeps the canonical form, and what is read after a write.
-/

namespace Sys2Proof.Machine.SMap

variable {α : Type}

theorem rising_mono {m : SMap α} {lo lo' : Nat} (h : rising lo m = true) (hl : lo' ≤ lo) : rising lo' m = true := by
  cases m with
  | nil => rfl
  | cons e r =>
    simp only [rising, Bool.and_eq_true, decide_eq_true_eq] at h ⊢
    exact ⟨by omega, h.2⟩

theorem rising_cons {lo : Nat} {e : Nat × α} {r : SMap α} :
    rising lo (e :: r) = true ↔ lo ≤ e.1 ∧ rising (e.1 + 1) r = true := by
  simp [rising]

theorem rising_filterMap {m : SMap α} {lo : Nat} (h : rising lo m = true) (f : Nat × α → Option (Nat × α))
    (hf : ∀ e e', f e = some e' → e'.1 = e.1) : rising lo (m.filterMap f) = true := by
  induction m generalizing lo with
  | nil => rfl
  | cons e r ih =>
    rw [rising_cons] at h
    rw [List.filterMap_cons]
    split
    · exact rising_mono (ih h.2) (by omega)
    · rename_i e' he
      rw [rising_cons, hf e e' he]
      exact ⟨h.1, ih h.2⟩

theorem rising_filter {m : SMap α} {lo : Nat} (h : rising lo m = true) (p : Nat × α → Bool) :
    rising lo (m.filter p) = true := by
  induction m generalizing lo with
  | nil => rfl
  | cons e r ih =>
    rw [rising_cons] at h
    rw [List.filter_cons]
    split
    · rw [rising_cons]; exact ⟨h.1, ih h.2⟩
    · exact rising_mono (ih h.2) (by omega)

theorem rising_without {m : SMap α} {lo : Nat} (h : rising lo m = true) (k : Nat) : rising lo (without m k) = true := rising_filter h _

/-- A key left out reads as an unlisted one. -/
theorem getF_without_same (d : Nat → α) (m : SMap α) (k : Nat) : getF d (without m k) k = d k := by
  induction m with
  | nil => rfl
  | cons e r ih =>
    by_cases h : e.1 = k
    · rw [show without (e :: r) k = without r k by simp [without, h]]; exact ih
    · rw [show without (e :: r) k = e :: without r k by simp [without, h]]
      simp only [getF]; rw [if_neg (Ne.symm h)]; exact ih

/-- Every other key reads as before. -/
theorem getF_without_ne (d : Nat → α) (m : SMap α) {k j : Nat} (hj : j ≠ k) : getF d (without m k) j = getF d m j := by
  induction m with
  | nil => rfl
  | cons e r ih =>
    by_cases h : e.1 = k
    · rw [show without (e :: r) k = without r k by simp [without, h], ih]
      simp only [getF]; rw [if_neg (by omega)]
    · rw [show without (e :: r) k = e :: without r k by simp [without, h]]
      simp only [getF]; rw [ih]

variable [DecidableEq α]

theorem rising_setF {d : Nat → α} {m : SMap α} {lo k : Nat} {v : α} (h : rising lo m = true) (hk : lo ≤ k) :
    rising lo (setF d m k v) = true := by
  induction m generalizing lo with
  | nil => unfold setF; split <;> simp [rising, hk]
  | cons e r ih =>
    obtain ⟨k', v'⟩ := e
    have h' := rising_cons.1 h
    simp only [setF]
    split
    · split
      · rw [rising_cons]; exact ⟨h'.1, rising_without h'.2 k⟩
      · rw [rising_cons, rising_cons]; exact ⟨hk, by simp; omega, rising_without h'.2 k⟩
    · split
      · subst k
        split
        · exact rising_mono (rising_without h'.2 k') (by simp; omega)
        · rw [rising_cons]; exact ⟨hk, rising_without h'.2 k'⟩
      · rw [rising_cons]; exact ⟨h'.1, ih h'.2 (by simp_all; omega)⟩

theorem noDefault_without {d : Nat → α} {m : SMap α} (h : noDefault d m = true) (k : Nat) : noDefault d (without m k) = true := by
  simp only [noDefault, List.all_eq_true] at h ⊢
  exact fun e he => h e (List.mem_filter.1 he).1

theorem noDefault_setF {d : Nat → α} {m : SMap α} {k : Nat} {v : α} (h : noDefault d m = true) :
    noDefault d (setF d m k v) = true := by
  induction m with
  | nil => unfold setF; split <;> simp_all [noDefault]
  | cons e r ih =>
    obtain ⟨k', v'⟩ := e
    have hr : noDefault d r = true := by simp only [noDefault, List.all_cons, Bool.and_eq_true] at h ⊢; exact h.2
    have hw := noDefault_without hr k
    have hi := ih hr
    simp only [noDefault, List.all_cons, Bool.and_eq_true, decide_eq_true_eq] at h hw hi ⊢
    simp only [setF]
    split
    · split <;> simp_all
    · split
      · split <;> simp_all
      · simp only [List.all_cons, Bool.and_eq_true, decide_eq_true_eq]; exact ⟨h.1, hi⟩

/-- A write keeps the canonical form. -/
theorem wfF_setF {d : Nat → α} {m : SMap α} (h : wfF d m = true) (k : Nat) (v : α) : wfF d (setF d m k v) = true := by
  simp only [wfF, Bool.and_eq_true] at h ⊢
  exact ⟨rising_setF h.1 (Nat.zero_le _), noDefault_setF h.2⟩

theorem wf_set {d : α} {m : SMap α} (h : wf d m = true) (k : Nat) (v : α) : wf d (set d m k v) = true := wfF_setF h k v

theorem wf_upd {d : α} {m : SMap α} (h : wf d m = true) (k : Nat) (f : α → α) : wf d (upd d m k f) = true := wfF_setF h k _

/-- Entries taken out keep the canonical form. -/
theorem wfF_filter {d : Nat → α} {m : SMap α} (h : wfF d m = true) (p : Nat × α → Bool) :
    wfF d (show SMap α from m.filter p) = true := by
  simp only [wfF, Bool.and_eq_true] at h ⊢
  refine ⟨rising_filter h.1 p, ?_⟩
  simp only [noDefault, List.all_eq_true] at h ⊢
  exact fun e he => h.2 e (List.mem_filter.1 he).1

theorem wfF_drop {d : Nat → α} {m : SMap α} (h : wfF d m = true) (p : Nat → Bool) : wfF d (drop m p) = true := wfF_filter h _

theorem wf_drop {d : α} {m : SMap α} (h : wf d m = true) (p : Nat → Bool) : wf d (drop m p) = true := wfF_filter h _

theorem wfF_nil {d : Nat → α} : wfF d ([] : SMap α) = true := rfl

/-- Every entry of a map after a write is the new one or an old one. -/
theorem mem_setF {d : Nat → α} {m : SMap α} {k : Nat} {v : α} {e : Nat × α} (h : e ∈ setF d m k v) :
    (e = (k, v) ∧ v ≠ d k) ∨ e ∈ m := by
  have hw : ∀ r : SMap α, e ∈ without r k → e ∈ r := fun r he => (List.mem_filter.1 he).1
  induction m with
  | nil => unfold setF at h; split at h <;> simp_all
  | cons e' r ih =>
    obtain ⟨k', v'⟩ := e'
    simp only [setF] at h
    split at h
    · split at h
      · rcases List.mem_cons.1 h with h | h
        · exact .inr (h ▸ List.mem_cons_self ..)
        · exact .inr (List.mem_cons_of_mem _ (hw r h))
      · rcases List.mem_cons.1 h with h | h
        · exact .inl ⟨h, by assumption⟩
        · rcases List.mem_cons.1 h with h | h
          · exact .inr (h ▸ List.mem_cons_self ..)
          · exact .inr (List.mem_cons_of_mem _ (hw r h))
    · split at h
      · split at h
        · exact .inr (List.mem_cons_of_mem _ (hw r h))
        · rcases List.mem_cons.1 h with h | h
          · exact .inl ⟨h, by assumption⟩
          · exact .inr (List.mem_cons_of_mem _ (hw r h))
      · rcases List.mem_cons.1 h with h | h
        · exact .inr (h ▸ List.mem_cons_self ..)
        · rcases ih h with h | h
          · exact .inl h
          · exact .inr (List.mem_cons_of_mem _ h)

/-- The key that was written reads as what was written. -/
theorem getF_setF (d : Nat → α) (m : SMap α) (k : Nat) (v : α) : getF d (setF d m k v) k = v := by
  induction m with
  | nil => unfold setF; split <;> simp_all [getF]
  | cons e r ih =>
    obtain ⟨k', v'⟩ := e
    simp only [setF]
    split
    · split
      · rename_i hv; simp only [getF]; rw [if_neg (by omega), getF_without_same, hv]
      · simp [getF]
    · split
      · split
        · rename_i hv; rw [getF_without_same, hv]
        · simp [getF]
      · simp only [getF]; rw [if_neg (by assumption)]; exact ih

/-- Every other key reads as before. -/
theorem getF_setF_other (d : Nat → α) (m : SMap α) {k j : Nat} (v : α) (hj : j ≠ k) : getF d (setF d m k v) j = getF d m j := by
  induction m with
  | nil => unfold setF; split <;> simp_all [getF]
  | cons e r ih =>
    obtain ⟨k', v'⟩ := e
    simp only [setF]
    split
    · split
      · simp only [getF]; rw [getF_without_ne d r hj]
      · simp only [getF]; rw [if_neg hj, getF_without_ne d r hj]
    · split
      · subst k
        split
        · simp only [getF]; rw [if_neg hj, getF_without_ne d r hj]
        · simp only [getF]; rw [if_neg hj, if_neg hj, getF_without_ne d r hj]
      · simp only [getF]; rw [ih]

theorem getF_setF_same {d : Nat → α} {m : SMap α} {lo k : Nat} {v : α} (_h : rising lo m = true) :
    getF d (setF d m k v) k = v := getF_setF d m k v

theorem getF_setF_ne {d : Nat → α} {m : SMap α} {lo k j : Nat} {v : α} (_h : rising lo m = true) (hj : j ≠ k) :
    getF d (setF d m k v) j = getF d m j := getF_setF_other d m v hj

/-- The key that was written reads as what was written. -/
@[simp] theorem get_set (d : α) (m : SMap α) (k : Nat) (v : α) : get d (set d m k v) k = v := getF_setF _ m k v

/-- Every other key reads as before. -/
theorem get_set_other (d : α) (m : SMap α) {k j : Nat} (v : α) (hj : j ≠ k) : get d (set d m k v) j = get d m j :=
  getF_setF_other _ m v hj

/-- The key that was changed reads as changed. -/
@[simp] theorem get_upd (d : α) (m : SMap α) (k : Nat) (f : α → α) : get d (upd d m k f) k = f (get d m k) := get_set d m k _

/-- Every other key reads as before. -/
theorem get_upd_other (d : α) (m : SMap α) {k j : Nat} (f : α → α) (hj : j ≠ k) : get d (upd d m k f) j = get d m j :=
  get_set_other d m _ hj

theorem getF_below {d : Nat → α} {m : SMap α} {lo k : Nat} (h : rising lo m = true) (hk : k < lo) : getF d m k = d k := by
  induction m generalizing lo with
  | nil => rfl
  | cons e r ih =>
    have h' := rising_cons.1 h
    simp only [getF]
    rw [if_neg (by omega)]
    exact ih h'.2 (by omega)

theorem rising_of_wfF {d : Nat → α} {m : SMap α} (h : wfF d m = true) : rising 0 m = true := by
  simp only [wfF, Bool.and_eq_true] at h; exact h.1

end Sys2Proof.Machine.SMap
end

