-- ==== Sys2Proof/Laws/Good.lean ====
section
/-!
SUPPORT. Laws/Good.lean: the shape in which the invariant is carried through every operation: the queue is `q` and `Inv` holds; and
that the operations that write the parts of State it speaks of keep it.
-/

namespace Sys2Proof.Machine

/-- The queue is `q` and the invariant holds. -/
structure Good (q : List Instr) (s : State) : Prop where
  pend : s.pending = q
  sram : SMap.wf none s.sram.mem = true
  sbad : SMap.wf false s.sram.bad = true
  szer : (s.sram.mem.all fun e => !(SMap.getF zeroedAtReset s.sram.zeroed (bankAt e.1) && decide (e.2 = some 0))) = true
  szwf : SMap.wfF zeroedAtReset s.sram.zeroed = true
  dram : SMap.wf 0 s.dram.mem = true
  dbad : SMap.wf false s.dram.bad = true
  eepr : SMap.wf 0 s.eeprom = true
  regs : SMap.wfF regResetAt s.regs = true
  ferr : s.fab.ferr.length ≤ 32
  flog : s.faultLog.length ≤ 16

variable {q : List Instr} {s s' t : State}

theorem good_iff : Good q s ↔ s.pending = q ∧ Inv s := by
  constructor
  · intro h
    refine ⟨h.pend, ?_, h.regs, h.ferr, h.flog⟩
    simp only [Memory.wf, sramWf, dramWf, bankZeroed, Bool.and_eq_true]
    exact ⟨⟨⟨⟨⟨h.sram, h.sbad⟩, h.szwf⟩, h.szer⟩, h.dram, h.dbad⟩, h.eepr⟩
  · rintro ⟨h, i⟩
    have m := i.mem
    simp only [Memory.wf, sramWf, dramWf, bankZeroed, Bool.and_eq_true] at m
    exact ⟨h, m.1.1.1.1.1, m.1.1.1.1.2, m.1.1.2, m.1.1.1.2, m.1.2.1, m.1.2.2, m.2, i.regs, i.ferr, i.flog⟩

/-- A change of any other part of State. -/
theorem good_upd (h : Good q s) (h1 : s'.pending = s.pending) (h2 : s'.fab.ferr = s.fab.ferr) (h3 : s'.faultLog = s.faultLog)
    (h4 : s'.regs = s.regs) (h5 : s'.sram.mem = s.sram.mem) (h6 : s'.sram.bad = s.sram.bad) (h7 : s'.sram.zeroed = s.sram.zeroed)
    (h8 : s'.dram.mem = s.dram.mem) (h9 : s'.dram.bad = s.dram.bad) (h10 : s'.eeprom = s.eeprom) : Good q s' := by
  constructor
  · rw [h1]; exact h.pend
  · rw [h5]; exact h.sram
  · rw [h6]; exact h.sbad
  · rw [h5, h7]; exact h.szer
  · rw [h7]; exact h.szwf
  · rw [h8]; exact h.dram
  · rw [h9]; exact h.dbad
  · rw [h10]; exact h.eepr
  · rw [h4]; exact h.regs
  · rw [h2]; exact h.ferr
  · rw [h3]; exact h.flog

/-- A change of the registers that keeps their canonical form. -/
theorem good_regs (h : Good q s) {r : SMap Reg32} (hr : SMap.wfF regResetAt r = true) : Good q { s with regs := r } :=
  { h with regs := hr }

/-- The same of a state that is written out. -/
theorem good_mk {freeCtr dt clsGrant fab ic dtOff yoyos twins xfifos resets faultQ wdogs doms cores l2s sc dram sram epoch engEpoch calib sage engines clusters movers cells tyl synt macs strms pcies pwr mari wakeL jtag bist verdict lanePll} (h : Good q s) (h2 : fab.ferr = s.fab.ferr) (h5 : sram.mem = s.sram.mem)
    (h6 : sram.bad = s.sram.bad) (h7 : sram.zeroed = s.sram.zeroed) (h8 : dram.mem = s.dram.mem) (h9 : dram.bad = s.dram.bad) :
    Good q (State.mk s.pending freeCtr dt s.regs clsGrant fab ic dtOff yoyos twins xfifos resets faultQ s.faultLog wdogs doms cores l2s sc dram sram epoch engEpoch s.eeprom calib sage engines clusters movers cells tyl synt macs strms pcies pwr mari wakeL jtag bist verdict lanePll) :=
  good_upd h rfl h2 rfl rfl h5 h6 h7 h8 h9 rfl

/-- The same where a granule of on-chip SRAM is marked. -/
theorem good_mkB {g : Nat} {v : Bool} {freeCtr dt clsGrant fab ic dtOff yoyos twins xfifos resets faultQ wdogs doms cores l2s sc dram sram epoch engEpoch calib sage engines clusters movers cells tyl synt macs strms pcies pwr mari wakeL jtag bist verdict lanePll} (h6 : sram.bad = SMap.set false s.sram.bad g v) (h : Good q s)
    (h2 : fab.ferr = s.fab.ferr) (h5 : sram.mem = s.sram.mem) (h7 : sram.zeroed = s.sram.zeroed) (h8 : dram.mem = s.dram.mem)
    (h9 : dram.bad = s.dram.bad) : Good q (State.mk s.pending freeCtr dt s.regs clsGrant fab ic dtOff yoyos twins xfifos resets faultQ s.faultLog wdogs doms cores l2s sc dram sram epoch engEpoch s.eeprom calib sage engines clusters movers cells tyl synt macs strms pcies pwr mari wakeL jtag bist verdict lanePll) := by
  have g : Good q { s with sram := { s.sram with bad := SMap.set false s.sram.bad g v } } := { h with sbad := SMap.wf_set h.sbad _ _ }
  exact good_upd g rfl h2 rfl rfl h5 h6 h7 h8 h9 rfl

/-- The same where the DRAM's part comes from another state. -/
theorem good_mkD {u : State} {freeCtr dt clsGrant fab ic dtOff yoyos twins xfifos resets faultQ wdogs doms cores l2s sc dram sram epoch engEpoch calib sage engines clusters movers cells tyl synt macs strms pcies pwr mari wakeL jtag bist verdict lanePll} (h8 : dram.mem = u.dram.mem) (h9 : dram.bad = u.dram.bad) (hu : Good q u) (h : Good q s)
    (h2 : fab.ferr = s.fab.ferr) (h5 : sram.mem = s.sram.mem) (h6 : sram.bad = s.sram.bad) (h7 : sram.zeroed = s.sram.zeroed) :
    Good q (State.mk s.pending freeCtr dt s.regs clsGrant fab ic dtOff yoyos twins xfifos resets faultQ s.faultLog wdogs doms cores l2s sc dram sram epoch engEpoch s.eeprom calib sage engines clusters movers cells tyl synt macs strms pcies pwr mari wakeL jtag bist verdict lanePll) := by
  have g : Good q { s with dram := u.dram } := { h with dram := hu.dram, dbad := hu.dbad }
  exact good_upd g rfl h2 rfl rfl h5 h6 h7 h8 h9 rfl

/-- The same where registers change and stay canonical. -/
theorem good_mkR {regs : SMap Reg32} {freeCtr dt clsGrant fab ic dtOff yoyos twins xfifos resets faultQ wdogs doms cores l2s sc dram sram epoch engEpoch calib sage engines clusters movers cells tyl synt macs strms pcies pwr mari wakeL jtag bist verdict lanePll} (hr : SMap.wfF regResetAt regs = true) (h : Good q s)
    (h2 : fab.ferr = s.fab.ferr) (h5 : sram.mem = s.sram.mem) (h6 : sram.bad = s.sram.bad) (h7 : sram.zeroed = s.sram.zeroed)
    (h8 : dram.mem = s.dram.mem) (h9 : dram.bad = s.dram.bad) : Good q (State.mk s.pending freeCtr dt regs clsGrant fab ic dtOff yoyos twins xfifos resets faultQ s.faultLog wdogs doms cores l2s sc dram sram epoch engEpoch s.eeprom calib sage engines clusters movers cells tyl synt macs strms pcies pwr mari wakeL jtag bist verdict lanePll) :=
  good_upd (good_regs h hr) rfl h2 rfl rfl h5 h6 h7 h8 h9 rfl

/-- A change of the fabric that keeps the bound of its error log. -/
theorem good_fab (h : Good q s) {f : Fab} (hf : f.ferr.length ≤ 32) : Good q { s with fab := f } := { h with ferr := hf }

/-- A change of the fault log that keeps its bound. -/
theorem good_flog (h : Good q s) {l : List FltEntry} (hl : l.length ≤ 16) : Good q { s with faultLog := l } := { h with flog := hl }

/-! ## Shapes of results -/

/-- Of an optional state. -/
def GoodO (q : List Instr) : Option State → Prop
  | none => True
  | some s => Good q s

/-- Of what a command answers. -/
def GoodR (q : List Instr) : Result → Prop
  | .next s => Good q s
  | .fault _ => True
  | .refused _ => True

theorem goodR_next (h : Good q s) : GoodR q (.next s) := h
theorem goodO_some (h : Good q s) : GoodO q (some s) := h
theorem goodO_none : GoodO q none := trivial
theorem goodO_of {o : Option State} (h : GoodO q o) (e : o = some s) : Good q s := by subst e; exact h
theorem goodO_getD {o : Option State} (h : GoodO q o) (hs : Good q s) : Good q (o.getD s) := by cases o <;> assumption
theorem goodR_of {r : Result} (h : GoodR q r) (e : r = .next s) : Good q s := by subst e; exact h

/-- Of an optional pair that starts with a state. -/
def GoodOP (q : List Instr) {α : Type} : Option (State × α) → Prop
  | none => True
  | some x => Good q x.1

/-- Of an optional pair that ends with a state. -/
def GoodOQ (q : List Instr) {α : Type} : Option (α × State) → Prop
  | none => True
  | some x => Good q x.2

theorem goodOP_mapP {α β : Type} {o : Option (State × α)} {f : State × α → State × β} (h : GoodOP q o)
    (hf : ∀ x, Good q x.1 → Good q (f x).1) : GoodOP q (o.map f) := by cases o with
  | none => trivial
  | some x => exact hf x h
theorem goodO_mapP {α : Type} {o : Option (State × α)} {f : State × α → State} (h : GoodOP q o) (hf : ∀ x, Good q x.1 → Good q (f x)) :
    GoodO q (o.map f) := by cases o with
  | none => trivial
  | some x => exact hf x h
theorem goodOP_none {α : Type} : GoodOP q (none : Option (State × α)) := trivial
theorem goodOQ_none {α : Type} : GoodOQ q (none : Option (α × State)) := trivial
theorem goodOP_some {α : Type} {x : State × α} (h : Good q x.1) : GoodOP q (some x) := h
theorem goodOQ_some {α : Type} {x : α × State} (h : Good q x.2) : GoodOQ q (some x) := h
theorem goodOP_of {α : Type} {o : Option (State × α)} {a : α} (h : GoodOP q o) (e : o = some (s, a)) : Good q s := by subst e; exact h
theorem goodOQ_of {α : Type} {o : Option (α × State)} {a : α} (h : GoodOQ q o) (e : o = some (a, s)) : Good q s := by subst e; exact h
theorem goodP_of {α : Type} {x : State × α} {a : α} (h : Good q x.1) (e : x = (s, a)) : Good q s := by subst e; exact h
theorem goodQ_of {α : Type} {x : α × State} {a : α} (h : Good q x.2) (e : x = (a, s)) : Good q s := by subst e; exact h

/-! ## Steps of a proof -/

theorem good_cut {P : Prop} (h0 : Good q s) (h : Good q s → P) : P := h h0
theorem good_cutP {α : Type} {P : Prop} {x : State × α} (h0 : Good q x.1) (h : Good q x.1 → P) : P := h h0
theorem good_cutQ {α : Type} {P : Prop} {x : α × State} (h0 : Good q x.2) (h : Good q x.2 → P) : P := h h0
theorem good_cutO {P : Prop} {x : Option State} (h0 : GoodO q x) (h : GoodO q x → P) : P := h h0
theorem good_cutOP {α : Type} {P : Prop} {x : Option (State × α)} (h0 : GoodOP q x) (h : GoodOP q x → P) : P := h h0

theorem isP {α : Type} {P : Prop} {x : State × α} (h : P) : P := let _ := x; h
theorem isQ {α : Type} {P : Prop} {x : α × State} (h : P) : P := let _ := x; h
theorem isFab {P : Prop} {x : Fab} (h : P) : P := let _ := x; h
theorem isSram {P : Prop} {x : Sram} (h : P) : P := let _ := x; h
theorem isDram {P : Prop} {x : Dram} (h : P) : P := let _ := x; h
theorem isStateFun {α : Type} {P : Prop} {x : α → State} (h : P) : P := let _ := x; h
theorem isStateFun3 {α β γ : Type} {P : Prop} {x : α → β → γ → State} (h : P) : P := let _ := x; h
theorem isStateFun2 {α β : Type} {P : Prop} {x : α → β → State} (h : P) : P := let _ := x; h

theorem foldl_keep {β γ : Type} {P : γ → Prop} {f : γ → β → γ} {l : List β} {x : γ} (h : P x) (hf : ∀ x b, P x → P (f x b)) :
    P (l.foldl f x) := by
  induction l generalizing x with
  | nil => exact h
  | cons b l ih => exact ih (hf x b h)

/-- Of a state or the state in which something waits. -/
def GoodE (q : List Instr) : Except State State → Prop
  | .ok s => Good q s
  | .error s => Good q s

theorem goodE_ok (h : Good q s) : GoodE q (.ok s) := h
theorem goodE_error (h : Good q s) : GoodE q (.error s) := h
theorem goodE_ok_of {x : Except State State} (e : x = .ok s) (h : GoodE q x) : Good q s := by subst e; exact h
theorem goodE_error_of {x : Except State State} (e : x = .error s) (h : GoodE q x) : Good q s := by subst e; exact h
theorem goodE_cut {P : Prop} {x : Except State State} (h0 : GoodE q x) (h : GoodE q x → P) : P := h h0
theorem goodE_fun {α : Type} {P : Prop} {x : α → Except State State} (h : P) : P := let _ := x; h
theorem goodE_fun2 {α β : Type} {P : Prop} {x : α → β → Except State State} (h : P) : P := let _ := x; h

/-- The same with something beside the state. -/
def GoodEP (q : List Instr) {α : Type} : Except State (State × α) → Prop
  | .ok x => Good q x.1
  | .error s => Good q s

theorem goodEP_ok {α : Type} {x : State × α} (h : Good q x.1) : GoodEP q (.ok x) := h
theorem goodEP_error {α : Type} (h : Good q s) : GoodEP q (.error s : Except State (State × α)) := h
theorem goodEP_ok_of {α : Type} {x : Except State (State × α)} {a : α} (e : x = .ok (s, a)) (h : GoodEP q x) : Good q s := by
  subst e; exact h
theorem goodEP_error_of {α : Type} {x : Except State (State × α)} (e : x = .error s) (h : GoodEP q x) : Good q s := by subst e; exact h
theorem goodEP_cut {α : Type} {P : Prop} {x : Except State (State × α)} (h0 : GoodEP q x) (h : GoodEP q x → P) : P := h h0

theorem goodEbind {x : Except State State} {f : State → Except State State} (h : GoodE q x) (hf : ∀ s, Good q s → GoodE q (f s)) :
    GoodE q (x.bind f) := by
  cases x with
  | ok s => exact hf s h
  | error s => exact h

theorem goodEmap {x : Except State State} {f : State → State} (h : GoodE q x) (hf : ∀ s, Good q s → Good q (f s)) :
    GoodE q (x.map f) := by
  cases x with
  | ok s => exact hf s h
  | error s => exact h

theorem goodEPmap {α β : Type} {x : Except State (State × α)} {f : State × α → State × β} (h : GoodEP q x)
    (hf : ∀ y, Good q y.1 → Good q (f y).1) : GoodEP q (x.map f) := by
  cases x with
  | ok y => exact hf y h
  | error s => exact h

theorem goodEPmapE {α : Type} {x : Except State State} {f : State → State × α} (h : GoodE q x) (hf : ∀ s, Good q s → Good q (f s).1) :
    GoodEP q (x.map f) := by
  cases x with
  | ok s => exact hf s h
  | error s => exact h

theorem goodEfoldl {β : Type} {f : Except State State → β → Except State State} {l : List β} {x : Except State State} (h : GoodE q x)
    (hf : ∀ x b, GoodE q x → GoodE q (f x b)) : GoodE q (l.foldl f x) := foldl_keep h hf

theorem good_foldl {β : Type} {f : State → β → State} {l : List β} (h : Good q s) (hf : ∀ s b, Good q s → Good q (f s b)) :
    Good q (l.foldl f s) := by
  induction l generalizing s with
  | nil => exact h
  | cons b l ih => exact ih (hf s b h)

theorem goodO_foldl {β : Type} {f : Option State → β → Option State} {l : List β} {o : Option State} (h : GoodO q o)
    (hf : ∀ o b, GoodO q o → GoodO q (f o b)) : GoodO q (l.foldl f o) := by
  induction l generalizing o with
  | nil => exact h
  | cons b l ih => exact ih (hf o b h)

theorem goodO_bind {o : Option State} {f : State → Option State} (h : GoodO q o) (hf : ∀ s, Good q s → GoodO q (f s)) :
    GoodO q (o.bind f) := by
  cases o with
  | none => trivial
  | some s => exact hf s h

theorem goodO_map {o : Option State} {f : State → State} (h : GoodO q o) (hf : ∀ s, Good q s → Good q (f s)) :
    GoodO q (o.map f) := by
  cases o with
  | none => trivial
  | some s => exact hf s h

theorem goodO_mapFst {α : Type} {o : Option (State × α)} (h : GoodOP q o) : GoodO q (o.map Prod.fst) := by
  cases o with
  | none => trivial
  | some s => exact h

theorem iteP {α : Type} (P : α → Prop) {c : Prop} [Decidable c] {a b : α} (ha : P a) (hb : P b) : P (if c then a else b) := by
  split <;> assumption

theorem goodOP_map {α : Type} {o : Option State} {f : State → State × α} (h : GoodO q o) (hf : ∀ s, Good q s → Good q (f s).1) :
    GoodOP q (o.map f) := by
  cases o with
  | none => trivial
  | some s => exact hf s h

theorem good_foldlP {β α : Type} {f : State × α → β → State × α} {l : List β} {x : State × α} (h : Good q x.1)
    (hf : ∀ x b, Good q x.1 → Good q (f x b).1) : Good q (l.foldl f x).1 := by
  induction l generalizing x with
  | nil => exact h
  | cons b l ih => exact ih (hf x b h)

theorem good_ite {c : Prop} [Decidable c] (h : c → Good q s) (h' : ¬c → Good q t) : Good q (if c then s else t) := by
  split
  · exact h ‹_›
  · exact h' ‹_›

end Sys2Proof.Machine
end

