-- ==== Sys2Proof/Laws/KeepOps.lean ====
section
/-!
SUPPORT. Laws/KeepOps.lean: every operation of Machine/Ops.lean keeps the queue and the invariant.
-/

namespace Sys2Proof.Machine

theorem freeVal_good {qq : List Instr} {w : Nat} {s : State} (h1 : Good qq s) :
    Good qq (freeVal w s).2 := by
  delta freeVal
  repeat' first
    | with_reducible assumption
    | with_reducible intro _
    | (extract_lets -underBinder +onlyGivenNames x; first | (refine good_cut (q := qq) (s := x) ?_ ?_; (on_goal 1 => subst x); (on_goal 2 => (intro _; clear_value x))) | clear_value x | subst x)
    | with_reducible exact good_mk (by with_reducible assumption) rfl rfl rfl rfl rfl rfl

theorem wr_good {qq : List Instr} {s : State} {p : Page} {off : Nat} {v : Reg32} (h1 : Good qq s) :
    Good qq (wr s p off v) := by
  exact good_regs h1 (SMap.wfF_setF h1.regs _ _)

theorem wrF_good {qq : List Instr} {s : State} {p : Page} {off lo n x : Nat} (h1 : Good qq s) :
    Good qq (wrF s p off lo n x) := by
  delta wrF
  repeat' first
    | with_reducible assumption
    | with_reducible intro _
    | with_reducible refine wr_good ?_

theorem wrB_good {qq : List Instr} {s : State} {p : Page} {off i : Nat} {x : Bool} (h1 : Good qq s) :
    Good qq (wrB s p off i x) := by
  delta wrB
  repeat' first
    | with_reducible assumption
    | with_reducible intro _
    | with_reducible refine wrF_good ?_

theorem bumpF_good {qq : List Instr} {s : State} {p : Page} {off lo n k : Nat} (h1 : Good qq s) :
    Good qq (bumpF s p off lo n k) := by
  delta bumpF
  repeat' first
    | with_reducible assumption
    | with_reducible intro _
    | with_reducible refine wrF_good ?_

theorem resetPage_good {qq : List Instr} {s : State} {p : Page} {keep : Nat → Bool} (h1 : Good qq s) :
    Good qq (resetPage s p keep) := by
  exact good_regs h1 (SMap.wfF_drop h1.regs _)

theorem sendMsg_good {qq : List Instr} {s : State} {p : Page} {src : Nat} {k : MsgKind} (h1 : Good qq s) :
    Good qq (sendMsg s p src k) := by
  delta sendMsg
  repeat' first
    | with_reducible assumption
    | with_reducible intro _
    | (extract_lets -underBinder +onlyGivenNames x; first | (refine good_cut (q := qq) (s := x) ?_ ?_; (on_goal 1 => subst x); (on_goal 2 => (intro _; clear_value x))) | clear_value x | subst x)
    | with_reducible exact good_mk (by with_reducible assumption) rfl rfl rfl rfl rfl rfl

theorem p0Falls_good {qq : List Instr} {s : State} {z0 : Page} (h1 : Good qq s) :
    Good qq (p0Falls s z0) := by
  delta p0Falls
  repeat' first
    | with_reducible assumption
    | with_reducible intro _
    | (extract_lets -underBinder +onlyGivenNames x; first | (refine good_cut (q := qq) (s := x) ?_ ?_; (on_goal 1 => subst x); (on_goal 2 => (intro _; clear_value x))) | (refine good_cutO (q := qq) (x := x) ?_ ?_; (on_goal 1 => subst x); (on_goal 2 => (intro _; clear_value x))) | (refine isP (x := x) ?_; subst x) | (refine isQ (x := x) ?_; subst x) | (refine isFab (x := x) ?_; subst x) | (refine isSram (x := x) ?_; subst x) | (refine isDram (x := x) ?_; subst x) | (refine isStateFun (x := x) ?_; subst x) | (refine isStateFun2 (x := x) ?_; subst x) | clear_value x | subst x)
    | with_reducible refine goodR_next ?_
    | with_reducible refine goodO_some ?_
    | with_reducible exact goodO_none
    | with_reducible refine goodO_of ?_ (by with_reducible assumption)
    | with_reducible refine goodP_of ?_ (by with_reducible assumption)
    | with_reducible refine goodQ_of ?_ (by with_reducible assumption)
    | with_reducible refine goodR_of ?_ (by with_reducible assumption)
    | with_reducible exact good_mk (by with_reducible assumption) rfl rfl rfl rfl rfl rfl
    | dsimp -zeta only
    | with_reducible split

theorem withLine_good {qq : List Instr} {p : Page} {f : State → State} {s : State} (h1 : ∀ a0, Good qq a0 → Good qq (f a0)) (h2 : Good qq s) :
    Good qq (withLine p f s) := by
  delta withLine
  repeat' first
    | with_reducible assumption
    | with_reducible intro _
    | (extract_lets -underBinder +onlyGivenNames x; first | (refine good_cut (q := qq) (s := x) ?_ ?_; (on_goal 1 => subst x); (on_goal 2 => (intro _; clear_value x))) | (refine good_cutO (q := qq) (x := x) ?_ ?_; (on_goal 1 => subst x); (on_goal 2 => (intro _; clear_value x))) | (refine isP (x := x) ?_; subst x) | (refine isQ (x := x) ?_; subst x) | (refine isFab (x := x) ?_; subst x) | (refine isSram (x := x) ?_; subst x) | (refine isDram (x := x) ?_; subst x) | (refine isStateFun (x := x) ?_; subst x) | (refine isStateFun2 (x := x) ?_; subst x) | clear_value x | subst x)
    | with_reducible refine h1 _ ?_
    | with_reducible refine goodR_next ?_
    | with_reducible refine goodO_some ?_
    | with_reducible exact goodO_none
    | with_reducible refine sendMsg_good ?_
    | with_reducible refine p0Falls_good ?_
    | with_reducible refine goodO_of ?_ (by with_reducible assumption)
    | with_reducible refine goodP_of ?_ (by with_reducible assumption)
    | with_reducible refine goodQ_of ?_ (by with_reducible assumption)
    | with_reducible refine goodR_of ?_ (by with_reducible assumption)
    | with_reducible exact good_mk (by with_reducible assumption) rfl rfl rfl rfl rfl rfl
    | dsimp -zeta only
    | with_reducible split

theorem setIrq_good {qq : List Instr} {s : State} {p : Page} {mask : Nat} (h1 : Good qq s) :
    Good qq (setIrq s p mask) := by
  delta setIrq
  repeat' first
    | with_reducible assumption
    | with_reducible intro _
    | (extract_lets -underBinder +onlyGivenNames x; first | (refine good_cut (q := qq) (s := x) ?_ ?_; (on_goal 1 => subst x); (on_goal 2 => (intro _; clear_value x))) | (refine isStateFun (x := x) ?_; subst x) | (refine isStateFun2 (x := x) ?_; subst x) | clear_value x | subst x)
    | with_reducible refine withLine_good ?_ ?_
    | with_reducible refine wr_good ?_
    | with_reducible split

theorem settleCrossings_good {qq : List Instr} {s : State} {a : Nat} {b : Nat} (h1 : Good qq s) :
    Good qq (settleCrossings s a b) := by
  delta settleCrossings
  repeat' first
    | with_reducible assumption
    | with_reducible intro _
    | (extract_lets -underBinder +onlyGivenNames x; first | (refine good_cut (q := qq) (s := x) ?_ ?_; (on_goal 1 => subst x); (on_goal 2 => (intro _; clear_value x))) | (refine good_cutO (q := qq) (x := x) ?_ ?_; (on_goal 1 => subst x); (on_goal 2 => (intro _; clear_value x))) | (refine isP (x := x) ?_; subst x) | (refine isQ (x := x) ?_; subst x) | (refine isFab (x := x) ?_; subst x) | (refine isSram (x := x) ?_; subst x) | (refine isDram (x := x) ?_; subst x) | (refine isStateFun (x := x) ?_; subst x) | (refine isStateFun2 (x := x) ?_; subst x) | clear_value x | subst x)
    | with_reducible refine goodR_next ?_
    | with_reducible refine goodO_some ?_
    | with_reducible exact goodO_none
    | with_reducible refine goodO_map ?_ ?_
    | with_reducible refine goodOP_mapP ?_ ?_
    | with_reducible refine goodOP_map ?_ ?_
    | with_reducible refine goodO_mapP ?_ ?_
    | with_reducible refine goodO_of ?_ (by with_reducible assumption)
    | with_reducible refine goodP_of ?_ (by with_reducible assumption)
    | with_reducible refine goodQ_of ?_ (by with_reducible assumption)
    | with_reducible refine goodR_of ?_ (by with_reducible assumption)
    | with_reducible exact good_mk (by with_reducible assumption) rfl rfl rfl rfl rfl rfl

theorem pmuAdd_good {qq : List Instr} {s : State} {n : Fin 24} {off : Nat} {i : Nat} {k : Nat} (h1 : Good qq s) :
    Good qq (pmuAdd s n off i k) := by
  delta pmuAdd
  repeat' first
    | with_reducible assumption
    | with_reducible intro _
    | (extract_lets -underBinder +onlyGivenNames x; first | (refine good_cut (q := qq) (s := x) ?_ ?_; (on_goal 1 => subst x); (on_goal 2 => (intro _; clear_value x))) | (refine good_cutO (q := qq) (x := x) ?_ ?_; (on_goal 1 => subst x); (on_goal 2 => (intro _; clear_value x))) | (refine isP (x := x) ?_; subst x) | (refine isQ (x := x) ?_; subst x) | (refine isFab (x := x) ?_; subst x) | (refine isSram (x := x) ?_; subst x) | (refine isDram (x := x) ?_; subst x) | (refine isStateFun (x := x) ?_; subst x) | (refine isStateFun2 (x := x) ?_; subst x) | clear_value x | subst x)
    | with_reducible refine goodR_next ?_
    | with_reducible refine goodO_some ?_
    | with_reducible exact goodO_none
    | with_reducible refine wr_good ?_
    | with_reducible refine setIrq_good ?_
    | with_reducible refine goodO_of ?_ (by with_reducible assumption)
    | with_reducible refine goodP_of ?_ (by with_reducible assumption)
    | with_reducible refine goodQ_of ?_ (by with_reducible assumption)
    | with_reducible refine goodR_of ?_ (by with_reducible assumption)
    | with_reducible exact good_mk (by with_reducible assumption) rfl rfl rfl rfl rfl rfl
    | dsimp -zeta only
    | with_reducible split

theorem pmuCount_good {qq : List Instr} {l : Nat} {n : Fin 24} {k : Nat} {s : State} {ev : Nat} (h1 : Good qq s) :
    Good qq (pmuCount l n k s ev) := by
  delta pmuCount
  repeat' first
    | with_reducible assumption
    | with_reducible intro _
    | (extract_lets -underBinder +onlyGivenNames x; first | (refine good_cut (q := qq) (s := x) ?_ ?_; (on_goal 1 => subst x); (on_goal 2 => (intro _; clear_value x))) | (refine good_cutO (q := qq) (x := x) ?_ ?_; (on_goal 1 => subst x); (on_goal 2 => (intro _; clear_value x))) | (refine isP (x := x) ?_; subst x) | (refine isQ (x := x) ?_; subst x) | (refine isFab (x := x) ?_; subst x) | (refine isSram (x := x) ?_; subst x) | (refine isDram (x := x) ?_; subst x) | (refine isStateFun (x := x) ?_; subst x) | (refine isStateFun2 (x := x) ?_; subst x) | clear_value x | subst x)
    | with_reducible refine goodR_next ?_
    | with_reducible refine goodO_some ?_
    | with_reducible exact goodO_none
    | with_reducible refine pmuAdd_good ?_
    | with_reducible refine good_foldl ?_ ?_
    | with_reducible refine good_foldlP ?_ ?_
    | with_reducible refine goodO_foldl ?_ ?_
    | with_reducible refine goodO_of ?_ (by with_reducible assumption)
    | with_reducible refine goodP_of ?_ (by with_reducible assumption)
    | with_reducible refine goodQ_of ?_ (by with_reducible assumption)
    | with_reducible refine goodR_of ?_ (by with_reducible assumption)
    | with_reducible exact good_mk (by with_reducible assumption) rfl rfl rfl rfl rfl rfl
    | dsimp -zeta only
    | with_reducible split

theorem pmuCycles_good {qq : List Instr} {n : Fin 24} {l : Nat} {k : Nat} {r : Nat} {s : State} (h1 : Good qq s) :
    Good qq (pmuCycles n l k r s) := by
  delta pmuCycles
  repeat' first
    | with_reducible assumption
    | with_reducible intro _
    | (extract_lets -underBinder +onlyGivenNames x; first | (refine good_cut (q := qq) (s := x) ?_ ?_; (on_goal 1 => subst x); (on_goal 2 => (intro _; clear_value x))) | (refine good_cutO (q := qq) (x := x) ?_ ?_; (on_goal 1 => subst x); (on_goal 2 => (intro _; clear_value x))) | (refine isP (x := x) ?_; subst x) | (refine isQ (x := x) ?_; subst x) | (refine isFab (x := x) ?_; subst x) | (refine isSram (x := x) ?_; subst x) | (refine isDram (x := x) ?_; subst x) | (refine isStateFun (x := x) ?_; subst x) | (refine isStateFun2 (x := x) ?_; subst x) | clear_value x | subst x)
    | with_reducible refine goodR_next ?_
    | with_reducible refine goodO_some ?_
    | with_reducible exact goodO_none
    | with_reducible refine pmuAdd_good ?_
    | with_reducible refine pmuCount_good ?_
    | with_reducible refine goodO_of ?_ (by with_reducible assumption)
    | with_reducible refine goodP_of ?_ (by with_reducible assumption)
    | with_reducible refine goodQ_of ?_ (by with_reducible assumption)
    | with_reducible refine goodR_of ?_ (by with_reducible assumption)
    | with_reducible exact good_mk (by with_reducible assumption) rfl rfl rfl rfl rfl rfl
    | dsimp -zeta only
    | with_reducible split

theorem coreCycles_good {qq : List Instr} {a : Nat} {b : Nat} {s : State} {e : Nat × CoreRec} (h1 : Good qq s) :
    Good qq (coreCycles a b s e) := by
  delta coreCycles
  repeat' first
    | with_reducible assumption
    | with_reducible intro _
    | (extract_lets -underBinder +onlyGivenNames x; first | (refine good_cut (q := qq) (s := x) ?_ ?_; (on_goal 1 => subst x); (on_goal 2 => (intro _; clear_value x))) | (refine good_cutO (q := qq) (x := x) ?_ ?_; (on_goal 1 => subst x); (on_goal 2 => (intro _; clear_value x))) | (refine isP (x := x) ?_; subst x) | (refine isQ (x := x) ?_; subst x) | (refine isFab (x := x) ?_; subst x) | (refine isSram (x := x) ?_; subst x) | (refine isDram (x := x) ?_; subst x) | (refine isStateFun (x := x) ?_; subst x) | (refine isStateFun2 (x := x) ?_; subst x) | clear_value x | subst x)
    | with_reducible refine goodR_next ?_
    | with_reducible refine goodO_some ?_
    | with_reducible exact goodO_none
    | with_reducible refine pmuCycles_good ?_
    | with_reducible refine goodO_of ?_ (by with_reducible assumption)
    | with_reducible refine goodP_of ?_ (by with_reducible assumption)
    | with_reducible refine goodQ_of ?_ (by with_reducible assumption)
    | with_reducible refine goodR_of ?_ (by with_reducible assumption)
    | with_reducible exact good_mk (by with_reducible assumption) rfl rfl rfl rfl rfl rfl
    | dsimp -zeta only
    | with_reducible split

theorem confCount_good {qq : List Instr} {s : State} {m : Nat} {b : Nat} {k : Nat} (h1 : Good qq s) :
    Good qq (confCount s m b k) := by
  delta confCount
  repeat' first
    | with_reducible assumption
    | with_reducible intro _
    | (extract_lets -underBinder +onlyGivenNames x; first | (refine good_cut (q := qq) (s := x) ?_ ?_; (on_goal 1 => subst x); (on_goal 2 => (intro _; clear_value x))) | (refine good_cutO (q := qq) (x := x) ?_ ?_; (on_goal 1 => subst x); (on_goal 2 => (intro _; clear_value x))) | (refine isP (x := x) ?_; subst x) | (refine isQ (x := x) ?_; subst x) | (refine isFab (x := x) ?_; subst x) | (refine isSram (x := x) ?_; subst x) | (refine isDram (x := x) ?_; subst x) | (refine isStateFun (x := x) ?_; subst x) | (refine isStateFun2 (x := x) ?_; subst x) | clear_value x | subst x)
    | with_reducible refine goodR_next ?_
    | with_reducible refine goodO_some ?_
    | with_reducible exact goodO_none
    | with_reducible refine bumpF_good ?_
    | with_reducible refine good_foldl ?_ ?_
    | with_reducible refine good_foldlP ?_ ?_
    | with_reducible refine goodO_foldl ?_ ?_
    | with_reducible refine goodEfoldl ?_ ?_
    | with_reducible refine goodO_of ?_ (by with_reducible assumption)
    | with_reducible refine goodP_of ?_ (by with_reducible assumption)
    | with_reducible refine goodQ_of ?_ (by with_reducible assumption)
    | with_reducible refine goodR_of ?_ (by with_reducible assumption)
    | with_reducible exact good_mk (by with_reducible assumption) rfl rfl rfl rfl rfl rfl
    | with_reducible exact good_mkB rfl (by with_reducible assumption) rfl rfl rfl rfl rfl
    | dsimp -zeta only
    | with_reducible split

theorem portCycles_good {qq : List Instr} {a : Nat} {b : Nat} {s : State} {w : PortWait} (h1 : Good qq s) :
    Good qq (portCycles a b s w) := by
  delta portCycles
  repeat' first
    | with_reducible assumption
    | with_reducible intro _
    | (extract_lets -underBinder +onlyGivenNames x; first | (refine good_cut (q := qq) (s := x) ?_ ?_; (on_goal 1 => subst x); (on_goal 2 => (intro _; clear_value x))) | (refine good_cutO (q := qq) (x := x) ?_ ?_; (on_goal 1 => subst x); (on_goal 2 => (intro _; clear_value x))) | (refine isP (x := x) ?_; subst x) | (refine isQ (x := x) ?_; subst x) | (refine isFab (x := x) ?_; subst x) | (refine isSram (x := x) ?_; subst x) | (refine isDram (x := x) ?_; subst x) | (refine isStateFun (x := x) ?_; subst x) | (refine isStateFun2 (x := x) ?_; subst x) | clear_value x | subst x)
    | with_reducible refine goodR_next ?_
    | with_reducible refine goodO_some ?_
    | with_reducible exact goodO_none
    | with_reducible refine confCount_good ?_

theorem advanceTo_good {qq : List Instr} {s : State} {t : Nat} (h1 : Good qq s) :
    Good qq (advanceTo s t) := by
  delta advanceTo
  repeat' first
    | with_reducible assumption
    | with_reducible intro _
    | (extract_lets -underBinder +onlyGivenNames x; first | (refine good_cut (q := qq) (s := x) ?_ ?_; (on_goal 1 => subst x); (on_goal 2 => (intro _; clear_value x))) | (refine good_cutO (q := qq) (x := x) ?_ ?_; (on_goal 1 => subst x); (on_goal 2 => (intro _; clear_value x))) | (refine isP (x := x) ?_; subst x) | (refine isQ (x := x) ?_; subst x) | (refine isFab (x := x) ?_; subst x) | (refine isSram (x := x) ?_; subst x) | (refine isDram (x := x) ?_; subst x) | (refine isStateFun (x := x) ?_; subst x) | (refine isStateFun2 (x := x) ?_; subst x) | clear_value x | subst x)
    | with_reducible refine goodR_next ?_
    | with_reducible refine goodO_some ?_
    | with_reducible exact goodO_none
    | with_reducible refine settleCrossings_good ?_
    | with_reducible refine coreCycles_good ?_
    | with_reducible refine portCycles_good ?_
    | with_reducible refine good_foldl ?_ ?_
    | with_reducible refine good_foldlP ?_ ?_
    | with_reducible refine goodO_foldl ?_ ?_
    | with_reducible refine goodO_map ?_ ?_
    | with_reducible refine goodOP_mapP ?_ ?_
    | with_reducible refine goodOP_map ?_ ?_
    | with_reducible refine goodO_mapP ?_ ?_
    | with_reducible refine goodEmap ?_ ?_
    | with_reducible refine goodEPmap ?_ ?_
    | with_reducible refine goodEfoldl ?_ ?_
    | with_reducible refine goodO_of ?_ (by with_reducible assumption)
    | with_reducible refine goodP_of ?_ (by with_reducible assumption)
    | with_reducible refine goodQ_of ?_ (by with_reducible assumption)
    | with_reducible refine goodR_of ?_ (by with_reducible assumption)
    | with_reducible exact good_mk (by with_reducible assumption) rfl rfl rfl rfl rfl rfl
    | dsimp -zeta only
    | with_reducible split

theorem idleTick_good {qq : List Instr} {s : State} (h1 : Good qq s) :
    Good qq (idleTick s) := by
  delta idleTick
  repeat' first
    | with_reducible assumption
    | with_reducible intro _
    | (extract_lets -underBinder +onlyGivenNames x; first | (refine good_cut (q := qq) (s := x) ?_ ?_; (on_goal 1 => subst x); (on_goal 2 => (intro _; clear_value x))) | (refine good_cutO (q := qq) (x := x) ?_ ?_; (on_goal 1 => subst x); (on_goal 2 => (intro _; clear_value x))) | (refine isP (x := x) ?_; subst x) | (refine isQ (x := x) ?_; subst x) | (refine isFab (x := x) ?_; subst x) | (refine isSram (x := x) ?_; subst x) | (refine isDram (x := x) ?_; subst x) | (refine isStateFun (x := x) ?_; subst x) | (refine isStateFun2 (x := x) ?_; subst x) | clear_value x | subst x)
    | with_reducible refine goodR_next ?_
    | with_reducible refine goodO_some ?_
    | with_reducible exact goodO_none
    | with_reducible refine advanceTo_good ?_
    | with_reducible refine goodO_of ?_ (by with_reducible assumption)
    | with_reducible refine goodP_of ?_ (by with_reducible assumption)
    | with_reducible refine goodQ_of ?_ (by with_reducible assumption)
    | with_reducible refine goodR_of ?_ (by with_reducible assumption)
    | with_reducible exact good_mk (by with_reducible assumption) rfl rfl rfl rfl rfl rfl
    | dsimp -zeta only
    | with_reducible split

theorem recordErr_good {qq : List Instr} {s : State} {p : Page} {code cls : Nat} {a : Attr} {detail did : Nat} {scuOwn : Bool} (h1 : Good qq s) :
    Good qq (recordErr s p code cls a detail did scuOwn) := by
  delta recordErr
  repeat' first
    | with_reducible assumption
    | with_reducible intro _
    | (extract_lets -underBinder +onlyGivenNames x; first | (refine good_cut (q := qq) (s := x) ?_ ?_; (on_goal 1 => subst x); (on_goal 2 => (intro _; clear_value x))) | clear_value x | subst x)
    | with_reducible refine bumpF_good ?_
    | with_reducible refine wrB_good ?_
    | with_reducible refine wr_good ?_
    | with_reducible refine setIrq_good ?_
    | with_reducible exact good_mk (by with_reducible assumption) rfl rfl rfl rfl rfl rfl
    | with_reducible split

theorem logFault_good {qq : List Instr} {s : State} {m : FaultMsg} {action : Nat} (h1 : Good qq s) :
    Good qq (logFault s m action) := by
  unfold logFault
  split
  · extract_lets e
    clear_value e
    with_reducible refine setIrq_good ?_
    refine good_flog (s := s) h1 ?_
    rw [List.length_append]
    exact Nat.succ_le_of_lt ‹_›
  · exact wrB_good h1

theorem logArrived_good {qq : List Instr} {s : State} {k : Nat} (h1 : Good qq s) :
    Good qq (logArrived s k) := by
  delta logArrived
  repeat' first
    | with_reducible assumption
    | with_reducible intro _
    | (extract_lets -underBinder +onlyGivenNames x; first | (refine good_cut (q := qq) (s := x) ?_ ?_; (on_goal 1 => subst x); (on_goal 2 => (intro _; clear_value x))) | (refine good_cutO (q := qq) (x := x) ?_ ?_; (on_goal 1 => subst x); (on_goal 2 => (intro _; clear_value x))) | (refine isP (x := x) ?_; subst x) | (refine isQ (x := x) ?_; subst x) | (refine isFab (x := x) ?_; subst x) | (refine isSram (x := x) ?_; subst x) | (refine isDram (x := x) ?_; subst x) | (refine isStateFun (x := x) ?_; subst x) | (refine isStateFun2 (x := x) ?_; subst x) | clear_value x | subst x)
    | with_reducible refine goodR_next ?_
    | with_reducible refine goodO_some ?_
    | with_reducible exact goodO_none
    | with_reducible refine logFault_good ?_
    | with_reducible refine good_foldl ?_ ?_
    | with_reducible refine good_foldlP ?_ ?_
    | with_reducible refine goodO_foldl ?_ ?_
    | with_reducible refine goodO_map ?_ ?_
    | with_reducible refine goodOP_mapP ?_ ?_
    | with_reducible refine goodOP_map ?_ ?_
    | with_reducible refine goodO_mapP ?_ ?_
    | with_reducible refine goodEmap ?_ ?_
    | with_reducible refine goodEPmap ?_ ?_
    | with_reducible refine goodEfoldl ?_ ?_
    | with_reducible refine goodO_of ?_ (by with_reducible assumption)
    | with_reducible refine goodP_of ?_ (by with_reducible assumption)
    | with_reducible refine goodQ_of ?_ (by with_reducible assumption)
    | with_reducible refine goodR_of ?_ (by with_reducible assumption)
    | with_reducible exact good_mk (by with_reducible assumption) rfl rfl rfl rfl rfl rfl

theorem recCorrected_good {qq : List Instr} {s : State} {p : Page} {code : Nat} {a : Attr} {detail : Nat} (h1 : Good qq s) :
    Good qq (recCorrected s p code a detail) := by
  delta recCorrected
  repeat' first
    | with_reducible assumption
    | with_reducible intro _
    | with_reducible refine recordErr_good ?_

theorem recInternal_good {qq : List Instr} {s : State} {p : Page} {code detail : Nat} (h1 : Good qq s) :
    Good qq (recInternal s p code detail) := by
  delta recInternal
  repeat' first
    | with_reducible assumption
    | with_reducible intro _
    | with_reducible refine recordErr_good ?_

theorem recContained_good {qq : List Instr} {s : State} {p : Page} {code detail : Nat} (h1 : Good qq s) :
    Good qq (recContained s p code detail) := by
  delta recContained
  repeat' first
    | with_reducible assumption
    | with_reducible intro _
    | with_reducible refine recordErr_good ?_

theorem recFatal_good {qq : List Instr} {s : State} {p : Page} {code detail : Nat} (h1 : Good qq s) :
    Good qq (recFatal s p code detail) := by
  delta recFatal
  repeat' first
    | with_reducible assumption
    | with_reducible intro _
    | with_reducible refine recordErr_good ?_

theorem recUnstated_good {qq : List Instr} {s : State} {p : Page} {cls : Nat} {scuOwn : Bool} (h1 : Good qq s) :
    Good qq (recUnstated s p cls scuOwn) := by
  delta recUnstated
  repeat' first
    | with_reducible assumption
    | with_reducible intro _
    | (extract_lets -underBinder +onlyGivenNames x; first | (refine good_cut (q := qq) (s := x) ?_ ?_; (on_goal 1 => subst x); (on_goal 2 => (intro _; clear_value x))) | (refine good_cutO (q := qq) (x := x) ?_ ?_; (on_goal 1 => subst x); (on_goal 2 => (intro _; clear_value x))) | (refine isP (x := x) ?_; subst x) | (refine isQ (x := x) ?_; subst x) | (refine isFab (x := x) ?_; subst x) | (refine isSram (x := x) ?_; subst x) | (refine isDram (x := x) ?_; subst x) | (refine isStateFun (x := x) ?_; subst x) | (refine isStateFun2 (x := x) ?_; subst x) | clear_value x | subst x)
    | with_reducible refine goodR_next ?_
    | with_reducible refine goodO_some ?_
    | with_reducible exact goodO_none
    | with_reducible refine freeVal_good ?_
    | with_reducible refine recordErr_good ?_
    | with_reducible refine goodO_of ?_ (by with_reducible assumption)
    | with_reducible refine goodP_of ?_ (by with_reducible assumption)
    | with_reducible refine goodQ_of ?_ (by with_reducible assumption)
    | with_reducible refine goodR_of ?_ (by with_reducible assumption)
    | with_reducible exact good_mk (by with_reducible assumption) rfl rfl rfl rfl rfl rfl
    | dsimp -zeta only
    | with_reducible split

theorem ferrLog_good {qq : List Instr} {s : State} {m : Master} {a : Attr} {op : ReqOp} {addr : Nat} {k : Kind} (h1 : Good qq s) :
    Good qq (ferrLog s m a op addr k) := by
  unfold ferrLog
  split
  · extract_lets e
    clear_value e
    with_reducible refine setIrq_good ?_
    refine good_fab (s := s) h1 ?_
    rw [List.length_append]
    exact Nat.succ_le_of_lt ‹_›
  · exact wrB_good (bumpF_good h1)

theorem settled_good {qq : List Instr} {z0 : Except State State} (h1 : GoodE qq z0) : Good qq (settled z0) := by
  cases z0 <;> exact h1

theorem answer_good {qq : List Instr} {s : State} {err : Bool} {data : Nat} (h1 : Good qq s) :
    Good qq (answer s err data) := by
  delta answer
  repeat' first
    | with_reducible assumption
    | with_reducible intro _
    | (extract_lets -underBinder +onlyGivenNames x; first | (refine good_cut (q := qq) (s := x) ?_ ?_; (on_goal 1 => subst x); (on_goal 2 => (intro _; clear_value x))) | (refine isFab (x := x) ?_; subst x) | clear_value x | subst x)
    | with_reducible exact good_mk (by with_reducible assumption) rfl rfl rfl rfl rfl rfl

end Sys2Proof.Machine
end

