-- ==== Sys2Proof/Laws/KeepCalib.lean ====
section
/-!
SUPPORT. Laws/KeepCalib.lean: every operation of Machine/Calib.lean keeps the queue and the invariant.
-/

namespace Sys2Proof.Machine

theorem epWrite_good {qq : List Instr} {s : State} {a : Nat} {bs : List Byte} (h1 : Good qq s) :
    Good qq (epWrite s a bs) := by
  unfold epWrite
  refine { h1 with eepr := ?_ }
  have : ∀ (l : List (Byte × Nat)) (e : SMap Byte), SMap.wf 0 e = true → SMap.wf 0 (l.foldl (fun m e => SMap.set 0 m (a + e.2) e.1) e) = true := by
    intro l
    induction l with
    | nil => exact fun _ h => h
    | cons b l ih => exact fun e h => ih _ (SMap.wf_set h _ _)
  exact this _ _ h1.eepr

theorem calPut_good {qq : List Instr} {s : State} {base size off : Nat} {bs : List Byte} {writer : Option Byte} (h1 : Good qq s) :
    Good qq (calPut s base size off bs writer) := by
  delta calPut
  repeat' first
    | with_reducible assumption
    | with_reducible intro _
    | (extract_lets -underBinder +onlyGivenNames x; first | (refine good_cut (q := qq) (s := x) ?_ ?_; (on_goal 1 => subst x); (on_goal 2 => (intro _; clear_value x))) | clear_value x | subst x)
    | with_reducible refine epWrite_good ?_
    | with_reducible split

theorem setRankByte_good {qq : List Instr} {s : State} {pr v : Nat} (h1 : Good qq s) :
    Good qq (setRankByte s pr v) := by
  delta setRankByte
  repeat' first
    | with_reducible assumption
    | with_reducible intro _
    | with_reducible refine calPut_good ?_

theorem calCopy_good {qq : List Instr} {s : State} {us : Nat} (h1 : Good qq s) :
    Good qq (calCopy s us) := by
  delta calCopy
  repeat' first
    | with_reducible assumption
    | with_reducible intro _
    | (extract_lets -underBinder +onlyGivenNames x; first | (refine good_cut (q := qq) (s := x) ?_ ?_; (on_goal 1 => subst x); (on_goal 2 => (intro _; clear_value x))) | (refine good_cutO (q := qq) (x := x) ?_ ?_; (on_goal 1 => subst x); (on_goal 2 => (intro _; clear_value x))) | (refine isP (x := x) ?_; subst x) | (refine isQ (x := x) ?_; subst x) | (refine isFab (x := x) ?_; subst x) | (refine isSram (x := x) ?_; subst x) | (refine isDram (x := x) ?_; subst x) | (refine isStateFun (x := x) ?_; subst x) | (refine isStateFun2 (x := x) ?_; subst x) | clear_value x | subst x)
    | with_reducible refine goodR_next ?_
    | with_reducible refine goodO_some ?_
    | with_reducible exact goodO_none
    | with_reducible refine wr_good ?_
    | with_reducible refine recordErr_good ?_
    | with_reducible refine recInternal_good ?_
    | with_reducible refine good_foldl ?_ ?_
    | with_reducible refine good_foldlP ?_ ?_
    | with_reducible refine goodO_foldl ?_ ?_
    | with_reducible refine goodEfoldl ?_ ?_
    | with_reducible refine goodO_of ?_ (by with_reducible assumption)
    | with_reducible refine goodP_of ?_ (by with_reducible assumption)
    | with_reducible refine goodQ_of ?_ (by with_reducible assumption)
    | with_reducible refine goodR_of ?_ (by with_reducible assumption)
    | with_reducible refine goodOP_of ?_ (by with_reducible assumption)
    | with_reducible refine goodOQ_of ?_ (by with_reducible assumption)
    | with_reducible exact good_mk (by with_reducible assumption) rfl rfl rfl rfl rfl rfl
    | dsimp -zeta only
    | with_reducible split

end Sys2Proof.Machine
end

