-- ==== Sys2Proof/Laws/KeepDram.lean ====
section
/-!
SUPPORT. Laws/KeepDram.lean: every operation of Machine/Dram.lean keeps the queue and the invariant.
-/

namespace Sys2Proof.Machine

theorem setSpare_good {qq : List Instr} {s : State} {sp v : Nat} (h1 : Good qq s) :
    Good qq (setSpare s sp v) := by
  delta setSpare
  repeat' first
    | with_reducible assumption
    | with_reducible intro _
    | with_reducible refine wrF_good ?_

theorem storeLine_good {qq : List Instr} {s : State} {pr n : Nat} {v : Line} {poison : Bool} (h1 : Good qq s) :
    Good qq (storeLine s pr n v poison) := by
  unfold storeLine
  exact { h1 with dram := SMap.wf_set h1.dram _ _, dbad := SMap.wf_set h1.dbad _ _ }

theorem sendDram_good {qq : List Instr} {s : State} {r : DReq} (h1 : Good qq s) :
    Good qq (sendDram s r) := by
  delta sendDram
  repeat' first
    | with_reducible assumption
    | with_reducible intro _
    | (extract_lets -underBinder +onlyGivenNames x; first | (refine good_cut (q := qq) (s := x) ?_ ?_; (on_goal 1 => subst x); (on_goal 2 => (intro _; clear_value x))) | (refine isDram (x := x) ?_; subst x) | clear_value x | subst x)
    | with_reducible refine goodR_next ?_
    | with_reducible exact good_mk (by with_reducible assumption) rfl rfl rfl rfl rfl rfl

theorem updDreq_good {qq : List Instr} {s : State} {id : Nat} {f : DReq → DReq} (h1 : Good qq s) :
    Good qq (updDreq s id f) := by
  delta updDreq
  repeat' first
    | with_reducible assumption
    | with_reducible intro _
    | (extract_lets -underBinder +onlyGivenNames x; first | (refine good_cut (q := qq) (s := x) ?_ ?_; (on_goal 1 => subst x); (on_goal 2 => (intro _; clear_value x))) | (refine isDram (x := x) ?_; subst x) | (refine isStateFun (x := x) ?_; subst x) | (refine isStateFun2 (x := x) ?_; subst x) | clear_value x | subst x)
    | with_reducible exact good_mk (by with_reducible assumption) rfl rfl rfl rfl rfl rfl

theorem dropDreq_good {qq : List Instr} {s : State} {id : Nat} (h1 : Good qq s) :
    Good qq (dropDreq s id) := by
  delta dropDreq
  repeat' first
    | with_reducible assumption
    | with_reducible intro _
    | (extract_lets -underBinder +onlyGivenNames x; first | (refine good_cut (q := qq) (s := x) ?_ ?_; (on_goal 1 => subst x); (on_goal 2 => (intro _; clear_value x))) | (refine isDram (x := x) ?_; subst x) | (refine isStateFun (x := x) ?_; subst x) | (refine isStateFun2 (x := x) ?_; subst x) | clear_value x | subst x)
    | with_reducible exact good_mk (by with_reducible assumption) rfl rfl rfl rfl rfl rfl

theorem updPanic_good {qq : List Instr} {s : State} {p : Nat} (h1 : Good qq s) :
    Good qq (updPanic s p) := by
  delta updPanic
  repeat' first
    | with_reducible assumption
    | with_reducible intro _
    | (extract_lets -underBinder +onlyGivenNames x; first | (refine good_cut (q := qq) (s := x) ?_ ?_; (on_goal 1 => subst x); (on_goal 2 => (intro _; clear_value x))) | (refine isDram (x := x) ?_; subst x) | clear_value x | subst x)
    | with_reducible exact good_mk (by with_reducible assumption) rfl rfl rfl rfl rfl rfl

theorem acceptDreq_good {qq : List Instr} {s : State} {id : Nat} (h1 : Good qq s) :
    Good qq (acceptDreq s id) := by
  delta acceptDreq
  repeat' first
    | with_reducible assumption
    | with_reducible intro _
    | (extract_lets -underBinder +onlyGivenNames x; first | (refine good_cut (q := qq) (s := x) ?_ ?_; (on_goal 1 => subst x); (on_goal 2 => (intro _; clear_value x))) | (refine good_cutO (q := qq) (x := x) ?_ ?_; (on_goal 1 => subst x); (on_goal 2 => (intro _; clear_value x))) | (refine isP (x := x) ?_; subst x) | (refine isQ (x := x) ?_; subst x) | (refine isFab (x := x) ?_; subst x) | (refine isSram (x := x) ?_; subst x) | (refine isDram (x := x) ?_; subst x) | (refine isStateFun (x := x) ?_; subst x) | (refine isStateFun2 (x := x) ?_; subst x) | clear_value x | subst x)
    | with_reducible refine goodR_next ?_
    | with_reducible refine goodO_some ?_
    | with_reducible exact goodO_none
    | with_reducible refine updDreq_good ?_
    | with_reducible refine updPanic_good ?_
    | with_reducible refine goodO_of ?_ (by with_reducible assumption)
    | with_reducible refine goodP_of ?_ (by with_reducible assumption)
    | with_reducible refine goodQ_of ?_ (by with_reducible assumption)
    | with_reducible refine goodR_of ?_ (by with_reducible assumption)
    | with_reducible exact good_mk (by with_reducible assumption) rfl rfl rfl rfl rfl rfl
    | with_reducible exact good_mkD rfl rfl (by with_reducible assumption) (by with_reducible assumption) rfl rfl rfl rfl
    | dsimp -zeta only
    | with_reducible split

theorem execDramRequest_good {qq : List Instr} {id : Nat} {s : State} (h1 : Good qq s) :
    GoodR qq (execDramRequest id s) := by
  delta execDramRequest
  repeat' first
    | with_reducible assumption
    | with_reducible intro _
    | (extract_lets -underBinder +onlyGivenNames x; first | (refine good_cut (q := qq) (s := x) ?_ ?_; (on_goal 1 => subst x); (on_goal 2 => (intro _; clear_value x))) | (refine good_cutO (q := qq) (x := x) ?_ ?_; (on_goal 1 => subst x); (on_goal 2 => (intro _; clear_value x))) | (refine isP (x := x) ?_; subst x) | (refine isQ (x := x) ?_; subst x) | (refine isFab (x := x) ?_; subst x) | (refine isSram (x := x) ?_; subst x) | (refine isDram (x := x) ?_; subst x) | (refine isStateFun (x := x) ?_; subst x) | (refine isStateFun2 (x := x) ?_; subst x) | clear_value x | subst x)
    | with_reducible refine goodR_next ?_
    | with_reducible refine goodO_some ?_
    | with_reducible exact goodO_none
    | with_reducible refine acceptDreq_good ?_

theorem returnTok_good {qq : List Instr} {s : State} {d : Nat} (h1 : Good qq s) :
    Good qq (returnTok s d) := by
  delta returnTok
  repeat' first
    | with_reducible assumption
    | with_reducible intro _
    | (extract_lets -underBinder +onlyGivenNames x; first | (refine good_cut (q := qq) (s := x) ?_ ?_; (on_goal 1 => subst x); (on_goal 2 => (intro _; clear_value x))) | (refine good_cutO (q := qq) (x := x) ?_ ?_; (on_goal 1 => subst x); (on_goal 2 => (intro _; clear_value x))) | (refine isP (x := x) ?_; subst x) | (refine isQ (x := x) ?_; subst x) | (refine isFab (x := x) ?_; subst x) | (refine isSram (x := x) ?_; subst x) | (refine isDram (x := x) ?_; subst x) | (refine isStateFun (x := x) ?_; subst x) | (refine isStateFun2 (x := x) ?_; subst x) | clear_value x | subst x)
    | with_reducible refine goodR_next ?_
    | with_reducible refine goodO_some ?_
    | with_reducible exact goodO_none
    | with_reducible refine wrF_good ?_
    | with_reducible refine goodO_of ?_ (by with_reducible assumption)
    | with_reducible refine goodP_of ?_ (by with_reducible assumption)
    | with_reducible refine goodQ_of ?_ (by with_reducible assumption)
    | with_reducible refine goodR_of ?_ (by with_reducible assumption)
    | with_reducible exact good_mk (by with_reducible assumption) rfl rfl rfl rfl rfl rfl
    | dsimp -zeta only
    | with_reducible split

theorem touchRank_good {qq : List Instr} {s : State} {n : Nat} {pr : Nat} (h1 : Good qq s) :
    Good qq (touchRank s n pr) := by
  delta touchRank
  repeat' first
    | with_reducible assumption
    | with_reducible intro _
    | (extract_lets -underBinder +onlyGivenNames x; first | (refine good_cut (q := qq) (s := x) ?_ ?_; (on_goal 1 => subst x); (on_goal 2 => (intro _; clear_value x))) | (refine good_cutO (q := qq) (x := x) ?_ ?_; (on_goal 1 => subst x); (on_goal 2 => (intro _; clear_value x))) | (refine isP (x := x) ?_; subst x) | (refine isQ (x := x) ?_; subst x) | (refine isFab (x := x) ?_; subst x) | (refine isSram (x := x) ?_; subst x) | (refine isDram (x := x) ?_; subst x) | (refine isStateFun (x := x) ?_; subst x) | (refine isStateFun2 (x := x) ?_; subst x) | clear_value x | subst x)
    | with_reducible refine goodR_next ?_
    | with_reducible refine goodO_some ?_
    | with_reducible exact goodO_none
    | with_reducible refine goodO_of ?_ (by with_reducible assumption)
    | with_reducible refine goodP_of ?_ (by with_reducible assumption)
    | with_reducible refine goodQ_of ?_ (by with_reducible assumption)
    | with_reducible refine goodR_of ?_ (by with_reducible assumption)
    | with_reducible exact good_mk (by with_reducible assumption) rfl rfl rfl rfl rfl rfl

theorem giveRank_good {qq : List Instr} {s : State} {r : DReq} (h1 : Good qq s) :
    Good qq (giveRank s r) := by
  delta giveRank
  repeat' first
    | with_reducible assumption
    | with_reducible intro _
    | (extract_lets -underBinder +onlyGivenNames x; first | (refine good_cut (q := qq) (s := x) ?_ ?_; (on_goal 1 => subst x); (on_goal 2 => (intro _; clear_value x))) | (refine good_cutO (q := qq) (x := x) ?_ ?_; (on_goal 1 => subst x); (on_goal 2 => (intro _; clear_value x))) | (refine isP (x := x) ?_; subst x) | (refine isQ (x := x) ?_; subst x) | (refine isFab (x := x) ?_; subst x) | (refine isSram (x := x) ?_; subst x) | (refine isDram (x := x) ?_; subst x) | (refine isStateFun (x := x) ?_; subst x) | (refine isStateFun2 (x := x) ?_; subst x) | clear_value x | subst x)
    | with_reducible refine goodR_next ?_
    | with_reducible refine goodO_some ?_
    | with_reducible exact goodO_none
    | with_reducible refine updDreq_good ?_
    | with_reducible refine updPanic_good ?_
    | with_reducible refine touchRank_good ?_

theorem execSchedulerChoice_good {qq : List Instr} {ch : Fin 18} {busy : BitVec 32} {s : State} (h1 : Good qq s) :
    GoodR qq (execSchedulerChoice ch busy s) := by
  delta execSchedulerChoice
  repeat' first
    | with_reducible assumption
    | with_reducible intro _
    | (extract_lets -underBinder +onlyGivenNames x; first | (refine good_cut (q := qq) (s := x) ?_ ?_; (on_goal 1 => subst x); (on_goal 2 => (intro _; clear_value x))) | (refine good_cutO (q := qq) (x := x) ?_ ?_; (on_goal 1 => subst x); (on_goal 2 => (intro _; clear_value x))) | (refine isP (x := x) ?_; subst x) | (refine isQ (x := x) ?_; subst x) | (refine isFab (x := x) ?_; subst x) | (refine isSram (x := x) ?_; subst x) | (refine isDram (x := x) ?_; subst x) | (refine isStateFun (x := x) ?_; subst x) | (refine isStateFun2 (x := x) ?_; subst x) | clear_value x | subst x)
    | with_reducible refine goodR_next ?_
    | with_reducible refine goodO_some ?_
    | with_reducible exact goodO_none
    | with_reducible refine giveRank_good ?_
    | with_reducible refine goodO_of ?_ (by with_reducible assumption)
    | with_reducible refine goodP_of ?_ (by with_reducible assumption)
    | with_reducible refine goodQ_of ?_ (by with_reducible assumption)
    | with_reducible refine goodR_of ?_ (by with_reducible assumption)
    | with_reducible exact good_mk (by with_reducible assumption) rfl rfl rfl rfl rfl rfl
    | with_reducible exact good_mkD rfl rfl (by with_reducible assumption) (by with_reducible assumption) rfl rfl rfl rfl
    | dsimp -zeta only
    | with_reducible split

theorem execDeadlineMiss_good {qq : List Instr} {id : Nat} {s : State} (h1 : Good qq s) :
    GoodR qq (execDeadlineMiss id s) := by
  delta execDeadlineMiss
  repeat' first
    | with_reducible assumption
    | with_reducible intro _
    | (extract_lets -underBinder +onlyGivenNames x; first | (refine good_cut (q := qq) (s := x) ?_ ?_; (on_goal 1 => subst x); (on_goal 2 => (intro _; clear_value x))) | (refine good_cutO (q := qq) (x := x) ?_ ?_; (on_goal 1 => subst x); (on_goal 2 => (intro _; clear_value x))) | (refine isP (x := x) ?_; subst x) | (refine isQ (x := x) ?_; subst x) | (refine isFab (x := x) ?_; subst x) | (refine isSram (x := x) ?_; subst x) | (refine isDram (x := x) ?_; subst x) | (refine isStateFun (x := x) ?_; subst x) | (refine isStateFun2 (x := x) ?_; subst x) | clear_value x | subst x)
    | with_reducible refine goodR_next ?_
    | with_reducible refine goodO_some ?_
    | with_reducible exact goodO_none
    | with_reducible refine updDreq_good ?_
    | with_reducible refine advanceTo_good ?_
    | with_reducible refine recCorrected_good ?_
    | with_reducible refine bumpF_good ?_
    | with_reducible refine goodO_of ?_ (by with_reducible assumption)
    | with_reducible refine goodP_of ?_ (by with_reducible assumption)
    | with_reducible refine goodQ_of ?_ (by with_reducible assumption)
    | with_reducible refine goodR_of ?_ (by with_reducible assumption)
    | with_reducible exact good_mk (by with_reducible assumption) rfl rfl rfl rfl rfl rfl
    | dsimp -zeta only
    | with_reducible split

theorem setMode_good {qq : List Instr} {s : State} {deadline : Bool} (h1 : Good qq s) :
    Good qq (setMode s deadline) := by
  delta setMode
  repeat' first
    | with_reducible assumption
    | with_reducible intro _
    | with_reducible refine wrB_good ?_

theorem restoreMode_good {qq : List Instr} {s : State} (h1 : Good qq s) :
    Good qq (restoreMode s) := by
  delta restoreMode
  repeat' first
    | with_reducible assumption
    | with_reducible intro _
    | (extract_lets -underBinder +onlyGivenNames x; first | (refine good_cut (q := qq) (s := x) ?_ ?_; (on_goal 1 => subst x); (on_goal 2 => (intro _; clear_value x))) | (refine good_cutO (q := qq) (x := x) ?_ ?_; (on_goal 1 => subst x); (on_goal 2 => (intro _; clear_value x))) | (refine isP (x := x) ?_; subst x) | (refine isQ (x := x) ?_; subst x) | (refine isFab (x := x) ?_; subst x) | (refine isSram (x := x) ?_; subst x) | (refine isDram (x := x) ?_; subst x) | (refine isStateFun (x := x) ?_; subst x) | (refine isStateFun2 (x := x) ?_; subst x) | clear_value x | subst x)
    | with_reducible refine goodR_next ?_
    | with_reducible refine goodO_some ?_
    | with_reducible exact goodO_none
    | with_reducible refine setMode_good ?_
    | with_reducible refine goodO_of ?_ (by with_reducible assumption)
    | with_reducible refine goodP_of ?_ (by with_reducible assumption)
    | with_reducible refine goodQ_of ?_ (by with_reducible assumption)
    | with_reducible refine goodR_of ?_ (by with_reducible assumption)
    | with_reducible exact good_mk (by with_reducible assumption) rfl rfl rfl rfl rfl rfl
    | with_reducible exact good_mkD rfl rfl (by with_reducible assumption) (by with_reducible assumption) rfl rfl rfl rfl
    | dsimp -zeta only
    | with_reducible split

theorem dmcFollow_good {qq : List Instr} {s : State} (h1 : Good qq s) :
    Good qq (dmcFollow s) := by
  delta dmcFollow
  repeat' first
    | with_reducible assumption
    | with_reducible intro _
    | (extract_lets -underBinder +onlyGivenNames x; first | (refine good_cut (q := qq) (s := x) ?_ ?_; (on_goal 1 => subst x); (on_goal 2 => (intro _; clear_value x))) | (refine isDram (x := x) ?_; subst x) | (refine isStateFun (x := x) ?_; subst x) | (refine isStateFun2 (x := x) ?_; subst x) | clear_value x | subst x)
    | with_reducible refine wrF_good ?_
    | with_reducible refine wrB_good ?_
    | with_reducible split

theorem degrade_good {qq : List Instr} {s : State} {l : Nat} (h1 : Good qq s) :
    Good qq (degrade s l) := by
  delta degrade
  repeat' first
    | with_reducible assumption
    | with_reducible intro _
    | (extract_lets -underBinder +onlyGivenNames x; first | (refine good_cut (q := qq) (s := x) ?_ ?_; (on_goal 1 => subst x); (on_goal 2 => (intro _; clear_value x))) | (refine good_cutO (q := qq) (x := x) ?_ ?_; (on_goal 1 => subst x); (on_goal 2 => (intro _; clear_value x))) | (refine isP (x := x) ?_; subst x) | (refine isQ (x := x) ?_; subst x) | (refine isFab (x := x) ?_; subst x) | (refine isSram (x := x) ?_; subst x) | (refine isDram (x := x) ?_; subst x) | (refine isStateFun (x := x) ?_; subst x) | (refine isStateFun2 (x := x) ?_; subst x) | clear_value x | subst x)
    | with_reducible refine goodR_next ?_
    | with_reducible refine goodO_some ?_
    | with_reducible exact goodO_none
    | with_reducible refine dmcFollow_good ?_
    | with_reducible refine wrF_good ?_
    | with_reducible refine restoreMode_good ?_
    | with_reducible refine setIrq_good ?_
    | with_reducible refine recordErr_good ?_

theorem reqMigration_good {qq : List Instr} {s : State} {l : Nat} (h1 : Good qq s) :
    Good qq (reqMigration s l) := by
  delta reqMigration
  repeat' first
    | with_reducible assumption
    | with_reducible intro _
    | (extract_lets -underBinder +onlyGivenNames x; first | (refine good_cut (q := qq) (s := x) ?_ ?_; (on_goal 1 => subst x); (on_goal 2 => (intro _; clear_value x))) | (refine good_cutO (q := qq) (x := x) ?_ ?_; (on_goal 1 => subst x); (on_goal 2 => (intro _; clear_value x))) | (refine isP (x := x) ?_; subst x) | (refine isQ (x := x) ?_; subst x) | (refine isFab (x := x) ?_; subst x) | (refine isSram (x := x) ?_; subst x) | (refine isDram (x := x) ?_; subst x) | (refine isStateFun (x := x) ?_; subst x) | (refine isStateFun2 (x := x) ?_; subst x) | clear_value x | subst x)
    | with_reducible refine goodR_next ?_
    | with_reducible refine goodO_some ?_
    | with_reducible exact goodO_none
    | with_reducible refine degrade_good ?_
    | with_reducible refine goodO_of ?_ (by with_reducible assumption)
    | with_reducible refine goodP_of ?_ (by with_reducible assumption)
    | with_reducible refine goodQ_of ?_ (by with_reducible assumption)
    | with_reducible refine goodR_of ?_ (by with_reducible assumption)
    | with_reducible exact good_mk (by with_reducible assumption) rfl rfl rfl rfl rfl rfl
    | with_reducible exact good_mkD rfl rfl (by with_reducible assumption) (by with_reducible assumption) rfl rfl rfl rfl
    | dsimp -zeta only
    | with_reducible split

theorem noteCE_good {qq : List Instr} {s : State} {pr : Nat} {la : Nat} {a : Attr} (h1 : Good qq s) :
    Good qq (noteCE s pr la a) := by
  delta noteCE
  repeat' first
    | with_reducible assumption
    | with_reducible intro _
    | (extract_lets -underBinder +onlyGivenNames x; first | (refine good_cut (q := qq) (s := x) ?_ ?_; (on_goal 1 => subst x); (on_goal 2 => (intro _; clear_value x))) | (refine good_cutO (q := qq) (x := x) ?_ ?_; (on_goal 1 => subst x); (on_goal 2 => (intro _; clear_value x))) | (refine isP (x := x) ?_; subst x) | (refine isQ (x := x) ?_; subst x) | (refine isFab (x := x) ?_; subst x) | (refine isSram (x := x) ?_; subst x) | (refine isDram (x := x) ?_; subst x) | (refine isStateFun (x := x) ?_; subst x) | (refine isStateFun2 (x := x) ?_; subst x) | clear_value x | subst x)
    | with_reducible refine goodR_next ?_
    | with_reducible refine goodO_some ?_
    | with_reducible exact goodO_none
    | with_reducible refine bumpF_good ?_
    | with_reducible refine recCorrected_good ?_
    | with_reducible refine goodO_of ?_ (by with_reducible assumption)
    | with_reducible refine goodP_of ?_ (by with_reducible assumption)
    | with_reducible refine goodQ_of ?_ (by with_reducible assumption)
    | with_reducible refine goodR_of ?_ (by with_reducible assumption)
    | with_reducible exact good_mk (by with_reducible assumption) rfl rfl rfl rfl rfl rfl

theorem ceLimit_good {qq : List Instr} {s : State} {pr : Nat} {l : Nat} (h1 : Good qq s) :
    Good qq (ceLimit s pr l) := by
  delta ceLimit
  repeat' first
    | with_reducible assumption
    | with_reducible intro _
    | (extract_lets -underBinder +onlyGivenNames x; first | (refine good_cut (q := qq) (s := x) ?_ ?_; (on_goal 1 => subst x); (on_goal 2 => (intro _; clear_value x))) | (refine good_cutO (q := qq) (x := x) ?_ ?_; (on_goal 1 => subst x); (on_goal 2 => (intro _; clear_value x))) | (refine isP (x := x) ?_; subst x) | (refine isQ (x := x) ?_; subst x) | (refine isFab (x := x) ?_; subst x) | (refine isSram (x := x) ?_; subst x) | (refine isDram (x := x) ?_; subst x) | (refine isStateFun (x := x) ?_; subst x) | (refine isStateFun2 (x := x) ?_; subst x) | clear_value x | subst x)
    | with_reducible refine goodR_next ?_
    | with_reducible refine goodO_some ?_
    | with_reducible exact goodO_none
    | with_reducible refine reqMigration_good ?_
    | with_reducible refine goodO_of ?_ (by with_reducible assumption)
    | with_reducible refine goodP_of ?_ (by with_reducible assumption)
    | with_reducible refine goodQ_of ?_ (by with_reducible assumption)
    | with_reducible refine goodR_of ?_ (by with_reducible assumption)
    | with_reducible exact good_mk (by with_reducible assumption) rfl rfl rfl rfl rfl rfl
    | dsimp -zeta only
    | with_reducible split

theorem noteUE_good {qq : List Instr} {s : State} {pr n la code : Nat} {a : Attr} {did : Nat} (h1 : Good qq s) :
    Good qq (noteUE s pr n la code a did) := by
  unfold noteUE
  exact recordErr_good (bumpF_good { h1 with dbad := SMap.wf_set h1.dbad _ _ })

theorem decodeLine_good {qq : List Instr} {s : State} {x : Line × Bool} {e : LineErr} (h1 : Good qq s) :
    Good qq (decodeLine s x e).1 := by
  delta decodeLine
  repeat' first
    | with_reducible assumption
    | with_reducible intro _
    | (extract_lets -underBinder +onlyGivenNames x; first | (refine good_cut (q := qq) (s := x) ?_ ?_; (on_goal 1 => subst x); (on_goal 2 => (intro _; clear_value x))) | (refine good_cutO (q := qq) (x := x) ?_ ?_; (on_goal 1 => subst x); (on_goal 2 => (intro _; clear_value x))) | (refine isP (x := x) ?_; subst x) | (refine isQ (x := x) ?_; subst x) | (refine isFab (x := x) ?_; subst x) | (refine isSram (x := x) ?_; subst x) | (refine isDram (x := x) ?_; subst x) | (refine isStateFun (x := x) ?_; subst x) | (refine isStateFun2 (x := x) ?_; subst x) | clear_value x | subst x)
    | with_reducible refine goodR_next ?_
    | with_reducible refine goodO_some ?_
    | with_reducible exact goodO_none
    | with_reducible refine freeVal_good ?_
    | with_reducible refine goodO_of ?_ (by with_reducible assumption)
    | with_reducible refine goodP_of ?_ (by with_reducible assumption)
    | with_reducible refine goodQ_of ?_ (by with_reducible assumption)
    | with_reducible refine goodR_of ?_ (by with_reducible assumption)
    | with_reducible exact good_mk (by with_reducible assumption) rfl rfl rfl rfl rfl rfl
    | dsimp -zeta only
    | with_reducible split

theorem correctLine_good {qq : List Instr} {s : State} {pr : Nat} {n : Nat} {la : Nat} {v : Line} {a : Attr} (h1 : Good qq s) :
    Good qq (correctLine s pr n la v a) := by
  delta correctLine
  repeat' first
    | with_reducible assumption
    | with_reducible intro _
    | (extract_lets -underBinder +onlyGivenNames x; first | (refine good_cut (q := qq) (s := x) ?_ ?_; (on_goal 1 => subst x); (on_goal 2 => (intro _; clear_value x))) | (refine good_cutO (q := qq) (x := x) ?_ ?_; (on_goal 1 => subst x); (on_goal 2 => (intro _; clear_value x))) | (refine isP (x := x) ?_; subst x) | (refine isQ (x := x) ?_; subst x) | (refine isFab (x := x) ?_; subst x) | (refine isSram (x := x) ?_; subst x) | (refine isDram (x := x) ?_; subst x) | (refine isStateFun (x := x) ?_; subst x) | (refine isStateFun2 (x := x) ?_; subst x) | clear_value x | subst x)
    | with_reducible refine goodR_next ?_
    | with_reducible refine goodO_some ?_
    | with_reducible exact goodO_none
    | with_reducible refine noteCE_good ?_
    | with_reducible refine storeLine_good ?_
    | with_reducible refine goodO_of ?_ (by with_reducible assumption)
    | with_reducible refine goodP_of ?_ (by with_reducible assumption)
    | with_reducible refine goodQ_of ?_ (by with_reducible assumption)
    | with_reducible refine goodR_of ?_ (by with_reducible assumption)
    | with_reducible exact good_mk (by with_reducible assumption) rfl rfl rfl rfl rfl rfl
    | dsimp -zeta only
    | with_reducible split

theorem stopBist_good {qq : List Instr} {s : State} (h1 : Good qq s) :
    Good qq (stopBist s) := by
  delta stopBist
  repeat' first
    | with_reducible assumption
    | with_reducible intro _
    | (extract_lets -underBinder +onlyGivenNames x; first | (refine good_cut (q := qq) (s := x) ?_ ?_; (on_goal 1 => subst x); (on_goal 2 => (intro _; clear_value x))) | (refine good_cutO (q := qq) (x := x) ?_ ?_; (on_goal 1 => subst x); (on_goal 2 => (intro _; clear_value x))) | (refine isP (x := x) ?_; subst x) | (refine isQ (x := x) ?_; subst x) | (refine isFab (x := x) ?_; subst x) | (refine isSram (x := x) ?_; subst x) | (refine isDram (x := x) ?_; subst x) | (refine isStateFun (x := x) ?_; subst x) | (refine isStateFun2 (x := x) ?_; subst x) | clear_value x | subst x)
    | with_reducible refine goodR_next ?_
    | with_reducible refine goodO_some ?_
    | with_reducible exact goodO_none
    | with_reducible refine setIrq_good ?_
    | with_reducible refine wrF_good ?_
    | with_reducible refine wrB_good ?_
    | with_reducible refine goodO_of ?_ (by with_reducible assumption)
    | with_reducible refine goodP_of ?_ (by with_reducible assumption)
    | with_reducible refine goodQ_of ?_ (by with_reducible assumption)
    | with_reducible refine goodR_of ?_ (by with_reducible assumption)
    | with_reducible exact good_mk (by with_reducible assumption) rfl rfl rfl rfl rfl rfl
    | dsimp -zeta only
    | with_reducible split

theorem startMigration_good {qq : List Instr} {s : State} {l : Nat} (h1 : Good qq s) :
    Good qq (startMigration s l) := by
  delta startMigration
  repeat' first
    | with_reducible assumption
    | with_reducible intro _
    | (extract_lets -underBinder +onlyGivenNames x; first | (refine good_cut (q := qq) (s := x) ?_ ?_; (on_goal 1 => subst x); (on_goal 2 => (intro _; clear_value x))) | (refine good_cutO (q := qq) (x := x) ?_ ?_; (on_goal 1 => subst x); (on_goal 2 => (intro _; clear_value x))) | (refine isP (x := x) ?_; subst x) | (refine isQ (x := x) ?_; subst x) | (refine isFab (x := x) ?_; subst x) | (refine isSram (x := x) ?_; subst x) | (refine isDram (x := x) ?_; subst x) | (refine isStateFun (x := x) ?_; subst x) | (refine isStateFun2 (x := x) ?_; subst x) | clear_value x | subst x)
    | with_reducible refine goodR_next ?_
    | with_reducible refine goodO_some ?_
    | with_reducible exact goodO_none
    | with_reducible refine stopBist_good ?_
    | with_reducible refine wrF_good ?_
    | with_reducible refine setSpare_good ?_
    | with_reducible refine setMode_good ?_
    | with_reducible refine setRankByte_good ?_
    | with_reducible refine setIrq_good ?_
    | with_reducible refine dmcFollow_good ?_
    | with_reducible refine degrade_good ?_
    | with_reducible refine goodO_of ?_ (by with_reducible assumption)
    | with_reducible refine goodP_of ?_ (by with_reducible assumption)
    | with_reducible refine goodQ_of ?_ (by with_reducible assumption)
    | with_reducible refine goodR_of ?_ (by with_reducible assumption)
    | with_reducible refine goodOP_of ?_ (by with_reducible assumption)
    | with_reducible refine goodOQ_of ?_ (by with_reducible assumption)
    | with_reducible exact good_mk (by with_reducible assumption) rfl rfl rfl rfl rfl rfl
    | with_reducible exact good_mkD rfl rfl (by with_reducible assumption) (by with_reducible assumption) rfl rfl rfl rfl
    | dsimp -zeta only
    | with_reducible split

theorem abortMigration_good {qq : List Instr} {s : State} (h1 : Good qq s) :
    Good qq (abortMigration s) := by
  delta abortMigration
  repeat' first
    | with_reducible assumption
    | with_reducible intro _
    | (extract_lets -underBinder +onlyGivenNames x; first | (refine good_cut (q := qq) (s := x) ?_ ?_; (on_goal 1 => subst x); (on_goal 2 => (intro _; clear_value x))) | (refine isDram (x := x) ?_; subst x) | clear_value x | subst x)
    | with_reducible refine wrF_good ?_
    | with_reducible refine setSpare_good ?_
    | with_reducible refine setIrq_good ?_
    | with_reducible refine recInternal_good ?_
    | with_reducible refine startMigration_good ?_
    | with_reducible exact good_mk (by with_reducible assumption) rfl rfl rfl rfl rfl rfl
    | with_reducible exact good_mkD rfl rfl (by with_reducible assumption) (by with_reducible assumption) rfl rfl rfl rfl
    | with_reducible split

theorem execMigrationStart_good {qq : List Instr} {s : State} (h1 : Good qq s) :
    GoodR qq (execMigrationStart s) := by
  delta execMigrationStart
  repeat' first
    | with_reducible assumption
    | with_reducible intro _
    | (extract_lets -underBinder +onlyGivenNames x; first | (refine good_cut (q := qq) (s := x) ?_ ?_; (on_goal 1 => subst x); (on_goal 2 => (intro _; clear_value x))) | (refine good_cutO (q := qq) (x := x) ?_ ?_; (on_goal 1 => subst x); (on_goal 2 => (intro _; clear_value x))) | (refine isP (x := x) ?_; subst x) | (refine isQ (x := x) ?_; subst x) | (refine isFab (x := x) ?_; subst x) | (refine isSram (x := x) ?_; subst x) | (refine isDram (x := x) ?_; subst x) | (refine isStateFun (x := x) ?_; subst x) | (refine isStateFun2 (x := x) ?_; subst x) | clear_value x | subst x)
    | with_reducible refine goodR_next ?_
    | with_reducible refine goodO_some ?_
    | with_reducible exact goodO_none
    | with_reducible refine startMigration_good ?_
    | with_reducible refine goodO_of ?_ (by with_reducible assumption)
    | with_reducible refine goodP_of ?_ (by with_reducible assumption)
    | with_reducible refine goodQ_of ?_ (by with_reducible assumption)
    | with_reducible refine goodR_of ?_ (by with_reducible assumption)
    | with_reducible exact good_mk (by with_reducible assumption) rfl rfl rfl rfl rfl rfl
    | with_reducible exact good_mkD rfl rfl (by with_reducible assumption) (by with_reducible assumption) rfl rfl rfl rfl
    | dsimp -zeta only
    | with_reducible split

theorem execMigrationCopy_good {qq : List Instr} {out : LineErr} {busy : BitVec 32} {busySp : BitVec 32} {s : State} (h1 : Good qq s) :
    GoodR qq (execMigrationCopy out busy busySp s) := by
  delta execMigrationCopy
  repeat' first
    | with_reducible assumption
    | with_reducible intro _
    | (extract_lets -underBinder +onlyGivenNames x; first | (refine good_cut (q := qq) (s := x) ?_ ?_; (on_goal 1 => subst x); (on_goal 2 => (intro _; clear_value x))) | (refine good_cutO (q := qq) (x := x) ?_ ?_; (on_goal 1 => subst x); (on_goal 2 => (intro _; clear_value x))) | (refine isP (x := x) ?_; subst x) | (refine isQ (x := x) ?_; subst x) | (refine isFab (x := x) ?_; subst x) | (refine isSram (x := x) ?_; subst x) | (refine isDram (x := x) ?_; subst x) | (refine isStateFun (x := x) ?_; subst x) | (refine isStateFun2 (x := x) ?_; subst x) | clear_value x | subst x)
    | with_reducible refine goodR_next ?_
    | with_reducible refine goodO_some ?_
    | with_reducible exact goodO_none
    | with_reducible refine advanceTo_good ?_
    | with_reducible refine decodeLine_good ?_
    | with_reducible refine touchRank_good ?_
    | with_reducible refine correctLine_good ?_
    | with_reducible refine noteUE_good ?_
    | with_reducible refine storeLine_good ?_
    | with_reducible refine goodO_of ?_ (by with_reducible assumption)
    | with_reducible refine goodP_of ?_ (by with_reducible assumption)
    | with_reducible refine goodQ_of ?_ (by with_reducible assumption)
    | with_reducible refine goodR_of ?_ (by with_reducible assumption)
    | with_reducible refine goodOP_of ?_ (by with_reducible assumption)
    | with_reducible refine goodOQ_of ?_ (by with_reducible assumption)
    | with_reducible exact good_mk (by with_reducible assumption) rfl rfl rfl rfl rfl rfl
    | with_reducible exact good_mkD rfl rfl (by with_reducible assumption) (by with_reducible assumption) rfl rfl rfl rfl
    | dsimp -zeta only
    | with_reducible split

theorem execMigrationSwitch_good {qq : List Instr} {s : State} (h1 : Good qq s) :
    GoodR qq (execMigrationSwitch s) := by
  delta execMigrationSwitch
  repeat' first
    | with_reducible assumption
    | with_reducible intro _
    | (extract_lets -underBinder +onlyGivenNames x; first | (refine good_cut (q := qq) (s := x) ?_ ?_; (on_goal 1 => subst x); (on_goal 2 => (intro _; clear_value x))) | (refine good_cutO (q := qq) (x := x) ?_ ?_; (on_goal 1 => subst x); (on_goal 2 => (intro _; clear_value x))) | (refine isP (x := x) ?_; subst x) | (refine isQ (x := x) ?_; subst x) | (refine isFab (x := x) ?_; subst x) | (refine isSram (x := x) ?_; subst x) | (refine isDram (x := x) ?_; subst x) | (refine isStateFun (x := x) ?_; subst x) | (refine isStateFun2 (x := x) ?_; subst x) | clear_value x | subst x)
    | with_reducible refine goodR_next ?_
    | with_reducible refine goodO_some ?_
    | with_reducible exact goodO_none
    | with_reducible refine wr_good ?_
    | with_reducible refine wrB_good ?_
    | with_reducible refine setSpare_good ?_
    | with_reducible refine setRankByte_good ?_
    | with_reducible refine setIrq_good ?_
    | with_reducible refine dmcFollow_good ?_
    | with_reducible refine restoreMode_good ?_
    | with_reducible refine goodO_of ?_ (by with_reducible assumption)
    | with_reducible refine goodP_of ?_ (by with_reducible assumption)
    | with_reducible refine goodQ_of ?_ (by with_reducible assumption)
    | with_reducible refine goodR_of ?_ (by with_reducible assumption)
    | with_reducible refine goodOP_of ?_ (by with_reducible assumption)
    | with_reducible refine goodOQ_of ?_ (by with_reducible assumption)
    | with_reducible exact good_mk (by with_reducible assumption) rfl rfl rfl rfl rfl rfl
    | with_reducible exact good_mkD rfl rfl (by with_reducible assumption) (by with_reducible assumption) rfl rfl rfl rfl
    | dsimp -zeta only
    | with_reducible split

theorem readLine_good {qq : List Instr} {s : State} {la : Nat} {out : LineErr} {a : Attr} (h1 : Good qq s) :
    Good qq (readLine s la out a).1 := by
  delta readLine
  repeat' first
    | with_reducible assumption
    | with_reducible intro _
    | (extract_lets -underBinder +onlyGivenNames x; first | (refine good_cut (q := qq) (s := x) ?_ ?_; (on_goal 1 => subst x); (on_goal 2 => (intro _; clear_value x))) | (refine good_cutO (q := qq) (x := x) ?_ ?_; (on_goal 1 => subst x); (on_goal 2 => (intro _; clear_value x))) | (refine isP (x := x) ?_; subst x) | (refine isQ (x := x) ?_; subst x) | (refine isFab (x := x) ?_; subst x) | (refine isSram (x := x) ?_; subst x) | (refine isDram (x := x) ?_; subst x) | (refine isStateFun (x := x) ?_; subst x) | (refine isStateFun2 (x := x) ?_; subst x) | clear_value x | subst x)
    | with_reducible refine goodR_next ?_
    | with_reducible refine goodO_some ?_
    | with_reducible exact goodO_none
    | with_reducible refine decodeLine_good ?_
    | with_reducible refine noteUE_good ?_
    | with_reducible refine abortMigration_good ?_
    | with_reducible refine reqMigration_good ?_
    | with_reducible refine correctLine_good ?_
    | with_reducible refine ceLimit_good ?_
    | with_reducible refine goodO_of ?_ (by with_reducible assumption)
    | with_reducible refine goodP_of ?_ (by with_reducible assumption)
    | with_reducible refine goodQ_of ?_ (by with_reducible assumption)
    | with_reducible refine goodR_of ?_ (by with_reducible assumption)
    | with_reducible exact good_mk (by with_reducible assumption) rfl rfl rfl rfl rfl rfl
    | dsimp -zeta only
    | with_reducible split

theorem execDramReadComplete_good {qq : List Instr} {id : Nat} {out : LineErr} {s : State} (h1 : Good qq s) :
    GoodR qq (execDramReadComplete id out s) := by
  delta execDramReadComplete
  repeat' first
    | with_reducible assumption
    | with_reducible intro _
    | (extract_lets -underBinder +onlyGivenNames x; first | (refine good_cut (q := qq) (s := x) ?_ ?_; (on_goal 1 => subst x); (on_goal 2 => (intro _; clear_value x))) | (refine good_cutO (q := qq) (x := x) ?_ ?_; (on_goal 1 => subst x); (on_goal 2 => (intro _; clear_value x))) | (refine isP (x := x) ?_; subst x) | (refine isQ (x := x) ?_; subst x) | (refine isFab (x := x) ?_; subst x) | (refine isSram (x := x) ?_; subst x) | (refine isDram (x := x) ?_; subst x) | (refine isStateFun (x := x) ?_; subst x) | (refine isStateFun2 (x := x) ?_; subst x) | clear_value x | subst x)
    | with_reducible refine goodR_next ?_
    | with_reducible refine goodO_some ?_
    | with_reducible exact goodO_none
    | with_reducible refine readLine_good ?_
    | with_reducible refine returnTok_good ?_
    | with_reducible refine updDreq_good ?_
    | with_reducible refine goodO_of ?_ (by with_reducible assumption)
    | with_reducible refine goodP_of ?_ (by with_reducible assumption)
    | with_reducible refine goodQ_of ?_ (by with_reducible assumption)
    | with_reducible refine goodR_of ?_ (by with_reducible assumption)
    | with_reducible exact good_mk (by with_reducible assumption) rfl rfl rfl rfl rfl rfl
    | dsimp -zeta only
    | with_reducible split

theorem writeLine_good {qq : List Instr} {s : State} {la : Nat} {data : Line} {be : Line} {poison : Bool} {out : LineErr} {a : Attr} (h1 : Good qq s) :
    Good qq (writeLine s la data be poison out a) := by
  delta writeLine
  repeat' first
    | with_reducible assumption
    | with_reducible intro _
    | (extract_lets -underBinder +onlyGivenNames x; first | (refine good_cut (q := qq) (s := x) ?_ ?_; (on_goal 1 => subst x); (on_goal 2 => (intro _; clear_value x))) | (refine good_cutO (q := qq) (x := x) ?_ ?_; (on_goal 1 => subst x); (on_goal 2 => (intro _; clear_value x))) | (refine isP (x := x) ?_; subst x) | (refine isQ (x := x) ?_; subst x) | (refine isFab (x := x) ?_; subst x) | (refine isSram (x := x) ?_; subst x) | (refine isDram (x := x) ?_; subst x) | (refine isStateFun (x := x) ?_; subst x) | (refine isStateFun2 (x := x) ?_; subst x) | clear_value x | subst x)
    | with_reducible refine goodR_next ?_
    | with_reducible refine goodO_some ?_
    | with_reducible exact goodO_none
    | with_reducible refine storeLine_good ?_
    | with_reducible refine readLine_good ?_
    | with_reducible refine good_foldl ?_ ?_
    | with_reducible refine good_foldlP ?_ ?_
    | with_reducible refine goodO_foldl ?_ ?_
    | with_reducible refine goodO_of ?_ (by with_reducible assumption)
    | with_reducible refine goodP_of ?_ (by with_reducible assumption)
    | with_reducible refine goodQ_of ?_ (by with_reducible assumption)
    | with_reducible refine goodR_of ?_ (by with_reducible assumption)
    | with_reducible exact good_mk (by with_reducible assumption) rfl rfl rfl rfl rfl rfl
    | dsimp -zeta only
    | with_reducible split

theorem readNow_good {qq : List Instr} {s : State} {a : Attr} {master : Nat} {la : Nat} {out : LineErr} (h1 : Good qq s) :
    GoodOP qq (readNow s a master la out) := by
  delta readNow
  repeat' first
    | with_reducible assumption
    | with_reducible intro _
    | (extract_lets -underBinder +onlyGivenNames x; first | (refine good_cut (q := qq) (s := x) ?_ ?_; (on_goal 1 => subst x); (on_goal 2 => (intro _; clear_value x))) | (refine good_cutO (q := qq) (x := x) ?_ ?_; (on_goal 1 => subst x); (on_goal 2 => (intro _; clear_value x))) | (refine isP (x := x) ?_; subst x) | (refine isQ (x := x) ?_; subst x) | (refine isFab (x := x) ?_; subst x) | (refine isSram (x := x) ?_; subst x) | (refine isDram (x := x) ?_; subst x) | (refine isStateFun (x := x) ?_; subst x) | (refine isStateFun2 (x := x) ?_; subst x) | clear_value x | subst x)
    | with_reducible refine goodR_next ?_
    | with_reducible refine goodO_some ?_
    | with_reducible exact goodO_none
    | with_reducible refine goodOP_some ?_
    | with_reducible exact goodOP_none
    | with_reducible refine goodOQ_some ?_
    | with_reducible exact goodOQ_none
    | with_reducible refine readLine_good ?_
    | with_reducible refine touchRank_good ?_
    | with_reducible refine goodO_of ?_ (by with_reducible assumption)
    | with_reducible refine goodP_of ?_ (by with_reducible assumption)
    | with_reducible refine goodQ_of ?_ (by with_reducible assumption)
    | with_reducible refine goodR_of ?_ (by with_reducible assumption)
    | with_reducible refine goodOP_of ?_ (by with_reducible assumption)
    | with_reducible refine goodOQ_of ?_ (by with_reducible assumption)
    | with_reducible exact good_mk (by with_reducible assumption) rfl rfl rfl rfl rfl rfl
    | dsimp -zeta only
    | with_reducible split

theorem refreshDue_good {qq : List Instr} {s : State} {pr : Fin 36} {bank : Fin 16} (h1 : Good qq s) :
    Good qq (refreshDue s pr bank) := by
  delta refreshDue
  repeat' first
    | with_reducible assumption
    | with_reducible intro _
    | (extract_lets -underBinder +onlyGivenNames x; first | (refine good_cut (q := qq) (s := x) ?_ ?_; (on_goal 1 => subst x); (on_goal 2 => (intro _; clear_value x))) | (refine good_cutO (q := qq) (x := x) ?_ ?_; (on_goal 1 => subst x); (on_goal 2 => (intro _; clear_value x))) | (refine isP (x := x) ?_; subst x) | (refine isQ (x := x) ?_; subst x) | (refine isFab (x := x) ?_; subst x) | (refine isSram (x := x) ?_; subst x) | (refine isDram (x := x) ?_; subst x) | (refine isStateFun (x := x) ?_; subst x) | (refine isStateFun2 (x := x) ?_; subst x) | clear_value x | subst x)
    | with_reducible refine goodR_next ?_
    | with_reducible refine goodO_some ?_
    | with_reducible exact goodO_none
    | with_reducible refine goodO_of ?_ (by with_reducible assumption)
    | with_reducible refine goodP_of ?_ (by with_reducible assumption)
    | with_reducible refine goodQ_of ?_ (by with_reducible assumption)
    | with_reducible refine goodR_of ?_ (by with_reducible assumption)
    | with_reducible exact good_mk (by with_reducible assumption) rfl rfl rfl rfl rfl rfl
    | with_reducible exact good_mkD rfl rfl (by with_reducible assumption) (by with_reducible assumption) rfl rfl rfl rfl
    | dsimp -zeta only
    | with_reducible split

theorem execDramRefresh_good {qq : List Instr} {pr : Fin 36} {bank : Fin 16} {s : State} (h1 : Good qq s) :
    GoodR qq (execDramRefresh pr bank s) := by
  delta execDramRefresh
  repeat' first
    | with_reducible assumption
    | with_reducible intro _
    | (extract_lets -underBinder +onlyGivenNames x; first | (refine good_cut (q := qq) (s := x) ?_ ?_; (on_goal 1 => subst x); (on_goal 2 => (intro _; clear_value x))) | (refine good_cutO (q := qq) (x := x) ?_ ?_; (on_goal 1 => subst x); (on_goal 2 => (intro _; clear_value x))) | (refine isP (x := x) ?_; subst x) | (refine isQ (x := x) ?_; subst x) | (refine isFab (x := x) ?_; subst x) | (refine isSram (x := x) ?_; subst x) | (refine isDram (x := x) ?_; subst x) | (refine isStateFun (x := x) ?_; subst x) | (refine isStateFun2 (x := x) ?_; subst x) | clear_value x | subst x)
    | with_reducible refine goodR_next ?_
    | with_reducible refine goodO_some ?_
    | with_reducible exact goodO_none
    | with_reducible refine refreshDue_good ?_

theorem execRfmRequest_good {qq : List Instr} {pr : Fin 36} {bank : Fin 16} {s : State} (h1 : Good qq s) :
    GoodR qq (execRfmRequest pr bank s) := by
  delta execRfmRequest
  repeat' first
    | with_reducible assumption
    | with_reducible intro _
    | (extract_lets -underBinder +onlyGivenNames x; first | (refine good_cut (q := qq) (s := x) ?_ ?_; (on_goal 1 => subst x); (on_goal 2 => (intro _; clear_value x))) | (refine good_cutO (q := qq) (x := x) ?_ ?_; (on_goal 1 => subst x); (on_goal 2 => (intro _; clear_value x))) | (refine isP (x := x) ?_; subst x) | (refine isQ (x := x) ?_; subst x) | (refine isFab (x := x) ?_; subst x) | (refine isSram (x := x) ?_; subst x) | (refine isDram (x := x) ?_; subst x) | (refine isStateFun (x := x) ?_; subst x) | (refine isStateFun2 (x := x) ?_; subst x) | clear_value x | subst x)
    | with_reducible refine goodR_next ?_
    | with_reducible refine goodO_some ?_
    | with_reducible exact goodO_none
    | with_reducible refine refreshDue_good ?_

theorem execDriftTracking_good {qq : List Instr} {ch : Fin 18} {ok : Bool} {s : State} (h1 : Good qq s) :
    GoodR qq (execDriftTracking ch ok s) := by
  delta execDriftTracking
  repeat' first
    | with_reducible assumption
    | with_reducible intro _
    | (extract_lets -underBinder +onlyGivenNames x; first | (refine good_cut (q := qq) (s := x) ?_ ?_; (on_goal 1 => subst x); (on_goal 2 => (intro _; clear_value x))) | (refine good_cutO (q := qq) (x := x) ?_ ?_; (on_goal 1 => subst x); (on_goal 2 => (intro _; clear_value x))) | (refine isP (x := x) ?_; subst x) | (refine isQ (x := x) ?_; subst x) | (refine isFab (x := x) ?_; subst x) | (refine isSram (x := x) ?_; subst x) | (refine isDram (x := x) ?_; subst x) | (refine isStateFun (x := x) ?_; subst x) | (refine isStateFun2 (x := x) ?_; subst x) | clear_value x | subst x)
    | with_reducible refine goodR_next ?_
    | with_reducible refine goodO_some ?_
    | with_reducible exact goodO_none
    | with_reducible refine recordErr_good ?_
    | with_reducible refine abortMigration_good ?_
    | with_reducible refine goodO_of ?_ (by with_reducible assumption)
    | with_reducible refine goodP_of ?_ (by with_reducible assumption)
    | with_reducible refine goodQ_of ?_ (by with_reducible assumption)
    | with_reducible refine goodR_of ?_ (by with_reducible assumption)
    | with_reducible refine goodOP_of ?_ (by with_reducible assumption)
    | with_reducible refine goodOQ_of ?_ (by with_reducible assumption)
    | with_reducible exact good_mk (by with_reducible assumption) rfl rfl rfl rfl rfl rfl
    | with_reducible exact good_mkD rfl rfl (by with_reducible assumption) (by with_reducible assumption) rfl rfl rfl rfl
    | dsimp -zeta only
    | with_reducible split

theorem setRefx_good {qq : List Instr} {s : State} {ch : Fin 18} {hot : Bool} (h1 : Good qq s) :
    Good qq (setRefx s ch hot) := by
  delta setRefx
  repeat' first
    | with_reducible assumption
    | with_reducible intro _
    | (extract_lets -underBinder +onlyGivenNames x; first | (refine good_cut (q := qq) (s := x) ?_ ?_; (on_goal 1 => subst x); (on_goal 2 => (intro _; clear_value x))) | (refine good_cutO (q := qq) (x := x) ?_ ?_; (on_goal 1 => subst x); (on_goal 2 => (intro _; clear_value x))) | (refine isP (x := x) ?_; subst x) | (refine isQ (x := x) ?_; subst x) | (refine isFab (x := x) ?_; subst x) | (refine isSram (x := x) ?_; subst x) | (refine isDram (x := x) ?_; subst x) | (refine isStateFun (x := x) ?_; subst x) | (refine isStateFun2 (x := x) ?_; subst x) | clear_value x | subst x)
    | with_reducible refine goodR_next ?_
    | with_reducible refine goodO_some ?_
    | with_reducible exact goodO_none
    | with_reducible refine wrF_good ?_
    | with_reducible refine recInternal_good ?_
    | with_reducible refine goodO_of ?_ (by with_reducible assumption)
    | with_reducible refine goodP_of ?_ (by with_reducible assumption)
    | with_reducible refine goodQ_of ?_ (by with_reducible assumption)
    | with_reducible refine goodR_of ?_ (by with_reducible assumption)
    | with_reducible exact good_mk (by with_reducible assumption) rfl rfl rfl rfl rfl rfl
    | with_reducible exact good_mkD rfl rfl (by with_reducible assumption) (by with_reducible assumption) rfl rfl rfl rfl
    | dsimp -zeta only
    | with_reducible split

theorem pkgReading_good {qq : List Instr} {s : State} {t : Int} (h1 : Good qq s) :
    Good qq (pkgReading s t) := by
  delta pkgReading
  repeat' first
    | with_reducible assumption
    | with_reducible intro _
    | (extract_lets -underBinder +onlyGivenNames x; first | (refine good_cut (q := qq) (s := x) ?_ ?_; (on_goal 1 => subst x); (on_goal 2 => (intro _; clear_value x))) | (refine good_cutO (q := qq) (x := x) ?_ ?_; (on_goal 1 => subst x); (on_goal 2 => (intro _; clear_value x))) | (refine isP (x := x) ?_; subst x) | (refine isQ (x := x) ?_; subst x) | (refine isFab (x := x) ?_; subst x) | (refine isSram (x := x) ?_; subst x) | (refine isDram (x := x) ?_; subst x) | (refine isStateFun (x := x) ?_; subst x) | (refine isStateFun2 (x := x) ?_; subst x) | clear_value x | subst x)
    | with_reducible refine goodR_next ?_
    | with_reducible refine goodO_some ?_
    | with_reducible exact goodO_none
    | with_reducible refine setRefx_good ?_
    | with_reducible refine good_foldl ?_ ?_
    | with_reducible refine good_foldlP ?_ ?_
    | with_reducible refine goodO_foldl ?_ ?_
    | with_reducible refine goodO_of ?_ (by with_reducible assumption)
    | with_reducible refine goodP_of ?_ (by with_reducible assumption)
    | with_reducible refine goodQ_of ?_ (by with_reducible assumption)
    | with_reducible refine goodR_of ?_ (by with_reducible assumption)
    | with_reducible exact good_mk (by with_reducible assumption) rfl rfl rfl rfl rfl rfl
    | with_reducible exact good_mkD rfl rfl (by with_reducible assumption) (by with_reducible assumption) rfl rfl rfl rfl
    | dsimp -zeta only
    | with_reducible split

theorem channelUp_good {qq : List Instr} {s : State} {ch : Fin 18} (h1 : Good qq s) :
    Good qq (channelUp s ch) := by
  delta channelUp
  repeat' first
    | with_reducible assumption
    | with_reducible intro _
    | (extract_lets -underBinder +onlyGivenNames x; first | (refine good_cut (q := qq) (s := x) ?_ ?_; (on_goal 1 => subst x); (on_goal 2 => (intro _; clear_value x))) | (refine good_cutO (q := qq) (x := x) ?_ ?_; (on_goal 1 => subst x); (on_goal 2 => (intro _; clear_value x))) | (refine isP (x := x) ?_; subst x) | (refine isQ (x := x) ?_; subst x) | (refine isFab (x := x) ?_; subst x) | (refine isSram (x := x) ?_; subst x) | (refine isDram (x := x) ?_; subst x) | (refine isStateFun (x := x) ?_; subst x) | (refine isStateFun2 (x := x) ?_; subst x) | clear_value x | subst x)
    | with_reducible refine goodR_next ?_
    | with_reducible refine goodO_some ?_
    | with_reducible exact goodO_none
    | with_reducible refine setRefx_good ?_
    | with_reducible refine wrF_good ?_

theorem execDeviceTempReadout_good {qq : List Instr} {ch : Fin 18} {temp : BitVec 8} {dev : Fin 3} {outside : Bool} {s : State} (h1 : Good qq s) :
    GoodR qq (execDeviceTempReadout ch temp dev outside s) := by
  delta execDeviceTempReadout
  repeat' first
    | with_reducible assumption
    | with_reducible intro _
    | (extract_lets -underBinder +onlyGivenNames x; first | (refine good_cut (q := qq) (s := x) ?_ ?_; (on_goal 1 => subst x); (on_goal 2 => (intro _; clear_value x))) | (refine good_cutO (q := qq) (x := x) ?_ ?_; (on_goal 1 => subst x); (on_goal 2 => (intro _; clear_value x))) | (refine isP (x := x) ?_; subst x) | (refine isQ (x := x) ?_; subst x) | (refine isFab (x := x) ?_; subst x) | (refine isSram (x := x) ?_; subst x) | (refine isDram (x := x) ?_; subst x) | (refine isStateFun (x := x) ?_; subst x) | (refine isStateFun2 (x := x) ?_; subst x) | clear_value x | subst x)
    | with_reducible refine goodR_next ?_
    | with_reducible refine goodO_some ?_
    | with_reducible exact goodO_none
    | with_reducible refine setRefx_good ?_
    | with_reducible refine wrF_good ?_
    | with_reducible refine goodO_of ?_ (by with_reducible assumption)
    | with_reducible refine goodP_of ?_ (by with_reducible assumption)
    | with_reducible refine goodQ_of ?_ (by with_reducible assumption)
    | with_reducible refine goodR_of ?_ (by with_reducible assumption)
    | with_reducible exact good_mk (by with_reducible assumption) rfl rfl rfl rfl rfl rfl
    | with_reducible exact good_mkD rfl rfl (by with_reducible assumption) (by with_reducible assumption) rfl rfl rfl rfl
    | dsimp -zeta only
    | with_reducible split

theorem execRankPowerDown_good {qq : List Instr} {pr : Fin 36} {s : State} (h1 : Good qq s) :
    GoodR qq (execRankPowerDown pr s) := by
  delta execRankPowerDown
  repeat' first
    | with_reducible assumption
    | with_reducible intro _
    | (extract_lets -underBinder +onlyGivenNames x; first | (refine good_cut (q := qq) (s := x) ?_ ?_; (on_goal 1 => subst x); (on_goal 2 => (intro _; clear_value x))) | (refine good_cutO (q := qq) (x := x) ?_ ?_; (on_goal 1 => subst x); (on_goal 2 => (intro _; clear_value x))) | (refine isP (x := x) ?_; subst x) | (refine isQ (x := x) ?_; subst x) | (refine isFab (x := x) ?_; subst x) | (refine isSram (x := x) ?_; subst x) | (refine isDram (x := x) ?_; subst x) | (refine isStateFun (x := x) ?_; subst x) | (refine isStateFun2 (x := x) ?_; subst x) | clear_value x | subst x)
    | with_reducible refine goodR_next ?_
    | with_reducible refine goodO_some ?_
    | with_reducible exact goodO_none
    | with_reducible refine advanceTo_good ?_
    | with_reducible refine goodO_of ?_ (by with_reducible assumption)
    | with_reducible refine goodP_of ?_ (by with_reducible assumption)
    | with_reducible refine goodQ_of ?_ (by with_reducible assumption)
    | with_reducible refine goodR_of ?_ (by with_reducible assumption)
    | with_reducible exact good_mk (by with_reducible assumption) rfl rfl rfl rfl rfl rfl
    | with_reducible exact good_mkD rfl rfl (by with_reducible assumption) (by with_reducible assumption) rfl rfl rfl rfl
    | dsimp -zeta only
    | with_reducible split

theorem scrubNext_good {qq : List Instr} {s : State} (h1 : Good qq s) :
    Good qq (scrubNext s) := by
  unfold scrubNext
  generalize 32 * rankLines s = m
  split
  · exact good_upd h1 rfl rfl rfl rfl rfl rfl rfl rfl rfl rfl
  · exact bumpF_good (good_upd h1 rfl rfl rfl rfl rfl rfl rfl rfl rfl rfl)

theorem execScrubRead_good {qq : List Instr} {out : LineErr} {busy : BitVec 32} {s : State} (h1 : Good qq s) :
    GoodR qq (execScrubRead out busy s) := by
  delta execScrubRead
  repeat' first
    | with_reducible assumption
    | with_reducible intro _
    | (extract_lets -underBinder +onlyGivenNames x; first | (refine good_cut (q := qq) (s := x) ?_ ?_; (on_goal 1 => subst x); (on_goal 2 => (intro _; clear_value x))) | (refine good_cutO (q := qq) (x := x) ?_ ?_; (on_goal 1 => subst x); (on_goal 2 => (intro _; clear_value x))) | (refine isP (x := x) ?_; subst x) | (refine isQ (x := x) ?_; subst x) | (refine isFab (x := x) ?_; subst x) | (refine isSram (x := x) ?_; subst x) | (refine isDram (x := x) ?_; subst x) | (refine isStateFun (x := x) ?_; subst x) | (refine isStateFun2 (x := x) ?_; subst x) | clear_value x | subst x)
    | with_reducible refine goodR_next ?_
    | with_reducible refine goodO_some ?_
    | with_reducible exact goodO_none
    | with_reducible refine advanceTo_good ?_
    | with_reducible refine scrubNext_good ?_
    | with_reducible refine decodeLine_good ?_
    | with_reducible refine touchRank_good ?_
    | with_reducible refine reqMigration_good ?_
    | with_reducible refine noteUE_good ?_
    | with_reducible refine ceLimit_good ?_
    | with_reducible refine correctLine_good ?_
    | with_reducible refine goodO_of ?_ (by with_reducible assumption)
    | with_reducible refine goodP_of ?_ (by with_reducible assumption)
    | with_reducible refine goodQ_of ?_ (by with_reducible assumption)
    | with_reducible refine goodR_of ?_ (by with_reducible assumption)
    | with_reducible exact good_mk (by with_reducible assumption) rfl rfl rfl rfl rfl rfl
    | with_reducible exact good_mkD rfl rfl (by with_reducible assumption) (by with_reducible assumption) rfl rfl rfl rfl
    | dsimp -zeta only
    | with_reducible split

theorem dmcWrite_good {qq : List Instr} {s : State} {off : Nat} {v : Reg32} (h1 : Good qq s) :
    GoodO qq (dmcWrite s off v) := by
  delta dmcWrite
  repeat' first
    | with_reducible assumption
    | with_reducible intro _
    | (extract_lets -underBinder +onlyGivenNames x; first | (refine good_cut (q := qq) (s := x) ?_ ?_; (on_goal 1 => subst x); (on_goal 2 => (intro _; clear_value x))) | (refine good_cutO (q := qq) (x := x) ?_ ?_; (on_goal 1 => subst x); (on_goal 2 => (intro _; clear_value x))) | (refine isP (x := x) ?_; subst x) | (refine isQ (x := x) ?_; subst x) | (refine isFab (x := x) ?_; subst x) | (refine isSram (x := x) ?_; subst x) | (refine isDram (x := x) ?_; subst x) | (refine isStateFun (x := x) ?_; subst x) | (refine isStateFun2 (x := x) ?_; subst x) | clear_value x | subst x)
    | with_reducible refine goodR_next ?_
    | with_reducible refine goodO_some ?_
    | with_reducible exact goodO_none
    | with_reducible refine goodOP_some ?_
    | with_reducible exact goodOP_none
    | with_reducible refine goodOQ_some ?_
    | with_reducible exact goodOQ_none
    | with_reducible refine setMode_good ?_
    | with_reducible refine wrF_good ?_
    | with_reducible refine updPanic_good ?_
    | with_reducible refine wr_good ?_
    | with_reducible refine goodO_of ?_ (by with_reducible assumption)
    | with_reducible refine goodP_of ?_ (by with_reducible assumption)
    | with_reducible refine goodQ_of ?_ (by with_reducible assumption)
    | with_reducible refine goodR_of ?_ (by with_reducible assumption)
    | with_reducible refine goodOP_of ?_ (by with_reducible assumption)
    | with_reducible refine goodOQ_of ?_ (by with_reducible assumption)
    | with_reducible exact good_mk (by with_reducible assumption) rfl rfl rfl rfl rfl rfl
    | with_reducible exact good_mkD rfl rfl (by with_reducible assumption) (by with_reducible assumption) rfl rfl rfl rfl
    | dsimp -zeta only
    | with_reducible split

end Sys2Proof.Machine
end

