-- ==== Sys2Proof/Laws/KeepTxns.lean ====
section
/-!
SUPPORT. Laws/KeepTxns.lean: every operation of Machine/Txns.lean keeps the queue and the invariant.
-/

namespace Sys2Proof.Machine

theorem updTxn_good {qq : List Instr} {s : State} {id : Nat} {f : Txn → Txn} (h1 : Good qq s) :
    Good qq (updTxn s id f) := by
  delta updTxn
  repeat' first
    | with_reducible assumption
    | with_reducible intro _
    | (extract_lets -underBinder +onlyGivenNames x; first | (refine good_cut (q := qq) (s := x) ?_ ?_; (on_goal 1 => subst x); (on_goal 2 => (intro _; clear_value x))) | (refine isFab (x := x) ?_; subst x) | (refine isStateFun (x := x) ?_; subst x) | (refine isStateFun2 (x := x) ?_; subst x) | clear_value x | subst x)
    | with_reducible exact good_mk (by with_reducible assumption) rfl rfl rfl rfl rfl rfl

theorem dropTxn_good {qq : List Instr} {s : State} {id : Nat} (h1 : Good qq s) :
    Good qq (dropTxn s id) := by
  delta dropTxn
  repeat' first
    | with_reducible assumption
    | with_reducible intro _
    | (extract_lets -underBinder +onlyGivenNames x; first | (refine good_cut (q := qq) (s := x) ?_ ?_; (on_goal 1 => subst x); (on_goal 2 => (intro _; clear_value x))) | (refine isFab (x := x) ?_; subst x) | (refine isStateFun (x := x) ?_; subst x) | (refine isStateFun2 (x := x) ?_; subst x) | clear_value x | subst x)
    | with_reducible exact good_mk (by with_reducible assumption) rfl rfl rfl rfl rfl rfl

theorem addTxn_good {qq : List Instr} {s : State} {t : Txn} (h1 : Good qq s) :
    Good qq (addTxn s t) := by
  delta addTxn
  repeat' first
    | with_reducible assumption
    | with_reducible intro _
    | (extract_lets -underBinder +onlyGivenNames x; first | (refine good_cut (q := qq) (s := x) ?_ ?_; (on_goal 1 => subst x); (on_goal 2 => (intro _; clear_value x))) | (refine isFab (x := x) ?_; subst x) | clear_value x | subst x)
    | with_reducible refine goodR_next ?_
    | with_reducible exact good_mk (by with_reducible assumption) rfl rfl rfl rfl rfl rfl

theorem answerTxn_good {qq : List Instr} {s : State} {id : Nat} {err poison : Bool} {data : Nat} (h1 : Good qq s) :
    Good qq (answerTxn s id err poison data) := by
  delta answerTxn
  repeat' first
    | with_reducible assumption
    | with_reducible intro _
    | (extract_lets -underBinder +onlyGivenNames x; first | (refine good_cut (q := qq) (s := x) ?_ ?_; (on_goal 1 => subst x); (on_goal 2 => (intro _; clear_value x))) | (refine isStateFun (x := x) ?_; subst x) | (refine isStateFun2 (x := x) ?_; subst x) | clear_value x | subst x)
    | with_reducible refine updTxn_good ?_

theorem failTxn_good {qq : List Instr} {s : State} {t : Txn} {k : Kind} (h1 : Good qq s) :
    Good qq (failTxn s t k) := by
  delta failTxn
  repeat' first
    | with_reducible assumption
    | with_reducible intro _
    | (extract_lets -underBinder +onlyGivenNames x; first | (refine good_cut (q := qq) (s := x) ?_ ?_; (on_goal 1 => subst x); (on_goal 2 => (intro _; clear_value x))) | (refine isStateFun (x := x) ?_; subst x) | (refine isStateFun2 (x := x) ?_; subst x) | clear_value x | subst x)
    | with_reducible refine updTxn_good ?_
    | with_reducible refine answerTxn_good ?_
    | with_reducible refine ferrLog_good ?_

theorem acceptTxn_good {qq : List Instr} {s : State} {id : Nat} (h1 : Good qq s) :
    Good qq (acceptTxn s id) := by
  delta acceptTxn
  repeat' first
    | with_reducible assumption
    | with_reducible intro _
    | (extract_lets -underBinder +onlyGivenNames x; first | (refine good_cut (q := qq) (s := x) ?_ ?_; (on_goal 1 => subst x); (on_goal 2 => (intro _; clear_value x))) | (refine isStateFun (x := x) ?_; subst x) | (refine isStateFun2 (x := x) ?_; subst x) | clear_value x | subst x)
    | with_reducible refine updTxn_good ?_

theorem arriveTxn_good {qq : List Instr} {s : State} {id : Nat} (h1 : Good qq s) :
    Good qq (arriveTxn s id) := by
  delta arriveTxn
  repeat' first
    | with_reducible assumption
    | with_reducible intro _
    | (extract_lets -underBinder +onlyGivenNames x; first | (refine good_cut (q := qq) (s := x) ?_ ?_; (on_goal 1 => subst x); (on_goal 2 => (intro _; clear_value x))) | (refine good_cutO (q := qq) (x := x) ?_ ?_; (on_goal 1 => subst x); (on_goal 2 => (intro _; clear_value x))) | (refine isP (x := x) ?_; subst x) | (refine isQ (x := x) ?_; subst x) | (refine isFab (x := x) ?_; subst x) | (refine isSram (x := x) ?_; subst x) | (refine isDram (x := x) ?_; subst x) | (refine isStateFun (x := x) ?_; subst x) | (refine isStateFun2 (x := x) ?_; subst x) | clear_value x | subst x)
    | with_reducible refine goodR_next ?_
    | with_reducible refine goodO_some ?_
    | with_reducible exact goodO_none
    | with_reducible refine updTxn_good ?_

end Sys2Proof.Machine
end

