-- ==== Sys2Proof/Laws/KeepSysCache.lean ====
section
/-!
SUPPORT. Laws/KeepSysCache.lean: every operation of Machine/SysCache.lean keeps the queue and the invariant.
-/

namespace Sys2Proof.Machine

/-- Of `ScLook`. -/
def GoodSL (q : List Instr) : ScLook → Prop
  | .hit s _ => Good q s
  | .miss s _ => Good q s
  | _ => True

theorem goodSL_hit {q : List Instr} {s : State} {a} (h : Good q s) : GoodSL q (.hit s a : ScLook) := h
theorem goodSL_hit_of {q : List Instr} {s : State} {a} {x : ScLook} (e : x = .hit s a) (h : GoodSL q x) : Good q s := by subst e; exact h
theorem goodSL_miss {q : List Instr} {s : State} {a} (h : Good q s) : GoodSL q (.miss s a : ScLook) := h
theorem goodSL_miss_of {q : List Instr} {s : State} {a} {x : ScLook} (e : x = .miss s a) (h : GoodSL q x) : Good q s := by subst e; exact h
theorem goodSL_hit_inv {q : List Instr} {s : State} {a} (h : GoodSL q (.hit s a : ScLook)) : Good q s := h
theorem goodSL_miss_inv {q : List Instr} {s : State} {a} (h : GoodSL q (.miss s a : ScLook)) : Good q s := h
theorem goodSL_cut {q : List Instr} {P : Prop} {x : ScLook} (h0 : GoodSL q x) (h : GoodSL q x → P) : P := h h0
theorem goodSL_fun {α β : Type} {P : Prop} {x : α → ScLook} (h : P) : P := let _ := x; h
theorem goodSL_triv {q : List Instr} : GoodSL q .wait := trivial

theorem setWayBit_good {qq : List Instr} {s : State} {lo w : Nat} {x : Bool} (h1 : Good qq s) :
    Good qq (setWayBit s lo w x) := by
  delta setWayBit
  repeat' first
    | with_reducible assumption
    | with_reducible intro _
    | with_reducible refine wrB_good ?_
    | with_reducible split

theorem putLine_good {qq : List Instr} {s : State} {slot : Nat} {x : ScLine} (h1 : Good qq s) :
    Good qq (putLine s slot x) := by
  delta putLine
  repeat' first
    | with_reducible assumption
    | with_reducible intro _
    | (extract_lets -underBinder +onlyGivenNames x; first | (refine good_cut (q := qq) (s := x) ?_ ?_; (on_goal 1 => subst x); (on_goal 2 => (intro _; clear_value x))) | clear_value x | subst x)
    | with_reducible exact good_mk (by with_reducible assumption) rfl rfl rfl rfl rfl rfl

theorem dropLine_good {qq : List Instr} {s : State} {slot : Nat} (h1 : Good qq s) :
    Good qq (dropLine s slot) := by
  delta dropLine
  repeat' first
    | with_reducible assumption
    | with_reducible intro _
    | (extract_lets -underBinder +onlyGivenNames x; first | (refine good_cut (q := qq) (s := x) ?_ ?_; (on_goal 1 => subst x); (on_goal 2 => (intro _; clear_value x))) | (refine isStateFun (x := x) ?_; subst x) | (refine isStateFun2 (x := x) ?_; subst x) | clear_value x | subst x)
    | with_reducible exact good_mk (by with_reducible assumption) rfl rfl rfl rfl rfl rfl

theorem updResvs_good {qq : List Instr} {s : State} {f : List ScResv → List ScResv} (h1 : Good qq s) :
    Good qq (updResvs s f) := by
  delta updResvs
  repeat' first
    | with_reducible assumption
    | with_reducible intro _
    | (extract_lets -underBinder +onlyGivenNames x; first | (refine good_cut (q := qq) (s := x) ?_ ?_; (on_goal 1 => subst x); (on_goal 2 => (intro _; clear_value x))) | clear_value x | subst x)
    | with_reducible exact good_mk (by with_reducible assumption) rfl rfl rfl rfl rfl rfl

theorem scWriteOut_good {qq : List Instr} {s : State} {la : Nat} {data be : Line} {poison : Bool} {a : Attr} {master : Nat} {c : DCause} (h1 : Good qq s) :
    Good qq (scWriteOut s la data be poison a master c) := by
  delta scWriteOut
  repeat' first
    | with_reducible assumption
    | with_reducible intro _
    | with_reducible refine sendDram_good ?_

theorem installLine_good {qq : List Instr} {s : State} {slot : Nat} {la : Nat} {data : Line} {dirty : Bool} {poison : Bool} (h1 : Good qq s) :
    Good qq (installLine s slot la data dirty poison) := by
  delta installLine
  repeat' first
    | with_reducible assumption
    | with_reducible intro _
    | (extract_lets -underBinder +onlyGivenNames x; first | (refine good_cut (q := qq) (s := x) ?_ ?_; (on_goal 1 => subst x); (on_goal 2 => (intro _; clear_value x))) | (refine good_cutO (q := qq) (x := x) ?_ ?_; (on_goal 1 => subst x); (on_goal 2 => (intro _; clear_value x))) | (refine isP (x := x) ?_; subst x) | (refine isQ (x := x) ?_; subst x) | (refine isFab (x := x) ?_; subst x) | (refine isSram (x := x) ?_; subst x) | (refine isDram (x := x) ?_; subst x) | (refine isStateFun (x := x) ?_; subst x) | (refine isStateFun2 (x := x) ?_; subst x) | clear_value x | subst x)
    | with_reducible refine goodR_next ?_
    | with_reducible refine goodO_some ?_
    | with_reducible exact goodO_none
    | with_reducible refine setWayBit_good ?_
    | with_reducible refine putLine_good ?_
    | with_reducible refine scWriteOut_good ?_
    | with_reducible refine goodO_of ?_ (by with_reducible assumption)
    | with_reducible refine goodP_of ?_ (by with_reducible assumption)
    | with_reducible refine goodQ_of ?_ (by with_reducible assumption)
    | with_reducible refine goodR_of ?_ (by with_reducible assumption)
    | with_reducible exact good_mk (by with_reducible assumption) rfl rfl rfl rfl rfl rfl
    | dsimp -zeta only
    | with_reducible split

theorem wayUp_good {qq : List Instr} {s : State} {w : Nat} (h1 : Good qq s) :
    Good qq (wayUp s w) := by
  delta wayUp
  repeat' first
    | with_reducible assumption
    | with_reducible intro _
    | (extract_lets -underBinder +onlyGivenNames x; first | (refine good_cut (q := qq) (s := x) ?_ ?_; (on_goal 1 => subst x); (on_goal 2 => (intro _; clear_value x))) | (refine good_cutO (q := qq) (x := x) ?_ ?_; (on_goal 1 => subst x); (on_goal 2 => (intro _; clear_value x))) | (refine isP (x := x) ?_; subst x) | (refine isQ (x := x) ?_; subst x) | (refine isFab (x := x) ?_; subst x) | (refine isSram (x := x) ?_; subst x) | (refine isDram (x := x) ?_; subst x) | (refine isStateFun (x := x) ?_; subst x) | (refine isStateFun2 (x := x) ?_; subst x) | clear_value x | subst x)
    | with_reducible refine goodR_next ?_
    | with_reducible refine goodO_some ?_
    | with_reducible exact goodO_none
    | with_reducible refine setWayBit_good ?_
    | with_reducible refine goodO_of ?_ (by with_reducible assumption)
    | with_reducible refine goodP_of ?_ (by with_reducible assumption)
    | with_reducible refine goodQ_of ?_ (by with_reducible assumption)
    | with_reducible refine goodR_of ?_ (by with_reducible assumption)
    | with_reducible exact good_mk (by with_reducible assumption) rfl rfl rfl rfl rfl rfl

theorem scParity_good {qq : List Instr} {s : State} {slot : Nat} {a : Attr} {par : Bool} (h1 : Good qq s) :
    Good qq (scParity s slot a par) := by
  delta scParity
  repeat' first
    | with_reducible assumption
    | with_reducible intro _
    | (extract_lets -underBinder +onlyGivenNames x; first | (refine good_cut (q := qq) (s := x) ?_ ?_; (on_goal 1 => subst x); (on_goal 2 => (intro _; clear_value x))) | clear_value x | subst x)
    | with_reducible refine recordErr_good ?_
    | with_reducible refine putLine_good ?_
    | with_reducible refine recCorrected_good ?_
    | with_reducible refine dropLine_good ?_
    | with_reducible exact good_mk (by with_reducible assumption) rfl rfl rfl rfl rfl rfl
    | with_reducible split

theorem scAllocate_good {qq : List Instr} {s : State} {a : Attr} {master : Nat} {la : Nat} {slot : Nat} {vpar : Bool} (h1 : Good qq s) :
    Good qq (scAllocate s a master la slot vpar) := by
  delta scAllocate
  repeat' first
    | with_reducible assumption
    | with_reducible intro _
    | (extract_lets -underBinder +onlyGivenNames x; first | (refine good_cut (q := qq) (s := x) ?_ ?_; (on_goal 1 => subst x); (on_goal 2 => (intro _; clear_value x))) | (refine good_cutO (q := qq) (x := x) ?_ ?_; (on_goal 1 => subst x); (on_goal 2 => (intro _; clear_value x))) | (refine isP (x := x) ?_; subst x) | (refine isQ (x := x) ?_; subst x) | (refine isFab (x := x) ?_; subst x) | (refine isSram (x := x) ?_; subst x) | (refine isDram (x := x) ?_; subst x) | (refine isStateFun (x := x) ?_; subst x) | (refine isStateFun2 (x := x) ?_; subst x) | clear_value x | subst x)
    | with_reducible refine goodR_next ?_
    | with_reducible refine goodO_some ?_
    | with_reducible exact goodO_none
    | with_reducible refine scParity_good ?_
    | with_reducible refine scWriteOut_good ?_
    | with_reducible refine updResvs_good ?_
    | with_reducible refine dropLine_good ?_
    | with_reducible refine goodO_of ?_ (by with_reducible assumption)
    | with_reducible refine goodP_of ?_ (by with_reducible assumption)
    | with_reducible refine goodQ_of ?_ (by with_reducible assumption)
    | with_reducible refine goodR_of ?_ (by with_reducible assumption)
    | with_reducible exact good_mk (by with_reducible assumption) rfl rfl rfl rfl rfl rfl
    | dsimp -zeta only
    | with_reducible split

theorem scMiss_good {qq : List Instr} {s : State} {a : Attr} {master : Nat} {la : Nat} {vpar : Bool} (h1 : Good qq s) :
    GoodSL qq (scMiss s a master la vpar) := by
  delta scMiss
  repeat' first
    | with_reducible assumption
    | with_reducible intro _
    | (extract_lets -underBinder +onlyGivenNames x; first | (refine good_cut (q := qq) (s := x) ?_ ?_; (on_goal 1 => subst x); (on_goal 2 => (intro _; clear_value x))) | (refine good_cutO (q := qq) (x := x) ?_ ?_; (on_goal 1 => subst x); (on_goal 2 => (intro _; clear_value x))) | (refine goodSL_cut (q := qq) (x := x) ?_ ?_; (on_goal 1 => subst x); (on_goal 2 => (intro _; clear_value x))) | (refine isP (x := x) ?_; subst x) | (refine isQ (x := x) ?_; subst x) | (refine isFab (x := x) ?_; subst x) | (refine isSram (x := x) ?_; subst x) | (refine isDram (x := x) ?_; subst x) | (refine isStateFun (x := x) ?_; subst x) | (refine isStateFun2 (x := x) ?_; subst x) | (refine goodSL_fun (x := x) ?_; subst x) | clear_value x | subst x)
    | with_reducible refine goodR_next ?_
    | with_reducible refine goodO_some ?_
    | with_reducible exact goodO_none
    | with_reducible refine goodSL_hit ?_
    | with_reducible refine goodSL_miss ?_
    | with_reducible exact goodSL_triv
    | with_reducible refine scAllocate_good ?_
    | with_reducible refine goodO_of ?_ (by with_reducible assumption)
    | with_reducible refine goodP_of ?_ (by with_reducible assumption)
    | with_reducible refine goodQ_of ?_ (by with_reducible assumption)
    | with_reducible refine goodR_of ?_ (by with_reducible assumption)
    | with_reducible refine goodSL_hit_of (by with_reducible assumption) ?_
    | with_reducible refine goodSL_miss_of (by with_reducible assumption) ?_
    | with_reducible exact good_mk (by with_reducible assumption) rfl rfl rfl rfl rfl rfl
    | dsimp -zeta only
    | with_reducible split

theorem scLook_good {qq : List Instr} {s : State} {a : Attr} {master : Nat} {la : Nat} {isW : Bool} {par : Bool} {vpar : Bool} (h1 : Good qq s) :
    GoodSL qq (scLook s a master la isW par vpar) := by
  delta scLook
  repeat' first
    | with_reducible assumption
    | with_reducible intro _
    | (extract_lets -underBinder +onlyGivenNames x; first | (refine good_cut (q := qq) (s := x) ?_ ?_; (on_goal 1 => subst x); (on_goal 2 => (intro _; clear_value x))) | (refine good_cutO (q := qq) (x := x) ?_ ?_; (on_goal 1 => subst x); (on_goal 2 => (intro _; clear_value x))) | (refine goodSL_cut (q := qq) (x := x) ?_ ?_; (on_goal 1 => subst x); (on_goal 2 => (intro _; clear_value x))) | (refine isP (x := x) ?_; subst x) | (refine isQ (x := x) ?_; subst x) | (refine isFab (x := x) ?_; subst x) | (refine isSram (x := x) ?_; subst x) | (refine isDram (x := x) ?_; subst x) | (refine isStateFun (x := x) ?_; subst x) | (refine isStateFun2 (x := x) ?_; subst x) | (refine goodSL_fun (x := x) ?_; subst x) | clear_value x | subst x)
    | with_reducible refine goodR_next ?_
    | with_reducible refine goodO_some ?_
    | with_reducible exact goodO_none
    | with_reducible refine goodSL_hit ?_
    | with_reducible refine goodSL_miss ?_
    | with_reducible exact goodSL_triv
    | with_reducible refine scMiss_good ?_
    | with_reducible refine scParity_good ?_
    | with_reducible refine scWriteOut_good ?_
    | with_reducible refine dropLine_good ?_
    | with_reducible refine goodO_map ?_ ?_
    | with_reducible refine goodO_getD ?_ ?_
    | with_reducible refine goodO_of ?_ (by with_reducible assumption)
    | with_reducible refine goodP_of ?_ (by with_reducible assumption)
    | with_reducible refine goodQ_of ?_ (by with_reducible assumption)
    | with_reducible refine goodR_of ?_ (by with_reducible assumption)
    | with_reducible refine goodSL_hit_of (by with_reducible assumption) ?_
    | with_reducible refine goodSL_miss_of (by with_reducible assumption) ?_
    | with_reducible exact good_mk (by with_reducible assumption) rfl rfl rfl rfl rfl rfl
    | dsimp -zeta only
    | with_reducible split

theorem scSettle_good {qq : List Instr} {s : State} {slot la : Nat} {data : Line} {dirty poison : Bool} (h1 : Good qq s) :
    Good qq (scSettle s slot la data dirty poison) := by
  delta scSettle
  repeat' first
    | with_reducible assumption
    | with_reducible intro _
    | (extract_lets -underBinder +onlyGivenNames x; first | (refine good_cut (q := qq) (s := x) ?_ ?_; (on_goal 1 => subst x); (on_goal 2 => (intro _; clear_value x))) | (refine isStateFun (x := x) ?_; subst x) | (refine isStateFun2 (x := x) ?_; subst x) | clear_value x | subst x)
    | with_reducible refine updResvs_good ?_
    | with_reducible refine installLine_good ?_
    | with_reducible refine goodO_getD ?_ ?_
    | with_reducible exact good_mk (by with_reducible assumption) rfl rfl rfl rfl rfl rfl
    | with_reducible split

theorem scWriteHit_good {qq : List Instr} {s : State} {slot : Nat} {data be : Line} {poison : Bool} {a : Attr} {master : Nat} {txn : Option Nat} (h1 : Good qq s) :
    Good qq (scWriteHit s slot data be poison a master txn).1 := by
  delta scWriteHit
  repeat' first
    | with_reducible assumption
    | with_reducible intro _
    | (extract_lets -underBinder +onlyGivenNames x; first | (refine good_cut (q := qq) (s := x) ?_ ?_; (on_goal 1 => subst x); (on_goal 2 => (intro _; clear_value x))) | clear_value x | subst x)
    | with_reducible refine putLine_good ?_
    | with_reducible refine scWriteOut_good ?_
    | with_reducible exact good_mk (by with_reducible assumption) rfl rfl rfl rfl rfl rfl
    | dsimp -zeta only
    | with_reducible split

theorem execSystemCacheRead_good {qq : List Instr} {id : Nat} {par : Bool} {vpar : Bool} {s : State} (h1 : Good qq s) :
    GoodR qq (execSystemCacheRead id par vpar s) := by
  delta execSystemCacheRead
  repeat' first
    | with_reducible assumption
    | with_reducible intro _
    | (extract_lets -underBinder +onlyGivenNames x; first | (refine good_cut (q := qq) (s := x) ?_ ?_; (on_goal 1 => subst x); (on_goal 2 => (intro _; clear_value x))) | (refine good_cutO (q := qq) (x := x) ?_ ?_; (on_goal 1 => subst x); (on_goal 2 => (intro _; clear_value x))) | (refine goodSL_cut (q := qq) (x := x) ?_ ?_; (on_goal 1 => subst x); (on_goal 2 => (intro _; clear_value x))) | (refine isP (x := x) ?_; subst x) | (refine isQ (x := x) ?_; subst x) | (refine isFab (x := x) ?_; subst x) | (refine isSram (x := x) ?_; subst x) | (refine isDram (x := x) ?_; subst x) | (refine isStateFun (x := x) ?_; subst x) | (refine isStateFun2 (x := x) ?_; subst x) | (refine goodSL_fun (x := x) ?_; subst x) | clear_value x | subst x)
    | with_reducible refine goodR_next ?_
    | with_reducible refine goodO_some ?_
    | with_reducible exact goodO_none
    | with_reducible refine goodSL_hit ?_
    | with_reducible refine goodSL_miss ?_
    | with_reducible exact goodSL_triv
    | with_reducible refine failTxn_good ?_
    | with_reducible refine scLook_good ?_
    | with_reducible refine arriveTxn_good ?_
    | with_reducible refine answerTxn_good ?_
    | with_reducible refine acceptTxn_good ?_
    | with_reducible refine sendDram_good ?_
    | with_reducible refine goodO_of ?_ (by with_reducible assumption)
    | with_reducible refine goodP_of ?_ (by with_reducible assumption)
    | with_reducible refine goodQ_of ?_ (by with_reducible assumption)
    | with_reducible refine goodR_of ?_ (by with_reducible assumption)
    | with_reducible refine goodSL_hit_of (by with_reducible assumption) ?_
    | with_reducible refine goodSL_miss_of (by with_reducible assumption) ?_
    | with_reducible exact good_mk (by with_reducible assumption) rfl rfl rfl rfl rfl rfl
    | dsimp -zeta only
    | with_reducible split

theorem execSystemCacheWrite_good {qq : List Instr} {id : Nat} {par : Bool} {vpar : Bool} {s : State} (h1 : Good qq s) :
    GoodR qq (execSystemCacheWrite id par vpar s) := by
  delta execSystemCacheWrite
  repeat' first
    | with_reducible assumption
    | with_reducible intro _
    | (extract_lets -underBinder +onlyGivenNames x; first | (refine good_cut (q := qq) (s := x) ?_ ?_; (on_goal 1 => subst x); (on_goal 2 => (intro _; clear_value x))) | (refine good_cutO (q := qq) (x := x) ?_ ?_; (on_goal 1 => subst x); (on_goal 2 => (intro _; clear_value x))) | (refine goodSL_cut (q := qq) (x := x) ?_ ?_; (on_goal 1 => subst x); (on_goal 2 => (intro _; clear_value x))) | (refine isP (x := x) ?_; subst x) | (refine isQ (x := x) ?_; subst x) | (refine isFab (x := x) ?_; subst x) | (refine isSram (x := x) ?_; subst x) | (refine isDram (x := x) ?_; subst x) | (refine isStateFun (x := x) ?_; subst x) | (refine isStateFun2 (x := x) ?_; subst x) | (refine goodSL_fun (x := x) ?_; subst x) | clear_value x | subst x)
    | with_reducible refine goodR_next ?_
    | with_reducible refine goodO_some ?_
    | with_reducible exact goodO_none
    | with_reducible refine goodSL_hit ?_
    | with_reducible refine goodSL_miss ?_
    | with_reducible exact goodSL_triv
    | with_reducible refine failTxn_good ?_
    | with_reducible refine scLook_good ?_
    | with_reducible refine arriveTxn_good ?_
    | with_reducible refine scWriteHit_good ?_
    | with_reducible refine answerTxn_good ?_
    | with_reducible refine acceptTxn_good ?_
    | with_reducible refine scWriteOut_good ?_
    | with_reducible refine scSettle_good ?_
    | with_reducible refine sendDram_good ?_
    | with_reducible refine goodO_of ?_ (by with_reducible assumption)
    | with_reducible refine goodP_of ?_ (by with_reducible assumption)
    | with_reducible refine goodQ_of ?_ (by with_reducible assumption)
    | with_reducible refine goodR_of ?_ (by with_reducible assumption)
    | with_reducible refine goodSL_hit_of (by with_reducible assumption) ?_
    | with_reducible refine goodSL_miss_of (by with_reducible assumption) ?_
    | with_reducible exact good_mk (by with_reducible assumption) rfl rfl rfl rfl rfl rfl
    | dsimp -zeta only
    | with_reducible split

theorem takeOwn_good {qq : List Instr} {s : State} {r : DReq} {slot : Option Nat} (h1 : Good qq s) :
    Good qq (takeOwn s r slot).1 := by
  delta takeOwn
  repeat' first
    | with_reducible assumption
    | with_reducible intro _
    | (extract_lets -underBinder +onlyGivenNames x; first | (refine good_cut (q := qq) (s := x) ?_ ?_; (on_goal 1 => subst x); (on_goal 2 => (intro _; clear_value x))) | (refine good_cutO (q := qq) (x := x) ?_ ?_; (on_goal 1 => subst x); (on_goal 2 => (intro _; clear_value x))) | (refine isP (x := x) ?_; subst x) | (refine isQ (x := x) ?_; subst x) | (refine isFab (x := x) ?_; subst x) | (refine isSram (x := x) ?_; subst x) | (refine isDram (x := x) ?_; subst x) | (refine isStateFun (x := x) ?_; subst x) | (refine isStateFun2 (x := x) ?_; subst x) | clear_value x | subst x)
    | with_reducible refine goodR_next ?_
    | with_reducible refine goodO_some ?_
    | with_reducible exact goodO_none
    | with_reducible refine goodOP_some ?_
    | with_reducible exact goodOP_none
    | with_reducible refine goodOQ_some ?_
    | with_reducible exact goodOQ_none
    | with_reducible refine dropDreq_good ?_
    | with_reducible refine scSettle_good ?_
    | with_reducible refine goodO_of ?_ (by with_reducible assumption)
    | with_reducible refine goodP_of ?_ (by with_reducible assumption)
    | with_reducible refine goodQ_of ?_ (by with_reducible assumption)
    | with_reducible refine goodR_of ?_ (by with_reducible assumption)
    | with_reducible exact good_mk (by with_reducible assumption) rfl rfl rfl rfl rfl rfl
    | dsimp -zeta only
    | with_reducible split

theorem execScFillReturn_good {qq : List Instr} {id : Nat} {s : State} (h1 : Good qq s) :
    GoodR qq (execScFillReturn id s) := by
  delta execScFillReturn
  repeat' first
    | with_reducible assumption
    | with_reducible intro _
    | (extract_lets -underBinder +onlyGivenNames x; first | (refine good_cut (q := qq) (s := x) ?_ ?_; (on_goal 1 => subst x); (on_goal 2 => (intro _; clear_value x))) | (refine good_cutO (q := qq) (x := x) ?_ ?_; (on_goal 1 => subst x); (on_goal 2 => (intro _; clear_value x))) | (refine isP (x := x) ?_; subst x) | (refine isQ (x := x) ?_; subst x) | (refine isFab (x := x) ?_; subst x) | (refine isSram (x := x) ?_; subst x) | (refine isDram (x := x) ?_; subst x) | (refine isStateFun (x := x) ?_; subst x) | (refine isStateFun2 (x := x) ?_; subst x) | clear_value x | subst x)
    | with_reducible refine goodR_next ?_
    | with_reducible refine goodO_some ?_
    | with_reducible exact goodO_none
    | with_reducible refine dropDreq_good ?_
    | with_reducible refine scSettle_good ?_
    | with_reducible refine answerTxn_good ?_
    | with_reducible refine takeOwn_good ?_
    | with_reducible refine goodO_of ?_ (by with_reducible assumption)
    | with_reducible refine goodP_of ?_ (by with_reducible assumption)
    | with_reducible refine goodQ_of ?_ (by with_reducible assumption)
    | with_reducible refine goodR_of ?_ (by with_reducible assumption)
    | with_reducible exact good_mk (by with_reducible assumption) rfl rfl rfl rfl rfl rfl
    | dsimp -zeta only
    | with_reducible split

theorem execVictimAccepted_good {qq : List Instr} {slot : Nat} {s : State} (h1 : Good qq s) :
    GoodR qq (execVictimAccepted slot s) := by
  delta execVictimAccepted
  repeat' first
    | with_reducible assumption
    | with_reducible intro _
    | (extract_lets -underBinder +onlyGivenNames x; first | (refine good_cut (q := qq) (s := x) ?_ ?_; (on_goal 1 => subst x); (on_goal 2 => (intro _; clear_value x))) | (refine isDram (x := x) ?_; subst x) | (refine isStateFun (x := x) ?_; subst x) | (refine isStateFun2 (x := x) ?_; subst x) | clear_value x | subst x)
    | with_reducible refine goodR_next ?_
    | with_reducible refine dropLine_good ?_
    | with_reducible refine installLine_good ?_
    | with_reducible refine updResvs_good ?_
    | with_reducible exact good_mk (by with_reducible assumption) rfl rfl rfl rfl rfl rfl
    | with_reducible split

theorem execDramWriteComplete_good {qq : List Instr} {id : Nat} {out : LineErr} {s : State} (h1 : Good qq s) :
    GoodR qq (execDramWriteComplete id out s) := by
  delta execDramWriteComplete
  repeat' first
    | with_reducible assumption
    | with_reducible intro _
    | (extract_lets -underBinder +onlyGivenNames x; first | (refine good_cut (q := qq) (s := x) ?_ ?_; (on_goal 1 => subst x); (on_goal 2 => (intro _; clear_value x))) | (refine good_cutO (q := qq) (x := x) ?_ ?_; (on_goal 1 => subst x); (on_goal 2 => (intro _; clear_value x))) | (refine isP (x := x) ?_; subst x) | (refine isQ (x := x) ?_; subst x) | (refine isFab (x := x) ?_; subst x) | (refine isSram (x := x) ?_; subst x) | (refine isDram (x := x) ?_; subst x) | (refine isStateFun (x := x) ?_; subst x) | (refine isStateFun2 (x := x) ?_; subst x) | clear_value x | subst x)
    | with_reducible refine goodR_next ?_
    | with_reducible refine goodO_some ?_
    | with_reducible exact goodO_none
    | with_reducible refine returnTok_good ?_
    | with_reducible refine dropDreq_good ?_
    | with_reducible refine writeLine_good ?_
    | with_reducible refine answerTxn_good ?_
    | with_reducible refine goodO_of ?_ (by with_reducible assumption)
    | with_reducible refine goodP_of ?_ (by with_reducible assumption)
    | with_reducible refine goodQ_of ?_ (by with_reducible assumption)
    | with_reducible refine goodR_of ?_ (by with_reducible assumption)
    | with_reducible exact good_mk (by with_reducible assumption) rfl rfl rfl rfl rfl rfl
    | dsimp -zeta only
    | with_reducible split

theorem sendOwn_good {qq : List Instr} {s : State} {a : Attr} {master : Nat} {la : Nat} {slot : Option Nat} (h1 : Good qq s) :
    Good qq (sendOwn s a master la slot) := by
  delta sendOwn
  repeat' first
    | with_reducible assumption
    | with_reducible intro _
    | (extract_lets -underBinder +onlyGivenNames x; first | (refine good_cut (q := qq) (s := x) ?_ ?_; (on_goal 1 => subst x); (on_goal 2 => (intro _; clear_value x))) | (refine good_cutO (q := qq) (x := x) ?_ ?_; (on_goal 1 => subst x); (on_goal 2 => (intro _; clear_value x))) | (refine isP (x := x) ?_; subst x) | (refine isQ (x := x) ?_; subst x) | (refine isFab (x := x) ?_; subst x) | (refine isSram (x := x) ?_; subst x) | (refine isDram (x := x) ?_; subst x) | (refine isStateFun (x := x) ?_; subst x) | (refine isStateFun2 (x := x) ?_; subst x) | clear_value x | subst x)
    | with_reducible refine goodR_next ?_
    | with_reducible refine goodO_some ?_
    | with_reducible exact goodO_none
    | with_reducible refine goodOP_some ?_
    | with_reducible exact goodOP_none
    | with_reducible refine goodOQ_some ?_
    | with_reducible exact goodOQ_none
    | with_reducible refine acceptDreq_good ?_
    | with_reducible refine sendDram_good ?_

theorem pocReadLine_good {qq : List Instr} {s : State} {a : Attr} {master : Nat} {la : Nat} {par : Bool} {vpar : Bool} {out : LineErr} (h1 : Good qq s) :
    GoodEP qq (pocReadLine s a master la par vpar out) := by
  delta pocReadLine
  repeat' first
    | with_reducible assumption
    | with_reducible intro _
    | (extract_lets -underBinder +onlyGivenNames x; first | (refine good_cut (q := qq) (s := x) ?_ ?_; (on_goal 1 => subst x); (on_goal 2 => (intro _; clear_value x))) | (refine good_cutO (q := qq) (x := x) ?_ ?_; (on_goal 1 => subst x); (on_goal 2 => (intro _; clear_value x))) | (refine goodE_cut (q := qq) (x := x) ?_ ?_; (on_goal 1 => subst x); (on_goal 2 => (intro _; clear_value x))) | (refine goodEP_cut (q := qq) (x := x) ?_ ?_; (on_goal 1 => subst x); (on_goal 2 => (intro _; clear_value x))) | (refine goodSL_cut (q := qq) (x := x) ?_ ?_; (on_goal 1 => subst x); (on_goal 2 => (intro _; clear_value x))) | (refine isP (x := x) ?_; subst x) | (refine isQ (x := x) ?_; subst x) | (refine isFab (x := x) ?_; subst x) | (refine isSram (x := x) ?_; subst x) | (refine isDram (x := x) ?_; subst x) | (refine isStateFun (x := x) ?_; subst x) | (refine isStateFun2 (x := x) ?_; subst x) | (refine goodE_fun (x := x) ?_; subst x) | (refine goodSL_fun (x := x) ?_; subst x) | clear_value x | subst x)
    | with_reducible refine goodR_next ?_
    | with_reducible refine goodO_some ?_
    | with_reducible exact goodO_none
    | with_reducible refine goodE_ok ?_
    | with_reducible refine goodE_error ?_
    | with_reducible refine goodEP_ok ?_
    | with_reducible refine goodEP_error ?_
    | with_reducible refine goodSL_hit ?_
    | with_reducible refine goodSL_miss ?_
    | with_reducible exact goodSL_triv
    | with_reducible refine takeOwn_good ?_
    | with_reducible refine scLook_good ?_
    | with_reducible refine readNow_good ?_
    | with_reducible refine scSettle_good ?_
    | with_reducible refine sendOwn_good ?_
    | with_reducible refine goodO_of ?_ (by with_reducible assumption)
    | with_reducible refine goodP_of ?_ (by with_reducible assumption)
    | with_reducible refine goodQ_of ?_ (by with_reducible assumption)
    | with_reducible refine goodR_of ?_ (by with_reducible assumption)
    | with_reducible refine goodOP_of ?_ (by with_reducible assumption)
    | with_reducible refine goodOQ_of ?_ (by with_reducible assumption)
    | with_reducible refine goodE_ok_of (by with_reducible assumption) ?_
    | with_reducible refine goodE_error_of (by with_reducible assumption) ?_
    | with_reducible refine goodEP_ok_of (by with_reducible assumption) ?_
    | with_reducible refine goodEP_error_of (by with_reducible assumption) ?_
    | with_reducible refine goodSL_hit_of (by with_reducible assumption) ?_
    | with_reducible refine goodSL_miss_of (by with_reducible assumption) ?_
    | with_reducible exact good_mk (by with_reducible assumption) rfl rfl rfl rfl rfl rfl
    | dsimp -zeta only
    | with_reducible split

theorem pocWriteLine_good {qq : List Instr} {s : State} {a : Attr} {master : Nat} {la : Nat} {data : Line} {be : Line} {poison : Bool} {par : Bool} {vpar : Bool} {out : LineErr} (h1 : Good qq s) :
    GoodE qq (pocWriteLine s a master la data be poison par vpar out) := by
  delta pocWriteLine
  repeat' first
    | with_reducible assumption
    | with_reducible intro _
    | (extract_lets -underBinder +onlyGivenNames x; first | (refine good_cut (q := qq) (s := x) ?_ ?_; (on_goal 1 => subst x); (on_goal 2 => (intro _; clear_value x))) | (refine good_cutO (q := qq) (x := x) ?_ ?_; (on_goal 1 => subst x); (on_goal 2 => (intro _; clear_value x))) | (refine goodE_cut (q := qq) (x := x) ?_ ?_; (on_goal 1 => subst x); (on_goal 2 => (intro _; clear_value x))) | (refine goodSL_cut (q := qq) (x := x) ?_ ?_; (on_goal 1 => subst x); (on_goal 2 => (intro _; clear_value x))) | (refine isP (x := x) ?_; subst x) | (refine isQ (x := x) ?_; subst x) | (refine isFab (x := x) ?_; subst x) | (refine isSram (x := x) ?_; subst x) | (refine isDram (x := x) ?_; subst x) | (refine isStateFun (x := x) ?_; subst x) | (refine isStateFun2 (x := x) ?_; subst x) | (refine goodE_fun (x := x) ?_; subst x) | (refine goodSL_fun (x := x) ?_; subst x) | clear_value x | subst x)
    | with_reducible refine goodR_next ?_
    | with_reducible refine goodO_some ?_
    | with_reducible exact goodO_none
    | with_reducible refine goodE_ok ?_
    | with_reducible refine goodE_error ?_
    | with_reducible refine goodSL_hit ?_
    | with_reducible refine goodSL_miss ?_
    | with_reducible exact goodSL_triv
    | with_reducible refine scSettle_good ?_
    | with_reducible refine dropDreq_good ?_
    | with_reducible refine scWriteOut_good ?_
    | with_reducible refine scLook_good ?_
    | with_reducible refine scWriteHit_good ?_
    | with_reducible refine readNow_good ?_
    | with_reducible refine sendOwn_good ?_
    | with_reducible refine goodO_of ?_ (by with_reducible assumption)
    | with_reducible refine goodP_of ?_ (by with_reducible assumption)
    | with_reducible refine goodQ_of ?_ (by with_reducible assumption)
    | with_reducible refine goodR_of ?_ (by with_reducible assumption)
    | with_reducible refine goodOP_of ?_ (by with_reducible assumption)
    | with_reducible refine goodOQ_of ?_ (by with_reducible assumption)
    | with_reducible refine goodE_ok_of (by with_reducible assumption) ?_
    | with_reducible refine goodE_error_of (by with_reducible assumption) ?_
    | with_reducible refine goodSL_hit_of (by with_reducible assumption) ?_
    | with_reducible refine goodSL_miss_of (by with_reducible assumption) ?_
    | with_reducible exact good_mk (by with_reducible assumption) rfl rfl rfl rfl rfl rfl
    | dsimp -zeta only
    | with_reducible split

theorem scStart_good {qq : List Instr} {s : State} {v : Reg32} (h1 : Good qq s) :
    Good qq (scStart s v) := by
  delta scStart
  repeat' first
    | with_reducible assumption
    | with_reducible intro _
    | (extract_lets -underBinder +onlyGivenNames x; first | (refine good_cut (q := qq) (s := x) ?_ ?_; (on_goal 1 => subst x); (on_goal 2 => (intro _; clear_value x))) | (refine good_cutO (q := qq) (x := x) ?_ ?_; (on_goal 1 => subst x); (on_goal 2 => (intro _; clear_value x))) | (refine isP (x := x) ?_; subst x) | (refine isQ (x := x) ?_; subst x) | (refine isFab (x := x) ?_; subst x) | (refine isSram (x := x) ?_; subst x) | (refine isDram (x := x) ?_; subst x) | (refine isStateFun (x := x) ?_; subst x) | (refine isStateFun2 (x := x) ?_; subst x) | clear_value x | subst x)
    | with_reducible refine goodR_next ?_
    | with_reducible refine goodO_some ?_
    | with_reducible exact goodO_none
    | with_reducible refine wrB_good ?_
    | with_reducible refine wr_good ?_
    | with_reducible refine setWayBit_good ?_
    | with_reducible refine goodO_of ?_ (by with_reducible assumption)
    | with_reducible refine goodP_of ?_ (by with_reducible assumption)
    | with_reducible refine goodQ_of ?_ (by with_reducible assumption)
    | with_reducible refine goodR_of ?_ (by with_reducible assumption)
    | with_reducible exact good_mk (by with_reducible assumption) rfl rfl rfl rfl rfl rfl
    | dsimp -zeta only
    | with_reducible split

theorem scCleanSlot_good {qq : List Instr} {pars : List Nat} {s : State} {slot : Nat} (h1 : Good qq s) :
    Good qq (scCleanSlot pars s slot) := by
  delta scCleanSlot
  repeat' first
    | with_reducible assumption
    | with_reducible intro _
    | (extract_lets -underBinder +onlyGivenNames x; first | (refine good_cut (q := qq) (s := x) ?_ ?_; (on_goal 1 => subst x); (on_goal 2 => (intro _; clear_value x))) | clear_value x | subst x)
    | with_reducible refine scParity_good ?_
    | with_reducible refine scWriteOut_good ?_
    | with_reducible refine putLine_good ?_
    | with_reducible exact good_mk (by with_reducible assumption) rfl rfl rfl rfl rfl rfl
    | with_reducible split

theorem scRangeSlot_good {qq : List Instr} {op : Nat} {incl : Bool} {pars : List Nat} {s : State} {slot : Nat} (h1 : Good qq s) :
    Good qq (scRangeSlot op incl pars s slot) := by
  delta scRangeSlot
  repeat' first
    | with_reducible assumption
    | with_reducible intro _
    | with_reducible refine scCleanSlot_good ?_
    | with_reducible refine bumpF_good ?_
    | with_reducible refine dropLine_good ?_
    | with_reducible refine scParity_good ?_
    | with_reducible split

theorem scPreloadLine_good {qq : List Instr} {part : Nat} {la : Nat} {pars : List Nat} {s : State} (h1 : Good qq s) :
    GoodO qq (scPreloadLine part la pars s) := by
  delta scPreloadLine
  repeat' first
    | with_reducible assumption
    | with_reducible intro _
    | (extract_lets -underBinder +onlyGivenNames x; first | (refine good_cut (q := qq) (s := x) ?_ ?_; (on_goal 1 => subst x); (on_goal 2 => (intro _; clear_value x))) | (refine good_cutO (q := qq) (x := x) ?_ ?_; (on_goal 1 => subst x); (on_goal 2 => (intro _; clear_value x))) | (refine isP (x := x) ?_; subst x) | (refine isQ (x := x) ?_; subst x) | (refine isFab (x := x) ?_; subst x) | (refine isSram (x := x) ?_; subst x) | (refine isDram (x := x) ?_; subst x) | (refine isStateFun (x := x) ?_; subst x) | (refine isStateFun2 (x := x) ?_; subst x) | clear_value x | subst x)
    | with_reducible refine goodR_next ?_
    | with_reducible refine goodO_some ?_
    | with_reducible exact goodO_none
    | with_reducible refine bumpF_good ?_
    | with_reducible refine sendDram_good ?_
    | with_reducible refine scAllocate_good ?_
    | with_reducible refine goodO_of ?_ (by with_reducible assumption)
    | with_reducible refine goodP_of ?_ (by with_reducible assumption)
    | with_reducible refine goodQ_of ?_ (by with_reducible assumption)
    | with_reducible refine goodR_of ?_ (by with_reducible assumption)
    | with_reducible refine goodOP_of ?_ (by with_reducible assumption)
    | with_reducible refine goodOQ_of ?_ (by with_reducible assumption)
    | with_reducible exact good_mk (by with_reducible assumption) rfl rfl rfl rfl rfl rfl
    | dsimp -zeta only
    | with_reducible split

theorem scPreloadRun_good {qq : List Instr} {c : ScCmd} {pars : List Nat} {n i : Nat} {s : State} (h1 : Good qq s) :
    Good qq (scPreloadRun c pars n i s).1 := by
  induction n generalizing i s with
  | zero => exact h1
  | succ n ih =>
    unfold scPreloadRun
    split
    · exact h1
    · have g := scPreloadLine_good (part := c.part) (la := c.line + i) (pars := pars) h1
      split
      · exact ih (goodO_of g (by assumption))
      · exact h1

theorem scAdvance_good {qq : List Instr} {c : ScCmd} {n : Nat} {pars : List Nat} {s : State} (h1 : Good qq s) :
    Good qq (scAdvance c n pars s).1 := by
  delta scAdvance
  repeat' first
    | with_reducible assumption
    | with_reducible intro _
    | (extract_lets -underBinder +onlyGivenNames x; first | (refine good_cut (q := qq) (s := x) ?_ ?_; (on_goal 1 => subst x); (on_goal 2 => (intro _; clear_value x))) | (refine good_cutO (q := qq) (x := x) ?_ ?_; (on_goal 1 => subst x); (on_goal 2 => (intro _; clear_value x))) | (refine isP (x := x) ?_; subst x) | (refine isQ (x := x) ?_; subst x) | (refine isFab (x := x) ?_; subst x) | (refine isSram (x := x) ?_; subst x) | (refine isDram (x := x) ?_; subst x) | (refine isStateFun (x := x) ?_; subst x) | (refine isStateFun2 (x := x) ?_; subst x) | clear_value x | subst x)
    | with_reducible refine goodR_next ?_
    | with_reducible refine goodO_some ?_
    | with_reducible exact goodO_none
    | with_reducible refine scPreloadRun_good ?_
    | with_reducible refine dropLine_good ?_
    | with_reducible refine scCleanSlot_good ?_
    | with_reducible refine scRangeSlot_good ?_
    | with_reducible refine good_foldl ?_ ?_
    | with_reducible refine good_foldlP ?_ ?_
    | with_reducible refine goodO_foldl ?_ ?_
    | with_reducible refine goodO_of ?_ (by with_reducible assumption)
    | with_reducible refine goodP_of ?_ (by with_reducible assumption)
    | with_reducible refine goodQ_of ?_ (by with_reducible assumption)
    | with_reducible refine goodR_of ?_ (by with_reducible assumption)
    | with_reducible exact good_mk (by with_reducible assumption) rfl rfl rfl rfl rfl rfl
    | dsimp -zeta only
    | with_reducible split

theorem execScCmdDone_good {qq : List Instr} {n : Nat} {pars : List Nat} {s : State} (h1 : Good qq s) :
    GoodR qq (execScCmdDone n pars s) := by
  delta execScCmdDone
  repeat' first
    | with_reducible assumption
    | with_reducible intro _
    | (extract_lets -underBinder +onlyGivenNames x; first | (refine good_cut (q := qq) (s := x) ?_ ?_; (on_goal 1 => subst x); (on_goal 2 => (intro _; clear_value x))) | (refine good_cutO (q := qq) (x := x) ?_ ?_; (on_goal 1 => subst x); (on_goal 2 => (intro _; clear_value x))) | (refine isP (x := x) ?_; subst x) | (refine isQ (x := x) ?_; subst x) | (refine isFab (x := x) ?_; subst x) | (refine isSram (x := x) ?_; subst x) | (refine isDram (x := x) ?_; subst x) | (refine isStateFun (x := x) ?_; subst x) | (refine isStateFun2 (x := x) ?_; subst x) | clear_value x | subst x)
    | with_reducible refine goodR_next ?_
    | with_reducible refine goodO_some ?_
    | with_reducible exact goodO_none
    | with_reducible refine scAdvance_good ?_
    | with_reducible refine setWayBit_good ?_
    | with_reducible refine wayUp_good ?_
    | with_reducible refine wrF_good ?_
    | with_reducible refine wrB_good ?_
    | with_reducible refine setIrq_good ?_
    | with_reducible refine goodO_of ?_ (by with_reducible assumption)
    | with_reducible refine goodP_of ?_ (by with_reducible assumption)
    | with_reducible refine goodQ_of ?_ (by with_reducible assumption)
    | with_reducible refine goodR_of ?_ (by with_reducible assumption)
    | with_reducible exact good_mk (by with_reducible assumption) rfl rfl rfl rfl rfl rfl
    | dsimp -zeta only
    | with_reducible split

theorem stopPreload_good {qq : List Instr} {s : State} {p : Nat} (h1 : Good qq s) :
    Good qq (stopPreload s p) := by
  delta stopPreload
  repeat' first
    | with_reducible assumption
    | with_reducible intro _
    | (extract_lets -underBinder +onlyGivenNames x; first | (refine good_cut (q := qq) (s := x) ?_ ?_; (on_goal 1 => subst x); (on_goal 2 => (intro _; clear_value x))) | (refine good_cutO (q := qq) (x := x) ?_ ?_; (on_goal 1 => subst x); (on_goal 2 => (intro _; clear_value x))) | (refine isP (x := x) ?_; subst x) | (refine isQ (x := x) ?_; subst x) | (refine isFab (x := x) ?_; subst x) | (refine isSram (x := x) ?_; subst x) | (refine isDram (x := x) ?_; subst x) | (refine isStateFun (x := x) ?_; subst x) | (refine isStateFun2 (x := x) ?_; subst x) | clear_value x | subst x)
    | with_reducible refine goodR_next ?_
    | with_reducible refine goodO_some ?_
    | with_reducible exact goodO_none
    | with_reducible refine goodO_map ?_ ?_
    | with_reducible refine goodO_of ?_ (by with_reducible assumption)
    | with_reducible refine goodP_of ?_ (by with_reducible assumption)
    | with_reducible refine goodQ_of ?_ (by with_reducible assumption)
    | with_reducible refine goodR_of ?_ (by with_reducible assumption)
    | with_reducible exact good_mk (by with_reducible assumption) rfl rfl rfl rfl rfl rfl

theorem partWrite_good {qq : List Instr} {s : State} {off : Nat} {v : Reg32} (h1 : Good qq s) :
    Good qq (partWrite s off v) := by
  delta partWrite
  repeat' first
    | with_reducible assumption
    | with_reducible intro _
    | (extract_lets -underBinder +onlyGivenNames x; first | (refine good_cut (q := qq) (s := x) ?_ ?_; (on_goal 1 => subst x); (on_goal 2 => (intro _; clear_value x))) | (refine good_cutO (q := qq) (x := x) ?_ ?_; (on_goal 1 => subst x); (on_goal 2 => (intro _; clear_value x))) | (refine isP (x := x) ?_; subst x) | (refine isQ (x := x) ?_; subst x) | (refine isFab (x := x) ?_; subst x) | (refine isSram (x := x) ?_; subst x) | (refine isDram (x := x) ?_; subst x) | (refine isStateFun (x := x) ?_; subst x) | (refine isStateFun2 (x := x) ?_; subst x) | clear_value x | subst x)
    | with_reducible refine goodR_next ?_
    | with_reducible refine goodO_some ?_
    | with_reducible exact goodO_none
    | with_reducible refine wr_good ?_
    | with_reducible refine stopPreload_good ?_
    | with_reducible refine wrB_good ?_
    | with_reducible refine goodO_of ?_ (by with_reducible assumption)
    | with_reducible refine goodP_of ?_ (by with_reducible assumption)
    | with_reducible refine goodQ_of ?_ (by with_reducible assumption)
    | with_reducible refine goodR_of ?_ (by with_reducible assumption)
    | with_reducible exact good_mk (by with_reducible assumption) rfl rfl rfl rfl rfl rfl
    | dsimp -zeta only
    | with_reducible split

theorem execPartitionCleanDone_good {qq : List Instr} {p : Fin 16} {pars : List Nat} {s : State} (h1 : Good qq s) :
    GoodR qq (execPartitionCleanDone p pars s) := by
  delta execPartitionCleanDone
  repeat' first
    | with_reducible assumption
    | with_reducible intro _
    | (extract_lets -underBinder +onlyGivenNames x; first | (refine good_cut (q := qq) (s := x) ?_ ?_; (on_goal 1 => subst x); (on_goal 2 => (intro _; clear_value x))) | (refine good_cutO (q := qq) (x := x) ?_ ?_; (on_goal 1 => subst x); (on_goal 2 => (intro _; clear_value x))) | (refine isP (x := x) ?_; subst x) | (refine isQ (x := x) ?_; subst x) | (refine isFab (x := x) ?_; subst x) | (refine isSram (x := x) ?_; subst x) | (refine isDram (x := x) ?_; subst x) | (refine isStateFun (x := x) ?_; subst x) | (refine isStateFun2 (x := x) ?_; subst x) | clear_value x | subst x)
    | with_reducible refine goodR_next ?_
    | with_reducible refine goodO_some ?_
    | with_reducible exact goodO_none
    | with_reducible refine scCleanSlot_good ?_
    | with_reducible refine wrB_good ?_
    | with_reducible refine good_foldl ?_ ?_
    | with_reducible refine good_foldlP ?_ ?_
    | with_reducible refine goodO_foldl ?_ ?_
    | with_reducible refine goodO_of ?_ (by with_reducible assumption)
    | with_reducible refine goodP_of ?_ (by with_reducible assumption)
    | with_reducible refine goodQ_of ?_ (by with_reducible assumption)
    | with_reducible refine goodR_of ?_ (by with_reducible assumption)
    | with_reducible exact good_mk (by with_reducible assumption) rfl rfl rfl rfl rfl rfl
    | with_reducible exact good_mkD rfl rfl (by with_reducible assumption) (by with_reducible assumption) rfl rfl rfl rfl
    | dsimp -zeta only
    | with_reducible split

end Sys2Proof.Machine
end

