-- ==== Sys2Proof/Laws/KeepSram.lean ====
section
/-!
SUPPORT. Laws/KeepSram.lean: every operation of Machine/Sram.lean keeps the queue and the invariant.
-/

namespace Sys2Proof.Machine

theorem setSramByte_good {qq : List Instr} {s : State} {a : Nat} {b : Byte} (h1 : Good qq s) :
    Good qq (setSramByte s a b) := by
  unfold setSramByte
  refine { h1 with sram := SMap.wf_set h1.sram _ _, szer := ?_ }
  have hz := h1.szer
  simp only [List.all_eq_true] at hz ⊢
  intro e he
  rcases SMap.mem_setF he with ⟨rfl, hn⟩ | h
  · simp only [bankZeroed] at hn ⊢
    by_cases hz' : SMap.getF zeroedAtReset s.sram.zeroed (bankAt a) = true <;> by_cases hb : b = 0 <;> simp_all
  · exact hz e h

theorem setSramBytes_good {qq : List Instr} {s : State} {a n mask data : Nat} (h1 : Good qq s) :
    Good qq (setSramBytes s a n mask data) := by
  delta setSramBytes
  repeat' first
    | with_reducible assumption
    | with_reducible intro _
    | (extract_lets -underBinder +onlyGivenNames x; first | (refine good_cut (q := qq) (s := x) ?_ ?_; (on_goal 1 => subst x); (on_goal 2 => (intro _; clear_value x))) | (refine isStateFun (x := x) ?_; subst x) | (refine isStateFun2 (x := x) ?_; subst x) | clear_value x | subst x)
    | with_reducible refine setSramByte_good ?_
    | with_reducible refine good_foldl ?_ ?_
    | with_reducible refine good_foldlP ?_ ?_
    | with_reducible split

theorem zeroBanks_good {qq : List Instr} {s : State} {lo hi : Nat} (h1 : Good qq s) :
    Good qq (zeroBanks s lo hi) := by
  unfold zeroBanks
  dsimp only
  have hz := h1.szer
  have key : ∀ (p : Nat → Bool) (l : List Nat) (m : SMap Bool), SMap.wfF zeroedAtReset m = true →
      SMap.wfF zeroedAtReset (l.foldl (fun m b => if p b = true then SMap.setF zeroedAtReset m b true else m) m) = true ∧
      ∀ k, p k = false → SMap.getF zeroedAtReset (l.foldl (fun m b => if p b = true then SMap.setF zeroedAtReset m b true else m) m) k = SMap.getF zeroedAtReset m k := by
    intro p l
    induction l with
    | nil => exact fun m h => ⟨h, fun _ _ => rfl⟩
    | cons b l ih =>
      intro m hm
      simp only [List.foldl_cons]
      split
      · refine ⟨(ih _ (SMap.wfF_setF hm _ _)).1, fun k hk => ?_⟩
        rw [(ih _ (SMap.wfF_setF hm _ _)).2 k hk]
        exact SMap.getF_setF_ne (SMap.rising_of_wfF hm) (by rintro rfl; simp_all)
      · exact ih _ hm
  have k2 := key (fun b => decide (lo ≤ b) && decide (b < hi)) (List.range 64) s.sram.zeroed h1.szwf
  refine { h1 with sram := ?_, sbad := ?_, szwf := k2.1, szer := ?_ }
  · dsimp only
    exact SMap.wf_drop h1.sram _
  · dsimp only
    exact SMap.wf_drop h1.sbad _
  simp only [List.all_eq_true] at hz ⊢
  intro e he
  have he' := List.mem_filter.1 he
  have hr : (decide (lo ≤ bankAt e.1) && decide (bankAt e.1 < hi)) = false := by
    have := he'.2
    dsimp only at this
    revert this
    cases (decide (lo ≤ bankAt e.1) && decide (bankAt e.1 < hi)) <;> simp
  have h2 := hz e he'.1
  have h4 := k2.2 _ hr
  rw [← h4] at h2
  exact h2

theorem zeroBytes_good {qq : List Instr} {s : State} {a n : Nat} (h1 : Good qq s) :
    Good qq (zeroBytes s a n) := by
  unfold zeroBytes
  dsimp only
  have hz := h1.szer
  have hm := h1.sram
  simp only [SMap.wf, SMap.wfF, Bool.and_eq_true, SMap.noDefault, List.all_eq_true, decide_eq_true_eq] at hm
  refine { h1 with sram := ?_, sbad := ?_, szer := ?_ }
  · simp only [SMap.wf, SMap.wfF, Bool.and_eq_true, SMap.noDefault, List.all_eq_true, decide_eq_true_eq]
    refine ⟨SMap.rising_filterMap hm.1 _ ?_, ?_⟩
    · intro e e' he
      split at he
      · split at he
        · cases he
        · cases he; rfl
      · cases he; rfl
    · intro e he
      obtain ⟨e0, h0, h2⟩ := List.mem_filterMap.1 he
      split at h2
      · split at h2 <;> cases h2
        simp
      · cases h2; exact hm.2 _ h0
  · dsimp only
    exact SMap.wf_drop h1.sbad _
  · simp only [List.all_eq_true] at hz ⊢
    intro e he
    obtain ⟨e0, h0, h2⟩ := List.mem_filterMap.1 he
    split at h2
    · split at h2
      · cases h2
      · cases h2
        rename_i hb
        simp only [bankZeroed] at hb
        simp [hb]
    · cases h2; exact hz _ h0

theorem sramFinding_good {qq : List Instr} {s : State} {a : Attr} {g : Nat} {ce ue : Bool} (h1 : Good qq s) :
    Good qq (sramFinding s a g ce ue) := by
  delta sramFinding
  repeat' first
    | with_reducible assumption
    | with_reducible intro _
    | (extract_lets -underBinder +onlyGivenNames x; first | (refine good_cut (q := qq) (s := x) ?_ ?_; (on_goal 1 => subst x); (on_goal 2 => (intro _; clear_value x))) | (refine isSram (x := x) ?_; subst x) | clear_value x | subst x)
    | with_reducible refine recordErr_good ?_
    | with_reducible refine recCorrected_good ?_
    | with_reducible exact good_mk (by with_reducible assumption) rfl rfl rfl rfl rfl rfl
    | with_reducible exact good_mkB rfl (by with_reducible assumption) rfl rfl rfl rfl rfl
    | with_reducible split

theorem sramFindings_good {qq : List Instr} {s : State} {a : Attr} {l : List Nat} {ce : BitVec 8} {ue : BitVec 8} (h1 : Good qq s) :
    Good qq (sramFindings s a l ce ue) := by
  delta sramFindings
  repeat' first
    | with_reducible assumption
    | with_reducible intro _
    | (extract_lets -underBinder +onlyGivenNames x; first | (refine good_cut (q := qq) (s := x) ?_ ?_; (on_goal 1 => subst x); (on_goal 2 => (intro _; clear_value x))) | (refine good_cutO (q := qq) (x := x) ?_ ?_; (on_goal 1 => subst x); (on_goal 2 => (intro _; clear_value x))) | (refine isP (x := x) ?_; subst x) | (refine isQ (x := x) ?_; subst x) | (refine isFab (x := x) ?_; subst x) | (refine isSram (x := x) ?_; subst x) | (refine isDram (x := x) ?_; subst x) | (refine isStateFun (x := x) ?_; subst x) | (refine isStateFun2 (x := x) ?_; subst x) | clear_value x | subst x)
    | with_reducible refine goodR_next ?_
    | with_reducible refine goodO_some ?_
    | with_reducible exact goodO_none
    | with_reducible refine sramFinding_good ?_
    | with_reducible refine good_foldl ?_ ?_

theorem sramRead_good {qq : List Instr} {s : State} {a : Attr} {addr : Nat} {n : Nat} {ce : BitVec 8} {ue : BitVec 8} (h1 : Good qq s) :
    Good qq (sramRead s a addr n ce ue).1 := by
  delta sramRead
  repeat' first
    | with_reducible assumption
    | with_reducible intro _
    | (extract_lets -underBinder +onlyGivenNames x; first | (refine good_cut (q := qq) (s := x) ?_ ?_; (on_goal 1 => subst x); (on_goal 2 => (intro _; clear_value x))) | (refine good_cutO (q := qq) (x := x) ?_ ?_; (on_goal 1 => subst x); (on_goal 2 => (intro _; clear_value x))) | (refine isP (x := x) ?_; subst x) | (refine isQ (x := x) ?_; subst x) | (refine isFab (x := x) ?_; subst x) | (refine isSram (x := x) ?_; subst x) | (refine isDram (x := x) ?_; subst x) | (refine isStateFun (x := x) ?_; subst x) | (refine isStateFun2 (x := x) ?_; subst x) | clear_value x | subst x)
    | with_reducible refine goodR_next ?_
    | with_reducible refine goodO_some ?_
    | with_reducible exact goodO_none
    | with_reducible refine sramFindings_good ?_

theorem sramWrite_good {qq : List Instr} {s : State} {a : Attr} {addr : Nat} {n : Nat} {mask : Nat} {data : Nat} {poison : Bool} {ce : BitVec 8} {ue : BitVec 8} (h1 : Good qq s) :
    Good qq (sramWrite s a addr n mask data poison ce ue) := by
  delta sramWrite
  repeat' first
    | with_reducible assumption
    | with_reducible intro _
    | (extract_lets -underBinder +onlyGivenNames x; first | (refine good_cut (q := qq) (s := x) ?_ ?_; (on_goal 1 => subst x); (on_goal 2 => (intro _; clear_value x))) | (refine good_cutO (q := qq) (x := x) ?_ ?_; (on_goal 1 => subst x); (on_goal 2 => (intro _; clear_value x))) | (refine isP (x := x) ?_; subst x) | (refine isQ (x := x) ?_; subst x) | (refine isFab (x := x) ?_; subst x) | (refine isSram (x := x) ?_; subst x) | (refine isDram (x := x) ?_; subst x) | (refine isStateFun (x := x) ?_; subst x) | (refine isStateFun2 (x := x) ?_; subst x) | clear_value x | subst x)
    | with_reducible refine goodR_next ?_
    | with_reducible refine goodO_some ?_
    | with_reducible exact goodO_none
    | with_reducible refine sramFindings_good ?_
    | with_reducible refine setSramBytes_good ?_
    | with_reducible refine good_foldl ?_ ?_
    | with_reducible refine good_foldlP ?_ ?_
    | with_reducible refine goodO_foldl ?_ ?_
    | with_reducible refine goodO_of ?_ (by with_reducible assumption)
    | with_reducible refine goodP_of ?_ (by with_reducible assumption)
    | with_reducible refine goodQ_of ?_ (by with_reducible assumption)
    | with_reducible refine goodR_of ?_ (by with_reducible assumption)
    | with_reducible exact good_mk (by with_reducible assumption) rfl rfl rfl rfl rfl rfl
    | with_reducible exact good_mkB rfl (by with_reducible assumption) rfl rfl rfl rfl rfl
    | dsimp -zeta only
    | with_reducible split

theorem startMove_good {qq : List Instr} {s : State} {b : Nat} {st : Nat} (h1 : Good qq s) :
    Good qq (startMove s b st) := by
  delta startMove
  repeat' first
    | with_reducible assumption
    | with_reducible intro _
    | (extract_lets -underBinder +onlyGivenNames x; first | (refine good_cut (q := qq) (s := x) ?_ ?_; (on_goal 1 => subst x); (on_goal 2 => (intro _; clear_value x))) | (refine good_cutO (q := qq) (x := x) ?_ ?_; (on_goal 1 => subst x); (on_goal 2 => (intro _; clear_value x))) | (refine isP (x := x) ?_; subst x) | (refine isQ (x := x) ?_; subst x) | (refine isFab (x := x) ?_; subst x) | (refine isSram (x := x) ?_; subst x) | (refine isDram (x := x) ?_; subst x) | (refine isStateFun (x := x) ?_; subst x) | (refine isStateFun2 (x := x) ?_; subst x) | clear_value x | subst x)
    | with_reducible refine goodR_next ?_
    | with_reducible refine goodO_some ?_
    | with_reducible exact goodO_none
    | with_reducible refine wrF_good ?_
    | with_reducible refine goodO_getD ?_ ?_
    | with_reducible refine goodO_of ?_ (by with_reducible assumption)
    | with_reducible refine goodP_of ?_ (by with_reducible assumption)
    | with_reducible refine goodQ_of ?_ (by with_reducible assumption)
    | with_reducible refine goodR_of ?_ (by with_reducible assumption)
    | with_reducible refine goodOP_of ?_ (by with_reducible assumption)
    | with_reducible refine goodOQ_of ?_ (by with_reducible assumption)
    | with_reducible exact good_mk (by with_reducible assumption) rfl rfl rfl rfl rfl rfl

theorem askedMoves_good {qq : List Instr} {s : State} (h1 : Good qq s) :
    Good qq (askedMoves s) := by
  delta askedMoves
  repeat' first
    | with_reducible assumption
    | with_reducible intro _
    | (extract_lets -underBinder +onlyGivenNames x; first | (refine good_cut (q := qq) (s := x) ?_ ?_; (on_goal 1 => subst x); (on_goal 2 => (intro _; clear_value x))) | (refine good_cutO (q := qq) (x := x) ?_ ?_; (on_goal 1 => subst x); (on_goal 2 => (intro _; clear_value x))) | (refine isP (x := x) ?_; subst x) | (refine isQ (x := x) ?_; subst x) | (refine isFab (x := x) ?_; subst x) | (refine isSram (x := x) ?_; subst x) | (refine isDram (x := x) ?_; subst x) | (refine isStateFun (x := x) ?_; subst x) | (refine isStateFun2 (x := x) ?_; subst x) | clear_value x | subst x)
    | with_reducible refine goodR_next ?_
    | with_reducible refine goodO_some ?_
    | with_reducible exact goodO_none
    | with_reducible refine startMove_good ?_
    | with_reducible refine good_foldl ?_ ?_
    | with_reducible refine good_foldlP ?_ ?_
    | with_reducible refine goodO_foldl ?_ ?_
    | with_reducible refine goodO_of ?_ (by with_reducible assumption)
    | with_reducible refine goodP_of ?_ (by with_reducible assumption)
    | with_reducible refine goodQ_of ?_ (by with_reducible assumption)
    | with_reducible refine goodR_of ?_ (by with_reducible assumption)
    | with_reducible exact good_mk (by with_reducible assumption) rfl rfl rfl rfl rfl rfl
    | with_reducible exact good_mkB rfl (by with_reducible assumption) rfl rfl rfl rfl rfl
    | dsimp -zeta only
    | with_reducible split

theorem portTurn_good {qq : List Instr} {s : State} {w : PortWait} {here : Bool} (h1 : Good qq s) :
    GoodO qq (portTurn s w here) := by
  delta portTurn
  repeat' first
    | with_reducible assumption
    | with_reducible intro _
    | (extract_lets -underBinder +onlyGivenNames x; first | (refine good_cut (q := qq) (s := x) ?_ ?_; (on_goal 1 => subst x); (on_goal 2 => (intro _; clear_value x))) | (refine good_cutO (q := qq) (x := x) ?_ ?_; (on_goal 1 => subst x); (on_goal 2 => (intro _; clear_value x))) | (refine isP (x := x) ?_; subst x) | (refine isQ (x := x) ?_; subst x) | (refine isFab (x := x) ?_; subst x) | (refine isSram (x := x) ?_; subst x) | (refine isDram (x := x) ?_; subst x) | (refine isStateFun (x := x) ?_; subst x) | (refine isStateFun2 (x := x) ?_; subst x) | clear_value x | subst x)
    | with_reducible refine goodR_next ?_
    | with_reducible refine goodO_some ?_
    | with_reducible exact goodO_none
    | with_reducible refine goodOP_some ?_
    | with_reducible exact goodOP_none
    | with_reducible refine goodOQ_some ?_
    | with_reducible exact goodOQ_none
    | with_reducible refine advanceTo_good ?_
    | with_reducible refine goodO_of ?_ (by with_reducible assumption)
    | with_reducible refine goodP_of ?_ (by with_reducible assumption)
    | with_reducible refine goodQ_of ?_ (by with_reducible assumption)
    | with_reducible refine goodR_of ?_ (by with_reducible assumption)
    | with_reducible exact good_mk (by with_reducible assumption) rfl rfl rfl rfl rfl rfl
    | dsimp -zeta only
    | with_reducible split

theorem holdPort_good {qq : List Instr} {s : State} {p : Nat} {isW : Bool} {addr : Nat} {n : Nat} {mask : Nat} (h1 : Good qq s) :
    Good qq (holdPort s p isW addr n mask) := by
  delta holdPort
  repeat' first
    | with_reducible assumption
    | with_reducible intro _
    | (extract_lets -underBinder +onlyGivenNames x; first | (refine good_cut (q := qq) (s := x) ?_ ?_; (on_goal 1 => subst x); (on_goal 2 => (intro _; clear_value x))) | (refine good_cutO (q := qq) (x := x) ?_ ?_; (on_goal 1 => subst x); (on_goal 2 => (intro _; clear_value x))) | (refine isP (x := x) ?_; subst x) | (refine isQ (x := x) ?_; subst x) | (refine isFab (x := x) ?_; subst x) | (refine isSram (x := x) ?_; subst x) | (refine isDram (x := x) ?_; subst x) | (refine isStateFun (x := x) ?_; subst x) | (refine isStateFun2 (x := x) ?_; subst x) | clear_value x | subst x)
    | with_reducible refine goodR_next ?_
    | with_reducible refine goodO_some ?_
    | with_reducible exact goodO_none
    | with_reducible refine goodO_of ?_ (by with_reducible assumption)
    | with_reducible refine goodP_of ?_ (by with_reducible assumption)
    | with_reducible refine goodQ_of ?_ (by with_reducible assumption)
    | with_reducible refine goodR_of ?_ (by with_reducible assumption)
    | with_reducible exact good_mk (by with_reducible assumption) rfl rfl rfl rfl rfl rfl

theorem portRead_good {qq : List Instr} {s : State} {p : Nat} {a : Attr} {addr : Nat} {n : Nat} {ce : BitVec 8} {ue : BitVec 8} (h1 : Good qq s) :
    Good qq (portRead s p a addr n ce ue).1 := by
  delta portRead
  repeat' first
    | with_reducible assumption
    | with_reducible intro _
    | (extract_lets -underBinder +onlyGivenNames x; first | (refine good_cut (q := qq) (s := x) ?_ ?_; (on_goal 1 => subst x); (on_goal 2 => (intro _; clear_value x))) | (refine good_cutO (q := qq) (x := x) ?_ ?_; (on_goal 1 => subst x); (on_goal 2 => (intro _; clear_value x))) | (refine isP (x := x) ?_; subst x) | (refine isQ (x := x) ?_; subst x) | (refine isFab (x := x) ?_; subst x) | (refine isSram (x := x) ?_; subst x) | (refine isDram (x := x) ?_; subst x) | (refine isStateFun (x := x) ?_; subst x) | (refine isStateFun2 (x := x) ?_; subst x) | clear_value x | subst x)
    | with_reducible refine goodR_next ?_
    | with_reducible refine goodO_some ?_
    | with_reducible exact goodO_none
    | with_reducible refine sramRead_good ?_
    | with_reducible refine holdPort_good ?_

theorem portWrite_good {qq : List Instr} {s : State} {p : Nat} {a : Attr} {addr : Nat} {n : Nat} {mask : Nat} {data : Nat} {poison : Bool} {ce : BitVec 8} {ue : BitVec 8} (h1 : Good qq s) :
    Good qq (portWrite s p a addr n mask data poison ce ue) := by
  delta portWrite
  repeat' first
    | with_reducible assumption
    | with_reducible intro _
    | (extract_lets -underBinder +onlyGivenNames x; first | (refine good_cut (q := qq) (s := x) ?_ ?_; (on_goal 1 => subst x); (on_goal 2 => (intro _; clear_value x))) | (refine good_cutO (q := qq) (x := x) ?_ ?_; (on_goal 1 => subst x); (on_goal 2 => (intro _; clear_value x))) | (refine isP (x := x) ?_; subst x) | (refine isQ (x := x) ?_; subst x) | (refine isFab (x := x) ?_; subst x) | (refine isSram (x := x) ?_; subst x) | (refine isDram (x := x) ?_; subst x) | (refine isStateFun (x := x) ?_; subst x) | (refine isStateFun2 (x := x) ?_; subst x) | clear_value x | subst x)
    | with_reducible refine goodR_next ?_
    | with_reducible refine goodO_some ?_
    | with_reducible exact goodO_none
    | with_reducible refine sramWrite_good ?_
    | with_reducible refine holdPort_good ?_

theorem portStands_good {qq : List Instr} {s : State} {id : Nat} {w : PortWait} (h1 : Good qq s) :
    Good qq (portStands s id w) := by
  delta portStands
  repeat' first
    | with_reducible assumption
    | with_reducible intro _
    | (extract_lets -underBinder +onlyGivenNames x; first | (refine good_cut (q := qq) (s := x) ?_ ?_; (on_goal 1 => subst x); (on_goal 2 => (intro _; clear_value x))) | (refine good_cutO (q := qq) (x := x) ?_ ?_; (on_goal 1 => subst x); (on_goal 2 => (intro _; clear_value x))) | (refine isP (x := x) ?_; subst x) | (refine isQ (x := x) ?_; subst x) | (refine isFab (x := x) ?_; subst x) | (refine isSram (x := x) ?_; subst x) | (refine isDram (x := x) ?_; subst x) | (refine isStateFun (x := x) ?_; subst x) | (refine isStateFun2 (x := x) ?_; subst x) | clear_value x | subst x)
    | with_reducible refine goodR_next ?_
    | with_reducible refine goodO_some ?_
    | with_reducible exact goodO_none
    | with_reducible refine confCount_good ?_
    | with_reducible refine updTxn_good ?_

theorem execSramAccess_good {qq : List Instr} {id : Nat} {waited : Nat} {ce : BitVec 8} {ue : BitVec 8} {s : State} (h1 : Good qq s) :
    GoodR qq (execSramAccess id waited ce ue s) := by
  delta execSramAccess
  repeat' first
    | with_reducible assumption
    | with_reducible intro _
    | (extract_lets -underBinder +onlyGivenNames x; first | (refine good_cut (q := qq) (s := x) ?_ ?_; (on_goal 1 => subst x); (on_goal 2 => (intro _; clear_value x))) | (refine good_cutO (q := qq) (x := x) ?_ ?_; (on_goal 1 => subst x); (on_goal 2 => (intro _; clear_value x))) | (refine isP (x := x) ?_; subst x) | (refine isQ (x := x) ?_; subst x) | (refine isFab (x := x) ?_; subst x) | (refine isSram (x := x) ?_; subst x) | (refine isDram (x := x) ?_; subst x) | (refine isStateFun (x := x) ?_; subst x) | (refine isStateFun2 (x := x) ?_; subst x) | clear_value x | subst x)
    | with_reducible refine goodR_next ?_
    | with_reducible refine goodO_some ?_
    | with_reducible exact goodO_none
    | with_reducible refine portTurn_good ?_
    | with_reducible refine portStands_good ?_
    | with_reducible refine askedMoves_good ?_
    | with_reducible refine failTxn_good ?_
    | with_reducible refine answerTxn_good ?_
    | with_reducible refine portWrite_good ?_
    | with_reducible refine portRead_good ?_
    | with_reducible refine goodO_of ?_ (by with_reducible assumption)
    | with_reducible refine goodP_of ?_ (by with_reducible assumption)
    | with_reducible refine goodQ_of ?_ (by with_reducible assumption)
    | with_reducible refine goodR_of ?_ (by with_reducible assumption)
    | with_reducible exact good_mk (by with_reducible assumption) rfl rfl rfl rfl rfl rfl
    | with_reducible exact good_mkB rfl (by with_reducible assumption) rfl rfl rfl rfl rfl
    | dsimp -zeta only
    | with_reducible split

theorem askMove_good {qq : List Instr} {s : State} {b : Nat} {st : Nat} (h1 : Good qq s) :
    Good qq (askMove s b st) := by
  delta askMove
  repeat' first
    | with_reducible assumption
    | with_reducible intro _
    | (extract_lets -underBinder +onlyGivenNames x; first | (refine good_cut (q := qq) (s := x) ?_ ?_; (on_goal 1 => subst x); (on_goal 2 => (intro _; clear_value x))) | (refine good_cutO (q := qq) (x := x) ?_ ?_; (on_goal 1 => subst x); (on_goal 2 => (intro _; clear_value x))) | (refine isP (x := x) ?_; subst x) | (refine isQ (x := x) ?_; subst x) | (refine isFab (x := x) ?_; subst x) | (refine isSram (x := x) ?_; subst x) | (refine isDram (x := x) ?_; subst x) | (refine isStateFun (x := x) ?_; subst x) | (refine isStateFun2 (x := x) ?_; subst x) | clear_value x | subst x)
    | with_reducible refine goodR_next ?_
    | with_reducible refine goodO_some ?_
    | with_reducible exact goodO_none
    | with_reducible refine startMove_good ?_
    | with_reducible refine goodO_of ?_ (by with_reducible assumption)
    | with_reducible refine goodP_of ?_ (by with_reducible assumption)
    | with_reducible refine goodQ_of ?_ (by with_reducible assumption)
    | with_reducible refine goodR_of ?_ (by with_reducible assumption)
    | with_reducible refine goodOP_of ?_ (by with_reducible assumption)
    | with_reducible refine goodOQ_of ?_ (by with_reducible assumption)
    | with_reducible exact good_mk (by with_reducible assumption) rfl rfl rfl rfl rfl rfl
    | with_reducible exact good_mkB rfl (by with_reducible assumption) rfl rfl rfl rfl rfl
    | dsimp -zeta only
    | with_reducible split

theorem srWrite_good {qq : List Instr} {s : State} {off : Nat} {v : Reg32} (h1 : Good qq s) :
    Good qq (srWrite s off v) := by
  delta srWrite
  repeat' first
    | with_reducible assumption
    | with_reducible intro _
    | (extract_lets -underBinder +onlyGivenNames x; first | (refine good_cut (q := qq) (s := x) ?_ ?_; (on_goal 1 => subst x); (on_goal 2 => (intro _; clear_value x))) | (refine good_cutO (q := qq) (x := x) ?_ ?_; (on_goal 1 => subst x); (on_goal 2 => (intro _; clear_value x))) | (refine isP (x := x) ?_; subst x) | (refine isQ (x := x) ?_; subst x) | (refine isFab (x := x) ?_; subst x) | (refine isSram (x := x) ?_; subst x) | (refine isDram (x := x) ?_; subst x) | (refine isStateFun (x := x) ?_; subst x) | (refine isStateFun2 (x := x) ?_; subst x) | clear_value x | subst x)
    | with_reducible refine goodR_next ?_
    | with_reducible refine goodO_some ?_
    | with_reducible exact goodO_none
    | with_reducible refine askMove_good ?_
    | with_reducible refine good_foldl ?_ ?_

theorem execSramBankStateDone_good {qq : List Instr} {b : Fin 64} {s : State} (h1 : Good qq s) :
    GoodR qq (execSramBankStateDone b s) := by
  delta execSramBankStateDone
  repeat' first
    | with_reducible assumption
    | with_reducible intro _
    | (extract_lets -underBinder +onlyGivenNames x; first | (refine good_cut (q := qq) (s := x) ?_ ?_; (on_goal 1 => subst x); (on_goal 2 => (intro _; clear_value x))) | (refine isSram (x := x) ?_; subst x) | clear_value x | subst x)
    | with_reducible refine goodR_next ?_
    | with_reducible refine zeroBanks_good ?_
    | with_reducible refine wrF_good ?_
    | with_reducible exact good_mk (by with_reducible assumption) rfl rfl rfl rfl rfl rfl
    | with_reducible split

end Sys2Proof.Machine
end

