-- ==== Sys2Proof/Laws/KeepNgFrame.lean ====
section
/-!
SUPPORT. Laws/KeepNgFrame.lean: every operation of Machine/NgFrame.lean keeps the queue and the invariant.
-/

namespace Sys2Proof.Machine

/-- Of `NgRes`. -/
def GoodN (q : List Instr) : NgRes → Prop
  | .ok s _ => Good q s
  | .stopped s => Good q s
  | _ => True

theorem goodN_ok {q : List Instr} {s : State} {a} (h : Good q s) : GoodN q (.ok s a : NgRes) := h
theorem goodN_ok_of {q : List Instr} {s : State} {a} {x : NgRes} (e : x = .ok s a) (h : GoodN q x) : Good q s := by subst e; exact h
theorem goodN_stopped {q : List Instr} {s : State} (h : Good q s) : GoodN q (.stopped s : NgRes) := h
theorem goodN_stopped_of {q : List Instr} {s : State} {x : NgRes} (e : x = .stopped s) (h : GoodN q x) : Good q s := by subst e; exact h
theorem goodN_ok_inv {q : List Instr} {s : State} {a} (h : GoodN q (.ok s a : NgRes)) : Good q s := h
theorem goodN_stopped_inv {q : List Instr} {s : State} (h : GoodN q (.stopped s : NgRes)) : Good q s := h
theorem goodN_cut {q : List Instr} {P : Prop} {x : NgRes} (h0 : GoodN q x) (h : GoodN q x → P) : P := h h0
theorem goodN_fun {α β : Type} {P : Prop} {x : α → NgRes} (h : P) : P := let _ := x; h
theorem goodN_triv {q : List Instr} {c : Nat} : GoodN q (.fault c) := trivial

theorem waitHalt_good {qq : List Instr} {s : State} {e : Fin 512} {t : Fin 4} (h1 : Good qq s) :
    Good qq (waitHalt s e t) := by
  delta waitHalt
  repeat' first
    | with_reducible assumption
    | with_reducible intro _
    | (extract_lets -underBinder +onlyGivenNames x; first | (refine good_cut (q := qq) (s := x) ?_ ?_; (on_goal 1 => subst x); (on_goal 2 => (intro _; clear_value x))) | (refine good_cutO (q := qq) (x := x) ?_ ?_; (on_goal 1 => subst x); (on_goal 2 => (intro _; clear_value x))) | (refine isP (x := x) ?_; subst x) | (refine isQ (x := x) ?_; subst x) | (refine isFab (x := x) ?_; subst x) | (refine isSram (x := x) ?_; subst x) | (refine isDram (x := x) ?_; subst x) | (refine isStateFun (x := x) ?_; subst x) | (refine isStateFun2 (x := x) ?_; subst x) | clear_value x | subst x)
    | with_reducible refine goodR_next ?_
    | with_reducible refine goodO_some ?_
    | with_reducible exact goodO_none
    | with_reducible refine updThr_good ?_
    | with_reducible refine goodO_of ?_ (by with_reducible assumption)
    | with_reducible refine goodP_of ?_ (by with_reducible assumption)
    | with_reducible refine goodQ_of ?_ (by with_reducible assumption)
    | with_reducible refine goodR_of ?_ (by with_reducible assumption)
    | with_reducible exact good_mk (by with_reducible assumption) rfl rfl rfl rfl rfl rfl
    | dsimp -zeta only
    | with_reducible split

theorem selectState_good {qq : List Instr} {s : State} {e : Fin 512} {slot : Nat} (h1 : Good qq s) :
    Good qq (selectState s e slot) := by
  delta selectState
  repeat' first
    | with_reducible assumption
    | with_reducible intro _
    | (extract_lets -underBinder +onlyGivenNames x; first | (refine good_cut (q := qq) (s := x) ?_ ?_; (on_goal 1 => subst x); (on_goal 2 => (intro _; clear_value x))) | (refine good_cutO (q := qq) (x := x) ?_ ?_; (on_goal 1 => subst x); (on_goal 2 => (intro _; clear_value x))) | (refine isP (x := x) ?_; subst x) | (refine isQ (x := x) ?_; subst x) | (refine isFab (x := x) ?_; subst x) | (refine isSram (x := x) ?_; subst x) | (refine isDram (x := x) ?_; subst x) | (refine isStateFun (x := x) ?_; subst x) | (refine isStateFun2 (x := x) ?_; subst x) | clear_value x | subst x)
    | with_reducible refine goodR_next ?_
    | with_reducible refine goodO_some ?_
    | with_reducible exact goodO_none
    | with_reducible refine cellsAt_good ?_

theorem fetchCorrected_good {qq : List Instr} {s : State} {e : Fin 512} {t : Fin 4} (h1 : Good qq s) :
    Good qq (fetchCorrected s e t) := by
  delta fetchCorrected
  repeat' first
    | with_reducible assumption
    | with_reducible intro _
    | (extract_lets -underBinder +onlyGivenNames x; first | (refine good_cut (q := qq) (s := x) ?_ ?_; (on_goal 1 => subst x); (on_goal 2 => (intro _; clear_value x))) | (refine good_cutO (q := qq) (x := x) ?_ ?_; (on_goal 1 => subst x); (on_goal 2 => (intro _; clear_value x))) | (refine isP (x := x) ?_; subst x) | (refine isQ (x := x) ?_; subst x) | (refine isFab (x := x) ?_; subst x) | (refine isSram (x := x) ?_; subst x) | (refine isDram (x := x) ?_; subst x) | (refine isStateFun (x := x) ?_; subst x) | (refine isStateFun2 (x := x) ?_; subst x) | clear_value x | subst x)
    | with_reducible refine goodR_next ?_
    | with_reducible refine goodO_some ?_
    | with_reducible exact goodO_none
    | with_reducible refine lmCorrected_good ?_
    | with_reducible refine goodO_of ?_ (by with_reducible assumption)
    | with_reducible refine goodP_of ?_ (by with_reducible assumption)
    | with_reducible refine goodQ_of ?_ (by with_reducible assumption)
    | with_reducible refine goodR_of ?_ (by with_reducible assumption)
    | with_reducible exact good_mk (by with_reducible assumption) rfl rfl rfl rfl rfl rfl
    | dsimp -zeta only
    | with_reducible split

theorem noIssue_good {qq : List Instr} {s : State} {e : Fin 512} {t : Fin 4} (h1 : Good qq s) :
    Good qq (noIssue s e t) := by
  delta noIssue
  repeat' first
    | with_reducible assumption
    | with_reducible intro _
    | (extract_lets -underBinder +onlyGivenNames x; first | (refine good_cut (q := qq) (s := x) ?_ ?_; (on_goal 1 => subst x); (on_goal 2 => (intro _; clear_value x))) | (refine good_cutO (q := qq) (x := x) ?_ ?_; (on_goal 1 => subst x); (on_goal 2 => (intro _; clear_value x))) | (refine isP (x := x) ?_; subst x) | (refine isQ (x := x) ?_; subst x) | (refine isFab (x := x) ?_; subst x) | (refine isSram (x := x) ?_; subst x) | (refine isDram (x := x) ?_; subst x) | (refine isStateFun (x := x) ?_; subst x) | (refine isStateFun2 (x := x) ?_; subst x) | clear_value x | subst x)
    | with_reducible refine goodR_next ?_
    | with_reducible refine goodO_some ?_
    | with_reducible exact goodO_none
    | with_reducible refine lmStop_good ?_
    | with_reducible refine advanceTo_good ?_
    | with_reducible refine goodO_of ?_ (by with_reducible assumption)
    | with_reducible refine goodP_of ?_ (by with_reducible assumption)
    | with_reducible refine goodQ_of ?_ (by with_reducible assumption)
    | with_reducible refine goodR_of ?_ (by with_reducible assumption)
    | with_reducible exact good_mk (by with_reducible assumption) rfl rfl rfl rfl rfl rfl
    | dsimp -zeta only
    | with_reducible split

theorem endStep_good {qq : List Instr} {s : State} {e : Fin 512} {t : Fin 4} {stepping : Bool} (h1 : Good qq s) :
    Good qq (endStep s e t stepping) := by
  delta endStep
  repeat' first
    | with_reducible assumption
    | with_reducible intro _
    | (extract_lets -underBinder +onlyGivenNames x; first | (refine good_cut (q := qq) (s := x) ?_ ?_; (on_goal 1 => subst x); (on_goal 2 => (intro _; clear_value x))) | (refine good_cutO (q := qq) (x := x) ?_ ?_; (on_goal 1 => subst x); (on_goal 2 => (intro _; clear_value x))) | (refine isP (x := x) ?_; subst x) | (refine isQ (x := x) ?_; subst x) | (refine isFab (x := x) ?_; subst x) | (refine isSram (x := x) ?_; subst x) | (refine isDram (x := x) ?_; subst x) | (refine isStateFun (x := x) ?_; subst x) | (refine isStateFun2 (x := x) ?_; subst x) | clear_value x | subst x)
    | with_reducible refine goodR_next ?_
    | with_reducible refine goodO_some ?_
    | with_reducible exact goodO_none
    | with_reducible refine setIrq_good ?_
    | with_reducible refine updThr_good ?_
    | with_reducible refine goodO_of ?_ (by with_reducible assumption)
    | with_reducible refine goodP_of ?_ (by with_reducible assumption)
    | with_reducible refine goodQ_of ?_ (by with_reducible assumption)
    | with_reducible refine goodR_of ?_ (by with_reducible assumption)
    | with_reducible exact good_mk (by with_reducible assumption) rfl rfl rfl rfl rfl rfl
    | dsimp -zeta only
    | with_reducible split

theorem ngInstr_good {qq : List Instr} {e : Fin 512} {t : Fin 4} {slots : Nat} {ct : Bool} {rsvd : Bool} {body : State → Nat → NgRes} {s : State} (h1 : ∀ a0 a1, Good qq a0 → GoodN qq (body a0 a1)) (h2 : Good qq s) :
    GoodR qq (ngInstr e t slots ct rsvd body s) := by
  delta ngInstr
  repeat' first
    | with_reducible assumption
    | with_reducible intro _
    | (extract_lets -underBinder +onlyGivenNames x; first | (refine good_cut (q := qq) (s := x) ?_ ?_; (on_goal 1 => subst x); (on_goal 2 => (intro _; clear_value x))) | (refine good_cutO (q := qq) (x := x) ?_ ?_; (on_goal 1 => subst x); (on_goal 2 => (intro _; clear_value x))) | (refine goodN_cut (q := qq) (x := x) ?_ ?_; (on_goal 1 => subst x); (on_goal 2 => (intro _; clear_value x))) | (refine isP (x := x) ?_; subst x) | (refine isQ (x := x) ?_; subst x) | (refine isFab (x := x) ?_; subst x) | (refine isSram (x := x) ?_; subst x) | (refine isDram (x := x) ?_; subst x) | (refine isStateFun (x := x) ?_; subst x) | (refine isStateFun2 (x := x) ?_; subst x) | (refine goodN_fun (x := x) ?_; subst x) | clear_value x | subst x)
    | with_reducible refine h1 _ _ ?_
    | with_reducible refine goodR_next ?_
    | with_reducible refine goodO_some ?_
    | with_reducible exact goodO_none
    | with_reducible refine goodN_ok ?_
    | with_reducible refine goodN_stopped ?_
    | with_reducible exact goodN_triv
    | with_reducible refine noIssue_good ?_
    | with_reducible refine updThr_good ?_
    | with_reducible refine fetchCorrected_good ?_
    | with_reducible refine advanceTo_good ?_
    | with_reducible refine cellsAt_good ?_
    | with_reducible refine endStep_good ?_
    | with_reducible refine ngFault_good ?_
    | with_reducible refine waitHalt_good ?_
    | with_reducible refine goodO_getD ?_ ?_
    | with_reducible refine goodO_of ?_ (by with_reducible assumption)
    | with_reducible refine goodP_of ?_ (by with_reducible assumption)
    | with_reducible refine goodQ_of ?_ (by with_reducible assumption)
    | with_reducible refine goodR_of ?_ (by with_reducible assumption)
    | with_reducible refine goodOP_of ?_ (by with_reducible assumption)
    | with_reducible refine goodOQ_of ?_ (by with_reducible assumption)
    | with_reducible refine goodN_ok_of (by with_reducible assumption) ?_
    | with_reducible refine goodN_stopped_of (by with_reducible assumption) ?_
    | with_reducible exact good_mk (by with_reducible assumption) rfl rfl rfl rfl rfl rfl
    | dsimp -zeta only
    | with_reducible split

end Sys2Proof.Machine
end

