-- ==== Sys2Proof/Laws/KeepNgAlu.lean ====
section
/-!
SUPPORT. Laws/KeepNgAlu.lean: every operation of Machine/NgAlu.lean keeps the queue and the invariant.
-/

namespace Sys2Proof.Machine

theorem ngAlu_good {qq : List Instr} {e : Fin 512} {t : Fin 4} {rsvd : Bool} {d : Fin 16} {f : NgThread → Word18 × Word18} {t0 : State} (h1 : Good qq t0) :
    GoodR qq (ngAlu e t rsvd d f t0) := by
  delta ngAlu
  repeat' first
    | with_reducible assumption
    | with_reducible intro _
    | (extract_lets -underBinder +onlyGivenNames x; first | (refine good_cut (q := qq) (s := x) ?_ ?_; (on_goal 1 => subst x); (on_goal 2 => (intro _; clear_value x))) | (refine goodN_cut (q := qq) (x := x) ?_ ?_; (on_goal 1 => subst x); (on_goal 2 => (intro _; clear_value x))) | (refine isStateFun (x := x) ?_; subst x) | (refine isStateFun2 (x := x) ?_; subst x) | (refine goodN_fun (x := x) ?_; subst x) | clear_value x | subst x)
    | with_reducible refine goodN_ok ?_
    | with_reducible refine goodN_stopped ?_
    | with_reducible exact goodN_triv
    | with_reducible refine ngInstr_good ?_ ?_
    | with_reducible refine updThr_good ?_

theorem ngThrOp_good {qq : List Instr} {e : Fin 512} {t : Fin 4} {rsvd : Bool} {f : NgThread → Nat → NgThread} {t0 : State} (h1 : Good qq t0) :
    GoodR qq (ngThrOp e t rsvd f t0) := by
  delta ngThrOp
  repeat' first
    | with_reducible assumption
    | with_reducible intro _
    | with_reducible refine goodN_ok ?_
    | with_reducible refine goodN_stopped ?_
    | with_reducible exact goodN_triv
    | with_reducible refine ngInstr_good ?_ ?_
    | with_reducible refine updThr_good ?_

theorem ngLogic_good {qq : List Instr} {e : Fin 512} {t : Fin 4} {d a b : Fin 16} {f : Word18 → Word18 → Word18} {t0 : State} (h1 : Good qq t0) :
    GoodR qq (ngLogic e t d a b f t0) := by
  delta ngLogic
  repeat' first
    | with_reducible assumption
    | with_reducible intro _
    | (extract_lets -underBinder +onlyGivenNames x; first | (refine good_cut (q := qq) (s := x) ?_ ?_; (on_goal 1 => subst x); (on_goal 2 => (intro _; clear_value x))) | (refine isStateFun (x := x) ?_; subst x) | (refine isStateFun2 (x := x) ?_; subst x) | clear_value x | subst x)
    | with_reducible refine ngAlu_good ?_

theorem ngLogicI_good {qq : List Instr} {e : Fin 512} {t : Fin 4} {d a : Fin 16} {imm : Word18} {f : Word18 → Word18 → Word18} {t0 : State} (h1 : Good qq t0) :
    GoodR qq (ngLogicI e t d a imm f t0) := by
  delta ngLogicI
  repeat' first
    | with_reducible assumption
    | with_reducible intro _
    | (extract_lets -underBinder +onlyGivenNames x; first | (refine good_cut (q := qq) (s := x) ?_ ?_; (on_goal 1 => subst x); (on_goal 2 => (intro _; clear_value x))) | (refine isStateFun (x := x) ?_; subst x) | (refine isStateFun2 (x := x) ?_; subst x) | clear_value x | subst x)
    | with_reducible refine ngAlu_good ?_

theorem ngBranch_good {qq : List Instr} {e : Fin 512} {t : Fin 4} {rsvd : Bool} {f : NgThread → Nat → NgThread × Word18 × Bool × Bool} {t0 : State} (h1 : Good qq t0) :
    GoodR qq (ngBranch e t rsvd f t0) := by
  delta ngBranch
  repeat' first
    | with_reducible assumption
    | with_reducible intro _
    | (extract_lets -underBinder +onlyGivenNames x; first | (refine good_cut (q := qq) (s := x) ?_ ?_; (on_goal 1 => subst x); (on_goal 2 => (intro _; clear_value x))) | (refine goodN_cut (q := qq) (x := x) ?_ ?_; (on_goal 1 => subst x); (on_goal 2 => (intro _; clear_value x))) | (refine isStateFun (x := x) ?_; subst x) | (refine isStateFun2 (x := x) ?_; subst x) | (refine goodN_fun (x := x) ?_; subst x) | clear_value x | subst x)
    | with_reducible refine goodN_ok ?_
    | with_reducible refine goodN_stopped ?_
    | with_reducible exact goodN_triv
    | with_reducible refine ngInstr_good ?_ ?_
    | with_reducible refine updThr_good ?_
    | with_reducible refine goodR_of ?_ (by with_reducible assumption)
    | with_reducible refine goodN_ok_of (by with_reducible assumption) ?_
    | with_reducible refine goodN_stopped_of (by with_reducible assumption) ?_
    | with_reducible split

theorem execNgAdd_good {qq : List Instr} {e : Fin 512} {t : Fin 4} {f : Bool} {d a b : Fin 16} {t0 : State} (h1 : Good qq t0) :
    GoodR qq (execNgAdd e t f d a b t0) := by
  delta execNgAdd
  repeat' first
    | with_reducible assumption
    | with_reducible intro _
    | with_reducible refine ngAlu_good ?_

theorem execNgSub_good {qq : List Instr} {e : Fin 512} {t : Fin 4} {f : Bool} {d a b : Fin 16} {t0 : State} (h1 : Good qq t0) :
    GoodR qq (execNgSub e t f d a b t0) := by
  delta execNgSub
  repeat' first
    | with_reducible assumption
    | with_reducible intro _
    | with_reducible refine ngAlu_good ?_

theorem execNgAdc_good {qq : List Instr} {e : Fin 512} {t : Fin 4} {f : Bool} {d a b : Fin 16} {t0 : State} (h1 : Good qq t0) :
    GoodR qq (execNgAdc e t f d a b t0) := by
  delta execNgAdc
  repeat' first
    | with_reducible assumption
    | with_reducible intro _
    | with_reducible refine ngAlu_good ?_

theorem execNgSbc_good {qq : List Instr} {e : Fin 512} {t : Fin 4} {f : Bool} {d a b : Fin 16} {t0 : State} (h1 : Good qq t0) :
    GoodR qq (execNgSbc e t f d a b t0) := by
  delta execNgSbc
  repeat' first
    | with_reducible assumption
    | with_reducible intro _
    | with_reducible refine ngAlu_good ?_

theorem execNgAddi_good {qq : List Instr} {e : Fin 512} {t : Fin 4} {f : Bool} {d a : Fin 16} {imm : Word18} {t0 : State} (h1 : Good qq t0) :
    GoodR qq (execNgAddi e t f d a imm t0) := by
  delta execNgAddi
  repeat' first
    | with_reducible assumption
    | with_reducible intro _
    | with_reducible refine ngAlu_good ?_

theorem execNgSubi_good {qq : List Instr} {e : Fin 512} {t : Fin 4} {f : Bool} {d a : Fin 16} {imm : Word18} {t0 : State} (h1 : Good qq t0) :
    GoodR qq (execNgSubi e t f d a imm t0) := by
  delta execNgSubi
  repeat' first
    | with_reducible assumption
    | with_reducible intro _
    | with_reducible refine ngAlu_good ?_

theorem execNgNeg_good {qq : List Instr} {e : Fin 512} {t : Fin 4} {f : Bool} {d a : Fin 16} {t0 : State} (h1 : Good qq t0) :
    GoodR qq (execNgNeg e t f d a t0) := by
  delta execNgNeg
  repeat' first
    | with_reducible assumption
    | with_reducible intro _
    | with_reducible refine ngAlu_good ?_

theorem execNgAbs_good {qq : List Instr} {e : Fin 512} {t : Fin 4} {f : Bool} {d a : Fin 16} {t0 : State} (h1 : Good qq t0) :
    GoodR qq (execNgAbs e t f d a t0) := by
  delta execNgAbs
  repeat' first
    | with_reducible assumption
    | with_reducible intro _
    | with_reducible refine ngAlu_good ?_

theorem execNgCmp_good {qq : List Instr} {e : Fin 512} {t : Fin 4} {a b : Fin 16} {t0 : State} (h1 : Good qq t0) :
    GoodR qq (execNgCmp e t a b t0) := by
  delta execNgCmp
  repeat' first
    | with_reducible assumption
    | with_reducible intro _
    | (extract_lets -underBinder +onlyGivenNames x; first | (refine good_cut (q := qq) (s := x) ?_ ?_; (on_goal 1 => subst x); (on_goal 2 => (intro _; clear_value x))) | (refine isStateFun (x := x) ?_; subst x) | (refine isStateFun2 (x := x) ?_; subst x) | clear_value x | subst x)
    | with_reducible refine ngThrOp_good ?_

theorem execNgCmpi_good {qq : List Instr} {e : Fin 512} {t : Fin 4} {a : Fin 16} {imm : Word18} {t0 : State} (h1 : Good qq t0) :
    GoodR qq (execNgCmpi e t a imm t0) := by
  delta execNgCmpi
  repeat' first
    | with_reducible assumption
    | with_reducible intro _
    | (extract_lets -underBinder +onlyGivenNames x; first | (refine good_cut (q := qq) (s := x) ?_ ?_; (on_goal 1 => subst x); (on_goal 2 => (intro _; clear_value x))) | (refine isStateFun (x := x) ?_; subst x) | (refine isStateFun2 (x := x) ?_; subst x) | clear_value x | subst x)
    | with_reducible refine ngThrOp_good ?_

theorem execNgAnd_good {qq : List Instr} {e : Fin 512} {t : Fin 4} {d a b : Fin 16} {t0 : State} (h1 : Good qq t0) :
    GoodR qq (execNgAnd e t d a b t0) := by
  delta execNgAnd
  repeat' first
    | with_reducible assumption
    | with_reducible intro _
    | with_reducible refine ngLogic_good ?_

theorem execNgOr_good {qq : List Instr} {e : Fin 512} {t : Fin 4} {d a b : Fin 16} {t0 : State} (h1 : Good qq t0) :
    GoodR qq (execNgOr e t d a b t0) := by
  delta execNgOr
  repeat' first
    | with_reducible assumption
    | with_reducible intro _
    | with_reducible refine ngLogic_good ?_

theorem execNgXor_good {qq : List Instr} {e : Fin 512} {t : Fin 4} {d a b : Fin 16} {t0 : State} (h1 : Good qq t0) :
    GoodR qq (execNgXor e t d a b t0) := by
  delta execNgXor
  repeat' first
    | with_reducible assumption
    | with_reducible intro _
    | with_reducible refine ngLogic_good ?_

theorem execNgAndn_good {qq : List Instr} {e : Fin 512} {t : Fin 4} {d a b : Fin 16} {t0 : State} (h1 : Good qq t0) :
    GoodR qq (execNgAndn e t d a b t0) := by
  delta execNgAndn
  repeat' first
    | with_reducible assumption
    | with_reducible intro _
    | with_reducible refine ngLogic_good ?_

theorem execNgMin_good {qq : List Instr} {e : Fin 512} {t : Fin 4} {d a b : Fin 16} {t0 : State} (h1 : Good qq t0) :
    GoodR qq (execNgMin e t d a b t0) := by
  delta execNgMin
  repeat' first
    | with_reducible assumption
    | with_reducible intro _
    | with_reducible refine ngLogic_good ?_

theorem execNgMax_good {qq : List Instr} {e : Fin 512} {t : Fin 4} {d a b : Fin 16} {t0 : State} (h1 : Good qq t0) :
    GoodR qq (execNgMax e t d a b t0) := by
  delta execNgMax
  repeat' first
    | with_reducible assumption
    | with_reducible intro _
    | with_reducible refine ngLogic_good ?_

theorem execNgAndi_good {qq : List Instr} {e : Fin 512} {t : Fin 4} {d a : Fin 16} {imm : Word18} {t0 : State} (h1 : Good qq t0) :
    GoodR qq (execNgAndi e t d a imm t0) := by
  delta execNgAndi
  repeat' first
    | with_reducible assumption
    | with_reducible intro _
    | with_reducible refine ngLogicI_good ?_

theorem execNgOri_good {qq : List Instr} {e : Fin 512} {t : Fin 4} {d a : Fin 16} {imm : Word18} {t0 : State} (h1 : Good qq t0) :
    GoodR qq (execNgOri e t d a imm t0) := by
  delta execNgOri
  repeat' first
    | with_reducible assumption
    | with_reducible intro _
    | with_reducible refine ngLogicI_good ?_

theorem execNgXori_good {qq : List Instr} {e : Fin 512} {t : Fin 4} {d a : Fin 16} {imm : Word18} {t0 : State} (h1 : Good qq t0) :
    GoodR qq (execNgXori e t d a imm t0) := by
  delta execNgXori
  repeat' first
    | with_reducible assumption
    | with_reducible intro _
    | with_reducible refine ngLogicI_good ?_

theorem execNgTst_good {qq : List Instr} {e : Fin 512} {t : Fin 4} {a b : Fin 16} {t0 : State} (h1 : Good qq t0) :
    GoodR qq (execNgTst e t a b t0) := by
  delta execNgTst
  repeat' first
    | with_reducible assumption
    | with_reducible intro _
    | (extract_lets -underBinder +onlyGivenNames x; first | (refine good_cut (q := qq) (s := x) ?_ ?_; (on_goal 1 => subst x); (on_goal 2 => (intro _; clear_value x))) | (refine isStateFun (x := x) ?_; subst x) | (refine isStateFun2 (x := x) ?_; subst x) | clear_value x | subst x)
    | with_reducible refine ngThrOp_good ?_

theorem execNgNot_good {qq : List Instr} {e : Fin 512} {t : Fin 4} {d a : Fin 16} {t0 : State} (h1 : Good qq t0) :
    GoodR qq (execNgNot e t d a t0) := by
  delta execNgNot
  repeat' first
    | with_reducible assumption
    | with_reducible intro _
    | with_reducible refine ngLogic_good ?_

theorem execNgMov_good {qq : List Instr} {e : Fin 512} {t : Fin 4} {d a : Fin 16} {t0 : State} (h1 : Good qq t0) :
    GoodR qq (execNgMov e t d a t0) := by
  delta execNgMov
  repeat' first
    | with_reducible assumption
    | with_reducible intro _
    | with_reducible refine ngAlu_good ?_

theorem execNgMovi_good {qq : List Instr} {e : Fin 512} {t : Fin 4} {d : Fin 16} {imm : Word18} {t0 : State} (h1 : Good qq t0) :
    GoodR qq (execNgMovi e t d imm t0) := by
  delta execNgMovi
  repeat' first
    | with_reducible assumption
    | with_reducible intro _
    | with_reducible refine ngAlu_good ?_

theorem execNgSll_good {qq : List Instr} {e : Fin 512} {t : Fin 4} {d a b : Fin 16} {t0 : State} (h1 : Good qq t0) :
    GoodR qq (execNgSll e t d a b t0) := by
  delta execNgSll
  repeat' first
    | with_reducible assumption
    | with_reducible intro _
    | with_reducible refine ngAlu_good ?_

theorem execNgSrl_good {qq : List Instr} {e : Fin 512} {t : Fin 4} {d a b : Fin 16} {t0 : State} (h1 : Good qq t0) :
    GoodR qq (execNgSrl e t d a b t0) := by
  delta execNgSrl
  repeat' first
    | with_reducible assumption
    | with_reducible intro _
    | with_reducible refine ngAlu_good ?_

theorem execNgSra_good {qq : List Instr} {e : Fin 512} {t : Fin 4} {d a b : Fin 16} {t0 : State} (h1 : Good qq t0) :
    GoodR qq (execNgSra e t d a b t0) := by
  delta execNgSra
  repeat' first
    | with_reducible assumption
    | with_reducible intro _
    | with_reducible refine ngAlu_good ?_

theorem execNgRor_good {qq : List Instr} {e : Fin 512} {t : Fin 4} {d a b : Fin 16} {t0 : State} (h1 : Good qq t0) :
    GoodR qq (execNgRor e t d a b t0) := by
  delta execNgRor
  repeat' first
    | with_reducible assumption
    | with_reducible intro _
    | with_reducible refine ngAlu_good ?_

theorem execNgSlli_good {qq : List Instr} {e : Fin 512} {t : Fin 4} {d a : Fin 16} {c : Fin 32} {t0 : State} (h1 : Good qq t0) :
    GoodR qq (execNgSlli e t d a c t0) := by
  delta execNgSlli
  repeat' first
    | with_reducible assumption
    | with_reducible intro _
    | with_reducible refine ngAlu_good ?_

theorem execNgSrli_good {qq : List Instr} {e : Fin 512} {t : Fin 4} {d a : Fin 16} {c : Fin 32} {t0 : State} (h1 : Good qq t0) :
    GoodR qq (execNgSrli e t d a c t0) := by
  delta execNgSrli
  repeat' first
    | with_reducible assumption
    | with_reducible intro _
    | with_reducible refine ngAlu_good ?_

theorem execNgSrai_good {qq : List Instr} {e : Fin 512} {t : Fin 4} {d a : Fin 16} {c : Fin 32} {t0 : State} (h1 : Good qq t0) :
    GoodR qq (execNgSrai e t d a c t0) := by
  delta execNgSrai
  repeat' first
    | with_reducible assumption
    | with_reducible intro _
    | with_reducible refine ngAlu_good ?_

theorem execNgRori_good {qq : List Instr} {e : Fin 512} {t : Fin 4} {d a : Fin 16} {c : Fin 32} {t0 : State} (h1 : Good qq t0) :
    GoodR qq (execNgRori e t d a c t0) := by
  delta execNgRori
  repeat' first
    | with_reducible assumption
    | with_reducible intro _
    | with_reducible refine ngAlu_good ?_

theorem execNgMul_good {qq : List Instr} {e : Fin 512} {t : Fin 4} {f : Bool} {d a b : Fin 16} {t0 : State} (h1 : Good qq t0) :
    GoodR qq (execNgMul e t f d a b t0) := by
  delta execNgMul
  repeat' first
    | with_reducible assumption
    | with_reducible intro _
    | with_reducible refine ngAlu_good ?_

theorem execNgMulh_good {qq : List Instr} {e : Fin 512} {t : Fin 4} {d a b : Fin 16} {t0 : State} (h1 : Good qq t0) :
    GoodR qq (execNgMulh e t d a b t0) := by
  delta execNgMulh
  repeat' first
    | with_reducible assumption
    | with_reducible intro _
    | with_reducible refine ngLogic_good ?_

theorem execNgMulhu_good {qq : List Instr} {e : Fin 512} {t : Fin 4} {d a b : Fin 16} {t0 : State} (h1 : Good qq t0) :
    GoodR qq (execNgMulhu e t d a b t0) := by
  delta execNgMulhu
  repeat' first
    | with_reducible assumption
    | with_reducible intro _
    | with_reducible refine ngLogic_good ?_

theorem execNgMulf_good {qq : List Instr} {e : Fin 512} {t : Fin 4} {_f : Bool} {d a b : Fin 16} {t0 : State} (h1 : Good qq t0) :
    GoodR qq (execNgMulf e t _f d a b t0) := by
  delta execNgMulf
  repeat' first
    | with_reducible assumption
    | with_reducible intro _
    | with_reducible refine ngAlu_good ?_

theorem execNgMac2_good {qq : List Instr} {e : Fin 512} {t : Fin 4} {f : Bool} {a b c g : Fin 16} {fr n0 n1 : Bool} {t0 : State} (h1 : Good qq t0) :
    GoodR qq (execNgMac2 e t f a b c g fr n0 n1 t0) := by
  delta execNgMac2
  repeat' first
    | with_reducible assumption
    | with_reducible intro _
    | (extract_lets -underBinder +onlyGivenNames x; first | (refine good_cut (q := qq) (s := x) ?_ ?_; (on_goal 1 => subst x); (on_goal 2 => (intro _; clear_value x))) | (refine isStateFun (x := x) ?_; subst x) | (refine isStateFun2 (x := x) ?_; subst x) | clear_value x | subst x)
    | with_reducible refine ngThrOp_good ?_

theorem execNgMpy2_good {qq : List Instr} {e : Fin 512} {t : Fin 4} {_f : Bool} {a b c g : Fin 16} {fr n0 n1 : Bool} {t0 : State} (h1 : Good qq t0) :
    GoodR qq (execNgMpy2 e t _f a b c g fr n0 n1 t0) := by
  delta execNgMpy2
  repeat' first
    | with_reducible assumption
    | with_reducible intro _
    | (extract_lets -underBinder +onlyGivenNames x; first | (refine good_cut (q := qq) (s := x) ?_ ?_; (on_goal 1 => subst x); (on_goal 2 => (intro _; clear_value x))) | (refine isStateFun (x := x) ?_; subst x) | (refine isStateFun2 (x := x) ?_; subst x) | clear_value x | subst x)
    | with_reducible refine ngThrOp_good ?_

theorem execNgMacs_good {qq : List Instr} {e : Fin 512} {t : Fin 4} {f : Bool} {a b c g : Fin 16} {fr n0 n1 : Bool} {t0 : State} (h1 : Good qq t0) :
    GoodR qq (execNgMacs e t f a b c g fr n0 n1 t0) := by
  delta execNgMacs
  repeat' first
    | with_reducible assumption
    | with_reducible intro _
    | (extract_lets -underBinder +onlyGivenNames x; first | (refine good_cut (q := qq) (s := x) ?_ ?_; (on_goal 1 => subst x); (on_goal 2 => (intro _; clear_value x))) | (refine isStateFun (x := x) ?_; subst x) | (refine isStateFun2 (x := x) ?_; subst x) | clear_value x | subst x)
    | with_reducible refine ngThrOp_good ?_

theorem execNgExtr_good {qq : List Instr} {e : Fin 512} {t : Fin 4} {d : Fin 16} {a : Fin 16} {sh : Fin 64} {t0 : State} (h1 : Good qq t0) :
    GoodR qq (execNgExtr e t d a sh t0) := by
  delta execNgExtr
  repeat' first
    | with_reducible assumption
    | with_reducible intro _
    | with_reducible refine ngAlu_good ?_

theorem execNgAclr_good {qq : List Instr} {e : Fin 512} {t : Fin 4} {a : Fin 16} {t0 : State} (h1 : Good qq t0) :
    GoodR qq (execNgAclr e t a t0) := by
  delta execNgAclr
  repeat' first
    | with_reducible assumption
    | with_reducible intro _
    | (extract_lets -underBinder +onlyGivenNames x; first | (refine good_cut (q := qq) (s := x) ?_ ?_; (on_goal 1 => subst x); (on_goal 2 => (intro _; clear_value x))) | (refine isStateFun (x := x) ?_; subst x) | (refine isStateFun2 (x := x) ?_; subst x) | clear_value x | subst x)
    | with_reducible refine ngThrOp_good ?_

theorem ngAccSum_good {qq : List Instr} {e : Fin 512} {t : Fin 4} {f : Bool} {a : Fin 16} {op : Int → Int → Int} {t0 : State} (h1 : Good qq t0) :
    GoodR qq (ngAccSum e t f a op t0) := by
  delta ngAccSum
  repeat' first
    | with_reducible assumption
    | with_reducible intro _
    | (extract_lets -underBinder +onlyGivenNames x; first | (refine good_cut (q := qq) (s := x) ?_ ?_; (on_goal 1 => subst x); (on_goal 2 => (intro _; clear_value x))) | (refine isStateFun (x := x) ?_; subst x) | (refine isStateFun2 (x := x) ?_; subst x) | clear_value x | subst x)
    | with_reducible refine ngThrOp_good ?_

theorem execNgAadd_good {qq : List Instr} {e : Fin 512} {t : Fin 4} {f : Bool} {a : Fin 16} {t0 : State} (h1 : Good qq t0) :
    GoodR qq (execNgAadd e t f a t0) := by
  delta execNgAadd
  repeat' first
    | with_reducible assumption
    | with_reducible intro _
    | with_reducible refine ngAccSum_good ?_

theorem execNgAsub_good {qq : List Instr} {e : Fin 512} {t : Fin 4} {f : Bool} {a : Fin 16} {t0 : State} (h1 : Good qq t0) :
    GoodR qq (execNgAsub e t f a t0) := by
  delta execNgAsub
  repeat' first
    | with_reducible assumption
    | with_reducible intro _
    | with_reducible refine ngAccSum_good ?_

theorem ngDiv0_good {qq : List Instr} {e : Fin 512} {t : Fin 4} {uns : Bool} {d a b : Fin 16} {t0 : State} (h1 : Good qq t0) :
    GoodR qq (ngDiv0 e t uns d a b t0) := by
  delta ngDiv0
  repeat' first
    | with_reducible assumption
    | with_reducible intro _
    | (extract_lets -underBinder +onlyGivenNames x; first | (refine good_cut (q := qq) (s := x) ?_ ?_; (on_goal 1 => subst x); (on_goal 2 => (intro _; clear_value x))) | (refine isStateFun (x := x) ?_; subst x) | (refine isStateFun2 (x := x) ?_; subst x) | clear_value x | subst x)
    | with_reducible refine ngThrOp_good ?_

theorem execNgDiv0_good {qq : List Instr} {e : Fin 512} {t : Fin 4} {d a b : Fin 16} {t0 : State} (h1 : Good qq t0) :
    GoodR qq (execNgDiv0 e t d a b t0) := by
  delta execNgDiv0
  repeat' first
    | with_reducible assumption
    | with_reducible intro _
    | with_reducible refine ngDiv0_good ?_

theorem execNgDiv0u_good {qq : List Instr} {e : Fin 512} {t : Fin 4} {d a b : Fin 16} {t0 : State} (h1 : Good qq t0) :
    GoodR qq (execNgDiv0u e t d a b t0) := by
  delta execNgDiv0u
  repeat' first
    | with_reducible assumption
    | with_reducible intro _
    | with_reducible refine ngDiv0_good ?_

theorem execNgDstep_good {qq : List Instr} {e : Fin 512} {t : Fin 4} {d b : Fin 16} {t0 : State} (h1 : Good qq t0) :
    GoodR qq (execNgDstep e t d b t0) := by
  delta execNgDstep
  repeat' first
    | with_reducible assumption
    | with_reducible intro _
    | (extract_lets -underBinder +onlyGivenNames x; first | (refine good_cut (q := qq) (s := x) ?_ ?_; (on_goal 1 => subst x); (on_goal 2 => (intro _; clear_value x))) | (refine isStateFun (x := x) ?_; subst x) | (refine isStateFun2 (x := x) ?_; subst x) | clear_value x | subst x)
    | with_reducible refine ngThrOp_good ?_

theorem execNgDivf_good {qq : List Instr} {e : Fin 512} {t : Fin 4} {f : Bool} {d : Fin 16} {t0 : State} (h1 : Good qq t0) :
    GoodR qq (execNgDivf e t f d t0) := by
  delta execNgDivf
  repeat' first
    | with_reducible assumption
    | with_reducible intro _
    | (extract_lets -underBinder +onlyGivenNames x; first | (refine good_cut (q := qq) (s := x) ?_ ?_; (on_goal 1 => subst x); (on_goal 2 => (intro _; clear_value x))) | (refine isStateFun (x := x) ?_; subst x) | (refine isStateFun2 (x := x) ?_; subst x) | clear_value x | subst x)
    | with_reducible refine ngThrOp_good ?_

theorem execNgNop_good {qq : List Instr} {e : Fin 512} {t : Fin 4} {t0 : State} (h1 : Good qq t0) :
    GoodR qq (execNgNop e t t0) := by
  delta execNgNop
  repeat' first
    | with_reducible assumption
    | with_reducible intro _
    | with_reducible refine ngThrOp_good ?_

theorem execNgHalt_good {qq : List Instr} {e : Fin 512} {t : Fin 4} {t0 : State} (h1 : Good qq t0) :
    GoodR qq (execNgHalt e t t0) := by
  delta execNgHalt
  repeat' first
    | with_reducible assumption
    | with_reducible intro _
    | with_reducible refine goodN_ok ?_
    | with_reducible refine goodN_stopped ?_
    | with_reducible exact goodN_triv
    | with_reducible refine ngInstr_good ?_ ?_

theorem execNgMfc_good {qq : List Instr} {e : Fin 512} {t : Fin 4} {d : Fin 16} {cr : Fin 256} {z0 : State} (h1 : Good qq z0) :
    GoodR qq (execNgMfc e t d cr z0) := by
  delta execNgMfc
  repeat' first
    | with_reducible assumption
    | with_reducible intro _
    | (extract_lets -underBinder +onlyGivenNames x; first | (refine good_cut (q := qq) (s := x) ?_ ?_; (on_goal 1 => subst x); (on_goal 2 => (intro _; clear_value x))) | (refine good_cutO (q := qq) (x := x) ?_ ?_; (on_goal 1 => subst x); (on_goal 2 => (intro _; clear_value x))) | (refine goodN_cut (q := qq) (x := x) ?_ ?_; (on_goal 1 => subst x); (on_goal 2 => (intro _; clear_value x))) | (refine isP (x := x) ?_; subst x) | (refine isQ (x := x) ?_; subst x) | (refine isFab (x := x) ?_; subst x) | (refine isSram (x := x) ?_; subst x) | (refine isDram (x := x) ?_; subst x) | (refine isStateFun (x := x) ?_; subst x) | (refine isStateFun2 (x := x) ?_; subst x) | (refine goodN_fun (x := x) ?_; subst x) | clear_value x | subst x)
    | with_reducible refine goodR_next ?_
    | with_reducible refine goodO_some ?_
    | with_reducible exact goodO_none
    | with_reducible refine goodN_ok ?_
    | with_reducible refine goodN_stopped ?_
    | with_reducible exact goodN_triv
    | with_reducible refine ngInstr_good ?_ ?_
    | with_reducible refine updThr_good ?_
    | with_reducible refine goodO_of ?_ (by with_reducible assumption)
    | with_reducible refine goodP_of ?_ (by with_reducible assumption)
    | with_reducible refine goodQ_of ?_ (by with_reducible assumption)
    | with_reducible refine goodR_of ?_ (by with_reducible assumption)
    | with_reducible refine goodOP_of ?_ (by with_reducible assumption)
    | with_reducible refine goodOQ_of ?_ (by with_reducible assumption)
    | with_reducible refine goodN_ok_of (by with_reducible assumption) ?_
    | with_reducible refine goodN_stopped_of (by with_reducible assumption) ?_
    | with_reducible exact good_mk (by with_reducible assumption) rfl rfl rfl rfl rfl rfl
    | dsimp -zeta only
    | with_reducible split

theorem execNgMtc_good {qq : List Instr} {e : Fin 512} {t : Fin 4} {a : Fin 16} {cr : Fin 256} {z0 : State} (h1 : Good qq z0) :
    GoodR qq (execNgMtc e t a cr z0) := by
  delta execNgMtc
  repeat' first
    | with_reducible assumption
    | with_reducible intro _
    | (extract_lets -underBinder +onlyGivenNames x; first | (refine good_cut (q := qq) (s := x) ?_ ?_; (on_goal 1 => subst x); (on_goal 2 => (intro _; clear_value x))) | (refine good_cutO (q := qq) (x := x) ?_ ?_; (on_goal 1 => subst x); (on_goal 2 => (intro _; clear_value x))) | (refine goodN_cut (q := qq) (x := x) ?_ ?_; (on_goal 1 => subst x); (on_goal 2 => (intro _; clear_value x))) | (refine isP (x := x) ?_; subst x) | (refine isQ (x := x) ?_; subst x) | (refine isFab (x := x) ?_; subst x) | (refine isSram (x := x) ?_; subst x) | (refine isDram (x := x) ?_; subst x) | (refine isStateFun (x := x) ?_; subst x) | (refine isStateFun2 (x := x) ?_; subst x) | (refine goodN_fun (x := x) ?_; subst x) | clear_value x | subst x)
    | with_reducible refine goodR_next ?_
    | with_reducible refine goodO_some ?_
    | with_reducible exact goodO_none
    | with_reducible refine goodN_ok ?_
    | with_reducible refine goodN_stopped ?_
    | with_reducible exact goodN_triv
    | with_reducible refine ngInstr_good ?_ ?_
    | with_reducible refine updThr_good ?_
    | with_reducible refine goodO_of ?_ (by with_reducible assumption)
    | with_reducible refine goodP_of ?_ (by with_reducible assumption)
    | with_reducible refine goodQ_of ?_ (by with_reducible assumption)
    | with_reducible refine goodR_of ?_ (by with_reducible assumption)
    | with_reducible refine goodN_ok_of (by with_reducible assumption) ?_
    | with_reducible refine goodN_stopped_of (by with_reducible assumption) ?_
    | with_reducible exact good_mk (by with_reducible assumption) rfl rfl rfl rfl rfl rfl
    | dsimp -zeta only
    | with_reducible split

theorem execNgPopr_good {qq : List Instr} {e : Fin 512} {t : Fin 4} {d : Fin 16} {z0 : State} (h1 : Good qq z0) :
    GoodR qq (execNgPopr e t d z0) := by
  delta execNgPopr
  repeat' first
    | with_reducible assumption
    | with_reducible intro _
    | (extract_lets -underBinder +onlyGivenNames x; first | (refine good_cut (q := qq) (s := x) ?_ ?_; (on_goal 1 => subst x); (on_goal 2 => (intro _; clear_value x))) | (refine good_cutO (q := qq) (x := x) ?_ ?_; (on_goal 1 => subst x); (on_goal 2 => (intro _; clear_value x))) | (refine goodN_cut (q := qq) (x := x) ?_ ?_; (on_goal 1 => subst x); (on_goal 2 => (intro _; clear_value x))) | (refine isP (x := x) ?_; subst x) | (refine isQ (x := x) ?_; subst x) | (refine isFab (x := x) ?_; subst x) | (refine isSram (x := x) ?_; subst x) | (refine isDram (x := x) ?_; subst x) | (refine isStateFun (x := x) ?_; subst x) | (refine isStateFun2 (x := x) ?_; subst x) | (refine goodN_fun (x := x) ?_; subst x) | clear_value x | subst x)
    | with_reducible refine goodR_next ?_
    | with_reducible refine goodO_some ?_
    | with_reducible exact goodO_none
    | with_reducible refine goodN_ok ?_
    | with_reducible refine goodN_stopped ?_
    | with_reducible exact goodN_triv
    | with_reducible refine ngInstr_good ?_ ?_
    | with_reducible refine updThr_good ?_
    | with_reducible refine setSource_good ?_
    | with_reducible refine endSource_good ?_
    | with_reducible refine goodO_map ?_ ?_
    | with_reducible refine goodO_getD ?_ ?_
    | with_reducible refine goodOP_mapP ?_ ?_
    | with_reducible refine goodOP_map ?_ ?_
    | with_reducible refine goodO_mapP ?_ ?_
    | with_reducible refine goodO_of ?_ (by with_reducible assumption)
    | with_reducible refine goodP_of ?_ (by with_reducible assumption)
    | with_reducible refine goodQ_of ?_ (by with_reducible assumption)
    | with_reducible refine goodR_of ?_ (by with_reducible assumption)
    | with_reducible refine goodN_ok_of (by with_reducible assumption) ?_
    | with_reducible refine goodN_stopped_of (by with_reducible assumption) ?_
    | with_reducible exact good_mk (by with_reducible assumption) rfl rfl rfl rfl rfl rfl
    | dsimp -zeta only
    | with_reducible split

theorem execNgWait_good {qq : List Instr} {e : Fin 512} {t : Fin 4} {t0 : State} (h1 : Good qq t0) :
    GoodR qq (execNgWait e t t0) := by
  delta execNgWait
  repeat' first
    | with_reducible assumption
    | with_reducible intro _
    | with_reducible refine goodN_ok ?_
    | with_reducible refine goodN_stopped ?_
    | with_reducible exact goodN_triv
    | with_reducible refine ngInstr_good ?_ ?_

theorem execNgRete_good {qq : List Instr} {e : Fin 512} {t : Fin 4} {z0 : State} (h1 : Good qq z0) :
    GoodR qq (execNgRete e t z0) := by
  delta execNgRete
  repeat' first
    | with_reducible assumption
    | with_reducible intro _
    | (extract_lets -underBinder +onlyGivenNames x; first | (refine good_cut (q := qq) (s := x) ?_ ?_; (on_goal 1 => subst x); (on_goal 2 => (intro _; clear_value x))) | (refine good_cutO (q := qq) (x := x) ?_ ?_; (on_goal 1 => subst x); (on_goal 2 => (intro _; clear_value x))) | (refine goodN_cut (q := qq) (x := x) ?_ ?_; (on_goal 1 => subst x); (on_goal 2 => (intro _; clear_value x))) | (refine isP (x := x) ?_; subst x) | (refine isQ (x := x) ?_; subst x) | (refine isFab (x := x) ?_; subst x) | (refine isSram (x := x) ?_; subst x) | (refine isDram (x := x) ?_; subst x) | (refine isStateFun (x := x) ?_; subst x) | (refine isStateFun2 (x := x) ?_; subst x) | (refine goodN_fun (x := x) ?_; subst x) | clear_value x | subst x)
    | with_reducible refine goodR_next ?_
    | with_reducible refine goodO_some ?_
    | with_reducible exact goodO_none
    | with_reducible refine goodN_ok ?_
    | with_reducible refine goodN_stopped ?_
    | with_reducible exact goodN_triv
    | with_reducible refine ngInstr_good ?_ ?_
    | with_reducible refine updThr_good ?_
    | with_reducible refine goodO_of ?_ (by with_reducible assumption)
    | with_reducible refine goodP_of ?_ (by with_reducible assumption)
    | with_reducible refine goodQ_of ?_ (by with_reducible assumption)
    | with_reducible refine goodR_of ?_ (by with_reducible assumption)
    | with_reducible refine goodOP_of ?_ (by with_reducible assumption)
    | with_reducible refine goodOQ_of ?_ (by with_reducible assumption)
    | with_reducible refine goodN_ok_of (by with_reducible assumption) ?_
    | with_reducible refine goodN_stopped_of (by with_reducible assumption) ?_
    | with_reducible exact good_mk (by with_reducible assumption) rfl rfl rfl rfl rfl rfl
    | dsimp -zeta only
    | with_reducible split

theorem execNgSig_good {qq : List Instr} {e : Fin 512} {t : Fin 4} {g : Fin 16} {src : Fin 64} {t0 : State} (h1 : Good qq t0) :
    GoodR qq (execNgSig e t g src t0) := by
  delta execNgSig
  repeat' first
    | with_reducible assumption
    | with_reducible intro _
    | with_reducible refine goodN_ok ?_
    | with_reducible refine goodN_stopped ?_
    | with_reducible exact goodN_triv
    | with_reducible refine ngInstr_good ?_ ?_
    | with_reducible refine setSource_good ?_

theorem execNgClre_good {qq : List Instr} {e : Fin 512} {t : Fin 4} {src : Fin 64} {t0 : State} (h1 : Good qq t0) :
    GoodR qq (execNgClre e t src t0) := by
  delta execNgClre
  repeat' first
    | with_reducible assumption
    | with_reducible intro _
    | with_reducible refine goodN_ok ?_
    | with_reducible refine goodN_stopped ?_
    | with_reducible exact goodN_triv
    | with_reducible refine ngInstr_good ?_ ?_
    | with_reducible refine clearSource_good ?_

theorem execNgEdi_good {qq : List Instr} {e : Fin 512} {t : Fin 4} {d : Fin 16} {t0 : State} (h1 : Good qq t0) :
    GoodR qq (execNgEdi e t d t0) := by
  delta execNgEdi
  repeat' first
    | with_reducible assumption
    | with_reducible intro _
    | (extract_lets -underBinder +onlyGivenNames x; first | (refine good_cut (q := qq) (s := x) ?_ ?_; (on_goal 1 => subst x); (on_goal 2 => (intro _; clear_value x))) | (refine isStateFun (x := x) ?_; subst x) | (refine isStateFun2 (x := x) ?_; subst x) | clear_value x | subst x)
    | with_reducible refine ngThrOp_good ?_

theorem execNgEei_good {qq : List Instr} {e : Fin 512} {t : Fin 4} {t0 : State} (h1 : Good qq t0) :
    GoodR qq (execNgEei e t t0) := by
  delta execNgEei
  repeat' first
    | with_reducible assumption
    | with_reducible intro _
    | (extract_lets -underBinder +onlyGivenNames x; first | (refine good_cut (q := qq) (s := x) ?_ ?_; (on_goal 1 => subst x); (on_goal 2 => (intro _; clear_value x))) | (refine isStateFun (x := x) ?_; subst x) | (refine isStateFun2 (x := x) ?_; subst x) | clear_value x | subst x)
    | with_reducible refine ngThrOp_good ?_

theorem ngFeed_good {qq : List Instr} {e : Fin 512} {t : Fin 4} {slots : Nat} {rsvd : Bool} {a : Fin 16} {n : Nat} {t0 : State} (h1 : Good qq t0) :
    GoodR qq (ngFeed e t slots rsvd a n t0) := by
  delta ngFeed
  repeat' first
    | with_reducible assumption
    | with_reducible intro _
    | (extract_lets -underBinder +onlyGivenNames x; first | (refine good_cut (q := qq) (s := x) ?_ ?_; (on_goal 1 => subst x); (on_goal 2 => (intro _; clear_value x))) | (refine goodN_cut (q := qq) (x := x) ?_ ?_; (on_goal 1 => subst x); (on_goal 2 => (intro _; clear_value x))) | (refine isStateFun (x := x) ?_; subst x) | (refine isStateFun2 (x := x) ?_; subst x) | (refine goodN_fun (x := x) ?_; subst x) | clear_value x | subst x)
    | with_reducible refine goodN_ok ?_
    | with_reducible refine goodN_stopped ?_
    | with_reducible exact goodN_triv
    | with_reducible refine ngInstr_good ?_ ?_
    | with_reducible refine updEng_good ?_

theorem execNgFbyte_good {qq : List Instr} {e : Fin 512} {t : Fin 4} {a : Fin 16} {t0 : State} (h1 : Good qq t0) :
    GoodR qq (execNgFbyte e t a t0) := by
  delta execNgFbyte
  repeat' first
    | with_reducible assumption
    | with_reducible intro _
    | with_reducible refine ngFeed_good ?_

theorem execNgFhalf_good {qq : List Instr} {e : Fin 512} {t : Fin 4} {a : Fin 16} {t0 : State} (h1 : Good qq t0) :
    GoodR qq (execNgFhalf e t a t0) := by
  delta execNgFhalf
  repeat' first
    | with_reducible assumption
    | with_reducible intro _
    | with_reducible refine ngFeed_good ?_

theorem execNgFword_good {qq : List Instr} {e : Fin 512} {t : Fin 4} {a : Fin 16} {t0 : State} (h1 : Good qq t0) :
    GoodR qq (execNgFword e t a t0) := by
  delta execNgFword
  repeat' first
    | with_reducible assumption
    | with_reducible intro _
    | with_reducible refine ngFeed_good ?_

theorem execNgFbits_good {qq : List Instr} {e : Fin 512} {t : Fin 4} {a : Fin 16} {n : Fin 16} {t0 : State} (h1 : Good qq t0) :
    GoodR qq (execNgFbits e t a n t0) := by
  delta execNgFbits
  repeat' first
    | with_reducible assumption
    | with_reducible intro _
    | with_reducible refine ngFeed_good ?_

theorem execNgBr_good {qq : List Instr} {e : Fin 512} {t : Fin 4} {f : Bool} {cond : Fin 16} {target : Word18} {t0 : State} (h1 : Good qq t0) :
    GoodR qq (execNgBr e t f cond target t0) := by
  delta execNgBr
  repeat' first
    | with_reducible assumption
    | with_reducible intro _
    | with_reducible refine ngBranch_good ?_

theorem execNgBz_good {qq : List Instr} {e : Fin 512} {t : Fin 4} {f : Bool} {a : Fin 16} {target : Word18} {t0 : State} (h1 : Good qq t0) :
    GoodR qq (execNgBz e t f a target t0) := by
  delta execNgBz
  repeat' first
    | with_reducible assumption
    | with_reducible intro _
    | (extract_lets -underBinder +onlyGivenNames x; first | (refine good_cut (q := qq) (s := x) ?_ ?_; (on_goal 1 => subst x); (on_goal 2 => (intro _; clear_value x))) | (refine isStateFun (x := x) ?_; subst x) | (refine isStateFun2 (x := x) ?_; subst x) | clear_value x | subst x)
    | with_reducible refine ngBranch_good ?_

theorem execNgBnz_good {qq : List Instr} {e : Fin 512} {t : Fin 4} {f : Bool} {a : Fin 16} {target : Word18} {t0 : State} (h1 : Good qq t0) :
    GoodR qq (execNgBnz e t f a target t0) := by
  delta execNgBnz
  repeat' first
    | with_reducible assumption
    | with_reducible intro _
    | (extract_lets -underBinder +onlyGivenNames x; first | (refine good_cut (q := qq) (s := x) ?_ ?_; (on_goal 1 => subst x); (on_goal 2 => (intro _; clear_value x))) | (refine isStateFun (x := x) ?_; subst x) | (refine isStateFun2 (x := x) ?_; subst x) | clear_value x | subst x)
    | with_reducible refine ngBranch_good ?_

theorem execNgBltz_good {qq : List Instr} {e : Fin 512} {t : Fin 4} {f : Bool} {a : Fin 16} {target : Word18} {t0 : State} (h1 : Good qq t0) :
    GoodR qq (execNgBltz e t f a target t0) := by
  delta execNgBltz
  repeat' first
    | with_reducible assumption
    | with_reducible intro _
    | (extract_lets -underBinder +onlyGivenNames x; first | (refine good_cut (q := qq) (s := x) ?_ ?_; (on_goal 1 => subst x); (on_goal 2 => (intro _; clear_value x))) | (refine isStateFun (x := x) ?_; subst x) | (refine isStateFun2 (x := x) ?_; subst x) | clear_value x | subst x)
    | with_reducible refine ngBranch_good ?_

theorem execNgBgez_good {qq : List Instr} {e : Fin 512} {t : Fin 4} {f : Bool} {a : Fin 16} {target : Word18} {t0 : State} (h1 : Good qq t0) :
    GoodR qq (execNgBgez e t f a target t0) := by
  delta execNgBgez
  repeat' first
    | with_reducible assumption
    | with_reducible intro _
    | (extract_lets -underBinder +onlyGivenNames x; first | (refine good_cut (q := qq) (s := x) ?_ ?_; (on_goal 1 => subst x); (on_goal 2 => (intro _; clear_value x))) | (refine isStateFun (x := x) ?_; subst x) | (refine isStateFun2 (x := x) ?_; subst x) | clear_value x | subst x)
    | with_reducible refine ngBranch_good ?_

theorem execNgBlez_good {qq : List Instr} {e : Fin 512} {t : Fin 4} {f : Bool} {a : Fin 16} {target : Word18} {t0 : State} (h1 : Good qq t0) :
    GoodR qq (execNgBlez e t f a target t0) := by
  delta execNgBlez
  repeat' first
    | with_reducible assumption
    | with_reducible intro _
    | (extract_lets -underBinder +onlyGivenNames x; first | (refine good_cut (q := qq) (s := x) ?_ ?_; (on_goal 1 => subst x); (on_goal 2 => (intro _; clear_value x))) | (refine isStateFun (x := x) ?_; subst x) | (refine isStateFun2 (x := x) ?_; subst x) | clear_value x | subst x)
    | with_reducible refine ngBranch_good ?_

theorem execNgBgtz_good {qq : List Instr} {e : Fin 512} {t : Fin 4} {f : Bool} {a : Fin 16} {target : Word18} {t0 : State} (h1 : Good qq t0) :
    GoodR qq (execNgBgtz e t f a target t0) := by
  delta execNgBgtz
  repeat' first
    | with_reducible assumption
    | with_reducible intro _
    | (extract_lets -underBinder +onlyGivenNames x; first | (refine good_cut (q := qq) (s := x) ?_ ?_; (on_goal 1 => subst x); (on_goal 2 => (intro _; clear_value x))) | (refine isStateFun (x := x) ?_; subst x) | (refine isStateFun2 (x := x) ?_; subst x) | clear_value x | subst x)
    | with_reducible refine ngBranch_good ?_

theorem execNgCall_good {qq : List Instr} {e : Fin 512} {t : Fin 4} {d : Fin 16} {target : Word18} {t0 : State} (h1 : Good qq t0) :
    GoodR qq (execNgCall e t d target t0) := by
  delta execNgCall
  repeat' first
    | with_reducible assumption
    | with_reducible intro _
    | with_reducible refine ngBranch_good ?_

theorem execNgJr_good {qq : List Instr} {e : Fin 512} {t : Fin 4} {a : Fin 16} {t0 : State} (h1 : Good qq t0) :
    GoodR qq (execNgJr e t a t0) := by
  delta execNgJr
  repeat' first
    | with_reducible assumption
    | with_reducible intro _
    | with_reducible refine ngBranch_good ?_

theorem execNgJalr_good {qq : List Instr} {e : Fin 512} {t : Fin 4} {d a : Fin 16} {t0 : State} (h1 : Good qq t0) :
    GoodR qq (execNgJalr e t d a t0) := by
  delta execNgJalr
  repeat' first
    | with_reducible assumption
    | with_reducible intro _
    | with_reducible refine ngBranch_good ?_

theorem execNgLoop_good {qq : List Instr} {e : Fin 512} {t : Fin 4} {k a : Fin 16} {endA : Word18} {t0 : State} (h1 : Good qq t0) :
    GoodR qq (execNgLoop e t k a endA t0) := by
  delta execNgLoop
  repeat' first
    | with_reducible assumption
    | with_reducible intro _
    | (extract_lets -underBinder +onlyGivenNames x; first | (refine good_cut (q := qq) (s := x) ?_ ?_; (on_goal 1 => subst x); (on_goal 2 => (intro _; clear_value x))) | (refine goodN_cut (q := qq) (x := x) ?_ ?_; (on_goal 1 => subst x); (on_goal 2 => (intro _; clear_value x))) | (refine isStateFun (x := x) ?_; subst x) | (refine isStateFun2 (x := x) ?_; subst x) | (refine goodN_fun (x := x) ?_; subst x) | clear_value x | subst x)
    | with_reducible refine goodN_ok ?_
    | with_reducible refine goodN_stopped ?_
    | with_reducible exact goodN_triv
    | with_reducible refine ngInstr_good ?_ ?_
    | with_reducible refine updThr_good ?_
    | with_reducible refine goodR_of ?_ (by with_reducible assumption)
    | with_reducible refine goodN_ok_of (by with_reducible assumption) ?_
    | with_reducible refine goodN_stopped_of (by with_reducible assumption) ?_
    | with_reducible exact good_mk (by with_reducible assumption) rfl rfl rfl rfl rfl rfl
    | with_reducible split

end Sys2Proof.Machine
end

