-- ==== Sys2Proof/Laws/KeepNgMem.lean ====
section
/-!
SUPPORT. Laws/KeepNgMem.lean: every operation of Machine/NgMem.lean keeps the queue and the invariant.
-/

namespace Sys2Proof.Machine

theorem ngAddr_good {qq : List Instr} {e : Fin 512} {t : Fin 4} {slots : Nat} {rsvd : Bool} {mode : Fin 6} {a : Fin 16} {imm : Word18} {body : State → Nat → Nat → NgRes} {t0 : State} (h1 : ∀ a0 a1 a2, Good qq a0 → GoodN qq (body a0 a1 a2)) (h2 : Good qq t0) :
    GoodR qq (ngAddr e t slots rsvd mode a imm body t0) := by
  delta ngAddr
  repeat' first
    | with_reducible assumption
    | with_reducible intro _
    | (extract_lets -underBinder +onlyGivenNames x; first | (refine good_cut (q := qq) (s := x) ?_ ?_; (on_goal 1 => subst x); (on_goal 2 => (intro _; clear_value x))) | (refine goodN_cut (q := qq) (x := x) ?_ ?_; (on_goal 1 => subst x); (on_goal 2 => (intro _; clear_value x))) | (refine isStateFun (x := x) ?_; subst x) | (refine isStateFun2 (x := x) ?_; subst x) | (refine goodN_fun (x := x) ?_; subst x) | clear_value x | subst x)
    | with_reducible refine h1 _ _ _ ?_
    | with_reducible refine goodN_ok ?_
    | with_reducible refine goodN_stopped ?_
    | with_reducible exact goodN_triv
    | with_reducible refine ngInstr_good ?_ ?_
    | with_reducible refine updThr_good ?_
    | with_reducible refine goodR_of ?_ (by with_reducible assumption)
    | with_reducible exact goodN_ok_inv (by with_reducible assumption)
    | with_reducible refine goodN_ok_of (by with_reducible assumption) ?_
    | with_reducible exact goodN_stopped_inv (by with_reducible assumption)
    | with_reducible refine goodN_stopped_of (by with_reducible assumption) ?_
    | with_reducible split

theorem ngLoad_good {qq : List Instr} {e : Fin 512} {t : Fin 4} {n : Nat} {d : Fin 16} {mode : Fin 6} {a : Fin 16} {imm : Word18} {ecc : Fin 3} {z0 : State} (h1 : Good qq z0) :
    GoodR qq (ngLoad e t n d mode a imm ecc z0) := by
  delta ngLoad
  refine ngAddr_good (fun s i ea h => ?_) h1
  refine iteP (GoodN qq) goodN_triv (iteP (GoodN qq) ?_ (iteP (GoodN qq) ?_ goodN_triv))
  · exact iteP (GoodN qq) (goodN_stopped (lmFinding_good h)) (goodN_ok (updThr_good (lmFinding_good h)))
  · exact goodN_ok (updThr_good (ctlRead_good h))

theorem ngStore_good {qq : List Instr} {e : Fin 512} {t : Fin 4} {n : Nat} {d : Fin 16} {mode : Fin 6} {a : Fin 16} {imm : Word18} {t0 : State} (h1 : Good qq t0) :
    GoodR qq (ngStore e t n d mode a imm t0) := by
  delta ngStore
  repeat' first
    | with_reducible assumption
    | with_reducible intro _
    | (extract_lets -underBinder +onlyGivenNames x; first | (refine good_cut (q := qq) (s := x) ?_ ?_; (on_goal 1 => subst x); (on_goal 2 => (intro _; clear_value x))) | (refine goodN_cut (q := qq) (x := x) ?_ ?_; (on_goal 1 => subst x); (on_goal 2 => (intro _; clear_value x))) | (refine isStateFun (x := x) ?_; subst x) | (refine isStateFun2 (x := x) ?_; subst x) | (refine goodN_fun (x := x) ?_; subst x) | clear_value x | subst x)
    | with_reducible refine goodN_ok ?_
    | with_reducible refine goodN_stopped ?_
    | with_reducible exact goodN_triv
    | with_reducible refine ngAddr_good ?_ ?_
    | with_reducible refine setLm_good ?_
    | with_reducible refine ctlWrite_good ?_
    | with_reducible refine good_foldl ?_ ?_
    | with_reducible refine good_foldlP ?_ ?_
    | with_reducible refine goodR_of ?_ (by with_reducible assumption)
    | with_reducible refine goodN_ok_of (by with_reducible assumption) ?_
    | with_reducible refine goodN_stopped_of (by with_reducible assumption) ?_
    | with_reducible split

theorem execNgLd_good {qq : List Instr} {e : Fin 512} {t : Fin 4} {d : Fin 16} {mode : Fin 6} {a : Fin 16} {imm : Word18} {ecc : Fin 3} {t0 : State} (h1 : Good qq t0) :
    GoodR qq (execNgLd e t d mode a imm ecc t0) := by
  delta execNgLd
  repeat' first
    | with_reducible assumption
    | with_reducible intro _
    | with_reducible refine ngLoad_good ?_

theorem execNgLdd_good {qq : List Instr} {e : Fin 512} {t : Fin 4} {d : Fin 16} {mode : Fin 6} {a : Fin 16} {imm : Word18} {ecc : Fin 3} {t0 : State} (h1 : Good qq t0) :
    GoodR qq (execNgLdd e t d mode a imm ecc t0) := by
  delta execNgLdd
  repeat' first
    | with_reducible assumption
    | with_reducible intro _
    | with_reducible refine ngLoad_good ?_

theorem execNgLdq_good {qq : List Instr} {e : Fin 512} {t : Fin 4} {d : Fin 16} {mode : Fin 6} {a : Fin 16} {imm : Word18} {ecc : Fin 3} {t0 : State} (h1 : Good qq t0) :
    GoodR qq (execNgLdq e t d mode a imm ecc t0) := by
  delta execNgLdq
  repeat' first
    | with_reducible assumption
    | with_reducible intro _
    | with_reducible refine ngLoad_good ?_

theorem execNgSt_good {qq : List Instr} {e : Fin 512} {t : Fin 4} {d : Fin 16} {mode : Fin 6} {a : Fin 16} {imm : Word18} {t0 : State} (h1 : Good qq t0) :
    GoodR qq (execNgSt e t d mode a imm t0) := by
  delta execNgSt
  repeat' first
    | with_reducible assumption
    | with_reducible intro _
    | with_reducible refine ngStore_good ?_

theorem execNgStd_good {qq : List Instr} {e : Fin 512} {t : Fin 4} {d : Fin 16} {mode : Fin 6} {a : Fin 16} {imm : Word18} {t0 : State} (h1 : Good qq t0) :
    GoodR qq (execNgStd e t d mode a imm t0) := by
  delta execNgStd
  repeat' first
    | with_reducible assumption
    | with_reducible intro _
    | with_reducible refine ngStore_good ?_

theorem execNgStq_good {qq : List Instr} {e : Fin 512} {t : Fin 4} {d : Fin 16} {mode : Fin 6} {a : Fin 16} {imm : Word18} {t0 : State} (h1 : Good qq t0) :
    GoodR qq (execNgStq e t d mode a imm t0) := by
  delta execNgStq
  repeat' first
    | with_reducible assumption
    | with_reducible intro _
    | with_reducible refine ngStore_good ?_

theorem ngClaim_good {qq : List Instr} {e : Fin 512} {t : Fin 4} {st : Bool} {d : Fin 16} {mode : Fin 6} {a : Fin 16} {imm : Word18} {t0 : State} (h1 : Good qq t0) :
    GoodR qq (ngClaim e t st d mode a imm t0) := by
  delta ngClaim
  repeat' first
    | with_reducible assumption
    | with_reducible intro _
    | (extract_lets -underBinder +onlyGivenNames x; first | (refine good_cut (q := qq) (s := x) ?_ ?_; (on_goal 1 => subst x); (on_goal 2 => (intro _; clear_value x))) | (refine goodN_cut (q := qq) (x := x) ?_ ?_; (on_goal 1 => subst x); (on_goal 2 => (intro _; clear_value x))) | (refine isStateFun (x := x) ?_; subst x) | (refine isStateFun2 (x := x) ?_; subst x) | (refine goodN_fun (x := x) ?_; subst x) | clear_value x | subst x)
    | with_reducible refine goodN_ok ?_
    | with_reducible refine goodN_stopped ?_
    | with_reducible exact goodN_triv
    | with_reducible refine ngAddr_good ?_ ?_
    | with_reducible refine recContained_good ?_
    | with_reducible refine updThr_good ?_
    | with_reducible refine goodR_of ?_ (by with_reducible assumption)
    | with_reducible refine goodN_ok_of (by with_reducible assumption) ?_
    | with_reducible refine goodN_stopped_of (by with_reducible assumption) ?_
    | with_reducible exact good_mk (by with_reducible assumption) rfl rfl rfl rfl rfl rfl
    | with_reducible split

theorem execNgLdc_good {qq : List Instr} {e : Fin 512} {t : Fin 4} {d : Fin 16} {mode : Fin 6} {a : Fin 16} {imm : Word18} {t0 : State} (h1 : Good qq t0) :
    GoodR qq (execNgLdc e t d mode a imm t0) := by
  delta execNgLdc
  repeat' first
    | with_reducible assumption
    | with_reducible intro _
    | with_reducible refine ngClaim_good ?_

theorem execNgStc_good {qq : List Instr} {e : Fin 512} {t : Fin 4} {d : Fin 16} {mode : Fin 6} {a : Fin 16} {imm : Word18} {t0 : State} (h1 : Good qq t0) :
    GoodR qq (execNgStc e t d mode a imm t0) := by
  delta execNgStc
  repeat' first
    | with_reducible assumption
    | with_reducible intro _
    | with_reducible refine ngClaim_good ?_

theorem execClusterMemoryAccess_good {qq : List Instr} {e : Fin 512} {t : Fin 4} {ecc : Fin 3} {s : State} (h1 : Good qq s) :
    GoodR qq (execClusterMemoryAccess e t ecc s) := by
  delta execClusterMemoryAccess
  repeat' first
    | with_reducible assumption
    | with_reducible intro _
    | (extract_lets -underBinder +onlyGivenNames x; first | (refine good_cut (q := qq) (s := x) ?_ ?_; (on_goal 1 => subst x); (on_goal 2 => (intro _; clear_value x))) | (refine good_cutO (q := qq) (x := x) ?_ ?_; (on_goal 1 => subst x); (on_goal 2 => (intro _; clear_value x))) | (refine isP (x := x) ?_; subst x) | (refine isQ (x := x) ?_; subst x) | (refine isFab (x := x) ?_; subst x) | (refine isSram (x := x) ?_; subst x) | (refine isDram (x := x) ?_; subst x) | (refine isStateFun (x := x) ?_; subst x) | (refine isStateFun2 (x := x) ?_; subst x) | clear_value x | subst x)
    | with_reducible refine goodR_next ?_
    | with_reducible refine goodO_some ?_
    | with_reducible exact goodO_none
    | with_reducible refine cmAccess_good ?_
    | with_reducible refine advanceTo_good ?_
    | with_reducible refine goodO_of ?_ (by with_reducible assumption)
    | with_reducible refine goodP_of ?_ (by with_reducible assumption)
    | with_reducible refine goodQ_of ?_ (by with_reducible assumption)
    | with_reducible refine goodR_of ?_ (by with_reducible assumption)
    | with_reducible exact good_mk (by with_reducible assumption) rfl rfl rfl rfl rfl rfl
    | dsimp -zeta only
    | with_reducible split

theorem execNgFrd_good {qq : List Instr} {e : Fin 512} {t : Fin 4} {mode : Fin 6} {a : Fin 16} {imm : Word18} {t0 : State} (h1 : Good qq t0) :
    GoodR qq (execNgFrd e t mode a imm t0) := by
  delta execNgFrd
  repeat' first
    | with_reducible assumption
    | with_reducible intro _
    | (extract_lets -underBinder +onlyGivenNames x; first | (refine good_cut (q := qq) (s := x) ?_ ?_; (on_goal 1 => subst x); (on_goal 2 => (intro _; clear_value x))) | (refine goodN_cut (q := qq) (x := x) ?_ ?_; (on_goal 1 => subst x); (on_goal 2 => (intro _; clear_value x))) | (refine isFab (x := x) ?_; subst x) | (refine isStateFun (x := x) ?_; subst x) | (refine isStateFun2 (x := x) ?_; subst x) | (refine goodN_fun (x := x) ?_; subst x) | clear_value x | subst x)
    | with_reducible refine goodR_next ?_
    | with_reducible refine goodN_ok ?_
    | with_reducible refine goodN_stopped ?_
    | with_reducible exact goodN_triv
    | with_reducible refine ngAddr_good ?_ ?_
    | with_reducible refine addTxn_good ?_
    | with_reducible refine updThr_good ?_
    | with_reducible refine goodO_getD ?_ ?_
    | with_reducible refine goodR_of ?_ (by with_reducible assumption)
    | with_reducible refine goodN_ok_of (by with_reducible assumption) ?_
    | with_reducible refine goodN_stopped_of (by with_reducible assumption) ?_
    | with_reducible exact good_mk (by with_reducible assumption) rfl rfl rfl rfl rfl rfl
    | with_reducible split

theorem execNgFwr_good {qq : List Instr} {e : Fin 512} {t : Fin 4} {d : Fin 16} {mode : Fin 6} {a : Fin 16} {imm : Word18} {t0 : State} (h1 : Good qq t0) :
    GoodR qq (execNgFwr e t d mode a imm t0) := by
  delta execNgFwr
  repeat' first
    | with_reducible assumption
    | with_reducible intro _
    | (extract_lets -underBinder +onlyGivenNames x; first | (refine good_cut (q := qq) (s := x) ?_ ?_; (on_goal 1 => subst x); (on_goal 2 => (intro _; clear_value x))) | (refine goodN_cut (q := qq) (x := x) ?_ ?_; (on_goal 1 => subst x); (on_goal 2 => (intro _; clear_value x))) | (refine isStateFun (x := x) ?_; subst x) | (refine isStateFun2 (x := x) ?_; subst x) | (refine goodN_fun (x := x) ?_; subst x) | clear_value x | subst x)
    | with_reducible refine goodN_ok ?_
    | with_reducible refine goodN_stopped ?_
    | with_reducible exact goodN_triv
    | with_reducible refine ngAddr_good ?_ ?_
    | with_reducible refine addTxn_good ?_
    | with_reducible refine goodR_of ?_ (by with_reducible assumption)
    | with_reducible refine goodN_ok_of (by with_reducible assumption) ?_
    | with_reducible refine goodN_stopped_of (by with_reducible assumption) ?_
    | with_reducible exact good_mk (by with_reducible assumption) rfl rfl rfl rfl rfl rfl
    | with_reducible split

theorem frdDone_good {qq : List Instr} {s : State} {e : Fin 512} {t : Fin 4} {x : Txn} {slot : Nat} (h1 : Good qq s) :
    Good qq (frdDone s e t x slot) := by
  delta frdDone
  repeat' first
    | with_reducible assumption
    | with_reducible intro _
    | (extract_lets -underBinder +onlyGivenNames x; first | (refine good_cut (q := qq) (s := x) ?_ ?_; (on_goal 1 => subst x); (on_goal 2 => (intro _; clear_value x))) | (refine isStateFun (x := x) ?_; subst x) | (refine isStateFun2 (x := x) ?_; subst x) | clear_value x | subst x)
    | with_reducible refine updThr_good ?_
    | with_reducible refine setSource_good ?_
    | with_reducible exact good_mk (by with_reducible assumption) rfl rfl rfl rfl rfl rfl
    | with_reducible split

theorem fwrDone_good {qq : List Instr} {s : State} {e : Fin 512} {x : Txn} (h1 : Good qq s) :
    Good qq (fwrDone s e x) := by
  delta fwrDone
  repeat' first
    | with_reducible assumption
    | with_reducible intro _
    | with_reducible refine setIrq_good ?_
    | with_reducible refine recordErr_good ?_
    | with_reducible split

theorem rgRecord_good {qq : List Instr} {s : State} {e : Fin 512} {r code : Nat} (h1 : Good qq s) :
    Good qq (rgRecord s e r code) := by
  delta rgRecord
  repeat' first
    | with_reducible assumption
    | with_reducible intro _
    | with_reducible refine recordErr_good ?_

theorem slotSend_good {qq : List Instr} {s : State} {e : Fin 512} {t : Fin 4} {sl : Nat} {w : Nat} {i : Nat} {v : Option Word18} (h1 : Good qq s) :
    Good qq (slotSend s e t sl w i v) := by
  delta slotSend
  repeat' first
    | with_reducible assumption
    | with_reducible intro _
    | (extract_lets -underBinder +onlyGivenNames x; first | (refine good_cut (q := qq) (s := x) ?_ ?_; (on_goal 1 => subst x); (on_goal 2 => (intro _; clear_value x))) | (refine good_cutO (q := qq) (x := x) ?_ ?_; (on_goal 1 => subst x); (on_goal 2 => (intro _; clear_value x))) | (refine isP (x := x) ?_; subst x) | (refine isQ (x := x) ?_; subst x) | (refine isFab (x := x) ?_; subst x) | (refine isSram (x := x) ?_; subst x) | (refine isDram (x := x) ?_; subst x) | (refine isStateFun (x := x) ?_; subst x) | (refine isStateFun2 (x := x) ?_; subst x) | clear_value x | subst x)
    | with_reducible refine goodR_next ?_
    | with_reducible refine goodO_some ?_
    | with_reducible exact goodO_none
    | with_reducible refine goodOP_some ?_
    | with_reducible exact goodOP_none
    | with_reducible refine goodOQ_some ?_
    | with_reducible exact goodOQ_none
    | with_reducible refine updCell_good ?_

theorem execNgPrd_good {qq : List Instr} {e : Fin 512} {t : Fin 4} {d : Fin 16} {mode : Fin 6} {a : Fin 16} {imm : Word18} {z0 : State} (h1 : Good qq z0) :
    GoodR qq (execNgPrd e t d mode a imm z0) := by
  delta execNgPrd
  repeat' first
    | with_reducible assumption
    | with_reducible intro _
    | (extract_lets -underBinder +onlyGivenNames x; first | (refine good_cut (q := qq) (s := x) ?_ ?_; (on_goal 1 => subst x); (on_goal 2 => (intro _; clear_value x))) | (refine good_cutO (q := qq) (x := x) ?_ ?_; (on_goal 1 => subst x); (on_goal 2 => (intro _; clear_value x))) | (refine goodN_cut (q := qq) (x := x) ?_ ?_; (on_goal 1 => subst x); (on_goal 2 => (intro _; clear_value x))) | (refine isP (x := x) ?_; subst x) | (refine isQ (x := x) ?_; subst x) | (refine isFab (x := x) ?_; subst x) | (refine isSram (x := x) ?_; subst x) | (refine isDram (x := x) ?_; subst x) | (refine isStateFun (x := x) ?_; subst x) | (refine isStateFun2 (x := x) ?_; subst x) | (refine goodN_fun (x := x) ?_; subst x) | clear_value x | subst x)
    | with_reducible refine goodR_next ?_
    | with_reducible refine goodO_some ?_
    | with_reducible exact goodO_none
    | with_reducible refine goodN_ok ?_
    | with_reducible refine goodN_stopped ?_
    | with_reducible exact goodN_triv
    | with_reducible refine ngAddr_good ?_ ?_
    | with_reducible refine updThr_good ?_
    | with_reducible refine slotSend_good ?_
    | with_reducible refine rgRecord_good ?_
    | with_reducible refine goodO_of ?_ (by with_reducible assumption)
    | with_reducible refine goodP_of ?_ (by with_reducible assumption)
    | with_reducible refine goodQ_of ?_ (by with_reducible assumption)
    | with_reducible refine goodR_of ?_ (by with_reducible assumption)
    | with_reducible refine goodOP_of ?_ (by with_reducible assumption)
    | with_reducible refine goodOQ_of ?_ (by with_reducible assumption)
    | with_reducible refine goodN_ok_of (by with_reducible assumption) ?_
    | with_reducible refine goodN_stopped_of (by with_reducible assumption) ?_
    | with_reducible exact good_mk (by with_reducible assumption) rfl rfl rfl rfl rfl rfl
    | dsimp -zeta only
    | with_reducible split

theorem execNgPwr_good {qq : List Instr} {e : Fin 512} {t : Fin 4} {d : Fin 16} {mode : Fin 6} {a : Fin 16} {imm : Word18} {z0 : State} (h1 : Good qq z0) :
    GoodR qq (execNgPwr e t d mode a imm z0) := by
  delta execNgPwr
  repeat' first
    | with_reducible assumption
    | with_reducible intro _
    | (extract_lets -underBinder +onlyGivenNames x; first | (refine good_cut (q := qq) (s := x) ?_ ?_; (on_goal 1 => subst x); (on_goal 2 => (intro _; clear_value x))) | (refine good_cutO (q := qq) (x := x) ?_ ?_; (on_goal 1 => subst x); (on_goal 2 => (intro _; clear_value x))) | (refine goodN_cut (q := qq) (x := x) ?_ ?_; (on_goal 1 => subst x); (on_goal 2 => (intro _; clear_value x))) | (refine isP (x := x) ?_; subst x) | (refine isQ (x := x) ?_; subst x) | (refine isFab (x := x) ?_; subst x) | (refine isSram (x := x) ?_; subst x) | (refine isDram (x := x) ?_; subst x) | (refine isStateFun (x := x) ?_; subst x) | (refine isStateFun2 (x := x) ?_; subst x) | (refine goodN_fun (x := x) ?_; subst x) | clear_value x | subst x)
    | with_reducible refine goodR_next ?_
    | with_reducible refine goodO_some ?_
    | with_reducible exact goodO_none
    | with_reducible refine goodN_ok ?_
    | with_reducible refine goodN_stopped ?_
    | with_reducible exact goodN_triv
    | with_reducible refine ngAddr_good ?_ ?_
    | with_reducible refine slotSend_good ?_
    | with_reducible refine rgRecord_good ?_
    | with_reducible refine goodO_of ?_ (by with_reducible assumption)
    | with_reducible refine goodP_of ?_ (by with_reducible assumption)
    | with_reducible refine goodQ_of ?_ (by with_reducible assumption)
    | with_reducible refine goodR_of ?_ (by with_reducible assumption)
    | with_reducible refine goodOP_of ?_ (by with_reducible assumption)
    | with_reducible refine goodOQ_of ?_ (by with_reducible assumption)
    | with_reducible refine goodN_ok_of (by with_reducible assumption) ?_
    | with_reducible refine goodN_stopped_of (by with_reducible assumption) ?_
    | with_reducible exact good_mk (by with_reducible assumption) rfl rfl rfl rfl rfl rfl
    | dsimp -zeta only
    | with_reducible split

theorem execNgUnallocated_good {qq : List Instr} {e : Fin 512} {t : Fin 4} {x : BitVec 36} {s : State} (h1 : Good qq s) :
    GoodR qq (execNgUnallocated e t x s) := by
  delta execNgUnallocated
  repeat' first
    | with_reducible assumption
    | with_reducible intro _
    | (extract_lets -underBinder +onlyGivenNames x; first | (refine good_cut (q := qq) (s := x) ?_ ?_; (on_goal 1 => subst x); (on_goal 2 => (intro _; clear_value x))) | (refine goodN_cut (q := qq) (x := x) ?_ ?_; (on_goal 1 => subst x); (on_goal 2 => (intro _; clear_value x))) | (refine isStateFun (x := x) ?_; subst x) | (refine isStateFun2 (x := x) ?_; subst x) | (refine goodN_fun (x := x) ?_; subst x) | clear_value x | subst x)
    | with_reducible refine goodR_next ?_
    | with_reducible refine goodN_ok ?_
    | with_reducible refine goodN_stopped ?_
    | with_reducible exact goodN_triv
    | with_reducible refine ngInstr_good ?_ ?_
    | with_reducible refine goodR_of ?_ (by with_reducible assumption)
    | with_reducible refine goodN_ok_of (by with_reducible assumption) ?_
    | with_reducible refine goodN_stopped_of (by with_reducible assumption) ?_
    | with_reducible split

end Sys2Proof.Machine
end

