-- ==== Sys2Proof/Laws/KeepIntCtl.lean ====
section
/-!
SUPPORT. Laws/KeepIntCtl.lean: every operation of Machine/IntCtl.lean keeps the queue and the invariant.
-/

namespace Sys2Proof.Machine

theorem ringDoorbell_good {qq : List Instr} {s : State} {d : Nat} (h1 : Good qq s) :
    Good qq (ringDoorbell s d) := by
  delta ringDoorbell
  repeat' first
    | with_reducible assumption
    | with_reducible intro _
    | (extract_lets -underBinder +onlyGivenNames x; first | (refine good_cut (q := qq) (s := x) ?_ ?_; (on_goal 1 => subst x); (on_goal 2 => (intro _; clear_value x))) | clear_value x | subst x)
    | with_reducible refine wrB_good ?_
    | with_reducible split

theorem settleGroups_good {qq : List Instr} {s : State} (h1 : Good qq s) :
    Good qq (settleGroups s) := by
  delta settleGroups
  repeat' first
    | with_reducible assumption
    | with_reducible intro _
    | (extract_lets -underBinder +onlyGivenNames x; first | (refine good_cut (q := qq) (s := x) ?_ ?_; (on_goal 1 => subst x); (on_goal 2 => (intro _; clear_value x))) | (refine isStateFun (x := x) ?_; subst x) | (refine isStateFun2 (x := x) ?_; subst x) | clear_value x | subst x)
    | with_reducible exact good_mk (by with_reducible assumption) rfl rfl rfl rfl rfl rfl

theorem icDo_good {qq : List Instr} {f : State → State} {s : State} (h1 : ∀ a0, Good qq a0 → Good qq (f a0)) (h2 : Good qq s) :
    Good qq (icDo f s) := by
  delta icDo
  repeat' first
    | with_reducible assumption
    | with_reducible intro _
    | (extract_lets -underBinder +onlyGivenNames x; first | (refine good_cut (q := qq) (s := x) ?_ ?_; (on_goal 1 => subst x); (on_goal 2 => (intro _; clear_value x))) | (refine isStateFun (x := x) ?_; subst x) | (refine isStateFun2 (x := x) ?_; subst x) | clear_value x | subst x)
    | with_reducible refine h1 _ ?_
    | with_reducible refine settleGroups_good ?_
    | with_reducible refine ringDoorbell_good ?_
    | with_reducible refine good_foldl ?_ ?_
    | with_reducible refine good_foldlP ?_ ?_
    | with_reducible split

theorem updSrc_good {qq : List Instr} {s : State} {k : Nat} {f : SrcRec → SrcRec} (h1 : Good qq s) :
    Good qq (updSrc s k f) := by
  delta updSrc
  repeat' first
    | with_reducible assumption
    | with_reducible intro _
    | (extract_lets -underBinder +onlyGivenNames x; first | (refine good_cut (q := qq) (s := x) ?_ ?_; (on_goal 1 => subst x); (on_goal 2 => (intro _; clear_value x))) | clear_value x | subst x)
    | with_reducible exact good_mk (by with_reducible assumption) rfl rfl rfl rfl rfl rfl

theorem setGrp_good {qq : List Instr} {s : State} {g : Nat} {r : GrpRec} (h1 : Good qq s) :
    Good qq (setGrp s g r) := by
  delta setGrp
  repeat' first
    | with_reducible assumption
    | with_reducible intro _
    | (extract_lets -underBinder +onlyGivenNames x; first | (refine good_cut (q := qq) (s := x) ?_ ?_; (on_goal 1 => subst x); (on_goal 2 => (intro _; clear_value x))) | clear_value x | subst x)
    | with_reducible exact good_mk (by with_reducible assumption) rfl rfl rfl rfl rfl rfl

theorem groupEvent_good {qq : List Instr} {s : State} {g : Nat} {fresh : Bool} (h1 : Good qq s) :
    Good qq (groupEvent s g fresh) := by
  delta groupEvent
  repeat' first
    | with_reducible assumption
    | with_reducible intro _
    | (extract_lets -underBinder +onlyGivenNames x; first | (refine good_cut (q := qq) (s := x) ?_ ?_; (on_goal 1 => subst x); (on_goal 2 => (intro _; clear_value x))) | clear_value x | subst x)
    | with_reducible refine setGrp_good ?_
    | with_reducible exact good_mk (by with_reducible assumption) rfl rfl rfl rfl rfl rfl
    | with_reducible split

theorem setPending_good {qq : List Instr} {s : State} {k : Nat} {level : Bool} (h1 : Good qq s) :
    Good qq (setPending s k level) := by
  delta setPending
  repeat' first
    | with_reducible assumption
    | with_reducible intro _
    | (extract_lets -underBinder +onlyGivenNames x; first | (refine good_cut (q := qq) (s := x) ?_ ?_; (on_goal 1 => subst x); (on_goal 2 => (intro _; clear_value x))) | (refine isStateFun (x := x) ?_; subst x) | (refine isStateFun2 (x := x) ?_; subst x) | clear_value x | subst x)
    | with_reducible refine updSrc_good ?_
    | with_reducible refine groupEvent_good ?_
    | with_reducible exact good_mk (by with_reducible assumption) rfl rfl rfl rfl rfl rfl
    | with_reducible split

theorem clearLevel_good {qq : List Instr} {s : State} {k : Nat} (h1 : Good qq s) :
    Good qq (clearLevel s k) := by
  delta clearLevel
  repeat' first
    | with_reducible assumption
    | with_reducible intro _
    | (extract_lets -underBinder +onlyGivenNames x; first | (refine good_cut (q := qq) (s := x) ?_ ?_; (on_goal 1 => subst x); (on_goal 2 => (intro _; clear_value x))) | (refine isStateFun (x := x) ?_; subst x) | (refine isStateFun2 (x := x) ?_; subst x) | clear_value x | subst x)
    | with_reducible refine updSrc_good ?_

theorem acceptMsg_good {qq : List Instr} {s : State} {m : IMsg} {f : State → State} (h1 : Good qq s) (h2 : ∀ a0, Good qq a0 → Good qq (f a0)) :
    Good qq (acceptMsg s m f) := by
  delta acceptMsg
  repeat' first
    | with_reducible assumption
    | with_reducible intro _
    | with_reducible refine h2 _ ?_
    | with_reducible refine icDo_good ?_ ?_
    | with_reducible refine setIrq_good ?_
    | with_reducible refine bumpF_good ?_
    | with_reducible split

theorem arrive_good {qq : List Instr} {s : State} {k : MsgKind} {src : Nat} {f : State → State} (h1 : Good qq s) (h2 : ∀ a0, Good qq a0 → Good qq (f a0)) :
    Good qq (arrive s k src f) := by
  delta arrive
  repeat' first
    | with_reducible assumption
    | with_reducible intro _
    | (extract_lets -underBinder +onlyGivenNames x; first | (refine good_cut (q := qq) (s := x) ?_ ?_; (on_goal 1 => subst x); (on_goal 2 => (intro _; clear_value x))) | (refine good_cutO (q := qq) (x := x) ?_ ?_; (on_goal 1 => subst x); (on_goal 2 => (intro _; clear_value x))) | (refine isP (x := x) ?_; subst x) | (refine isQ (x := x) ?_; subst x) | (refine isFab (x := x) ?_; subst x) | (refine isSram (x := x) ?_; subst x) | (refine isDram (x := x) ?_; subst x) | (refine isStateFun (x := x) ?_; subst x) | (refine isStateFun2 (x := x) ?_; subst x) | clear_value x | subst x)
    | with_reducible refine h2 _ ?_
    | with_reducible refine goodR_next ?_
    | with_reducible refine goodO_some ?_
    | with_reducible exact goodO_none
    | with_reducible refine acceptMsg_good ?_ ?_
    | with_reducible refine sendMsg_good ?_
    | with_reducible refine goodO_of ?_ (by with_reducible assumption)
    | with_reducible refine goodP_of ?_ (by with_reducible assumption)
    | with_reducible refine goodQ_of ?_ (by with_reducible assumption)
    | with_reducible refine goodR_of ?_ (by with_reducible assumption)
    | with_reducible refine goodOP_of ?_ (by with_reducible assumption)
    | with_reducible refine goodOQ_of ?_ (by with_reducible assumption)
    | with_reducible exact good_mk (by with_reducible assumption) rfl rfl rfl rfl rfl rfl
    | dsimp -zeta only
    | with_reducible split

theorem icpWrite_good {qq : List Instr} {s : State} {n : Fin 24} {priv : Bool} {off : Nat} {v : Reg32} (h1 : Good qq s) :
    GoodO qq (icpWrite s n priv off v) := by
  delta icpWrite
  repeat' first
    | with_reducible assumption
    | with_reducible intro _
    | (extract_lets -underBinder +onlyGivenNames x; first | (refine good_cut (q := qq) (s := x) ?_ ?_; (on_goal 1 => subst x); (on_goal 2 => (intro _; clear_value x))) | (refine isStateFun (x := x) ?_; subst x) | (refine isStateFun2 (x := x) ?_; subst x) | clear_value x | subst x)
    | with_reducible refine goodO_some ?_
    | with_reducible exact goodO_none
    | with_reducible refine wrB_good ?_
    | with_reducible refine wr_good ?_
    | with_reducible refine icDo_good ?_ ?_
    | with_reducible refine updSrc_good ?_
    | with_reducible refine good_foldl ?_ ?_
    | with_reducible refine good_foldlP ?_ ?_
    | with_reducible refine goodO_foldl ?_ ?_
    | with_reducible exact good_mk (by with_reducible assumption) rfl rfl rfl rfl rfl rfl
    | with_reducible split

theorem ictlWrite_good {qq : List Instr} {s : State} {off : Nat} {v : Reg32} (h1 : Good qq s) :
    GoodO qq (ictlWrite s off v) := by
  delta ictlWrite
  repeat' first
    | with_reducible assumption
    | with_reducible intro _
    | (extract_lets -underBinder +onlyGivenNames x; first | (refine good_cut (q := qq) (s := x) ?_ ?_; (on_goal 1 => subst x); (on_goal 2 => (intro _; clear_value x))) | (refine isStateFun (x := x) ?_; subst x) | (refine isStateFun2 (x := x) ?_; subst x) | clear_value x | subst x)
    | with_reducible refine goodO_some ?_
    | with_reducible exact goodO_none
    | with_reducible refine icDo_good ?_ ?_
    | with_reducible refine updSrc_good ?_
    | with_reducible exact good_mk (by with_reducible assumption) rfl rfl rfl rfl rfl rfl
    | with_reducible split

theorem icForgetPage_good {qq : List Instr} {s : State} {p : Page} (h1 : Good qq s) :
    Good qq (icForgetPage s p) := by
  delta icForgetPage
  repeat' first
    | with_reducible assumption
    | with_reducible intro _
    | (extract_lets -underBinder +onlyGivenNames x; first | (refine good_cut (q := qq) (s := x) ?_ ?_; (on_goal 1 => subst x); (on_goal 2 => (intro _; clear_value x))) | (refine isStateFun (x := x) ?_; subst x) | (refine isStateFun2 (x := x) ?_; subst x) | clear_value x | subst x)
    | with_reducible refine icDo_good ?_ ?_
    | with_reducible exact good_mk (by with_reducible assumption) rfl rfl rfl rfl rfl rfl

theorem icForgetCore_good {qq : List Instr} {s : State} {n : Fin 24} (h1 : Good qq s) :
    Good qq (icForgetCore s n) := by
  delta icForgetCore
  repeat' first
    | with_reducible assumption
    | with_reducible intro _
    | (extract_lets -underBinder +onlyGivenNames x; first | (refine good_cut (q := qq) (s := x) ?_ ?_; (on_goal 1 => subst x); (on_goal 2 => (intro _; clear_value x))) | (refine good_cutO (q := qq) (x := x) ?_ ?_; (on_goal 1 => subst x); (on_goal 2 => (intro _; clear_value x))) | (refine isP (x := x) ?_; subst x) | (refine isQ (x := x) ?_; subst x) | (refine isFab (x := x) ?_; subst x) | (refine isSram (x := x) ?_; subst x) | (refine isDram (x := x) ?_; subst x) | (refine isStateFun (x := x) ?_; subst x) | (refine isStateFun2 (x := x) ?_; subst x) | clear_value x | subst x)
    | with_reducible refine goodR_next ?_
    | with_reducible refine goodO_some ?_
    | with_reducible exact goodO_none
    | with_reducible refine wr_good ?_
    | with_reducible refine good_foldl ?_ ?_
    | with_reducible refine good_foldlP ?_ ?_
    | with_reducible refine goodO_foldl ?_ ?_
    | with_reducible refine goodO_of ?_ (by with_reducible assumption)
    | with_reducible refine goodP_of ?_ (by with_reducible assumption)
    | with_reducible refine goodQ_of ?_ (by with_reducible assumption)
    | with_reducible refine goodR_of ?_ (by with_reducible assumption)
    | with_reducible exact good_mk (by with_reducible assumption) rfl rfl rfl rfl rfl rfl

theorem icForgetDomain_good {qq : List Instr} {s : State} {d : Nat} (h1 : Good qq s) :
    Good qq (icForgetDomain s d) := by
  delta icForgetDomain
  repeat' first
    | with_reducible assumption
    | with_reducible intro _
    | (extract_lets -underBinder +onlyGivenNames x; first | (refine good_cut (q := qq) (s := x) ?_ ?_; (on_goal 1 => subst x); (on_goal 2 => (intro _; clear_value x))) | (refine isStateFun (x := x) ?_; subst x) | (refine isStateFun2 (x := x) ?_; subst x) | clear_value x | subst x)
    | with_reducible refine icDo_good ?_ ?_
    | with_reducible exact good_mk (by with_reducible assumption) rfl rfl rfl rfl rfl rfl

end Sys2Proof.Machine
end

