-- ==== Sys2Proof/Laws/KeepPoc.lean ====
section
/-!
SUPPORT. Laws/KeepPoc.lean: every operation of Machine/Poc.lean keeps the queue and the invariant.
-/

namespace Sys2Proof.Machine

/-- Of `PocAns`. -/
def GoodPA (q : List Instr) : PocAns → Prop
  | .ok s _ _ => Good q s
  | .err s => Good q s
  | .wait s => Good q s

theorem goodPA_ok {q : List Instr} {s : State} {a} {b} (h : Good q s) : GoodPA q (.ok s a b : PocAns) := h
theorem goodPA_ok_of {q : List Instr} {s : State} {a} {b} {x : PocAns} (e : x = .ok s a b) (h : GoodPA q x) : Good q s := by subst e; exact h
theorem goodPA_err {q : List Instr} {s : State} (h : Good q s) : GoodPA q (.err s : PocAns) := h
theorem goodPA_err_of {q : List Instr} {s : State} {x : PocAns} (e : x = .err s) (h : GoodPA q x) : Good q s := by subst e; exact h
theorem goodPA_ok_inv {q : List Instr} {s : State} {a} {b} (h : GoodPA q (.ok s a b : PocAns)) : Good q s := h
theorem goodPA_err_inv {q : List Instr} {s : State} (h : GoodPA q (.err s : PocAns)) : Good q s := h
theorem goodPA_cut {q : List Instr} {P : Prop} {x : PocAns} (h0 : GoodPA q x) (h : GoodPA q x → P) : P := h h0
theorem goodPA_fun {α β : Type} {P : Prop} {x : α → PocAns} (h : P) : P := let _ := x; h
theorem goodPA_wait {q : List Instr} {s : State} (h : Good q s) : GoodPA q (.wait s : PocAns) := h
theorem goodPA_wait_of {q : List Instr} {s : State} {x : PocAns} (e : x = .wait s) (h : GoodPA q x) : Good q s := by subst e; exact h
theorem goodPA_wait_inv {q : List Instr} {s : State} (h : GoodPA q (.wait s : PocAns)) : Good q s := h

/-- Of `Got`. -/
def GoodG (q : List Instr) : Got → Prop
  | .ok s _ _ => Good q s
  | .err s => Good q s
  | .wait s => Good q s

theorem goodG_ok {q : List Instr} {s : State} {a} {b} (h : Good q s) : GoodG q (.ok s a b : Got) := h
theorem goodG_ok_of {q : List Instr} {s : State} {a} {b} {x : Got} (e : x = .ok s a b) (h : GoodG q x) : Good q s := by subst e; exact h
theorem goodG_err {q : List Instr} {s : State} (h : Good q s) : GoodG q (.err s : Got) := h
theorem goodG_err_of {q : List Instr} {s : State} {x : Got} (e : x = .err s) (h : GoodG q x) : Good q s := by subst e; exact h
theorem goodG_ok_inv {q : List Instr} {s : State} {a} {b} (h : GoodG q (.ok s a b : Got)) : Good q s := h
theorem goodG_err_inv {q : List Instr} {s : State} (h : GoodG q (.err s : Got)) : Good q s := h
theorem goodG_ok_ofP {q : List Instr} {β : Type} {y : β} {s : State} {a} {b} {x : Got × β} (e : x = (.ok s a b, y)) (h : GoodG q x.1) : Good q s := by subst e; exact h
theorem goodG_err_ofP {q : List Instr} {β : Type} {y : β} {s : State} {x : Got × β} (e : x = (.err s, y)) (h : GoodG q x.1) : Good q s := by subst e; exact h
theorem goodG_cut {q : List Instr} {P : Prop} {x : Got} (h0 : GoodG q x) (h : GoodG q x → P) : P := h h0
theorem goodG_fun {α β : Type} {P : Prop} {x : α → Got} (h : P) : P := let _ := x; h
theorem goodG_wait {q : List Instr} {s : State} (h : Good q s) : GoodG q (.wait s : Got) := h
theorem goodG_wait_of {q : List Instr} {s : State} {x : Got} (e : x = .wait s) (h : GoodG q x) : Good q s := by subst e; exact h
theorem goodG_wait_inv {q : List Instr} {s : State} (h : GoodG q (.wait s : Got)) : Good q s := h
theorem goodG_wait_ofP {q : List Instr} {β : Type} {y : β} {s : State} {x : Got × β} (e : x = (.wait s, y)) (h : GoodG q x.1) : Good q s := by subst e; exact h

theorem coreFail_good {qq : List Instr} {s : State} {m : Master} {a : Attr} {op : ReqOp} {addr : Nat} {k : Kind} (h1 : Good qq s) :
    GoodPA qq (coreFail s m a op addr k) := by
  delta coreFail
  repeat' first
    | with_reducible assumption
    | with_reducible intro _
    | with_reducible refine goodPA_ok ?_
    | with_reducible refine goodPA_err ?_
    | with_reducible exact goodPA_triv
    | with_reducible refine ferrLog_good ?_

theorem setPort_good {qq : List Instr} {s : State} {m : Master} {w : Option PortWait} (h1 : Good qq s) :
    Good qq (setPort s m w) := by
  delta setPort
  repeat' first
    | with_reducible assumption
    | with_reducible intro _
    | (extract_lets -underBinder +onlyGivenNames x; first | (refine good_cut (q := qq) (s := x) ?_ ?_; (on_goal 1 => subst x); (on_goal 2 => (intro _; clear_value x))) | (refine good_cutO (q := qq) (x := x) ?_ ?_; (on_goal 1 => subst x); (on_goal 2 => (intro _; clear_value x))) | (refine isP (x := x) ?_; subst x) | (refine isQ (x := x) ?_; subst x) | (refine isFab (x := x) ?_; subst x) | (refine isSram (x := x) ?_; subst x) | (refine isDram (x := x) ?_; subst x) | (refine isStateFun (x := x) ?_; subst x) | (refine isStateFun2 (x := x) ?_; subst x) | clear_value x | subst x)
    | with_reducible refine goodR_next ?_
    | with_reducible refine goodO_some ?_
    | with_reducible exact goodO_none
    | with_reducible refine goodOP_some ?_
    | with_reducible exact goodOP_none
    | with_reducible refine goodOQ_some ?_
    | with_reducible exact goodOQ_none
    | with_reducible refine updCore_good ?_
    | with_reducible refine goodO_of ?_ (by with_reducible assumption)
    | with_reducible refine goodP_of ?_ (by with_reducible assumption)
    | with_reducible refine goodQ_of ?_ (by with_reducible assumption)
    | with_reducible refine goodR_of ?_ (by with_reducible assumption)
    | with_reducible exact good_mk (by with_reducible assumption) rfl rfl rfl rfl rfl rfl
    | dsimp -zeta only
    | with_reducible split

theorem atOwnPort_good {qq : List Instr} {s : State} {m : Master} {a : Attr} {addr : Nat} {waited : Nat} {f : State → Nat → PocAns} (h1 : Good qq s) (h2 : ∀ a0 a1, Good qq a0 → GoodPA qq (f a0 a1)) :
    GoodPA qq (atOwnPort s m a addr waited f) := by
  delta atOwnPort
  repeat' first
    | with_reducible assumption
    | with_reducible intro _
    | (extract_lets -underBinder +onlyGivenNames x; first | (refine good_cut (q := qq) (s := x) ?_ ?_; (on_goal 1 => subst x); (on_goal 2 => (intro _; clear_value x))) | (refine good_cutO (q := qq) (x := x) ?_ ?_; (on_goal 1 => subst x); (on_goal 2 => (intro _; clear_value x))) | (refine goodPA_cut (q := qq) (x := x) ?_ ?_; (on_goal 1 => subst x); (on_goal 2 => (intro _; clear_value x))) | (refine isP (x := x) ?_; subst x) | (refine isQ (x := x) ?_; subst x) | (refine isFab (x := x) ?_; subst x) | (refine isSram (x := x) ?_; subst x) | (refine isDram (x := x) ?_; subst x) | (refine isStateFun (x := x) ?_; subst x) | (refine isStateFun2 (x := x) ?_; subst x) | (refine goodPA_fun (x := x) ?_; subst x) | clear_value x | subst x)
    | with_reducible refine h2 _ _ ?_
    | with_reducible refine goodR_next ?_
    | with_reducible refine goodO_some ?_
    | with_reducible exact goodO_none
    | with_reducible refine goodPA_ok ?_
    | with_reducible refine goodPA_err ?_
    | with_reducible refine goodPA_wait ?_
    | with_reducible refine portTurn_good ?_
    | with_reducible refine setPort_good ?_
    | with_reducible refine confCount_good ?_
    | with_reducible refine goodO_of ?_ (by with_reducible assumption)
    | with_reducible refine goodP_of ?_ (by with_reducible assumption)
    | with_reducible refine goodQ_of ?_ (by with_reducible assumption)
    | with_reducible refine goodR_of ?_ (by with_reducible assumption)
    | with_reducible refine goodPA_ok_of (by with_reducible assumption) ?_
    | with_reducible refine goodPA_err_of (by with_reducible assumption) ?_
    | with_reducible refine goodPA_wait_of (by with_reducible assumption) ?_
    | with_reducible exact good_mk (by with_reducible assumption) rfl rfl rfl rfl rfl rfl
    | dsimp -zeta only
    | with_reducible split

theorem pocRead_good {qq : List Instr} {s : State} {m : Master} {a : Attr} {op : ReqOp} {addr : Nat} {len : Nat} {e : LineEnv} (h1 : Good qq s) :
    GoodPA qq (pocRead s m a op addr len e) := by
  delta pocRead
  repeat' first
    | with_reducible assumption
    | with_reducible intro _
    | (extract_lets -underBinder +onlyGivenNames x; first | (refine good_cut (q := qq) (s := x) ?_ ?_; (on_goal 1 => subst x); (on_goal 2 => (intro _; clear_value x))) | (refine good_cutO (q := qq) (x := x) ?_ ?_; (on_goal 1 => subst x); (on_goal 2 => (intro _; clear_value x))) | (refine goodEP_cut (q := qq) (x := x) ?_ ?_; (on_goal 1 => subst x); (on_goal 2 => (intro _; clear_value x))) | (refine goodPA_cut (q := qq) (x := x) ?_ ?_; (on_goal 1 => subst x); (on_goal 2 => (intro _; clear_value x))) | (refine isP (x := x) ?_; subst x) | (refine isQ (x := x) ?_; subst x) | (refine isFab (x := x) ?_; subst x) | (refine isSram (x := x) ?_; subst x) | (refine isDram (x := x) ?_; subst x) | (refine isStateFun (x := x) ?_; subst x) | (refine isStateFun2 (x := x) ?_; subst x) | (refine goodPA_fun (x := x) ?_; subst x) | clear_value x | subst x)
    | with_reducible refine goodR_next ?_
    | with_reducible refine goodO_some ?_
    | with_reducible exact goodO_none
    | with_reducible refine goodEP_ok ?_
    | with_reducible refine goodEP_error ?_
    | with_reducible refine goodPA_ok ?_
    | with_reducible refine goodPA_err ?_
    | with_reducible refine goodPA_wait ?_
    | with_reducible refine coreFail_good ?_
    | with_reducible refine pocReadLine_good ?_
    | with_reducible refine atOwnPort_good ?_ ?_
    | with_reducible refine portRead_good ?_
    | with_reducible refine goodO_of ?_ (by with_reducible assumption)
    | with_reducible refine goodP_of ?_ (by with_reducible assumption)
    | with_reducible refine goodQ_of ?_ (by with_reducible assumption)
    | with_reducible refine goodR_of ?_ (by with_reducible assumption)
    | with_reducible refine goodEP_ok_of (by with_reducible assumption) ?_
    | with_reducible refine goodEP_error_of (by with_reducible assumption) ?_
    | with_reducible refine goodPA_ok_of (by with_reducible assumption) ?_
    | with_reducible refine goodPA_err_of (by with_reducible assumption) ?_
    | with_reducible refine goodPA_wait_of (by with_reducible assumption) ?_
    | with_reducible exact good_mk (by with_reducible assumption) rfl rfl rfl rfl rfl rfl
    | with_reducible exact good_mkB rfl (by with_reducible assumption) rfl rfl rfl rfl rfl
    | dsimp -zeta only
    | with_reducible split

theorem pocWrite_good {qq : List Instr} {s : State} {m : Master} {a : Attr} {addr : Nat} {len : Nat} {mask : Nat} {data : Nat} {bad : Bool} {e : LineEnv} {wb : Bool} (h1 : Good qq s) :
    GoodPA qq (pocWrite s m a addr len mask data bad e wb) := by
  delta pocWrite
  repeat' first
    | with_reducible assumption
    | with_reducible intro _
    | (extract_lets -underBinder +onlyGivenNames x; first | (refine good_cut (q := qq) (s := x) ?_ ?_; (on_goal 1 => subst x); (on_goal 2 => (intro _; clear_value x))) | (refine good_cutO (q := qq) (x := x) ?_ ?_; (on_goal 1 => subst x); (on_goal 2 => (intro _; clear_value x))) | (refine goodE_cut (q := qq) (x := x) ?_ ?_; (on_goal 1 => subst x); (on_goal 2 => (intro _; clear_value x))) | (refine goodPA_cut (q := qq) (x := x) ?_ ?_; (on_goal 1 => subst x); (on_goal 2 => (intro _; clear_value x))) | (refine isP (x := x) ?_; subst x) | (refine isQ (x := x) ?_; subst x) | (refine isFab (x := x) ?_; subst x) | (refine isSram (x := x) ?_; subst x) | (refine isDram (x := x) ?_; subst x) | (refine isStateFun (x := x) ?_; subst x) | (refine isStateFun2 (x := x) ?_; subst x) | (refine goodE_fun (x := x) ?_; subst x) | (refine goodPA_fun (x := x) ?_; subst x) | clear_value x | subst x)
    | with_reducible refine goodR_next ?_
    | with_reducible refine goodO_some ?_
    | with_reducible exact goodO_none
    | with_reducible refine goodE_ok ?_
    | with_reducible refine goodE_error ?_
    | with_reducible refine goodPA_ok ?_
    | with_reducible refine goodPA_err ?_
    | with_reducible refine goodPA_wait ?_
    | with_reducible refine coreFail_good ?_
    | with_reducible refine pocWriteLine_good ?_
    | with_reducible refine atOwnPort_good ?_ ?_
    | with_reducible refine portWrite_good ?_
    | with_reducible refine goodO_of ?_ (by with_reducible assumption)
    | with_reducible refine goodP_of ?_ (by with_reducible assumption)
    | with_reducible refine goodQ_of ?_ (by with_reducible assumption)
    | with_reducible refine goodR_of ?_ (by with_reducible assumption)
    | with_reducible refine goodE_ok_of (by with_reducible assumption) ?_
    | with_reducible refine goodE_error_of (by with_reducible assumption) ?_
    | with_reducible refine goodPA_ok_of (by with_reducible assumption) ?_
    | with_reducible refine goodPA_err_of (by with_reducible assumption) ?_
    | with_reducible refine goodPA_wait_of (by with_reducible assumption) ?_
    | with_reducible exact good_mk (by with_reducible assumption) rfl rfl rfl rfl rfl rfl
    | with_reducible exact good_mkB rfl (by with_reducible assumption) rfl rfl rfl rfl rfl
    | dsimp -zeta only
    | with_reducible split

theorem setL2_good {qq : List Instr} {s : State} {w la : Nat} {x : L2Line} (h1 : Good qq s) :
    Good qq (setL2 s w la x) := by
  delta setL2
  repeat' first
    | with_reducible assumption
    | with_reducible intro _
    | (extract_lets -underBinder +onlyGivenNames x; first | (refine good_cut (q := qq) (s := x) ?_ ?_; (on_goal 1 => subst x); (on_goal 2 => (intro _; clear_value x))) | clear_value x | subst x)
    | with_reducible exact good_mk (by with_reducible assumption) rfl rfl rfl rfl rfl rfl

theorem dropL2_good {qq : List Instr} {s : State} {w : Nat} {la : Nat} (h1 : Good qq s) :
    Good qq (dropL2 s w la) := by
  delta dropL2
  repeat' first
    | with_reducible assumption
    | with_reducible intro _
    | (extract_lets -underBinder +onlyGivenNames x; first | (refine good_cut (q := qq) (s := x) ?_ ?_; (on_goal 1 => subst x); (on_goal 2 => (intro _; clear_value x))) | (refine good_cutO (q := qq) (x := x) ?_ ?_; (on_goal 1 => subst x); (on_goal 2 => (intro _; clear_value x))) | (refine isP (x := x) ?_; subst x) | (refine isQ (x := x) ?_; subst x) | (refine isFab (x := x) ?_; subst x) | (refine isSram (x := x) ?_; subst x) | (refine isDram (x := x) ?_; subst x) | (refine isStateFun (x := x) ?_; subst x) | (refine isStateFun2 (x := x) ?_; subst x) | clear_value x | subst x)
    | with_reducible refine goodR_next ?_
    | with_reducible refine goodO_some ?_
    | with_reducible exact goodO_none
    | with_reducible refine goodO_map ?_ ?_
    | with_reducible refine goodO_of ?_ (by with_reducible assumption)
    | with_reducible refine goodP_of ?_ (by with_reducible assumption)
    | with_reducible refine goodQ_of ?_ (by with_reducible assumption)
    | with_reducible refine goodR_of ?_ (by with_reducible assumption)
    | with_reducible exact good_mk (by with_reducible assumption) rfl rfl rfl rfl rfl rfl

theorem dropLineAll_good {qq : List Instr} {s : State} {la : Nat} (h1 : Good qq s) :
    Good qq (dropLineAll s la) := by
  delta dropLineAll
  repeat' first
    | with_reducible assumption
    | with_reducible intro _
    | (extract_lets -underBinder +onlyGivenNames x; first | (refine good_cut (q := qq) (s := x) ?_ ?_; (on_goal 1 => subst x); (on_goal 2 => (intro _; clear_value x))) | (refine good_cutO (q := qq) (x := x) ?_ ?_; (on_goal 1 => subst x); (on_goal 2 => (intro _; clear_value x))) | (refine isP (x := x) ?_; subst x) | (refine isQ (x := x) ?_; subst x) | (refine isFab (x := x) ?_; subst x) | (refine isSram (x := x) ?_; subst x) | (refine isDram (x := x) ?_; subst x) | (refine isStateFun (x := x) ?_; subst x) | (refine isStateFun2 (x := x) ?_; subst x) | clear_value x | subst x)
    | with_reducible refine goodR_next ?_
    | with_reducible refine goodO_some ?_
    | with_reducible exact goodO_none
    | with_reducible refine dropL2_good ?_
    | with_reducible refine good_foldl ?_ ?_

theorem dropOthers_good {qq : List Instr} {s : State} {w la : Nat} (h1 : Good qq s) :
    Good qq (dropOthers s w la) := by
  delta dropOthers
  repeat' first
    | with_reducible assumption
    | with_reducible intro _
    | with_reducible refine dropL2_good ?_
    | with_reducible refine good_foldl ?_ ?_
    | with_reducible refine good_foldlP ?_ ?_
    | with_reducible split

theorem writeBack_good {qq : List Instr} {s : State} {n : Fin 24} {la : Nat} {x : L2Line} {e : LineEnv} (h1 : Good qq s) :
    GoodE qq (writeBack s n la x e) := by
  delta writeBack
  repeat' first
    | with_reducible assumption
    | with_reducible intro _
    | (extract_lets -underBinder +onlyGivenNames x; first | (refine good_cut (q := qq) (s := x) ?_ ?_; (on_goal 1 => subst x); (on_goal 2 => (intro _; clear_value x))) | (refine good_cutO (q := qq) (x := x) ?_ ?_; (on_goal 1 => subst x); (on_goal 2 => (intro _; clear_value x))) | (refine goodE_cut (q := qq) (x := x) ?_ ?_; (on_goal 1 => subst x); (on_goal 2 => (intro _; clear_value x))) | (refine goodPA_cut (q := qq) (x := x) ?_ ?_; (on_goal 1 => subst x); (on_goal 2 => (intro _; clear_value x))) | (refine isP (x := x) ?_; subst x) | (refine isQ (x := x) ?_; subst x) | (refine isFab (x := x) ?_; subst x) | (refine isSram (x := x) ?_; subst x) | (refine isDram (x := x) ?_; subst x) | (refine isStateFun (x := x) ?_; subst x) | (refine isStateFun2 (x := x) ?_; subst x) | (refine goodE_fun (x := x) ?_; subst x) | (refine goodPA_fun (x := x) ?_; subst x) | clear_value x | subst x)
    | with_reducible refine goodR_next ?_
    | with_reducible refine goodO_some ?_
    | with_reducible exact goodO_none
    | with_reducible refine goodE_ok ?_
    | with_reducible refine goodE_error ?_
    | with_reducible refine goodPA_ok ?_
    | with_reducible refine goodPA_err ?_
    | with_reducible refine goodPA_wait ?_
    | with_reducible refine pocWrite_good ?_
    | with_reducible refine goodO_of ?_ (by with_reducible assumption)
    | with_reducible refine goodP_of ?_ (by with_reducible assumption)
    | with_reducible refine goodQ_of ?_ (by with_reducible assumption)
    | with_reducible refine goodR_of ?_ (by with_reducible assumption)
    | with_reducible refine goodE_ok_of (by with_reducible assumption) ?_
    | with_reducible refine goodE_error_of (by with_reducible assumption) ?_
    | with_reducible refine goodPA_ok_of (by with_reducible assumption) ?_
    | with_reducible refine goodPA_err_of (by with_reducible assumption) ?_
    | with_reducible refine goodPA_wait_of (by with_reducible assumption) ?_
    | with_reducible exact good_mk (by with_reducible assumption) rfl rfl rfl rfl rfl rfl
    | dsimp -zeta only
    | with_reducible split

theorem cleanLine_good {qq : List Instr} {s : State} {n : Fin 24} {la : Nat} {env : MemEnv} (h1 : Good qq s) :
    GoodE qq (cleanLine s n la env) := by
  delta cleanLine
  repeat' first
    | with_reducible assumption
    | with_reducible intro _
    | (extract_lets -underBinder +onlyGivenNames x; first | (refine good_cut (q := qq) (s := x) ?_ ?_; (on_goal 1 => subst x); (on_goal 2 => (intro _; clear_value x))) | (refine good_cutO (q := qq) (x := x) ?_ ?_; (on_goal 1 => subst x); (on_goal 2 => (intro _; clear_value x))) | (refine goodE_cut (q := qq) (x := x) ?_ ?_; (on_goal 1 => subst x); (on_goal 2 => (intro _; clear_value x))) | (refine isP (x := x) ?_; subst x) | (refine isQ (x := x) ?_; subst x) | (refine isFab (x := x) ?_; subst x) | (refine isSram (x := x) ?_; subst x) | (refine isDram (x := x) ?_; subst x) | (refine isStateFun (x := x) ?_; subst x) | (refine isStateFun2 (x := x) ?_; subst x) | (refine goodE_fun (x := x) ?_; subst x) | clear_value x | subst x)
    | with_reducible refine goodR_next ?_
    | with_reducible refine goodO_some ?_
    | with_reducible exact goodO_none
    | with_reducible refine goodE_ok ?_
    | with_reducible refine goodE_error ?_
    | with_reducible refine writeBack_good ?_
    | with_reducible refine setL2_good ?_
    | with_reducible refine good_foldl ?_ ?_
    | with_reducible refine good_foldlP ?_ ?_
    | with_reducible refine goodO_foldl ?_ ?_
    | with_reducible refine goodO_bind ?_ ?_
    | with_reducible refine goodO_map ?_ ?_
    | with_reducible refine goodOP_mapP ?_ ?_
    | with_reducible refine goodOP_map ?_ ?_
    | with_reducible refine goodO_mapP ?_ ?_
    | with_reducible refine goodEbind ?_ ?_
    | with_reducible refine goodEmap ?_ ?_
    | with_reducible refine goodEPmap ?_ ?_
    | with_reducible refine goodEfoldl ?_ ?_
    | with_reducible refine goodO_of ?_ (by with_reducible assumption)
    | with_reducible refine goodP_of ?_ (by with_reducible assumption)
    | with_reducible refine goodQ_of ?_ (by with_reducible assumption)
    | with_reducible refine goodR_of ?_ (by with_reducible assumption)
    | with_reducible refine goodE_ok_of (by with_reducible assumption) ?_
    | with_reducible refine goodE_error_of (by with_reducible assumption) ?_
    | with_reducible exact good_mk (by with_reducible assumption) rfl rfl rfl rfl rfl rfl
    | dsimp -zeta only
    | with_reducible split

theorem pickVictim_good {qq : List Instr} {s : State} {n : Fin 24} {l : List Nat} (h1 : Good qq s) :
    Good qq (pickVictim s n l).2 := by
  delta pickVictim
  repeat' first
    | with_reducible assumption
    | with_reducible intro _
    | (extract_lets -underBinder +onlyGivenNames x; first | (refine good_cut (q := qq) (s := x) ?_ ?_; (on_goal 1 => subst x); (on_goal 2 => (intro _; clear_value x))) | (refine good_cutO (q := qq) (x := x) ?_ ?_; (on_goal 1 => subst x); (on_goal 2 => (intro _; clear_value x))) | (refine isP (x := x) ?_; subst x) | (refine isQ (x := x) ?_; subst x) | (refine isFab (x := x) ?_; subst x) | (refine isSram (x := x) ?_; subst x) | (refine isDram (x := x) ?_; subst x) | (refine isStateFun (x := x) ?_; subst x) | (refine isStateFun2 (x := x) ?_; subst x) | clear_value x | subst x)
    | with_reducible refine goodR_next ?_
    | with_reducible refine goodO_some ?_
    | with_reducible exact goodO_none
    | with_reducible refine goodOP_some ?_
    | with_reducible exact goodOP_none
    | with_reducible refine goodOQ_some ?_
    | with_reducible exact goodOQ_none
    | with_reducible refine freeVal_good ?_

theorem makeRoom_good {qq : List Instr} {s : State} {n : Fin 24} {w : Nat} {la : Nat} {env : MemEnv} (h1 : Good qq s) :
    GoodE qq (makeRoom s n w la env) := by
  delta makeRoom
  repeat' first
    | with_reducible assumption
    | with_reducible intro _
    | (extract_lets -underBinder +onlyGivenNames x; first | (refine good_cut (q := qq) (s := x) ?_ ?_; (on_goal 1 => subst x); (on_goal 2 => (intro _; clear_value x))) | (refine good_cutO (q := qq) (x := x) ?_ ?_; (on_goal 1 => subst x); (on_goal 2 => (intro _; clear_value x))) | (refine goodE_cut (q := qq) (x := x) ?_ ?_; (on_goal 1 => subst x); (on_goal 2 => (intro _; clear_value x))) | (refine isP (x := x) ?_; subst x) | (refine isQ (x := x) ?_; subst x) | (refine isFab (x := x) ?_; subst x) | (refine isSram (x := x) ?_; subst x) | (refine isDram (x := x) ?_; subst x) | (refine isStateFun (x := x) ?_; subst x) | (refine isStateFun2 (x := x) ?_; subst x) | (refine goodE_fun (x := x) ?_; subst x) | clear_value x | subst x)
    | with_reducible refine goodR_next ?_
    | with_reducible refine goodO_some ?_
    | with_reducible exact goodO_none
    | with_reducible refine goodE_ok ?_
    | with_reducible refine goodE_error ?_
    | with_reducible refine pickVictim_good ?_
    | with_reducible refine writeBack_good ?_
    | with_reducible refine dropL2_good ?_
    | with_reducible refine goodO_map ?_ ?_
    | with_reducible refine goodOP_mapP ?_ ?_
    | with_reducible refine goodOP_map ?_ ?_
    | with_reducible refine goodO_mapP ?_ ?_
    | with_reducible refine goodEmap ?_ ?_
    | with_reducible refine goodEPmap ?_ ?_
    | with_reducible refine goodO_of ?_ (by with_reducible assumption)
    | with_reducible refine goodP_of ?_ (by with_reducible assumption)
    | with_reducible refine goodQ_of ?_ (by with_reducible assumption)
    | with_reducible refine goodR_of ?_ (by with_reducible assumption)
    | with_reducible refine goodE_ok_of (by with_reducible assumption) ?_
    | with_reducible refine goodE_error_of (by with_reducible assumption) ?_
    | with_reducible exact good_mk (by with_reducible assumption) rfl rfl rfl rfl rfl rfl
    | dsimp -zeta only
    | with_reducible split

theorem filterRoom_good {qq : List Instr} {s : State} {n : Fin 24} {la : Nat} {env : MemEnv} (h1 : Good qq s) :
    GoodE qq (filterRoom s n la env) := by
  delta filterRoom
  repeat' first
    | with_reducible assumption
    | with_reducible intro _
    | (extract_lets -underBinder +onlyGivenNames x; first | (refine good_cut (q := qq) (s := x) ?_ ?_; (on_goal 1 => subst x); (on_goal 2 => (intro _; clear_value x))) | (refine good_cutO (q := qq) (x := x) ?_ ?_; (on_goal 1 => subst x); (on_goal 2 => (intro _; clear_value x))) | (refine goodE_cut (q := qq) (x := x) ?_ ?_; (on_goal 1 => subst x); (on_goal 2 => (intro _; clear_value x))) | (refine isP (x := x) ?_; subst x) | (refine isQ (x := x) ?_; subst x) | (refine isFab (x := x) ?_; subst x) | (refine isSram (x := x) ?_; subst x) | (refine isDram (x := x) ?_; subst x) | (refine isStateFun (x := x) ?_; subst x) | (refine isStateFun2 (x := x) ?_; subst x) | (refine goodE_fun (x := x) ?_; subst x) | clear_value x | subst x)
    | with_reducible refine goodR_next ?_
    | with_reducible refine goodO_some ?_
    | with_reducible exact goodO_none
    | with_reducible refine goodE_ok ?_
    | with_reducible refine goodE_error ?_
    | with_reducible refine recUnstated_good ?_
    | with_reducible refine pickVictim_good ?_
    | with_reducible refine cleanLine_good ?_
    | with_reducible refine dropLineAll_good ?_
    | with_reducible refine goodO_map ?_ ?_
    | with_reducible refine goodOP_mapP ?_ ?_
    | with_reducible refine goodOP_map ?_ ?_
    | with_reducible refine goodO_mapP ?_ ?_
    | with_reducible refine goodEmap ?_ ?_
    | with_reducible refine goodEPmap ?_ ?_
    | with_reducible refine goodO_of ?_ (by with_reducible assumption)
    | with_reducible refine goodP_of ?_ (by with_reducible assumption)
    | with_reducible refine goodQ_of ?_ (by with_reducible assumption)
    | with_reducible refine goodR_of ?_ (by with_reducible assumption)
    | with_reducible refine goodE_ok_of (by with_reducible assumption) ?_
    | with_reducible refine goodE_error_of (by with_reducible assumption) ?_
    | with_reducible exact good_mk (by with_reducible assumption) rfl rfl rfl rfl rfl rfl
    | dsimp -zeta only
    | with_reducible split

theorem l2Poison_good {qq : List Instr} {s : State} {w la : Nat} {x : L2Line} (h1 : Good qq s) :
    Good qq (l2Poison s w la x) := by
  delta l2Poison
  repeat' first
    | with_reducible assumption
    | with_reducible intro _
    | (extract_lets -underBinder +onlyGivenNames x; first | (refine good_cut (q := qq) (s := x) ?_ ?_; (on_goal 1 => subst x); (on_goal 2 => (intro _; clear_value x))) | clear_value x | subst x)
    | with_reducible refine recordErr_good ?_
    | with_reducible refine setL2_good ?_

theorem l2Finding_good {qq : List Instr} {s : State} {w la : Nat} {x : L2Line} {e : Fin 4} (h1 : Good qq s) :
    Good qq (l2Finding s w la x e).1 := by
  delta l2Finding
  repeat' first
    | with_reducible assumption
    | with_reducible intro _
    | (extract_lets -underBinder +onlyGivenNames x; first | (refine good_cut (q := qq) (s := x) ?_ ?_; (on_goal 1 => subst x); (on_goal 2 => (intro _; clear_value x))) | clear_value x | subst x)
    | with_reducible refine recInternal_good ?_
    | with_reducible refine l2Poison_good ?_
    | with_reducible refine dropL2_good ?_
    | with_reducible refine recFatal_good ?_
    | with_reducible exact good_mk (by with_reducible assumption) rfl rfl rfl rfl rfl rfl
    | dsimp -zeta only
    | with_reducible split

theorem fillL2_good {qq : List Instr} {s : State} {n : Fin 24} {a : Attr} {excl : Bool} {op : ReqOp} {la : Nat} {env : MemEnv} (h1 : Good qq s) :
    GoodG qq (fillL2 s n a excl op la env) := by
  delta fillL2
  repeat' first
    | with_reducible assumption
    | with_reducible intro _
    | (extract_lets -underBinder +onlyGivenNames x; first | (refine good_cut (q := qq) (s := x) ?_ ?_; (on_goal 1 => subst x); (on_goal 2 => (intro _; clear_value x))) | (refine good_cutO (q := qq) (x := x) ?_ ?_; (on_goal 1 => subst x); (on_goal 2 => (intro _; clear_value x))) | (refine goodE_cut (q := qq) (x := x) ?_ ?_; (on_goal 1 => subst x); (on_goal 2 => (intro _; clear_value x))) | (refine goodPA_cut (q := qq) (x := x) ?_ ?_; (on_goal 1 => subst x); (on_goal 2 => (intro _; clear_value x))) | (refine goodG_cut (q := qq) (x := x) ?_ ?_; (on_goal 1 => subst x); (on_goal 2 => (intro _; clear_value x))) | (refine isP (x := x) ?_; subst x) | (refine isQ (x := x) ?_; subst x) | (refine isFab (x := x) ?_; subst x) | (refine isSram (x := x) ?_; subst x) | (refine isDram (x := x) ?_; subst x) | (refine isStateFun (x := x) ?_; subst x) | (refine isStateFun2 (x := x) ?_; subst x) | (refine goodE_fun (x := x) ?_; subst x) | (refine goodPA_fun (x := x) ?_; subst x) | (refine goodG_fun (x := x) ?_; subst x) | clear_value x | subst x)
    | with_reducible refine goodR_next ?_
    | with_reducible refine goodO_some ?_
    | with_reducible exact goodO_none
    | with_reducible refine goodE_ok ?_
    | with_reducible refine goodE_error ?_
    | with_reducible refine goodPA_ok ?_
    | with_reducible refine goodPA_err ?_
    | with_reducible refine goodPA_wait ?_
    | with_reducible refine goodG_ok ?_
    | with_reducible refine goodG_err ?_
    | with_reducible refine goodG_wait ?_
    | with_reducible refine filterRoom_good ?_
    | with_reducible refine makeRoom_good ?_
    | with_reducible refine setL2_good ?_
    | with_reducible refine dropOthers_good ?_
    | with_reducible refine pocRead_good ?_
    | with_reducible refine goodO_bind ?_ ?_
    | with_reducible refine goodEbind ?_ ?_
    | with_reducible refine goodO_of ?_ (by with_reducible assumption)
    | with_reducible refine goodP_of ?_ (by with_reducible assumption)
    | with_reducible refine goodQ_of ?_ (by with_reducible assumption)
    | with_reducible refine goodR_of ?_ (by with_reducible assumption)
    | with_reducible refine goodOP_of ?_ (by with_reducible assumption)
    | with_reducible refine goodOQ_of ?_ (by with_reducible assumption)
    | with_reducible refine goodE_ok_of (by with_reducible assumption) ?_
    | with_reducible refine goodE_error_of (by with_reducible assumption) ?_
    | with_reducible refine goodPA_ok_of (by with_reducible assumption) ?_
    | with_reducible refine goodPA_err_of (by with_reducible assumption) ?_
    | with_reducible refine goodPA_wait_of (by with_reducible assumption) ?_
    | with_reducible refine goodG_ok_of (by with_reducible assumption) ?_
    | with_reducible refine goodG_err_of (by with_reducible assumption) ?_
    | with_reducible refine goodG_ok_ofP (by with_reducible assumption) ?_
    | with_reducible refine goodG_err_ofP (by with_reducible assumption) ?_
    | with_reducible refine goodG_wait_of (by with_reducible assumption) ?_
    | with_reducible refine goodG_wait_ofP (by with_reducible assumption) ?_
    | with_reducible exact good_mk (by with_reducible assumption) rfl rfl rfl rfl rfl rfl
    | dsimp -zeta only
    | with_reducible split

theorem missL2_good {qq : List Instr} {s : State} {n : Fin 24} {a : Attr} {excl : Bool} {op : ReqOp} {la : Nat} {env : MemEnv} (h1 : Good qq s) :
    GoodG qq (missL2 s n a excl op la env) := by
  delta missL2
  repeat' first
    | with_reducible assumption
    | with_reducible intro _
    | (extract_lets -underBinder +onlyGivenNames x; first | (refine good_cut (q := qq) (s := x) ?_ ?_; (on_goal 1 => subst x); (on_goal 2 => (intro _; clear_value x))) | (refine good_cutO (q := qq) (x := x) ?_ ?_; (on_goal 1 => subst x); (on_goal 2 => (intro _; clear_value x))) | (refine goodG_cut (q := qq) (x := x) ?_ ?_; (on_goal 1 => subst x); (on_goal 2 => (intro _; clear_value x))) | (refine isP (x := x) ?_; subst x) | (refine isQ (x := x) ?_; subst x) | (refine isFab (x := x) ?_; subst x) | (refine isSram (x := x) ?_; subst x) | (refine isDram (x := x) ?_; subst x) | (refine isStateFun (x := x) ?_; subst x) | (refine isStateFun2 (x := x) ?_; subst x) | (refine goodG_fun (x := x) ?_; subst x) | clear_value x | subst x)
    | with_reducible refine goodR_next ?_
    | with_reducible refine goodO_some ?_
    | with_reducible exact goodO_none
    | with_reducible refine goodG_ok ?_
    | with_reducible refine goodG_err ?_
    | with_reducible refine goodG_wait ?_
    | with_reducible refine holdMiss_good ?_
    | with_reducible refine fillL2_good ?_
    | with_reducible refine goodO_of ?_ (by with_reducible assumption)
    | with_reducible refine goodP_of ?_ (by with_reducible assumption)
    | with_reducible refine goodQ_of ?_ (by with_reducible assumption)
    | with_reducible refine goodR_of ?_ (by with_reducible assumption)
    | with_reducible refine goodG_ok_of (by with_reducible assumption) ?_
    | with_reducible refine goodG_err_of (by with_reducible assumption) ?_
    | with_reducible refine goodG_ok_ofP (by with_reducible assumption) ?_
    | with_reducible refine goodG_err_ofP (by with_reducible assumption) ?_
    | with_reducible refine goodG_wait_of (by with_reducible assumption) ?_
    | with_reducible refine goodG_wait_ofP (by with_reducible assumption) ?_
    | with_reducible exact good_mk (by with_reducible assumption) rfl rfl rfl rfl rfl rfl
    | dsimp -zeta only
    | with_reducible split

theorem obtain_good {qq : List Instr} {s : State} {n : Fin 24} {a : Attr} {excl : Bool} {op : ReqOp} {la : Nat} {env : MemEnv} (h1 : Good qq s) :
    GoodG qq (obtain s n a excl op la env) := by
  delta obtain
  repeat' first
    | with_reducible assumption
    | with_reducible intro _
    | (extract_lets -underBinder +onlyGivenNames x; first | (refine good_cut (q := qq) (s := x) ?_ ?_; (on_goal 1 => subst x); (on_goal 2 => (intro _; clear_value x))) | (refine good_cutO (q := qq) (x := x) ?_ ?_; (on_goal 1 => subst x); (on_goal 2 => (intro _; clear_value x))) | (refine goodG_cut (q := qq) (x := x) ?_ ?_; (on_goal 1 => subst x); (on_goal 2 => (intro _; clear_value x))) | (refine isP (x := x) ?_; subst x) | (refine isQ (x := x) ?_; subst x) | (refine isFab (x := x) ?_; subst x) | (refine isSram (x := x) ?_; subst x) | (refine isDram (x := x) ?_; subst x) | (refine isStateFun (x := x) ?_; subst x) | (refine isStateFun2 (x := x) ?_; subst x) | (refine goodG_fun (x := x) ?_; subst x) | clear_value x | subst x)
    | with_reducible refine goodR_next ?_
    | with_reducible refine goodO_some ?_
    | with_reducible exact goodO_none
    | with_reducible refine goodG_ok ?_
    | with_reducible refine goodG_err ?_
    | with_reducible exact goodG_triv
    | with_reducible refine missL2_good ?_
    | with_reducible refine l2Finding_good ?_
    | with_reducible refine setL2_good ?_
    | with_reducible refine dropOthers_good ?_
    | with_reducible refine goodO_of ?_ (by with_reducible assumption)
    | with_reducible refine goodP_of ?_ (by with_reducible assumption)
    | with_reducible refine goodQ_of ?_ (by with_reducible assumption)
    | with_reducible refine goodR_of ?_ (by with_reducible assumption)
    | with_reducible refine goodG_ok_of (by with_reducible assumption) ?_
    | with_reducible refine goodG_err_of (by with_reducible assumption) ?_
    | with_reducible exact good_mk (by with_reducible assumption) rfl rfl rfl rfl rfl rfl
    | dsimp -zeta only
    | with_reducible split

theorem updL1_good {qq : List Instr} {s : State} {n : Fin 24} {i : Bool} {f : L1Cache → L1Cache} (h1 : Good qq s) :
    Good qq (updL1 s n i f) := by
  delta updL1
  repeat' first
    | with_reducible assumption
    | with_reducible intro _
    | (extract_lets -underBinder +onlyGivenNames x; first | (refine good_cut (q := qq) (s := x) ?_ ?_; (on_goal 1 => subst x); (on_goal 2 => (intro _; clear_value x))) | (refine good_cutO (q := qq) (x := x) ?_ ?_; (on_goal 1 => subst x); (on_goal 2 => (intro _; clear_value x))) | (refine isP (x := x) ?_; subst x) | (refine isQ (x := x) ?_; subst x) | (refine isFab (x := x) ?_; subst x) | (refine isSram (x := x) ?_; subst x) | (refine isDram (x := x) ?_; subst x) | (refine isStateFun (x := x) ?_; subst x) | (refine isStateFun2 (x := x) ?_; subst x) | clear_value x | subst x)
    | with_reducible refine goodR_next ?_
    | with_reducible refine goodO_some ?_
    | with_reducible exact goodO_none
    | with_reducible refine updCore_good ?_

theorem fillL1_good {qq : List Instr} {s : State} {n : Fin 24} {i : Bool} {la : Nat} (h1 : Good qq s) :
    Good qq (fillL1 s n i la) := by
  delta fillL1
  repeat' first
    | with_reducible assumption
    | with_reducible intro _
    | (extract_lets -underBinder +onlyGivenNames x; first | (refine good_cut (q := qq) (s := x) ?_ ?_; (on_goal 1 => subst x); (on_goal 2 => (intro _; clear_value x))) | (refine good_cutO (q := qq) (x := x) ?_ ?_; (on_goal 1 => subst x); (on_goal 2 => (intro _; clear_value x))) | (refine isP (x := x) ?_; subst x) | (refine isQ (x := x) ?_; subst x) | (refine isFab (x := x) ?_; subst x) | (refine isSram (x := x) ?_; subst x) | (refine isDram (x := x) ?_; subst x) | (refine isStateFun (x := x) ?_; subst x) | (refine isStateFun2 (x := x) ?_; subst x) | clear_value x | subst x)
    | with_reducible refine goodR_next ?_
    | with_reducible refine goodO_some ?_
    | with_reducible exact goodO_none
    | with_reducible refine updL1_good ?_
    | with_reducible refine freeVal_good ?_
    | with_reducible refine goodO_getD ?_ ?_
    | with_reducible refine goodO_of ?_ (by with_reducible assumption)
    | with_reducible refine goodP_of ?_ (by with_reducible assumption)
    | with_reducible refine goodQ_of ?_ (by with_reducible assumption)
    | with_reducible refine goodR_of ?_ (by with_reducible assumption)
    | with_reducible exact good_mk (by with_reducible assumption) rfl rfl rfl rfl rfl rfl
    | dsimp -zeta only
    | with_reducible split

theorem l1Parity_good {qq : List Instr} {s : State} {n : Fin 24} {i : Bool} {la : Nat} (h1 : Good qq s) :
    Good qq (l1Parity s n i la) := by
  delta l1Parity
  repeat' first
    | with_reducible assumption
    | with_reducible intro _
    | (extract_lets -underBinder +onlyGivenNames x; first | (refine good_cut (q := qq) (s := x) ?_ ?_; (on_goal 1 => subst x); (on_goal 2 => (intro _; clear_value x))) | (refine good_cutO (q := qq) (x := x) ?_ ?_; (on_goal 1 => subst x); (on_goal 2 => (intro _; clear_value x))) | (refine isP (x := x) ?_; subst x) | (refine isQ (x := x) ?_; subst x) | (refine isFab (x := x) ?_; subst x) | (refine isSram (x := x) ?_; subst x) | (refine isDram (x := x) ?_; subst x) | (refine isStateFun (x := x) ?_; subst x) | (refine isStateFun2 (x := x) ?_; subst x) | clear_value x | subst x)
    | with_reducible refine goodR_next ?_
    | with_reducible refine goodO_some ?_
    | with_reducible exact goodO_none
    | with_reducible refine recInternal_good ?_
    | with_reducible refine updL1_good ?_
    | with_reducible refine goodO_of ?_ (by with_reducible assumption)
    | with_reducible refine goodP_of ?_ (by with_reducible assumption)
    | with_reducible refine goodQ_of ?_ (by with_reducible assumption)
    | with_reducible refine goodR_of ?_ (by with_reducible assumption)
    | with_reducible refine goodOP_of ?_ (by with_reducible assumption)
    | with_reducible refine goodOQ_of ?_ (by with_reducible assumption)
    | with_reducible exact good_mk (by with_reducible assumption) rfl rfl rfl rfl rfl rfl
    | dsimp -zeta only
    | with_reducible split

theorem l1Line_good {qq : List Instr} {s : State} {n : Fin 24} {i : Bool} {la : Nat} {env : MemEnv} (h1 : Good qq s) :
    GoodG qq (l1Line s n i la env).1 := by
  delta l1Line
  repeat' first
    | with_reducible assumption
    | with_reducible intro _
    | (extract_lets -underBinder +onlyGivenNames x; first | (refine good_cut (q := qq) (s := x) ?_ ?_; (on_goal 1 => subst x); (on_goal 2 => (intro _; clear_value x))) | (refine good_cutO (q := qq) (x := x) ?_ ?_; (on_goal 1 => subst x); (on_goal 2 => (intro _; clear_value x))) | (refine goodG_cut (q := qq) (x := x) ?_ ?_; (on_goal 1 => subst x); (on_goal 2 => (intro _; clear_value x))) | (refine isP (x := x) ?_; subst x) | (refine isQ (x := x) ?_; subst x) | (refine isFab (x := x) ?_; subst x) | (refine isSram (x := x) ?_; subst x) | (refine isDram (x := x) ?_; subst x) | (refine isStateFun (x := x) ?_; subst x) | (refine isStateFun2 (x := x) ?_; subst x) | (refine goodG_fun (x := x) ?_; subst x) | clear_value x | subst x)
    | with_reducible refine goodR_next ?_
    | with_reducible refine goodO_some ?_
    | with_reducible exact goodO_none
    | with_reducible refine goodG_ok ?_
    | with_reducible refine goodG_err ?_
    | with_reducible refine goodG_wait ?_
    | with_reducible refine l1Parity_good ?_
    | with_reducible refine obtain_good ?_
    | with_reducible refine fillL1_good ?_
    | with_reducible refine goodO_of ?_ (by with_reducible assumption)
    | with_reducible refine goodP_of ?_ (by with_reducible assumption)
    | with_reducible refine goodQ_of ?_ (by with_reducible assumption)
    | with_reducible refine goodR_of ?_ (by with_reducible assumption)
    | with_reducible refine goodG_ok_of (by with_reducible assumption) ?_
    | with_reducible refine goodG_err_of (by with_reducible assumption) ?_
    | with_reducible refine goodG_ok_ofP (by with_reducible assumption) ?_
    | with_reducible refine goodG_err_ofP (by with_reducible assumption) ?_
    | with_reducible refine goodG_wait_of (by with_reducible assumption) ?_
    | with_reducible refine goodG_wait_ofP (by with_reducible assumption) ?_
    | with_reducible exact good_mk (by with_reducible assumption) rfl rfl rfl rfl rfl rfl
    | dsimp -zeta only
    | with_reducible split

theorem loadLine_good {qq : List Instr} {s : State} {n : Fin 24} {la : Nat} {env : MemEnv} (h1 : Good qq s) :
    GoodG qq (loadLine s n la env).1 := by
  delta loadLine
  repeat' first
    | with_reducible assumption
    | with_reducible intro _
    | (extract_lets -underBinder +onlyGivenNames x; first | (refine good_cut (q := qq) (s := x) ?_ ?_; (on_goal 1 => subst x); (on_goal 2 => (intro _; clear_value x))) | (refine good_cutO (q := qq) (x := x) ?_ ?_; (on_goal 1 => subst x); (on_goal 2 => (intro _; clear_value x))) | (refine goodG_cut (q := qq) (x := x) ?_ ?_; (on_goal 1 => subst x); (on_goal 2 => (intro _; clear_value x))) | (refine isP (x := x) ?_; subst x) | (refine isQ (x := x) ?_; subst x) | (refine isFab (x := x) ?_; subst x) | (refine isSram (x := x) ?_; subst x) | (refine isDram (x := x) ?_; subst x) | (refine isStateFun (x := x) ?_; subst x) | (refine isStateFun2 (x := x) ?_; subst x) | (refine goodG_fun (x := x) ?_; subst x) | clear_value x | subst x)
    | with_reducible refine goodR_next ?_
    | with_reducible refine goodO_some ?_
    | with_reducible exact goodO_none
    | with_reducible refine goodG_ok ?_
    | with_reducible refine goodG_err ?_
    | with_reducible exact goodG_triv
    | with_reducible refine l1Line_good ?_

theorem otherCores_good {qq : List Instr} {s : State} {n : Fin 24} {la : Nat} (h1 : Good qq s) :
    Good qq (otherCores s n la) := by
  delta otherCores
  repeat' first
    | with_reducible assumption
    | with_reducible intro _
    | (extract_lets -underBinder +onlyGivenNames x; first | (refine good_cut (q := qq) (s := x) ?_ ?_; (on_goal 1 => subst x); (on_goal 2 => (intro _; clear_value x))) | (refine good_cutO (q := qq) (x := x) ?_ ?_; (on_goal 1 => subst x); (on_goal 2 => (intro _; clear_value x))) | (refine isP (x := x) ?_; subst x) | (refine isQ (x := x) ?_; subst x) | (refine isFab (x := x) ?_; subst x) | (refine isSram (x := x) ?_; subst x) | (refine isDram (x := x) ?_; subst x) | (refine isStateFun (x := x) ?_; subst x) | (refine isStateFun2 (x := x) ?_; subst x) | clear_value x | subst x)
    | with_reducible refine goodR_next ?_
    | with_reducible refine goodO_some ?_
    | with_reducible exact goodO_none
    | with_reducible refine goodO_map ?_ ?_
    | with_reducible refine goodO_of ?_ (by with_reducible assumption)
    | with_reducible refine goodP_of ?_ (by with_reducible assumption)
    | with_reducible refine goodQ_of ?_ (by with_reducible assumption)
    | with_reducible refine goodR_of ?_ (by with_reducible assumption)
    | with_reducible exact good_mk (by with_reducible assumption) rfl rfl rfl rfl rfl rfl

theorem writeL2_good {qq : List Instr} {s : State} {n : Fin 24} {la : Nat} {x : L2Line} {mask data : Line} {did : Nat} (h1 : Good qq s) :
    Good qq (writeL2 s n la x mask data did) := by
  delta writeL2
  repeat' first
    | with_reducible assumption
    | with_reducible intro _
    | with_reducible refine setL2_good ?_
    | with_reducible refine otherCores_good ?_

theorem holdStoreBus_good {qq : List Instr} {s : State} {n : Fin 24} {lvl pa : Nat} (h1 : Good qq s) :
    Good qq (holdStoreBus s n lvl pa) := by
  delta holdStoreBus
  repeat' first
    | with_reducible assumption
    | with_reducible intro _
    | (extract_lets -underBinder +onlyGivenNames x; first | (refine good_cut (q := qq) (s := x) ?_ ?_; (on_goal 1 => subst x); (on_goal 2 => (intro _; clear_value x))) | (refine isStateFun (x := x) ?_; subst x) | (refine isStateFun2 (x := x) ?_; subst x) | clear_value x | subst x)
    | with_reducible refine updCore_good ?_

theorem commitNormal_good {qq : List Instr} {s : State} {n : Fin 24} {x : StoreEnt} {env : MemEnv} (h1 : Good qq s) :
    GoodE qq (commitNormal s n x env) := by
  delta commitNormal
  repeat' first
    | with_reducible assumption
    | with_reducible intro _
    | (extract_lets -underBinder +onlyGivenNames x; first | (refine good_cut (q := qq) (s := x) ?_ ?_; (on_goal 1 => subst x); (on_goal 2 => (intro _; clear_value x))) | (refine good_cutO (q := qq) (x := x) ?_ ?_; (on_goal 1 => subst x); (on_goal 2 => (intro _; clear_value x))) | (refine goodE_cut (q := qq) (x := x) ?_ ?_; (on_goal 1 => subst x); (on_goal 2 => (intro _; clear_value x))) | (refine goodPA_cut (q := qq) (x := x) ?_ ?_; (on_goal 1 => subst x); (on_goal 2 => (intro _; clear_value x))) | (refine goodG_cut (q := qq) (x := x) ?_ ?_; (on_goal 1 => subst x); (on_goal 2 => (intro _; clear_value x))) | (refine isP (x := x) ?_; subst x) | (refine isQ (x := x) ?_; subst x) | (refine isFab (x := x) ?_; subst x) | (refine isSram (x := x) ?_; subst x) | (refine isDram (x := x) ?_; subst x) | (refine isStateFun (x := x) ?_; subst x) | (refine isStateFun2 (x := x) ?_; subst x) | (refine goodE_fun (x := x) ?_; subst x) | (refine goodPA_fun (x := x) ?_; subst x) | (refine goodG_fun (x := x) ?_; subst x) | clear_value x | subst x)
    | with_reducible refine goodR_next ?_
    | with_reducible refine goodO_some ?_
    | with_reducible exact goodO_none
    | with_reducible refine goodE_ok ?_
    | with_reducible refine goodE_error ?_
    | with_reducible refine goodPA_ok ?_
    | with_reducible refine goodPA_err ?_
    | with_reducible refine goodPA_wait ?_
    | with_reducible refine goodG_ok ?_
    | with_reducible refine goodG_err ?_
    | with_reducible refine goodG_wait ?_
    | with_reducible refine obtain_good ?_
    | with_reducible refine holdStoreBus_good ?_
    | with_reducible refine writeL2_good ?_
    | with_reducible refine pmuEvent_good ?_
    | with_reducible refine pocWrite_good ?_
    | with_reducible refine otherCores_good ?_
    | with_reducible refine goodO_of ?_ (by with_reducible assumption)
    | with_reducible refine goodP_of ?_ (by with_reducible assumption)
    | with_reducible refine goodQ_of ?_ (by with_reducible assumption)
    | with_reducible refine goodR_of ?_ (by with_reducible assumption)
    | with_reducible refine goodE_ok_of (by with_reducible assumption) ?_
    | with_reducible refine goodE_error_of (by with_reducible assumption) ?_
    | with_reducible refine goodPA_ok_of (by with_reducible assumption) ?_
    | with_reducible refine goodPA_err_of (by with_reducible assumption) ?_
    | with_reducible refine goodPA_wait_of (by with_reducible assumption) ?_
    | with_reducible refine goodG_ok_of (by with_reducible assumption) ?_
    | with_reducible refine goodG_err_of (by with_reducible assumption) ?_
    | with_reducible refine goodG_ok_ofP (by with_reducible assumption) ?_
    | with_reducible refine goodG_err_ofP (by with_reducible assumption) ?_
    | with_reducible refine goodG_wait_of (by with_reducible assumption) ?_
    | with_reducible refine goodG_wait_ofP (by with_reducible assumption) ?_
    | with_reducible exact good_mk (by with_reducible assumption) rfl rfl rfl rfl rfl rfl
    | dsimp -zeta only
    | with_reducible split

theorem dropStore_good {qq : List Instr} {s : State} {n : Fin 24} {x : StoreEnt} (h1 : Good qq s) :
    Good qq (dropStore s n x) := by
  delta dropStore
  repeat' first
    | with_reducible assumption
    | with_reducible intro _
    | (extract_lets -underBinder +onlyGivenNames x; first | (refine good_cut (q := qq) (s := x) ?_ ?_; (on_goal 1 => subst x); (on_goal 2 => (intro _; clear_value x))) | (refine isStateFun (x := x) ?_; subst x) | (refine isStateFun2 (x := x) ?_; subst x) | clear_value x | subst x)
    | with_reducible refine updCore_good ?_

theorem commitWhere_good {qq : List Instr} {s : State} {n : Fin 24} {p : StoreEnt → Bool} {env : MemEnv} (h1 : Good qq s) :
    GoodE qq (commitWhere s n p env) := by
  delta commitWhere
  repeat' first
    | with_reducible assumption
    | with_reducible intro _
    | (extract_lets -underBinder +onlyGivenNames x; first | (refine good_cut (q := qq) (s := x) ?_ ?_; (on_goal 1 => subst x); (on_goal 2 => (intro _; clear_value x))) | (refine good_cutO (q := qq) (x := x) ?_ ?_; (on_goal 1 => subst x); (on_goal 2 => (intro _; clear_value x))) | (refine goodE_cut (q := qq) (x := x) ?_ ?_; (on_goal 1 => subst x); (on_goal 2 => (intro _; clear_value x))) | (refine isP (x := x) ?_; subst x) | (refine isQ (x := x) ?_; subst x) | (refine isFab (x := x) ?_; subst x) | (refine isSram (x := x) ?_; subst x) | (refine isDram (x := x) ?_; subst x) | (refine isStateFun (x := x) ?_; subst x) | (refine isStateFun2 (x := x) ?_; subst x) | (refine goodE_fun (x := x) ?_; subst x) | clear_value x | subst x)
    | with_reducible refine goodR_next ?_
    | with_reducible refine goodO_some ?_
    | with_reducible exact goodO_none
    | with_reducible refine goodE_ok ?_
    | with_reducible refine goodE_error ?_
    | with_reducible refine commitNormal_good ?_
    | with_reducible refine dropStore_good ?_
    | with_reducible refine good_foldl ?_ ?_
    | with_reducible refine good_foldlP ?_ ?_
    | with_reducible refine goodO_foldl ?_ ?_
    | with_reducible refine goodO_bind ?_ ?_
    | with_reducible refine goodO_map ?_ ?_
    | with_reducible refine goodOP_mapP ?_ ?_
    | with_reducible refine goodOP_map ?_ ?_
    | with_reducible refine goodO_mapP ?_ ?_
    | with_reducible refine goodEbind ?_ ?_
    | with_reducible refine goodEmap ?_ ?_
    | with_reducible refine goodEPmap ?_ ?_
    | with_reducible refine goodEfoldl ?_ ?_

theorem execL2Scrub_good {qq : List Instr} {w : Fin 3} {la : Nat} {found : Fin 4} {s : State} (h1 : Good qq s) :
    GoodR qq (execL2Scrub w la found s) := by
  delta execL2Scrub
  repeat' first
    | with_reducible assumption
    | with_reducible intro _
    | (extract_lets -underBinder +onlyGivenNames x; first | (refine good_cut (q := qq) (s := x) ?_ ?_; (on_goal 1 => subst x); (on_goal 2 => (intro _; clear_value x))) | (refine isP (x := x) ?_; subst x) | clear_value x | subst x)
    | with_reducible refine goodR_next ?_
    | with_reducible refine l2Finding_good ?_
    | with_reducible refine goodP_of ?_ (by with_reducible assumption)
    | dsimp -zeta only
    | with_reducible split

end Sys2Proof.Machine
end

