-- ==== Sys2Proof/Laws/KeepBus.lean ====
section
/-!
SUPPORT. Laws/KeepBus.lean: every operation of Machine/Bus.lean keeps the queue and the invariant.
-/

namespace Sys2Proof.Machine

/-- Of `BusRes`. -/
def GoodBR (q : List Instr) : BusRes → Prop
  | .ok s _ => Good q s
  | .err s _ => Good q s
  | .wait s => Good q s

theorem goodBR_ok {q : List Instr} {s : State} {a} (h : Good q s) : GoodBR q (.ok s a : BusRes) := h
theorem goodBR_ok_of {q : List Instr} {s : State} {a} {x : BusRes} (e : x = .ok s a) (h : GoodBR q x) : Good q s := by subst e; exact h
theorem goodBR_err {q : List Instr} {s : State} {a} (h : Good q s) : GoodBR q (.err s a : BusRes) := h
theorem goodBR_err_of {q : List Instr} {s : State} {a} {x : BusRes} (e : x = .err s a) (h : GoodBR q x) : Good q s := by subst e; exact h
theorem goodBR_ok_inv {q : List Instr} {s : State} {a} (h : GoodBR q (.ok s a : BusRes)) : Good q s := h
theorem goodBR_err_inv {q : List Instr} {s : State} {a} (h : GoodBR q (.err s a : BusRes)) : Good q s := h
theorem goodBR_cut {q : List Instr} {P : Prop} {x : BusRes} (h0 : GoodBR q x) (h : GoodBR q x → P) : P := h h0
theorem goodBR_fun {α β : Type} {P : Prop} {x : α → BusRes} (h : P) : P := let _ := x; h
theorem goodBR_wait {q : List Instr} {s : State} (h : Good q s) : GoodBR q (.wait s : BusRes) := h
theorem goodBR_wait_of {q : List Instr} {s : State} {x : BusRes} (e : x = .wait s) (h : GoodBR q x) : Good q s := by subst e; exact h
theorem goodBR_wait_inv {q : List Instr} {s : State} (h : GoodBR q (.wait s : BusRes)) : Good q s := h

theorem elim_good {q : List Instr} {r : BusRes} {w : State → State} {e : State → Nat → State} {o : State → List Byte → State}
    (h1 : GoodBR q r) (h2 : ∀ s, Good q s → Good q (w s)) (h3 : ∀ s a, Good q s → Good q (e s a))
    (h4 : ∀ s l, Good q s → Good q (o s l)) : Good q (r.elim w e o) := by
  cases r with
  | ok s l => exact h4 s l h1
  | err s a => exact h3 s a h1
  | wait s => exact h2 s h1

theorem elim_goodE {q : List Instr} {r : BusRes} {w : State → Except State State} {e : State → Nat → Except State State} {o : State → List Byte → Except State State}
    (h1 : GoodBR q r) (h2 : ∀ s, Good q s → GoodE q (w s)) (h3 : ∀ s a, Good q s → GoodE q (e s a))
    (h4 : ∀ s l, Good q s → GoodE q (o s l)) : GoodE q (r.elim w e o) := by
  cases r with
  | ok s l => exact h4 s l h1
  | err s a => exact h3 s a h1
  | wait s => exact h2 s h1

theorem elim_goodO {q : List Instr} {r : BusRes} {w : State → Option State} {e : State → Nat → Option State} {o : State → List Byte → Option State}
    (h1 : GoodBR q r) (h2 : ∀ s, Good q s → GoodO q (w s)) (h3 : ∀ s a, Good q s → GoodO q (e s a))
    (h4 : ∀ s l, Good q s → GoodO q (o s l)) : GoodO q (r.elim w e o) := by
  cases r with
  | ok s l => exact h4 s l h1
  | err s a => exact h3 s a h1
  | wait s => exact h2 s h1

theorem elim_goodP {q : List Instr} {α : Type} {r : BusRes} {w : State → State × α} {e : State → Nat → State × α} {o : State → List Byte → State × α}
    (h1 : GoodBR q r) (h2 : ∀ s, Good q s → Good q (w s).1) (h3 : ∀ s a, Good q s → Good q (e s a).1)
    (h4 : ∀ s l, Good q s → Good q (o s l).1) : Good q (r.elim w e o).1 := by
  cases r with
  | ok s l => exact h4 s l h1
  | err s a => exact h3 s a h1
  | wait s => exact h2 s h1

theorem ofPoc_good {qq : List Instr} {isW : Bool} {n : Nat} {a : Nat} {z0 : PocAns} (h1 : GoodPA qq (z0)) :
    GoodBR qq (ofPoc isW n a z0) := by
  delta ofPoc
  repeat' first
    | with_reducible assumption
    | with_reducible intro _
    | (extract_lets -underBinder +onlyGivenNames x; first | (refine good_cut (q := qq) (s := x) ?_ ?_; (on_goal 1 => subst x); (on_goal 2 => (intro _; clear_value x))) | (refine good_cutO (q := qq) (x := x) ?_ ?_; (on_goal 1 => subst x); (on_goal 2 => (intro _; clear_value x))) | (refine goodPA_cut (q := qq) (x := x) ?_ ?_; (on_goal 1 => subst x); (on_goal 2 => (intro _; clear_value x))) | (refine goodBR_cut (q := qq) (x := x) ?_ ?_; (on_goal 1 => subst x); (on_goal 2 => (intro _; clear_value x))) | (refine isP (x := x) ?_; subst x) | (refine isQ (x := x) ?_; subst x) | (refine isFab (x := x) ?_; subst x) | (refine isSram (x := x) ?_; subst x) | (refine isDram (x := x) ?_; subst x) | (refine isStateFun (x := x) ?_; subst x) | (refine isStateFun2 (x := x) ?_; subst x) | (refine goodPA_fun (x := x) ?_; subst x) | (refine goodBR_fun (x := x) ?_; subst x) | clear_value x | subst x)
    | with_reducible refine goodR_next ?_
    | with_reducible refine goodO_some ?_
    | with_reducible exact goodO_none
    | with_reducible refine goodPA_ok ?_
    | with_reducible refine goodPA_err ?_
    | with_reducible refine goodPA_wait ?_
    | with_reducible refine goodBR_ok ?_
    | with_reducible refine goodBR_err ?_
    | with_reducible refine goodBR_wait ?_
    | with_reducible refine goodO_of ?_ (by with_reducible assumption)
    | with_reducible refine goodP_of ?_ (by with_reducible assumption)
    | with_reducible refine goodQ_of ?_ (by with_reducible assumption)
    | with_reducible refine goodR_of ?_ (by with_reducible assumption)
    | with_reducible refine goodPA_ok_of (by with_reducible assumption) ?_
    | with_reducible refine goodPA_err_of (by with_reducible assumption) ?_
    | with_reducible refine goodPA_wait_of (by with_reducible assumption) ?_
    | with_reducible refine goodBR_ok_of (by with_reducible assumption) ?_
    | with_reducible refine goodBR_err_of (by with_reducible assumption) ?_
    | with_reducible refine goodBR_wait_of (by with_reducible assumption) ?_
    | with_reducible exact goodPA_ok_inv (by with_reducible assumption)
    | with_reducible exact goodPA_err_inv (by with_reducible assumption)
    | with_reducible exact goodPA_wait_inv (by with_reducible assumption)
    | with_reducible exact good_mk (by with_reducible assumption) rfl rfl rfl rfl rfl rfl
    | dsimp -zeta only
    | with_reducible split

theorem pcieOne_good {qq : List Instr} {s : State} {m : Master} {at_ : Attr} {a : Nat} {n : Nat} {w : Option Nat} (h1 : Good qq s) :
    GoodBR qq (pcieOne s m at_ a n w) := by
  delta pcieOne
  repeat' first
    | with_reducible assumption
    | with_reducible intro _
    | (extract_lets -underBinder +onlyGivenNames x; first | (refine good_cut (q := qq) (s := x) ?_ ?_; (on_goal 1 => subst x); (on_goal 2 => (intro _; clear_value x))) | (refine good_cutO (q := qq) (x := x) ?_ ?_; (on_goal 1 => subst x); (on_goal 2 => (intro _; clear_value x))) | (refine goodBR_cut (q := qq) (x := x) ?_ ?_; (on_goal 1 => subst x); (on_goal 2 => (intro _; clear_value x))) | (refine isP (x := x) ?_; subst x) | (refine isQ (x := x) ?_; subst x) | (refine isFab (x := x) ?_; subst x) | (refine isSram (x := x) ?_; subst x) | (refine isDram (x := x) ?_; subst x) | (refine isStateFun (x := x) ?_; subst x) | (refine isStateFun2 (x := x) ?_; subst x) | (refine goodBR_fun (x := x) ?_; subst x) | clear_value x | subst x)
    | with_reducible refine goodR_next ?_
    | with_reducible refine goodO_some ?_
    | with_reducible exact goodO_none
    | with_reducible refine goodOP_some ?_
    | with_reducible exact goodOP_none
    | with_reducible refine goodOQ_some ?_
    | with_reducible exact goodOQ_none
    | with_reducible refine goodBR_ok ?_
    | with_reducible refine goodBR_err ?_
    | with_reducible refine goodBR_wait ?_
    | with_reducible refine ingressOf_good ?_
    | with_reducible refine addTxn_good ?_
    | with_reducible refine leaveFabric_good ?_
    | with_reducible refine goodO_getD ?_ ?_
    | with_reducible refine goodO_of ?_ (by with_reducible assumption)
    | with_reducible refine goodP_of ?_ (by with_reducible assumption)
    | with_reducible refine goodQ_of ?_ (by with_reducible assumption)
    | with_reducible refine goodR_of ?_ (by with_reducible assumption)
    | with_reducible refine goodBR_ok_of (by with_reducible assumption) ?_
    | with_reducible refine goodBR_err_of (by with_reducible assumption) ?_
    | with_reducible refine goodBR_wait_of (by with_reducible assumption) ?_
    | with_reducible exact good_mk (by with_reducible assumption) rfl rfl rfl rfl rfl rfl
    | dsimp -zeta only
    | with_reducible split

theorem busOne_good {qq : List Instr} {s : State} {m : Master} {at_ : Attr} {a : Nat} {n : Nat} {w : Option Nat} {env : MemEnv} (h1 : Good qq s) :
    GoodBR qq (busOne s m at_ a n w env) := by
  delta busOne
  repeat' first
    | with_reducible assumption
    | with_reducible intro _
    | (extract_lets -underBinder +onlyGivenNames x; first | (refine good_cut (q := qq) (s := x) ?_ ?_; (on_goal 1 => subst x); (on_goal 2 => (intro _; clear_value x))) | (refine good_cutO (q := qq) (x := x) ?_ ?_; (on_goal 1 => subst x); (on_goal 2 => (intro _; clear_value x))) | (refine goodPA_cut (q := qq) (x := x) ?_ ?_; (on_goal 1 => subst x); (on_goal 2 => (intro _; clear_value x))) | (refine goodBR_cut (q := qq) (x := x) ?_ ?_; (on_goal 1 => subst x); (on_goal 2 => (intro _; clear_value x))) | (refine isP (x := x) ?_; subst x) | (refine isQ (x := x) ?_; subst x) | (refine isFab (x := x) ?_; subst x) | (refine isSram (x := x) ?_; subst x) | (refine isDram (x := x) ?_; subst x) | (refine isStateFun (x := x) ?_; subst x) | (refine isStateFun2 (x := x) ?_; subst x) | (refine goodPA_fun (x := x) ?_; subst x) | (refine goodBR_fun (x := x) ?_; subst x) | clear_value x | subst x)
    | with_reducible refine goodR_next ?_
    | with_reducible refine goodO_some ?_
    | with_reducible exact goodO_none
    | with_reducible refine goodOP_some ?_
    | with_reducible exact goodOP_none
    | with_reducible refine goodOQ_some ?_
    | with_reducible exact goodOQ_none
    | with_reducible refine goodPA_ok ?_
    | with_reducible refine goodPA_err ?_
    | with_reducible refine goodPA_wait ?_
    | with_reducible refine goodBR_ok ?_
    | with_reducible refine goodBR_err ?_
    | with_reducible refine goodBR_wait ?_
    | with_reducible refine ofPoc_good ?_
    | with_reducible refine pocWrite_good ?_
    | with_reducible refine pocRead_good ?_
    | with_reducible refine pcieOne_good ?_
    | with_reducible refine ferrLog_good ?_
    | with_reducible refine windowServe_good ?_
    | with_reducible refine confTicks_good ?_
    | with_reducible refine goodO_getD ?_ ?_
    | with_reducible refine goodO_of ?_ (by with_reducible assumption)
    | with_reducible refine goodP_of ?_ (by with_reducible assumption)
    | with_reducible refine goodQ_of ?_ (by with_reducible assumption)
    | with_reducible refine goodR_of ?_ (by with_reducible assumption)
    | with_reducible refine goodOP_of ?_ (by with_reducible assumption)
    | with_reducible refine goodOQ_of ?_ (by with_reducible assumption)
    | with_reducible refine goodPA_ok_of (by with_reducible assumption) ?_
    | with_reducible refine goodPA_err_of (by with_reducible assumption) ?_
    | with_reducible refine goodPA_wait_of (by with_reducible assumption) ?_
    | with_reducible refine goodBR_ok_of (by with_reducible assumption) ?_
    | with_reducible refine goodBR_err_of (by with_reducible assumption) ?_
    | with_reducible refine goodBR_wait_of (by with_reducible assumption) ?_
    | with_reducible exact good_mk (by with_reducible assumption) rfl rfl rfl rfl rfl rfl
    | with_reducible exact good_mkB rfl (by with_reducible assumption) rfl rfl rfl rfl rfl
    | with_reducible exact good_mkD rfl rfl (by with_reducible assumption) (by with_reducible assumption) rfl rfl rfl rfl
    | dsimp -zeta only
    | with_reducible split

theorem waitOf_good {qq : List Instr} {s : State} {one : State → BusRes} (h1 : Good qq s) (h2 : ∀ s, Good qq s → GoodBR qq (one s)) :
    GoodBR qq (waitOf s one) := by
  have h := h2 s h1
  unfold waitOf
  split
  · rename_i e; rw [e] at h; exact h
  · exact h1

theorem busRead_good {qq : List Instr} {s : State} {m : Master} {at_ : Attr} {a n : Nat} {env : MemEnv} (h1 : Good qq s) :
    GoodBR qq (busRead s m at_ a n env) := by
  unfold busRead
  refine foldl_keep (P := GoodBR qq) (goodBR_ok h1) (fun r b hr => ?_)
  split
  · have h := busOne_good (m := m) (at_ := at_) (a := b.1) (n := b.2) (w := none) (env := env) (goodBR_ok_inv hr)
    split
    · rename_i e; rw [e] at h; exact h
    · exact waitOf_good h1 fun s h => busOne_good h
    · exact h
  · exact hr

theorem busWrite_good {qq : List Instr} {s : State} {m : Master} {at_ : Attr} {a : Nat} {l : List Byte} {env : MemEnv} (h1 : Good qq s) :
    GoodBR qq (busWrite s m at_ a l env) := by
  unfold busWrite
  refine foldl_keep (P := GoodBR qq) (goodBR_ok h1) (fun r b hr => ?_)
  split
  · rename_i u x
    have h := busOne_good (m := m) (at_ := at_) (a := b.1) (n := b.2) (w := some (ofBytes ((l.drop (b.1 - a)).take b.2))) (env := env) (goodBR_ok_inv hr)
    split
    · exact waitOf_good h1 fun s h => busOne_good h
    · exact h
  · exact hr

end Sys2Proof.Machine
end

