-- ==== Sys2Proof/Laws/KeepEth.lean ====
section
/-!
SUPPORT. Laws/KeepEth.lean: every operation of Machine/Eth.lean keeps the queue and the invariant.
-/

namespace Sys2Proof.Machine

theorem updMac_good {qq : List Instr} {s : State} {m : Fin 8} {f : EthMac → EthMac} (h1 : Good qq s) :
    Good qq (updMac s m f) := by
  delta updMac
  repeat' first
    | with_reducible assumption
    | with_reducible intro _
    | (extract_lets -underBinder +onlyGivenNames x; first | (refine good_cut (q := qq) (s := x) ?_ ?_; (on_goal 1 => subst x); (on_goal 2 => (intro _; clear_value x))) | clear_value x | subst x)
    | with_reducible exact good_mk (by with_reducible assumption) rfl rfl rfl rfl rfl rfl

theorem ethGet_good {qq : List Instr} {s : State} {m : Fin 8} {a n : Nat} {env : MemEnv} (h1 : Good qq s) :
    GoodBR qq (ethGet s m a n env) := by
  delta ethGet
  repeat' first
    | with_reducible assumption
    | with_reducible intro _
    | with_reducible refine goodBR_ok ?_
    | with_reducible refine goodBR_err ?_
    | with_reducible exact goodBR_triv
    | with_reducible refine busRead_good ?_

theorem ethPut_good {qq : List Instr} {s : State} {m : Fin 8} {a : Nat} {l : List Byte} {env : MemEnv} (h1 : Good qq s) :
    GoodBR qq (ethPut s m a l env) := by
  delta ethPut
  repeat' first
    | with_reducible assumption
    | with_reducible intro _
    | with_reducible refine goodBR_ok ?_
    | with_reducible refine goodBR_err ?_
    | with_reducible exact goodBR_triv
    | with_reducible refine busWrite_good ?_

theorem ringStop_good {qq : List Instr} {s : State} {m : Fin 8} {rx : Bool} {q a : Nat} (h1 : Good qq s) :
    Good qq (ringStop s m rx q a) := by
  delta ringStop
  repeat' first
    | with_reducible assumption
    | with_reducible intro _
    | (extract_lets -underBinder +onlyGivenNames x; first | (refine good_cut (q := qq) (s := x) ?_ ?_; (on_goal 1 => subst x); (on_goal 2 => (intro _; clear_value x))) | (refine isStateFun (x := x) ?_; subst x) | (refine isStateFun2 (x := x) ?_; subst x) | clear_value x | subst x)
    | with_reducible refine updMac_good ?_
    | with_reducible refine setIrq_good ?_
    | with_reducible refine recContained_good ?_

theorem ringNext_good {qq : List Instr} {s : State} {m : Fin 8} {q i : Nat} (h1 : Good qq s) :
    Good qq (ringNext s m q i) := by
  delta ringNext
  repeat' first
    | with_reducible assumption
    | with_reducible intro _
    | with_reducible refine wrF_good ?_

theorem recoverFrame_good {qq : List Instr} {s : State} {k : Fin 8} {i : Nat} {e : CbEntry} {f : List Byte} (h1 : Good qq s) :
    Good qq (recoverFrame s k i e f).1 := by
  delta recoverFrame
  repeat' first
    | with_reducible assumption
    | with_reducible intro _
    | (extract_lets -underBinder +onlyGivenNames x; first | (refine good_cut (q := qq) (s := x) ?_ ?_; (on_goal 1 => subst x); (on_goal 2 => (intro _; clear_value x))) | (refine isStateFun (x := x) ?_; subst x) | (refine isStateFun2 (x := x) ?_; subst x) | clear_value x | subst x)
    | with_reducible exact good_mk (by with_reducible assumption) rfl rfl rfl rfl rfl rfl
    | dsimp -zeta only
    | with_reducible split

theorem execStreamResetTimeout_good {qq : List Instr} {i : Fin 64} {s : State} (h1 : Good qq s) :
    GoodR qq (execStreamResetTimeout i s) := by
  delta execStreamResetTimeout
  repeat' first
    | with_reducible assumption
    | with_reducible intro _
    | (extract_lets -underBinder +onlyGivenNames x; first | (refine good_cut (q := qq) (s := x) ?_ ?_; (on_goal 1 => subst x); (on_goal 2 => (intro _; clear_value x))) | (refine good_cutO (q := qq) (x := x) ?_ ?_; (on_goal 1 => subst x); (on_goal 2 => (intro _; clear_value x))) | (refine isP (x := x) ?_; subst x) | (refine isQ (x := x) ?_; subst x) | (refine isFab (x := x) ?_; subst x) | (refine isSram (x := x) ?_; subst x) | (refine isDram (x := x) ?_; subst x) | (refine isStateFun (x := x) ?_; subst x) | (refine isStateFun2 (x := x) ?_; subst x) | clear_value x | subst x)
    | with_reducible refine goodR_next ?_
    | with_reducible refine goodO_some ?_
    | with_reducible exact goodO_none
    | with_reducible refine advanceTo_good ?_
    | with_reducible refine goodO_of ?_ (by with_reducible assumption)
    | with_reducible refine goodP_of ?_ (by with_reducible assumption)
    | with_reducible refine goodQ_of ?_ (by with_reducible assumption)
    | with_reducible refine goodR_of ?_ (by with_reducible assumption)
    | with_reducible exact good_mk (by with_reducible assumption) rfl rfl rfl rfl rfl rfl
    | dsimp -zeta only
    | with_reducible split

theorem gclBad_good {qq : List Instr} {s : State} {m : Fin 8} (h1 : Good qq s) :
    Good qq (gclBad s m) := by
  delta gclBad
  repeat' first
    | with_reducible assumption
    | with_reducible intro _
    | with_reducible refine recInternal_good ?_

theorem cbLoad_good {qq : List Instr} {s : State} {m : Fin 8} {env : MemEnv} (h1 : Good qq s) :
    GoodE qq (cbLoad s m env) := by
  delta cbLoad
  repeat' first
    | with_reducible assumption
    | with_reducible intro _
    | (extract_lets -underBinder +onlyGivenNames x; first | (refine good_cut (q := qq) (s := x) ?_ ?_; (on_goal 1 => subst x); (on_goal 2 => (intro _; clear_value x))) | (refine good_cutO (q := qq) (x := x) ?_ ?_; (on_goal 1 => subst x); (on_goal 2 => (intro _; clear_value x))) | (refine goodE_cut (q := qq) (x := x) ?_ ?_; (on_goal 1 => subst x); (on_goal 2 => (intro _; clear_value x))) | (refine goodBR_cut (q := qq) (x := x) ?_ ?_; (on_goal 1 => subst x); (on_goal 2 => (intro _; clear_value x))) | (refine isP (x := x) ?_; subst x) | (refine isQ (x := x) ?_; subst x) | (refine isFab (x := x) ?_; subst x) | (refine isSram (x := x) ?_; subst x) | (refine isDram (x := x) ?_; subst x) | (refine isStateFun (x := x) ?_; subst x) | (refine isStateFun2 (x := x) ?_; subst x) | (refine goodE_fun (x := x) ?_; subst x) | (refine goodBR_fun (x := x) ?_; subst x) | clear_value x | subst x)
    | with_reducible refine goodR_next ?_
    | with_reducible refine goodO_some ?_
    | with_reducible exact goodO_none
    | with_reducible refine goodE_ok ?_
    | with_reducible refine goodE_error ?_
    | with_reducible refine goodBR_ok ?_
    | with_reducible refine goodBR_err ?_
    | with_reducible refine goodBR_wait ?_
    | with_reducible refine updMac_good ?_
    | with_reducible refine ethGet_good ?_
    | with_reducible refine gclBad_good ?_
    | with_reducible refine good_foldl ?_ ?_
    | with_reducible refine good_foldlP ?_ ?_
    | with_reducible refine goodO_foldl ?_ ?_
    | with_reducible refine goodEfoldl ?_ ?_
    | with_reducible refine goodO_of ?_ (by with_reducible assumption)
    | with_reducible refine goodP_of ?_ (by with_reducible assumption)
    | with_reducible refine goodQ_of ?_ (by with_reducible assumption)
    | with_reducible refine goodR_of ?_ (by with_reducible assumption)
    | with_reducible refine goodE_ok_of (by with_reducible assumption) ?_
    | with_reducible refine goodE_error_of (by with_reducible assumption) ?_
    | with_reducible refine goodBR_ok_of (by with_reducible assumption) ?_
    | with_reducible refine goodBR_err_of (by with_reducible assumption) ?_
    | with_reducible refine goodBR_wait_of (by with_reducible assumption) ?_
    | with_reducible exact good_mk (by with_reducible assumption) rfl rfl rfl rfl rfl rfl
    | dsimp -zeta only
    | with_reducible split

theorem gclRead_good {qq : List Instr} {s : State} {m : Fin 8} {h : List Byte} {env : MemEnv} (h1 : Good qq s) :
    GoodE qq (gclRead s m h env) := by
  delta gclRead
  repeat' first
    | with_reducible assumption
    | with_reducible intro _
    | (extract_lets -underBinder +onlyGivenNames x; first | (refine good_cut (q := qq) (s := x) ?_ ?_; (on_goal 1 => subst x); (on_goal 2 => (intro _; clear_value x))) | (refine good_cutO (q := qq) (x := x) ?_ ?_; (on_goal 1 => subst x); (on_goal 2 => (intro _; clear_value x))) | (refine goodE_cut (q := qq) (x := x) ?_ ?_; (on_goal 1 => subst x); (on_goal 2 => (intro _; clear_value x))) | (refine goodBR_cut (q := qq) (x := x) ?_ ?_; (on_goal 1 => subst x); (on_goal 2 => (intro _; clear_value x))) | (refine isP (x := x) ?_; subst x) | (refine isQ (x := x) ?_; subst x) | (refine isFab (x := x) ?_; subst x) | (refine isSram (x := x) ?_; subst x) | (refine isDram (x := x) ?_; subst x) | (refine isStateFun (x := x) ?_; subst x) | (refine isStateFun2 (x := x) ?_; subst x) | (refine goodE_fun (x := x) ?_; subst x) | (refine goodBR_fun (x := x) ?_; subst x) | (refine goodE_fun2 (x := x) ?_; subst x) | clear_value x | subst x)
    | with_reducible refine goodR_next ?_
    | with_reducible refine goodO_some ?_
    | with_reducible exact goodO_none
    | with_reducible refine goodE_ok ?_
    | with_reducible refine goodE_error ?_
    | with_reducible refine goodBR_ok ?_
    | with_reducible refine goodBR_err ?_
    | with_reducible refine goodBR_wait ?_
    | with_reducible refine ethGet_good ?_
    | with_reducible refine elim_good ?_ ?_ ?_ ?_
    | with_reducible refine gclBad_good ?_
    | with_reducible refine wrB_good ?_
    | with_reducible refine updMac_good ?_
    | with_reducible refine elim_good ?_ ?_ ?_ ?_
    | with_reducible refine elim_goodE ?_ ?_ ?_ ?_
    | with_reducible refine elim_goodP ?_ ?_ ?_ ?_
    | with_reducible refine goodO_of ?_ (by with_reducible assumption)
    | with_reducible refine goodP_of ?_ (by with_reducible assumption)
    | with_reducible refine goodQ_of ?_ (by with_reducible assumption)
    | with_reducible refine goodR_of ?_ (by with_reducible assumption)
    | with_reducible refine goodE_ok_of (by with_reducible assumption) ?_
    | with_reducible refine goodE_error_of (by with_reducible assumption) ?_
    | with_reducible refine goodBR_ok_of (by with_reducible assumption) ?_
    | with_reducible refine goodBR_err_of (by with_reducible assumption) ?_
    | with_reducible refine goodBR_wait_of (by with_reducible assumption) ?_
    | with_reducible exact good_mk (by with_reducible assumption) rfl rfl rfl rfl rfl rfl
    | dsimp -zeta only
    | with_reducible split

theorem gclGo_good {qq : List Instr} {s : State} {m : Fin 8} {env : MemEnv} (h1 : Good qq s) :
    GoodE qq (gclGo s m env) := by
  delta gclGo
  repeat' first
    | with_reducible assumption
    | with_reducible intro _
    | (extract_lets -underBinder +onlyGivenNames x; first | (refine good_cut (q := qq) (s := x) ?_ ?_; (on_goal 1 => subst x); (on_goal 2 => (intro _; clear_value x))) | (refine good_cutO (q := qq) (x := x) ?_ ?_; (on_goal 1 => subst x); (on_goal 2 => (intro _; clear_value x))) | (refine goodE_cut (q := qq) (x := x) ?_ ?_; (on_goal 1 => subst x); (on_goal 2 => (intro _; clear_value x))) | (refine goodBR_cut (q := qq) (x := x) ?_ ?_; (on_goal 1 => subst x); (on_goal 2 => (intro _; clear_value x))) | (refine isP (x := x) ?_; subst x) | (refine isQ (x := x) ?_; subst x) | (refine isFab (x := x) ?_; subst x) | (refine isSram (x := x) ?_; subst x) | (refine isDram (x := x) ?_; subst x) | (refine isStateFun (x := x) ?_; subst x) | (refine isStateFun2 (x := x) ?_; subst x) | (refine goodE_fun (x := x) ?_; subst x) | (refine goodBR_fun (x := x) ?_; subst x) | (refine goodE_fun2 (x := x) ?_; subst x) | clear_value x | subst x)
    | with_reducible refine goodR_next ?_
    | with_reducible refine goodO_some ?_
    | with_reducible exact goodO_none
    | with_reducible refine goodE_ok ?_
    | with_reducible refine goodE_error ?_
    | with_reducible refine goodBR_ok ?_
    | with_reducible refine goodBR_err ?_
    | with_reducible refine goodBR_wait ?_
    | with_reducible refine ethGet_good ?_
    | with_reducible refine elim_good ?_ ?_ ?_ ?_
    | with_reducible refine gclBad_good ?_
    | with_reducible refine gclRead_good ?_
    | with_reducible refine elim_good ?_ ?_ ?_ ?_
    | with_reducible refine elim_goodE ?_ ?_ ?_ ?_

theorem onLane_good {qq : List Instr} {s : State} {m : Fin 8} {pre : Bool} {f : List Byte} (h1 : Good qq s) :
    Good qq (onLane s m pre f) := by
  delta onLane
  repeat' first
    | with_reducible assumption
    | with_reducible intro _
    | (extract_lets -underBinder +onlyGivenNames x; first | (refine good_cut (q := qq) (s := x) ?_ ?_; (on_goal 1 => subst x); (on_goal 2 => (intro _; clear_value x))) | (refine good_cutO (q := qq) (x := x) ?_ ?_; (on_goal 1 => subst x); (on_goal 2 => (intro _; clear_value x))) | (refine isP (x := x) ?_; subst x) | (refine isQ (x := x) ?_; subst x) | (refine isFab (x := x) ?_; subst x) | (refine isSram (x := x) ?_; subst x) | (refine isDram (x := x) ?_; subst x) | (refine isStateFun (x := x) ?_; subst x) | (refine isStateFun2 (x := x) ?_; subst x) | clear_value x | subst x)
    | with_reducible refine goodR_next ?_
    | with_reducible refine goodO_some ?_
    | with_reducible exact goodO_none
    | with_reducible refine updMac_good ?_

theorem holdCut_good {qq : List Instr} {s : State} {m : Fin 8} (h1 : Good qq s) :
    Good qq (holdCut s m) := by
  delta holdCut
  repeat' first
    | with_reducible assumption
    | with_reducible intro _
    | (extract_lets -underBinder +onlyGivenNames x; first | (refine good_cut (q := qq) (s := x) ?_ ?_; (on_goal 1 => subst x); (on_goal 2 => (intro _; clear_value x))) | (refine good_cutO (q := qq) (x := x) ?_ ?_; (on_goal 1 => subst x); (on_goal 2 => (intro _; clear_value x))) | (refine isP (x := x) ?_; subst x) | (refine isQ (x := x) ?_; subst x) | (refine isFab (x := x) ?_; subst x) | (refine isSram (x := x) ?_; subst x) | (refine isDram (x := x) ?_; subst x) | (refine isStateFun (x := x) ?_; subst x) | (refine isStateFun2 (x := x) ?_; subst x) | clear_value x | subst x)
    | with_reducible refine goodR_next ?_
    | with_reducible refine goodO_some ?_
    | with_reducible exact goodO_none
    | with_reducible refine updMac_good ?_
    | with_reducible refine goodO_bind ?_ ?_
    | with_reducible refine goodO_map ?_ ?_
    | with_reducible refine goodOP_mapP ?_ ?_
    | with_reducible refine goodOP_map ?_ ?_
    | with_reducible refine goodO_mapP ?_ ?_
    | with_reducible refine goodEbind ?_ ?_
    | with_reducible refine goodEmap ?_ ?_
    | with_reducible refine goodEPmap ?_ ?_
    | with_reducible refine goodO_of ?_ (by with_reducible assumption)
    | with_reducible refine goodP_of ?_ (by with_reducible assumption)
    | with_reducible refine goodQ_of ?_ (by with_reducible assumption)
    | with_reducible refine goodR_of ?_ (by with_reducible assumption)
    | with_reducible refine goodOP_of ?_ (by with_reducible assumption)
    | with_reducible refine goodOQ_of ?_ (by with_reducible assumption)
    | with_reducible exact good_mk (by with_reducible assumption) rfl rfl rfl rfl rfl rfl
    | dsimp -zeta only
    | with_reducible split

theorem execGclTakeover_good {qq : List Instr} {m : Fin 8} {s : State} (h1 : Good qq s) :
    GoodR qq (execGclTakeover m s) := by
  delta execGclTakeover
  repeat' first
    | with_reducible assumption
    | with_reducible intro _
    | (extract_lets -underBinder +onlyGivenNames x; first | (refine good_cut (q := qq) (s := x) ?_ ?_; (on_goal 1 => subst x); (on_goal 2 => (intro _; clear_value x))) | (refine good_cutO (q := qq) (x := x) ?_ ?_; (on_goal 1 => subst x); (on_goal 2 => (intro _; clear_value x))) | (refine isP (x := x) ?_; subst x) | (refine isQ (x := x) ?_; subst x) | (refine isFab (x := x) ?_; subst x) | (refine isSram (x := x) ?_; subst x) | (refine isDram (x := x) ?_; subst x) | (refine isStateFun (x := x) ?_; subst x) | (refine isStateFun2 (x := x) ?_; subst x) | clear_value x | subst x)
    | with_reducible refine goodR_next ?_
    | with_reducible refine goodO_some ?_
    | with_reducible exact goodO_none
    | with_reducible refine advanceSynt_good ?_
    | with_reducible refine updMac_good ?_
    | with_reducible refine holdCut_good ?_
    | with_reducible refine setIrq_good ?_
    | with_reducible refine wrB_good ?_
    | with_reducible refine goodO_of ?_ (by with_reducible assumption)
    | with_reducible refine goodP_of ?_ (by with_reducible assumption)
    | with_reducible refine goodQ_of ?_ (by with_reducible assumption)
    | with_reducible refine goodR_of ?_ (by with_reducible assumption)
    | with_reducible exact good_mk (by with_reducible assumption) rfl rfl rfl rfl rfl rfl
    | dsimp -zeta only
    | with_reducible split

theorem execGateEntry_good {qq : List Instr} {m : Fin 8} {s : State} (h1 : Good qq s) :
    GoodR qq (execGateEntry m s) := by
  delta execGateEntry
  repeat' first
    | with_reducible assumption
    | with_reducible intro _
    | (extract_lets -underBinder +onlyGivenNames x; first | (refine good_cut (q := qq) (s := x) ?_ ?_; (on_goal 1 => subst x); (on_goal 2 => (intro _; clear_value x))) | (refine good_cutO (q := qq) (x := x) ?_ ?_; (on_goal 1 => subst x); (on_goal 2 => (intro _; clear_value x))) | (refine isP (x := x) ?_; subst x) | (refine isQ (x := x) ?_; subst x) | (refine isFab (x := x) ?_; subst x) | (refine isSram (x := x) ?_; subst x) | (refine isDram (x := x) ?_; subst x) | (refine isStateFun (x := x) ?_; subst x) | (refine isStateFun2 (x := x) ?_; subst x) | clear_value x | subst x)
    | with_reducible refine goodR_next ?_
    | with_reducible refine goodO_some ?_
    | with_reducible exact goodO_none
    | with_reducible refine holdCut_good ?_
    | with_reducible refine updMac_good ?_
    | with_reducible refine advanceSynt_good ?_
    | with_reducible refine goodO_of ?_ (by with_reducible assumption)
    | with_reducible refine goodP_of ?_ (by with_reducible assumption)
    | with_reducible refine goodQ_of ?_ (by with_reducible assumption)
    | with_reducible refine goodR_of ?_ (by with_reducible assumption)
    | with_reducible exact good_mk (by with_reducible assumption) rfl rfl rfl rfl rfl rfl
    | dsimp -zeta only
    | with_reducible split

theorem startFrame_good {qq : List Instr} {s : State} {m : Fin 8} {pre : Bool} {f : List Byte} (h1 : Good qq s) :
    Good qq (startFrame s m pre f) := by
  delta startFrame
  repeat' first
    | with_reducible assumption
    | with_reducible intro _
    | (extract_lets -underBinder +onlyGivenNames x; first | (refine good_cut (q := qq) (s := x) ?_ ?_; (on_goal 1 => subst x); (on_goal 2 => (intro _; clear_value x))) | (refine good_cutO (q := qq) (x := x) ?_ ?_; (on_goal 1 => subst x); (on_goal 2 => (intro _; clear_value x))) | (refine isP (x := x) ?_; subst x) | (refine isQ (x := x) ?_; subst x) | (refine isFab (x := x) ?_; subst x) | (refine isSram (x := x) ?_; subst x) | (refine isDram (x := x) ?_; subst x) | (refine isStateFun (x := x) ?_; subst x) | (refine isStateFun2 (x := x) ?_; subst x) | clear_value x | subst x)
    | with_reducible refine goodR_next ?_
    | with_reducible refine goodO_some ?_
    | with_reducible exact goodO_none
    | with_reducible refine updMac_good ?_
    | with_reducible refine onLane_good ?_
    | with_reducible refine goodO_bind ?_ ?_
    | with_reducible refine goodO_map ?_ ?_
    | with_reducible refine goodOP_mapP ?_ ?_
    | with_reducible refine goodOP_map ?_ ?_
    | with_reducible refine goodO_mapP ?_ ?_
    | with_reducible refine goodO_of ?_ (by with_reducible assumption)
    | with_reducible refine goodP_of ?_ (by with_reducible assumption)
    | with_reducible refine goodQ_of ?_ (by with_reducible assumption)
    | with_reducible refine goodR_of ?_ (by with_reducible assumption)
    | with_reducible exact good_mk (by with_reducible assumption) rfl rfl rfl rfl rfl rfl
    | dsimp -zeta only
    | with_reducible split

theorem resumeRest_good {qq : List Instr} {s : State} {m : Fin 8} (h1 : Good qq s) :
    Good qq (resumeRest s m) := by
  delta resumeRest
  repeat' first
    | with_reducible assumption
    | with_reducible intro _
    | (extract_lets -underBinder +onlyGivenNames x; first | (refine good_cut (q := qq) (s := x) ?_ ?_; (on_goal 1 => subst x); (on_goal 2 => (intro _; clear_value x))) | (refine good_cutO (q := qq) (x := x) ?_ ?_; (on_goal 1 => subst x); (on_goal 2 => (intro _; clear_value x))) | (refine isP (x := x) ?_; subst x) | (refine isQ (x := x) ?_; subst x) | (refine isFab (x := x) ?_; subst x) | (refine isSram (x := x) ?_; subst x) | (refine isDram (x := x) ?_; subst x) | (refine isStateFun (x := x) ?_; subst x) | (refine isStateFun2 (x := x) ?_; subst x) | clear_value x | subst x)
    | with_reducible refine goodR_next ?_
    | with_reducible refine goodO_some ?_
    | with_reducible exact goodO_none
    | with_reducible refine onLane_good ?_
    | with_reducible refine updMac_good ?_
    | with_reducible refine goodO_of ?_ (by with_reducible assumption)
    | with_reducible refine goodP_of ?_ (by with_reducible assumption)
    | with_reducible refine goodQ_of ?_ (by with_reducible assumption)
    | with_reducible refine goodR_of ?_ (by with_reducible assumption)
    | with_reducible exact good_mk (by with_reducible assumption) rfl rfl rfl rfl rfl rfl
    | dsimp -zeta only
    | with_reducible split

theorem txStore_good {qq : List Instr} {s : State} {m : Fin 8} {q : Nat} {l : List Byte} {env : MemEnv} (h1 : Good qq s) :
    GoodE qq (txStore s m q l env) := by
  delta txStore
  repeat' first
    | with_reducible assumption
    | with_reducible intro _
    | (extract_lets -underBinder +onlyGivenNames x; first | (refine good_cut (q := qq) (s := x) ?_ ?_; (on_goal 1 => subst x); (on_goal 2 => (intro _; clear_value x))) | (refine good_cutO (q := qq) (x := x) ?_ ?_; (on_goal 1 => subst x); (on_goal 2 => (intro _; clear_value x))) | (refine goodE_cut (q := qq) (x := x) ?_ ?_; (on_goal 1 => subst x); (on_goal 2 => (intro _; clear_value x))) | (refine goodBR_cut (q := qq) (x := x) ?_ ?_; (on_goal 1 => subst x); (on_goal 2 => (intro _; clear_value x))) | (refine isP (x := x) ?_; subst x) | (refine isQ (x := x) ?_; subst x) | (refine isFab (x := x) ?_; subst x) | (refine isSram (x := x) ?_; subst x) | (refine isDram (x := x) ?_; subst x) | (refine isStateFun (x := x) ?_; subst x) | (refine isStateFun2 (x := x) ?_; subst x) | (refine goodE_fun (x := x) ?_; subst x) | (refine goodBR_fun (x := x) ?_; subst x) | (refine goodE_fun2 (x := x) ?_; subst x) | clear_value x | subst x)
    | with_reducible refine goodR_next ?_
    | with_reducible refine goodO_some ?_
    | with_reducible exact goodO_none
    | with_reducible refine goodE_ok ?_
    | with_reducible refine goodE_error ?_
    | with_reducible refine goodBR_ok ?_
    | with_reducible refine goodBR_err ?_
    | with_reducible refine goodBR_wait ?_
    | with_reducible refine ethPut_good ?_
    | with_reducible refine elim_good ?_ ?_ ?_ ?_
    | with_reducible refine ringStop_good ?_
    | with_reducible refine setIrq_good ?_
    | with_reducible refine ringNext_good ?_
    | with_reducible refine elim_good ?_ ?_ ?_ ?_
    | with_reducible refine elim_goodE ?_ ?_ ?_ ?_

theorem txBack_good {qq : List Instr} {s : State} {m : Fin 8} {q : Nat} {d : List Byte} {st : Nat} {stamp : Option Nat} {env : MemEnv} (h1 : Good qq s) :
    GoodE qq (txBack s m q d st stamp env) := by
  delta txBack
  repeat' first
    | with_reducible assumption
    | with_reducible intro _
    | (extract_lets -underBinder +onlyGivenNames x; first | (refine good_cut (q := qq) (s := x) ?_ ?_; (on_goal 1 => subst x); (on_goal 2 => (intro _; clear_value x))) | (refine good_cutO (q := qq) (x := x) ?_ ?_; (on_goal 1 => subst x); (on_goal 2 => (intro _; clear_value x))) | (refine goodE_cut (q := qq) (x := x) ?_ ?_; (on_goal 1 => subst x); (on_goal 2 => (intro _; clear_value x))) | (refine isP (x := x) ?_; subst x) | (refine isQ (x := x) ?_; subst x) | (refine isFab (x := x) ?_; subst x) | (refine isSram (x := x) ?_; subst x) | (refine isDram (x := x) ?_; subst x) | (refine isStateFun (x := x) ?_; subst x) | (refine isStateFun2 (x := x) ?_; subst x) | (refine goodE_fun (x := x) ?_; subst x) | clear_value x | subst x)
    | with_reducible refine goodR_next ?_
    | with_reducible refine goodO_some ?_
    | with_reducible exact goodO_none
    | with_reducible refine goodOP_some ?_
    | with_reducible exact goodOP_none
    | with_reducible refine goodOQ_some ?_
    | with_reducible exact goodOQ_none
    | with_reducible refine goodE_ok ?_
    | with_reducible refine goodE_error ?_
    | with_reducible refine txStore_good ?_
    | with_reducible refine freeVal_good ?_
    | with_reducible refine goodO_getD ?_ ?_
    | with_reducible refine goodO_of ?_ (by with_reducible assumption)
    | with_reducible refine goodP_of ?_ (by with_reducible assumption)
    | with_reducible refine goodQ_of ?_ (by with_reducible assumption)
    | with_reducible refine goodR_of ?_ (by with_reducible assumption)
    | with_reducible refine goodE_ok_of (by with_reducible assumption) ?_
    | with_reducible refine goodE_error_of (by with_reducible assumption) ?_
    | with_reducible exact good_mk (by with_reducible assumption) rfl rfl rfl rfl rfl rfl
    | dsimp -zeta only
    | with_reducible split

theorem replicate_good {qq : List Instr} {s : State} {j : Fin 8} {q : Nat} {g : List Byte} (h1 : Good qq s) :
    Good qq (replicate s j q g) := by
  delta replicate
  repeat' first
    | with_reducible assumption
    | with_reducible intro _
    | (extract_lets -underBinder +onlyGivenNames x; first | (refine good_cut (q := qq) (s := x) ?_ ?_; (on_goal 1 => subst x); (on_goal 2 => (intro _; clear_value x))) | (refine good_cutO (q := qq) (x := x) ?_ ?_; (on_goal 1 => subst x); (on_goal 2 => (intro _; clear_value x))) | (refine isP (x := x) ?_; subst x) | (refine isQ (x := x) ?_; subst x) | (refine isFab (x := x) ?_; subst x) | (refine isSram (x := x) ?_; subst x) | (refine isDram (x := x) ?_; subst x) | (refine isStateFun (x := x) ?_; subst x) | (refine isStateFun2 (x := x) ?_; subst x) | clear_value x | subst x)
    | with_reducible refine goodR_next ?_
    | with_reducible refine goodO_some ?_
    | with_reducible exact goodO_none
    | with_reducible refine startFrame_good ?_
    | with_reducible refine updMac_good ?_
    | with_reducible refine goodO_of ?_ (by with_reducible assumption)
    | with_reducible refine goodP_of ?_ (by with_reducible assumption)
    | with_reducible refine goodQ_of ?_ (by with_reducible assumption)
    | with_reducible refine goodR_of ?_ (by with_reducible assumption)
    | with_reducible exact good_mk (by with_reducible assumption) rfl rfl rfl rfl rfl rfl
    | dsimp -zeta only
    | with_reducible split

theorem sendFrame_good {qq : List Instr} {s : State} {m : Fin 8} {q : Nat} {d : List Byte} {f : List Byte} (h1 : Good qq s) :
    Good qq (sendFrame s m q d f) := by
  delta sendFrame
  repeat' first
    | with_reducible assumption
    | with_reducible intro _
    | (extract_lets -underBinder +onlyGivenNames x; first | (refine good_cut (q := qq) (s := x) ?_ ?_; (on_goal 1 => subst x); (on_goal 2 => (intro _; clear_value x))) | (refine good_cutO (q := qq) (x := x) ?_ ?_; (on_goal 1 => subst x); (on_goal 2 => (intro _; clear_value x))) | (refine isP (x := x) ?_; subst x) | (refine isQ (x := x) ?_; subst x) | (refine isFab (x := x) ?_; subst x) | (refine isSram (x := x) ?_; subst x) | (refine isDram (x := x) ?_; subst x) | (refine isStateFun (x := x) ?_; subst x) | (refine isStateFun2 (x := x) ?_; subst x) | clear_value x | subst x)
    | with_reducible refine goodR_next ?_
    | with_reducible refine goodO_some ?_
    | with_reducible exact goodO_none
    | with_reducible refine startFrame_good ?_
    | with_reducible refine replicate_good ?_
    | with_reducible refine good_foldl ?_ ?_
    | with_reducible refine good_foldlP ?_ ?_
    | with_reducible refine goodO_foldl ?_ ?_
    | with_reducible refine goodEfoldl ?_ ?_
    | with_reducible refine goodO_of ?_ (by with_reducible assumption)
    | with_reducible refine goodP_of ?_ (by with_reducible assumption)
    | with_reducible refine goodQ_of ?_ (by with_reducible assumption)
    | with_reducible refine goodR_of ?_ (by with_reducible assumption)
    | with_reducible exact good_mk (by with_reducible assumption) rfl rfl rfl rfl rfl rfl
    | dsimp -zeta only
    | with_reducible split

theorem txTry_good {qq : List Instr} {m : Fin 8} {stamp : Nat} {env : MemEnv} {z0 : List Nat} {t1 : State} (h1 : Good qq t1) :
    GoodE qq (txTry m stamp env z0 t1) := by
  induction z0 generalizing t1 with
  | nil => exact h1
  | cons q qs ih =>
    unfold txTry
    repeat' first
      | with_reducible assumption
      | with_reducible intro _
      | (extract_lets -underBinder +onlyGivenNames x; first | (refine good_cut (q := qq) (s := x) ?_ ?_; (on_goal 1 => subst x); (on_goal 2 => (intro _; clear_value x))) | (refine goodE_cut (q := qq) (x := x) ?_ ?_; (on_goal 1 => subst x); (on_goal 2 => (intro _; clear_value x))) | (refine goodBR_cut (q := qq) (x := x) ?_ ?_; (on_goal 1 => subst x); (on_goal 2 => (intro _; clear_value x))) | (refine isStateFun (x := x) ?_; subst x) | (refine isStateFun2 (x := x) ?_; subst x) | (refine goodBR_fun (x := x) ?_; subst x) | clear_value x | subst x)
      | with_reducible refine goodE_ok ?_
      | with_reducible refine goodE_error ?_
      | with_reducible refine elim_goodE ?_ ?_ ?_ ?_
      | with_reducible refine elim_good ?_ ?_ ?_ ?_
      | with_reducible refine goodE_ok_of (by with_reducible assumption) ?_
      | with_reducible refine goodE_error_of (by with_reducible assumption) ?_
      | with_reducible refine goodEmap ?_ ?_
      | with_reducible refine settled_good ?_
      | with_reducible refine updMac_good ?_
      | with_reducible refine startFrame_good ?_
      | with_reducible refine goodBR_ok ?_
      | with_reducible refine goodBR_err ?_
      | with_reducible refine goodBR_wait ?_
      | with_reducible refine goodBR_wait_of (by with_reducible assumption) ?_
      | with_reducible refine ethGet_good ?_
      | with_reducible refine ringStop_good ?_
      | with_reducible refine txBack_good ?_
      | with_reducible refine sendFrame_good ?_
      | with_reducible refine goodBR_ok_of (by with_reducible assumption) ?_
      | with_reducible refine goodBR_err_of (by with_reducible assumption) ?_
      | with_reducible refine ih ?_
      | with_reducible split

theorem execEthTxFrame_good {qq : List Instr} {m : Fin 8} {stamp : BitVec 64} {env : MemEnv} {s : State} (h1 : Good qq s) :
    GoodR qq (execEthTxFrame m stamp env s) := by
  delta execEthTxFrame
  repeat' first
    | with_reducible assumption
    | with_reducible intro _
    | (extract_lets -underBinder +onlyGivenNames x; first | (refine good_cut (q := qq) (s := x) ?_ ?_; (on_goal 1 => subst x); (on_goal 2 => (intro _; clear_value x))) | (refine good_cutO (q := qq) (x := x) ?_ ?_; (on_goal 1 => subst x); (on_goal 2 => (intro _; clear_value x))) | (refine goodE_cut (q := qq) (x := x) ?_ ?_; (on_goal 1 => subst x); (on_goal 2 => (intro _; clear_value x))) | (refine isP (x := x) ?_; subst x) | (refine isQ (x := x) ?_; subst x) | (refine isFab (x := x) ?_; subst x) | (refine isSram (x := x) ?_; subst x) | (refine isDram (x := x) ?_; subst x) | (refine isStateFun (x := x) ?_; subst x) | (refine isStateFun2 (x := x) ?_; subst x) | (refine goodE_fun (x := x) ?_; subst x) | clear_value x | subst x)
    | with_reducible refine goodR_next ?_
    | with_reducible refine goodO_some ?_
    | with_reducible exact goodO_none
    | with_reducible refine goodE_ok ?_
    | with_reducible refine goodE_error ?_
    | with_reducible refine settled_good ?_
    | with_reducible refine txTry_good ?_
    | with_reducible refine resumeRest_good ?_
    | with_reducible refine goodO_of ?_ (by with_reducible assumption)
    | with_reducible refine goodP_of ?_ (by with_reducible assumption)
    | with_reducible refine goodQ_of ?_ (by with_reducible assumption)
    | with_reducible refine goodR_of ?_ (by with_reducible assumption)
    | with_reducible refine goodE_ok_of (by with_reducible assumption) ?_
    | with_reducible refine goodE_error_of (by with_reducible assumption) ?_
    | with_reducible exact good_mk (by with_reducible assumption) rfl rfl rfl rfl rfl rfl
    | dsimp -zeta only
    | with_reducible split

theorem setRxWait_good {qq : List Instr} {s : State} {m : Fin 8} {q : Nat} {l : List RxWait} (h1 : Good qq s) :
    Good qq (setRxWait s m q l) := by
  delta setRxWait
  repeat' first
    | with_reducible assumption
    | with_reducible intro _
    | (extract_lets -underBinder +onlyGivenNames x; first | (refine good_cut (q := qq) (s := x) ?_ ?_; (on_goal 1 => subst x); (on_goal 2 => (intro _; clear_value x))) | (refine isStateFun (x := x) ?_; subst x) | (refine isStateFun2 (x := x) ?_; subst x) | clear_value x | subst x)
    | with_reducible refine updMac_good ?_

theorem rxBack_good {qq : List Instr} {s : State} {m : Fin 8} {q : Nat} {a : Nat} {w : RxWait} {ws : List RxWait} {env : MemEnv} (h1 : Good qq s) :
    Good qq (rxBack s m q a w ws env).1 := by
  delta rxBack
  repeat' first
    | with_reducible assumption
    | with_reducible intro _
    | (extract_lets -underBinder +onlyGivenNames x; first | (refine good_cut (q := qq) (s := x) ?_ ?_; (on_goal 1 => subst x); (on_goal 2 => (intro _; clear_value x))) | (refine good_cutO (q := qq) (x := x) ?_ ?_; (on_goal 1 => subst x); (on_goal 2 => (intro _; clear_value x))) | (refine goodBR_cut (q := qq) (x := x) ?_ ?_; (on_goal 1 => subst x); (on_goal 2 => (intro _; clear_value x))) | (refine isP (x := x) ?_; subst x) | (refine isQ (x := x) ?_; subst x) | (refine isFab (x := x) ?_; subst x) | (refine isSram (x := x) ?_; subst x) | (refine isDram (x := x) ?_; subst x) | (refine isStateFun (x := x) ?_; subst x) | (refine isStateFun2 (x := x) ?_; subst x) | (refine goodBR_fun (x := x) ?_; subst x) | clear_value x | subst x)
    | with_reducible refine goodR_next ?_
    | with_reducible refine goodO_some ?_
    | with_reducible exact goodO_none
    | with_reducible refine goodBR_ok ?_
    | with_reducible refine goodBR_err ?_
    | with_reducible refine goodBR_wait ?_
    | with_reducible refine ethPut_good ?_
    | with_reducible refine elim_good ?_ ?_ ?_ ?_
    | with_reducible refine ringStop_good ?_
    | with_reducible refine setRxWait_good ?_
    | with_reducible refine setIrq_good ?_
    | with_reducible refine ringNext_good ?_
    | with_reducible refine elim_good ?_ ?_ ?_ ?_
    | with_reducible refine elim_goodE ?_ ?_ ?_ ?_
    | with_reducible refine elim_goodP ?_ ?_ ?_ ?_

theorem rxPlace_good {qq : List Instr} {s : State} {m : Fin 8} {q : Nat} {a : Nat} {d : List Byte} {w : RxWait} {ws : List RxWait} {env : MemEnv} (h1 : Good qq s) :
    Good qq (rxPlace s m q a d w ws env).1 := by
  delta rxPlace
  repeat' first
    | with_reducible assumption
    | with_reducible intro _
    | (extract_lets -underBinder +onlyGivenNames x; first | (refine good_cut (q := qq) (s := x) ?_ ?_; (on_goal 1 => subst x); (on_goal 2 => (intro _; clear_value x))) | (refine good_cutO (q := qq) (x := x) ?_ ?_; (on_goal 1 => subst x); (on_goal 2 => (intro _; clear_value x))) | (refine goodBR_cut (q := qq) (x := x) ?_ ?_; (on_goal 1 => subst x); (on_goal 2 => (intro _; clear_value x))) | (refine isP (x := x) ?_; subst x) | (refine isQ (x := x) ?_; subst x) | (refine isFab (x := x) ?_; subst x) | (refine isSram (x := x) ?_; subst x) | (refine isDram (x := x) ?_; subst x) | (refine isStateFun (x := x) ?_; subst x) | (refine isStateFun2 (x := x) ?_; subst x) | (refine goodBR_fun (x := x) ?_; subst x) | clear_value x | subst x)
    | with_reducible refine goodR_next ?_
    | with_reducible refine goodO_some ?_
    | with_reducible exact goodO_none
    | with_reducible refine goodBR_ok ?_
    | with_reducible refine goodBR_err ?_
    | with_reducible refine goodBR_wait ?_
    | with_reducible refine ethPut_good ?_
    | with_reducible refine elim_good ?_ ?_ ?_ ?_
    | with_reducible refine ringStop_good ?_
    | with_reducible refine rxBack_good ?_
    | with_reducible refine elim_good ?_ ?_ ?_ ?_
    | with_reducible refine elim_goodE ?_ ?_ ?_ ?_
    | with_reducible refine elim_goodP ?_ ?_ ?_ ?_

theorem rxUse_good {qq : List Instr} {s : State} {m : Fin 8} {q : Nat} {w : RxWait} {ws : List RxWait} {env : MemEnv} (h1 : Good qq s) :
    Good qq (rxUse s m q w ws env).1 := by
  delta rxUse
  repeat' first
    | with_reducible assumption
    | with_reducible intro _
    | (extract_lets -underBinder +onlyGivenNames x; first | (refine good_cut (q := qq) (s := x) ?_ ?_; (on_goal 1 => subst x); (on_goal 2 => (intro _; clear_value x))) | (refine good_cutO (q := qq) (x := x) ?_ ?_; (on_goal 1 => subst x); (on_goal 2 => (intro _; clear_value x))) | (refine goodBR_cut (q := qq) (x := x) ?_ ?_; (on_goal 1 => subst x); (on_goal 2 => (intro _; clear_value x))) | (refine isP (x := x) ?_; subst x) | (refine isQ (x := x) ?_; subst x) | (refine isFab (x := x) ?_; subst x) | (refine isSram (x := x) ?_; subst x) | (refine isDram (x := x) ?_; subst x) | (refine isStateFun (x := x) ?_; subst x) | (refine isStateFun2 (x := x) ?_; subst x) | (refine goodBR_fun (x := x) ?_; subst x) | clear_value x | subst x)
    | with_reducible refine goodR_next ?_
    | with_reducible refine goodO_some ?_
    | with_reducible exact goodO_none
    | with_reducible refine goodBR_ok ?_
    | with_reducible refine goodBR_err ?_
    | with_reducible refine goodBR_wait ?_
    | with_reducible refine ethGet_good ?_
    | with_reducible refine elim_good ?_ ?_ ?_ ?_
    | with_reducible refine ringStop_good ?_
    | with_reducible refine rxPlace_good ?_
    | with_reducible refine elim_good ?_ ?_ ?_ ?_
    | with_reducible refine elim_goodE ?_ ?_ ?_ ?_
    | with_reducible refine elim_goodP ?_ ?_ ?_ ?_
    | with_reducible refine goodO_of ?_ (by with_reducible assumption)
    | with_reducible refine goodP_of ?_ (by with_reducible assumption)
    | with_reducible refine goodQ_of ?_ (by with_reducible assumption)
    | with_reducible refine goodR_of ?_ (by with_reducible assumption)
    | with_reducible refine goodBR_ok_of (by with_reducible assumption) ?_
    | with_reducible refine goodBR_err_of (by with_reducible assumption) ?_
    | with_reducible refine goodBR_wait_of (by with_reducible assumption) ?_
    | with_reducible exact good_mk (by with_reducible assumption) rfl rfl rfl rfl rfl rfl
    | dsimp -zeta only
    | with_reducible split

theorem goOn_good {qq : List Instr} {r : State × Bool} {f : State → State} (h1 : Good qq r.1) (h2 : ∀ a0, Good qq a0 → Good qq (f a0)) :
    Good qq (goOn r f) := by
  cases r with
  | mk s b => cases b with
    | true => exact h2 s h1
    | false => exact h1

theorem rxPump_good {qq : List Instr} {m : Fin 8} {q : Nat} {env : MemEnv} {z0 : Nat} {t1 : State} (h1 : Good qq t1) :
    Good qq (rxPump m q env z0 t1) := by
  induction z0 generalizing t1 with
  | zero => exact h1
  | succ f ih =>
    unfold rxPump
    split
    · exact h1
    · with_reducible exact iteP (Good qq) h1 (goOn_good (rxUse_good h1) (fun _ => ih))

theorem rxPumpAll_good {qq : List Instr} {s : State} {m : Fin 8} {env : MemEnv} (h1 : Good qq s) :
    Good qq (rxPumpAll s m env) := by
  delta rxPumpAll
  repeat' first
    | with_reducible assumption
    | with_reducible intro _
    | with_reducible refine rxPump_good ?_
    | with_reducible refine good_foldl ?_ ?_
    | with_reducible refine good_foldlP ?_ ?_
    | with_reducible split

theorem rxCutBack_good {qq : List Instr} {s : State} {m : Fin 8} {q : Nat} {a : Nat} {d : List Byte} {env : MemEnv} (h1 : Good qq s) :
    Good qq (rxCutBack s m q a d env) := by
  delta rxCutBack
  repeat' first
    | with_reducible assumption
    | with_reducible intro _
    | (extract_lets -underBinder +onlyGivenNames x; first | (refine good_cut (q := qq) (s := x) ?_ ?_; (on_goal 1 => subst x); (on_goal 2 => (intro _; clear_value x))) | (refine good_cutO (q := qq) (x := x) ?_ ?_; (on_goal 1 => subst x); (on_goal 2 => (intro _; clear_value x))) | (refine goodBR_cut (q := qq) (x := x) ?_ ?_; (on_goal 1 => subst x); (on_goal 2 => (intro _; clear_value x))) | (refine isP (x := x) ?_; subst x) | (refine isQ (x := x) ?_; subst x) | (refine isFab (x := x) ?_; subst x) | (refine isSram (x := x) ?_; subst x) | (refine isDram (x := x) ?_; subst x) | (refine isStateFun (x := x) ?_; subst x) | (refine isStateFun2 (x := x) ?_; subst x) | (refine goodBR_fun (x := x) ?_; subst x) | clear_value x | subst x)
    | with_reducible refine goodR_next ?_
    | with_reducible refine goodO_some ?_
    | with_reducible exact goodO_none
    | with_reducible refine goodBR_ok ?_
    | with_reducible refine goodBR_err ?_
    | with_reducible refine goodBR_wait ?_
    | with_reducible refine ethPut_good ?_
    | with_reducible refine elim_good ?_ ?_ ?_ ?_
    | with_reducible refine ringStop_good ?_
    | with_reducible refine goodO_getD ?_ ?_
    | with_reducible simp only [id_eq]

theorem rxCut_good {qq : List Instr} {s : State} {m : Fin 8} {q : Nat} {env : MemEnv} (h1 : Good qq s) :
    Good qq (rxCut s m q env) := by
  delta rxCut
  repeat' first
    | with_reducible assumption
    | with_reducible intro _
    | (extract_lets -underBinder +onlyGivenNames x; first | (refine good_cut (q := qq) (s := x) ?_ ?_; (on_goal 1 => subst x); (on_goal 2 => (intro _; clear_value x))) | (refine good_cutO (q := qq) (x := x) ?_ ?_; (on_goal 1 => subst x); (on_goal 2 => (intro _; clear_value x))) | (refine goodBR_cut (q := qq) (x := x) ?_ ?_; (on_goal 1 => subst x); (on_goal 2 => (intro _; clear_value x))) | (refine isP (x := x) ?_; subst x) | (refine isQ (x := x) ?_; subst x) | (refine isFab (x := x) ?_; subst x) | (refine isSram (x := x) ?_; subst x) | (refine isDram (x := x) ?_; subst x) | (refine isStateFun (x := x) ?_; subst x) | (refine isStateFun2 (x := x) ?_; subst x) | (refine goodBR_fun (x := x) ?_; subst x) | clear_value x | subst x)
    | with_reducible refine goodR_next ?_
    | with_reducible refine goodO_some ?_
    | with_reducible exact goodO_none
    | with_reducible refine goodBR_ok ?_
    | with_reducible refine goodBR_err ?_
    | with_reducible refine goodBR_wait ?_
    | with_reducible refine ethGet_good ?_
    | with_reducible refine elim_good ?_ ?_ ?_ ?_
    | with_reducible refine ringStop_good ?_
    | with_reducible refine rxCutBack_good ?_
    | with_reducible simp only [id_eq]

theorem rxOverflow_good {qq : List Instr} {s : State} {m : Fin 8} {q : Nat} {env : MemEnv} (h1 : Good qq s) :
    Good qq (rxOverflow s m q env) := by
  delta rxOverflow
  repeat' first
    | with_reducible assumption
    | with_reducible intro _
    | (extract_lets -underBinder +onlyGivenNames x; first | (refine good_cut (q := qq) (s := x) ?_ ?_; (on_goal 1 => subst x); (on_goal 2 => (intro _; clear_value x))) | clear_value x | subst x)
    | with_reducible refine setRxWait_good ?_
    | with_reducible refine bumpF_good ?_
    | with_reducible refine rxCut_good ?_
    | with_reducible split

theorem laneTake_good {qq : List Instr} {s : State} {m : Fin 8} {f : List Byte} (h1 : Good qq s) :
    GoodO qq (laneTake s m f) := by
  delta laneTake
  repeat' first
    | with_reducible assumption
    | with_reducible intro _
    | (extract_lets -underBinder +onlyGivenNames x; first | (refine good_cut (q := qq) (s := x) ?_ ?_; (on_goal 1 => subst x); (on_goal 2 => (intro _; clear_value x))) | (refine good_cutO (q := qq) (x := x) ?_ ?_; (on_goal 1 => subst x); (on_goal 2 => (intro _; clear_value x))) | (refine isP (x := x) ?_; subst x) | (refine isQ (x := x) ?_; subst x) | (refine isFab (x := x) ?_; subst x) | (refine isSram (x := x) ?_; subst x) | (refine isDram (x := x) ?_; subst x) | (refine isStateFun (x := x) ?_; subst x) | (refine isStateFun2 (x := x) ?_; subst x) | clear_value x | subst x)
    | with_reducible refine goodR_next ?_
    | with_reducible refine goodO_some ?_
    | with_reducible exact goodO_none
    | with_reducible refine goodOP_some ?_
    | with_reducible exact goodOP_none
    | with_reducible refine goodOQ_some ?_
    | with_reducible exact goodOQ_none
    | with_reducible refine updMac_good ?_
    | with_reducible refine goodO_of ?_ (by with_reducible assumption)
    | with_reducible refine goodP_of ?_ (by with_reducible assumption)
    | with_reducible refine goodQ_of ?_ (by with_reducible assumption)
    | with_reducible refine goodR_of ?_ (by with_reducible assumption)
    | with_reducible refine goodOP_of ?_ (by with_reducible assumption)
    | with_reducible refine goodOQ_of ?_ (by with_reducible assumption)
    | with_reducible exact good_mk (by with_reducible assumption) rfl rfl rfl rfl rfl rfl
    | dsimp -zeta only
    | with_reducible split

theorem rxArrive_good {qq : List Instr} {m : Fin 8} {f : List Byte} {stamp : BitVec 64} {env : MemEnv} {s : State} (h1 : Good qq s) :
    Good qq (rxArrive m f stamp env s) := by
  delta rxArrive
  repeat' first
    | with_reducible assumption
    | with_reducible intro _
    | (extract_lets -underBinder +onlyGivenNames x; first | (refine good_cut (q := qq) (s := x) ?_ ?_; (on_goal 1 => subst x); (on_goal 2 => (intro _; clear_value x))) | (refine good_cutO (q := qq) (x := x) ?_ ?_; (on_goal 1 => subst x); (on_goal 2 => (intro _; clear_value x))) | (refine isP (x := x) ?_; subst x) | (refine isQ (x := x) ?_; subst x) | (refine isFab (x := x) ?_; subst x) | (refine isSram (x := x) ?_; subst x) | (refine isDram (x := x) ?_; subst x) | (refine isStateFun (x := x) ?_; subst x) | (refine isStateFun2 (x := x) ?_; subst x) | clear_value x | subst x)
    | with_reducible refine goodR_next ?_
    | with_reducible refine goodO_some ?_
    | with_reducible exact goodO_none
    | with_reducible refine recoverFrame_good ?_
    | with_reducible refine bumpF_good ?_
    | with_reducible refine rxPump_good ?_
    | with_reducible refine setRxWait_good ?_
    | with_reducible refine rxOverflow_good ?_
    | with_reducible refine goodO_map ?_ ?_
    | with_reducible refine goodO_getD ?_ ?_
    | with_reducible refine goodOP_mapP ?_ ?_
    | with_reducible refine goodOP_map ?_ ?_
    | with_reducible refine goodO_mapP ?_ ?_
    | with_reducible refine goodO_of ?_ (by with_reducible assumption)
    | with_reducible refine goodP_of ?_ (by with_reducible assumption)
    | with_reducible refine goodQ_of ?_ (by with_reducible assumption)
    | with_reducible refine goodR_of ?_ (by with_reducible assumption)
    | with_reducible refine goodOP_of ?_ (by with_reducible assumption)
    | with_reducible refine goodOQ_of ?_ (by with_reducible assumption)
    | with_reducible exact good_mk (by with_reducible assumption) rfl rfl rfl rfl rfl rfl
    | dsimp -zeta only
    | with_reducible split

theorem execEthRxFrame_good {qq : List Instr} {m : Fin 8} {f : List Byte} {stamp : BitVec 64} {env : MemEnv} {s : State} (h1 : Good qq s) :
    GoodR qq (execEthRxFrame m f stamp env s) := by
  delta execEthRxFrame
  repeat' first
    | with_reducible assumption
    | with_reducible intro _
    | (extract_lets -underBinder +onlyGivenNames x; first | (refine good_cut (q := qq) (s := x) ?_ ?_; (on_goal 1 => subst x); (on_goal 2 => (intro _; clear_value x))) | (refine good_cutO (q := qq) (x := x) ?_ ?_; (on_goal 1 => subst x); (on_goal 2 => (intro _; clear_value x))) | (refine isP (x := x) ?_; subst x) | (refine isQ (x := x) ?_; subst x) | (refine isFab (x := x) ?_; subst x) | (refine isSram (x := x) ?_; subst x) | (refine isDram (x := x) ?_; subst x) | (refine isStateFun (x := x) ?_; subst x) | (refine isStateFun2 (x := x) ?_; subst x) | clear_value x | subst x)
    | with_reducible refine goodR_next ?_
    | with_reducible refine goodO_some ?_
    | with_reducible exact goodO_none
    | with_reducible refine laneTake_good ?_
    | with_reducible refine rxArrive_good ?_
    | with_reducible refine goodO_of ?_ (by with_reducible assumption)
    | with_reducible refine goodP_of ?_ (by with_reducible assumption)
    | with_reducible refine goodQ_of ?_ (by with_reducible assumption)
    | with_reducible refine goodR_of ?_ (by with_reducible assumption)
    | with_reducible exact good_mk (by with_reducible assumption) rfl rfl rfl rfl rfl rfl
    | dsimp -zeta only
    | with_reducible split

theorem ethLink_good {qq : List Instr} {s : State} {m : Fin 8} {up : Bool} {speed : Nat} (h1 : Good qq s) :
    Good qq (ethLink s m up speed) := by
  delta ethLink
  repeat' first
    | with_reducible assumption
    | with_reducible intro _
    | (extract_lets -underBinder +onlyGivenNames x; first | (refine good_cut (q := qq) (s := x) ?_ ?_; (on_goal 1 => subst x); (on_goal 2 => (intro _; clear_value x))) | clear_value x | subst x)
    | with_reducible refine wrF_good ?_
    | with_reducible refine wrB_good ?_
    | with_reducible refine setIrq_good ?_
    | with_reducible split

theorem execEthLinkChange_good {qq : List Instr} {m : Fin 8} {up : Bool} {speed : Fin 8} {s : State} (h1 : Good qq s) :
    GoodR qq (execEthLinkChange m up speed s) := by
  delta execEthLinkChange
  repeat' first
    | with_reducible assumption
    | with_reducible intro _
    | (extract_lets -underBinder +onlyGivenNames x; first | (refine good_cut (q := qq) (s := x) ?_ ?_; (on_goal 1 => subst x); (on_goal 2 => (intro _; clear_value x))) | (refine good_cutO (q := qq) (x := x) ?_ ?_; (on_goal 1 => subst x); (on_goal 2 => (intro _; clear_value x))) | (refine isP (x := x) ?_; subst x) | (refine isQ (x := x) ?_; subst x) | (refine isFab (x := x) ?_; subst x) | (refine isSram (x := x) ?_; subst x) | (refine isDram (x := x) ?_; subst x) | (refine isStateFun (x := x) ?_; subst x) | (refine isStateFun2 (x := x) ?_; subst x) | clear_value x | subst x)
    | with_reducible refine goodR_next ?_
    | with_reducible refine goodO_some ?_
    | with_reducible exact goodO_none
    | with_reducible refine ethLink_good ?_
    | with_reducible refine goodO_of ?_ (by with_reducible assumption)
    | with_reducible refine goodP_of ?_ (by with_reducible assumption)
    | with_reducible refine goodQ_of ?_ (by with_reducible assumption)
    | with_reducible refine goodR_of ?_ (by with_reducible assumption)
    | with_reducible exact good_mk (by with_reducible assumption) rfl rfl rfl rfl rfl rfl
    | dsimp -zeta only
    | with_reducible split

theorem execPreemptionVerification_good {qq : List Instr} {m : Fin 8} {ok : Bool} {s : State} (h1 : Good qq s) :
    GoodR qq (execPreemptionVerification m ok s) := by
  delta execPreemptionVerification
  repeat' first
    | with_reducible assumption
    | with_reducible intro _
    | with_reducible refine goodR_next ?_
    | with_reducible refine wrF_good ?_
    | with_reducible split

theorem ethStop_good {qq : List Instr} {s : State} {m : Fin 8} (h1 : Good qq s) :
    Good qq (ethStop s m) := by
  delta ethStop
  repeat' first
    | with_reducible assumption
    | with_reducible intro _
    | (extract_lets -underBinder +onlyGivenNames x; first | (refine good_cut (q := qq) (s := x) ?_ ?_; (on_goal 1 => subst x); (on_goal 2 => (intro _; clear_value x))) | (refine good_cutO (q := qq) (x := x) ?_ ?_; (on_goal 1 => subst x); (on_goal 2 => (intro _; clear_value x))) | (refine isP (x := x) ?_; subst x) | (refine isQ (x := x) ?_; subst x) | (refine isFab (x := x) ?_; subst x) | (refine isSram (x := x) ?_; subst x) | (refine isDram (x := x) ?_; subst x) | (refine isStateFun (x := x) ?_; subst x) | (refine isStateFun2 (x := x) ?_; subst x) | clear_value x | subst x)
    | with_reducible refine goodR_next ?_
    | with_reducible refine goodO_some ?_
    | with_reducible exact goodO_none
    | with_reducible refine ethLink_good ?_
    | with_reducible refine releaseLanes_good ?_
    | with_reducible refine updMac_good ?_

theorem ethCtl_good {qq : List Instr} {s : State} {m : Fin 8} {v : Reg32} {env : MemEnv} (h1 : Good qq s) :
    GoodE qq (ethCtl s m v env) := by
  delta ethCtl
  repeat' first
    | with_reducible assumption
    | with_reducible intro _
    | (extract_lets -underBinder +onlyGivenNames x; first | (refine good_cut (q := qq) (s := x) ?_ ?_; (on_goal 1 => subst x); (on_goal 2 => (intro _; clear_value x))) | (refine good_cutO (q := qq) (x := x) ?_ ?_; (on_goal 1 => subst x); (on_goal 2 => (intro _; clear_value x))) | (refine goodE_cut (q := qq) (x := x) ?_ ?_; (on_goal 1 => subst x); (on_goal 2 => (intro _; clear_value x))) | (refine isP (x := x) ?_; subst x) | (refine isQ (x := x) ?_; subst x) | (refine isFab (x := x) ?_; subst x) | (refine isSram (x := x) ?_; subst x) | (refine isDram (x := x) ?_; subst x) | (refine isStateFun (x := x) ?_; subst x) | (refine isStateFun2 (x := x) ?_; subst x) | (refine goodE_fun (x := x) ?_; subst x) | clear_value x | subst x)
    | with_reducible refine goodR_next ?_
    | with_reducible refine goodO_some ?_
    | with_reducible exact goodO_none
    | with_reducible refine goodE_ok ?_
    | with_reducible refine goodE_error ?_
    | with_reducible refine wr_good ?_
    | with_reducible refine gclGo_good ?_
    | with_reducible refine cbLoad_good ?_
    | with_reducible refine goodO_bind ?_ ?_
    | with_reducible refine goodEbind ?_ ?_
    | with_reducible refine goodO_of ?_ (by with_reducible assumption)
    | with_reducible refine goodP_of ?_ (by with_reducible assumption)
    | with_reducible refine goodQ_of ?_ (by with_reducible assumption)
    | with_reducible refine goodR_of ?_ (by with_reducible assumption)
    | with_reducible refine goodE_ok_of (by with_reducible assumption) ?_
    | with_reducible refine goodE_error_of (by with_reducible assumption) ?_
    | with_reducible exact good_mk (by with_reducible assumption) rfl rfl rfl rfl rfl rfl
    | dsimp -zeta only
    | with_reducible split

theorem ethWrite_good {qq : List Instr} {s : State} {m : Fin 8} {off : Nat} {v : Reg32} {env : MemEnv} (h1 : Good qq s) :
    GoodO qq (ethWrite s m off v env) := by
  delta ethWrite
  repeat' first
    | with_reducible assumption
    | with_reducible intro _
    | (extract_lets -underBinder +onlyGivenNames x; first | (refine good_cut (q := qq) (s := x) ?_ ?_; (on_goal 1 => subst x); (on_goal 2 => (intro _; clear_value x))) | (refine good_cutO (q := qq) (x := x) ?_ ?_; (on_goal 1 => subst x); (on_goal 2 => (intro _; clear_value x))) | (refine isP (x := x) ?_; subst x) | (refine isQ (x := x) ?_; subst x) | (refine isFab (x := x) ?_; subst x) | (refine isSram (x := x) ?_; subst x) | (refine isDram (x := x) ?_; subst x) | (refine isStateFun (x := x) ?_; subst x) | (refine isStateFun2 (x := x) ?_; subst x) | clear_value x | subst x)
    | with_reducible refine goodR_next ?_
    | with_reducible refine goodO_some ?_
    | with_reducible exact goodO_none
    | with_reducible refine goodOP_some ?_
    | with_reducible exact goodOP_none
    | with_reducible refine goodOQ_some ?_
    | with_reducible exact goodOQ_none
    | with_reducible refine wr_good ?_
    | with_reducible refine updMac_good ?_
    | with_reducible refine claimLanes_good ?_
    | with_reducible refine ethStop_good ?_
    | with_reducible refine rxPumpAll_good ?_
    | with_reducible refine wrF_good ?_
    | with_reducible refine goodO_of ?_ (by with_reducible assumption)
    | with_reducible refine goodP_of ?_ (by with_reducible assumption)
    | with_reducible refine goodQ_of ?_ (by with_reducible assumption)
    | with_reducible refine goodR_of ?_ (by with_reducible assumption)
    | with_reducible refine goodOP_of ?_ (by with_reducible assumption)
    | with_reducible refine goodOQ_of ?_ (by with_reducible assumption)
    | with_reducible exact good_mk (by with_reducible assumption) rfl rfl rfl rfl rfl rfl
    | dsimp -zeta only
    | with_reducible split

end Sys2Proof.Machine
end

