-- ==== Sys2Proof/Laws/KeepSage.lean ====
section
/-!
SUPPORT. Laws/KeepSage.lean: every operation of Machine/Sage.lean keeps the queue and the invariant.
-/

namespace Sys2Proof.Machine

theorem updSage_good {qq : List Instr} {s : State} {f : Sage → Sage} (h1 : Good qq s) :
    Good qq (updSage s f) := by
  delta updSage
  repeat' first
    | with_reducible assumption
    | with_reducible intro _
    | (extract_lets -underBinder +onlyGivenNames x; first | (refine good_cut (q := qq) (s := x) ?_ ?_; (on_goal 1 => subst x); (on_goal 2 => (intro _; clear_value x))) | clear_value x | subst x)
    | with_reducible exact good_mk (by with_reducible assumption) rfl rfl rfl rfl rfl rfl

theorem wipeSecure_good {qq : List Instr} {s : State} (h1 : Good qq s) :
    Good qq (wipeSecure s) := by
  delta wipeSecure
  repeat' first
    | with_reducible assumption
    | with_reducible intro _
    | (extract_lets -underBinder +onlyGivenNames x; first | (refine good_cut (q := qq) (s := x) ?_ ?_; (on_goal 1 => subst x); (on_goal 2 => (intro _; clear_value x))) | (refine good_cutO (q := qq) (x := x) ?_ ?_; (on_goal 1 => subst x); (on_goal 2 => (intro _; clear_value x))) | (refine isP (x := x) ?_; subst x) | (refine isQ (x := x) ?_; subst x) | (refine isFab (x := x) ?_; subst x) | (refine isSram (x := x) ?_; subst x) | (refine isDram (x := x) ?_; subst x) | (refine isStateFun (x := x) ?_; subst x) | (refine isStateFun2 (x := x) ?_; subst x) | clear_value x | subst x)
    | with_reducible refine goodR_next ?_
    | with_reducible refine goodO_some ?_
    | with_reducible exact goodO_none
    | with_reducible refine updSage_good ?_
    | with_reducible refine zeroBanks_good ?_

theorem zeroSlots_good {qq : List Instr} {s : State} (h1 : Good qq s) :
    Good qq (zeroSlots s) := by
  delta zeroSlots
  repeat' first
    | with_reducible assumption
    | with_reducible intro _
    | with_reducible refine zeroBanks_good ?_

theorem sageHalt_good {qq : List Instr} {s : State} {code : Nat} (h1 : Good qq s) :
    Good qq (sageHalt s code) := by
  delta sageHalt
  repeat' first
    | with_reducible assumption
    | with_reducible intro _
    | (extract_lets -underBinder +onlyGivenNames x; first | (refine good_cut (q := qq) (s := x) ?_ ?_; (on_goal 1 => subst x); (on_goal 2 => (intro _; clear_value x))) | (refine isStateFun (x := x) ?_; subst x) | (refine isStateFun2 (x := x) ?_; subst x) | clear_value x | subst x)
    | with_reducible refine updSage_good ?_

theorem notZeroed_good {qq : List Instr} {s : State} (h1 : Good qq s) :
    Good qq (notZeroed s) := by
  unfold notZeroed
  generalize List.range 64 = l
  have hz := h1.szer
  have key : ∀ (l : List Nat) (m : SMap Bool), SMap.wfF zeroedAtReset m = true →
      SMap.wfF zeroedAtReset (l.foldl (fun m b => SMap.setF zeroedAtReset m b false) m) = true ∧
      ∀ k, SMap.getF zeroedAtReset (l.foldl (fun m b => SMap.setF zeroedAtReset m b false) m) k = false ∨
        SMap.getF zeroedAtReset (l.foldl (fun m b => SMap.setF zeroedAtReset m b false) m) k = SMap.getF zeroedAtReset m k := by
    intro l
    induction l with
    | nil => exact fun m h => ⟨h, fun _ => .inr rfl⟩
    | cons b l ih =>
      intro m hm
      refine ⟨(ih _ (SMap.wfF_setF hm b false)).1, fun k => ?_⟩
      rcases (ih _ (SMap.wfF_setF hm b false)).2 k with h | h
      · exact .inl h
      · by_cases hk : k = b
        · subst hk; rw [SMap.getF_setF_same (SMap.rising_of_wfF hm)] at h; exact .inl h
        · rw [SMap.getF_setF_ne (SMap.rising_of_wfF hm) hk] at h; exact .inr h
  have k1 := key l s.sram.zeroed h1.szwf
  refine { h1 with szwf := k1.1, szer := ?_ }
  simp only [List.all_eq_true] at hz ⊢
  intro e he
  rcases k1.2 (bankAt e.1) with h | h
  · rw [h]; rfl
  · rw [h]; exact hz e he

theorem sageBegin_good {qq : List Instr} {s : State} {bootif : Nat} {retry : Bool} {low : Nat} (h1 : Good qq s) :
    Good qq (sageBegin s bootif retry low) := by
  delta sageBegin
  repeat' first
    | with_reducible assumption
    | with_reducible intro _
    | (extract_lets -underBinder +onlyGivenNames x; first | (refine good_cut (q := qq) (s := x) ?_ ?_; (on_goal 1 => subst x); (on_goal 2 => (intro _; clear_value x))) | (refine good_cutO (q := qq) (x := x) ?_ ?_; (on_goal 1 => subst x); (on_goal 2 => (intro _; clear_value x))) | (refine isP (x := x) ?_; subst x) | (refine isQ (x := x) ?_; subst x) | (refine isFab (x := x) ?_; subst x) | (refine isSram (x := x) ?_; subst x) | (refine isDram (x := x) ?_; subst x) | (refine isStateFun (x := x) ?_; subst x) | (refine isStateFun2 (x := x) ?_; subst x) | clear_value x | subst x)
    | with_reducible refine goodR_next ?_
    | with_reducible refine goodO_some ?_
    | with_reducible exact goodO_none
    | with_reducible refine updSage_good ?_
    | with_reducible refine goodO_of ?_ (by with_reducible assumption)
    | with_reducible refine goodP_of ?_ (by with_reducible assumption)
    | with_reducible refine goodQ_of ?_ (by with_reducible assumption)
    | with_reducible refine goodR_of ?_ (by with_reducible assumption)
    | with_reducible refine goodOP_of ?_ (by with_reducible assumption)
    | with_reducible refine goodOQ_of ?_ (by with_reducible assumption)
    | with_reducible exact good_mk (by with_reducible assumption) rfl rfl rfl rfl rfl rfl

theorem bootLink_good {qq : List Instr} {s : State} (h1 : Good qq s) :
    Good qq (bootLink s) := by
  delta bootLink
  repeat' first
    | with_reducible assumption
    | with_reducible intro _
    | (extract_lets -underBinder +onlyGivenNames x; first | (refine good_cut (q := qq) (s := x) ?_ ?_; (on_goal 1 => subst x); (on_goal 2 => (intro _; clear_value x))) | (refine good_cutO (q := qq) (x := x) ?_ ?_; (on_goal 1 => subst x); (on_goal 2 => (intro _; clear_value x))) | (refine isP (x := x) ?_; subst x) | (refine isQ (x := x) ?_; subst x) | (refine isFab (x := x) ?_; subst x) | (refine isSram (x := x) ?_; subst x) | (refine isDram (x := x) ?_; subst x) | (refine isStateFun (x := x) ?_; subst x) | (refine isStateFun2 (x := x) ?_; subst x) | clear_value x | subst x)
    | with_reducible refine goodR_next ?_
    | with_reducible refine goodO_some ?_
    | with_reducible exact goodO_none
    | with_reducible refine bootPce_good ?_
    | with_reducible refine bootTyl_good ?_
    | with_reducible refine updSage_good ?_
    | with_reducible refine goodO_of ?_ (by with_reducible assumption)
    | with_reducible refine goodP_of ?_ (by with_reducible assumption)
    | with_reducible refine goodQ_of ?_ (by with_reducible assumption)
    | with_reducible refine goodR_of ?_ (by with_reducible assumption)
    | with_reducible exact good_mk (by with_reducible assumption) rfl rfl rfl rfl rfl rfl
    | dsimp -zeta only
    | with_reducible split

theorem readFuses_good {qq : List Instr} {s : State} (h1 : Good qq s) :
    Good qq (readFuses s) := by
  delta readFuses
  repeat' first
    | with_reducible assumption
    | with_reducible intro _
    | (extract_lets -underBinder +onlyGivenNames x; first | (refine good_cut (q := qq) (s := x) ?_ ?_; (on_goal 1 => subst x); (on_goal 2 => (intro _; clear_value x))) | (refine isStateFun (x := x) ?_; subst x) | (refine isStateFun2 (x := x) ?_; subst x) | clear_value x | subst x)
    | with_reducible refine updSage_good ?_

theorem sageOpen_good {qq : List Instr} {s : State} {us : Nat} (h1 : Good qq s) :
    Good qq (sageOpen s us) := by
  delta sageOpen
  repeat' first
    | with_reducible assumption
    | with_reducible intro _
    | (extract_lets -underBinder +onlyGivenNames x; first | (refine good_cut (q := qq) (s := x) ?_ ?_; (on_goal 1 => subst x); (on_goal 2 => (intro _; clear_value x))) | (refine good_cutO (q := qq) (x := x) ?_ ?_; (on_goal 1 => subst x); (on_goal 2 => (intro _; clear_value x))) | (refine isP (x := x) ?_; subst x) | (refine isQ (x := x) ?_; subst x) | (refine isFab (x := x) ?_; subst x) | (refine isSram (x := x) ?_; subst x) | (refine isDram (x := x) ?_; subst x) | (refine isStateFun (x := x) ?_; subst x) | (refine isStateFun2 (x := x) ?_; subst x) | clear_value x | subst x)
    | with_reducible refine goodR_next ?_
    | with_reducible refine goodO_some ?_
    | with_reducible exact goodO_none
    | with_reducible refine zeroSlots_good ?_
    | with_reducible refine wipeSecure_good ?_
    | with_reducible refine sageHalt_good ?_
    | with_reducible refine bootLink_good ?_
    | with_reducible refine calCopy_good ?_
    | with_reducible refine goodO_of ?_ (by with_reducible assumption)
    | with_reducible refine goodP_of ?_ (by with_reducible assumption)
    | with_reducible refine goodQ_of ?_ (by with_reducible assumption)
    | with_reducible refine goodR_of ?_ (by with_reducible assumption)
    | with_reducible exact good_mk (by with_reducible assumption) rfl rfl rfl rfl rfl rfl
    | dsimp -zeta only
    | with_reducible split

theorem execDieResetRelease_good {qq : List Instr} {straps : List (Fin 8)} {us : Nat} {low : Nat} {defect : Bool} {s : State} (h1 : Good qq s) :
    GoodR qq (execDieResetRelease straps us low defect s) := by
  delta execDieResetRelease
  repeat' first
    | with_reducible assumption
    | with_reducible intro _
    | (extract_lets -underBinder +onlyGivenNames x; first | (refine good_cut (q := qq) (s := x) ?_ ?_; (on_goal 1 => subst x); (on_goal 2 => (intro _; clear_value x))) | (refine good_cutO (q := qq) (x := x) ?_ ?_; (on_goal 1 => subst x); (on_goal 2 => (intro _; clear_value x))) | (refine isP (x := x) ?_; subst x) | (refine isQ (x := x) ?_; subst x) | (refine isFab (x := x) ?_; subst x) | (refine isSram (x := x) ?_; subst x) | (refine isDram (x := x) ?_; subst x) | (refine isStateFun (x := x) ?_; subst x) | (refine isStateFun2 (x := x) ?_; subst x) | clear_value x | subst x)
    | with_reducible refine goodR_next ?_
    | with_reducible refine goodO_some ?_
    | with_reducible exact goodO_none
    | with_reducible refine sageBegin_good ?_
    | with_reducible refine sageHalt_good ?_
    | with_reducible refine notZeroed_good ?_
    | with_reducible refine sageOpen_good ?_
    | with_reducible refine readFuses_good ?_
    | with_reducible refine goodO_of ?_ (by with_reducible assumption)
    | with_reducible refine goodP_of ?_ (by with_reducible assumption)
    | with_reducible refine goodQ_of ?_ (by with_reducible assumption)
    | with_reducible refine goodR_of ?_ (by with_reducible assumption)
    | with_reducible exact good_mk (by with_reducible assumption) rfl rfl rfl rfl rfl rfl
    | dsimp -zeta only
    | with_reducible split

theorem frameBad_good {qq : List Instr} {s : State} {crc ref busy : Bool} (h1 : Good qq s) :
    Good qq (frameBad s crc ref busy) := by
  delta frameBad
  repeat' first
    | with_reducible assumption
    | with_reducible intro _
    | (extract_lets -underBinder +onlyGivenNames x; first | (refine good_cut (q := qq) (s := x) ?_ ?_; (on_goal 1 => subst x); (on_goal 2 => (intro _; clear_value x))) | (refine isStateFun (x := x) ?_; subst x) | (refine isStateFun2 (x := x) ?_; subst x) | clear_value x | subst x)
    | with_reducible refine updSage_good ?_

theorem frameTaken_good {qq : List Instr} {s : State} (h1 : Good qq s) :
    Good qq (frameTaken s) := by
  delta frameTaken
  repeat' first
    | with_reducible assumption
    | with_reducible intro _
    | (extract_lets -underBinder +onlyGivenNames x; first | (refine good_cut (q := qq) (s := x) ?_ ?_; (on_goal 1 => subst x); (on_goal 2 => (intro _; clear_value x))) | (refine isStateFun (x := x) ?_; subst x) | (refine isStateFun2 (x := x) ?_; subst x) | clear_value x | subst x)
    | with_reducible refine updSage_good ?_

theorem slotStore_good {qq : List Instr} {s : State} {b : Bool} {off : Nat} {data : List Byte} (h1 : Good qq s) :
    Good qq (slotStore s b off data) := by
  unfold slotStore
  extract_lets a t
  have ht : Good qq t := setSramBytes_good h1
  clear_value t
  refine { ht with sbad := ?_ }
  dsimp only
  exact SMap.wf_drop ht.sbad _

theorem takeStatus_good {qq : List Instr} {s : State} {tail : List Byte → List Byte} (h1 : Good qq s) :
    Good qq (takeStatus s tail) := by
  delta takeStatus
  repeat' first
    | with_reducible assumption
    | with_reducible intro _
    | (extract_lets -underBinder +onlyGivenNames x; first | (refine good_cut (q := qq) (s := x) ?_ ?_; (on_goal 1 => subst x); (on_goal 2 => (intro _; clear_value x))) | (refine isStateFun (x := x) ?_; subst x) | (refine isStateFun2 (x := x) ?_; subst x) | clear_value x | subst x)
    | with_reducible refine updSage_good ?_

theorem takeWrite_good {qq : List Instr} {s : State} {slot off len : Nat} {data : List Byte} {crcBad : Bool} (h1 : Good qq s) :
    Good qq (takeWrite s slot off len data crcBad) := by
  delta takeWrite
  repeat' first
    | with_reducible assumption
    | with_reducible intro _
    | (extract_lets -underBinder +onlyGivenNames x; first | (refine good_cut (q := qq) (s := x) ?_ ?_; (on_goal 1 => subst x); (on_goal 2 => (intro _; clear_value x))) | (refine isStateFun (x := x) ?_; subst x) | (refine isStateFun2 (x := x) ?_; subst x) | clear_value x | subst x)
    | with_reducible refine frameBad_good ?_
    | with_reducible refine updSage_good ?_
    | with_reducible refine frameTaken_good ?_
    | with_reducible refine slotStore_good ?_
    | with_reducible exact good_mk (by with_reducible assumption) rfl rfl rfl rfl rfl rfl
    | with_reducible split

theorem zeroSlot_good {qq : List Instr} {s : State} {b : Bool} (h1 : Good qq s) :
    Good qq (zeroSlot s b) := by
  delta zeroSlot
  repeat' first
    | with_reducible assumption
    | with_reducible intro _
    | with_reducible refine zeroBanks_good ?_
    | with_reducible split

theorem takeClear_good {qq : List Instr} {s : State} {slot : Nat} {crcBad short : Bool} (h1 : Good qq s) :
    Good qq (takeClear s slot crcBad short) := by
  delta takeClear
  repeat' first
    | with_reducible assumption
    | with_reducible intro _
    | (extract_lets -underBinder +onlyGivenNames x; first | (refine good_cut (q := qq) (s := x) ?_ ?_; (on_goal 1 => subst x); (on_goal 2 => (intro _; clear_value x))) | clear_value x | subst x)
    | with_reducible refine frameBad_good ?_
    | with_reducible refine frameTaken_good ?_
    | with_reducible refine zeroSlot_good ?_
    | with_reducible split

theorem takeRelease_good {qq : List Instr} {s : State} {key : Nat} {crcBad short : Bool} (h1 : Good qq s) :
    Good qq (takeRelease s key crcBad short) := by
  delta takeRelease
  repeat' first
    | with_reducible assumption
    | with_reducible intro _
    | (extract_lets -underBinder +onlyGivenNames x; first | (refine good_cut (q := qq) (s := x) ?_ ?_; (on_goal 1 => subst x); (on_goal 2 => (intro _; clear_value x))) | (refine isStateFun (x := x) ?_; subst x) | (refine isStateFun2 (x := x) ?_; subst x) | clear_value x | subst x)
    | with_reducible refine frameBad_good ?_
    | with_reducible refine updSage_good ?_
    | with_reducible exact good_mk (by with_reducible assumption) rfl rfl rfl rfl rfl rfl
    | with_reducible split

theorem takeInfo_good {qq : List Instr} {s : State} {tail : List Byte → List Byte} (h1 : Good qq s) :
    Good qq (takeInfo s tail) := by
  delta takeInfo
  repeat' first
    | with_reducible assumption
    | with_reducible intro _
    | (extract_lets -underBinder +onlyGivenNames x; first | (refine good_cut (q := qq) (s := x) ?_ ?_; (on_goal 1 => subst x); (on_goal 2 => (intro _; clear_value x))) | (refine isStateFun (x := x) ?_; subst x) | (refine isStateFun2 (x := x) ?_; subst x) | clear_value x | subst x)
    | with_reducible refine frameBad_good ?_
    | with_reducible refine updSage_good ?_
    | with_reducible exact good_mk (by with_reducible assumption) rfl rfl rfl rfl rfl rfl
    | with_reducible split

theorem takeReserved_good {qq : List Instr} {s : State} (h1 : Good qq s) :
    Good qq (takeReserved s) := by
  delta takeReserved
  repeat' first
    | with_reducible assumption
    | with_reducible intro _
    | (extract_lets -underBinder +onlyGivenNames x; first | (refine good_cut (q := qq) (s := x) ?_ ?_; (on_goal 1 => subst x); (on_goal 2 => (intro _; clear_value x))) | (refine isStateFun (x := x) ?_; subst x) | (refine isStateFun2 (x := x) ?_; subst x) | clear_value x | subst x)
    | with_reducible refine updSage_good ?_
    | with_reducible refine frameBad_good ?_

theorem execBootWrite_good {qq : List Instr} {slot : BitVec 8} {off : BitVec 24} {len : BitVec 16} {data : List Byte} {crc : BitVec 32} {s : State} (h1 : Good qq s) :
    GoodR qq (execBootWrite slot off len data crc s) := by
  delta execBootWrite
  repeat' first
    | with_reducible assumption
    | with_reducible intro _
    | (extract_lets -underBinder +onlyGivenNames x; first | (refine good_cut (q := qq) (s := x) ?_ ?_; (on_goal 1 => subst x); (on_goal 2 => (intro _; clear_value x))) | clear_value x | subst x)
    | with_reducible refine goodR_next ?_
    | with_reducible refine takeWrite_good ?_
    | with_reducible split

theorem execBootStatus_good {qq : List Instr} {n : Nat} {s : State} (h1 : Good qq s) :
    GoodR qq (execBootStatus n s) := by
  delta execBootStatus
  repeat' first
    | with_reducible assumption
    | with_reducible intro _
    | with_reducible refine goodR_next ?_
    | with_reducible refine takeStatus_good ?_
    | with_reducible refine frameBad_good ?_
    | with_reducible split

theorem execBootClear_good {qq : List Instr} {body : List Byte} {crc : BitVec 32} {s : State} (h1 : Good qq s) :
    GoodR qq (execBootClear body crc s) := by
  delta execBootClear
  repeat' first
    | with_reducible assumption
    | with_reducible intro _
    | (extract_lets -underBinder +onlyGivenNames x; first | (refine good_cut (q := qq) (s := x) ?_ ?_; (on_goal 1 => subst x); (on_goal 2 => (intro _; clear_value x))) | (refine good_cutO (q := qq) (x := x) ?_ ?_; (on_goal 1 => subst x); (on_goal 2 => (intro _; clear_value x))) | (refine isP (x := x) ?_; subst x) | (refine isQ (x := x) ?_; subst x) | (refine isFab (x := x) ?_; subst x) | (refine isSram (x := x) ?_; subst x) | (refine isDram (x := x) ?_; subst x) | (refine isStateFun (x := x) ?_; subst x) | (refine isStateFun2 (x := x) ?_; subst x) | clear_value x | subst x)
    | with_reducible refine goodR_next ?_
    | with_reducible refine goodO_some ?_
    | with_reducible exact goodO_none
    | with_reducible refine takeClear_good ?_
    | with_reducible refine goodO_of ?_ (by with_reducible assumption)
    | with_reducible refine goodP_of ?_ (by with_reducible assumption)
    | with_reducible refine goodQ_of ?_ (by with_reducible assumption)
    | with_reducible refine goodR_of ?_ (by with_reducible assumption)
    | with_reducible exact good_mk (by with_reducible assumption) rfl rfl rfl rfl rfl rfl
    | dsimp -zeta only
    | with_reducible split

theorem execBootInfo_good {qq : List Instr} {n : Nat} {s : State} (h1 : Good qq s) :
    GoodR qq (execBootInfo n s) := by
  delta execBootInfo
  repeat' first
    | with_reducible assumption
    | with_reducible intro _
    | with_reducible refine goodR_next ?_
    | with_reducible refine takeInfo_good ?_
    | with_reducible refine frameBad_good ?_
    | with_reducible split

theorem execBootRelease_good {qq : List Instr} {body : List Byte} {crc : BitVec 32} {s : State} (h1 : Good qq s) :
    GoodR qq (execBootRelease body crc s) := by
  delta execBootRelease
  repeat' first
    | with_reducible assumption
    | with_reducible intro _
    | (extract_lets -underBinder +onlyGivenNames x; first | (refine good_cut (q := qq) (s := x) ?_ ?_; (on_goal 1 => subst x); (on_goal 2 => (intro _; clear_value x))) | (refine good_cutO (q := qq) (x := x) ?_ ?_; (on_goal 1 => subst x); (on_goal 2 => (intro _; clear_value x))) | (refine isP (x := x) ?_; subst x) | (refine isQ (x := x) ?_; subst x) | (refine isFab (x := x) ?_; subst x) | (refine isSram (x := x) ?_; subst x) | (refine isDram (x := x) ?_; subst x) | (refine isStateFun (x := x) ?_; subst x) | (refine isStateFun2 (x := x) ?_; subst x) | clear_value x | subst x)
    | with_reducible refine goodR_next ?_
    | with_reducible refine goodO_some ?_
    | with_reducible exact goodO_none
    | with_reducible refine takeRelease_good ?_
    | with_reducible refine goodO_of ?_ (by with_reducible assumption)
    | with_reducible refine goodP_of ?_ (by with_reducible assumption)
    | with_reducible refine goodQ_of ?_ (by with_reducible assumption)
    | with_reducible refine goodR_of ?_ (by with_reducible assumption)
    | with_reducible exact good_mk (by with_reducible assumption) rfl rfl rfl rfl rfl rfl
    | dsimp -zeta only
    | with_reducible split

theorem execBootReservedCmd_good {qq : List Instr} {cmd : BitVec 8} {s : State} (h1 : Good qq s) :
    GoodR qq (execBootReservedCmd cmd s) := by
  delta execBootReservedCmd
  repeat' first
    | with_reducible assumption
    | with_reducible intro _
    | with_reducible refine goodR_next ?_
    | with_reducible refine takeReserved_good ?_
    | with_reducible split

theorem execBootFrameTimeout_good {qq : List Instr} {s : State} (h1 : Good qq s) :
    GoodR qq (execBootFrameTimeout s) := by
  delta execBootFrameTimeout
  repeat' first
    | with_reducible assumption
    | with_reducible intro _
    | (extract_lets -underBinder +onlyGivenNames x; first | (refine good_cut (q := qq) (s := x) ?_ ?_; (on_goal 1 => subst x); (on_goal 2 => (intro _; clear_value x))) | (refine isStateFun (x := x) ?_; subst x) | (refine isStateFun2 (x := x) ?_; subst x) | clear_value x | subst x)
    | with_reducible refine goodR_next ?_
    | with_reducible refine updSage_good ?_
    | with_reducible exact good_mk (by with_reducible assumption) rfl rfl rfl rfl rfl rfl
    | with_reducible split

theorem execBootFrameApplied_good {qq : List Instr} {s : State} (h1 : Good qq s) :
    GoodR qq (execBootFrameApplied s) := by
  delta execBootFrameApplied
  repeat' first
    | with_reducible assumption
    | with_reducible intro _
    | (extract_lets -underBinder +onlyGivenNames x; first | (refine good_cut (q := qq) (s := x) ?_ ?_; (on_goal 1 => subst x); (on_goal 2 => (intro _; clear_value x))) | (refine isStateFun (x := x) ?_; subst x) | (refine isStateFun2 (x := x) ?_; subst x) | clear_value x | subst x)
    | with_reducible refine goodR_next ?_
    | with_reducible refine updSage_good ?_
    | with_reducible exact good_mk (by with_reducible assumption) rfl rfl rfl rfl rfl rfl
    | with_reducible split

theorem execPushAbandon_good {qq : List Instr} {s : State} (h1 : Good qq s) :
    GoodR qq (execPushAbandon s) := by
  delta execPushAbandon
  repeat' first
    | with_reducible assumption
    | with_reducible intro _
    | (extract_lets -underBinder +onlyGivenNames x; first | (refine good_cut (q := qq) (s := x) ?_ ?_; (on_goal 1 => subst x); (on_goal 2 => (intro _; clear_value x))) | (refine isStateFun (x := x) ?_; subst x) | (refine isStateFun2 (x := x) ?_; subst x) | clear_value x | subst x)
    | with_reducible refine goodR_next ?_
    | with_reducible refine updSage_good ?_
    | with_reducible refine zeroSlots_good ?_
    | with_reducible exact good_mk (by with_reducible assumption) rfl rfl rfl rfl rfl rfl
    | with_reducible split

theorem bar0Write_good {qq : List Instr} {s : State} {off : Nat} {data : List Byte} (h1 : Good qq s) :
    Good qq (bar0Write s off data) := by
  delta bar0Write
  repeat' first
    | with_reducible assumption
    | with_reducible intro _
    | (extract_lets -underBinder +onlyGivenNames x; first | (refine good_cut (q := qq) (s := x) ?_ ?_; (on_goal 1 => subst x); (on_goal 2 => (intro _; clear_value x))) | (refine good_cutO (q := qq) (x := x) ?_ ?_; (on_goal 1 => subst x); (on_goal 2 => (intro _; clear_value x))) | (refine isP (x := x) ?_; subst x) | (refine isQ (x := x) ?_; subst x) | (refine isFab (x := x) ?_; subst x) | (refine isSram (x := x) ?_; subst x) | (refine isDram (x := x) ?_; subst x) | (refine isStateFun (x := x) ?_; subst x) | (refine isStateFun2 (x := x) ?_; subst x) | clear_value x | subst x)
    | with_reducible refine goodR_next ?_
    | with_reducible refine goodO_some ?_
    | with_reducible exact goodO_none
    | with_reducible refine frameBad_good ?_
    | with_reducible refine slotStore_good ?_
    | with_reducible refine updSage_good ?_
    | with_reducible refine goodO_of ?_ (by with_reducible assumption)
    | with_reducible refine goodP_of ?_ (by with_reducible assumption)
    | with_reducible refine goodQ_of ?_ (by with_reducible assumption)
    | with_reducible refine goodR_of ?_ (by with_reducible assumption)
    | with_reducible exact good_mk (by with_reducible assumption) rfl rfl rfl rfl rfl rfl
    | dsimp -zeta only
    | with_reducible split

theorem bar2Clear_good {qq : List Instr} {s : State} {v : Nat} (h1 : Good qq s) :
    Good qq (bar2Clear s v) := by
  delta bar2Clear
  repeat' first
    | with_reducible assumption
    | with_reducible intro _
    | (extract_lets -underBinder +onlyGivenNames x; first | (refine good_cut (q := qq) (s := x) ?_ ?_; (on_goal 1 => subst x); (on_goal 2 => (intro _; clear_value x))) | (refine good_cutO (q := qq) (x := x) ?_ ?_; (on_goal 1 => subst x); (on_goal 2 => (intro _; clear_value x))) | (refine isP (x := x) ?_; subst x) | (refine isQ (x := x) ?_; subst x) | (refine isFab (x := x) ?_; subst x) | (refine isSram (x := x) ?_; subst x) | (refine isDram (x := x) ?_; subst x) | (refine isStateFun (x := x) ?_; subst x) | (refine isStateFun2 (x := x) ?_; subst x) | clear_value x | subst x)
    | with_reducible refine goodR_next ?_
    | with_reducible refine goodO_some ?_
    | with_reducible exact goodO_none
    | with_reducible refine frameBad_good ?_
    | with_reducible refine updSage_good ?_
    | with_reducible refine zeroSlot_good ?_
    | with_reducible refine goodO_of ?_ (by with_reducible assumption)
    | with_reducible refine goodP_of ?_ (by with_reducible assumption)
    | with_reducible refine goodQ_of ?_ (by with_reducible assumption)
    | with_reducible refine goodR_of ?_ (by with_reducible assumption)
    | with_reducible exact good_mk (by with_reducible assumption) rfl rfl rfl rfl rfl rfl
    | dsimp -zeta only
    | with_reducible split

theorem bar2Release_good {qq : List Instr} {s : State} {v : Nat} (h1 : Good qq s) :
    Good qq (bar2Release s v) := by
  delta bar2Release
  repeat' first
    | with_reducible assumption
    | with_reducible intro _
    | (extract_lets -underBinder +onlyGivenNames x; first | (refine good_cut (q := qq) (s := x) ?_ ?_; (on_goal 1 => subst x); (on_goal 2 => (intro _; clear_value x))) | (refine good_cutO (q := qq) (x := x) ?_ ?_; (on_goal 1 => subst x); (on_goal 2 => (intro _; clear_value x))) | (refine isP (x := x) ?_; subst x) | (refine isQ (x := x) ?_; subst x) | (refine isFab (x := x) ?_; subst x) | (refine isSram (x := x) ?_; subst x) | (refine isDram (x := x) ?_; subst x) | (refine isStateFun (x := x) ?_; subst x) | (refine isStateFun2 (x := x) ?_; subst x) | clear_value x | subst x)
    | with_reducible refine goodR_next ?_
    | with_reducible refine goodO_some ?_
    | with_reducible exact goodO_none
    | with_reducible refine frameBad_good ?_
    | with_reducible refine updSage_good ?_
    | with_reducible refine goodO_of ?_ (by with_reducible assumption)
    | with_reducible refine goodP_of ?_ (by with_reducible assumption)
    | with_reducible refine goodQ_of ?_ (by with_reducible assumption)
    | with_reducible refine goodR_of ?_ (by with_reducible assumption)
    | with_reducible exact good_mk (by with_reducible assumption) rfl rfl rfl rfl rfl rfl
    | dsimp -zeta only
    | with_reducible split

theorem execPcieBootWrite_good {qq : List Instr} {off : BitVec 23} {data : List Byte} {s : State} (h1 : Good qq s) :
    GoodR qq (execPcieBootWrite off data s) := by
  delta execPcieBootWrite
  repeat' first
    | with_reducible assumption
    | with_reducible intro _
    | (extract_lets -underBinder +onlyGivenNames x; first | (refine good_cut (q := qq) (s := x) ?_ ?_; (on_goal 1 => subst x); (on_goal 2 => (intro _; clear_value x))) | (refine good_cutO (q := qq) (x := x) ?_ ?_; (on_goal 1 => subst x); (on_goal 2 => (intro _; clear_value x))) | (refine isP (x := x) ?_; subst x) | (refine isQ (x := x) ?_; subst x) | (refine isFab (x := x) ?_; subst x) | (refine isSram (x := x) ?_; subst x) | (refine isDram (x := x) ?_; subst x) | (refine isStateFun (x := x) ?_; subst x) | (refine isStateFun2 (x := x) ?_; subst x) | clear_value x | subst x)
    | with_reducible refine goodR_next ?_
    | with_reducible refine goodO_some ?_
    | with_reducible exact goodO_none
    | with_reducible refine bar0Write_good ?_

theorem execPcieBootClear_good {qq : List Instr} {v : BitVec 32} {s : State} (h1 : Good qq s) :
    GoodR qq (execPcieBootClear v s) := by
  delta execPcieBootClear
  repeat' first
    | with_reducible assumption
    | with_reducible intro _
    | (extract_lets -underBinder +onlyGivenNames x; first | (refine good_cut (q := qq) (s := x) ?_ ?_; (on_goal 1 => subst x); (on_goal 2 => (intro _; clear_value x))) | (refine good_cutO (q := qq) (x := x) ?_ ?_; (on_goal 1 => subst x); (on_goal 2 => (intro _; clear_value x))) | (refine isP (x := x) ?_; subst x) | (refine isQ (x := x) ?_; subst x) | (refine isFab (x := x) ?_; subst x) | (refine isSram (x := x) ?_; subst x) | (refine isDram (x := x) ?_; subst x) | (refine isStateFun (x := x) ?_; subst x) | (refine isStateFun2 (x := x) ?_; subst x) | clear_value x | subst x)
    | with_reducible refine goodR_next ?_
    | with_reducible refine goodO_some ?_
    | with_reducible exact goodO_none
    | with_reducible refine bar2Clear_good ?_

theorem execPcieBootRelease_good {qq : List Instr} {v : BitVec 32} {s : State} (h1 : Good qq s) :
    GoodR qq (execPcieBootRelease v s) := by
  delta execPcieBootRelease
  repeat' first
    | with_reducible assumption
    | with_reducible intro _
    | (extract_lets -underBinder +onlyGivenNames x; first | (refine good_cut (q := qq) (s := x) ?_ ?_; (on_goal 1 => subst x); (on_goal 2 => (intro _; clear_value x))) | (refine good_cutO (q := qq) (x := x) ?_ ?_; (on_goal 1 => subst x); (on_goal 2 => (intro _; clear_value x))) | (refine isP (x := x) ?_; subst x) | (refine isQ (x := x) ?_; subst x) | (refine isFab (x := x) ?_; subst x) | (refine isSram (x := x) ?_; subst x) | (refine isDram (x := x) ?_; subst x) | (refine isStateFun (x := x) ?_; subst x) | (refine isStateFun2 (x := x) ?_; subst x) | clear_value x | subst x)
    | with_reducible refine goodR_next ?_
    | with_reducible refine goodO_some ?_
    | with_reducible exact goodO_none
    | with_reducible refine bar2Release_good ?_

theorem execTylBoot_good {qq : List Instr} {f : List Byte} {s : State} (h1 : Good qq s) :
    GoodR qq (execTylBoot f s) := by
  delta execTylBoot
  repeat' first
    | with_reducible assumption
    | with_reducible intro _
    | (extract_lets -underBinder +onlyGivenNames x; first | (refine good_cut (q := qq) (s := x) ?_ ?_; (on_goal 1 => subst x); (on_goal 2 => (intro _; clear_value x))) | (refine good_cutO (q := qq) (x := x) ?_ ?_; (on_goal 1 => subst x); (on_goal 2 => (intro _; clear_value x))) | (refine isP (x := x) ?_; subst x) | (refine isQ (x := x) ?_; subst x) | (refine isFab (x := x) ?_; subst x) | (refine isSram (x := x) ?_; subst x) | (refine isDram (x := x) ?_; subst x) | (refine isStateFun (x := x) ?_; subst x) | (refine isStateFun2 (x := x) ?_; subst x) | clear_value x | subst x)
    | with_reducible refine goodR_next ?_
    | with_reducible refine goodO_some ?_
    | with_reducible exact goodO_none
    | with_reducible refine frameBad_good ?_
    | with_reducible refine takeWrite_good ?_
    | with_reducible refine takeStatus_good ?_
    | with_reducible refine takeClear_good ?_
    | with_reducible refine takeInfo_good ?_
    | with_reducible refine takeRelease_good ?_
    | with_reducible refine takeReserved_good ?_
    | with_reducible refine goodO_of ?_ (by with_reducible assumption)
    | with_reducible refine goodP_of ?_ (by with_reducible assumption)
    | with_reducible refine goodQ_of ?_ (by with_reducible assumption)
    | with_reducible refine goodR_of ?_ (by with_reducible assumption)
    | with_reducible exact good_mk (by with_reducible assumption) rfl rfl rfl rfl rfl rfl
    | dsimp -zeta only
    | with_reducible split

theorem imgOpen_good {qq : List Instr} {s : State} {b : Bool} (h1 : Good qq s) :
    Good qq (imgOpen s b) := by
  delta imgOpen
  repeat' first
    | with_reducible assumption
    | with_reducible intro _
    | (extract_lets -underBinder +onlyGivenNames x; first | (refine good_cut (q := qq) (s := x) ?_ ?_; (on_goal 1 => subst x); (on_goal 2 => (intro _; clear_value x))) | clear_value x | subst x)
    | with_reducible refine slotStore_good ?_
    | with_reducible split

theorem lcBurn_good {qq : List Instr} {s : State} {tgt : Nat} (h1 : Good qq s) :
    Good qq (lcBurn s tgt) := by
  delta lcBurn
  repeat' first
    | with_reducible assumption
    | with_reducible intro _
    | (extract_lets -underBinder +onlyGivenNames x; first | (refine good_cut (q := qq) (s := x) ?_ ?_; (on_goal 1 => subst x); (on_goal 2 => (intro _; clear_value x))) | (refine isStateFun (x := x) ?_; subst x) | (refine isStateFun2 (x := x) ?_; subst x) | clear_value x | subst x)
    | with_reducible refine wipeSecure_good ?_
    | with_reducible refine updSage_good ?_

theorem fillLcyc_good {qq : List Instr} {s : State} {b : Bool} {regA regB : Nat} {tie : Bool} {us : Nat} (h1 : Good qq s) :
    Good qq (fillLcyc s b regA regB tie us) := by
  delta fillLcyc
  repeat' first
    | with_reducible assumption
    | with_reducible intro _
    | (extract_lets -underBinder +onlyGivenNames x; first | (refine good_cut (q := qq) (s := x) ?_ ?_; (on_goal 1 => subst x); (on_goal 2 => (intro _; clear_value x))) | (refine isStateFun (x := x) ?_; subst x) | (refine isStateFun2 (x := x) ?_; subst x) | (refine isStateFun3 (x := x) ?_; subst x) | clear_value x | subst x)
    | with_reducible refine wr_good ?_

theorem startCore_good {qq : List Instr} {s : State} {n : Fin 24} {entry : Nat} (h1 : Good qq s) :
    Good qq (startCore s n entry) := by
  delta startCore
  repeat' first
    | with_reducible assumption
    | with_reducible intro _
    | (extract_lets -underBinder +onlyGivenNames x; first | (refine good_cut (q := qq) (s := x) ?_ ?_; (on_goal 1 => subst x); (on_goal 2 => (intro _; clear_value x))) | (refine good_cutO (q := qq) (x := x) ?_ ?_; (on_goal 1 => subst x); (on_goal 2 => (intro _; clear_value x))) | (refine isP (x := x) ?_; subst x) | (refine isQ (x := x) ?_; subst x) | (refine isFab (x := x) ?_; subst x) | (refine isSram (x := x) ?_; subst x) | (refine isDram (x := x) ?_; subst x) | (refine isStateFun (x := x) ?_; subst x) | (refine isStateFun2 (x := x) ?_; subst x) | clear_value x | subst x)
    | with_reducible refine goodR_next ?_
    | with_reducible refine goodO_some ?_
    | with_reducible exact goodO_none
    | with_reducible refine updCore_good ?_
    | with_reducible refine goodO_of ?_ (by with_reducible assumption)
    | with_reducible refine goodP_of ?_ (by with_reducible assumption)
    | with_reducible refine goodQ_of ?_ (by with_reducible assumption)
    | with_reducible refine goodR_of ?_ (by with_reducible assumption)
    | with_reducible exact good_mk (by with_reducible assumption) rfl rfl rfl rfl rfl rfl

theorem handover_good {qq : List Instr} {s : State} {b : Bool} {regA : Nat} {regB : Nat} {tie : Bool} {us : Nat} (h1 : Good qq s) :
    Good qq (handover s b regA regB tie us) := by
  delta handover
  repeat' first
    | with_reducible assumption
    | with_reducible intro _
    | (extract_lets -underBinder +onlyGivenNames x; first | (refine good_cut (q := qq) (s := x) ?_ ?_; (on_goal 1 => subst x); (on_goal 2 => (intro _; clear_value x))) | (refine good_cutO (q := qq) (x := x) ?_ ?_; (on_goal 1 => subst x); (on_goal 2 => (intro _; clear_value x))) | (refine isP (x := x) ?_; subst x) | (refine isQ (x := x) ?_; subst x) | (refine isFab (x := x) ?_; subst x) | (refine isSram (x := x) ?_; subst x) | (refine isDram (x := x) ?_; subst x) | (refine isStateFun (x := x) ?_; subst x) | (refine isStateFun2 (x := x) ?_; subst x) | clear_value x | subst x)
    | with_reducible refine goodR_next ?_
    | with_reducible refine goodO_some ?_
    | with_reducible exact goodO_none
    | with_reducible refine zeroSlot_good ?_
    | with_reducible refine setSramBytes_good ?_
    | with_reducible refine zeroBytes_good ?_
    | with_reducible refine fillLcyc_good ?_
    | with_reducible refine startCore_good ?_
    | with_reducible refine resetEngine_good ?_
    | with_reducible refine updSage_good ?_
    | with_reducible refine good_foldl ?_ ?_

theorem execImageChoice_good {qq : List Instr} {us : Nat} {cut : Bool} {s : State} (h1 : Good qq s) :
    GoodR qq (execImageChoice us cut s) := by
  delta execImageChoice
  repeat' first
    | with_reducible assumption
    | with_reducible intro _
    | (extract_lets -underBinder +onlyGivenNames x; first | (refine good_cut (q := qq) (s := x) ?_ ?_; (on_goal 1 => subst x); (on_goal 2 => (intro _; clear_value x))) | (refine isStateFun (x := x) ?_; subst x) | (refine isStateFun2 (x := x) ?_; subst x) | clear_value x | subst x)
    | with_reducible refine goodR_next ?_
    | with_reducible refine imgOpen_good ?_
    | with_reducible refine updSage_good ?_
    | with_reducible refine sageHalt_good ?_
    | with_reducible refine handover_good ?_
    | with_reducible refine lcBurn_good ?_
    | with_reducible exact good_mk (by with_reducible assumption) rfl rfl rfl rfl rfl rfl
    | with_reducible split

theorem execBootRetryResume_good {qq : List Instr} {s : State} (h1 : Good qq s) :
    GoodR qq (execBootRetryResume s) := by
  delta execBootRetryResume
  repeat' first
    | with_reducible assumption
    | with_reducible intro _
    | (extract_lets -underBinder +onlyGivenNames x; first | (refine good_cut (q := qq) (s := x) ?_ ?_; (on_goal 1 => subst x); (on_goal 2 => (intro _; clear_value x))) | (refine isStateFun (x := x) ?_; subst x) | (refine isStateFun2 (x := x) ?_; subst x) | clear_value x | subst x)
    | with_reducible refine goodR_next ?_
    | with_reducible refine updSage_good ?_
    | with_reducible refine wipeSecure_good ?_
    | with_reducible refine zeroSlots_good ?_
    | with_reducible exact good_mk (by with_reducible assumption) rfl rfl rfl rfl rfl rfl
    | with_reducible split

theorem tamper_good {qq : List Instr} {s : State} {i : Nat} (h1 : Good qq s) :
    Good qq (tamper s i) := by
  delta tamper
  repeat' first
    | with_reducible assumption
    | with_reducible intro _
    | (extract_lets -underBinder +onlyGivenNames x; first | (refine good_cut (q := qq) (s := x) ?_ ?_; (on_goal 1 => subst x); (on_goal 2 => (intro _; clear_value x))) | (refine good_cutO (q := qq) (x := x) ?_ ?_; (on_goal 1 => subst x); (on_goal 2 => (intro _; clear_value x))) | (refine isP (x := x) ?_; subst x) | (refine isQ (x := x) ?_; subst x) | (refine isFab (x := x) ?_; subst x) | (refine isSram (x := x) ?_; subst x) | (refine isDram (x := x) ?_; subst x) | (refine isStateFun (x := x) ?_; subst x) | (refine isStateFun2 (x := x) ?_; subst x) | clear_value x | subst x)
    | with_reducible refine goodR_next ?_
    | with_reducible refine goodO_some ?_
    | with_reducible exact goodO_none
    | with_reducible refine wipeSecure_good ?_
    | with_reducible refine bumpF_good ?_
    | with_reducible refine wrB_good ?_
    | with_reducible refine recUnstated_good ?_
    | with_reducible refine setIrq_good ?_
    | with_reducible refine sageHalt_good ?_
    | with_reducible refine goodO_of ?_ (by with_reducible assumption)
    | with_reducible refine goodP_of ?_ (by with_reducible assumption)
    | with_reducible refine goodQ_of ?_ (by with_reducible assumption)
    | with_reducible refine goodR_of ?_ (by with_reducible assumption)
    | with_reducible exact good_mk (by with_reducible assumption) rfl rfl rfl rfl rfl rfl
    | dsimp -zeta only
    | with_reducible split

theorem execTamperEvent_good {qq : List Instr} {i : Fin 3} {s : State} (h1 : Good qq s) :
    GoodR qq (execTamperEvent i s) := by
  delta execTamperEvent
  repeat' first
    | with_reducible assumption
    | with_reducible intro _
    | with_reducible refine goodR_next ?_
    | with_reducible refine tamper_good ?_
    | with_reducible split

theorem execFuseReread_good {qq : List Instr} {bad : Bool} {s : State} (h1 : Good qq s) :
    GoodR qq (execFuseReread bad s) := by
  delta execFuseReread
  repeat' first
    | with_reducible assumption
    | with_reducible intro _
    | with_reducible refine goodR_next ?_
    | with_reducible refine tamper_good ?_
    | with_reducible split

theorem execSecureWipeDone_good {qq : List Instr} {s : State} (h1 : Good qq s) :
    GoodR qq (execSecureWipeDone s) := by
  delta execSecureWipeDone
  repeat' first
    | with_reducible assumption
    | with_reducible intro _
    | (extract_lets -underBinder +onlyGivenNames x; first | (refine good_cut (q := qq) (s := x) ?_ ?_; (on_goal 1 => subst x); (on_goal 2 => (intro _; clear_value x))) | (refine isStateFun (x := x) ?_; subst x) | (refine isStateFun2 (x := x) ?_; subst x) | clear_value x | subst x)
    | with_reducible refine goodR_next ?_
    | with_reducible refine updSage_good ?_

theorem execScuLockstepMismatch_good {qq : List Instr} {s : State} (h1 : Good qq s) :
    GoodR qq (execScuLockstepMismatch s) := by
  delta execScuLockstepMismatch
  repeat' first
    | with_reducible assumption
    | with_reducible intro _
    | (extract_lets -underBinder +onlyGivenNames x; first | (refine good_cut (q := qq) (s := x) ?_ ?_; (on_goal 1 => subst x); (on_goal 2 => (intro _; clear_value x))) | clear_value x | subst x)
    | with_reducible refine goodR_next ?_
    | with_reducible refine sageHalt_good ?_
    | with_reducible refine recUnstated_good ?_
    | with_reducible split

end Sys2Proof.Machine
end

