-- ==== Sys2Proof/Laws/KeepPcie.lean ====
section
/-!
SUPPORT. Laws/KeepPcie.lean: every operation of Machine/Pcie.lean keeps the queue and the invariant.
-/

namespace Sys2Proof.Machine

theorem updPcie_good {qq : List Instr} {s : State} {c : Fin 4} {f : Pcie → Pcie} (h1 : Good qq s) :
    Good qq (updPcie s c f) := by
  delta updPcie
  repeat' first
    | with_reducible assumption
    | with_reducible intro _
    | (extract_lets -underBinder +onlyGivenNames x; first | (refine good_cut (q := qq) (s := x) ?_ ?_; (on_goal 1 => subst x); (on_goal 2 => (intro _; clear_value x))) | clear_value x | subst x)
    | with_reducible exact good_mk (by with_reducible assumption) rfl rfl rfl rfl rfl rfl

theorem pciAnswer_good {qq : List Instr} {s : State} {c : Fin 4} {a : PciAns} (h1 : Good qq s) :
    Good qq (pciAnswer s c a) := by
  delta pciAnswer
  repeat' first
    | with_reducible assumption
    | with_reducible intro _
    | (extract_lets -underBinder +onlyGivenNames x; first | (refine good_cut (q := qq) (s := x) ?_ ?_; (on_goal 1 => subst x); (on_goal 2 => (intro _; clear_value x))) | (refine isStateFun (x := x) ?_; subst x) | (refine isStateFun2 (x := x) ?_; subst x) | clear_value x | subst x)
    | with_reducible refine updPcie_good ?_

theorem aerErr_good {qq : List Instr} {s : State} {c : Fin 4} {i : Nat} (h1 : Good qq s) :
    Good qq (aerErr s c i) := by
  delta aerErr
  repeat' first
    | with_reducible assumption
    | with_reducible intro _
    | (extract_lets -underBinder +onlyGivenNames x; first | (refine good_cut (q := qq) (s := x) ?_ ?_; (on_goal 1 => subst x); (on_goal 2 => (intro _; clear_value x))) | (refine isStateFun (x := x) ?_; subst x) | (refine isStateFun2 (x := x) ?_; subst x) | clear_value x | subst x)
    | with_reducible refine setIrq_good ?_
    | with_reducible refine updPcie_good ?_

theorem cplErr_good {qq : List Instr} {s : State} {c : Fin 4} {id : Nat} (h1 : Good qq s) :
    Good qq (cplErr s c id) := by
  delta cplErr
  repeat' first
    | with_reducible assumption
    | with_reducible intro _
    | (extract_lets -underBinder +onlyGivenNames x; first | (refine good_cut (q := qq) (s := x) ?_ ?_; (on_goal 1 => subst x); (on_goal 2 => (intro _; clear_value x))) | (refine isStateFun (x := x) ?_; subst x) | (refine isStateFun2 (x := x) ?_; subst x) | clear_value x | subst x)
    | with_reducible refine updPcie_good ?_
    | with_reducible refine recordErr_good ?_
    | with_reducible refine answerTxn_good ?_
    | with_reducible refine goodO_getD ?_ ?_
    | with_reducible exact good_mk (by with_reducible assumption) rfl rfl rfl rfl rfl rfl
    | with_reducible split

theorem rootCfg_good {qq : List Instr} {s : State} {c : Fin 4} {t : Txn} {x : Nat} (h1 : Good qq s) :
    Good qq (rootCfg s c t x) := by
  delta rootCfg
  repeat' first
    | with_reducible assumption
    | with_reducible intro _
    | (extract_lets -underBinder +onlyGivenNames x; first | (refine good_cut (q := qq) (s := x) ?_ ?_; (on_goal 1 => subst x); (on_goal 2 => (intro _; clear_value x))) | (refine good_cutO (q := qq) (x := x) ?_ ?_; (on_goal 1 => subst x); (on_goal 2 => (intro _; clear_value x))) | (refine isP (x := x) ?_; subst x) | (refine isQ (x := x) ?_; subst x) | (refine isFab (x := x) ?_; subst x) | (refine isSram (x := x) ?_; subst x) | (refine isDram (x := x) ?_; subst x) | (refine isStateFun (x := x) ?_; subst x) | (refine isStateFun2 (x := x) ?_; subst x) | clear_value x | subst x)
    | with_reducible refine goodR_next ?_
    | with_reducible refine goodO_some ?_
    | with_reducible exact goodO_none
    | with_reducible refine answerTxn_good ?_
    | with_reducible refine updPcie_good ?_
    | with_reducible refine freeVal_good ?_
    | with_reducible refine goodO_of ?_ (by with_reducible assumption)
    | with_reducible refine goodP_of ?_ (by with_reducible assumption)
    | with_reducible refine goodQ_of ?_ (by with_reducible assumption)
    | with_reducible refine goodR_of ?_ (by with_reducible assumption)
    | with_reducible exact good_mk (by with_reducible assumption) rfl rfl rfl rfl rfl rfl
    | dsimp -zeta only
    | with_reducible split

theorem execPcieOutboundRequest_good {qq : List Instr} {id : Nat} {s : State} (h1 : Good qq s) :
    GoodR qq (execPcieOutboundRequest id s) := by
  delta execPcieOutboundRequest
  repeat' first
    | with_reducible assumption
    | with_reducible intro _
    | (extract_lets -underBinder +onlyGivenNames x; first | (refine good_cut (q := qq) (s := x) ?_ ?_; (on_goal 1 => subst x); (on_goal 2 => (intro _; clear_value x))) | (refine good_cutO (q := qq) (x := x) ?_ ?_; (on_goal 1 => subst x); (on_goal 2 => (intro _; clear_value x))) | (refine isP (x := x) ?_; subst x) | (refine isQ (x := x) ?_; subst x) | (refine isFab (x := x) ?_; subst x) | (refine isSram (x := x) ?_; subst x) | (refine isDram (x := x) ?_; subst x) | (refine isStateFun (x := x) ?_; subst x) | (refine isStateFun2 (x := x) ?_; subst x) | clear_value x | subst x)
    | with_reducible refine goodR_next ?_
    | with_reducible refine goodO_some ?_
    | with_reducible exact goodO_none
    | with_reducible refine failTxn_good ?_
    | with_reducible refine rootCfg_good ?_
    | with_reducible refine updPcie_good ?_
    | with_reducible refine answerTxn_good ?_
    | with_reducible refine acceptTxn_good ?_
    | with_reducible refine goodO_of ?_ (by with_reducible assumption)
    | with_reducible refine goodP_of ?_ (by with_reducible assumption)
    | with_reducible refine goodQ_of ?_ (by with_reducible assumption)
    | with_reducible refine goodR_of ?_ (by with_reducible assumption)
    | with_reducible refine goodOP_of ?_ (by with_reducible assumption)
    | with_reducible refine goodOQ_of ?_ (by with_reducible assumption)
    | with_reducible exact good_mk (by with_reducible assumption) rfl rfl rfl rfl rfl rfl
    | dsimp -zeta only
    | with_reducible split

theorem execPcieCompletion_good {qq : List Instr} {c : Fin 4} {id : Nat} {st : Fin 3} {poison : Bool} {data : Nat} {s : State} (h1 : Good qq s) :
    GoodR qq (execPcieCompletion c id st poison data s) := by
  delta execPcieCompletion
  repeat' first
    | with_reducible assumption
    | with_reducible intro _
    | (extract_lets -underBinder +onlyGivenNames x; first | (refine good_cut (q := qq) (s := x) ?_ ?_; (on_goal 1 => subst x); (on_goal 2 => (intro _; clear_value x))) | (refine isStateFun (x := x) ?_; subst x) | (refine isStateFun2 (x := x) ?_; subst x) | clear_value x | subst x)
    | with_reducible refine goodR_next ?_
    | with_reducible refine cplErr_good ?_
    | with_reducible refine updPcie_good ?_
    | with_reducible refine answerTxn_good ?_
    | with_reducible exact good_mk (by with_reducible assumption) rfl rfl rfl rfl rfl rfl
    | with_reducible split

theorem execPcieCompletionTimeout_good {qq : List Instr} {c : Fin 4} {id : Nat} {s : State} (h1 : Good qq s) :
    GoodR qq (execPcieCompletionTimeout c id s) := by
  delta execPcieCompletionTimeout
  repeat' first
    | with_reducible assumption
    | with_reducible intro _
    | with_reducible refine goodR_next ?_
    | with_reducible refine cplErr_good ?_
    | with_reducible split

theorem execPcieLinkUp_good {qq : List Instr} {c : Fin 4} {width : Fin 4} {gen : Fin 8} {s : State} (h1 : Good qq s) :
    GoodR qq (execPcieLinkUp c width gen s) := by
  delta execPcieLinkUp
  repeat' first
    | with_reducible assumption
    | with_reducible intro _
    | (extract_lets -underBinder +onlyGivenNames x; first | (refine good_cut (q := qq) (s := x) ?_ ?_; (on_goal 1 => subst x); (on_goal 2 => (intro _; clear_value x))) | (refine good_cutO (q := qq) (x := x) ?_ ?_; (on_goal 1 => subst x); (on_goal 2 => (intro _; clear_value x))) | (refine isP (x := x) ?_; subst x) | (refine isQ (x := x) ?_; subst x) | (refine isFab (x := x) ?_; subst x) | (refine isSram (x := x) ?_; subst x) | (refine isDram (x := x) ?_; subst x) | (refine isStateFun (x := x) ?_; subst x) | (refine isStateFun2 (x := x) ?_; subst x) | clear_value x | subst x)
    | with_reducible refine goodR_next ?_
    | with_reducible refine goodO_some ?_
    | with_reducible exact goodO_none
    | with_reducible refine setIrq_good ?_
    | with_reducible refine wr_good ?_
    | with_reducible refine bootReady_good ?_
    | with_reducible refine goodO_of ?_ (by with_reducible assumption)
    | with_reducible refine goodP_of ?_ (by with_reducible assumption)
    | with_reducible refine goodQ_of ?_ (by with_reducible assumption)
    | with_reducible refine goodR_of ?_ (by with_reducible assumption)
    | with_reducible exact good_mk (by with_reducible assumption) rfl rfl rfl rfl rfl rfl
    | dsimp -zeta only
    | with_reducible split

theorem pceDown_good {qq : List Instr} {s : State} {c : Fin 4} {link : Nat} (h1 : Good qq s) :
    Good qq (pceDown s c link) := by
  delta pceDown
  repeat' first
    | with_reducible assumption
    | with_reducible intro _
    | (extract_lets -underBinder +onlyGivenNames x; first | (refine good_cut (q := qq) (s := x) ?_ ?_; (on_goal 1 => subst x); (on_goal 2 => (intro _; clear_value x))) | (refine isStateFun (x := x) ?_; subst x) | (refine isStateFun2 (x := x) ?_; subst x) | clear_value x | subst x)
    | with_reducible refine cplErr_good ?_
    | with_reducible refine wr_good ?_
    | with_reducible refine setIrq_good ?_
    | with_reducible refine good_foldl ?_ ?_
    | with_reducible refine good_foldlP ?_ ?_
    | with_reducible split

theorem execPcieLinkDown_good {qq : List Instr} {c : Fin 4} {s : State} (h1 : Good qq s) :
    GoodR qq (execPcieLinkDown c s) := by
  delta execPcieLinkDown
  repeat' first
    | with_reducible assumption
    | with_reducible intro _
    | with_reducible refine goodR_next ?_
    | with_reducible refine pceDown_good ?_
    | with_reducible split

theorem msiWrite_good {qq : List Instr} {s : State} {c : Fin 4} {off len data : Nat} (h1 : Good qq s) :
    Good qq (msiWrite s c off len data) := by
  delta msiWrite
  repeat' first
    | with_reducible assumption
    | with_reducible intro _
    | with_reducible refine sendMsg_good ?_
    | with_reducible refine recCorrected_good ?_
    | with_reducible refine setIrq_good ?_
    | with_reducible refine bumpF_good ?_
    | with_reducible split

theorem noMap_good {qq : List Instr} {s : State} {c : Fin 4} {isW aer : Bool} {key : Nat} (h1 : Good qq s) :
    Good qq (noMap s c isW aer key) := by
  delta noMap
  repeat' first
    | with_reducible assumption
    | with_reducible intro _
    | (extract_lets -underBinder +onlyGivenNames x; first | (refine good_cut (q := qq) (s := x) ?_ ?_; (on_goal 1 => subst x); (on_goal 2 => (intro _; clear_value x))) | clear_value x | subst x)
    | with_reducible refine pciAnswer_good ?_
    | with_reducible refine recInternal_good ?_
    | with_reducible refine aerErr_good ?_
    | with_reducible split

theorem pcePost_good {qq : List Instr} {s : State} {c : Fin 4} {isW : Bool} {a len data pid : Nat} (h1 : Good qq s) :
    Good qq (pcePost s c isW a len data pid) := by
  delta pcePost
  repeat' first
    | with_reducible assumption
    | with_reducible intro _
    | (extract_lets -underBinder +onlyGivenNames x; first | (refine good_cut (q := qq) (s := x) ?_ ?_; (on_goal 1 => subst x); (on_goal 2 => (intro _; clear_value x))) | (refine isFab (x := x) ?_; subst x) | (refine isStateFun (x := x) ?_; subst x) | (refine isStateFun2 (x := x) ?_; subst x) | clear_value x | subst x)
    | with_reducible refine goodR_next ?_
    | with_reducible refine ingressOf_good ?_
    | with_reducible refine postReq_good ?_
    | with_reducible refine good_foldl ?_ ?_

theorem bootRead_good {qq : List Instr} {s : State} {bar2 : Bool} {off len : Nat} (h1 : Good qq s) :
    Good qq (bootRead s bar2 off len) := by
  delta bootRead
  repeat' first
    | with_reducible assumption
    | with_reducible intro _
    | (extract_lets -underBinder +onlyGivenNames x; first | (refine good_cut (q := qq) (s := x) ?_ ?_; (on_goal 1 => subst x); (on_goal 2 => (intro _; clear_value x))) | (refine isStateFun (x := x) ?_; subst x) | (refine isStateFun2 (x := x) ?_; subst x) | clear_value x | subst x)
    | with_reducible refine takeStatus_good ?_
    | with_reducible refine pciAnswer_good ?_
    | with_reducible split

theorem bootBarWrite_good {qq : List Instr} {s : State} {bar2 : Bool} {off : Nat} {len : Nat} {data : Nat} (h1 : Good qq s) :
    Good qq (bootBarWrite s bar2 off len data) := by
  delta bootBarWrite
  repeat' first
    | with_reducible assumption
    | with_reducible intro _
    | (extract_lets -underBinder +onlyGivenNames x; first | (refine good_cut (q := qq) (s := x) ?_ ?_; (on_goal 1 => subst x); (on_goal 2 => (intro _; clear_value x))) | (refine good_cutO (q := qq) (x := x) ?_ ?_; (on_goal 1 => subst x); (on_goal 2 => (intro _; clear_value x))) | (refine isP (x := x) ?_; subst x) | (refine isQ (x := x) ?_; subst x) | (refine isFab (x := x) ?_; subst x) | (refine isSram (x := x) ?_; subst x) | (refine isDram (x := x) ?_; subst x) | (refine isStateFun (x := x) ?_; subst x) | (refine isStateFun2 (x := x) ?_; subst x) | clear_value x | subst x)
    | with_reducible refine goodR_next ?_
    | with_reducible refine goodO_some ?_
    | with_reducible exact goodO_none
    | with_reducible refine bar0Write_good ?_
    | with_reducible refine bar2Clear_good ?_
    | with_reducible refine bar2Release_good ?_
    | with_reducible refine goodO_of ?_ (by with_reducible assumption)
    | with_reducible refine goodP_of ?_ (by with_reducible assumption)
    | with_reducible refine goodQ_of ?_ (by with_reducible assumption)
    | with_reducible refine goodR_of ?_ (by with_reducible assumption)
    | with_reducible exact good_mk (by with_reducible assumption) rfl rfl rfl rfl rfl rfl
    | dsimp -zeta only
    | with_reducible split

theorem msixPut_good {qq : List Instr} {c : Fin 4} {fn : Fin 4} {s : State} {e : Nat × Byte} (h1 : Good qq s) :
    Good qq (msixPut c fn s e) := by
  delta msixPut
  repeat' first
    | with_reducible assumption
    | with_reducible intro _
    | (extract_lets -underBinder +onlyGivenNames x; first | (refine good_cut (q := qq) (s := x) ?_ ?_; (on_goal 1 => subst x); (on_goal 2 => (intro _; clear_value x))) | (refine good_cutO (q := qq) (x := x) ?_ ?_; (on_goal 1 => subst x); (on_goal 2 => (intro _; clear_value x))) | (refine isP (x := x) ?_; subst x) | (refine isQ (x := x) ?_; subst x) | (refine isFab (x := x) ?_; subst x) | (refine isSram (x := x) ?_; subst x) | (refine isDram (x := x) ?_; subst x) | (refine isStateFun (x := x) ?_; subst x) | (refine isStateFun2 (x := x) ?_; subst x) | clear_value x | subst x)
    | with_reducible refine goodR_next ?_
    | with_reducible refine goodO_some ?_
    | with_reducible exact goodO_none
    | with_reducible refine updPcie_good ?_
    | with_reducible refine goodO_of ?_ (by with_reducible assumption)
    | with_reducible refine goodP_of ?_ (by with_reducible assumption)
    | with_reducible refine goodQ_of ?_ (by with_reducible assumption)
    | with_reducible refine goodR_of ?_ (by with_reducible assumption)
    | with_reducible exact good_mk (by with_reducible assumption) rfl rfl rfl rfl rfl rfl
    | dsimp -zeta only
    | with_reducible split

theorem msixAccess_good {qq : List Instr} {s : State} {c : Fin 4} {fn : Fin 4} {isW : Bool} {key : Nat} {a : Nat} {len : Nat} {data : Nat} (h1 : Good qq s) :
    Good qq (msixAccess s c fn isW key a len data) := by
  delta msixAccess
  repeat' first
    | with_reducible assumption
    | with_reducible intro _
    | (extract_lets -underBinder +onlyGivenNames x; first | (refine good_cut (q := qq) (s := x) ?_ ?_; (on_goal 1 => subst x); (on_goal 2 => (intro _; clear_value x))) | (refine good_cutO (q := qq) (x := x) ?_ ?_; (on_goal 1 => subst x); (on_goal 2 => (intro _; clear_value x))) | (refine isP (x := x) ?_; subst x) | (refine isQ (x := x) ?_; subst x) | (refine isFab (x := x) ?_; subst x) | (refine isSram (x := x) ?_; subst x) | (refine isDram (x := x) ?_; subst x) | (refine isStateFun (x := x) ?_; subst x) | (refine isStateFun2 (x := x) ?_; subst x) | clear_value x | subst x)
    | with_reducible refine goodR_next ?_
    | with_reducible refine goodO_some ?_
    | with_reducible exact goodO_none
    | with_reducible refine noMap_good ?_
    | with_reducible refine pciAnswer_good ?_
    | with_reducible refine msixPut_good ?_
    | with_reducible refine good_foldl ?_ ?_
    | with_reducible refine good_foldlP ?_ ?_
    | with_reducible refine goodO_foldl ?_ ?_
    | with_reducible refine goodO_map ?_ ?_
    | with_reducible refine goodOP_mapP ?_ ?_
    | with_reducible refine goodOP_map ?_ ?_
    | with_reducible refine goodO_mapP ?_ ?_
    | with_reducible refine goodO_of ?_ (by with_reducible assumption)
    | with_reducible refine goodP_of ?_ (by with_reducible assumption)
    | with_reducible refine goodQ_of ?_ (by with_reducible assumption)
    | with_reducible refine goodR_of ?_ (by with_reducible assumption)
    | with_reducible exact good_mk (by with_reducible assumption) rfl rfl rfl rfl rfl rfl
    | dsimp -zeta only
    | with_reducible split

theorem execPcieInboundRequest_good {qq : List Instr} {c : Fin 4} {isW : Bool} {key : BitVec 16} {fn : Fin 4} {bar2 : Bool} {addr : BitVec 64} {len : Fin 4097} {data : Nat} {poison : Bool} {s : State} (h1 : Good qq s) :
    GoodR qq (execPcieInboundRequest c isW key fn bar2 addr len data poison s) := by
  delta execPcieInboundRequest
  repeat' first
    | with_reducible assumption
    | with_reducible intro _
    | (extract_lets -underBinder +onlyGivenNames x; first | (refine good_cut (q := qq) (s := x) ?_ ?_; (on_goal 1 => subst x); (on_goal 2 => (intro _; clear_value x))) | (refine good_cutO (q := qq) (x := x) ?_ ?_; (on_goal 1 => subst x); (on_goal 2 => (intro _; clear_value x))) | (refine isP (x := x) ?_; subst x) | (refine isQ (x := x) ?_; subst x) | (refine isFab (x := x) ?_; subst x) | (refine isSram (x := x) ?_; subst x) | (refine isDram (x := x) ?_; subst x) | (refine isStateFun (x := x) ?_; subst x) | (refine isStateFun2 (x := x) ?_; subst x) | clear_value x | subst x)
    | with_reducible refine goodR_next ?_
    | with_reducible refine goodO_some ?_
    | with_reducible exact goodO_none
    | with_reducible refine recordErr_good ?_
    | with_reducible refine aerErr_good ?_
    | with_reducible refine pciAnswer_good ?_
    | with_reducible refine bootBarWrite_good ?_
    | with_reducible refine bootRead_good ?_
    | with_reducible refine msiWrite_good ?_
    | with_reducible refine msixAccess_good ?_
    | with_reducible refine noMap_good ?_
    | with_reducible refine pcePost_good ?_
    | with_reducible refine goodO_of ?_ (by with_reducible assumption)
    | with_reducible refine goodP_of ?_ (by with_reducible assumption)
    | with_reducible refine goodQ_of ?_ (by with_reducible assumption)
    | with_reducible refine goodR_of ?_ (by with_reducible assumption)
    | with_reducible exact good_mk (by with_reducible assumption) rfl rfl rfl rfl rfl rfl
    | dsimp -zeta only
    | with_reducible split

theorem execMsi_good {qq : List Instr} {c : Fin 4} {off : BitVec 12} {len : Fin 513} {data : Nat} {s : State} (h1 : Good qq s) :
    GoodR qq (execMsi c off len data s) := by
  delta execMsi
  repeat' first
    | with_reducible assumption
    | with_reducible intro _
    | (extract_lets -underBinder +onlyGivenNames x; first | (refine good_cut (q := qq) (s := x) ?_ ?_; (on_goal 1 => subst x); (on_goal 2 => (intro _; clear_value x))) | (refine good_cutO (q := qq) (x := x) ?_ ?_; (on_goal 1 => subst x); (on_goal 2 => (intro _; clear_value x))) | (refine isP (x := x) ?_; subst x) | (refine isQ (x := x) ?_; subst x) | (refine isFab (x := x) ?_; subst x) | (refine isSram (x := x) ?_; subst x) | (refine isDram (x := x) ?_; subst x) | (refine isStateFun (x := x) ?_; subst x) | (refine isStateFun2 (x := x) ?_; subst x) | clear_value x | subst x)
    | with_reducible refine goodR_next ?_
    | with_reducible refine goodO_some ?_
    | with_reducible exact goodO_none
    | with_reducible refine msiWrite_good ?_
    | with_reducible refine goodO_of ?_ (by with_reducible assumption)
    | with_reducible refine goodP_of ?_ (by with_reducible assumption)
    | with_reducible refine goodQ_of ?_ (by with_reducible assumption)
    | with_reducible refine goodR_of ?_ (by with_reducible assumption)
    | with_reducible exact good_mk (by with_reducible assumption) rfl rfl rfl rfl rfl rfl
    | dsimp -zeta only
    | with_reducible split

theorem pceDone_good {qq : List Instr} {s : State} {c : Fin 4} {t : Txn} (h1 : Good qq s) :
    Good qq (pceDone s c t) := by
  delta pceDone
  repeat' first
    | with_reducible assumption
    | with_reducible intro _
    | (extract_lets -underBinder +onlyGivenNames x; first | (refine good_cut (q := qq) (s := x) ?_ ?_; (on_goal 1 => subst x); (on_goal 2 => (intro _; clear_value x))) | clear_value x | subst x)
    | with_reducible refine pciAnswer_good ?_
    | with_reducible refine aerErr_good ?_
    | with_reducible split

theorem pceWrite_good {qq : List Instr} {s : State} {c : Fin 4} {off : Nat} {v : Reg32} (h1 : Good qq s) :
    GoodO qq (pceWrite s c off v) := by
  delta pceWrite
  repeat' first
    | with_reducible assumption
    | with_reducible intro _
    | (extract_lets -underBinder +onlyGivenNames x; first | (refine good_cut (q := qq) (s := x) ?_ ?_; (on_goal 1 => subst x); (on_goal 2 => (intro _; clear_value x))) | clear_value x | subst x)
    | with_reducible refine goodO_some ?_
    | with_reducible exact goodO_none
    | with_reducible refine wr_good ?_
    | with_reducible refine wrF_good ?_
    | with_reducible refine claimLanes_good ?_
    | with_reducible refine releaseLanes_good ?_
    | with_reducible refine pceDown_good ?_
    | with_reducible split

end Sys2Proof.Machine
end

