-- ==== Sys2Proof/Laws/KeepBridge.lean ====
section
/-!
SUPPORT. Laws/KeepBridge.lean: every operation of Machine/Bridge.lean keeps the queue and the invariant.
-/

namespace Sys2Proof.Machine

theorem readEffect_good {qq : List Instr} {s : State} {q : RegReq} {p : Page} {off : Nat} (h1 : Good qq s) :
    Good qq (readEffect s q p off) := by
  delta readEffect
  repeat' first
    | with_reducible assumption
    | with_reducible intro _
    | (extract_lets -underBinder +onlyGivenNames x; first | (refine good_cut (q := qq) (s := x) ?_ ?_; (on_goal 1 => subst x); (on_goal 2 => (intro _; clear_value x))) | (refine isFab (x := x) ?_; subst x) | clear_value x | subst x)
    | with_reducible refine wr_good ?_
    | with_reducible refine syntLatch_good ?_
    | with_reducible refine goodO_getD ?_ ?_
    | with_reducible exact good_mk (by with_reducible assumption) rfl rfl rfl rfl rfl rfl
    | with_reducible split

theorem rejectWrite_good {qq : List Instr} {s : State} {q : RegReq} {p : Page} {off : Nat} {v : Reg32} {code : Nat} (h1 : Good qq s) :
    Good qq (rejectWrite s q p off v code) := by
  delta rejectWrite
  repeat' first
    | with_reducible assumption
    | with_reducible intro _
    | (extract_lets -underBinder +onlyGivenNames x; first | (refine good_cut (q := qq) (s := x) ?_ ?_; (on_goal 1 => subst x); (on_goal 2 => (intro _; clear_value x))) | clear_value x | subst x)
    | with_reducible refine recCorrected_good ?_
    | with_reducible split

theorem plainWrite_good {qq : List Instr} {s : State} {p : Page} {off : Nat} {v : Reg32} (h1 : Good qq s) :
    Good qq (plainWrite s p off v) := by
  delta plainWrite
  repeat' first
    | with_reducible assumption
    | with_reducible intro _
    | (extract_lets -underBinder +onlyGivenNames x; first | (refine good_cut (q := qq) (s := x) ?_ ?_; (on_goal 1 => subst x); (on_goal 2 => (intro _; clear_value x))) | clear_value x | subst x)
    | with_reducible refine wr_good ?_
    | with_reducible split

theorem ctrlWrite_good {qq : List Instr} {s : State} {p : Page} {v : Reg32} (h1 : Good qq s) :
    Good qq (ctrlWrite s p v) := by
  delta ctrlWrite
  repeat' first
    | with_reducible assumption
    | with_reducible intro _
    | (extract_lets -underBinder +onlyGivenNames x; first | (refine good_cut (q := qq) (s := x) ?_ ?_; (on_goal 1 => subst x); (on_goal 2 => (intro _; clear_value x))) | (refine isFab (x := x) ?_; subst x) | (refine isStateFun (x := x) ?_; subst x) | (refine isStateFun2 (x := x) ?_; subst x) | clear_value x | subst x)
    | with_reducible refine plainWrite_good ?_
    | with_reducible refine wrB_good ?_
    | with_reducible exact good_mk (by with_reducible assumption) rfl rfl rfl rfl rfl rfl
    | with_reducible split

theorem headerWrite_good {qq : List Instr} {s : State} {p : Page} {off : Nat} {v : Reg32} (h1 : Good qq s) :
    Good qq (headerWrite s p off v) := by
  delta headerWrite
  repeat' first
    | with_reducible assumption
    | with_reducible intro _
    | (extract_lets -underBinder +onlyGivenNames x; first | (refine good_cut (q := qq) (s := x) ?_ ?_; (on_goal 1 => subst x); (on_goal 2 => (intro _; clear_value x))) | (refine isStateFun (x := x) ?_; subst x) | (refine isStateFun2 (x := x) ?_; subst x) | clear_value x | subst x)
    | with_reducible refine ctrlWrite_good ?_
    | with_reducible refine withLine_good ?_ ?_
    | with_reducible refine plainWrite_good ?_
    | with_reducible refine setIrq_good ?_
    | with_reducible refine clearYoyoOvf_good ?_
    | with_reducible refine bindSlice_good ?_
    | with_reducible split

theorem pmuCtrl_good {qq : List Instr} {s : State} {n : Fin 24} {v : Reg32} (h1 : Good qq s) :
    Good qq (pmuCtrl s n v) := by
  delta pmuCtrl
  repeat' first
    | with_reducible assumption
    | with_reducible intro _
    | (extract_lets -underBinder +onlyGivenNames x; first | (refine good_cut (q := qq) (s := x) ?_ ?_; (on_goal 1 => subst x); (on_goal 2 => (intro _; clear_value x))) | (refine isStateFun (x := x) ?_; subst x) | (refine isStateFun2 (x := x) ?_; subst x) | clear_value x | subst x)
    | with_reducible refine plainWrite_good ?_
    | with_reducible refine wr_good ?_
    | with_reducible refine good_foldl ?_ ?_
    | with_reducible refine good_foldlP ?_ ?_
    | with_reducible split

theorem blockWrite_good {qq : List Instr} {s : State} {q : RegReq} {off : Nat} {v : Reg32} {env : MemEnv} {p : Page} (h1 : Good qq s) :
    GoodE qq (blockWrite s q off v env p) := by
  unfold blockWrite
  extract_lets plain
  have hp : Good qq plain := plainWrite_good h1
  clear_value plain
  cases p <;> dsimp only <;> repeat' first
    | with_reducible assumption
    | intro _
    | with_reducible refine goodE_ok ?_
    | with_reducible refine goodE_error ?_
    | with_reducible refine goodE_ok_of (by with_reducible assumption) ?_
    | with_reducible refine goodE_error_of (by with_reducible assumption) ?_
    | with_reducible refine goodEmap ?_ ?_
    | with_reducible refine goodEbind ?_ ?_
    | with_reducible refine goodEP_ok_of (by with_reducible assumption) ?_
    | with_reducible refine goodEP_error_of (by with_reducible assumption) ?_
    | with_reducible refine goodO_getD ?_ ?_
    | with_reducible refine goodO_mapFst ?_
    | with_reducible refine plainWrite_good ?_
    | with_reducible refine applyPoints_good ?_
    | with_reducible refine moduleReset_good ?_
    | with_reducible refine mariRequest_good ?_
    | with_reducible refine fltsWrite_good ?_
    | with_reducible refine bistBegin_good ?_
    | with_reducible refine domWrite_good ?_
    | with_reducible refine mariDomReset_good ?_
    | with_reducible refine scsWrite_good ?_
    | with_reducible refine ictlWrite_good ?_
    | with_reducible refine icDo_good ?_ ?_
    | with_reducible refine icpWrite_good ?_
    | with_reducible refine scStart_good ?_
    | with_reducible refine partWrite_good ?_
    | with_reducible refine srWrite_good ?_
    | with_reducible refine dmcWrite_good ?_
    | with_reducible refine pmuCtrl_good ?_
    | with_reducible refine cmSettle_good ?_
    | with_reducible refine nceWrite_good ?_
    | with_reducible refine ncmWrite_good ?_
    | with_reducible refine bankWrite_good ?_
    | with_reducible refine pcWrite_good ?_
    | with_reducible refine pceWrite_good ?_
    | with_reducible refine ethWrite_good ?_
    | with_reducible refine ethCtl_good ?_
    | with_reducible refine tylwWrite_good ?_
    | exact good_fab h1 (by have := h1.ferr; rw [List.length_tail]; omega)
    | with_reducible split

theorem putReg_good {qq : List Instr} {s : State} {q : RegReq} {p : Page} {off : Nat} {v : Reg32} {env : MemEnv} (h1 : Good qq s) :
    GoodE qq (putReg s q p off v env) := by
  delta putReg
  repeat' first
    | with_reducible assumption
    | with_reducible intro _
    | (extract_lets -underBinder +onlyGivenNames x; first | (refine good_cut (q := qq) (s := x) ?_ ?_; (on_goal 1 => subst x); (on_goal 2 => (intro _; clear_value x))) | (refine good_cutO (q := qq) (x := x) ?_ ?_; (on_goal 1 => subst x); (on_goal 2 => (intro _; clear_value x))) | (refine goodE_cut (q := qq) (x := x) ?_ ?_; (on_goal 1 => subst x); (on_goal 2 => (intro _; clear_value x))) | (refine isP (x := x) ?_; subst x) | (refine isQ (x := x) ?_; subst x) | (refine isFab (x := x) ?_; subst x) | (refine isSram (x := x) ?_; subst x) | (refine isDram (x := x) ?_; subst x) | (refine isStateFun (x := x) ?_; subst x) | (refine isStateFun2 (x := x) ?_; subst x) | (refine goodE_fun (x := x) ?_; subst x) | clear_value x | subst x)
    | with_reducible refine goodR_next ?_
    | with_reducible refine goodO_some ?_
    | with_reducible exact goodO_none
    | with_reducible refine goodE_ok ?_
    | with_reducible refine goodE_error ?_
    | with_reducible refine headerWrite_good ?_
    | with_reducible refine blockWrite_good ?_
    | with_reducible refine napWake_good ?_
    | with_reducible refine goodO_map ?_ ?_
    | with_reducible refine goodOP_mapP ?_ ?_
    | with_reducible refine goodOP_map ?_ ?_
    | with_reducible refine goodO_mapP ?_ ?_
    | with_reducible refine goodEmap ?_ ?_
    | with_reducible refine goodEPmap ?_ ?_
    | with_reducible refine goodO_of ?_ (by with_reducible assumption)
    | with_reducible refine goodP_of ?_ (by with_reducible assumption)
    | with_reducible refine goodQ_of ?_ (by with_reducible assumption)
    | with_reducible refine goodR_of ?_ (by with_reducible assumption)
    | with_reducible refine goodE_ok_of (by with_reducible assumption) ?_
    | with_reducible refine goodE_error_of (by with_reducible assumption) ?_
    | with_reducible exact good_mk (by with_reducible assumption) rfl rfl rfl rfl rfl rfl
    | dsimp -zeta only
    | with_reducible split

theorem stallReq_good {qq : List Instr} {s : State} {q : RegReq} (h1 : Good qq s) :
    Good qq (stallReq s q) := by
  delta stallReq
  repeat' first
    | with_reducible assumption
    | with_reducible intro _
    | (extract_lets -underBinder +onlyGivenNames x; first | (refine good_cut (q := qq) (s := x) ?_ ?_; (on_goal 1 => subst x); (on_goal 2 => (intro _; clear_value x))) | (refine isFab (x := x) ?_; subst x) | clear_value x | subst x)
    | with_reducible exact good_mk (by with_reducible assumption) rfl rfl rfl rfl rfl rfl

theorem pageNow_good {qq : List Instr} {s : State} {z0 : Page} (h1 : Good qq s) :
    Good qq (pageNow s z0) := by
  delta pageNow
  repeat' first
    | with_reducible assumption
    | with_reducible intro _
    | (extract_lets -underBinder +onlyGivenNames x; first | (refine good_cut (q := qq) (s := x) ?_ ?_; (on_goal 1 => subst x); (on_goal 2 => (intro _; clear_value x))) | (refine good_cutO (q := qq) (x := x) ?_ ?_; (on_goal 1 => subst x); (on_goal 2 => (intro _; clear_value x))) | (refine isP (x := x) ?_; subst x) | (refine isQ (x := x) ?_; subst x) | (refine isFab (x := x) ?_; subst x) | (refine isSram (x := x) ?_; subst x) | (refine isDram (x := x) ?_; subst x) | (refine isStateFun (x := x) ?_; subst x) | (refine isStateFun2 (x := x) ?_; subst x) | clear_value x | subst x)
    | with_reducible refine goodR_next ?_
    | with_reducible refine goodO_some ?_
    | with_reducible exact goodO_none
    | with_reducible refine cellAt_good ?_
    | with_reducible refine cellsAt_good ?_
    | with_reducible refine goodO_of ?_ (by with_reducible assumption)
    | with_reducible refine goodP_of ?_ (by with_reducible assumption)
    | with_reducible refine goodQ_of ?_ (by with_reducible assumption)
    | with_reducible refine goodR_of ?_ (by with_reducible assumption)
    | with_reducible exact good_mk (by with_reducible assumption) rfl rfl rfl rfl rfl rfl
    | dsimp -zeta only
    | with_reducible split

theorem serveReg_good {qq : List Instr} {s : State} {q : RegReq} {p : Page} {env : MemEnv} (h1 : Good qq s) :
    Good qq (serveReg s q p env).1 := by
  delta serveReg
  repeat' first
    | with_reducible assumption
    | with_reducible intro _
    | (extract_lets -underBinder +onlyGivenNames x; first | (refine good_cut (q := qq) (s := x) ?_ ?_; (on_goal 1 => subst x); (on_goal 2 => (intro _; clear_value x))) | (refine good_cutO (q := qq) (x := x) ?_ ?_; (on_goal 1 => subst x); (on_goal 2 => (intro _; clear_value x))) | (refine goodE_cut (q := qq) (x := x) ?_ ?_; (on_goal 1 => subst x); (on_goal 2 => (intro _; clear_value x))) | (refine isP (x := x) ?_; subst x) | (refine isQ (x := x) ?_; subst x) | (refine isFab (x := x) ?_; subst x) | (refine isSram (x := x) ?_; subst x) | (refine isDram (x := x) ?_; subst x) | (refine isStateFun (x := x) ?_; subst x) | (refine isStateFun2 (x := x) ?_; subst x) | (refine goodE_fun (x := x) ?_; subst x) | clear_value x | subst x)
    | with_reducible refine goodR_next ?_
    | with_reducible refine goodO_some ?_
    | with_reducible exact goodO_none
    | with_reducible refine goodOP_some ?_
    | with_reducible exact goodOP_none
    | with_reducible refine goodOQ_some ?_
    | with_reducible exact goodOQ_none
    | with_reducible refine goodE_ok ?_
    | with_reducible refine goodE_error ?_
    | with_reducible refine pageNow_good ?_
    | with_reducible refine readEffect_good ?_
    | with_reducible refine napWake_good ?_
    | with_reducible refine rejectWrite_good ?_
    | with_reducible refine putReg_good ?_
    | with_reducible refine stallReq_good ?_
    | with_reducible refine goodO_of ?_ (by with_reducible assumption)
    | with_reducible refine goodP_of ?_ (by with_reducible assumption)
    | with_reducible refine goodQ_of ?_ (by with_reducible assumption)
    | with_reducible refine goodR_of ?_ (by with_reducible assumption)
    | with_reducible refine goodE_ok_of (by with_reducible assumption) ?_
    | with_reducible refine goodE_error_of (by with_reducible assumption) ?_
    | with_reducible exact good_mk (by with_reducible assumption) rfl rfl rfl rfl rfl rfl
    | dsimp -zeta only
    | with_reducible split

theorem regRefuse_good {qq : List Instr} {s : State} {q : RegReq} {k : Kind} (h1 : Good qq s) :
    Good qq (regRefuse s q k).1 := by
  delta regRefuse
  repeat' first
    | with_reducible assumption
    | with_reducible intro _
    | with_reducible refine ferrLog_good ?_

theorem regAccess_good {qq : List Instr} {s : State} {q : RegReq} {env : MemEnv} (h1 : Good qq s) :
    Good qq (regAccess s q env).1 := by
  delta regAccess
  repeat' first
    | with_reducible assumption
    | with_reducible intro _
    | (extract_lets -underBinder +onlyGivenNames x; first | (refine good_cut (q := qq) (s := x) ?_ ?_; (on_goal 1 => subst x); (on_goal 2 => (intro _; clear_value x))) | (refine good_cutO (q := qq) (x := x) ?_ ?_; (on_goal 1 => subst x); (on_goal 2 => (intro _; clear_value x))) | (refine isP (x := x) ?_; subst x) | (refine isQ (x := x) ?_; subst x) | (refine isFab (x := x) ?_; subst x) | (refine isSram (x := x) ?_; subst x) | (refine isDram (x := x) ?_; subst x) | (refine isStateFun (x := x) ?_; subst x) | (refine isStateFun2 (x := x) ?_; subst x) | clear_value x | subst x)
    | with_reducible refine goodR_next ?_
    | with_reducible refine goodO_some ?_
    | with_reducible exact goodO_none
    | with_reducible refine goodOP_some ?_
    | with_reducible exact goodOP_none
    | with_reducible refine goodOQ_some ?_
    | with_reducible exact goodOQ_none
    | with_reducible refine regRefuse_good ?_
    | with_reducible refine stallReq_good ?_
    | with_reducible refine autoWake_good ?_
    | with_reducible refine serveReg_good ?_
    | with_reducible refine tylAccess_good ?_
    | with_reducible refine goodO_of ?_ (by with_reducible assumption)
    | with_reducible refine goodP_of ?_ (by with_reducible assumption)
    | with_reducible refine goodQ_of ?_ (by with_reducible assumption)
    | with_reducible refine goodR_of ?_ (by with_reducible assumption)
    | with_reducible refine goodOP_of ?_ (by with_reducible assumption)
    | with_reducible refine goodOQ_of ?_ (by with_reducible assumption)
    | with_reducible exact good_mk (by with_reducible assumption) rfl rfl rfl rfl rfl rfl
    | dsimp -zeta only
    | with_reducible split

theorem regArrive_good {qq : List Instr} {s : State} {q : RegReq} {env : MemEnv} (h1 : Good qq s) :
    Good qq (regArrive s q env).1 := by
  delta regArrive
  repeat' first
    | with_reducible assumption
    | with_reducible intro _
    | (extract_lets -underBinder +onlyGivenNames x; first | (refine good_cut (q := qq) (s := x) ?_ ?_; (on_goal 1 => subst x); (on_goal 2 => (intro _; clear_value x))) | (refine good_cutO (q := qq) (x := x) ?_ ?_; (on_goal 1 => subst x); (on_goal 2 => (intro _; clear_value x))) | (refine isP (x := x) ?_; subst x) | (refine isQ (x := x) ?_; subst x) | (refine isFab (x := x) ?_; subst x) | (refine isSram (x := x) ?_; subst x) | (refine isDram (x := x) ?_; subst x) | (refine isStateFun (x := x) ?_; subst x) | (refine isStateFun2 (x := x) ?_; subst x) | clear_value x | subst x)
    | with_reducible refine goodR_next ?_
    | with_reducible refine goodO_some ?_
    | with_reducible exact goodO_none
    | with_reducible refine goodOP_some ?_
    | with_reducible exact goodOP_none
    | with_reducible refine goodOQ_some ?_
    | with_reducible exact goodOQ_none
    | with_reducible refine stallReq_good ?_
    | with_reducible refine regAccess_good ?_
    | with_reducible refine goodO_of ?_ (by with_reducible assumption)
    | with_reducible refine goodP_of ?_ (by with_reducible assumption)
    | with_reducible refine goodQ_of ?_ (by with_reducible assumption)
    | with_reducible refine goodR_of ?_ (by with_reducible assumption)
    | with_reducible exact good_mk (by with_reducible assumption) rfl rfl rfl rfl rfl rfl
    | dsimp -zeta only
    | with_reducible split

theorem giveAnswer_good {qq : List Instr} {s : State} {q : RegReq} {r : Resp} (h1 : Good qq s) :
    Good qq (giveAnswer s q r) := by
  delta giveAnswer
  repeat' first
    | with_reducible assumption
    | with_reducible intro _
    | (extract_lets -underBinder +onlyGivenNames x; first | (refine good_cut (q := qq) (s := x) ?_ ?_; (on_goal 1 => subst x); (on_goal 2 => (intro _; clear_value x))) | (refine good_cutO (q := qq) (x := x) ?_ ?_; (on_goal 1 => subst x); (on_goal 2 => (intro _; clear_value x))) | (refine isP (x := x) ?_; subst x) | (refine isQ (x := x) ?_; subst x) | (refine isFab (x := x) ?_; subst x) | (refine isSram (x := x) ?_; subst x) | (refine isDram (x := x) ?_; subst x) | (refine isStateFun (x := x) ?_; subst x) | (refine isStateFun2 (x := x) ?_; subst x) | clear_value x | subst x)
    | with_reducible refine goodR_next ?_
    | with_reducible refine goodO_some ?_
    | with_reducible exact goodO_none
    | with_reducible refine creditBack_good ?_
    | with_reducible refine lateCount_good ?_
    | with_reducible refine answer_good ?_
    | with_reducible refine coreAnswer_good ?_
    | with_reducible refine holdStoreBus_good ?_
    | with_reducible refine goodO_of ?_ (by with_reducible assumption)
    | with_reducible refine goodP_of ?_ (by with_reducible assumption)
    | with_reducible refine goodQ_of ?_ (by with_reducible assumption)
    | with_reducible refine goodR_of ?_ (by with_reducible assumption)
    | with_reducible exact good_mk (by with_reducible assumption) rfl rfl rfl rfl rfl rfl
    | dsimp -zeta only
    | with_reducible split

theorem regCmd_good {qq : List Instr} {m : Master} {lvl : Fin 4} {a : Nat} {single : Bool} {data : Option Reg32} {env : MemEnv} {s : State} (h1 : Good qq s) :
    GoodR qq (regCmd m lvl a single data env s) := by
  delta regCmd
  repeat' first
    | with_reducible assumption
    | with_reducible intro _
    | (extract_lets -underBinder +onlyGivenNames x; first | (refine good_cut (q := qq) (s := x) ?_ ?_; (on_goal 1 => subst x); (on_goal 2 => (intro _; clear_value x))) | (refine good_cutO (q := qq) (x := x) ?_ ?_; (on_goal 1 => subst x); (on_goal 2 => (intro _; clear_value x))) | (refine isP (x := x) ?_; subst x) | (refine isQ (x := x) ?_; subst x) | (refine isFab (x := x) ?_; subst x) | (refine isSram (x := x) ?_; subst x) | (refine isDram (x := x) ?_; subst x) | (refine isStateFun (x := x) ?_; subst x) | (refine isStateFun2 (x := x) ?_; subst x) | clear_value x | subst x)
    | with_reducible refine goodR_next ?_
    | with_reducible refine goodO_some ?_
    | with_reducible exact goodO_none
    | with_reducible refine goodOP_some ?_
    | with_reducible exact goodOP_none
    | with_reducible refine goodOQ_some ?_
    | with_reducible exact goodOQ_none
    | with_reducible refine regArrive_good ?_
    | with_reducible refine answer_good ?_
    | with_reducible refine goodO_of ?_ (by with_reducible assumption)
    | with_reducible refine goodP_of ?_ (by with_reducible assumption)
    | with_reducible refine goodQ_of ?_ (by with_reducible assumption)
    | with_reducible refine goodR_of ?_ (by with_reducible assumption)
    | with_reducible exact good_mk (by with_reducible assumption) rfl rfl rfl rfl rfl rfl
    | dsimp -zeta only
    | with_reducible split

theorem pageWrite_good {qq : List Instr} {m : Master} {lvl : Fin 4} {p : Page} {off : Nat} {v : Reg32} {t0 : State} (h1 : Good qq t0) :
    GoodR qq (pageWrite m lvl p off v t0) := by
  delta pageWrite
  repeat' first
    | with_reducible assumption
    | with_reducible intro _
    | with_reducible refine regCmd_good ?_

theorem pageRead_good {qq : List Instr} {m : Master} {lvl : Fin 4} {p : Page} {off : Nat} {t0 : State} (h1 : Good qq t0) :
    GoodR qq (pageRead m lvl p off t0) := by
  delta pageRead
  repeat' first
    | with_reducible assumption
    | with_reducible intro _
    | with_reducible refine regCmd_good ?_

theorem execRegisterRead_good {qq : List Instr} {m : Master} {lvl : Fin 4} {a : BitVec 48} {single : Bool} {cls : Cls} {s : State} (h1 : Good qq s) :
    GoodR qq (execRegisterRead m lvl a single cls s) := by
  delta execRegisterRead
  repeat' first
    | with_reducible assumption
    | with_reducible intro _
    | (extract_lets -underBinder +onlyGivenNames x; first | (refine good_cut (q := qq) (s := x) ?_ ?_; (on_goal 1 => subst x); (on_goal 2 => (intro _; clear_value x))) | (refine good_cutO (q := qq) (x := x) ?_ ?_; (on_goal 1 => subst x); (on_goal 2 => (intro _; clear_value x))) | (refine isP (x := x) ?_; subst x) | (refine isQ (x := x) ?_; subst x) | (refine isFab (x := x) ?_; subst x) | (refine isSram (x := x) ?_; subst x) | (refine isDram (x := x) ?_; subst x) | (refine isStateFun (x := x) ?_; subst x) | (refine isStateFun2 (x := x) ?_; subst x) | clear_value x | subst x)
    | with_reducible refine goodR_next ?_
    | with_reducible refine goodO_some ?_
    | with_reducible exact goodO_none
    | with_reducible refine regCmd_good ?_

theorem execRegisterWrite_good {qq : List Instr} {m : Master} {lvl : Fin 4} {a : BitVec 48} {single : Bool} {v : Reg32} {env : MemEnv} {s : State} (h1 : Good qq s) :
    GoodR qq (execRegisterWrite m lvl a single v env s) := by
  delta execRegisterWrite
  repeat' first
    | with_reducible assumption
    | with_reducible intro _
    | with_reducible refine regCmd_good ?_

theorem dropStalled_good {qq : List Instr} {s : State} {q : RegReq} (h1 : Good qq s) :
    Good qq (dropStalled s q) := by
  delta dropStalled
  repeat' first
    | with_reducible assumption
    | with_reducible intro _
    | (extract_lets -underBinder +onlyGivenNames x; first | (refine good_cut (q := qq) (s := x) ?_ ?_; (on_goal 1 => subst x); (on_goal 2 => (intro _; clear_value x))) | (refine isFab (x := x) ?_; subst x) | clear_value x | subst x)
    | with_reducible exact good_mk (by with_reducible assumption) rfl rfl rfl rfl rfl rfl

theorem serveAgain_good {qq : List Instr} {s : State} {q : RegReq} {f : State → State × Option Resp} (h1 : Good qq s)
    (h2 : ∀ a0, Good qq a0 → Good qq (f a0).1) : Good qq (serveAgain s q f) := by
  have h := h2 _ (dropStalled_good (q := q) h1)
  unfold serveAgain
  split
  · rename_i e; exact giveAnswer_good (goodP_of h e)
  · rename_i t e
    have ht : Good qq t := goodP_of h e
    extract_lets
    split
    · exact good_fab ht ht.ferr
    · exact ht

theorem execFabricIngress_good {qq : List Instr} {x : Ingress} {s : State} (h1 : Good qq s) :
    GoodR qq (execFabricIngress x s) := by
  delta execFabricIngress
  repeat' first
    | with_reducible assumption
    | with_reducible intro _
    | (extract_lets -underBinder +onlyGivenNames x; first | (refine good_cut (q := qq) (s := x) ?_ ?_; (on_goal 1 => subst x); (on_goal 2 => (intro _; clear_value x))) | (refine good_cutO (q := qq) (x := x) ?_ ?_; (on_goal 1 => subst x); (on_goal 2 => (intro _; clear_value x))) | (refine isP (x := x) ?_; subst x) | (refine isQ (x := x) ?_; subst x) | (refine isFab (x := x) ?_; subst x) | (refine isSram (x := x) ?_; subst x) | (refine isDram (x := x) ?_; subst x) | (refine isStateFun (x := x) ?_; subst x) | (refine isStateFun2 (x := x) ?_; subst x) | clear_value x | subst x)
    | with_reducible refine goodR_next ?_
    | with_reducible refine goodO_some ?_
    | with_reducible exact goodO_none
    | with_reducible refine regArrive_good ?_
    | with_reducible refine answer_good ?_
    | with_reducible refine ingressOf_good ?_
    | with_reducible refine postReq_good ?_
    | with_reducible refine serveAgain_good ?_ ?_
    | with_reducible refine regAccess_good ?_
    | with_reducible refine goodO_of ?_ (by with_reducible assumption)
    | with_reducible refine goodP_of ?_ (by with_reducible assumption)
    | with_reducible refine goodQ_of ?_ (by with_reducible assumption)
    | with_reducible refine goodR_of ?_ (by with_reducible assumption)
    | with_reducible refine goodOP_of ?_ (by with_reducible assumption)
    | with_reducible refine goodOQ_of ?_ (by with_reducible assumption)
    | with_reducible exact good_mk (by with_reducible assumption) rfl rfl rfl rfl rfl rfl
    | dsimp -zeta only
    | with_reducible split

theorem execAutoWakeDone_good {qq : List Instr} {env : MemEnv} {s : State} (h1 : Good qq s) :
    GoodR qq (execAutoWakeDone env s) := by
  delta execAutoWakeDone
  repeat' first
    | with_reducible assumption
    | with_reducible intro _
    | (extract_lets -underBinder +onlyGivenNames x; first | (refine good_cut (q := qq) (s := x) ?_ ?_; (on_goal 1 => subst x); (on_goal 2 => (intro _; clear_value x))) | (refine good_cutO (q := qq) (x := x) ?_ ?_; (on_goal 1 => subst x); (on_goal 2 => (intro _; clear_value x))) | (refine isP (x := x) ?_; subst x) | (refine isQ (x := x) ?_; subst x) | (refine isFab (x := x) ?_; subst x) | (refine isSram (x := x) ?_; subst x) | (refine isDram (x := x) ?_; subst x) | (refine isStateFun (x := x) ?_; subst x) | (refine isStateFun2 (x := x) ?_; subst x) | clear_value x | subst x)
    | with_reducible refine goodR_next ?_
    | with_reducible refine goodO_some ?_
    | with_reducible exact goodO_none
    | with_reducible refine serveAgain_good ?_ ?_
    | with_reducible refine serveReg_good ?_
    | with_reducible refine goodO_of ?_ (by with_reducible assumption)
    | with_reducible refine goodP_of ?_ (by with_reducible assumption)
    | with_reducible refine goodQ_of ?_ (by with_reducible assumption)
    | with_reducible refine goodR_of ?_ (by with_reducible assumption)
    | with_reducible exact good_mk (by with_reducible assumption) rfl rfl rfl rfl rfl rfl
    | dsimp -zeta only
    | with_reducible split

theorem execAutoWakeTimeout_good {qq : List Instr} {s : State} (h1 : Good qq s) :
    GoodR qq (execAutoWakeTimeout s) := by
  delta execAutoWakeTimeout
  repeat' first
    | with_reducible assumption
    | with_reducible intro _
    | (extract_lets -underBinder +onlyGivenNames x; first | (refine good_cut (q := qq) (s := x) ?_ ?_; (on_goal 1 => subst x); (on_goal 2 => (intro _; clear_value x))) | (refine good_cutO (q := qq) (x := x) ?_ ?_; (on_goal 1 => subst x); (on_goal 2 => (intro _; clear_value x))) | (refine isP (x := x) ?_; subst x) | (refine isQ (x := x) ?_; subst x) | (refine isFab (x := x) ?_; subst x) | (refine isSram (x := x) ?_; subst x) | (refine isDram (x := x) ?_; subst x) | (refine isStateFun (x := x) ?_; subst x) | (refine isStateFun2 (x := x) ?_; subst x) | clear_value x | subst x)
    | with_reducible refine goodR_next ?_
    | with_reducible refine goodO_some ?_
    | with_reducible exact goodO_none
    | with_reducible refine ferrLog_good ?_
    | with_reducible refine dropStalled_good ?_
    | with_reducible refine giveAnswer_good ?_
    | with_reducible refine recordErr_good ?_
    | with_reducible refine goodO_of ?_ (by with_reducible assumption)
    | with_reducible refine goodP_of ?_ (by with_reducible assumption)
    | with_reducible refine goodQ_of ?_ (by with_reducible assumption)
    | with_reducible refine goodR_of ?_ (by with_reducible assumption)
    | with_reducible exact good_mk (by with_reducible assumption) rfl rfl rfl rfl rfl rfl
    | dsimp -zeta only
    | with_reducible split

theorem softReset_good {qq : List Instr} {s : State} {p : Page} (h1 : Good qq s) :
    Good qq (softReset s p) := by
  delta softReset
  repeat' first
    | with_reducible assumption
    | with_reducible intro _
    | (extract_lets -underBinder +onlyGivenNames x; first | (refine good_cut (q := qq) (s := x) ?_ ?_; (on_goal 1 => subst x); (on_goal 2 => (intro _; clear_value x))) | (refine isStateFun (x := x) ?_; subst x) | (refine isStateFun2 (x := x) ?_; subst x) | clear_value x | subst x)
    | with_reducible refine resetEngine_good ?_
    | with_reducible refine updMov_good ?_
    | with_reducible refine movStale_good ?_
    | with_reducible refine resetCell_good ?_
    | with_reducible refine releaseLanes_good ?_
    | with_reducible refine pceDown_good ?_
    | with_reducible refine ethStop_good ?_
    | with_reducible exact good_mk (by with_reducible assumption) rfl rfl rfl rfl rfl rfl
    | with_reducible split

theorem execSoftResetDone_good {qq : List Instr} {p : Page} {s : State} (h1 : Good qq s) :
    GoodR qq (execSoftResetDone p s) := by
  delta execSoftResetDone
  repeat' first
    | with_reducible assumption
    | with_reducible intro _
    | (extract_lets -underBinder +onlyGivenNames x; first | (refine good_cut (q := qq) (s := x) ?_ ?_; (on_goal 1 => subst x); (on_goal 2 => (intro _; clear_value x))) | (refine isFab (x := x) ?_; subst x) | (refine isStateFun (x := x) ?_; subst x) | (refine isStateFun2 (x := x) ?_; subst x) | clear_value x | subst x)
    | with_reducible refine goodR_next ?_
    | with_reducible refine softReset_good ?_
    | with_reducible refine flushCrossings_good ?_
    | with_reducible refine withLine_good ?_ ?_
    | with_reducible refine wrB_good ?_
    | with_reducible refine resetPage_good ?_
    | with_reducible split

theorem execSrstTimeout_good {qq : List Instr} {p : Page} {s : State} (h1 : Good qq s) :
    GoodR qq (execSrstTimeout p s) := by
  delta execSrstTimeout
  repeat' first
    | with_reducible assumption
    | with_reducible intro _
    | (extract_lets -underBinder +onlyGivenNames x; first | (refine good_cut (q := qq) (s := x) ?_ ?_; (on_goal 1 => subst x); (on_goal 2 => (intro _; clear_value x))) | (refine isQ (x := x) ?_; subst x) | (refine isFab (x := x) ?_; subst x) | clear_value x | subst x)
    | with_reducible refine goodR_next ?_
    | with_reducible refine freeVal_good ?_
    | with_reducible refine recContained_good ?_
    | with_reducible refine goodQ_of ?_ (by with_reducible assumption)
    | with_reducible exact good_mk (by with_reducible assumption) rfl rfl rfl rfl rfl rfl
    | dsimp -zeta only
    | with_reducible split

end Sys2Proof.Machine
end

