-- ==== Sys2Proof/Laws/KeepComplete.lean ====
section
/-!
SUPPORT. Laws/KeepComplete.lean: every operation of Machine/Complete.lean keeps the queue and the invariant.
-/

namespace Sys2Proof.Machine

theorem acceptDone_good {qq : List Instr} {s : State} {t : Txn} {f : Findings} (h1 : Good qq s) :
    Good qq (acceptDone s t f) := by
  delta acceptDone
  repeat' first
    | with_reducible assumption
    | with_reducible intro _
    | (extract_lets -underBinder +onlyGivenNames x; first | (refine good_cut (q := qq) (s := x) ?_ ?_; (on_goal 1 => subst x); (on_goal 2 => (intro _; clear_value x))) | clear_value x | subst x)
    | with_reducible refine frdDone_good ?_
    | with_reducible refine fwrDone_good ?_
    | with_reducible refine movDone_good ?_
    | with_reducible refine memberDone_good ?_
    | with_reducible refine coreAnswer_good ?_
    | with_reducible refine pceDone_good ?_
    | with_reducible refine holdStoreBus_good ?_
    | with_reducible refine answer_good ?_
    | with_reducible exact good_mk (by with_reducible assumption) rfl rfl rfl rfl rfl rfl
    | with_reducible exact good_mkB rfl (by with_reducible assumption) rfl rfl rfl rfl rfl
    | with_reducible split

theorem staleDone_good {qq : List Instr} {s : State} {t : Txn} (h1 : Good qq s) :
    Good qq (staleDone s t) := by
  delta staleDone
  repeat' first
    | with_reducible assumption
    | with_reducible intro _
    | (extract_lets -underBinder +onlyGivenNames x; first | (refine good_cut (q := qq) (s := x) ?_ ?_; (on_goal 1 => subst x); (on_goal 2 => (intro _; clear_value x))) | clear_value x | subst x)
    | with_reducible refine memberDone_good ?_
    | with_reducible refine lateDrop_good ?_
    | with_reducible split

theorem completeTxn_good {qq : List Instr} {ok : Purpose → Bool} {id : Nat} {waited : Nat} {f : Findings} {s : State} (h1 : Good qq s) :
    GoodR qq (completeTxn ok id waited f s) := by
  delta completeTxn
  repeat' first
    | with_reducible assumption
    | with_reducible intro _
    | (extract_lets -underBinder +onlyGivenNames x; first | (refine good_cut (q := qq) (s := x) ?_ ?_; (on_goal 1 => subst x); (on_goal 2 => (intro _; clear_value x))) | (refine good_cutO (q := qq) (x := x) ?_ ?_; (on_goal 1 => subst x); (on_goal 2 => (intro _; clear_value x))) | (refine isP (x := x) ?_; subst x) | (refine isQ (x := x) ?_; subst x) | (refine isFab (x := x) ?_; subst x) | (refine isSram (x := x) ?_; subst x) | (refine isDram (x := x) ?_; subst x) | (refine isStateFun (x := x) ?_; subst x) | (refine isStateFun2 (x := x) ?_; subst x) | clear_value x | subst x)
    | with_reducible refine goodR_next ?_
    | with_reducible refine goodO_some ?_
    | with_reducible exact goodO_none
    | with_reducible refine leaveFabric_good ?_
    | with_reducible refine staleDone_good ?_
    | with_reducible refine confTicks_good ?_
    | with_reducible refine acceptDone_good ?_
    | with_reducible refine goodO_of ?_ (by with_reducible assumption)
    | with_reducible refine goodP_of ?_ (by with_reducible assumption)
    | with_reducible refine goodQ_of ?_ (by with_reducible assumption)
    | with_reducible refine goodR_of ?_ (by with_reducible assumption)
    | with_reducible refine goodOP_of ?_ (by with_reducible assumption)
    | with_reducible refine goodOQ_of ?_ (by with_reducible assumption)
    | with_reducible exact good_mk (by with_reducible assumption) rfl rfl rfl rfl rfl rfl
    | dsimp -zeta only
    | with_reducible split

theorem execFabricCompletion_good {qq : List Instr} {id : Nat} {s : State} (h1 : Good qq s) :
    GoodR qq (execFabricCompletion id s) := by
  delta execFabricCompletion
  repeat' first
    | with_reducible assumption
    | with_reducible intro _
    | with_reducible refine completeTxn_good ?_

theorem execFrdCompletion_good {qq : List Instr} {id : Nat} {s : State} (h1 : Good qq s) :
    GoodR qq (execFrdCompletion id s) := by
  delta execFrdCompletion
  repeat' first
    | with_reducible assumption
    | with_reducible intro _
    | (extract_lets -underBinder +onlyGivenNames x; first | (refine good_cut (q := qq) (s := x) ?_ ?_; (on_goal 1 => subst x); (on_goal 2 => (intro _; clear_value x))) | (refine isStateFun (x := x) ?_; subst x) | (refine isStateFun2 (x := x) ?_; subst x) | clear_value x | subst x)
    | with_reducible refine completeTxn_good ?_

theorem execMoverCompletion_good {qq : List Instr} {id waited : Nat} {f : Findings} {s : State} (h1 : Good qq s) :
    GoodR qq (execMoverCompletion id waited f s) := by
  delta execMoverCompletion
  repeat' first
    | with_reducible assumption
    | with_reducible intro _
    | (extract_lets -underBinder +onlyGivenNames x; first | (refine good_cut (q := qq) (s := x) ?_ ?_; (on_goal 1 => subst x); (on_goal 2 => (intro _; clear_value x))) | (refine isStateFun (x := x) ?_; subst x) | (refine isStateFun2 (x := x) ?_; subst x) | clear_value x | subst x)
    | with_reducible refine completeTxn_good ?_

end Sys2Proof.Machine
end

