-- ==== Sys2Proof/Laws/KeepServices.lean ====
section
/-!
SUPPORT. Laws/KeepServices.lean: every operation of Machine/Services.lean keeps the queue and the invariant.
-/

namespace Sys2Proof.Machine

theorem scsEnd_good {qq : List Instr} {s : State} {d : Fin 64} {st : ScsStatus} {l : List Nat} (h1 : Good qq s) :
    Good qq (scsEnd s d st l) := by
  unfold scsEnd
  exact updDom_good (good_foldlP (x := (s, l)) h1 (fun x b hx => freeVal_good (w := 32) hx))

theorem scsRun_good {qq : List Instr} {func : Nat} {admin : Bool} {d : Fin 64} {s : State} {f : State → State} (h1 : Good qq s) (h2 : ∀ a0, Good qq a0 → Good qq (f a0)) :
    GoodR qq (scsRun func admin d s f) := by
  delta scsRun
  repeat' first
    | with_reducible assumption
    | with_reducible intro _
    | (extract_lets -underBinder +onlyGivenNames x; first | (refine good_cut (q := qq) (s := x) ?_ ?_; (on_goal 1 => subst x); (on_goal 2 => (intro _; clear_value x))) | (refine isStateFun (x := x) ?_; subst x) | (refine isStateFun2 (x := x) ?_; subst x) | clear_value x | subst x)
    | with_reducible refine h2 _ ?_
    | with_reducible refine goodR_next ?_
    | with_reducible refine scsEnd_good ?_
    | with_reducible split

theorem execHello_good {qq : List Instr} {d : Fin 64} {s : State} (h1 : Good qq s) :
    GoodR qq (execHello d s) := by
  delta execHello
  repeat' first
    | with_reducible assumption
    | with_reducible intro _
    | with_reducible refine scsRun_good ?_ ?_
    | with_reducible refine scsEnd_good ?_

theorem execScsInfo_good {qq : List Instr} {d : Fin 64} {s : State} (h1 : Good qq s) :
    GoodR qq (execScsInfo d s) := by
  delta execScsInfo
  repeat' first
    | with_reducible assumption
    | with_reducible intro _
    | with_reducible refine scsRun_good ?_ ?_
    | with_reducible refine scsEnd_good ?_

theorem execNotices_good {qq : List Instr} {d : Fin 64} {s : State} (h1 : Good qq s) :
    GoodR qq (execNotices d s) := by
  delta execNotices
  repeat' first
    | with_reducible assumption
    | with_reducible intro _
    | (extract_lets -underBinder +onlyGivenNames x; first | (refine good_cut (q := qq) (s := x) ?_ ?_; (on_goal 1 => subst x); (on_goal 2 => (intro _; clear_value x))) | (refine isStateFun (x := x) ?_; subst x) | (refine isStateFun2 (x := x) ?_; subst x) | clear_value x | subst x)
    | with_reducible refine scsRun_good ?_ ?_
    | with_reducible refine scsEnd_good ?_
    | with_reducible refine updDom_good ?_
    | with_reducible refine goodR_of ?_ (by with_reducible assumption)
    | with_reducible exact good_mk (by with_reducible assumption) rfl rfl rfl rfl rfl rfl
    | with_reducible split

theorem execDramState_good {qq : List Instr} {d : Fin 64} {s : State} (h1 : Good qq s) :
    GoodR qq (execDramState d s) := by
  delta execDramState
  repeat' first
    | with_reducible assumption
    | with_reducible intro _
    | with_reducible refine scsRun_good ?_ ?_
    | with_reducible refine scsEnd_good ?_

theorem burn_good {qq : List Instr} {s : State} {f : Fuses → Fuses} (h1 : Good qq s) :
    Good qq (burn s f) := by
  delta burn
  repeat' first
    | with_reducible assumption
    | with_reducible intro _
    | (extract_lets -underBinder +onlyGivenNames x; first | (refine good_cut (q := qq) (s := x) ?_ ?_; (on_goal 1 => subst x); (on_goal 2 => (intro _; clear_value x))) | (refine isStateFun (x := x) ?_; subst x) | (refine isStateFun2 (x := x) ?_; subst x) | clear_value x | subst x)
    | with_reducible refine updSage_good ?_

theorem execFuseKey_good {qq : List Instr} {d : Fin 64} {s : State} (h1 : Good qq s) :
    GoodR qq (execFuseKey d s) := by
  delta execFuseKey
  repeat' first
    | with_reducible assumption
    | with_reducible intro _
    | (extract_lets -underBinder +onlyGivenNames x; first | (refine good_cut (q := qq) (s := x) ?_ ?_; (on_goal 1 => subst x); (on_goal 2 => (intro _; clear_value x))) | (refine isStateFun (x := x) ?_; subst x) | (refine isStateFun2 (x := x) ?_; subst x) | clear_value x | subst x)
    | with_reducible refine scsRun_good ?_ ?_
    | with_reducible refine scsEnd_good ?_
    | with_reducible refine burn_good ?_
    | with_reducible refine good_foldl ?_ ?_
    | with_reducible refine good_foldlP ?_ ?_
    | with_reducible refine goodR_of ?_ (by with_reducible assumption)
    | with_reducible exact good_mk (by with_reducible assumption) rfl rfl rfl rfl rfl rfl
    | with_reducible split

theorem execFuseRevoke_good {qq : List Instr} {d : Fin 64} {s : State} (h1 : Good qq s) :
    GoodR qq (execFuseRevoke d s) := by
  delta execFuseRevoke
  repeat' first
    | with_reducible assumption
    | with_reducible intro _
    | (extract_lets -underBinder +onlyGivenNames x; first | (refine good_cut (q := qq) (s := x) ?_ ?_; (on_goal 1 => subst x); (on_goal 2 => (intro _; clear_value x))) | (refine isStateFun (x := x) ?_; subst x) | (refine isStateFun2 (x := x) ?_; subst x) | clear_value x | subst x)
    | with_reducible refine scsRun_good ?_ ?_
    | with_reducible refine scsEnd_good ?_
    | with_reducible refine burn_good ?_
    | with_reducible refine goodR_of ?_ (by with_reducible assumption)
    | with_reducible exact good_mk (by with_reducible assumption) rfl rfl rfl rfl rfl rfl
    | with_reducible split

theorem execFuseSecver_good {qq : List Instr} {d : Fin 64} {s : State} (h1 : Good qq s) :
    GoodR qq (execFuseSecver d s) := by
  delta execFuseSecver
  repeat' first
    | with_reducible assumption
    | with_reducible intro _
    | (extract_lets -underBinder +onlyGivenNames x; first | (refine good_cut (q := qq) (s := x) ?_ ?_; (on_goal 1 => subst x); (on_goal 2 => (intro _; clear_value x))) | (refine isStateFun (x := x) ?_; subst x) | (refine isStateFun2 (x := x) ?_; subst x) | clear_value x | subst x)
    | with_reducible refine scsRun_good ?_ ?_
    | with_reducible refine scsEnd_good ?_
    | with_reducible refine burn_good ?_
    | with_reducible refine goodR_of ?_ (by with_reducible assumption)
    | with_reducible split

theorem execCalRead_good {qq : List Instr} {d : Fin 64} {env : MemEnv} {s : State} (h1 : Good qq s) :
    GoodR qq (execCalRead d env s) := by
  delta execCalRead
  repeat' first
    | with_reducible assumption
    | with_reducible intro _
    | (extract_lets -underBinder +onlyGivenNames x; first | (refine good_cut (q := qq) (s := x) ?_ ?_; (on_goal 1 => subst x); (on_goal 2 => (intro _; clear_value x))) | (refine good_cutO (q := qq) (x := x) ?_ ?_; (on_goal 1 => subst x); (on_goal 2 => (intro _; clear_value x))) | (refine goodBR_cut (q := qq) (x := x) ?_ ?_; (on_goal 1 => subst x); (on_goal 2 => (intro _; clear_value x))) | (refine isP (x := x) ?_; subst x) | (refine isQ (x := x) ?_; subst x) | (refine isFab (x := x) ?_; subst x) | (refine isSram (x := x) ?_; subst x) | (refine isDram (x := x) ?_; subst x) | (refine isStateFun (x := x) ?_; subst x) | (refine isStateFun2 (x := x) ?_; subst x) | (refine goodBR_fun (x := x) ?_; subst x) | clear_value x | subst x)
    | with_reducible refine goodR_next ?_
    | with_reducible refine goodO_some ?_
    | with_reducible exact goodO_none
    | with_reducible refine goodBR_ok ?_
    | with_reducible refine goodBR_err ?_
    | with_reducible refine goodBR_wait ?_
    | with_reducible refine scsRun_good ?_ ?_
    | with_reducible refine scsEnd_good ?_
    | with_reducible refine busWrite_good ?_
    | with_reducible refine goodO_of ?_ (by with_reducible assumption)
    | with_reducible refine goodP_of ?_ (by with_reducible assumption)
    | with_reducible refine goodQ_of ?_ (by with_reducible assumption)
    | with_reducible refine goodR_of ?_ (by with_reducible assumption)
    | with_reducible refine goodOP_of ?_ (by with_reducible assumption)
    | with_reducible refine goodOQ_of ?_ (by with_reducible assumption)
    | with_reducible refine goodBR_ok_of (by with_reducible assumption) ?_
    | with_reducible refine goodBR_err_of (by with_reducible assumption) ?_
    | with_reducible refine goodBR_wait_of (by with_reducible assumption) ?_
    | with_reducible exact good_mk (by with_reducible assumption) rfl rfl rfl rfl rfl rfl
    | dsimp -zeta only
    | with_reducible split

theorem calCut_good {qq : List Instr} {s : State} {base : Nat} (h1 : Good qq s) :
    Good qq (calCut s base) := by
  delta calCut
  repeat' first
    | with_reducible assumption
    | with_reducible intro _
    | (extract_lets -underBinder +onlyGivenNames x; first | (refine good_cut (q := qq) (s := x) ?_ ?_; (on_goal 1 => subst x); (on_goal 2 => (intro _; clear_value x))) | (refine isStateFun (x := x) ?_; subst x) | (refine isStateFun2 (x := x) ?_; subst x) | clear_value x | subst x)
    | with_reducible refine epWrite_good ?_

theorem execCalWrite_good {qq : List Instr} {d : Fin 64} {env : MemEnv} {cut : Bool} {s : State} (h1 : Good qq s) :
    GoodR qq (execCalWrite d env cut s) := by
  delta execCalWrite
  repeat' first
    | with_reducible assumption
    | with_reducible intro _
    | (extract_lets -underBinder +onlyGivenNames x; first | (refine good_cut (q := qq) (s := x) ?_ ?_; (on_goal 1 => subst x); (on_goal 2 => (intro _; clear_value x))) | (refine good_cutO (q := qq) (x := x) ?_ ?_; (on_goal 1 => subst x); (on_goal 2 => (intro _; clear_value x))) | (refine goodBR_cut (q := qq) (x := x) ?_ ?_; (on_goal 1 => subst x); (on_goal 2 => (intro _; clear_value x))) | (refine isP (x := x) ?_; subst x) | (refine isQ (x := x) ?_; subst x) | (refine isFab (x := x) ?_; subst x) | (refine isSram (x := x) ?_; subst x) | (refine isDram (x := x) ?_; subst x) | (refine isStateFun (x := x) ?_; subst x) | (refine isStateFun2 (x := x) ?_; subst x) | (refine goodBR_fun (x := x) ?_; subst x) | clear_value x | subst x)
    | with_reducible refine goodR_next ?_
    | with_reducible refine goodO_some ?_
    | with_reducible exact goodO_none
    | with_reducible refine goodBR_ok ?_
    | with_reducible refine goodBR_err ?_
    | with_reducible refine goodBR_wait ?_
    | with_reducible refine scsRun_good ?_ ?_
    | with_reducible refine scsEnd_good ?_
    | with_reducible refine busRead_good ?_
    | with_reducible refine calPut_good ?_
    | with_reducible refine calCut_good ?_
    | with_reducible refine goodO_of ?_ (by with_reducible assumption)
    | with_reducible refine goodP_of ?_ (by with_reducible assumption)
    | with_reducible refine goodQ_of ?_ (by with_reducible assumption)
    | with_reducible refine goodR_of ?_ (by with_reducible assumption)
    | with_reducible refine goodOP_of ?_ (by with_reducible assumption)
    | with_reducible refine goodOQ_of ?_ (by with_reducible assumption)
    | with_reducible refine goodBR_ok_of (by with_reducible assumption) ?_
    | with_reducible refine goodBR_err_of (by with_reducible assumption) ?_
    | with_reducible refine goodBR_wait_of (by with_reducible assumption) ?_
    | with_reducible exact good_mk (by with_reducible assumption) rfl rfl rfl rfl rfl rfl
    | dsimp -zeta only
    | with_reducible split

theorem execBistRun_good {qq : List Instr} {d : Fin 64} {env : MemEnv} {s : State} (h1 : Good qq s) :
    GoodR qq (execBistRun d env s) := by
  delta execBistRun
  repeat' first
    | with_reducible assumption
    | with_reducible intro _
    | (extract_lets -underBinder +onlyGivenNames x; first | (refine good_cut (q := qq) (s := x) ?_ ?_; (on_goal 1 => subst x); (on_goal 2 => (intro _; clear_value x))) | (refine good_cutO (q := qq) (x := x) ?_ ?_; (on_goal 1 => subst x); (on_goal 2 => (intro _; clear_value x))) | (refine goodEP_cut (q := qq) (x := x) ?_ ?_; (on_goal 1 => subst x); (on_goal 2 => (intro _; clear_value x))) | (refine isP (x := x) ?_; subst x) | (refine isQ (x := x) ?_; subst x) | (refine isFab (x := x) ?_; subst x) | (refine isSram (x := x) ?_; subst x) | (refine isDram (x := x) ?_; subst x) | (refine isStateFun (x := x) ?_; subst x) | (refine isStateFun2 (x := x) ?_; subst x) | clear_value x | subst x)
    | with_reducible refine goodR_next ?_
    | with_reducible refine goodO_some ?_
    | with_reducible exact goodO_none
    | with_reducible refine goodEP_ok ?_
    | with_reducible refine goodEP_error ?_
    | with_reducible refine scsRun_good ?_ ?_
    | with_reducible refine scsEnd_good ?_
    | with_reducible refine bistBegin_good ?_
    | with_reducible refine goodO_of ?_ (by with_reducible assumption)
    | with_reducible refine goodP_of ?_ (by with_reducible assumption)
    | with_reducible refine goodQ_of ?_ (by with_reducible assumption)
    | with_reducible refine goodR_of ?_ (by with_reducible assumption)
    | with_reducible refine goodEP_ok_of (by with_reducible assumption) ?_
    | with_reducible refine goodEP_error_of (by with_reducible assumption) ?_
    | with_reducible exact good_mk (by with_reducible assumption) rfl rfl rfl rfl rfl rfl
    | dsimp -zeta only
    | with_reducible split

theorem execScsUnknownFunction_good {qq : List Instr} {d : Fin 64} {s : State} (h1 : Good qq s) :
    GoodR qq (execScsUnknownFunction d s) := by
  delta execScsUnknownFunction
  repeat' first
    | with_reducible assumption
    | with_reducible intro _
    | (extract_lets -underBinder +onlyGivenNames x; first | (refine good_cut (q := qq) (s := x) ?_ ?_; (on_goal 1 => subst x); (on_goal 2 => (intro _; clear_value x))) | (refine isStateFun (x := x) ?_; subst x) | (refine isStateFun2 (x := x) ?_; subst x) | clear_value x | subst x)
    | with_reducible refine goodR_next ?_
    | with_reducible refine scsEnd_good ?_
    | with_reducible split

theorem scsClose_good {qq : List Instr} {s : State} {d : Fin 64} {seq st : Nat} (h1 : Good qq s) :
    Good qq (scsClose s d seq st) := by
  delta scsClose
  repeat' first
    | with_reducible assumption
    | with_reducible intro _
    | (extract_lets -underBinder +onlyGivenNames x; first | (refine good_cut (q := qq) (s := x) ?_ ?_; (on_goal 1 => subst x); (on_goal 2 => (intro _; clear_value x))) | (refine isStateFun (x := x) ?_; subst x) | (refine isStateFun2 (x := x) ?_; subst x) | clear_value x | subst x)
    | with_reducible refine setIrq_good ?_
    | with_reducible refine updDom_good ?_
    | with_reducible refine wr_good ?_

theorem execScsResponse_good {qq : List Instr} {d : Fin 64} {s : State} (h1 : Good qq s) :
    GoodR qq (execScsResponse d s) := by
  delta execScsResponse
  repeat' first
    | with_reducible assumption
    | with_reducible intro _
    | (extract_lets -underBinder +onlyGivenNames x; first | (refine good_cut (q := qq) (s := x) ?_ ?_; (on_goal 1 => subst x); (on_goal 2 => (intro _; clear_value x))) | (refine isStateFun (x := x) ?_; subst x) | (refine isStateFun2 (x := x) ?_; subst x) | clear_value x | subst x)
    | with_reducible refine goodR_next ?_
    | with_reducible refine wr_good ?_
    | with_reducible refine wrF_good ?_
    | with_reducible refine recInternal_good ?_
    | with_reducible refine scsClose_good ?_
    | with_reducible refine good_foldl ?_ ?_
    | with_reducible refine good_foldlP ?_ ?_
    | with_reducible refine goodO_getD ?_ ?_
    | with_reducible exact good_mk (by with_reducible assumption) rfl rfl rfl rfl rfl rfl
    | with_reducible split

theorem execScsTimeout_good {qq : List Instr} {d : Fin 64} {s : State} (h1 : Good qq s) :
    GoodR qq (execScsTimeout d s) := by
  delta execScsTimeout
  repeat' first
    | with_reducible assumption
    | with_reducible intro _
    | (extract_lets -underBinder +onlyGivenNames x; first | (refine good_cut (q := qq) (s := x) ?_ ?_; (on_goal 1 => subst x); (on_goal 2 => (intro _; clear_value x))) | (refine isStateFun (x := x) ?_; subst x) | (refine isStateFun2 (x := x) ?_; subst x) | clear_value x | subst x)
    | with_reducible refine goodR_next ?_
    | with_reducible refine scsClose_good ?_
    | with_reducible refine recInternal_good ?_
    | with_reducible exact good_mk (by with_reducible assumption) rfl rfl rfl rfl rfl rfl
    | with_reducible split

theorem mapRank_good {qq : List Instr} {failed : BitVec 18} {r : State × Bool} {l : Nat} (h1 : Good qq r.1) :
    Good qq (mapRank failed r l).1 := by
  delta mapRank
  repeat' first
    | with_reducible assumption
    | with_reducible intro _
    | (extract_lets -underBinder +onlyGivenNames x; first | (refine good_cut (q := qq) (s := x) ?_ ?_; (on_goal 1 => subst x); (on_goal 2 => (intro _; clear_value x))) | (refine isP (x := x) ?_; subst x) | (refine isStateFun (x := x) ?_; subst x) | (refine isStateFun2 (x := x) ?_; subst x) | clear_value x | subst x)
    | with_reducible refine wrF_good ?_
    | with_reducible refine wrB_good ?_
    | with_reducible refine setSpare_good ?_
    | with_reducible refine goodP_of ?_ (by with_reducible assumption)
    | dsimp -zeta only
    | with_reducible split

theorem reportDram_good {qq : List Instr} {s : State} (h1 : Good qq s) :
    Good qq (reportDram s) := by
  delta reportDram
  repeat' first
    | with_reducible assumption
    | with_reducible intro _
    | (extract_lets -underBinder +onlyGivenNames x; first | (refine good_cut (q := qq) (s := x) ?_ ?_; (on_goal 1 => subst x); (on_goal 2 => (intro _; clear_value x))) | (refine isStateFun (x := x) ?_; subst x) | (refine isStateFun2 (x := x) ?_; subst x) | clear_value x | subst x)
    | with_reducible refine setIrq_good ?_
    | with_reducible refine updDom_good ?_
    | with_reducible refine good_foldl ?_ ?_
    | with_reducible refine good_foldlP ?_ ?_
    | with_reducible exact good_mk (by with_reducible assumption) rfl rfl rfl rfl rfl rfl
    | with_reducible split

theorem clearDram_good {qq : List Instr} {s : State} (h1 : Good qq s) :
    Good qq (clearDram s) := by
  exact { h1 with dram := rfl, dbad := rfl }

theorem bringUp_good {qq : List Instr} {s : State} {failed : BitVec 18} (h1 : Good qq s) :
    Good qq (bringUp s failed) := by
  delta bringUp
  repeat' first
    | with_reducible assumption
    | with_reducible intro _
    | (extract_lets -underBinder +onlyGivenNames x; first | (refine good_cut (q := qq) (s := x) ?_ ?_; (on_goal 1 => subst x); (on_goal 2 => (intro _; clear_value x))) | (refine good_cutO (q := qq) (x := x) ?_ ?_; (on_goal 1 => subst x); (on_goal 2 => (intro _; clear_value x))) | (refine isP (x := x) ?_; subst x) | (refine isQ (x := x) ?_; subst x) | (refine isFab (x := x) ?_; subst x) | (refine isSram (x := x) ?_; subst x) | (refine isDram (x := x) ?_; subst x) | (refine isStateFun (x := x) ?_; subst x) | (refine isStateFun2 (x := x) ?_; subst x) | clear_value x | subst x)
    | with_reducible refine goodR_next ?_
    | with_reducible refine goodO_some ?_
    | with_reducible exact goodO_none
    | with_reducible refine recordErr_good ?_
    | with_reducible refine wrF_good ?_
    | with_reducible refine channelUp_good ?_
    | with_reducible refine setSpare_good ?_
    | with_reducible refine mapRank_good ?_
    | with_reducible refine clearDram_good ?_
    | with_reducible refine recUnstated_good ?_
    | with_reducible refine wrB_good ?_
    | with_reducible refine reportDram_good ?_
    | with_reducible refine setIrq_good ?_
    | with_reducible refine restoreMode_good ?_
    | with_reducible refine good_foldl ?_ ?_
    | with_reducible refine good_foldlP ?_ ?_
    | with_reducible refine goodO_foldl ?_ ?_
    | with_reducible refine goodO_of ?_ (by with_reducible assumption)
    | with_reducible refine goodP_of ?_ (by with_reducible assumption)
    | with_reducible refine goodQ_of ?_ (by with_reducible assumption)
    | with_reducible refine goodR_of ?_ (by with_reducible assumption)
    | with_reducible exact good_mk (by with_reducible assumption) rfl rfl rfl rfl rfl rfl
    | dsimp -zeta only
    | with_reducible split

theorem execDramBringup_good {qq : List Instr} {failed : BitVec 18} {s : State} (h1 : Good qq s) :
    GoodR qq (execDramBringup failed s) := by
  delta execDramBringup
  repeat' first
    | with_reducible assumption
    | with_reducible intro _
    | (extract_lets -underBinder +onlyGivenNames x; first | (refine good_cut (q := qq) (s := x) ?_ ?_; (on_goal 1 => subst x); (on_goal 2 => (intro _; clear_value x))) | (refine good_cutO (q := qq) (x := x) ?_ ?_; (on_goal 1 => subst x); (on_goal 2 => (intro _; clear_value x))) | (refine isP (x := x) ?_; subst x) | (refine isQ (x := x) ?_; subst x) | (refine isFab (x := x) ?_; subst x) | (refine isSram (x := x) ?_; subst x) | (refine isDram (x := x) ?_; subst x) | (refine isStateFun (x := x) ?_; subst x) | (refine isStateFun2 (x := x) ?_; subst x) | clear_value x | subst x)
    | with_reducible refine goodR_next ?_
    | with_reducible refine goodO_some ?_
    | with_reducible exact goodO_none
    | with_reducible refine bringUp_good ?_
    | with_reducible refine vrSend_good ?_
    | with_reducible refine goodO_of ?_ (by with_reducible assumption)
    | with_reducible refine goodP_of ?_ (by with_reducible assumption)
    | with_reducible refine goodQ_of ?_ (by with_reducible assumption)
    | with_reducible refine goodR_of ?_ (by with_reducible assumption)
    | with_reducible exact good_mk (by with_reducible assumption) rfl rfl rfl rfl rfl rfl
    | with_reducible exact good_mkD rfl rfl (by with_reducible assumption) (by with_reducible assumption) rfl rfl rfl rfl
    | dsimp -zeta only
    | with_reducible split

end Sys2Proof.Machine
end

