-- ==== Sys2Proof/Laws/KeepWinovarXlate.lean ====
section
/-!
SUPPORT. Laws/KeepWinovarXlate.lean: every operation of Machine/WinovarXlate.lean keeps the queue and the invariant.
-/

namespace Sys2Proof.Machine

/-- Of `XR`. -/
def GoodX (q : List Instr) {α : Type} : XR α → Prop
  | .ok s _ => Good q s
  | .exc s _ => Good q s
  | .wait s => Good q s

theorem goodX_ok {q : List Instr} {α : Type} {s : State} {a} (h : Good q s) : GoodX q (.ok s a : XR α) := h
theorem goodX_ok_of {q : List Instr} {α : Type} {s : State} {a} {x : XR α} (e : x = .ok s a) (h : GoodX q x) : Good q s := by subst e; exact h
theorem goodX_exc {q : List Instr} {α : Type} {s : State} {a} (h : Good q s) : GoodX q (.exc s a : XR α) := h
theorem goodX_exc_of {q : List Instr} {α : Type} {s : State} {a} {x : XR α} (e : x = .exc s a) (h : GoodX q x) : Good q s := by subst e; exact h
theorem goodX_wait {q : List Instr} {α : Type} {s : State} (h : Good q s) : GoodX q (.wait s : XR α) := h
theorem goodX_wait_of {q : List Instr} {α : Type} {s : State} {x : XR α} (e : x = .wait s) (h : GoodX q x) : Good q s := by subst e; exact h
theorem goodX_ok_inv {q : List Instr} {α : Type} {s : State} {a} (h : GoodX q (.ok s a : XR α)) : Good q s := h
theorem goodX_exc_inv {q : List Instr} {α : Type} {s : State} {a} (h : GoodX q (.exc s a : XR α)) : Good q s := h
theorem goodX_wait_inv {q : List Instr} {α : Type} {s : State} (h : GoodX q (.wait s : XR α)) : Good q s := h
theorem goodX_cut {q : List Instr} {α : Type} {P : Prop} {x : XR α} (h0 : GoodX q x) (h : GoodX q x → P) : P := h h0
theorem goodX_fun {α β : Type} {P : Prop} {x : α → XR β} (h : P) : P := let _ := x; h
theorem goodX_fun2 {α β γ : Type} {P : Prop} {x : α → β → XR γ} (h : P) : P := let _ := x; h

theorem XR_bind_good {qq : List Instr} {α β : Type} {x : XR α} {f : State → α → XR β} (h1 : GoodX qq x) (h2 : ∀ a0 a1, Good qq a0 → GoodX qq (f a0 a1)) :
    GoodX qq (XR.bind x f) := by
  cases x with
  | ok s v => exact h2 s v h1
  | exc s e => exact h1
  | wait s => exact h1

theorem readEntry_good {qq : List Instr} {s : State} {n : Fin 24} {pe : Nat} {env : MemEnv} (h1 : Good qq s) :
    GoodX qq (readEntry s n pe env) := by
  delta readEntry
  repeat' first
    | with_reducible assumption
    | with_reducible intro _
    | (extract_lets -underBinder +onlyGivenNames x; first | (refine good_cut (q := qq) (s := x) ?_ ?_; (on_goal 1 => subst x); (on_goal 2 => (intro _; clear_value x))) | (refine good_cutO (q := qq) (x := x) ?_ ?_; (on_goal 1 => subst x); (on_goal 2 => (intro _; clear_value x))) | (refine goodG_cut (q := qq) (x := x) ?_ ?_; (on_goal 1 => subst x); (on_goal 2 => (intro _; clear_value x))) | (refine goodX_cut (q := qq) (x := x) ?_ ?_; (on_goal 1 => subst x); (on_goal 2 => (intro _; clear_value x))) | (refine isP (x := x) ?_; subst x) | (refine isQ (x := x) ?_; subst x) | (refine isFab (x := x) ?_; subst x) | (refine isSram (x := x) ?_; subst x) | (refine isDram (x := x) ?_; subst x) | (refine isStateFun (x := x) ?_; subst x) | (refine isStateFun2 (x := x) ?_; subst x) | (refine goodG_fun (x := x) ?_; subst x) | (refine goodX_fun (x := x) ?_; subst x) | clear_value x | subst x)
    | with_reducible refine goodR_next ?_
    | with_reducible refine goodO_some ?_
    | with_reducible exact goodO_none
    | with_reducible refine goodG_ok ?_
    | with_reducible refine goodG_err ?_
    | with_reducible refine goodG_wait ?_
    | with_reducible refine goodX_ok ?_
    | with_reducible refine goodX_exc ?_
    | with_reducible refine goodX_wait ?_
    | with_reducible refine obtain_good ?_
    | with_reducible refine goodO_of ?_ (by with_reducible assumption)
    | with_reducible refine goodP_of ?_ (by with_reducible assumption)
    | with_reducible refine goodQ_of ?_ (by with_reducible assumption)
    | with_reducible refine goodR_of ?_ (by with_reducible assumption)
    | with_reducible refine goodG_ok_of (by with_reducible assumption) ?_
    | with_reducible refine goodG_err_of (by with_reducible assumption) ?_
    | with_reducible refine goodG_ok_ofP (by with_reducible assumption) ?_
    | with_reducible refine goodG_err_ofP (by with_reducible assumption) ?_
    | with_reducible refine goodG_wait_of (by with_reducible assumption) ?_
    | with_reducible refine goodG_wait_ofP (by with_reducible assumption) ?_
    | with_reducible refine goodX_ok_of (by with_reducible assumption) ?_
    | with_reducible refine goodX_exc_of (by with_reducible assumption) ?_
    | with_reducible refine goodX_wait_of (by with_reducible assumption) ?_
    | with_reducible exact good_mk (by with_reducible assumption) rfl rfl rfl rfl rfl rfl
    | dsimp -zeta only
    | with_reducible split

theorem walkPut_good {qq : List Instr} {s : State} {n : Fin 24} {x : WalkEnt} (h1 : Good qq s) :
    Good qq (walkPut s n x) := by
  delta walkPut
  repeat' first
    | with_reducible assumption
    | with_reducible intro _
    | (extract_lets -underBinder +onlyGivenNames x; first | (refine good_cut (q := qq) (s := x) ?_ ?_; (on_goal 1 => subst x); (on_goal 2 => (intro _; clear_value x))) | (refine good_cutO (q := qq) (x := x) ?_ ?_; (on_goal 1 => subst x); (on_goal 2 => (intro _; clear_value x))) | (refine isP (x := x) ?_; subst x) | (refine isQ (x := x) ?_; subst x) | (refine isFab (x := x) ?_; subst x) | (refine isSram (x := x) ?_; subst x) | (refine isDram (x := x) ?_; subst x) | (refine isStateFun (x := x) ?_; subst x) | (refine isStateFun2 (x := x) ?_; subst x) | clear_value x | subst x)
    | with_reducible refine goodR_next ?_
    | with_reducible refine goodO_some ?_
    | with_reducible exact goodO_none
    | with_reducible refine updCore_good ?_

theorem walkStart_good {qq : List Instr} {s : State} {n : Fin 24} {x : WalkEnt} {addr : Nat} (h1 : Good qq s) :
    Good qq (walkStart s n x addr).2 := by
  delta walkStart
  repeat' first
    | with_reducible assumption
    | with_reducible intro _
    | (extract_lets -underBinder +onlyGivenNames x; first | (refine good_cut (q := qq) (s := x) ?_ ?_; (on_goal 1 => subst x); (on_goal 2 => (intro _; clear_value x))) | (refine good_cutO (q := qq) (x := x) ?_ ?_; (on_goal 1 => subst x); (on_goal 2 => (intro _; clear_value x))) | (refine isP (x := x) ?_; subst x) | (refine isQ (x := x) ?_; subst x) | (refine isFab (x := x) ?_; subst x) | (refine isSram (x := x) ?_; subst x) | (refine isDram (x := x) ?_; subst x) | (refine isStateFun (x := x) ?_; subst x) | (refine isStateFun2 (x := x) ?_; subst x) | clear_value x | subst x)
    | with_reducible refine goodR_next ?_
    | with_reducible refine goodO_some ?_
    | with_reducible exact goodO_none
    | with_reducible refine freeVal_good ?_
    | with_reducible refine updCore_good ?_
    | with_reducible refine goodO_of ?_ (by with_reducible assumption)
    | with_reducible refine goodP_of ?_ (by with_reducible assumption)
    | with_reducible refine goodQ_of ?_ (by with_reducible assumption)
    | with_reducible refine goodR_of ?_ (by with_reducible assumption)
    | with_reducible exact good_mk (by with_reducible assumption) rfl rfl rfl rfl rfl rfl
    | dsimp -zeta only
    | with_reducible split

theorem walkFrom_good {qq : List Instr} {n : Fin 24} {x : WalkEnt} {addr : Nat} {pa : State → Nat → XR Nat} {env : MemEnv} {k tbl : Nat} {s : State}
    (h1 : ∀ s a, Good qq s → GoodX qq (pa s a)) (h2 : Good qq s) : GoodX qq (walkFrom n x addr pa env k tbl s) := by
  induction k generalizing tbl s with
  | zero =>
    unfold walkFrom
    refine XR_bind_good (h1 _ _ h2) (fun s _ hs => XR_bind_good (readEntry_good hs) (fun s r hs => ?_))
    split
    · exact hs
    · split <;> exact hs
  | succ k ih =>
    unfold walkFrom
    refine XR_bind_good (h1 _ _ h2) (fun s _ hs => XR_bind_good (readEntry_good hs) (fun s r hs => ?_))
    split
    · exact hs
    · split
      · exact hs
      · exact hs
      · exact ih (walkPut_good hs)

theorem walk_good {qq : List Instr} {s : State} {n : Fin 24} {x : WalkEnt} {addr : Nat} {pa : State → Nat → XR Nat} {env : MemEnv} (h1 : Good qq s) (h2 : ∀ a0 a1, Good qq a0 → GoodX qq (pa a0 a1)) :
    GoodX qq (walk s n x addr pa env) := by
  delta walk
  repeat' first
    | with_reducible assumption
    | with_reducible intro _
    | (extract_lets -underBinder +onlyGivenNames x; first | (refine good_cut (q := qq) (s := x) ?_ ?_; (on_goal 1 => subst x); (on_goal 2 => (intro _; clear_value x))) | (refine good_cutO (q := qq) (x := x) ?_ ?_; (on_goal 1 => subst x); (on_goal 2 => (intro _; clear_value x))) | (refine goodX_cut (q := qq) (x := x) ?_ ?_; (on_goal 1 => subst x); (on_goal 2 => (intro _; clear_value x))) | (refine isP (x := x) ?_; subst x) | (refine isQ (x := x) ?_; subst x) | (refine isFab (x := x) ?_; subst x) | (refine isSram (x := x) ?_; subst x) | (refine isDram (x := x) ?_; subst x) | (refine isStateFun (x := x) ?_; subst x) | (refine isStateFun2 (x := x) ?_; subst x) | (refine goodX_fun (x := x) ?_; subst x) | clear_value x | subst x)
    | with_reducible refine h2 _ _ ?_
    | with_reducible refine goodR_next ?_
    | with_reducible refine goodO_some ?_
    | with_reducible exact goodO_none
    | with_reducible refine goodX_ok ?_
    | with_reducible refine goodX_exc ?_
    | with_reducible refine goodX_wait ?_
    | with_reducible refine walkStart_good ?_
    | with_reducible refine walkFrom_good ?_ ?_

theorem stage2_good {qq : List Instr} {s : State} {n : Fin 24} {acc : Acc} {ea : Nat} {ipa : Nat} {s2w : Bool} {env : MemEnv} (h1 : Good qq s) :
    GoodX qq (stage2 s n acc ea ipa s2w env) := by
  delta stage2
  repeat' first
    | with_reducible assumption
    | with_reducible intro _
    | (extract_lets -underBinder +onlyGivenNames x; first | (refine good_cut (q := qq) (s := x) ?_ ?_; (on_goal 1 => subst x); (on_goal 2 => (intro _; clear_value x))) | (refine good_cutO (q := qq) (x := x) ?_ ?_; (on_goal 1 => subst x); (on_goal 2 => (intro _; clear_value x))) | (refine goodX_cut (q := qq) (x := x) ?_ ?_; (on_goal 1 => subst x); (on_goal 2 => (intro _; clear_value x))) | (refine isP (x := x) ?_; subst x) | (refine isQ (x := x) ?_; subst x) | (refine isFab (x := x) ?_; subst x) | (refine isSram (x := x) ?_; subst x) | (refine isDram (x := x) ?_; subst x) | (refine isStateFun (x := x) ?_; subst x) | (refine isStateFun2 (x := x) ?_; subst x) | (refine goodX_fun (x := x) ?_; subst x) | clear_value x | subst x)
    | with_reducible refine goodR_next ?_
    | with_reducible refine goodO_some ?_
    | with_reducible exact goodO_none
    | with_reducible refine goodX_ok ?_
    | with_reducible refine goodX_exc ?_
    | with_reducible refine goodX_wait ?_
    | with_reducible refine walk_good ?_ ?_
    | with_reducible refine XR_bind_good ?_ ?_
    | with_reducible refine goodO_bind ?_ ?_
    | with_reducible refine goodO_of ?_ (by with_reducible assumption)
    | with_reducible refine goodP_of ?_ (by with_reducible assumption)
    | with_reducible refine goodQ_of ?_ (by with_reducible assumption)
    | with_reducible refine goodR_of ?_ (by with_reducible assumption)
    | with_reducible refine goodX_ok_of (by with_reducible assumption) ?_
    | with_reducible refine goodX_exc_of (by with_reducible assumption) ?_
    | with_reducible refine goodX_wait_of (by with_reducible assumption) ?_
    | with_reducible exact good_mk (by with_reducible assumption) rfl rfl rfl rfl rfl rfl
    | dsimp -zeta only
    | with_reducible split

theorem tlbSmall_good {qq : List Instr} {s : State} {n : Fin 24} {acc : Acc} {t : TlbEnt} (h1 : Good qq s) :
    Good qq (tlbSmall s n acc t) := by
  delta tlbSmall
  repeat' first
    | with_reducible assumption
    | with_reducible intro _
    | (extract_lets -underBinder +onlyGivenNames x; first | (refine good_cut (q := qq) (s := x) ?_ ?_; (on_goal 1 => subst x); (on_goal 2 => (intro _; clear_value x))) | (refine good_cutO (q := qq) (x := x) ?_ ?_; (on_goal 1 => subst x); (on_goal 2 => (intro _; clear_value x))) | (refine isP (x := x) ?_; subst x) | (refine isQ (x := x) ?_; subst x) | (refine isFab (x := x) ?_; subst x) | (refine isSram (x := x) ?_; subst x) | (refine isDram (x := x) ?_; subst x) | (refine isStateFun (x := x) ?_; subst x) | (refine isStateFun2 (x := x) ?_; subst x) | clear_value x | subst x)
    | with_reducible refine goodR_next ?_
    | with_reducible refine goodO_some ?_
    | with_reducible exact goodO_none
    | with_reducible refine updCore_good ?_

theorem tlbPut_good {qq : List Instr} {s : State} {n : Fin 24} {acc : Acc} {t : TlbEnt} (h1 : Good qq s) :
    Good qq (tlbPut s n acc t) := by
  delta tlbPut
  repeat' first
    | with_reducible assumption
    | with_reducible intro _
    | (extract_lets -underBinder +onlyGivenNames x; first | (refine good_cut (q := qq) (s := x) ?_ ?_; (on_goal 1 => subst x); (on_goal 2 => (intro _; clear_value x))) | (refine good_cutO (q := qq) (x := x) ?_ ?_; (on_goal 1 => subst x); (on_goal 2 => (intro _; clear_value x))) | (refine isP (x := x) ?_; subst x) | (refine isQ (x := x) ?_; subst x) | (refine isFab (x := x) ?_; subst x) | (refine isSram (x := x) ?_; subst x) | (refine isDram (x := x) ?_; subst x) | (refine isStateFun (x := x) ?_; subst x) | (refine isStateFun2 (x := x) ?_; subst x) | clear_value x | subst x)
    | with_reducible refine goodR_next ?_
    | with_reducible refine goodO_some ?_
    | with_reducible exact goodO_none
    | with_reducible refine tlbSmall_good ?_
    | with_reducible refine updCore_good ?_

theorem tlbDrop_good {qq : List Instr} {s : State} {n : Fin 24} {t : TlbEnt} (h1 : Good qq s) :
    Good qq (tlbDrop s n t) := by
  delta tlbDrop
  repeat' first
    | with_reducible assumption
    | with_reducible intro _
    | (extract_lets -underBinder +onlyGivenNames x; first | (refine good_cut (q := qq) (s := x) ?_ ?_; (on_goal 1 => subst x); (on_goal 2 => (intro _; clear_value x))) | (refine good_cutO (q := qq) (x := x) ?_ ?_; (on_goal 1 => subst x); (on_goal 2 => (intro _; clear_value x))) | (refine isP (x := x) ?_; subst x) | (refine isQ (x := x) ?_; subst x) | (refine isFab (x := x) ?_; subst x) | (refine isSram (x := x) ?_; subst x) | (refine isDram (x := x) ?_; subst x) | (refine isStateFun (x := x) ?_; subst x) | (refine isStateFun2 (x := x) ?_; subst x) | clear_value x | subst x)
    | with_reducible refine goodR_next ?_
    | with_reducible refine goodO_some ?_
    | with_reducible exact goodO_none
    | with_reducible refine updCore_good ?_

theorem stage1_good {qq : List Instr} {s : State} {n : Fin 24} {lvl : Nat} {acc : Acc} {va : Nat} {x : WalkEnt} {env : MemEnv} (h1 : Good qq s) :
    GoodX qq (stage1 s n lvl acc va x env) := by
  unfold stage1
  have hpa : ∀ (u : State) (a : Nat), Good qq u →
      GoodX qq ((fun (s : State) (pe : Nat) => if x.comb then (stage2 s n acc va pe true env).bind (fun s l => .ok s l.oa) else XR.ok s pe) u a) := by
    intro u a hu
    dsimp only
    split
    · exact XR_bind_good (stage2_good hu) fun _ _ h => h
    · exact hu
  refine XR_bind_good (walk_good h1 hpa) fun s r hs => ?_
  split
  · exact hs
  · split <;> exact hs

theorem walkAll_good {qq : List Instr} {s : State} {n : Fin 24} {lvl : Nat} {acc : Acc} {va : Nat} {hyp : Bool} {s1 : Bool} {s2 : Bool} {did : Nat} {asid : Nat} {env : MemEnv} (h1 : Good qq s) :
    GoodX qq (walkAll s n lvl acc va hyp s1 s2 did asid env) := by
  delta walkAll
  repeat' first
    | with_reducible assumption
    | with_reducible intro _
    | (extract_lets -underBinder +onlyGivenNames x; first | (refine good_cut (q := qq) (s := x) ?_ ?_; (on_goal 1 => subst x); (on_goal 2 => (intro _; clear_value x))) | (refine good_cutO (q := qq) (x := x) ?_ ?_; (on_goal 1 => subst x); (on_goal 2 => (intro _; clear_value x))) | (refine goodX_cut (q := qq) (x := x) ?_ ?_; (on_goal 1 => subst x); (on_goal 2 => (intro _; clear_value x))) | (refine isP (x := x) ?_; subst x) | (refine isQ (x := x) ?_; subst x) | (refine isFab (x := x) ?_; subst x) | (refine isSram (x := x) ?_; subst x) | (refine isDram (x := x) ?_; subst x) | (refine isStateFun (x := x) ?_; subst x) | (refine isStateFun2 (x := x) ?_; subst x) | (refine goodX_fun (x := x) ?_; subst x) | clear_value x | subst x)
    | with_reducible refine goodR_next ?_
    | with_reducible refine goodO_some ?_
    | with_reducible exact goodO_none
    | with_reducible refine goodX_ok ?_
    | with_reducible refine goodX_exc ?_
    | with_reducible refine goodX_wait ?_
    | with_reducible refine stage1_good ?_
    | with_reducible refine stage2_good ?_
    | with_reducible refine tlbPut_good ?_
    | with_reducible refine XR_bind_good ?_ ?_
    | with_reducible refine goodO_bind ?_ ?_
    | with_reducible refine goodO_map ?_ ?_
    | with_reducible refine goodOP_mapP ?_ ?_
    | with_reducible refine goodOP_map ?_ ?_
    | with_reducible refine goodO_mapP ?_ ?_
    | with_reducible refine goodO_of ?_ (by with_reducible assumption)
    | with_reducible refine goodP_of ?_ (by with_reducible assumption)
    | with_reducible refine goodQ_of ?_ (by with_reducible assumption)
    | with_reducible refine goodR_of ?_ (by with_reducible assumption)
    | with_reducible refine goodX_ok_of (by with_reducible assumption) ?_
    | with_reducible refine goodX_exc_of (by with_reducible assumption) ?_
    | with_reducible refine goodX_wait_of (by with_reducible assumption) ?_
    | with_reducible exact good_mk (by with_reducible assumption) rfl rfl rfl rfl rfl rfl
    | dsimp -zeta only
    | with_reducible split

theorem translate_good {qq : List Instr} {s : State} {n : Fin 24} {va64 : Nat} {acc : Acc} {env : MemEnv} (h1 : Good qq s) :
    GoodX qq (translate s n va64 acc env) := by
  delta translate
  repeat' first
    | with_reducible assumption
    | with_reducible intro _
    | (extract_lets -underBinder +onlyGivenNames x; first | (refine good_cut (q := qq) (s := x) ?_ ?_; (on_goal 1 => subst x); (on_goal 2 => (intro _; clear_value x))) | (refine good_cutO (q := qq) (x := x) ?_ ?_; (on_goal 1 => subst x); (on_goal 2 => (intro _; clear_value x))) | (refine goodX_cut (q := qq) (x := x) ?_ ?_; (on_goal 1 => subst x); (on_goal 2 => (intro _; clear_value x))) | (refine isP (x := x) ?_; subst x) | (refine isQ (x := x) ?_; subst x) | (refine isFab (x := x) ?_; subst x) | (refine isSram (x := x) ?_; subst x) | (refine isDram (x := x) ?_; subst x) | (refine isStateFun (x := x) ?_; subst x) | (refine isStateFun2 (x := x) ?_; subst x) | (refine goodX_fun (x := x) ?_; subst x) | clear_value x | subst x)
    | with_reducible refine goodR_next ?_
    | with_reducible refine goodO_some ?_
    | with_reducible exact goodO_none
    | with_reducible refine goodX_ok ?_
    | with_reducible refine goodX_exc ?_
    | with_reducible refine goodX_wait ?_
    | with_reducible refine freeVal_good ?_
    | with_reducible refine walkAll_good ?_
    | with_reducible refine tlbDrop_good ?_
    | with_reducible refine tlbSmall_good ?_
    | with_reducible refine goodO_of ?_ (by with_reducible assumption)
    | with_reducible refine goodP_of ?_ (by with_reducible assumption)
    | with_reducible refine goodQ_of ?_ (by with_reducible assumption)
    | with_reducible refine goodR_of ?_ (by with_reducible assumption)
    | with_reducible refine goodX_ok_of (by with_reducible assumption) ?_
    | with_reducible refine goodX_exc_of (by with_reducible assumption) ?_
    | with_reducible refine goodX_wait_of (by with_reducible assumption) ?_
    | with_reducible exact good_mk (by with_reducible assumption) rfl rfl rfl rfl rfl rfl
    | dsimp -zeta only
    | with_reducible split

theorem takeServed_good {qq : List Instr} {s : State} {n : Fin 24} {fetch : Bool} {lines : List Nat} (h1 : Good qq s) :
    Good qq (takeServed s n fetch lines).2 := by
  delta takeServed
  repeat' first
    | with_reducible assumption
    | with_reducible intro _
    | (extract_lets -underBinder +onlyGivenNames x; first | (refine good_cut (q := qq) (s := x) ?_ ?_; (on_goal 1 => subst x); (on_goal 2 => (intro _; clear_value x))) | (refine good_cutO (q := qq) (x := x) ?_ ?_; (on_goal 1 => subst x); (on_goal 2 => (intro _; clear_value x))) | (refine isP (x := x) ?_; subst x) | (refine isQ (x := x) ?_; subst x) | (refine isFab (x := x) ?_; subst x) | (refine isSram (x := x) ?_; subst x) | (refine isDram (x := x) ?_; subst x) | (refine isStateFun (x := x) ?_; subst x) | (refine isStateFun2 (x := x) ?_; subst x) | clear_value x | subst x)
    | with_reducible refine goodR_next ?_
    | with_reducible refine goodO_some ?_
    | with_reducible exact goodO_none
    | with_reducible refine updCore_good ?_
    | with_reducible refine goodO_of ?_ (by with_reducible assumption)
    | with_reducible refine goodP_of ?_ (by with_reducible assumption)
    | with_reducible refine goodQ_of ?_ (by with_reducible assumption)
    | with_reducible refine goodR_of ?_ (by with_reducible assumption)
    | with_reducible exact good_mk (by with_reducible assumption) rfl rfl rfl rfl rfl rfl
    | dsimp -zeta only
    | with_reducible split

theorem putServed_good {qq : List Instr} {s : State} {n : Fin 24} {fetch : Bool} {line : Nat} {evs : List Nat} (h1 : Good qq s) :
    Good qq (putServed s n fetch line evs) := by
  delta putServed
  repeat' first
    | with_reducible assumption
    | with_reducible intro _
    | (extract_lets -underBinder +onlyGivenNames x; first | (refine good_cut (q := qq) (s := x) ?_ ?_; (on_goal 1 => subst x); (on_goal 2 => (intro _; clear_value x))) | (refine good_cutO (q := qq) (x := x) ?_ ?_; (on_goal 1 => subst x); (on_goal 2 => (intro _; clear_value x))) | (refine isP (x := x) ?_; subst x) | (refine isQ (x := x) ?_; subst x) | (refine isFab (x := x) ?_; subst x) | (refine isSram (x := x) ?_; subst x) | (refine isDram (x := x) ?_; subst x) | (refine isStateFun (x := x) ?_; subst x) | (refine isStateFun2 (x := x) ?_; subst x) | clear_value x | subst x)
    | with_reducible refine goodR_next ?_
    | with_reducible refine goodO_some ?_
    | with_reducible exact goodO_none
    | with_reducible refine updCore_good ?_
    | with_reducible refine goodO_of ?_ (by with_reducible assumption)
    | with_reducible refine goodP_of ?_ (by with_reducible assumption)
    | with_reducible refine goodQ_of ?_ (by with_reducible assumption)
    | with_reducible refine goodR_of ?_ (by with_reducible assumption)
    | with_reducible exact good_mk (by with_reducible assumption) rfl rfl rfl rfl rfl rfl
    | dsimp -zeta only
    | with_reducible split

theorem fetchInstr_good {qq : List Instr} {s : State} {n : Fin 24} {env : MemEnv} (h1 : Good qq s) :
    GoodX qq (fetchInstr s n env) := by
  delta fetchInstr
  repeat' first
    | with_reducible assumption
    | with_reducible intro _
    | (extract_lets -underBinder +onlyGivenNames x; first | (refine good_cut (q := qq) (s := x) ?_ ?_; (on_goal 1 => subst x); (on_goal 2 => (intro _; clear_value x))) | (refine good_cutO (q := qq) (x := x) ?_ ?_; (on_goal 1 => subst x); (on_goal 2 => (intro _; clear_value x))) | (refine goodPA_cut (q := qq) (x := x) ?_ ?_; (on_goal 1 => subst x); (on_goal 2 => (intro _; clear_value x))) | (refine goodG_cut (q := qq) (x := x) ?_ ?_; (on_goal 1 => subst x); (on_goal 2 => (intro _; clear_value x))) | (refine goodX_cut (q := qq) (x := x) ?_ ?_; (on_goal 1 => subst x); (on_goal 2 => (intro _; clear_value x))) | (refine isP (x := x) ?_; subst x) | (refine isQ (x := x) ?_; subst x) | (refine isFab (x := x) ?_; subst x) | (refine isSram (x := x) ?_; subst x) | (refine isDram (x := x) ?_; subst x) | (refine isStateFun (x := x) ?_; subst x) | (refine isStateFun2 (x := x) ?_; subst x) | (refine goodPA_fun (x := x) ?_; subst x) | (refine goodG_fun (x := x) ?_; subst x) | (refine goodX_fun (x := x) ?_; subst x) | clear_value x | subst x)
    | with_reducible refine goodR_next ?_
    | with_reducible refine goodO_some ?_
    | with_reducible exact goodO_none
    | with_reducible refine goodPA_ok ?_
    | with_reducible refine goodPA_err ?_
    | with_reducible refine goodPA_wait ?_
    | with_reducible refine goodG_ok ?_
    | with_reducible refine goodG_err ?_
    | with_reducible refine goodG_wait ?_
    | with_reducible refine goodX_ok ?_
    | with_reducible refine goodX_exc ?_
    | with_reducible refine goodX_wait ?_
    | with_reducible refine translate_good ?_
    | with_reducible refine takeServed_good ?_
    | with_reducible refine l1Line_good ?_
    | with_reducible refine putServed_good ?_
    | with_reducible refine pocRead_good ?_
    | with_reducible refine XR_bind_good ?_ ?_
    | with_reducible refine goodO_bind ?_ ?_
    | with_reducible refine goodEbind ?_ ?_
    | with_reducible refine goodO_of ?_ (by with_reducible assumption)
    | with_reducible refine goodP_of ?_ (by with_reducible assumption)
    | with_reducible refine goodQ_of ?_ (by with_reducible assumption)
    | with_reducible refine goodR_of ?_ (by with_reducible assumption)
    | with_reducible refine goodPA_ok_of (by with_reducible assumption) ?_
    | with_reducible refine goodPA_err_of (by with_reducible assumption) ?_
    | with_reducible refine goodPA_wait_of (by with_reducible assumption) ?_
    | with_reducible refine goodG_ok_of (by with_reducible assumption) ?_
    | with_reducible refine goodG_err_of (by with_reducible assumption) ?_
    | with_reducible refine goodG_ok_ofP (by with_reducible assumption) ?_
    | with_reducible refine goodG_err_ofP (by with_reducible assumption) ?_
    | with_reducible refine goodG_wait_of (by with_reducible assumption) ?_
    | with_reducible refine goodG_wait_ofP (by with_reducible assumption) ?_
    | with_reducible refine goodX_ok_of (by with_reducible assumption) ?_
    | with_reducible refine goodX_exc_of (by with_reducible assumption) ?_
    | with_reducible refine goodX_wait_of (by with_reducible assumption) ?_
    | with_reducible exact good_mk (by with_reducible assumption) rfl rfl rfl rfl rfl rfl
    | dsimp -zeta only
    | with_reducible split

theorem execCacheLineFill_good {qq : List Instr} {n : Fin 24} {x : FillBy} {env : MemEnv} {s : State} (h1 : Good qq s) :
    GoodR qq (execCacheLineFill n x env s) := by
  delta execCacheLineFill
  repeat' first
    | with_reducible assumption
    | with_reducible intro _
    | (extract_lets -underBinder +onlyGivenNames x; first | (refine good_cut (q := qq) (s := x) ?_ ?_; (on_goal 1 => subst x); (on_goal 2 => (intro _; clear_value x))) | (refine good_cutO (q := qq) (x := x) ?_ ?_; (on_goal 1 => subst x); (on_goal 2 => (intro _; clear_value x))) | (refine goodG_cut (q := qq) (x := x) ?_ ?_; (on_goal 1 => subst x); (on_goal 2 => (intro _; clear_value x))) | (refine goodX_cut (q := qq) (x := x) ?_ ?_; (on_goal 1 => subst x); (on_goal 2 => (intro _; clear_value x))) | (refine isP (x := x) ?_; subst x) | (refine isQ (x := x) ?_; subst x) | (refine isFab (x := x) ?_; subst x) | (refine isSram (x := x) ?_; subst x) | (refine isDram (x := x) ?_; subst x) | (refine isStateFun (x := x) ?_; subst x) | (refine isStateFun2 (x := x) ?_; subst x) | (refine goodG_fun (x := x) ?_; subst x) | (refine goodX_fun (x := x) ?_; subst x) | clear_value x | subst x)
    | with_reducible refine goodR_next ?_
    | with_reducible refine goodO_some ?_
    | with_reducible exact goodO_none
    | with_reducible refine goodG_ok ?_
    | with_reducible refine goodG_err ?_
    | with_reducible refine goodG_wait ?_
    | with_reducible refine goodX_ok ?_
    | with_reducible refine goodX_exc ?_
    | with_reducible refine goodX_wait ?_
    | with_reducible refine translate_good ?_
    | with_reducible refine putServed_good ?_
    | with_reducible refine l1Line_good ?_
    | with_reducible refine fillL2_good ?_
    | with_reducible refine fillL1_good ?_
    | with_reducible refine goodO_of ?_ (by with_reducible assumption)
    | with_reducible refine goodP_of ?_ (by with_reducible assumption)
    | with_reducible refine goodQ_of ?_ (by with_reducible assumption)
    | with_reducible refine goodR_of ?_ (by with_reducible assumption)
    | with_reducible refine goodG_ok_of (by with_reducible assumption) ?_
    | with_reducible refine goodG_err_of (by with_reducible assumption) ?_
    | with_reducible refine goodG_ok_ofP (by with_reducible assumption) ?_
    | with_reducible refine goodG_err_ofP (by with_reducible assumption) ?_
    | with_reducible refine goodG_wait_of (by with_reducible assumption) ?_
    | with_reducible refine goodG_wait_ofP (by with_reducible assumption) ?_
    | with_reducible refine goodX_ok_of (by with_reducible assumption) ?_
    | with_reducible refine goodX_exc_of (by with_reducible assumption) ?_
    | with_reducible refine goodX_wait_of (by with_reducible assumption) ?_
    | with_reducible exact good_mk (by with_reducible assumption) rfl rfl rfl rfl rfl rfl
    | dsimp -zeta only
    | with_reducible split

end Sys2Proof.Machine
end

