-- ==== Sys2Proof/Laws/KeepWinovarFrame.lean ====
section
/-!
SUPPORT. Laws/KeepWinovarFrame.lean: every operation of Machine/WinovarFrame.lean keeps the queue and the invariant.
-/

namespace Sys2Proof.Machine

/-- Of `IRes`. -/
def GoodI (q : List Instr) : IRes → Prop
  | .done s _ _ => Good q s
  | .exc s _ => Good q s
  | .call s _ _ => Good q s
  | .reenter s _ _ _ => Good q s
  | .stall s => Good q s

theorem goodI_done {q : List Instr} {s : State} {a} {b} (h : Good q s) : GoodI q (.done s a b : IRes) := h
theorem goodI_done_of {q : List Instr} {s : State} {a} {b} {x : IRes} (e : x = .done s a b) (h : GoodI q x) : Good q s := by subst e; exact h
theorem goodI_exc {q : List Instr} {s : State} {a} (h : Good q s) : GoodI q (.exc s a : IRes) := h
theorem goodI_exc_of {q : List Instr} {s : State} {a} {x : IRes} (e : x = .exc s a) (h : GoodI q x) : Good q s := by subst e; exact h
theorem goodI_call {q : List Instr} {s : State} {a} {b} (h : Good q s) : GoodI q (.call s a b : IRes) := h
theorem goodI_call_of {q : List Instr} {s : State} {a} {b} {x : IRes} (e : x = .call s a b) (h : GoodI q x) : Good q s := by subst e; exact h
theorem goodI_reenter {q : List Instr} {s : State} {a} {b} {c} (h : Good q s) : GoodI q (.reenter s a b c : IRes) := h
theorem goodI_reenter_of {q : List Instr} {s : State} {a} {b} {c} {x : IRes} (e : x = .reenter s a b c) (h : GoodI q x) : Good q s := by subst e; exact h
theorem goodI_stall {q : List Instr} {s : State} (h : Good q s) : GoodI q (.stall s : IRes) := h
theorem goodI_stall_of {q : List Instr} {s : State} {x : IRes} (e : x = .stall s) (h : GoodI q x) : Good q s := by subst e; exact h
theorem goodI_done_inv {q : List Instr} {s : State} {a} {b} (h : GoodI q (.done s a b : IRes)) : Good q s := h
theorem goodI_exc_inv {q : List Instr} {s : State} {a} (h : GoodI q (.exc s a : IRes)) : Good q s := h
theorem goodI_call_inv {q : List Instr} {s : State} {a} {b} (h : GoodI q (.call s a b : IRes)) : Good q s := h
theorem goodI_reenter_inv {q : List Instr} {s : State} {a} {b} {c} (h : GoodI q (.reenter s a b c : IRes)) : Good q s := h
theorem goodI_stall_inv {q : List Instr} {s : State} (h : GoodI q (.stall s : IRes)) : Good q s := h
theorem goodI_cut {q : List Instr} {P : Prop} {x : IRes} (h0 : GoodI q x) (h : GoodI q x → P) : P := h h0
theorem goodI_fun {α β : Type} {P : Prop} {x : α → IRes} (h : P) : P := let _ := x; h

theorem predTrain_good {qq : List Instr} {s : State} {n : Fin 24} {wrong : Bool} {tab : Nat} {pc : Nat} {v : Nat} (h1 : Good qq s) :
    Good qq (predTrain s n wrong tab pc v).1 := by
  delta predTrain
  repeat' first
    | with_reducible assumption
    | with_reducible intro _
    | (extract_lets -underBinder +onlyGivenNames x; first | (refine good_cut (q := qq) (s := x) ?_ ?_; (on_goal 1 => subst x); (on_goal 2 => (intro _; clear_value x))) | (refine good_cutO (q := qq) (x := x) ?_ ?_; (on_goal 1 => subst x); (on_goal 2 => (intro _; clear_value x))) | (refine isP (x := x) ?_; subst x) | (refine isQ (x := x) ?_; subst x) | (refine isFab (x := x) ?_; subst x) | (refine isSram (x := x) ?_; subst x) | (refine isDram (x := x) ?_; subst x) | (refine isStateFun (x := x) ?_; subst x) | (refine isStateFun2 (x := x) ?_; subst x) | clear_value x | subst x)
    | with_reducible refine goodR_next ?_
    | with_reducible refine goodO_some ?_
    | with_reducible exact goodO_none
    | with_reducible refine updCore_good ?_
    | with_reducible refine freeVal_good ?_
    | with_reducible refine goodO_of ?_ (by with_reducible assumption)
    | with_reducible refine goodP_of ?_ (by with_reducible assumption)
    | with_reducible refine goodQ_of ?_ (by with_reducible assumption)
    | with_reducible refine goodR_of ?_ (by with_reducible assumption)
    | with_reducible exact good_mk (by with_reducible assumption) rfl rfl rfl rfl rfl rfl
    | dsimp -zeta only
    | with_reducible split

theorem popRet_good {qq : List Instr} {s : State} {n : Fin 24} (h1 : Good qq s) :
    Good qq (popRet s n).2 := by
  delta popRet
  repeat' first
    | with_reducible assumption
    | with_reducible intro _
    | (extract_lets -underBinder +onlyGivenNames x; first | (refine good_cut (q := qq) (s := x) ?_ ?_; (on_goal 1 => subst x); (on_goal 2 => (intro _; clear_value x))) | (refine good_cutO (q := qq) (x := x) ?_ ?_; (on_goal 1 => subst x); (on_goal 2 => (intro _; clear_value x))) | (refine isP (x := x) ?_; subst x) | (refine isQ (x := x) ?_; subst x) | (refine isFab (x := x) ?_; subst x) | (refine isSram (x := x) ?_; subst x) | (refine isDram (x := x) ?_; subst x) | (refine isStateFun (x := x) ?_; subst x) | (refine isStateFun2 (x := x) ?_; subst x) | clear_value x | subst x)
    | with_reducible refine goodR_next ?_
    | with_reducible refine goodO_some ?_
    | with_reducible exact goodO_none
    | with_reducible refine goodOP_some ?_
    | with_reducible exact goodOP_none
    | with_reducible refine goodOQ_some ?_
    | with_reducible exact goodOQ_none
    | with_reducible refine updCore_good ?_
    | with_reducible refine goodO_of ?_ (by with_reducible assumption)
    | with_reducible refine goodP_of ?_ (by with_reducible assumption)
    | with_reducible refine goodQ_of ?_ (by with_reducible assumption)
    | with_reducible refine goodR_of ?_ (by with_reducible assumption)
    | with_reducible exact good_mk (by with_reducible assumption) rfl rfl rfl rfl rfl rfl
    | dsimp -zeta only
    | with_reducible split

theorem pushRet_good {qq : List Instr} {s : State} {n : Fin 24} {pc : Word64} (h1 : Good qq s) :
    Good qq (pushRet s n pc) := by
  delta pushRet
  repeat' first
    | with_reducible assumption
    | with_reducible intro _
    | (extract_lets -underBinder +onlyGivenNames x; first | (refine good_cut (q := qq) (s := x) ?_ ?_; (on_goal 1 => subst x); (on_goal 2 => (intro _; clear_value x))) | (refine good_cutO (q := qq) (x := x) ?_ ?_; (on_goal 1 => subst x); (on_goal 2 => (intro _; clear_value x))) | (refine isP (x := x) ?_; subst x) | (refine isQ (x := x) ?_; subst x) | (refine isFab (x := x) ?_; subst x) | (refine isSram (x := x) ?_; subst x) | (refine isDram (x := x) ?_; subst x) | (refine isStateFun (x := x) ?_; subst x) | (refine isStateFun2 (x := x) ?_; subst x) | clear_value x | subst x)
    | with_reducible refine goodR_next ?_
    | with_reducible refine goodO_some ?_
    | with_reducible exact goodO_none
    | with_reducible refine updCore_good ?_

theorem wrongTouch_good {qq : List Instr} {s : State} {n : Fin 24} {acc : Acc} {va : Nat} {env : MemEnv} (h1 : Good qq s) :
    Good qq (wrongTouch s n acc va env) := by
  delta wrongTouch
  repeat' first
    | with_reducible assumption
    | with_reducible intro _
    | (extract_lets -underBinder +onlyGivenNames x; first | (refine good_cut (q := qq) (s := x) ?_ ?_; (on_goal 1 => subst x); (on_goal 2 => (intro _; clear_value x))) | (refine good_cutO (q := qq) (x := x) ?_ ?_; (on_goal 1 => subst x); (on_goal 2 => (intro _; clear_value x))) | (refine goodX_cut (q := qq) (x := x) ?_ ?_; (on_goal 1 => subst x); (on_goal 2 => (intro _; clear_value x))) | (refine isP (x := x) ?_; subst x) | (refine isQ (x := x) ?_; subst x) | (refine isFab (x := x) ?_; subst x) | (refine isSram (x := x) ?_; subst x) | (refine isDram (x := x) ?_; subst x) | (refine isStateFun (x := x) ?_; subst x) | (refine isStateFun2 (x := x) ?_; subst x) | (refine goodX_fun (x := x) ?_; subst x) | clear_value x | subst x)
    | with_reducible refine goodR_next ?_
    | with_reducible refine goodO_some ?_
    | with_reducible exact goodO_none
    | with_reducible refine goodX_ok ?_
    | with_reducible refine goodX_exc ?_
    | with_reducible refine goodX_wait ?_
    | with_reducible refine translate_good ?_
    | with_reducible refine fillL1_good ?_
    | with_reducible refine holdMiss_good ?_
    | with_reducible refine goodO_of ?_ (by with_reducible assumption)
    | with_reducible refine goodP_of ?_ (by with_reducible assumption)
    | with_reducible refine goodQ_of ?_ (by with_reducible assumption)
    | with_reducible refine goodR_of ?_ (by with_reducible assumption)
    | with_reducible refine goodX_ok_of (by with_reducible assumption) ?_
    | with_reducible refine goodX_exc_of (by with_reducible assumption) ?_
    | with_reducible refine goodX_wait_of (by with_reducible assumption) ?_
    | with_reducible exact good_mk (by with_reducible assumption) rfl rfl rfl rfl rfl rfl
    | dsimp -zeta only
    | with_reducible split

theorem wrongOne_good {qq : List Instr} {n : Fin 24} {env : MemEnv} {s : State} {o : WrongOp} (h1 : Good qq s) :
    Good qq (wrongOne n env s o) := by
  delta wrongOne
  repeat' first
    | with_reducible assumption
    | with_reducible intro _
    | (extract_lets -underBinder +onlyGivenNames x; first | (refine good_cut (q := qq) (s := x) ?_ ?_; (on_goal 1 => subst x); (on_goal 2 => (intro _; clear_value x))) | (refine good_cutO (q := qq) (x := x) ?_ ?_; (on_goal 1 => subst x); (on_goal 2 => (intro _; clear_value x))) | (refine isP (x := x) ?_; subst x) | (refine isQ (x := x) ?_; subst x) | (refine isFab (x := x) ?_; subst x) | (refine isSram (x := x) ?_; subst x) | (refine isDram (x := x) ?_; subst x) | (refine isStateFun (x := x) ?_; subst x) | (refine isStateFun2 (x := x) ?_; subst x) | clear_value x | subst x)
    | with_reducible refine goodR_next ?_
    | with_reducible refine goodO_some ?_
    | with_reducible exact goodO_none
    | with_reducible refine specCount_good ?_
    | with_reducible refine wrongTouch_good ?_
    | with_reducible refine predTrain_good ?_
    | with_reducible refine goodO_of ?_ (by with_reducible assumption)
    | with_reducible refine goodP_of ?_ (by with_reducible assumption)
    | with_reducible refine goodQ_of ?_ (by with_reducible assumption)
    | with_reducible refine goodR_of ?_ (by with_reducible assumption)
    | with_reducible exact good_mk (by with_reducible assumption) rfl rfl rfl rfl rfl rfl
    | dsimp -zeta only
    | with_reducible split

theorem wrongPath_good {qq : List Instr} {s : State} {n : Fin 24} {f : Front} (h1 : Good qq s) :
    Good qq (wrongPath s n f) := by
  delta wrongPath
  repeat' first
    | with_reducible assumption
    | with_reducible intro _
    | (extract_lets -underBinder +onlyGivenNames x; first | (refine good_cut (q := qq) (s := x) ?_ ?_; (on_goal 1 => subst x); (on_goal 2 => (intro _; clear_value x))) | (refine good_cutO (q := qq) (x := x) ?_ ?_; (on_goal 1 => subst x); (on_goal 2 => (intro _; clear_value x))) | (refine isP (x := x) ?_; subst x) | (refine isQ (x := x) ?_; subst x) | (refine isFab (x := x) ?_; subst x) | (refine isSram (x := x) ?_; subst x) | (refine isDram (x := x) ?_; subst x) | (refine isStateFun (x := x) ?_; subst x) | (refine isStateFun2 (x := x) ?_; subst x) | clear_value x | subst x)
    | with_reducible refine goodR_next ?_
    | with_reducible refine goodO_some ?_
    | with_reducible exact goodO_none
    | with_reducible refine wrongOne_good ?_
    | with_reducible refine good_foldl ?_ ?_

theorem readAhead_good {qq : List Instr} {n : Fin 24} {env : MemEnv} {s : State} {a : Ahead} (h1 : Good qq s) :
    Good qq (readAhead n env s a) := by
  delta readAhead
  repeat' first
    | with_reducible assumption
    | with_reducible intro _
    | (extract_lets -underBinder +onlyGivenNames x; first | (refine good_cut (q := qq) (s := x) ?_ ?_; (on_goal 1 => subst x); (on_goal 2 => (intro _; clear_value x))) | (refine good_cutO (q := qq) (x := x) ?_ ?_; (on_goal 1 => subst x); (on_goal 2 => (intro _; clear_value x))) | (refine goodX_cut (q := qq) (x := x) ?_ ?_; (on_goal 1 => subst x); (on_goal 2 => (intro _; clear_value x))) | (refine isP (x := x) ?_; subst x) | (refine isQ (x := x) ?_; subst x) | (refine isFab (x := x) ?_; subst x) | (refine isSram (x := x) ?_; subst x) | (refine isDram (x := x) ?_; subst x) | (refine isStateFun (x := x) ?_; subst x) | (refine isStateFun2 (x := x) ?_; subst x) | (refine goodX_fun (x := x) ?_; subst x) | clear_value x | subst x)
    | with_reducible refine goodR_next ?_
    | with_reducible refine goodO_some ?_
    | with_reducible exact goodO_none
    | with_reducible refine goodX_ok ?_
    | with_reducible refine goodX_exc ?_
    | with_reducible refine goodX_wait ?_
    | with_reducible refine translate_good ?_
    | with_reducible refine updCore_good ?_
    | with_reducible refine fillL1_good ?_
    | with_reducible refine holdMiss_good ?_
    | with_reducible refine goodO_of ?_ (by with_reducible assumption)
    | with_reducible refine goodP_of ?_ (by with_reducible assumption)
    | with_reducible refine goodQ_of ?_ (by with_reducible assumption)
    | with_reducible refine goodR_of ?_ (by with_reducible assumption)
    | with_reducible refine goodX_ok_of (by with_reducible assumption) ?_
    | with_reducible refine goodX_exc_of (by with_reducible assumption) ?_
    | with_reducible refine goodX_wait_of (by with_reducible assumption) ?_
    | with_reducible exact good_mk (by with_reducible assumption) rfl rfl rfl rfl rfl rfl
    | dsimp -zeta only
    | with_reducible split

theorem dropEarly_good {qq : List Instr} {s : State} {n : Fin 24} {pa : Nat} {len : Nat} (h1 : Good qq s) :
    Good qq (dropEarly s n pa len) := by
  delta dropEarly
  repeat' first
    | with_reducible assumption
    | with_reducible intro _
    | (extract_lets -underBinder +onlyGivenNames x; first | (refine good_cut (q := qq) (s := x) ?_ ?_; (on_goal 1 => subst x); (on_goal 2 => (intro _; clear_value x))) | (refine good_cutO (q := qq) (x := x) ?_ ?_; (on_goal 1 => subst x); (on_goal 2 => (intro _; clear_value x))) | (refine isP (x := x) ?_; subst x) | (refine isQ (x := x) ?_; subst x) | (refine isFab (x := x) ?_; subst x) | (refine isSram (x := x) ?_; subst x) | (refine isDram (x := x) ?_; subst x) | (refine isStateFun (x := x) ?_; subst x) | (refine isStateFun2 (x := x) ?_; subst x) | clear_value x | subst x)
    | with_reducible refine goodR_next ?_
    | with_reducible refine goodO_some ?_
    | with_reducible exact goodO_none
    | with_reducible refine updCore_good ?_

theorem taken_good {qq : List Instr} {s : State} {n : Fin 24} {f : Front} (h1 : Good qq s) :
    GoodO qq (taken s n f) := by
  delta taken
  repeat' first
    | with_reducible assumption
    | with_reducible intro _
    | (extract_lets -underBinder +onlyGivenNames x; first | (refine good_cut (q := qq) (s := x) ?_ ?_; (on_goal 1 => subst x); (on_goal 2 => (intro _; clear_value x))) | (refine good_cutO (q := qq) (x := x) ?_ ?_; (on_goal 1 => subst x); (on_goal 2 => (intro _; clear_value x))) | (refine isP (x := x) ?_; subst x) | (refine isQ (x := x) ?_; subst x) | (refine isFab (x := x) ?_; subst x) | (refine isSram (x := x) ?_; subst x) | (refine isDram (x := x) ?_; subst x) | (refine isStateFun (x := x) ?_; subst x) | (refine isStateFun2 (x := x) ?_; subst x) | clear_value x | subst x)
    | with_reducible refine goodR_next ?_
    | with_reducible refine goodO_some ?_
    | with_reducible exact goodO_none
    | with_reducible refine goodOP_some ?_
    | with_reducible exact goodOP_none
    | with_reducible refine goodOQ_some ?_
    | with_reducible exact goodOQ_none
    | with_reducible refine takeStoreBus_good ?_
    | with_reducible refine wrongPath_good ?_
    | with_reducible refine takeLate_good ?_
    | with_reducible refine enterIrq_good ?_
    | with_reducible refine goodO_of ?_ (by with_reducible assumption)
    | with_reducible refine goodP_of ?_ (by with_reducible assumption)
    | with_reducible refine goodQ_of ?_ (by with_reducible assumption)
    | with_reducible refine goodR_of ?_ (by with_reducible assumption)
    | with_reducible refine goodOP_of ?_ (by with_reducible assumption)
    | with_reducible refine goodOQ_of ?_ (by with_reducible assumption)
    | with_reducible exact good_mk (by with_reducible assumption) rfl rfl rfl rfl rfl rfl
    | dsimp -zeta only
    | with_reducible split

theorem execInterruptEntry_good {qq : List Instr} {n : Fin 24} {f : Front} {s : State} (h1 : Good qq s) :
    GoodR qq (execInterruptEntry n f s) := by
  delta execInterruptEntry
  repeat' first
    | with_reducible assumption
    | with_reducible intro _
    | (extract_lets -underBinder +onlyGivenNames x; first | (refine good_cut (q := qq) (s := x) ?_ ?_; (on_goal 1 => subst x); (on_goal 2 => (intro _; clear_value x))) | (refine good_cutO (q := qq) (x := x) ?_ ?_; (on_goal 1 => subst x); (on_goal 2 => (intro _; clear_value x))) | (refine isP (x := x) ?_; subst x) | (refine isQ (x := x) ?_; subst x) | (refine isFab (x := x) ?_; subst x) | (refine isSram (x := x) ?_; subst x) | (refine isDram (x := x) ?_; subst x) | (refine isStateFun (x := x) ?_; subst x) | (refine isStateFun2 (x := x) ?_; subst x) | clear_value x | subst x)
    | with_reducible refine goodR_next ?_
    | with_reducible refine goodO_some ?_
    | with_reducible exact goodO_none
    | with_reducible refine taken_good ?_
    | with_reducible refine goodO_getD ?_ ?_
    | with_reducible refine goodO_of ?_ (by with_reducible assumption)
    | with_reducible refine goodP_of ?_ (by with_reducible assumption)
    | with_reducible refine goodQ_of ?_ (by with_reducible assumption)
    | with_reducible refine goodR_of ?_ (by with_reducible assumption)
    | with_reducible exact good_mk (by with_reducible assumption) rfl rfl rfl rfl rfl rfl
    | dsimp -zeta only
    | with_reducible split

theorem execStoreBus_good {qq : List Instr} {n : Fin 24} {f : Front} {s : State} (h1 : Good qq s) :
    GoodR qq (execStoreBus n f s) := by
  delta execStoreBus
  repeat' first
    | with_reducible assumption
    | with_reducible intro _
    | (extract_lets -underBinder +onlyGivenNames x; first | (refine good_cut (q := qq) (s := x) ?_ ?_; (on_goal 1 => subst x); (on_goal 2 => (intro _; clear_value x))) | (refine good_cutO (q := qq) (x := x) ?_ ?_; (on_goal 1 => subst x); (on_goal 2 => (intro _; clear_value x))) | (refine isP (x := x) ?_; subst x) | (refine isQ (x := x) ?_; subst x) | (refine isFab (x := x) ?_; subst x) | (refine isSram (x := x) ?_; subst x) | (refine isDram (x := x) ?_; subst x) | (refine isStateFun (x := x) ?_; subst x) | (refine isStateFun2 (x := x) ?_; subst x) | clear_value x | subst x)
    | with_reducible refine goodR_next ?_
    | with_reducible refine goodO_some ?_
    | with_reducible exact goodO_none
    | with_reducible refine takeStoreBus_good ?_
    | with_reducible refine wrongPath_good ?_
    | with_reducible refine goodO_of ?_ (by with_reducible assumption)
    | with_reducible refine goodP_of ?_ (by with_reducible assumption)
    | with_reducible refine goodQ_of ?_ (by with_reducible assumption)
    | with_reducible refine goodR_of ?_ (by with_reducible assumption)
    | with_reducible exact good_mk (by with_reducible assumption) rfl rfl rfl rfl rfl rfl
    | dsimp -zeta only
    | with_reducible split

theorem clearGot_good {qq : List Instr} {s : State} {n : Fin 24} (h1 : Good qq s) :
    Good qq (clearGot s n) := by
  delta clearGot
  repeat' first
    | with_reducible assumption
    | with_reducible intro _
    | (extract_lets -underBinder +onlyGivenNames x; first | (refine good_cut (q := qq) (s := x) ?_ ?_; (on_goal 1 => subst x); (on_goal 2 => (intro _; clear_value x))) | (refine good_cutO (q := qq) (x := x) ?_ ?_; (on_goal 1 => subst x); (on_goal 2 => (intro _; clear_value x))) | (refine goodG_cut (q := qq) (x := x) ?_ ?_; (on_goal 1 => subst x); (on_goal 2 => (intro _; clear_value x))) | (refine isP (x := x) ?_; subst x) | (refine isQ (x := x) ?_; subst x) | (refine isFab (x := x) ?_; subst x) | (refine isSram (x := x) ?_; subst x) | (refine isDram (x := x) ?_; subst x) | (refine isStateFun (x := x) ?_; subst x) | (refine isStateFun2 (x := x) ?_; subst x) | (refine goodG_fun (x := x) ?_; subst x) | clear_value x | subst x)
    | with_reducible refine goodR_next ?_
    | with_reducible refine goodO_some ?_
    | with_reducible exact goodO_none
    | with_reducible refine goodG_ok ?_
    | with_reducible refine goodG_err ?_
    | with_reducible refine goodG_wait ?_
    | with_reducible refine updCore_good ?_

theorem moveOn_good {qq : List Instr} {s : State} {n : Fin 24} {npc : Word64} {evs : List Nat} {e : Option (Nat × Nat)} (h1 : Good qq s) :
    Good qq (moveOn s n npc evs e) := by
  delta moveOn
  repeat' first
    | with_reducible assumption
    | with_reducible intro _
    | (extract_lets -underBinder +onlyGivenNames x; first | (refine good_cut (q := qq) (s := x) ?_ ?_; (on_goal 1 => subst x); (on_goal 2 => (intro _; clear_value x))) | (refine good_cutO (q := qq) (x := x) ?_ ?_; (on_goal 1 => subst x); (on_goal 2 => (intro _; clear_value x))) | (refine isP (x := x) ?_; subst x) | (refine isQ (x := x) ?_; subst x) | (refine isFab (x := x) ?_; subst x) | (refine isSram (x := x) ?_; subst x) | (refine isDram (x := x) ?_; subst x) | (refine isStateFun (x := x) ?_; subst x) | (refine isStateFun2 (x := x) ?_; subst x) | clear_value x | subst x)
    | with_reducible refine goodR_next ?_
    | with_reducible refine goodO_some ?_
    | with_reducible exact goodO_none
    | with_reducible refine goodOP_some ?_
    | with_reducible exact goodOP_none
    | with_reducible refine goodOQ_some ?_
    | with_reducible exact goodOQ_none
    | with_reducible refine updCore_good ?_

theorem faulted_good {qq : List Instr} {s : State} {n : Fin 24} {f : Front} {epc : Word64} {e : Exc} (h1 : Good qq s) :
    Good qq (faulted s n f epc e) := by
  delta faulted
  repeat' first
    | with_reducible assumption
    | with_reducible intro _
    | (extract_lets -underBinder +onlyGivenNames x; first | (refine good_cut (q := qq) (s := x) ?_ ?_; (on_goal 1 => subst x); (on_goal 2 => (intro _; clear_value x))) | (refine good_cutO (q := qq) (x := x) ?_ ?_; (on_goal 1 => subst x); (on_goal 2 => (intro _; clear_value x))) | (refine goodG_cut (q := qq) (x := x) ?_ ?_; (on_goal 1 => subst x); (on_goal 2 => (intro _; clear_value x))) | (refine isP (x := x) ?_; subst x) | (refine isQ (x := x) ?_; subst x) | (refine isFab (x := x) ?_; subst x) | (refine isSram (x := x) ?_; subst x) | (refine isDram (x := x) ?_; subst x) | (refine isStateFun (x := x) ?_; subst x) | (refine isStateFun2 (x := x) ?_; subst x) | (refine goodG_fun (x := x) ?_; subst x) | clear_value x | subst x)
    | with_reducible refine goodR_next ?_
    | with_reducible refine goodO_some ?_
    | with_reducible exact goodO_none
    | with_reducible refine goodG_ok ?_
    | with_reducible refine goodG_err ?_
    | with_reducible exact goodG_triv
    | with_reducible refine raiseExc_good ?_
    | with_reducible refine wrongPath_good ?_
    | with_reducible refine specCount_good ?_
    | with_reducible refine clearGot_good ?_

theorem finish_good {qq : List Instr} {s0 : State} {n : Fin 24} {f : Front} {fe : List Nat} {z0 : IRes} (h1 : Good qq s0) (h2 : GoodI qq (z0)) :
    Good qq (finish s0 n f fe z0) := by
  delta finish
  repeat' first
    | with_reducible assumption
    | with_reducible intro _
    | (extract_lets -underBinder +onlyGivenNames x; first | (refine good_cut (q := qq) (s := x) ?_ ?_; (on_goal 1 => subst x); (on_goal 2 => (intro _; clear_value x))) | (refine good_cutO (q := qq) (x := x) ?_ ?_; (on_goal 1 => subst x); (on_goal 2 => (intro _; clear_value x))) | (refine goodG_cut (q := qq) (x := x) ?_ ?_; (on_goal 1 => subst x); (on_goal 2 => (intro _; clear_value x))) | (refine goodI_cut (q := qq) (x := x) ?_ ?_; (on_goal 1 => subst x); (on_goal 2 => (intro _; clear_value x))) | (refine isP (x := x) ?_; subst x) | (refine isQ (x := x) ?_; subst x) | (refine isFab (x := x) ?_; subst x) | (refine isSram (x := x) ?_; subst x) | (refine isDram (x := x) ?_; subst x) | (refine isStateFun (x := x) ?_; subst x) | (refine isStateFun2 (x := x) ?_; subst x) | (refine goodG_fun (x := x) ?_; subst x) | (refine goodI_fun (x := x) ?_; subst x) | clear_value x | subst x)
    | with_reducible refine goodR_next ?_
    | with_reducible refine goodO_some ?_
    | with_reducible exact goodO_none
    | with_reducible refine goodG_ok ?_
    | with_reducible refine goodG_err ?_
    | with_reducible exact goodG_triv
    | with_reducible refine goodI_done ?_
    | with_reducible refine goodI_exc ?_
    | with_reducible refine goodI_call ?_
    | with_reducible refine goodI_reenter ?_
    | with_reducible refine goodI_stall ?_
    | with_reducible refine pmuRetire_good ?_
    | with_reducible refine moveOn_good ?_
    | with_reducible refine faulted_good ?_
    | with_reducible refine raiseExc_good ?_
    | with_reducible refine wrongPath_good ?_
    | with_reducible refine clearGot_good ?_
    | with_reducible refine updCore_good ?_
    | with_reducible refine goodO_of ?_ (by with_reducible assumption)
    | with_reducible refine goodP_of ?_ (by with_reducible assumption)
    | with_reducible refine goodQ_of ?_ (by with_reducible assumption)
    | with_reducible refine goodR_of ?_ (by with_reducible assumption)
    | with_reducible refine goodOP_of ?_ (by with_reducible assumption)
    | with_reducible refine goodOQ_of ?_ (by with_reducible assumption)
    | with_reducible refine goodG_ok_of (by with_reducible assumption) ?_
    | with_reducible refine goodG_err_of (by with_reducible assumption) ?_
    | with_reducible refine goodG_ok_ofP (by with_reducible assumption) ?_
    | with_reducible refine goodG_err_ofP (by with_reducible assumption) ?_
    | with_reducible refine goodI_done_of (by with_reducible assumption) ?_
    | with_reducible refine goodI_exc_of (by with_reducible assumption) ?_
    | with_reducible refine goodI_call_of (by with_reducible assumption) ?_
    | with_reducible refine goodI_reenter_of (by with_reducible assumption) ?_
    | with_reducible refine goodI_stall_of (by with_reducible assumption) ?_
    | with_reducible exact goodI_done_inv (by with_reducible assumption)
    | with_reducible exact goodI_exc_inv (by with_reducible assumption)
    | with_reducible exact goodI_call_inv (by with_reducible assumption)
    | with_reducible exact goodI_reenter_inv (by with_reducible assumption)
    | with_reducible exact goodI_stall_inv (by with_reducible assumption)
    | with_reducible exact good_mk (by with_reducible assumption) rfl rfl rfl rfl rfl rfl
    | dsimp -zeta only
    | with_reducible split

theorem runBody_good {qq : List Instr} {n : Fin 24} {f : Front} {body : State → IRes} {fe : List Nat} {s : State} (h1 : ∀ a0, Good qq a0 → GoodI qq (body a0)) (h2 : Good qq s) :
    Good qq (runBody n f body fe s) := by
  delta runBody
  repeat' first
    | with_reducible assumption
    | with_reducible intro _
    | (extract_lets -underBinder +onlyGivenNames x; first | (refine good_cut (q := qq) (s := x) ?_ ?_; (on_goal 1 => subst x); (on_goal 2 => (intro _; clear_value x))) | (refine good_cutO (q := qq) (x := x) ?_ ?_; (on_goal 1 => subst x); (on_goal 2 => (intro _; clear_value x))) | (refine goodI_cut (q := qq) (x := x) ?_ ?_; (on_goal 1 => subst x); (on_goal 2 => (intro _; clear_value x))) | (refine isP (x := x) ?_; subst x) | (refine isQ (x := x) ?_; subst x) | (refine isFab (x := x) ?_; subst x) | (refine isSram (x := x) ?_; subst x) | (refine isDram (x := x) ?_; subst x) | (refine isStateFun (x := x) ?_; subst x) | (refine isStateFun2 (x := x) ?_; subst x) | (refine goodI_fun (x := x) ?_; subst x) | clear_value x | subst x)
    | with_reducible refine h1 _ ?_
    | with_reducible refine goodR_next ?_
    | with_reducible refine goodO_some ?_
    | with_reducible exact goodO_none
    | with_reducible refine goodI_done ?_
    | with_reducible refine goodI_exc ?_
    | with_reducible refine goodI_call ?_
    | with_reducible refine goodI_reenter ?_
    | with_reducible refine goodI_stall ?_
    | with_reducible refine readAhead_good ?_
    | with_reducible refine finish_good ?_ ?_
    | with_reducible refine good_foldl ?_ ?_

theorem wInstr_good {qq : List Instr} {n : Fin 24} {f : Front} {body : State → IRes} {s : State} (h1 : ∀ a0, Good qq a0 → GoodI qq (body a0)) (h2 : Good qq s) :
    GoodR qq (wInstr n f body s) := by
  delta wInstr
  repeat' first
    | with_reducible assumption
    | with_reducible intro _
    | (extract_lets -underBinder +onlyGivenNames x; first | (refine good_cut (q := qq) (s := x) ?_ ?_; (on_goal 1 => subst x); (on_goal 2 => (intro _; clear_value x))) | (refine good_cutO (q := qq) (x := x) ?_ ?_; (on_goal 1 => subst x); (on_goal 2 => (intro _; clear_value x))) | (refine goodI_cut (q := qq) (x := x) ?_ ?_; (on_goal 1 => subst x); (on_goal 2 => (intro _; clear_value x))) | (refine goodX_cut (q := qq) (x := x) ?_ ?_; (on_goal 1 => subst x); (on_goal 2 => (intro _; clear_value x))) | (refine isP (x := x) ?_; subst x) | (refine isQ (x := x) ?_; subst x) | (refine isFab (x := x) ?_; subst x) | (refine isSram (x := x) ?_; subst x) | (refine isDram (x := x) ?_; subst x) | (refine isStateFun (x := x) ?_; subst x) | (refine isStateFun2 (x := x) ?_; subst x) | (refine goodI_fun (x := x) ?_; subst x) | (refine goodX_fun (x := x) ?_; subst x) | clear_value x | subst x)
    | with_reducible refine h1 _ ?_
    | with_reducible refine goodR_next ?_
    | with_reducible refine goodO_some ?_
    | with_reducible exact goodO_none
    | with_reducible refine goodI_done ?_
    | with_reducible refine goodI_exc ?_
    | with_reducible refine goodI_call ?_
    | with_reducible refine goodI_reenter ?_
    | with_reducible refine goodI_stall ?_
    | with_reducible refine goodX_ok ?_
    | with_reducible refine goodX_exc ?_
    | with_reducible refine goodX_wait ?_
    | with_reducible refine taken_good ?_
    | with_reducible refine runBody_good ?_ ?_
    | with_reducible refine fetchInstr_good ?_
    | with_reducible refine raiseExc_good ?_
    | with_reducible refine wrongPath_good ?_
    | with_reducible refine goodO_of ?_ (by with_reducible assumption)
    | with_reducible refine goodP_of ?_ (by with_reducible assumption)
    | with_reducible refine goodQ_of ?_ (by with_reducible assumption)
    | with_reducible refine goodR_of ?_ (by with_reducible assumption)
    | with_reducible refine goodI_done_of (by with_reducible assumption) ?_
    | with_reducible refine goodI_exc_of (by with_reducible assumption) ?_
    | with_reducible refine goodI_call_of (by with_reducible assumption) ?_
    | with_reducible refine goodI_reenter_of (by with_reducible assumption) ?_
    | with_reducible refine goodI_stall_of (by with_reducible assumption) ?_
    | with_reducible refine goodX_ok_of (by with_reducible assumption) ?_
    | with_reducible refine goodX_exc_of (by with_reducible assumption) ?_
    | with_reducible refine goodX_wait_of (by with_reducible assumption) ?_
    | with_reducible exact good_mk (by with_reducible assumption) rfl rfl rfl rfl rfl rfl
    | dsimp -zeta only
    | with_reducible split

theorem wResult_good {qq : List Instr} {n : Fin 24} {d : Fin 32} {v : State → Word64} {f : Front} {z0 : State} (h1 : Good qq z0) :
    GoodR qq (wResult n d v f z0) := by
  delta wResult
  repeat' first
    | with_reducible assumption
    | with_reducible intro _
    | (extract_lets -underBinder +onlyGivenNames x; first | (refine good_cut (q := qq) (s := x) ?_ ?_; (on_goal 1 => subst x); (on_goal 2 => (intro _; clear_value x))) | (refine good_cutO (q := qq) (x := x) ?_ ?_; (on_goal 1 => subst x); (on_goal 2 => (intro _; clear_value x))) | (refine goodI_cut (q := qq) (x := x) ?_ ?_; (on_goal 1 => subst x); (on_goal 2 => (intro _; clear_value x))) | (refine isP (x := x) ?_; subst x) | (refine isQ (x := x) ?_; subst x) | (refine isFab (x := x) ?_; subst x) | (refine isSram (x := x) ?_; subst x) | (refine isDram (x := x) ?_; subst x) | (refine isStateFun (x := x) ?_; subst x) | (refine isStateFun2 (x := x) ?_; subst x) | (refine goodI_fun (x := x) ?_; subst x) | clear_value x | subst x)
    | with_reducible refine goodR_next ?_
    | with_reducible refine goodO_some ?_
    | with_reducible exact goodO_none
    | with_reducible refine goodI_done ?_
    | with_reducible refine goodI_exc ?_
    | with_reducible refine goodI_call ?_
    | with_reducible refine goodI_reenter ?_
    | with_reducible refine goodI_stall ?_
    | with_reducible refine wInstr_good ?_ ?_
    | with_reducible refine setW_good ?_

end Sys2Proof.Machine
end

