-- ==== Sys2Proof/Laws/KeepRegRows.lean ====
section
/-!
SUPPORT. Laws/KeepRegRows.lean: every operation of Machine/RegRows.lean keeps the queue and the invariant.
-/

namespace Sys2Proof.Machine

theorem execIrqSet_good {qq : List Instr} {m : Master} {lvl : Fin 4} {p : Page} {v : Reg32} {s : State} (h1 : Good qq s) :
    GoodR qq (execIrqSet m lvl p v s) := by
  delta execIrqSet
  repeat' first
    | with_reducible assumption
    | with_reducible intro _
    | with_reducible refine pageWrite_good ?_

theorem execBlkLock_good {qq : List Instr} {m : Master} {lvl : Fin 4} {p : Page} {s : State} (h1 : Good qq s) :
    GoodR qq (execBlkLock m lvl p s) := by
  delta execBlkLock
  repeat' first
    | with_reducible assumption
    | with_reducible intro _
    | with_reducible refine pageWrite_good ?_

theorem execBlkSoftReset_good {qq : List Instr} {m : Master} {lvl : Fin 4} {p : Page} {s : State} (h1 : Good qq s) :
    GoodR qq (execBlkSoftReset m lvl p s) := by
  delta execBlkSoftReset
  repeat' first
    | with_reducible assumption
    | with_reducible intro _
    | with_reducible refine pageWrite_good ?_

theorem execErrCntRead_good {qq : List Instr} {m : Master} {lvl : Fin 4} {p : Page} {s : State} (h1 : Good qq s) :
    GoodR qq (execErrCntRead m lvl p s) := by
  delta execErrCntRead
  repeat' first
    | with_reducible assumption
    | with_reducible intro _
    | with_reducible refine pageRead_good ?_

theorem execOwnerBind_good {qq : List Instr} {m : Master} {lvl : Fin 4} {p : Page} {d : Fin 64} {s : State} (h1 : Good qq s) :
    GoodR qq (execOwnerBind m lvl p d s) := by
  delta execOwnerBind
  repeat' first
    | with_reducible assumption
    | with_reducible intro _
    | with_reducible refine pageWrite_good ?_

theorem execFerrPop_good {qq : List Instr} {m : Master} {lvl : Fin 4} {s : State} (h1 : Good qq s) :
    GoodR qq (execFerrPop m lvl s) := by
  delta execFerrPop
  repeat' first
    | with_reducible assumption
    | with_reducible intro _
    | with_reducible refine pageWrite_good ?_

theorem execFerrLostRead_good {qq : List Instr} {m : Master} {lvl : Fin 4} {s : State} (h1 : Good qq s) :
    GoodR qq (execFerrLostRead m lvl s) := by
  delta execFerrLostRead
  repeat' first
    | with_reducible assumption
    | with_reducible intro _
    | with_reducible refine pageRead_good ?_

theorem execClkWreqWrite_good {qq : List Instr} {m : Master} {lvl : Fin 4} {v : Reg32} {s : State} (h1 : Good qq s) :
    GoodR qq (execClkWreqWrite m lvl v s) := by
  delta execClkWreqWrite
  repeat' first
    | with_reducible assumption
    | with_reducible intro _
    | with_reducible refine pageWrite_good ?_

theorem execRstReq_good {qq : List Instr} {m : Master} {lvl : Fin 4} {key : BitVec 16} {s : State} (h1 : Good qq s) :
    GoodR qq (execRstReq m lvl key s) := by
  delta execRstReq
  repeat' first
    | with_reducible assumption
    | with_reducible intro _
    | with_reducible refine pageWrite_good ?_

theorem execDtLoRead_good {qq : List Instr} {m : Master} {lvl : Fin 4} {s : State} (h1 : Good qq s) :
    GoodR qq (execDtLoRead m lvl s) := by
  delta execDtLoRead
  repeat' first
    | with_reducible assumption
    | with_reducible intro _
    | with_reducible refine pageRead_good ?_

theorem execPmuClr_good {qq : List Instr} {m : Master} {lvl : Fin 4} {n : Fin 24} {s : State} (h1 : Good qq s) :
    GoodR qq (execPmuClr m lvl n s) := by
  delta execPmuClr
  repeat' first
    | with_reducible assumption
    | with_reducible intro _
    | with_reducible refine pageWrite_good ?_

theorem scCmdWrite_good {qq : List Instr} {m : Master} {lvl : Fin 4} {op : Nat} {incl : Bool} {way part : Nat} {s : State} (h1 : Good qq s) :
    GoodR qq (scCmdWrite m lvl op incl way part s) := by
  delta scCmdWrite
  repeat' first
    | with_reducible assumption
    | with_reducible intro _
    | with_reducible refine pageWrite_good ?_

theorem execClean_good {qq : List Instr} {m : Master} {lvl : Fin 4} {incl : Bool} {s : State} (h1 : Good qq s) :
    GoodR qq (execClean m lvl incl s) := by
  delta execClean
  repeat' first
    | with_reducible assumption
    | with_reducible intro _
    | with_reducible refine scCmdWrite_good ?_

theorem execInv_good {qq : List Instr} {m : Master} {lvl : Fin 4} {incl : Bool} {s : State} (h1 : Good qq s) :
    GoodR qq (execInv m lvl incl s) := by
  delta execInv
  repeat' first
    | with_reducible assumption
    | with_reducible intro _
    | with_reducible refine scCmdWrite_good ?_

theorem execCleanInv_good {qq : List Instr} {m : Master} {lvl : Fin 4} {incl : Bool} {s : State} (h1 : Good qq s) :
    GoodR qq (execCleanInv m lvl incl s) := by
  delta execCleanInv
  repeat' first
    | with_reducible assumption
    | with_reducible intro _
    | with_reducible refine scCmdWrite_good ?_

theorem execPreload_good {qq : List Instr} {m : Master} {lvl : Fin 4} {part : Fin 16} {s : State} (h1 : Good qq s) :
    GoodR qq (execPreload m lvl part s) := by
  delta execPreload
  repeat' first
    | with_reducible assumption
    | with_reducible intro _
    | with_reducible refine scCmdWrite_good ?_

theorem execWayClean_good {qq : List Instr} {m : Master} {lvl : Fin 4} {way : Fin 64} {s : State} (h1 : Good qq s) :
    GoodR qq (execWayClean m lvl way s) := by
  delta execWayClean
  repeat' first
    | with_reducible assumption
    | with_reducible intro _
    | with_reducible refine scCmdWrite_good ?_

theorem execWayOff_good {qq : List Instr} {m : Master} {lvl : Fin 4} {way : Fin 64} {s : State} (h1 : Good qq s) :
    GoodR qq (execWayOff m lvl way s) := by
  delta execWayOff
  repeat' first
    | with_reducible assumption
    | with_reducible intro _
    | with_reducible refine scCmdWrite_good ?_

theorem execWayOn_good {qq : List Instr} {m : Master} {lvl : Fin 4} {way : Fin 64} {s : State} (h1 : Good qq s) :
    GoodR qq (execWayOn m lvl way s) := by
  delta execWayOn
  repeat' first
    | with_reducible assumption
    | with_reducible intro _
    | with_reducible refine scCmdWrite_good ?_

theorem execPartitionDisable_good {qq : List Instr} {m : Master} {lvl : Fin 4} {p : Fin 16} {s : State} (h1 : Good qq s) :
    GoodR qq (execPartitionDisable m lvl p s) := by
  delta execPartitionDisable
  repeat' first
    | with_reducible assumption
    | with_reducible intro _
    | with_reducible refine pageWrite_good ?_

theorem execSramBankStateWrite_good {qq : List Instr} {m : Master} {lvl : Fin 4} {i : Fin 4} {v : Reg32} {s : State} (h1 : Good qq s) :
    GoodR qq (execSramBankStateWrite m lvl i v s) := by
  delta execSramBankStateWrite
  repeat' first
    | with_reducible assumption
    | with_reducible intro _
    | with_reducible refine pageWrite_good ?_

theorem execConfCntRead_good {qq : List Instr} {m : Master} {lvl : Fin 4} {i : Fin 8} {s : State} (h1 : Good qq s) :
    GoodR qq (execConfCntRead m lvl i s) := by
  delta execConfCntRead
  repeat' first
    | with_reducible assumption
    | with_reducible intro _
    | with_reducible refine pageRead_good ?_

theorem execRmapWrite_good {qq : List Instr} {m : Master} {lvl : Fin 4} {l : Fin 32} {v : Reg32} {s : State} (h1 : Good qq s) :
    GoodR qq (execRmapWrite m lvl l v s) := by
  delta execRmapWrite
  repeat' first
    | with_reducible assumption
    | with_reducible intro _
    | with_reducible refine pageWrite_good ?_

theorem execDmcPstatRead_good {qq : List Instr} {m : Master} {lvl : Fin 4} {i : Fin 8} {s : State} (h1 : Good qq s) :
    GoodR qq (execDmcPstatRead m lvl i s) := by
  delta execDmcPstatRead
  repeat' first
    | with_reducible assumption
    | with_reducible intro _
    | with_reducible refine pageRead_good ?_

theorem execDchCeRead_good {qq : List Instr} {m : Master} {lvl : Fin 4} {ch : Fin 18} {s : State} (h1 : Good qq s) :
    GoodR qq (execDchCeRead m lvl ch s) := by
  delta execDchCeRead
  repeat' first
    | with_reducible assumption
    | with_reducible intro _
    | with_reducible refine pageRead_good ?_

theorem execDchUeRead_good {qq : List Instr} {m : Master} {lvl : Fin 4} {ch : Fin 18} {s : State} (h1 : Good qq s) :
    GoodR qq (execDchUeRead m lvl ch s) := by
  delta execDchUeRead
  repeat' first
    | with_reducible assumption
    | with_reducible intro _
    | with_reducible refine pageRead_good ?_

theorem thrCtrlWrite_good {qq : List Instr} {src : CtlSrc} {e : Fin 512} {t : Fin 4} {v : Nat} {s : State} (h1 : Good qq s) :
    GoodR qq (thrCtrlWrite src e t v s) := by
  delta thrCtrlWrite
  repeat' first
    | with_reducible assumption
    | with_reducible intro _
    | (extract_lets -underBinder +onlyGivenNames x; first | (refine good_cut (q := qq) (s := x) ?_ ?_; (on_goal 1 => subst x); (on_goal 2 => (intro _; clear_value x))) | clear_value x | subst x)
    | with_reducible refine goodR_next ?_
    | with_reducible refine pageWrite_good ?_
    | with_reducible refine ctlWrite_good ?_
    | with_reducible refine goodR_of ?_ (by with_reducible assumption)
    | with_reducible split

theorem execThreadRun_good {qq : List Instr} {src : CtlSrc} {e : Fin 512} {t : Fin 4} {s : State} (h1 : Good qq s) :
    GoodR qq (execThreadRun src e t s) := by
  delta execThreadRun
  repeat' first
    | with_reducible assumption
    | with_reducible intro _
    | with_reducible refine thrCtrlWrite_good ?_

theorem execThreadHalt_good {qq : List Instr} {src : CtlSrc} {e : Fin 512} {t : Fin 4} {s : State} (h1 : Good qq s) :
    GoodR qq (execThreadHalt src e t s) := by
  delta execThreadHalt
  repeat' first
    | with_reducible assumption
    | with_reducible intro _
    | with_reducible refine thrCtrlWrite_good ?_

theorem execThreadStep_good {qq : List Instr} {src : CtlSrc} {e : Fin 512} {t : Fin 4} {s : State} (h1 : Good qq s) :
    GoodR qq (execThreadStep src e t s) := by
  delta execThreadStep
  repeat' first
    | with_reducible assumption
    | with_reducible intro _
    | with_reducible refine thrCtrlWrite_good ?_

theorem md6Write_good {qq : List Instr} {src : CtlSrc} {x : Fin 256} {v : Nat} {f : Findings} {s : State} (h1 : Good qq s) :
    GoodR qq (md6Write src x v f s) := by
  delta md6Write
  repeat' first
    | with_reducible assumption
    | with_reducible intro _
    | (extract_lets -underBinder +onlyGivenNames x; first | (refine good_cut (q := qq) (s := x) ?_ ?_; (on_goal 1 => subst x); (on_goal 2 => (intro _; clear_value x))) | clear_value x | subst x)
    | with_reducible refine goodR_next ?_
    | with_reducible refine regCmd_good ?_
    | with_reducible refine recInternal_good ?_
    | with_reducible refine movWrite_good ?_
    | with_reducible refine goodR_of ?_ (by with_reducible assumption)
    | with_reducible exact good_mk (by with_reducible assumption) rfl rfl rfl rfl rfl rfl
    | with_reducible split

theorem execMoverStart_good {qq : List Instr} {src : CtlSrc} {x : Fin 256} {f : Findings} {s : State} (h1 : Good qq s) :
    GoodR qq (execMoverStart src x f s) := by
  delta execMoverStart
  repeat' first
    | with_reducible assumption
    | with_reducible intro _
    | with_reducible refine md6Write_good ?_

theorem execMoverAbort_good {qq : List Instr} {src : CtlSrc} {x : Fin 256} {s : State} (h1 : Good qq s) :
    GoodR qq (execMoverAbort src x s) := by
  delta execMoverAbort
  repeat' first
    | with_reducible assumption
    | with_reducible intro _
    | with_reducible refine md6Write_good ?_

theorem execCmConfRead_good {qq : List Instr} {m : Master} {lvl : Fin 4} {k : Fin 32} {i : Fin 9} {s : State} (h1 : Good qq s) :
    GoodR qq (execCmConfRead m lvl k i s) := by
  delta execCmConfRead
  repeat' first
    | with_reducible assumption
    | with_reducible intro _
    | with_reducible refine pageRead_good ?_

theorem execBankCfgWrite_good {qq : List Instr} {m : Master} {lvl : Fin 4} {b : Fin 16} {v : Reg32} {s : State} (h1 : Good qq s) :
    GoodR qq (execBankCfgWrite m lvl b v s) := by
  delta execBankCfgWrite
  repeat' first
    | with_reducible assumption
    | with_reducible intro _
    | with_reducible refine pageWrite_good ?_

theorem execForceSafe_good {qq : List Instr} {m : Master} {lvl : Fin 4} {b : Fin 16} {s : State} (h1 : Good qq s) :
    GoodR qq (execForceSafe m lvl b s) := by
  delta execForceSafe
  repeat' first
    | with_reducible assumption
    | with_reducible intro _
    | with_reducible refine pageWrite_good ?_

theorem execCellCtrlWrite_good {qq : List Instr} {m : Master} {lvl : Fin 4} {n : Fin 256} {v : Reg32} {s : State} (h1 : Good qq s) :
    GoodR qq (execCellCtrlWrite m lvl n v s) := by
  delta execCellCtrlWrite
  repeat' first
    | with_reducible assumption
    | with_reducible intro _
    | with_reducible refine pageWrite_good ?_

theorem execCapLostRead_good {qq : List Instr} {m : Master} {lvl : Fin 4} {n : Fin 256} {s : State} (h1 : Good qq s) :
    GoodR qq (execCapLostRead m lvl n s) := by
  delta execCapLostRead
  repeat' first
    | with_reducible assumption
    | with_reducible intro _
    | with_reducible refine pageRead_good ?_

theorem execLaneClaim_good {qq : List Instr} {m : Master} {lvl : Fin 4} {x : LaneFn} {v : Reg32} {s : State} (h1 : Good qq s) :
    GoodR qq (execLaneClaim m lvl x v s) := by
  delta execLaneClaim
  repeat' first
    | with_reducible assumption
    | with_reducible intro _
    | with_reducible refine pageWrite_good ?_

theorem execLaneRelease_good {qq : List Instr} {m : Master} {lvl : Fin 4} {x : LaneFn} {s : State} (h1 : Good qq s) :
    GoodR qq (execLaneRelease m lvl x s) := by
  delta execLaneRelease
  repeat' first
    | with_reducible assumption
    | with_reducible intro _
    | with_reducible refine pageWrite_good ?_

theorem ethCtlWrite_good {qq : List Instr} {m : Master} {lvl : Fin 4} {k : Fin 8} {v : Nat} {env : MemEnv} {s : State} (h1 : Good qq s) :
    GoodR qq (ethCtlWrite m lvl k v env s) := by
  delta ethCtlWrite
  repeat' first
    | with_reducible assumption
    | with_reducible intro _
    | with_reducible refine regCmd_good ?_

theorem execGclGo_good {qq : List Instr} {m : Master} {lvl : Fin 4} {k : Fin 8} {env : MemEnv} {s : State} (h1 : Good qq s) :
    GoodR qq (execGclGo m lvl k env s) := by
  delta execGclGo
  repeat' first
    | with_reducible assumption
    | with_reducible intro _
    | with_reducible refine ethCtlWrite_good ?_

theorem execCbLoad_good {qq : List Instr} {m : Master} {lvl : Fin 4} {k : Fin 8} {env : MemEnv} {s : State} (h1 : Good qq s) :
    GoodR qq (execCbLoad m lvl k env s) := by
  delta execCbLoad
  repeat' first
    | with_reducible assumption
    | with_reducible intro _
    | with_reducible refine ethCtlWrite_good ?_

theorem execEthStatRead_good {qq : List Instr} {m : Master} {lvl : Fin 4} {k : Fin 8} {s : State} (h1 : Good qq s) :
    GoodR qq (execEthStatRead m lvl k s) := by
  delta execEthStatRead
  repeat' first
    | with_reducible assumption
    | with_reducible intro _
    | with_reducible refine pageRead_good ?_

theorem execEthRxdropRead_good {qq : List Instr} {m : Master} {lvl : Fin 4} {k : Fin 8} {s : State} (h1 : Good qq s) :
    GoodR qq (execEthRxdropRead m lvl k s) := by
  delta execEthRxdropRead
  repeat' first
    | with_reducible assumption
    | with_reducible intro _
    | with_reducible refine pageRead_good ?_

theorem execSyntNsRead_good {qq : List Instr} {m : Master} {lvl : Fin 4} {s : State} (h1 : Good qq s) :
    GoodR qq (execSyntNsRead m lvl s) := by
  delta execSyntNsRead
  repeat' first
    | with_reducible assumption
    | with_reducible intro _
    | with_reducible refine pageRead_good ?_

theorem execSyntStep_good {qq : List Instr} {m : Master} {lvl : Fin 4} {v : Reg32} {s : State} (h1 : Good qq s) :
    GoodR qq (execSyntStep m lvl v s) := by
  delta execSyntStep
  repeat' first
    | with_reducible assumption
    | with_reducible intro _
    | with_reducible refine pageWrite_good ?_

theorem execAccept_good {qq : List Instr} {m : Master} {lvl : Fin 4} {s : State} (h1 : Good qq s) :
    GoodR qq (execAccept m lvl s) := by
  delta execAccept
  repeat' first
    | with_reducible assumption
    | with_reducible intro _
    | with_reducible refine pageWrite_good ?_

theorem execTylwStatRead_good {qq : List Instr} {m : Master} {lvl : Fin 4} {s : State} (h1 : Good qq s) :
    GoodR qq (execTylwStatRead m lvl s) := by
  delta execTylwStatRead
  repeat' first
    | with_reducible assumption
    | with_reducible intro _
    | with_reducible refine pageRead_good ?_

theorem execSgi_good {qq : List Instr} {m : Master} {lvl : Fin 4} {n : Fin 24} {v : BitVec 8} {s : State} (h1 : Good qq s) :
    GoodR qq (execSgi m lvl n v s) := by
  delta execSgi
  repeat' first
    | with_reducible assumption
    | with_reducible intro _
    | with_reducible refine pageWrite_good ?_

theorem execIcpTcmpArm_good {qq : List Instr} {m : Master} {lvl : Fin 4} {n : Fin 24} {v : Reg32} {s : State} (h1 : Good qq s) :
    GoodR qq (execIcpTcmpArm m lvl n v s) := by
  delta execIcpTcmpArm
  repeat' first
    | with_reducible assumption
    | with_reducible intro _
    | with_reducible refine pageWrite_good ?_

theorem execIcpTcmpDisarm_good {qq : List Instr} {m : Master} {lvl : Fin 4} {n : Fin 24} {v : Reg32} {s : State} (h1 : Good qq s) :
    GoodR qq (execIcpTcmpDisarm m lvl n v s) := by
  delta execIcpTcmpDisarm
  repeat' first
    | with_reducible assumption
    | with_reducible intro _
    | with_reducible refine pageWrite_good ?_

theorem execIcStatRead_good {qq : List Instr} {m : Master} {lvl : Fin 4} {s : State} (h1 : Good qq s) :
    GoodR qq (execIcStatRead m lvl s) := by
  delta execIcStatRead
  repeat' first
    | with_reducible assumption
    | with_reducible intro _
    | with_reducible refine pageRead_good ?_

theorem domOpWrite_good {qq : List Instr} {m : Master} {lvl : Fin 4} {d : Fin 64} {op : Nat} {s : State} (h1 : Good qq s) :
    GoodR qq (domOpWrite m lvl d op s) := by
  delta domOpWrite
  repeat' first
    | with_reducible assumption
    | with_reducible intro _
    | with_reducible refine pageWrite_good ?_

theorem execCreate_good {qq : List Instr} {m : Master} {lvl : Fin 4} {d : Fin 64} {s : State} (h1 : Good qq s) :
    GoodR qq (execCreate m lvl d s) := by
  delta execCreate
  repeat' first
    | with_reducible assumption
    | with_reducible intro _
    | with_reducible refine domOpWrite_good ?_

theorem execReset_good {qq : List Instr} {m : Master} {lvl : Fin 4} {d : Fin 64} {s : State} (h1 : Good qq s) :
    GoodR qq (execReset m lvl d s) := by
  delta execReset
  repeat' first
    | with_reducible assumption
    | with_reducible intro _
    | with_reducible refine domOpWrite_good ?_

theorem execStart_good {qq : List Instr} {m : Master} {lvl : Fin 4} {d : Fin 64} {s : State} (h1 : Good qq s) :
    GoodR qq (execStart m lvl d s) := by
  delta execStart
  repeat' first
    | with_reducible assumption
    | with_reducible intro _
    | with_reducible refine domOpWrite_good ?_

theorem execDestroy_good {qq : List Instr} {m : Master} {lvl : Fin 4} {d : Fin 64} {s : State} (h1 : Good qq s) :
    GoodR qq (execDestroy m lvl d s) := by
  delta execDestroy
  repeat' first
    | with_reducible assumption
    | with_reducible intro _
    | with_reducible refine domOpWrite_good ?_

theorem execDomDropRead_good {qq : List Instr} {m : Master} {lvl : Fin 4} {d : Fin 64} {s : State} (h1 : Good qq s) :
    GoodR qq (execDomDropRead m lvl d s) := by
  delta execDomDropRead
  repeat' first
    | with_reducible assumption
    | with_reducible intro _
    | with_reducible refine pageRead_good ?_

theorem mariReqWrite_good {qq : List Instr} {m : Master} {lvl : Fin 4} {st : Nat} {w : BitVec 3} {s : State} (h1 : Good qq s) :
    GoodR qq (mariReqWrite m lvl st w s) := by
  delta mariReqWrite
  repeat' first
    | with_reducible assumption
    | with_reducible intro _
    | with_reducible refine pageWrite_good ?_

theorem execNap_good {qq : List Instr} {m : Master} {lvl : Fin 4} {w : BitVec 3} {s : State} (h1 : Good qq s) :
    GoodR qq (execNap m lvl w s) := by
  delta execNap
  repeat' first
    | with_reducible assumption
    | with_reducible intro _
    | with_reducible refine mariReqWrite_good ?_

theorem execStandby_good {qq : List Instr} {m : Master} {lvl : Fin 4} {s : State} (h1 : Good qq s) :
    GoodR qq (execStandby m lvl s) := by
  delta execStandby
  repeat' first
    | with_reducible assumption
    | with_reducible intro _
    | with_reducible refine mariReqWrite_good ?_

theorem execPark_good {qq : List Instr} {m : Master} {lvl : Fin 4} {s : State} (h1 : Good qq s) :
    GoodR qq (execPark m lvl s) := by
  delta execPark
  repeat' first
    | with_reducible assumption
    | with_reducible intro _
    | with_reducible refine mariReqWrite_good ?_

theorem execOff_good {qq : List Instr} {m : Master} {lvl : Fin 4} {s : State} (h1 : Good qq s) :
    GoodR qq (execOff m lvl s) := by
  delta execOff
  repeat' first
    | with_reducible assumption
    | with_reducible intro _
    | with_reducible refine mariReqWrite_good ?_

theorem execWakeStatRead_good {qq : List Instr} {m : Master} {lvl : Fin 4} {s : State} (h1 : Good qq s) :
    GoodR qq (execWakeStatRead m lvl s) := by
  delta execWakeStatRead
  repeat' first
    | with_reducible assumption
    | with_reducible intro _
    | with_reducible refine pageRead_good ?_

theorem execFltAck_good {qq : List Instr} {m : Master} {lvl : Fin 4} {key : BitVec 16} {s : State} (h1 : Good qq s) :
    GoodR qq (execFltAck m lvl key s) := by
  delta execFltAck
  repeat' first
    | with_reducible assumption
    | with_reducible intro _
    | with_reducible refine pageWrite_good ?_

theorem execWdKick_good {qq : List Instr} {m : Master} {lvl : Fin 4} {k : Fin 8} {key : BitVec 8} {s : State} (h1 : Good qq s) :
    GoodR qq (execWdKick m lvl k key s) := by
  delta execWdKick
  repeat' first
    | with_reducible assumption
    | with_reducible intro _
    | with_reducible refine pageWrite_good ?_

theorem execWdCfgWrite_good {qq : List Instr} {m : Master} {lvl : Fin 4} {k : Fin 8} {v : Reg32} {s : State} (h1 : Good qq s) :
    GoodR qq (execWdCfgWrite m lvl k v s) := by
  delta execWdCfgWrite
  repeat' first
    | with_reducible assumption
    | with_reducible intro _
    | with_reducible refine pageWrite_good ?_

theorem execFltLogPop_good {qq : List Instr} {m : Master} {lvl : Fin 4} {s : State} (h1 : Good qq s) :
    GoodR qq (execFltLogPop m lvl s) := by
  delta execFltLogPop
  repeat' first
    | with_reducible assumption
    | with_reducible intro _
    | with_reducible refine pageWrite_good ?_

theorem execBistStart_good {qq : List Instr} {m : Master} {lvl : Fin 4} {v : Reg32} {env : MemEnv} {s : State} (h1 : Good qq s) :
    GoodR qq (execBistStart m lvl v env s) := by
  delta execBistStart
  repeat' first
    | with_reducible assumption
    | with_reducible intro _
    | with_reducible refine regCmd_good ?_

end Sys2Proof.Machine
end

