-- ==== Sys2Proof/Laws/KeepWinovarMem.lean ====
section
/-!
SUPPORT. Laws/KeepWinovarMem.lean: every operation of Machine/WinovarMem.lean keeps the queue and the invariant.
-/

namespace Sys2Proof.Machine

/-- Of `DevRes`. -/
def GoodD (q : List Instr) : DevRes → Prop
  | .ok s _ _ => Good q s
  | .err s => Good q s
  | .wait s => Good q s

theorem goodD_ok {q : List Instr} {s : State} {a} {b} (h : Good q s) : GoodD q (.ok s a b : DevRes) := h
theorem goodD_ok_of {q : List Instr} {s : State} {a} {b} {x : DevRes} (e : x = .ok s a b) (h : GoodD q x) : Good q s := by subst e; exact h
theorem goodD_err {q : List Instr} {s : State} (h : Good q s) : GoodD q (.err s : DevRes) := h
theorem goodD_err_of {q : List Instr} {s : State} {x : DevRes} (e : x = .err s) (h : GoodD q x) : Good q s := by subst e; exact h
theorem goodD_wait {q : List Instr} {s : State} (h : Good q s) : GoodD q (.wait s : DevRes) := h
theorem goodD_wait_of {q : List Instr} {s : State} {x : DevRes} (e : x = .wait s) (h : GoodD q x) : Good q s := by subst e; exact h
theorem goodD_ok_inv {q : List Instr} {s : State} {a} {b} (h : GoodD q (.ok s a b : DevRes)) : Good q s := h
theorem goodD_err_inv {q : List Instr} {s : State} (h : GoodD q (.err s : DevRes)) : Good q s := h
theorem goodD_wait_inv {q : List Instr} {s : State} (h : GoodD q (.wait s : DevRes)) : Good q s := h
theorem goodD_cut {q : List Instr} {P : Prop} {x : DevRes} (h0 : GoodD q x) (h : GoodD q x → P) : P := h h0
theorem goodD_fun {α β : Type} {P : Prop} {x : α → DevRes} (h : P) : P := let _ := x; h

theorem devAccess_good {qq : List Instr} {s : State} {n : Fin 24} {lvl : Nat} {a : Attr} {isW : Bool} {addr : Nat} {len : Nat} {data : Nat} {env : MemEnv} (h1 : Good qq s) :
    GoodD qq (devAccess s n lvl a isW addr len data env) := by
  delta devAccess
  repeat' first
    | with_reducible assumption
    | with_reducible intro _
    | (extract_lets -underBinder +onlyGivenNames x; first | (refine good_cut (q := qq) (s := x) ?_ ?_; (on_goal 1 => subst x); (on_goal 2 => (intro _; clear_value x))) | (refine good_cutO (q := qq) (x := x) ?_ ?_; (on_goal 1 => subst x); (on_goal 2 => (intro _; clear_value x))) | (refine goodPA_cut (q := qq) (x := x) ?_ ?_; (on_goal 1 => subst x); (on_goal 2 => (intro _; clear_value x))) | (refine goodD_cut (q := qq) (x := x) ?_ ?_; (on_goal 1 => subst x); (on_goal 2 => (intro _; clear_value x))) | (refine isP (x := x) ?_; subst x) | (refine isQ (x := x) ?_; subst x) | (refine isFab (x := x) ?_; subst x) | (refine isSram (x := x) ?_; subst x) | (refine isDram (x := x) ?_; subst x) | (refine isStateFun (x := x) ?_; subst x) | (refine isStateFun2 (x := x) ?_; subst x) | (refine goodPA_fun (x := x) ?_; subst x) | (refine goodD_fun (x := x) ?_; subst x) | clear_value x | subst x)
    | with_reducible refine goodR_next ?_
    | with_reducible refine goodO_some ?_
    | with_reducible exact goodO_none
    | with_reducible refine goodPA_ok ?_
    | with_reducible refine goodPA_err ?_
    | with_reducible refine goodPA_wait ?_
    | with_reducible refine goodD_ok ?_
    | with_reducible refine goodD_err ?_
    | with_reducible refine goodD_wait ?_
    | with_reducible refine regAccess_good ?_
    | with_reducible refine updCore_good ?_
    | with_reducible refine ferrLog_good ?_
    | with_reducible refine windowServe_good ?_
    | with_reducible refine confTicks_good ?_
    | with_reducible refine addTxn_good ?_
    | with_reducible refine pocWrite_good ?_
    | with_reducible refine pocRead_good ?_
    | with_reducible refine otherCores_good ?_
    | with_reducible refine goodO_of ?_ (by with_reducible assumption)
    | with_reducible refine goodP_of ?_ (by with_reducible assumption)
    | with_reducible refine goodQ_of ?_ (by with_reducible assumption)
    | with_reducible refine goodR_of ?_ (by with_reducible assumption)
    | with_reducible refine goodOP_of ?_ (by with_reducible assumption)
    | with_reducible refine goodOQ_of ?_ (by with_reducible assumption)
    | with_reducible refine goodPA_ok_of (by with_reducible assumption) ?_
    | with_reducible refine goodPA_err_of (by with_reducible assumption) ?_
    | with_reducible refine goodPA_wait_of (by with_reducible assumption) ?_
    | with_reducible refine goodD_ok_of (by with_reducible assumption) ?_
    | with_reducible refine goodD_err_of (by with_reducible assumption) ?_
    | with_reducible refine goodD_wait_of (by with_reducible assumption) ?_
    | with_reducible exact good_mk (by with_reducible assumption) rfl rfl rfl rfl rfl rfl
    | dsimp -zeta only
    | with_reducible split

theorem keepAns_good {qq : List Instr} {s : State} {n : Fin 24} {g : DevAns} (h1 : Good qq s) :
    Good qq (keepAns s n g) := by
  delta keepAns
  repeat' first
    | with_reducible assumption
    | with_reducible intro _
    | (extract_lets -underBinder +onlyGivenNames x; first | (refine good_cut (q := qq) (s := x) ?_ ?_; (on_goal 1 => subst x); (on_goal 2 => (intro _; clear_value x))) | (refine good_cutO (q := qq) (x := x) ?_ ?_; (on_goal 1 => subst x); (on_goal 2 => (intro _; clear_value x))) | (refine isP (x := x) ?_; subst x) | (refine isQ (x := x) ?_; subst x) | (refine isFab (x := x) ?_; subst x) | (refine isSram (x := x) ?_; subst x) | (refine isDram (x := x) ?_; subst x) | (refine isStateFun (x := x) ?_; subst x) | (refine isStateFun2 (x := x) ?_; subst x) | clear_value x | subst x)
    | with_reducible refine goodR_next ?_
    | with_reducible refine goodO_some ?_
    | with_reducible exact goodO_none
    | with_reducible refine updCore_good ?_

theorem devRead_good {qq : List Instr} {s : State} {n : Fin 24} {addr : Nat} {len : Nat} {env : MemEnv} (h1 : Good qq s) :
    GoodD qq (devRead s n addr len env) := by
  delta devRead
  repeat' first
    | with_reducible assumption
    | with_reducible intro _
    | (extract_lets -underBinder +onlyGivenNames x; first | (refine good_cut (q := qq) (s := x) ?_ ?_; (on_goal 1 => subst x); (on_goal 2 => (intro _; clear_value x))) | (refine good_cutO (q := qq) (x := x) ?_ ?_; (on_goal 1 => subst x); (on_goal 2 => (intro _; clear_value x))) | (refine goodD_cut (q := qq) (x := x) ?_ ?_; (on_goal 1 => subst x); (on_goal 2 => (intro _; clear_value x))) | (refine isP (x := x) ?_; subst x) | (refine isQ (x := x) ?_; subst x) | (refine isFab (x := x) ?_; subst x) | (refine isSram (x := x) ?_; subst x) | (refine isDram (x := x) ?_; subst x) | (refine isStateFun (x := x) ?_; subst x) | (refine isStateFun2 (x := x) ?_; subst x) | (refine goodD_fun (x := x) ?_; subst x) | clear_value x | subst x)
    | with_reducible refine goodR_next ?_
    | with_reducible refine goodO_some ?_
    | with_reducible exact goodO_none
    | with_reducible refine goodD_ok ?_
    | with_reducible refine goodD_err ?_
    | with_reducible refine goodD_wait ?_
    | with_reducible refine devAccess_good ?_
    | with_reducible refine keepAns_good ?_
    | with_reducible refine goodO_of ?_ (by with_reducible assumption)
    | with_reducible refine goodP_of ?_ (by with_reducible assumption)
    | with_reducible refine goodQ_of ?_ (by with_reducible assumption)
    | with_reducible refine goodR_of ?_ (by with_reducible assumption)
    | with_reducible refine goodD_ok_of (by with_reducible assumption) ?_
    | with_reducible refine goodD_err_of (by with_reducible assumption) ?_
    | with_reducible refine goodD_wait_of (by with_reducible assumption) ?_
    | with_reducible exact good_mk (by with_reducible assumption) rfl rfl rfl rfl rfl rfl
    | dsimp -zeta only
    | with_reducible split

theorem commitStore_good {qq : List Instr} {s : State} {n : Fin 24} {x : StoreEnt} {env : MemEnv} (h1 : Good qq s) :
    GoodE qq (commitStore s n x env) := by
  delta commitStore
  repeat' first
    | with_reducible assumption
    | with_reducible intro _
    | (extract_lets -underBinder +onlyGivenNames x; first | (refine good_cut (q := qq) (s := x) ?_ ?_; (on_goal 1 => subst x); (on_goal 2 => (intro _; clear_value x))) | (refine good_cutO (q := qq) (x := x) ?_ ?_; (on_goal 1 => subst x); (on_goal 2 => (intro _; clear_value x))) | (refine goodE_cut (q := qq) (x := x) ?_ ?_; (on_goal 1 => subst x); (on_goal 2 => (intro _; clear_value x))) | (refine goodD_cut (q := qq) (x := x) ?_ ?_; (on_goal 1 => subst x); (on_goal 2 => (intro _; clear_value x))) | (refine isP (x := x) ?_; subst x) | (refine isQ (x := x) ?_; subst x) | (refine isFab (x := x) ?_; subst x) | (refine isSram (x := x) ?_; subst x) | (refine isDram (x := x) ?_; subst x) | (refine isStateFun (x := x) ?_; subst x) | (refine isStateFun2 (x := x) ?_; subst x) | (refine goodE_fun (x := x) ?_; subst x) | (refine goodD_fun (x := x) ?_; subst x) | clear_value x | subst x)
    | with_reducible refine goodR_next ?_
    | with_reducible refine goodO_some ?_
    | with_reducible exact goodO_none
    | with_reducible refine goodE_ok ?_
    | with_reducible refine goodE_error ?_
    | with_reducible refine goodD_ok ?_
    | with_reducible refine goodD_err ?_
    | with_reducible refine goodD_wait ?_
    | with_reducible refine commitNormal_good ?_
    | with_reducible refine devAccess_good ?_
    | with_reducible refine holdStoreBus_good ?_
    | with_reducible refine goodO_of ?_ (by with_reducible assumption)
    | with_reducible refine goodP_of ?_ (by with_reducible assumption)
    | with_reducible refine goodQ_of ?_ (by with_reducible assumption)
    | with_reducible refine goodR_of ?_ (by with_reducible assumption)
    | with_reducible refine goodE_ok_of (by with_reducible assumption) ?_
    | with_reducible refine goodE_error_of (by with_reducible assumption) ?_
    | with_reducible refine goodD_ok_of (by with_reducible assumption) ?_
    | with_reducible refine goodD_err_of (by with_reducible assumption) ?_
    | with_reducible refine goodD_wait_of (by with_reducible assumption) ?_
    | with_reducible exact good_mk (by with_reducible assumption) rfl rfl rfl rfl rfl rfl
    | dsimp -zeta only
    | with_reducible split

theorem drainWhere_good {qq : List Instr} {s : State} {n : Fin 24} {p : StoreEnt → Bool} {env : MemEnv} (h1 : Good qq s) :
    GoodE qq (drainWhere s n p env) := by
  delta drainWhere
  repeat' first
    | with_reducible assumption
    | with_reducible intro _
    | (extract_lets -underBinder +onlyGivenNames x; first | (refine good_cut (q := qq) (s := x) ?_ ?_; (on_goal 1 => subst x); (on_goal 2 => (intro _; clear_value x))) | (refine good_cutO (q := qq) (x := x) ?_ ?_; (on_goal 1 => subst x); (on_goal 2 => (intro _; clear_value x))) | (refine goodE_cut (q := qq) (x := x) ?_ ?_; (on_goal 1 => subst x); (on_goal 2 => (intro _; clear_value x))) | (refine isP (x := x) ?_; subst x) | (refine isQ (x := x) ?_; subst x) | (refine isFab (x := x) ?_; subst x) | (refine isSram (x := x) ?_; subst x) | (refine isDram (x := x) ?_; subst x) | (refine isStateFun (x := x) ?_; subst x) | (refine isStateFun2 (x := x) ?_; subst x) | (refine goodE_fun (x := x) ?_; subst x) | clear_value x | subst x)
    | with_reducible refine goodR_next ?_
    | with_reducible refine goodO_some ?_
    | with_reducible exact goodO_none
    | with_reducible refine goodE_ok ?_
    | with_reducible refine goodE_error ?_
    | with_reducible refine commitStore_good ?_
    | with_reducible refine dropStore_good ?_
    | with_reducible refine good_foldl ?_ ?_
    | with_reducible refine good_foldlP ?_ ?_
    | with_reducible refine goodO_foldl ?_ ?_
    | with_reducible refine goodO_bind ?_ ?_
    | with_reducible refine goodO_map ?_ ?_
    | with_reducible refine goodOP_mapP ?_ ?_
    | with_reducible refine goodOP_map ?_ ?_
    | with_reducible refine goodO_mapP ?_ ?_
    | with_reducible refine goodEbind ?_ ?_
    | with_reducible refine goodEmap ?_ ?_
    | with_reducible refine goodEPmap ?_ ?_
    | with_reducible refine goodEfoldl ?_ ?_

theorem roomFor_good {qq : List Instr} {s : State} {n : Fin 24} {k : Nat} {env : MemEnv} (h1 : Good qq s) :
    GoodE qq (roomFor s n k env) := by
  delta roomFor
  repeat' first
    | with_reducible assumption
    | with_reducible intro _
    | (extract_lets -underBinder +onlyGivenNames x; first | (refine good_cut (q := qq) (s := x) ?_ ?_; (on_goal 1 => subst x); (on_goal 2 => (intro _; clear_value x))) | (refine good_cutO (q := qq) (x := x) ?_ ?_; (on_goal 1 => subst x); (on_goal 2 => (intro _; clear_value x))) | (refine goodE_cut (q := qq) (x := x) ?_ ?_; (on_goal 1 => subst x); (on_goal 2 => (intro _; clear_value x))) | (refine isP (x := x) ?_; subst x) | (refine isQ (x := x) ?_; subst x) | (refine isFab (x := x) ?_; subst x) | (refine isSram (x := x) ?_; subst x) | (refine isDram (x := x) ?_; subst x) | (refine isStateFun (x := x) ?_; subst x) | (refine isStateFun2 (x := x) ?_; subst x) | (refine goodE_fun (x := x) ?_; subst x) | clear_value x | subst x)
    | with_reducible refine goodR_next ?_
    | with_reducible refine goodO_some ?_
    | with_reducible exact goodO_none
    | with_reducible refine goodE_ok ?_
    | with_reducible refine goodE_error ?_
    | with_reducible refine commitStore_good ?_
    | with_reducible refine dropStore_good ?_
    | with_reducible refine good_foldl ?_ ?_
    | with_reducible refine good_foldlP ?_ ?_
    | with_reducible refine goodO_foldl ?_ ?_
    | with_reducible refine goodO_bind ?_ ?_
    | with_reducible refine goodO_map ?_ ?_
    | with_reducible refine goodOP_mapP ?_ ?_
    | with_reducible refine goodOP_map ?_ ?_
    | with_reducible refine goodO_mapP ?_ ?_
    | with_reducible refine goodEbind ?_ ?_
    | with_reducible refine goodEmap ?_ ?_
    | with_reducible refine goodEPmap ?_ ?_
    | with_reducible refine goodEfoldl ?_ ?_

theorem bufferStore_good {qq : List Instr} {s : State} {n : Fin 24} {x : StoreEnt} (h1 : Good qq s) :
    Good qq (bufferStore s n x) := by
  delta bufferStore
  repeat' first
    | with_reducible assumption
    | with_reducible intro _
    | (extract_lets -underBinder +onlyGivenNames x; first | (refine good_cut (q := qq) (s := x) ?_ ?_; (on_goal 1 => subst x); (on_goal 2 => (intro _; clear_value x))) | (refine good_cutO (q := qq) (x := x) ?_ ?_; (on_goal 1 => subst x); (on_goal 2 => (intro _; clear_value x))) | (refine isP (x := x) ?_; subst x) | (refine isQ (x := x) ?_; subst x) | (refine isFab (x := x) ?_; subst x) | (refine isSram (x := x) ?_; subst x) | (refine isDram (x := x) ?_; subst x) | (refine isStateFun (x := x) ?_; subst x) | (refine isStateFun2 (x := x) ?_; subst x) | clear_value x | subst x)
    | with_reducible refine goodR_next ?_
    | with_reducible refine goodO_some ?_
    | with_reducible exact goodO_none
    | with_reducible refine dropEarly_good ?_
    | with_reducible refine updCore_good ?_

theorem execStoreCommit_good {qq : List Instr} {n : Fin 24} {idx : Nat} {env : MemEnv} {s : State} (h1 : Good qq s) :
    GoodR qq (execStoreCommit n idx env s) := by
  delta execStoreCommit
  repeat' first
    | with_reducible assumption
    | with_reducible intro _
    | (extract_lets -underBinder +onlyGivenNames x; first | (refine good_cut (q := qq) (s := x) ?_ ?_; (on_goal 1 => subst x); (on_goal 2 => (intro _; clear_value x))) | (refine good_cutO (q := qq) (x := x) ?_ ?_; (on_goal 1 => subst x); (on_goal 2 => (intro _; clear_value x))) | (refine goodE_cut (q := qq) (x := x) ?_ ?_; (on_goal 1 => subst x); (on_goal 2 => (intro _; clear_value x))) | (refine isP (x := x) ?_; subst x) | (refine isQ (x := x) ?_; subst x) | (refine isFab (x := x) ?_; subst x) | (refine isSram (x := x) ?_; subst x) | (refine isDram (x := x) ?_; subst x) | (refine isStateFun (x := x) ?_; subst x) | (refine isStateFun2 (x := x) ?_; subst x) | (refine goodE_fun (x := x) ?_; subst x) | clear_value x | subst x)
    | with_reducible refine goodR_next ?_
    | with_reducible refine goodO_some ?_
    | with_reducible exact goodO_none
    | with_reducible refine goodE_ok ?_
    | with_reducible refine goodE_error ?_
    | with_reducible refine commitStore_good ?_
    | with_reducible refine updCore_good ?_
    | with_reducible refine goodO_of ?_ (by with_reducible assumption)
    | with_reducible refine goodP_of ?_ (by with_reducible assumption)
    | with_reducible refine goodQ_of ?_ (by with_reducible assumption)
    | with_reducible refine goodR_of ?_ (by with_reducible assumption)
    | with_reducible refine goodE_ok_of (by with_reducible assumption) ?_
    | with_reducible refine goodE_error_of (by with_reducible assumption) ?_
    | with_reducible exact good_mk (by with_reducible assumption) rfl rfl rfl rfl rfl rfl
    | dsimp -zeta only
    | with_reducible split

theorem xlatNoted_good {qq : List Instr} {s : State} {n : Fin 24} {ea : Nat} {acc : Acc} {env : MemEnv} (h1 : Good qq s) :
    GoodX qq (xlatNoted s n ea acc env) := by
  delta xlatNoted
  repeat' first
    | with_reducible assumption
    | with_reducible intro _
    | (extract_lets -underBinder +onlyGivenNames x; first | (refine good_cut (q := qq) (s := x) ?_ ?_; (on_goal 1 => subst x); (on_goal 2 => (intro _; clear_value x))) | (refine good_cutO (q := qq) (x := x) ?_ ?_; (on_goal 1 => subst x); (on_goal 2 => (intro _; clear_value x))) | (refine goodX_cut (q := qq) (x := x) ?_ ?_; (on_goal 1 => subst x); (on_goal 2 => (intro _; clear_value x))) | (refine isP (x := x) ?_; subst x) | (refine isQ (x := x) ?_; subst x) | (refine isFab (x := x) ?_; subst x) | (refine isSram (x := x) ?_; subst x) | (refine isDram (x := x) ?_; subst x) | (refine isStateFun (x := x) ?_; subst x) | (refine isStateFun2 (x := x) ?_; subst x) | (refine goodX_fun (x := x) ?_; subst x) | clear_value x | subst x)
    | with_reducible refine goodR_next ?_
    | with_reducible refine goodO_some ?_
    | with_reducible exact goodO_none
    | with_reducible refine goodX_ok ?_
    | with_reducible refine goodX_exc ?_
    | with_reducible refine goodX_wait ?_
    | with_reducible refine translate_good ?_
    | with_reducible refine noteEvs_good ?_
    | with_reducible refine XR_bind_good ?_ ?_
    | with_reducible refine goodO_bind ?_ ?_
    | with_reducible refine goodEbind ?_ ?_
    | with_reducible refine goodO_of ?_ (by with_reducible assumption)
    | with_reducible refine goodP_of ?_ (by with_reducible assumption)
    | with_reducible refine goodQ_of ?_ (by with_reducible assumption)
    | with_reducible refine goodR_of ?_ (by with_reducible assumption)
    | with_reducible refine goodX_ok_of (by with_reducible assumption) ?_
    | with_reducible refine goodX_exc_of (by with_reducible assumption) ?_
    | with_reducible refine goodX_wait_of (by with_reducible assumption) ?_
    | with_reducible exact good_mk (by with_reducible assumption) rfl rfl rfl rfl rfl rfl
    | dsimp -zeta only
    | with_reducible split

theorem xlatParts_good {qq : List Instr} {s : State} {n : Fin 24} {ea : Nat} {len : Nat} {acc : Acc} {env : MemEnv} (h1 : Good qq s) :
    GoodX qq (xlatParts s n ea len acc env) := by
  delta xlatParts
  repeat' first
    | with_reducible assumption
    | with_reducible intro _
    | (extract_lets -underBinder +onlyGivenNames x; first | (refine good_cut (q := qq) (s := x) ?_ ?_; (on_goal 1 => subst x); (on_goal 2 => (intro _; clear_value x))) | (refine good_cutO (q := qq) (x := x) ?_ ?_; (on_goal 1 => subst x); (on_goal 2 => (intro _; clear_value x))) | (refine goodX_cut (q := qq) (x := x) ?_ ?_; (on_goal 1 => subst x); (on_goal 2 => (intro _; clear_value x))) | (refine isP (x := x) ?_; subst x) | (refine isQ (x := x) ?_; subst x) | (refine isFab (x := x) ?_; subst x) | (refine isSram (x := x) ?_; subst x) | (refine isDram (x := x) ?_; subst x) | (refine isStateFun (x := x) ?_; subst x) | (refine isStateFun2 (x := x) ?_; subst x) | (refine goodX_fun (x := x) ?_; subst x) | clear_value x | subst x)
    | with_reducible refine goodR_next ?_
    | with_reducible refine goodO_some ?_
    | with_reducible exact goodO_none
    | with_reducible refine goodX_ok ?_
    | with_reducible refine goodX_exc ?_
    | with_reducible refine goodX_wait ?_
    | with_reducible refine xlatNoted_good ?_
    | with_reducible refine XR_bind_good ?_ ?_
    | with_reducible refine goodO_bind ?_ ?_
    | with_reducible refine goodEbind ?_ ?_
    | with_reducible refine goodO_of ?_ (by with_reducible assumption)
    | with_reducible refine goodP_of ?_ (by with_reducible assumption)
    | with_reducible refine goodQ_of ?_ (by with_reducible assumption)
    | with_reducible refine goodR_of ?_ (by with_reducible assumption)
    | with_reducible refine goodX_ok_of (by with_reducible assumption) ?_
    | with_reducible refine goodX_exc_of (by with_reducible assumption) ?_
    | with_reducible refine goodX_wait_of (by with_reducible assumption) ?_
    | with_reducible exact good_mk (by with_reducible assumption) rfl rfl rfl rfl rfl rfl
    | dsimp -zeta only
    | with_reducible split

theorem keepXlat_good {qq : List Instr} {s : State} {n : Fin 24} {ea : Nat} {len : Nat} {acc : Acc} {ps : List Part} (h1 : Good qq s) :
    Good qq (keepXlat s n ea len acc ps) := by
  delta keepXlat
  repeat' first
    | with_reducible assumption
    | with_reducible intro _
    | (extract_lets -underBinder +onlyGivenNames x; first | (refine good_cut (q := qq) (s := x) ?_ ?_; (on_goal 1 => subst x); (on_goal 2 => (intro _; clear_value x))) | (refine good_cutO (q := qq) (x := x) ?_ ?_; (on_goal 1 => subst x); (on_goal 2 => (intro _; clear_value x))) | (refine isP (x := x) ?_; subst x) | (refine isQ (x := x) ?_; subst x) | (refine isFab (x := x) ?_; subst x) | (refine isSram (x := x) ?_; subst x) | (refine isDram (x := x) ?_; subst x) | (refine isStateFun (x := x) ?_; subst x) | (refine isStateFun2 (x := x) ?_; subst x) | clear_value x | subst x)
    | with_reducible refine goodR_next ?_
    | with_reducible refine goodO_some ?_
    | with_reducible exact goodO_none
    | with_reducible refine updCore_good ?_

theorem xlatSpan_good {qq : List Instr} {s : State} {n : Fin 24} {ea : Nat} {len : Nat} {acc : Acc} {env : MemEnv} (h1 : Good qq s) :
    GoodX qq (xlatSpan s n ea len acc env) := by
  delta xlatSpan
  repeat' first
    | with_reducible assumption
    | with_reducible intro _
    | (extract_lets -underBinder +onlyGivenNames x; first | (refine good_cut (q := qq) (s := x) ?_ ?_; (on_goal 1 => subst x); (on_goal 2 => (intro _; clear_value x))) | (refine good_cutO (q := qq) (x := x) ?_ ?_; (on_goal 1 => subst x); (on_goal 2 => (intro _; clear_value x))) | (refine goodX_cut (q := qq) (x := x) ?_ ?_; (on_goal 1 => subst x); (on_goal 2 => (intro _; clear_value x))) | (refine isP (x := x) ?_; subst x) | (refine isQ (x := x) ?_; subst x) | (refine isFab (x := x) ?_; subst x) | (refine isSram (x := x) ?_; subst x) | (refine isDram (x := x) ?_; subst x) | (refine isStateFun (x := x) ?_; subst x) | (refine isStateFun2 (x := x) ?_; subst x) | (refine goodX_fun (x := x) ?_; subst x) | clear_value x | subst x)
    | with_reducible refine goodR_next ?_
    | with_reducible refine goodO_some ?_
    | with_reducible exact goodO_none
    | with_reducible refine goodX_ok ?_
    | with_reducible refine goodX_exc ?_
    | with_reducible refine goodX_wait ?_
    | with_reducible refine xlatParts_good ?_
    | with_reducible refine keepXlat_good ?_
    | with_reducible refine XR_bind_good ?_ ?_
    | with_reducible refine goodO_bind ?_ ?_
    | with_reducible refine goodEbind ?_ ?_
    | with_reducible refine goodO_of ?_ (by with_reducible assumption)
    | with_reducible refine goodP_of ?_ (by with_reducible assumption)
    | with_reducible refine goodQ_of ?_ (by with_reducible assumption)
    | with_reducible refine goodR_of ?_ (by with_reducible assumption)
    | with_reducible refine goodX_ok_of (by with_reducible assumption) ?_
    | with_reducible refine goodX_exc_of (by with_reducible assumption) ?_
    | with_reducible refine goodX_wait_of (by with_reducible assumption) ?_
    | with_reducible exact good_mk (by with_reducible assumption) rfl rfl rfl rfl rfl rfl
    | dsimp -zeta only
    | with_reducible split

theorem readBeyond_good {qq : List Instr} {s : State} {n : Fin 24} {p : Part} {env : MemEnv} (h1 : Good qq s) :
    GoodX qq (readBeyond s n p env) := by
  delta readBeyond
  repeat' first
    | with_reducible assumption
    | with_reducible intro _
    | (extract_lets -underBinder +onlyGivenNames x; first | (refine good_cut (q := qq) (s := x) ?_ ?_; (on_goal 1 => subst x); (on_goal 2 => (intro _; clear_value x))) | (refine good_cutO (q := qq) (x := x) ?_ ?_; (on_goal 1 => subst x); (on_goal 2 => (intro _; clear_value x))) | (refine goodPA_cut (q := qq) (x := x) ?_ ?_; (on_goal 1 => subst x); (on_goal 2 => (intro _; clear_value x))) | (refine goodG_cut (q := qq) (x := x) ?_ ?_; (on_goal 1 => subst x); (on_goal 2 => (intro _; clear_value x))) | (refine goodX_cut (q := qq) (x := x) ?_ ?_; (on_goal 1 => subst x); (on_goal 2 => (intro _; clear_value x))) | (refine isP (x := x) ?_; subst x) | (refine isQ (x := x) ?_; subst x) | (refine isFab (x := x) ?_; subst x) | (refine isSram (x := x) ?_; subst x) | (refine isDram (x := x) ?_; subst x) | (refine isStateFun (x := x) ?_; subst x) | (refine isStateFun2 (x := x) ?_; subst x) | (refine goodPA_fun (x := x) ?_; subst x) | (refine goodG_fun (x := x) ?_; subst x) | (refine goodX_fun (x := x) ?_; subst x) | clear_value x | subst x)
    | with_reducible refine goodR_next ?_
    | with_reducible refine goodO_some ?_
    | with_reducible exact goodO_none
    | with_reducible refine goodPA_ok ?_
    | with_reducible refine goodPA_err ?_
    | with_reducible refine goodPA_wait ?_
    | with_reducible refine goodG_ok ?_
    | with_reducible refine goodG_err ?_
    | with_reducible refine goodG_wait ?_
    | with_reducible refine goodX_ok ?_
    | with_reducible refine goodX_exc ?_
    | with_reducible refine goodX_wait ?_
    | with_reducible refine loadLine_good ?_
    | with_reducible refine noteEvs_good ?_
    | with_reducible refine pocRead_good ?_
    | with_reducible refine goodO_of ?_ (by with_reducible assumption)
    | with_reducible refine goodP_of ?_ (by with_reducible assumption)
    | with_reducible refine goodQ_of ?_ (by with_reducible assumption)
    | with_reducible refine goodR_of ?_ (by with_reducible assumption)
    | with_reducible refine goodPA_ok_of (by with_reducible assumption) ?_
    | with_reducible refine goodPA_err_of (by with_reducible assumption) ?_
    | with_reducible refine goodPA_wait_of (by with_reducible assumption) ?_
    | with_reducible refine goodG_ok_of (by with_reducible assumption) ?_
    | with_reducible refine goodG_err_of (by with_reducible assumption) ?_
    | with_reducible refine goodG_ok_ofP (by with_reducible assumption) ?_
    | with_reducible refine goodG_err_ofP (by with_reducible assumption) ?_
    | with_reducible refine goodG_wait_of (by with_reducible assumption) ?_
    | with_reducible refine goodG_wait_ofP (by with_reducible assumption) ?_
    | with_reducible refine goodX_ok_of (by with_reducible assumption) ?_
    | with_reducible refine goodX_exc_of (by with_reducible assumption) ?_
    | with_reducible refine goodX_wait_of (by with_reducible assumption) ?_
    | with_reducible exact good_mk (by with_reducible assumption) rfl rfl rfl rfl rfl rfl
    | dsimp -zeta only
    | with_reducible split

theorem readNormal_good {qq : List Instr} {s : State} {n : Fin 24} {fwd : Bool} {p : Part} {env : MemEnv} (h1 : Good qq s) :
    GoodX qq (readNormal s n fwd p env) := by
  delta readNormal
  repeat' first
    | with_reducible assumption
    | with_reducible intro _
    | (extract_lets -underBinder +onlyGivenNames x; first | (refine good_cut (q := qq) (s := x) ?_ ?_; (on_goal 1 => subst x); (on_goal 2 => (intro _; clear_value x))) | (refine good_cutO (q := qq) (x := x) ?_ ?_; (on_goal 1 => subst x); (on_goal 2 => (intro _; clear_value x))) | (refine goodX_cut (q := qq) (x := x) ?_ ?_; (on_goal 1 => subst x); (on_goal 2 => (intro _; clear_value x))) | (refine isP (x := x) ?_; subst x) | (refine isQ (x := x) ?_; subst x) | (refine isFab (x := x) ?_; subst x) | (refine isSram (x := x) ?_; subst x) | (refine isDram (x := x) ?_; subst x) | (refine isStateFun (x := x) ?_; subst x) | (refine isStateFun2 (x := x) ?_; subst x) | (refine goodX_fun (x := x) ?_; subst x) | clear_value x | subst x)
    | with_reducible refine goodR_next ?_
    | with_reducible refine goodO_some ?_
    | with_reducible exact goodO_none
    | with_reducible refine goodX_ok ?_
    | with_reducible refine goodX_exc ?_
    | with_reducible refine goodX_wait ?_
    | with_reducible refine readBeyond_good ?_
    | with_reducible refine goodO_of ?_ (by with_reducible assumption)
    | with_reducible refine goodP_of ?_ (by with_reducible assumption)
    | with_reducible refine goodQ_of ?_ (by with_reducible assumption)
    | with_reducible refine goodR_of ?_ (by with_reducible assumption)
    | with_reducible refine goodX_ok_of (by with_reducible assumption) ?_
    | with_reducible refine goodX_exc_of (by with_reducible assumption) ?_
    | with_reducible refine goodX_wait_of (by with_reducible assumption) ?_
    | with_reducible exact good_mk (by with_reducible assumption) rfl rfl rfl rfl rfl rfl
    | dsimp -zeta only
    | with_reducible split

theorem readDevice_good {qq : List Instr} {s : State} {n : Fin 24} {p : Part} {env : MemEnv} (h1 : Good qq s) :
    GoodX qq (readDevice s n p env) := by
  delta readDevice
  repeat' first
    | with_reducible assumption
    | with_reducible intro _
    | (extract_lets -underBinder +onlyGivenNames x; first | (refine good_cut (q := qq) (s := x) ?_ ?_; (on_goal 1 => subst x); (on_goal 2 => (intro _; clear_value x))) | (refine good_cutO (q := qq) (x := x) ?_ ?_; (on_goal 1 => subst x); (on_goal 2 => (intro _; clear_value x))) | (refine goodE_cut (q := qq) (x := x) ?_ ?_; (on_goal 1 => subst x); (on_goal 2 => (intro _; clear_value x))) | (refine goodX_cut (q := qq) (x := x) ?_ ?_; (on_goal 1 => subst x); (on_goal 2 => (intro _; clear_value x))) | (refine goodD_cut (q := qq) (x := x) ?_ ?_; (on_goal 1 => subst x); (on_goal 2 => (intro _; clear_value x))) | (refine isP (x := x) ?_; subst x) | (refine isQ (x := x) ?_; subst x) | (refine isFab (x := x) ?_; subst x) | (refine isSram (x := x) ?_; subst x) | (refine isDram (x := x) ?_; subst x) | (refine isStateFun (x := x) ?_; subst x) | (refine isStateFun2 (x := x) ?_; subst x) | (refine goodE_fun (x := x) ?_; subst x) | (refine goodX_fun (x := x) ?_; subst x) | (refine goodD_fun (x := x) ?_; subst x) | clear_value x | subst x)
    | with_reducible refine goodR_next ?_
    | with_reducible refine goodO_some ?_
    | with_reducible exact goodO_none
    | with_reducible refine goodE_ok ?_
    | with_reducible refine goodE_error ?_
    | with_reducible refine goodX_ok ?_
    | with_reducible refine goodX_exc ?_
    | with_reducible refine goodX_wait ?_
    | with_reducible refine goodD_ok ?_
    | with_reducible refine goodD_err ?_
    | with_reducible refine goodD_wait ?_
    | with_reducible refine drainWhere_good ?_
    | with_reducible refine devRead_good ?_
    | with_reducible refine goodO_of ?_ (by with_reducible assumption)
    | with_reducible refine goodP_of ?_ (by with_reducible assumption)
    | with_reducible refine goodQ_of ?_ (by with_reducible assumption)
    | with_reducible refine goodR_of ?_ (by with_reducible assumption)
    | with_reducible refine goodE_ok_of (by with_reducible assumption) ?_
    | with_reducible refine goodE_error_of (by with_reducible assumption) ?_
    | with_reducible refine goodX_ok_of (by with_reducible assumption) ?_
    | with_reducible refine goodX_exc_of (by with_reducible assumption) ?_
    | with_reducible refine goodX_wait_of (by with_reducible assumption) ?_
    | with_reducible refine goodD_ok_of (by with_reducible assumption) ?_
    | with_reducible refine goodD_err_of (by with_reducible assumption) ?_
    | with_reducible refine goodD_wait_of (by with_reducible assumption) ?_
    | with_reducible exact good_mk (by with_reducible assumption) rfl rfl rfl rfl rfl rfl
    | dsimp -zeta only
    | with_reducible split

theorem readEach_good {qq : List Instr} {n : Fin 24} {env : MemEnv} {fwd : Bool} {z0 : List Part} {z1 : State} (h1 : Good qq z1) :
    GoodX qq (readEach n env fwd z0 z1) := by
  induction z0 generalizing z1 with
  | nil => exact h1
  | cons p ps ih =>
    unfold readEach
    refine XR_bind_good ?_ fun _ _ h => XR_bind_good (ih h) fun _ _ h => goodX_ok h
    split
    · exact readDevice_good h1
    · exact readNormal_good h1

theorem readParts_good {qq : List Instr} {n : Fin 24} {env : MemEnv} {ps : List Part} {s : State} (h1 : Good qq s) :
    GoodX qq (readParts n env ps s) := by
  delta readParts
  repeat' first
    | with_reducible assumption
    | with_reducible intro _
    | (extract_lets -underBinder +onlyGivenNames x; first | (refine good_cut (q := qq) (s := x) ?_ ?_; (on_goal 1 => subst x); (on_goal 2 => (intro _; clear_value x))) | (refine good_cutO (q := qq) (x := x) ?_ ?_; (on_goal 1 => subst x); (on_goal 2 => (intro _; clear_value x))) | (refine goodE_cut (q := qq) (x := x) ?_ ?_; (on_goal 1 => subst x); (on_goal 2 => (intro _; clear_value x))) | (refine goodX_cut (q := qq) (x := x) ?_ ?_; (on_goal 1 => subst x); (on_goal 2 => (intro _; clear_value x))) | (refine isP (x := x) ?_; subst x) | (refine isQ (x := x) ?_; subst x) | (refine isFab (x := x) ?_; subst x) | (refine isSram (x := x) ?_; subst x) | (refine isDram (x := x) ?_; subst x) | (refine isStateFun (x := x) ?_; subst x) | (refine isStateFun2 (x := x) ?_; subst x) | (refine goodE_fun (x := x) ?_; subst x) | (refine goodX_fun (x := x) ?_; subst x) | (refine goodE_fun2 (x := x) ?_; subst x) | (refine goodX_fun2 (x := x) ?_; subst x) | clear_value x | subst x)
    | with_reducible refine goodR_next ?_
    | with_reducible refine goodO_some ?_
    | with_reducible exact goodO_none
    | with_reducible refine goodE_ok ?_
    | with_reducible refine goodE_error ?_
    | with_reducible refine goodX_ok ?_
    | with_reducible refine goodX_exc ?_
    | with_reducible refine goodX_wait ?_
    | with_reducible refine readEach_good ?_
    | with_reducible refine commitWhere_good ?_
    | with_reducible refine noteEvs_good ?_
    | with_reducible refine XR_bind_good ?_ ?_
    | with_reducible refine goodO_bind ?_ ?_
    | with_reducible refine goodEbind ?_ ?_
    | with_reducible refine goodO_of ?_ (by with_reducible assumption)
    | with_reducible refine goodP_of ?_ (by with_reducible assumption)
    | with_reducible refine goodQ_of ?_ (by with_reducible assumption)
    | with_reducible refine goodR_of ?_ (by with_reducible assumption)
    | with_reducible refine goodE_ok_of (by with_reducible assumption) ?_
    | with_reducible refine goodE_error_of (by with_reducible assumption) ?_
    | with_reducible refine goodX_ok_of (by with_reducible assumption) ?_
    | with_reducible refine goodX_exc_of (by with_reducible assumption) ?_
    | with_reducible refine goodX_wait_of (by with_reducible assumption) ?_
    | with_reducible exact good_mk (by with_reducible assumption) rfl rfl rfl rfl rfl rfl
    | dsimp -zeta only
    | with_reducible split

theorem trainPf_good {qq : List Instr} {s : State} {n : Fin 24} {c : Cls} {ps : List Part} (h1 : Good qq s) :
    Good qq (trainPf s n c ps) := by
  delta trainPf
  repeat' first
    | with_reducible assumption
    | with_reducible intro _
    | (extract_lets -underBinder +onlyGivenNames x; first | (refine good_cut (q := qq) (s := x) ?_ ?_; (on_goal 1 => subst x); (on_goal 2 => (intro _; clear_value x))) | (refine good_cutO (q := qq) (x := x) ?_ ?_; (on_goal 1 => subst x); (on_goal 2 => (intro _; clear_value x))) | (refine isP (x := x) ?_; subst x) | (refine isQ (x := x) ?_; subst x) | (refine isFab (x := x) ?_; subst x) | (refine isSram (x := x) ?_; subst x) | (refine isDram (x := x) ?_; subst x) | (refine isStateFun (x := x) ?_; subst x) | (refine isStateFun2 (x := x) ?_; subst x) | clear_value x | subst x)
    | with_reducible refine goodR_next ?_
    | with_reducible refine goodO_some ?_
    | with_reducible exact goodO_none
    | with_reducible refine updCore_good ?_
    | with_reducible refine good_foldl ?_ ?_
    | with_reducible refine good_foldlP ?_ ?_
    | with_reducible refine goodO_foldl ?_ ?_
    | with_reducible refine goodO_of ?_ (by with_reducible assumption)
    | with_reducible refine goodP_of ?_ (by with_reducible assumption)
    | with_reducible refine goodQ_of ?_ (by with_reducible assumption)
    | with_reducible refine goodR_of ?_ (by with_reducible assumption)
    | with_reducible exact good_mk (by with_reducible assumption) rfl rfl rfl rfl rfl rfl
    | dsimp -zeta only
    | with_reducible split

theorem dropParts_good {qq : List Instr} {s : State} {n : Fin 24} {ps : List Part} (h1 : Good qq s) :
    Good qq (dropParts s n ps) := by
  delta dropParts
  repeat' first
    | with_reducible assumption
    | with_reducible intro _
    | (extract_lets -underBinder +onlyGivenNames x; first | (refine good_cut (q := qq) (s := x) ?_ ?_; (on_goal 1 => subst x); (on_goal 2 => (intro _; clear_value x))) | (refine good_cutO (q := qq) (x := x) ?_ ?_; (on_goal 1 => subst x); (on_goal 2 => (intro _; clear_value x))) | (refine isP (x := x) ?_; subst x) | (refine isQ (x := x) ?_; subst x) | (refine isFab (x := x) ?_; subst x) | (refine isSram (x := x) ?_; subst x) | (refine isDram (x := x) ?_; subst x) | (refine isStateFun (x := x) ?_; subst x) | (refine isStateFun2 (x := x) ?_; subst x) | clear_value x | subst x)
    | with_reducible refine goodR_next ?_
    | with_reducible refine goodO_some ?_
    | with_reducible exact goodO_none
    | with_reducible refine dropEarly_good ?_
    | with_reducible refine good_foldl ?_ ?_

theorem noteServed_good {qq : List Instr} {s : State} {n : Fin 24} {ea : Nat} {len : Nat} (h1 : Good qq s) :
    Good qq (noteServed s n ea len) := by
  delta noteServed
  repeat' first
    | with_reducible assumption
    | with_reducible intro _
    | (extract_lets -underBinder +onlyGivenNames x; first | (refine good_cut (q := qq) (s := x) ?_ ?_; (on_goal 1 => subst x); (on_goal 2 => (intro _; clear_value x))) | (refine good_cutO (q := qq) (x := x) ?_ ?_; (on_goal 1 => subst x); (on_goal 2 => (intro _; clear_value x))) | (refine isP (x := x) ?_; subst x) | (refine isQ (x := x) ?_; subst x) | (refine isFab (x := x) ?_; subst x) | (refine isSram (x := x) ?_; subst x) | (refine isDram (x := x) ?_; subst x) | (refine isStateFun (x := x) ?_; subst x) | (refine isStateFun2 (x := x) ?_; subst x) | clear_value x | subst x)
    | with_reducible refine goodR_next ?_
    | with_reducible refine goodO_some ?_
    | with_reducible exact goodO_none
    | with_reducible refine takeServed_good ?_
    | with_reducible refine noteEvs_good ?_

theorem loadAt_good {qq : List Instr} {s : State} {n : Fin 24} {reg : Nat} {ea : Nat} {len : Nat} {env : MemEnv} (h1 : Good qq s) :
    GoodX qq (loadAt s n reg ea len env) := by
  delta loadAt
  repeat' first
    | with_reducible assumption
    | with_reducible intro _
    | (extract_lets -underBinder +onlyGivenNames x; first | (refine good_cut (q := qq) (s := x) ?_ ?_; (on_goal 1 => subst x); (on_goal 2 => (intro _; clear_value x))) | (refine good_cutO (q := qq) (x := x) ?_ ?_; (on_goal 1 => subst x); (on_goal 2 => (intro _; clear_value x))) | (refine goodX_cut (q := qq) (x := x) ?_ ?_; (on_goal 1 => subst x); (on_goal 2 => (intro _; clear_value x))) | (refine isP (x := x) ?_; subst x) | (refine isQ (x := x) ?_; subst x) | (refine isFab (x := x) ?_; subst x) | (refine isSram (x := x) ?_; subst x) | (refine isDram (x := x) ?_; subst x) | (refine isStateFun (x := x) ?_; subst x) | (refine isStateFun2 (x := x) ?_; subst x) | (refine goodX_fun (x := x) ?_; subst x) | clear_value x | subst x)
    | with_reducible refine goodR_next ?_
    | with_reducible refine goodO_some ?_
    | with_reducible exact goodO_none
    | with_reducible refine goodX_ok ?_
    | with_reducible refine goodX_exc ?_
    | with_reducible refine goodX_wait ?_
    | with_reducible refine xlatSpan_good ?_
    | with_reducible refine noteServed_good ?_
    | with_reducible refine trainPf_good ?_
    | with_reducible refine dropParts_good ?_
    | with_reducible refine readParts_good ?_
    | with_reducible refine XR_bind_good ?_ ?_
    | with_reducible refine goodO_bind ?_ ?_
    | with_reducible refine goodEbind ?_ ?_
    | with_reducible refine goodO_of ?_ (by with_reducible assumption)
    | with_reducible refine goodP_of ?_ (by with_reducible assumption)
    | with_reducible refine goodQ_of ?_ (by with_reducible assumption)
    | with_reducible refine goodR_of ?_ (by with_reducible assumption)
    | with_reducible refine goodX_ok_of (by with_reducible assumption) ?_
    | with_reducible refine goodX_exc_of (by with_reducible assumption) ?_
    | with_reducible refine goodX_wait_of (by with_reducible assumption) ?_
    | with_reducible exact good_mk (by with_reducible assumption) rfl rfl rfl rfl rfl rfl
    | dsimp -zeta only
    | with_reducible split

theorem bufferFrom_good {qq : List Instr} {n : Fin 24} {c : Cls} {z0 : Option Nat} {z1 : List Part} {z2 : Nat} {z3 : State} (h1 : Good qq z3) :
    Good qq (bufferFrom n c z0 z1 z2 z3) := by
  induction z1 generalizing z0 z2 z3 with
  | nil => exact h1
  | cons p ps ih => exact ih (bufferStore_good h1)

theorem bufferParts_good {qq : List Instr} {n : Fin 24} {c : Cls} {ps : List Part} {data : Nat} {s : State} (h1 : Good qq s) :
    Good qq (bufferParts n c ps data s) := by
  delta bufferParts
  repeat' first
    | with_reducible assumption
    | with_reducible intro _
    | (extract_lets -underBinder +onlyGivenNames x; first | (refine good_cut (q := qq) (s := x) ?_ ?_; (on_goal 1 => subst x); (on_goal 2 => (intro _; clear_value x))) | (refine good_cutO (q := qq) (x := x) ?_ ?_; (on_goal 1 => subst x); (on_goal 2 => (intro _; clear_value x))) | (refine isP (x := x) ?_; subst x) | (refine isQ (x := x) ?_; subst x) | (refine isFab (x := x) ?_; subst x) | (refine isSram (x := x) ?_; subst x) | (refine isDram (x := x) ?_; subst x) | (refine isStateFun (x := x) ?_; subst x) | (refine isStateFun2 (x := x) ?_; subst x) | clear_value x | subst x)
    | with_reducible refine goodR_next ?_
    | with_reducible refine goodO_some ?_
    | with_reducible exact goodO_none
    | with_reducible refine bufferFrom_good ?_

theorem withRoom_good {qq : List Instr} {α : Type} {s : State} {n : Fin 24} {k : Nat} {env : MemEnv} {f : State → XR α} (h1 : Good qq s) (h2 : ∀ a0, Good qq a0 → GoodX qq (f a0)) :
    GoodX qq (withRoom s n k env f) := by
  delta withRoom
  repeat' first
    | with_reducible assumption
    | with_reducible intro _
    | (extract_lets -underBinder +onlyGivenNames x; first | (refine good_cut (q := qq) (s := x) ?_ ?_; (on_goal 1 => subst x); (on_goal 2 => (intro _; clear_value x))) | (refine good_cutO (q := qq) (x := x) ?_ ?_; (on_goal 1 => subst x); (on_goal 2 => (intro _; clear_value x))) | (refine goodE_cut (q := qq) (x := x) ?_ ?_; (on_goal 1 => subst x); (on_goal 2 => (intro _; clear_value x))) | (refine goodX_cut (q := qq) (x := x) ?_ ?_; (on_goal 1 => subst x); (on_goal 2 => (intro _; clear_value x))) | (refine isP (x := x) ?_; subst x) | (refine isQ (x := x) ?_; subst x) | (refine isFab (x := x) ?_; subst x) | (refine isSram (x := x) ?_; subst x) | (refine isDram (x := x) ?_; subst x) | (refine isStateFun (x := x) ?_; subst x) | (refine isStateFun2 (x := x) ?_; subst x) | (refine goodE_fun (x := x) ?_; subst x) | (refine goodX_fun (x := x) ?_; subst x) | clear_value x | subst x)
    | with_reducible refine h2 _ ?_
    | with_reducible refine goodR_next ?_
    | with_reducible refine goodO_some ?_
    | with_reducible exact goodO_none
    | with_reducible refine goodE_ok ?_
    | with_reducible refine goodE_error ?_
    | with_reducible refine goodX_ok ?_
    | with_reducible refine goodX_exc ?_
    | with_reducible refine goodX_wait ?_
    | with_reducible refine roomFor_good ?_
    | with_reducible refine goodO_of ?_ (by with_reducible assumption)
    | with_reducible refine goodP_of ?_ (by with_reducible assumption)
    | with_reducible refine goodQ_of ?_ (by with_reducible assumption)
    | with_reducible refine goodR_of ?_ (by with_reducible assumption)
    | with_reducible refine goodE_ok_of (by with_reducible assumption) ?_
    | with_reducible refine goodE_error_of (by with_reducible assumption) ?_
    | with_reducible refine goodX_ok_of (by with_reducible assumption) ?_
    | with_reducible refine goodX_exc_of (by with_reducible assumption) ?_
    | with_reducible refine goodX_wait_of (by with_reducible assumption) ?_
    | with_reducible exact good_mk (by with_reducible assumption) rfl rfl rfl rfl rfl rfl
    | dsimp -zeta only
    | with_reducible split

theorem storeAt_good {qq : List Instr} {s : State} {n : Fin 24} {ea : Nat} {len : Nat} {data : Nat} {env : MemEnv} (h1 : Good qq s) :
    GoodX qq (storeAt s n ea len data env) := by
  delta storeAt
  repeat' first
    | with_reducible assumption
    | with_reducible intro _
    | (extract_lets -underBinder +onlyGivenNames x; first | (refine good_cut (q := qq) (s := x) ?_ ?_; (on_goal 1 => subst x); (on_goal 2 => (intro _; clear_value x))) | (refine good_cutO (q := qq) (x := x) ?_ ?_; (on_goal 1 => subst x); (on_goal 2 => (intro _; clear_value x))) | (refine goodX_cut (q := qq) (x := x) ?_ ?_; (on_goal 1 => subst x); (on_goal 2 => (intro _; clear_value x))) | (refine isP (x := x) ?_; subst x) | (refine isQ (x := x) ?_; subst x) | (refine isFab (x := x) ?_; subst x) | (refine isSram (x := x) ?_; subst x) | (refine isDram (x := x) ?_; subst x) | (refine isStateFun (x := x) ?_; subst x) | (refine isStateFun2 (x := x) ?_; subst x) | (refine goodX_fun (x := x) ?_; subst x) | clear_value x | subst x)
    | with_reducible refine goodR_next ?_
    | with_reducible refine goodO_some ?_
    | with_reducible exact goodO_none
    | with_reducible refine goodX_ok ?_
    | with_reducible refine goodX_exc ?_
    | with_reducible refine goodX_wait ?_
    | with_reducible refine xlatSpan_good ?_
    | with_reducible refine withRoom_good ?_ ?_
    | with_reducible refine trainPf_good ?_
    | with_reducible refine bufferParts_good ?_
    | with_reducible refine XR_bind_good ?_ ?_
    | with_reducible refine goodO_bind ?_ ?_
    | with_reducible refine goodEbind ?_ ?_
    | with_reducible refine goodO_of ?_ (by with_reducible assumption)
    | with_reducible refine goodP_of ?_ (by with_reducible assumption)
    | with_reducible refine goodQ_of ?_ (by with_reducible assumption)
    | with_reducible refine goodR_of ?_ (by with_reducible assumption)
    | with_reducible refine goodX_ok_of (by with_reducible assumption) ?_
    | with_reducible refine goodX_exc_of (by with_reducible assumption) ?_
    | with_reducible refine goodX_wait_of (by with_reducible assumption) ?_
    | with_reducible exact good_mk (by with_reducible assumption) rfl rfl rfl rfl rfl rfl
    | dsimp -zeta only
    | with_reducible split

theorem ofXR_good {qq : List Instr} {α : Type} {x : XR α} {f : State → α → IRes} (h1 : GoodX qq (x)) (h2 : ∀ a0 a1, Good qq a0 → GoodI qq (f a0 a1)) :
    GoodI qq (ofXR x f) := by
  delta ofXR
  repeat' first
    | with_reducible assumption
    | with_reducible intro _
    | (extract_lets -underBinder +onlyGivenNames x; first | (refine good_cut (q := qq) (s := x) ?_ ?_; (on_goal 1 => subst x); (on_goal 2 => (intro _; clear_value x))) | (refine good_cutO (q := qq) (x := x) ?_ ?_; (on_goal 1 => subst x); (on_goal 2 => (intro _; clear_value x))) | (refine goodI_cut (q := qq) (x := x) ?_ ?_; (on_goal 1 => subst x); (on_goal 2 => (intro _; clear_value x))) | (refine goodX_cut (q := qq) (x := x) ?_ ?_; (on_goal 1 => subst x); (on_goal 2 => (intro _; clear_value x))) | (refine isP (x := x) ?_; subst x) | (refine isQ (x := x) ?_; subst x) | (refine isFab (x := x) ?_; subst x) | (refine isSram (x := x) ?_; subst x) | (refine isDram (x := x) ?_; subst x) | (refine isStateFun (x := x) ?_; subst x) | (refine isStateFun2 (x := x) ?_; subst x) | (refine goodI_fun (x := x) ?_; subst x) | (refine goodX_fun (x := x) ?_; subst x) | clear_value x | subst x)
    | with_reducible refine h2 _ _ ?_
    | with_reducible refine goodR_next ?_
    | with_reducible refine goodO_some ?_
    | with_reducible exact goodO_none
    | with_reducible refine goodI_done ?_
    | with_reducible refine goodI_exc ?_
    | with_reducible refine goodI_call ?_
    | with_reducible refine goodI_reenter ?_
    | with_reducible refine goodI_stall ?_
    | with_reducible refine goodX_ok ?_
    | with_reducible refine goodX_exc ?_
    | with_reducible refine goodX_wait ?_
    | with_reducible refine goodO_of ?_ (by with_reducible assumption)
    | with_reducible refine goodP_of ?_ (by with_reducible assumption)
    | with_reducible refine goodQ_of ?_ (by with_reducible assumption)
    | with_reducible refine goodR_of ?_ (by with_reducible assumption)
    | with_reducible refine goodI_done_of (by with_reducible assumption) ?_
    | with_reducible refine goodI_exc_of (by with_reducible assumption) ?_
    | with_reducible refine goodI_call_of (by with_reducible assumption) ?_
    | with_reducible refine goodI_reenter_of (by with_reducible assumption) ?_
    | with_reducible refine goodI_stall_of (by with_reducible assumption) ?_
    | with_reducible refine goodX_ok_of (by with_reducible assumption) ?_
    | with_reducible refine goodX_exc_of (by with_reducible assumption) ?_
    | with_reducible refine goodX_wait_of (by with_reducible assumption) ?_
    | with_reducible exact goodX_ok_inv (by with_reducible assumption)
    | with_reducible exact goodX_exc_inv (by with_reducible assumption)
    | with_reducible exact goodX_wait_inv (by with_reducible assumption)
    | with_reducible exact good_mk (by with_reducible assumption) rfl rfl rfl rfl rfl rfl
    | dsimp -zeta only
    | with_reducible split

theorem wLoad_good {qq : List Instr} {n : Fin 24} {a : Fin 32} {imm : BitVec 16} {len : Nat} {env : MemEnv} {f : Front} {fin : State → Nat → State} {z0 : State} (h1 : ∀ a0 a1, Good qq a0 → Good qq (fin a0 a1)) (h2 : Good qq z0) :
    GoodR qq (wLoad n a imm len env f fin z0) := by
  delta wLoad
  repeat' first
    | with_reducible assumption
    | with_reducible intro _
    | (extract_lets -underBinder +onlyGivenNames x; first | (refine good_cut (q := qq) (s := x) ?_ ?_; (on_goal 1 => subst x); (on_goal 2 => (intro _; clear_value x))) | (refine good_cutO (q := qq) (x := x) ?_ ?_; (on_goal 1 => subst x); (on_goal 2 => (intro _; clear_value x))) | (refine goodI_cut (q := qq) (x := x) ?_ ?_; (on_goal 1 => subst x); (on_goal 2 => (intro _; clear_value x))) | (refine goodX_cut (q := qq) (x := x) ?_ ?_; (on_goal 1 => subst x); (on_goal 2 => (intro _; clear_value x))) | (refine isP (x := x) ?_; subst x) | (refine isQ (x := x) ?_; subst x) | (refine isFab (x := x) ?_; subst x) | (refine isSram (x := x) ?_; subst x) | (refine isDram (x := x) ?_; subst x) | (refine isStateFun (x := x) ?_; subst x) | (refine isStateFun2 (x := x) ?_; subst x) | (refine goodI_fun (x := x) ?_; subst x) | (refine goodX_fun (x := x) ?_; subst x) | clear_value x | subst x)
    | with_reducible refine h1 _ _ ?_
    | with_reducible refine goodR_next ?_
    | with_reducible refine goodO_some ?_
    | with_reducible exact goodO_none
    | with_reducible refine goodI_done ?_
    | with_reducible refine goodI_exc ?_
    | with_reducible refine goodI_call ?_
    | with_reducible refine goodI_reenter ?_
    | with_reducible refine goodI_stall ?_
    | with_reducible refine goodX_ok ?_
    | with_reducible refine goodX_exc ?_
    | with_reducible refine goodX_wait ?_
    | with_reducible refine wInstr_good ?_ ?_
    | with_reducible refine ofXR_good ?_ ?_
    | with_reducible refine loadAt_good ?_

theorem wStore_good {qq : List Instr} {n : Fin 24} {a : Fin 32} {imm : BitVec 16} {len : Nat} {env : MemEnv} {f : Front} {data : State → Nat} {z0 : State} (h1 : Good qq z0) :
    GoodR qq (wStore n a imm len env f data z0) := by
  delta wStore
  repeat' first
    | with_reducible assumption
    | with_reducible intro _
    | (extract_lets -underBinder +onlyGivenNames x; first | (refine good_cut (q := qq) (s := x) ?_ ?_; (on_goal 1 => subst x); (on_goal 2 => (intro _; clear_value x))) | (refine good_cutO (q := qq) (x := x) ?_ ?_; (on_goal 1 => subst x); (on_goal 2 => (intro _; clear_value x))) | (refine goodI_cut (q := qq) (x := x) ?_ ?_; (on_goal 1 => subst x); (on_goal 2 => (intro _; clear_value x))) | (refine goodX_cut (q := qq) (x := x) ?_ ?_; (on_goal 1 => subst x); (on_goal 2 => (intro _; clear_value x))) | (refine isP (x := x) ?_; subst x) | (refine isQ (x := x) ?_; subst x) | (refine isFab (x := x) ?_; subst x) | (refine isSram (x := x) ?_; subst x) | (refine isDram (x := x) ?_; subst x) | (refine isStateFun (x := x) ?_; subst x) | (refine isStateFun2 (x := x) ?_; subst x) | (refine goodI_fun (x := x) ?_; subst x) | (refine goodX_fun (x := x) ?_; subst x) | clear_value x | subst x)
    | with_reducible refine goodR_next ?_
    | with_reducible refine goodO_some ?_
    | with_reducible exact goodO_none
    | with_reducible refine goodI_done ?_
    | with_reducible refine goodI_exc ?_
    | with_reducible refine goodI_call ?_
    | with_reducible refine goodI_reenter ?_
    | with_reducible refine goodI_stall ?_
    | with_reducible refine goodX_ok ?_
    | with_reducible refine goodX_exc ?_
    | with_reducible refine goodX_wait ?_
    | with_reducible refine wInstr_good ?_ ?_
    | with_reducible refine ofXR_good ?_ ?_
    | with_reducible refine storeAt_good ?_

theorem execWLb_good {qq : List Instr} {n : Fin 24} {d : Fin 32} {a : Fin 32} {imm : BitVec 16} {env : MemEnv} {f : Front} {z0 : State} (h1 : Good qq z0) :
    GoodR qq (execWLb n d a imm env f z0) := by
  delta execWLb
  repeat' first
    | with_reducible assumption
    | with_reducible intro _
    | (extract_lets -underBinder +onlyGivenNames x; first | (refine good_cut (q := qq) (s := x) ?_ ?_; (on_goal 1 => subst x); (on_goal 2 => (intro _; clear_value x))) | (refine good_cutO (q := qq) (x := x) ?_ ?_; (on_goal 1 => subst x); (on_goal 2 => (intro _; clear_value x))) | (refine isP (x := x) ?_; subst x) | (refine isQ (x := x) ?_; subst x) | (refine isFab (x := x) ?_; subst x) | (refine isSram (x := x) ?_; subst x) | (refine isDram (x := x) ?_; subst x) | (refine isStateFun (x := x) ?_; subst x) | (refine isStateFun2 (x := x) ?_; subst x) | clear_value x | subst x)
    | with_reducible refine goodR_next ?_
    | with_reducible refine goodO_some ?_
    | with_reducible exact goodO_none
    | with_reducible refine wLoad_good ?_ ?_
    | with_reducible refine setW_good ?_

theorem execWLh_good {qq : List Instr} {n : Fin 24} {d : Fin 32} {a : Fin 32} {imm : BitVec 16} {env : MemEnv} {f : Front} {z0 : State} (h1 : Good qq z0) :
    GoodR qq (execWLh n d a imm env f z0) := by
  delta execWLh
  repeat' first
    | with_reducible assumption
    | with_reducible intro _
    | (extract_lets -underBinder +onlyGivenNames x; first | (refine good_cut (q := qq) (s := x) ?_ ?_; (on_goal 1 => subst x); (on_goal 2 => (intro _; clear_value x))) | (refine good_cutO (q := qq) (x := x) ?_ ?_; (on_goal 1 => subst x); (on_goal 2 => (intro _; clear_value x))) | (refine isP (x := x) ?_; subst x) | (refine isQ (x := x) ?_; subst x) | (refine isFab (x := x) ?_; subst x) | (refine isSram (x := x) ?_; subst x) | (refine isDram (x := x) ?_; subst x) | (refine isStateFun (x := x) ?_; subst x) | (refine isStateFun2 (x := x) ?_; subst x) | clear_value x | subst x)
    | with_reducible refine goodR_next ?_
    | with_reducible refine goodO_some ?_
    | with_reducible exact goodO_none
    | with_reducible refine wLoad_good ?_ ?_
    | with_reducible refine setW_good ?_

theorem execWLw_good {qq : List Instr} {n : Fin 24} {d : Fin 32} {a : Fin 32} {imm : BitVec 16} {env : MemEnv} {f : Front} {z0 : State} (h1 : Good qq z0) :
    GoodR qq (execWLw n d a imm env f z0) := by
  delta execWLw
  repeat' first
    | with_reducible assumption
    | with_reducible intro _
    | (extract_lets -underBinder +onlyGivenNames x; first | (refine good_cut (q := qq) (s := x) ?_ ?_; (on_goal 1 => subst x); (on_goal 2 => (intro _; clear_value x))) | (refine good_cutO (q := qq) (x := x) ?_ ?_; (on_goal 1 => subst x); (on_goal 2 => (intro _; clear_value x))) | (refine isP (x := x) ?_; subst x) | (refine isQ (x := x) ?_; subst x) | (refine isFab (x := x) ?_; subst x) | (refine isSram (x := x) ?_; subst x) | (refine isDram (x := x) ?_; subst x) | (refine isStateFun (x := x) ?_; subst x) | (refine isStateFun2 (x := x) ?_; subst x) | clear_value x | subst x)
    | with_reducible refine goodR_next ?_
    | with_reducible refine goodO_some ?_
    | with_reducible exact goodO_none
    | with_reducible refine wLoad_good ?_ ?_
    | with_reducible refine setW_good ?_

theorem execWLd_good {qq : List Instr} {n : Fin 24} {d : Fin 32} {a : Fin 32} {imm : BitVec 16} {env : MemEnv} {f : Front} {z0 : State} (h1 : Good qq z0) :
    GoodR qq (execWLd n d a imm env f z0) := by
  delta execWLd
  repeat' first
    | with_reducible assumption
    | with_reducible intro _
    | (extract_lets -underBinder +onlyGivenNames x; first | (refine good_cut (q := qq) (s := x) ?_ ?_; (on_goal 1 => subst x); (on_goal 2 => (intro _; clear_value x))) | (refine good_cutO (q := qq) (x := x) ?_ ?_; (on_goal 1 => subst x); (on_goal 2 => (intro _; clear_value x))) | (refine isP (x := x) ?_; subst x) | (refine isQ (x := x) ?_; subst x) | (refine isFab (x := x) ?_; subst x) | (refine isSram (x := x) ?_; subst x) | (refine isDram (x := x) ?_; subst x) | (refine isStateFun (x := x) ?_; subst x) | (refine isStateFun2 (x := x) ?_; subst x) | clear_value x | subst x)
    | with_reducible refine goodR_next ?_
    | with_reducible refine goodO_some ?_
    | with_reducible exact goodO_none
    | with_reducible refine wLoad_good ?_ ?_
    | with_reducible refine setW_good ?_

theorem execWLbu_good {qq : List Instr} {n : Fin 24} {d : Fin 32} {a : Fin 32} {imm : BitVec 16} {env : MemEnv} {f : Front} {z0 : State} (h1 : Good qq z0) :
    GoodR qq (execWLbu n d a imm env f z0) := by
  delta execWLbu
  repeat' first
    | with_reducible assumption
    | with_reducible intro _
    | (extract_lets -underBinder +onlyGivenNames x; first | (refine good_cut (q := qq) (s := x) ?_ ?_; (on_goal 1 => subst x); (on_goal 2 => (intro _; clear_value x))) | (refine good_cutO (q := qq) (x := x) ?_ ?_; (on_goal 1 => subst x); (on_goal 2 => (intro _; clear_value x))) | (refine isP (x := x) ?_; subst x) | (refine isQ (x := x) ?_; subst x) | (refine isFab (x := x) ?_; subst x) | (refine isSram (x := x) ?_; subst x) | (refine isDram (x := x) ?_; subst x) | (refine isStateFun (x := x) ?_; subst x) | (refine isStateFun2 (x := x) ?_; subst x) | clear_value x | subst x)
    | with_reducible refine goodR_next ?_
    | with_reducible refine goodO_some ?_
    | with_reducible exact goodO_none
    | with_reducible refine wLoad_good ?_ ?_
    | with_reducible refine setW_good ?_

theorem execWLhu_good {qq : List Instr} {n : Fin 24} {d : Fin 32} {a : Fin 32} {imm : BitVec 16} {env : MemEnv} {f : Front} {z0 : State} (h1 : Good qq z0) :
    GoodR qq (execWLhu n d a imm env f z0) := by
  delta execWLhu
  repeat' first
    | with_reducible assumption
    | with_reducible intro _
    | (extract_lets -underBinder +onlyGivenNames x; first | (refine good_cut (q := qq) (s := x) ?_ ?_; (on_goal 1 => subst x); (on_goal 2 => (intro _; clear_value x))) | (refine good_cutO (q := qq) (x := x) ?_ ?_; (on_goal 1 => subst x); (on_goal 2 => (intro _; clear_value x))) | (refine isP (x := x) ?_; subst x) | (refine isQ (x := x) ?_; subst x) | (refine isFab (x := x) ?_; subst x) | (refine isSram (x := x) ?_; subst x) | (refine isDram (x := x) ?_; subst x) | (refine isStateFun (x := x) ?_; subst x) | (refine isStateFun2 (x := x) ?_; subst x) | clear_value x | subst x)
    | with_reducible refine goodR_next ?_
    | with_reducible refine goodO_some ?_
    | with_reducible exact goodO_none
    | with_reducible refine wLoad_good ?_ ?_
    | with_reducible refine setW_good ?_

theorem execWLwu_good {qq : List Instr} {n : Fin 24} {d : Fin 32} {a : Fin 32} {imm : BitVec 16} {env : MemEnv} {f : Front} {z0 : State} (h1 : Good qq z0) :
    GoodR qq (execWLwu n d a imm env f z0) := by
  delta execWLwu
  repeat' first
    | with_reducible assumption
    | with_reducible intro _
    | (extract_lets -underBinder +onlyGivenNames x; first | (refine good_cut (q := qq) (s := x) ?_ ?_; (on_goal 1 => subst x); (on_goal 2 => (intro _; clear_value x))) | (refine good_cutO (q := qq) (x := x) ?_ ?_; (on_goal 1 => subst x); (on_goal 2 => (intro _; clear_value x))) | (refine isP (x := x) ?_; subst x) | (refine isQ (x := x) ?_; subst x) | (refine isFab (x := x) ?_; subst x) | (refine isSram (x := x) ?_; subst x) | (refine isDram (x := x) ?_; subst x) | (refine isStateFun (x := x) ?_; subst x) | (refine isStateFun2 (x := x) ?_; subst x) | clear_value x | subst x)
    | with_reducible refine goodR_next ?_
    | with_reducible refine goodO_some ?_
    | with_reducible exact goodO_none
    | with_reducible refine wLoad_good ?_ ?_
    | with_reducible refine setW_good ?_

theorem execWFlw_good {qq : List Instr} {n : Fin 24} {d : Fin 32} {a : Fin 32} {imm : BitVec 16} {env : MemEnv} {f : Front} {z0 : State} (h1 : Good qq z0) :
    GoodR qq (execWFlw n d a imm env f z0) := by
  delta execWFlw
  repeat' first
    | with_reducible assumption
    | with_reducible intro _
    | (extract_lets -underBinder +onlyGivenNames x; first | (refine good_cut (q := qq) (s := x) ?_ ?_; (on_goal 1 => subst x); (on_goal 2 => (intro _; clear_value x))) | (refine good_cutO (q := qq) (x := x) ?_ ?_; (on_goal 1 => subst x); (on_goal 2 => (intro _; clear_value x))) | (refine isP (x := x) ?_; subst x) | (refine isQ (x := x) ?_; subst x) | (refine isFab (x := x) ?_; subst x) | (refine isSram (x := x) ?_; subst x) | (refine isDram (x := x) ?_; subst x) | (refine isStateFun (x := x) ?_; subst x) | (refine isStateFun2 (x := x) ?_; subst x) | clear_value x | subst x)
    | with_reducible refine goodR_next ?_
    | with_reducible refine goodO_some ?_
    | with_reducible exact goodO_none
    | with_reducible refine wLoad_good ?_ ?_
    | with_reducible refine setFr_good ?_

theorem execWFld_good {qq : List Instr} {n : Fin 24} {d : Fin 32} {a : Fin 32} {imm : BitVec 16} {env : MemEnv} {f : Front} {z0 : State} (h1 : Good qq z0) :
    GoodR qq (execWFld n d a imm env f z0) := by
  delta execWFld
  repeat' first
    | with_reducible assumption
    | with_reducible intro _
    | (extract_lets -underBinder +onlyGivenNames x; first | (refine good_cut (q := qq) (s := x) ?_ ?_; (on_goal 1 => subst x); (on_goal 2 => (intro _; clear_value x))) | (refine good_cutO (q := qq) (x := x) ?_ ?_; (on_goal 1 => subst x); (on_goal 2 => (intro _; clear_value x))) | (refine isP (x := x) ?_; subst x) | (refine isQ (x := x) ?_; subst x) | (refine isFab (x := x) ?_; subst x) | (refine isSram (x := x) ?_; subst x) | (refine isDram (x := x) ?_; subst x) | (refine isStateFun (x := x) ?_; subst x) | (refine isStateFun2 (x := x) ?_; subst x) | clear_value x | subst x)
    | with_reducible refine goodR_next ?_
    | with_reducible refine goodO_some ?_
    | with_reducible exact goodO_none
    | with_reducible refine wLoad_good ?_ ?_
    | with_reducible refine setFr_good ?_

theorem execWSb_good {qq : List Instr} {n : Fin 24} {d : Fin 32} {a : Fin 32} {imm : BitVec 16} {env : MemEnv} {f : Front} {z0 : State} (h1 : Good qq z0) :
    GoodR qq (execWSb n d a imm env f z0) := by
  delta execWSb
  repeat' first
    | with_reducible assumption
    | with_reducible intro _
    | (extract_lets -underBinder +onlyGivenNames x; first | (refine good_cut (q := qq) (s := x) ?_ ?_; (on_goal 1 => subst x); (on_goal 2 => (intro _; clear_value x))) | (refine good_cutO (q := qq) (x := x) ?_ ?_; (on_goal 1 => subst x); (on_goal 2 => (intro _; clear_value x))) | (refine isP (x := x) ?_; subst x) | (refine isQ (x := x) ?_; subst x) | (refine isFab (x := x) ?_; subst x) | (refine isSram (x := x) ?_; subst x) | (refine isDram (x := x) ?_; subst x) | (refine isStateFun (x := x) ?_; subst x) | (refine isStateFun2 (x := x) ?_; subst x) | clear_value x | subst x)
    | with_reducible refine goodR_next ?_
    | with_reducible refine goodO_some ?_
    | with_reducible exact goodO_none
    | with_reducible refine wStore_good ?_

theorem execWSh_good {qq : List Instr} {n : Fin 24} {d : Fin 32} {a : Fin 32} {imm : BitVec 16} {env : MemEnv} {f : Front} {z0 : State} (h1 : Good qq z0) :
    GoodR qq (execWSh n d a imm env f z0) := by
  delta execWSh
  repeat' first
    | with_reducible assumption
    | with_reducible intro _
    | (extract_lets -underBinder +onlyGivenNames x; first | (refine good_cut (q := qq) (s := x) ?_ ?_; (on_goal 1 => subst x); (on_goal 2 => (intro _; clear_value x))) | (refine good_cutO (q := qq) (x := x) ?_ ?_; (on_goal 1 => subst x); (on_goal 2 => (intro _; clear_value x))) | (refine isP (x := x) ?_; subst x) | (refine isQ (x := x) ?_; subst x) | (refine isFab (x := x) ?_; subst x) | (refine isSram (x := x) ?_; subst x) | (refine isDram (x := x) ?_; subst x) | (refine isStateFun (x := x) ?_; subst x) | (refine isStateFun2 (x := x) ?_; subst x) | clear_value x | subst x)
    | with_reducible refine goodR_next ?_
    | with_reducible refine goodO_some ?_
    | with_reducible exact goodO_none
    | with_reducible refine wStore_good ?_

theorem execWSw_good {qq : List Instr} {n : Fin 24} {d : Fin 32} {a : Fin 32} {imm : BitVec 16} {env : MemEnv} {f : Front} {z0 : State} (h1 : Good qq z0) :
    GoodR qq (execWSw n d a imm env f z0) := by
  delta execWSw
  repeat' first
    | with_reducible assumption
    | with_reducible intro _
    | (extract_lets -underBinder +onlyGivenNames x; first | (refine good_cut (q := qq) (s := x) ?_ ?_; (on_goal 1 => subst x); (on_goal 2 => (intro _; clear_value x))) | (refine good_cutO (q := qq) (x := x) ?_ ?_; (on_goal 1 => subst x); (on_goal 2 => (intro _; clear_value x))) | (refine isP (x := x) ?_; subst x) | (refine isQ (x := x) ?_; subst x) | (refine isFab (x := x) ?_; subst x) | (refine isSram (x := x) ?_; subst x) | (refine isDram (x := x) ?_; subst x) | (refine isStateFun (x := x) ?_; subst x) | (refine isStateFun2 (x := x) ?_; subst x) | clear_value x | subst x)
    | with_reducible refine goodR_next ?_
    | with_reducible refine goodO_some ?_
    | with_reducible exact goodO_none
    | with_reducible refine wStore_good ?_

theorem execWSd_good {qq : List Instr} {n : Fin 24} {d : Fin 32} {a : Fin 32} {imm : BitVec 16} {env : MemEnv} {f : Front} {z0 : State} (h1 : Good qq z0) :
    GoodR qq (execWSd n d a imm env f z0) := by
  delta execWSd
  repeat' first
    | with_reducible assumption
    | with_reducible intro _
    | (extract_lets -underBinder +onlyGivenNames x; first | (refine good_cut (q := qq) (s := x) ?_ ?_; (on_goal 1 => subst x); (on_goal 2 => (intro _; clear_value x))) | (refine good_cutO (q := qq) (x := x) ?_ ?_; (on_goal 1 => subst x); (on_goal 2 => (intro _; clear_value x))) | (refine isP (x := x) ?_; subst x) | (refine isQ (x := x) ?_; subst x) | (refine isFab (x := x) ?_; subst x) | (refine isSram (x := x) ?_; subst x) | (refine isDram (x := x) ?_; subst x) | (refine isStateFun (x := x) ?_; subst x) | (refine isStateFun2 (x := x) ?_; subst x) | clear_value x | subst x)
    | with_reducible refine goodR_next ?_
    | with_reducible refine goodO_some ?_
    | with_reducible exact goodO_none
    | with_reducible refine wStore_good ?_

theorem execWFsw_good {qq : List Instr} {n : Fin 24} {d : Fin 32} {a : Fin 32} {imm : BitVec 16} {env : MemEnv} {f : Front} {z0 : State} (h1 : Good qq z0) :
    GoodR qq (execWFsw n d a imm env f z0) := by
  delta execWFsw
  repeat' first
    | with_reducible assumption
    | with_reducible intro _
    | (extract_lets -underBinder +onlyGivenNames x; first | (refine good_cut (q := qq) (s := x) ?_ ?_; (on_goal 1 => subst x); (on_goal 2 => (intro _; clear_value x))) | (refine good_cutO (q := qq) (x := x) ?_ ?_; (on_goal 1 => subst x); (on_goal 2 => (intro _; clear_value x))) | (refine isP (x := x) ?_; subst x) | (refine isQ (x := x) ?_; subst x) | (refine isFab (x := x) ?_; subst x) | (refine isSram (x := x) ?_; subst x) | (refine isDram (x := x) ?_; subst x) | (refine isStateFun (x := x) ?_; subst x) | (refine isStateFun2 (x := x) ?_; subst x) | clear_value x | subst x)
    | with_reducible refine goodR_next ?_
    | with_reducible refine goodO_some ?_
    | with_reducible exact goodO_none
    | with_reducible refine wStore_good ?_

theorem execWFsd_good {qq : List Instr} {n : Fin 24} {d : Fin 32} {a : Fin 32} {imm : BitVec 16} {env : MemEnv} {f : Front} {z0 : State} (h1 : Good qq z0) :
    GoodR qq (execWFsd n d a imm env f z0) := by
  delta execWFsd
  repeat' first
    | with_reducible assumption
    | with_reducible intro _
    | (extract_lets -underBinder +onlyGivenNames x; first | (refine good_cut (q := qq) (s := x) ?_ ?_; (on_goal 1 => subst x); (on_goal 2 => (intro _; clear_value x))) | (refine good_cutO (q := qq) (x := x) ?_ ?_; (on_goal 1 => subst x); (on_goal 2 => (intro _; clear_value x))) | (refine isP (x := x) ?_; subst x) | (refine isQ (x := x) ?_; subst x) | (refine isFab (x := x) ?_; subst x) | (refine isSram (x := x) ?_; subst x) | (refine isDram (x := x) ?_; subst x) | (refine isStateFun (x := x) ?_; subst x) | (refine isStateFun2 (x := x) ?_; subst x) | clear_value x | subst x)
    | with_reducible refine goodR_next ?_
    | with_reducible refine goodO_some ?_
    | with_reducible exact goodO_none
    | with_reducible refine wStore_good ?_

theorem atomOrder_good {qq : List Instr} {s : State} {n : Fin 24} {aq : Bool} {la : Nat} (h1 : Good qq s) :
    Good qq (atomOrder s n aq la) := by
  delta atomOrder
  repeat' first
    | with_reducible assumption
    | with_reducible intro _
    | (extract_lets -underBinder +onlyGivenNames x; first | (refine good_cut (q := qq) (s := x) ?_ ?_; (on_goal 1 => subst x); (on_goal 2 => (intro _; clear_value x))) | (refine good_cutO (q := qq) (x := x) ?_ ?_; (on_goal 1 => subst x); (on_goal 2 => (intro _; clear_value x))) | (refine isP (x := x) ?_; subst x) | (refine isQ (x := x) ?_; subst x) | (refine isFab (x := x) ?_; subst x) | (refine isSram (x := x) ?_; subst x) | (refine isDram (x := x) ?_; subst x) | (refine isStateFun (x := x) ?_; subst x) | (refine isStateFun2 (x := x) ?_; subst x) | clear_value x | subst x)
    | with_reducible refine goodR_next ?_
    | with_reducible refine goodO_some ?_
    | with_reducible exact goodO_none
    | with_reducible refine clearEarly_good ?_
    | with_reducible refine dropEarly_good ?_
    | with_reducible refine goodO_of ?_ (by with_reducible assumption)
    | with_reducible refine goodP_of ?_ (by with_reducible assumption)
    | with_reducible refine goodQ_of ?_ (by with_reducible assumption)
    | with_reducible refine goodR_of ?_ (by with_reducible assumption)
    | with_reducible exact good_mk (by with_reducible assumption) rfl rfl rfl rfl rfl rfl
    | dsimp -zeta only
    | with_reducible split

theorem wAtomic_good {qq : List Instr} {n : Fin 24} {a : Fin 32} {size : Nat} {aq : Bool} {rl : Bool} {env : MemEnv} {f : Front} {op : State → L2Line → Nat → Nat → State} {skip : State → Nat → Option State} {z0 : State} (h1 : ∀ a0 a1 a2 a3, Good qq a0 → Good qq (op a0 a1 a2 a3)) (h2 : ∀ a0 a1, Good qq a0 → GoodO qq (skip a0 a1)) (h3 : Good qq z0) :
    GoodR qq (wAtomic n a size aq rl env f op skip z0) := by
  delta wAtomic
  repeat' first
    | with_reducible assumption
    | with_reducible intro _
    | (extract_lets -underBinder +onlyGivenNames x; first | (refine good_cut (q := qq) (s := x) ?_ ?_; (on_goal 1 => subst x); (on_goal 2 => (intro _; clear_value x))) | (refine good_cutO (q := qq) (x := x) ?_ ?_; (on_goal 1 => subst x); (on_goal 2 => (intro _; clear_value x))) | (refine goodE_cut (q := qq) (x := x) ?_ ?_; (on_goal 1 => subst x); (on_goal 2 => (intro _; clear_value x))) | (refine goodG_cut (q := qq) (x := x) ?_ ?_; (on_goal 1 => subst x); (on_goal 2 => (intro _; clear_value x))) | (refine goodI_cut (q := qq) (x := x) ?_ ?_; (on_goal 1 => subst x); (on_goal 2 => (intro _; clear_value x))) | (refine goodX_cut (q := qq) (x := x) ?_ ?_; (on_goal 1 => subst x); (on_goal 2 => (intro _; clear_value x))) | (refine isP (x := x) ?_; subst x) | (refine isQ (x := x) ?_; subst x) | (refine isFab (x := x) ?_; subst x) | (refine isSram (x := x) ?_; subst x) | (refine isDram (x := x) ?_; subst x) | (refine isStateFun (x := x) ?_; subst x) | (refine isStateFun2 (x := x) ?_; subst x) | (refine goodE_fun (x := x) ?_; subst x) | (refine goodG_fun (x := x) ?_; subst x) | (refine goodI_fun (x := x) ?_; subst x) | (refine goodX_fun (x := x) ?_; subst x) | clear_value x | subst x)
    | with_reducible refine h1 _ _ _ _ ?_
    | with_reducible refine h2 _ _ ?_
    | with_reducible refine goodR_next ?_
    | with_reducible refine goodO_some ?_
    | with_reducible exact goodO_none
    | with_reducible refine goodOP_some ?_
    | with_reducible exact goodOP_none
    | with_reducible refine goodOQ_some ?_
    | with_reducible exact goodOQ_none
    | with_reducible refine goodE_ok ?_
    | with_reducible refine goodE_error ?_
    | with_reducible refine goodG_ok ?_
    | with_reducible refine goodG_err ?_
    | with_reducible refine goodG_wait ?_
    | with_reducible refine goodI_done ?_
    | with_reducible refine goodI_exc ?_
    | with_reducible refine goodI_call ?_
    | with_reducible refine goodI_reenter ?_
    | with_reducible refine goodI_stall ?_
    | with_reducible refine goodX_ok ?_
    | with_reducible refine goodX_exc ?_
    | with_reducible refine goodX_wait ?_
    | with_reducible refine wInstr_good ?_ ?_
    | with_reducible refine ofXR_good ?_ ?_
    | with_reducible refine xlatNoted_good ?_
    | with_reducible refine clearEarly_good ?_
    | with_reducible refine drainWhere_good ?_
    | with_reducible refine commitWhere_good ?_
    | with_reducible refine obtain_good ?_
    | with_reducible refine atomOrder_good ?_
    | with_reducible refine trainPf_good ?_
    | with_reducible refine goodO_of ?_ (by with_reducible assumption)
    | with_reducible refine goodP_of ?_ (by with_reducible assumption)
    | with_reducible refine goodQ_of ?_ (by with_reducible assumption)
    | with_reducible refine goodR_of ?_ (by with_reducible assumption)
    | with_reducible refine goodE_ok_of (by with_reducible assumption) ?_
    | with_reducible refine goodE_error_of (by with_reducible assumption) ?_
    | with_reducible refine goodG_ok_of (by with_reducible assumption) ?_
    | with_reducible refine goodG_err_of (by with_reducible assumption) ?_
    | with_reducible refine goodG_ok_ofP (by with_reducible assumption) ?_
    | with_reducible refine goodG_err_ofP (by with_reducible assumption) ?_
    | with_reducible refine goodG_wait_of (by with_reducible assumption) ?_
    | with_reducible refine goodG_wait_ofP (by with_reducible assumption) ?_
    | with_reducible refine goodI_done_of (by with_reducible assumption) ?_
    | with_reducible refine goodI_exc_of (by with_reducible assumption) ?_
    | with_reducible refine goodI_call_of (by with_reducible assumption) ?_
    | with_reducible refine goodI_reenter_of (by with_reducible assumption) ?_
    | with_reducible refine goodI_stall_of (by with_reducible assumption) ?_
    | with_reducible refine goodX_ok_of (by with_reducible assumption) ?_
    | with_reducible refine goodX_exc_of (by with_reducible assumption) ?_
    | with_reducible refine goodX_wait_of (by with_reducible assumption) ?_
    | with_reducible exact good_mk (by with_reducible assumption) rfl rfl rfl rfl rfl rfl
    | dsimp -zeta only
    | with_reducible split

theorem atomPut_good {qq : List Instr} {s : State} {n : Fin 24} {y : L2Line} {pa : Nat} {size : Nat} {v : Nat} (h1 : Good qq s) :
    Good qq (atomPut s n y pa size v) := by
  delta atomPut
  repeat' first
    | with_reducible assumption
    | with_reducible intro _
    | (extract_lets -underBinder +onlyGivenNames x; first | (refine good_cut (q := qq) (s := x) ?_ ?_; (on_goal 1 => subst x); (on_goal 2 => (intro _; clear_value x))) | (refine good_cutO (q := qq) (x := x) ?_ ?_; (on_goal 1 => subst x); (on_goal 2 => (intro _; clear_value x))) | (refine isP (x := x) ?_; subst x) | (refine isQ (x := x) ?_; subst x) | (refine isFab (x := x) ?_; subst x) | (refine isSram (x := x) ?_; subst x) | (refine isDram (x := x) ?_; subst x) | (refine isStateFun (x := x) ?_; subst x) | (refine isStateFun2 (x := x) ?_; subst x) | clear_value x | subst x)
    | with_reducible refine goodR_next ?_
    | with_reducible refine goodO_some ?_
    | with_reducible exact goodO_none
    | with_reducible refine writeL2_good ?_

theorem wAmo_good {qq : List Instr} {g : Nat → Nat → Nat → Nat} {n : Fin 24} {d : Fin 32} {a : Fin 32} {b : Fin 32} {w64 : Bool} {aq : Bool} {rl : Bool} {env : MemEnv} {f : Front} {z0 : State} (h1 : Good qq z0) :
    GoodR qq (wAmo g n d a b w64 aq rl env f z0) := by
  delta wAmo
  repeat' first
    | with_reducible assumption
    | with_reducible intro _
    | (extract_lets -underBinder +onlyGivenNames x; first | (refine good_cut (q := qq) (s := x) ?_ ?_; (on_goal 1 => subst x); (on_goal 2 => (intro _; clear_value x))) | (refine good_cutO (q := qq) (x := x) ?_ ?_; (on_goal 1 => subst x); (on_goal 2 => (intro _; clear_value x))) | (refine isP (x := x) ?_; subst x) | (refine isQ (x := x) ?_; subst x) | (refine isFab (x := x) ?_; subst x) | (refine isSram (x := x) ?_; subst x) | (refine isDram (x := x) ?_; subst x) | (refine isStateFun (x := x) ?_; subst x) | (refine isStateFun2 (x := x) ?_; subst x) | clear_value x | subst x)
    | with_reducible refine goodR_next ?_
    | with_reducible refine goodO_some ?_
    | with_reducible exact goodO_none
    | with_reducible refine wAtomic_good ?_ ?_ ?_
    | with_reducible refine setW_good ?_
    | with_reducible refine atomPut_good ?_

theorem execWLl_good {qq : List Instr} {n : Fin 24} {d : Fin 32} {a : Fin 32} {w64 : Bool} {aq : Bool} {rl : Bool} {env : MemEnv} {f : Front} {z0 : State} (h1 : Good qq z0) :
    GoodR qq (execWLl n d a w64 aq rl env f z0) := by
  delta execWLl
  repeat' first
    | with_reducible assumption
    | with_reducible intro _
    | (extract_lets -underBinder +onlyGivenNames x; first | (refine good_cut (q := qq) (s := x) ?_ ?_; (on_goal 1 => subst x); (on_goal 2 => (intro _; clear_value x))) | (refine good_cutO (q := qq) (x := x) ?_ ?_; (on_goal 1 => subst x); (on_goal 2 => (intro _; clear_value x))) | (refine isP (x := x) ?_; subst x) | (refine isQ (x := x) ?_; subst x) | (refine isFab (x := x) ?_; subst x) | (refine isSram (x := x) ?_; subst x) | (refine isDram (x := x) ?_; subst x) | (refine isStateFun (x := x) ?_; subst x) | (refine isStateFun2 (x := x) ?_; subst x) | clear_value x | subst x)
    | with_reducible refine goodR_next ?_
    | with_reducible refine goodO_some ?_
    | with_reducible exact goodO_none
    | with_reducible refine wAtomic_good ?_ ?_ ?_
    | with_reducible refine setW_good ?_
    | with_reducible refine updCore_good ?_

theorem execWSc_good {qq : List Instr} {n : Fin 24} {d : Fin 32} {a : Fin 32} {b : Fin 32} {w64 : Bool} {aq : Bool} {rl : Bool} {env : MemEnv} {f : Front} {z0 : State} (h1 : Good qq z0) :
    GoodR qq (execWSc n d a b w64 aq rl env f z0) := by
  delta execWSc
  repeat' first
    | with_reducible assumption
    | with_reducible intro _
    | (extract_lets -underBinder +onlyGivenNames x; first | (refine good_cut (q := qq) (s := x) ?_ ?_; (on_goal 1 => subst x); (on_goal 2 => (intro _; clear_value x))) | (refine good_cutO (q := qq) (x := x) ?_ ?_; (on_goal 1 => subst x); (on_goal 2 => (intro _; clear_value x))) | (refine isP (x := x) ?_; subst x) | (refine isQ (x := x) ?_; subst x) | (refine isFab (x := x) ?_; subst x) | (refine isSram (x := x) ?_; subst x) | (refine isDram (x := x) ?_; subst x) | (refine isStateFun (x := x) ?_; subst x) | (refine isStateFun2 (x := x) ?_; subst x) | clear_value x | subst x)
    | with_reducible refine goodR_next ?_
    | with_reducible refine goodO_some ?_
    | with_reducible exact goodO_none
    | with_reducible refine wAtomic_good ?_ ?_ ?_
    | with_reducible refine setW_good ?_
    | with_reducible refine updCore_good ?_
    | with_reducible refine atomPut_good ?_
    | with_reducible refine goodO_of ?_ (by with_reducible assumption)
    | with_reducible refine goodP_of ?_ (by with_reducible assumption)
    | with_reducible refine goodQ_of ?_ (by with_reducible assumption)
    | with_reducible refine goodR_of ?_ (by with_reducible assumption)
    | with_reducible refine goodOP_of ?_ (by with_reducible assumption)
    | with_reducible refine goodOQ_of ?_ (by with_reducible assumption)
    | with_reducible exact good_mk (by with_reducible assumption) rfl rfl rfl rfl rfl rfl
    | dsimp -zeta only
    | with_reducible split

theorem execWSwap_good {qq : List Instr} {n : Fin 24} {d : Fin 32} {a : Fin 32} {b : Fin 32} {w64 : Bool} {aq : Bool} {rl : Bool} {env : MemEnv} {f : Front} {z0 : State} (h1 : Good qq z0) :
    GoodR qq (execWSwap n d a b w64 aq rl env f z0) := by
  delta execWSwap
  repeat' first
    | with_reducible assumption
    | with_reducible intro _
    | (extract_lets -underBinder +onlyGivenNames x; first | (refine good_cut (q := qq) (s := x) ?_ ?_; (on_goal 1 => subst x); (on_goal 2 => (intro _; clear_value x))) | (refine good_cutO (q := qq) (x := x) ?_ ?_; (on_goal 1 => subst x); (on_goal 2 => (intro _; clear_value x))) | (refine isP (x := x) ?_; subst x) | (refine isQ (x := x) ?_; subst x) | (refine isFab (x := x) ?_; subst x) | (refine isSram (x := x) ?_; subst x) | (refine isDram (x := x) ?_; subst x) | (refine isStateFun (x := x) ?_; subst x) | (refine isStateFun2 (x := x) ?_; subst x) | clear_value x | subst x)
    | with_reducible refine goodR_next ?_
    | with_reducible refine goodO_some ?_
    | with_reducible exact goodO_none
    | with_reducible refine wAmo_good ?_

theorem execWAmoadd_good {qq : List Instr} {n : Fin 24} {d : Fin 32} {a : Fin 32} {b : Fin 32} {w64 : Bool} {aq : Bool} {rl : Bool} {env : MemEnv} {f : Front} {z0 : State} (h1 : Good qq z0) :
    GoodR qq (execWAmoadd n d a b w64 aq rl env f z0) := by
  delta execWAmoadd
  repeat' first
    | with_reducible assumption
    | with_reducible intro _
    | (extract_lets -underBinder +onlyGivenNames x; first | (refine good_cut (q := qq) (s := x) ?_ ?_; (on_goal 1 => subst x); (on_goal 2 => (intro _; clear_value x))) | (refine good_cutO (q := qq) (x := x) ?_ ?_; (on_goal 1 => subst x); (on_goal 2 => (intro _; clear_value x))) | (refine isP (x := x) ?_; subst x) | (refine isQ (x := x) ?_; subst x) | (refine isFab (x := x) ?_; subst x) | (refine isSram (x := x) ?_; subst x) | (refine isDram (x := x) ?_; subst x) | (refine isStateFun (x := x) ?_; subst x) | (refine isStateFun2 (x := x) ?_; subst x) | clear_value x | subst x)
    | with_reducible refine goodR_next ?_
    | with_reducible refine goodO_some ?_
    | with_reducible exact goodO_none
    | with_reducible refine wAmo_good ?_

theorem execWAmoand_good {qq : List Instr} {n : Fin 24} {d : Fin 32} {a : Fin 32} {b : Fin 32} {w64 : Bool} {aq : Bool} {rl : Bool} {env : MemEnv} {f : Front} {z0 : State} (h1 : Good qq z0) :
    GoodR qq (execWAmoand n d a b w64 aq rl env f z0) := by
  delta execWAmoand
  repeat' first
    | with_reducible assumption
    | with_reducible intro _
    | (extract_lets -underBinder +onlyGivenNames x; first | (refine good_cut (q := qq) (s := x) ?_ ?_; (on_goal 1 => subst x); (on_goal 2 => (intro _; clear_value x))) | (refine good_cutO (q := qq) (x := x) ?_ ?_; (on_goal 1 => subst x); (on_goal 2 => (intro _; clear_value x))) | (refine isP (x := x) ?_; subst x) | (refine isQ (x := x) ?_; subst x) | (refine isFab (x := x) ?_; subst x) | (refine isSram (x := x) ?_; subst x) | (refine isDram (x := x) ?_; subst x) | (refine isStateFun (x := x) ?_; subst x) | (refine isStateFun2 (x := x) ?_; subst x) | clear_value x | subst x)
    | with_reducible refine goodR_next ?_
    | with_reducible refine goodO_some ?_
    | with_reducible exact goodO_none
    | with_reducible refine wAmo_good ?_

theorem execWAmoor_good {qq : List Instr} {n : Fin 24} {d : Fin 32} {a : Fin 32} {b : Fin 32} {w64 : Bool} {aq : Bool} {rl : Bool} {env : MemEnv} {f : Front} {z0 : State} (h1 : Good qq z0) :
    GoodR qq (execWAmoor n d a b w64 aq rl env f z0) := by
  delta execWAmoor
  repeat' first
    | with_reducible assumption
    | with_reducible intro _
    | (extract_lets -underBinder +onlyGivenNames x; first | (refine good_cut (q := qq) (s := x) ?_ ?_; (on_goal 1 => subst x); (on_goal 2 => (intro _; clear_value x))) | (refine good_cutO (q := qq) (x := x) ?_ ?_; (on_goal 1 => subst x); (on_goal 2 => (intro _; clear_value x))) | (refine isP (x := x) ?_; subst x) | (refine isQ (x := x) ?_; subst x) | (refine isFab (x := x) ?_; subst x) | (refine isSram (x := x) ?_; subst x) | (refine isDram (x := x) ?_; subst x) | (refine isStateFun (x := x) ?_; subst x) | (refine isStateFun2 (x := x) ?_; subst x) | clear_value x | subst x)
    | with_reducible refine goodR_next ?_
    | with_reducible refine goodO_some ?_
    | with_reducible exact goodO_none
    | with_reducible refine wAmo_good ?_

theorem execWAmomax_good {qq : List Instr} {n : Fin 24} {d : Fin 32} {a : Fin 32} {b : Fin 32} {w64 : Bool} {aq : Bool} {rl : Bool} {env : MemEnv} {f : Front} {z0 : State} (h1 : Good qq z0) :
    GoodR qq (execWAmomax n d a b w64 aq rl env f z0) := by
  delta execWAmomax
  repeat' first
    | with_reducible assumption
    | with_reducible intro _
    | (extract_lets -underBinder +onlyGivenNames x; first | (refine good_cut (q := qq) (s := x) ?_ ?_; (on_goal 1 => subst x); (on_goal 2 => (intro _; clear_value x))) | (refine good_cutO (q := qq) (x := x) ?_ ?_; (on_goal 1 => subst x); (on_goal 2 => (intro _; clear_value x))) | (refine isP (x := x) ?_; subst x) | (refine isQ (x := x) ?_; subst x) | (refine isFab (x := x) ?_; subst x) | (refine isSram (x := x) ?_; subst x) | (refine isDram (x := x) ?_; subst x) | (refine isStateFun (x := x) ?_; subst x) | (refine isStateFun2 (x := x) ?_; subst x) | clear_value x | subst x)
    | with_reducible refine goodR_next ?_
    | with_reducible refine goodO_some ?_
    | with_reducible exact goodO_none
    | with_reducible refine wAmo_good ?_

theorem execWAmomin_good {qq : List Instr} {n : Fin 24} {d : Fin 32} {a : Fin 32} {b : Fin 32} {w64 : Bool} {aq : Bool} {rl : Bool} {env : MemEnv} {f : Front} {z0 : State} (h1 : Good qq z0) :
    GoodR qq (execWAmomin n d a b w64 aq rl env f z0) := by
  delta execWAmomin
  repeat' first
    | with_reducible assumption
    | with_reducible intro _
    | (extract_lets -underBinder +onlyGivenNames x; first | (refine good_cut (q := qq) (s := x) ?_ ?_; (on_goal 1 => subst x); (on_goal 2 => (intro _; clear_value x))) | (refine good_cutO (q := qq) (x := x) ?_ ?_; (on_goal 1 => subst x); (on_goal 2 => (intro _; clear_value x))) | (refine isP (x := x) ?_; subst x) | (refine isQ (x := x) ?_; subst x) | (refine isFab (x := x) ?_; subst x) | (refine isSram (x := x) ?_; subst x) | (refine isDram (x := x) ?_; subst x) | (refine isStateFun (x := x) ?_; subst x) | (refine isStateFun2 (x := x) ?_; subst x) | clear_value x | subst x)
    | with_reducible refine goodR_next ?_
    | with_reducible refine goodO_some ?_
    | with_reducible exact goodO_none
    | with_reducible refine wAmo_good ?_

theorem execWAmomaxu_good {qq : List Instr} {n : Fin 24} {d : Fin 32} {a : Fin 32} {b : Fin 32} {w64 : Bool} {aq : Bool} {rl : Bool} {env : MemEnv} {f : Front} {z0 : State} (h1 : Good qq z0) :
    GoodR qq (execWAmomaxu n d a b w64 aq rl env f z0) := by
  delta execWAmomaxu
  repeat' first
    | with_reducible assumption
    | with_reducible intro _
    | (extract_lets -underBinder +onlyGivenNames x; first | (refine good_cut (q := qq) (s := x) ?_ ?_; (on_goal 1 => subst x); (on_goal 2 => (intro _; clear_value x))) | (refine good_cutO (q := qq) (x := x) ?_ ?_; (on_goal 1 => subst x); (on_goal 2 => (intro _; clear_value x))) | (refine isP (x := x) ?_; subst x) | (refine isQ (x := x) ?_; subst x) | (refine isFab (x := x) ?_; subst x) | (refine isSram (x := x) ?_; subst x) | (refine isDram (x := x) ?_; subst x) | (refine isStateFun (x := x) ?_; subst x) | (refine isStateFun2 (x := x) ?_; subst x) | clear_value x | subst x)
    | with_reducible refine goodR_next ?_
    | with_reducible refine goodO_some ?_
    | with_reducible exact goodO_none
    | with_reducible refine wAmo_good ?_

theorem execWAmominu_good {qq : List Instr} {n : Fin 24} {d : Fin 32} {a : Fin 32} {b : Fin 32} {w64 : Bool} {aq : Bool} {rl : Bool} {env : MemEnv} {f : Front} {z0 : State} (h1 : Good qq z0) :
    GoodR qq (execWAmominu n d a b w64 aq rl env f z0) := by
  delta execWAmominu
  repeat' first
    | with_reducible assumption
    | with_reducible intro _
    | (extract_lets -underBinder +onlyGivenNames x; first | (refine good_cut (q := qq) (s := x) ?_ ?_; (on_goal 1 => subst x); (on_goal 2 => (intro _; clear_value x))) | (refine good_cutO (q := qq) (x := x) ?_ ?_; (on_goal 1 => subst x); (on_goal 2 => (intro _; clear_value x))) | (refine isP (x := x) ?_; subst x) | (refine isQ (x := x) ?_; subst x) | (refine isFab (x := x) ?_; subst x) | (refine isSram (x := x) ?_; subst x) | (refine isDram (x := x) ?_; subst x) | (refine isStateFun (x := x) ?_; subst x) | (refine isStateFun2 (x := x) ?_; subst x) | clear_value x | subst x)
    | with_reducible refine goodR_next ?_
    | with_reducible refine goodO_some ?_
    | with_reducible exact goodO_none
    | with_reducible refine wAmo_good ?_

theorem wPack_good {qq : List Instr} {pack : Bool} {n : Fin 24} {a : Fin 32} {b : Fin 32} {env : MemEnv} {f : Front} {z0 : State} (h1 : Good qq z0) :
    GoodR qq (wPack pack n a b env f z0) := by
  delta wPack
  repeat' first
    | with_reducible assumption
    | with_reducible intro _
    | (extract_lets -underBinder +onlyGivenNames x; first | (refine good_cut (q := qq) (s := x) ?_ ?_; (on_goal 1 => subst x); (on_goal 2 => (intro _; clear_value x))) | (refine good_cutO (q := qq) (x := x) ?_ ?_; (on_goal 1 => subst x); (on_goal 2 => (intro _; clear_value x))) | (refine goodI_cut (q := qq) (x := x) ?_ ?_; (on_goal 1 => subst x); (on_goal 2 => (intro _; clear_value x))) | (refine goodX_cut (q := qq) (x := x) ?_ ?_; (on_goal 1 => subst x); (on_goal 2 => (intro _; clear_value x))) | (refine isP (x := x) ?_; subst x) | (refine isQ (x := x) ?_; subst x) | (refine isFab (x := x) ?_; subst x) | (refine isSram (x := x) ?_; subst x) | (refine isDram (x := x) ?_; subst x) | (refine isStateFun (x := x) ?_; subst x) | (refine isStateFun2 (x := x) ?_; subst x) | (refine goodI_fun (x := x) ?_; subst x) | (refine goodX_fun (x := x) ?_; subst x) | clear_value x | subst x)
    | with_reducible refine goodR_next ?_
    | with_reducible refine goodO_some ?_
    | with_reducible exact goodO_none
    | with_reducible refine goodI_done ?_
    | with_reducible refine goodI_exc ?_
    | with_reducible refine goodI_call ?_
    | with_reducible refine goodI_reenter ?_
    | with_reducible refine goodI_stall ?_
    | with_reducible refine goodX_ok ?_
    | with_reducible refine goodX_exc ?_
    | with_reducible refine goodX_wait ?_
    | with_reducible refine wInstr_good ?_ ?_
    | with_reducible refine ofXR_good ?_ ?_
    | with_reducible refine xlatSpan_good ?_
    | with_reducible refine noteServed_good ?_
    | with_reducible refine withRoom_good ?_ ?_
    | with_reducible refine readParts_good ?_
    | with_reducible refine trainPf_good ?_
    | with_reducible refine bufferParts_good ?_
    | with_reducible refine dropParts_good ?_
    | with_reducible refine XR_bind_good ?_ ?_
    | with_reducible refine goodO_bind ?_ ?_
    | with_reducible refine goodEbind ?_ ?_
    | with_reducible refine goodO_of ?_ (by with_reducible assumption)
    | with_reducible refine goodP_of ?_ (by with_reducible assumption)
    | with_reducible refine goodQ_of ?_ (by with_reducible assumption)
    | with_reducible refine goodR_of ?_ (by with_reducible assumption)
    | with_reducible refine goodI_done_of (by with_reducible assumption) ?_
    | with_reducible refine goodI_exc_of (by with_reducible assumption) ?_
    | with_reducible refine goodI_call_of (by with_reducible assumption) ?_
    | with_reducible refine goodI_reenter_of (by with_reducible assumption) ?_
    | with_reducible refine goodI_stall_of (by with_reducible assumption) ?_
    | with_reducible refine goodX_ok_of (by with_reducible assumption) ?_
    | with_reducible refine goodX_exc_of (by with_reducible assumption) ?_
    | with_reducible refine goodX_wait_of (by with_reducible assumption) ?_
    | with_reducible exact good_mk (by with_reducible assumption) rfl rfl rfl rfl rfl rfl
    | dsimp -zeta only
    | with_reducible split

theorem execWPack7_good {qq : List Instr} {n : Fin 24} {a : Fin 32} {b : Fin 32} {env : MemEnv} {f : Front} {z0 : State} (h1 : Good qq z0) :
    GoodR qq (execWPack7 n a b env f z0) := by
  delta execWPack7
  repeat' first
    | with_reducible assumption
    | with_reducible intro _
    | (extract_lets -underBinder +onlyGivenNames x; first | (refine good_cut (q := qq) (s := x) ?_ ?_; (on_goal 1 => subst x); (on_goal 2 => (intro _; clear_value x))) | (refine good_cutO (q := qq) (x := x) ?_ ?_; (on_goal 1 => subst x); (on_goal 2 => (intro _; clear_value x))) | (refine isP (x := x) ?_; subst x) | (refine isQ (x := x) ?_; subst x) | (refine isFab (x := x) ?_; subst x) | (refine isSram (x := x) ?_; subst x) | (refine isDram (x := x) ?_; subst x) | (refine isStateFun (x := x) ?_; subst x) | (refine isStateFun2 (x := x) ?_; subst x) | clear_value x | subst x)
    | with_reducible refine goodR_next ?_
    | with_reducible refine goodO_some ?_
    | with_reducible exact goodO_none
    | with_reducible refine wPack_good ?_

theorem execWUnpk7_good {qq : List Instr} {n : Fin 24} {a : Fin 32} {b : Fin 32} {env : MemEnv} {f : Front} {z0 : State} (h1 : Good qq z0) :
    GoodR qq (execWUnpk7 n a b env f z0) := by
  delta execWUnpk7
  repeat' first
    | with_reducible assumption
    | with_reducible intro _
    | (extract_lets -underBinder +onlyGivenNames x; first | (refine good_cut (q := qq) (s := x) ?_ ?_; (on_goal 1 => subst x); (on_goal 2 => (intro _; clear_value x))) | (refine good_cutO (q := qq) (x := x) ?_ ?_; (on_goal 1 => subst x); (on_goal 2 => (intro _; clear_value x))) | (refine isP (x := x) ?_; subst x) | (refine isQ (x := x) ?_; subst x) | (refine isFab (x := x) ?_; subst x) | (refine isSram (x := x) ?_; subst x) | (refine isDram (x := x) ?_; subst x) | (refine isStateFun (x := x) ?_; subst x) | (refine isStateFun2 (x := x) ?_; subst x) | clear_value x | subst x)
    | with_reducible refine goodR_next ?_
    | with_reducible refine goodO_some ?_
    | with_reducible exact goodO_none
    | with_reducible refine wPack_good ?_

theorem dropL1i_good {qq : List Instr} {s : State} {la : Nat} (h1 : Good qq s) :
    Good qq (dropL1i s la) := by
  delta dropL1i
  repeat' first
    | with_reducible assumption
    | with_reducible intro _
    | (extract_lets -underBinder +onlyGivenNames x; first | (refine good_cut (q := qq) (s := x) ?_ ?_; (on_goal 1 => subst x); (on_goal 2 => (intro _; clear_value x))) | (refine good_cutO (q := qq) (x := x) ?_ ?_; (on_goal 1 => subst x); (on_goal 2 => (intro _; clear_value x))) | (refine isP (x := x) ?_; subst x) | (refine isQ (x := x) ?_; subst x) | (refine isFab (x := x) ?_; subst x) | (refine isSram (x := x) ?_; subst x) | (refine isDram (x := x) ?_; subst x) | (refine isStateFun (x := x) ?_; subst x) | (refine isStateFun2 (x := x) ?_; subst x) | clear_value x | subst x)
    | with_reducible refine goodR_next ?_
    | with_reducible refine goodO_some ?_
    | with_reducible exact goodO_none
    | with_reducible refine goodO_map ?_ ?_
    | with_reducible refine goodOP_mapP ?_ ?_
    | with_reducible refine goodOP_map ?_ ?_
    | with_reducible refine goodO_mapP ?_ ?_
    | with_reducible refine goodO_of ?_ (by with_reducible assumption)
    | with_reducible refine goodP_of ?_ (by with_reducible assumption)
    | with_reducible refine goodQ_of ?_ (by with_reducible assumption)
    | with_reducible refine goodR_of ?_ (by with_reducible assumption)
    | with_reducible exact good_mk (by with_reducible assumption) rfl rfl rfl rfl rfl rfl

theorem cacheOp_good {qq : List Instr} {s : State} {n : Fin 24} {op : Nat} {la : Nat} {env : MemEnv} (h1 : Good qq s) :
    GoodE qq (cacheOp s n op la env) := by
  delta cacheOp
  repeat' first
    | with_reducible assumption
    | with_reducible intro _
    | (extract_lets -underBinder +onlyGivenNames x; first | (refine good_cut (q := qq) (s := x) ?_ ?_; (on_goal 1 => subst x); (on_goal 2 => (intro _; clear_value x))) | (refine good_cutO (q := qq) (x := x) ?_ ?_; (on_goal 1 => subst x); (on_goal 2 => (intro _; clear_value x))) | (refine goodE_cut (q := qq) (x := x) ?_ ?_; (on_goal 1 => subst x); (on_goal 2 => (intro _; clear_value x))) | (refine isP (x := x) ?_; subst x) | (refine isQ (x := x) ?_; subst x) | (refine isFab (x := x) ?_; subst x) | (refine isSram (x := x) ?_; subst x) | (refine isDram (x := x) ?_; subst x) | (refine isStateFun (x := x) ?_; subst x) | (refine isStateFun2 (x := x) ?_; subst x) | (refine goodE_fun (x := x) ?_; subst x) | clear_value x | subst x)
    | with_reducible refine goodR_next ?_
    | with_reducible refine goodO_some ?_
    | with_reducible exact goodO_none
    | with_reducible refine goodE_ok ?_
    | with_reducible refine goodE_error ?_
    | with_reducible refine cleanLine_good ?_
    | with_reducible refine dropLineAll_good ?_
    | with_reducible refine dropL1i_good ?_
    | with_reducible refine goodO_map ?_ ?_
    | with_reducible refine goodOP_mapP ?_ ?_
    | with_reducible refine goodOP_map ?_ ?_
    | with_reducible refine goodO_mapP ?_ ?_
    | with_reducible refine goodEmap ?_ ?_
    | with_reducible refine goodEPmap ?_ ?_
    | with_reducible refine goodO_of ?_ (by with_reducible assumption)
    | with_reducible refine goodP_of ?_ (by with_reducible assumption)
    | with_reducible refine goodQ_of ?_ (by with_reducible assumption)
    | with_reducible refine goodR_of ?_ (by with_reducible assumption)
    | with_reducible refine goodE_ok_of (by with_reducible assumption) ?_
    | with_reducible refine goodE_error_of (by with_reducible assumption) ?_
    | with_reducible exact good_mk (by with_reducible assumption) rfl rfl rfl rfl rfl rfl
    | dsimp -zeta only
    | with_reducible split

theorem completeOp_good {qq : List Instr} {s : State} {n : Fin 24} {env : MemEnv} (h1 : Good qq s) :
    GoodE qq (completeOp s n env) := by
  delta completeOp
  repeat' first
    | with_reducible assumption
    | with_reducible intro _
    | (extract_lets -underBinder +onlyGivenNames x; first | (refine good_cut (q := qq) (s := x) ?_ ?_; (on_goal 1 => subst x); (on_goal 2 => (intro _; clear_value x))) | (refine good_cutO (q := qq) (x := x) ?_ ?_; (on_goal 1 => subst x); (on_goal 2 => (intro _; clear_value x))) | (refine goodE_cut (q := qq) (x := x) ?_ ?_; (on_goal 1 => subst x); (on_goal 2 => (intro _; clear_value x))) | (refine isP (x := x) ?_; subst x) | (refine isQ (x := x) ?_; subst x) | (refine isFab (x := x) ?_; subst x) | (refine isSram (x := x) ?_; subst x) | (refine isDram (x := x) ?_; subst x) | (refine isStateFun (x := x) ?_; subst x) | (refine isStateFun2 (x := x) ?_; subst x) | (refine goodE_fun (x := x) ?_; subst x) | clear_value x | subst x)
    | with_reducible refine goodR_next ?_
    | with_reducible refine goodO_some ?_
    | with_reducible exact goodO_none
    | with_reducible refine goodE_ok ?_
    | with_reducible refine goodE_error ?_
    | with_reducible refine cacheOp_good ?_
    | with_reducible refine updCore_good ?_
    | with_reducible refine goodO_map ?_ ?_
    | with_reducible refine goodOP_mapP ?_ ?_
    | with_reducible refine goodOP_map ?_ ?_
    | with_reducible refine goodO_mapP ?_ ?_
    | with_reducible refine goodEmap ?_ ?_
    | with_reducible refine goodEPmap ?_ ?_
    | with_reducible refine goodO_of ?_ (by with_reducible assumption)
    | with_reducible refine goodP_of ?_ (by with_reducible assumption)
    | with_reducible refine goodQ_of ?_ (by with_reducible assumption)
    | with_reducible refine goodR_of ?_ (by with_reducible assumption)
    | with_reducible refine goodE_ok_of (by with_reducible assumption) ?_
    | with_reducible refine goodE_error_of (by with_reducible assumption) ?_
    | with_reducible exact good_mk (by with_reducible assumption) rfl rfl rfl rfl rfl rfl
    | dsimp -zeta only
    | with_reducible split

theorem completeOps_good {qq : List Instr} {s : State} {n : Fin 24} {env : MemEnv} (h1 : Good qq s) :
    GoodE qq (completeOps s n env) := by
  delta completeOps
  repeat' first
    | with_reducible assumption
    | with_reducible intro _
    | (extract_lets -underBinder +onlyGivenNames x; first | (refine good_cut (q := qq) (s := x) ?_ ?_; (on_goal 1 => subst x); (on_goal 2 => (intro _; clear_value x))) | (refine good_cutO (q := qq) (x := x) ?_ ?_; (on_goal 1 => subst x); (on_goal 2 => (intro _; clear_value x))) | (refine goodE_cut (q := qq) (x := x) ?_ ?_; (on_goal 1 => subst x); (on_goal 2 => (intro _; clear_value x))) | (refine isP (x := x) ?_; subst x) | (refine isQ (x := x) ?_; subst x) | (refine isFab (x := x) ?_; subst x) | (refine isSram (x := x) ?_; subst x) | (refine isDram (x := x) ?_; subst x) | (refine isStateFun (x := x) ?_; subst x) | (refine isStateFun2 (x := x) ?_; subst x) | (refine goodE_fun (x := x) ?_; subst x) | clear_value x | subst x)
    | with_reducible refine goodR_next ?_
    | with_reducible refine goodO_some ?_
    | with_reducible exact goodO_none
    | with_reducible refine goodE_ok ?_
    | with_reducible refine goodE_error ?_
    | with_reducible refine completeOp_good ?_
    | with_reducible refine good_foldl ?_ ?_
    | with_reducible refine good_foldlP ?_ ?_
    | with_reducible refine goodO_foldl ?_ ?_
    | with_reducible refine goodO_bind ?_ ?_
    | with_reducible refine goodEbind ?_ ?_
    | with_reducible refine goodEfoldl ?_ ?_

theorem execCacheOpComplete_good {qq : List Instr} {n : Fin 24} {idx : Nat} {env : MemEnv} {s : State} (h1 : Good qq s) :
    GoodR qq (execCacheOpComplete n idx env s) := by
  delta execCacheOpComplete
  repeat' first
    | with_reducible assumption
    | with_reducible intro _
    | (extract_lets -underBinder +onlyGivenNames x; first | (refine good_cut (q := qq) (s := x) ?_ ?_; (on_goal 1 => subst x); (on_goal 2 => (intro _; clear_value x))) | (refine good_cutO (q := qq) (x := x) ?_ ?_; (on_goal 1 => subst x); (on_goal 2 => (intro _; clear_value x))) | (refine goodE_cut (q := qq) (x := x) ?_ ?_; (on_goal 1 => subst x); (on_goal 2 => (intro _; clear_value x))) | (refine isP (x := x) ?_; subst x) | (refine isQ (x := x) ?_; subst x) | (refine isFab (x := x) ?_; subst x) | (refine isSram (x := x) ?_; subst x) | (refine isDram (x := x) ?_; subst x) | (refine isStateFun (x := x) ?_; subst x) | (refine isStateFun2 (x := x) ?_; subst x) | (refine goodE_fun (x := x) ?_; subst x) | clear_value x | subst x)
    | with_reducible refine goodR_next ?_
    | with_reducible refine goodO_some ?_
    | with_reducible exact goodO_none
    | with_reducible refine goodE_ok ?_
    | with_reducible refine goodE_error ?_
    | with_reducible refine cacheOp_good ?_
    | with_reducible refine updCore_good ?_
    | with_reducible refine goodO_of ?_ (by with_reducible assumption)
    | with_reducible refine goodP_of ?_ (by with_reducible assumption)
    | with_reducible refine goodQ_of ?_ (by with_reducible assumption)
    | with_reducible refine goodR_of ?_ (by with_reducible assumption)
    | with_reducible refine goodOP_of ?_ (by with_reducible assumption)
    | with_reducible refine goodOQ_of ?_ (by with_reducible assumption)
    | with_reducible refine goodE_ok_of (by with_reducible assumption) ?_
    | with_reducible refine goodE_error_of (by with_reducible assumption) ?_
    | with_reducible exact good_mk (by with_reducible assumption) rfl rfl rfl rfl rfl rfl
    | dsimp -zeta only
    | with_reducible split

theorem wCacheOp_good {qq : List Instr} {op : Nat} {n : Fin 24} {a : Fin 32} {env : MemEnv} {f : Front} {z0 : State} (h1 : Good qq z0) :
    GoodR qq (wCacheOp op n a env f z0) := by
  delta wCacheOp
  repeat' first
    | with_reducible assumption
    | with_reducible intro _
    | (extract_lets -underBinder +onlyGivenNames x; first | (refine good_cut (q := qq) (s := x) ?_ ?_; (on_goal 1 => subst x); (on_goal 2 => (intro _; clear_value x))) | (refine good_cutO (q := qq) (x := x) ?_ ?_; (on_goal 1 => subst x); (on_goal 2 => (intro _; clear_value x))) | (refine goodE_cut (q := qq) (x := x) ?_ ?_; (on_goal 1 => subst x); (on_goal 2 => (intro _; clear_value x))) | (refine goodI_cut (q := qq) (x := x) ?_ ?_; (on_goal 1 => subst x); (on_goal 2 => (intro _; clear_value x))) | (refine goodX_cut (q := qq) (x := x) ?_ ?_; (on_goal 1 => subst x); (on_goal 2 => (intro _; clear_value x))) | (refine isP (x := x) ?_; subst x) | (refine isQ (x := x) ?_; subst x) | (refine isFab (x := x) ?_; subst x) | (refine isSram (x := x) ?_; subst x) | (refine isDram (x := x) ?_; subst x) | (refine isStateFun (x := x) ?_; subst x) | (refine isStateFun2 (x := x) ?_; subst x) | (refine goodE_fun (x := x) ?_; subst x) | (refine goodI_fun (x := x) ?_; subst x) | (refine goodX_fun (x := x) ?_; subst x) | clear_value x | subst x)
    | with_reducible refine goodR_next ?_
    | with_reducible refine goodO_some ?_
    | with_reducible exact goodO_none
    | with_reducible refine goodE_ok ?_
    | with_reducible refine goodE_error ?_
    | with_reducible refine goodI_done ?_
    | with_reducible refine goodI_exc ?_
    | with_reducible refine goodI_call ?_
    | with_reducible refine goodI_reenter ?_
    | with_reducible refine goodI_stall ?_
    | with_reducible refine goodX_ok ?_
    | with_reducible refine goodX_exc ?_
    | with_reducible refine goodX_wait ?_
    | with_reducible refine wInstr_good ?_ ?_
    | with_reducible refine ofXR_good ?_ ?_
    | with_reducible refine xlatNoted_good ?_
    | with_reducible refine drainWhere_good ?_
    | with_reducible refine completeOp_good ?_
    | with_reducible refine updCore_good ?_
    | with_reducible refine XR_bind_good ?_ ?_
    | with_reducible refine goodO_bind ?_ ?_
    | with_reducible refine goodEbind ?_ ?_
    | with_reducible refine goodO_of ?_ (by with_reducible assumption)
    | with_reducible refine goodP_of ?_ (by with_reducible assumption)
    | with_reducible refine goodQ_of ?_ (by with_reducible assumption)
    | with_reducible refine goodR_of ?_ (by with_reducible assumption)
    | with_reducible refine goodE_ok_of (by with_reducible assumption) ?_
    | with_reducible refine goodE_error_of (by with_reducible assumption) ?_
    | with_reducible refine goodI_done_of (by with_reducible assumption) ?_
    | with_reducible refine goodI_exc_of (by with_reducible assumption) ?_
    | with_reducible refine goodI_call_of (by with_reducible assumption) ?_
    | with_reducible refine goodI_reenter_of (by with_reducible assumption) ?_
    | with_reducible refine goodI_stall_of (by with_reducible assumption) ?_
    | with_reducible refine goodX_ok_of (by with_reducible assumption) ?_
    | with_reducible refine goodX_exc_of (by with_reducible assumption) ?_
    | with_reducible refine goodX_wait_of (by with_reducible assumption) ?_
    | with_reducible exact good_mk (by with_reducible assumption) rfl rfl rfl rfl rfl rfl
    | dsimp -zeta only
    | with_reducible split

theorem execWCleanPoc_good {qq : List Instr} {n : Fin 24} {a : Fin 32} {env : MemEnv} {f : Front} {z0 : State} (h1 : Good qq z0) :
    GoodR qq (execWCleanPoc n a env f z0) := by
  delta execWCleanPoc
  repeat' first
    | with_reducible assumption
    | with_reducible intro _
    | (extract_lets -underBinder +onlyGivenNames x; first | (refine good_cut (q := qq) (s := x) ?_ ?_; (on_goal 1 => subst x); (on_goal 2 => (intro _; clear_value x))) | (refine good_cutO (q := qq) (x := x) ?_ ?_; (on_goal 1 => subst x); (on_goal 2 => (intro _; clear_value x))) | (refine isP (x := x) ?_; subst x) | (refine isQ (x := x) ?_; subst x) | (refine isFab (x := x) ?_; subst x) | (refine isSram (x := x) ?_; subst x) | (refine isDram (x := x) ?_; subst x) | (refine isStateFun (x := x) ?_; subst x) | (refine isStateFun2 (x := x) ?_; subst x) | clear_value x | subst x)
    | with_reducible refine goodR_next ?_
    | with_reducible refine goodO_some ?_
    | with_reducible exact goodO_none
    | with_reducible refine wCacheOp_good ?_

theorem execWInvPoc_good {qq : List Instr} {n : Fin 24} {a : Fin 32} {env : MemEnv} {f : Front} {z0 : State} (h1 : Good qq z0) :
    GoodR qq (execWInvPoc n a env f z0) := by
  delta execWInvPoc
  repeat' first
    | with_reducible assumption
    | with_reducible intro _
    | (extract_lets -underBinder +onlyGivenNames x; first | (refine good_cut (q := qq) (s := x) ?_ ?_; (on_goal 1 => subst x); (on_goal 2 => (intro _; clear_value x))) | (refine good_cutO (q := qq) (x := x) ?_ ?_; (on_goal 1 => subst x); (on_goal 2 => (intro _; clear_value x))) | (refine isP (x := x) ?_; subst x) | (refine isQ (x := x) ?_; subst x) | (refine isFab (x := x) ?_; subst x) | (refine isSram (x := x) ?_; subst x) | (refine isDram (x := x) ?_; subst x) | (refine isStateFun (x := x) ?_; subst x) | (refine isStateFun2 (x := x) ?_; subst x) | clear_value x | subst x)
    | with_reducible refine goodR_next ?_
    | with_reducible refine goodO_some ?_
    | with_reducible exact goodO_none
    | with_reducible refine wCacheOp_good ?_

theorem execWCinvPoc_good {qq : List Instr} {n : Fin 24} {a : Fin 32} {env : MemEnv} {f : Front} {z0 : State} (h1 : Good qq z0) :
    GoodR qq (execWCinvPoc n a env f z0) := by
  delta execWCinvPoc
  repeat' first
    | with_reducible assumption
    | with_reducible intro _
    | (extract_lets -underBinder +onlyGivenNames x; first | (refine good_cut (q := qq) (s := x) ?_ ?_; (on_goal 1 => subst x); (on_goal 2 => (intro _; clear_value x))) | (refine good_cutO (q := qq) (x := x) ?_ ?_; (on_goal 1 => subst x); (on_goal 2 => (intro _; clear_value x))) | (refine isP (x := x) ?_; subst x) | (refine isQ (x := x) ?_; subst x) | (refine isFab (x := x) ?_; subst x) | (refine isSram (x := x) ?_; subst x) | (refine isDram (x := x) ?_; subst x) | (refine isStateFun (x := x) ?_; subst x) | (refine isStateFun2 (x := x) ?_; subst x) | clear_value x | subst x)
    | with_reducible refine goodR_next ?_
    | with_reducible refine goodO_some ?_
    | with_reducible exact goodO_none
    | with_reducible refine wCacheOp_good ?_

theorem execWCleanPou_good {qq : List Instr} {n : Fin 24} {a : Fin 32} {env : MemEnv} {f : Front} {z0 : State} (h1 : Good qq z0) :
    GoodR qq (execWCleanPou n a env f z0) := by
  delta execWCleanPou
  repeat' first
    | with_reducible assumption
    | with_reducible intro _
    | (extract_lets -underBinder +onlyGivenNames x; first | (refine good_cut (q := qq) (s := x) ?_ ?_; (on_goal 1 => subst x); (on_goal 2 => (intro _; clear_value x))) | (refine good_cutO (q := qq) (x := x) ?_ ?_; (on_goal 1 => subst x); (on_goal 2 => (intro _; clear_value x))) | (refine isP (x := x) ?_; subst x) | (refine isQ (x := x) ?_; subst x) | (refine isFab (x := x) ?_; subst x) | (refine isSram (x := x) ?_; subst x) | (refine isDram (x := x) ?_; subst x) | (refine isStateFun (x := x) ?_; subst x) | (refine isStateFun2 (x := x) ?_; subst x) | clear_value x | subst x)
    | with_reducible refine goodR_next ?_
    | with_reducible refine goodO_some ?_
    | with_reducible exact goodO_none
    | with_reducible refine wCacheOp_good ?_

theorem fenceReads_good {qq : List Instr} {s : State} {n : Fin 24} {mask : Fin 16} (h1 : Good qq s) :
    Good qq (fenceReads s n mask) := by
  delta fenceReads
  repeat' first
    | with_reducible assumption
    | with_reducible intro _
    | (extract_lets -underBinder +onlyGivenNames x; first | (refine good_cut (q := qq) (s := x) ?_ ?_; (on_goal 1 => subst x); (on_goal 2 => (intro _; clear_value x))) | (refine good_cutO (q := qq) (x := x) ?_ ?_; (on_goal 1 => subst x); (on_goal 2 => (intro _; clear_value x))) | (refine isP (x := x) ?_; subst x) | (refine isQ (x := x) ?_; subst x) | (refine isFab (x := x) ?_; subst x) | (refine isSram (x := x) ?_; subst x) | (refine isDram (x := x) ?_; subst x) | (refine isStateFun (x := x) ?_; subst x) | (refine isStateFun2 (x := x) ?_; subst x) | clear_value x | subst x)
    | with_reducible refine goodR_next ?_
    | with_reducible refine goodO_some ?_
    | with_reducible exact goodO_none
    | with_reducible refine clearEarly_good ?_
    | with_reducible refine goodO_of ?_ (by with_reducible assumption)
    | with_reducible refine goodP_of ?_ (by with_reducible assumption)
    | with_reducible refine goodQ_of ?_ (by with_reducible assumption)
    | with_reducible refine goodR_of ?_ (by with_reducible assumption)
    | with_reducible exact good_mk (by with_reducible assumption) rfl rfl rfl rfl rfl rfl
    | dsimp -zeta only
    | with_reducible split

theorem execWFence_good {qq : List Instr} {n : Fin 24} {mask : Fin 16} {env : MemEnv} {f : Front} {z0 : State} (h1 : Good qq z0) :
    GoodR qq (execWFence n mask env f z0) := by
  delta execWFence
  repeat' first
    | with_reducible assumption
    | with_reducible intro _
    | (extract_lets -underBinder +onlyGivenNames x; first | (refine good_cut (q := qq) (s := x) ?_ ?_; (on_goal 1 => subst x); (on_goal 2 => (intro _; clear_value x))) | (refine good_cutO (q := qq) (x := x) ?_ ?_; (on_goal 1 => subst x); (on_goal 2 => (intro _; clear_value x))) | (refine goodE_cut (q := qq) (x := x) ?_ ?_; (on_goal 1 => subst x); (on_goal 2 => (intro _; clear_value x))) | (refine goodI_cut (q := qq) (x := x) ?_ ?_; (on_goal 1 => subst x); (on_goal 2 => (intro _; clear_value x))) | (refine isP (x := x) ?_; subst x) | (refine isQ (x := x) ?_; subst x) | (refine isFab (x := x) ?_; subst x) | (refine isSram (x := x) ?_; subst x) | (refine isDram (x := x) ?_; subst x) | (refine isStateFun (x := x) ?_; subst x) | (refine isStateFun2 (x := x) ?_; subst x) | (refine goodE_fun (x := x) ?_; subst x) | (refine goodI_fun (x := x) ?_; subst x) | clear_value x | subst x)
    | with_reducible refine goodR_next ?_
    | with_reducible refine goodO_some ?_
    | with_reducible exact goodO_none
    | with_reducible refine goodE_ok ?_
    | with_reducible refine goodE_error ?_
    | with_reducible refine goodI_done ?_
    | with_reducible refine goodI_exc ?_
    | with_reducible refine goodI_call ?_
    | with_reducible refine goodI_reenter ?_
    | with_reducible refine goodI_stall ?_
    | with_reducible refine wInstr_good ?_ ?_
    | with_reducible refine drainWhere_good ?_
    | with_reducible refine completeOps_good ?_
    | with_reducible refine fenceReads_good ?_
    | with_reducible refine goodO_bind ?_ ?_
    | with_reducible refine goodEbind ?_ ?_
    | with_reducible refine goodO_of ?_ (by with_reducible assumption)
    | with_reducible refine goodP_of ?_ (by with_reducible assumption)
    | with_reducible refine goodQ_of ?_ (by with_reducible assumption)
    | with_reducible refine goodR_of ?_ (by with_reducible assumption)
    | with_reducible refine goodE_ok_of (by with_reducible assumption) ?_
    | with_reducible refine goodE_error_of (by with_reducible assumption) ?_
    | with_reducible refine goodI_done_of (by with_reducible assumption) ?_
    | with_reducible refine goodI_exc_of (by with_reducible assumption) ?_
    | with_reducible refine goodI_call_of (by with_reducible assumption) ?_
    | with_reducible refine goodI_reenter_of (by with_reducible assumption) ?_
    | with_reducible refine goodI_stall_of (by with_reducible assumption) ?_
    | with_reducible exact good_mk (by with_reducible assumption) rfl rfl rfl rfl rfl rfl
    | dsimp -zeta only
    | with_reducible split

theorem execWIsync_good {qq : List Instr} {n : Fin 24} {env : MemEnv} {f : Front} {z0 : State} (h1 : Good qq z0) :
    GoodR qq (execWIsync n env f z0) := by
  delta execWIsync
  repeat' first
    | with_reducible assumption
    | with_reducible intro _
    | (extract_lets -underBinder +onlyGivenNames x; first | (refine good_cut (q := qq) (s := x) ?_ ?_; (on_goal 1 => subst x); (on_goal 2 => (intro _; clear_value x))) | (refine good_cutO (q := qq) (x := x) ?_ ?_; (on_goal 1 => subst x); (on_goal 2 => (intro _; clear_value x))) | (refine goodE_cut (q := qq) (x := x) ?_ ?_; (on_goal 1 => subst x); (on_goal 2 => (intro _; clear_value x))) | (refine goodI_cut (q := qq) (x := x) ?_ ?_; (on_goal 1 => subst x); (on_goal 2 => (intro _; clear_value x))) | (refine isP (x := x) ?_; subst x) | (refine isQ (x := x) ?_; subst x) | (refine isFab (x := x) ?_; subst x) | (refine isSram (x := x) ?_; subst x) | (refine isDram (x := x) ?_; subst x) | (refine isStateFun (x := x) ?_; subst x) | (refine isStateFun2 (x := x) ?_; subst x) | (refine goodE_fun (x := x) ?_; subst x) | (refine goodI_fun (x := x) ?_; subst x) | clear_value x | subst x)
    | with_reducible refine goodR_next ?_
    | with_reducible refine goodO_some ?_
    | with_reducible exact goodO_none
    | with_reducible refine goodE_ok ?_
    | with_reducible refine goodE_error ?_
    | with_reducible refine goodI_done ?_
    | with_reducible refine goodI_exc ?_
    | with_reducible refine goodI_call ?_
    | with_reducible refine goodI_reenter ?_
    | with_reducible refine goodI_stall ?_
    | with_reducible refine wInstr_good ?_ ?_
    | with_reducible refine completeOps_good ?_
    | with_reducible refine clearEarly_good ?_
    | with_reducible refine goodO_of ?_ (by with_reducible assumption)
    | with_reducible refine goodP_of ?_ (by with_reducible assumption)
    | with_reducible refine goodQ_of ?_ (by with_reducible assumption)
    | with_reducible refine goodR_of ?_ (by with_reducible assumption)
    | with_reducible refine goodE_ok_of (by with_reducible assumption) ?_
    | with_reducible refine goodE_error_of (by with_reducible assumption) ?_
    | with_reducible refine goodI_done_of (by with_reducible assumption) ?_
    | with_reducible refine goodI_exc_of (by with_reducible assumption) ?_
    | with_reducible refine goodI_call_of (by with_reducible assumption) ?_
    | with_reducible refine goodI_reenter_of (by with_reducible assumption) ?_
    | with_reducible refine goodI_stall_of (by with_reducible assumption) ?_
    | with_reducible exact good_mk (by with_reducible assumption) rfl rfl rfl rfl rfl rfl
    | dsimp -zeta only
    | with_reducible split

end Sys2Proof.Machine
end

