-- ==== Sys2Proof/Laws/State.lean ====
section
/-!
SUPPORT. Laws/State.lean: what each update of the state leaves as it was, field by field, and what reads back: registers of a page,
the record of a core, of an engine, of a thread and of the other units.
-/

namespace Sys2Proof.Machine


/-! ## wr -/

@[simp] theorem wr_pending (s : State) (p : Page) (off : Nat) (v : Reg32) : (wr s p off v).pending = s.pending := rfl
@[simp] theorem wr_freeCtr (s : State) (p : Page) (off : Nat) (v : Reg32) : (wr s p off v).freeCtr = s.freeCtr := rfl
@[simp] theorem wr_dt (s : State) (p : Page) (off : Nat) (v : Reg32) : (wr s p off v).dt = s.dt := rfl
@[simp] theorem wr_clsGrant (s : State) (p : Page) (off : Nat) (v : Reg32) : (wr s p off v).clsGrant = s.clsGrant := rfl
@[simp] theorem wr_fab (s : State) (p : Page) (off : Nat) (v : Reg32) : (wr s p off v).fab = s.fab := rfl
@[simp] theorem wr_ic (s : State) (p : Page) (off : Nat) (v : Reg32) : (wr s p off v).ic = s.ic := rfl
@[simp] theorem wr_yoyos (s : State) (p : Page) (off : Nat) (v : Reg32) : (wr s p off v).yoyos = s.yoyos := rfl
@[simp] theorem wr_dtOff (s : State) (p : Page) (off : Nat) (v : Reg32) : (wr s p off v).dtOff = s.dtOff := rfl
@[simp] theorem wr_twins (s : State) (p : Page) (off : Nat) (v : Reg32) : (wr s p off v).twins = s.twins := rfl
@[simp] theorem wr_xfifos (s : State) (p : Page) (off : Nat) (v : Reg32) : (wr s p off v).xfifos = s.xfifos := rfl
@[simp] theorem wr_resets (s : State) (p : Page) (off : Nat) (v : Reg32) : (wr s p off v).resets = s.resets := rfl
@[simp] theorem wr_faultQ (s : State) (p : Page) (off : Nat) (v : Reg32) : (wr s p off v).faultQ = s.faultQ := rfl
@[simp] theorem wr_faultLog (s : State) (p : Page) (off : Nat) (v : Reg32) : (wr s p off v).faultLog = s.faultLog := rfl
@[simp] theorem wr_wdogs (s : State) (p : Page) (off : Nat) (v : Reg32) : (wr s p off v).wdogs = s.wdogs := rfl
@[simp] theorem wr_doms (s : State) (p : Page) (off : Nat) (v : Reg32) : (wr s p off v).doms = s.doms := rfl
@[simp] theorem wr_cores (s : State) (p : Page) (off : Nat) (v : Reg32) : (wr s p off v).cores = s.cores := rfl
@[simp] theorem wr_l2s (s : State) (p : Page) (off : Nat) (v : Reg32) : (wr s p off v).l2s = s.l2s := rfl
@[simp] theorem wr_sc (s : State) (p : Page) (off : Nat) (v : Reg32) : (wr s p off v).sc = s.sc := rfl
@[simp] theorem wr_dram (s : State) (p : Page) (off : Nat) (v : Reg32) : (wr s p off v).dram = s.dram := rfl
@[simp] theorem wr_sram (s : State) (p : Page) (off : Nat) (v : Reg32) : (wr s p off v).sram = s.sram := rfl
@[simp] theorem wr_epoch (s : State) (p : Page) (off : Nat) (v : Reg32) : (wr s p off v).epoch = s.epoch := rfl
@[simp] theorem wr_engEpoch (s : State) (p : Page) (off : Nat) (v : Reg32) : (wr s p off v).engEpoch = s.engEpoch := rfl
@[simp] theorem wr_eeprom (s : State) (p : Page) (off : Nat) (v : Reg32) : (wr s p off v).eeprom = s.eeprom := rfl
@[simp] theorem wr_calib (s : State) (p : Page) (off : Nat) (v : Reg32) : (wr s p off v).calib = s.calib := rfl
@[simp] theorem wr_sage (s : State) (p : Page) (off : Nat) (v : Reg32) : (wr s p off v).sage = s.sage := rfl
@[simp] theorem wr_engines (s : State) (p : Page) (off : Nat) (v : Reg32) : (wr s p off v).engines = s.engines := rfl
@[simp] theorem wr_clusters (s : State) (p : Page) (off : Nat) (v : Reg32) : (wr s p off v).clusters = s.clusters := rfl
@[simp] theorem wr_movers (s : State) (p : Page) (off : Nat) (v : Reg32) : (wr s p off v).movers = s.movers := rfl
@[simp] theorem wr_cells (s : State) (p : Page) (off : Nat) (v : Reg32) : (wr s p off v).cells = s.cells := rfl
@[simp] theorem wr_tyl (s : State) (p : Page) (off : Nat) (v : Reg32) : (wr s p off v).tyl = s.tyl := rfl
@[simp] theorem wr_synt (s : State) (p : Page) (off : Nat) (v : Reg32) : (wr s p off v).synt = s.synt := rfl
@[simp] theorem wr_macs (s : State) (p : Page) (off : Nat) (v : Reg32) : (wr s p off v).macs = s.macs := rfl
@[simp] theorem wr_strms (s : State) (p : Page) (off : Nat) (v : Reg32) : (wr s p off v).strms = s.strms := rfl
@[simp] theorem wr_pcies (s : State) (p : Page) (off : Nat) (v : Reg32) : (wr s p off v).pcies = s.pcies := rfl
@[simp] theorem wr_pwr (s : State) (p : Page) (off : Nat) (v : Reg32) : (wr s p off v).pwr = s.pwr := rfl
@[simp] theorem wr_mari (s : State) (p : Page) (off : Nat) (v : Reg32) : (wr s p off v).mari = s.mari := rfl
@[simp] theorem wr_wakeL (s : State) (p : Page) (off : Nat) (v : Reg32) : (wr s p off v).wakeL = s.wakeL := rfl
@[simp] theorem wr_jtag (s : State) (p : Page) (off : Nat) (v : Reg32) : (wr s p off v).jtag = s.jtag := rfl
@[simp] theorem wr_bist (s : State) (p : Page) (off : Nat) (v : Reg32) : (wr s p off v).bist = s.bist := rfl
@[simp] theorem wr_verdict (s : State) (p : Page) (off : Nat) (v : Reg32) : (wr s p off v).verdict = s.verdict := rfl
@[simp] theorem wr_lanePll (s : State) (p : Page) (off : Nat) (v : Reg32) : (wr s p off v).lanePll = s.lanePll := rfl

/-! ## wrF -/

@[simp] theorem wrF_pending (s : State) (p : Page) (off lo n x : Nat) : (wrF s p off lo n x).pending = s.pending := rfl
@[simp] theorem wrF_freeCtr (s : State) (p : Page) (off lo n x : Nat) : (wrF s p off lo n x).freeCtr = s.freeCtr := rfl
@[simp] theorem wrF_dt (s : State) (p : Page) (off lo n x : Nat) : (wrF s p off lo n x).dt = s.dt := rfl
@[simp] theorem wrF_clsGrant (s : State) (p : Page) (off lo n x : Nat) : (wrF s p off lo n x).clsGrant = s.clsGrant := rfl
@[simp] theorem wrF_fab (s : State) (p : Page) (off lo n x : Nat) : (wrF s p off lo n x).fab = s.fab := rfl
@[simp] theorem wrF_ic (s : State) (p : Page) (off lo n x : Nat) : (wrF s p off lo n x).ic = s.ic := rfl
@[simp] theorem wrF_yoyos (s : State) (p : Page) (off lo n x : Nat) : (wrF s p off lo n x).yoyos = s.yoyos := rfl
@[simp] theorem wrF_dtOff (s : State) (p : Page) (off lo n x : Nat) : (wrF s p off lo n x).dtOff = s.dtOff := rfl
@[simp] theorem wrF_twins (s : State) (p : Page) (off lo n x : Nat) : (wrF s p off lo n x).twins = s.twins := rfl
@[simp] theorem wrF_xfifos (s : State) (p : Page) (off lo n x : Nat) : (wrF s p off lo n x).xfifos = s.xfifos := rfl
@[simp] theorem wrF_resets (s : State) (p : Page) (off lo n x : Nat) : (wrF s p off lo n x).resets = s.resets := rfl
@[simp] theorem wrF_faultQ (s : State) (p : Page) (off lo n x : Nat) : (wrF s p off lo n x).faultQ = s.faultQ := rfl
@[simp] theorem wrF_faultLog (s : State) (p : Page) (off lo n x : Nat) : (wrF s p off lo n x).faultLog = s.faultLog := rfl
@[simp] theorem wrF_wdogs (s : State) (p : Page) (off lo n x : Nat) : (wrF s p off lo n x).wdogs = s.wdogs := rfl
@[simp] theorem wrF_doms (s : State) (p : Page) (off lo n x : Nat) : (wrF s p off lo n x).doms = s.doms := rfl
@[simp] theorem wrF_cores (s : State) (p : Page) (off lo n x : Nat) : (wrF s p off lo n x).cores = s.cores := rfl
@[simp] theorem wrF_l2s (s : State) (p : Page) (off lo n x : Nat) : (wrF s p off lo n x).l2s = s.l2s := rfl
@[simp] theorem wrF_sc (s : State) (p : Page) (off lo n x : Nat) : (wrF s p off lo n x).sc = s.sc := rfl
@[simp] theorem wrF_dram (s : State) (p : Page) (off lo n x : Nat) : (wrF s p off lo n x).dram = s.dram := rfl
@[simp] theorem wrF_sram (s : State) (p : Page) (off lo n x : Nat) : (wrF s p off lo n x).sram = s.sram := rfl
@[simp] theorem wrF_epoch (s : State) (p : Page) (off lo n x : Nat) : (wrF s p off lo n x).epoch = s.epoch := rfl
@[simp] theorem wrF_engEpoch (s : State) (p : Page) (off lo n x : Nat) : (wrF s p off lo n x).engEpoch = s.engEpoch := rfl
@[simp] theorem wrF_eeprom (s : State) (p : Page) (off lo n x : Nat) : (wrF s p off lo n x).eeprom = s.eeprom := rfl
@[simp] theorem wrF_calib (s : State) (p : Page) (off lo n x : Nat) : (wrF s p off lo n x).calib = s.calib := rfl
@[simp] theorem wrF_sage (s : State) (p : Page) (off lo n x : Nat) : (wrF s p off lo n x).sage = s.sage := rfl
@[simp] theorem wrF_engines (s : State) (p : Page) (off lo n x : Nat) : (wrF s p off lo n x).engines = s.engines := rfl
@[simp] theorem wrF_clusters (s : State) (p : Page) (off lo n x : Nat) : (wrF s p off lo n x).clusters = s.clusters := rfl
@[simp] theorem wrF_movers (s : State) (p : Page) (off lo n x : Nat) : (wrF s p off lo n x).movers = s.movers := rfl
@[simp] theorem wrF_cells (s : State) (p : Page) (off lo n x : Nat) : (wrF s p off lo n x).cells = s.cells := rfl
@[simp] theorem wrF_tyl (s : State) (p : Page) (off lo n x : Nat) : (wrF s p off lo n x).tyl = s.tyl := rfl
@[simp] theorem wrF_synt (s : State) (p : Page) (off lo n x : Nat) : (wrF s p off lo n x).synt = s.synt := rfl
@[simp] theorem wrF_macs (s : State) (p : Page) (off lo n x : Nat) : (wrF s p off lo n x).macs = s.macs := rfl
@[simp] theorem wrF_strms (s : State) (p : Page) (off lo n x : Nat) : (wrF s p off lo n x).strms = s.strms := rfl
@[simp] theorem wrF_pcies (s : State) (p : Page) (off lo n x : Nat) : (wrF s p off lo n x).pcies = s.pcies := rfl
@[simp] theorem wrF_pwr (s : State) (p : Page) (off lo n x : Nat) : (wrF s p off lo n x).pwr = s.pwr := rfl
@[simp] theorem wrF_mari (s : State) (p : Page) (off lo n x : Nat) : (wrF s p off lo n x).mari = s.mari := rfl
@[simp] theorem wrF_wakeL (s : State) (p : Page) (off lo n x : Nat) : (wrF s p off lo n x).wakeL = s.wakeL := rfl
@[simp] theorem wrF_jtag (s : State) (p : Page) (off lo n x : Nat) : (wrF s p off lo n x).jtag = s.jtag := rfl
@[simp] theorem wrF_bist (s : State) (p : Page) (off lo n x : Nat) : (wrF s p off lo n x).bist = s.bist := rfl
@[simp] theorem wrF_verdict (s : State) (p : Page) (off lo n x : Nat) : (wrF s p off lo n x).verdict = s.verdict := rfl
@[simp] theorem wrF_lanePll (s : State) (p : Page) (off lo n x : Nat) : (wrF s p off lo n x).lanePll = s.lanePll := rfl

/-! ## wrB -/

@[simp] theorem wrB_pending (s : State) (p : Page) (off i : Nat) (x : Bool) : (wrB s p off i x).pending = s.pending := rfl
@[simp] theorem wrB_freeCtr (s : State) (p : Page) (off i : Nat) (x : Bool) : (wrB s p off i x).freeCtr = s.freeCtr := rfl
@[simp] theorem wrB_dt (s : State) (p : Page) (off i : Nat) (x : Bool) : (wrB s p off i x).dt = s.dt := rfl
@[simp] theorem wrB_clsGrant (s : State) (p : Page) (off i : Nat) (x : Bool) : (wrB s p off i x).clsGrant = s.clsGrant := rfl
@[simp] theorem wrB_fab (s : State) (p : Page) (off i : Nat) (x : Bool) : (wrB s p off i x).fab = s.fab := rfl
@[simp] theorem wrB_ic (s : State) (p : Page) (off i : Nat) (x : Bool) : (wrB s p off i x).ic = s.ic := rfl
@[simp] theorem wrB_yoyos (s : State) (p : Page) (off i : Nat) (x : Bool) : (wrB s p off i x).yoyos = s.yoyos := rfl
@[simp] theorem wrB_dtOff (s : State) (p : Page) (off i : Nat) (x : Bool) : (wrB s p off i x).dtOff = s.dtOff := rfl
@[simp] theorem wrB_twins (s : State) (p : Page) (off i : Nat) (x : Bool) : (wrB s p off i x).twins = s.twins := rfl
@[simp] theorem wrB_xfifos (s : State) (p : Page) (off i : Nat) (x : Bool) : (wrB s p off i x).xfifos = s.xfifos := rfl
@[simp] theorem wrB_resets (s : State) (p : Page) (off i : Nat) (x : Bool) : (wrB s p off i x).resets = s.resets := rfl
@[simp] theorem wrB_faultQ (s : State) (p : Page) (off i : Nat) (x : Bool) : (wrB s p off i x).faultQ = s.faultQ := rfl
@[simp] theorem wrB_faultLog (s : State) (p : Page) (off i : Nat) (x : Bool) : (wrB s p off i x).faultLog = s.faultLog := rfl
@[simp] theorem wrB_wdogs (s : State) (p : Page) (off i : Nat) (x : Bool) : (wrB s p off i x).wdogs = s.wdogs := rfl
@[simp] theorem wrB_doms (s : State) (p : Page) (off i : Nat) (x : Bool) : (wrB s p off i x).doms = s.doms := rfl
@[simp] theorem wrB_cores (s : State) (p : Page) (off i : Nat) (x : Bool) : (wrB s p off i x).cores = s.cores := rfl
@[simp] theorem wrB_l2s (s : State) (p : Page) (off i : Nat) (x : Bool) : (wrB s p off i x).l2s = s.l2s := rfl
@[simp] theorem wrB_sc (s : State) (p : Page) (off i : Nat) (x : Bool) : (wrB s p off i x).sc = s.sc := rfl
@[simp] theorem wrB_dram (s : State) (p : Page) (off i : Nat) (x : Bool) : (wrB s p off i x).dram = s.dram := rfl
@[simp] theorem wrB_sram (s : State) (p : Page) (off i : Nat) (x : Bool) : (wrB s p off i x).sram = s.sram := rfl
@[simp] theorem wrB_epoch (s : State) (p : Page) (off i : Nat) (x : Bool) : (wrB s p off i x).epoch = s.epoch := rfl
@[simp] theorem wrB_engEpoch (s : State) (p : Page) (off i : Nat) (x : Bool) : (wrB s p off i x).engEpoch = s.engEpoch := rfl
@[simp] theorem wrB_eeprom (s : State) (p : Page) (off i : Nat) (x : Bool) : (wrB s p off i x).eeprom = s.eeprom := rfl
@[simp] theorem wrB_calib (s : State) (p : Page) (off i : Nat) (x : Bool) : (wrB s p off i x).calib = s.calib := rfl
@[simp] theorem wrB_sage (s : State) (p : Page) (off i : Nat) (x : Bool) : (wrB s p off i x).sage = s.sage := rfl
@[simp] theorem wrB_engines (s : State) (p : Page) (off i : Nat) (x : Bool) : (wrB s p off i x).engines = s.engines := rfl
@[simp] theorem wrB_clusters (s : State) (p : Page) (off i : Nat) (x : Bool) : (wrB s p off i x).clusters = s.clusters := rfl
@[simp] theorem wrB_movers (s : State) (p : Page) (off i : Nat) (x : Bool) : (wrB s p off i x).movers = s.movers := rfl
@[simp] theorem wrB_cells (s : State) (p : Page) (off i : Nat) (x : Bool) : (wrB s p off i x).cells = s.cells := rfl
@[simp] theorem wrB_tyl (s : State) (p : Page) (off i : Nat) (x : Bool) : (wrB s p off i x).tyl = s.tyl := rfl
@[simp] theorem wrB_synt (s : State) (p : Page) (off i : Nat) (x : Bool) : (wrB s p off i x).synt = s.synt := rfl
@[simp] theorem wrB_macs (s : State) (p : Page) (off i : Nat) (x : Bool) : (wrB s p off i x).macs = s.macs := rfl
@[simp] theorem wrB_strms (s : State) (p : Page) (off i : Nat) (x : Bool) : (wrB s p off i x).strms = s.strms := rfl
@[simp] theorem wrB_pcies (s : State) (p : Page) (off i : Nat) (x : Bool) : (wrB s p off i x).pcies = s.pcies := rfl
@[simp] theorem wrB_pwr (s : State) (p : Page) (off i : Nat) (x : Bool) : (wrB s p off i x).pwr = s.pwr := rfl
@[simp] theorem wrB_mari (s : State) (p : Page) (off i : Nat) (x : Bool) : (wrB s p off i x).mari = s.mari := rfl
@[simp] theorem wrB_wakeL (s : State) (p : Page) (off i : Nat) (x : Bool) : (wrB s p off i x).wakeL = s.wakeL := rfl
@[simp] theorem wrB_jtag (s : State) (p : Page) (off i : Nat) (x : Bool) : (wrB s p off i x).jtag = s.jtag := rfl
@[simp] theorem wrB_bist (s : State) (p : Page) (off i : Nat) (x : Bool) : (wrB s p off i x).bist = s.bist := rfl
@[simp] theorem wrB_verdict (s : State) (p : Page) (off i : Nat) (x : Bool) : (wrB s p off i x).verdict = s.verdict := rfl
@[simp] theorem wrB_lanePll (s : State) (p : Page) (off i : Nat) (x : Bool) : (wrB s p off i x).lanePll = s.lanePll := rfl

/-! ## bumpF -/

@[simp] theorem bumpF_pending (s : State) (p : Page) (off lo n k : Nat) : (bumpF s p off lo n k).pending = s.pending := rfl
@[simp] theorem bumpF_freeCtr (s : State) (p : Page) (off lo n k : Nat) : (bumpF s p off lo n k).freeCtr = s.freeCtr := rfl
@[simp] theorem bumpF_dt (s : State) (p : Page) (off lo n k : Nat) : (bumpF s p off lo n k).dt = s.dt := rfl
@[simp] theorem bumpF_clsGrant (s : State) (p : Page) (off lo n k : Nat) : (bumpF s p off lo n k).clsGrant = s.clsGrant := rfl
@[simp] theorem bumpF_fab (s : State) (p : Page) (off lo n k : Nat) : (bumpF s p off lo n k).fab = s.fab := rfl
@[simp] theorem bumpF_ic (s : State) (p : Page) (off lo n k : Nat) : (bumpF s p off lo n k).ic = s.ic := rfl
@[simp] theorem bumpF_yoyos (s : State) (p : Page) (off lo n k : Nat) : (bumpF s p off lo n k).yoyos = s.yoyos := rfl
@[simp] theorem bumpF_dtOff (s : State) (p : Page) (off lo n k : Nat) : (bumpF s p off lo n k).dtOff = s.dtOff := rfl
@[simp] theorem bumpF_twins (s : State) (p : Page) (off lo n k : Nat) : (bumpF s p off lo n k).twins = s.twins := rfl
@[simp] theorem bumpF_xfifos (s : State) (p : Page) (off lo n k : Nat) : (bumpF s p off lo n k).xfifos = s.xfifos := rfl
@[simp] theorem bumpF_resets (s : State) (p : Page) (off lo n k : Nat) : (bumpF s p off lo n k).resets = s.resets := rfl
@[simp] theorem bumpF_faultQ (s : State) (p : Page) (off lo n k : Nat) : (bumpF s p off lo n k).faultQ = s.faultQ := rfl
@[simp] theorem bumpF_faultLog (s : State) (p : Page) (off lo n k : Nat) : (bumpF s p off lo n k).faultLog = s.faultLog := rfl
@[simp] theorem bumpF_wdogs (s : State) (p : Page) (off lo n k : Nat) : (bumpF s p off lo n k).wdogs = s.wdogs := rfl
@[simp] theorem bumpF_doms (s : State) (p : Page) (off lo n k : Nat) : (bumpF s p off lo n k).doms = s.doms := rfl
@[simp] theorem bumpF_cores (s : State) (p : Page) (off lo n k : Nat) : (bumpF s p off lo n k).cores = s.cores := rfl
@[simp] theorem bumpF_l2s (s : State) (p : Page) (off lo n k : Nat) : (bumpF s p off lo n k).l2s = s.l2s := rfl
@[simp] theorem bumpF_sc (s : State) (p : Page) (off lo n k : Nat) : (bumpF s p off lo n k).sc = s.sc := rfl
@[simp] theorem bumpF_dram (s : State) (p : Page) (off lo n k : Nat) : (bumpF s p off lo n k).dram = s.dram := rfl
@[simp] theorem bumpF_sram (s : State) (p : Page) (off lo n k : Nat) : (bumpF s p off lo n k).sram = s.sram := rfl
@[simp] theorem bumpF_epoch (s : State) (p : Page) (off lo n k : Nat) : (bumpF s p off lo n k).epoch = s.epoch := rfl
@[simp] theorem bumpF_engEpoch (s : State) (p : Page) (off lo n k : Nat) : (bumpF s p off lo n k).engEpoch = s.engEpoch := rfl
@[simp] theorem bumpF_eeprom (s : State) (p : Page) (off lo n k : Nat) : (bumpF s p off lo n k).eeprom = s.eeprom := rfl
@[simp] theorem bumpF_calib (s : State) (p : Page) (off lo n k : Nat) : (bumpF s p off lo n k).calib = s.calib := rfl
@[simp] theorem bumpF_sage (s : State) (p : Page) (off lo n k : Nat) : (bumpF s p off lo n k).sage = s.sage := rfl
@[simp] theorem bumpF_engines (s : State) (p : Page) (off lo n k : Nat) : (bumpF s p off lo n k).engines = s.engines := rfl
@[simp] theorem bumpF_clusters (s : State) (p : Page) (off lo n k : Nat) : (bumpF s p off lo n k).clusters = s.clusters := rfl
@[simp] theorem bumpF_movers (s : State) (p : Page) (off lo n k : Nat) : (bumpF s p off lo n k).movers = s.movers := rfl
@[simp] theorem bumpF_cells (s : State) (p : Page) (off lo n k : Nat) : (bumpF s p off lo n k).cells = s.cells := rfl
@[simp] theorem bumpF_tyl (s : State) (p : Page) (off lo n k : Nat) : (bumpF s p off lo n k).tyl = s.tyl := rfl
@[simp] theorem bumpF_synt (s : State) (p : Page) (off lo n k : Nat) : (bumpF s p off lo n k).synt = s.synt := rfl
@[simp] theorem bumpF_macs (s : State) (p : Page) (off lo n k : Nat) : (bumpF s p off lo n k).macs = s.macs := rfl
@[simp] theorem bumpF_strms (s : State) (p : Page) (off lo n k : Nat) : (bumpF s p off lo n k).strms = s.strms := rfl
@[simp] theorem bumpF_pcies (s : State) (p : Page) (off lo n k : Nat) : (bumpF s p off lo n k).pcies = s.pcies := rfl
@[simp] theorem bumpF_pwr (s : State) (p : Page) (off lo n k : Nat) : (bumpF s p off lo n k).pwr = s.pwr := rfl
@[simp] theorem bumpF_mari (s : State) (p : Page) (off lo n k : Nat) : (bumpF s p off lo n k).mari = s.mari := rfl
@[simp] theorem bumpF_wakeL (s : State) (p : Page) (off lo n k : Nat) : (bumpF s p off lo n k).wakeL = s.wakeL := rfl
@[simp] theorem bumpF_jtag (s : State) (p : Page) (off lo n k : Nat) : (bumpF s p off lo n k).jtag = s.jtag := rfl
@[simp] theorem bumpF_bist (s : State) (p : Page) (off lo n k : Nat) : (bumpF s p off lo n k).bist = s.bist := rfl
@[simp] theorem bumpF_verdict (s : State) (p : Page) (off lo n k : Nat) : (bumpF s p off lo n k).verdict = s.verdict := rfl
@[simp] theorem bumpF_lanePll (s : State) (p : Page) (off lo n k : Nat) : (bumpF s p off lo n k).lanePll = s.lanePll := rfl

/-! ## sendMsg -/

@[simp] theorem sendMsg_pending (s : State) (p : Page) (src : Nat) (k : MsgKind) : (sendMsg s p src k).pending = s.pending := rfl
@[simp] theorem sendMsg_freeCtr (s : State) (p : Page) (src : Nat) (k : MsgKind) : (sendMsg s p src k).freeCtr = s.freeCtr := rfl
@[simp] theorem sendMsg_dt (s : State) (p : Page) (src : Nat) (k : MsgKind) : (sendMsg s p src k).dt = s.dt := rfl
@[simp] theorem sendMsg_regs (s : State) (p : Page) (src : Nat) (k : MsgKind) : (sendMsg s p src k).regs = s.regs := rfl
@[simp] theorem sendMsg_clsGrant (s : State) (p : Page) (src : Nat) (k : MsgKind) : (sendMsg s p src k).clsGrant = s.clsGrant := rfl
@[simp] theorem sendMsg_fab (s : State) (p : Page) (src : Nat) (k : MsgKind) : (sendMsg s p src k).fab = s.fab := rfl
@[simp] theorem sendMsg_yoyos (s : State) (p : Page) (src : Nat) (k : MsgKind) : (sendMsg s p src k).yoyos = s.yoyos := rfl
@[simp] theorem sendMsg_dtOff (s : State) (p : Page) (src : Nat) (k : MsgKind) : (sendMsg s p src k).dtOff = s.dtOff := rfl
@[simp] theorem sendMsg_twins (s : State) (p : Page) (src : Nat) (k : MsgKind) : (sendMsg s p src k).twins = s.twins := rfl
@[simp] theorem sendMsg_xfifos (s : State) (p : Page) (src : Nat) (k : MsgKind) : (sendMsg s p src k).xfifos = s.xfifos := rfl
@[simp] theorem sendMsg_resets (s : State) (p : Page) (src : Nat) (k : MsgKind) : (sendMsg s p src k).resets = s.resets := rfl
@[simp] theorem sendMsg_faultQ (s : State) (p : Page) (src : Nat) (k : MsgKind) : (sendMsg s p src k).faultQ = s.faultQ := rfl
@[simp] theorem sendMsg_faultLog (s : State) (p : Page) (src : Nat) (k : MsgKind) : (sendMsg s p src k).faultLog = s.faultLog := rfl
@[simp] theorem sendMsg_wdogs (s : State) (p : Page) (src : Nat) (k : MsgKind) : (sendMsg s p src k).wdogs = s.wdogs := rfl
@[simp] theorem sendMsg_doms (s : State) (p : Page) (src : Nat) (k : MsgKind) : (sendMsg s p src k).doms = s.doms := rfl
@[simp] theorem sendMsg_cores (s : State) (p : Page) (src : Nat) (k : MsgKind) : (sendMsg s p src k).cores = s.cores := rfl
@[simp] theorem sendMsg_l2s (s : State) (p : Page) (src : Nat) (k : MsgKind) : (sendMsg s p src k).l2s = s.l2s := rfl
@[simp] theorem sendMsg_sc (s : State) (p : Page) (src : Nat) (k : MsgKind) : (sendMsg s p src k).sc = s.sc := rfl
@[simp] theorem sendMsg_dram (s : State) (p : Page) (src : Nat) (k : MsgKind) : (sendMsg s p src k).dram = s.dram := rfl
@[simp] theorem sendMsg_sram (s : State) (p : Page) (src : Nat) (k : MsgKind) : (sendMsg s p src k).sram = s.sram := rfl
@[simp] theorem sendMsg_epoch (s : State) (p : Page) (src : Nat) (k : MsgKind) : (sendMsg s p src k).epoch = s.epoch := rfl
@[simp] theorem sendMsg_engEpoch (s : State) (p : Page) (src : Nat) (k : MsgKind) : (sendMsg s p src k).engEpoch = s.engEpoch := rfl
@[simp] theorem sendMsg_eeprom (s : State) (p : Page) (src : Nat) (k : MsgKind) : (sendMsg s p src k).eeprom = s.eeprom := rfl
@[simp] theorem sendMsg_calib (s : State) (p : Page) (src : Nat) (k : MsgKind) : (sendMsg s p src k).calib = s.calib := rfl
@[simp] theorem sendMsg_sage (s : State) (p : Page) (src : Nat) (k : MsgKind) : (sendMsg s p src k).sage = s.sage := rfl
@[simp] theorem sendMsg_engines (s : State) (p : Page) (src : Nat) (k : MsgKind) : (sendMsg s p src k).engines = s.engines := rfl
@[simp] theorem sendMsg_clusters (s : State) (p : Page) (src : Nat) (k : MsgKind) : (sendMsg s p src k).clusters = s.clusters := rfl
@[simp] theorem sendMsg_movers (s : State) (p : Page) (src : Nat) (k : MsgKind) : (sendMsg s p src k).movers = s.movers := rfl
@[simp] theorem sendMsg_cells (s : State) (p : Page) (src : Nat) (k : MsgKind) : (sendMsg s p src k).cells = s.cells := rfl
@[simp] theorem sendMsg_tyl (s : State) (p : Page) (src : Nat) (k : MsgKind) : (sendMsg s p src k).tyl = s.tyl := rfl
@[simp] theorem sendMsg_synt (s : State) (p : Page) (src : Nat) (k : MsgKind) : (sendMsg s p src k).synt = s.synt := rfl
@[simp] theorem sendMsg_macs (s : State) (p : Page) (src : Nat) (k : MsgKind) : (sendMsg s p src k).macs = s.macs := rfl
@[simp] theorem sendMsg_strms (s : State) (p : Page) (src : Nat) (k : MsgKind) : (sendMsg s p src k).strms = s.strms := rfl
@[simp] theorem sendMsg_pcies (s : State) (p : Page) (src : Nat) (k : MsgKind) : (sendMsg s p src k).pcies = s.pcies := rfl
@[simp] theorem sendMsg_pwr (s : State) (p : Page) (src : Nat) (k : MsgKind) : (sendMsg s p src k).pwr = s.pwr := rfl
@[simp] theorem sendMsg_mari (s : State) (p : Page) (src : Nat) (k : MsgKind) : (sendMsg s p src k).mari = s.mari := rfl
@[simp] theorem sendMsg_wakeL (s : State) (p : Page) (src : Nat) (k : MsgKind) : (sendMsg s p src k).wakeL = s.wakeL := rfl
@[simp] theorem sendMsg_jtag (s : State) (p : Page) (src : Nat) (k : MsgKind) : (sendMsg s p src k).jtag = s.jtag := rfl
@[simp] theorem sendMsg_bist (s : State) (p : Page) (src : Nat) (k : MsgKind) : (sendMsg s p src k).bist = s.bist := rfl
@[simp] theorem sendMsg_verdict (s : State) (p : Page) (src : Nat) (k : MsgKind) : (sendMsg s p src k).verdict = s.verdict := rfl
@[simp] theorem sendMsg_lanePll (s : State) (p : Page) (src : Nat) (k : MsgKind) : (sendMsg s p src k).lanePll = s.lanePll := rfl

/-! ## freeVal -/

@[simp] theorem freeVal_pending (s : State) (w : Nat) : ((freeVal w s).2).pending = s.pending := rfl
@[simp] theorem freeVal_dt (s : State) (w : Nat) : ((freeVal w s).2).dt = s.dt := rfl
@[simp] theorem freeVal_regs (s : State) (w : Nat) : ((freeVal w s).2).regs = s.regs := rfl
@[simp] theorem freeVal_clsGrant (s : State) (w : Nat) : ((freeVal w s).2).clsGrant = s.clsGrant := rfl
@[simp] theorem freeVal_fab (s : State) (w : Nat) : ((freeVal w s).2).fab = s.fab := rfl
@[simp] theorem freeVal_ic (s : State) (w : Nat) : ((freeVal w s).2).ic = s.ic := rfl
@[simp] theorem freeVal_yoyos (s : State) (w : Nat) : ((freeVal w s).2).yoyos = s.yoyos := rfl
@[simp] theorem freeVal_dtOff (s : State) (w : Nat) : ((freeVal w s).2).dtOff = s.dtOff := rfl
@[simp] theorem freeVal_twins (s : State) (w : Nat) : ((freeVal w s).2).twins = s.twins := rfl
@[simp] theorem freeVal_xfifos (s : State) (w : Nat) : ((freeVal w s).2).xfifos = s.xfifos := rfl
@[simp] theorem freeVal_resets (s : State) (w : Nat) : ((freeVal w s).2).resets = s.resets := rfl
@[simp] theorem freeVal_faultQ (s : State) (w : Nat) : ((freeVal w s).2).faultQ = s.faultQ := rfl
@[simp] theorem freeVal_faultLog (s : State) (w : Nat) : ((freeVal w s).2).faultLog = s.faultLog := rfl
@[simp] theorem freeVal_wdogs (s : State) (w : Nat) : ((freeVal w s).2).wdogs = s.wdogs := rfl
@[simp] theorem freeVal_doms (s : State) (w : Nat) : ((freeVal w s).2).doms = s.doms := rfl
@[simp] theorem freeVal_cores (s : State) (w : Nat) : ((freeVal w s).2).cores = s.cores := rfl
@[simp] theorem freeVal_l2s (s : State) (w : Nat) : ((freeVal w s).2).l2s = s.l2s := rfl
@[simp] theorem freeVal_sc (s : State) (w : Nat) : ((freeVal w s).2).sc = s.sc := rfl
@[simp] theorem freeVal_dram (s : State) (w : Nat) : ((freeVal w s).2).dram = s.dram := rfl
@[simp] theorem freeVal_sram (s : State) (w : Nat) : ((freeVal w s).2).sram = s.sram := rfl
@[simp] theorem freeVal_epoch (s : State) (w : Nat) : ((freeVal w s).2).epoch = s.epoch := rfl
@[simp] theorem freeVal_engEpoch (s : State) (w : Nat) : ((freeVal w s).2).engEpoch = s.engEpoch := rfl
@[simp] theorem freeVal_eeprom (s : State) (w : Nat) : ((freeVal w s).2).eeprom = s.eeprom := rfl
@[simp] theorem freeVal_calib (s : State) (w : Nat) : ((freeVal w s).2).calib = s.calib := rfl
@[simp] theorem freeVal_sage (s : State) (w : Nat) : ((freeVal w s).2).sage = s.sage := rfl
@[simp] theorem freeVal_engines (s : State) (w : Nat) : ((freeVal w s).2).engines = s.engines := rfl
@[simp] theorem freeVal_clusters (s : State) (w : Nat) : ((freeVal w s).2).clusters = s.clusters := rfl
@[simp] theorem freeVal_movers (s : State) (w : Nat) : ((freeVal w s).2).movers = s.movers := rfl
@[simp] theorem freeVal_cells (s : State) (w : Nat) : ((freeVal w s).2).cells = s.cells := rfl
@[simp] theorem freeVal_tyl (s : State) (w : Nat) : ((freeVal w s).2).tyl = s.tyl := rfl
@[simp] theorem freeVal_synt (s : State) (w : Nat) : ((freeVal w s).2).synt = s.synt := rfl
@[simp] theorem freeVal_macs (s : State) (w : Nat) : ((freeVal w s).2).macs = s.macs := rfl
@[simp] theorem freeVal_strms (s : State) (w : Nat) : ((freeVal w s).2).strms = s.strms := rfl
@[simp] theorem freeVal_pcies (s : State) (w : Nat) : ((freeVal w s).2).pcies = s.pcies := rfl
@[simp] theorem freeVal_pwr (s : State) (w : Nat) : ((freeVal w s).2).pwr = s.pwr := rfl
@[simp] theorem freeVal_mari (s : State) (w : Nat) : ((freeVal w s).2).mari = s.mari := rfl
@[simp] theorem freeVal_wakeL (s : State) (w : Nat) : ((freeVal w s).2).wakeL = s.wakeL := rfl
@[simp] theorem freeVal_jtag (s : State) (w : Nat) : ((freeVal w s).2).jtag = s.jtag := rfl
@[simp] theorem freeVal_bist (s : State) (w : Nat) : ((freeVal w s).2).bist = s.bist := rfl
@[simp] theorem freeVal_verdict (s : State) (w : Nat) : ((freeVal w s).2).verdict = s.verdict := rfl
@[simp] theorem freeVal_lanePll (s : State) (w : Nat) : ((freeVal w s).2).lanePll = s.lanePll := rfl

/-! ## updCore -/

@[simp] theorem updCore_pending (s : State) (n : Fin 24) (f : CoreRec → CoreRec) : (updCore s n f).pending = s.pending := rfl
@[simp] theorem updCore_freeCtr (s : State) (n : Fin 24) (f : CoreRec → CoreRec) : (updCore s n f).freeCtr = s.freeCtr := rfl
@[simp] theorem updCore_dt (s : State) (n : Fin 24) (f : CoreRec → CoreRec) : (updCore s n f).dt = s.dt := rfl
@[simp] theorem updCore_regs (s : State) (n : Fin 24) (f : CoreRec → CoreRec) : (updCore s n f).regs = s.regs := rfl
@[simp] theorem updCore_clsGrant (s : State) (n : Fin 24) (f : CoreRec → CoreRec) : (updCore s n f).clsGrant = s.clsGrant := rfl
@[simp] theorem updCore_fab (s : State) (n : Fin 24) (f : CoreRec → CoreRec) : (updCore s n f).fab = s.fab := rfl
@[simp] theorem updCore_ic (s : State) (n : Fin 24) (f : CoreRec → CoreRec) : (updCore s n f).ic = s.ic := rfl
@[simp] theorem updCore_yoyos (s : State) (n : Fin 24) (f : CoreRec → CoreRec) : (updCore s n f).yoyos = s.yoyos := rfl
@[simp] theorem updCore_dtOff (s : State) (n : Fin 24) (f : CoreRec → CoreRec) : (updCore s n f).dtOff = s.dtOff := rfl
@[simp] theorem updCore_twins (s : State) (n : Fin 24) (f : CoreRec → CoreRec) : (updCore s n f).twins = s.twins := rfl
@[simp] theorem updCore_xfifos (s : State) (n : Fin 24) (f : CoreRec → CoreRec) : (updCore s n f).xfifos = s.xfifos := rfl
@[simp] theorem updCore_resets (s : State) (n : Fin 24) (f : CoreRec → CoreRec) : (updCore s n f).resets = s.resets := rfl
@[simp] theorem updCore_faultQ (s : State) (n : Fin 24) (f : CoreRec → CoreRec) : (updCore s n f).faultQ = s.faultQ := rfl
@[simp] theorem updCore_faultLog (s : State) (n : Fin 24) (f : CoreRec → CoreRec) : (updCore s n f).faultLog = s.faultLog := rfl
@[simp] theorem updCore_wdogs (s : State) (n : Fin 24) (f : CoreRec → CoreRec) : (updCore s n f).wdogs = s.wdogs := rfl
@[simp] theorem updCore_doms (s : State) (n : Fin 24) (f : CoreRec → CoreRec) : (updCore s n f).doms = s.doms := rfl
@[simp] theorem updCore_l2s (s : State) (n : Fin 24) (f : CoreRec → CoreRec) : (updCore s n f).l2s = s.l2s := rfl
@[simp] theorem updCore_sc (s : State) (n : Fin 24) (f : CoreRec → CoreRec) : (updCore s n f).sc = s.sc := rfl
@[simp] theorem updCore_dram (s : State) (n : Fin 24) (f : CoreRec → CoreRec) : (updCore s n f).dram = s.dram := rfl
@[simp] theorem updCore_sram (s : State) (n : Fin 24) (f : CoreRec → CoreRec) : (updCore s n f).sram = s.sram := rfl
@[simp] theorem updCore_epoch (s : State) (n : Fin 24) (f : CoreRec → CoreRec) : (updCore s n f).epoch = s.epoch := rfl
@[simp] theorem updCore_engEpoch (s : State) (n : Fin 24) (f : CoreRec → CoreRec) : (updCore s n f).engEpoch = s.engEpoch := rfl
@[simp] theorem updCore_eeprom (s : State) (n : Fin 24) (f : CoreRec → CoreRec) : (updCore s n f).eeprom = s.eeprom := rfl
@[simp] theorem updCore_calib (s : State) (n : Fin 24) (f : CoreRec → CoreRec) : (updCore s n f).calib = s.calib := rfl
@[simp] theorem updCore_sage (s : State) (n : Fin 24) (f : CoreRec → CoreRec) : (updCore s n f).sage = s.sage := rfl
@[simp] theorem updCore_engines (s : State) (n : Fin 24) (f : CoreRec → CoreRec) : (updCore s n f).engines = s.engines := rfl
@[simp] theorem updCore_clusters (s : State) (n : Fin 24) (f : CoreRec → CoreRec) : (updCore s n f).clusters = s.clusters := rfl
@[simp] theorem updCore_movers (s : State) (n : Fin 24) (f : CoreRec → CoreRec) : (updCore s n f).movers = s.movers := rfl
@[simp] theorem updCore_cells (s : State) (n : Fin 24) (f : CoreRec → CoreRec) : (updCore s n f).cells = s.cells := rfl
@[simp] theorem updCore_tyl (s : State) (n : Fin 24) (f : CoreRec → CoreRec) : (updCore s n f).tyl = s.tyl := rfl
@[simp] theorem updCore_synt (s : State) (n : Fin 24) (f : CoreRec → CoreRec) : (updCore s n f).synt = s.synt := rfl
@[simp] theorem updCore_macs (s : State) (n : Fin 24) (f : CoreRec → CoreRec) : (updCore s n f).macs = s.macs := rfl
@[simp] theorem updCore_strms (s : State) (n : Fin 24) (f : CoreRec → CoreRec) : (updCore s n f).strms = s.strms := rfl
@[simp] theorem updCore_pcies (s : State) (n : Fin 24) (f : CoreRec → CoreRec) : (updCore s n f).pcies = s.pcies := rfl
@[simp] theorem updCore_pwr (s : State) (n : Fin 24) (f : CoreRec → CoreRec) : (updCore s n f).pwr = s.pwr := rfl
@[simp] theorem updCore_mari (s : State) (n : Fin 24) (f : CoreRec → CoreRec) : (updCore s n f).mari = s.mari := rfl
@[simp] theorem updCore_wakeL (s : State) (n : Fin 24) (f : CoreRec → CoreRec) : (updCore s n f).wakeL = s.wakeL := rfl
@[simp] theorem updCore_jtag (s : State) (n : Fin 24) (f : CoreRec → CoreRec) : (updCore s n f).jtag = s.jtag := rfl
@[simp] theorem updCore_bist (s : State) (n : Fin 24) (f : CoreRec → CoreRec) : (updCore s n f).bist = s.bist := rfl
@[simp] theorem updCore_verdict (s : State) (n : Fin 24) (f : CoreRec → CoreRec) : (updCore s n f).verdict = s.verdict := rfl
@[simp] theorem updCore_lanePll (s : State) (n : Fin 24) (f : CoreRec → CoreRec) : (updCore s n f).lanePll = s.lanePll := rfl

/-! ## setSys -/

@[simp] theorem setSys_pending (s : State) (n : Fin 24) (k : Nat) (v : Word64) : (setSys s n k v).pending = s.pending := rfl
@[simp] theorem setSys_freeCtr (s : State) (n : Fin 24) (k : Nat) (v : Word64) : (setSys s n k v).freeCtr = s.freeCtr := rfl
@[simp] theorem setSys_dt (s : State) (n : Fin 24) (k : Nat) (v : Word64) : (setSys s n k v).dt = s.dt := rfl
@[simp] theorem setSys_regs (s : State) (n : Fin 24) (k : Nat) (v : Word64) : (setSys s n k v).regs = s.regs := rfl
@[simp] theorem setSys_clsGrant (s : State) (n : Fin 24) (k : Nat) (v : Word64) : (setSys s n k v).clsGrant = s.clsGrant := rfl
@[simp] theorem setSys_fab (s : State) (n : Fin 24) (k : Nat) (v : Word64) : (setSys s n k v).fab = s.fab := rfl
@[simp] theorem setSys_ic (s : State) (n : Fin 24) (k : Nat) (v : Word64) : (setSys s n k v).ic = s.ic := rfl
@[simp] theorem setSys_yoyos (s : State) (n : Fin 24) (k : Nat) (v : Word64) : (setSys s n k v).yoyos = s.yoyos := rfl
@[simp] theorem setSys_dtOff (s : State) (n : Fin 24) (k : Nat) (v : Word64) : (setSys s n k v).dtOff = s.dtOff := rfl
@[simp] theorem setSys_twins (s : State) (n : Fin 24) (k : Nat) (v : Word64) : (setSys s n k v).twins = s.twins := rfl
@[simp] theorem setSys_xfifos (s : State) (n : Fin 24) (k : Nat) (v : Word64) : (setSys s n k v).xfifos = s.xfifos := rfl
@[simp] theorem setSys_resets (s : State) (n : Fin 24) (k : Nat) (v : Word64) : (setSys s n k v).resets = s.resets := rfl
@[simp] theorem setSys_faultQ (s : State) (n : Fin 24) (k : Nat) (v : Word64) : (setSys s n k v).faultQ = s.faultQ := rfl
@[simp] theorem setSys_faultLog (s : State) (n : Fin 24) (k : Nat) (v : Word64) : (setSys s n k v).faultLog = s.faultLog := rfl
@[simp] theorem setSys_wdogs (s : State) (n : Fin 24) (k : Nat) (v : Word64) : (setSys s n k v).wdogs = s.wdogs := rfl
@[simp] theorem setSys_doms (s : State) (n : Fin 24) (k : Nat) (v : Word64) : (setSys s n k v).doms = s.doms := rfl
@[simp] theorem setSys_l2s (s : State) (n : Fin 24) (k : Nat) (v : Word64) : (setSys s n k v).l2s = s.l2s := rfl
@[simp] theorem setSys_sc (s : State) (n : Fin 24) (k : Nat) (v : Word64) : (setSys s n k v).sc = s.sc := rfl
@[simp] theorem setSys_dram (s : State) (n : Fin 24) (k : Nat) (v : Word64) : (setSys s n k v).dram = s.dram := rfl
@[simp] theorem setSys_sram (s : State) (n : Fin 24) (k : Nat) (v : Word64) : (setSys s n k v).sram = s.sram := rfl
@[simp] theorem setSys_epoch (s : State) (n : Fin 24) (k : Nat) (v : Word64) : (setSys s n k v).epoch = s.epoch := rfl
@[simp] theorem setSys_engEpoch (s : State) (n : Fin 24) (k : Nat) (v : Word64) : (setSys s n k v).engEpoch = s.engEpoch := rfl
@[simp] theorem setSys_eeprom (s : State) (n : Fin 24) (k : Nat) (v : Word64) : (setSys s n k v).eeprom = s.eeprom := rfl
@[simp] theorem setSys_calib (s : State) (n : Fin 24) (k : Nat) (v : Word64) : (setSys s n k v).calib = s.calib := rfl
@[simp] theorem setSys_sage (s : State) (n : Fin 24) (k : Nat) (v : Word64) : (setSys s n k v).sage = s.sage := rfl
@[simp] theorem setSys_engines (s : State) (n : Fin 24) (k : Nat) (v : Word64) : (setSys s n k v).engines = s.engines := rfl
@[simp] theorem setSys_clusters (s : State) (n : Fin 24) (k : Nat) (v : Word64) : (setSys s n k v).clusters = s.clusters := rfl
@[simp] theorem setSys_movers (s : State) (n : Fin 24) (k : Nat) (v : Word64) : (setSys s n k v).movers = s.movers := rfl
@[simp] theorem setSys_cells (s : State) (n : Fin 24) (k : Nat) (v : Word64) : (setSys s n k v).cells = s.cells := rfl
@[simp] theorem setSys_tyl (s : State) (n : Fin 24) (k : Nat) (v : Word64) : (setSys s n k v).tyl = s.tyl := rfl
@[simp] theorem setSys_synt (s : State) (n : Fin 24) (k : Nat) (v : Word64) : (setSys s n k v).synt = s.synt := rfl
@[simp] theorem setSys_macs (s : State) (n : Fin 24) (k : Nat) (v : Word64) : (setSys s n k v).macs = s.macs := rfl
@[simp] theorem setSys_strms (s : State) (n : Fin 24) (k : Nat) (v : Word64) : (setSys s n k v).strms = s.strms := rfl
@[simp] theorem setSys_pcies (s : State) (n : Fin 24) (k : Nat) (v : Word64) : (setSys s n k v).pcies = s.pcies := rfl
@[simp] theorem setSys_pwr (s : State) (n : Fin 24) (k : Nat) (v : Word64) : (setSys s n k v).pwr = s.pwr := rfl
@[simp] theorem setSys_mari (s : State) (n : Fin 24) (k : Nat) (v : Word64) : (setSys s n k v).mari = s.mari := rfl
@[simp] theorem setSys_wakeL (s : State) (n : Fin 24) (k : Nat) (v : Word64) : (setSys s n k v).wakeL = s.wakeL := rfl
@[simp] theorem setSys_jtag (s : State) (n : Fin 24) (k : Nat) (v : Word64) : (setSys s n k v).jtag = s.jtag := rfl
@[simp] theorem setSys_bist (s : State) (n : Fin 24) (k : Nat) (v : Word64) : (setSys s n k v).bist = s.bist := rfl
@[simp] theorem setSys_verdict (s : State) (n : Fin 24) (k : Nat) (v : Word64) : (setSys s n k v).verdict = s.verdict := rfl
@[simp] theorem setSys_lanePll (s : State) (n : Fin 24) (k : Nat) (v : Word64) : (setSys s n k v).lanePll = s.lanePll := rfl

/-! ## setFr -/

@[simp] theorem setFr_pending (s : State) (n : Fin 24) (r : Fin 32) (v : Word64) : (setFr s n r v).pending = s.pending := rfl
@[simp] theorem setFr_freeCtr (s : State) (n : Fin 24) (r : Fin 32) (v : Word64) : (setFr s n r v).freeCtr = s.freeCtr := rfl
@[simp] theorem setFr_dt (s : State) (n : Fin 24) (r : Fin 32) (v : Word64) : (setFr s n r v).dt = s.dt := rfl
@[simp] theorem setFr_regs (s : State) (n : Fin 24) (r : Fin 32) (v : Word64) : (setFr s n r v).regs = s.regs := rfl
@[simp] theorem setFr_clsGrant (s : State) (n : Fin 24) (r : Fin 32) (v : Word64) : (setFr s n r v).clsGrant = s.clsGrant := rfl
@[simp] theorem setFr_fab (s : State) (n : Fin 24) (r : Fin 32) (v : Word64) : (setFr s n r v).fab = s.fab := rfl
@[simp] theorem setFr_ic (s : State) (n : Fin 24) (r : Fin 32) (v : Word64) : (setFr s n r v).ic = s.ic := rfl
@[simp] theorem setFr_yoyos (s : State) (n : Fin 24) (r : Fin 32) (v : Word64) : (setFr s n r v).yoyos = s.yoyos := rfl
@[simp] theorem setFr_dtOff (s : State) (n : Fin 24) (r : Fin 32) (v : Word64) : (setFr s n r v).dtOff = s.dtOff := rfl
@[simp] theorem setFr_twins (s : State) (n : Fin 24) (r : Fin 32) (v : Word64) : (setFr s n r v).twins = s.twins := rfl
@[simp] theorem setFr_xfifos (s : State) (n : Fin 24) (r : Fin 32) (v : Word64) : (setFr s n r v).xfifos = s.xfifos := rfl
@[simp] theorem setFr_resets (s : State) (n : Fin 24) (r : Fin 32) (v : Word64) : (setFr s n r v).resets = s.resets := rfl
@[simp] theorem setFr_faultQ (s : State) (n : Fin 24) (r : Fin 32) (v : Word64) : (setFr s n r v).faultQ = s.faultQ := rfl
@[simp] theorem setFr_faultLog (s : State) (n : Fin 24) (r : Fin 32) (v : Word64) : (setFr s n r v).faultLog = s.faultLog := rfl
@[simp] theorem setFr_wdogs (s : State) (n : Fin 24) (r : Fin 32) (v : Word64) : (setFr s n r v).wdogs = s.wdogs := rfl
@[simp] theorem setFr_doms (s : State) (n : Fin 24) (r : Fin 32) (v : Word64) : (setFr s n r v).doms = s.doms := rfl
@[simp] theorem setFr_l2s (s : State) (n : Fin 24) (r : Fin 32) (v : Word64) : (setFr s n r v).l2s = s.l2s := rfl
@[simp] theorem setFr_sc (s : State) (n : Fin 24) (r : Fin 32) (v : Word64) : (setFr s n r v).sc = s.sc := rfl
@[simp] theorem setFr_dram (s : State) (n : Fin 24) (r : Fin 32) (v : Word64) : (setFr s n r v).dram = s.dram := rfl
@[simp] theorem setFr_sram (s : State) (n : Fin 24) (r : Fin 32) (v : Word64) : (setFr s n r v).sram = s.sram := rfl
@[simp] theorem setFr_epoch (s : State) (n : Fin 24) (r : Fin 32) (v : Word64) : (setFr s n r v).epoch = s.epoch := rfl
@[simp] theorem setFr_engEpoch (s : State) (n : Fin 24) (r : Fin 32) (v : Word64) : (setFr s n r v).engEpoch = s.engEpoch := rfl
@[simp] theorem setFr_eeprom (s : State) (n : Fin 24) (r : Fin 32) (v : Word64) : (setFr s n r v).eeprom = s.eeprom := rfl
@[simp] theorem setFr_calib (s : State) (n : Fin 24) (r : Fin 32) (v : Word64) : (setFr s n r v).calib = s.calib := rfl
@[simp] theorem setFr_sage (s : State) (n : Fin 24) (r : Fin 32) (v : Word64) : (setFr s n r v).sage = s.sage := rfl
@[simp] theorem setFr_engines (s : State) (n : Fin 24) (r : Fin 32) (v : Word64) : (setFr s n r v).engines = s.engines := rfl
@[simp] theorem setFr_clusters (s : State) (n : Fin 24) (r : Fin 32) (v : Word64) : (setFr s n r v).clusters = s.clusters := rfl
@[simp] theorem setFr_movers (s : State) (n : Fin 24) (r : Fin 32) (v : Word64) : (setFr s n r v).movers = s.movers := rfl
@[simp] theorem setFr_cells (s : State) (n : Fin 24) (r : Fin 32) (v : Word64) : (setFr s n r v).cells = s.cells := rfl
@[simp] theorem setFr_tyl (s : State) (n : Fin 24) (r : Fin 32) (v : Word64) : (setFr s n r v).tyl = s.tyl := rfl
@[simp] theorem setFr_synt (s : State) (n : Fin 24) (r : Fin 32) (v : Word64) : (setFr s n r v).synt = s.synt := rfl
@[simp] theorem setFr_macs (s : State) (n : Fin 24) (r : Fin 32) (v : Word64) : (setFr s n r v).macs = s.macs := rfl
@[simp] theorem setFr_strms (s : State) (n : Fin 24) (r : Fin 32) (v : Word64) : (setFr s n r v).strms = s.strms := rfl
@[simp] theorem setFr_pcies (s : State) (n : Fin 24) (r : Fin 32) (v : Word64) : (setFr s n r v).pcies = s.pcies := rfl
@[simp] theorem setFr_pwr (s : State) (n : Fin 24) (r : Fin 32) (v : Word64) : (setFr s n r v).pwr = s.pwr := rfl
@[simp] theorem setFr_mari (s : State) (n : Fin 24) (r : Fin 32) (v : Word64) : (setFr s n r v).mari = s.mari := rfl
@[simp] theorem setFr_wakeL (s : State) (n : Fin 24) (r : Fin 32) (v : Word64) : (setFr s n r v).wakeL = s.wakeL := rfl
@[simp] theorem setFr_jtag (s : State) (n : Fin 24) (r : Fin 32) (v : Word64) : (setFr s n r v).jtag = s.jtag := rfl
@[simp] theorem setFr_bist (s : State) (n : Fin 24) (r : Fin 32) (v : Word64) : (setFr s n r v).bist = s.bist := rfl
@[simp] theorem setFr_verdict (s : State) (n : Fin 24) (r : Fin 32) (v : Word64) : (setFr s n r v).verdict = s.verdict := rfl
@[simp] theorem setFr_lanePll (s : State) (n : Fin 24) (r : Fin 32) (v : Word64) : (setFr s n r v).lanePll = s.lanePll := rfl

/-! ## setL2 -/

@[simp] theorem setL2_pending (s : State) (w la : Nat) (x : L2Line) : (setL2 s w la x).pending = s.pending := rfl
@[simp] theorem setL2_freeCtr (s : State) (w la : Nat) (x : L2Line) : (setL2 s w la x).freeCtr = s.freeCtr := rfl
@[simp] theorem setL2_dt (s : State) (w la : Nat) (x : L2Line) : (setL2 s w la x).dt = s.dt := rfl
@[simp] theorem setL2_regs (s : State) (w la : Nat) (x : L2Line) : (setL2 s w la x).regs = s.regs := rfl
@[simp] theorem setL2_clsGrant (s : State) (w la : Nat) (x : L2Line) : (setL2 s w la x).clsGrant = s.clsGrant := rfl
@[simp] theorem setL2_fab (s : State) (w la : Nat) (x : L2Line) : (setL2 s w la x).fab = s.fab := rfl
@[simp] theorem setL2_ic (s : State) (w la : Nat) (x : L2Line) : (setL2 s w la x).ic = s.ic := rfl
@[simp] theorem setL2_yoyos (s : State) (w la : Nat) (x : L2Line) : (setL2 s w la x).yoyos = s.yoyos := rfl
@[simp] theorem setL2_dtOff (s : State) (w la : Nat) (x : L2Line) : (setL2 s w la x).dtOff = s.dtOff := rfl
@[simp] theorem setL2_twins (s : State) (w la : Nat) (x : L2Line) : (setL2 s w la x).twins = s.twins := rfl
@[simp] theorem setL2_xfifos (s : State) (w la : Nat) (x : L2Line) : (setL2 s w la x).xfifos = s.xfifos := rfl
@[simp] theorem setL2_resets (s : State) (w la : Nat) (x : L2Line) : (setL2 s w la x).resets = s.resets := rfl
@[simp] theorem setL2_faultQ (s : State) (w la : Nat) (x : L2Line) : (setL2 s w la x).faultQ = s.faultQ := rfl
@[simp] theorem setL2_faultLog (s : State) (w la : Nat) (x : L2Line) : (setL2 s w la x).faultLog = s.faultLog := rfl
@[simp] theorem setL2_wdogs (s : State) (w la : Nat) (x : L2Line) : (setL2 s w la x).wdogs = s.wdogs := rfl
@[simp] theorem setL2_doms (s : State) (w la : Nat) (x : L2Line) : (setL2 s w la x).doms = s.doms := rfl
@[simp] theorem setL2_cores (s : State) (w la : Nat) (x : L2Line) : (setL2 s w la x).cores = s.cores := rfl
@[simp] theorem setL2_sc (s : State) (w la : Nat) (x : L2Line) : (setL2 s w la x).sc = s.sc := rfl
@[simp] theorem setL2_dram (s : State) (w la : Nat) (x : L2Line) : (setL2 s w la x).dram = s.dram := rfl
@[simp] theorem setL2_sram (s : State) (w la : Nat) (x : L2Line) : (setL2 s w la x).sram = s.sram := rfl
@[simp] theorem setL2_epoch (s : State) (w la : Nat) (x : L2Line) : (setL2 s w la x).epoch = s.epoch := rfl
@[simp] theorem setL2_engEpoch (s : State) (w la : Nat) (x : L2Line) : (setL2 s w la x).engEpoch = s.engEpoch := rfl
@[simp] theorem setL2_eeprom (s : State) (w la : Nat) (x : L2Line) : (setL2 s w la x).eeprom = s.eeprom := rfl
@[simp] theorem setL2_calib (s : State) (w la : Nat) (x : L2Line) : (setL2 s w la x).calib = s.calib := rfl
@[simp] theorem setL2_sage (s : State) (w la : Nat) (x : L2Line) : (setL2 s w la x).sage = s.sage := rfl
@[simp] theorem setL2_engines (s : State) (w la : Nat) (x : L2Line) : (setL2 s w la x).engines = s.engines := rfl
@[simp] theorem setL2_clusters (s : State) (w la : Nat) (x : L2Line) : (setL2 s w la x).clusters = s.clusters := rfl
@[simp] theorem setL2_movers (s : State) (w la : Nat) (x : L2Line) : (setL2 s w la x).movers = s.movers := rfl
@[simp] theorem setL2_cells (s : State) (w la : Nat) (x : L2Line) : (setL2 s w la x).cells = s.cells := rfl
@[simp] theorem setL2_tyl (s : State) (w la : Nat) (x : L2Line) : (setL2 s w la x).tyl = s.tyl := rfl
@[simp] theorem setL2_synt (s : State) (w la : Nat) (x : L2Line) : (setL2 s w la x).synt = s.synt := rfl
@[simp] theorem setL2_macs (s : State) (w la : Nat) (x : L2Line) : (setL2 s w la x).macs = s.macs := rfl
@[simp] theorem setL2_strms (s : State) (w la : Nat) (x : L2Line) : (setL2 s w la x).strms = s.strms := rfl
@[simp] theorem setL2_pcies (s : State) (w la : Nat) (x : L2Line) : (setL2 s w la x).pcies = s.pcies := rfl
@[simp] theorem setL2_pwr (s : State) (w la : Nat) (x : L2Line) : (setL2 s w la x).pwr = s.pwr := rfl
@[simp] theorem setL2_mari (s : State) (w la : Nat) (x : L2Line) : (setL2 s w la x).mari = s.mari := rfl
@[simp] theorem setL2_wakeL (s : State) (w la : Nat) (x : L2Line) : (setL2 s w la x).wakeL = s.wakeL := rfl
@[simp] theorem setL2_jtag (s : State) (w la : Nat) (x : L2Line) : (setL2 s w la x).jtag = s.jtag := rfl
@[simp] theorem setL2_bist (s : State) (w la : Nat) (x : L2Line) : (setL2 s w la x).bist = s.bist := rfl
@[simp] theorem setL2_verdict (s : State) (w la : Nat) (x : L2Line) : (setL2 s w la x).verdict = s.verdict := rfl
@[simp] theorem setL2_lanePll (s : State) (w la : Nat) (x : L2Line) : (setL2 s w la x).lanePll = s.lanePll := rfl

/-! ## updEng -/

@[simp] theorem updEng_pending (s : State) (e : Fin 512) (f : NgEngine → NgEngine) : (updEng s e f).pending = s.pending := rfl
@[simp] theorem updEng_freeCtr (s : State) (e : Fin 512) (f : NgEngine → NgEngine) : (updEng s e f).freeCtr = s.freeCtr := rfl
@[simp] theorem updEng_dt (s : State) (e : Fin 512) (f : NgEngine → NgEngine) : (updEng s e f).dt = s.dt := rfl
@[simp] theorem updEng_regs (s : State) (e : Fin 512) (f : NgEngine → NgEngine) : (updEng s e f).regs = s.regs := rfl
@[simp] theorem updEng_clsGrant (s : State) (e : Fin 512) (f : NgEngine → NgEngine) : (updEng s e f).clsGrant = s.clsGrant := rfl
@[simp] theorem updEng_fab (s : State) (e : Fin 512) (f : NgEngine → NgEngine) : (updEng s e f).fab = s.fab := rfl
@[simp] theorem updEng_ic (s : State) (e : Fin 512) (f : NgEngine → NgEngine) : (updEng s e f).ic = s.ic := rfl
@[simp] theorem updEng_yoyos (s : State) (e : Fin 512) (f : NgEngine → NgEngine) : (updEng s e f).yoyos = s.yoyos := rfl
@[simp] theorem updEng_dtOff (s : State) (e : Fin 512) (f : NgEngine → NgEngine) : (updEng s e f).dtOff = s.dtOff := rfl
@[simp] theorem updEng_twins (s : State) (e : Fin 512) (f : NgEngine → NgEngine) : (updEng s e f).twins = s.twins := rfl
@[simp] theorem updEng_xfifos (s : State) (e : Fin 512) (f : NgEngine → NgEngine) : (updEng s e f).xfifos = s.xfifos := rfl
@[simp] theorem updEng_resets (s : State) (e : Fin 512) (f : NgEngine → NgEngine) : (updEng s e f).resets = s.resets := rfl
@[simp] theorem updEng_faultQ (s : State) (e : Fin 512) (f : NgEngine → NgEngine) : (updEng s e f).faultQ = s.faultQ := rfl
@[simp] theorem updEng_faultLog (s : State) (e : Fin 512) (f : NgEngine → NgEngine) : (updEng s e f).faultLog = s.faultLog := rfl
@[simp] theorem updEng_wdogs (s : State) (e : Fin 512) (f : NgEngine → NgEngine) : (updEng s e f).wdogs = s.wdogs := rfl
@[simp] theorem updEng_doms (s : State) (e : Fin 512) (f : NgEngine → NgEngine) : (updEng s e f).doms = s.doms := rfl
@[simp] theorem updEng_cores (s : State) (e : Fin 512) (f : NgEngine → NgEngine) : (updEng s e f).cores = s.cores := rfl
@[simp] theorem updEng_l2s (s : State) (e : Fin 512) (f : NgEngine → NgEngine) : (updEng s e f).l2s = s.l2s := rfl
@[simp] theorem updEng_sc (s : State) (e : Fin 512) (f : NgEngine → NgEngine) : (updEng s e f).sc = s.sc := rfl
@[simp] theorem updEng_dram (s : State) (e : Fin 512) (f : NgEngine → NgEngine) : (updEng s e f).dram = s.dram := rfl
@[simp] theorem updEng_sram (s : State) (e : Fin 512) (f : NgEngine → NgEngine) : (updEng s e f).sram = s.sram := rfl
@[simp] theorem updEng_epoch (s : State) (e : Fin 512) (f : NgEngine → NgEngine) : (updEng s e f).epoch = s.epoch := rfl
@[simp] theorem updEng_engEpoch (s : State) (e : Fin 512) (f : NgEngine → NgEngine) : (updEng s e f).engEpoch = s.engEpoch := rfl
@[simp] theorem updEng_eeprom (s : State) (e : Fin 512) (f : NgEngine → NgEngine) : (updEng s e f).eeprom = s.eeprom := rfl
@[simp] theorem updEng_calib (s : State) (e : Fin 512) (f : NgEngine → NgEngine) : (updEng s e f).calib = s.calib := rfl
@[simp] theorem updEng_sage (s : State) (e : Fin 512) (f : NgEngine → NgEngine) : (updEng s e f).sage = s.sage := rfl
@[simp] theorem updEng_clusters (s : State) (e : Fin 512) (f : NgEngine → NgEngine) : (updEng s e f).clusters = s.clusters := rfl
@[simp] theorem updEng_movers (s : State) (e : Fin 512) (f : NgEngine → NgEngine) : (updEng s e f).movers = s.movers := rfl
@[simp] theorem updEng_cells (s : State) (e : Fin 512) (f : NgEngine → NgEngine) : (updEng s e f).cells = s.cells := rfl
@[simp] theorem updEng_tyl (s : State) (e : Fin 512) (f : NgEngine → NgEngine) : (updEng s e f).tyl = s.tyl := rfl
@[simp] theorem updEng_synt (s : State) (e : Fin 512) (f : NgEngine → NgEngine) : (updEng s e f).synt = s.synt := rfl
@[simp] theorem updEng_macs (s : State) (e : Fin 512) (f : NgEngine → NgEngine) : (updEng s e f).macs = s.macs := rfl
@[simp] theorem updEng_strms (s : State) (e : Fin 512) (f : NgEngine → NgEngine) : (updEng s e f).strms = s.strms := rfl
@[simp] theorem updEng_pcies (s : State) (e : Fin 512) (f : NgEngine → NgEngine) : (updEng s e f).pcies = s.pcies := rfl
@[simp] theorem updEng_pwr (s : State) (e : Fin 512) (f : NgEngine → NgEngine) : (updEng s e f).pwr = s.pwr := rfl
@[simp] theorem updEng_mari (s : State) (e : Fin 512) (f : NgEngine → NgEngine) : (updEng s e f).mari = s.mari := rfl
@[simp] theorem updEng_wakeL (s : State) (e : Fin 512) (f : NgEngine → NgEngine) : (updEng s e f).wakeL = s.wakeL := rfl
@[simp] theorem updEng_jtag (s : State) (e : Fin 512) (f : NgEngine → NgEngine) : (updEng s e f).jtag = s.jtag := rfl
@[simp] theorem updEng_bist (s : State) (e : Fin 512) (f : NgEngine → NgEngine) : (updEng s e f).bist = s.bist := rfl
@[simp] theorem updEng_verdict (s : State) (e : Fin 512) (f : NgEngine → NgEngine) : (updEng s e f).verdict = s.verdict := rfl
@[simp] theorem updEng_lanePll (s : State) (e : Fin 512) (f : NgEngine → NgEngine) : (updEng s e f).lanePll = s.lanePll := rfl

/-! ## updThr -/

@[simp] theorem updThr_pending (s : State) (e : Fin 512) (t : Fin 4) (f : NgThread → NgThread) : (updThr s e t f).pending = s.pending := rfl
@[simp] theorem updThr_freeCtr (s : State) (e : Fin 512) (t : Fin 4) (f : NgThread → NgThread) : (updThr s e t f).freeCtr = s.freeCtr := rfl
@[simp] theorem updThr_dt (s : State) (e : Fin 512) (t : Fin 4) (f : NgThread → NgThread) : (updThr s e t f).dt = s.dt := rfl
@[simp] theorem updThr_regs (s : State) (e : Fin 512) (t : Fin 4) (f : NgThread → NgThread) : (updThr s e t f).regs = s.regs := rfl
@[simp] theorem updThr_clsGrant (s : State) (e : Fin 512) (t : Fin 4) (f : NgThread → NgThread) : (updThr s e t f).clsGrant = s.clsGrant := rfl
@[simp] theorem updThr_fab (s : State) (e : Fin 512) (t : Fin 4) (f : NgThread → NgThread) : (updThr s e t f).fab = s.fab := rfl
@[simp] theorem updThr_ic (s : State) (e : Fin 512) (t : Fin 4) (f : NgThread → NgThread) : (updThr s e t f).ic = s.ic := rfl
@[simp] theorem updThr_yoyos (s : State) (e : Fin 512) (t : Fin 4) (f : NgThread → NgThread) : (updThr s e t f).yoyos = s.yoyos := rfl
@[simp] theorem updThr_dtOff (s : State) (e : Fin 512) (t : Fin 4) (f : NgThread → NgThread) : (updThr s e t f).dtOff = s.dtOff := rfl
@[simp] theorem updThr_twins (s : State) (e : Fin 512) (t : Fin 4) (f : NgThread → NgThread) : (updThr s e t f).twins = s.twins := rfl
@[simp] theorem updThr_xfifos (s : State) (e : Fin 512) (t : Fin 4) (f : NgThread → NgThread) : (updThr s e t f).xfifos = s.xfifos := rfl
@[simp] theorem updThr_resets (s : State) (e : Fin 512) (t : Fin 4) (f : NgThread → NgThread) : (updThr s e t f).resets = s.resets := rfl
@[simp] theorem updThr_faultQ (s : State) (e : Fin 512) (t : Fin 4) (f : NgThread → NgThread) : (updThr s e t f).faultQ = s.faultQ := rfl
@[simp] theorem updThr_faultLog (s : State) (e : Fin 512) (t : Fin 4) (f : NgThread → NgThread) : (updThr s e t f).faultLog = s.faultLog := rfl
@[simp] theorem updThr_wdogs (s : State) (e : Fin 512) (t : Fin 4) (f : NgThread → NgThread) : (updThr s e t f).wdogs = s.wdogs := rfl
@[simp] theorem updThr_doms (s : State) (e : Fin 512) (t : Fin 4) (f : NgThread → NgThread) : (updThr s e t f).doms = s.doms := rfl
@[simp] theorem updThr_cores (s : State) (e : Fin 512) (t : Fin 4) (f : NgThread → NgThread) : (updThr s e t f).cores = s.cores := rfl
@[simp] theorem updThr_l2s (s : State) (e : Fin 512) (t : Fin 4) (f : NgThread → NgThread) : (updThr s e t f).l2s = s.l2s := rfl
@[simp] theorem updThr_sc (s : State) (e : Fin 512) (t : Fin 4) (f : NgThread → NgThread) : (updThr s e t f).sc = s.sc := rfl
@[simp] theorem updThr_dram (s : State) (e : Fin 512) (t : Fin 4) (f : NgThread → NgThread) : (updThr s e t f).dram = s.dram := rfl
@[simp] theorem updThr_sram (s : State) (e : Fin 512) (t : Fin 4) (f : NgThread → NgThread) : (updThr s e t f).sram = s.sram := rfl
@[simp] theorem updThr_epoch (s : State) (e : Fin 512) (t : Fin 4) (f : NgThread → NgThread) : (updThr s e t f).epoch = s.epoch := rfl
@[simp] theorem updThr_engEpoch (s : State) (e : Fin 512) (t : Fin 4) (f : NgThread → NgThread) : (updThr s e t f).engEpoch = s.engEpoch := rfl
@[simp] theorem updThr_eeprom (s : State) (e : Fin 512) (t : Fin 4) (f : NgThread → NgThread) : (updThr s e t f).eeprom = s.eeprom := rfl
@[simp] theorem updThr_calib (s : State) (e : Fin 512) (t : Fin 4) (f : NgThread → NgThread) : (updThr s e t f).calib = s.calib := rfl
@[simp] theorem updThr_sage (s : State) (e : Fin 512) (t : Fin 4) (f : NgThread → NgThread) : (updThr s e t f).sage = s.sage := rfl
@[simp] theorem updThr_clusters (s : State) (e : Fin 512) (t : Fin 4) (f : NgThread → NgThread) : (updThr s e t f).clusters = s.clusters := rfl
@[simp] theorem updThr_movers (s : State) (e : Fin 512) (t : Fin 4) (f : NgThread → NgThread) : (updThr s e t f).movers = s.movers := rfl
@[simp] theorem updThr_cells (s : State) (e : Fin 512) (t : Fin 4) (f : NgThread → NgThread) : (updThr s e t f).cells = s.cells := rfl
@[simp] theorem updThr_tyl (s : State) (e : Fin 512) (t : Fin 4) (f : NgThread → NgThread) : (updThr s e t f).tyl = s.tyl := rfl
@[simp] theorem updThr_synt (s : State) (e : Fin 512) (t : Fin 4) (f : NgThread → NgThread) : (updThr s e t f).synt = s.synt := rfl
@[simp] theorem updThr_macs (s : State) (e : Fin 512) (t : Fin 4) (f : NgThread → NgThread) : (updThr s e t f).macs = s.macs := rfl
@[simp] theorem updThr_strms (s : State) (e : Fin 512) (t : Fin 4) (f : NgThread → NgThread) : (updThr s e t f).strms = s.strms := rfl
@[simp] theorem updThr_pcies (s : State) (e : Fin 512) (t : Fin 4) (f : NgThread → NgThread) : (updThr s e t f).pcies = s.pcies := rfl
@[simp] theorem updThr_pwr (s : State) (e : Fin 512) (t : Fin 4) (f : NgThread → NgThread) : (updThr s e t f).pwr = s.pwr := rfl
@[simp] theorem updThr_mari (s : State) (e : Fin 512) (t : Fin 4) (f : NgThread → NgThread) : (updThr s e t f).mari = s.mari := rfl
@[simp] theorem updThr_wakeL (s : State) (e : Fin 512) (t : Fin 4) (f : NgThread → NgThread) : (updThr s e t f).wakeL = s.wakeL := rfl
@[simp] theorem updThr_jtag (s : State) (e : Fin 512) (t : Fin 4) (f : NgThread → NgThread) : (updThr s e t f).jtag = s.jtag := rfl
@[simp] theorem updThr_bist (s : State) (e : Fin 512) (t : Fin 4) (f : NgThread → NgThread) : (updThr s e t f).bist = s.bist := rfl
@[simp] theorem updThr_verdict (s : State) (e : Fin 512) (t : Fin 4) (f : NgThread → NgThread) : (updThr s e t f).verdict = s.verdict := rfl
@[simp] theorem updThr_lanePll (s : State) (e : Fin 512) (t : Fin 4) (f : NgThread → NgThread) : (updThr s e t f).lanePll = s.lanePll := rfl

/-! ## updClu -/

@[simp] theorem updClu_pending (s : State) (k : Fin 32) (f : NgCluster → NgCluster) : (updClu s k f).pending = s.pending := rfl
@[simp] theorem updClu_freeCtr (s : State) (k : Fin 32) (f : NgCluster → NgCluster) : (updClu s k f).freeCtr = s.freeCtr := rfl
@[simp] theorem updClu_dt (s : State) (k : Fin 32) (f : NgCluster → NgCluster) : (updClu s k f).dt = s.dt := rfl
@[simp] theorem updClu_regs (s : State) (k : Fin 32) (f : NgCluster → NgCluster) : (updClu s k f).regs = s.regs := rfl
@[simp] theorem updClu_clsGrant (s : State) (k : Fin 32) (f : NgCluster → NgCluster) : (updClu s k f).clsGrant = s.clsGrant := rfl
@[simp] theorem updClu_fab (s : State) (k : Fin 32) (f : NgCluster → NgCluster) : (updClu s k f).fab = s.fab := rfl
@[simp] theorem updClu_ic (s : State) (k : Fin 32) (f : NgCluster → NgCluster) : (updClu s k f).ic = s.ic := rfl
@[simp] theorem updClu_yoyos (s : State) (k : Fin 32) (f : NgCluster → NgCluster) : (updClu s k f).yoyos = s.yoyos := rfl
@[simp] theorem updClu_dtOff (s : State) (k : Fin 32) (f : NgCluster → NgCluster) : (updClu s k f).dtOff = s.dtOff := rfl
@[simp] theorem updClu_twins (s : State) (k : Fin 32) (f : NgCluster → NgCluster) : (updClu s k f).twins = s.twins := rfl
@[simp] theorem updClu_xfifos (s : State) (k : Fin 32) (f : NgCluster → NgCluster) : (updClu s k f).xfifos = s.xfifos := rfl
@[simp] theorem updClu_resets (s : State) (k : Fin 32) (f : NgCluster → NgCluster) : (updClu s k f).resets = s.resets := rfl
@[simp] theorem updClu_faultQ (s : State) (k : Fin 32) (f : NgCluster → NgCluster) : (updClu s k f).faultQ = s.faultQ := rfl
@[simp] theorem updClu_faultLog (s : State) (k : Fin 32) (f : NgCluster → NgCluster) : (updClu s k f).faultLog = s.faultLog := rfl
@[simp] theorem updClu_wdogs (s : State) (k : Fin 32) (f : NgCluster → NgCluster) : (updClu s k f).wdogs = s.wdogs := rfl
@[simp] theorem updClu_doms (s : State) (k : Fin 32) (f : NgCluster → NgCluster) : (updClu s k f).doms = s.doms := rfl
@[simp] theorem updClu_cores (s : State) (k : Fin 32) (f : NgCluster → NgCluster) : (updClu s k f).cores = s.cores := rfl
@[simp] theorem updClu_l2s (s : State) (k : Fin 32) (f : NgCluster → NgCluster) : (updClu s k f).l2s = s.l2s := rfl
@[simp] theorem updClu_sc (s : State) (k : Fin 32) (f : NgCluster → NgCluster) : (updClu s k f).sc = s.sc := rfl
@[simp] theorem updClu_dram (s : State) (k : Fin 32) (f : NgCluster → NgCluster) : (updClu s k f).dram = s.dram := rfl
@[simp] theorem updClu_sram (s : State) (k : Fin 32) (f : NgCluster → NgCluster) : (updClu s k f).sram = s.sram := rfl
@[simp] theorem updClu_epoch (s : State) (k : Fin 32) (f : NgCluster → NgCluster) : (updClu s k f).epoch = s.epoch := rfl
@[simp] theorem updClu_engEpoch (s : State) (k : Fin 32) (f : NgCluster → NgCluster) : (updClu s k f).engEpoch = s.engEpoch := rfl
@[simp] theorem updClu_eeprom (s : State) (k : Fin 32) (f : NgCluster → NgCluster) : (updClu s k f).eeprom = s.eeprom := rfl
@[simp] theorem updClu_calib (s : State) (k : Fin 32) (f : NgCluster → NgCluster) : (updClu s k f).calib = s.calib := rfl
@[simp] theorem updClu_sage (s : State) (k : Fin 32) (f : NgCluster → NgCluster) : (updClu s k f).sage = s.sage := rfl
@[simp] theorem updClu_engines (s : State) (k : Fin 32) (f : NgCluster → NgCluster) : (updClu s k f).engines = s.engines := rfl
@[simp] theorem updClu_movers (s : State) (k : Fin 32) (f : NgCluster → NgCluster) : (updClu s k f).movers = s.movers := rfl
@[simp] theorem updClu_cells (s : State) (k : Fin 32) (f : NgCluster → NgCluster) : (updClu s k f).cells = s.cells := rfl
@[simp] theorem updClu_tyl (s : State) (k : Fin 32) (f : NgCluster → NgCluster) : (updClu s k f).tyl = s.tyl := rfl
@[simp] theorem updClu_synt (s : State) (k : Fin 32) (f : NgCluster → NgCluster) : (updClu s k f).synt = s.synt := rfl
@[simp] theorem updClu_macs (s : State) (k : Fin 32) (f : NgCluster → NgCluster) : (updClu s k f).macs = s.macs := rfl
@[simp] theorem updClu_strms (s : State) (k : Fin 32) (f : NgCluster → NgCluster) : (updClu s k f).strms = s.strms := rfl
@[simp] theorem updClu_pcies (s : State) (k : Fin 32) (f : NgCluster → NgCluster) : (updClu s k f).pcies = s.pcies := rfl
@[simp] theorem updClu_pwr (s : State) (k : Fin 32) (f : NgCluster → NgCluster) : (updClu s k f).pwr = s.pwr := rfl
@[simp] theorem updClu_mari (s : State) (k : Fin 32) (f : NgCluster → NgCluster) : (updClu s k f).mari = s.mari := rfl
@[simp] theorem updClu_wakeL (s : State) (k : Fin 32) (f : NgCluster → NgCluster) : (updClu s k f).wakeL = s.wakeL := rfl
@[simp] theorem updClu_jtag (s : State) (k : Fin 32) (f : NgCluster → NgCluster) : (updClu s k f).jtag = s.jtag := rfl
@[simp] theorem updClu_bist (s : State) (k : Fin 32) (f : NgCluster → NgCluster) : (updClu s k f).bist = s.bist := rfl
@[simp] theorem updClu_verdict (s : State) (k : Fin 32) (f : NgCluster → NgCluster) : (updClu s k f).verdict = s.verdict := rfl
@[simp] theorem updClu_lanePll (s : State) (k : Fin 32) (f : NgCluster → NgCluster) : (updClu s k f).lanePll = s.lanePll := rfl

/-! ## updMov -/

@[simp] theorem updMov_pending (s : State) (m : Fin 256) (f : MoverRec → MoverRec) : (updMov s m f).pending = s.pending := rfl
@[simp] theorem updMov_freeCtr (s : State) (m : Fin 256) (f : MoverRec → MoverRec) : (updMov s m f).freeCtr = s.freeCtr := rfl
@[simp] theorem updMov_dt (s : State) (m : Fin 256) (f : MoverRec → MoverRec) : (updMov s m f).dt = s.dt := rfl
@[simp] theorem updMov_regs (s : State) (m : Fin 256) (f : MoverRec → MoverRec) : (updMov s m f).regs = s.regs := rfl
@[simp] theorem updMov_clsGrant (s : State) (m : Fin 256) (f : MoverRec → MoverRec) : (updMov s m f).clsGrant = s.clsGrant := rfl
@[simp] theorem updMov_fab (s : State) (m : Fin 256) (f : MoverRec → MoverRec) : (updMov s m f).fab = s.fab := rfl
@[simp] theorem updMov_ic (s : State) (m : Fin 256) (f : MoverRec → MoverRec) : (updMov s m f).ic = s.ic := rfl
@[simp] theorem updMov_yoyos (s : State) (m : Fin 256) (f : MoverRec → MoverRec) : (updMov s m f).yoyos = s.yoyos := rfl
@[simp] theorem updMov_dtOff (s : State) (m : Fin 256) (f : MoverRec → MoverRec) : (updMov s m f).dtOff = s.dtOff := rfl
@[simp] theorem updMov_twins (s : State) (m : Fin 256) (f : MoverRec → MoverRec) : (updMov s m f).twins = s.twins := rfl
@[simp] theorem updMov_xfifos (s : State) (m : Fin 256) (f : MoverRec → MoverRec) : (updMov s m f).xfifos = s.xfifos := rfl
@[simp] theorem updMov_resets (s : State) (m : Fin 256) (f : MoverRec → MoverRec) : (updMov s m f).resets = s.resets := rfl
@[simp] theorem updMov_faultQ (s : State) (m : Fin 256) (f : MoverRec → MoverRec) : (updMov s m f).faultQ = s.faultQ := rfl
@[simp] theorem updMov_faultLog (s : State) (m : Fin 256) (f : MoverRec → MoverRec) : (updMov s m f).faultLog = s.faultLog := rfl
@[simp] theorem updMov_wdogs (s : State) (m : Fin 256) (f : MoverRec → MoverRec) : (updMov s m f).wdogs = s.wdogs := rfl
@[simp] theorem updMov_doms (s : State) (m : Fin 256) (f : MoverRec → MoverRec) : (updMov s m f).doms = s.doms := rfl
@[simp] theorem updMov_cores (s : State) (m : Fin 256) (f : MoverRec → MoverRec) : (updMov s m f).cores = s.cores := rfl
@[simp] theorem updMov_l2s (s : State) (m : Fin 256) (f : MoverRec → MoverRec) : (updMov s m f).l2s = s.l2s := rfl
@[simp] theorem updMov_sc (s : State) (m : Fin 256) (f : MoverRec → MoverRec) : (updMov s m f).sc = s.sc := rfl
@[simp] theorem updMov_dram (s : State) (m : Fin 256) (f : MoverRec → MoverRec) : (updMov s m f).dram = s.dram := rfl
@[simp] theorem updMov_sram (s : State) (m : Fin 256) (f : MoverRec → MoverRec) : (updMov s m f).sram = s.sram := rfl
@[simp] theorem updMov_epoch (s : State) (m : Fin 256) (f : MoverRec → MoverRec) : (updMov s m f).epoch = s.epoch := rfl
@[simp] theorem updMov_engEpoch (s : State) (m : Fin 256) (f : MoverRec → MoverRec) : (updMov s m f).engEpoch = s.engEpoch := rfl
@[simp] theorem updMov_eeprom (s : State) (m : Fin 256) (f : MoverRec → MoverRec) : (updMov s m f).eeprom = s.eeprom := rfl
@[simp] theorem updMov_calib (s : State) (m : Fin 256) (f : MoverRec → MoverRec) : (updMov s m f).calib = s.calib := rfl
@[simp] theorem updMov_sage (s : State) (m : Fin 256) (f : MoverRec → MoverRec) : (updMov s m f).sage = s.sage := rfl
@[simp] theorem updMov_engines (s : State) (m : Fin 256) (f : MoverRec → MoverRec) : (updMov s m f).engines = s.engines := rfl
@[simp] theorem updMov_clusters (s : State) (m : Fin 256) (f : MoverRec → MoverRec) : (updMov s m f).clusters = s.clusters := rfl
@[simp] theorem updMov_cells (s : State) (m : Fin 256) (f : MoverRec → MoverRec) : (updMov s m f).cells = s.cells := rfl
@[simp] theorem updMov_tyl (s : State) (m : Fin 256) (f : MoverRec → MoverRec) : (updMov s m f).tyl = s.tyl := rfl
@[simp] theorem updMov_synt (s : State) (m : Fin 256) (f : MoverRec → MoverRec) : (updMov s m f).synt = s.synt := rfl
@[simp] theorem updMov_macs (s : State) (m : Fin 256) (f : MoverRec → MoverRec) : (updMov s m f).macs = s.macs := rfl
@[simp] theorem updMov_strms (s : State) (m : Fin 256) (f : MoverRec → MoverRec) : (updMov s m f).strms = s.strms := rfl
@[simp] theorem updMov_pcies (s : State) (m : Fin 256) (f : MoverRec → MoverRec) : (updMov s m f).pcies = s.pcies := rfl
@[simp] theorem updMov_pwr (s : State) (m : Fin 256) (f : MoverRec → MoverRec) : (updMov s m f).pwr = s.pwr := rfl
@[simp] theorem updMov_mari (s : State) (m : Fin 256) (f : MoverRec → MoverRec) : (updMov s m f).mari = s.mari := rfl
@[simp] theorem updMov_wakeL (s : State) (m : Fin 256) (f : MoverRec → MoverRec) : (updMov s m f).wakeL = s.wakeL := rfl
@[simp] theorem updMov_jtag (s : State) (m : Fin 256) (f : MoverRec → MoverRec) : (updMov s m f).jtag = s.jtag := rfl
@[simp] theorem updMov_bist (s : State) (m : Fin 256) (f : MoverRec → MoverRec) : (updMov s m f).bist = s.bist := rfl
@[simp] theorem updMov_verdict (s : State) (m : Fin 256) (f : MoverRec → MoverRec) : (updMov s m f).verdict = s.verdict := rfl
@[simp] theorem updMov_lanePll (s : State) (m : Fin 256) (f : MoverRec → MoverRec) : (updMov s m f).lanePll = s.lanePll := rfl

/-! ## updCell -/

@[simp] theorem updCell_pending (s : State) (n : Fin 256) (f : Cell → Cell) : (updCell s n f).pending = s.pending := rfl
@[simp] theorem updCell_freeCtr (s : State) (n : Fin 256) (f : Cell → Cell) : (updCell s n f).freeCtr = s.freeCtr := rfl
@[simp] theorem updCell_dt (s : State) (n : Fin 256) (f : Cell → Cell) : (updCell s n f).dt = s.dt := rfl
@[simp] theorem updCell_regs (s : State) (n : Fin 256) (f : Cell → Cell) : (updCell s n f).regs = s.regs := rfl
@[simp] theorem updCell_clsGrant (s : State) (n : Fin 256) (f : Cell → Cell) : (updCell s n f).clsGrant = s.clsGrant := rfl
@[simp] theorem updCell_fab (s : State) (n : Fin 256) (f : Cell → Cell) : (updCell s n f).fab = s.fab := rfl
@[simp] theorem updCell_ic (s : State) (n : Fin 256) (f : Cell → Cell) : (updCell s n f).ic = s.ic := rfl
@[simp] theorem updCell_yoyos (s : State) (n : Fin 256) (f : Cell → Cell) : (updCell s n f).yoyos = s.yoyos := rfl
@[simp] theorem updCell_dtOff (s : State) (n : Fin 256) (f : Cell → Cell) : (updCell s n f).dtOff = s.dtOff := rfl
@[simp] theorem updCell_twins (s : State) (n : Fin 256) (f : Cell → Cell) : (updCell s n f).twins = s.twins := rfl
@[simp] theorem updCell_xfifos (s : State) (n : Fin 256) (f : Cell → Cell) : (updCell s n f).xfifos = s.xfifos := rfl
@[simp] theorem updCell_resets (s : State) (n : Fin 256) (f : Cell → Cell) : (updCell s n f).resets = s.resets := rfl
@[simp] theorem updCell_faultQ (s : State) (n : Fin 256) (f : Cell → Cell) : (updCell s n f).faultQ = s.faultQ := rfl
@[simp] theorem updCell_faultLog (s : State) (n : Fin 256) (f : Cell → Cell) : (updCell s n f).faultLog = s.faultLog := rfl
@[simp] theorem updCell_wdogs (s : State) (n : Fin 256) (f : Cell → Cell) : (updCell s n f).wdogs = s.wdogs := rfl
@[simp] theorem updCell_doms (s : State) (n : Fin 256) (f : Cell → Cell) : (updCell s n f).doms = s.doms := rfl
@[simp] theorem updCell_cores (s : State) (n : Fin 256) (f : Cell → Cell) : (updCell s n f).cores = s.cores := rfl
@[simp] theorem updCell_l2s (s : State) (n : Fin 256) (f : Cell → Cell) : (updCell s n f).l2s = s.l2s := rfl
@[simp] theorem updCell_sc (s : State) (n : Fin 256) (f : Cell → Cell) : (updCell s n f).sc = s.sc := rfl
@[simp] theorem updCell_dram (s : State) (n : Fin 256) (f : Cell → Cell) : (updCell s n f).dram = s.dram := rfl
@[simp] theorem updCell_sram (s : State) (n : Fin 256) (f : Cell → Cell) : (updCell s n f).sram = s.sram := rfl
@[simp] theorem updCell_epoch (s : State) (n : Fin 256) (f : Cell → Cell) : (updCell s n f).epoch = s.epoch := rfl
@[simp] theorem updCell_engEpoch (s : State) (n : Fin 256) (f : Cell → Cell) : (updCell s n f).engEpoch = s.engEpoch := rfl
@[simp] theorem updCell_eeprom (s : State) (n : Fin 256) (f : Cell → Cell) : (updCell s n f).eeprom = s.eeprom := rfl
@[simp] theorem updCell_calib (s : State) (n : Fin 256) (f : Cell → Cell) : (updCell s n f).calib = s.calib := rfl
@[simp] theorem updCell_sage (s : State) (n : Fin 256) (f : Cell → Cell) : (updCell s n f).sage = s.sage := rfl
@[simp] theorem updCell_engines (s : State) (n : Fin 256) (f : Cell → Cell) : (updCell s n f).engines = s.engines := rfl
@[simp] theorem updCell_clusters (s : State) (n : Fin 256) (f : Cell → Cell) : (updCell s n f).clusters = s.clusters := rfl
@[simp] theorem updCell_movers (s : State) (n : Fin 256) (f : Cell → Cell) : (updCell s n f).movers = s.movers := rfl
@[simp] theorem updCell_tyl (s : State) (n : Fin 256) (f : Cell → Cell) : (updCell s n f).tyl = s.tyl := rfl
@[simp] theorem updCell_synt (s : State) (n : Fin 256) (f : Cell → Cell) : (updCell s n f).synt = s.synt := rfl
@[simp] theorem updCell_macs (s : State) (n : Fin 256) (f : Cell → Cell) : (updCell s n f).macs = s.macs := rfl
@[simp] theorem updCell_strms (s : State) (n : Fin 256) (f : Cell → Cell) : (updCell s n f).strms = s.strms := rfl
@[simp] theorem updCell_pcies (s : State) (n : Fin 256) (f : Cell → Cell) : (updCell s n f).pcies = s.pcies := rfl
@[simp] theorem updCell_pwr (s : State) (n : Fin 256) (f : Cell → Cell) : (updCell s n f).pwr = s.pwr := rfl
@[simp] theorem updCell_mari (s : State) (n : Fin 256) (f : Cell → Cell) : (updCell s n f).mari = s.mari := rfl
@[simp] theorem updCell_wakeL (s : State) (n : Fin 256) (f : Cell → Cell) : (updCell s n f).wakeL = s.wakeL := rfl
@[simp] theorem updCell_jtag (s : State) (n : Fin 256) (f : Cell → Cell) : (updCell s n f).jtag = s.jtag := rfl
@[simp] theorem updCell_bist (s : State) (n : Fin 256) (f : Cell → Cell) : (updCell s n f).bist = s.bist := rfl
@[simp] theorem updCell_verdict (s : State) (n : Fin 256) (f : Cell → Cell) : (updCell s n f).verdict = s.verdict := rfl
@[simp] theorem updCell_lanePll (s : State) (n : Fin 256) (f : Cell → Cell) : (updCell s n f).lanePll = s.lanePll := rfl

/-! ## updDom -/

@[simp] theorem updDom_pending (s : State) (d : Nat) (f : DomRec → DomRec) : (updDom s d f).pending = s.pending := rfl
@[simp] theorem updDom_freeCtr (s : State) (d : Nat) (f : DomRec → DomRec) : (updDom s d f).freeCtr = s.freeCtr := rfl
@[simp] theorem updDom_dt (s : State) (d : Nat) (f : DomRec → DomRec) : (updDom s d f).dt = s.dt := rfl
@[simp] theorem updDom_regs (s : State) (d : Nat) (f : DomRec → DomRec) : (updDom s d f).regs = s.regs := rfl
@[simp] theorem updDom_clsGrant (s : State) (d : Nat) (f : DomRec → DomRec) : (updDom s d f).clsGrant = s.clsGrant := rfl
@[simp] theorem updDom_fab (s : State) (d : Nat) (f : DomRec → DomRec) : (updDom s d f).fab = s.fab := rfl
@[simp] theorem updDom_ic (s : State) (d : Nat) (f : DomRec → DomRec) : (updDom s d f).ic = s.ic := rfl
@[simp] theorem updDom_yoyos (s : State) (d : Nat) (f : DomRec → DomRec) : (updDom s d f).yoyos = s.yoyos := rfl
@[simp] theorem updDom_dtOff (s : State) (d : Nat) (f : DomRec → DomRec) : (updDom s d f).dtOff = s.dtOff := rfl
@[simp] theorem updDom_twins (s : State) (d : Nat) (f : DomRec → DomRec) : (updDom s d f).twins = s.twins := rfl
@[simp] theorem updDom_xfifos (s : State) (d : Nat) (f : DomRec → DomRec) : (updDom s d f).xfifos = s.xfifos := rfl
@[simp] theorem updDom_resets (s : State) (d : Nat) (f : DomRec → DomRec) : (updDom s d f).resets = s.resets := rfl
@[simp] theorem updDom_faultQ (s : State) (d : Nat) (f : DomRec → DomRec) : (updDom s d f).faultQ = s.faultQ := rfl
@[simp] theorem updDom_faultLog (s : State) (d : Nat) (f : DomRec → DomRec) : (updDom s d f).faultLog = s.faultLog := rfl
@[simp] theorem updDom_wdogs (s : State) (d : Nat) (f : DomRec → DomRec) : (updDom s d f).wdogs = s.wdogs := rfl
@[simp] theorem updDom_cores (s : State) (d : Nat) (f : DomRec → DomRec) : (updDom s d f).cores = s.cores := rfl
@[simp] theorem updDom_l2s (s : State) (d : Nat) (f : DomRec → DomRec) : (updDom s d f).l2s = s.l2s := rfl
@[simp] theorem updDom_sc (s : State) (d : Nat) (f : DomRec → DomRec) : (updDom s d f).sc = s.sc := rfl
@[simp] theorem updDom_dram (s : State) (d : Nat) (f : DomRec → DomRec) : (updDom s d f).dram = s.dram := rfl
@[simp] theorem updDom_sram (s : State) (d : Nat) (f : DomRec → DomRec) : (updDom s d f).sram = s.sram := rfl
@[simp] theorem updDom_epoch (s : State) (d : Nat) (f : DomRec → DomRec) : (updDom s d f).epoch = s.epoch := rfl
@[simp] theorem updDom_engEpoch (s : State) (d : Nat) (f : DomRec → DomRec) : (updDom s d f).engEpoch = s.engEpoch := rfl
@[simp] theorem updDom_eeprom (s : State) (d : Nat) (f : DomRec → DomRec) : (updDom s d f).eeprom = s.eeprom := rfl
@[simp] theorem updDom_calib (s : State) (d : Nat) (f : DomRec → DomRec) : (updDom s d f).calib = s.calib := rfl
@[simp] theorem updDom_sage (s : State) (d : Nat) (f : DomRec → DomRec) : (updDom s d f).sage = s.sage := rfl
@[simp] theorem updDom_engines (s : State) (d : Nat) (f : DomRec → DomRec) : (updDom s d f).engines = s.engines := rfl
@[simp] theorem updDom_clusters (s : State) (d : Nat) (f : DomRec → DomRec) : (updDom s d f).clusters = s.clusters := rfl
@[simp] theorem updDom_movers (s : State) (d : Nat) (f : DomRec → DomRec) : (updDom s d f).movers = s.movers := rfl
@[simp] theorem updDom_cells (s : State) (d : Nat) (f : DomRec → DomRec) : (updDom s d f).cells = s.cells := rfl
@[simp] theorem updDom_tyl (s : State) (d : Nat) (f : DomRec → DomRec) : (updDom s d f).tyl = s.tyl := rfl
@[simp] theorem updDom_synt (s : State) (d : Nat) (f : DomRec → DomRec) : (updDom s d f).synt = s.synt := rfl
@[simp] theorem updDom_macs (s : State) (d : Nat) (f : DomRec → DomRec) : (updDom s d f).macs = s.macs := rfl
@[simp] theorem updDom_strms (s : State) (d : Nat) (f : DomRec → DomRec) : (updDom s d f).strms = s.strms := rfl
@[simp] theorem updDom_pcies (s : State) (d : Nat) (f : DomRec → DomRec) : (updDom s d f).pcies = s.pcies := rfl
@[simp] theorem updDom_pwr (s : State) (d : Nat) (f : DomRec → DomRec) : (updDom s d f).pwr = s.pwr := rfl
@[simp] theorem updDom_mari (s : State) (d : Nat) (f : DomRec → DomRec) : (updDom s d f).mari = s.mari := rfl
@[simp] theorem updDom_wakeL (s : State) (d : Nat) (f : DomRec → DomRec) : (updDom s d f).wakeL = s.wakeL := rfl
@[simp] theorem updDom_jtag (s : State) (d : Nat) (f : DomRec → DomRec) : (updDom s d f).jtag = s.jtag := rfl
@[simp] theorem updDom_bist (s : State) (d : Nat) (f : DomRec → DomRec) : (updDom s d f).bist = s.bist := rfl
@[simp] theorem updDom_verdict (s : State) (d : Nat) (f : DomRec → DomRec) : (updDom s d f).verdict = s.verdict := rfl
@[simp] theorem updDom_lanePll (s : State) (d : Nat) (f : DomRec → DomRec) : (updDom s d f).lanePll = s.lanePll := rfl

/-! ## updMac -/

@[simp] theorem updMac_pending (s : State) (m : Fin 8) (f : EthMac → EthMac) : (updMac s m f).pending = s.pending := rfl
@[simp] theorem updMac_freeCtr (s : State) (m : Fin 8) (f : EthMac → EthMac) : (updMac s m f).freeCtr = s.freeCtr := rfl
@[simp] theorem updMac_dt (s : State) (m : Fin 8) (f : EthMac → EthMac) : (updMac s m f).dt = s.dt := rfl
@[simp] theorem updMac_regs (s : State) (m : Fin 8) (f : EthMac → EthMac) : (updMac s m f).regs = s.regs := rfl
@[simp] theorem updMac_clsGrant (s : State) (m : Fin 8) (f : EthMac → EthMac) : (updMac s m f).clsGrant = s.clsGrant := rfl
@[simp] theorem updMac_fab (s : State) (m : Fin 8) (f : EthMac → EthMac) : (updMac s m f).fab = s.fab := rfl
@[simp] theorem updMac_ic (s : State) (m : Fin 8) (f : EthMac → EthMac) : (updMac s m f).ic = s.ic := rfl
@[simp] theorem updMac_yoyos (s : State) (m : Fin 8) (f : EthMac → EthMac) : (updMac s m f).yoyos = s.yoyos := rfl
@[simp] theorem updMac_dtOff (s : State) (m : Fin 8) (f : EthMac → EthMac) : (updMac s m f).dtOff = s.dtOff := rfl
@[simp] theorem updMac_twins (s : State) (m : Fin 8) (f : EthMac → EthMac) : (updMac s m f).twins = s.twins := rfl
@[simp] theorem updMac_xfifos (s : State) (m : Fin 8) (f : EthMac → EthMac) : (updMac s m f).xfifos = s.xfifos := rfl
@[simp] theorem updMac_resets (s : State) (m : Fin 8) (f : EthMac → EthMac) : (updMac s m f).resets = s.resets := rfl
@[simp] theorem updMac_faultQ (s : State) (m : Fin 8) (f : EthMac → EthMac) : (updMac s m f).faultQ = s.faultQ := rfl
@[simp] theorem updMac_faultLog (s : State) (m : Fin 8) (f : EthMac → EthMac) : (updMac s m f).faultLog = s.faultLog := rfl
@[simp] theorem updMac_wdogs (s : State) (m : Fin 8) (f : EthMac → EthMac) : (updMac s m f).wdogs = s.wdogs := rfl
@[simp] theorem updMac_doms (s : State) (m : Fin 8) (f : EthMac → EthMac) : (updMac s m f).doms = s.doms := rfl
@[simp] theorem updMac_cores (s : State) (m : Fin 8) (f : EthMac → EthMac) : (updMac s m f).cores = s.cores := rfl
@[simp] theorem updMac_l2s (s : State) (m : Fin 8) (f : EthMac → EthMac) : (updMac s m f).l2s = s.l2s := rfl
@[simp] theorem updMac_sc (s : State) (m : Fin 8) (f : EthMac → EthMac) : (updMac s m f).sc = s.sc := rfl
@[simp] theorem updMac_dram (s : State) (m : Fin 8) (f : EthMac → EthMac) : (updMac s m f).dram = s.dram := rfl
@[simp] theorem updMac_sram (s : State) (m : Fin 8) (f : EthMac → EthMac) : (updMac s m f).sram = s.sram := rfl
@[simp] theorem updMac_epoch (s : State) (m : Fin 8) (f : EthMac → EthMac) : (updMac s m f).epoch = s.epoch := rfl
@[simp] theorem updMac_engEpoch (s : State) (m : Fin 8) (f : EthMac → EthMac) : (updMac s m f).engEpoch = s.engEpoch := rfl
@[simp] theorem updMac_eeprom (s : State) (m : Fin 8) (f : EthMac → EthMac) : (updMac s m f).eeprom = s.eeprom := rfl
@[simp] theorem updMac_calib (s : State) (m : Fin 8) (f : EthMac → EthMac) : (updMac s m f).calib = s.calib := rfl
@[simp] theorem updMac_sage (s : State) (m : Fin 8) (f : EthMac → EthMac) : (updMac s m f).sage = s.sage := rfl
@[simp] theorem updMac_engines (s : State) (m : Fin 8) (f : EthMac → EthMac) : (updMac s m f).engines = s.engines := rfl
@[simp] theorem updMac_clusters (s : State) (m : Fin 8) (f : EthMac → EthMac) : (updMac s m f).clusters = s.clusters := rfl
@[simp] theorem updMac_movers (s : State) (m : Fin 8) (f : EthMac → EthMac) : (updMac s m f).movers = s.movers := rfl
@[simp] theorem updMac_cells (s : State) (m : Fin 8) (f : EthMac → EthMac) : (updMac s m f).cells = s.cells := rfl
@[simp] theorem updMac_tyl (s : State) (m : Fin 8) (f : EthMac → EthMac) : (updMac s m f).tyl = s.tyl := rfl
@[simp] theorem updMac_synt (s : State) (m : Fin 8) (f : EthMac → EthMac) : (updMac s m f).synt = s.synt := rfl
@[simp] theorem updMac_strms (s : State) (m : Fin 8) (f : EthMac → EthMac) : (updMac s m f).strms = s.strms := rfl
@[simp] theorem updMac_pcies (s : State) (m : Fin 8) (f : EthMac → EthMac) : (updMac s m f).pcies = s.pcies := rfl
@[simp] theorem updMac_pwr (s : State) (m : Fin 8) (f : EthMac → EthMac) : (updMac s m f).pwr = s.pwr := rfl
@[simp] theorem updMac_mari (s : State) (m : Fin 8) (f : EthMac → EthMac) : (updMac s m f).mari = s.mari := rfl
@[simp] theorem updMac_wakeL (s : State) (m : Fin 8) (f : EthMac → EthMac) : (updMac s m f).wakeL = s.wakeL := rfl
@[simp] theorem updMac_jtag (s : State) (m : Fin 8) (f : EthMac → EthMac) : (updMac s m f).jtag = s.jtag := rfl
@[simp] theorem updMac_bist (s : State) (m : Fin 8) (f : EthMac → EthMac) : (updMac s m f).bist = s.bist := rfl
@[simp] theorem updMac_verdict (s : State) (m : Fin 8) (f : EthMac → EthMac) : (updMac s m f).verdict = s.verdict := rfl
@[simp] theorem updMac_lanePll (s : State) (m : Fin 8) (f : EthMac → EthMac) : (updMac s m f).lanePll = s.lanePll := rfl

/-! ## updPcie -/

@[simp] theorem updPcie_pending (s : State) (c : Fin 4) (f : Pcie → Pcie) : (updPcie s c f).pending = s.pending := rfl
@[simp] theorem updPcie_freeCtr (s : State) (c : Fin 4) (f : Pcie → Pcie) : (updPcie s c f).freeCtr = s.freeCtr := rfl
@[simp] theorem updPcie_dt (s : State) (c : Fin 4) (f : Pcie → Pcie) : (updPcie s c f).dt = s.dt := rfl
@[simp] theorem updPcie_regs (s : State) (c : Fin 4) (f : Pcie → Pcie) : (updPcie s c f).regs = s.regs := rfl
@[simp] theorem updPcie_clsGrant (s : State) (c : Fin 4) (f : Pcie → Pcie) : (updPcie s c f).clsGrant = s.clsGrant := rfl
@[simp] theorem updPcie_fab (s : State) (c : Fin 4) (f : Pcie → Pcie) : (updPcie s c f).fab = s.fab := rfl
@[simp] theorem updPcie_ic (s : State) (c : Fin 4) (f : Pcie → Pcie) : (updPcie s c f).ic = s.ic := rfl
@[simp] theorem updPcie_yoyos (s : State) (c : Fin 4) (f : Pcie → Pcie) : (updPcie s c f).yoyos = s.yoyos := rfl
@[simp] theorem updPcie_dtOff (s : State) (c : Fin 4) (f : Pcie → Pcie) : (updPcie s c f).dtOff = s.dtOff := rfl
@[simp] theorem updPcie_twins (s : State) (c : Fin 4) (f : Pcie → Pcie) : (updPcie s c f).twins = s.twins := rfl
@[simp] theorem updPcie_xfifos (s : State) (c : Fin 4) (f : Pcie → Pcie) : (updPcie s c f).xfifos = s.xfifos := rfl
@[simp] theorem updPcie_resets (s : State) (c : Fin 4) (f : Pcie → Pcie) : (updPcie s c f).resets = s.resets := rfl
@[simp] theorem updPcie_faultQ (s : State) (c : Fin 4) (f : Pcie → Pcie) : (updPcie s c f).faultQ = s.faultQ := rfl
@[simp] theorem updPcie_faultLog (s : State) (c : Fin 4) (f : Pcie → Pcie) : (updPcie s c f).faultLog = s.faultLog := rfl
@[simp] theorem updPcie_wdogs (s : State) (c : Fin 4) (f : Pcie → Pcie) : (updPcie s c f).wdogs = s.wdogs := rfl
@[simp] theorem updPcie_doms (s : State) (c : Fin 4) (f : Pcie → Pcie) : (updPcie s c f).doms = s.doms := rfl
@[simp] theorem updPcie_cores (s : State) (c : Fin 4) (f : Pcie → Pcie) : (updPcie s c f).cores = s.cores := rfl
@[simp] theorem updPcie_l2s (s : State) (c : Fin 4) (f : Pcie → Pcie) : (updPcie s c f).l2s = s.l2s := rfl
@[simp] theorem updPcie_sc (s : State) (c : Fin 4) (f : Pcie → Pcie) : (updPcie s c f).sc = s.sc := rfl
@[simp] theorem updPcie_dram (s : State) (c : Fin 4) (f : Pcie → Pcie) : (updPcie s c f).dram = s.dram := rfl
@[simp] theorem updPcie_sram (s : State) (c : Fin 4) (f : Pcie → Pcie) : (updPcie s c f).sram = s.sram := rfl
@[simp] theorem updPcie_epoch (s : State) (c : Fin 4) (f : Pcie → Pcie) : (updPcie s c f).epoch = s.epoch := rfl
@[simp] theorem updPcie_engEpoch (s : State) (c : Fin 4) (f : Pcie → Pcie) : (updPcie s c f).engEpoch = s.engEpoch := rfl
@[simp] theorem updPcie_eeprom (s : State) (c : Fin 4) (f : Pcie → Pcie) : (updPcie s c f).eeprom = s.eeprom := rfl
@[simp] theorem updPcie_calib (s : State) (c : Fin 4) (f : Pcie → Pcie) : (updPcie s c f).calib = s.calib := rfl
@[simp] theorem updPcie_sage (s : State) (c : Fin 4) (f : Pcie → Pcie) : (updPcie s c f).sage = s.sage := rfl
@[simp] theorem updPcie_engines (s : State) (c : Fin 4) (f : Pcie → Pcie) : (updPcie s c f).engines = s.engines := rfl
@[simp] theorem updPcie_clusters (s : State) (c : Fin 4) (f : Pcie → Pcie) : (updPcie s c f).clusters = s.clusters := rfl
@[simp] theorem updPcie_movers (s : State) (c : Fin 4) (f : Pcie → Pcie) : (updPcie s c f).movers = s.movers := rfl
@[simp] theorem updPcie_cells (s : State) (c : Fin 4) (f : Pcie → Pcie) : (updPcie s c f).cells = s.cells := rfl
@[simp] theorem updPcie_tyl (s : State) (c : Fin 4) (f : Pcie → Pcie) : (updPcie s c f).tyl = s.tyl := rfl
@[simp] theorem updPcie_synt (s : State) (c : Fin 4) (f : Pcie → Pcie) : (updPcie s c f).synt = s.synt := rfl
@[simp] theorem updPcie_macs (s : State) (c : Fin 4) (f : Pcie → Pcie) : (updPcie s c f).macs = s.macs := rfl
@[simp] theorem updPcie_strms (s : State) (c : Fin 4) (f : Pcie → Pcie) : (updPcie s c f).strms = s.strms := rfl
@[simp] theorem updPcie_pwr (s : State) (c : Fin 4) (f : Pcie → Pcie) : (updPcie s c f).pwr = s.pwr := rfl
@[simp] theorem updPcie_mari (s : State) (c : Fin 4) (f : Pcie → Pcie) : (updPcie s c f).mari = s.mari := rfl
@[simp] theorem updPcie_wakeL (s : State) (c : Fin 4) (f : Pcie → Pcie) : (updPcie s c f).wakeL = s.wakeL := rfl
@[simp] theorem updPcie_jtag (s : State) (c : Fin 4) (f : Pcie → Pcie) : (updPcie s c f).jtag = s.jtag := rfl
@[simp] theorem updPcie_bist (s : State) (c : Fin 4) (f : Pcie → Pcie) : (updPcie s c f).bist = s.bist := rfl
@[simp] theorem updPcie_verdict (s : State) (c : Fin 4) (f : Pcie → Pcie) : (updPcie s c f).verdict = s.verdict := rfl
@[simp] theorem updPcie_lanePll (s : State) (c : Fin 4) (f : Pcie → Pcie) : (updPcie s c f).lanePll = s.lanePll := rfl

/-! ## updTyl -/

@[simp] theorem updTyl_pending (s : State) (f : Tyl → Tyl) : (updTyl s f).pending = s.pending := rfl
@[simp] theorem updTyl_freeCtr (s : State) (f : Tyl → Tyl) : (updTyl s f).freeCtr = s.freeCtr := rfl
@[simp] theorem updTyl_dt (s : State) (f : Tyl → Tyl) : (updTyl s f).dt = s.dt := rfl
@[simp] theorem updTyl_regs (s : State) (f : Tyl → Tyl) : (updTyl s f).regs = s.regs := rfl
@[simp] theorem updTyl_clsGrant (s : State) (f : Tyl → Tyl) : (updTyl s f).clsGrant = s.clsGrant := rfl
@[simp] theorem updTyl_fab (s : State) (f : Tyl → Tyl) : (updTyl s f).fab = s.fab := rfl
@[simp] theorem updTyl_ic (s : State) (f : Tyl → Tyl) : (updTyl s f).ic = s.ic := rfl
@[simp] theorem updTyl_yoyos (s : State) (f : Tyl → Tyl) : (updTyl s f).yoyos = s.yoyos := rfl
@[simp] theorem updTyl_dtOff (s : State) (f : Tyl → Tyl) : (updTyl s f).dtOff = s.dtOff := rfl
@[simp] theorem updTyl_twins (s : State) (f : Tyl → Tyl) : (updTyl s f).twins = s.twins := rfl
@[simp] theorem updTyl_xfifos (s : State) (f : Tyl → Tyl) : (updTyl s f).xfifos = s.xfifos := rfl
@[simp] theorem updTyl_resets (s : State) (f : Tyl → Tyl) : (updTyl s f).resets = s.resets := rfl
@[simp] theorem updTyl_faultQ (s : State) (f : Tyl → Tyl) : (updTyl s f).faultQ = s.faultQ := rfl
@[simp] theorem updTyl_faultLog (s : State) (f : Tyl → Tyl) : (updTyl s f).faultLog = s.faultLog := rfl
@[simp] theorem updTyl_wdogs (s : State) (f : Tyl → Tyl) : (updTyl s f).wdogs = s.wdogs := rfl
@[simp] theorem updTyl_doms (s : State) (f : Tyl → Tyl) : (updTyl s f).doms = s.doms := rfl
@[simp] theorem updTyl_cores (s : State) (f : Tyl → Tyl) : (updTyl s f).cores = s.cores := rfl
@[simp] theorem updTyl_l2s (s : State) (f : Tyl → Tyl) : (updTyl s f).l2s = s.l2s := rfl
@[simp] theorem updTyl_sc (s : State) (f : Tyl → Tyl) : (updTyl s f).sc = s.sc := rfl
@[simp] theorem updTyl_dram (s : State) (f : Tyl → Tyl) : (updTyl s f).dram = s.dram := rfl
@[simp] theorem updTyl_sram (s : State) (f : Tyl → Tyl) : (updTyl s f).sram = s.sram := rfl
@[simp] theorem updTyl_epoch (s : State) (f : Tyl → Tyl) : (updTyl s f).epoch = s.epoch := rfl
@[simp] theorem updTyl_engEpoch (s : State) (f : Tyl → Tyl) : (updTyl s f).engEpoch = s.engEpoch := rfl
@[simp] theorem updTyl_eeprom (s : State) (f : Tyl → Tyl) : (updTyl s f).eeprom = s.eeprom := rfl
@[simp] theorem updTyl_calib (s : State) (f : Tyl → Tyl) : (updTyl s f).calib = s.calib := rfl
@[simp] theorem updTyl_sage (s : State) (f : Tyl → Tyl) : (updTyl s f).sage = s.sage := rfl
@[simp] theorem updTyl_engines (s : State) (f : Tyl → Tyl) : (updTyl s f).engines = s.engines := rfl
@[simp] theorem updTyl_clusters (s : State) (f : Tyl → Tyl) : (updTyl s f).clusters = s.clusters := rfl
@[simp] theorem updTyl_movers (s : State) (f : Tyl → Tyl) : (updTyl s f).movers = s.movers := rfl
@[simp] theorem updTyl_cells (s : State) (f : Tyl → Tyl) : (updTyl s f).cells = s.cells := rfl
@[simp] theorem updTyl_synt (s : State) (f : Tyl → Tyl) : (updTyl s f).synt = s.synt := rfl
@[simp] theorem updTyl_macs (s : State) (f : Tyl → Tyl) : (updTyl s f).macs = s.macs := rfl
@[simp] theorem updTyl_strms (s : State) (f : Tyl → Tyl) : (updTyl s f).strms = s.strms := rfl
@[simp] theorem updTyl_pcies (s : State) (f : Tyl → Tyl) : (updTyl s f).pcies = s.pcies := rfl
@[simp] theorem updTyl_pwr (s : State) (f : Tyl → Tyl) : (updTyl s f).pwr = s.pwr := rfl
@[simp] theorem updTyl_mari (s : State) (f : Tyl → Tyl) : (updTyl s f).mari = s.mari := rfl
@[simp] theorem updTyl_wakeL (s : State) (f : Tyl → Tyl) : (updTyl s f).wakeL = s.wakeL := rfl
@[simp] theorem updTyl_jtag (s : State) (f : Tyl → Tyl) : (updTyl s f).jtag = s.jtag := rfl
@[simp] theorem updTyl_bist (s : State) (f : Tyl → Tyl) : (updTyl s f).bist = s.bist := rfl
@[simp] theorem updTyl_verdict (s : State) (f : Tyl → Tyl) : (updTyl s f).verdict = s.verdict := rfl
@[simp] theorem updTyl_lanePll (s : State) (f : Tyl → Tyl) : (updTyl s f).lanePll = s.lanePll := rfl

/-! ## updMari -/

@[simp] theorem updMari_pending (s : State) (f : Mari → Mari) : (updMari s f).pending = s.pending := rfl
@[simp] theorem updMari_freeCtr (s : State) (f : Mari → Mari) : (updMari s f).freeCtr = s.freeCtr := rfl
@[simp] theorem updMari_dt (s : State) (f : Mari → Mari) : (updMari s f).dt = s.dt := rfl
@[simp] theorem updMari_regs (s : State) (f : Mari → Mari) : (updMari s f).regs = s.regs := rfl
@[simp] theorem updMari_clsGrant (s : State) (f : Mari → Mari) : (updMari s f).clsGrant = s.clsGrant := rfl
@[simp] theorem updMari_fab (s : State) (f : Mari → Mari) : (updMari s f).fab = s.fab := rfl
@[simp] theorem updMari_ic (s : State) (f : Mari → Mari) : (updMari s f).ic = s.ic := rfl
@[simp] theorem updMari_yoyos (s : State) (f : Mari → Mari) : (updMari s f).yoyos = s.yoyos := rfl
@[simp] theorem updMari_dtOff (s : State) (f : Mari → Mari) : (updMari s f).dtOff = s.dtOff := rfl
@[simp] theorem updMari_twins (s : State) (f : Mari → Mari) : (updMari s f).twins = s.twins := rfl
@[simp] theorem updMari_xfifos (s : State) (f : Mari → Mari) : (updMari s f).xfifos = s.xfifos := rfl
@[simp] theorem updMari_resets (s : State) (f : Mari → Mari) : (updMari s f).resets = s.resets := rfl
@[simp] theorem updMari_faultQ (s : State) (f : Mari → Mari) : (updMari s f).faultQ = s.faultQ := rfl
@[simp] theorem updMari_faultLog (s : State) (f : Mari → Mari) : (updMari s f).faultLog = s.faultLog := rfl
@[simp] theorem updMari_wdogs (s : State) (f : Mari → Mari) : (updMari s f).wdogs = s.wdogs := rfl
@[simp] theorem updMari_doms (s : State) (f : Mari → Mari) : (updMari s f).doms = s.doms := rfl
@[simp] theorem updMari_cores (s : State) (f : Mari → Mari) : (updMari s f).cores = s.cores := rfl
@[simp] theorem updMari_l2s (s : State) (f : Mari → Mari) : (updMari s f).l2s = s.l2s := rfl
@[simp] theorem updMari_sc (s : State) (f : Mari → Mari) : (updMari s f).sc = s.sc := rfl
@[simp] theorem updMari_dram (s : State) (f : Mari → Mari) : (updMari s f).dram = s.dram := rfl
@[simp] theorem updMari_sram (s : State) (f : Mari → Mari) : (updMari s f).sram = s.sram := rfl
@[simp] theorem updMari_epoch (s : State) (f : Mari → Mari) : (updMari s f).epoch = s.epoch := rfl
@[simp] theorem updMari_engEpoch (s : State) (f : Mari → Mari) : (updMari s f).engEpoch = s.engEpoch := rfl
@[simp] theorem updMari_eeprom (s : State) (f : Mari → Mari) : (updMari s f).eeprom = s.eeprom := rfl
@[simp] theorem updMari_calib (s : State) (f : Mari → Mari) : (updMari s f).calib = s.calib := rfl
@[simp] theorem updMari_sage (s : State) (f : Mari → Mari) : (updMari s f).sage = s.sage := rfl
@[simp] theorem updMari_engines (s : State) (f : Mari → Mari) : (updMari s f).engines = s.engines := rfl
@[simp] theorem updMari_clusters (s : State) (f : Mari → Mari) : (updMari s f).clusters = s.clusters := rfl
@[simp] theorem updMari_movers (s : State) (f : Mari → Mari) : (updMari s f).movers = s.movers := rfl
@[simp] theorem updMari_cells (s : State) (f : Mari → Mari) : (updMari s f).cells = s.cells := rfl
@[simp] theorem updMari_tyl (s : State) (f : Mari → Mari) : (updMari s f).tyl = s.tyl := rfl
@[simp] theorem updMari_synt (s : State) (f : Mari → Mari) : (updMari s f).synt = s.synt := rfl
@[simp] theorem updMari_macs (s : State) (f : Mari → Mari) : (updMari s f).macs = s.macs := rfl
@[simp] theorem updMari_strms (s : State) (f : Mari → Mari) : (updMari s f).strms = s.strms := rfl
@[simp] theorem updMari_pcies (s : State) (f : Mari → Mari) : (updMari s f).pcies = s.pcies := rfl
@[simp] theorem updMari_pwr (s : State) (f : Mari → Mari) : (updMari s f).pwr = s.pwr := rfl
@[simp] theorem updMari_wakeL (s : State) (f : Mari → Mari) : (updMari s f).wakeL = s.wakeL := rfl
@[simp] theorem updMari_jtag (s : State) (f : Mari → Mari) : (updMari s f).jtag = s.jtag := rfl
@[simp] theorem updMari_bist (s : State) (f : Mari → Mari) : (updMari s f).bist = s.bist := rfl
@[simp] theorem updMari_verdict (s : State) (f : Mari → Mari) : (updMari s f).verdict = s.verdict := rfl
@[simp] theorem updMari_lanePll (s : State) (f : Mari → Mari) : (updMari s f).lanePll = s.lanePll := rfl

/-! ## updSage -/

@[simp] theorem updSage_pending (s : State) (f : Sage → Sage) : (updSage s f).pending = s.pending := rfl
@[simp] theorem updSage_freeCtr (s : State) (f : Sage → Sage) : (updSage s f).freeCtr = s.freeCtr := rfl
@[simp] theorem updSage_dt (s : State) (f : Sage → Sage) : (updSage s f).dt = s.dt := rfl
@[simp] theorem updSage_regs (s : State) (f : Sage → Sage) : (updSage s f).regs = s.regs := rfl
@[simp] theorem updSage_clsGrant (s : State) (f : Sage → Sage) : (updSage s f).clsGrant = s.clsGrant := rfl
@[simp] theorem updSage_fab (s : State) (f : Sage → Sage) : (updSage s f).fab = s.fab := rfl
@[simp] theorem updSage_ic (s : State) (f : Sage → Sage) : (updSage s f).ic = s.ic := rfl
@[simp] theorem updSage_yoyos (s : State) (f : Sage → Sage) : (updSage s f).yoyos = s.yoyos := rfl
@[simp] theorem updSage_dtOff (s : State) (f : Sage → Sage) : (updSage s f).dtOff = s.dtOff := rfl
@[simp] theorem updSage_twins (s : State) (f : Sage → Sage) : (updSage s f).twins = s.twins := rfl
@[simp] theorem updSage_xfifos (s : State) (f : Sage → Sage) : (updSage s f).xfifos = s.xfifos := rfl
@[simp] theorem updSage_resets (s : State) (f : Sage → Sage) : (updSage s f).resets = s.resets := rfl
@[simp] theorem updSage_faultQ (s : State) (f : Sage → Sage) : (updSage s f).faultQ = s.faultQ := rfl
@[simp] theorem updSage_faultLog (s : State) (f : Sage → Sage) : (updSage s f).faultLog = s.faultLog := rfl
@[simp] theorem updSage_wdogs (s : State) (f : Sage → Sage) : (updSage s f).wdogs = s.wdogs := rfl
@[simp] theorem updSage_doms (s : State) (f : Sage → Sage) : (updSage s f).doms = s.doms := rfl
@[simp] theorem updSage_cores (s : State) (f : Sage → Sage) : (updSage s f).cores = s.cores := rfl
@[simp] theorem updSage_l2s (s : State) (f : Sage → Sage) : (updSage s f).l2s = s.l2s := rfl
@[simp] theorem updSage_sc (s : State) (f : Sage → Sage) : (updSage s f).sc = s.sc := rfl
@[simp] theorem updSage_dram (s : State) (f : Sage → Sage) : (updSage s f).dram = s.dram := rfl
@[simp] theorem updSage_sram (s : State) (f : Sage → Sage) : (updSage s f).sram = s.sram := rfl
@[simp] theorem updSage_epoch (s : State) (f : Sage → Sage) : (updSage s f).epoch = s.epoch := rfl
@[simp] theorem updSage_engEpoch (s : State) (f : Sage → Sage) : (updSage s f).engEpoch = s.engEpoch := rfl
@[simp] theorem updSage_eeprom (s : State) (f : Sage → Sage) : (updSage s f).eeprom = s.eeprom := rfl
@[simp] theorem updSage_calib (s : State) (f : Sage → Sage) : (updSage s f).calib = s.calib := rfl
@[simp] theorem updSage_engines (s : State) (f : Sage → Sage) : (updSage s f).engines = s.engines := rfl
@[simp] theorem updSage_clusters (s : State) (f : Sage → Sage) : (updSage s f).clusters = s.clusters := rfl
@[simp] theorem updSage_movers (s : State) (f : Sage → Sage) : (updSage s f).movers = s.movers := rfl
@[simp] theorem updSage_cells (s : State) (f : Sage → Sage) : (updSage s f).cells = s.cells := rfl
@[simp] theorem updSage_tyl (s : State) (f : Sage → Sage) : (updSage s f).tyl = s.tyl := rfl
@[simp] theorem updSage_synt (s : State) (f : Sage → Sage) : (updSage s f).synt = s.synt := rfl
@[simp] theorem updSage_macs (s : State) (f : Sage → Sage) : (updSage s f).macs = s.macs := rfl
@[simp] theorem updSage_strms (s : State) (f : Sage → Sage) : (updSage s f).strms = s.strms := rfl
@[simp] theorem updSage_pcies (s : State) (f : Sage → Sage) : (updSage s f).pcies = s.pcies := rfl
@[simp] theorem updSage_pwr (s : State) (f : Sage → Sage) : (updSage s f).pwr = s.pwr := rfl
@[simp] theorem updSage_mari (s : State) (f : Sage → Sage) : (updSage s f).mari = s.mari := rfl
@[simp] theorem updSage_wakeL (s : State) (f : Sage → Sage) : (updSage s f).wakeL = s.wakeL := rfl
@[simp] theorem updSage_jtag (s : State) (f : Sage → Sage) : (updSage s f).jtag = s.jtag := rfl
@[simp] theorem updSage_bist (s : State) (f : Sage → Sage) : (updSage s f).bist = s.bist := rfl
@[simp] theorem updSage_verdict (s : State) (f : Sage → Sage) : (updSage s f).verdict = s.verdict := rfl
@[simp] theorem updSage_lanePll (s : State) (f : Sage → Sage) : (updSage s f).lanePll = s.lanePll := rfl

/-! ## updTxn -/

@[simp] theorem updTxn_pending (s : State) (id : Nat) (f : Txn → Txn) : (updTxn s id f).pending = s.pending := rfl
@[simp] theorem updTxn_freeCtr (s : State) (id : Nat) (f : Txn → Txn) : (updTxn s id f).freeCtr = s.freeCtr := rfl
@[simp] theorem updTxn_dt (s : State) (id : Nat) (f : Txn → Txn) : (updTxn s id f).dt = s.dt := rfl
@[simp] theorem updTxn_regs (s : State) (id : Nat) (f : Txn → Txn) : (updTxn s id f).regs = s.regs := rfl
@[simp] theorem updTxn_clsGrant (s : State) (id : Nat) (f : Txn → Txn) : (updTxn s id f).clsGrant = s.clsGrant := rfl
@[simp] theorem updTxn_ic (s : State) (id : Nat) (f : Txn → Txn) : (updTxn s id f).ic = s.ic := rfl
@[simp] theorem updTxn_yoyos (s : State) (id : Nat) (f : Txn → Txn) : (updTxn s id f).yoyos = s.yoyos := rfl
@[simp] theorem updTxn_dtOff (s : State) (id : Nat) (f : Txn → Txn) : (updTxn s id f).dtOff = s.dtOff := rfl
@[simp] theorem updTxn_twins (s : State) (id : Nat) (f : Txn → Txn) : (updTxn s id f).twins = s.twins := rfl
@[simp] theorem updTxn_xfifos (s : State) (id : Nat) (f : Txn → Txn) : (updTxn s id f).xfifos = s.xfifos := rfl
@[simp] theorem updTxn_resets (s : State) (id : Nat) (f : Txn → Txn) : (updTxn s id f).resets = s.resets := rfl
@[simp] theorem updTxn_faultQ (s : State) (id : Nat) (f : Txn → Txn) : (updTxn s id f).faultQ = s.faultQ := rfl
@[simp] theorem updTxn_faultLog (s : State) (id : Nat) (f : Txn → Txn) : (updTxn s id f).faultLog = s.faultLog := rfl
@[simp] theorem updTxn_wdogs (s : State) (id : Nat) (f : Txn → Txn) : (updTxn s id f).wdogs = s.wdogs := rfl
@[simp] theorem updTxn_doms (s : State) (id : Nat) (f : Txn → Txn) : (updTxn s id f).doms = s.doms := rfl
@[simp] theorem updTxn_cores (s : State) (id : Nat) (f : Txn → Txn) : (updTxn s id f).cores = s.cores := rfl
@[simp] theorem updTxn_l2s (s : State) (id : Nat) (f : Txn → Txn) : (updTxn s id f).l2s = s.l2s := rfl
@[simp] theorem updTxn_sc (s : State) (id : Nat) (f : Txn → Txn) : (updTxn s id f).sc = s.sc := rfl
@[simp] theorem updTxn_dram (s : State) (id : Nat) (f : Txn → Txn) : (updTxn s id f).dram = s.dram := rfl
@[simp] theorem updTxn_sram (s : State) (id : Nat) (f : Txn → Txn) : (updTxn s id f).sram = s.sram := rfl
@[simp] theorem updTxn_epoch (s : State) (id : Nat) (f : Txn → Txn) : (updTxn s id f).epoch = s.epoch := rfl
@[simp] theorem updTxn_engEpoch (s : State) (id : Nat) (f : Txn → Txn) : (updTxn s id f).engEpoch = s.engEpoch := rfl
@[simp] theorem updTxn_eeprom (s : State) (id : Nat) (f : Txn → Txn) : (updTxn s id f).eeprom = s.eeprom := rfl
@[simp] theorem updTxn_calib (s : State) (id : Nat) (f : Txn → Txn) : (updTxn s id f).calib = s.calib := rfl
@[simp] theorem updTxn_sage (s : State) (id : Nat) (f : Txn → Txn) : (updTxn s id f).sage = s.sage := rfl
@[simp] theorem updTxn_engines (s : State) (id : Nat) (f : Txn → Txn) : (updTxn s id f).engines = s.engines := rfl
@[simp] theorem updTxn_clusters (s : State) (id : Nat) (f : Txn → Txn) : (updTxn s id f).clusters = s.clusters := rfl
@[simp] theorem updTxn_movers (s : State) (id : Nat) (f : Txn → Txn) : (updTxn s id f).movers = s.movers := rfl
@[simp] theorem updTxn_cells (s : State) (id : Nat) (f : Txn → Txn) : (updTxn s id f).cells = s.cells := rfl
@[simp] theorem updTxn_tyl (s : State) (id : Nat) (f : Txn → Txn) : (updTxn s id f).tyl = s.tyl := rfl
@[simp] theorem updTxn_synt (s : State) (id : Nat) (f : Txn → Txn) : (updTxn s id f).synt = s.synt := rfl
@[simp] theorem updTxn_macs (s : State) (id : Nat) (f : Txn → Txn) : (updTxn s id f).macs = s.macs := rfl
@[simp] theorem updTxn_strms (s : State) (id : Nat) (f : Txn → Txn) : (updTxn s id f).strms = s.strms := rfl
@[simp] theorem updTxn_pcies (s : State) (id : Nat) (f : Txn → Txn) : (updTxn s id f).pcies = s.pcies := rfl
@[simp] theorem updTxn_pwr (s : State) (id : Nat) (f : Txn → Txn) : (updTxn s id f).pwr = s.pwr := rfl
@[simp] theorem updTxn_mari (s : State) (id : Nat) (f : Txn → Txn) : (updTxn s id f).mari = s.mari := rfl
@[simp] theorem updTxn_wakeL (s : State) (id : Nat) (f : Txn → Txn) : (updTxn s id f).wakeL = s.wakeL := rfl
@[simp] theorem updTxn_jtag (s : State) (id : Nat) (f : Txn → Txn) : (updTxn s id f).jtag = s.jtag := rfl
@[simp] theorem updTxn_bist (s : State) (id : Nat) (f : Txn → Txn) : (updTxn s id f).bist = s.bist := rfl
@[simp] theorem updTxn_verdict (s : State) (id : Nat) (f : Txn → Txn) : (updTxn s id f).verdict = s.verdict := rfl
@[simp] theorem updTxn_lanePll (s : State) (id : Nat) (f : Txn → Txn) : (updTxn s id f).lanePll = s.lanePll := rfl

/-! ## updDreq -/

@[simp] theorem updDreq_pending (s : State) (id : Nat) (f : DReq → DReq) : (updDreq s id f).pending = s.pending := rfl
@[simp] theorem updDreq_freeCtr (s : State) (id : Nat) (f : DReq → DReq) : (updDreq s id f).freeCtr = s.freeCtr := rfl
@[simp] theorem updDreq_dt (s : State) (id : Nat) (f : DReq → DReq) : (updDreq s id f).dt = s.dt := rfl
@[simp] theorem updDreq_regs (s : State) (id : Nat) (f : DReq → DReq) : (updDreq s id f).regs = s.regs := rfl
@[simp] theorem updDreq_clsGrant (s : State) (id : Nat) (f : DReq → DReq) : (updDreq s id f).clsGrant = s.clsGrant := rfl
@[simp] theorem updDreq_fab (s : State) (id : Nat) (f : DReq → DReq) : (updDreq s id f).fab = s.fab := rfl
@[simp] theorem updDreq_ic (s : State) (id : Nat) (f : DReq → DReq) : (updDreq s id f).ic = s.ic := rfl
@[simp] theorem updDreq_yoyos (s : State) (id : Nat) (f : DReq → DReq) : (updDreq s id f).yoyos = s.yoyos := rfl
@[simp] theorem updDreq_dtOff (s : State) (id : Nat) (f : DReq → DReq) : (updDreq s id f).dtOff = s.dtOff := rfl
@[simp] theorem updDreq_twins (s : State) (id : Nat) (f : DReq → DReq) : (updDreq s id f).twins = s.twins := rfl
@[simp] theorem updDreq_xfifos (s : State) (id : Nat) (f : DReq → DReq) : (updDreq s id f).xfifos = s.xfifos := rfl
@[simp] theorem updDreq_resets (s : State) (id : Nat) (f : DReq → DReq) : (updDreq s id f).resets = s.resets := rfl
@[simp] theorem updDreq_faultQ (s : State) (id : Nat) (f : DReq → DReq) : (updDreq s id f).faultQ = s.faultQ := rfl
@[simp] theorem updDreq_faultLog (s : State) (id : Nat) (f : DReq → DReq) : (updDreq s id f).faultLog = s.faultLog := rfl
@[simp] theorem updDreq_wdogs (s : State) (id : Nat) (f : DReq → DReq) : (updDreq s id f).wdogs = s.wdogs := rfl
@[simp] theorem updDreq_doms (s : State) (id : Nat) (f : DReq → DReq) : (updDreq s id f).doms = s.doms := rfl
@[simp] theorem updDreq_cores (s : State) (id : Nat) (f : DReq → DReq) : (updDreq s id f).cores = s.cores := rfl
@[simp] theorem updDreq_l2s (s : State) (id : Nat) (f : DReq → DReq) : (updDreq s id f).l2s = s.l2s := rfl
@[simp] theorem updDreq_sc (s : State) (id : Nat) (f : DReq → DReq) : (updDreq s id f).sc = s.sc := rfl
@[simp] theorem updDreq_sram (s : State) (id : Nat) (f : DReq → DReq) : (updDreq s id f).sram = s.sram := rfl
@[simp] theorem updDreq_epoch (s : State) (id : Nat) (f : DReq → DReq) : (updDreq s id f).epoch = s.epoch := rfl
@[simp] theorem updDreq_engEpoch (s : State) (id : Nat) (f : DReq → DReq) : (updDreq s id f).engEpoch = s.engEpoch := rfl
@[simp] theorem updDreq_eeprom (s : State) (id : Nat) (f : DReq → DReq) : (updDreq s id f).eeprom = s.eeprom := rfl
@[simp] theorem updDreq_calib (s : State) (id : Nat) (f : DReq → DReq) : (updDreq s id f).calib = s.calib := rfl
@[simp] theorem updDreq_sage (s : State) (id : Nat) (f : DReq → DReq) : (updDreq s id f).sage = s.sage := rfl
@[simp] theorem updDreq_engines (s : State) (id : Nat) (f : DReq → DReq) : (updDreq s id f).engines = s.engines := rfl
@[simp] theorem updDreq_clusters (s : State) (id : Nat) (f : DReq → DReq) : (updDreq s id f).clusters = s.clusters := rfl
@[simp] theorem updDreq_movers (s : State) (id : Nat) (f : DReq → DReq) : (updDreq s id f).movers = s.movers := rfl
@[simp] theorem updDreq_cells (s : State) (id : Nat) (f : DReq → DReq) : (updDreq s id f).cells = s.cells := rfl
@[simp] theorem updDreq_tyl (s : State) (id : Nat) (f : DReq → DReq) : (updDreq s id f).tyl = s.tyl := rfl
@[simp] theorem updDreq_synt (s : State) (id : Nat) (f : DReq → DReq) : (updDreq s id f).synt = s.synt := rfl
@[simp] theorem updDreq_macs (s : State) (id : Nat) (f : DReq → DReq) : (updDreq s id f).macs = s.macs := rfl
@[simp] theorem updDreq_strms (s : State) (id : Nat) (f : DReq → DReq) : (updDreq s id f).strms = s.strms := rfl
@[simp] theorem updDreq_pcies (s : State) (id : Nat) (f : DReq → DReq) : (updDreq s id f).pcies = s.pcies := rfl
@[simp] theorem updDreq_pwr (s : State) (id : Nat) (f : DReq → DReq) : (updDreq s id f).pwr = s.pwr := rfl
@[simp] theorem updDreq_mari (s : State) (id : Nat) (f : DReq → DReq) : (updDreq s id f).mari = s.mari := rfl
@[simp] theorem updDreq_wakeL (s : State) (id : Nat) (f : DReq → DReq) : (updDreq s id f).wakeL = s.wakeL := rfl
@[simp] theorem updDreq_jtag (s : State) (id : Nat) (f : DReq → DReq) : (updDreq s id f).jtag = s.jtag := rfl
@[simp] theorem updDreq_bist (s : State) (id : Nat) (f : DReq → DReq) : (updDreq s id f).bist = s.bist := rfl
@[simp] theorem updDreq_verdict (s : State) (id : Nat) (f : DReq → DReq) : (updDreq s id f).verdict = s.verdict := rfl
@[simp] theorem updDreq_lanePll (s : State) (id : Nat) (f : DReq → DReq) : (updDreq s id f).lanePll = s.lanePll := rfl

/-! ## setSramByte -/

@[simp] theorem setSramByte_pending (s : State) (a : Nat) (b : Byte) : (setSramByte s a b).pending = s.pending := rfl
@[simp] theorem setSramByte_freeCtr (s : State) (a : Nat) (b : Byte) : (setSramByte s a b).freeCtr = s.freeCtr := rfl
@[simp] theorem setSramByte_dt (s : State) (a : Nat) (b : Byte) : (setSramByte s a b).dt = s.dt := rfl
@[simp] theorem setSramByte_regs (s : State) (a : Nat) (b : Byte) : (setSramByte s a b).regs = s.regs := rfl
@[simp] theorem setSramByte_clsGrant (s : State) (a : Nat) (b : Byte) : (setSramByte s a b).clsGrant = s.clsGrant := rfl
@[simp] theorem setSramByte_fab (s : State) (a : Nat) (b : Byte) : (setSramByte s a b).fab = s.fab := rfl
@[simp] theorem setSramByte_ic (s : State) (a : Nat) (b : Byte) : (setSramByte s a b).ic = s.ic := rfl
@[simp] theorem setSramByte_yoyos (s : State) (a : Nat) (b : Byte) : (setSramByte s a b).yoyos = s.yoyos := rfl
@[simp] theorem setSramByte_dtOff (s : State) (a : Nat) (b : Byte) : (setSramByte s a b).dtOff = s.dtOff := rfl
@[simp] theorem setSramByte_twins (s : State) (a : Nat) (b : Byte) : (setSramByte s a b).twins = s.twins := rfl
@[simp] theorem setSramByte_xfifos (s : State) (a : Nat) (b : Byte) : (setSramByte s a b).xfifos = s.xfifos := rfl
@[simp] theorem setSramByte_resets (s : State) (a : Nat) (b : Byte) : (setSramByte s a b).resets = s.resets := rfl
@[simp] theorem setSramByte_faultQ (s : State) (a : Nat) (b : Byte) : (setSramByte s a b).faultQ = s.faultQ := rfl
@[simp] theorem setSramByte_faultLog (s : State) (a : Nat) (b : Byte) : (setSramByte s a b).faultLog = s.faultLog := rfl
@[simp] theorem setSramByte_wdogs (s : State) (a : Nat) (b : Byte) : (setSramByte s a b).wdogs = s.wdogs := rfl
@[simp] theorem setSramByte_doms (s : State) (a : Nat) (b : Byte) : (setSramByte s a b).doms = s.doms := rfl
@[simp] theorem setSramByte_cores (s : State) (a : Nat) (b : Byte) : (setSramByte s a b).cores = s.cores := rfl
@[simp] theorem setSramByte_l2s (s : State) (a : Nat) (b : Byte) : (setSramByte s a b).l2s = s.l2s := rfl
@[simp] theorem setSramByte_sc (s : State) (a : Nat) (b : Byte) : (setSramByte s a b).sc = s.sc := rfl
@[simp] theorem setSramByte_dram (s : State) (a : Nat) (b : Byte) : (setSramByte s a b).dram = s.dram := rfl
@[simp] theorem setSramByte_epoch (s : State) (a : Nat) (b : Byte) : (setSramByte s a b).epoch = s.epoch := rfl
@[simp] theorem setSramByte_engEpoch (s : State) (a : Nat) (b : Byte) : (setSramByte s a b).engEpoch = s.engEpoch := rfl
@[simp] theorem setSramByte_eeprom (s : State) (a : Nat) (b : Byte) : (setSramByte s a b).eeprom = s.eeprom := rfl
@[simp] theorem setSramByte_calib (s : State) (a : Nat) (b : Byte) : (setSramByte s a b).calib = s.calib := rfl
@[simp] theorem setSramByte_sage (s : State) (a : Nat) (b : Byte) : (setSramByte s a b).sage = s.sage := rfl
@[simp] theorem setSramByte_engines (s : State) (a : Nat) (b : Byte) : (setSramByte s a b).engines = s.engines := rfl
@[simp] theorem setSramByte_clusters (s : State) (a : Nat) (b : Byte) : (setSramByte s a b).clusters = s.clusters := rfl
@[simp] theorem setSramByte_movers (s : State) (a : Nat) (b : Byte) : (setSramByte s a b).movers = s.movers := rfl
@[simp] theorem setSramByte_cells (s : State) (a : Nat) (b : Byte) : (setSramByte s a b).cells = s.cells := rfl
@[simp] theorem setSramByte_tyl (s : State) (a : Nat) (b : Byte) : (setSramByte s a b).tyl = s.tyl := rfl
@[simp] theorem setSramByte_synt (s : State) (a : Nat) (b : Byte) : (setSramByte s a b).synt = s.synt := rfl
@[simp] theorem setSramByte_macs (s : State) (a : Nat) (b : Byte) : (setSramByte s a b).macs = s.macs := rfl
@[simp] theorem setSramByte_strms (s : State) (a : Nat) (b : Byte) : (setSramByte s a b).strms = s.strms := rfl
@[simp] theorem setSramByte_pcies (s : State) (a : Nat) (b : Byte) : (setSramByte s a b).pcies = s.pcies := rfl
@[simp] theorem setSramByte_pwr (s : State) (a : Nat) (b : Byte) : (setSramByte s a b).pwr = s.pwr := rfl
@[simp] theorem setSramByte_mari (s : State) (a : Nat) (b : Byte) : (setSramByte s a b).mari = s.mari := rfl
@[simp] theorem setSramByte_wakeL (s : State) (a : Nat) (b : Byte) : (setSramByte s a b).wakeL = s.wakeL := rfl
@[simp] theorem setSramByte_jtag (s : State) (a : Nat) (b : Byte) : (setSramByte s a b).jtag = s.jtag := rfl
@[simp] theorem setSramByte_bist (s : State) (a : Nat) (b : Byte) : (setSramByte s a b).bist = s.bist := rfl
@[simp] theorem setSramByte_verdict (s : State) (a : Nat) (b : Byte) : (setSramByte s a b).verdict = s.verdict := rfl
@[simp] theorem setSramByte_lanePll (s : State) (a : Nat) (b : Byte) : (setSramByte s a b).lanePll = s.lanePll := rfl

/-! ## storeLine -/

@[simp] theorem storeLine_pending (s : State) (pr n : Nat) (v : Line) (poison : Bool) : (storeLine s pr n v poison).pending = s.pending := rfl
@[simp] theorem storeLine_freeCtr (s : State) (pr n : Nat) (v : Line) (poison : Bool) : (storeLine s pr n v poison).freeCtr = s.freeCtr := rfl
@[simp] theorem storeLine_dt (s : State) (pr n : Nat) (v : Line) (poison : Bool) : (storeLine s pr n v poison).dt = s.dt := rfl
@[simp] theorem storeLine_regs (s : State) (pr n : Nat) (v : Line) (poison : Bool) : (storeLine s pr n v poison).regs = s.regs := rfl
@[simp] theorem storeLine_clsGrant (s : State) (pr n : Nat) (v : Line) (poison : Bool) : (storeLine s pr n v poison).clsGrant = s.clsGrant := rfl
@[simp] theorem storeLine_fab (s : State) (pr n : Nat) (v : Line) (poison : Bool) : (storeLine s pr n v poison).fab = s.fab := rfl
@[simp] theorem storeLine_ic (s : State) (pr n : Nat) (v : Line) (poison : Bool) : (storeLine s pr n v poison).ic = s.ic := rfl
@[simp] theorem storeLine_yoyos (s : State) (pr n : Nat) (v : Line) (poison : Bool) : (storeLine s pr n v poison).yoyos = s.yoyos := rfl
@[simp] theorem storeLine_dtOff (s : State) (pr n : Nat) (v : Line) (poison : Bool) : (storeLine s pr n v poison).dtOff = s.dtOff := rfl
@[simp] theorem storeLine_twins (s : State) (pr n : Nat) (v : Line) (poison : Bool) : (storeLine s pr n v poison).twins = s.twins := rfl
@[simp] theorem storeLine_xfifos (s : State) (pr n : Nat) (v : Line) (poison : Bool) : (storeLine s pr n v poison).xfifos = s.xfifos := rfl
@[simp] theorem storeLine_resets (s : State) (pr n : Nat) (v : Line) (poison : Bool) : (storeLine s pr n v poison).resets = s.resets := rfl
@[simp] theorem storeLine_faultQ (s : State) (pr n : Nat) (v : Line) (poison : Bool) : (storeLine s pr n v poison).faultQ = s.faultQ := rfl
@[simp] theorem storeLine_faultLog (s : State) (pr n : Nat) (v : Line) (poison : Bool) : (storeLine s pr n v poison).faultLog = s.faultLog := rfl
@[simp] theorem storeLine_wdogs (s : State) (pr n : Nat) (v : Line) (poison : Bool) : (storeLine s pr n v poison).wdogs = s.wdogs := rfl
@[simp] theorem storeLine_doms (s : State) (pr n : Nat) (v : Line) (poison : Bool) : (storeLine s pr n v poison).doms = s.doms := rfl
@[simp] theorem storeLine_cores (s : State) (pr n : Nat) (v : Line) (poison : Bool) : (storeLine s pr n v poison).cores = s.cores := rfl
@[simp] theorem storeLine_l2s (s : State) (pr n : Nat) (v : Line) (poison : Bool) : (storeLine s pr n v poison).l2s = s.l2s := rfl
@[simp] theorem storeLine_sc (s : State) (pr n : Nat) (v : Line) (poison : Bool) : (storeLine s pr n v poison).sc = s.sc := rfl
@[simp] theorem storeLine_sram (s : State) (pr n : Nat) (v : Line) (poison : Bool) : (storeLine s pr n v poison).sram = s.sram := rfl
@[simp] theorem storeLine_epoch (s : State) (pr n : Nat) (v : Line) (poison : Bool) : (storeLine s pr n v poison).epoch = s.epoch := rfl
@[simp] theorem storeLine_engEpoch (s : State) (pr n : Nat) (v : Line) (poison : Bool) : (storeLine s pr n v poison).engEpoch = s.engEpoch := rfl
@[simp] theorem storeLine_eeprom (s : State) (pr n : Nat) (v : Line) (poison : Bool) : (storeLine s pr n v poison).eeprom = s.eeprom := rfl
@[simp] theorem storeLine_calib (s : State) (pr n : Nat) (v : Line) (poison : Bool) : (storeLine s pr n v poison).calib = s.calib := rfl
@[simp] theorem storeLine_sage (s : State) (pr n : Nat) (v : Line) (poison : Bool) : (storeLine s pr n v poison).sage = s.sage := rfl
@[simp] theorem storeLine_engines (s : State) (pr n : Nat) (v : Line) (poison : Bool) : (storeLine s pr n v poison).engines = s.engines := rfl
@[simp] theorem storeLine_clusters (s : State) (pr n : Nat) (v : Line) (poison : Bool) : (storeLine s pr n v poison).clusters = s.clusters := rfl
@[simp] theorem storeLine_movers (s : State) (pr n : Nat) (v : Line) (poison : Bool) : (storeLine s pr n v poison).movers = s.movers := rfl
@[simp] theorem storeLine_cells (s : State) (pr n : Nat) (v : Line) (poison : Bool) : (storeLine s pr n v poison).cells = s.cells := rfl
@[simp] theorem storeLine_tyl (s : State) (pr n : Nat) (v : Line) (poison : Bool) : (storeLine s pr n v poison).tyl = s.tyl := rfl
@[simp] theorem storeLine_synt (s : State) (pr n : Nat) (v : Line) (poison : Bool) : (storeLine s pr n v poison).synt = s.synt := rfl
@[simp] theorem storeLine_macs (s : State) (pr n : Nat) (v : Line) (poison : Bool) : (storeLine s pr n v poison).macs = s.macs := rfl
@[simp] theorem storeLine_strms (s : State) (pr n : Nat) (v : Line) (poison : Bool) : (storeLine s pr n v poison).strms = s.strms := rfl
@[simp] theorem storeLine_pcies (s : State) (pr n : Nat) (v : Line) (poison : Bool) : (storeLine s pr n v poison).pcies = s.pcies := rfl
@[simp] theorem storeLine_pwr (s : State) (pr n : Nat) (v : Line) (poison : Bool) : (storeLine s pr n v poison).pwr = s.pwr := rfl
@[simp] theorem storeLine_mari (s : State) (pr n : Nat) (v : Line) (poison : Bool) : (storeLine s pr n v poison).mari = s.mari := rfl
@[simp] theorem storeLine_wakeL (s : State) (pr n : Nat) (v : Line) (poison : Bool) : (storeLine s pr n v poison).wakeL = s.wakeL := rfl
@[simp] theorem storeLine_jtag (s : State) (pr n : Nat) (v : Line) (poison : Bool) : (storeLine s pr n v poison).jtag = s.jtag := rfl
@[simp] theorem storeLine_bist (s : State) (pr n : Nat) (v : Line) (poison : Bool) : (storeLine s pr n v poison).bist = s.bist := rfl
@[simp] theorem storeLine_verdict (s : State) (pr n : Nat) (v : Line) (poison : Bool) : (storeLine s pr n v poison).verdict = s.verdict := rfl
@[simp] theorem storeLine_lanePll (s : State) (pr n : Nat) (v : Line) (poison : Bool) : (storeLine s pr n v poison).lanePll = s.lanePll := rfl

/-! ## updSrc -/

@[simp] theorem updSrc_pending (s : State) (k : Nat) (f : SrcRec → SrcRec) : (updSrc s k f).pending = s.pending := rfl
@[simp] theorem updSrc_freeCtr (s : State) (k : Nat) (f : SrcRec → SrcRec) : (updSrc s k f).freeCtr = s.freeCtr := rfl
@[simp] theorem updSrc_dt (s : State) (k : Nat) (f : SrcRec → SrcRec) : (updSrc s k f).dt = s.dt := rfl
@[simp] theorem updSrc_regs (s : State) (k : Nat) (f : SrcRec → SrcRec) : (updSrc s k f).regs = s.regs := rfl
@[simp] theorem updSrc_clsGrant (s : State) (k : Nat) (f : SrcRec → SrcRec) : (updSrc s k f).clsGrant = s.clsGrant := rfl
@[simp] theorem updSrc_fab (s : State) (k : Nat) (f : SrcRec → SrcRec) : (updSrc s k f).fab = s.fab := rfl
@[simp] theorem updSrc_yoyos (s : State) (k : Nat) (f : SrcRec → SrcRec) : (updSrc s k f).yoyos = s.yoyos := rfl
@[simp] theorem updSrc_dtOff (s : State) (k : Nat) (f : SrcRec → SrcRec) : (updSrc s k f).dtOff = s.dtOff := rfl
@[simp] theorem updSrc_twins (s : State) (k : Nat) (f : SrcRec → SrcRec) : (updSrc s k f).twins = s.twins := rfl
@[simp] theorem updSrc_xfifos (s : State) (k : Nat) (f : SrcRec → SrcRec) : (updSrc s k f).xfifos = s.xfifos := rfl
@[simp] theorem updSrc_resets (s : State) (k : Nat) (f : SrcRec → SrcRec) : (updSrc s k f).resets = s.resets := rfl
@[simp] theorem updSrc_faultQ (s : State) (k : Nat) (f : SrcRec → SrcRec) : (updSrc s k f).faultQ = s.faultQ := rfl
@[simp] theorem updSrc_faultLog (s : State) (k : Nat) (f : SrcRec → SrcRec) : (updSrc s k f).faultLog = s.faultLog := rfl
@[simp] theorem updSrc_wdogs (s : State) (k : Nat) (f : SrcRec → SrcRec) : (updSrc s k f).wdogs = s.wdogs := rfl
@[simp] theorem updSrc_doms (s : State) (k : Nat) (f : SrcRec → SrcRec) : (updSrc s k f).doms = s.doms := rfl
@[simp] theorem updSrc_cores (s : State) (k : Nat) (f : SrcRec → SrcRec) : (updSrc s k f).cores = s.cores := rfl
@[simp] theorem updSrc_l2s (s : State) (k : Nat) (f : SrcRec → SrcRec) : (updSrc s k f).l2s = s.l2s := rfl
@[simp] theorem updSrc_sc (s : State) (k : Nat) (f : SrcRec → SrcRec) : (updSrc s k f).sc = s.sc := rfl
@[simp] theorem updSrc_dram (s : State) (k : Nat) (f : SrcRec → SrcRec) : (updSrc s k f).dram = s.dram := rfl
@[simp] theorem updSrc_sram (s : State) (k : Nat) (f : SrcRec → SrcRec) : (updSrc s k f).sram = s.sram := rfl
@[simp] theorem updSrc_epoch (s : State) (k : Nat) (f : SrcRec → SrcRec) : (updSrc s k f).epoch = s.epoch := rfl
@[simp] theorem updSrc_engEpoch (s : State) (k : Nat) (f : SrcRec → SrcRec) : (updSrc s k f).engEpoch = s.engEpoch := rfl
@[simp] theorem updSrc_eeprom (s : State) (k : Nat) (f : SrcRec → SrcRec) : (updSrc s k f).eeprom = s.eeprom := rfl
@[simp] theorem updSrc_calib (s : State) (k : Nat) (f : SrcRec → SrcRec) : (updSrc s k f).calib = s.calib := rfl
@[simp] theorem updSrc_sage (s : State) (k : Nat) (f : SrcRec → SrcRec) : (updSrc s k f).sage = s.sage := rfl
@[simp] theorem updSrc_engines (s : State) (k : Nat) (f : SrcRec → SrcRec) : (updSrc s k f).engines = s.engines := rfl
@[simp] theorem updSrc_clusters (s : State) (k : Nat) (f : SrcRec → SrcRec) : (updSrc s k f).clusters = s.clusters := rfl
@[simp] theorem updSrc_movers (s : State) (k : Nat) (f : SrcRec → SrcRec) : (updSrc s k f).movers = s.movers := rfl
@[simp] theorem updSrc_cells (s : State) (k : Nat) (f : SrcRec → SrcRec) : (updSrc s k f).cells = s.cells := rfl
@[simp] theorem updSrc_tyl (s : State) (k : Nat) (f : SrcRec → SrcRec) : (updSrc s k f).tyl = s.tyl := rfl
@[simp] theorem updSrc_synt (s : State) (k : Nat) (f : SrcRec → SrcRec) : (updSrc s k f).synt = s.synt := rfl
@[simp] theorem updSrc_macs (s : State) (k : Nat) (f : SrcRec → SrcRec) : (updSrc s k f).macs = s.macs := rfl
@[simp] theorem updSrc_strms (s : State) (k : Nat) (f : SrcRec → SrcRec) : (updSrc s k f).strms = s.strms := rfl
@[simp] theorem updSrc_pcies (s : State) (k : Nat) (f : SrcRec → SrcRec) : (updSrc s k f).pcies = s.pcies := rfl
@[simp] theorem updSrc_pwr (s : State) (k : Nat) (f : SrcRec → SrcRec) : (updSrc s k f).pwr = s.pwr := rfl
@[simp] theorem updSrc_mari (s : State) (k : Nat) (f : SrcRec → SrcRec) : (updSrc s k f).mari = s.mari := rfl
@[simp] theorem updSrc_wakeL (s : State) (k : Nat) (f : SrcRec → SrcRec) : (updSrc s k f).wakeL = s.wakeL := rfl
@[simp] theorem updSrc_jtag (s : State) (k : Nat) (f : SrcRec → SrcRec) : (updSrc s k f).jtag = s.jtag := rfl
@[simp] theorem updSrc_bist (s : State) (k : Nat) (f : SrcRec → SrcRec) : (updSrc s k f).bist = s.bist := rfl
@[simp] theorem updSrc_verdict (s : State) (k : Nat) (f : SrcRec → SrcRec) : (updSrc s k f).verdict = s.verdict := rfl
@[simp] theorem updSrc_lanePll (s : State) (k : Nat) (f : SrcRec → SrcRec) : (updSrc s k f).lanePll = s.lanePll := rfl

/-! ## setGrp -/

@[simp] theorem setGrp_pending (s : State) (g : Nat) (r : GrpRec) : (setGrp s g r).pending = s.pending := rfl
@[simp] theorem setGrp_freeCtr (s : State) (g : Nat) (r : GrpRec) : (setGrp s g r).freeCtr = s.freeCtr := rfl
@[simp] theorem setGrp_dt (s : State) (g : Nat) (r : GrpRec) : (setGrp s g r).dt = s.dt := rfl
@[simp] theorem setGrp_regs (s : State) (g : Nat) (r : GrpRec) : (setGrp s g r).regs = s.regs := rfl
@[simp] theorem setGrp_clsGrant (s : State) (g : Nat) (r : GrpRec) : (setGrp s g r).clsGrant = s.clsGrant := rfl
@[simp] theorem setGrp_fab (s : State) (g : Nat) (r : GrpRec) : (setGrp s g r).fab = s.fab := rfl
@[simp] theorem setGrp_yoyos (s : State) (g : Nat) (r : GrpRec) : (setGrp s g r).yoyos = s.yoyos := rfl
@[simp] theorem setGrp_dtOff (s : State) (g : Nat) (r : GrpRec) : (setGrp s g r).dtOff = s.dtOff := rfl
@[simp] theorem setGrp_twins (s : State) (g : Nat) (r : GrpRec) : (setGrp s g r).twins = s.twins := rfl
@[simp] theorem setGrp_xfifos (s : State) (g : Nat) (r : GrpRec) : (setGrp s g r).xfifos = s.xfifos := rfl
@[simp] theorem setGrp_resets (s : State) (g : Nat) (r : GrpRec) : (setGrp s g r).resets = s.resets := rfl
@[simp] theorem setGrp_faultQ (s : State) (g : Nat) (r : GrpRec) : (setGrp s g r).faultQ = s.faultQ := rfl
@[simp] theorem setGrp_faultLog (s : State) (g : Nat) (r : GrpRec) : (setGrp s g r).faultLog = s.faultLog := rfl
@[simp] theorem setGrp_wdogs (s : State) (g : Nat) (r : GrpRec) : (setGrp s g r).wdogs = s.wdogs := rfl
@[simp] theorem setGrp_doms (s : State) (g : Nat) (r : GrpRec) : (setGrp s g r).doms = s.doms := rfl
@[simp] theorem setGrp_cores (s : State) (g : Nat) (r : GrpRec) : (setGrp s g r).cores = s.cores := rfl
@[simp] theorem setGrp_l2s (s : State) (g : Nat) (r : GrpRec) : (setGrp s g r).l2s = s.l2s := rfl
@[simp] theorem setGrp_sc (s : State) (g : Nat) (r : GrpRec) : (setGrp s g r).sc = s.sc := rfl
@[simp] theorem setGrp_dram (s : State) (g : Nat) (r : GrpRec) : (setGrp s g r).dram = s.dram := rfl
@[simp] theorem setGrp_sram (s : State) (g : Nat) (r : GrpRec) : (setGrp s g r).sram = s.sram := rfl
@[simp] theorem setGrp_epoch (s : State) (g : Nat) (r : GrpRec) : (setGrp s g r).epoch = s.epoch := rfl
@[simp] theorem setGrp_engEpoch (s : State) (g : Nat) (r : GrpRec) : (setGrp s g r).engEpoch = s.engEpoch := rfl
@[simp] theorem setGrp_eeprom (s : State) (g : Nat) (r : GrpRec) : (setGrp s g r).eeprom = s.eeprom := rfl
@[simp] theorem setGrp_calib (s : State) (g : Nat) (r : GrpRec) : (setGrp s g r).calib = s.calib := rfl
@[simp] theorem setGrp_sage (s : State) (g : Nat) (r : GrpRec) : (setGrp s g r).sage = s.sage := rfl
@[simp] theorem setGrp_engines (s : State) (g : Nat) (r : GrpRec) : (setGrp s g r).engines = s.engines := rfl
@[simp] theorem setGrp_clusters (s : State) (g : Nat) (r : GrpRec) : (setGrp s g r).clusters = s.clusters := rfl
@[simp] theorem setGrp_movers (s : State) (g : Nat) (r : GrpRec) : (setGrp s g r).movers = s.movers := rfl
@[simp] theorem setGrp_cells (s : State) (g : Nat) (r : GrpRec) : (setGrp s g r).cells = s.cells := rfl
@[simp] theorem setGrp_tyl (s : State) (g : Nat) (r : GrpRec) : (setGrp s g r).tyl = s.tyl := rfl
@[simp] theorem setGrp_synt (s : State) (g : Nat) (r : GrpRec) : (setGrp s g r).synt = s.synt := rfl
@[simp] theorem setGrp_macs (s : State) (g : Nat) (r : GrpRec) : (setGrp s g r).macs = s.macs := rfl
@[simp] theorem setGrp_strms (s : State) (g : Nat) (r : GrpRec) : (setGrp s g r).strms = s.strms := rfl
@[simp] theorem setGrp_pcies (s : State) (g : Nat) (r : GrpRec) : (setGrp s g r).pcies = s.pcies := rfl
@[simp] theorem setGrp_pwr (s : State) (g : Nat) (r : GrpRec) : (setGrp s g r).pwr = s.pwr := rfl
@[simp] theorem setGrp_mari (s : State) (g : Nat) (r : GrpRec) : (setGrp s g r).mari = s.mari := rfl
@[simp] theorem setGrp_wakeL (s : State) (g : Nat) (r : GrpRec) : (setGrp s g r).wakeL = s.wakeL := rfl
@[simp] theorem setGrp_jtag (s : State) (g : Nat) (r : GrpRec) : (setGrp s g r).jtag = s.jtag := rfl
@[simp] theorem setGrp_bist (s : State) (g : Nat) (r : GrpRec) : (setGrp s g r).bist = s.bist := rfl
@[simp] theorem setGrp_verdict (s : State) (g : Nat) (r : GrpRec) : (setGrp s g r).verdict = s.verdict := rfl
@[simp] theorem setGrp_lanePll (s : State) (g : Nat) (r : GrpRec) : (setGrp s g r).lanePll = s.lanePll := rfl

/-! ## p0Falls -/

@[simp] theorem p0Falls_regs (s : State) (p : Page) : (p0Falls s p).regs = s.regs := by
  unfold p0Falls; split <;> rfl
@[simp] theorem p0Falls_pending (s : State) (p : Page) : (p0Falls s p).pending = s.pending := by
  unfold p0Falls; split <;> rfl
@[simp] theorem p0Falls_freeCtr (s : State) (p : Page) : (p0Falls s p).freeCtr = s.freeCtr := by
  unfold p0Falls; split <;> rfl
@[simp] theorem p0Falls_dt (s : State) (p : Page) : (p0Falls s p).dt = s.dt := by
  unfold p0Falls; split <;> rfl
@[simp] theorem p0Falls_clsGrant (s : State) (p : Page) : (p0Falls s p).clsGrant = s.clsGrant := by
  unfold p0Falls; split <;> rfl
@[simp] theorem p0Falls_fab (s : State) (p : Page) : (p0Falls s p).fab = s.fab := by
  unfold p0Falls; split <;> rfl
@[simp] theorem p0Falls_yoyos (s : State) (p : Page) : (p0Falls s p).yoyos = s.yoyos := by
  unfold p0Falls; split <;> rfl
@[simp] theorem p0Falls_dtOff (s : State) (p : Page) : (p0Falls s p).dtOff = s.dtOff := by
  unfold p0Falls; split <;> rfl
@[simp] theorem p0Falls_twins (s : State) (p : Page) : (p0Falls s p).twins = s.twins := by
  unfold p0Falls; split <;> rfl
@[simp] theorem p0Falls_xfifos (s : State) (p : Page) : (p0Falls s p).xfifos = s.xfifos := by
  unfold p0Falls; split <;> rfl
@[simp] theorem p0Falls_resets (s : State) (p : Page) : (p0Falls s p).resets = s.resets := by
  unfold p0Falls; split <;> rfl
@[simp] theorem p0Falls_faultQ (s : State) (p : Page) : (p0Falls s p).faultQ = s.faultQ := by
  unfold p0Falls; split <;> rfl
@[simp] theorem p0Falls_faultLog (s : State) (p : Page) : (p0Falls s p).faultLog = s.faultLog := by
  unfold p0Falls; split <;> rfl
@[simp] theorem p0Falls_wdogs (s : State) (p : Page) : (p0Falls s p).wdogs = s.wdogs := by
  unfold p0Falls; split <;> rfl
@[simp] theorem p0Falls_doms (s : State) (p : Page) : (p0Falls s p).doms = s.doms := by
  unfold p0Falls; split <;> rfl
@[simp] theorem p0Falls_cores (s : State) (p : Page) : (p0Falls s p).cores = s.cores := by
  unfold p0Falls; split <;> rfl
@[simp] theorem p0Falls_l2s (s : State) (p : Page) : (p0Falls s p).l2s = s.l2s := by
  unfold p0Falls; split <;> rfl
@[simp] theorem p0Falls_sc (s : State) (p : Page) : (p0Falls s p).sc = s.sc := by
  unfold p0Falls; split <;> rfl
@[simp] theorem p0Falls_dram (s : State) (p : Page) : (p0Falls s p).dram = s.dram := by
  unfold p0Falls; split <;> rfl
@[simp] theorem p0Falls_sram (s : State) (p : Page) : (p0Falls s p).sram = s.sram := by
  unfold p0Falls; split <;> rfl
@[simp] theorem p0Falls_epoch (s : State) (p : Page) : (p0Falls s p).epoch = s.epoch := by
  unfold p0Falls; split <;> rfl
@[simp] theorem p0Falls_engEpoch (s : State) (p : Page) : (p0Falls s p).engEpoch = s.engEpoch := by
  unfold p0Falls; split <;> rfl
@[simp] theorem p0Falls_eeprom (s : State) (p : Page) : (p0Falls s p).eeprom = s.eeprom := by
  unfold p0Falls; split <;> rfl
@[simp] theorem p0Falls_calib (s : State) (p : Page) : (p0Falls s p).calib = s.calib := by
  unfold p0Falls; split <;> rfl
@[simp] theorem p0Falls_sage (s : State) (p : Page) : (p0Falls s p).sage = s.sage := by
  unfold p0Falls; split <;> rfl
@[simp] theorem p0Falls_engines (s : State) (p : Page) : (p0Falls s p).engines = s.engines := by
  unfold p0Falls; split <;> rfl
@[simp] theorem p0Falls_clusters (s : State) (p : Page) : (p0Falls s p).clusters = s.clusters := by
  unfold p0Falls; split <;> rfl
@[simp] theorem p0Falls_movers (s : State) (p : Page) : (p0Falls s p).movers = s.movers := by
  unfold p0Falls; split <;> rfl
@[simp] theorem p0Falls_cells (s : State) (p : Page) : (p0Falls s p).cells = s.cells := by
  unfold p0Falls; split <;> rfl
@[simp] theorem p0Falls_tyl (s : State) (p : Page) : (p0Falls s p).tyl = s.tyl := by
  unfold p0Falls; split <;> rfl
@[simp] theorem p0Falls_synt (s : State) (p : Page) : (p0Falls s p).synt = s.synt := by
  unfold p0Falls; split <;> rfl
@[simp] theorem p0Falls_macs (s : State) (p : Page) : (p0Falls s p).macs = s.macs := by
  unfold p0Falls; split <;> rfl
@[simp] theorem p0Falls_strms (s : State) (p : Page) : (p0Falls s p).strms = s.strms := by
  unfold p0Falls; split <;> rfl
@[simp] theorem p0Falls_pcies (s : State) (p : Page) : (p0Falls s p).pcies = s.pcies := by
  unfold p0Falls; split <;> rfl
@[simp] theorem p0Falls_pwr (s : State) (p : Page) : (p0Falls s p).pwr = s.pwr := by
  unfold p0Falls; split <;> rfl
@[simp] theorem p0Falls_mari (s : State) (p : Page) : (p0Falls s p).mari = s.mari := by
  unfold p0Falls; split <;> rfl
@[simp] theorem p0Falls_wakeL (s : State) (p : Page) : (p0Falls s p).wakeL = s.wakeL := by
  unfold p0Falls; split <;> rfl
@[simp] theorem p0Falls_jtag (s : State) (p : Page) : (p0Falls s p).jtag = s.jtag := by
  unfold p0Falls; split <;> rfl
@[simp] theorem p0Falls_bist (s : State) (p : Page) : (p0Falls s p).bist = s.bist := by
  unfold p0Falls; split <;> rfl
@[simp] theorem p0Falls_verdict (s : State) (p : Page) : (p0Falls s p).verdict = s.verdict := by
  unfold p0Falls; split <;> rfl
@[simp] theorem p0Falls_lanePll (s : State) (p : Page) : (p0Falls s p).lanePll = s.lanePll := by
  unfold p0Falls; split <;> rfl

/-! ## Operations that may send a message -/

@[simp] theorem setIrq_pending (s : State) (p : Page) (m : Nat) : (setIrq s p m).pending = s.pending := by
  unfold setIrq withLine; split
  · dsimp only; split <;> simp [sendMsg]
  · rfl
@[simp] theorem setIrq_freeCtr (s : State) (p : Page) (m : Nat) : (setIrq s p m).freeCtr = s.freeCtr := by
  unfold setIrq withLine; split
  · dsimp only; split <;> simp [sendMsg]
  · rfl
@[simp] theorem setIrq_dt (s : State) (p : Page) (m : Nat) : (setIrq s p m).dt = s.dt := by
  unfold setIrq withLine; split
  · dsimp only; split <;> simp [sendMsg]
  · rfl
@[simp] theorem setIrq_clsGrant (s : State) (p : Page) (m : Nat) : (setIrq s p m).clsGrant = s.clsGrant := by
  unfold setIrq withLine; split
  · dsimp only; split <;> simp [sendMsg]
  · rfl
@[simp] theorem setIrq_fab (s : State) (p : Page) (m : Nat) : (setIrq s p m).fab = s.fab := by
  unfold setIrq withLine; split
  · dsimp only; split <;> simp [sendMsg]
  · rfl
@[simp] theorem setIrq_yoyos (s : State) (p : Page) (m : Nat) : (setIrq s p m).yoyos = s.yoyos := by
  unfold setIrq withLine; split
  · dsimp only; split <;> simp [sendMsg]
  · rfl
@[simp] theorem setIrq_dtOff (s : State) (p : Page) (m : Nat) : (setIrq s p m).dtOff = s.dtOff := by
  unfold setIrq withLine; split
  · dsimp only; split <;> simp [sendMsg]
  · rfl
@[simp] theorem setIrq_twins (s : State) (p : Page) (m : Nat) : (setIrq s p m).twins = s.twins := by
  unfold setIrq withLine; split
  · dsimp only; split <;> simp [sendMsg]
  · rfl
@[simp] theorem setIrq_xfifos (s : State) (p : Page) (m : Nat) : (setIrq s p m).xfifos = s.xfifos := by
  unfold setIrq withLine; split
  · dsimp only; split <;> simp [sendMsg]
  · rfl
@[simp] theorem setIrq_resets (s : State) (p : Page) (m : Nat) : (setIrq s p m).resets = s.resets := by
  unfold setIrq withLine; split
  · dsimp only; split <;> simp [sendMsg]
  · rfl
@[simp] theorem setIrq_faultQ (s : State) (p : Page) (m : Nat) : (setIrq s p m).faultQ = s.faultQ := by
  unfold setIrq withLine; split
  · dsimp only; split <;> simp [sendMsg]
  · rfl
@[simp] theorem setIrq_faultLog (s : State) (p : Page) (m : Nat) : (setIrq s p m).faultLog = s.faultLog := by
  unfold setIrq withLine; split
  · dsimp only; split <;> simp [sendMsg]
  · rfl
@[simp] theorem setIrq_wdogs (s : State) (p : Page) (m : Nat) : (setIrq s p m).wdogs = s.wdogs := by
  unfold setIrq withLine; split
  · dsimp only; split <;> simp [sendMsg]
  · rfl
@[simp] theorem setIrq_doms (s : State) (p : Page) (m : Nat) : (setIrq s p m).doms = s.doms := by
  unfold setIrq withLine; split
  · dsimp only; split <;> simp [sendMsg]
  · rfl
@[simp] theorem setIrq_cores (s : State) (p : Page) (m : Nat) : (setIrq s p m).cores = s.cores := by
  unfold setIrq withLine; split
  · dsimp only; split <;> simp [sendMsg]
  · rfl
@[simp] theorem setIrq_l2s (s : State) (p : Page) (m : Nat) : (setIrq s p m).l2s = s.l2s := by
  unfold setIrq withLine; split
  · dsimp only; split <;> simp [sendMsg]
  · rfl
@[simp] theorem setIrq_sc (s : State) (p : Page) (m : Nat) : (setIrq s p m).sc = s.sc := by
  unfold setIrq withLine; split
  · dsimp only; split <;> simp [sendMsg]
  · rfl
@[simp] theorem setIrq_dram (s : State) (p : Page) (m : Nat) : (setIrq s p m).dram = s.dram := by
  unfold setIrq withLine; split
  · dsimp only; split <;> simp [sendMsg]
  · rfl
@[simp] theorem setIrq_sram (s : State) (p : Page) (m : Nat) : (setIrq s p m).sram = s.sram := by
  unfold setIrq withLine; split
  · dsimp only; split <;> simp [sendMsg]
  · rfl
@[simp] theorem setIrq_epoch (s : State) (p : Page) (m : Nat) : (setIrq s p m).epoch = s.epoch := by
  unfold setIrq withLine; split
  · dsimp only; split <;> simp [sendMsg]
  · rfl
@[simp] theorem setIrq_engEpoch (s : State) (p : Page) (m : Nat) : (setIrq s p m).engEpoch = s.engEpoch := by
  unfold setIrq withLine; split
  · dsimp only; split <;> simp [sendMsg]
  · rfl
@[simp] theorem setIrq_eeprom (s : State) (p : Page) (m : Nat) : (setIrq s p m).eeprom = s.eeprom := by
  unfold setIrq withLine; split
  · dsimp only; split <;> simp [sendMsg]
  · rfl
@[simp] theorem setIrq_calib (s : State) (p : Page) (m : Nat) : (setIrq s p m).calib = s.calib := by
  unfold setIrq withLine; split
  · dsimp only; split <;> simp [sendMsg]
  · rfl
@[simp] theorem setIrq_sage (s : State) (p : Page) (m : Nat) : (setIrq s p m).sage = s.sage := by
  unfold setIrq withLine; split
  · dsimp only; split <;> simp [sendMsg]
  · rfl
@[simp] theorem setIrq_engines (s : State) (p : Page) (m : Nat) : (setIrq s p m).engines = s.engines := by
  unfold setIrq withLine; split
  · dsimp only; split <;> simp [sendMsg]
  · rfl
@[simp] theorem setIrq_clusters (s : State) (p : Page) (m : Nat) : (setIrq s p m).clusters = s.clusters := by
  unfold setIrq withLine; split
  · dsimp only; split <;> simp [sendMsg]
  · rfl
@[simp] theorem setIrq_movers (s : State) (p : Page) (m : Nat) : (setIrq s p m).movers = s.movers := by
  unfold setIrq withLine; split
  · dsimp only; split <;> simp [sendMsg]
  · rfl
@[simp] theorem setIrq_cells (s : State) (p : Page) (m : Nat) : (setIrq s p m).cells = s.cells := by
  unfold setIrq withLine; split
  · dsimp only; split <;> simp [sendMsg]
  · rfl
@[simp] theorem setIrq_tyl (s : State) (p : Page) (m : Nat) : (setIrq s p m).tyl = s.tyl := by
  unfold setIrq withLine; split
  · dsimp only; split <;> simp [sendMsg]
  · rfl
@[simp] theorem setIrq_synt (s : State) (p : Page) (m : Nat) : (setIrq s p m).synt = s.synt := by
  unfold setIrq withLine; split
  · dsimp only; split <;> simp [sendMsg]
  · rfl
@[simp] theorem setIrq_macs (s : State) (p : Page) (m : Nat) : (setIrq s p m).macs = s.macs := by
  unfold setIrq withLine; split
  · dsimp only; split <;> simp [sendMsg]
  · rfl
@[simp] theorem setIrq_strms (s : State) (p : Page) (m : Nat) : (setIrq s p m).strms = s.strms := by
  unfold setIrq withLine; split
  · dsimp only; split <;> simp [sendMsg]
  · rfl
@[simp] theorem setIrq_pcies (s : State) (p : Page) (m : Nat) : (setIrq s p m).pcies = s.pcies := by
  unfold setIrq withLine; split
  · dsimp only; split <;> simp [sendMsg]
  · rfl
@[simp] theorem setIrq_pwr (s : State) (p : Page) (m : Nat) : (setIrq s p m).pwr = s.pwr := by
  unfold setIrq withLine; split
  · dsimp only; split <;> simp [sendMsg]
  · rfl
@[simp] theorem setIrq_mari (s : State) (p : Page) (m : Nat) : (setIrq s p m).mari = s.mari := by
  unfold setIrq withLine; split
  · dsimp only; split <;> simp [sendMsg]
  · rfl
@[simp] theorem setIrq_wakeL (s : State) (p : Page) (m : Nat) : (setIrq s p m).wakeL = s.wakeL := by
  unfold setIrq withLine; split
  · dsimp only; split <;> simp [sendMsg]
  · rfl
@[simp] theorem setIrq_jtag (s : State) (p : Page) (m : Nat) : (setIrq s p m).jtag = s.jtag := by
  unfold setIrq withLine; split
  · dsimp only; split <;> simp [sendMsg]
  · rfl
@[simp] theorem setIrq_bist (s : State) (p : Page) (m : Nat) : (setIrq s p m).bist = s.bist := by
  unfold setIrq withLine; split
  · dsimp only; split <;> simp [sendMsg]
  · rfl
@[simp] theorem setIrq_verdict (s : State) (p : Page) (m : Nat) : (setIrq s p m).verdict = s.verdict := by
  unfold setIrq withLine; split
  · dsimp only; split <;> simp [sendMsg]
  · rfl
@[simp] theorem setIrq_lanePll (s : State) (p : Page) (m : Nat) : (setIrq s p m).lanePll = s.lanePll := by
  unfold setIrq withLine; split
  · dsimp only; split <;> simp [sendMsg]
  · rfl
@[simp] theorem setW_pending (s : State) (n : Fin 24) (d : Fin 32) (v : Word64) : (setW s n d v).pending = s.pending := by
  unfold setW; split <;> rfl
@[simp] theorem setW_freeCtr (s : State) (n : Fin 24) (d : Fin 32) (v : Word64) : (setW s n d v).freeCtr = s.freeCtr := by
  unfold setW; split <;> rfl
@[simp] theorem setW_dt (s : State) (n : Fin 24) (d : Fin 32) (v : Word64) : (setW s n d v).dt = s.dt := by
  unfold setW; split <;> rfl
@[simp] theorem setW_regs (s : State) (n : Fin 24) (d : Fin 32) (v : Word64) : (setW s n d v).regs = s.regs := by
  unfold setW; split <;> rfl
@[simp] theorem setW_clsGrant (s : State) (n : Fin 24) (d : Fin 32) (v : Word64) : (setW s n d v).clsGrant = s.clsGrant := by
  unfold setW; split <;> rfl
@[simp] theorem setW_fab (s : State) (n : Fin 24) (d : Fin 32) (v : Word64) : (setW s n d v).fab = s.fab := by
  unfold setW; split <;> rfl
@[simp] theorem setW_ic (s : State) (n : Fin 24) (d : Fin 32) (v : Word64) : (setW s n d v).ic = s.ic := by
  unfold setW; split <;> rfl
@[simp] theorem setW_yoyos (s : State) (n : Fin 24) (d : Fin 32) (v : Word64) : (setW s n d v).yoyos = s.yoyos := by
  unfold setW; split <;> rfl
@[simp] theorem setW_faultQ (s : State) (n : Fin 24) (d : Fin 32) (v : Word64) : (setW s n d v).faultQ = s.faultQ := by
  unfold setW; split <;> rfl
@[simp] theorem setW_faultLog (s : State) (n : Fin 24) (d : Fin 32) (v : Word64) : (setW s n d v).faultLog = s.faultLog := by
  unfold setW; split <;> rfl
@[simp] theorem setW_wdogs (s : State) (n : Fin 24) (d : Fin 32) (v : Word64) : (setW s n d v).wdogs = s.wdogs := by
  unfold setW; split <;> rfl
@[simp] theorem setW_doms (s : State) (n : Fin 24) (d : Fin 32) (v : Word64) : (setW s n d v).doms = s.doms := by
  unfold setW; split <;> rfl
@[simp] theorem setW_l2s (s : State) (n : Fin 24) (d : Fin 32) (v : Word64) : (setW s n d v).l2s = s.l2s := by
  unfold setW; split <;> rfl
@[simp] theorem setW_sc (s : State) (n : Fin 24) (d : Fin 32) (v : Word64) : (setW s n d v).sc = s.sc := by
  unfold setW; split <;> rfl
@[simp] theorem setW_dram (s : State) (n : Fin 24) (d : Fin 32) (v : Word64) : (setW s n d v).dram = s.dram := by
  unfold setW; split <;> rfl
@[simp] theorem setW_sram (s : State) (n : Fin 24) (d : Fin 32) (v : Word64) : (setW s n d v).sram = s.sram := by
  unfold setW; split <;> rfl
@[simp] theorem setW_epoch (s : State) (n : Fin 24) (d : Fin 32) (v : Word64) : (setW s n d v).epoch = s.epoch := by
  unfold setW; split <;> rfl
@[simp] theorem setW_engEpoch (s : State) (n : Fin 24) (d : Fin 32) (v : Word64) : (setW s n d v).engEpoch = s.engEpoch := by
  unfold setW; split <;> rfl
@[simp] theorem setW_eeprom (s : State) (n : Fin 24) (d : Fin 32) (v : Word64) : (setW s n d v).eeprom = s.eeprom := by
  unfold setW; split <;> rfl
@[simp] theorem setW_calib (s : State) (n : Fin 24) (d : Fin 32) (v : Word64) : (setW s n d v).calib = s.calib := by
  unfold setW; split <;> rfl
@[simp] theorem setW_sage (s : State) (n : Fin 24) (d : Fin 32) (v : Word64) : (setW s n d v).sage = s.sage := by
  unfold setW; split <;> rfl
@[simp] theorem setW_engines (s : State) (n : Fin 24) (d : Fin 32) (v : Word64) : (setW s n d v).engines = s.engines := by
  unfold setW; split <;> rfl
@[simp] theorem setW_clusters (s : State) (n : Fin 24) (d : Fin 32) (v : Word64) : (setW s n d v).clusters = s.clusters := by
  unfold setW; split <;> rfl
@[simp] theorem setW_movers (s : State) (n : Fin 24) (d : Fin 32) (v : Word64) : (setW s n d v).movers = s.movers := by
  unfold setW; split <;> rfl
@[simp] theorem setW_cells (s : State) (n : Fin 24) (d : Fin 32) (v : Word64) : (setW s n d v).cells = s.cells := by
  unfold setW; split <;> rfl
@[simp] theorem setW_tyl (s : State) (n : Fin 24) (d : Fin 32) (v : Word64) : (setW s n d v).tyl = s.tyl := by
  unfold setW; split <;> rfl
@[simp] theorem setW_synt (s : State) (n : Fin 24) (d : Fin 32) (v : Word64) : (setW s n d v).synt = s.synt := by
  unfold setW; split <;> rfl
@[simp] theorem setW_macs (s : State) (n : Fin 24) (d : Fin 32) (v : Word64) : (setW s n d v).macs = s.macs := by
  unfold setW; split <;> rfl
@[simp] theorem setW_strms (s : State) (n : Fin 24) (d : Fin 32) (v : Word64) : (setW s n d v).strms = s.strms := by
  unfold setW; split <;> rfl
@[simp] theorem setW_pcies (s : State) (n : Fin 24) (d : Fin 32) (v : Word64) : (setW s n d v).pcies = s.pcies := by
  unfold setW; split <;> rfl
@[simp] theorem setW_pwr (s : State) (n : Fin 24) (d : Fin 32) (v : Word64) : (setW s n d v).pwr = s.pwr := by
  unfold setW; split <;> rfl
@[simp] theorem setW_mari (s : State) (n : Fin 24) (d : Fin 32) (v : Word64) : (setW s n d v).mari = s.mari := by
  unfold setW; split <;> rfl
@[simp] theorem setW_wakeL (s : State) (n : Fin 24) (d : Fin 32) (v : Word64) : (setW s n d v).wakeL = s.wakeL := by
  unfold setW; split <;> rfl
@[simp] theorem setW_jtag (s : State) (n : Fin 24) (d : Fin 32) (v : Word64) : (setW s n d v).jtag = s.jtag := by
  unfold setW; split <;> rfl
@[simp] theorem setW_bist (s : State) (n : Fin 24) (d : Fin 32) (v : Word64) : (setW s n d v).bist = s.bist := by
  unfold setW; split <;> rfl
@[simp] theorem setW_verdict (s : State) (n : Fin 24) (d : Fin 32) (v : Word64) : (setW s n d v).verdict = s.verdict := by
  unfold setW; split <;> rfl
@[simp] theorem setW_lanePll (s : State) (n : Fin 24) (d : Fin 32) (v : Word64) : (setW s n d v).lanePll = s.lanePll := by
  unfold setW; split <;> rfl
@[simp] theorem recordErr_pending (s : State) (p : Page) (code cls : Nat) (a : Attr) (detail did : Nat) (b : Bool) :
    (recordErr s p code cls a detail did b).pending = s.pending := by
  unfold recordErr; dsimp only; split <;> split <;> simp
@[simp] theorem recordErr_freeCtr (s : State) (p : Page) (code cls : Nat) (a : Attr) (detail did : Nat) (b : Bool) :
    (recordErr s p code cls a detail did b).freeCtr = s.freeCtr := by
  unfold recordErr; dsimp only; split <;> split <;> simp
@[simp] theorem recordErr_dt (s : State) (p : Page) (code cls : Nat) (a : Attr) (detail did : Nat) (b : Bool) :
    (recordErr s p code cls a detail did b).dt = s.dt := by
  unfold recordErr; dsimp only; split <;> split <;> simp
@[simp] theorem recordErr_clsGrant (s : State) (p : Page) (code cls : Nat) (a : Attr) (detail did : Nat) (b : Bool) :
    (recordErr s p code cls a detail did b).clsGrant = s.clsGrant := by
  unfold recordErr; dsimp only; split <;> split <;> simp
@[simp] theorem recordErr_fab (s : State) (p : Page) (code cls : Nat) (a : Attr) (detail did : Nat) (b : Bool) :
    (recordErr s p code cls a detail did b).fab = s.fab := by
  unfold recordErr; dsimp only; split <;> split <;> simp
@[simp] theorem recordErr_yoyos (s : State) (p : Page) (code cls : Nat) (a : Attr) (detail did : Nat) (b : Bool) :
    (recordErr s p code cls a detail did b).yoyos = s.yoyos := by
  unfold recordErr; dsimp only; split <;> split <;> simp
@[simp] theorem recordErr_dtOff (s : State) (p : Page) (code cls : Nat) (a : Attr) (detail did : Nat) (b : Bool) :
    (recordErr s p code cls a detail did b).dtOff = s.dtOff := by
  unfold recordErr; dsimp only; split <;> split <;> simp
@[simp] theorem recordErr_twins (s : State) (p : Page) (code cls : Nat) (a : Attr) (detail did : Nat) (b : Bool) :
    (recordErr s p code cls a detail did b).twins = s.twins := by
  unfold recordErr; dsimp only; split <;> split <;> simp
@[simp] theorem recordErr_xfifos (s : State) (p : Page) (code cls : Nat) (a : Attr) (detail did : Nat) (b : Bool) :
    (recordErr s p code cls a detail did b).xfifos = s.xfifos := by
  unfold recordErr; dsimp only; split <;> split <;> simp
@[simp] theorem recordErr_resets (s : State) (p : Page) (code cls : Nat) (a : Attr) (detail did : Nat) (b : Bool) :
    (recordErr s p code cls a detail did b).resets = s.resets := by
  unfold recordErr; dsimp only; split <;> split <;> simp
@[simp] theorem recordErr_faultLog (s : State) (p : Page) (code cls : Nat) (a : Attr) (detail did : Nat) (b : Bool) :
    (recordErr s p code cls a detail did b).faultLog = s.faultLog := by
  unfold recordErr; dsimp only; split <;> split <;> simp
@[simp] theorem recordErr_wdogs (s : State) (p : Page) (code cls : Nat) (a : Attr) (detail did : Nat) (b : Bool) :
    (recordErr s p code cls a detail did b).wdogs = s.wdogs := by
  unfold recordErr; dsimp only; split <;> split <;> simp
@[simp] theorem recordErr_doms (s : State) (p : Page) (code cls : Nat) (a : Attr) (detail did : Nat) (b : Bool) :
    (recordErr s p code cls a detail did b).doms = s.doms := by
  unfold recordErr; dsimp only; split <;> split <;> simp
@[simp] theorem recordErr_cores (s : State) (p : Page) (code cls : Nat) (a : Attr) (detail did : Nat) (b : Bool) :
    (recordErr s p code cls a detail did b).cores = s.cores := by
  unfold recordErr; dsimp only; split <;> split <;> simp
@[simp] theorem recordErr_l2s (s : State) (p : Page) (code cls : Nat) (a : Attr) (detail did : Nat) (b : Bool) :
    (recordErr s p code cls a detail did b).l2s = s.l2s := by
  unfold recordErr; dsimp only; split <;> split <;> simp
@[simp] theorem recordErr_sc (s : State) (p : Page) (code cls : Nat) (a : Attr) (detail did : Nat) (b : Bool) :
    (recordErr s p code cls a detail did b).sc = s.sc := by
  unfold recordErr; dsimp only; split <;> split <;> simp
@[simp] theorem recordErr_dram (s : State) (p : Page) (code cls : Nat) (a : Attr) (detail did : Nat) (b : Bool) :
    (recordErr s p code cls a detail did b).dram = s.dram := by
  unfold recordErr; dsimp only; split <;> split <;> simp
@[simp] theorem recordErr_sram (s : State) (p : Page) (code cls : Nat) (a : Attr) (detail did : Nat) (b : Bool) :
    (recordErr s p code cls a detail did b).sram = s.sram := by
  unfold recordErr; dsimp only; split <;> split <;> simp
@[simp] theorem recordErr_epoch (s : State) (p : Page) (code cls : Nat) (a : Attr) (detail did : Nat) (b : Bool) :
    (recordErr s p code cls a detail did b).epoch = s.epoch := by
  unfold recordErr; dsimp only; split <;> split <;> simp
@[simp] theorem recordErr_engEpoch (s : State) (p : Page) (code cls : Nat) (a : Attr) (detail did : Nat) (b : Bool) :
    (recordErr s p code cls a detail did b).engEpoch = s.engEpoch := by
  unfold recordErr; dsimp only; split <;> split <;> simp
@[simp] theorem recordErr_eeprom (s : State) (p : Page) (code cls : Nat) (a : Attr) (detail did : Nat) (b : Bool) :
    (recordErr s p code cls a detail did b).eeprom = s.eeprom := by
  unfold recordErr; dsimp only; split <;> split <;> simp
@[simp] theorem recordErr_calib (s : State) (p : Page) (code cls : Nat) (a : Attr) (detail did : Nat) (b : Bool) :
    (recordErr s p code cls a detail did b).calib = s.calib := by
  unfold recordErr; dsimp only; split <;> split <;> simp
@[simp] theorem recordErr_sage (s : State) (p : Page) (code cls : Nat) (a : Attr) (detail did : Nat) (b : Bool) :
    (recordErr s p code cls a detail did b).sage = s.sage := by
  unfold recordErr; dsimp only; split <;> split <;> simp
@[simp] theorem recordErr_engines (s : State) (p : Page) (code cls : Nat) (a : Attr) (detail did : Nat) (b : Bool) :
    (recordErr s p code cls a detail did b).engines = s.engines := by
  unfold recordErr; dsimp only; split <;> split <;> simp
@[simp] theorem recordErr_clusters (s : State) (p : Page) (code cls : Nat) (a : Attr) (detail did : Nat) (b : Bool) :
    (recordErr s p code cls a detail did b).clusters = s.clusters := by
  unfold recordErr; dsimp only; split <;> split <;> simp
@[simp] theorem recordErr_movers (s : State) (p : Page) (code cls : Nat) (a : Attr) (detail did : Nat) (b : Bool) :
    (recordErr s p code cls a detail did b).movers = s.movers := by
  unfold recordErr; dsimp only; split <;> split <;> simp
@[simp] theorem recordErr_cells (s : State) (p : Page) (code cls : Nat) (a : Attr) (detail did : Nat) (b : Bool) :
    (recordErr s p code cls a detail did b).cells = s.cells := by
  unfold recordErr; dsimp only; split <;> split <;> simp
@[simp] theorem recordErr_tyl (s : State) (p : Page) (code cls : Nat) (a : Attr) (detail did : Nat) (b : Bool) :
    (recordErr s p code cls a detail did b).tyl = s.tyl := by
  unfold recordErr; dsimp only; split <;> split <;> simp
@[simp] theorem recordErr_synt (s : State) (p : Page) (code cls : Nat) (a : Attr) (detail did : Nat) (b : Bool) :
    (recordErr s p code cls a detail did b).synt = s.synt := by
  unfold recordErr; dsimp only; split <;> split <;> simp
@[simp] theorem recordErr_macs (s : State) (p : Page) (code cls : Nat) (a : Attr) (detail did : Nat) (b : Bool) :
    (recordErr s p code cls a detail did b).macs = s.macs := by
  unfold recordErr; dsimp only; split <;> split <;> simp
@[simp] theorem recordErr_strms (s : State) (p : Page) (code cls : Nat) (a : Attr) (detail did : Nat) (b : Bool) :
    (recordErr s p code cls a detail did b).strms = s.strms := by
  unfold recordErr; dsimp only; split <;> split <;> simp
@[simp] theorem recordErr_pcies (s : State) (p : Page) (code cls : Nat) (a : Attr) (detail did : Nat) (b : Bool) :
    (recordErr s p code cls a detail did b).pcies = s.pcies := by
  unfold recordErr; dsimp only; split <;> split <;> simp
@[simp] theorem recordErr_pwr (s : State) (p : Page) (code cls : Nat) (a : Attr) (detail did : Nat) (b : Bool) :
    (recordErr s p code cls a detail did b).pwr = s.pwr := by
  unfold recordErr; dsimp only; split <;> split <;> simp
@[simp] theorem recordErr_mari (s : State) (p : Page) (code cls : Nat) (a : Attr) (detail did : Nat) (b : Bool) :
    (recordErr s p code cls a detail did b).mari = s.mari := by
  unfold recordErr; dsimp only; split <;> split <;> simp
@[simp] theorem recordErr_wakeL (s : State) (p : Page) (code cls : Nat) (a : Attr) (detail did : Nat) (b : Bool) :
    (recordErr s p code cls a detail did b).wakeL = s.wakeL := by
  unfold recordErr; dsimp only; split <;> split <;> simp
@[simp] theorem recordErr_jtag (s : State) (p : Page) (code cls : Nat) (a : Attr) (detail did : Nat) (b : Bool) :
    (recordErr s p code cls a detail did b).jtag = s.jtag := by
  unfold recordErr; dsimp only; split <;> split <;> simp
@[simp] theorem recordErr_bist (s : State) (p : Page) (code cls : Nat) (a : Attr) (detail did : Nat) (b : Bool) :
    (recordErr s p code cls a detail did b).bist = s.bist := by
  unfold recordErr; dsimp only; split <;> split <;> simp
@[simp] theorem recordErr_verdict (s : State) (p : Page) (code cls : Nat) (a : Attr) (detail did : Nat) (b : Bool) :
    (recordErr s p code cls a detail did b).verdict = s.verdict := by
  unfold recordErr; dsimp only; split <;> split <;> simp
@[simp] theorem recordErr_lanePll (s : State) (p : Page) (code cls : Nat) (a : Attr) (detail did : Nat) (b : Bool) :
    (recordErr s p code cls a detail did b).lanePll = s.lanePll := by
  unfold recordErr; dsimp only; split <;> split <;> simp

/-! ## advanceTo -/

/-- What setIrq and wr leave, the counters of R255 to R257 leave. -/
theorem pmuAdd_frame {α : Type} (f : State → α) (hi : ∀ s p m, f (setIrq s p m) = f s) (hw : ∀ s p off v, f (wr s p off v) = f s)
    (s : State) (n : Fin 24) (off i k : Nat) : f (pmuAdd s n off i k) = f s := by
  unfold pmuAdd; dsimp only; split
  · rw [hi, hw]
  · rw [hw]

/-- What each step of a fold leaves, the fold leaves. -/
theorem foldl_frame {α β : Type} (f : State → α) (g : State → β → State) (h : ∀ s x, f (g s x) = f s) (l : List β) (s : State) :
    f (l.foldl g s) = f s := by
  induction l generalizing s with
  | nil => rfl
  | cons x l ih => rw [List.foldl_cons, ih, h]

theorem pmuCount_frame {α : Type} (f : State → α) (hi : ∀ s p m, f (setIrq s p m) = f s) (hw : ∀ s p off v, f (wr s p off v) = f s)
    (l : Nat) (n : Fin 24) (k : Nat) (s : State) (ev : Nat) : f (pmuCount l n k s ev) = f s := by
  unfold pmuCount; split
  · refine foldl_frame f _ (fun t i => ?_) _ _
    split
    · exact pmuAdd_frame f hi hw ..
    · rfl
  · rfl

theorem specCount_frame {α : Type} (f : State → α) (hi : ∀ s p m, f (setIrq s p m) = f s) (hw : ∀ s p off v, f (wr s p off v) = f s)
    (n : Fin 24) (ev k : Nat) (s : State) : f (specCount n ev k s) = f s := by
  unfold specCount
  refine foldl_frame f _ (fun t i => ?_) _ _
  dsimp only
  split
  · split
    · rw [hi, hw]
    · rw [hw]
  · rfl

theorem coreCycles_frame {α : Type} (f : State → α) (hi : ∀ s p m, f (setIrq s p m) = f s) (hw : ∀ s p off v, f (wr s p off v) = f s)
    (a b : Nat) (s : State) (e : Nat × CoreRec) : f (coreCycles a b s e) = f s := by
  unfold coreCycles pmuCycles; dsimp only; split
  · split
    · rfl
    · rw [pmuCount_frame f hi hw, pmuCount_frame f hi hw]
      split
      · exact pmuAdd_frame f hi hw ..
      · rfl
  · rfl

theorem portCycles_frame {α : Type} (f : State → α) (hw : ∀ s p off v, f (wr s p off v) = f s) (a b : Nat) (s : State) (w : PortWait) :
    f (portCycles a b s w) = f s := by
  unfold portCycles confCount
  refine foldl_frame f _ (fun t i => ?_) _ _
  dsimp only
  split
  · unfold bumpF wrF; exact hw _ _ _ _
  · rfl

/-- Bringing device time forward changes registers of the core pages and of the SRAM page, messages, records of cores, the crossings and the time, and nothing else. -/
theorem advanceTo_frame {α : Type} (f : State → α) (hi : ∀ s p m, f (setIrq s p m) = f s) (hw : ∀ s p off v, f (wr s p off v) = f s)
    (hc : ∀ (s : State) t c, f { s with dt := t, cores := c } = f s)
    (hx : ∀ (s : State) w x, f { s with twins := w, xfifos := x } = f s) (s : State) (t : Nat) : f (advanceTo s t) = f s := by
  unfold advanceTo; split
  · rfl
  · refine (hc _ _ _).trans ((hx _ _ _).trans ?_)
    exact (foldl_frame f _ (coreCycles_frame f hi hw _ _) _ _).trans (foldl_frame f _ (portCycles_frame f hw _ _) _ _)

@[simp] theorem advanceTo_pending (s : State) (t : Nat) : (advanceTo s t).pending = s.pending :=
  advanceTo_frame State.pending setIrq_pending wr_pending (fun _ _ _ => rfl) (fun _ _ _ => rfl) s t
@[simp] theorem advanceTo_freeCtr (s : State) (t : Nat) : (advanceTo s t).freeCtr = s.freeCtr :=
  advanceTo_frame State.freeCtr setIrq_freeCtr wr_freeCtr (fun _ _ _ => rfl) (fun _ _ _ => rfl) s t
@[simp] theorem advanceTo_clsGrant (s : State) (t : Nat) : (advanceTo s t).clsGrant = s.clsGrant :=
  advanceTo_frame State.clsGrant setIrq_clsGrant wr_clsGrant (fun _ _ _ => rfl) (fun _ _ _ => rfl) s t
@[simp] theorem advanceTo_fab (s : State) (t : Nat) : (advanceTo s t).fab = s.fab :=
  advanceTo_frame State.fab setIrq_fab wr_fab (fun _ _ _ => rfl) (fun _ _ _ => rfl) s t
@[simp] theorem advanceTo_yoyos (s : State) (t : Nat) : (advanceTo s t).yoyos = s.yoyos :=
  advanceTo_frame State.yoyos setIrq_yoyos wr_yoyos (fun _ _ _ => rfl) (fun _ _ _ => rfl) s t
@[simp] theorem advanceTo_dtOff (s : State) (t : Nat) : (advanceTo s t).dtOff = s.dtOff :=
  advanceTo_frame State.dtOff setIrq_dtOff wr_dtOff (fun _ _ _ => rfl) (fun _ _ _ => rfl) s t
@[simp] theorem advanceTo_resets (s : State) (t : Nat) : (advanceTo s t).resets = s.resets :=
  advanceTo_frame State.resets setIrq_resets wr_resets (fun _ _ _ => rfl) (fun _ _ _ => rfl) s t
@[simp] theorem advanceTo_faultQ (s : State) (t : Nat) : (advanceTo s t).faultQ = s.faultQ :=
  advanceTo_frame State.faultQ setIrq_faultQ wr_faultQ (fun _ _ _ => rfl) (fun _ _ _ => rfl) s t
@[simp] theorem advanceTo_faultLog (s : State) (t : Nat) : (advanceTo s t).faultLog = s.faultLog :=
  advanceTo_frame State.faultLog setIrq_faultLog wr_faultLog (fun _ _ _ => rfl) (fun _ _ _ => rfl) s t
@[simp] theorem advanceTo_wdogs (s : State) (t : Nat) : (advanceTo s t).wdogs = s.wdogs :=
  advanceTo_frame State.wdogs setIrq_wdogs wr_wdogs (fun _ _ _ => rfl) (fun _ _ _ => rfl) s t
@[simp] theorem advanceTo_doms (s : State) (t : Nat) : (advanceTo s t).doms = s.doms :=
  advanceTo_frame State.doms setIrq_doms wr_doms (fun _ _ _ => rfl) (fun _ _ _ => rfl) s t
@[simp] theorem advanceTo_l2s (s : State) (t : Nat) : (advanceTo s t).l2s = s.l2s :=
  advanceTo_frame State.l2s setIrq_l2s wr_l2s (fun _ _ _ => rfl) (fun _ _ _ => rfl) s t
@[simp] theorem advanceTo_sc (s : State) (t : Nat) : (advanceTo s t).sc = s.sc :=
  advanceTo_frame State.sc setIrq_sc wr_sc (fun _ _ _ => rfl) (fun _ _ _ => rfl) s t
@[simp] theorem advanceTo_dram (s : State) (t : Nat) : (advanceTo s t).dram = s.dram :=
  advanceTo_frame State.dram setIrq_dram wr_dram (fun _ _ _ => rfl) (fun _ _ _ => rfl) s t
@[simp] theorem advanceTo_sram (s : State) (t : Nat) : (advanceTo s t).sram = s.sram :=
  advanceTo_frame State.sram setIrq_sram wr_sram (fun _ _ _ => rfl) (fun _ _ _ => rfl) s t
@[simp] theorem advanceTo_epoch (s : State) (t : Nat) : (advanceTo s t).epoch = s.epoch :=
  advanceTo_frame State.epoch setIrq_epoch wr_epoch (fun _ _ _ => rfl) (fun _ _ _ => rfl) s t
@[simp] theorem advanceTo_engEpoch (s : State) (t : Nat) : (advanceTo s t).engEpoch = s.engEpoch :=
  advanceTo_frame State.engEpoch setIrq_engEpoch wr_engEpoch (fun _ _ _ => rfl) (fun _ _ _ => rfl) s t
@[simp] theorem advanceTo_eeprom (s : State) (t : Nat) : (advanceTo s t).eeprom = s.eeprom :=
  advanceTo_frame State.eeprom setIrq_eeprom wr_eeprom (fun _ _ _ => rfl) (fun _ _ _ => rfl) s t
@[simp] theorem advanceTo_calib (s : State) (t : Nat) : (advanceTo s t).calib = s.calib :=
  advanceTo_frame State.calib setIrq_calib wr_calib (fun _ _ _ => rfl) (fun _ _ _ => rfl) s t
@[simp] theorem advanceTo_sage (s : State) (t : Nat) : (advanceTo s t).sage = s.sage :=
  advanceTo_frame State.sage setIrq_sage wr_sage (fun _ _ _ => rfl) (fun _ _ _ => rfl) s t
@[simp] theorem advanceTo_engines (s : State) (t : Nat) : (advanceTo s t).engines = s.engines :=
  advanceTo_frame State.engines setIrq_engines wr_engines (fun _ _ _ => rfl) (fun _ _ _ => rfl) s t
@[simp] theorem advanceTo_clusters (s : State) (t : Nat) : (advanceTo s t).clusters = s.clusters :=
  advanceTo_frame State.clusters setIrq_clusters wr_clusters (fun _ _ _ => rfl) (fun _ _ _ => rfl) s t
@[simp] theorem advanceTo_movers (s : State) (t : Nat) : (advanceTo s t).movers = s.movers :=
  advanceTo_frame State.movers setIrq_movers wr_movers (fun _ _ _ => rfl) (fun _ _ _ => rfl) s t
@[simp] theorem advanceTo_cells (s : State) (t : Nat) : (advanceTo s t).cells = s.cells :=
  advanceTo_frame State.cells setIrq_cells wr_cells (fun _ _ _ => rfl) (fun _ _ _ => rfl) s t
@[simp] theorem advanceTo_tyl (s : State) (t : Nat) : (advanceTo s t).tyl = s.tyl :=
  advanceTo_frame State.tyl setIrq_tyl wr_tyl (fun _ _ _ => rfl) (fun _ _ _ => rfl) s t
@[simp] theorem advanceTo_synt (s : State) (t : Nat) : (advanceTo s t).synt = s.synt :=
  advanceTo_frame State.synt setIrq_synt wr_synt (fun _ _ _ => rfl) (fun _ _ _ => rfl) s t
@[simp] theorem advanceTo_macs (s : State) (t : Nat) : (advanceTo s t).macs = s.macs :=
  advanceTo_frame State.macs setIrq_macs wr_macs (fun _ _ _ => rfl) (fun _ _ _ => rfl) s t
@[simp] theorem advanceTo_strms (s : State) (t : Nat) : (advanceTo s t).strms = s.strms :=
  advanceTo_frame State.strms setIrq_strms wr_strms (fun _ _ _ => rfl) (fun _ _ _ => rfl) s t
@[simp] theorem advanceTo_pcies (s : State) (t : Nat) : (advanceTo s t).pcies = s.pcies :=
  advanceTo_frame State.pcies setIrq_pcies wr_pcies (fun _ _ _ => rfl) (fun _ _ _ => rfl) s t
@[simp] theorem advanceTo_pwr (s : State) (t : Nat) : (advanceTo s t).pwr = s.pwr :=
  advanceTo_frame State.pwr setIrq_pwr wr_pwr (fun _ _ _ => rfl) (fun _ _ _ => rfl) s t
@[simp] theorem advanceTo_mari (s : State) (t : Nat) : (advanceTo s t).mari = s.mari :=
  advanceTo_frame State.mari setIrq_mari wr_mari (fun _ _ _ => rfl) (fun _ _ _ => rfl) s t
@[simp] theorem advanceTo_wakeL (s : State) (t : Nat) : (advanceTo s t).wakeL = s.wakeL :=
  advanceTo_frame State.wakeL setIrq_wakeL wr_wakeL (fun _ _ _ => rfl) (fun _ _ _ => rfl) s t
@[simp] theorem advanceTo_jtag (s : State) (t : Nat) : (advanceTo s t).jtag = s.jtag :=
  advanceTo_frame State.jtag setIrq_jtag wr_jtag (fun _ _ _ => rfl) (fun _ _ _ => rfl) s t
@[simp] theorem advanceTo_bist (s : State) (t : Nat) : (advanceTo s t).bist = s.bist :=
  advanceTo_frame State.bist setIrq_bist wr_bist (fun _ _ _ => rfl) (fun _ _ _ => rfl) s t
@[simp] theorem advanceTo_verdict (s : State) (t : Nat) : (advanceTo s t).verdict = s.verdict :=
  advanceTo_frame State.verdict setIrq_verdict wr_verdict (fun _ _ _ => rfl) (fun _ _ _ => rfl) s t
@[simp] theorem advanceTo_lanePll (s : State) (t : Nat) : (advanceTo s t).lanePll = s.lanePll :=
  advanceTo_frame State.lanePll setIrq_lanePll wr_lanePll (fun _ _ _ => rfl) (fun _ _ _ => rfl) s t
/-- Device time after bringing it forward. -/
@[simp] theorem advanceTo_dt (s : State) (t : Nat) : (advanceTo s t).dt = max s.dt t := by
  unfold advanceTo; dsimp only; split
  · omega
  · simp only [Nat.max_def]; split <;> omega

/-! ## What reads back -/

/-- A register that has been written reads as written. -/
@[simp] theorem rd_wr (s : State) (p : Page) (off : Nat) (v : Reg32) : rd (wr s p off v) p off = v := SMap.getF_setF _ _ _ _

/-- A register at another address reads as before. -/
theorem rd_wr_other (s : State) {p q : Page} {off o : Nat} (v : Reg32) (h : pageAddr q + o ≠ pageAddr p + off) :
    rd (wr s p off v) q o = rd s q o := SMap.getF_setF_other _ _ _ h

/-- Another register of the same page reads as before. -/
theorem rd_wr_off (s : State) (p : Page) {off o : Nat} (v : Reg32) (h : o ≠ off) : rd (wr s p off v) p o = rd s p o :=
  rd_wr_other s v (by omega)

/-- An update that leaves the registers leaves every read. -/
theorem rd_congr {s t : State} (h : t.regs = s.regs) (p : Page) (off : Nat) : rd t p off = rd s p off := by unfold rd; rw [h]

/-- The record of a unit changed. -/
@[simp] theorem core_updCore (s : State) (k : Fin 24) (f : CoreRec → CoreRec) : core (updCore s k f) k = f (core s k) := SMap.get_upd _ _ _ _

/-- The record of another unit stays. -/
theorem core_updCore_other (s : State) {k j : Fin 24} (f : CoreRec → CoreRec) (h : j ≠ k) : core (updCore s k f) j = core s j :=
  SMap.get_upd_other _ _ _ fun e => h (Fin.ext e)

/-- The record is the same where the field is. -/
theorem core_congr {s t : State} (h : t.cores = s.cores) (k : Fin 24) : core t k = core s k := by unfold core; rw [h]

/-- The record of a unit changed. -/
@[simp] theorem eng_updEng (s : State) (k : Fin 512) (f : NgEngine → NgEngine) : eng (updEng s k f) k = f (eng s k) := SMap.get_upd _ _ _ _

/-- The record of another unit stays. -/
theorem eng_updEng_other (s : State) {k j : Fin 512} (f : NgEngine → NgEngine) (h : j ≠ k) : eng (updEng s k f) j = eng s j :=
  SMap.get_upd_other _ _ _ fun e => h (Fin.ext e)

/-- The record is the same where the field is. -/
theorem eng_congr {s t : State} (h : t.engines = s.engines) (k : Fin 512) : eng t k = eng s k := by unfold eng; rw [h]

/-- The record of a unit changed. -/
@[simp] theorem clu_updClu (s : State) (k : Fin 32) (f : NgCluster → NgCluster) : clu (updClu s k f) k = f (clu s k) := SMap.get_upd _ _ _ _

/-- The record of another unit stays. -/
theorem clu_updClu_other (s : State) {k j : Fin 32} (f : NgCluster → NgCluster) (h : j ≠ k) : clu (updClu s k f) j = clu s j :=
  SMap.get_upd_other _ _ _ fun e => h (Fin.ext e)

/-- The record is the same where the field is. -/
theorem clu_congr {s t : State} (h : t.clusters = s.clusters) (k : Fin 32) : clu t k = clu s k := by unfold clu; rw [h]

/-- The record of a unit changed. -/
@[simp] theorem mov_updMov (s : State) (k : Fin 256) (f : MoverRec → MoverRec) : mov (updMov s k f) k = f (mov s k) := SMap.get_upd _ _ _ _

/-- The record of another unit stays. -/
theorem mov_updMov_other (s : State) {k j : Fin 256} (f : MoverRec → MoverRec) (h : j ≠ k) : mov (updMov s k f) j = mov s j :=
  SMap.get_upd_other _ _ _ fun e => h (Fin.ext e)

/-- The record is the same where the field is. -/
theorem mov_congr {s t : State} (h : t.movers = s.movers) (k : Fin 256) : mov t k = mov s k := by unfold mov; rw [h]

/-- The record of a unit changed. -/
@[simp] theorem cell_updCell (s : State) (k : Fin 256) (f : Cell → Cell) : cell (updCell s k f) k = f (cell s k) := SMap.get_upd _ _ _ _

/-- The record of another unit stays. -/
theorem cell_updCell_other (s : State) {k j : Fin 256} (f : Cell → Cell) (h : j ≠ k) : cell (updCell s k f) j = cell s j :=
  SMap.get_upd_other _ _ _ fun e => h (Fin.ext e)

/-- The record is the same where the field is. -/
theorem cell_congr {s t : State} (h : t.cells = s.cells) (k : Fin 256) : cell t k = cell s k := by unfold cell; rw [h]

/-- The record of a unit changed. -/
@[simp] theorem mac_updMac (s : State) (k : Fin 8) (f : EthMac → EthMac) : mac (updMac s k f) k = f (mac s k) := SMap.get_upd _ _ _ _

/-- The record of another unit stays. -/
theorem mac_updMac_other (s : State) {k j : Fin 8} (f : EthMac → EthMac) (h : j ≠ k) : mac (updMac s k f) j = mac s j :=
  SMap.get_upd_other _ _ _ fun e => h (Fin.ext e)

/-- The record is the same where the field is. -/
theorem mac_congr {s t : State} (h : t.macs = s.macs) (k : Fin 8) : mac t k = mac s k := by unfold mac; rw [h]

/-- The record of a unit changed. -/
@[simp] theorem pcie_updPcie (s : State) (k : Fin 4) (f : Pcie → Pcie) : pcie (updPcie s k f) k = f (pcie s k) := SMap.get_upd _ _ _ _

/-- The record of another unit stays. -/
theorem pcie_updPcie_other (s : State) {k j : Fin 4} (f : Pcie → Pcie) (h : j ≠ k) : pcie (updPcie s k f) j = pcie s j :=
  SMap.get_upd_other _ _ _ fun e => h (Fin.ext e)

/-- The record is the same where the field is. -/
theorem pcie_congr {s t : State} (h : t.pcies = s.pcies) (k : Fin 4) : pcie t k = pcie s k := by unfold pcie; rw [h]

/-- The record of a thread changed. -/
@[simp] theorem thr_updThr (s : State) (e : Fin 512) (t : Fin 4) (f : NgThread → NgThread) : thr (updThr s e t f) e t = f (thr s e t) := by
  unfold thr updThr
  rw [eng_updEng]
  exact SMap.get_upd _ _ _ _

/-- The record of another thread stays. -/
theorem thr_updThr_other (s : State) {e e' : Fin 512} {t t' : Fin 4} (f : NgThread → NgThread) (h : e' ≠ e ∨ t' ≠ t) :
    thr (updThr s e t f) e' t' = thr s e' t' := by
  unfold thr updThr
  by_cases he : e' = e
  · subst he
    rw [eng_updEng]
    exact SMap.get_upd_other _ _ _ fun q => (h.resolve_left (fun c => c rfl)) (Fin.ext q)
  · rw [eng_updEng_other s _ he]

/-! ## Registers of a Winovar core -/

/-- w0 reads as zero. -/
@[simp] theorem getW_zero (s : State) (n : Fin 24) : getW s n 0 = 0 := rfl

/-- w0 ignores writes. -/
@[simp] theorem setW_zero (s : State) (n : Fin 24) (v : Word64) : setW s n 0 v = s := rfl

/-- What the registers of a core read after one is written. -/
theorem getW_setW (s : State) (n : Fin 24) (d r : Fin 32) (v : Word64) :
    getW (setW s n d v) n r = if r = d ∧ d ≠ 0 then v else getW s n r := by
  unfold getW setW
  by_cases hd : d = 0
  · simp [hd]
  · by_cases hr : r = 0
    · subst hr; simp [Ne.symm hd]
    · rw [if_neg hr, if_neg hd, if_neg hr, core_updCore]
      by_cases h : r = d
      · subst h; simp [hd]
      · simp only [h, false_and, if_false]
        exact SMap.get_set_other _ _ _ fun q => h (Fin.ext q)

/-- A system register that has been written reads as written. -/
@[simp] theorem sysr_setSys (s : State) (n : Fin 24) (k : Nat) (v : Word64) : sysr (setSys s n k v) n k = v := by
  unfold sysr setSys
  rw [core_updCore]
  exact SMap.getF_setF _ _ _ _

/-- Another system register stays. -/
theorem sysr_setSys_other (s : State) (n : Fin 24) {k j : Nat} (v : Word64) (h : j ≠ k) : sysr (setSys s n k v) n j = sysr s n j := by
  unfold sysr setSys
  rw [core_updCore]
  exact SMap.getF_setF_other _ _ _ h

/-- An event of the counters leaves every core as it was. -/
@[simp] theorem pmuAdd_cores (s : State) (n : Fin 24) (off i k : Nat) : (pmuAdd s n off i k).cores = s.cores :=
  pmuAdd_frame State.cores setIrq_cores wr_cores ..

@[simp] theorem pmuCount_cores (l : Nat) (n : Fin 24) (k : Nat) (s : State) (ev : Nat) : (pmuCount l n k s ev).cores = s.cores :=
  pmuCount_frame State.cores setIrq_cores wr_cores ..

@[simp] theorem pmuEvent_cores (l : Nat) (n : Fin 24) (s : State) (ev : Nat) : (pmuEvent l n s ev).cores = s.cores :=
  pmuCount_cores ..

@[simp] theorem specCount_cores (n : Fin 24) (ev k : Nat) (s : State) : (specCount n ev k s).cores = s.cores :=
  specCount_frame State.cores setIrq_cores wr_cores ..

/-- The end of an instruction counts it and leaves every core as it was but for what the instruction did. -/
@[simp] theorem pmuRetire_cores (l : Nat) (n : Fin 24) (evs : List Nat) (s : State) :
    (pmuRetire l n evs s).cores = (updCore s n fun c => { c with done := c.done + 1 }).cores := by
  unfold pmuRetire
  dsimp only
  have h : ∀ t : State, ((2 :: evs).foldl (pmuEvent l n) t).cores = t.cores := foldl_frame State.cores _ (pmuEvent_cores l n) _
  rw [specCount_cores]
  simp only [updCore, h]
  split
  · rw [pmuAdd_cores]
  · rfl

end Sys2Proof.Machine
end

