-- ==== Sys2Proof/WellFormed.lean ====
section
/-!
DEFINITION. WellFormed.lean: which commands are well formed. The operand types keep every number in its range; what is left are the
relations between operands.
-/

namespace Sys2Proof

/-- A fabric request is well formed: within one block of 64 bytes of the 48-bit map (R589), its byte enables and data within its length, and a
packed word within a whole granule (R37). -/
def FReq.wf (r : FReq) : Bool :=
  decide (0 < r.len) && decide (r.addr / 64 = (r.addr + r.len - 1) / 64) && decide (r.addr < 2 ^ 48) && decide (r.be < 2 ^ r.len)
    && decide (r.data < 2 ^ (8 * r.len)) && (r.pos.isNone || (decide (r.len = 16) && decide (r.addr % 16 = 0)))

/-- Data of a write of `n` bytes. -/
def dataFits (n data : Nat) : Bool := decide (data < 2 ^ (8 * n))

/-- A command is well formed. -/
def Instr.wf : Instr → Bool
  | .fabricIngress (.new r _) => r.wf
  | .pcieInboundRequest _ _ _ _ _ _ len data _ => dataFits len.val data
  | .msi _ _ len data => dataFits len.val data
  | .ethRxFrame _ f _ _ => !f.isEmpty
  | .tylwenLinkUp _ prop => decide (prop.length ≤ 15)
  | .samplePreload lands load => decide (lands.length = 512) && decide (load.length = 512)
  | _ => true

end Sys2Proof
end

