-- ==== Sys2Proof/Tests/Slice0.lean ====
section
/-!
SUPPORT. Tests/Slice0.lean: the model's own tests: well-formedness, one step each on small states, and for every statement that has
hypotheses a state and operands that meet them.
-/

namespace Sys2Proof.Tests

set_option linter.unusedVariables false
set_option Elab.async false

open Sys2Proof.Machine Sys2Proof.Claims

/-! ## Well-formedness: one ill-formed term for each check -/

/-- A read of 8 bytes by core 10. -/
def aRead : FReq := { master := .core 10, op := .read, addr := 0x10000040, len := 8, be := 0, data := 0, cls := 1, pid := 0 }

theorem test_wf_read : Instr.wf (.fabricIngress (.new aRead 1)) = true := by decide

theorem test_ill_length : Instr.wf (.fabricIngress (.new { aRead with len := 0 } 1)) = false := by decide

theorem test_ill_block : Instr.wf (.fabricIngress (.new { aRead with addr := 0x1000003C } 1)) = false := by decide

theorem test_ill_address : Instr.wf (.fabricIngress (.new { aRead with addr := 2 ^ 48 } 1)) = false := by decide

theorem test_ill_enables : Instr.wf (.fabricIngress (.new { aRead with be := 256 } 1)) = false := by decide

theorem test_ill_data : Instr.wf (.fabricIngress (.new { aRead with data := 2 ^ 64 } 1)) = false := by decide

theorem test_ill_packed : Instr.wf (.fabricIngress (.new { aRead with pos := some 6 } 1)) = false := by decide

theorem test_ill_msi : Instr.wf (.msi 0 0xE0000000 4 (2 ^ 32)) = false := by decide

theorem test_ill_caps : Instr.wf (.tylwenLinkUp 1 (List.replicate 16 5)) = false := by decide

theorem test_ill_lands : Instr.wf (.samplePreload [] []) = false := by decide

/-! ## The block's interface -/

theorem test_no_words (nbits w : Nat) : Sys2Proof.decodeTableWord nbits w = none := rfl

theorem test_word_changes_nothing : State.withFetchWord {} 32 5 = State.reset := rfl

/-- The state that an outcome goes on to. -/
def after : Result → State
  | .next t => t
  | _ => {}

/-! ## Reset values and addresses as the register tables print them -/

/-- R104: CLK_STAT and CLK_WREQ at reset. -/
theorem test_reset_clocks : rd {} .ckrs 0x040 = 0x2A3 ∧ rd {} .ckrs 0x044 = 0x2A := by decide +kernel

/-- The worked example of chapter 16: ICP_EN10 of core 9 is at 0x1009_A128. -/
theorem test_page_of_core9 : pageAddr (.icp 9) + 0x128 = 0x1009A128 := by decide

/-! ## Worked examples of the spec -/

/-- Chapter 10: where the line 0x0080_2000_0000 lands, and the next one. -/
theorem test_dram_map : let n := rankLine {} (0x8020000000 / 64)
    chanOf (0x8020000000 / 64) = 0 ∧ n = 524288 ∧ bankOf n = 8 ∧ rowOf n = 512 ∧ logRank {} (0x8020000040 / 64) = 2 := by decide +kernel

/-- Chapter 9: the hash of the home of three lines. -/
theorem test_home_hash : homeHash (0x8020000000 / 64) % 6 = 4 ∧ homeHash (0x8020100000 / 64) % 6 = 5 ∧ homeHash (0x8020600000 / 64) % 6 = 4 := by
  decide +kernel

/-- Chapter 1: granule 142 in the packed view, and word 1,000 in the loose view. -/
theorem test_views : viewBytes true [0o17, 0, 0, 0, 0, 0, 0o400001] = 0x2000100000000000000000000000000F ∧ looseWord 0o400001 = 0xFFFE0001 := by
  decide +kernel

/-- Chapter 7: the granule of seven setpoints. -/
theorem test_pack7 : viewBytes true [1, 2, 3, 4, 5, 6, 0o777777] = 0x3FFFF000180005000100003000080001 := by decide +kernel

/-- Chapter 13: the CAN FD frame check after a byte and after four bits. -/
theorem test_crc17 : let c : CvUnit := { cfg := 0o20, poly := 0o264133, init := 0o200000, val := 0o200000 }
    (cvFeed c 8 0o22).val = 0o303222 ∧ (cvFeed (cvFeed c 8 0o22) 4 3).val = 0o111425 := by decide +kernel

/-- Chapter 11: dividing −7 by 2: DIV0, 18 passes of DSTEP, DIVF. -/
theorem test_div : let z := div0Core 0 false 0o777771 2
    let y := (List.range 18).foldl (fun r _ => dstepCore z.2.2 r.1 r.2 2) (z.1, z.2.1)
    z.1 = 0 ∧ z.2.1 = 7 ∧ y = (1, 3) ∧ (divfCore z.2.2 false y.1 y.2).1 = 0o777775 ∧ (divfCore z.2.2 false y.1 y.2).2.1 = 0o777777 := by decide +kernel

/-! ## One step each -/

/-- Core 23 runs at 0x0100_0000, with the line of its pc held. -/
def coreWith (c : CoreRec) : State :=
  { cores := [(23, { c with run := .running, pc := 0x1000000, l1i := { lines := [(0x40000, 0)] } })],
    l2s := [(2, [(0x40000, { data := 0, writer := 0 })])] }

/-- Core 23 runs at F with two registers set. -/
def aCore : State := coreWith { w := [(1, 0xFFFFFFFFFFFFFFFF), (2, 7)] }

/-- The same with a pointer to on-chip SRAM in w1. -/
def aMem : State := coreWith { w := [(1, 0x1000100), (2, 7)] }

/-- What a load of `len` bytes through w1 gives there. -/
def aLoad (len : Nat) : State × Nat × List Nat := (xrOk (loadAt aMem 23 1 0x1000100 len {})).getD ({}, 0, [])

/-- What a store of `len` bytes through w1 gives there. -/
def aStore (len data : Nat) : State × List Nat := (xrOk (storeAt aMem 23 0x1000108 len data {})).getD ({}, [])

/-- Whether an outcome goes on. -/
def goesOn : Result → Bool
  | .next _ => true
  | _ => false

theorem next_after (r : Result) (h : goesOn r = true) : r = .next (after r) := by
  cases r <;> simp_all [goesOn, after]

theorem xr_ok {α : Type} (r : XR α) (u : State) (x : α) (h : xrOk r = some (u, x)) : r = .ok u x := by
  cases r <;> simp_all [xrOk]

theorem test_add_wraps : getW (after (exec (.wAdd 23 3 1 2 {}) aCore)) 23 3 = 6 := by decide +kernel

theorem test_sltu_unsigned : getW (after (exec (.wSltu 23 3 2 1 {}) aCore)) 23 3 = 1 := by decide +kernel

theorem test_slt_signed : getW (after (exec (.wSlt 23 3 1 2 {}) aCore)) 23 3 = 1 := by decide +kernel

theorem test_w0_stays_zero : getW (after (exec (.wAdd 23 0 1 2 {}) aCore)) 23 0 = 0 := by decide +kernel

/-- R217: ORI extends its immediate with zeros and LUI places it in bits 31:16. -/
theorem test_lui : getW (after (exec (.wLui 23 5 0x5070 {}) aCore)) 23 5 = 0x50700000 := by decide +kernel

/-- Chapter 6: SVC saves the address of the next instruction and raises the level above the caller's. -/
theorem test_svc : let t := after (exec (.wSvc 23 0x12 {}) (coreWith { sys := [(0x400, 0)] }))
    level t 23 = 1 ∧ sysr t 23 0x402 = 0x1000004 := by decide +kernel

/-- Thread 3 of engine 511 runs with two registers set. -/
def aThread : State := { sage := { phase := .done }, engines := [(511, { thr := [(3, { st := 1, n := [(1, 0o777771), (2, 7)] })] })] }

/-- The registers and flags of that thread once its writes have taken effect. -/
def aftThread (r : Result) : NgThread := settleRegs (thr (after r) 511 3) 1000

/-- −7 + 7 is 0: Z and C are set, N and V are not (R328). -/
theorem test_ng_add : let th := aftThread (exec (.ngAdd 511 3 false 4 1 2) aThread)
    ngReg th 4 = 0 ∧ th.sw = 5 := by decide +kernel

/-- 7 − (−7) is 14 with a borrow: no flag is set. -/
theorem test_ng_sub : let th := aftThread (exec (.ngSub 511 3 false 4 2 1) aThread)
    ngReg th 4 = 14 ∧ th.sw = 0 := by decide +kernel

theorem test_ng_tick : (after (exec (.ngNop 511 3) aThread)).dt = 3 := by decide +kernel

/-- Chapter 4: the write of a reserved REQ_WC0 by the hypervisor is rejected and recorded in CKRS. -/
theorem test_reserved_write :
    let t := after (exec (.clkWreqWrite (.core 10) 2 0x2B) { cores := [(10, { run := .running, sys := [(0x400, 2)] })] })
    rd t .ckrs 0x044 = 0x2A ∧ rd t .ckrs 0x020 = 0x101 ∧ rd t .ckrs 0x028 = 0x44 ∧ bit (rd t .ckrs 0x010) 31 = true := by decide +kernel

/-- A step on an empty queue is one tick of device time (log 2). -/
theorem test_empty_queue : after (step {}) = { ({} : State) with dt := 1 } := by decide +kernel

theorem wit_inv : Inv {} := ⟨by decide +kernel, by decide +kernel, by decide +kernel, by decide +kernel⟩

theorem wit_stepKeepsInv : ∃ s t : State, Inv s ∧ step s = .next t := ⟨{}, idleTick {}, wit_inv, rfl⟩

theorem wit_idle : ∃ s : State, s.pending = [] ∧ clocksOn s = true := ⟨{}, by decide +kernel⟩

theorem wit_idleStandby : ∃ s : State, s.pending = [] ∧ clocksOn s = false := ⟨{ mari := { asleep := 2 } }, by decide +kernel⟩

theorem wit_equalStores : ∃ s t : State, Inv s ∧ Inv t ∧ ∀ pr n, storedLine s pr n = storedLine t pr n := ⟨{}, {}, wit_inv, wit_inv, fun _ _ => rfl⟩

theorem wit_pagesApart : ∃ (p q : Page) (i j : Nat), i < 0x1000 ∧ j < 0x1000 ∧ pageAddr p + i = pageAddr q + j := ⟨.supv, .supv, 0xFFC, 0xFFC, by decide +kernel⟩

theorem wit_FerrEntry : ∃ (s : State) (m : Master) (a : Attr) (op : ReqOp) (addr : Nat) (k : Kind), s.fab.ferr.length < 32 :=
  ⟨{}, .engine 300, {}, .write, 0x10, .unmapped, by decide +kernel⟩

theorem wit_FerrLost : ∃ (s : State) (m : Master) (a : Attr) (op : ReqOp) (addr : Nat) (k : Kind), s.fab.ferr.length = 32 :=
  ⟨{ fab := { ferr := List.replicate 32 { addr := 0, op := 0, kind := 1, master := 0, attr := {}, time := 0 } } }, .scu, {}, .read, 0x10, .unmapped, by decide +kernel⟩

theorem wit_RecordFirst : ∃ (s : State) (p : Page) (code : Nat) (a : Attr) (detail : Nat) (did : Nat), rdB (bumpF s p 0x02C 16 16 1) p 0x020 0 = false :=
  ⟨{}, .scac, 0x80, {}, 5, 0, by decide +kernel⟩

theorem wit_RecordLater : ∃ (s : State) (p : Page) (code : Nat) (a : Attr) (detail : Nat) (did : Nat), rdB (bumpF s p 0x02C 16 16 1) p 0x020 0 = true :=
  ⟨wrB {} .scac 0x020 0 true, .scac, 0x80, {}, 5, 0, by decide +kernel⟩

theorem wit_RecordSends : ∃ (s : State) (p : Page) (code : Nat) (cls : Nat) (a : Attr) (detail : Nat) (did : Nat), cls ≠ corrected :=
  ⟨{}, .scac, 0x81, 2, {}, 5, 0, by decide +kernel⟩

theorem wit_DramRequest : ∃ (s : State) (id : Nat) (r : DReq), dreq? s id = some r ∧ r.stat = .sent ∧ portLevel s r.port < 64 ∧ draining s r.line = false ∧ sentBefore s r = false :=
  ⟨{ dram := { reqs := [{ id := 0, isW := false, line := 0x200000000, attr := { did := 4, cls := 2 }, port := 1, cause := .cmd }] } }, 0, { id := 0, isW := false, line := 0x200000000, attr := { did := 4, cls := 2 }, port := 1, cause := .cmd }, by decide +kernel⟩

theorem wit_SchedulerRefresh : ∃ (s : State) (ch : Fin 18) (busy : BitVec 32) (e : Nat × Nat), clocksOn s = true ∧ refreshPick s ch busy = some e :=
  ⟨{ dram := { refDue := [(3, 2)] } }, 1, 0, (3, 2), by decide +kernel⟩

theorem wit_SchedulerChoice : ∃ (s : State) (ch : Fin 18) (busy : BitVec 32) (r : DReq), clocksOn s = true ∧ refreshPick s ch busy = none ∧ schedPick s (candidates s ch busy) = some r ∧ internalFirst s ch busy r = false :=
  ⟨{ dram := { reqs := [{ id := 0, isW := false, line := 0x200000000, attr := { did := 4, cls := 2 }, port := 1, cause := .cmd, stat := .buffered }] } }, 0, 0, { id := 0, isW := false, line := 0x200000000, attr := { did := 4, cls := 2 }, port := 1, cause := .cmd, stat := .buffered }, by decide +kernel⟩

theorem wit_DeadlineMiss : ∃ (s : State) (id : Nat) (r : DReq), dreq? s id = some r ∧ clocksOn s = true ∧ r.stat = .buffered ∧ deadlineMode s = true ∧ r.missed = false ∧ latTgt s r.port ≠ 0 :=
  ⟨wrF { dram := { reqs := [{ id := 0, isW := false, line := 0x200000000, attr := { did := 4, cls := 2 }, port := 1, cause := .cmd, stat := .buffered }] } } .dmc 0x064 16 12 5, 0, { id := 0, isW := false, line := 0x200000000, attr := { did := 4, cls := 2 }, port := 1, cause := .cmd, stat := .buffered }, by decide +kernel⟩

theorem wit_DramRead : ∃ (s : State) (id : Nat) (out : LineErr) (r : DReq), dreq? s id = some r ∧ r.stat = .chosen ∧ r.isW = false ∧ orderedBehind s r = false :=
  ⟨{ dram := { reqs := [{ id := 0, isW := false, line := 0x200000000, attr := { did := 4, cls := 2 }, port := 1, cause := .cmd, stat := .chosen }] } }, 0, { sym := 1 }, { id := 0, isW := false, line := 0x200000000, attr := { did := 4, cls := 2 }, port := 1, cause := .cmd, stat := .chosen }, by decide +kernel⟩

theorem wit_RankPowerDown : ∃ (s : State) (pr : Fin 36), clocksOn s = true ∧ (∀ r ∈ s.dram.reqs, pr.val ∉ destRanks s r) ∧ pr.val ∉ s.dram.pdown :=
  ⟨{}, 35, by decide +kernel⟩

theorem wit_MigrationStart : ∃ (s : State) (l : Nat) (r : List Nat), strStopped s 52 = false ∧ s.dram.mig = none ∧ s.dram.migReq = l :: r :=
  ⟨{ dram := { migReq := [3] } }, 3, [], by decide +kernel⟩

theorem wit_MigrationCopyClean : ∃ (s : State) (l : Nat) (sp : Nat) (cp : Nat) (busy : BitVec 32) (busySp : BitVec 32),
    let due := if cp = 0 then s.dram.copyAt else tickAtAge s.dram.copyAt (rdF s .dmc 0x054 0 8)
    let t := advanceTo s due
    s.dram.mig = some (l, sp, cp) ∧ clocksOn s = true ∧ cp < rankLines s ∧ internalMay t busy (rosemary s l) cp due = true ∧ internalMay t busySp (sparePr sp) cp due = true :=
  ⟨{ dram := { mig := some (0, 1, 7) } }, 0, 1, 7, 0, 0, by decide +kernel⟩

theorem wit_MigrationCopyUnc : ∃ (s : State) (l : Nat) (sp : Nat) (cp : Nat) (busy : BitVec 32) (busySp : BitVec 32),
    let due := if cp = 0 then s.dram.copyAt else tickAtAge s.dram.copyAt (rdF s .dmc 0x054 0 8)
    let t := advanceTo s due
    s.dram.mig = some (l, sp, cp) ∧ clocksOn s = true ∧ cp < rankLines s ∧ internalMay t busy (rosemary s l) cp due = true ∧ internalMay t busySp (sparePr sp) cp due = true :=
  ⟨{ dram := { mig := some (0, 1, 7) } }, 0, 1, 7, 0, 0, by decide +kernel⟩

theorem wit_MigrationSwitch : ∃ (s : State) (l : Nat) (sp : Nat),
    let u := wrB (wr s .rmap (0x040 + 4 * l) (BitVec.ofNat 32 (sparePr sp / 2 + sp % 2 * 32))) .rmap 0x0C8 (rosemary s l) true
    let t := setRankByte { u with dram := { u.dram with mig := none } } (rosemary s l) 2
    s.dram.mig = some (l, sp, rankLines s) ∧ (∀ r ∈ s.dram.reqs, ¬(logRank s r.line = l ∧ (r.stat = .buffered ∨ r.stat = .chosen))) ∧ rosemary s l < 32 ∧ rdB s .dmc 0x040 0 = true ∧ s.dram.migReq = [] ∧ s.bist = none ∧ rdB t .dmc 0x040 0 = true ∧ t.bist = none :=
  ⟨wrB { dram := { mig := some (0, 1, 2 ^ 26) } } .dmc 0x040 0 true, 0, 1, by decide +kernel⟩

theorem wit_DriftTracking : ∃ (s : State) (ch : Fin 18), s.dram.mig = none ∧ clocksOn s = true :=
  ⟨{}, 17, by decide +kernel⟩

theorem wit_DeviceTemp : ∃ (s : State) (ch : Fin 18) (temp : BitVec 8) (dev : Fin 3), clocksOn s = true :=
  ⟨{}, 17, 40, 1, by decide +kernel⟩

theorem wit_DeviceTempHot : ∃ (s : State) (ch : Fin 18) (temp : BitVec 8) (dev : Fin 3), clocksOn s = true :=
  ⟨{ dram := { pkgTemp := 115 } }, 17, 40, 1, by decide +kernel⟩

theorem wit_ScrubRead : ∃ (s : State) (busy : BitVec 32),
    let l := s.dram.scrub / rankLines s
    let n := s.dram.scrub % rankLines s
    let due := scrubDue s
    let t := advanceTo s due
    clocksOn s = true ∧ rdB s .dmc 0x040 0 = true ∧ rdF s .dmc 0x050 0 8 ≠ 0 ∧ rankState s l ≠ 1 ∧ rdF s (.dch (Fin.ofNat 18 (rosemary s l / 2))) 0x040 0 2 = 1 ∧ internalMay t busy (rosemary s l) n due = true ∧ (∀ r ∈ s.dram.reqs, r.isW = false) :=
  ⟨wrF (wrB {} .dmc 0x040 0 true) (.dch 0) 0x040 0 2 1, 0, by decide +kernel⟩

theorem wit_ScrubUnc : ∃ (s : State) (busy : BitVec 32),
    let l := s.dram.scrub / rankLines s
    let n := s.dram.scrub % rankLines s
    let due := scrubDue s
    let t := advanceTo s due
    clocksOn s = true ∧ rdB s .dmc 0x040 0 = true ∧ rdF s .dmc 0x050 0 8 ≠ 0 ∧ rankState s l ≠ 1 ∧ rdF s (.dch (Fin.ofNat 18 (rosemary s l / 2))) 0x040 0 2 = 1 ∧ internalMay t busy (rosemary s l) n due = true ∧ (∀ r ∈ s.dram.reqs, r.isW = false) :=
  ⟨wrF (wrB {} .dmc 0x040 0 true) (.dch 0) 0x040 0 2 1, 0, by decide +kernel⟩

theorem wit_addressMap : inDram {} 0x200000000 = true ∧ inDram {} 0x27fffffff = true ∧ inDram {} 0x280000000 = false := by decide +kernel

theorem wit_schedulerOrder : ∃ (s : State) (r q : DReq), schedPick s [q, r] = some r ∧ deadlineMode s = false ∧ noToken s r = false ∧
    r.attr.cls = 0 ∧ SMap.get false s.dram.panic r.port = true ∧ q.attr.cls ≠ 0 ∧ ageOf s q < ageLimit s q.attr.cls ∧
    schedKey s q = 2 + 2 * 2 + 1 :=
  ⟨wrF { dt := 10, dram := { panic := [(1, true)] } } .dmc 0x040 3 1 0,
   { id := 1, isW := false, line := 0x200000000, attr := {}, port := 1, cause := .cmd, stat := .buffered },
   { id := 0, isW := false, line := 0x200000000, attr := { did := 0, cls := 2 }, port := 2, cause := .cmd, stat := .buffered }, by decide +kernel⟩

theorem wit_schedulerAge : ∃ (s : State) (r : DReq), deadlineMode s = false ∧ r.attr.cls = 2 ∧ ageLimit s 2 ≤ ageOf s r ∧ schedKey s r = 1 :=
  ⟨wrF { dt := 5000 } .dmc 0x040 3 1 0, { id := 1, isW := false, line := 0x200000000, attr := { cls := 2 }, port := 1, cause := .cmd, stat := .buffered },
   by decide +kernel⟩

theorem wit_schedulerDeadline : ∃ (s : State) (r q : DReq), deadlineMode s = true ∧ urgency s q < urgency s r :=
  ⟨wrF { dt := 5000 } .dmc 0x064 16 12 5, { id := 1, isW := false, line := 0x200000000, attr := { cls := 2 }, port := 1, cause := .cmd, stat := .buffered },
   { id := 1, isW := false, line := 0x200000000, attr := { cls := 2 }, port := 2, cause := .cmd, stat := .buffered }, by decide +kernel⟩

theorem wit_SramReadServed : ∃ (s : State) (id : Nat) (waited : Nat) (ce : BitVec 8) (ue : BitVec 8) (t : Txn) (u : State),
    let w := if t.arr = true then txnWait t else portComes s (txnWait t) waited
    txn? s id = some t ∧ t.status = .transit ∧ behindSource s t = false ∧ inSram t.req.addr = true ∧ t.req.op ≠ .write ∧ portTurn s w t.arr = some u ∧ sramDeny u t.req.master t.req.addr = none :=
  ⟨{ fab := { txns := [{ id := 7, req := { master := .engine 3, op := .read, addr := 0x1800000, len := 8, be := 255, data := 0x55, cls := 2, pid := 0 }, attr := { did := 4, cls := 2 }, lvl := 0, purp := .plain, status := .transit }] } }, 7, 3, 0, 1, { id := 7, req := { master := .engine 3, op := .read, addr := 0x1800000, len := 8, be := 255, data := 0x55, cls := 2, pid := 0 }, attr := { did := 4, cls := 2 }, lvl := 0, purp := .plain, status := .transit }, (portTurn ({ fab := { txns := [{ id := 7, req := { master := .engine 3, op := .read, addr := 0x1800000, len := 8, be := 255, data := 0x55, cls := 2, pid := 0 }, attr := { did := 4, cls := 2 }, lvl := 0, purp := .plain, status := .transit }] } }) (portComes ({ fab := { txns := [{ id := 7, req := { master := .engine 3, op := .read, addr := 0x1800000, len := 8, be := 255, data := 0x55, cls := 2, pid := 0 }, attr := { did := 4, cls := 2 }, lvl := 0, purp := .plain, status := .transit }] } }) (txnWait ({ id := 7, req := { master := .engine 3, op := .read, addr := 0x1800000, len := 8, be := 255, data := 0x55, cls := 2, pid := 0 }, attr := { did := 4, cls := 2 }, lvl := 0, purp := .plain, status := .transit })) 3) false).getD {}, by decide +kernel⟩

theorem wit_SramWriteServed : ∃ (s : State) (id : Nat) (waited : Nat) (ce : BitVec 8) (ue : BitVec 8) (t : Txn) (u : State),
    let w := if t.arr = true then txnWait t else portComes s (txnWait t) waited
    txn? s id = some t ∧ t.status = .transit ∧ behindSource s t = false ∧ inSram t.req.addr = true ∧ t.req.op = .write ∧ portTurn s w t.arr = some u ∧ sramDeny u t.req.master t.req.addr = none :=
  ⟨{ fab := { txns := [{ id := 7, req := { master := .engine 3, op := .write, addr := 0x1dffff8, len := 8, be := 255, data := 0x55, cls := 2, pid := 0 }, attr := { did := 4, cls := 2 }, lvl := 0, purp := .plain, status := .transit }] } }, 7, 3, 0, 1, { id := 7, req := { master := .engine 3, op := .write, addr := 0x1dffff8, len := 8, be := 255, data := 0x55, cls := 2, pid := 0 }, attr := { did := 4, cls := 2 }, lvl := 0, purp := .plain, status := .transit }, (portTurn ({ fab := { txns := [{ id := 7, req := { master := .engine 3, op := .write, addr := 0x1dffff8, len := 8, be := 255, data := 0x55, cls := 2, pid := 0 }, attr := { did := 4, cls := 2 }, lvl := 0, purp := .plain, status := .transit }] } }) (portComes ({ fab := { txns := [{ id := 7, req := { master := .engine 3, op := .write, addr := 0x1dffff8, len := 8, be := 255, data := 0x55, cls := 2, pid := 0 }, attr := { did := 4, cls := 2 }, lvl := 0, purp := .plain, status := .transit }] } }) (txnWait ({ id := 7, req := { master := .engine 3, op := .write, addr := 0x1dffff8, len := 8, be := 255, data := 0x55, cls := 2, pid := 0 }, attr := { did := 4, cls := 2 }, lvl := 0, purp := .plain, status := .transit })) 3) false).getD {}, by decide +kernel⟩

theorem wit_SramRefused : ∃ (s : State) (id : Nat) (waited : Nat) (ce : BitVec 8) (ue : BitVec 8) (t : Txn) (u : State) (k : Kind),
    let w := if t.arr = true then txnWait t else portComes s (txnWait t) waited
    txn? s id = some t ∧ t.status = .transit ∧ behindSource s t = false ∧ inSram t.req.addr = true ∧ portTurn s w t.arr = some u ∧ sramDeny u t.req.master t.req.addr = some k :=
  ⟨{ fab := { txns := [{ id := 7, req := { master := .engine 3, op := .read, addr := 0x1e00000, len := 8, be := 255, data := 0x55, cls := 2, pid := 0 }, attr := { did := 4, cls := 2 }, lvl := 0, purp := .plain, status := .transit }] } }, 7, 3, 0, 1, { id := 7, req := { master := .engine 3, op := .read, addr := 0x1e00000, len := 8, be := 255, data := 0x55, cls := 2, pid := 0 }, attr := { did := 4, cls := 2 }, lvl := 0, purp := .plain, status := .transit }, (portTurn ({ fab := { txns := [{ id := 7, req := { master := .engine 3, op := .read, addr := 0x1e00000, len := 8, be := 255, data := 0x55, cls := 2, pid := 0 }, attr := { did := 4, cls := 2 }, lvl := 0, purp := .plain, status := .transit }] } }) (portComes ({ fab := { txns := [{ id := 7, req := { master := .engine 3, op := .read, addr := 0x1e00000, len := 8, be := 255, data := 0x55, cls := 2, pid := 0 }, attr := { did := 4, cls := 2 }, lvl := 0, purp := .plain, status := .transit }] } }) (txnWait ({ id := 7, req := { master := .engine 3, op := .read, addr := 0x1e00000, len := 8, be := 255, data := 0x55, cls := 2, pid := 0 }, attr := { did := 4, cls := 2 }, lvl := 0, purp := .plain, status := .transit })) 3) false).getD {}, .master, by decide +kernel⟩

theorem wit_SramBankDone : ∃ (s : State) (b : Fin 64) (x : Nat), SMap.get none s.sram.moving b = some x :=
  ⟨{ sram := { moving := [(63, some 2)] } }, 63, 2, by decide +kernel⟩

theorem wit_sramWriteBytes : Inv {} ∧ 0 < 64 ∧ 0x1800000 / 64 = (0x1800000 + 64 - 1) / 64 ∧ 0x1800007 ∈ granules 0x1800007 1 ∨
    granMask 0x1800000 64 (2 ^ 512 - 1) 0x300007 = 2 ^ 64 - 1 := Or.inr (by decide +kernel)

theorem wit_sramWritePart : Inv {} ∧ 0x180003F / 64 = (0x180003F + 1 - 1) / 64 ∧ 0x300007 ∈ granules 0x180003F 1 ∧ granMask 0x180003F 1 255 0x300007 = 255 * 2 ^ 56 :=
  ⟨wit_inv, by decide +kernel⟩

theorem wit_ScReadHit : ∃ (s : State) (id : Nat) (slot : Nat) (vpar : Bool) (t : Txn) (x : ScLine), txn? s id = some t ∧ t.status = .transit ∧ behindSource s t = false ∧ inDram s (reqLine t.req) = true ∧ rdB s .dmc 0x040 0 = true ∧ lineBusy s (reqLine t.req) = false ∧ t.req.op ≠ .write ∧ scFind s (reqLine t.req) = some slot ∧ SMap.find? s.sc.lines slot = some x ∧ wayCleaning s (slot / 16384) = false :=
  ⟨wrB { fab := { txns := [{ id := 7, req := { master := .engine 3, op := .read, addr := 0x8000000040, len := 8, be := 255, data := 0x55, cls := 2, pid := 0 }, attr := { did := 4, cls := 2 }, lvl := 0, purp := .plain, status := .transit }] }, sc := { lines := [(16385, { tag := 0x80000, data := 9 })] } } .dmc 0x040 0 true, 7, 16385, true, { id := 7, req := { master := .engine 3, op := .read, addr := 0x8000000040, len := 8, be := 255, data := 0x55, cls := 2, pid := 0 }, attr := { did := 4, cls := 2 }, lvl := 0, purp := .plain, status := .transit }, { tag := 0x80000, data := 9 }, by decide +kernel⟩

theorem wit_ScReadMiss : ∃ (s : State) (id : Nat) (par : Bool) (vpar : Bool) (t : Txn), txn? s id = some t ∧ t.status = .transit ∧ behindSource s t = false ∧ inDram s (reqLine t.req) = true ∧ rdB s .dmc 0x040 0 = true ∧ lineBusy s (reqLine t.req) = false ∧ t.req.op ≠ .write ∧ scFind s (reqLine t.req) = none ∧ allocSlot s t.attr (reqLine t.req) = none :=
  ⟨wrB { fab := { txns := [{ id := 7, req := { master := .engine 3, op := .read, addr := 0x8000000040, len := 8, be := 255, data := 0x55, cls := 2, pid := 0 }, attr := { did := 4, cls := 2 }, lvl := 0, purp := .plain, status := .transit }] } } .dmc 0x040 0 true, 7, true, true, { id := 7, req := { master := .engine 3, op := .read, addr := 0x8000000040, len := 8, be := 255, data := 0x55, cls := 2, pid := 0 }, attr := { did := 4, cls := 2 }, lvl := 0, purp := .plain, status := .transit }, by decide +kernel⟩

theorem wit_ScReadAlloc : ∃ (s : State) (id : Nat) (slot : Nat) (par : Bool) (vpar : Bool) (t : Txn), txn? s id = some t ∧ t.status = .transit ∧ behindSource s t = false ∧ inDram s (reqLine t.req) = true ∧ rdB s .dmc 0x040 0 = true ∧ lineBusy s (reqLine t.req) = false ∧ t.req.op ≠ .write ∧ scFind s (reqLine t.req) = none ∧ allocSlot s t.attr (reqLine t.req) = some slot ∧ resvOf s slot = none :=
  ⟨wrB (wrB (wrF (wrB { fab := { txns := [{ id := 7, req := { master := .engine 3, op := .read, addr := 0x8000000040, len := 8, be := 255, data := 0x55, cls := 2, pid := 0 }, attr := { did := 4, cls := 2 }, lvl := 0, purp := .plain, status := .transit }] } } .dmc 0x040 0 true) .scac 0x104 0 8 0x10) .scac 0x080 1 true) .scac 0x084 16 true, 7, 16385, false, true, { id := 7, req := { master := .engine 3, op := .read, addr := 0x8000000040, len := 8, be := 255, data := 0x55, cls := 2, pid := 0 }, attr := { did := 4, cls := 2 }, lvl := 0, purp := .plain, status := .transit }, by decide +kernel⟩

theorem wit_ScWriteHitBack : ∃ (s : State) (id : Nat) (slot : Nat) (vpar : Bool) (t : Txn) (x : ScLine), txn? s id = some t ∧ t.status = .transit ∧ behindSource s t = false ∧ inDram s (reqLine t.req) = true ∧ rdB s .dmc 0x040 0 = true ∧ lineBusy s (reqLine t.req) = false ∧ t.req.op = .write ∧ scFind s (reqLine t.req) = some slot ∧ SMap.find? s.sc.lines slot = some x ∧ wayCleaning s (slot / 16384) = false ∧ wayEnabled s (slot / 16384) = true ∧ resvOf s slot = none :=
  ⟨wrB (wrB (wrF (wrB { fab := { txns := [{ id := 7, req := { master := .engine 3, op := .write, addr := 0x8000000040, len := 8, be := 255, data := 0x55, cls := 2, pid := 0 }, attr := { did := 4, cls := 2 }, lvl := 0, purp := .plain, status := .transit }] }, sc := { lines := [(16385, { tag := 0x80000, data := 9 })] } } .dmc 0x040 0 true) .scac 0x104 0 8 0x10) .scac 0x080 1 true) .scac 0x084 16 true, 7, 16385, true, { id := 7, req := { master := .engine 3, op := .write, addr := 0x8000000040, len := 8, be := 255, data := 0x55, cls := 2, pid := 0 }, attr := { did := 4, cls := 2 }, lvl := 0, purp := .plain, status := .transit }, { tag := 0x80000, data := 9 }, by decide +kernel⟩

theorem wit_ScWriteHitThrough : ∃ (s : State) (id : Nat) (slot : Nat) (vpar : Bool) (t : Txn) (x : ScLine), txn? s id = some t ∧ t.status = .transit ∧ behindSource s t = false ∧ inDram s (reqLine t.req) = true ∧ rdB s .dmc 0x040 0 = true ∧ lineBusy s (reqLine t.req) = false ∧ t.req.op = .write ∧ scFind s (reqLine t.req) = some slot ∧ SMap.find? s.sc.lines slot = some x ∧ wayCleaning s (slot / 16384) = false ∧ wayEnabled s (slot / 16384) = false ∧ resvOf s slot = none :=
  ⟨wrB { fab := { txns := [{ id := 7, req := { master := .engine 3, op := .write, addr := 0x8000000040, len := 8, be := 255, data := 0x55, cls := 2, pid := 0 }, attr := { did := 4, cls := 2 }, lvl := 0, purp := .plain, status := .transit }] }, sc := { lines := [(16385, { tag := 0x80000, data := 9 })] } } .dmc 0x040 0 true, 7, 16385, true, { id := 7, req := { master := .engine 3, op := .write, addr := 0x8000000040, len := 8, be := 255, data := 0x55, cls := 2, pid := 0 }, attr := { did := 4, cls := 2 }, lvl := 0, purp := .plain, status := .transit }, { tag := 0x80000, data := 9 }, by decide +kernel⟩

theorem wit_ScWriteMiss : ∃ (s : State) (id : Nat) (par : Bool) (vpar : Bool) (t : Txn), txn? s id = some t ∧ t.status = .transit ∧ behindSource s t = false ∧ inDram s (reqLine t.req) = true ∧ rdB s .dmc 0x040 0 = true ∧ lineBusy s (reqLine t.req) = false ∧ t.req.op = .write ∧ scFind s (reqLine t.req) = none ∧ allocSlot s t.attr (reqLine t.req) = none :=
  ⟨wrB { fab := { txns := [{ id := 7, req := { master := .engine 3, op := .write, addr := 0x8000000040, len := 8, be := 255, data := 0x55, cls := 2, pid := 0 }, attr := { did := 4, cls := 2 }, lvl := 0, purp := .plain, status := .transit }] } } .dmc 0x040 0 true, 7, true, true, { id := 7, req := { master := .engine 3, op := .write, addr := 0x8000000040, len := 8, be := 255, data := 0x55, cls := 2, pid := 0 }, attr := { did := 4, cls := 2 }, lvl := 0, purp := .plain, status := .transit }, by decide +kernel⟩

theorem wit_ScWriteFull : ∃ (s : State) (id : Nat) (slot : Nat) (par : Bool) (vpar : Bool) (t : Txn), txn? s id = some t ∧ t.status = .transit ∧ behindSource s t = false ∧ inDram s (reqLine t.req) = true ∧ rdB s .dmc 0x040 0 = true ∧ lineBusy s (reqLine t.req) = false ∧ t.req.op = .write ∧ scFind s (reqLine t.req) = none ∧ allocSlot s t.attr (reqLine t.req) = some slot ∧ resvOf s slot = none ∧ reqBe t.req = beAll :=
  ⟨wrB (wrB (wrF (wrB { fab := { txns := [{ id := 7, req := { master := .engine 3, op := .write, addr := 0x8000000040, len := 64, be := 2 ^ 64 - 1, data := 0x55, cls := 2, pid := 0 }, attr := { did := 4, cls := 2 }, lvl := 0, purp := .plain, status := .transit }] } } .dmc 0x040 0 true) .scac 0x104 0 8 0x10) .scac 0x080 1 true) .scac 0x084 16 true, 7, 16385, false, true, { id := 7, req := { master := .engine 3, op := .write, addr := 0x8000000040, len := 64, be := 2 ^ 64 - 1, data := 0x55, cls := 2, pid := 0 }, attr := { did := 4, cls := 2 }, lvl := 0, purp := .plain, status := .transit }, by decide +kernel⟩

theorem wit_ScWritePart : ∃ (s : State) (id : Nat) (slot : Nat) (par : Bool) (vpar : Bool) (t : Txn), txn? s id = some t ∧ t.status = .transit ∧ behindSource s t = false ∧ inDram s (reqLine t.req) = true ∧ rdB s .dmc 0x040 0 = true ∧ lineBusy s (reqLine t.req) = false ∧ t.req.op = .write ∧ scFind s (reqLine t.req) = none ∧ allocSlot s t.attr (reqLine t.req) = some slot ∧ resvOf s slot = none ∧ reqBe t.req ≠ beAll :=
  ⟨wrB (wrB (wrF (wrB { fab := { txns := [{ id := 7, req := { master := .engine 3, op := .write, addr := 0x8000000040, len := 8, be := 255, data := 0x55, cls := 2, pid := 0 }, attr := { did := 4, cls := 2 }, lvl := 0, purp := .plain, status := .transit }] } } .dmc 0x040 0 true) .scac 0x104 0 8 0x10) .scac 0x080 1 true) .scac 0x084 16 true, 7, 16385, false, true, { id := 7, req := { master := .engine 3, op := .write, addr := 0x8000000040, len := 8, be := 255, data := 0x55, cls := 2, pid := 0 }, attr := { did := 4, cls := 2 }, lvl := 0, purp := .plain, status := .transit }, by decide +kernel⟩

theorem wit_NotInService : ∃ (s : State) (id : Nat) (par : Bool) (vpar : Bool) (t : Txn), txn? s id = some t ∧ t.status = .transit ∧ behindSource s t = false ∧ inDram s (reqLine t.req) = true ∧ rdB s .dmc 0x040 0 = false :=
  ⟨{ fab := { txns := [{ id := 7, req := { master := .engine 3, op := .read, addr := 0x8000000040, len := 8, be := 255, data := 0x55, cls := 2, pid := 0 }, attr := { did := 4, cls := 2 }, lvl := 0, purp := .plain, status := .transit }] } }, 7, true, true, { id := 7, req := { master := .engine 3, op := .read, addr := 0x8000000040, len := 8, be := 255, data := 0x55, cls := 2, pid := 0 }, attr := { did := 4, cls := 2 }, lvl := 0, purp := .plain, status := .transit }, by decide +kernel⟩

theorem wit_FillReturn : ∃ (s : State) (id : Nat) (tid : Nat) (o : Option Nat) (r : DReq) (t : Txn), dreq? s id = some r ∧ r.cause = .fill tid o ∧ r.stat = .returned ∧ txn? s tid = some t ∧ t.req.op ≠ .write :=
  ⟨{ fab := { txns := [{ id := 7, req := { master := .engine 3, op := .read, addr := 0x8000000040, len := 8, be := 255, data := 0x55, cls := 2, pid := 0 }, attr := { did := 4, cls := 2 }, lvl := 0, purp := .plain, status := .accepted }] }, dram := { reqs := [{ id := 0, isW := false, line := 0x200000001, attr := { did := 4 }, port := 1, cause := .fill 7 (some 16385), stat := .returned }] } }, 0, 7, some 16385, { id := 0, isW := false, line := 0x200000001, attr := { did := 4 }, port := 1, cause := .fill 7 (some 16385), stat := .returned }, { id := 7, req := { master := .engine 3, op := .read, addr := 0x8000000040, len := 8, be := 255, data := 0x55, cls := 2, pid := 0 }, attr := { did := 4, cls := 2 }, lvl := 0, purp := .plain, status := .accepted }, by decide +kernel⟩

theorem wit_FillMerge : ∃ (s : State) (id : Nat) (tid : Nat) (sl : Nat) (r : DReq) (t : Txn), dreq? s id = some r ∧ r.cause = .fill tid (some sl) ∧ r.stat = .returned ∧ txn? s tid = some t ∧ t.req.op = .write :=
  ⟨{ fab := { txns := [{ id := 7, req := { master := .engine 3, op := .write, addr := 0x8000000040, len := 8, be := 255, data := 0x55, cls := 2, pid := 0 }, attr := { did := 4, cls := 2 }, lvl := 0, purp := .plain, status := .accepted }] }, dram := { reqs := [{ id := 0, isW := false, line := 0x200000001, attr := { did := 4 }, port := 1, cause := .fill 7 (some 16385), stat := .returned }] } }, 0, 7, 16385, { id := 0, isW := false, line := 0x200000001, attr := { did := 4 }, port := 1, cause := .fill 7 (some 16385), stat := .returned }, { id := 7, req := { master := .engine 3, op := .write, addr := 0x8000000040, len := 8, be := 255, data := 0x55, cls := 2, pid := 0 }, attr := { did := 4, cls := 2 }, lvl := 0, purp := .plain, status := .accepted }, by decide +kernel⟩

theorem wit_VictimAccepted : ∃ (s : State) (slot : Nat) (r : ScResv), resvOf s slot = some r ∧ r.victim = true ∧ r.ready = true ∧ (∀ q ∈ s.dram.reqs, ¬(q.cause = .victim slot ∧ q.stat = .sent)) :=
  ⟨{ sc := { resvs := [{ slot := 5, line := 0x200000005, victim := true, ready := true }] } }, 5, { slot := 5, line := 0x200000005, victim := true, ready := true }, by decide +kernel⟩

theorem wit_DramWrite : ∃ (s : State) (id : Nat) (tid : Nat) (out : LineErr) (r : DReq), dreq? s id = some r ∧ r.stat = .chosen ∧ r.isW = true ∧ orderedBehind s r = false ∧ r.cause = .write (some tid) :=
  ⟨{ dram := { reqs := [{ id := 0, isW := true, line := 0x200000001, attr := { did := 4 }, port := 1, cause := .write (some 7), stat := .chosen }] } }, 0, 7, { sym := 72, moved := true }, { id := 0, isW := true, line := 0x200000001, attr := { did := 4 }, port := 1, cause := .write (some 7), stat := .chosen }, by decide +kernel⟩

theorem wit_ScCmdRefused : ∃ (s : State) (c : ScCmd) (n : Nat) (pars : List Nat), s.sc.cmd = some c ∧ c.acts = false :=
  ⟨{ sc := { cmd := some { op := 1, result := 2, acts := false } } }, { op := 1, result := 2, acts := false }, 1, [], by decide +kernel⟩

theorem wit_ScCmdRange : ∃ (s : State) (c : ScCmd) (n : Nat) (pars : List Nat),
    let hi := min c.len (c.pos + n)
    let l := slotsWhere s fun _ la => decide (c.line + c.pos ≤ la) && decide (la < c.line + hi)
    s.sc.cmd = some c ∧ c.acts = true ∧ (1 ≤ c.op ∧ c.op ≤ 3) ∧ scWaits s l = false :=
  ⟨{ sc := { cmd := some { op := 3, result := 1, acts := true, line := 0x200000000, len := 2 } } }, { op := 3, result := 1, acts := true, line := 0x200000000, len := 2 }, 1, [], by decide +kernel⟩

theorem wit_ScCmdWay : ∃ (s : State) (c : ScCmd) (n : Nat) (pars : List Nat), s.sc.cmd = some c ∧ c.acts = true :=
  ⟨{ sc := { cmd := some { op := 5, result := 1, acts := true, way := 47 } } }, { op := 5, result := 1, acts := true, way := 47 }, 512, [], by decide +kernel⟩

theorem wit_ScCmdPreload : ∃ (s : State) (c : ScCmd) (n : Nat) (pars : List Nat), s.sc.cmd = some c ∧ c.acts = true ∧ c.op = 4 :=
  ⟨wrB { sc := { cmd := some { op := 4, result := 1, acts := true, line := 0x200000000, len := 2, part := 15 } } } .scac 0x0FC 16 true, { op := 4, result := 1, acts := true, line := 0x200000000, len := 2, part := 15 }, 3, [], by decide +kernel⟩

theorem wit_PartClean : ∃ (s : State) (p : Fin 16) (pars : List Nat), partCleaning s p = true ∧ (∀ r ∈ s.sc.resvs, r.victim = true → inPart s p (r.slot / 16384) = false) :=
  ⟨wrB {} .scac 0x0FC 17 true, 15, [], by decide +kernel⟩

theorem wit_allocation : ∃ (s : State) (a : Attr) (la slot : Nat), allocSlot s a la = some slot :=
  ⟨wrB (wrB (wrF {} .scac 0x104 0 8 0x10) .scac 0x080 1 true) .scac 0x084 16 true, { did := 4, cls := 3 }, 0x200000001, 16385, by decide +kernel⟩

theorem wit_ingress :
    decodeDeny {} (.engine 3) 0x2000000 8 = some .unmapped ∧ decodeDeny {} (.engine 3) 0x10000000 4 = some .master ∧
    (decodeDeny {} (.engine 3) 0x1800000 8 = none ∧ gated (wrB {} .fabr 0x044 4 true) 4 = true ∧ gated {} 4 = false ∧
      needsGrant (.engine 3) = true ∧ regionOf {} 0x1800000 = some .sram ∧ granted {} 4 0x1800000 8 true false = false ∧
      granted {} 0 0x1800000 8 true false = true) ∧
    (ingressDeny {} .scu {} .read 0 8 = none ∧ credFree {} 0 = true ∧ regionOf {} 0 = some .rom) ∧
    (ingressDeny {} (.core 0) { did := 4 } .read 0x1800000 8 = none ∧ credFree {} 4 = false ∧ regionOf {} 0x1800000 ≠ some .rom) := by decide +kernel

theorem wit_IngressNew : ∃ (s : State) (r : FReq) (lvl : Fin 4), oneBlock r = true ∧ (∀ p, regionOf s r.addr ≠ some (.page p)) ∧ regionOf s r.addr ≠ some .tylPages :=
  ⟨{}, { master := .engine 3, op := .read, addr := 0x1800038, len := 8, be := 255, data := 0, cls := 2, pid := 0 }, 0, by decide +kernel, (by rw [show regionOf {} 0x1800038 = some .sram by decide +kernel]; exact ⟨fun p h => (by cases h), by decide⟩)⟩

theorem wit_IngressPosted : ∃ (s : State) (id : Nat) (t : Txn), txn? s id = some t ∧ (t.status = .waitCredit ∨ (t.status = .posted ∧ (slicePage t.req.master).any (blkBusy s) = false)) ∧ behindQueued s t = false ∧ strStopped s 51 = false :=
  ⟨{ fab := { txns := [{ id := 7, req := { master := .engine 3, op := .write, addr := 0x1800000, len := 8, be := 255, data := 0x55, cls := 2, pid := 0 }, attr := { did := 4, cls := 2 }, lvl := 0, purp := .plain, status := .posted }] } }, 7, { id := 7, req := { master := .engine 3, op := .write, addr := 0x1800000, len := 8, be := 255, data := 0x55, cls := 2, pid := 0 }, attr := { did := 4, cls := 2 }, lvl := 0, purp := .plain, status := .posted }, by decide +kernel⟩

theorem wit_FwrAccepted : ∃ (s : State) (e : Fin 512) (th : Fin 4) (t : Txn), (s.fab.txns.find? fun u => u.req.master = .engine e && u.purp = .fwr th && (u.status = .posted || u.status = .waitCredit)) = some t ∧ txn? s t.id = some t ∧ (t.status = .waitCredit ∨ (t.status = .posted ∧ (slicePage t.req.master).any (blkBusy s) = false)) ∧ behindQueued s t = false ∧ strStopped s 51 = false :=
  ⟨{ fab := { txns := [{ id := 7, req := { master := .engine 3, op := .write, addr := 0x1800000, len := 8, be := 255, data := 0x55, cls := 2, pid := 0 }, attr := { did := 4, cls := 2 }, lvl := 0, purp := .fwr 2, status := .posted }] } }, 3, 2, { id := 7, req := { master := .engine 3, op := .write, addr := 0x1800000, len := 8, be := 255, data := 0x55, cls := 2, pid := 0 }, attr := { did := 4, cls := 2 }, lvl := 0, purp := .fwr 2, status := .posted }, by decide +kernel⟩

theorem wit_WindowRead : ∃ (s : State) (id : Nat) (waited : Nat) (f : Findings) (t : Txn) (k : Fin 32) (packed : Bool) (off : Nat), txn? s id = some t ∧ t.status = .transit ∧ behindSource s t = false ∧ regionOf s t.req.addr = some (.window k packed off) ∧ t.req.op ≠ .write ∧ winDeny (cmSettle (confTicks s k 8 waited) k) k t.attr.did (passesAll t.req.master t.lvl) (winTouched packed off t.req.len (reqTouch t.req)) = none :=
  ⟨{ fab := { txns := [{ id := 7, req := { master := .scu, op := .read, addr := 0x41f00000, len := 8, be := 255, data := 0x55, cls := 2, pid := 0 }, attr := { did := 0, cls := 2 }, lvl := 0, purp := .plain, status := .transit }] } }, 7, 0, [], { id := 7, req := { master := .scu, op := .read, addr := 0x41f00000, len := 8, be := 255, data := 0x55, cls := 2, pid := 0 }, attr := { did := 0, cls := 2 }, lvl := 0, purp := .plain, status := .transit }, 31, false, 0, by decide +kernel⟩

theorem wit_WindowWrite : ∃ (s : State) (id : Nat) (waited : Nat) (f : Findings) (t : Txn) (k : Fin 32) (packed : Bool) (off : Nat), txn? s id = some t ∧ t.status = .transit ∧ behindSource s t = false ∧ regionOf s t.req.addr = some (.window k packed off) ∧ t.req.op = .write ∧ winDeny (cmSettle (confTicks s k 8 waited) k) k t.attr.did (passesAll t.req.master t.lvl) (winTouched packed off t.req.len (reqTouch t.req)) = none :=
  ⟨{ fab := { txns := [{ id := 7, req := { master := .scu, op := .write, addr := 0x50000000, len := 8, be := 255, data := 0x55, cls := 2, pid := 0 }, attr := { did := 0, cls := 2 }, lvl := 0, purp := .plain, status := .transit }] } }, 7, 0, [], { id := 7, req := { master := .scu, op := .write, addr := 0x50000000, len := 8, be := 255, data := 0x55, cls := 2, pid := 0 }, attr := { did := 0, cls := 2 }, lvl := 0, purp := .plain, status := .transit }, 0, true, 0, by decide +kernel⟩

theorem wit_CompletionPlain : ∃ (s : State) (id : Nat) (t : Txn), clocksOn s = true ∧ completion? s id = some (t, true) ∧ t.purp = .plain ∧ t.req.master = .scu :=
  ⟨{ fab := { txns := [{ id := 7, req := { master := .scu, op := .read, addr := 0x1800000, len := 8, be := 255, data := 0x55, cls := 2, pid := 0 }, attr := { did := 0, cls := 2 }, lvl := 0, purp := .plain, status := .answered }] } }, 7, { id := 7, req := { master := .scu, op := .read, addr := 0x1800000, len := 8, be := 255, data := 0x55, cls := 2, pid := 0 }, attr := { did := 0, cls := 2 }, lvl := 0, purp := .plain, status := .answered }, by decide +kernel⟩

theorem wit_CompletionStale : ∃ (s : State) (id : Nat) (t : Txn), clocksOn s = true ∧ completion? s id = some (t, false) ∧ t.purp = .plain :=
  ⟨wrF ({ fab := { txns := [{ id := 7, req := { master := .engine 3, op := .read, addr := 0x1800000, len := 8, be := 255, data := 0x55, cls := 2, pid := 0 }, attr := { did := 4, cls := 2 }, lvl := 0, purp := .plain, status := .answered }] } }) (.nce 3) 0x034 0 8 1, 7, { id := 7, req := { master := .engine 3, op := .read, addr := 0x1800000, len := 8, be := 255, data := 0x55, cls := 2, pid := 0 }, attr := { did := 4, cls := 2 }, lvl := 0, purp := .plain, status := .answered }, by decide +kernel⟩

theorem wit_CompletionFrd : ∃ (s : State) (id : Nat) (t : Txn) (e : Fin 512) (th : Fin 4) (slot : Nat), clocksOn s = true ∧ completion? s id = some (t, true) ∧ t.purp = .frd th slot ∧ t.req.master = .engine e :=
  ⟨{ fab := { txns := [{ id := 7, req := { master := .engine 3, op := .read, addr := 0x1800000, len := 8, be := 255, data := 0x55, cls := 2, pid := 0 }, attr := { did := 4, cls := 2 }, lvl := 0, purp := .frd 2 1, status := .answered }] } }, 7, { id := 7, req := { master := .engine 3, op := .read, addr := 0x1800000, len := 8, be := 255, data := 0x55, cls := 2, pid := 0 }, attr := { did := 4, cls := 2 }, lvl := 0, purp := .frd 2 1, status := .answered }, 3, 2, 1, by decide +kernel⟩

theorem wit_CompletionMover : ∃ (s : State) (id : Nat) (waited : Nat) (i : Nat) (n : Nat) (f : Findings) (t : Txn) (m : Fin 256), clocksOn s = true ∧ completion? s id = some (t, true) ∧ t.purp = .mover m i n ∧ t.req.master = .mover m :=
  ⟨{ fab := { txns := [{ id := 7, req := { master := .mover 255, op := .read, addr := 0x1800000, len := 8, be := 255, data := 0x55, cls := 2, pid := 0 }, attr := { did := 4, cls := 2 }, lvl := 0, purp := .mover 255 0 4, status := .answered }] } }, 7, 3, 0, 4, [], { id := 7, req := { master := .mover 255, op := .read, addr := 0x1800000, len := 8, be := 255, data := 0x55, cls := 2, pid := 0 }, attr := { did := 4, cls := 2 }, lvl := 0, purp := .mover 255 0 4, status := .answered }, 255, by decide +kernel⟩

theorem wit_yoyoFull : ∃ s : State, SMap.wf {} s.yoyos = true ∧ (SMap.get {} s.yoyos (yoyoKey .supv .mari 3)).busy = true ∧ (SMap.get {} s.yoyos (yoyoKey .supv .mari 3)).count = 255 :=
  ⟨{ yoyos := [(yoyoKey .supv .mari 3, { busy := true, count := 255 })] }, by decide +kernel⟩

theorem wit_yoyoIdle : SMap.wf {} ({} : State).yoyos = true ∧ (SMap.get {} ({} : State).yoyos (yoyoKey .supv .mari 3)).busy = false ∧
    (SMap.get {} ({} : State).yoyos (yoyoKey .supv .mari 3)).count = 0 := by decide +kernel

theorem wit_Increment : ∃ (s : State) (d : Fin 64), d ≠ 0 ∧ drained s d = true ∧ lapWait s d = false :=
  ⟨setDom {} 63 3 1, 63, by decide +kernel⟩

theorem wit_LapWaits : ∃ (s : State) (d : Fin 64), d ≠ 0 ∧ drained s d = true ∧ lapWait s d = true ∧ rdB s (.dom d) 0x044 5 = false :=
  ⟨wrF (wrF (setDom { fab := { txns := [{ id := 1, req := { master := .pcie 3, op := .read, addr := 0, len := 1, be := 1, data := 0, cls := 0, pid := 0 }, attr := { did := 63, gen := 0 }, lvl := 0, purp := .plain, status := .accepted, old := true }] } } 63 3 1) (.pce 3) 0x030 0 6 63) (.pce 3) 0x034 0 8 255, 63, by decide +kernel⟩

theorem wit_DrainTimeout : ∃ (s : State) (d : Fin 64), d ≠ 0 ∧ domState s d = 3 ∧ domStep s d = 1 ∧ inTransit s d ≠ [] :=
  ⟨setDom { fab := { txns := [{ id := 7, req := { master := .engine 3, op := .read, addr := 0x1800000, len := 8, be := 255, data := 0x55, cls := 2, pid := 0 }, attr := { did := 4, cls := 2 }, lvl := 0, purp := .plain, status := .transit }] } } 4 3 1, 4, by decide +kernel⟩

theorem wit_ResetEnd : ∃ (s : State) (d : Fin 64), d ≠ 0 ∧ domState s d = 3 ∧ domStep s d = 4 :=
  ⟨setDom {} 63 3 4, 63, by decide +kernel⟩

theorem wit_incrementRenews : ∃ (s : State) (d : Fin 64), Inv s ∧ d ≠ 0 ∧ drained s d = true ∧ lapWait s d = false :=
  ⟨setDom {} 63 3 1, 63, ⟨by decide +kernel, by decide +kernel, by decide +kernel, by decide +kernel⟩, by decide +kernel⟩

theorem wit_LanePllLock : ∃ (s : State) (q : Fin 8) (i : Nat), clocksOn s = true ∧ q.val ∉ s.lanePll ∧ i < 4 ∧ laneClaimed s (4 * q.val + i) = true :=
  ⟨wrF {} (.ln 31) 0x044 0 2 3, 7, 3, by decide +kernel⟩

theorem wit_DataLock : ∃ (s : State) (l : Fin 32), clocksOn s = true ∧ laneClaimed s l = true ∧ l.val / 4 ∈ s.lanePll :=
  ⟨wrF { lanePll := [7] } (.ln 31) 0x044 0 2 3, 31, by decide +kernel⟩

theorem wit_LockLoss : ∃ (s : State) (l : Fin 32), clocksOn s = true ∧ laneClaimed s l = true ∧ rdB s (.ln l) 0x044 5 = true :=
  ⟨wrB (wrF { lanePll := [7] } (.ln 31) 0x044 0 2 3) (.ln 31) 0x044 5 true, 31, by decide +kernel⟩

theorem wit_LineFill : ∃ (s : State) (n : Fin 24) (la : Nat) (env : MemEnv) (x : Trained), (Machine.core s n).run = .running ∧ ((Machine.core s n).train.find? fun t => t.page = la / 64 && t.lvl = level s n) = some x ∧ l2Line s (clusterOfCore n) la = none :=
  ⟨{ cores := [(23, { run := .running, train := [{ page := 0x1800, lvl := 3, attr := {} }] })] }, 23, 0x60000, {}, { page := 0x1800, lvl := 3, attr := {} }, by decide +kernel⟩

theorem wit_L2Scrub : ∃ (s : State) (w : Fin 3) (la : Nat) (found : Fin 4) (x : L2Line), l2Line s w la = some x :=
  ⟨{ l2s := [(2, [(5, { data := 1, dirty := true, writer := 4 })])] }, 2, 5, 2, { data := 1, dirty := true, writer := 4 }, by decide +kernel⟩

theorem wit_SchLow : ∃ (s : State) (n : Fin 256) (h : SchEnt) (rest : List SchEnt) (t : Nat) (land : Bool), HeadDue s n h rest t false ∧ h.action = 4 * land.toNat :=
  ⟨{ cells := [(255, { schf := [{ time := 7, action := 4 * 1 }], elig := 5 })] }, 255, { time := 7, action := 4 * 1 }, [], 7, true, by unfold HeadDue; exact ⟨by decide +kernel, ⟨[], by decide +kernel⟩, by decide +kernel, by decide +kernel, by decide +kernel⟩, by decide⟩

theorem wit_SchHigh : ∃ (s : State) (n : Fin 256) (h : SchEnt) (rest : List SchEnt) (t : Nat) (land : Bool), HeadDue s n h rest t false ∧ h.action = 4 * land.toNat + 1 :=
  ⟨{ cells := [(255, { schf := [{ time := 7, action := 4 * 1 + 1 }], elig := 5 })] }, 255, { time := 7, action := 4 * 1 + 1 }, [], 7, true, by unfold HeadDue; exact ⟨by decide +kernel, ⟨[], by decide +kernel⟩, by decide +kernel, by decide +kernel, by decide +kernel⟩, by decide⟩

theorem wit_SchRelease : ∃ (s : State) (n : Fin 256) (h : SchEnt) (rest : List SchEnt) (t : Nat) (land : Bool), HeadDue s n h rest t false ∧ h.action = 4 * land.toNat + 2 :=
  ⟨{ cells := [(255, { schf := [{ time := 7, action := 4 * 1 + 2 }], elig := 5 })] }, 255, { time := 7, action := 4 * 1 + 2 }, [], 7, true, by unfold HeadDue; exact ⟨by decide +kernel, ⟨[], by decide +kernel⟩, by decide +kernel, by decide +kernel, by decide +kernel⟩, by decide⟩

theorem wit_SchToggle : ∃ (s : State) (n : Fin 256) (h : SchEnt) (rest : List SchEnt) (t : Nat) (land : Bool), HeadDue s n h rest t false ∧ h.action = 4 * land.toNat + 3 :=
  ⟨{ cells := [(255, { schf := [{ time := 7, action := 4 * 1 + 3 }], elig := 5 })] }, 255, { time := 7, action := 4 * 1 + 3 }, [], 7, true, by unfold HeadDue; exact ⟨by decide +kernel, ⟨[], by decide +kernel⟩, by decide +kernel, by decide +kernel, by decide +kernel⟩, by decide⟩

theorem wit_SchStartTx : ∃ (s : State) (n : Fin 256) (h : SchEnt) (rest : List SchEnt) (t : Nat), HeadDue s n h rest t false ∧ h.action = 8 ∧ pcB s n 0x04C 15 = true ∧ canTx (headTaken s n rest t) n = true :=
  ⟨updCell (wrB (wrB ({ cells := [(255, { schf := [{ time := 7, action := 8 }], elig := 5 })] }) (.pc 255) 0x040 0 true) (.pc 255) 0x04C 15 true) 255 fun c => { c with tx := [5] }, 255, { time := 7, action := 8 }, [], 7, by unfold HeadDue; exact ⟨by decide +kernel, ⟨[], by decide +kernel⟩, by decide +kernel, by decide +kernel, by decide +kernel⟩, by decide, by decide +kernel, by decide +kernel⟩

theorem wit_SchStartRepeat : ∃ (s : State) (n : Fin 256) (h : SchEnt) (rest : List SchEnt) (t : Nat), HeadDue s n h rest t false ∧ h.action = 9 :=
  ⟨{ cells := [(255, { schf := [{ time := 7, action := 9 }], elig := 5 })] }, 255, { time := 7, action := 9 }, [], 7, by unfold HeadDue; exact ⟨by decide +kernel, ⟨[], by decide +kernel⟩, by decide +kernel, by decide +kernel, by decide +kernel⟩, by decide⟩

theorem wit_SchStopRepeat : ∃ (s : State) (n : Fin 256) (h : SchEnt) (rest : List SchEnt) (t : Nat), HeadDue s n h rest t false ∧ h.action = 10 :=
  ⟨{ cells := [(255, { schf := [{ time := 7, action := 10 }], elig := 5 })] }, 255, { time := 7, action := 10 }, [], 7, by unfold HeadDue; exact ⟨by decide +kernel, ⟨[], by decide +kernel⟩, by decide +kernel, by decide +kernel, by decide +kernel⟩, by decide⟩

theorem wit_SchMark : ∃ (s : State) (n : Fin 256) (h : SchEnt) (rest : List SchEnt) (t : Nat), HeadDue s n h rest t false ∧ h.action = 11 :=
  ⟨{ cells := [(255, { schf := [{ time := 7, action := 11 }], elig := 5 })] }, 255, { time := 7, action := 11 }, [], 7, by unfold HeadDue; exact ⟨by decide +kernel, ⟨[], by decide +kernel⟩, by decide +kernel, by decide +kernel, by decide +kernel⟩, by decide⟩

theorem wit_SchedLate : ∃ (s : State) (n : Fin 256) (h : SchEnt) (rest : List SchEnt) (t : Nat), HeadDue s n h rest t true ∧ h.action = 11 :=
  ⟨{ cells := [(255, { schf := [{ time := 7, action := 11 }], elig := 8 })] }, 255, { time := 7, action := 11 }, [], 8, by unfold HeadDue; exact ⟨by decide +kernel, ⟨[], by decide +kernel⟩, by decide +kernel, by decide +kernel, by decide +kernel⟩, by decide⟩

theorem wit_RxPop : ∃ (s : State) (e : Fin 512) (i : Fin 8) (x : Word18) (xs : List Word18) (b : Bool) (rest : List (List Word18 × Bool)), engUp s = true ∧ cellOwnerOk (slotSeen s e i) e (slotCell e i) = true ∧ (cell (slotSeen s e i) (slotCell e i)).rx = (x :: xs, b) :: rest :=
  ⟨{ sage := { phase := .done }, cells := [(255, { rx := [([5, 6], false)] })] }, 511, 7, 5, [6], false, [], by decide +kernel⟩

theorem wit_RxPopEmpty : ∃ (s : State) (e : Fin 512) (i : Fin 8), engUp s = true ∧ cellOwnerOk (slotSeen s e i) e (slotCell e i) = true ∧ (cell (slotSeen s e i) (slotCell e i)).rx = [] :=
  ⟨{ sage := { phase := .done } }, 511, 7, by decide +kernel⟩

theorem wit_CapturePop : ∃ (s : State) (e : Fin 512) (i : Fin 8) (x : CapEnt) (rest : List CapEnt), engUp s = true ∧ cellOwnerOk (slotSeen s e i) e (slotCell e i) = true ∧ (cell (slotSeen s e i) (slotCell e i)).capf = x :: rest :=
  ⟨{ sage := { phase := .done }, cells := [(255, { capf := [{ stamp := 2 ^ 32 - 1, lost := true, rise := true, landB := true }] })] }, 511, 7, { stamp := 2 ^ 32 - 1, lost := true, rise := true, landB := true }, [], by decide +kernel⟩

theorem wit_TxPush : ∃ (s : State) (e : Fin 512) (i : Fin 8) (v : Word18), engUp s = true ∧ cellOwnerOk (slotState s e i) e (slotCell e i) = true ∧ pcB s (slotCell e i) 0x040 6 = false ∧ pcB (slotState s e i) (slotCell e i) 0x040 6 = false ∧ (cell (slotState s e i) (slotCell e i)).tx.length < 4 :=
  ⟨{ sage := { phase := .done } }, 511, 7, 5, by decide +kernel⟩

theorem wit_DutyWrite : ∃ (s : State) (e : Fin 512) (i : Fin 8) (v : Word18), engUp s = true ∧ cellOwnerOk (slotState s e i) e (slotCell e i) = true ∧ pcB s (slotCell e i) 0x040 6 = true ∧ pcB (slotState s e i) (slotCell e i) 0x040 6 = true :=
  ⟨wrB { sage := { phase := .done } } (.pc 255) 0x040 6 true, 511, 7, 5, by decide +kernel⟩

theorem wit_ScheduleStage : ∃ (s : State) (e : Fin 512) (i : Fin 8) (v : Word18), engUp s = true ∧ cellOwnerOk (slotState s e i) e (slotCell e i) = true :=
  ⟨{ sage := { phase := .done } }, 511, 7, 5, by decide +kernel⟩

theorem wit_ScheduleCommit : ∃ (s : State) (e : Fin 512) (i : Fin 8) (v : Word18), engUp s = true ∧ cellOwnerOk (slotState s e i) e (slotCell e i) = true ∧ fld v 14 4 < 12 ∧ (cell (slotState s e i) (slotCell e i)).schf.length < 16 :=
  ⟨{ sage := { phase := .done } }, 511, 7, 0x2C005, by decide +kernel⟩

theorem wit_ClrCap : ∃ (s : State) (e : Fin 512) (i : Fin 8), engUp s = true ∧ cellOwnerOk (slotState s e i) e (slotCell e i) = true :=
  ⟨{ sage := { phase := .done } }, 511, 7, by decide +kernel⟩

theorem wit_ClrSch : ∃ (s : State) (e : Fin 512) (i : Fin 8), engUp s = true ∧ cellOwnerOk (slotState s e i) e (slotCell e i) = true :=
  ⟨{ sage := { phase := .done } }, 511, 7, by decide +kernel⟩

theorem wit_ClrRx : ∃ (s : State) (e : Fin 512) (i : Fin 8), engUp s = true ∧ cellOwnerOk (slotState s e i) e (slotCell e i) = true :=
  ⟨{ sage := { phase := .done } }, 511, 7, by decide +kernel⟩

theorem wit_ClrTx : ∃ (s : State) (e : Fin 512) (i : Fin 8), engUp s = true ∧ cellOwnerOk (slotState s e i) e (slotCell e i) = true :=
  ⟨{ sage := { phase := .done } }, 511, 7, by decide +kernel⟩

theorem wit_CellAbort : ∃ (s : State) (e : Fin 512) (i : Fin 8), engUp s = true ∧ cellOwnerOk (slotState s e i) e (slotCell e i) = true :=
  ⟨{ sage := { phase := .done } }, 511, 7, by decide +kernel⟩

theorem wit_LeaveSafeCmd : ∃ (s : State) (e : Fin 512) (i : Fin 8), engUp s = true ∧ cellOwnerOk (slotState s e i) e (slotCell e i) = true :=
  ⟨{ sage := { phase := .done } }, 511, 7, by decide +kernel⟩

theorem wit_ClrErr : ∃ (s : State) (e : Fin 512) (i : Fin 8), engUp s = true ∧ cellOwnerOk (slotState s e i) e (slotCell e i) = true :=
  ⟨{ sage := { phase := .done } }, 511, 7, by decide +kernel⟩

theorem wit_Bset : ∃ (s : State) (e : Fin 512) (i : Fin 8) (v : Fin 4), engUp s = true ∧ cellOwnerOk (slotState s e i) e (slotCell e i) = true ∧ (v.val = 1 ∨ v.val = 2) :=
  ⟨{ sage := { phase := .done } }, 511, 7, 2, by decide +kernel⟩

theorem wit_Stuffc : ∃ (s : State) (e : Fin 512) (i : Fin 8) (v : Fin 4), engUp s = true ∧ cellOwnerOk (slotState s e i) e (slotCell e i) = true ∧ (v.val = 1 ∨ v.val = 2) :=
  ⟨{ sage := { phase := .done } }, 511, 7, 2, by decide +kernel⟩

theorem wit_Lva : ∃ (s : State) (e : Fin 512) (i : Fin 8) (v : Fin 8), engUp s = true ∧ cellOwnerOk (slotState s e i) e (slotCell e i) = true ∧ (1 ≤ v.val ∧ v.val ≤ 4) :=
  ⟨{ sage := { phase := .done } }, 511, 7, 4, by decide +kernel⟩

theorem wit_Lvb : ∃ (s : State) (e : Fin 512) (i : Fin 8) (v : Fin 8), engUp s = true ∧ cellOwnerOk (slotState s e i) e (slotCell e i) = true ∧ (1 ≤ v.val ∧ v.val ≤ 4) :=
  ⟨{ sage := { phase := .done } }, 511, 7, 4, by decide +kernel⟩

theorem wit_RepStop : ∃ (s : State) (e : Fin 512) (i : Fin 8), engUp s = true ∧ cellOwnerOk (slotState s e i) e (slotCell e i) = true :=
  ⟨{ sage := { phase := .done } }, 511, 7, by decide +kernel⟩

theorem wit_SlotOwner : ∃ (s : State) (e : Fin 512) (i : Fin 8) (v : Word18), engUp s = true :=
  ⟨wrF { sage := { phase := .done } } (.nce 511) 0x030 0 6 4, 511, 7, 0, by decide +kernel⟩

theorem wit_KeepTimeout : ∃ (s : State) (n : Fin 256) (t : Nat), True :=
  ⟨wrF (wrB ({ cells := [(255, { keepAt := 40 })] }) (.pc 255) 0x040 0 true) (.pc 255) 0x060 0 5 20, 255, 40, by decide +kernel⟩

theorem wit_IdleTimeout : ∃ (s : State) (n : Fin 256),
    let t := (cell s n).idleAt
    let u := dueState s n .idle t 1
    clocksOn s = true ∧ cellEn s n = true ∧ pcF s n 0x060 8 5 ≠ 0 ∧ idleDue u n = some t :=
  ⟨wrF (wrB ({}) (.pc 255) 0x040 0 true) (.pc 255) 0x060 8 5 20, 255, by decide +kernel⟩

theorem wit_RepeatPeriod : ∃ (s : State) (n : Fin 256),
    let t := (cell s n).repStart + pcF s n 0x064 0 24
    let u := dueState s n .period t 1
    clocksOn s = true ∧ (cell s n).repOn = true ∧ pcF s n 0x064 0 24 ≠ 0 ∧ periodDue u n = some t :=
  ⟨{ cells := [(255, { repOn := true })] }, 255, by decide +kernel⟩

theorem wit_TxStart : ∃ (s : State) (n : Fin 256),
    let u := cellTo n (actKey s.dt .keep) s
    clocksOn s = true ∧ pcB s n 0x04C 15 = false ∧ canTx u n = true :=
  ⟨wrB ({ cells := [(255, { tx := [1, 2] })] }) (.pc 255) 0x040 0 true, 255, by decide +kernel⟩

theorem wit_TxEnd : ∃ (s : State) (n : Fin 256) (f : TxFrame), clocksOn s = true ∧ (cell s n).txf = some f :=
  ⟨{ cells := [(255, { txf := some { bits := [true], start := 5, segs := [{ base := 5, set := 0 }] } })] }, 255, { bits := [true], start := 5, segs := [{ base := 5, set := 0 }] }, by decide +kernel⟩

theorem wit_Stretch : ∃ (s : State) (n : Fin 256) (f : TxFrame), clocksOn s = true ∧ cellEn s n = true ∧ shMode s n = 7 ∧ pcF s n 0x04C 28 4 ≠ 0 ∧ (cell s n).txf = some f ∧ (lastSeg f).bit < f.bits.length :=
  ⟨wrF (wrF (wrB ({ cells := [(255, { txf := some { bits := [true], start := 0, segs := [{ base := 0, set := 0 }] } })] }) (.pc 255) 0x040 0 true) (.pc 255) 0x04C 28 4 1) (.pc 255) 0x04C 0 3 7, 255, { bits := [true], start := 0, segs := [{ base := 0, set := 0 }] }, by decide +kernel⟩

theorem wit_RxStart : ∃ (s : State) (n : Fin 256),
    let u := cellTo n (actKey s.dt .txEnd) s
    clocksOn u = true ∧ cellEn u n = true ∧ (cell u n).safe = false ∧ shMode s n < 5 ∧ shMode u n < 5 :=
  ⟨wrB ({}) (.pc 255) 0x040 0 true, 255, by decide +kernel⟩

theorem wit_RxComplete : ∃ (s : State) (n : Fin 256) (r : RxFrame) (x : Nat),
    let u := cellAt s n s.dt
    let v := advanceTo u x
    let w := dueState v n .sample x 0
    clocksOn s = true ∧ cellEn s n = true ∧ shMode s n ≠ 4 ∧ (cell u n).safe = false ∧ (cell u n).rxf = some r ∧ rxNext u n r = some x ∧ clocksOn v = true ∧ rxDue v n = some x ∧ rxDue w n = some x :=
  ⟨wrB ({ cells := [(255, { rxf := some { fr := { bits := [], start := 0, segs := [{ base := 0, set := 0 }] } } })] }) (.pc 255) 0x040 0 true, 255, { fr := { bits := [], start := 0, segs := [{ base := 0, set := 0 }] } }, (rxNext (wrB ({ cells := [(255, { rxf := some { fr := { bits := [], start := 0, segs := [{ base := 0, set := 0 }] } } })] }) (.pc 255) 0x040 0 true) 255 { fr := { bits := [], start := 0, segs := [{ base := 0, set := 0 }] } }).getD 0, by decide +kernel⟩

theorem wit_LandEdge : ∃ (s : State) (n : Fin 256) (level : Bool), clocksOn s = true ∧ (cell s n).accA ≠ level ∧ (∀ x ∈ (cell s n).edgA, x + pcF s n 0x044 20 8 < s.dt) :=
  ⟨wrF (wrB ({}) (.pc 255) 0x040 0 true) (.pc 255) 0x040 16 2 3, 255, true, by decide +kernel⟩

theorem wit_VinSample : ∃ (s : State) (vin : Int) (iin : Int) (same : Bool), (0 ≤ vin ∧ vin ≤ 30000) ∧ (-5000 ≤ iin ∧ iin ≤ 60000) ∧ stageOn s = true ∧ (vinIinSample vin iin same s).pwr.win ≠ 2 :=
  ⟨{}, 18000, -5000, false, by decide +kernel⟩

theorem wit_HighTripRestart : ∃ (s : State), s.pwr.trip = true ∧ stageOn s = true ∧ meanI s.pwr.vinS ≤ 18000 :=
  ⟨{ pwr := { trip := true } }, by decide +kernel⟩

theorem wit_DipTimeout : ∃ (s : State) (same : Bool), s.pwr.win = 3 ∧ stageOn s = true ∧ s.pwr.vaon = true ∧ s.pwr.rail ≠ .dead :=
  ⟨{ pwr := { win := 3 } }, true, by decide +kernel⟩

theorem wit_Overcurrent : ∃ (s : State) (same : Bool), 44000 < meanI s.pwr.iinS ∧ stageOn s = true ∧ s.pwr.vaon = true ∧ s.pwr.rail ≠ .dead :=
  ⟨{ pwr := { iinS := [44001] } }, true, by decide +kernel⟩

theorem wit_RailStart : ∃ (s : State), s.pwr.rail = .off ∧ s.pwr.vaon = true ∧ s.pwr.trip = false ∧ s.pwr.back = 0 ∧ s.mari.asleep = 0 ∧ (5000 ≤ meanI s.pwr.vinS ∧ meanI s.pwr.vinS ≤ 18000) :=
  ⟨{ pwr := { rail := .off, vinS := [5000] } }, by decide +kernel⟩

theorem wit_RailTimeout : ∃ (s : State) (rail : Fin 8) (same : Bool), s.pwr.rail = .starting ∧ rail ≠ 5 ∧ s.pwr.fails < 2 :=
  ⟨{ pwr := { rail := .starting, fails := 1 } }, 7, false, by decide +kernel⟩

theorem wit_RailTimeoutThird : ∃ (s : State) (rail : Fin 8) (same : Bool), s.pwr.rail = .starting ∧ rail ≠ 5 ∧ s.pwr.fails = 2 :=
  ⟨{ pwr := { rail := .starting, fails := 2 } }, 0, false, by decide +kernel⟩

theorem wit_RailRetry : ∃ (s : State), s.pwr.rail = .retry :=
  ⟨{ pwr := { rail := .retry } }, by decide +kernel⟩

theorem wit_VaonStart : ∃ (s : State), s.pwr.vaon = false ∧ 4000 < meanI s.pwr.vinS :=
  ⟨{ pwr := { vaon := false, vinS := [4001] } }, by decide +kernel⟩

theorem wit_VaonLoss : ∃ (s : State), s.pwr.vaon = true ∧ (stageOn s = true → meanI s.pwr.vinS < 3000) :=
  ⟨{ pwr := { vinS := [2999] } }, by decide +kernel⟩

theorem wit_ThrottleStep : ∃ (s : State), clocksOn s = true ∧ rdF s .supv 0x048 20 2 = 2 ∧ s.pwr.thrCeil < 2 :=
  ⟨wrF {} .supv 0x048 20 2 2, by decide +kernel⟩

theorem wit_ThrottleRise : ∃ (s : State), clocksOn s = true ∧ rdF s .supv 0x048 20 2 ≠ 2 ∧ 0 < s.pwr.thrCeil :=
  ⟨{ pwr := { thrCeil := 2 } }, by decide +kernel⟩

theorem wit_ThermalSample : ∃ (s : State) (l : List Int) (same : Bool), rdF (thermalSample l same s) .supv 0x048 20 2 = 0 :=
  ⟨{}, List.replicate 20 25, false, by decide +kernel⟩

theorem wit_ThermalStates : ∃ (old : Nat) (t : Int), old ≤ 2 :=
  ⟨2, 114, by decide +kernel⟩

theorem wit_PowerLimit : ∃ (s : State), clocksOn s = true ∧ pinUnits s ≤ pLim s ∧ 9 * pLim s ≤ 10 * pinUnits s :=
  ⟨wr {} .supv 0x040 0x006E0320, by decide +kernel⟩

theorem wit_PowerLimitLower : ∃ (s : State) (w : Nat), clocksOn s = true ∧ pLim s < pinUnits s ∧ s.pwr.overCnt = 1 ∧ lowerPick s = some w ∧ s.pwr.hiCnt = 0 ∧ lowerPick (setCeil { s with pwr := { s.pwr with overCnt := 0 } } w (SMap.get 0 s.pwr.supCeil w + 1)) ≠ none :=
  ⟨wr { pwr := { overCnt := 1 } } .supv 0x040 0x00FF0320, 0, by decide +kernel⟩

theorem wit_VrSend : ∃ (s : State) (rail : Fin 32) (value : Fin 1024), clocksOn s = true ∧ s.pwr.vr = none :=
  ⟨{}, 31, 1000, by decide +kernel⟩

theorem wit_VrWaits : ∃ (s : State) (rail : Fin 32) (value : Fin 1024) (q : VrReq), clocksOn s = true ∧ s.pwr.vr = some q :=
  ⟨{ pwr := { vr := some { typ := 1, rail := 2, value := 180, seq := 3 } } }, 31, 1000, { typ := 1, rail := 2, value := 180, seq := 3 }, by decide +kernel⟩

theorem wit_VrAckEnds : ∃ (s : State) (f : BitVec 32) (n : Nat) (q : VrReq), s.pwr.die = true ∧ vrOk f = true ∧ fld f 28 4 = 8 ∧ s.pwr.vr = some q ∧ q.seq = fld f 8 5 ∧ q.bad = 0 ∧ fld f 13 10 = ackValue s q ∧ q.why ≠ .mari :=
  ⟨{ pwr := { vr := some { typ := 1, rail := 2, value := 180, seq := 3 } } }, vrFrame 8 2 180 3, 1, { typ := 1, rail := 2, value := 180, seq := 3 }, by decide +kernel⟩

theorem wit_VrLateAck : ∃ (s : State) (f : BitVec 32) (n : Nat), s.pwr.die = true ∧ vrOk f = true ∧ fld f 28 4 = 8 ∧ (∀ q, s.pwr.vr = some q → q.seq ≠ fld f 8 5) :=
  ⟨{}, vrFrame 8 2 180 3, 1, by decide +kernel, by decide +kernel, by decide +kernel, fun _ h => by cases h⟩

theorem wit_VrNakCrc : ∃ (s : State) (f : BitVec 32) (n : Nat) (q : VrReq), s.pwr.die = true ∧ vrOk f = true ∧ fld f 28 4 = 9 ∧ fld f 13 10 = 1 ∧ s.pwr.vr = some q ∧ q.seq = fld f 8 5 ∧ q.tries < 3 ∧ q.why ≠ .mari :=
  ⟨{ pwr := { vr := some { ({ typ := 1, rail := 2, value := 180, seq := 3 } : VrReq) with tries := 2 } } }, vrFrame 9 2 1 3, 1, { ({ typ := 1, rail := 2, value := 180, seq := 3 } : VrReq) with tries := 2 }, by decide +kernel⟩

theorem wit_VrNakOther : ∃ (s : State) (f : BitVec 32) (n : Nat) (q : VrReq), s.pwr.die = true ∧ vrOk f = true ∧ fld f 28 4 = 9 ∧ s.pwr.vr = some q ∧ q.seq = fld f 8 5 ∧ ((fld f 13 10 = 4 ∧ q.bad = 0) ∨ (2 ≤ fld f 13 10 ∧ fld f 13 10 = q.bad)) ∧ q.why ≠ .mari :=
  ⟨{ pwr := { vr := some { typ := 1, rail := 2, value := 180, seq := 3 } } }, vrFrame 9 2 4 3, 1, { typ := 1, rail := 2, value := 180, seq := 3 }, by decide +kernel⟩

theorem wit_VrTimeout : ∃ (s : State) (n : Nat) (q : VrReq), s.pwr.vr = some q ∧ q.why ≠ .mari :=
  ⟨{ pwr := { vr := some { typ := 1, rail := 2, value := 180, seq := 3 } } }, 2, { typ := 1, rail := 2, value := 180, seq := 3 }, by decide +kernel⟩

theorem wit_Telemetry : ∃ (s : State) (f : BitVec 32),
    let vin := fld f 16 12
    let iin := fld f 8 8
    clocksOn s = true ∧ vrOk f = true ∧ fld f 28 4 = 10 ∧ telemetryOf s = some (vin, iin) ∧ windowOf (10 * (vin : Int)) < 4 :=
  ⟨{ pwr := { vinS := [12000], iinS := [8000] } }, vrSeal (10 * 2 ^ 28 + 1200 * 2 ^ 16 + 32 * 2 ^ 8), by decide +kernel⟩

theorem wit_TelemLost : ∃ (s : State), clocksOn s = true :=
  ⟨{}, by decide +kernel⟩

theorem wit_BankDone : ∃ (s : State) (b : Fin 16) (res : Nat), SMap.find? s.pwr.bankEnd b = some res ∧ rdF s (.pb b) 0x044 0 2 ≠ 3 :=
  ⟨{ pwr := { bankEnd := [(15, 1)] } }, 15, 1, by decide +kernel⟩

theorem wit_BankFault : ∃ (s : State) (b : Fin 16), SMap.getF railReset s.pwr.level (16 + b.val) ≠ 0 :=
  ⟨{ pwr := { level := [(31, 100)] } }, 15, by decide +kernel⟩

theorem wit_RefLost : ∃ (s : State), s.pwr.die = true :=
  ⟨{}, by decide +kernel⟩

theorem wit_RefAccepted : ∃ (s : State), s.pwr.die = true :=
  ⟨{ pwr := { refOk := false } }, by decide +kernel⟩

theorem wit_RefWait : ∃ (s : State), s.pwr.die = false ∧ s.pwr.refOk = false ∧ (s.pwr.rail = .up ∨ s.pwr.rail = .starting) :=
  ⟨{ pwr := { die := false, refOk := false } }, by decide +kernel⟩

theorem wit_PorstAssert : ∃ (s : State) (same : Bool), s.pwr.porst = true ∧ s.pwr.vaon = true ∧ s.pwr.back < 2 ∧ (s.pwr.rail = .up ∨ s.pwr.rail = .off) ∧ s.mari.asleep < 3 :=
  ⟨{}, true, by decide +kernel⟩

theorem wit_PorstTrip : ∃ (s : State) (same : Bool), s.pwr.porst = true ∧ s.pwr.vaon = true ∧ 2 ≤ s.pwr.back :=
  ⟨{ pwr := { back := 2 } }, true, by decide +kernel⟩

theorem wit_PorstRelease : ∃ (s : State), s.pwr.porst = false :=
  ⟨{ pwr := { porst := false } }, by decide +kernel⟩

theorem wit_MariGrant : ∃ (s : State) (t : State) (k : Nat) (j : Nat) (env : MemEnv) (pars : List Nat), s.mari.ask = some k ∧ mariGrant s k env pars = .ok t ∧ (mariStrings (mariLast t) t.mari.wmask).find? (fun j => decide (k < j)) = some j :=
  ⟨wrF { mari := { ask := some 16, stopped := [0] } } .mari 0x044 14 3 2, wrF { mari := { ask := some 16, stopped := [0] } } .mari 0x044 14 3 2, 16, 17, {}, [], by decide +kernel⟩

theorem wit_MariGrantLast : ∃ (s : State) (t : State) (k : Nat) (env : MemEnv) (pars : List Nat), s.mari.ask = some k ∧ mariGrant s k env pars = .ok t ∧ (mariStrings (mariLast t) t.mari.wmask).find? (fun j => decide (k < j)) = none :=
  ⟨wrF { mari := { ask := some 48, wmask := 1 } } .mari 0x044 14 3 1, wrF { mari := { ask := some 48, wmask := 1 } } .mari 0x044 14 3 1, 48, {}, [], by decide +kernel⟩

theorem wit_MariDelay : ∃ (s : State) (k : Nat), s.mari.ask = some k ∧ mariDelays s k = true :=
  ⟨{ mari := { ask := some 50 } }, 50, by decide +kernel⟩

theorem wit_MariRefuse : ∃ (s : State) (k : Nat), s.mari.ask = some k ∧ mariRefuses s k = true :=
  ⟨wrB { mari := { ask := some 51 } } .tylw 0x040 0 true, 51, by decide +kernel⟩

theorem wit_MariSilence : ∃ (s : State) (k : Nat), s.mari.ask = some k ∧ s.mari.delayed = false :=
  ⟨{ mari := { ask := some 51 } }, 51, by decide +kernel⟩

theorem wit_MariExceeded : ∃ (s : State) (k : Nat), s.mari.ask = some k ∧ s.mari.delayed = true :=
  ⟨{ mari := { ask := some 51, delayed := true } }, 51, by decide +kernel⟩

theorem wit_MariReady : ∃ (s : State) (k : Nat) (l : List Nat), s.mari.resume = k :: l ∧ k < 48 :=
  ⟨{ mari := { resume := [47, 3], stopped := [47, 3] } }, 47, [3], by decide +kernel⟩

theorem wit_RestartFail : ∃ (s : State) (k : Nat) (l : List Nat), s.mari.resume = k :: l :=
  ⟨{ mari := { resume := [52] } }, 52, [], by decide +kernel⟩

theorem wit_AonTimer : ∃ (s : State) (cycles : Nat) (same : Bool), wakeAdmits s = true ∧ mariPhase s = 2 ∧ s.mari.rails = [] ∧ rd s .mari 0x050 ≠ 0 ∧ wakeEnabled s 0 = true :=
  ⟨wr (wr (wr { mari := { asleep := 2 } } .mari 0x044 5) .mari 0x050 9) .mari 0x048 1, 7, false, by decide +kernel⟩

theorem wit_PortEdge : ∃ (s : State) (b : Fin 16) (fall : Bool) (cycles : Nat) (same : Bool), wakeAdmits s = true ∧ wakeEnabled s (16 + b) = true ∧ rdF s (.pb b) 0x044 0 2 = 2 ∧ rdB s .mari 0x04C b = fall :=
  ⟨wr (wr (wr {} .mari 0x044 5) .mari 0x048 0x80000000) (.pb 15) 0x044 2, 15, false, 7, false, by decide +kernel⟩

theorem wit_ListenerStart : ∃ (s : State), s.pwr.vaon = true :=
  ⟨{}, by decide +kernel⟩

theorem wit_ListenerAddress : ∃ (s : State) (b : BitVec 8), s.pwr.vaon = true ∧ s.wakeL.stage = 1 :=
  ⟨{ wakeL := { stage := 1, addr := 0x7F, en := true } }, 0xFE, by decide +kernel⟩

theorem wit_WakeCmd : ∃ (s : State) (cycles : Nat) (same : Bool), s.pwr.vaon = true ∧ s.wakeL.stage = 2 :=
  ⟨{ wakeL := { stage := 2 }, mari := { asleep := 4 } }, 9, true, by decide +kernel⟩

theorem wit_PingByte : ∃ (s : State) (b : BitVec 8), s.pwr.vaon = true ∧ s.wakeL.stage = 2 ∧ b ≠ 0x5A ∧ b ≠ 0xA5 :=
  ⟨{ wakeL := { stage := 2 } }, 0x5B, by decide +kernel⟩

theorem wit_SclLow : ∃ (s : State), s.pwr.vaon = true :=
  ⟨{ wakeL := { stage := 2 } }, by decide +kernel⟩

theorem wit_BootWrite : ∃ (s : State) (slot : BitVec 8) (off : BitVec 24) (len : BitVec 16) (data : List Byte) (crc : BitVec 32), bootPort s = true ∧ s.sage.phase = .push ∧ s.sage.rdy = true ∧ crc.toNat = crc32 ([0x02, slot] ++ (bytesOf 3 off.toNat).reverse ++ (bytesOf 2 len.toNat).reverse ++ data) ∧ slot.toNat < 2 ∧ (off.toNat % 4 = 0 ∧ len.toNat % 4 = 0) ∧ (4 ≤ len.toNat ∧ len.toNat ≤ 256) ∧ off.toNat + len.toNat ≤ 0x400000 ∧ data.length = len.toNat :=
  ⟨{ sage := { phase := .push } }, 1, 0x3FFFFC, 4, [1, 2, 3, 4], BitVec.ofNat 32 (crc32 ([0x02, 1] ++ (bytesOf 3 0x3FFFFC).reverse ++ (bytesOf 2 4).reverse ++ [1, 2, 3, 4])), by decide +kernel⟩

theorem wit_BootWriteBad : ∃ (s : State) (slot : BitVec 8) (off : BitVec 24) (len : BitVec 16) (data : List Byte) (crc : BitVec 32),
    let crcBad := decide (crc.toNat ≠ crc32 ([0x02, slot] ++ (bytesOf 3 off.toNat).reverse ++ (bytesOf 2 len.toNat).reverse ++ data))
    let ref := decide (data.length ≠ len.toNat ∨ 2 ≤ slot.toNat ∨ off.toNat % 4 ≠ 0 ∨ len.toNat % 4 ≠ 0 ∨ len.toNat < 4 ∨ 256 < len.toNat ∨
      0x400000 < off.toNat + len.toNat ∨ s.sage.phase ≠ .push)
    bootPort s = true ∧ crcBad = true ∨ ref = true ∨ s.sage.rdy = false :=
  ⟨{ sage := { phase := .push } }, 0, 0, 4, [1, 2, 3, 4], 0, by decide +kernel⟩

theorem wit_BootStatus : ∃ (s : State), bootPort s = true :=
  ⟨{ sage := { phase := .push } }, by decide +kernel⟩

theorem wit_BootInfo : ∃ (s : State), bootPort s = true ∧ s.sage.rdy = true :=
  ⟨{ sage := { phase := .push } }, by decide +kernel⟩

theorem wit_BootClear : ∃ (s : State) (slot : Byte) (crc : BitVec 32), bootPort s = true ∧ s.sage.phase = .push ∧ s.sage.rdy = true ∧ crc.toNat = crc32 [0x20, slot] ∧ slot.toNat < 2 :=
  ⟨{ sage := { phase := .push } }, 1, BitVec.ofNat 32 (crc32 [0x20, 1]), by decide +kernel⟩

theorem wit_BootRelease : ∃ (s : State) (crc : BitVec 32), bootPort s = true ∧ s.sage.phase = .push ∧ s.sage.rdy = true ∧ crc.toNat = crc32 [0xB8, 0x5A] :=
  ⟨{ sage := { phase := .push } }, BitVec.ofNat 32 (crc32 [0xB8, 0x5A]), by decide +kernel⟩

theorem wit_BootReserved : ∃ (s : State) (cmd : BitVec 8), bootPort s = true ∧ (cmd ≠ 0x02 ∧ cmd ≠ 0x05 ∧ cmd ≠ 0x20 ∧ cmd ≠ 0x9F ∧ cmd ≠ 0xB8) :=
  ⟨{ sage := { phase := .push } }, 0xFF, by decide +kernel⟩

theorem wit_BootTimeout : ∃ (s : State), bootPort s = true :=
  ⟨{ sage := { phase := .push } }, by decide +kernel⟩

theorem wit_BootApplied : ∃ (s : State), s.sage.applying = true ∧ s.sage.phase = .push :=
  ⟨{ sage := { phase := .push, applying := true } }, by decide +kernel⟩

theorem wit_PushAbandon : ∃ (s : State), s.sage.started = true ∧ s.sage.phase = .push :=
  ⟨{ sage := { phase := .push, started := true } }, by decide +kernel⟩

theorem wit_PcieWrite : ∃ (s : State) (off : BitVec 23) (data : List Byte), bootPcie s = true ∧ s.sage.phase = .push ∧ data ≠ [] ∧ off.toNat + data.length ≤ 0x400000 :=
  ⟨wrF { sage := { phase := .push, bootif := 1 } } (.pce 0) 0x044 0 2 2, 0x3FFFFC, [1, 2, 3, 4], by decide +kernel⟩

theorem wit_PcieClear : ∃ (s : State) (v : BitVec 32), bootPcie s = true ∧ s.sage.phase = .push ∧ v.toNat < 2 :=
  ⟨wrF { sage := { phase := .push, bootif := 1 } } (.pce 0) 0x044 0 2 2, 1, by decide +kernel⟩

theorem wit_TylBoot : ∃ (s : State) (key : Byte) (r : List Byte), s.sage.bootif = 2 ∧ s.sage.phase ≠ .off ∧ rdF s .tylw 0x044 0 2 = 2 :=
  ⟨wrF { sage := { phase := .push, bootif := 2 } } .tylw 0x044 0 2 2, 0x5A, [1], by decide +kernel⟩

theorem wit_DieReset : ∃ (s : State) (straps : List (Fin 8)) (us : Nat) (low : Nat),
    let u := sageBegin s (strapRead straps).1 (strapRead straps).2 low
    s.pwr.die = false ∧ s.pwr.vaon = true ∧ (s.pwr.rail = .up ∨ s.pwr.rail = .starting) ∧ s.pwr.porst = true ∧ s.pwr.refOk = true ∧ s.pwr.trip = false ∧ s.pwr.back = 0 ∧ (strapRead straps).1 ≠ 3 ∧ fuseMismatch u = false :=
  ⟨{ pwr := { die := false } }, List.replicate 8 6, 5, 3, by decide +kernel⟩

theorem wit_DieResetHalt : ∃ (s : State) (straps : List (Fin 8)) (us : Nat) (low : Nat), s.pwr.die = false ∧ s.pwr.vaon = true ∧ (s.pwr.rail = .up ∨ s.pwr.rail = .starting) ∧ s.pwr.porst = true ∧ s.pwr.refOk = true ∧ s.pwr.trip = false ∧ s.pwr.back = 0 :=
  ⟨{ pwr := { die := false } }, List.replicate 8 4, 5, 100, by decide +kernel⟩

theorem wit_ImageChoice : ∃ (s : State) (us : Nat), s.sage.phase = .verify :=
  ⟨{ sage := { phase := .verify } }, 9, by decide +kernel⟩

theorem wit_RetryResume : ∃ (s : State), s.sage.phase = .show :=
  ⟨{ sage := { phase := .show } }, by decide +kernel⟩

theorem wit_TamperEvent : ∃ (s : State) (i : Fin 3), s.sage.phase ≠ .off ∧ (i ≠ 2 ∨ s.sage.phase = .done) :=
  ⟨{ sage := { phase := .done } }, 2, by decide +kernel⟩

theorem wit_FuseReread : ∃ (s : State) (bad : Bool), s.sage.phase = .done ∧ clocksOn s = true ∧ (bad = true ∨ s.sage.fuses ≠ s.sage.fuses2) :=
  ⟨{ sage := { phase := .done } }, true, by decide +kernel⟩

theorem wit_Lockstep : ∃ (s : State), (s.sage.phase = .push ∨ s.sage.phase = .verify ∨ s.sage.phase = .show) :=
  ⟨{ sage := { phase := .verify } }, by decide +kernel⟩

theorem wit_LockstepDone : ∃ (s : State), s.sage.phase = .done :=
  ⟨{ sage := { phase := .done } }, by decide +kernel⟩

theorem wit_AddRows : ∃ (s : State) (e : Fin 512) (t : Fin 4) (f : Bool) (d : Fin 16) (a : Fin 16) (b : Fin 16) (imm : Word18), Ready s e t :=
  ⟨{ sage := { phase := .done }, engines := [(511, { thr := [(3, { st := 1, n := [(1, 5)] })] })] }, 511, 3, true, 2, 1, 3, 0x1FFFF, by decide +kernel⟩

theorem wit_CmpRows : ∃ (s : State) (e : Fin 512) (t : Fin 4) (a : Fin 16) (b : Fin 16) (imm : Word18), Ready s e t :=
  ⟨{ sage := { phase := .done }, engines := [(511, { thr := [(3, { st := 1, n := [(1, 5)] })] })] }, 511, 3, 1, 3, 7, by decide +kernel⟩

theorem wit_LogicRows : ∃ (s : State) (e : Fin 512) (t : Fin 4) (d : Fin 16) (a : Fin 16) (b : Fin 16) (imm : Word18), Ready s e t :=
  ⟨{ sage := { phase := .done }, engines := [(511, { thr := [(3, { st := 1, n := [(1, 5)] })] })] }, 511, 3, 2, 1, 3, 0x1FFFF, by decide +kernel⟩

theorem wit_TstRows : ∃ (s : State) (e : Fin 512) (t : Fin 4) (a : Fin 16) (b : Fin 16), Ready s e t :=
  ⟨{ sage := { phase := .done }, engines := [(511, { thr := [(3, { st := 1, n := [(1, 5)] })] })] }, 511, 3, 1, 3, by decide +kernel⟩

theorem wit_ShiftRows : ∃ (s : State) (e : Fin 512) (t : Fin 4) (d : Fin 16) (a : Fin 16) (b : Fin 16), Ready s e t :=
  ⟨{ sage := { phase := .done }, engines := [(511, { thr := [(3, { st := 1, n := [(1, 5)] })] })] }, 511, 3, 2, 1, 3, by decide +kernel⟩

theorem wit_ShiftImm : ∃ (s : State) (e : Fin 512) (t : Fin 4) (d : Fin 16) (a : Fin 16) (c : Fin 32), Ready s e t :=
  ⟨{ sage := { phase := .done }, engines := [(511, { thr := [(3, { st := 1, n := [(1, 5)] })] })] }, 511, 3, 2, 1, 31, by decide +kernel⟩

theorem wit_RorImm : ∃ (s : State) (e : Fin 512) (t : Fin 4) (d : Fin 16) (a : Fin 16) (c : Fin 32), Ready s e t ∧ c.val < 18 :=
  ⟨{ sage := { phase := .done }, engines := [(511, { thr := [(3, { st := 1, n := [(1, 5)] })] })] }, 511, 3, 2, 1, 17, by decide +kernel⟩

theorem wit_RorReserved : ∃ (s : State) (e : Fin 512) (t : Fin 4) (d : Fin 16) (a : Fin 16) (c : Fin 32), Ready s e t ∧ 18 ≤ c.val :=
  ⟨{ sage := { phase := .done }, engines := [(511, { thr := [(3, { st := 1 })] })] }, 511, 3, 0, 0, 18, by decide +kernel⟩

theorem wit_MulRows : ∃ (s : State) (e : Fin 512) (t : Fin 4) (f : Bool) (d : Fin 16) (a : Fin 16) (b : Fin 16), Ready s e t :=
  ⟨{ sage := { phase := .done }, engines := [(511, { thr := [(3, { st := 1, n := [(1, 5)] })] })] }, 511, 3, true, 2, 1, 3, by decide +kernel⟩

theorem wit_MacRows : ∃ (s : State) (e : Fin 512) (t : Fin 4) (f : Bool) (a : Fin 16) (b : Fin 16) (c : Fin 16) (g : Fin 16) (fr : Bool) (n0 : Bool) (n1 : Bool), Ready s e t :=
  ⟨{ sage := { phase := .done }, engines := [(511, { thr := [(3, { st := 1, n := [(1, 5)] })] })] }, 511, 3, true, 1, 3, 1, 3, true, true, false, by decide +kernel⟩

theorem wit_ExtrRows : ∃ (s : State) (e : Fin 512) (t : Fin 4) (d : Fin 16) (a : Fin 16) (sh : Fin 64), Ready s e t ∧ a.val < 2 ∧ sh.val < 44 :=
  ⟨{ sage := { phase := .done }, engines := [(511, { thr := [(3, { st := 1, n := [(1, 5)] })] })] }, 511, 3, 2, 1, 43, by decide +kernel⟩

theorem wit_AccRows : ∃ (s : State) (e : Fin 512) (t : Fin 4) (f : Bool) (a : Fin 16), Ready s e t ∧ a.val < 2 :=
  ⟨{ sage := { phase := .done }, engines := [(511, { thr := [(3, { st := 1, n := [(1, 5)] })] })] }, 511, 3, true, 1, by decide +kernel⟩

theorem wit_AclrRows : ∃ (s : State) (e : Fin 512) (t : Fin 4), Ready s e t :=
  ⟨{ sage := { phase := .done }, engines := [(511, { thr := [(3, { st := 1, n := [(1, 5)] })] })] }, 511, 3, by decide +kernel⟩

theorem wit_AccReserved : ∃ (s : State) (e : Fin 512) (t : Fin 4) (f : Bool) (d : Fin 16) (a : Fin 16) (sh : Fin 64), Ready s e t :=
  ⟨{ sage := { phase := .done }, engines := [(511, { thr := [(3, { st := 1 })] })] }, 511, 3, true, 0, 3, 44, by decide +kernel⟩

theorem wit_DivRows : ∃ (s : State) (e : Fin 512) (t : Fin 4) (f : Bool) (d : Fin 16) (a : Fin 16) (b : Fin 16), Ready s e t ∧ d.val % 2 = 0 :=
  ⟨{ sage := { phase := .done }, engines := [(511, { thr := [(3, { st := 1, n := [(1, 5)] })] })] }, 511, 3, true, 2, 1, 3, by decide +kernel⟩

theorem wit_DivReserved : ∃ (s : State) (e : Fin 512) (t : Fin 4) (f : Bool) (d : Fin 16) (a : Fin 16) (b : Fin 16), Ready s e t ∧ d.val % 2 = 1 :=
  ⟨{ sage := { phase := .done }, engines := [(511, { thr := [(3, { st := 1 })] })] }, 511, 3, true, 15, 3, 0, by decide +kernel⟩

theorem wit_MfcRow : ∃ (s : State) (e : Fin 512) (t : Fin 4) (d : Fin 16) (cr : Fin 256) (v : Word18), Ready s e t ∧ crRead (checked s e t) e t (nextSlot s e t) cr = some v :=
  ⟨{ sage := { phase := .done }, engines := [(511, { thr := [(3, { st := 1 })] })] }, 511, 3, 2, 0o050, 3, by decide +kernel⟩

theorem wit_MfcReserved : ∃ (s : State) (e : Fin 512) (t : Fin 4) (d : Fin 16) (cr : Fin 256), Ready s e t ∧ cr.val ∉ crListed :=
  ⟨{ sage := { phase := .done }, engines := [(511, { thr := [(3, { st := 1 })] })] }, 511, 3, 2, 0o004, by decide +kernel⟩

theorem wit_MtcRow : ∃ (s : State) (e : Fin 512) (t : Fin 4) (a : Fin 16) (cr : Fin 256) (th : NgThread), Ready s e t ∧ crWrite (bodyThr s e t) cr (ngReg (bodyThr s e t) a) = some th :=
  ⟨{ sage := { phase := .done }, engines := [(511, { thr := [(3, { st := 1, n := [(1, 5)] })] })] }, 511, 3, 1, 0o045, { st := 1, l := [(1, 5)], n := [(1, 5)] }, by decide +kernel⟩

theorem wit_MtcRefused : ∃ (s : State) (e : Fin 512) (t : Fin 4) (a : Fin 16) (cr : Fin 256), Ready s e t ∧ (cr.val ∉ crWritable ∨ (cr.val = 0 ∧ fld (ngReg (bodyThr s e t) a) 5 2 = 3) ∨ (0o020 ≤ cr.val ∧ cr.val < 0o031 ∧ cr.val % 3 ≠ 0 ∧ bit (ngReg (bodyThr s e t) a) 0 = true)) :=
  ⟨{ sage := { phase := .done }, engines := [(511, { thr := [(3, { st := 1, n := [(1, 5)] })] })] }, 511, 3, 1, 0o021, by decide +kernel⟩

theorem wit_CondBranch : ∃ (s : State) (e : Fin 512) (t : Fin 4) (f : Bool) (cond : Fin 16) (a : Fin 16) (target : Word18), ReadyCt s e t ∧ activeEnd (bodyThr s e t) ((bodyThr s e t).pc + 2) = false ∧ bit target 0 = false :=
  ⟨{ sage := { phase := .done }, engines := [(511, { thr := [(3, { st := 1 })] })] }, 511, 3, true, 15, 1, 0o1000, by decide +kernel⟩

theorem wit_Jumps : ∃ (s : State) (e : Fin 512) (t : Fin 4) (d : Fin 16) (a : Fin 16) (target : Word18), ReadyCt s e t ∧ activeEnd (bodyThr s e t) ((bodyThr s e t).pc + 2) = false ∧ bit target 0 = false :=
  ⟨{ sage := { phase := .done }, engines := [(511, { thr := [(3, { st := 1 })] })] }, 511, 3, 2, 1, 0o1000, by decide +kernel⟩

theorem wit_LoopRow : ∃ (s : State) (e : Fin 512) (t : Fin 4) (k : Fin 16) (a : Fin 16) (endA : Word18), ReadyCt s e t ∧ k.val < 3 ∧ bit endA 0 = false ∧ ((bodyThr s e t).pc + 2).toNat ≤ endA.toNat :=
  ⟨{ sage := { phase := .done }, engines := [(511, { thr := [(3, { st := 1, n := [(1, 5)] })] })] }, 511, 3, 2, 1, 0o1000, by decide +kernel⟩

theorem wit_LoopReserved : ∃ (s : State) (e : Fin 512) (t : Fin 4) (f : Bool) (cond : Fin 16) (d : Fin 16) (k : Fin 16) (a : Fin 16) (target : Word18), ReadyCt s e t :=
  ⟨{ sage := { phase := .done }, engines := [(511, { thr := [(3, { st := 1 })] })] }, 511, 3, true, 15, 2, 3, 1, 1, by decide +kernel⟩

theorem wit_LoopBack : ∃ (th : NgThread) (k : Fin 3) (x : Word18), bit th.sw (12 + k.val) = true ∧ SMap.get 0 th.lpE k = x ∧ (List.range 3).all (fun j => decide (j ≤ k.val) || !(bit th.sw (12 + j) && decide (SMap.get 0 th.lpE j = x))) = true :=
  ⟨{ sw := 0x7000, lpE := [(2, 6)], lpC := [(2, 3)], lpS := [(2, 4)] }, 2, 6, by decide +kernel⟩

theorem wit_Traps : ∃ (s : State) (e : Fin 512) (t : Fin 4) (f : Bool) (a : Fin 16), Ready s e t :=
  ⟨{ sage := { phase := .done }, engines := [(511, { thr := [(3, { st := 1 })] })] }, 511, 3, true, 1, by decide +kernel⟩

theorem wit_BadFetch : ∃ (s : State) (e : Fin 512) (t : Fin 4) (f : Bool) (d : Fin 16) (a : Fin 16) (b : Fin 16) (x : BitVec 36), canIssue s e t = true ∧ annulled (slotThr s e t) = false ∧ ((slotThr s e t).pc.toNat % 2 = 1 ∨ 0o070000 ≤ (slotThr s e t).pc.toNat) :=
  ⟨{ sage := { phase := .done }, engines := [(511, { thr := [(3, { st := 1, pc := 0o070000 })] })] }, 511, 3, true, 0, 0, 0, 0, by decide +kernel⟩

theorem wit_AnnulledSlot : ∃ (s : State) (e : Fin 512) (t : Fin 4) (f : Bool) (d : Fin 16) (a : Fin 16) (b : Fin 16) (x : BitVec 36) (npc : Word18), canIssue s e t = true ∧ (slotThr s e t).dslot = some (npc, true) :=
  ⟨{ sage := { phase := .done }, engines := [(511, { thr := [(3, { st := 1, dslot := some (6, true) })] })] }, 511, 3, true, 0, 0, 0, 0, 6, by decide +kernel⟩

theorem wit_HaltRow : ∃ (s : State) (e : Fin 512) (t : Fin 4), ReadyCt s e t :=
  ⟨{ sage := { phase := .done }, engines := [(511, { thr := [(3, { st := 1 })] })] }, 511, 3, by decide +kernel⟩

theorem wit_WaitRow : ∃ (s : State) (e : Fin 512) (t : Fin 4), ReadyCt s e t :=
  ⟨{ sage := { phase := .done }, engines := [(511, { thr := [(3, { st := 1 })] })] }, 511, 3, by decide +kernel⟩

theorem wit_ReteRow : ∃ (s : State) (e : Fin 512) (t : Fin 4), ReadyCt s e t ∧ (bodyThr s e t).active ≠ 0 :=
  ⟨{ sage := { phase := .done }, engines := [(511, { thr := [(3, { st := 1, active := 5, level := 3 })] })] }, 511, 3, by decide +kernel⟩

theorem wit_ReteNone : ∃ (s : State) (e : Fin 512) (t : Fin 4), ReadyCt s e t ∧ (bodyThr s e t).active = 0 :=
  ⟨{ sage := { phase := .done }, engines := [(511, { thr := [(3, { st := 1 })] })] }, 511, 3, by decide +kernel⟩

theorem wit_SigRow : ∃ (s : State) (e : Fin 512) (t : Fin 4) (g : Fin 16) (src : Fin 64), Ready s e t ∧ (32 ≤ src.val ∧ src.val < 48) :=
  ⟨{ sage := { phase := .done }, engines := [(511, { thr := [(3, { st := 1 })] })] }, 511, 3, 15, 47, by decide +kernel⟩

theorem wit_ClreRow : ∃ (s : State) (e : Fin 512) (t : Fin 4) (src : Fin 64), Ready s e t ∧ src.val < 57 :=
  ⟨{ sage := { phase := .done }, engines := [(511, { thr := [(3, { st := 1 })] })] }, 511, 3, 56, by decide +kernel⟩

theorem wit_SigReserved : ∃ (s : State) (e : Fin 512) (t : Fin 4) (g : Fin 16) (src : Fin 64), Ready s e t :=
  ⟨{ sage := { phase := .done }, engines := [(511, { thr := [(3, { st := 1 })] })] }, 511, 3, 15, 63, by decide +kernel⟩

theorem wit_EdiEei : ∃ (s : State) (e : Fin 512) (t : Fin 4) (d : Fin 16), Ready s e t :=
  ⟨{ sage := { phase := .done }, engines := [(511, { thr := [(3, { st := 1, en := true })] })] }, 511, 3, 2, by decide +kernel⟩

theorem wit_PoprRow : ∃ (s : State) (e : Fin 512) (t : Fin 4) (d : Fin 16) (r : RqEnt) (rest : List RqEnt), Ready s e t ∧ (bodyThr s e t).rq = r :: rest ∧ r.ready = true ∧ r.tick < nextSlot s e t :=
  ⟨{ sage := { phase := .done }, engines := [(511, { thr := [(3, { st := 1, rq := [{ id := 1, ready := true, val := 5, tick := 2 }] })] })] }, 511, 3, 2, { id := 1, ready := true, val := 5, tick := 2 }, [], by decide +kernel⟩

theorem wit_PoprEmpty : ∃ (s : State) (e : Fin 512) (t : Fin 4) (d : Fin 16), Ready s e t ∧ headReady (bodyThr s e t) (nextSlot s e t) = false :=
  ⟨{ sage := { phase := .done }, engines := [(511, { thr := [(3, { st := 1 })] })] }, 511, 3, 2, by decide +kernel⟩

theorem wit_FeedRows : ∃ (s : State) (e : Fin 512) (t : Fin 4) (a : Fin 16) (n : Fin 16), Ready s e t ∧ (1 ≤ n.val ∧ n.val ≤ 9) :=
  ⟨{ sage := { phase := .done }, engines := [(511, { thr := [(3, { st := 1, n := [(1, 5)] })] })] }, 511, 3, 1, 9, by decide +kernel⟩

theorem wit_FbitsReserved : ∃ (s : State) (e : Fin 512) (t : Fin 4) (a : Fin 16) (n : Fin 16), Ready s e t ∧ (n.val = 0 ∨ 10 ≤ n.val) :=
  ⟨{ sage := { phase := .done }, engines := [(511, { thr := [(3, { st := 1 })] })] }, 511, 3, 1, 10, by decide +kernel⟩

theorem wit_FeedBit : ∃ (w : Nat) (poly : Nat) (val : Nat) (b : Bool), 0 < w ∧ val < 2 ^ w ∧ poly < 2 ^ w :=
  ⟨32, 0x04C11DB7, 0xFFFFFFFF, true, by decide +kernel⟩

theorem wit_LdRow : ∃ (s : State) (e : Fin 512) (t : Fin 4) (d : Fin 16) (mode : Fin 6) (a : Fin 16) (imm : Word18) (ecc : Fin 3) (u : State), Ready s e t ∧ modeRsvd mode a imm = false ∧ eaOf s e t mode a imm < 0o100000 ∧ lmFinding (checked s e t) e (eaOf s e t mode a imm) 1 ecc = (u, true) :=
  ⟨{ sage := { phase := .done }, engines := [(511, { thr := [(3, { st := 1, n := [(1, 8), (8, 8)], m := [(0, 4)], l := [(0, 16)] })] })] }, 511, 3, 4, 4, 8, 0, 0, atSlot ({ sage := { phase := .done }, engines := [(511, { thr := [(3, { st := 1, n := [(1, 8), (8, 8)], m := [(0, 4)], l := [(0, 16)] })] })] }) 511 3, by decide +kernel⟩

theorem wit_LddRow : ∃ (s : State) (e : Fin 512) (t : Fin 4) (d : Fin 16) (mode : Fin 6) (a : Fin 16) (imm : Word18) (ecc : Fin 3) (u : State), Ready s e t ∧ modeRsvd mode a imm = false ∧ d.val % 2 = 0 ∧ eaOf s e t mode a imm % 2 = 0 ∧ eaOf s e t mode a imm < 0o100000 ∧ lmFinding (checked s e t) e (eaOf s e t mode a imm) 2 ecc = (u, true) :=
  ⟨{ sage := { phase := .done }, engines := [(511, { thr := [(3, { st := 1, n := [(1, 8), (8, 8)], m := [(0, 4)], l := [(0, 16)] })] })] }, 511, 3, 4, 4, 8, 0, 0, atSlot ({ sage := { phase := .done }, engines := [(511, { thr := [(3, { st := 1, n := [(1, 8), (8, 8)], m := [(0, 4)], l := [(0, 16)] })] })] }) 511 3, by decide +kernel⟩

theorem wit_LdqRow : ∃ (s : State) (e : Fin 512) (t : Fin 4) (d : Fin 16) (mode : Fin 6) (a : Fin 16) (imm : Word18) (ecc : Fin 3) (u : State), Ready s e t ∧ modeRsvd mode a imm = false ∧ d.val % 4 = 0 ∧ eaOf s e t mode a imm % 4 = 0 ∧ eaOf s e t mode a imm < 0o100000 ∧ lmFinding (checked s e t) e (eaOf s e t mode a imm) 4 ecc = (u, true) :=
  ⟨{ sage := { phase := .done }, engines := [(511, { thr := [(3, { st := 1, n := [(1, 8), (8, 8)], m := [(0, 4)], l := [(0, 16)] })] })] }, 511, 3, 4, 4, 8, 0, 0, atSlot ({ sage := { phase := .done }, engines := [(511, { thr := [(3, { st := 1, n := [(1, 8), (8, 8)], m := [(0, 4)], l := [(0, 16)] })] })] }) 511 3, by decide +kernel⟩

theorem wit_StRow : ∃ (s : State) (e : Fin 512) (t : Fin 4) (d : Fin 16) (mode : Fin 6) (a : Fin 16) (imm : Word18), Ready s e t ∧ modeRsvd mode a imm = false ∧ eaOf s e t mode a imm < 0o100000 :=
  ⟨{ sage := { phase := .done }, engines := [(511, { thr := [(3, { st := 1, n := [(1, 8), (8, 8)], m := [(0, 4)], l := [(0, 16)] })] })] }, 511, 3, 4, 4, 8, 0, by decide +kernel⟩

theorem wit_StdRow : ∃ (s : State) (e : Fin 512) (t : Fin 4) (d : Fin 16) (mode : Fin 6) (a : Fin 16) (imm : Word18), Ready s e t ∧ modeRsvd mode a imm = false ∧ d.val % 2 = 0 ∧ eaOf s e t mode a imm % 2 = 0 ∧ eaOf s e t mode a imm < 0o100000 :=
  ⟨{ sage := { phase := .done }, engines := [(511, { thr := [(3, { st := 1, n := [(1, 8), (8, 8)], m := [(0, 4)], l := [(0, 16)] })] })] }, 511, 3, 4, 4, 8, 0, by decide +kernel⟩

theorem wit_StqRow : ∃ (s : State) (e : Fin 512) (t : Fin 4) (d : Fin 16) (mode : Fin 6) (a : Fin 16) (imm : Word18), Ready s e t ∧ modeRsvd mode a imm = false ∧ d.val % 4 = 0 ∧ eaOf s e t mode a imm % 4 = 0 ∧ eaOf s e t mode a imm < 0o100000 :=
  ⟨{ sage := { phase := .done }, engines := [(511, { thr := [(3, { st := 1, n := [(1, 8), (8, 8)], m := [(0, 4)], l := [(0, 16)] })] })] }, 511, 3, 4, 4, 8, 0, by decide +kernel⟩

theorem wit_LdControl : ∃ (s : State) (e : Fin 512) (t : Fin 4) (d : Fin 16) (mode : Fin 6) (a : Fin 16) (imm : Word18) (ecc : Fin 3), Ready s e t ∧ modeRsvd mode a imm = false ∧ (0o110000 ≤ eaOf s e t mode a imm ∧ eaOf s e t mode a imm < 0o115000) :=
  ⟨{ sage := { phase := .done }, engines := [(511, { thr := [(3, { st := 1, n := [(1, 8), (8, 8)], m := [(0, 4)], l := [(0, 16)] })] })] }, 511, 3, 4, 0, 1, 0o113000, 0, by decide +kernel⟩

theorem wit_StControl : ∃ (s : State) (e : Fin 512) (t : Fin 4) (d : Fin 16) (mode : Fin 6) (a : Fin 16) (imm : Word18), Ready s e t ∧ modeRsvd mode a imm = false ∧ (0o110000 ≤ eaOf s e t mode a imm ∧ eaOf s e t mode a imm < 0o115000) :=
  ⟨{ sage := { phase := .done }, engines := [(511, { thr := [(3, { st := 1, n := [(1, 8), (8, 8)], m := [(0, 4)], l := [(0, 16)] })] })] }, 511, 3, 4, 0, 1, 0o113000, by decide +kernel⟩

theorem wit_LdStopped : ∃ (s : State) (e : Fin 512) (t : Fin 4) (d : Fin 16) (mode : Fin 6) (a : Fin 16) (imm : Word18) (ecc : Fin 3) (u : State), Ready s e t ∧ modeRsvd mode a imm = false ∧ eaOf s e t mode a imm < 0o100000 ∧ lmFinding (checked s e t) e (eaOf s e t mode a imm) 1 ecc = (u, false) :=
  ⟨{ sage := { phase := .done }, engines := [(511, { thr := [(3, { st := 1, n := [(1, 8), (8, 8)], m := [(0, 4)], l := [(0, 16)] })] })] }, 511, 3, 4, 0, 1, 0, 2, (lmFinding (atSlot ({ sage := { phase := .done }, engines := [(511, { thr := [(3, { st := 1, n := [(1, 8), (8, 8)], m := [(0, 4)], l := [(0, 16)] })] })] }) 511 3) 511 8 1 2).1, by decide +kernel⟩

theorem wit_MemTraps : ∃ (s : State) (e : Fin 512) (t : Fin 4) (d : Fin 16) (mode : Fin 6) (a : Fin 16) (imm : Word18) (ecc : Fin 3), Ready s e t :=
  ⟨{ sage := { phase := .done }, engines := [(511, { thr := [(3, { st := 1, n := [(1, 8), (8, 8)], m := [(0, 4)], l := [(0, 16)] })] })] }, 511, 3, 4, 0, 1, 0, 0, by decide +kernel⟩

theorem wit_Circular : ∃ (b : Word18) (m : Word18) (l : Word18) (o : Nat) (k : Nat), l ≠ 0 ∧ l.toNat ≤ 2 ^ k ∧ 2 ^ k < 2 * l.toNat ∧ b.toNat % 2 ^ k = 0 ∧ o < l.toNat ∧ k ≤ 17 ∧ m.toInt.natAbs ≤ l.toNat :=
  ⟨0o1000, 0x3FFFB, 12, 3, 4, by decide +kernel⟩

theorem wit_ClaimRows : ∃ (s : State) (e : Fin 512) (t : Fin 4) (d : Fin 16) (mode : Fin 6) (a : Fin 16) (imm : Word18), Ready s e t ∧ modeRsvd mode a imm = false ∧ (0o200000 ≤ eaOf s e t mode a imm ∧ eaOf s e t mode a imm < 0o600000) ∧ (bodyThr s e t).cma = none :=
  ⟨{ sage := { phase := .done }, engines := [(511, { thr := [(3, { st := 1, n := [(1, 8), (8, 8)], m := [(0, 4)], l := [(0, 16)] })] })] }, 511, 3, 4, 0, 1, 0o577767, by decide +kernel⟩

theorem wit_ClaimRefused : ∃ (s : State) (e : Fin 512) (t : Fin 4) (d : Fin 16) (mode : Fin 6) (a : Fin 16) (imm : Word18), Ready s e t ∧ modeRsvd mode a imm = false ∧ (0o200000 ≤ eaOf s e t mode a imm ∧ eaOf s e t mode a imm < 0o600000) ∧ (bodyThr s e t).cma ≠ none :=
  ⟨{ sage := { phase := .done }, engines := [(511, { thr := [(3, { st := 1, cma := some { tick := 62, c := 5, st := none, reg := 2 } })] })] }, 511, 3, 4, 0, 1, 0o200000, by decide +kernel⟩

theorem wit_TableTick : ∃ (s : State) (e : Fin 512) (t : Fin 4) (x : Nat), threadExists s e t = true :=
  ⟨{}, 511, 3, 62, by decide +kernel⟩

theorem wit_ClusterAccess : ∃ (s : State) (e : Fin 512) (t : Fin 4) (x : CmAcc) (ecc : Fin 3), engUp s = true ∧ (thr s e t).cma = some x ∧ cmEarlier s (clusterOf e) x.tick = false ∧ cmOwner (updThr (advanceTo s x.tick) e t fun th => { th with cma := none }) (clusterOf e) x.c = owner (updThr (advanceTo s x.tick) e t fun th => { th with cma := none }) (.nce e) :=
  ⟨{ sage := { phase := .done }, engines := [(511, { thr := [(3, { st := 1, cma := some { tick := 62, c := 5, st := none, reg := 2 } })] })] }, 511, 3, { tick := 62, c := 5, st := none, reg := 2 }, 0, by decide +kernel⟩

theorem wit_ClusterForeign : ∃ (s : State) (e : Fin 512) (t : Fin 4) (x : CmAcc) (ecc : Fin 3), engUp s = true ∧ (thr s e t).cma = some x ∧ cmEarlier s (clusterOf e) x.tick = false ∧ cmOwner (updThr (advanceTo s x.tick) e t fun th => { th with cma := none }) (clusterOf e) x.c ≠ owner (updThr (advanceTo s x.tick) e t fun th => { th with cma := none }) (.nce e) :=
  ⟨wrF { sage := { phase := .done }, engines := [(511, { thr := [(3, { st := 1, cma := some { tick := 62, c := 5, st := none, reg := 2 } })] })] } (.nc 31) 0x044 0 6 3, 511, 3, { tick := 62, c := 5, st := none, reg := 2 }, 0, by decide +kernel⟩

theorem wit_FrdRow : ∃ (s : State) (e : Fin 512) (t : Fin 4) (mode : Fin 6) (a : Fin 16) (imm : Word18), Ready s e t ∧ modeRsvd mode a imm = false ∧ 0o600000 ≤ eaOf s e t mode a imm ∧ (bodyThr s e t).rq.length < 4 :=
  ⟨{ sage := { phase := .done }, engines := [(511, { thr := [(3, { st := 1, n := [(1, 8), (8, 8)], m := [(0, 4)], l := [(0, 16)] })] })] }, 511, 3, 0, 1, 0o777767, by decide +kernel⟩

theorem wit_FwrRow : ∃ (s : State) (e : Fin 512) (t : Fin 4) (d : Fin 16) (mode : Fin 6) (a : Fin 16) (imm : Word18), Ready s e t ∧ modeRsvd mode a imm = false ∧ 0o600000 ≤ eaOf s e t mode a imm ∧ postedWrites (checked s e t) e t < 4 :=
  ⟨{ sage := { phase := .done }, engines := [(511, { thr := [(3, { st := 1, n := [(1, 8), (8, 8)], m := [(0, 4)], l := [(0, 16)] })] })] }, 511, 3, 4, 0, 1, 0o777767, by decide +kernel⟩

theorem wit_WindowLoose : ∃ (s : State) (e : Fin 512) (t : Fin 4) (j : Nat) (v : Word18), bit (SMap.get 0 (thr s e t).fwb 2) 6 = false :=
  ⟨{}, 511, 3, 7, 5, by decide +kernel⟩

theorem wit_WindowPacked : ∃ (s : State) (e : Fin 512) (t : Fin 4) (j : Nat) (v : Word18), bit (SMap.get 0 (thr s e t).fwb 2) 6 = true :=
  ⟨{ sage := { phase := .done }, engines := [(511, { thr := [(3, { fwb := [(2, 64)] })] })] }, 511, 3, 7, 5, by decide +kernel⟩

theorem wit_FabricTraps : ∃ (s : State) (e : Fin 512) (t : Fin 4) (d : Fin 16) (mode : Fin 6) (a : Fin 16) (imm : Word18), Ready s e t ∧ modeRsvd mode a imm = false :=
  ⟨{ sage := { phase := .done }, engines := [(511, { thr := [(3, { st := 1, n := [(1, 8), (8, 8)], m := [(0, 4)], l := [(0, 16)] })] })] }, 511, 3, 4, 0, 1, 0, by decide +kernel⟩

theorem wit_LocalPorts : ∃ (s : State) (e : Fin 512) (t : Fin 4) (d : Fin 16) (mode : Fin 6) (a : Fin 16) (imm : Word18) (sl : Nat) (w : Nat), Ready s e t ∧ modeRsvd mode a imm = false ∧ portSlot (eaOf s e t mode a imm) = some (sl, w) ∧ sl < 8 :=
  ⟨{ sage := { phase := .done }, engines := [(511, { thr := [(3, { st := 1, n := [(1, 8), (8, 8)], m := [(0, 4)], l := [(0, 16)] })] })] }, 511, 3, 4, 0, 0, 0o100003, 0, 3, by decide +kernel⟩

theorem wit_RemotePorts : ∃ (s : State) (e : Fin 512) (t : Fin 4) (d : Fin 16) (mode : Fin 6) (a : Fin 16) (imm : Word18) (sl : Nat) (w : Nat), Ready s e t ∧ modeRsvd mode a imm = false ∧ portSlot (eaOf s e t mode a imm) = some (sl, w) ∧ 256 ≤ sl ∧ rgDeny (checked s e t) e (sl - 256) = none ∧ (SMap.get [] (checked s e t).tyl.rwq e).length < 8 :=
  ⟨wrF (wrF { sage := { phase := .done }, engines := [(511, { thr := [(3, { st := 1, n := [(1, 8), (8, 8)], m := [(0, 4)], l := [(0, 16)] })] })] } (.pb 0) 0x080 0 1 1) .tylw 0x044 0 2 2, 511, 3, 4, 0, 0, 0o102003, 256, 3, by decide +kernel⟩

theorem wit_RemoteDenied : ∃ (s : State) (e : Fin 512) (t : Fin 4) (d : Fin 16) (mode : Fin 6) (a : Fin 16) (imm : Word18) (sl : Nat) (w : Nat) (code : Nat), Ready s e t ∧ modeRsvd mode a imm = false ∧ portSlot (eaOf s e t mode a imm) = some (sl, w) ∧ 256 ≤ sl ∧ rgDeny (checked s e t) e (sl - 256) = some code :=
  ⟨{ sage := { phase := .done }, engines := [(511, { thr := [(3, { st := 1, n := [(1, 8), (8, 8)], m := [(0, 4)], l := [(0, 16)] })] })] }, 511, 3, 4, 0, 0, 0o102003, 256, 3, 0x83, by decide +kernel⟩

theorem wit_Unallocated : ∃ (s : State) (e : Fin 512) (t : Fin 4) (x : BitVec 36) (code : Nat), Ready s e t ∧ ngEncFault x = some code :=
  ⟨{ sage := { phase := .done }, engines := [(511, { thr := [(3, { st := 1 })] })] }, 511, 3, 0, 1, by decide +kernel⟩

theorem wit_resultDistances : ∃ (th : NgThread) (l : List PendWr) (w : PendWr) (q : Nat),
    th.pend = l ++ [w] ∧ w.due < q ∧ (l.all fun x => pendOrder x w) = true ∧ w.reg < 16 :=
  ⟨{ pend := [{ due := 3, reg := 2, val := 5, load := true }, { due := 3, reg := 2, val := 7, load := true }] }, [{ due := 3, reg := 2, val := 5, load := true }],
    { due := 3, reg := 2, val := 7, load := true }, 4, by decide⟩

theorem wit_resultBefore : ∃ (th : NgThread) (q r : Nat), (th.pend.all fun x => decide (x.reg ≠ r % 16) || decide (q ≤ x.due)) = true ∧ th.pend ≠ [] :=
  ⟨{ pend := [{ due := 3, reg := 2, val := 5, load := true }] }, 3, 2, by decide⟩

theorem wit_HaltApplied : ∃ (s : State) (e : Fin 512) (t : Fin 4), ((thr s e t).st = 1 ∨ (thr s e t).st = 3) ∧ (thr s e t).dslot.isSome = false ∧ (thr s e t).entered = false ∧ haltDue (thr s e t) (nextSlot s e t) = true :=
  ⟨{ sage := { phase := .done }, engines := [(511, { thr := [(3, { st := 1, haltAt := some 2, next := 8 })] })] }, 511, 3, by decide +kernel⟩

theorem wit_EventEntry : ∃ (s : State) (e : Fin 512) (t : Fin 4) (l : Nat),
    let i := nextSlot s e t
    let u := advanceTo (selectState s e i) (i - 2)
    SlotFree s e t ∧ haltDue (thr s e t) (nextSlot s e t) = false ∧ selectLevel u e t i = some l :=
  ⟨{ sage := { phase := .done }, engines := [(511, { evmap := [(48, 0x1B)], evvec := [(15, 0o1000)], srcs := [(48, { spans := [(1, none)] })], thr := [(3, { st := 1, en := true, next := 8 })] })] }, 511, 3, 2, by decide +kernel⟩

theorem wit_Entered : ∃ (s : State) (e : Fin 512) (t : Fin 4) (l : Nat) (slot : Nat) (ret : Word18) (st : Word18) (cur : Word18), l ≤ 3 :=
  ⟨{}, 511, 3, 3, 8, 6, 7, 5, by decide +kernel⟩

theorem wit_Selected : ∃ (s : State) (e : Fin 512) (t : Fin 4) (slot : Nat) (l : Nat), (thr s e t).st ≠ 0 ∧ (thr s e t).en = true :=
  ⟨{ sage := { phase := .done }, engines := [(511, { evmap := [(48, 0x1B)], evvec := [(15, 0o1000)], srcs := [(48, { spans := [(1, none)] })], thr := [(3, { st := 1, en := true, next := 8 })] })] }, 511, 3, 11, 2, by decide +kernel⟩

theorem wit_NotSelected : ∃ (s : State) (e : Fin 512) (t : Fin 4) (slot : Nat), ((thr s e t).st = 0 ∨ (thr s e t).en = false) :=
  ⟨{}, 511, 3, 8, by decide +kernel⟩

theorem wit_WaitEnd : ∃ (s : State) (e : Fin 512) (t : Fin 4) (x : Nat), (thr s e t).st = 2 ∧ waitEnd (cellsAt s e (s.dt + 2)) e t = some x ∧ matchDue s e x = false :=
  ⟨{ sage := { phase := .done }, engines := [(511, { evmap := [(48, 0x1B)], evvec := [(15, 0o1000)], srcs := [(48, { spans := [(1, none)] })], thr := [(3, { st := 2, en := true, next := 8 })] })] }, 511, 3, 11, by decide +kernel⟩

theorem wit_TimeMatch : ∃ (s : State) (e : Fin 512) (t : Fin 4) (v : Word18), True :=
  ⟨{ sage := { phase := .done }, engines := [(511, { thr := [(3, { st := 1, tcmpL := 7, armed := some 8 })] })] }, 511, 3, 5, by decide +kernel⟩

theorem wit_MatchTime : ∃ (th : NgThread) (w : Nat) (m : Nat), th.armed = some w ∧ matchTick th = some m :=
  ⟨{ tcmpL := 7, armed := some 8 }, 8, 68719476743, by decide +kernel⟩

theorem wit_SourceSpans : ∃ (x : EvSrc) (u : Nat) (c : Nat) (k : Nat), x.clears = [] ∧ u < c :=
  ⟨{}, 4, 9, 5, by decide +kernel⟩

theorem wit_RunHalt : ∃ (s : State) (e : Fin 512) (t : Fin 4) (v : Word18) (w : Nat), threadExists s e t = true ∧ strStopped s (16 + e.val / 16) = false :=
  ⟨{ sage := { phase := .done } }, 511, 3, 1, 8, by decide +kernel⟩

theorem wit_ErrCntReadRow : ∃ (s : State) (m : Master) (lvl : Fin 4) (p : Page), Reached s m lvl p 0x02C none :=
  ⟨{}, .scu, 2, .nce 511, by decide +kernel⟩

theorem wit_FerrLostReadRow : ∃ (s : State) (m : Master) (lvl : Fin 4), Reached s m lvl .ferr 0x058 none :=
  ⟨{}, .scu, 2, by decide +kernel⟩

theorem wit_DtLoReadRow : ∃ (s : State) (m : Master) (lvl : Fin 4) (k : Nat), Reached s m lvl .ckrs 0x048 none ∧ dtLatchOf m = some k :=
  ⟨{}, .scu, 2, (dtLatchOf .scu).getD 0, by decide +kernel⟩

theorem wit_ConfCntReadRow : ∃ (s : State) (m : Master) (lvl : Fin 4) (i : Fin 8), Reached s m lvl .sram (0x064 + 8 * i.val) none :=
  ⟨{}, .scu, 2, 7, by decide +kernel⟩

theorem wit_DmcPstatReadRow : ∃ (s : State) (m : Master) (lvl : Fin 4) (i : Fin 8), Reached s m lvl .dmc (0x080 + 4 * i.val) none :=
  ⟨{}, .scu, 2, 7, by decide +kernel⟩

theorem wit_DchCeReadRow : ∃ (s : State) (m : Master) (lvl : Fin 4) (ch : Fin 18), Reached s m lvl (.dch ch) 0x044 none :=
  ⟨{}, .scu, 2, 17, by decide +kernel⟩

theorem wit_DchUeReadRow : ∃ (s : State) (m : Master) (lvl : Fin 4) (ch : Fin 18), Reached s m lvl (.dch ch) 0x048 none :=
  ⟨{}, .scu, 2, 17, by decide +kernel⟩

theorem wit_CmConfReadRow : ∃ (s : State) (m : Master) (lvl : Fin 4) (k : Fin 32) (i : Fin 9), Reached s m lvl (.nc k) (0x080 + 4 * i.val) none :=
  ⟨{}, .scu, 2, 31, 8, by decide +kernel⟩

theorem wit_CapLostReadRow : ∃ (s : State) (m : Master) (lvl : Fin 4) (n : Fin 256), Reached s m lvl (.pc n) 0x070 none :=
  ⟨{}, .scu, 2, 255, by decide +kernel⟩

theorem wit_EthStatReadRow : ∃ (s : State) (m : Master) (lvl : Fin 4) (k : Fin 8), Reached s m lvl (.eth k) 0x044 none :=
  ⟨{}, .scu, 2, 7, by decide +kernel⟩

theorem wit_EthRxdropReadRow : ∃ (s : State) (m : Master) (lvl : Fin 4) (k : Fin 8), Reached s m lvl (.eth k) 0x0A4 none :=
  ⟨{}, .scu, 2, 7, by decide +kernel⟩

theorem wit_SyntNsReadRow : ∃ (s : State) (m : Master) (lvl : Fin 4) (k : Nat), Reached s m lvl .tylw 0x080 none ∧ syntLatchOf m = some k :=
  ⟨{}, .scu, 2, (syntLatchOf .scu).getD 0, by decide +kernel⟩

theorem wit_TylwStatReadRow : ∃ (s : State) (m : Master) (lvl : Fin 4), Reached s m lvl .tylw 0x044 none :=
  ⟨{}, .scu, 2, by decide +kernel⟩

theorem wit_IcStatReadRow : ∃ (s : State) (m : Master) (lvl : Fin 4), Reached s m lvl .ictl 0x048 none :=
  ⟨{}, .scu, 2, by decide +kernel⟩

theorem wit_DomDropReadRow : ∃ (s : State) (m : Master) (lvl : Fin 4) (d : Fin 64), Reached s m lvl (.dom d) 0x064 none :=
  ⟨{}, .scu, 2, 63, by decide +kernel⟩

theorem wit_WakeStatReadRow : ∃ (s : State) (m : Master) (lvl : Fin 4), Reached s m lvl .wake 0x044 none :=
  ⟨{}, .scu, 2, by decide +kernel⟩

theorem wit_RegisterReadRow : ∃ (s : State) (m : Master) (lvl : Fin 4) (p : Page) (off : Fin 0x1000) (cls : Cls), off.val % 4 = 0 ∧ Reached s m lvl p off none cls :=
  ⟨{}, .scu, 2, .pc 255, 0x040, 1, by decide +kernel⟩

theorem wit_BusyRead : ∃ (s : State) (m : Master) (lvl : Fin 4) (p : Page) (off : Fin 0x1000) (cls : Cls), off.val % 4 = 0 ∧ 0x040 ≤ off.val ∧ clocksOn s = true ∧ admits (.page p) m = true ∧ Enters s (regReq s m lvl cls (pageAddr p + off) true none) ∧ ownerFails s (regReq s m lvl cls (pageAddr p + off) true none) p = false ∧ pageAsleep s p = false ∧ blkBusy (pageNow s p) p = true :=
  ⟨wrB {} (.pc 255) 0x00C 3 true, .scu, 2, .pc 255, 0x040, 1, by decide +kernel⟩

theorem wit_IrqSetRow : ∃ (s : State) (m : Master) (lvl : Fin 4) (p : Page) (v : Reg32), Accepted s m lvl p 0x018 v {} :=
  ⟨{}, .scu, 2, .nce 511, 0, by decide +kernel⟩

theorem wit_BlkLockRow : ∃ (s : State) (m : Master) (lvl : Fin 4) (p : Page), Accepted s m lvl p 0x008 (rd s p 0x008 ||| 8) {} :=
  ⟨{}, .scu, 2, .nce 511, by decide +kernel⟩

theorem wit_BlkSoftResetRow : ∃ (s : State) (m : Master) (lvl : Fin 4) (p : Page), Accepted s m lvl p 0x008 (rd s p 0x008 ||| 2) {} :=
  ⟨{}, .scu, 2, .nce 511, by decide +kernel⟩

theorem wit_OwnerBindRow : ∃ (s : State) (m : Master) (lvl : Fin 4) (p : Page) (d : Fin 64), Accepted s m lvl p 0x030 (BitVec.ofNat 32 d) {} :=
  ⟨{}, .scu, 2, .pc 255, 0, by decide +kernel⟩

theorem wit_FerrPopRow : ∃ (s : State) (m : Master) (lvl : Fin 4), Accepted s m lvl .ferr 0x044 1 {} :=
  ⟨{}, .scu, 2, by decide +kernel⟩

theorem wit_ClkWreqWriteRow : ∃ (s : State) (m : Master) (lvl : Fin 4) (v : Reg32), Accepted s m lvl .ckrs 0x044 v {} :=
  ⟨{}, .scu, 2, 0, by decide +kernel⟩

theorem wit_RstReqRow : ∃ (s : State) (m : Master) (lvl : Fin 4) (key : BitVec 16), Accepted s m lvl .ckrs 0x054 (BitVec.ofNat 32 key.toNat) {} :=
  ⟨{}, .scu, 2, 0xC3A5, by decide +kernel⟩

theorem wit_PmuClrRow : ∃ (s : State) (m : Master) (lvl : Fin 4) (n : Fin 24), Accepted s m lvl (.wcc n) 0x040 (rd s (.wcc n) 0x040 ||| 2) {} :=
  ⟨{}, .scu, 2, 23, by decide +kernel⟩

theorem wit_ScCleanRow : ∃ (s : State) (m : Master) (lvl : Fin 4) (incl : Bool), Accepted s m lvl .scac 0x040 (BitVec.ofNat 32 (1 + 16 * (incl).toNat + 2 ^ 8 * (0) + 2 ^ 16 * (0))) {} :=
  ⟨{}, .scu, 2, true, by decide +kernel⟩

theorem wit_ScInvRow : ∃ (s : State) (m : Master) (lvl : Fin 4) (incl : Bool), Accepted s m lvl .scac 0x040 (BitVec.ofNat 32 (2 + 16 * (incl).toNat + 2 ^ 8 * (0) + 2 ^ 16 * (0))) {} :=
  ⟨{}, .scu, 2, true, by decide +kernel⟩

theorem wit_ScCleanInvRow : ∃ (s : State) (m : Master) (lvl : Fin 4) (incl : Bool), Accepted s m lvl .scac 0x040 (BitVec.ofNat 32 (3 + 16 * (incl).toNat + 2 ^ 8 * (0) + 2 ^ 16 * (0))) {} :=
  ⟨{}, .scu, 2, true, by decide +kernel⟩

theorem wit_ScPreloadRow : ∃ (s : State) (m : Master) (lvl : Fin 4) (part : Fin 16), Accepted s m lvl .scac 0x040 (BitVec.ofNat 32 (4 + 16 * (false).toNat + 2 ^ 8 * (0) + 2 ^ 16 * (part.val))) {} :=
  ⟨{}, .scu, 2, 15, by decide +kernel⟩

theorem wit_WayCleanRow : ∃ (s : State) (m : Master) (lvl : Fin 4) (way : Fin 64), Accepted s m lvl .scac 0x040 (BitVec.ofNat 32 (5 + 16 * (false).toNat + 2 ^ 8 * (way.val) + 2 ^ 16 * (0))) {} :=
  ⟨{}, .scu, 2, 47, by decide +kernel⟩

theorem wit_WayOffRow : ∃ (s : State) (m : Master) (lvl : Fin 4) (way : Fin 64), Accepted s m lvl .scac 0x040 (BitVec.ofNat 32 (6 + 16 * (false).toNat + 2 ^ 8 * (way.val) + 2 ^ 16 * (0))) {} :=
  ⟨{}, .scu, 2, 47, by decide +kernel⟩

theorem wit_WayOnRow : ∃ (s : State) (m : Master) (lvl : Fin 4) (way : Fin 64), Accepted s m lvl .scac 0x040 (BitVec.ofNat 32 (7 + 16 * (false).toNat + 2 ^ 8 * (way.val) + 2 ^ 16 * (0))) {} :=
  ⟨{}, .scu, 2, 47, by decide +kernel⟩

theorem wit_PartitionDisableRow : ∃ (s : State) (m : Master) (lvl : Fin 4) (p : Fin 16), Accepted s m lvl .scac (0x084 + 8 * p.val) (keepBits s .scac (0x084 + 8 * p.val) 0x30000) {} :=
  ⟨{}, .scu, 2, 15, by decide +kernel⟩

theorem wit_SramBankStateWriteRow : ∃ (s : State) (m : Master) (lvl : Fin 4) (i : Fin 4) (v : Reg32), Accepted s m lvl .sram (0x040 + 4 * i.val) v {} :=
  ⟨{}, .scu, 2, 3, 0, by decide +kernel⟩

theorem wit_RmapWriteRow : ∃ (s : State) (m : Master) (lvl : Fin 4) (l : Fin 32) (v : Reg32), Accepted s m lvl .rmap (0x040 + 4 * l.val) v {} :=
  ⟨{}, .scu, 2, 31, 0x31, by decide +kernel⟩

theorem wit_BankCfgWriteRow : ∃ (s : State) (m : Master) (lvl : Fin 4) (b : Fin 16) (v : Reg32), Accepted s m lvl (.pb b) 0x040 v {} :=
  ⟨{}, .scu, 2, 15, 0, by decide +kernel⟩

theorem wit_ForceSafeRow : ∃ (s : State) (m : Master) (lvl : Fin 4) (b : Fin 16), Accepted s m lvl (.pb b) 0x040 (rd s (.pb b) 0x040 ||| 4) {} :=
  ⟨{}, .scu, 2, 15, by decide +kernel⟩

theorem wit_CellCtrlWriteRow : ∃ (s : State) (m : Master) (lvl : Fin 4) (n : Fin 256) (v : Reg32), Accepted s m lvl (.pc n) 0x040 v {} :=
  ⟨{}, .scu, 2, 255, 0, by decide +kernel⟩

theorem wit_LaneClaimRow : ∃ (s : State) (m : Master) (lvl : Fin 4) (x : LaneFn) (v : Reg32), Accepted s m lvl (laneFnPage x) 0x040 (v ||| 1) {} :=
  ⟨{}, .scu, 2, .eth 7, 0, by decide +kernel⟩

theorem wit_LaneReleaseRow : ∃ (s : State) (m : Master) (lvl : Fin 4) (x : LaneFn), Accepted s m lvl (laneFnPage x) 0x040 (keepBits s (laneFnPage x) 0x040 1) {} :=
  ⟨{}, .scu, 2, .eth 7, by decide +kernel⟩

theorem wit_GclGoRow : ∃ (s : State) (m : Master) (lvl : Fin 4) (k : Fin 8) (env : MemEnv), Accepted s m lvl (.eth k) 0x0A0 (rd s (.eth k) 0x0A0 ||| BitVec.ofNat 32 1) env :=
  ⟨{}, .scu, 2, 7, {}, by decide +kernel⟩

theorem wit_CbLoadRow : ∃ (s : State) (m : Master) (lvl : Fin 4) (k : Fin 8) (env : MemEnv), Accepted s m lvl (.eth k) 0x0A0 (rd s (.eth k) 0x0A0 ||| BitVec.ofNat 32 2) env :=
  ⟨{}, .scu, 2, 7, {}, by decide +kernel⟩

theorem wit_SyntStepRow : ∃ (s : State) (m : Master) (lvl : Fin 4) (v : Reg32), Accepted s m lvl .tylw 0x08C v {} :=
  ⟨{}, .scu, 2, 0, by decide +kernel⟩

theorem wit_TylAcceptRow : ∃ (s : State) (m : Master) (lvl : Fin 4), Accepted s m lvl .tylw 0x040 (rd s .tylw 0x040 ||| 0x10) {} :=
  ⟨{}, .scu, 2, by decide +kernel⟩

theorem wit_SgiRow : ∃ (s : State) (m : Master) (lvl : Fin 4) (n : Fin 24) (v : BitVec 8), Accepted s m lvl (.icp n) 0x04C (BitVec.ofNat 32 v.toNat) {} :=
  ⟨{}, .scu, 2, 23, 0xC8, by decide +kernel⟩

theorem wit_IcpTcmpArmRow : ∃ (s : State) (m : Master) (lvl : Fin 4) (n : Fin 24) (v : Reg32), Accepted s m lvl (.icp n) 0x054 v {} :=
  ⟨{}, .scu, 2, 23, 0, by decide +kernel⟩

theorem wit_IcpTcmpDisarmRow : ∃ (s : State) (m : Master) (lvl : Fin 4) (n : Fin 24) (v : Reg32), Accepted s m lvl (.icp n) 0x050 v {} :=
  ⟨{}, .scu, 2, 23, 0, by decide +kernel⟩

theorem wit_DomCreateRow : ∃ (s : State) (m : Master) (lvl : Fin 4) (d : Fin 64), Accepted s m lvl (.dom d) 0x040 (BitVec.ofNat 32 1) {} :=
  ⟨{}, .scu, 2, 63, by decide +kernel⟩

theorem wit_DomResetRow : ∃ (s : State) (m : Master) (lvl : Fin 4) (d : Fin 64), Accepted s m lvl (.dom d) 0x040 (BitVec.ofNat 32 2) {} :=
  ⟨wrF {} (.dom 63) 0x044 0 2 2, .scu, 2, 63, by decide +kernel⟩

theorem wit_DomStartRow : ∃ (s : State) (m : Master) (lvl : Fin 4) (d : Fin 64), Accepted s m lvl (.dom d) 0x040 (BitVec.ofNat 32 3) {} :=
  ⟨wrF {} (.dom 63) 0x044 0 2 1, .scu, 2, 63, by decide +kernel⟩

theorem wit_DomDestroyRow : ∃ (s : State) (m : Master) (lvl : Fin 4) (d : Fin 64), Accepted s m lvl (.dom d) 0x040 (BitVec.ofNat 32 4) {} :=
  ⟨wrF {} (.dom 63) 0x044 0 2 1, .scu, 2, 63, by decide +kernel⟩

theorem wit_MariNapRow : ∃ (s : State) (m : Master) (lvl : Fin 4) (w : BitVec 3), Accepted s m lvl .mari 0x040 (BitVec.ofNat 32 (1 + 16 * w.toNat)) {} :=
  ⟨{}, .scu, 2, 1, by decide +kernel⟩

theorem wit_MariStandbyRow : ∃ (s : State) (m : Master) (lvl : Fin 4), Accepted s m lvl .mari 0x040 (BitVec.ofNat 32 (2 + 16 * (0 : BitVec 3).toNat)) {} :=
  ⟨wrB {} .wake 0x040 7 true, .scu, 2, by decide +kernel⟩

theorem wit_MariParkRow : ∃ (s : State) (m : Master) (lvl : Fin 4), Accepted s m lvl .mari 0x040 (BitVec.ofNat 32 (3 + 16 * (0 : BitVec 3).toNat)) {} :=
  ⟨wrB {} .wake 0x040 7 true, .scu, 2, by decide +kernel⟩

theorem wit_MariOffRow : ∃ (s : State) (m : Master) (lvl : Fin 4), Accepted s m lvl .mari 0x040 (BitVec.ofNat 32 (4 + 16 * (0 : BitVec 3).toNat)) {} :=
  ⟨wrB {} .wake 0x040 7 true, .scu, 2, by decide +kernel⟩

theorem wit_FltAckRow : ∃ (s : State) (m : Master) (lvl : Fin 4) (key : BitVec 16), Accepted s m lvl .flts 0x044 (BitVec.ofNat 32 key.toNat) {} :=
  ⟨{}, .scu, 2, 0x5AF3, by decide +kernel⟩

theorem wit_WdKickRow : ∃ (s : State) (m : Master) (lvl : Fin 4) (k : Fin 8) (key : BitVec 8), Accepted s m lvl .flts (0x064 + 8 * k.val) (BitVec.ofNat 32 key.toNat) {} :=
  ⟨{}, .scu, 2, 7, 0xC8, by decide +kernel⟩

theorem wit_WdCfgWriteRow : ∃ (s : State) (m : Master) (lvl : Fin 4) (k : Fin 8) (v : Reg32), Accepted s m lvl .flts (0x060 + 8 * k.val) v {} :=
  ⟨{}, .scu, 2, 7, 0, by decide +kernel⟩

theorem wit_FltLogPopRow : ∃ (s : State) (m : Master) (lvl : Fin 4), Accepted s m lvl .flts 0x0A4 1 {} :=
  ⟨{}, .scu, 2, by decide +kernel⟩

theorem wit_BistStartRow : ∃ (s : State) (m : Master) (lvl : Fin 4) (v : Reg32) (env : MemEnv), Accepted s m lvl .bist 0x040 v env :=
  ⟨{}, .scu, 2, 1, {}, by decide +kernel⟩

theorem wit_RegisterWriteRow : ∃ (s : State) (m : Master) (lvl : Fin 4) (p : Page) (off : Fin 0x1000) (v : Reg32) (env : MemEnv), off.val % 4 = 0 ∧ (regInfo p off).isSome = true ∧ Accepted s m lvl p off v env :=
  ⟨{}, .scu, 2, .pc 255, 0x044, 5, {}, by decide +kernel⟩

theorem wit_ThreadControlRow : ∃ (s : State) (m : Master) (lvl : Fin 4) (e : Fin 512) (t : Fin 4), Accepted s m lvl (.nce e) (0x040 + 16 * t.val) 1 {} ∧ Accepted s m lvl (.nce e) (0x040 + 16 * t.val) 2 {} ∧ Accepted s m lvl (.nce e) (0x040 + 16 * t.val) 4 {} :=
  ⟨{}, .scu, 2, 511, 3, by decide +kernel⟩

theorem wit_MoverRow : ∃ (s : State) (m : Master) (lvl : Fin 4) (e : Fin 512) (x : Fin 256) (f : Findings), Accepted s m lvl (.ncm x) 0x058 1 { words := f } ∧ Accepted s m lvl (.ncm x) 0x058 2 { words := [] } ∧ clusterOf e = movCluster x ∧ mvForeign s e x = false :=
  ⟨{}, .scu, 2, 511, 255, [], by decide +kernel⟩

theorem wit_EffSlices : ∃ (s : State) (q : RegReq) (p : Page) (v : Reg32), bindable p = true :=
  ⟨{}, regReq {} .scu 2 1 0x10000000 true none, .pc 255, 2, by decide +kernel⟩

theorem wit_EffSysCache : ∃ (s : State) (q : RegReq) (v : Reg32) (i : Fin 16), fld v 0 4 ≠ 0 :=
  ⟨{}, regReq {} .scu 2 1 0x10000000 true none, 1, 15, by decide +kernel⟩

theorem wit_EffPerformance : ∃ (s : State) (q : RegReq) (n : Fin 24) (v : Reg32) (i : Fin 6), bit v 1 = true :=
  ⟨{}, regReq {} .scu 2 1 0x10000000 true none, 23, 2, 5, by decide +kernel⟩

theorem wit_PlainStore : ∃ (s : State) (p : Page) (off : Nat) (v : Reg32) (r : RegInfo) (i : Nat), regInfo p off = some r ∧ i < 32 ∧ r.w1c &&& r.w1s = 0 ∧ (r.rw ||| r.rwh) &&& (r.w1c ||| r.w1s) = 0 :=
  ⟨{}, .pc 255, 0x044, 5, ((regInfo (.pc 255) 0x044).getD { off := 0 }), 3, by decide +kernel⟩

theorem wit_LineFollows : ∃ (s : State) (p : Page) (f : State → State) (k : Nat), sourceOf p = some k :=
  ⟨{}, .supv, id, (sourceOf .supv).get!, by decide +kernel⟩

theorem wit_BridgeMaster : ∃ (s : State) (m : Master) (lvl : Fin 4) (p : Page) (off : Fin 0x1000) (d : Option Reg32) (single : Bool) (cls : Cls),
    let q := regReq s m lvl cls (pageAddr p + off) single d
    clocksOn s = true ∧ (off.val % 4 = 0 ∨ admits (.page p) m = false ∨ single = false) ∧ (admits (.page p) m = false ∨ gated s q.attr.did = true ∨ ((single = false ∨ ownerFails s q p = true) ∧ Enters s q)) :=
  ⟨{}, .engine 511, 2, .pc 255, 0x044, some 5, true, 1, by decide +kernel⟩

theorem wit_BridgeAsleep : ∃ (s : State) (m : Master) (lvl : Fin 4) (p : Page) (off : Fin 0x1000) (d : Option Reg32) (cls : Cls),
    let q := regReq s m lvl cls (pageAddr p + off) true d
    clocksOn s = true ∧ (off.val % 4 = 0 ∧ 0x040 ≤ off.val) ∧ admits (.page p) m = true ∧ Enters s q ∧ ownerFails s q p = false ∧ pageAsleep s p = true :=
  ⟨wrB {} .mari 0x044 20 true, .scu, 2, .wcc 0, 0x044, some 5, 1, by decide +kernel⟩

theorem wit_BridgeReject : ∃ (s : State) (m : Master) (lvl : Fin 4) (p : Page) (off : Fin 0x1000) (v : Reg32) (c : Nat), off.val % 4 = 0 ∧ (regInfo p off).isSome = true ∧ clocksOn s = true ∧ admits (.page p) m = true ∧ Enters s (wq s m lvl p off v) ∧ ownerFails s (wq s m lvl p off v) p = false ∧ (decide (0x040 ≤ off.val) && pageAsleep s p) = false ∧ writeReject (pageNow s p) (wq s m lvl p off v) p off v = some c :=
  ⟨{}, .scu, 2, .supv, 0x008, 2, 1, by decide +kernel⟩

theorem wit_BridgeHole : ∃ (s : State) (m : Master) (lvl : Fin 4) (p : Page) (off : Fin 0x1000) (d : Option Reg32) (cls : Cls), off.val % 4 = 0 ∧ Reached s m lvl p off d cls ∧ (regInfo p off).isSome = false :=
  ⟨{}, .scu, 2, .pc 255, 0xFFC, some 5, 1, by decide +kernel⟩

theorem wit_BridgeStopped : ∃ (s : State) (m : Master) (lvl : Fin 4) (a : BitVec 48) (single : Bool) (v : Reg32) (cls : Cls) (env : MemEnv), clocksOn s = false :=
  ⟨{ mari := { asleep := 2 } }, .scu, 2, 0, true, 5, 1, {}, by decide +kernel⟩

theorem wit_AutoWakeDone : ∃ (s : State) (t : State) (q : RegReq) (p : Page) (r : Resp) (env : MemEnv), (s.fab.stalled.find? fun q => q.inside && !reqAsleep s q) = some q ∧ pageOfAddr q.addr = some p ∧ serveReg (dropStalled s q) q p env = (t, some r) :=
  ⟨{ fab := { stalled := [{ regReq {} .scu 2 1 (pageAddr .supv + 0x010) true none with inside := true }] } }, (serveReg (dropStalled { fab := { stalled := [{ regReq {} .scu 2 1 (pageAddr .supv + 0x010) true none with inside := true }] } } ({ regReq {} .scu 2 1 (pageAddr .supv + 0x010) true none with inside := true })) ({ regReq {} .scu 2 1 (pageAddr .supv + 0x010) true none with inside := true }) .supv {}).1, { regReq {} .scu 2 1 (pageAddr .supv + 0x010) true none with inside := true }, .supv, {}, {}, by decide +kernel⟩

theorem wit_AutoWakeTimeout : ∃ (s : State) (q : RegReq) (p : Page), (s.fab.stalled.find? fun q => q.inside && reqAsleep s q) = some q ∧ pageOfAddr q.addr = some p :=
  ⟨wrB { fab := { stalled := [{ regReq {} .scu 2 1 (pageAddr (.wcc 0) + 0x044) true none with inside := true }] } } .mari 0x044 20 true, { regReq {} .scu 2 1 (pageAddr (.wcc 0) + 0x044) true none with inside := true }, .wcc 0, by decide +kernel⟩

theorem wit_SoftResetDone : ∃ (s : State) (p : Page), clocksOn s = true ∧ blkBusy s p = true ∧ s.fab.lost.contains (pageAddr p) = false ∧ outstanding s p = false :=
  ⟨wrB {} (.pc 255) 0x00C 3 true, .pc 255, by decide +kernel⟩

theorem wit_SrstTimeout : ∃ (s : State) (p : Page), clocksOn s = true ∧ blkBusy s p = true ∧ s.fab.lost.contains (pageAddr p) = false ∧ outstanding s p = true :=
  ⟨{ wrB {} (.nce 511) 0x00C 3 true with fab := { txns := [{ id := 1, req := { master := .engine 511, op := .read, addr := 0, len := 4, be := 15, data := 0, cls := 0, pid := 0 }, attr := {}, lvl := 0, purp := .frd 0 7, status := .refused }] } }, .nce 511, by decide +kernel⟩

theorem wit_ContFault : ∃ (s : State) (u : State) (m : FaultMsg), s.sage.phase = .done ∧ clocksOn s = true ∧ takeFault s false = some (m, u) :=
  ⟨{ sage := { phase := .done }, faultQ := [{ page := .supv, code := 0x82, cls := 1, attr := { did := 3, gen := 1, cls := 1 }, detail := 7, did := 3 }] }, (((takeFault ({ sage := { phase := .done }, faultQ := [{ page := .supv, code := 0x82, cls := 1, attr := { did := 3, gen := 1, cls := 1 }, detail := 7, did := 3 }] }) false).map (·.2)).getD {}), (((takeFault ({ sage := { phase := .done }, faultQ := [{ page := .supv, code := 0x82, cls := 1, attr := { did := 3, gen := 1, cls := 1 }, detail := 7, did := 3 }] }) false).map (·.1)).getD ({ page := .supv, code := 0x82, cls := 1, attr := { did := 3, gen := 1, cls := 1 }, detail := 7, did := 3 })), by decide +kernel⟩

theorem wit_FatFault : ∃ (s : State) (u : State) (m : FaultMsg), takeFault s true = some (m, u) :=
  ⟨{ sage := { phase := .done }, faultQ := [{ page := .supv, code := 0x82, cls := 2, attr := { did := 3, gen := 1, cls := 1 }, detail := 7, did := 3 }] }, (((takeFault ({ sage := { phase := .done }, faultQ := [{ page := .supv, code := 0x82, cls := 2, attr := { did := 3, gen := 1, cls := 1 }, detail := 7, did := 3 }] }) true).map (·.2)).getD {}), (((takeFault ({ sage := { phase := .done }, faultQ := [{ page := .supv, code := 0x82, cls := 2, attr := { did := 3, gen := 1, cls := 1 }, detail := 7, did := 3 }] }) true).map (·.1)).getD ({ page := .supv, code := 0x82, cls := 2, attr := { did := 3, gen := 1, cls := 1 }, detail := 7, did := 3 })), by decide +kernel⟩

theorem wit_OldestFault : ∃ (s : State) (u : State) (b : Bool) (m : FaultMsg), takeFault s b = some (m, u) :=
  ⟨{ sage := { phase := .done }, faultQ := [{ page := .supv, code := 0x82, cls := 2, attr := { did := 3, gen := 1, cls := 1 }, detail := 7, did := 3 }] }, (((takeFault ({ sage := { phase := .done }, faultQ := [{ page := .supv, code := 0x82, cls := 2, attr := { did := 3, gen := 1, cls := 1 }, detail := 7, did := 3 }] }) true).map (·.2)).getD {}), true, (((takeFault ({ sage := { phase := .done }, faultQ := [{ page := .supv, code := 0x82, cls := 2, attr := { did := 3, gen := 1, cls := 1 }, detail := 7, did := 3 }] }) true).map (·.1)).getD ({ page := .supv, code := 0x82, cls := 2, attr := { did := 3, gen := 1, cls := 1 }, detail := 7, did := 3 })), by decide +kernel⟩

theorem wit_HoldExpire : ∃ (s : State) (same : Bool), (rdB s .flts 0x040 2 = true ∨ (same = true ∧ s.pwr.live.contains 7 = true)) :=
  ⟨wrB {} .flts 0x040 2 true, false, by decide +kernel⟩

theorem wit_ScuWatchdog : ∃ (s : State) (same : Bool), ((s.sage.phase = .done ∧ clocksOn s = true) ∨ (same = true ∧ s.pwr.live.contains 8 = true)) :=
  ⟨{ sage := { phase := .done } }, false, by decide +kernel⟩

theorem wit_WdExpire : ∃ (s : State) (k : Fin 8), (SMap.get {} s.wdogs k).running = true ∧ clocksOn s = true :=
  ⟨{ wdogs := [(7, { running := true, deadline := 9 })] }, 7, by decide +kernel⟩

theorem wit_TapReset : ∃ (s : State), tapOn s = true :=
  ⟨{}, by decide +kernel⟩

theorem wit_ExtestRow : ∃ (s : State), tapOn s = true :=
  ⟨{}, by decide +kernel⟩

theorem wit_SamplePreloadRow : ∃ (s : State) (lands : List Bool) (load : List Bool), tapOn s = true :=
  ⟨{}, [true, false, true], [true], by decide +kernel⟩

theorem wit_IdcodeRow : ∃ (s : State), tapOn s = true :=
  ⟨{}, by decide +kernel⟩

theorem wit_ClampRow : ∃ (s : State), tapOn s = true :=
  ⟨{}, by decide +kernel⟩

theorem wit_HighzRow : ∃ (s : State), tapOn s = true :=
  ⟨{}, by decide +kernel⟩

theorem wit_MemApRow : ∃ (s : State), tapOn s = true :=
  ⟨{}, by decide +kernel⟩

theorem wit_ScuApRow : ∃ (s : State), tapOn s = true :=
  ⟨{}, by decide +kernel⟩

theorem wit_BistReadRow : ∃ (s : State) (i : Fin 8), tapOn s = true :=
  ⟨{}, 7, by decide +kernel⟩

theorem wit_BypassRow : ∃ (s : State), tapOn s = true :=
  ⟨{}, by decide +kernel⟩

theorem wit_BistEnd : ∃ (s : State) (b : BistRun) (misr : BitVec 64) (fails : BitVec 15) (addr : BitVec 48), s.bist = some b ∧ clocksOn s = true :=
  ⟨{ bist := some { typ := 6, index := 17, kind := 1 } }, { typ := 6, index := 17, kind := 1 }, 5, 0, 0xFFFFFFFFFFFF, by decide +kernel⟩

theorem wit_BistVerdict : ∃ (s : State) (g : BitVec 64) (v : Machine.BistEnd), s.verdict = some v ∧ s.sage.phase = .done ∧ clocksOn s = true :=
  ⟨{ sage := { phase := .done }, verdict := some { run := { typ := 3, index := 0, kind := 0 }, fails := 0, misr := 5 } }, 5, { run := { typ := 3, index := 0, kind := 0 }, fails := 0, misr := 5 }, by decide +kernel⟩

theorem wit_TylAck : ∃ (s : State) (seq : BitVec 8) (a : List Flit) (b : List Flit) (x : Flit), tylState s ≠ 0 ∧ tylCarries s = true ∧ splitSeq s.tyl.replay seq.toNat = (a, x :: b) :=
  ⟨wrB (wrF { tyl := { replay := [{ typ := 5, dst := 1, seq := 9, load := [] }] } } .tylw 0x044 0 2 2) (lnPage 28) 0x044 6 false, 9, [], [], { typ := 5, dst := 1, seq := 9, load := [] }, by decide +kernel⟩

theorem wit_TylAckNone : ∃ (s : State) (seq : BitVec 8) (nak : Bool), (s.tyl.replay.all fun x => decide (x.seq ≠ seq.toNat)) = true :=
  ⟨wrF {} .tylw 0x044 0 2 2, 9, true, by decide +kernel⟩

theorem wit_FlitReplay : ∃ (s : State), tylState s ≠ 0 ∧ s.tyl.replay ≠ [] ∧ tylCarries s = true :=
  ⟨wrB (wrF { tyl := { replay := [{ typ := 5, dst := 1, seq := 9, load := [] }] } } .tylw 0x044 0 2 2) (lnPage 28) 0x044 6 false, by decide +kernel⟩

theorem wit_TylReserved : ∃ (s : State), tylState s ≠ 0 ∧ tylCarries s = true :=
  ⟨wrB (wrF {} .tylw 0x044 0 2 2) (lnPage 28) 0x044 6 false, by decide +kernel⟩

theorem wit_TylCap : ∃ (s : State) (m : Fin 16) (ident : BitVec 32) (lo : BitVec 8) (hi : BitVec 8), tylState s = 1 ∧ m ≠ 0 ∧ tylCarries s = true :=
  ⟨wrB (wrF {} .tylw 0x044 0 2 1) (lnPage 28) 0x044 6 false, 15, 5, 1, 2, by decide +kernel⟩

theorem wit_TylEnum : ∃ (s : State) (n : Fin 16), tylState s = 1 ∧ tylCarries s = true :=
  ⟨wrB (wrF {} .tylw 0x044 0 2 1) (lnPage 28) 0x044 6 false, 15, by decide +kernel⟩

theorem wit_TylwenUp : ∃ (s : State) (width : Fin 3) (prop : List (Fin 4096)), rdB s .tylw 0x040 0 = true ∧ tylState s = 1 ∧ width.val ≤ rdF s .tylw 0x040 1 2 ∧ clocksOn s = true ∧ lanesCarry s 28 (2 ^ width.val) = true :=
  ⟨(List.range 4).foldl (fun s i => wrB s (lnPage (28 + i)) 0x044 6 false) (wrF (wrF {} .tylw 0x040 0 3 5) .tylw 0x044 0 2 1), 2, [7], by decide +kernel⟩

theorem wit_TylTime : ∃ (s : State), tylState s = 2 ∧ clocksOn s = true :=
  ⟨wrF {} .tylw 0x044 0 2 2, by decide +kernel⟩

theorem wit_LinkLoss : ∃ (s : State), tylState s = 2 ∧ clocksOn s = true :=
  ⟨wrF {} .tylw 0x044 0 2 2, by decide +kernel⟩

theorem wit_Retrain : ∃ (s : State), tylState s = 0 ∧ rdB s .tylw 0x040 0 = true ∧ rdB s .tylw 0x040 3 = true ∧ clocksOn s = true :=
  ⟨wrF {} .tylw 0x040 0 4 9, by decide +kernel⟩

theorem wit_TylPwr : ∃ (s : State) (e : Fin 512) (n : Fin 6) (w : Nat × Nat × Word18) (ws : List (Nat × Nat × Word18)), SMap.get [] s.tyl.rwq e = w :: ws ∧ tylState s = 2 ∧ clocksOn s = true ∧ s.tyl.replay.length < 128 :=
  ⟨wrF { tyl := { rwq := [(511, [(5, 1, 7)])] } } .tylw 0x044 0 2 2, 511, 5, (5, 1, 7), [], by decide +kernel⟩

theorem wit_TylPrdReq : ∃ (s : State) (id : Nat) (x : RmPrd), (s.tyl.prds.find? fun x => x.id = id && !x.sent) = some x ∧ tylState s = 2 ∧ clocksOn s = true ∧ s.tyl.replay.length < 128 :=
  ⟨wrF { tyl := { prds := [{ id := 3, e := 511, t := 3, cell := 5, word := 1 }] } } .tylw 0x044 0 2 2, 3, { id := 3, e := 511, t := 3, cell := 5, word := 1 }, by decide +kernel⟩

theorem wit_TylPrdRsp : ∃ (s : State) (id : Nat) (v : Word18) (x : RmPrd), (s.tyl.prds.find? fun x => x.id = id && x.sent) = some x ∧ tylState s = 2 :=
  ⟨wrF { tyl := { prds := [{ id := 3, e := 511, t := 3, cell := 5, word := 1, sent := true }] } } .tylw 0x044 0 2 2, 3, 7, { id := 3, e := 511, t := 3, cell := 5, word := 1, sent := true }, by decide +kernel⟩

theorem wit_TylEvt : ∃ (s : State) (l : List (Fin 16 × Fin 16 × Fin 16 × Bool)), tylState s = 2 ∧ clocksOn s = true :=
  ⟨wrF {} .tylw 0x044 0 2 2, [(1, 2, 3, true)], by decide +kernel⟩

theorem wit_TylRegReq : ∃ (s : State) (id : Nat) (x : TylReg), tylReg? s id = some x ∧ x.sent = false ∧ tylState s = 2 ∧ clocksOn s = true ∧ s.tyl.replay.length < 128 :=
  ⟨wrF { tyl := { regs := [{ id := 4, req := regReq {} .scu 2 1 0x18200040 true none }] } } .tylw 0x044 0 2 2, 4, { id := 4, req := regReq {} .scu 2 1 0x18200040 true none }, by decide +kernel⟩

theorem wit_TylRegRsp : ∃ (s : State) (id : Nat) (x : TylReg) (kind : Fin 9) (data : Reg32), tylReg? s id = some x ∧ x.sent = true ∧ tylState s = 2 :=
  ⟨wrF { tyl := { regs := [{ id := 4, req := regReq {} .scu 2 1 0x18200040 true none, sent := true }] } } .tylw 0x044 0 2 2, 4, { id := 4, req := regReq {} .scu 2 1 0x18200040 true none, sent := true }, 8, 7, by decide +kernel⟩

theorem wit_RegTimeout : ∃ (s : State) (id : Nat) (x : TylReg), tylReg? s id = some x :=
  ⟨wrF { tyl := { regs := [{ id := 4, req := regReq {} .scu 2 1 0x18200040 true none }] } } .tylw 0x044 0 2 2, 4, { id := 4, req := regReq {} .scu 2 1 0x18200040 true none }, by decide +kernel⟩

theorem wit_MemReq : ∃ (s : State) (m : Fin 16) (tag : BitVec 8) (op : BitVec 8) (len : BitVec 8) (b7 : BitVec 8) (addr : BitVec 48) (data : BitVec 256) (z : Bool), tylState s = 2 ∧ clocksOn s = true ∧ m ≠ 0 ∧ m.val ≤ tylMembers s :=
  ⟨wrF (wrF {} .tylw 0x044 4 4 15) .tylw 0x044 0 2 2, 15, 1, 1, 32, 0, 0x0100003F, 5, true, by decide +kernel⟩

theorem wit_MemRsp : ∃ (s : State) (m : Fin 16) (tag : Fin 16) (x : TylMem), (s.tyl.mems.find? fun x => x.member = m.val && x.tag = tag.val && x.ids.isEmpty) = some x ∧ tylState s = 2 ∧ clocksOn s = true ∧ s.tyl.replay.length < 128 :=
  ⟨wrF { tyl := { mems := [{ member := 1, tag := 2, isW := false, len := 4, addr := 0, ids := [] }] } } .tylw 0x044 0 2 2, 1, 2, { member := 1, tag := 2, isW := false, len := 4, addr := 0, ids := [] }, by decide +kernel⟩

theorem wit_PcieLinkUp : ∃ (s : State) (c : Fin 4) (w : Fin 4) (g : Fin 8), rdB s (.pce c) 0x040 0 = true ∧ pceLink s c = 1 ∧ clocksOn s = true ∧ w.val ≤ rdF s (.pce c) 0x040 2 2 ∧ 1 ≤ g.val ∧ g.val ≤ rdF s (.pce c) 0x040 4 3 ∧ lanesCarry s (8 * c.val) (2 ^ w.val) = true :=
  ⟨(List.range 8).foldl (fun s i => wrB s (lnPage (24 + i)) 0x044 6 false) (wrF (wr {} (.pce 3) 0x040 0x5D) (.pce 3) 0x044 0 2 1), 3, 3, 5, by decide +kernel⟩

theorem wit_PcieLinkDown : ∃ (s : State) (c : Fin 4), pceLink s c = 2 :=
  ⟨wrF (wrB {} (.pce 3) 0x040 0 true) (.pce 3) 0x044 0 2 2, 3, by decide +kernel⟩

theorem wit_PcieOutReads : ∃ (s : State) (c : Fin 4) (id : Nat) (off : Nat) (t : Txn), txn? s id = some t ∧ outOff s t.req.addr = some (c, off) ∧ t.status = .transit ∧ behindSource s t = false ∧ pceLink s c = 2 ∧ (isEcam s c off && decide (off - 0x3F0000000 < 0x1000)) = false ∧ (t.req.op ≠ .write ∨ isEcam s c off = true) :=
  ⟨(wrF (wrB { fab := { txns := [{ id := 7, req := { master := .core 0, op := .read, addr := 0x1C00000010, len := 4, be := 15, data := 5, cls := 1, pid := 0 }, attr := {}, lvl := 0, purp := .plain, status := .transit }] } } (.pce 3) 0x040 0 true) (.pce 3) 0x044 0 2 2), 3, 7, 16, { id := 7, req := { master := .core 0, op := .read, addr := 0x1C00000010, len := 4, be := 15, data := 5, cls := 1, pid := 0 }, attr := {}, lvl := 0, purp := .plain, status := .transit }, by decide +kernel⟩

theorem wit_PcieOutWrites : ∃ (s : State) (c : Fin 4) (id : Nat) (off : Nat) (t : Txn), txn? s id = some t ∧ outOff s t.req.addr = some (c, off) ∧ t.status = .transit ∧ behindSource s t = false ∧ pceLink s c = 2 ∧ isEcam s c off = false ∧ t.req.op = .write :=
  ⟨(wrF (wrB { fab := { txns := [{ id := 7, req := { master := .core 0, op := .write, addr := 0x1C00000010, len := 4, be := 15, data := 5, cls := 1, pid := 0 }, attr := {}, lvl := 0, purp := .plain, status := .transit }] } } (.pce 3) 0x040 0 true) (.pce 3) 0x044 0 2 2), 3, 7, 16, { id := 7, req := { master := .core 0, op := .write, addr := 0x1C00000010, len := 4, be := 15, data := 5, cls := 1, pid := 0 }, attr := {}, lvl := 0, purp := .plain, status := .transit }, by decide +kernel⟩

theorem wit_PcieOutAsleep : ∃ (s : State) (c : Fin 4) (id : Nat) (off : Nat) (t : Txn), txn? s id = some t ∧ outOff s t.req.addr = some (c, off) ∧ t.status = .transit ∧ behindSource s t = false ∧ pceLink s c ≠ 2 :=
  ⟨{ fab := { txns := [{ id := 7, req := { master := .core 0, op := .write, addr := 0x1C00000010, len := 4, be := 15, data := 5, cls := 1, pid := 0 }, attr := {}, lvl := 0, purp := .plain, status := .transit }] } }, 3, 7, 16, { id := 7, req := { master := .core 0, op := .write, addr := 0x1C00000010, len := 4, be := 15, data := 5, cls := 1, pid := 0 }, attr := {}, lvl := 0, purp := .plain, status := .transit }, by decide +kernel⟩

theorem wit_PcieCompletion : ∃ (s : State) (c : Fin 4) (id : Nat) (data : Nat) (poison : Bool) (t : Txn), outWaits s c id = true ∧ txn? s id = some t :=
  ⟨{ fab := { txns := [{ id := 7, req := { master := .core 0, op := .read, addr := 0x1C00000010, len := 4, be := 15, data := 5, cls := 1, pid := 0 }, attr := {}, lvl := 0, purp := .plain, status := .transit }] }, pcies := [(3, { out := [(7, 0)] })] }, 3, 7, 9, true, { id := 7, req := { master := .core 0, op := .read, addr := 0x1C00000010, len := 4, be := 15, data := 5, cls := 1, pid := 0 }, attr := {}, lvl := 0, purp := .plain, status := .transit }, by decide +kernel⟩

theorem wit_PcieTimeout : ∃ (s : State) (c : Fin 4) (id : Nat), outWaits s c id = true :=
  ⟨{ pcies := [(3, { out := [(7, 0)] })] }, 3, 7, by decide +kernel⟩

theorem wit_PcieCplErr : ∃ (s : State) (c : Fin 4) (id : Nat) (off : Nat) (t : Txn), txn? s id = some t ∧ outOff s t.req.addr = some (c, off) :=
  ⟨{ fab := { txns := [{ id := 7, req := { master := .core 0, op := .read, addr := 0x1C00000010, len := 4, be := 15, data := 5, cls := 1, pid := 0 }, attr := {}, lvl := 0, purp := .plain, status := .transit }] } }, 3, 7, 16, { id := 7, req := { master := .core 0, op := .read, addr := 0x1C00000010, len := 4, be := 15, data := 5, cls := 1, pid := 0 }, attr := {}, lvl := 0, purp := .plain, status := .transit }, by decide +kernel⟩

theorem wit_PcieInPoison : ∃ (s : State) (c : Fin 4) (key : BitVec 16) (fn : Fin 4) (bar2 : Bool) (addr : BitVec 64) (len : Fin 4097) (data : Nat), InReach s c true len :=
  ⟨wrF (wrB {} (.pce 3) 0x040 0 true) (.pce 3) 0x044 0 2 2, 3, 9, 0, false, 0x1000, 4, 7, by decide +kernel⟩

theorem wit_PcieInMapped : ∃ (s : State) (c : Fin 4) (isW : Bool) (key : BitVec 16) (fn : Fin 4) (bar2 : Bool) (addr : BitVec 64) (len : Fin 4097) (data : Nat) (poison : Bool) (n : Nat) (b : Nat), InReach s c isW len ∧ (¬ (c = 0 ∧ bootPcie s = true ∧ s.sage.phase ≠ .done)) ∧ (isW = false ∨ poison = false) ∧ (rdB s (.pce c) 0x040 1 = true ∨ isW = false ∨ addr.toNat < 0xE0000000 ∨ 0xE0001000 ≤ addr.toNat) ∧ (rdB s (.pce c) 0x040 1 = false ∨ bar2 = false) ∧ pceMatch s c (if rdB s (.pce c) 0x040 1 then fn.val else key.toNat) = some n ∧ pceAddr s c fn addr.toNat len = some b :=
  ⟨wr (wrF (wrB {} (.pce 3) 0x040 0 true) (.pce 3) 0x044 0 2 2) (.pce 3) 0x0BC 0x41230009, 3, true, 9, 0, false, 0x1000, 100, 7, false, 15, 0x1000, by decide +kernel⟩

theorem wit_PcieInUnmapped : ∃ (s : State) (c : Fin 4) (isW : Bool) (key : BitVec 16) (fn : Fin 4) (bar2 : Bool) (addr : BitVec 64) (len : Fin 4097) (data : Nat) (poison : Bool), InReach s c isW len ∧ (¬ (c = 0 ∧ bootPcie s = true ∧ s.sage.phase ≠ .done)) ∧ (isW = false ∨ poison = false) ∧ (rdB s (.pce c) 0x040 1 = true ∨ isW = false ∨ addr.toNat < 0xE0000000 ∨ 0xE0001000 ≤ addr.toNat) ∧ (rdB s (.pce c) 0x040 1 = false ∨ bar2 = false) ∧ pceMatch s c (if rdB s (.pce c) 0x040 1 then fn.val else key.toNat) = none :=
  ⟨wrF (wrB {} (.pce 3) 0x040 0 true) (.pce 3) 0x044 0 2 2, 3, true, 9, 0, false, 0x1000, 100, 7, false, by decide +kernel⟩

theorem wit_MsiRow : ∃ (s : State) (c : Fin 4) (off : BitVec 12) (len : Fin 513) (data : Nat), rdB s (.pce c) 0x040 0 = true ∧ pceLink s c = 2 ∧ rdB s (.pce c) 0x040 1 = false ∧ clocksOn s = true ∧ blkBusy s (.pce c) = false ∧ len.val ≠ 0 :=
  ⟨wrF (wrB {} (.pce 3) 0x040 0 true) (.pce 3) 0x044 0 2 2, 3, 0xFFC, 4, 127, by decide +kernel⟩

theorem wit_EthTx : ∃ (s : State) (m : Fin 8) (stamp : BitVec 64) (env : MemEnv), ethLive s m = true ∧ stampOk s stamp.toNat = true ∧ laneNow s m = none ∧ (mac s m).rest = none :=
  ⟨wrB (wrB (wrB {} (.eth 7) 0x040 0 true) (.eth 7) 0x044 0 true) (lnPage 27) 0x044 6 false, 7, 0, {}, by decide +kernel⟩

theorem wit_EthTxServed : ∃ (s : State) (m : Fin 8) (stamp : Nat) (q : Nat) (qs : List Nat) (env : MemEnv) (u : State) (d : List Byte), repHead s m q = none ∧ classReady s m q = true ∧ busOk (ethGet s m (txDesc s m q) 16 env) = some (u, d) ∧ bitN (byteF d 10 1) 0 = true :=
  ⟨setSramByte (wr (wr (wrB (wrB {} (.eth 7) 0x040 0 true) (.eth 7) 0x044 0 true) (.eth 7) 0x048 128) (.eth 7) 0x09C 1) 0x100700A 1, 7, 5, 7, [], {}, (((busOk (ethGet (setSramByte (wr (wr (wrB (wrB {} (.eth 7) 0x040 0 true) (.eth 7) 0x044 0 true) (.eth 7) 0x048 128) (.eth 7) 0x09C 1) 0x100700A 1) 7 (txDesc (setSramByte (wr (wr (wrB (wrB {} (.eth 7) 0x040 0 true) (.eth 7) 0x044 0 true) (.eth 7) 0x048 128) (.eth 7) 0x09C 1) 0x100700A 1) 7 7) 16 {})).map (·.1)).getD {}), (((busOk (ethGet (setSramByte (wr (wr (wrB (wrB {} (.eth 7) 0x040 0 true) (.eth 7) 0x044 0 true) (.eth 7) 0x048 128) (.eth 7) 0x09C 1) 0x100700A 1) 7 (txDesc (setSramByte (wr (wr (wrB (wrB {} (.eth 7) 0x040 0 true) (.eth 7) 0x044 0 true) (.eth 7) 0x048 128) (.eth 7) 0x09C 1) 0x100700A 1) 7 7) 16 {})).map (·.2)).getD []), by decide +kernel⟩

theorem wit_EthRx : ∃ (s : State) (w : State) (m : Fin 8) (f : List Byte) (stamp : BitVec 64) (env : MemEnv), ethLive s m = true ∧ f ≠ [] ∧ stampOk s stamp.toNat = true ∧ laneTake s m f = some w :=
  ⟨wrB (wrB (wrB {} (.eth 7) 0x040 0 true) (.eth 7) 0x044 0 true) (lnPage 27) 0x044 6 false, wrB (wrB (wrB {} (.eth 7) 0x040 0 true) (.eth 7) 0x044 0 true) (lnPage 27) 0x044 6 false, 7, [1, 2, 3], 0, {}, by decide +kernel⟩

theorem wit_EthLinkChange : ∃ (s : State) (m : Fin 8) (up : Bool) (speed : Fin 8), rdB s (.eth m) 0x040 0 = true ∧ clocksOn s = true ∧ (modeSpeeds (rdF s (.eth m) 0x040 1 3)).contains speed.val = true :=
  ⟨wr {} (.eth 7) 0x040 9, 7, true, 6, by decide +kernel⟩

theorem wit_GclTakeover : ∃ (s : State) (m : Fin 8) (g : Gcl), clocksOn s = true ∧ (mac s m).pend = some g :=
  ⟨{ macs := [(7, { pend := some { base := 100, cycle := 1000, entries := [(1, 0, 300), (2, 0, 700)] }, start := 100 })] }, 7, { base := 100, cycle := 1000, entries := [(1, 0, 300), (2, 0, 700)] }, by decide +kernel⟩

theorem wit_GateEntry : ∃ (s : State) (m : Fin 8) (g : Gcl), clocksOn s = true ∧ (mac s m).gcl = some g :=
  ⟨{ macs := [(7, { gcl := some { base := 100, cycle := 1000, entries := [(1, 0, 300), (2, 0, 700)] } })] }, 7, { base := 100, cycle := 1000, entries := [(1, 0, 300), (2, 0, 700)] }, by decide +kernel⟩

theorem wit_StreamTimeout : ∃ (s : State) (i : Fin 64), (SMap.get {} s.strms i).expire ≠ 0 ∧ clocksOn s = true :=
  ⟨{ strms := [(63, { expire := 9 })] }, 63, by decide +kernel⟩

theorem wit_Preempt : ∃ (s : State) (m : Fin 8) (ok : Bool), rdF s (.eth m) 0x044 4 2 = 1 :=
  ⟨wrF {} (.eth 7) 0x044 4 2 1, 7, true, by decide +kernel⟩

theorem wit_AssertRow : ∃ (s : State) (src : Fin 2048) (m : IMsg) (l : List IMsg), takeMsg .assert src s.ic.msgs = some (m, l) ∧ clocksOn s = true :=
  ⟨{ ic := { msgs := [{ src := 2047, kind := .assert, did := 0, gen := 1 }] } }, 2047, { src := 2047, kind := .assert, did := 0, gen := 1 }, [], by decide +kernel⟩

theorem wit_EdgeRow : ∃ (s : State) (src : Fin 2048) (m : IMsg) (l : List IMsg), takeMsg .edge src s.ic.msgs = some (m, l) ∧ clocksOn s = true :=
  ⟨{ ic := { msgs := [{ src := 2047, kind := .edge, did := 0, gen := 1 }] } }, 2047, { src := 2047, kind := .edge, did := 0, gen := 1 }, [], by decide +kernel⟩

theorem wit_DeassertRow : ∃ (s : State) (src : Fin 2048) (m : IMsg) (l : List IMsg), takeMsg .deassert src s.ic.msgs = some (m, l) ∧ clocksOn s = true :=
  ⟨{ ic := { msgs := [{ src := 2047, kind := .deassert, did := 0, gen := 1 }] } }, 2047, { src := 2047, kind := .deassert, did := 0, gen := 1 }, [], by decide +kernel⟩

theorem wit_OldestMsg : ∃ (k : MsgKind) (src : Nat) (q : List IMsg) (l : List IMsg) (m : IMsg), takeMsg k src q = some (m, l) :=
  ⟨.edge, 5, [{ src := 1, kind := .assert, did := 0, gen := 0 }, { src := 5, kind := .edge, did := 0, gen := 3 }], [{ src := 1, kind := .assert, did := 0, gen := 0 }], { src := 5, kind := .edge, did := 0, gen := 3 }, by decide +kernel⟩

theorem wit_GroupRule : ∃ (s : State) (g : Nat) (fresh : Bool), g ≠ 0 :=
  ⟨{}, 15, true, by decide +kernel⟩

theorem wit_GroupHoldExpire : ∃ (s : State) (g : Fin 16), (grpRec s g).state = .holding ∧ clocksOn s = true :=
  ⟨{ ic := { grps := [(15, { state := .holding, deadline := 9 })] } }, 15, by decide +kernel⟩

theorem wit_CoreTimerMatch : ∃ (s : State) (n : Fin 24), SMap.get false s.ic.armed n = true ∧ clocksOn s = true :=
  ⟨{ ic := { armed := [(23, true)] } }, 23, by decide +kernel⟩

theorem wit_HelloRow : ∃ (s : State) (d : Fin 64) (r : ScsRun), scsRunning s d = some r ∧ r.func = 1 :=
  ⟨{ sage := { phase := .done }, doms := [(63, { svc := some ({ func := 1, seq := 9, attr := {}, lvl := 2, scu := false }) })] }, 63, { func := 1, seq := 9, attr := {}, lvl := 2, scu := false }, by decide +kernel⟩

theorem wit_InfoRow : ∃ (s : State) (d : Fin 64) (r : ScsRun), scsRunning s d = some r ∧ r.func = 2 :=
  ⟨{ sage := { phase := .done }, doms := [(63, { svc := some ({ func := 2, seq := 9, attr := {}, lvl := 2, scu := false }) })] }, 63, { func := 2, seq := 9, attr := {}, lvl := 2, scu := false }, by decide +kernel⟩

theorem wit_NoticesRow : ∃ (s : State) (d : Fin 64) (r : ScsRun), scsRunning s d = some r ∧ r.func = 3 :=
  ⟨{ sage := { phase := .done }, doms := [(63, { svc := some ({ func := 3, seq := 9, attr := {}, lvl := 2, scu := false }) })] }, 63, { func := 3, seq := 9, attr := {}, lvl := 2, scu := false }, by decide +kernel⟩

theorem wit_DramStateRow : ∃ (s : State) (d : Fin 64) (r : ScsRun), scsRunning s d = some r ∧ r.func = 16 :=
  ⟨{ sage := { phase := .done }, doms := [(63, { svc := some ({ func := 16, seq := 9, attr := {}, lvl := 2, scu := false }) })] }, 63, { func := 16, seq := 9, attr := {}, lvl := 2, scu := false }, by decide +kernel⟩

theorem wit_FuseKeyRow : ∃ (s : State) (d : Fin 64) (r : ScsRun), scsRunning s d = some r ∧ r.func = 32 :=
  ⟨{ sage := { phase := .done }, doms := [(63, { svc := some ({ func := 32, seq := 9, attr := {}, lvl := 2, scu := false }) })] }, 63, { func := 32, seq := 9, attr := {}, lvl := 2, scu := false }, by decide +kernel⟩

theorem wit_FuseRevokeRow : ∃ (s : State) (d : Fin 64) (r : ScsRun), scsRunning s d = some r ∧ r.func = 33 :=
  ⟨{ sage := { phase := .done }, doms := [(63, { svc := some ({ func := 33, seq := 9, attr := {}, lvl := 2, scu := false }) })] }, 63, { func := 33, seq := 9, attr := {}, lvl := 2, scu := false }, by decide +kernel⟩

theorem wit_FuseSecverRow : ∃ (s : State) (d : Fin 64) (r : ScsRun), scsRunning s d = some r ∧ r.func = 34 :=
  ⟨{ sage := { phase := .done }, doms := [(63, { svc := some ({ func := 34, seq := 9, attr := {}, lvl := 2, scu := false }) })] }, 63, { func := 34, seq := 9, attr := {}, lvl := 2, scu := false }, by decide +kernel⟩

theorem wit_CalReadRow : ∃ (s : State) (d : Fin 64) (r : ScsRun) (env : MemEnv), scsRunning s d = some r ∧ r.func = 48 :=
  ⟨{ sage := { phase := .done }, doms := [(63, { svc := some ({ func := 48, seq := 9, attr := {}, lvl := 2, scu := false }) })] }, 63, { func := 48, seq := 9, attr := {}, lvl := 2, scu := false }, {}, by decide +kernel⟩

theorem wit_CalWriteRow : ∃ (s : State) (d : Fin 64) (r : ScsRun) (env : MemEnv) (cut : Bool), scsRunning s d = some r ∧ r.func = 49 :=
  ⟨{ sage := { phase := .done }, doms := [(63, { svc := some ({ func := 49, seq := 9, attr := {}, lvl := 2, scu := false }) })] }, 63, { func := 49, seq := 9, attr := {}, lvl := 2, scu := false }, {}, true, by decide +kernel⟩

theorem wit_BistRunRow : ∃ (s : State) (d : Fin 64) (r : ScsRun) (env : MemEnv), scsRunning s d = some r ∧ r.func = 64 :=
  ⟨{ sage := { phase := .done }, doms := [(63, { svc := some ({ func := 64, seq := 9, attr := {}, lvl := 2, scu := false }) })] }, 63, { func := 64, seq := 9, attr := {}, lvl := 2, scu := false }, {}, by decide +kernel⟩

theorem wit_UnknownRow : ∃ (s : State) (d : Fin 64) (r : ScsRun), scsRunning s d = some r ∧ scsListed.contains r.func = false :=
  ⟨{ sage := { phase := .done }, doms := [(63, { svc := some ({ func := 5, seq := 9, attr := {}, lvl := 2, scu := false }) })] }, 63, { func := 5, seq := 9, attr := {}, lvl := 2, scu := false }, by decide +kernel⟩

theorem wit_ResponseRow : ∃ (s : State) (d : Fin 64) (r : ScsRun) (st : Nat) (l : List Nat), (SMap.get {} s.doms d).svc = some r ∧ r.done = some (st, l) :=
  ⟨{ sage := { phase := .done }, doms := [(63, { svc := some ({ func := 1, seq := 9, attr := {}, lvl := 2, scu := false, done := some (0, [2]) }) })] }, 63, { func := 1, seq := 9, attr := {}, lvl := 2, scu := false, done := some (0, [2]) }, 0, [2], by decide +kernel⟩

theorem wit_TimeoutRow : ∃ (s : State) (d : Fin 64) (r : ScsRun), (SMap.get {} s.doms d).svc = some r ∧ clocksOn s = true :=
  ⟨{ sage := { phase := .done }, doms := [(63, { svc := some ({ func := 1, seq := 9, attr := {}, lvl := 2, scu := false }) })] }, 63, { func := 1, seq := 9, attr := {}, lvl := 2, scu := false }, by decide +kernel⟩

theorem wit_DramUp : ∃ (s : State) (failed : BitVec 18), s.sage.phase = .done ∧ clocksOn s = true ∧ rdB s .dmc 0x040 0 = false ∧ rdB s .dmc 0x040 1 = false ∧ ackedLevel s 5 = 180 :=
  ⟨{ sage := { phase := .done }, pwr := { acked := [(5, 180)] } }, 3, by decide +kernel⟩

theorem wit_WLogic : ∃ (z : State) (s : State) (n : Fin 24) (fr : Front) (fe : List Nat) (d : Fin 32) (a : Fin 32) (b : Fin 32), Issues z n fr fe s :=
  ⟨(coreWith { w := [(1, 0xFFFFFFFF80000000), (2, 7)] }), (coreWith { w := [(1, 0xFFFFFFFF80000000), (2, 7)] }), 23, {}, [], 31, 1, 2, by decide +kernel⟩

theorem wit_WCompare : ∃ (z : State) (s : State) (n : Fin 24) (fr : Front) (fe : List Nat) (d : Fin 32) (a : Fin 32) (b : Fin 32), Issues z n fr fe s :=
  ⟨(coreWith { w := [(1, 0xFFFFFFFF80000000), (2, 7)] }), (coreWith { w := [(1, 0xFFFFFFFF80000000), (2, 7)] }), 23, {}, [], 31, 1, 2, by decide +kernel⟩

theorem wit_WWords : ∃ (z : State) (s : State) (n : Fin 24) (fr : Front) (fe : List Nat) (d : Fin 32) (a : Fin 32) (b : Fin 32), Issues z n fr fe s :=
  ⟨(coreWith { w := [(1, 0xFFFFFFFF80000000), (2, 7)] }), (coreWith { w := [(1, 0xFFFFFFFF80000000), (2, 7)] }), 23, {}, [], 31, 1, 2, by decide +kernel⟩

theorem wit_WCount : ∃ (z : State) (s : State) (n : Fin 24) (fr : Front) (fe : List Nat) (d : Fin 32) (a : Fin 32), Issues z n fr fe s :=
  ⟨(coreWith { w := [(1, 0xFFFFFFFF80000000), (2, 7)] }), (coreWith { w := [(1, 0xFFFFFFFF80000000), (2, 7)] }), 23, {}, [], 31, 1, by decide +kernel⟩

theorem wit_WProducts : ∃ (z : State) (s : State) (n : Fin 24) (fr : Front) (fe : List Nat) (d : Fin 32) (a : Fin 32) (b : Fin 32), Issues z n fr fe s :=
  ⟨(coreWith { w := [(1, 0xFFFFFFFF80000000), (2, 7)] }), (coreWith { w := [(1, 0xFFFFFFFF80000000), (2, 7)] }), 23, {}, [], 31, 1, 2, by decide +kernel⟩

theorem wit_WImmediates : ∃ (z : State) (s : State) (n : Fin 24) (fr : Front) (fe : List Nat) (d : Fin 32) (a : Fin 32) (imm : BitVec 16), Issues z n fr fe s :=
  ⟨(coreWith { w := [(1, 0xFFFFFFFF80000000), (2, 7)] }), (coreWith { w := [(1, 0xFFFFFFFF80000000), (2, 7)] }), 23, {}, [], 31, 1, 0x8000, by decide +kernel⟩

theorem wit_WShiftImm : ∃ (z : State) (s : State) (n : Fin 24) (fr : Front) (fe : List Nat) (d : Fin 32) (a : Fin 32) (c : Fin 64), Issues z n fr fe s :=
  ⟨(coreWith { w := [(1, 0xFFFFFFFF80000000), (2, 7)] }), (coreWith { w := [(1, 0xFFFFFFFF80000000), (2, 7)] }), 23, {}, [], 31, 1, 63, by decide +kernel⟩

theorem wit_WDivisions : ∃ (z : State) (s : State) (n : Fin 24) (fr : Front) (fe : List Nat) (d : Fin 32) (a : Fin 32) (b : Fin 32), Issues z n fr fe s :=
  ⟨(coreWith { w := [(1, 0xFFFFFFFF80000000), (2, 7)] }), (coreWith { w := [(1, 0xFFFFFFFF80000000), (2, 7)] }), 23, {}, [], 31, 1, 2, by decide +kernel⟩

theorem wit_WBoundaries : ∃ (z : State) (s : State) (n : Fin 24) (fr : Front) (fe : List Nat) (d : Fin 32) (a : Fin 32) (b : Fin 32) (k : Nat), Issues z n fr fe s :=
  ⟨(coreWith { w := [(1, 0xFFFFFFFF80000000), (2, 7)] }), (coreWith { w := [(1, 0xFFFFFFFF80000000), (2, 7)] }), 23, {}, [], 31, 1, 2, 5, by decide +kernel⟩

theorem wit_FRoundedOps : ∃ (z : State) (s : State) (n : Fin 24) (fr : Front) (fe : List Nat) (d : Fin 32) (a : Fin 32) (b : Fin 32) (fmt : Bool) (rm : Fin 8) (m : Nat), Issues z n fr fe s ∧ fpMode s n rm = some m :=
  ⟨(coreWith { w := [(1, 0xFFFFFFFF80000000)], f := [(1, 0xFFFFFFFF3F800000), (2, 0x40000000)] }), (coreWith { w := [(1, 0xFFFFFFFF80000000)], f := [(1, 0xFFFFFFFF3F800000), (2, 0x40000000)] }), 23, {}, [], 31, 1, 2, false, 5, 0, by decide +kernel⟩

theorem wit_FRootConvert : ∃ (z : State) (s : State) (n : Fin 24) (fr : Front) (fe : List Nat) (d : Fin 32) (a : Fin 32) (fmt : Bool) (rm : Fin 8) (m : Nat), Issues z n fr fe s ∧ fpMode s n rm = some m :=
  ⟨(coreWith { w := [(1, 0xFFFFFFFF80000000)], f := [(1, 0xFFFFFFFF3F800000), (2, 0x40000000)] }), (coreWith { w := [(1, 0xFFFFFFFF80000000)], f := [(1, 0xFFFFFFFF3F800000), (2, 0x40000000)] }), 23, {}, [], 31, 1, true, 4, 4, by decide +kernel⟩

theorem wit_FFused : ∃ (z : State) (s : State) (n : Fin 24) (fr : Front) (fe : List Nat) (d : Fin 32) (a : Fin 32) (b : Fin 32) (c : Fin 32) (fmt : Bool) (rm : Fin 8) (m : Nat), Issues z n fr fe s ∧ fpMode s n rm = some m :=
  ⟨(coreWith { w := [(1, 0xFFFFFFFF80000000)], f := [(1, 0xFFFFFFFF3F800000), (2, 0x40000000)] }), (coreWith { w := [(1, 0xFFFFFFFF80000000)], f := [(1, 0xFFFFFFFF3F800000), (2, 0x40000000)] }), 23, {}, [], 31, 1, 2, 1, true, 4, 4, by decide +kernel⟩

theorem wit_FToInts : ∃ (z : State) (s : State) (n : Fin 24) (fr : Front) (fe : List Nat) (d : Fin 32) (a : Fin 32) (fmt : Bool) (rm : Fin 8) (m : Nat), Issues z n fr fe s ∧ fpMode s n rm = some m :=
  ⟨(coreWith { w := [(1, 0xFFFFFFFF80000000)], f := [(1, 0xFFFFFFFF3F800000), (2, 0x40000000)] }), (coreWith { w := [(1, 0xFFFFFFFF80000000)], f := [(1, 0xFFFFFFFF3F800000), (2, 0x40000000)] }), 23, {}, [], 31, 1, false, 3, 3, by decide +kernel⟩

theorem wit_FOfInts : ∃ (z : State) (s : State) (n : Fin 24) (fr : Front) (fe : List Nat) (d : Fin 32) (a : Fin 32) (fmt : Bool) (rm : Fin 8) (m : Nat), Issues z n fr fe s ∧ fpMode s n rm = some m :=
  ⟨(coreWith { w := [(1, 0xFFFFFFFF80000000)], f := [(1, 0xFFFFFFFF3F800000), (2, 0x40000000)] }), (coreWith { w := [(1, 0xFFFFFFFF80000000)], f := [(1, 0xFFFFFFFF3F800000), (2, 0x40000000)] }), 23, {}, [], 31, 1, true, 0, 0, by decide +kernel⟩

theorem wit_FSigns : ∃ (z : State) (s : State) (n : Fin 24) (fr : Front) (fe : List Nat) (d : Fin 32) (a : Fin 32) (b : Fin 32) (fmt : Bool), Issues z n fr fe s :=
  ⟨(coreWith { w := [(1, 0xFFFFFFFF80000000)], f := [(1, 0xFFFFFFFF3F800000), (2, 0x40000000)] }), (coreWith { w := [(1, 0xFFFFFFFF80000000)], f := [(1, 0xFFFFFFFF3F800000), (2, 0x40000000)] }), 23, {}, [], 31, 1, 2, false, by decide +kernel⟩

theorem wit_FMinMaxes : ∃ (z : State) (s : State) (n : Fin 24) (fr : Front) (fe : List Nat) (d : Fin 32) (a : Fin 32) (b : Fin 32) (fmt : Bool), Issues z n fr fe s :=
  ⟨(coreWith { w := [(1, 0xFFFFFFFF80000000)], f := [(1, 0xFFFFFFFF3F800000), (2, 0x40000000)] }), (coreWith { w := [(1, 0xFFFFFFFF80000000)], f := [(1, 0xFFFFFFFF3F800000), (2, 0x40000000)] }), 23, {}, [], 31, 1, 2, false, by decide +kernel⟩

theorem wit_FCompares : ∃ (z : State) (s : State) (n : Fin 24) (fr : Front) (fe : List Nat) (d : Fin 32) (a : Fin 32) (b : Fin 32) (fmt : Bool), Issues z n fr fe s :=
  ⟨(coreWith { w := [(1, 0xFFFFFFFF80000000)], f := [(1, 0xFFFFFFFF3F800000), (2, 0x40000000)] }), (coreWith { w := [(1, 0xFFFFFFFF80000000)], f := [(1, 0xFFFFFFFF3F800000), (2, 0x40000000)] }), 23, {}, [], 31, 1, 2, false, by decide +kernel⟩

theorem wit_FMoves : ∃ (z : State) (s : State) (n : Fin 24) (fr : Front) (fe : List Nat) (d : Fin 32) (a : Fin 32), Issues z n fr fe s :=
  ⟨(coreWith { w := [(1, 0xFFFFFFFF80000000)], f := [(1, 0xFFFFFFFF3F800000), (2, 0x40000000)] }), (coreWith { w := [(1, 0xFFFFFFFF80000000)], f := [(1, 0xFFFFFFFF3F800000), (2, 0x40000000)] }), 23, {}, [], 31, 1, by decide +kernel⟩

theorem wit_FReserved : ∃ (z : State) (s : State) (n : Fin 24) (fr : Front) (fe : List Nat) (d : Fin 32) (a : Fin 32) (b : Fin 32) (c : Fin 32) (fmt : Bool) (rm : Fin 8), Issues z n fr fe s ∧ 6 ≤ rm.val :=
  ⟨(coreWith { w := [(1, 0xFFFFFFFF80000000)], f := [(1, 0xFFFFFFFF3F800000), (2, 0x40000000)] }), (coreWith { w := [(1, 0xFFFFFFFF80000000)], f := [(1, 0xFFFFFFFF3F800000), (2, 0x40000000)] }), 23, {}, [], 31, 1, 2, 3, true, 7, by decide +kernel⟩

theorem wit_WLd1 : ∃ (z : State) (s : State) (n : Fin 24) (fr : Front) (fe : List Nat) (d : Fin 32) (a : Fin 32) (imm : BitVec 16) (env : MemEnv) (u : State) (x : Nat) (evs : List Nat), Issues z n fr fe s ∧ xrOk (loadAt s n a (memEa s n a imm) 1 env) = some (u, x, evs) :=
  ⟨aMem, aMem, 23, {}, [], 31, 1, 0, {}, (aLoad 1).1, (aLoad 1).2.1, (aLoad 1).2.2, by decide +kernel⟩

theorem wit_WLd2 : ∃ (z : State) (s : State) (n : Fin 24) (fr : Front) (fe : List Nat) (d : Fin 32) (a : Fin 32) (imm : BitVec 16) (env : MemEnv) (u : State) (x : Nat) (evs : List Nat), Issues z n fr fe s ∧ xrOk (loadAt s n a (memEa s n a imm) 2 env) = some (u, x, evs) :=
  ⟨aMem, aMem, 23, {}, [], 31, 1, 0, {}, (aLoad 2).1, (aLoad 2).2.1, (aLoad 2).2.2, by decide +kernel⟩

theorem wit_WLd4 : ∃ (z : State) (s : State) (n : Fin 24) (fr : Front) (fe : List Nat) (d : Fin 32) (a : Fin 32) (imm : BitVec 16) (env : MemEnv) (u : State) (x : Nat) (evs : List Nat), Issues z n fr fe s ∧ xrOk (loadAt s n a (memEa s n a imm) 4 env) = some (u, x, evs) :=
  ⟨aMem, aMem, 23, {}, [], 31, 1, 0, {}, (aLoad 4).1, (aLoad 4).2.1, (aLoad 4).2.2, by decide +kernel⟩

theorem wit_WLd8 : ∃ (z : State) (s : State) (n : Fin 24) (fr : Front) (fe : List Nat) (d : Fin 32) (a : Fin 32) (imm : BitVec 16) (env : MemEnv) (u : State) (x : Nat) (evs : List Nat), Issues z n fr fe s ∧ xrOk (loadAt s n a (memEa s n a imm) 8 env) = some (u, x, evs) :=
  ⟨aMem, aMem, 23, {}, [], 31, 1, 0, {}, (aLoad 8).1, (aLoad 8).2.1, (aLoad 8).2.2, by decide +kernel⟩

theorem wit_WSt1 : ∃ (z : State) (s : State) (n : Fin 24) (fr : Front) (fe : List Nat) (d : Fin 32) (a : Fin 32) (imm : BitVec 16) (env : MemEnv) (u : State) (evs : List Nat), Issues z n fr fe s ∧ xrOk (storeAt s n (memEa s n a imm) 1 (getW s n d).toNat env) = some (u, evs) :=
  ⟨aMem, aMem, 23, {}, [], 2, 1, 8, {}, (aStore 1 7).1, (aStore 1 7).2, by decide +kernel⟩

theorem wit_WSt2 : ∃ (z : State) (s : State) (n : Fin 24) (fr : Front) (fe : List Nat) (d : Fin 32) (a : Fin 32) (imm : BitVec 16) (env : MemEnv) (u : State) (evs : List Nat), Issues z n fr fe s ∧ xrOk (storeAt s n (memEa s n a imm) 2 (getW s n d).toNat env) = some (u, evs) :=
  ⟨aMem, aMem, 23, {}, [], 2, 1, 8, {}, (aStore 2 7).1, (aStore 2 7).2, by decide +kernel⟩

theorem wit_WSt4 : ∃ (z : State) (s : State) (n : Fin 24) (fr : Front) (fe : List Nat) (d : Fin 32) (a : Fin 32) (imm : BitVec 16) (env : MemEnv) (u : State) (evs : List Nat), Issues z n fr fe s ∧ xrOk (storeAt s n (memEa s n a imm) 4 (getW s n d).toNat env) = some (u, evs) :=
  ⟨aMem, aMem, 23, {}, [], 2, 1, 8, {}, (aStore 4 7).1, (aStore 4 7).2, by decide +kernel⟩

theorem wit_WSt8 : ∃ (z : State) (s : State) (n : Fin 24) (fr : Front) (fe : List Nat) (d : Fin 32) (a : Fin 32) (imm : BitVec 16) (env : MemEnv) (u : State) (evs : List Nat), Issues z n fr fe s ∧ xrOk (storeAt s n (memEa s n a imm) 8 (getW s n d).toNat env) = some (u, evs) :=
  ⟨aMem, aMem, 23, {}, [], 2, 1, 8, {}, (aStore 8 7).1, (aStore 8 7).2, by decide +kernel⟩

theorem wit_WFst4 : ∃ (z : State) (s : State) (n : Fin 24) (fr : Front) (fe : List Nat) (d : Fin 32) (a : Fin 32) (imm : BitVec 16) (env : MemEnv) (u : State) (evs : List Nat), Issues z n fr fe s ∧ xrOk (storeAt s n (memEa s n a imm) 4 (getFr s n d).toNat env) = some (u, evs) :=
  ⟨aMem, aMem, 23, {}, [], 2, 1, 8, {}, (aStore 4 0).1, (aStore 4 0).2, by decide +kernel⟩

theorem wit_WFst8 : ∃ (z : State) (s : State) (n : Fin 24) (fr : Front) (fe : List Nat) (d : Fin 32) (a : Fin 32) (imm : BitVec 16) (env : MemEnv) (u : State) (evs : List Nat), Issues z n fr fe s ∧ xrOk (storeAt s n (memEa s n a imm) 8 (getFr s n d).toNat env) = some (u, evs) :=
  ⟨aMem, aMem, 23, {}, [], 2, 1, 8, {}, (aStore 8 0).1, (aStore 8 0).2, by decide +kernel⟩

theorem wit_WAtomics : ∃ (z : State) (s : State) (n : Fin 24) (fr : Front) (fe : List Nat) (d : Fin 32) (a : Fin 32) (b : Fin 32) (w64 : Bool) (aq : Bool) (rl : Bool) (env : MemEnv) (t : State) (u : State) (x : Xlat) (v : State) (y : L2Line) (m : Bool), Issues z n fr fe s ∧ (getW s n a).toNat % (if w64 then 8 else 4) = 0 ∧ xrOk (xlatNoted s n (getW s n a).toNat .write env) = some (t, x) ∧ x.ty = 2 ∧ (if rl then drainWhere t n (fun _ => true) env else commitWhere t n (fun y => y.pa / 64 = x.pa / 64) env) = .ok u ∧ gotOk (obtain u n (coreAttr u n env.cls) true .fillAtomic (x.pa / 64) env) = some (v, y, m) ∧ y.poison = false :=
  ⟨(coreWith { w := [(1, 0x1000100), (2, 7)] }), (coreWith { w := [(1, 0x1000100), (2, 7)] }), 23, {}, [], 31, 1, 2, true, false, true, {}, (((xrOk (xlatNoted (coreWith { w := [(1, 0x1000100), (2, 7)] }) 23 0x1000100 .write {})).map (·.1)).getD {}), (((xrOk (xlatNoted (coreWith { w := [(1, 0x1000100), (2, 7)] }) 23 0x1000100 .write {})).map (·.1)).getD {}), { pa := 0x1000100, ty := 2 }, (((gotOk (obtain (((xrOk (xlatNoted (coreWith { w := [(1, 0x1000100), (2, 7)] }) 23 0x1000100 .write {})).map (·.1)).getD {}) 23 (coreAttr (((xrOk (xlatNoted (coreWith { w := [(1, 0x1000100), (2, 7)] }) 23 0x1000100 .write {})).map (·.1)).getD {}) 23 1) true .fillAtomic 0x40004 {})).map (·.1)).getD {}), (((gotOk (obtain (((xrOk (xlatNoted (coreWith { w := [(1, 0x1000100), (2, 7)] }) 23 0x1000100 .write {})).map (·.1)).getD {}) 23 (coreAttr (((xrOk (xlatNoted (coreWith { w := [(1, 0x1000100), (2, 7)] }) 23 0x1000100 .write {})).map (·.1)).getD {}) 23 1) true .fillAtomic 0x40004 {})).map (·.2.1)).getD { data := 0, writer := 0 }), (((gotOk (obtain (((xrOk (xlatNoted (coreWith { w := [(1, 0x1000100), (2, 7)] }) 23 0x1000100 .write {})).map (·.1)).getD {}) 23 (coreAttr (((xrOk (xlatNoted (coreWith { w := [(1, 0x1000100), (2, 7)] }) 23 0x1000100 .write {})).map (·.1)).getD {}) 23 1) true .fillAtomic 0x40004 {})).map (·.2.2)).getD false), by decide +kernel⟩

theorem wit_WScFails : ∃ (z : State) (s : State) (n : Fin 24) (fr : Front) (fe : List Nat) (d : Fin 32) (a : Fin 32) (b : Fin 32) (w64 : Bool) (aq : Bool) (rl : Bool) (env : MemEnv) (t : State) (x : Xlat), Issues z n fr fe s ∧ (getW s n a).toNat % (if w64 then 8 else 4) = 0 ∧ xrOk (xlatNoted s n (getW s n a).toNat .write env) = some (t, x) ∧ x.ty = 2 ∧ (Machine.core t n).resv ≠ some (x.pa / 64) :=
  ⟨(coreWith { w := [(1, 0x1000100), (2, 7)] }), (coreWith { w := [(1, 0x1000100), (2, 7)] }), 23, {}, [], 31, 1, 2, true, false, true, {}, (coreWith { w := [(1, 0x1000100), (2, 7)] }), { pa := 0x1000100, ty := 2 }, by decide +kernel⟩

theorem wit_WAtomTraps : ∃ (z : State) (s : State) (t : State) (n : Fin 24) (fr : Front) (fe : List Nat) (d : Fin 32) (a : Fin 32) (b : Fin 32) (w64 : Bool) (aq : Bool) (rl : Bool) (env : MemEnv) (x : Xlat) (i : Instr), Issues z n fr fe s ∧ i ∈ atomics n d a b w64 aq rl env fr :=
  ⟨aMem, aMem, aMem, 23, {}, [], 31, 1, 2, true, false, false, {}, { pa := 0x1000100, ty := 2 }, .wAmoadd 23 31 1 2 true false false {} {}, by decide +kernel⟩

theorem wit_WPacks : ∃ (z : State) (s : State) (n : Fin 24) (fr : Front) (fe : List Nat) (a : Fin 32) (b : Fin 32) (env : MemEnv) (s1 : State) (s2 : State) (s3 : State) (s4 : State) (ps : List Part) (qs : List Part) (r : Rd), Issues z n fr fe s ∧ (getW s n a).toNat % 4 = 0 ∧ (getW s n b).toNat % 16 = 0 ∧ xrOk (xlatSpan (noteServed s n (getW s n a).toNat 28) n (getW s n a).toNat 28 .read env) = some (s1, ps) ∧ xrOk (xlatSpan s1 n (getW s n b).toNat 16 .write env) = some (s2, qs) ∧ roomFor s2 n (splitParts 16 qs).length env = .ok s3 ∧ xrOk (readParts n env (splitParts 4 ps) s3) = some (s4, r) ∧ r.err = false ∧ r.bad = false :=
  ⟨(coreWith { w := [(1, 0x1000100), (2, 0x1000140)] }), (coreWith { w := [(1, 0x1000100), (2, 0x1000140)] }), 23, {}, [], 1, 2, {}, (((xrOk (xlatSpan (noteServed (coreWith { w := [(1, 0x1000100), (2, 0x1000140)] }) 23 0x1000100 28) 23 0x1000100 28 .read {})).map (·.1)).getD {}), (((xrOk (xlatSpan (((xrOk (xlatSpan (noteServed (coreWith { w := [(1, 0x1000100), (2, 0x1000140)] }) 23 0x1000100 28) 23 0x1000100 28 .read {})).map (·.1)).getD {}) 23 0x1000140 16 .write {})).map (·.1)).getD {}), (((xrOk (xlatSpan (((xrOk (xlatSpan (noteServed (coreWith { w := [(1, 0x1000100), (2, 0x1000140)] }) 23 0x1000100 28) 23 0x1000100 28 .read {})).map (·.1)).getD {}) 23 0x1000140 16 .write {})).map (·.1)).getD {}), ((xrOk (readParts 23 {} (splitParts 4 (((xrOk (xlatSpan (noteServed (coreWith { w := [(1, 0x1000100), (2, 0x1000140)] }) 23 0x1000100 28) 23 0x1000100 28 .read {})).map (·.2)).getD [])) (((xrOk (xlatSpan (((xrOk (xlatSpan (noteServed (coreWith { w := [(1, 0x1000100), (2, 0x1000140)] }) 23 0x1000100 28) 23 0x1000100 28 .read {})).map (·.1)).getD {}) 23 0x1000140 16 .write {})).map (·.1)).getD {}))).getD ({}, {})).1, (((xrOk (xlatSpan (noteServed (coreWith { w := [(1, 0x1000100), (2, 0x1000140)] }) 23 0x1000100 28) 23 0x1000100 28 .read {})).map (·.2)).getD []), (((xrOk (xlatSpan (((xrOk (xlatSpan (noteServed (coreWith { w := [(1, 0x1000100), (2, 0x1000140)] }) 23 0x1000100 28) 23 0x1000100 28 .read {})).map (·.1)).getD {}) 23 0x1000140 16 .write {})).map (·.2)).getD []), ((xrOk (readParts 23 {} (splitParts 4 (((xrOk (xlatSpan (noteServed (coreWith { w := [(1, 0x1000100), (2, 0x1000140)] }) 23 0x1000100 28) 23 0x1000100 28 .read {})).map (·.2)).getD [])) (((xrOk (xlatSpan (((xrOk (xlatSpan (noteServed (coreWith { w := [(1, 0x1000100), (2, 0x1000140)] }) 23 0x1000100 28) 23 0x1000100 28 .read {})).map (·.1)).getD {}) 23 0x1000140 16 .write {})).map (·.1)).getD {}))).getD ({}, {})).2, by decide +kernel⟩

theorem wit_WUnpks : ∃ (z : State) (s : State) (n : Fin 24) (fr : Front) (fe : List Nat) (a : Fin 32) (b : Fin 32) (env : MemEnv) (s1 : State) (s2 : State) (s3 : State) (s4 : State) (ps : List Part) (qs : List Part) (r : Rd), Issues z n fr fe s ∧ (getW s n a).toNat % 16 = 0 ∧ (getW s n b).toNat % 4 = 0 ∧ xrOk (xlatSpan (noteServed s n (getW s n a).toNat 16) n (getW s n a).toNat 16 .read env) = some (s1, ps) ∧ xrOk (xlatSpan s1 n (getW s n b).toNat 28 .write env) = some (s2, qs) ∧ roomFor s2 n (splitParts 4 qs).length env = .ok s3 ∧ xrOk (readParts n env (splitParts 16 ps) s3) = some (s4, r) ∧ r.err = false ∧ r.bad = false :=
  ⟨(coreWith { w := [(1, 0x1000100), (2, 0x1000140)] }), (coreWith { w := [(1, 0x1000100), (2, 0x1000140)] }), 23, {}, [], 1, 2, {}, (((xrOk (xlatSpan (noteServed (coreWith { w := [(1, 0x1000100), (2, 0x1000140)] }) 23 0x1000100 16) 23 0x1000100 16 .read {})).map (·.1)).getD {}), (((xrOk (xlatSpan (((xrOk (xlatSpan (noteServed (coreWith { w := [(1, 0x1000100), (2, 0x1000140)] }) 23 0x1000100 16) 23 0x1000100 16 .read {})).map (·.1)).getD {}) 23 0x1000140 28 .write {})).map (·.1)).getD {}), (((xrOk (xlatSpan (((xrOk (xlatSpan (noteServed (coreWith { w := [(1, 0x1000100), (2, 0x1000140)] }) 23 0x1000100 16) 23 0x1000100 16 .read {})).map (·.1)).getD {}) 23 0x1000140 28 .write {})).map (·.1)).getD {}), ((xrOk (readParts 23 {} (splitParts 16 (((xrOk (xlatSpan (noteServed (coreWith { w := [(1, 0x1000100), (2, 0x1000140)] }) 23 0x1000100 16) 23 0x1000100 16 .read {})).map (·.2)).getD [])) (((xrOk (xlatSpan (((xrOk (xlatSpan (noteServed (coreWith { w := [(1, 0x1000100), (2, 0x1000140)] }) 23 0x1000100 16) 23 0x1000100 16 .read {})).map (·.1)).getD {}) 23 0x1000140 28 .write {})).map (·.1)).getD {}))).getD ({}, {})).1, (((xrOk (xlatSpan (noteServed (coreWith { w := [(1, 0x1000100), (2, 0x1000140)] }) 23 0x1000100 16) 23 0x1000100 16 .read {})).map (·.2)).getD []), (((xrOk (xlatSpan (((xrOk (xlatSpan (noteServed (coreWith { w := [(1, 0x1000100), (2, 0x1000140)] }) 23 0x1000100 16) 23 0x1000100 16 .read {})).map (·.1)).getD {}) 23 0x1000140 28 .write {})).map (·.2)).getD []), ((xrOk (readParts 23 {} (splitParts 16 (((xrOk (xlatSpan (noteServed (coreWith { w := [(1, 0x1000100), (2, 0x1000140)] }) 23 0x1000100 16) 23 0x1000100 16 .read {})).map (·.2)).getD [])) (((xrOk (xlatSpan (((xrOk (xlatSpan (noteServed (coreWith { w := [(1, 0x1000100), (2, 0x1000140)] }) 23 0x1000100 16) 23 0x1000100 16 .read {})).map (·.1)).getD {}) 23 0x1000140 28 .write {})).map (·.1)).getD {}))).getD ({}, {})).2, by decide +kernel⟩

theorem wit_WCleanPocRow : ∃ (z : State) (s : State) (n : Fin 24) (fr : Front) (fe : List Nat) (a : Fin 32) (env : MemEnv) (t : State) (v : State) (u : State) (x : Xlat), Issues z n fr fe s ∧ xrOk (xlatNoted s n (getW s n a).toNat .read env) = some (t, x) ∧ drainWhere t n (beforeLine t n (x.pa / 64)) env = .ok v ∧ copsRoom v n env = .ok u :=
  ⟨aMem, aMem, 23, {}, [], 1, {}, aMem, aMem, aMem, { pa := 0x1000100, ty := 2 }, by decide +kernel⟩

theorem wit_WCinvPocRow : ∃ (z : State) (s : State) (n : Fin 24) (fr : Front) (fe : List Nat) (a : Fin 32) (env : MemEnv) (t : State) (v : State) (u : State) (x : Xlat), Issues z n fr fe s ∧ xrOk (xlatNoted s n (getW s n a).toNat .read env) = some (t, x) ∧ drainWhere t n (beforeLine t n (x.pa / 64)) env = .ok v ∧ copsRoom v n env = .ok u :=
  ⟨aMem, aMem, 23, {}, [], 1, {}, aMem, aMem, aMem, { pa := 0x1000100, ty := 2 }, by decide +kernel⟩

theorem wit_WCleanPouRow : ∃ (z : State) (s : State) (n : Fin 24) (fr : Front) (fe : List Nat) (a : Fin 32) (env : MemEnv) (t : State) (v : State) (u : State) (x : Xlat), Issues z n fr fe s ∧ xrOk (xlatNoted s n (getW s n a).toNat .read env) = some (t, x) ∧ drainWhere t n (beforeLine t n (x.pa / 64)) env = .ok v ∧ copsRoom v n env = .ok u :=
  ⟨aMem, aMem, 23, {}, [], 1, {}, aMem, aMem, aMem, { pa := 0x1000100, ty := 2 }, by decide +kernel⟩

theorem wit_WInvPocRow : ∃ (z : State) (s : State) (n : Fin 24) (fr : Front) (fe : List Nat) (a : Fin 32) (env : MemEnv) (t : State) (v : State) (u : State) (x : Xlat), Issues z n fr fe s ∧ level s n ≠ 0 ∧ xrOk (xlatNoted s n (getW s n a).toNat .write env) = some (t, x) ∧ drainWhere t n (beforeLine t n (x.pa / 64)) env = .ok v ∧ copsRoom v n env = .ok u :=
  ⟨aMem, aMem, 23, {}, [], 1, {}, aMem, aMem, aMem, { pa := 0x1000100, ty := 2 }, by decide +kernel⟩

theorem wit_WInvPocU : ∃ (z : State) (s : State) (n : Fin 24) (fr : Front) (fe : List Nat) (a : Fin 32) (env : MemEnv) (t : State) (v : State) (u : State) (x : Xlat), Issues z n fr fe s ∧ level s n = 0 ∧ xrOk (xlatNoted s n (getW s n a).toNat .read env) = some (t, x) ∧ drainWhere t n (beforeLine t n (x.pa / 64)) env = .ok v ∧ copsRoom v n env = .ok u :=
  ⟨coreWith { w := [(1, 0x1000100)], sys := [(0x400, 0)] }, coreWith { w := [(1, 0x1000100)], sys := [(0x400, 0)] }, 23, {}, [], 1, {}, coreWith { w := [(1, 0x1000100)], sys := [(0x400, 0)] }, coreWith { w := [(1, 0x1000100)], sys := [(0x400, 0)] }, coreWith { w := [(1, 0x1000100)], sys := [(0x400, 0)] }, { pa := 0x1000100, ty := 2 }, by decide +kernel⟩

theorem wit_StoreCommitRow : ∃ (s : State) (u : State) (n : Fin 24) (i : Nat) (x : StoreEnt) (env : MemEnv), (Machine.core s n).sb[i]? = some x ∧ (((Machine.core s n).sb.take i).any fun y => if x.ty = 0 then decide (y.ty = 0) else decide (y.ty ≠ 0) && decide (y.pa / 64 = x.pa / 64)) = false :=
  ⟨{ cores := [(23, { run := .running, pc := 0x1000000, w := [(1, 0x1000100), (2, 7)], sb := [{ pa := 0x1000108, len := 8, data := 7, ty := 2, lvl := 3, attr := { did := 0, gen := 1, cls := 1 } }] })] }, after (exec (.storeCommit 23 0 {}) {}), 23, 0, { pa := 0x1000108, len := 8, data := 7, ty := 2, lvl := 3, attr := { did := 0, gen := 1, cls := 1 } }, {}, by decide +kernel⟩

theorem wit_CacheOpRow : ∃ (s : State) (u : State) (n : Fin 24) (i : Nat) (op : Nat) (la : Nat) (env : MemEnv), (Machine.core s n).cops[i]? = some (op, la) ∧ (((Machine.core s n).cops.take i).any fun y => decide (y.2 = la)) = false ∧ cacheOp s n op la env = .ok u :=
  ⟨{ cores := [(23, { run := .running, pc := 0x1000000, w := [(1, 0x1000100), (2, 7)], cops := [(1, 5)] })] }, dropLineAll ({ cores := [(23, { run := .running, pc := 0x1000000, w := [(1, 0x1000100), (2, 7)], cops := [(1, 5)] })] }) 5, 23, 0, 1, 5, {}, by decide +kernel⟩

theorem wit_WBranches : ∃ (z : State) (s : State) (n : Fin 24) (fr : Front) (fe : List Nat) (a : Fin 32) (b : Fin 32) (off : BitVec 16), Issues z n fr fe s :=
  ⟨(coreWith { w := [(1, 0xFFFFFFFF80000000), (2, 7)] }), (coreWith { w := [(1, 0xFFFFFFFF80000000), (2, 7)] }), 23, {}, [], 1, 2, 0x8000, by decide +kernel⟩

theorem wit_WJumps : ∃ (z : State) (s : State) (n : Fin 24) (fr : Front) (fe : List Nat) (off : BitVec 26), Issues z n fr fe s :=
  ⟨(coreWith { w := [(1, 0xFFFFFFFF80000000), (2, 7)] }), (coreWith { w := [(1, 0xFFFFFFFF80000000), (2, 7)] }), 23, {}, [], 0x2000000, by decide +kernel⟩

theorem wit_WJalrRow : ∃ (z : State) (s : State) (n : Fin 24) (fr : Front) (fe : List Nat) (d : Fin 32) (a : Fin 32) (imm : BitVec 16), Issues z n fr fe s :=
  ⟨(coreWith { w := [(1, 0xFFFFFFFF80000000), (2, 7)] }), (coreWith { w := [(1, 0xFFFFFFFF80000000), (2, 7)] }), 23, {}, [], 5, 5, 0xFFFF, by decide +kernel⟩

theorem wit_WMfsRow : ∃ (z : State) (s : State) (n : Fin 24) (fr : Front) (fe : List Nat) (d : Fin 32) (k : Fin 4096), Issues z n fr fe s ∧ sysListed k = true ∧ k.val / 1024 ≤ level s n :=
  ⟨(coreWith { w := [(1, 0xFFFFFFFF80000000), (2, 7)] }), (coreWith { w := [(1, 0xFFFFFFFF80000000), (2, 7)] }), 23, {}, [], 31, 0xC01, by decide +kernel⟩

theorem wit_WMtsRow : ∃ (z : State) (s : State) (n : Fin 24) (fr : Front) (fe : List Nat) (a : Fin 32) (k : Fin 4096) (m : Nat), Issues z n fr fe s ∧ sysMask k = some m ∧ k.val / 1024 ≤ level s n ∧ sysBad k (getW s n a) = false :=
  ⟨(coreWith { w := [(1, 0xFFFFFFFF80000000), (2, 7)] }), (coreWith { w := [(1, 0xFFFFFFFF80000000), (2, 7)] }), 23, {}, [], 1, 0x40A, 0xFFFFFFFFFFFFFFFF, by decide +kernel⟩

theorem wit_WSysTraps : ∃ (z : State) (s : State) (n : Fin 24) (fr : Front) (fe : List Nat) (d : Fin 32) (a : Fin 32) (k : Fin 4096), Issues z n fr fe s :=
  ⟨(coreWith { w := [(1, 0xFFFFFFFF80000000), (2, 7)] }), (coreWith { w := [(1, 0xFFFFFFFF80000000), (2, 7)] }), 23, {}, [], 31, 1, 0x001, by decide +kernel⟩

theorem wit_WCalls : ∃ (z : State) (s : State) (n : Fin 24) (fr : Front) (fe : List Nat) (imm : BitVec 16), Issues z n fr fe s :=
  ⟨(coreWith { w := [(1, 0xFFFFFFFF80000000), (2, 7)] }), (coreWith { w := [(1, 0xFFFFFFFF80000000), (2, 7)] }), 23, {}, [], 5, by decide +kernel⟩

theorem wit_WBrkRow : ∃ (z : State) (s : State) (n : Fin 24) (fr : Front) (fe : List Nat) (imm : BitVec 16) (word : BitVec 32), True :=
  ⟨(coreWith { w := [(1, 0xFFFFFFFF80000000), (2, 7)] }), (coreWith { w := [(1, 0xFFFFFFFF80000000), (2, 7)] }), 23, {}, [], 5, 7, by decide +kernel⟩

theorem wit_WReturns : ∃ (z : State) (s : State) (n : Fin 24) (fr : Front) (fe : List Nat) (t : Nat), Issues z n fr fe s ∧ level s n = t ∧ 1 ≤ t ∧ deliverableAt (irqAt s n t).1 t (fld (sysr s n (lvlReg t 2)) 0 2) (bit (sysr s n (lvlReg t 2)) 2) (bit (sysr s n (lvlReg t 2)) 3) (if t = 3 then 0 else fld (sysr s n (lvlReg t 2)) 8 4) = false :=
  ⟨(coreWith { w := [(1, 0xFFFFFFFF80000000), (2, 7)] }), (coreWith { w := [(1, 0xFFFFFFFF80000000), (2, 7)] }), 23, {}, [], 3, by decide +kernel⟩

theorem wit_WReenters : ∃ (z : State) (s : State) (n : Fin 24) (fr : Front) (fe : List Nat) (t : Nat) (q : Nat) (v : Bool), Issues z n fr fe s ∧ level s n = t ∧ 1 ≤ t ∧ irqAt s n t = (q, v) ∧ deliverableAt q t (fld (sysr s n (lvlReg t 2)) 0 2) (bit (sysr s n (lvlReg t 2)) 2) (bit (sysr s n (lvlReg t 2)) 3) (if t = 3 then 0 else fld (sysr s n (lvlReg t 2)) 8 4) = true :=
  ⟨(coreWith { sys := [(0x400, 9), (0x403, 0x304), (0x80A, 9), (0x807, 1)] }), (coreWith { sys := [(0x400, 9), (0x403, 0x304), (0x80A, 9), (0x807, 1)] }), 23, {}, [], 1, 9, true, by decide +kernel⟩

theorem wit_WWaits : ∃ (z : State) (s : State) (n : Fin 24) (fr : Front) (fe : List Nat), Issues z n fr fe s :=
  ⟨(coreWith { w := [(1, 0xFFFFFFFF80000000), (2, 7)] }), (coreWith { w := [(1, 0xFFFFFFFF80000000), (2, 7)] }), 23, {}, [], by decide +kernel⟩

theorem wit_WTlbis1 : ∃ (z : State) (s : State) (n : Fin 24) (fr : Front) (fe : List Nat) (a : Fin 32), Issues z n fr fe s :=
  ⟨(coreWith { w := [(1, 0xFFFFFFFF80000000), (2, 7)] }), (coreWith { w := [(1, 0xFFFFFFFF80000000), (2, 7)] }), 23, {}, [], 1, by decide +kernel⟩

theorem wit_WTlbis2 : ∃ (z : State) (s : State) (n : Fin 24) (fr : Front) (fe : List Nat) (a : Fin 32), Issues z n fr fe s :=
  ⟨(coreWith { w := [(1, 0xFFFFFFFF80000000), (2, 7)] }), (coreWith { w := [(1, 0xFFFFFFFF80000000), (2, 7)] }), 23, {}, [], 1, by decide +kernel⟩

theorem wit_WTsyncRow : ∃ (z : State) (s : State) (n : Fin 24) (fr : Front) (fe : List Nat), Issues z n fr fe s ∧ level s n ≠ 0 :=
  ⟨(coreWith { w := [(1, 0xFFFFFFFF80000000), (2, 7)] }), (coreWith { w := [(1, 0xFFFFFFFF80000000), (2, 7)] }), 23, {}, [], by decide +kernel⟩

theorem wit_WFences : ∃ (z : State) (s : State) (n : Fin 24) (fr : Front) (fe : List Nat) (mask : Fin 16) (env : MemEnv), Issues z n fr fe s :=
  ⟨(coreWith { w := [(1, 0xFFFFFFFF80000000), (2, 7)] }), (coreWith { w := [(1, 0xFFFFFFFF80000000), (2, 7)] }), 23, {}, [], 4, {}, by decide +kernel⟩

theorem wit_WIsyncRow : ∃ (z : State) (s : State) (n : Fin 24) (fr : Front) (fe : List Nat) (u : State) (env : MemEnv), Issues z n fr fe s ∧ completeOps s n env = .ok u :=
  ⟨(coreWith { w := [(1, 0xFFFFFFFF80000000), (2, 7)] }), (coreWith { w := [(1, 0xFFFFFFFF80000000), (2, 7)] }), 23, {}, [], (coreWith { w := [(1, 0xFFFFFFFF80000000), (2, 7)] }), {}, by decide +kernel⟩

theorem wit_IrqEntry : ∃ (s : State) (n : Fin 24) (fr : Front), (Machine.core s n).run = .running ∧ (Machine.core s n).stall = false ∧ (Machine.core s n).got = [] ∧ storeBusDue s n = none ∧ lateDue s n = none :=
  ⟨{ sage := { phase := .done }, cores := [(23, { run := .running, pc := 0x1000000, sys := [(0x400, 4), (0x406, 3), (0x80A, 9), (0x807, 1)] })] }, 23, {}, by decide +kernel⟩

theorem wit_LateRow : ∃ (s : State) (n : Fin 24) (t : Nat) (p : Nat), (Machine.core s n).entry = some (t, p) ∧ (Machine.core s n).stall = false ∧ (Machine.core s n).got = [] ∧ p < (irqAt s n t).1 :=
  ⟨{ sage := { phase := .done }, cores := [(23, { run := .running, pc := 0x1000000, sys := [(0x400, 4), (0x406, 3), (0x80A, 9), (0x807, 1)], entry := some (1, 3) })] }, 23, 1, 3, by decide +kernel⟩

theorem wit_SbusRow : ∃ (s : State) (n : Fin 24) (fr : Front) (e : Nat × Nat), (Machine.core s n).run = .running ∧ (Machine.core s n).stall = false ∧ (Machine.core s n).got = [] ∧ storeBusDue s n = some e :=
  ⟨{ sage := { phase := .done }, cores := [(23, { run := .running, pc := 0x1000000, sys := [(0x400, 4), (0x406, 3), (0x80A, 9), (0x807, 1)], sbus := [(0, 0x1000040)] })] }, 23, {}, (0, 0x1000040), by decide +kernel⟩

theorem wit_WaitEndRow : ∃ (s : State) (n : Fin 24), ((Machine.core s n).run = .waiting ∨ (Machine.core s n).run = .doze) ∧ wakePending s n = true ∧ ckaStopped s (n.val / 8) = false :=
  ⟨{ cores := [(23, { run := .waiting, sys := [(0x80A, 9)] })] }, 23, by decide +kernel⟩

theorem wit_PmuWrapRow : ∃ (s : State) (n : Fin 24) (i : Fin 6), True :=
  ⟨wr (wrB {} (.wcc 23) 0x040 0 true) (.wcc 23) 0x074 0xFFFFFFFF, 23, 5, by decide +kernel⟩

theorem wit_SpecWrapRow : ∃ (s : State) (w : Fin 3) (i : Fin 2), rd s (.wc w) (0x048 + 4 * i.val) = 0xFFFFFFFF ∧ rdF s (.wc w) (0x040 + 4 * i.val) 8 4 ≠ 0 :=
  ⟨wr (wrF {} (.wc 2) 0x044 8 4 1) (.wc 2) 0x04C 0xFFFFFFFF, 2, 1, by decide +kernel⟩

theorem wit_ReadOutcome_clauses :
    (∃ (e : LineErr),
    e.moved = true) ∧
    (∃ (e : LineErr),
    e.moved = false ∧ e.sym = 0) ∧
    (∃ (e : LineErr),
    e.moved = false ∧ 1 ≤ e.sym.val ∧ e.sym.val ≤ 3) ∧
    (∃ (e : LineErr),
    e.moved = false ∧ 4 ≤ e.sym.val ∧ e.sym.val ≤ 5) :=
  ⟨⟨{ moved := true }, by decide +kernel⟩,
   ⟨{}, by decide +kernel⟩,
   ⟨{ sym := 3 }, by decide +kernel⟩,
   ⟨{ sym := 5 }, by decide +kernel⟩⟩

theorem wit_MigrationRequest : ∃ (s : State) (l : Nat), rankState s l = 0 ∧ l ∉ s.dram.migReq :=
  ⟨{}, 3, by decide +kernel⟩

theorem wit_MigrationRequest_clauses :
    (∃ (s : State) (l : Nat),
    rankState s l = 0 ∧ l ∉ s.dram.migReq ∧ freeSpare s ≠ none) ∧
    (∃ (s : State) (l : Nat),
    rankState s l = 0 ∧ l ∉ s.dram.migReq ∧ freeSpare s = none) :=
  ⟨⟨wrF {} .rmap 0x0C4 0 2 1, 3, by decide +kernel⟩,
   ⟨{}, 3, by decide +kernel⟩⟩

theorem wit_CeWithinHour_clauses :
    (∃ (s : State) (pr : Nat),
    rdF s .dmc 0x054 8 8 ≠ 0 ∧ rdF s .dmc 0x054 8 8 ≤ (ceRecent s pr).length) ∧
    (∃ (s : State) (pr : Nat),
    (ceRecent s pr).length < rdF s .dmc 0x054 8 8) :=
  ⟨⟨wrF { dt := 99, dram := { ceHour := [(2, [7])] } } .dmc 0x054 8 8 1, 2, by decide +kernel⟩,
   ⟨wrF {} .dmc 0x054 8 8 1, 2, by decide +kernel⟩⟩

theorem wit_SramAskedWaits : ∃ (s : State) (b : Fin 64) (st : Fin 3), st.val ≠ bankState s b :=
  ⟨{}, 63, 2, by decide +kernel⟩

theorem wit_SramAskedWaits_clauses :
    (∃ (s : State) (b : Fin 64) (st : Fin 3),
    st.val ≠ bankState s b ∧ bankFlight s b ≠ []) ∧
    (∃ (s : State) (b : Fin 64) (st : Fin 3),
    st.val ≠ bankState s b ∧ bankFlight s b = []) :=
  ⟨⟨{ fab := { txns := [{ id := 7, req := { master := .engine 3, op := .write, addr := 0x1dffff8, len := 8, be := 255, data := 0x55, cls := 2, pid := 0 }, attr := { did := 4, cls := 2 }, lvl := 0, purp := .plain, status := .transit }] } }, 55, 2, by decide +kernel⟩,
   ⟨{}, 63, 2, by decide +kernel⟩⟩

theorem wit_ScVictimOf : ∃ (s : State) (a : Attr) (master : Nat) (la : Nat) (slot : Nat) (x : ScLine), SMap.find? s.sc.lines slot = some x ∧ x.dirty = true :=
  ⟨{ sc := { lines := [(16385, { tag := 0x80000, data := 9, dirty := true })] } }, { did := 4 }, 0x003, 0x200000001, 16385, { tag := 0x80000, data := 9, dirty := true }, by decide +kernel⟩

theorem wit_FillPreload : ∃ (s : State) (id : Nat) (sl : Nat) (r : DReq), dreq? s id = some r ∧ r.cause = .preload sl ∧ r.stat = .returned :=
  ⟨{ dram := { reqs := [{ id := 0, isW := false, line := 0x200000001, attr := { did := 4 }, port := 1, cause := .preload 16385, stat := .returned }] } }, 0, 16385, { id := 0, isW := false, line := 0x200000001, attr := { did := 4 }, port := 1, cause := .preload 16385, stat := .returned }, by decide +kernel⟩

theorem wit_PreloadLine_clauses :
    (∃ (s : State) (la : Nat),
    lineBusy s la = true) ∧
    (∃ (s : State) (la : Nat),
    lineBusy s la = false ∧ scFind s la ≠ none) ∧
    (∃ (s : State) (part : Nat) (la : Nat) (slot : Nat),
    lineBusy s la = false ∧ scFind s la = none ∧ home s part la = some slot ∧ wayLocked s (slot / 16384) = true) ∧
    (∃ (s : State) (part : Nat) (la : Nat) (slot : Nat),
    lineBusy s la = false ∧ scFind s la = none ∧ home s part la = some slot ∧ wayLocked s (slot / 16384) = false ∧ resvOf s slot = none) :=
  ⟨⟨{ sc := { resvs := [{ slot := 5, line := 0x200000001, victim := false }] } }, 0x200000001, by decide +kernel⟩,
   ⟨wrB (wrB (wrF { sc := { lines := [(16385, { tag := 0x80000, data := 9 })] } } .scac 0x104 0 8 0x10) .scac 0x080 1 true) .scac 0x084 16 true, 0x200000001, by decide +kernel⟩,
   ⟨wrB (wrB (wrB {} .scac 0x080 1 true) .scac 0x084 16 true) .scac 0x068 1 true, 0, 0x200000001, 16385, by decide +kernel⟩,
   ⟨wrB (wrB {} .scac 0x080 1 true) .scac 0x084 16 true, 0, 0x200000001, 16385, by decide +kernel⟩⟩

theorem wit_PreloadStopped : ∃ (s : State) (p : Nat) (c : ScCmd), s.sc.cmd = some c ∧ c.op = 4 ∧ c.acts = true :=
  ⟨{ sc := { cmd := some { op := 4, result := 1, acts := true, len := 9, part := 15, pos := 3 } } }, 15, { op := 4, result := 1, acts := true, len := 9, part := 15, pos := 3 }, by decide +kernel⟩

theorem wit_PreloadStopped_clauses :
    (∃ (s : State) (p : Nat) (c : ScCmd),
    s.sc.cmd = some c ∧ c.op = 4 ∧ c.acts = true ∧ c.part = p) ∧
    (∃ (s : State) (p : Nat) (c : ScCmd),
    s.sc.cmd = some c ∧ c.op = 4 ∧ c.acts = true ∧ c.part ≠ p) :=
  ⟨⟨{ sc := { cmd := some { op := 4, result := 1, acts := true, len := 9, part := 15, pos := 3 } } }, 15, { op := 4, result := 1, acts := true, len := 9, part := 15, pos := 3 }, by decide +kernel⟩,
   ⟨{ sc := { cmd := some { op := 4, result := 1, acts := true, len := 9, part := 15, pos := 3 } } }, 3, { op := 4, result := 1, acts := true, len := 9, part := 15, pos := 3 }, by decide +kernel⟩⟩

theorem wit_ScWaitsForLine : ∃ (s : State) (id : Nat) (par : Bool) (vpar : Bool) (t : Txn), txn? s id = some t ∧ t.status = .transit ∧ behindSource s t = false ∧ inDram s (reqLine t.req) = true ∧ rdB s .dmc 0x040 0 = true ∧ lineBusy s (reqLine t.req) = true :=
  ⟨wrB { ({ fab := { txns := [{ id := 7, req := { master := .engine 3, op := .read, addr := 0x8000000040, len := 8, be := 255, data := 0x55, cls := 2, pid := 0 }, attr := { did := 4, cls := 2 }, lvl := 0, purp := .plain, status := .transit }] } } : State) with sc := { resvs := [{ slot := 5, line := 0x200000001, victim := false }] } } .dmc 0x040 0 true, 7, false, false, { id := 7, req := { master := .engine 3, op := .read, addr := 0x8000000040, len := 8, be := 255, data := 0x55, cls := 2, pid := 0 }, attr := { did := 4, cls := 2 }, lvl := 0, purp := .plain, status := .transit }, by decide +kernel⟩

theorem wit_ScWaitsForLine_clauses :
    (∃ (s : State) (id : Nat) (t : Txn),
    txn? s id = some t ∧ t.status = .transit ∧ behindSource s t = false ∧ inDram s (reqLine t.req) = true ∧ rdB s .dmc 0x040 0 = true ∧ lineBusy s (reqLine t.req) = true ∧ t.req.op ≠ .write) ∧
    (∃ (s : State) (id : Nat) (t : Txn),
    txn? s id = some t ∧ t.status = .transit ∧ behindSource s t = false ∧ inDram s (reqLine t.req) = true ∧ rdB s .dmc 0x040 0 = true ∧ lineBusy s (reqLine t.req) = true ∧ t.req.op = .write) :=
  ⟨⟨wrB { ({ fab := { txns := [{ id := 7, req := { master := .engine 3, op := .read, addr := 0x8000000040, len := 8, be := 255, data := 0x55, cls := 2, pid := 0 }, attr := { did := 4, cls := 2 }, lvl := 0, purp := .plain, status := .transit }] } } : State) with sc := { resvs := [{ slot := 5, line := 0x200000001, victim := false }] } } .dmc 0x040 0 true, 7, { id := 7, req := { master := .engine 3, op := .read, addr := 0x8000000040, len := 8, be := 255, data := 0x55, cls := 2, pid := 0 }, attr := { did := 4, cls := 2 }, lvl := 0, purp := .plain, status := .transit }, by decide +kernel⟩,
   ⟨wrB { ({ fab := { txns := [{ id := 7, req := { master := .engine 3, op := .write, addr := 0x8000000040, len := 8, be := 255, data := 0x55, cls := 2, pid := 0 }, attr := { did := 4, cls := 2 }, lvl := 0, purp := .plain, status := .transit }] } } : State) with sc := { resvs := [{ slot := 5, line := 0x200000001, victim := false }] } } .dmc 0x040 0 true, 7, { id := 7, req := { master := .engine 3, op := .write, addr := 0x8000000040, len := 8, be := 255, data := 0x55, cls := 2, pid := 0 }, attr := { did := 4, cls := 2 }, lvl := 0, purp := .plain, status := .transit }, by decide +kernel⟩⟩

theorem wit_NotInService_clauses :
    (∃ (s : State) (id : Nat) (t : Txn),
    txn? s id = some t ∧ t.status = .transit ∧ behindSource s t = false ∧ inDram s (reqLine t.req) = true ∧ rdB s .dmc 0x040 0 = false ∧ t.req.op ≠ .write) ∧
    (∃ (s : State) (id : Nat) (t : Txn),
    txn? s id = some t ∧ t.status = .transit ∧ behindSource s t = false ∧ inDram s (reqLine t.req) = true ∧ rdB s .dmc 0x040 0 = false ∧ t.req.op = .write) :=
  ⟨⟨{ fab := { txns := [{ id := 7, req := { master := .engine 3, op := .read, addr := 0x8000000040, len := 8, be := 255, data := 0x55, cls := 2, pid := 0 }, attr := { did := 4, cls := 2 }, lvl := 0, purp := .plain, status := .transit }] } }, 7, { id := 7, req := { master := .engine 3, op := .read, addr := 0x8000000040, len := 8, be := 255, data := 0x55, cls := 2, pid := 0 }, attr := { did := 4, cls := 2 }, lvl := 0, purp := .plain, status := .transit }, by decide +kernel⟩,
   ⟨{ fab := { txns := [{ id := 7, req := { master := .engine 3, op := .write, addr := 0x8000000040, len := 8, be := 255, data := 0x55, cls := 2, pid := 0 }, attr := { did := 4, cls := 2 }, lvl := 0, purp := .plain, status := .transit }] } }, 7, { id := 7, req := { master := .engine 3, op := .write, addr := 0x8000000040, len := 8, be := 255, data := 0x55, cls := 2, pid := 0 }, attr := { did := 4, cls := 2 }, lvl := 0, purp := .plain, status := .transit }, by decide +kernel⟩⟩

theorem wit_ScCmdRange_clauses :
    (∃ (s : State) (c : ScCmd) (n : Nat) (pars : List Nat),
    let hi := min c.len (c.pos + n)
    let l := slotsWhere s fun _ la => decide (c.line + c.pos ≤ la) && decide (la < c.line + hi)
    let v := l.foldl (scRangeSlot c.op c.incl pars) s
    s.sc.cmd = some c ∧ c.acts = true ∧ (1 ≤ c.op ∧ c.op ≤ 3) ∧ scWaits s l = false ∧ (hi < c.len ∨ scOwed v = true)) ∧
    (∃ (s : State) (c : ScCmd) (n : Nat) (pars : List Nat),
    let hi := min c.len (c.pos + n)
    let l := slotsWhere s fun _ la => decide (c.line + c.pos ≤ la) && decide (la < c.line + hi)
    let v := l.foldl (scRangeSlot c.op c.incl pars) s
    s.sc.cmd = some c ∧ c.acts = true ∧ (1 ≤ c.op ∧ c.op ≤ 3) ∧ scWaits s l = false ∧ hi = c.len ∧ scOwed v = false) :=
  ⟨⟨{ sc := { cmd := some { op := 3, result := 1, acts := true, line := 0x200000000, len := 2 } } }, { op := 3, result := 1, acts := true, line := 0x200000000, len := 2 }, 1, [], by decide +kernel⟩,
   ⟨{ sc := { cmd := some { op := 3, result := 1, acts := true, line := 0x200000000, len := 2 } } }, { op := 3, result := 1, acts := true, line := 0x200000000, len := 2 }, 2, [], by decide +kernel⟩⟩

theorem wit_ScCmdWay_clauses :
    (∃ (s : State) (c : ScCmd) (n : Nat) (pars : List Nat),
    let hi := min c.len (c.pos + n)
    let l := slotsWhere s fun slot _ => decide (slot / 16384 = c.way) && decide (c.pos ≤ slot % 16384) && decide (slot % 16384 < hi)
    let v := l.foldl (fun s slot => dropLine (scCleanSlot pars s slot) slot) s
    s.sc.cmd = some c ∧ c.acts = true ∧ c.op = 5 ∧ scWaits s l = false ∧ (hi < c.len ∨ scOwed v = true)) ∧
    (∃ (s : State) (c : ScCmd) (n : Nat) (pars : List Nat),
    let hi := min c.len (c.pos + n)
    let l := slotsWhere s fun slot _ => decide (slot / 16384 = c.way) && decide (c.pos ≤ slot % 16384) && decide (slot % 16384 < hi)
    let v := l.foldl (fun s slot => dropLine (scCleanSlot pars s slot) slot) s
    s.sc.cmd = some c ∧ c.acts = true ∧ c.op = 5 ∧ scWaits s l = false ∧ hi = c.len ∧ scOwed v = false) ∧
    (∃ (s : State) (c : ScCmd),
    s.sc.cmd = some c ∧ c.acts = true ∧ c.op = 6 ∧ c.len = 0 ∧ scOwed s = false) ∧
    (∃ (s : State) (c : ScCmd),
    s.sc.cmd = some c ∧ c.acts = true ∧ c.op = 7 ∧ c.len = 0 ∧ scOwed s = false) :=
  ⟨⟨{ sc := { cmd := some { op := 5, result := 1, acts := true, way := 47, len := 16384 } } }, { op := 5, result := 1, acts := true, way := 47, len := 16384 }, 512, [], by decide +kernel⟩,
   ⟨{ sc := { cmd := some { op := 5, result := 1, acts := true, way := 47 } } }, { op := 5, result := 1, acts := true, way := 47 }, 512, [], by decide +kernel⟩,
   ⟨{ sc := { cmd := some { op := 6, result := 1, acts := true, way := 47 } } }, { op := 6, result := 1, acts := true, way := 47 }, by decide +kernel⟩,
   ⟨{ sc := { cmd := some { op := 7, result := 1, acts := true, way := 47 } } }, { op := 7, result := 1, acts := true, way := 47 }, by decide +kernel⟩⟩

theorem wit_ScCmdPreload_clauses :
    (∃ (s : State) (c : ScCmd) (n : Nat) (pars : List Nat),
    let r := scPreloadRun c pars n c.pos s
    s.sc.cmd = some c ∧ c.acts = true ∧ c.op = 4 ∧ (r.2 < c.len ∨ scOwed r.1 = true)) ∧
    (∃ (s : State) (c : ScCmd) (n : Nat) (pars : List Nat),
    let r := scPreloadRun c pars n c.pos s
    s.sc.cmd = some c ∧ c.acts = true ∧ c.op = 4 ∧ c.len ≤ r.2 ∧ scOwed r.1 = false) :=
  ⟨⟨wrB { sc := { cmd := some { op := 4, result := 1, acts := true, line := 0x200000000, len := 2, part := 15 } } } .scac 0x0FC 16 true, { op := 4, result := 1, acts := true, line := 0x200000000, len := 2, part := 15 }, 1, [], by decide +kernel⟩,
   ⟨{ sc := { cmd := some { op := 4, result := 1, acts := true, line := 0x200000000, len := 0, part := 15 } } }, { op := 4, result := 1, acts := true, line := 0x200000000, len := 0, part := 15 }, 3, [], by decide +kernel⟩⟩

theorem wit_PartClean_clauses :
    (∃ (s : State) (p : Fin 16) (pars : List Nat),
    let v := (slotsWhere s fun slot _ => inPart s p (slot / 16384)).foldl (scCleanSlot pars) s
    let owed := v.dram.reqs.any fun r => decide (r.cause = .cmd) && decide (r.stat = .sent)
    partCleaning s p = true ∧ (∀ r ∈ s.sc.resvs, r.victim = true → inPart s p (r.slot / 16384) = false) ∧ (partDirty v p = true ∨ owed = true)) ∧
    (∃ (s : State) (p : Fin 16) (pars : List Nat),
    let v := (slotsWhere s fun slot _ => inPart s p (slot / 16384)).foldl (scCleanSlot pars) s
    let owed := v.dram.reqs.any fun r => decide (r.cause = .cmd) && decide (r.stat = .sent)
    partCleaning s p = true ∧ (∀ r ∈ s.sc.resvs, r.victim = true → inPart s p (r.slot / 16384) = false) ∧ partDirty v p = false ∧ owed = false) :=
  ⟨⟨wrB (wrB { sc := { lines := [(16385, { tag := 0x80000, data := 9, dirty := true })] } } .scac 0x0FC 17 true) .scac 0x0F8 1 true, 15, [], by decide +kernel⟩,
   ⟨wrB {} .scac 0x0FC 17 true, 15, [], by decide +kernel⟩⟩

theorem wit_YoyoEventCounts : ∃ (s : State) (src : Page) (dst : Page) (x : Fin 16),
    let k := yoyoKey src dst x
    let y := yoyoNow s k
    SidesUp s src dst ∧ (y.flushed = 0 ∨ y.cyc ≠ srcCycle s k) ∧ (y.busy = false → y.count = 0 ∧ y.sync = false) :=
  ⟨{}, .ckrs, .dmc, 0, by decide +kernel⟩

theorem wit_YoyoEventCounts_clauses :
    (∃ (s : State) (src : Page) (dst : Page) (x : Fin 16),
    let k := yoyoKey src dst x
    let y := SMap.get {} s.yoyos k
    SidesUp s src dst ∧ (y.flushed = 0 ∨ y.cyc ≠ srcCycle s k) ∧ (y.busy = false → y.count = 0 ∧ y.sync = false) ∧ y.busy = true ∧ 255 ≤ y.count) ∧
    (∃ (s : State) (src : Page) (dst : Page) (x : Fin 16),
    let k := yoyoKey src dst x
    let y := SMap.get {} s.yoyos k
    SidesUp s src dst ∧ (y.flushed = 0 ∨ y.cyc ≠ srcCycle s k) ∧ (y.busy = false → y.count = 0 ∧ y.sync = false) ∧ ¬(y.busy = true ∧ 255 ≤ y.count)) :=
  ⟨⟨{ yoyos := [(yoyoKey .ckrs .dmc 0, { busy := true, count := 255 })] }, .ckrs, .dmc, 0, by decide +kernel⟩,
   ⟨{}, .ckrs, .dmc, 0, by decide +kernel⟩⟩

theorem wit_YoyoAckActs : ∃ (s : State) (src : Page) (dst : Page) (x : Fin 16),
    let k := yoyoKey src dst x
    let y := yoyoNow s k
    SidesUp s src dst ∧ xHeld s = false ∧ y.busy = true :=
  ⟨{ yoyos := [(yoyoKey .ckrs .dmc 0, { busy := true, count := 3 })] }, .ckrs, .dmc, 0, by decide +kernel⟩

theorem wit_LevelPresents : ∃ (s : State) (src : Page) (dst : Page) (x : Fin 16) (v : Nat), SidesUp s src dst :=
  ⟨{}, .ckrs, .dmc, 0, 5, by decide +kernel⟩

theorem wit_LevelPresents_clauses :
    (∃ (s : State) (src : Page) (dst : Page) (x : Fin 16),
    let k := levelKey (yoyoKey src dst x)
    let w := twinNow s k
    SidesUp s src dst ∧ w.sync = false ∧ 4 ≤ w.held) ∧
    (∃ (s : State) (src : Page) (dst : Page) (x : Fin 16),
    let k := levelKey (yoyoKey src dst x)
    let w := twinNow s k
    SidesUp s src dst ∧ w.held < 4) :=
  ⟨⟨{}, .ckrs, .dmc, 0, by decide +kernel⟩,
   ⟨{ twins := [(levelKey (yoyoKey .ckrs .dmc 0), { held := 3 })] }, .ckrs, .dmc, 0, by decide +kernel⟩⟩

theorem wit_TwinEdges_clauses :
    (∃ (w : Twin),
    (twinEdge w).acc ≠ w.acc) ∧
    (∃ (w : Twin),
    w.held < 3) ∧
    (∃ (n : Nat),
    6 ≤ n) ∧
    (∃ (n : Nat),
    12 ≤ n) :=
  ⟨⟨{ pres := 5, samp := 5 }, by decide +kernel⟩,
   ⟨{ held := 2 }, by decide +kernel⟩,
   ⟨6, by decide +kernel⟩,
   ⟨12, by decide +kernel⟩⟩

theorem wit_FifoWrites : ∃ (s : State) (src : Page) (dst : Page) (x : Fin 16) (v : Nat),
    let k := yoyoKey src dst x
    let f := fifoNow s k
    SidesUp s src dst ∧ f.ents.length ≤ fifoDepth k :=
  ⟨{}, .ckrs, .dmc, 0, 5, by decide +kernel⟩

theorem wit_FifoReads : ∃ (s : State) (src : Page) (dst : Page) (x : Fin 16) (v : Nat) (edges : Nat) (r : List (Nat × Nat)),
    let k := yoyoKey src dst x
    let f := fifoNow s k
    SidesUp s src dst ∧ xHeld s = false ∧ f.sync = false ∧ f.ents = (v, edges) :: r ∧ 2 ≤ edges :=
  ⟨{ dt := 100, xfifos := [(yoyoKey .ckrs .dmc 0, { ents := [(7, 2)] })] }, .ckrs, .dmc, 0, 7, 2, [], by decide +kernel⟩

theorem wit_PrefetchBounds : ∃ (s : State) (n : Fin 24) (la : Nat) (env : MemEnv), (Machine.core s n).run = .running :=
  ⟨{ cores := [(23, { run := .running })] }, 23, 5, {}, by decide +kernel⟩

theorem wit_PrefetchBounds_clauses : ∃ (s : State) (n : Fin 24) (la : Nat),
    (Machine.core s n).run = .running ∧ (∀ t ∈ (Machine.core s n).train, t.page ≠ la / 64 ∨ t.lvl ≠ level s n) :=
  ⟨{ cores := [(23, { run := .running })] }, 23, 5, by decide +kernel⟩

theorem wit_FilterReplaces : ∃ (s : State) (n : Fin 24) (la : Nat) (env : MemEnv), (envAt env la).filt = false :=
  ⟨{}, 23, 5, {}, by decide +kernel⟩

theorem wit_FilterReplaces_clauses :
    (∃ (s : State) (la : Nat) (env : MemEnv),
    (envAt env la).filt = false ∧ (la ∈ filterSet s la ∨ (filterSet s la).length < 16)) ∧
    (∃ (s : State) (la : Nat) (env : MemEnv),
    (envAt env la).filt = false ∧ la ∉ filterSet s la ∧ 16 ≤ (filterSet s la).length) :=
  ⟨⟨{}, 5, {}, by decide +kernel⟩,
   ⟨{ l2s := [(2, (List.range 16).map fun i => (32773 + 32768 * i, { data := 0, writer := 0 }))] }, 5, {}, by decide +kernel⟩⟩

theorem wit_L2Outcomes_clauses :
    (∃ (x : L2Line),
    x.dirty = false) ∧
    (∃ (x : L2Line),
    x.dirty = true) :=
  ⟨⟨{ data := 1, writer := 4 }, by decide +kernel⟩,
   ⟨{ data := 1, writer := 4, dirty := true }, by decide +kernel⟩⟩

theorem wit_VinWindows_clauses :
    (∃ (v : Int),
    18500 < v) ∧
    (∃ (v : Int),
    18000 < v ∧ v ≤ 18500) ∧
    (∃ (v : Int),
    6100 ≤ v ∧ v ≤ 18000) ∧
    (∃ (v : Int),
    4500 ≤ v ∧ v < 6100) ∧
    (∃ (v : Int),
    4200 ≤ v ∧ v < 4500) ∧
    (∃ (v : Int),
    v < 4200) :=
  ⟨⟨18501, by decide +kernel⟩,
   ⟨18500, by decide +kernel⟩,
   ⟨6100, by decide +kernel⟩,
   ⟨4500, by decide +kernel⟩,
   ⟨4200, by decide +kernel⟩,
   ⟨4199, by decide +kernel⟩⟩

theorem wit_CauseRecord : ∃ (s : State) (cause : Nat) (rail : Nat) (same : Bool), cause < 10 :=
  ⟨{}, 5, 7, false, by decide +kernel⟩

theorem wit_CauseRecord_clauses :
    (∃ (cause : Nat) (same : Bool),
    cause < 10 ∧ same = false) ∧
    (∃ (cause : Nat) (same : Bool),
    cause < 10 ∧ same = true) :=
  ⟨⟨5, false, by decide +kernel⟩,
   ⟨5, true, by decide +kernel⟩⟩

theorem wit_RailRetry_clauses :
    (∃ (s : State),
    s.pwr.rail = .retry ∧ s.pwr.vaon = true ∧ s.pwr.trip = false ∧ s.pwr.back = 0 ∧ s.mari.asleep = 0 ∧ (5000 ≤ meanI s.pwr.vinS ∧ meanI s.pwr.vinS ≤ 18000)) ∧
    (∃ (s : State),
    s.pwr.rail = .retry ∧ (meanI s.pwr.vinS < 5000 ∨ 18000 < meanI s.pwr.vinS)) :=
  ⟨⟨{ pwr := { rail := .retry, vinS := [12000] } }, by decide +kernel⟩,
   ⟨{ pwr := { rail := .retry, vinS := [4000] } }, by decide +kernel⟩⟩

theorem wit_ThermalStates_clauses :
    (∃ (old : Nat) (t : Int),
    old ≤ 2 ∧ 115 ≤ t) ∧
    (∃ (old : Nat) (t : Int),
    old ≤ 2 ∧ 105 ≤ t ∧ t < 110) ∧
    (∃ (old : Nat) (t : Int),
    old ≤ 2 ∧ 110 ≤ t ∧ t < 115) ∧
    (∃ (old : Nat) (t : Int),
    old ≤ 2 ∧ 100 ≤ t ∧ t < 105) ∧
    (∃ (old : Nat) (t : Int),
    old ≤ 2 ∧ t < 100) :=
  ⟨⟨0, 115, by decide +kernel⟩,
   ⟨2, 105, by decide +kernel⟩,
   ⟨1, 110, by decide +kernel⟩,
   ⟨2, 100, by decide +kernel⟩,
   ⟨2, 99, by decide +kernel⟩⟩

theorem wit_WarnRecorded : ∃ (s : State) (l : List Int) (same : Bool), s.pwr.die = true ∧ l.length = 20 ∧ (∀ x ∈ l, -55 ≤ x ∧ x < 125) :=
  ⟨{}, List.replicate 20 106, false, by decide +kernel⟩

theorem wit_PointsFollow : ∃ (s : State) (q : VrReq) (res : Nat) (v : Nat) (w : Nat), (∀ k, SMap.get 0 s.pwr.supCeil k ≤ 2) ∧ s.pwr.thrCeil ≤ 2 ∧ w < 3 ∧ rdB s .mari 0x044 (20 + w) = false :=
  ⟨{}, { typ := 1, rail := 2, value := 180, seq := 3 }, 1, 180, 2, fun _ => Nat.zero_le 2, by decide +kernel, by decide, by decide +kernel⟩

theorem wit_VrBadFrames_clauses :
    (∃ (f : BitVec 32),
    vrOk f = false) ∧
    (∃ (s : State) (f : BitVec 32),
    s.pwr.die = true ∧ vrOk f = true ∧ 11 ≤ fld f 28 4) ∧
    (∃ (f : BitVec 32),
    fld f 28 4 < 8) :=
  ⟨⟨1, by decide +kernel⟩,
   ⟨{}, vrFrame 11 2 4 3, by decide +kernel⟩,
   ⟨vrFrame 7 2 4 3, by decide +kernel⟩⟩

theorem wit_VrAckEnds_clauses :
    (∃ (s : State) (f : BitVec 32) (q : VrReq),
    s.pwr.die = true ∧ vrOk f = true ∧ fld f 28 4 = 8 ∧ s.pwr.vr = some q ∧ q.seq = fld f 8 5 ∧ q.bad = 0 ∧ fld f 13 10 = ackValue s q ∧ q.why ≠ .mari ∧ q.typ ≠ 4) ∧
    (∃ (s : State) (f : BitVec 32) (q : VrReq),
    s.pwr.die = true ∧ vrOk f = true ∧ fld f 28 4 = 8 ∧ s.pwr.vr = some q ∧ q.seq = fld f 8 5 ∧ q.bad = 0 ∧ fld f 13 10 = ackValue s q ∧ q.why ≠ .mari ∧ q.typ = 4) :=
  ⟨⟨{ pwr := { vr := some { typ := 1, rail := 2, value := 180, seq := 3 } } }, vrFrame 8 2 180 3, { typ := 1, rail := 2, value := 180, seq := 3 }, by decide +kernel⟩,
   ⟨{ pwr := { vr := some { typ := 4, rail := 2, value := 180, seq := 3 }, level := [(2, 180)] } }, vrFrame 8 2 180 3, { typ := 4, rail := 2, value := 180, seq := 3 }, by decide +kernel⟩⟩

theorem wit_VrMari : ∃ (s : State) (f : BitVec 32) (n : Nat) (q : VrReq), s.pwr.die = true ∧ vrOk f = true ∧ s.pwr.vr = some q ∧ q.seq = fld f 8 5 ∧ q.bad = 0 ∧ q.why = .mari ∧ q.typ ≠ 4 :=
  ⟨{ pwr := { vr := some { typ := 1, rail := 16, value := 100, seq := 3, why := .mari } } }, vrFrame 8 16 100 3, 1, { typ := 1, rail := 16, value := 100, seq := 3, why := .mari }, by decide +kernel⟩

theorem wit_VrMari_clauses :
    (∃ (s : State) (f : BitVec 32) (q : VrReq),
    s.pwr.die = true ∧ vrOk f = true ∧ s.pwr.vr = some q ∧ q.seq = fld f 8 5 ∧ q.bad = 0 ∧ q.why = .mari ∧ q.typ ≠ 4 ∧ fld f 28 4 = 8 ∧ fld f 13 10 = ackValue s q ∧ (vrEnd s q 1 (fld f 13 10)).pwr.vr.map VrReq.seq ≠ some q.seq) ∧
    (∃ (s : State) (f : BitVec 32) (q : VrReq),
    s.pwr.die = true ∧ vrOk f = true ∧ s.pwr.vr = some q ∧ q.seq = fld f 8 5 ∧ q.bad = 0 ∧ q.why = .mari ∧ q.typ ≠ 4 ∧ fld f 28 4 = 9 ∧ fld f 13 10 = 4 ∧ (vrFail s q 4).pwr.vr.map VrReq.seq ≠ some q.seq) :=
  ⟨⟨{ pwr := { vr := some { typ := 1, rail := 16, value := 100, seq := 3, why := .mari } } }, vrFrame 8 16 100 3, { typ := 1, rail := 16, value := 100, seq := 3, why := .mari }, by decide +kernel⟩,
   ⟨{ pwr := { vr := some { typ := 1, rail := 16, value := 100, seq := 3, why := .mari } } }, vrFrame 9 16 4 3, { typ := 1, rail := 16, value := 100, seq := 3, why := .mari }, by decide +kernel⟩⟩

theorem wit_WakeCmd_clauses :
    (∃ (s : State),
    s.pwr.vaon = true ∧ s.wakeL.stage = 2 ∧ s.mari.asleep < 3 ∧ rdB s .mari 0x044 0 = false) ∧
    (∃ (s : State),
    s.pwr.vaon = true ∧ s.wakeL.stage = 2 ∧ (3 ≤ s.mari.asleep ∨ rdB s .mari 0x044 0 = true)) :=
  ⟨⟨{ wakeL := { stage := 2 } }, by decide +kernel⟩,
   ⟨{ wakeL := { stage := 2 }, mari := { asleep := 3 } }, by decide +kernel⟩⟩

theorem wit_PorstInStart : ∃ (s : State) (same : Bool), s.pwr.porst = true ∧ s.pwr.vaon = true ∧ s.pwr.back < 2 ∧ s.pwr.rail = .starting :=
  ⟨{ pwr := { rail := .starting } }, false, by decide +kernel⟩

theorem wit_BootShort : ∃ (s : State) (body : List Byte) (crc : BitVec 32), bootPort s = true ∧ body.length ≠ 1 :=
  ⟨{ sage := { phase := .push } }, [1, 2], 0, by decide +kernel⟩

theorem wit_BootLinkDown_clauses :
    (∃ (s : State),
    (rdF s (.pce 0) 0x044 0 2 ≠ 2 ∨ s.sage.bootif ≠ 1)) ∧
    (∃ (s : State),
    (rdF s .tylw 0x044 0 2 ≠ 2 ∨ s.sage.bootif ≠ 2)) :=
  ⟨⟨{}, by decide +kernel⟩,
   ⟨{}, by decide +kernel⟩⟩

theorem wit_DieResetHalt_clauses :
    (∃ (s : State) (straps : List (Fin 8)),
    s.pwr.die = false ∧ s.pwr.vaon = true ∧ (s.pwr.rail = .up ∨ s.pwr.rail = .starting) ∧ s.pwr.porst = true ∧ s.pwr.refOk = true ∧ s.pwr.back = 0 ∧ (strapRead straps).1 = 3) ∧
    (∃ (s : State) (straps : List (Fin 8)),
    s.pwr.die = false ∧ s.pwr.vaon = true ∧ (s.pwr.rail = .up ∨ s.pwr.rail = .starting) ∧ s.pwr.porst = true ∧ s.pwr.refOk = true ∧ s.pwr.back = 0 ∧ (strapRead straps).1 ≠ 3) :=
  ⟨⟨{ pwr := { die := false } }, List.replicate 8 3, by decide +kernel⟩,
   ⟨{ pwr := { die := false } }, List.replicate 8 4, by decide +kernel⟩⟩

theorem wit_StrapsSettle_clauses : ∃ (i : Nat) (l : List (Fin 8)),
    l.length = 8 ∧ (∃ x ∈ l, bitN x.val i = true) ∧ (∃ x ∈ l, bitN x.val i = false) :=
  ⟨0, [0, 0, 0, 0, 1, 0, 0, 0], by decide +kernel⟩

theorem wit_RstoutN_clauses : ∃ (s : State),
    s.pwr.rstAt = none :=
  ⟨{ pwr := { rstAt := none } }, by decide +kernel⟩

theorem wit_OpenReady_clauses :
    (∃ (s : State),
    lcState s.sage.shadow.lc = 4) ∧
    (∃ (s : State),
    lcState s.sage.shadow.lc ≠ 4 ∧ s.sage.bootif = 0) ∧
    (∃ (s : State),
    lcState s.sage.shadow.lc ≠ 4 ∧ (s.sage.bootif = 1 ∨ s.sage.bootif = 2)) ∧
    (∃ (u : State),
    u.sage.phase = .push ∧ u.sage.applying = false) :=
  ⟨⟨{ sage := { shadow := { lc := 8 } } }, by decide +kernel⟩,
   ⟨{}, by decide +kernel⟩,
   ⟨{ sage := { bootif := 1 } }, by decide +kernel⟩,
   ⟨{ sage := { phase := .push } }, by decide +kernel⟩⟩

theorem wit_BothSignatures : ∃ (s : State) (b : Bool), imgF s b 0x000 4 = 0x4D444E39 ∧ imgFormat s b = true ∧ (imgF s b 0x010 1 = 4 → lcState s.sage.shadow.lc = 0) ∧ (imgF s b 0x010 1 < 4 → lcState s.sage.shadow.lc ≠ 0 ∧ bitN s.sage.shadow.prog (imgF s b 0x010 1) = true) ∧ bitN s.sage.shadow.rev (imgF s b 0x010 1) = false ∧ sha384 (imgBytes s b 0x100 96 ++ imgBytes s b 0x200 1952) = keyHash s (imgF s b 0x010 1) :=
  ⟨{ (slotStore {} false 0 [0x39, 0x4E, 0x44, 0x4D, 1, 0, 0, 0, 128, 0, 0, 0, 0, 0, 0, 0, 0, 0xB0, 0xB0, 1, 1, 1, 1, 1, 1, 0, 0, 0, 0, 0, 0, 0, 0, 0, 0, 0, 64, 0, 0, 0, 0, 0, 0, 0, 64, 0, 0, 0, 64]) with sage := { shadow := { lc := 1, prog := 1, hash := [(0, sha384 (imgBytes (slotStore {} false 0 [0x39, 0x4E, 0x44, 0x4D, 1, 0, 0, 0, 128, 0, 0, 0, 0, 0, 0, 0, 0, 0xB0, 0xB0, 1, 1, 1, 1, 1, 1, 0, 0, 0, 0, 0, 0, 0, 0, 0, 0, 0, 64, 0, 0, 0, 0, 0, 0, 0, 64, 0, 0, 0, 64]) false 0x100 96 ++ imgBytes (slotStore {} false 0 [0x39, 0x4E, 0x44, 0x4D, 1, 0, 0, 0, 128, 0, 0, 0, 0, 0, 0, 0, 0, 0xB0, 0xB0, 1, 1, 1, 1, 1, 1, 0, 0, 0, 0, 0, 0, 0, 0, 0, 0, 0, 64, 0, 0, 0, 0, 0, 0, 0, 64, 0, 0, 0, 64]) false 0x200 1952))] } } }, false, by decide +kernel, by decide +kernel, by decide +kernel, by decide +kernel, by decide +kernel, by decide +kernel⟩

theorem wit_SlotChoice_clauses :
    (∃ (ra : Nat) (rb : Nat),
    ra = 0 ∧ rb ≠ 0) ∧
    (∃ (ra : Nat) (rb : Nat),
    ra ≠ 0 ∧ rb = 0) ∧
    (∃ (ra : Nat) (rb : Nat),
    ra ≠ 0 ∧ rb ≠ 0) ∧
    (∃ (s : State),
    imgF s false 0x00C 4 < imgF s true 0x00C 4) ∧
    (∃ (s : State),
    imgF s true 0x00C 4 ≤ imgF s false 0x00C 4) :=
  ⟨⟨0, 4, by decide +kernel⟩,
   ⟨4, 0, by decide +kernel⟩,
   ⟨4, 5, by decide +kernel⟩,
   ⟨slotStore {} true 0x00C [1], by decide +kernel⟩,
   ⟨{}, by decide +kernel⟩⟩

theorem wit_FeedOrder : ∃ (c : CvUnit) (tick : Nat) (l : List (Nat × Nat × Nat)) (r : List (Nat × Nat × Nat)), c.feeds = l ++ r ∧ (l.all fun f => decide (f.1 ≤ tick)) = true ∧ (r.head?.all fun f => decide (tick < f.1)) = true :=
  ⟨{ feeds := [(3, 8, 5), (9, 8, 5)] }, 5, [(3, 8, 5)], [(9, 8, 5)], by decide +kernel⟩

theorem wit_CheckUnit : ∃ (s : State) (e : Fin 512) (v : Word18), engUp s = true :=
  ⟨{ sage := { phase := .done } }, 511, 5, by decide +kernel⟩

theorem wit_ApRegisters : ∃ (s : State) (n : Fin 24) (r : Fin 32) (k : Fin 4096) (e : Fin 512) (t : Fin 4) (i : Fin 16) (x : Nat), tapOn s = true ∧ jtagActs s = 0x10 :=
  ⟨{ sage := { phase := .done }, jtag := { act := 0x10 } }, 23, 31, 0x405, 511, 3, 15, 5, by decide +kernel⟩

theorem wit_ApMemory : ∃ (s : State) (u : State) (a : BitVec 48) (n : Fin 65) (x : Nat) (env : MemEnv) (l : List Byte), tapOn s = true ∧ jtagActs s = 0x10 :=
  ⟨{ sage := { phase := .done }, jtag := { act := 0x10 } }, { sage := { phase := .done }, jtag := { act := 0x10 } }, 0x1000000, 65, 5, {}, [], by decide +kernel⟩

theorem wit_ApFuses : ∃ (s : State) (k : Fin 4), tapOn s = true ∧ jtagActs s = 0x11 :=
  ⟨{ sage := { phase := .done }, jtag := { act := 0x11 } }, 3, by decide +kernel⟩

theorem wit_PcieInBoot : ∃ (s : State) (isW : Bool) (key : BitVec 16) (fn : Fin 4) (bar2 : Bool) (addr : BitVec 64) (len : Fin 4097) (data : Nat), InReach s 0 isW len ∧ bootPcie s = true ∧ s.sage.phase ≠ .done :=
  ⟨wrB (wrF { sage := { phase := .push, bootif := 1 } } (.pce 0) 0x044 0 2 2) (.pce 0) 0x040 0 true, true, 0, 0, false, 4096, 4, 5, by decide +kernel⟩

theorem wit_PcieInBoot_clauses :
    (∃ (s : State) (isW : Bool) (fn : Fin 4) (bar2 : Bool) (addr : BitVec 64) (len : Fin 4097),
    let size := if bar2 = true then 2 ^ 12 else 2 ^ 23
    InReach s 0 isW len ∧ bootPcie s = true ∧ s.sage.phase ≠ .done ∧ (fn ≠ 0 ∨ size < addr.toNat + len.val)) ∧
    (∃ (s : State) (isW : Bool) (fn : Fin 4) (bar2 : Bool) (addr : BitVec 64) (len : Fin 4097),
    let size := if bar2 = true then 2 ^ 12 else 2 ^ 23
    InReach s 0 isW len ∧ bootPcie s = true ∧ s.sage.phase ≠ .done ∧ fn = 0 ∧ addr.toNat + len.val ≤ size ∧ isW = true) ∧
    (∃ (s : State) (isW : Bool) (fn : Fin 4) (bar2 : Bool) (addr : BitVec 64) (len : Fin 4097),
    let size := if bar2 = true then 2 ^ 12 else 2 ^ 23
    InReach s 0 isW len ∧ bootPcie s = true ∧ s.sage.phase ≠ .done ∧ fn = 0 ∧ addr.toNat + len.val ≤ size ∧ isW = false) :=
  ⟨⟨wrB (wrF { sage := { phase := .push, bootif := 1 } } (.pce 0) 0x044 0 2 2) (.pce 0) 0x040 0 true, true, 0, false, 0x7FFFFD, 4, by decide +kernel⟩,
   ⟨wrB (wrF { sage := { phase := .push, bootif := 1 } } (.pce 0) 0x044 0 2 2) (.pce 0) 0x040 0 true, true, 0, false, 0x7FFFFC, 4, by decide +kernel⟩,
   ⟨wrB (wrF { sage := { phase := .push, bootif := 1 } } (.pce 0) 0x044 0 2 2) (.pce 0) 0x040 0 true, false, 0, true, 0xFFC, 4, by decide +kernel⟩⟩

theorem wit_DramAsks : ∃ (s : State) (failed : BitVec 18), s.sage.phase = .done ∧ clocksOn s = true ∧ rdB s .dmc 0x040 0 = false ∧ rdB s .dmc 0x040 1 = false ∧ ackedLevel s 5 ≠ 180 :=
  ⟨{ sage := { phase := .done } }, 0, by decide +kernel⟩

theorem wit_FetchAligned : ∃ (z : State) (n : Fin 24) (fr : Front) (body : State → IRes), (Machine.core z n).run = .running ∧ (Machine.core z n).stall = false ∧ taken z n fr = none ∧ (Machine.core z n).tried = none ∧ (Machine.core z n).pc.toNat % 4 ≠ 0 :=
  ⟨{ cores := [(23, { run := .running, pc := 2 })] }, 23, {}, .stall, by decide +kernel, by decide +kernel, rfl, by decide +kernel, by decide +kernel⟩

theorem wit_StoreBusWaits : ∃ (s : State) (n : Fin 24) (e : Nat × Nat), (Machine.core s n).sbus = [e] :=
  ⟨{ cores := [(23, { run := .running, sbus := [(1, 64)], sys := [(0x400, 1)] })] }, 23, (1, 64), by decide +kernel⟩

theorem wit_StoreBusWaits_clauses :
    (∃ (s : State) (n : Fin 24) (e : Nat × Nat),
    (Machine.core s n).sbus = [e] ∧ level s n ≤ e.1 ∧ ¬ (level s n = storeBusLevel s n e.1 ∧ statusEG s n = true)) ∧
    (∃ (s : State) (n : Fin 24) (e : Nat × Nat),
    (Machine.core s n).sbus = [e] ∧ e.1 < level s n) ∧
    (∃ (s : State) (n : Fin 24) (e : Nat × Nat),
    (Machine.core s n).sbus = [e] ∧ level s n = storeBusLevel s n e.1 ∧ statusEG s n = true) :=
  ⟨⟨{ cores := [(23, { run := .running, sbus := [(1, 64)], sys := [(0x400, 1)] })] }, 23, (1, 64), by decide +kernel⟩,
   ⟨{ cores := [(23, { run := .running, sbus := [(1, 64)] })] }, 23, (1, 64), by decide +kernel⟩,
   ⟨{ cores := [(23, { run := .running, sbus := [(1, 64)], sys := [(0x400, 9)] })] }, 23, (1, 64), by decide +kernel⟩⟩

theorem wit_FetchHeld : ∃ (z : State) (n : Fin 24) (fr : Front) (y : L2Line), level z n = 3 ∧ (Machine.core z n).tried = none ∧ (Machine.core z n).pc.toNat % 4 = 0 ∧ (Machine.core z n).pc.toNat < 2 ^ 48 ∧ inMem z (Machine.core z n).pc.toNat = true ∧ l1Has (Machine.core z n).l1i ((Machine.core z n).pc.toNat / 64) = true ∧ (envAt fr.env ((Machine.core z n).pc.toNat / 64)).l1i = false ∧ l2Line z (clusterOfCore n) ((Machine.core z n).pc.toNat / 64) = some y ∧ y.poison = false ∧ ((Machine.core z n).served.all fun x => !x.fetch) = true ∧ fr.ahead = [] :=
  ⟨aMem, 23, {}, { data := 0, writer := 0 }, by decide +kernel⟩

theorem wit_ConversionEdges : ∃ (w : Nat) (signed : Bool) (rm : Nat), w = 32 ∨ w = 64 :=
  ⟨32, true, 1, by decide +kernel⟩

theorem wit_ConversionEdges_clauses :
    (∃ (w : Nat) (signed : Bool) (rm : Nat) (m : Nat) (e : Int),
    let hi : Nat := if signed then 2 ^ (w - 1) - 1 else 2 ^ w - 1
    (w = 32 ∨ w = 64) ∧ hi < (roundTo rm false m e 0 false).1) ∧
    (∃ (w : Nat) (signed : Bool) (rm : Nat) (m : Nat) (e : Int),
    let lo : Nat := if signed then 2 ^ (w - 1) else 0
    (w = 32 ∨ w = 64) ∧ lo < (roundTo rm true m e 0 false).1) ∧
    (∃ (w : Nat) (rm : Nat) (m : Nat) (e : Int),
    (w = 32 ∨ w = 64) ∧ (roundTo rm true m e 0 false).1 = 0) :=
  ⟨⟨32, true, 1, 1, 31, by decide +kernel⟩,
   ⟨32, true, 1, 2147483649, 0, by decide +kernel⟩,
   ⟨32, 1, 1, -2, by decide +kernel⟩⟩

theorem wit_Untranslated : ∃ (s : State) (n : Fin 24) (va : Nat) (acc : Acc) (env : MemEnv), va < 2 ^ 48 ∧ level s n = 3 ∨ (level s n = 2 ∧ bit (sysr s n 0x809) 0 = false) :=
  ⟨{ cores := [(23, { run := .running })] }, 23, 0xFFFFFFFFFFFF, .write, {}, by decide +kernel⟩

theorem wit_Forwarded : ∃ (s : State) (n : Fin 24) (p : Machine.Part) (env : MemEnv) (x : StoreEnt) (l : List StoreEnt) (r : List StoreEnt), (Machine.core s n).sb = l ++ x :: r ∧ x.ty ≠ 0 ∧ p.ty ≠ 0 ∧ x.pa ≤ p.pa ∧ p.pa + p.len ≤ x.pa + x.len ∧ 0 < p.len ∧ (∀ y ∈ r, y.ty = 0 ∨ p.pa + p.len ≤ y.pa ∨ y.pa + y.len ≤ p.pa) :=
  ⟨{ cores := [(23, { run := .running, sb := [{ pa := 0x1000100, len := 8, data := 7, ty := 2, lvl := 3, attr := {} }] })] }, 23, { pa := 0x1000104, len := 4, ty := 2, walked := false }, {}, { pa := 0x1000100, len := 8, data := 7, ty := 2, lvl := 3, attr := {} }, [], [], by decide +kernel⟩

theorem wit_LoadCauses : ∃ (s : State) (u : State) (v : State) (n : Fin 24) (reg : Nat) (ea : Nat) (len : Nat) (env : MemEnv) (ps : List Machine.Part) (r : Rd), xlatSpan (noteServed s n ea len) n ea len .read env = .ok u ps :=
  ⟨aMem, (((xrOk (xlatSpan (noteServed aMem 23 0x1000100 4) 23 0x1000100 4 .read {})).getD ({}, []))).1, (aLoad 4).1, 23, 1, 0x1000100, 4, {}, ((xrOk (xlatSpan (noteServed aMem 23 0x1000100 4) 23 0x1000100 4 .read {})).getD ({}, [])).2, { data := 0 }, xr_ok _ _ _ (by decide +kernel)⟩

theorem wit_StoreBuffered : ∃ (s : State) (v : State) (n : Fin 24) (ea : Nat) (len : Nat) (data : Nat) (env : MemEnv) (x : Xlat), (Machine.core s n).got = [] ∧ len ≤ 64 - ea % 64 ∧ xlatNoted s n ea .write env = .ok v x ∧ (ea % len = 0 ∨ x.ty ≠ 0) ∧ (Machine.core v n).sb.length ≤ 47 :=
  ⟨aMem, aMem, 23, 0x1000101, 8, 5, {}, { pa := 0x1000101, ty := 2 }, by decide +kernel, by decide, xr_ok _ _ _ (by decide +kernel), by decide +kernel, by decide +kernel⟩

theorem wit_EntrySaves : ∃ (s : State) (n : Fin 24) (t : Nat) (epc : Word64) (cause : Word64) (eaddr : Word64) (egpa : Option Nat) (thr : Option Nat) (off : Nat), 1 ≤ t ∧ t ≤ 3 ∧ (t = 3 → thr = none) ∧ (∀ p, thr = some p → p < 16) ∧ (t ≠ 2 → egpa = none) :=
  ⟨{ cores := [(23, { run := .running })] }, 23, 2, 5, 6, 7, some 4096, some 15, 0x200, by decide +kernel⟩

theorem wit_ReturnStack : ∃ (s : State) (n : Fin 24) (r : RetEnt) (rest : List RetEnt) (npc : Word64) (fr : Front), (Machine.core s n).rets = r :: rest :=
  ⟨{ cores := [(23, { run := .running, rets := [{ lvl := 3, did := 0, pc := 64 }] })] }, 23, { lvl := 3, did := 0, pc := 64 }, [], 68, {}, by decide +kernel⟩

theorem wit_ReturnStack_clauses :
    (∃ (s : State) (n : Fin 24) (r : RetEnt) (rest : List RetEnt),
    (Machine.core s n).rets = r :: rest ∧ r.lvl = level s n ∧ r.did = coreDid s n) ∧
    (∃ (s : State) (n : Fin 24) (r : RetEnt) (rest : List RetEnt),
    (Machine.core s n).rets = r :: rest ∧ (r.lvl ≠ level s n ∨ r.did ≠ coreDid s n)) :=
  ⟨⟨{ cores := [(23, { run := .running, rets := [{ lvl := 3, did := 0, pc := 64 }] })] }, 23, { lvl := 3, did := 0, pc := 64 }, [], by decide +kernel⟩,
   ⟨{ cores := [(23, { run := .running, rets := [{ lvl := 0, did := 4, pc := 64 }] })] }, 23, { lvl := 0, did := 4, pc := 64 }, [], by decide +kernel⟩⟩

theorem wit_RegisterRowsLeave : ∃ (c : Instr) (z : State) (s : State) (u : State) (n : Fin 24) (fr : Front) (fe : List Nat) (d : Option (Fin 32)) (f : Option (Fin 32)), wRegisterRow c = some (n, d, f, fr) ∧ Issues z n fr fe s ∧ exec c z = .next u :=
  ⟨.wAdd 23 31 1 2 {}, aMem, aMem, after (exec (.wAdd 23 31 1 2 {}) aMem), 23, {}, [], some 31, none, rfl, by decide +kernel, next_after _ (by decide +kernel)⟩

theorem wit_FetchLeaves : ∃ (z : State) (s : State) (n : Fin 24) (m : Fin 24) (fr : Front) (fe : List Nat) (r : Fin 32) (k : Nat), fetched z n fr = some (s, fe) :=
  ⟨aMem, aMem, 23, 22, {}, [], 31, 0x400, by decide +kernel⟩

theorem wit_LineFillAhead : ∃ (s : State) (t : State) (u : State) (n : Fin 24) (va : Nat) (env : MemEnv) (x : Xlat) (y : L2Line) (m : Bool) (evs : List Nat), (Machine.core s n).run = .running ∧ x.ty = 2 :=
  ⟨aMem, aMem, {}, 23, 0x1000000, {}, { pa := 0x1000000, ty := 2 }, { data := 0, writer := 0 }, false, [], by decide +kernel⟩

theorem wit_ShiftFollows_clauses :
    (∃ (c : Nat),
    c = 0) ∧
    (∃ (c : Nat),
    0 < c ∧ c ≤ 18) ∧
    (∃ (c : Nat),
    18 < c) ∧
    (∃ (c : Nat),
    0 < c) :=
  ⟨⟨0, by decide +kernel⟩,
   ⟨18, by decide +kernel⟩,
   ⟨19, by decide +kernel⟩,
   ⟨1, by decide +kernel⟩⟩

theorem wit_ProductFollows_clauses : ∃ (x : Word18) (y : Word18),
    (x ≠ 0o400000 ∨ y ≠ 0o400000) :=
  ⟨0o400000, 0o377777, by decide +kernel⟩

theorem wit_DivisionFollows_clauses :
    (∃ (b : Word18),
    b ≠ 0) ∧
    (∃ (b : Word18),
    b = 0) :=
  ⟨⟨3, by decide +kernel⟩,
   ⟨0, by decide +kernel⟩⟩

theorem wit_AccReserved_clauses :
    (∃ (s : State) (e : Fin 512) (t : Fin 4) (a : Fin 16),
    Ready s e t ∧ 2 ≤ a.val) ∧
    (∃ (s : State) (e : Fin 512) (t : Fin 4) (a : Fin 16),
    Ready s e t ∧ 3 ≤ a.val) ∧
    (∃ (s : State) (e : Fin 512) (t : Fin 4) (a : Fin 16) (sh : Fin 64),
    Ready s e t ∧ (2 ≤ a.val ∨ 44 ≤ sh.val)) :=
  ⟨⟨{ sage := { phase := .done }, engines := [(511, { thr := [(3, { st := 1 })] })] }, 511, 3, 2, by decide +kernel⟩,
   ⟨{ sage := { phase := .done }, engines := [(511, { thr := [(3, { st := 1 })] })] }, 511, 3, 3, by decide +kernel⟩,
   ⟨{ sage := { phase := .done }, engines := [(511, { thr := [(3, { st := 1 })] })] }, 511, 3, 0, 44, by decide +kernel⟩⟩

theorem wit_CrSets_clauses :
    (∃ (v : Word18),
    fld v 5 2 ≠ 3) ∧
    (∃ (v : Word18),
    bit v 0 = false) :=
  ⟨⟨0, by decide +kernel⟩,
   ⟨2, by decide +kernel⟩⟩

theorem wit_LoopReserved_clauses :
    (∃ (s : State) (e : Fin 512) (t : Fin 4) (k : Fin 16) (target : Word18),
    ReadyCt s e t ∧ (bit target 0 = true ∨ 3 ≤ k.val)) ∧
    (∃ (s : State) (e : Fin 512) (t : Fin 4) (target : Word18),
    ReadyCt s e t ∧ bit target 0 = true) ∧
    (∃ (s : State) (e : Fin 512) (t : Fin 4) (k : Fin 16) (target : Word18),
    ReadyCt s e t ∧ bit target 0 = false ∧ k.val < 3 ∧ target.toNat < ((bodyThr s e t).pc + 2).toNat) :=
  ⟨⟨{ sage := { phase := .done }, engines := [(511, { thr := [(3, { st := 1 })] })] }, 511, 3, 0, 1, by decide +kernel⟩,
   ⟨{ sage := { phase := .done }, engines := [(511, { thr := [(3, { st := 1 })] })] }, 511, 3, 1, by decide +kernel⟩,
   ⟨{ sage := { phase := .done }, engines := [(511, { thr := [(3, { st := 1 })] })] }, 511, 3, 2, 0, by decide +kernel⟩⟩

theorem wit_LoopBack_clauses :
    (∃ (th : NgThread) (k : Fin 3) (x : Word18),
    bit th.sw (12 + k.val) = true ∧ SMap.get 0 th.lpE k = x ∧ (List.range 3).all (fun j => decide (j ≤ k.val) || !(bit th.sw (12 + j) && decide (SMap.get 0 th.lpE j = x))) = true ∧ 1 < (SMap.get 0 th.lpC k).toNat) ∧
    (∃ (th : NgThread) (k : Fin 3) (x : Word18),
    bit th.sw (12 + k.val) = true ∧ SMap.get 0 th.lpE k = x ∧ (List.range 3).all (fun j => decide (j ≤ k.val) || !(bit th.sw (12 + j) && decide (SMap.get 0 th.lpE j = x))) = true ∧ (SMap.get 0 th.lpC k).toNat ≤ 1) :=
  ⟨⟨{ sw := 0x7000, lpE := [(2, 6)], lpC := [(2, 2)], lpS := [(2, 4)] }, 2, 6, by decide +kernel⟩,
   ⟨{ sw := 0x7000, lpE := [(2, 6)], lpC := [(2, 1)], lpS := [(2, 4)] }, 2, 6, by decide +kernel⟩⟩

theorem wit_Traps_clauses :
    (∃ (s : State) (e : Fin 512) (t : Fin 4),
    let th := slotThr s e t
    Ready s e t ∧ th.dslot.isSome = true) ∧
    (∃ (s : State) (e : Fin 512) (t : Fin 4),
    let th := slotThr s e t
    Ready s e t ∧ th.dslot = none ∧ activeEnd th th.pc = true) ∧
    (∃ (s : State) (e : Fin 512) (t : Fin 4),
    let th := slotThr s e t
    Ready s e t ∧ th.dslot = none ∧ activeEnd th th.pc = false ∧ activeEnd th (th.pc + 2) = true) :=
  ⟨⟨{ sage := { phase := .done }, engines := [(511, { thr := [(3, { st := 1, dslot := some (6, false) })] })] }, 511, 3, by decide +kernel⟩,
   ⟨{ sage := { phase := .done }, engines := [(511, { thr := [(3, { st := 1, sw := 0x1000 })] })] }, 511, 3, by decide +kernel⟩,
   ⟨{ sage := { phase := .done }, engines := [(511, { thr := [(3, { st := 1, sw := 0x1000, lpE := [(0, 2)] })] })] }, 511, 3, by decide +kernel⟩⟩

theorem wit_SigReserved_clauses :
    (∃ (s : State) (e : Fin 512) (t : Fin 4) (src : Fin 64),
    Ready s e t ∧ (src.val < 32 ∨ 48 ≤ src.val)) ∧
    (∃ (s : State) (e : Fin 512) (t : Fin 4) (src : Fin 64),
    Ready s e t ∧ 57 ≤ src.val) :=
  ⟨⟨{ sage := { phase := .done }, engines := [(511, { thr := [(3, { st := 1 })] })] }, 511, 3, 48, by decide +kernel⟩,
   ⟨{ sage := { phase := .done }, engines := [(511, { thr := [(3, { st := 1 })] })] }, 511, 3, 57, by decide +kernel⟩⟩

theorem wit_MemTraps_clauses :
    (∃ (s : State) (e : Fin 512) (t : Fin 4) (mode : Fin 6) (a : Fin 16) (imm : Word18),
    Ready s e t ∧ modeRsvd mode a imm = true) ∧
    (∃ (s : State) (e : Fin 512) (t : Fin 4) (d : Fin 16),
    Ready s e t ∧ d.val % 2 = 1) ∧
    (∃ (s : State) (e : Fin 512) (t : Fin 4) (d : Fin 16),
    Ready s e t ∧ d.val % 4 ≠ 0) ∧
    (∃ (s : State) (e : Fin 512) (t : Fin 4) (d : Fin 16) (mode : Fin 6) (a : Fin 16) (imm : Word18),
    let ea := eaOf s e t mode a imm
    Ready s e t ∧ modeRsvd mode a imm = false ∧ d.val % 4 = 0 ∧ ea % 2 = 1) ∧
    (∃ (s : State) (e : Fin 512) (t : Fin 4) (d : Fin 16) (mode : Fin 6) (a : Fin 16) (imm : Word18),
    let ea := eaOf s e t mode a imm
    Ready s e t ∧ modeRsvd mode a imm = false ∧ d.val % 4 = 0 ∧ ea % 4 ≠ 0) ∧
    (∃ (s : State) (e : Fin 512) (t : Fin 4) (mode : Fin 6) (a : Fin 16) (imm : Word18),
    let ea := eaOf s e t mode a imm
    Ready s e t ∧ modeRsvd mode a imm = false ∧ (0o100000 ≤ ea ∧ ea < 0o110000) ∨ 0o115000 ≤ ea) ∧
    (∃ (s : State) (e : Fin 512) (t : Fin 4) (d : Fin 16) (mode : Fin 6) (a : Fin 16) (imm : Word18),
    let ea := eaOf s e t mode a imm
    Ready s e t ∧ modeRsvd mode a imm = false ∧ d.val % 4 = 0 ∧ 0o100000 ≤ ea ∧ ea % 4 = 0) :=
  ⟨⟨{ sage := { phase := .done }, engines := [(511, { thr := [(3, { st := 1, n := [(1, 8), (2, 9), (3, 0o100000), (4, 10)] })] })] }, 511, 3, 5, 7, 0, by decide +kernel⟩,
   ⟨{ sage := { phase := .done }, engines := [(511, { thr := [(3, { st := 1, n := [(1, 8), (2, 9), (3, 0o100000), (4, 10)] })] })] }, 511, 3, 5, by decide +kernel⟩,
   ⟨{ sage := { phase := .done }, engines := [(511, { thr := [(3, { st := 1, n := [(1, 8), (2, 9), (3, 0o100000), (4, 10)] })] })] }, 511, 3, 6, by decide +kernel⟩,
   ⟨{ sage := { phase := .done }, engines := [(511, { thr := [(3, { st := 1, n := [(1, 8), (2, 9), (3, 0o100000), (4, 10)] })] })] }, 511, 3, 4, 0, 2, 0, by decide +kernel⟩,
   ⟨{ sage := { phase := .done }, engines := [(511, { thr := [(3, { st := 1, n := [(1, 8), (2, 9), (3, 0o100000), (4, 10)] })] })] }, 511, 3, 4, 0, 4, 0, by decide +kernel⟩,
   ⟨{ sage := { phase := .done }, engines := [(511, { thr := [(3, { st := 1, n := [(1, 8), (2, 9), (3, 0o100000), (4, 10)] })] })] }, 511, 3, 0, 3, 0, by decide +kernel⟩,
   ⟨{ sage := { phase := .done }, engines := [(511, { thr := [(3, { st := 1, n := [(1, 8), (2, 9), (3, 0o100000), (4, 10)] })] })] }, 511, 3, 4, 0, 3, 0, by decide +kernel⟩⟩

theorem wit_FabricTraps_clauses :
    (∃ (s : State) (e : Fin 512) (t : Fin 4) (mode : Fin 6) (a : Fin 16) (imm : Word18),
    let ea := eaOf s e t mode a imm
    Ready s e t ∧ modeRsvd mode a imm = false ∧ 0o600000 ≤ ea ∧ 4 ≤ (bodyThr s e t).rq.length) ∧
    (∃ (s : State) (e : Fin 512) (t : Fin 4) (mode : Fin 6) (a : Fin 16) (imm : Word18),
    let ea := eaOf s e t mode a imm
    Ready s e t ∧ modeRsvd mode a imm = false ∧ 0o600000 ≤ ea ∧ 4 ≤ postedWrites (checked s e t) e t) ∧
    (∃ (s : State) (e : Fin 512) (t : Fin 4) (mode : Fin 6) (a : Fin 16) (imm : Word18),
    let ea := eaOf s e t mode a imm
    Ready s e t ∧ modeRsvd mode a imm = false ∧ ea < 0o600000) ∧
    (∃ (s : State) (e : Fin 512) (t : Fin 4) (mode : Fin 6) (a : Fin 16) (imm : Word18),
    let ea := eaOf s e t mode a imm
    Ready s e t ∧ modeRsvd mode a imm = false ∧ (ea < 0o200000 ∨ 0o600000 ≤ ea)) ∧
    (∃ (s : State) (e : Fin 512) (t : Fin 4) (mode : Fin 6) (a : Fin 16) (imm : Word18),
    let ea := eaOf s e t mode a imm
    Ready s e t ∧ modeRsvd mode a imm = false ∧ portSlot ea = none) :=
  ⟨⟨{ sage := { phase := .done }, engines := [(511, { thr := [(3, { st := 1, n := [(1, 0o600000)], rq := List.replicate 4 { id := 0 } })] })] }, 511, 3, 0, 1, 0, by decide +kernel⟩,
   ⟨{ ({ sage := { phase := .done }, engines := [(511, { thr := [(3, { st := 1, n := [(1, 0o600000)] })] })] } : State) with fab := { txns := [0, 1, 2, 3].map fun i => { id := i, req := { master := .engine 511, op := .write, addr := 0x1000000, len := 8, be := 255, data := 0, cls := 2, pid := 0 }, attr := {}, lvl := 0, purp := .fwr 3, status := .posted } } }, 511, 3, 0, 1, 0, by decide +kernel⟩,
   ⟨{ sage := { phase := .done }, engines := [(511, { thr := [(3, { st := 1, n := [(1, 0o600000), (2, 0o577777)] })] })] }, 511, 3, 0, 2, 0, by decide +kernel⟩,
   ⟨{ sage := { phase := .done }, engines := [(511, { thr := [(3, { st := 1, n := [(1, 0o600000), (2, 0o577777)] })] })] }, 511, 3, 0, 1, 0, by decide +kernel⟩,
   ⟨{ sage := { phase := .done }, engines := [(511, { thr := [(3, { st := 1, n := [(1, 0o600000), (2, 0o577777)] })] })] }, 511, 3, 0, 1, 0, by decide +kernel⟩⟩

theorem wit_RunHalt_clauses :
    (∃ (s : State) (e : Fin 512) (t : Fin 4) (v : Word18),
    threadExists s e t = true ∧ s.mari.stopped.contains (16 + e.val / 16) = false ∧ (thr s e t).st = 0 ∧ (bit v 0 = true ∨ bit v 2 = true)) ∧
    (∃ (s : State) (e : Fin 512) (t : Fin 4) (v : Word18),
    threadExists s e t = true ∧ s.mari.stopped.contains (16 + e.val / 16) = false ∧ (thr s e t).st = 0 ∧ bit v 0 = false ∧ bit v 2 = false) ∧
    (∃ (s : State) (e : Fin 512) (t : Fin 4) (v : Word18),
    threadExists s e t = true ∧ s.mari.stopped.contains (16 + e.val / 16) = false ∧ (thr s e t).st = 2 ∧ bit v 1 = true) ∧
    (∃ (s : State) (e : Fin 512) (t : Fin 4) (v : Word18),
    threadExists s e t = true ∧ s.mari.stopped.contains (16 + e.val / 16) = false ∧ (thr s e t).st = 1 ∨ (thr s e t).st = 3 ∧ bit v 1 = true) ∧
    (∃ (s : State) (e : Fin 512) (t : Fin 4) (v : Word18),
    threadExists s e t = true ∧ s.mari.stopped.contains (16 + e.val / 16) = false ∧ (thr s e t).st ≠ 0 ∧ bit v 1 = false) :=
  ⟨⟨{ sage := { phase := .done } }, 511, 3, 4, by decide +kernel⟩,
   ⟨{ sage := { phase := .done } }, 511, 3, 2, by decide +kernel⟩,
   ⟨{ sage := { phase := .done }, engines := [(511, { thr := [(3, { st := 2 })] })] }, 511, 3, 2, by decide +kernel⟩,
   ⟨{ sage := { phase := .done }, engines := [(511, { thr := [(3, { st := 3 })] })] }, 511, 3, 2, by decide +kernel⟩,
   ⟨{ sage := { phase := .done }, engines := [(511, { thr := [(3, { st := 1 })] })] }, 511, 3, 1, by decide +kernel⟩⟩

theorem wit_HeadRead_clauses :
    (∃ (s : State) (e : Sys2Proof.Machine.FerrEntry) (r : List Sys2Proof.Machine.FerrEntry),
    s.fab.ferr = e :: r) ∧
    (∃ (s : State),
    s.fab.ferr = []) :=
  ⟨⟨{ fab := { ferr := [{ addr := 5, op := 0, kind := 1, master := 3, attr := {}, time := 9 }] } }, { addr := 5, op := 0, kind := 1, master := 3, attr := {}, time := 9 }, [], by decide +kernel⟩,
   ⟨{}, by decide +kernel⟩⟩

theorem wit_EffSlices_clauses :
    (∃ (s : State) (p : Page) (v : Reg32),
    bindable p = true ∧ blkBusy (plainWrite s p 0x008 v) p = true) ∧
    (∃ (s : State) (p : Page) (v : Reg32),
    bindable p = true ∧ bit v 1 = true ∧ blkBusy (plainWrite s p 0x008 v) p = false) :=
  ⟨⟨wrB {} (.pc 255) 0x00C 3 true, .pc 255, 2, by decide +kernel⟩,
   ⟨{}, .pc 255, 2, by decide +kernel⟩⟩

theorem wit_LineFollows_clauses :
    (∃ (s : State) (p : Page) (f : State → State) (k : Nat),
    sourceOf p = some k ∧ lineUp s p = false ∧ lineUp (f s) p = true) ∧
    (∃ (s : State) (p : Page) (f : State → State) (k : Nat),
    sourceOf p = some k ∧ lineUp s p = true ∧ lineUp (f s) p = false) ∧
    (∃ (s : State) (p : Page) (f : State → State) (k : Nat),
    sourceOf p = some k ∧ lineUp (f s) p = lineUp s p) :=
  ⟨⟨{}, .supv, fun s => wr (wr s .supv 0x010 1) .supv 0x014 1, (sourceOf .supv).get!, by decide +kernel⟩,
   ⟨wr (wr {} .supv 0x010 1) .supv 0x014 1, .supv, fun s => wr s .supv 0x010 0, (sourceOf .supv).get!, by decide +kernel⟩,
   ⟨{}, .supv, id, (sourceOf .supv).get!, by decide +kernel⟩⟩

theorem wit_BridgeOrder_clauses :
    (∃ (s : State) (m : Master) (lvl : Fin 4) (p : Page) (off : Nat) (v : Reg32),
    let q := wq s m lvl p off v
    let cur := regView s q p off
    privReq q = false ∧ wouldChange cur v (rwhMask p off) (woMask p off) = true) ∧
    (∃ (s : State) (m : Master) (lvl : Fin 4) (p : Page) (off : Nat) (v : Reg32),
    let q := wq s m lvl p off v
    let cur := regView s q p off
    (privReq q = true ∨ wouldChange cur v (rwhMask p off) (woMask p off) = false) ∧ rdB s p 0x008 3 = true ∧ wouldChange cur v (lockMask p off) (woMask p off) = true) ∧
    (∃ (s : State) (m : Master) (lvl : Fin 4) (p : Page) (off : Nat) (v : Reg32),
    let q := wq s m lvl p off v
    let cur := regView s q p off
    (privReq q = true ∨ wouldChange cur v (rwhMask p off) (woMask p off) = false) ∧ (rdB s p 0x008 3 = false ∨ wouldChange cur v (lockMask p off) (woMask p off) = false) ∧ blkBusy s p = true ∧ 0x040 ≤ off) ∧
    (∃ (s : State) (m : Master) (lvl : Fin 4) (p : Page) (off : Nat) (v : Reg32),
    let q := wq s m lvl p off v
    privReq q = true ∧ rdB s p 0x008 3 = false ∧ blkBusy s p = false ∧ 0x040 ≤ off) ∧
    (∃ (s : State) (m : Master) (lvl : Fin 4) (p : Page) (off : Nat) (v : Reg32),
    let q := wq s m lvl p off v
    privReq q = true ∧ rdB s p 0x008 3 = false ∧ blkBusy s p = false ∧ off < 0x040 ∧ off ≠ 0x008 ∧ off ≠ 0x030) ∧
    (∃ (s : State) (m : Master) (lvl : Fin 4) (p : Page) (off : Nat) (v : Reg32),
    let q := wq s m lvl p off v
    privReq q = true ∧ rdB s p 0x008 3 = false ∧ (bit v 1 = true ∧ capSR p = false ∨ bit v 2 = true ∧ capAW p = false)) :=
  ⟨⟨{ sage := { phase := .done } }, .core 23, 1, .ckrs, 0x044, 5, by decide +kernel⟩,
   ⟨{ (wrB {} .ckrs 0x008 3 true) with sage := { phase := .done } }, .core 23, 2, .ckrs, 0x044, 5, by decide +kernel⟩,
   ⟨{ (wrB {} .ckrs 0x00C 3 true) with sage := { phase := .done } }, .core 23, 2, .ckrs, 0x044, 5, by decide +kernel⟩,
   ⟨{ sage := { phase := .done } }, .core 23, 2, .ckrs, 0x044, 5, by decide +kernel⟩,
   ⟨{ sage := { phase := .done } }, .core 23, 2, .ckrs, 0x014, 5, by decide +kernel⟩,
   ⟨{ sage := { phase := .done } }, .core 23, 2, .bist, 0x044, 2, by decide +kernel⟩⟩

theorem wit_LateAnswer_clauses :
    (∃ (s : State) (q : RegReq),
    let u := creditBack s q.attr.did (regOld s q)
    fresh u q.m q.attr = false) ∧
    (∃ (s : State) (q : RegReq),
    let u := creditBack s q.attr.did (regOld s q)
    fresh u q.m q.attr = true ∧ q.direct = true) ∧
    (∃ (s : State) (q : RegReq) (n : Fin 24),
    let u := creditBack s q.attr.did (regOld s q)
    fresh u q.m q.attr = true ∧ q.direct = false ∧ q.m = .core n ∧ q.data = none) ∧
    (∃ (s : State) (q : RegReq) (n : Fin 24) (v : Reg32),
    let u := creditBack s q.attr.did (regOld s q)
    fresh u q.m q.attr = true ∧ q.direct = false ∧ q.m = .core n ∧ q.data = some v) :=
  ⟨⟨{}, { m := .core 23, attr := { gen := 1 }, lvl := 3, addr := 0x10000000, single := true, data := none, direct := false }, by decide +kernel⟩,
   ⟨{}, { m := .core 23, attr := { gen := 0 }, lvl := 3, addr := 0x10000000, single := true, data := none, direct := true }, by decide +kernel⟩,
   ⟨{}, { m := .core 23, attr := { gen := 0 }, lvl := 3, addr := 0x10000000, single := true, data := none, direct := false }, 23, by decide +kernel⟩,
   ⟨{}, { m := .core 23, attr := { gen := 0 }, lvl := 3, addr := 0x10000000, single := true, data := some 5, direct := false }, 23, 5, by decide +kernel⟩⟩

theorem wit_FaultEntry_clauses :
    (∃ (s : State),
    s.faultLog.length < 16) ∧
    (∃ (s : State),
    16 ≤ s.faultLog.length) :=
  ⟨⟨{}, by decide +kernel⟩,
   ⟨{ faultLog := List.replicate 16 { slot := 1, code := 1, cls := 1, action := 0, attr := {}, detail := 0, time := 0 } }, by decide +kernel⟩⟩

theorem wit_ApReach_clauses :
    (∃ (s : State) (a : Nat),
    (regionOf s a = some .dram ∨ regionOf s a = some .sram)) ∧
    (∃ (s : State) (a : Nat),
    (regionOf s a = some .secure ∨ regionOf s a = some .rom)) ∧
    (∃ (s : State) (a : Nat),
    regionOf s a = none) :=
  ⟨⟨{}, 0x1000000, by decide +kernel⟩,
   ⟨{}, 0, by decide +kernel⟩,
   ⟨{}, 0x2000000, by decide +kernel⟩⟩

theorem wit_ApNotActing_clauses :
    (∃ (s : State),
    jtagActs s ≠ 0x10) ∧
    (∃ (s : State),
    jtagActs s ≠ 0x11) :=
  ⟨⟨{}, by decide +kernel⟩,
   ⟨{}, by decide +kernel⟩⟩

theorem wit_BistStarts_clauses :
    (∃ (s : State) (b : BistRun),
    (s.bist ≠ none ∨ bistReady s b = false)) ∧
    (∃ (s : State) (b : BistRun),
    s.bist = none ∧ bistReady s b = true ∧ b.typ ≠ 2) :=
  ⟨⟨{ sage := { phase := .done } }, { typ := 0, index := 0, kind := 0 }, by decide +kernel⟩,
   ⟨{ sage := { phase := .done } }, { typ := 1, index := 23, kind := 0 }, by decide +kernel⟩⟩

theorem wit_TylAck_clauses : ∃ (s : State) (seq : BitVec 8) (a : List Flit) (b : List Flit) (x : Flit),
    tylState s ≠ 0 ∧ splitSeq s.tyl.replay seq.toNat = (a, x :: b) ∧ a.length < s.tyl.replay.length :=
  ⟨wrF { tyl := { replay := [{ typ := 5, dst := 1, seq := 9, load := [] }] } } .tylw 0x044 0 2 2, 9, [], [], { typ := 5, dst := 1, seq := 9, load := [] }, by decide +kernel⟩

theorem wit_EthTx_clauses : ∃ (s : State) (m : Fin 8) (stamp : BitVec 64) (q : Nat),
    ethLive s m = true ∧ stampOk s stamp.toNat = true ∧ laneNow s m = none ∧ (mac s m).rest = none ∧ classReady s m q = false :=
  ⟨wrB (wrB (wrB {} (.eth 7) 0x040 0 true) (.eth 7) 0x044 0 true) (lnPage 27) 0x044 6 false, 7, 0, 7, by decide +kernel⟩

theorem wit_EthTxServed_clauses : ∃ (s : State) (m : Fin 8) (q : Nat) (env : MemEnv) (u : State) (d : List Byte),
    repHead s m q = none ∧ classReady s m q = true ∧ busOk (ethGet s m (txDesc s m q) 16 env) = some (u, d) ∧ bitN (byteF d 10 1) 0 = true ∧ txBad d = true :=
  ⟨setSramByte (wr (wr (wrB (wrB {} (.eth 7) 0x040 0 true) (.eth 7) 0x044 0 true) (.eth 7) 0x048 128) (.eth 7) 0x09C 1) 0x100700A 1, 7, 7, {}, (((busOk (ethGet (setSramByte (wr (wr (wrB (wrB {} (.eth 7) 0x040 0 true) (.eth 7) 0x044 0 true) (.eth 7) 0x048 128) (.eth 7) 0x09C 1) 0x100700A 1) 7 (txDesc (setSramByte (wr (wr (wrB (wrB {} (.eth 7) 0x040 0 true) (.eth 7) 0x044 0 true) (.eth 7) 0x048 128) (.eth 7) 0x09C 1) 0x100700A 1) 7 7) 16 {})).map (·.1)).getD {}), (((busOk (ethGet (setSramByte (wr (wr (wrB (wrB {} (.eth 7) 0x040 0 true) (.eth 7) 0x044 0 true) (.eth 7) 0x048 128) (.eth 7) 0x09C 1) 0x100700A 1) 7 (txDesc (setSramByte (wr (wr (wrB (wrB {} (.eth 7) 0x040 0 true) (.eth 7) 0x044 0 true) (.eth 7) 0x048 128) (.eth 7) 0x09C 1) 0x100700A 1) 7 7) 16 {})).map (·.2)).getD []), by decide +kernel⟩

theorem wit_EthRecover_clauses :
    (∃ (x : Strm),
    x.take = true) ∧
    (∃ (x : Strm) (hist : Nat) (seq : Nat),
    let d := sextN 16 ((seq + 65536 - x.recSeq) % 65536)
    x.take = false ∧ ((hist : Int) ≤ d ∨ d ≤ -(hist : Int))) ∧
    (∃ (x : Strm) (hist : Nat) (seq : Nat),
    let d := sextN 16 ((seq + 65536 - x.recSeq) % 65536)
    x.take = false ∧ -(hist : Int) < d ∧ d ≤ 0 ∧ bitN x.vec d.natAbs = true) ∧
    (∃ (x : Strm) (hist : Nat) (seq : Nat),
    let d := sextN 16 ((seq + 65536 - x.recSeq) % 65536)
    x.take = false ∧ 0 < d ∧ d < hist) :=
  ⟨⟨{ take := true }, by decide +kernel⟩,
   ⟨{ take := false }, 8, 8, by decide +kernel⟩,
   ⟨{ take := false, recSeq := 5, vec := 4 }, 8, 3, by decide +kernel⟩,
   ⟨{ take := false }, 8, 7, by decide +kernel⟩⟩

theorem wit_AssertRow_clauses :
    (∃ (s : State) (src : Fin 2048) (m : IMsg) (l : List IMsg),
    takeMsg .assert src s.ic.msgs = some (m, l) ∧ m.gen = srcGen s m.src) ∧
    (∃ (s : State) (src : Fin 2048) (m : IMsg) (l : List IMsg),
    takeMsg .assert src s.ic.msgs = some (m, l) ∧ m.gen ≠ srcGen s m.src) :=
  ⟨⟨{ ic := { msgs := [{ src := 2047, kind := .assert, did := 0, gen := 0 }] } }, 2047, { src := 2047, kind := .assert, did := 0, gen := 0 }, [], by decide +kernel⟩,
   ⟨{ ic := { msgs := [{ src := 2047, kind := .assert, did := 0, gen := 1 }] } }, 2047, { src := 2047, kind := .assert, did := 0, gen := 1 }, [], by decide +kernel⟩⟩

theorem wit_EdgeRow_clauses :
    (∃ (s : State) (src : Fin 2048) (m : IMsg) (l : List IMsg),
    takeMsg .edge src s.ic.msgs = some (m, l) ∧ m.gen = srcGen s m.src) ∧
    (∃ (s : State) (src : Fin 2048) (m : IMsg) (l : List IMsg),
    takeMsg .edge src s.ic.msgs = some (m, l) ∧ m.gen ≠ srcGen s m.src) :=
  ⟨⟨{ ic := { msgs := [{ src := 2047, kind := .edge, did := 0, gen := 0 }] } }, 2047, { src := 2047, kind := .edge, did := 0, gen := 0 }, [], by decide +kernel⟩,
   ⟨{ ic := { msgs := [{ src := 2047, kind := .edge, did := 0, gen := 1 }] } }, 2047, { src := 2047, kind := .edge, did := 0, gen := 1 }, [], by decide +kernel⟩⟩

theorem wit_DeassertRow_clauses :
    (∃ (s : State) (src : Fin 2048) (m : IMsg) (l : List IMsg),
    takeMsg .deassert src s.ic.msgs = some (m, l) ∧ m.gen = srcGen s m.src) ∧
    (∃ (s : State) (src : Fin 2048) (m : IMsg) (l : List IMsg),
    takeMsg .deassert src s.ic.msgs = some (m, l) ∧ m.gen ≠ srcGen s m.src) :=
  ⟨⟨{ ic := { msgs := [{ src := 2047, kind := .deassert, did := 0, gen := 0 }] } }, 2047, { src := 2047, kind := .deassert, did := 0, gen := 0 }, [], by decide +kernel⟩,
   ⟨{ ic := { msgs := [{ src := 2047, kind := .deassert, did := 0, gen := 1 }] } }, 2047, { src := 2047, kind := .deassert, did := 0, gen := 1 }, [], by decide +kernel⟩⟩

theorem wit_GroupRule_clauses :
    (∃ (s : State) (g : Nat) (fresh : Bool),
    let r := grpRec s g
    let hold := rdF s .ictl (0x080 + 4 * g) 0 16
    g ≠ 0 ∧ r.state = .idle ∧ fresh = true ∧ hold = 0) ∧
    (∃ (s : State) (g : Nat) (fresh : Bool),
    let r := grpRec s g
    let hold := rdF s .ictl (0x080 + 4 * g) 0 16
    g ≠ 0 ∧ r.state = .idle ∧ fresh = true ∧ hold ≠ 0) ∧
    (∃ (s : State) (g : Nat),
    let r := grpRec s g
    g ≠ 0 ∧ r.state = .holding) ∧
    (∃ (s : State) (g : Nat),
    let r := grpRec s g
    g ≠ 0 ∧ r.state = .opened) :=
  ⟨⟨{}, 15, true, by decide +kernel⟩,
   ⟨wr {} .ictl 0x0BC 5, 15, true, by decide +kernel⟩,
   ⟨setGrp {} 15 { state := .holding }, 15, by decide +kernel⟩,
   ⟨setGrp {} 15 { state := .opened }, 15, by decide +kernel⟩⟩

theorem wit_FuseKeyRow_clauses :
    (∃ (s : State) (d : Fin 64) (r : ScsRun),
    scsRunning s d = some r ∧ r.func = 32 ∧ ¬ (r.attr.did = 0 ∧ r.lvl = 2 ∧ r.scu = false)) ∧
    (∃ (s : State) (d : Fin 64) (r : ScsRun),
    scsRunning s d = some r ∧ r.func = 32 ∧ (r.attr.did = 0 ∧ r.lvl = 2 ∧ r.scu = false)) :=
  ⟨⟨{ sage := { phase := .done }, doms := [(63, { svc := some ({ func := 32, seq := 9, attr := { did := 4 }, lvl := 2, scu := false }) })] }, 63, { func := 32, seq := 9, attr := { did := 4 }, lvl := 2, scu := false }, by decide +kernel⟩,
   ⟨{ sage := { phase := .done }, doms := [(63, { svc := some ({ func := 32, seq := 9, attr := {}, lvl := 2, scu := false }) })] }, 63, { func := 32, seq := 9, attr := {}, lvl := 2, scu := false }, by decide +kernel⟩⟩

theorem wit_FuseRevokeRow_clauses :
    (∃ (s : State) (d : Fin 64) (r : ScsRun),
    scsRunning s d = some r ∧ r.func = 33 ∧ ¬ (r.attr.did = 0 ∧ r.lvl = 2 ∧ r.scu = false)) ∧
    (∃ (s : State) (d : Fin 64) (r : ScsRun),
    scsRunning s d = some r ∧ r.func = 33 ∧ (r.attr.did = 0 ∧ r.lvl = 2 ∧ r.scu = false)) :=
  ⟨⟨{ sage := { phase := .done }, doms := [(63, { svc := some ({ func := 33, seq := 9, attr := { did := 4 }, lvl := 2, scu := false }) })] }, 63, { func := 33, seq := 9, attr := { did := 4 }, lvl := 2, scu := false }, by decide +kernel⟩,
   ⟨{ sage := { phase := .done }, doms := [(63, { svc := some ({ func := 33, seq := 9, attr := {}, lvl := 2, scu := false }) })] }, 63, { func := 33, seq := 9, attr := {}, lvl := 2, scu := false }, by decide +kernel⟩⟩

theorem wit_FuseSecverRow_clauses :
    (∃ (s : State) (d : Fin 64) (r : ScsRun),
    scsRunning s d = some r ∧ r.func = 34 ∧ ¬ (r.attr.did = 0 ∧ r.lvl = 2 ∧ r.scu = false)) ∧
    (∃ (s : State) (d : Fin 64) (r : ScsRun),
    scsRunning s d = some r ∧ r.func = 34 ∧ (r.attr.did = 0 ∧ r.lvl = 2 ∧ r.scu = false)) :=
  ⟨⟨{ sage := { phase := .done }, doms := [(63, { svc := some ({ func := 34, seq := 9, attr := { did := 4 }, lvl := 2, scu := false }) })] }, 63, { func := 34, seq := 9, attr := { did := 4 }, lvl := 2, scu := false }, by decide +kernel⟩,
   ⟨{ sage := { phase := .done }, doms := [(63, { svc := some ({ func := 34, seq := 9, attr := {}, lvl := 2, scu := false }) })] }, 63, { func := 34, seq := 9, attr := {}, lvl := 2, scu := false }, by decide +kernel⟩⟩

theorem wit_CalReadRow_clauses :
    (∃ (s : State) (d : Fin 64) (r : ScsRun),
    scsRunning s d = some r ∧ r.func = 48 ∧ ¬ (r.attr.did = 0 ∧ r.lvl = 2 ∧ r.scu = false)) ∧
    (∃ (s : State) (d : Fin 64) (r : ScsRun),
    scsRunning s d = some r ∧ r.func = 48 ∧ (r.attr.did = 0 ∧ r.lvl = 2 ∧ r.scu = false)) :=
  ⟨⟨{ sage := { phase := .done }, doms := [(63, { svc := some ({ func := 48, seq := 9, attr := { did := 4 }, lvl := 2, scu := false }) })] }, 63, { func := 48, seq := 9, attr := { did := 4 }, lvl := 2, scu := false }, by decide +kernel⟩,
   ⟨{ sage := { phase := .done }, doms := [(63, { svc := some ({ func := 48, seq := 9, attr := {}, lvl := 2, scu := false }) })] }, 63, { func := 48, seq := 9, attr := {}, lvl := 2, scu := false }, by decide +kernel⟩⟩

theorem wit_CalWriteRow_clauses :
    (∃ (s : State) (d : Fin 64) (r : ScsRun),
    scsRunning s d = some r ∧ r.func = 49 ∧ ¬ (r.attr.did = 0 ∧ r.lvl = 2 ∧ r.scu = false)) ∧
    (∃ (s : State) (d : Fin 64) (r : ScsRun),
    scsRunning s d = some r ∧ r.func = 49 ∧ (r.attr.did = 0 ∧ r.lvl = 2 ∧ r.scu = false)) :=
  ⟨⟨{ sage := { phase := .done }, doms := [(63, { svc := some ({ func := 49, seq := 9, attr := { did := 4 }, lvl := 2, scu := false }) })] }, 63, { func := 49, seq := 9, attr := { did := 4 }, lvl := 2, scu := false }, by decide +kernel⟩,
   ⟨{ sage := { phase := .done }, doms := [(63, { svc := some ({ func := 49, seq := 9, attr := {}, lvl := 2, scu := false }) })] }, 63, { func := 49, seq := 9, attr := {}, lvl := 2, scu := false }, by decide +kernel⟩⟩

theorem wit_BistRunRow_clauses :
    (∃ (s : State) (d : Fin 64) (r : ScsRun),
    scsRunning s d = some r ∧ r.func = 64 ∧ ¬ (r.attr.did = 0 ∧ r.lvl = 2 ∧ r.scu = false)) ∧
    (∃ (s : State) (d : Fin 64) (r : ScsRun),
    scsRunning s d = some r ∧ r.func = 64 ∧ (r.attr.did = 0 ∧ r.lvl = 2 ∧ r.scu = false)) :=
  ⟨⟨{ sage := { phase := .done }, doms := [(63, { svc := some ({ func := 64, seq := 9, attr := { did := 4 }, lvl := 2, scu := false }) })] }, 63, { func := 64, seq := 9, attr := { did := 4 }, lvl := 2, scu := false }, by decide +kernel⟩,
   ⟨{ sage := { phase := .done }, doms := [(63, { svc := some ({ func := 64, seq := 9, attr := {}, lvl := 2, scu := false }) })] }, 63, { func := 64, seq := 9, attr := {}, lvl := 2, scu := false }, by decide +kernel⟩⟩

theorem wit_CountsFollow_clauses :
    (∃ (x : Word64),
    (clz64 x).toNat < 64) ∧
    (∃ (x : Word64),
    (ctz64 x).toNat < 64) :=
  ⟨⟨0x100, by decide +kernel⟩,
   ⟨0x100, by decide +kernel⟩⟩

theorem wit_BoundaryFirst_clauses :
    (∃ (z : State) (t : State) (n : Fin 24) (fr : Front),
    (Machine.core z n).run = .running ∧ (Machine.core z n).stall = false ∧ taken z n fr = some t) ∧
    (∃ (z : State) (n : Fin 24),
    (Machine.core z n).got ≠ []) ∧
    (∃ (z : State) (n : Fin 24),
    (Machine.core z n).got = [] ∧ storeBusDue z n = none) ∧
    (∃ (z : State) (n : Fin 24),
    (Machine.core z n).got = [] ∧ storeBusDue z n = none ∧ lateDue z n = none) ∧
    (∃ (z : State) (n : Fin 24),
    (Machine.core z n).got = [] ∧ storeBusDue z n = none ∧ lateDue z n = none ∧ irqDue z n = none) :=
  ⟨⟨{ cores := [(23, { run := .running, sbus := [(1, 64)], sys := [(0x400, 1)] })] }, takeStoreBus (wrongPath { cores := [(23, { run := .running, sbus := [(1, 64)], sys := [(0x400, 1)] })] } 23 {}) 23 (1, 64), 23, {}, by decide +kernel, by decide +kernel, rfl⟩,
   ⟨{ cores := [(23, { got := [{ addr := 5, len := 4, data := 0 }] })] }, 23, by decide +kernel⟩,
   ⟨{}, 23, by decide +kernel⟩,
   ⟨{}, 23, by decide +kernel⟩,
   ⟨{}, 23, by decide +kernel⟩⟩

theorem wit_WBoundaries_clauses :
    (∃ (z : State) (s : State) (n : Fin 24) (fr : Front) (fe : List Nat) (b : Fin 32),
    Issues z n fr fe s ∧ (getW s n b) = 0) ∧
    (∃ (z : State) (s : State) (n : Fin 24) (fr : Front) (fe : List Nat) (b : Fin 32),
    Issues z n fr fe s ∧ (getW s n b) = 0) ∧
    (∃ (z : State) (s : State) (n : Fin 24) (fr : Front) (fe : List Nat) (a : Fin 32) (b : Fin 32),
    Issues z n fr fe s ∧ (getW s n a) = 0x8000000000000000 ∧ (getW s n b) = 0xFFFFFFFFFFFFFFFF) ∧
    (∃ (z : State) (s : State) (n : Fin 24) (fr : Front) (fe : List Nat) (b : Fin 32),
    Issues z n fr fe s ∧ lo (getW s n b) = 0) ∧
    (∃ (z : State) (s : State) (n : Fin 24) (fr : Front) (fe : List Nat) (b : Fin 32),
    Issues z n fr fe s ∧ lo (getW s n b) = 0) ∧
    (∃ (z : State) (s : State) (n : Fin 24) (fr : Front) (fe : List Nat) (a : Fin 32) (b : Fin 32),
    Issues z n fr fe s ∧ lo (getW s n a) = 0x80000000 ∧ lo (getW s n b) = 0xFFFFFFFF) ∧
    (∃ (z : State) (s : State) (n : Fin 24) (fr : Front) (fe : List Nat) (b : Fin 32),
    Issues z n fr fe s ∧ (getW s n b) = 0x8000000000000000) ∧
    (∃ (z : State) (s : State) (n : Fin 24) (fr : Front) (fe : List Nat) (b : Fin 32),
    Issues z n fr fe s ∧ lo (getW s n b) = 0x80000000) ∧
    (∃ (z : State) (s : State) (n : Fin 24) (fr : Front) (fe : List Nat) (b : Fin 32) (k : Nat),
    Issues z n fr fe s ∧ k < 64 ∧ (getW s n b) = BitVec.ofNat 64 (64 + k)) ∧
    (∃ (z : State) (s : State) (n : Fin 24) (fr : Front) (fe : List Nat) (k : Nat),
    Issues z n fr fe s ∧ k < 64) ∧
    (∃ (z : State) (s : State) (n : Fin 24) (fr : Front) (fe : List Nat) (a : Fin 32) (b : Fin 32),
    Issues z n fr fe s ∧ lo (getW s n a) = 0x80000000 ∧ (getW s n b).toNat % 32 = 0) ∧
    (∃ (z : State) (s : State) (n : Fin 24) (fr : Front) (fe : List Nat) (a : Fin 32),
    Issues z n fr fe s ∧ (getW s n a) = 0) :=
  ⟨⟨(coreWith { w := [(1, 5), (2, 0)] }), (coreWith { w := [(1, 5), (2, 0)] }), 23, {}, [], 2, by decide +kernel⟩,
   ⟨(coreWith { w := [(1, 5), (2, 0)] }), (coreWith { w := [(1, 5), (2, 0)] }), 23, {}, [], 2, by decide +kernel⟩,
   ⟨(coreWith { w := [(1, 0x8000000000000000), (2, 0xFFFFFFFFFFFFFFFF)] }), (coreWith { w := [(1, 0x8000000000000000), (2, 0xFFFFFFFFFFFFFFFF)] }), 23, {}, [], 1, 2, by decide +kernel⟩,
   ⟨(coreWith { w := [(1, 5), (2, 0x100000000)] }), (coreWith { w := [(1, 5), (2, 0x100000000)] }), 23, {}, [], 2, by decide +kernel⟩,
   ⟨(coreWith { w := [(1, 5), (2, 0x100000000)] }), (coreWith { w := [(1, 5), (2, 0x100000000)] }), 23, {}, [], 2, by decide +kernel⟩,
   ⟨(coreWith { w := [(1, 0x80000000), (2, 0xFFFFFFFF)] }), (coreWith { w := [(1, 0x80000000), (2, 0xFFFFFFFF)] }), 23, {}, [], 1, 2, by decide +kernel⟩,
   ⟨(coreWith { w := [(1, 5), (2, 0x8000000000000000)] }), (coreWith { w := [(1, 5), (2, 0x8000000000000000)] }), 23, {}, [], 2, by decide +kernel⟩,
   ⟨(coreWith { w := [(1, 5), (2, 0x80000000)] }), (coreWith { w := [(1, 5), (2, 0x80000000)] }), 23, {}, [], 2, by decide +kernel⟩,
   ⟨(coreWith { w := [(1, 5), (2, 127)] }), (coreWith { w := [(1, 5), (2, 127)] }), 23, {}, [], 2, 63, by decide +kernel⟩,
   ⟨(coreWith { w := [(1, 0xFFFFFFFF80000000), (2, 7)] }), (coreWith { w := [(1, 0xFFFFFFFF80000000), (2, 7)] }), 23, {}, [], 63, by decide +kernel⟩,
   ⟨(coreWith { w := [(1, 0x180000000), (2, 32)] }), (coreWith { w := [(1, 0x180000000), (2, 32)] }), 23, {}, [], 1, 2, by decide +kernel⟩,
   ⟨(coreWith { w := [(1, 0), (2, 5)] }), (coreWith { w := [(1, 0), (2, 5)] }), 23, {}, [], 1, by decide +kernel⟩⟩

theorem wit_SpecialsFollow_clauses :
    (∃ (x : FVal) (y : FVal),
    (isNaN x || isNaN y) = true) ∧
    (∃ (m : Nat),
    0 < m) ∧
    (∃ (m : Nat),
    0 < m) :=
  ⟨⟨.nan true, .inf false, by decide +kernel⟩,
   ⟨1, by decide +kernel⟩,
   ⟨1, by decide +kernel⟩⟩

theorem wit_FDynamic_clauses :
    (∃ (rm : Fin 8),
    rm.val < 5) ∧
    (∃ (rm : Fin 8),
    rm.val = 5) ∧
    (∃ (rm : Fin 8),
    6 ≤ rm.val) :=
  ⟨⟨4, by decide +kernel⟩,
   ⟨5, by decide +kernel⟩,
   ⟨6, by decide +kernel⟩⟩

theorem wit_WAtomTraps_clauses :
    (∃ (z : State) (s : State) (n : Fin 24) (fr : Front) (fe : List Nat) (d : Fin 32) (a : Fin 32) (b : Fin 32) (w64 : Bool) (aq : Bool) (rl : Bool) (env : MemEnv) (i : Instr),
    Issues z n fr fe s ∧ i ∈ atomics n d a b w64 aq rl env fr ∧ (getW s n a).toNat % (if w64 then 8 else 4) ≠ 0) ∧
    (∃ (z : State) (s : State) (t : State) (n : Fin 24) (fr : Front) (fe : List Nat) (d : Fin 32) (a : Fin 32) (b : Fin 32) (w64 : Bool) (aq : Bool) (rl : Bool) (env : MemEnv) (x : Xlat) (i : Instr),
    Issues z n fr fe s ∧ i ∈ atomics n d a b w64 aq rl env fr ∧ (getW s n a).toNat % (if w64 then 8 else 4) = 0 ∧ xlatNoted s n (getW s n a).toNat .write env = .ok t x ∧ x.ty ≠ 2) :=
  ⟨⟨(coreWith { w := [(1, 0x1000101), (2, 7)] }), (coreWith { w := [(1, 0x1000101), (2, 7)] }), 23, {}, [], 31, 1, 2, true, false, false, {}, .wAmoadd 23 31 1 2 true false false {} {}, by decide +kernel⟩,
   ⟨(coreWith { w := [(1, 0x10000000), (2, 7)] }), (coreWith { w := [(1, 0x10000000), (2, 7)] }), (coreWith { w := [(1, 0x10000000), (2, 7)] }), 23, {}, [], 31, 1, 2, true, false, false, {}, { pa := 0x10000000, ty := 0 }, .wAmoadd 23 31 1 2 true false false {} {}, by decide +kernel, by decide +kernel, by decide +kernel, xr_ok _ _ _ (by decide +kernel), by decide +kernel⟩⟩

theorem wit_WAtomics_clauses : ∃ (z : State) (s : State) (n : Fin 24) (fr : Front) (fe : List Nat) (a : Fin 32) (w64 : Bool) (rl : Bool) (env : MemEnv) (t : State) (u : State) (x : Xlat) (v : State) (y : L2Line) (m : Bool),
    Issues z n fr fe s ∧ (getW s n a).toNat % (if w64 then 8 else 4) = 0 ∧ xrOk (xlatNoted s n (getW s n a).toNat .write env) = some (t, x) ∧ x.ty = 2 ∧ (if rl then drainWhere t n (fun _ => true) env else commitWhere t n (fun y => y.pa / 64 = x.pa / 64) env) = .ok u ∧ gotOk (obtain u n (coreAttr u n env.cls) true .fillAtomic (x.pa / 64) env) = some (v, y, m) ∧ y.poison = false ∧ (Machine.core t n).resv = some (x.pa / 64) ∧ (Machine.core u n).resv = some (x.pa / 64) :=
  ⟨(coreWith { w := [(1, 0x1000100), (2, 7)], resv := some 0x40004 }), (coreWith { w := [(1, 0x1000100), (2, 7)], resv := some 0x40004 }), 23, {}, [], 1, true, true, {}, (((xrOk (xlatNoted (coreWith { w := [(1, 0x1000100), (2, 7)], resv := some 0x40004 }) 23 0x1000100 .write {})).map (·.1)).getD {}), (((xrOk (xlatNoted (coreWith { w := [(1, 0x1000100), (2, 7)], resv := some 0x40004 }) 23 0x1000100 .write {})).map (·.1)).getD {}), { pa := 0x1000100, ty := 2 }, (((gotOk (obtain (((xrOk (xlatNoted (coreWith { w := [(1, 0x1000100), (2, 7)], resv := some 0x40004 }) 23 0x1000100 .write {})).map (·.1)).getD {}) 23 (coreAttr (((xrOk (xlatNoted (coreWith { w := [(1, 0x1000100), (2, 7)], resv := some 0x40004 }) 23 0x1000100 .write {})).map (·.1)).getD {}) 23 1) true .fillAtomic 0x40004 {})).map (·.1)).getD {}), (((gotOk (obtain (((xrOk (xlatNoted (coreWith { w := [(1, 0x1000100), (2, 7)], resv := some 0x40004 }) 23 0x1000100 .write {})).map (·.1)).getD {}) 23 (coreAttr (((xrOk (xlatNoted (coreWith { w := [(1, 0x1000100), (2, 7)], resv := some 0x40004 }) 23 0x1000100 .write {})).map (·.1)).getD {}) 23 1) true .fillAtomic 0x40004 {})).map (·.2.1)).getD { data := 0, writer := 0 }), (((gotOk (obtain (((xrOk (xlatNoted (coreWith { w := [(1, 0x1000100), (2, 7)], resv := some 0x40004 }) 23 0x1000100 .write {})).map (·.1)).getD {}) 23 (coreAttr (((xrOk (xlatNoted (coreWith { w := [(1, 0x1000100), (2, 7)], resv := some 0x40004 }) 23 0x1000100 .write {})).map (·.1)).getD {}) 23 1) true .fillAtomic 0x40004 {})).map (·.2.2)).getD false), by decide +kernel⟩

theorem wit_ExceptionTaken_clauses :
    (∃ (s : State) (n : Fin 24) (e : Exc),
    let t := excLevel s n e.code
    ¬ (level s n = t ∧ statusEG s n = true)) ∧
    (∃ (s : State) (n : Fin 24) (e : Exc),
    let t := excLevel s n e.code
    level s n = t ∧ statusEG s n = true ∧ t ≠ 3) ∧
    (∃ (s : State) (n : Fin 24) (e : Exc),
    let t := excLevel s n e.code
    level s n = t ∧ statusEG s n = true ∧ t = 3) :=
  ⟨⟨(coreWith { sys := [(0x400, 0)] }), 23, { code := 1 }, by decide +kernel⟩,
   ⟨(coreWith { sys := [(0x400, 9)] }), 23, { code := 1 }, by decide +kernel⟩,
   ⟨(coreWith { sys := [(0x400, 11)] }), 23, { code := 1 }, by decide +kernel⟩⟩

theorem wit_CauseLevels_clauses : ∃ (s : State) (n : Fin 24),
    level s n < 3 :=
  ⟨(coreWith { sys := [(0x400, 2)] }), 23, by decide +kernel⟩

theorem wit_WCalls_clauses :
    (∃ (z : State) (s : State) (n : Fin 24) (fr : Front) (fe : List Nat),
    Issues z n fr fe s ∧ (level s n = 1 ∨ level s n = 2)) ∧
    (∃ (z : State) (s : State) (n : Fin 24) (fr : Front) (fe : List Nat),
    Issues z n fr fe s ∧ (level s n = 2 ∨ level s n = 3)) ∧
    (∃ (z : State) (s : State) (n : Fin 24) (fr : Front) (fe : List Nat),
    Issues z n fr fe s ∧ (level s n = 0 ∨ level s n = 3)) ∧
    (∃ (z : State) (s : State) (n : Fin 24) (fr : Front) (fe : List Nat),
    Issues z n fr fe s ∧ level s n < 2) :=
  ⟨⟨(coreWith { sys := [(0x400, 1)] }), (coreWith { sys := [(0x400, 1)] }), 23, {}, [], by decide +kernel⟩,
   ⟨(coreWith { sys := [(0x400, 3)] }), (coreWith { sys := [(0x400, 3)] }), 23, {}, [], by decide +kernel⟩,
   ⟨(coreWith { sys := [(0x400, 0)] }), (coreWith { sys := [(0x400, 0)] }), 23, {}, [], by decide +kernel⟩,
   ⟨(coreWith { sys := [(0x400, 1)] }), (coreWith { sys := [(0x400, 1)] }), 23, {}, [], by decide +kernel⟩⟩

theorem wit_WBrkRow_clauses :
    (∃ (z : State) (s : State) (n : Fin 24) (fr : Front) (fe : List Nat),
    Issues z n fr fe s) ∧
    (∃ (z : State) (s : State) (n : Fin 24) (fr : Front) (fe : List Nat) (word : BitVec 32),
    Issues z n fr fe s ∧ wAllocated word = false) ∧
    (∃ (word : BitVec 32),
    wAllocated word = true) :=
  ⟨⟨(coreWith { w := [(1, 0xFFFFFFFF80000000), (2, 7)] }), (coreWith { w := [(1, 0xFFFFFFFF80000000), (2, 7)] }), 23, {}, [], by decide +kernel⟩,
   ⟨(coreWith { w := [(1, 0xFFFFFFFF80000000), (2, 7)] }), (coreWith { w := [(1, 0xFFFFFFFF80000000), (2, 7)] }), 23, {}, [], 0xFFFFFFFF, by decide +kernel⟩,
   ⟨0x10000000, by decide +kernel⟩⟩

theorem wit_WWaits_clauses :
    (∃ (z : State) (s : State) (n : Fin 24) (fr : Front) (fe : List Nat),
    Issues z n fr fe s ∧ (level s n = 0 ∨ (level s n = 1 ∧ hcfg s n 2 = true))) ∧
    (∃ (z : State) (s : State) (n : Fin 24) (fr : Front) (fe : List Nat),
    Issues z n fr fe s ∧ ¬ (level s n = 0 ∨ (level s n = 1 ∧ hcfg s n 2 = true)) ∧ wakePending s n = true) ∧
    (∃ (z : State) (s : State) (n : Fin 24) (fr : Front) (fe : List Nat),
    Issues z n fr fe s ∧ ¬ (level s n = 0 ∨ (level s n = 1 ∧ hcfg s n 2 = true)) ∧ wakePending s n = false) :=
  ⟨⟨(coreWith { sys := [(0x400, 0)] }), (coreWith { sys := [(0x400, 0)] }), 23, {}, [], by decide +kernel⟩,
   ⟨(coreWith { sys := [(0x400, 3), (0x80A, 9)] }), (coreWith { sys := [(0x400, 3), (0x80A, 9)] }), 23, {}, [], by decide +kernel⟩,
   ⟨(coreWith { sys := [(0x400, 3)] }), (coreWith { sys := [(0x400, 3)] }), 23, {}, [], by decide +kernel⟩⟩

theorem wit_WTlbis1_clauses :
    (∃ (z : State) (s : State) (n : Fin 24) (fr : Front) (fe : List Nat),
    Issues z n fr fe s ∧ 1 ≤ level s n) ∧
    (∃ (z : State) (s : State) (n : Fin 24) (fr : Front) (fe : List Nat),
    Issues z n fr fe s ∧ level s n = 0) :=
  ⟨⟨(coreWith { w := [(1, 0xFFFFFFFF80000000), (2, 7)] }), (coreWith { w := [(1, 0xFFFFFFFF80000000), (2, 7)] }), 23, {}, [], by decide +kernel⟩,
   ⟨(coreWith { sys := [(0x400, 0)] }), (coreWith { sys := [(0x400, 0)] }), 23, {}, [], by decide +kernel⟩⟩

theorem wit_WTlbis2_clauses :
    (∃ (z : State) (s : State) (n : Fin 24) (fr : Front) (fe : List Nat),
    Issues z n fr fe s ∧ 2 ≤ level s n) ∧
    (∃ (z : State) (s : State) (n : Fin 24) (fr : Front) (fe : List Nat),
    Issues z n fr fe s ∧ level s n < 2) :=
  ⟨⟨(coreWith { w := [(1, 0xFFFFFFFF80000000), (2, 7)] }), (coreWith { w := [(1, 0xFFFFFFFF80000000), (2, 7)] }), 23, {}, [], by decide +kernel⟩,
   ⟨(coreWith { sys := [(0x400, 1)] }), (coreWith { sys := [(0x400, 1)] }), 23, {}, [], by decide +kernel⟩⟩

theorem wit_WFences_clauses :
    (∃ (z : State) (s : State) (n : Fin 24) (fr : Front) (fe : List Nat) (mask : Fin 16),
    Issues z n fr fe s ∧ mask = 0) ∧
    (∃ (z : State) (s : State) (n : Fin 24) (fr : Front) (fe : List Nat) (mask : Fin 16),
    Issues z n fr fe s ∧ mask ≠ 0 ∧ mask.val.testBit 2 = false) :=
  ⟨⟨(coreWith { w := [(1, 0xFFFFFFFF80000000), (2, 7)] }), (coreWith { w := [(1, 0xFFFFFFFF80000000), (2, 7)] }), 23, {}, [], 0, by decide +kernel⟩,
   ⟨(coreWith { w := [(1, 0xFFFFFFFF80000000), (2, 7)] }), (coreWith { w := [(1, 0xFFFFFFFF80000000), (2, 7)] }), 23, {}, [], 11, by decide +kernel⟩⟩

theorem wit_IrqEntry_clauses :
    (∃ (s : State) (n : Fin 24),
    (Machine.core s n).run = .running ∧ (Machine.core s n).stall = false ∧ (Machine.core s n).got = [] ∧ storeBusDue s n = none ∧ lateDue s n = none ∧ deliverable s n 2 = true) ∧
    (∃ (s : State) (n : Fin 24),
    (Machine.core s n).run = .running ∧ (Machine.core s n).stall = false ∧ (Machine.core s n).got = [] ∧ storeBusDue s n = none ∧ lateDue s n = none ∧ deliverable s n 2 = false ∧ deliverable s n 1 = true) ∧
    (∃ (s : State) (n : Fin 24),
    (Machine.core s n).run = .running ∧ (Machine.core s n).stall = false ∧ (Machine.core s n).got = [] ∧ storeBusDue s n = none ∧ lateDue s n = none ∧ deliverable s n 2 = false ∧ deliverable s n 1 = false) :=
  ⟨⟨{ cores := [(23, { run := .running, sys := [(0x400, 0), (0x807, 1), (0x806, 0)] })], ic := { srcs := [(1900, { pend := true, en := true, localEn := true, target := 23, pri := 9 })] } }, 23, by decide +kernel⟩,
   ⟨{ sage := { phase := .done }, cores := [(23, { run := .running, pc := 0x1000000, sys := [(0x400, 4), (0x406, 3), (0x80A, 9), (0x807, 1)] })] }, 23, by decide +kernel⟩,
   ⟨{ sage := { phase := .done }, cores := [(23, { run := .running, pc := 0x1000000, sys := [(0x400, 4)] })] }, 23, by decide +kernel⟩⟩

theorem wit_PmuWrapRow_clauses :
    (∃ (s : State) (n : Fin 24) (i : Fin 6),
    pmuMay s n i = true ∧ rd s (.wcc n) (0x060 + 4 * i.val) = 0xFFFFFFFF) ∧
    (∃ (s : State) (n : Fin 24),
    (rdB s (.wcc n) 0x040 0 = false ∨ level s n = 3 ∨ ckaRuns s n (Machine.core s n) = false)) ∧
    (∃ (s : State) (n : Fin 24) (i : Fin 6),
    2 ≤ i.val ∧ rdF s (.wcc n) (0x044 + 4 * (i.val - 2)) 0 6 = 0) :=
  ⟨⟨wr (wr (wrB { ((coreWith { sys := [(0x400, 0)] }) : State) with pwr := { ckA := [2] } } (.wcc 23) 0x040 0 true) (.wcc 23) 0x074 0xFFFFFFFF) (.wcc 23) 0x050 0x101, 23, 5, by decide +kernel⟩,
   ⟨{}, 23, by decide +kernel⟩,
   ⟨{}, 23, 5, by decide +kernel⟩⟩

theorem wit_PmuCounts_clauses : ∃ (l : Nat),
    3 ≤ l :=
  ⟨3, by decide +kernel⟩

theorem wit_ExtestRow_clauses :
    (∃ (s : State),
    tapOn s = true ∧ jtagAdmits s 0x00 = true) ∧
    (∃ (s : State),
    tapOn s = true ∧ jtagAdmits s 0x00 = false) :=
  ⟨⟨{ sage := { phase := .done } }, by decide +kernel⟩,
   ⟨{ sage := { phase := .push, fuses := { lc := 15 } } }, by decide +kernel⟩⟩

theorem wit_SamplePreloadRow_clauses :
    (∃ (s : State),
    tapOn s = true ∧ jtagAdmits s 0x01 = true) ∧
    (∃ (s : State),
    tapOn s = true ∧ jtagAdmits s 0x01 = false) :=
  ⟨⟨{ sage := { phase := .done } }, by decide +kernel⟩,
   ⟨{ sage := { phase := .push, fuses := { lc := 15 } } }, by decide +kernel⟩⟩

theorem wit_IdcodeRow_clauses : ∃ (s : State),
    tapOn s = true ∧ jtagAdmits s 0x02 = true :=
  ⟨{ sage := { phase := .done } }, by decide +kernel⟩

theorem wit_ClampRow_clauses :
    (∃ (s : State),
    tapOn s = true ∧ jtagAdmits s 0x03 = true) ∧
    (∃ (s : State),
    tapOn s = true ∧ jtagAdmits s 0x03 = false) :=
  ⟨⟨{ sage := { phase := .done } }, by decide +kernel⟩,
   ⟨{ sage := { phase := .push, fuses := { lc := 15 } } }, by decide +kernel⟩⟩

theorem wit_HighzRow_clauses :
    (∃ (s : State),
    tapOn s = true ∧ jtagAdmits s 0x04 = true) ∧
    (∃ (s : State),
    tapOn s = true ∧ jtagAdmits s 0x04 = false) :=
  ⟨⟨{ sage := { phase := .done } }, by decide +kernel⟩,
   ⟨{ sage := { phase := .push, fuses := { lc := 15 } } }, by decide +kernel⟩⟩

theorem wit_MemApRow_clauses :
    (∃ (s : State),
    tapOn s = true ∧ jtagAdmits s 0x10 = true) ∧
    (∃ (s : State),
    tapOn s = true ∧ jtagAdmits s 0x10 = false) :=
  ⟨⟨{ sage := { phase := .done } }, by decide +kernel⟩,
   ⟨{ sage := { phase := .push, fuses := { lc := 15 } } }, by decide +kernel⟩⟩

theorem wit_ScuApRow_clauses :
    (∃ (s : State),
    tapOn s = true ∧ jtagAdmits s 0x11 = true) ∧
    (∃ (s : State),
    tapOn s = true ∧ jtagAdmits s 0x11 = false) :=
  ⟨⟨{ sage := { phase := .done } }, by decide +kernel⟩,
   ⟨{ sage := { phase := .push, fuses := { lc := 15 } } }, by decide +kernel⟩⟩

theorem wit_BistReadRow_clauses :
    (∃ (s : State),
    tapOn s = true ∧ jtagAdmits s 0x20 = true) ∧
    (∃ (s : State),
    tapOn s = true ∧ jtagAdmits s 0x20 = false) :=
  ⟨⟨{ sage := { phase := .done } }, by decide +kernel⟩,
   ⟨{ sage := { phase := .push, fuses := { lc := 15 } } }, by decide +kernel⟩⟩

theorem wit_BypassRow_clauses : ∃ (s : State),
    tapOn s = true ∧ jtagAdmits s 0xFF = true :=
  ⟨{ sage := { phase := .done } }, by decide +kernel⟩

theorem wit_EffPanic_clauses :
    (∃ t : State, bit (rd t .dmc 0x07C) 15 = true ∧ SMap.get false t.dram.panic 7 = false) ∧
    (∃ t : State, bit (rd t .dmc 0x07C) 15 = true ∧ SMap.get false t.dram.panic 7 = true) :=
  ⟨⟨wr {} .dmc 0x07C 0x8001, by decide +kernel⟩, ⟨{ (wr {} .dmc 0x07C 0x8001) with dram := { panic := [(7, true)] } }, by decide +kernel⟩⟩

theorem got_ok (r : Got × List Nat) (u : State) (y : L2Line) (m : Bool) (evs : List Nat) (h : gotOk r.1 = some (u, y, m)) (k : r.2 = evs) :
    r = (.ok u y m, evs) := by
  obtain ⟨g, l⟩ := r
  cases g <;> simp_all [gotOk]

/-- The L1 of the core of `aMem` after it takes the line of a load. -/
def aFill (fetch : Bool) : Got × List Nat := l1Line aMem 23 fetch 0x40004 {}

theorem wit_LineFillAhead_clauses :
    (∃ (u : State) (y : L2Line) (m : Bool) (evs : List Nat), translate aMem 23 0x1000100 .read {} = .ok aMem { pa := 0x1000100, ty := 2 } ∧
      l1Line aMem 23 false (0x1000100 / 64) {} = (.ok u y m, evs)) ∧
    (∃ (u : State) (y : L2Line) (m : Bool) (evs : List Nat), translate aMem 23 0x1000100 .fetch {} = .ok aMem { pa := 0x1000100, ty := 2 } ∧
      l1Line aMem 23 true (0x1000100 / 64) {} = (.ok u y m, evs)) :=
  ⟨⟨((gotOk (aFill false).1).getD ({}, { data := 0, writer := 0 }, false)).1, { data := 0, writer := 0 }, true, (aFill false).2,
      xr_ok _ _ _ (by decide +kernel), got_ok _ _ _ _ _ (by decide +kernel) rfl⟩,
   ⟨((gotOk (aFill true).1).getD ({}, { data := 0, writer := 0 }, false)).1, { data := 0, writer := 0 }, true, (aFill true).2,
      xr_ok _ _ _ (by decide +kernel), got_ok _ _ _ _ _ (by decide +kernel) rfl⟩⟩

/-- What the parts of a load of 4 bytes give on `aMem`. -/
def aRead4 : State × Machine.Rd :=
  (xrOk (readParts 23 {} [{ pa := 0x1000100, len := 4, ty := 2, walked := false }] aMem)).getD ({}, { data := 0 })

/-- `aMem` with w1 pointing at a register page. -/
def aDev : State := coreWith { w := [(1, 0x10000002)] }

/-- `aMem` with a load that is performed ahead. -/
def anEarly : State := coreWith { early := [{ reg := 1, ea := 0x1000100, len := 4, pa := 0x1000100, data := 5 }] }

theorem wit_LoadCauses_clauses :
    (∃ (s u : State) (ps : List Machine.Part), xlatSpan (noteServed s 23 0x10000002 4) 23 0x10000002 4 .read {} = .ok u ps ∧ 0x10000002 % 4 ≠ 0 ∧ anyDevice ps = true) ∧
    (∃ (s u v : State) (ps : List Machine.Part) (r : Machine.Rd), xlatSpan (noteServed s 23 0x1000100 4) 23 0x1000100 4 .read {} = .ok u ps ∧
      (0x1000100 % 4 = 0 ∨ anyDevice ps = false) ∧ earlyOf u 23 1 0x1000100 4 ps = none ∧ readParts 23 {} ps u = .ok v r) ∧
    (∃ (s u : State) (ps : List Machine.Part) (x : Early), xlatSpan (noteServed s 23 0x1000100 4) 23 0x1000100 4 .read {} = .ok u ps ∧
      (0x1000100 % 4 = 0 ∨ anyDevice ps = false) ∧ earlyOf u 23 1 0x1000100 4 ps = some x) :=
  ⟨⟨aDev, (((xrOk (xlatSpan (noteServed aDev 23 0x10000002 4) 23 0x10000002 4 .read {})).map (·.1)).getD {}), (((xrOk (xlatSpan (noteServed aDev 23 0x10000002 4) 23 0x10000002 4 .read {})).map (·.2)).getD []), xr_ok _ _ _ (by decide +kernel), by decide, by decide +kernel⟩,
   ⟨aMem, (((xrOk (xlatSpan (noteServed aMem 23 0x1000100 4) 23 0x1000100 4 .read {})).map (·.1)).getD {}), ((xrOk (readParts 23 {} (((xrOk (xlatSpan (noteServed aMem 23 0x1000100 4) 23 0x1000100 4 .read {})).map (·.2)).getD []) (((xrOk (xlatSpan (noteServed aMem 23 0x1000100 4) 23 0x1000100 4 .read {})).map (·.1)).getD {}))).getD ({}, { data := 0 })).1, (((xrOk (xlatSpan (noteServed aMem 23 0x1000100 4) 23 0x1000100 4 .read {})).map (·.2)).getD []), ((xrOk (readParts 23 {} (((xrOk (xlatSpan (noteServed aMem 23 0x1000100 4) 23 0x1000100 4 .read {})).map (·.2)).getD []) (((xrOk (xlatSpan (noteServed aMem 23 0x1000100 4) 23 0x1000100 4 .read {})).map (·.1)).getD {}))).getD ({}, { data := 0 })).2, xr_ok _ _ _ (by decide +kernel), by decide +kernel,
     by decide +kernel, xr_ok _ _ _ (by decide +kernel)⟩,
   ⟨anEarly, (((xrOk (xlatSpan (noteServed anEarly 23 0x1000100 4) 23 0x1000100 4 .read {})).map (·.1)).getD {}), (((xrOk (xlatSpan (noteServed anEarly 23 0x1000100 4) 23 0x1000100 4 .read {})).map (·.2)).getD []), ((earlyOf (((xrOk (xlatSpan (noteServed anEarly 23 0x1000100 4) 23 0x1000100 4 .read {})).map (·.1)).getD {}) 23 1 0x1000100 4 (((xrOk (xlatSpan (noteServed anEarly 23 0x1000100 4) 23 0x1000100 4 .read {})).map (·.2)).getD [])).getD { reg := 0, ea := 0, len := 0, pa := 0, data := 0 }),
     xr_ok _ _ _ (by decide +kernel), by decide +kernel, by decide +kernel⟩⟩

theorem wit_TokensReturn_clauses :
    (∃ (s : State) (d : Nat),
    (SMap.get {} s.doms d).owedT = true) ∧
    (∃ (s : State) (d : Nat),
    (SMap.get {} s.doms d).owedT = false) :=
  ⟨⟨{ doms := [(63, { owedT := true })] }, 63, by decide +kernel⟩,
   ⟨{}, 63, by decide +kernel⟩⟩

theorem wit_ChannelUp_clauses :
    (∃ (s : State),
    s.dram.pkgTemp < 115) ∧
    (∃ (s : State),
    115 ≤ s.dram.pkgTemp) :=
  ⟨⟨{ dram := { pkgTemp := 114 } }, by decide +kernel⟩,
   ⟨{ dram := { pkgTemp := 115 } }, by decide +kernel⟩⟩

theorem wit_ScrubPace_clauses :
    (∃ (s : State) (due : Nat),
    s.dt ≤ due + scrubStep s) ∧
    (∃ (s : State) (due : Nat),
    due + scrubStep s < s.dt) ∧
    (∃ (s : State),
    rdF s .dmc 0x050 0 8 = 0) :=
  ⟨⟨{ dt := 40 }, 40, by decide +kernel⟩,
   ⟨wrF { dt := 40 } .dmc 0x050 0 8 0, 39, by decide +kernel⟩,
   ⟨wrF {} .dmc 0x050 0 8 0, by decide +kernel⟩⟩

theorem wit_InstallPowered_clauses :
    (∃ (s : State) (slot : Nat),
    wayOn s (slot / 16384) = true) ∧
    (∃ (s : State) (slot : Nat) (dirty : Bool),
    wayOn s (slot / 16384) = false ∧ dirty = false) ∧
    (∃ (s : State) (slot : Nat) (dirty : Bool),
    wayOn s (slot / 16384) = false ∧ dirty = true) :=
  ⟨⟨{}, 16384, by decide +kernel⟩,
   ⟨wrB {} .scac 0x058 1 false, 16384, false, by decide +kernel⟩,
   ⟨wrB {} .scac 0x058 1 false, 16384, true, by decide +kernel⟩⟩

theorem wit_SafeEntry_clauses : ∃ (s : State) (n : Fin 256),
    (cell s n).safe = false :=
  ⟨{}, 255, by decide +kernel⟩

theorem wit_SamplePoint_clauses :
    (∃ (s : State) (n : Fin 256),
    shMode s n < 3) ∧
    (∃ (s : State) (n : Fin 256),
    shMode s n = 5) :=
  ⟨⟨wrF {} (.pc 255) 0x04C 0 3 2, 255, by decide +kernel⟩,
   ⟨wrF {} (.pc 255) 0x04C 0 3 5, 255, by decide +kernel⟩⟩

theorem wit_EthTakes_clauses :
    (∃ (s : State) (m : Fin 8),
    laneLoop s (ethLane m) = 0) ∧
    (∃ (s : State) (m : Fin 8),
    laneLoop s (ethLane m) = 1) ∧
    (∃ (s : State) (m : Fin 8),
    laneLoop s (ethLane m) = 2) :=
  ⟨⟨{}, 7, by decide +kernel⟩,
   ⟨wrF {} (lnPage 27) 0x040 2 2 1, 7, by decide +kernel⟩,
   ⟨wrF {} (lnPage 27) 0x040 2 2 2, 7, by decide +kernel⟩⟩

theorem wit_PcieOutAddr_clauses :
    (∃ (s : State) (c : Fin 4) (off : Nat),
    isEcam s c off = false) ∧
    (∃ (s : State) (c : Fin 4) (off : Nat),
    isEcam s c off = true) ∧
    (∃ (q : FReq),
    q.op = .write) ∧
    (∃ (q : FReq),
    q.op ≠ .write) :=
  ⟨⟨wrB {} (.pce 3) 0x040 1 true, 3, 0x3F0000000, by decide +kernel⟩,
   ⟨{}, 3, 0x3F0000000, by decide +kernel⟩,
   ⟨{ master := .core 10, op := .write, addr := 0x10000040, len := 8, be := 0, data := 0, cls := 1, pid := 0 }, by decide +kernel⟩,
   ⟨aRead, by decide +kernel⟩⟩

theorem wit_SchedulerYields : ∃ (s : State) (ch : Fin 18) (busy : BitVec 32) (r : DReq), refreshPick s ch busy = none ∧ schedPick s (candidates s ch busy) = some r ∧ internalFirst s ch busy r = true :=
  ⟨wrF (wrB { dt := 100, dram := { mig := some (0, 1, 0), reqs := [{ id := 4, isW := false, line := 0, attr := {}, port := 0, cause := .write none, stat := .buffered }] } } .dmc 0x040 0 true) .dmc 0x050 0 8 0, 0, 0, { id := 4, isW := false, line := 0, attr := {}, port := 0, cause := .write none, stat := .buffered }, by decide +kernel⟩

theorem wit_IngressRegister : ∃ (s : State) (r : FReq) (lvl : Fin 4) (p : Page), oneBlock r = true ∧ regionOf s r.addr = some (.page p) ∧ clocksOn s = true :=
  ⟨{}, { master := .core 10, op := .read, addr := pageAddr .supv + 0x40, len := 4, be := 15, data := 0, cls := 1, pid := 0 }, 2, .supv, by decide +kernel⟩

theorem wit_RegisterGated : ∃ (s : State) (q : RegReq) (p : Page), regionOf s q.addr = some (.page p) ∧ (q.m = .scu ∨ ∃ n, q.m = .core n) ∧ gated s q.attr.did = true :=
  ⟨wrB {} .fabr 0x044 4 true, { m := .scu, attr := { did := 4 }, lvl := 2, addr := pageAddr .supv + 0x40, single := true, data := none }, .supv, by decide +kernel⟩

theorem wit_IngressWaiting : ∃ (s : State) (env : MemEnv) (q : RegReq) (l : List RegReq) (t : State) (y : Resp), s.fab.stalled = q :: l ∧ q.inside = false ∧ regWaits s q [] = false ∧ regAccess (dropStalled s q) q env = (t, some y) :=
  ⟨{ fab := { stalled := [regReq {} .scu 2 1 0x10000040 true none] } }, {}, regReq {} .scu 2 1 0x10000040 true none, [], (regAccess (dropStalled { fab := { stalled := [regReq {} .scu 2 1 0x10000040 true none] } } (regReq {} .scu 2 1 0x10000040 true none)) (regReq {} .scu 2 1 0x10000040 true none) {}).1, ((regAccess (dropStalled { fab := { stalled := [regReq {} .scu 2 1 0x10000040 true none] } } (regReq {} .scu 2 1 0x10000040 true none)) (regReq {} .scu 2 1 0x10000040 true none) {}).2).getD {}, by decide +kernel⟩

theorem wit_YoyoFlushCycle : ∃ (s : State) (src : Page) (dst : Page) (x : Fin 16),
    let k := yoyoKey src dst x
    let y := yoyoNow s k
    SidesUp s src dst ∧ y.flushed ≠ 0 ∧ y.cyc = srcCycle s k :=
  ⟨{ yoyos := [(yoyoKey .supv .dmc 0, { flushed := 2, cyc := srcCycle {} (yoyoKey .supv .dmc 0) })] }, .supv, .dmc, 0, by decide +kernel⟩

theorem wit_LevelDelay : ∃ (s : State) (n : Fin 256) (land : Bool) (op : Nat) (t : Nat), (if land then (cell s n).wasB else (cell s n).wasA) = [] :=
  ⟨{}, 255, true, 3, 7, by decide +kernel⟩

theorem wit_RepeatStops : ∃ (s : State) (n : Fin 256), (cell s n).repOn = true ∧ (cell s n).repOff = none :=
  ⟨{ cells := [(255, { repOn := true })] }, 255, by decide +kernel⟩

theorem wit_DueFirst : ∃ (s : State) (n : Fin 256) (key : Nat) (k : Nat), True :=
  ⟨{ cells := [(255, { schf := [{ time := 7, action := 1 }] })] }, 255, 400, 2, by decide +kernel⟩

theorem wit_SafeHolds : ∃ (s : State) (n : Fin 256) (off : Nat) (v : Reg32), railOn s n = true ∧ (cell s n).safe = true :=
  ⟨wrF { cells := [(255, { safe := true })] } (bankOfCell 255) 0x044 0 2 2, 255, 0x048, 5, by decide +kernel⟩

theorem wit_BitStarts : ∃ (s : State) (n : Fin 256) (f : TxFrame) (t : Nat) (x : Nat) (k : Nat), f.segs = [{ base := t, set := x }] :=
  ⟨{}, 255, { bits := [true], start := 0, segs := [{ base := 0, set := 0 }] }, 0, 0, 3, by decide +kernel⟩

theorem wit_RxStartSync : ∃ (s : State) (n : Fin 256) (f : TxFrame),
    let u := cellTo n (actKey s.dt .txEnd) s
    clocksOn u = true ∧ cellEn u n = true ∧ (cell u n).safe = false ∧ shMode s n = 5 ∧ shMode u n = 5 ∧ (cell u n).rxf = none ∧ (cell u n).txf = some f ∧ pcB u n 0x040 7 = true :=
  ⟨wrF (wrB (wrB { cells := [(255, { txf := some { bits := [true], start := 0, segs := [{ base := 0, set := 0 }] } })] } (.pc 255) 0x040 0 true) (.pc 255) 0x040 7 true) (.pc 255) 0x04C 0 3 5, 255, { bits := [true], start := 0, segs := [{ base := 0, set := 0 }] }, by decide +kernel⟩

theorem wit_RxSampled : ∃ (s : State) (n : Fin 256) (r : RxFrame) (t : Nat), (cell s n).rxf = some r :=
  ⟨{ cells := [(255, { rxf := some { fr := { bits := [], start := 0, segs := [{ base := 0, set := 0 }] } } })] }, 255, { fr := { bits := [], start := 0, segs := [{ base := 0, set := 0 }] } }, 5, by decide +kernel⟩

theorem wit_RxSent : ∃ (s : State) (n : Fin 256) (r : RxFrame),
    let u := cellAt s n s.dt
    clocksOn s = true ∧ cellEn s n = true ∧ shMode s n = 4 ∧ (cell u n).safe = false ∧ (cell u n).rxf = some r ∧ edgeNow u n = true ∧ landLevel u n true = false ∧ r.fr.start < s.dt :=
  ⟨wrF (wrB { dt := 9, cells := [(255, { rxf := some { fr := { bits := [], start := 0, segs := [{ base := 0, set := 0 }] } }, edgB := some 9 })] } (.pc 255) 0x040 0 true) (.pc 255) 0x04C 0 3 4, 255, { fr := { bits := [], start := 0, segs := [{ base := 0, set := 0 }] } }, by decide +kernel⟩

theorem wit_LandFilter : ∃ (s : State) (n : Fin 256) (land : Bool) (level : Bool) (x : Nat), lastEdge (cell s n) land = some x ∧ s.dt ≤ x + pcF s n (landCfg land) 20 8 :=
  ⟨wrF { dt := 44, cells := [(255, { edgB := some 40 })] } (.pc 255) 0x048 20 8 4, 255, true, true, 40, by decide +kernel⟩

theorem wit_LandOrder : ∃ (s : State) (n : Fin 256) (x : Nat × CapEnt), capHead (cell s n) = some x :=
  ⟨{ dt := 44, cells := [(255, { capIn := [(45, { stamp := 44, lost := false, rise := true, landB := true })] })] }, 255, (45, { stamp := 44, lost := false, rise := true, landB := true }), by decide +kernel⟩

theorem wit_RailTimeoutMulti : ∃ (s : State) (rail : Fin 8), rail ≠ 5 ∧ s.pwr.fails = 2 :=
  ⟨{ pwr := { fails := 2 } }, 7, by decide +kernel⟩

theorem wit_ReteRestores : ∃ (th : NgThread) (q : Nat), th.rete = some q :=
  ⟨{ rete := some 3, active := 4 }, 3, by decide +kernel⟩

theorem wit_BridgeWaits : ∃ (s : State) (m : Master) (lvl : Fin 4) (p : Page) (off : Fin 0x1000) (d : Option Reg32) (single : Bool) (cls : Cls),
    let q := regReq s m lvl cls (pageAddr p + off) single d
    clocksOn s = true ∧ admits (.page p) m = true ∧ gated s q.attr.did = false ∧ (credFree s q.attr.did = false ∨ s.fab.stalled.any (regBlocks q) = true) :=
  ⟨{ fab := { stalled := [regReq {} .scu 2 1 (pageAddr .supv + 0x048) true none] } }, .scu, 2, .supv, 0x044, some 5, true, 1, by decide +kernel⟩

theorem wit_MemberLost : ∃ (s : State) (t : Txn) (x : TylMem), s.tyl.mems = [x] ∧ x.ids.contains t.id = true ∧ x.worst ≤ 2 :=
  ⟨{ tyl := { mems := [{ member := 1, tag := 2, isW := false, len := 64, addr := 0, ids := [7] }] } }, { id := 7, req := aRead, attr := {}, lvl := 0, purp := .plain, status := .posted }, { member := 1, tag := 2, isW := false, len := 64, addr := 0, ids := [7] }, by decide +kernel⟩

theorem wit_PcieOutRoot : ∃ (s : State) (c : Fin 4) (id : Nat) (off : Nat) (t : Txn), txn? s id = some t ∧ outOff s t.req.addr = some (c, off) ∧ t.status = .transit ∧ behindSource s t = false ∧ pceLink s c = 2 ∧ isEcam s c off = true ∧ off - 0x3F0000000 < 0x1000 :=
  ⟨wrF { fab := { txns := [{ id := 7, req := { aRead with addr := 0x1FF0000040 }, attr := {}, lvl := 0, purp := .plain, status := .transit }] } } (.pce 3) 0x044 0 2 2, 3, 7, 0x3F0000040, { id := 7, req := { aRead with addr := 0x1FF0000040 }, attr := {}, lvl := 0, purp := .plain, status := .transit }, by decide +kernel⟩

theorem wit_PcieInGated : ∃ (s : State) (c : Fin 4) (isW : Bool) (key : BitVec 16) (fn : Fin 4) (bar2 : Bool) (addr : BitVec 64) (len : Fin 4097) (data : Nat) (poison : Bool), gated s (owner s (.pce c)) = true :=
  ⟨wrB {} .fabr 0x044 0 true, 3, true, 9, 0, false, 0x1000, 4, 7, false, by decide +kernel⟩

theorem wit_PcieInMsix : ∃ (s : State) (c : Fin 4) (key : BitVec 16) (fn : Fin 4) (addr : BitVec 64) (len : Fin 4097) (data : Nat), (¬ (c = 0 ∧ bootPcie s = true ∧ s.sage.phase ≠ .done)) ∧ rdB s (.pce c) 0x040 1 = true :=
  ⟨wrF (wr {} (.pce 3) 0x040 0x83) (.pce 3) 0x044 0 2 2, 3, 9, 1, 0x3FC, 4, 7, by decide +kernel⟩

theorem wit_PcieInMsix_clauses :
    (∃ (s : State) (c : Fin 4) (fn : Fin 4) (len : Fin 4097),
    (¬ (c = 0 ∧ bootPcie s = true ∧ s.sage.phase ≠ .done)) ∧ rdB s (.pce c) 0x040 1 = true ∧ InReach s c false len ∧ rdF s (.pce c) 0x040 7 2 < fn.val) ∧
    (∃ (s : State) (c : Fin 4) (fn : Fin 4) (addr : BitVec 64) (len : Fin 4097),
    (¬ (c = 0 ∧ bootPcie s = true ∧ s.sage.phase ≠ .done)) ∧ rdB s (.pce c) 0x040 1 = true ∧ InReach s c false len ∧ fn.val ≤ rdF s (.pce c) 0x040 7 2 ∧ addr.toNat + len.val ≤ 4096) ∧
    (∃ (s : State) (c : Fin 4) (fn : Fin 4) (addr : BitVec 64) (len : Fin 4097),
    (¬ (c = 0 ∧ bootPcie s = true ∧ s.sage.phase ≠ .done)) ∧ rdB s (.pce c) 0x040 1 = true ∧ InReach s c true len ∧ fn.val ≤ rdF s (.pce c) 0x040 7 2 ∧ addr.toNat + len.val ≤ 4096) :=
  ⟨⟨wrF (wr {} (.pce 3) 0x040 0x83) (.pce 3) 0x044 0 2 2, 3, 2, 4, by decide +kernel⟩,
   ⟨wrF (wr {} (.pce 3) 0x040 0x83) (.pce 3) 0x044 0 2 2, 3, 1, 0x3FC, 4, by decide +kernel⟩,
   ⟨wrF (wr {} (.pce 3) 0x040 0x83) (.pce 3) 0x044 0 2 2, 3, 1, 0x3FC, 4, by decide +kernel⟩⟩

theorem wit_MsixBytes : ∃ (s : State) (c : Fin 4) (fn : Fin 4) (g : Fin 4) (o : Nat) (p : Nat) (v : Byte), o < 1024 ∧ p < 1024 :=
  ⟨{}, 3, 3, 2, 1023, 0, 255, by decide +kernel⟩

theorem wit_EthTxBusy : ∃ (s : State) (m : Fin 8) (stamp : BitVec 64) (env : MemEnv) (l : LaneTx), ethLive s m = true ∧ stampOk s stamp.toNat = true ∧ laneNow s m = some l :=
  ⟨wrB (wrB (wrB { macs := [(7, { lane := some { pre := true, bytes := List.replicate 124 0, start := 0, stop := 100 } })] } (.eth 7) 0x040 0 true) (.eth 7) 0x044 0 true) (lnPage 27) 0x044 6 false, 7, 0, {}, { pre := true, bytes := List.replicate 124 0, start := 0, stop := 100 }, by decide +kernel⟩

theorem wit_EthTxBusy_clauses :
    (∃ (s : State) (m : Fin 8) (stamp : BitVec 64) (l : LaneTx),
    ethLive s m = true ∧ stampOk s stamp.toNat = true ∧ laneNow s m = some l ∧ fragCut s m l = none) ∧
    (∃ (s : State) (m : Fin 8) (stamp : BitVec 64) (l : LaneTx),
    ethLive s m = true ∧ stampOk s stamp.toNat = true ∧ laneNow s m = some l ∧ fragCut s m l ≠ none) :=
  ⟨⟨wrB (wrB (wrB { macs := [(7, { lane := some { pre := true, bytes := List.replicate 123 0, start := 0, stop := 100 } })] } (.eth 7) 0x040 0 true) (.eth 7) 0x044 0 true) (lnPage 27) 0x044 6 false, 7, 0, { pre := true, bytes := List.replicate 123 0, start := 0, stop := 100 }, by decide +kernel⟩,
   ⟨wrB (wrB (wrB { macs := [(7, { lane := some { pre := true, bytes := List.replicate 124 0, start := 0, stop := 100 } })] } (.eth 7) 0x040 0 true) (.eth 7) 0x044 0 true) (lnPage 27) 0x044 6 false, 7, 0, { pre := true, bytes := List.replicate 124 0, start := 0, stop := 100 }, by decide +kernel⟩⟩

theorem wit_EthPreempts : ∃ (s : State) (m : Fin 8) (pre : Bool) (f : List Byte) (l : LaneTx) (c : Nat), laneNow s m = some l ∧ fragCut s m l = some c :=
  ⟨wrB (wrB (wrB { macs := [(7, { lane := some { pre := true, bytes := List.replicate 124 0, start := 0, stop := 100 } })] } (.eth 7) 0x040 0 true) (.eth 7) 0x044 0 true) (lnPage 27) 0x044 6 false, 7, false, [1, 2], { pre := true, bytes := List.replicate 124 0, start := 0, stop := 100 }, 64, by decide +kernel⟩

theorem wit_EthResumes : ∃ (s : State) (m : Fin 8) (stamp : BitVec 64) (env : MemEnv) (f : List Byte),
    let t := settled (txTry m stamp.toNat env ([7, 6, 5, 4, 3, 2, 1, 0].filter fun q => !preemptable s m q) s)
    ethLive s m = true ∧ stampOk s stamp.toNat = true ∧ laneNow s m = none ∧ (mac s m).rest = some f ∧ (mac t m).lane = (mac s m).lane ∧ (mac t m).rest = some f :=
  ⟨wrB (wrB (wrB { macs := [(7, { rest := some [1, 2] })] } (.eth 7) 0x040 0 true) (.eth 7) 0x044 0 true) (lnPage 27) 0x044 6 false, 7, 0, {}, [1, 2], by decide +kernel⟩

theorem wit_EthIdle : ∃ (s : State) (m : Fin 8) (f : List Byte) (stamp : BitVec 64) (env : MemEnv), (laneOn s (ethLane m) = false ∨ stampOk s stamp.toNat = false) :=
  ⟨{}, 7, [1], 0, {}, by decide +kernel⟩

theorem wit_EthGate : ∃ (s : State) (m : Fin 8) (q : Nat) (n : Nat) (st : Nat) (h : Gcl), rdB s (.eth m) 0x040 6 = true ∧ (mac s m).gcl = none ∧ (mac s m).pend = some h ∧ (mac s m).start = st :=
  ⟨wrB { macs := [(7, { pend := some { base := 5, cycle := 100, entries := [(0x7F, 0, 50), (0xFF, 0, 50)] }, start := 5 })] } (.eth 7) 0x040 6 true, 7, 7, 64, 5, { base := 5, cycle := 100, entries := [(0x7F, 0, 50), (0xFF, 0, 50)] }, by decide +kernel⟩

theorem wit_EthGate_clauses :
    (∃ (s : State) (m : Fin 8) (q : Nat) (st : Nat) (h : Gcl),
    rdB s (.eth m) 0x040 6 = true ∧ (mac s m).gcl = none ∧ (mac s m).pend = some h ∧ (mac s m).start = st ∧ bitN (entryOf h 0).1 q = false) ∧
    (∃ (s : State) (m : Fin 8) (q : Nat) (st : Nat) (h : Gcl),
    rdB s (.eth m) 0x040 6 = true ∧ (mac s m).gcl = none ∧ (mac s m).pend = some h ∧ (mac s m).start = st ∧ bitN (entryOf h 0).1 q = true) :=
  ⟨⟨wrB { macs := [(7, { pend := some { base := 5, cycle := 100, entries := [(0x7F, 0, 50), (0xFF, 0, 50)] }, start := 5 })] } (.eth 7) 0x040 6 true, 7, 7, 5, { base := 5, cycle := 100, entries := [(0x7F, 0, 50), (0xFF, 0, 50)] }, by decide +kernel⟩,
   ⟨wrB { macs := [(7, { pend := some { base := 5, cycle := 100, entries := [(0x7F, 0, 50), (0xFF, 0, 50)] }, start := 5 })] } (.eth 7) 0x040 6 true, 7, 0, 5, { base := 5, cycle := 100, entries := [(0x7F, 0, 50), (0xFF, 0, 50)] }, by decide +kernel⟩⟩

theorem wit_FetchStopped : ∃ (s : State) (e : Fin 512) (t : Fin 4) (f : Bool) (d : Fin 16) (a : Fin 16) (b : Fin 16) (x : BitVec 36) (w : Nat), slotFree s e t = true ∧ badFetch s e t = some w :=
  ⟨{ sage := { phase := .done }, engines := [(511, { thr := [(3, { st := 1 })], lmBad := [(3, true)] })] }, 511, 3, false, 1, 2, 3, 0, 3, by decide +kernel⟩

theorem wit_LocalFindings : ∃ (s : State) (e : Fin 512) (a : Nat) (n : Nat), (n = 1 ∨ n = 2 ∨ n = 4) :=
  ⟨{ engines := [(511, { lmBad := [(9, true)] })] }, 511, 8, 2, by decide +kernel⟩

theorem wit_EthLinkChange_clauses :
    (∃ (s : State) (m : Fin 8) (speed : Fin 8),
    rdB s (.eth m) 0x040 0 = true ∧ clocksOn s = true ∧ (modeSpeeds (rdF s (.eth m) 0x040 1 3)).contains speed.val = true ∧ laneOn s (ethLane m) = true) ∧
    (∃ (s : State) (m : Fin 8) (speed : Fin 8),
    rdB s (.eth m) 0x040 0 = true ∧ clocksOn s = true ∧ (modeSpeeds (rdF s (.eth m) 0x040 1 3)).contains speed.val = true ∧ laneOn s (ethLane m) = false) :=
  ⟨⟨wrB (wrB {} (.eth 7) 0x040 0 true) (lnPage 27) 0x044 6 false, 7, 2, by decide +kernel⟩,
   ⟨wrB (wrB {} (.eth 7) 0x040 0 true) (.eth 7) 0x044 0 true, 7, 2, by decide +kernel⟩⟩

theorem wit_TylwenUp_clauses :
    (∃ (s : State) (width : Fin 3),
    rdB s .tylw 0x040 0 = true ∧ tylState s = 1 ∧ width.val ≤ rdF s .tylw 0x040 1 2 ∧ clocksOn s = true ∧ lanesCarry s 28 (2 ^ width.val) = true ∧ s.tyl.numbered = true ∧ (∀ i, i < tylMembers s → s.tyl.capped.contains (i + 1) = true)) ∧
    (∃ (s : State) (width : Fin 3),
    rdB s .tylw 0x040 0 = true ∧ tylState s = 1 ∧ width.val ≤ rdF s .tylw 0x040 1 2 ∧ clocksOn s = true ∧ lanesCarry s 28 (2 ^ width.val) = true ∧ (s.tyl.numbered = false ∨ (∃ i, i < tylMembers s ∧ s.tyl.capped.contains (i + 1) = false))) :=
  ⟨⟨(List.range 4).foldl (fun s i => wrB s (lnPage (28 + i)) 0x044 6 false) (wrF (wrF (wrF { tyl := { numbered := true, capped := [1] } } .tylw 0x040 0 3 5) .tylw 0x044 0 2 1) .tylw 0x044 4 4 1), 2, by decide +kernel⟩,
   ⟨(List.range 4).foldl (fun s i => wrB s (lnPage (28 + i)) 0x044 6 false) (wrF (wrF {} .tylw 0x040 0 3 5) .tylw 0x044 0 2 1), 2, by decide +kernel⟩⟩

theorem wit_RxStart_clauses :
    (∃ (s : State) (n : Fin 256),
    clocksOn s = true ∧ cellEn s n = true ∧ (cell s n).safe = false ∧ shMode s n < 5 ∧ (cell s n).rxf = none ∧ edgeNow s n = true ∧ landLevel s n true = false) ∧
    (∃ (s : State) (n : Fin 256),
    clocksOn s = true ∧ cellEn s n = true ∧ (cell s n).safe = false ∧ shMode s n < 5 ∧ ((cell s n).rxf ≠ none ∨ edgeNow s n = false ∨ landLevel s n true = true)) :=
  ⟨⟨wrB { cells := [(255, { edgB := some 0 })] } (.pc 255) 0x040 0 true, 255, by decide +kernel⟩,
   ⟨wrB ({}) (.pc 255) 0x040 0 true, 255, by decide +kernel⟩⟩

theorem wit_LateTooLate : ∃ (s : State) (n : Fin 24), (Machine.core s n).stall = true ∨ (Machine.core s n).got ≠ [] :=
  ⟨{ cores := [(23, { stall := true })] }, 23, by decide +kernel⟩

theorem wit_WalkNoted : ∃ (s : State) (u : State) (n : Fin 24) (ea : Nat) (acc : Acc) (env : MemEnv) (x : Xlat), translate s n ea acc env = .ok u x :=
  ⟨aMem, aMem, 23, 0x1000138, .read, {}, { pa := 0x1000138, ty := 2 }, xr_ok _ _ _ (by decide +kernel)⟩

theorem wit_AheadCounts : ∃ (s : State) (t : State) (n : Fin 24) (env : MemEnv) (a : Ahead) (x : Xlat),
    let ea := (getW s n a.reg + a.imm.signExtend 64).toNat
    a.len ≠ 0 ∧ ea % 64 + a.len.val ≤ 64 ∧ translate s n ea .read { env with held := true } = .ok t x ∧ x.ty = 2 ∧ l2Line t (clusterOfCore n) (x.pa / 64) = none :=
  ⟨aMem, aMem, 23, {}, { reg := 1, imm := 0, len := 8 }, { pa := 0x1000100, ty := 2 }, by decide +kernel, by decide +kernel, xr_ok _ _ _ (by decide +kernel), by decide +kernel, by decide +kernel⟩

theorem wit_WaitKeepsEvents : ∃ (z : State) (s : State) (u : State) (n : Fin 24) (fr : Front) (fe : List Nat) (body : State → IRes), Issues z n fr fe s ∧ body s = .stall u :=
  ⟨aMem, aMem, aMem, 23, {}, [], .stall, ⟨by decide +kernel, rfl⟩⟩

theorem wit_RunsAgain : ∃ (z : State) (n : Fin 24) (fr : Front) (l : List Nat) (body : State → IRes), (Machine.core z n).run = .running ∧ (Machine.core z n).stall = false ∧ taken z n fr = none ∧ (Machine.core z n).tried = some l ∧ fr.ahead = [] :=
  ⟨coreWith { tried := some [7] }, 23, {}, [7], .stall, by decide +kernel, by decide +kernel, rfl, by decide +kernel, rfl⟩

/-- A read of on-chip SRAM in transit that came to its port at a tick. -/
def aTxn (id since cls : Nat) : Txn :=
  { id := id, req := { aRead with addr := 0x1800000 }, attr := { cls := cls }, lvl := 0, purp := .plain, status := .transit, since := since, arr := true }

/-- A core's read of a register of the supervisor's page, as a fabric request. -/
def aReg : FReq := { aRead with addr := pageAddr .supv + 0x40, len := 4, be := 15 }

/-- A register read at a member's page that waits to be sent. -/
def aTylReg (id a : Nat) : TylReg := { id := id, req := regReq {} .scu 2 1 a true none }

theorem wit_SramPort_clauses :
    (∃ (s : State) (id waited : Nat) (t : Txn), txn? s id = some t ∧ t.status = .transit ∧ behindSource s t = false ∧ inSram t.req.addr = true ∧
      t.arr = false ∧ portTurn s (portComes s (txnWait t) waited) false = none) ∧
    (∃ (s : State) (id : Nat) (t : Txn), txn? s id = some t ∧ t.status = .transit ∧ behindSource s t = false ∧ inSram t.req.addr = true ∧
      t.arr = true ∧ portTurn s (txnWait t) true = none) ∧
    (∃ (s : State) (w : PortWait), portTurn s w false = none ∧ portTaken s w = false ∧ portTurn s w true = some (advanceTo s (portUse s w.port).stop)) ∧
    (∃ (s : State) (w : PortWait), clocksOn s = true ∧ portWaits s = [w]) ∧
    (∃ (s : State) (u w : PortWait), u.cls < 4 ∧ w.cls < 4 ∧ u.since + 128 ≤ s.dt ∧ s.dt < w.since + 128) ∧
    (∃ (s : State) (u w : PortWait), u.cls < 4 ∧ w.cls < 4 ∧ s.dt < u.since + 128 ∧ s.dt < w.since + 128 ∧ u.cls < w.cls) ∧
    (∃ (u w : PortWait), u.cls < 4 ∧ w.cls < 4 ∧ u.cls = w.cls ∧ u.since < w.since) :=
  ⟨⟨{ dt := 9, sram := { ports := [(sramPort 32 1, { start := 5, stop := 11 })] }, fab := { txns := [{ aTxn 7 0 1 with arr := false }] } }, 7, 3, { aTxn 7 0 1 with arr := false }, by decide +kernel⟩,
   ⟨{ dt := 9, fab := { txns := [aTxn 7 9 1, aTxn 8 8 1] } }, 7, aTxn 7 9 1, by decide +kernel⟩,
   ⟨{ dt := 9, sram := { ports := [(127, { start := 5, stop := 11 })] } }, { who := 1, master := 0, bank := 63, port := 127, cls := 1, since := 9 }, by decide +kernel⟩,
   ⟨{ fab := { txns := [aTxn 7 0 1] } }, txnWait (aTxn 7 0 1), by decide +kernel⟩,
   ⟨{ dt := 128 }, { who := 1, master := 0, bank := 63, port := 127, cls := 3, since := 0 }, { who := 3, master := 0, bank := 63, port := 127, cls := 0, since := 1 }, by decide +kernel⟩,
   ⟨{ dt := 127 }, { who := 1, master := 0, bank := 63, port := 127, cls := 0, since := 0 }, { who := 3, master := 0, bank := 63, port := 127, cls := 1, since := 0 }, by decide +kernel⟩,
   ⟨{ who := 1, master := 0, bank := 63, port := 127, cls := 3, since := 8 }, { who := 3, master := 0, bank := 63, port := 127, cls := 3, since := 9 }, by decide +kernel⟩⟩

theorem wit_IngressRegister_clauses :
    (∃ (s : State) (r : FReq) (lvl : Fin 4) (p : Page), oneBlock r = true ∧ regionOf s r.addr = some (.page p) ∧ clocksOn s = true ∧
      regWaits s (regOf s r lvl) s.fab.stalled = true) ∧
    (∃ (s : State) (r : FReq) (lvl : Fin 4) (p : Page) (t : State) (y : Resp), oneBlock r = true ∧ regionOf s r.addr = some (.page p) ∧ clocksOn s = true ∧
      regWaits s (regOf s r lvl) s.fab.stalled = false ∧ regAccess s (regOf s r lvl) {} = (t, some y)) ∧
    (∃ (s : State) (r : FReq) (lvl : Fin 4) (p : Page), oneBlock r = true ∧ regionOf s r.addr = some (.page p) ∧ clocksOn s = true ∧
      regIngress s (regOf s r lvl) = none ∧ credFree s (regOf s r lvl).attr.did = false) ∧
    (∃ (s : State) (r : FReq) (lvl : Fin 4) (p : Page), oneBlock r = true ∧ regionOf s r.addr = some (.page p) ∧ clocksOn s = true ∧
      regIngress s (regOf s r lvl) = none ∧ credFree s (regOf s r lvl).attr.did = true ∧ s.fab.stalled = []) :=
  ⟨⟨{ fab := { stalled := [regOf {} aReg 2] } }, aReg, 2, .supv, by decide +kernel⟩,
   ⟨{}, aReg, 2, .supv, (regAccess {} (regOf {} aReg 2) {}).1, ((regAccess {} (regOf {} aReg 2) {}).2).getD {}, by decide +kernel⟩,
   ⟨setSys {} 10 0x808 (5 * 2 ^ 48), aReg, 1, .supv, by decide +kernel⟩,
   ⟨{}, aReg, 2, .supv, by decide +kernel⟩⟩

theorem wit_RxSampled_clauses :
    (∃ (s : State) (n : Fin 256) (r : RxFrame), (cell s n).rxf = some r ∧ (shMode s n = 0 ∨ shMode s n = 5 ∨ shMode s n = 6)) ∧
    (∃ (s : State) (n : Fin 256) (r : RxFrame), (cell s n).rxf = some r ∧ shMode s n = 1 ∧ r.fr.bits = [] ∧ rxLand s n = true) :=
  ⟨⟨{ cells := [(255, { rxf := some { fr := { bits := [], start := 0, segs := [{ base := 0, set := 0 }] } } })] }, 255,
     { fr := { bits := [], start := 0, segs := [{ base := 0, set := 0 }] } }, by decide +kernel⟩,
   ⟨wrF { cells := [(255, { accB := true, rxf := some { fr := { bits := [], start := 0, segs := [{ base := 0, set := 0 }] } } })] } (.pc 255) 0x04C 0 3 1, 255,
     { fr := { bits := [], start := 0, segs := [{ base := 0, set := 0 }] } }, by decide +kernel⟩⟩

theorem wit_MoverWords_clauses :
    (∃ (s : State) (m : Fin 256), (mov s m).held ≠ [] ∧ ∀ h ∈ (mov s m).held, movBefore s m h.1 = true) ∧
    (∃ (s : State) (m : Fin 256) (i n d : Nat), (mov s m).held = [(i, n, d)] ∧ movBefore s m i = false) :=
  ⟨⟨{ movers := [(255, { held := [(8, 2, 5)] })], fab := { txns := [{ aTxn 7 9 1 with purp := .mover 255 0 8 }] } }, 255, by decide +kernel⟩,
   ⟨{ movers := [(255, { held := [(8, 2, 5)] })] }, 255, 8, 2, 5, by decide +kernel⟩⟩

theorem wit_EventEntry_clauses :
    ∃ (s : State) (e : Fin 512) (t : Fin 4) (l q : Nat), SlotFree s e t ∧ haltDue (thr s e t) (nextSlot s e t) = false ∧
      selectLevel s e t (nextSlot s e t) = some l ∧ (settlePrds (thr s e t) (nextSlot s e t)).rete = some q :=
  ⟨{ sage := { phase := .done }, engines := [(511, { evmap := [(48, 0x1B)], evvec := [(15, 0o1000)], srcs := [(48, { spans := [(1, none)] })], thr := [(3, { st := 1, rete := some 1, active := 1, level := 1, src := 10, en := true, next := 8 })] })] },
    511, 3, 2, 1, by decide +kernel⟩

theorem wit_SourceSpans_clauses :
    (∃ (x : EvSrc) (u c : Nat), x.clears = [] ∧ u < c ∧ x.spans = []) ∧
    (∃ (x : EvSrc) (u c a : Nat), x.clears = [] ∧ u < c ∧ x.spans = [(a, none)] ∧ a ≤ u) :=
  ⟨⟨{}, 5, 6, by decide⟩, ⟨{ spans := [(5, none)] }, 5, 6, 5, by decide⟩⟩

theorem wit_LocalFindings_clauses :
    (∃ (s : State) (e : Fin 512) (a n : Nat), n = 4 ∧ lmFirstBad s e a n = none) ∧
    (∃ (s : State) (e : Fin 512) (a : Nat), lmFirstBad s e a 1 = none) ∧
    (∃ (s : State) (e : Fin 512) (a n w : Nat), n = 4 ∧ lmFirstBad s e a n = some w ∧ w = a + 3) :=
  ⟨⟨{ engines := [(511, { lmBad := [(12, true)] })] }, 511, 8, 4, by decide +kernel⟩, ⟨{}, 511, 8, by decide +kernel⟩,
   ⟨{ engines := [(511, { lmBad := [(11, true)] })] }, 511, 8, 4, 11, by decide +kernel⟩⟩

theorem wit_BurstRule_clauses :
    ∃ (s : State) (k : Nat) (x a b : TylReg) (l r : List TylReg), regBurst s k x = l ++ a :: b :: r :=
  ⟨{ tyl := { regs := [aTylReg 1 0x18200040, aTylReg 2 0x18200044] } }, 7, aTylReg 1 0x18200040, aTylReg 1 0x18200040, aTylReg 2 0x18200044, [], [],
    by decide +kernel⟩

theorem wit_RailTimeoutMulti_clauses :
    (∃ (s : State) (rail : Fin 8), rail ≠ 5 ∧ s.pwr.fails = 2 ∧ s.pwr.rail = .off ∧ s.pwr.live.contains 5 = true) ∧
    (∃ (s : State), s.pwr.fails = 2 ∧ s.pwr.rail = .dead ∧ s.pwr.vaon = true ∧ stageOn s = true ∧ s.pwr.win = 3) ∧
    (∃ (s : State), s.pwr.fails = 2 ∧ s.pwr.rail = .dead ∧ s.pwr.vaon = true ∧ stageOn s = true ∧ 44000 < meanI s.pwr.iinS) :=
  ⟨⟨{ pwr := { fails := 2, rail := .off, live := [5] } }, 7, by decide +kernel⟩, ⟨{ pwr := { fails := 2, rail := .dead, win := 3 } }, by decide +kernel⟩,
   ⟨{ pwr := { fails := 2, rail := .dead, iinS := [44001] } }, by decide +kernel⟩⟩

theorem wit_TablesPredict_clauses :
    (∃ (s : State) (n : Fin 24) (e : PredEnt), predFind s n 0 (Machine.core s n).pc.toNat = some e ∧ predFind s n 1 (Machine.core s n).pc.toNat = none) ∧
    (∃ (s : State) (n : Fin 24), predFind s n 0 (Machine.core s n).pc.toNat = none ∧ predFind s n 1 (Machine.core s n).pc.toNat = none) ∧
    (∃ (s : State) (n : Fin 24) (e : PredEnt), predFind s n 2 (Machine.core s n).pc.toNat = some e ∧ e.val = 0 ∧
      ∀ t ∈ [3, 4, 5, 6], predFind s n t (Machine.core s n).pc.toNat = none) := by
  let at_ := fun (tab v : Nat) => ({ cores := [(23, { run := .running, preds := [predEnt {} 23 tab 0 v] })] } : State)
  have same : ∀ tab v u, predEnt (at_ tab v) 23 u 0 0 = predEnt {} 23 u 0 0 := fun tab v u => by
    have hs : ∀ k, sysr (at_ tab v) 23 k = sysr {} 23 k := fun _ => rfl
    have hh : (Machine.core (at_ tab v) 23).hist = (Machine.core {} 23).hist := rfl
    have hl' : level {} 23 = 3 := by decide +kernel
    have hl : level (at_ tab v) 23 = 3 := (congrArg (fun x => fld x 0 2) (hs 0x400)).trans hl'
    simp only [predEnt, coreDid, predKey, predHist, hl, hl', show ¬(3 : ℕ) < 2 by decide, if_false, hs, hh]
  have one : ∀ tab v, predFind (at_ tab v) 23 tab 0 = some (predEnt {} 23 tab 0 v) := fun tab v =>
    List.find?_cons_of_pos (a := predEnt {} 23 tab 0 v) (l := []) (decide_eq_true (same tab v tab).symm)
  have other : ∀ tab v u, tab ≠ u → predFind (at_ tab v) 23 u 0 = none := fun tab v u h =>
    List.find?_cons_of_neg (a := predEnt {} 23 tab 0 v) (l := [])
      (by rw [decide_eq_true_eq]; exact fun q => h (congrArg PredEnt.tab q))
  exact ⟨⟨at_ 0 9, 23, predEnt {} 23 0 0 9, one 0 9, other 0 9 1 (by decide)⟩, ⟨{}, 23, rfl, rfl⟩,
    ⟨at_ 2 0, 23, predEnt {} 23 2 0 0, one 2 0, rfl, fun t h => other 2 0 t fun q => absurd (q ▸ h) (by decide)⟩⟩

theorem wit_registerRow : ∃ (c : Instr) (s u : State) (e : Fin 512) (t : Fin 4), registerRow c = some (e, t) ∧ exec c s = .next u :=
  ⟨.ngNop 511 3, {}, after (exec (.ngNop 511 3) {}), 511, 3, by decide +kernel, next_after _ (by decide +kernel)⟩

theorem wit_DramRefresh : ∃ (s : State) (pr : Fin 36), clocksOn s = true ∧ rdF s (dchOf pr) 0x040 0 2 = 1 :=
  ⟨wrF {} (.dch 17) 0x040 0 2 1, 35, by decide +kernel⟩

theorem wit_SramTwoPorts_clauses :
    (∃ (s : State) (p q addr n : Nat), otherPort p = some q ∧ (portUse s q).addr = addr ∧ (portUse s q).len = n ∧ (portUse s q).start / 2 = s.dt / 2) ∧
    (∃ (s : State) (p addr n : Nat), sameCycle s p addr n = (0, 0)) :=
  ⟨⟨{ dt := 9, sram := { ports := [(7, { start := 8, stop := 10, addr := 0x10C0000, len := 8, mask := 255, old := 5 })] } }, 6, 7, 0x10C0000, 8, by decide +kernel⟩,
   ⟨{}, 127, 0x1DFFFF8, 8, by decide +kernel⟩⟩

theorem wit_FillOwn : ∃ (s : State) (id m : Nat) (o : Option Nat) (r : DReq), dreq? s id = some r ∧ r.cause = .own m o ∧ r.stat = .returned :=
  ⟨{ dram := { reqs := [{ id := 4, isW := false, line := 5, attr := {}, port := 0, cause := .own 3 (some 16384), stat := .returned }] } }, 4, 3, some 16384,
    { id := 4, isW := false, line := 5, attr := {}, port := 0, cause := .own 3 (some 16384), stat := .returned }, by decide +kernel⟩

/-- A posted write of engine 3, which its page's soft reset has stopped. -/
def aStopped : Txn :=
  { id := 7, req := { master := .engine 3, op := .write, addr := 0x1800000, len := 8, be := 255, data := 0x55, cls := 2, pid := 0 }, attr := { did := 4, cls := 2 },
    lvl := 0, purp := .fwr 2, status := .posted }

/-- Engine 3 under its soft reset with that write not yet issued. -/
def stoppedEngine : State := wrB { fab := { txns := [aStopped], nextId := 8 } } (.nce 3) 0x00C 3 true

theorem wit_StoppedIssuesNone_clauses :
    (∃ (s : State) (r : FReq), oneBlock r = true ∧ (∀ p, regionOf s r.addr ≠ some (.page p)) ∧ regionOf s r.addr ≠ some .tylPages ∧ txn? s s.fab.nextId = none ∧
      (slicePage r.master).any (blkBusy s) = true) ∧
    (∃ (s : State) (id : Nat) (t : Txn), txn? s id = some t ∧ t.status = .posted ∧ (slicePage t.req.master).any (blkBusy s) = true) ∧
    (∃ (s : State) (e : Fin 512) (th : Fin 4) (t : Txn),
      (s.fab.txns.find? fun u => u.req.master = .engine e && u.purp = .fwr th && (u.status = .posted || u.status = .waitCredit)) = some t ∧
      txn? s t.id = some t ∧ t.status = .posted ∧ (slicePage t.req.master).any (blkBusy s) = true) :=
  ⟨⟨stoppedEngine, aStopped.req, by decide +kernel, by rw [show regionOf stoppedEngine aStopped.req.addr = some .sram by decide +kernel]; exact fun p h => (by cases h),
      by decide +kernel⟩,
   ⟨stoppedEngine, 7, aStopped, by decide +kernel⟩,
   ⟨stoppedEngine, 3, 2, aStopped, by decide +kernel⟩⟩

theorem wit_CompletionKept : ∃ (s : State) (id : Nat) (t : Txn), clocksOn s = true ∧ completion? s id = some (t, true) ∧ t.purp = .own ∧ t.req.master = .scu :=
  ⟨{ fab := { txns := [{ id := 7, req := { aRead with master := .scu }, attr := {}, lvl := 0, purp := .own, status := .answered }] } }, 7,
    { id := 7, req := { aRead with master := .scu }, attr := {}, lvl := 0, purp := .own, status := .answered }, by decide +kernel⟩

theorem wit_LevelReturns : ∃ (s : State) (src dst : Page), SidesUp s src dst ∧ xHeld s = false := ⟨{}, .ckrs, .dmc, by decide +kernel⟩

theorem wit_LevelReturns_clauses :
    (∃ (s : State) (src dst : Page) (x : Fin 16), SidesUp s src dst ∧ xHeld s = false ∧ (twinNow s (levelKey (yoyoKey src dst x))).sync = true) ∧
    (∃ (s : State) (src dst : Page) (x : Fin 16), SidesUp s src dst ∧ xHeld s = false ∧ (twinNow s (levelKey (yoyoKey src dst x))).sync = false) :=
  ⟨⟨{ twins := [(levelKey (yoyoKey .ckrs .dmc 0), { sync := true })] }, .ckrs, .dmc, 0, by decide +kernel⟩, ⟨{}, .ckrs, .dmc, 0, by decide +kernel⟩⟩

theorem wit_YoyoAckActs_clauses :
    (∃ (s : State) (src dst : Page) (x : Fin 16), SidesUp s src dst ∧ xHeld s = false ∧ (yoyoNow s (yoyoKey src dst x)).busy = true ∧
      (yoyoNow s (yoyoKey src dst x)).sync = false) ∧
    (∃ (s : State) (src dst : Page) (x : Fin 16), SidesUp s src dst ∧ xHeld s = false ∧ (yoyoNow s (yoyoKey src dst x)).busy = true ∧
      (yoyoNow s (yoyoKey src dst x)).sync = true) :=
  ⟨⟨{ yoyos := [(yoyoKey .ckrs .dmc 0, { busy := true, count := 3 })] }, .ckrs, .dmc, 0, by decide +kernel⟩,
   ⟨{ yoyos := [(yoyoKey .ckrs .dmc 0, { busy := true, sync := true })] }, .ckrs, .dmc, 0, by decide +kernel⟩⟩

theorem wit_CrossingsStopped_clauses :
    (∃ (s : State) (src : Page), clockRuns s src = false) ∧ (∃ (s : State) (dst : Page), clockRuns s dst = false) ∧ (∃ s : State, xHeld s = true) ∧
    (∃ (s : State) (src dst : Page) (v : XSrc), inReset s src = false ∧ clockRuns s src = true ∧ inReset s dst = true ∧ (∀ l, v ≠ .level l)) :=
  ⟨⟨{ mari := { asleep := 2 } }, .ckrs, by decide +kernel⟩, ⟨{ mari := { asleep := 2 } }, .dmc, by decide +kernel⟩,
   ⟨{ mari := { stopped := [51] } }, by decide +kernel⟩,
   ⟨{}, .ckrs, .nce 3, .event, by decide +kernel, by decide +kernel, by decide +kernel, fun _ => by simp⟩⟩

theorem wit_FlushDiscards_clauses :
    (∃ (k due : Nat) (p : Page), flushSide k due = some p) ∧
    (∃ (s : State) (p src dst : Page) (x : Fin 16) (y : Yoyo), s.yoyos = [(yoyoKey src dst x, y)] ∧ y ≠ {} ∧ (p = src ∨ p = dst) ∧ clockRuns s dst = false) ∧
    (∃ (s : State) (p src dst : Page), s.yoyos = [] ∧ s.resets = [] ∧ (p = src ∨ p = dst)) :=
  ⟨⟨yoyoKey .ckrs .dmc 0, 1, .dmc, by decide +kernel⟩,
   ⟨{ mari := { asleep := 2 }, yoyos := [(yoyoKey .ckrs .dmc 0, { busy := true, count := 3 })] }, .dmc, .ckrs, .dmc, 0, { busy := true, count := 3 }, by decide +kernel⟩,
   ⟨{}, .dmc, .ckrs, .dmc, by decide +kernel⟩⟩

theorem wit_DueFirst_clauses :
    (∃ (s : State) (n : Fin 256) (key : Nat), nextAct s n key = none) ∧ (∃ (s : State) (n : Fin 256) (key t : Nat) (a : CellAct), nextAct s n key = some (a, t)) :=
  ⟨⟨{}, 255, 400, by decide +kernel⟩, ⟨{ cells := [(255, { schf := [{ time := 7, action := 1 }] })] }, 255, 400, 7, .sched, by decide +kernel⟩⟩

theorem wit_SlotOwner_clauses :
    (∃ (s : State) (e : Fin 512) (i : Fin 8), engUp s = true ∧ cellOwnerOk (slotSeen s e i) e (slotCell e i) = false) ∧
    (∃ (s : State) (e : Fin 512) (i : Fin 8), engUp s = true ∧ cellOwnerOk (slotState s e i) e (slotCell e i) = false) :=
  ⟨⟨wrF { sage := { phase := .done } } (.nce 511) 0x030 0 6 4, 511, 7, by decide +kernel⟩, ⟨wrF { sage := { phase := .done } } (.nce 511) 0x030 0 6 4, 511, 7, by decide +kernel⟩⟩

/-- Cell 255 enabled, its KEEP set to expire in tick 40. -/
def aKeep : State := wrF (wrB { cells := [(255, { keepAt := 40 })] } (.pc 255) 0x040 0 true) (.pc 255) 0x060 0 5 20

theorem wit_KeepTimeout_clauses :
    (∃ (s : State) (n : Fin 256), cellEn s n = true ∧ pcF s n 0x060 0 5 ≠ 0 ∧ (cell s n).keepAt ≠ 0 ∧ (cell s n).due = []) ∧
    (∃ (s : State) (n : Fin 256) (t : Nat), clocksOn s = true ∧ keepDue s n = some t ∧ keepDue (dueState s n .keep t 1) n = some t) :=
  ⟨⟨aKeep, 255, by decide +kernel⟩, ⟨aKeep, 255, 40, by decide +kernel⟩⟩

/-- A frame of one bit that began in tick 0. -/
def aFrame : TxFrame := { bits := [true], start := 0, segs := [{ base := 0, set := 0 }] }

theorem wit_TxEnd_clauses :
    (∃ (s : State) (n : Fin 256) (f : TxFrame) (t : Nat), clocksOn s = true ∧ (cell s n).txf = some f ∧ frameEnd s n f = some t ∧ txDue (dueState s n .txEnd t 0) n = some t) ∧
    (∃ (s : State) (n : Fin 256) (f : TxFrame), clocksOn s = true ∧ (cell s n).txf = some f ∧ frameEnd s n f = none) :=
  ⟨⟨wrF (wrB { cells := [(255, { txf := some aFrame })] } (.pc 255) 0x040 0 true) (.pc 255) 0x04C 0 3 1, 255, aFrame,
      (frameEnd (wrF (wrB { cells := [(255, { txf := some aFrame })] } (.pc 255) 0x040 0 true) (.pc 255) 0x04C 0 3 1) 255 aFrame).getD 0, by decide +kernel⟩,
   ⟨wrF (wrB { cells := [(255, { txf := some aFrame })] } (.pc 255) 0x040 0 true) (.pc 255) 0x04C 0 3 7, 255, aFrame, by decide +kernel⟩⟩

/-- Cell 255 in ODC mode with a frame in the middle of its bit and STRT set. -/
def aStretch : State := wrF (wrF (wrB { cells := [(255, { txf := some aFrame })] } (.pc 255) 0x040 0 true) (.pc 255) 0x04C 28 4 1) (.pc 255) 0x04C 0 3 7

theorem wit_Stretch_clauses :
    (∃ (s : State) (n : Fin 256) (f : TxFrame),
      let t := (lastSeg f).base + bitTicks s n f (lastSeg f).bit / 2 + 2 ^ (pcF s n 0x04C 28 4 + 10)
      landLevel s n true = false ∧ stretchDue (dueState s n .stretch t 1) n = some t) ∧
    (∃ (s : State) (n : Fin 256), landLevel s n true = true) :=
  ⟨⟨aStretch, 255, aFrame, by decide +kernel⟩, ⟨updCell aStretch 255 fun c => { c with accB := true }, 255, by decide +kernel⟩⟩

theorem wit_RxStored_clauses :
    (∃ (s : State) (n : Fin 256), (shMode s n = 1 ∨ shMode s n = 5 ∨ shMode s n = 6)) ∧
    (∃ (s : State) (n : Fin 256) (x : RxIn) (rest : List RxIn), (cell s n).rxIn = x :: rest ∧ x.errs = []) :=
  ⟨⟨wrF {} (.pc 255) 0x04C 0 3 6, 255, by decide +kernel⟩,
   ⟨{ cells := [(255, { rxIn := [{ tick := 6, ws := [5], errs := [] }] })] }, 255, { tick := 6, ws := [5], errs := [] }, [], by decide +kernel⟩⟩

theorem wit_LandEdge_clauses :
    (∃ (s : State) (n : Fin 256) (level : Bool), clocksOn s = true ∧ (cell s n).accA ≠ level ∧
      (let q := cellAt (cellTo n (actKey s.dt .txEnd) s) (partner n) s.dt
       cellEn (updCell q n fun c => { c with accA := level, edgA := some q.dt }) n = false)) ∧
    (∃ (s : State) (n : Fin 256) (level : Bool), clocksOn s = true ∧ (cell s n).accA ≠ level ∧
      (let q := cellAt (cellTo n (actKey s.dt .txEnd) s) (partner n) s.dt
       let w := updCell q n fun c => { c with accA := level, edgA := some q.dt }
       cellEn w n = true ∧ pcF (restartIdle w n w.dt) n 0x040 16 2 = 3)) :=
  ⟨⟨{ dt := 9 }, 255, true, by decide +kernel⟩, ⟨wrF (wrB { dt := 9 } (.pc 255) 0x040 0 true) (.pc 255) 0x040 16 2 3, 255, true, by decide +kernel⟩⟩

theorem wit_VrFrames_clauses : ∃ (typ rail value seq : Nat), typ < 16 ∧ rail < 32 ∧ value < 1024 ∧ seq < 32 := ⟨15, 31, 1023, 31, by decide⟩

theorem wit_GrantStops : ∃ (w : Fin 3) (n : Fin 24), n.val / 8 = w.val := ⟨2, 23, by decide⟩

theorem wit_ParkRequests : ∃ s : State, 3 ≤ mariLast s ∧ s.pwr.vr = none ∧ s.pwr.vrq = [] := ⟨wrF {} .mari 0x044 14 3 4, by decide +kernel⟩

/-- OFF being entered, with one rail's request left. -/
def offLast : State := wrF (wrF { mari := { rails := [5] } } .mari 0x044 14 3 4) .mari 0x044 1 3 2

theorem wit_ParkEnds : ∃ (s : State) (q : VrReq), s.mari.rails = [q.rail] ∧ mariPhase s = 2 ∧ 3 ≤ mariLast s :=
  ⟨offLast, { typ := 3, rail := 5, value := 0, seq := 0 }, by decide +kernel⟩

theorem wit_ParkEnds_clauses :
    (∃ (s : State) (q : VrReq), s.mari.rails = [q.rail] ∧ mariPhase s = 2 ∧ 3 ≤ mariLast s ∧ s.mari.latch = none) ∧
    (∃ (s : State) (q : VrReq), s.mari.rails = [q.rail] ∧ mariPhase s = 2 ∧ 3 ≤ mariLast s ∧ s.mari.latch ≠ none) :=
  ⟨⟨offLast, { typ := 3, rail := 5, value := 0, seq := 0 }, by decide +kernel⟩,
   ⟨updMari offLast fun m => { m with latch := some 3 }, { typ := 3, rail := 5, value := 0, seq := 0 }, by decide +kernel⟩⟩

theorem wit_WakeAdmitted : ∃ s : State, 3 ≤ mariLast s := ⟨offLast, by decide +kernel⟩

theorem wit_HandoverStarts_clauses : ∃ s : State, Inv s := ⟨{}, wit_inv⟩

theorem wit_LateEvents : ∃ (s : State) (e : Fin 512) (t : Fin 4) (j o x : Nat) (w : PendWr), engUp s = true ∧ (thr s e t).pend[j]? = some w ∧ w.ev = some (o, x) :=
  ⟨{ sage := { phase := .done }, engines := [(511, { thr := [(3, { pend := [{ reg := 1, val := 0, due := 5, load := true, ev := some (0o7, 4) }] })] })] }, 511, 3, 0, 0o7, 4,
    { reg := 1, val := 0, due := 5, load := true, ev := some (0o7, 4) }, by decide +kernel⟩

theorem wit_SlotAccesses : ∃ (s : State) (n : Fin 256) (x : SlotAcc),
    cellOwnerOk (updCell s n fun c => { c with due := c.due.erase x }) (Fin.ofNat 512 x.e) n = true :=
  ⟨{}, 255, { tick := 5, e := 511, t := 3, word := 0, wr := none }, by decide +kernel⟩

theorem wit_SlotAccesses_clauses :
    (∃ (s : State) (n : Fin 256) (x : SlotAcc), cellOwnerOk (updCell s n fun c => { c with due := c.due.erase x }) (Fin.ofNat 512 x.e) n = true ∧
      slotDue (cell s n) false = some x ∧ x.wr = none) ∧
    (∃ (s : State) (n : Fin 256) (x : SlotAcc) (v : Word18), cellOwnerOk (updCell s n fun c => { c with due := c.due.erase x }) (Fin.ofNat 512 x.e) n = true ∧
      slotDue (cell s n) true = some x ∧ x.wr = some v) :=
  ⟨⟨{ cells := [(255, { due := [{ tick := 5, e := 511, t := 3, word := 0, wr := none }] })] }, 255, { tick := 5, e := 511, t := 3, word := 0, wr := none }, by decide +kernel⟩,
   ⟨{ cells := [(255, { due := [{ tick := 5, e := 511, t := 3, word := 0, wr := some 7 }] })] }, 255, { tick := 5, e := 511, t := 3, word := 0, wr := some 7 }, 7,
    by decide +kernel⟩⟩

theorem wit_LoggedInOrder_clauses : ∃ (s : State) (m : FaultMsg) (pre post : List FaultMsg), s.faultQ = pre ++ m :: post ∧ (pre.all fun x => x.logged) = true :=
  ⟨{ faultQ := [{ page := .supv, code := 0x82, cls := 1, attr := {}, detail := 7, did := 3, logged := true }, { page := .supv, code := 0x82, cls := 2, attr := {}, detail := 7, did := 3 }] },
    { page := .supv, code := 0x82, cls := 2, attr := {}, detail := 7, did := 3 }, [{ page := .supv, code := 0x82, cls := 1, attr := {}, detail := 7, did := 3, logged := true }], [],
    by decide +kernel⟩

/-- The TAP with an instruction acting and 531 boundary bits. -/
def aTap (act : Nat) : State := { sage := { phase := .done }, jtag := { act := act, bsr := List.replicate 531 true } }

theorem wit_BoundaryLands_clauses :
    (∃ s : State, jtagActs s = 0x04) ∧
    (∃ (s : State) (n : Fin 256) (b x : Bool), (jtagActs s = 0x00 ∨ jtagActs s = 0x03) ∧ s.jtag.bsr[2 * n.val + b.toNat]? = some x) ∧
    (∃ (s : State) (x : Bool) (l : SpecialLand), (jtagActs s = 0x00 ∨ jtagActs s = 0x03) ∧ s.jtag.bsr[l.bit]? = some x) ∧
    (∃ s : State, jtagActs s ≠ 0x00 ∧ jtagActs s ≠ 0x03 ∧ jtagActs s ≠ 0x04) :=
  ⟨⟨aTap 4, by decide +kernel⟩, ⟨aTap 3, 255, true, true, by decide +kernel⟩, ⟨aTap 0, true, .thermN, by decide +kernel⟩, ⟨aTap 2, by decide +kernel⟩⟩

theorem wit_ApThread : ∃ s : State, tapOn s = true ∧ jtagActs s = 0x10 := ⟨{ sage := { phase := .done }, jtag := { act := 0x10 } }, by decide +kernel⟩

theorem wit_ApThread_clauses :
    (∃ (s : State) (e : Fin 512) (t i : Fin 4) (q : RqEnt), tapOn s = true ∧ jtagActs s = 0x10 ∧ (thr s e t).rq[i.val]? = some q ∧ q.ready = true) ∧
    (∃ (s : State) (e : Fin 512) (t i : Fin 4) (q : Txn), tapOn s = true ∧ jtagActs s = 0x10 ∧ (postedOf s e t)[i.val]? = some q) :=
  ⟨⟨{ sage := { phase := .done }, jtag := { act := 0x10 }, engines := [(511, { thr := [(3, { rq := [{ id := 7, val := 5, ready := true }] })] })] }, 511, 3, 0, { id := 7, val := 5, ready := true }, by decide +kernel⟩,
   ⟨{ sage := { phase := .done }, jtag := { act := 0x10 }, fab := { txns := [aStopped] } }, 3, 2, 0, aStopped, by decide +kernel⟩⟩

/-- The TAP with MEM_AP acting. -/
def anAp : State := { sage := { phase := .done }, jtag := { act := 0x10 } }

theorem wit_ApMemory_clauses :
    (∃ (s u : State) (a : BitVec 48) (n : Fin 65) (env : MemEnv) (l : List Byte), tapOn s = true ∧ jtagActs s = 0x10 ∧
      ((List.range n.val).all fun i => apReaches s (a.toNat + i)) = true ∧ busOk (busRead s .scu (scuAttr s) a.toNat n.val env) = some (u, l)) ∧
    (∃ (s u : State) (a : BitVec 48) (n : Fin 65) (x : Nat) (env : MemEnv) (l : List Byte), tapOn s = true ∧ jtagActs s = 0x10 ∧
      ((List.range n.val).all fun i => apReaches s (a.toNat + i)) = true ∧ busOk (busWrite s .scu (scuAttr s) a.toNat (bytesOf n.val x) env) = some (u, l)) ∧
    (∃ (s : State) (a : BitVec 48) (n : Fin 65), tapOn s = true ∧ jtagActs s = 0x10 ∧ ((List.range n.val).all fun i => apReaches s (a.toNat + i)) = false) :=
  ⟨⟨anAp, ((busOk (busRead anAp .scu (scuAttr anAp) 0x1000000 64 {})).getD ({}, [])).1, 0x1000000, 64, {}, ((busOk (busRead anAp .scu (scuAttr anAp) 0x1000000 64 {})).getD ({}, [])).2, by decide +kernel⟩,
   ⟨anAp, ((busOk (busWrite anAp .scu (scuAttr anAp) 0x1000000 (bytesOf 8 7) {})).getD ({}, [])).1, 0x1000000, 8, 7, {}, ((busOk (busWrite anAp .scu (scuAttr anAp) 0x1000000 (bytesOf 8 7) {})).getD ({}, [])).2,
    by decide +kernel⟩,
   ⟨anAp, 0x10000000, 1, by decide +kernel⟩⟩

theorem wit_BistEnd_clauses :
    (∃ (s : State) (b : BistRun), s.bist = some b ∧ clocksOn s = true ∧ rdB s .flts 0x040 2 = true) ∧
    (∃ (s : State) (b : BistRun), s.bist = some b ∧ clocksOn s = true ∧ rdB s .flts 0x040 2 = false) :=
  ⟨⟨wrB { bist := some { typ := 6, index := 17, kind := 1 } } .flts 0x040 2 true, { typ := 6, index := 17, kind := 1 }, by decide +kernel⟩,
   ⟨{ bist := some { typ := 6, index := 17, kind := 1 } }, { typ := 6, index := 17, kind := 1 }, by decide +kernel⟩⟩

theorem wit_BistStops_clauses : (∃ s : State, rdB s .flts 0x040 2 = false) ∧ (∃ s : State, rdB s .flts 0x040 2 = true) :=
  ⟨⟨{}, by decide +kernel⟩, ⟨wrB {} .flts 0x040 2 true, by decide +kernel⟩⟩

theorem wit_TylSilent : ∃ s : State, tylCarries s = false := ⟨wrF {} .tylw 0x044 0 2 2, by decide +kernel⟩

/-- Controller 3 in root-complex or endpoint mode with its link up and a map entry for key 9. -/
def aPce (ctrl : BitVec 32) : State := wr (wrF (wr {} (.pce 3) 0x040 ctrl) (.pce 3) 0x044 0 2 2) (.pce 3) 0x080 0x40000009

theorem wit_PcieInGated_clauses :
    (∃ (s : State) (c : Fin 4), gated s (owner s (.pce c)) = true ∧ rdB s (.pce c) 0x040 1 = true) ∧
    (∃ (s : State) (c : Fin 4) (addr : BitVec 64) (len : Fin 4097), gated s (owner s (.pce c)) = true ∧ rdB s (.pce c) 0x040 0 = true ∧ pceLink s c = 2 ∧ clocksOn s = true ∧
      blkBusy s (.pce c) = false ∧ len.val ≠ 0 ∧ len.val ≤ 512 ∧ ¬ (c = 0 ∧ bootPcie s = true ∧ s.sage.phase ≠ .done) ∧
      rdB s (.pce c) 0x040 1 = false ∧ 0xE0000000 ≤ addr.toNat ∧ addr.toNat < 0xE0001000) :=
  ⟨⟨wrB (aPce 3) .fabr 0x044 0 true, 3, by decide +kernel⟩, ⟨wrB (aPce 1) .fabr 0x044 0 true, 3, 0xE0000FFC, 4, by decide +kernel⟩⟩

theorem wit_PcieInOutside : ∃ (s : State) (c : Fin 4) (isW : Bool) (key : BitVec 16) (fn : Fin 4) (len : Fin 4097) (n : Nat), InReach s c isW len ∧
    (¬ (c = 0 ∧ bootPcie s = true ∧ s.sage.phase ≠ .done)) ∧ pceMatch s c (if rdB s (.pce c) 0x040 1 then fn.val else key.toNat) = some n :=
  ⟨aPce 1, 3, true, 9, 0, 4, 0, by decide +kernel⟩

theorem wit_PcieInOutside_clauses :
    (∃ (s : State) (c : Fin 4) (isW : Bool) (key : BitVec 16) (fn : Fin 4) (addr : BitVec 64) (len : Fin 4097) (n : Nat), InReach s c isW len ∧
      (¬ (c = 0 ∧ bootPcie s = true ∧ s.sage.phase ≠ .done)) ∧ pceMatch s c (if rdB s (.pce c) 0x040 1 then fn.val else key.toNat) = some n ∧
      rdB s (.pce c) 0x040 1 = false ∧ 2 ^ 48 < addr.toNat + len.val) ∧
    (∃ (s : State) (c : Fin 4) (isW : Bool) (key : BitVec 16) (fn : Fin 4) (addr : BitVec 64) (len : Fin 4097) (n : Nat), InReach s c isW len ∧
      (¬ (c = 0 ∧ bootPcie s = true ∧ s.sage.phase ≠ .done)) ∧ pceMatch s c (if rdB s (.pce c) 0x040 1 then fn.val else key.toNat) = some n ∧ rdB s (.pce c) 0x040 1 = true ∧
      (rdF s (.pce c) 0x040 7 2 < fn.val ∨ 2 ^ (rdF s (.pce c) (0x0C0 + 8 * fn.val) 0 5 + 12) < addr.toNat + len.val)) :=
  ⟨⟨aPce 1, 3, true, 9, 0, 0xFFFFFFFFFFFD, 4, 0, by decide +kernel⟩, ⟨wr (aPce 3) (.pce 3) 0x080 0x40000000, 3, false, 9, 0, 0xFFD, 4, 0, by decide +kernel⟩⟩

theorem wit_MsixBytes_clauses : ∃ (fn g : Fin 4) (o p : Nat), o < 1024 ∧ p < 1024 ∧ (g ≠ fn ∨ p ≠ o) := ⟨3, 3, 1023, 0, by decide⟩

/-- MAC 7 enabled with its link up and a frame on its lane. -/
def aMac (r : EthMac) : State := wrB (wrB (wrB { macs := [(7, r)] } (.eth 7) 0x040 0 true) (.eth 7) 0x044 0 true) (lnPage 27) 0x044 6 false

theorem wit_EthReplicas_clauses :
    (∃ (s : State) (m : Fin 8), ethLive s m = false) ∧ (∃ (s : State) (m : Fin 8), ethLive s m = true) ∧
    (∃ (s : State) (m : Fin 8) (q : Nat) (g : List Byte), repHead s m q = some (q, g)) :=
  ⟨⟨{}, 7, by decide +kernel⟩, ⟨aMac {}, 7, by decide +kernel⟩, ⟨aMac { reps := [(7, [1, 2])] }, 7, 7, [1, 2], by decide +kernel⟩⟩

theorem wit_HoldCuts_clauses :
    (∃ (s : State) (m : Fin 8), (mac s m).hold = false ∨ laneNow s m = none) ∧
    (∃ (s : State) (m : Fin 8) (l : LaneTx), laneNow s m = some l ∧ fragCut s m l = none) ∧
    (∃ (s : State) (m : Fin 8) (l : LaneTx) (c : Nat), (mac s m).hold = true ∧ laneNow s m = some l ∧ fragCut s m l = some c) :=
  ⟨⟨aMac {}, 7, by decide +kernel⟩,
   ⟨aMac { hold := true, lane := some { pre := true, bytes := List.replicate 123 0, start := 0, stop := 100 } }, 7, { pre := true, bytes := List.replicate 123 0, start := 0, stop := 100 }, by decide +kernel⟩,
   ⟨aMac { hold := true, lane := some { pre := true, bytes := List.replicate 124 0, start := 0, stop := 100 } }, 7, { pre := true, bytes := List.replicate 124 0, start := 0, stop := 100 }, 64,
    by decide +kernel⟩⟩

theorem wit_IntxReceived : ∃ (s : State) (src : Fin 2048) (c : Fin 4), src.val / 4 = 328 + c.val ∧ clocksOn s = true := ⟨{}, 1327, 3, by decide +kernel⟩

theorem wit_IntxReceived_clauses : ∃ (s : State) (src : Fin 2048) (c : Fin 4), src.val / 4 = 328 + c.val ∧ clocksOn s = true ∧
    takeMsg .assert src s.ic.msgs = none ∧ takeMsg .deassert src s.ic.msgs = none := ⟨aPce 1, 1327, 3, by decide +kernel⟩

theorem wit_MessagesStand : ∃ s : State, clocksOn s = false := ⟨{ mari := { asleep := 2 } }, by decide +kernel⟩

theorem wit_CalCopies : ∃ t pr : Nat, t < 9 ∧ pr < 36 := ⟨8, 35, by decide⟩

theorem wit_EventsOnce_clauses : ∃ (evs : List Nat) (e : Nat), e ∈ evs := ⟨[0x05], 0x05, by decide⟩

theorem wit_OnePart_clauses :
    (∃ (s u : State) (n : Fin 24) (ea len : Nat) (acc : Acc) (env : MemEnv) (x : Xlat), (Machine.core s n).got = [] ∧ len ≤ 64 - ea % 64 ∧ xlatNoted s n ea acc env = .ok u x) ∧
    (∃ (s : State) (n : Fin 24) (ea len : Nat) (acc : Acc) (k : KeptXlat), (Machine.core s n).got ≠ [] ∧ keptXlat s n ea len acc = some k) :=
  ⟨⟨aMem, aMem, 23, 0x1000138, 8, .read, {}, { pa := 0x1000138, ty := 2 }, by decide +kernel, by decide, xr_ok _ _ _ (by decide +kernel)⟩,
   ⟨coreWith { got := [{ addr := 0x1000138, len := 8, data := 5 }], xlats := [{ ea := 0x1000138, len := 8, write := false, parts := [] }] }, 23, 0x1000138, 8, .read,
    { ea := 0x1000138, len := 8, write := false, parts := [] }, by decide +kernel⟩⟩

theorem wit_WalkNoted_clauses :
    ∃ (s u : State) (n : Fin 24) (ea : Nat) (acc : Acc) (env : MemEnv) (x : Xlat), translate s n ea acc env = .ok u x ∧ x.walked = false :=
  ⟨aMem, aMem, 23, 0x1000138, .read, {}, { pa := 0x1000138, ty := 2 }, xr_ok _ _ _ (by decide +kernel), rfl⟩

/-- Core 23 with one store of 8 bytes in its buffer. -/
def aStored : State := coreWith { sb := [{ pa := 0x1000100, len := 8, data := 7, ty := 2, lvl := 3, attr := {} }] }

theorem wit_NothingMerged_clauses :
    (∃ (s : State) (n : Fin 24) (ps : List Machine.Part), ∀ p ∈ ps.filter fun p => decide (p.ty ≠ 0), youngest s n p = none) ∧
    (∃ (s : State) (n : Fin 24) (ps : List Machine.Part), (∃ p ∈ ps.filter fun p => decide (p.ty ≠ 0), youngest s n p ≠ none) ∧
      forwards s n (ps.filter fun p => decide (p.ty ≠ 0)) = true) ∧
    (∃ (s : State) (n : Fin 24) (ps : List Machine.Part), (∃ p ∈ ps.filter fun p => decide (p.ty ≠ 0), youngest s n p ≠ none) ∧
      forwards s n (ps.filter fun p => decide (p.ty ≠ 0)) = false) :=
  ⟨⟨aMem, 23, [{ pa := 0x1000100, len := 8, ty := 2, walked := false }], by decide +kernel⟩,
   ⟨aStored, 23, [{ pa := 0x1000104, len := 4, ty := 2, walked := false }], by decide +kernel⟩,
   ⟨aStored, 23, [{ pa := 0x1000104, len := 8, ty := 2, walked := false }], by decide +kernel⟩⟩

theorem wit_StoreCommitRow_clauses : ∃ (s u : State) (n : Fin 24) (x : StoreEnt) (env : MemEnv), (Machine.core s n).sb[0]? = some x ∧ commitStore s n x env = .ok u :=
  ⟨aStored, (commitStore aStored 23 { pa := 0x1000100, len := 8, data := 7, ty := 2, lvl := 3, attr := {} } {}).toOption.getD {}, 23,
    { pa := 0x1000100, len := 8, data := 7, ty := 2, lvl := 3, attr := {} }, {}, by decide +kernel⟩

theorem wit_AheadDiscarded_clauses :
    (∃ (s : State) (n : Fin 24), (Machine.core s n).early.length = 0) ∧ (∃ (s : State) (n : Fin 24), (Machine.core s n).early.length ≠ 0) :=
  ⟨⟨aMem, 23, by decide +kernel⟩, ⟨anEarly, 23, by decide +kernel⟩⟩

theorem wit_PredictorContexts_clauses : ∃ (s : State) (n : Fin 24) (tab pc v : Nat), (predTrain s n true tab pc v).2 = true := ⟨aMem, 23, 0, 0x1000000, 1, by decide +kernel⟩

theorem wit_RegisterRowsLeave_clauses :
    ∃ (c : Instr) (z s u : State) (n : Fin 24) (fr : Front) (fe : List Nat) (d f : Option (Fin 32)), wRegisterRow c = some (n, d, f, fr) ∧ Issues z n fr fe s ∧
      exec c z = .next u ∧ fr.wrong = [] :=
  ⟨.wAdd 23 31 1 2 {}, aMem, aMem, after (exec (.wAdd 23 31 1 2 {}) aMem), 23, {}, [], some 31, none, rfl, by decide +kernel, next_after _ (by decide +kernel), rfl⟩

/-- Thread 3 of engine 511 with a match armed in tick 8. -/
def anArmed (dt : Nat) : State := { dt := dt, sage := { phase := .done }, engines := [(511, { thr := [(3, { st := 1, tcmpL := 7, armed := some 8 })] })] }

theorem wit_TimeMatch_clauses :
    (∃ (s : State) (e : Fin 512) (t : Fin 4), engUp s = true ∧ matchTick (thr s e t) = none) ∧
    (∃ (s : State) (e : Fin 512) (t : Fin 4) (m : Nat), engUp s = true ∧ matchTick (thr s e t) = some m ∧ s.dt < m) ∧
    (∃ (s : State) (e : Fin 512) (t : Fin 4) (m : Nat), engUp s = true ∧ matchTick (thr s e t) = some m ∧ m ≤ s.dt) ∧
    (∃ s : State, engUp s = false) :=
  ⟨⟨{ sage := { phase := .done } }, 511, 3, by decide +kernel⟩, ⟨anArmed 9, 511, 3, 68719476743, by decide +kernel⟩,
   ⟨anArmed 68719476743, 511, 3, 68719476743, by decide +kernel⟩, ⟨{}, by decide +kernel⟩⟩

theorem wit_Entered_clauses :
    (∃ (s : State) (e : Fin 512) (t : Fin 4) (l slot : Nat), l ≤ 3 ∧ bit (evMapAt s e ((pendingOf s e t l (slot - 3)).headD 0) (slot - 3)) 4 = false) ∧
    (∃ (s : State) (e : Fin 512) (t : Fin 4) (l slot : Nat), l ≤ 3 ∧ bit (evMapAt s e ((pendingOf s e t l (slot - 3)).headD 0) (slot - 3)) 4 = true) :=
  ⟨⟨{}, 511, 3, 3, 8, by decide +kernel⟩, ⟨{ engines := [(511, { evmap := (List.range 64).map fun i => (i, 0x10) })] }, 511, 3, 3, 8, by decide +kernel⟩⟩

theorem wit_WSysTraps_clauses :
    (∃ (z s : State) (n : Fin 24) (fr : Front) (fe : List Nat) (k : Fin 4096), Issues z n fr fe s ∧ sysListed k = false) ∧
    (∃ (z s : State) (n : Fin 24) (fr : Front) (fe : List Nat) (k : Fin 4096), Issues z n fr fe s ∧ sysListed k = true ∧ level s n < k.val / 1024) ∧
    (∃ (z s : State) (n : Fin 24) (fr : Front) (fe : List Nat) (a : Fin 32) (k : Fin 4096), Issues z n fr fe s ∧ sysListed k = true ∧ (sysMask k).isSome = true ∧
      sysBad k (getW s n a) = false ∧ level s n < k.val / 1024) ∧
    (∃ (z s : State) (n : Fin 24) (fr : Front) (fe : List Nat) (a : Fin 32) (k : Fin 4096), Issues z n fr fe s ∧ (sysMask k = none ∨ sysBad k (getW s n a) = true)) :=
  ⟨⟨aMem, aMem, 23, {}, [], 0x3FF, by decide +kernel⟩, ⟨coreWith { sys := [(0x400, 0)] }, coreWith { sys := [(0x400, 0)] }, 23, {}, [], 0x400, by decide +kernel⟩,
   ⟨coreWith { sys := [(0x400, 0)] }, coreWith { sys := [(0x400, 0)] }, 23, {}, [], 0, 0x401, by decide +kernel⟩, ⟨aMem, aMem, 23, {}, [], 1, 0x005, by decide +kernel⟩⟩

/-- The state in which an access waits. -/
def waitingAt {α : Type} : XR α → Option State
  | .wait u => some u
  | _ => none

theorem xr_wait {α : Type} (r : XR α) (h : (waitingAt r).isSome = true) : r = .wait ((waitingAt r).getD {}) := by
  cases r <;> simp_all [waitingAt]

theorem wit_WLoadWaits : ∃ (z s : State) (n : Fin 24) (fr : Front) (fe : List Nat), Issues z n fr fe s := ⟨aMem, aMem, 23, {}, [], by decide +kernel⟩

theorem wit_WLoadWaits_clauses :
    (∃ (s u : State) (n : Fin 24) (a : Fin 32) (imm : BitVec 16) (env : MemEnv), loadAt s n a (memEa s n a imm) 1 env = .wait u) ∧
    (∃ (s u : State) (n : Fin 24) (a : Fin 32) (imm : BitVec 16) (env : MemEnv), loadAt s n a (memEa s n a imm) 2 env = .wait u) ∧
    (∃ (s u : State) (n : Fin 24) (a : Fin 32) (imm : BitVec 16) (env : MemEnv), loadAt s n a (memEa s n a imm) 4 env = .wait u) ∧
    (∃ (s u : State) (n : Fin 24) (a : Fin 32) (imm : BitVec 16) (env : MemEnv), loadAt s n a (memEa s n a imm) 8 env = .wait u) :=
  ⟨⟨aMem, _, 23, 1, 0, { held := true }, xr_wait _ (by decide +kernel)⟩, ⟨aMem, _, 23, 1, 0, { held := true }, xr_wait _ (by decide +kernel)⟩,
   ⟨aMem, _, 23, 1, 0, { held := true }, xr_wait _ (by decide +kernel)⟩, ⟨aMem, _, 23, 1, 0, { held := true }, xr_wait _ (by decide +kernel)⟩⟩

/-- The SCU's GCL_GO of MAC 7, which stands in the bridge. -/
def aGclGo : RegReq := { regReq {} .scu 2 1 (pageAddr (.eth 7) + 0x0A0) true (some 1) with inside := true }

/-- A read of MAC 7 on its way to the bank of its lists. -/
def aListRead : Txn :=
  { id := 7, req := { master := .eth 7, op := .read, addr := 0x1010020, len := 8, be := 255, data := 0, cls := 0, pid := 0 }, attr := ethAttr {} 7, lvl := 0, purp := .plain,
    status := .transit }

/-- The lists of MAC 7 lie in on-chip SRAM, behind that read, and its GCL_GO waits for them. -/
def gclWaits : State := wr { fab := { txns := [aListRead], nextId := 8, stalled := [aGclGo] } } (.eth 7) 0x048 128

/-- What the register write leaves where it has to wait. -/
def gclLeft : State :=
  match putReg (pageNow (dropStalled gclWaits aGclGo) (.eth 7)) aGclGo (.eth 7) 0x0A0 1 {} with
  | .ok _ => {}
  | .error u => u

theorem wit_AutoWakeAgain : ∃ (s u : State) (q : RegReq) (p : Page) (env : MemEnv),
    (s.fab.stalled.find? fun q => q.inside && !reqAsleep s q) = some q ∧ pageOfAddr q.addr = some p ∧
    serveReg (dropStalled s q) q p env = (stallReq u { q with inside := true }, none) ∧ u.fab.stalled = (dropStalled s q).fab.stalled :=
  ⟨gclWaits, gclLeft, aGclGo, .eth 7, {}, by decide +kernel⟩

theorem wit_CalCopies_clauses : ∃ (s : State) (t pr b n a : Nat), t < 9 ∧ pr < 36 ∧ calUsed s t = true ∧ calSlot t = some (b, n) ∧ b ≤ a ∧ a < b + n :=
  ⟨calPut (epWrite {} 5 [1]) 0 64 0 [] (some 0), 0, 35, 0, 64, 63, by decide +kernel⟩

end Sys2Proof.Tests
end

section
/-!
PROOFS. Fields of a register (R7) and the registers of a page: what reads back after a field is written, an interrupt line is raised
or an error is recorded.
-/

namespace Sys2Proof.Machine

/-! ## Fields of a register -/

/-- The bits of a field are those of the register from its low end on. -/
theorem testBit_fld {w : Nat} (v : BitVec w) (lo n i : Nat) : (fld v lo n).testBit i = (decide (i < n) && v.getLsbD (lo + i)) := by
  simp [fld, Nat.testBit_mod_two_pow, Nat.testBit_div_two_pow, BitVec.getLsbD, Nat.add_comm]

/-- A register with a field set has the new value's bits in the field and its own elsewhere. -/
theorem getLsbD_setFld {w : Nat} (v : BitVec w) (lo n x i : Nat) :
    (setFld v lo n x).getLsbD i = if lo ≤ i ∧ i < lo + n then decide (i < w) && x.testBit (i - lo) else v.getLsbD i := by
  have hb : ∀ y : Nat, (BitVec.ofNat w (y * 2 ^ lo)).getLsbD i = (decide (i < w) && (decide (lo ≤ i) && y.testBit (i - lo))) := fun y => by
    rw [BitVec.getLsbD_ofNat, Nat.testBit_mul_two_pow]
  rw [setFld, BitVec.getLsbD_or, BitVec.getLsbD_and, BitVec.getLsbD_not, hb, hb, Nat.testBit_two_pow_sub_one, Nat.testBit_mod_two_pow]
  by_cases hw : i < w
  · by_cases h : lo ≤ i ∧ i < lo + n
    · simp [h, hw, show i - lo < n by omega]
    · rw [if_neg h]
      by_cases hlo : lo ≤ i
      · simp [hlo, hw, show ¬ i - lo < n by omega]
      · simp [hlo, hw]
  · simp [hw, BitVec.getLsbD_of_ge v i (Nat.le_of_not_lt hw)]

/-- A field that has been set reads as the new value's low bits. -/
theorem fld_setFld_same {w : Nat} (v : BitVec w) {lo n : Nat} (x : Nat) (h : lo + n ≤ w) : fld (setFld v lo n x) lo n = x % 2 ^ n := by
  refine Nat.eq_of_testBit_eq fun i => ?_
  rw [testBit_fld, getLsbD_setFld, Nat.testBit_mod_two_pow]
  by_cases hi : i < n
  · simp [hi, show lo + i < w by omega]
  · simp [hi]

/-- A field apart from the one that has been set reads as before. -/
theorem fld_setFld_apart {w : Nat} (v : BitVec w) {lo n lo' m : Nat} (x : Nat) (h : lo' + m ≤ lo ∨ lo + n ≤ lo') :
    fld (setFld v lo n x) lo' m = fld v lo' m := by
  refine Nat.eq_of_testBit_eq fun i => ?_
  rw [testBit_fld, testBit_fld, getLsbD_setFld]
  by_cases hi : i < m
  · rw [if_neg (by omega)]
  · simp [hi]

/-- A field is below its power of two. -/
theorem fld_lt {w : Nat} (v : BitVec w) (lo n : Nat) : fld v lo n < 2 ^ n := Nat.mod_lt _ (Nat.two_pow_pos n)

/-! ## Registers of a page -/

/-- A field that has been written reads as the new value's low bits. -/
theorem rdF_wrF_same (s : State) (p : Page) (off : Nat) {lo n : Nat} (x : Nat) (h : lo + n ≤ 32) :
    rdF (wrF s p off lo n x) p off lo n = x % 2 ^ n := by
  rw [rdF, wrF, rd_wr, fld_setFld_same _ _ h]

/-- Another field of the register that has been written reads as before. -/
theorem rdF_wrF_apart (s : State) (p : Page) (off : Nat) {lo n lo' m : Nat} (x : Nat) (h : lo' + m ≤ lo ∨ lo + n ≤ lo') :
    rdF (wrF s p off lo n x) p off lo' m = rdF s p off lo' m := by
  rw [rdF, wrF, rd_wr, fld_setFld_apart _ _ h, rdF]

/-- Another register of the page reads as before a field was written. -/
theorem rd_wrF_off (s : State) (p : Page) {off o : Nat} (lo n x : Nat) (h : o ≠ off) : rd (wrF s p off lo n x) p o = rd s p o :=
  rd_wr_off s p _ h

/-- Another register of the page reads as before a count. -/
theorem rd_bumpF_off (s : State) (p : Page) {off o : Nat} (lo n k : Nat) (h : o ≠ off) : rd (bumpF s p off lo n k) p o = rd s p o :=
  rd_wrF_off s p _ _ _ h

/-- A message to the interrupt controller leaves the registers as the change itself left them. -/
@[simp] theorem withLine_regs (p : Page) (f : State → State) (s : State) : (withLine p f s).regs = (f s).regs := by
  unfold withLine; dsimp only; split <;> simp

/-- Raising interrupt bits changes IRQ_STAT of the page alone. -/
theorem rd_setIrq_off (s : State) (p : Page) {o : Nat} (mask : Nat) (h : o ≠ 0x010) : rd (setIrq s p mask) p o = rd s p o := by
  unfold setIrq
  split
  · rw [rd_congr (withLine_regs ..), rd_wr_off _ _ _ h]
  · rfl

/-- Recording an error changes registers of the page's first 0x30 bytes alone (R118, R119). -/
theorem rd_recordErr_off (s : State) (p : Page) (code cls : Nat) (a : Attr) (detail did : Nat) (b : Bool) {o : Nat} (h : 0x030 ≤ o) :
    rd (recordErr s p code cls a detail did b) p o = rd s p o := by
  have hne : ∀ r, r < 0x030 → o ≠ r := fun r hr => by omega
  have hcount : rd (bumpF s p 0x02C 16 16 1) p o = rd s p o := rd_bumpF_off s p _ _ _ (hne _ (by decide))
  have hmsg : ∀ (t : State) (q : List FaultMsg), rd (if cls = corrected then t else { t with faultQ := q }) p o = rd t p o :=
    fun t q => rd_congr (by split <;> rfl) p o
  unfold recordErr
  dsimp only
  rw [hmsg]
  split
  · rw [wrB, rd_wrF_off _ _ _ _ _ (hne _ (by decide)), hcount]
  · rw [rd_setIrq_off _ _ _ (hne _ (by decide)), rd_wr_off _ _ _ (hne _ (by decide)), rd_wr_off _ _ _ (hne _ (by decide)),
      rd_wr_off _ _ _ (hne _ (by decide)), hcount]

/-- A corrected internal error leaves the fields of the page's other registers. -/
theorem rdF_recInternal_off (s : State) (p : Page) (code detail : Nat) {o : Nat} (lo n : Nat) (h : 0x030 ≤ o) :
    rdF (recInternal s p code detail) p o lo n = rdF s p o lo n := by
  rw [rdF, recInternal, rd_recordErr_off _ _ _ _ _ _ _ _ h, rdF]

end Sys2Proof.Machine
end

section
/-!
PROOFS. The operations of the DRAM controller's maintenance (R291 to R311): outcomes of reads, migration requests, refresh factors,
the pace of patrol scrub.
-/

namespace Sys2Proof.Machine

/-! ## What a read finds (R292) -/

/-- A read without errors finds the line as it is stored: POISONED or CLEAN. -/
theorem decodeLine_clean (s : State) (x : Line × Bool) : decodeLine s x {} = (s, if x.2 then 3 else 0, x.1) := rfl

/-- The outcome of a read without errors is not CORRECTED. -/
theorem clean_ne_corrected (poison : Bool) : (if poison then 3 else 0 : Fin 4) ≠ 1 := by cases poison <;> decide

/-- The outcome of a read without errors is not UNCORRECTABLE. -/
theorem clean_ne_uncorrectable (poison : Bool) : (if poison then 3 else 0 : Fin 4) ≠ 2 := by cases poison <;> decide

/-- A read without errors is handed on as poisoned where the line is stored so. -/
theorem decide_two_le_clean (poison : Bool) : decide (2 ≤ (if poison then 3 else 0 : Fin 4).val) = poison := by cases poison <;> rfl

/-- A read with four symbols in error is UNCORRECTABLE. -/
theorem decodeLine_four (s : State) (x : Line × Bool) : decodeLine s x { sym := 4 } = (s, 2, x.1) := rfl

/-- Where only reads stand at the ports no write of a line is queued. -/
theorem writeQueued_of_reads {s : State} (h : ∀ r ∈ s.dram.reqs, r.isW = false) (la : Nat) : writeQueued s la = false := by
  rw [writeQueued, List.any_eq_false]
  intro r hr
  simp [h r hr]

/-! ## Migration requests and MODE (R306, R308, R311) -/

/-- A migration requested while a spare is FREE joins the waiting ones. -/
theorem reqMigration_waits {s : State} {l : Nat} (hn : rankState s l = 0) (hw : l ∉ s.dram.migReq) (hf : freeSpare s ≠ none) :
    reqMigration s l = { s with dram := { s.dram with migReq := (l :: s.dram.migReq).mergeSort (· ≤ ·) } } := by
  rw [reqMigration, if_neg (by simp [hn, hw]), if_neg (by simpa using hf)]

/-- A migration requested with no FREE spare leaves its rank DEGRADED. -/
theorem reqMigration_degrades {s : State} {l : Nat} (hn : rankState s l = 0) (hw : l ∉ s.dram.migReq) (hf : freeSpare s = none) :
    reqMigration s l = degrade s l := by
  rw [reqMigration, if_neg (by simp [hn, hw]), if_pos (by simp [hf])]

/-- MODE goes back to NORMAL where DRAM is in service, no migration runs or waits and nothing is under BIST. -/
theorem restoreMode_normal {s : State} (hs : rdB s .dmc 0x040 0 = true) (hm : s.dram.mig = none) (hq : s.dram.migReq = [])
    (hb : s.bist = none) : restoreMode s = setMode s false := by
  rw [restoreMode, if_pos (by simp [hs, hm, hq, hb])]

/-- A write of the EEPROM leaves the DRAM controller. -/
@[simp] theorem epWrite_dram (s : State) (a : Nat) (bs : List Byte) : (epWrite s a bs).dram = s.dram := rfl

/-- A byte of the rank-retirement record leaves the DRAM controller. -/
@[simp] theorem setRankByte_dram (s : State) (pr v : Nat) : (setRankByte s pr v).dram = s.dram := by
  simp only [setRankByte, calPut, epWrite_dram]

/-- The corrected outcomes that count are less than an hour old. -/
theorem mem_ceRecent {s : State} {pr x : Nat} (h : x ∈ ceRecent s pr) : s.dt < x + ticksPerHour :=
  of_decide_eq_true (List.mem_filter.1 h).2

/-! ## Refresh factors (R299) -/

/-- A reading in range sets REFX to the higher of the two factors. -/
theorem setRefx_inRange (s : State) (ch : Fin 18) :
    setRefx s ch false = wrF s (.dch ch) 0x040 2 2 (max (SMap.get 0 s.dram.devX ch) (pkgFactor s.dram.pkgTemp)) := rfl

/-- A reading out of range sets REFX to 4× and records TEMP_HIGH. -/
theorem setRefx_hot (s : State) (ch : Fin 18) :
    setRefx s ch true = recInternal (wrF s (.dch ch) 0x040 2 2 2) (.dch ch) 0x84 0 := rfl

/-- The state of a channel stands while its refresh factor is set. -/
theorem chanState_setRefx (s : State) (ch : Fin 18) (hot : Bool) :
    rdF (setRefx s ch hot) (.dch ch) 0x040 0 2 = rdF s (.dch ch) 0x040 0 2 := by
  cases hot with
  | false => rw [setRefx_inRange, rdF_wrF_apart _ _ _ _ (by decide)]
  | true => rw [setRefx_hot, rdF_recInternal_off _ _ _ _ _ _ (by decide), rdF_wrF_apart _ _ _ _ (by decide)]

/-- REFX as a reading in range leaves it. -/
theorem refx_setRefx_inRange (s : State) (ch : Fin 18) :
    rdF (setRefx s ch false) (.dch ch) 0x040 2 2 = max (SMap.get 0 s.dram.devX ch) (pkgFactor s.dram.pkgTemp) % 4 :=
  rdF_wrF_same s (.dch ch) 0x040 _ (by decide)

/-- REFX as a reading out of range leaves it. -/
theorem refx_setRefx_hot (s : State) (ch : Fin 18) : rdF (setRefx s ch true) (.dch ch) 0x040 2 2 = 2 := by
  rw [setRefx_hot, rdF_recInternal_off _ _ _ _ _ _ (by decide)]
  exact rdF_wrF_same s (.dch ch) 0x040 2 (by decide)

/-! ## Patrol scrub (R307) -/

/-- Patrol scrub runs where its five conditions hold. -/
theorem scrubOn_of {s : State} (hc : clocksOn s = true) (hs : rdB s .dmc 0x040 0 = true) (hp : rdF s .dmc 0x050 0 8 ≠ 0)
    (hm : rankState s (s.dram.scrub / rankLines s) ≠ 1)
    (ht : rdF s (.dch (Fin.ofNat 18 (rosemary s (s.dram.scrub / rankLines s) / 2))) 0x040 0 2 = 1) : scrubOn s = true := by
  simp only [scrubOn, hc, hs, ht, hp, hm, ne_eq, not_false_eq_true, decide_true, Bool.and_self]

/-- A write of PERIOD that leaves 0 sets PERIOD and starts scrub at the present tick. -/
theorem dmcWrite_period {s : State} (v : Reg32) (h : rdF s .dmc 0x050 0 8 = 0) :
    dmcWrite s 0x050 v = some (let t := wrF s .dmc 0x050 0 8 (fld v 0 8); { t with dram := { t.dram with scrubAt := t.dt } }) := by
  rw [dmcWrite, if_neg (by decide), if_pos ⟨rfl, h⟩]

end Sys2Proof.Machine
end

section
/-!
PROOFS. O11: the commands of DRAM maintenance.
-/

namespace Sys2Proof.Machine

open Sys2Proof.Claims

/-! ## Migration (R303, R308 to R311) -/

theorem migrationStart_starts : MigrationStart := by
  intro s l r hrun hmig hreq
  change execMigrationStart s = _
  simp [execMigrationStart, hrun, hmig, hreq]

/-- What the outcome of a copy's read from the old rank leaves: `x` is the state after the read, the outcome and the data (R293, R309). -/
def noteCopy (t : State) (l old cp : Nat) (x : State × Fin 4 × Line) : State :=
  if x.2.1 = 1 then correctLine x.1 old cp (lineOf t l cp) x.2.2 (bgAttr t)
  else if x.2.1 = 2 then noteUE x.1 old cp (lineOf t l cp) 0x81 (bgAttr t) 0 else x.1

/-- A clean or poisoned line is recorded nowhere. -/
theorem noteCopy_clean (t z : State) (l old cp : Nat) (poison : Bool) (v : Line) :
    noteCopy t l old cp (z, if poison then 3 else 0, v) = z := by
  rw [noteCopy, if_neg (clean_ne_corrected _), if_neg (clean_ne_uncorrectable _)]

/-- An UNCORRECTABLE line is recorded with its address. -/
theorem noteCopy_uncorrectable (t z : State) (l old cp : Nat) (v : Line) :
    noteCopy t l old cp (z, 2, v) = noteUE z old cp (lineOf t l cp) 0x81 (bgAttr t) 0 := by
  rw [noteCopy, if_neg (show (2 : Fin 4) ≠ 1 by decide), if_pos rfl]

/-- A copied line written to the spare, after which CP moves on and the next copy counts from `now`. -/
def advanceCopy (s : State) (l sp cp now : Nat) (v : Line) (poison : Bool) : State :=
  let u := storeLine s (sparePr sp) cp v poison
  { u with dram := { u.dram with mig := some (l, sp, cp + 1), copyAt := now } }

/-- A copy that is due and that the schedulers of both channels take reads its line, notes the outcome and writes the spare. -/
theorem execMigrationCopy_taken {s : State} {l sp cp : Nat} {out : LineErr} {busy busySp : BitVec 32} {x : State × Fin 4 × Line}
    (hmig : s.dram.mig = some (l, sp, cp)) (hclk : clocksOn s = true) (hcp : cp < rankLines s)
    (hold : internalMay (advanceTo s (copyDue s cp)) busy (rosemary s l) cp (copyDue s cp) = true)
    (hspare : internalMay (advanceTo s (copyDue s cp)) busySp (sparePr sp) cp (copyDue s cp) = true)
    (hread : decodeLine (touchRank (touchRank (advanceTo s (copyDue s cp)) cp (rosemary s l)) cp (sparePr sp))
      (storedLine (advanceTo s (copyDue s cp)) (rosemary s l) cp) out = x) :
    execMigrationCopy out busy busySp s =
      .next (advanceCopy (noteCopy (advanceTo s (copyDue s cp)) l (rosemary s l) cp x) l sp cp (advanceTo s (copyDue s cp)).dt x.2.2
        (decide (2 ≤ x.2.1.val))) := by
  subst hread
  simp only [execMigrationCopy, hmig]
  rw [if_pos ⟨hclk, hcp, hold, hspare⟩]
  rfl

theorem migrationCopy_clean : MigrationCopyClean := by
  intro s l sp cp busy busySp hmig hclk hcp due t hold hspare
  have hrun := execMigrationCopy_taken hmig hclk hcp hold hspare (decodeLine_clean _ _)
  rw [noteCopy_clean, decide_two_le_clean] at hrun
  exact hrun

theorem migrationCopy_uncorrectable : MigrationCopyUnc := by
  intro s l sp cp busy busySp hmig hclk hcp due t hold hspare a v u
  have hrun := execMigrationCopy_taken hmig hclk hcp hold hspare (decodeLine_four _ _)
  rw [noteCopy_uncorrectable] at hrun
  exact hrun

theorem migrationSwitch_switches : MigrationSwitch := by
  intro s l sp hmig hdone hold _ hreq _ u t hserv hbist
  have hnone : (s.dram.reqs.any fun r => decide (logRank s r.line = l ∧ (r.stat = .buffered ∨ r.stat = .chosen))) = false :=
    List.any_eq_false.2 fun r hr => by simpa using hdone r hr
  change execMigrationSwitch s = _
  simp only [execMigrationSwitch, hmig]
  rw [if_pos ⟨trivial, by rw [hnone]; rfl⟩, if_pos hold]
  change Host.Outcome.next (setIrq (dmcFollow (restoreMode t)) .dmc 0x2) = _
  rw [restoreMode_normal hserv rfl hreq hbist]
  rfl

theorem migrationRequest_waits_or_degrades : MigrationRequest := by
  intro s l hn hw
  exact ⟨reqMigration_waits hn hw, reqMigration_degrades hn hw⟩

theorem ceLimit_withinHour : CeWithinHour := by
  intro s pr l
  refine ⟨fun h0 hle => ?_, fun hlt => ?_, fun x hx => mem_ceRecent hx⟩
  · rw [ceLimit, if_pos ⟨h0, hle⟩]
  · rw [ceLimit, if_neg fun h => Nat.not_le_of_lt hlt h.2]

/-! ## Training and temperature (R291, R299, R316, R317) -/

theorem driftTracking_records : DriftTracking := by
  intro s ch hmig hclk
  change execDriftTracking ch true s = _ ∧ execDriftTracking ch false s = _
  simp [execDriftTracking, hclk, hmig]

theorem deviceTemp_inRange : DeviceTemp := by
  intro s ch temp dev hclk u
  change execDeviceTempReadout ch temp dev false s = _
  rw [execDeviceTempReadout, hclk]
  change Host.Outcome.next (setRefx (wrF u (.dch ch) 0x040 8 8 temp.toNat) ch false) = _
  rw [setRefx_inRange, wrF_dram, SMap.get_set]

theorem deviceTemp_hot : DeviceTempHot := by
  intro s ch temp dev hclk u
  change execDeviceTempReadout ch temp dev true s = _
  rw [execDeviceTempReadout, hclk]
  rfl

theorem packageTemp_reachesTrained : PackageTemp := by
  intro s t
  rw [pkgReading]
  by_cases h : 115 ≤ t
  · simp only [h, decide_true, if_true, setRefx_hot]
  · simp only [h, decide_false, if_false, setRefx_inRange]

theorem channelUp_takesFactor : ChannelUp := by
  intro s ch
  refine ⟨?_, fun h => ?_, fun h => ?_⟩
  · rw [channelUp, chanState_setRefx]
    exact rdF_wrF_same s (.dch ch) 0x040 1 (by decide)
  · rw [channelUp, decide_eq_false (Int.not_le.2 h), refx_setRefx_inRange, wrF_dram]
  · rw [channelUp, decide_eq_true h, refx_setRefx_hot]

/-! ## Patrol scrub (R303, R307, R308) -/

/-- The state in which a scrub read is made: at the tick at which it is due, from which the next counts. -/
def atScrub (s : State) : State :=
  let t := advanceTo s (scrubDue s)
  { t with dram := { t.dram with scrubAt := scrubBase t (scrubDue s) } }

/-- What the outcome of a scrub read of a line leaves: `x` is the state after the read, the outcome and the data (R293, R307, R308). -/
def noteScrub (t : State) (la l pr n : Nat) (x : State × Fin 4 × Line) : State :=
  if x.2.1 = 2 then reqMigration (noteUE x.1 pr n la 0x82 (bgAttr t) 0) l
  else if x.2.1 = 1 then ceLimit (correctLine x.1 pr n la x.2.2 (bgAttr t)) pr l
  else x.1

/-- A clean or poisoned line is passed. -/
theorem noteScrub_clean (t z : State) (la l pr n : Nat) (poison : Bool) (v : Line) :
    noteScrub t la l pr n (z, if poison then 3 else 0, v) = z := by
  rw [noteScrub, if_neg (clean_ne_uncorrectable _), if_neg (clean_ne_corrected _)]

/-- An UNCORRECTABLE line is recorded and requests a migration of its rank. -/
theorem noteScrub_uncorrectable (t z : State) (la l pr n : Nat) (v : Line) :
    noteScrub t la l pr n (z, 2, v) = reqMigration (noteUE z pr n la 0x82 (bgAttr t) 0) l := by
  rw [noteScrub, if_pos rfl]

/-- A scrub read that is due, that the scheduler takes and for which no queued write waits reads its line and notes the outcome. -/
theorem execScrubRead_taken {s : State} {busy : BitVec 32} {out : LineErr} {l n : Nat} {x : State × Fin 4 × Line}
    (hl : s.dram.scrub / rankLines s = l) (hn : s.dram.scrub % rankLines s = n) (hon : scrubOn s = true)
    (hmay : internalMay (advanceTo s (scrubDue s)) busy (rosemary s l) n (scrubDue s) = true)
    (hreads : ∀ r ∈ s.dram.reqs, r.isW = false)
    (hread : decodeLine (touchRank (atScrub s) n (rosemary s l)) (storedLine (atScrub s) (rosemary s l) n) out = x) :
    execScrubRead out busy s = .next (scrubNext (noteScrub (atScrub s) (lineOf s l n) l (rosemary s l) n x)) := by
  subst hl hn hread
  have hq : writeQueued (atScrub s) (lineOf s (s.dram.scrub / rankLines s) (s.dram.scrub % rankLines s)) = false :=
    writeQueued_of_reads (by simpa [atScrub] using hreads) _
  simp only [execScrubRead]
  rw [if_neg (by simp [hon, hmay])]
  change Host.Outcome.next (if writeQueued (atScrub s) _ = true then _ else _) = _
  rw [hq]
  rfl

theorem scrubRead_clean : ScrubRead := by
  intro s busy l n due t hclk hserv hper hrank htrained hmay hreads
  have hrun := execScrubRead_taken rfl rfl (scrubOn_of hclk hserv hper hrank htrained) hmay hreads (decodeLine_clean _ _)
  rw [noteScrub_clean] at hrun
  exact hrun

theorem scrubRead_uncorrectable : ScrubUnc := by
  intro s busy l n due t hclk hserv hper hrank htrained hmay hreads
  have hrun := execScrubRead_taken rfl rfl (scrubOn_of hclk hserv hper hrank htrained) hmay hreads (decodeLine_four _ _)
  rw [noteScrub_uncorrectable] at hrun
  exact hrun

theorem scrubPace_notMadeUp : ScrubPace := by
  intro s due v
  refine ⟨rfl, fun h => ?_, fun h => ?_, fun h => ?_⟩
  · rw [scrubBase, if_neg (Nat.not_lt.2 h)]
  · rw [scrubBase, if_pos h]
  · have hwrite := dmcWrite_period v h
    exact ⟨_, hwrite, rfl, (rdF_wrF_same s .dmc 0x050 (fld v 0 8) (by decide)).trans (Nat.mod_eq_of_lt (fld_lt v 0 8))⟩

/-- Settles O11: each command of DRAM maintenance, by its own lemma. -/
theorem dramMaintenance : Obligations.DramMaintenance :=
  ⟨migrationStart_starts, migrationCopy_clean, migrationCopy_uncorrectable, migrationSwitch_switches, migrationRequest_waits_or_degrades,
    ceLimit_withinHour, driftTracking_records, deviceTemp_inRange, deviceTemp_hot, packageTemp_reachesTrained, channelUp_takesFactor,
    scrubRead_clean, scrubRead_uncorrectable, scrubPace_notMadeUp⟩

end Sys2Proof.Machine
end

section
/-!
PROOFS. The supply (R57 to R98): what its registers, the VR link, the points of the Winovar clusters and a module reset leave as it was,
and what they set.
-/

namespace Sys2Proof.Machine

/-! ## Registers of another page -/

/-- A field written elsewhere leaves a register. -/
theorem rd_wrF_other (s : State) {p q : Page} {off o : Nat} (lo n x : Nat) (h : pageAddr q + o ≠ pageAddr p + off) :
    rd (wrF s p off lo n x) q o = rd s q o := rd_wr_other s _ h

/-- Raising interrupt bits changes IRQ_STAT alone. -/
theorem rd_setIrq_other (s : State) {p q : Page} {o : Nat} (mask : Nat) (h : pageAddr q + o ≠ pageAddr p + 0x010) :
    rd (setIrq s p mask) q o = rd s q o := by
  unfold setIrq
  split
  · rw [rd_congr (withLine_regs ..), rd_wr_other _ _ h]
  · rfl

/-- The fault message that an error may send leaves the registers. -/
theorem rd_faultSent (s : State) (cls : Nat) (l : List FaultMsg) (p : Page) (o : Nat) :
    rd (if cls = corrected then s else { s with faultQ := l }) p o = rd s p o := rd_congr (by split <;> rfl) p o

/-- Recording an error changes the record of its own page alone (R119). -/
theorem rd_recordErr_other (s : State) {p q : Page} (code cls : Nat) (a : Attr) (detail did : Nat) (b : Bool) {o : Nat}
    (h : ∀ r, r < 0x030 → pageAddr q + o ≠ pageAddr p + r) : rd (recordErr s p code cls a detail did b) q o = rd s q o := by
  have hcount : rd (bumpF s p 0x02C 16 16 1) q o = rd s q o := rd_wrF_other s _ _ _ (h _ (by decide))
  unfold recordErr
  dsimp only
  rw [rd_faultSent]
  split
  · rw [wrB, rd_wrF_other _ _ _ _ (h _ (by decide)), hcount]
  · rw [rd_setIrq_other _ _ (h _ (by decide)), rd_wr_other _ _ (h _ (by decide)), rd_wr_other _ _ (h _ (by decide)),
      rd_wr_other _ _ (h _ (by decide)), hcount]

/-- A page that is neither SUPV nor CKRS shares no register with either. -/
theorem pageAddr_off_supply {p : Page} {off o : Nat} (hs : p ≠ .supv) (hc : p ≠ .ckrs) (hoff : off < 0x1000) (ho : o < 0x1000) :
    pageAddr p + off ≠ pageAddr .supv + o ∧ pageAddr p + off ≠ pageAddr .ckrs + o := by
  cases p with
  | supv => exact absurd rfl hs
  | ckrs => exact absurd rfl hc
  | _ => simp only [pageAddr]; omega

/-! ## The VR link (R71) -/

theorem vrSend_idle {s : State} (q : VrReq) (h : s.pwr.vr = none) : vrSend s q = vrLaunch s q := by rw [vrSend, h]

theorem vrSend_busy {s : State} (q : VrReq) {r : VrReq} (h : s.pwr.vr = some r) :
    vrSend s q = { s with pwr := { s.pwr with vrq := s.pwr.vrq ++ [q] } } := by rw [vrSend, h]

/-- A request changes only the link and the levels of the power stage. -/
@[simp] theorem vrSend_regs (s : State) (q : VrReq) : (vrSend s q).regs = s.regs := by unfold vrSend; split <;> rfl
@[simp] theorem vrSend_acked (s : State) (q : VrReq) : (vrSend s q).pwr.acked = s.pwr.acked := by unfold vrSend; split <;> rfl
@[simp] theorem vrSend_supCeil (s : State) (q : VrReq) : (vrSend s q).pwr.supCeil = s.pwr.supCeil := by unfold vrSend; split <;> rfl
@[simp] theorem vrSend_thrCeil (s : State) (q : VrReq) : (vrSend s q).pwr.thrCeil = s.pwr.thrCeil := by unfold vrSend; split <;> rfl

/-- A request leaves the level of every rail but its own. -/
theorem level_vrLaunch_other (s : State) (q : VrReq) {r : Nat} (h : r ≠ q.rail) :
    SMap.getF railReset (vrLaunch s q).pwr.level r = SMap.getF railReset s.pwr.level r := by
  unfold vrLaunch
  dsimp only
  generalize (if q.bad = 4 then 4 else vrRefuse q.typ q.rail q.value) = bad
  split
  · rfl
  split
  · exact SMap.getF_setF_other _ _ _ h
  split
  · rfl
  · exact SMap.getF_setF_other _ _ _ h

theorem level_vrSend_other (s : State) (q : VrReq) {r : Nat} (h : r ≠ q.rail) :
    SMap.getF railReset (vrSend s q).pwr.level r = SMap.getF railReset s.pwr.level r := by
  cases hv : s.pwr.vr with
  | none => rw [vrSend_idle q hv, level_vrLaunch_other s q h]
  | some x => rw [vrSend_busy q hv]

/-- What is outstanding on the link stays so while another request is made. -/
theorem vr_vrSend {s : State} (q : VrReq) {r : VrReq} (h : s.pwr.vr = some r) : (vrSend s q).pwr.vr = some r := by
  rw [vrSend_busy q h, h]

/-- The next request that waits goes out, with the next SEQ. -/
theorem vr_vrNext {s : State} {q : VrReq} {qs : List VrReq} (h : s.pwr.vrq = q :: qs) :
    ∃ r, (vrNext s).pwr.vr = some r ∧ r.typ = q.typ ∧ r.rail = q.rail ∧ r.value = q.value ∧ r.seq = s.pwr.vrSeq := by
  unfold vrNext
  dsimp only
  rw [h]
  exact ⟨_, rfl, rfl, rfl, rfl, rfl⟩

@[simp] theorem vrNext_regs (s : State) : (vrNext s).regs = s.regs := by unfold vrNext; dsimp only; split <;> rfl
@[simp] theorem vrNext_acked (s : State) : (vrNext s).pwr.acked = s.pwr.acked := by unfold vrNext; dsimp only; split <;> rfl
@[simp] theorem vrNext_supCeil (s : State) : (vrNext s).pwr.supCeil = s.pwr.supCeil := by unfold vrNext; dsimp only; split <;> rfl
@[simp] theorem vrNext_thrCeil (s : State) : (vrNext s).pwr.thrCeil = s.pwr.thrCeil := by unfold vrNext; dsimp only; split <;> rfl

/-! ## The points of the clusters (R62) -/

/-- One cluster's ceiling is shown, and its clock lowered to the point it is to run at. -/
def lowerClock (s : State) (w : Nat) : State :=
  let s := wrF s .supv 0x044 (8 + 2 * w) 2 (ceilOf s w)
  if rdB s .mari 0x044 (20 + w) then s else wrF s .ckrs 0x040 (4 + 2 * w) 2 (max (curPoint s w) (wantPoint s w))

/-- One cluster asks for the level of the point it is to run at, or runs at that point where its rail stands at the level. -/
def askVolt (skip : Option Nat) (s : State) (w : Nat) : State :=
  let p := wantPoint s w
  if !clocksOn s ∨ railsGoing s ∨ rdB s .mari 0x044 (20 + w) ∨ pointBusy s w ∨ skip = some w then s
  else if ackedLevel s (2 + w) = pointLevel p then wrF s .ckrs 0x040 (4 + 2 * w) 2 p
  else vrSend s { typ := 1, rail := 2 + w, value := pointLevel p, why := .point w p }

theorem lowerClocks_eq (s : State) : lowerClocks s = [0, 1, 2].foldl lowerClock s := rfl

theorem askVolts_eq (skip : Option Nat) (s : State) : askVolts skip s = [0, 1, 2].foldl (askVolt skip) s := rfl

/-- What a cluster's step comes to: a register of CKRS, a request for its own rail, or nothing. -/
theorem askVolt_cases (skip : Option Nat) (s : State) (w : Nat) :
    askVolt skip s w = s ∨ askVolt skip s w = wrF s .ckrs 0x040 (4 + 2 * w) 2 (wantPoint s w) ∨
      ∃ q : VrReq, q.rail = 2 + w ∧ askVolt skip s w = vrSend s q := by
  unfold askVolt
  dsimp only
  split
  · exact .inl rfl
  split
  · exact .inr (.inl rfl)
  · exact .inr (.inr ⟨_, rfl, rfl⟩)

/-- Lowering clocks changes registers alone. -/
@[simp] theorem lowerClocks_pwr (s : State) : (lowerClocks s).pwr = s.pwr :=
  foldl_frame State.pwr lowerClock (fun t w => by unfold lowerClock; dsimp only; split <;> simp) _ s

/-- Asking for levels acknowledges none. -/
@[simp] theorem askVolts_acked (skip : Option Nat) (s : State) : (askVolts skip s).pwr.acked = s.pwr.acked :=
  foldl_frame (fun t => t.pwr.acked) (askVolt skip) (fun t w => by
    obtain h | h | ⟨q, -, h⟩ := askVolt_cases skip t w <;> rw [h] <;> simp) _ s

/-- What is outstanding on the link stays so while levels are asked for. -/
theorem vr_askVolts (skip : Option Nat) {s : State} {r : VrReq} (h : s.pwr.vr = some r) : (askVolts skip s).pwr.vr = some r := by
  rw [askVolts_eq]
  refine List.foldlRecOn (motive := fun t : State => t.pwr.vr = some r) _ _ h fun t ht w _ => ?_
  obtain h | h | ⟨q, -, h⟩ := askVolt_cases skip t w <;> rw [h]
  · exact ht
  · exact ht
  · exact vr_vrSend q ht

/-- Asking for levels changes no register of SUPV. -/
theorem rd_askVolts_supv (skip : Option Nat) (s : State) (o : Nat) (ho : o < 0x1000) : rd (askVolts skip s) .supv o = rd s .supv o :=
  foldl_frame (fun t => rd t .supv o) (askVolt skip) (fun t w => by
    obtain h | h | ⟨q, -, h⟩ := askVolt_cases skip t w <;> rw [h]
    · exact rd_wrF_other _ _ _ _ (by simp only [pageAddr]; omega)
    · exact rd_congr (vrSend_regs t q) _ _) _ s

/-- A bit of a register apart from the field written stays. -/
theorem rdB_wrF_apart (s : State) (p : Page) (off : Nat) {lo n i : Nat} (x : Nat) (h : i < lo ∨ lo + n ≤ i) :
    rdB (wrF s p off lo n x) p off i = rdB s p off i := by
  rw [rdB, wrF, rd_wr, bit, getLsbD_setFld, if_neg (by omega), rdB, bit]

/-- A bit that has been written reads as written. -/
theorem rdB_wrB_same (s : State) (p : Page) (off : Nat) {i : Nat} (x : Bool) (h : i < 32) : rdB (wrB s p off i x) p off i = x := by
  rw [rdB, wrB, wrF, rd_wr, bit, getLsbD_setFld, if_pos (by omega)]
  cases x <;> simp [h]

/-- Showing the ceilings leaves the bits above them, the supply's flags. -/
theorem rdB_lowerClocks {s : State} {i : Nat} (h : 14 ≤ i) : rdB (lowerClocks s) .supv 0x044 i = rdB s .supv 0x044 i := by
  rw [lowerClocks_eq]
  refine List.foldlRecOn (motive := fun t : State => rdB t .supv 0x044 i = rdB s .supv 0x044 i) _ _ rfl fun t ht w hw => ?_
  have hw : w < 3 := by simpa using List.mem_range.1 (show w ∈ List.range 3 from hw)
  have hshown : rdB (wrF t .supv 0x044 (8 + 2 * w) 2 (ceilOf t w)) .supv 0x044 i = rdB s .supv 0x044 i := by
    rw [rdB_wrF_apart _ _ _ _ (by omega), ht]
  unfold lowerClock
  dsimp only
  split
  · exact hshown
  · rw [← hshown, rdB, rd_wrF_other _ _ _ _ (by decide), rdB]

/-- Neither requests, ceilings nor naps of the clusters change, and no cluster that keeps to its point leaves it upward. -/
structure KeepsPoints (s t : State) : Prop where
  want : ∀ k, wantPoint t k = wantPoint s k
  nap : ∀ k, rdB t .mari 0x044 k = rdB s .mari 0x044 k
  low : ∀ k, k < 3 → wantPoint s k ≤ curPoint s k → wantPoint t k ≤ curPoint t k

theorem KeepsPoints.trans {s t u : State} (h : KeepsPoints s t) (h' : KeepsPoints t u) : KeepsPoints s u where
  want k := (h'.want k).trans (h.want k)
  nap k := (h'.nap k).trans (h.nap k)
  low k hk hs := h'.low k hk (h.low k hk hs)

/-- What changes neither registers nor ceilings keeps the points. -/
theorem keepsPoints_congr {s t : State} (hr : t.regs = s.regs) (hs : t.pwr.supCeil = s.pwr.supCeil) (ht : t.pwr.thrCeil = s.pwr.thrCeil) :
    KeepsPoints s t := by
  have hw : ∀ k, wantPoint t k = wantPoint s k := fun k => by
    simp only [wantPoint, ceilOf, rdF, rd_congr hr, hs, ht]
  refine ⟨hw, fun k => by simp only [rdB, rd_congr hr], fun k _ h => ?_⟩
  rw [hw]
  simpa only [curPoint, rdF, rd_congr hr] using h

/-- Showing a ceiling keeps the points. -/
theorem keepsPoints_shown (s : State) (lo n x : Nat) : KeepsPoints s (wrF s .supv 0x044 lo n x) := by
  have hc : ∀ o, o = 0x040 ∨ o = 0x044 → rd (wrF s .supv 0x044 lo n x) .ckrs o = rd s .ckrs o := by
    rintro o (rfl | rfl) <;> exact rd_wrF_other _ _ _ _ (by decide)
  refine ⟨fun k => ?_, fun k => ?_, fun k _ h => ?_⟩
  · simp only [wantPoint, ceilOf, rdF, hc, or_true, wrF_pwr]
  · simp only [rdB, rd_wrF_other s (p := .supv) (q := .mari) lo n x (by decide : pageAddr .mari + 0x044 ≠ pageAddr .supv + 0x044)]
  · simpa only [wantPoint, curPoint, ceilOf, rdF, hc, true_or, or_true, wrF_pwr] using h

/-- The clock of a cluster set at or below the point it is to run at keeps the points, and brings the cluster to its own. -/
theorem keepsPoints_clock {s : State} {w x : Nat} (hw : w < 3) (hx : wantPoint s w ≤ x) (h3 : x < 4) :
    KeepsPoints s (wrF s .ckrs 0x040 (4 + 2 * w) 2 x) ∧ curPoint (wrF s .ckrs 0x040 (4 + 2 * w) 2 x) w = x := by
  have hwant : ∀ k, wantPoint (wrF s .ckrs 0x040 (4 + 2 * w) 2 x) k = wantPoint s k := fun k => by
    simp only [wantPoint, ceilOf, rdF, rd_wrF_off s .ckrs _ _ _ (by decide : (0x044 : Nat) ≠ 0x040), wrF_pwr]
  have hcur : curPoint (wrF s .ckrs 0x040 (4 + 2 * w) 2 x) w = x := by
    rw [curPoint, rdF_wrF_same _ _ _ _ (by omega)]
    exact Nat.mod_eq_of_lt h3
  refine ⟨⟨hwant, fun k => ?_, fun k hk h => ?_⟩, hcur⟩
  · rw [rdB, rd_wrF_other _ _ _ _ (by decide), rdB]
  · rw [hwant]
    by_cases hkw : k = w
    · rw [hkw, hcur]
      exact hx
    · rw [curPoint, rdF_wrF_apart _ _ _ _ (by omega)]
      exact h

/-- No cluster is to run at a point beyond the field that holds it. -/
theorem wantPoint_lt {s : State} (hs : ∀ k, SMap.get 0 s.pwr.supCeil k ≤ 2) (ht : s.pwr.thrCeil ≤ 2) (k : Nat) : wantPoint s k < 4 := by
  have hreq : rdF s .ckrs 0x044 (2 * k) 2 < 4 := fld_lt ..
  have := hs k
  simp only [wantPoint, ceilOf]
  omega

/-- A cluster's step of lowering keeps every point and, out of NAP, brings its own cluster no higher than it is to run. -/
theorem lowerClock_low {s : State} {w : Nat} (hw : w < 3) (h4 : wantPoint s w < 4) :
    KeepsPoints s (lowerClock s w) ∧ (rdB s .mari 0x044 (20 + w) = false → wantPoint (lowerClock s w) w ≤ curPoint (lowerClock s w) w) := by
  have hshown := keepsPoints_shown s (8 + 2 * w) 2 (ceilOf s w)
  unfold lowerClock
  dsimp only
  rw [hshown.nap, hshown.want]
  generalize wrF s .supv 0x044 (8 + 2 * w) 2 (ceilOf s w) = t at hshown ⊢
  split
  next hnap => exact ⟨hshown, fun h => absurd (h.symm.trans hnap) (by decide)⟩
  next hnap =>
    have hcur : curPoint t w < 4 := fld_lt ..
    obtain ⟨hkeep, hset⟩ := keepsPoints_clock (s := t) (x := max (curPoint t w) (wantPoint s w)) hw
      ((hshown.want w).le.trans (Nat.le_max_right ..)) (by omega)
    refine ⟨hshown.trans hkeep, fun _ => ?_⟩
    rw [hset, hkeep.want, hshown.want]
    exact Nat.le_max_right ..

/-- After the clocks are lowered no listed cluster out of NAP runs above the point it is to run at. -/
theorem foldl_lowerClock_low (l : List Nat) (hl : ∀ w ∈ l, w < 3) {s : State} (h4 : ∀ k, wantPoint s k < 4) :
    KeepsPoints s (l.foldl lowerClock s) ∧ ∀ w ∈ l, rdB s .mari 0x044 (20 + w) = false →
      wantPoint (l.foldl lowerClock s) w ≤ curPoint (l.foldl lowerClock s) w := by
  induction l generalizing s with
  | nil => exact ⟨keepsPoints_congr rfl rfl rfl, fun w hw => absurd hw List.not_mem_nil⟩
  | cons x l ih =>
    have hx : x < 3 := hl x List.mem_cons_self
    obtain ⟨hstep, hown⟩ := lowerClock_low hx (h4 x)
    obtain ⟨hrest, hlow⟩ := ih (fun w hw => hl w (List.mem_cons_of_mem _ hw)) (s := lowerClock s x) (fun k => (hstep.want k).trans_lt (h4 k))
    refine ⟨hstep.trans hrest, fun w hw hnap => ?_⟩
    obtain rfl | hw := List.mem_cons.1 hw
    · exact hrest.low w hx (hown hnap)
    · exact hlow w hw ((hstep.nap _).trans hnap)

/-- Asking for levels keeps the points. -/
theorem keepsPoints_askVolts (skip : Option Nat) {s : State} (h4 : ∀ k, wantPoint s k < 4) : KeepsPoints s (askVolts skip s) := by
  rw [askVolts_eq]
  refine List.foldlRecOn (motive := KeepsPoints s) _ _ (keepsPoints_congr rfl rfl rfl) fun t ht w hw => ht.trans ?_
  have hw : w < 3 := List.mem_range.1 (show w ∈ List.range 3 from hw)
  obtain h | h | ⟨q, -, h⟩ := askVolt_cases skip t w <;> rw [h]
  · exact keepsPoints_congr rfl rfl rfl
  · exact (keepsPoints_clock hw le_rfl ((ht.want w).trans_lt (h4 w))).1
  · exact keepsPoints_congr (vrSend_regs t q) (vrSend_supCeil t q) (vrSend_thrCeil t q)

/-- R62: once the clocks are lowered and the levels asked for, no cluster out of NAP runs above the point it is to run at. -/
theorem wantPoint_le_curPoint (skip : Option Nat) {s : State} {w : Nat} (hs : ∀ k, SMap.get 0 s.pwr.supCeil k ≤ 2)
    (ht : s.pwr.thrCeil ≤ 2) (hw : w < 3) (hnap : rdB s .mari 0x044 (20 + w) = false) :
    wantPoint (askVolts skip (lowerClocks s)) w ≤ curPoint (askVolts skip (lowerClocks s)) w := by
  have h4 := wantPoint_lt hs ht
  obtain ⟨hkeep, hlow⟩ := foldl_lowerClock_low [0, 1, 2] (by decide) h4
  exact (keepsPoints_askVolts skip fun k => (hkeep.want k).trans_lt (h4 k)).low w hw (hlow w (List.mem_range.2 hw) hnap)

/-! ## The end of a request (R71) -/

/-- The level that a request's end acknowledges; that of a READ is no new one. -/
def levelNoted (s : State) (q : VrReq) (res v : Nat) : State :=
  if res = 1 ∧ q.typ ≠ 4 then { s with pwr := { s.pwr with acked := SMap.setF railReset s.pwr.acked q.rail v } } else s

/-- What the end of a request notes before the next goes out: the level acknowledged, the clock that follows it, a bank's result. -/
def endNoted (s : State) (q : VrReq) (res v : Nat) : State :=
  let s := levelNoted s q res v
  match q.why with
  | .point w p => if res = 1 ∧ p < curPoint s w then wrF s .ckrs 0x040 (4 + 2 * w) 2 (max p (wantPoint s w)) else s
  | .bank b =>
    if s.pwr.vrq.any fun r => decide (r.why = .bank b) then s
    else { s with pwr := { s.pwr with bankEnd := SMap.put s.pwr.bankEnd b res } }
  | _ => s

/-- A request ends: what it notes, then the next request, then the points that follow. -/
theorem vrEnd_eq (s : State) (q : VrReq) (res v : Nat) :
    ∃ skip, vrEnd s q res v = askVolts skip (lowerClocks (vrNext (endNoted s q res v))) := ⟨_, rfl⟩

/-- What the end of a request can change: the levels acknowledged, the ends of banks' requests, and the clock of a cluster. -/
theorem endNoted_frame {α : Type} (f : State → α) (hack : ∀ s m, f { s with pwr := { s.pwr with acked := m } } = f s)
    (hend : ∀ s m, f { s with pwr := { s.pwr with bankEnd := m } } = f s) (hclk : ∀ s lo n x, f (wrF s .ckrs 0x040 lo n x) = f s)
    (s : State) (q : VrReq) (res v : Nat) : f (endNoted s q res v) = f s := by
  have ht : f (levelNoted s q res v) = f s := by
    unfold levelNoted
    split
    · exact hack ..
    · rfl
  unfold endNoted
  dsimp only
  generalize levelNoted s q res v = t at ht ⊢
  split
  · split
    · rw [hclk, ht]
    · exact ht
  · split
    · exact ht
    · rw [hend, ht]
  · exact ht

@[simp] theorem endNoted_vrq (s : State) (q : VrReq) (res v : Nat) : (endNoted s q res v).pwr.vrq = s.pwr.vrq :=
  endNoted_frame (fun t => t.pwr.vrq) (fun _ _ => rfl) (fun _ _ => rfl) (fun _ _ _ _ => rfl) ..

@[simp] theorem endNoted_vrSeq (s : State) (q : VrReq) (res v : Nat) : (endNoted s q res v).pwr.vrSeq = s.pwr.vrSeq :=
  endNoted_frame (fun t => t.pwr.vrSeq) (fun _ _ => rfl) (fun _ _ => rfl) (fun _ _ _ _ => rfl) ..

@[simp] theorem endNoted_supCeil (s : State) (q : VrReq) (res v : Nat) : (endNoted s q res v).pwr.supCeil = s.pwr.supCeil :=
  endNoted_frame (fun t => t.pwr.supCeil) (fun _ _ => rfl) (fun _ _ => rfl) (fun _ _ _ _ => rfl) ..

@[simp] theorem endNoted_thrCeil (s : State) (q : VrReq) (res v : Nat) : (endNoted s q res v).pwr.thrCeil = s.pwr.thrCeil :=
  endNoted_frame (fun t => t.pwr.thrCeil) (fun _ _ => rfl) (fun _ _ => rfl) (fun _ _ _ _ => rfl) ..

/-- A register apart from the clocks of CKRS stays. -/
theorem rd_endNoted_other (s : State) (q : VrReq) (res v : Nat) {p : Page} {o : Nat} (h : pageAddr p + o ≠ pageAddr .ckrs + 0x040) :
    rd (endNoted s q res v) p o = rd s p o :=
  endNoted_frame (fun t => rd t p o) (fun _ _ => rfl) (fun _ _ => rfl) (fun _ _ _ _ => rd_wrF_other _ _ _ _ h) ..

/-- A request that was not acknowledged leaves the levels acknowledged. -/
theorem endNoted_acked (s : State) (q : VrReq) {res : Nat} (v : Nat) (h : res ≠ 1) : (endNoted s q res v).pwr.acked = s.pwr.acked := by
  rw [endNoted, levelNoted, if_neg fun hr => h hr.1]
  dsimp only
  split
  · rw [if_neg fun hr => h hr.1]
  · split <;> rfl
  · rfl

/-! ## A module reset (R97, R98) -/

/-- An entry of the fault log leaves RST_CAUSE. -/
theorem rstCause_logArrived (s : State) (k : Nat) : rd (logArrived s k) .ckrs 0x050 = rd s .ckrs 0x050 := by
  rw [logArrived]
  refine (foldl_frame (fun t => rd t .ckrs 0x050) _ (fun t m => ?_) _ _).trans rfl
  rw [logFault]
  split
  · exact rd_setIrq_other _ _ (by decide)
  · exact rd_wrF_other _ _ _ _ (by decide)

/-- A module reset leaves in RST_CAUSE the cause recorded after the one before (R98). -/
theorem rstCause_moduleReset (s : State) (cause rail : Nat) (same : Bool) :
    rd (moduleReset s cause rail same) .ckrs 0x050 = causeReg (rd s .ckrs 0x050) cause rail same := by
  unfold moduleReset
  dsimp only
  rw [wrB, rd_wrF_other _ _ _ _ (by decide), rd_wr_other _ _ (by decide), rd_wr, rstCause_logArrived]

end Sys2Proof.Machine
end

section
/-!
PROOFS. O28: the supply and thermal events (R56 to R65, R75 to R77, R98).
-/

namespace Sys2Proof.Machine

open Sys2Proof.Claims

/-! ## Supply samples and causes (R56 to R60, R98) -/

theorem vinSample_selectsWindow : VinSample := by
  intro s vin iin same hv hi hon hwin
  have hrun : exec (.vinIinSample vin iin same) s = .next (vinIinSample vin iin same s) := by
    change execVinIinSample vin iin same s = _
    unfold execVinIinSample
    rw [if_neg fun h => hwin h.2.1]
  rw [hrun]
  simp [vinIinSample, hv, hi, hon]

theorem vinWindows_atBoundaries : VinWindows := by
  intro v
  unfold windowOf
  refine ⟨fun h => ?_, fun h h' => ?_, fun h h' => ?_, fun h h' => ?_, fun h h' => ?_, fun h => ?_⟩ <;> split_ifs <;> omega

theorem highTripRestart_restarts : HighTripRestart := by
  intro s htrip hon hvin
  change execHighTripRestart s = _
  simp [execHighTripRestart, htrip, hon, hvin]

/-- With the always-on domain up, a cause takes rails off that are not off for good. -/
theorem causeOff_on {s : State} (cause : Nat) (same : Bool) (hv : s.pwr.vaon = true) (hr : s.pwr.rail ≠ .dead) :
    causeOff s cause same = railsOff s cause 0 same .off := by
  simp [causeOff, hv, hr]

/-- After three failed starts only a cause of the same always-on cycle is recorded. -/
theorem causeOff_dead {s : State} (cause : Nat) (hv : s.pwr.vaon = true) (hr : s.pwr.rail = .dead) :
    causeOff s cause true = railsOff s cause 0 true .dead := by
  simp [causeOff, hv, hr]

theorem execDipTimeout_inDip {s : State} (same : Bool) (hwin : s.pwr.win = 3) (hon : stageOn s = true) :
    exec (.dipTimeout same) s = .next (causeOff s 2 same) := by
  change execDipTimeout same s = _
  simp [execDipTimeout, hwin, hon]

theorem execInputOvercurrent_above {s : State} (same : Bool) (hiin : 44000 < meanI s.pwr.iinS) (hon : stageOn s = true) :
    exec (.inputOvercurrent same) s = .next (causeOff s 4 same) := by
  change execInputOvercurrent same s = _
  simp [execInputOvercurrent, hiin, hon]

theorem dipTimeout_switchesOff : DipTimeout := by
  intro s same hwin hon hv hr
  rw [execDipTimeout_inDip same hwin hon, causeOff_on 2 same hv hr]

theorem overcurrent_switchesOff : Overcurrent := by
  intro s same hiin hon hv hr
  rw [execInputOvercurrent_above same hiin hon, causeOff_on 4 same hv hr]

/-- A cause recognised alone: the fields of RST_CAUSE. -/
theorem causeReg_alone (old : Reg32) {cause : Nat} (rail : Nat) (hc : cause < 10) :
    let v := causeReg old cause rail false
    fld v 0 4 = cause ∧ fld v 4 4 = fld old 0 4 ∧ fld v 8 5 = (if cause = 5 then rail % 32 else 0) ∧ bit v 13 = false ∧
      fld v 16 8 = min 255 (fld old 16 8 + 1) := by
  have hprev : fld old 0 4 < 16 := fld_lt ..
  have hr : (if cause = 5 then rail % 32 else 0) < 32 := by split <;> omega
  unfold causeReg satAdd
  dsimp only
  rw [if_neg Bool.false_ne_true]
  generalize (if cause = 5 then rail % 32 else 0) = r at hr ⊢
  have hn : min 255 (fld old 16 8 + 1) < 256 := by omega
  generalize min 255 (fld old 16 8 + 1) = n at hn ⊢
  generalize fld old 0 4 = p at hprev ⊢
  refine ⟨?_, ?_, ?_, ?_, ?_⟩
  case refine_4 =>
    simp only [bit, BitVec.getLsbD_ofNat, Nat.testBit_eq_decide_div_mod_eq, Bool.and_eq_false_iff, decide_eq_false_iff_not]
    omega
  all_goals
    simp only [fld, BitVec.toNat_ofNat]
    omega

/-- A cause recognised in the cycle of the one before: MULTI, the cause of the higher priority, and the record before both. -/
theorem causeReg_same (old : Reg32) {cause : Nat} (rail : Nat) (hc : cause < 10) :
    let v := causeReg old cause rail true
    bit v 13 = true ∧ fld v 4 4 = fld old 4 4 ∧ fld v 16 8 = fld old 16 8 ∧
      fld v 0 4 = if causePrio cause < causePrio (fld old 0 4) then cause else fld old 0 4 := by
  simp only [causeReg, if_true, setBit]
  refine ⟨?_, ?_, ?_, ?_⟩
  · simp [bit, getLsbD_setFld]
  · rw [fld_setFld_apart _ _ (by omega)]
    split
    · rw [fld_setFld_apart _ _ (by omega), fld_setFld_apart _ _ (by omega)]
    · rfl
  · rw [fld_setFld_apart _ _ (by omega)]
    split
    · rw [fld_setFld_apart _ _ (by omega), fld_setFld_apart _ _ (by omega)]
    · rfl
  · rw [fld_setFld_apart _ _ (by omega)]
    split
    · rw [fld_setFld_apart _ _ (by omega), fld_setFld_same _ _ (by omega)]
      omega
    · rfl

theorem causeRecord_setsRegister : CauseRecord := by
  intro s cause rail same hc o v
  have hv : v = causeReg o cause rail same := rstCause_moduleReset s cause rail same
  rw [hv]
  refine ⟨fun h => ?_, fun h => ?_⟩ <;> subst h
  · exact causeReg_alone o rail hc
  · exact causeReg_same o rail hc

/-! ## The rail start and VAON (R58, R59, R65) -/

/-- The rails may start: VIN is in range, and nothing keeps them back. -/
theorem mayStart_of {s : State} (hv : s.pwr.vaon = true) (ht : s.pwr.trip = false) (hb : s.pwr.back = 0) (ha : s.mari.asleep = 0)
    (hvin : 5000 ≤ meanI s.pwr.vinS ∧ meanI s.pwr.vinS ≤ 18000) : mayStart s = true := by
  simp [mayStart, hv, ht, hb, ha, hvin]

theorem railStart_starts : RailStart := by
  intro s hr hv ht hb ha hvin
  change execRailStart s = _
  simp [execRailStart, hr, mayStart_of hv ht hb ha hvin]

theorem railTimeout_retries : RailTimeout := by
  intro s rail same hr h5 hf
  change execRailStartTimeout rail same s = _
  simp [execRailStartTimeout, hr, h5, hf]

/-- The third start that fails leaves the rails off for good, with cause 5 and its rail. -/
theorem execRailStartTimeout_third {s : State} (rail : Fin 8) (same : Bool) (h5 : rail ≠ 5) (hf : s.pwr.fails = 2)
    (hr : s.pwr.rail = .starting ∨ (same = true ∧ s.pwr.rail = .off ∧ s.pwr.live.contains 5 = true)) :
    exec (.railStartTimeout rail same) s = .next { railsOff s 5 rail same .dead with
      pwr := { (railsOff s 5 rail same .dead).pwr with fails := 3 } } := by
  change execRailStartTimeout rail same s = _
  unfold execRailStartTimeout
  rw [if_neg (not_or.2 ⟨not_not.2 (by simpa using hr), h5⟩), hf, if_neg (by decide)]

theorem railTimeoutThird_staysOff : RailTimeoutThird := by
  intro s rail same hr h5 hf
  exact execRailStartTimeout_third rail same h5 hf (.inl hr)

theorem railTimeoutMulti_recorded : RailTimeoutMulti := by
  intro s rail h5 hf
  refine ⟨fun hr hlive => execRailStartTimeout_third rail true h5 hf (.inr ⟨rfl, hr, hlive⟩),
    fun hr hv hon => ⟨fun hwin => ?_, fun hiin => ?_⟩⟩
  · rw [execDipTimeout_inDip true hwin hon, causeOff_dead 2 hv hr]
  · rw [execInputOvercurrent_above true hiin hon, causeOff_dead 4 hv hr]

theorem railRetry_needsVin : RailRetry := by
  intro s hr
  refine ⟨fun hv ht hb ha hvin => ?_, fun hvin => ?_⟩
  · change execRailStartRetry s = _
    simp [execRailStartRetry, hr, mayStart_of hv ht hb ha hvin]
  · have hmay : mayStart s = false := by
      rw [Bool.eq_false_iff]
      intro h
      simp only [mayStart, Bool.and_eq_true, decide_eq_true_eq] at h
      omega
    change execRailStartRetry s = _
    simp [execRailStartRetry, hmay]

theorem vaonStart_starts : VaonStart := by
  intro s hv hvin
  change execVaonStart s = _
  simp [execVaonStart, hv, hvin]

theorem vaonLoss_isCold : VaonLoss := by
  intro s hv hvin
  have hlow : (!stageOn s) = true ∨ meanI s.pwr.vinS < 3000 := by
    cases hon : stageOn s with
    | false => exact .inl rfl
    | true => exact .inr (hvin hon)
  change execVaonLoss s = _
  unfold execVaonLoss
  rw [if_pos ⟨hv, hlow⟩]

/-! ## The thermal ceiling and state (R75 to R77) -/

theorem throttleStep_lowers : ThrottleStep := by
  intro s hclk hst hc
  have hmin : min 2 (s.pwr.thrCeil + 1) = s.pwr.thrCeil + 1 := by omega
  change execThrottleStep s = _
  simp [execThrottleStep, hclk, hst, hmin]

theorem throttleRise_raises : ThrottleRise := by
  intro s hclk hst hc
  have hne : s.pwr.thrCeil - 1 ≠ s.pwr.thrCeil := by omega
  change execThrottleStep s = _
  simp [execThrottleStep, hclk, hst, hne]

theorem thermalSample_takesReadings : ThermalSample := by
  intro s l same hst
  change execThermalSample l same s = _
  unfold execThermalSample
  rw [if_neg fun h => h.2.1 hst]

theorem thermalStates_hysteresis : ThermalStates := by
  intro old t hold
  unfold thermNext
  refine ⟨fun h => ?_, fun h h' => ?_, fun h h' => ?_, fun h h' => ?_, fun h => ?_⟩ <;> split_ifs <;> omega

/-! ## THERM_WARN (R76, R591) -/

/-- A refresh factor leaves the registers of SUPV. -/
theorem rd_setRefx_supv (s : State) (ch : Fin 18) (hot : Bool) {o : Nat} (ho : o < 0x1000) :
    rd (setRefx s ch hot) .supv o = rd s .supv o := by
  have hapart : ∀ r, pageAddr .supv + o ≠ pageAddr (.dch ch) + r := fun r => by simp only [pageAddr]; omega
  unfold setRefx
  dsimp only
  split
  · rw [recInternal, rd_recordErr_other _ _ _ _ _ _ _ fun r _ => hapart r, rd_wrF_other _ _ _ _ (hapart _)]
  · exact rd_wrF_other _ _ _ _ (hapart _)

@[simp] theorem setRefx_pwr (s : State) (ch : Fin 18) (hot : Bool) : (setRefx s ch hot).pwr = s.pwr := by
  unfold setRefx; dsimp only; split <;> simp [recInternal]

@[simp] theorem pkgReading_pwr (s : State) (t : Int) : (pkgReading s t).pwr = s.pwr :=
  foldl_frame State.pwr _ (fun u ch => by split <;> simp) _ _

/-- A reading of the package sensors leaves the registers of SUPV. -/
theorem rd_pkgReading_supv (s : State) (t : Int) {o : Nat} (ho : o < 0x1000) : rd (pkgReading s t) .supv o = rd s .supv o :=
  foldl_frame (fun u => rd u .supv o) _ (fun u ch => by
    split
    · exact rd_setRefx_supv u ch _ ho
    · rfl) _ _

/-- The hottest of some sensors is one of them. -/
theorem hottest_mem {s : State} {l : List Nat} {i : Nat} {t : Int} (h : hottest s l = some (i, t)) : i ∈ l := by
  refine List.foldlRecOn (motive := fun best : Option (Nat × Int) => ∀ i t, best = some (i, t) → i ∈ l) _ _
    (fun _ _ h => absurd h (by simp)) (fun best hb x hx => ?_) i t h
  intro j u hj
  split at hj
  · split at hj
    · cases hj; exact hx
    · exact hb _ _ hj
  · cases hj; exact hx
  · exact hb _ _ hj

theorem thermNext_le (old : Nat) (t : Int) : thermNext old t ≤ 2 := by
  unfold thermNext; split_ifs <;> decide

/-- SUP_TEMP as it is written: the bytes of the two temperatures, the hottest die sensor and the thermal state. -/
theorem thermState_of_supTemp {d m i next : Nat} (hd : d < 256) (hm : m < 256) (hi : i < 16) (hn : next ≤ 3) :
    fld (BitVec.ofNat 32 (d + m * 2 ^ 8 + i * 2 ^ 16 + next * 2 ^ 20)) 20 2 = next := by
  simp only [fld, BitVec.toNat_ofNat]
  omega

theorem tempByte_lt (t : Int) : tempByte t < 256 := by
  unfold tempByte wrapN
  omega

/-- Recording an error counts it in ERRS (R119). -/
theorem errs_recordErr (s : State) (p : Page) (code cls : Nat) (a : Attr) (detail did : Nat) (b : Bool) :
    rdF (recordErr s p code cls a detail did b) p 0x02C 16 16 = min 65535 (rdF s p 0x02C 16 16 + 1) := by
  have hcount : rdF (bumpF s p 0x02C 16 16 1) p 0x02C 16 16 = min 65535 (rdF s p 0x02C 16 16 + 1) := by
    rw [bumpF, rdF_wrF_same _ _ _ _ (by decide), satAdd]
    omega
  rw [← hcount, rdF, rdF]
  unfold recordErr
  dsimp only
  rw [rd_faultSent]
  split
  · rw [wrB, rd_wrF_off _ _ _ _ _ (by decide)]
  · rw [rd_setIrq_off _ _ _ (by decide), rd_wr_off _ _ _ (by decide), rd_wr_off _ _ _ (by decide), rd_wr_off _ _ _ (by decide)]

/-! ## The parts of a thermal sample (R75 to R77) -/

/-- The sensors whose reading is invalid. -/
def badSensors (l : List Int) : List Nat := (List.range 20).filter fun i => !tempOk (l.getD i 0)

/-- The sensors of a kind whose reading is valid. -/
def validSensors (l : List Int) (kind : Nat → Bool) : List Nat := (List.range 20).filter fun i => kind i && !(badSensors l).contains i

/-- The valid readings enter the histories of their sensors. -/
def takenIn (s : State) (l : List Int) : State :=
  { s with pwr := { s.pwr with temps := (List.range 20).foldl (fun (m : SMap (List Int)) i =>
    if (badSensors l).contains i then m else SMap.set [] m i ((l.getD i 0 :: SMap.get [] m i).take 4)) s.pwr.temps } }

/-- A sensor of the die or of the power stage has read 125 °C twice in a row. -/
def hotTwice (s : State) (l : List Int) : Bool :=
  (List.range 18).any fun i => !(badSensors l).contains i && (match SMap.get (α := List Int) [] s.pwr.temps i with
    | a :: b :: _ => decide (125 ≤ a) && decide (125 ≤ b)
    | _ => false)

/-- After a thermal trip the restart waits no longer once every sensor reads below 100 °C. -/
def coolNoted (s : State) (l : List Int) : State :=
  if ((List.range 20).all fun i => (badSensors l).contains i || decide (l.getD i 0 < 100)) ∧ s.pwr.back = 4 then
    { s with pwr := { s.pwr with back := 0 } }
  else s

/-- The reading of the DRAM packages is noted. -/
def pkgNoted (s : State) (l : List Int) : State :=
  match hottest s (validSensors l fun i => decide (18 ≤ i)) with
  | some (_, t) => if s.pwr.die then pkgReading s t else { s with dram := { s.dram with pkgTemp := t } }
  | none => s

/-- The hottest of the sensors that the thermal state follows. -/
def watched (s : State) (l : List Int) : Option (Nat × Int) := hottest s (validSensors l fun i => decide (i < 18))

/-- The thermal state that follows a sample. -/
def stateAfter (s : State) (l : List Int) : Nat :=
  if 4 < ((badSensors l).filter fun i => decide (i < 16)).length then 2
  else match watched s l with
    | some (i, _) => thermNext (rdF s .supv 0x048 20 2) (meanI (SMap.get (α := List Int) [] s.pwr.temps i))
    | none => rdF s .supv 0x048 20 2

/-- The value that SUP_TEMP takes. -/
def supTempOf (s : State) (l : List Int) : Reg32 :=
  let die := hottest s (validSensors l fun i => decide (i < 16))
  let mod := hottest s (validSensors l fun i => decide (16 ≤ i))
  BitVec.ofNat 32 (tempByte ((die.map Prod.snd).getD 0) + tempByte ((mod.map Prod.snd).getD 0) * 2 ^ 8
    + (die.map Prod.fst).getD 0 * 2 ^ 16 + stateAfter s l * 2 ^ 20)

/-- SUP_TEMP is written, and the entry into WARN recorded. -/
def stateNoted (s : State) (l : List Int) : State :=
  let t := wr s .supv 0x048 (supTempOf s l)
  if rdF s .supv 0x048 20 2 ≠ 1 ∧ stateAfter s l = 1 then recInternal t .supv 0x83 (((watched s l).map Prod.fst).getD 0) else t

/-- Invalid readings are recorded, then the thermal state, while the die is out of reset. -/
def dieNoted (s : State) (l : List Int) : State :=
  if !s.pwr.die then s else stateNoted ((badSensors l).foldl (fun s i => recInternal s .supv 0x82 i) s) l

/-- Two readings of 125 °C take the rails off until a restart. -/
def tripNoted (s : State) (hot same : Bool) : State :=
  if hot ∧ s.pwr.back < 2 then { causeOff s 6 same with pwr := { (causeOff s 6 same).pwr with back := 2 } } else s

theorem thermalSample_eq {s : State} {l : List Int} (same : Bool) (hlen : l.length = 20) (hon : stageOn s = true) :
    thermalSample l same s = tripNoted (dieNoted (pkgNoted (coolNoted (takenIn s l) l) l) l) (hotTwice (takenIn s l) l) same := by
  unfold thermalSample
  rw [if_neg (by simp [hlen, hon])]
  rfl

/-- The history of a sensor takes its valid reading; every other history stays. -/
theorem get_temps_step (l : List Int) (m : SMap (List Int)) (n i : Nat) :
    SMap.get [] (SMap.set [] m n ((l.getD n 0 :: SMap.get [] m n).take 4)) i =
      if i = n then (l.getD i 0 :: SMap.get [] m i).take 4 else SMap.get [] m i := by
  split
  next h => rw [h, SMap.get_set]
  next h => exact SMap.get_set_other _ _ _ h

/-- Without an invalid reading every sensor's history begins with its new one. -/
theorem temps_takenIn {l : List Int} (hbad : badSensors l = []) (s : State) {i : Nat} (hi : i < 20) :
    SMap.get [] (takenIn s l).pwr.temps i = (l.getD i 0 :: SMap.get [] s.pwr.temps i).take 4 := by
  have hfold : ∀ n, SMap.get [] ((List.range n).foldl (fun (m : SMap (List Int)) i =>
      SMap.set [] m i ((l.getD i 0 :: SMap.get [] m i).take 4)) s.pwr.temps) i =
      if i < n then (l.getD i 0 :: SMap.get [] s.pwr.temps i).take 4 else SMap.get [] s.pwr.temps i := fun n => by
    induction n with
    | zero => rfl
    | succ n ih =>
      rw [List.range_succ, List.foldl_append, List.foldl_cons, List.foldl_nil, get_temps_step, ih]
      by_cases hin : i = n
      · subst hin; simp
      · simp only [if_neg hin, show i < n + 1 ↔ i < n by omega]
  have h20 := hfold 20
  rw [if_pos hi] at h20
  simpa [takenIn, hbad] using h20

/-- No sensor has read 125 °C twice where none reads it now. -/
theorem hotTwice_cool {l : List Int} (hbad : badSensors l = []) (s : State) (hcool : ∀ i, i < 20 → l.getD i 0 < 125) :
    hotTwice (takenIn s l) l = false := by
  refine List.any_eq_false.2 fun i hi => ?_
  have hi : i < 20 := Nat.lt_trans (List.mem_range.1 hi) (by decide)
  have hnow : ¬ 125 ≤ l.getD i 0 := not_le.2 (hcool i hi)
  rw [temps_takenIn hbad s hi]
  generalize l.getD i 0 = x at hnow ⊢
  cases SMap.get [] s.pwr.temps i with
  | nil => simp
  | cons b r => simp [hnow]

/-- Noting the readings leaves the registers of SUPV, and the die as it is. -/
theorem rd_pkgNoted_supv (s : State) (l : List Int) {o : Nat} (ho : o < 0x1000) :
    rd (pkgNoted (coolNoted (takenIn s l) l) l) .supv o = rd s .supv o := by
  have hcool : rd (coolNoted (takenIn s l) l) .supv o = rd s .supv o := by unfold coolNoted; split <;> rfl
  unfold pkgNoted
  split
  · split
    · rw [rd_pkgReading_supv _ _ ho, hcool]
    · exact hcool
  · exact hcool

theorem die_pkgNoted (s : State) (l : List Int) : (pkgNoted (coolNoted (takenIn s l) l) l).pwr.die = s.pwr.die := by
  have hcool : (coolNoted (takenIn s l) l).pwr.die = s.pwr.die := by unfold coolNoted; split <;> rfl
  unfold pkgNoted
  split
  · split
    · rw [pkgReading_pwr, hcool]
    · exact hcool
  · exact hcool

theorem stateAfter_le {s : State} {l : List Int} (hbad : badSensors l = []) : stateAfter s l ≤ 3 := by
  have hold : rdF s .supv 0x048 20 2 < 4 := fld_lt ..
  unfold stateAfter
  rw [hbad, if_neg (by decide)]
  split
  · exact (thermNext_le _ _).trans (by decide)
  · omega

/-- SUP_TEMP holds the thermal state that follows. -/
theorem thermState_supTempOf {s : State} {l : List Int} (hbad : badSensors l = []) : fld (supTempOf s l) 20 2 = stateAfter s l := by
  refine thermState_of_supTemp (tempByte_lt _) (tempByte_lt _) ?_ (stateAfter_le hbad)
  cases h : hottest s (validSensors l fun i => decide (i < 16)) with
  | none => decide
  | some x =>
    have := (List.mem_filter.1 (hottest_mem h)).2
    simp only [Bool.and_eq_true, decide_eq_true_eq] at this
    exact this.1

/-- THERM_WARN is counted exactly where the thermal state that is written goes to WARN. -/
theorem stateNoted_counts {s : State} {l : List Int} (hbad : badSensors l = []) :
    rdF (stateNoted s l) .supv 0x048 20 2 = stateAfter s l ∧
    rdF (stateNoted s l) .supv 0x02C 16 16 = if rdF s .supv 0x048 20 2 ≠ 1 ∧ stateAfter s l = 1 then min 65535 (rdF s .supv 0x02C 16 16 + 1)
      else rdF s .supv 0x02C 16 16 := by
  have hstate : rdF (wr s .supv 0x048 (supTempOf s l)) .supv 0x048 20 2 = stateAfter s l := by rw [rdF, rd_wr, thermState_supTempOf hbad]
  have herrs : rdF (wr s .supv 0x048 (supTempOf s l)) .supv 0x02C 16 16 = rdF s .supv 0x02C 16 16 := by
    rw [rdF, rd_wr_off _ _ _ (by decide), rdF]
  unfold stateNoted
  dsimp only
  split
  · rw [rdF_recInternal_off _ _ _ _ _ _ (by decide), recInternal, errs_recordErr, herrs]
    exact ⟨hstate, rfl⟩
  · exact ⟨hstate, herrs⟩

theorem warnRecorded_atEntry : WarnRecorded := by
  intro s l same hdie hlen hall t
  have hget : ∀ i, i < 20 → -55 ≤ l.getD i 0 ∧ l.getD i 0 < 125 := fun i hi => by
    rw [List.getD_eq_getElem _ _ (hlen ▸ hi)]
    exact hall _ (List.getElem_mem _)
  have hbad : badSensors l = [] := by
    refine List.filter_eq_nil_iff.2 fun i hi => ?_
    have := hget i (List.mem_range.1 hi)
    simp only [tempOk, Bool.not_eq_true', Bool.not_eq_false, Bool.and_eq_true, decide_eq_true_eq]
    omega
  cases hon : stageOn s with
  | false =>
    have ht : t = s := by
      change thermalSample l same s = s
      unfold thermalSample
      rw [if_pos (by simp [hon])]
    rw [ht, if_neg fun h => h.1 h.2]
  | true =>
    have ht : t = stateNoted (pkgNoted (coolNoted (takenIn s l) l) l) l := by
      change thermalSample l same s = _
      rw [thermalSample_eq same hlen hon, hotTwice_cool hbad s fun i hi => (hget i hi).2, tripNoted, if_neg (by simp), dieNoted, die_pkgNoted, hdie,
        if_neg (by decide), hbad, List.foldl_nil]
    obtain ⟨hstate, herrs⟩ := stateNoted_counts (s := pkgNoted (coolNoted (takenIn s l) l) l) hbad
    have hsame : ∀ o lo n, o < 0x1000 → rdF (pkgNoted (coolNoted (takenIn s l) l) l) .supv o lo n = rdF s .supv o lo n := fun o lo n ho => by
      rw [rdF, rd_pkgNoted_supv s l ho, rdF]
    rw [ht, herrs, hstate, hsame _ _ _ (by decide), hsame _ _ _ (by decide)]

/-! ## The power limit (R61 to R63) -/

theorem powerLimit_withinLimit : PowerLimit := by
  intro s hclk hp hp'
  change execPowerLimitEval s = _
  unfold execPowerLimitEval
  rw [if_neg (by simp [hclk])]
  simp [Nat.not_lt.2 hp, Nat.not_lt.2 hp']

theorem powerLimitLower_lowersOne : PowerLimitLower := by
  intro s w hclk hp hoc hpick hhi hmore t
  have hlo : ¬ 10 * pinUnits s < 9 * pLim s := by omega
  have hpick' : lowerPick { s with pwr := { s.pwr with overCnt := 0 } } = some w := hpick
  change execPowerLimitEval s = _
  unfold execPowerLimitEval
  rw [if_neg (by simp [hclk])]
  simp only [hp, if_true, hoc, hpick', hlo, if_false]
  have hhi' : ¬ lowerPick t = none := hmore
  simp [hhi', t]

theorem pointsFollow_requestAndCeiling : PointsFollow := by
  intro s q res v w hs ht hw hnap
  refine ⟨wantPoint_le_curPoint none hs ht hw hnap, ?_⟩
  obtain ⟨skip, hend⟩ := vrEnd_eq s q res v
  rw [hend]
  refine wantPoint_le_curPoint skip ?_ ?_ hw ?_
  · simpa using hs
  · simpa using ht
  · rw [rdB, rd_congr (vrNext_regs _), rd_endNoted_other _ _ _ _ (by decide)]
    exact hnap

/-- The state beyond the registers, the rails and the clusters' ceilings. -/
def beyondSupply (s : State) :=
  (s.engines, s.clusters, s.movers, s.cells, s.cores, s.l2s, s.sc, s.dram, s.sram, s.fab)

/-- A change acts on the Winovar clusters alone (R63): on their rails, on registers of SUPV and CKRS, on the supply's own record. -/
structure ActsOnCores (s t : State) : Prop where
  rails : ∀ r, (r < 2 ∨ 5 ≤ r) → SMap.getF railReset t.pwr.level r = SMap.getF railReset s.pwr.level r
  acked : t.pwr.acked = s.pwr.acked
  pages : ∀ p off, off < 0x1000 → p ≠ .supv → p ≠ .ckrs → rd t p off = rd s p off
  thermal : t.pwr.thrCeil = s.pwr.thrCeil
  beyond : beyondSupply t = beyondSupply s

theorem ActsOnCores.trans {s t u : State} (h : ActsOnCores s t) (h' : ActsOnCores t u) : ActsOnCores s u where
  rails r hr := (h'.rails r hr).trans (h.rails r hr)
  acked := h'.acked.trans h.acked
  pages p off ho hs hc := (h'.pages p off ho hs hc).trans (h.pages p off ho hs hc)
  thermal := h'.thermal.trans h.thermal
  beyond := h'.beyond.trans h.beyond

/-- The counts and ceilings of the supply limit are its own. -/
theorem actsOnCores_counts (s : State) (oc hi lo : Nat) (ceil : SMap Nat) :
    ActsOnCores s { s with pwr := { s.pwr with overCnt := oc, hiCnt := hi, loCnt := lo, supCeil := ceil } } :=
  ⟨fun _ _ => rfl, rfl, fun _ _ _ _ _ => rfl, rfl, rfl⟩

theorem ActsOnCores.refl (s : State) : ActsOnCores s s := actsOnCores_counts s s.pwr.overCnt s.pwr.hiCnt s.pwr.loCnt s.pwr.supCeil

/-- A field of a register of SUPV or CKRS. -/
theorem actsOnCores_wrF (s : State) {p : Page} (hp : p = .supv ∨ p = .ckrs) {off : Nat} (ho : off < 0x1000) (lo n x : Nat) :
    ActsOnCores s (wrF s p off lo n x) := by
  refine ⟨fun _ _ => rfl, rfl, fun q o hoff hs hc => rd_wrF_other _ _ _ _ ?_, rfl, rfl⟩
  obtain ⟨h1, h2⟩ := pageAddr_off_supply hs hc hoff ho
  obtain rfl | rfl := hp
  · exact h1
  · exact h2

/-- A request for the rail of a Winovar cluster. -/
theorem actsOnCores_vrSend (s : State) (q : VrReq) (h2 : 2 ≤ q.rail) (h5 : q.rail < 5) : ActsOnCores s (vrSend s q) where
  rails r hr := level_vrSend_other s q (by omega)
  acked := vrSend_acked s q
  pages p off _ _ _ := rd_congr (vrSend_regs s q) p off
  thermal := vrSend_thrCeil s q
  beyond := by unfold vrSend; split <;> rfl

/-- A fatal error of SUPV. -/
theorem actsOnCores_recFatal (s : State) (code detail : Nat) : ActsOnCores s (recFatal s .supv code detail) where
  rails _ _ := by simp [recFatal]
  acked := by simp [recFatal]
  pages p off ho hs hc := rd_recordErr_other _ _ _ _ _ _ _ fun r hr => (pageAddr_off_supply hs hc ho (by omega)).1
  thermal := by simp [recFatal]
  beyond := by simp [beyondSupply, recFatal]

theorem actsOnCores_applyPoints (s : State) : ActsOnCores s (applyPoints s) := by
  rw [applyPoints, askVolts_eq, lowerClocks_eq]
  refine List.foldlRecOn (motive := ActsOnCores s) _ _ ?_ fun t ht w hw => ht.trans ?_
  · refine List.foldlRecOn (motive := ActsOnCores s) _ _ (.refl s) fun t ht w _ => ht.trans ?_
    have hshown := actsOnCores_wrF t (.inl rfl) (by decide : 0x044 < 0x1000) (8 + 2 * w) 2 (ceilOf t w)
    unfold lowerClock
    dsimp only
    split
    · exact hshown
    · exact hshown.trans (actsOnCores_wrF _ (.inr rfl) (by decide) ..)
  · have hw : w < 3 := List.mem_range.1 (show w ∈ List.range 3 from hw)
    obtain h | h | ⟨q, hq, h⟩ := askVolt_cases none t w <;> rw [h]
    · exact .refl t
    · exact actsOnCores_wrF _ (.inr rfl) (by decide) ..
    · exact actsOnCores_vrSend t q (by omega) (by omega)

theorem actsOnCores_setCeil (s : State) (w p : Nat) : ActsOnCores s (setCeil s w p) :=
  (actsOnCores_counts s s.pwr.overCnt s.pwr.hiCnt s.pwr.loCnt _).trans (actsOnCores_applyPoints _)

/-- A change of the ceiling of a cluster that has been picked, if one has. -/
theorem actsOnCores_picked (s : State) (o : Option Nat) (f : Nat → Nat) :
    ActsOnCores s (match o with | some w => setCeil s w (f w) | none => s) := by
  cases o with
  | some w => exact actsOnCores_setCeil s w _
  | none => exact .refl s

/-- A part of the evaluation that is taken only at a count. -/
theorem ActsOnCores.ite {s t u : State} {p : Prop} [Decidable p] (h : ActsOnCores s t) (h' : ActsOnCores t u) :
    ActsOnCores s (if p then u else t) := by
  split
  · exact h.trans h'
  · exact h

theorem actsOnCores_powerLimitEval (s : State) : ∃ t, exec .powerLimitEval s = .next t ∧ ActsOnCores s t := by
  refine ⟨_, rfl, ?_⟩
  split
  · exact .refl s
  · dsimp only
    refine .ite (.ite (.trans (.ite ?_ ?_) (actsOnCores_counts ..)) ?_) (actsOnCores_picked ..)
    · exact actsOnCores_counts s _ s.pwr.hiCnt s.pwr.loCnt s.pwr.supCeil
    · exact (actsOnCores_counts _ _ s.pwr.hiCnt s.pwr.loCnt s.pwr.supCeil).trans (actsOnCores_picked ..)
    · exact (actsOnCores_wrF _ (.inl rfl) (by decide) ..).trans (actsOnCores_recFatal ..)

theorem limitActsOnCores : LimitActsOnCores := by
  intro s
  obtain ⟨t, hrun, h⟩ := actsOnCores_powerLimitEval s
  have hb := h.beyond
  simp only [beyondSupply, Prod.mk.injEq] at hb
  obtain ⟨he, hc, hm, hce, hco, hl, hsc, hd, hsr, hf⟩ := hb
  exact ⟨t, hrun, fun r hr => ⟨h.rails r hr, by rw [ackedLevel, h.acked, ackedLevel]⟩, h.pages, h.thermal,
    he, hc, hm, hce, hco, hl, hsc, hd, hsr, hf⟩

/-- Settles O28: each supply and thermal event, by its own lemma. -/
theorem supplyEvents : Obligations.SupplyEvents :=
  ⟨vinSample_selectsWindow, vinWindows_atBoundaries, highTripRestart_restarts, dipTimeout_switchesOff, overcurrent_switchesOff,
    causeRecord_setsRegister, railStart_starts, railTimeout_retries, railTimeoutThird_staysOff, railTimeoutMulti_recorded,
    railRetry_needsVin, vaonStart_starts, vaonLoss_isCold, throttleStep_lowers, throttleRise_raises, thermalSample_takesReadings,
    thermalStates_hysteresis, warnRecorded_atEntry, powerLimit_withinLimit, powerLimitLower_lowersOne,
    pointsFollow_requestAndCeiling, limitActsOnCores⟩

end Sys2Proof.Machine
end

section
/-!
PROOFS. O29: the VR link, the bank rails, the reference and PORST_N (R67 to R72, R78, R83, R98, R99, R102, R290, R428).
-/

namespace Sys2Proof.Machine

open Sys2Proof.Claims

/-! ## Requests (R69 to R71, R290) -/

theorem vrCommand_on {s : State} (q : VrReq) (h : clocksOn s = true) : vrCommand s q = vrSend s q := if_pos h

theorem vrSend_launches : VrSend := by
  intro s rail value hclk hvr
  have hsend : ∀ q, Host.Outcome.next (ρ := Refusal) (φ := Fault) (vrCommand s q) = .next (vrLaunch s q) := fun q => by
    rw [vrCommand_on q hclk, vrSend_idle q hvr]
  exact ⟨hsend _, hsend _, hsend _, hsend _, hsend _⟩

theorem vrWaits_behind : VrWaits := by
  intro s rail value q hclk hvr
  exact congrArg Host.Outcome.next ((vrCommand_on _ hclk).trans (vrSend_busy _ hvr))

theorem vrRanges_ofRails : VrRanges := by
  intro v
  refine ⟨?_, ?_, ?_, fun r h2 h5 => ?_, ?_, ?_, fun r h8 h16 => ?_, fun r h16 h32 => ?_, fun t r ht => ?_⟩
  · simp [vrRefuse]
  · simp [vrRefuse, railReset]
    omega
  · simp [vrRefuse, railReset]
  · simp [vrRefuse, show ¬ 8 ≤ r by omega, show r ≠ 5 by omega, show ¬ r < 2 by omega, show r ≠ 6 by omega, show r ≠ 7 by omega, h5]
  · simp [vrRefuse, railReset]
  · simp [vrRefuse, railReset]
  · simp [vrRefuse, h8, h16]
  · simp [vrRefuse, show ¬ r < 16 by omega, show r ≠ 5 by omega, show ¬ r < 2 by omega, show r ≠ 6 by omega, show r ≠ 7 by omega,
      show ¬ r < 5 by omega]
    omega
  · exact if_pos ht

/-! ## Frames (R68) -/

theorem crc8Bit_lt (c : Nat) (x : Bool) : crc8Bit c x < 256 := by
  unfold crc8Bit
  split
  · exact Nat.xor_lt_two_pow (n := 8) (by omega) (by decide)
  · omega

theorem vrCrc_lt (f : BitVec 32) : vrCrc f < 256 :=
  List.foldlRecOn (motive := fun c => c < 256) _ _ (by decide) fun _ _ _ _ => crc8Bit_lt ..

/-- The CRC of a frame is that of its bits 31:8. -/
theorem vrCrc_congr {f g : BitVec 32} (h : ∀ j, 8 ≤ j → j < 32 → f.getLsbD j = g.getLsbD j) : vrCrc f = vrCrc g := by
  unfold vrCrc
  refine List.foldl_ext _ _ _ fun c i hi => ?_
  have hi := List.mem_range.1 hi
  rw [h _ (by omega) (by omega)]

theorem vrSeal_toNat {w : Nat} (hw : w < 2 ^ 32) : (vrSeal w).toNat = w / 256 * 256 + vrCrc (BitVec.ofNat 32 w) := by
  have := vrCrc_lt (BitVec.ofNat 32 w)
  rw [vrSeal, BitVec.toNat_ofNat]
  omega

/-- A sealed frame's CRC holds. -/
theorem vrOk_vrSeal {w : Nat} (hw : w < 2 ^ 32) : vrOk (vrSeal w) = true := by
  have hc := vrCrc_lt (BitVec.ofNat 32 w)
  have hsame : vrCrc (vrSeal w) = vrCrc (BitVec.ofNat 32 w) := by
    refine vrCrc_congr fun j h8 _ => ?_
    have hj : 2 ^ j = 256 * 2 ^ (j - 8) := by rw [show (256 : Nat) = 2 ^ 8 from rfl, ← Nat.pow_add]; congr 1; omega
    rw [BitVec.getLsbD, BitVec.getLsbD, vrSeal_toNat hw, BitVec.toNat_ofNat, Nat.mod_eq_of_lt hw, Nat.testBit_eq_decide_div_mod_eq,
      Nat.testBit_eq_decide_div_mod_eq, hj, ← Nat.div_div_eq_div_mul, ← Nat.div_div_eq_div_mul]
    rw [show (w / 256 * 256 + vrCrc (BitVec.ofNat 32 w)) / 256 = w / 256 by omega]
  rw [vrOk, hsame, fld, vrSeal_toNat hw, decide_eq_true_eq]
  omega

theorem vrFrames_readBack : VrFrames := by
  refine ⟨fun typ rail value seq ht hr hv hs => ?_, fun s q => ⟨_, rfl, rfl, rfl, rfl⟩⟩
  have hw : typ % 16 * 2 ^ 28 + rail % 32 * 2 ^ 23 + value % 1024 * 2 ^ 13 + seq % 32 * 2 ^ 8 < 2 ^ 32 := by omega
  have hc := vrCrc_lt (BitVec.ofNat 32 (typ % 16 * 2 ^ 28 + rail % 32 * 2 ^ 23 + value % 1024 * 2 ^ 13 + seq % 32 * 2 ^ 8))
  refine ⟨vrOk_vrSeal hw, ?_, ?_, ?_, ?_⟩ <;>
  · rw [vrFrame, fld, vrSeal_toNat hw]
    omega

/-! ## What arrives (R68 to R71) -/

/-- An ACK that arrives with the die out of reset. -/
theorem vrReceive_ack {s : State} {f : BitVec 32} (n : Nat) (hdie : s.pwr.die = true) (hok : vrOk f = true) (ht : fld f 28 4 = 8) :
    vrReceive s f n = vrThen s (vrAck s (fld f 8 5) (fld f 13 10)) true n := by
  simp [vrReceive, hdie, hok, ht]

/-- A NAK that arrives with the die out of reset. -/
theorem vrReceive_nak {s : State} {f : BitVec 32} (n : Nat) (hdie : s.pwr.die = true) (hok : vrOk f = true) (ht : fld f 28 4 = 9) :
    vrReceive s f n = vrThen s (vrNak s (fld f 8 5) (fld f 13 10)) false n := by
  simp [vrReceive, hdie, hok, ht]

/-- Marionette has no part in a request that is not its own. -/
theorem vrThen_other {s : State} {q : VrReq} (t : State) (ok : Bool) (n : Nat) (hq : s.pwr.vr = some q) (hw : q.why ≠ .mari) :
    vrThen s t ok n = t := by
  simp [vrThen, hq, hw]

/-- Marionette goes on when its own request has ended. -/
theorem vrThen_mari {s : State} {q : VrReq} (t : State) (ok : Bool) (n : Nat) (hq : s.pwr.vr = some q) (hw : q.why = .mari)
    (hend : t.pwr.vr.map VrReq.seq ≠ some q.seq) : vrThen s t ok n = mariVr t q ok n := by
  unfold vrThen
  rw [hq]
  exact if_pos ⟨hw, hend⟩

/-- While the same request stays outstanding Marionette waits. -/
theorem vrThen_same {s t : State} (ok : Bool) (n : Nat) (h : t.pwr.vr = s.pwr.vr) : vrThen s t ok n = t := by
  unfold vrThen
  cases hq : s.pwr.vr with
  | none => rfl
  | some q => exact if_neg fun hr => hr.2 (by rw [h, hq]; rfl)

/-- The ACK of the outstanding request, at the level asked for. -/
theorem vrAck_ends {s : State} {q : VrReq} {seq v : Nat} (hq : s.pwr.vr = some q) (hseq : q.seq = seq) (hb : q.bad = 0) (hv : v = ackValue s q) :
    vrAck s seq v = vrEnd (if q.typ = 4 then answer s false v else s) q 1 v := by
  unfold vrAck
  rw [hq]
  simp only [hseq, ne_eq, not_true_eq_false, if_false, hb, hv, true_and, if_true]

/-- A NAK that ends the outstanding request. -/
theorem vrNak_ends {s : State} {q : VrReq} {seq reason : Nat} (hq : s.pwr.vr = some q) (hseq : q.seq = seq)
    (hr : (reason = 4 ∧ q.bad = 0) ∨ (2 ≤ reason ∧ reason = q.bad)) : vrNak s seq reason = vrFail s q reason := by
  have h1 : reason ≠ 1 := by omega
  unfold vrNak
  rw [hq]
  dsimp only
  rw [if_neg (not_or.2 ⟨not_not.2 hseq, by rw [decide_eq_true (.inr hr)]; decide⟩), if_neg fun h => h1 h.1]

theorem vrBadFrames_discarded : VrBadFrames := by
  intro s f n
  refine ⟨fun hok => ?_, fun hdie hok ht => ?_, fun ht => ?_⟩
  · have hrun : ∀ n, vrReceive s f n = s := fun n => if_pos (by simp [hok])
    exact ⟨congrArg Host.Outcome.next (hrun n), congrArg Host.Outcome.next (hrun n), congrArg Host.Outcome.next (hrun 0)⟩
  · have hrun : vrReceive s f n = { s with pwr := { s.pwr with vrBad := s.pwr.vrBad + 1 } } := by
      simp [vrReceive, hdie, hok, ht, show fld f 28 4 ≠ 8 by omega, show fld f 28 4 ≠ 9 by omega, show fld f 28 4 ≠ 10 by omega]
    exact congrArg Host.Outcome.next hrun
  · have hrun : vrReceive s f n = s := by
      simp [vrReceive, show fld f 28 4 ≠ 8 by omega, show fld f 28 4 ≠ 9 by omega, show fld f 28 4 ≠ 10 by omega,
        show ¬ 11 ≤ fld f 28 4 by omega]
    exact congrArg Host.Outcome.next hrun

theorem vrAck_endsRequest : VrAckEnds := by
  intro s f n q hdie hok ht hq hseq hb hv hw
  have hrun : exec (.vrAck f n) s = .next (vrEnd (if q.typ = 4 then answer s false (fld f 13 10) else s) q 1 (fld f 13 10)) := by
    refine congrArg Host.Outcome.next ?_
    rw [vrReceive_ack n hdie hok ht, vrThen_other _ _ _ hq hw, vrAck_ends hq hseq hb hv]
  refine ⟨fun h4 => ?_, fun h4 => ?_⟩
  · rw [hrun, if_neg h4]
  · rw [hrun, if_pos h4]

theorem vrMari_goesOn : VrMari := by
  intro s f n q hdie hok hq hseq hb hw h4
  refine ⟨fun ht hv hend => ?_, fun ht hv hend => ?_⟩
  · refine congrArg Host.Outcome.next ?_
    have hack : vrAck s (fld f 8 5) (fld f 13 10) = vrEnd s q 1 (fld f 13 10) := by rw [vrAck_ends hq hseq hb hv, if_neg h4]
    rw [vrReceive_ack n hdie hok ht, hack, vrThen_mari _ _ _ hq hw hend]
  · refine congrArg Host.Outcome.next ?_
    have hnak : vrNak s (fld f 8 5) (fld f 13 10) = vrFail s q 4 := by rw [vrNak_ends hq hseq (.inl ⟨hv, hb⟩), hv]
    rw [vrReceive_nak n hdie hok ht, hnak, vrThen_mari _ _ _ hq hw hend]

theorem vrLateAck_flagged : VrLateAck := by
  intro s f n hdie hok ht hlate
  refine congrArg Host.Outcome.next ?_
  have hack : vrAck s (fld f 8 5) (fld f 13 10) = wrB s .supv 0x044 18 true := by
    unfold vrAck
    cases hq : s.pwr.vr with
    | none => rfl
    | some q => exact if_pos (hlate q hq)
  rw [vrReceive_ack n hdie hok ht, hack]
  exact vrThen_same _ _ rfl

theorem vrNakCrc_sendsAgain : VrNakCrc := by
  intro s f n q hdie hok ht hr hq hseq htries hw
  refine congrArg Host.Outcome.next ?_
  rw [vrReceive_nak n hdie hok ht, vrThen_other _ _ _ hq hw]
  unfold vrNak
  rw [hq]
  dsimp only
  rw [if_neg (by simp [hseq, hr]), if_pos ⟨hr, htries⟩]

theorem vrNakOther_ends : VrNakOther := by
  intro s f n q hdie hok ht hq hseq hr hw
  refine congrArg Host.Outcome.next ?_
  rw [vrReceive_nak n hdie hok ht, vrThen_other _ _ _ hq hw, vrNak_ends hq hseq hr]

theorem vrTimeout_ends : VrTimeout := by
  intro s n q hq hw
  refine congrArg Host.Outcome.next ?_
  rw [vrThen_other _ _ _ hq hw]
  unfold vrTimeout
  rw [hq]

/-- R71: after a request that failed the ABORT for its rail goes out; the acknowledged levels and the flags of the supply stand. -/
theorem vrEnd_failed {s : State} (q a : VrReq) (rest : List VrReq) {res : Nat} (v : Nat) (hres : res ≠ 1) (hq : s.pwr.vrq = a :: rest) :
    (∃ r, (vrEnd s q res v).pwr.vr = some r ∧ r.typ = a.typ ∧ r.rail = a.rail ∧ r.value = a.value ∧ r.seq = s.pwr.vrSeq) ∧
    (∀ i, 14 ≤ i → rdB (vrEnd s q res v) .supv 0x044 i = rdB s .supv 0x044 i) ∧ (vrEnd s q res v).pwr.acked = s.pwr.acked := by
  obtain ⟨skip, hend⟩ := vrEnd_eq s q res v
  obtain ⟨r, hr, htyp, hrail, hvalue, hseq⟩ := vr_vrNext ((endNoted_vrq s q res v).trans hq)
  rw [hend]
  refine ⟨⟨r, vr_askVolts skip ((congrArg Pwr.vr (lowerClocks_pwr _)).trans hr), htyp, hrail, hvalue, hseq.trans (endNoted_vrSeq s q res v)⟩,
    fun i hi => ?_, ?_⟩
  · rw [rdB, rd_askVolts_supv _ _ _ (by decide), ← rdB, rdB_lowerClocks hi, rdB, rd_congr (vrNext_regs _),
      rd_endNoted_other _ _ _ _ (by decide), rdB]
  · rw [askVolts_acked, lowerClocks_pwr, vrNext_acked, endNoted_acked _ _ _ hres]

theorem vrAborts_afterFailure : VrAborts := by
  intro s q reason t
  have hres : (if reason = 0 then 2 else 3) ≠ 1 := by split <;> decide
  let u : State := { s with pwr := { s.pwr with vrq := { typ := 5, rail := q.rail, value := 0 } :: s.pwr.vrq } }
  have hpwr : (recInternal (wrB u .supv 0x044 17 true) .supv 0x81 (q.rail + reason * 2 ^ 8)).pwr = u.pwr := by simp [recInternal]
  obtain ⟨⟨r, hr, htyp, hrail, hvalue, hseq⟩, hflags, hack⟩ :=
    vrEnd_failed (s := recInternal (wrB u .supv 0x044 17 true) .supv 0x81 (q.rail + reason * 2 ^ 8)) q
      { typ := 5, rail := q.rail, value := 0 } s.pwr.vrq 0 hres (congrArg Pwr.vrq hpwr)
  refine ⟨⟨r, hr, htyp, hrail, hvalue, hseq.trans (by rw [hpwr])⟩, ?_, ?_⟩
  · refine (hflags 17 (by decide)).trans ?_
    rw [rdB, recInternal, rd_recordErr_off _ _ _ _ _ _ _ _ (by decide), ← rdB, rdB_wrB_same _ _ _ _ (by decide)]
  · exact congrArg (fun m => SMap.getF railReset m q.rail) (hack.trans (by rw [hpwr]))

/-! ## Telemetry (R72, R78) -/

/-- The die is out of reset while its clocks run. -/
theorem die_of_clocksOn {s : State} (h : clocksOn s = true) : s.pwr.die = true := (Bool.and_eq_true_iff.1 h).1

theorem telemetry_shown : Telemetry := by
  intro s f hclk hok ht vin iin htel hwin
  refine congrArg Host.Outcome.next ?_
  have hrecv : vrReceive s f 0 = telemetry s vin iin := by simp [vrReceive, die_of_clocksOn hclk, hok, ht, vin, iin]
  rw [hrecv, telemetry, if_neg (by simp [hclk, htel])]
  dsimp only
  rw [if_pos hwin]

theorem telemLost_reported : TelemLost := fun _ hclk => ⟨congrArg Host.Outcome.next (if_pos hclk), congrArg Host.Outcome.next (if_pos hclk)⟩

/-! ## Bank rails (R67, R428) -/

theorem bankDone_showsLevel : BankDone := by
  intro s b res hend hok u lvl
  have hok' : rdF (wrF (wrF u (.pb b) 0x044 2 2 lvl) (.pb b) 0x044 4 3 res) (.pb b) 0x044 0 2 ≠ 3 := by
    rw [rdF_wrF_apart _ _ _ _ (by decide), rdF_wrF_apart _ _ _ _ (by decide)]
    exact hok
  change execBankRailDone b s = _
  unfold execBankRailDone
  rw [hend]
  have hu : ¬ rdF u (.pb b) 0x044 0 2 = 3 := hok
  dsimp only
  rw [if_neg hu]
  exact congrArg (fun x => Host.Outcome.next (setIrq x (.pb b) 1)) (if_neg hok')

theorem bankFault_switchesOff : BankFault := by
  intro s b hon dids off u v w
  exact congrArg Host.Outcome.next (if_neg hon)

/-! ## The reference and PORST_N (R77, R83, R98, R99, R102) -/

theorem refLost_inHoldover : RefLost := fun _ hdie => ⟨congrArg Host.Outcome.next (if_pos hdie), congrArg Host.Outcome.next (if_pos hdie)⟩

theorem refAccepted_sets : RefAccepted := fun _ hdie => congrArg Host.Outcome.next (if_pos hdie)

theorem refWait_recorded : RefWait := by
  intro s hdie href hrail
  refine congrArg Host.Outcome.next (if_pos ⟨?_, ?_, hrail⟩)
  · rw [hdie]; rfl
  · rw [href]; rfl

/-- PORST_N recognised with VAON up. -/
theorem execPorstAssert_on {s : State} (same : Bool) (hp : s.pwr.porst = true) (hv : s.pwr.vaon = true) :
    exec (.porstAssert same) s = .next (
      let u : State := { s with pwr := { s.pwr with porst := false } }
      if 2 ≤ s.pwr.back then { u with pwr := { u.pwr with back := 3 } }
      else if s.pwr.rail = .starting ∨ s.pwr.rail = .retry ∨ s.pwr.rail = .dead then u
      else
        let r := moduleReset u 1 0 same
        if 3 ≤ s.mari.asleep then { r with pwr := { r.pwr with rail := .off } } else r) :=
  congrArg Host.Outcome.next (if_neg (by simp [hp, hv]))

theorem porstAssert_resets : PorstAssert := by
  intro s same hp hv hb hr ha
  have hrail : ¬ (s.pwr.rail = .starting ∨ s.pwr.rail = .retry ∨ s.pwr.rail = .dead) := by
    rintro (h | h | h) <;> simp [h] at hr
  rw [execPorstAssert_on same hp hv, if_neg (by omega), if_neg hrail]
  exact congrArg Host.Outcome.next (if_neg (by omega))

theorem porstInStart_delays : PorstInStart := by
  intro s same hp hv hb hr
  rw [execPorstAssert_on same hp hv, if_neg (by omega), if_pos (.inl hr)]

theorem porstTrip_counts : PorstTrip := by
  intro s same hp hv hb
  rw [execPorstAssert_on same hp hv, if_pos hb]

theorem porstRelease_high : PorstRelease := fun _ hp => congrArg Host.Outcome.next (if_neg (by simp [hp]))

/-- Settles O29: each event of the VR link, the bank rails, the reference and PORST_N, by its own lemma. -/
theorem vrLinkAndReference : Obligations.VrLinkAndReference :=
  ⟨vrSend_launches, vrWaits_behind, vrFrames_readBack, vrRanges_ofRails, vrBadFrames_discarded, vrAck_endsRequest, vrMari_goesOn,
    vrLateAck_flagged, vrNakCrc_sendsAgain, vrNakOther_ends, vrTimeout_ends, vrAborts_afterFailure, telemetry_shown, telemLost_reported,
    bankDone_showsLevel, bankFault_switchesOff, refLost_inHoldover, refAccepted_sets, refWait_recorded, porstAssert_resets,
    porstInStart_delays, porstTrip_counts, porstRelease_high⟩

end Sys2Proof.Machine
end

section
/-!
PROOFS. O54: the interrupt controller and the SCU services. It fails at the bring-up of DRAM (R297 to R299): a channel that has trained
takes its refresh factor with it, which the statement leaves out.
-/

namespace Sys2Proof.Machine

open Sys2Proof.Claims

/-- SCU firmware runs with the DRAM group at 1.80 V, and the package sensors have read 100 °C, for which R299 asks 2× of every channel. -/
def warmBringup : State := { sage := { phase := .done }, dram := { pkgTemp := 100 }, pwr := { acked := [(5, 180)] } }

/-- REFX of channel 0 after a command. -/
def refxAfter : Result → Nat
  | .next t => rdF t (.dch 0) 0x040 2 2
  | _ => 0

/-- With every channel trained, the model's bring-up sets REFX to 2× in the warm package. -/
theorem refxAfter_warmBringup : refxAfter (exec (.dramBringup 0) warmBringup) = 1 := by decide +kernel

/-- The bring-up that the statement describes writes the channel's state alone and leaves REFX at its reset value. -/
theorem not_dramUp : ¬ DramUp := by
  intro h
  have hup := congrArg refxAfter
    (h warmBringup 0 rfl (by decide +kernel) (by decide +kernel) (by decide +kernel) (by decide +kernel))
  rw [refxAfter_warmBringup] at hup
  exact absurd hup (by decide +kernel)

/-- Refutes O54: DRAM comes up with the package sensors at 100 °C, and a trained channel is left with REFX 1 where the statement has 0. -/
theorem not_interruptsAndServices : ¬ Obligations.InterruptsAndServices := by
  unfold Obligations.InterruptsAndServices
  rintro ⟨-, -, -, -, -, -, -, -, -, -, -, -, -, -, -, -, -, -, -, -, -, -, -, -, -, -, hup⟩
  exact not_dramUp hup

end Sys2Proof.Machine
end

section
/-!
PROOFS. O4 and O5: every command completes, and every step keeps the invariant.
-/

namespace Sys2Proof.Machine

/-- Every command keeps the queue and the invariant, by the law of its own row. -/
theorem exec_good {q : List Instr} {s : State} (h : Good q s) : ∀ c : Instr, GoodR q (exec c s)
  | .fabricIngress .. => execFabricIngress_good h
  | .fabricCompletion .. => execFabricCompletion_good h
  | .engineWindowRead .. => execEngineWindowRead_good h
  | .engineWindowWrite .. => execEngineWindowWrite_good h
  | .registerWrite .. => execRegisterWrite_good h
  | .autoWakeDone .. => execAutoWakeDone_good h
  | .autoWakeTimeout => execAutoWakeTimeout_good h
  | .irqSet .. => execIrqSet_good h
  | .blkLock .. => execBlkLock_good h
  | .blkSoftReset .. => execBlkSoftReset_good h
  | .softResetDone .. => execSoftResetDone_good h
  | .srstTimeout .. => execSrstTimeout_good h
  | .ferrPop .. => execFerrPop_good h
  | .errCntRead .. => execErrCntRead_good h
  | .ferrLostRead .. => execFerrLostRead_good h
  | .yoyoEvent .. => execYoyoEvent_good h
  | .yoyoAck .. => execYoyoAck_good h
  | .vinIinSample .. => execVinIinSample_good h
  | .highTripRestart => execHighTripRestart_good h
  | .dipTimeout .. => execDipTimeout_good h
  | .railStart => execRailStart_good h
  | .railStartTimeout .. => execRailStartTimeout_good h
  | .railStartRetry => execRailStartRetry_good h
  | .vaonStart => execVaonStart_good h
  | .vaonLoss => execVaonLoss_good h
  | .inputOvercurrent .. => execInputOvercurrent_good h
  | .powerLimitEval => execPowerLimitEval_good h
  | .clkWreqWrite .. => execClkWreqWrite_good h
  | .bankFault .. => execBankFault_good h
  | .vrSet .. => execVrSet_good h
  | .vrEnable .. => execVrEnable_good h
  | .vrDisable .. => execVrDisable_good h
  | .vrRead .. => execVrRead_good h
  | .vrAbort .. => execVrAbort_good h
  | .vrAck .. => execVrAck_good h
  | .vrNak .. => execVrNak_good h
  | .vrTelemetry .. => execVrTelemetry_good h
  | .vrTimeout .. => execVrTimeout_good h
  | .telemLost => execTelemLost_good h
  | .vrLinkLost => execVrLinkLost_good h
  | .thermalSample .. => execThermalSample_good h
  | .throttleStep => execThrottleStep_good h
  | .refLost => execRefLost_good h
  | .lockLost => execLockLost_good h
  | .porstAssert .. => execPorstAssert_good h
  | .porstRelease => execPorstRelease_good h
  | .dieResetRelease .. => execDieResetRelease_good h
  | .refWaitTimeout => execRefWaitTimeout_good h
  | .rstReq .. => execRstReq_good h
  | .dtLoRead .. => execDtLoRead_good h
  | .bootWrite .. => execBootWrite_good h
  | .bootStatus .. => execBootStatus_good h
  | .bootClear .. => execBootClear_good h
  | .bootInfo .. => execBootInfo_good h
  | .bootRelease .. => execBootRelease_good h
  | .bootReservedCmd .. => execBootReservedCmd_good h
  | .bootFrameTimeout => execBootFrameTimeout_good h
  | .bootFrameApplied => execBootFrameApplied_good h
  | .pushAbandon => execPushAbandon_good h
  | .pcieBootWrite .. => execPcieBootWrite_good h
  | .pcieBootClear .. => execPcieBootClear_good h
  | .pcieBootRelease .. => execPcieBootRelease_good h
  | .tylBoot .. => execTylBoot_good h
  | .imageChoice .. => execImageChoice_good h
  | .bootRetryResume => execBootRetryResume_good h
  | .fuseReread .. => execFuseReread_good h
  | .tamperEvent .. => execTamperEvent_good h
  | .secureWipeDone => execSecureWipeDone_good h
  | .scuLockstepMismatch => execScuLockstepMismatch_good h
  | .interruptEntry .. => execInterruptEntry_good h
  | .lateArrival .. => execLateArrival_good h
  | .storeBus .. => execStoreBus_good h
  | .waitEnd .. => execWaitEnd_good h
  | .wUnalloc .. => execWUnalloc_good h
  | .wAdd .. => execWAdd_good h
  | .wSub .. => execWSub_good h
  | .wAnd .. => execWAnd_good h
  | .wOr .. => execWOr_good h
  | .wXor .. => execWXor_good h
  | .wAndn .. => execWAndn_good h
  | .wSll .. => execWSll_good h
  | .wSrl .. => execWSrl_good h
  | .wSra .. => execWSra_good h
  | .wRor .. => execWRor_good h
  | .wSlt .. => execWSlt_good h
  | .wSltu .. => execWSltu_good h
  | .wMin .. => execWMin_good h
  | .wMax .. => execWMax_good h
  | .wMinu .. => execWMinu_good h
  | .wMaxu .. => execWMaxu_good h
  | .wClz .. => execWClz_good h
  | .wCtz .. => execWCtz_good h
  | .wPopc .. => execWPopc_good h
  | .wAddw .. => execWAddw_good h
  | .wSubw .. => execWSubw_good h
  | .wSllw .. => execWSllw_good h
  | .wSrlw .. => execWSrlw_good h
  | .wSraw .. => execWSraw_good h
  | .wRorw .. => execWRorw_good h
  | .wAddi .. => execWAddi_good h
  | .wAddiw .. => execWAddiw_good h
  | .wSlti .. => execWSlti_good h
  | .wSltiu .. => execWSltiu_good h
  | .wAndi .. => execWAndi_good h
  | .wOri .. => execWOri_good h
  | .wXori .. => execWXori_good h
  | .wLui .. => execWLui_good h
  | .wAuipc .. => execWAuipc_good h
  | .wSlli .. => execWSlli_good h
  | .wSrli .. => execWSrli_good h
  | .wSrai .. => execWSrai_good h
  | .wRori .. => execWRori_good h
  | .wSlliw .. => execWSlliw_good h
  | .wSrliw .. => execWSrliw_good h
  | .wSraiw .. => execWSraiw_good h
  | .wMul .. => execWMul_good h
  | .wMulh .. => execWMulh_good h
  | .wMulhu .. => execWMulhu_good h
  | .wMulhsu .. => execWMulhsu_good h
  | .wDiv .. => execWDiv_good h
  | .wDivu .. => execWDivu_good h
  | .wRem .. => execWRem_good h
  | .wRemu .. => execWRemu_good h
  | .wMulw .. => execWMulw_good h
  | .wDivw .. => execWDivw_good h
  | .wDivuw .. => execWDivuw_good h
  | .wRemw .. => execWRemw_good h
  | .wRemuw .. => execWRemuw_good h
  | .wLb .. => execWLb_good h
  | .wLh .. => execWLh_good h
  | .wLw .. => execWLw_good h
  | .wLd .. => execWLd_good h
  | .wLbu .. => execWLbu_good h
  | .wLhu .. => execWLhu_good h
  | .wLwu .. => execWLwu_good h
  | .wSb .. => execWSb_good h
  | .wSh .. => execWSh_good h
  | .wSw .. => execWSw_good h
  | .wSd .. => execWSd_good h
  | .wFlw .. => execWFlw_good h
  | .wFld .. => execWFld_good h
  | .wFsw .. => execWFsw_good h
  | .wFsd .. => execWFsd_good h
  | .wLl .. => execWLl_good h
  | .wSc .. => execWSc_good h
  | .wSwap .. => execWSwap_good h
  | .wAmoadd .. => execWAmoadd_good h
  | .wAmoand .. => execWAmoand_good h
  | .wAmoor .. => execWAmoor_good h
  | .wAmomax .. => execWAmomax_good h
  | .wAmomin .. => execWAmomin_good h
  | .wAmomaxu .. => execWAmomaxu_good h
  | .wAmominu .. => execWAmominu_good h
  | .wBeq .. => execWBeq_good h
  | .wBne .. => execWBne_good h
  | .wBlt .. => execWBlt_good h
  | .wBge .. => execWBge_good h
  | .wBltu .. => execWBltu_good h
  | .wBgeu .. => execWBgeu_good h
  | .wJ .. => execWJ_good h
  | .wJal .. => execWJal_good h
  | .wJalr .. => execWJalr_good h
  | .wFadd .. => execWFadd_good h
  | .wFsub .. => execWFsub_good h
  | .wFmul .. => execWFmul_good h
  | .wFdiv .. => execWFdiv_good h
  | .wFsqrt .. => execWFsqrt_good h
  | .wFmin .. => execWFmin_good h
  | .wFmax .. => execWFmax_good h
  | .wFsgn .. => execWFsgn_good h
  | .wFsgnn .. => execWFsgnn_good h
  | .wFsgnx .. => execWFsgnx_good h
  | .wFeq .. => execWFeq_good h
  | .wFlt .. => execWFlt_good h
  | .wFle .. => execWFle_good h
  | .wFcvtF .. => execWFcvtF_good h
  | .wFcvtL .. => execWFcvtL_good h
  | .wFcvtLu .. => execWFcvtLu_good h
  | .wFcvtW .. => execWFcvtW_good h
  | .wFcvtWu .. => execWFcvtWu_good h
  | .wFcvtFl .. => execWFcvtFl_good h
  | .wFcvtFlu .. => execWFcvtFlu_good h
  | .wFcvtFw .. => execWFcvtFw_good h
  | .wFcvtFwu .. => execWFcvtFwu_good h
  | .wFmvX .. => execWFmvX_good h
  | .wFmvF .. => execWFmvF_good h
  | .wFmadd .. => execWFmadd_good h
  | .wFmsub .. => execWFmsub_good h
  | .wFnmsub .. => execWFnmsub_good h
  | .wFnmadd .. => execWFnmadd_good h
  | .wFence .. => execWFence_good h
  | .wCleanPoc .. => execWCleanPoc_good h
  | .wInvPoc .. => execWInvPoc_good h
  | .wCinvPoc .. => execWCinvPoc_good h
  | .wCleanPou .. => execWCleanPou_good h
  | .wPack7 .. => execWPack7_good h
  | .wUnpk7 .. => execWUnpk7_good h
  | .wMfs .. => execWMfs_good h
  | .wMts .. => execWMts_good h
  | .wSvc _ imm _ => execWSvc_good (_imm := imm) h
  | .wHvc _ imm _ => execWHvc_good (_imm := imm) h
  | .wFwc _ imm _ => execWFwc_good (_imm := imm) h
  | .wBrk _ imm _ => execWBrk_good (_imm := imm) h
  | .wEret .. => execWEret_good h
  | .wWait .. => execWWait_good h
  | .wIsync .. => execWIsync_good h
  | .wTsync .. => execWTsync_good h
  | .wTlbiVa .. => execWTlbiVa_good h
  | .wTlbiAsid .. => execWTlbiAsid_good h
  | .wTlbiIpa .. => execWTlbiIpa_good h
  | .wTlbiDid .. => execWTlbiDid_good h
  | .wTlbiHva .. => execWTlbiHva_good h
  | .wTlbiAll .. => execWTlbiAll_good h
  | .storeCommit .. => execStoreCommit_good h
  | .cacheLineFill .. => execCacheLineFill_good h
  | .cacheOpComplete .. => execCacheOpComplete_good h
  | .l2Scrub .. => execL2Scrub_good h
  | .pmuClr .. => execPmuClr_good h
  | .pmuCounterWrap .. => execPmuCounterWrap_good h
  | .specCounterWrap .. => execSpecCounterWrap_good h
  | .systemCacheRead .. => execSystemCacheRead_good h
  | .systemCacheWrite .. => execSystemCacheWrite_good h
  | .scFillReturn .. => execScFillReturn_good h
  | .victimAccepted .. => execVictimAccepted_good h
  | .scClean .. => execClean_good h
  | .scInv .. => execInv_good h
  | .scCleanInv .. => execCleanInv_good h
  | .scPreload .. => execPreload_good h
  | .wayClean .. => execWayClean_good h
  | .wayOff .. => execWayOff_good h
  | .wayOn .. => execWayOn_good h
  | .scCmdDone .. => execScCmdDone_good h
  | .partitionDisable .. => execPartitionDisable_good h
  | .partitionCleanDone .. => execPartitionCleanDone_good h
  | .sramAccess .. => execSramAccess_good h
  | .sramBankStateWrite .. => execSramBankStateWrite_good h
  | .sramBankStateDone .. => execSramBankStateDone_good h
  | .confCntRead .. => execConfCntRead_good h
  | .dramRequest .. => execDramRequest_good h
  | .dramReadComplete .. => execDramReadComplete_good h
  | .dramWriteComplete .. => execDramWriteComplete_good h
  | .dramRefresh .. => execDramRefresh_good h
  | .rfmRequest .. => execRfmRequest_good h
  | .driftTracking .. => execDriftTracking_good h
  | .deviceTempReadout .. => execDeviceTempReadout_good h
  | .rankPowerDown .. => execRankPowerDown_good h
  | .deadlineMiss .. => execDeadlineMiss_good h
  | .scrubRead .. => execScrubRead_good h
  | .dramBringup .. => execDramBringup_good h
  | .rmapWrite .. => execRmapWrite_good h
  | .migrationStart => execMigrationStart_good h
  | .migrationCopy .. => execMigrationCopy_good h
  | .migrationSwitch => execMigrationSwitch_good h
  | .dmcPstatRead .. => execDmcPstatRead_good h
  | .dchCeRead .. => execDchCeRead_good h
  | .dchUeRead .. => execDchUeRead_good h
  | .ngUnallocated .. => execNgUnallocated_good h
  | .ngAdd .. => execNgAdd_good h
  | .ngSub .. => execNgSub_good h
  | .ngAdc .. => execNgAdc_good h
  | .ngSbc .. => execNgSbc_good h
  | .ngAnd .. => execNgAnd_good h
  | .ngOr .. => execNgOr_good h
  | .ngXor .. => execNgXor_good h
  | .ngAndn .. => execNgAndn_good h
  | .ngCmp .. => execNgCmp_good h
  | .ngTst .. => execNgTst_good h
  | .ngMin .. => execNgMin_good h
  | .ngMax .. => execNgMax_good h
  | .ngAbs .. => execNgAbs_good h
  | .ngNeg .. => execNgNeg_good h
  | .ngNot .. => execNgNot_good h
  | .ngMov .. => execNgMov_good h
  | .ngSll .. => execNgSll_good h
  | .ngSrl .. => execNgSrl_good h
  | .ngSra .. => execNgSra_good h
  | .ngRor .. => execNgRor_good h
  | .ngSlli .. => execNgSlli_good h
  | .ngSrli .. => execNgSrli_good h
  | .ngSrai .. => execNgSrai_good h
  | .ngRori .. => execNgRori_good h
  | .ngAddi .. => execNgAddi_good h
  | .ngSubi .. => execNgSubi_good h
  | .ngAndi .. => execNgAndi_good h
  | .ngOri .. => execNgOri_good h
  | .ngXori .. => execNgXori_good h
  | .ngCmpi .. => execNgCmpi_good h
  | .ngMovi .. => execNgMovi_good h
  | .ngNop .. => execNgNop_good h
  | .ngMfc .. => execNgMfc_good h
  | .ngMtc .. => execNgMtc_good h
  | .ngPopr .. => execNgPopr_good h
  | .ngHalt .. => execNgHalt_good h
  | .ngMul .. => execNgMul_good h
  | .ngMulh .. => execNgMulh_good h
  | .ngMulhu .. => execNgMulhu_good h
  | .ngMulf _ _ f .. => execNgMulf_good (_f := f) h
  | .ngMac2 .. => execNgMac2_good h
  | .ngMpy2 _ _ f .. => execNgMpy2_good (_f := f) h
  | .ngMacs .. => execNgMacs_good h
  | .ngExtr .. => execNgExtr_good h
  | .ngAclr .. => execNgAclr_good h
  | .ngAadd .. => execNgAadd_good h
  | .ngAsub .. => execNgAsub_good h
  | .ngDiv0 .. => execNgDiv0_good h
  | .ngDiv0u .. => execNgDiv0u_good h
  | .ngDstep .. => execNgDstep_good h
  | .ngDivf .. => execNgDivf_good h
  | .ngLd .. => execNgLd_good h
  | .ngLdd .. => execNgLdd_good h
  | .ngLdq .. => execNgLdq_good h
  | .ngSt .. => execNgSt_good h
  | .ngStd .. => execNgStd_good h
  | .ngStq .. => execNgStq_good h
  | .ngLdc .. => execNgLdc_good h
  | .ngStc .. => execNgStc_good h
  | .ngFrd .. => execNgFrd_good h
  | .ngFwr .. => execNgFwr_good h
  | .ngPrd .. => execNgPrd_good h
  | .ngPwr .. => execNgPwr_good h
  | .ngWait .. => execNgWait_good h
  | .ngRete .. => execNgRete_good h
  | .ngSig .. => execNgSig_good h
  | .ngClre .. => execNgClre_good h
  | .ngEdi .. => execNgEdi_good h
  | .ngEei .. => execNgEei_good h
  | .ngFbyte .. => execNgFbyte_good h
  | .ngFhalf .. => execNgFhalf_good h
  | .ngFword .. => execNgFword_good h
  | .ngFbits .. => execNgFbits_good h
  | .ngBr .. => execNgBr_good h
  | .ngBz .. => execNgBz_good h
  | .ngBnz .. => execNgBnz_good h
  | .ngBltz .. => execNgBltz_good h
  | .ngBgez .. => execNgBgez_good h
  | .ngBlez .. => execNgBlez_good h
  | .ngBgtz .. => execNgBgtz_good h
  | .ngCall .. => execNgCall_good h
  | .ngJr .. => execNgJr_good h
  | .ngJalr .. => execNgJalr_good h
  | .ngLoop .. => execNgLoop_good h
  | .threadRun .. => execThreadRun_good h
  | .threadHalt .. => execThreadHalt_good h
  | .threadHaltApplied .. => execThreadHaltApplied_good h
  | .threadStep .. => execThreadStep_good h
  | .eventEntry .. => execEventEntry_good h
  | .ngWaitEnd .. => execNgWaitEnd_good h
  | .tcmpArm .. => execTcmpArm_good h
  | .tcmpDisarm .. => execTcmpDisarm_good h
  | .timeMatch .. => execTimeMatch_good h
  | .clusterMemoryAccess .. => execClusterMemoryAccess_good h
  | .frdCompletion .. => execFrdCompletion_good h
  | .fwrAccepted .. => execFwrAccepted_good h
  | .moverStart .. => execMoverStart_good h
  | .moverAbort .. => execMoverAbort_good h
  | .moverCompletion .. => execMoverCompletion_good h
  | .cvLoad .. => execCvLoad_good h
  | .cvCfgWrite .. => execCvCfgWrite_good h
  | .cmConfRead .. => execCmConfRead_good h
  | .bankCfgWrite .. => execBankCfgWrite_good h
  | .forceSafe .. => execForceSafe_good h
  | .bankRailDone .. => execBankRailDone_good h
  | .landEdge .. => execLandEdge_good h
  | .rxPop .. => execRxPop_good h
  | .txPush .. => execTxPush_good h
  | .dutyWrite .. => execDutyWrite_good h
  | .capturePop .. => execCapturePop_good h
  | .scheduleStage .. => execScheduleStage_good h
  | .scheduleCommit .. => execScheduleCommit_good h
  | .clrCap .. => execClrCap_good h
  | .clrSch .. => execClrSch_good h
  | .clrRx .. => execClrRx_good h
  | .clrTx .. => execClrTx_good h
  | .cellAbort .. => execCellAbort_good h
  | .leaveSafe .. => execLeaveSafe_good h
  | .clrErr .. => execClrErr_good h
  | .bset .. => execBset_good h
  | .stuffc .. => execStuffc_good h
  | .lva .. => execLva_good h
  | .lvb .. => execLvb_good h
  | .repStop .. => execRepStop_good h
  | .schLow .. => execSchLow_good h
  | .schHigh .. => execSchHigh_good h
  | .schRelease .. => execSchRelease_good h
  | .schToggle .. => execSchToggle_good h
  | .schStartTx .. => execSchStartTx_good h
  | .schStartRepeat .. => execSchStartRepeat_good h
  | .schStopRepeat .. => execSchStopRepeat_good h
  | .schMark .. => execSchMark_good h
  | .repeatPeriod .. => execRepeatPeriod_good h
  | .txFrameStart .. => execTxFrameStart_good h
  | .txFrameEnd .. => execTxFrameEnd_good h
  | .rxFrameStart .. => execRxFrameStart_good h
  | .rxFrameComplete .. => execRxFrameComplete_good h
  | .idleTimeout .. => execIdleTimeout_good h
  | .keepTimeout .. => execKeepTimeout_good h
  | .cellCtrlWrite .. => execCellCtrlWrite_good h
  | .capLostRead .. => execCapLostRead_good h
  | .laneClaim .. => execLaneClaim_good h
  | .laneRelease .. => execLaneRelease_good h
  | .lanePllLock .. => execLanePllLock_good h
  | .laneLockLoss .. => execLaneLockLoss_good h
  | .pcieLinkUp .. => execPcieLinkUp_good h
  | .pcieLinkDown .. => execPcieLinkDown_good h
  | .pcieOutboundRequest .. => execPcieOutboundRequest_good h
  | .pcieCompletion .. => execPcieCompletion_good h
  | .pcieCompletionTimeout .. => execPcieCompletionTimeout_good h
  | .pcieInboundRequest .. => execPcieInboundRequest_good h
  | .msi .. => execMsi_good h
  | .ethTxFrame .. => execEthTxFrame_good h
  | .ethRxFrame .. => execEthRxFrame_good h
  | .ethLinkChange .. => execEthLinkChange_good h
  | .gclGo .. => execGclGo_good h
  | .gclTakeover .. => execGclTakeover_good h
  | .gateEntry .. => execGateEntry_good h
  | .cbLoad .. => execCbLoad_good h
  | .streamResetTimeout .. => execStreamResetTimeout_good h
  | .ethStatRead .. => execEthStatRead_good h
  | .ethRxdropRead .. => execEthRxdropRead_good h
  | .syntNsRead .. => execSyntNsRead_good h
  | .syntStep .. => execSyntStep_good h
  | .tylwenLinkUp .. => execTylwenLinkUp_good h
  | .tylIdle => execTylIdle_good h
  | .tylAck .. => execTylAck_good h
  | .tylCap .. => execTylCap_good h
  | .tylEnum .. => execTylEnum_good h
  | .tylTime => execTylTime_good h
  | .tylPwr .. => execTylPwr_good h
  | .tylPrdReq .. => execTylPrdReq_good h
  | .tylPrdRsp .. => execTylPrdRsp_good h
  | .tylEvt .. => execTylEvt_good h
  | .tylRegReq .. => execTylRegReq_good h
  | .tylRegRsp .. => execTylRegRsp_good h
  | .regTimeout .. => execRegTimeout_good h
  | .memReq .. => execMemReq_good h
  | .memRsp .. => execMemRsp_good h
  | .tylReservedFlit => execTylReservedFlit_good h
  | .flitReplay => execFlitReplay_good h
  | .linkLoss => execLinkLoss_good h
  | .retrain => execRetrain_good h
  | .tylAccept .. => execAccept_good h
  | .tylwStatRead .. => execTylwStatRead_good h
  | .assertMsg .. => execAssert_good h
  | .deassertMsg .. => execDeassert_good h
  | .edgeMsg .. => execEdge_good h
  | .groupHoldExpire .. => execGroupHoldExpire_good h
  | .sgi .. => execSgi_good h
  | .icpTcmpArm .. => execIcpTcmpArm_good h
  | .icpTcmpDisarm .. => execIcpTcmpDisarm_good h
  | .coreTimerMatch .. => execCoreTimerMatch_good h
  | .icStatRead .. => execIcStatRead_good h
  | .domCreate .. => execCreate_good h
  | .domReset .. => execReset_good h
  | .domStart .. => execStart_good h
  | .domDestroy .. => execDestroy_good h
  | .increment .. => execIncrement_good h
  | .drainTimeout .. => execDrainTimeout_good h
  | .resetEnd .. => execResetEnd_good h
  | .ownerBind .. => execOwnerBind_good h
  | .domDropRead .. => execDomDropRead_good h
  | .hello .. => execHello_good h
  | .scsInfo .. => execScsInfo_good h
  | .notices .. => execNotices_good h
  | .dramState .. => execDramState_good h
  | .fuseKey .. => execFuseKey_good h
  | .fuseRevoke .. => execFuseRevoke_good h
  | .fuseSecver .. => execFuseSecver_good h
  | .calRead .. => execCalRead_good h
  | .calWrite .. => execCalWrite_good h
  | .bistRun .. => execBistRun_good h
  | .scsUnknownFunction .. => execScsUnknownFunction_good h
  | .scsResponse .. => execScsResponse_good h
  | .scsTimeout .. => execScsTimeout_good h
  | .mariNap .. => execNap_good h
  | .mariStandby .. => execStandby_good h
  | .mariPark .. => execPark_good h
  | .mariOff .. => execOff_good h
  | .mariGrant .. => execMariGrant_good h
  | .mariDelay => execMariDelay_good h
  | .mariRefuse => execMariRefuse_good h
  | .mariSilence => execMariSilence_good h
  | .mariDelayExceeded => execMariDelayExceeded_good h
  | .mariReady => execMariReady_good h
  | .restartFail => execRestartFail_good h
  | .aonTimerExpire .. => execAonTimerExpire_good h
  | .portWakeEdge .. => execPortWakeEdge_good h
  | .wakePortAddress .. => execWakePortAddress_good h
  | .wakeCmd .. => execWakeCmd_good h
  | .wakePing => execPing_good h
  | .wakePortOtherByte .. => execWakePortOtherByte_good h
  | .wakePortStartStop .. => execWakePortStartStop_good h
  | .sclLowTimeout => execSclLowTimeout_good h
  | .wakeStatRead .. => execWakeStatRead_good h
  | .containedFault => execContainedFault_good h
  | .fatalFault => execFatalFault_good h
  | .fatalHoldExpire .. => execFatalHoldExpire_good h
  | .fltAck .. => execFltAck_good h
  | .scuWatchdogExpire .. => execScuWatchdogExpire_good h
  | .wdKick .. => execWdKick_good h
  | .wdCfgWrite .. => execWdCfgWrite_good h
  | .wdExpire .. => execWdExpire_good h
  | .fltLogPop .. => execFltLogPop_good h
  | .tapReset => execTapReset_good h
  | .extest => execExtest_good h
  | .samplePreload .. => execSamplePreload_good h
  | .idcode => execIdcode_good h
  | .clamp => execClamp_good h
  | .highz => execHighz_good h
  | .memAp .. => execMemAp_good h
  | .scuAp .. => execScuAp_good h
  | .bistRead .. => execBistRead_good h
  | .bypass => execBypass_good h
  | .bistStart .. => execBistStart_good h
  | .bistRunEnd .. => execBistRunEnd_good h
  | .bistVerdict .. => execBistVerdict_good h
  | .registerRead .. => execRegisterRead_good h
  | .schedulerChoice .. => execSchedulerChoice_good h
  | .referenceAccepted => execReferenceAccepted_good h
  | .clockAndDataLock .. => execClockAndDataLock_good h
  | .preemptionVerification .. => execPreemptionVerification_good h
  | .clockStretchLimit .. => execClockStretchLimit_good h

/-- A write of thread control completes, from a page and from an engine. -/
theorem thrCtrlWrite_completes (src : CtlSrc) (e : Fin 512) (t : Fin 4) (v : Nat) (s : State) :
    ∃ u, thrCtrlWrite src e t v s = .next u := by
  cases src with
  | page => exact ⟨_, rfl⟩
  | engine => exact ⟨_, rfl⟩

/-- A write of a mover's command completes, from a page and from an engine. -/
theorem md6Write_completes (src : CtlSrc) (x : Fin 256) (v : Nat) (f : Findings) (s : State) : ∃ u, md6Write src x v f s = .next u := by
  cases src with
  | page => exact ⟨_, rfl⟩
  | engine => exact ⟨_, rfl⟩

/-- A word of the Winovar set that is not allocated completes: with its exception, and without effect where it is allocated. -/
theorem execWUnalloc_completes (n : Fin 24) (word : BitVec 32) (f : Front) (s : State) : ∃ u, execWUnalloc n word f s = .next u := by
  unfold execWUnalloc
  split
  · exact ⟨_, rfl⟩
  · exact ⟨_, rfl⟩

/-- An encoding of the engines that is not allocated completes: with its fault, and without effect where it has none. -/
theorem execNgUnallocated_completes (e : Fin 512) (t : Fin 4) (x : BitVec 36) (s : State) :
    ∃ u, execNgUnallocated e t x s = .next u := by
  unfold execNgUnallocated
  split
  · exact ⟨_, rfl⟩
  · exact ⟨_, rfl⟩

/-- No command stops the model: the rows whose meaning depends on an operand by their own lemma, and every other row answers a next
state whatever its operands are. -/
theorem exec_completes (c : Instr) (s : State) : ∃ t, exec c s = .next t := by
  cases c with
  | threadRun | threadHalt | threadStep => exact thrCtrlWrite_completes ..
  | moverStart | moverAbort => exact md6Write_completes ..
  | wUnalloc => exact execWUnalloc_completes ..
  | ngUnallocated => exact execNgUnallocated_completes ..
  | _ => exact ⟨_, rfl⟩

/-- Settles O5: the command completes by its row, and what holds of the queue and the invariant before it holds after it. -/
theorem everyCommandCompletes : Obligations.EveryCommandCompletes := by
  intro c s hinv
  obtain ⟨t, ht⟩ := exec_completes c s
  obtain ⟨hq, ht'⟩ := good_iff.1 (goodR_of (exec_good (good_iff.2 ⟨rfl, hinv⟩) c) ht)
  exact ⟨t, ht, hq, ht'⟩

/-- The invariant speaks of no queued command. -/
theorem inv_popPending {s : State} (h : Inv s) : Inv (popPending s) := ⟨h.mem, h.regs, h.ferr, h.flog⟩

/-- Settles O4, for an idle tick by its law and for a command by the law of its row. -/
theorem stepKeepsInv : Obligations.StepKeepsInv := by
  intro s t hinv hstep
  cases hq : s.pending with
  | nil =>
    rw [step, hq] at hstep
    cases hstep
    exact (good_iff.1 (idleTick_good (good_iff.2 ⟨hq, hinv⟩))).2
  | cons c q =>
    rw [step, hq] at hstep
    exact (good_iff.1 (goodR_of (exec_good (good_iff.2 ⟨rfl, inv_popPending hinv⟩) c) hstep)).2

end Sys2Proof.Machine
end

section
/-!
PROOFS. O21: the crossings between clock domains (R89 to R96).
-/

namespace Sys2Proof.Machine

open Sys2Proof.Claims

/-! ## The record of one Yo-yo -/

/-- The state with a Yo-yo's record set. -/
def setYoyo (s : State) (k : Nat) (y : Yoyo) : State := { s with yoyos := SMap.set {} s.yoyos k y }

@[simp] theorem setYoyo_regs (s : State) (k : Nat) (y : Yoyo) : (setYoyo s k y).regs = s.regs := rfl
@[simp] theorem setYoyo_twins (s : State) (k : Nat) (y : Yoyo) : (setYoyo s k y).twins = s.twins := rfl
@[simp] theorem setYoyo_xfifos (s : State) (k : Nat) (y : Yoyo) : (setYoyo s k y).xfifos = s.xfifos := rfl

/-- The record that has been set reads back. -/
@[simp] theorem yoyo_setYoyo (s : State) (k : Nat) (y : Yoyo) : SMap.get {} (setYoyo s k y).yoyos k = y := SMap.get_set ..

/-- Every other Yo-yo stays. -/
theorem yoyo_setYoyo_other (s : State) {k j : Nat} (y : Yoyo) (hj : j ≠ k) :
    SMap.get {} (setYoyo s k y).yoyos j = SMap.get {} s.yoyos j := SMap.get_set_other _ _ _ hj

/-! ## Slots of pages and keys of crossings -/

/-- The page of a slot that a page lies in is that page (R114). -/
theorem pageOfSlot_slotOf (p : Page) : pageOfSlot (slotOf p) = some p := by
  cases p with
  | dom d | scs d => revert d; decide +kernel
  | icp n | wcc n | pc n => revert n; decide +kernel
  | dch ch => revert ch; decide +kernel
  | wc w => revert w; decide +kernel
  | nc k => revert k; decide +kernel
  | nce e => revert e; decide +kernel
  | ncm m | eth m => revert m; decide +kernel
  | pb b => revert b; decide +kernel
  | ln l => revert l; decide +kernel
  | pce c => revert c; decide +kernel
  | _ => rfl

/-- There are fewer than 2^16 slots. -/
theorem slotOf_lt (p : Page) : slotOf p < 2 ^ 16 := by
  cases p <;> simp only [slotOf, pageAddr] <;> omega

@[simp] theorem yoyoSrcSlot_yoyoKey (src dst : Page) (x : Fin 16) : yoyoSrcSlot (yoyoKey src dst x) = slotOf src := by
  have := slotOf_lt dst
  simp only [yoyoSrcSlot, yoyoKey]
  omega

@[simp] theorem yoyoDstSlot_yoyoKey (src dst : Page) (x : Fin 16) : yoyoDstSlot (yoyoKey src dst x) = slotOf dst := by
  have := slotOf_lt dst
  simp only [yoyoDstSlot, yoyoKey]
  omega

/-- The receiving clock of a crossing is that of its receiver's page. -/
theorem dstRuns_yoyoKey (s : State) (src dst : Page) (x : Fin 16) : dstRuns s (yoyoKey src dst x) = clockRuns s dst := by
  rw [dstRuns, yoyoDstSlot_yoyoKey, pageOfSlot_slotOf]
  rfl

/-! ## Commands between sides that run and sides that do not -/

/-- What a source that runs and is out of reset gives to a crossing. -/
theorem execYoyoEvent_given {s : State} {src : Page} (dst : Page) (x : Fin 16) (hr : inReset s src = false) (hc : clockRuns s src = true) :
    (exec (.yoyoEvent src dst x .event) s =
      .next (if inReset s dst then countFlush s src 1 else yoyoPut s (yoyoKey src dst x))) ∧
    (∀ v, exec (.yoyoEvent src dst x (.level v)) s =
      .next (if inReset s dst then twinKeep s (levelKey (yoyoKey src dst x)) v else twinPresent s (levelKey (yoyoKey src dst x)) v)) ∧
    (∀ v, exec (.yoyoEvent src dst x (.entry v)) s =
      .next (if inReset s dst then countFlush s src 1
        else { s with xfifos := SMap.set {} s.xfifos (yoyoKey src dst x) (fifoFill (yoyoKey src dst x)
          { fifoNow s (yoyoKey src dst x) with wait := (fifoNow s (yoyoKey src dst x)).wait ++ [v] }) })) :=
  have hgo : ¬(inReset s src = true ∨ (!clockRuns s src) = true) := by simp [hr, hc]
  ⟨congrArg Host.Outcome.next (if_neg hgo), fun _ => congrArg Host.Outcome.next (if_neg hgo),
    fun _ => congrArg Host.Outcome.next (if_neg hgo)⟩

/-- What ends at a crossing with both sides up while the fabric runs. -/
theorem execYoyoAck_ends {s : State} {src dst : Page} (x : Fin 16) (hup : SidesUp s src dst) (hx : xHeld s = false) :
    (exec (.yoyoAck src dst x .event) s =
      .next (if !(yoyoNow s (yoyoKey src dst x)).busy then s
        else setYoyo (if (yoyoNow s (yoyoKey src dst x)).sync then twinEnd s (ovfKey (yoyoKey src dst x)) else s) (yoyoKey src dst x)
          (yoyoEnd (yoyoNow s (yoyoKey src dst x))))) ∧
    exec (.yoyoAck src dst x .level) s = .next (twinEnd s (levelKey (yoyoKey src dst x))) ∧
    exec (.yoyoAck src dst x .entry) s = .next (fifoRead s (yoyoKey src dst x)) := by
  obtain ⟨hrs, hrd, hcs, hcd⟩ := hup
  have hgo : ¬(inReset s src = true ∨ inReset s dst = true ∨ (!clockRuns s src) = true ∨ (!clockRuns s dst) = true ∨ xHeld s = true) := by
    simp [hrs, hrd, hcs, hcd, hx]
  exact ⟨congrArg Host.Outcome.next (if_neg hgo), congrArg Host.Outcome.next (if_neg hgo), congrArg Host.Outcome.next (if_neg hgo)⟩

/-- Where a clock stands or the fabric does, no round trip ends. -/
theorem execYoyoAck_stands {s : State} {src dst : Page} (x : Fin 16) (c : XDst)
    (h : clockRuns s src = false ∨ clockRuns s dst = false ∨ xHeld s = true) : exec (.yoyoAck src dst x c) s = .next s :=
  congrArg Host.Outcome.next (if_pos (by rcases h with h | h | h <;> simp [h]))

/-- A source whose clock stands gives nothing. -/
theorem execYoyoEvent_stands {s : State} {src : Page} (dst : Page) (x : Fin 16) (v : XSrc) (h : clockRuns s src = false) :
    exec (.yoyoEvent src dst x v) s = .next s :=
  congrArg Host.Outcome.next (if_pos (.inr (by simp [h])))

theorem crossingsStopped_carryNothing : CrossingsStopped := by
  intro s src dst x v c
  refine ⟨fun h => ⟨execYoyoEvent_stands dst x v h, execYoyoAck_stands x c (.inl h)⟩, fun h => execYoyoAck_stands x c (.inr (.inl h)),
    fun h => execYoyoAck_stands x c (.inr (.inr h)), fun hr hc hd => ⟨fun hv => ?_, fun l => ?_⟩⟩
  · obtain ⟨hevent, -, hentry⟩ := execYoyoEvent_given dst x hr hc
    cases v with
    | event => rw [hevent, if_pos hd]
    | level l => exact absurd rfl (hv l)
    | entry v => rw [hentry, if_pos hd]
  · rw [(execYoyoEvent_given dst x hr hc).2.1, if_pos hd]

/-- Presenting a value of one crossing leaves all but the twin-sampled crossings. -/
@[simp] theorem twinPresent_yoyos (s : State) (k v : Nat) : (twinPresent s k v).yoyos = s.yoyos := rfl
@[simp] theorem twinPresent_xfifos (s : State) (k v : Nat) : (twinPresent s k v).xfifos = s.xfifos := rfl
@[simp] theorem twinPresent_regs (s : State) (k v : Nat) : (twinPresent s k v).regs = s.regs := rfl

/-- So does the end of the round trip after a flush. -/
@[simp] theorem twinEnd_yoyos (s : State) (k : Nat) : (twinEnd s k).yoyos = s.yoyos := by unfold twinEnd; dsimp only; split <;> rfl
@[simp] theorem twinEnd_xfifos (s : State) (k : Nat) : (twinEnd s k).xfifos = s.xfifos := by unfold twinEnd; dsimp only; split <;> rfl
@[simp] theorem twinEnd_regs (s : State) (k : Nat) : (twinEnd s k).regs = s.regs := by unfold twinEnd; dsimp only; split <;> rfl

/-- The source's value after it has been presented or waits. -/
theorem twin_twinPresent (s : State) (k v : Nat) :
    SMap.get {} (twinPresent s k v).twins k =
      if 4 ≤ (twinNow s k).held ∧ v ≠ (twinNow s k).pres ∧ (twinNow s k).sync = false then { twinNow s k with src := v, pres := v, held := 0 }
      else { twinNow s k with src := v } := by
  simp only [twinPresent, SMap.get_set, Bool.not_eq_true']

/-! ## Yo-yos (R90, R91) -/

/-- An event of a Yo-yo that no flush of the present source cycle discards. -/
theorem yoyoPut_counted {s : State} {k : Nat} (h : (yoyoNow s k).flushed = 0 ∨ (yoyoNow s k).cyc ≠ srcCycle s k) :
    yoyoPut s k =
      if (yoyoNow s k).busy = false then setYoyo s k { yoyoNow s k with busy := true }
      else if (yoyoNow s k).count < 255 then setYoyo s k { yoyoNow s k with count := (yoyoNow s k).count + 1 }
      else
        twinPresent (setYoyo s k { yoyoNow s k with
          ovf := true, flushed := 0, cyc := srcCycle s k,
          lostN := if (yoyoNow s k).flushed = 0 ∧ (yoyoNow s k).cyc = srcCycle s k then (yoyoNow s k).lostN + 1 else 1 }) (ovfKey k) 1 := by
  rw [yoyoPut, if_neg fun hf => h.elim hf.1 fun hc => hc hf.2]
  simp only [Bool.not_eq_true']
  rfl

theorem yoyoEvent_counts : YoyoEventCounts := by
  intro s src dst x ⟨hrs, hrd, hcs, _⟩ k y hflush hidle
  refine ⟨yoyoPut s k, ?_, ?_⟩
  · rw [(execYoyoEvent_given dst x hrs hcs).1, hrd]
    rfl
  rw [yoyoPut_counted hflush]
  have hy : yoyoNow s k = y := rfl
  rw [hy]
  clear_value y
  cases hb : y.busy with
  | false =>
    obtain ⟨hcount, hsync⟩ := hidle hb
    refine ⟨fun j hj => yoyo_setYoyo_other _ _ hj, ?_⟩
    simp [yoyoHeld, hb, hcount, hsync]
  | true =>
    by_cases hc : y.count < 255
    · rw [if_neg (by decide), if_pos hc]
      refine ⟨fun j hj => yoyo_setYoyo_other _ _ hj, ?_⟩
      simp [yoyoHeld, hb, Nat.not_le.2 hc, Nat.add_assoc]
    · rw [if_neg (by decide), if_neg hc]
      refine ⟨fun j hj => yoyo_setYoyo_other _ _ hj, ?_⟩
      simp [yoyoHeld, hb, Nat.le_of_not_lt hc, twin_twinPresent, apply_ite Twin.src]

theorem yoyoEvent_flushCycle : YoyoFlushCycle := by
  intro s src dst x ⟨hrs, hrd, hcs, _⟩ k y hflush hcyc
  rw [(execYoyoEvent_given dst x hrs hcs).1, hrd]
  exact congrArg Host.Outcome.next (if_pos (And.intro hflush hcyc))

/-- What the end of a round trip leaves in the record of a Yo-yo. -/
theorem yoyoEnd_held {y : Yoyo} (hb : y.busy = true) :
    ((yoyoEnd y).busy = true ↔ 0 < y.count) ∧
    (y.sync = false → (yoyoEnd y).acted = y.acted + 1 ∧ yoyoHeld (yoyoEnd y) + 1 = yoyoHeld y) ∧
    (y.sync = true → (yoyoEnd y).acted = y.acted ∧ yoyoHeld (yoyoEnd y) = yoyoHeld y) := by
  by_cases hc : y.count = 0
  · cases hs : y.sync <;> simp [yoyoEnd, yoyoHeld, hb, hs, hc]
  · cases hs : y.sync <;> simp [yoyoEnd, yoyoHeld, hb, hs, hc] <;> omega

theorem yoyoAck_acts : YoyoAckActs := by
  intro s src dst x hup hx k y hbusy
  obtain ⟨hends, hacts, hflushed⟩ := yoyoEnd_held hbusy
  refine ⟨setYoyo (if y.sync then twinEnd s (ovfKey k) else s) k (yoyoEnd y), ?_, fun j hj => ?_, ?_⟩
  · rw [(execYoyoAck_ends x hup hx).1, if_neg (by simpa using hbusy)]
  · rw [yoyo_setYoyo_other _ _ hj]
    split <;> simp
  rw [yoyo_setYoyo]
  refine ⟨by rw [setYoyo_regs]; split <;> simp, by rw [setYoyo_xfifos]; split <;> simp, fun hs => ?_, fun hs => ?_, hends, hacts, hflushed⟩
  · rw [setYoyo_twins, hs]
    rfl
  · rw [setYoyo_twins, hs]
    rfl

/-! ## Twin-sampled crossings (R92) -/

theorem level_presents : LevelPresents := by
  intro s src dst x v ⟨hrs, hrd, hcs, _⟩ k w
  refine ⟨twinPresent s k v, ?_, ?_⟩
  · rw [(execYoyoEvent_given dst x hrs hcs).2.1, hrd]
    rfl
  have hw : twinNow s k = w := rfl
  rw [twin_twinPresent, hw]
  clear_value w
  refine ⟨by split <;> rfl, by split <;> rfl, fun hs hh => ?_, fun hh => ?_, fun j hj => SMap.get_set_other _ _ _ hj, rfl, rfl, rfl⟩
  · by_cases hv : v = w.pres <;> simp [hv, hs, hh]
  · rw [if_neg fun h => Nat.not_le.2 hh h.1]

theorem level_returns : LevelReturns := by
  intro s src dst x hup hx k w
  rw [(execYoyoAck_ends x hup hx).2.1]
  exact ⟨fun h => congrArg Host.Outcome.next (if_neg (by simpa using h)), fun h => congrArg Host.Outcome.next (if_pos (by simpa using h))⟩

/-! ## Receiving edges (R92) -/

/-- An edge with no other value to present samples, accepts and counts the hold. -/
theorem twinEdge_samples {w : Twin} (h : w.held < 3 ∨ w.src = w.pres) :
    twinEdge w = { w with samp := w.pres, acc := if w.pres = w.samp then w.pres else w.acc, held := min 4 (w.held + 1) } :=
  if_neg fun hp => h.elim (fun h3 => Nat.not_le.2 h3 hp.1) hp.2

/-- After four edges with one value the source presents another. -/
theorem twinEdge_presents {w : Twin} (h : 3 ≤ w.held) (hne : w.src ≠ w.pres) :
    twinEdge w = { w with samp := w.pres, acc := if w.pres = w.samp then w.pres else w.acc, pres := w.src, held := 0 } :=
  if_pos ⟨h, hne⟩

/-- The source's value stands. -/
@[simp] theorem twinEdge_src (w : Twin) : (twinEdge w).src = w.src := by
  unfold twinEdge
  dsimp only
  split <;> rfl

@[simp] theorem twinEdges_src (n : Nat) (w : Twin) : (twinEdges n w).src = w.src := by
  induction n generalizing w with
  | zero => rfl
  | succ n ih => rw [twinEdges, ih, twinEdge_src]

theorem twinEdges_add (m n : Nat) (w : Twin) : twinEdges (m + n) w = twinEdges n (twinEdges m w) := by
  induction m generalizing w with
  | zero => rw [Nat.zero_add]; rfl
  | succ m ih => rw [Nat.succ_add, twinEdges, ih, twinEdges]

/-- A value presented, sampled and accepted stays so. -/
structure TwinSettled (w : Twin) : Prop where
  pres : w.pres = w.src
  samp : w.samp = w.src
  acc  : w.acc = w.src

theorem twinSettled_twinEdges {w : Twin} (h : TwinSettled w) (n : Nat) : TwinSettled (twinEdges n w) := by
  induction n generalizing w with
  | zero => exact h
  | succ n ih =>
    refine ih ?_
    rw [twinEdge_samples (.inr h.pres.symm)]
    exact ⟨h.pres, h.pres, by simp [h.pres, h.samp]⟩

/-- The source's latest value is presented once the hold of the value before has ended, `m` edges on. -/
theorem twinEdges_pres (m : Nat) (w : Twin) (h : w.pres = w.src ∨ 3 ≤ w.held + m) : (twinEdges (m + 1) w).pres = w.src := by
  induction m generalizing w with
  | zero =>
    by_cases hp : w.src = w.pres
    · rw [twinEdges, twinEdge_samples (.inr hp)]
      exact hp.symm
    · rw [twinEdges, twinEdge_presents (h.resolve_left (Ne.symm hp)) hp]
      rfl
  | succ m ih =>
    rw [twinEdges, ih (twinEdge w), twinEdge_src]
    by_cases hp : w.src = w.pres
    · exact .inl (by rw [twinEdge_samples (.inr hp)]; exact hp.symm)
    by_cases h3 : w.held < 3
    · refine .inr ?_
      have hm := h.resolve_left (Ne.symm hp)
      rw [twinEdge_samples (.inl h3)]
      simp only
      omega
    · exact .inl (by rw [twinEdge_presents (Nat.le_of_not_lt h3) hp])

/-- Two edges accept a value presented. -/
theorem twinSettled_two {w : Twin} (h : w.pres = w.src) : TwinSettled (twinEdges 2 w) := by
  constructor <;> simp [twinEdges, twinEdge_samples, h]

/-- Four edges with one value end its hold. -/
theorem twinEdges_four {w : Twin} (h : w.pres = w.src) : twinEdges 4 w = { w with samp := w.src, acc := w.src, held := 4 } := by
  simp [twinEdges, twinEdge_samples, h]

/-- Once the value is accepted and its hold has ended, further edges change nothing. -/
theorem twinEdges_still {w : Twin} (h : w.pres = w.src) (n : Nat) : twinEdges n (twinEdges 4 w) = twinEdges 4 w := by
  induction n with
  | zero => rfl
  | succ n ih =>
    have hstill : twinEdge (twinEdges 4 w) = twinEdges 4 w := by
      have hsrc : (twinEdges 4 w).src = (twinEdges 4 w).pres := by rw [twinEdges_four h, h]
      rw [twinEdge_samples (.inr hsrc), twinEdges_four h]
      simp [h]
    rw [twinEdges, hstill, ih]

theorem twinEdges_settle : TwinEdges := by
  refine ⟨fun w hacc => ?_, fun w h3 => ?_, fun w n hn => ?_, fun w n hn => ?_⟩
  · have hedge : (twinEdge w).acc = if w.pres = w.samp then w.pres else w.acc := by
      unfold twinEdge
      dsimp only
      split <;> rfl
    by_cases hs : w.pres = w.samp
    · exact ⟨by rw [hedge, if_pos hs], hs⟩
    · exact absurd (by rw [hedge, if_neg hs]) hacc
  · rw [twinEdge_samples (.inl h3)]
    exact ⟨rfl, Nat.min_eq_right (by omega)⟩
  · obtain ⟨m, rfl⟩ := Nat.exists_eq_add_of_le hn
    have hset : TwinSettled (twinEdges (4 + (2 + m)) w) := by
      rw [twinEdges_add, twinEdges_add]
      exact twinSettled_twinEdges (twinSettled_two (by rw [twinEdges_src]; exact twinEdges_pres 3 w (.inr (by omega)))) m
    rw [show 6 + m = 4 + (2 + m) by omega]
    exact ⟨hset.acc.trans (twinEdges_src ..), hset.pres.trans (twinEdges_src ..)⟩
  · have hpres : (twinEdges 4 w).pres = (twinEdges 4 w).src := by
      rw [twinEdges_src]
      exact twinEdges_pres 3 w (.inr (by omega))
    have hstill : ∀ m, twinEdges (4 + (4 + m)) w = twinEdges 4 (twinEdges 4 w) := fun m => by
      rw [twinEdges_add, twinEdges_add, twinEdges_still hpres]
    obtain ⟨m, rfl⟩ := Nat.exists_eq_add_of_le hn
    rw [show 12 + m = 4 + (4 + (4 + m)) by omega, hstill, hstill 4]

/-! ## FIFOs (R93) -/

/-- The state with a FIFO's record set. -/
def setFifo (s : State) (k : Nat) (f : Xfifo) : State := { s with xfifos := SMap.set {} s.xfifos k f }

@[simp] theorem setFifo_regs (s : State) (k : Nat) (f : Xfifo) : (setFifo s k f).regs = s.regs := rfl

/-- The record that has been set reads back. -/
@[simp] theorem fifo_setFifo (s : State) (k : Nat) (f : Xfifo) : SMap.get {} (setFifo s k f).xfifos k = f := SMap.get_set ..

/-- Every other FIFO stays. -/
theorem fifo_setFifo_other (s : State) {k j : Nat} (f : Xfifo) (hj : j ≠ k) :
    SMap.get {} (setFifo s k f).xfifos j = SMap.get {} s.xfifos j := SMap.get_set_other _ _ _ hj

/-- Entries that enter stand behind those that are there, in the order in which they waited. -/
theorem fifoFill_order (k : Nat) (f : Xfifo) : (fifoFill k f).ents.map Prod.fst ++ (fifoFill k f).wait = f.ents.map Prod.fst ++ f.wait := by
  unfold fifoFill
  split
  · rfl
  · simp [Function.comp_def]

/-- Entries enter while there is room. -/
theorem fifoFill_length {k : Nat} {f : Xfifo} (h : f.ents.length ≤ fifoDepth k) : (fifoFill k f).ents.length ≤ fifoDepth k := by
  unfold fifoFill
  split
  · exact h
  · simp only [List.length_append, List.length_map, List.length_take]
    omega

/-- What waits enters where no flush keeps it back and there is room for all of it. -/
theorem fifoFill_enters {k : Nat} {f : Xfifo} (hs : f.sync = false) (hd : f.due = 0) (h : f.wait.length ≤ fifoDepth k - f.ents.length) :
    (fifoFill k f).wait = [] := by
  simpa [fifoFill, hs, hd] using h

theorem fifo_writes : FifoWrites := by
  intro s src dst x v ⟨hrs, hrd, hcs, _⟩ k f hlen
  refine ⟨setFifo s k (fifoFill k { f with wait := f.wait ++ [v] }), ?_, ⟨?_, ?_, ?_⟩, fun j hj => fifo_setFifo_other _ _ hj, rfl, rfl, rfl⟩
  · rw [(execYoyoEvent_given dst x hrs hcs).2.2, hrd]
    rfl
  · rw [fifo_setFifo, fifoFill_order]
    simp
  · rw [fifo_setFifo]
    exact fifoFill_length hlen
  · intro hs hd hw hroom
    rw [fifo_setFifo]
    exact fifoFill_enters hs hd (by simp [hw]; omega)

theorem fifo_reads : FifoReads := by
  intro s src dst x v edges r hup hx k f hs he hedges
  refine ⟨answer (setFifo s k (fifoFill k { f with ents := r })) false v, ?_, rfl, ?_, fun j hj => fifo_setFifo_other _ _ hj, rfl, rfl, rfl⟩
  · rw [(execYoyoAck_ends x hup hx).2.2]
    have hf : fifoNow s (yoyoKey src dst x) = f := rfl
    unfold fifoRead
    simp only [hf, hs, he]
    exact congrArg Host.Outcome.next (if_neg (Nat.not_lt.2 hedges))
  · exact (congrArg (fun g : Xfifo => g.ents.map Prod.fst ++ g.wait) (fifo_setFifo s k _)).trans (fifoFill_order ..)

/-! ## Flushes (R95, R96) -/

/-- What a flush discards is counted, saturating, in FLUSH of the side that did not reset. -/
theorem countAt_side {k due : Nat} {p : Page} (s : State) (n : Nat) (h : flushSide k due = some p) : countAt s k due n = countFlush s p n := by
  rw [countAt, h]

theorem flush_countFlush (s : State) (p : Page) (n : Nat) : rdF (countFlush s p n) p 0x02C 0 16 = min 65535 (rdF s p 0x02C 0 16 + n) := by
  rw [countFlush, bumpF, rdF_wrF_same _ _ _ _ (by decide), satAdd]
  omega

/-- Counting changes registers alone. -/
@[simp] theorem countAt_yoyos (s : State) (k due n : Nat) : (countAt s k due n).yoyos = s.yoyos := by unfold countAt; split <;> rfl
@[simp] theorem countAt_xfifos (s : State) (k due n : Nat) : (countAt s k due n).xfifos = s.xfifos := by unfold countAt; split <;> rfl

/-- A Yo-yo as a flush leaves it. -/
theorem yoyo_flushYoyo (s : State) (k due : Nat) (y : Yoyo) :
    SMap.get {} (flushYoyo s k due y).yoyos k =
      { busy := true, sync := true, acted := y.acted, ovf := y.ovf && decide (due = 2), cyc := srcCycle s k, flushed := due } := by
  rw [flushYoyo, countAt_yoyos]
  exact SMap.get_set ..

/-- A FIFO as a flush leaves it. -/
theorem fifo_flushFifo (s : State) (k due : Nat) (f : Xfifo) :
    SMap.get {} (flushFifo s k due f).xfifos k = { wait := f.wait, sync := true, back := true } := by
  rw [flushFifo, countAt_xfifos]
  exact SMap.get_set ..

@[simp] theorem flushFifo_yoyos (s : State) (k due : Nat) (f : Xfifo) : (flushFifo s k due f).yoyos = s.yoyos := by
  rw [flushFifo, countAt_yoyos]

/-- The overflow flags that go back change error records alone. -/
theorem latchOvf_frame {α : Type} (f : State → α) (hw : ∀ s p v, f (wr s p 0x020 v) = f s) (s : State) (l : SMap Twin) (sel : Nat → Bool) :
    f (latchOvf s l sel) = f s := by
  refine foldl_frame f _ (fun t e => ?_) _ _
  split
  · split
    · exact hw ..
    · rfl
  · rfl

/-- The clock of a block depends on the supply, on Marionette and on the clusters that it holds in NAP. -/
theorem clockRuns_congr {s t : State} (hpwr : t.pwr = s.pwr) (hmari : t.mari = s.mari) (hnap : rd t .mari 0x044 = rd s .mari 0x044)
    (q : Page) : clockRuns t q = clockRuns s q := by
  have hon : clocksOn t = clocksOn s := by rw [clocksOn, clocksOn, hpwr, hmari]
  have hcka : ∀ w, ckaStopped t w = ckaStopped s w := fun w => by
    rw [ckaStopped, ckaStopped, rdB, rdB, strStopped, strStopped, hnap, hmari]
  unfold clockRuns
  rw [hpwr, hon]
  simp only [hcka]

/-- The clock of a block does not depend on the error record of any page. -/
theorem clockRuns_latchOvf (s : State) (l : SMap Twin) (sel : Nat → Bool) (q : Page) : clockRuns (latchOvf s l sel) q = clockRuns s q := by
  exact clockRuns_congr (latchOvf_frame State.pwr (fun _ _ _ => rfl) ..) (latchOvf_frame State.mari (fun _ _ _ => rfl) ..)
    (latchOvf_frame (fun t => rd t .mari 0x044) (fun t p v => rd_wr_other t v (by cases p <;> simp only [pageAddr] <;> omega)) ..) q

/-- The sides of a crossing in some runs of slots. -/
def sidesIn (l : List (Nat × Nat)) : Nat → Nat := hitSide fun k => l.any fun r => decide (r.1 ≤ k) && decide (k < r.1 + r.2)

/-- What a reset of some blocks does to one Yo-yo, `u` telling which receiving clocks run (R95, R96). -/
def flushYoyoOf (u : State) (l : List (Nat × Nat)) (t : State) (e : Nat × Yoyo) : State :=
  if sidesIn l e.1 = 0 then t
  else if dstRuns u e.1 then flushYoyo t e.1 (e.2.due ||| sidesIn l e.1) e.2
  else setYoyo t e.1 { e.2 with due := e.2.due ||| sidesIn l e.1 }

/-- A Yo-yo whose receiving clock stands keeps what it holds, and its flush is due. -/
theorem flushYoyoOf_waits {u : State} {l : List (Nat × Nat)} (t : State) {k : Nat} (y : Yoyo) (hside : sidesIn l k ≠ 0)
    (hclk : dstRuns u k = false) : flushYoyoOf u l t (k, y) = setYoyo t k { y with due := y.due ||| sidesIn l k } := by
  rw [flushYoyoOf, if_neg hside, if_neg (by simp [hclk])]

/-- Resets of blocks reach every Yo-yo; the FIFOs and the twin-sampled crossings are apart from them. -/
theorem yoyos_flushSlots (s : State) (l : List (Nat × Nat)) :
    (flushSlots s l).yoyos = (s.yoyos.foldl (flushYoyoOf (latchOvf s s.twins fun k => sidesIn l k = 1) l)
      (latchOvf s s.twins fun k => sidesIn l k = 1)).yoyos := by
  have hy : (latchOvf s s.twins fun k => sidesIn l k = 1).yoyos = s.yoyos := latchOvf_frame State.yoyos (fun _ _ _ => rfl) ..
  unfold flushSlots
  rw [← hy]
  refine (foldl_frame State.yoyos _ (fun t e => ?_) _ _)
  dsimp only
  split
  · rfl
  · split
    · rw [flushFifo_yoyos]
    · rfl

/-- What registers and the records of Yo-yos and FIFOs do not touch, a flush of one of them leaves. -/
theorem countAt_frame {α : Type} (f : State → α) (hw : ∀ s p off v, f (wr s p off v) = f s) (s : State) (k due n : Nat) :
    f (countAt s k due n) = f s := by
  unfold countAt
  split
  · exact hw ..
  · rfl

/-- The flushes come first; then the resets are noted. -/
theorem flushSlots_notes (s : State) (l : List (Nat × Nat)) :
    ∃ (t : State) (w : SMap Twin), flushSlots s l = noteResets { t with twins := w } l ∧ (t.resets, t.dt, t.dtOff) = (s.resets, s.dt, s.dtOff) := by
  refine ⟨_, _, rfl, ?_⟩
  let f : State → List (Nat × Nat × Nat) × Nat × Nat := fun t => (t.resets, t.dt, t.dtOff)
  have hw : ∀ s p off v, f (wr s p off v) = f s := fun _ _ _ _ => rfl
  refine (foldl_frame f _ (fun t e => ?_) _ _).trans ((foldl_frame f _ (fun t e => ?_) _ _).trans (latchOvf_frame f (fun _ _ _ => rfl) ..))
  · dsimp only
    split
    · rfl
    · split
      · exact countAt_frame f hw ..
      · rfl
  · dsimp only
    split
    · rfl
    · split
      · exact countAt_frame f hw ..
      · rfl

/-- Resets of blocks are noted at the present tick, before those of other blocks. -/
theorem resets_flushSlots (s : State) (l : List (Nat × Nat)) :
    (flushSlots s l).resets = l.map (fun r => (r.1, r.2, runTick s)) ++ s.resets.filter (fun r => !l.contains (r.1, r.2.1)) ∧
      runTick (flushSlots s l) = runTick s := by
  obtain ⟨t, w, heq, hkeep⟩ := flushSlots_notes s l
  simp only [Prod.mk.injEq] at hkeep
  obtain ⟨hres, hdt, hoff⟩ := hkeep
  rw [heq]
  simp only [noteResets, runTick, hres, hdt, hoff, and_self]

/-- A crossing of a block that has just been reset. -/
theorem yoyoNow_afterReset {s : State} {p src dst : Page} (x : Fin 16) (hy : s.yoyos = []) (hr : s.resets = [(slotOf p, 1, runTick s)])
    (hp : p = src ∨ p = dst) :
    let y := yoyoNow s (yoyoKey src dst x)
    y.busy = true ∧ y.sync = true ∧ y.flushed ≠ 0 ∧ y.cyc = srcCycle s (yoyoKey src dst x) := by
  have hlast : ∀ q, lastReset s (slotOf q) = if slotOf q = slotOf p then some (runTick s) else none := fun q => by
    rw [lastReset, hr]
    by_cases h : slotOf q = slotOf p
    · simp [h]
    · rw [List.filter_cons_of_neg (by simp; omega)]
      simp [h]
  have hnow : yoyoNow s (yoyoKey src dst x) = yoyoRenewed s (yoyoKey src dst x) := by
    rw [yoyoNow, hy]
    refine if_pos ?_
    rw [sideRenewed, sideRenewed, yoyoSrcSlot_yoyoKey, yoyoDstSlot_yoyoKey, hlast, hlast]
    rcases hp with rfl | rfl <;> simp
  intro y
  have hy' : y = yoyoRenewed s (yoyoKey src dst x) := hnow
  rw [hy', yoyoRenewed, yoyoSrcSlot_yoyoKey, yoyoDstSlot_yoyoKey, hlast, hlast, srcCycle]
  by_cases h1 : slotOf src = slotOf p <;> by_cases h2 : slotOf dst = slotOf p
  · simp [h1, h2]
  · simp [h1, h2]
  · simp [h1, h2]
  · rcases hp with rfl | rfl
    · exact absurd rfl h1
    · exact absurd rfl h2

/-- A reset of the source's or the receiver's page is one of a side of the crossing. -/
theorem sidesIn_page {p src dst : Page} (x : Fin 16) (hp : p = src ∨ p = dst) : sidesIn [(slotOf p, 1)] (yoyoKey src dst x) ≠ 0 := by
  rw [sidesIn, hitSide, yoyoSrcSlot_yoyoKey, yoyoDstSlot_yoyoKey]
  rcases hp with rfl | rfl <;> simp

theorem flush_discards : FlushDiscards := by
  refine ⟨fun s k due y p hp => ?_, fun s k y => rfl, fun s k due f p hp => ?_, fun s p src dst x y hy _ hp hclk => ?_, fun s k y => ?_,
    fun s p src dst x hy hr hp => ?_⟩
  · intro t
    have hcount : t = countFlush (setYoyo s k _) p (yoyoDrop s k y) := countAt_side _ _ hp
    refine ⟨by rw [yoyo_flushYoyo]; rfl, by rw [yoyo_flushYoyo], by rw [yoyo_flushYoyo], ?_⟩
    rw [hcount, flush_countFlush]
    rfl
  · intro t
    have hcount : t = countFlush (setFifo s k _) p f.ents.length := countAt_side _ _ hp
    refine ⟨by rw [fifo_flushFifo], by rw [fifo_flushFifo], ?_⟩
    rw [hcount, flush_countFlush]
    rfl
  · have hside := sidesIn_page x hp
    intro t
    have ht : SMap.get {} t.yoyos (yoyoKey src dst x) = { y with due := y.due ||| sidesIn [(slotOf p, 1)] (yoyoKey src dst x) } := by
      change SMap.get {} (flushSlots s [(slotOf p, 1)]).yoyos _ = _
      rw [yoyos_flushSlots, hy, List.foldl_cons, List.foldl_nil,
        flushYoyoOf_waits _ _ hside (by rw [dstRuns_yoyoKey, clockRuns_latchOvf, hclk]), yoyo_setYoyo]
    rw [ht]
    exact ⟨rfl, fun h0 => hside (Nat.or_eq_zero_iff.1 h0).2⟩
  · rw [yoyo_flushYoyo]
    exact Bool.and_true _
  · intro t
    obtain ⟨hres, htick⟩ := resets_flushSlots s [(slotOf p, 1)]
    refine yoyoNow_afterReset x ?_ ?_ hp
    · change (flushSlots s [(slotOf p, 1)]).yoyos = []
      rw [yoyos_flushSlots, hy]
      exact (latchOvf_frame State.yoyos (fun _ _ _ => rfl) ..).trans hy
    · change (flushSlots s [(slotOf p, 1)]).resets = [(slotOf p, 1, runTick (flushSlots s [(slotOf p, 1)]))]
      rw [hres, htick, hr]
      rfl

/-- Settles O21: each clause on the crossings by its own lemma. -/
theorem yoyoConservesEvents : Obligations.YoyoConservesEvents :=
  ⟨yoyoEvent_counts, yoyoEvent_flushCycle, yoyoAck_acts, level_presents, level_returns, twinEdges_settle, fifo_writes, fifo_reads,
    crossingsStopped_carryNothing, flush_discards⟩

end Sys2Proof.Machine
end

section
/-!
PROOFS. O2 and O3: the state after reset, and the idle step (R86, R255, R286).
-/

namespace Sys2Proof.Machine

open Sys2Proof.Claims

/-- Settles O3: reset lists nothing, so every map is canonical and every register reads its reset value. -/
theorem resetInv : Obligations.ResetInv :=
  ⟨⟨rfl, rfl, Nat.zero_le _, Nat.zero_le _⟩, rfl, rfl, rfl, rfl, rfl, fun _ => rfl, rfl, rfl, rfl, fun _ _ => rfl⟩

/-! ## Registers of different pages -/

/-- A page begins at its slot. -/
theorem pageAddr_eq (p : Page) : pageAddr p = 0x10000000 + 0x1000 * slotOf p := by
  cases p <;> simp only [slotOf, pageAddr] <;> omega

/-- Registers of different pages lie at different addresses (R114). -/
theorem pageAddr_apart {p q : Page} {o o' : Nat} (h : p ≠ q) (ho : o < 0x1000) (ho' : o' < 0x1000) : pageAddr p + o ≠ pageAddr q + o' := by
  intro heq
  rw [pageAddr_eq, pageAddr_eq] at heq
  have hslot : slotOf p = slotOf q := by omega
  exact h (Option.some.inj (by rw [← pageOfSlot_slotOf, ← pageOfSlot_slotOf, hslot]))

/-! ## What counting changes -/

/-- The registers that count by themselves: those of a core's page that count its cycles with its interrupt status (R255), and the
conflict counters (R286). -/
def Counts (p : Page) (o : Nat) : Prop :=
  (∃ n, p = .wcc n ∧ (o = 0x010 ∨ o = 0x060 ∨ (0x068 ≤ o ∧ o ≤ 0x074))) ∨ (p = .sram ∧ 0x064 ≤ o ∧ o ≤ 0x09C)

/-- Between the two states only registers that count have changed. -/
structure OnlyCounts (s t : State) : Prop where
  rest : t = { s with regs := t.regs }
  read : ∀ p o, o < 0x1000 → ¬Counts p o → rd t p o = rd s p o

theorem OnlyCounts.refl (s : State) : OnlyCounts s s := ⟨rfl, fun _ _ _ _ => rfl⟩

theorem OnlyCounts.trans {s t u : State} (h : OnlyCounts s t) (h' : OnlyCounts t u) : OnlyCounts s u where
  rest := by rw [h'.rest, h.rest]
  read p o ho hp := (h'.read p o ho hp).trans (h.read p o ho hp)

/-- A write of a register that counts. -/
theorem onlyCounts_wr (s : State) {p : Page} {o : Nat} (v : Reg32) (ho : o < 0x1000) (h : Counts p o) : OnlyCounts s (wr s p o v) where
  rest := rfl
  read q o' ho' hq := by
    refine rd_wr_other s v ?_
    by_cases hpq : q = p
    · subst hpq
      have hne : o' ≠ o := fun e => hq (e ▸ h)
      omega
    · exact pageAddr_apart hpq ho' ho

theorem onlyCounts_foldl {β : Type} {f : State → β → State} (l : List β) (h : ∀ s, ∀ x ∈ l, OnlyCounts s (f s x)) (s : State) :
    OnlyCounts s (l.foldl f s) := by
  induction l generalizing s with
  | nil => exact .refl s
  | cons x l ih =>
    exact (h s x (List.mem_cons_self ..)).trans (ih (fun t y hy => h t y (List.mem_cons_of_mem x hy)) _)

/-- Raised interrupt bits of a core page send nothing: its line does not fall, and it has no shared source (R503, R507). -/
theorem setIrq_wcc (s : State) (n : Fin 24) (mask : Nat) :
    setIrq s (.wcc n) mask = wr s (.wcc n) 0x010 (rd s (.wcc n) 0x010 ||| BitVec.ofNat 32 mask) := by
  have hstays : lineUp s (.wcc n) = true →
      lineUp (wr s (.wcc n) 0x010 (rd s (.wcc n) 0x010 ||| BitVec.ofNat 32 mask)) (.wcc n) = true := by
    simp only [lineUp, decide_eq_true_eq, rd_wr, rd_wr_off _ _ _ (show (0x014 : Nat) ≠ 0x010 by decide)]
    intro hup hdown
    rw [BitVec.and_comm, BitVec.and_or_distrib_left] at hdown
    rw [BitVec.and_comm] at hup
    exact hup (BitVec.or_eq_zero_iff.1 hdown).1
  unfold setIrq
  rw [if_pos (show capIRQ (.wcc n) = true from rfl)]
  unfold withLine
  dsimp only [sourceOf]
  cases h0 : lineUp s (.wcc n) with
  | false => split <;> simp_all
  | true => simp [hstays h0]

theorem onlyCounts_pmuAdd (s : State) (n : Fin 24) {o : Nat} (i k : Nat) (ho : o = 0x060 ∨ (0x068 ≤ o ∧ o ≤ 0x074)) :
    OnlyCounts s (pmuAdd s n o i k) := by
  have hcount := onlyCounts_wr s (rd s (.wcc n) o + BitVec.ofNat 32 k) (by omega) (.inl ⟨n, rfl, .inr ho⟩)
  unfold pmuAdd
  dsimp only
  split
  · rw [setIrq_wcc]
    exact hcount.trans (onlyCounts_wr _ _ (by decide) (.inl ⟨n, rfl, .inl rfl⟩))
  · exact hcount

theorem onlyCounts_pmuCount (l : Nat) (n : Fin 24) (k : Nat) (s : State) (ev : Nat) : OnlyCounts s (pmuCount l n k s ev) := by
  unfold pmuCount
  split
  · refine onlyCounts_foldl _ (fun t i hi => ?_) s
    have hi4 : i < 4 := by simp at hi; omega
    split
    · exact onlyCounts_pmuAdd t n _ _ (.inr (by omega))
    · exact .refl t
  · exact .refl s

theorem onlyCounts_coreCycles (a b : Nat) (s : State) (e : Nat × CoreRec) : OnlyCounts s (coreCycles a b s e) := by
  unfold coreCycles pmuCycles
  dsimp only
  split
  · split
    · exact .refl s
    · refine .trans ?_ ((onlyCounts_pmuCount ..).trans (onlyCounts_pmuCount ..))
      split
      · exact onlyCounts_pmuAdd s _ _ _ (.inl rfl)
      · exact .refl s
  · exact .refl s

theorem onlyCounts_portCycles (a b : Nat) (s : State) (w : PortWait) : OnlyCounts s (portCycles a b s w) := by
  unfold portCycles confCount
  refine onlyCounts_foldl _ (fun t i hi => ?_) s
  have hi8 : i < 8 := List.mem_range.1 hi
  dsimp only
  split
  · exact onlyCounts_wr t _ (by omega) (.inr ⟨rfl, by omega, by omega⟩)
  · exact .refl t

/-! ## One tick -/

/-- The ports and the cores as they have counted between two running ticks. -/
def counted (s : State) (a b : Nat) : State := s.cores.foldl (coreCycles a b) ((portWaits s).foldl (portCycles a b) s)

theorem onlyCounts_counted (s : State) (a b : Nat) : OnlyCounts s (counted s a b) :=
  .trans (onlyCounts_foldl _ (fun t w _ => onlyCounts_portCycles a b t w) s) (onlyCounts_foldl _ (fun t e _ => onlyCounts_coreCycles a b t e) _)

/-- The dividers of CKRS do not count. -/
theorem not_counts_ckrs (o : Nat) : ¬Counts .ckrs o := by simp [Counts]

/-- The registers of Marionette do not count. -/
theorem not_counts_mari (o : Nat) : ¬Counts .mari o := by simp [Counts]

/-- Receiving edges reach the crossings by the clocks, which do not depend on what counts. -/
theorem xEdges_onlyCounts {s t : State} (h : OnlyCounts s t) (k a b : Nat) : xEdges t k a b = xEdges s k a b := by
  have hck := h.read .ckrs 0x040 (by decide) (not_counts_ckrs _)
  have hnap := h.read .mari 0x044 (by decide) (not_counts_mari _)
  have hpwr : t.pwr = s.pwr := by rw [h.rest]
  have hmari : t.mari = s.mari := by rw [h.rest]
  have hrun := clockRuns_congr hpwr hmari hnap
  have hedges : ∀ q, edgesOf t q a b = edgesOf s q a b := fun q => by
    have hdiv : pageDiv t q = pageDiv s q := by
      unfold pageDiv rdF
      rw [hck]
    rw [edgesOf, edgesOf, hdiv]
  have hheld : xHeld t = xHeld s := by rw [xHeld, xHeld, strStopped, strStopped, hmari]
  unfold xEdges
  split
  · rw [hrun, hrun, hedges, hheld]
  · rfl

/-- The crossings after the receiving edges do not depend on what counts. -/
theorem settleCrossings_onlyCounts {s t : State} (h : OnlyCounts s t) (a b : Nat) :
    (settleCrossings t a b).twins = (settleCrossings s a b).twins ∧ (settleCrossings t a b).xfifos = (settleCrossings s a b).xfifos := by
  have htw : t.twins = s.twins := by rw [h.rest]
  have hxf : t.xfifos = s.xfifos := by rw [h.rest]
  simp only [settleCrossings, htw, hxf, xEdges_onlyCounts h, and_self]

/-- One tick of device time. -/
theorem advanceTo_succ (s : State) :
    advanceTo s (s.dt + 1) =
      let a := s.dt - s.dtOff
      let b := s.dt + 1 - s.dtOff
      let u := settleCrossings (counted s a b) a b
      { u with dt := s.dt + 1, cores := u.cores.map fun e => (e.1, { e.2 with done := 0 }) } := if_neg (by omega)

theorem idleTick_changes (s : State) :
    let c := settleCrossings s (s.dt - s.dtOff) (s.dt + 1 - s.dtOff)
    let t := advanceTo s (s.dt + 1)
    t = { s with dt := s.dt + 1, regs := t.regs, twins := c.twins, xfifos := c.xfifos,
                 cores := s.cores.map fun e => (e.1, { e.2 with done := 0 }) } ∧
      ∀ p o, o < 0x1000 → ¬Counts p o → rd t p o = rd s p o := by
  have hu := onlyCounts_counted s (s.dt - s.dtOff) (s.dt + 1 - s.dtOff)
  obtain ⟨htw, hxf⟩ := settleCrossings_onlyCounts hu (s.dt - s.dtOff) (s.dt + 1 - s.dtOff)
  dsimp only
  rw [advanceTo_succ]
  refine ⟨?_, fun p o ho hp => (rd_congr rfl p o).trans (hu.read p o ho hp)⟩
  dsimp only
  rw [htw, hxf]
  generalize counted s (s.dt - s.dtOff) (s.dt + 1 - s.dtOff) = u at hu ⊢
  rw [hu.rest]
  rfl

/-- Settles O2: an idle tick is one tick of device time, in which only counters, crossings and what retired change. -/
theorem idleStepTicks : Obligations.IdleStepTicks := by
  intro s hq
  have hstep : step s = .next (idleTick s) := by rw [step, hq]
  refine ⟨fun hclk => ?_, fun hclk => ?_⟩
  · obtain ⟨hrest, hread⟩ := idleTick_changes s
    refine ⟨advanceTo s (s.dt + 1), ?_, hrest, fun p o ho hp hs => hread p o ho ?_, fun n o ho h1 h2 h3 => hread _ o ho ?_⟩
    · rw [hstep, idleTick, if_pos hclk]
    · rintro (⟨n, rfl, -⟩ | h)
      · exact hp n rfl
      · exact hs h
    · rintro (⟨-, -, h⟩ | ⟨h, -⟩)
      · omega
      · cases h
  · rw [hstep, idleTick, if_neg (by simp [hclk])]

end Sys2Proof.Machine
end

section
/-!
PROOFS. The register bridge (R120): what a command that is one access to a register of a page does.
-/

namespace Sys2Proof.Machine

open Sys2Proof.Claims

/-! ## Where a register lies -/

theorem slotOf_le (p : Page) : slotOf p ≤ 0x3040 := by
  cases p <;> simp only [slotOf, pageAddr] <;> omega

/-- The address of a register lies in its page (R114). -/
theorem regionOf_page (s : State) (p : Page) {off : Nat} (ho : off < 0x1000) : regionOf s (pageAddr p + off) = some (.page p) := by
  have hle := slotOf_le p
  rw [pageAddr_eq]
  unfold regionOf
  rw [if_neg (by omega), if_neg (by omega), if_neg (by omega), if_pos (by omega), pageOfAddr, if_pos (by omega),
    show (0x10000000 + 0x1000 * slotOf p + off - 0x10000000) / 0x1000 = slotOf p by omega, pageOfSlot_slotOf]
  rfl

/-- The offset of a register in its page. -/
theorem addr_offset (p : Page) {off : Nat} (ho : off < 0x1000) : (pageAddr p + off) % 0x1000 = off := by
  rw [pageAddr_eq]
  omega

/-- The address of a register has 48 bits. -/
theorem toNat_registerAddr (p : Page) {off : Nat} (ho : off < 0x1000) :
    (BitVec.ofNat 48 (pageAddr p + off)).toNat = pageAddr p + off := by
  have hle := slotOf_le p
  rw [pageAddr_eq, BitVec.toNat_ofNat]
  omega

/-! ## The way to the block -/

/-- What a command makes of the bridge's answer. -/
def bridgeAnswer : State × Option Resp → State
  | (t, some r) => answer t r.err r.data
  | (t, none) => t

/-- An access of a master that may make it, which passes ingress and the owner check, comes to its block, where that is awake. -/
theorem regCmd_serves {s : State} {m : Master} {lvl : Fin 4} {p : Page} {off : Nat} {d : Option Reg32} {env : MemEnv} (ho : off < 0x1000)
    (h4 : off % 4 = 0) (hclk : clocksOn s = true) (hadm : admits (.page p) m = true)
    (hent : Enters s (regReq s m lvl env.cls (pageAddr p + off) true d))
    (hown : ownerFails s (regReq s m lvl env.cls (pageAddr p + off) true d) p = false)
    (hawake : (decide (0x040 ≤ off) && pageAsleep s p) = false) :
    regCmd m lvl (pageAddr p + off) true d env s =
      .next (bridgeAnswer (serveReg s (regReq s m lvl env.cls (pageAddr p + off) true d) p env)) := by
  obtain ⟨hgate, hcred, hfirst⟩ := hent
  generalize hq : regReq s m lvl env.cls (pageAddr p + off) true d = q at *
  have hm : q.m = m := by rw [← hq]; rfl
  have haddr : q.addr = pageAddr p + off := by rw [← hq]; rfl
  have hsingle : q.single = true := by rw [← hq]; rfl
  have hregion : regionOf s q.addr = some (.page p) := by rw [haddr, regionOf_page s p ho]
  have hingress : regIngress s q = none := by
    rw [regIngress, hregion, hm]
    cases m with
    | core | scu => simp [hgate]
    | _ => cases hadm
  have hdeny : regDeny s q = none := by
    have hsize : ¬((!q.single) = true ∨ q.addr % 4 ≠ 0) := by
      rw [haddr, pageAddr_eq, hsingle]
      simp only [Bool.not_true, Bool.false_eq_true, false_or, not_not]
      omega
    rw [regDeny, hingress]
    dsimp only
    rw [if_neg hsize, hregion]
    simp [hown]
  have hgo : regWaits s q s.fab.stalled = false := by simp [regWaits, hcred, hfirst]
  have hserve : regAccess s q env = serveReg s q p env := by
    rw [regAccess, hdeny]
    dsimp only
    rw [hregion, haddr, addr_offset p ho]
    exact if_neg (by simp [hawake])
  have hrun : regArrive s q env = serveReg s q p env := by rw [regArrive, hgo, ← hserve]; rfl
  rw [regCmd, hclk, hq, hrun]
  rfl

/-! ## What an awake block does with an access (R120, R121) -/

section
variable {s : State} {q : RegReq} {p : Page} {off : Nat} {env : MemEnv} (hoff : q.addr % 0x1000 = off)
include hoff

/-- An unimplemented offset reads zero, and a write to it does nothing. -/
theorem serveReg_unimplemented (h : regInfo p off = none) : serveReg s q p env = (pageNow s p, some {}) := by
  rw [serveReg, hoff]
  simp [h]

/-- A block under soft reset reads zero from offset 0x040 on (R103). -/
theorem serveReg_busy (hd : q.data = none) (h40 : 0x040 ≤ off) (hb : blkBusy (pageNow s p) p = true) :
    serveReg s q p env = (pageNow s p, some {}) := by
  rw [serveReg, hoff]
  simp [hd, h40, hb]

/-- A read of a register. -/
theorem serveReg_read (h : (regInfo p off).isSome = true) (hd : q.data = none)
    (hb : (decide (0x040 ≤ off) && blkBusy (pageNow s p) p) = false) :
    serveReg s q p env = (readEffect (pageNow s p) q p off, some { data := (regView (pageNow s p) q p off).toNat }) := by
  have hnone : (regInfo p off).isNone = false := by simpa using h
  unfold serveReg
  rw [hoff]
  dsimp only
  rw [hnone, hd, Bool.and_comm, hb]
  rfl

/-- A write that nothing rejects and that does not have to wait. -/
theorem serveReg_write {v : Reg32} {t : State} (h : (regInfo p off).isSome = true) (hd : q.data = some v)
    (hr : writeReject (pageNow s p) q p off v = none) (ht : putReg (pageNow s p) q p off v env = .ok t) :
    serveReg s q p env = (t, some {}) := by
  have hnone : (regInfo p off).isNone = false := by simpa using h
  unfold serveReg
  rw [hoff]
  dsimp only
  rw [hnone, hd]
  simp only [Bool.false_eq_true, if_false, hr, ht]

end

/-! ## Commands that are one access -/

/-- Whether a block is asleep or busy is asked of its own registers alone. -/
theorem awake_of_reached {off : Nat} {a b : Bool} (h : (decide (0x040 ≤ off) && (a || b)) = false) :
    (decide (0x040 ≤ off) && a) = false ∧ (decide (0x040 ≤ off) && b) = false := by
  revert h
  cases a <;> cases b <;> simp

/-- A read that reaches a register does what a read of it does, and answers its value. -/
theorem regCmd_read {s : State} {m : Master} {lvl : Fin 4} {p : Page} {off : Nat} {env : MemEnv} (ho : off < 0x1000) (h4 : off % 4 = 0)
    (hreg : (regInfo p off).isSome = true) (h : Reached s m lvl p off none env.cls) :
    regCmd m lvl (pageAddr p + off) true none env s = .next (readOut s m lvl p off env.cls) := by
  obtain ⟨hclk, hadm, hent, hown, hup⟩ := h
  obtain ⟨hawake, hidle⟩ := awake_of_reached hup
  rw [regCmd_serves ho h4 hclk hadm hent hown hawake, serveReg_read (addr_offset p ho) hreg rfl hidle]
  rfl

/-- A write that is accepted does what it does, and answers without error. -/
theorem regCmd_write {s : State} {m : Master} {lvl : Fin 4} {p : Page} {off : Nat} {v : Reg32} {env : MemEnv} (ho : off < 0x1000)
    (h4 : off % 4 = 0) (hreg : (regInfo p off).isSome = true) (h : Accepted s m lvl p off v env) :
    regCmd m lvl (pageAddr p + off) true (some v) env s = .next (written s m lvl p off v env) := by
  obtain ⟨⟨hclk, hadm, hent, hown, hup⟩, hrej, hok⟩ := h
  obtain ⟨hawake, -⟩ := awake_of_reached hup
  rw [regCmd_serves ho h4 hclk hadm hent hown hawake]
  cases hput : putReg (pageNow s p) (regReq s m lvl env.cls (pageAddr p + off) true (some v)) p off v env with
  | error t =>
    rw [hput] at hok
    cases hok
  | ok t =>
    rw [serveReg_write (addr_offset p ho) hreg rfl hrej hput, written, hput]
    rfl

end Sys2Proof.Machine
end

section
/-!
PROOFS. O48: the write commands are each the write of one register (R103 to R123, R379 to R419).
-/

namespace Sys2Proof.Machine

open Sys2Proof.Claims

/-! ## Registers that a page has in a run -/

theorem reg_partition (p : Fin 16) : (regInfo .scac (0x084 + 8 * p.val)).isSome = true := by revert p; decide
theorem reg_bankState (i : Fin 4) : (regInfo .sram (0x040 + 4 * i.val)).isSome = true := by revert i; decide
theorem reg_rosemary (l : Fin 32) : (regInfo .rmap (0x040 + 4 * l.val)).isSome = true := by revert l; decide
theorem reg_watchdog (k : Fin 8) : (regInfo .flts (0x060 + 8 * k.val)).isSome = true := by revert k; decide
theorem reg_watchdogKick (k : Fin 8) : (regInfo .flts (0x064 + 8 * k.val)).isSome = true := by revert k; decide
theorem reg_threadControl (e : Fin 512) (t : Fin 4) : (regInfo (.nce e) (0x040 + 16 * t.val)).isSome = true := by
  match t with
  | 0 | 1 | 2 | 3 => rfl
theorem reg_laneFn (x : LaneFn) : (regInfo (laneFnPage x) 0x040).isSome = true := by cases x <;> rfl

/-! ## Rows with more than one way in -/

theorem registerWrite_row : RegisterWriteRow := by
  intro s m lvl p off v env h4 hreg h
  have hrun := regCmd_write off.isLt h4 hreg h
  rw [← toNat_registerAddr p off.isLt] at hrun
  exact hrun

/-- A thread of the engine itself writes its control word at once (R379). -/
theorem thrCtrlWrite_own {s : State} (e : Fin 512) (t : Fin 4) (v : Nat) (hclk : clocksOn s = true) :
    thrCtrlWrite (.engine e) e t v s = .next (ctlWrite s e (0o110000 + 0o20 * t.val) (BitVec.ofNat 18 v) s.dt) :=
  congrArg Host.Outcome.next (if_pos ⟨rfl, hclk⟩)

/-- The control word of a thread in the word map of its engine. -/
theorem ctlWrite_thrCtrl (s : State) (e : Fin 512) (t : Fin 4) (v : Word18) (x : Nat) :
    ctlWrite s e (0o110000 + 0o20 * t.val) v x = thrCtrl s e t v x := by
  have ho : 0o110000 + 0o20 * t.val - 0o110000 = 0o20 * t.val := by omega
  have ht : Fin.ofNat 4 (0o20 * t.val / 0o20) = t := by
    ext
    simp
  unfold ctlWrite
  dsimp only
  rw [ho, if_pos (by omega), ht, show 0o20 * t.val % 0o20 = 0 by omega]
  rfl

theorem threadControl_row : ThreadControlRow := by
  intro s m lvl e t hrun hhalt hstep
  have hclk : clocksOn s = true := hrun.1.1
  have h4 : (0x040 + 16 * t.val) % 4 = 0 := by omega
  refine ⟨regCmd_write (by omega) h4 (reg_threadControl e t) hrun, regCmd_write (by omega) h4 (reg_threadControl e t) hhalt,
    regCmd_write (by omega) h4 (reg_threadControl e t) hstep, ?_, ?_, ?_⟩
  · exact (thrCtrlWrite_own e t 1 hclk).trans (by rw [ctlWrite_thrCtrl]; rfl)
  · exact (thrCtrlWrite_own e t 2 hclk).trans (by rw [ctlWrite_thrCtrl]; rfl)
  · exact (thrCtrlWrite_own e t 4 hclk).trans (by rw [ctlWrite_thrCtrl]; rfl)

/-- An engine of the mover's cluster, with its owner, writes its command at once (R419). -/
theorem md6Write_engine {s : State} {e : Fin 512} {x : Fin 256} (v : Nat) (f : Findings) (hclk : clocksOn s = true)
    (hcl : clusterOf e = movCluster x) (hown : mvForeign s e x = false) :
    md6Write (.engine e) x v f s = .next (movWrite s x 6 (BitVec.ofNat 18 v) (0o114006 + 8 * (x.val % 8)) f) := by
  refine congrArg Host.Outcome.next ((if_neg (by simp [hcl, hclk])).trans (if_neg (by simp [hown])))

theorem mover_row : MoverRow := by
  intro s m lvl e x f hstart habort hcl hown
  have hclk : clocksOn s = true := hstart.1.1
  exact ⟨regCmd_write (by decide) rfl rfl hstart, regCmd_write (by decide) rfl rfl habort, md6Write_engine 1 f hclk hcl hown,
    md6Write_engine 2 [] hclk hcl hown⟩

/-- Settles O48: each row is the write of its register, by the law of the bridge. -/
theorem registerWrites : Obligations.RegisterWrites := by
  refine ⟨?irqSet, ?blkLock, ?blkSoftReset, ?ownerBind, ?ferrPop, ?clkWreq, ?rstReq, ?pmuClr, ?scClean, ?scInv, ?scCleanInv, ?scPreload,
    ?wayClean, ?wayOff, ?wayOn, ?partitionDisable, ?bankState, ?rmap, ?bankCfg, ?forceSafe, ?cellCtrl, ?laneClaim, ?laneRelease, ?gclGo,
    ?cbLoad, ?syntStep, ?tylAccept, ?sgi, ?tcmpArm, ?tcmpDisarm, ?domCreate, ?domReset, ?domStart, ?domDestroy, ?nap, ?standby, ?park,
    ?off, ?fltAck, ?wdKick, ?wdCfg, ?fltLogPop, ?bistStart, registerWrite_row, threadControl_row, mover_row⟩
  case irqSet => exact fun s m lvl p v h => regCmd_write (by decide) rfl rfl h
  case blkLock => exact fun s m lvl p h => regCmd_write (by decide) rfl rfl h
  case blkSoftReset => exact fun s m lvl p h => regCmd_write (by decide) rfl rfl h
  case ownerBind => exact fun s m lvl p d h => regCmd_write (by decide) rfl rfl h
  case ferrPop => exact fun s m lvl h => regCmd_write (by decide) rfl rfl h
  case clkWreq => exact fun s m lvl v h => regCmd_write (by decide) rfl rfl h
  case rstReq => exact fun s m lvl key h => regCmd_write (by decide) rfl rfl h
  case pmuClr =>
    intro s m lvl n h
    have hrun := regCmd_write (by decide) rfl rfl h
    exact hrun
  case scClean => exact fun s m lvl incl h => regCmd_write (by decide) rfl rfl h
  case scInv => exact fun s m lvl incl h => regCmd_write (by decide) rfl rfl h
  case scCleanInv => exact fun s m lvl incl h => regCmd_write (by decide) rfl rfl h
  case scPreload => exact fun s m lvl part h => regCmd_write (by decide) rfl rfl h
  case wayClean => exact fun s m lvl way h => regCmd_write (by decide) rfl rfl h
  case wayOff => exact fun s m lvl way h => regCmd_write (by decide) rfl rfl h
  case wayOn => exact fun s m lvl way h => regCmd_write (by decide) rfl rfl h
  case partitionDisable => exact fun s m lvl p h => regCmd_write (by omega) (by omega) (reg_partition p) h
  case bankState => exact fun s m lvl i v h => regCmd_write (by omega) (by omega) (reg_bankState i) h
  case rmap => exact fun s m lvl l v h => regCmd_write (by omega) (by omega) (reg_rosemary l) h
  case bankCfg => exact fun s m lvl b v h => regCmd_write (by decide) rfl rfl h
  case forceSafe => exact fun s m lvl b h => regCmd_write (by decide) rfl rfl h
  case cellCtrl => exact fun s m lvl n v h => regCmd_write (by decide) rfl rfl h
  case laneClaim => exact fun s m lvl x v h => regCmd_write (by decide) rfl (reg_laneFn x) h
  case laneRelease => exact fun s m lvl x h => regCmd_write (by decide) rfl (reg_laneFn x) h
  case gclGo => exact fun s m lvl k env h => regCmd_write (by decide) rfl rfl h
  case cbLoad => exact fun s m lvl k env h => regCmd_write (by decide) rfl rfl h
  case syntStep => exact fun s m lvl v h => regCmd_write (by decide) rfl rfl h
  case tylAccept => exact fun s m lvl h => regCmd_write (by decide) rfl rfl h
  case sgi => exact fun s m lvl n v h => regCmd_write (by decide) rfl rfl h
  case tcmpArm => exact fun s m lvl n v h => regCmd_write (by decide) rfl rfl h
  case tcmpDisarm => exact fun s m lvl n v h => regCmd_write (by decide) rfl rfl h
  case domCreate => exact fun s m lvl d h => regCmd_write (by decide) rfl rfl h
  case domReset => exact fun s m lvl d h => regCmd_write (by decide) rfl rfl h
  case domStart => exact fun s m lvl d h => regCmd_write (by decide) rfl rfl h
  case domDestroy => exact fun s m lvl d h => regCmd_write (by decide) rfl rfl h
  case nap => exact fun s m lvl w h => regCmd_write (by decide) rfl rfl h
  case standby => exact fun s m lvl h => regCmd_write (by decide) rfl rfl h
  case park => exact fun s m lvl h => regCmd_write (by decide) rfl rfl h
  case off => exact fun s m lvl h => regCmd_write (by decide) rfl rfl h
  case fltAck => exact fun s m lvl key h => regCmd_write (by decide) rfl rfl h
  case wdKick => exact fun s m lvl k key h => regCmd_write (by omega) (by omega) (reg_watchdogKick k) h
  case wdCfg => exact fun s m lvl k v h => regCmd_write (by omega) (by omega) (reg_watchdog k) h
  case fltLogPop => exact fun s m lvl h => regCmd_write (by decide) rfl rfl h
  case bistStart => exact fun s m lvl v env h => regCmd_write (by decide) rfl rfl h

end Sys2Proof.Machine
end

section
/-!
PROOFS. O47: the read commands each answer one register as it stands (R103, R104, R118, R120, R123).
-/

namespace Sys2Proof.Machine

open Sys2Proof.Claims

/-! ## What a read answers and clears -/

/-- The fields of a register that a read clears (R14). -/
def clearsOnRead (p : Page) (off : Nat) : Nat := ((regInfo p off).map RegInfo.rc).getD 0

/-- A register without a latch: a read clears its fields of access RC. -/
theorem readEffect_clears (s : State) (q : RegReq) {p : Page} {off : Nat} (h0 : clearsOnRead p off ≠ 0) (hdt : p ≠ .ckrs ∨ off ≠ 0x048)
    (hns : p ≠ .tylw ∨ off ≠ 0x080) :
    readEffect s q p off = wr s p off (rd s p off &&& ~~~(BitVec.ofNat 32 (clearsOnRead p off))) := by
  unfold readEffect
  dsimp only
  rw [if_neg (by simpa [imp_iff_not_or] using hdt), if_neg (by simpa [imp_iff_not_or] using hns)]
  exact if_neg h0

/-- A stored register whose count a read takes. -/
theorem readOut_clears {s : State} {m : Master} {lvl : Fin 4} {cls : Cls} {p : Page} {off rc : Nat} (hrc : clearsOnRead p off = rc)
    (h0 : rc ≠ 0) (hdt : p ≠ .ckrs ∨ off ≠ 0x048) (hns : p ≠ .tylw ∨ off ≠ 0x080)
    (hview : ∀ t q, regView t q p off = rd t p off) : readOut s m lvl p off cls = readClears (pageNow s p) p off rc := by
  subst hrc
  rw [readOut, readEffect_clears _ _ h0 hdt hns, hview]
  rfl

/-- A stored register of a block reads as it stands. -/
theorem regView_stored {t : State} {q : RegReq} {p : Page} {off : Nat} (h40 : 0x040 ≤ off) (h : blockRead t q off p = none) :
    regView t q p off = rd t p off := by
  unfold regView
  rw [if_neg (by omega), if_neg (by omega), if_neg (by omega), if_neg (by omega), h]

/-- A computed register of a block. -/
theorem regView_computed {t : State} {q : RegReq} {p : Page} {off x : Nat} (h40 : 0x040 ≤ off) (h : blockRead t q off p = some x) :
    regView t q p off = BitVec.ofNat 32 x := by
  unfold regView
  rw [if_neg (by omega), if_neg (by omega), if_neg (by omega), if_neg (by omega), h]

/-- A read command that reaches a count answers it, and sets its fields of access RC to zero. -/
theorem pageRead_clears {s : State} {m : Master} {lvl : Fin 4} {p : Page} {off rc : Nat} (ho : off < 0x1000) (h4 : off % 4 = 0)
    (hreg : (regInfo p off).isSome = true) (hrc : clearsOnRead p off = rc) (h0 : rc ≠ 0) (hdt : p ≠ .ckrs ∨ off ≠ 0x048)
    (hns : p ≠ .tylw ∨ off ≠ 0x080) (hview : ∀ t q, regView t q p off = rd t p off) (h : Reached s m lvl p off none) :
    pageRead m lvl p off s = .next (readClears (pageNow s p) p off rc) := by
  rw [pageRead, regCmd_read (env := {}) ho h4 hreg h, readOut_clears hrc h0 hdt hns hview]

/-! ## Registers that a page has in a run -/

theorem reg_conflictCount (i : Fin 8) :
    (regInfo .sram (0x064 + 8 * i.val)).isSome = true ∧ clearsOnRead .sram (0x064 + 8 * i.val) = 0xFFFFFFFF := by revert i; decide
theorem reg_portStat (i : Fin 8) :
    (regInfo .dmc (0x080 + 4 * i.val)).isSome = true ∧ clearsOnRead .dmc (0x080 + 4 * i.val) = 0xFFFF0000 := by revert i; decide
theorem reg_memConflict (k : Fin 32) (i : Fin 9) :
    (regInfo (.nc k) (0x080 + 4 * i.val)).isSome = true ∧ clearsOnRead (.nc k) (0x080 + 4 * i.val) = 0xFFFFFFFF := by
  have hpage : ∀ off, regInfo (.nc k) off = regInfo (.nc 0) off := fun _ => rfl
  simp only [clearsOnRead, hpage]
  revert i
  decide

/-! ## The rows -/

theorem errCntRead_row : ErrCntReadRow := fun _ _ _ _ h =>
  pageRead_clears (by decide) rfl rfl rfl (by decide) (.inr (by decide)) (.inr (by decide)) (fun _ _ => rfl) h

theorem ferrLostRead_row : FerrLostReadRow := fun _ _ _ h =>
  pageRead_clears (by decide) rfl rfl rfl (by decide) (.inl (by decide)) (.inl (by decide)) (fun _ _ => rfl) h

theorem confCntRead_row : ConfCntReadRow := fun _ _ _ i h =>
  pageRead_clears (by omega) (by omega) (reg_conflictCount i).1 (reg_conflictCount i).2 (by decide) (.inl (by decide)) (.inl (by decide))
    (fun _ _ => regView_stored (by omega) rfl) h

theorem dchCeRead_row : DchCeReadRow := fun _ _ _ _ h =>
  pageRead_clears (by decide) rfl rfl rfl (by decide) (.inl nofun) (.inl nofun) (fun _ _ => rfl) h

theorem dchUeRead_row : DchUeReadRow := fun _ _ _ _ h =>
  pageRead_clears (by decide) rfl rfl rfl (by decide) (.inl nofun) (.inl nofun) (fun _ _ => rfl) h

theorem cmConfRead_row : CmConfReadRow := fun _ _ _ k i h =>
  pageRead_clears (by omega) (by omega) (reg_memConflict k i).1 (reg_memConflict k i).2 (by decide) (.inl nofun) (.inl nofun)
    (fun _ _ => regView_stored (by omega) rfl) h

theorem capLostRead_row : CapLostReadRow := fun _ _ _ _ h =>
  pageRead_clears (by decide) rfl rfl rfl (by decide) (.inl nofun) (.inl nofun) (fun _ _ => rfl) h

theorem ethStatRead_row : EthStatReadRow := fun _ _ _ _ h =>
  pageRead_clears (by decide) rfl rfl rfl (by decide) (.inl nofun) (.inl nofun) (fun _ _ => rfl) h

theorem ethRxdropRead_row : EthRxdropReadRow := fun _ _ _ _ h =>
  pageRead_clears (by decide) rfl rfl rfl (by decide) (.inl nofun) (.inl nofun) (fun _ _ => rfl) h

theorem tylwStatRead_row : TylwStatReadRow := fun _ _ _ h =>
  pageRead_clears (by decide) rfl rfl rfl (by decide) (.inl nofun) (.inr (by decide)) (fun _ _ => rfl) h

theorem icStatRead_row : IcStatReadRow := fun _ _ _ h =>
  pageRead_clears (by decide) rfl rfl rfl (by decide) (.inl nofun) (.inl nofun) (fun _ _ => rfl) h

theorem domDropRead_row : DomDropReadRow := fun _ _ _ _ h =>
  pageRead_clears (by decide) rfl rfl rfl (by decide) (.inl nofun) (.inl nofun) (fun _ _ => rfl) h

theorem wakeStatRead_row : WakeStatReadRow := fun _ _ _ h =>
  pageRead_clears (by decide) rfl rfl rfl (by decide) (.inl nofun) (.inl nofun) (fun _ _ => rfl) h

/-- The longest wait of a port is what its read clears; what is buffered is counted when it is read (R314). -/
theorem dmcPstatRead_row : DmcPstatReadRow := by
  intro s m lvl i h
  obtain ⟨hreg, hrc⟩ := reg_portStat i
  have hview : ∀ q, regView s q .dmc (0x080 + 4 * i.val) = BitVec.ofNat 32
      (portLevel s i + 2 ^ 7 * (SMap.get false s.dram.panic i).toNat + 2 ^ 16 * rdF s .dmc (0x080 + 4 * i.val) 16 16) := fun q => by
    refine regView_computed (by omega) ?_
    change dmcRead s (0x080 + 4 * i.val) = _
    rw [dmcRead, if_neg (by omega), if_pos (by omega), show (0x080 + 4 * i.val - 0x080) / 4 = i.val by omega]
  have hrun := regCmd_read (env := {}) (by omega) (by omega) hreg h
  rw [readOut, show pageNow s .dmc = s from rfl,
    readEffect_clears _ _ (by rw [hrc]; decide) (.inl (by decide)) (.inl (by decide)), hrc, hview, BitVec.toNat_ofNat] at hrun
  exact hrun

theorem dtLoRead_row : DtLoReadRow := by
  intro s m lvl k h hk
  have hrun := regCmd_read (env := {}) (by decide) rfl rfl h
  have heffect : ∀ q : RegReq, q.m = m → readEffect s q .ckrs 0x048 =
      { s with fab := { s.fab with dtHi := SMap.put s.fab.dtHi k (dtP s / 2 ^ 32 % 2 ^ 32) } } := fun q hq => by
    unfold readEffect
    rw [hq, hk]
    rfl
  have hview : ∀ q : RegReq, (regView s q .ckrs 0x048).toNat = dtP s % 2 ^ 32 := fun q =>
    (BitVec.toNat_ofNat ..).trans (Nat.mod_mod ..)
  rw [readOut, show pageNow s .ckrs = s from rfl, heffect _ rfl, hview] at hrun
  exact hrun

theorem syntNsRead_row : SyntNsReadRow := by
  intro s m lvl k h hk
  have hrun := regCmd_read (env := {}) (by decide) rfl rfl h
  have heffect : ∀ q : RegReq, q.m = m → readEffect s q .tylw 0x080 =
      { s with synt := { s.synt with latch := SMap.set 0 s.synt.latch k (syntNow s / secUnits) } } := fun q hq => by
    unfold readEffect
    rw [hq]
    change syntLatch s m = _
    rw [syntLatch, hk]
  have hview : ∀ q : RegReq, (regView s q .tylw 0x080).toNat = syntNow s % secUnits / 2 ^ 32 % 2 ^ 32 := fun q => BitVec.toNat_ofNat ..
  rw [readOut, show pageNow s .tylw = s from rfl, heffect _ rfl, hview] at hrun
  exact hrun

/-! ## Reads of any register -/

theorem registerRead_row : RegisterReadRow := by
  intro s m lvl p off cls h4 h
  change regCmd m lvl (BitVec.ofNat 48 (pageAddr p + off)).toNat true none { cls := cls } s = _
  rw [toNat_registerAddr p off.isLt]
  cases hreg : regInfo p off with
  | some r => exact regCmd_read (env := { cls := cls }) off.isLt h4 (by rw [hreg]; rfl) h
  | none =>
    obtain ⟨hclk, hadm, hent, hown, hup⟩ := h
    rw [regCmd_serves (env := { cls := cls }) off.isLt h4 hclk hadm hent hown (awake_of_reached hup).1,
      serveReg_unimplemented (addr_offset p off.isLt) hreg]
    rfl

theorem busyRead_zero : BusyRead := by
  intro s m lvl p off cls h4 h40 hclk hadm hent hown hawake hbusy
  change regCmd m lvl (BitVec.ofNat 48 (pageAddr p + off)).toNat true none { cls := cls } s = _
  rw [toNat_registerAddr p off.isLt,
    regCmd_serves (env := { cls := cls }) off.isLt h4 hclk hadm hent hown (by rw [hawake, Bool.and_false]),
    serveReg_busy (addr_offset p off.isLt) rfl h40 hbusy]
  rfl

/-- An entry that has been put is found. -/
theorem find?_put {α : Type} (m : SMap α) (k : Nat) (v : α) : SMap.find? (SMap.put m k v) k = some v := by
  induction m with
  | nil => simp [SMap.put, SMap.find?]
  | cons e r ih =>
    obtain ⟨k', v'⟩ := e
    unfold SMap.put
    split
    · simp [SMap.find?]
    · split
      · simp [SMap.find?]
      · simp [SMap.find?, *]

/-- A word of 32 bits holds the low 32 bits. -/
theorem ofNat_mod_word (x : Nat) : BitVec.ofNat 32 (x % 2 ^ 32) = BitVec.ofNat 32 x := by
  apply BitVec.eq_of_toNat_eq
  simp

theorem deviceTime_latched : DeviceTimeRead := by
  intro s n lvl q
  refine ⟨ofNat_mod_word (dtP s), rfl, ?_⟩
  have hlatch : regView (readEffect s q .ckrs 0x048) (regReq s (.core n) lvl 1 (pageAddr .ckrs + 0x04C) true none) .ckrs 0x04C =
      BitVec.ofNat 32 ((SMap.find? (SMap.put s.fab.dtHi n (dtP s / 2 ^ 32 % 2 ^ 32)) n).getD (dtP s / 2 ^ 32 % 2 ^ 32)) := rfl
  rw [hlatch, find?_put]
  exact ofNat_mod_word _

theorem head_reads : HeadRead := by
  intro s m lvl e r q
  refine ⟨fun h => ?_, fun h => ?_⟩
  · have hview : ∀ off f, ferrRead s off = some ((s.fab.ferr.head?.map f).getD 0) → 0x040 ≤ off → regView s (q off) .ferr off = BitVec.ofNat 32 (f e) := 
      fun off f hf h40 => by
        rw [h] at hf
        exact regView_computed h40 hf
    refine ⟨?_, ?_, ?_⟩
    · rw [hview 0x048 (fun x => x.addr % 2 ^ 32) rfl (by decide)]
      exact ofNat_mod_word _
    · exact hview 0x054 FerrEntry.time rfl (by decide)
    · exact hview 0x050 (fun x => tagWord x.attr) rfl (by decide)
  · have hview : ∀ off f, ferrRead s off = some ((s.fab.ferr.head?.map f).getD 0) → 0x040 ≤ off → regView s (q off) .ferr off = 0 := 
      fun off f hf h40 => by
        rw [h] at hf
        exact regView_computed h40 hf
    exact ⟨hview 0x048 (fun x => x.addr % 2 ^ 32) rfl (by decide), hview 0x054 FerrEntry.time rfl (by decide),
      hview 0x050 (fun x => tagWord x.attr) rfl (by decide)⟩

/-- Settles O47: each read command by its own lemma, and REGISTER_READ for every register. -/
theorem registerReads : Obligations.RegisterReads :=
  ⟨errCntRead_row, ferrLostRead_row, dtLoRead_row, confCntRead_row, dmcPstatRead_row, dchCeRead_row, dchUeRead_row, cmConfRead_row,
    capLostRead_row, ethStatRead_row, ethRxdropRead_row, syntNsRead_row, tylwStatRead_row, icStatRead_row, domDropRead_row,
    wakeStatRead_row, registerRead_row, busyRead_zero, deviceTime_latched, head_reads⟩

end Sys2Proof.Machine
end

section
/-!
PROOFS. O49: what an accepted register write does. It fails at the core timer (R522): its clause, unlike the others, names ARMED after the
whole write, and a write can also present a priority to a napping core, whose wake event in PARK is a module reset.
-/

namespace Sys2Proof.Machine

open Sys2Proof.Claims

/-- Marionette's registers show cluster 0 asked into NAP and P1 of core 0 is presented, while the die stands in PARK. No run reaches this state
(the entry to PARK resets those registers), but the statement is for every state. -/
def parkedNap : State :=
  { mari := { asleep := 3, wmask := 1 },
    regs := [(pageAddr .mari + 0x044, 0x4002), (pageAddr (.icp 0) + 0x064, 0x31)] }

/-- A request of core 0, which the effect of the write does not depend on. -/
def parkedReq : RegReq := { m := .core 0, attr := {} }

/-- Whether core 0's time match is armed after the write. -/
def armedAfter (r : Except State State) : Option Bool := (r.map fun t => SMap.get false t.ic.armed 0).toOption

/-- The write of the high word arms the match, and the wake event's module reset disarms it. -/
theorem armedAfter_parkedNap : armedAfter (putReg parkedNap parkedReq (.icp 0) 0x054 0 {}) = some false := by decide +kernel

/-- The high word does not leave the match armed in every state. -/
theorem not_effCoreTimer : ¬ EffCoreTimer := by
  intro h
  have harm : armedAfter (putReg parkedNap parkedReq (.icp 0) 0x054 0 {}) = some true :=
    congrArg Except.toOption (h parkedNap parkedReq 0 0).1
  rw [armedAfter_parkedNap] at harm
  exact absurd harm (by decide)

/-- Refutes O49: with cluster 0 shown in NAP, a priority presented at core 0 and the die in PARK, the write that arms core 0's time match
wakes the die by a module reset, and the match is not armed. -/
theorem not_registerEffects : ¬ Obligations.RegisterEffects := by
  unfold Obligations.RegisterEffects
  rintro ⟨-, -, -, -, -, -, -, -, -, -, -, -, -, htimer, -, -, -, -, -⟩
  exact not_effCoreTimer htimer

end Sys2Proof.Machine
end

section
/-!
PROOFS. O30: Marionette's handshake, the wake events and the wake listener (R550 to R565), the device time of STANDBY (R88).
-/

namespace Sys2Proof.Machine

open Sys2Proof.Claims

/-! ## The handshake (R553 to R555) -/

/-- The asked block grants: it has stopped, and the next string is asked, or the state is entered. -/
theorem execMariGrant_granted {s t : State} {k : Nat} {env : MemEnv} {pars : List Nat} (hask : s.mari.ask = some k)
    (hgrant : mariGrant s k env pars = .ok t) :
    exec (.mariGrant env pars) s = .next (
      let next := (mariStrings (mariLast t) t.mari.wmask).find? fun j => decide (k < j)
      let u := updMari t fun m => { m with stopped := k :: m.stopped.erase k, ask := next, delayed := false }
      if next.isNone then mariEnter u else u) := by
  change execMariGrant env pars s = _
  rw [execMariGrant, hask]
  dsimp only
  rw [hgrant]

theorem mariGrant_asksNext : MariGrant := by
  intro s t k j env pars hask hgrant hnext
  rw [execMariGrant_granted hask hgrant, hnext]
  rfl

theorem mariGrantLast_enters : MariGrantLast := by
  intro s t k env pars hask hgrant hnext
  rw [execMariGrant_granted hask hgrant, hnext]
  rfl

theorem mariDelay_noted : MariDelay := by
  intro s k hask hdelay
  change execMariDelay s = _
  rw [execMariDelay, hask]
  exact congrArg Host.Outcome.next (if_pos hdelay)

theorem mariRefuse_rollsBack : MariRefuse := by
  intro s k hask hrefuse
  change execMariRefuse s = _
  rw [execMariRefuse, hask]
  exact congrArg Host.Outcome.next (if_pos hrefuse)

theorem mariSilence_rollsBack : MariSilence := by
  intro s k hask hdelay
  change execMariSilence s = _
  rw [execMariSilence, hask]
  exact congrArg Host.Outcome.next (if_neg (by simp [hdelay]))

theorem mariExceeded_rollsBack : MariExceeded := by
  intro s k hask hdelay
  change execMariDelayExceeded s = _
  rw [execMariDelayExceeded, hask]
  exact congrArg Host.Outcome.next (if_pos hdelay)

theorem mariReady_resumesNext : MariReady := by
  intro s k l hresume hk
  change execMariReady s = _
  rw [execMariReady, hresume]
  dsimp only
  rw [if_neg (by omega : ¬ k = 52), if_neg (fun h => absurd h.2.1 (by omega))]

theorem restartFail_resumesNext : RestartFail := by
  intro s k l hresume
  change execRestartFail s = _
  rw [execRestartFail, hresume]

/-- A block counts as stopped once its string is listed. -/
theorem strStopped_cons (s : State) (k : Nat) (l : List Nat) : strStopped (updMari s fun m => { m with stopped := k :: l }) k = true := by
  simp [strStopped, updMari]

theorem grantStops_clocks : GrantStops := by
  intro s w n c hw t
  have hcka : ckaStopped t w = true := by
    rw [ckaStopped, Bool.or_eq_true]
    exact .inr (strStopped_cons ..)
  refine ⟨?_, ?_, ?_, strStopped_cons ..⟩
  · rw [ckaRuns, hw, hcka]
    simp
  · simp [clockRuns, hcka]
  · simp [clockRuns, hw, hcka]

/-! ## PARK and OFF (R548, R556, R557) -/

/-- What a request of the VR link asks, and for whom. -/
def vrAsks (q : VrReq) : Nat × Nat × Nat × VrWhy := (q.typ, q.rail, q.value, q.why)

/-- The requests of the VR link: the outstanding one and those that wait. -/
def vrRequests (s : State) : List (Nat × Nat × Nat × VrWhy) := (s.pwr.vr.toList ++ s.pwr.vrq).map vrAsks

/-- Requests wait only behind an outstanding one. -/
def VrInOrder (s : State) : Prop := s.pwr.vr = none → s.pwr.vrq = []

/-- A rail request of Marionette is the link's last. -/
theorem mariRail_last {s : State} (typ rail value : Nat) (hord : VrInOrder s) :
    VrInOrder (mariRail s typ rail value) ∧ vrRequests (mariRail s typ rail value) = vrRequests s ++ [(typ, rail, value, .mari)] := by
  let t := updMari s fun m => { m with rails := m.rails ++ [rail] }
  have hpwr : t.pwr = s.pwr := rfl
  have hsend : mariRail s typ rail value = vrSend t { typ := typ, rail := rail, value := value, why := .mari } := rfl
  clear_value t
  rw [hsend]
  cases hvr : s.pwr.vr with
  | none =>
    rw [vrSend_idle _ ((congrArg Pwr.vr hpwr).trans hvr)]
    exact ⟨fun h => absurd h (by simp [vrLaunch]), by simp [vrRequests, vrLaunch, vrAsks, hpwr, hvr, hord hvr]⟩
  | some r =>
    have hvr' : t.pwr.vr = some r := (congrArg Pwr.vr hpwr).trans hvr
    rw [vrSend_busy _ hvr']
    exact ⟨fun h => absurd (hvr'.symm.trans h) (by simp), by simp [vrRequests, vrAsks, hpwr, hvr]⟩

/-- Marionette's rail requests go out in their order. -/
theorem vrRequests_mariRails {s : State} (l : List (Nat × Nat × Nat)) (hord : VrInOrder s) :
    vrRequests (mariRails s l) = vrRequests s ++ l.map fun q => (q.1, q.2.1, q.2.2, .mari) := by
  induction l generalizing s with
  | nil => simp [mariRails]
  | cons q l ih =>
    obtain ⟨hord', hlast⟩ := mariRail_last q.1 q.2.1 q.2.2 hord
    change vrRequests (mariRails (mariRail s q.1 q.2.1 q.2.2) l) = _
    rw [ih hord', hlast, List.map_cons, List.append_assoc, List.singleton_append]

/-- The entry to PARK or OFF asks for its rails. -/
theorem mariEnter_parks {s : State} (hst : 3 ≤ mariLast s) :
    ∃ u : State, u.pwr = s.pwr ∧ mariEnter s = mariRails u (parkRails.map fun r => (3, r, 0)) := by
  unfold mariEnter
  dsimp only
  rw [if_neg (by omega : ¬ mariLast s = 1), if_neg (by omega : ¬ mariLast s = 2)]
  exact ⟨updMari (setPhase s 2) fun m =>
    { m with ask := none, delayed := false, asleep := if mariLast s < 3 then mariLast s else 0, result := 1, block := 0 }, rfl, rfl⟩

theorem parkRequests_inOrder : ParkRequests := by
  intro s hst hvr hvrq t
  obtain ⟨u, hpwr, henter⟩ := mariEnter_parks hst
  have hord : VrInOrder u := fun _ => by rw [hpwr, hvrq]
  have hnone : vrRequests u = [] := by simp [vrRequests, hpwr, hvr, hvrq]
  change vrRequests (mariEnter s) = _
  rw [henter, vrRequests_mariRails _ hord, hnone, List.nil_append, List.map_map]
  rfl

/-- A module reset holds the die. -/
theorem moduleReset_die (s : State) (cause rail : Nat) (same : Bool) : (moduleReset s cause rail same).pwr.die = false :=
  latchOvf_frame (fun t => t.pwr.die) (fun _ _ _ => rfl) ..

/-- The die is off in PARK and OFF. -/
theorem parkEntry_off (s : State) (st : Nat) :
    (parkEntry s st).pwr.rail = .off ∧ (parkEntry s st).pwr.die = false ∧ (parkEntry s st).mari.asleep = st := by
  have hdie := moduleReset_die s 0 0 true
  unfold parkEntry
  generalize moduleReset s 0 0 true = r at hdie ⊢
  dsimp only
  split <;> exact ⟨rfl, hdie, rfl⟩

theorem parkEnds_off : ParkEnds := by
  intro s q ok n hrails hphase hst u r
  obtain ⟨hrail, hdie, hasleep⟩ := parkEntry_off u (mariLast s)
  have hnone : ¬ u.mari.rails ≠ [] := fun h => h (by simp [u, updMari, hrails])
  have hend : mariVr s q ok n = parkEnd u := (if_pos hphase).trans ((if_neg hnone).trans (if_pos hst))
  refine ⟨hrail, hdie, hasleep, fun hlatch => ?_, fun hlatch => ?_⟩
  · rw [hend]
    refine if_neg ?_
    change ¬ s.mari.latch.isSome = true
    simp [hlatch]
  · rw [hend]
    refine (if_pos (Option.isSome_iff_ne_none.mpr hlatch)).trans ?_
    change wrF (moduleReset r 9 0 false) .wake 0x044 0 3 r.mari.asleep = _
    rw [hasleep]

/-! ## Wake events (R550, R560) -/

theorem aonTimer_wakes : AonTimer := by
  intro s cycles same hadmit hphase hrails htimer hen
  exact congrArg Host.Outcome.next (if_pos ⟨hadmit, hphase, hrails, htimer, hen⟩)

theorem portEdge_wakes : PortEdge := by
  intro s b fall cycles same hadmit hen hrail hfall
  exact congrArg Host.Outcome.next (if_pos ⟨hadmit, hen, hrail, hfall⟩)

theorem wakeAdmitted_notInPark : WakeAdmitted := by
  intro s b fall cycles same hst
  have hno : wakeAdmits s = false := by
    have hst' : decide (mariLast s < 3) = false := decide_eq_false (by omega)
    rw [wakeAdmits, hst', Bool.and_false]
  have hno' : ¬ wakeAdmits s = true := by simp [hno]
  refine ⟨hno, congrArg Host.Outcome.next (if_neg fun h => hno' h.1), congrArg Host.Outcome.next ?_⟩
  exact (if_neg fun h => hno' h.1).trans (if_neg fun h => hno' h.1)

/-! ## The wake listener (R561) -/

theorem listenerStart_listens : ListenerStart := by
  intro s hon
  exact ⟨congrArg Host.Outcome.next (if_neg (by simp [hon])), congrArg Host.Outcome.next (if_neg (by simp [hon]))⟩

theorem listenerAddress_compared : ListenerAddress := fun _ _ hon hstage => congrArg Host.Outcome.next (if_neg (by simp [hon, hstage]))

/-- The command byte 0x5A after the address. -/
theorem execWakeCmd_commanded {s : State} (cycles : Nat) (same : Bool) (hon : s.pwr.vaon = true) (hstage : s.wakeL.stage = 2) :
    exec (.wakeCmd cycles same) s = .next (
      let t := updWake s 3 true
      if t.mari.asleep < 3 ∧ !rdB t .mari 0x044 0 then bumpF t .wake 0x044 8 8 1 else wakeEvent t 1 cycles same) := by
  refine congrArg Host.Outcome.next ?_
  rw [if_neg (by simp [hon]), if_neg (by simp [hstage])]

theorem wakeCmd_countsOrWakes : WakeCmd := by
  intro s cycles same hon hstage
  rw [execWakeCmd_commanded cycles same hon hstage]
  have hcount : ((updWake s 3 true).mari.asleep < 3 ∧ (!rdB (updWake s 3 true) .mari 0x044 0) = true) ↔
      (s.mari.asleep < 3 ∧ rdB s .mari 0x044 0 = false) := by
    rw [Bool.not_eq_true']
    exact Iff.rfl
  refine ⟨fun hasleep hreq => ?_, fun hwake => ?_⟩
  · exact congrArg Host.Outcome.next (if_pos (hcount.mpr ⟨hasleep, hreq⟩))
  · refine congrArg Host.Outcome.next (if_neg fun h => ?_)
    obtain ⟨hasleep, hreq⟩ := hcount.mp h
    rcases hwake with h | h
    · omega
    · exact absurd (hreq.symm.trans h) (by decide)

theorem pingByte_answered : PingByte := by
  intro s b hon hstage hwake hping
  refine ⟨congrArg Host.Outcome.next ?_, congrArg Host.Outcome.next ?_⟩
  · rw [if_neg (by simp [hon]), if_pos hstage]
  · have hbyte : ¬ ((!s.pwr.vaon) = true ∨ s.wakeL.stage = 2 ∧ (b = 0x5A ∨ b = 0xA5)) := by
      rintro (h | ⟨-, h | h⟩)
      · simp [hon] at h
      · exact hwake h
      · exact hping h
    exact (if_neg hbyte).trans (if_pos (.inl hstage))

theorem sclLow_startsOver : SclLow := fun _ hon => congrArg Host.Outcome.next (if_pos hon)

/-! ## Device time after STANDBY (R88) -/

/-- Device time and the advances that are part of it. -/
def timeOf (s : State) : Nat × Nat := (s.dt, s.dtOff)

theorem timeOf_flushYoyo (s : State) (k due : Nat) (y : Yoyo) : timeOf (flushYoyo s k due y) = timeOf s := countAt_frame timeOf (fun _ _ _ _ => rfl) ..

theorem timeOf_flushFifo (s : State) (k due : Nat) (f : Xfifo) : timeOf (flushFifo s k due f) = timeOf s := countAt_frame timeOf (fun _ _ _ _ => rfl) ..

theorem timeOf_flushSlots (s : State) (l : List (Nat × Nat)) : timeOf (flushSlots s l) = timeOf s := by
  obtain ⟨t, w, heq, hkeep⟩ := flushSlots_notes s l
  rw [heq]
  exact congrArg Prod.snd hkeep

theorem timeOf_restartCrossings (s : State) : timeOf (restartCrossings s) = timeOf s := by
  refine (foldl_frame timeOf _ (fun t e => ?_) _ _).trans (foldl_frame timeOf _ (fun t e => ?_) _ _)
  · split
    · exact timeOf_flushFifo ..
    · rfl
  · split
    · exact timeOf_flushYoyo ..
    · rfl

/-- CK_E restarts: both have gone on by the cycles for which it stood. -/
theorem timeOf_standbyEnd (s : State) :
    timeOf (standbyEnd s) = (s.dt + s.mari.cycles * 16000 / 9, s.dtOff + s.mari.cycles * 16000 / 9) := by
  have hflush := timeOf_flushSlots s railSlots
  simp only [timeOf, Prod.mk.injEq] at hflush
  obtain ⟨hdt, hoff⟩ := hflush
  unfold standbyEnd
  dsimp only
  rw [timeOf_restartCrossings]
  change ((flushSlots s railSlots).dt + s.mari.cycles * 16000 / 9, (flushSlots s railSlots).dtOff + s.mari.cycles * 16000 / 9) = _
  rw [hdt, hoff]

theorem standbyAdvances_everyCopy : StandbyAdvances := by
  intro s n
  have htime := timeOf_standbyEnd s
  simp only [timeOf, Prod.mk.injEq] at htime
  obtain ⟨hdt, hoff⟩ := htime
  have hrun : s.dt + n * 16000 / 9 - (s.dtOff + n * 16000 / 9) = s.dt - s.dtOff := Nat.add_sub_add_right ..
  refine ⟨hdt, ?_, ?_⟩
  · rw [dtF, dtF, runTick, runTick, hdt, hoff, hrun, Nat.add_assoc]
  · rw [dtP, dtP, dtPOf, dtPOf, hdt, hoff, hrun]
    exact (Nat.add_assoc ..).symm

/-- Settles O30: each command of Marionette, of the wake events and of the listener, and the end of STANDBY, by its own lemma. -/
theorem marionetteCommands : Obligations.MarionetteCommands :=
  ⟨mariGrant_asksNext, mariGrantLast_enters, grantStops_clocks, parkRequests_inOrder, parkEnds_off, mariDelay_noted, mariRefuse_rollsBack,
    mariSilence_rollsBack, mariExceeded_rollsBack, mariReady_resumesNext, restartFail_resumesNext, aonTimer_wakes, portEdge_wakes,
    wakeAdmitted_notInPark, listenerStart_listens, listenerAddress_compared, wakeCmd_countsOrWakes, pingByte_answered, sclLow_startsOver,
    standbyAdvances_everyCopy⟩

end Sys2Proof.Machine
end

section
/-!
PROOFS. O32: Sage's start, the straps, the choice of an image and handover, retry and tamper (R85, R100, R102, R126 to R161).
-/

namespace Sys2Proof.Machine

open Sys2Proof.Claims

/-! ## The start of Sage (R100, R102, R126 to R128, R150) -/

/-- The die leaves reset: which halt, or the steps of R126. -/
theorem execDieResetRelease_released {s : State} (straps : List (Fin 8)) (us low : Nat) (defect : Bool) (hdie : s.pwr.die = false)
    (hvaon : s.pwr.vaon = true) (hrail : s.pwr.rail = .up ∨ s.pwr.rail = .starting) (hporst : s.pwr.porst = true)
    (href : s.pwr.refOk = true) (htrip : s.pwr.trip = false) (hback : s.pwr.back = 0) :
    exec (.dieResetRelease straps us low defect) s = .next (
      let u := sageBegin s (strapRead straps).1 (strapRead straps).2 low
      if (strapRead straps).1 = 3 then sageHalt (notZeroed u) 0xE
      else if defect ∨ fuseMismatch u then sageHalt (notZeroed u) 0xC
      else sageOpen (readFuses u) us) :=
  congrArg Host.Outcome.next (if_neg (by simp [hdie, hvaon, hrail, hporst, href, htrip, hback]))

theorem dieReset_opens : DieReset := by
  intro s straps us low hdie hvaon hrail hporst href htrip hback hstrap u hfuse
  rw [execDieResetRelease_released straps us low false hdie hvaon hrail hporst href htrip hback]
  exact congrArg Host.Outcome.next ((if_neg hstrap).trans (if_neg (by simp [u, hfuse])))

theorem dieResetHalt_halts : DieResetHalt := by
  intro s straps us low hdie hvaon hrail hporst href htrip hback u
  refine ⟨fun hstrap => ?_, fun hstrap => ?_⟩
  · rw [execDieResetRelease_released straps us low false hdie hvaon hrail hporst href htrip hback]
    exact congrArg Host.Outcome.next (if_pos hstrap)
  · rw [execDieResetRelease_released straps us low true hdie hvaon hrail hporst href htrip hback]
    exact congrArg Host.Outcome.next ((if_neg hstrap).trans (if_pos (.inl rfl)))

/-! ## The straps (R127) -/

/-- A set of samples of strap `i` that agrees. -/
def strapAgrees (i : Nat) (l : List (Fin 8)) : Prop :=
  (l.map fun v => bitN v.val i).all id = true ∨ (l.map fun v => bitN v.val i).all not = true

/-- A set that agrees gives the strap. -/
theorem strapPick_agrees {i : Nat} (k : Nat) {l : List (Fin 8)} (rest : List (Fin 8)) (hlen : l.length = 8) (hset : strapAgrees i l) :
    strapPick i (k + 1) (l ++ rest) = (l.map fun v => bitN v.val i).head? := by
  have htake : (l ++ rest).take 8 = l := List.take_left' hlen
  rw [strapPick, htake]
  exact if_pos ⟨by rw [List.length_map, hlen], hset⟩

/-- One that does not is followed by the next. -/
theorem strapPick_disagrees {i : Nat} (k : Nat) {l : List (Fin 8)} (rest : List (Fin 8)) (hlen : l.length = 8) (hset : ¬ strapAgrees i l) :
    strapPick i (k + 1) (l ++ rest) = strapPick i k rest := by
  have htake : (l ++ rest).take 8 = l := List.take_left' hlen
  have hdrop : (l ++ rest).drop 8 = rest := List.drop_left' hlen
  rw [strapPick, htake, hdrop]
  exact if_neg fun h => hset h.2

theorem strapPick_replicate (i k : Nat) (v : Fin 8) (rest : List (Fin 8)) :
    strapPick i (k + 1) (List.replicate 8 v ++ rest) = some (bitN v.val i) := by
  rw [strapPick_agrees k rest (List.length_replicate ..)]
  · rfl
  · cases hv : bitN v.val i
    · exact .inr (by simp [hv])
    · exact .inl (by simp [hv])

/-- Samples that differ do not agree. -/
theorem not_strapAgrees {i : Nat} {l : List (Fin 8)} (htrue : ∃ x ∈ l, bitN x.val i = true) (hfalse : ∃ x ∈ l, bitN x.val i = false) :
    ¬ strapAgrees i l := by
  obtain ⟨x, hx, hxi⟩ := htrue
  obtain ⟨y, hy, hyi⟩ := hfalse
  rintro (h | h)
  · rw [List.all_eq_true] at h
    exact absurd ((h _ (List.mem_map_of_mem hy)).symm.trans hyi) (by decide)
  · rw [List.all_eq_true] at h
    have hnot : (!bitN x.val i) = true := h _ (List.mem_map_of_mem hx)
    rw [hxi] at hnot
    exact absurd hnot (by decide)

/-- Two straps make BOOTIF. -/
theorem bootif_ofStraps (v : Fin 8) : (bitN v.val 0).toNat + 2 * (bitN v.val 1).toNat = v.val % 4 := by
  revert v
  decide

theorem straps_settle : StrapsSettle := by
  refine ⟨fun v rest => ?_, fun i k l rest hlen htrue hfalse => ?_, fun _ _ => rfl, fun l hnone => ?_⟩
  · simp only [strapRead, strapPick_replicate, bootif_ofStraps]
  · exact strapPick_disagrees k rest hlen (not_strapAgrees htrue hfalse)
  · unfold strapRead
    split
    next h0 h1 h2 => simp [h0, h1, h2] at hnone
    next => rfl

/-! ## RSTOUT_N (R100) -/

/-- A module reset ends the count of RSTOUT_N. -/
theorem moduleReset_rstAt (s : State) (cause rail : Nat) (same : Bool) : (moduleReset s cause rail same).pwr.rstAt = none :=
  latchOvf_frame (fun t => t.pwr.rstAt) (fun _ _ _ => rfl) ..

theorem rstoutN_none {s : State} (h : s.pwr.rstAt = none) : rstoutN s = false := by rw [rstoutN, h]

theorem rstoutN_follows : RstoutN := by
  intro s cause rail bootif low d same retry
  refine ⟨rstoutN_none (moduleReset_rstAt ..), rstoutN_none, ?_⟩
  rw [rstoutN, advanceTo_pwr, advanceTo_dt]
  change (true && decide ((100 - low) * 16000 / 9 ≤ max 0 d)) = _
  rw [Bool.true_and, Nat.zero_max]

/-! ## The push interface opens (R126, R128, R155) -/

/-- The copy of the calibration leaves Sage. -/
theorem calCopy_sage (s : State) (us : Nat) : (calCopy s us).sage = s.sage := by
  unfold calCopy
  dsimp only
  refine (foldl_frame State.sage _ (fun t i => ?_) _ _).trans rfl
  split
  · rfl
  · split
    · exact recordErr_sage ..
    · split
      · exact recordErr_sage ..
      · exact recordErr_sage ..

theorem claimLanes_sage (s : State) (p : Page) : (claimLanes s p).sage = s.sage := by
  unfold claimLanes
  split
  · rfl
  · exact foldl_frame State.sage _ (fun t l => wr_sage t (lnPage l) 0x044 _) _ _

/-- A link is waited for. -/
theorem bootLink_sage {s : State} (h : s.sage.bootif = 1 ∨ s.sage.bootif = 2) : (bootLink s).sage = s.sage := by
  unfold bootLink
  rcases h with h | h
  · rw [if_pos h]
    exact claimLanes_sage ..
  · rw [if_neg (by omega), if_pos h]
    exact claimLanes_sage ..

/-- The boot port is ready at once. -/
theorem bootLink_port {s : State} (h : s.sage.bootif = 0) : bootLink s = updSage s fun g => { g with rdy := true } := by
  rw [bootLink, if_neg (by omega), if_neg (by omega)]

/-- The push interface is not waited for in any other way. -/
theorem bootLink_wiping (s : State) : (bootLink s).sage.wiping = s.sage.wiping := by
  unfold bootLink
  split
  · exact congrArg Sage.wiping (claimLanes_sage ..)
  · split
    · exact congrArg Sage.wiping (claimLanes_sage ..)
    · rfl

/-- Sage after the steps 3 and 4 of R126. -/
theorem sage_beforeLink (s : State) (us : Nat) :
    (calCopy (zeroSlots (wipeSecure s)) us).sage = { s.sage with wiping := true } := calCopy_sage ..

theorem sageOpen_scrapped {s : State} (us : Nat) (h : lcState s.sage.shadow.lc = 4) :
    sageOpen s us = sageHalt (zeroSlots (wipeSecure s)) 0xD := if_pos h

theorem sageOpen_alive {s : State} (us : Nat) (h : lcState s.sage.shadow.lc ≠ 4) :
    sageOpen s us = bootLink (calCopy (zeroSlots (wipeSecure s)) us) := if_neg h

theorem openReady_byInterface : OpenReady := by
  intro s us t
  have hsage := sage_beforeLink s us
  refine ⟨?_, fun hlc => ?_, fun hlc hif => ?_, fun hlc hif => ?_, fun u hphase happ => ?_⟩
  · by_cases hlc : lcState s.sage.shadow.lc = 4
    · simp only [t, sageOpen_scrapped us hlc]
      rfl
    · simp only [t, sageOpen_alive us hlc, bootLink_wiping, hsage]
  · simp only [t, sageOpen_scrapped us hlc]
    exact ⟨rfl, rfl, rfl⟩
  · have hif' : (calCopy (zeroSlots (wipeSecure s)) us).sage.bootif = 0 := by rw [hsage]; exact hif
    simp only [t, sageOpen_alive us hlc, bootLink_port hif']
    rfl
  · have hif' : (calCopy (zeroSlots (wipeSecure s)) us).sage.bootif = 1 ∨ (calCopy (zeroSlots (wipeSecure s)) us).sage.bootif = 2 := by
      rw [hsage]; exact hif
    simp only [t, sageOpen_alive us hlc, bootLink_sage hif', hsage]
  · rw [bootReady, if_pos ⟨hphase, rfl, by simp [happ]⟩]

/-! ## The choice of an image (R139, R142, R145 to R147) -/

theorem imageChoice_hands : ImageChoice := by
  intro s us hphase ra rb u tie
  refine congrArg Host.Outcome.next ((if_neg (fun h => h hphase)).trans ?_)
  dsimp only
  cases chooseSlot s ra rb with
  | none => rfl
  | some b =>
    dsimp only
    split <;> rfl

/-- The reason code of the checks that follow those of the signatures. -/
def imgLater (s : State) (b : Bool) : Nat :=
  if imgF s b 0x00C 4 < secverMin s.sage.shadow then 0x8
  else if imgFlag s b 0 ∧ (lcState s.sage.shadow.lc = 3 ∨ (imgDecrypt s b).isNone) then 0x9
  else if imgFlag s b 1 ∧ !lcRecordOk s b then 0xA
  else 0

theorem imgLater_ne_signature (s : State) (b : Bool) : imgLater s b ≠ 0x7 := by
  unfold imgLater
  split
  · decide
  · split
    · decide
    · split <;> decide

theorem bothSignatures_checked : BothSignatures := by
  intro s b hmagic hformat htest hslot hrev hkey m
  have hreason : imgReason s b = if !(ecdsaOk (imgBytes s b 0x100 96) (imgBytes s b 0x160 96) m &&
      mldsaOk (imgBytes s b 0x200 1952) (imgBytes s b 0xA00 3309) (beBytes 48 m)) then 0x7 else imgLater s b := by
    have hprog : ¬ (imgF s b 0x010 1 < 4 ∧ (lcState s.sage.shadow.lc = 0 ∨ (!bitN s.sage.shadow.prog (imgF s b 0x010 1)) = true)) := by
      rintro ⟨hk, h | h⟩
      · exact (hslot hk).1 h
      · simp [(hslot hk).2] at h
    unfold imgReason
    dsimp only
    rw [if_neg (fun h => h hmagic), if_neg (by simp [hformat]), if_neg (fun h => h.2 (htest h.1)), if_neg hprog, if_neg (by simp [hrev]),
      if_neg (fun h => h hkey)]
    rfl
  rw [hreason, ← Bool.and_eq_true, Bool.not_eq_true, ← Bool.not_eq_true']
  split
  next hbad => exact ⟨fun _ => hbad, fun _ => rfl⟩
  next hok => exact ⟨fun h => absurd h (imgLater_ne_signature s b), fun h => absurd h hok⟩

theorem slotChoice_byVersion : SlotChoice := by
  intro s ra rb
  refine ⟨fun ha hb => ?_, fun ha hb => ?_, fun ha hb => ?_, fun hlt => ?_, fun hle => ?_⟩
  · rw [chooseSlot, if_neg (fun h => hb h.2), if_pos ha]
  · rw [chooseSlot, if_neg (fun h => ha h.1), if_neg ha, if_pos hb]
  · rw [chooseSlot, if_neg (fun h => ha h.1), if_neg ha, if_neg hb]
  · rw [chooseSlot, if_pos ⟨rfl, rfl⟩, decide_eq_true hlt]
  · rw [chooseSlot, if_pos ⟨rfl, rfl⟩, decide_eq_false (Nat.not_lt.mpr hle)]

/-! ## Bytes of on-chip SRAM that a write is apart from -/

namespace SMap

/-- A key whose entries all stay reads as before. -/
theorem getF_filterMap_kept {α : Type} (d : Nat → α) (m : SMap α) (f : Nat × α → Option (Nat × α)) {j : Nat}
    (hkey : ∀ e e', f e = some e' → e'.1 = e.1) (hkeep : ∀ v, f (j, v) = some (j, v)) : getF d (m.filterMap f) j = getF d m j := by
  induction m with
  | nil => rfl
  | cons e r ih =>
    obtain ⟨k, v⟩ := e
    by_cases hk : j = k
    · subst hk
      rw [List.filterMap_cons_some (hkeep v), getF, getF, if_pos rfl, if_pos rfl]
    · cases hf : f (k, v) with
      | none => rw [List.filterMap_cons_none hf, ih, getF, if_neg hk]
      | some e' =>
        obtain ⟨k', v'⟩ := e'
        have hk' : k' = k := hkey _ _ hf
        rw [List.filterMap_cons_some hf, getF, getF, if_neg (by omega), if_neg hk, ih]

/-- A key that is not dropped reads as before. -/
theorem getF_drop_kept {α : Type} (d : Nat → α) (m : SMap α) (p : Nat → Bool) {j : Nat} (hj : p j = false) :
    getF d (drop m p) j = getF d m j := by
  rw [drop, ← List.filterMap_eq_filter]
  refine getF_filterMap_kept d m _ (fun e e' h => ?_) (fun v => ?_)
  · rw [Option.guard_eq_some_iff] at h
    exact congrArg Prod.fst h.1.symm
  · simp [Option.guard, hj]

end SMap

/-- A byte of on-chip SRAM is found in its memory, and in what its bank reads as unwritten. -/
theorem sramByte_congr {s t : State} {x : Nat} (hmem : SMap.get none t.sram.mem x = SMap.get none s.sram.mem x)
    (hzero : bankZeroed t (bankAt x) = bankZeroed s (bankAt x)) (hepoch : t.epoch = s.epoch) : sramByte t x = sramByte s x := by
  rw [sramByte, sramByte, hmem, hzero, hepoch]

theorem sramByte_setSramByte_other (s : State) {a x : Nat} (b : Byte) (hx : x ≠ a) : sramByte (setSramByte s a b) x = sramByte s x :=
  sramByte_congr (SMap.get_set_other _ _ _ hx) rfl rfl

/-- A write leaves the bytes below it. -/
theorem sramByte_setSramBytes_below (s : State) {a x : Nat} (n mask data : Nat) (hx : x < a) :
    sramByte (setSramBytes s a n mask data) x = sramByte s x := by
  refine foldl_frame (fun t => sramByte t x) _ (fun t i => ?_) _ _
  dsimp only
  split
  · rfl
  · exact sramByte_setSramByte_other _ _ (by omega)

/-- A write changes bytes one by one. -/
theorem setSramBytes_frame {α : Type} (f : State → α) (hbyte : ∀ s a b, f (setSramByte s a b) = f s) (s : State) (a n mask data : Nat) :
    f (setSramBytes s a n mask data) = f s := by
  refine foldl_frame f _ (fun t i => ?_) _ _
  dsimp only
  split
  · rfl
  · exact hbyte ..

theorem sramByte_zeroBytes_below (s : State) {a x : Nat} (n : Nat) (hx : x < a) : sramByte (zeroBytes s a n) x = sramByte s x := by
  refine sramByte_congr (SMap.getF_filterMap_kept _ _ _ (fun e e' h => ?_) (fun v => if_neg (by omega))) rfl rfl
  split at h
  · split at h
    · cases h
    · cases h
      rfl
  · cases h
    rfl

/-- The banks outside a range keep what they read as unwritten. -/
theorem bankZeroed_zeroBanks_other (s : State) {lo hi b : Nat} (hb : ¬ (lo ≤ b ∧ b < hi)) : bankZeroed (zeroBanks s lo hi) b = bankZeroed s b := by
  have hfold : ∀ (l : List Nat) (m : SMap Bool), SMap.getF zeroedAtReset
      (l.foldl (fun m c => if decide (lo ≤ c) && decide (c < hi) then SMap.setF zeroedAtReset m c true else m) m) b = SMap.getF zeroedAtReset m b := by
    intro l
    induction l with
    | nil => exact fun _ => rfl
    | cons c l ih =>
      intro m
      rw [List.foldl_cons, ih]
      split
      next hc =>
        simp only [Bool.and_eq_true, decide_eq_true_eq] at hc
        exact SMap.getF_setF_other _ _ _ (fun h => hb (h ▸ hc))
      next => rfl
  exact hfold ..

theorem zeroBanks_mem (s : State) (lo hi : Nat) :
    (zeroBanks s lo hi).sram.mem = SMap.drop s.sram.mem fun a => decide (lo ≤ bankAt a) && decide (bankAt a < hi) := rfl

theorem sramByte_zeroBanks_other (s : State) {lo hi x : Nat} (hx : ¬ (lo ≤ bankAt x ∧ bankAt x < hi)) :
    sramByte (zeroBanks s lo hi) x = sramByte s x := by
  have hkept : (decide (lo ≤ bankAt x) && decide (bankAt x < hi)) = false := by
    rwa [← Bool.not_eq_true, Bool.and_eq_true, decide_eq_true_eq, decide_eq_true_eq]
  refine sramByte_congr ?_ (bankZeroed_zeroBanks_other s hx) rfl
  rw [SMap.get, SMap.get, zeroBanks_mem]
  exact SMap.getF_drop_kept _ _ _ hkept

theorem slotBase_slotA : slotBase false = 0x1000000 := rfl

theorem slotBase_slotB : slotBase true = 0x1400000 := rfl

/-- The zeroing of one slot leaves the other. -/
theorem sramByte_zeroSlot_other (s : State) (b : Bool) {i : Nat} (hi : i < 0x400000) :
    sramByte (zeroSlot s (!b)) (slotBase b + i) = sramByte s (slotBase b + i) := by
  cases b
  · exact sramByte_zeroBanks_other s (by rw [bankAt, slotBase_slotA, sramBase]; omega)
  · exact sramByte_zeroBanks_other s (by rw [bankAt, slotBase_slotB, sramBase]; omega)

/-! ## Handover (R85, R102, R159) -/

theorem zeroBytes_pwr (s : State) (a n : Nat) : (zeroBytes s a n).pwr = s.pwr := rfl

theorem zeroBytes_mari (s : State) (a n : Nat) : (zeroBytes s a n).mari = s.mari := rfl

/-- What the reset of an engine leaves: on-chip SRAM, the supply, Marionette and the cores. -/
def outsideEngines (s : State) : Sram × Nat × Pwr × Mari × SMap CoreRec := (s.sram, s.epoch, s.pwr, s.mari, s.cores)

theorem outsideEngines_recordErr (s : State) (p : Page) (code cls : Nat) (a : Attr) (detail did : Nat) :
    outsideEngines (recordErr s p code cls a detail did) = outsideEngines s := by
  simp only [outsideEngines, recordErr_sram, recordErr_epoch, recordErr_pwr, recordErr_mari, recordErr_cores]

theorem outsideEngines_cmFinding (s : State) (k : Fin 32) (c : Nat) (ecc : Fin 3) : outsideEngines (cmFinding s k c ecc) = outsideEngines s := by
  unfold cmFinding
  split
  · exact outsideEngines_recordErr ..
  · split
    · exact outsideEngines_recordErr ..
    · rfl

theorem outsideEngines_cmAccess (s : State) (e : Fin 512) (t : Fin 4) (x : CmAcc) (ecc : Fin 3) :
    outsideEngines (cmAccess s e t x ecc) = outsideEngines s := by
  unfold cmAccess
  dsimp only
  split
  · split
    · exact outsideEngines_recordErr ..
    · exact outsideEngines_recordErr ..
  · split
    · rfl
    · exact outsideEngines_cmFinding ..

theorem outsideEngines_resetEngine (s : State) (e : Fin 512) : outsideEngines (resetEngine s e) = outsideEngines s :=
  foldl_frame outsideEngines _ (fun _ _ => outsideEngines_cmAccess ..) _ _

/-- The state as handover starts core 0: the other slot is zeroed, the SCU's part has been moved to the secure part, and LCYC is filled. -/
def handoverMoved (s : State) (b : Bool) (regA regB : Nat) (tie : Bool) (us : Nat) : State :=
  let s := zeroSlot s (!b)
  let so := 0x2000 + imgF s b 0x020 4
  let sl := imgF s b 0x024 4
  fillLcyc (zeroBytes (setSramBytes s 0x1E00000 sl (2 ^ (8 * sl) - 1) (sramBytes s (slotBase b + so) sl)) (slotBase b + so) sl) b regA regB tie us

/-- The entry of core 0. -/
def handoverEntry (s : State) (b : Bool) : Nat :=
  slotBase b + 0x2000 + imgF (zeroSlot s (!b)) b 0x02C 4 + imgF (zeroSlot s (!b)) b 0x034 4

/-- Core 0 has started, and the engines have left reset. -/
def handoverStarted (s : State) (b : Bool) (regA regB : Nat) (tie : Bool) (us : Nat) : State :=
  let u := startCore (handoverMoved s b regA regB tie us) 0 (handoverEntry s b)
  (u.engines.map Prod.fst).foldl (fun s e => resetEngine s (Fin.ofNat 512 e)) u

theorem handover_eq (s : State) (b : Bool) (regA regB : Nat) (tie : Bool) (us : Nat) :
    handover s b regA regB tie us = updSage (handoverStarted s b regA regB tie us) fun g =>
      { g with phase := .done, err := 3, wiping := false, scuEntry := some (0x1E00000 + imgF (handoverStarted s b regA regB tie us) b 0x028 4) } := rfl

theorem outsideEngines_handoverStarted (s : State) (b : Bool) (regA regB : Nat) (tie : Bool) (us : Nat) :
    outsideEngines (handoverStarted s b regA regB tie us) =
      outsideEngines (startCore (handoverMoved s b regA regB tie us) 0 (handoverEntry s b)) :=
  foldl_frame outsideEngines _ (fun _ _ => outsideEngines_resetEngine ..) _ _

theorem fillLcyc_frame {α : Type} (f : State → α) (hw : ∀ s o v, f (wr s .lcyc o v) = f s) (s : State) (b : Bool) (regA regB : Nat)
    (tie : Bool) (us : Nat) : f (fillLcyc s b regA regB tie us) = f s := by
  unfold fillLcyc
  simp only [hw]

/-- The move leaves the supply and Marionette. -/
theorem handoverMoved_clocks (s : State) (b : Bool) (regA regB : Nat) (tie : Bool) (us : Nat) :
    (handoverMoved s b regA regB tie us).pwr = s.pwr ∧ (handoverMoved s b regA regB tie us).mari = s.mari := by
  have hslot : ∀ c, (zeroSlot s c).pwr = s.pwr ∧ (zeroSlot s c).mari = s.mari := fun c => by cases c <;> exact ⟨rfl, rfl⟩
  unfold handoverMoved
  dsimp only
  rw [fillLcyc_frame State.pwr (fun _ _ _ => rfl), fillLcyc_frame State.mari (fun _ _ _ => rfl), zeroBytes_pwr, zeroBytes_mari,
    setSramBytes_frame State.pwr (fun _ _ _ => rfl), setSramBytes_frame State.mari (fun _ _ _ => rfl), (hslot _).1, (hslot _).2]
  exact ⟨rfl, rfl⟩

/-- The header of the chosen slot stays. -/
theorem sramByte_handoverMoved (s : State) (b : Bool) (regA regB : Nat) (tie : Bool) (us : Nat) {i : Nat} (hi : i < 0x2000) :
    sramByte (handoverMoved s b regA regB tie us) (slotBase b + i) = sramByte s (slotBase b + i) := by
  have hbase : slotBase b + i < 0x1E00000 := by
    cases b
    · rw [slotBase_slotA]; omega
    · rw [slotBase_slotB]; omega
  unfold handoverMoved
  dsimp only
  rw [fillLcyc_frame (fun t => sramByte t (slotBase b + i)) (fun _ _ _ => rfl), sramByte_zeroBytes_below _ _ (by omega),
    sramByte_setSramBytes_below _ _ _ _ hbase, sramByte_zeroSlot_other s b (by omega)]

theorem imgF_congr {s t : State} {b : Bool} {o n : Nat} (h : ∀ i < n, sramByte t (slotBase b + (o + i)) = sramByte s (slotBase b + (o + i))) :
    imgF t b o n = imgF s b o n := by
  refine congrArg ofBytes (List.map_congr_left fun i hi => ?_)
  rw [Nat.add_assoc]
  exact h i (List.mem_range.mp hi)

/-- A core's record as it starts (R159). -/
def startedCore (c : CoreRec) (entry : Nat) : CoreRec := { freshCore c with run := .running, pc := BitVec.ofNat 64 entry }

/-- A core starts at level F. -/
theorem startedCore_level (c : CoreRec) (entry : Nat) : fld (SMap.getF sysReset (startedCore c entry).sys 0x400) 0 2 = 3 := by
  change fld (sysReset 0x400) 0 2 = 3
  decide

theorem startCore_core (s : State) (n : Fin 24) (entry : Nat) : Machine.core (startCore s n entry) n = startedCore (Machine.core s n) entry :=
  SMap.get_upd ({} : CoreRec) s.cores n.val (startedCore · entry)

theorem startCore_memory (s : State) (n : Fin 24) (entry : Nat) :
    (startCore s n entry).sram = s.sram ∧ (startCore s n entry).epoch = s.epoch := ⟨rfl, rfl⟩

theorem startCore_clocksOn (s : State) (n : Fin 24) (entry : Nat) : clocksOn (startCore s n entry) = clocksOn s := rfl

/-- The CK_A of its cluster runs. -/
theorem startCore_ckA (s : State) (n : Fin 24) (entry : Nat) : n.val / 8 ∈ (startCore s n entry).pwr.ckA := by
  change n.val / 8 ∈ if s.pwr.ckA.contains (n.val / 8) then _ else _
  split
  next h => exact List.contains_iff_mem.mp h
  next => exact List.mem_cons_self ..

/-- The header of the chosen slot stays over handover. -/
theorem sramByte_handoverStarted (s : State) (b : Bool) (regA regB : Nat) (tie : Bool) (us : Nat) {i : Nat} (hi : i < 0x2000) :
    sramByte (handoverStarted s b regA regB tie us) (slotBase b + i) = sramByte s (slotBase b + i) := by
  have hout := outsideEngines_handoverStarted s b regA regB tie us
  simp only [outsideEngines, Prod.mk.injEq] at hout
  obtain ⟨hsram, hepoch, -⟩ := hout
  obtain ⟨hsram', hepoch'⟩ := startCore_memory (handoverMoved s b regA regB tie us) 0 (handoverEntry s b)
  rw [← sramByte_handoverMoved s b regA regB tie us hi]
  generalize handoverMoved s b regA regB tie us = v at *
  rw [hsram'] at hsram
  exact sramByte_congr (by rw [hsram]) (by rw [bankZeroed, bankZeroed, hsram]) (hepoch.trans hepoch')

/-- Core 0 runs from the entry of its image. -/
theorem core_handoverStarted (s : State) (b : Bool) (regA regB : Nat) (tie : Bool) (us : Nat) :
    Machine.core (handoverStarted s b regA regB tie us) 0 = startedCore (Machine.core (handoverMoved s b regA regB tie us) 0) (handoverEntry s b) := by
  have hout := outsideEngines_handoverStarted s b regA regB tie us
  simp only [outsideEngines, Prod.mk.injEq] at hout
  obtain ⟨-, -, -, -, hcores⟩ := hout
  rw [← startCore_core, Machine.core, Machine.core, hcores]

/-- Handover changes nothing of the clocks but the CK_A of the first cluster, which runs. -/
theorem clocks_handoverStarted (s : State) (b : Bool) (regA regB : Nat) (tie : Bool) (us : Nat) :
    clocksOn (handoverStarted s b regA regB tie us) = clocksOn s ∧ 0 ∈ (handoverStarted s b regA regB tie us).pwr.ckA := by
  have hout := outsideEngines_handoverStarted s b regA regB tie us
  obtain ⟨hpwr, hmari⟩ := handoverMoved_clocks s b regA regB tie us
  simp only [outsideEngines, Prod.mk.injEq] at hout
  obtain ⟨-, -, hpwr', hmari', -⟩ := hout
  constructor
  · rw [clocksOn, hpwr', hmari', ← clocksOn, startCore_clocksOn, clocksOn, hpwr, hmari, ← clocksOn]
  · rw [hpwr']
    exact startCore_ckA _ 0 _

theorem handover_starts : HandoverStarts := by
  intro s b tie regA regB us t
  have ht : t = _ := handover_eq s b regA regB tie us
  obtain ⟨hclk, hcka⟩ := clocks_handoverStarted s b regA regB tie us
  have hcore := core_handoverStarted s b regA regB tie us
  have hentry : imgF (handoverStarted s b regA regB tie us) b 0x028 4 = imgF s b 0x028 4 :=
    imgF_congr fun i hi => sramByte_handoverStarted s b regA regB tie us (by omega)
  rw [hentry] at ht
  clear_value t
  subst ht
  generalize handoverStarted s b regA regB tie us = u at *
  generalize handoverMoved s b regA regB tie us = v at *
  refine ⟨?_, rfl, rfl, hcka, congrArg CoreRec.run hcore, ?_, congrArg CoreRec.pc hcore, fun _ => rfl⟩
  · exact (Bool.and_true _).trans hclk
  · change fld (SMap.getF sysReset (Machine.core u 0).sys 0x400) 0 2 = 3
    rw [hcore]
    exact startedCore_level ..

/-! ## Retry and tamper (R147, R150, R155, R156, R161) -/

theorem retryResume_startsOver : RetryResume := fun _ hphase => congrArg Host.Outcome.next (if_pos hphase)

theorem tamperEvent_acts : TamperEvent := by
  intro s i hphase hmismatch
  refine congrArg Host.Outcome.next (if_neg ?_)
  rintro (h | ⟨h, h'⟩)
  · exact hphase h
  · exact hmismatch.elim (fun hi => hi h) h'

theorem fuseReread_tampers : FuseReread := fun _ _ hphase hclk hbad => congrArg Host.Outcome.next (if_pos ⟨hphase, hclk, hbad⟩)

theorem secureWipeDone_serves : SecureWipeDone := fun _ => rfl

theorem lockstep_halts : Lockstep := by
  intro s hphase
  change execScuLockstepMismatch s = _
  rcases hphase with h | h | h <;> rw [execScuLockstepMismatch, h]

theorem lockstepDone_fatal : LockstepDone := by
  intro s hphase
  change execScuLockstepMismatch s = _
  rw [execScuLockstepMismatch, hphase]

/-- Settles O32: each command of Sage, the straps, RSTOUT_N and the choice, by its own lemma. -/
theorem sageCommands : Obligations.SageCommands :=
  ⟨dieReset_opens, dieResetHalt_halts, straps_settle, rstoutN_follows, openReady_byInterface, imageChoice_hands, bothSignatures_checked,
    handover_starts, slotChoice_byVersion, retryResume_startsOver, tamperEvent_acts, fuseReread_tampers, secureWipeDone_serves, lockstep_halts,
    lockstepDone_fatal⟩

end Sys2Proof.Machine
end

section
/-!
PROOFS. O51: faults and their log, watchdogs, the TAP and BIST (spec 19).
-/

namespace Sys2Proof.Machine

open Sys2Proof.Claims

/-! ## Contained and fatal faults (R566 to R569) -/

/-- The oldest contained fault is taken from handover on. -/
theorem execContainedFault_taken {s u : State} {m : FaultMsg} (hphase : s.sage.phase = .done) (hclk : clocksOn s = true)
    (htake : takeFault s false = some (m, u)) :
    exec .containedFault s = .next (
      let act := faultAction u m.did
      let v := bumpF u .flts 0x040 16 16 1
      if act = 3 then fatalPath v false
      else
        let v := if act = 2 then wrB v .flts 0x040 1 true else v
        if act = 0 then v else faultReset v m.did) := by
  refine congrArg Host.Outcome.next ((if_neg (by simp [hphase, hclk])).trans ?_)
  rw [htake]

theorem contFault_acts : ContFault := by
  intro s u m hphase hclk htake act v
  rw [execContainedFault_taken hphase hclk htake]
  refine congrArg Host.Outcome.next (if_congr Iff.rfl rfl ?_)
  by_cases hact : act = 0
  · exact (if_pos hact).trans ((if_neg (by omega : ¬ act = 2)).trans (if_pos hact).symm)
  · exact (if_neg hact).trans (if_neg hact).symm

theorem fatFault_path : FatFault := by
  intro s u m htake v w
  change execFatalFault s = _
  rw [execFatalFault, htake]
  rfl

/-! ## The fault log (R573) -/

/-- An entry of the log leaves the messages. -/
theorem logFault_faultQ (s : State) (m : FaultMsg) (a : Nat) : (logFault s m a).faultQ = s.faultQ := by
  unfold logFault
  split
  · exact setIrq_faultQ ..
  · rfl

/-- The messages whose entries have been made stay, noted. -/
theorem logArrived_faultQ (s : State) (k : Nat) :
    (logArrived s k).faultQ = (s.faultQ.take k).map (fun m => { m with logged := true }) ++ s.faultQ.drop k :=
  foldl_frame State.faultQ _ (fun _ _ => logFault_faultQ ..) _ _

/-- The messages up to one of them, and those behind it. -/
theorem faults_upTo (pre post : List FaultMsg) (m : FaultMsg) :
    (pre ++ m :: post).take (pre.length + 1) = pre ++ [m] ∧ (pre ++ m :: post).drop (pre.length + 1) = post := by
  rw [List.append_cons]
  exact ⟨List.take_left' List.length_append, List.drop_left' List.length_append⟩

theorem oldestFault_taken : OldestFault := by
  intro s u b m htake
  unfold takeFault at htake
  simp only [Option.map_eq_some_iff, Prod.mk.injEq] at htake
  obtain ⟨m', hfind, rfl, rfl⟩ := htake
  obtain ⟨hcls, pre, post, hq, hpre⟩ := List.find?_eq_some_iff_append.mp hfind
  have hcls' : decide (m'.cls = fatal) = b := of_decide_eq_true hcls
  have hpre' : ∀ x ∈ pre, decide (x.cls = fatal) ≠ b := fun x hx hb => by
    simpa [hb] using hpre x hx
  have hidx : s.faultQ.findIdx (fun m => decide (decide (m.cls = fatal) = b)) = pre.length := by
    rw [hq, List.findIdx_append, List.findIdx_eq_length.mpr (fun x hx => decide_eq_false (hpre' x hx)), if_neg (Nat.lt_irrefl _),
      List.findIdx_cons, decide_eq_true hcls']
    simp
  refine ⟨hcls', pre, post, hq, hpre', ?_⟩
  have herase : (logArrived s (pre.length + 1)).faultQ.eraseIdx pre.length = pre.map (fun x => { x with logged := true }) ++ post := by
    obtain ⟨htaken, hbehind⟩ := faults_upTo pre post m'
    rw [logArrived_faultQ, hq, htaken, hbehind, List.map_append, List.append_assoc]
    simp [List.eraseIdx_append_of_length_le]
  dsimp only
  rw [hidx, herase]

/-- The messages up to one behind others that have their entries: that one alone is still to be entered. -/
theorem unlogged_upTo {pre post : List FaultMsg} (m : FaultMsg) (hpre : pre.all (fun x => x.logged) = true) :
    ((pre ++ m :: post).take (pre.length + 1)).filter (fun m => !m.logged) = if m.logged then [] else [m] := by
  have hnone : pre.filter (fun m => !m.logged) = [] := by
    rw [List.filter_eq_nil_iff]
    intro x hx
    simpa using List.all_eq_true.mp hpre x hx
  rw [(faults_upTo pre post m).1, List.filter_append, hnone, List.nil_append, List.filter_cons, List.filter_nil]
  cases m.logged <;> rfl

/-- A message that has its entry is noted as it is. -/
theorem noted_of_logged {l : List FaultMsg} (h : l.all (fun x => x.logged) = true) : l.map (fun m => { m with logged := true }) = l := by
  refine (List.map_congr_left fun x hx => ?_).trans (List.map_id _)
  have hx' : x.logged = true := List.all_eq_true.mp h x hx
  cases x
  cases hx'
  rfl

theorem loggedInOrder_byArrival : LoggedInOrder := by
  refine ⟨?_, fun s c r same => ?_⟩
  · intro s m pre post hq hpre u
    have hlist : (s.faultQ.take (pre.length + 1)).map (fun m => { m with logged := true }) ++ s.faultQ.drop (pre.length + 1) =
        pre ++ { m with logged := true } :: post := by
      obtain ⟨htaken, hbehind⟩ := faults_upTo pre post m
      rw [hq, htaken, hbehind, List.map_append, noted_of_logged hpre, List.append_assoc]
      rfl
    unfold logArrived
    dsimp only
    rw [hlist, hq, unlogged_upTo m hpre]
    split <;> rfl
  · exact latchOvf_frame State.faultLog (fun _ _ _ => rfl) ..

theorem faultEntry_kept : FaultEntry := by
  intro s m a
  exact ⟨fun hroom => ⟨_, if_pos hroom, rfl, rfl, rfl, rfl, rfl, rfl, rfl⟩, fun hfull => if_neg (Nat.not_lt.mpr hfull)⟩

/-! ## The hold and the watchdogs (R98, R569, R571, R572) -/

theorem holdExpire_resets : HoldExpire := fun _ _ h => congrArg Host.Outcome.next (if_pos h)

theorem scuWatchdog_resets : ScuWatchdog := fun _ _ h => congrArg Host.Outcome.next (if_pos h)

theorem wdExpire_records : WdExpire := fun _ _ hrun hclk => congrArg Host.Outcome.next (if_neg (by simp [hrun, hclk]))

/-! ## The TAP (R574, R575) -/

/-- Update-IR: an admitted instruction acts, any other acts as BYPASS. -/
theorem jtagLoad_on {s : State} (hon : tapOn s = true) (ir : Nat) (f : State → Jtag → Jtag) :
    (jtagAdmits s ir = true → jtagLoad s ir f = { s with jtag := { f s s.jtag with ir := ir, act := ir } }) ∧
    (jtagAdmits s ir = false → jtagLoad s ir f = { s with jtag := { s.jtag with ir := ir, act := 0xFF, dr := 0 } }) := by
  have hon' : ¬ (!tapOn s) = true := by simp [hon]
  exact ⟨fun h => (if_neg hon').trans (if_pos h), fun h => (if_neg hon').trans (if_neg (by simp [h]))⟩

/-- An instruction's command, for each of the two outcomes of Update-IR. -/
theorem jtagRow_on {s : State} (hon : tapOn s = true) (ir : Nat) (f : State → Jtag → Jtag) :
    (jtagAdmits s ir = true → (Host.Outcome.next (jtagLoad s ir f) : Result) = .next { s with jtag := { f s s.jtag with ir := ir, act := ir } }) ∧
    (jtagAdmits s ir = false → (Host.Outcome.next (jtagLoad s ir f) : Result) = .next { s with jtag := { s.jtag with ir := ir, act := 0xFF, dr := 0 } }) :=
  ⟨fun h => congrArg _ ((jtagLoad_on hon ir f).1 h), fun h => congrArg _ ((jtagLoad_on hon ir f).2 h)⟩

theorem tapReset_clears : TapReset := fun _ hon => congrArg Host.Outcome.next (if_pos hon)

theorem extest_row : ExtestRow := fun _ hon => jtagRow_on hon ..
theorem samplePreload_row : SamplePreloadRow := fun _ _ _ hon => jtagRow_on hon ..
theorem idcode_row : IdcodeRow := fun _ hon => jtagRow_on hon ..
theorem clamp_row : ClampRow := fun _ hon => jtagRow_on hon ..
theorem highz_row : HighzRow := fun _ hon => jtagRow_on hon ..
theorem memAp_row : MemApRow := fun _ hon => jtagRow_on hon ..
theorem scuAp_row : ScuApRow := fun _ hon => jtagRow_on hon ..
theorem bistRead_row : BistReadRow := fun _ _ hon => jtagRow_on hon ..
theorem bypass_row : BypassRow := fun _ hon => jtagRow_on hon ..

theorem boundaryLands_driven : BoundaryLands := by
  intro s n b x l
  refine ⟨fun hact => ⟨if_pos hact, if_pos hact⟩, fun hact => ?_, fun hext hclamp hhighz => ?_⟩
  · have hhighz : ¬ jtagActs s = 0x04 := by omega
    refine ⟨fun hbit => (if_neg hhighz).trans ((if_pos hact).trans ?_), fun hbit => (if_neg hhighz).trans ((if_pos hact).trans ?_)⟩
    · rw [hbit]
      cases railOn s n <;> rfl
    · rw [hbit]
      cases l.input <;> cases l.openDrain <;> cases x <;> rfl
  · have hnone : ¬ (jtagActs s = 0x00 ∨ jtagActs s = 0x03) := by omega
    exact ⟨(if_neg hhighz).trans (if_neg hnone), (if_neg hhighz).trans (if_neg hnone)⟩

theorem jtagGate_admits : JtagGate := by
  intro s ir
  unfold jtagAdmits
  dsimp only
  split
  next h => rcases h with rfl | rfl <;> simp
  next h2 =>
    split
    next h => rcases h with rfl | rfl | rfl <;> simp
    next h0 =>
      split
      next h => rcases h with rfl | rfl <;> simp
      next h1 =>
        split
        next h => subst h; simp
        next h10 =>
          split
          next h => subst h; simp
          next h11 => simp [h2, h0, h1, h10, h11]

/-! ## MEM_AP and SCU_AP (R157, R284, R575) -/

/-- MEM_AP acts: the access is made. -/
theorem execMemAp_acts {s : State} (hon : tapOn s = true) (hact : jtagActs s = 0x10) (x : ApAt) :
    exec (.memAp (some x)) s = .next (apAccess s x) :=
  congrArg Host.Outcome.next (if_pos (by simp [hon, hact]))

/-- SCU_AP acts: the fuse shadow is captured. -/
theorem execScuAp_acts {s : State} (hon : tapOn s = true) (hact : jtagActs s = 0x11) (x : FuseField) :
    exec (.scuAp (some x)) s = .next (apCapture s (apFuse s.sage.shadow x)) :=
  congrArg Host.Outcome.next (if_pos (by simp [hon, hact]))

theorem apRegisters_accessed : ApRegisters := by
  intro s n r k e t i x hon hact
  simp only [execMemAp_acts hon hact]
  exact ⟨rfl, rfl, rfl, rfl, rfl, rfl, rfl, rfl, rfl, rfl, rfl, rfl⟩

theorem apThread_captured : ApThread := by
  intro s e t k j i hon hact
  simp only [execMemAp_acts hon hact]
  refine ⟨rfl, rfl, rfl, rfl, rfl, rfl, rfl, rfl, fun q hq hready => ?_, fun q hq => ?_⟩
  · simp only [apAccess, apEng, apReg, hq, hready, if_true]
  · simp only [apAccess, apEng, apReg, hq]

/-- An access within the reach of the debug state. -/
theorem apMem_reached {s : State} {a n : Nat} (w : Option Nat) (env : MemEnv)
    (hreach : ((List.range n).all fun i => apReaches s (a + i)) = true) :
    apMem s a n w env = match (match w with
      | some x => busWrite s .scu (scuAttr s) a (bytesOf n x) env
      | none => busRead s .scu (scuAttr s) a n env) with
    | .ok t l => if w.isSome then t else apCapture t (ofBytes l)
    | .err t _ => apNothing t (8 * n)
    | .wait s => s := if_neg (by simp [hreach])

theorem apMemory_accessed : ApMemory := by
  intro s u a n x env l hon hact
  simp only [execMemAp_acts hon hact]
  refine ⟨fun hreach hread => ?_, fun hreach hwrite => ?_, fun hreach hread => ?_, fun hreach => ?_⟩
  · refine congrArg Host.Outcome.next ((apMem_reached none env hreach).trans ?_)
    simp only [hread]
    rfl
  · refine congrArg Host.Outcome.next ((apMem_reached (some x) env hreach).trans ?_)
    simp only [hwrite]
    rfl
  · refine congrArg Host.Outcome.next ((apMem_reached none env hreach).trans ?_)
    simp only [hread]
  · refine ⟨(freeVal (8 * n.val) s).1, congrArg Host.Outcome.next ?_⟩
    change apMem s a.toNat n.val none env = _
    unfold apMem
    exact if_pos (by rw [hreach]; rfl)

theorem apReach_byRegion : ApReach := by
  intro s a
  refine ⟨fun h => ?_, fun h => ?_, fun h => ?_⟩
  · rcases h with h | h <;> simp [apReaches, h]
  · rcases h with h | h <;> simp [apReaches, h]
  · simp [apReaches, h]

theorem apNotActing_nothing : ApNotActing := by
  intro s x y
  exact ⟨fun hact => congrArg Host.Outcome.next (if_neg (by simp [hact])), fun hact => congrArg Host.Outcome.next (if_neg (by simp [hact]))⟩

theorem apFuses_captured : ApFuses := by
  intro s k hon hact f
  simp only [execScuAp_acts hon hact]
  exact ⟨rfl, rfl, rfl, rfl, rfl, rfl⟩

/-! ## BIST (R306, R576 to R578, R584) -/

theorem bistStarts_whereReady : BistStarts := by
  intro s b env
  refine ⟨fun h => ?_, ?_⟩
  · refine if_pos (h.imp (fun hrun => ?_) (fun hready => ?_))
    · exact Option.isSome_iff_ne_none.mpr hrun
    · simp [hready]
  · intro hidle hready htyp u
    unfold bistBegin
    rw [if_neg (by simp [hidle, hready]), if_neg htyp]
    rfl

theorem bistEnd_leaves : Claims.BistEnd := by
  intro s b misr fails addr hrun hclk
  refine ⟨fun hhold => ?_, ?_⟩
  · change execBistRunEnd misr fails addr s = _
    rw [execBistRunEnd, hrun]
    exact congrArg Host.Outcome.next (if_pos (.inr hhold))
  · intro u v w x hhold
    change execBistRunEnd misr fails addr s = _
    rw [execBistRunEnd, hrun]
    exact congrArg Host.Outcome.next (if_neg (by simp [hclk, hhold]))

theorem bistStops_aborted : BistStops := fun s => ⟨fun h => if_neg (by simp [h]), fun h => if_pos h⟩

theorem bistVerdict_judged : BistVerdict := by
  intro s g v hlast hphase hclk u
  have hrow : ∀ sig, exec (.bistVerdict sig) s = .next (match sig with
      | none => wrF u .bist 0x058 0 2 3
      | some g => if g.toNat = v.misr ∧ v.fails = 0 then wrF u .bist 0x058 0 2 1
        else recordErr (wrF u .bist 0x058 0 2 2) .bist 0x81 contained (pageAttr u .bist) (v.run.typ + v.run.index * 2 ^ 4 + v.run.kind * 2 ^ 12) 0) := by
    intro sig
    change execBistVerdict sig s = _
    rw [execBistVerdict, hlast]
    exact congrArg Host.Outcome.next (if_neg (by simp [hphase, hclk]))
  exact ⟨hrow none, hrow (some g)⟩

/-- Settles O51: each command of the fault collector, the watchdogs, the TAP and BIST, by its own lemma. -/
theorem faultsAndWatchdogs : Obligations.FaultsAndWatchdogs :=
  ⟨contFault_acts, fatFault_path, oldestFault_taken, loggedInOrder_byArrival, faultEntry_kept, holdExpire_resets, scuWatchdog_resets,
    wdExpire_records, tapReset_clears, extest_row, samplePreload_row, idcode_row, clamp_row, highz_row, boundaryLands_driven, memAp_row,
    apRegisters_accessed, apThread_captured, apMemory_accessed, apReach_byRegion, apNotActing_nothing, scuAp_row, apFuses_captured,
    bistRead_row, bypass_row, jtagGate_admits, bistStarts_whereReady, bistEnd_leaves, bistStops_aborted, bistVerdict_judged⟩

end Sys2Proof.Machine
end

section
/-!
PROOFS. O8: the page map (R105, R114).
-/

namespace Sys2Proof.Machine

/-- The address of a register leads to its page (R114). -/
theorem pageOfAddr_register (p : Page) {off : Nat} (ho : off < 0x1000) : pageOfAddr (pageAddr p + off) = some p := by
  have hle := slotOf_le p
  have hslot : (0x10000000 + 0x1000 * slotOf p + off - 0x10000000) / 0x1000 = slotOf p := by omega
  rw [pageAddr_eq, pageOfAddr, if_pos (by omega), hslot, pageOfSlot_slotOf]

/-- Registers at one address are of one page, at one offset (R114). -/
theorem pageAddr_inj {p q : Page} {i j : Nat} (hi : i < 0x1000) (hj : j < 0x1000) (h : pageAddr p + i = pageAddr q + j) :
    p = q ∧ i = j := by
  have hpq : p = q := by_contra fun hne => pageAddr_apart hne hi hj h
  subst hpq
  exact ⟨rfl, Nat.add_left_cancel h⟩

/-- Settles O8: the slot of a page gives the page back, so no two pages share an address. -/
theorem pagesApart : Obligations.PagesApart :=
  ⟨fun _ _ _ _ hi hj h => pageAddr_inj hi hj h, fun s p _ ho => ⟨regionOf_page s p ho, pageOfAddr_register p ho⟩⟩

end Sys2Proof.Machine
end

section
/-!
PROOFS. O9: the fabric error log (R123) and the error record of a page (R118, R119, R566, R567).
-/

namespace Sys2Proof.Machine

open Sys2Proof.Claims

/-! ## The fabric error log -/

theorem ferrLog_enters : Claims.FerrEntry := fun _ _ _ _ _ _ hroom => if_pos hroom

theorem ferrLog_loses : FerrLost := by
  intro s m a op addr k hfull
  have hlost : ferrLog s m a op addr k = wrB (bumpF s .ferr 0x058 0 16 1) .ferr 0x040 6 true := if_neg (by omega)
  exact ⟨hlost, by rw [hlost, wrB_fab, bumpF_fab]⟩

/-! ## The error record of a page -/

/-- The registers of a page after an error of it: ERRS has counted it, and the record has captured it or OVF is set (R119). -/
def captureErr (s : State) (p : Page) (code cls : Nat) (a : Attr) (detail : Nat) : State :=
  let t := bumpF s p 0x02C 16 16 1
  if rdB t p 0x020 0 then wrB t p 0x020 1 true
  else
    let u := wr t p 0x020 (setFld (setFld (setBit (rd t p 0x020) 0 true) 8 8 code) 16 2 cls)
    setIrq (wr (wr u p 0x024 (BitVec.ofNat 32 (tagWord a))) p 0x028 (BitVec.ofNat 32 detail)) p 0x80000000

/-- An error of corrected class is captured, and no more. -/
theorem recordErr_corrected (s : State) (p : Page) (code : Nat) (a : Attr) (detail did : Nat) (own : Bool) :
    recordErr s p code corrected a detail did own = captureErr s p code corrected a detail := by
  rw [recordErr, if_pos rfl]
  rfl

/-- An error of another class is captured and sends its fault message (R566). -/
theorem recordErr_sends (s : State) (p : Page) (code : Nat) {cls : Nat} (a : Attr) (detail did : Nat) (own : Bool) (h : cls ≠ corrected) :
    recordErr s p code cls a detail did own = { captureErr s p code cls a detail with
      faultQ := (captureErr s p code cls a detail).faultQ ++
        [{ page := p, code := code, cls := cls, attr := a, detail := detail, did := did, scuOwn := own }] } := if_neg h

/-- The record captures an error while VALID is 0. -/
theorem captureErr_first {s : State} {p : Page} (code cls : Nat) (a : Attr) (detail : Nat)
    (h : rdB (bumpF s p 0x02C 16 16 1) p 0x020 0 = false) :
    captureErr s p code cls a detail =
      let t := bumpF s p 0x02C 16 16 1
      let u := wr t p 0x020 (setFld (setFld (setBit (rd t p 0x020) 0 true) 8 8 code) 16 2 cls)
      setIrq (wr (wr u p 0x024 (BitVec.ofNat 32 (tagWord a))) p 0x028 (BitVec.ofNat 32 detail)) p 0x80000000 :=
  if_neg (by simp [h])

/-- While VALID is 1 an error sets OVF. -/
theorem captureErr_later {s : State} {p : Page} (code cls : Nat) (a : Attr) (detail : Nat)
    (h : rdB (bumpF s p 0x02C 16 16 1) p 0x020 0 = true) :
    captureErr s p code cls a detail = wrB (bumpF s p 0x02C 16 16 1) p 0x020 1 true := if_pos h

/-- The registers of a page take an error without a fault message. -/
@[simp] theorem captureErr_faultQ (s : State) (p : Page) (code cls : Nat) (a : Attr) (detail : Nat) :
    (captureErr s p code cls a detail).faultQ = s.faultQ := by
  cases h : rdB (bumpF s p 0x02C 16 16 1) p 0x020 0 with
  | false => simp [captureErr_first code cls a detail h]
  | true => simp [captureErr_later code cls a detail h]

theorem recordErr_captures : RecordFirst := by
  intro s p code a detail did hvalid t u
  rw [recordErr_corrected]
  exact captureErr_first code corrected a detail hvalid

theorem recordErr_overflows : RecordLater := by
  intro s p code a detail did hvalid
  rw [recordErr_corrected]
  exact captureErr_later code corrected a detail hvalid

theorem recordErr_faultMessage : RecordSends := by
  intro s p code cls a detail did hcls
  rw [recordErr_sends s p code a detail did false hcls, recordErr_corrected, captureErr_faultQ, captureErr_faultQ]

/-- Settles O9: the log and the record, each clause by its own lemma. -/
theorem errorLogs : Obligations.ErrorLogs :=
  ⟨ferrLog_enters, ferrLog_loses, recordErr_captures, recordErr_overflows, recordErr_faultMessage⟩

end Sys2Proof.Machine
end

section
/-!
PROOFS. O16: reads and writes at the system cache, fills, victims and completed DRAM writes (R260 to R278, R294).
-/

namespace Sys2Proof.Machine

open Sys2Proof.Claims

/-! ## What a lookup comes to (R260, R265, R266) -/

/-- Without a parity error a line stays as it is. -/
@[simp] theorem scParity_none (s : State) (slot : Nat) (a : Attr) : scParity s slot a false = s := by simp [scParity]

/-- The line in a slot that holds one. -/
theorem scLine_of_find {s : State} {slot : Nat} {x : ScLine} (h : SMap.find? s.sc.lines slot = some x) : scLine s slot = x := by
  rw [scLine, h, Option.getD_some]

/-- A line whose fill is on its way, or that waits for its slot, makes the request wait. -/
theorem scLook_busy {s : State} {la : Nat} (a : Attr) (m : Nat) (isW par vpar : Bool) (h : lineBusy s la = true) :
    scLook s a m la isW par vpar = .wait := if_pos h

/-- A line that no powered way holds is missed. -/
theorem scLook_miss {s : State} {la : Nat} (a : Attr) (m : Nat) (isW par vpar : Bool) (hbusy : lineBusy s la = false)
    (hfind : scFind s la = none) : scLook s a m la isW par vpar = scMiss s a m la vpar := by
  rw [scLook, if_neg (by simp [hbusy]), hfind]

/-- A miss that may not allocate takes no slot. -/
theorem scMiss_bypass {s : State} {a : Attr} {la : Nat} (m : Nat) (vpar : Bool) (h : allocSlot s a la = none) :
    scMiss s a m la vpar = .miss s none := by
  rw [scMiss, h]

/-- A miss that allocates takes its home slot, where no other line waits for it. -/
theorem scMiss_allocates {s : State} {a : Attr} {la slot : Nat} (m : Nat) (vpar : Bool) (h : allocSlot s a la = some slot)
    (hfree : resvOf s slot = none) : scMiss s a m la vpar = .miss (scAllocate s a m la slot vpar) (some slot) := by
  simp only [scMiss, h, hfree, Option.isSome_none, Bool.false_eq_true, if_false]

/-- A held line without a parity error is hit where no clean of its way runs; a write needs its slot to hold no victim besides. -/
theorem scLook_hit {s : State} {la slot : Nat} {x : ScLine} (a : Attr) (m : Nat) (isW vpar : Bool) (hbusy : lineBusy s la = false)
    (hfind : scFind s la = some slot) (hline : SMap.find? s.sc.lines slot = some x) (hclean : wayCleaning s (slot / 16384) = false)
    (hvictim : isW = true → resvOf s slot = none) : scLook s a m la isW false vpar = .hit s slot := by
  have hstay : (isW && ((resvOf s slot).map ScResv.victim).getD false) = false := by
    cases isW with
    | false => rfl
    | true => rw [hvictim rfl]; rfl
  simp only [scLook, hbusy, hfind, hstay, scParity_none, hline, hclean, Bool.and_false, Bool.false_eq_true, if_false]

/-! ## What the commands make of the lookup -/

/-- A request in transit for a line of DRAM has come to the cache, with nothing of its source before it (R31). -/
structure AtCache (s : State) (id : Nat) (t : Txn) : Prop where
  txn : txn? s id = some t
  transit : t.status = .transit
  first : behindSource s t = false
  line : inDram s (reqLine t.req) = true

/-- What SYSTEM_CACHE_READ makes of its lookup. -/
def servedRead (s : State) (id : Nat) (t : Txn) : ScLook → State
  | .wait => arriveTxn s id
  | .hit u slot => answerTxn u id false (scLine u slot).poison (reqBytes t.req (scLine u slot).data)
  | .miss u slot =>
    acceptTxn (sendDram u { id := 0, isW := false, line := reqLine t.req, attr := t.attr, port := portOf (masterCode t.req.master),
                            cause := .fill id slot }) id

/-- What SYSTEM_CACHE_WRITE makes of its lookup. -/
def servedWrite (s : State) (id : Nat) (t : Txn) : ScLook → State
  | .wait => arriveTxn s id
  | .hit u slot =>
    let r := scWriteHit u slot (reqData t.req) (reqBe t.req) t.poison t.attr (masterCode t.req.master) (some id)
    if r.2 then answerTxn r.1 id false false 0 else acceptTxn r.1 id
  | .miss u none => acceptTxn (scWriteOut u (reqLine t.req) (reqData t.req) (reqBe t.req) t.poison t.attr (masterCode t.req.master)
      (.write (some id))) id
  | .miss u (some slot) =>
    if reqBe t.req = beAll then answerTxn (scSettle u slot (reqLine t.req) (reqData t.req) true t.poison) id false false 0
    else acceptTxn (sendDram u { id := 0, isW := false, line := reqLine t.req, attr := t.attr, port := portOf (masterCode t.req.master),
                                 cause := .fill id (some slot) }) id

section
variable {s : State} {id : Nat} {t : Txn} (h : AtCache s id t)
include h

/-- A read that comes to the cache before DRAM is in service fails (R160). -/
theorem AtCache.read_asleep (hop : t.req.op ≠ .write) (hoff : rdB s .dmc 0x040 0 = false) (par vpar : Bool) :
    exec (.systemCacheRead id par vpar) s = .next (failTxn s t .asleep) := by
  change execSystemCacheRead id par vpar s = _
  simp [execSystemCacheRead, h.txn, h.transit, h.first, h.line, hop, hoff]

/-- A write that comes to the cache before DRAM is in service fails (R160). -/
theorem AtCache.write_asleep (hop : t.req.op = .write) (hoff : rdB s .dmc 0x040 0 = false) (par vpar : Bool) :
    exec (.systemCacheWrite id par vpar) s = .next (failTxn s t .asleep) := by
  change execSystemCacheWrite id par vpar s = _
  simp [execSystemCacheWrite, h.txn, h.transit, h.first, h.line, hop, hoff]

/-- With DRAM in service a read that comes to the cache is served by its lookup. -/
theorem AtCache.read_served (hop : t.req.op ≠ .write) (hon : rdB s .dmc 0x040 0 = true) (par vpar : Bool) :
    exec (.systemCacheRead id par vpar) s =
      .next (servedRead s id t (scLook s t.attr (masterCode t.req.master) (reqLine t.req) false par vpar)) := by
  change execSystemCacheRead id par vpar s = _
  simp only [execSystemCacheRead, h.txn]
  rw [if_neg (by simp [h.transit, h.first, hop]), if_neg (by simp [h.line]), if_neg (by simp [hon])]
  cases scLook s t.attr (masterCode t.req.master) (reqLine t.req) false par vpar <;> rfl

/-- With DRAM in service a write that comes to the cache is served by its lookup. -/
theorem AtCache.write_served (hop : t.req.op = .write) (hon : rdB s .dmc 0x040 0 = true) (par vpar : Bool) :
    exec (.systemCacheWrite id par vpar) s =
      .next (servedWrite s id t (scLook s t.attr (masterCode t.req.master) (reqLine t.req) true par vpar)) := by
  change execSystemCacheWrite id par vpar s = _
  simp only [execSystemCacheWrite, h.txn]
  rw [if_neg (by simp [h.transit, h.first, hop]), if_neg (by simp [h.line]), if_neg (by simp [hon])]
  cases scLook s t.attr (masterCode t.req.master) (reqLine t.req) true par vpar with
  | wait => rfl
  | hit u slot => rfl
  | miss u o => cases o <;> rfl

end

/-! ## Reads and writes (R160, R260, R264 to R266, R278) -/

theorem scRead_hit : ScReadHit := by
  intro s id slot vpar t x htxn htransit hfirst hdram hon hbusy hop hfind hline hclean
  rw [AtCache.read_served ⟨htxn, htransit, hfirst, hdram⟩ hop hon, scLook_hit _ _ false _ hbusy hfind hline hclean nofun, servedRead,
    scLine_of_find hline]

theorem scRead_miss : ScReadMiss := by
  intro s id par vpar t htxn htransit hfirst hdram hon hbusy hop hfind halloc
  rw [AtCache.read_served ⟨htxn, htransit, hfirst, hdram⟩ hop hon, scLook_miss _ _ _ _ _ hbusy hfind, scMiss_bypass _ _ halloc, servedRead]

theorem scRequest_waitsForLine : ScWaitsForLine := by
  intro s id par vpar t htxn htransit hfirst hdram hon hbusy
  have hat : AtCache s id t := ⟨htxn, htransit, hfirst, hdram⟩
  exact ⟨fun hop => by rw [hat.read_served hop hon, scLook_busy _ _ _ _ _ hbusy, servedRead],
    fun hop => by rw [hat.write_served hop hon, scLook_busy _ _ _ _ _ hbusy, servedWrite]⟩

theorem scRead_allocates : ScReadAlloc := by
  intro s id slot par vpar t htxn htransit hfirst hdram hon hbusy hop hfind halloc hfree m
  rw [AtCache.read_served ⟨htxn, htransit, hfirst, hdram⟩ hop hon, scLook_miss _ _ _ _ _ hbusy hfind, scMiss_allocates _ _ halloc hfree,
    servedRead]

theorem scVictim_sent : ScVictimOf := by
  intro s a master la slot x hline hdirty t
  have hsent : scAllocate s a master la slot false =
      { t with sc := { t.sc with resvs := t.sc.resvs ++ [{ slot := slot, line := la, victim := true }] } } := by
    simp only [scAllocate, scParity_none, hline, hdirty, if_true]
    rfl
  exact ⟨hsent, by rw [hsent]; exact hline⟩

theorem scWrite_hitBack : ScWriteHitBack := by
  intro s id slot vpar t x htxn htransit hfirst hdram hon hbusy hop hfind hline hclean hpart hfree y
  rw [AtCache.write_served ⟨htxn, htransit, hfirst, hdram⟩ hop hon, scLook_hit _ _ true _ hbusy hfind hline hclean fun _ => hfree]
  simp only [servedWrite, scWriteHit, scLine_of_find hline, hpart, if_true]
  rfl

theorem scWrite_hitThrough : ScWriteHitThrough := by
  intro s id slot vpar t x htxn htransit hfirst hdram hon hbusy hop hfind hline hclean hpart hfree y
  rw [AtCache.write_served ⟨htxn, htransit, hfirst, hdram⟩ hop hon, scLook_hit _ _ true _ hbusy hfind hline hclean fun _ => hfree]
  simp only [servedWrite, scWriteHit, scLine_of_find hline, hpart, Bool.false_eq_true, if_false]
  rfl

theorem scWrite_miss : ScWriteMiss := by
  intro s id par vpar t htxn htransit hfirst hdram hon hbusy hop hfind halloc
  rw [AtCache.write_served ⟨htxn, htransit, hfirst, hdram⟩ hop hon, scLook_miss _ _ _ _ _ hbusy hfind, scMiss_bypass _ _ halloc, servedWrite]

theorem scWrite_full : ScWriteFull := by
  intro s id slot par vpar t htxn htransit hfirst hdram hon hbusy hop hfind halloc hfree hall
  rw [AtCache.write_served ⟨htxn, htransit, hfirst, hdram⟩ hop hon, scLook_miss _ _ _ _ _ hbusy hfind, scMiss_allocates _ _ halloc hfree,
    servedWrite, if_pos hall]

theorem scWrite_part : ScWritePart := by
  intro s id slot par vpar t htxn htransit hfirst hdram hon hbusy hop hfind halloc hfree hpart m
  rw [AtCache.write_served ⟨htxn, htransit, hfirst, hdram⟩ hop hon, scLook_miss _ _ _ _ _ hbusy hfind, scMiss_allocates _ _ halloc hfree,
    servedWrite, if_neg hpart]

theorem scRequest_asleep : NotInService := by
  intro s id par vpar t htxn htransit hfirst hdram hoff
  have hat : AtCache s id t := ⟨htxn, htransit, hfirst, hdram⟩
  exact ⟨fun hop => hat.read_asleep hop hoff par vpar, fun hop => hat.write_asleep hop hoff par vpar⟩

/-! ## Fills (R265, R266, R270, R272) -/

theorem fillReturn_answersReader : FillReturn := by
  intro s id tid o r t hreq hcause hret htxn hop
  have htxn' : txn? (dropDreq s id) tid = some t := htxn
  change execScFillReturn id s = _
  cases o <;>
    simp only [execScFillReturn, hreq, hcause, hret, htxn', hop, ne_eq, not_true_eq_false, decide_false, Bool.false_eq_true, if_false]

theorem fillReturn_merges : FillMerge := by
  intro s id tid sl r t hreq hcause hret htxn hop y
  have htxn' : txn? (dropDreq s id) tid = some t := htxn
  change execScFillReturn id s = _
  simp only [execScFillReturn, hreq, hcause, hret, htxn', hop, ne_eq, not_true_eq_false, decide_true, if_true, if_false]
  rfl

theorem fillReturn_preloads : FillPreload := by
  intro s id sl r hreq hcause hret
  change execScFillReturn id s = _
  simp only [execScFillReturn, hreq, hcause, hret, if_true]

theorem fillReturn_own : FillOwn := by
  intro s id m o r hreq hcause hret
  change execScFillReturn id s = _
  simp only [execScFillReturn, hreq, hcause, hret, if_true]
  cases o <;> rfl

/-! ## Victims, installing and DRAM writes (R266, R275, R276, R294, R302) -/

theorem victimAccepted_installs : VictimAccepted := by
  intro s slot r hresv hvictim hready hsent
  have hcond : ¬((!r.victim) = true ∨ (s.dram.reqs.any fun q => decide (q.cause = .victim slot ∧ q.stat = .sent)) = true) := by
    simpa [hvictim] using hsent
  change execVictimAccepted slot s = _
  simp only [execVictimAccepted, hresv]
  rw [if_neg hcond, if_pos hready]

theorem installLine_byPower : InstallPowered := by
  intro s slot la data dirty poison
  refine ⟨fun hon => if_pos hon, fun hoff hclean => ?_, fun hoff hdirty => ?_⟩
  · rw [installLine, if_neg (by simp [hoff]), if_neg (by simp [hclean])]
  · rw [installLine, if_neg (by simp [hoff]), if_pos hdirty]

theorem dramWrite_answers : DramWrite := by
  intro s id tid out r hreq hchosen hw hbehind hcause
  change execDramWriteComplete id out s = _
  simp only [execDramWriteComplete, hreq]
  rw [if_pos ⟨hchosen, hw, by simp [hbehind]⟩, hcause]

/-- Settles O16: each case of the system cache's requests by its own lemma. -/
theorem systemCacheRequests : Obligations.SystemCacheRequests :=
  ⟨scRead_hit, scRead_miss, scRequest_waitsForLine, scRead_allocates, scVictim_sent, scWrite_hitBack, scWrite_hitThrough, scWrite_miss,
    scWrite_full, scWrite_part, scRequest_asleep, fillReturn_answersReader, fillReturn_merges, fillReturn_preloads, fillReturn_own,
    victimAccepted_installs, installLine_byPower, dramWrite_answers⟩

end Sys2Proof.Machine
end

section
/-!
PROOFS. O31: the frames of a push over the boot port, the PCIe mailbox and Tylwen (R128 to R137).
-/

namespace Sys2Proof.Machine

open Sys2Proof.Claims

/-! ## What Sage makes of a frame (R131, R133, R134) -/

theorem pushOver_of_push {s : State} (h : s.sage.phase = .push) : pushOver s = false := by simp [pushOver, h]

/-- What R133 refuses in a WRITE apart from its CRC and a busy Sage. -/
def writeRef (s : State) (slot off len : Nat) (data : List Byte) : Bool :=
  decide (data.length ≠ len ∨ 2 ≤ slot ∨ off % 4 ≠ 0 ∨ len % 4 ≠ 0 ∨ len < 4 ∨ 256 < len ∨ 0x400000 < off + len ∨ s.sage.phase ≠ .push)

/-- A WRITE is refused for any of its conditions, or stored, counted and applied. -/
theorem takeWrite_eq (s : State) (slot off len : Nat) (data : List Byte) (crcBad : Bool) :
    takeWrite s slot off len data crcBad =
      if crcBad = true ∨ writeRef s slot off len data = true ∨ s.sage.rdy = false then
        frameBad s crcBad (writeRef s slot off len data) (!s.sage.rdy)
      else updSage (frameTaken (slotStore s (slot = 1) off data)) fun g => { g with writes := (g.writes + 1) % 65536 } := by
  have href : (decide (data.length ≠ len) || (decide (2 ≤ slot) || decide (off % 4 ≠ 0) || decide (len % 4 ≠ 0) || decide (len < 4)
      || decide (256 < len) || decide (0x400000 < off + len)) || pushOver s) = writeRef s slot off len data := by
    simp only [writeRef, pushOver, Bool.decide_or, Bool.or_assoc]
  simp only [takeWrite, href, Bool.or_eq_true, Bool.not_eq_true', or_assoc]

theorem takeClear_accepted {s : State} {slot : Nat} (hphase : s.sage.phase = .push) (hrdy : s.sage.rdy = true) (hslot : slot < 2) :
    takeClear s slot false false = frameTaken (zeroSlot s (slot = 1)) :=
  if_neg (by simp [pushOver_of_push hphase, hrdy, hslot])

theorem takeClear_short (s : State) (slot : Nat) (crcBad : Bool) :
    takeClear s slot crcBad true = frameBad s crcBad true (!s.sage.rdy) :=
  if_pos (by simp)

theorem takeRelease_accepted {s : State} (hphase : s.sage.phase = .push) (hrdy : s.sage.rdy = true) :
    takeRelease s 0x5A false false =
      updSage s fun g => { g with phase := .verify, lastOk := true, rdy := false, released := true, err := 2 } :=
  if_neg (by simp [pushOver_of_push hphase, hrdy])

theorem takeRelease_short (s : State) (key : Nat) (crcBad : Bool) :
    takeRelease s key crcBad true = frameBad s crcBad true (!s.sage.rdy) :=
  if_pos (by simp)

theorem takeInfo_ready {s : State} (tail : List Byte → List Byte) (hrdy : s.sage.rdy = true) :
    takeInfo s tail = updSage s fun g => { g with miso := infoBytes s ++ tail (infoBytes s), lastOk := true } :=
  if_neg (by simp [hrdy])

@[simp] theorem ofBE_singleton (b : Byte) : ofBE [b] = b.toNat := Nat.zero_add _

/-! ## The boot port (R128 to R135) -/

section
variable {s : State} (hport : bootPort s = true)
include hport

theorem execBootWrite_port (slot : BitVec 8) (off : BitVec 24) (len : BitVec 16) (data : List Byte) (crc : BitVec 32) :
    exec (.bootWrite slot off len data crc) s = .next (takeWrite s slot.toNat off.toNat len.toNat data
      (crc.toNat ≠ crc32 ([0x02, slot] ++ (bytesOf 3 off.toNat).reverse ++ (bytesOf 2 len.toNat).reverse ++ data))) :=
  congrArg Host.Outcome.next (if_pos hport)

theorem execBootClear_port (body : List Byte) (crc : BitVec 32) :
    exec (.bootClear body crc) s =
      .next (takeClear s (ofBE (body.take 1)) (crc.toNat ≠ crc32 (0x20 :: body)) (body.length ≠ 1)) :=
  congrArg Host.Outcome.next (if_pos hport)

theorem execBootRelease_port (body : List Byte) (crc : BitVec 32) :
    exec (.bootRelease body crc) s =
      .next (takeRelease s (ofBE (body.take 1)) (crc.toNat ≠ crc32 (0xB8 :: body)) (body.length ≠ 1)) :=
  congrArg Host.Outcome.next (if_pos hport)

end

theorem bootWrite_stores : BootWrite := by
  intro s slot off len data crc hport hphase hrdy hcrc hslot halign hlen hend hdata
  have href : writeRef s slot.toNat off.toNat len.toNat data = false := by
    simp only [writeRef, hphase, hdata, ne_eq, not_true, or_false, false_or, decide_eq_false_iff_not]
    omega
  rw [execBootWrite_port hport, takeWrite_eq, if_neg (by simp [hcrc, href, hrdy])]

theorem bootWriteBad_refused : BootWriteBad := by
  intro s slot off len data crc hport crcBad ref hbad
  rw [execBootWrite_port hport, takeWrite_eq]
  exact congrArg Host.Outcome.next (if_pos hbad)

theorem bootStatus_answers : BootStatus := fun _ hport => congrArg Host.Outcome.next (if_pos hport)

theorem bootInfo_answers : BootInfo := fun _ hport hrdy =>
  congrArg Host.Outcome.next ((if_pos hport).trans (takeInfo_ready crcTail hrdy))

theorem bootClear_zeroes : BootClear := by
  intro s slot crc hport hphase hrdy hcrc hslot
  have htaken := takeClear_accepted hphase hrdy hslot
  rw [execBootClear_port hport]
  simpa [hcrc] using htaken

theorem bootShort_refused : BootShort := by
  intro s body crc hport hlen
  rw [execBootClear_port hport, execBootRelease_port hport, decide_eq_true hlen, takeClear_short, takeRelease_short]
  exact ⟨rfl, rfl⟩

theorem bootRelease_verifies : BootRelease := by
  intro s crc hport hphase hrdy hcrc
  have htaken := takeRelease_accepted hphase hrdy
  rw [execBootRelease_port hport]
  simpa [hcrc] using htaken

theorem bootReserved_counts : BootReserved := fun _ _ hport hcmd => congrArg Host.Outcome.next (if_pos ⟨hport, hcmd⟩)

theorem bootTimeout_discards : BootTimeout := fun _ hport => congrArg Host.Outcome.next (if_pos hport)

theorem bootApplied_ready : BootApplied := fun _ happ hphase => congrArg Host.Outcome.next (if_pos ⟨happ, hphase⟩)

theorem pushAbandon_zeroes : PushAbandon := fun _ hstarted hphase => congrArg Host.Outcome.next (if_pos ⟨hstarted, hphase⟩)

/-! ## The PCIe mailbox (R128, R136) -/

/-- Without the mailbox as the selected interface, or with its link down, Sage hears nothing. -/
theorem bootPcie_down {s : State} (h : rdF s (.pce 0) 0x044 0 2 ≠ 2 ∨ s.sage.bootif ≠ 1) : bootPcie s = false := by
  rcases h with hlink | hif
  · simp [bootPcie, hlink]
  · simp [bootPcie, hif]

/-- Bytes that lie in slot A are stored there, and none in slot B. -/
theorem pcieWrite_stores : PcieWrite := by
  intro s off data hup hphase hdata hend
  have hin : ¬2 ^ 23 < off.toNat + data.length := by omega
  have hn : min data.length (0x400000 - off.toNat) = data.length := by omega
  change Host.Outcome.next (bar0Write s off.toNat data) = _
  rw [bar0Write, if_neg (by simp [hup, hdata]), if_neg hin, if_neg (by simp [pushOver_of_push hphase])]
  simp only [hn, List.take_length, List.drop_length]

theorem bar2Clear_accepted {s : State} {v : Nat} (hup : bootPcie s = true) (hphase : s.sage.phase = .push) (hv : v < 2) :
    bar2Clear s v = updSage (zeroSlot s (v = 1)) fun g => { g with lastOk := true, started := true, err := 1 } := by
  rw [bar2Clear, if_neg (by simp [hup]), if_neg (by simp [pushOver_of_push hphase, hv])]

theorem bar2Release_accepted {s : State} (hup : bootPcie s = true) (hphase : s.sage.phase = .push) :
    bar2Release s 0xB8 = updSage s fun g => { g with phase := .verify, lastOk := true, rdy := false, released := true, err := 2 } := by
  rw [bar2Release, if_neg (by simp [hup]), if_neg (by simp [pushOver_of_push hphase])]

theorem pcieClear_zeroes : PcieClear := by
  intro s v hup hphase hv
  have hone : decide (v.toNat = 1) = decide (v = 1) := decide_eq_decide.mpr (BitVec.toNat_inj (y := 1))
  refine ⟨congrArg Host.Outcome.next ?_, congrArg Host.Outcome.next (bar2Release_accepted hup hphase)⟩
  rw [bar2Clear_accepted hup hphase hv, hone]

/-! ## Tylwen, and links that are down (R128, R137) -/

theorem bootLinkDown_ignored : BootLinkDown := by
  intro s off data f v
  refine ⟨fun hdown => ?_, fun hdown => congrArg Host.Outcome.next (if_pos ?_)⟩
  · have hpcie := bootPcie_down hdown
    exact ⟨congrArg Host.Outcome.next (if_pos (.inl (by simp [hpcie]))), congrArg Host.Outcome.next (if_pos (by simp [hpcie])),
      congrArg Host.Outcome.next (if_pos (by simp [hpcie]))⟩
  · exact hdown.elim (fun hlink => .inr (.inr hlink)) .inl

/-- Over a link that is up the command byte chooses the frame. -/
theorem tylBoot_dispatches : TylBoot := by
  intro s key r hif hphase hlink
  have hup : ¬(s.sage.bootif ≠ 2 ∨ s.sage.phase = .off ∨ rdF s .tylw 0x044 0 2 ≠ 2) := by simp [hif, hphase, hlink]
  exact ⟨congrArg Host.Outcome.next (if_neg hup), congrArg Host.Outcome.next (if_neg hup), congrArg Host.Outcome.next (if_neg hup),
    congrArg Host.Outcome.next (if_neg hup), congrArg Host.Outcome.next (if_neg hup)⟩

/-- Settles O31: each frame, its refusals and the three interfaces, by its own lemma. -/
theorem bootPush : Obligations.BootPush :=
  ⟨bootWrite_stores, bootWriteBad_refused, bootStatus_answers, bootInfo_answers, bootClear_zeroes, bootShort_refused, bootRelease_verifies,
    bootReserved_counts, bootTimeout_discards, bootApplied_ready, pushAbandon_zeroes, pcieWrite_stores, pcieClear_zeroes,
    bootLinkDown_ignored, tylBoot_dispatches⟩

end Sys2Proof.Machine
end

section
/-!
PROOFS. The frame in which an instruction of a Winovar core runs (R170, R175, R245).
-/

namespace Sys2Proof.Machine

open Sys2Proof.Claims

variable {z s : State} {n : Fin 24} {fr : Front} {fe : List Nat}

/-- A core that issues ends the instruction as its body says, in the state in which it executes. -/
theorem wInstr_of_issues (h : Issues z n fr fe s) (body : State → IRes) : wInstr n fr body z = .next (finish s n fr fe (body s)) := by
  obtain ⟨hrun, hstall, htaken, hfetched⟩ := h
  have hissues : issues z n = true := by simp [issues, hrun, hstall]
  refine congrArg Host.Outcome.next ?_
  rw [if_pos hissues, htaken]
  unfold fetched at hfetched
  dsimp only
  split at hfetched
  · next ht => rw [if_pos ht]; cases hfetched; rfl
  · next ht =>
    rw [if_neg ht]
    split at hfetched
    · next hf => cases hfetched; rw [hf]; rfl
    · cases hfetched

/-- A body that completes retires the instruction. -/
theorem wInstr_done (h : Issues z n fr fe s) {body : State → IRes} {u : State} {npc : Word64} {evs : List Nat} (hb : body s = .done u npc evs) :
    wInstr n fr body z = .next (retired fe s u n npc evs) := by
  rw [wInstr_of_issues h, hb]; rfl

/-- A body that raises an exception faults the instruction at its pc. -/
theorem wInstr_exc (h : Issues z n fr fe s) {body : State → IRes} {u : State} {e : Exc} (hb : body s = .exc u e) :
    wInstr n fr body z = .next (faulted u n fr (core u n).pc e) := by
  rw [wInstr_of_issues h, hb]; rfl

/-- An instruction that writes one general register completes with the value it computes. -/
theorem wResult_of_issues (h : Issues z n fr fe s) (d : Fin 32) (v : State → Word64) :
    wResult n d v fr z = .next (wPut fe s n d (v s)) := wInstr_done h rfl

end Sys2Proof.Machine
end

section
/-!
PROOFS. O55: the integer operations of a Winovar core (R201 to R205).
-/

namespace Sys2Proof.Machine

open Sys2Proof.Claims

/-! ## Values (R201 to R204) -/

theorem slt_eq_toInt_lt (x y : Word64) : (if x.slt y then 1 else 0 : Word64) = if x.toInt < y.toInt then 1 else 0 := by
  simp [BitVec.slt]

theorem min_signed (x y : Word64) : (if x.slt y then x else y) = BitVec.ofInt 64 (min x.toInt y.toInt) := by
  by_cases h : x.toInt < y.toInt
  · simp [BitVec.slt, h, Int.min_eq_left (Int.le_of_lt h)]
  · simp [BitVec.slt, h, Int.min_eq_right (Int.not_lt.1 h)]

theorem max_signed (x y : Word64) : (if x.slt y then y else x) = BitVec.ofInt 64 (max x.toInt y.toInt) := by
  by_cases h : x.toInt < y.toInt
  · simp [BitVec.slt, h, Int.max_eq_right (Int.le_of_lt h)]
  · simp [BitVec.slt, h, Int.max_eq_left (Int.not_lt.1 h)]

theorem min_unsigned (x y : Word64) : (if x < y then x else y) = BitVec.ofNat 64 (min x.toNat y.toNat) := by
  by_cases h : x.toNat < y.toNat
  · simp [BitVec.lt_def, h, Nat.min_eq_left (Nat.le_of_lt h)]
  · simp [BitVec.lt_def, h, Nat.min_eq_right (Nat.not_lt.1 h)]

theorem max_unsigned (x y : Word64) : (if x < y then y else x) = BitVec.ofNat 64 (max x.toNat y.toNat) := by
  by_cases h : x.toNat < y.toNat
  · simp [BitVec.lt_def, h, Nat.max_eq_right (Nat.le_of_lt h)]
  · simp [BitVec.lt_def, h, Nat.max_eq_left (Nat.not_lt.1 h)]

/-- A value of 32 bits in a register is those bits again. -/
theorem lo_setWidth (x : BitVec 32) : lo (x.setWidth 64) = x := by
  simp [lo]

theorem sext32_setWidth (x : BitVec 32) : sext32 (x.setWidth 64) = x.signExtend 64 := congrArg (BitVec.signExtend 64) (lo_setWidth x)

theorem sext32_add (x y : Word64) : sext32 (x + y) = (lo x + lo y).signExtend 64 := by
  simp [sext32, lo, BitVec.setWidth_add]

theorem sext32_sub (x y : Word64) : sext32 (x - y) = (lo x - lo y).signExtend 64 := by
  refine congrArg (BitVec.signExtend 64) (BitVec.eq_of_toNat_eq ?_)
  simp only [lo, BitVec.toNat_setWidth, BitVec.toNat_sub]
  omega

theorem sext32_mul (x y : Word64) : sext32 (x * y) = (lo x * lo y).signExtend 64 := by
  simp [sext32, lo, BitVec.setWidth_mul]

theorem sext32_shiftLeft (x : Word64) (k : Nat) : sext32 (lo32 x <<< k) = (lo x <<< k).signExtend 64 := by
  refine congrArg (BitVec.signExtend 64) (BitVec.eq_of_getLsbD_eq fun i hi => ?_)
  simp [lo32, lo, hi]

theorem sext32_ushiftRight (x : Word64) (k : Nat) : sext32 (lo32 x >>> k) = (lo x >>> k).signExtend 64 := by
  refine congrArg (BitVec.signExtend 64) (BitVec.eq_of_getLsbD_eq fun i hi => ?_)
  simp only [lo32, lo, BitVec.getLsbD_setWidth, BitVec.getLsbD_ushiftRight, hi, decide_true, Bool.true_and]
  by_cases hk : k + i < 32
  · have h64 : k + i < 64 := by omega
    simp [hk, h64]
  · simp [hk]

/-- The upper immediate: the signed value times 2^16 (R203). -/
theorem upper_immediate (imm : BitVec 16) : (imm.signExtend 64) <<< 16 = BitVec.ofInt 64 (imm.toInt * 0x10000) := by
  rw [BitVec.signExtend, BitVec.shiftLeft_eq_mul_twoPow, BitVec.ofInt_mul]
  rfl

/-! ## The rows (R201 to R205) -/

theorem logic_rows : WLogic := fun _ _ _ _ _ _ _ _ h =>
  ⟨wResult_of_issues h .., wResult_of_issues h .., wResult_of_issues h .., wResult_of_issues h .., wResult_of_issues h ..,
    wResult_of_issues h .., wResult_of_issues h .., wResult_of_issues h .., wResult_of_issues h .., wResult_of_issues h ..⟩

/-- A row that writes one general register completes with what its value comes to. -/
theorem row_of_value {z s : State} {n : Fin 24} {fr : Front} {fe : List Nat} {d : Fin 32} {c : Instr} {x : Word64} (h : Issues z n fr fe s)
    (v : State → Word64) (hv : v s = x) (hc : exec c z = wResult n d v fr z) : exec c z = .next (wPut fe s n d x) := by
  rw [hc, wResult_of_issues h, hv]

theorem compare_rows : WCompare := fun _ _ _ _ _ _ _ _ h =>
  ⟨row_of_value h _ (slt_eq_toInt_lt ..) rfl, wResult_of_issues h .., row_of_value h _ (min_signed ..) rfl,
    row_of_value h _ (max_signed ..) rfl, row_of_value h _ (min_unsigned ..) rfl, row_of_value h _ (max_unsigned ..) rfl⟩

theorem word_rows : WWords := fun _ _ _ _ _ _ _ _ h =>
  ⟨row_of_value h _ (sext32_add ..) rfl, row_of_value h _ (sext32_sub ..) rfl, row_of_value h _ (sext32_shiftLeft ..) rfl,
    row_of_value h _ (sext32_ushiftRight ..) rfl, row_of_value h _ (by simp [sext32_setWidth, lo32, lo, sh5]) rfl,
    row_of_value h _ (sext32_setWidth _) rfl, row_of_value h _ (sext32_mul ..) rfl⟩

theorem count_rows : WCount := fun _ _ _ _ _ _ _ h => ⟨wResult_of_issues h .., wResult_of_issues h .., wResult_of_issues h ..⟩

theorem product_rows : WProducts := fun _ _ _ _ _ _ _ _ h =>
  ⟨wResult_of_issues h .., wResult_of_issues h .., wResult_of_issues h .., wResult_of_issues h ..⟩

theorem immediate_rows : WImmediates := fun _ _ _ _ _ _ _ _ h =>
  ⟨wResult_of_issues h .., wResult_of_issues h .., row_of_value h _ (slt_eq_toInt_lt ..) rfl, wResult_of_issues h ..,
    wResult_of_issues h .., wResult_of_issues h .., wResult_of_issues h .., row_of_value h _ (upper_immediate _) rfl,
    row_of_value h _ (congrArg _ (upper_immediate _)) rfl⟩

theorem shiftImmediate_rows : WShiftImm := fun _ _ _ _ _ _ _ _ h =>
  ⟨wResult_of_issues h .., wResult_of_issues h .., wResult_of_issues h .., wResult_of_issues h ..,
    row_of_value h _ (sext32_shiftLeft ..) rfl, row_of_value h _ (sext32_ushiftRight ..) rfl, row_of_value h _ (sext32_setWidth _) rfl⟩

/-! ## Registers, counts and high products -/

/-- Writing a register of one core leaves those of every other. -/
theorem getW_setW_other (s : State) {n m : Fin 24} (d r : Fin 32) (v : Word64) (h : m ≠ n) : getW (setW s n d v) m r = getW s m r := by
  unfold getW setW
  split
  · rfl
  · split
    · rfl
    · rw [core_updCore_other _ _ h]

theorem registers_readBack : WZero := by
  intro s n m d r v
  refine ⟨getW_zero s n, setW_zero s n v, ?_⟩
  by_cases hm : m = n
  · subst hm; simp [getW_setW]
  · simp [getW_setW_other _ _ _ _ hm, hm]

theorem bit_eq_testBit (x : Word64) (i : Nat) : bit x i = x.toNat.testBit i := rfl

/-- CLZ: every bit above the highest 1, which stands below the zeros. -/
theorem clz64_counts (x : Word64) :
    (clz64 x).toNat ≤ 64 ∧ (∀ i, i < (clz64 x).toNat → bit x (63 - i) = false) ∧ ((clz64 x).toNat < 64 → bit x (63 - (clz64 x).toNat) = true) := by
  by_cases hx : x.toNat = 0
  · have hz : (clz64 x).toNat = 64 := by simp [clz64, hx]
    simp [hz, bit_eq_testBit, hx]
  · have hlog : Nat.log2 x.toNat < 64 := (Nat.log2_lt hx).2 x.isLt
    have hc : (clz64 x).toNat = 63 - Nat.log2 x.toNat := by
      simp only [clz64, if_neg hx, BitVec.toNat_ofNat]; omega
    refine ⟨by omega, fun i hi => ?_, fun _ => ?_⟩
    · exact Nat.testBit_lt_two_pow ((Nat.log2_lt hx).1 (by omega))
    · rw [bit_eq_testBit, hc, Nat.sub_sub_self (by omega)]
      exact Nat.testBit_log2 hx

/-- The zeros below the lowest 1 among the low `k` bits. -/
theorem ctzN_counts (k x : Nat) :
    ctzN k x ≤ k ∧ (∀ i, i < ctzN k x → x.testBit i = false) ∧ (ctzN k x < k → x.testBit (ctzN k x) = true) := by
  induction k generalizing x with
  | zero => simp [ctzN]
  | succ k ih =>
    obtain ⟨hle, hzeros, hone⟩ := ih (x / 2)
    by_cases hx : x % 2 = 1
    · simp [ctzN, hx]
    · have hc : ctzN (k + 1) x = ctzN k (x / 2) + 1 := by simp [ctzN, hx, Nat.add_comm]
      rw [hc]
      refine ⟨by omega, fun i hi => ?_, fun h => ?_⟩
      · cases i with
        | zero => simp [hx]
        | succ i => rw [Nat.testBit_succ]; exact hzeros i (by omega)
      · rw [Nat.testBit_succ]; exact hone (by omega)

theorem ctz64_toNat (x : Word64) : (ctz64 x).toNat = ctzN 64 x.toNat := by
  have := (ctzN_counts 64 x.toNat).1
  rw [ctz64, BitVec.toNat_ofNat, Nat.mod_eq_of_lt (by omega)]

/-- POPC counts the positions of the 1 bits. -/
theorem popN_counts (k x : Nat) : popN k x = ((List.range k).filter fun i => x.testBit i).length := by
  induction k generalizing x with
  | zero => rfl
  | succ k ih =>
    have hhead : x % 2 = (x.testBit 0).toNat := by rw [Nat.toNat_testBit]; simp
    rw [popN, ih, List.range_succ_eq_map, List.filter_cons, hhead, List.filter_map, ]
    have htail : ((List.range k).filter ((fun i => x.testBit i) ∘ Nat.succ)) = (List.range k).filter fun i => (x / 2).testBit i :=
      List.filter_congr fun i _ => Nat.testBit_succ ..
    rw [htail]
    cases x.testBit 0 <;> simp [Nat.add_comm]

theorem counts_follow : CountsFollow := by
  intro x
  obtain ⟨hclz, hzeros, hone⟩ := clz64_counts x
  obtain ⟨hctz, hlow, hlowOne⟩ := ctzN_counts 64 x.toNat
  rw [ctz64_toNat]
  refine ⟨hclz, hctz, hzeros, hone, hlow, hlowOne, ?_⟩
  have hle : popN 64 x.toNat ≤ 64 := by
    rw [popN_counts]; exact (List.length_filter_le ..).trans_eq List.length_range
  rw [popc64, BitVec.toNat_ofNat, Nat.mod_eq_of_lt (by omega), popN_counts]
  rfl

/-- The high half of the product of a signed 64-bit value and one of 64 bits, signed or not, is within the signed range. -/
theorem mulHigh_toInt {a b : Int} (ha : a.natAbs ≤ 2 ^ 63) (hb : b.natAbs < 2 ^ 64) : (mulHigh a b).toInt = a * b / 2 ^ 64 := by
  have hprod : (a * b).natAbs < 2 ^ 127 := by
    rw [Int.natAbs_mul]
    exact Nat.lt_of_lt_of_eq (Nat.mul_lt_mul_of_le_of_lt ha hb (by decide)) (by decide)
  rw [mulHigh, BitVec.toInt_ofInt, Int.bmod_eq_of_le] <;> omega

theorem toInt_natAbs_le (x : Word64) : x.toInt.natAbs ≤ 2 ^ 63 := by
  have hle := BitVec.le_toInt x
  have hlt := BitVec.toInt_lt (x := x)
  omega

theorem highProducts_follow : HighProductsFollow := by
  intro x y
  refine ⟨mulHigh_toInt (toInt_natAbs_le x) (Nat.lt_of_le_of_lt (toInt_natAbs_le y) (by decide)), ?_,
    mulHigh_toInt (toInt_natAbs_le x) y.isLt⟩
  have hprod : x.toNat * y.toNat < 2 ^ 64 * 2 ^ 64 := Nat.mul_lt_mul'' x.isLt y.isLt
  have hhigh : (x.toNat : Int) * y.toNat / 2 ^ 64 = ((x.toNat * y.toNat / 2 ^ 64 : Nat) : Int) := by simp
  rw [mulHigh, hhigh, BitVec.ofInt_natCast, BitVec.toNat_ofNat, Nat.mod_eq_of_lt (by omega)]

/-- Settles O55: each row by the value it writes, and what the counts and the high products are. -/
theorem winovarIntegers : Obligations.WinovarIntegers :=
  ⟨logic_rows, compare_rows, word_rows, count_rows, product_rows, immediate_rows, shiftImmediate_rows, registers_readBack, counts_follow,
    highProducts_follow⟩

end Sys2Proof.Machine
end

section
/-!
PROOFS. The operations behind the point of coherence (R259 to R317) leave the record of every core as it was.
-/

namespace Sys2Proof.Machine

/-! ## Records of errors and calibration -/

@[simp] theorem recInternal_cores (s : State) (p : Page) (code detail : Nat) : (recInternal s p code detail).cores = s.cores := recordErr_cores ..

@[simp] theorem recCorrected_cores (s : State) (p : Page) (code : Nat) (a : Attr) (detail : Nat) :
    (recCorrected s p code a detail).cores = s.cores := recordErr_cores ..

@[simp] theorem recUnstated_cores (s : State) (p : Page) (cls : Nat) (own : Bool) : (recUnstated s p cls own).cores = s.cores := by
  unfold recUnstated
  dsimp only
  split
  · rfl
  · rw [recordErr_cores]; rfl

@[simp] theorem ferrLog_cores (s : State) (m : Master) (a : Attr) (op : ReqOp) (addr : Nat) (k : Kind) : (ferrLog s m a op addr k).cores = s.cores := by
  unfold ferrLog
  dsimp only
  split <;> simp

@[simp] theorem setRankByte_cores (s : State) (pr v : Nat) : (setRankByte s pr v).cores = s.cores := by
  unfold setRankByte calPut
  split <;> simp [epWrite]

/-! ## DRAM (R291 to R312) -/

@[simp] theorem decodeLine_cores (s : State) (x : Line × Bool) (e : LineErr) : (decodeLine s x e).1.cores = s.cores := by
  unfold decodeLine
  split
  · rfl
  · split
    · rfl
    · split <;> rfl

@[simp] theorem noteCE_cores (s : State) (pr la : Nat) (a : Attr) : (noteCE s pr la a).cores = s.cores := by simp [noteCE]

@[simp] theorem noteUE_cores (s : State) (pr n la code : Nat) (a : Attr) (did : Nat) : (noteUE s pr n la code a did).cores = s.cores := by
  simp [noteUE]

@[simp] theorem correctLine_cores (s : State) (pr n la : Nat) (v : Line) (a : Attr) : (correctLine s pr n la v a).cores = s.cores := by
  unfold correctLine
  rw [noteCE_cores]
  split <;> simp

@[simp] theorem restoreMode_cores (s : State) : (restoreMode s).cores = s.cores := by
  unfold restoreMode
  split <;> simp [setMode]

@[simp] theorem dmcFollow_cores (s : State) : (dmcFollow s).cores = s.cores := by
  unfold dmcFollow
  dsimp only
  rw [wrB_cores]
  split <;> simp

@[simp] theorem degrade_cores (s : State) (l : Nat) : (degrade s l).cores = s.cores := by simp [degrade]

@[simp] theorem reqMigration_cores (s : State) (l : Nat) : (reqMigration s l).cores = s.cores := by
  unfold reqMigration
  split
  · rfl
  · split <;> simp

@[simp] theorem ceLimit_cores (s : State) (pr l : Nat) : (ceLimit s pr l).cores = s.cores := by
  unfold ceLimit
  dsimp only
  split <;> simp

@[simp] theorem stopBist_cores (s : State) : (stopBist s).cores = s.cores := by
  unfold stopBist
  split <;> simp

@[simp] theorem startMigration_cores (s : State) (l : Nat) : (startMigration s l).cores = s.cores := by
  unfold startMigration
  dsimp only
  split
  · simp only [setIrq_cores, dmcFollow_cores, setMode, wrB_cores, setRankByte_cores, setSpare, wrF_cores]
    split <;> simp
  · simp

@[simp] theorem abortMigration_cores (s : State) : (abortMigration s).cores = s.cores := by
  unfold abortMigration
  split <;> simp [setSpare]

@[simp] theorem readLine_cores (s : State) (la : Nat) (out : LineErr) (a : Attr) : (readLine s la out a).1.cores = s.cores := by
  unfold readLine
  dsimp only
  split
  · dsimp only; split <;> simp
  · split
    · dsimp only; split <;> simp
    · simp

theorem readNow_cores {s : State} {a : Attr} {master la : Nat} {out : LineErr} {x : State × Line × Bool} (h : readNow s a master la out = some x) :
    x.1.cores = s.cores := by
  unfold readNow at h
  dsimp only at h
  split at h
  · cases h
  · cases h; simp [touchRank]

@[simp] theorem acceptDreq_cores (s : State) (id : Nat) : (acceptDreq s id).cores = s.cores := by
  unfold acceptDreq
  split
  · split <;> simp [updPanic]
  · rfl

/-! ## The system cache (R259 to R278) -/

@[simp] theorem setWayBit_cores (s : State) (lo w : Nat) (x : Bool) : (setWayBit s lo w x).cores = s.cores := by
  unfold setWayBit
  split <;> simp

@[simp] theorem installLine_cores (s : State) (slot la : Nat) (data : Line) (dirty poison : Bool) :
    (installLine s slot la data dirty poison).cores = s.cores := by
  unfold installLine
  split
  · simp [putLine]
  · split <;> rfl

@[simp] theorem scParity_cores (s : State) (slot : Nat) (a : Attr) (par : Bool) : (scParity s slot a par).cores = s.cores := by
  unfold scParity
  dsimp only
  split
  · rfl
  · split <;> simp [putLine, dropLine]

@[simp] theorem scAllocate_cores (s : State) (a : Attr) (master la slot : Nat) (vpar : Bool) :
    (scAllocate s a master la slot vpar).cores = s.cores := by
  have hpar := scParity_cores s slot a vpar
  unfold scAllocate
  dsimp only
  split
  · split <;> exact hpar
  · exact hpar

@[simp] theorem scSettle_cores (s : State) (slot la : Nat) (data : Line) (dirty poison : Bool) :
    (scSettle s slot la data dirty poison).cores = s.cores := by
  unfold scSettle
  split
  · rfl
  · simp [updResvs]

@[simp] theorem scWriteHit_cores (s : State) (slot : Nat) (data be : Line) (poison : Bool) (a : Attr) (master : Nat) (txn : Option Nat) :
    (scWriteHit s slot data be poison a master txn).1.cores = s.cores := by
  unfold scWriteHit
  dsimp only
  split <;> rfl

/-- The state of a lookup that does not wait satisfies `P`. -/
def ScLook.All (P : State → Prop) : ScLook → Prop
  | .wait => True
  | .hit s _ => P s
  | .miss s _ => P s

theorem scMiss_cores (s : State) (a : Attr) (master la : Nat) (vpar : Bool) : (scMiss s a master la vpar).All fun t => t.cores = s.cores := by
  unfold scMiss
  split
  · exact rfl
  · split
    · trivial
    · exact scAllocate_cores ..

theorem scLook_cores (s : State) (a : Attr) (master la : Nat) (isW par vpar : Bool) :
    (scLook s a master la isW par vpar).All fun t => t.cores = s.cores := by
  unfold scLook
  split
  · trivial
  · split
    · exact scMiss_cores ..
    · next slot _ =>
      have hpar := scParity_cores s slot a par
      dsimp only
      split
      · trivial
      · split
        · have hmiss := scMiss_cores (scParity s slot a par) a master la vpar
          rwa [hpar] at hmiss
        · split
          · exact Eq.trans (by split <;> rfl) hpar
          · exact hpar

@[simp] theorem sendOwn_cores (s : State) (a : Attr) (master la : Nat) (slot : Option Nat) : (sendOwn s a master la slot).cores = s.cores := by
  unfold sendOwn
  rw [acceptDreq_cores]
  rfl

/-- The state of an operation that is done, with what it answers, or has to wait, satisfies `P`. -/
def EitherWay {α : Type} (st : α → State) (P : State → Prop) : Except State α → Prop
  | .ok x => P (st x)
  | .error s => P s

@[simp] theorem takeOwn_cores (s : State) (r : DReq) (slot : Option Nat) : (takeOwn s r slot).1.cores = s.cores := by
  unfold takeOwn
  dsimp only
  split <;> simp [dropDreq]

theorem pocReadLine_cores (s : State) (a : Attr) (master la : Nat) (par vpar : Bool) (out : LineErr) :
    EitherWay Prod.fst (fun t => t.cores = s.cores) (pocReadLine s a master la par vpar out) := by
  unfold pocReadLine
  split
  · exact takeOwn_cores ..
  · have hlook := scLook_cores s a master la false par vpar
    split
    · exact rfl
    · next h => rw [h] at hlook; exact hlook
    · next h =>
      rw [h] at hlook
      split
      · next hx => exact (scSettle_cores ..).trans ((readNow_cores hx).trans hlook)
      · next hx => exact (readNow_cores hx).trans hlook
      · exact (sendOwn_cores ..).trans hlook

theorem pocWriteLine_cores (s : State) (a : Attr) (master la : Nat) (data be : Line) (poison par vpar : Bool) (out : LineErr) :
    EitherWay id (fun t => t.cores = s.cores) (pocWriteLine s a master la data be poison par vpar out) := by
  unfold pocWriteLine
  dsimp only
  split
  · exact scSettle_cores ..
  · exact rfl
  · have hlook := scLook_cores s a master la true par vpar
    split
    · exact rfl
    · next h => rw [h] at hlook; exact (scWriteHit_cores ..).trans hlook
    · next h => rw [h] at hlook; exact hlook
    · next h =>
      rw [h] at hlook
      split
      · exact (scSettle_cores ..).trans hlook
      · split
        · next hx => exact (scSettle_cores ..).trans ((readNow_cores hx).trans hlook)
        · exact (sendOwn_cores ..).trans hlook

/-! ## On-chip SRAM (R281 to R286) -/

@[simp] theorem sramFinding_cores (s : State) (a : Attr) (g : Nat) (ce ue : Bool) : (sramFinding s a g ce ue).cores = s.cores := by
  unfold sramFinding
  split
  · simp
  · split <;> simp

@[simp] theorem sramFindings_cores (s : State) (a : Attr) (l : List Nat) (ce ue : BitVec 8) : (sramFindings s a l ce ue).cores = s.cores :=
  foldl_frame State.cores _ (fun _ _ => sramFinding_cores ..) _ _

@[simp] theorem portRead_cores (s : State) (p : Nat) (a : Attr) (addr n : Nat) (ce ue : BitVec 8) : (portRead s p a addr n ce ue).1.cores = s.cores :=
  sramFindings_cores ..

@[simp] theorem sramWrite_cores (s : State) (a : Attr) (addr n mask data : Nat) (poison : Bool) (ce ue : BitVec 8) :
    (sramWrite s a addr n mask data poison ce ue).cores = s.cores := by
  have hmark : ∀ (t : State) (g : Nat) (c : Prop) [Decidable c] (b : SMap Bool),
      (if c then { t with sram := { t.sram with bad := b } } else t).cores = t.cores := fun t g c _ b => by split <;> rfl
  refine (setSramBytes_frame State.cores (fun _ _ _ => rfl) ..).trans ?_
  exact (foldl_frame State.cores _ (fun t g => hmark t g _ _) _ _).trans (sramFindings_cores ..)

@[simp] theorem portWrite_cores (s : State) (p : Nat) (a : Attr) (addr n mask data : Nat) (poison : Bool) (ce ue : BitVec 8) :
    (portWrite s p a addr n mask data poison ce ue).cores = s.cores := sramWrite_cores ..

@[simp] theorem confCount_cores (s : State) (m b k : Nat) : (confCount s m b k).cores = s.cores := by
  refine foldl_frame State.cores _ (fun t i => ?_) _ _
  dsimp only
  split <;> simp

end Sys2Proof.Machine
end

section
/-!
PROOFS. What the fetch of an instruction, the loads ahead of it and its wrong path leave (R170, R239, R245): every register and pc of every core and
its older stores; a wrong path leaves the memories too.
-/

namespace Sys2Proof.Machine

/-! ## What is left -/

/-- What an instruction reads of a core, and the stores that it has made before. -/
def visible (c : CoreRec) : CoreRun × SMap Word64 × SMap Word64 × Word64 × SMap Word64 × List StoreEnt × List (Nat × Nat) :=
  (c.run, c.w, c.f, c.pc, c.sys, c.sb, c.cops)

/-- Every core keeps what an instruction reads of it. -/
structure LeavesRegs (s t : State) : Prop where
  same : ∀ m, visible (core t m) = visible (core s m)

namespace LeavesRegs

variable {s t u : State}

theorem refl (s : State) : LeavesRegs s s := ⟨fun _ => rfl⟩
theorem trans (h : LeavesRegs s t) (h' : LeavesRegs t u) : LeavesRegs s u := ⟨fun m => (h'.same m).trans (h.same m)⟩

theorem run (h : LeavesRegs s t) (m : Fin 24) : (core t m).run = (core s m).run := congrArg (·.1) (h.same m)
theorem pc (h : LeavesRegs s t) (m : Fin 24) : (core t m).pc = (core s m).pc := congrArg (·.2.2.2.1) (h.same m)
theorem sb (h : LeavesRegs s t) (m : Fin 24) : (core t m).sb = (core s m).sb := congrArg (·.2.2.2.2.2.1) (h.same m)
theorem cops (h : LeavesRegs s t) (m : Fin 24) : (core t m).cops = (core s m).cops := congrArg (·.2.2.2.2.2.2) (h.same m)

theorem getW (h : LeavesRegs s t) (m : Fin 24) (r : Fin 32) : getW t m r = getW s m r := by
  unfold Machine.getW; rw [show (core t m).w = (core s m).w from congrArg (·.2.1) (h.same m)]

theorem getFr (h : LeavesRegs s t) (m : Fin 24) (r : Fin 32) : getFr t m r = getFr s m r := by
  unfold Machine.getFr; rw [show (core t m).f = (core s m).f from congrArg (·.2.2.1) (h.same m)]

theorem sysr (h : LeavesRegs s t) (m : Fin 24) (k : Nat) : sysr t m k = sysr s m k := by
  unfold Machine.sysr; rw [show (core t m).sys = (core s m).sys from congrArg (·.2.2.2.2.1) (h.same m)]

theorem of_cores (h : t.cores = s.cores) : LeavesRegs s t := ⟨fun m => congrArg visible (core_congr h m)⟩

theorem of_updCore (s : State) (n : Fin 24) {f : CoreRec → CoreRec} (hf : ∀ c, visible (f c) = visible c) : LeavesRegs s (updCore s n f) := by
  refine ⟨fun m => ?_⟩
  by_cases hm : m = n
  · subst hm; rw [core_updCore]; exact hf _
  · rw [core_updCore_other _ _ hm]

end LeavesRegs

/-- A change of the values of a map, key by key, that keeps a part of each value keeps that part of every value that is read. -/
theorem getF_map_part {α β : Type} (part : α → β) (d : Nat → α) {g : Nat × α → Nat × α} (hkey : ∀ e, (g e).1 = e.1)
    (hval : ∀ e, part (g e).2 = part e.2) (m : SMap α) (k : Nat) : part (SMap.getF d (m.map g) k) = part (SMap.getF d m k) := by
  induction m with
  | nil => rfl
  | cons e r ih =>
    rw [List.map_cons, show g e = (e.1, (g e).2) from Prod.ext (hkey e) rfl]
    unfold SMap.getF
    split
    · exact hval e
    · exact ih

theorem LeavesRegs.of_map {s t : State} {g : Nat × CoreRec → Nat × CoreRec} (hkey : ∀ e, (g e).1 = e.1)
    (hval : ∀ e, visible (g e).2 = visible e.2) (h : t.cores = s.cores.map g) : LeavesRegs s t := by
  refine ⟨fun m => ?_⟩
  unfold core
  rw [h]
  exact getF_map_part visible _ hkey hval _ _

/-- Every core keeps what an instruction reads of it, and the memories keep their contents. -/
structure LeavesMem (s t : State) : Prop where
  regs : LeavesRegs s t
  sram : t.sram = s.sram
  dram : t.dram = s.dram

namespace LeavesMem

variable {s t u : State}

theorem refl (s : State) : LeavesMem s s := ⟨.refl s, rfl, rfl⟩

theorem trans (h : LeavesMem s t) (h' : LeavesMem t u) : LeavesMem s u :=
  ⟨h.regs.trans h'.regs, h'.sram.trans h.sram, h'.dram.trans h.dram⟩

theorem of_cores (hc : t.cores = s.cores) (hs : t.sram = s.sram) (hd : t.dram = s.dram) : LeavesMem s t := ⟨.of_cores hc, hs, hd⟩

theorem of_updCore (s : State) (n : Fin 24) {f : CoreRec → CoreRec} (hf : ∀ c, visible (f c) = visible c) : LeavesMem s (updCore s n f) :=
  ⟨.of_updCore s n hf, rfl, rfl⟩

end LeavesMem

/-- A relation that composes and holds wherever registers and memories are left. -/
structure Coarser (R : State → State → Prop) : Prop where
  of : ∀ {s t}, LeavesMem s t → R s t
  trans : ∀ {s t u}, R s t → R t u → R s u

theorem coarser_leavesMem : Coarser LeavesMem := ⟨id, LeavesMem.trans⟩
theorem coarser_leavesRegs : Coarser LeavesRegs := ⟨LeavesMem.regs, LeavesRegs.trans⟩

/-! ## Small operations of a core -/

theorem freeVal_leaves (w : Nat) (s : State) : LeavesMem s (freeVal w s).2 := .of_cores rfl rfl rfl

theorem recordErr_leaves (s : State) (p : Page) (code cls : Nat) (a : Attr) (detail did : Nat) :
    LeavesMem s (recordErr s p code cls a detail did) :=
  .of_cores (recordErr_cores ..) (recordErr_sram ..) (recordErr_dram ..)

theorem recInternal_leaves (s : State) (p : Page) (code detail : Nat) : LeavesMem s (recInternal s p code detail) := recordErr_leaves ..

theorem recFatal_leaves (s : State) (p : Page) (code detail : Nat) : LeavesMem s (recFatal s p code detail) := recordErr_leaves ..

theorem specCount_leaves (n : Fin 24) (ev k : Nat) (s : State) : LeavesMem s (specCount n ev k s) :=
  .of_cores (specCount_cores ..) (specCount_frame State.sram setIrq_sram wr_sram ..) (specCount_frame State.dram setIrq_dram wr_dram ..)

theorem holdMiss_leaves (s : State) (n : Fin 24) (la : Nat) : LeavesMem s (holdMiss s n la) := by
  unfold holdMiss
  split
  · exact .refl s
  · exact (specCount_leaves n 4 1 s).trans (.of_updCore _ n fun _ => rfl)

theorem clearEarly_leaves (s : State) (n : Fin 24) : LeavesMem s (clearEarly s n) := .of_updCore s n fun _ => rfl

theorem discardAhead_leaves (s : State) (n : Fin 24) : LeavesMem s (discardAhead s n) := by
  unfold discardAhead
  dsimp only
  split
  · exact clearEarly_leaves s n
  · exact (specCount_leaves n 1 _ s).trans ((specCount_leaves n 2 _ _).trans ((specCount_leaves n 3 _ _).trans (clearEarly_leaves _ n)))

theorem setL2_leaves (s : State) (w la : Nat) (x : L2Line) : LeavesMem s (setL2 s w la x) := .of_cores rfl rfl rfl

theorem visible_unreserve (c : CoreRec) (la : Nat) : visible (unreserve c la) = visible c := by
  unfold unreserve
  split <;> rfl

theorem dropL2_leaves (s : State) (w la : Nat) : LeavesMem s (dropL2 s w la) := by
  refine ⟨.of_map (fun e => ?_) (fun e => ?_) rfl, rfl, rfl⟩
  · dsimp only; split <;> rfl
  · dsimp only
    split
    · exact visible_unreserve ..
    · rfl

theorem fillL1_leaves (s : State) (n : Fin 24) (i : Bool) (la : Nat) : LeavesMem s (fillL1 s n i la) := by
  have hput : ∀ (t : State) (f : L1Cache → L1Cache), LeavesMem t (updL1 t n i f) := fun t f => .of_updCore t n fun c => by cases i <;> rfl
  unfold fillL1
  dsimp only
  split
  · exact .refl s
  · split
    · exact hput ..
    · exact (freeVal_leaves 2 s).trans (hput ..)

theorem l2Finding_leaves (s : State) (w la : Nat) (x : L2Line) (e : Fin 4) : LeavesMem s (l2Finding s w la x e).1 := by
  have hpoison : LeavesMem s (l2Poison s w la x) := (setL2_leaves s w la _).trans (recordErr_leaves ..)
  unfold l2Finding
  split
  · exact recInternal_leaves ..
  · split
    · split
      · exact hpoison
      · exact (dropL2_leaves s w la).trans (recInternal_leaves ..)
    · split
      · exact recFatal_leaves ..
      · exact .refl s

/-! ## A line in the L2 -/

/-- The state of every answer satisfies `P`. -/
def Got.All (P : State → Prop) : Got → Prop
  | .ok s _ _ => P s
  | .err s => P s
  | .wait s => P s

theorem Got.All.imp {P Q : State → Prop} {x : Got} (h : x.All P) (hpq : ∀ s, P s → Q s) : x.All Q := by
  cases x <;> exact hpq _ h

variable {R : State → State → Prop}

theorem obtain_all (hR : Coarser R) {n : Fin 24} {a : Attr} {op : ReqOp} {la : Nat} {env : MemEnv}
    (hmiss : ∀ t, (missL2 t n a false op la env).All (R t)) (s : State) : (obtain s n a false op la env).All (R s) := by
  unfold obtain
  dsimp only
  split
  · exact hmiss s
  · next x _ =>
    have hfound := hR.of (l2Finding_leaves s (clusterOfCore n) la x (envAt env la).l2)
    split
    · exact (hmiss _).imp fun t ht => hR.trans hfound ht
    · exact hfound

/-- A read that may be one of a wrong path is held where it misses the L2 (R240). -/
theorem missL2_held (s : State) (n : Fin 24) (a : Attr) (excl : Bool) (op : ReqOp) (la : Nat) (env : MemEnv) :
    (missL2 s n a excl op la { env with held := true }).All (LeavesMem s) := holdMiss_leaves s n la

theorem obtain_held (s : State) (n : Fin 24) (a : Attr) (op : ReqOp) (la : Nat) (env : MemEnv) :
    (obtain s n a false op la { env with held := true }).All (LeavesMem s) :=
  obtain_all coarser_leavesMem (fun t => missL2_held t n a false op la env) s

/-! ## Translation (R186 to R192) -/

/-- The state of every answer satisfies `P`. -/
def XR.All {α : Type} (P : State → Prop) : XR α → Prop
  | .ok s _ => P s
  | .exc s _ => P s
  | .wait s => P s

theorem XR.All.imp {α : Type} {P Q : State → Prop} {x : XR α} (h : x.All P) (hpq : ∀ s, P s → Q s) : x.All Q := by
  cases x <;> exact hpq _ h

theorem XR.All.bind {α β : Type} {P : State → Prop} {x : XR α} {f : State → α → XR β} (h : x.All P) (hf : ∀ s v, P s → (f s v).All P) :
    (x.bind f).All P := by
  cases x with
  | ok s v => exact hf s v h
  | exc s e => exact h
  | wait s => exact h

/-- One step after another, each of which keeps `R`. -/
theorem XR.All.step {α β : Type} (hR : Coarser R) {s : State} {x : XR α} {f : State → α → XR β} (h : x.All (R s))
    (hf : ∀ t v, (f t v).All (R t)) : (x.bind f).All (R s) :=
  h.bind fun t v ht => (hf t v).imp fun _ hu => hR.trans ht hu

theorem Coarser.ok {α : Type} (hR : Coarser R) (s : State) (v : α) : (XR.ok s v).All (R s) := hR.of (.refl s)

theorem walkStart_leaves (s : State) (n : Fin 24) (x : WalkEnt) (addr : Nat) : LeavesMem s (walkStart s n x addr).2 := by
  unfold walkStart
  split
  · dsimp only
    split
    · exact (freeVal_leaves 1 s).trans (.of_updCore _ n fun _ => rfl)
    · exact freeVal_leaves 1 s
  · exact .refl s

theorem tlbSmall_leaves (s : State) (n : Fin 24) (acc : Acc) (t : TlbEnt) : LeavesMem s (tlbSmall s n acc t) :=
  .of_updCore s n fun c => by split <;> rfl

theorem tlbPut_leaves (s : State) (n : Fin 24) (acc : Acc) (t : TlbEnt) : LeavesMem s (tlbPut s n acc t) :=
  LeavesMem.trans (.of_updCore s n (f := fun c => { c with tlb := tlbShared c.tlb t }) fun _ => rfl) (tlbSmall_leaves ..)

theorem walkPut_leaves (s : State) (n : Fin 24) (x : WalkEnt) : LeavesMem s (walkPut s n x) := .of_updCore s n fun _ => rfl

section
variable (hR : Coarser R) {n : Fin 24} {env : MemEnv} (hob : ∀ s a op la, (obtain s n a false op la env).All (R s))
include hR hob

theorem readEntry_all (s : State) (pe : Nat) : (readEntry s n pe env).All (R s) := by
  unfold readEntry
  split
  · exact hR.of (.refl s)
  · have hline := hob s (coreAttr s n env.cls) .read (pe / 64)
    split
    · next h => rw [h] at hline; exact hline
    · next h => rw [h] at hline; exact hline
    · next h =>
      rw [h] at hline
      split <;> exact hline

theorem walkFrom_all (x : WalkEnt) (addr : Nat) {pa : State → Nat → XR Nat} (hpa : ∀ s a, (pa s a).All (R s)) (k tbl : Nat) (s : State) :
    (walkFrom n x addr pa env k tbl s).All (R s) := by
  induction k generalizing tbl s with
  | zero =>
    unfold walkFrom
    refine .step hR (hpa _ _) fun t pe => .step hR (readEntry_all hR hob t pe) fun t r => ?_
    split
    · exact hR.of (.refl t)
    · split <;> exact hR.of (.refl t)
  | succ k ih =>
    unfold walkFrom
    refine .step hR (hpa _ _) fun t pe => .step hR (readEntry_all hR hob t pe) fun t r => ?_
    split
    · exact hR.of (.refl t)
    · split
      · exact hR.of (.refl t)
      · exact hR.of (.refl t)
      · exact (ih _ _).imp fun u hu => hR.trans (hR.of (walkPut_leaves ..)) hu

theorem walk_all (x : WalkEnt) (addr : Nat) {pa : State → Nat → XR Nat} (hpa : ∀ s a, (pa s a).All (R s)) (s : State) :
    (walk s n x addr pa env).All (R s) :=
  (walkFrom_all hR hob x addr hpa ..).imp fun _ ht => hR.trans (hR.of (walkStart_leaves ..)) ht

theorem stage2_all (s : State) (acc : Acc) (ea ipa : Nat) (s2w : Bool) : (stage2 s n acc ea ipa s2w env).All (R s) := by
  unfold stage2
  refine .step hR (walk_all hR hob _ _ (fun t pe => hR.ok t pe) s) fun t r => ?_
  split
  · exact hR.of (.refl t)
  · split <;> exact hR.of (.refl t)

theorem stage1_all (s : State) (lvl : Nat) (acc : Acc) (va : Nat) (x : WalkEnt) : (stage1 s n lvl acc va x env).All (R s) := by
  have hpa : ∀ (t : State) (pe : Nat),
      (if x.comb then (stage2 t n acc va pe true env).bind (fun s l => .ok s l.oa) else XR.ok t pe : XR Nat).All (R t) := by
    intro t pe
    split
    · exact .step hR (stage2_all hR hob ..) fun u _ => hR.ok u _
    · exact hR.of (.refl t)
  unfold stage1
  refine .step hR (walk_all hR hob _ _ hpa s) fun t r => ?_
  split
  · exact hR.of (.refl t)
  · split <;> exact hR.of (.refl t)

theorem walkAll_all (s : State) (lvl : Nat) (acc : Acc) (va : Nat) (hyp s1 s2 : Bool) (did asid : Nat) :
    (walkAll s n lvl acc va hyp s1 s2 did asid env).All (R s) := by
  have hstage : ∀ (t : State) (c : Bool) (y : XR Leaf), y.All (R t) →
      (if c then y.bind (fun s l => .ok s (some l)) else XR.ok t none : XR (Option Leaf)).All (R t) := by
    intro t c y hy
    split
    · exact .step hR hy fun u _ => hR.ok u _
    · exact hR.of (.refl t)
  unfold walkAll
  refine .step hR (hstage _ _ _ (stage1_all hR hob ..)) fun t l1 => ?_
  refine .step hR (hstage _ _ _ (stage2_all hR hob ..)) fun u l2 => ?_
  exact hR.of (tlbPut_leaves ..)

theorem translate_all (s : State) (va : Nat) (acc : Acc) : (translate s n va acc env).All (R s) := by
  unfold translate
  extract_lets lvl va
  split
  · exact hR.ok s _
  · split
    · exact hR.of (.refl s)
    · split
      · exact hR.ok s _
      · split
        · next t _ =>
          split
          · have hdrop : LeavesMem s (tlbDrop (freeVal 1 s).2 n t) := (freeVal_leaves 1 s).trans (.of_updCore _ n fun _ => rfl)
            exact (walkAll_all hR hob ..).imp fun _ hu => hR.trans (hR.of hdrop) hu
          · exact hR.of ((freeVal_leaves 1 s).trans (tlbSmall_leaves ..))
        · exact walkAll_all hR hob ..

end

/-- A translation that may be one of a wrong path leaves registers and memories. -/
theorem translate_held (s : State) (n : Fin 24) (va : Nat) (acc : Acc) (env : MemEnv) :
    (translate s n va acc { env with held := true }).All (LeavesMem s) :=
  translate_all coarser_leavesMem (fun s a op la => obtain_held s n a op la env) s va acc

/-! ## Wrong paths and loads performed ahead (R239, R240, R245) -/

theorem wrongTouch_leaves (s : State) (n : Fin 24) (acc : Acc) (va : Nat) (env : MemEnv) : LeavesMem s (wrongTouch s n acc va env) := by
  have hx := translate_held s n va acc env
  unfold wrongTouch
  split
  · next h =>
    rw [h] at hx
    split
    · exact hx
    · split
      · split
        · exact hx
        · exact LeavesMem.trans hx (fillL1_leaves ..)
      · exact LeavesMem.trans hx (holdMiss_leaves ..)
  · next h => rw [h] at hx; exact hx
  · next h => rw [h] at hx; exact hx

theorem predTrain_leaves (s : State) (n : Fin 24) (wrong : Bool) (tab pc v : Nat) : LeavesMem s (predTrain s n wrong tab pc v).1 := by
  unfold predTrain
  dsimp only
  split
  · exact .of_updCore s n fun _ => rfl
  · split
    · exact .of_updCore s n fun _ => rfl
    · split
      · exact (freeVal_leaves 6 s).trans (.of_updCore _ n fun _ => rfl)
      · exact freeVal_leaves 6 s

theorem wrongOne_leaves (n : Fin 24) (env : MemEnv) (s : State) (o : WrongOp) : LeavesMem s (wrongOne n env s o) := by
  have hcount : LeavesMem s (specCount n 2 1 (specCount n 1 1 s)) := (specCount_leaves n 1 1 s).trans (specCount_leaves n 2 1 _)
  refine hcount.trans ?_
  unfold wrongOne
  dsimp only
  split
  · exact (specCount_leaves n 3 1 _).trans (wrongTouch_leaves ..)
  · exact wrongTouch_leaves ..
  · split
    · exact (predTrain_leaves ..).trans (specCount_leaves ..)
    · exact predTrain_leaves ..
  · exact .refl _

/-- What a core executes on a wrong path leaves every register and pc, the older stores and the memories. -/
theorem wrongPath_leaves (s : State) (n : Fin 24) (f : Front) : LeavesMem s (wrongPath s n f) :=
  foldl_keep (P := LeavesMem s) (.refl s) fun t o ht => ht.trans (wrongOne_leaves n f.env t o)

theorem readAhead_leaves (n : Fin 24) (env : MemEnv) (s : State) (a : Ahead) : LeavesMem s (readAhead n env s a) := by
  have hx := translate_held s n (getW s n a.reg + a.imm.signExtend 64).toNat .read env
  unfold readAhead
  dsimp only
  split
  · exact .refl s
  · split
    · next h =>
      rw [h] at hx
      split
      · split
        · exact hx
        · exact LeavesMem.trans hx ((fillL1_leaves ..).trans (.of_updCore _ n fun _ => rfl))
      · split
        · exact LeavesMem.trans hx (holdMiss_leaves ..)
        · exact hx
    · exact .refl s
    · next h => rw [h] at hx; exact hx

theorem readsAhead_leaves (n : Fin 24) (env : MemEnv) (s : State) (l : List Ahead) : LeavesMem s (l.foldl (readAhead n env) s) :=
  foldl_keep (P := LeavesMem s) (.refl s) fun t a ht => ht.trans (readAhead_leaves n env t a)

end Sys2Proof.Machine
end

section
/-!
PROOFS. The fetch of an instruction leaves every register and pc of every core and its older stores (R170, R175, R248 to R253).
-/

namespace Sys2Proof.Machine

open Sys2Proof.Claims

/-! ## Bringing device time forward -/

theorem advanceTo_leavesRegs (s : State) (t : Nat) : LeavesRegs s (advanceTo s t) := by
  unfold advanceTo
  split
  · exact .refl s
  · refine .of_map (g := fun e => (e.1, { e.2 with done := 0 })) (fun _ => rfl) (fun _ => rfl) ?_
    refine congrArg (List.map _) ?_
    exact (foldl_frame State.cores _ (coreCycles_frame State.cores setIrq_cores wr_cores _ _) _ _).trans
      (foldl_frame State.cores _ (portCycles_frame State.cores wr_cores _ _) _ _)

/-! ## The point of coherence -/

/-- The state of every answer satisfies `P`. -/
def PocAns.All (P : State → Prop) : PocAns → Prop
  | .ok s _ _ => P s
  | .err s => P s
  | .wait s => P s

theorem setPort_leavesRegs (s : State) (m : Master) (w : Option PortWait) : LeavesRegs s (setPort s m w) := by
  unfold setPort
  split
  · split
    · exact .refl s
    · exact .of_updCore s _ fun _ => rfl
  · exact .refl s

theorem portTurn_leavesRegs {s t : State} {w : PortWait} {here : Bool} (h : portTurn s w here = some t) : LeavesRegs s t := by
  have hcome : LeavesRegs s (if here then advanceTo s (portUse s w.port).stop else s) := by
    split
    · exact advanceTo_leavesRegs ..
    · exact .refl s
  unfold portTurn at h
  extract_lets u at h
  split at h
  · cases h
  · exact Option.some.inj h ▸ hcome

theorem atOwnPort_leavesRegs (s : State) (m : Master) (a : Attr) (addr waited : Nat) {f : State → Nat → PocAns}
    (hf : ∀ t p, (f t p).All (LeavesRegs t)) : (atOwnPort s m a addr waited f).All (LeavesRegs s) := by
  unfold atOwnPort
  dsimp only
  split
  · next t ht =>
    have hserved := hf (setPort t m none) (ownPort s m a addr waited).1.port
    have hbefore := (portTurn_leavesRegs ht).trans (setPort_leavesRegs t m none)
    revert hserved
    generalize f (setPort t m none) (ownPort s m a addr waited).1.port = x
    cases x <;> exact hbefore.trans
  · have hwaits : ∀ k, LeavesRegs s
        (confCount (setPort s m (some (ownPort s m a addr waited).1)) (ownPort s m a addr waited).1.master (ownPort s m a addr waited).1.bank k) :=
      fun k => (setPort_leavesRegs ..).trans (.of_cores (confCount_cores ..))
    show LeavesRegs s (if _ then _ else _)
    split
    · exact .refl s
    · exact hwaits _

theorem coreFail_leavesRegs (s : State) (m : Master) (a : Attr) (op : ReqOp) (addr : Nat) (k : Kind) :
    (coreFail s m a op addr k).All (LeavesRegs s) := LeavesRegs.of_cores (ferrLog_cores ..)

theorem pocRead_leavesRegs (s : State) (m : Master) (a : Attr) (op : ReqOp) (addr len : Nat) (e : LineEnv) :
    (pocRead s m a op addr len e).All (LeavesRegs s) := by
  unfold pocRead
  split
  · exact coreFail_leavesRegs ..
  · split
    · exact LeavesRegs.refl s
    · split
      · split
        · exact coreFail_leavesRegs ..
        · have hline := pocReadLine_cores s a (masterCode m) (addr / 64) e.par e.vpar e.out
          split
          · next h => rw [h] at hline; exact LeavesRegs.of_cores hline
          · next h => rw [h] at hline; exact LeavesRegs.of_cores hline
      · split
        · exact coreFail_leavesRegs ..
        · exact atOwnPort_leavesRegs _ _ _ _ _ fun t p => LeavesRegs.of_cores (portRead_cores ..)

theorem pocWrite_leavesRegs (s : State) (m : Master) (a : Attr) (addr len mask data : Nat) (bad : Bool) (e : LineEnv) (wb : Bool) :
    (pocWrite s m a addr len mask data bad e wb).All (LeavesRegs s) := by
  unfold pocWrite
  split
  · exact coreFail_leavesRegs ..
  · split
    · exact LeavesRegs.refl s
    · split
      · split
        · exact coreFail_leavesRegs ..
        · have hline := pocWriteLine_cores s a (masterCode m) (addr / 64) (BitVec.ofNat 512 (data * 2 ^ (8 * (addr % 64))))
            (BitVec.ofNat 512 (mask * 2 ^ (8 * (addr % 64)))) bad e.par e.vpar e.out
          dsimp only
          split
          · next h => rw [h] at hline; exact LeavesRegs.of_cores hline
          · next h => rw [h] at hline; exact LeavesRegs.of_cores hline
      · split
        · exact coreFail_leavesRegs ..
        · exact atOwnPort_leavesRegs _ _ _ _ _ fun t p => LeavesRegs.of_cores (portWrite_cores ..)

/-! ## Filling the L2 (R250 to R253) -/

/-- An operation that is done or has to wait leaves what instructions read. -/
abbrev LeavesEither (s : State) : Except State State → Prop := EitherWay id (LeavesRegs s)

theorem LeavesEither.bind {s : State} {x : Except State State} {f : State → Except State State} (h : LeavesEither s x)
    (hf : ∀ t, LeavesEither t (f t)) : LeavesEither s (x.bind f) := by
  cases x with
  | error t => exact h
  | ok t =>
    have hnext := hf t
    show LeavesEither s (f t)
    revert hnext
    cases f t <;> exact LeavesRegs.trans h

theorem LeavesEither.map {s : State} {x : Except State State} {f : State → State} (h : LeavesEither s x) (hf : ∀ t, LeavesRegs t (f t)) :
    LeavesEither s (x.map f) := by
  cases x with
  | error t => exact h
  | ok t => exact LeavesRegs.trans h (hf t)

theorem LeavesEither.after {s t : State} {x : Except State State} (h : LeavesRegs s t) (hx : LeavesEither t x) : LeavesEither s x := by
  cases x <;> exact h.trans hx

theorem writeBack_leavesRegs (s : State) (n : Fin 24) (la : Nat) (x : L2Line) (e : LineEnv) : LeavesEither s (writeBack s n la x e) := by
  have hw := pocWrite_leavesRegs s (.core n) (wbAttr s n x) (64 * la) 64 (2 ^ 512 - 1) x.data.toNat x.poison e true
  unfold writeBack
  split
  · next h => rw [h] at hw; exact hw
  · next h => rw [h] at hw; exact hw
  · next h => rw [h] at hw; exact hw

theorem cleanLine_leavesRegs (s : State) (n : Fin 24) (la : Nat) (env : MemEnv) : LeavesEither s (cleanLine s n la env) := by
  refine foldl_keep (P := LeavesEither s) (LeavesRegs.refl s) fun x w hx => hx.bind fun t => ?_
  split
  · split
    · exact (writeBack_leavesRegs ..).map fun u => (setL2_leaves ..).regs
    · exact LeavesRegs.refl t
  · exact LeavesRegs.refl t

theorem dropLineAll_leaves (s : State) (la : Nat) : LeavesMem s (dropLineAll s la) :=
  foldl_keep (P := LeavesMem s) (.refl s) fun t w ht => ht.trans (dropL2_leaves t w la)

theorem dropOthers_leaves (s : State) (w la : Nat) : LeavesMem s (dropOthers s w la) :=
  foldl_keep (P := LeavesMem s) (.refl s) fun t v ht => ht.trans (by
    split
    · exact .refl t
    · exact dropL2_leaves t v la)

theorem pickVictim_leaves (s : State) (n : Fin 24) (l : List Nat) : LeavesMem s (pickVictim s n l).2 := freeVal_leaves 4 s

theorem filterRoom_leavesRegs (s : State) (n : Fin 24) (la : Nat) (env : MemEnv) : LeavesEither s (filterRoom s n la env) := by
  have hrec : LeavesRegs s (if (envAt env la).filt then recUnstated s .fabr fatal else s) := by
    split
    · exact .of_cores (recUnstated_cores ..)
    · exact .refl s
  unfold filterRoom
  extract_lets t set r
  split
  · exact hrec
  · have hpick : LeavesRegs s r.2 := hrec.trans (pickVictim_leaves ..).regs
    split
    · exact hpick
    · exact LeavesEither.after hpick ((cleanLine_leavesRegs ..).map fun u => (dropLineAll_leaves ..).regs)

theorem makeRoom_leavesRegs (s : State) (n : Fin 24) (w la : Nat) (env : MemEnv) : LeavesEither s (makeRoom s n w la env) := by
  unfold makeRoom
  extract_lets set r
  split
  · exact LeavesRegs.refl s
  · have hpick : LeavesRegs s r.2 := (pickVictim_leaves ..).regs
    split
    · exact hpick
    · split
      · exact hpick
      · refine LeavesEither.after hpick (LeavesEither.map ?_ fun u => (dropL2_leaves ..).regs)
        split
        · exact writeBack_leavesRegs ..
        · exact LeavesRegs.refl _

theorem fillL2_leavesRegs (s : State) (n : Fin 24) (a : Attr) (excl : Bool) (op : ReqOp) (la : Nat) (env : MemEnv) :
    (fillL2 s n a excl op la env).All (LeavesRegs s) := by
  have hroom : LeavesEither s ((filterRoom s n la env).bind fun s => makeRoom s n (clusterOfCore n) la env) :=
    (filterRoom_leavesRegs ..).bind fun t => makeRoom_leavesRegs ..
  have hput : ∀ (t : State) (y : L2Line), LeavesRegs t
      (setL2 (if excl then dropOthers t (clusterOfCore n) la else t) (clusterOfCore n) la y) := fun t y => by
    split
    · exact ((dropOthers_leaves ..).trans (setL2_leaves ..)).regs
    · exact (setL2_leaves ..).regs
  unfold fillL2
  extract_lets w
  split
  · next h => rw [h] at hroom; exact hroom
  · next t h =>
    rw [h] at hroom
    split
    · exact LeavesRegs.trans hroom (hput ..)
    · have hread := pocRead_leavesRegs t (.core n) a op (64 * la) 64 (envAt env la)
      split
      · next h => rw [h] at hread; exact LeavesRegs.trans hroom hread
      · next h => rw [h] at hread; exact LeavesRegs.trans hroom hread
      · next h => rw [h] at hread; exact LeavesRegs.trans hroom (LeavesRegs.trans hread (hput ..))

theorem missL2_leavesRegs (s : State) (n : Fin 24) (a : Attr) (excl : Bool) (op : ReqOp) (la : Nat) (env : MemEnv) :
    (missL2 s n a excl op la env).All (LeavesRegs s) := by
  unfold missL2
  split
  · exact (holdMiss_leaves s n la).regs
  · exact fillL2_leavesRegs ..

theorem obtain_leavesRegs (s : State) (n : Fin 24) (a : Attr) (op : ReqOp) (la : Nat) (env : MemEnv) :
    (obtain s n a false op la env).All (LeavesRegs s) := obtain_all coarser_leavesRegs (fun t => missL2_leavesRegs t ..) s

/-! ## The L1 and the fetch (R175, R248, R249) -/

theorem updL1_leaves (s : State) (n : Fin 24) (i : Bool) (f : L1Cache → L1Cache) : LeavesMem s (updL1 s n i f) :=
  .of_updCore s n fun c => by cases i <;> rfl

theorem l1Parity_leaves (s : State) (n : Fin 24) (i : Bool) (la : Nat) : LeavesMem s (l1Parity s n i la) := by
  unfold l1Parity
  split
  · exact .refl s
  · dsimp only
    split
    · exact (recInternal_leaves ..).trans ((updL1_leaves ..).trans ((updL1_leaves ..).trans (recInternal_leaves ..)))
    · exact (recInternal_leaves ..).trans (updL1_leaves ..)

theorem l1Line_leavesRegs (s : State) (n : Fin 24) (i : Bool) (la : Nat) (env : MemEnv) : (l1Line s n i la env).1.All (LeavesRegs s) := by
  unfold l1Line
  extract_lets bad hit t evs
  have hparity : LeavesRegs s t := by
    show LeavesRegs s (if bad then l1Parity s n i la else s)
    split
    · exact (l1Parity_leaves ..).regs
    · exact .refl s
  split
  · exact hparity
  · have hline := obtain_leavesRegs t n (coreAttr t n env.cls) (if i then .fetch else .read) la env
    split
    · next h =>
      rw [h] at hline
      refine hparity.trans (LeavesRegs.trans hline ?_)
      split
      · exact .refl _
      · exact (fillL1_leaves ..).regs
    · exact hline.imp fun u hu => hparity.trans hu

theorem takeServed_leaves (s : State) (n : Fin 24) (fetch : Bool) (lines : List Nat) : LeavesMem s (takeServed s n fetch lines).2 := by
  unfold takeServed
  dsimp only
  split
  · exact .of_updCore s n fun _ => rfl
  · exact .refl s

theorem putServed_leaves (s : State) (n : Fin 24) (fetch : Bool) (line : Nat) (evs : List Nat) : LeavesMem s (putServed s n fetch line evs) := by
  unfold putServed
  split
  · exact .refl s
  · exact .of_updCore s n fun _ => rfl

theorem fetchInstr_leavesRegs (s : State) (n : Fin 24) (env : MemEnv) : (fetchInstr s n env).All (LeavesRegs s) := by
  unfold fetchInstr
  extract_lets pc
  split
  · exact LeavesRegs.refl s
  · refine .step coarser_leavesRegs (translate_all coarser_leavesRegs (fun t a op la => obtain_leavesRegs t n a op la env) ..) fun t x => ?_
    split
    · exact LeavesRegs.refl t
    · split
      · extract_lets r
        have hserved : LeavesRegs t r.2 := (takeServed_leaves ..).regs
        have hline := l1Line_leavesRegs r.2 n true (x.pa / 64) env
        split
        · next h =>
          rw [h] at hline
          split <;> exact hserved.trans hline
        · next h => rw [h] at hline; exact hserved.trans hline
        · next h => rw [h] at hline; exact hserved.trans (LeavesRegs.trans hline (putServed_leaves ..).regs)
      · have hread := pocRead_leavesRegs t (.core n) (coreAttr t n env.cls) .fetch x.pa 4 (envAt env (x.pa / 64))
        split
        · next h =>
          rw [h] at hread
          split <;> exact hread
        · next h => rw [h] at hread; exact hread
        · next h => rw [h] at hread; exact hread

/-- The state in which an instruction executes has the registers of the one in which it was issued. -/
theorem fetched_leavesRegs {z s : State} {n : Fin 24} {fr : Front} {fe : List Nat} (h : fetched z n fr = some (s, fe)) : LeavesRegs z s := by
  unfold fetched at h
  split at h
  · cases h; exact (readsAhead_leaves ..).regs
  · have hfetch := fetchInstr_leavesRegs z n fr.env
    split at h
    · next hf =>
      rw [hf] at hfetch
      cases h
      exact LeavesRegs.trans hfetch (readsAhead_leaves ..).regs
    · cases h

theorem fetch_leaves : FetchLeaves := fun _ _ _ m _ _ r k h =>
  have hl := fetched_leavesRegs h
  ⟨hl.getW m r, hl.getFr m r, hl.sysr m k, hl.pc m, hl.run m, hl.sb m⟩

end Sys2Proof.Machine
end

section
/-!
PROOFS. What an instruction of a Winovar core changes beside memory: the counters, the predictors and what stands ahead of it, and the entry to a
level (R170 to R176, R235 to R239, R255 to R257).
-/

namespace Sys2Proof.Machine

open Sys2Proof.Claims

/-! ## Registers that count or report for a core -/

/-- The registers that a core's instructions write of themselves: the counters, the interrupt status and the error record of its page, and the
speculative counters and the interrupt status of its cluster's (R118, R255, R257). -/
def CountsFor (n : Fin 24) (p : Page) (off : Nat) : Prop :=
  (p = .wcc n ∧ off ∈ [0x010, 0x020, 0x024, 0x028, 0x02C, 0x064, 0x068, 0x06C, 0x070, 0x074]) ∨
    (p = .wc (Fin.ofNat 3 (n.val / 8)) ∧ off ∈ [0x010, 0x048, 0x04C])

theorem CountsFor.lt {n : Fin 24} {p : Page} {off : Nat} (h : CountsFor n p off) : off < 0x1000 := by
  rcases h with ⟨_, h⟩ | ⟨_, h⟩ <;> simp only [List.mem_cons, List.not_mem_nil, or_false] at h <;> omega

/-- A register of another page or at another offset reads as before. -/
theorem rd_wr_apart (s : State) {p q : Page} {off o : Nat} (v : Reg32) (ho : o < 0x1000) (hoff : off < 0x1000) (h : ¬ (q = p ∧ o = off)) :
    rd (wr s p off v) q o = rd s q o := rd_wr_other s v fun heq => h (pageAddr_inj ho hoff heq)

theorem rd_setIrq_apart (s : State) {p q : Page} {o : Nat} (mask : Nat) (ho : o < 0x1000) (h : ¬ (q = p ∧ o = 0x010)) :
    rd (setIrq s p mask) q o = rd s q o := rd_setIrq_other s mask fun heq => h (pageAddr_inj ho (by decide) heq)

/-! ## The rest of the state -/

/-- The state without the cores, the registers, the messages to the interrupt controller and the collector, and the place in the free values. -/
def restOf (s : State) : State := { s with cores := [], regs := [], ic := { s.ic with msgs := [] }, faultQ := [], freeCtr := 0 }

/-- States that agree in the rest differ only in what `restOf` leaves out. -/
theorem eq_of_restOf {s u : State} (h : restOf u = restOf s) :
    u = { s with cores := u.cores, regs := u.regs, ic := { s.ic with msgs := u.ic.msgs }, faultQ := u.faultQ, freeCtr := u.freeCtr } :=
  congrArg (fun t : State =>
    { t with cores := u.cores, regs := u.regs, ic := { t.ic with msgs := u.ic.msgs }, faultQ := u.faultQ, freeCtr := u.freeCtr }) h

/-- Bits that are set keep an interrupt line up. -/
theorem lineUp_wr_or (s : State) (p : Page) (m : Reg32) (h : lineUp s p = true) : lineUp (wr s p 0x010 (rd s p 0x010 ||| m)) p = true := by
  unfold lineUp at h ⊢
  rw [rd_wr, rd_wr_off _ _ _ (by decide)]
  simp only [decide_eq_true_eq] at h ⊢
  intro hzero
  rw [BitVec.and_comm, BitVec.and_or_distrib_left] at hzero
  exact h (by rw [BitVec.and_comm]; exact (BitVec.or_eq_zero_iff.1 hzero).1)

theorem setIrq_rest (s : State) (p : Page) (m : Nat) : restOf (setIrq s p m) = restOf s := by
  unfold setIrq
  split
  · unfold withLine
    dsimp only
    split
    · rfl
    · rfl
    · next hdown hup =>
      rw [lineUp_wr_or s p _ hdown] at hup
      cases hup
    · rfl
  · rfl

/-! ## What stays within a core -/

/-- A core without what its instructions may change of it. -/
def ownPart (c : CoreRec) : CoreRec :=
  { c with run := .held, w := [], f := [], pc := 0, sys := [], resv := none, keep := none, preds := [], hist := [], rets := [], early := [], served := [],
           entry := none, got := [], tried := none, xlats := [], heldAt := [], atPort := none, done := 0 }

/-- Nothing outside core `n` differs but what counts or reports for it, and of the core only what its instructions may change. -/
structure StaysWithin (n : Fin 24) (s u : State) : Prop where
  rest : restOf u = restOf s
  others : ∀ m, m ≠ n → core u m = core s m
  own : ownPart (core u n) = ownPart (core s n)
  regs : ∀ p off, off < 0x1000 → ¬ CountsFor n p off → rd u p off = rd s p off

namespace StaysWithin

variable {n : Fin 24} {s t u : State}

theorem refl (n : Fin 24) (s : State) : StaysWithin n s s := ⟨rfl, fun _ _ => rfl, rfl, fun _ _ _ _ => rfl⟩

theorem trans (h : StaysWithin n s t) (h' : StaysWithin n t u) : StaysWithin n s u where
  rest := h'.rest.trans h.rest
  others m hm := (h'.others m hm).trans (h.others m hm)
  own := h'.own.trans h.own
  regs p off ho hc := (h'.regs p off ho hc).trans (h.regs p off ho hc)

theorem of_updCore (n : Fin 24) (s : State) {f : CoreRec → CoreRec} (hf : ∀ c, ownPart (f c) = ownPart c) : StaysWithin n s (updCore s n f) where
  rest := rfl
  others _ hm := core_updCore_other s f hm
  own := by rw [core_updCore]; exact hf _
  regs _ _ _ _ := rfl

/-- A change of registers that count or report for the core, of messages and of the place in the free values. -/
theorem of_counts (hc : u.cores = s.cores) (hrest : restOf u = restOf s) (hregs : ∀ p off, off < 0x1000 → ¬ CountsFor n p off → rd u p off = rd s p off) :
    StaysWithin n s u := ⟨hrest, fun m _ => core_congr hc m, congrArg ownPart (core_congr hc n), hregs⟩

theorem wr {p : Page} {off : Nat} (hc : CountsFor n p off) (s : State) (v : Reg32) : StaysWithin n s (wr s p off v) :=
  of_counts rfl rfl fun _ _ ho hn => rd_wr_apart s v ho hc.lt fun ⟨hp, he⟩ => hn (hp ▸ he ▸ hc)

theorem setIrq {p : Page} (hc : CountsFor n p 0x010) (s : State) (m : Nat) : StaysWithin n s (setIrq s p m) :=
  of_counts (setIrq_cores ..) (setIrq_rest ..) fun _ _ ho hn => rd_setIrq_apart s m ho fun ⟨hp, he⟩ => hn (hp ▸ he ▸ hc)

theorem onlyCore (h : StaysWithin n s u) : OnlyCore s u n := by
  refine ⟨eq_of_restOf h.rest, h.others, fun p off hp hq ho => h.regs p off ho ?_, fun off ho h10 hc => h.regs _ off ho ?_, fun off ho hc => h.regs _ off ho ?_⟩
  · rintro (⟨hp', _⟩ | ⟨hq', _⟩)
    · exact hp hp'
    · exact hq hq'
  · rintro (⟨_, hm⟩ | ⟨hp, _⟩)
    · rcases List.mem_cons.1 hm with hm | hm
      · exact h10 hm
      · exact hc hm
    · cases hp
  · rintro (⟨hp, _⟩ | ⟨_, hm⟩)
    · cases hp
    · exact hc hm

theorem onlyOwn (h : StaysWithin n s u) : OnlyOwn s u n := by
  have hback := congrArg (fun c : CoreRec =>
    { c with
      run := (core u n).run, w := (core u n).w, f := (core u n).f, pc := (core u n).pc, sys := (core u n).sys, resv := (core u n).resv, keep := (core u n).keep
      preds := (core u n).preds, hist := (core u n).hist, rets := (core u n).rets, early := (core u n).early, served := (core u n).served
      entry := (core u n).entry, got := (core u n).got, tried := (core u n).tried, xlats := (core u n).xlats, heldAt := (core u n).heldAt
      atPort := (core u n).atPort, done := (core u n).done }) h.own
  exact hback

end StaysWithin

/-! ## What goes on beside the registers -/

/-- A core without its predictors, what stands ahead of it, what it holds for its instruction, and its count. -/
def asidePart (c : CoreRec) : CoreRec :=
  { c with keep := none, preds := [], hist := [], rets := [], early := [], served := [], entry := none, got := [], tried := none, xlats := [], heldAt := [],
           atPort := none, done := 0 }

/-- A change of core `n` that no instruction reads as a register, and of what counts or reports for it; its reservation stays. -/
structure Aside (n : Fin 24) (s u : State) : Prop where
  within : StaysWithin n s u
  leaves : LeavesMem s u
  resv : (core u n).resv = (core s n).resv

namespace Aside

variable {n : Fin 24} {s t u : State}

theorem refl (n : Fin 24) (s : State) : Aside n s s := ⟨.refl n s, .refl s, rfl⟩

theorem trans (h : Aside n s t) (h' : Aside n t u) : Aside n s u :=
  ⟨h.within.trans h'.within, h.leaves.trans h'.leaves, h'.resv.trans h.resv⟩

theorem of_updCore (n : Fin 24) (s : State) {f : CoreRec → CoreRec} (hf : ∀ c, asidePart (f c) = asidePart c) : Aside n s (updCore s n f) where
  within := .of_updCore n s fun c => show ownPart (asidePart (f c)) = ownPart (asidePart c) by rw [hf]
  leaves := .of_updCore s n fun c => show visible (asidePart (f c)) = visible (asidePart c) by rw [hf]
  resv := by rw [core_updCore]; exact show (asidePart (f (core s n))).resv = (asidePart (core s n)).resv by rw [hf]

theorem wr {p : Page} {off : Nat} (hc : CountsFor n p off) (s : State) (v : Reg32) : Aside n s (wr s p off v) :=
  ⟨.wr hc s v, .of_cores rfl rfl rfl, rfl⟩

theorem setIrq {p : Page} (hc : CountsFor n p 0x010) (s : State) (m : Nat) : Aside n s (setIrq s p m) :=
  ⟨.setIrq hc s m, .of_cores (setIrq_cores ..) (setIrq_sram ..) (setIrq_dram ..), congrArg CoreRec.resv (core_congr (setIrq_cores ..) n)⟩

theorem freeVal (n : Fin 24) (w : Nat) (s : State) : Aside n s (freeVal w s).2 :=
  ⟨.of_counts rfl rfl fun _ _ _ _ => rfl, freeVal_leaves w s, rfl⟩

theorem foldl {β : Type} {g : State → β → State} (hg : ∀ t x, Aside n t (g t x)) (l : List β) (s : State) : Aside n s (l.foldl g s) :=
  foldl_keep (P := Aside n s) (.refl n s) fun t x ht => ht.trans (hg t x)

end Aside

/-! ## Counters (R255 to R257) -/

theorem irq_countsFor_core (n : Fin 24) : CountsFor n (.wcc n) 0x010 := .inl ⟨rfl, by decide⟩
theorem irq_countsFor_cluster (n : Fin 24) : CountsFor n (.wc (Fin.ofNat 3 (n.val / 8))) 0x010 := .inr ⟨rfl, by decide⟩

theorem pmuAdd_aside {n : Fin 24} {off : Nat} (hc : CountsFor n (.wcc n) off) (s : State) (i k : Nat) : Aside n s (pmuAdd s n off i k) := by
  unfold pmuAdd
  dsimp only
  split
  · exact (Aside.wr hc s _).trans (.setIrq (irq_countsFor_core n) _ _)
  · exact .wr hc s _

theorem pmuCount_aside (l : Nat) (n : Fin 24) (k : Nat) (s : State) (ev : Nat) : Aside n s (pmuCount l n k s ev) := by
  have hcounter : ∀ i ∈ [0, 1, 2, 3], CountsFor n (.wcc n) (0x068 + 4 * i) := fun i hi => .inl ⟨rfl, by
    revert i; decide⟩
  unfold pmuCount
  split
  · refine List.foldlRecOn (motive := Aside n s) _ _ (.refl n s) fun t ht i hi => ht.trans ?_
    split
    · exact pmuAdd_aside (hcounter i hi) ..
    · exact .refl n t
  · exact .refl n s

theorem pmuEvent_aside (l : Nat) (n : Fin 24) (s : State) (ev : Nat) : Aside n s (pmuEvent l n s ev) := pmuCount_aside ..

theorem specCount_aside (n : Fin 24) (ev k : Nat) (s : State) : Aside n s (specCount n ev k s) := by
  have hcounter : ∀ i ∈ [0, 1], CountsFor n (.wc (Fin.ofNat 3 (n.val / 8))) (0x048 + 4 * i) := fun i hi => .inr ⟨rfl, by
    revert i; decide⟩
  unfold specCount
  refine List.foldlRecOn (motive := Aside n s) _ _ (.refl n s) fun t ht i hi => ht.trans ?_
  dsimp only
  split
  · split
    · exact (Aside.wr (hcounter i hi) t _).trans (.setIrq (irq_countsFor_cluster n) _ _)
    · exact .wr (hcounter i hi) t _
  · exact .refl n t

theorem pmuRetire_aside (l : Nat) (n : Fin 24) (evs : List Nat) (s : State) : Aside n s (pmuRetire l n evs s) := by
  unfold pmuRetire
  extract_lets t
  have hcount : Aside n s t := by
    show Aside n s (if _ then _ else _)
    split
    · exact pmuAdd_aside (.inl ⟨rfl, by decide⟩) ..
    · exact .refl n s
  have hevents : Aside n t ((2 :: evs).foldl (pmuEvent l n) t) := .foldl (pmuEvent_aside l n) _ t
  have hdone : ∀ v, Aside n v (updCore v n fun c => { c with done := c.done + 1 }) := fun v => .of_updCore n v fun _ => rfl
  exact hcount.trans (hevents.trans ((hdone _).trans (specCount_aside ..)))

/-! ## Predictors and what stands ahead (R235 to R239) -/

theorem clearGot_aside (s : State) (n : Fin 24) : Aside n s (clearGot s n) := .of_updCore n s fun _ => rfl

theorem clearEarly_aside (s : State) (n : Fin 24) : Aside n s (clearEarly s n) := .of_updCore n s fun _ => rfl

theorem discardAhead_aside (s : State) (n : Fin 24) : Aside n s (discardAhead s n) := by
  unfold discardAhead
  dsimp only
  split
  · exact clearEarly_aside s n
  · exact (specCount_aside n 1 _ s).trans ((specCount_aside n 2 _ _).trans ((specCount_aside n 3 _ _).trans (clearEarly_aside _ n)))

theorem predTrain_aside (s : State) (n : Fin 24) (wrong : Bool) (tab pc v : Nat) : Aside n s (predTrain s n wrong tab pc v).1 := by
  unfold predTrain
  dsimp only
  split
  · exact .of_updCore n s fun _ => rfl
  · split
    · exact .of_updCore n s fun _ => rfl
    · split
      · exact (Aside.freeVal n 6 s).trans (.of_updCore n _ fun _ => rfl)
      · exact .freeVal n 6 s

theorem brTrain_aside (s : State) (n : Fin 24) (tabs : List Nat) (npc : Word64) (f : Front) : Aside n s (brTrain s n tabs npc f) :=
  .foldl (fun t _ => predTrain_aside t ..) _ s

theorem pushRet_aside (s : State) (n : Fin 24) (pc : Word64) : Aside n s (pushRet s n pc) := .of_updCore n s fun _ => rfl

theorem popRet_aside (s : State) (n : Fin 24) : Aside n s (popRet s n).2 := by
  unfold popRet
  split
  · exact .refl n s
  · exact .of_updCore n s fun _ => rfl

theorem jalrMis_aside (s : State) (n : Fin 24) (ret : Bool) (npc : Word64) (f : Front) : Aside n s (jalrMis s n ret npc f).2 := by
  have hpop := popRet_aside s n
  unfold jalrMis
  split
  · split
    · next h => rw [h] at hpop; exact hpop
    · next h => rw [h] at hpop; exact hpop
  · exact .refl n s

end Sys2Proof.Machine
end

section
/-!
PROOFS. The entry to a level and synchronous exceptions of a Winovar core (R171 to R176).
-/

namespace Sys2Proof.Machine

open Sys2Proof.Claims

/-! ## System registers -/

theorem sysr_setSys_eq (s : State) (n : Fin 24) (j k : Nat) (v : Word64) : sysr (setSys s n j v) n k = if k = j then v else sysr s n k := by
  split
  · next h => rw [h, sysr_setSys]
  · next h => exact sysr_setSys_other s n v h

theorem lvlReg_ne_status (t i : Nat) (hi : i ≤ 4) : lvlReg t i ≠ 0x400 := by
  unfold lvlReg
  split
  · omega
  · split <;> omega

theorem lvlReg_inj (t : Nat) {i j : Nat} : lvlReg t i = lvlReg t j ↔ i = j := by
  unfold lvlReg
  split
  · omega
  · split <;> omega

theorem thrReg_ne_status (t : Nat) : thrReg t ≠ 0x400 := by
  unfold thrReg
  split <;> decide

/-- No register of a level is a threshold, but the lowest of level F's, which has none. -/
theorem lvlReg_ne_thrReg (t i : Nat) (hi : i ≤ 4) : lvlReg t i ≠ thrReg t := by
  unfold lvlReg thrReg
  split
  · omega
  · split <;> omega

/-! ## Entry (R171) -/

/-- The writes of an entry that depend on its cause (R171): of a stage-2 fault and of an interrupt. -/
def putCause (s : State) (n : Fin 24) (t : Nat) (egpa thr : Option Nat) : State :=
  let s := match egpa with
    | some a => setSys s n 0x805 (BitVec.ofNat 64 a)
    | none => s
  let s := setSys s n 0x400 (BitVec.ofNat 64 (t + 8))
  match thr with
  | some p => setSys s n (thrReg t) (BitVec.ofNat 64 p)
  | none => s

/-- What an entry saves (R171). -/
def putSaved (s : State) (n : Fin 24) (t old : Nat) (st epc cause eaddr : Word64) : State :=
  setSys (setSys (setSys (setSys s n (lvlReg t 1) (epc &&& ~~~(3 : Word64))) n (lvlReg t 2) (BitVec.ofNat 64 (fld st 0 4 + old * 2 ^ 8)))
    n (lvlReg t 3) cause) n (lvlReg t 4) eaddr

/-- A core goes on at a handler: the reservation is cleared, and what it held for the instruction goes (R171). -/
def enterAt (s : State) (n : Fin 24) (pc : Word64) : State :=
  updCore s n fun c => { c with resv := none, keep := none, tried := none, xlats := [], heldAt := [], atPort := none, pc := pc }

theorem enterLevel_eq (s : State) (n : Fin 24) (t : Nat) (epc cause eaddr : Word64) (egpa thr : Option Nat) (off : Nat) :
    enterLevel s n t epc cause eaddr egpa thr off =
      let u := putCause (putSaved (discardAhead s n) n t (threshold s n t) (sysr s n 0x400) epc cause eaddr) n t egpa thr
      enterAt u n (sysr u n (lvlReg t 0) + BitVec.ofNat 64 off) := rfl

theorem sysr_enterAt (s : State) (n : Fin 24) (pc : Word64) (k : Nat) : sysr (enterAt s n pc) n k = sysr s n k := by
  unfold sysr enterAt; rw [core_updCore]

theorem sysr_putSaved (s : State) (n : Fin 24) (t old : Nat) (st epc cause eaddr : Word64) (k : Nat) :
    sysr (putSaved s n t old st epc cause eaddr) n k =
      if k = lvlReg t 4 then eaddr else if k = lvlReg t 3 then cause else if k = lvlReg t 2 then BitVec.ofNat 64 (fld st 0 4 + old * 2 ^ 8)
      else if k = lvlReg t 1 then epc &&& ~~~(3 : Word64) else sysr s n k := by
  simp only [putSaved, sysr_setSys_eq]

theorem sysr_putCause (s : State) (n : Fin 24) (t : Nat) (egpa thr : Option Nat) (k : Nat) :
    sysr (putCause s n t egpa thr) n k =
      if thr.isSome ∧ k = thrReg t then BitVec.ofNat 64 (thr.getD 0) else if k = 0x400 then BitVec.ofNat 64 (t + 8)
      else if egpa.isSome ∧ k = 0x805 then BitVec.ofNat 64 (egpa.getD 0) else sysr s n k := by
  cases egpa <;> cases thr <;> simp [putCause, sysr_setSys_eq]

/-- What each system register reads after an entry. -/
theorem sysr_enterLevel (s : State) (n : Fin 24) (t : Nat) (epc cause eaddr : Word64) (egpa thr : Option Nat) (off k : Nat) :
    sysr (enterLevel s n t epc cause eaddr egpa thr off) n k =
      if thr.isSome ∧ k = thrReg t then BitVec.ofNat 64 (thr.getD 0) else if k = 0x400 then BitVec.ofNat 64 (t + 8)
      else if egpa.isSome ∧ k = 0x805 then BitVec.ofNat 64 (egpa.getD 0)
      else if k = lvlReg t 4 then eaddr else if k = lvlReg t 3 then cause
      else if k = lvlReg t 2 then BitVec.ofNat 64 (fld (sysr s n 0x400) 0 4 + threshold s n t * 2 ^ 8)
      else if k = lvlReg t 1 then epc &&& ~~~(3 : Word64) else sysr s n k := by
  rw [enterLevel_eq]
  dsimp only
  rw [sysr_enterAt, sysr_putCause, sysr_putSaved, (discardAhead_leaves s n).regs.sysr]

/-- STATUS after an entry to level T: the level, IE 0 and EG 1 (R171). -/
theorem status_enterLevel (s : State) (n : Fin 24) (t : Nat) (epc cause eaddr : Word64) (egpa thr : Option Nat) (off : Nat) :
    sysr (enterLevel s n t epc cause eaddr egpa thr off) n 0x400 = BitVec.ofNat 64 (t + 8) := by
  rw [sysr_enterLevel, if_neg fun h => thrReg_ne_status t h.2.symm, if_pos rfl]

theorem entered_status {s : State} {n : Fin 24} {t : Nat} (ht : t ≤ 3) (h : sysr s n 0x400 = BitVec.ofNat 64 (t + 8)) :
    level s n = t ∧ statusIE s n = false ∧ statusEG s n = true := by
  unfold level statusIE statusEG
  rw [h]
  match t, ht with
  | 0, _ | 1, _ | 2, _ | 3, _ => decide

/-! ## What an entry and an exception leave -/

/-- What no instruction on registers changes but through its destination. -/
def rowPart (c : CoreRec) : SMap Word64 × SMap Word64 × List StoreEnt × List (Nat × Nat) := (c.w, c.f, c.sb, c.cops)

/-- Every register but the destinations `d` and `f` of core `n`, the older stores, the memories, and every other core's pc and system registers
are as before. -/
structure RowLeaves (n : Fin 24) (d f : Option (Fin 32)) (s u : State) : Prop where
  getW : ∀ m r, (m ≠ n ∨ d ≠ some r) → getW u m r = getW s m r
  getFr : ∀ m r, (m ≠ n ∨ f ≠ some r) → getFr u m r = getFr s m r
  stores : ∀ m, (core u m).sb = (core s m).sb ∧ (core u m).cops = (core s m).cops
  sram : u.sram = s.sram
  dram : u.dram = s.dram
  others : ∀ m, m ≠ n → (core u m).pc = (core s m).pc ∧ ∀ k, sysr u m k = sysr s m k

namespace RowLeaves

variable {n : Fin 24} {d f : Option (Fin 32)} {s t u : State}

theorem trans (h : RowLeaves n d f s t) (h' : RowLeaves n d f t u) : RowLeaves n d f s u where
  getW m r hm := (h'.getW m r hm).trans (h.getW m r hm)
  getFr m r hm := (h'.getFr m r hm).trans (h.getFr m r hm)
  stores m := ⟨(h'.stores m).1.trans (h.stores m).1, (h'.stores m).2.trans (h.stores m).2⟩
  sram := h'.sram.trans h.sram
  dram := h'.dram.trans h.dram
  others m hm := ⟨(h'.others m hm).1.trans (h.others m hm).1, fun k => ((h'.others m hm).2 k).trans ((h.others m hm).2 k)⟩

theorem of_leaves (h : LeavesMem s u) : RowLeaves n d f s u where
  getW m r _ := h.regs.getW m r
  getFr m r _ := h.regs.getFr m r
  stores m := ⟨h.regs.sb m, h.regs.cops m⟩
  sram := h.sram
  dram := h.dram
  others m _ := ⟨h.regs.pc m, h.regs.sysr m⟩

theorem of_updCore (s : State) {g : CoreRec → CoreRec} (hg : ∀ c, rowPart (g c) = rowPart c) : RowLeaves n d f s (updCore s n g) := by
  have hpart : ∀ m, rowPart (core (updCore s n g) m) = rowPart (core s m) := fun m => by
    by_cases hm : m = n
    · subst hm; rw [core_updCore, hg]
    · rw [core_updCore_other _ _ hm]
  refine ⟨fun m r _ => ?_, fun m r _ => ?_, fun m => ⟨congrArg (·.2.2.1) (hpart m), congrArg (·.2.2.2) (hpart m)⟩, rfl, rfl, fun m hm => ?_⟩
  · unfold Machine.getW; rw [show (core (updCore s n g) m).w = (core s m).w from congrArg (·.1) (hpart m)]
  · unfold Machine.getFr; rw [show (core (updCore s n g) m).f = (core s m).f from congrArg (·.2.1) (hpart m)]
  · unfold sysr; rw [core_updCore_other _ _ hm]; exact ⟨rfl, fun _ => rfl⟩

end RowLeaves

/-- An operation that works on the core's control: it leaves general registers, memories and every other core, and what is outside stays within. -/
structure ControlOf (n : Fin 24) (s u : State) : Prop where
  leaves : ∀ d f, RowLeaves n d f s u
  within : StaysWithin n s u

namespace ControlOf

variable {n : Fin 24} {s t u : State}

theorem trans (h : ControlOf n s t) (h' : ControlOf n t u) : ControlOf n s u :=
  ⟨fun d f => (h.leaves d f).trans (h'.leaves d f), h.within.trans h'.within⟩

theorem of_aside (h : Aside n s u) : ControlOf n s u := ⟨fun _ _ => .of_leaves h.leaves, h.within⟩

theorem of_updCore (s : State) {g : CoreRec → CoreRec} (hg : ∀ c, rowPart (g c) = rowPart c) (hown : ∀ c, ownPart (g c) = ownPart c) :
    ControlOf n s (updCore s n g) := ⟨fun _ _ => .of_updCore s hg, .of_updCore n s hown⟩

theorem setSys (s : State) (k : Nat) (v : Word64) : ControlOf n s (setSys s n k v) := .of_updCore s (fun _ => rfl) fun _ => rfl

end ControlOf

theorem enterLevel_control (s : State) (n : Fin 24) (t : Nat) (epc cause eaddr : Word64) (egpa thr : Option Nat) (off : Nat) :
    ControlOf n s (enterLevel s n t epc cause eaddr egpa thr off) := by
  have hsaved : ∀ v old st, ControlOf n v (putSaved v n t old st epc cause eaddr) := fun v old st =>
    (ControlOf.setSys v _ _).trans ((ControlOf.setSys _ _ _).trans ((ControlOf.setSys _ _ _).trans (.setSys _ _ _)))
  have hcause : ∀ v, ControlOf n v (putCause v n t egpa thr) := fun v => by
    cases egpa <;> cases thr
    · exact .setSys v _ _
    · exact (ControlOf.setSys v _ _).trans (.setSys _ _ _)
    · exact (ControlOf.setSys v _ _).trans (.setSys _ _ _)
    · exact (ControlOf.setSys v _ _).trans ((ControlOf.setSys _ _ _).trans (.setSys _ _ _))
  rw [enterLevel_eq]
  exact (ControlOf.of_aside (discardAhead_aside s n)).trans ((hsaved _ _ _).trans ((hcause _).trans (.of_updCore _ (fun _ => rfl) fun _ => rfl)))

theorem captureErr_within (s : State) (n : Fin 24) (code cls : Nat) (a : Attr) (detail : Nat) :
    StaysWithin n s (captureErr s (.wcc n) code cls a detail) := by
  have hreg : ∀ off ∈ [0x010, 0x020, 0x024, 0x028, 0x02C], CountsFor n (.wcc n) off := fun off hoff => .inl ⟨rfl, by revert off; decide⟩
  have hcount : StaysWithin n s (bumpF s (.wcc n) 0x02C 16 16 1) := .wr (hreg _ (by decide)) s _
  cases h : rdB (bumpF s (.wcc n) 0x02C 16 16 1) (.wcc n) 0x020 0 with
  | true => rw [captureErr_later code cls a detail h]; exact hcount.trans (.wr (hreg _ (by decide)) _ _)
  | false =>
    rw [captureErr_first code cls a detail h]
    exact hcount.trans ((StaysWithin.wr (hreg _ (by decide)) _ _).trans ((StaysWithin.wr (hreg _ (by decide)) _ _).trans
      ((StaysWithin.wr (hreg _ (by decide)) _ _).trans (.setIrq (hreg _ (by decide)) _ _))))

theorem recFatal_control (s : State) (n : Fin 24) (code detail : Nat) : ControlOf n s (recFatal s (.wcc n) code detail) := by
  refine ⟨fun d f => .of_leaves (recFatal_leaves ..), ?_⟩
  rw [recFatal, recordErr_sends _ _ _ _ _ _ _ (by decide)]
  exact (captureErr_within ..).trans (.of_counts rfl rfl fun _ _ _ _ => rfl)

/-! ## Synchronous exceptions (R174, R176) -/

theorem level_le (s : State) (n : Fin 24) : level s n ≤ 3 := Nat.le_of_lt_succ (fld_lt _ 0 2)

theorem ownLevel_le (s : State) (n : Fin 24) (b : Option Nat) : ownLevel s n b ≤ 3 := by
  have hl := level_le s n
  unfold ownLevel
  dsimp only
  split
  · split <;> omega
  · omega

theorem excLevel_le (s : State) (n : Fin 24) (code : Nat) : excLevel s n code ≤ 3 := by
  have hown := ownLevel_le s n
  unfold excLevel
  split
  · exact hown _
  · split
    · omega
    · split
      · omega
      · split
        · omega
        · split <;> exact hown _

/-- A core that has taken an exception: it is at the level that takes it with EG set, one that it was not at where EG was set before, or it has
stopped. -/
structure Trapped (n : Fin 24) (s u : State) : Prop where
  guarded : statusEG u n = true
  elsewhere : statusEG s n = true → level u n = level s n → (core u n).run ≠ .running

/-- An entry to a level followed by its event in the counters. -/
theorem entered_trapped {s v u : State} {n : Fin 24} {t : Nat} (ht : t ≤ 3) (hv : sysr v n 0x400 = BitVec.ofNat 64 (t + 8)) (hu : Aside n v u)
    (hother : statusEG s n = true → t ≠ level s n) : Trapped n s u := by
  obtain ⟨hlevel, -, heg⟩ := entered_status ht ((hu.leaves.regs.sysr n 0x400).trans hv)
  exact ⟨heg, fun hs hl => absurd (hlevel.symm.trans hl) (hother hs)⟩

/-- The entry whose first instruction is to come is over. -/
def withoutEntry (s : State) (n : Fin 24) : State := updCore s n fun c => { c with entry := none }

/-- A core that has stopped. -/
def stopCore (s : State) (n : Fin 24) : State := updCore s n fun c => { c with run := .stopped }

theorem withoutEntry_aside (s : State) (n : Fin 24) : Aside n s (withoutEntry s n) := .of_updCore n s fun _ => rfl

theorem statusEG_withoutEntry (s : State) (n : Fin 24) : statusEG (withoutEntry s n) n = statusEG s n :=
  congrArg (bit · 3) ((withoutEntry_aside s n).leaves.regs.sysr n 0x400)

theorem raiseExc_enters {s : State} {n : Fin 24} {e : Exc} (epc : Word64) (h : ¬ (level s n = excLevel s n e.code ∧ statusEG s n = true)) :
    raiseExc s n epc e =
      let t := excLevel s n e.code
      pmuEvent t n (enterLevel (withoutEntry s n) n t epc (causeWord e.code e.fsc e.lvl e.s2w false false) e.eaddr e.egpa none
        (if level s n < t then 0x000 else 0x040)) 0x0D :=
  if_neg fun hc => h ⟨hc.1, (statusEG_withoutEntry s n).symm.trans hc.2⟩

theorem raiseExc_doubles {s : State} {n : Fin 24} {e : Exc} (epc : Word64) (hl : level s n = excLevel s n e.code) (heg : statusEG s n = true)
    (h3 : excLevel s n e.code ≠ 3) :
    raiseExc s n epc e =
      let t := excLevel s n e.code + 1
      pmuEvent t n (enterLevel (withoutEntry s n) n t epc (causeWord 0x14 0 0 false false false) e.eaddr none none 0x0C0) 0x0D :=
  (if_pos ⟨hl, (statusEG_withoutEntry s n).trans heg⟩).trans (if_neg h3)

theorem raiseExc_stops {s : State} {n : Fin 24} {e : Exc} (epc : Word64) (hl : level s n = excLevel s n e.code) (heg : statusEG s n = true)
    (h3 : excLevel s n e.code = 3) : raiseExc s n epc e = recFatal (stopCore (withoutEntry s n) n) (.wcc n) 0x82 0 :=
  (if_pos ⟨hl, (statusEG_withoutEntry s n).trans heg⟩).trans (if_pos h3)

theorem stopCore_control (s : State) (n : Fin 24) : ControlOf n s (stopCore s n) := .of_updCore s (fun _ => rfl) fun _ => rfl

theorem raiseExc_control (s : State) (n : Fin 24) (epc : Word64) (e : Exc) : ControlOf n s (raiseExc s n epc e) := by
  have hentry : ControlOf n s (withoutEntry s n) := .of_aside (withoutEntry_aside s n)
  have hevent : ∀ t v, ControlOf n v (pmuEvent t n v 0x0D) := fun t v => .of_aside (pmuEvent_aside ..)
  by_cases h : level s n = excLevel s n e.code ∧ statusEG s n = true
  · by_cases h3 : excLevel s n e.code = 3
    · rw [raiseExc_stops epc h.1 h.2 h3]
      exact hentry.trans ((stopCore_control ..).trans (recFatal_control ..))
    · rw [raiseExc_doubles epc h.1 h.2 h3]
      exact hentry.trans ((enterLevel_control ..).trans (hevent _ _))
  · rw [raiseExc_enters epc h]
    exact hentry.trans ((enterLevel_control ..).trans (hevent _ _))

theorem raiseExc_trapped (s : State) (n : Fin 24) (epc : Word64) (e : Exc) : Trapped n s (raiseExc s n epc e) := by
  have hle := excLevel_le s n e.code
  by_cases h : level s n = excLevel s n e.code ∧ statusEG s n = true
  · obtain ⟨hl, heg⟩ := h
    by_cases h3 : excLevel s n e.code = 3
    · rw [raiseExc_stops epc hl heg h3]
      have hrec : LeavesRegs (stopCore (withoutEntry s n) n) (recFatal (stopCore (withoutEntry s n) n) (.wcc n) 0x82 0) := (recFatal_leaves ..).regs
      have hsys : sysr (stopCore (withoutEntry s n) n) n 0x400 = sysr (withoutEntry s n) n 0x400 := by
        unfold sysr stopCore; rw [core_updCore]
      refine ⟨(congrArg (bit · 3) ((hrec.sysr n 0x400).trans hsys)).trans ((statusEG_withoutEntry s n).trans heg), fun _ _ hrun => ?_⟩
      have hstop : (core (stopCore (withoutEntry s n) n) n).run = .stopped := by unfold stopCore; rw [core_updCore]
      exact absurd ((hstop.symm.trans (hrec.run n).symm).trans hrun) (by decide)
    · rw [raiseExc_doubles epc hl heg h3]
      exact entered_trapped (by omega) (status_enterLevel ..) (pmuEvent_aside ..) fun _ => by omega
  · rw [raiseExc_enters epc h]
    exact entered_trapped hle (status_enterLevel ..) (pmuEvent_aside ..) fun hs hl => h ⟨hl.symm, hs⟩

/-- A fault leaves general registers, memories and every other core, whatever the wrong path held. -/
theorem faulted_leaves (s : State) (n : Fin 24) (fr : Front) (epc : Word64) (e : Exc) (d f : Option (Fin 32)) :
    RowLeaves n d f s (faulted s n fr epc e) := by
  have hbefore : LeavesMem s (wrongPath (specCount n 1 1 (clearGot s n)) n fr) :=
    (clearGot_aside s n).leaves.trans ((specCount_leaves ..).trans (wrongPath_leaves ..))
  exact (RowLeaves.of_leaves hbefore).trans ((raiseExc_control ..).leaves d f)

theorem faulted_within (s : State) (n : Fin 24) {fr : Front} (epc : Word64) (e : Exc) (hw : fr.wrong = []) : StaysWithin n s (faulted s n fr epc e) := by
  unfold faulted wrongPath
  rw [hw]
  exact (clearGot_aside s n).within.trans ((specCount_aside ..).within.trans (raiseExc_control ..).within)

theorem faulted_trapped (s : State) (n : Fin 24) (fr : Front) (epc : Word64) (e : Exc) : Trapped n s (faulted s n fr epc e) := by
  have hbefore : LeavesRegs s (wrongPath (specCount n 1 1 (clearGot s n)) n fr) :=
    ((clearGot_aside s n).leaves.trans ((specCount_leaves ..).trans (wrongPath_leaves ..))).regs
  have hstatus := hbefore.sysr n 0x400
  obtain ⟨hguarded, helse⟩ := raiseExc_trapped (wrongPath (specCount n 1 1 (clearGot s n)) n fr) n epc e
  refine ⟨hguarded, fun hs hl => helse ?_ (hl.trans ?_)⟩
  · exact (congrArg (bit · 3) hstatus).trans hs
  · exact (congrArg (fld · 0 2) hstatus).symm

end Sys2Proof.Machine
end

section
/-!
PROOFS. O60: the frame of the register instructions of a Winovar core (R165, R170, R201, R215, R239, R245).
-/

namespace Sys2Proof.Machine

open Sys2Proof.Claims

/-! ## What an instruction that completes leaves -/

/-- An instruction that works on registers has completed: beside its destinations only the pc, and FPCSR where `fl` says, read otherwise; without a
wrong path nothing outside its core differs and its reservation stays. -/
structure RowDone (n : Fin 24) (d f : Option (Fin 32)) (fl : Bool) (fr : Front) (s u : State) : Prop extends RowLeaves n d f s u where
  sys : ∀ k, (fl = true → k ≠ 0x002) → sysr u n k = sysr s n k
  quiet : fr.wrong = [] → StaysWithin n s u ∧ (core u n).resv = (core s n).resv

/-- What a core keeps for later: the older stores and cache operations, and its reservation. -/
def keptPart (c : CoreRec) := (c.sb, c.cops, c.resv)

namespace RowDone

variable {n : Fin 24} {d f : Option (Fin 32)} {fl : Bool} {fr : Front} {s t u : State}

theorem trans (h : RowDone n d f fl fr s t) (h' : RowDone n d f fl fr t u) : RowDone n d f fl fr s u where
  toRowLeaves := h.toRowLeaves.trans h'.toRowLeaves
  sys k hk := (h'.sys k hk).trans (h.sys k hk)
  quiet hw := ⟨(h.quiet hw).1.trans (h'.quiet hw).1, (h'.quiet hw).2.trans (h.quiet hw).2⟩

theorem of_aside (h : Aside n s u) : RowDone n d f fl fr s u := ⟨.of_leaves h.leaves, fun k _ => h.leaves.regs.sysr n k, fun _ => ⟨h.within, h.resv⟩⟩

theorem refl (s : State) : RowDone n d f fl fr s s := .of_aside (.refl n s)

theorem wrongPath (s : State) : RowDone n d f fl fr s (wrongPath s n fr) := by
  refine ⟨.of_leaves (wrongPath_leaves s n fr), fun k _ => (wrongPath_leaves s n fr).regs.sysr n k, fun hw => ?_⟩
  unfold Machine.wrongPath
  rw [hw]
  exact ⟨.refl n s, rfl⟩

/-- A change of the core itself: of what it keeps for R211 and R242 nothing, and of its registers only what the row may write. -/
theorem of_updCore (s : State) {g : CoreRec → CoreRec} (hown : ∀ c, ownPart (g c) = ownPart c) (hkept : ∀ c, keptPart (g c) = keptPart c)
    (hw : ∀ r, d ≠ some r → Machine.getW (updCore s n g) n r = Machine.getW s n r)
    (hf : ∀ r, f ≠ some r → Machine.getFr (updCore s n g) n r = Machine.getFr s n r)
    (hsys : ∀ k, (fl = true → k ≠ 0x002) → sysr (updCore s n g) n k = sysr s n k) : RowDone n d f fl fr s (updCore s n g) := by
  have hother : ∀ m, m ≠ n → core (updCore s n g) m = core s m := fun m hm => core_updCore_other _ _ hm
  have hkeep : keptPart (core (updCore s n g) n) = keptPart (core s n) := by rw [core_updCore, hkept]
  refine ⟨⟨fun m r h => ?_, fun m r h => ?_, fun m => ?_, rfl, rfl, fun m hm => ?_⟩, hsys, fun _ => ⟨.of_updCore n s hown, congrArg (·.2.2) hkeep⟩⟩
  · by_cases hm : m = n
    · subst hm; exact hw r (h.resolve_left fun hne => hne rfl)
    · unfold Machine.getW; rw [hother m hm]
  · by_cases hm : m = n
    · subst hm; exact hf r (h.resolve_left fun hne => hne rfl)
    · unfold Machine.getFr; rw [hother m hm]
  · by_cases hm : m = n
    · subst hm; exact ⟨congrArg (·.1) hkeep, congrArg (·.2.1) hkeep⟩
    · rw [hother m hm]; exact ⟨rfl, rfl⟩
  · unfold sysr; rw [hother m hm]; exact ⟨rfl, fun _ => rfl⟩

/-- A change of the core beside its registers. -/
theorem of_control (s : State) {g : CoreRec → CoreRec} (hown : ∀ c, ownPart (g c) = ownPart c) (hkept : ∀ c, keptPart (g c) = keptPart c)
    (hregs : ∀ c, ((g c).w, (g c).f, (g c).sys) = (c.w, c.f, c.sys)) : RowDone n d f fl fr s (updCore s n g) := by
  refine .of_updCore s hown hkept (fun r _ => ?_) (fun r _ => ?_) fun k _ => ?_
  · unfold Machine.getW; rw [core_updCore, show (g (core s n)).w = _ from congrArg (·.1) (hregs _)]
  · unfold Machine.getFr; rw [core_updCore, show (g (core s n)).f = _ from congrArg (·.2.1) (hregs _)]
  · unfold sysr; rw [core_updCore, show (g (core s n)).sys = _ from congrArg (·.2.2) (hregs _)]

theorem setW (s : State) (d : Fin 32) (v : Word64) : RowDone n (some d) f fl fr s (setW s n d v) := by
  by_cases hd : d = 0
  · rw [hd]; exact .refl s
  · have heq : Machine.setW s n d v = updCore s n _ := if_neg hd
    rw [heq]
    refine .of_updCore s (fun _ => rfl) (fun _ => rfl) (fun r hr => ?_) (fun r _ => ?_) fun k _ => ?_
    · rw [← heq, getW_setW, if_neg fun h => hr (congrArg some h.1.symm)]
    · unfold Machine.getFr; rw [core_updCore]
    · unfold sysr; rw [core_updCore]

theorem setFr (s : State) (f : Fin 32) (v : Word64) : RowDone n d (some f) fl fr s (setFr s n f v) := by
  refine .of_updCore s (fun _ => rfl) (fun _ => rfl) (fun r _ => ?_) (fun r hr => ?_) fun k _ => ?_
  · unfold Machine.getW; rw [core_updCore]
  · unfold Machine.getFr; rw [core_updCore]; exact SMap.get_set_other _ _ _ fun h => hr (congrArg some (Fin.ext h.symm))
  · unfold sysr; rw [core_updCore]

theorem setSys (s : State) (j : Nat) (v : Word64) (h : (fl = true → j ≠ 0x002) → v = sysr s n j) :
    RowDone n d f fl fr s (setSys s n j v) := by
  refine .of_updCore s (fun _ => rfl) (fun _ => rfl) (fun r _ => ?_) (fun r _ => ?_) fun k hk => ?_
  · unfold Machine.getW; rw [core_updCore]
  · unfold Machine.getFr; rw [core_updCore]
  · refine (sysr_setSys_eq s n j k v).trans ?_
    split
    · next hj => subst hj; exact h hk
    · rfl

/-- Flags go to FPCSR (R215). -/
theorem fpFlags (s : State) (x : FFlags) : RowDone n d f true fr s (fpFlags s n x) := .setSys s _ _ fun hk => absurd rfl (hk rfl)

/-- An instruction without flags leaves FPCSR as it is. -/
theorem fpFlags_none (s : State) : RowDone n d f fl fr s (Machine.fpFlags s n {}) := .setSys s _ _ fun _ => BitVec.or_zero

theorem goesOn (s : State) (npc : Word64) (evs : List Nat) (e : Option (Nat × Nat)) : RowDone n d f fl fr s (goesOn s n npc evs e) :=
  .of_control s (fun _ => rfl) (fun _ => rfl) fun _ => rfl

theorem retired {fe : List Nat} (h : RowDone n d f fl fr s u) (npc : Word64) (evs : List Nat) : RowDone n d f fl fr s (retired fe s u n npc evs) := by
  unfold Claims.retired
  exact h.trans ((goesOn u ..).trans (.of_aside (pmuRetire_aside ..)))

end RowDone

/-! ## The rows -/

/-- A body that raises an exception before it changes anything, or completes as a register instruction. -/
def RowBody (n : Fin 24) (d f : Option (Fin 32)) (fl : Bool) (fr : Front) (body : State → IRes) : Prop :=
  ∀ s, (∃ e, body s = .exc s e) ∨ ∃ u npc evs, body s = .done u npc evs ∧ RowDone n d f fl fr s u

/-- A row whose instruction runs such a body. -/
def RunsRow (n : Fin 24) (d f : Option (Fin 32)) (fl : Bool) (fr : Front) (row : State → Result) : Prop :=
  ∃ body, row = wInstr n fr body ∧ RowBody n d f fl fr body

variable {n : Fin 24} {d f : Option (Fin 32)} {fl : Bool} {fr : Front} {s : State}

theorem RowBody.done {body : State → IRes} {next : State → State} {npc : State → Word64} {evs : State → List Nat}
    (hb : ∀ s, body s = .done (next s) (npc s) (evs s)) (h : ∀ s, RowDone n d f fl fr s (next s)) : RowBody n d f fl fr body :=
  fun s => .inr ⟨next s, npc s, evs s, hb s, h s⟩

theorem wResult_row (n : Fin 24) (d : Fin 32) (v : State → Word64) (fr : Front) : RunsRow n (some d) none fl fr (wResult n d v fr) :=
  ⟨_, rfl, .done (fun _ => rfl) fun s => .setW s d _⟩

theorem fpResult_row (n : Fin 24) (d : Fin 32) (g : State → Nat × FFlags) (fr : Front) : RunsRow n none (some d) true fr (fpResult n d g fr) :=
  ⟨_, rfl, .done (fun _ => rfl) fun s => (RowDone.fpFlags s _).trans (.setFr ..)⟩

theorem fpResultW_row (n : Fin 24) (d : Fin 32) (g : State → Nat × FFlags) (fr : Front) : RunsRow n (some d) none true fr (fpResultW n d g fr) :=
  ⟨_, rfl, .done (fun _ => rfl) fun s => (RowDone.fpFlags s _).trans (.setW ..)⟩

theorem fmvF_row (n : Fin 24) (d a : Fin 32) (fmt : Bool) (fr : Front) : RunsRow n none (some d) fl fr (execWFmvF n d a fmt fr) :=
  ⟨_, rfl, .done (fun _ => rfl) fun s => (RowDone.fpFlags_none s).trans (.setFr ..)⟩

theorem fpRounded_row {put : State → Nat × FFlags → State} (hput : ∀ s r, RowDone n d f fl fr s (put s r)) (rm : Fin 8)
    (k : Nat → State → Nat × FFlags) : RunsRow n d f fl fr (fpRounded n rm k put fr) := by
  refine ⟨_, rfl, fun s => ?_⟩
  cases fpMode s n rm with
  | none => exact .inl ⟨_, rfl⟩
  | some m => exact .inr ⟨_, _, _, rfl, hput s _⟩

theorem roundedF_row (n : Fin 24) (d : Fin 32) (rm : Fin 8) (k : Nat → State → Nat × FFlags) (fr : Front) :
    RunsRow n none (some d) true fr (fpRounded n rm k (putF n d) fr) :=
  fpRounded_row (fun s _ => (RowDone.fpFlags s _).trans (.setFr ..)) rm k

theorem roundedW_row (w : Nat) (n : Fin 24) (d : Fin 32) (rm : Fin 8) (k : Nat → State → Nat × FFlags) (fr : Front) :
    RunsRow n (some d) none true fr (fpRounded n rm k (putWx w n d) fr) :=
  fpRounded_row (fun s _ => (RowDone.fpFlags s _).trans (.setW ..)) rm k

/-- What a branch discards and trains at its end. -/
theorem branchEnd (s : State) (tabs : List Nat) (npc : Word64) (mis : Bool) :
    RowDone n d f fl fr s (brTrain (if mis then discardAhead (wrongPath s n fr) n else s) n tabs npc fr) := by
  refine RowDone.trans ?_ (.of_aside (brTrain_aside ..))
  split
  · exact (RowDone.wrongPath s).trans (.of_aside (discardAhead_aside ..))
  · exact .refl s

theorem branch_row (t : Word64 → Word64 → Bool) (n : Fin 24) (a b : Fin 32) (off : BitVec 16) (fr : Front) :
    RunsRow n none none fl fr (brOp t n a b off fr) :=
  ⟨_, rfl, .done (fun _ => rfl) fun s => (branchEnd s ..).trans (.of_control _ (fun _ => rfl) (fun _ => rfl) fun _ => rfl)⟩

theorem jump_row {link : State → State} (hlink : ∀ s, RowDone n d none fl fr s (link s)) (off : BitVec 26) :
    RunsRow n d none fl fr (jOp n off fr link) :=
  ⟨_, rfl, .done (fun _ => rfl) fun s => (RowDone.of_aside (brTrain_aside s ..)).trans (hlink _)⟩

theorem jal_row (n : Fin 24) (off : BitVec 26) (fr : Front) : RunsRow n (some 31) none fl fr (execWJal n off fr) :=
  jump_row (fun s => (RowDone.of_aside (pushRet_aside s ..)).trans (.setW ..)) off

theorem linked_aside (s : State) (n : Fin 24) (d : Fin 32) (pc : Word64) : Aside n s (if d = 31 then pushRet s n pc else s) := by
  split
  · exact pushRet_aside ..
  · exact .refl ..

theorem jalr_row (n : Fin 24) (d a : Fin 32) (imm : BitVec 16) (fr : Front) : RunsRow n (some d) none fl fr (execWJalr n d a imm fr) :=
  ⟨_, rfl, .done (fun _ => rfl) fun s =>
    (RowDone.of_aside ((jalrMis_aside s ..).trans (linked_aside ..))).trans ((branchEnd _ ..).trans (.setW ..))⟩

theorem mfs_row (n : Fin 24) (d : Fin 32) (k : Fin 4096) (fr : Front) : RunsRow n (some d) none fl fr (execWMfs n d k fr) := by
  refine ⟨_, rfl, fun s => ?_⟩
  split
  · exact .inl ⟨_, rfl⟩
  · split
    · exact .inl ⟨_, rfl⟩
    · exact .inr ⟨_, _, _, rfl, .setW ..⟩

theorem RunsRow.exec {row : State → Result} (h : RunsRow n d f fl fr row) {c : Instr} (hc : ∀ z, exec c z = row z) : RunsRow n d f fl fr (exec c) :=
  (funext hc : Machine.exec c = row) ▸ h

/-- A row that names a general register. -/
theorem generalRow_runs {c : Instr} {d : Fin 32} (h : wRegisterRow c = some (n, some d, f, fr)) : RunsRow n (some d) f (wFloatRow c) fr (exec c) := by
  unfold wRegisterRow at h
  split at h
  all_goals cases h
  iterate 54 exact (wResult_row ..).exec fun _ => rfl
  iterate 3 exact (fpResultW_row ..).exec fun _ => rfl
  iterate 4 exact (roundedW_row ..).exec fun _ => rfl
  · exact (wResult_row ..).exec fun _ => rfl
  · exact (jal_row ..).exec fun _ => rfl
  · exact (jalr_row ..).exec fun _ => rfl
  · exact (mfs_row ..).exec fun _ => rfl

/-- A row that names none: a floating-point register, or a branch or jump. -/
theorem otherRow_runs {c : Instr} (h : wRegisterRow c = some (n, none, f, fr)) : RunsRow n none f (wFloatRow c) fr (exec c) := by
  unfold wRegisterRow at h
  split at h
  all_goals cases h
  iterate 5 exact (roundedF_row ..).exec fun _ => rfl
  iterate 5 exact (fpResult_row ..).exec fun _ => rfl
  iterate 5 exact (roundedF_row ..).exec fun _ => rfl
  · exact (fmvF_row ..).exec fun _ => rfl
  iterate 4 exact (roundedF_row ..).exec fun _ => rfl
  · exact (branch_row ..).exec (row := execWBeq _ _ _ _ _) fun _ => rfl
  · exact (branch_row ..).exec (row := execWBne _ _ _ _ _) fun _ => rfl
  · exact (branch_row ..).exec (row := execWBlt _ _ _ _ _) fun _ => rfl
  · exact (branch_row ..).exec (row := execWBge _ _ _ _ _) fun _ => rfl
  · exact (branch_row ..).exec (row := execWBltu _ _ _ _ _) fun _ => rfl
  · exact (branch_row ..).exec (row := execWBgeu _ _ _ _ _) fun _ => rfl
  · exact (jump_row .refl _).exec fun _ => rfl

/-- Every register instruction is a row of one of these kinds. -/
theorem registerRow_runs {c : Instr} (h : wRegisterRow c = some (n, d, f, fr)) : RunsRow n d f (wFloatRow c) fr (exec c) := by
  cases d with
  | some d => exact generalRow_runs h
  | none => exact otherRow_runs h

/-! ## The frame -/

/-- What the statement of the frame asks of a completed row, and of one that took an exception. -/
theorem registerRows_leave : RegisterRowsLeave := by
  intro c z s u n fr fe d f hrow hissue hexec
  obtain ⟨body, hrun, hbody⟩ := registerRow_runs hrow
  rw [hrun] at hexec
  rcases hbody s with ⟨e, hb⟩ | ⟨t, npc, evs, hb, hdone⟩
  · rw [wInstr_exc hissue hb] at hexec
    cases hexec
    have hleaves := faulted_leaves s n fr (core s n).pc e d f
    have htrap := faulted_trapped s n fr (core s n).pc e
    refine ⟨hleaves.getW, hleaves.getFr, hleaves.stores, hleaves.sram, hleaves.dram, hleaves.others, fun hend => ?_, fun hw => ?_⟩
    · rcases hend with hclear | ⟨hset, hlevel, hrunning⟩
      · exact absurd (hclear.symm.trans htrap.guarded) (by decide)
      · exact absurd hrunning (htrap.elsewhere hset hlevel)
    · have hwithin := faulted_within s n (core s n).pc e hw
      exact ⟨hwithin.onlyCore, hwithin.onlyOwn⟩
  · rw [wInstr_done hissue hb] at hexec
    cases hexec
    have hend := hdone.retired (fe := fe) npc evs
    exact ⟨hend.getW, hend.getFr, hend.stores, hend.sram, hend.dram, hend.others, fun _ => ⟨hend.sys, fun hw => (hend.quiet hw).2⟩,
      fun hw => ⟨(hend.quiet hw).1.onlyCore, (hend.quiet hw).1.onlyOwn⟩⟩

/-! ## What each floating-point row answers (R215 to R219) -/

variable {z : State} {fe : List Nat}

theorem fpRounded_of_issues (h : Issues z n fr fe s) {rm : Fin 8} {m : Nat} (hm : fpMode s n rm = some m) (k : Nat → State → Nat × FFlags)
    (put : State → Nat × FFlags → State) : fpRounded n rm k put fr z = .next (retired fe s (put s (k m s)) n ((core s n).pc + 4) []) :=
  wInstr_done h (by rw [hm]; rfl)

theorem fpResult_of_issues (h : Issues z n fr fe s) (d : Fin 32) (g : State → Nat × FFlags) : fpResult n d g fr z = .next (fPut fe s n d (g s)) :=
  wInstr_done h rfl

theorem fpResultW_of_issues (h : Issues z n fr fe s) (d : Fin 32) (g : State → Nat × FFlags) :
    fpResultW n d g fr z = .next (fwPut fe s n d (BitVec.ofNat 64 (g s).1) (g s).2) := wInstr_done h rfl

/-- The value and the flags of a compare: 1 where it holds of two numbers; of a NaN it sets NV as its row says (R217). -/
theorem compare_answer (un c nv : Bool) :
    (if un then (0, { nv := nv }) else (c.toNat, {}) : Nat × FFlags) = ((decide (un = false ∧ c = true)).toNat, { nv := un && nv }) := by
  cases un <;> cases c <;> rfl

theorem fpCmp_of_issues (h : Issues z n fr fe s) (quiet : Bool) (g : FVal → FVal → Bool) (d a b : Fin 32) (fmt : Bool) :
    let x := fpVal s n fmt a
    let y := fpVal s n fmt b
    let un := isNaN x || isNaN y
    fpCmp quiet g n d a b fmt fr z =
      .next (fwPut fe s n d (if un = false ∧ g x y = true then 1 else 0) { nv := un && (!quiet || isSig x || isSig y) }) := by
  refine (fpResultW_of_issues h d _).trans ?_
  dsimp only
  rw [compare_answer]
  split
  · next hc => rw [decide_eq_true hc]; rfl
  · next hc => rw [decide_eq_false hc]; rfl

theorem roundedOps : FRoundedOps := fun _ _ _ _ _ _ _ _ _ _ _ h hm =>
  ⟨fpRounded_of_issues h hm .., fpRounded_of_issues h hm .., fpRounded_of_issues h hm .., fpRounded_of_issues h hm ..⟩

theorem rootConvert : FRootConvert := fun _ _ _ _ _ _ _ _ _ _ h hm => ⟨fpRounded_of_issues h hm .., fpRounded_of_issues h hm ..⟩

theorem fusedOps : FFused := fun _ _ _ _ _ _ _ _ _ _ _ _ h hm =>
  ⟨fpRounded_of_issues h hm .., fpRounded_of_issues h hm .., fpRounded_of_issues h hm .., fpRounded_of_issues h hm ..⟩

theorem toInts : FToInts := fun _ _ _ _ _ _ _ _ _ _ h hm =>
  ⟨fpRounded_of_issues h hm .., fpRounded_of_issues h hm .., fpRounded_of_issues h hm .., fpRounded_of_issues h hm ..⟩

theorem ofInts : FOfInts := fun _ _ _ _ _ _ _ _ _ _ h hm =>
  ⟨fpRounded_of_issues h hm .., fpRounded_of_issues h hm .., fpRounded_of_issues h hm .., fpRounded_of_issues h hm ..⟩

theorem signs : FSigns := fun _ _ _ _ _ _ _ _ _ h => ⟨fpResult_of_issues h .., fpResult_of_issues h .., fpResult_of_issues h ..⟩

theorem minMaxes : FMinMaxes := fun _ _ _ _ _ _ _ _ _ h => ⟨fpResult_of_issues h .., fpResult_of_issues h ..⟩

theorem compares : FCompares := fun _ _ _ _ _ _ _ _ _ h => by
  refine ⟨fpCmp_of_issues h true fEqV .., ?_, ?_⟩
  · refine (fpCmp_of_issues h false fLtV ..).trans ?_
    simp
  · refine (fpCmp_of_issues h false (fun x y => fLtV x y || fEqV x y) ..).trans ?_
    simp

/-- Bits 31:0 as a signed value are their sign extension. -/
theorem ofInt_sextN32 (x : Word64) : BitVec.ofInt 64 (sextN 32 x.toNat) = (lo x).signExtend 64 := by
  have hlow : (lo x).toNat = x.toNat % 2 ^ 32 := BitVec.toNat_setWidth ..
  refine congrArg (BitVec.ofInt 64) ?_
  unfold sextN
  rw [BitVec.toInt_eq_toNat_cond, hlow]
  exact if_congr (by omega) rfl rfl

theorem moves : FMoves := fun _ s n _ _ d a h =>
  ⟨wResult_of_issues h .., row_of_value h _ (ofInt_sextN32 _) rfl,
    (fpResult_of_issues h ..).trans (congrArg (fun k => Host.Outcome.next (fPut _ s n d (k, {}))) (Nat.mod_eq_of_lt (getW s n a).isLt)), fpResult_of_issues h ..⟩

/-- Settles O60: a completed row is a change of its destinations, the pc and what goes with an instruction's end; an exception is an entry, which
leaves the general registers. -/
theorem winovarInstructionFrame : Obligations.WinovarInstructionFrame :=
  ⟨registerRows_leave, fetch_leaves, roundedOps, rootConvert, fusedOps, toInts, ofInts, signs, minMaxes, compares, moves⟩

end Sys2Proof.Machine
end

section
/-!
PROOFS. O59: control flow, predictors and the frame of an instruction of a Winovar core (R170, R175, R177, R180, R208, R213, R234 to R240).
-/

namespace Sys2Proof.Machine

open Sys2Proof.Claims

variable {z s : State} {n : Fin 24} {fr : Front} {fe : List Nat}

/-! ## Branches and jumps (R213, R235) -/

theorem shiftLeft_two (x : Word64) : x <<< 2 = x * 4 := BitVec.shiftLeft_eq_mul_twoPow x 2

theorem brOp_of_issues (h : Issues z n fr fe s) (t : Word64 → Word64 → Bool) (a b : Fin 32) (off : BitVec 16) :
    brOp t n a b off fr z = .next (branched fe s n fr (t (getW s n a) (getW s n b)) off) := by
  unfold branched
  rw [← shiftLeft_two]
  exact wInstr_done h rfl

theorem not_slt (x y : Word64) : (!x.slt y) = decide (y.toInt ≤ x.toInt) :=
  decide_not.symm.trans (decide_eq_decide.2 Int.not_lt)

theorem not_ult (x y : Word64) : (!decide (x < y)) = decide (y.toNat ≤ x.toNat) :=
  decide_not.symm.trans (decide_eq_decide.2 Nat.not_lt)

theorem branches : WBranches := by
  intro z s n fr fe a b off h
  have hrow : ∀ t go, t (getW s n a) (getW s n b) = go → brOp t n a b off fr z = .next (branched fe s n fr go off) :=
    fun t go hgo => hgo ▸ brOp_of_issues h t a b off
  refine ⟨(?_ : execWBeq n a b off fr z = _), (?_ : execWBne n a b off fr z = _), (?_ : execWBlt n a b off fr z = _),
    (?_ : execWBge n a b off fr z = _), (?_ : execWBltu n a b off fr z = _), (?_ : execWBgeu n a b off fr z = _)⟩
  · exact hrow _ _ rfl
  · exact hrow _ _ rfl
  · exact hrow _ _ rfl
  · exact hrow _ _ (not_slt ..)
  · exact hrow _ _ rfl
  · exact hrow _ _ (not_ult ..)

theorem jumps : WJumps := by
  intro z s n fr fe off h
  dsimp only
  rw [← shiftLeft_two]
  have hpc : nextPc (brTrain s n [0, 1] ((core s n).pc + off.signExtend 64 <<< 2) fr) n = (core s n).pc + 4 :=
    congrArg (· + 4) ((brTrain_aside ..).leaves.regs.pc n)
  refine ⟨wInstr_done h rfl, wInstr_done h ?_⟩
  rw [← hpc]

theorem jalr : WJalrRow := fun _ _ _ _ _ _ _ _ h => wInstr_done h rfl

/-! ## The return stack and the predictors (R234 to R238) -/

theorem returnStack : ReturnStack := by
  intro s n r rest npc fr hrets u
  have hpop : popRet s n = (if r.lvl = level s n ∧ r.did = coreDid s n then some r.pc else none, u) := by
    unfold popRet; rw [hrets]
  have hjalr : ∀ o, popRet s n = (o, u) → jalrMis s n true npc fr =
      (match o with | some p => decide (p ≠ npc) | none => mispredicted u n [0, 1] npc fr, u) := fun o ho => by
    unfold jalrMis; rw [if_pos rfl, ho]; cases o <;> rfl
  refine ⟨fun hl hd => ?_, fun hother => ?_, ?_⟩
  · rw [if_pos ⟨hl, hd⟩] at hpop; exact hjalr _ hpop
  · rw [if_neg fun hsame => hother.elim (· hsame.1) (· hsame.2)] at hpop; exact hjalr _ hpop
  · unfold pushRet; rw [core_updCore, hrets]

/-- An entry that a lookup finds is of the table, the level and the domain of the lookup. -/
theorem predFind_context {tab pc : Nat} {e : PredEnt} (h : predFind s n tab pc = some e) : e.tab = tab ∧ e.lvl = level s n ∧ e.did = coreDid s n := by
  unfold predFind at h
  have hkey : { e with val := 0 } = predEnt s n tab pc 0 := by simpa using List.find?_some h
  exact ⟨congrArg (fun x : PredEnt => x.tab) hkey, congrArg (fun x : PredEnt => x.lvl) hkey, congrArg (fun x : PredEnt => x.did) hkey⟩

/-- What a training step on a wrong path does to the table: it puts an entry in place of none or of one of the core's context, or leaves it. -/
theorem predTrain_wrong (s : State) (n : Fin 24) (tab pc v : Nat) :
    (∃ e l, (core (predTrain s n true tab pc v).1 n).preds = e :: l ∧ (predTrain s n true tab pc v).2 = true ∧
      (l = (core s n).preds ∨ ∃ x, x.lvl = level s n ∧ x.did = coreDid s n ∧ l = (core s n).preds.erase x)) ∨
    (core (predTrain s n true tab pc v).1 n).preds = (core s n).preds := by
  unfold predTrain
  dsimp only
  split
  · next m hm =>
    have hctx := (predFind_context hm).2
    exact .inl ⟨_, _, by rw [core_updCore], rfl, .inr ⟨m, hctx.1, hctx.2, rfl⟩⟩
  · split
    · exact .inl ⟨_, _, by rw [core_updCore], rfl, .inl rfl⟩
    · split
      · next x hx =>
        have hctx := (List.mem_filter.1 (List.mem_of_getElem? hx)).2
        rw [Bool.and_eq_true] at hctx
        exact .inl ⟨_, _, by rw [core_updCore], rfl, .inr ⟨x, of_decide_eq_true hctx.1, of_decide_eq_true hctx.2, rfl⟩⟩
      · exact .inr rfl

theorem predictorContexts : PredictorContexts := by
  intro s n tab pc v
  refine ⟨fun e => predFind_context, fun e he hother => ?_, fun hno => ?_⟩
  · rcases predTrain_wrong s n tab pc v with ⟨x, l, hpreds, -, hl⟩ | hpreds
    · rw [hpreds]
      refine List.mem_cons_of_mem _ ?_
      rcases hl with rfl | ⟨y, hlvl, hdid, rfl⟩
      · exact he
      · refine (List.mem_erase_of_ne fun heq => ?_).2 he
        subst heq
        exact hother.elim (· hlvl) (· hdid)
    · rw [hpreds]; exact he
  · rcases predTrain_wrong s n tab pc v with ⟨x, l, -, hyes, -⟩ | hpreds
    · rw [hno] at hyes; cases hyes
    · exact hpreds

/-- Tables that agree on one next pc mispredict every other. -/
theorem mispredicted_of_single {tabs : List Nat} {x : Nat} (h : predicted s n tabs = [x]) (npc : Word64) (fr : Front) :
    mispredicted s n tabs npc fr = decide (x ≠ npc.toNat) := by
  unfold mispredicted
  rw [h]
  by_cases hx : x = npc.toNat
  · simp [hx]
  · simp [hx, Ne.symm hx]

/-- Tables that predict the sequence mispredict every other pc. -/
theorem mispredicted_of_sequence {tabs : List Nat} (h : predicted s n tabs = [(nextPc s n).toNat]) (npc : Word64) (fr : Front) :
    mispredicted s n tabs npc fr = decide (npc ≠ (core s n).pc + 4) := by
  rw [mispredicted_of_single h]
  exact decide_eq_decide.2 (not_congr (BitVec.toNat_inj.trans eq_comm))

theorem tablesPredict : TablesPredict := by
  intro s n npc fr pc
  have hpredicts : ∀ t, predicts s n t = (predFind s n t pc).map fun e => e.val := fun _ => rfl
  refine ⟨fun e h0 h1 => ?_, fun h0 h1 => ?_, fun e h2 hval htagged => ?_⟩
  · exact mispredicted_of_single (by simp [predicted, hpredicts, h0, h1]) npc fr
  · exact mispredicted_of_sequence (by simp [predicted, hpredicts, h0, h1]) npc fr
  · have htab : ∀ t ∈ [3, 4, 5, 6], predicts s n t = none := fun t ht => by rw [hpredicts, htagged t ht]; rfl
    refine mispredicted_of_sequence ?_ npc fr
    simp [predicted, brTabs, List.filterMap_cons, hpredicts 2, h2, hval, htab 3, htab 4, htab 5, htab 6]

theorem wrongPathLeaves : WrongPathLeaves := fun s n m fr r k => by
  have h := wrongPath_leaves s n fr
  exact ⟨h.regs.getW m r, h.regs.getFr m r, h.regs.sysr m k, h.regs.pc m, h.regs.sb m, h.sram, h.dram⟩

end Sys2Proof.Machine
end

section
/-!
PROOFS. O59: system registers, calls, returns, WAIT, TLB maintenance and barriers of a Winovar core (R167 to R169, R183 to R185, R193, R194, R200,
R224 to R228).
-/

namespace Sys2Proof.Machine

open Sys2Proof.Claims

variable {z s : State} {n : Fin 24} {fr : Front} {fe : List Nat}

/-! ## System registers (R167 to R169, R226) -/

/-- A register that MTS writes is one that R168 lists. -/
theorem listed_of_mask {k m : Nat} (h : sysMask k = some m) : sysListed k = true := by
  simp [sysListed, h]

theorem mfs : WMfsRow := fun _ _ _ _ _ _ _ h hlisted hlevel =>
  wInstr_done h ((if_neg (by rw [hlisted]; decide)).trans (if_neg (Nat.not_lt.2 hlevel)))

theorem mts : WMtsRow := by
  intro z s n fr fe a k m h hmask hlevel hgood t
  have hput : putSys s n k (getW s n a) = t := by unfold putSys; rw [hmask]
  have hbad : ¬ ((sysMask k).isNone || sysBad k (getW s n a)) = true := by rw [hmask, hgood]; exact Bool.false_ne_true
  refine wInstr_done h (((if_neg (by rw [listed_of_mask hmask]; decide)).trans (if_neg (Nat.not_lt.2 hlevel))).trans (if_neg hbad) |>.trans ?_)
  dsimp only
  rw [hput]
  rfl

theorem systemTraps : WSysTraps := by
  intro z s n fr fe d a k h
  have hunlisted : sysListed k = false → (!sysListed k) = true := fun hno => by rw [hno]; rfl
  have hlisted : sysListed k = true → ¬ (!sysListed k) = true := fun hyes => by rw [hyes]; exact Bool.false_ne_true
  refine ⟨fun hno => ⟨wInstr_exc h (if_pos (hunlisted hno)), wInstr_exc h (if_pos (hunlisted hno))⟩, fun hyes hlevel => ?_,
    fun hyes hmask hgood hlevel => ?_, fun hrefused => ?_⟩
  · exact wInstr_exc h ((if_neg (hlisted hyes)).trans (if_pos hlevel))
  · have hgoes : ¬ ((sysMask k).isNone || sysBad k (getW s n a)) = true := by
      rw [hgood, ← Option.not_isSome, hmask]; exact Bool.false_ne_true
    exact wInstr_exc h (((if_neg (hlisted hyes)).trans (if_pos hlevel)).trans (if_neg hgoes))
  · have hrefuses : ((sysMask k).isNone || sysBad k (getW s n a)) = true := by
      rcases hrefused with hnone | hbad
      · rw [hnone]; rfl
      · rw [hbad]; exact Bool.or_true _
    refine wInstr_exc h (u := s) ?_
    by_cases hyes : sysListed k = true
    · by_cases hlevel : level s n < k.val / 1024
      · exact ((if_neg (hlisted hyes)).trans (if_pos hlevel)).trans (if_pos hrefuses)
      · exact ((if_neg (hlisted hyes)).trans (if_neg hlevel)).trans (if_pos hrefuses)
    · exact if_pos (hunlisted (Bool.eq_false_of_not_eq_true hyes))

/-! ## Calls and unallocated words (R172, R174, R200, R227) -/

theorem wCall_allowed (h : Issues z n fr fe s) {code : Nat} {ok : Nat → Bool} (hok : ok (level s n) = true) :
    wCall code ok n fr z = .next (raiseExc (wrongPath (pmuRetire (level s n) n (allEvs s n fe) (clearGot s n)) n fr) n ((core s n).pc + 4) { code := code }) := by
  unfold wCall
  rw [wInstr_of_issues h, if_pos hok]
  rfl

theorem wCall_refused (h : Issues z n fr fe s) {code : Nat} {ok : Nat → Bool} (hok : ok (level s n) = false) :
    wCall code ok n fr z = .next (faulted s n fr (core s n).pc { code := 0x01 }) :=
  wInstr_exc h (if_neg (by rw [hok]; exact Bool.false_ne_true))

theorem calls : WCalls := by
  intro z s n fr fe imm h
  refine ⟨wCall_allowed (ok := fun _ => true) h rfl, fun hl => wCall_allowed (ok := fun l => l = 1 || l = 2) h ?_,
    fun hl => wCall_allowed (ok := fun l => l = 2 || l = 3) h ?_, fun hl => wCall_refused (ok := fun l => l = 1 || l = 2) h ?_,
    fun hl => wCall_refused (ok := fun l => l = 2 || l = 3) h ?_⟩
  · simpa using hl
  · simpa using hl
  · have hlevels : level s n ≠ 1 ∧ level s n ≠ 2 := by omega
    simpa using hlevels
  · have hlevels : level s n ≠ 2 ∧ level s n ≠ 3 := by omega
    simpa using hlevels

theorem breaks : WBrkRow := fun _ _ _ _ _ _ _ =>
  ⟨fun h => wInstr_exc h rfl, fun h hno => (if_neg (by rw [hno]; exact Bool.false_ne_true)).trans (wInstr_exc h rfl), fun hyes => if_pos hyes⟩

theorem allocatedWords : AllocatedWords := by
  unfold AllocatedWords
  decide

/-! ## Returns and WAIT (R183 to R185) -/

/-- What stands of a core after what is ahead of it is discarded. -/
theorem core_discardAhead (s : State) (n : Fin 24) : core (discardAhead s n) n = { core s n with early := [], served := [] } := by
  unfold discardAhead clearEarly
  dsimp only
  rw [core_updCore]
  split
  · rfl
  · rw [core_congr (specCount_cores ..), core_congr (specCount_cores ..), core_congr (specCount_cores ..)]

theorem returns : WReturns := by
  intro z s n fr fe t h hlevel ht hnone es u
  subst hlevel
  exact wInstr_done h ((if_neg (by omega)).trans (if_neg (by rw [hnone]; exact Bool.false_ne_true)))

/-- A body that re-enters for an interrupt moves on to its handler, which a later arrival may still take over. -/
theorem wInstr_reenter (h : Issues z n fr fe s) {body : State → IRes} {u : State} {npc : Word64} {evs : List Nat} {e : Nat × Nat}
    (hb : body s = .reenter u npc evs e) :
    wInstr n fr body z = .next (pmuRetire (level s n) n (allEvs u n (fe ++ evs)) (goesOn u n npc evs (some e))) := by
  rw [wInstr_of_issues h, hb]; rfl

theorem allEvs_of_tried {u : State} (h : (core u n).tried = (core s n).tried) (evs : List Nat) : allEvs u n evs = allEvs s n evs := by
  unfold allEvs; rw [h]

theorem tried_setSys (s : State) (n : Fin 24) (k : Nat) (v : Word64) : (core (setSys s n k v) n).tried = (core s n).tried := by
  unfold setSys; rw [core_updCore]

theorem reenters : WReenters := by
  intro z s n fr fe t q v h hlevel ht hirq hdue u
  subst hlevel
  have htried : (core u n).tried = (core s n).tried := by
    unfold u
    rw [tried_setSys, tried_setSys, tried_setSys, core_discardAhead, core_updCore]
  rw [← allEvs_of_tried htried]
  exact wInstr_reenter h (((if_neg (by omega)).trans (if_pos (by rw [hirq]; exact hdue))).trans (by rw [hirq]))

theorem waits : WWaits := by
  intro z s n fr fe h
  refine ⟨fun hpriv => wInstr_exc h (if_pos hpriv), fun hok hwake => wInstr_done h ((if_neg hok).trans (if_pos hwake)),
    fun hok hidle => wInstr_done h ((if_neg hok).trans (if_neg (by rw [hidle]; exact Bool.false_ne_true)))⟩

/-! ## TLB maintenance and barriers (R193, R194, R224, R228) -/

theorem wTlbi_allowed (h : Issues z n fr fe s) {op least : Nat} (hl : least ≤ level s n) (a : Option (Fin 32)) :
    wTlbi op least n a fr z = .next (tlbiDone fe s n op (match a with | some a => (getW s n a).toNat | none => 0)) :=
  wInstr_done h (if_neg (Nat.not_lt.2 hl))

theorem wTlbi_refused (h : Issues z n fr fe s) {op least : Nat} (hl : level s n < least) (a : Option (Fin 32)) :
    wTlbi op least n a fr z = .next (faulted s n fr (core s n).pc { code := 0x02 }) := wInstr_exc h (if_pos hl)

theorem tlbis_kernel : WTlbis1 := by
  intro z s n fr fe a h
  refine ⟨fun hl => ⟨wTlbi_allowed h hl (some a), wTlbi_allowed h hl none⟩, fun hl i hi => ?_⟩
  have hlow : level s n < 1 := by omega
  simp only [List.mem_cons, List.not_mem_nil, or_false] at hi
  rcases hi with rfl | rfl
  · exact wTlbi_refused h hlow (some a)
  · exact wTlbi_refused h hlow none

theorem tlbis_hypervisor : WTlbis2 := by
  intro z s n fr fe a h
  refine ⟨fun hl => ⟨wTlbi_allowed h hl (some a), wTlbi_allowed h hl (some a), wTlbi_allowed h hl (some a), wTlbi_allowed h hl none⟩, fun hl i hi => ?_⟩
  simp only [List.mem_cons, List.not_mem_nil, or_false] at hi
  rcases hi with rfl | rfl | rfl | rfl
  · exact wTlbi_refused h hl (some a)
  · exact wTlbi_refused h hl (some a)
  · exact wTlbi_refused h hl (some a)
  · exact wTlbi_refused h hl none

theorem tsync : WTsyncRow := fun _ _ _ _ _ h hl => wInstr_done h (if_neg hl)

theorem fences : WFences := by
  intro z s n fr fe mask env h after
  refine ⟨fun hzero => wInstr_exc h (if_pos hzero), fun hmask hpw => ?_, fun u v hpw hdrain hops hanswered => ?_⟩
  · exact wInstr_done h ((if_neg hmask).trans (if_neg (by rw [hpw]; exact Bool.false_ne_true)))
  · have hmask : mask ≠ 0 := fun hzero => by rw [hzero] at hpw; exact absurd hpw (by decide)
    have hbody : (drainWhere s n (fun _ => true) env).bind (fun t => completeOps t n env) = .ok v := by rw [hdrain]; exact hops
    refine wInstr_done h (((if_neg hmask).trans (if_pos hpw)).trans ?_)
    rw [hbody]
    exact if_neg (by rw [hanswered]; exact Bool.false_ne_true)

theorem isync : WIsyncRow := fun _ _ _ _ _ _ _ h hops => wInstr_done h (by rw [hops])

end Sys2Proof.Machine
end

section
/-!
PROOFS. O59: boundaries, interrupts, entries, exceptions and counters of a Winovar core (R171 to R182, R185, R239, R240, R255 to R257).
-/

namespace Sys2Proof.Machine

open Sys2Proof.Claims

variable {z s : State} {n : Fin 24} {fr : Front} {fe : List Nat}

/-! ## Instruction boundaries (R175, R177, R180, R182, R208) -/

theorem issues_of_running (hrun : (core z n).run = .running) (hstall : (core z n).stall = false) : issues z n = true := by
  simp [issues, hrun, hstall]

theorem wInstr_taken {t : State} (hrun : (core z n).run = .running) (hstall : (core z n).stall = false) (ht : taken z n fr = some t)
    (body : State → IRes) : wInstr n fr body z = .next t := by
  unfold wInstr
  rw [if_pos (issues_of_running hrun hstall), ht]

/-- What is taken at a boundary of an instruction that has no answer. -/
theorem taken_of_boundary (hgot : (core z n).got = []) (fr : Front) :
    taken z n fr = match storeBusDue z n, lateDue z n, irqDue z n with
      | some e, _, _ => some (takeStoreBus (wrongPath z n fr) n e)
      | none, some (t, q), _ => some (takeLate z n t q)
      | none, none, some (t, p, v) => some (enterIrq (wrongPath z n fr) n t p v)
      | none, none, none => none := if_neg fun h => h hgot

theorem boundaryFirst : BoundaryFirst := by
  intro z t n fr body
  refine ⟨fun hrun hstall ht => wInstr_taken hrun hstall ht body, fun hgot => if_pos hgot, fun hgot => ?_⟩
  have htaken := taken_of_boundary hgot fr
  refine ⟨fun e he => ?_, fun hs l q hl => ?_, fun hs hl l p v hi => ?_, fun hs hl hi => ?_⟩
  · rw [htaken, he]
  · rw [htaken, hs, hl]
  · rw [htaken, hs, hl, hi]
  · rw [htaken, hs, hl, hi]

theorem fetchAligned : FetchAligned := by
  intro z n fr body hrun hstall htaken htried hpc
  unfold wInstr fetchInstr
  rw [if_pos (issues_of_running hrun hstall), htaken, htried]
  dsimp only
  rw [if_neg (by decide), if_pos hpc]

theorem waitKeepsEvents : WaitKeepsEvents := fun _ _ _ _ _ _ _ h hb => by rw [wInstr_of_issues h, hb]; rfl

theorem storeBusWaits : StoreBusWaits := by
  intro s n e hsbus
  have hdue : storeBusDue s n =
      if (decide (level s n ≤ e.1) && !(decide (level s n = storeBusLevel s n e.1) && statusEG s n)) = true then some e else none := by
    unfold storeBusDue
    rw [hsbus]
    exact List.find?_singleton
  rw [hdue]
  refine ⟨fun hle hopen => if_pos ?_, fun hlt => if_neg ?_, fun hl heg => if_neg ?_⟩
  · rw [decide_eq_true hle, Bool.true_and, Bool.not_eq_true', ← Bool.not_eq_true, Bool.and_eq_true, decide_eq_true_eq]
    exact hopen
  · rw [decide_eq_false (Nat.not_le.2 hlt)]; exact Bool.false_ne_true
  · rw [decide_eq_true hl, heg, Bool.and_comm]; exact Bool.false_ne_true

/-- At level F an address below 2^48 is its own physical address (R186). -/
theorem translate_at_F (hlevel : level z n = 3) {va : Nat} (hva : va < 2 ^ 48) (acc : Acc) (env : MemEnv) :
    translate z n va acc env = .ok z { pa := va, ty := fixedType z va } := by
  unfold translate
  dsimp only
  rw [if_pos hlevel, Nat.mod_eq_of_lt hva]

theorem takeServed_none (h : ((core z n).served.all fun x => !x.fetch) = true) (lines : List Nat) : takeServed z n true lines = ([], z) := by
  have hnone : ∀ x ∈ (core z n).served, ¬ (x.fetch == true && lines.contains x.line) = true := fun x hx hp => by
    have hfetch := List.all_eq_true.1 h x hx
    rw [Bool.and_eq_true, beq_iff_eq] at hp
    rw [hp.1] at hfetch
    cases hfetch
  unfold takeServed
  dsimp only
  rw [List.filter_eq_nil_iff.2 hnone, if_neg fun hany => ?_]
  · rfl
  · obtain ⟨x, hx, hp⟩ := List.any_eq_true.1 hany
    exact hnone x hx hp

/-- A line that the L1 instruction cache holds without a parity error, and the L2 too, is read with no event. -/
theorem l1Line_hit {la : Nat} {env : MemEnv} {y : L2Line} (hhas : l1Has (core z n).l1i la = true) (hpar : (envAt env la).l1i = false)
    (hline : l2Line z (clusterOfCore n) la = some y) : l1Line z n true la env = (.ok z y false, []) := by
  have hhas' : l1Has (l1Of z n true) la = true := hhas
  have hbad : l1Bad z n true la env = false := by unfold l1Bad; rw [hhas', if_pos rfl, hpar]; rfl
  unfold l1Line
  simp only [hbad, hhas', hline, Bool.false_eq_true, if_false, Bool.not_false, Bool.and_self, if_true, List.append_nil]

theorem fetchHeld : FetchHeld := by
  intro z n fr y hlevel htried hpc hlow hmem hhas hpar hline hpoison hserved hahead
  have htype : fixedType z (core z n).pc.toNat = 2 := if_pos hmem
  have hfetch : fetchInstr z n fr.env = .ok z [] := by
    unfold fetchInstr
    dsimp only
    rw [if_neg (not_not.2 hpc), translate_at_F hlevel hlow]
    unfold XR.bind
    dsimp only
    rw [htype, if_neg (by decide), if_pos rfl, takeServed_none hserved]
    dsimp only
    rw [l1Line_hit hhas hpar hline]
    dsimp only
    rw [hpoison]
    rfl
  unfold fetched
  rw [htried, if_neg (by decide), hfetch, hahead]
  rfl

/-! ## Interrupts (R178 to R182, R185) -/

theorem irqEntry : IrqEntry := by
  intro s n fr hrun hstall hgot hbus hlate
  have hentry : exec (.interruptEntry n fr) s = .next ((taken s n fr).getD s) :=
    congrArg Host.Outcome.next (if_pos (issues_of_running hrun hstall))
  rw [hentry, taken_of_boundary hgot, hbus, hlate]
  refine ⟨fun h2 => ?_, fun h2 h1 => ?_, fun h2 h1 => ?_⟩
  · unfold irqDue; rw [if_pos h2]; rfl
  · unfold irqDue; rw [h2, if_neg Bool.false_ne_true, if_pos h1]; rfl
  · unfold irqDue; rw [h2, if_neg Bool.false_ne_true, h1, if_neg Bool.false_ne_true]; rfl

theorem irqDeliverable : IrqDeliverable := by
  intro s n t
  refine ⟨rfl, ?_, ?_, ?_⟩
  · unfold irqAt; split <;> rfl
  · unfold irqAt; split <;> rfl
  · unfold irqAt; split <;> rfl

theorem lateRow : LateRow := by
  intro s n t p hentry hstall hgot hlt q u
  have hdue : lateDue s n = some (t, q) := by
    unfold lateDue
    rw [hentry]
    exact if_pos ⟨by rw [hstall]; rfl, hgot, hlt⟩
  have hexec : exec (.lateArrival n) s = .next (match lateDue s n with | some (t, q) => takeLate s n t q | none => s) := rfl
  rw [hexec, hdue]
  rfl

theorem lateTooLate : LateTooLate := by
  intro s n hissued
  have hdue : lateDue s n = none := by
    unfold lateDue
    split
    · refine if_neg fun ⟨hstall, hgot, _⟩ => ?_
      rcases hissued with h | h
      · rw [h] at hstall; cases hstall
      · exact h hgot
    · rfl
  have hexec : exec (.lateArrival n) s = .next (match lateDue s n with | some (t, q) => takeLate s n t q | none => s) := rfl
  rw [hexec, hdue]

theorem storeBusRow : SbusRow := by
  intro s n fr e hrun hstall hgot hdue w t u
  refine congrArg Host.Outcome.next ((if_pos ?_).trans ?_)
  · rw [issues_of_running hrun hstall, hgot]; rfl
  · rw [hdue]; rfl

theorem waitEndRow : WaitEndRow := fun _ _ hidle hwake hclock =>
  congrArg Host.Outcome.next (if_pos ⟨hidle, hwake, by rw [hclock]; rfl⟩)

/-! ## Entries and exceptions (R171 to R176, R239) -/

theorem aheadDiscarded : AheadDiscarded := by
  intro s n u k
  refine ⟨fun hk => ?_, fun hk => ?_, fun _ => rfl⟩
  · exact congrArg (clearEarly · n) (if_pos hk)
  · exact congrArg (clearEarly · n) (if_neg hk)

theorem exceptionTaken : ExceptionTaken := fun _ _ epc _ =>
  ⟨raiseExc_enters epc, raiseExc_doubles epc, raiseExc_stops epc⟩

theorem causeLevels : CauseLevels := by
  intro s n own
  have hlevel := level_le s n
  have hnone : ownLevel s n none = own none := rfl
  have hsome : ∀ i, ownLevel s n (some i) = own (some i) := fun i =>
    if_congr (by rw [Bool.and_eq_true, decide_eq_true_eq]; exact and_comm) rfl rfl
  refine ⟨hsome 1, fun c hc => ?_, fun c hc => ?_, fun c hc => ?_, rfl, fun hlt => ?_⟩
  · fin_cases hc <;> exact hnone
  · fin_cases hc <;> rfl
  · fin_cases hc <;> exact hsome 3
  · exact Nat.min_eq_right hlt

/-- Loads and lines ahead of a core. -/
def aheadOf (s : State) (n : Fin 24) : List Early × List Served := ((core s n).early, (core s n).served)

theorem aheadOf_setSys (s : State) (n : Fin 24) (k : Nat) (v : Word64) : aheadOf (setSys s n k v) n = aheadOf s n := by
  unfold aheadOf setSys; rw [core_updCore]

theorem aheadOf_putSaved (s : State) (n : Fin 24) (t old : Nat) (st epc cause eaddr : Word64) :
    aheadOf (putSaved s n t old st epc cause eaddr) n = aheadOf s n := by
  simp only [putSaved, aheadOf_setSys]

theorem aheadOf_putCause (s : State) (n : Fin 24) (t : Nat) (egpa thr : Option Nat) : aheadOf (putCause s n t egpa thr) n = aheadOf s n := by
  cases egpa <;> cases thr <;> simp only [putCause, aheadOf_setSys]

/-- A change of the cores alone. -/
def OnlyCores (s u : State) : Prop := u = { s with cores := u.cores }

theorem OnlyCores.trans {s t u : State} (h : OnlyCores s t) (h' : OnlyCores t u) : OnlyCores s u :=
  Eq.trans h' (congrArg (fun v : State => { v with cores := u.cores }) h)

theorem onlyCores_setSys (s : State) (n : Fin 24) (k : Nat) (v : Word64) : OnlyCores s (setSys s n k v) := rfl

theorem onlyCores_putSaved (s : State) (n : Fin 24) (t old : Nat) (st epc cause eaddr : Word64) :
    OnlyCores s (putSaved s n t old st epc cause eaddr) :=
  (onlyCores_setSys ..).trans ((onlyCores_setSys ..).trans ((onlyCores_setSys ..).trans (onlyCores_setSys ..)))

theorem onlyCores_putCause (s : State) (n : Fin 24) (t : Nat) (egpa thr : Option Nat) : OnlyCores s (putCause s n t egpa thr) := by
  cases egpa <;> cases thr
  · exact onlyCores_setSys ..
  · exact (onlyCores_setSys ..).trans (onlyCores_setSys ..)
  · exact (onlyCores_setSys ..).trans (onlyCores_setSys ..)
  · exact (onlyCores_setSys ..).trans ((onlyCores_setSys ..).trans (onlyCores_setSys ..))

theorem onlyCores_enterAt (s : State) (n : Fin 24) (pc : Word64) : OnlyCores s (enterAt s n pc) := rfl

section Entry

variable {t off : Nat} {epc cause eaddr : Word64} {egpa thr : Option Nat}

/-- Nothing that was ahead of the core, or that it held for its instruction, stands after an entry. -/
theorem enterLevel_clears : let c := core (enterLevel s n t epc cause eaddr egpa thr off) n
    c.resv = none ∧ c.early = [] ∧ c.served = [] ∧ c.tried = none ∧ c.xlats = [] := by
  have hahead : ∀ old st, aheadOf (putCause (putSaved (discardAhead s n) n t old st epc cause eaddr) n t egpa thr) n = ([], []) := fun old st => by
    rw [aheadOf_putCause, aheadOf_putSaved, aheadOf, core_discardAhead]
  rw [enterLevel_eq]
  unfold enterAt
  dsimp only
  rw [core_updCore]
  exact ⟨rfl, congrArg (·.1) (hahead _ _), congrArg (·.2) (hahead _ _), rfl, rfl⟩

/-- The handler is at an offset from the vector base of its level (R173). -/
theorem pc_enterLevel : (core (enterLevel s n t epc cause eaddr egpa thr off) n).pc =
    sysr (enterLevel s n t epc cause eaddr egpa thr off) n (lvlReg t 0) + BitVec.ofNat 64 off := by
  rw [enterLevel_eq]
  dsimp only
  rw [sysr_enterAt]
  unfold enterAt
  rw [core_updCore]

/-- The registers of level T after an entry to it. -/
theorem sysr_enterLevel_own {i : Nat} (hi : i ≤ 4) (hegpa : t ≠ 2 → egpa = none) :
    sysr (enterLevel s n t epc cause eaddr egpa thr off) n (lvlReg t i) =
      if i = 4 then eaddr else if i = 3 then cause
      else if i = 2 then BitVec.ofNat 64 (fld (sysr s n 0x400) 0 4 + threshold s n t * 2 ^ 8)
      else if i = 1 then epc &&& ~~~(3 : Word64) else sysr s n (lvlReg t i) := by
  have hstage2 : ¬ (egpa.isSome ∧ lvlReg t i = 0x805) := fun ⟨hsome, heq⟩ => by
    by_cases h2 : t = 2
    · subst h2
      rw [show lvlReg 2 i = 0x800 + i from rfl] at heq
      omega
    · rw [hegpa h2] at hsome; cases hsome
  rw [sysr_enterLevel, if_neg fun h => lvlReg_ne_thrReg t i hi h.2, if_neg (lvlReg_ne_status t i hi), if_neg hstage2]
  simp only [lvlReg_inj]

theorem egpa_enterLevel (a : Nat) (h : egpa = some a) : sysr (enterLevel s n t epc cause eaddr egpa thr off) n 0x805 = BitVec.ofNat 64 a := by
  have hthr : 0x805 ≠ thrReg t := by unfold thrReg; split <;> decide
  subst h
  rw [sysr_enterLevel, if_neg fun h => hthr h.2, if_neg (by decide), if_pos ⟨rfl, rfl⟩]
  rfl

theorem threshold_enterLevel (p : Nat) (h : thr = some p) (ht : t ≠ 3) (hp : p < 16) :
    threshold (enterLevel s n t epc cause eaddr egpa thr off) n t = p := by
  subst h
  unfold threshold
  rw [if_neg ht, sysr_enterLevel, if_pos ⟨rfl, rfl⟩]
  simp only [fld, Option.getD_some, BitVec.toNat_ofNat]
  omega

theorem sysr_enterLevel_other {k : Nat} (h : entryWrites t egpa thr k = false) :
    sysr (enterLevel s n t epc cause eaddr egpa thr off) n k = sysr s n k := by
  simp only [entryWrites, Bool.or_eq_false_iff, decide_eq_false_iff_not] at h
  obtain ⟨⟨⟨⟨⟨⟨h1, h2⟩, h3⟩, h4⟩, hstatus⟩, hegpa⟩, hthr⟩ := h
  have hegpa' : ¬ (egpa.isSome = true ∧ k = 0x805) := by simpa using hegpa
  have hthr' : ¬ (thr.isSome = true ∧ k = thrReg t) := by simpa using hthr
  rw [sysr_enterLevel, if_neg hthr', if_neg hstatus, if_neg hegpa', if_neg h4, if_neg h3, if_neg h2, if_neg h1]

/-- Beside what it discards ahead an entry changes the cores alone. -/
theorem onlyCores_enterLevel : OnlyCores (discardAhead s n) (enterLevel s n t epc cause eaddr egpa thr off) := by
  rw [enterLevel_eq]
  exact (onlyCores_putSaved ..).trans ((onlyCores_putCause ..).trans (onlyCores_enterAt ..))

end Entry

theorem entrySaves : EntrySaves := by
  intro s n t epc cause eaddr egpa thr off _ h3 hthr hp hegpa u
  have hown : ∀ i, i ≤ 4 → sysr u n (lvlReg t i) = _ := fun i hi => sysr_enterLevel_own hi hegpa
  obtain ⟨hlevel, hie, heg⟩ := entered_status (s := u) h3 (status_enterLevel ..)
  obtain ⟨hresv, hearly, hserved, htried, hxlats⟩ : _ ∧ _ ∧ _ ∧ _ ∧ _ :=
    enterLevel_clears (s := s) (n := n) (t := t) (epc := epc) (cause := cause) (eaddr := eaddr) (egpa := egpa) (thr := thr) (off := off)
  have hcontrol : ControlOf n s u := enterLevel_control ..
  have hpc : (core u n).pc = sysr s n (lvlReg t 0) + BitVec.ofNat 64 off := pc_enterLevel.trans (congrArg (· + _) (hown 0 (by decide)))
  refine ⟨hown 1 (by decide), hown 2 (by decide), hown 3 (by decide), hown 4 (by decide), hlevel, hie, heg, egpa_enterLevel, fun p hsome => ?_,
    hresv, hearly, hserved, htried, hxlats, hpc, fun k hk => sysr_enterLevel_other hk, fun r => ⟨?_, ?_⟩, hcontrol.within.others, onlyCores_enterLevel⟩
  · refine threshold_enterLevel p hsome (fun ht => ?_) (hp p hsome)
    rw [hthr ht] at hsome; cases hsome
  · exact (hcontrol.leaves none none).getW n r (.inr nofun)
  · exact (hcontrol.leaves none none).getFr n r (.inr nofun)

/-! ## Counters (R240, R255 to R257) -/

theorem aheadCounts : AheadCounts := by
  intro s t n env a x ea hlen hline hxlat hty hmiss
  have hin : ¬ (a.len = 0 ∨ 64 < ea % 64 + a.len.val) := fun h => h.elim hlen (Nat.not_lt.2 hline)
  unfold readAhead
  dsimp only
  rw [if_neg hin, hxlat]
  dsimp only
  rw [hmiss]
  exact if_pos hty

theorem specWrap : SpecWrapRow := fun _ _ _ hlast hevent => congrArg Host.Outcome.next (if_pos ⟨hlast, hevent⟩)

/-- A counter at its last value wraps to zero and sets its bit (R255). -/
theorem pmuAdd_wraps {off : Nat} (h : rd s (.wcc n) off = 0xFFFFFFFF) (i : Nat) :
    pmuAdd s n off i 1 = setIrq (wr s (.wcc n) off 0) (.wcc n) (2 ^ i) := by
  unfold pmuAdd
  dsimp only
  rw [h]
  exact if_pos (by decide)

/-- No counter counts at level F (R255). -/
theorem pmuLevel_F (v : Reg32) {l : Nat} (hl : 3 ≤ l) : pmuLevel v l = false := by
  unfold pmuLevel
  rw [decide_eq_false (Nat.not_lt.2 hl)]
  rfl

theorem pmuWrap : PmuWrapRow := by
  intro s n i
  have hkeeps : pmuMay s n i = false → exec (.pmuCounterWrap n i) s = .next s := fun hno =>
    congrArg Host.Outcome.next (if_neg (by rw [hno]; exact Bool.false_ne_true))
  refine ⟨fun hmay hlast => ?_, fun hstop => hkeeps ?_, fun hprog hnone => hkeeps ?_⟩
  · refine congrArg Host.Outcome.next ((if_pos ?_).trans (pmuAdd_wraps hlast i))
    rw [hmay, decide_eq_true hlast]; rfl
  · unfold pmuMay
    rcases hstop with hoff | hF | hclock
    · rw [hoff]; rfl
    · simp only [pmuLevel_F _ (Nat.le_of_eq hF.symm), Bool.false_and, ite_self, Bool.and_false]
    · rw [hclock, Bool.and_false]; rfl
  · unfold pmuMay
    rw [if_neg (Nat.not_lt.2 hprog), hnone]
    simp

theorem rd_pmuAdd_same (s : State) (n : Fin 24) {off : Nat} (ho : off < 0x1000) (h10 : off ≠ 0x010) (i k : Nat) :
    rd (pmuAdd s n off i k) (.wcc n) off = rd s (.wcc n) off + BitVec.ofNat 32 k := by
  unfold pmuAdd
  dsimp only
  split
  · rw [rd_setIrq_apart _ _ ho fun h => h10 h.2, rd_wr]
  · rw [rd_wr]

theorem rd_pmuAdd_other (s : State) (n : Fin 24) {off o : Nat} (hoff : off < 0x1000) (ho : o < 0x1000) (h10 : o ≠ 0x010) (hne : o ≠ off) (i k : Nat) :
    rd (pmuAdd s n off i k) (.wcc n) o = rd s (.wcc n) o := by
  unfold pmuAdd
  dsimp only
  split
  · rw [rd_setIrq_apart _ _ ho fun h => h10 h.2, rd_wr_apart _ _ ho hoff fun h => hne h.2]
  · rw [rd_wr_apart _ _ ho hoff fun h => hne h.2]

/-- An event changes the programmable counters alone, and the interrupt status. -/
theorem rd_pmuCount {o : Nat} (ho : o < 0x068) (h10 : o ≠ 0x010) (l : Nat) (n : Fin 24) (k : Nat) (s : State) (ev : Nat) :
    rd (pmuCount l n k s ev) (.wcc n) o = rd s (.wcc n) o := by
  unfold pmuCount
  split
  · refine List.foldlRecOn (motive := fun t => rd t (.wcc n) o = rd s (.wcc n) o) _ _ rfl fun t ht i hi => ?_
    have hi3 : i ≤ 3 := by
      revert i; decide
    split
    · exact (rd_pmuAdd_other t n (by omega) (by omega) h10 (by omega) ..).trans ht
    · exact ht
  · rfl

/-- At level F an event changes nothing (R255). -/
theorem pmuCount_F {l : Nat} (hl : 3 ≤ l) (n : Fin 24) (k : Nat) (s : State) (ev : Nat) : pmuCount l n k s ev = s := by
  unfold pmuCount
  simp only [pmuLevel_F _ hl, Bool.and_false, Bool.false_eq_true, if_false, List.foldl_cons, List.foldl_nil, ite_self]

/-- Cycles at level F change nothing (R255). -/
theorem pmuCycles_F {l : Nat} (hl : 3 ≤ l) (n : Fin 24) (k r : Nat) (s : State) : pmuCycles n l k r s = s := by
  unfold pmuCycles
  simp only [pmuLevel_F _ hl, pmuCount_F hl, Bool.false_eq_true, if_false, ite_self]

/-- The speculative counters are of the cluster's page, not of the core's. -/
theorem rd_specCount_core {o : Nat} (ho : o < 0x1000) (n m : Fin 24) (ev k : Nat) (s : State) :
    rd (specCount n ev k s) (.wcc m) o = rd s (.wcc m) o := by
  unfold specCount
  refine List.foldlRecOn (motive := fun t => rd t (.wcc m) o = rd s (.wcc m) o) _ _ rfl fun t ht i hi => ?_
  have hi1 : i ≤ 1 := by
    revert i; decide
  have hwr : ∀ v, rd (wr t (.wc (Fin.ofNat 3 (n.val / 8))) (0x048 + 4 * i) v) (.wcc m) o = rd s (.wcc m) o := fun v =>
    (rd_wr_apart t v ho (by omega) fun ⟨hp, _⟩ => by cases hp).trans ht
  dsimp only
  split
  · split
    · exact (rd_setIrq_apart _ _ ho fun ⟨hp, _⟩ => by cases hp).trans (hwr _)
    · exact hwr _
  · exact ht

theorem rd_pmuCycles (n : Fin 24) (l k r : Nat) (s : State) :
    rd (pmuCycles n l k r s) (.wcc n) 0x060 =
      rd s (.wcc n) 0x060 + if rdB s (.wcc n) 0x040 0 && pmuLevel (rd s (.wcc n) 0x040) l then BitVec.ofNat 32 k else 0 := by
  unfold pmuCycles
  split
  · next hstop =>
    rcases hstop with hzero | hoff
    · rw [hzero]; simp
    · rw [hoff]; simp
  · next hruns =>
    have hon : rdB s (.wcc n) 0x040 0 = true := Bool.eq_true_of_not_eq_false fun h => hruns (.inr h)
    dsimp only
    rw [rd_pmuCount (by decide) (by decide), rd_pmuCount (by decide) (by decide), hon, Bool.true_and]
    split
    · rw [rd_pmuAdd_same _ _ (by decide) (by decide)]
    · exact (BitVec.add_zero _).symm

theorem rd_pmuRetire (l : Nat) (n : Fin 24) (evs : List Nat) (s : State) :
    rd (pmuRetire l n evs s) (.wcc n) 0x064 =
      rd s (.wcc n) 0x064 + if rdB s (.wcc n) 0x040 0 && pmuLevel (rd s (.wcc n) 0x040) l then 1 else 0 := by
  have hevents : ∀ t : State, rd ((2 :: evs).foldl (pmuEvent l n) t) (.wcc n) 0x064 = rd t (.wcc n) 0x064 :=
    foldl_frame (fun t => rd t (.wcc n) 0x064) _ (fun t ev => rd_pmuCount (by decide) (by decide) l n 1 t _) _
  have hupd : ∀ (t : State) (g : CoreRec → CoreRec), rd (updCore t n g) (.wcc n) 0x064 = rd t (.wcc n) 0x064 := fun _ _ => rfl
  unfold pmuRetire
  rw [rd_specCount_core (by decide), hupd, hevents]
  split
  · rw [rd_pmuAdd_same _ _ (by decide) (by decide)]; rfl
  · exact (BitVec.add_zero _).symm

theorem pmuCounts : PmuCounts := fun s n l k r evs =>
  ⟨rd_pmuCycles n l k r s, rd_pmuRetire l n evs s, fun hl _ _ _ => by rw [pmuCycles_F hl]⟩

/-- Settles O59: each row is its body in the frame of an issued instruction, and each operation of the core what its definition says. -/
theorem winovarFlowAndSystem : Obligations.WinovarFlowAndSystem :=
  ⟨branches, jumps, jalr, returnStack, predictorContexts, tablesPredict, wrongPathLeaves, mfs, mts, systemTraps, calls, breaks, allocatedWords,
    returns, reenters, waits, tlbis_kernel, tlbis_hypervisor, tsync, fences, isync, irqEntry, irqDeliverable, lateRow, lateTooLate, storeBusRow,
    waitEndRow, pmuWrap, pmuCounts, aheadCounts, specWrap, fetchAligned, boundaryFirst, storeBusWaits, fetchHeld, waitKeepsEvents, entrySaves,
    aheadDiscarded, exceptionTaken, causeLevels⟩

end Sys2Proof.Machine
end

section
/-!
PROOFS. O56: the divisions of a Winovar core and the boundary cases of its integer operations (R205, R206).
-/

namespace Sys2Proof.Machine

open Sys2Proof.Claims

/-! ## Quotients and remainders of the low `w` bits (R205) -/

/-- The low `w` bits of a register as a two's complement number. -/
theorem sextN_toNat {w : Nat} (hw : 0 < w) (x : Word64) : sextN w x.toNat = (x.setWidth w).toInt := by
  have hpow : 2 ^ w = 2 ^ (w - 1) * 2 := by rw [← Nat.pow_succ, Nat.succ_eq_add_one, Nat.sub_add_cancel hw]
  unfold sextN
  rw [BitVec.toInt_eq_toNat_cond, BitVec.toNat_setWidth]
  exact if_congr (by omega) rfl (congrArg _ (Int.natCast_pow 2 w).symm)

theorem setWidth_ofInt_of_le {w : Nat} (hw : w ≤ 64) (z : Int) : (BitVec.ofInt 64 z).setWidth w = BitVec.ofInt w z := by
  rw [← BitVec.signExtend_eq_setWidth_of_le _ hw]
  refine BitVec.eq_of_toInt_eq ?_
  rw [BitVec.signExtend, BitVec.toInt_ofInt, BitVec.toInt_ofInt, BitVec.toInt_ofInt, Int.bmod_bmod_of_dvd (Nat.pow_dvd_pow 2 hw)]

theorem toInt_eq_zero_iff {w : Nat} (x : BitVec w) : x.toInt = 0 ↔ x = 0 := by
  rw [← BitVec.toInt_inj]; exact Eq.congr_right BitVec.toInt_zero.symm

theorem setWidth_eq_zero_iff {w : Nat} (x : Word64) : x.setWidth w = 0 ↔ x.toNat % 2 ^ w = 0 := by
  rw [← BitVec.toNat_inj, BitVec.toNat_setWidth]; simp

section
variable {w : Nat} (hw : w ≤ 64) (x y : Word64)
include hw

theorem divS_low (hpos : 0 < w) :
    (divS w x.toNat y.toNat).setWidth w = if y.setWidth w = 0 then BitVec.ofInt w (-1) else (x.setWidth w).sdiv (y.setWidth w) := by
  have hquot : BitVec.ofInt w ((x.setWidth w).toInt.tdiv (y.setWidth w).toInt) = (x.setWidth w).sdiv (y.setWidth w) :=
    BitVec.eq_of_toInt_eq (by rw [BitVec.toInt_ofInt, BitVec.toInt_sdiv])
  simp only [divS, sextN_toNat hpos, toInt_eq_zero_iff, apply_ite (BitVec.setWidth w), setWidth_ofInt_of_le hw, hquot]

theorem remS_low (hpos : 0 < w) :
    (remS w x.toNat y.toNat).setWidth w = if y.setWidth w = 0 then x.setWidth w else (x.setWidth w).srem (y.setWidth w) := by
  have hrem : BitVec.ofInt w ((x.setWidth w).toInt.tmod (y.setWidth w).toInt) = (x.setWidth w).srem (y.setWidth w) := by
    rw [← BitVec.toInt_srem, BitVec.ofInt_toInt]
  simp only [remS, sextN_toNat hpos, toInt_eq_zero_iff, apply_ite (BitVec.setWidth w), setWidth_ofInt_of_le hw, hrem, BitVec.ofInt_toInt]

theorem divU_low : (divU w x.toNat y.toNat).setWidth w = if y.setWidth w = 0 then BitVec.ofInt w (-1) else x.setWidth w / y.setWidth w := by
  simp only [divU, ← setWidth_eq_zero_iff, apply_ite (BitVec.setWidth w), setWidth_ofInt_of_le hw, BitVec.setWidth_ofNat_of_le hw, BitVec.udiv_def,
    BitVec.toNat_setWidth]

theorem remU_low : (remU w x.toNat y.toNat).setWidth w = if y.setWidth w = 0 then x.setWidth w else x.setWidth w % y.setWidth w := by
  have hlow : BitVec.ofNat w (x.toNat % 2 ^ w) = x.setWidth w := by rw [← BitVec.toNat_setWidth, BitVec.ofNat_toNat, BitVec.setWidth_eq]
  simp only [remU, ← setWidth_eq_zero_iff, apply_ite (BitVec.setWidth w), BitVec.setWidth_ofNat_of_le hw, hlow, BitVec.umod_def,
    BitVec.toNat_setWidth]

end

/-! ## Quotient times divisor plus remainder (R205) -/

theorem sdiv_mul_add_srem {w : Nat} (x y : BitVec w) : x.sdiv y * y + x.srem y = x := by
  refine BitVec.eq_of_toInt_eq ?_
  rw [BitVec.toInt_add, BitVec.toInt_mul, BitVec.toInt_sdiv, BitVec.toInt_srem, Int.bmod_mul_bmod, Int.bmod_add_bmod, Int.tdiv_mul_add_tmod,
    ← BitVec.toInt_ofInt, BitVec.ofInt_toInt]

theorem udiv_mul_add_umod {w : Nat} (x y : BitVec w) : x / y * y + x % y = x := by
  refine BitVec.eq_of_toNat_eq ?_
  rw [BitVec.toNat_add, BitVec.toNat_mul, BitVec.toNat_udiv, BitVec.toNat_umod, Nat.mod_add_mod, Nat.div_add_mod', Nat.mod_eq_of_lt x.isLt]

/-- The identity holds for the divisor 0 too: any quotient is multiplied by 0, and the remainder is the dividend (R206). -/
theorem quotient_mul_add_remainder {w : Nat} {x y q r : BitVec w} (c : BitVec w) (h : q * y + r = x) :
    (if y = 0 then c else q) * y + (if y = 0 then x else r) = x := by
  split
  · next hy => rw [hy]; simp
  · exact h

theorem divisions_follow : DivisionsFollow := by
  intro x y
  have hs : ∀ {w : Nat}, 0 < w → w ≤ 64 →
      (divS w x.toNat y.toNat).setWidth w * y.setWidth w + (remS w x.toNat y.toNat).setWidth w = x.setWidth w := fun hpos hw => by
    rw [divS_low hw x y hpos, remS_low hw x y hpos]
    exact quotient_mul_add_remainder _ (sdiv_mul_add_srem ..)
  have hu : ∀ {w : Nat}, w ≤ 64 →
      (divU w x.toNat y.toNat).setWidth w * y.setWidth w + (remU w x.toNat y.toNat).setWidth w = x.setWidth w := fun hw => by
    rw [divU_low hw x y, remU_low hw x y]
    exact quotient_mul_add_remainder _ (udiv_mul_add_umod ..)
  have hs64 := hs (w := 64) (by decide) (Nat.le_refl 64)
  have hu64 := hu (Nat.le_refl 64)
  rw [BitVec.setWidth_eq, BitVec.setWidth_eq, BitVec.setWidth_eq, BitVec.setWidth_eq] at hs64 hu64
  exact ⟨hs64, hu64, hs (by decide) (by decide), hu (by decide)⟩

/-! ## The rows (R205) -/

/-- A result of a W form is the sign extension of its low 32 bits. -/
theorem sext32_of_low {p : Prop} [Decidable p] {q : Word64} {u v : BitVec 32} (h : q.setWidth 32 = if p then u else v) :
    sext32 q = if p then u.signExtend 64 else v.signExtend 64 := (congrArg (BitVec.signExtend 64) h).trans (apply_ite ..)

theorem division_rows : WDivisions := by
  intro z s n fr fe d a b h
  have hdiv := divS_low (Nat.le_refl 64) (getW s n a) (getW s n b) (by decide)
  have hdivu := divU_low (Nat.le_refl 64) (getW s n a) (getW s n b)
  have hrem := remS_low (Nat.le_refl 64) (getW s n a) (getW s n b) (by decide)
  have hremu := remU_low (Nat.le_refl 64) (getW s n a) (getW s n b)
  simp only [BitVec.setWidth_eq] at hdiv hdivu hrem hremu
  exact ⟨row_of_value h _ hdiv rfl, row_of_value h _ hdivu rfl, row_of_value h _ hrem rfl, row_of_value h _ hremu rfl,
    row_of_value h _ (sext32_of_low (divS_low (by decide) _ _ (by decide))) rfl, row_of_value h _ (sext32_of_low (divU_low (by decide) ..)) rfl,
    row_of_value h _ (sext32_of_low (remS_low (by decide) _ _ (by decide))) rfl, row_of_value h _ (sext32_of_low (remU_low (by decide) ..)) rfl⟩

/-! ## The boundary cases (R206) -/

theorem boundary_rows : WBoundaries := by
  intro z s n fr fe d a b k h
  obtain ⟨hdiv, hdivu, hrem, hremu, hdivw, hdivuw, hremw, hremuw⟩ := division_rows z s n fr fe d a b h
  obtain ⟨-, hsub, -⟩ := logic_rows z s n fr fe d 0 b h
  obtain ⟨-, -, -, -, -, -, hsll, -⟩ := logic_rows z s n fr fe d a b h
  obtain ⟨-, hsubw, -⟩ := word_rows z s n fr fe d 0 b h
  obtain ⟨-, -, -, hsrlw, -⟩ := word_rows z s n fr fe d a b h
  obtain ⟨hclz, hctz, -⟩ := count_rows z s n fr fe d a h
  refine ⟨fun hb => ?_, fun hb => ?_, fun ha hb => ?_, fun hb => ?_, fun hb => ?_, fun ha hb => ?_, fun hb => ?_, fun hb => ?_, fun hk hb => ?_, fun hk => ?_,
    fun ha hb => ?_, fun ha => ?_⟩
  · exact ⟨by rw [hdiv, if_pos hb], by rw [hdivu, if_pos hb]⟩
  · exact ⟨by rw [hrem, if_pos hb], by rw [hremu, if_pos hb]⟩
  · rw [hdiv, hrem, ha, hb]; exact ⟨rfl, rfl⟩
  · exact ⟨by rw [hdivw, if_pos hb], by rw [hdivuw, if_pos hb]⟩
  · exact ⟨by rw [hremw, if_pos hb], by rw [hremuw, if_pos hb]⟩
  · rw [hdivw, hremw, ha, hb]; exact ⟨rfl, rfl⟩
  · rw [hsub, getW_zero, hb]; rfl
  · rw [hsubw, getW_zero, hb]; rfl
  · have hcount : (getW s n b).toNat % 64 = k := by
      rw [hb, BitVec.toNat_ofNat]; omega
    rw [hsll, hcount]
  · have hcount : (Fin.ofNat 64 (64 + k)).val = k := by
      rw [Fin.val_ofNat]; omega
    rw [(shiftImmediate_rows z s n fr fe d a _ h).1, hcount]
  · rw [hsrlw, ha, hb]; rfl
  · rw [hclz, hctz, ha]; exact ⟨rfl, rfl⟩

/-- Settles O56: each division by the low bits of its quotient and remainder, which give the dividend back, and R206's cases from the rows. -/
theorem winovarDivisions : Obligations.WinovarDivisions := ⟨division_rows, boundary_rows, divisions_follow⟩

end Sys2Proof.Machine
end

section
/-!
PROOFS. O57: the floating-point operations of a Winovar core (R215 to R220), beside the rows that O60 settles.
-/

namespace Sys2Proof.Machine

open Sys2Proof.Claims

/-! ## Rounding modes and flags (R215, R216) -/

theorem dynamicMode : FDynamic := by
  intro s n rm
  refine ⟨fun h => ?_, fun h => ?_, fun h => ?_⟩ <;> unfold fpMode
  · rw [if_neg (by omega), if_pos h]
  · rw [if_pos h]
  · rw [if_neg (by omega), if_neg (by omega)]

/-- A reserved mode raises UNDEF at the pc, whatever the row computes and wherever its result would go. -/
theorem fpRounded_undef {z s : State} {n : Fin 24} {fr : Front} {fe : List Nat} (h : Issues z n fr fe s) {rm : Fin 8} (hm : 6 ≤ rm.val)
    (k : Nat → State → Nat × FFlags) (put : State → Nat × FFlags → State) :
    fpRounded n rm k put fr z = .next (faulted s n fr (core s n).pc { code := 0x01 }) := by
  obtain ⟨-, -, hnone⟩ := dynamicMode s n rm
  exact wInstr_exc h (by rw [hnone hm])

theorem reservedModes : FReserved := fun _ _ _ _ _ _ _ _ _ _ _ h hm =>
  ⟨fpRounded_undef h hm .., fpRounded_undef h hm .., fpRounded_undef h hm .., fpRounded_undef h hm .., fpRounded_undef h hm ..,
    fpRounded_undef h hm .., fpRounded_undef h hm .., fpRounded_undef h hm .., fpRounded_undef h hm .., fpRounded_undef h hm ..,
    fpRounded_undef h hm .., fpRounded_undef h hm .., fpRounded_undef h hm .., fpRounded_undef h hm .., fpRounded_undef h hm ..,
    fpRounded_undef h hm .., fpRounded_undef h hm .., fpRounded_undef h hm ..⟩

/-- The flags stand in bits 4:0 in the order NV, DZ, OF, UF, NX. -/
theorem testBit_flags (f : FFlags) (i : Nat) :
    (f.nv.toNat + 2 * f.dz.toNat + 4 * f.of.toNat + 8 * f.uf.toNat + 16 * f.nx.toNat).testBit i =
      ((decide (i = 0) && f.nv) || (decide (i = 1) && f.dz) || (decide (i = 2) && f.of) || (decide (i = 3) && f.uf) || (decide (i = 4) && f.nx)) := by
  have hbinary : f.nv.toNat + 2 * f.dz.toNat + 4 * f.of.toNat + 8 * f.uf.toNat + 16 * f.nx.toNat =
      Nat.bit f.nv (Nat.bit f.dz (Nat.bit f.of (Nat.bit f.uf (Nat.bit f.nx 0)))) := by
    simp only [Nat.bit_val]; omega
  rw [hbinary]
  match i with
  | 0 | 1 | 2 | 3 | 4 | i + 5 => simp [Nat.testBit_bit_succ]

theorem flagsStick : FFlagsStick := by
  intro s n f i
  unfold fpFlags bit
  rw [sysr_setSys, BitVec.getLsbD_or, BitVec.getLsbD_ofNat, testBit_flags]
  by_cases hi : i < 64
  · simp [hi, Bool.or_assoc]
  · have hno : ∀ k < 64, decide (i = k) = false := fun k hk => decide_eq_false (by omega)
    simp [hi, hno]

/-! ## NaN, infinities and zeros (R217 to R219) -/

theorem binaryOps_nan (f : FFmt) (rm : Nat) {x y : FVal} (h : (isNaN x || isNaN y) = true) :
    fAddV f rm x y = (fNaN f, { nv := isSig x || isSig y }) ∧ fMulV f rm x y = (fNaN f, { nv := isSig x || isSig y }) ∧
      fDivV f rm x y = (fNaN f, { nv := isSig x || isSig y }) := by
  cases x with
  | nan a =>
    cases y with
    | nan b => exact ⟨rfl, rfl, rfl⟩
    | inf b | fin b m e => simp [fAddV, fMulV, fDivV, isSig]
  | inf a | fin a m e =>
    cases y with
    | nan b => exact ⟨rfl, rfl, rfl⟩
    | inf b | fin b m e => cases h

theorem specials_follow : SpecialsFollow := by
  refine ⟨fun f rm _ _ => binaryOps_nan f rm, fun _ _ _ => ⟨rfl, rfl⟩, fun _ _ _ _ _ _ => ⟨rfl, rfl⟩, fun _ _ _ _ _ _ _ hm => ?_,
    fun _ _ _ _ hm => ?_, rfl, rfl⟩
  · simp only [fDivV, if_true, if_neg (Nat.ne_of_gt hm)]
  · simp only [fSqrtV, if_true, if_neg (Nat.ne_of_gt hm), fInvalid]

/-! ## Conversions to integers (R220) -/

theorem wrapN_natCast {w k : Nat} (h : k < 2 ^ w) : wrapN w k = k := by
  have hmod : (k : Int) % 2 ^ w = k := Int.emod_eq_of_lt (Int.natCast_nonneg k) (by exact_mod_cast h)
  rw [wrapN, hmod, Int.toNat_natCast]

/-- The lowest signed number wraps to its magnitude, the bit of the sign alone. -/
theorem wrapN_neg_half {w : Nat} (hw : 0 < w) : wrapN w (-(2 ^ (w - 1) : Nat)) = 2 ^ (w - 1) := by
  obtain ⟨w, rfl⟩ := Nat.exists_eq_succ_of_ne_zero (Nat.ne_of_gt hw)
  have hpow : (2 : Int) ^ (w + 1) = (2 ^ w : Nat) + (2 ^ w : Nat) := by push_cast; ring
  have hmod : (-(2 ^ w : Nat) : Int) % 2 ^ (w + 1) = (2 ^ w : Nat) := by
    rw [← Int.add_emod_right, hpow, neg_add_cancel_left]
    exact Int.emod_eq_of_lt (Int.natCast_nonneg _) (Int.lt_add_of_pos_left _ (by exact_mod_cast Nat.two_pow_pos w))
  exact congrArg Int.toNat hmod

theorem conversion_edges : ConversionEdges := by
  intro w signed rm hw hi lo
  have hpos : 0 < w := by omega
  have hpow : 2 ^ (w - 1) ≤ 2 ^ w := Nat.pow_le_pow_right (by decide) (Nat.sub_le w 1)
  have hlt : hi < 2 ^ w := by
    have hone := Nat.two_pow_pos w
    cases signed
    · exact Nat.sub_lt hone (by decide)
    · exact Nat.lt_of_lt_of_le (Nat.sub_lt (Nat.two_pow_pos _) (by decide)) hpow
  have hhi : (if signed then 2 ^ (w - 1) - 1 else 2 ^ w - 1 : Int) = hi := by cases signed <;> simp [hi, Nat.one_le_two_pow]
  have hlo : (if signed then -(2 ^ (w - 1)) else 0 : Int) = -lo := by cases signed <;> simp [lo]
  have hwrapHi : wrapN w hi = hi := wrapN_natCast hlt
  have hwrapLo : wrapN w (-lo) = lo := by
    cases signed
    · exact wrapN_natCast (Nat.two_pow_pos w)
    · exact wrapN_neg_half hpos
  clear_value hi lo
  simp only [fToInt, hhi, hlo, hwrapHi, hwrapLo, if_true, Bool.false_eq_true, if_false]
  refine ⟨fun _ => trivial, trivial, trivial, fun m e h => ?_, fun m e h => ?_, fun m e h => ?_⟩
  · exact if_pos (Int.ofNat_lt.2 h)
  · rw [if_neg (by omega), if_pos (by omega)]
  · rw [h, if_neg (by omega), if_neg (by omega)]
    exact congrArg (·, _) (wrapN_natCast (Nat.two_pow_pos w))

/-- Settles O57: the rows as in O60; the reserved modes, the flags, the special operands and the edges of the conversions by their own lemmas. -/
theorem winovarFloats : Obligations.WinovarFloats :=
  ⟨roundedOps, rootConvert, fusedOps, toInts, ofInts, signs, minMaxes, compares, moves, reservedModes, dynamicMode, flagsStick, specials_follow,
    conversion_edges⟩

end Sys2Proof.Machine
end

section
/-!
PROOFS. O24: lane locks (R472, R473), the lines a Winovar core fills ahead and prefetches (R241, R248, R252), the snoop filter (R252) and the L2
scrubber (R251).
-/

namespace Sys2Proof.Machine

open Sys2Proof.Claims

/-! ## Lane locks (R472, R473) -/

theorem lanePllLock_locksQuad : LanePllLock := by
  intro s q i hclocks hfree hi hclaimed
  have hany : ((List.range 4).any fun i => laneClaimed s (4 * q.val + i)) = true := List.any_eq_true.2 ⟨i, List.mem_range.2 hi, hclaimed⟩
  exact congrArg Host.Outcome.next (if_pos ⟨hclocks, by simpa using hfree, hany⟩)

theorem clockAndDataLock_setsLock : DataLock := by
  intro s l hclocks hclaimed hpll
  exact congrArg Host.Outcome.next (if_pos ⟨hclocks, hclaimed, List.contains_iff_mem.2 hpll⟩)

theorem laneLockLoss_clearsLock : LockLoss := by
  intro s l hclocks hclaimed hlock
  exact congrArg Host.Outcome.next (if_pos ⟨hclocks, hclaimed, hlock⟩)

/-! ## Prefetches (R241, R252) -/

/-- The access that trained prefetches of a line's page at the core's level. -/
def trainedFor (s : State) (n : Fin 24) (la : Nat) : Option Trained := (core s n).train.find? fun t => t.page = la / 64 && t.lvl = level s n

theorem trainedFor_eq_none {s : State} {n : Fin 24} {la : Nat} (h : ∀ t ∈ (core s n).train, t.page ≠ la / 64 ∨ t.lvl ≠ level s n) :
    trainedFor s n la = none :=
  List.find?_eq_none.2 fun t ht => by simpa [imp_iff_not_or] using h t ht

theorem trainedFor_isSome {s : State} {n : Fin 24} {la : Nat} {t : Trained} (ht : t ∈ (core s n).train) (hpage : t.page = la / 64)
    (hlvl : t.lvl = level s n) : (trainedFor s n la).isSome :=
  List.find?_isSome.2 ⟨t, ht, by simp [hpage, hlvl]⟩

/-- A prefetched line: that of the L2, or one that a request with the attributes `a` brings into it. -/
def prefetchLine (s : State) (n : Fin 24) (a : Attr) (la : Nat) (env : MemEnv) : Got :=
  match l2Line s (clusterOfCore n) la with
  | some y => .ok s y false
  | none => fillL2 s n a false .read la env

/-- The state after a prefetch: its line, unless poisoned, stands in the L1 data cache too. -/
def prefetched (n : Fin 24) (la : Nat) : Got → State
  | .ok t y _ => if y.poison then t else fillL1 t n false la
  | .err t | .wait t => t

section
variable {s : State} {n : Fin 24} {la : Nat} {env : MemEnv} (hrun : (core s n).run = .running)
include hrun

theorem cacheLineFill_untrained (h : trainedFor s n la = none) : exec (.cacheLineFill n (.prefetch la) env) s = .next s := by
  change execCacheLineFill n (.prefetch la) env s = _
  rw [execCacheLineFill, if_neg (not_not.2 hrun)]
  unfold trainedFor at h
  simp only [h]

theorem cacheLineFill_trained {x : Trained} (htrain : trainedFor s n la = some x) :
    exec (.cacheLineFill n (.prefetch la) env) s = .next (prefetched n la (prefetchLine s n x.attr la env)) := by
  change execCacheLineFill n (.prefetch la) env s = _
  rw [execCacheLineFill, if_neg (not_not.2 hrun)]
  unfold trainedFor at htrain
  simp only [htrain]
  rfl

end

theorem prefetch_fillsMissedLine : LineFill := by
  intro s n la env x hrun htrain hmiss
  rw [cacheLineFill_trained hrun htrain, prefetchLine, hmiss]
  rfl

theorem prefetch_staysInTrainedPage : PrefetchBounds := by
  intro s n la env hrun
  refine ⟨fun huntrained => cacheLineFill_untrained hrun (trainedFor_eq_none huntrained), fun t ht hpage hlvl y hheld hgood => ?_⟩
  obtain ⟨x, hx⟩ := Option.isSome_iff_exists.1 (trainedFor_isSome ht hpage hlvl)
  rw [cacheLineFill_trained hrun hx, prefetchLine, hheld]
  exact congrArg Host.Outcome.next (if_neg (by simp [hgood]))

/-! ## Loads and fetches made ahead (R248, R252) -/

theorem lineFillAhead_keepsEvents : LineFillAhead := by
  intro s t u n va env x y m evs hrun hcacheable
  refine ⟨fun hxlat hline => ?_, fun hxlat hline => ?_⟩
  · change execCacheLineFill n (.load va) env s = _
    simp [execCacheLineFill, hrun, hxlat, hcacheable, hline]
  · change execCacheLineFill n (.fetch va) env s = _
    simp [execCacheLineFill, hrun, hxlat, hcacheable, hline]

/-! ## The snoop filter (R252) -/

theorem filterRoom_replaces : FilterReplaces := by
  intro s n la env hfilt
  have hgood : (if (envAt env la).filt then recUnstated s .fabr fatal else s) = s := if_neg (by simp [hfilt])
  unfold filterRoom
  rw [hgood]
  refine ⟨fun hroom => if_pos (hroom.imp_left List.contains_iff_mem.2), fun hout hfull v hvictim => ?_⟩
  have hneed : ¬ ((filterSet s la).contains la = true ∨ (filterSet s la).length < 16) := by simp [hout, hfull]
  dsimp only
  rw [if_neg hneed, hvictim]

/-! ## The L2 scrubber (R251) -/

theorem l2Scrub_actsOnFinding : L2Scrub := by
  intro s w la found x hheld
  change execL2Scrub w la found s = _
  rw [execL2Scrub, hheld]

theorem l2Finding_outcomes : L2Outcomes := by
  intro s w la x
  refine ⟨rfl, rfl, fun hclean => ?_, fun hdirty => ?_, rfl⟩
  · simp [l2Finding, hclean]
  · simp [l2Finding, l2Poison, hdirty]

/-- Settles O24: the lane locks, the fills, the snoop filter's replacement and the scrubber, by the lemma of each. -/
theorem lanesAndL2 : Obligations.LanesAndL2 :=
  ⟨lanePllLock_locksQuad, clockAndDataLock_setsLock, laneLockLoss_clearsLock, prefetch_fillsMissedLine, prefetch_staysInTrainedPage,
    lineFillAhead_keepsEvents, filterRoom_replaces, l2Scrub_actsOnFinding, l2Finding_outcomes⟩

end Sys2Proof.Machine
end

section
/-!
PROOFS. O15: a write to on-chip SRAM, byte by byte and granule by granule (R283).
-/

namespace Sys2Proof.Machine

/-! ## Bytes -/

theorem sramByte_setSramByte_same (s : State) (a : Nat) (b : Byte) : sramByte (setSramByte s a b) a = b := by
  have hzero : bankZeroed (setSramByte s a b) (bankAt a) = bankZeroed s (bankAt a) := rfl
  have hmem : SMap.get none (setSramByte s a b).sram.mem a = if bankZeroed s (bankAt a) && b = 0 then none else some b := SMap.get_set ..
  rw [sramByte, hmem, hzero]
  by_cases h : bankZeroed s (bankAt a) = true ∧ b = 0
  · simp [h.1, h.2]
  · rw [if_neg (by simpa using h)]

/-- One byte with the bits of `m` replaced by those of `d`. -/
def setSramBits (s : State) (a : Nat) (m d : Byte) : State :=
  if m = 0 then s else setSramByte s a ((sramByte s a &&& ~~~m) ||| (d &&& m))

theorem sramByte_setSramBits_same (s : State) (a : Nat) (m d : Byte) :
    sramByte (setSramBits s a m d) a = (sramByte s a &&& ~~~m) ||| (d &&& m) := by
  unfold setSramBits
  split
  next hm =>
    have hm' : m = 0#8 := hm
    rw [hm', BitVec.not_zero, BitVec.and_allOnes, BitVec.and_zero, BitVec.or_zero]
  next => exact sramByte_setSramByte_same ..

theorem sramByte_setSramBits_other (s : State) {a x : Nat} (m d : Byte) (hx : x ≠ a) : sramByte (setSramBits s a m d) x = sramByte s x := by
  unfold setSramBits
  split
  · rfl
  · exact sramByte_setSramByte_other _ _ hx

/-- A longer write ends with its last byte. -/
theorem setSramBytes_succ (s : State) (a n mask data : Nat) : setSramBytes s a (n + 1) mask data =
    setSramBits (setSramBytes s a n mask data) (a + n) (BitVec.ofNat 8 (mask / 256 ^ n)) (BitVec.ofNat 8 (data / 256 ^ n)) := by
  rw [setSramBytes, List.range_succ, List.foldl_append]
  rfl

theorem sramByte_setSramBytes_outside (s : State) {a n x : Nat} (mask data : Nat) (hx : x < a ∨ a + n ≤ x) :
    sramByte (setSramBytes s a n mask data) x = sramByte s x := by
  induction n with
  | zero => rfl
  | succ n ih => rw [setSramBytes_succ, sramByte_setSramBits_other _ _ _ (by omega), ih (by omega)]

theorem sramByte_setSramBytes_inside (s : State) (a mask data : Nat) {n i : Nat} (hi : i < n) :
    sramByte (setSramBytes s a n mask data) (a + i) =
      (sramByte s (a + i) &&& ~~~BitVec.ofNat 8 (mask / 256 ^ i)) ||| (BitVec.ofNat 8 (data / 256 ^ i) &&& BitVec.ofNat 8 (mask / 256 ^ i)) := by
  induction n with
  | zero => omega
  | succ n ih =>
    rw [setSramBytes_succ]
    obtain hlt | rfl := Nat.lt_succ_iff_lt_or_eq.1 hi
    · rw [sramByte_setSramBits_other _ _ _ (by omega), ih hlt]
    · rw [sramByte_setSramBits_same, sramByte_setSramBytes_outside _ _ _ (.inr (Nat.le_refl _))]

/-! ## What SECDED finds -/

/-- A finding leaves every byte. -/
theorem sramByte_sramFinding (s : State) (a : Attr) (g : Nat) (ce ue : Bool) (x : Nat) : sramByte (sramFinding s a g ce ue) x = sramByte s x := by
  unfold sramFinding recCorrected
  split
  · exact sramByte_congr (by rw [recordErr_sram]) (by rw [bankZeroed, recordErr_sram, bankZeroed]) (by rw [recordErr_epoch])
  · split
    · exact sramByte_congr (by rw [recordErr_sram]) (by rw [bankZeroed, recordErr_sram, bankZeroed]) (by rw [recordErr_epoch])
    · rfl

theorem sramByte_sramFindings (s : State) (a : Attr) (l : List Nat) (ce ue : BitVec 8) (x : Nat) :
    sramByte (sramFindings s a l ce ue) x = sramByte s x :=
  foldl_frame (fun t => sramByte t x) _ (fun _ _ => sramByte_sramFinding ..) _ _

/-- A finding poisons at most its own granule. -/
theorem granBad_sramFinding_other (s : State) (a : Attr) {g h : Nat} (ce ue : Bool) (hne : h ≠ g) :
    granBad (sramFinding s a g ce ue) h = granBad s h := by
  unfold sramFinding recCorrected granBad
  split
  · rw [recordErr_sram]
    exact SMap.get_set_other _ _ _ hne
  · split
    · rw [recordErr_sram]
    · rfl

/-- The granules that are not read keep their poison. -/
theorem granBad_sramFindings_other (s : State) (a : Attr) {l : List Nat} {g : Nat} (ce ue : BitVec 8) (hg : g ∉ l) :
    granBad (sramFindings s a l ce ue) g = granBad s g := by
  refine List.foldlRecOn (motive := fun t => granBad t g = granBad s g) (ueFirst ue l) _ rfl fun t ht h hh => ?_
  have hmem : h ∈ l := by
    rw [ueFirst, List.mem_append] at hh
    exact hh.elim List.mem_of_mem_filter List.mem_of_mem_filter
  rw [granBad_sramFinding_other _ _ _ _ (ne_of_mem_of_not_mem hmem hg).symm, ht]

/-! ## The poison of granules -/

/-- A write's mark on one granule: one replaced whole takes the poison of the data, one replaced in part takes it where the data are poisoned. -/
def markGranule (addr n mask : Nat) (poison : Bool) (t : State) (g : Nat) : State :=
  if granMask addr n mask g = 2 ^ 64 - 1 ∨ (poison ∧ granMask addr n mask g ≠ 0) then
    { t with sram := { t.sram with bad := SMap.set false t.sram.bad g poison } }
  else t

theorem sramByte_markGranule (addr n mask : Nat) (poison : Bool) (t : State) (g x : Nat) :
    sramByte (markGranule addr n mask poison t g) x = sramByte t x := by
  unfold markGranule
  split <;> rfl

theorem granBad_markGranule_other {addr n mask : Nat} {poison : Bool} (t : State) {g h : Nat} (hne : h ≠ g) :
    granBad (markGranule addr n mask poison t g) h = granBad t h := by
  unfold markGranule
  split
  · exact SMap.get_set_other _ _ _ hne
  · rfl

theorem granBad_markGranule_whole {addr n mask : Nat} {poison : Bool} (t : State) {g : Nat} (hwhole : granMask addr n mask g = 2 ^ 64 - 1) :
    granBad (markGranule addr n mask poison t g) g = poison := by
  rw [markGranule, if_pos (.inl hwhole)]
  exact SMap.get_set ..

/-- Marks leave the granules that they do not name. -/
theorem granBad_marks_other {addr n mask : Nat} {poison : Bool} (s : State) {l : List Nat} {g : Nat} (hg : g ∉ l) :
    granBad (l.foldl (markGranule addr n mask poison) s) g = granBad s g :=
  List.foldlRecOn (motive := fun t => granBad t g = granBad s g) l _ rfl fun t ht h hh => by
    rw [granBad_markGranule_other t (ne_of_mem_of_not_mem hh hg).symm, ht]

/-- A granule among those marked that is replaced whole has the poison of the data. -/
theorem granBad_marks_whole {addr n mask : Nat} {poison : Bool} (s : State) {l : List Nat} {g : Nat} (hg : g ∈ l)
    (hwhole : granMask addr n mask g = 2 ^ 64 - 1) : granBad (l.foldl (markGranule addr n mask poison) s) g = poison := by
  induction l generalizing s with
  | nil => cases hg
  | cons h l ih =>
    rw [List.foldl_cons]
    by_cases hl : g ∈ l
    · exact ih _ hl
    · obtain rfl : g = h := (List.mem_cons.1 hg).resolve_right hl
      rw [granBad_marks_other _ hl, granBad_markGranule_whole _ hwhole]

/-! ## The write -/

/-- The granules that a write covers in part, which are read first. -/
def partGranules (addr n mask : Nat) : List Nat :=
  (granules addr n).filter fun g => !decide (granMask addr n mask g = 2 ^ 64 - 1) && decide (granMask addr n mask g ≠ 0)

/-- A write is its findings, then its marks, then its bytes. -/
theorem sramWrite_eq (s : State) (a : Attr) (addr n mask data : Nat) (poison : Bool) (ce ue : BitVec 8) :
    sramWrite s a addr n mask data poison ce ue =
      setSramBytes ((granules addr n).foldl (markGranule addr n mask poison) (sramFindings s a (partGranules addr n mask) ce ue))
        addr n mask data := by
  simp only [sramWrite, decide_eq_true_eq]
  rfl

/-- Before the bytes are stored every byte reads as before the write. -/
theorem sramByte_marked (s : State) (a : Attr) (addr n mask : Nat) (poison : Bool) (ce ue : BitVec 8) (l : List Nat) (x : Nat) :
    sramByte (l.foldl (markGranule addr n mask poison) (sramFindings s a (partGranules addr n mask) ce ue)) x = sramByte s x :=
  (foldl_frame (fun t => sramByte t x) _ (fun _ _ => sramByte_markGranule ..) _ _).trans (sramByte_sramFindings ..)

/-- Storing bytes leaves the poison of every granule. -/
theorem granBad_setSramBytes (s : State) (addr n mask data g : Nat) : granBad (setSramBytes s addr n mask data) g = granBad s g :=
  setSramBytes_frame (fun t => granBad t g) (fun _ _ _ => rfl) ..

/-- Settles O15: the bytes by what a write of bits stores, the poison by the marks on the granules. -/
theorem sramWriteBytes : Obligations.SramWriteBytes := by
  intro s a addr n mask data poison ce ue _ _ _ t
  have ht : t = _ := sramWrite_eq ..
  rw [ht]
  refine ⟨fun i hi => ?_, fun x hx => ?_, fun g hg hwhole => ?_, fun g hg => ?_⟩
  · rw [sramByte_setSramBytes_inside _ _ _ _ hi, sramByte_marked]
  · rw [sramByte_setSramBytes_outside _ _ _ hx, sramByte_marked]
  · rw [granBad_setSramBytes, granBad_marks_whole _ hg hwhole]
  · have hpart : g ∉ partGranules addr n mask := fun h => hg (List.mem_of_mem_filter h)
    rw [granBad_setSramBytes, granBad_marks_other _ hg, granBad_sramFindings_other _ _ _ _ hpart]

end Sys2Proof.Machine
end

section
/-!
PROOFS. O18: the home of a line and the slot that a miss may allocate (R261, R263, R269).
-/

namespace Sys2Proof.Machine

/-! ## Slots and homes (R259, R261) -/

theorem scSlot_index (w la : Nat) : scSlot w la % 16384 = scIdx la := by
  rw [scSlot, scIdx]
  omega

theorem scSlot_way (w la : Nat) : scSlot w la / 16384 = w := by
  rw [scSlot, scIdx]
  omega

theorem mem_partWays {s : State} {p w : Nat} : w ∈ partWays s p ↔ w < 48 ∧ inPart s p w = true := by
  rw [partWays, List.mem_filter, List.mem_range]

/-- A home is a slot at the line's index, in a way of the partition. -/
theorem home_inPartition {s : State} {p la slot : Nat} (h : home s p la = some slot) :
    slot % 16384 = scIdx la ∧ slot / 16384 < 48 ∧ inPart s p (slot / 16384) = true := by
  unfold home at h
  dsimp only at h
  split at h
  · cases h
  · obtain ⟨w, hw, rfl⟩ := Option.map_eq_some_iff.1 h
    rw [scSlot_index, scSlot_way]
    exact ⟨rfl, mem_partWays.1 (List.mem_of_getElem? hw)⟩

/-! ## Allocation (R263, R269) -/

/-- The map entry of its DID lets a request allocate in the entry's partition. -/
def MayAllocate (s : State) (a : Attr) : Prop :=
  (didMap s a.did).2.1 = true ∧ partEn s (didMap s a.did).1 = true ∧ partCleaning s (didMap s a.did).1 = false ∧
    (a.cls ≠ 3 ∨ (didMap s a.did).2.2 = false)

/-- A miss allocates where the map entry lets it, in its home, where that is not locked. -/
theorem allocSlot_eq_some {s : State} {a : Attr} {la slot : Nat} :
    allocSlot s a la = some slot ↔
      MayAllocate s a ∧ home s (didMap s a.did).1 la = some slot ∧ wayLocked s (slot / 16384) = false := by
  unfold allocSlot
  dsimp only
  split
  next hmay =>
    have hmay' : MayAllocate s a := by simpa [MayAllocate, and_assoc] using hmay
    cases hhome : home s (didMap s a.did).1 la with
    | none => simp
    | some slot' =>
      dsimp only
      split
      next hlocked => exact ⟨nofun, fun ⟨_, he, hfree⟩ => by cases he; rw [hlocked] at hfree; cases hfree⟩
      next hfree =>
        refine ⟨fun he => ?_, fun ⟨_, he, _⟩ => he⟩
        cases he
        exact ⟨hmay', rfl, Bool.eq_false_iff.2 hfree⟩
  next hnot => exact ⟨nofun, fun ⟨hmay, _⟩ => absurd (by simpa [MayAllocate, and_assoc] using hmay) hnot⟩

/-- Settles O18: the slot is a home in the partition of the DID's map entry, and the entry lets the request allocate. -/
theorem allocationStaysInPartition : Obligations.AllocationStaysInPartition := by
  intro s a la slot h
  obtain ⟨⟨halloc, hen, hclean, hcls⟩, hhome, hlocked⟩ := allocSlot_eq_some.1 h
  obtain ⟨hidx, hway, hpart⟩ := home_inPartition hhome
  exact ⟨hhome, hidx, hway, hpart, halloc, hen, hclean, hcls, hlocked⟩

end Sys2Proof.Machine
end

section
/-!
PROOFS. O17: the commands of the system cache (R270, R273 to R276, R278) and the partition clean (R277).
-/

namespace Sys2Proof.Machine

open Sys2Proof.Claims

/-! ## SC_CMD_DONE -/

/-- The command goes on from place `pos` of its range. -/
def scGoesOn (c : ScCmd) (v : State) (pos : Nat) : State := { v with sc := { v.sc with cmd := some { c with pos := pos } } }

/-- The command has ended: RESULT is set, BUSY is clear and IRQ_STAT bit 0 is set (R273). -/
def scEnded (c : ScCmd) (v : State) : State :=
  let u := wrF (wrB v .scac 0x050 0 false) .scac 0x050 4 4 c.result
  setIrq { u with sc := { u.sc with cmd := none } } .scac 1

/-- What EMPTY_WAY and WAY_ON do when they end (R275, R276). -/
def scLast (c : ScCmd) (v : State) : State :=
  if c.acts ∧ c.op = 5 then setWayBit v 0x060 c.way true else if c.acts ∧ c.op = 7 then wayUp v c.way else v

/-- The end of a command does not look at the place it has come to. -/
theorem scEnded_scLast_scGoesOn (c : ScCmd) (v : State) (pos : Nat) : scEnded c (scLast c (scGoesOn c v pos)) = scEnded c (scLast c v) := by
  unfold scLast wayUp setWayBit
  split
  · split <;> rfl
  · split
    · split <;> rfl
    · rfl

section
variable {s : State} {c : ScCmd} (hcmd : s.sc.cmd = some c) (n : Nat) (pars : List Nat)
include hcmd

/-- What SC_CMD_DONE makes of a command that has come to place `pos` of its range. -/
theorem scCmdDone_eq {v : State} {pos : Nat} (hadv : (if c.acts then scAdvance c n pars s else (s, c.len)) = (v, pos)) :
    exec (.scCmdDone n pars) s =
      .next (if pos < c.len ∨ (c.acts ∧ scOwed v) then scGoesOn c v pos else scEnded c (scLast c v)) := by
  rw [← scEnded_scLast_scGoesOn c v pos]
  change execScCmdDone n pars s = _
  simp only [execScCmdDone, hcmd, hadv]
  rfl

/-- A command that acts goes on while part of its range is left, or DRAM owes it something. -/
theorem scCmdDone_goesOn (hacts : c.acts = true) {v : State} {pos : Nat} (hadv : scAdvance c n pars s = (v, pos))
    (hleft : pos < c.len ∨ scOwed v = true) : exec (.scCmdDone n pars) s = .next (scGoesOn c v pos) := by
  rw [scCmdDone_eq hcmd n pars ((if_pos hacts).trans hadv), if_pos (hleft.imp_right fun h => ⟨hacts, h⟩)]

/-- A command that acts ends once all its range is done and DRAM owes it nothing. -/
theorem scCmdDone_ends (hacts : c.acts = true) {v : State} {pos : Nat} (hadv : scAdvance c n pars s = (v, pos))
    (hdone : c.len ≤ pos) (howed : scOwed v = false) : exec (.scCmdDone n pars) s = .next (scEnded c (scLast c v)) := by
  rw [scCmdDone_eq hcmd n pars ((if_pos hacts).trans hadv), if_neg (by simp [howed, hdone])]

end

/-! ## The range of a command (R274, R275) -/

theorem scSegment_lines (s : State) {c : ScCmd} (hop : c.op ≠ 5) (lo hi : Nat) :
    scSegment s c lo hi = slotsWhere s fun _ la => decide (c.line + lo ≤ la) && decide (la < c.line + hi) := by
  simp only [scSegment, hop, if_false]

theorem scSegment_way (s : State) {c : ScCmd} (hop : c.op = 5) (lo hi : Nat) :
    scSegment s c lo hi = slotsWhere s fun slot _ => decide (slot / 16384 = c.way) && decide (lo ≤ slot % 16384) && decide (slot % 16384 < hi) := by
  simp only [scSegment, hop, if_true]

/-- A range command takes the next part of its range, where no slot of it waits for a victim. -/
theorem scAdvance_lines {s : State} {c : ScCmd} (n : Nat) (pars : List Nat) (h4 : c.op ≠ 4) (h5 : c.op ≠ 5)
    (hwait : scWaits s (scSegment s c c.pos (min c.len (c.pos + n))) = false) :
    scAdvance c n pars s =
      ((scSegment s c c.pos (min c.len (c.pos + n))).foldl (scRangeSlot c.op c.incl pars) s, min c.len (c.pos + n)) := by
  simp only [scAdvance, h4, h5, hwait, if_false, Bool.false_eq_true]

/-- EMPTY_WAY takes the next part of its way, where no slot of it waits for a victim. -/
theorem scAdvance_way {s : State} {c : ScCmd} (n : Nat) (pars : List Nat) (h5 : c.op = 5)
    (hwait : scWaits s (scSegment s c c.pos (min c.len (c.pos + n))) = false) :
    scAdvance c n pars s =
      ((scSegment s c c.pos (min c.len (c.pos + n))).foldl (fun s slot => dropLine (scCleanSlot pars s slot) slot) s,
        min c.len (c.pos + n)) := by
  simp only [scAdvance, h5, hwait, if_true, if_false, Bool.false_eq_true, Nat.reduceEqDiff]

/-- WAY_OFF and WAY_ON have an empty range. -/
theorem scAdvance_empty (s : State) {c : ScCmd} (n : Nat) (pars : List Nat) (h4 : c.op ≠ 4) (h5 : c.op ≠ 5) (hlen : c.len = 0) :
    scAdvance c n pars s = (s, 0) := by
  have hhi : min c.len (c.pos + n) = 0 := by rw [hlen, Nat.zero_min]
  have hnone : scSegment s c c.pos 0 = [] := by
    rw [scSegment_lines s h5, slotsWhere, List.map_eq_nil_iff, List.filter_eq_nil_iff]
    intro e _
    simp only [Bool.and_eq_true, decide_eq_true_eq]
    omega
  rw [scAdvance_lines n pars h4 h5 (by rw [hhi, hnone]; simp [scWaits]), hhi, hnone, List.foldl_nil]

/-! ## The commands -/

theorem scCmd_refused : ScCmdRefused := by
  intro s c n pars hcmd hacts u
  have hlast : scLast c s = s := by simp only [scLast, hacts, Bool.false_eq_true, false_and, if_false]
  rw [scCmdDone_eq hcmd n pars (if_neg (by simp [hacts])), if_neg (by simp [hacts]), hlast]
  rfl

theorem scCmd_range : ScCmdRange := by
  intro s c n pars hcmd hacts ⟨hlo, hhi⟩ hi l hwait v u
  have hseg : scSegment s c c.pos hi = l := scSegment_lines s (by omega) _ _
  have hadv : scAdvance c n pars s = (v, hi) := by
    rw [scAdvance_lines n pars (by omega) (by omega) (by rwa [hseg]), hseg]
  have hlast : scLast c v = v := by rw [scLast, if_neg (by omega), if_neg (by omega)]
  refine ⟨scCmdDone_goesOn hcmd n pars hacts hadv, fun hdone howed => ?_⟩
  rw [scCmdDone_ends hcmd n pars hacts hadv (Nat.le_of_eq hdone.symm) howed, hlast]
  rfl

theorem scCmd_way : ScCmdWay := by
  intro s c n pars hcmd hacts hi l v fin
  have hadv : c.op = 5 → scWaits s l = false → scAdvance c n pars s = (v, hi) := fun h5 hwait => by
    have hseg : scSegment s c c.pos hi = l := scSegment_way s h5 _ _
    rw [scAdvance_way n pars h5 (by rwa [hseg]), hseg]
  refine ⟨fun h5 hwait => scCmdDone_goesOn hcmd n pars hacts (hadv h5 hwait), fun h5 hwait hdone howed => ?_, fun h6 hlen howed => ?_,
    fun h7 hlen howed => ?_⟩
  · rw [scCmdDone_ends hcmd n pars hacts (hadv h5 hwait) (Nat.le_of_eq hdone.symm) howed, scLast, if_pos ⟨hacts, h5⟩]
    rfl
  · rw [scCmdDone_ends hcmd n pars hacts (scAdvance_empty s n pars (by omega) (by omega) hlen) (Nat.le_of_eq hlen) howed, scLast,
      if_neg (by omega), if_neg (by omega)]
    rfl
  · rw [scCmdDone_ends hcmd n pars hacts (scAdvance_empty s n pars (by omega) (by omega) hlen) (Nat.le_of_eq hlen) howed, scLast,
      if_neg (by omega), if_pos ⟨hacts, h7⟩]
    rfl

theorem scCmd_preload : ScCmdPreload := by
  intro s c n pars hcmd hacts h4 r u
  have hadv : scAdvance c n pars s = (r.1, r.2) := by rw [scAdvance, if_pos h4]
  have hlast : scLast c r.1 = r.1 := by rw [scLast, if_neg (by omega), if_neg (by omega)]
  refine ⟨scCmdDone_goesOn hcmd n pars hacts hadv, fun hdone howed => ?_⟩
  rw [scCmdDone_ends hcmd n pars hacts hadv hdone howed, hlast]
  rfl

/-! ## One line of PRELOAD (R260, R266, R270) -/

namespace SMap

theorem mem_of_find? {α : Type} {m : SMap α} {k : Nat} {v : α} (h : find? m k = some v) : (k, v) ∈ m := by
  induction m with
  | nil => cases h
  | cons e r ih =>
    obtain ⟨k', v'⟩ := e
    unfold find? at h
    split at h
    next hk =>
      cases h
      exact hk ▸ List.mem_cons_self
    next => exact List.mem_cons_of_mem _ (ih h)

/-- An entry of a map that a key has been put in is the key's, or was there. -/
theorem mem_put {α : Type} {m : SMap α} {k : Nat} {v : α} {e : Nat × α} (h : e ∈ put m k v) : e = (k, v) ∨ e ∈ m := by
  induction m with
  | nil => exact .inl (List.mem_singleton.1 h)
  | cons e' r ih =>
    obtain ⟨k', v'⟩ := e'
    unfold put at h
    split at h
    · exact List.mem_cons.1 h
    · split at h
      · exact (List.mem_cons.1 h).imp_right (List.mem_cons_of_mem _)
      · obtain rfl | hr := List.mem_cons.1 h
        · exact .inr List.mem_cons_self
        · exact (ih hr).imp_right (List.mem_cons_of_mem _)

end SMap

/-- The lines and powered ways of `t` are among those of `s`: no line is new, and no way has come up. -/
structure HoldsNoMore (s t : State) : Prop where
  lines : ∀ e ∈ t.sc.lines, ∃ x, (e.1, x) ∈ s.sc.lines ∧ x.tag = e.2.tag
  power : ∀ w, wayOn t w = wayOn s w

/-- Where no line is new a line that was not held still is not. -/
theorem HoldsNoMore.scFind_none {s t : State} (h : HoldsNoMore s t) {la : Nat} (hnone : scFind s la = none) : scFind t la = none := by
  rw [scFind, Option.map_eq_none_iff, List.find?_eq_none] at hnone ⊢
  intro e he
  obtain ⟨x, hx, htag⟩ := h.lines e he
  have := hnone _ hx
  rwa [htag, ← h.power] at this

theorem HoldsNoMore.trans {s t u : State} (h : HoldsNoMore s t) (h' : HoldsNoMore t u) : HoldsNoMore s u := by
  refine ⟨fun e he => ?_, fun w => (h'.power w).trans (h.power w)⟩
  obtain ⟨x, hx, hxe⟩ := h'.lines e he
  obtain ⟨y, hy, hyx⟩ := h.lines _ hx
  exact ⟨y, hy, hyx.trans hxe⟩

/-- What changes neither lines nor registers. -/
theorem HoldsNoMore.of_eq {s t : State} (hlines : t.sc.lines = s.sc.lines) (hregs : t.regs = s.regs) : HoldsNoMore s t := by
  refine ⟨fun e he => ⟨e.2, hlines ▸ he, rfl⟩, fun w => ?_⟩
  simp only [wayOn, wayBit, rdB, rd_congr hregs]

theorem dropLine_holdsNoMore (s : State) (slot : Nat) : HoldsNoMore s (dropLine s slot) :=
  ⟨fun e he => ⟨e.2, List.mem_of_mem_filter he, rfl⟩, fun _ => rfl⟩

/-- A line put over one of the same tag is no new line. -/
theorem putLine_holdsNoMore {s : State} {slot : Nat} {x y : ScLine} (hx : SMap.find? s.sc.lines slot = some x) (htag : x.tag = y.tag) :
    HoldsNoMore s (putLine s slot y) := by
  refine ⟨fun e he => ?_, fun _ => rfl⟩
  obtain rfl | hold := SMap.mem_put he
  · exact ⟨x, SMap.mem_of_find? hx, htag⟩
  · exact ⟨e.2, hold, rfl⟩

/-- An error record touches neither lines nor SC_WAYON. -/
theorem recordErr_holdsNoMore (s : State) (code cls : Nat) (a : Attr) (detail did : Nat) :
    HoldsNoMore s (recordErr s .scac code cls a detail did) := by
  refine ⟨fun e he => ⟨e.2, by rwa [recordErr_sc] at he, rfl⟩, fun w => ?_⟩
  have hreg : ∀ o, 0x030 ≤ o → rd (recordErr s .scac code cls a detail did) .scac o = rd s .scac o := fun _ ho =>
    rd_recordErr_off _ _ _ _ _ _ _ _ ho
  simp only [wayOn, wayBit, rdB, hreg 0x058 (by decide), hreg (0x058 + 4) (by decide)]

/-- A parity error found drops a clean line and poisons a dirty one. -/
theorem scParity_holdsNoMore (s : State) (slot : Nat) (a : Attr) (par : Bool) : HoldsNoMore s (scParity s slot a par) := by
  unfold scParity
  dsimp only
  split
  · exact .of_eq rfl rfl
  next hpar =>
    have hheld : (SMap.find? s.sc.lines slot).isSome := by
      rw [← Option.not_isNone, Bool.not_eq_true', ← Bool.not_eq_true]
      exact fun h => hpar (.inr h)
    obtain ⟨x, hx⟩ := Option.isSome_iff_exists.1 hheld
    split
    · exact (putLine_holdsNoMore hx (by rw [scLine_of_find hx])).trans (recordErr_holdsNoMore ..)
    · exact (dropLine_holdsNoMore s slot).trans (recordErr_holdsNoMore ..)

/-- An allocation holds no line before its fill. -/
theorem scAllocate_holdsNoMore (s : State) (a : Attr) (master la slot : Nat) (vpar : Bool) :
    HoldsNoMore s (scAllocate s a master la slot vpar) := by
  refine (scParity_holdsNoMore s slot a vpar).trans ?_
  unfold scAllocate
  dsimp only
  split
  · split
    · exact .of_eq rfl rfl
    · exact (dropLine_holdsNoMore _ slot).trans (.of_eq rfl rfl)
  · exact .of_eq rfl rfl

/-- A line whose PRELOAD read has been sent is on its way. -/
theorem lineBusy_sendDram_preload (s : State) {r : DReq} {slot : Nat} (hr : r.cause = .preload slot) : lineBusy (sendDram s r) r.line = true := by
  simp [lineBusy, sendDram, hr]

theorem preloadLine_cases : PreloadLine := by
  intro s part la slot pars
  refine ⟨fun hbusy => if_pos hbusy, fun hfree hheld => ?_, fun hfree hmiss hhome hlocked => ?_, fun hfree hmiss hhome hlocked hresv => ?_⟩
  · rw [scPreloadLine, if_neg (by simp [hfree]), if_pos (Option.isSome_iff_ne_none.2 hheld)]
  · simp only [scPreloadLine, hfree, hmiss, hhome, hlocked, Option.isSome_none, Bool.false_eq_true, if_false, if_true]
  · refine ⟨_, ?_, lineBusy_sendDram_preload (scAllocate s (scAttr s) 0x0F2 la slot (pars.contains slot))
      (r := { id := 0, isW := false, line := la, attr := scAttr s, port := portOf 0x0F2, cause := .preload slot }) rfl, ?_⟩
    · simp only [scPreloadLine, hfree, hmiss, hhome, hlocked, hresv, Option.isSome_none, Bool.false_eq_true, if_false]
    · exact ((scAllocate_holdsNoMore ..).trans (.of_eq rfl rfl)).scFind_none hmiss

theorem preload_stops : PreloadStopped := by
  intro s p c hcmd h4 hacts
  refine ⟨fun hpart => ?_, fun hpart => ?_⟩
  · simp only [stopPreload, hcmd, Option.map_some, if_pos (And.intro h4 (And.intro hacts hpart))]
  · simp only [stopPreload, hcmd, Option.map_some, if_neg (fun h : c.op = 4 ∧ c.acts = true ∧ c.part = p => hpart h.2.2)]

/-! ## The partition clean (R277) -/

theorem partitionClean_scans : PartClean := by
  intro s p pars hclean hvictims v owed
  have hruns : ¬((!partCleaning s p) = true ∨ (s.sc.resvs.any fun r => r.victim && inPart s p (r.slot / 16384)) = true) := by
    simpa [hclean] using hvictims
  change (_ → execPartitionCleanDone p pars s = _) ∧ (_ → _ → execPartitionCleanDone p pars s = _)
  rw [execPartitionCleanDone, if_neg hruns]
  refine ⟨fun hleft => congrArg _ (if_pos hleft), fun hdirty howed => congrArg _ (if_neg (not_or.2 ⟨?_, ?_⟩))⟩
  · exact ne_true_of_eq_false hdirty
  · exact ne_true_of_eq_false howed

/-- Settles O17: each OP by its own lemma, PRELOAD line by line, and the partition clean. -/
theorem systemCacheCommands : Obligations.SystemCacheCommands :=
  ⟨scCmd_refused, scCmd_range, scCmd_way, scCmd_preload, preloadLine_cases, preload_stops, partitionClean_scans⟩

end Sys2Proof.Machine
end

section
/-!
PROOFS. O12: the DRAM address map and the line of a rank position.
-/

namespace Sys2Proof.Machine

/-! ## Stripes of sixteen lines, one of each channel (R295) -/

/-- What the number of a stripe of sixteen lines adds to the channel of each of its lines. -/
def chanHash (hi : Nat) : Nat := (hi / 2 ^ 4 % 16) ^^^ (hi / 2 ^ 12 % 16)

theorem chanHash_lt (hi : Nat) : chanHash hi < 2 ^ 4 := Nat.xor_lt_two_pow (by omega) (by omega)

/-- The channel of a line is its place in its stripe, with what the stripe adds. -/
theorem chanOf_eq (la : Nat) : chanOf la = (la - dramBase) % 16 ^^^ chanHash ((la - dramBase) / 16) := by
  rw [chanHash, Nat.div_div_eq_div_mul, Nat.div_div_eq_div_mul, ← Nat.xor_assoc]
  rfl

/-- There are sixteen channels. -/
theorem chanOf_lt (la : Nat) : chanOf la < 2 ^ 4 := by
  rw [chanOf_eq]
  exact Nat.xor_lt_two_pow (by omega) (chanHash_lt _)

/-- The stripe that holds a rank line of a logical rank. -/
def stripeOf (s : State) (l n : Nat) : Nat := l % 2 * rankLines s + n

/-- The line of a rank position by its stripe and its place in the stripe. -/
theorem lineOf_eq (s : State) (l n : Nat) :
    lineOf s l n = dramBase + stripeOf s l n * 16 + (l / 2 ^^^ chanHash (stripeOf s l n)) := by
  have h4 : stripeOf s l n * 16 / 2 ^ 8 = stripeOf s l n / 2 ^ 4 := by omega
  have h12 : stripeOf s l n * 16 / 2 ^ 16 = stripeOf s l n / 2 ^ 12 := by omega
  rw [chanHash, ← h4, ← h12, ← Nat.xor_assoc]
  rfl

theorem rankLines_pos (s : State) : 0 < rankLines s := by
  unfold rankLines
  split <;> decide

/-- A line is in DRAM where its stripe is one of the two ranks of a channel. -/
theorem inDram_iff (s : State) (la : Nat) : inDram s la = true ↔ dramBase ≤ la ∧ (la - dramBase) / 16 < 2 * rankLines s := by
  rw [inDram, dramLines, Bool.and_eq_true, decide_eq_true_eq, decide_eq_true_eq]
  omega

/-- The logical rank of a line by its channel and its stripe. -/
theorem logRank_eq (s : State) (la : Nat) : logRank s la = 2 * chanOf la + (la - dramBase) / 16 / rankLines s % 2 := by
  rw [logRank, Nat.div_div_eq_div_mul]

/-! ## From a rank position to its line and back -/

section
variable {s : State} {l n : Nat} (hl : l < 32)
include hl

/-- The place of a rank position's line in its stripe. -/
theorem lineOf_place_lt : l / 2 ^^^ chanHash (stripeOf s l n) < 2 ^ 4 := Nat.xor_lt_two_pow (by omega) (chanHash_lt _)

theorem stripe_lineOf : (lineOf s l n - dramBase) / 16 = stripeOf s l n := by
  have := lineOf_place_lt (s := s) (n := n) hl
  rw [lineOf_eq]
  omega

theorem chanOf_lineOf : chanOf (lineOf s l n) = l / 2 := by
  have hlt := lineOf_place_lt (s := s) (n := n) hl
  have hplace : (lineOf s l n - dramBase) % 16 = l / 2 ^^^ chanHash (stripeOf s l n) := by
    rw [lineOf_eq]
    omega
  rw [chanOf_eq, stripe_lineOf hl, hplace, Nat.xor_assoc, Nat.xor_self, Nat.xor_zero]

variable (hn : n < rankLines s)
include hn

theorem logRank_lineOf : logRank s (lineOf s l n) = l := by
  have hrank : stripeOf s l n / rankLines s = l % 2 := by
    rw [stripeOf, Nat.mul_comm, Nat.mul_add_div (rankLines_pos s), Nat.div_eq_of_lt hn, Nat.add_zero]
  rw [logRank_eq, chanOf_lineOf hl, stripe_lineOf hl, hrank]
  omega

theorem rankLine_lineOf : rankLine s (lineOf s l n) = n := by
  rw [rankLine, stripe_lineOf hl, stripeOf, Nat.mul_comm, Nat.mul_add_mod, Nat.mod_eq_of_lt hn]

theorem inDram_lineOf : inDram s (lineOf s l n) = true := by
  refine (inDram_iff _ _).2 ⟨by rw [lineOf_eq]; omega, ?_⟩
  rw [stripe_lineOf hl, stripeOf]
  obtain h | h : l % 2 = 0 ∨ l % 2 = 1 := by omega
  all_goals rw [h]; omega

end

/-! ## From a line to its rank position and back -/

theorem logRank_lt (s : State) (la : Nat) : logRank s la < 32 := by
  have := chanOf_lt la
  rw [logRank_eq]
  omega

theorem rankLine_lt (s : State) (la : Nat) : rankLine s la < rankLines s := Nat.mod_lt _ (rankLines_pos s)

/-- The stripe of a line of DRAM is that of its own rank and rank line. -/
theorem stripeOf_of_inDram {s : State} {la : Nat} (h : inDram s la = true) :
    stripeOf s (logRank s la) (rankLine s la) = (la - dramBase) / 16 := by
  have hrank : logRank s la % 2 = (la - dramBase) / 16 / rankLines s := by
    have : (la - dramBase) / 16 / rankLines s < 2 := (Nat.div_lt_iff_lt_mul (rankLines_pos s)).2 ((inDram_iff s la).1 h).2
    rw [logRank_eq, Nat.mul_add_mod, Nat.mod_mod, Nat.mod_eq_of_lt this]
  rw [stripeOf, hrank, rankLine, Nat.div_add_mod']

theorem lineOf_logRank {s : State} {la : Nat} (h : inDram s la = true) : lineOf s (logRank s la) (rankLine s la) = la := by
  have hchan : logRank s la / 2 = chanOf la := by
    rw [logRank_eq]
    omega
  have hbase := ((inDram_iff s la).1 h).1
  rw [lineOf_eq, stripeOf_of_inDram h, hchan, chanOf_eq, Nat.xor_assoc, Nat.xor_self, Nat.xor_zero]
  omega

/-- Settles O12: each way there and back, by its own lemmas. -/
theorem addressMapInverts : Obligations.AddressMapInverts := fun s =>
  ⟨fun la h => ⟨logRank_lt s la, rankLine_lt s la, lineOf_logRank h⟩,
    fun _ _ hl hn => ⟨inDram_lineOf hl hn, logRank_lineOf hl hn, rankLine_lineOf hl hn⟩⟩

end Sys2Proof.Machine
end

section
/-!
PROOFS. O13: the order of the DRAM scheduler.
-/

namespace Sys2Proof.Machine

/-! ## The pick (R303, R306) -/

/-- A request comes before another in the scheduler's order: an earlier place, or the same place and at least as old. -/
def SchedBefore (s : State) (r q : DReq) : Prop := schedKey s r < schedKey s q ∨ (schedKey s r = schedKey s q ∧ r.acc ≤ q.acc)

theorem SchedBefore.refl (s : State) (r : DReq) : SchedBefore s r r := .inr ⟨rfl, Nat.le_refl _⟩

theorem SchedBefore.trans {s : State} {p r q : DReq} (h : SchedBefore s p r) (h' : SchedBefore s r q) : SchedBefore s p q := by
  unfold SchedBefore at *
  omega

/-- Of two requests one comes before the other. -/
theorem schedBefore_of_not {s : State} {r q : DReq} (h : ¬(schedKey s q < schedKey s r ∨ (schedKey s q = schedKey s r ∧ q.acc < r.acc))) :
    SchedBefore s r q := by
  unfold SchedBefore
  omega

theorem schedBefore_of_lt {s : State} {r q : DReq} (h : schedKey s q < schedKey s r ∨ (schedKey s q = schedKey s r ∧ q.acc < r.acc)) :
    SchedBefore s q r := h.imp_right (And.imp_right Nat.le_of_lt)

theorem schedPick_eq_none {s : State} {l : List DReq} : schedPick s l = none ↔ l = [] := by
  cases l with
  | nil => simp [schedPick]
  | cons r rs =>
    rw [schedPick]
    split
    · simp
    · split <;> simp

/-- The pick of a list is its head or the pick of its rest, whichever comes first. -/
theorem schedPick_cons {s : State} {r p : DReq} {rs : List DReq} (h : schedPick s (r :: rs) = some p) :
    (p = r ∧ ∀ q, schedPick s rs = some q → SchedBefore s r q) ∨ (schedPick s rs = some p ∧ SchedBefore s p r) := by
  rw [schedPick] at h
  split at h
  next hnone =>
    refine .inl ⟨(Option.some.inj h).symm, fun q hq => ?_⟩
    rw [hnone] at hq
    cases hq
  next q hq =>
    split at h
    next hlt =>
      cases h
      exact .inr ⟨hq, schedBefore_of_lt hlt⟩
    next hge =>
      refine .inl ⟨(Option.some.inj h).symm, fun q' hq' => ?_⟩
      cases hq.symm.trans hq'
      exact schedBefore_of_not hge

/-- The pick is a request of the list and comes before every one of it. -/
theorem schedPick_first {s : State} {l : List DReq} {r : DReq} (h : schedPick s l = some r) : r ∈ l ∧ ∀ q ∈ l, SchedBefore s r q := by
  induction l generalizing r with
  | nil => cases h
  | cons x xs ih =>
    obtain ⟨rfl, hrest⟩ | ⟨hr, hx⟩ := schedPick_cons h
    · refine ⟨List.mem_cons_self .., List.forall_mem_cons.2 ⟨.refl s r, fun q hq => ?_⟩⟩
      cases hp : schedPick s xs with
      | none => simp [schedPick_eq_none.1 hp] at hq
      | some p => exact (hrest p hp).trans ((ih hp).2 q hq)
    · obtain ⟨hmem, hall⟩ := ih hr
      exact ⟨List.mem_cons_of_mem _ hmem, List.forall_mem_cons.2 ⟨hx, hall⟩⟩

/-! ## The place of a request in MODE NORMAL (R303, R305) -/

section
variable {s : State} {r : DReq}

/-- An RT request of a port in panic, with a token: the tier that comes first. -/
def PanicTier (s : State) (r : DReq) : Prop := r.attr.cls = 0 ∧ SMap.get false s.dram.panic r.port = true ∧ noToken s r = false

/-- A request whose age has reached the limit of its class: the next tier. -/
def AgedTier (s : State) (r : DReq) : Prop := ageLimit s r.attr.cls ≠ 0 ∧ ageLimit s r.attr.cls ≤ ageOf s r

theorem schedKey_panic (hm : deadlineMode s = false) (h : PanicTier s r) : schedKey s r = 0 := by
  obtain ⟨hcls, hpanic, htok⟩ := h
  simp [schedKey, hm, hcls, hpanic, htok]

/-- Outside the first tier the place is not 0. -/
theorem schedKey_pos (hm : deadlineMode s = false) (h : ¬PanicTier s r) : 0 < schedKey s r := by
  rw [schedKey, if_neg (by simp [hm]), if_neg (by simpa [PanicTier] using h)]
  split <;> omega

theorem schedKey_aged (hm : deadlineMode s = false) (h : AgedTier s r) : schedKey s r ≤ 1 := by
  unfold AgedTier at h
  rw [schedKey, if_neg (by simp [hm]), if_pos h]
  split <;> decide

/-- Outside the first tier and within its age limit a request stands in the fourth tier. -/
theorem one_lt_schedKey (hm : deadlineMode s = false) (hp : ¬PanicTier s r) (ha : ¬AgedTier s r) : 1 < schedKey s r := by
  unfold AgedTier at ha
  rw [schedKey, if_neg (by simp [hm]), if_neg (by simpa [PanicTier] using hp), if_neg ha]
  omega

/-! ## The place of a request in MODE DEADLINE (R306) -/

theorem schedKey_deadline (hm : deadlineMode s = true) : schedKey s r = 3 - urgency s r := if_pos hm

end

/-- There are four urgencies. -/
theorem urgencyOf_le (t a : Nat) : urgencyOf t a ≤ 3 := by
  unfold urgencyOf
  repeat' split
  all_goals decide

/-- Settles O13: the pick by induction on the candidates, the tiers and the urgency by the place of a request. -/
theorem schedulerOrder : Obligations.SchedulerOrder := by
  refine ⟨fun s l r => schedPick_first, fun s l => schedPick_eq_none, fun s r q hm htok hcls hpanic hq => ?_,
    fun s r q hm hlim hage hcls hyoung => ?_, fun s r q hm hlt => ?_⟩
  · rw [schedKey_panic hm ⟨hcls, hpanic, htok⟩]
    exact schedKey_pos hm hq
  · have hfourth : 1 < schedKey s q := one_lt_schedKey hm (fun h => hcls h.1) fun ⟨h0, hle⟩ => hyoung.elim h0 (Nat.not_lt.2 hle)
    exact (schedKey_aged hm ⟨hlim, hage⟩).trans_lt hfourth
  · have hle : urgency s r ≤ 3 := urgencyOf_le ..
    rw [schedKey_deadline hm, schedKey_deadline hm]
    omega

end Sys2Proof.Machine
end

section
/-!
PROOFS. O10: the requests of the DRAM controller.
-/

namespace Sys2Proof.Machine

open Sys2Proof.Claims

/-! ## Acceptance (R39, R301, R304, R309) -/

theorem dramRequest_accepted : DramRequest := by
  intro s id r hr hsent hfree hdrain hbefore t
  change Host.Outcome.next (acceptDreq s id) = _
  simp only [acceptDreq, hr]
  rw [if_pos ⟨hsent, hfree, by rw [hdrain]; rfl, by rw [hbefore]; rfl⟩]
  rfl

/-! ## The scheduler (R291, R303, R305, R306, R310) -/

theorem schedulerChoice_refresh : SchedulerRefresh := by
  intro s ch busy e hclk he
  change execSchedulerChoice ch busy s = _
  simp only [execSchedulerChoice, hclk, he, Bool.not_true, Bool.false_eq_true, if_false]

/-- Where no refresh is due the scheduler gives the request picked to its next rank, unless an internal source comes before it. -/
theorem execSchedulerChoice_picked {s : State} {ch : Fin 18} {busy : BitVec 32} {r : DReq} (hclk : clocksOn s = true)
    (hnone : refreshPick s ch busy = none) (hpick : schedPick s (candidates s ch busy) = some r) :
    execSchedulerChoice ch busy s = .next (if internalFirst s ch busy r then s else giveRank s r) := by
  simp only [execSchedulerChoice, hclk, hnone, hpick, Bool.not_true, Bool.false_eq_true, if_false]

theorem schedulerChoice_gives : SchedulerChoice := by
  intro s ch busy r hclk hnone hpick hfirst pr t
  change execSchedulerChoice ch busy s = _
  rw [execSchedulerChoice_picked hclk hnone hpick, hfirst]
  rfl

theorem schedulerChoice_yields : SchedulerYields := by
  intro s ch busy r hnone hpick hfirst
  change execSchedulerChoice ch busy s = _
  cases hclk : clocksOn s with
  | false => rw [execSchedulerChoice, hclk]; rfl
  | true => rw [execSchedulerChoice_picked hclk hnone hpick, hfirst]; rfl

theorem deadlineMiss_counts : DeadlineMiss := by
  intro s id r hr hclk hwaits hmode hfresh htarget
  change execDeadlineMiss id s = _
  simp only [execDeadlineMiss, hr]
  rw [if_pos ⟨hclk, hwaits, hmode, by rw [hfresh]; rfl, htarget⟩]

/-! ## Reads (R292, R293, R302, R313, R540) -/

theorem dramRead_completes : DramRead := by
  intro s id out r hr hchosen hread hturn
  change execDramReadComplete id out s = _
  simp only [execDramReadComplete, hr]
  rw [if_pos ⟨hchosen, by rw [hread]; rfl, by rw [hturn]; rfl⟩]

theorem tokensReturn_toPool : TokensReturn := by
  intro s d
  refine ⟨fun howed => ?_, fun hkept => ?_⟩
  · have hfits : min (rdF s (domPage d) 0x05C 0 11) (tokHeld s d) < 2 ^ 11 := (Nat.min_le_left ..).trans_lt (fld_lt ..)
    rw [returnTok, if_pos howed, rdF_wrF_same _ _ _ _ (by decide), Nat.mod_eq_of_lt hfits]
  · rw [returnTok, if_neg (by simp [hkept])]

/-- A line that comes back from another address is UNCORRECTABLE. -/
theorem decodeLine_moved (s : State) (x : Line × Bool) {e : LineErr} (hm : e.moved = true) : decodeLine s x e = (s, 2, x.1) := if_pos hm

/-- Up to three symbols in error are corrected. -/
theorem decodeLine_correctable (s : State) (x : Line × Bool) {e : LineErr} (hm : e.moved = false) (hsym : e.sym.val ≤ 3) :
    decodeLine s x e = (s, if x.2 then 3 else if e.sym.val = 0 then 0 else 1, x.1) := by
  rw [decodeLine, if_neg (by simp [hm]), if_pos hsym]

/-- Four or five symbols in error are UNCORRECTABLE. -/
theorem decodeLine_detectable (s : State) (x : Line × Bool) {e : LineErr} (hm : e.moved = false) (hlo : 4 ≤ e.sym.val) (hhi : e.sym.val ≤ 5) :
    decodeLine s x e = (s, 2, x.1) := by
  rw [decodeLine, if_neg (by simp [hm]), if_neg (by omega), if_pos hhi]

theorem readOutcome_bySymbols : ReadOutcome := by
  intro s x e
  refine ⟨decodeLine_moved s x, fun hm hclean => ?_, fun hm hlo hhi => ?_, decodeLine_detectable s x⟩
  · have hzero : e.sym.val = 0 := congrArg Fin.val hclean
    rw [decodeLine_correctable s x hm (by omega), if_pos hzero]
  · rw [decodeLine_correctable s x hm hhi, if_neg (show ¬e.sym.val = 0 by omega)]

/-! ## Refresh and power-down (R291, R299, R300) -/

theorem refreshDue_trained {s : State} {pr : Fin 36} (bank : Fin 16) (hclk : clocksOn s = true) (hchan : rdF s (dchOf pr) 0x040 0 2 = 1) :
    refreshDue s pr bank = { s with dram := { s.dram with refDue := s.dram.refDue ++ [(pr.val, bank.val)] } } := if_pos ⟨hclk, hchan⟩

theorem dramRefresh_due : DramRefresh := by
  intro s pr bank hclk hchan
  change Host.Outcome.next (refreshDue s pr bank) = _ ∧ Host.Outcome.next (refreshDue s pr bank) = _
  rw [refreshDue_trained bank hclk hchan]
  exact ⟨rfl, rfl⟩

theorem rankPowerDown_enters : RankPowerDown := by
  intro s pr hclk hidle hup t
  have hnone : (s.dram.reqs.any fun r => (destRanks s r).contains pr.val) = false :=
    List.any_eq_false.2 fun r hr => by simpa using hidle r hr
  change execRankPowerDown pr s = _
  rw [execRankPowerDown, if_neg (by simp only [hclk, hnone, hup]; decide)]

/-- Settles O10: each step of a request, and what a rank's banks and tokens do, by its own lemma. -/
theorem dramRequests : Obligations.DramRequests :=
  ⟨dramRequest_accepted, schedulerChoice_refresh, schedulerChoice_gives, schedulerChoice_yields, deadlineMiss_counts, dramRead_completes,
    tokensReturn_toPool, readOutcome_bySymbols, dramRefresh_due, rankPowerDown_enters⟩

end Sys2Proof.Machine
end

section
/-!
PROOFS. The frame in which an instruction of an engine runs (R351, R356, R362, R370): where it issues, what its body answers decides what follows.
-/

namespace Sys2Proof.Machine

open Sys2Proof.Claims

/-! ## The slot of an instruction -/

/-- A delay slot that is not annulled. -/
theorem annulled_eq_false {th : NgThread} : annulled th = false ↔ ∀ npc, th.dslot ≠ some (npc, true) := by
  rw [annulled]
  rcases th.dslot with _ | ⟨npc, _ | _⟩ <;> simp

/-- The thread that an instruction's effect finds is the slot's after its loop check. -/
theorem bodyThr_eq (s : State) (e : Fin 512) (t : Fin 4) : bodyThr s e t = (checkOf s e t).1 := by
  rw [bodyThr, checked, thr_updThr]

/-- What an instruction at a fetchable address does (R351, R356, R362): `r` is what its body answers. -/
def ngOutcome (s : State) (e : Fin 512) (t : Fin 4) (slots : Nat) : NgRes → State
  | .fault code => ngFault (atSlot s e t) e t (nextSlot s e t) code
  | .stopped u => updThr u e t fun th => { th with lpC := (slotThr s e t).lpC, sw := (slotThr s e t).sw }
  | .ok u .seq => seqDone s u e t slots
  | .ok u (.goto pc) => finished s u e t slots fun th => { th with pc := pc, dslot := none, rete := none }
  | .ok u (.branch pc taken annul) => finished s u e t slots fun th =>
      { th with pc := (slotThr s e t).pc + 2, dslot := some (if taken then pc else (slotThr s e t).pc + 4, annul && !taken), rete := none }
  | .ok u .halt => finished s u e t slots fun th => { haltThread th with pc := (slotThr s e t).pc + 2 }
  | .ok u .wait => endStep (waitHalt (updThr u e t fun th => { th with
      next := nextSlot s e t + slots * slotPeriod s e, entered := false, pc := (slotThr s e t).pc + 2, st := if th.st = 3 then 3 else 2, rete := none })
        e t) e t (decide ((slotThr s e t).st = 3))
  | .ok u .ret => finished s u e t slots fun th => th

variable {s : State} {e : Fin 512} {t : Fin 4} {slots : Nat} {ct rsvd : Bool} {body : State → Nat → NgRes}

/-- An instruction that issues, with what each cause of R362 leaves. -/
theorem ngInstr_issues (hi : canIssue s e t = true) (ha : annulled (slotThr s e t) = false) :
    ngInstr e t slots ct rsvd body s = .next (
      if (slotThr s e t).pc.toNat % 2 = 1 ∨ 0o070000 ≤ (slotThr s e t).pc.toNat then ngFault (atSlot s e t) e t (nextSlot s e t) 3
      else if rsvd then ngFault (atSlot s e t) e t (nextSlot s e t) 2
      else if ct ∧ (slotThr s e t).dslot.isSome then ngFault (atSlot s e t) e t (nextSlot s e t) 6
      else if ct ∧ activeEnd (slotThr s e t) (slotThr s e t).pc then ngFault (atSlot s e t) e t (nextSlot s e t) 7
      else ngOutcome s e t slots (body (checked s e t) (nextSlot s e t))) := by
  rw [annulled_eq_false] at ha
  unfold ngInstr
  rw [hi, if_neg (by decide)]
  dsimp only
  rw [← atSlot, ← slotThr, ← checkOf, ← checked]
  refine congrArg Host.Outcome.next ?_
  rcases hd : (slotThr s e t).dslot with _ | ⟨npc, _ | _⟩
  case some.true => exact absurd hd (ha npc)
  all_goals
    iterate 4 refine ite_congr rfl (fun _ => rfl) fun _ => ?_
    generalize body (checked s e t) (nextSlot s e t) = r
    cases r with
    | ok u next =>
      cases next with
      | seq =>
        dsimp only [ngOutcome, seqDone, finished]
        rw [hd]
        rfl
      | _ => rfl
    | _ => rfl

/-- An instruction at an address that cannot be fetched from faults with FETCH. -/
theorem ngInstr_badFetch (hi : canIssue s e t = true) (ha : annulled (slotThr s e t) = false)
    (hpc : (slotThr s e t).pc.toNat % 2 = 1 ∨ 0o070000 ≤ (slotThr s e t).pc.toNat) :
    ngInstr e t slots ct rsvd body s = .next (ngFault (atSlot s e t) e t (nextSlot s e t) 3) := by
  rw [ngInstr_issues hi ha, if_pos hpc]

/-- A fetched instruction, with the causes of a fault that come before its body. -/
theorem ngInstr_fetched (h : Ready s e t) :
    ngInstr e t slots ct rsvd body s = .next (
      if rsvd then ngFault (atSlot s e t) e t (nextSlot s e t) 2
      else if ct ∧ (slotThr s e t).dslot.isSome then ngFault (atSlot s e t) e t (nextSlot s e t) 6
      else if ct ∧ activeEnd (slotThr s e t) (slotThr s e t).pc then ngFault (atSlot s e t) e t (nextSlot s e t) 7
      else ngOutcome s e t slots (body (checked s e t) (nextSlot s e t))) := by
  obtain ⟨hi, ha, heven, hlow⟩ := h
  rw [ngInstr_issues hi ha, if_neg (by omega)]

/-- A reserved form faults with RSVD. -/
theorem ngInstr_rsvd (h : Ready s e t) :
    ngInstr e t slots ct true body s = .next (ngFault (atSlot s e t) e t (nextSlot s e t) 2) := by
  rw [ngInstr_fetched h, if_pos rfl]

/-- An instruction that is no control transfer does what its body answers. -/
theorem ngInstr_ready (h : Ready s e t) :
    ngInstr e t slots false false body s = .next (ngOutcome s e t slots (body (checked s e t) (nextSlot s e t))) := by
  rw [ngInstr_fetched h, if_neg (by decide), if_neg (by simp), if_neg (by simp)]

/-- A control transfer that stands neither in a delay slot nor at the END of an active loop does what its body answers. -/
theorem ngInstr_readyCt (h : ReadyCt s e t) :
    ngInstr e t slots ct false body s = .next (ngOutcome s e t slots (body (checked s e t) (nextSlot s e t))) := by
  obtain ⟨hr, hd, hend⟩ := h
  rw [ngInstr_fetched hr, if_neg (by decide), if_neg (by simp [hd]), if_neg (by simp [hend])]

/-! ## The shapes of instructions -/

variable {c : Instr} {d : Fin 16} {f : NgThread → Word18 × Word18} {g : NgThread → NgThread} {k : NgThread → Nat → NgThread}

/-- A command that writes one register and ST. -/
theorem exec_alu (h : Ready s e t) (hc : exec c s = ngAlu e t false d f s) : exec c s = .next (wroteAlu s e t d f) :=
  hc.trans (ngInstr_ready h)

/-- A command that changes its thread only. -/
theorem exec_thrOp (h : Ready s e t) (hc : exec c s = ngThrOp e t false (fun th _ => g th) s) : exec c s = .next (threadDone s e t g) :=
  hc.trans (ngInstr_ready h)

/-- A reserved form of a command that writes one register and ST. -/
theorem exec_alu_rsvd (h : Ready s e t) (f : NgThread → Word18 × Word18) (hc : exec c s = ngAlu e t true d f s) :
    exec c s = .next (ngFault (atSlot s e t) e t (nextSlot s e t) 2) :=
  hc.trans (ngInstr_rsvd h)

/-- A reserved form of a command that changes its thread only. -/
theorem exec_thrOp_rsvd (h : Ready s e t) (k : NgThread → Nat → NgThread) (hc : exec c s = ngThrOp e t true k s) :
    exec c s = .next (ngFault (atSlot s e t) e t (nextSlot s e t) 2) :=
  hc.trans (ngInstr_rsvd h)

end Sys2Proof.Machine
end

section
/-!
PROOFS. O33: the additive instructions of an engine (R329).
-/

namespace Sys2Proof.Machine

open Sys2Proof.Claims

theorem addRows_hold : AddRows := by
  intro s e t f d a b imm h
  exact ⟨exec_alu h rfl, exec_alu h rfl, exec_alu h rfl, exec_alu h rfl, exec_alu h rfl, exec_alu h rfl, exec_alu h rfl, exec_alu h rfl⟩

theorem cmpRows_hold : CmpRows := by
  intro s e t a b imm h
  exact ⟨exec_thrOp h rfl, exec_thrOp h rfl⟩

end Sys2Proof.Machine
end

section
/-!
PROOFS. Bits of a register, the flags of ST (R320, R329, R330) and clamped integers (R19).
-/

namespace Sys2Proof.Machine

open Sys2Proof.Claims

/-! ## Single bits -/

/-- A bit that has been set reads so, and every other bit reads as before. -/
theorem bit_setBit {w i : Nat} (v : BitVec w) (j : Nat) (x : Bool) (h : i < w) : bit (setBit v i x) j = if j = i then x else bit v j := by
  rw [bit, setBit, getLsbD_setFld]
  by_cases hj : j = i
  · subst hj
    cases x <;> simp [h]
  · rw [if_neg (by omega), if_neg hj, bit]

/-- Two words with the same bits are the same word. -/
theorem eq_of_bits {w : Nat} {u v : BitVec w} (h : ∀ j, bit u j = bit v j) : u = v := BitVec.eq_of_getLsbD_eq fun i _ => h i

theorem setBit_setBit {w i : Nat} (v : BitVec w) (x y : Bool) (h : i < w) : setBit (setBit v i x) i y = setBit v i y := by
  refine eq_of_bits fun j => ?_
  rw [bit_setBit _ _ _ h, bit_setBit _ _ _ h, bit_setBit _ _ _ h]
  split <;> rfl

/-- A bit set to what it is. -/
theorem setBit_self {w i : Nat} {v : BitVec w} {x : Bool} (h : i < w) (hx : bit v i = x) : setBit v i x = v := by
  refine eq_of_bits fun j => ?_
  rw [bit_setBit _ _ _ h]
  split
  next hj => rw [hj, hx]
  next => rfl

/-! ## The flags of ST -/

@[simp] theorem bit_setZN (st r : Word18) (j : Nat) :
    bit (setZN st r) j = if j = 0 then decide (r = 0) else if j = 1 then bit r 17 else bit st j := by
  rw [setZN, bit_setBit _ _ _ (by decide), bit_setBit _ _ _ (by decide)]
  by_cases h0 : j = 0
  · subst h0
    rfl
  · simp [h0]

@[simp] theorem bit_setV (st : Word18) (x : Bool) (j : Nat) : bit (setV st x) j = if j = 3 then x else bit st j :=
  bit_setBit _ _ _ (by decide)

@[simp] theorem bit_setC (st : Word18) (x : Bool) (j : Nat) : bit (setC st x) j = if j = 2 then x else bit st j :=
  bit_setBit _ _ _ (by decide)

/-- S is sticky. -/
@[simp] theorem bit_stickS (st : Word18) (x : Bool) (j : Nat) : bit (stickS st x) j = if j = 4 then bit st 4 || x else bit st j := by
  cases x with
  | false =>
    by_cases hj : j = 4
    · simp [stickS, hj]
    · simp [stickS, hj]
  | true =>
    rw [stickS, if_pos rfl, bit_setBit _ _ _ (by decide), Bool.or_true]

/-- Z and N tell of the result. -/
theorem toldOf_setZN (st r : Word18) : ToldOf (setZN st r) r := by
  simp [ToldOf]

/-! ## Clamped integers -/

theorem clamped_satI (w : Nat) (z : Int) : Clamped w z (satI w z) := by
  have hpos : (0 : Int) < 2 ^ (w - 1) := by positivity
  unfold Clamped satI
  refine ⟨fun h => ?_, fun h => ?_, fun h h' => ?_⟩
  · rw [if_neg (by omega), if_pos h]
  · rw [if_pos (by omega)]
  · rw [if_neg (by omega), if_neg (by omega)]

/-- What is clamped lies in the signed range. -/
theorem satI_range {w : Nat} (z : Int) : -(2 : Int) ^ (w - 1) ≤ satI w z ∧ satI w z < (2 : Int) ^ (w - 1) := by
  have hpos : (0 : Int) < 2 ^ (w - 1) := by positivity
  unfold satI
  split
  · omega
  · split <;> omega

/-- A value in the signed range is its own word's. -/
theorem toInt_ofInt_of_range {w : Nat} {z : Int} (hw : 0 < w) (hlo : -(2 : Int) ^ (w - 1) ≤ z) (hhi : z < (2 : Int) ^ (w - 1)) :
    (BitVec.ofInt w z).toInt = z := by
  have hpow : (2 ^ w : Nat) = 2 * 2 ^ (w - 1) := by rw [← Nat.pow_succ']; congr 1; omega
  rw [BitVec.toInt_ofInt]
  refine Int.bmod_eq_of_le ?_ ?_
  · rw [hpow]; push_cast; omega
  · rw [hpow]; push_cast; omega

theorem toInt_ofInt_satI {w : Nat} (z : Int) (hw : 0 < w) : (BitVec.ofInt w (satI w z)).toInt = satI w z :=
  toInt_ofInt_of_range hw (satI_range z).1 (satI_range z).2

/-- A value that is not clamped fits. -/
theorem satI_eq_self_iff {w : Nat} (z : Int) : satI w z = z ↔ -(2 : Int) ^ (w - 1) ≤ z ∧ z < (2 : Int) ^ (w - 1) := by
  refine ⟨fun h => h ▸ satI_range z, fun h => (clamped_satI w z).2.2 h.1 h.2⟩

/-- The least and the greatest signed word. -/
theorem satI_word (z : Int) : satI 18 z = if z < -131072 then -131072 else if 131071 < z then 131071 else z := by
  unfold satI
  norm_num
  split
  · rw [if_neg (by omega)]
  · rfl

end Sys2Proof.Machine
end

section
/-!
PROOFS. O33: the additive instructions of an engine (R329).
-/

namespace Sys2Proof.Machine

open Sys2Proof.Claims

/-- The sum, or the clamped exact sum where saturation is on and the sum does not fit. -/
theorem addCore_follows (st : Word18) (sat : Bool) (x y : Word18) (cin : Bool) :
    AddRule st sat x y cin (addCore st sat x y cin).1 (addCore st sat x y cin).2 := by
  unfold AddRule
  intro z out
  have hv : (decide (z < -(2 : Int) ^ 17) || decide ((2 : Int) ^ 17 - 1 < z)) = decide out := (Bool.decide_or ..).symm
  have hcore : addCore st sat x y cin =
      let r := if decide out && sat then w18 (satI 18 z) else BitVec.ofNat 18 (x.toNat + y.toNat + cin.toNat)
      (r, setZN (stickS (setV (setC st (decide (2 ^ 18 ≤ x.toNat + y.toNat + cin.toNat))) (decide out)) (decide out && sat)) r) := by
    rw [← hv]
    rfl
  rw [hcore]
  dsimp only
  refine ⟨fun h => ?_, fun ho hs => ?_, by simp, by simp, by simp, toldOf_setZN _ _, fun i hi => ?_⟩
  · rw [if_neg (by simpa using h), BitVec.toNat_ofNat]
  · rw [if_pos (by simp [ho, hs]), w18, toInt_ofInt_satI z (by decide), satI_word]
    rcases ho with h | h
    · rw [if_pos h, if_pos (by omega)]
    · rw [if_neg (by omega), if_pos h, if_neg (by omega)]
  · simp only [List.mem_cons, List.not_mem_nil, or_false, not_or] at hi
    simp [hi]

/-- Of ST only what an addition keeps matters to it. -/
theorem addCore_setC (st : Word18) (c sat : Bool) (x y : Word18) (cin : Bool) : addCore (setC st c) sat x y cin = addCore st sat x y cin := by
  simp only [addCore, setC, setBit_setBit _ _ _ (show 2 < 18 by decide)]

/-- ABS of a negative word is its negation, but for C. -/
theorem absCore_negative {x : Word18} (st : Word18) (sat : Bool) (h : bit x 17 = true) :
    absCore st sat x = ((addCore st sat 0 (~~~x) true).1, setC (addCore st sat 0 (~~~x) true).2 (bit st 2)) := if_pos h

theorem absCore_positive {x : Word18} (st : Word18) (sat : Bool) (h : bit x 17 = false) :
    absCore st sat x = (x, setZN (setV st false) x) := if_neg (by simp [h])

theorem addCoreFollows_holds : AddCoreFollows := by
  refine ⟨addCore_follows, fun st sat x h => ?_, fun st sat x h => ?_, fun st f => by simp [satOn]⟩
  · rw [absCore_negative st sat h]
    refine ⟨bit (addCore st sat 0 (~~~x) true).2 2, ?_, by simp⟩
    have hrule := addCore_follows (setC st (bit (addCore st sat 0 (~~~x) true).2 2)) sat 0 (~~~x) true
    rw [addCore_setC] at hrule
    have hback : setBit (setC (addCore st sat 0 (~~~x) true).2 (bit st 2)) 2 (bit (addCore st sat 0 (~~~x) true).2 2) =
        (addCore st sat 0 (~~~x) true).2 := by
      rw [setC, setBit_setBit _ _ _ (by decide), setBit_self (by decide) rfl]
    rw [hback]
    exact hrule
  · rw [absCore_positive st sat h]
    refine ⟨rfl, toldOf_setZN _ _, by simp [h], by simp, fun i hi => ?_⟩
    simp only [List.mem_cons, List.not_mem_nil, or_false, not_or] at hi
    simp [hi]

/-- Settles O33: the rows by the shapes of their instructions, and add_core bit by bit. -/
theorem addsAndCompares : Obligations.AddsAndCompares := ⟨addRows_hold, cmpRows_hold, addCoreFollows_holds⟩

end Sys2Proof.Machine
end

section
/-!
PROOFS. O34: logic, minimum, maximum and moves of an engine (R330, R360).
-/

namespace Sys2Proof.Machine

open Sys2Proof.Claims

theorem min_word (x y : Word18) : (if x.toInt ≤ y.toInt then x else y) = BitVec.ofInt 18 (min x.toInt y.toInt) := by
  split
  next h => rw [min_eq_left h, BitVec.ofInt_toInt]
  next h => rw [min_eq_right (by omega), BitVec.ofInt_toInt]

theorem max_word (x y : Word18) : (if x.toInt ≤ y.toInt then y else x) = BitVec.ofInt 18 (max x.toInt y.toInt) := by
  split
  next h => rw [max_eq_right h, BitVec.ofInt_toInt]
  next h => rw [max_eq_left (by omega), BitVec.ofInt_toInt]

theorem logicRows_hold : LogicRows := by
  intro s e t d a b imm h
  have hmin : execNgMin e t d a b = ngLogic e t d a b fun x y => BitVec.ofInt 18 (min x.toInt y.toInt) := by
    simp only [execNgMin, min_word]
  have hmax : execNgMax e t d a b = ngLogic e t d a b fun x y => BitVec.ofInt 18 (max x.toInt y.toInt) := by
    simp only [execNgMax, max_word]
  exact ⟨exec_alu h rfl, exec_alu h rfl, exec_alu h rfl, exec_alu h rfl, exec_alu h rfl, exec_alu h rfl, exec_alu h rfl,
    exec_alu h (congrFun hmin s), exec_alu h (congrFun hmax s), exec_alu h rfl, exec_alu h rfl, exec_alu h rfl⟩

theorem tstRows_hold : TstRows := by
  intro s e t a b h
  exact ⟨exec_thrOp h rfl, exec_thrOp h rfl⟩

theorem setZNFollows_holds : SetZNFollows := by
  refine fun st r => ⟨toldOf_setZN st r, fun i hi => ?_⟩
  simp only [List.mem_cons, List.not_mem_nil, or_false, not_or] at hi
  simp [hi]

/-- Settles O34: the rows by the shapes of their instructions, and Z and N bit by bit. -/
theorem logicAndMoves : Obligations.LogicAndMoves := ⟨logicRows_hold, tstRows_hold, setZNFollows_holds⟩

end Sys2Proof.Machine
end

section
/-!
PROOFS. O35: the shifts of an engine (R331).
-/

namespace Sys2Proof.Machine

open Sys2Proof.Claims

theorem shiftRows_hold : ShiftRows := by
  intro s e t d a b h
  exact ⟨exec_alu h rfl, exec_alu h rfl, exec_alu h rfl, exec_alu h rfl⟩

theorem shiftImm_holds : ShiftImm := by
  intro s e t d a c h
  exact ⟨exec_alu h rfl, exec_alu h rfl, exec_alu h rfl⟩

theorem rorImm_holds : RorImm := by
  intro s e t d a c h hc
  have hror : execNgRori e t d a c = ngAlu e t false d fun th => shiftCore 3 th.sw (ngReg th a) c := by
    rw [execNgRori, decide_eq_false (by omega)]
  exact exec_alu h (congrFun hror s)

theorem rorReserved_holds : RorReserved := by
  intro s e t d a c h hc
  have hror : execNgRori e t d a c = ngAlu e t true d fun th => shiftCore 3 th.sw (ngReg th a) c := by
    rw [execNgRori, decide_eq_true hc]
  exact exec_alu_rsvd h _ (congrFun hror s)

/-- A bit beyond a word is clear. -/
theorem bit_beyond (a : Word18) {i : Nat} (h : 18 ≤ i) : bit a i = false := BitVec.getLsbD_of_ge a i h

/-- The result of SLL, SRL, SRA and ROR. -/
theorem shiftCore_result (st a : Word18) (c : Nat) :
    (shiftCore 0 st a c).1 = (if 18 ≤ c then 0 else a <<< c) ∧ (shiftCore 1 st a c).1 = (if 18 ≤ c then 0 else a >>> c) ∧
      (shiftCore 2 st a c).1 = (if 18 ≤ c then (if bit a 17 then BitVec.allOnes 18 else 0) else a.sshiftRight c) ∧
      (shiftCore 3 st a c).1 = a.rotateRight (c % 18) := ⟨rfl, rfl, rfl, rfl⟩

/-- Every bit of the result of a shift. -/
theorem bit_shiftCore (st a : Word18) (c : Nat) {i : Nat} (hi : i < 18) :
    bit (shiftCore 0 st a c).1 i = (decide (c ≤ i) && bit a (i - c)) ∧ bit (shiftCore 1 st a c).1 i = bit a (i + c) ∧
      bit (shiftCore 2 st a c).1 i = (if i + c < 18 then bit a (i + c) else bit a 17) ∧ bit (shiftCore 3 st a c).1 i = bit a ((i + c) % 18) := by
  obtain ⟨h0, h1, h2, h3⟩ := shiftCore_result st a c
  rw [h0, h1, h2, h3]
  refine ⟨?_, ?_, ?_, ?_⟩
  · by_cases hc : 18 ≤ c
    · simp [hc, bit, show ¬ c ≤ i by omega]
    · rw [if_neg hc, bit, BitVec.getLsbD_shiftLeft, bit]
      by_cases hci : c ≤ i
      · simp [hi, hci]
      · simp [hi, hci]
  · by_cases hc : 18 ≤ c
    · rw [if_pos hc, bit_beyond a (by omega)]
      exact BitVec.getLsbD_zero
    · rw [if_neg hc, bit, BitVec.getLsbD_ushiftRight, Nat.add_comm, bit]
  · by_cases hc : 18 ≤ c
    · have hic : ¬ i + c < 18 := by omega
      rw [if_pos hc, if_neg hic]
      cases h : bit a 17
      · exact BitVec.getLsbD_zero
      · exact (BitVec.getLsbD_allOnes ..).trans (decide_eq_true hi)
    · rw [if_neg hc, bit, BitVec.getLsbD_sshiftRight, BitVec.msb_eq_getLsbD_last, Nat.add_comm c i]
      simp [hi, bit]
  · have hmod : c % 18 % 18 = c % 18 := Nat.mod_mod ..
    rw [bit, BitVec.getLsbD_rotateRight, hmod, bit, Bool.cond_decide]
    split
    next h => rw [show (i + c) % 18 = c % 18 + i by omega]
    next h => rw [show (i + c) % 18 = i - (18 - c % 18) by omega, decide_eq_true hi, Bool.true_and]

/-- The carry of a shift: the bit last shifted out. -/
theorem carry_shiftCore (op : Nat) (st a : Word18) (c : Nat) : bit (shiftCore op st a c).2 2 =
    (if op = 3 then (if c % 18 = 0 then bit st 2 else bit (shiftCore 3 st a c).1 17)
    else if c = 0 then bit st 2
    else if op = 0 then (if c ≤ 18 then bit a (18 - c) else false)
    else if op = 1 then (if c ≤ 18 then bit a (c - 1) else false)
    else (if c ≤ 17 then bit a (c - 1) else bit a 17)) := by
  simp only [shiftCore, bit_setZN, bit_setC]
  by_cases h : op = 3
  · subst h
    rfl
  · simp [h]

theorem shiftFollows_holds : ShiftFollows := by
  refine fun st a c => ⟨fun op => ⟨toldOf_setZN _ _, fun i hi => ?_⟩, fun i hi => bit_shiftCore st a c hi, ?_, ?_, ?_, ?_, ?_⟩
  · simp only [List.mem_cons, List.not_mem_nil, or_false, not_or] at hi
    simp [shiftCore, hi]
  · intro hc op hop
    rw [carry_shiftCore, if_neg (by omega), if_pos hc]
  · intro h0 h18
    rw [carry_shiftCore, carry_shiftCore]
    simp [show c ≠ 0 by omega, h18]
  · intro h18
    rw [carry_shiftCore, carry_shiftCore]
    simp [show c ≠ 0 by omega, show ¬ c ≤ 18 by omega]
  · intro h0
    rw [carry_shiftCore]
    simp [show c ≠ 0 by omega]
  · rw [carry_shiftCore, if_pos rfl]

/-- Settles O35: the rows by the shapes of their instructions, and each shift bit by bit. -/
theorem shifts : Obligations.Shifts := ⟨shiftRows_hold, shiftImm_holds, rorImm_holds, rorReserved_holds, shiftFollows_holds⟩

end Sys2Proof.Machine
end

section
/-!
PROOFS. O36: products, rounding and the accumulators of an engine (R332 to R336).
-/

namespace Sys2Proof.Machine

open Sys2Proof.Claims

/-! ## The rows -/

theorem mulRows_hold : MulRows := by
  intro s e t f d a b h
  have hmulh : execNgMulh e t d a b = ngLogic e t d a b fun x y => BitVec.ofInt 18 (x.toInt * y.toInt / 262144) := rfl
  exact ⟨exec_alu h rfl, exec_alu h (congrFun hmulh s), exec_alu h rfl, exec_alu h rfl⟩

theorem macRows_hold : MacRows := by
  intro s e t f a b c g fr n0 n1 h
  exact ⟨exec_thrOp h rfl, exec_thrOp h rfl, exec_thrOp h rfl⟩

theorem twoProducts_hold : TwoProducts := by
  intro th a b c g fr n0 n1
  cases n0 <;> cases n1 <;> simp [twoProds]

theorem extrRows_hold : ExtrRows := by
  intro s e t d a sh h ha hsh
  have hextr : execNgExtr e t d a sh = ngAlu e t false d fun th =>
      clampCore th.sw (rndCore th.sw (if a = 0 then th.acc0 else th.acc1).toInt sh.val) := by
    rw [execNgExtr, decide_eq_false (by omega)]
  exact exec_alu h (congrFun hextr s)

/-- AADD and ASUB of an accumulator that there is. -/
theorem ngAccSum_listed {a : Fin 16} (e : Fin 512) (t : Fin 4) (f : Bool) (op : Int → Int → Int) (ha : a.val < 2) :
    ngAccSum e t f a op = ngThrOp e t false fun th _ =>
      let x := acc44 (satOn th.sw f) (op th.acc0.toInt th.acc1.toInt)
      { th with acc0 := if a = 0 then x.1 else th.acc0, acc1 := if a = 0 then th.acc1 else x.1,
                sw := stickS (setV th.sw x.2) (x.2 && satOn th.sw f) } := by
  rw [ngAccSum, decide_eq_false (by omega)]

theorem accRows_hold : AccRows := by
  intro s e t f a h ha
  exact ⟨exec_thrOp h (congrFun (ngAccSum_listed e t f (fun x y => x + y) ha) s),
    exec_thrOp h (congrFun (ngAccSum_listed e t f (fun x y => x - y) ha) s)⟩

theorem aclrRows_hold : AclrRows := by
  intro s e t h
  exact ⟨exec_thrOp h rfl, exec_thrOp h rfl, exec_thrOp h rfl⟩

/-- A command whose operands are reserved, in any shape, faults with RSVD. -/
theorem exec_rsvd {s : State} {e : Fin 512} {t : Fin 4} {slots : Nat} {ct rsvd : Bool} {body : State → Nat → NgRes} {c : Instr}
    (op : State → Result) (h : Ready s e t) (hr : rsvd = true) (hc : exec c s = op s) (hop : op = ngInstr e t slots ct rsvd body) :
    exec c s = .next (ngFault (atSlot s e t) e t (nextSlot s e t) 2) := by
  subst hr hop
  exact hc.trans (ngInstr_rsvd h)

theorem accReserved_holds : AccReserved := by
  intro s e t f d a sh h x
  refine ⟨fun ha => ⟨?_, ?_⟩, fun ha => ?_, fun ha => ?_⟩
  · exact exec_rsvd (execNgAadd e t f a) h (decide_eq_true ha) rfl (by rw [execNgAadd, ngAccSum, ngThrOp])
  · exact exec_rsvd (execNgAsub e t f a) h (decide_eq_true ha) rfl (by rw [execNgAsub, ngAccSum, ngThrOp])
  · exact exec_rsvd (execNgAclr e t a) h (decide_eq_true ha) rfl (by rw [execNgAclr, ngThrOp])
  · exact exec_rsvd (execNgExtr e t d a sh) h (decide_eq_true ha) rfl (by rw [execNgExtr, ngAlu])

/-! ## Rounding (R335) -/

/-- A value between its quotient by 2^sh and the next: `h` is half of the step. -/
theorem quotient_rem (v : Int) {sh : Nat} (hsh : 0 < sh) :
    v = v / 2 ^ sh * 2 ^ sh + v % 2 ^ sh ∧ 0 ≤ v % (2 : Int) ^ sh ∧ v % (2 : Int) ^ sh < 2 ^ sh ∧ (2 : Int) ^ sh = 2 * 2 ^ (sh - 1) := by
  have hpos : (0 : Int) < 2 ^ sh := by positivity
  refine ⟨?_, Int.emod_nonneg _ hpos.ne', Int.emod_lt_of_pos _ hpos, ?_⟩
  · rw [mul_comm]
    exact (Int.mul_ediv_add_emod v _).symm
  · rw [← pow_succ']
    congr 1
    omega

theorem rndCore_zero (st : Word18) (v : Int) : rndCore st v 0 = v := if_pos rfl

theorem rndCore_truncates {st : Word18} (v : Int) {sh : Nat} (hm : fld st 5 2 = 0) (hsh : 0 < sh) : rndCore st v sh = v / 2 ^ sh := by
  rw [rndCore, if_neg (by omega)]
  exact if_pos hm

theorem rndCore_halfUp {st : Word18} (v : Int) {sh : Nat} (hm : fld st 5 2 = 1) (hsh : 0 < sh) :
    rndCore st v sh = v / 2 ^ sh + if 2 ^ (sh - 1) ≤ v % (2 : Int) ^ sh then 1 else 0 := by
  rw [rndCore, if_neg (by omega)]
  exact (if_neg (by omega)).trans (if_pos hm)

theorem rndCore_halfEven {st : Word18} (v : Int) {sh : Nat} (hm : fld st 5 2 ≠ 0) (hm' : fld st 5 2 ≠ 1) (hsh : 0 < sh) :
    rndCore st v sh =
      v / 2 ^ sh + if 2 ^ (sh - 1) < v % (2 : Int) ^ sh ∨ (v % (2 : Int) ^ sh = 2 ^ (sh - 1) ∧ v / 2 ^ sh % 2 = 1) then 1 else 0 := by
  rw [rndCore, if_neg (by omega)]
  exact (if_neg hm).trans (if_neg hm')

/-- What the rounding modes have in common: the result is the quotient, or the next where at least half a step is left. -/
theorem rndCore_rounds {st : Word18} (v : Int) {sh : Nat} (hm : fld st 5 2 ≠ 0) (hsh : 0 < sh) :
    (rndCore st v sh = v / 2 ^ sh ∧ v % (2 : Int) ^ sh ≤ 2 ^ (sh - 1)) ∨
      (rndCore st v sh = v / 2 ^ sh + 1 ∧ 2 ^ (sh - 1) ≤ v % (2 : Int) ^ sh) := by
  by_cases hm' : fld st 5 2 = 1
  · rw [rndCore_halfUp v hm' hsh]
    split
    next h => exact .inr ⟨rfl, h⟩
    next h => exact .inl ⟨add_zero _, by omega⟩
  · rw [rndCore_halfEven v hm hm' hsh]
    split
    next h => exact .inr ⟨rfl, by omega⟩
    next h => exact .inl ⟨add_zero _, by omega⟩

/-- Rounding is truncation, half up or half even (R335). -/
theorem rndCore_follows (st : Word18) (v : Int) (sh : Nat) :
    let r := rndCore st v sh
    (sh = 0 → r = v) ∧ (fld st 5 2 = 0 → r * 2 ^ sh ≤ v ∧ v < r * 2 ^ sh + 2 ^ sh) ∧
    (fld st 5 2 ≠ 0 → 0 < sh → r * 2 ^ sh - 2 ^ (sh - 1) ≤ v ∧ v ≤ r * 2 ^ sh + 2 ^ (sh - 1)) ∧
    (fld st 5 2 = 1 → 0 < sh → v ≠ r * 2 ^ sh + 2 ^ (sh - 1)) ∧
    (fld st 5 2 = 2 → 0 < sh → (v = r * 2 ^ sh + 2 ^ (sh - 1) ∨ v = r * 2 ^ sh - 2 ^ (sh - 1)) → r % 2 = 0) := by
  refine ⟨fun h => h ▸ rndCore_zero st v, fun hm => ?_, fun hm hsh => ?_, fun hm hsh => ?_, fun hm hsh => ?_⟩
  · rcases Nat.eq_zero_or_pos sh with rfl | hsh
    · rw [rndCore_zero]
      omega
    · obtain ⟨hv, h0, hlt, -⟩ := quotient_rem v hsh
      rw [rndCore_truncates v hm hsh]
      omega
  · obtain ⟨hv, h0, hlt, hhalf⟩ := quotient_rem v hsh
    rcases rndCore_rounds v hm hsh with ⟨hr, hrem⟩ | ⟨hr, hrem⟩
    · rw [hr]
      omega
    · rw [hr, add_mul, one_mul]
      omega
  · obtain ⟨hv, h0, hlt, hhalf⟩ := quotient_rem v hsh
    rw [rndCore_halfUp v hm hsh]
    split
    · rw [add_mul, one_mul]
      omega
    · rw [add_zero]
      omega
  · obtain ⟨hv, h0, hlt, hhalf⟩ := quotient_rem v hsh
    rw [rndCore_halfEven v (by omega) (by omega) hsh]
    split
    · rw [add_mul, one_mul]
      omega
    · rw [add_zero]
      omega

/-! ## Products and accumulators (R332 to R334, R336) -/

theorem prodCore_plain (x y : Word18) : prodCore x y false = (x.toInt * y.toInt, false) := rfl

theorem prodCore_doubled {x y : Word18} (h : x ≠ 0o400000 ∨ y ≠ 0o400000) : prodCore x y true = (2 * (x.toInt * y.toInt), false) := by
  rw [prodCore, if_pos rfl]
  exact if_neg (by tauto)

/-- What is not clamped to a word fits it. -/
theorem satI_word_ne (z : Int) : satI 18 z ≠ z ↔ ¬ (-131072 ≤ z ∧ z ≤ 131071) := by
  rw [not_iff_not, satI_eq_self_iff]
  norm_num
  omega

/-- MUL (R333): the product, clamped or wrapped where it does not fit. -/
theorem mulCore_follows (st : Word18) (sat : Bool) (a b : Word18) :
    let r := mulCore st sat a b
    let fits := -131072 ≤ a.toInt * b.toInt ∧ a.toInt * b.toInt ≤ 131071
    (fits → r.1.toInt = a.toInt * b.toInt) ∧ (¬fits → sat = true → r.1.toInt = if a.toInt * b.toInt < 0 then -131072 else 131071) ∧
    (sat = false → r.1 = a * b) ∧ (bit r.2 3 = true ↔ ¬fits) ∧ (bit r.2 4 = true ↔ bit st 4 = true ∨ (¬fits ∧ sat = true)) ∧
    ToldOf r.2 r.1 ∧ KeptBut st r.2 [0, 1, 3, 4] := by
  have hv := satI_word_ne (a.toInt * b.toInt)
  have hr : (mulCore st sat a b).1 =
      if decide (satI 18 (a.toInt * b.toInt) ≠ a.toInt * b.toInt) && sat then w18 (satI 18 (a.toInt * b.toInt)) else w18 (a.toInt * b.toInt) := rfl
  have hst : (mulCore st sat a b).2 = setZN (stickS (setV st (decide (satI 18 (a.toInt * b.toInt) ≠ a.toInt * b.toInt)))
      (decide (satI 18 (a.toInt * b.toInt) ≠ a.toInt * b.toInt) && sat)) (mulCore st sat a b).1 := rfl
  intro r fits
  refine ⟨fun hf => ?_, fun hf hs => ?_, fun hs => ?_, ?_, ?_, hst ▸ toldOf_setZN _ _, fun i hi => ?_⟩
  · rw [show r.1 = _ from hr, decide_eq_false (by rw [hv]; exact not_not.2 hf), Bool.false_and, if_neg (by decide), w18]
    exact toInt_ofInt_of_range (by decide) (by norm_num; exact hf.1) (by norm_num; omega)
  · rw [show r.1 = _ from hr, decide_eq_true (hv.2 hf), hs, Bool.true_and, if_pos rfl, w18, toInt_ofInt_satI _ (by decide), satI_word]
    by_cases hneg : a.toInt * b.toInt < 0
    · rw [if_pos hneg, if_pos (by omega)]
    · rw [if_neg hneg, if_neg (by omega), if_pos (by omega)]
  · rw [show r.1 = _ from hr, hs, Bool.and_false, if_neg (by decide), w18, BitVec.ofInt_mul, BitVec.ofInt_toInt, BitVec.ofInt_toInt]
  · have hbit : bit r.2 3 = decide (satI 18 (a.toInt * b.toInt) ≠ a.toInt * b.toInt) := by rw [show r.2 = _ from hst]; simp
    rw [hbit, decide_eq_true_iff, hv]
  · have hbit : bit r.2 4 = (bit st 4 || (decide (satI 18 (a.toInt * b.toInt) ≠ a.toInt * b.toInt) && sat)) := by
      rw [show r.2 = _ from hst]; simp
    rw [hbit, Bool.or_eq_true, Bool.and_eq_true, decide_eq_true_iff, hv]
  · rw [show r.2 = _ from hst]
    simp only [List.mem_cons, List.not_mem_nil, or_false, not_or] at hi
    simp [hi]

/-- A value clamped to a word (R333, R336). -/
theorem clampCore_follows (st : Word18) (x : Int) :
    let r := clampCore st x
    let fits := -131072 ≤ x ∧ x ≤ 131071
    Clamped 18 x r.1.toInt ∧ (bit r.2 3 = true ↔ ¬fits) ∧ (bit r.2 4 = true ↔ bit st 4 = true ∨ ¬fits) ∧ ToldOf r.2 r.1 ∧
    KeptBut st r.2 [0, 1, 3, 4] := by
  have hv := satI_word_ne x
  have hst : (clampCore st x).2 =
      setZN (stickS (setV st (decide (satI 18 x ≠ x))) (decide (satI 18 x ≠ x))) (clampCore st x).1 := rfl
  intro r fits
  refine ⟨?_, ?_, ?_, toldOf_setZN _ _, fun i hi => ?_⟩
  · rw [show r.1 = BitVec.ofInt 18 (satI 18 x) from rfl, toInt_ofInt_satI x (by decide)]
    exact clamped_satI 18 x
  · have hbit : bit r.2 3 = decide (satI 18 x ≠ x) := by rw [show r.2 = _ from hst]; simp
    rw [hbit, decide_eq_true_iff, hv]
  · have hbit : bit r.2 4 = (bit st 4 || decide (satI 18 x ≠ x)) := by rw [show r.2 = _ from hst]; simp
    rw [hbit, Bool.or_eq_true, decide_eq_true_iff, hv]
  · simp only [List.mem_cons, List.not_mem_nil, or_false, not_or] at hi
    simp [r, clampCore, hi]

/-- An accumulator that takes a sum, clamped or wrapped where it does not fit (R334). -/
theorem acc44_follows (sat : Bool) (x : Int) :
    let r := acc44 sat x
    let fits := -(2 : Int) ^ 43 ≤ x ∧ x < (2 : Int) ^ 43
    (r.2 = true ↔ ¬fits) ∧ (fits → r.1.toInt = x) ∧ (sat = true → Clamped 44 x r.1.toInt) ∧ (sat = false → r.1 = BitVec.ofInt 44 x) := by
  have hv : satI 44 x ≠ x ↔ ¬ (-(2 : Int) ^ 43 ≤ x ∧ x < (2 : Int) ^ 43) := not_congr (satI_eq_self_iff x)
  have hr : (acc44 sat x).1 = if decide (satI 44 x ≠ x) && sat then BitVec.ofInt 44 (satI 44 x) else BitVec.ofInt 44 x := rfl
  intro r fits
  refine ⟨decide_eq_true_iff.trans hv, fun hf => ?_, fun hs => ?_, fun hs => ?_⟩
  · rw [show r.1 = _ from hr, decide_eq_false (fun h => hv.1 h hf), Bool.false_and, if_neg (by decide)]
    exact toInt_ofInt_of_range (by decide) hf.1 hf.2
  · have hsat : r.1 = BitVec.ofInt 44 (satI 44 x) := by
      rw [show r.1 = _ from hr, hs, Bool.and_true]
      split
      next => rfl
      next h => rw [show satI 44 x = x by simpa using h]
    rw [hsat, toInt_ofInt_satI x (by decide)]
    exact clamped_satI 44 x
  · rw [show r.1 = _ from hr, hs, Bool.and_false, if_neg (by decide)]

theorem productFollows_holds : ProductFollows := by
  refine ⟨fun x y => ⟨prodCore_plain x y, prodCore_doubled⟩, rfl, fun w z _ => clamped_satI w z, mulCore_follows, rndCore_follows,
    clampCore_follows, fun _ _ _ => rfl, acc44_follows, fun st v x => ⟨by simp, by simp, fun i hi => ?_⟩⟩
  simp only [List.mem_cons, List.not_mem_nil, or_false, not_or] at hi
  simp [hi]

/-- Settles O36: the rows by the shapes of their instructions; products, rounding and clamping over the integers. -/
theorem productsAndAccumulators : Obligations.ProductsAndAccumulators :=
  ⟨mulRows_hold, macRows_hold, twoProducts_hold, extrRows_hold, accRows_hold, aclrRows_hold, accReserved_holds, productFollows_holds⟩

end Sys2Proof.Machine
end

section
/-!
PROOFS. O37: divisions of an engine (R337, R338).
-/

namespace Sys2Proof.Machine

open Sys2Proof.Claims

/-! ## The rows -/

/-- A command that changes its thread only, in a way that its issue tick tells of. -/
theorem exec_thrOpAt {s : State} {e : Fin 512} {t : Fin 4} {c : Instr} {k : NgThread → Nat → NgThread} (h : Ready s e t)
    (hc : exec c s = ngThrOp e t false k s) : exec c s = .next (threadDone s e t fun th => k th (nextSlot s e t)) :=
  hc.trans (ngInstr_ready h)

/-- A division instruction on an even pair is not reserved. -/
theorem even_not_odd {d : Fin 16} (hd : d.val % 2 = 0) : decide (d.val % 2 = 1) = false := decide_eq_false (by omega)

theorem divRows_hold : DivRows := by
  intro s e t f d a b h hd
  have hdiv0 : ∀ uns, ngDiv0 e t uns d a b = ngThrOp e t false fun th i =>
      writePair { th with sw := (div0Core th.sw uns (ngReg th a) (ngReg th b)).2.2 } (i + 2) d
        (div0Core th.sw uns (ngReg th a) (ngReg th b)).1 (div0Core th.sw uns (ngReg th a) (ngReg th b)).2.1 := fun uns => by
    rw [ngDiv0, even_not_odd hd]
  have hdstep : execNgDstep e t d b = ngThrOp e t false fun th i =>
      writePair th (i + 2) d (dstepCore th.sw (ngReg th d) (ngReg th (d.val + 1)) (ngReg th b)).1
        (dstepCore th.sw (ngReg th d) (ngReg th (d.val + 1)) (ngReg th b)).2 := by
    rw [execNgDstep, even_not_odd hd]
  have hdivf : execNgDivf e t f d = ngThrOp e t false fun th i =>
      writePair { th with sw := (divfCore th.sw (satOn th.sw f) (ngReg th d) (ngReg th (d.val + 1))).2.2 } (i + 3) d
        (divfCore th.sw (satOn th.sw f) (ngReg th d) (ngReg th (d.val + 1))).1
        (divfCore th.sw (satOn th.sw f) (ngReg th d) (ngReg th (d.val + 1))).2.1 := by
    rw [execNgDivf, even_not_odd hd]
  have hsigned := exec_thrOpAt (c := .ngDiv0 e t d a b) h (congrFun (hdiv0 false) s)
  have hunsigned := exec_thrOpAt (c := .ngDiv0u e t d a b) h (congrFun (hdiv0 true) s)
  have hstep := exec_thrOpAt (c := .ngDstep e t d b) h (congrFun hdstep s)
  have hfinal := exec_thrOpAt (c := .ngDivf e t f d) h (congrFun hdivf s)
  exact ⟨hsigned, hunsigned, hstep, hfinal⟩

theorem divReserved_holds : DivReserved := by
  intro s e t f d a b h hd x
  refine ⟨?_, ?_, ?_, ?_⟩
  · exact exec_rsvd (execNgDiv0 e t d a b) h (decide_eq_true hd) rfl (by rw [execNgDiv0, ngDiv0, ngThrOp])
  · exact exec_rsvd (execNgDiv0u e t d a b) h (decide_eq_true hd) rfl (by rw [execNgDiv0u, ngDiv0, ngThrOp])
  · exact exec_rsvd (execNgDstep e t d b) h (decide_eq_true hd) rfl (by rw [execNgDstep, ngThrOp])
  · exact exec_rsvd (execNgDivf e t f d) h (decide_eq_true hd) rfl (by rw [execNgDivf, ngThrOp])

/-! ## The steps -/

/-- What holds after `k` steps of a division of `A` by `dv`: of `A` moved up by `k` places, what is above a word has been divided, and what
is below stands above the `k` bits of the quotient. -/
structure Divided (A dv k : Nat) (p : Word18 × Word18) (q : Nat) : Prop where
  rem : p.1.toNat = A * 2 ^ k / 2 ^ 18 % dv
  quo : p.2.toNat = A * 2 ^ k % 2 ^ 18 + q
  bits : q < 2 ^ k
  quotient : dv ≠ 0 → q = A * 2 ^ k / 2 ^ 18 / dv

/-- The divisor that a step takes. -/
def stepDivisor (st b : Word18) : Nat := if bit st 11 then b.toNat else abs18 b

theorem dstepCore_eq (st rem quo b : Word18) : dstepCore st rem quo b =
    if stepDivisor st b ≤ 2 * rem.toNat + (bit quo 17).toNat then
      (BitVec.ofNat 18 (2 * rem.toNat + (bit quo 17).toNat - stepDivisor st b), setBit (quo <<< 1) 0 true)
    else (BitVec.ofNat 18 (2 * rem.toNat + (bit quo 17).toNat), quo <<< 1) := rfl

/-- The top bit of a word. -/
theorem toNat_topBit (x : Word18) : (bit x 17).toNat = x.toNat / 2 ^ 17 := by
  have hlt : x.toNat / 2 ^ 17 < 2 := by omega
  rw [bit, BitVec.getLsbD, Nat.testBit_eq_decide_div_mod_eq, Nat.mod_eq_of_lt hlt]
  interval_cases x.toNat / 2 ^ 17 <;> rfl

theorem toNat_shl_one (x : Word18) : (x <<< 1).toNat = 2 * x.toNat % 2 ^ 18 := by
  rw [BitVec.toNat_shiftLeft, Nat.shiftLeft_eq, pow_one, mul_comm]

/-- The lowest bit of a word moved up, set. -/
theorem toNat_shl_setBit (x : Word18) : (setBit (x <<< 1) 0 true).toNat = 2 * x.toNat % 2 ^ 18 + 1 := by
  have heven : ∀ y : Word18, y.toNat % 2 = 0 → (setBit y 0 true).toNat = y.toNat + 1 := fun y hy => by
    have hor : setBit y 0 true = y ||| 1 := by
      refine eq_of_bits fun j => ?_
      rw [bit_setBit _ _ _ (by decide), bit, bit, BitVec.getLsbD_or]
      by_cases hj : j = 0
      · simp [hj]
      · simp [hj]
    have hsum := Nat.two_pow_add_eq_or_of_lt (show 1 < 2 ^ 1 by decide) (y.toNat / 2)
    rw [pow_one, show 2 * (y.toNat / 2) = y.toNat by omega] at hsum
    rw [hor, BitVec.toNat_or, hsum]
    rfl
  rw [heven _ (by rw [toNat_shl_one]; omega), toNat_shl_one]

/-- A number divided one place further: `X` is what has been divided, `b` the next bit. -/
theorem divMod_next {dv : Nat} (X : Nat) {b : Nat} (hb : b < 2) (hdv : 0 < dv) :
    (2 * X + b) / dv = (if dv ≤ 2 * (X % dv) + b then 2 * (X / dv) + 1 else 2 * (X / dv)) ∧
      (2 * X + b) % dv = (if dv ≤ 2 * (X % dv) + b then 2 * (X % dv) + b - dv else 2 * (X % dv) + b) := by
  have hlt := Nat.mod_lt X hdv
  have hX := Nat.mod_add_div X dv
  rw [Nat.div_mod_unique hdv]
  split
  · refine ⟨?_, by omega⟩
    rw [mul_add, mul_one, mul_left_comm]
    omega
  · refine ⟨?_, by omega⟩
    rw [mul_left_comm]
    omega

/-- The bits of the quotient stand below the top of the dividend. -/
theorem low_bits_below {A k q : Nat} (hk : k < 18) (hq : q < 2 ^ k) :
    (A * 2 ^ k % 2 ^ 18 + q) / 2 ^ 17 = A * 2 ^ k % 2 ^ 18 / 2 ^ 17 := by
  have h17 : (2 : Nat) ^ 17 = 2 ^ k * 2 ^ (17 - k) := by rw [← pow_add]; congr 1; omega
  have h18 : (2 : Nat) ^ 18 = 2 ^ k * 2 ^ (18 - k) := by rw [← pow_add]; congr 1; omega
  rw [h17, h18, mul_comm A, Nat.mul_mod_mul_left, ← Nat.div_div_eq_div_mul, ← Nat.div_div_eq_div_mul,
    Nat.mul_add_div (Nat.two_pow_pos k), Nat.div_eq_of_lt hq, Nat.mul_div_cancel_left _ (Nat.two_pow_pos k), add_zero]

/-- What is below a word, with the bits of the quotient, fits one. -/
theorem low_bits_fit {A k q : Nat} (hk : k ≤ 18) (hq : q < 2 ^ k) : A * 2 ^ k % 2 ^ 18 + q < 2 ^ 18 := by
  have h18 : (2 : Nat) ^ 18 = 2 ^ k * 2 ^ (18 - k) := by rw [← pow_add]; congr 1; omega
  have hlt := Nat.mod_lt A (Nat.two_pow_pos (18 - k))
  rw [h18, mul_comm A, Nat.mul_mod_mul_left]
  calc 2 ^ k * (A % 2 ^ (18 - k)) + q < 2 ^ k * (A % 2 ^ (18 - k)) + 2 ^ k := by omega
    _ = 2 ^ k * (A % 2 ^ (18 - k) + 1) := by ring
    _ ≤ 2 ^ k * 2 ^ (18 - k) := Nat.mul_le_mul_left _ hlt

theorem stepDivisor_lt (st b : Word18) : stepDivisor st b < 2 ^ 18 := by
  have hlt := b.isLt
  have hint := BitVec.toInt_lt (x := b)
  have hint' := BitVec.le_toInt (x := b)
  rw [stepDivisor, abs18, sx]
  split <;> omega

/-- A step divides one place further. -/
theorem dstep_divides {st b : Word18} {A k q : Nat} {p : Word18 × Word18} (hA : A < 2 ^ 18) (hk : k < 18)
    (h : Divided A (stepDivisor st b) k p q) : ∃ q', Divided A (stepDivisor st b) (k + 1) (dstepCore st p.1 p.2 b) q' := by
  obtain ⟨hrem, hquo, hbits, hq⟩ := h
  have htop : (bit p.2 17).toNat = A * 2 ^ k % 2 ^ 18 / 2 ^ 17 := by rw [toNat_topBit, hquo, low_bits_below hk hbits]
  have hpow : A * 2 ^ (k + 1) = 2 * (A * 2 ^ k) := by ring
  have hpow' : (2 : Nat) ^ (k + 1) = 2 * 2 ^ k := by ring
  have hY : A * 2 ^ k < 2 ^ 18 * 2 ^ 17 :=
    calc A * 2 ^ k < 2 ^ 18 * 2 ^ k := Nat.mul_lt_mul_of_pos_right hA (Nat.two_pow_pos k)
      _ ≤ 2 ^ 18 * 2 ^ 17 := Nat.mul_le_mul_left _ (Nat.pow_le_pow_right (by decide) (by omega))
  have hdv := stepDivisor_lt st b
  have hnext : A * 2 ^ (k + 1) / 2 ^ 18 = 2 * (A * 2 ^ k / 2 ^ 18) + A * 2 ^ k % 2 ^ 18 / 2 ^ 17 := by omega
  have hlow : A * 2 ^ (k + 1) % 2 ^ 18 = 2 * (A * 2 ^ k % 2 ^ 18) % 2 ^ 18 := by omega
  have hfit : ∀ q', q' < 2 ^ (k + 1) → A * 2 ^ (k + 1) % 2 ^ 18 + q' < 2 ^ 18 := fun q' => low_bits_fit hk
  have hfit0 := hfit (2 * q) (by omega)
  have hfit1 := hfit (2 * q + 1) (by omega)
  rw [dstepCore_eq, htop, hrem]
  generalize stepDivisor st b = dv at *
  rcases Nat.eq_zero_or_pos dv with rfl | hpos
  · rw [if_pos (Nat.zero_le _), Nat.mod_zero, Nat.sub_zero, ← hnext]
    refine ⟨2 * q + 1, ?_, ?_, by omega, fun h => absurd rfl h⟩
    · rw [Nat.mod_zero, BitVec.toNat_ofNat, Nat.mod_eq_of_lt (by omega)]
    · rw [toNat_shl_setBit]
      omega
  · obtain ⟨hdiv, hmod⟩ := divMod_next (A * 2 ^ k / 2 ^ 18) (show A * 2 ^ k % 2 ^ 18 / 2 ^ 17 < 2 by omega) hpos
    have hlt := Nat.mod_lt (A * 2 ^ k / 2 ^ 18) hpos
    specialize hq (by omega)
    rw [← hnext] at hdiv hmod
    split
    next h =>
      rw [if_pos h] at hdiv hmod
      refine ⟨2 * q + 1, ?_, ?_, by omega, fun _ => by omega⟩
      · rw [BitVec.toNat_ofNat, Nat.mod_eq_of_lt (by omega), hmod]
      · rw [toNat_shl_setBit]
        omega
    next h =>
      rw [if_neg h] at hdiv hmod
      refine ⟨2 * q, ?_, ?_, by omega, fun _ => by omega⟩
      · rw [BitVec.toNat_ofNat, Nat.mod_eq_of_lt (by omega), hmod]
      · rw [toNat_shl_one]
        omega

/-- So do several. -/
theorem divSteps_divides {st b : Word18} {A : Nat} (hA : A < 2 ^ 18) (n : Nat) :
    ∀ {k q : Nat} {p : Word18 × Word18}, k + n ≤ 18 → Divided A (stepDivisor st b) k p q →
      ∃ q', Divided A (stepDivisor st b) (k + n) (divSteps st b n p) q' := by
  induction n with
  | zero => exact fun _ h => ⟨_, h⟩
  | succ n ih =>
    intro k q p hk h
    obtain ⟨q', h'⟩ := dstep_divides hA (by omega) h
    rw [show k + (n + 1) = k + 1 + n by omega]
    exact ih (by omega) h'

/-- Eighteen steps leave the remainder, and the quotient where there is one. -/
theorem divSteps_eighteen (st b : Word18) {x : Word18} {p : Word18 × Word18} (hp : p = divSteps st b 18 (0, x)) :
    p.1.toNat = x.toNat % stepDivisor st b ∧ (stepDivisor st b ≠ 0 → p.2.toNat = x.toNat / stepDivisor st b) := by
  have hstart : Divided x.toNat (stepDivisor st b) 0 (0, x) 0 := by
    have hx := x.isLt
    constructor
    · rw [pow_zero, mul_one, Nat.div_eq_of_lt hx, Nat.zero_mod]
      rfl
    · change x.toNat = x.toNat * 1 % 2 ^ 18 + 0
      omega
    · decide
    · rw [pow_zero, mul_one, Nat.div_eq_of_lt hx, Nat.zero_div]
      exact fun _ => rfl
  obtain ⟨q, hrem, hquo, -, hq⟩ := divSteps_divides x.isLt 18 (by decide) hstart
  rw [Nat.zero_add, Nat.mul_div_cancel _ (by decide)] at hrem hq
  rw [Nat.zero_add, Nat.mul_mod_left, Nat.zero_add] at hquo
  subst hp
  exact ⟨hrem, fun h => hquo.trans (hq h)⟩

/-! ## The start and the end -/

theorem bit_div0Core (st : Word18) (uns : Bool) (a b : Word18) (j : Nat) : bit (div0Core st uns a b).2.2 j =
    if j = 9 then !uns && bit a 17 else if j = 8 then !uns && (bit a 17 != bit b 17) else if j = 10 then decide (b = 0)
    else if j = 11 then uns else bit st j := by
  simp only [div0Core]
  rw [bit_setBit _ _ _ (by decide), bit_setBit _ _ _ (by decide), bit_setBit _ _ _ (by decide), bit_setBit _ _ _ (by decide)]

theorem abs18_lt (x : Word18) : abs18 x ≤ 2 ^ 17 := by
  have hlo := BitVec.le_toInt (x := x)
  have hhi := BitVec.toInt_lt (x := x)
  rw [abs18, sx]
  omega

/-- The top bit is the sign. -/
theorem bit_sign (x : Word18) : bit x 17 = decide (x.toInt < 0) := by
  rw [← BitVec.msb_eq_toInt, BitVec.msb_eq_getLsbD_last, bit]

theorem abs18_eq_zero {x : Word18} : abs18 x = 0 ↔ x = 0 := by
  rw [abs18, sx, Int.natAbs_eq_zero]
  refine ⟨fun h => BitVec.eq_of_toInt_eq (h.trans rfl), fun h => h ▸ rfl⟩

/-- The truncated quotient has the magnitudes' quotient, and is negative where the signs differ. -/
theorem tdiv_signs (x y : Int) :
    x.tdiv y = if (decide (x < 0) != decide (y < 0)) = true then -((x.natAbs / y.natAbs : Nat) : Int) else ((x.natAbs / y.natAbs : Nat) : Int) := by
  have hsign : ∀ z : Int, z = if z < 0 then -(z.natAbs : Int) else z.natAbs := fun z => by split <;> omega
  have hnat : ∀ m n : Nat, (m : Int).tdiv n = ((m / n : Nat) : Int) := fun m n => rfl
  conv_lhs => rw [hsign x, hsign y]
  generalize x.natAbs = m
  generalize y.natAbs = n
  rw [← hnat]
  by_cases hx : x < 0 <;> by_cases hy : y < 0 <;> simp [hx, hy]

/-- The remainder has the dividend's sign. -/
theorem tmod_signs (x y : Int) :
    x.tmod y = if x < 0 then -((x.natAbs % y.natAbs : Nat) : Int) else ((x.natAbs % y.natAbs : Nat) : Int) := by
  have hsign : ∀ z : Int, z = if z < 0 then -(z.natAbs : Int) else z.natAbs := fun z => by split <;> omega
  have hnat : ∀ m n : Nat, (m : Int).tmod n = ((m % n : Nat) : Int) := fun m n => rfl
  conv_lhs => rw [hsign x, hsign y]
  generalize x.natAbs = m
  generalize y.natAbs = n
  rw [← hnat]
  by_cases hx : x < 0 <;> by_cases hy : y < 0 <;> simp [hx, hy]

/-- The quotient with the sign that DIV0 has kept. -/
def signedQuotient (st quo : Word18) : Int := if bit st 8 then -(quo.toNat : Int) else quo.toNat

/-- The remainder with the sign that DIV0 has kept. -/
def signedRemainder (st rem : Word18) : Int := if bit st 9 then -(rem.toNat : Int) else rem.toNat

/-- DIVF by the bits of ST that DIV0 has set: a division by zero, a quotient that does not fit, one that does (R337). -/
theorem divfCore_eq (st : Word18) (sat : Bool) (rem quo : Word18) : divfCore st sat rem quo =
    if bit st 10 then (BitVec.allOnes 18, (if bit st 9 then -rem else rem), setZN (setV (setC st false) true) (BitVec.allOnes 18))
    else if !bit st 11 && decide ((2 : Int) ^ 17 - 1 < signedQuotient st quo) then
      ((if sat then 0o377777 else 0o400000), w18 (signedRemainder st rem),
        setZN (stickS (setV (setC st false) true) sat) (if sat then 0o377777 else 0o400000))
    else (w18 (signedQuotient st quo), w18 (signedRemainder st rem), setZN (setV (setC st false) false) (w18 (signedQuotient st quo))) := by
  have hbit : ∀ j, j ≠ 2 → bit (setC st false) j = bit st j := fun j hj => by rw [bit_setC, if_neg hj]
  unfold divfCore
  dsimp only
  rw [hbit 8 (by decide), hbit 9 (by decide), hbit 10 (by decide), hbit 11 (by decide)]
  rfl

theorem divfCore_zero {st : Word18} (sat : Bool) (rem quo : Word18) (h : bit st 10 = true) : divfCore st sat rem quo =
    (BitVec.allOnes 18, (if bit st 9 then -rem else rem), setZN (setV (setC st false) true) (BitVec.allOnes 18)) := by
  rw [divfCore_eq, if_pos h]

theorem divfCore_fits {st : Word18} (sat : Bool) (rem quo : Word18) (h : bit st 10 = false)
    (hfit : bit st 11 = true ∨ signedQuotient st quo ≤ 131071) : divfCore st sat rem quo =
    (w18 (signedQuotient st quo), w18 (signedRemainder st rem), setZN (setV (setC st false) false) (w18 (signedQuotient st quo))) := by
  rw [divfCore_eq, if_neg (by simp [h]), if_neg]
  simpa [or_iff_not_imp_left] using hfit

theorem divfCore_overflows {st : Word18} (sat : Bool) (rem quo : Word18) (h : bit st 10 = false) (h11 : bit st 11 = false)
    (hbig : 131071 < signedQuotient st quo) : divfCore st sat rem quo =
    ((if sat then 0o377777 else 0o400000), w18 (signedRemainder st rem),
      setZN (stickS (setV (setC st false) true) sat) (if sat then 0o377777 else 0o400000)) := by
  rw [divfCore_eq, if_neg (by simp [h]), if_pos]
  simpa [h11] using hbig

/-- DIVF clears C, and Z and N tell of the quotient. -/
theorem divfCore_flags (st : Word18) (sat : Bool) (rem quo : Word18) :
    bit (divfCore st sat rem quo).2.2 2 = false ∧ ToldOf (divfCore st sat rem quo).2.2 (divfCore st sat rem quo).1 := by
  cases h10 : bit st 10 with
  | true =>
    rw [divfCore_zero sat rem quo h10]
    exact ⟨by simp, toldOf_setZN _ _⟩
  | false =>
    by_cases hfit : bit st 11 = true ∨ signedQuotient st quo ≤ 131071
    · rw [divfCore_fits sat rem quo h10 hfit]
      exact ⟨by simp, toldOf_setZN _ _⟩
    · rw [not_or, Bool.not_eq_true, not_le] at hfit
      rw [divfCore_overflows sat rem quo h10 hfit.1 hfit.2]
      exact ⟨by simp, toldOf_setZN _ _⟩

/-! ## The whole sequence -/

/-- The signed sequence: magnitudes are divided. -/
theorem signedSteps (st : Word18) {a b : Word18} {p : Word18 × Word18}
    (hp : p = divSteps (div0Core st false a b).2.2 b 18 ((div0Core st false a b).1, (div0Core st false a b).2.1)) :
    p.1.toNat = a.toInt.natAbs % b.toInt.natAbs ∧ (b ≠ 0 → p.2.toNat = a.toInt.natAbs / b.toInt.natAbs) := by
  have hdv : stepDivisor (div0Core st false a b).2.2 b = b.toInt.natAbs := by
    rw [stepDivisor, bit_div0Core]
    rfl
  have ha : (BitVec.ofNat 18 (abs18 a)).toNat = a.toInt.natAbs := by
    have hlt := abs18_lt a
    rw [BitVec.toNat_ofNat, Nat.mod_eq_of_lt (by omega)]
    rfl
  obtain ⟨hrem, hquo⟩ := divSteps_eighteen _ b (show p = divSteps _ b 18 (0, BitVec.ofNat 18 (abs18 a)) from hp)
  rw [hdv, ha] at hrem hquo
  exact ⟨hrem, fun hb => hquo fun h => hb (abs18_eq_zero.1 h)⟩

/-- The unsigned sequence. -/
theorem unsignedSteps (st : Word18) {a b : Word18} {p : Word18 × Word18}
    (hp : p = divSteps (div0Core st true a b).2.2 b 18 ((div0Core st true a b).1, (div0Core st true a b).2.1)) :
    p.1.toNat = a.toNat % b.toNat ∧ (b ≠ 0 → p.2.toNat = a.toNat / b.toNat) := by
  have hdv : stepDivisor (div0Core st true a b).2.2 b = b.toNat := by
    rw [stepDivisor, bit_div0Core]
    rfl
  obtain ⟨hrem, hquo⟩ := divSteps_eighteen _ b (show p = divSteps _ b 18 (0, a) from hp)
  rw [hdv] at hrem hquo
  exact ⟨hrem, fun hb => hquo fun h => hb (BitVec.eq_of_toNat_eq h)⟩

/-- A quotient of words is at most one beyond a word. -/
theorem tdiv_word_range (a b : Word18) : -131072 ≤ a.toInt.tdiv b.toInt ∧ a.toInt.tdiv b.toInt ≤ 131072 := by
  have ha := abs18_lt a
  have hle := Nat.div_le_self a.toInt.natAbs b.toInt.natAbs
  have hq : a.toInt.natAbs / b.toInt.natAbs ≤ 131072 := hle.trans ha
  rw [tdiv_signs]
  generalize a.toInt.natAbs / b.toInt.natAbs = q at hq
  split <;> omega

/-- A remainder of words is a word. -/
theorem tmod_word_range {a b : Word18} (hb : b ≠ 0) : -131072 ≤ a.toInt.tmod b.toInt ∧ a.toInt.tmod b.toInt < 131072 := by
  have hdv := abs18_lt b
  have hpos : 0 < b.toInt.natAbs := Nat.pos_of_ne_zero fun h => hb (abs18_eq_zero.1 h)
  have hlt := Nat.mod_lt a.toInt.natAbs hpos
  rw [abs18, sx] at hdv
  rw [tmod_signs]
  split <;> omega

/-- The signed sequence with a divisor (R337). -/
theorem signedDivision (st : Word18) (sat : Bool) {a b : Word18} {p : Word18 × Word18}
    (hp : p = divSteps (div0Core st false a b).2.2 b 18 ((div0Core st false a b).1, (div0Core st false a b).2.1)) (hb : b ≠ 0) :
    (divfCore (div0Core st false a b).2.2 sat p.1 p.2).1 =
        (if sat = true then BitVec.ofInt 18 (satI 18 (a.toInt.tdiv b.toInt)) else BitVec.ofInt 18 (a.toInt.tdiv b.toInt)) ∧
      (divfCore (div0Core st false a b).2.2 sat p.1 p.2).2.1.toInt = a.toInt.tmod b.toInt := by
  obtain ⟨hrem, hquo⟩ := signedSteps st hp
  obtain ⟨hqlo, hqhi⟩ := tdiv_word_range a b
  obtain ⟨hrlo, hrhi⟩ := tmod_word_range (a := a) hb
  have h10 : bit (div0Core st false a b).2.2 10 = false := (bit_div0Core ..).trans (decide_eq_false hb)
  have h11 : bit (div0Core st false a b).2.2 11 = false := bit_div0Core ..
  have hq : signedQuotient (div0Core st false a b).2.2 p.2 = a.toInt.tdiv b.toInt := by
    rw [signedQuotient, bit_div0Core, hquo hb, tdiv_signs, bit_sign, bit_sign]
    rfl
  have hr : (w18 (signedRemainder (div0Core st false a b).2.2 p.1)).toInt = a.toInt.tmod b.toInt := by
    have hsigned : signedRemainder (div0Core st false a b).2.2 p.1 = a.toInt.tmod b.toInt := by
      rw [signedRemainder, bit_div0Core, hrem, tmod_signs, bit_sign]
      simp
    rw [hsigned]
    exact toInt_ofInt_of_range (by decide) (by norm_num; omega) (by norm_num; omega)
  by_cases hfit : a.toInt.tdiv b.toInt ≤ 131071
  · rw [divfCore_fits sat p.1 p.2 h10 (.inr (hq ▸ hfit)), hq]
    refine ⟨?_, hr⟩
    have hsat : satI 18 (a.toInt.tdiv b.toInt) = a.toInt.tdiv b.toInt := by
      rw [satI_word, if_neg (by omega), if_neg (by omega)]
    rw [hsat, ite_self]
    rfl
  · have hmax : a.toInt.tdiv b.toInt = 131072 := by omega
    rw [divfCore_overflows sat p.1 p.2 h10 h11 (by omega), hmax]
    exact ⟨rfl, hr⟩

/-- The unsigned sequence with a divisor (R337). -/
theorem unsignedDivision (st : Word18) (sat : Bool) {a b : Word18} {p : Word18 × Word18}
    (hp : p = divSteps (div0Core st true a b).2.2 b 18 ((div0Core st true a b).1, (div0Core st true a b).2.1)) (hb : b ≠ 0) :
    (divfCore (div0Core st true a b).2.2 sat p.1 p.2).1.toNat = a.toNat / b.toNat ∧
      (divfCore (div0Core st true a b).2.2 sat p.1 p.2).2.1.toNat = a.toNat % b.toNat := by
  obtain ⟨hrem, hquo⟩ := unsignedSteps st hp
  have h8 : bit (div0Core st true a b).2.2 8 = false := bit_div0Core ..
  have h9 : bit (div0Core st true a b).2.2 9 = false := bit_div0Core ..
  have h10 : bit (div0Core st true a b).2.2 10 = false := (bit_div0Core ..).trans (decide_eq_false hb)
  have h11 : bit (div0Core st true a b).2.2 11 = true := bit_div0Core ..
  rw [divfCore_fits sat p.1 p.2 h10 (.inl h11), signedQuotient, signedRemainder, h8, h9, if_neg (by decide), if_neg (by decide), w18, w18,
    BitVec.ofInt_natCast, BitVec.ofInt_natCast, BitVec.ofNat_toNat, BitVec.ofNat_toNat, BitVec.setWidth_eq, BitVec.setWidth_eq]
  exact ⟨hquo hb, hrem⟩

/-- A division by zero gives all ones and the dividend (R338). -/
theorem divisionByZero (st : Word18) (uns sat : Bool) {a b : Word18} {p : Word18 × Word18}
    (hp : p = divSteps (div0Core st uns a b).2.2 b 18 ((div0Core st uns a b).1, (div0Core st uns a b).2.1)) (hb : b = 0) :
    (divfCore (div0Core st uns a b).2.2 sat p.1 p.2).1 = BitVec.allOnes 18 ∧ (divfCore (div0Core st uns a b).2.2 sat p.1 p.2).2.1 = a ∧
      bit (divfCore (div0Core st uns a b).2.2 sat p.1 p.2).2.2 3 = true := by
  have h10 : bit (div0Core st uns a b).2.2 10 = true := (bit_div0Core ..).trans (decide_eq_true hb)
  rw [divfCore_zero sat p.1 p.2 h10]
  refine ⟨rfl, ?_, by simp⟩
  cases uns with
  | true =>
    obtain ⟨hrem, -⟩ := unsignedSteps st hp
    have h9 : bit (div0Core st true a b).2.2 9 = false := bit_div0Core ..
    rw [hb, show (0 : Word18).toNat = 0 from rfl, Nat.mod_zero] at hrem
    rw [h9, if_neg (by decide)]
    exact BitVec.eq_of_toNat_eq hrem
  | false =>
    obtain ⟨hrem, -⟩ := signedSteps st hp
    have h9 : bit (div0Core st false a b).2.2 9 = decide (a.toInt < 0) := (bit_div0Core ..).trans (bit_sign a)
    have hzero : b.toInt.natAbs = 0 := abs18_eq_zero.2 hb
    rw [hzero, Nat.mod_zero] at hrem
    have hword : p.1 = BitVec.ofInt 18 (a.toInt.natAbs : Int) := by
      rw [BitVec.ofInt_natCast, ← hrem, BitVec.ofNat_toNat, BitVec.setWidth_eq]
    rw [h9, hword]
    split
    next h =>
      rw [← BitVec.ofInt_neg, show -(a.toInt.natAbs : Int) = a.toInt by simp only [decide_eq_true_eq] at h; omega, BitVec.ofInt_toInt]
    next h =>
      rw [show (a.toInt.natAbs : Int) = a.toInt by simp only [decide_eq_true_eq] at h; omega, BitVec.ofInt_toInt]

theorem divisionFollows_holds : DivisionFollows := by
  intro st sat a b sg un ps pu rs ru
  obtain ⟨hc, hsz⟩ := divfCore_flags sg.2.2 sat ps.1 ps.2
  obtain ⟨-, huz⟩ := divfCore_flags un.2.2 sat pu.1 pu.2
  refine ⟨fun hb => ?_, fun hb => ?_, hc, hsz, huz⟩
  · obtain ⟨hsq, hsr⟩ := signedDivision st sat (p := ps) rfl hb
    obtain ⟨huq, hur⟩ := unsignedDivision st sat (p := pu) rfl hb
    exact ⟨hsq, hsr, huq, hur⟩
  · obtain ⟨hsq, hsr, hsv⟩ := divisionByZero st false sat (p := ps) rfl hb
    obtain ⟨huq, hur, -⟩ := divisionByZero st true sat (p := pu) rfl hb
    exact ⟨hsq, huq, hsr, hur, hsv⟩

/-- Settles O37: the rows by the shapes of their instructions, and the sequence by the invariant of its steps. -/
theorem divisions : Obligations.Divisions := ⟨divRows_hold, divReserved_holds, divisionFollows_holds⟩

end Sys2Proof.Machine
end

section
/-!
PROOFS. O38: the control registers of an engine (R359).
-/

namespace Sys2Proof.Machine

open Sys2Proof.Claims

/-! ## Which numbers are listed -/

theorem mem_crListed {n : Nat} : n ∈ crListed ↔ n < 4 ∨ (8 ≤ n ∧ n < 14) ∨ (16 ≤ n ∧ n < 25) ∨ (32 ≤ n ∧ n < 44) := by
  have hmem : ∀ lo len : Nat, n ∈ (List.range len).map (lo + ·) ↔ lo ≤ n ∧ n < lo + len := fun lo len => by
    rw [List.mem_map]
    refine ⟨fun ⟨i, hi, h⟩ => ?_, fun h => ⟨n - lo, List.mem_range.2 (by omega), by omega⟩⟩
    have hlt := List.mem_range.1 hi
    omega
  simp only [crListed, List.mem_append, hmem, List.mem_cons, List.not_mem_nil, or_false]
  omega

theorem mem_crWritable {n : Nat} : n ∈ crWritable ↔ n = 0 ∨ (8 ≤ n ∧ n < 14) ∨ (16 ≤ n ∧ n < 25) ∨ (32 ≤ n ∧ n < 40) := by
  have hmem : ∀ lo len : Nat, n ∈ (List.range len).map (lo + ·) ↔ lo ≤ n ∧ n < lo + len := fun lo len => by
    rw [List.mem_map]
    refine ⟨fun ⟨i, hi, h⟩ => ?_, fun h => ⟨n - lo, List.mem_range.2 (by omega), by omega⟩⟩
    have hlt := List.mem_range.1 hi
    omega
  simp only [crWritable, List.mem_append, hmem, List.mem_cons, List.not_mem_nil, or_false]
  omega

/-- A number that is not listed reads nothing. -/
theorem crRead_unlisted (s : State) (e : Fin 512) (t : Fin 4) (i : Nat) {n : Nat} (h : n ∉ crListed) : crRead s e t i n = none := by
  rw [mem_crListed] at h
  have hloop : ¬ (0o020 ≤ n ∧ n < 0o031) := by omega
  have hstep : ¬ (0o040 ≤ n ∧ n < 0o044) := by omega
  have hlength : ¬ (0o044 ≤ n ∧ n < 0o050) := by omega
  unfold crRead
  dsimp only
  split
  case h_15 => rw [if_neg hloop, if_neg hstep, if_neg hlength]
  all_goals omega

/-- A number that MTC does not write. -/
theorem crWrite_unlisted (th : NgThread) (v : Word18) {n : Nat} (h : n ∉ crWritable) : crWrite th n v = none := by
  rw [mem_crWritable] at h
  have hloop : ¬ (0o020 ≤ n ∧ n < 0o031) := by omega
  have hstep : ¬ (0o040 ≤ n ∧ n < 0o044) := by omega
  have hlength : ¬ (0o044 ≤ n ∧ n < 0o050) := by omega
  unfold crWrite
  split
  case h_8 => rw [if_neg hloop, if_neg hstep, if_neg hlength]
  all_goals omega

/-- A rounding mode of 0b11 is no value of ST. -/
theorem crWrite_badMode (th : NgThread) {v : Word18} (h : fld v 5 2 = 3) : crWrite th 0 v = none := if_pos h

/-- A START or END is even. -/
theorem crWrite_oddLoop (th : NgThread) {v : Word18} {n : Nat} (hlo : 0o020 ≤ n) (hhi : n < 0o031) (h3 : n % 3 ≠ 0) (hv : bit v 0 = true) :
    crWrite th n v = none := by
  unfold crWrite
  split
  case h_8 =>
    rw [if_pos ⟨hlo, hhi⟩]
    exact (if_neg (by omega)).trans (if_pos hv)
  all_goals omega

/-! ## The rows -/

section

variable {s u : State} {e : Fin 512} {t : Fin 4} {slots : Nat} {body : State → Nat → NgRes} {c : Instr}

/-- A command whose body completes, after which the thread goes on. -/
theorem exec_seq (op : State → Result) (h : Ready s e t) (hc : exec c s = op s) (hop : op = ngInstr e t slots false false body)
    (hb : body (checked s e t) (nextSlot s e t) = .ok u .seq) : exec c s = .next (seqDone s u e t slots) := by
  rw [hc, hop, ngInstr_ready h, hb]
  rfl

/-- A command whose body faults. -/
theorem exec_fault {code : Nat} (op : State → Result) (h : Ready s e t) (hc : exec c s = op s)
    (hop : op = ngInstr e t slots false false body) (hb : body (checked s e t) (nextSlot s e t) = .fault code) :
    exec c s = .next (ngFault (atSlot s e t) e t (nextSlot s e t) code) := by
  rw [hc, hop, ngInstr_ready h, hb]
  rfl

end

theorem mfcRow_holds : MfcRow := by
  intro s e t d cr v h hv
  exact exec_seq (execNgMfc e t d cr) h rfl rfl (by dsimp only; rw [hv])

theorem mfcReserved_holds : MfcReserved := by
  intro s e t d cr h hcr
  exact exec_fault (execNgMfc e t d cr) h rfl rfl (by dsimp only; rw [crRead_unlisted _ _ _ _ hcr])

theorem mtcRow_holds : MtcRow := by
  intro s e t a cr th h hth
  rw [bodyThr] at hth
  exact exec_seq (execNgMtc e t a cr) h rfl rfl (by rw [hth]; rfl)

theorem mtcRefused_holds : MtcRefused := by
  intro s e t a cr h hbad
  have hnone : crWrite (bodyThr s e t) cr (ngReg (bodyThr s e t) a) = none := by
    rcases hbad with hcr | ⟨hcr, hmode⟩ | ⟨hlo, hhi, h3, hodd⟩
    · exact crWrite_unlisted _ _ hcr
    · rw [hcr]
      exact crWrite_badMode _ hmode
    · exact crWrite_oddLoop _ hlo hhi h3 hodd
  rw [bodyThr] at hnone
  exact exec_fault (execNgMtc e t a cr) h rfl rfl (by rw [hnone])

/-! ## What is read (R359) -/

theorem truncate_word (x : BitVec 44) (k : Nat) : (x >>> k).truncate 18 = BitVec.ofNat 18 (x.toNat / 2 ^ k) := by
  refine BitVec.eq_of_toNat_eq ?_
  simp [BitVec.toNat_setWidth, Nat.shiftRight_eq_div_pow]

/-- The high byte of an accumulator reads sign-extended. -/
theorem high_byte (x : BitVec 44) : BitVec.ofInt 18 (x.toInt / (2 : Int) ^ 36) = (x.extractLsb' 36 8).signExtend 18 := by
  have hlt := x.isLt
  have hint : (x.extractLsb' 36 8).toInt = x.toInt / (2 : Int) ^ 36 := by
    rw [BitVec.toInt_eq_toNat_cond, BitVec.toInt_eq_toNat_cond, BitVec.extractLsb'_toNat, Nat.shiftRight_eq_div_pow]
    split <;> split <;> omega
  rw [BitVec.signExtend, hint]

theorem crRead_loops (s : State) (e : Fin 512) (t : Fin 4) (i : Nat) (j : Fin 3) :
    crRead s e t i (0o020 + 3 * j.val) = some (SMap.get 0 (thr s e t).lpS j) ∧
      crRead s e t i (0o021 + 3 * j.val) = some (SMap.get 0 (thr s e t).lpE j) ∧
      crRead s e t i (0o022 + 3 * j.val) = some (SMap.get 0 (thr s e t).lpC j) := by
  fin_cases j <;> exact ⟨rfl, rfl, rfl⟩

theorem crRead_circular (s : State) (e : Fin 512) (t : Fin 4) (i : Nat) (k : Fin 4) :
    crRead s e t i (0o040 + k.val) = some (SMap.get 0 (thr s e t).m k) ∧ crRead s e t i (0o044 + k.val) = some (SMap.get 0 (thr s e t).l k) := by
  fin_cases k <;> exact ⟨rfl, rfl⟩

theorem crTable_holds : CrTable := by
  intro s e t i k j th
  obtain ⟨hstart, hend, hcount⟩ := crRead_loops s e t i j
  obtain ⟨hm, hl⟩ := crRead_circular s e t i k
  have hid : t.val + e.val % 16 * 2 ^ 2 + e.val / 16 * 2 ^ 6 = t.val + 4 * (e.val % 16) + 64 * (e.val / 16) := by omega
  have hlat : ∀ lo, latWord th.tlat lo = BitVec.ofNat 18 (th.tlat.toNat / 2 ^ lo) := fun _ => rfl
  refine ⟨rfl, rfl, congrArg (fun x => some (BitVec.ofNat 18 x)) hid, rfl, ?_, congrArg some (truncate_word _ 18), congrArg some (high_byte _), ?_,
    congrArg some (truncate_word _ 18), congrArg some (high_byte _), hstart, hend, hcount, hm, hl, rfl, ?_, rfl, rfl⟩
  · exact congrArg some (BitVec.ofNat_toNat ..).symm
  · exact congrArg some (BitVec.ofNat_toNat ..).symm
  · exact congrArg some (by rw [hlat, pow_zero, Nat.div_one])

/-! ## What is written (R359) -/

/-- The three parts of an accumulator, written. -/
theorem toNat_accSet (x : BitVec 44) (v : Word18) :
    (accSet x 0 v).toNat = x.toNat / 2 ^ 18 * 2 ^ 18 + v.toNat ∧
      (accSet x 1 v).toNat = x.toNat / 2 ^ 36 * 2 ^ 36 + v.toNat * 2 ^ 18 + x.toNat % 2 ^ 18 ∧
      (accSet x 2 v).toNat = v.toNat % 256 * 2 ^ 36 + x.toNat % 2 ^ 36 := by
  have hx := x.isLt
  have hv := v.isLt
  refine ⟨?_, ?_, ?_⟩
  · have hlow := fld_setFld_same x v.toNat (show 0 + 18 ≤ 44 by decide)
    have hhigh := fld_setFld_apart x v.toNat (show 18 + 26 ≤ 0 ∨ 0 + 18 ≤ 18 by decide)
    have hy := (setFld x 0 18 v.toNat).isLt
    change (setFld x 0 18 v.toNat).toNat = _
    simp only [fld] at hlow hhigh
    omega
  · have hlow := fld_setFld_apart x v.toNat (show 0 + 18 ≤ 18 ∨ 18 + 18 ≤ 0 by decide)
    have hmid := fld_setFld_same x v.toNat (show 18 + 18 ≤ 44 by decide)
    have hhigh := fld_setFld_apart x v.toNat (show 36 + 8 ≤ 18 ∨ 18 + 18 ≤ 36 by decide)
    have hy := (setFld x 18 18 v.toNat).isLt
    change (setFld x 18 18 v.toNat).toNat = _
    simp only [fld] at hlow hmid hhigh
    omega
  · have hlow := fld_setFld_apart x v.toNat (show 0 + 36 ≤ 36 ∨ 36 + 8 ≤ 0 by decide)
    have hhigh := fld_setFld_same x v.toNat (show 36 + 8 ≤ 44 by decide)
    have hy := (setFld x 36 8 v.toNat).isLt
    change (setFld x 36 8 v.toNat).toNat = _
    simp only [fld] at hlow hhigh
    omega

theorem crWrite_loops (th : NgThread) (v : Word18) (j : Fin 3) :
    (bit v 0 = false → crWrite th (0o020 + 3 * j.val) v = some { th with lpS := SMap.set 0 th.lpS j v } ∧
      crWrite th (0o021 + 3 * j.val) v = some { th with lpE := SMap.set 0 th.lpE j v }) ∧
    crWrite th (0o022 + 3 * j.val) v = some { th with lpC := SMap.set 0 th.lpC j v } := by
  have heven : bit v 0 = false → ∀ x : Option NgThread, (if bit v 0 = true then none else x) = x := fun h x => if_neg (by simp [h])
  fin_cases j <;> exact ⟨fun h => ⟨heven h _, heven h _⟩, rfl⟩

theorem crWrite_circular (th : NgThread) (v : Word18) (k : Fin 4) :
    crWrite th (0o040 + k.val) v = some { th with m := SMap.set 0 th.m k v } ∧
      crWrite th (0o044 + k.val) v = some { th with l := SMap.set 0 th.l k v } := by
  fin_cases k <;> exact ⟨rfl, rfl⟩

theorem crSets_holds : CrSets := by
  intro th v k j
  obtain ⟨h0, h1, h2⟩ := toNat_accSet th.acc0 v
  obtain ⟨h3, h4, h5⟩ := toNat_accSet th.acc1 v
  obtain ⟨hloop, hcount⟩ := crWrite_loops th v j
  obtain ⟨hm, hl⟩ := crWrite_circular th v k
  exact ⟨fun h => if_neg h, ⟨_, rfl, h0⟩, ⟨_, rfl, h1⟩, ⟨_, rfl, h2⟩, ⟨_, rfl, h3⟩, ⟨_, rfl, h4⟩, ⟨_, rfl, h5⟩, hloop, hcount, hm, hl⟩

/-- Settles O38: the rows by what their operations answer, and each register by the table. -/
theorem controlRegisters : Obligations.ControlRegisters :=
  ⟨mfcRow_holds, mfcReserved_holds, mtcRow_holds, mtcRefused_holds, crTable_holds, crSets_holds⟩

end Sys2Proof.Machine
end

section
/-!
PROOFS. O39: branches, jumps and loops of an engine. It fails where it speaks of NG_UNALLOCATED (R325): the command with the words of an
encoding that R326 lists does nothing, and the clauses on bad fetch addresses, uncorrectable quads and annulled slots name every encoding.
-/

namespace Sys2Proof.Machine

open Sys2Proof.Claims

/-- Thread 3 of engine 511 runs at an address that cannot be fetched from. -/
def badFetchState : State := { sage := { phase := .done }, engines := [(511, { thr := [(3, { st := 1, pc := 0o070000 })] })] }

/-- The words of ADD n0, n0, n0, which R326 lists. -/
def listedWords : BitVec 36 := 0x40000000

/-- The fault that the thread shows after a command. -/
def faultAfter : Result → Nat
  | .next u => (thr u 511 3).fault
  | _ => 0

/-- The model leaves the thread as it is: NG_UNALLOCATED with a listed encoding is no command of R325. -/
theorem faultAfter_listedWords : faultAfter (exec (.ngUnallocated 511 3 listedWords) badFetchState) = 0 := by decide +kernel

/-- FETCH is not raised for every encoding. -/
theorem not_badFetch : ¬ BadFetch := by
  intro h
  obtain ⟨-, -, hfetch⟩ := h badFetchState 511 3 false 0 0 0 listedWords (by decide +kernel) (by decide +kernel) (by decide +kernel)
  have hfault := congrArg faultAfter hfetch
  rw [faultAfter_listedWords] at hfault
  exact absurd hfault (by decide +kernel)

/-- Refutes O39: at an odd address or beyond 0o067777 NG_UNALLOCATED with the words of an ADD leaves the thread's fault 0, not FETCH. -/
theorem not_branches : ¬ Obligations.Branches := by
  unfold Obligations.Branches
  rintro ⟨-, -, -, -, -, -, -, hfetch, -, -, -⟩
  exact not_badFetch hfetch

end Sys2Proof.Machine
end

section
/-!
PROOFS. O40: HALT, WAIT, RETE, SIG, CLRE, EDI, EEI, POPR and the feeds of an engine (R346, R350, R360, R393, R421).
-/

namespace Sys2Proof.Machine

open Sys2Proof.Claims

section

variable {s : State} {e : Fin 512} {t : Fin 4} {slots : Nat} {body : State → Nat → NgRes} {c : Instr} {r : NgRes}

/-- A control transfer that is not trapped does what its body answers. -/
theorem exec_ct (op : State → Result) (h : ReadyCt s e t) (hc : exec c s = op s) (hop : op = ngInstr e t slots true false body)
    (hb : body (checked s e t) (nextSlot s e t) = r) : exec c s = .next (ngOutcome s e t slots r) := by
  rw [hc, hop, ngInstr_readyCt h, hb]

end

/-! ## HALT, WAIT and RETE (R360, R393) -/

/-- What changes an engine is looked at for that engine only. -/
theorem updEng_congr {s : State} {e : Fin 512} {f g : NgEngine → NgEngine} (h : f (eng s e) = g (eng s e)) : updEng s e f = updEng s e g :=
  congrArg (fun x => { s with engines := SMap.set {} s.engines e x }) h

/-- What changes a thread is looked at for that thread only. -/
theorem updThr_congr {s : State} {e : Fin 512} {t : Fin 4} {f g : NgThread → NgThread} (h : f (thr s e t) = g (thr s e t)) :
    updThr s e t f = updThr s e t g :=
  updEng_congr (congrArg (fun x => { eng s e with thr := SMap.set {} (eng s e).thr t x }) h)

theorem haltRow_holds : HaltRow := by
  intro s e t h
  have hrun := exec_ct (c := .ngHalt e t) (execNgHalt e t) h rfl rfl rfl
  exact hrun

theorem waitRow_holds : WaitRow := by
  intro s e t h
  have hrun := exec_ct (c := .ngWait e t) (execNgWait e t) h rfl rfl rfl
  simp only [ngOutcome, one_mul] at hrun
  exact hrun

theorem reteRow_holds : ReteRow := by
  intro s e t h hactive
  have hrun := exec_ct (c := .ngRete e t) (execNgRete e t) h rfl rfl (r := .ok (updThr (checked s e t) e t fun th =>
    { th with rete := some (topActive th.active), reteAt := nextSlot s e t + 2 }) .ret) (if_neg hactive)
  rw [updThr_congr (g := fun th => { th with rete := some (topActive (bodyThr s e t).active), reteAt := nextSlot s e t + 2 }) rfl] at hrun
  exact hrun

theorem reteNone_holds : ReteNone := by
  intro s e t h hactive
  have hrun := exec_ct (c := .ngRete e t) (execNgRete e t) h rfl rfl (r := .ok (checked s e t) .seq) (if_pos hactive)
  exact hrun

theorem reteRestores_holds : ReteRestores := by
  intro th q hq u
  have hu : u = stWritten { th with active := dropLevel th.active q, level := topActive (dropLevel th.active q), pc := SMap.get 0 th.spc q,
                                    sw := SMap.get 0 th.sst q &&& 0o177777, rete := none } th.reteAt := by
    simp only [u, reteRestore, hq]
  rw [hu]
  exact ⟨rfl, rfl, rfl, rfl, rfl, rfl, rfl, rfl, rfl⟩

/-! ## Event sources and enables (R360, R386) -/

theorem sigRow_holds : SigRow := by
  intro s e t g src h hsrc
  have hop : execNgSig e t g src = ngInstr e t 1 false false fun s i =>
      .ok (setSource s (Fin.ofNat 512 (e.val / 16 * 16 + g.val)) src (i + 2)) .seq := by
    rw [execNgSig, decide_eq_false (by omega)]
  exact exec_seq _ h rfl hop rfl

theorem clreRow_holds : ClreRow := by
  intro s e t src h hsrc
  have hop : execNgClre e t src = ngInstr e t 1 false false fun s i => .ok (clearSource s e src (i + 2)) .seq := by
    rw [execNgClre, decide_eq_false (by omega)]
  exact exec_seq _ h rfl hop rfl

theorem sigReserved_holds : SigReserved := by
  intro s e t g src h
  exact ⟨fun hsrc => exec_rsvd (execNgSig e t g src) h (decide_eq_true hsrc) rfl rfl,
    fun hsrc => exec_rsvd (execNgClre e t src) h (decide_eq_true hsrc) rfl rfl⟩

theorem ediEei_holds : EdiEei := by
  intro s e t d h
  have hedi := exec_thrOpAt (c := .ngEdi e t d) (k := fun th i => ngWrite { th with en := false } (i + 3) d (if th.en then 1 else 0) false) h rfl
  exact ⟨hedi, exec_thrOp h rfl⟩

/-! ## POPR (R346, R347) -/

theorem poprRow_holds : PoprRow := by
  intro s e t d r rest h hrq hready htick u
  refine exec_seq (execNgPopr e t d) h rfl rfl ?_
  dsimp only
  rw [← bodyThr, hrq]
  exact if_pos ⟨hready, htick⟩

theorem poprEmpty_holds : PoprEmpty := by
  intro s e t d h hhead
  refine exec_fault (execNgPopr e t d) h rfl rfl ?_
  dsimp only
  rw [← bodyThr]
  rw [headReady] at hhead
  cases hrq : (bodyThr s e t).rq with
  | nil => rfl
  | cons r rest =>
    rw [hrq] at hhead
    exact if_neg fun ⟨hready, htick⟩ => by simp [hready, htick] at hhead

/-! ## Feeds (R350, R421) -/

/-- A feed that is not reserved reaches the unit in its last slot. -/
theorem exec_feed {s : State} {e : Fin 512} {t : Fin 4} {c : Instr} {slots n w : Nat} {a : Fin 16} (op : State → Result) (h : Ready s e t)
    (hc : exec c s = op s) (hop : op = ngFeed e t slots false a n) (hw : (slots - 1) * slotPeriod (checked s e t) e + 2 = w) :
    exec c s = .next (seqDone s (updEng (checked s e t) e fun g => { g with cv := { g.cv with
      feeds := g.cv.feeds ++ [(nextSlot s e t + w, n, (ngReg (bodyThr s e t) a).toNat % 2 ^ n)] } }) e t slots) := by
  subst hw hop
  refine exec_seq (ngFeed e t slots false a n) h hc rfl ?_
  dsimp only
  rw [Nat.add_assoc]
  rfl

theorem feedRows_hold : FeedRows := by
  intro s e t a n h hn x feed
  have hbits : execNgFbits e t a n = ngFeed e t 1 false a n := by rw [execNgFbits, decide_eq_false (by omega)]
  refine ⟨exec_feed (execNgFbyte e t a) h rfl rfl ?_, exec_feed (execNgFbits e t a n) h rfl hbits ?_,
    exec_feed (execNgFhalf e t a) h rfl rfl ?_, exec_feed (execNgFword e t a) h rfl rfl ?_⟩ <;> omega

theorem fbitsReserved_holds : FbitsReserved := by
  intro s e t a n h hn
  exact exec_rsvd (execNgFbits e t a n) h (decide_eq_true hn) rfl (by rw [execNgFbits, ngFeed])

theorem feedBit_holds : FeedBit := by
  intro w poly val b hw hval hpoly
  have htop : val.testBit (w - 1) = decide (2 ^ (w - 1) ≤ val) := by
    have hpow : 2 ^ w = 2 ^ (w - 1) * 2 := by rw [← pow_succ]; congr 1; omega
    have hdiv : val / 2 ^ (w - 1) = if 2 ^ (w - 1) ≤ val then 1 else 0 := by
      split
      next h => exact Nat.div_eq_of_lt_le (by omega) (by omega)
      next h => exact Nat.div_eq_of_lt (by omega)
    rw [Nat.testBit_eq_decide_div_mod_eq, hdiv]
    split
    next h => rw [decide_eq_true h]; rfl
    next h => rw [decide_eq_false h]; rfl
  unfold cvBit
  dsimp only
  rw [htop, Nat.mod_eq_of_lt hpoly, mul_comm val]
  cases b <;> cases decide (2 ^ (w - 1) ≤ val) <;> rfl

theorem feedOrder_holds : FeedOrder := by
  intro c tick l r hfeeds hl hr
  have hsplit : c.feeds.takeWhile (fun f => decide (f.1 ≤ tick)) = l ∧ c.feeds.dropWhile (fun f => decide (f.1 ≤ tick)) = r := by
    rw [List.all_eq_true] at hl
    rw [hfeeds, List.takeWhile_append_of_pos hl, List.dropWhile_append_of_pos hl]
    cases r with
    | nil => exact ⟨List.append_nil l, rfl⟩
    | cons f r =>
      have hf : ¬ decide (f.1 ≤ tick) = true := by simpa using hr
      exact ⟨by rw [List.takeWhile_cons_of_neg (by exact hf), List.append_nil], List.dropWhile_cons_of_neg (by exact hf)⟩
  rw [cvSettle, hsplit.1, hsplit.2]

/-- Settles O40: each instruction by what its operation answers. -/
theorem systemAndEvents : Obligations.SystemAndEvents :=
  ⟨haltRow_holds, waitRow_holds, reteRow_holds, reteRestores_holds, reteNone_holds, sigRow_holds, clreRow_holds, sigReserved_holds,
    ediEei_holds, poprRow_holds, poprEmpty_holds, feedRows_hold, fbitsReserved_holds, feedBit_holds, feedOrder_holds⟩

end Sys2Proof.Machine
end

section
/-!
PROOFS. Addressed instructions of an engine (R339): the effective address, the base update, and the faults before them.
-/

namespace Sys2Proof.Machine

open Sys2Proof.Claims

variable {s u : State} {e : Fin 512} {t : Fin 4} {slots : Nat} {rsvd : Bool} {mode : Fin 6} {a : Fin 16} {imm : Word18}
  {body : State → Nat → Nat → NgRes} {c : Instr} {op : State → Result}

/-- A reserved form, or a broken constraint of the mode, faults with RSVD. -/
theorem exec_addr_rsvd (op : State → Result) (h : Ready s e t) (hr : (rsvd || modeRsvd mode a imm) = true) (hc : exec c s = op s)
    (hop : op = ngAddr e t slots rsvd mode a imm body) : exec c s = .next (ngFault (atSlot s e t) e t (nextSlot s e t) 2) := by
  rw [hc, hop, ngAddr, hr, ngInstr_rsvd h]

/-- An addressed instruction does what its body answers at the effective address. -/
theorem exec_addr (op : State → Result) (h : Ready s e t) (hr : rsvd = false) (hm : modeRsvd mode a imm = false) (hc : exec c s = op s)
    (hop : op = ngAddr e t slots rsvd mode a imm body) :
    exec c s = .next (ngOutcome s e t slots (match body (checked s e t) (nextSlot s e t) (eaOf s e t mode a imm) with
      | .ok u n => .ok (based s u e t mode a imm) n
      | r => r)) := by
  rw [hc, hop, ngAddr, hr, hm, Bool.or_false, ngInstr_ready h]
  rfl

/-- One that completes, after which the thread goes on. -/
theorem exec_addr_ok (op : State → Result) (h : Ready s e t) (hr : rsvd = false) (hm : modeRsvd mode a imm = false) (hc : exec c s = op s)
    (hop : op = ngAddr e t slots rsvd mode a imm body)
    (hb : body (checked s e t) (nextSlot s e t) (eaOf s e t mode a imm) = .ok u .seq) :
    exec c s = .next (memDone s u e t mode a imm slots) := by
  rw [exec_addr op h hr hm hc hop, hb]
  rfl

/-- One whose body faults: no base is updated. -/
theorem exec_addr_fault {code : Nat} (op : State → Result) (h : Ready s e t) (hr : rsvd = false) (hm : modeRsvd mode a imm = false)
    (hc : exec c s = op s) (hop : op = ngAddr e t slots rsvd mode a imm body)
    (hb : body (checked s e t) (nextSlot s e t) (eaOf s e t mode a imm) = .fault code) :
    exec c s = .next (ngFault (atSlot s e t) e t (nextSlot s e t) code) := by
  rw [exec_addr op h hr hm hc hop, hb]
  rfl

/-- One that an uncorrectable word stops. -/
theorem exec_addr_stopped (op : State → Result) (h : Ready s e t) (hr : rsvd = false) (hm : modeRsvd mode a imm = false)
    (hc : exec c s = op s) (hop : op = ngAddr e t slots rsvd mode a imm body)
    (hb : body (checked s e t) (nextSlot s e t) (eaOf s e t mode a imm) = .stopped u) :
    exec c s = .next (updThr u e t fun th => { th with lpC := (slotThr s e t).lpC, sw := (slotThr s e t).sw }) := by
  rw [exec_addr op h hr hm hc hop, hb]
  rfl

end Sys2Proof.Machine
end

section
/-!
PROOFS. O41: loads and stores of local memory and of the control words (R339 to R344, R385).
-/

namespace Sys2Proof.Machine

open Sys2Proof.Claims

section

variable {s u : State} {e : Fin 512} {t : Fin 4} {n : Nat} {d : Fin 16} {mode : Fin 6} {a : Fin 16} {imm : Word18} {ecc : Fin 3} {c : Instr}

/-! ## Loads and stores of n words -/

/-- A d that is in step with the words is not reserved. -/
theorem inStep (h : d.val % n = 0) : decide (d.val % n ≠ 0) = false := decide_eq_false (not_not.2 h)

theorem exec_load_local (h : Ready s e t) (hm : modeRsvd mode a imm = false) (hc : exec c s = ngLoad e t n d mode a imm ecc s)
    (hd : d.val % n = 0) (hal : eaOf s e t mode a imm % n = 0) (hea : eaOf s e t mode a imm < 0o100000)
    (hf : lmFinding (checked s e t) e (eaOf s e t mode a imm) n ecc = (u, true)) :
    exec c s = .next (memDone s (loading s u e t d (eaOf s e t mode a imm) n) e t mode a imm 2) := by
  refine exec_addr_ok (ngLoad e t n d mode a imm ecc) h (inStep hd) hm hc rfl ?_
  dsimp only
  rw [if_neg (not_not.2 hal), if_pos hea, hf]
  rfl

theorem exec_load_stopped (h : Ready s e t) (hm : modeRsvd mode a imm = false) (hc : exec c s = ngLoad e t n d mode a imm ecc s)
    (hd : d.val % n = 0) (hal : eaOf s e t mode a imm % n = 0) (hea : eaOf s e t mode a imm < 0o100000)
    (hf : lmFinding (checked s e t) e (eaOf s e t mode a imm) n ecc = (u, false)) :
    exec c s = .next (updThr u e t fun th => { th with lpC := (slotThr s e t).lpC, sw := (slotThr s e t).sw }) := by
  refine exec_addr_stopped (ngLoad e t n d mode a imm ecc) h (inStep hd) hm hc rfl ?_
  dsimp only
  rw [if_neg (not_not.2 hal), if_pos hea, hf]
  rfl

theorem exec_store_local (h : Ready s e t) (hm : modeRsvd mode a imm = false) (hc : exec c s = ngStore e t n d mode a imm s)
    (hd : d.val % n = 0) (hal : eaOf s e t mode a imm % n = 0) (hea : eaOf s e t mode a imm < 0o100000) :
    exec c s = .next (memDone s (storing s e t d (eaOf s e t mode a imm) n) e t mode a imm 2) := by
  refine exec_addr_ok (ngStore e t n d mode a imm) h (inStep hd) hm hc rfl ?_
  dsimp only
  rw [if_neg (not_not.2 hal), if_pos hea]
  rfl

/-- An address that is out of step faults with ALIGN. -/
theorem exec_load_align (h : Ready s e t) (hm : modeRsvd mode a imm = false) (hc : exec c s = ngLoad e t n d mode a imm ecc s)
    (hd : d.val % n = 0) (hal : eaOf s e t mode a imm % n ≠ 0) :
    exec c s = .next (ngFault (atSlot s e t) e t (nextSlot s e t) 5) :=
  exec_addr_fault (ngLoad e t n d mode a imm ecc) h (inStep hd) hm hc rfl (if_pos hal)

theorem exec_store_align (h : Ready s e t) (hm : modeRsvd mode a imm = false) (hc : exec c s = ngStore e t n d mode a imm s)
    (hd : d.val % n = 0) (hal : eaOf s e t mode a imm % n ≠ 0) :
    exec c s = .next (ngFault (atSlot s e t) e t (nextSlot s e t) 5) :=
  exec_addr_fault (ngStore e t n d mode a imm) h (inStep hd) hm hc rfl (if_pos hal)

/-- An address outside the ranges of R341 faults with ADDR; pairs and quads reach no control word. -/
theorem exec_load_addr (h : Ready s e t) (hm : modeRsvd mode a imm = false) (hc : exec c s = ngLoad e t n d mode a imm ecc s)
    (hd : d.val % n = 0) (hal : eaOf s e t mode a imm % n = 0) (hea : 0o100000 ≤ eaOf s e t mode a imm)
    (hctl : ¬ (n = 1 ∧ 0o110000 ≤ eaOf s e t mode a imm ∧ eaOf s e t mode a imm < 0o115000)) :
    exec c s = .next (ngFault (atSlot s e t) e t (nextSlot s e t) 4) := by
  refine exec_addr_fault (ngLoad e t n d mode a imm ecc) h (inStep hd) hm hc rfl ?_
  dsimp only
  rw [if_neg (not_not.2 hal), if_neg (by omega), if_neg hctl]

theorem exec_store_addr (h : Ready s e t) (hm : modeRsvd mode a imm = false) (hc : exec c s = ngStore e t n d mode a imm s)
    (hd : d.val % n = 0) (hal : eaOf s e t mode a imm % n = 0) (hea : 0o100000 ≤ eaOf s e t mode a imm)
    (hctl : ¬ (n = 1 ∧ 0o110000 ≤ eaOf s e t mode a imm ∧ eaOf s e t mode a imm < 0o115000)) :
    exec c s = .next (ngFault (atSlot s e t) e t (nextSlot s e t) 4) := by
  refine exec_addr_fault (ngStore e t n d mode a imm) h (inStep hd) hm hc rfl ?_
  dsimp only
  rw [if_neg (not_not.2 hal), if_neg (by omega), if_neg hctl]

/-- A reserved load or store. -/
theorem exec_load_rsvd (h : Ready s e t) (hr : d.val % n ≠ 0 ∨ modeRsvd mode a imm = true) (hc : exec c s = ngLoad e t n d mode a imm ecc s) :
    exec c s = .next (ngFault (atSlot s e t) e t (nextSlot s e t) 2) :=
  exec_addr_rsvd (ngLoad e t n d mode a imm ecc) h (by simpa using hr) hc rfl

theorem exec_store_rsvd (h : Ready s e t) (hr : d.val % n ≠ 0 ∨ modeRsvd mode a imm = true) (hc : exec c s = ngStore e t n d mode a imm s) :
    exec c s = .next (ngFault (atSlot s e t) e t (nextSlot s e t) 2) :=
  exec_addr_rsvd (ngStore e t n d mode a imm) h (by simpa using hr) hc rfl

end

/-! ## The rows -/

theorem ldRow_holds : LdRow := fun _ _ _ _ _ _ _ _ _ h hm hea hf => exec_load_local h hm rfl (Nat.mod_one _) (Nat.mod_one _) hea hf

theorem lddRow_holds : LddRow := fun _ _ _ _ _ _ _ _ _ h hm hd hal hea hf => exec_load_local h hm rfl hd hal hea hf

theorem ldqRow_holds : LdqRow := fun _ _ _ _ _ _ _ _ _ h hm hd hal hea hf => exec_load_local h hm rfl hd hal hea hf

theorem stRow_holds : StRow := fun _ _ _ _ _ _ _ h hm hea => exec_store_local h hm rfl (Nat.mod_one _) (Nat.mod_one _) hea

theorem stdRow_holds : StdRow := fun _ _ _ _ _ _ _ h hm hd hal hea => exec_store_local h hm rfl hd hal hea

theorem stqRow_holds : StqRow := fun _ _ _ _ _ _ _ h hm hd hal hea => exec_store_local h hm rfl hd hal hea

theorem ldStopped_holds : LdStopped := fun _ _ _ _ _ _ _ _ _ h hm hea hf =>
  exec_load_stopped h hm rfl (Nat.mod_one _) (Nat.mod_one _) hea hf

theorem ite_decide_and {α : Type} (p : Prop) [Decidable p] (b : Bool) (x y : α) :
    (if (decide p && b) = true then x else y) = if p ∧ b = true then x else y :=
  if_congr (by rw [Bool.and_eq_true, decide_eq_true_iff]) rfl rfl

/-- The write on its way of a load of a control word. -/
theorem ctlLoad_eq (th : NgThread) (due : Nat) (d : Fin 16) (ea j : Nat) (v : Word18) : ctlLoad th due d ea j v =
    { th with pend := th.pend ++ [{ due := due, reg := d.val, val := v, load := true
                                    ev := if 0o111000 ≤ ea ∧ tellsPending (ea - 0o111000) = true then some (ea - 0o111000, j) else none }] } := by
  unfold ctlLoad
  dsimp only
  rw [Nat.mod_eq_of_lt d.isLt, ite_decide_and]

/-- A load of a control word: its word comes at the load distance. -/
theorem exec_load_control {s : State} {e : Fin 512} {t : Fin 4} {d : Fin 16} {mode : Fin 6} {a : Fin 16} {imm : Word18} (ecc : Fin 3)
    (h : Ready s e t) (hm : modeRsvd mode a imm = false) (hea : 0o110000 ≤ eaOf s e t mode a imm ∧ eaOf s e t mode a imm < 0o115000) :
    exec (.ngLd e t d mode a imm ecc) s = .next (memDone s (updThr (ctlRead (checked s e t) e (eaOf s e t mode a imm) (nextSlot s e t + 2)).1 e t
      fun th => ctlLoad th (loadDue (checked s e t) e (nextSlot s e t)) d (eaOf s e t mode a imm) (nextSlot s e t + 1)
        (ctlRead (checked s e t) e (eaOf s e t mode a imm) (nextSlot s e t + 2)).2) e t mode a imm 2) := by
  refine exec_addr_ok (ngLoad e t 1 d mode a imm ecc) h (inStep (Nat.mod_one _)) hm rfl rfl ?_
  dsimp only
  rw [if_neg (not_not.2 (Nat.mod_one _)), if_neg (by omega), if_pos ⟨rfl, hea⟩]

theorem ldControl_holds : LdControl := by
  intro s e t d mode a imm ecc h hm hea
  rw [exec_load_control ecc h hm hea]
  simp only [ctlLoad_eq]

theorem stControl_holds : StControl := by
  intro s e t d mode a imm h hm hea
  refine exec_addr_ok (ngStore e t 1 d mode a imm) h (inStep (Nat.mod_one _)) hm rfl rfl ?_
  dsimp only
  rw [if_neg (not_not.2 (Nat.mod_one _)), if_neg (by omega), if_pos ⟨rfl, hea⟩]
  rfl

theorem memTraps_hold : MemTraps := by
  intro s e t d mode a imm ecc h rs al ad ea
  refine ⟨fun hm => ⟨?_, ?_, ?_, ?_, ?_, ?_, ?_, ?_⟩, fun hd => ⟨?_, ?_⟩, fun hd => ⟨?_, ?_⟩, fun hm hd => ⟨fun hal => ⟨?_, ?_⟩, fun hal => ⟨?_, ?_⟩⟩,
    fun hm hea => ⟨?_, ?_⟩, fun hm hd hea hal => ⟨?_, ?_, ?_, ?_⟩⟩
  · exact exec_load_rsvd (n := 1) h (.inr hm) rfl
  · exact exec_store_rsvd (n := 1) h (.inr hm) rfl
  · exact exec_addr_rsvd (rsvd := false) (ngClaim e t false d mode a imm) h hm rfl rfl
  · exact exec_addr_rsvd (rsvd := false) (ngClaim e t true d mode a imm) h hm rfl rfl
  · exact exec_addr_rsvd (rsvd := false) (execNgFrd e t mode a imm) h hm rfl rfl
  · exact exec_addr_rsvd (rsvd := false) (execNgFwr e t d mode a imm) h hm rfl rfl
  · exact exec_addr_rsvd (rsvd := false) (execNgPrd e t d mode a imm) h hm rfl rfl
  · exact exec_addr_rsvd (rsvd := false) (execNgPwr e t d mode a imm) h hm rfl rfl
  · exact exec_load_rsvd (n := 2) h (.inl (by omega)) rfl
  · exact exec_store_rsvd (n := 2) h (.inl (by omega)) rfl
  · exact exec_load_rsvd (n := 4) h (.inl hd) rfl
  · exact exec_store_rsvd (n := 4) h (.inl hd) rfl
  · exact exec_load_align (n := 2) h hm rfl (by omega) (by omega)
  · exact exec_store_align (n := 2) h hm rfl (by omega) (by omega)
  · exact exec_load_align (n := 4) h hm rfl hd hal
  · exact exec_store_align (n := 4) h hm rfl hd hal
  · exact exec_load_addr (n := 1) h hm rfl (Nat.mod_one _) (Nat.mod_one _) (by omega) (by omega)
  · exact exec_store_addr (n := 1) h hm rfl (Nat.mod_one _) (Nat.mod_one _) (by omega) (by omega)
  · exact exec_load_addr (n := 2) h hm rfl (by omega) (by omega) hea (by omega)
  · exact exec_store_addr (n := 2) h hm rfl (by omega) (by omega) hea (by omega)
  · exact exec_load_addr (n := 4) h hm rfl hd hal hea (by omega)
  · exact exec_store_addr (n := 4) h hm rfl hd hal hea (by omega)

theorem modes_hold : Modes := fun _ _ _ => ⟨rfl, rfl, rfl, rfl, rfl, rfl⟩

/-! ## Circular addressing (R339) -/

/-- The least power of two from a length on. -/
theorem least_power {l k : Nat} (hle : l ≤ 2 ^ k) (hlt : 2 ^ k < 2 * l) (hk : k ≤ 17) :
    ((List.range 19).find? fun j => decide (l ≤ 2 ^ j)) = some k := by
  rw [List.find?_range_eq_some]
  refine ⟨decide_eq_true hle, by simpa using (show k < 19 by omega), fun j hj => ?_⟩
  have hpow : 2 * 2 ^ j ≤ 2 ^ k := by
    rw [← pow_succ']
    exact Nat.pow_le_pow_right (by decide) hj
  simp only [Bool.not_eq_true', decide_eq_false_iff_not]
  omega

/-- One step of at most the length, brought back into the buffer, is the step modulo the length. -/
theorem wrapped_step {o l m : Int} (ho : 0 ≤ o) (hol : o < l) (hlo : -l ≤ m) (hhi : m ≤ l) :
    (if l ≤ o + m then o + m - l else if o + m < 0 then o + m + l else o + m) = (o + m) % l := by
  split
  · rw [← Int.sub_emod_right, Int.emod_eq_of_lt (by omega) (by omega)]
  · split
    · rw [← Int.add_emod_right, Int.emod_eq_of_lt (by omega) (by omega)]
    · rw [Int.emod_eq_of_lt (by omega) (by omega)]

/-- A buffer starts at a multiple of the power of two, so an offset in it does not carry. -/
theorem buffer_offset {b : Word18} {o k : Nat} (hb : b.toNat % 2 ^ k = 0) (ho : o < 2 ^ k) (hk : k ≤ 17) :
    (b + BitVec.ofNat 18 o).toNat = b.toNat + o ∧ (b.toNat + o) / 2 ^ k * 2 ^ k = b.toNat ∧ (b.toNat + o) % 2 ^ k = o := by
  have hb18 := b.isLt
  obtain ⟨z, hz⟩ := Nat.dvd_of_mod_eq_zero hb
  have h18 : (2 : Nat) ^ 18 = 2 ^ k * 2 ^ (18 - k) := by rw [← pow_add]; congr 1; omega
  have hzlt : z + 1 ≤ 2 ^ (18 - k) := by
    rw [hz, h18] at hb18
    exact Nat.lt_of_mul_lt_mul_left hb18
  have hfit : b.toNat + o < 2 ^ 18 :=
    calc b.toNat + o < 2 ^ k * z + 2 ^ k := by omega
      _ = 2 ^ k * (z + 1) := by ring
      _ ≤ 2 ^ 18 := h18 ▸ Nat.mul_le_mul_left _ hzlt
  refine ⟨?_, ?_, ?_⟩
  · rw [BitVec.toNat_add, BitVec.toNat_ofNat, Nat.mod_eq_of_lt (show o < 2 ^ 18 by omega), Nat.mod_eq_of_lt hfit]
  · rw [hz, Nat.mul_add_div (Nat.two_pow_pos k), Nat.div_eq_of_lt ho, add_zero, mul_comm]
  · rw [hz, Nat.mul_add_mod, Nat.mod_eq_of_lt ho]

theorem circular_holds : Circular := by
  intro b m l o k hl hle hlt hb ho hk hm
  obtain ⟨hsum, hbase, hoff⟩ := buffer_offset hb (Nat.lt_of_lt_of_le ho hle) hk
  have hpos : (0 : Int) < l.toNat := by omega
  have hmod := Int.emod_nonneg (o + m.toInt) hpos.ne'
  rw [circ, if_neg hl]
  dsimp only
  rw [least_power hle hlt hk, Option.getD_some, hsum, hbase, hoff, wrapped_step (by omega) (by omega) (by omega) (by omega), w18, BitVec.ofInt_add,
    BitVec.ofInt_natCast, BitVec.ofNat_toNat, BitVec.setWidth_eq]
  conv_lhs => rw [← Int.toNat_of_nonneg hmod]
  rw [BitVec.ofInt_natCast]

/-! ## What SECDED finds (R385) -/

theorem lmFirstBad_none {s : State} {e : Fin 512} {a n : Nat} : lmFirstBad s e a n = none ↔ ∀ i < n, lmIsBad s e (a + i) = false := by
  simp [lmFirstBad]

/-- The first uncorrectable word lies among the words read. -/
theorem lmFirstBad_some {s : State} {e : Fin 512} {a n w : Nat} (h : lmFirstBad s e a n = some w) :
    a ≤ w ∧ w < a + n ∧ lmIsBad s e w = true := by
  rw [lmFirstBad, Option.map_eq_some_iff] at h
  obtain ⟨i, hi, rfl⟩ := h
  have hmem := List.mem_range.1 (List.mem_of_find?_eq_some hi)
  have hbad : lmIsBad s e (a + i) = true := List.find?_some (p := fun i => lmIsBad s e (a + i)) hi
  exact ⟨by omega, by omega, hbad⟩

/-- Where one of the words is uncorrectable, one is the first. -/
theorem lmFirstBad_isSome {s : State} {e : Fin 512} {a n i : Nat} (hi : i < n) (h : lmIsBad s e (a + i) = true) :
    ∃ w, lmFirstBad s e a n = some w := by
  cases hf : lmFirstBad s e a n with
  | none => exact absurd (lmFirstBad_none.1 hf i hi) (by simp [h])
  | some w => exact ⟨w, rfl⟩

/-- What the words read answer once the finding is noted. -/
def lmAnswer (s : State) (e : Fin 512) (a n : Nat) : State × Bool :=
  match lmFirstBad s e a n with
  | some w => (lmStop s e w, false)
  | none => (lmCorrected s e a n, true)

theorem lmAnswer_none {s : State} {e : Fin 512} {a n : Nat} (h : lmFirstBad s e a n = none) :
    lmAnswer s e a n = (lmCorrected s e a n, true) := by rw [lmAnswer, h]

theorem lmAnswer_some {s : State} {e : Fin 512} {a n w : Nat} (h : lmFirstBad s e a n = some w) :
    lmAnswer s e a n = (lmStop s e w, false) := by rw [lmAnswer, h]

/-- Nothing new found, and one word in which an error is found. -/
theorem lmFinding_eq (s : State) (e : Fin 512) (a n : Nat) :
    lmFinding s e a n 0 = lmAnswer s e a n ∧ lmFinding s e a 1 1 = lmAnswer (lmSetCe s e a) e a 1 ∧
      lmFinding s e a 1 2 = lmAnswer (lmSetBad s e a) e a 1 := by
  refine ⟨?_, rfl, rfl⟩
  unfold lmFinding
  rw [if_pos (.inr rfl)]
  rfl

@[simp] theorem lmIsBad_lmSetBad (s : State) (e : Fin 512) (a : Nat) : lmIsBad (lmSetBad s e a) e a = true := by
  rw [lmIsBad, lmSetBad, eng_updEng, SMap.get_set]

theorem lmIsBad_lmSetCe (s : State) (e : Fin 512) (a b : Nat) : lmIsBad (lmSetCe s e a) e b = lmIsBad s e b := by
  rw [lmIsBad, lmSetCe, eng_updEng, lmIsBad]

/-- The word that a free value chooses is one of those read. -/
theorem freeVal_words_lt {n : Nat} (s : State) (hn : n = 1 ∨ n = 2 ∨ n = 4) (ecc : Fin 3) :
    (if n = 1 ∨ ecc = 0 then (0, s) else freeVal (n / 2) s).1 < n := by
  split
  · change 0 < n
    omega
  · change Config.free s.freeCtr % 2 ^ (n / 2) < n
    rcases hn with rfl | rfl | rfl
    · exact Nat.mod_lt _ (by decide)
    · exact Nat.mod_lt _ (by decide)
    · exact Nat.mod_lt _ (by decide)

/-- An uncorrectable word found now does not complete. -/
theorem lmFinding_uncorrectable {n : Nat} (s : State) (e : Fin 512) (a : Nat) (hn : n = 1 ∨ n = 2 ∨ n = 4) :
    (lmFinding s e a n 2).2 = false := by
  have hj := freeVal_words_lt s hn 2
  unfold lmFinding
  dsimp only
  rw [if_pos rfl]
  generalize (if n = 1 ∨ (2 : Fin 3) = 0 then ((0 : Nat), s) else freeVal (n / 2) s) = x at hj ⊢
  obtain ⟨w, hw⟩ := lmFirstBad_isSome hj (lmIsBad_lmSetBad x.2 e (a + x.1))
  rw [hw]

theorem localFindings_hold : LocalFindings := by
  intro s e a n hn
  obtain ⟨hgood, hce, hbad⟩ := lmFinding_eq s e a n
  refine ⟨fun h => ⟨hgood.trans (lmAnswer_none h), fun hclean => ?_⟩, fun h => ?_, fun v => ⟨?_, ?_⟩, fun w h => ⟨hgood.trans (lmAnswer_some h), lmFirstBad_some h⟩,
    lmFinding_uncorrectable s e a hn, ?_⟩
  · have hnone : ((List.range n).filter fun i => SMap.get false (eng s e).lmCe (a + i)) = [] := by
      rw [List.filter_eq_nil_iff]
      exact fun i hi => by simp [hclean i (List.mem_range.1 hi)]
    rw [lmCorrected, hnone]
    rfl
  · have hgood' : lmFirstBad (lmSetCe s e a) e a 1 = none :=
      lmFirstBad_none.2 fun i hi => (lmIsBad_lmSetCe ..).trans (lmFirstBad_none.1 h i hi)
    have hone : ((List.range 1).filter fun i => SMap.get false (eng (lmSetCe s e a) e).lmCe (a + i)) = [0] := by
      simp [List.range_succ, lmSetCe]
    rw [hce, lmAnswer_none hgood', lmCorrected, hone]
    rfl
  · rw [lmSetCe, eng_updEng, SMap.get_set]
  · rw [setLm, eng_updEng, SMap.get_set]
  · have hfirst : lmFirstBad (lmSetBad s e a) e a 1 = some a := by
      simp [lmFirstBad, List.range_succ]
    rw [hbad, lmAnswer_some hfirst]

/-! ## The loads of event words (R386) -/

/-- A thread whose loads of event words read as the sources of a state tell. -/
def freshPend (s : State) (e : Fin 512) (th : NgThread) : NgThread :=
  { th with pend := th.pend.map fun w => match w.ev with
      | some (o, j) => { w with val := pendWord s e o j }
      | none => w }

/-- A map whose values all change by a function that keeps the default. -/
theorem get_mapValues {α : Type} {d : α} {f : α → α} (hf : f d = d) (m : SMap α) (k : Nat) :
    SMap.get d (m.map fun x => (x.1, f x.2)) k = f (SMap.get d m k) := by
  unfold SMap.get
  induction m with
  | nil => exact hf.symm
  | cons x m ih =>
    rw [List.map_cons, SMap.getF, SMap.getF, ih]
    split <;> rfl

theorem freshLoads_eq (s : State) (e : Fin 512) :
    freshLoads s e = updEng s e fun g => { g with thr := g.thr.map fun x => (x.1, freshPend s e x.2) } := rfl

theorem thr_freshLoads (s : State) (e : Fin 512) (t : Fin 4) : thr (freshLoads s e) e t = freshPend s e (thr s e t) := by
  rw [freshLoads_eq, thr, eng_updEng]
  exact get_mapValues rfl _ _

/-- What is pending does not hang on the loads on their way. -/
theorem pendWord_freshLoads (s : State) (e : Fin 512) (o x : Nat) : pendWord (freshLoads s e) e o x = pendWord s e o x := by
  have hsrc (k : Nat) : evSrc (freshLoads s e) e k = evSrc s e k := by rw [evSrc, freshLoads_eq, eng_updEng, evSrc]
  have hmap (k : Nat) : srcMap (freshLoads s e) e k x = srcMap s e k x := by
    rw [srcMap, evMapAt, freshLoads_eq, eng_updEng, srcMap, evMapAt, ctlAt, ctlAt]
  simp only [pendWord, evPnd, evCur, pendingOf, hsrc, hmap, thr_freshLoads, freshPend]

/-- A load on its way after its engine's sources have changed. -/
theorem pend_freshLoads {s u : State} {e : Fin 512} {t : Fin 4} {j o x : Nat} {w : PendWr} (hu : thr u e t = thr s e t)
    (hw : (thr s e t).pend[j]? = some w) (hev : w.ev = some (o, x)) :
    (thr (freshLoads u e) e t).pend[j]? = some { w with val := pendWord (freshLoads u e) e o x } := by
  rw [thr_freshLoads, pendWord_freshLoads, freshPend, hu, List.getElem?_map, hw, Option.map_some, hev]

theorem thr_changeSources (s : State) (e : Fin 512) (t : Fin 4) (f : SMap EvSrc → SMap EvSrc) :
    thr (updEng s e fun g => { g with srcs := f g.srcs }) e t = thr s e t := by
  rw [thr, eng_updEng, thr]

theorem lateEvents_hold : LateEvents := by
  intro s e t k tick j o x w hup hw hev
  refine ⟨?_, pend_freshLoads (thr_changeSources s e t fun m => SMap.upd {} m k fun x => clearSpan x tick) hw hev⟩
  rw [setSource, if_pos hup]
  exact pend_freshLoads (thr_changeSources s e t fun m => SMap.upd {} m k fun x => setSpan x tick) hw hev

/-- Settles O41: an access is its address, its checks and one change of the state. -/
theorem localMemoryAccesses : Obligations.LocalMemoryAccesses :=
  ⟨ldRow_holds, lddRow_holds, ldqRow_holds, stRow_holds, stdRow_holds, stqRow_holds, ldControl_holds, lateEvents_hold, stControl_holds,
    ldStopped_holds, localFindings_hold, memTraps_hold, modes_hold, circular_holds⟩

end Sys2Proof.Machine
end

section
/-!
PROOFS. O1, O19: the front of the queue, and the checks of a request at fabric ingress in their order (R590).
-/

namespace Sys2Proof.Machine

open Sys2Proof.Claims

/-- Settles O1: the step takes the front command off the queue and runs it. -/
theorem stepRunsFront : Obligations.StepRunsFront := fun _ _ _ => rfl

variable {s : State} {m : Master} {a : Attr} {op : ReqOp} {addr len : Nat} {rmw : Bool} {k : Kind} {t : Txn}

/-! ## The checks (R533, R537, R590) -/

theorem ingressDeny_decode (h : decodeDeny s m addr len = some k) : ingressDeny s m a op addr len rmw = some k := by
  rw [ingressDeny, h]

theorem ingressDeny_gate (h : decodeDeny s m addr len = none) (hg : gated s a.did = true) :
    ingressDeny s m a op addr len rmw = some .wrongOwner := by
  rw [ingressDeny, h]
  exact if_pos hg

/-- Past decode and gate only the grant of a DRAM or on-chip SRAM range refuses. -/
theorem ingressDeny_grant (h : decodeDeny s m addr len = none) (hg : gated s a.did = false) :
    ingressDeny s m a op addr len rmw =
      if (regionOf s addr = some .dram ∨ regionOf s addr = some .sram) ∧ needsGrant m = true ∧
        granted s a.did addr len (op = .write) (rmw || op = .fillAtomic) = false then some .wrongOwner else none := by
  rw [ingressDeny, h]
  dsimp only
  rw [hg, if_neg Bool.false_ne_true]
  rcases hr : regionOf s addr with _ | r
  · simp
  · cases r <;> simp

/-- A request that waits in a queue or is refused holds no credit. -/
theorem holdsCredit_outside (h : t.status = .refused ∨ t.status = .waitCredit ∨ t.status = .posted) : holdsCredit t = false := by
  rcases h with h | h | h <;> rw [holdsCredit, h] <;> rfl

/-! ## The entry (R590) -/

theorem enterFabric_refused (h : ingressDeny s t.req.master t.attr t.req.op t.req.addr t.req.len (decide (t.req.op = .write) && t.req.pos.isSome) = some k) :
    enterFabric s t = updTxn (ferrLog s t.req.master t.attr t.req.op t.req.addr k) t.id fun u =>
      { u with status := .refused, err := true, why := kindCode k, rdata := 0 } := by
  rw [enterFabric, h]

/-- A request that passes its checks waits for a credit, or enters with one; Sage ROM answers it at once. -/
theorem enterFabric_passed (h : ingressDeny s t.req.master t.attr t.req.op t.req.addr t.req.len (decide (t.req.op = .write) && t.req.pos.isSome) = none) :
    enterFabric s t = if credFree s t.attr.did = true then
        let v := updTxn s t.id fun u => { u with status := .transit }
        if regionOf v t.req.addr = some .rom then
          answerTxn v t.id false false (if t.req.op = .write then 0 else romBytes t.req.addr t.req.len)
        else v
      else updTxn s t.id fun u => { u with status := .waitCredit } := by
  rw [enterFabric, h]

/-- Settles O19: the refusal is the first check that fails, and what passes takes a credit or waits for one. -/
theorem ingressChecks : Obligations.IngressChecks := by
  intro s t rmw
  refine ⟨fun k => ingressDeny_decode, ingressDeny_gate, fun hd hg hn hr hgr => ?_, fun hd hg hok => ?_, fun k => enterFabric_refused,
    fun h hc => ?_, fun h hc hrom => ?_, fun h hc hrom => ?_, holdsCredit_outside⟩
  · rw [ingressDeny_grant hd hg, if_pos ⟨hr, hn, hgr⟩]
  · rw [ingressDeny_grant hd hg, if_neg]
    rintro ⟨hr, hn, hgr⟩
    rcases hok with h | ⟨hdram, hsram⟩ | h
    · exact absurd (hn.symm.trans h) (by decide)
    · exact hr.elim hdram hsram
    · exact absurd (hgr.symm.trans h) (by decide)
  · rw [enterFabric_passed h, if_neg (by simp [hc])]
  · rw [enterFabric_passed h, if_pos hc]
    exact if_neg hrom
  · rw [enterFabric_passed h, if_pos hc]
    exact ⟨_, if_pos hrom⟩

end Sys2Proof.Machine
end

section
/-!
PROOFS. What the port cells and the event unit leave unchanged in what they do in their own time (R389, R444, R465).
-/

namespace Sys2Proof.Machine

open Sys2Proof.Claims

/-- The local memory of an engine's record. -/
def engMem (g : NgEngine) : SMap (Option Word18) × SMap Bool × SMap Bool × Bool := (g.lm, g.lmBad, g.lmCe, g.zero)

/-- What no cell and no event changes: everything but registers, interrupt messages, fault messages, free values and the records of cells and
engines, and of these the local memories. -/
def stillOf (s : State) : State × (Fin 512 → SMap (Option Word18) × SMap Bool × SMap Bool × Bool) :=
  ({ s with freeCtr := 0, regs := [], ic := {}, faultQ := [], engines := [], cells := [] }, fun e => engMem (eng s e))

/-! ## The operations of the state -/

@[simp] theorem stillOf_wr (s : State) (p : Page) (off : Nat) (v : Reg32) : stillOf (wr s p off v) = stillOf s := rfl

@[simp] theorem stillOf_wrF (s : State) (p : Page) (off lo k v : Nat) : stillOf (wrF s p off lo k v) = stillOf s := rfl

@[simp] theorem stillOf_wrB (s : State) (p : Page) (off i : Nat) (v : Bool) : stillOf (wrB s p off i v) = stillOf s := rfl

@[simp] theorem stillOf_setIrq (s : State) (p : Page) (m : Nat) : stillOf (setIrq s p m) = stillOf s := by
  unfold setIrq
  split
  · unfold withLine
    dsimp only
    split
    · rfl
    · rfl
    · unfold p0Falls
      split <;> rfl
    · rfl
  · rfl

@[simp] theorem stillOf_bumpF (s : State) (p : Page) (off lo k n : Nat) : stillOf (bumpF s p off lo k n) = stillOf s := rfl

@[simp] theorem stillOf_freeVal (s : State) (w : Nat) : stillOf (freeVal w s).2 = stillOf s := rfl

@[simp] theorem stillOf_updCell (s : State) (n : Fin 256) (f : Cell → Cell) : stillOf (updCell s n f) = stillOf s := rfl

@[simp] theorem stillOf_recordErr (s : State) (p : Page) (code cls : Nat) (a : Attr) (detail did : Nat) (b : Bool) :
    stillOf (recordErr s p code cls a detail did b) = stillOf s := by
  have hlog : stillOf (if rdB (bumpF s p 0x02C 16 16 1) p 0x020 0 then wrB (bumpF s p 0x02C 16 16 1) p 0x020 1 true else
      setIrq (wr (wr (wr (bumpF s p 0x02C 16 16 1) p 0x020 (setFld (setFld (setBit (rd (bumpF s p 0x02C 16 16 1) p 0x020) 0 true) 8 8 code) 16 2 cls)) p 0x024
        (BitVec.ofNat 32 (tagWord a))) p 0x028 (BitVec.ofNat 32 detail)) p 0x80000000) = stillOf s := by
    split <;> simp
  unfold recordErr
  dsimp only
  split
  · exact hlog
  · exact hlog

/-- An engine's record changes but for its local memory. -/
theorem stillOf_updEng (s : State) (e : Fin 512) {f : NgEngine → NgEngine} (h : ∀ g, engMem (f g) = engMem g) :
    stillOf (updEng s e f) = stillOf s := by
  refine Prod.ext rfl (funext fun e' => ?_)
  show engMem (eng (updEng s e f) e') = engMem (eng s e')
  by_cases he : e' = e
  · rw [he, eng_updEng, h]
  · rw [eng_updEng_other _ _ he]

@[simp] theorem stillOf_updThr (s : State) (e : Fin 512) (t : Fin 4) (f : NgThread → NgThread) : stillOf (updThr s e t f) = stillOf s :=
  stillOf_updEng s e fun _ => rfl

@[simp] theorem stillOf_freshLoads (s : State) (e : Fin 512) : stillOf (freshLoads s e) = stillOf s := stillOf_updEng s e fun _ => rfl

@[simp] theorem stillOf_setSource (s : State) (e : Fin 512) (k tick : Nat) : stillOf (setSource s e k tick) = stillOf s := by
  unfold setSource
  split
  · exact (stillOf_freshLoads ..).trans (stillOf_updEng s e fun _ => rfl)
  · rfl

/-! ## The operations of a cell -/

@[simp] theorem stillOf_cellEvent (s : State) (n : Fin 256) (code tick : Nat) : stillOf (cellEvent s n code tick) = stillOf s := by
  unfold cellEvent
  dsimp only
  split
  · rfl
  · refine foldl_frame stillOf _ (fun u j => ?_) _ _
    split
    · split <;> split <;> simp
    · rfl

@[simp] theorem stillOf_cellErr (s : State) (n : Fin 256) (i tick : Nat) : stillOf (cellErr s n i tick) = stillOf s := by
  simp [cellErr]

theorem stillOf_withTxe (n : Fin 256) (tick : Nat) {f : State → State} {s : State} (h : stillOf (f s) = stillOf s) :
    stillOf (withTxe n tick f s) = stillOf s := by
  unfold withTxe
  dsimp only
  split
  · rw [stillOf_cellEvent, h]
  · exact h

@[simp] theorem stillOf_clearSched (s : State) (n : Fin 256) (tick : Nat) : stillOf (clearSched s n tick) = stillOf s := by
  unfold clearSched
  dsimp only
  split <;> simp

@[simp] theorem stillOf_restartKeep (s : State) (n : Fin 256) (tick : Nat) : stillOf (restartKeep s n tick) = stillOf s := rfl

@[simp] theorem stillOf_restartIdle (s : State) (n : Fin 256) (tick : Nat) : stillOf (restartIdle s n tick) = stillOf s := rfl

@[simp] theorem stillOf_enterSafe (s : State) (n : Fin 256) (cause tick : Nat) : stillOf (enterSafe s n cause tick) = stillOf s := by
  unfold enterSafe
  dsimp only
  split
  · rfl
  · rw [stillOf_setIrq, stillOf_withTxe _ _ (stillOf_updCell ..), stillOf_clearSched]

@[simp] theorem stillOf_leaveSafe (s : State) (n : Fin 256) (tick : Nat) : stillOf (leaveSafe s n tick) = stillOf s := by
  unfold leaveSafe
  split <;> rfl

@[simp] theorem stillOf_setLevel (s : State) (n : Fin 256) (b : Bool) (op tick : Nat) : stillOf (setLevel s n b op tick) = stillOf s := rfl

@[simp] theorem stillOf_startPeriod (s : State) (n : Fin 256) (tick : Nat) : stillOf (startPeriod s n tick) = stillOf s := by
  simp [startPeriod]

@[simp] theorem stillOf_stopRepeat (s : State) (n : Fin 256) (tick : Nat) : stillOf (stopRepeat s n tick) = stillOf s := rfl

@[simp] theorem stillOf_startTx (s : State) (n : Fin 256) (tick : Nat) : stillOf (startTx s n tick) = stillOf s :=
  stillOf_withTxe _ _ (stillOf_updCell ..)

@[simp] theorem stillOf_abortShift (s : State) (n : Fin 256) (tick : Nat) : stillOf (abortShift s n tick) = stillOf s := rfl

@[simp] theorem stillOf_rxEnter (s : State) (n : Fin 256) (x : RxIn) : stillOf (rxEnter s n x) = stillOf s := by
  have herrs := foldl_frame stillOf (fun s i => cellErr s n i x.tick) (fun _ _ => stillOf_cellErr ..) x.errs s
  unfold rxEnter
  dsimp only
  split
  · rw [stillOf_cellEvent, stillOf_updCell, herrs]
  · rw [stillOf_cellErr, herrs]

@[simp] theorem stillOf_rxComes (s : State) (n : Fin 256) : stillOf (rxComes s n) = stillOf s := by
  unfold rxComes
  split <;> simp

@[simp] theorem stillOf_rxDone (s : State) (n : Fin 256) (r : RxFrame) (tick : Nat) : stillOf (rxDone s n r tick) = stillOf s := by
  unfold rxDone
  dsimp only
  rw [stillOf_updCell]
  split <;> rfl

@[simp] theorem stillOf_takeSample (s : State) (n : Fin 256) (tick : Nat) : stillOf (takeSample s n tick) = stillOf s := by
  unfold takeSample
  split
  · rfl
  · dsimp only
    split
    · rfl
    · simp only [apply_ite stillOf, stillOf_rxDone, stillOf_updCell, stillOf_cellErr, ite_self]

@[simp] theorem stillOf_storeEdge (s : State) (n : Fin 256) (x : Nat × CapEnt) : stillOf (storeEdge s n x) = stillOf s := by
  unfold storeEdge
  dsimp only
  split <;> simp

@[simp] theorem stillOf_schedAct (s : State) (n : Fin 256) (a tick : Nat) : stillOf (schedAct s n a tick) = stillOf s := by
  simp only [schedAct, apply_ite stillOf, stillOf_setLevel, stillOf_startTx, stillOf_cellErr, stillOf_startPeriod, stillOf_stopRepeat, ite_self]

@[simp] theorem stillOf_schedOne (s : State) (n : Fin 256) (h : SchEnt) (rest : List SchEnt) : stillOf (schedOne s n h rest) = stillOf s := by
  simp only [schedOne, apply_ite stillOf, stillOf_cellEvent, stillOf_schedAct, stillOf_cellErr, stillOf_updCell, ite_self]

@[simp] theorem stillOf_schedHead (s : State) (n : Fin 256) (tick : Nat) : stillOf (schedHead s n tick) = stillOf s := by
  unfold schedHead
  split <;> simp

@[simp] theorem stillOf_schedCommit (s : State) (n : Fin 256) (v : Word18) (p : Nat) : stillOf (schedCommit s n v p) = stillOf s := by
  simp only [schedCommit, apply_ite stillOf, stillOf_cellErr, stillOf_updCell, ite_self]

@[simp] theorem stillOf_switchSet (s : State) (n : Fin 256) (x tick : Nat) : stillOf (switchSet s n x tick) = stillOf s := rfl

@[simp] theorem stillOf_switchStuff (s : State) (n : Fin 256) (on : Bool) (tick : Nat) : stillOf (switchStuff s n on tick) = stillOf s := rfl

@[simp] theorem stillOf_cellCmd (s : State) (n : Fin 256) (v : Word18) (tick : Nat) : stillOf (cellCmd s n v tick) = stillOf s := by
  have hclr (u : State) : stillOf (withTxe n tick (fun s => updCell s n fun c => { c with tx := [] }) u) = stillOf u :=
    stillOf_withTxe _ _ (stillOf_updCell ..)
  simp only [cellCmd, apply_ite stillOf, stillOf_cellErr, stillOf_updCell, stillOf_clearSched, hclr, stillOf_abortShift, stillOf_leaveSafe,
    stillOf_wrF, stillOf_switchSet, stillOf_switchStuff, stillOf_setLevel, stillOf_stopRepeat, ite_self]

/-! ## Slot accesses (R348, R436, R456) -/

@[simp] theorem stillOf_slotRead (s : State) (n : Fin 256) (w tick : Nat) : stillOf (slotRead s n w tick).1 = stillOf s := by
  unfold slotRead
  dsimp only
  split
  · rfl
  · split <;> rfl
  · split <;> rfl
  · rfl

@[simp] theorem stillOf_slotWrite (s : State) (n : Fin 256) (w : Nat) (v : Word18) (tick : Nat) : stillOf (slotWrite s n w v tick) = stillOf s := by
  unfold slotWrite
  split
  · exact stillOf_cellCmd ..
  · split
    · rfl
    · split
      · exact stillOf_cellErr ..
      · rfl
  · rfl
  · exact stillOf_schedCommit ..

@[simp] theorem stillOf_cellRead (s : State) (e : Fin 512) (n : Fin 256) (w tick : Nat) : stillOf (cellRead s e n w tick).1 = stillOf s := by
  unfold cellRead
  split
  · exact stillOf_slotRead ..
  · exact stillOf_recordErr ..

@[simp] theorem stillOf_cellWrite (s : State) (e : Fin 512) (n : Fin 256) (w : Nat) (v : Word18) (tick : Nat) :
    stillOf (cellWrite s e n w v tick) = stillOf s := by
  unfold cellWrite
  split
  · rw [stillOf_restartKeep, stillOf_slotWrite]
  · exact stillOf_recordErr ..

@[simp] theorem stillOf_slotMade (s : State) (n : Fin 256) (x : SlotAcc) : stillOf (slotMade s n x) = stillOf s := by
  unfold slotMade
  dsimp only
  split <;> simp

/-! ## What a cell does in its own time -/

@[simp] theorem stillOf_keepExpire (s : State) (n : Fin 256) (t : Nat) : stillOf (keepExpire s n t) = stillOf s := by
  simp [keepExpire]

@[simp] theorem stillOf_idleExpire (s : State) (n : Fin 256) (t : Nat) : stillOf (idleExpire s n t) = stillOf s := by
  simp [idleExpire]

@[simp] theorem stillOf_txEnd (s : State) (n : Fin 256) (t : Nat) : stillOf (txEnd s n t) = stillOf s := by
  rw [txEnd, stillOf_cellEvent]
  rfl

@[simp] theorem stillOf_stretchEnd (s : State) (n : Fin 256) (t : Nat) : stillOf (stretchEnd s n t) = stillOf s := by
  simp [stretchEnd]

@[simp] theorem stillOf_actDo (s : State) (n : Fin 256) (t : Nat) (a : CellAct) : stillOf (actDo s n t a) = stillOf s := by
  cases a with
  | read | capture | write =>
    unfold actDo
    dsimp only
    split <;> simp
  | rxIn => exact stillOf_rxComes ..
  | txEnd => exact stillOf_txEnd ..
  | stretch => exact stillOf_stretchEnd ..
  | keep => exact stillOf_keepExpire ..
  | period => exact stillOf_startPeriod ..
  | sched => exact stillOf_schedHead s n t
  | sample => exact stillOf_takeSample ..
  | idle => exact stillOf_idleExpire ..

@[simp] theorem stillOf_cellRun (n : Fin 256) (key k : Nat) (s : State) : stillOf (cellRun n key k s) = stillOf s := by
  induction k generalizing s with
  | zero => rfl
  | succ k ih =>
    unfold cellRun
    split
    · rw [ih, stillOf_actDo]
    · rfl

@[simp] theorem stillOf_cellTo (n : Fin 256) (key : Nat) (s : State) : stillOf (cellTo n key s) = stillOf s := by
  unfold cellTo
  split
  · exact stillOf_cellRun ..
  · rfl

@[simp] theorem stillOf_cellsAt (s : State) (e : Fin 512) (tick : Nat) : stillOf (cellsAt s e tick) = stillOf s :=
  foldl_frame stillOf _ (fun _ _ => stillOf_cellTo ..) _ _

/-- An uncorrectable or corrected word that a fetch records. -/
@[simp] theorem stillOf_lmCorrected (s : State) (e : Fin 512) (a n : Nat) : stillOf (lmCorrected s e a n) = stillOf s :=
  foldl_frame stillOf _ (fun _ _ => stillOf_recordErr ..) _ _

@[simp] theorem stillOf_fetchCorrected (s : State) (e : Fin 512) (t : Fin 4) : stillOf (fetchCorrected s e t) = stillOf s := by
  unfold fetchCorrected
  split
  · exact stillOf_lmCorrected ..
  · rfl

/-! ## What follows for memories -/

theorem engMem_of_still {s u : State} (h : stillOf u = stillOf s) (e : Fin 512) : engMem (eng u e) = engMem (eng s e) :=
  congrFun (congrArg Prod.snd h) e

/-- A field of the state that no cell and no event changes. -/
theorem field_of_still {α : Type} (f : State → α) (hf : ∀ s, f (stillOf s).1 = f s) {s u : State} (h : stillOf u = stillOf s) : f u = f s := by
  rw [← hf u, h, hf]

theorem sameOutside_of_still {s u : State} (h : stillOf u = stillOf s) : SameOutside s u :=
  ⟨field_of_still State.sram (fun _ => rfl) h, field_of_still State.dram (fun _ => rfl) h, field_of_still State.eeprom (fun _ => rfl) h,
    field_of_still State.clusters (fun _ => rfl) h, field_of_still State.movers (fun _ => rfl) h, field_of_still State.l2s (fun _ => rfl) h,
    field_of_still State.sc (fun _ => rfl) h, field_of_still State.fab (fun _ => rfl) h, field_of_still State.tyl (fun _ => rfl) h,
    field_of_still State.doms (fun _ => rfl) h, field_of_still State.sage (fun _ => rfl) h⟩

theorem lmWord_of_still {s u : State} (h : stillOf u = stillOf s) (e : Fin 512) (a : Nat) : lmWord u e a = lmWord s e a := by
  obtain ⟨hlm, -, -, hzero⟩ : (eng u e).lm = (eng s e).lm ∧ (eng u e).lmBad = (eng s e).lmBad ∧ (eng u e).lmCe = (eng s e).lmCe ∧
      (eng u e).zero = (eng s e).zero := by simpa only [engMem, Prod.mk.injEq] using engMem_of_still h e
  have hepoch : u.engEpoch = s.engEpoch := field_of_still State.engEpoch (fun _ => rfl) h
  rw [lmWord, lmWord, hlm, hzero, hepoch]

@[simp] theorem eng_advanceTo (s : State) (t : Nat) (e : Fin 512) : eng (advanceTo s t) e = eng s e := by
  rw [eng, advanceTo_engines, eng]

@[simp] theorem lmWord_advanceTo (s : State) (t : Nat) (e : Fin 512) (a : Nat) : lmWord (advanceTo s t) e a = lmWord s e a := by
  rw [lmWord, eng_advanceTo, advanceTo_engEpoch, lmWord]

/-- The slot of an instruction leaves every word of local memory. -/
theorem lmWord_checked (s : State) (e e' : Fin 512) (t : Fin 4) (a : Nat) : lmWord (checked s e t) e' a = lmWord s e' a :=
  calc lmWord (checked s e t) e' a
      = lmWord (fetchCorrected (advanceTo (cellsAt s e (nextSlot s e t)) (nextSlot s e t)) e t) e' a :=
        lmWord_of_still ((stillOf_updThr ..).trans (stillOf_updThr ..)) e' a
    _ = lmWord (advanceTo (cellsAt s e (nextSlot s e t)) (nextSlot s e t)) e' a := lmWord_of_still (stillOf_fetchCorrected ..) e' a
    _ = lmWord (cellsAt s e (nextSlot s e t)) e' a := lmWord_advanceTo ..
    _ = lmWord s e' a := lmWord_of_still (stillOf_cellsAt ..) e' a

end Sys2Proof.Machine
end

section
/-!
PROOFS. O44: a word that is stored, and every other word (R342, R399).
-/

namespace Sys2Proof.Machine

open Sys2Proof.Claims

/-! ## One word -/

theorem lmWord_setLm_same (s : State) (e : Fin 512) (a : Nat) (v : Word18) : lmWord (setLm s e a v) e a = v := by
  rw [lmWord, setLm, eng_updEng]
  dsimp only
  rw [SMap.get_set]
  cases hz : (eng s e).zero
  · rfl
  · by_cases hv : v = 0
    · simp [hv]
    · rw [if_neg (by simpa using hv)]

theorem lmWord_setLm_other (s : State) {e e' : Fin 512} {a b : Nat} (v : Word18) (h : e' ≠ e ∨ b ≠ a) :
    lmWord (setLm s e a v) e' b = lmWord s e' b := by
  by_cases he : e' = e
  · subst he
    rw [lmWord, setLm, eng_updEng]
    dsimp only
    rw [SMap.get_set_other _ _ _ (h.resolve_left (not_not.2 rfl))]
    rfl
  · rw [lmWord, setLm, eng_updEng_other _ _ he]
    rfl

theorem lmIsBad_setLm_same (s : State) (e : Fin 512) (a : Nat) (v : Word18) : lmIsBad (setLm s e a v) e a = false := by
  rw [lmIsBad, setLm, eng_updEng]
  exact SMap.get_set ..

theorem lmIsBad_setLm_other (s : State) {e e' : Fin 512} {a b : Nat} (v : Word18) (h : e' ≠ e ∨ b ≠ a) :
    lmIsBad (setLm s e a v) e' b = lmIsBad s e' b := by
  by_cases he : e' = e
  · subst he
    rw [lmIsBad, setLm, eng_updEng]
    exact SMap.get_set_other _ _ _ (h.resolve_left (not_not.2 rfl))
  · rw [lmIsBad, setLm, eng_updEng_other _ _ he]
    rfl

theorem cmWord_setCm_same (s : State) (k : Fin 32) (a : Nat) (v : Word18) : cmWord (setCm s k a v) k a = v := by
  rw [cmWord, setCm, clu_updClu]
  dsimp only
  rw [SMap.get_set]
  cases hz : (clu s k).zero
  · rfl
  · by_cases hv : v = 0
    · simp [hv]
    · rw [if_neg (by simpa using hv)]

theorem cmWord_setCm_other (s : State) {k k' : Fin 32} {a b : Nat} (v : Word18) (h : k' ≠ k ∨ b ≠ a) :
    cmWord (setCm s k a v) k' b = cmWord s k' b := by
  by_cases he : k' = k
  · subst he
    rw [cmWord, setCm, clu_updClu]
    dsimp only
    rw [SMap.get_set_other _ _ _ (h.resolve_left (not_not.2 rfl))]
    rfl
  · rw [cmWord, setCm, clu_updClu_other _ _ he]
    rfl

/-! ## The words of one store -/

/-- `n` words stored from an address on. -/
def storeWords (e : Fin 512) (ea : Nat) (f : Nat → Word18) (s : State) (n : Nat) : State :=
  (List.range n).foldl (fun u k => setLm u e (ea + k) (f k)) s

theorem storeWords_succ (e : Fin 512) (ea : Nat) (f : Nat → Word18) (s : State) (n : Nat) :
    storeWords e ea f s (n + 1) = setLm (storeWords e ea f s n) e (ea + n) (f n) := by
  rw [storeWords, List.range_succ, List.foldl_append, storeWords]
  rfl

theorem storing_eq (s : State) (e : Fin 512) (t : Fin 4) (d : Fin 16) (ea n : Nat) :
    storing s e t d ea n = storeWords e ea (fun k => ngReg (bodyThr s e t) (d.val + k)) (checked s e t) n := rfl

theorem lmWord_storeWords_in (e : Fin 512) (ea : Nat) (f : Nat → Word18) (s : State) {n j : Nat} (hj : j < n) :
    lmWord (storeWords e ea f s n) e (ea + j) = f j := by
  induction n with
  | zero => exact absurd hj (Nat.not_lt_zero j)
  | succ n ih =>
    rw [storeWords_succ]
    by_cases h : j = n
    · rw [h, lmWord_setLm_same]
    · rw [lmWord_setLm_other _ _ (.inr (by omega)), ih (by omega)]

theorem lmWord_storeWords_out {e e' : Fin 512} {ea : Nat} (f : Nat → Word18) (s : State) {n b : Nat} (h : e' ≠ e ∨ b < ea ∨ ea + n ≤ b) :
    lmWord (storeWords e ea f s n) e' b = lmWord s e' b := by
  induction n with
  | zero => rfl
  | succ n ih =>
    rw [storeWords_succ, lmWord_setLm_other _ _ (h.imp_right fun h => by omega), ih (h.imp_right fun h => by omega)]

/-- Settles O44: a store changes the words it names, and no other. -/
theorem localMemoryFrame : Obligations.LocalMemoryFrame := by
  refine ⟨fun s e e' a b v => ⟨lmWord_setLm_same .., lmIsBad_setLm_same .., fun h => ⟨lmWord_setLm_other _ _ h, lmIsBad_setLm_other _ _ h⟩⟩,
    fun s k k' a b v => ⟨cmWord_setCm_same .., fun h => cmWord_setCm_other _ _ h⟩, fun s e t d ea n => ⟨fun j hj => ?_, fun e' b h => ?_⟩⟩
  · rw [storing_eq, lmWord_storeWords_in _ _ _ _ hj]
  · rw [storing_eq, lmWord_storeWords_out _ _ h, lmWord_checked]

end Sys2Proof.Machine
end

section
/-!
PROOFS. O43: what a register instruction of an engine leaves as its slot finds it (R362, R376, R383, R385).
-/

namespace Sys2Proof.Machine

open Sys2Proof.Claims

/-! ## Threads and engines that only an event reaches -/

theorem sameThread_refl (th : NgThread) : SameThread th th := ⟨rfl, rfl, fun _ w hw => ⟨w.val, hw, fun _ => rfl⟩⟩

theorem sameThread_trans {a b c : NgThread} (hab : SameThread a b) (hbc : SameThread b c) : SameThread a c := by
  obtain ⟨hb, hblen, hbw⟩ := hab
  obtain ⟨hc, hclen, hcw⟩ := hbc
  refine ⟨?_, hclen.trans hblen, fun j w hw => ?_⟩
  · rw [hc, hb]
  · obtain ⟨v, hv, hvev⟩ := hbw j w hw
    obtain ⟨v', hv', hvev'⟩ := hcw j _ hv
    exact ⟨v', hv', fun hev => (hvev' hev).trans (hvev hev)⟩

/-- Only the words that loads of event words read change where sources do. -/
theorem sameThread_freshPend (s : State) (e : Fin 512) (th : NgThread) : SameThread th (freshPend s e th) := by
  refine ⟨rfl, List.length_map .., fun j w hw => ?_⟩
  rw [freshPend, List.getElem?_map, hw, Option.map_some]
  obtain ⟨due, reg, val, load, st, ev, prd⟩ := w
  cases ev with
  | none => exact ⟨val, rfl, fun _ => rfl⟩
  | some x => exact ⟨pendWord s e x.1 x.2, rfl, fun h => absurd h (Option.some_ne_none x)⟩

theorem onlySources_refl (g : NgEngine) : OnlySources g g := ⟨rfl, fun _ => sameThread_refl _⟩

theorem onlySources_trans {a b c : NgEngine} (hab : OnlySources a b) (hbc : OnlySources b c) : OnlySources a c := by
  obtain ⟨hb, hbt⟩ := hab
  obtain ⟨hc, hct⟩ := hbc
  refine ⟨?_, fun t => sameThread_trans (hbt t) (hct t)⟩
  rw [hc, hb]

/-! ## What an instruction's own state may change -/

/-- Beside the thread named, at most event sources and what tells of them have changed. -/
structure Beside (e : Fin 512) (t : Fin 4) (a u : State) : Prop where
  still : stillOf u = stillOf a
  cells : u.cells = a.cells
  others : ∀ e', e' ≠ e → OnlySources (eng a e') (eng u e')
  threads : ∀ t', t' ≠ t → SameThread (thr a e t') (thr u e t')

namespace Beside

variable {e : Fin 512} {t : Fin 4} {a b u : State}

theorem refl (a : State) : Beside e t a a := ⟨rfl, rfl, fun _ _ => onlySources_refl _, fun _ _ => sameThread_refl _⟩

theorem trans (hab : Beside e t a b) (hbu : Beside e t b u) : Beside e t a u :=
  ⟨hbu.still.trans hab.still, hbu.cells.trans hab.cells, fun e' he => onlySources_trans (hab.others e' he) (hbu.others e' he),
    fun t' ht => sameThread_trans (hab.threads t' ht) (hbu.threads t' ht)⟩

/-- No record of an engine has changed. -/
theorem of_engines (hs : stillOf u = stillOf a) (hc : u.cells = a.cells) (he : u.engines = a.engines) : Beside e t a u := by
  have heng (e' : Fin 512) : eng u e' = eng a e' := by rw [eng, he, eng]
  refine ⟨hs, hc, fun e' _ => ?_, fun t' _ => ?_⟩
  · rw [heng]
    exact onlySources_refl _
  · rw [thr, thr, heng]
    exact sameThread_refl _

theorem setIrq (s : State) (p : Page) (m : Nat) : Beside e t s (Machine.setIrq s p m) := of_engines (by simp) (by simp) (by simp)

theorem recInternal (s : State) (p : Page) (code detail : Nat) : Beside e t s (Machine.recInternal s p code detail) :=
  of_engines (stillOf_recordErr ..) (recordErr_cells ..) (recordErr_engines ..)

/-- The thread itself changes. -/
theorem updThr (s : State) (f : NgThread → NgThread) : Beside e t s (Machine.updThr s e t f) := by
  refine ⟨stillOf_updThr .., rfl, fun e' he => ?_, fun t' ht => ?_⟩
  · rw [Machine.updThr, eng_updEng_other _ _ he]
    exact onlySources_refl _
  · rw [thr_updThr_other _ _ (.inr ht)]
    exact sameThread_refl _

/-- The check-value unit of the engine changes. -/
theorem feed (s : State) (f : CvUnit → CvUnit) : Beside e t s (updEng s e fun g => { g with cv := f g.cv }) := by
  refine ⟨stillOf_updEng _ _ fun _ => rfl, rfl, fun e' he => ?_, fun t' _ => ?_⟩
  · rw [eng_updEng_other _ _ he]
    exact onlySources_refl _
  · rw [thr, thr, eng_updEng]
    exact sameThread_refl _

/-- The sources of an engine change, and its loads of event words tell of them. -/
theorem sources (s : State) (e' : Fin 512) (f : SMap EvSrc → SMap EvSrc) :
    Beside e t s (freshLoads (updEng s e' fun g => { g with srcs := f g.srcs }) e') := by
  have hthr (t' : Fin 4) : SameThread (thr s e' t') (thr (freshLoads (updEng s e' fun g => { g with srcs := f g.srcs }) e') e' t') := by
    rw [thr_freshLoads, thr_changeSources]
    exact sameThread_freshPend ..
  have hother {e'' : Fin 512} (he : e'' ≠ e') : eng (freshLoads (updEng s e' fun g => { g with srcs := f g.srcs }) e') e'' = eng s e'' := by
    rw [freshLoads_eq, eng_updEng_other _ _ he, eng_updEng_other _ _ he]
  refine ⟨(stillOf_freshLoads ..).trans (stillOf_updEng _ _ fun _ => rfl), rfl, fun e'' _ => ?_, fun t' _ => ?_⟩
  · by_cases he : e'' = e'
    · subst he
      refine ⟨?_, hthr⟩
      rw [freshLoads_eq, eng_updEng, eng_updEng]
    · rw [hother he]
      exact onlySources_refl _
  · by_cases he : e = e'
    · rw [he]
      exact hthr t'
    · rw [thr, thr, hother he]
      exact sameThread_refl _

theorem setSource (s : State) (e' : Fin 512) (k tick : Nat) : Beside e t s (Machine.setSource s e' k tick) := by
  unfold Machine.setSource
  split
  · exact sources s e' fun m => SMap.upd {} m k fun x => setSpan x tick
  · exact refl s

theorem clearSource (s : State) (e' : Fin 512) (k tick : Nat) : Beside e t s (Machine.clearSource s e' k tick) :=
  sources s e' fun m => SMap.upd {} m k fun x => clearSpan x tick

theorem endSource (s : State) (e' : Fin 512) (k tick : Nat) : Beside e t s (Machine.endSource s e' k tick) :=
  sources s e' fun m => SMap.upd {} m k fun x => endSpan x tick

theorem foldl {β : Type} {g : State → β → State} (hg : ∀ s x, Beside e t s (g s x)) (l : List β) (s : State) : Beside e t s (l.foldl g s) := by
  induction l generalizing s with
  | nil => exact refl s
  | cons x l ih => exact (hg s x).trans (ih _)

/-- A thread fault reaches the engines of its cluster by source 56 only (R383). -/
theorem fault (s : State) (slot code : Nat) : Beside e t s (ngFault s e t slot code) := by
  refine (updThr ..).trans ((setIrq ..).trans (foldl (fun u j => ?_) _ _))
  dsimp only
  split
  · exact setSource ..
  · exact refl u

theorem endStep (s : State) (stepping : Bool) : Beside e t s (Machine.endStep s e t stepping) := by
  unfold Machine.endStep
  split
  · exact (updThr ..).trans (setIrq ..)
  · exact refl s

theorem waitHalt (s : State) : Beside e t s (Machine.waitHalt s e t) := by
  unfold Machine.waitHalt
  split
  · split
    · exact refl s
    · exact updThr ..
  · exact refl s

theorem fetchCorrected (s : State) (t' : Fin 4) : Beside e t s (Machine.fetchCorrected s e t') := by
  unfold Machine.fetchCorrected
  split
  · exact foldl (fun _ _ => recInternal ..) _ _
  · exact refl s

end Beside

/-! ## The frame of an instruction -/

/-- What a body answers is beside its thread as its own state was. -/
def ResBeside (e : Fin 512) (t : Fin 4) (z : State) : NgRes → Prop
  | .fault _ => True
  | .ok u _ => Beside e t z u
  | .stopped u => Beside e t z u

variable {s u : State} {e : Fin 512} {t : Fin 4}

/-- The state before an instruction: its cluster's cells have done what is due, and device time is at its slot. -/
def beforeSlot (s : State) (e : Fin 512) (t : Fin 4) : State := advanceTo (cellsAt s e (nextSlot s e t)) (nextSlot s e t)

theorem beside_atSlot (s : State) (e : Fin 512) (t : Fin 4) : Beside e t (beforeSlot s e t) (atSlot s e t) :=
  (Beside.fetchCorrected ..).trans (Beside.updThr ..)

theorem beside_checked (s : State) (e : Fin 512) (t : Fin 4) : Beside e t (beforeSlot s e t) (checked s e t) :=
  (beside_atSlot s e t).trans (Beside.updThr ..)

theorem beside_finished {a : State} (h : Beside e t a u) (slots : Nat) (g : NgThread → NgThread) : Beside e t a (finished s u e t slots g) :=
  h.trans ((Beside.updThr ..).trans (Beside.endStep ..))

theorem beside_outcome {a : State} (ha : Beside e t a (atSlot s e t)) (slots : Nat) {r : NgRes} (h : ResBeside e t a r) :
    Beside e t a (ngOutcome s e t slots r) := by
  cases r with
  | fault code => exact ha.trans (Beside.fault ..)
  | stopped u => exact Beside.trans h (Beside.updThr ..)
  | ok u next =>
    cases next with
    | wait => exact Beside.trans h ((Beside.updThr ..).trans ((Beside.waitHalt _).trans (Beside.endStep ..)))
    | seq | goto | branch | halt | ret =>
      dsimp only [ngOutcome, seqDone]
      exact beside_finished h slots _

/-- An instruction of thread `t` of engine `e`: where it issues it is beside its thread as the slot was; else nothing issues. -/
def Framed (e : Fin 512) (t : Fin 4) (s u : State) : Prop :=
  (canIssue s e t = true → Beside e t (beforeSlot s e t) u) ∧ (canIssue s e t = false → u = noIssue s e t)

variable {slots : Nat} {ct rsvd : Bool} {body : State → Nat → NgRes}

theorem ResBeside.trans {a z : State} {r : NgRes} (ha : Beside e t a z) (h : ResBeside e t z r) : ResBeside e t a r := by
  cases r with
  | fault code => trivial
  | stopped u => exact Beside.trans ha h
  | ok u next => exact Beside.trans ha h

/-- An annulled delay slot only takes its slot. -/
theorem ngInstr_annulled (hi : canIssue s e t = true) (ha : annulled (slotThr s e t) = true) :
    ∃ f, ngInstr e t slots ct rsvd body s = .next (endStep (updThr (atSlot s e t) e t f) e t (decide ((slotThr s e t).st = 3))) := by
  obtain ⟨npc, hd⟩ : ∃ npc, (slotThr s e t).dslot = some (npc, true) := by
    rw [annulled] at ha
    rcases h : (slotThr s e t).dslot with _ | ⟨npc, _ | _⟩ <;> simp_all
  unfold ngInstr
  rw [hi, if_neg (by decide)]
  dsimp only
  rw [← atSlot, ← slotThr, hd]
  exact ⟨_, rfl⟩

theorem framed_ngInstr (hu : ngInstr e t slots ct rsvd body s = .next u) (hb : ∀ z i, ResBeside e t z (body z i)) : Framed e t s u := by
  refine ⟨fun hi => ?_, fun hi => ?_⟩
  · have hslot := beside_atSlot s e t
    have hfault (i code : Nat) : Beside e t (beforeSlot s e t) (ngFault (atSlot s e t) e t i code) := hslot.trans (Beside.fault ..)
    cases ha : annulled (slotThr s e t) with
    | true =>
      obtain ⟨f, hf⟩ := ngInstr_annulled (slots := slots) (ct := ct) (rsvd := rsvd) (body := body) hi ha
      obtain rfl := Host.Outcome.next.inj (hf.symm.trans hu)
      exact hslot.trans ((Beside.updThr ..).trans (Beside.endStep ..))
    | false =>
      rw [ngInstr_issues hi ha] at hu
      obtain rfl := Host.Outcome.next.inj hu
      split
      · exact hfault ..
      split
      · exact hfault ..
      split
      · exact hfault ..
      split
      · exact hfault ..
      · exact beside_outcome hslot slots ((hb _ _).trans (beside_checked s e t))
  · unfold ngInstr at hu
    rw [hi, Bool.not_false, if_pos rfl] at hu
    exact (Host.Outcome.next.inj hu).symm

/-! ## The shapes of instructions -/

theorem framed_ngThrOp {f : NgThread → Nat → NgThread} (hu : ngThrOp e t rsvd f s = .next u) : Framed e t s u :=
  framed_ngInstr hu fun _ _ => Beside.updThr ..

theorem framed_ngAlu {d : Fin 16} {f : NgThread → Word18 × Word18} (hu : ngAlu e t rsvd d f s = .next u) : Framed e t s u :=
  framed_ngInstr hu fun _ _ => Beside.updThr ..

theorem framed_ngLogic {d a b : Fin 16} {f : Word18 → Word18 → Word18} (hu : ngLogic e t d a b f s = .next u) : Framed e t s u :=
  framed_ngAlu hu

theorem framed_ngLogicI {d a : Fin 16} {imm : Word18} {f : Word18 → Word18 → Word18} (hu : ngLogicI e t d a imm f s = .next u) :
    Framed e t s u := framed_ngAlu hu

theorem framed_ngAccSum {f : Bool} {a : Fin 16} {op : Int → Int → Int} (hu : ngAccSum e t f a op s = .next u) : Framed e t s u :=
  framed_ngThrOp hu

theorem framed_ngDiv0 {uns : Bool} {d a b : Fin 16} (hu : ngDiv0 e t uns d a b s = .next u) : Framed e t s u := framed_ngThrOp hu

theorem framed_ngBranch {f : NgThread → Nat → NgThread × Word18 × Bool × Bool} (hu : ngBranch e t rsvd f s = .next u) : Framed e t s u := by
  refine framed_ngInstr hu fun z i => ?_
  dsimp only
  split
  · trivial
  · exact Beside.updThr ..

theorem framed_ngFeed {a : Fin 16} {n : Nat} (hu : ngFeed e t slots rsvd a n s = .next u) : Framed e t s u :=
  framed_ngInstr hu fun z _ => Beside.feed z fun c => { c with feeds := c.feeds ++ [_] }

theorem framed_ngMfc {d : Fin 16} {cr : Fin 256} (hu : execNgMfc e t d cr s = .next u) : Framed e t s u := by
  refine framed_ngInstr hu fun z i => ?_
  dsimp only
  split
  · trivial
  · exact Beside.updThr ..

theorem framed_ngMtc {a : Fin 16} {cr : Fin 256} (hu : execNgMtc e t a cr s = .next u) : Framed e t s u := by
  refine framed_ngInstr hu fun z i => ?_
  split
  · trivial
  · exact Beside.updThr ..

theorem framed_ngPopr {d : Fin 16} (hu : execNgPopr e t d s = .next u) : Framed e t s u := by
  refine framed_ngInstr hu fun z i => ?_
  dsimp only
  split
  · split
    · split
      · exact Beside.trans (Beside.updThr ..) (Beside.setSource ..)
      · exact Beside.trans (Beside.updThr ..) (Beside.endSource ..)
    · trivial
  · trivial

theorem framed_ngRete (hu : execNgRete e t s = .next u) : Framed e t s u := by
  refine framed_ngInstr hu fun z i => ?_
  dsimp only
  split
  · exact Beside.refl z
  · exact Beside.updThr ..

theorem framed_ngLoop {k a : Fin 16} {endA : Word18} (hu : execNgLoop e t k a endA s = .next u) : Framed e t s u := by
  refine framed_ngInstr hu fun z i => ?_
  dsimp only
  split
  · trivial
  · exact Beside.updThr ..

theorem framed_ngUnallocated {x : BitVec 36} {code : Nat} (hx : ngEncFault x = some code) (hu : execNgUnallocated e t x s = .next u) :
    Framed e t s u := by
  rw [execNgUnallocated, hx] at hu
  exact framed_ngInstr hu fun _ _ => trivial

/-! ## Every register instruction -/

theorem framed_named {e₀ : Fin 512} {t₀ : Fin 4} (h : some (e₀, t₀) = some (e, t)) (hf : Framed e₀ t₀ s u) : Framed e t s u := by
  obtain ⟨rfl, rfl⟩ := Prod.mk.inj (Option.some.inj h)
  exact hf

theorem framed_registerRow {c : Instr} (h : registerRow c = some (e, t)) (hu : exec c s = .next u) : Framed e t s u := by
  cases c with
  | ngAdd | ngSub | ngAdc | ngSbc | ngAbs | ngNeg | ngMov | ngSll | ngSrl | ngSra | ngRor | ngSlli | ngSrli | ngSrai | ngRori | ngAddi | ngSubi
  | ngMovi | ngMul | ngMulf | ngExtr =>
    unfold exec at hu
    exact framed_named h (framed_ngAlu hu)
  | ngAnd | ngOr | ngXor | ngAndn | ngMin | ngMax | ngNot | ngMulh | ngMulhu =>
    unfold exec at hu
    exact framed_named h (framed_ngLogic hu)
  | ngAndi | ngOri | ngXori =>
    unfold exec at hu
    exact framed_named h (framed_ngLogicI hu)
  | ngCmp | ngTst | ngCmpi | ngNop | ngMac2 | ngMpy2 | ngMacs | ngAclr | ngDstep | ngDivf | ngEdi | ngEei =>
    unfold exec at hu
    exact framed_named h (framed_ngThrOp hu)
  | ngAadd | ngAsub =>
    unfold exec at hu
    exact framed_named h (framed_ngAccSum hu)
  | ngDiv0 | ngDiv0u =>
    unfold exec at hu
    exact framed_named h (framed_ngDiv0 hu)
  | ngBr | ngBz | ngBnz | ngBltz | ngBgez | ngBlez | ngBgtz | ngCall | ngJr | ngJalr =>
    unfold exec at hu
    exact framed_named h (framed_ngBranch hu)
  | ngFbyte | ngFhalf | ngFword | ngFbits =>
    unfold exec at hu
    exact framed_named h (framed_ngFeed hu)
  | ngMfc =>
    unfold exec at hu
    exact framed_named h (framed_ngMfc hu)
  | ngMtc =>
    unfold exec at hu
    exact framed_named h (framed_ngMtc hu)
  | ngPopr =>
    unfold exec at hu
    exact framed_named h (framed_ngPopr hu)
  | ngRete =>
    unfold exec at hu
    exact framed_named h (framed_ngRete hu)
  | ngLoop =>
    unfold exec at hu
    exact framed_named h (framed_ngLoop hu)
  | ngHalt | ngWait =>
    unfold exec at hu
    exact framed_named h (framed_ngInstr hu fun z _ => Beside.refl z)
  | ngSig =>
    unfold exec at hu
    exact framed_named h (framed_ngInstr hu fun _ _ => Beside.setSource ..)
  | ngClre =>
    unfold exec at hu
    exact framed_named h (framed_ngInstr hu fun _ _ => Beside.clearSource ..)
  | ngUnallocated e₀ t₀ x =>
    unfold exec at hu
    obtain ⟨code, hx, hat⟩ := Option.map_eq_some_iff.1 h
    exact framed_named (congrArg some hat) (framed_ngUnallocated hx hu)
  | _ => exact nomatch h

/-! ## The statement -/

theorem sameOutside_advanceTo (s : State) (t : Nat) : SameOutside s (advanceTo s t) :=
  ⟨advanceTo_sram .., advanceTo_dram .., advanceTo_eeprom .., advanceTo_clusters .., advanceTo_movers .., advanceTo_l2s .., advanceTo_sc ..,
    advanceTo_fab .., advanceTo_tyl .., advanceTo_doms .., advanceTo_sage ..⟩

theorem sameOutside_trans {a b c : State} (hab : SameOutside a b) (hbc : SameOutside b c) : SameOutside a c := by
  obtain ⟨h1, h2, h3, h4, h5, h6, h7, h8, h9, h10, h11⟩ := hab
  rw [SameOutside, ← h1, ← h2, ← h3, ← h4, ← h5, ← h6, ← h7, ← h8, ← h9, ← h10, ← h11]
  exact hbc

theorem sameOutside_beforeSlot (s : State) (e : Fin 512) (t : Fin 4) : SameOutside s (beforeSlot s e t) :=
  sameOutside_trans (sameOutside_of_still (stillOf_cellsAt ..)) (sameOutside_advanceTo ..)

theorem engMem_beforeSlot (s : State) (e e' : Fin 512) (t : Fin 4) : engMem (eng (beforeSlot s e t) e') = engMem (eng s e') := by
  rw [beforeSlot, eng_advanceTo]
  exact engMem_of_still (stillOf_cellsAt ..) e'

theorem noIssue_eq (s : State) (e : Fin 512) (t : Fin 4) :
    noIssue s e t = s ∨ ∃ w, badFetch s e t = some w ∧ noIssue s e t = lmStop (advanceTo s (nextSlot s e t)) e w := by
  unfold noIssue
  rcases badFetch s e t with _ | w
  · exact .inl rfl
  · cases slotFree s e t with
    | true => exact .inr ⟨w, rfl, rfl⟩
    | false => exact .inl rfl

/-- Settles O43: an instruction touches its own thread, and reaches the others by event sources only. -/
theorem engineInstructionFrame : Obligations.EngineInstructionFrame := by
  intro c s u e t hrow hu
  obtain ⟨hissues, hnot⟩ := framed_registerRow hrow hu
  refine ⟨fun hi => ?_, fun hi => ?_⟩
  · obtain ⟨hstill, hcells, hothers, hthreads⟩ := hissues hi
    have hmem := (engMem_of_still hstill e).trans (engMem_beforeSlot s e e t)
    obtain ⟨hlm, hbad, hce, -⟩ : (eng u e).lm = (eng s e).lm ∧ (eng u e).lmBad = (eng s e).lmBad ∧ (eng u e).lmCe = (eng s e).lmCe ∧
        (eng u e).zero = (eng s e).zero := by simpa only [engMem, Prod.mk.injEq] using hmem
    exact ⟨sameOutside_trans (sameOutside_beforeSlot s e t) (sameOutside_of_still hstill), field_of_still State.dt (fun _ => rfl) hstill, hcells,
      field_of_still State.cores (fun _ => rfl) hstill, hothers, hlm, hbad, hce, hthreads⟩
  · rw [hnot hi]
    exact noIssue_eq s e t

end Sys2Proof.Machine
end

section
/-!
PROOFS. O45: the register writes on their way, in the order in which they take effect (R371, R376, R377).
-/

namespace Sys2Proof.Machine

open Sys2Proof.Claims

/-! ## The order of writes -/

theorem pendOrder_iff {a b : PendWr} : pendOrder a b = true ↔ a.due < b.due ∨ (a.due = b.due ∧ (b.load = true ∨ a.load = false)) := by
  simp [pendOrder]

theorem pendOrder_trans (a b c : PendWr) (hab : pendOrder a b = true) (hbc : pendOrder b c = true) : pendOrder a c = true := by
  rw [pendOrder_iff] at *
  grind

theorem pendOrder_total (a b : PendWr) : (pendOrder a b || pendOrder b a) = true := by
  rw [Bool.or_eq_true, pendOrder_iff, pendOrder_iff]
  grind

theorem pendOrder_refl (a : PendWr) : pendOrder a a = true := by
  rw [pendOrder_iff]
  grind

/-- A write that comes after every other one is made last: equal ones are made in the order of their issue. -/
theorem sorted_last {l : List PendWr} {w : PendWr} (h : ∀ x ∈ l, pendOrder x w = true) :
    ∃ front, (l ++ [w]).mergeSort pendOrder = front ++ [w] := by
  have hperm := List.mergeSort_perm (l ++ [w]) pendOrder
  obtain hnil | ⟨front, y, hsort⟩ := List.eq_nil_or_concat ((l ++ [w]).mergeSort pendOrder)
  · rw [hnil] at hperm
    exact absurd hperm.symm.eq_nil (by simp)
  rw [List.concat_eq_append] at hsort
  suffices hy : y = w from ⟨front, hy ▸ hsort⟩
  by_contra hy
  have hstable : (l.filter (· = y) ++ [w]).Sublist (front ++ [y]) := by
    rw [← hsort]
    refine List.sublist_mergeSort pendOrder_trans pendOrder_total ?_ (List.filter_sublist.append_right _)
    refine List.pairwise_append.2 ⟨?_, List.pairwise_singleton _ _, fun a ha b hb => ?_⟩
    · refine List.Pairwise.imp_of_mem (fun ha hb _ => ?_) (List.pairwise_of_forall fun _ _ => trivial)
      rw [of_decide_eq_true (List.mem_filter.1 ha).2, of_decide_eq_true (List.mem_filter.1 hb).2]
      exact pendOrder_refl y
    · rw [List.mem_singleton.1 hb]
      exact h a (List.mem_filter.1 ha).1
  have hfront : (l.filter (· = y) ++ [w]).Sublist front := by
    have hrev := hstable.reverse
    rw [List.reverse_append, List.reverse_append, List.reverse_singleton, List.singleton_append, List.reverse_singleton, List.singleton_append,
      List.sublist_cons_iff] at hrev
    rcases hrev with hrev | ⟨r, hr, -⟩
    · simpa using hrev.reverse
    · exact absurd (List.cons.inj hr).1 (Ne.symm hy)
  have hcount := hfront.count_le y
  have htotal := hperm.count_eq y
  rw [hsort, List.count_append, List.count_append, List.count_singleton_self, List.count_singleton, if_neg (by simpa using Ne.symm hy)] at htotal
  rw [List.count_append, List.count_filter (by simp)] at hcount
  omega

/-! ## A register after the writes that are due -/

/-- The writes made in an order, on a register file. -/
def madeOn (l : List PendWr) (m : SMap Word18) : SMap Word18 := l.foldl (fun m w => SMap.set 0 m w.reg w.val) m

theorem madeOn_append (l l' : List PendWr) (m : SMap Word18) : madeOn (l ++ l') m = madeOn l' (madeOn l m) := List.foldl_append

theorem get_madeOn_last (l : List PendWr) (w : PendWr) (m : SMap Word18) : SMap.get 0 (madeOn (l ++ [w]) m) w.reg = w.val := by
  rw [madeOn_append]
  exact SMap.get_set ..

theorem get_madeOn_other {l : List PendWr} {r : Nat} (h : ∀ x ∈ l, x.reg ≠ r) (m : SMap Word18) : SMap.get 0 (madeOn l m) r = SMap.get 0 m r := by
  induction l generalizing m with
  | nil => rfl
  | cons x l ih =>
    rw [madeOn, List.foldl_cons, ← madeOn, ih fun y hy => h y (List.mem_cons_of_mem _ hy),
      SMap.get_set_other _ _ _ (Ne.symm (h x List.mem_cons_self))]

/-- The writes of a register that agree give it their value, in whatever order they are made. -/
theorem get_madeOn_agree {l : List PendWr} {w : PendWr} (hw : w ∈ l) (hl : ∀ x ∈ l, x.reg = w.reg → x.val = w.val) (m : SMap Word18) :
    SMap.get 0 (madeOn l m) w.reg = w.val := by
  induction l using List.reverseRecOn with
  | nil => exact absurd hw List.not_mem_nil
  | append_singleton l x ih =>
    by_cases hx : x.reg = w.reg
    · rw [← hx, get_madeOn_last, hl x (by simp) hx]
    · have hmem : w ∈ l := (List.mem_append.1 hw).resolve_right fun h => hx (by rw [List.mem_singleton.1 h])
      rw [madeOn_append, get_madeOn_other (by simpa using hx), ih hmem fun y hy => hl y (List.mem_append_left _ hy)]

theorem settleRegs_n (th : NgThread) (q : Nat) : (settleRegs th q).n = madeOn ((th.pend.filter fun w => w.due < q).mergeSort pendOrder) th.n := rfl

theorem ngReg_settleRegs_last {th : NgThread} {l : List PendWr} {w : PendWr} {q : Nat} (hp : th.pend = l ++ [w]) (hq : w.due < q)
    (hl : ∀ x ∈ l, pendOrder x w = true) (hr : w.reg < 16) : ngReg (settleRegs th q) w.reg = w.val := by
  obtain ⟨front, hfront⟩ := sorted_last (l := l.filter fun w => w.due < q) (w := w) fun x hx => hl x (List.mem_filter.1 hx).1
  rw [ngReg, Nat.mod_eq_of_lt hr, settleRegs_n, hp, List.filter_append, List.filter_singleton, decide_eq_true hq, cond_true, hfront, get_madeOn_last]

theorem ngReg_settleRegs_other {th : NgThread} {q r : Nat} (h : ∀ x ∈ th.pend, x.due < q → x.reg ≠ r % 16) :
    ngReg (settleRegs th q) r = ngReg th r := by
  rw [ngReg, settleRegs_n, get_madeOn_other, ngReg]
  intro x hx
  obtain ⟨hx, hq⟩ := List.mem_filter.1 (List.mem_mergeSort.1 hx)
  exact h x hx (of_decide_eq_true hq)

theorem ngReg_settleRegs_agree {th : NgThread} {w : PendWr} {q : Nat} (hw : w ∈ th.pend) (hq : w.due < q) (hr : w.reg < 16)
    (hl : ∀ x ∈ th.pend, x.reg = w.reg → x.val = w.val) : ngReg (settleRegs th q) w.reg = w.val := by
  rw [ngReg, Nat.mod_eq_of_lt hr, settleRegs_n]
  refine get_madeOn_agree (List.mem_mergeSort.2 (List.mem_filter.2 ⟨hw, decide_eq_true hq⟩)) (fun x hx => ?_) _
  exact hl x (List.mem_filter.1 (List.mem_mergeSort.1 hx)).1

/-! ## A remote answer that is due (R371, R377) -/

/-- The write that a remote answer becomes. -/
def answerWrite (p : RPrd) : PendWr := { due := p.due, reg := p.reg, val := p.val.getD 0, load := true }

/-- A word on its way to a register that was read from ST sees RL of a late answer. -/
def seeLate (late : Bool) (p : RPrd) (w : PendWr) : PendWr :=
  { w with val := if late && w.st.any (fun x => lateSeen p x) then setBit w.val 15 true else w.val }

theorem settlePrds_single {th : NgThread} {p : RPrd} {q : Nat} (hp : th.prds = [p]) (hq : p.due < q) :
    (settlePrds th q).pend = th.pend.map (seeLate p.val.isNone p) ++ [answerWrite p] ∧ (settlePrds th q).prds = [] ∧
      (settlePrds th q).sw = if p.val.isNone = true ∧ p.cut.isNone = true then setBit th.sw 15 true else th.sw := by
  have hnow : (th.prds.filter fun p => p.due < q) = [p] := by
    rw [hp, List.filter_singleton, decide_eq_true hq, cond_true]
  unfold settlePrds
  dsimp only
  rw [hnow]
  refine ⟨?_, ?_, ?_⟩
  · congr 1
    refine List.map_congr_left fun w _ => ?_
    rcases hv : p.val with _ | v <;> simp [seeLate, hv]
  · simp [hp, hq]
  · rcases hv : p.val with _ | v <;> simp [hv]

theorem pendOrder_answer {p : RPrd} {x : PendWr} (h : x.due ≤ p.due) : pendOrder x (answerWrite p) = true := by
  rw [pendOrder_iff]
  exact (Nat.lt_or_eq_of_le h).imp_right fun h => ⟨h, .inl rfl⟩

/-- An answer that is due gives its register, with RL where it failed. -/
theorem settle_answer {th : NgThread} {p : RPrd} {q : Nat} (hp : th.prds = [p]) (hq : p.due < q) (hr : p.reg < 16)
    (hl : ∀ x ∈ th.pend, x.due ≤ p.due) :
    ngReg (settle th q) p.reg = p.val.getD 0 ∧ (settle th q).prds = [] ∧
      (settle th q).sw = if p.val.isNone = true ∧ p.cut.isNone = true then setBit th.sw 15 true else th.sw := by
  obtain ⟨hpend, hprds, hsw⟩ := settlePrds_single hp hq
  refine ⟨ngReg_settleRegs_last (w := answerWrite p) hpend hq (fun x hx => ?_) hr, hprds, hsw⟩
  obtain ⟨y, hy, rfl⟩ := List.mem_map.1 hx
  exact pendOrder_answer (hl y hy)

/-- A word read from ST after a late answer's tick shows RL. -/
theorem settle_late {th : NgThread} {p : RPrd} {w : PendWr} {x q : Nat} (hp : th.prds = [p]) (hw : th.pend = [w]) (hval : p.val = none)
    (hcut : p.cut = none) (hx : p.due < x) (hpq : p.due < q) (hwq : w.due < q) (hr : w.reg < 16) (hne : p.reg ≠ w.reg) (hst : w.st = some x) :
    bit (ngReg (settle th q) w.reg) 15 = true := by
  obtain ⟨hpend, -, -⟩ := settlePrds_single hp hpq
  have hsee : seeLate p.val.isNone p w = { w with val := setBit w.val 15 true } := by
    simp [seeLate, hval, hst, lateSeen, hcut, hx]
  rw [hw, List.map_singleton, hsee] at hpend
  have hread : ngReg (settle th q) w.reg = setBit w.val 15 true := by
    refine ngReg_settleRegs_agree (w := { w with val := setBit w.val 15 true }) (by simp [hpend]) hwq hr fun y hy hreg => ?_
    rw [hpend] at hy
    rcases List.mem_cons.1 hy with rfl | hy
    · rfl
    · rw [List.mem_singleton.1 hy] at hreg
      exact absurd hreg hne
  rw [hread, bit_setBit _ _ _ (by decide), if_pos rfl]

/-- Settles O45: the last write that is due is the one that a register reads. -/
theorem resultDistances : Obligations.ResultDistances :=
  ⟨fun _ _ _ _ _ => ⟨fun hp hq hl hr => ngReg_settleRegs_last hp hq (List.all_eq_true.1 hl) hr, fun h => ngReg_settleRegs_other fun x hx hq => by
      have := List.all_eq_true.1 h x hx
      simp only [Bool.or_eq_true, decide_eq_true_eq] at this
      omega⟩,
    fun _ _ _ _ _ hp hw hval hcut hx hpq hwq hr hne hst => settle_late hp hw hval hcut hx hpq hwq hr hne hst,
    fun _ _ _ hp hq hr hl => settle_answer hp hq hr fun x hx => of_decide_eq_true (List.all_eq_true.1 hl x hx)⟩

end Sys2Proof.Machine
end

section
/-!
PROOFS. O46: thread control, entries and waits, time matches and the check-value unit (R378 to R396, R420).
-/

namespace Sys2Proof.Machine

open Sys2Proof.Claims

/-! ## Halts and entries (R381, R388 to R390) -/

theorem haltApplied_holds : HaltApplied := by
  intro s e t hst hds hent hdue
  refine congrArg Host.Outcome.next (if_pos ⟨hst, ?_, ?_, hdue⟩)
  · simpa using hds
  · simpa using hent

/-- An entry of a thread as settled: by tail re-entry where it has left a level, else with its own return address. -/
def enterFrom (u : State) (e : Fin 512) (t : Fin 4) (l i : Nat) (th : NgThread) : State :=
  match th.rete with
  | some q => enterNg (updThr u e t fun _ => { th with active := dropLevel th.active q }) e t l i (SMap.get 0 th.spc q) (SMap.get 0 th.sst q) th.sw
  | none => enterNg (updThr u e t fun _ => th) e t l i th.pc th.sw th.sw

theorem execEventEntry_free {s : State} {e : Fin 512} {t : Fin 4} {l : Nat} (h : SlotFree s e t) (hd : haltDue (thr s e t) (nextSlot s e t) = false)
    (hl : selectLevel (advanceTo (selectState s e (nextSlot s e t)) (nextSlot s e t - 2)) e t (nextSlot s e t) = some l) :
    execEventEntry e t s = .next (enterFrom (advanceTo (selectState s e (nextSlot s e t)) (nextSlot s e t - 2)) e t l (nextSlot s e t)
      (settlePrds (thr (advanceTo (selectState s e (nextSlot s e t)) (nextSlot s e t - 2)) e t) (nextSlot s e t))) := by
  obtain ⟨hup, hex, hblk, hst, hds, hent, hcm, hmatch⟩ := h
  unfold execEventEntry
  dsimp only
  rw [if_neg (by simp [hup, hex, hblk, hst, hds, hent, hcm, hmatch, hd]), hl]
  rfl

theorem eventEntry_holds : EventEntry := by
  intro s e t l h hd i u hl th
  have hrun : exec (.eventEntry e t) s = .next (enterFrom u e t l i th) := execEventEntry_free h hd hl
  refine ⟨fun hr => ?_, fun q hr => ?_⟩
  · rw [hrun, enterFrom, hr]
  · rw [hrun, enterFrom, hr]
    rfl

/-- The source that an entry takes: the lowest pending one of its level. -/
def entrySrc (s : State) (e : Fin 512) (t : Fin 4) (l slot : Nat) : Nat := (pendingOf s e t l (slot - 3)).headD 0

/-- The thread that an entry makes, before an AUTOCLR source clears. -/
def enteredThr (s : State) (e : Fin 512) (t : Fin 4) (l slot : Nat) (ret st cur : Word18) (th : NgThread) : NgThread :=
  { th with
      spc := SMap.set 0 th.spc l ret
      sst := SMap.set 0 th.sst l st
      active := th.active ||| 2 ^ (l - 1)
      level := l
      sw := setFld cur 12 3 0
      src := entrySrc s e t l slot
      pc := evVecAt s e t l (slot - 3)
      next := slot
      entered := true
      rete := none }

theorem enterNg_eq (s : State) (e : Fin 512) (t : Fin 4) (l slot : Nat) (ret st cur : Word18) :
    enterNg s e t l slot ret st cur = if bit (evMapAt s e (entrySrc s e t l slot) (slot - 3)) 4 = true then
        clearSource (updThr s e t (enteredThr s e t l slot ret st cur)) e (entrySrc s e t l slot) slot
      else updThr s e t (enteredThr s e t l slot ret st cur) := rfl

/-- A clear changes of a thread only what its loads of event words tell. -/
theorem thr_clearSource (s : State) (e : Fin 512) (k tick : Nat) (t : Fin 4) :
    ∃ u, thr (clearSource s e k tick) e t = freshPend u e (thr s e t) := by
  refine ⟨_, (thr_freshLoads ..).trans (congrArg _ ?_)⟩
  exact thr_changeSources s e t fun m => SMap.upd {} m k fun x => clearSpan x tick

theorem evSrc_freshLoads (s : State) (e : Fin 512) (j : Nat) : evSrc (freshLoads s e) e j = evSrc s e j := by
  rw [evSrc, freshLoads_eq, eng_updEng, evSrc]

theorem evSrc_clearSource_same (s : State) (e : Fin 512) (k tick : Nat) : evSrc (clearSource s e k tick) e k = clearSpan (evSrc s e k) tick := by
  rw [clearSource, evSrc_freshLoads, evSrc, eng_updEng]
  exact SMap.get_upd {} (eng s e).srcs k (clearSpan · tick)

theorem evSrc_clearSource_other (s : State) (e : Fin 512) {k j : Nat} (tick : Nat) (h : j ≠ k) :
    evSrc (clearSource s e k tick) e j = evSrc s e j := by
  rw [clearSource, evSrc_freshLoads, evSrc, eng_updEng]
  exact SMap.get_upd_other {} (eng s e).srcs (clearSpan · tick) h

theorem evSrc_updThr (s : State) (e : Fin 512) (t : Fin 4) (f : NgThread → NgThread) (j : Nat) : evSrc (updThr s e t f) e j = evSrc s e j := by
  rw [evSrc, updThr, eng_updEng, evSrc]

theorem bit_setFld {w lo n : Nat} (v : BitVec w) (x j : Nat) (h : j < lo ∨ lo + n ≤ j) : bit (setFld v lo n x) j = bit v j := by
  rw [bit, getLsbD_setFld, if_neg (by omega), bit]

theorem bit_setFld_zero {w lo n j : Nat} (v : BitVec w) (hlo : lo ≤ j) (hj : j < lo + n) : bit (setFld v lo n 0) j = false := by
  rw [bit, getLsbD_setFld, if_pos ⟨hlo, hj⟩, Nat.zero_testBit, Bool.and_false]

section

variable (s : State) (e : Fin 512) (t : Fin 4) (l slot : Nat) (ret st cur : Word18)

theorem thr_enterNg_plain (h : bit (evMapAt s e (entrySrc s e t l slot) (slot - 3)) 4 = false) :
    thr (enterNg s e t l slot ret st cur) e t = enteredThr s e t l slot ret st cur (thr s e t) := by
  rw [enterNg_eq, if_neg (by simpa using h), thr_updThr]

theorem thr_enterNg : SameThread (enteredThr s e t l slot ret st cur (thr s e t)) (thr (enterNg s e t l slot ret st cur) e t) := by
  cases h : bit (evMapAt s e (entrySrc s e t l slot) (slot - 3)) 4 with
  | false =>
    rw [thr_enterNg_plain s e t l slot ret st cur h]
    exact sameThread_refl _
  | true =>
    obtain ⟨u, hu⟩ := thr_clearSource (updThr s e t (enteredThr s e t l slot ret st cur)) e (entrySrc s e t l slot) slot t
    rw [enterNg_eq, if_pos h]
    rw [hu, thr_updThr]
    exact sameThread_freshPend ..

theorem evSrc_enterNg_other {j : Nat} (hj : j ≠ entrySrc s e t l slot) : evSrc (enterNg s e t l slot ret st cur) e j = evSrc s e j := by
  rw [enterNg_eq]
  split
  · exact (evSrc_clearSource_other _ _ _ hj).trans (evSrc_updThr ..)
  · exact evSrc_updThr ..

theorem evSrc_enterNg_auto (h : bit (evMapAt s e (entrySrc s e t l slot) (slot - 3)) 4 = true) :
    evSrc (enterNg s e t l slot ret st cur) e (entrySrc s e t l slot) = clearSpan (evSrc s e (entrySrc s e t l slot)) slot := by
  rw [enterNg_eq, if_pos h]
  exact (evSrc_clearSource_same ..).trans (congrArg (clearSpan · slot) (evSrc_updThr ..))

end

theorem entered_holds : Entered := by
  intro s e t l slot ret st cur hl k th
  obtain ⟨hth, hlen, hpend⟩ := thr_enterNg s e t l slot ret st cur
  have hsw : th.sw = setFld cur 12 3 0 := congrArg NgThread.sw hth
  refine ⟨?_, ?_, (congrArg NgThread.active hth :), (congrArg NgThread.level hth :), (congrArg NgThread.src hth :), (congrArg NgThread.pc hth :),
    (congrArg NgThread.next hth :), fun j hj => ?_, fun j hlo hhi => ?_, (congrArg NgThread.n hth :), fun h => ?_, hlen, fun j w hw hev => ?_,
    (congrArg NgThread.acc0 hth :), (congrArg NgThread.acc1 hth :), fun j => evSrc_enterNg_other s e t l slot ret st cur,
    evSrc_enterNg_auto s e t l slot ret st cur⟩
  · exact (congrArg (fun x => SMap.get 0 (NgThread.spc x) l) hth :).trans (SMap.get_set ..)
  · exact (congrArg (fun x => SMap.get 0 (NgThread.sst x) l) hth :).trans (SMap.get_set ..)
  · rw [hsw, bit_setFld _ _ _ hj]
  · rw [hsw, bit_setFld_zero _ hlo hhi]
  · exact (congrArg NgThread.pend (thr_enterNg_plain s e t l slot ret st cur h) :)
  · obtain ⟨v, hv, hval⟩ := hpend j w hw
    rw [hval hev] at hv
    exact hv

/-- The highest of the levels with a property. -/
theorem find_level {p : Nat → Bool} {l : Nat} : [3, 2, 1].find? p = some l ↔ 1 ≤ l ∧ l ≤ 3 ∧ p l = true ∧ ∀ l', l < l' → l' ≤ 3 → p l' = false := by
  constructor
  · intro h
    cases h3 : p 3 <;> cases h2 : p 2 <;> cases h1 : p 1 <;> simp [h3, h2, h1] at h
    all_goals
      subst h
      refine ⟨by omega, by omega, by assumption, fun l' hlo hhi => ?_⟩
      interval_cases l' <;> assumption
  · rintro ⟨hlo, hhi, hp, habove⟩
    interval_cases l
    · simp [hp, habove 3, habove 2]
    · simp [hp, habove 3]
    · simp [hp]

theorem selected_holds : Selected := by
  intro s e t slot l hst hen
  have hsel : selectLevel s e t slot = [3, 2, 1].find? fun l => entryLevel (thr s e t) < l && pendingOf s e t l (slot - 3) ≠ [] :=
    if_neg (by simp [hst, hen])
  refine ⟨?_, fun k => ?_⟩
  · rw [hsel, find_level]
    simp only [Bool.and_eq_true, decide_eq_true_eq]
    refine ⟨fun ⟨hlo, hhi, ⟨hlev, hp⟩, habove⟩ => ⟨hlo, hhi, hlev, hp, fun l' h h3 => ?_⟩,
      fun ⟨hlo, hhi, hlev, hp, habove⟩ => ⟨hlo, hhi, ⟨hlev, hp⟩, fun l' h h3 => ?_⟩⟩
    · have hnot := habove l' h h3
      simpa [hlev.trans h] using hnot
    · simp [habove l' h h3]
  · simp [pendingOf]

theorem notSelected_holds : NotSelected := by
  intro s e t slot h
  refine if_pos (h.imp_right fun h => ?_)
  rw [h]
  rfl

/-! ## Waits and time matches (R394, R395) -/

theorem waitEnd_holds : WaitEnd := by
  intro s e t x hst hend hmatch u v
  refine congrArg Host.Outcome.next ?_
  rw [if_neg (not_not.2 hst), hend]
  dsimp only
  rw [hmatch]
  rfl

theorem matchUpTo_before {s : State} {e : Fin 512} {t : Fin 4} {w : Nat} (h : ∀ m, matchTick (thr s e t) = some m → w < m) :
    matchUpTo s e t w = s := by
  unfold matchUpTo
  split
  · exact if_neg (Nat.not_le.2 (h _ ‹_›))
  · rfl

theorem matchUpTo_due {s : State} {e : Fin 512} {t : Fin 4} {w m : Nat} (h : matchTick (thr s e t) = some m) (hm : m ≤ w) :
    matchUpTo s e t w = setSource (updThr s e t fun th => { th with armed := none }) e (52 + t.val) m := by
  unfold matchUpTo
  rw [h]
  exact if_pos hm

theorem timeMatch_holds : TimeMatch := by
  intro s e t v low high made
  have harm (h : engUp s = true) : exec (.tcmpArm e t v) s = .next (high (matchUpTo s e t s.dt)) := congrArg Host.Outcome.next (if_pos h)
  have hdis (h : engUp s = true) : exec (.tcmpDisarm e t v) s = .next (low (matchUpTo s e t s.dt)) := congrArg Host.Outcome.next (if_pos h)
  have htime : exec (.timeMatch e t) s = execTimeMatch e t s := rfl
  refine ⟨fun h hm => ?_, fun m h hm hdue => ?_, fun m h hm => ?_, fun hm => ?_, fun h => ⟨?_, ?_, ?_⟩⟩
  · rw [harm h, hdis h, matchUpTo_before hm]
    exact ⟨rfl, rfl⟩
  · rw [harm h, hdis h, matchUpTo_due hm hdue]
    exact ⟨rfl, rfl⟩
  · rw [htime, execTimeMatch, h, hm]
    rfl
  · rw [htime, execTimeMatch, hm]
    exact congrArg Host.Outcome.next (ite_self _)
  · exact congrArg Host.Outcome.next (if_neg (by simp [h]))
  · exact congrArg Host.Outcome.next (if_neg (by simp [h]))
  · exact congrArg Host.Outcome.next (if_pos (by simp [h]))

theorem matchTime_holds : MatchTime := by
  intro th w m harm hm
  rw [matchTick, harm, Option.map_some, Option.some.injEq] at hm
  dsimp only at hm
  have hlow := th.tcmpL.isLt
  have hhigh := th.tcmpH.isLt
  omega

/-! ## The check-value unit (R420, R422) -/

theorem checkUnit_holds : CheckUnit := by
  intro s e v h c
  have hload : exec (.cvLoad e v) s = .next (cvStore s e 9 v s.dt) := congrArg Host.Outcome.next (if_pos h)
  have hcfg : exec (.cvCfgWrite e v) s = .next (cvStore s e 0 v s.dt) := congrArg Host.Outcome.next (if_pos h)
  refine ⟨hload, hcfg.trans ?_⟩
  by_cases hw : fld v 0 5 < 2
  · rw [cvStore, cvWrite]
    dsimp only
    rw [if_pos hw, if_pos hw]
  · rw [cvStore, cvWrite]
    dsimp only
    rw [if_neg hw, if_neg hw]
    rfl

/-! ## Sources (R387) -/

theorem sourceSpans_holds : SourceSpans := by
  rintro ⟨spans, clears⟩ u c k rfl huc
  refine ⟨?_, ?_⟩
  · rintro rfl
    simp [setSpan, clearSpan, endSpan, spanOver, pendingAt, huc]
  · rintro a rfl hau
    rcases Nat.lt_or_eq_of_le hau with h | rfl
    · have hne : a ≠ u := by omega
      have hor : (u ≤ k ∨ a ≤ k ∧ k < u) ↔ a ≤ k := by omega
      simp [setSpan, clearSpan, endSpan, spanOver, pendingAt, h, hne]
      rw [Bool.eq_iff_iff]
      simpa using hor
    · simp [setSpan, clearSpan, endSpan, spanOver, pendingAt]

/-! ## THR_CTRL (R378 to R382) -/

/-- The tick of a requested halt: an earlier request stands. -/
def haltTick (th : NgThread) (w : Nat) : Nat :=
  match th.haltAt with
  | some x => min x w
  | none => w

theorem thrCtrl_halted {s : State} {e : Fin 512} {t : Fin 4} {v : Word18} {w : Nat} (hst : (thr s e t).st = 0) (hex : threadExists s e t = true)
    (hstr : strStopped s (16 + e.val / 16) = false) :
    thrCtrl s e t v w = if engUp s = true ∧ (bit v 0 = true ∨ bit v 2 = true) then updThr s e t fun th =>
      { th with st := if bit v 2 then 3 else 1, fault := 0, next := w + (if allHalted s e then 96 else 4), dslot := none, entered := false,
                rete := none, statWas := some (w, thrStat s e t w) } else s := by
  unfold thrCtrl
  dsimp only
  rw [if_pos hst]
  by_cases h : engUp s = true ∧ (bit v 0 = true ∨ bit v 2 = true)
  · rw [if_pos h, if_neg (by simp [hex, hstr, h.1]; grind)]
  · rw [if_neg h, if_pos (by simp [hex, hstr]; grind)]

theorem thrCtrl_running {s : State} {e : Fin 512} {t : Fin 4} {v : Word18} {w : Nat} (hst : (thr s e t).st ≠ 0) :
    thrCtrl s e t v w = if bit v 1 = true then waitHalt (updThr s e t fun th => { th with haltAt := some (haltTick (thr s e t) w) }) e t else s := by
  unfold thrCtrl
  dsimp only
  rw [if_neg hst]
  refine if_congr Iff.rfl (congrArg (waitHalt · e t) (updThr_congr ?_)) rfl
  rfl

theorem runHalt_holds : RunHalt := by
  intro s e t v w hex hstr h k
  have hk : (thr k e t).st = (thr s e t).st ∧ (thr k e t).haltAt = some h := by
    rw [show thr k e t = _ from thr_updThr ..]
    exact ⟨rfl, rfl⟩
  have hrun (hst : (thr s e t).st ≠ 0) (hb : bit v 1 = true) : thrCtrl s e t v w = waitHalt k e t := (thrCtrl_running hst).trans (if_pos hb)
  refine ⟨fun hst hb => ?_, fun hst h0 h2 => ?_, fun hst hb => ?_, fun hst hb => ?_, fun hst hb => ?_⟩
  · rw [thrCtrl_halted hst hex hstr]
    exact if_congr (and_iff_left hb) rfl rfl
  · rw [thrCtrl_halted hst hex hstr, if_neg (by simp [h0, h2])]
  · rw [hrun (by omega) hb, waitHalt, hk.1, hst, hk.2]
    rfl
  · rw [hrun (by omega) hb, waitHalt, hk.1, hk.2]
    rcases hst with hst | hst
    · rw [hst]
      rfl
    · rw [hst]
      rfl
  · rw [thrCtrl_running hst, if_neg (by simp [hb])]

/-- Settles O46: each command is its guard and one change of the state. -/
theorem threadControlAndEvents : Obligations.ThreadControlAndEvents :=
  ⟨haltApplied_holds, eventEntry_holds, entered_holds, selected_holds, notSelected_holds, waitEnd_holds, timeMatch_holds, matchTime_holds,
    checkUnit_holds, sourceSpans_holds, runHalt_holds⟩

end Sys2Proof.Machine
end

section
/-!
PROOFS. O25: the schedule of a port cell (R442 to R445).
-/

namespace Sys2Proof.Machine

open Sys2Proof.Claims

/-! ## The order of a cell's acts (R465) -/

/-- The earlier of what is due so far and an act that is due. -/
def earlier (s : State) (n : Fin 256) (key : Nat) (b : Option (CellAct × Nat)) (a : CellAct) : Option (CellAct × Nat) :=
  match actDue s n a with
  | some t => if actKey t a < (b.map fun x => actKey x.2 x.1).getD key then some (a, t) else b
  | none => b

/-- `b` is the first of the acts seen that is due before a place. -/
def FirstOf (s : State) (n : Fin 256) (key : Nat) (seen : List CellAct) : Option (CellAct × Nat) → Prop
  | none => ∀ a ∈ seen, ∀ t, actDue s n a = some t → key ≤ actKey t a
  | some (a, t) => actDue s n a = some t ∧ actKey t a < key ∧ ∀ b ∈ seen, ∀ u, actDue s n b = some u → actKey t a ≤ actKey u b

variable {s : State} {n : Fin 256} {key : Nat}

theorem firstOf_earlier {seen : List CellAct} {b : Option (CellAct × Nat)} (h : FirstOf s n key seen b) (a : CellAct) :
    FirstOf s n key (seen ++ [a]) (earlier s n key b a) := by
  unfold earlier
  rcases hd : actDue s n a with _ | t
  · have hnone (u : Nat) (x : CellAct) (hx : x = a) (hu : actDue s n x = some u) (p : Prop) : p := by
      rw [hx, hd] at hu
      exact absurd hu (by simp)
    rcases b with _ | ⟨b, u⟩
    · exact fun x hx v hv => (List.mem_append.1 hx).elim (fun hx => h x hx v hv) fun hx => hnone v x (List.mem_singleton.1 hx) hv _
    · exact ⟨h.1, h.2.1, fun x hx v hv => (List.mem_append.1 hx).elim (fun hx => h.2.2 x hx v hv) fun hx => hnone v x (List.mem_singleton.1 hx) hv _⟩
  · have hself (v : Nat) (x : CellAct) (hx : x ∈ [a]) (hv : actDue s n x = some v) : actKey v x = actKey t a := by
      rw [List.mem_singleton.1 hx] at hv ⊢
      rw [Option.some.inj (hd.symm.trans hv)]
    rcases b with _ | ⟨b, u⟩
    · dsimp only [Option.map_none, Option.getD_none]
      split
      next hlt =>
        refine ⟨hd, hlt, fun x hx v hv => (List.mem_append.1 hx).elim (fun hx => ?_) fun hx => (hself v x hx hv).ge⟩
        exact hlt.le.trans (h x hx v hv)
      next hge => exact fun x hx v hv => (List.mem_append.1 hx).elim (fun hx => h x hx v hv) fun hx => (hself v x hx hv).symm ▸ Nat.not_lt.1 hge
    · obtain ⟨hb, hkey, hmin⟩ := h
      dsimp only [Option.map_some, Option.getD_some]
      split
      next hlt =>
        exact ⟨hd, hlt.trans hkey, fun x hx v hv => (List.mem_append.1 hx).elim (fun hx => hlt.le.trans (hmin x hx v hv)) fun hx => (hself v x hx hv).ge⟩
      next hge =>
        exact ⟨hb, hkey, fun x hx v hv => (List.mem_append.1 hx).elim (fun hx => hmin x hx v hv) fun hx => (hself v x hx hv).symm ▸ Nat.not_lt.1 hge⟩

theorem firstOf_foldl (l : List CellAct) {seen : List CellAct} {b : Option (CellAct × Nat)} (h : FirstOf s n key seen b) :
    FirstOf s n key (seen ++ l) (l.foldl (earlier s n key) b) := by
  induction l generalizing seen b with
  | nil => rwa [List.append_nil]
  | cons a l ih => simpa using ih (firstOf_earlier h a)

/-- Every act that a cell can do. -/
def allActs : List CellAct := [.read, .capture, .rxIn, .txEnd, .stretch, .keep, .period, .sched, .sample, .write, .idle]

theorem mem_allActs (a : CellAct) : a ∈ allActs := by cases a <;> decide

theorem nextAct_first (s : State) (n : Fin 256) (key : Nat) : FirstOf s n key allActs (nextAct s n key) :=
  firstOf_foldl allActs (seen := []) (b := none) fun _ h => absurd h List.not_mem_nil

theorem nextAct_none (h : nextAct s n key = none) (a : CellAct) (t : Nat) (hd : actDue s n a = some t) : key ≤ actKey t a := by
  have hfirst := nextAct_first s n key
  rw [h] at hfirst
  exact hfirst a (mem_allActs a) t hd

theorem nextAct_some {a : CellAct} {t : Nat} (h : nextAct s n key = some (a, t)) :
    actDue s n a = some t ∧ actKey t a < key ∧ ∀ b u, actDue s n b = some u → actKey t a ≤ actKey u b := by
  have hfirst := nextAct_first s n key
  rw [h] at hfirst
  obtain ⟨hdue, hkey, hmin⟩ := hfirst
  exact ⟨hdue, hkey, fun b => hmin b (mem_allActs b)⟩

/-- Where nothing is due before a place, a cell does nothing. -/
theorem cellTo_idle (h : nextAct s n key = none) : cellTo n key s = s := by
  rw [cellTo, h]

theorem dueFirst_holds : DueFirst := by
  intro s n key k
  refine ⟨fun h => ⟨cellTo_idle h, nextAct_none h⟩, fun a t h => ?_⟩
  obtain ⟨hdue, hkey, hmin⟩ := nextAct_some h
  refine ⟨hdue, hkey, hmin, ?_⟩
  rw [cellRun, h]

/-! ## The rows of a cell's own time -/

/-- A row whose act is due, and still is where its tick finds the cell. -/
theorem ownTime_due {a : CellAct} {t more : Nat} (hc : clocksOn s = true) (hd : actDue s n a = some t)
    (hu : actDue (dueState s n a t more) n a = some t) : ownTime n a more s = actDo (dueState s n a t more) n t a := by
  unfold ownTime
  rw [hc, hd]
  dsimp only
  rw [if_neg (by decide), if_pos hu]

/-- The schedule's row with its head entry due: the entry's action, numbered `m`, is done. -/
theorem exec_sched {c : Instr} {h : SchEnt} {rest : List SchEnt} {t m : Nat} {late : Bool} (hc : exec c s = schedExec n (fun a => a = m) s)
    (hd : HeadDue s n h rest t late) (ha : h.action = m) :
    exec c s = .next (headEvents (schedAct (if late then cellErr (headTaken s n rest t) n 2 t else headTaken s n rest t) n m t) n rest t) := by
  obtain ⟨hck, ⟨l, hl⟩, ht, hrest, htick⟩ := hd
  have hdue : actDue s n .sched = some t := by
    rw [actDue, schedDue, hl, List.head?_cons, Option.map_some, ht]
  have hstill : actDue (dueState s n .sched t 1) n .sched = some t := by
    rw [actDue, schedDue, hrest, List.head?_cons, Option.map_some, htick]
  rw [hc, schedExec, hl, List.head?_cons, Option.any_some, if_pos (decide_eq_true ha), ownTime_due hck hdue hstill, actDo, schedHead, hrest]
  dsimp only
  unfold schedOne
  dsimp only
  rw [htick, ha]
  rfl

/-- An action of a land takes its level register's new level from the low bits of its number. -/
theorem schedAct_level (s : State) (n : Fin 256) (land : Bool) {op : Nat} (hop : op < 4) (t : Nat) :
    schedAct s n (4 * land.toNat + op) t = setLevel s n land op t := by
  rw [schedAct]
  cases land
  · rw [Bool.toNat_false, Nat.mul_zero, Nat.zero_add, if_pos (by omega), Nat.mod_eq_of_lt hop, decide_eq_false (by omega)]
  · rw [Bool.toNat_true, if_pos (by omega), decide_eq_true (by omega), show (4 * 1 + op) % 4 = op by omega]

theorem schLow_holds : SchLow := by
  intro s n h rest t land hd ha
  have hrun := exec_sched (c := .schLow n land) (m := 4 * land.toNat + 0) rfl hd ha
  rw [schedAct_level _ n land (by decide)] at hrun
  exact hrun

theorem schHigh_holds : SchHigh := by
  intro s n h rest t land hd ha
  have hrun := exec_sched (c := .schHigh n land) (m := 4 * land.toNat + 1) rfl hd ha
  rw [schedAct_level _ n land (by decide)] at hrun
  exact hrun

theorem schRelease_holds : SchRelease := by
  intro s n h rest t land hd ha
  have hrun := exec_sched (c := .schRelease n land) (m := 4 * land.toNat + 2) rfl hd ha
  rw [schedAct_level _ n land (by decide)] at hrun
  exact hrun

theorem schToggle_holds : SchToggle := by
  intro s n h rest t land hd ha
  have hrun := exec_sched (c := .schToggle n land) (m := 4 * land.toNat + 3) rfl hd ha
  rw [schedAct_level _ n land (by decide)] at hrun
  exact hrun

theorem schedAct_start (h : canTx s n = true) (t : Nat) : schedAct s n 8 t = startTx s n t := by
  rw [schedAct, if_neg (by decide), if_pos rfl, if_pos h]

theorem schStartTx_holds : SchStartTx := by
  intro s n h rest t hd ha _ hcan
  have hrun := exec_sched (c := .schStartTx n) (m := 8) rfl hd ha
  rw [if_neg Bool.false_ne_true, schedAct_start hcan] at hrun
  exact hrun

theorem schedAct_repeat (s : State) (n : Fin 256) (t : Nat) : schedAct s n 9 t = startPeriod s n t := rfl

theorem schedAct_stop (s : State) (n : Fin 256) (t : Nat) : schedAct s n 10 t = stopRepeat s n t := rfl

theorem schedAct_mark (s : State) (n : Fin 256) (t : Nat) : schedAct s n 11 t = s := rfl

theorem schStartRepeat_holds : SchStartRepeat := by
  intro s n h rest t hd ha
  have hrun := exec_sched (c := .schStartRepeat n) (m := 9) rfl hd ha
  rw [schedAct_repeat, if_neg Bool.false_ne_true] at hrun
  exact hrun

theorem schStopRepeat_holds : SchStopRepeat := by
  intro s n h rest t hd ha
  have hrun := exec_sched (c := .schStopRepeat n) (m := 10) rfl hd ha
  rw [schedAct_stop, if_neg Bool.false_ne_true] at hrun
  exact hrun

theorem schMark_holds : SchMark := by
  intro s n h rest t hd ha
  have hrun := exec_sched (c := .schMark n) (m := 11) rfl hd ha
  rw [schedAct_mark, if_neg Bool.false_ne_true] at hrun
  exact hrun

theorem schedLate_holds : SchedLate := by
  intro s n h rest t hd ha
  have hrun := exec_sched (c := .schMark n) (m := 11) rfl hd ha
  rw [schedAct_mark, if_pos rfl] at hrun
  exact hrun

/-! ## Levels and the repeat timer (R443 to R445) -/

theorem levelDelay_holds : LevelDelay := by
  intro s n land op t hwas c old
  have hc : c = _ := cell_updCell ..
  rw [hc]
  cases land
  · have hwas' : (cell s n).wasA = [] := hwas
    simp [levelAt, levelAfter, hwas', old]
  · have hwas' : (cell s n).wasB = [] := hwas
    simp [levelAt, levelAfter, hwas', old]

theorem repeatStops_holds : RepeatStops := by
  intro s n hon hoff
  have hc : cell (stopRepeat s n s.dt) n = { cell s n with repOn := false, repOff := some s.dt } := by
    rw [stopRepeat, cell_updCell, if_pos hon]
  have hlate (t : Nat) : cell { stopRepeat s n s.dt with dt := t } n = cell (stopRepeat s n s.dt) n := rfl
  refine ⟨?_, fun t ht => ?_⟩
  · rw [repActive, hc, repActive, hon]
    simp [stopRepeat]
    rfl
  · rw [repActive, hlate, hc]
    simp [ht]

/-- Settles O25: the head entry executes in its tick, and nothing else is done but what is due before it. -/
theorem cellSchedule : Obligations.CellSchedule :=
  ⟨schLow_holds, schHigh_holds, schRelease_holds, schToggle_holds, schStartTx_holds, schStartRepeat_holds, schStopRepeat_holds, schMark_holds,
    schedLate_holds, levelDelay_holds, repeatStops_holds, dueFirst_holds⟩

end Sys2Proof.Machine
end

section
/-!
PROOFS. O26: the words of a slot (R436 to R438, R456).
-/

namespace Sys2Proof.Machine

open Sys2Proof.Claims

variable {s : State} {e : Fin 512} {i : Fin 8} {w : Nat} {v : Word18} {c : Instr}

/-! ## Reads (R436, R440) -/

/-- A read by an engine of the cell's own domain. -/
theorem slotStep_own (h : engUp s = true) (ho : cellOwnerOk (slotSeen s e i) e (slotCell e i) = true) :
    slotStep s e i w = .next (answer (slotRead (slotSeen s e i) (slotCell e i) w s.dt).1 false (slotRead (slotSeen s e i) (slotCell e i) w s.dt).2.toNat) := by
  unfold slotStep
  dsimp only
  rw [if_pos h, cellRead, if_pos ho]

/-- A read by an engine of another domain records ENG_OWNER and gives zero. -/
theorem slotStep_foreign (h : engUp s = true) (ho : cellOwnerOk (slotSeen s e i) e (slotCell e i) = false) :
    slotStep s e i w = .next (answer (cellOwnerErr (slotSeen s e i) e (slotCell e i)) false 0) := by
  unfold slotStep
  dsimp only
  rw [if_pos h, cellRead, if_neg (by simp [ho])]
  rfl

theorem rxPop_holds : RxPop := by
  intro s e i x xs b rest h ho hrx
  refine (slotStep_own (w := 1) h ho).trans ?_
  rw [slotRead, hrx]

theorem rxPopEmpty_holds : RxPopEmpty := by
  intro s e i h ho hrx
  refine (slotStep_own (w := 1) h ho).trans ?_
  rw [slotRead, hrx]
  rfl

theorem capturePop_holds : CapturePop := by
  intro s e i x rest h ho hcap lt
  refine (slotStep_own (w := 2) h ho).trans ?_
  rw [slotRead, hcap]
  dsimp only
  rw [BitVec.toNat_ofNat]

/-! ## Writes (R436, R442, R446) -/

/-- A write by an engine of the cell's own domain: KEEP restarts. -/
theorem slotPut_own (h : engUp s = true) (ho : cellOwnerOk (slotState s e i) e (slotCell e i) = true) :
    slotPut e i w v s = restartKeep (slotWrite (slotState s e i) (slotCell e i) w v s.dt) (slotCell e i) s.dt := by
  rw [slotPut, if_pos h, cellWrite, if_pos ho]

/-- A write by an engine of another domain records ENG_OWNER and does nothing else. -/
theorem slotPut_foreign (h : engUp s = true) (ho : cellOwnerOk (slotState s e i) e (slotCell e i) = false) :
    slotPut e i w v s = cellOwnerErr (slotState s e i) e (slotCell e i) := by
  rw [slotPut, if_pos h, cellWrite, if_neg (by simp [ho])]

/-- A command that is a write of a slot word. -/
theorem exec_slotPut {u : State} (w : Nat) (v : Word18) (hc : exec c s = .next (slotPut e i w v s)) (h : engUp s = true)
    (ho : cellOwnerOk (slotState s e i) e (slotCell e i) = true) (hw : slotWrite (slotState s e i) (slotCell e i) w v s.dt = u) :
    exec c s = .next (restartKeep u (slotCell e i) s.dt) := by
  rw [hc, slotPut_own h ho, hw]

theorem txPush_holds : TxPush := by
  intro s e i v h ho hmode hmode' hroom
  refine exec_slotPut 1 v (congrArg Host.Outcome.next (if_neg (by simp [hmode]))) h ho ?_
  rw [slotWrite, if_neg (by simp [hmode']), if_neg (by omega)]

theorem dutyWrite_holds : DutyWrite := by
  intro s e i v h ho hmode hmode'
  refine exec_slotPut 1 v (congrArg Host.Outcome.next (if_pos hmode)) h ho ?_
  rw [slotWrite, if_pos hmode']

theorem scheduleStage_holds : ScheduleStage := fun _ _ _ v h ho => exec_slotPut 2 v rfl h ho rfl

theorem scheduleCommit_holds : ScheduleCommit := by
  intro s e i v h ho ha hroom
  refine exec_slotPut 3 v rfl h ho ?_
  rw [slotWrite, schedCommit]
  · rw [if_neg (by omega), if_neg (by omega)]
  all_goals decide

/-! ## The CMD word (R438) -/

theorem clrCap_holds : ClrCap := fun _ _ _ h ho => exec_slotPut 0 0x1 rfl h ho rfl

theorem clrSch_holds : ClrSch := fun _ _ _ h ho => exec_slotPut 0 0x2 rfl h ho rfl

theorem clrRx_holds : ClrRx := fun _ _ _ h ho => exec_slotPut 0 0x4 rfl h ho rfl

theorem clrTx_holds : ClrTx := fun _ _ _ h ho => exec_slotPut 0 0x8 rfl h ho rfl

theorem cellAbort_holds : CellAbort := fun _ _ _ h ho => exec_slotPut 0 0x10 rfl h ho rfl

theorem leaveSafeCmd_holds : LeaveSafeCmd := fun _ _ _ h ho => exec_slotPut 0 0x20 rfl h ho rfl

theorem clrErr_holds : ClrErr := fun _ _ _ h ho => exec_slotPut 0 0x40 rfl h ho rfl

theorem repStop_holds : RepStop := fun _ _ _ h ho => exec_slotPut 0 0x20000 rfl h ho rfl

theorem bset_holds : Bset := by
  intro s e i v h ho hv
  obtain rfl | rfl : v = 1 ∨ v = 2 := hv.imp Fin.ext Fin.ext
  · exact exec_slotPut 0 0x80 rfl h ho rfl
  · exact exec_slotPut 0 0x100 rfl h ho rfl

theorem stuffc_holds : Stuffc := by
  intro s e i v h ho hv
  obtain rfl | rfl : v = 1 ∨ v = 2 := hv.imp Fin.ext Fin.ext
  · exact exec_slotPut 0 0x200 rfl h ho rfl
  · exact exec_slotPut 0 0x400 rfl h ho rfl

/-- The values of a field that sets a level register. -/
theorem level_field {v : Fin 8} (h : 1 ≤ v.val ∧ v.val ≤ 4) : v = 1 ∨ v = 2 ∨ v = 3 ∨ v = 4 := by omega

theorem lva_holds : Lva := by
  intro s e i v h ho hv
  obtain rfl | rfl | rfl | rfl := level_field hv
  · exact exec_slotPut 0 0x800 rfl h ho rfl
  · exact exec_slotPut 0 0x1000 rfl h ho rfl
  · exact exec_slotPut 0 0x1800 rfl h ho rfl
  · exact exec_slotPut 0 0x2000 rfl h ho rfl

theorem lvb_holds : Lvb := by
  intro s e i v h ho hv
  obtain rfl | rfl | rfl | rfl := level_field hv
  · exact exec_slotPut 0 0x4000 rfl h ho rfl
  · exact exec_slotPut 0 0x8000 rfl h ho rfl
  · exact exec_slotPut 0 0xC000 rfl h ho rfl
  · exact exec_slotPut 0 0x10000 rfl h ho rfl

/-! ## Another domain (R456) -/

theorem slotOwner_holds : SlotOwner := by
  intro s e i v h
  exact ⟨fun ho => slotStep_foreign (w := 1) h ho, fun ho => ⟨congrArg Host.Outcome.next (slotPut_foreign (w := 2) h ho),
    congrArg Host.Outcome.next (slotPut_foreign (w := 0) (v := 0x1) h ho)⟩⟩

/-- Settles O26: each word is its owner check and one change of the cell. -/
theorem cellSlotWords : Obligations.CellSlotWords :=
  ⟨rxPop_holds, rxPopEmpty_holds, capturePop_holds, txPush_holds, dutyWrite_holds, scheduleStage_holds, scheduleCommit_holds, clrCap_holds,
    clrSch_holds, clrRx_holds, clrTx_holds, cellAbort_holds, leaveSafeCmd_holds, clrErr_holds, bset_holds, stuffc_holds, lva_holds, lvb_holds,
    repStop_holds, slotOwner_holds⟩

end Sys2Proof.Machine
end

section
/-!
PROOFS. O27: the timed events and the frames of a port cell (R434, R440, R445 to R454).
-/

namespace Sys2Proof.Machine

open Sys2Proof.Claims

/-! ## Timers (R445, R453) -/

theorem keepTimeout_holds : KeepTimeout := by
  intro s n t
  refine ⟨fun hen htmo hat hdue => ?_, fun hc hd => ⟨fun hu => ?_, fun hu => ?_⟩⟩
  · rw [keepDue, hdue, hen, if_pos (by simp [htmo, hat])]
  · exact congrArg Host.Outcome.next (ownTime_due hc hd hu)
  · refine congrArg Host.Outcome.next ?_
    rw [ownTime, hc, show actDue s n .keep = some t from hd]
    dsimp only
    rw [if_neg (by decide)]
    exact if_neg hu

theorem idleTimeout_holds : IdleTimeout := by
  intro s n hc hen htmo t u hu
  have hd : actDue s n .idle = some t := if_pos (by simp [hen, htmo])
  exact congrArg Host.Outcome.next (ownTime_due hc hd hu)

theorem repeatPeriod_holds : RepeatPeriod := by
  intro s n hc hon hper t u hu
  have hd : actDue s n .period = some t := if_pos (by simp [hon, hper])
  exact congrArg Host.Outcome.next (ownTime_due hc hd hu)

/-! ## The transmitter (R447, R449, R451) -/

theorem txStart_holds : TxStart := by
  intro s n hc htrig u hu
  exact congrArg Host.Outcome.next (if_pos (by simp [hc, htrig, u, hu]))

/-- A row whose act is not due does nothing. -/
theorem ownTime_idle {s : State} {n : Fin 256} {a : CellAct} {more : Nat} (hd : actDue s n a = none) : ownTime n a more s = s := by
  rw [ownTime, hd]
  exact ite_self _

theorem txEnd_holds : TxEnd := by
  intro s n f hc hf
  have hdue : actDue s n .txEnd = frameEnd s n f := by rw [actDue, txDue, hf, Option.bind_some]
  refine ⟨fun t ht hu => congrArg Host.Outcome.next (ownTime_due hc (hdue.trans ht) hu), fun h => ?_⟩
  exact congrArg Host.Outcome.next (ownTime_idle (hdue.trans h))

theorem bitStarts_hold : BitStarts := by
  intro s n f t x k hf
  simp [bitStart, segOf, hf]

theorem stretch_holds : Stretch := by
  intro s n f hc hen hmode hlim hf hbit t u
  have hdue : actDue s n .stretch = if landLevel s n true = true then none else some t := by
    rw [actDue, stretchDue, hf, Option.bind_some]
    cases hl : landLevel s n true <;> simp [hen, hmode, hlim, hbit, t]
  refine ⟨fun hl hu => congrArg Host.Outcome.next (ownTime_due hc (hdue.trans (if_neg (by simp [hl]))) hu), fun hl => ?_⟩
  exact congrArg Host.Outcome.next (ownTime_idle (hdue.trans (if_pos hl)))

/-! ## The receiver (R447, R450, R451) -/

/-- With the mode in force a receiver starts a frame where its cause stands (R450). -/
theorem rxFrameStart_starts {s u : State} {n : Fin 256} (hu : u = cellTo n (actKey s.dt .txEnd) s) (hcan : canRx u n = true)
    (hnot : shMode u n ≠ 6 ∧ shMode u n ≠ 7) :
    exec (.rxFrameStart n) s = .next (updCell u n fun c => { c with
      rxf := some (rxBegin u n (if shMode s n = 5 then ((cell u n).txf.map TxFrame.start).getD s.dt else s.dt)) }) := by
  have hclock (f : Cell → Cell) : rxClock (updCell u n f) n = updCell u n f := by
    unfold rxClock
    dsimp only
    rw [if_neg (fun h => hnot.1 h.1), if_neg (fun h => hnot.2 h.1)]
  subst hu
  refine congrArg Host.Outcome.next ?_
  rw [if_pos hcan]
  dsimp only
  rw [hclock, ite_self]

theorem canRx_edge {u : State} {n : Fin 256} (hc : clocksOn u = true) (hen : cellEn u n = true) (hsafe : (cell u n).safe = false)
    (hmode : shMode u n < 5) : canRx u n = ((cell u n).rxf.isNone && (edgeNow u n && !landLevel u n true)) := by
  rw [canRx, hc, hen, hsafe]
  generalize shMode u n = m at hmode
  match m, hmode with
  | 0, _ | 1, _ | 2, _ | 3, _ | 4, _ => simp

theorem rxStart_holds : RxStart := by
  intro s n u hc hen hsafe hmode hmode'
  have hcan := canRx_edge hc hen hsafe hmode'
  refine ⟨fun hr he hl => ?_, fun h => congrArg Host.Outcome.next (if_neg ?_)⟩
  · rw [rxFrameStart_starts (u := u) rfl (by simp [hcan, hr, he, hl]) (by omega), if_neg (by omega)]
  · change ¬ canRx u n = true
    rw [hcan]
    rcases h with h | h | h
    · simp [Option.isNone_iff_eq_none, h]
    · simp [h]
    · simp [h]

theorem rxStartSync_holds : RxStartSync := by
  intro s n f u hc hen hsafe hmode hmode' hr hf hpair
  have hcan : canRx u n = true := by
    rw [canRx, hmode']
    simp [hc, hen, hsafe, hr, hf, hpair]
  rw [rxFrameStart_starts (u := u) rfl hcan (by omega), if_pos hmode, hf]
  rfl

theorem samplePoint_holds : SamplePoint := by
  intro s n r j
  refine ⟨fun hm => ?_, fun hm => ?_⟩
  · rw [rxNext]
    generalize shMode s n = m at hm
    match m, hm with
    | 0, _ | 1, _ | 2, _ => rfl
  · rw [rxNext, hm]
    rfl

theorem rxFinish_last {u : State} {n : Fin 256} {r : RxFrame} {x : Nat} (k : Nat) (hr : (cell u n).rxf = some r) (hx : rxNext u n r = some x) :
    rxFinish n (k + 1) u = if rxFull u n { r with fr := { r.fr with bits := r.fr.bits ++ [rxLand u n] } } = true then
      ownTime n .sample 0 (advanceTo u x) else rxFinish n k (ownTime n .sample 0 (advanceTo u x)) := by
  rw [rxFinish, hr]
  dsimp only
  rw [hx]

theorem rxComplete_holds : RxComplete := by
  intro s n r x u hc hen hmode hsafe hr hx v w hcv hdv hdw
  have hrun : exec (.rxFrameComplete n) s = .next (rxFinish n 80 u) := by
    refine congrArg Host.Outcome.next ?_
    change (if _ ∨ _ ∨ (cell u n).safe = true then s else match (cell u n).rxf with | none => s | some r => _) = _
    rw [if_neg (by simp [hc, hen, hsafe]), hr]
    exact if_neg hmode
  have hown : ownTime n .sample 0 v = takeSample w n x := ownTime_due hcv hdv hdw
  rw [hrun, rxFinish_last 79 hr hx]
  exact congrArg Host.Outcome.next (congrArg₂ (fun a b => if rxFull u n { r with fr := { r.fr with bits := r.fr.bits ++ [rxLand u n] } } = true then a else b)
    hown (congrArg (rxFinish n 79) hown))

theorem rxSent_holds : RxSent := by
  intro s n r u hc hen hmode hsafe hr hedge hlow hlt
  refine congrArg Host.Outcome.next ?_
  change (if _ ∨ _ ∨ (cell u n).safe = true then s else match (cell u n).rxf with | none => s | some r => _) = _
  rw [if_neg (by simp [hc, hen, hsafe]), hr]
  dsimp only
  rw [if_pos hmode, if_pos]
  change (edgeNow u n && !landLevel u n true && _) = true
  simp [hedge, hlow, hlt]

theorem rxSampled_holds : RxSampled := by
  intro s n r t hr r'
  refine ⟨fun hm => ?_, fun hm hfirst hhigh => ?_⟩
  · rw [takeSample, hr]
    have h1 : shMode s n ≠ 1 := by omega
    have h2 : decide (shMode s n = 2) = false := by simp; omega
    have h7 : decide (shMode s n = 7) = false := by simp; omega
    simp [h1, h2, h7, r']
  · rw [takeSample, hr]
    exact if_pos ⟨hm, hfirst, hhigh⟩

theorem rxDecode_errs (s : State) (n : Fin 256) (r : RxFrame) (free : Nat) (hm : shMode s n = 1 ∨ shMode s n = 5 ∨ shMode s n = 6) :
    (rxDecode s n r free).errs.contains 10 = false := by
  unfold rxDecode
  dsimp only
  rcases hm with hm | hm | hm
  · rw [hm]
    change (if _ then ([] : List Nat) else [7]).contains 10 = false
    split <;> rfl
  · rw [hm]
    rfl
  · rw [hm]
    rfl

theorem rxDone_idle (s : State) (n : Fin 256) (r : RxFrame) (t : Nat) (hm : shMode s n = 1 ∨ shMode s n = 5 ∨ shMode s n = 6) :
    rxDone s n r t = updCell s n fun c => { c with
      rxf := none, bset := (segOf r.fr (r.fr.bits.length - 1)).set
      rxIn := c.rxIn ++ [{ tick := t + 1, ws := rxWords s n (rxDecode s n r (freeVal 64 s).1), errs := (rxDecode s n r (freeVal 64 s).1).errs }] } := by
  have herrs := rxDecode_errs s n r (freeVal 64 s).1 hm
  have h3 : shMode s n ≠ 3 := by omega
  have hnext : (decide (shMode s n = 0) || decide (shMode s n = 2) || decide (shMode s n = 3)) = false := by
    simp only [Bool.or_eq_false_iff, decide_eq_false_iff_not]
    omega
  unfold rxDone
  dsimp only
  rw [herrs, if_neg Bool.false_ne_true, if_neg h3, hnext, if_neg Bool.false_ne_true]

theorem rxStored_holds : RxStored := by
  refine ⟨fun s n r t hm => rxDone_idle s n r t hm, fun s n x rest t hx herrs => ⟨?_, ?_⟩⟩
  · rw [actDue, hx]
    rfl
  · rw [actDo, rxComes, hx]
    dsimp only
    rw [rxEnter, herrs, List.foldl_nil, cell_updCell]

/-! ## SAFE (R430, R454, R455) -/

@[simp] theorem setSource_cells (s : State) (e : Fin 512) (k tick : Nat) : (setSource s e k tick).cells = s.cells := by
  unfold setSource
  split <;> rfl

@[simp] theorem cellEvent_cells (s : State) (n : Fin 256) (code tick : Nat) : (cellEvent s n code tick).cells = s.cells := by
  unfold cellEvent
  dsimp only
  split
  · rfl
  · refine foldl_frame State.cells _ (fun u j => ?_) _ _
    split
    · split <;> split <;> simp
    · rfl

@[simp] theorem cell_cellEvent (s : State) (n m : Fin 256) (code tick : Nat) : cell (cellEvent s n code tick) m = cell s m :=
  cell_congr (cellEvent_cells ..) m

@[simp] theorem cell_setIrq (s : State) (p : Page) (mask : Nat) (m : Fin 256) : cell (setIrq s p mask) m = cell s m := cell_congr (setIrq_cells ..) m

theorem cell_withTxe (n : Fin 256) (tick : Nat) (f : State → State) (s : State) (m : Fin 256) : cell (withTxe n tick f s) m = cell (f s) m := by
  unfold withTxe
  dsimp only
  split
  · exact cell_cellEvent ..
  · rfl

theorem cell_clearSched (s : State) (n : Fin 256) (tick : Nat) : cell (clearSched s n tick) n = { cell s n with schf := [], staged := 0 } := by
  unfold clearSched
  dsimp only
  split
  · rw [cell_cellEvent, cell_updCell]
  · rw [cell_updCell]

theorem cell_enterSafe_again {s : State} {n : Fin 256} (cause t : Nat) (h : (cell s n).safe = true) :
    cell (enterSafe s n cause t) n = { cell s n with cause := if forceSafe s n then 4 else cause, safeAt := some t } := by
  rw [enterSafe, h]
  exact cell_updCell ..

theorem cell_enterSafe_new {s : State} {n : Fin 256} (cause t : Nat) (h : (cell s n).safe = false) :
    cell (enterSafe s n cause t) n = { cell s n with
      schf := [], staged := 0, capf := [], lost := false, rx := [], rxIn := [], tx := [], txf := none, rxf := none, repOn := false, repOff := none
      safe := true, cause := if forceSafe s n then 4 else cause, safeAt := some t
      safeA := levelOut (clearSched s n t) n false (safeLevel (pcF s n 0x044 28 2))
      safeB := levelOut (clearSched s n t) n true (safeLevel (pcF s n 0x048 28 2))
      lvA := safeLevel (pcF s n 0x044 28 2), lvB := safeLevel (pcF s n 0x048 28 2), wasA := [], wasB := []
      bset := setInUse (clearSched s n t) n t } := by
  rw [enterSafe, h]
  dsimp only
  rw [if_neg Bool.false_ne_true, cell_setIrq, cell_withTxe, cell_updCell, cell_clearSched]

theorem safeEntry_holds : SafeEntry := by
  intro s n cause t c
  cases hsafe : (cell s n).safe with
  | true =>
    have hc : c = _ := cell_enterSafe_again cause t hsafe
    rw [hc]
    exact ⟨hsafe, rfl, fun h => absurd h (by decide)⟩
  | false =>
    have hc : c = _ := cell_enterSafe_new cause t hsafe
    rw [hc]
    exact ⟨rfl, rfl, fun _ => ⟨rfl, rfl, rfl, rfl, rfl, rfl, rfl, rfl, rfl, rfl, rfl⟩⟩

theorem safeHolds_holds : SafeHolds := by
  intro s n off v hrail hsafe
  have hbank : rd (wr s (.pc n) off v) (bankOfCell n) 0x044 = rd s (bankOfCell n) 0x044 := by
    refine rd_wr_other s v ?_
    have hb := (Fin.ofNat 16 (n.val / 16)).isLt
    rw [bankOfCell, pageAddr, pageAddr]
    omega
  have hrail' : railOn (wr s (.pc n) off v) n = true := by
    rw [railOn, rdF, hbank]
    exact hrail
  have hcell : cell (wr s (.pc n) off v) n = cell s n := rfl
  have hland (b : Bool) : landDrive (wr s (.pc n) off v) n b = if b = true then (cell s n).safeB else (cell s n).safeA := by
    unfold landDrive
    dsimp only
    rw [hrail', hcell, if_neg (by decide), if_pos hsafe]
  exact ⟨hland false, hland true⟩

/-! ## Edges of the lands (R434, R440, R441) -/

theorem landFilter_holds : LandFilter := by
  intro s n land level x hx hlt
  refine congrArg Host.Outcome.next (if_pos (.inr (.inr ?_)))
  rw [hx]
  exact decide_eq_true hlt

theorem landEdge_holds : LandEdge := by
  intro s n level hc hlev hfilt p q w
  have hguard : ¬ ((!clocksOn s) = true ∨ (cell s n).accA = level ∨
      (cell s n).edgA.any (fun x => decide (s.dt ≤ x + pcF s n 0x044 20 8)) = true) := by
    rintro (h | h | h)
    · simp [hc] at h
    · exact hlev h
    · obtain ⟨x, hx, hle⟩ := (Option.any_eq_true _ _).1 h
      exact absurd (of_decide_eq_true hle) (Nat.not_le.2 (hfilt x hx))
  have hrun : exec (.landEdge n false level) s = .next (if (!cellEn w n) = true then w else
      if (!(pcF (restartIdle w n w.dt) n 0x040 16 2 = 3 || (pcF (restartIdle w n w.dt) n 0x040 16 2 = 1 && (level != pcB s n 0x044 30)) ||
          (pcF (restartIdle w n w.dt) n 0x040 16 2 = 2 && !(level != pcB s n 0x044 30)))) = true then restartIdle w n w.dt
      else captureEdge (restartIdle w n w.dt) n false (level != pcB s n 0x044 30)) := congrArg Host.Outcome.next (if_neg hguard)
  refine ⟨fun hen => ?_, fun hen hsel => ?_⟩
  · rw [hrun, hen]
    rfl
  · have hsel' : pcF (restartIdle w n w.dt) n 0x040 16 2 = 3 := hsel
    rw [hrun, hen, hsel']
    rfl

theorem capHead_first {c : Cell} {x : Nat × CapEnt} (h : capHead c = some x) : x ∈ c.capIn ∧ ∀ y ∈ c.capIn, capKey x ≤ capKey y := by
  obtain ⟨k, hk, hx⟩ := Option.bind_eq_some_iff.1 h
  obtain ⟨-, hmin⟩ := List.min?_eq_some_iff.1 hk
  have hkey : capKey x = k := by simpa using List.find?_some hx
  exact ⟨List.mem_of_find?_eq_some hx, fun y hy => hkey ▸ hmin _ (List.mem_map_of_mem hy)⟩

theorem landOrder_holds : LandOrder := by
  intro s n x hx
  obtain ⟨hmem, hmin⟩ := capHead_first hx
  refine ⟨hmem, fun y hy => ?_, ?_, fun t => ?_⟩
  · have hkey := hmin y hy
    rw [capKey, capKey] at hkey
    have hx1 := Bool.toNat_le x.2.landB
    have hy1 := Bool.toNat_le y.2.landB
    rcases Nat.lt_or_ge x.1 y.1 with hlt | hge
    · exact .inl hlt
    · refine .inr ⟨by omega, fun hb => ?_⟩
      rw [hb, Bool.toNat_true] at hkey
      have hy2 : y.2.landB.toNat = 1 := by omega
      simpa using hy2
  · rw [actDue, hx]
    rfl
  · rw [actDo, hx]
    dsimp only
    rw [storeEdge]
    dsimp only
    rw [cell_updCell]
    dsimp only
    split
    next hfull => rw [if_neg (by omega)]
    next hroom => rw [if_pos (by omega)]

/-- Settles O27: what a cell does in its own time, tick by tick. -/
theorem cellEvents : Obligations.CellEvents :=
  ⟨keepTimeout_holds, safeEntry_holds, safeHolds_holds, idleTimeout_holds, repeatPeriod_holds, txStart_holds, txEnd_holds, bitStarts_hold,
    stretch_holds, rxStart_holds, rxStartSync_holds, samplePoint_holds, rxComplete_holds, rxSampled_holds, rxStored_holds, rxSent_holds,
    landEdge_holds, landFilter_holds, landOrder_holds⟩

end Sys2Proof.Machine
end

section
/-!
PROOFS. O22: the events of a domain reset (R537 to R539).
-/

namespace Sys2Proof.Machine

open Sys2Proof.Claims

theorem increment_holds : Increment := by
  intro s d hd hdr hlap u
  refine congrArg Host.Outcome.next ?_
  rw [if_neg (by simp [hd, hdr]), hlap]
  rfl

theorem lapWaits_holds : LapWaits := by
  intro s d hd hdr hlap hset
  refine congrArg Host.Outcome.next ?_
  rw [if_neg (by simp [hd, hdr]), hlap, hset]
  rfl

/-- The attributes of a page's own requests do not hang on its block's counts. -/
theorem pageAttr_bumpF (s : State) (p : Page) {off : Nat} (lo k n : Nat) (h : 0x034 < off) : pageAttr (bumpF s p off lo k n) p = pageAttr s p := by
  rw [pageAttr, owner, genOf, rdF, rdF, rd_bumpF_off _ _ _ _ _ (by omega), rd_bumpF_off _ _ _ _ _ (by omega)]
  rfl

theorem drainTimeout_holds : DrainTimeout := by
  intro s d hd hst hstep hne f isMem movers w v u
  have hattr : pageAttr u (.dom d) = pageAttr v (.dom d) := pageAttr_bumpF v (.dom d) 0 16 (inTransit s d).length (by decide)
  rw [hattr]
  refine congrArg Host.Outcome.next (if_neg ?_)
  simp [hd, hst, hstep, hne]

theorem resetEnd_holds : ResetEnd := by
  intro s d hd hst hstep u
  exact congrArg Host.Outcome.next (if_neg (by simp [hd, hst, hstep]))

/-- Settles O22: each event is its guard and one change of the state. -/
theorem domainReset : Obligations.DomainReset := ⟨increment_holds, lapWaits_holds, drainTimeout_holds, resetEnd_holds⟩

end Sys2Proof.Machine
end

section
/-!
PROOFS. O52: the Tylwen link (R491 to R500).
-/

namespace Sys2Proof.Machine

open Sys2Proof.Claims

/-! ## Flits that go out -/

/-- With room in the replay buffer a flit goes out (R492). -/
theorem sendFlit_room {s : State} (h : s.tyl.replay.length < 128) (typ dst : Nat) (load : List Nat) :
    sendFlit s typ dst load = some (flitSent s typ dst load) := if_neg (by omega)

/-- A full replay buffer takes no flit (R492). -/
theorem sendFlit_getD (s t : State) (typ dst : Nat) (load : List Nat) :
    (sendFlit s typ dst load).getD t = if s.tyl.replay.length < 128 then flitSent s typ dst load else t := by
  split
  next h => rw [sendFlit_room h]; rfl
  next h => rw [sendFlit, if_pos (by omega)]; rfl

/-! ## Acknowledgements and replays -/

theorem tylAck_holds : TylAck := by
  intro s seq a b x hst hc hsplit
  have hg : ¬ (tylState s = 0 ∨ (!tylCarries s) = true) := by simp [hst, hc]
  constructor
  · refine congrArg Host.Outcome.next ?_
    rw [if_neg hg, hsplit]
    rfl
  · intro hlen
    refine congrArg Host.Outcome.next ?_
    rw [if_neg hg, hsplit]
    exact if_pos hlen

/-- Where no held flit has a SEQ, none stands from it on. -/
theorem splitSeq_none {l : List Flit} {seq : Nat} (h : (l.all fun x => decide (x.seq ≠ seq)) = true) : splitSeq l seq = (l, []) := by
  have hall : ∀ x ∈ l, decide (x.seq ≠ seq) = true := List.all_eq_true.1 h
  rw [splitSeq, List.span_eq_takeWhile_dropWhile, List.takeWhile_eq_self_iff.2 hall, List.dropWhile_eq_nil_iff.2 hall]

theorem tylAckNone_holds : TylAckNone := by
  intro s seq nak h
  refine congrArg Host.Outcome.next ?_
  rw [splitSeq_none h]
  exact ite_self s

theorem flitReplay_holds : FlitReplay := by
  intro s hst hne hc
  exact congrArg Host.Outcome.next (if_neg (by simp [hst, hne, hc]))

theorem tylReserved_holds : TylReserved := by
  intro s hst hc
  exact congrArg Host.Outcome.next (if_neg (by simp [hst, hc]))

/-! ## Training -/

theorem tylCap_holds : TylCap := by
  intro s m ident lo hi hst hm hc v a b c d
  refine congrArg Host.Outcome.next ?_
  rw [if_neg (by simp [hst, hm, hc])]
  dsimp only
  rw [sendFlit_getD]

theorem tylSilent_holds : TylSilent := by
  intro s m n ident lo hi seq nak hc
  have hn : (!tylCarries s) = true := by rw [hc]; rfl
  exact ⟨congrArg Host.Outcome.next (if_pos (.inr (.inr hn))), congrArg Host.Outcome.next (if_neg (by simp [hc])),
    congrArg Host.Outcome.next (if_pos (.inr hn)), congrArg Host.Outcome.next (if_pos (.inr (.inr hn))), congrArg Host.Outcome.next (if_pos (.inr hn))⟩

theorem tylEnum_holds : TylEnum := by
  intro s n hst hc
  refine congrArg Host.Outcome.next ?_
  rw [if_pos ⟨hst, hc⟩]
  exact congrArg (fun f => List.foldl f _ _) (funext fun u => funext fun i => sendFlit_getD u u 3 (i + 1) [i + 1])

/-- Training is done where the members are numbered and each has given its CAP (R494). -/
theorem tylTrained_iff (s : State) :
    tylTrained s = true ↔ s.tyl.numbered = true ∧ ∀ i, i < tylMembers s → s.tyl.capped.contains (i + 1) = true := by
  rw [tylTrained, Bool.and_eq_true, List.all_eq_true]
  exact and_congr_right' (forall_congr' fun i => by rw [List.mem_range])

theorem tylwenUp_holds : TylwenUp := by
  intro s width prop hen hst hw hck hl u v
  have hw' : ¬ rdF s .tylw 0x040 1 2 < width.val := by omega
  constructor
  · intro hn hcap
    have ht := (tylTrained_iff s).2 ⟨hn, hcap⟩
    refine congrArg Host.Outcome.next ?_
    rw [if_neg (by simp [hen, hst, hw', hck, ht, hl]), bootReady]
    simp only [Bool.not_eq_true']
    rfl
  · intro hno
    have ht : tylTrained s = false := by
      rw [Bool.eq_false_iff, ne_eq, tylTrained_iff]
      rintro ⟨hn, hcap⟩
      obtain hno | ⟨i, hi, hno⟩ := hno
      · rw [hn] at hno; cases hno
      · rw [hcap i hi] at hno; cases hno
    exact congrArg Host.Outcome.next (if_pos (by simp [ht]))

/-- Bytes of a number are as many as asked for. -/
theorem length_bytesOf (n x : Nat) : (bytesOf n x).length = n := by
  induction n generalizing x with
  | zero => rfl
  | succ n ih => rw [bytesOf, List.length_cons, ih]

theorem flitLayout_holds : FlitLayout := by
  intro f
  obtain ⟨b, hb⟩ : ∃ b, b = bytesOf 1 (f.typ % 16) ++ bytesOf 1 (f.dst % 64) ++ bytesOf 1 0 ++ bytesOf 1 f.seq ++ bytesOf 56 (flitLoad f) := ⟨_, rfl⟩
  have hlen : b.length = 60 := by simp only [hb, List.length_append, length_bytesOf]
  have hf : flitBytes f = b ++ bytesOf 4 (crc32 b) := hb ▸ rfl
  have htake : (flitBytes f).take 60 = b := by rw [hf, List.take_left' hlen]
  refine ⟨?_, rfl, rfl, rfl, rfl, ?_⟩
  · rw [hf, List.length_append, hlen, length_bytesOf]
  · rw [htake, hf, List.drop_left' hlen]

/-! ## TIME flits, loss and retraining -/

/-- Bringing device time forward leaves the link's registers (R86, R255, R286). -/
theorem rd_tylw_advanceTo (s : State) (t : Nat) {off : Nat} (ho : off < 0x1000) : rd (advanceTo s t) .tylw off = rd s .tylw off := by
  have hcount : ¬Counts .tylw off := by simp [Counts]
  unfold advanceTo
  split
  · rfl
  · exact (onlyCounts_counted s (s.dt - s.dtOff) (t - s.dtOff)).read .tylw off ho hcount

theorem tylTime_holds : TylTime := by
  intro s hst hck
  have hmem : tylMembers (advanceTo s ((s.dt + 65535) / 65536 * 65536)) = tylMembers s := by
    rw [tylMembers, rdF, rd_tylw_advanceTo s _ (by decide)]
    rfl
  refine congrArg Host.Outcome.next ?_
  rw [if_neg (by simp [hst, hck])]
  dsimp only
  rw [hmem]

theorem linkLoss_holds : LinkLoss :=
  fun _ hst hck => ⟨congrArg Host.Outcome.next (if_pos ⟨hst, hck⟩), rfl⟩

theorem retrain_holds : Retrain :=
  fun _ hst hen hgo hck => congrArg Host.Outcome.next (if_pos ⟨hst, hen, hgo, hck⟩)

/-! ## Remote port accesses and events -/

theorem tylPwr_holds : TylPwr := by
  intro s e n w ws hq hst hck hroom m l
  refine congrArg Host.Outcome.next ?_
  rw [hq]
  dsimp only
  rw [if_neg (by simp [hst, hck]), sendFlit_room hroom]

theorem tylPrdReq_holds : TylPrdReq := by
  intro s id x hx hst hck hroom
  refine congrArg Host.Outcome.next ?_
  rw [hx]
  dsimp only
  rw [if_neg (by simp [hst, hck]), sendFlit_room hroom]

theorem tylPrdRsp_holds : TylPrdRsp := by
  intro s id v x hx hst
  refine congrArg Host.Outcome.next ?_
  rw [hx]
  exact if_neg (by simp [hst])

theorem tylEvt_holds : TylEvt := by
  intro s l hst hck
  exact congrArg Host.Outcome.next (if_neg (by simp [hst, hck]))

/-! ## The remote register window -/

theorem tylRegReq_holds : TylRegReq := by
  intro s id x hx hsent hst hck hroom l
  refine congrArg Host.Outcome.next ?_
  rw [hx]
  dsimp only
  rw [if_neg (by simp [hsent, hst, hck]), sendFlit_room hroom]
  rfl

/-- The request that stands after another in a burst goes to the next register, from the same requester and of the same kind (R495). -/
theorem nextInBurst_spec {x y : TylReg} (h : nextInBurst x y = true) :
    y.req.addr = x.req.addr + 4 ∧ y.req.m = x.req.m ∧ y.req.attr = x.req.attr ∧ y.req.lvl = x.req.lvl ∧ y.req.data.isSome = x.req.data.isSome ∧ y.sent = false := by
  simpa [nextInBurst, and_assoc, and_comm, and_left_comm] using h

/-- A burst begins with its first request. -/
theorem regBurst_cons (s : State) (k : Nat) (x : TylReg) : ∃ l, regBurst s k x = x :: l := by
  cases k with
  | zero => exact ⟨[], rfl⟩
  | succ k => exact ⟨_, rfl⟩

/-- Each request of a burst after the first is the next one of the one before it. -/
theorem regBurst_chain (s : State) (k : Nat) (x : TylReg) (a b : TylReg) (l r : List TylReg) (h : regBurst s k x = l ++ a :: b :: r) :
    nextInBurst a b = true ∧ b ∈ s.tyl.regs := by
  induction k generalizing x l with
  | zero =>
    have := congrArg List.length h
    simp [regBurst] at this
    omega
  | succ k ih =>
    rw [regBurst] at h
    cases hf : s.tyl.regs.find? (nextInBurst x) with
    | none =>
      rw [hf] at h
      have := congrArg List.length h
      simp at this
      omega
    | some y =>
      rw [hf] at h
      obtain ⟨t, ht⟩ := regBurst_cons s k y
      cases l with
      | nil =>
        obtain ⟨rfl, htail⟩ := List.cons.inj h
        obtain rfl : y = b := (List.cons.inj (ht.symm.trans htail)).1
        exact ⟨List.find?_some hf, List.mem_of_find?_eq_some hf⟩
      | cons z l => exact ih y l (List.cons.inj h).2

theorem length_regBurst (s : State) (k : Nat) (x : TylReg) : (regBurst s k x).length ≤ k + 1 := by
  induction k generalizing x with
  | zero => exact Nat.le_refl _
  | succ k ih =>
    rw [regBurst, List.length_cons]
    split
    next y _ => exact Nat.succ_le_succ (ih y)
    next => exact Nat.succ_le_succ (Nat.zero_le _)

theorem burstRule_holds : BurstRule := by
  intro s k x
  obtain ⟨t, ht⟩ := regBurst_cons s k x
  refine ⟨length_regBurst s k x, by rw [ht]; rfl, fun a b l r h => ?_⟩
  obtain ⟨hnext, hmem⟩ := regBurst_chain s k x a b l r h
  obtain ⟨haddr, hm, hattr, hlvl, hdata, hsent⟩ := nextInBurst_spec hnext
  exact ⟨haddr, hm, hattr, hlvl, hdata, hsent, hmem⟩

theorem tylRegRsp_holds : TylRegRsp := by
  intro s id x kind data hx hsent hst
  refine congrArg Host.Outcome.next ?_
  rw [hx]
  exact if_neg (by simp [hsent, hst])

theorem regTimeout_holds : RegTimeout := by
  intro s id x hx f
  refine congrArg Host.Outcome.next ?_
  rw [hx]

/-! ## Members' memory requests -/

theorem memReq_holds : MemReq := by
  intro s m tag op len b7 addr data z hst hck hm hle a n l1 parts mk x
  refine congrArg Host.Outcome.next ?_
  rw [if_neg (by simp [hst, hck, hm, hle]), sendFlit_getD]

theorem memRsp_holds : MemRsp := by
  intro s m tag x hx hst hck hroom st
  refine congrArg Host.Outcome.next ?_
  rw [hx]
  dsimp only
  rw [if_neg (by simp [hst, hck]), sendFlit_room hroom]

theorem memberLost_holds : MemberLost := by
  intro s t x hmem hid hworst
  have hin : t.id ∈ x.ids := List.contains_iff_mem.1 hid
  simp [memberDone, hmem, hin, Nat.max_eq_right hworst]

/-- Settles O52: each clause is its guard and one change of the link's record; a burst by induction on its length. -/
theorem tylwenLink : Obligations.TylwenLink :=
  ⟨fun _ => rfl, tylAck_holds, tylAckNone_holds, flitReplay_holds, fun _ _ => rfl, tylReserved_holds, tylCap_holds, tylSilent_holds,
    tylEnum_holds, tylwenUp_holds, flitLayout_holds, tylTime_holds, linkLoss_holds, retrain_holds, tylPwr_holds, tylPrdReq_holds,
    tylPrdRsp_holds, tylEvt_holds, tylRegReq_holds, burstRule_holds, tylRegRsp_holds, regTimeout_holds, memReq_holds, memRsp_holds,
    memberLost_holds⟩

end Sys2Proof.Machine
end

section
/-!
PROOFS. O53: the PCIe controllers (R472 to R480, R502, R505).
-/

namespace Sys2Proof.Machine

open Sys2Proof.Claims

namespace SMap

theorem without_without {α : Type} (m : SMap α) (k : Nat) : without (without m k) k = without m k := by simp [without]

/-- A second write of a key that the first one listed replaces it. -/
theorem setF_setF {α : Type} [DecidableEq α] (d : Nat → α) (m : SMap α) (k : Nat) {v : α} (w : α) (hv : v ≠ d k) : setF d (setF d m k v) k w = setF d m k w := by
  induction m with
  | nil => simp [setF, hv, without]
  | cons e r ih =>
    obtain ⟨k', v'⟩ := e
    rcases Nat.lt_trichotomy k k' with hlt | heq | hgt
    · have hne : k' ≠ k := by omega
      simp [setF, hlt, hv, without, hne]
    · subst heq
      simp [setF, hv, without_without]
    · have hnl : ¬k < k' := by omega
      have hne : k ≠ k' := by omega
      simp [setF, hnl, hne, ih]

end SMap

/-- Two changes of a controller's record are one, where the first leaves it unlike its reset value. -/
theorem updPcie_updPcie (s : State) (c : Fin 4) (f g : Pcie → Pcie) (hf : f (pcie s c) ≠ {}) :
    updPcie (updPcie s c f) c g = updPcie s c fun p => g (f p) := by
  have hset : SMap.set {} (SMap.set {} s.pcies c (f (pcie s c))) c (g (f (pcie s c))) = SMap.set {} s.pcies c (g (f (pcie s c))) :=
    SMap.setF_setF _ _ _ _ hf
  have hget : SMap.get {} (SMap.set {} s.pcies c (f (pcie s c))) c = f (pcie s c) := SMap.get_set ..
  change { s with pcies := SMap.set {} (SMap.set {} s.pcies c (f (pcie s c))) c (g (SMap.get {} (SMap.set {} s.pcies c (f (pcie s c))) c)) } = _
  rw [hget, hset]
  rfl

/-! ## The link -/

theorem pcieLinkUp_holds : PcieLinkUp := by
  intro s c w g hen hst hck hw hg hg' hl v
  refine congrArg Host.Outcome.next ?_
  rw [if_pos ⟨hen, hst, hck, hw, hg, hg', hl⟩]
  by_cases hc : c = 0
  · subst hc
    dsimp only
    rw [if_pos rfl, bootReady]
    simp only [Bool.not_eq_true', true_and]
    rfl
  · dsimp only
    rw [if_neg hc, if_neg (fun h => hc h.1)]

theorem pcieLinkDown_holds : PcieLinkDown := by
  intro s c hst
  refine congrArg Host.Outcome.next ?_
  rw [if_pos hst]
  exact if_pos hst

/-! ## Outbound requests -/

section Outbound

variable {s : State} {c : Fin 4} {id off : Nat} {t : Txn}

/-- A request that may be sent on an up link (R476). -/
structure MaySend (s : State) (c : Fin 4) (id off : Nat) (t : Txn) : Prop where
  req : txn? s id = some t
  out : outOff s t.req.addr = some (c, off)
  transit : t.status = .transit
  oldest : behindSource s t = false

/-- What a request does that has come to its controller. -/
theorem execPcieOutboundRequest_of (h : MaySend s c id off t) :
    exec (.pcieOutboundRequest id) s = .next (if pceLink s c ≠ 2 then failTxn s t .asleep
      else if isEcam s c off = true ∧ off - 0x3F0000000 < 0x1000 then rootCfg s c t (off - 0x3F0000000)
      else
        let u := updPcie s c fun p => { p with sent := some (outTlp s c off t.req) }
        if t.req.op = .write ∧ (!isEcam s c off) = true then answerTxn u id false false 0
        else acceptTxn (updPcie u c fun p => { p with out := p.out ++ [(id, s.dt)] }) id) := by
  refine congrArg Host.Outcome.next ?_
  rw [h.req]
  dsimp only
  rw [h.out]
  exact if_neg (by simp [h.transit, h.oldest])

end Outbound

theorem pcieOutReads_holds : PcieOutReads := by
  intro s c id off t ht ho htr hb hl hroot hkind
  have hroot' : ¬ (isEcam s c off = true ∧ off - 0x3F0000000 < 0x1000) := by simpa using hroot
  have hkind' : ¬ (t.req.op = .write ∧ (!isEcam s c off) = true) := by
    rintro ⟨hw, hn⟩
    obtain h | h := hkind
    · exact h hw
    · simp [h] at hn
  rw [execPcieOutboundRequest_of ⟨ht, ho, htr, hb⟩, if_neg (not_not_intro hl), if_neg hroot']
  dsimp only
  rw [if_neg hkind', updPcie_updPcie _ _ _ _ (fun h => Option.some_ne_none _ (congrArg Pcie.sent h))]

theorem pcieOutWrites_holds : PcieOutWrites := by
  intro s c id off t ht ho htr hb hl hecam hw
  rw [execPcieOutboundRequest_of ⟨ht, ho, htr, hb⟩, if_neg (not_not_intro hl), if_neg (by simp [hecam])]
  exact congrArg Host.Outcome.next (if_pos ⟨hw, by rw [hecam]; rfl⟩)

theorem pcieOutAddr_holds : PcieOutAddr := by
  intro s c off q x
  refine ⟨fun h => ⟨h, if_neg (by simp [h])⟩, fun h => ⟨h, if_pos h⟩, rfl, fun h => ⟨decide_eq_true h, if_pos h⟩, fun h => decide_eq_false h, ?_⟩
  simp [isEcam]

theorem pcieOutRoot_holds : PcieOutRoot := by
  intro s c id off t ht ho htr hb hl hecam hroot
  rw [execPcieOutboundRequest_of ⟨ht, ho, htr, hb⟩, if_neg (not_not_intro hl), if_pos ⟨hecam, hroot⟩]

theorem pcieOutAsleep_holds : PcieOutAsleep := by
  intro s c id off t ht ho htr hb hl
  rw [execPcieOutboundRequest_of ⟨ht, ho, htr, hb⟩, if_pos hl]

theorem pcieCompletion_holds : PcieCompletion := by
  intro s c id data poison t hw ht
  have hg : ¬ (!outWaits s c id) = true := by simp [hw]
  have ht' : txn? (updPcie s c fun p => { p with out := p.out.filter fun e => decide (e.1 ≠ id) }) id = some t := ht
  refine ⟨congrArg Host.Outcome.next ?_, congrArg Host.Outcome.next ?_, congrArg Host.Outcome.next ?_⟩
  · rw [if_neg hg, if_neg (not_not_intro rfl)]
    dsimp only
    rw [ht']
  · rw [if_neg hg]
    exact if_pos (by decide)
  · rw [if_neg hg]
    exact if_pos (by decide)

theorem pcieTimeout_holds : PcieTimeout := fun _ _ _ hw => congrArg Host.Outcome.next (if_pos hw)

theorem pcieCplErr_holds : PcieCplErr := by
  intro s c id off t ht ho
  have ht' : txn? (updPcie s c fun p => { p with out := p.out.filter fun e => decide (e.1 ≠ id) }) id = some t := ht
  have ho' : outOff (updPcie s c fun p => { p with out := p.out.filter fun e => decide (e.1 ≠ id) }) t.req.addr = some (c, off) := ho
  unfold cplErr
  dsimp only
  rw [ht']
  dsimp only
  rw [ho']
  rfl

end Sys2Proof.Machine
end

section
/-!
PROOFS. O53: inbound requests of a PCIe controller, the boot BARs and MSI (R136, R475 to R479, R505, R537).
-/

namespace Sys2Proof.Machine

open Sys2Proof.Claims

/-! ## What an inbound request meets, in order -/

/-- A write in the MSI window of a root complex (R505). -/
def inMsi (s : State) (c : Fin 4) (isW : Bool) (addr : BitVec 64) : Bool :=
  !rdB s (.pce c) 0x040 1 && isW && decide (0xE0000000 ≤ addr.toNat) && decide (addr.toNat < 0xE0001000)

section Inbound

variable {s : State} {c : Fin 4} {isW : Bool} {key : BitVec 16} {fn : Fin 4} {bar2 : Bool} {addr : BitVec 64} {len : Fin 4097} {data : Nat}
  {poison : Bool}

/-- A request that reaches its controller is not turned away. -/
theorem inbound_goes (h : InReach s c isW len) :
    ¬ ((!rdB s (.pce c) 0x040 0) = true ∨ pceLink s c ≠ 2 ∨ len.val = 0 ∨ (isW && decide (512 < len.val)) = true ∨ (!clocksOn s) = true ∨
      blkBusy s (.pce c) = true ∨ (gated s (owner s (.pce c)) && !inMsi s c isW addr) = true) := by
  obtain ⟨hen, hl, hlen, hw, hck, hbusy, hgate⟩ := h
  simp only [Bool.and_eq_true, decide_eq_true_eq, hen, hl, hck, hbusy, hgate]
  rintro (h | h | h | ⟨hisW, h⟩ | h | h | ⟨h, -⟩)
  · cases h
  · exact h rfl
  · exact hlen h
  · exact absurd (hw hisW) (by omega)
  · cases h
  · cases h
  · cases h

/-- What a request that reaches its controller does where its data is good. -/
theorem inbound_good (h : InReach s c isW len) (hp : isW = false ∨ poison = false) :
    exec (.pcieInboundRequest c isW key fn bar2 addr len data poison) s = .next (
      if c = 0 ∧ bootPcie s = true ∧ s.sage.phase ≠ .done then
        (if fn ≠ 0 ∨ (if bar2 = true then 2 ^ 12 else 2 ^ 23) < addr.toNat + len then pciAnswer s 0 (if isW = true then .dropped else .ur)
         else if isW = true then bootBarWrite s bar2 addr.toNat len data
         else bootRead s bar2 addr.toNat len)
      else if inMsi s c isW addr = true then msiWrite s c (addr.toNat % 0x1000) len data
      else if rdB s (.pce c) 0x040 1 = true ∧ bar2 = true then msixAccess s c fn isW key.toNat addr.toNat len data
      else match pceMatch s c (if rdB s (.pce c) 0x040 1 = true then fn.val else key.toNat) with
        | none => noMap s c isW true key.toNat
        | some n =>
          match pceAddr s c fn addr.toNat len with
          | none => noMap s c isW false key.toNat
          | some b => pcePost s c isW b len data (rdF s (.pce c) (0x080 + 4 * n) 16 14)) := by
  refine congrArg Host.Outcome.next ((if_neg (inbound_goes h)).trans ((if_neg ?_).trans rfl))
  rintro ⟨hw, hpo⟩
  obtain h | h := hp
  · rw [h] at hw; cases hw
  · rw [h] at hpo; cases hpo

/-- A request of a mapping goes to the map's entry where no boot, no MSI window and no MSI-X table takes it. -/
theorem inbound_mapped (h : InReach s c isW len) (hp : isW = false ∨ poison = false) (hboot : ¬ (c = 0 ∧ bootPcie s = true ∧ s.sage.phase ≠ .done))
    (hmsi : inMsi s c isW addr = false) (hbar : rdB s (.pce c) 0x040 1 = false ∨ bar2 = false) :
    exec (.pcieInboundRequest c isW key fn bar2 addr len data poison) s = .next (
      match pceMatch s c (if rdB s (.pce c) 0x040 1 = true then fn.val else key.toNat) with
        | none => noMap s c isW true key.toNat
        | some n =>
          match pceAddr s c fn addr.toNat len with
          | none => noMap s c isW false key.toNat
          | some b => pcePost s c isW b len data (rdF s (.pce c) (0x080 + 4 * n) 16 14)) := by
  have hbar' : ¬ (rdB s (.pce c) 0x040 1 = true ∧ bar2 = true) := by
    rintro ⟨h1, h2⟩
    obtain h | h := hbar
    · rw [h] at h1; cases h1
    · rw [h] at h2; cases h2
  rw [inbound_good h hp, if_neg hboot, if_neg (by simp [hmsi]), if_neg hbar']

/-- A request that is no write in the MSI window (R505). -/
theorem inMsi_eq_false (h : rdB s (.pce c) 0x040 1 = true ∨ isW = false ∨ addr.toNat < 0xE0000000 ∨ 0xE0001000 ≤ addr.toNat) :
    inMsi s c isW addr = false := by
  rw [Bool.eq_false_iff]
  simp only [inMsi, ne_eq, Bool.and_eq_true, decide_eq_true_eq, Bool.not_eq_true']
  rintro ⟨⟨⟨hep, hw⟩, hlo⟩, hhi⟩
  obtain h | h | h | h := h
  · rw [h] at hep; cases hep
  · rw [h] at hw; cases hw
  · omega
  · omega

end Inbound

theorem pcieInPoison_holds : PcieInPoison := by
  intro s c key fn bar2 addr len data h
  exact congrArg Host.Outcome.next ((if_neg (inbound_goes (addr := addr) h)).trans (if_pos ⟨rfl, rfl⟩))

theorem pcieInGated_holds : PcieInGated := by
  intro s c isW key fn bar2 addr len data poison hg
  constructor
  · intro h
    exact congrArg Host.Outcome.next (if_pos (.inr (.inr (.inr (.inr (.inr (.inr (by rw [hg]; exact congrArg (!·) (inMsi_eq_false h)))))))))
  · intro hen hl hck hbusy hlen hlen' hboot hep hlo hhi
    have hmsi : inMsi s c true addr = true := by simp [inMsi, hep, hlo, hhi]
    refine congrArg Host.Outcome.next ((if_neg ?_).trans ((if_neg (by simp)).trans ((if_neg hboot).trans (if_pos hmsi))))
    change ¬ (_ ∨ _ ∨ _ ∨ _ ∨ _ ∨ _ ∨ (gated s (owner s (.pce c)) && !inMsi s c true addr) = true)
    simp [hen, hl, hck, hbusy, hlen, hlen', hmsi]

/-- A requester ID has 16 bits. -/
theorem noMap_key (s : State) (c : Fin 4) (isW aer : Bool) (key : BitVec 16) :
    noMap s c isW aer key.toNat =
      recInternal (if aer = true then aerErr (pciAnswer s c (if isW = true then .dropped else .ur)) c 0
        else pciAnswer s c (if isW = true then .dropped else .ur)) (.pce c) 0x82 key.toNat := by
  unfold noMap
  rw [Nat.mod_eq_of_lt key.isLt]

theorem pcieInMapped_holds : PcieInMapped := by
  intro s c isW key fn bar2 addr len data poison n b h hboot hp hmsi hbar hmatch haddr
  rw [inbound_mapped h hp hboot (inMsi_eq_false hmsi) hbar, hmatch]
  dsimp only
  rw [haddr]

theorem pcieInUnmapped_holds : PcieInUnmapped := by
  intro s c isW key fn bar2 addr len data poison h hboot hp hmsi hbar hmatch
  rw [inbound_mapped h hp hboot (inMsi_eq_false hmsi) hbar, hmatch]
  dsimp only
  rw [noMap_key, if_pos rfl]

theorem pcieInOutside_holds : PcieInOutside := by
  intro s c isW key fn addr len data n h hboot hmatch out
  have hlen : len.val ≤ 4096 := by omega
  have hgo (hmsi : inMsi s c isW addr = false) (haddr : pceAddr s c fn addr.toNat len = none) :
      exec (.pcieInboundRequest c isW key fn false addr len data false) s = .next out := by
    rw [inbound_mapped h (.inr rfl) hboot hmsi (.inr rfl), hmatch]
    dsimp only
    rw [haddr]
    exact congrArg Host.Outcome.next (noMap_key ..)
  refine ⟨fun hep hover => hgo (inMsi_eq_false (by omega)) ?_, fun hep hover => hgo (inMsi_eq_false (.inl hep)) ?_⟩
  · rw [pceAddr, if_pos (by simp [hep]), if_neg (by omega)]
  · rw [pceAddr, if_neg (by simp [hep])]
    exact if_pos hover

theorem pcieInMsix_holds : PcieInMsix := by
  intro s c key fn addr len data hboot hep
  have hgo {isW : Bool} (h : InReach s c isW len) : exec (.pcieInboundRequest c isW key fn true addr len data false) s =
      .next (msixAccess s c fn isW key.toNat addr.toNat len data) := by
    rw [inbound_good h (.inr rfl), if_neg hboot, if_neg (by simp [inMsi_eq_false (.inl hep)]), if_pos ⟨hep, rfl⟩]
  refine ⟨fun h hfn => ?_, fun h hfn hin => ?_, fun h hfn hin => ?_⟩
  · rw [hgo h, msixAccess, if_pos (.inl hfn)]
  · rw [hgo h, msixAccess, if_neg (by omega), if_neg (by decide)]
  · rw [hgo h, msixAccess, if_neg (by omega), if_pos rfl]

theorem msixBytes_holds : MsixBytes := by
  intro s c fn g o p v ho hp u
  have hput : (pcie u c).msix = SMap.setF msixReset (pcie s c).msix (1024 * fn.val + o)
      ((msixByte s c fn o &&& ~~~msixMask o) ||| (v &&& msixMask o)) := by
    change (pcie (msixPut c fn s (o, v)) c).msix = _
    rw [msixPut, if_pos ho]
    exact congrArg Pcie.msix (pcie_updPcie ..)
  constructor
  · rw [msixByte, if_pos ho, hput, SMap.getF_setF]
  · intro hne
    have hkey : 1024 * g.val + p ≠ 1024 * fn.val + o := by
      intro heq
      obtain h | h := hne
      · exact h (Fin.ext (by omega))
      · omega
    rw [msixByte, msixByte, if_pos hp, if_pos hp, hput, SMap.getF_setF_other _ _ _ hkey]

/-! ## The boot BARs and MSI -/

theorem pcieInBoot_holds : PcieInBoot := by
  intro s isW key fn bar2 addr len data h hb hph size
  have hgo : exec (.pcieInboundRequest 0 isW key fn bar2 addr len data false) s = .next (
      if fn ≠ 0 ∨ size < addr.toNat + len then pciAnswer s 0 (if isW = true then .dropped else .ur)
      else if isW = true then bootBarWrite s bar2 addr.toNat len data else bootRead s bar2 addr.toNat len) := by
    rw [inbound_good h (.inr rfl), if_pos ⟨rfl, hb, hph⟩]
  have hin (hfn : fn = 0) (hsize : addr.toNat + len.val ≤ size) : ¬ (fn ≠ 0 ∨ size < addr.toNat + len.val) := by
    rintro (h | h)
    · exact h hfn
    · omega
  refine ⟨fun hout => by rw [hgo, if_pos hout], fun hfn hsize hw => ?_, fun hfn hsize hr => by rw [hgo, if_neg (hin hfn hsize), if_neg (by simp [hr])]⟩
  rw [hgo, if_neg (hin hfn hsize), if_pos hw, bootBarWrite]
  refine congrArg Host.Outcome.next ?_
  cases bar2 with
  | false => rfl
  | true =>
    by_cases h4 : len.val = 4
    · simp [h4]
    · simp [h4]

theorem msiRow_holds : MsiRow := by
  intro s c off len data hen hl hep hck hbusy hlen
  exact congrArg Host.Outcome.next (if_pos ⟨hen, hl, by rw [hep]; rfl, hck, by rw [hbusy]; rfl, hlen⟩)

end Sys2Proof.Machine
end

section
/-!
PROOFS. O53: the Ethernet MACs (R472, R473, R481 to R488).
-/

namespace Sys2Proof.Machine

open Sys2Proof.Claims

/-! ## Transmission -/

/-- A live MAC with a good stamp carries frames. -/
theorem eth_goes {s : State} {m : Fin 8} {x : Nat} (hl : ethLive s m = true) (hs : stampOk s x = true) :
    ¬ ((!ethLive s m) = true ∨ (!stampOk s x) = true) := by simp [hl, hs]

/-- A class without a frame to replicate and without one that may start is passed over. -/
theorem txTry_pass {s : State} {m : Fin 8} {q : Nat} (hready : classReady s m q = false) (hrep : repHead s m q = none) (stamp : Nat) (env : MemEnv)
    (qs : List Nat) : txTry m stamp env (q :: qs) s = txTry m stamp env qs s := by
  rw [txTry, hrep, if_neg (by simp), if_pos (by simp [hready])]

theorem ethTx_holds : EthTx := by
  intro s m stamp env hl hs hnow hrest
  refine ⟨congrArg Host.Outcome.next ?_, fun q qs hready hrep => txTry_pass hready hrep _ _ _⟩
  rw [if_neg (eth_goes hl hs), hnow]
  exact if_pos (by rw [hrest]; rfl)

theorem ethTxBusy_holds : EthTxBusy := by
  intro s m stamp env l hl hs hnow
  refine ⟨fun hcut => congrArg Host.Outcome.next ?_, fun hcut => congrArg Host.Outcome.next ?_⟩
  · rw [if_neg (eth_goes hl hs), hnow]
    exact if_neg (by simp [hcut])
  · rw [if_neg (eth_goes hl hs), hnow]
    exact if_pos (Option.isSome_iff_ne_none.2 hcut)

/-- A frame is cut only where it is preemptable, after the least fragment, and with enough left (R486). -/
theorem fragCut_spec {s : State} {m : Fin 8} {l : LaneTx} {c : Nat} (h : fragCut s m l = some c) :
    l.pre = true ∧ 64 * (rdF s (.eth m) 0x040 16 2 + 1) ≤ c ∧ c + 60 ≤ l.bytes.length := by
  unfold fragCut at h
  dsimp only at h
  split at h
  next hif =>
    obtain rfl := Option.some.inj h
    exact ⟨hif.1, Nat.le_max_left .., hif.2⟩
  next => cases h

theorem ethPreempts_holds : EthPreempts := by
  intro s m pre f l c hnow hcut
  obtain ⟨hpre, hleast, hleft⟩ := fragCut_spec hcut
  refine ⟨?_, hpre, hleast, by omega⟩
  rw [startFrame, hnow, Option.bind_some, hcut]
  rfl

theorem ethResumes_holds : EthResumes := by
  intro s m stamp env f hl hs hnow hrest t hlane hrest'
  refine congrArg Host.Outcome.next ?_
  rw [if_neg (eth_goes hl hs), hnow]
  dsimp only
  rw [if_neg (by simp [hrest])]
  refine (if_pos hlane).trans ?_
  change resumeRest t m = _
  rw [resumeRest, hrest']

theorem ethLane_holds : EthLane := by
  intro s m pre f u
  exact ⟨congrArg EthMac.sent (mac_updMac ..), congrArg EthMac.loop (mac_updMac ..)⟩

/-- An access that succeeded gave its state and bytes. -/
theorem eq_ok_of_busOk {r : BusRes} {u : State} {d : List Byte} (h : busOk r = some (u, d)) : r = .ok u d := by
  cases r with
  | ok s l => obtain ⟨rfl, rfl⟩ := Prod.mk.inj (Option.some.inj h); rfl
  | wait s => cases h
  | err s a => cases h

theorem ethTxServed_holds : EthTxServed := by
  intro s m stamp q qs env u d hrep hready hget hown
  have hserve : txTry m stamp env (q :: qs) s =
      if txBad d = true then txBack u m q d 1 none env
      else
        let len := byteF d 8 2
        let cb := bitN (byteF d 10 1) 2 && ((cbEntry u m (byteF d 11 1)).map fun e => decide (e.func % 2 = 1)).getD false
        if (!fitsGate u m q (if cb = true then len + 6 else len)) = true then txTry m stamp env qs u
        else match ethGet u m (byteF d 0 6) len env with
          | .wait s => .error s
          | .err s a => (txBack s m q d 2 none env).map fun s => ringStop s m false q a
          | .ok s f => (txBack s m q d 0 (if bitN (byteF d 10 1) 1 = true then some stamp else none) env).map fun s => sendFrame s m q d f := by
    rw [txTry, hrep, if_neg (by simp), if_neg (by simp [hready]), eq_ok_of_busOk hget]
    exact if_neg (by simp [hown])
  refine ⟨fun hbad => by rw [hserve, if_pos hbad], fun hgood hplain hfits v f hf => ?_⟩
  rw [hserve, if_neg (by simp [hgood])]
  dsimp only
  rw [hplain, Bool.false_and, if_neg (by simp [hfits]), eq_ok_of_busOk hf]
  refine congrArg (Except.map · _) (funext fun w => ?_)
  rw [sendFrame, hplain]
  rfl

theorem ethReplicas_holds : EthReplicas := by
  intro s m stamp q qs env g may
  refine ⟨fun hdead => ?_, fun hlive => ?_, fun hrep => ?_, rfl⟩
  · rw [replicate, if_pos (by simp [hdead])]
  · rw [replicate, if_neg (by simp [hlive])]
    refine if_congr ?_ rfl rfl
    simp only [may, Bool.and_eq_true]
    tauto
  · rw [txTry, hrep]
    exact if_pos rfl

/-! ## Reception -/

theorem ethRx_holds : EthRx := by
  intro s w m f stamp env hl hf hs htake q st r u v
  refine congrArg Host.Outcome.next ?_
  rw [if_neg (by simp [hl, hf, hs]), htake]
  change rxArrive m f stamp env w = _
  unfold rxArrive
  exact ite_cond_congr (Bool.not_eq_true' r.2)

theorem ethTakes_holds : EthTakes := by
  intro s m f
  refine ⟨fun h => ?_, fun h => ?_, fun h => ?_⟩ <;> rw [laneTake, h] <;> rfl

theorem ethIdle_holds : EthIdle := by
  intro s m f stamp env h
  have hoff : ethLive s m = false ∨ stampOk s stamp.toNat = false := by
    refine h.imp_left fun hidle => ?_
    rw [ethLive, hidle, Bool.and_false]
  exact ⟨congrArg Host.Outcome.next (if_pos (by simpa using hoff)), congrArg Host.Outcome.next (if_pos (by simpa using hoff.imp_right .inr))⟩

theorem ethRecover_holds : EthRecover := by
  intro x hist seq d
  refine ⟨fun ht => ?_, fun ht hout => ?_, fun ht hlo hhi hseen => ?_, fun ht hlo hhi => ?_⟩
  · rw [recover, if_pos ht]
  · rw [recover, if_neg (by simp [ht])]
    exact if_pos hout
  · rw [recover, if_neg (by simp [ht])]
    exact (if_neg (by omega)).trans ((if_pos hhi).trans (if_pos hseen))
  · rw [recover, if_neg (by simp [ht])]
    exact (if_neg (by omega)).trans (if_neg (by omega))

/-! ## Link changes -/

theorem ethLinkChange_holds : EthLinkChange := by
  intro s m up speed hen hck hmode
  refine ⟨congrArg Host.Outcome.next ?_, fun hon => congrArg Host.Outcome.next ?_, fun hoff => congrArg Host.Outcome.next ?_, rfl⟩
  · rw [if_neg (by simp [hen, hck])]
    rfl
  · rw [if_neg (by simp [hen, hck, hon])]
    exact (if_neg (by decide)).trans (if_pos hmode)
  · exact if_pos (by simp [hoff])

/-! ## Gate lists and holds -/

theorem gclTakeover_holds : GclTakeover := by
  intro s m g hck hp
  refine congrArg Host.Outcome.next ?_
  rw [if_neg (by simp [hck]), hp]

theorem gateEntry_holds : GateEntry := by
  intro s m g hck hg n
  refine congrArg Host.Outcome.next ?_
  rw [if_neg (by simp [hck]), hg]

theorem holdCuts_holds : HoldCuts := by
  intro s m l
  refine ⟨fun h => ?_, fun hnow hcut => ?_, fun c hhold hnow hcut => ?_⟩
  · unfold holdCut
    split
    · rfl
    next hh =>
      obtain h | h := h
      · simp [h] at hh
      · rw [h]; rfl
  · rw [holdCut, hnow, Option.bind_some, hcut]
    exact ite_self s
  · rw [holdCut, if_neg (by simp [hhold]), hnow, Option.bind_some, hcut]
    rfl

/-- Without a running list a class closes at the start of the pending one, or in it where its first entry opens the class (R485). -/
theorem gateClose_pending (q st : Nat) (h : Gcl) :
    gateClose q none (some (st, h)) = if bitN (entryOf h 0).1 q = true then gateShut q h st 0 else some st := rfl

theorem ethGate_holds : EthGate := by
  intro s m q n st h hsched hrun hpend hst
  have hfits : fitsGate s m q n = (if bitN (entryOf h 0).1 q = true then gateShut q h st 0 else some st).all fun t => decide (syntNs s + frameNs s m n ≤ t) := by
    simp only [fitsGate, hrun, hpend, hst, hsched, Option.map_none, Option.map_some, gateClose_pending, Bool.not_true, Bool.false_or]
  refine ⟨fun hshut => ?_, fun hopen => ?_⟩
  · rw [hfits, if_neg (by simp [hshut]), Option.all_some]
  · rw [hfits, if_pos hopen]

theorem streamTimeout_holds : StreamTimeout := by
  intro s i hexp hck x
  exact congrArg Host.Outcome.next (if_neg (by simp [hexp, hck]))

theorem preempt_holds : Preempt := fun _ _ _ h => congrArg Host.Outcome.next (if_pos h)

/-- Settles O53: each clause is its guard and the branch that it leaves. -/
theorem pcieAndEthernet : Obligations.PcieAndEthernet :=
  ⟨pcieLinkUp_holds, pcieLinkDown_holds, pcieOutReads_holds, pcieOutWrites_holds, pcieOutAddr_holds, pcieOutRoot_holds, pcieOutAsleep_holds,
    pcieCompletion_holds, pcieTimeout_holds, pcieCplErr_holds, pcieInPoison_holds, pcieInGated_holds, pcieInMapped_holds, pcieInUnmapped_holds,
    pcieInOutside_holds, pcieInMsix_holds, msixBytes_holds, pcieInBoot_holds, msiRow_holds, ethTx_holds, ethTxBusy_holds, ethPreempts_holds,
    ethResumes_holds, ethLane_holds, ethTxServed_holds, ethReplicas_holds, ethRx_holds, ethTakes_holds, ethIdle_holds, ethRecover_holds,
    ethLinkChange_holds, gclTakeover_holds, gateEntry_holds, holdCuts_holds, ethGate_holds, streamTimeout_holds, preempt_holds⟩

end Sys2Proof.Machine
end
